-- ==== Sys2Proof/Word.lean ====
section
/-! DEFINITION. The word and byte types of the block: registers are 32 bits wide (R8). -/

namespace Sys2Proof

/-- A register word (R8). -/
abbrev Word := BitVec 32

/-- A byte of memory or of a frame. -/
abbrev Byte := BitVec 8

end Sys2Proof
end

