-- ==== Sys2Proof/Machine/Regs.lean ====
section
/-! DEFINITION. The register map: every register and field of the block pages, written from the register tables
of the chapters of spec/ (the rule that gives each page is named at its heading), the page table of R480, and the
access masks and reset word of every register (R9, R487). -/

namespace Sys2Proof.Machine

/-- A register field: the byte address of its register, its lowest bit and its width. -/
structure Fld where
  addr : Nat
  lo : Nat
  w : Nat
  deriving DecidableEq, Repr

/-- The kinds of register page of R480. -/
inductive PageKind where
  | sys | clk | pll | pwr | aon | thm | mem | icx | dma | mpu | intc | tbs | modc | modch | lpw | trp | grn | dsv | lex | leg | mcx | adc | pair | blk | lane | trl | stl | can | eth | saf | sec | nvl | pin
  deriving DecidableEq, Repr

/-- One row of the page table of R480. -/
structure PageRow where
  kind : PageKind
  base : Nat
  count : Nat
  type : Nat
  en : Nat
  line : Nat
  deriving DecidableEq, Repr

/-- The page table of R480. -/
def pageTable : List PageRow := [
  ⟨.sys, 0x40000000, 1, 0x1, 1, 0⟩,
  ⟨.clk, 0x40010000, 1, 0x2, 1, 1⟩,
  ⟨.pll, 0x40011000, 3, 0x3, 1, 2⟩,
  ⟨.pwr, 0x40020000, 1, 0x4, 1, 5⟩,
  ⟨.aon, 0x40030000, 1, 0x5, 1, 6⟩,
  ⟨.thm, 0x40040000, 1, 0x6, 1, 7⟩,
  ⟨.mem, 0x40050000, 1, 0x7, 1, 8⟩,
  ⟨.icx, 0x40060000, 1, 0x8, 1, 9⟩,
  ⟨.dma, 0x40070000, 1, 0x9, 1, 10⟩,
  ⟨.mpu, 0x40080000, 1, 0xA, 1, 11⟩,
  ⟨.intc, 0x400A0000, 1, 0xB, 1, 12⟩,
  ⟨.tbs, 0x40100000, 1, 0x10, 1, 13⟩,
  ⟨.modc, 0x40110000, 1, 0x11, 1, 14⟩,
  ⟨.modch, 0x40111000, 12, 0x12, 1, 15⟩,
  ⟨.lpw, 0x40120000, 1, 0x13, 1, 27⟩,
  ⟨.trp, 0x40130000, 1, 0x14, 1, 28⟩,
  ⟨.grn, 0x40140000, 1, 0x15, 1, 29⟩,
  ⟨.dsv, 0x40150000, 1, 0x16, 1, 30⟩,
  ⟨.lex, 0x40200000, 16, 0x20, 0, 31⟩,
  ⟨.leg, 0x40300000, 12, 0x30, 0, 47⟩,
  ⟨.mcx, 0x40310000, 1, 0x31, 1, 59⟩,
  ⟨.adc, 0x40400000, 1, 0x40, 1, 60⟩,
  ⟨.pair, 0x40401000, 8, 0x41, 0, 61⟩,
  ⟨.blk, 0x40500000, 1, 0x50, 1, 69⟩,
  ⟨.lane, 0x40501000, 48, 0x51, 1, 70⟩,
  ⟨.trl, 0x40600000, 1, 0x60, 1, 118⟩,
  ⟨.stl, 0x40610000, 1, 0x61, 1, 119⟩,
  ⟨.can, 0x40700000, 4, 0x70, 0, 120⟩,
  ⟨.eth, 0x40710000, 2, 0x71, 0, 124⟩,
  ⟨.saf, 0x40800000, 1, 0x80, 1, 126⟩,
  ⟨.sec, 0x40900000, 1, 0x90, 1, 127⟩,
  ⟨.nvl, 0x40A00000, 1, 0xA0, 1, 128⟩,
  ⟨.pin, 0x40B00000, 1, 0xB0, 1, 129⟩]

/-- One register of a page kind: its offset, how many there are and their spacing, the masks of its writable bits
by access type (`cz` marks counts that only a write of 0 clears, R9), and its reset word. -/
structure RegRow where
  off : Nat
  n : Nat
  stride : Nat
  rw : Nat
  rwl : Nat
  w1c : Nat
  w1s : Nat
  wo : Nat
  cz : Nat
  reset : Nat
  deriving DecidableEq, Repr

/-- The block registers of the SYS page. -/
def rowsSYS : List RegRow := [
]

/-- The block registers of the CLK page. -/
def rowsCLK : List RegRow := [
  ⟨0x40, 1, 0, 0x0, 0x0, 0x0, 0x0, 0x0, 0x0, 0x3DFF⟩,
  ⟨0x44, 1, 0, 0xFFFF, 0x0, 0x0, 0x0, 0x0, 0x0, 0x0⟩,
  ⟨0x48, 1, 0, 0x0, 0x0, 0xFFFF, 0x0, 0x0, 0x0, 0x0⟩]

/-- The block registers of the PLL page. -/
def rowsPLL : List RegRow := [
  ⟨0x40, 1, 0, 0x0, 0x3FF7F, 0x0, 0x0, 0x0, 0x0, 0x1⟩,
  ⟨0x44, 1, 0, 0x0, 0xFFFFF, 0x0, 0x0, 0x0, 0x0, 0x0⟩,
  ⟨0x48, 1, 0, 0x0, 0x1FFFFF, 0x0, 0x0, 0x0, 0x0, 0x10014⟩,
  ⟨0x4C, 1, 0, 0x0, 0x0, 0x0, 0x0, 0x0, 0xFF00, 0x0⟩,
  ⟨0x60, 8, 4, 0x0, 0x7FFF, 0x0, 0x0, 0x0, 0x0, 0x0⟩]

/-- The block registers of the PWR page. -/
def rowsPWR : List RegRow := [
  ⟨0x40, 1, 0, 0x0, 0x0, 0x0, 0x0, 0x7, 0x0, 0x0⟩,
  ⟨0x44, 1, 0, 0x0, 0x0, 0x200, 0x0, 0x0, 0x0, 0x100⟩,
  ⟨0x48, 1, 0, 0x0, 0x0, 0x0, 0x0, 0xFF03, 0x0, 0x0⟩,
  ⟨0x4C, 1, 0, 0x0, 0xFFFF0000, 0x0, 0x0, 0x0, 0x0, 0x5DC0000⟩,
  ⟨0x50, 1, 0, 0x0, 0x0, 0x0, 0x0, 0x0, 0x0, 0x0⟩]

/-- The block registers of the AON page. -/
def rowsAON : List RegRow := [
  ⟨0x40, 1, 0, 0xFF7F, 0x0, 0x0, 0x0, 0x0, 0x0, 0x0⟩,
  ⟨0x44, 1, 0, 0x0, 0x0, 0xFFFF, 0x0, 0x0, 0x0, 0x0⟩,
  ⟨0x48, 1, 0, 0xFFFFFFFF, 0x0, 0x0, 0x0, 0x0, 0x0, 0x0⟩,
  ⟨0x4C, 1, 0, 0x0, 0x0, 0x0, 0x0, 0x0, 0x0, 0x0⟩,
  ⟨0x50, 1, 0, 0xFFFFFFFF, 0x0, 0x0, 0x0, 0x0, 0x0, 0x0⟩,
  ⟨0x54, 1, 0, 0x0, 0x0, 0x0, 0x0, 0x0, 0xFFFFFFFF, 0x0⟩,
  ⟨0x60, 8, 4, 0xFFFFFFFF, 0x0, 0x0, 0x0, 0x0, 0x0, 0x0⟩]

/-- The block registers of the THM page. -/
def rowsTHM : List RegRow := [
  ⟨0x40, 1, 0, 0x0, 0xFF, 0x0, 0x0, 0x0, 0x0, 0x78⟩,
  ⟨0x44, 1, 0, 0x0, 0x0, 0x0, 0x0, 0x0, 0x0, 0x0⟩,
  ⟨0x48, 14, 4, 0x0, 0x0, 0x0, 0x0, 0x0, 0x0, 0x0⟩,
  ⟨0x80, 1, 0, 0x0, 0x0, 0x0, 0x0, 0x0, 0x0, 0x0⟩,
  ⟨0x84, 1, 0, 0x0, 0x0, 0x0, 0x0, 0x0, 0x0, 0x0⟩,
  ⟨0x88, 1, 0, 0x0, 0x0, 0x0, 0x0, 0x0, 0x0, 0x0⟩,
  ⟨0x8C, 1, 0, 0x0, 0x0, 0x0, 0x0, 0x0, 0x0, 0x0⟩,
  ⟨0x90, 1, 0, 0x0, 0x0, 0x0, 0x0, 0x0, 0x0, 0x0⟩,
  ⟨0x94, 1, 0, 0x0, 0x0, 0x0, 0x0, 0x0, 0x0, 0x0⟩]

/-- The block registers of the MEM page. -/
def rowsMEM : List RegRow := [
  ⟨0x40, 1, 0, 0x0, 0x3FFFFFF1, 0x0, 0x0, 0x0, 0x0, 0x25804001⟩,
  ⟨0x44, 1, 0, 0x0, 0xFFFFF, 0x0, 0x0, 0x0, 0x0, 0xFFFFF⟩,
  ⟨0x48, 1, 0, 0x0, 0x0, 0x0, 0x0, 0x0, 0xFFFFFFFF, 0x0⟩,
  ⟨0x4C, 1, 0, 0x0, 0xFFFFFFFF, 0x0, 0x0, 0x0, 0x0, 0x4003E8⟩,
  ⟨0x50, 1, 0, 0x0, 0x0, 0x0, 0x0, 0x0, 0xFFFF0000, 0x0⟩,
  ⟨0x54, 1, 0, 0x0, 0x0, 0x0, 0x0, 0x0, 0xFFFFFFFF, 0x0⟩,
  ⟨0x58, 1, 0, 0x0, 0x0, 0x0, 0x0, 0x0, 0x0, 0x0⟩,
  ⟨0x5C, 1, 0, 0x0, 0x0, 0x0, 0x0, 0x0, 0x0, 0x0⟩,
  ⟨0x60, 1, 0, 0x0, 0x0, 0x0, 0x0, 0x0, 0x0, 0x0⟩,
  ⟨0x64, 1, 0, 0x0, 0x0, 0x0, 0x0, 0x0, 0x0, 0x0⟩,
  ⟨0x68, 1, 0, 0x0, 0x0, 0x0, 0x0, 0x0, 0x0, 0x0⟩,
  ⟨0x6C, 1, 0, 0x0, 0x0, 0x0, 0x0, 0x0, 0x0, 0x0⟩,
  ⟨0x70, 1, 0, 0x0, 0x0, 0x0, 0x0, 0x0, 0xFFFFFFFF, 0x0⟩,
  ⟨0x74, 1, 0, 0x0, 0x0, 0x0, 0x0, 0x83FFFFFF, 0x0, 0x0⟩,
  ⟨0x78, 1, 0, 0x1FFF, 0x0, 0x0, 0x0, 0x0, 0x0, 0x0⟩,
  ⟨0x7C, 1, 0, 0x1FF, 0x0, 0x0, 0x0, 0x0, 0x0, 0x0⟩,
  ⟨0x80, 1, 0, 0xFFFFFFFF, 0x0, 0x0, 0x0, 0x0, 0x0, 0x0⟩,
  ⟨0x84, 1, 0, 0xFFFFFFFF, 0x0, 0x0, 0x0, 0x0, 0x0, 0x0⟩,
  ⟨0x88, 1, 0, 0xFF, 0x0, 0x0, 0x0, 0x0, 0x0, 0x0⟩,
  ⟨0x8C, 1, 0, 0x0, 0x0, 0x0, 0x0, 0x3, 0x0, 0x0⟩,
  ⟨0x90, 1, 0, 0x0, 0x0, 0x0, 0x0, 0x0, 0xFFFFFFFF, 0x0⟩,
  ⟨0x94, 1, 0, 0x0, 0x0, 0x0, 0x0, 0x0, 0x0, 0x0⟩,
  ⟨0x98, 4, 4, 0xFFF, 0x0, 0x0, 0x0, 0x1000, 0x0, 0x0⟩,
  ⟨0xC0, 16, 8, 0x0, 0x1FFFFFFF, 0x0, 0x0, 0x0, 0x0, 0x0⟩,
  ⟨0xC4, 16, 8, 0x0, 0x1FFFFFFF, 0x40000000, 0x0, 0x0, 0x0, 0x0⟩]

/-- The block registers of the ICX page. -/
def rowsICX : List RegRow := [
  ⟨0x40, 1, 0, 0x0, 0x0, 0x0, 0x0, 0x0, 0x0, 0x0⟩,
  ⟨0x44, 1, 0, 0xFFFF, 0x0, 0x0, 0x0, 0x0, 0x0, 0x3E8⟩,
  ⟨0x48, 1, 0, 0x0, 0x0, 0x0, 0x0, 0x0, 0xFFFFFFFF, 0x0⟩,
  ⟨0x4C, 1, 0, 0x0, 0x0, 0x0, 0x0, 0x0, 0xFFFFFF, 0x0⟩,
  ⟨0x50, 1, 0, 0x0, 0x0, 0x7, 0x0, 0x0, 0x0, 0x0⟩]

/-- The block registers of the DMA page. -/
def rowsDMA : List RegRow := [
  ⟨0x100, 32, 16, 0xFFFFFFFF, 0x0, 0x0, 0x0, 0x0, 0x0, 0x0⟩,
  ⟨0x104, 32, 16, 0xFFFFFFFF, 0x0, 0x0, 0x0, 0x0, 0x0, 0x0⟩,
  ⟨0x108, 32, 16, 0xFFFFFF, 0x0, 0x0, 0x0, 0x0, 0x0, 0x0⟩,
  ⟨0x10C, 32, 16, 0x3, 0x0, 0x18, 0x4, 0x0, 0x0, 0x0⟩]

/-- The block registers of the MPU page. -/
def rowsMPU : List RegRow := [
  ⟨0x40, 16, 8, 0x0, 0xFFFFF000, 0x0, 0x0, 0x0, 0x0, 0x0⟩,
  ⟨0x44, 16, 8, 0x0, 0xFFFFF007, 0x0, 0x0, 0x0, 0x0, 0x0⟩]

/-- The block registers of the INTC page. -/
def rowsINTC : List RegRow := [
  ⟨0x40, 2, 4, 0xF, 0x0, 0x0, 0x0, 0x0, 0x0, 0x0⟩,
  ⟨0x48, 2, 4, 0x0, 0x0, 0x0, 0x0, 0x0, 0x0, 0xFF⟩,
  ⟨0x100, 130, 4, 0xF3, 0x0, 0x0, 0x0, 0x0, 0x0, 0x0⟩,
  ⟨0x50, 2, 4, 0x0, 0x0, 0x0, 0x0, 0xFF, 0x0, 0x0⟩]

/-- The block registers of the TBS page. -/
def rowsTBS : List RegRow := [
  ⟨0x100, 1, 0, 0x0, 0xFFFF, 0x0, 0x0, 0x0, 0x0, 0x9C4⟩,
  ⟨0x104, 1, 0, 0x0, 0x0, 0x0, 0x0, 0x0, 0x0, 0x70800C8⟩,
  ⟨0x108, 1, 0, 0x0, 0x0, 0x0, 0x0, 0x0, 0x0, 0x9600834⟩,
  ⟨0x10C, 1, 0, 0x0, 0x7FF, 0x0, 0x0, 0x0, 0x0, 0x255⟩,
  ⟨0x110, 1, 0, 0x0, 0x0, 0x1F, 0x0, 0x0, 0x0, 0x0⟩,
  ⟨0x114, 1, 0, 0x0, 0x0, 0x0, 0x0, 0x0, 0x0, 0x0⟩,
  ⟨0x118, 1, 0, 0x0, 0x0, 0x0, 0x0, 0x0, 0x0, 0x0⟩,
  ⟨0x11C, 1, 0, 0x0, 0x0, 0x0, 0x0, 0x0, 0x0, 0x0⟩,
  ⟨0x120, 1, 0, 0x0, 0x0, 0x0, 0x0, 0x0, 0xFFFFFFFF, 0x0⟩,
  ⟨0x124, 1, 0, 0x0, 0x0, 0x0, 0x0, 0x0, 0x0, 0xFFFF⟩,
  ⟨0x40, 1, 0, 0x0, 0x1FF0003, 0x0, 0x0, 0x0, 0x0, 0x1F40000⟩,
  ⟨0x44, 1, 0, 0x0, 0x0, 0x0, 0x0, 0x3, 0x0, 0x0⟩,
  ⟨0x48, 1, 0, 0x0, 0x0, 0x0, 0x0, 0x0, 0x0, 0x0⟩,
  ⟨0x4C, 1, 0, 0x0, 0x0, 0x0, 0x0, 0x0, 0x0, 0x0⟩,
  ⟨0x50, 1, 0, 0x0, 0x0, 0x0, 0x0, 0x0, 0x0, 0x0⟩,
  ⟨0x54, 1, 0, 0x0, 0x0, 0x0, 0x0, 0x0, 0x0, 0x0⟩,
  ⟨0x58, 1, 0, 0xFFFFFFFF, 0x0, 0x0, 0x0, 0x0, 0x0, 0x0⟩,
  ⟨0x5C, 1, 0, 0xFFFF, 0x0, 0x0, 0x0, 0x0, 0x0, 0x0⟩,
  ⟨0x60, 1, 0, 0x3FFFFFFF, 0x0, 0x0, 0x0, 0x0, 0x0, 0x0⟩,
  ⟨0x64, 1, 0, 0x0, 0x0, 0x0, 0x0, 0x0, 0x0, 0x0⟩,
  ⟨0x68, 1, 0, 0x0, 0x0, 0x0, 0x0, 0x0, 0x0, 0x0⟩,
  ⟨0x6C, 1, 0, 0x0, 0x0, 0x0, 0x0, 0x0, 0x0, 0x0⟩,
  ⟨0x70, 1, 0, 0x0, 0x0, 0x0, 0x0, 0x0, 0x0, 0x0⟩,
  ⟨0x74, 1, 0, 0x0, 0x0, 0x0, 0x0, 0x0, 0x0, 0x0⟩,
  ⟨0x78, 1, 0, 0x0, 0x0, 0x0, 0x0, 0x0, 0x0, 0x0⟩,
  ⟨0x7C, 1, 0, 0x0, 0x0, 0x0, 0x0, 0x0, 0x0, 0x0⟩,
  ⟨0x80, 1, 0, 0x0, 0x0, 0x0, 0x0, 0x0, 0x0, 0x0⟩,
  ⟨0x84, 1, 0, 0x0, 0x0, 0x0, 0x0, 0x0, 0x0, 0x0⟩]

/-- The block registers of the MOD page. -/
def rowsMOD : List RegRow := [
  ⟨0x40, 1, 0, 0x2, 0x1D, 0x0, 0x0, 0x0, 0x0, 0x1C⟩,
  ⟨0x44, 1, 0, 0x0, 0x0, 0x10, 0x0, 0x0, 0x0, 0x0⟩,
  ⟨0x48, 8, 4, 0x0, 0x3FFFF, 0x0, 0x0, 0x0, 0x0, 0x0⟩,
  ⟨0x68, 1, 0, 0x0, 0x0, 0x0, 0x0, 0x0, 0x0, 0x0⟩,
  ⟨0x6C, 1, 0, 0x0, 0x0, 0x0, 0x0, 0x0, 0x0, 0x0⟩,
  ⟨0x70, 1, 0, 0x0, 0x0, 0x0, 0x0, 0x0, 0xFFFFFFFF, 0x0⟩]

/-- The block registers of the MODCH page. -/
def rowsMODCH : List RegRow := [
  ⟨0x80, 8, 32, 0xD, 0x0, 0x0, 0x0, 0x0, 0x0, 0x0⟩,
  ⟨0x84, 8, 32, 0x1FFFF, 0x0, 0x0, 0x0, 0x0, 0x0, 0x0⟩,
  ⟨0x88, 8, 32, 0x3FFFF, 0x0, 0x0, 0x0, 0x0, 0x0, 0x0⟩,
  ⟨0x8C, 8, 32, 0x1FFFFF, 0x0, 0x0, 0x0, 0x0, 0x0, 0x0⟩,
  ⟨0x90, 8, 32, 0x1FFFFF, 0x0, 0x0, 0x0, 0x0, 0x0, 0x0⟩,
  ⟨0x94, 4, 64, 0xFFFF, 0x0, 0x0, 0x0, 0x0, 0x0, 0x0⟩,
  ⟨0xB4, 4, 64, 0xFFFFFFFF, 0x0, 0x0, 0x0, 0x0, 0x0, 0x0⟩,
  ⟨0x98, 8, 32, 0xFFFF, 0x0, 0x0, 0x0, 0x0, 0x0, 0x0⟩,
  ⟨0x9C, 8, 32, 0x0, 0x0, 0x100, 0x0, 0x0, 0x0, 0x0⟩,
  ⟨0x40, 1, 0, 0x1, 0x0, 0x0, 0x0, 0x0, 0x0, 0x0⟩]

/-- The block registers of the LPW page. -/
def rowsLPW : List RegRow := [
  ⟨0x80, 12, 32, 0x7F, 0x80, 0x0, 0x0, 0x0, 0x0, 0x50⟩,
  ⟨0x84, 12, 32, 0x3FFFF, 0x0, 0x0, 0x0, 0x0, 0x0, 0x4E20⟩,
  ⟨0x88, 12, 32, 0x7FFFF, 0x0, 0x0, 0x0, 0x0, 0x0, 0x0⟩,
  ⟨0x8C, 12, 32, 0x3FFFFF, 0x0, 0x0, 0x0, 0x0, 0x0, 0x0⟩,
  ⟨0x90, 12, 32, 0xFFFF, 0x0, 0x0, 0x0, 0x0, 0x0, 0xC80⟩,
  ⟨0x94, 12, 32, 0xFFFF, 0x0, 0x0, 0x0, 0x0, 0x0, 0x0⟩,
  ⟨0x98, 12, 32, 0x0, 0x0, 0x8, 0x0, 0x0, 0x0, 0x1⟩,
  ⟨0x40, 1, 0, 0xFFF, 0x0, 0x0, 0x0, 0x0, 0x0, 0x0⟩]

/-- The block registers of the TRP page. -/
def rowsTRP : List RegRow := [
  ⟨0x40, 1, 0, 0x0, 0x1FFFF, 0x0, 0x0, 0x0, 0x0, 0x0⟩,
  ⟨0x44, 1, 0, 0x0, 0xFFFFFFFF, 0x0, 0x0, 0x0, 0x0, 0x0⟩,
  ⟨0x48, 1, 0, 0x0, 0xFFFFFFFF, 0x0, 0x0, 0x0, 0x0, 0x0⟩,
  ⟨0x4C, 1, 0, 0x0, 0xFFFFFFFF, 0x0, 0x0, 0x0, 0x0, 0x0⟩,
  ⟨0x50, 1, 0, 0x0, 0xFFFFFFFF, 0x0, 0x0, 0x0, 0x0, 0x0⟩,
  ⟨0x54, 8, 4, 0x0, 0xFF3FFF, 0x0, 0x0, 0x0, 0x0, 0x0⟩,
  ⟨0x74, 1, 0, 0x0, 0x0, 0xFF00, 0x0, 0x0, 0x0, 0x0⟩,
  ⟨0x78, 1, 0, 0x0, 0x0, 0xFF, 0x0, 0x0, 0x0, 0x0⟩,
  ⟨0x7C, 1, 0, 0x0, 0x0, 0x0, 0x0, 0xFFFF, 0x0, 0x0⟩,
  ⟨0x80, 1, 0, 0x0, 0x0, 0x0, 0x0, 0x1, 0x0, 0x0⟩,
  ⟨0x84, 1, 0, 0x0, 0x0, 0x0, 0x0, 0x0, 0x0, 0x0⟩,
  ⟨0x88, 1, 0, 0x0, 0x0, 0x0, 0x0, 0x0, 0x0, 0x0⟩]

/-- The block registers of the GRN page. -/
def rowsGRN : List RegRow := [
  ⟨0x40, 6, 4, 0x0, 0xFFFFFFFF, 0x0, 0x0, 0x0, 0x0, 0x0⟩,
  ⟨0x60, 8, 4, 0x1, 0x3FFFFF7E, 0x0, 0x0, 0x0, 0x0, 0x4170⟩,
  ⟨0x80, 8, 4, 0x0, 0xFFFF, 0x0, 0x0, 0x0, 0x0, 0x0⟩,
  ⟨0xA0, 1, 0, 0x0, 0xFFFFFFFF, 0x0, 0x0, 0x0, 0x0, 0xFFFF⟩,
  ⟨0xA4, 1, 0, 0x0, 0xFFFFFFFF, 0x0, 0x0, 0x0, 0x0, 0x0⟩,
  ⟨0xA8, 1, 0, 0x0, 0xFFFFFFFF, 0x0, 0x0, 0x0, 0x0, 0xFFFFFFFE⟩,
  ⟨0xAC, 1, 0, 0x0, 0xFFFFFFFF, 0x0, 0x0, 0x0, 0x0, 0xC80064⟩,
  ⟨0xB0, 1, 0, 0x0, 0xFFFF, 0x0, 0x0, 0x0, 0x0, 0x0⟩,
  ⟨0xB4, 1, 0, 0x0, 0xFFFFFFFF, 0x0, 0x0, 0x0, 0x0, 0x27102710⟩,
  ⟨0xB8, 1, 0, 0x0, 0xFF7FFFFF, 0x0, 0x0, 0x0, 0x0, 0x5322710⟩,
  ⟨0xBC, 1, 0, 0x0, 0xFFFFFFFF, 0x0, 0x0, 0x0, 0x0, 0x0⟩,
  ⟨0xC0, 1, 0, 0x0, 0xFFFF, 0x0, 0x0, 0x0, 0x0, 0x1428⟩,
  ⟨0xC4, 1, 0, 0x0, 0xFFFFFF, 0x0, 0x0, 0x0, 0x0, 0x691492⟩,
  ⟨0xC8, 1, 0, 0x0, 0x0, 0x0, 0x0, 0x73F, 0x0, 0x0⟩,
  ⟨0xCC, 1, 0, 0x0, 0x0, 0x0, 0x0, 0x77, 0x0, 0x0⟩,
  ⟨0xD0, 6, 4, 0x0, 0x0, 0x0, 0x0, 0x0, 0x0, 0x0⟩,
  ⟨0xF0, 8, 4, 0x0, 0x0, 0x0, 0x0, 0x0, 0x0, 0x0⟩,
  ⟨0x110, 12, 4, 0x0, 0x0, 0x0, 0x0, 0x0, 0x0, 0x3F3F3F3F⟩,
  ⟨0x140, 1, 0, 0x0, 0x0, 0x0, 0x0, 0x0, 0xFFFFFFFF, 0x0⟩,
  ⟨0x144, 1, 0, 0x0, 0x3FFFFFF, 0x0, 0x0, 0x0, 0x0, 0x0⟩,
  ⟨0x148, 1, 0, 0x0, 0xFF, 0x0, 0x0, 0x0, 0x0, 0x42⟩]

/-- The block registers of the DSV page. [assumption 29 (DEDUCED)] -/
def rowsDSV : List RegRow := [
  ⟨0x40, 1, 0, 0x0, 0xFFFF, 0x0, 0x0, 0x0, 0x0, 0x64⟩,
  ⟨0x44, 1, 0, 0xFFFFFFFF, 0x0, 0x0, 0x0, 0x0, 0x0, 0x0⟩,
  ⟨0x48, 1, 0, 0xFFFF, 0x0, 0x0, 0x0, 0x0, 0x0, 0x0⟩,
  ⟨0x4C, 1, 0, 0x0, 0x0, 0x0, 0x0, 0x0, 0x0, 0x30⟩,
  ⟨0x50, 1, 0, 0x0, 0x0, 0x0, 0x0, 0x0, 0x0, 0x0⟩,
  ⟨0x54, 1, 0, 0x0, 0x0, 0x0, 0x0, 0x0, 0x0, 0x0⟩,
  ⟨0x58, 1, 0, 0x0, 0x0, 0x0, 0x0, 0x0, 0x0, 0x0⟩,
  ⟨0x5C, 1, 0, 0x0, 0x0, 0x0, 0x0, 0x0, 0x0, 0x0⟩,
  ⟨0x60, 1, 0, 0x0, 0x0, 0x0, 0x0, 0x0, 0x0, 0x0⟩,
  ⟨0x64, 1, 0, 0x0, 0x0, 0x0, 0x0, 0x0, 0xFFFFFFFF, 0x0⟩,
  ⟨0x68, 1, 0, 0x0, 0x0, 0x0, 0x0, 0x3F, 0x0, 0x0⟩,
  ⟨0x6C, 1, 0, 0x0, 0x0, 0x0, 0x0, 0x0, 0x0, 0x0⟩,
  ⟨0x70, 1, 0, 0x0, 0x0, 0x0, 0x0, 0x0, 0x0, 0x0⟩,
  ⟨0x80, 1, 0, 0xFFFFFFFF, 0x0, 0x0, 0x0, 0x0, 0x0, 0x0⟩,
  ⟨0x84, 1, 0, 0xFFFF, 0x0, 0x0, 0x0, 0x0, 0x0, 0x0⟩,
  ⟨0x88, 1, 0, 0xFFFFFFFF, 0x0, 0x0, 0x0, 0x0, 0x0, 0x0⟩,
  ⟨0x8C, 1, 0, 0xFFFFFFFF, 0x0, 0x0, 0x0, 0x0, 0x0, 0xFFFF0000⟩,
  ⟨0x90, 1, 0, 0xFFFFFFFF, 0x0, 0x0, 0x0, 0x0, 0x0, 0xFFFF0000⟩,
  ⟨0x94, 1, 0, 0x7FFF7FFF, 0x0, 0x0, 0x0, 0x0, 0x0, 0x8002000⟩,
  ⟨0x800, 48, 16, 0x0, 0x0, 0x0, 0x0, 0x0, 0x0, 0x0⟩,
  ⟨0x804, 48, 16, 0x0, 0x0, 0x0, 0x0, 0x0, 0x0, 0x0⟩,
  ⟨0x808, 48, 16, 0x0, 0x0, 0x0, 0x0, 0x0, 0x0, 0x0⟩,
  ⟨0x200, 48, 32, 0x0, 0x0, 0x0, 0x0, 0x0, 0x0, 0x0⟩,
  ⟨0x204, 48, 32, 0x0, 0x0, 0x0, 0x0, 0x0, 0x0, 0x0⟩,
  ⟨0x208, 48, 32, 0x0, 0x0, 0x0, 0x0, 0x0, 0x0, 0x0⟩,
  ⟨0x20C, 48, 32, 0x0, 0x0, 0x0, 0x0, 0x0, 0x0, 0xFFFF0000⟩,
  ⟨0x210, 48, 32, 0x0, 0x0, 0x0, 0x0, 0x0, 0x0, 0xFFFF0000⟩,
  ⟨0x214, 48, 32, 0x0, 0x0, 0x0, 0x0, 0x0, 0x0, 0x8002000⟩,
  ⟨0x218, 48, 32, 0x0, 0x0, 0x0, 0x0, 0x0, 0x0, 0x0⟩,
  ⟨0x21C, 48, 32, 0x0, 0x0, 0x0, 0x0, 0x0, 0x0, 0x0⟩]

/-- The block registers of the LEX page. -/
def rowsLEX : List RegRow := [
  ⟨0x40, 1, 0, 0x0, 0x0, 0x0, 0x0, 0x0, 0x0, 0x20⟩,
  ⟨0x44, 1, 0, 0xFFFF, 0x0, 0x0, 0x0, 0x0, 0x0, 0x0⟩,
  ⟨0x48, 1, 0, 0xFFFF, 0x0, 0x0, 0x0, 0x0, 0x0, 0x0⟩,
  ⟨0x4C, 1, 0, 0xFFFF, 0x0, 0x0, 0x0, 0x0, 0x0, 0x0⟩,
  ⟨0x50, 1, 0, 0x0, 0xFFFFFFFF, 0x0, 0x0, 0x0, 0x0, 0x0⟩,
  ⟨0x54, 1, 0, 0xFFFFFFFF, 0x0, 0x0, 0x0, 0x0, 0x0, 0x0⟩,
  ⟨0x58, 1, 0, 0x0, 0x0, 0x0, 0x0, 0x3FF, 0x0, 0x0⟩,
  ⟨0x5C, 1, 0, 0x0, 0x0, 0x0, 0x0, 0x0, 0x0, 0x0⟩,
  ⟨0x60, 1, 0, 0x0, 0x0, 0x0, 0x0, 0x0, 0x0, 0x0⟩,
  ⟨0x64, 1, 0, 0x0, 0x0, 0x0, 0x0, 0x0, 0x0, 0x2580⟩,
  ⟨0x68, 1, 0, 0x0, 0x0, 0x0, 0x0, 0x0, 0x0, 0x0⟩,
  ⟨0x6C, 1, 0, 0x0, 0x0, 0x0, 0x0, 0x0, 0x1FFFF, 0x0⟩,
  ⟨0x70, 1, 0, 0x0, 0x0, 0xFFFF, 0x0, 0x0, 0x0, 0x0⟩,
  ⟨0x74, 1, 0, 0x0, 0x0, 0x0, 0x0, 0x3FFF, 0x0, 0x0⟩,
  ⟨0x78, 1, 0, 0x0, 0x0, 0x0, 0x0, 0x0, 0x0, 0x0⟩,
  ⟨0x7C, 1, 0, 0x0, 0x0, 0x0, 0x0, 0x1, 0x0, 0x0⟩,
  ⟨0x100, 16, 32, 0x0, 0x7FFF7FFF, 0x0, 0x0, 0x0, 0x0, 0x0⟩,
  ⟨0x104, 16, 32, 0x0, 0x7FFF7FFF, 0x0, 0x0, 0x0, 0x0, 0x0⟩,
  ⟨0x108, 16, 32, 0x0, 0x0, 0x0, 0x0, 0x0, 0x0, 0x0⟩,
  ⟨0x10C, 16, 32, 0x0, 0x0, 0x0, 0x0, 0x0, 0x0, 0x0⟩,
  ⟨0x110, 16, 32, 0x0, 0x0, 0x0, 0x0, 0x0, 0xFFFF, 0x0⟩,
  ⟨0x114, 16, 32, 0x0, 0x0, 0x0, 0x0, 0x0, 0x0, 0x0⟩]

/-- The block registers of the LEG page. -/
def rowsLEG : List RegRow := [
  ⟨0x40, 1, 0, 0x8, 0x1F3, 0x0, 0x0, 0x0, 0x0, 0x0⟩,
  ⟨0x44, 1, 0, 0x0, 0xFFFFFF, 0x0, 0x0, 0x0, 0x0, 0xF03333⟩,
  ⟨0x48, 1, 0, 0x0, 0xF3F3F, 0x0, 0x0, 0x0, 0x0, 0x20F0F⟩,
  ⟨0x4C, 1, 0, 0x0, 0x1F0FF7FF, 0x0, 0x0, 0x0, 0x0, 0x40441EA⟩,
  ⟨0x50, 1, 0, 0x0, 0xFFFF, 0x0, 0x0, 0x0, 0x0, 0x1414⟩,
  ⟨0x54, 1, 0, 0x0, 0xFFF, 0x0, 0x0, 0x0, 0x0, 0x578⟩,
  ⟨0x58, 1, 0, 0x0, 0x0, 0x0, 0x0, 0x0, 0x0, 0x3⟩,
  ⟨0x5C, 1, 0, 0x0, 0x0, 0x0, 0x0, 0x0, 0x0, 0x0⟩,
  ⟨0x60, 1, 0, 0x0, 0x0, 0x0, 0x0, 0x1, 0x0, 0x0⟩,
  ⟨0x64, 1, 0, 0x0, 0x0, 0x0, 0x0, 0x0, 0x0, 0x0⟩,
  ⟨0x68, 1, 0, 0x0, 0x0, 0x0, 0x0, 0x0, 0xFFFFFFFF, 0x0⟩,
  ⟨0x6C, 1, 0, 0x0, 0x0, 0x0, 0x0, 0x0, 0x0, 0x3333⟩,
  ⟨0x70, 1, 0, 0x0, 0x0, 0x0, 0x0, 0x0, 0x0, 0x0⟩,
  ⟨0x74, 1, 0, 0x0, 0x0, 0x0, 0x0, 0x1, 0x0, 0x0⟩,
  ⟨0x78, 1, 0, 0x0, 0x0, 0x0, 0x0, 0x0, 0x0, 0x0⟩,
  ⟨0xC0, 4, 4, 0x0, 0x1FF0F, 0x0, 0x0, 0x0, 0x0, 0xFF02⟩,
  ⟨0xD0, 1, 0, 0x0, 0x0, 0x0, 0x0, 0x0, 0x0, 0x0⟩]

/-- The block registers of the MCX page. -/
def rowsMCX : List RegRow := [
  ⟨0x40, 1, 0, 0x3, 0xFFFF0000, 0x0, 0x8, 0x0, 0x0, 0x15550000⟩,
  ⟨0x44, 1, 0, 0xFFF, 0x0, 0x0, 0x0, 0x0, 0x0, 0x0⟩,
  ⟨0x48, 1, 0, 0x3FFFF, 0x0, 0x0, 0x0, 0x0, 0x0, 0x0⟩,
  ⟨0x4C, 1, 0, 0x0, 0xFFFFFFFF, 0x0, 0x0, 0x0, 0x0, 0x0⟩,
  ⟨0x50, 1, 0, 0x0, 0xFFFFFFFF, 0x0, 0x0, 0x0, 0x0, 0x0⟩,
  ⟨0x54, 1, 0, 0x0, 0xFFFFFFFF, 0x0, 0x0, 0x0, 0x0, 0x0⟩,
  ⟨0x58, 1, 0, 0x0, 0xFFFF01FF, 0x0, 0x0, 0x0, 0x0, 0x1F40040⟩,
  ⟨0x5C, 1, 0, 0x0, 0xFFFFFF, 0x0, 0x0, 0x0, 0x0, 0x280014⟩,
  ⟨0x60, 1, 0, 0x0, 0xFFFFFFFF, 0x0, 0x0, 0x0, 0x0, 0x1410C8⟩,
  ⟨0x64, 1, 0, 0x0, 0x3FF, 0x0, 0x0, 0x0, 0x0, 0x320⟩,
  ⟨0x68, 1, 0, 0x0, 0x0, 0x0, 0x0, 0x0, 0x0, 0x3E80000⟩,
  ⟨0x6C, 1, 0, 0x0, 0x0, 0x0, 0x0, 0x0, 0x0, 0x0⟩,
  ⟨0x70, 1, 0, 0x0, 0x0, 0x0, 0x0, 0xF, 0x0, 0x0⟩,
  ⟨0x100, 2, 128, 0x11, 0x1FFFFEE, 0x0, 0x0, 0x0, 0x0, 0x20⟩,
  ⟨0x104, 2, 128, 0x0, 0xFFFFFFFF, 0x0, 0x0, 0x0, 0x0, 0x0⟩,
  ⟨0x108, 2, 128, 0x0, 0x0, 0x0, 0x0, 0x7, 0x0, 0x0⟩,
  ⟨0x10C, 2, 128, 0x0, 0x0, 0x0, 0x0, 0x0, 0x0, 0x0⟩,
  ⟨0x110, 2, 128, 0x0, 0xFFFFFFFF, 0x0, 0x0, 0x0, 0x0, 0x0⟩,
  ⟨0x114, 2, 128, 0x0, 0xFFFFFFFF, 0x0, 0x0, 0x0, 0x0, 0x0⟩,
  ⟨0x118, 2, 128, 0x0, 0xFFFFFFFF, 0x0, 0x0, 0x0, 0x0, 0x0⟩,
  ⟨0x11C, 2, 128, 0x0, 0xFFFFFFFF, 0x0, 0x0, 0x0, 0x0, 0x0⟩,
  ⟨0x120, 2, 128, 0x0, 0xFFFFFFFF, 0x0, 0x0, 0x0, 0x0, 0x0⟩,
  ⟨0x124, 2, 128, 0x0, 0xFFFFFFFF, 0x0, 0x0, 0x0, 0x0, 0x0⟩,
  ⟨0x128, 2, 128, 0x0, 0xFFFFFFFF, 0x0, 0x0, 0x0, 0x0, 0x8080440⟩,
  ⟨0x12C, 2, 128, 0x0, 0xFFF03FF, 0x0, 0x0, 0x0, 0x0, 0x1400FA⟩,
  ⟨0x130, 2, 128, 0x0, 0x3FFFFFF, 0x0, 0x0, 0x0, 0x0, 0x500000⟩,
  ⟨0x134, 2, 128, 0x0, 0xFFFFFFFF, 0x0, 0x0, 0x0, 0x0, 0x1000000⟩,
  ⟨0x138, 2, 128, 0x0, 0xFFFFFFFF, 0x0, 0x0, 0x0, 0x0, 0x0⟩,
  ⟨0x13C, 2, 128, 0x0, 0x0, 0x0, 0x0, 0x0, 0x0, 0x0⟩,
  ⟨0x140, 2, 128, 0x0, 0x0, 0x0, 0x0, 0x0, 0x0, 0x0⟩,
  ⟨0x144, 2, 128, 0x0, 0x0, 0x0, 0x0, 0x0, 0x0, 0x0⟩,
  ⟨0x148, 2, 128, 0x0, 0xFFFF, 0x0, 0x0, 0x0, 0x0, 0x0⟩,
  ⟨0x200, 1, 0, 0x1, 0xFFFFE, 0x0, 0x0, 0x0, 0x0, 0x14⟩,
  ⟨0x204, 1, 0, 0x0, 0xFFFFFFFF, 0x0, 0x0, 0x0, 0x0, 0xFFFF0000⟩,
  ⟨0x208, 1, 0, 0x0, 0xFFFF, 0x0, 0x0, 0x0, 0x0, 0x3E8⟩,
  ⟨0x20C, 1, 0, 0x1, 0xFFFF00FE, 0x0, 0x0, 0x0, 0x0, 0x0⟩,
  ⟨0x210, 1, 0, 0x0, 0x0, 0x0, 0x0, 0x1, 0x0, 0x0⟩,
  ⟨0x214, 1, 0, 0x0, 0x0, 0x0, 0x0, 0x0, 0x0, 0x0⟩,
  ⟨0x218, 1, 0, 0x0, 0x0, 0x0, 0x0, 0x0, 0x0, 0x0⟩,
  ⟨0x300, 4, 32, 0x1, 0x3FFFE, 0x0, 0x0, 0x0, 0x0, 0x5000⟩,
  ⟨0x304, 4, 32, 0x0, 0xFFFFFFFF, 0x0, 0x0, 0x0, 0x0, 0x0⟩,
  ⟨0x308, 4, 32, 0x0, 0xFFFFFFFF, 0x0, 0x0, 0x0, 0x0, 0xFA0000⟩,
  ⟨0x30C, 4, 32, 0x0, 0x0, 0x0, 0x0, 0x0, 0x0, 0x0⟩,
  ⟨0x310, 4, 32, 0x0, 0x0, 0x0, 0x0, 0x0, 0x0, 0x0⟩]

/-- The block registers of the ADC page. -/
def rowsADC : List RegRow := [
  ⟨0x40, 1, 0, 0x0, 0x0, 0x0, 0x0, 0x0, 0x0, 0x0⟩]

/-- The block registers of the PAIR page. -/
def rowsPAIR : List RegRow := [
  ⟨0x40, 1, 0, 0x10, 0x3EF, 0x0, 0x0, 0x0, 0x0, 0x0⟩,
  ⟨0x44, 1, 0, 0xFFFF, 0x0, 0x0, 0x0, 0x0, 0x0, 0x0⟩,
  ⟨0x48, 4, 4, 0xFFFFFFFF, 0x0, 0x0, 0x0, 0x0, 0x0, 0x0⟩,
  ⟨0x58, 1, 0, 0x0, 0x0, 0x0, 0x0, 0xF, 0x0, 0x0⟩,
  ⟨0x5C, 1, 0, 0x7FFFFFF, 0x0, 0x0, 0x0, 0x0, 0x0, 0x0⟩,
  ⟨0x60, 1, 0, 0xFFFF, 0x0, 0x0, 0x0, 0x0, 0x0, 0x0⟩,
  ⟨0x64, 1, 0, 0xF7, 0x0, 0x0, 0x0, 0x100, 0x0, 0x0⟩,
  ⟨0x80, 32, 4, 0x1FF, 0x0, 0x0, 0x0, 0x0, 0x0, 0x0⟩,
  ⟨0x100, 16, 8, 0xFFF, 0x0, 0x0, 0x0, 0x0, 0x0, 0x0⟩,
  ⟨0x104, 16, 8, 0x0, 0x0, 0x0, 0x0, 0x0, 0x0, 0x0⟩,
  ⟨0x180, 1, 0, 0x0, 0xFFFFFFC0, 0x0, 0x0, 0x0, 0x0, 0x0⟩,
  ⟨0x184, 1, 0, 0x0, 0x1F, 0x0, 0x0, 0x0, 0x0, 0x8⟩,
  ⟨0x188, 1, 0, 0x0, 0x0, 0x0, 0x0, 0x0, 0x0, 0x0⟩,
  ⟨0x18C, 1, 0, 0xFFFF, 0x0, 0x0, 0x0, 0x0, 0x0, 0x0⟩,
  ⟨0x190, 1, 0, 0xFFFF, 0x0, 0x0, 0x0, 0x0, 0x0, 0x0⟩,
  ⟨0x194, 1, 0, 0x0, 0x0, 0x0, 0x0, 0x0, 0xFFFFFFFF, 0x0⟩,
  ⟨0x1A0, 1, 0, 0x0, 0xFFFFFFFF, 0x0, 0x0, 0x0, 0x0, 0x80000000⟩,
  ⟨0x1A4, 1, 0, 0x0, 0xFFFFFFFF, 0x0, 0x0, 0x0, 0x0, 0x80000000⟩,
  ⟨0x1A8, 1, 0, 0x0, 0xFF, 0x0, 0x0, 0x0, 0x0, 0x0⟩,
  ⟨0x1AC, 1, 0, 0x0, 0x0, 0x0, 0x0, 0x1, 0x0, 0x0⟩,
  ⟨0x1C0, 1, 0, 0x0, 0x0, 0x0, 0x0, 0x0, 0x0, 0x0⟩,
  ⟨0x1C4, 1, 0, 0x0, 0x0, 0x0, 0x0, 0x0, 0xFFFFFFFF, 0x0⟩]

/-- The block registers of the BLK page. -/
def rowsBLK : List RegRow := [
  ⟨0x40, 1, 0, 0x0, 0xFFFF01, 0x0, 0x0, 0x0, 0x0, 0x132100⟩,
  ⟨0x44, 1, 0, 0x0, 0xFFFFFF, 0x0, 0x0, 0x0, 0x0, 0x80A08⟩,
  ⟨0x48, 1, 0, 0x0, 0x0, 0x0, 0x0, 0x0, 0x0, 0x3F⟩,
  ⟨0x4C, 1, 0, 0x0, 0x0, 0x0, 0x0, 0x0, 0x0, 0x0⟩,
  ⟨0x50, 1, 0, 0x0, 0x0, 0x0, 0x0, 0x0, 0x0, 0x0⟩,
  ⟨0x54, 1, 0, 0x0, 0x0, 0xFFFFFFFF, 0x0, 0x0, 0x0, 0x0⟩,
  ⟨0x58, 1, 0, 0x0, 0x0, 0xFFFF, 0x0, 0x0, 0x0, 0x0⟩,
  ⟨0x5C, 1, 0, 0x0, 0x0, 0xFFFFFFFF, 0x0, 0x0, 0x0, 0x0⟩,
  ⟨0x60, 1, 0, 0x0, 0x0, 0xFFFF, 0x0, 0x0, 0x0, 0x0⟩]

/-- The block registers of the LANE page. -/
def rowsLANE : List RegRow := [
  ⟨0x40, 1, 0, 0xFFFF003F, 0x0, 0x0, 0x0, 0x0, 0x0, 0x3E80010⟩,
  ⟨0x44, 1, 0, 0xF1F07, 0x0, 0x0, 0x0, 0x0, 0x0, 0x41800⟩,
  ⟨0x48, 1, 0, 0x0, 0xFFFF, 0x0, 0x0, 0x0, 0x0, 0x0⟩,
  ⟨0x4C, 1, 0, 0x0, 0x0, 0x0, 0x0, 0x0, 0x0, 0x0⟩,
  ⟨0x50, 1, 0, 0x0, 0x0, 0x0, 0x0, 0x0, 0x0, 0x0⟩,
  ⟨0x54, 1, 0, 0x0, 0x0, 0x0, 0x0, 0x0, 0x0, 0x0⟩,
  ⟨0x58, 1, 0, 0x0, 0x0, 0x0, 0x0, 0x0, 0x0, 0x0⟩,
  ⟨0x5C, 1, 0, 0x0, 0x0, 0x0, 0x0, 0x0, 0x0, 0x0⟩,
  ⟨0x60, 1, 0, 0x0, 0x0, 0x0, 0x0, 0x0, 0x0, 0x0⟩,
  ⟨0x64, 1, 0, 0x0, 0x0, 0x0, 0x0, 0x0, 0x0, 0x0⟩,
  ⟨0x68, 1, 0, 0x0, 0x0, 0x0, 0x0, 0x0, 0xFFFFFFFF, 0x0⟩,
  ⟨0x6C, 1, 0, 0x0, 0x0, 0x0, 0x0, 0x0, 0xFFFFFFFF, 0x0⟩,
  ⟨0x70, 1, 0, 0x0, 0x0, 0x0, 0x0, 0x0, 0xFFFFFFFF, 0x0⟩,
  ⟨0x74, 1, 0, 0x0, 0x0, 0x0, 0x0, 0x0, 0x0, 0x0⟩,
  ⟨0x78, 1, 0, 0xFFFF, 0x0, 0x0, 0x0, 0x10000, 0x0, 0x0⟩,
  ⟨0x7C, 1, 0, 0xFFFFFFFF, 0x0, 0x0, 0x0, 0x0, 0x0, 0x0⟩,
  ⟨0x80, 1, 0, 0x0, 0x0, 0x0, 0x0, 0x0, 0x0, 0x0⟩,
  ⟨0x84, 1, 0, 0x0, 0x0, 0x0, 0x0, 0x0, 0xFFFFFFFF, 0x0⟩]

/-- The block registers of the TRL page. -/
def rowsTRL : List RegRow := [
  ⟨0x40, 1, 0, 0xFF, 0x100, 0x0, 0x0, 0x0, 0x0, 0x0⟩,
  ⟨0x44, 1, 0, 0x0, 0x0, 0x0, 0x0, 0x0, 0x0, 0x10000⟩,
  ⟨0x48, 1, 0, 0x0, 0x0, 0x0, 0x0, 0x0, 0x0, 0x0⟩,
  ⟨0x4C, 1, 0, 0x0, 0x0, 0x0, 0x0, 0x0, 0x0, 0x0⟩,
  ⟨0x50, 1, 0, 0x0, 0x0, 0x0, 0x0, 0x0, 0x0, 0x0⟩,
  ⟨0x54, 1, 0, 0x0, 0x0, 0x0, 0x0, 0x0, 0x0, 0x0⟩,
  ⟨0x58, 1, 0, 0x0, 0x0, 0x0, 0x0, 0x0, 0x0, 0x0⟩,
  ⟨0x5C, 1, 0, 0x0, 0x0, 0x0, 0x0, 0x10000, 0x0, 0x0⟩,
  ⟨0x60, 8, 4, 0x0, 0x0, 0x0, 0x0, 0x0, 0x0, 0x0⟩,
  ⟨0x80, 8, 4, 0xF1F07, 0x0, 0x0, 0x0, 0x0, 0x0, 0x41800⟩,
  ⟨0xA0, 8, 4, 0x0, 0x0, 0x0, 0x0, 0x0, 0xFFFFFFFF, 0x0⟩,
  ⟨0xC0, 16, 4, 0x0, 0x0, 0x0, 0x0, 0x0, 0x0, 0x0⟩,
  ⟨0x100, 64, 8, 0x1, 0x3FF8, 0x0, 0x0, 0x0, 0x0, 0x0⟩,
  ⟨0x104, 64, 8, 0x0, 0x0, 0x0, 0x0, 0x0, 0x0, 0x0⟩]

/-- The block registers of the STL page. -/
def rowsSTL : List RegRow := [
  ⟨0x40, 1, 0, 0x0, 0x3FF07FF, 0x0, 0x0, 0x0, 0x0, 0x1E0400⟩,
  ⟨0x44, 1, 0, 0x0, 0xFFFF00FF, 0x0, 0x0, 0x0, 0x0, 0x5⟩,
  ⟨0x48, 1, 0, 0x0, 0x0, 0x0, 0x0, 0x0, 0x0, 0x0⟩,
  ⟨0x4C, 1, 0, 0x0, 0x0, 0x0, 0x0, 0x0, 0x0, 0x1000800⟩,
  ⟨0x50, 1, 0, 0x0, 0x0, 0x0, 0x0, 0x0, 0x0, 0x0⟩,
  ⟨0x54, 1, 0, 0x0, 0x0, 0x0, 0x100, 0x0, 0x0, 0x0⟩,
  ⟨0x58, 1, 0, 0x0, 0x0, 0x0, 0x0, 0x3, 0x0, 0x0⟩,
  ⟨0x5C, 1, 0, 0x0, 0x0, 0x0, 0x0, 0x1, 0x0, 0x0⟩,
  ⟨0x60, 1, 0, 0x0, 0x0, 0xFFFFFFFF, 0x0, 0x0, 0x0, 0x0⟩,
  ⟨0x64, 1, 0, 0x0, 0x0, 0xFFFF, 0x0, 0x0, 0x0, 0x0⟩,
  ⟨0x68, 1, 0, 0x0, 0x0, 0x0, 0x0, 0x0, 0x0, 0x0⟩,
  ⟨0x6C, 1, 0, 0x0, 0x0, 0x0, 0x0, 0x0, 0x0, 0x0⟩,
  ⟨0x70, 1, 0, 0x0, 0x0, 0x0, 0x0, 0x0, 0xFFFFFFFF, 0x0⟩,
  ⟨0x80, 64, 4, 0x0, 0x7FFFFF, 0x0, 0x0, 0x0, 0x0, 0x0⟩]

/-- The block registers of the CAN page. -/
def rowsCAN : List RegRow := [
  ⟨0x40, 1, 0, 0x7FFFFFFF, 0x0, 0x0, 0x0, 0x0, 0x0, 0x2041E07⟩,
  ⟨0x44, 1, 0, 0x3FFFFFF, 0x0, 0x0, 0x0, 0x0, 0x0, 0x44C0⟩,
  ⟨0x48, 1, 0, 0x3FFF, 0x0, 0x0, 0x0, 0x0, 0x0, 0x0⟩,
  ⟨0x4C, 1, 0, 0x0, 0x0, 0x0, 0x0, 0x0, 0x0, 0x0⟩,
  ⟨0x50, 1, 0, 0x0, 0x0, 0x0, 0x0, 0x1, 0x0, 0x0⟩,
  ⟨0x54, 1, 0, 0x0, 0x0, 0x0, 0x0, 0x0, 0x0, 0x0⟩,
  ⟨0x58, 1, 0, 0xFF, 0x0, 0x0, 0x0, 0x0, 0x0, 0x0⟩,
  ⟨0x5C, 1, 0, 0x0, 0x0, 0x0, 0x0, 0x0, 0x0, 0x0⟩,
  ⟨0x60, 1, 0, 0xFFFFFFC0, 0x0, 0x0, 0x0, 0x0, 0x0, 0x0⟩,
  ⟨0x64, 1, 0, 0xFFFFFFC0, 0x0, 0x0, 0x0, 0x0, 0x0, 0x0⟩,
  ⟨0x68, 1, 0, 0xFFFFFFC0, 0x0, 0x0, 0x0, 0x0, 0x0, 0x0⟩,
  ⟨0x70, 2, 4, 0x0, 0x0, 0x0, 0x0, 0x0, 0xFFFF0000, 0x0⟩,
  ⟨0x78, 1, 0, 0x0, 0x0, 0x0, 0x0, 0x3, 0x0, 0x0⟩,
  ⟨0x7C, 1, 0, 0x0, 0x0, 0x0, 0x0, 0x0, 0x0, 0x10000⟩,
  ⟨0x80, 1, 0, 0x0, 0x0, 0x0, 0x0, 0x1, 0x0, 0x0⟩,
  ⟨0x84, 1, 0, 0x0, 0x0, 0x0, 0x0, 0xFFFFFFFF, 0x0, 0x0⟩,
  ⟨0x88, 1, 0, 0x3FFFFFFF, 0x0, 0x0, 0x0, 0x0, 0x0, 0x0⟩,
  ⟨0x8C, 1, 0, 0x3FFFFF, 0x0, 0x0, 0x0, 0x0, 0x0, 0x3F0000⟩,
  ⟨0x90, 1, 0, 0x0, 0x0, 0x0, 0x0, 0x0, 0x0, 0x0⟩,
  ⟨0xA0, 8, 4, 0x3FFFFFFF, 0x0, 0x0, 0x0, 0x0, 0x0, 0x0⟩,
  ⟨0xC0, 1, 0, 0x0, 0x0, 0x0, 0x0, 0x0, 0xFFFFFFFF, 0x0⟩,
  ⟨0x100, 32, 8, 0xBFFFFFFF, 0x0, 0x0, 0x0, 0x0, 0x0, 0x0⟩,
  ⟨0x104, 32, 8, 0xFFFFFFFF, 0x0, 0x0, 0x0, 0x0, 0x0, 0x0⟩]

/-- The block registers of the ETH page. -/
def rowsETH : List RegRow := [
  ⟨0x40, 1, 0, 0x1FFFF, 0x0, 0x0, 0x0, 0x0, 0x0, 0xA⟩,
  ⟨0x44, 1, 0, 0xFFFFFFFF, 0x0, 0x0, 0x0, 0x0, 0x0, 0x0⟩,
  ⟨0x48, 1, 0, 0xFFFF, 0x0, 0x0, 0x0, 0x0, 0x0, 0x0⟩,
  ⟨0x4C, 1, 0, 0x0, 0x0, 0x0, 0x0, 0x0, 0x0, 0x0⟩,
  ⟨0x50, 1, 0, 0xFFFFFFF0, 0x0, 0x0, 0x0, 0x0, 0x0, 0x0⟩,
  ⟨0x58, 1, 0, 0xFFFFFFF0, 0x0, 0x0, 0x0, 0x0, 0x0, 0x0⟩,
  ⟨0x54, 1, 0, 0x1FF, 0x0, 0x0, 0x0, 0x0, 0x0, 0x2⟩,
  ⟨0x5C, 1, 0, 0x1FF, 0x0, 0x0, 0x0, 0x0, 0x0, 0x2⟩,
  ⟨0x60, 1, 0, 0x0, 0x0, 0x0, 0x0, 0x1, 0x0, 0x0⟩,
  ⟨0x64, 1, 0, 0x0, 0x0, 0x0, 0x0, 0x0, 0x0, 0x0⟩,
  ⟨0x68, 1, 0, 0x0, 0x0, 0x0, 0x0, 0x0, 0xFFFFFFFF, 0x0⟩,
  ⟨0x6C, 1, 0, 0x0, 0x0, 0x0, 0x0, 0x0, 0xFFFFFFFF, 0x0⟩,
  ⟨0x70, 1, 0, 0xFFFF, 0x0, 0x0, 0x0, 0x0, 0x0, 0x0⟩,
  ⟨0x74, 1, 0, 0x0, 0x0, 0x0, 0x0, 0x0, 0xFFFFFFFF, 0x0⟩,
  ⟨0x78, 1, 0, 0x0, 0xFFFFF, 0x0, 0x0, 0x0, 0x0, 0x0⟩,
  ⟨0x7C, 1, 0, 0x0, 0xFFFFF, 0x0, 0x0, 0x0, 0x0, 0x0⟩,
  ⟨0x80, 1, 0, 0xFFFFFFFF, 0x0, 0x0, 0x0, 0x0, 0x0, 0x0⟩,
  ⟨0x84, 1, 0, 0xF, 0x0, 0x0, 0x0, 0x0, 0x0, 0x8⟩,
  ⟨0x88, 1, 0, 0x0, 0x0, 0x0, 0x0, 0xFFFFFFFF, 0x0, 0x0⟩,
  ⟨0x8C, 1, 0, 0xFFFFFFFF, 0x0, 0x0, 0x0, 0x0, 0x0, 0x0⟩,
  ⟨0x90, 1, 0, 0xFFFF, 0x0, 0x0, 0x0, 0x0, 0x0, 0x0⟩,
  ⟨0x94, 1, 0, 0x3FFFFFFF, 0x0, 0x0, 0x0, 0x0, 0x0, 0x0⟩,
  ⟨0x98, 1, 0, 0x0, 0x0, 0x0, 0x0, 0x3, 0x0, 0x0⟩,
  ⟨0x9C, 1, 0, 0x0, 0x0, 0x0, 0x0, 0x0, 0x0, 0x0⟩,
  ⟨0xA0, 1, 0, 0x0, 0x0, 0x0, 0x0, 0x0, 0x0, 0x0⟩,
  ⟨0xA4, 1, 0, 0x0, 0x0, 0x0, 0x0, 0x0, 0x0, 0x0⟩,
  ⟨0xA8, 1, 0, 0x0, 0x0, 0x0, 0x0, 0x0, 0x0, 0x0⟩,
  ⟨0xAC, 1, 0, 0x1, 0x0, 0x0, 0x0, 0x0, 0x0, 0x0⟩,
  ⟨0xB0, 1, 0, 0x0, 0x0, 0x0, 0x0, 0x0, 0xFFFF0000, 0x0⟩,
  ⟨0xB4, 1, 0, 0x0, 0x0, 0x0, 0x0, 0x0, 0x0, 0x0⟩,
  ⟨0xB8, 1, 0, 0x0, 0x0, 0x0, 0x0, 0x0, 0x0, 0x0⟩,
  ⟨0xBC, 1, 0, 0x0, 0x0, 0x0, 0x0, 0x0, 0x0, 0x0⟩,
  ⟨0xC0, 1, 0, 0x0, 0x0, 0x0, 0x0, 0x1, 0x0, 0x0⟩,
  ⟨0xC4, 1, 0, 0x7FFFFFF, 0x0, 0x0, 0x8000000, 0x0, 0x0, 0x0⟩]

/-- The block registers of the SAF page. -/
def rowsSAF : List RegRow := [
  ⟨0x40, 1, 0, 0x0, 0x0, 0x0, 0x0, 0x0, 0x0, 0x20⟩,
  ⟨0x44, 1, 0, 0x0, 0x0, 0x0, 0x0, 0x0, 0x0, 0x0⟩,
  ⟨0x48, 1, 0, 0x0, 0x0, 0x0, 0x0, 0x0, 0x0, 0x0⟩,
  ⟨0x4C, 1, 0, 0x0, 0x0, 0x0, 0x0, 0x0, 0x0, 0x0⟩,
  ⟨0x50, 1, 0, 0x0, 0x0, 0x0, 0x0, 0x0, 0x0, 0x0⟩,
  ⟨0x54, 1, 0, 0x0, 0x0, 0x0, 0x0, 0x0, 0x0, 0x0⟩,
  ⟨0x58, 1, 0, 0x0, 0x0, 0x0, 0x0, 0x0, 0x0, 0x0⟩,
  ⟨0x5C, 1, 0, 0x0, 0x0, 0x0, 0x0, 0x0, 0x0, 0x0⟩,
  ⟨0x60, 1, 0, 0x0, 0x0, 0x0, 0x0, 0x0, 0x0, 0x0⟩,
  ⟨0x64, 1, 0, 0x0, 0x0, 0x0, 0x0, 0x0, 0x0, 0x0⟩,
  ⟨0x68, 1, 0, 0x0, 0x0, 0x0, 0x0, 0x0, 0x0, 0x0⟩,
  ⟨0x100, 1, 0, 0x0, 0x0, 0x0, 0x0, 0x0, 0x0, 0x0⟩,
  ⟨0x104, 1, 0, 0x0, 0x0, 0x0, 0x0, 0x0, 0x0, 0x0⟩,
  ⟨0x120, 8, 4, 0x0, 0x0, 0x0, 0x0, 0x0, 0x0, 0x0⟩,
  ⟨0x140, 8, 8, 0x0, 0x0, 0x0, 0x0, 0x0, 0x0, 0x0⟩,
  ⟨0x144, 8, 8, 0x0, 0x0, 0x0, 0x0, 0x0, 0x0, 0x0⟩,
  ⟨0x180, 4, 4, 0x0, 0x0, 0x0, 0x0, 0x0, 0x0, 0x0⟩,
  ⟨0x1C0, 16, 8, 0x0, 0x0, 0x0, 0x0, 0x0, 0x0, 0x0⟩,
  ⟨0x1C4, 16, 8, 0x0, 0x0, 0x0, 0x0, 0x0, 0x0, 0x0⟩]

/-- The block registers of the SEC page. -/
def rowsSEC : List RegRow := [
  ⟨0x40, 1, 0, 0x0, 0x0, 0x0, 0x0, 0x0, 0x0, 0x0⟩,
  ⟨0x44, 1, 0, 0x0, 0x0, 0x0, 0x0, 0xF, 0x0, 0x0⟩,
  ⟨0x48, 1, 0, 0x0, 0x0, 0x0, 0x0, 0x3, 0x0, 0x0⟩,
  ⟨0x4C, 1, 0, 0x0, 0x0, 0x0, 0x0, 0x0, 0x0, 0x0⟩,
  ⟨0x50, 1, 0, 0x0, 0x0, 0x0, 0x0, 0x0, 0x0, 0x0⟩,
  ⟨0x54, 1, 0, 0x0, 0x0, 0x0, 0x0, 0x0, 0x0, 0x0⟩,
  ⟨0x58, 1, 0, 0x0, 0x0, 0x0, 0x0, 0x0, 0x0, 0x0⟩,
  ⟨0x5C, 1, 0, 0x0, 0x0, 0x0, 0x0, 0x0, 0x0, 0x0⟩,
  ⟨0x60, 1, 0, 0x7, 0x0, 0x0, 0x0, 0x0, 0x0, 0x0⟩,
  ⟨0x64, 1, 0, 0x0, 0x0, 0x0, 0x0, 0x0, 0x0, 0x0⟩,
  ⟨0x68, 1, 0, 0x0, 0x0, 0x0, 0x0, 0xFF, 0x0, 0x0⟩,
  ⟨0x6C, 1, 0, 0x0, 0x0, 0x0, 0x0, 0x3FF, 0x0, 0x0⟩,
  ⟨0x70, 1, 0, 0x0, 0x0, 0x0, 0x0, 0x0, 0x0, 0x0⟩,
  ⟨0x74, 1, 0, 0x0, 0x0, 0x0, 0x0, 0x1, 0x0, 0x0⟩,
  ⟨0x80, 8, 4, 0x0, 0x0, 0x0, 0x0, 0x0, 0x0, 0x0⟩,
  ⟨0x200, 128, 4, 0xFFFFFFFF, 0x0, 0x0, 0x0, 0x0, 0x0, 0x0⟩]

/-- The block registers of the NVL page. -/
def rowsNVL : List RegRow := [
  ⟨0x40, 1, 0, 0x0, 0x0, 0x0, 0x0, 0x7, 0x0, 0x0⟩,
  ⟨0x44, 1, 0, 0x3FFFFFF, 0x0, 0x0, 0x0, 0x0, 0x0, 0x0⟩,
  ⟨0x48, 1, 0, 0xFFFFFF, 0x0, 0x0, 0x0, 0x0, 0x0, 0x0⟩,
  ⟨0x4C, 1, 0, 0x1FFFF, 0x0, 0x0, 0x0, 0x0, 0x0, 0x0⟩,
  ⟨0x50, 1, 0, 0x0, 0x0, 0x0, 0x0, 0x0, 0x0, 0x0⟩,
  ⟨0x54, 1, 0, 0x0, 0x0, 0x0, 0x0, 0x0, 0x0, 0x0⟩,
  ⟨0x58, 1, 0, 0x0, 0x0, 0x0, 0x0, 0x0, 0x0, 0x0⟩,
  ⟨0x5C, 1, 0, 0xFFFFFFFF, 0x0, 0x0, 0x0, 0x0, 0x0, 0x0⟩,
  ⟨0x60, 8, 4, 0x0, 0x0, 0x0, 0x0, 0x0, 0x0, 0x0⟩,
  ⟨0x80, 1, 0, 0x0, 0x0, 0x0, 0x0, 0x0, 0x0, 0x0⟩,
  ⟨0x84, 1, 0, 0x0, 0x0, 0x0, 0x0, 0x0, 0xFFFFFFFF, 0x0⟩,
  ⟨0x88, 1, 0, 0xFFFFFFFF, 0x0, 0x0, 0x0, 0x0, 0x0, 0x0⟩,
  ⟨0x8C, 1, 0, 0xFFFFFFFF, 0x0, 0x0, 0x0, 0x0, 0x0, 0x0⟩,
  ⟨0x90, 1, 0, 0x0, 0x0, 0x0, 0x0, 0x8000FFFF, 0x0, 0x0⟩,
  ⟨0x94, 1, 0, 0x0, 0x0, 0x0, 0x0, 0x0, 0x0, 0x0⟩,
  ⟨0x98, 1, 0, 0x0, 0xFFFFFFFF, 0x0, 0x0, 0x0, 0x0, 0x4B0C0000⟩,
  ⟨0x9C, 1, 0, 0x0, 0xFF, 0x0, 0x0, 0x0, 0x0, 0x14⟩,
  ⟨0xA0, 1, 0, 0x0, 0x0, 0x0, 0x0, 0xFF, 0x0, 0x0⟩,
  ⟨0xA4, 1, 0, 0x0, 0x0, 0x0, 0x0, 0xFF03, 0x0, 0x0⟩]

/-- The block registers of the PIN page. -/
def rowsPIN : List RegRow := [
  ⟨0x40, 1, 0, 0xFFFF, 0x0, 0x0, 0x0, 0x0, 0x0, 0x0⟩,
  ⟨0x44, 1, 0, 0x0, 0x0, 0x0, 0x0, 0x0, 0x0, 0x0⟩,
  ⟨0x48, 1, 0, 0x0, 0x0, 0x0, 0x0, 0x0, 0x0, 0x0⟩,
  ⟨0x4C, 1, 0, 0x0, 0x0, 0x0, 0x0, 0x0, 0x0, 0x0⟩,
  ⟨0x50, 1, 0, 0x0, 0x0, 0x0, 0x0, 0x0, 0x0, 0x0⟩,
  ⟨0x54, 1, 0, 0x0, 0x0, 0x0, 0x0, 0x0, 0x0, 0x0⟩,
  ⟨0x58, 1, 0, 0x0, 0x0, 0x0, 0x0, 0x0, 0xFFFFFFFF, 0x0⟩]

/-- The block registers of each page kind. -/
def regRows : PageKind → List RegRow
  | .sys => rowsSYS
  | .clk => rowsCLK
  | .pll => rowsPLL
  | .pwr => rowsPWR
  | .aon => rowsAON
  | .thm => rowsTHM
  | .mem => rowsMEM
  | .icx => rowsICX
  | .dma => rowsDMA
  | .mpu => rowsMPU
  | .intc => rowsINTC
  | .tbs => rowsTBS
  | .modc => rowsMOD
  | .modch => rowsMODCH
  | .lpw => rowsLPW
  | .trp => rowsTRP
  | .grn => rowsGRN
  | .dsv => rowsDSV
  | .lex => rowsLEX
  | .leg => rowsLEG
  | .mcx => rowsMCX
  | .adc => rowsADC
  | .pair => rowsPAIR
  | .blk => rowsBLK
  | .lane => rowsLANE
  | .trl => rowsTRL
  | .stl => rowsSTL
  | .can => rowsCAN
  | .eth => rowsETH
  | .saf => rowsSAF
  | .sec => rowsSEC
  | .nvl => rowsNVL
  | .pin => rowsPIN

/-! ### SYS () -/

abbrev SYS.page : Nat := 0x40000000

/-! ### CLK (R417) -/

abbrev CLK.page : Nat := 0x40010000
abbrev CLK.DOM_STAT : Nat := 0x40010040
abbrev CLK.DOM_STAT_RUN : Fld := ⟨0x40010040, 0, 16⟩
abbrev CLK.GATE : Nat := 0x40010044
abbrev CLK.GATE_GATE : Fld := ⟨0x40010044, 0, 16⟩
abbrev CLK.MON : Nat := 0x40010048
abbrev CLK.MON_FAIL : Fld := ⟨0x40010048, 0, 16⟩
abbrev CLK.MON_XT_FAIL : Fld := ⟨0x40010048, 16, 1⟩

/-! ### PLL (R418) -/

abbrev PLL.page (p : Nat) : Nat := 0x40011000 + 0x1000 * p
abbrev PLL.PCFG (p : Nat) : Nat := 0x40011040 + 0x1000 * p
abbrev PLL.PCFG_EN (p : Nat) : Fld := ⟨0x40011040 + 0x1000 * p, 0, 1⟩
abbrev PLL.PCFG_RDIV (p : Nat) : Fld := ⟨0x40011040 + 0x1000 * p, 1, 6⟩
abbrev PLL.PCFG_MINT (p : Nat) : Fld := ⟨0x40011040 + 0x1000 * p, 8, 10⟩
abbrev PLL.PFRAC (p : Nat) : Nat := 0x40011044 + 0x1000 * p
abbrev PLL.PFRAC_MFRAC (p : Nat) : Fld := ⟨0x40011044 + 0x1000 * p, 0, 20⟩
abbrev PLL.PLOCK (p : Nat) : Nat := 0x40011048 + 0x1000 * p
abbrev PLL.PLOCK_W (p : Nat) : Fld := ⟨0x40011048 + 0x1000 * p, 0, 8⟩
abbrev PLL.PLOCK_N (p : Nat) : Fld := ⟨0x40011048 + 0x1000 * p, 8, 13⟩
abbrev PLL.PSTAT (p : Nat) : Nat := 0x4001104C + 0x1000 * p
abbrev PLL.PSTAT_LOCKED (p : Nat) : Fld := ⟨0x4001104C + 0x1000 * p, 0, 1⟩
abbrev PLL.PSTAT_SEARCH (p : Nat) : Fld := ⟨0x4001104C + 0x1000 * p, 1, 1⟩
abbrev PLL.PSTAT_BAND (p : Nat) : Fld := ⟨0x4001104C + 0x1000 * p, 2, 6⟩
abbrev PLL.PSTAT_LOL_CNT (p : Nat) : Fld := ⟨0x4001104C + 0x1000 * p, 8, 8⟩
abbrev PLL.OUT (p : Nat) (i : Nat) : Nat := 0x40011060 + 0x1000 * p + 0x4 * i
abbrev PLL.OUT_DIV (p : Nat) (i : Nat) : Fld := ⟨0x40011060 + 0x1000 * p + 0x4 * i, 0, 8⟩
abbrev PLL.OUT_DLY (p : Nat) (i : Nat) : Fld := ⟨0x40011060 + 0x1000 * p + 0x4 * i, 8, 6⟩
abbrev PLL.OUT_EN (p : Nat) (i : Nat) : Fld := ⟨0x40011060 + 0x1000 * p + 0x4 * i, 14, 1⟩

/-! ### PWR (R419) -/

abbrev PWR.page : Nat := 0x40020000
abbrev PWR.CMD : Nat := 0x40020040
abbrev PWR.CMD_OP : Fld := ⟨0x40020040, 0, 3⟩
abbrev PWR.STAT : Nat := 0x40020044
abbrev PWR.STAT_STATE : Fld := ⟨0x40020044, 0, 3⟩
abbrev PWR.STAT_ARMED : Fld := ⟨0x40020044, 3, 1⟩
abbrev PWR.STAT_ARM_PEND : Fld := ⟨0x40020044, 4, 1⟩
abbrev PWR.STAT_DIS_CAUSE : Fld := ⟨0x40020044, 5, 4⟩
abbrev PWR.STAT_ENTRY_ABORT : Fld := ⟨0x40020044, 9, 1⟩
abbrev PWR.STAT_VIN_LOW : Fld := ⟨0x40020044, 10, 1⟩
abbrev PWR.ARM : Nat := 0x40020048
abbrev PWR.ARM_OP : Fld := ⟨0x40020048, 0, 2⟩
abbrev PWR.ARM_KEY : Fld := ⟨0x40020048, 8, 8⟩
abbrev PWR.VIN : Nat := 0x4002004C
abbrev PWR.VIN_V : Fld := ⟨0x4002004C, 0, 16⟩
abbrev PWR.VIN_VIN_WARN : Fld := ⟨0x4002004C, 16, 16⟩
abbrev PWR.WAKE_LAT : Nat := 0x40020050
abbrev PWR.WAKE_LAT_T : Fld := ⟨0x40020050, 0, 16⟩

/-! ### AON (R421) -/

abbrev AON.page : Nat := 0x40030000
abbrev AON.WAKE_EN : Nat := 0x40030040
abbrev AON.WAKE_EN_CAN : Fld := ⟨0x40030040, 0, 4⟩
abbrev AON.WAKE_EN_ETH : Fld := ⟨0x40030040, 4, 2⟩
abbrev AON.WAKE_EN_RTC : Fld := ⟨0x40030040, 6, 1⟩
abbrev AON.WAKE_EN_SI : Fld := ⟨0x40030040, 8, 8⟩
abbrev AON.WAKE_SRC : Nat := 0x40030044
abbrev AON.WAKE_SRC_SRC : Fld := ⟨0x40030044, 0, 16⟩
abbrev AON.RTC_SEC : Nat := 0x40030048
abbrev AON.RTC_SEC_SEC : Fld := ⟨0x40030048, 0, 32⟩
abbrev AON.RTC_SUB : Nat := 0x4003004C
abbrev AON.RTC_SUB_SUB : Fld := ⟨0x4003004C, 0, 15⟩
abbrev AON.RTC_ALM : Nat := 0x40030050
abbrev AON.RTC_ALM_ALM : Fld := ⟨0x40030050, 0, 32⟩
abbrev AON.SLP_CNT : Nat := 0x40030054
abbrev AON.SLP_CNT_CNT : Fld := ⟨0x40030054, 0, 32⟩
abbrev AON.SCRATCH (i : Nat) : Nat := 0x40030060 + 0x4 * i
abbrev AON.SCRATCH_DATA (i : Nat) : Fld := ⟨0x40030060 + 0x4 * i, 0, 32⟩

/-! ### THM (R476) -/

abbrev THM.page : Nat := 0x40040000
abbrev THM.CFG : Nat := 0x40040040
abbrev THM.CFG_T_WARN : Fld := ⟨0x40040040, 0, 8⟩
abbrev THM.MAX : Nat := 0x40040044
abbrev THM.MAX_T : Fld := ⟨0x40040044, 0, 16⟩
abbrev THM.MAX_SENSOR : Fld := ⟨0x40040044, 16, 4⟩
abbrev THM.TS (i : Nat) : Nat := 0x40040048 + 0x4 * i
abbrev THM.TS_T (i : Nat) : Fld := ⟨0x40040048 + 0x4 * i, 0, 16⟩
abbrev THM.TS_VALID (i : Nat) : Fld := ⟨0x40040048 + 0x4 * i, 16, 1⟩
abbrev THM.TS_OOR (i : Nat) : Fld := ⟨0x40040048 + 0x4 * i, 17, 1⟩
abbrev THM.TS_STUCK (i : Nat) : Fld := ⟨0x40040048 + 0x4 * i, 18, 1⟩
abbrev THM.TS_ABSENT (i : Nat) : Fld := ⟨0x40040048 + 0x4 * i, 19, 1⟩
abbrev THM.EXCL : Nat := 0x40040080
abbrev THM.EXCL_MAP : Fld := ⟨0x40040080, 0, 14⟩
abbrev THM.STAT : Nat := 0x40040084
abbrev THM.STAT_WARN : Fld := ⟨0x40040084, 0, 1⟩
abbrev THM.STAT_SOC_BLIND : Fld := ⟨0x40040084, 1, 1⟩
abbrev THM.TSD_REC0 : Nat := 0x40040088
abbrev THM.TSD_REC0_T : Fld := ⟨0x40040088, 0, 16⟩
abbrev THM.TSD_REC0_SENSOR : Fld := ⟨0x40040088, 16, 4⟩
abbrev THM.TSD_REC1 : Nat := 0x4004008C
abbrev THM.TSD_REC1_SEC : Fld := ⟨0x4004008C, 0, 32⟩
abbrev THM.TSD_REC2 : Nat := 0x40040090
abbrev THM.TSD_REC2_PIDX : Fld := ⟨0x40040090, 0, 32⟩
abbrev THM.TSD_CNT : Nat := 0x40040094
abbrev THM.TSD_CNT_CNT : Fld := ⟨0x40040094, 0, 16⟩

/-! ### MEM (R474) -/

abbrev MEM.page : Nat := 0x40050000
abbrev MEM.RAKE_CFG : Nat := 0x40050040
abbrev MEM.RAKE_CFG_EN : Fld := ⟨0x40050040, 0, 1⟩
abbrev MEM.RAKE_CFG_RUN_INT : Fld := ⟨0x40050040, 4, 17⟩
abbrev MEM.RAKE_CFG_SLP_INT : Fld := ⟨0x40050040, 21, 9⟩
abbrev MEM.RAKE_REG : Nat := 0x40050044
abbrev MEM.RAKE_REG_EN : Fld := ⟨0x40050044, 0, 20⟩
abbrev MEM.RAKE_SLIP : Nat := 0x40050048
abbrev MEM.RAKE_SLIP_CNT : Fld := ⟨0x40050048, 0, 32⟩
abbrev MEM.PAN_CFG : Nat := 0x4005004C
abbrev MEM.PAN_CFG_LEAK : Fld := ⟨0x4005004C, 0, 16⟩
abbrev MEM.PAN_CFG_THR : Fld := ⟨0x4005004C, 16, 16⟩
abbrev MEM.PAN_STAT : Nat := 0x40050050
abbrev MEM.PAN_STAT_LEVEL : Fld := ⟨0x40050050, 0, 16⟩
abbrev MEM.PAN_STAT_OVF_CNT : Fld := ⟨0x40050050, 16, 16⟩
abbrev MEM.CE_TOT : Nat := 0x40050054
abbrev MEM.CE_TOT_CNT : Fld := ⟨0x40050054, 0, 32⟩
abbrev MEM.LAST_CE0 : Nat := 0x40050058
abbrev MEM.LAST_CE0_WORD : Fld := ⟨0x40050058, 0, 21⟩
abbrev MEM.LAST_CE0_REGION : Fld := ⟨0x40050058, 21, 5⟩
abbrev MEM.LAST_CE0_SRC : Fld := ⟨0x40050058, 26, 1⟩
abbrev MEM.LAST_CE1 : Nat := 0x4005005C
abbrev MEM.LAST_CE1_SYND : Fld := ⟨0x4005005C, 0, 8⟩
abbrev MEM.LAST_UE0 : Nat := 0x40050060
abbrev MEM.LAST_UE0_WORD : Fld := ⟨0x40050060, 0, 21⟩
abbrev MEM.LAST_UE0_REGION : Fld := ⟨0x40050060, 21, 5⟩
abbrev MEM.LAST_UE0_SRC : Fld := ⟨0x40050060, 26, 1⟩
abbrev MEM.LAST_UE0_CRIT : Fld := ⟨0x40050060, 27, 1⟩
abbrev MEM.LAST_UE0_SLEEP : Fld := ⟨0x40050060, 28, 1⟩
abbrev MEM.LAST_UE1 : Nat := 0x40050064
abbrev MEM.LAST_UE1_SYND : Fld := ⟨0x40050064, 0, 8⟩
abbrev MEM.LAST_UE1_CHK : Fld := ⟨0x40050064, 8, 8⟩
abbrev MEM.LAST_UE2 : Nat := 0x40050068
abbrev MEM.LAST_UE2_DATA : Fld := ⟨0x40050068, 0, 32⟩
abbrev MEM.LAST_UE3 : Nat := 0x4005006C
abbrev MEM.LAST_UE3_DATA : Fld := ⟨0x4005006C, 0, 32⟩
abbrev MEM.UE_CNT : Nat := 0x40050070
abbrev MEM.UE_CNT_UE_BG : Fld := ⟨0x40050070, 0, 16⟩
abbrev MEM.UE_CNT_UE_RD : Fld := ⟨0x40050070, 16, 16⟩
abbrev MEM.PCLR : Nat := 0x40050074
abbrev MEM.PCLR_WORD : Fld := ⟨0x40050074, 0, 21⟩
abbrev MEM.PCLR_REGION : Fld := ⟨0x40050074, 21, 5⟩
abbrev MEM.PCLR_GO : Fld := ⟨0x40050074, 31, 1⟩
abbrev MEM.TEST_CFG : Nat := 0x40050078
abbrev MEM.TEST_CFG_PAGE : Fld := ⟨0x40050078, 0, 12⟩
abbrev MEM.TEST_CFG_EN : Fld := ⟨0x40050078, 12, 1⟩
abbrev MEM.TEST_ADDR : Nat := 0x4005007C
abbrev MEM.TEST_ADDR_WORD : Fld := ⟨0x4005007C, 0, 9⟩
abbrev MEM.TEST_DLO : Nat := 0x40050080
abbrev MEM.TEST_DLO_DATA : Fld := ⟨0x40050080, 0, 32⟩
abbrev MEM.TEST_DHI : Nat := 0x40050084
abbrev MEM.TEST_DHI_DATA : Fld := ⟨0x40050084, 0, 32⟩
abbrev MEM.TEST_CHK : Nat := 0x40050088
abbrev MEM.TEST_CHK_CHK : Fld := ⟨0x40050088, 0, 8⟩
abbrev MEM.TEST_CMD : Nat := 0x4005008C
abbrev MEM.TEST_CMD_WR_RAW : Fld := ⟨0x4005008C, 0, 1⟩
abbrev MEM.TEST_CMD_RD_RAW : Fld := ⟨0x4005008C, 1, 1⟩
abbrev MEM.TEST_CNT : Nat := 0x40050090
abbrev MEM.TEST_CNT_CE : Fld := ⟨0x40050090, 0, 16⟩
abbrev MEM.TEST_CNT_UE : Fld := ⟨0x40050090, 16, 16⟩
abbrev MEM.SLP_LOST : Nat := 0x40050094
abbrev MEM.SLP_LOST_CNT : Fld := ⟨0x40050094, 0, 16⟩
abbrev MEM.REMAP (i : Nat) : Nat := 0x40050098 + 0x4 * i
abbrev MEM.REMAP_PAGE (i : Nat) : Fld := ⟨0x40050098 + 0x4 * i, 0, 12⟩
abbrev MEM.REMAP_GO (i : Nat) : Fld := ⟨0x40050098 + 0x4 * i, 12, 1⟩
abbrev MEM.REMAP_BUSY (i : Nat) : Fld := ⟨0x40050098 + 0x4 * i, 13, 1⟩
abbrev MEM.REMAP_ACTIVE (i : Nat) : Fld := ⟨0x40050098 + 0x4 * i, 14, 1⟩
abbrev MEM.CRIT_W0 (i : Nat) : Nat := 0x400500C0 + 0x8 * i
abbrev MEM.CRIT_W0_FIRST (i : Nat) : Fld := ⟨0x400500C0 + 0x8 * i, 0, 21⟩
abbrev MEM.CRIT_W0_REGION (i : Nat) : Fld := ⟨0x400500C0 + 0x8 * i, 21, 5⟩
abbrev MEM.CRIT_W0_CLASS (i : Nat) : Fld := ⟨0x400500C0 + 0x8 * i, 26, 3⟩
abbrev MEM.CRIT_W1 (i : Nat) : Nat := 0x400500C4 + 0x8 * i
abbrev MEM.CRIT_W1_LAST (i : Nat) : Fld := ⟨0x400500C4 + 0x8 * i, 0, 21⟩
abbrev MEM.CRIT_W1_ENG (i : Nat) : Fld := ⟨0x400500C4 + 0x8 * i, 21, 4⟩
abbrev MEM.CRIT_W1_CTX (i : Nat) : Fld := ⟨0x400500C4 + 0x8 * i, 25, 4⟩
abbrev MEM.CRIT_W1_HAS_POISON (i : Nat) : Fld := ⟨0x400500C4 + 0x8 * i, 29, 1⟩
abbrev MEM.CRIT_W1_HIT (i : Nat) : Fld := ⟨0x400500C4 + 0x8 * i, 30, 1⟩

/-! ### ICX (R37) -/

abbrev ICX.page : Nat := 0x40060000
abbrev ICX.LOAD : Nat := 0x40060040
abbrev ICX.LOAD_LOAD_NOW : Fld := ⟨0x40060040, 0, 8⟩
abbrev ICX.LOAD_LOAD_MAX : Fld := ⟨0x40060040, 8, 8⟩
abbrev ICX.LOAD_HI_SHARE : Fld := ⟨0x40060040, 16, 8⟩
abbrev ICX.LOAD_PORT : Fld := ⟨0x40060040, 24, 8⟩
abbrev ICX.P3_STARVE_THR : Nat := 0x40060044
abbrev ICX.P3_STARVE_THR_THR : Fld := ⟨0x40060044, 0, 16⟩
abbrev ICX.P3_STARVE_CNT : Nat := 0x40060048
abbrev ICX.P3_STARVE_CNT_CNT : Fld := ⟨0x40060048, 0, 32⟩
abbrev ICX.P3_WAIT_MAX : Nat := 0x4006004C
abbrev ICX.P3_WAIT_MAX_WAIT : Fld := ⟨0x4006004C, 0, 24⟩
abbrev ICX.BOUND_VIOL : Nat := 0x40060050
abbrev ICX.BOUND_VIOL_P0_VIOL : Fld := ⟨0x40060050, 0, 1⟩
abbrev ICX.BOUND_VIOL_P1_VIOL : Fld := ⟨0x40060050, 1, 1⟩
abbrev ICX.BOUND_VIOL_P2_VIOL : Fld := ⟨0x40060050, 2, 1⟩

/-! ### DMA (R494) -/

abbrev DMA.page : Nat := 0x40070000
abbrev DMA.CH_SRC (i : Nat) : Nat := 0x40070100 + 0x10 * i
abbrev DMA.CH_SRC_ADDR (i : Nat) : Fld := ⟨0x40070100 + 0x10 * i, 0, 32⟩
abbrev DMA.CH_DST (i : Nat) : Nat := 0x40070104 + 0x10 * i
abbrev DMA.CH_DST_ADDR (i : Nat) : Fld := ⟨0x40070104 + 0x10 * i, 0, 32⟩
abbrev DMA.CH_LEN (i : Nat) : Nat := 0x40070108 + 0x10 * i
abbrev DMA.CH_LEN_LEN (i : Nat) : Fld := ⟨0x40070108 + 0x10 * i, 0, 24⟩
abbrev DMA.CH_CFG (i : Nat) : Nat := 0x4007010C + 0x10 * i
abbrev DMA.CH_CFG_EN (i : Nat) : Fld := ⟨0x4007010C + 0x10 * i, 0, 1⟩
abbrev DMA.CH_CFG_RT (i : Nat) : Fld := ⟨0x4007010C + 0x10 * i, 1, 1⟩
abbrev DMA.CH_CFG_GO (i : Nat) : Fld := ⟨0x4007010C + 0x10 * i, 2, 1⟩
abbrev DMA.CH_CFG_DONE (i : Nat) : Fld := ⟨0x4007010C + 0x10 * i, 3, 1⟩
abbrev DMA.CH_CFG_ERR (i : Nat) : Fld := ⟨0x4007010C + 0x10 * i, 4, 1⟩

/-! ### MPU (R495) -/

abbrev MPU.page : Nat := 0x40080000
abbrev MPU.REG_BASE (i : Nat) : Nat := 0x40080040 + 0x8 * i
abbrev MPU.REG_BASE_BASE (i : Nat) : Fld := ⟨0x40080040 + 0x8 * i, 12, 20⟩
abbrev MPU.REG_LIMIT (i : Nat) : Nat := 0x40080044 + 0x8 * i
abbrev MPU.REG_LIMIT_DMA_R (i : Nat) : Fld := ⟨0x40080044 + 0x8 * i, 0, 1⟩
abbrev MPU.REG_LIMIT_DMA_W (i : Nat) : Fld := ⟨0x40080044 + 0x8 * i, 1, 1⟩
abbrev MPU.REG_LIMIT_EN (i : Nat) : Fld := ⟨0x40080044 + 0x8 * i, 2, 1⟩
abbrev MPU.REG_LIMIT_LIMIT (i : Nat) : Fld := ⟨0x40080044 + 0x8 * i, 12, 20⟩

/-! ### INTC (R488) -/

abbrev INTC.page : Nat := 0x400A0000
abbrev INTC.THR (i : Nat) : Nat := 0x400A0040 + 0x4 * i
abbrev INTC.THR_THR (i : Nat) : Fld := ⟨0x400A0040 + 0x4 * i, 0, 4⟩
abbrev INTC.CLAIM (i : Nat) : Nat := 0x400A0048 + 0x4 * i
abbrev INTC.CLAIM_LINE (i : Nat) : Fld := ⟨0x400A0048 + 0x4 * i, 0, 8⟩
abbrev INTC.SRC (i : Nat) : Nat := 0x400A0100 + 0x4 * i
abbrev INTC.SRC_TGT (i : Nat) : Fld := ⟨0x400A0100 + 0x4 * i, 0, 2⟩
abbrev INTC.SRC_PRIO (i : Nat) : Fld := ⟨0x400A0100 + 0x4 * i, 4, 4⟩
abbrev INTC.SRC_PEND (i : Nat) : Fld := ⟨0x400A0100 + 0x4 * i, 8, 1⟩
abbrev INTC.SRC_ACT (i : Nat) : Fld := ⟨0x400A0100 + 0x4 * i, 9, 1⟩
abbrev INTC.COMPLETE (i : Nat) : Nat := 0x400A0050 + 0x4 * i
abbrev INTC.COMPLETE_LINE (i : Nat) : Fld := ⟨0x400A0050 + 0x4 * i, 0, 8⟩

/-! ### TBS (R339, R35, R36) -/

abbrev TBS.page : Nat := 0x40100000
abbrev TBS.PER_CFG : Nat := 0x40100100
abbrev TBS.PER_CFG_PERIOD : Fld := ⟨0x40100100, 0, 16⟩
abbrev TBS.PER_WIN0 : Nat := 0x40100104
abbrev TBS.PER_WIN0_W_UPL : Fld := ⟨0x40100104, 0, 16⟩
abbrev TBS.PER_WIN0_W_LE : Fld := ⟨0x40100104, 16, 16⟩
abbrev TBS.PER_WIN1 : Nat := 0x40100108
abbrev TBS.PER_WIN1_W_GD : Fld := ⟨0x40100108, 0, 16⟩
abbrev TBS.PER_WIN1_W_DL : Fld := ⟨0x40100108, 16, 16⟩
abbrev TBS.OVR_ACT : Nat := 0x4010010C
abbrev TBS.OVR_ACT_UPL_ACT : Fld := ⟨0x4010010C, 0, 2⟩
abbrev TBS.OVR_ACT_LE_ACT : Fld := ⟨0x4010010C, 2, 2⟩
abbrev TBS.OVR_ACT_GD_ACT : Fld := ⟨0x4010010C, 4, 2⟩
abbrev TBS.OVR_ACT_DL_ACT : Fld := ⟨0x4010010C, 6, 2⟩
abbrev TBS.OVR_ACT_HOLD_LIM : Fld := ⟨0x4010010C, 8, 3⟩
abbrev TBS.OVR_STAT : Nat := 0x40100110
abbrev TBS.OVR_STAT_UPL_OVR : Fld := ⟨0x40100110, 0, 1⟩
abbrev TBS.OVR_STAT_LE_OVR : Fld := ⟨0x40100110, 1, 1⟩
abbrev TBS.OVR_STAT_GD_OVR : Fld := ⟨0x40100110, 2, 1⟩
abbrev TBS.OVR_STAT_DL_OVR : Fld := ⟨0x40100110, 3, 1⟩
abbrev TBS.OVR_STAT_ESCALATE : Fld := ⟨0x40100110, 4, 1⟩
abbrev TBS.LE_OVR_MAP : Nat := 0x40100114
abbrev TBS.LE_OVR_MAP_ENG : Fld := ⟨0x40100114, 0, 16⟩
abbrev TBS.UPL_LATE_MAP0 : Nat := 0x40100118
abbrev TBS.UPL_LATE_MAP0_CELL_LO : Fld := ⟨0x40100118, 0, 32⟩
abbrev TBS.UPL_LATE_MAP1 : Nat := 0x4010011C
abbrev TBS.UPL_LATE_MAP1_CELL_HI : Fld := ⟨0x4010011C, 0, 16⟩
abbrev TBS.OVR_CNT : Nat := 0x40100120
abbrev TBS.OVR_CNT_CNT : Fld := ⟨0x40100120, 0, 32⟩
abbrev TBS.LE_SLACK : Nat := 0x40100124
abbrev TBS.LE_SLACK_SLACK_MIN : Fld := ⟨0x40100124, 0, 16⟩
abbrev TBS.TCFG : Nat := 0x40100040
abbrev TBS.TCFG_TSRC : Fld := ⟨0x40100040, 0, 2⟩
abbrev TBS.TCFG_RATE_MAX : Fld := ⟨0x40100040, 16, 9⟩
abbrev TBS.TCMD : Nat := 0x40100044
abbrev TBS.TCMD_CAPTURE : Fld := ⟨0x40100044, 0, 1⟩
abbrev TBS.TCMD_STEP : Fld := ⟨0x40100044, 1, 1⟩
abbrev TBS.ST_SEC0 : Nat := 0x40100048
abbrev TBS.ST_SEC0_SEC_LO : Fld := ⟨0x40100048, 0, 32⟩
abbrev TBS.ST_SEC1 : Nat := 0x4010004C
abbrev TBS.ST_SEC1_SEC_HI : Fld := ⟨0x4010004C, 0, 16⟩
abbrev TBS.ST_NS : Nat := 0x40100050
abbrev TBS.ST_NS_NS : Fld := ⟨0x40100050, 0, 30⟩
abbrev TBS.ST_FRAC : Nat := 0x40100054
abbrev TBS.ST_FRAC_FRAC : Fld := ⟨0x40100054, 0, 16⟩
abbrev TBS.SET_SEC0 : Nat := 0x40100058
abbrev TBS.SET_SEC0_SEC_LO : Fld := ⟨0x40100058, 0, 32⟩
abbrev TBS.SET_SEC1 : Nat := 0x4010005C
abbrev TBS.SET_SEC1_SEC_HI : Fld := ⟨0x4010005C, 0, 16⟩
abbrev TBS.SET_NS : Nat := 0x40100060
abbrev TBS.SET_NS_NS : Fld := ⟨0x40100060, 0, 30⟩
abbrev TBS.PIDX0 : Nat := 0x40100064
abbrev TBS.PIDX0_PIDX : Fld := ⟨0x40100064, 0, 32⟩
abbrev TBS.PIDX1 : Nat := 0x40100068
abbrev TBS.PIDX1_PIDX : Fld := ⟨0x40100068, 0, 32⟩
abbrev TBS.EPOCH_SEC0 : Nat := 0x4010006C
abbrev TBS.EPOCH_SEC0_SEC_LO : Fld := ⟨0x4010006C, 0, 32⟩
abbrev TBS.EPOCH_SEC1 : Nat := 0x40100070
abbrev TBS.EPOCH_SEC1_SEC_HI : Fld := ⟨0x40100070, 0, 16⟩
abbrev TBS.EPOCH_NS : Nat := 0x40100074
abbrev TBS.EPOCH_NS_NS : Fld := ⟨0x40100074, 0, 30⟩
abbrev TBS.TSTAT : Nat := 0x40100078
abbrev TBS.TSTAT_ROLE : Fld := ⟨0x40100078, 0, 1⟩
abbrev TBS.TSTAT_HOLDOVER : Fld := ⟨0x40100078, 1, 1⟩
abbrev TBS.TSTAT_PTP_LOCK : Fld := ⟨0x40100078, 2, 1⟩
abbrev TBS.TSTAT_RATE_LIM : Fld := ⟨0x40100078, 3, 1⟩
abbrev TBS.TSTAT_HOP_FAR : Fld := ⟨0x40100078, 4, 1⟩
abbrev TBS.TSTAT_HOPS : Fld := ⟨0x40100078, 5, 4⟩
abbrev TBS.TSTAT_UP_LANE : Fld := ⟨0x40100078, 9, 3⟩
abbrev TBS.OFFS : Nat := 0x4010007C
abbrev TBS.OFFS_OFS : Fld := ⟨0x4010007C, 0, 16⟩
abbrev TBS.PTP_OFS : Nat := 0x40100080
abbrev TBS.PTP_OFS_OFS : Fld := ⟨0x40100080, 0, 32⟩
abbrev TBS.RATE : Nat := 0x40100084
abbrev TBS.RATE_RATE : Fld := ⟨0x40100084, 0, 32⟩

/-! ### MOD (R139) -/

abbrev MOD.page : Nat := 0x40110000
abbrev MOD.CFG : Nat := 0x40110040
abbrev MOD.CFG_HALT_MODE : Fld := ⟨0x40110040, 0, 1⟩
abbrev MOD.CFG_GLB_LOCK : Fld := ⟨0x40110040, 1, 1⟩
abbrev MOD.CFG_HALT_HCA : Fld := ⟨0x40110040, 2, 1⟩
abbrev MOD.CFG_HALT_HCB : Fld := ⟨0x40110040, 3, 1⟩
abbrev MOD.CFG_HALT_LE : Fld := ⟨0x40110040, 4, 1⟩
abbrev MOD.TB_STAT : Nat := 0x40110044
abbrev MOD.TB_STAT_LOCK : Fld := ⟨0x40110044, 0, 1⟩
abbrev MOD.TB_STAT_DISC : Fld := ⟨0x40110044, 1, 1⟩
abbrev MOD.TB_STAT_CAL_OK : Fld := ⟨0x40110044, 2, 1⟩
abbrev MOD.TB_STAT_FRZ_ACTIVE : Fld := ⟨0x40110044, 3, 1⟩
abbrev MOD.TB_STAT_FRZ_DENIED : Fld := ⟨0x40110044, 4, 1⟩
abbrev MOD.SLOT_PH (i : Nat) : Nat := 0x40110048 + 0x4 * i
abbrev MOD.SLOT_PH_PH (i : Nat) : Fld := ⟨0x40110048 + 0x4 * i, 0, 18⟩
abbrev MOD.EVT_OVF_MAP0 : Nat := 0x40110068
abbrev MOD.EVT_OVF_MAP0_CELL_LO : Fld := ⟨0x40110068, 0, 32⟩
abbrev MOD.EVT_OVF_MAP1 : Nat := 0x4011006C
abbrev MOD.EVT_OVF_MAP1_CELL_HI : Fld := ⟨0x4011006C, 0, 16⟩
abbrev MOD.DEFER_CNT : Nat := 0x40110070
abbrev MOD.DEFER_CNT_CNT : Fld := ⟨0x40110070, 0, 32⟩

/-! ### MODCH (R140) -/

abbrev MODCH.page (p : Nat) : Nat := 0x40111000 + 0x1000 * p
abbrev MODCH.CFG (ch : Nat) : Nat := 0x40111080 + 0x1000 * (ch / 8) + 0x20 * (ch % 8)
abbrev MODCH.CFG_EN (ch : Nat) : Fld := ⟨0x40111080 + 0x1000 * (ch / 8) + 0x20 * (ch % 8), 0, 1⟩
abbrev MODCH.CFG_TYPE (ch : Nat) : Fld := ⟨0x40111080 + 0x1000 * (ch / 8) + 0x20 * (ch % 8), 1, 1⟩
abbrev MODCH.CFG_RLD (ch : Nat) : Fld := ⟨0x40111080 + 0x1000 * (ch / 8) + 0x20 * (ch % 8), 2, 2⟩
abbrev MODCH.PRD (ch : Nat) : Nat := 0x40111084 + 0x1000 * (ch / 8) + 0x20 * (ch % 8)
abbrev MODCH.PRD_PRD (ch : Nat) : Fld := ⟨0x40111084 + 0x1000 * (ch / 8) + 0x20 * (ch % 8), 0, 17⟩
abbrev MODCH.PHASE (ch : Nat) : Nat := 0x40111088 + 0x1000 * (ch / 8) + 0x20 * (ch % 8)
abbrev MODCH.PHASE_PHASE (ch : Nat) : Fld := ⟨0x40111088 + 0x1000 * (ch / 8) + 0x20 * (ch % 8), 0, 18⟩
abbrev MODCH.CMPA (ch : Nat) : Nat := 0x4011108C + 0x1000 * (ch / 8) + 0x20 * (ch % 8)
abbrev MODCH.CMPA_CMPA (ch : Nat) : Fld := ⟨0x4011108C + 0x1000 * (ch / 8) + 0x20 * (ch % 8), 0, 21⟩
abbrev MODCH.CMPB (ch : Nat) : Nat := 0x40111090 + 0x1000 * (ch / 8) + 0x20 * (ch % 8)
abbrev MODCH.CMPB_CMPB (ch : Nat) : Fld := ⟨0x40111090 + 0x1000 * (ch / 8) + 0x20 * (ch % 8), 0, 21⟩
abbrev MODCH.DT (ch : Nat) : Nat := 0x40111094 + 0x1000 * (ch / 8) + 0x20 * (ch % 8)
abbrev MODCH.DT_DT_A (ch : Nat) : Fld := ⟨0x40111094 + 0x1000 * (ch / 8) + 0x20 * (ch % 8), 0, 16⟩
abbrev MODCH.DT_DT_B (ch : Nat) : Fld := ⟨0x40111094 + 0x1000 * (ch / 8) + 0x20 * (ch % 8), 16, 16⟩
abbrev MODCH.MINPW (ch : Nat) : Nat := 0x40111098 + 0x1000 * (ch / 8) + 0x20 * (ch % 8)
abbrev MODCH.MINPW_MINPW (ch : Nat) : Fld := ⟨0x40111098 + 0x1000 * (ch / 8) + 0x20 * (ch % 8), 0, 16⟩
abbrev MODCH.STAT (ch : Nat) : Nat := 0x4011109C + 0x1000 * (ch / 8) + 0x20 * (ch % 8)
abbrev MODCH.STAT_EVT (ch : Nat) : Fld := ⟨0x4011109C + 0x1000 * (ch / 8) + 0x20 * (ch % 8), 0, 5⟩
abbrev MODCH.STAT_EVT_OVF (ch : Nat) : Fld := ⟨0x4011109C + 0x1000 * (ch / 8) + 0x20 * (ch % 8), 5, 1⟩
abbrev MODCH.STAT_BLOCKED (ch : Nat) : Fld := ⟨0x4011109C + 0x1000 * (ch / 8) + 0x20 * (ch % 8), 6, 1⟩
abbrev MODCH.STAT_DT_PEND (ch : Nat) : Fld := ⟨0x4011109C + 0x1000 * (ch / 8) + 0x20 * (ch % 8), 7, 1⟩
abbrev MODCH.STAT_DEFER (ch : Nat) : Fld := ⟨0x4011109C + 0x1000 * (ch / 8) + 0x20 * (ch % 8), 8, 1⟩
abbrev MODCH.STAT_PEND (ch : Nat) : Fld := ⟨0x4011109C + 0x1000 * (ch / 8) + 0x20 * (ch % 8), 9, 1⟩
abbrev MODCH.CHPG_CTL (p : Nat) : Nat := 0x40111040 + 0x1000 * p
abbrev MODCH.CHPG_CTL_UPD_LOCK (p : Nat) : Fld := ⟨0x40111040 + 0x1000 * p, 0, 1⟩

/-! ### LPW (R142) -/

abbrev LPW.page : Nat := 0x40120000
abbrev LPW.CFG (i : Nat) : Nat := 0x40120080 + 0x20 * i
abbrev LPW.CFG_EN (i : Nat) : Fld := ⟨0x40120080 + 0x20 * i, 0, 1⟩
abbrev LPW.CFG_MODE (i : Nat) : Fld := ⟨0x40120080 + 0x20 * i, 1, 3⟩
abbrev LPW.CFG_RLD (i : Nat) : Fld := ⟨0x40120080 + 0x20 * i, 4, 2⟩
abbrev LPW.CFG_SYNC (i : Nat) : Fld := ⟨0x40120080 + 0x20 * i, 6, 1⟩
abbrev LPW.CFG_SAFE_ST (i : Nat) : Fld := ⟨0x40120080 + 0x20 * i, 7, 1⟩
abbrev LPW.PRD (i : Nat) : Nat := 0x40120084 + 0x20 * i
abbrev LPW.PRD_PRD (i : Nat) : Fld := ⟨0x40120084 + 0x20 * i, 0, 18⟩
abbrev LPW.PHASE (i : Nat) : Nat := 0x40120088 + 0x20 * i
abbrev LPW.PHASE_PHASE (i : Nat) : Fld := ⟨0x40120088 + 0x20 * i, 0, 19⟩
abbrev LPW.CMP (i : Nat) : Nat := 0x4012008C + 0x20 * i
abbrev LPW.CMP_CMP (i : Nat) : Fld := ⟨0x4012008C + 0x20 * i, 0, 22⟩
abbrev LPW.DT (i : Nat) : Nat := 0x40120090 + 0x20 * i
abbrev LPW.DT_DT (i : Nat) : Fld := ⟨0x40120090 + 0x20 * i, 0, 16⟩
abbrev LPW.MINPW (i : Nat) : Nat := 0x40120094 + 0x20 * i
abbrev LPW.MINPW_MINPW (i : Nat) : Fld := ⟨0x40120094 + 0x20 * i, 0, 16⟩
abbrev LPW.STAT (i : Nat) : Nat := 0x40120098 + 0x20 * i
abbrev LPW.STAT_OUT (i : Nat) : Fld := ⟨0x40120098 + 0x20 * i, 0, 3⟩
abbrev LPW.STAT_DEFER (i : Nat) : Fld := ⟨0x40120098 + 0x20 * i, 3, 1⟩
abbrev LPW.STAT_PEND (i : Nat) : Fld := ⟨0x40120098 + 0x20 * i, 4, 1⟩
abbrev LPW.STAT_DEFER_CNT (i : Nat) : Fld := ⟨0x40120098 + 0x20 * i, 16, 16⟩
abbrev LPW.CTL : Nat := 0x40120040
abbrev LPW.CTL_UPD_LOCK : Fld := ⟨0x40120040, 0, 12⟩

/-! ### TRP (R143) -/

abbrev TRP.page : Nat := 0x40130000
abbrev TRP.CFG : Nat := 0x40130040
abbrev TRP.CFG_EN : Fld := ⟨0x40130040, 0, 8⟩
abbrev TRP.CFG_POL : Fld := ⟨0x40130040, 8, 8⟩
abbrev TRP.CFG_GROUPS : Fld := ⟨0x40130040, 16, 1⟩
abbrev TRP.FLT0 : Nat := 0x40130044
abbrev TRP.FLT0_FLT (j : Nat) : Fld := ⟨0x40130044, 8 * j, 8⟩
abbrev TRP.FLT1 : Nat := 0x40130048
abbrev TRP.FLT1_FLT (j : Nat) : Fld := ⟨0x40130048, 8 * j, 8⟩
abbrev TRP.GMAP0 : Nat := 0x4013004C
abbrev TRP.GMAP0_GMAP (j : Nat) : Fld := ⟨0x4013004C, 8 * j, 8⟩
abbrev TRP.GMAP1 : Nat := 0x40130050
abbrev TRP.GMAP1_GMAP (j : Nat) : Fld := ⟨0x40130050, 8 * j, 8⟩
abbrev TRP.GRP (i : Nat) : Nat := 0x40130054 + 0x4 * i
abbrev TRP.GRP_LEGS (i : Nat) : Fld := ⟨0x40130054 + 0x4 * i, 0, 12⟩
abbrev TRP.GRP_ACT (i : Nat) : Fld := ⟨0x40130054 + 0x4 * i, 12, 1⟩
abbrev TRP.GRP_UNSTK (i : Nat) : Fld := ⟨0x40130054 + 0x4 * i, 13, 1⟩
abbrev TRP.GRP_STKS (i : Nat) : Fld := ⟨0x40130054 + 0x4 * i, 16, 8⟩
abbrev TRP.STAT : Nat := 0x40130074
abbrev TRP.STAT_LVL : Fld := ⟨0x40130074, 0, 8⟩
abbrev TRP.STAT_FLAG : Fld := ⟨0x40130074, 8, 8⟩
abbrev TRP.STAT_LATCH : Fld := ⟨0x40130074, 16, 8⟩
abbrev TRP.ISTAT : Nat := 0x40130078
abbrev TRP.ISTAT_FLAG : Fld := ⟨0x40130078, 0, 8⟩
abbrev TRP.ISTAT_LATCH : Fld := ⟨0x40130078, 8, 8⟩
abbrev TRP.REARM : Nat := 0x4013007C
abbrev TRP.REARM_IN : Fld := ⟨0x4013007C, 0, 8⟩
abbrev TRP.REARM_INT : Fld := ⟨0x4013007C, 8, 8⟩
abbrev TRP.SWTRIP : Nat := 0x40130080
abbrev TRP.SWTRIP_TRIP : Fld := ⟨0x40130080, 0, 1⟩
abbrev TRP.FIRST : Nat := 0x40130084
abbrev TRP.FIRST_SRC : Fld := ⟨0x40130084, 0, 4⟩
abbrev TRP.FIRST_PIDX : Fld := ⟨0x40130084, 8, 24⟩
abbrev TRP.OUT_STAT : Nat := 0x40130088
abbrev TRP.OUT_STAT_LEGS : Fld := ⟨0x40130088, 0, 12⟩
abbrev TRP.OUT_STAT_CELLS : Fld := ⟨0x40130088, 12, 1⟩

/-! ### GRN (R79) -/

abbrev GRN.page : Nat := 0x40140000
abbrev GRN.CELL_STK (i : Nat) : Nat := 0x40140040 + 0x4 * i
abbrev GRN.CELL_STK_STK (i : Nat) (j : Nat) : Fld := ⟨0x40140040 + 0x4 * i, 4 * j, 3⟩
abbrev GRN.CELL_STK_MEMB (i : Nat) (j : Nat) : Fld := ⟨0x40140040 + 0x4 * i, 4 * j + 3, 1⟩
abbrev GRN.STK_CFG (i : Nat) : Nat := 0x40140060 + 0x4 * i
abbrev GRN.STK_CFG_EN (i : Nat) : Fld := ⟨0x40140060 + 0x4 * i, 0, 1⟩
abbrev GRN.STK_CFG_MODE (i : Nat) : Fld := ⟨0x40140060 + 0x4 * i, 1, 2⟩
abbrev GRN.STK_CFG_SPARE_POL (i : Nat) : Fld := ⟨0x40140060 + 0x4 * i, 3, 1⟩
abbrev GRN.STK_CFG_AUTO_SPARE (i : Nat) : Fld := ⟨0x40140060 + 0x4 * i, 4, 1⟩
abbrev GRN.STK_CFG_SLOT_REPH (i : Nat) : Fld := ⟨0x40140060 + 0x4 * i, 5, 1⟩
abbrev GRN.STK_CFG_GAP_PZ (i : Nat) : Fld := ⟨0x40140060 + 0x4 * i, 6, 1⟩
abbrev GRN.STK_CFG_N_MIN (i : Nat) : Fld := ⟨0x40140060 + 0x4 * i, 8, 6⟩
abbrev GRN.STK_CFG_MAX_SWAP (i : Nat) : Fld := ⟨0x40140060 + 0x4 * i, 14, 3⟩
abbrev GRN.STK_CFG_ISRC (i : Nat) : Fld := ⟨0x40140060 + 0x4 * i, 17, 6⟩
abbrev GRN.STK_CFG_ISRC_INV (i : Nat) : Fld := ⟨0x40140060 + 0x4 * i, 23, 1⟩
abbrev GRN.STK_CFG_N_INIT (i : Nat) : Fld := ⟨0x40140060 + 0x4 * i, 24, 6⟩
abbrev GRN.STK_PWR (i : Nat) : Nat := 0x40140080 + 0x4 * i
abbrev GRN.STK_PWR_P_STK (i : Nat) : Fld := ⟨0x40140080 + 0x4 * i, 0, 16⟩
abbrev GRN.VLIM0 : Nat := 0x401400A0
abbrev GRN.VLIM0_OV_TRIP : Fld := ⟨0x401400A0, 0, 16⟩
abbrev GRN.VLIM0_UV_TRIP : Fld := ⟨0x401400A0, 16, 16⟩
abbrev GRN.VLIM1 : Nat := 0x401400A4
abbrev GRN.VLIM1_UV_FOLD : Fld := ⟨0x401400A4, 0, 16⟩
abbrev GRN.VLIM1_UV_STOP : Fld := ⟨0x401400A4, 16, 16⟩
abbrev GRN.VLIM2 : Nat := 0x401400A8
abbrev GRN.VLIM2_OV_FOLD : Fld := ⟨0x401400A8, 0, 16⟩
abbrev GRN.VLIM2_OV_STOP : Fld := ⟨0x401400A8, 16, 16⟩
abbrev GRN.VLIM3 : Nat := 0x401400AC
abbrev GRN.VLIM3_HYST_V : Fld := ⟨0x401400AC, 0, 16⟩
abbrev GRN.VLIM3_REINS_TOL : Fld := ⟨0x401400AC, 16, 16⟩
abbrev GRN.VLIM4 : Nat := 0x401400B0
abbrev GRN.VLIM4_PCH_MIN : Fld := ⟨0x401400B0, 0, 16⟩
abbrev GRN.PLIM : Nat := 0x401400B4
abbrev GRN.PLIM_P_CONT : Fld := ⟨0x401400B4, 0, 16⟩
abbrev GRN.PLIM_P_PEAK : Fld := ⟨0x401400B4, 16, 16⟩
abbrev GRN.PLIM2 : Nat := 0x401400B8
abbrev GRN.PLIM2_OVL_MS : Fld := ⟨0x401400B8, 0, 16⟩
abbrev GRN.PLIM2_DER_PCT : Fld := ⟨0x401400B8, 16, 7⟩
abbrev GRN.PLIM2_SPARE_P : Fld := ⟨0x401400B8, 24, 8⟩
abbrev GRN.BAL : Nat := 0x401400BC
abbrev GRN.BAL_K_BAL : Fld := ⟨0x401400BC, 0, 16⟩
abbrev GRN.BAL_TRIM_MAX : Fld := ⟨0x401400BC, 16, 16⟩
abbrev GRN.SWAP : Nat := 0x401400C0
abbrev GRN.SWAP_DWELL : Fld := ⟨0x401400C0, 0, 8⟩
abbrev GRN.SWAP_BYP_CONF : Fld := ⟨0x401400C0, 8, 8⟩
abbrev GRN.FLT_CLS : Nat := 0x401400C4
abbrev GRN.FLT_CLS_GATE_AFE : Fld := ⟨0x401400C4, 0, 3⟩
abbrev GRN.FLT_CLS_GATE_DAB : Fld := ⟨0x401400C4, 3, 3⟩
abbrev GRN.FLT_CLS_DC_OV : Fld := ⟨0x401400C4, 6, 3⟩
abbrev GRN.FLT_CLS_DC_UV : Fld := ⟨0x401400C4, 9, 3⟩
abbrev GRN.FLT_CLS_TEMP_WARN : Fld := ⟨0x401400C4, 12, 3⟩
abbrev GRN.FLT_CLS_TEMP_TRIP : Fld := ⟨0x401400C4, 15, 3⟩
abbrev GRN.FLT_CLS_LINK_LOSS : Fld := ⟨0x401400C4, 18, 3⟩
abbrev GRN.FLT_CLS_BYP_FAIL : Fld := ⟨0x401400C4, 21, 3⟩
abbrev GRN.CELL_CMD : Nat := 0x401400C8
abbrev GRN.CELL_CMD_CELL : Fld := ⟨0x401400C8, 0, 6⟩
abbrev GRN.CELL_CMD_OP : Fld := ⟨0x401400C8, 8, 3⟩
abbrev GRN.STK_CMD : Nat := 0x401400CC
abbrev GRN.STK_CMD_STK : Fld := ⟨0x401400CC, 0, 3⟩
abbrev GRN.STK_CMD_OP : Fld := ⟨0x401400CC, 4, 3⟩
abbrev GRN.CELL_STATE (i : Nat) : Nat := 0x401400D0 + 0x4 * i
abbrev GRN.CELL_STATE_STATE (i : Nat) (j : Nat) : Fld := ⟨0x401400D0 + 0x4 * i, 4 * j, 3⟩
abbrev GRN.CELL_STATE_STALE (i : Nat) (j : Nat) : Fld := ⟨0x401400D0 + 0x4 * i, 4 * j + 3, 1⟩
abbrev GRN.STK_STAT (i : Nat) : Nat := 0x401400F0 + 0x4 * i
abbrev GRN.STK_STAT_N_ACT (i : Nat) : Fld := ⟨0x401400F0 + 0x4 * i, 0, 6⟩
abbrev GRN.STK_STAT_N_SPARE (i : Nat) : Fld := ⟨0x401400F0 + 0x4 * i, 6, 6⟩
abbrev GRN.STK_STAT_STATE (i : Nat) : Fld := ⟨0x401400F0 + 0x4 * i, 12, 3⟩
abbrev GRN.STK_STAT_SAT (i : Nat) : Fld := ⟨0x401400F0 + 0x4 * i, 15, 1⟩
abbrev GRN.STK_STAT_FOLD (i : Nat) : Fld := ⟨0x401400F0 + 0x4 * i, 16, 1⟩
abbrev GRN.STK_STAT_DERATE (i : Nat) : Fld := ⟨0x401400F0 + 0x4 * i, 17, 1⟩
abbrev GRN.STK_STAT_TRIPPED (i : Nat) : Fld := ⟨0x401400F0 + 0x4 * i, 18, 1⟩
abbrev GRN.STK_STAT_PLIM (i : Nat) : Fld := ⟨0x401400F0 + 0x4 * i, 19, 13⟩
abbrev GRN.RANK (i : Nat) : Nat := 0x40140110 + 0x4 * i
abbrev GRN.RANK_RANK (i : Nat) (j : Nat) : Fld := ⟨0x40140110 + 0x4 * i, 8 * j, 6⟩
abbrev GRN.RANK_FULL (i : Nat) (j : Nat) : Fld := ⟨0x40140110 + 0x4 * i, 8 * j + 6, 1⟩
abbrev GRN.RANK_PWM (i : Nat) (j : Nat) : Fld := ⟨0x40140110 + 0x4 * i, 8 * j + 7, 1⟩
abbrev GRN.SWAP_CNT : Nat := 0x40140140
abbrev GRN.SWAP_CNT_CNT : Fld := ⟨0x40140140, 0, 32⟩
abbrev GRN.GAP_CFG0 : Nat := 0x40140144
abbrev GRN.GAP_CFG0_GAP_CODE : Fld := ⟨0x40140144, 0, 16⟩
abbrev GRN.GAP_CFG0_AI : Fld := ⟨0x40140144, 16, 6⟩
abbrev GRN.GAP_CFG0_STK : Fld := ⟨0x40140144, 22, 3⟩
abbrev GRN.GAP_CFG0_EN : Fld := ⟨0x40140144, 25, 1⟩
abbrev GRN.GAP_CFG1 : Nat := 0x40140148
abbrev GRN.GAP_CFG1_GAP_N : Fld := ⟨0x40140148, 0, 4⟩
abbrev GRN.GAP_CFG1_RET_N : Fld := ⟨0x40140148, 4, 4⟩

/-! ### DSV (R101) -/

abbrev DSV.page : Nat := 0x40150000
abbrev DSV.CFG : Nat := 0x40150040
abbrev DSV.CFG_P_IDLE : Fld := ⟨0x40150040, 0, 16⟩
abbrev DSV.EN_MAP0 : Nat := 0x40150044
abbrev DSV.EN_MAP0_EN_LO : Fld := ⟨0x40150044, 0, 32⟩
abbrev DSV.EN_MAP1 : Nat := 0x40150048
abbrev DSV.EN_MAP1_EN_HI : Fld := ⟨0x40150048, 0, 16⟩
abbrev DSV.N_MAX : Nat := 0x4015004C
abbrev DSV.N_MAX_N : Fld := ⟨0x4015004C, 0, 6⟩
abbrev DSV.N_MAX_BUDGET : Fld := ⟨0x4015004C, 6, 1⟩
abbrev DSV.DONE_T : Nat := 0x40150050
abbrev DSV.DONE_T_T : Fld := ⟨0x40150050, 0, 16⟩
abbrev DSV.HARD_MAP0 : Nat := 0x40150054
abbrev DSV.HARD_MAP0_CELL_LO : Fld := ⟨0x40150054, 0, 32⟩
abbrev DSV.HARD_MAP1 : Nat := 0x40150058
abbrev DSV.HARD_MAP1_CELL_HI : Fld := ⟨0x40150058, 0, 16⟩
abbrev DSV.SAT_MAP0 : Nat := 0x4015005C
abbrev DSV.SAT_MAP0_CELL_LO : Fld := ⟨0x4015005C, 0, 32⟩
abbrev DSV.SAT_MAP1 : Nat := 0x40150060
abbrev DSV.SAT_MAP1_CELL_HI : Fld := ⟨0x40150060, 0, 16⟩
abbrev DSV.HARD_CNT : Nat := 0x40150064
abbrev DSV.HARD_CNT_CNT : Fld := ⟨0x40150064, 0, 32⟩
abbrev DSV.PAR_COMMIT : Nat := 0x40150068
abbrev DSV.PAR_COMMIT_CELL : Fld := ⟨0x40150068, 0, 6⟩
abbrev DSV.PEND_MAP0 : Nat := 0x4015006C
abbrev DSV.PEND_MAP0_CELL_LO : Fld := ⟨0x4015006C, 0, 32⟩
abbrev DSV.PEND_MAP1 : Nat := 0x40150070
abbrev DSV.PEND_MAP1_CELL_HI : Fld := ⟨0x40150070, 0, 16⟩
abbrev DSV.PAR_STAGE0 : Nat := 0x40150080
abbrev DSV.PAR_STAGE0_L_LK : Fld := ⟨0x40150080, 0, 16⟩
abbrev DSV.PAR_STAGE0_L_M : Fld := ⟨0x40150080, 16, 16⟩
abbrev DSV.PAR_STAGE1 : Nat := 0x40150084
abbrev DSV.PAR_STAGE1_N_RATIO : Fld := ⟨0x40150084, 0, 16⟩
abbrev DSV.PAR_STAGE2 : Nat := 0x40150088
abbrev DSV.PAR_STAGE2_I_ZVS1 : Fld := ⟨0x40150088, 0, 16⟩
abbrev DSV.PAR_STAGE2_I_ZVS2 : Fld := ⟨0x40150088, 16, 16⟩
abbrev DSV.PAR_STAGE3 : Nat := 0x4015008C
abbrev DSV.PAR_STAGE3_V1_MIN : Fld := ⟨0x4015008C, 0, 16⟩
abbrev DSV.PAR_STAGE3_V1_MAX : Fld := ⟨0x4015008C, 16, 16⟩
abbrev DSV.PAR_STAGE4 : Nat := 0x40150090
abbrev DSV.PAR_STAGE4_V2_MIN : Fld := ⟨0x40150090, 0, 16⟩
abbrev DSV.PAR_STAGE4_V2_MAX : Fld := ⟨0x40150090, 16, 16⟩
abbrev DSV.PAR_STAGE5 : Nat := 0x40150094
abbrev DSV.PAR_STAGE5_PHI_MAX : Fld := ⟨0x40150094, 0, 15⟩
abbrev DSV.PAR_STAGE5_PHI_SLEW : Fld := ⟨0x40150094, 16, 15⟩
abbrev DSV.RES_A (i : Nat) : Nat := 0x40150800 + 0x10 * i
abbrev DSV.RES_A_D1 (i : Nat) : Fld := ⟨0x40150800 + 0x10 * i, 0, 16⟩
abbrev DSV.RES_A_D2 (i : Nat) : Fld := ⟨0x40150800 + 0x10 * i, 16, 16⟩
abbrev DSV.RES_B (i : Nat) : Nat := 0x40150804 + 0x10 * i
abbrev DSV.RES_B_PHI (i : Nat) : Fld := ⟨0x40150804 + 0x10 * i, 0, 16⟩
abbrev DSV.RES_B_ZVS_OK (i : Nat) : Fld := ⟨0x40150804 + 0x10 * i, 16, 1⟩
abbrev DSV.RES_B_HARD (i : Nat) : Fld := ⟨0x40150804 + 0x10 * i, 17, 1⟩
abbrev DSV.RES_B_SAT (i : Nat) : Fld := ⟨0x40150804 + 0x10 * i, 18, 1⟩
abbrev DSV.RES_B_SLEW (i : Nat) : Fld := ⟨0x40150804 + 0x10 * i, 19, 1⟩
abbrev DSV.RES_B_IDLE (i : Nat) : Fld := ⟨0x40150804 + 0x10 * i, 20, 1⟩
abbrev DSV.RES_B_VRANGE (i : Nat) : Fld := ⟨0x40150804 + 0x10 * i, 21, 1⟩
abbrev DSV.RES_B_STALE (i : Nat) : Fld := ⟨0x40150804 + 0x10 * i, 22, 1⟩
abbrev DSV.RES_B_NHARD (i : Nat) : Fld := ⟨0x40150804 + 0x10 * i, 23, 3⟩
abbrev DSV.RES_B_HMASK (i : Nat) : Fld := ⟨0x40150804 + 0x10 * i, 26, 4⟩
abbrev DSV.RES_C (i : Nat) : Nat := 0x40150808 + 0x10 * i
abbrev DSV.RES_C_I_RMS (i : Nat) : Fld := ⟨0x40150808 + 0x10 * i, 0, 16⟩
abbrev DSV.RES_C_P_DEL (i : Nat) : Fld := ⟨0x40150808 + 0x10 * i, 16, 16⟩
abbrev DSV.PAR_COPY (i : Nat) : Nat := 0x40150200 + 0x4 * i
abbrev DSV.PAR_COPY_W (i : Nat) : Fld := ⟨0x40150200 + 0x4 * i, 0, 32⟩

/-! ### LEX (R218) -/

abbrev LEX.page (p : Nat) : Nat := 0x40200000 + 0x1000 * p
abbrev LEX.ENG_STAT (p : Nat) : Nat := 0x40200040 + 0x1000 * p
abbrev LEX.ENG_STAT_N_EN (p : Nat) : Fld := ⟨0x40200040 + 0x1000 * p, 0, 5⟩
abbrev LEX.ENG_STAT_SPARE (p : Nat) : Fld := ⟨0x40200040 + 0x1000 * p, 5, 1⟩
abbrev LEX.ENG_STAT_TESTING (p : Nat) : Fld := ⟨0x40200040 + 0x1000 * p, 6, 1⟩
abbrev LEX.ENG_STAT_TEST_PASS (p : Nat) : Fld := ⟨0x40200040 + 0x1000 * p, 7, 1⟩
abbrev LEX.ENG_STAT_TEST_FAIL (p : Nat) : Fld := ⟨0x40200040 + 0x1000 * p, 8, 1⟩
abbrev LEX.ENG_STAT_BUDGET (p : Nat) : Fld := ⟨0x40200040 + 0x1000 * p, 9, 1⟩
abbrev LEX.ENG_STAT_MOVING (p : Nat) : Fld := ⟨0x40200040 + 0x1000 * p, 10, 1⟩
abbrev LEX.CTX_EN (p : Nat) : Nat := 0x40200044 + 0x1000 * p
abbrev LEX.CTX_EN_EN (p : Nat) : Fld := ⟨0x40200044 + 0x1000 * p, 0, 16⟩
abbrev LEX.CTX_HOLD (p : Nat) : Nat := 0x40200048 + 0x1000 * p
abbrev LEX.CTX_HOLD_HOLD (p : Nat) : Fld := ⟨0x40200048 + 0x1000 * p, 0, 16⟩
abbrev LEX.HOLD_AUTO (p : Nat) : Nat := 0x4020004C + 0x1000 * p
abbrev LEX.HOLD_AUTO_AUTO (p : Nat) : Fld := ⟨0x4020004C + 0x1000 * p, 0, 16⟩
abbrev LEX.CTX_ACT (p : Nat) : Nat := 0x40200050 + 0x1000 * p
abbrev LEX.CTX_ACT_ACT (p : Nat) (j : Nat) : Fld := ⟨0x40200050 + 0x1000 * p, 2 * j, 2⟩
abbrev LEX.CQ_VAL (p : Nat) : Nat := 0x40200054 + 0x1000 * p
abbrev LEX.CQ_VAL_VALUE (p : Nat) : Fld := ⟨0x40200054 + 0x1000 * p, 0, 32⟩
abbrev LEX.CQ_ADDR (p : Nat) : Nat := 0x40200058 + 0x1000 * p
abbrev LEX.CQ_ADDR_CTX (p : Nat) : Fld := ⟨0x40200058 + 0x1000 * p, 0, 4⟩
abbrev LEX.CQ_ADDR_IDX (p : Nat) : Fld := ⟨0x40200058 + 0x1000 * p, 4, 6⟩
abbrev LEX.CQ_STAT (p : Nat) : Nat := 0x4020005C + 0x1000 * p
abbrev LEX.CQ_STAT_FILL (p : Nat) : Fld := ⟨0x4020005C + 0x1000 * p, 0, 5⟩
abbrev LEX.CQ_STAT_PEND (p : Nat) : Fld := ⟨0x4020005C + 0x1000 * p, 16, 16⟩
abbrev LEX.CYC_SUM (p : Nat) : Nat := 0x40200060 + 0x1000 * p
abbrev LEX.CYC_SUM_SUM (p : Nat) : Fld := ⟨0x40200060 + 0x1000 * p, 0, 17⟩
abbrev LEX.CYC_WIN (p : Nat) : Nat := 0x40200064 + 0x1000 * p
abbrev LEX.CYC_WIN_WIN (p : Nat) : Fld := ⟨0x40200064 + 0x1000 * p, 0, 17⟩
abbrev LEX.USED_LAST (p : Nat) : Nat := 0x40200068 + 0x1000 * p
abbrev LEX.USED_LAST_CYC (p : Nat) : Fld := ⟨0x40200068 + 0x1000 * p, 0, 17⟩
abbrev LEX.USED_MAX (p : Nat) : Nat := 0x4020006C + 0x1000 * p
abbrev LEX.USED_MAX_CYC (p : Nat) : Fld := ⟨0x4020006C + 0x1000 * p, 0, 17⟩
abbrev LEX.ABORT_MAP (p : Nat) : Nat := 0x40200070 + 0x1000 * p
abbrev LEX.ABORT_MAP_CTX (p : Nat) : Fld := ⟨0x40200070 + 0x1000 * p, 0, 16⟩
abbrev LEX.MOVE (p : Nat) : Nat := 0x40200074 + 0x1000 * p
abbrev LEX.MOVE_SRC_CTX (p : Nat) : Fld := ⟨0x40200074 + 0x1000 * p, 0, 4⟩
abbrev LEX.MOVE_DST_ENG (p : Nat) : Fld := ⟨0x40200074 + 0x1000 * p, 4, 4⟩
abbrev LEX.MOVE_DST_CTX (p : Nat) : Fld := ⟨0x40200074 + 0x1000 * p, 8, 4⟩
abbrev LEX.MOVE_ALL (p : Nat) : Fld := ⟨0x40200074 + 0x1000 * p, 12, 1⟩
abbrev LEX.MOVE_GO (p : Nat) : Fld := ⟨0x40200074 + 0x1000 * p, 13, 1⟩
abbrev LEX.MOVE_STAT (p : Nat) : Nat := 0x40200078 + 0x1000 * p
abbrev LEX.MOVE_STAT_STATE (p : Nat) : Fld := ⟨0x40200078 + 0x1000 * p, 0, 3⟩
abbrev LEX.MOVE_STAT_CODE (p : Nat) : Fld := ⟨0x40200078 + 0x1000 * p, 8, 8⟩
abbrev LEX.TEST (p : Nat) : Nat := 0x4020007C + 0x1000 * p
abbrev LEX.TEST_GO (p : Nat) : Fld := ⟨0x4020007C + 0x1000 * p, 0, 1⟩
abbrev LEX.CTX_PROG (p : Nat) (i : Nat) : Nat := 0x40200100 + 0x1000 * p + 0x20 * i
abbrev LEX.CTX_PROG_PC (p : Nat) (i : Nat) : Fld := ⟨0x40200100 + 0x1000 * p + 0x20 * i, 0, 15⟩
abbrev LEX.CTX_PROG_PLEN (p : Nat) (i : Nat) : Fld := ⟨0x40200100 + 0x1000 * p + 0x20 * i, 16, 15⟩
abbrev LEX.CTX_TBL (p : Nat) (i : Nat) : Nat := 0x40200104 + 0x1000 * p + 0x20 * i
abbrev LEX.CTX_TBL_TBASE (p : Nat) (i : Nat) : Fld := ⟨0x40200104 + 0x1000 * p + 0x20 * i, 0, 15⟩
abbrev LEX.CTX_TBL_TLEN (p : Nat) (i : Nat) : Fld := ⟨0x40200104 + 0x1000 * p + 0x20 * i, 16, 15⟩
abbrev LEX.CTX_WCET (p : Nat) (i : Nat) : Nat := 0x40200108 + 0x1000 * p + 0x20 * i
abbrev LEX.CTX_WCET_WCET (p : Nat) (i : Nat) : Fld := ⟨0x40200108 + 0x1000 * p + 0x20 * i, 0, 17⟩
abbrev LEX.CTX_STAT (p : Nat) (i : Nat) : Nat := 0x4020010C + 0x1000 * p + 0x20 * i
abbrev LEX.CTX_STAT_CYC_LAST (p : Nat) (i : Nat) : Fld := ⟨0x4020010C + 0x1000 * p + 0x20 * i, 0, 17⟩
abbrev LEX.CTX_STAT_CAUSE (p : Nat) (i : Nat) : Fld := ⟨0x4020010C + 0x1000 * p + 0x20 * i, 17, 4⟩
abbrev LEX.CTX_STAT_ABORTED (p : Nat) (i : Nat) : Fld := ⟨0x4020010C + 0x1000 * p + 0x20 * i, 21, 1⟩
abbrev LEX.CTX_STAT_INIT (p : Nat) (i : Nat) : Fld := ⟨0x4020010C + 0x1000 * p + 0x20 * i, 22, 1⟩
abbrev LEX.CTX_STAT_HELD (p : Nat) (i : Nat) : Fld := ⟨0x4020010C + 0x1000 * p + 0x20 * i, 23, 1⟩
abbrev LEX.CTX_STAT_STALE_IN (p : Nat) (i : Nat) : Fld := ⟨0x4020010C + 0x1000 * p + 0x20 * i, 24, 1⟩
abbrev LEX.CTX_STAT_BLOCKING (p : Nat) (i : Nat) : Fld := ⟨0x4020010C + 0x1000 * p + 0x20 * i, 25, 1⟩
abbrev LEX.CTX_STAT_HO_SEL (p : Nat) (i : Nat) : Fld := ⟨0x4020010C + 0x1000 * p + 0x20 * i, 26, 1⟩
abbrev LEX.CTX_STAT_HO_BLEND (p : Nat) (i : Nat) : Fld := ⟨0x4020010C + 0x1000 * p + 0x20 * i, 27, 1⟩
abbrev LEX.CTX_ABCNT (p : Nat) (i : Nat) : Nat := 0x40200110 + 0x1000 * p + 0x20 * i
abbrev LEX.CTX_ABCNT_CNT (p : Nat) (i : Nat) : Fld := ⟨0x40200110 + 0x1000 * p + 0x20 * i, 0, 16⟩
abbrev LEX.CTX_CRC (p : Nat) (i : Nat) : Nat := 0x40200114 + 0x1000 * p + 0x20 * i
abbrev LEX.CTX_CRC_CRC (p : Nat) (i : Nat) : Fld := ⟨0x40200114 + 0x1000 * p + 0x20 * i, 0, 32⟩

/-! ### LEG (R282, R283) -/

abbrev LEG.page (p : Nat) : Nat := 0x40300000 + 0x1000 * p
abbrev LEG.CFG (p : Nat) : Nat := 0x40300040 + 0x1000 * p
abbrev LEG.CFG_DRV (p : Nat) : Fld := ⟨0x40300040 + 0x1000 * p, 0, 2⟩
abbrev LEG.CFG_BMODE (p : Nat) : Fld := ⟨0x40300040 + 0x1000 * p, 2, 1⟩
abbrev LEG.CFG_ADP_FRZ (p : Nat) : Fld := ⟨0x40300040 + 0x1000 * p, 3, 1⟩
abbrev LEG.CFG_BUS (p : Nat) : Fld := ⟨0x40300040 + 0x1000 * p, 4, 2⟩
abbrev LEG.CFG_CGRP (p : Nat) : Fld := ⟨0x40300040 + 0x1000 * p, 6, 3⟩
abbrev LEG.DRV (p : Nat) : Nat := 0x40300044 + 0x1000 * p
abbrev LEG.DRV_SRC_H (p : Nat) : Fld := ⟨0x40300044 + 0x1000 * p, 0, 4⟩
abbrev LEG.DRV_SNK_H (p : Nat) : Fld := ⟨0x40300044 + 0x1000 * p, 4, 4⟩
abbrev LEG.DRV_SRC_L (p : Nat) : Fld := ⟨0x40300044 + 0x1000 * p, 8, 4⟩
abbrev LEG.DRV_SNK_L (p : Nat) : Fld := ⟨0x40300044 + 0x1000 * p, 12, 4⟩
abbrev LEG.DRV_ADP_MIN (p : Nat) : Fld := ⟨0x40300044 + 0x1000 * p, 16, 4⟩
abbrev LEG.DRV_ADP_MAX (p : Nat) : Fld := ⟨0x40300044 + 0x1000 * p, 20, 4⟩
abbrev LEG.ADP (p : Nat) : Nat := 0x40300048 + 0x1000 * p
abbrev LEG.ADP_TGT_ON (p : Nat) : Fld := ⟨0x40300048 + 0x1000 * p, 0, 6⟩
abbrev LEG.ADP_TGT_OFF (p : Nat) : Fld := ⟨0x40300048 + 0x1000 * p, 8, 6⟩
abbrev LEG.ADP_TOL (p : Nat) : Fld := ⟨0x40300048 + 0x1000 * p, 16, 4⟩
abbrev LEG.PROT (p : Nat) : Nat := 0x4030004C + 0x1000 * p
abbrev LEG.PROT_DSAT_V (p : Nat) : Fld := ⟨0x4030004C + 0x1000 * p, 0, 5⟩
abbrev LEG.PROT_BLANK (p : Nat) : Fld := ⟨0x4030004C + 0x1000 * p, 5, 6⟩
abbrev LEG.PROT_GOV_M (p : Nat) : Fld := ⟨0x4030004C + 0x1000 * p, 12, 4⟩
abbrev LEG.PROT_VOFF_OK (p : Nat) : Fld := ⟨0x4030004C + 0x1000 * p, 16, 4⟩
abbrev LEG.PROT_T_VERIFY (p : Nat) : Fld := ⟨0x4030004C + 0x1000 * p, 24, 5⟩
abbrev LEG.TIM (p : Nat) : Nat := 0x40300050 + 0x1000 * p
abbrev LEG.TIM_IL_TMO (p : Nat) : Fld := ⟨0x40300050 + 0x1000 * p, 0, 8⟩
abbrev LEG.TIM_T_BCHG (p : Nat) : Fld := ⟨0x40300050 + 0x1000 * p, 8, 8⟩
abbrev LEG.BST (p : Nat) : Nat := 0x40300054 + 0x1000 * p
abbrev LEG.BST_BST_UV (p : Nat) : Fld := ⟨0x40300054 + 0x1000 * p, 0, 8⟩
abbrev LEG.BST_BST_HYS (p : Nat) : Fld := ⟨0x40300054 + 0x1000 * p, 8, 4⟩
abbrev LEG.STAT (p : Nat) : Nat := 0x40300058 + 0x1000 * p
abbrev LEG.STAT_CMDIN (p : Nat) : Fld := ⟨0x40300058 + 0x1000 * p, 0, 3⟩
abbrev LEG.STAT_GH_ON (p : Nat) : Fld := ⟨0x40300058 + 0x1000 * p, 3, 1⟩
abbrev LEG.STAT_GL_ON (p : Nat) : Fld := ⟨0x40300058 + 0x1000 * p, 4, 1⟩
abbrev LEG.STAT_BST_OK (p : Nat) : Fld := ⟨0x40300058 + 0x1000 * p, 5, 1⟩
abbrev LEG.STAT_VPOS_OK (p : Nat) : Fld := ⟨0x40300058 + 0x1000 * p, 6, 1⟩
abbrev LEG.STAT_VNEG_OK (p : Nat) : Fld := ⟨0x40300058 + 0x1000 * p, 7, 1⟩
abbrev LEG.STAT_FAULTED (p : Nat) : Fld := ⟨0x40300058 + 0x1000 * p, 8, 1⟩
abbrev LEG.STAT_IDLE (p : Nat) : Fld := ⟨0x40300058 + 0x1000 * p, 9, 1⟩
abbrev LEG.STAT_TESTING (p : Nat) : Fld := ⟨0x40300058 + 0x1000 * p, 10, 1⟩
abbrev LEG.STAT_TEST_PASS (p : Nat) : Fld := ⟨0x40300058 + 0x1000 * p, 11, 1⟩
abbrev LEG.STAT_TEST_FAIL (p : Nat) : Fld := ⟨0x40300058 + 0x1000 * p, 12, 1⟩
abbrev LEG.STAT_ADP_LIM (p : Nat) : Fld := ⟨0x40300058 + 0x1000 * p, 13, 1⟩
abbrev LEG.STAT_SOFT (p : Nat) : Fld := ⟨0x40300058 + 0x1000 * p, 14, 1⟩
abbrev LEG.FLT (p : Nat) : Nat := 0x4030005C + 0x1000 * p
abbrev LEG.FLT_FAULTS (p : Nat) : Fld := ⟨0x4030005C + 0x1000 * p, 0, 9⟩
abbrev LEG.FLT_FIRST (p : Nat) : Fld := ⟨0x4030005C + 0x1000 * p, 12, 4⟩
abbrev LEG.FLT_CLR (p : Nat) : Nat := 0x40300060 + 0x1000 * p
abbrev LEG.FLT_CLR_CLR (p : Nat) : Fld := ⟨0x40300060 + 0x1000 * p, 0, 1⟩
abbrev LEG.FLT_T (p : Nat) : Nat := 0x40300064 + 0x1000 * p
abbrev LEG.FLT_T_OFS (p : Nat) : Fld := ⟨0x40300064 + 0x1000 * p, 0, 16⟩
abbrev LEG.FLT_T_PIDX (p : Nat) : Fld := ⟨0x40300064 + 0x1000 * p, 16, 16⟩
abbrev LEG.CNT (p : Nat) : Nat := 0x40300068 + 0x1000 * p
abbrev LEG.CNT_BST_REF (p : Nat) : Fld := ⟨0x40300068 + 0x1000 * p, 0, 16⟩
abbrev LEG.CNT_IL_DLY (p : Nat) : Fld := ⟨0x40300068 + 0x1000 * p, 16, 16⟩
abbrev LEG.ADP_STAT (p : Nat) : Nat := 0x4030006C + 0x1000 * p
abbrev LEG.ADP_STAT_CODES (p : Nat) : Fld := ⟨0x4030006C + 0x1000 * p, 0, 16⟩
abbrev LEG.TMEAS (p : Nat) : Nat := 0x40300070 + 0x1000 * p
abbrev LEG.TMEAS_H_ON (p : Nat) : Fld := ⟨0x40300070 + 0x1000 * p, 0, 8⟩
abbrev LEG.TMEAS_H_OFF (p : Nat) : Fld := ⟨0x40300070 + 0x1000 * p, 8, 8⟩
abbrev LEG.TMEAS_L_ON (p : Nat) : Fld := ⟨0x40300070 + 0x1000 * p, 16, 8⟩
abbrev LEG.TMEAS_L_OFF (p : Nat) : Fld := ⟨0x40300070 + 0x1000 * p, 24, 8⟩
abbrev LEG.TEST (p : Nat) : Nat := 0x40300074 + 0x1000 * p
abbrev LEG.TEST_GO (p : Nat) : Fld := ⟨0x40300074 + 0x1000 * p, 0, 1⟩
abbrev LEG.TEST_RES (p : Nat) : Nat := 0x40300078 + 0x1000 * p
abbrev LEG.TEST_RES_FAIL (p : Nat) : Fld := ⟨0x40300078 + 0x1000 * p, 0, 15⟩
abbrev LEG.TEST_RES_ABORT (p : Nat) : Fld := ⟨0x40300078 + 0x1000 * p, 15, 1⟩
abbrev LEG.TEST_RES_SKIP (p : Nat) : Fld := ⟨0x40300078 + 0x1000 * p, 16, 15⟩
abbrev LEG.BUSPOL (p : Nat) (i : Nat) : Nat := 0x403000C0 + 0x1000 * p + 0x4 * i
abbrev LEG.BUSPOL_TRIG (p : Nat) (i : Nat) : Fld := ⟨0x403000C0 + 0x1000 * p + 0x4 * i, 0, 2⟩
abbrev LEG.BUSPOL_SCOPE (p : Nat) (i : Nat) : Fld := ⟨0x403000C0 + 0x1000 * p + 0x4 * i, 2, 1⟩
abbrev LEG.BUSPOL_ACT (p : Nat) (i : Nat) : Fld := ⟨0x403000C0 + 0x1000 * p + 0x4 * i, 3, 1⟩
abbrev LEG.BUSPOL_QUAL (p : Nat) (i : Nat) : Fld := ⟨0x403000C0 + 0x1000 * p + 0x4 * i, 8, 9⟩
abbrev LEG.BUS_EVT (p : Nat) : Nat := 0x403000D0 + 0x1000 * p
abbrev LEG.BUS_EVT_ISL_A (p : Nat) : Fld := ⟨0x403000D0 + 0x1000 * p, 0, 4⟩
abbrev LEG.BUS_EVT_ISL_B (p : Nat) : Fld := ⟨0x403000D0 + 0x1000 * p, 4, 4⟩
abbrev LEG.BUS_EVT_BUS (p : Nat) : Fld := ⟨0x403000D0 + 0x1000 * p, 8, 2⟩
abbrev LEG.BUS_EVT_ASC_DENIED (p : Nat) : Fld := ⟨0x403000D0 + 0x1000 * p, 10, 1⟩
abbrev LEG.BUS_EVT_VALID (p : Nat) : Fld := ⟨0x403000D0 + 0x1000 * p, 11, 1⟩
abbrev LEG.BUS_EVT_LEGS (p : Nat) : Fld := ⟨0x403000D0 + 0x1000 * p, 12, 12⟩

/-! ### MCX (R254, R255, R256, R257) -/

abbrev MCX.page : Nat := 0x40310000
abbrev MCX.CFG : Nat := 0x40310040
abbrev MCX.CFG_TOPO : Fld := ⟨0x40310040, 0, 2⟩
abbrev MCX.CFG_BANK : Fld := ⟨0x40310040, 2, 1⟩
abbrev MCX.CFG_SWAP : Fld := ⟨0x40310040, 3, 1⟩
abbrev MCX.CFG_PH6 : Fld := ⟨0x40310040, 16, 16⟩
abbrev MCX.TBL_ADDR : Nat := 0x40310044
abbrev MCX.TBL_ADDR_IDX : Fld := ⟨0x40310044, 0, 10⟩
abbrev MCX.TBL_ADDR_TBL : Fld := ⟨0x40310044, 10, 2⟩
abbrev MCX.TBL_DATA : Nat := 0x40310048
abbrev MCX.TBL_DATA_VALUE : Fld := ⟨0x40310048, 0, 18⟩
abbrev MCX.BUS_V0 : Nat := 0x4031004C
abbrev MCX.BUS_V0_CH_ON : Fld := ⟨0x4031004C, 0, 16⟩
abbrev MCX.BUS_V0_CH_OFF : Fld := ⟨0x4031004C, 16, 16⟩
abbrev MCX.BUS_V1 : Nat := 0x40310050
abbrev MCX.BUS_V1_CH_FULL : Fld := ⟨0x40310050, 0, 16⟩
abbrev MCX.BUS_V1_RGN_V : Fld := ⟨0x40310050, 16, 16⟩
abbrev MCX.BUS_V2 : Nat := 0x40310054
abbrev MCX.BUS_V2_ASC_V : Fld := ⟨0x40310054, 0, 16⟩
abbrev MCX.BUS_V2_BUS_HYS : Fld := ⟨0x40310054, 16, 16⟩
abbrev MCX.BUS_CFG : Nat := 0x40310058
abbrev MCX.BUS_CFG_VBUS_AI : Fld := ⟨0x40310058, 0, 6⟩
abbrev MCX.BUS_CFG_BUS_N : Fld := ⟨0x40310058, 6, 3⟩
abbrev MCX.BUS_CFG_T_RGN : Fld := ⟨0x40310058, 16, 16⟩
abbrev MCX.RGN_CFG : Nat := 0x4031005C
abbrev MCX.RGN_CFG_RGN_TOL : Fld := ⟨0x4031005C, 0, 16⟩
abbrev MCX.RGN_CFG_RGN_N : Fld := ⟨0x4031005C, 16, 8⟩
abbrev MCX.CHF_CFG : Nat := 0x40310060
abbrev MCX.CHF_CFG_CHF_T : Fld := ⟨0x40310060, 0, 12⟩
abbrev MCX.CHF_CFG_CHF_N : Fld := ⟨0x40310060, 12, 3⟩
abbrev MCX.CHF_CFG_CHF_POL : Fld := ⟨0x40310060, 15, 1⟩
abbrev MCX.CHF_CFG_T_CHF_ASC : Fld := ⟨0x40310060, 16, 16⟩
abbrev MCX.SAFE : Nat := 0x40310064
abbrev MCX.SAFE_ASC_RATIO : Fld := ⟨0x40310064, 0, 10⟩
abbrev MCX.STAT : Nat := 0x40310068
abbrev MCX.STAT_CH_ENG : Fld := ⟨0x40310068, 0, 1⟩
abbrev MCX.STAT_RGN_ACT : Fld := ⟨0x40310068, 1, 1⟩
abbrev MCX.STAT_ASC_V : Fld := ⟨0x40310068, 2, 1⟩
abbrev MCX.STAT_CHF_SEQ : Fld := ⟨0x40310068, 3, 1⟩
abbrev MCX.STAT_ABS_REQ : Fld := ⟨0x40310068, 4, 1⟩
abbrev MCX.STAT_ABS_ACK : Fld := ⟨0x40310068, 5, 1⟩
abbrev MCX.STAT_MBR_REQ : Fld := ⟨0x40310068, 6, 1⟩
abbrev MCX.STAT_VBUS_STALE : Fld := ⟨0x40310068, 7, 1⟩
abbrev MCX.STAT_KRGN : Fld := ⟨0x40310068, 16, 10⟩
abbrev MCX.VBUS : Nat := 0x4031006C
abbrev MCX.VBUS_V : Fld := ⟨0x4031006C, 0, 16⟩
abbrev MCX.CLR : Nat := 0x40310070
abbrev MCX.CLR_CHF : Fld := ⟨0x40310070, 0, 4⟩
abbrev MCX.M_CFG (i : Nat) : Nat := 0x40310100 + 0x80 * i
abbrev MCX.M_CFG_EN (i : Nat) : Fld := ⟨0x40310100 + 0x80 * i, 0, 1⟩
abbrev MCX.M_CFG_SRC (i : Nat) : Fld := ⟨0x40310100 + 0x80 * i, 1, 2⟩
abbrev MCX.M_CFG_SL_FB (i : Nat) : Fld := ⟨0x40310100 + 0x80 * i, 3, 1⟩
abbrev MCX.M_CFG_ADV_EN (i : Nat) : Fld := ⟨0x40310100 + 0x80 * i, 4, 1⟩
abbrev MCX.M_CFG_HDIV (i : Nat) : Fld := ⟨0x40310100 + 0x80 * i, 5, 4⟩
abbrev MCX.M_CFG_IU_AI (i : Nat) : Fld := ⟨0x40310100 + 0x80 * i, 9, 6⟩
abbrev MCX.M_CFG_IV_AI (i : Nat) : Fld := ⟨0x40310100 + 0x80 * i, 15, 6⟩
abbrev MCX.M_CFG_PP (i : Nat) : Fld := ⟨0x40310100 + 0x80 * i, 21, 4⟩
abbrev MCX.M_ISCALE (i : Nat) : Nat := 0x40310104 + 0x80 * i
abbrev MCX.M_ISCALE_ISC (i : Nat) : Fld := ⟨0x40310104 + 0x80 * i, 0, 32⟩
abbrev MCX.M_CMD (i : Nat) : Nat := 0x40310108 + 0x80 * i
abbrev MCX.M_CMD_OP (i : Nat) : Fld := ⟨0x40310108 + 0x80 * i, 0, 3⟩
abbrev MCX.M_STAT (i : Nat) : Nat := 0x4031010C + 0x80 * i
abbrev MCX.M_STAT_STATE (i : Nat) : Fld := ⟨0x4031010C + 0x80 * i, 0, 3⟩
abbrev MCX.M_STAT_USED (i : Nat) : Fld := ⟨0x4031010C + 0x80 * i, 3, 2⟩
abbrev MCX.M_STAT_SENS_FLT (i : Nat) : Fld := ⟨0x4031010C + 0x80 * i, 5, 1⟩
abbrev MCX.M_STAT_SRC_FB (i : Nat) : Fld := ⟨0x4031010C + 0x80 * i, 6, 1⟩
abbrev MCX.M_STAT_OVM (i : Nat) : Fld := ⟨0x4031010C + 0x80 * i, 7, 1⟩
abbrev MCX.M_STAT_STALE (i : Nat) : Fld := ⟨0x4031010C + 0x80 * i, 8, 1⟩
abbrev MCX.M_STAT_RGN_VIOL (i : Nat) : Fld := ⟨0x4031010C + 0x80 * i, 9, 1⟩
abbrev MCX.M_STAT_OVSPD (i : Nat) : Fld := ⟨0x4031010C + 0x80 * i, 10, 1⟩
abbrev MCX.M_STAT_CTX_LOST (i : Nat) : Fld := ⟨0x4031010C + 0x80 * i, 11, 1⟩
abbrev MCX.M_STAT_CAUSE (i : Nat) : Fld := ⟨0x4031010C + 0x80 * i, 12, 4⟩
abbrev MCX.M_STAT_ASC_DEC (i : Nat) : Fld := ⟨0x4031010C + 0x80 * i, 16, 1⟩
abbrev MCX.M_R (i : Nat) : Nat := 0x40310110 + 0x80 * i
abbrev MCX.M_R_V (i : Nat) : Fld := ⟨0x40310110 + 0x80 * i, 0, 32⟩
abbrev MCX.M_LD (i : Nat) : Nat := 0x40310114 + 0x80 * i
abbrev MCX.M_LD_V (i : Nat) : Fld := ⟨0x40310114 + 0x80 * i, 0, 32⟩
abbrev MCX.M_LQ (i : Nat) : Nat := 0x40310118 + 0x80 * i
abbrev MCX.M_LQ_V (i : Nat) : Fld := ⟨0x40310118 + 0x80 * i, 0, 32⟩
abbrev MCX.M_PSI (i : Nat) : Nat := 0x4031011C + 0x80 * i
abbrev MCX.M_PSI_V (i : Nat) : Fld := ⟨0x4031011C + 0x80 * i, 0, 32⟩
abbrev MCX.M_PLL_KP (i : Nat) : Nat := 0x40310120 + 0x80 * i
abbrev MCX.M_PLL_KP_V (i : Nat) : Fld := ⟨0x40310120 + 0x80 * i, 0, 32⟩
abbrev MCX.M_PLL_KI (i : Nat) : Nat := 0x40310124 + 0x80 * i
abbrev MCX.M_PLL_KI_V (i : Nat) : Fld := ⟨0x40310124 + 0x80 * i, 0, 32⟩
abbrev MCX.M_OBS (i : Nat) : Nat := 0x40310128 + 0x80 * i
abbrev MCX.M_OBS_EMF_ALPHA (i : Nat) : Fld := ⟨0x40310128 + 0x80 * i, 0, 8⟩
abbrev MCX.M_OBS_N_LOSS (i : Nat) : Fld := ⟨0x40310128 + 0x80 * i, 8, 8⟩
abbrev MCX.M_OBS_N_ACQ (i : Nat) : Fld := ⟨0x40310128 + 0x80 * i, 16, 8⟩
abbrev MCX.M_OBS_ANG_NB (i : Nat) : Fld := ⟨0x40310128 + 0x80 * i, 24, 8⟩
abbrev MCX.M_LOSS (i : Nat) : Nat := 0x4031012C + 0x80 * i
abbrev MCX.M_LOSS_RES_LOSS (i : Nat) : Fld := ⟨0x4031012C + 0x80 * i, 0, 10⟩
abbrev MCX.M_LOSS_EXTRAP_MAX (i : Nat) : Fld := ⟨0x4031012C + 0x80 * i, 16, 12⟩
abbrev MCX.M_SPD (i : Nat) : Nat := 0x40310130 + 0x80 * i
abbrev MCX.M_SPD_W_RATED (i : Nat) : Fld := ⟨0x40310130 + 0x80 * i, 0, 16⟩
abbrev MCX.M_SPD_W_OBS (i : Nat) : Fld := ⟨0x40310130 + 0x80 * i, 16, 10⟩
abbrev MCX.M_ADV (i : Nat) : Nat := 0x40310134 + 0x80 * i
abbrev MCX.M_ADV_W_ADV_MAX (i : Nat) : Fld := ⟨0x40310134 + 0x80 * i, 0, 16⟩
abbrev MCX.M_ADV_ANG_DIS (i : Nat) : Fld := ⟨0x40310134 + 0x80 * i, 16, 16⟩
abbrev MCX.M_OFFS (i : Nat) : Nat := 0x40310138 + 0x80 * i
abbrev MCX.M_OFFS_OFFS (i : Nat) : Fld := ⟨0x40310138 + 0x80 * i, 0, 32⟩
abbrev MCX.M_ANG (i : Nat) : Nat := 0x4031013C + 0x80 * i
abbrev MCX.M_ANG_THETA (i : Nat) : Fld := ⟨0x4031013C + 0x80 * i, 0, 32⟩
abbrev MCX.M_OMEGA (i : Nat) : Nat := 0x40310140 + 0x80 * i
abbrev MCX.M_OMEGA_W (i : Nat) : Fld := ⟨0x40310140 + 0x80 * i, 0, 32⟩
abbrev MCX.M_RES (i : Nat) : Nat := 0x40310144 + 0x80 * i
abbrev MCX.M_RES_RES (i : Nat) : Fld := ⟨0x40310144 + 0x80 * i, 0, 16⟩
abbrev MCX.M_RES_ELL (i : Nat) : Fld := ⟨0x40310144 + 0x80 * i, 16, 16⟩
abbrev MCX.M_ASCX (i : Nat) : Nat := 0x40310148 + 0x80 * i
abbrev MCX.M_ASCX_I_ASC_EXIT (i : Nat) : Fld := ⟨0x40310148 + 0x80 * i, 0, 16⟩
abbrev MCX.RSV_CFG : Nat := 0x40310200
abbrev MCX.RSV_CFG_EN : Fld := ⟨0x40310200, 0, 1⟩
abbrev MCX.RSV_CFG_MACH : Fld := ⟨0x40310200, 1, 1⟩
abbrev MCX.RSV_CFG_FEX : Fld := ⟨0x40310200, 2, 2⟩
abbrev MCX.RSV_CFG_RPP : Fld := ⟨0x40310200, 4, 4⟩
abbrev MCX.RSV_CFG_SIN_AI : Fld := ⟨0x40310200, 8, 6⟩
abbrev MCX.RSV_CFG_COS_AI : Fld := ⟨0x40310200, 14, 6⟩
abbrev MCX.RSV_AMP : Nat := 0x40310204
abbrev MCX.RSV_AMP_AMP_LO : Fld := ⟨0x40310204, 0, 16⟩
abbrev MCX.RSV_AMP_AMP_HI : Fld := ⟨0x40310204, 16, 16⟩
abbrev MCX.RSV_BW : Nat := 0x40310208
abbrev MCX.RSV_BW_BW : Fld := ⟨0x40310208, 0, 16⟩
abbrev MCX.ENC_CFG : Nat := 0x4031020C
abbrev MCX.ENC_CFG_EN : Fld := ⟨0x4031020C, 0, 1⟩
abbrev MCX.ENC_CFG_MACH : Fld := ⟨0x4031020C, 1, 1⟩
abbrev MCX.ENC_CFG_DIR : Fld := ⟨0x4031020C, 2, 1⟩
abbrev MCX.ENC_CFG_ZEN : Fld := ⟨0x4031020C, 3, 1⟩
abbrev MCX.ENC_CFG_FILT : Fld := ⟨0x4031020C, 4, 4⟩
abbrev MCX.ENC_CFG_LINES : Fld := ⟨0x4031020C, 16, 16⟩
abbrev MCX.ENC_CMD : Nat := 0x40310210
abbrev MCX.ENC_CMD_ALIGN : Fld := ⟨0x40310210, 0, 1⟩
abbrev MCX.SNS_STAT : Nat := 0x40310214
abbrev MCX.SNS_STAT_RSV_FLT : Fld := ⟨0x40310214, 0, 1⟩
abbrev MCX.SNS_STAT_ZSEEN : Fld := ⟨0x40310214, 1, 1⟩
abbrev MCX.SNS_STAT_ENC_ILL : Fld := ⟨0x40310214, 2, 1⟩
abbrev MCX.SNS_STAT_ZERR : Fld := ⟨0x40310214, 3, 1⟩
abbrev MCX.SNS_STAT_AMP : Fld := ⟨0x40310214, 16, 16⟩
abbrev MCX.ENC_CNT : Nat := 0x40310218
abbrev MCX.ENC_CNT_CNT : Fld := ⟨0x40310218, 0, 32⟩
abbrev MCX.C_CFG (i : Nat) : Nat := 0x40310300 + 0x20 * i
abbrev MCX.C_CFG_EN (i : Nat) : Fld := ⟨0x40310300 + 0x20 * i, 0, 1⟩
abbrev MCX.C_CFG_LEG (i : Nat) : Fld := ⟨0x40310300 + 0x20 * i, 1, 4⟩
abbrev MCX.C_CFG_IAI (i : Nat) : Fld := ⟨0x40310300 + 0x20 * i, 5, 6⟩
abbrev MCX.C_CFG_HDIV (i : Nat) : Fld := ⟨0x40310300 + 0x20 * i, 11, 7⟩
abbrev MCX.C_ISCALE (i : Nat) : Nat := 0x40310304 + 0x20 * i
abbrev MCX.C_ISCALE_ISC (i : Nat) : Fld := ⟨0x40310304 + 0x20 * i, 0, 32⟩
abbrev MCX.C_LIM (i : Nat) : Nat := 0x40310308 + 0x20 * i
abbrev MCX.C_LIM_CHF_I (i : Nat) : Fld := ⟨0x40310308 + 0x20 * i, 0, 16⟩
abbrev MCX.C_LIM_MINON (i : Nat) : Fld := ⟨0x40310308 + 0x20 * i, 16, 16⟩
abbrev MCX.C_STAT (i : Nat) : Nat := 0x4031030C + 0x20 * i
abbrev MCX.C_STAT_STATE (i : Nat) : Fld := ⟨0x4031030C + 0x20 * i, 0, 2⟩
abbrev MCX.C_STAT_LAST_FAIL (i : Nat) : Fld := ⟨0x4031030C + 0x20 * i, 2, 1⟩
abbrev MCX.C_STAT_FAILS (i : Nat) : Fld := ⟨0x4031030C + 0x20 * i, 8, 8⟩
abbrev MCX.C_STAT_DUTY (i : Nat) : Fld := ⟨0x4031030C + 0x20 * i, 16, 16⟩
abbrev MCX.C_ILAST (i : Nat) : Nat := 0x40310310 + 0x20 * i
abbrev MCX.C_ILAST_I (i : Nat) : Fld := ⟨0x40310310 + 0x20 * i, 0, 16⟩

/-! ### ADC (R304) -/

abbrev ADC.page : Nat := 0x40400000
abbrev ADC.PAIR_STAT : Nat := 0x40400040
abbrev ADC.PAIR_STAT_RUN : Fld := ⟨0x40400040, 0, 8⟩
abbrev ADC.PAIR_STAT_CAL_OK : Fld := ⟨0x40400040, 8, 8⟩

/-! ### PAIR (R305) -/

abbrev PAIR.page (p : Nat) : Nat := 0x40401000 + 0x1000 * p
abbrev PAIR.PCFG (p : Nat) : Nat := 0x40401040 + 0x1000 * p
abbrev PAIR.PCFG_MODE (p : Nat) : Fld := ⟨0x40401040 + 0x1000 * p, 0, 1⟩
abbrev PAIR.PCFG_ILV_IN (p : Nat) : Fld := ⟨0x40401040 + 0x1000 * p, 1, 3⟩
abbrev PAIR.PCFG_BUF_EN (p : Nat) : Fld := ⟨0x40401040 + 0x1000 * p, 4, 1⟩
abbrev PAIR.PCFG_DMA_CH (p : Nat) : Fld := ⟨0x40401040 + 0x1000 * p, 5, 5⟩
abbrev PAIR.GAIN (p : Nat) : Nat := 0x40401044 + 0x1000 * p
abbrev PAIR.GAIN_G (p : Nat) (j : Nat) : Fld := ⟨0x40401044 + 0x1000 * p, 2 * j, 2⟩
abbrev PAIR.SEG (p : Nat) (i : Nat) : Nat := 0x40401048 + 0x1000 * p + 0x4 * i
abbrev PAIR.SEG_START (p : Nat) (i : Nat) : Fld := ⟨0x40401048 + 0x1000 * p + 0x4 * i, 0, 5⟩
abbrev PAIR.SEG_LEN (p : Nat) (i : Nat) : Fld := ⟨0x40401048 + 0x1000 * p + 0x4 * i, 5, 6⟩
abbrev PAIR.SEG_TRIG (p : Nat) (i : Nat) : Fld := ⟨0x40401048 + 0x1000 * p + 0x4 * i, 11, 4⟩
abbrev PAIR.SEG_SEL (p : Nat) (i : Nat) : Fld := ⟨0x40401048 + 0x1000 * p + 0x4 * i, 15, 6⟩
abbrev PAIR.SEG_DIV (p : Nat) (i : Nat) : Fld := ⟨0x40401048 + 0x1000 * p + 0x4 * i, 21, 4⟩
abbrev PAIR.SEG_DLY (p : Nat) (i : Nat) : Fld := ⟨0x40401048 + 0x1000 * p + 0x4 * i, 25, 7⟩
abbrev PAIR.SEG_GO (p : Nat) : Nat := 0x40401058 + 0x1000 * p
abbrev PAIR.SEG_GO_GO (p : Nat) : Fld := ⟨0x40401058 + 0x1000 * p, 0, 4⟩
abbrev PAIR.URG0 (p : Nat) : Nat := 0x4040105C + 0x1000 * p
abbrev PAIR.URG0_MCX_EN (p : Nat) : Fld := ⟨0x4040105C + 0x1000 * p, 0, 1⟩
abbrev PAIR.URG0_TRP_EN (p : Nat) : Fld := ⟨0x4040105C + 0x1000 * p, 1, 1⟩
abbrev PAIR.URG0_EVT_EN (p : Nat) : Fld := ⟨0x4040105C + 0x1000 * p, 2, 1⟩
abbrev PAIR.URG0_SW_EN (p : Nat) : Fld := ⟨0x4040105C + 0x1000 * p, 3, 1⟩
abbrev PAIR.URG0_UCV (p : Nat) : Fld := ⟨0x4040105C + 0x1000 * p, 4, 1⟩
abbrev PAIR.URG0_TRP_IN (p : Nat) : Fld := ⟨0x4040105C + 0x1000 * p, 5, 3⟩
abbrev PAIR.URG0_TRP_STRM (p : Nat) : Fld := ⟨0x4040105C + 0x1000 * p, 8, 4⟩
abbrev PAIR.URG0_MCX_STRM (p : Nat) : Fld := ⟨0x4040105C + 0x1000 * p, 12, 4⟩
abbrev PAIR.URG0_EVT_IN (p : Nat) : Fld := ⟨0x4040105C + 0x1000 * p, 16, 3⟩
abbrev PAIR.URG0_EVT_STRM (p : Nat) : Fld := ⟨0x4040105C + 0x1000 * p, 19, 4⟩
abbrev PAIR.URG0_EVT_LEG (p : Nat) : Fld := ⟨0x4040105C + 0x1000 * p, 23, 4⟩
abbrev PAIR.URG1 (p : Nat) : Nat := 0x40401060 + 0x1000 * p
abbrev PAIR.URG1_EVT_DLY (p : Nat) : Fld := ⟨0x40401060 + 0x1000 * p, 0, 16⟩
abbrev PAIR.URG_SW (p : Nat) : Nat := 0x40401064 + 0x1000 * p
abbrev PAIR.URG_SW_INP (p : Nat) : Fld := ⟨0x40401064 + 0x1000 * p, 0, 3⟩
abbrev PAIR.URG_SW_STRM (p : Nat) : Fld := ⟨0x40401064 + 0x1000 * p, 4, 4⟩
abbrev PAIR.URG_SW_GO (p : Nat) : Fld := ⟨0x40401064 + 0x1000 * p, 8, 1⟩
abbrev PAIR.SEQ_E (p : Nat) (i : Nat) : Nat := 0x40401080 + 0x1000 * p + 0x4 * i
abbrev PAIR.SEQ_E_INP (p : Nat) (i : Nat) : Fld := ⟨0x40401080 + 0x1000 * p + 0x4 * i, 0, 3⟩
abbrev PAIR.SEQ_E_CV (p : Nat) (i : Nat) : Fld := ⟨0x40401080 + 0x1000 * p + 0x4 * i, 3, 1⟩
abbrev PAIR.SEQ_E_SIM (p : Nat) (i : Nat) : Fld := ⟨0x40401080 + 0x1000 * p + 0x4 * i, 4, 1⟩
abbrev PAIR.SEQ_E_STRM (p : Nat) (i : Nat) : Fld := ⟨0x40401080 + 0x1000 * p + 0x4 * i, 5, 4⟩
abbrev PAIR.STR_CFG (p : Nat) (i : Nat) : Nat := 0x40401100 + 0x1000 * p + 0x8 * i
abbrev PAIR.STR_CFG_EN (p : Nat) (i : Nat) : Fld := ⟨0x40401100 + 0x1000 * p + 0x8 * i, 0, 1⟩
abbrev PAIR.STR_CFG_NM1 (p : Nat) (i : Nat) : Fld := ⟨0x40401100 + 0x1000 * p + 0x8 * i, 1, 2⟩
abbrev PAIR.STR_CFG_RM1 (p : Nat) (i : Nat) : Fld := ⟨0x40401100 + 0x1000 * p + 0x8 * i, 3, 8⟩
abbrev PAIR.STR_CFG_BUF (p : Nat) (i : Nat) : Fld := ⟨0x40401100 + 0x1000 * p + 0x8 * i, 11, 1⟩
abbrev PAIR.STR_LAST (p : Nat) (i : Nat) : Nat := 0x40401104 + 0x1000 * p + 0x8 * i
abbrev PAIR.STR_LAST_WORD (p : Nat) (i : Nat) : Fld := ⟨0x40401104 + 0x1000 * p + 0x8 * i, 0, 32⟩
abbrev PAIR.BUF_BASE (p : Nat) : Nat := 0x40401180 + 0x1000 * p
abbrev PAIR.BUF_BASE_ADDR (p : Nat) : Fld := ⟨0x40401180 + 0x1000 * p, 6, 26⟩
abbrev PAIR.BUF_LEN (p : Nat) : Nat := 0x40401184 + 0x1000 * p
abbrev PAIR.BUF_LEN_LOG2 (p : Nat) : Fld := ⟨0x40401184 + 0x1000 * p, 0, 5⟩
abbrev PAIR.BUF_WR (p : Nat) : Nat := 0x40401188 + 0x1000 * p
abbrev PAIR.BUF_WR_WR (p : Nat) : Fld := ⟨0x40401188 + 0x1000 * p, 0, 16⟩
abbrev PAIR.BUF_RD (p : Nat) : Nat := 0x4040118C + 0x1000 * p
abbrev PAIR.BUF_RD_RD (p : Nat) : Fld := ⟨0x4040118C + 0x1000 * p, 0, 16⟩
abbrev PAIR.BUF_WM (p : Nat) : Nat := 0x40401190 + 0x1000 * p
abbrev PAIR.BUF_WM_WM (p : Nat) : Fld := ⟨0x40401190 + 0x1000 * p, 0, 16⟩
abbrev PAIR.OVR_CNT (p : Nat) : Nat := 0x40401194 + 0x1000 * p
abbrev PAIR.OVR_CNT_CNT (p : Nat) : Fld := ⟨0x40401194 + 0x1000 * p, 0, 32⟩
abbrev PAIR.CAL_A (p : Nat) : Nat := 0x404011A0 + 0x1000 * p
abbrev PAIR.CAL_A_OFS (p : Nat) : Fld := ⟨0x404011A0 + 0x1000 * p, 0, 16⟩
abbrev PAIR.CAL_A_GN (p : Nat) : Fld := ⟨0x404011A0 + 0x1000 * p, 16, 16⟩
abbrev PAIR.CAL_B (p : Nat) : Nat := 0x404011A4 + 0x1000 * p
abbrev PAIR.CAL_B_OFS (p : Nat) : Fld := ⟨0x404011A4 + 0x1000 * p, 0, 16⟩
abbrev PAIR.CAL_B_GN (p : Nat) : Fld := ⟨0x404011A4 + 0x1000 * p, 16, 16⟩
abbrev PAIR.CAL_SKEW (p : Nat) : Nat := 0x404011A8 + 0x1000 * p
abbrev PAIR.CAL_SKEW_SKEW (p : Nat) : Fld := ⟨0x404011A8 + 0x1000 * p, 0, 8⟩
abbrev PAIR.CAL_CMD (p : Nat) : Nat := 0x404011AC + 0x1000 * p
abbrev PAIR.CAL_CMD_GO (p : Nat) : Fld := ⟨0x404011AC + 0x1000 * p, 0, 1⟩
abbrev PAIR.PSTAT (p : Nat) : Nat := 0x404011C0 + 0x1000 * p
abbrev PAIR.PSTAT_RUN (p : Nat) : Fld := ⟨0x404011C0 + 0x1000 * p, 0, 1⟩
abbrev PAIR.PSTAT_CAL_RUN (p : Nat) : Fld := ⟨0x404011C0 + 0x1000 * p, 1, 1⟩
abbrev PAIR.PSTAT_CAL_OK (p : Nat) : Fld := ⟨0x404011C0 + 0x1000 * p, 2, 1⟩
abbrev PAIR.PSTAT_URG_FILL (p : Nat) : Fld := ⟨0x404011C0 + 0x1000 * p, 3, 3⟩
abbrev PAIR.PSTAT_SEG_ACT (p : Nat) : Fld := ⟨0x404011C0 + 0x1000 * p, 6, 4⟩
abbrev PAIR.CNT (p : Nat) : Nat := 0x404011C4 + 0x1000 * p
abbrev PAIR.CNT_URG_LOST (p : Nat) : Fld := ⟨0x404011C4 + 0x1000 * p, 0, 16⟩
abbrev PAIR.CNT_SEG_MISS (p : Nat) : Fld := ⟨0x404011C4 + 0x1000 * p, 16, 16⟩

/-! ### BLK (R182) -/

abbrev BLK.page : Nat := 0x40500000
abbrev BLK.CFG : Nat := 0x40500040
abbrev BLK.CFG_SSC : Fld := ⟨0x40500040, 0, 1⟩
abbrev BLK.CFG_VMAX : Fld := ⟨0x40500040, 8, 8⟩
abbrev BLK.CFG_VMIN : Fld := ⟨0x40500040, 16, 8⟩
abbrev BLK.TMO : Nat := 0x40500044
abbrev BLK.TMO_STAT_MISS : Fld := ⟨0x40500044, 0, 8⟩
abbrev BLK.TMO_RETRY : Fld := ⟨0x40500044, 8, 8⟩
abbrev BLK.TMO_CFG_TMO : Fld := ⟨0x40500044, 16, 8⟩
abbrev BLK.MCAP : Nat := 0x40500048
abbrev BLK.MCAP_CAP : Fld := ⟨0x40500048, 0, 16⟩
abbrev BLK.UP_MAP0 : Nat := 0x4050004C
abbrev BLK.UP_MAP0_LANE_LO : Fld := ⟨0x4050004C, 0, 32⟩
abbrev BLK.UP_MAP1 : Nat := 0x40500050
abbrev BLK.UP_MAP1_LANE_HI : Fld := ⟨0x40500050, 0, 16⟩
abbrev BLK.HOT_MAP0 : Nat := 0x40500054
abbrev BLK.HOT_MAP0_LANE_LO : Fld := ⟨0x40500054, 0, 32⟩
abbrev BLK.HOT_MAP1 : Nat := 0x40500058
abbrev BLK.HOT_MAP1_LANE_HI : Fld := ⟨0x40500058, 0, 16⟩
abbrev BLK.DOWN_MAP0 : Nat := 0x4050005C
abbrev BLK.DOWN_MAP0_LANE_LO : Fld := ⟨0x4050005C, 0, 32⟩
abbrev BLK.DOWN_MAP1 : Nat := 0x40500060
abbrev BLK.DOWN_MAP1_LANE_HI : Fld := ⟨0x40500060, 0, 16⟩

/-! ### LANE (R183) -/

abbrev LANE.page (p : Nat) : Nat := 0x40501000 + 0x1000 * p
abbrev LANE.CFG (p : Nat) : Nat := 0x40501040 + 0x1000 * p
abbrev LANE.CFG_EN (p : Nat) : Fld := ⟨0x40501040 + 0x1000 * p, 0, 1⟩
abbrev LANE.CFG_PRBS (p : Nat) : Fld := ⟨0x40501040 + 0x1000 * p, 1, 2⟩
abbrev LANE.CFG_CMD (p : Nat) : Fld := ⟨0x40501040 + 0x1000 * p, 3, 3⟩
abbrev LANE.CFG_PRBS_MS (p : Nat) : Fld := ⟨0x40501040 + 0x1000 * p, 16, 16⟩
abbrev LANE.TXEQ (p : Nat) : Nat := 0x40501044 + 0x1000 * p
abbrev LANE.TXEQ_PRE (p : Nat) : Fld := ⟨0x40501044 + 0x1000 * p, 0, 3⟩
abbrev LANE.TXEQ_MAIN (p : Nat) : Fld := ⟨0x40501044 + 0x1000 * p, 8, 5⟩
abbrev LANE.TXEQ_POST (p : Nat) : Fld := ⟨0x40501044 + 0x1000 * p, 16, 4⟩
abbrev LANE.ASYM (p : Nat) : Nat := 0x40501048 + 0x1000 * p
abbrev LANE.ASYM_ASYM (p : Nat) : Fld := ⟨0x40501048 + 0x1000 * p, 0, 16⟩
abbrev LANE.STAT (p : Nat) : Nat := 0x4050104C + 0x1000 * p
abbrev LANE.STAT_STATE (p : Nat) : Fld := ⟨0x4050104C + 0x1000 * p, 0, 4⟩
abbrev LANE.STAT_DCAUSE (p : Nat) : Fld := ⟨0x4050104C + 0x1000 * p, 4, 4⟩
abbrev LANE.STAT_VER (p : Nat) : Fld := ⟨0x4050104C + 0x1000 * p, 8, 8⟩
abbrev LANE.STAT_DLYW (p : Nat) : Fld := ⟨0x4050104C + 0x1000 * p, 16, 1⟩
abbrev LANE.DLY (p : Nat) : Nat := 0x40501050 + 0x1000 * p
abbrev LANE.DLY_D (p : Nat) : Fld := ⟨0x40501050 + 0x1000 * p, 0, 16⟩
abbrev LANE.DLY_SPREAD (p : Nat) : Fld := ⟨0x40501050 + 0x1000 * p, 16, 16⟩
abbrev LANE.PEER0 (p : Nat) : Nat := 0x40501054 + 0x1000 * p
abbrev LANE.PEER0_UID_LO (p : Nat) : Fld := ⟨0x40501054 + 0x1000 * p, 0, 32⟩
abbrev LANE.PEER1 (p : Nat) : Nat := 0x40501058 + 0x1000 * p
abbrev LANE.PEER1_UID_HI (p : Nat) : Fld := ⟨0x40501058 + 0x1000 * p, 0, 32⟩
abbrev LANE.PEER2 (p : Nat) : Nat := 0x4050105C + 0x1000 * p
abbrev LANE.PEER2_VERMAX (p : Nat) : Fld := ⟨0x4050105C + 0x1000 * p, 0, 8⟩
abbrev LANE.PEER2_KID (p : Nat) : Fld := ⟨0x4050105C + 0x1000 * p, 8, 8⟩
abbrev LANE.PEER2_MAKER (p : Nat) : Fld := ⟨0x4050105C + 0x1000 * p, 16, 16⟩
abbrev LANE.PEER3 (p : Nat) : Nat := 0x40501060 + 0x1000 * p
abbrev LANE.PEER3_CAP (p : Nat) : Fld := ⟨0x40501060 + 0x1000 * p, 0, 16⟩
abbrev LANE.PEER3_CONV (p : Nat) : Fld := ⟨0x40501060 + 0x1000 * p, 16, 8⟩
abbrev LANE.PEER3_LINK (p : Nat) : Fld := ⟨0x40501060 + 0x1000 * p, 24, 1⟩
abbrev LANE.SID (p : Nat) : Nat := 0x40501064 + 0x1000 * p
abbrev LANE.SID_SID (p : Nat) : Fld := ⟨0x40501064 + 0x1000 * p, 0, 32⟩
abbrev LANE.ERR (p : Nat) : Nat := 0x40501068 + 0x1000 * p
abbrev LANE.ERR_CRCERR (p : Nat) : Fld := ⟨0x40501068 + 0x1000 * p, 0, 8⟩
abbrev LANE.ERR_SEQERR (p : Nat) : Fld := ⟨0x40501068 + 0x1000 * p, 8, 8⟩
abbrev LANE.ERR_LATE (p : Nat) : Fld := ⟨0x40501068 + 0x1000 * p, 16, 8⟩
abbrev LANE.ERR_MALF (p : Nat) : Fld := ⟨0x40501068 + 0x1000 * p, 24, 8⟩
abbrev LANE.BLKERR (p : Nat) : Nat := 0x4050106C + 0x1000 * p
abbrev LANE.BLKERR_HDR (p : Nat) : Fld := ⟨0x4050106C + 0x1000 * p, 0, 16⟩
abbrev LANE.BLKERR_LOCKLOSS (p : Nat) : Fld := ⟨0x4050106C + 0x1000 * p, 16, 16⟩
abbrev LANE.PRBS (p : Nat) : Nat := 0x40501070 + 0x1000 * p
abbrev LANE.PRBS_ERRS (p : Nat) : Fld := ⟨0x40501070 + 0x1000 * p, 0, 32⟩
abbrev LANE.CSTAT (p : Nat) : Nat := 0x40501074 + 0x1000 * p
abbrev LANE.CSTAT_W3 (p : Nat) : Fld := ⟨0x40501074 + 0x1000 * p, 0, 32⟩
abbrev LANE.CREQ (p : Nat) : Nat := 0x40501078 + 0x1000 * p
abbrev LANE.CREQ_PID (p : Nat) : Fld := ⟨0x40501078 + 0x1000 * p, 0, 16⟩
abbrev LANE.CREQ_GO (p : Nat) : Fld := ⟨0x40501078 + 0x1000 * p, 16, 1⟩
abbrev LANE.CVAL (p : Nat) : Nat := 0x4050107C + 0x1000 * p
abbrev LANE.CVAL_VALUE (p : Nat) : Fld := ⟨0x4050107C + 0x1000 * p, 0, 32⟩
abbrev LANE.CRES (p : Nat) : Nat := 0x40501080 + 0x1000 * p
abbrev LANE.CRES_RES (p : Nat) : Fld := ⟨0x40501080 + 0x1000 * p, 0, 8⟩
abbrev LANE.CRES_BUSY (p : Nat) : Fld := ⟨0x40501080 + 0x1000 * p, 8, 1⟩
abbrev LANE.RXCNT (p : Nat) : Nat := 0x40501084 + 0x1000 * p
abbrev LANE.RXCNT_CNT (p : Nat) : Fld := ⟨0x40501084 + 0x1000 * p, 0, 32⟩

/-! ### TRL (R340) -/

abbrev TRL.page : Nat := 0x40600000
abbrev TRL.CFG : Nat := 0x40600040
abbrev TRL.CFG_LANE_EN : Fld := ⟨0x40600040, 0, 8⟩
abbrev TRL.CFG_ADDR_MODE : Fld := ⟨0x40600040, 8, 1⟩
abbrev TRL.ID : Nat := 0x40600044
abbrev TRL.ID_ADDR : Fld := ⟨0x40600044, 0, 4⟩
abbrev TRL.ID_ADMIT : Fld := ⟨0x40600044, 4, 1⟩
abbrev TRL.ID_ROOT : Fld := ⟨0x40600044, 5, 1⟩
abbrev TRL.ID_ADDR_CONFLICT : Fld := ⟨0x40600044, 6, 1⟩
abbrev TRL.ID_JOIN_ARMED : Fld := ⟨0x40600044, 7, 1⟩
abbrev TRL.ID_SLOT : Fld := ⟨0x40600044, 8, 4⟩
abbrev TRL.ID_ROOT_ADDR : Fld := ⟨0x40600044, 12, 4⟩
abbrev TRL.ID_NMOD : Fld := ⟨0x40600044, 16, 5⟩
abbrev TRL.UID0 : Nat := 0x40600048
abbrev TRL.UID0_UID : Fld := ⟨0x40600048, 0, 32⟩
abbrev TRL.UID1 : Nat := 0x4060004C
abbrev TRL.UID1_UID : Fld := ⟨0x4060004C, 0, 32⟩
abbrev TRL.RUID0 : Nat := 0x40600050
abbrev TRL.RUID0_UID : Fld := ⟨0x40600050, 0, 32⟩
abbrev TRL.RUID1 : Nat := 0x40600054
abbrev TRL.RUID1_UID : Fld := ⟨0x40600054, 0, 32⟩
abbrev TRL.MAP : Nat := 0x40600058
abbrev TRL.MAP_PRESENT : Fld := ⟨0x40600058, 0, 16⟩
abbrev TRL.REDISC : Nat := 0x4060005C
abbrev TRL.REDISC_T_LAST : Fld := ⟨0x4060005C, 0, 16⟩
abbrev TRL.REDISC_GO : Fld := ⟨0x4060005C, 16, 1⟩
abbrev TRL.LN_STAT (i : Nat) : Nat := 0x40600060 + 0x4 * i
abbrev TRL.LN_STAT_STATE (i : Nat) : Fld := ⟨0x40600060 + 0x4 * i, 0, 3⟩
abbrev TRL.LN_STAT_PEER_ADDR (i : Nat) : Fld := ⟨0x40600060 + 0x4 * i, 3, 4⟩
abbrev TRL.LN_STAT_PEER_LANE (i : Nat) : Fld := ⟨0x40600060 + 0x4 * i, 7, 3⟩
abbrev TRL.LN_STAT_PEER_OK (i : Nat) : Fld := ⟨0x40600060 + 0x4 * i, 10, 1⟩
abbrev TRL.LN_STAT_UPSTREAM (i : Nat) : Fld := ⟨0x40600060 + 0x4 * i, 11, 1⟩
abbrev TRL.LN_STAT_DCAUSE (i : Nat) : Fld := ⟨0x40600060 + 0x4 * i, 12, 4⟩
abbrev TRL.LN_STAT_D (i : Nat) : Fld := ⟨0x40600060 + 0x4 * i, 16, 16⟩
abbrev TRL.LN_TXEQ (i : Nat) : Nat := 0x40600080 + 0x4 * i
abbrev TRL.LN_TXEQ_PRE (i : Nat) : Fld := ⟨0x40600080 + 0x4 * i, 0, 3⟩
abbrev TRL.LN_TXEQ_MAIN (i : Nat) : Fld := ⟨0x40600080 + 0x4 * i, 8, 5⟩
abbrev TRL.LN_TXEQ_POST (i : Nat) : Fld := ⟨0x40600080 + 0x4 * i, 16, 4⟩
abbrev TRL.LN_ERR (i : Nat) : Nat := 0x406000A0 + 0x4 * i
abbrev TRL.LN_ERR_HDR (i : Nat) : Fld := ⟨0x406000A0 + 0x4 * i, 0, 16⟩
abbrev TRL.LN_ERR_LOCKLOSS (i : Nat) : Fld := ⟨0x406000A0 + 0x4 * i, 16, 16⟩
abbrev TRL.RTE (i : Nat) : Nat := 0x406000C0 + 0x4 * i
abbrev TRL.RTE_PRI (i : Nat) : Fld := ⟨0x406000C0 + 0x4 * i, 0, 3⟩
abbrev TRL.RTE_PRI_OK (i : Nat) : Fld := ⟨0x406000C0 + 0x4 * i, 3, 1⟩
abbrev TRL.RTE_ALT (i : Nat) : Fld := ⟨0x406000C0 + 0x4 * i, 4, 3⟩
abbrev TRL.RTE_ALT_OK (i : Nat) : Fld := ⟨0x406000C0 + 0x4 * i, 7, 1⟩
abbrev TRL.RTE_ON_ALT (i : Nat) : Fld := ⟨0x406000C0 + 0x4 * i, 8, 1⟩
abbrev TRL.RTE_REACH (i : Nat) : Fld := ⟨0x406000C0 + 0x4 * i, 9, 1⟩
abbrev TRL.RTE_HOPS (i : Nat) : Fld := ⟨0x406000C0 + 0x4 * i, 10, 4⟩
abbrev TRL.FCFG (i : Nat) : Nat := 0x40600100 + 0x8 * i
abbrev TRL.FCFG_EN (i : Nat) : Fld := ⟨0x40600100 + 0x8 * i, 0, 1⟩
abbrev TRL.FCFG_TYPE (i : Nat) : Fld := ⟨0x40600100 + 0x8 * i, 1, 2⟩
abbrev TRL.FCFG_DIR (i : Nat) : Fld := ⟨0x40600100 + 0x8 * i, 3, 1⟩
abbrev TRL.FCFG_PEER (i : Nat) : Fld := ⟨0x40600100 + 0x8 * i, 4, 4⟩
abbrev TRL.FCFG_PEER_FLOW (i : Nat) : Fld := ⟨0x40600100 + 0x8 * i, 8, 6⟩
abbrev TRL.FCFG_MISS (i : Nat) : Fld := ⟨0x40600100 + 0x8 * i, 14, 1⟩
abbrev TRL.FCFG_LATE (i : Nat) : Fld := ⟨0x40600100 + 0x8 * i, 16, 16⟩
abbrev TRL.FVAL (i : Nat) : Nat := 0x40600104 + 0x8 * i
abbrev TRL.FVAL_VALUE (i : Nat) : Fld := ⟨0x40600104 + 0x8 * i, 0, 32⟩

/-! ### STL (R341) -/

abbrev STL.page : Nat := 0x40610000
abbrev STL.CFG : Nat := 0x40610040
abbrev STL.CFG_EN : Fld := ⟨0x40610040, 0, 1⟩
abbrev STL.CFG_PREF : Fld := ⟨0x40610040, 1, 1⟩
abbrev STL.CFG_MLANE : Fld := ⟨0x40610040, 2, 3⟩
abbrev STL.CFG_PARTNER : Fld := ⟨0x40610040, 5, 4⟩
abbrev STL.CFG_RET_SW : Fld := ⟨0x40610040, 9, 1⟩
abbrev STL.CFG_AUTO_RET : Fld := ⟨0x40610040, 10, 1⟩
abbrev STL.CFG_HOLDOFF : Fld := ⟨0x40610040, 16, 10⟩
abbrev STL.TMO : Nat := 0x40610044
abbrev STL.TMO_START_TMO : Fld := ⟨0x40610044, 0, 8⟩
abbrev STL.TMO_KEEP_TMO : Fld := ⟨0x40610044, 16, 16⟩
abbrev STL.STAT : Nat := 0x40610048
abbrev STL.STAT_STATE : Fld := ⟨0x40610048, 0, 3⟩
abbrev STL.STAT_OWN_HELD : Fld := ⟨0x40610048, 3, 1⟩
abbrev STL.STAT_PARTNER_HELD : Fld := ⟨0x40610048, 4, 1⟩
abbrev STL.STAT_DRIVE : Fld := ⟨0x40610048, 5, 1⟩
abbrev STL.STAT_CFG_DIFF : Fld := ⟨0x40610048, 6, 1⟩
abbrev STL.STAT_UNPROT : Fld := ⟨0x40610048, 7, 1⟩
abbrev STL.STAT_SET_AGE : Fld := ⟨0x40610048, 8, 8⟩
abbrev STL.BUDGET : Nat := 0x4061004C
abbrev STL.BUDGET_BUDGET : Fld := ⟨0x4061004C, 0, 16⟩
abbrev STL.BUDGET_USED : Fld := ⟨0x4061004C, 16, 16⟩
abbrev STL.SWO : Nat := 0x40610050
abbrev STL.SWO_CAUSE : Fld := ⟨0x40610050, 0, 4⟩
abbrev STL.SWO_GAP : Fld := ⟨0x40610050, 4, 2⟩
abbrev STL.SWO_PIDX : Fld := ⟨0x40610050, 8, 24⟩
abbrev STL.RET : Nat := 0x40610054
abbrev STL.RET_CHK : Fld := ⟨0x40610054, 0, 7⟩
abbrev STL.RET_RET_OK : Fld := ⟨0x40610054, 8, 1⟩
abbrev STL.RET_HOLD_LEFT : Fld := ⟨0x40610054, 16, 10⟩
abbrev STL.CMD : Nat := 0x40610058
abbrev STL.CMD_OP : Fld := ⟨0x40610058, 0, 2⟩
abbrev STL.KEEP : Nat := 0x4061005C
abbrev STL.KEEP_KEEP : Fld := ⟨0x4061005C, 0, 1⟩
abbrev STL.CBLK_MAP0 : Nat := 0x40610060
abbrev STL.CBLK_MAP0_CELL : Fld := ⟨0x40610060, 0, 32⟩
abbrev STL.CBLK_MAP1 : Nat := 0x40610064
abbrev STL.CBLK_MAP1_CELL : Fld := ⟨0x40610064, 0, 16⟩
abbrev STL.UNPAIR_MAP0 : Nat := 0x40610068
abbrev STL.UNPAIR_MAP0_CELL : Fld := ⟨0x40610068, 0, 32⟩
abbrev STL.UNPAIR_MAP1 : Nat := 0x4061006C
abbrev STL.UNPAIR_MAP1_CELL : Fld := ⟨0x4061006C, 0, 16⟩
abbrev STL.MISS_CNT : Nat := 0x40610070
abbrev STL.MISS_CNT_CNT : Fld := ⟨0x40610070, 0, 32⟩
abbrev STL.MLIST (i : Nat) : Nat := 0x40610080 + 0x4 * i
abbrev STL.MLIST_ENG (i : Nat) : Fld := ⟨0x40610080 + 0x4 * i, 0, 4⟩
abbrev STL.MLIST_CTX (i : Nat) : Fld := ⟨0x40610080 + 0x4 * i, 4, 4⟩
abbrev STL.MLIST_S_FIRST (i : Nat) : Fld := ⟨0x40610080 + 0x4 * i, 8, 6⟩
abbrev STL.MLIST_S_CNT (i : Nat) : Fld := ⟨0x40610080 + 0x4 * i, 14, 7⟩
abbrev STL.MLIST_OUTS (i : Nat) : Fld := ⟨0x40610080 + 0x4 * i, 21, 1⟩
abbrev STL.MLIST_EN (i : Nat) : Fld := ⟨0x40610080 + 0x4 * i, 22, 1⟩

/-! ### CAN (R396) -/

abbrev CAN.page (p : Nat) : Nat := 0x40700000 + 0x1000 * p
abbrev CAN.NBT (p : Nat) : Nat := 0x40700040 + 0x1000 * p
abbrev CAN.NBT_NBRP (p : Nat) : Fld := ⟨0x40700040 + 0x1000 * p, 0, 9⟩
abbrev CAN.NBT_NTSEG1 (p : Nat) : Fld := ⟨0x40700040 + 0x1000 * p, 9, 8⟩
abbrev CAN.NBT_NTSEG2 (p : Nat) : Fld := ⟨0x40700040 + 0x1000 * p, 17, 7⟩
abbrev CAN.NBT_NSJW (p : Nat) : Fld := ⟨0x40700040 + 0x1000 * p, 24, 7⟩
abbrev CAN.DBT (p : Nat) : Nat := 0x40700044 + 0x1000 * p
abbrev CAN.DBT_DBRP (p : Nat) : Fld := ⟨0x40700044 + 0x1000 * p, 0, 5⟩
abbrev CAN.DBT_DTSEG1 (p : Nat) : Fld := ⟨0x40700044 + 0x1000 * p, 5, 5⟩
abbrev CAN.DBT_DTSEG2 (p : Nat) : Fld := ⟨0x40700044 + 0x1000 * p, 10, 4⟩
abbrev CAN.DBT_DSJW (p : Nat) : Fld := ⟨0x40700044 + 0x1000 * p, 14, 4⟩
abbrev CAN.DBT_TDCE (p : Nat) : Fld := ⟨0x40700044 + 0x1000 * p, 18, 1⟩
abbrev CAN.DBT_TDCO (p : Nat) : Fld := ⟨0x40700044 + 0x1000 * p, 19, 7⟩
abbrev CAN.MODE (p : Nat) : Nat := 0x40700048 + 0x1000 * p
abbrev CAN.MODE_FDOE (p : Nat) : Fld := ⟨0x40700048 + 0x1000 * p, 0, 1⟩
abbrev CAN.MODE_BRSE (p : Nat) : Fld := ⟨0x40700048 + 0x1000 * p, 1, 1⟩
abbrev CAN.MODE_LOM (p : Nat) : Fld := ⟨0x40700048 + 0x1000 * p, 2, 1⟩
abbrev CAN.MODE_LBK (p : Nat) : Fld := ⟨0x40700048 + 0x1000 * p, 3, 1⟩
abbrev CAN.MODE_DAR (p : Nat) : Fld := ⟨0x40700048 + 0x1000 * p, 4, 1⟩
abbrev CAN.MODE_TT (p : Nat) : Fld := ⟨0x40700048 + 0x1000 * p, 5, 1⟩
abbrev CAN.MODE_TTM (p : Nat) : Fld := ⟨0x40700048 + 0x1000 * p, 6, 1⟩
abbrev CAN.MODE_NOMATCH (p : Nat) : Fld := ⟨0x40700048 + 0x1000 * p, 7, 2⟩
abbrev CAN.MODE_DMA_CH (p : Nat) : Fld := ⟨0x40700048 + 0x1000 * p, 9, 5⟩
abbrev CAN.ECR (p : Nat) : Nat := 0x4070004C + 0x1000 * p
abbrev CAN.ECR_TEC (p : Nat) : Fld := ⟨0x4070004C + 0x1000 * p, 0, 8⟩
abbrev CAN.ECR_REC (p : Nat) : Fld := ⟨0x4070004C + 0x1000 * p, 8, 7⟩
abbrev CAN.ECR_RP (p : Nat) : Fld := ⟨0x4070004C + 0x1000 * p, 15, 1⟩
abbrev CAN.ECR_STATE (p : Nat) : Fld := ⟨0x4070004C + 0x1000 * p, 16, 2⟩
abbrev CAN.ECR_LEC (p : Nat) : Fld := ⟨0x4070004C + 0x1000 * p, 18, 3⟩
abbrev CAN.ECR_DLEC (p : Nat) : Fld := ⟨0x4070004C + 0x1000 * p, 21, 3⟩
abbrev CAN.ECR_TDCV (p : Nat) : Fld := ⟨0x4070004C + 0x1000 * p, 24, 7⟩
abbrev CAN.RESTART (p : Nat) : Nat := 0x40700050 + 0x1000 * p
abbrev CAN.RESTART_GO (p : Nat) : Fld := ⟨0x40700050 + 0x1000 * p, 0, 1⟩
abbrev CAN.TSC (p : Nat) : Nat := 0x40700054 + 0x1000 * p
abbrev CAN.TSC_CNT (p : Nat) : Fld := ⟨0x40700054 + 0x1000 * p, 0, 32⟩
abbrev CAN.TSC_CFG (p : Nat) : Nat := 0x40700058 + 0x1000 * p
abbrev CAN.TSC_CFG_PRESC (p : Nat) : Fld := ⟨0x40700058 + 0x1000 * p, 0, 8⟩
abbrev CAN.TSC_PB (p : Nat) : Nat := 0x4070005C + 0x1000 * p
abbrev CAN.TSC_PB_CNT (p : Nat) : Fld := ⟨0x4070005C + 0x1000 * p, 0, 32⟩
abbrev CAN.RXQ_BASE0 (p : Nat) : Nat := 0x40700060 + 0x1000 * p
abbrev CAN.RXQ_BASE0_ADDR (p : Nat) : Fld := ⟨0x40700060 + 0x1000 * p, 6, 26⟩
abbrev CAN.RXQ_BASE1 (p : Nat) : Nat := 0x40700064 + 0x1000 * p
abbrev CAN.RXQ_BASE1_ADDR (p : Nat) : Fld := ⟨0x40700064 + 0x1000 * p, 6, 26⟩
abbrev CAN.TXQ_BASE (p : Nat) : Nat := 0x40700068 + 0x1000 * p
abbrev CAN.TXQ_BASE_ADDR (p : Nat) : Fld := ⟨0x40700068 + 0x1000 * p, 6, 26⟩
abbrev CAN.RXQ_STAT (p : Nat) (i : Nat) : Nat := 0x40700070 + 0x1000 * p + 0x4 * i
abbrev CAN.RXQ_STAT_FILL (p : Nat) (i : Nat) : Fld := ⟨0x40700070 + 0x1000 * p + 0x4 * i, 0, 6⟩
abbrev CAN.RXQ_STAT_HEAD (p : Nat) (i : Nat) : Fld := ⟨0x40700070 + 0x1000 * p + 0x4 * i, 6, 5⟩
abbrev CAN.RXQ_STAT_DROP (p : Nat) (i : Nat) : Fld := ⟨0x40700070 + 0x1000 * p + 0x4 * i, 16, 16⟩
abbrev CAN.RXQ_ACK (p : Nat) : Nat := 0x40700078 + 0x1000 * p
abbrev CAN.RXQ_ACK_Q0 (p : Nat) : Fld := ⟨0x40700078 + 0x1000 * p, 0, 1⟩
abbrev CAN.RXQ_ACK_Q1 (p : Nat) : Fld := ⟨0x40700078 + 0x1000 * p, 1, 1⟩
abbrev CAN.TXQ_STAT (p : Nat) : Nat := 0x4070007C + 0x1000 * p
abbrev CAN.TXQ_STAT_FILL (p : Nat) : Fld := ⟨0x4070007C + 0x1000 * p, 0, 6⟩
abbrev CAN.TXQ_STAT_HEAD (p : Nat) : Fld := ⟨0x4070007C + 0x1000 * p, 6, 5⟩
abbrev CAN.TXQ_STAT_TAIL (p : Nat) : Fld := ⟨0x4070007C + 0x1000 * p, 11, 5⟩
abbrev CAN.TXQ_STAT_GATE (p : Nat) : Fld := ⟨0x4070007C + 0x1000 * p, 16, 1⟩
abbrev CAN.TXQ_STAT_BUSOFF_HELD (p : Nat) : Fld := ⟨0x4070007C + 0x1000 * p, 17, 1⟩
abbrev CAN.TXQ_PUSH (p : Nat) : Nat := 0x40700080 + 0x1000 * p
abbrev CAN.TXQ_PUSH_GO (p : Nat) : Fld := ⟨0x40700080 + 0x1000 * p, 0, 1⟩
abbrev CAN.TXQ_ABORT (p : Nat) : Nat := 0x40700084 + 0x1000 * p
abbrev CAN.TXQ_ABORT_SLOT (p : Nat) : Fld := ⟨0x40700084 + 0x1000 * p, 0, 32⟩
abbrev CAN.TT_CFG (p : Nat) : Nat := 0x40700088 + 0x1000 * p
abbrev CAN.TT_CFG_REF_ID (p : Nat) : Fld := ⟨0x40700088 + 0x1000 * p, 0, 29⟩
abbrev CAN.TT_CFG_REF_XTD (p : Nat) : Fld := ⟨0x40700088 + 0x1000 * p, 29, 1⟩
abbrev CAN.TT_CYC (p : Nat) : Nat := 0x4070008C + 0x1000 * p
abbrev CAN.TT_CYC_CYC_LEN (p : Nat) : Fld := ⟨0x4070008C + 0x1000 * p, 0, 16⟩
abbrev CAN.TT_CYC_CC_MAX (p : Nat) : Fld := ⟨0x4070008C + 0x1000 * p, 16, 6⟩
abbrev CAN.TT_STAT (p : Nat) : Nat := 0x40700090 + 0x1000 * p
abbrev CAN.TT_STAT_CYC_TIME (p : Nat) : Fld := ⟨0x40700090 + 0x1000 * p, 0, 16⟩
abbrev CAN.TT_STAT_CC (p : Nat) : Fld := ⟨0x40700090 + 0x1000 * p, 16, 6⟩
abbrev CAN.TT_STAT_ROLE (p : Nat) : Fld := ⟨0x40700090 + 0x1000 * p, 22, 2⟩
abbrev CAN.TT_STAT_SYNC (p : Nat) : Fld := ⟨0x40700090 + 0x1000 * p, 24, 1⟩
abbrev CAN.TRG (p : Nat) (i : Nat) : Nat := 0x407000A0 + 0x1000 * p + 0x4 * i
abbrev CAN.TRG_MARK (p : Nat) (i : Nat) : Fld := ⟨0x407000A0 + 0x1000 * p + 0x4 * i, 0, 16⟩
abbrev CAN.TRG_CC (p : Nat) (i : Nat) : Fld := ⟨0x407000A0 + 0x1000 * p + 0x4 * i, 16, 6⟩
abbrev CAN.TRG_CC_MSK (p : Nat) (i : Nat) : Fld := ⟨0x407000A0 + 0x1000 * p + 0x4 * i, 22, 6⟩
abbrev CAN.TRG_ACT (p : Nat) (i : Nat) : Fld := ⟨0x407000A0 + 0x1000 * p + 0x4 * i, 28, 2⟩
abbrev CAN.CNT (p : Nat) : Nat := 0x407000C0 + 0x1000 * p
abbrev CAN.CNT_BUSOFF (p : Nat) : Fld := ⟨0x407000C0 + 0x1000 * p, 0, 16⟩
abbrev CAN.CNT_PXE (p : Nat) : Fld := ⟨0x407000C0 + 0x1000 * p, 16, 16⟩
abbrev CAN.FLT_ID (p : Nat) (i : Nat) : Nat := 0x40700100 + 0x1000 * p + 0x8 * i
abbrev CAN.FLT_ID_ID (p : Nat) (i : Nat) : Fld := ⟨0x40700100 + 0x1000 * p + 0x8 * i, 0, 29⟩
abbrev CAN.FLT_ID_XTD (p : Nat) (i : Nat) : Fld := ⟨0x40700100 + 0x1000 * p + 0x8 * i, 29, 1⟩
abbrev CAN.FLT_ID_EN (p : Nat) (i : Nat) : Fld := ⟨0x40700100 + 0x1000 * p + 0x8 * i, 31, 1⟩
abbrev CAN.FLT_MSK (p : Nat) (i : Nat) : Nat := 0x40700104 + 0x1000 * p + 0x8 * i
abbrev CAN.FLT_MSK_MASK (p : Nat) (i : Nat) : Fld := ⟨0x40700104 + 0x1000 * p + 0x8 * i, 0, 29⟩
abbrev CAN.FLT_MSK_XTD_M (p : Nat) (i : Nat) : Fld := ⟨0x40700104 + 0x1000 * p + 0x8 * i, 29, 1⟩
abbrev CAN.FLT_MSK_Q (p : Nat) (i : Nat) : Fld := ⟨0x40700104 + 0x1000 * p + 0x8 * i, 30, 1⟩
abbrev CAN.FLT_MSK_REJ (p : Nat) (i : Nat) : Fld := ⟨0x40700104 + 0x1000 * p + 0x8 * i, 31, 1⟩

/-! ### ETH (R398) -/

abbrev ETH.page (p : Nat) : Nat := 0x40710000 + 0x1000 * p
abbrev ETH.CFG (p : Nat) : Nat := 0x40710040 + 0x1000 * p
abbrev ETH.CFG_IF (p : Nat) : Fld := ⟨0x40710040 + 0x1000 * p, 0, 1⟩
abbrev ETH.CFG_AN_EN (p : Nat) : Fld := ⟨0x40710040 + 0x1000 * p, 1, 1⟩
abbrev ETH.CFG_SPEED (p : Nat) : Fld := ⟨0x40710040 + 0x1000 * p, 2, 2⟩
abbrev ETH.CFG_PROMISC (p : Nat) : Fld := ⟨0x40710040 + 0x1000 * p, 4, 1⟩
abbrev ETH.CFG_MCAST_ALL (p : Nat) : Fld := ⟨0x40710040 + 0x1000 * p, 5, 1⟩
abbrev ETH.CFG_RX_PAUSE (p : Nat) : Fld := ⟨0x40710040 + 0x1000 * p, 6, 1⟩
abbrev ETH.CFG_RX_DMA (p : Nat) : Fld := ⟨0x40710040 + 0x1000 * p, 7, 5⟩
abbrev ETH.CFG_TX_DMA (p : Nat) : Fld := ⟨0x40710040 + 0x1000 * p, 12, 5⟩
abbrev ETH.MAC0 (p : Nat) : Nat := 0x40710044 + 0x1000 * p
abbrev ETH.MAC0_ADDR_LO (p : Nat) : Fld := ⟨0x40710044 + 0x1000 * p, 0, 32⟩
abbrev ETH.MAC1 (p : Nat) : Nat := 0x40710048 + 0x1000 * p
abbrev ETH.MAC1_ADDR_HI (p : Nat) : Fld := ⟨0x40710048 + 0x1000 * p, 0, 16⟩
abbrev ETH.LINK (p : Nat) : Nat := 0x4071004C + 0x1000 * p
abbrev ETH.LINK_LINK (p : Nat) : Fld := ⟨0x4071004C + 0x1000 * p, 0, 1⟩
abbrev ETH.LINK_SPEED (p : Nat) : Fld := ⟨0x4071004C + 0x1000 * p, 1, 2⟩
abbrev ETH.LINK_AN_DONE (p : Nat) : Fld := ⟨0x4071004C + 0x1000 * p, 3, 1⟩
abbrev ETH.LINK_SYNC (p : Nat) : Fld := ⟨0x4071004C + 0x1000 * p, 4, 1⟩
abbrev ETH.RX_BASE (p : Nat) : Nat := 0x40710050 + 0x1000 * p
abbrev ETH.RX_BASE_ADDR (p : Nat) : Fld := ⟨0x40710050 + 0x1000 * p, 4, 28⟩
abbrev ETH.TX_BASE (p : Nat) : Nat := 0x40710058 + 0x1000 * p
abbrev ETH.TX_BASE_ADDR (p : Nat) : Fld := ⟨0x40710058 + 0x1000 * p, 4, 28⟩
abbrev ETH.RX_N (p : Nat) : Nat := 0x40710054 + 0x1000 * p
abbrev ETH.RX_N_N (p : Nat) : Fld := ⟨0x40710054 + 0x1000 * p, 0, 9⟩
abbrev ETH.TX_N (p : Nat) : Nat := 0x4071005C + 0x1000 * p
abbrev ETH.TX_N_N (p : Nat) : Fld := ⟨0x4071005C + 0x1000 * p, 0, 9⟩
abbrev ETH.TX_KICK (p : Nat) : Nat := 0x40710060 + 0x1000 * p
abbrev ETH.TX_KICK_GO (p : Nat) : Fld := ⟨0x40710060 + 0x1000 * p, 0, 1⟩
abbrev ETH.IDX (p : Nat) : Nat := 0x40710064 + 0x1000 * p
abbrev ETH.IDX_RX (p : Nat) : Fld := ⟨0x40710064 + 0x1000 * p, 0, 8⟩
abbrev ETH.IDX_TX (p : Nat) : Fld := ⟨0x40710064 + 0x1000 * p, 16, 8⟩
abbrev ETH.RX_OK (p : Nat) : Nat := 0x40710068 + 0x1000 * p
abbrev ETH.RX_OK_CNT (p : Nat) : Fld := ⟨0x40710068 + 0x1000 * p, 0, 32⟩
abbrev ETH.RX_ERR (p : Nat) : Nat := 0x4071006C + 0x1000 * p
abbrev ETH.RX_ERR_RX_NODESC (p : Nat) : Fld := ⟨0x4071006C + 0x1000 * p, 0, 16⟩
abbrev ETH.RX_ERR_RX_FCS (p : Nat) : Fld := ⟨0x4071006C + 0x1000 * p, 16, 16⟩
abbrev ETH.RX_LONG (p : Nat) : Nat := 0x40710070 + 0x1000 * p
abbrev ETH.RX_LONG_CNT (p : Nat) : Fld := ⟨0x40710070 + 0x1000 * p, 0, 16⟩
abbrev ETH.TX_OK (p : Nat) : Nat := 0x40710074 + 0x1000 * p
abbrev ETH.TX_OK_CNT (p : Nat) : Fld := ⟨0x40710074 + 0x1000 * p, 0, 32⟩
abbrev ETH.TX_LAT (p : Nat) : Nat := 0x40710078 + 0x1000 * p
abbrev ETH.TX_LAT_LAT (p : Nat) : Fld := ⟨0x40710078 + 0x1000 * p, 0, 20⟩
abbrev ETH.RX_LAT (p : Nat) : Nat := 0x4071007C + 0x1000 * p
abbrev ETH.RX_LAT_LAT (p : Nat) : Fld := ⟨0x4071007C + 0x1000 * p, 0, 20⟩
abbrev ETH.PTP_INC_FRAC (p : Nat) : Nat := 0x40710080 + 0x1000 * p
abbrev ETH.PTP_INC_FRAC_FRAC (p : Nat) : Fld := ⟨0x40710080 + 0x1000 * p, 0, 32⟩
abbrev ETH.PTP_INC_NS (p : Nat) : Nat := 0x40710084 + 0x1000 * p
abbrev ETH.PTP_INC_NS_NS (p : Nat) : Fld := ⟨0x40710084 + 0x1000 * p, 0, 4⟩
abbrev ETH.PTP_ADJ (p : Nat) : Nat := 0x40710088 + 0x1000 * p
abbrev ETH.PTP_ADJ_NS (p : Nat) : Fld := ⟨0x40710088 + 0x1000 * p, 0, 32⟩
abbrev ETH.PTP_SET_SEC0 (p : Nat) : Nat := 0x4071008C + 0x1000 * p
abbrev ETH.PTP_SET_SEC0_SEC_LO (p : Nat) : Fld := ⟨0x4071008C + 0x1000 * p, 0, 32⟩
abbrev ETH.PTP_SET_SEC1 (p : Nat) : Nat := 0x40710090 + 0x1000 * p
abbrev ETH.PTP_SET_SEC1_SEC_HI (p : Nat) : Fld := ⟨0x40710090 + 0x1000 * p, 0, 16⟩
abbrev ETH.PTP_SET_NS (p : Nat) : Nat := 0x40710094 + 0x1000 * p
abbrev ETH.PTP_SET_NS_NS (p : Nat) : Fld := ⟨0x40710094 + 0x1000 * p, 0, 30⟩
abbrev ETH.PTP_CMD (p : Nat) : Nat := 0x40710098 + 0x1000 * p
abbrev ETH.PTP_CMD_SET (p : Nat) : Fld := ⟨0x40710098 + 0x1000 * p, 0, 1⟩
abbrev ETH.PTP_CMD_CAPTURE (p : Nat) : Fld := ⟨0x40710098 + 0x1000 * p, 1, 1⟩
abbrev ETH.PTP_SEC0 (p : Nat) : Nat := 0x4071009C + 0x1000 * p
abbrev ETH.PTP_SEC0_SEC (p : Nat) : Fld := ⟨0x4071009C + 0x1000 * p, 0, 32⟩
abbrev ETH.PTP_SEC1 (p : Nat) : Nat := 0x407100A0 + 0x1000 * p
abbrev ETH.PTP_SEC1_SEC (p : Nat) : Fld := ⟨0x407100A0 + 0x1000 * p, 0, 16⟩
abbrev ETH.PTP_NS (p : Nat) : Nat := 0x407100A4 + 0x1000 * p
abbrev ETH.PTP_NS_NS (p : Nat) : Fld := ⟨0x407100A4 + 0x1000 * p, 0, 30⟩
abbrev ETH.PTP_FRAC (p : Nat) : Nat := 0x407100A8 + 0x1000 * p
abbrev ETH.PTP_FRAC_FRAC (p : Nat) : Fld := ⟨0x407100A8 + 0x1000 * p, 0, 32⟩
abbrev ETH.PTP_STAT (p : Nat) : Nat := 0x407100AC + 0x1000 * p
abbrev ETH.PTP_STAT_VALID (p : Nat) : Fld := ⟨0x407100AC + 0x1000 * p, 0, 1⟩
abbrev ETH.TSQ_STAT (p : Nat) : Nat := 0x407100B0 + 0x1000 * p
abbrev ETH.TSQ_STAT_FILL (p : Nat) : Fld := ⟨0x407100B0 + 0x1000 * p, 0, 4⟩
abbrev ETH.TSQ_STAT_OVF (p : Nat) : Fld := ⟨0x407100B0 + 0x1000 * p, 16, 16⟩
abbrev ETH.TSQ_ID (p : Nat) : Nat := 0x407100B4 + 0x1000 * p
abbrev ETH.TSQ_ID_TSID (p : Nat) : Fld := ⟨0x407100B4 + 0x1000 * p, 0, 16⟩
abbrev ETH.TSQ_NS (p : Nat) : Nat := 0x407100B8 + 0x1000 * p
abbrev ETH.TSQ_NS_NS (p : Nat) : Fld := ⟨0x407100B8 + 0x1000 * p, 0, 30⟩
abbrev ETH.TSQ_SEC (p : Nat) : Nat := 0x407100BC + 0x1000 * p
abbrev ETH.TSQ_SEC_SEC (p : Nat) : Fld := ⟨0x407100BC + 0x1000 * p, 0, 32⟩
abbrev ETH.TSQ_POP (p : Nat) : Nat := 0x407100C0 + 0x1000 * p
abbrev ETH.TSQ_POP_GO (p : Nat) : Fld := ⟨0x407100C0 + 0x1000 * p, 0, 1⟩
abbrev ETH.MDIO (p : Nat) : Nat := 0x407100C4 + 0x1000 * p
abbrev ETH.MDIO_DATA (p : Nat) : Fld := ⟨0x407100C4 + 0x1000 * p, 0, 16⟩
abbrev ETH.MDIO_REG (p : Nat) : Fld := ⟨0x407100C4 + 0x1000 * p, 16, 5⟩
abbrev ETH.MDIO_PHY (p : Nat) : Fld := ⟨0x407100C4 + 0x1000 * p, 21, 5⟩
abbrev ETH.MDIO_WR (p : Nat) : Fld := ⟨0x407100C4 + 0x1000 * p, 26, 1⟩
abbrev ETH.MDIO_GO (p : Nat) : Fld := ⟨0x407100C4 + 0x1000 * p, 27, 1⟩

/-! ### SAF (R369, R370) -/

abbrev SAF.page : Nat := 0x40800000
abbrev SAF.STAT : Nat := 0x40800040
abbrev SAF.STAT_RUN : Fld := ⟨0x40800040, 0, 1⟩
abbrev SAF.STAT_LOCKOUT : Fld := ⟨0x40800040, 1, 1⟩
abbrev SAF.STAT_ARM_OK : Fld := ⟨0x40800040, 2, 1⟩
abbrev SAF.STAT_SPS_OK : Fld := ⟨0x40800040, 3, 1⟩
abbrev SAF.STAT_NEW_PAR : Fld := ⟨0x40800040, 4, 1⟩
abbrev SAF.STAT_STO : Fld := ⟨0x40800040, 5, 1⟩
abbrev SAF.STAT_MBR_IN : Fld := ⟨0x40800040, 6, 1⟩
abbrev SAF.STAT_FN_RUN : Fld := ⟨0x40800040, 8, 8⟩
abbrev SAF.STAT_SO_ON : Fld := ⟨0x40800040, 16, 4⟩
abbrev SAF.LOCK : Nat := 0x40800044
abbrev SAF.LOCK_CAUSE : Fld := ⟨0x40800044, 0, 5⟩
abbrev SAF.LOCK_INDEX : Fld := ⟨0x40800044, 8, 4⟩
abbrev SAF.LOCK_PIDX : Fld := ⟨0x40800044, 12, 20⟩
abbrev SAF.SI_LVL : Nat := 0x40800048
abbrev SAF.SI_LVL_A : Fld := ⟨0x40800048, 0, 8⟩
abbrev SAF.SI_LVL_B : Fld := ⟨0x40800048, 8, 8⟩
abbrev SAF.SI_LVL_RUN : Fld := ⟨0x40800048, 16, 8⟩
abbrev SAF.SI_LVL_DISC : Fld := ⟨0x40800048, 24, 8⟩
abbrev SAF.SO_STAT : Nat := 0x4080004C
abbrev SAF.SO_STAT_CMD_A : Fld := ⟨0x4080004C, 0, 4⟩
abbrev SAF.SO_STAT_CMD_B : Fld := ⟨0x4080004C, 4, 4⟩
abbrev SAF.SO_STAT_RB_A : Fld := ⟨0x4080004C, 8, 4⟩
abbrev SAF.SO_STAT_RB_B : Fld := ⟨0x4080004C, 12, 4⟩
abbrev SAF.SO_STAT_TP_ACT : Fld := ⟨0x4080004C, 16, 4⟩
abbrev SAF.FN_STATE : Nat := 0x40800050
abbrev SAF.FN_STATE_ST (j : Nat) : Fld := ⟨0x40800050, 2 * j, 2⟩
abbrev SAF.SRST : Nat := 0x40800054
abbrev SAF.SRST_LEVEL : Fld := ⟨0x40800054, 0, 1⟩
abbrev SAF.SRST_RST_REFUSED : Fld := ⟨0x40800054, 1, 1⟩
abbrev SAF.SRST_SRST_BAD : Fld := ⟨0x40800054, 2, 1⟩
abbrev SAF.SRST_LAST_MS : Fld := ⟨0x40800054, 16, 16⟩
abbrev SAF.CNT : Nat := 0x40800058
abbrev SAF.CNT_DISC_EVT : Fld := ⟨0x40800058, 0, 16⟩
abbrev SAF.CNT_TP_DISC : Fld := ⟨0x40800058, 16, 16⟩
abbrev SAF.SPS_CRC : Nat := 0x4080005C
abbrev SAF.SPS_CRC_CRC : Fld := ⟨0x4080005C, 0, 32⟩
abbrev SAF.ESC_RUN : Nat := 0x40800060
abbrev SAF.ESC_RUN_RUN : Fld := ⟨0x40800060, 0, 16⟩
abbrev SAF.ESC_RUN_FAILED : Fld := ⟨0x40800060, 16, 16⟩
abbrev SAF.ESC_CNT : Nat := 0x40800064
abbrev SAF.ESC_CNT_DISCARD : Fld := ⟨0x40800064, 0, 16⟩
abbrev SAF.ESC_CNT_EXPIRED : Fld := ⟨0x40800064, 16, 16⟩
abbrev SAF.RING_DROP : Nat := 0x40800068
abbrev SAF.RING_DROP_TX_DROP : Fld := ⟨0x40800068, 0, 16⟩
abbrev SAF.SAFCFG : Nat := 0x40800100
abbrev SAF.SAFCFG_BOUND_STO : Fld := ⟨0x40800100, 0, 1⟩
abbrev SAF.RING_BASE : Nat := 0x40800104
abbrev SAF.RING_BASE_ADDR : Fld := ⟨0x40800104, 14, 18⟩
abbrev SAF.SICFG (i : Nat) : Nat := 0x40800120 + 0x4 * i
abbrev SAF.SICFG_TYPE (i : Nat) : Fld := ⟨0x40800120 + 0x4 * i, 0, 2⟩
abbrev SAF.SICFG_T_D (i : Nat) : Fld := ⟨0x40800120 + 0x4 * i, 2, 12⟩
abbrev SAF.SICFG_FILT (i : Nat) : Fld := ⟨0x40800120 + 0x4 * i, 14, 7⟩
abbrev SAF.SICFG_TPSRC (i : Nat) : Fld := ⟨0x40800120 + 0x4 * i, 21, 3⟩
abbrev SAF.FN_W0 (i : Nat) : Nat := 0x40800140 + 0x8 * i
abbrev SAF.FN_W0_TYPE (i : Nat) : Fld := ⟨0x40800140 + 0x8 * i, 0, 3⟩
abbrev SAF.FN_W0_IN0 (i : Nat) : Fld := ⟨0x40800140 + 0x8 * i, 3, 3⟩
abbrev SAF.FN_W0_IN1 (i : Nat) : Fld := ⟨0x40800140 + 0x8 * i, 6, 3⟩
abbrev SAF.FN_W0_RESTART (i : Nat) : Fld := ⟨0x40800140 + 0x8 * i, 9, 1⟩
abbrev SAF.FN_W0_SO (i : Nat) : Fld := ⟨0x40800140 + 0x8 * i, 10, 4⟩
abbrev SAF.FN_W0_STO (i : Nat) : Fld := ⟨0x40800140 + 0x8 * i, 14, 1⟩
abbrev SAF.FN_W0_ESC (i : Nat) : Fld := ⟨0x40800140 + 0x8 * i, 15, 4⟩
abbrev SAF.FN_W0_BIT (i : Nat) : Fld := ⟨0x40800140 + 0x8 * i, 19, 3⟩
abbrev SAF.FN_W1 (i : Nat) : Nat := 0x40800144 + 0x8 * i
abbrev SAF.FN_W1_OFF_DLY (i : Nat) : Fld := ⟨0x40800144 + 0x8 * i, 0, 14⟩
abbrev SAF.SOCFG (i : Nat) : Nat := 0x40800180 + 0x4 * i
abbrev SAF.SOCFG_MODE (i : Nat) : Fld := ⟨0x40800180 + 0x4 * i, 0, 2⟩
abbrev SAF.SOCFG_TP_W (i : Nat) : Fld := ⟨0x40800180 + 0x4 * i, 2, 6⟩
abbrev SAF.ESC_W0 (i : Nat) : Nat := 0x408001C0 + 0x8 * i
abbrev SAF.ESC_W0_CID (i : Nat) : Fld := ⟨0x408001C0 + 0x8 * i, 0, 32⟩
abbrev SAF.ESC_W1 (i : Nat) : Nat := 0x408001C4 + 0x8 * i
abbrev SAF.ESC_W1_TEXP (i : Nat) : Fld := ⟨0x408001C4 + 0x8 * i, 0, 10⟩
abbrev SAF.ESC_W1_TX_INT (i : Nat) : Fld := ⟨0x408001C4 + 0x8 * i, 10, 9⟩
abbrev SAF.ESC_W1_VMIN (i : Nat) : Fld := ⟨0x408001C4 + 0x8 * i, 19, 2⟩
abbrev SAF.ESC_W1_VMAX (i : Nat) : Fld := ⟨0x408001C4 + 0x8 * i, 21, 2⟩
abbrev SAF.ESC_W1_SEQ_WIN (i : Nat) : Fld := ⟨0x408001C4 + 0x8 * i, 23, 4⟩
abbrev SAF.ESC_W1_EN (i : Nat) : Fld := ⟨0x408001C4 + 0x8 * i, 27, 1⟩

/-! ### SEC (R444) -/

abbrev SEC.page : Nat := 0x40900000
abbrev SEC.LC_STAT : Nat := 0x40900040
abbrev SEC.LC_STAT_LC : Fld := ⟨0x40900040, 0, 3⟩
abbrev SEC.LC_STAT_LC_BUSY : Fld := ⟨0x40900040, 3, 1⟩
abbrev SEC.LC_STAT_BENCH_IL : Fld := ⟨0x40900040, 4, 1⟩
abbrev SEC.LC_STAT_ERASED : Fld := ⟨0x40900040, 5, 1⟩
abbrev SEC.LC_STAT_ARM_PERMIT : Fld := ⟨0x40900040, 6, 1⟩
abbrev SEC.LC_STAT_FRZ_PERMIT : Fld := ⟨0x40900040, 7, 1⟩
abbrev SEC.LC_STAT_SVC_LEFT : Fld := ⟨0x40900040, 16, 10⟩
abbrev SEC.LC_REQ : Nat := 0x40900044
abbrev SEC.LC_REQ_TARGET : Fld := ⟨0x40900044, 0, 3⟩
abbrev SEC.LC_REQ_GO : Fld := ⟨0x40900044, 3, 1⟩
abbrev SEC.DBG_CTL : Nat := 0x40900048
abbrev SEC.DBG_CTL_OP : Fld := ⟨0x40900048, 0, 2⟩
abbrev SEC.DBG_STAT : Nat := 0x4090004C
abbrev SEC.DBG_STAT_STATE : Fld := ⟨0x4090004C, 0, 2⟩
abbrev SEC.DBG_STAT_SCOPE : Fld := ⟨0x4090004C, 2, 2⟩
abbrev SEC.DBG_LEFT : Nat := 0x40900050
abbrev SEC.DBG_LEFT_SEC : Fld := ⟨0x40900050, 0, 17⟩
abbrev SEC.BOOT : Nat := 0x40900054
abbrev SEC.BOOT_SLOT : Fld := ⟨0x40900054, 0, 2⟩
abbrev SEC.BOOT_NONE : Fld := ⟨0x40900054, 2, 1⟩
abbrev SEC.BOOT_A_FAIL : Fld := ⟨0x40900054, 8, 4⟩
abbrev SEC.BOOT_B_FAIL : Fld := ⟨0x40900054, 12, 4⟩
abbrev SEC.BOOT_C_FAIL : Fld := ⟨0x40900054, 16, 4⟩
abbrev SEC.BOOT_VER0 : Nat := 0x40900058
abbrev SEC.BOOT_VER0_VER : Fld := ⟨0x40900058, 0, 32⟩
abbrev SEC.BOOT_VER1 : Nat := 0x4090005C
abbrev SEC.BOOT_VER1_VER : Fld := ⟨0x4090005C, 0, 32⟩
abbrev SEC.BOOT_ONCE : Nat := 0x40900060
abbrev SEC.BOOT_ONCE_SLOT : Fld := ⟨0x40900060, 0, 2⟩
abbrev SEC.BOOT_ONCE_EN : Fld := ⟨0x40900060, 2, 1⟩
abbrev SEC.RB : Nat := 0x40900064
abbrev SEC.RB_MIN : Fld := ⟨0x40900064, 0, 7⟩
abbrev SEC.RB_ADV : Nat := 0x40900068
abbrev SEC.RB_ADV_VALUE : Fld := ⟨0x40900068, 0, 7⟩
abbrev SEC.RB_ADV_GO : Fld := ⟨0x40900068, 7, 1⟩
abbrev SEC.KPROV : Nat := 0x4090006C
abbrev SEC.KPROV_GO : Fld := ⟨0x4090006C, 0, 1⟩
abbrev SEC.KPROV_REVOKE : Fld := ⟨0x4090006C, 1, 1⟩
abbrev SEC.KPROV_KID : Fld := ⟨0x4090006C, 2, 8⟩
abbrev SEC.KSTAT : Nat := 0x40900070
abbrev SEC.KSTAT_USED : Fld := ⟨0x40900070, 0, 7⟩
abbrev SEC.KSTAT_BUSY : Fld := ⟨0x40900070, 7, 1⟩
abbrev SEC.KSTAT_LAST_KID : Fld := ⟨0x40900070, 8, 8⟩
abbrev SEC.CHAL_NEW : Nat := 0x40900074
abbrev SEC.CHAL_NEW_GO : Fld := ⟨0x40900074, 0, 1⟩
abbrev SEC.CHAL (i : Nat) : Nat := 0x40900080 + 0x4 * i
abbrev SEC.CHAL_NONCE (i : Nat) : Fld := ⟨0x40900080 + 0x4 * i, 0, 32⟩
abbrev SEC.TOKEN (i : Nat) : Nat := 0x40900200 + 0x4 * i
abbrev SEC.TOKEN_DATA (i : Nat) : Fld := ⟨0x40900200 + 0x4 * i, 0, 32⟩

/-! ### NVL (R477) -/

abbrev NVL.page : Nat := 0x40A00000
abbrev NVL.CMD : Nat := 0x40A00040
abbrev NVL.CMD_OP : Fld := ⟨0x40A00040, 0, 2⟩
abbrev NVL.CMD_DEV : Fld := ⟨0x40A00040, 2, 1⟩
abbrev NVL.ADDR : Nat := 0x40A00044
abbrev NVL.ADDR_ADDR : Fld := ⟨0x40A00044, 0, 26⟩
abbrev NVL.BUF : Nat := 0x40A00048
abbrev NVL.BUF_BUF : Fld := ⟨0x40A00048, 0, 24⟩
abbrev NVL.LEN : Nat := 0x40A0004C
abbrev NVL.LEN_LEN : Fld := ⟨0x40A0004C, 0, 17⟩
abbrev NVL.STAT : Nat := 0x40A00050
abbrev NVL.STAT_BUSY : Fld := ⟨0x40A00050, 0, 1⟩
abbrev NVL.STAT_QSPI_OK : Fld := ⟨0x40A00050, 1, 1⟩
abbrev NVL.STAT_LOG_Q : Fld := ⟨0x40A00050, 8, 6⟩
abbrev NVL.LOG_SEQ : Nat := 0x40A00054
abbrev NVL.LOG_SEQ_SEQ : Fld := ⟨0x40A00054, 0, 32⟩
abbrev NVL.LOG_OLD : Nat := 0x40A00058
abbrev NVL.LOG_OLD_SEQ : Fld := ⟨0x40A00058, 0, 32⟩
abbrev NVL.LOG_IDX : Nat := 0x40A0005C
abbrev NVL.LOG_IDX_SEQ : Fld := ⟨0x40A0005C, 0, 32⟩
abbrev NVL.LOG_DATA (i : Nat) : Nat := 0x40A00060 + 0x4 * i
abbrev NVL.LOG_DATA_DATA (i : Nat) : Fld := ⟨0x40A00060 + 0x4 * i, 0, 32⟩
abbrev NVL.LOG_RSTAT : Nat := 0x40A00080
abbrev NVL.LOG_RSTAT_VALID : Fld := ⟨0x40A00080, 0, 1⟩
abbrev NVL.LOG_RSTAT_GONE : Fld := ⟨0x40A00080, 1, 1⟩
abbrev NVL.LOG_LOST : Nat := 0x40A00084
abbrev NVL.LOG_LOST_CNT : Fld := ⟨0x40A00084, 0, 32⟩
abbrev NVL.LOG_SW0 : Nat := 0x40A00088
abbrev NVL.LOG_SW0_DATA : Fld := ⟨0x40A00088, 0, 32⟩
abbrev NVL.LOG_SW1 : Nat := 0x40A0008C
abbrev NVL.LOG_SW1_DATA : Fld := ⟨0x40A0008C, 0, 32⟩
abbrev NVL.LOG_PUT : Nat := 0x40A00090
abbrev NVL.LOG_PUT_CODE : Fld := ⟨0x40A00090, 0, 16⟩
abbrev NVL.LOG_PUT_GO : Fld := ⟨0x40A00090, 31, 1⟩
abbrev NVL.RST_REC : Nat := 0x40A00094
abbrev NVL.RST_REC_CAUSE : Fld := ⟨0x40A00094, 0, 4⟩
abbrev NVL.RST_REC_WARM_CNT : Fld := ⟨0x40A00094, 8, 8⟩
abbrev NVL.RCV_CFG : Nat := 0x40A00098
abbrev NVL.RCV_CFG_HB_TMO : Fld := ⟨0x40A00098, 0, 16⟩
abbrev NVL.RCV_CFG_ESC_WARM : Fld := ⟨0x40A00098, 16, 1⟩
abbrev NVL.RCV_CFG_ESC_PCYC : Fld := ⟨0x40A00098, 17, 1⟩
abbrev NVL.RCV_CFG_WARM_MAX : Fld := ⟨0x40A00098, 18, 3⟩
abbrev NVL.RCV_CFG_WARM_WIN : Fld := ⟨0x40A00098, 21, 11⟩
abbrev NVL.RCV_PCYC : Nat := 0x40A0009C
abbrev NVL.RCV_PCYC_PCYC_T : Fld := ⟨0x40A0009C, 0, 8⟩
abbrev NVL.HEART : Nat := 0x40A000A0
abbrev NVL.HEART_KEY : Fld := ⟨0x40A000A0, 0, 8⟩
abbrev NVL.RESET : Nat := 0x40A000A4
abbrev NVL.RESET_WARM : Fld := ⟨0x40A000A4, 0, 1⟩
abbrev NVL.RESET_PCYC : Fld := ⟨0x40A000A4, 1, 1⟩
abbrev NVL.RESET_KEY : Fld := ⟨0x40A000A4, 8, 8⟩

/-! ### PIN (R493) -/

abbrev PIN.page : Nat := 0x40B00000
abbrev PIN.QRY : Nat := 0x40B00040
abbrev PIN.QRY_RCLS : Fld := ⟨0x40B00040, 0, 8⟩
abbrev PIN.QRY_RIDX : Fld := ⟨0x40B00040, 8, 8⟩
abbrev PIN.QRES : Nat := 0x40B00044
abbrev PIN.QRES_CLS : Fld := ⟨0x40B00044, 0, 8⟩
abbrev PIN.QRES_INST : Fld := ⟨0x40B00044, 8, 8⟩
abbrev PIN.QRES_SUB_CLS : Fld := ⟨0x40B00044, 16, 8⟩
abbrev PIN.QRES_SUB_INST : Fld := ⟨0x40B00044, 24, 8⟩
abbrev PIN.DENY0 : Nat := 0x40B00048
abbrev PIN.DENY0_RES : Fld := ⟨0x40B00048, 0, 16⟩
abbrev PIN.DENY0_HOLDER : Fld := ⟨0x40B00048, 16, 16⟩
abbrev PIN.DENY1 : Nat := 0x40B0004C
abbrev PIN.DENY1_CLAIMANT : Fld := ⟨0x40B0004C, 0, 16⟩
abbrev PIN.LOST0 : Nat := 0x40B00050
abbrev PIN.LOST0_RES : Fld := ⟨0x40B00050, 0, 16⟩
abbrev PIN.LOST0_DISPLACED : Fld := ⟨0x40B00050, 16, 16⟩
abbrev PIN.LOST1 : Nat := 0x40B00054
abbrev PIN.LOST1_PIDX : Fld := ⟨0x40B00054, 0, 32⟩
abbrev PIN.CNT : Nat := 0x40B00058
abbrev PIN.CNT_DENIED : Fld := ⟨0x40B00058, 0, 16⟩
abbrev PIN.CNT_LOST : Fld := ⟨0x40B00058, 16, 16⟩

/-! ### The page header (R481), by the base address of the page -/

abbrev HDR.PAGE_ID (pg : Nat) : Nat := pg + 0x0
abbrev HDR.PAGE_ID_INST (pg : Nat) : Fld := ⟨pg + 0x0, 0, 16⟩
abbrev HDR.PAGE_ID_TYPE (pg : Nat) : Fld := ⟨pg + 0x0, 16, 16⟩
abbrev HDR.PAGE_VER (pg : Nat) : Nat := pg + 0x4
abbrev HDR.PAGE_VER_MINOR (pg : Nat) : Fld := ⟨pg + 0x4, 0, 8⟩
abbrev HDR.PAGE_VER_MAJOR (pg : Nat) : Fld := ⟨pg + 0x4, 8, 8⟩
abbrev HDR.CAP (pg : Nat) : Nat := pg + 0x8
abbrev HDR.CAP_CAP (pg : Nat) : Fld := ⟨pg + 0x8, 0, 32⟩
abbrev HDR.CTRL (pg : Nat) : Nat := pg + 0xC
abbrev HDR.CTRL_EN (pg : Nat) : Fld := ⟨pg + 0xC, 0, 1⟩
abbrev HDR.CTRL_REINIT (pg : Nat) : Fld := ⟨pg + 0xC, 1, 1⟩
abbrev HDR.CTRL_LOCK (pg : Nat) : Fld := ⟨pg + 0xC, 2, 1⟩
abbrev HDR.CTRL_HOLD (pg : Nat) : Fld := ⟨pg + 0xC, 3, 1⟩
abbrev HDR.STAT (pg : Nat) : Nat := pg + 0x10
abbrev HDR.STAT_ACT (pg : Nat) : Fld := ⟨pg + 0x10, 0, 1⟩
abbrev HDR.STAT_REINIT_BUSY (pg : Nat) : Fld := ⟨pg + 0x10, 1, 1⟩
abbrev HDR.STAT_LOCKED (pg : Nat) : Fld := ⟨pg + 0x10, 2, 1⟩
abbrev HDR.IRQ_RAW (pg : Nat) : Nat := pg + 0x14
abbrev HDR.IRQ_RAW_RAW (pg : Nat) : Fld := ⟨pg + 0x14, 0, 32⟩
abbrev HDR.IRQ_EN (pg : Nat) : Nat := pg + 0x18
abbrev HDR.IRQ_EN_EN (pg : Nat) : Fld := ⟨pg + 0x18, 0, 32⟩
abbrev HDR.IRQ_PEND (pg : Nat) : Nat := pg + 0x1C
abbrev HDR.IRQ_PEND_PEND (pg : Nat) : Fld := ⟨pg + 0x1C, 0, 32⟩
abbrev HDR.ERR_CODE (pg : Nat) : Nat := pg + 0x20
abbrev HDR.ERR_CODE_CODE (pg : Nat) : Fld := ⟨pg + 0x20, 0, 8⟩
abbrev HDR.ERR_CODE_OFS (pg : Nat) : Fld := ⟨pg + 0x20, 8, 12⟩
abbrev HDR.ERR_CODE_MULTI (pg : Nat) : Fld := ⟨pg + 0x20, 20, 1⟩
abbrev HDR.OWNER (pg : Nat) : Nat := pg + 0x24
abbrev HDR.OWNER_CLS (pg : Nat) : Fld := ⟨pg + 0x24, 0, 8⟩
abbrev HDR.OWNER_INST (pg : Nat) : Fld := ⟨pg + 0x24, 8, 8⟩

/-! ### Reset words -/

/-- The page an address of the peripheral region lies in: its row and its index within the row (R479, R480). -/
def pageOf (a : Nat) : Option (PageRow × Nat) :=
  (pageTable.find? (fun r => r.base ≤ a && a < r.base + 0x1000 * r.count)).map (fun r => (r, (a - r.base) / 0x1000))

/-- The register row at offset `o` of a page kind, with the index of the register within the row. -/
def rowAt (k : PageKind) (o : Nat) : Option (RegRow × Nat) :=
  ((regRows k).find? (fun r =>
      if r.n ≤ 1 then o == r.off
      else r.off ≤ o && (o - r.off) % r.stride == 0 && (o - r.off) / r.stride < r.n)).map
    (fun r => (r, if r.n ≤ 1 then 0 else (o - r.off) / r.stride))

/-- Output dividers of the three PLLs (R403), by PLL and output. -/
def pllOutDiv (p k : Nat) : Nat :=
  match p with
  | 0 => [3, 5, 6, 10].getD k 1
  | 1 => [8, 20, 64].getD k 1
  | _ => [48, 75, 60, 20].getD k 1

/-- Whether PLL output `k` is in use (R403). -/
def pllOutUsed (p k : Nat) : Bool :=
  match p with
  | 0 => k < 4
  | 1 => k < 3
  | _ => k < 4

/-- Reset words that depend on the page or the index (R140, R340, R403, R418); `none` where the table's word holds. -/
def resetSpecial (k : PageKind) (p o : Nat) : Option Nat :=
  match k with
  | .modch =>
      if o % 0x20 = 0 ∧ 0x80 ≤ o ∧ o < 0x180 then some (2 * ((o / 0x20) % 2))
      else if o % 0x20 = 4 ∧ 0x80 ≤ o ∧ o < 0x180 then some (if (o / 0x20) % 2 = 0 then 40000 else 5000)
      else none
  | .trl =>
      if 0x100 ≤ o ∧ o < 0x300 ∧ o % 8 = 0 then
        some (2 * (if (o - 0x100) / 8 ≤ 60 then 0 else (o - 0x100) / 8 - 60))
      else if o = 0x48 ∨ o = 0x50 then some 1 -- the unique id of the model's module, its own root
      else none
  | .sec => if o = 0x4C then some 2 else none -- the debug port is OPEN after reset in MANUFACTURE (R435)
  | .pll =>
      if o = 0x40 then
        some (1 + 2 * (if p = 1 then 25 else 1) + 256 * (if p = 0 then 120 else if p = 1 then 512 else 240))
      else if 0x60 ≤ o ∧ o < 0x80 then
        some (pllOutDiv p ((o - 0x60) / 4) + (if pllOutUsed p ((o - 0x60) / 4) then 0x4000 else 0))
      else none
  | .dsv =>
      -- the active parameter words hold the reset words of their layout (R101)
      if 0x200 ≤ o ∧ o < 0x800 then
        some (match (o % 0x20) / 4 with | 3 => 0xFFFF0000 | 4 => 0xFFFF0000 | 5 => 0x08002000 | _ => 0)
      else none
  | _ => none

/-- Reset word of a header register of a page (R481). -/
def resetHeader (r : PageRow) (i o : Nat) : Nat :=
  if o = 0 then i + 65536 * r.type
  else if o = 4 then 0x100
  else if o = 8 then (if r.type = 1 then 1 else 0) -- SYS.CAP.ISL_FIT of a FOB-4896-A (R2)
  else if o = 0xC then r.en
  else if o = 0x10 then r.en
  else 0

/-- The reset word of the register at address `a` (R487): 0 for a reserved offset. -/
def resetWord (a : Nat) : Word :=
  match pageOf a with
  | none => 0
  | some (r, i) =>
    let o := (a - r.base) % 0x1000
    if o < 0x40 then BitVec.ofNat 32 (resetHeader r i o)
    else match resetSpecial r.kind i o with
      | some v => BitVec.ofNat 32 v
      | none => match rowAt r.kind o with
        | some (w, _) => BitVec.ofNat 32 w.reset
        | none => 0

end Sys2Proof.Machine
end

