-- ==== Sys2Proof/Config.lean ====
section
/-! DEFINITION. What an implementation fixes: the unit of time, the build and its straps, and the free values:
opaque constants with no body for what the spec leaves open (the assumption log names each). -/

namespace Sys2Proof

/-! ### Time. The unit is 1/960 ns: every period, tick, cycle and fine step of the spec is a whole number of it. -/

/-- One nanosecond. -/
abbrev tNs : Nat := 960
/-- One microsecond. -/
abbrev tUs : Nat := 960000
/-- One millisecond. -/
abbrev tMs : Nat := 960000000
/-- One second. -/
abbrev tS : Nat := 960000000000
/-- 10 ns, the unit of TBS.PER_CFG.PERIOD (R17). -/
abbrev t10 : Nat := 9600
/-- One PWM tick, 2.5 ns (R104). [assumption 1 (DESIGN CHOICE)] -/
abbrev tTick : Nat := 2400
/-- One fine step, 156.25 ps (R104). -/
abbrev tFine : Nat := 150
/-- One bus cycle, 2 ns. -/
abbrev tBus : Nat := 1920
/-- One cycle of the loop-engine clock, 1/600 µs (R400). -/
abbrev tLe : Nat := 1600

/-! ### Free values -/

/-- A free word: the n-th value the spec leaves open. -/
opaque Config.freeWord : Nat → Word
/-- A free rational value. -/
opaque Config.freeRat : Nat → Rat
/-- A free natural value. -/
opaque Config.freeNat : Nat → Nat
/-- The gains of the resolver's tracking loop, proportional and integral, for a bandwidth in Hz and a code of FEX, and
whether its angle moves on at the tracked speed between peaks: R230 names the loop and gives no equation. -/
opaque Config.rsvKp : Nat → Nat → Rat
opaque Config.rsvKi : Nat → Nat → Rat
opaque Config.rsvMoves : Bool
/-- A free choice. -/
opaque Config.freeBool : Nat → Bool
/-- The contents of the boot ROM, byte by byte: the spec names the ROM and gives no contents (R479).
[assumption 212 (DESIGN CHOICE)] -/
opaque Config.romByte : Nat → Byte
/-- The check byte of 64 data bits, and the bit a syndrome names, data bits first and check bits from 64 on, 72 and above for
an error that cannot be corrected: the spec names the code and does not give its matrix (R447).
[assumption 168 (DESIGN CHOICE)] -/
opaque Config.eccCheck : BitVec 64 → BitVec 8
/-- See the assumption log. [assumption 168 (DESIGN CHOICE)] -/
opaque Config.eccBit : BitVec 8 → Nat
/-- The angle and the speed, in rad/s, of a machine at an instant from a sensor that serves another machine: the spec gives
none (R229). -/
opaque Config.unservedAngle : Nat → Nat → Word
opaque Config.unservedSpeed : Nat → Nat → Rat
/-- The state of the scrambler of lane `n` at an instant: the spec gives it no start (R146).
[assumption 53 (DESIGN CHOICE)] -/
opaque Config.scrambler : Nat → Nat → BitVec 58
/-- 128 bits of the random source (R168, R424). [assumption 9 (DESIGN CHOICE)] -/
opaque Config.random128 : Nat → BitVec 128
/-- 256 bits of the random source (R424). [assumption 9 (DESIGN CHOICE)] -/
opaque Config.random256 : Nat → BitVec 256

/-- AES-GMAC under a 256-bit key, of an IV and additional data (R168, R169): uninterpreted. [assumption 8 (DESIGN CHOICE)] -/
opaque Config.gmac : BitVec 256 → List Byte → List Byte → BitVec 128
/-- AES-256-CMAC of a message (R168, R363): uninterpreted. [assumption 8 (DESIGN CHOICE)] -/
opaque Config.cmac : BitVec 256 → List Byte → BitVec 128
/-- SHA-384 (R423, R428, R431): uninterpreted. [assumption 8 (DESIGN CHOICE)] -/
opaque Config.sha384 : List Byte → BitVec 384
/-- Verification of an ECDSA signature: public key, digest, signature (R423, R431, R436): uninterpreted.
[assumption 8 (DESIGN CHOICE)] -/
opaque Config.ecdsaOk : BitVec 768 → BitVec 384 → List Byte → Bool
/-- AES key unwrap under a key; none where its integrity check fails (R428): uninterpreted. [assumption 8 (DESIGN CHOICE)] -/
opaque Config.unwrap : BitVec 256 → List Byte → Option (BitVec 256)
/-- AES-256-GCM decryption under a key, with an IV, additional data, ciphertext and tag; none where the tag is wrong
(R430, R431): uninterpreted. [assumption 8 (DESIGN CHOICE)] -/
opaque Config.gcmOpen : BitVec 256 → List Byte → List Byte → List Byte → List Byte → Option (List Byte)

end Sys2Proof
end

