-- ==== Sys2Proof/Syntax.lean ====
section
/-! DEFINITION. The commands of the block: one constructor per row of spec/opcode_table.json, in the table's order,
with the operands the command carries from outside. A host write whose row is one register carries the word written;
an event carries what was measured or received. -/

namespace Sys2Proof

/-- A frame as it leaves or reaches a cell lane: FTYPE and LEN of its SOF, and its body bytes (R151, R152); for one
that arrives, the invalid blocks and the data blocks outside a frame that arrived with it, and whether a control block
other than EOF ended it (R151). [assumption 53 (DESIGN CHOICE)] -/
structure Frame where
  ftype : Nat
  len : Nat
  body : List Byte
  stray : Nat := 0
  cut : Bool := false
  deriving DecidableEq, Repr

/-- A neighbour message (R310), with what an admission and a Settle pair need to know of the sender: the fabric it
belongs to (root, period in 10 ns, period index, the instant of its epoch on this module's clock and that epoch's
station time), and its Settle state. [assumption 101 (DEDUCED)] -/
structure NbrMsg where
  uid : Nat
  addr : Nat
  lane : Nat
  stlEn : Bool
  stlPref : Bool
  /-- PARTNER and MLANE of the sender's STL.CFG -/
  stlPartner : Nat := 0
  stlMlane : Nat := 0
  stlState : Nat
  admitted : Bool
  /-- 0 DISARMED, 1 ARM_PEND, 2 ARMED -/
  arm : Nat
  rootUid : Nat
  period : Nat
  pidx : Nat
  epochAt : Int
  epochSec : Nat
  epochNs : Nat
  /-- the arming states of the other modules as the sender has them, by unique id -/
  others : List (Nat × Nat) := []
  deriving DecidableEq, Repr

/-- A wait for a bus port (R31, R33): its bus cycles, and the bursts and single-word accesses of its class that were queued
ahead at the target port. -/
structure BusWait where
  cycles : Nat
  bursts : Nat
  singles : Nat
  deriving DecidableEq, Repr

/-- The sync headers a Brejalink lane receives (R146, R147), oldest first. -/
structure LaneHdrs where
  lane : Fin 48
  hdrs : List (BitVec 2)
  deriving DecidableEq, Repr

/-- The bytes of a master's write (R451), and whether the debug port makes it (R438). -/
structure BusData where
  bytes : List Byte
  dbg : Bool := false
  deriving DecidableEq, Repr

/-- A time mark (R320): the station time at which it was sent, in 1/960 ns, and the root's RATE. -/
structure TimeMark where
  st : Nat
  rate : Int
  deriving DecidableEq, Repr

/-- What a Trestle lane in training receives (R309): a sync header; a neighbour message, and whether its
sender is a FOB-4896; a reply to an ECHO request with its TURN and RTT in fine steps. -/
inductive TrlRx where
  | header (h : BitVec 2)
  | message (fob : Bool) (m : NbrMsg)
  | echo (turn rtt : Nat)
  deriving DecidableEq, Repr

/-- What a rediscovery found (R311, R312, R315): the other admitted modules as `(unique id, address)`, an address being
held or strapped and absent where the root has still to assign one; the address the root assigned to this one; and every
path as `(address, hops, first lane)`. -/
structure Redisc where
  mods : List (Nat × Option Nat)
  assign : Nat
  paths : List (Nat × Nat × Nat)
  deriving DecidableEq, Repr

/-- The Grainer and solver state of one cell in a mirror set (R330). -/
structure MirCell where
  st : Nat
  rank : Nat
  role : Nat
  dwell : Nat
  trimOn : Bool
  ovlAbove : Nat
  ovlBelow : Nat
  ovlLimited : Bool
  phiPrev : Int
  deriving DecidableEq, Repr

/-- A complete mirror set (R330): state words and outputs of each listed context, cells, stacks as `(state, GAP counts
low and high)`, the trip flags, latches and FIRST, and the period index; with the partner's program CRCs of the listed
contexts and its UP lanes. -/
structure MirrorSet where
  pidx : Nat
  ctxs : List (List Word × List Word)
  cells : List MirCell
  stks : List (Nat × Nat × Nat)
  flags : Nat
  latches : Nat
  firstSrc : Nat
  firstPidx : Nat
  crcs : List Word
  lanes : Nat
  deriving DecidableEq, Repr

/-- A CAN frame (R375, R376). Its identifier stands as in an entry's word 0: a base identifier in bits 28 to 18. -/
structure CanFrame where
  id : Nat
  rtr : Bool
  xtd : Bool
  esi : Bool
  dlc : Nat
  brs : Bool
  fdf : Bool
  data : List Byte
  deriving DecidableEq, Repr

/-- The side of a bus error the controller is on (R382): a receiver; the transmitter of the entry at HEAD, whose SOF was
`ago` CAN clocks before; or that of a reference message. `exempt`: the error is one of the two that leave TEC as it is, an
acknowledge error of an error-passive controller that sees no dominant bit in its error flag, or a stuff error in
arbitration. -/
inductive CanSide where
  | receiver
  | head (ago : Nat) (exempt : Bool)
  | reference (exempt : Bool)
  deriving DecidableEq, Repr

/-- The commands (spec/opcode_table.json). -/
inductive Instr where
  /-- REG_WRITE (R9): the address, the width of the access in bytes and the word written. -/
  | regWrite (addr : Nat) (bytes : Nat) (val : Word)
  /-- PAGE_REINIT (R484): the page by its interrupt line (R480), and the word written to CTRL. -/
  | pageReinit (line : Fin 130) (val : Word)
  /-- PAGE_LOCK (R485): the page by its interrupt line, and the word written to CTRL. -/
  | pageLock (line : Fin 130) (val : Word)
  /-- CTRL_EN_WRITE (R482): the page by its interrupt line, and the word written to CTRL. -/
  | ctrlEnWrite (line : Fin 130) (val : Word)
  /-- IRQ_PEND_CLEAR (R483): the page by its interrupt line, and the bits written. -/
  | irqPendClear (line : Fin 130) (mask : Word)
  /-- PERIOD_BOUNDARY (R16): the crossbar load of the period that ends: the busiest port, its load and the share of P0 to P2 (R34, R37). -/
  | periodBoundary (load : BitVec 8) (hi : BitVec 8) (port : BitVec 8)
  /-- UPLINK_WINDOW_CLOSE (R18). -/
  | uplinkWindowClose
  /-- LE_WINDOW_CLOSE (R18). -/
  | leWindowClose
  /-- GD_WINDOW_CLOSE (R18). -/
  | gdWindowClose
  /-- DL_WINDOW_CLOSE (R18): the lanes whose schedule frame has not been sent in full (R24). -/
  | dlWindowClose (unsent : BitVec 48)
  /-- PERIOD_WRITE (R22): the word written to TBS.PER_CFG. -/
  | periodWrite (val : Word)
  /-- PERIOD_CHANGE_RECEIPT (R22): the new T_c in 10 ns and the period index at which it takes effect (R22, R323). -/
  | periodChangeReceipt (period : BitVec 16) (at_ : BitVec 64)
  /-- PERIOD_CHANGE_APPLY (R22). -/
  | periodChangeApply
  /-- P3_STARVE (R32): the wait in bus cycles. -/
  | p3Starve (wait : BitVec 24)
  /-- BOUND_VIOL (R33): the class P0 to P2 and the wait. -/
  | boundViol (cls : Fin 3) (wait : BusWait)
  /-- P3_STARVE_CNT_CLEAR (R37). -/
  | p3StarveCntClear
  /-- STK_ENABLE (R40): the stack and the word written to STK_CFG, EN taken as 1. -/
  | stkEnable (k : Fin 8) (val : Word)
  /-- STK_DISABLE (R40): the stack and the word written to STK_CFG, EN taken as 0. -/
  | stkDisable (k : Fin 8) (val : Word)
  /-- STK_MODE_WRITE (R520): the stack and the word written to STK_CFG. -/
  | stkModeWrite (k : Fin 8) (val : Word)
  /-- CELL_STK_WRITE (R521): the register k of GRN.CELL_STKk and the word written. -/
  | cellStkWrite (k : Fin 6) (val : Word)
  /-- CELL_CMD_BYPASS (R60): the CELL field; 48 to 63 are refused. -/
  | cellCmdBypass (cell : Fin 64)
  /-- CELL_CMD_REINSERT (R60): the CELL field; 48 to 63 are refused. -/
  | cellCmdReinsert (cell : Fin 64)
  /-- CELL_CMD_SPARE (R60): the CELL field; 48 to 63 are refused. -/
  | cellCmdSpare (cell : Fin 64)
  /-- CELL_CMD_TEST (R60): the CELL field; 48 to 63 are refused. -/
  | cellCmdTest (cell : Fin 64)
  /-- CELL_CMD_CLEAR (R60): the CELL field; 48 to 63 are refused. -/
  | cellCmdClear (cell : Fin 64)
  /-- CELL_CMD_RELEASE (R60): the CELL field; 48 to 63 are refused. -/
  | cellCmdRelease (cell : Fin 64)
  /-- STK_CMD_PRECHARGE (R66): the stack. -/
  | stkCmdPrecharge (k : Fin 8)
  /-- STK_CMD_RUN (R68): the stack. -/
  | stkCmdRun (k : Fin 8)
  /-- STK_CMD_STOP (R66): the stack. -/
  | stkCmdStop (k : Fin 8)
  /-- STK_CMD_UNBLOCK (R66): the stack. -/
  | stkCmdUnblock (k : Fin 8)
  /-- GAP_IN (R71). -/
  | gapIn
  /-- GAP_OUT (R73). -/
  | gapOut
  /-- BYP_FAIL (R61): the cell. -/
  | bypFail (n : Fin 48)
  /-- OVERLOAD_LIMIT (R56): the cell. -/
  | overloadLimit (n : Fin 48)
  /-- OVERLOAD_RELEASE (R56): the cell. -/
  | overloadRelease (n : Fin 48)
  /-- DSV_SOLVE (R96). -/
  | dsvSolve
  /-- DSV_CELL_ENABLE (R98): the cell whose bit of EN_MAP is set. -/
  | dsvCellEnable (n : Fin 48)
  /-- DSV_CELL_DISABLE (R98): the cell whose bit of EN_MAP is cleared. -/
  | dsvCellDisable (n : Fin 48)
  /-- PAR_COMMIT (R99): the CELL field; 48 to 63 are refused. -/
  | parCommit (cell : Fin 64)
  /-- PAR_DONE (R99). -/
  | parDone
  /-- CARRIER_VALLEY (R107): cell channel 0 to 95, or 96 + k for local leg Lk. -/
  | carrierValley (ch : Fin 108)
  /-- CARRIER_PEAK (R107): cell channel 0 to 95, or 96 + k for local leg Lk. -/
  | carrierPeak (ch : Fin 108)
  /-- CH_PRD_WRITE (R123): the cell channel and the word written to CHn_PRD. -/
  | chPrdWrite (ch : Fin 96) (val : Word)
  /-- LEG_ENABLE (R125): the leg and the word written to Lk_CFG, EN taken as 1. -/
  | legEnable (k : Fin 12) (val : Word)
  /-- LEG_DISABLE (R125): the leg and the word written to Lk_CFG, EN taken as 0. -/
  | legDisable (k : Fin 12) (val : Word)
  /-- TRIP_INPUT (R126): the ball, its level, and for how long it has held that level. -/
  | tripInput (n : Fin 8) (level : Bool) (held : Nat)
  /-- TRP_SWTRIP (R126). -/
  | trpSwtrip
  /-- TRP_FLAG_CLEAR (R131): ISTAT or STAT, and the FLAG bits written. -/
  | trpFlagClear (internal : Bool) (mask : BitVec 8)
  /-- TRP_REARM (R131): the bits written to TRP.REARM. -/
  | trpRearm (mask : BitVec 16)
  /-- TRIP_INPUT_ENABLE (R492): the word written to TRP.CFG. -/
  | tripInputEnable (val : Word)
  /-- HALT (R135, R438): a debug halt of 0 host pair A, 1 host pair B, 2 a loop engine, 3 SM0, 4 SM1. -/
  | halt (src : Fin 5)
  /-- CLOCK_STOP (R135). -/
  | clockStop
  /-- HALT_END (R138): the halt that ends: 0 to 2 as HALT, 3 the PWM clock. -/
  | haltEnd (src : Fin 4)
  /-- LANE_ENABLE (R164): the lane and the word written to LNn_CFG, EN taken as 1. -/
  | laneEnable (n : Fin 48) (val : Word)
  /-- LANE_DISABLE (R150): the lane and the word written to LNn_CFG, EN taken as 0. -/
  | laneDisable (n : Fin 48) (val : Word)
  /-- BLOCK_LOCK (R147): the lane and the sync headers it receives. -/
  | blockLock (rx : LaneHdrs)
  /-- BLOCK_LOCK_LOSS (R147): the lane and the sync headers it receives. -/
  | blockLockLoss (rx : LaneHdrs)
  /-- HELLO_TIMER (R164): the lane. -/
  | helloTimer (n : Fin 48)
  /-- HELLO_RX (R166): the lane and the frame as it arrived. -/
  | helloRx (n : Fin 48) (f : Frame)
  /-- HELLO_TMO (R164): the lane. -/
  | helloTmo (n : Fin 48)
  /-- ECHO_REPLY_RX (R164): the lane, EID and TURN of the reply, and the RTT in fine steps. -/
  | echoReplyRx (n : Fin 48) (eid : BitVec 8) (turn : Word) (rtt : Nat)
  /-- ECHO_TIMEOUT (R164): the lane. -/
  | echoTimeout (n : Fin 48)
  /-- MEASURE_LIMIT (R164): the lane. -/
  | measureLimit (n : Fin 48)
  /-- SOPEN_RETRY (R164): the lane. -/
  | sopenRetry (n : Fin 48)
  /-- SACK_RX (R168): the lane and the frame. -/
  | sackRx (n : Fin 48) (f : Frame)
  /-- CFGACK_RX (R169): the lane and the frame. -/
  | cfgackRx (n : Fin 48) (f : Frame)
  /-- CFG_ACK_TIMEOUT (R170): the lane. -/
  | cfgAckTimeout (n : Fin 48)
  /-- STATUS_RX (R159): the lane and the frame. -/
  | statusRx (n : Fin 48) (f : Frame)
  /-- STAT_MISS (R164): the lane. -/
  | statMiss (n : Fin 48)
  /-- DOWN_RETRY (R164): the lane. -/
  | downRetry (n : Fin 48)
  /-- TMARK_SEND (R160): the lane. -/
  | tmarkSend (n : Fin 48)
  /-- DT_CFG_SEND (R170): the lane. -/
  | dtCfgSend (n : Fin 48)
  /-- CREQ_GO (R170): the lane and the word written to LNn_CREQ. -/
  | creqGo (n : Fin 48) (val : Word)
  /-- PRBS_START (R175): the lane and the word written to LNn_CFG. -/
  | prbsStart (n : Fin 48) (val : Word)
  /-- PRBS_END (R175): the lane and the errors counted in the test. -/
  | prbsEnd (n : Fin 48) (errs : Word)
  /-- SSC_SET (R180): the word written to BLK.CFG. -/
  | sscSet (val : Word)
  /-- CTX_ENABLE (R193): the engine and the CTX_EN bits set. -/
  | ctxEnable (e : Fin 16) (mask : BitVec 16)
  /-- SCAN_COMPLETE (R193): the engine and the context whose scan ends. -/
  | scanComplete (e : Fin 16) (k : Fin 16)
  /-- CTX_DISABLE (R194): the engine and the CTX_EN bits cleared. -/
  | ctxDisable (e : Fin 16) (mask : BitVec 16)
  /-- CTX_HOLD_SET (R210): the engine and the CTX_HOLD bits set. -/
  | ctxHoldSet (e : Fin 16) (mask : BitVec 16)
  /-- CTX_HOLD_CLEAR (R210): the engine and the CTX_HOLD bits cleared. -/
  | ctxHoldClear (e : Fin 16) (mask : BitVec 16)
  /-- CONTEXT_START (R188): the engine that starts its next context. -/
  | contextStart (e : Fin 16)
  /-- END (R189): executed by engine e on its running context. -/
  | leEnd (e : Fin 16)
  /-- NOP (R201): executed by engine e on its running context. -/
  | leNop (e : Fin 16)
  /-- LIL (R201): executed by engine e on its running context. -/
  | leLil (e : Fin 16) (vd : Fin 32) (imm : BitVec 16)
  /-- LIH (R201): executed by engine e on its running context. -/
  | leLih (e : Fin 16) (vd : Fin 32) (imm : BitVec 16)
  /-- MOV (R201): executed by engine e on its running context. -/
  | leMov (e : Fin 16) (vd : Fin 32) (va : Fin 32)
  /-- CVT (R201): executed by engine e on its running context. -/
  | leCvt (e : Fin 16) (vd : Fin 32) (va : Fin 32) (t : Fin 4)
  /-- ADD (R201): executed by engine e on its running context. -/
  | leAdd (e : Fin 16) (vd : Fin 32) (va : Fin 32) (vb : Fin 32) (t : Fin 3)
  /-- SUB (R201): executed by engine e on its running context. -/
  | leSub (e : Fin 16) (vd : Fin 32) (va : Fin 32) (vb : Fin 32) (t : Fin 3)
  /-- MUL (R201): executed by engine e on its running context. -/
  | leMul (e : Fin 16) (vd : Fin 32) (va : Fin 32) (vb : Fin 32) (t : Fin 3)
  /-- MAC (R201): executed by engine e on its running context. -/
  | leMac (e : Fin 16) (vd : Fin 32) (va : Fin 32) (vb : Fin 32) (t : Fin 3)
  /-- DIV (R201): executed by engine e on its running context. -/
  | leDiv (e : Fin 16) (vd : Fin 32) (va : Fin 32) (vb : Fin 32) (t : Fin 3)
  /-- SQRT (R201): executed by engine e on its running context. -/
  | leSqrt (e : Fin 16) (vd : Fin 32) (va : Fin 32) (t : Fin 2)
  /-- ABS (R201): executed by engine e on its running context. -/
  | leAbs (e : Fin 16) (vd : Fin 32) (va : Fin 32) (t : Fin 3)
  /-- NEG (R201): executed by engine e on its running context. -/
  | leNeg (e : Fin 16) (vd : Fin 32) (va : Fin 32) (t : Fin 3)
  /-- MIN (R201): executed by engine e on its running context. -/
  | leMin (e : Fin 16) (vd : Fin 32) (va : Fin 32) (vb : Fin 32) (t : Fin 3)
  /-- MAX (R201): executed by engine e on its running context. -/
  | leMax (e : Fin 16) (vd : Fin 32) (va : Fin 32) (vb : Fin 32) (t : Fin 3)
  /-- ADDI (R201): executed by engine e on its running context. -/
  | leAddi (e : Fin 16) (vd : Fin 32) (va : Fin 32) (imm : BitVec 16)
  /-- AND (R201): executed by engine e on its running context. -/
  | leAnd (e : Fin 16) (vd : Fin 32) (va : Fin 32) (vb : Fin 32)
  /-- OR (R201): executed by engine e on its running context. -/
  | leOr (e : Fin 16) (vd : Fin 32) (va : Fin 32) (vb : Fin 32)
  /-- XOR (R201): executed by engine e on its running context. -/
  | leXor (e : Fin 16) (vd : Fin 32) (va : Fin 32) (vb : Fin 32)
  /-- SHA (R201): executed by engine e on its running context. -/
  | leSha (e : Fin 16) (vd : Fin 32) (va : Fin 32) (imm : BitVec 16)
  /-- LDS (R201): executed by engine e on its running context. -/
  | leLds (e : Fin 16) (vd : Fin 32) (idx : Fin 64)
  /-- STS (R201): executed by engine e on its running context. -/
  | leSts (e : Fin 16) (vd : Fin 32) (idx : Fin 64)
  /-- LDC (R201): executed by engine e on its running context. -/
  | leLdc (e : Fin 16) (vd : Fin 32) (idx : Fin 64)
  /-- LDM (R201): executed by engine e on its running context. -/
  | leLdm (e : Fin 16) (vd : Fin 32) (va : Fin 32) (imm : BitVec 16)
  /-- STM (R201): executed by engine e on its running context. -/
  | leStm (e : Fin 16) (vd : Fin 32) (va : Fin 32) (imm : BitVec 16)
  /-- IN (R198): executed by engine e on its running context; the crossbar wait in engine cycles of an ADC binding. -/
  | leIn (e : Fin 16) (vd : Fin 32) (idx : Fin 16) (wait : Nat)
  /-- OUT (R201): executed by engine e on its running context. -/
  | leOut (e : Fin 16) (vd : Fin 32) (idx : Fin 16)
  /-- GETF (R202): executed by engine e on its running context. -/
  | leGetf (e : Fin 16) (vd : Fin 32)
  /-- BR (R201): executed by engine e on its running context. -/
  | leBr (e : Fin 16) (off : Fin 2048)
  /-- BC (R201): executed by engine e on its running context. -/
  | leBc (e : Fin 16) (va : Fin 32) (vb : Fin 32) (cond : Fin 6) (t : Fin 3) (off : Fin 2048)
  /-- BINIT (R201): executed by engine e on its running context. -/
  | leBinit (e : Fin 16) (off : Fin 2048)
  /-- LOOP (R201): executed by engine e on its running context. -/
  | leLoop (e : Fin 16) (n : Fin 1024) (len : Fin 1024)
  /-- PI (R204): executed by engine e on its running context. -/
  | lePi (e : Fin 16) (vd : Fin 32) (va : Fin 32) (sb : Fin 64) (cb : Fin 64) (ff : Bool)
  /-- PID (R204): executed by engine e on its running context. -/
  | lePid (e : Fin 16) (vd : Fin 32) (va : Fin 32) (sb : Fin 64) (cb : Fin 64) (ff : Bool)
  /-- BIQ (R205): executed by engine e on its running context. -/
  | leBiq (e : Fin 16) (vd : Fin 32) (va : Fin 32) (sb : Fin 64) (cb : Fin 64)
  /-- LLAG (R205): executed by engine e on its running context. -/
  | leLlag (e : Fin 16) (vd : Fin 32) (va : Fin 32) (sb : Fin 64) (cb : Fin 64)
  /-- LIM (R205): executed by engine e on its running context. -/
  | leLim (e : Fin 16) (vd : Fin 32) (va : Fin 32) (cb : Fin 64) (dpri : Bool)
  /-- SAT (R205): executed by engine e on its running context. -/
  | leSat (e : Fin 16) (vd : Fin 32) (va : Fin 32) (cb : Fin 64) (t : Fin 3)
  /-- RAMP (R207): executed by engine e on its running context. -/
  | leRamp (e : Fin 16) (vd : Fin 32) (va : Fin 32) (sb : Fin 64) (cb : Fin 64)
  /-- TLU (R205): executed by engine e on its running context. -/
  | leTlu (e : Fin 16) (vd : Fin 32) (va : Fin 32) (cb : Fin 64)
  /-- CLARKE (R206): executed by engine e on its running context. -/
  | leClarke (e : Fin 16) (vd : Fin 32) (va : Fin 32) (two : Bool)
  /-- PARK (R206): executed by engine e on its running context. -/
  | lePark (e : Fin 16) (vd : Fin 32) (va : Fin 32)
  /-- IPARK (R206): executed by engine e on its running context. -/
  | leIpark (e : Fin 16) (vd : Fin 32) (va : Fin 32)
  /-- SINCOS (R206): executed by engine e on its running context. -/
  | leSincos (e : Fin 16) (vd : Fin 32) (va : Fin 32)
  /-- OBSV (R206): executed by engine e on its running context. -/
  | leObsv (e : Fin 16) (vd : Fin 32) (va : Fin 32) (sb : Fin 64) (cb : Fin 64)
  /-- HANDOVER (R208): executed by engine e on its running context. -/
  | leHandover (e : Fin 16) (vd : Fin 32) (va : Fin 32) (sb : Fin 64) (cb : Fin 64) (ang : Bool) (trk : Bool)
  /-- CQ_PUSH (R209): the engine and the word written to CQ_ADDR. -/
  | cqPush (e : Fin 16) (val : Word)
  /-- CTX_MOVE (R213): the engine and the word written to MOVE. -/
  | ctxMove (e : Fin 16) (val : Word)
  /-- MOVE_CHECK_DONE (R214): the engine whose move has been checked. -/
  | moveCheckDone (e : Fin 16)
  /-- ENGINE_TEST (R215): the engine and the word written to TEST. -/
  | engineTest (e : Fin 16) (val : Word)
  /-- ENGINE_TEST_DONE (R215): the engine and the result of its self-test. -/
  | engineTestDone (e : Fin 16) (pass : Bool)
  /-- MACHINE_ENABLE (R222): the machine and the word written to Mm_CFG, EN taken as 1. -/
  | machineEnable (m : Fin 2) (val : Word)
  /-- MACHINE_DISABLE (R222): the machine and the word written to Mm_CFG, EN taken as 0. -/
  | machineDisable (m : Fin 2) (val : Word)
  /-- MACH_RUN (R237): the machine. -/
  | machRun (m : Fin 2)
  /-- MACH_STOP (R237): the machine. -/
  | machStop (m : Fin 2)
  /-- MACH_ASC (R237): the machine. -/
  | machAsc (m : Fin 2)
  /-- MACH_INHIBIT (R237): the machine. -/
  | machInhibit (m : Fin 2)
  /-- MACH_CLEAR (R237): the machine. -/
  | machClear (m : Fin 2)
  /-- MCX_COMPARE (R224): the machine. -/
  | mcxCompare (m : Fin 2)
  /-- MCX_EVALUATION (R223). -/
  | mcxEvaluation
  /-- LOSS (R241): the machine. -/
  | loss (m : Fin 2)
  /-- REACQ (R242): the machine. -/
  | reacq (m : Fin 2)
  /-- EXTRAP_TIMEOUT (R242): the machine. -/
  | extrapTimeout (m : Fin 2)
  /-- CTX_LOST (R240): the machine. -/
  | ctxLost (m : Fin 2)
  /-- RGN_VIOL (R246): the machine. -/
  | rgnViol (m : Fin 2)
  /-- PRECHG_STEP (R236): the machine. -/
  | prechgStep (m : Fin 2)
  /-- CHOPPER_ENABLE (R247): the chopper and the word written to Cc_CFG, EN taken as 1. -/
  | chopperEnable (u : Fin 4) (val : Word)
  /-- CHOPPER_DISABLE (R247): the chopper and the word written to Cc_CFG, EN taken as 0. -/
  | chopperDisable (u : Fin 4) (val : Word)
  /-- CHOPPER_CHECK (R248): the chopper, and how many of the urgent results that wait for it are judged, oldest first. -/
  | chopperCheck (u : Fin 4) (n : Nat)
  /-- CHF_ASC_TIMEOUT (R249). -/
  | chfAscTimeout
  /-- CHOPPER_CLEAR (R249): the bits written to CLR. -/
  | chopperClear (mask : BitVec 4)
  /-- SINE_SWAP (R225): the word written to MCX.CFG, SWAP taken as 1. -/
  | sineSwap (val : Word)
  /-- TBL_DATA_ACCESS (R225): whether TBL_DATA is written or read, and the word written. -/
  | tblDataAccess (write : Bool) (val : Word)
  /-- RESOLVER_ENABLE (R230): the word written to RSV_CFG, EN taken as 1. -/
  | resolverEnable (val : Word)
  /-- RESOLVER_PEAK (R230): the codes at SIN_AI and COS_AI, taken where the inputs have no result of this peak. -/
  | resolverPeak (sinC : BitVec 16) (cosC : BitVec 16)
  /-- ENCODER_ENABLE (R231): the word written to ENC_CFG, EN taken as 1. -/
  | encoderEnable (val : Word)
  /-- ENCODER_EDGE (R231): the filtered levels of ENC_A, ENC_B and ENC_Z after the edge. -/
  | encoderEdge (a : Bool × BitVec 4) (b : Bool × BitVec 4) (z : Bool × BitVec 4)
  /-- ENC_ALIGN (R231). -/
  | encAlign
  /-- ENC_SPEED_TIMEOUT (R231). -/
  | encSpeedTimeout
  /-- ISLAND_ENABLE (R266): the island. -/
  | islandEnable (k : Fin 12)
  /-- ISLAND_CMD_CHANGE (R263): the island and the levels of its high and low lines: 0 OFF, 1 ON, 2 HIZ. -/
  | islandCmdChange (k : Fin 12) (h : Fin 3) (l : Fin 3)
  /-- INTERLOCK_VERIFY (R268): the island and the switch whose opposite gate is verified off. -/
  | interlockVerify (k : Fin 12) (high : Bool)
  /-- IL_TMO (R269): the island and the waiting switch. -/
  | ilTmo (k : Fin 12) (high : Bool)
  /-- BLANK_END (R270): the island, the switch, and whether its DS voltage is above DSAT_V. -/
  | blankEnd (k : Fin 12) (high : Bool) (above : Bool)
  /-- DSAT_DETECT (R270): the island and the switch. -/
  | dsatDetect (k : Fin 12) (high : Bool)
  /-- GOV_DETECT (R271): the island and the switch. -/
  | govDetect (k : Fin 12) (high : Bool)
  /-- SOFT_OFF_END (R272): the island and the switch. -/
  | softOffEnd (k : Fin 12) (high : Bool)
  /-- SUP_UV (R259): the island, and whether VPOS and VNEG lie outside their ranges. -/
  | supUv (k : Fin 12) (pos : Bool) (neg : Bool)
  /-- BST_CHARGED (R260): the island whose bootstrap voltage is good. -/
  | bstCharged (k : Fin 12)
  /-- BST_LOST (R262): the island whose bootstrap voltage falls below BST_UV. -/
  | bstLost (k : Fin 12)
  /-- ADAPT_STEP (R267): the island, the transition (0 high on, 1 high off, 2 low on, 3 low off) and its time in ns. -/
  | adaptStep (k : Fin 12) (kind : Fin 4) (time : Nat)
  /-- FLT_CLR (R273): the island. -/
  | fltClr (k : Fin 12)
  /-- FAULT_REPORT (R275): the island whose oldest latched fault reaches the control field. -/
  | faultReport (k : Fin 12)
  /-- STAGGERED_SOFT_OFF (R277): the island and the switch. -/
  | staggeredSoftOff (k : Fin 12) (high : Bool)
  /-- ISLAND_TEST (R279): the island. -/
  | islandTest (k : Fin 12)
  /-- ISLAND_TEST_DONE (R279): the island and the failed items in the order of TEST_RES. -/
  | islandTestDone (k : Fin 12) (fail : BitVec 15)
  /-- SEGMENT_TRIGGER (R290): the pair and the segment whose trigger event occurs. -/
  | segmentTrigger (p : Fin 8) (k : Fin 4)
  /-- SEG_GO (R290): the pair and the bits written to SEG_GO. -/
  | segGo (p : Fin 8) (mask : BitVec 4)
  /-- ENTRY_ISSUE (R291): the pair whose next entry, with its SIM partner, issues. -/
  | entryIssue (p : Fin 8)
  /-- CONVERSION_DONE (R289): the pair and the raw code of its oldest conversion. -/
  | conversionDone (p : Fin 8) (raw : BitVec 16)
  /-- URGENT_REQUEST (R293): the pair, the source (0 MCX, 1 TRP, 2 EVT) and, for MCX, the chopper. -/
  | urgentRequest (p : Fin 8) (src : Fin 3) (u : Fin 4)
  /-- URG_SW_GO (R293): the pair and the word written to URG_SW, GO taken as 1. -/
  | urgSwGo (p : Fin 8) (val : Word)
  /-- URGENT_ISSUE (R294): the pair whose first urgent request issues. -/
  | urgentIssue (p : Fin 8)
  /-- ADC_CALIBRATE (R297): the pair. -/
  | adcCalibrate (p : Fin 8)
  /-- CAL_DONE (R297): the pair and the measured CAL_A, CAL_B and CAL_SKEW. -/
  | calDone (p : Fin 8) (calA : Word) (calB : Word) (skew : BitVec 8)
  /-- BUF_WORD_WRITTEN (R302): the pair. -/
  | bufWordWritten (p : Fin 8)
  /-- TRL_LANE_ENABLE (R309): the lane. -/
  | trlLaneEnable (k : Fin 8)
  /-- TRL_LANE_UP (R309): the lane, and what it receives in training: sync headers, neighbour messages with whether the
  sender is a FOB-4896, and replies to its ECHO requests as `(TURN, RTT)`. -/
  | trlLaneUp (k : Fin 8) (hdrs : List (BitVec 2)) (msgs : List (Bool × NbrMsg)) (echoes : List (Nat × Nat))
  /-- NEIGHBOUR_SEND (R310): the lane. -/
  | neighbourSend (k : Fin 8)
  /-- NEIGHBOUR_MSG_RX (R310): the lane and the message. -/
  | neighbourMsgRx (k : Fin 8) (msg : NbrMsg)
  /-- NEIGHBOUR_LOSS (R310): the lane, and the sync headers that lose block lock, oldest first; or none,
where 3 ms pass without a message. -/
  | neighbourLoss (k : Fin 8) (hdrs : Option (List (BitVec 2)))
  /-- REDISC_GO (R314). -/
  | rediscGo
  /-- REDISCOVERY_DONE (R314): what the rediscovery found. -/
  | rediscoveryDone (r : Redisc)
  /-- FLOW_VALUE_RX (R317): the flow, the value, and the period index it was sent in. -/
  | flowValueRx (f : Fin 64) (val : Word) (k : Nat)
  /-- TIME_MARK_SEND (R320): the lane. -/
  | timeMarkSend (k : Fin 8)
  /-- TIME_MARK_RX (R320): the lane and the mark. -/
  | timeMarkRx (k : Fin 8) (mark : TimeMark)
  /-- DISC_ACQUIRE (R320). -/
  | discAcquire
  /-- DISC_LOST (R322). -/
  | discLost
  /-- TIME_CAPTURE (R339). -/
  | timeCapture
  /-- TIME_STEP (R324). -/
  | timeStep
  /-- STL_ENABLE (R326): the word written to STL.CFG, EN taken as 1. -/
  | stlEnable (val : Word)
  /-- PARTNER_RELEASE (R333). -/
  | partnerRelease
  /-- PARTNER_ASSERT (R328). -/
  | partnerAssert
  /-- DRIVE_ACQUIRE (R327). -/
  | driveAcquire
  /-- SETTLE_ACTIVATE (R334). -/
  | settleActivate
  /-- KEEP_TIMEOUT (R329). -/
  | keepTimeout
  /-- STL_KEEP (R329). -/
  | stlKeep
  /-- STL_HANDOVER (R337). -/
  | stlHandover
  /-- STL_RETURN_NOW (R336). -/
  | stlReturnNow
  /-- HOLDOFF_EXPIRY (R336). -/
  | holdoffExpiry
  /-- HANDBACK (R336). -/
  | handback
  /-- HANDOVER_RECLAIM (R337). -/
  | handoverReclaim
  /-- MIRROR_RX (R331): the set received. -/
  | mirrorRx (m : MirrorSet)
  /-- SYNC_LOST (R332). -/
  | syncLost
  /-- START_TIMEOUT (R332). -/
  | startTimeout
  /-- PARTNER_STUCK (R333). -/
  | partnerStuck
  /-- CFG_DIGEST (R331): the partner's digest. -/
  | cfgDigest (theirs : Word)
  /-- SAFETY_SAMPLE (R344): the levels of channels A and B of the inputs as SM0 and as SM1 samples them, SM0's readback of channel A and SM1's of channel B of the outputs, and SRST held. -/
  | safetySample (a : BitVec 8 × BitVec 8) (b : BitVec 8 × BitVec 8) (rbA : BitVec 4) (rbB : BitVec 4) (srst : Bool)
  /-- SAFETY_CYCLE (R342): the items that a fault makes differ on the link (bits 0 to 7 input pairs, 8 to 15 functions, 16 to 19 output pairs), and whether a core fails its self-test, watchdog or private RAM, or is halted. -/
  | safetyCycle (differ : BitVec 20) (bad : Bool)
  /-- DISC_FAULT (R347): the input pair. -/
  | discFault (p : Fin 8)
  /-- TEST_PULSE_START (R353): the output pair and its channel. -/
  | testPulseStart (o : Fin 4) (chB : Bool)
  /-- TEST_PULSE_END (R353): the output pair and its channel, the readback in the first half and after the pulse, and the input channels A and B on which the pulse appeared. -/
  | testPulseEnd (o : Fin 4) (chB : Bool) (offOk : Bool) (onOk : Bool) (seenA : BitVec 8) (seenB : BitVec 8)
  /-- SRST_EDGE (R357): the length of the press in 0.25 ms, and whether both cores saw the edge in the same or adjacent cycles. -/
  | srstEdge (q : Nat) (both : Bool)
  /-- EVISAFE_RX (R364). -/
  | evisafeRx
  /-- EVISAFE_TX (R363): the connection. -/
  | evisafeTx (k : Fin 16)
  /-- EVISAFE_TEXP (R365): the connection. -/
  | evisafeTexp (k : Fin 16)
  /-- EVISAFE_REOPEN (R363): the connection. -/
  | evisafeReopen (k : Fin 16)
  /-- CAN_ENABLE (R374): the controller. -/
  | canEnable (k : Fin 4)
  /-- CAN_DISABLE (R387): the controller. -/
  | canDisable (k : Fin 4)
  /-- CAN_FRAME_RX (R375): the controller, the frame, and the CAN clocks since its SOF. -/
  | canFrameRx (k : Fin 4) (f : CanFrame) (ago : Nat)
  /-- RXQ_ACK (R376): the controller and the word written. -/
  | rxqAck (k : Fin 4) (val : Word)
  /-- TXQ_PUSH (R378): the controller. -/
  | txqPush (k : Fin 4)
  /-- TXQ_ABORT (R380): the controller, the word written, and whether the frame at HEAD has driven its SOF. -/
  | txqAbort (k : Fin 4) (val : Word) (sof : Bool)
  /-- CAN_TX_DONE (R380): the controller, the outcome (0 sent, 1 arbitration lost, 2 an error), and the CAN clocks since the SOF. -/
  | canTxDone (k : Fin 4) (res : Fin 3) (ago : Nat)
  /-- CAN_ERROR (R382): the controller, the error as LEC codes it (0: a protocol exception), whether it transmits, whether the receiver counts 8, and whether it fell in the data phase. -/
  | canError (k : Fin 4) (kind : Fin 8) (side : CanSide) (big : Bool) (dat : Bool)
  /-- CAN_RESTART (R383): the controller. -/
  | canRestart (k : Fin 4)
  /-- BUSOFF_RECOVERED (R383): the controller. -/
  | busoffRecovered (k : Fin 4)
  /-- TT_REFERENCE (R384): the controller, the reference message, and the CAN clocks since its SOF. -/
  | ttReference (k : Fin 4) (f : CanFrame) (ago : Nat)
  /-- TT_MASTER_REF (R385): the controller. -/
  | ttMasterRef (k : Fin 4)
  /-- REF_MISS (R385): the controller. -/
  | refMiss (k : Fin 4)
  /-- TT_TRIGGER (R386): the controller and the trigger. -/
  | ttTrigger (k : Fin 4) (j : Fin 8)
  /-- ETH_ENABLE (R388): the port. -/
  | ethEnable (p : Fin 2)
  /-- ETH_FRAME_RX (R389): the port, the frame without its FCS, whether the FCS is good, and the nanoseconds since its time-stamp point. -/
  | ethFrameRx (p : Fin 2) (data : List Byte) (fcs : Bool) (ago : Nat)
  /-- TX_KICK (R389): the port. -/
  | txKick (p : Fin 2)
  /-- ETH_TX_DONE (R389): the port, whether the frame was sent whole, and the nanoseconds since its time-stamp point. -/
  | ethTxDone (p : Fin 2) (ok : Bool) (ago : Nat)
  /-- LINK_CHANGE (R388): the port, the link, its speed as CFG.SPEED, and auto-negotiation done. -/
  | linkChange (p : Fin 2) (up : Bool) (speed : Fin 3) (an : Bool)
  /-- PTP_INC_WRITE (R390): the port and the word written. -/
  | ptpIncWrite (p : Fin 2) (val : Word)
  /-- PTP_ADJ (R391): the port and the word written. -/
  | ptpAdj (p : Fin 2) (val : Word)
  /-- PTP_SET (R391): the port. -/
  | ptpSet (p : Fin 2)
  /-- PTP_CAPTURE (R391): the port. -/
  | ptpCapture (p : Fin 2)
  /-- TSQ_POP (R393): the port. -/
  | tsqPop (p : Fin 2)
  /-- PTP_VALID_WRITE (R394): the port and the bit written. -/
  | ptpValidWrite (p : Fin 2) (v : Bool)
  /-- MDIO_GO (R388): the port and the word written. -/
  | mdioGo (p : Fin 2) (val : Word)
  /-- MDIO_DONE (R388): the port and the word read. -/
  | mdioDone (p : Fin 2) (data : BitVec 16)
  /-- CLK_GATE_WRITE (R401): the word written to CLK.GATE. -/
  | clkGateWrite (val : Word)
  /-- CLOCK_MONITOR (R402): the domains found outside ±5 % or stopped. -/
  | clockMonitor (fail : BitVec 16)
  /-- XT_FAIL (R402). -/
  | xtFail
  /-- PLL_LOCKED (R404): the PLL and its band. -/
  | pllLocked (n : Fin 3) (band : BitVec 6)
  /-- PLL_LOL (R405): the PLL. -/
  | pllLol (n : Fin 3)
  /-- PWR_CMD_RUN (R407). -/
  | pwrCmdRun
  /-- PWR_CMD_HOLD (R407). -/
  | pwrCmdHold
  /-- PWR_CMD_DOZE (R407). -/
  | pwrCmdDoze
  /-- PWR_CMD_SLEEP (R409). -/
  | pwrCmdSleep
  /-- PWR_CMD_OFF (R407). -/
  | pwrCmdOff
  /-- DOZE_WAKE (R408). -/
  | dozeWake
  /-- WAKE_EVENT (R411): the sources recognised, in the layout of WAKE_EN. -/
  | wakeEvent (src : BitVec 16)
  /-- WAKE_DONE (R412): the time the wake took, in 10 µs. -/
  | wakeDone (t : Nat)
  /-- ARM (R413): the KEY written. -/
  | arm (key : BitVec 8)
  /-- DISARM (R414): the KEY written. -/
  | disarm (key : BitVec 8)
  /-- VIN_SAMPLE (R415): VIN in 10 mV. -/
  | vinSample (v : BitVec 16)
  /-- LC_REQ (R423): LC_REQ.TARGET. -/
  | lcReq (target : BitVec 3)
  /-- LC_DONE (R423). -/
  | lcDone
  /-- CHAL_NEW (R424). -/
  | chalNew
  /-- SERVICE_EXPIRY (R425). -/
  | serviceExpiry
  /-- KPROV (R428): KPROV.KID. -/
  | kprov (kid : BitVec 8)
  /-- KEY_DONE (R428). -/
  | keyDone
  /-- KPROV_REVOKE (R429): KPROV.KID. -/
  | kprovRevoke (kid : BitVec 8)
  /-- DBG_CLOSE (R435). -/
  | dbgClose
  /-- DBG_OPEN (R435). -/
  | dbgOpen
  /-- DBG_AUTH (R436). -/
  | dbgAuth
  /-- DBG_EXPIRY (R437). -/
  | dbgExpiry
  /-- RB_ADV (R433): RB_ADV.VALUE. -/
  | rbAdv (v : BitVec 7)
  /-- BENCH_IL_RELEASE (R441). -/
  | benchIlRelease
  /-- MASTER_READ_CE (R449): the region, the word, the syndrome, and whether the Rake found it in the same bus cycle. -/
  | masterReadCe (r : Fin 20) (i : Nat) (synd : BitVec 8) (rake : Bool)
  /-- MASTER_READ_UE (R450): the region, the word, the loop engine that read it if one did, the syndrome, the check byte and the data bits as found. -/
  | masterReadUe (r : Fin 20) (i : Nat) (le : Option (Fin 16)) (synd : BitVec 8) (chk : BitVec 8) (lo : Word) (hi : Word)
  /-- RAKE_STEP (R452): the region of the walker, what it finds (0 a good word, 1 a correctable error, 2 an uncorrectable one, 3 no idle cycle), and the bits as found. -/
  | rakeStep (r : Fin 20) (kind : Fin 4) (synd : BitVec 8) (chk : BitVec 8) (lo : Word) (hi : Word)
  /-- RAKE_SLEEP_STEP (R453): what the Rake finds in AON-RAM, and the bits as found. -/
  | rakeSleepStep (kind : Fin 3) (synd : BitVec 8) (chk : BitVec 8) (lo : Word) (hi : Word)
  /-- PAN_LEAK (R457). -/
  | panLeak
  /-- PCLR (R451): the region and the word. -/
  | pclr (r : BitVec 5) (i : BitVec 21)
  /-- REMAP_GO (R459): the spare and the page. -/
  | remapGo (n : Fin 4) (page : BitVec 12)
  /-- REMAP_DONE (R459): the spare. -/
  | remapDone (n : Fin 4)
  /-- TEST_WR_RAW (R458). -/
  | testWrRaw
  /-- TEST_RD_RAW (R458). -/
  | testRdRaw
  /-- TEMP_SAMPLE (R460): the readings of TS0 to TS13 in 0.25 °C. -/
  | tempSample (r : List Int)
  /-- TSD_SAMPLE (R463): the readings of TS0 to TS13 in 0.25 °C. -/
  | tsdSample (r : List Int)
  /-- WARM_RESET (R467): whether a host lockstep pair mismatches. -/
  | warmReset (lockstep : Bool)
  /-- NVL_RESET_WARM (R466): the KEY written. -/
  | nvlResetWarm (key : BitVec 8)
  /-- NVL_RESET_PCYC (R469): the KEY written. -/
  | nvlResetPcyc (key : BitVec 8)
  /-- HEART (R466): the KEY written. -/
  | heart (key : BitVec 8)
  /-- HB_TIMEOUT (R466). -/
  | hbTimeout
  /-- PCYC_REQ (R469). -/
  | pcycReq
  /-- POWER_ON_RESET (R506). -/
  | powerOnReset
  /-- BROWN_OUT (R508). -/
  | brownOut
  /-- NVL_READ (R470): CMD.DEV. -/
  | nvlRead (dev : Bool)
  /-- NVL_PROG (R470): CMD.DEV. -/
  | nvlProg (dev : Bool)
  /-- NVL_ERASE (R470): CMD.DEV. -/
  | nvlErase (dev : Bool)
  /-- NVL_CMD_DONE (R470). -/
  | nvlCmdDone
  /-- LOG_PUT (R471): LOG_PUT.CODE. -/
  | logPut (code : BitVec 16)
  /-- LOG_RECORD_WRITE (R471). -/
  | logRecordWrite
  /-- LOG_SELECT (R477): the word written to LOG_IDX. -/
  | logSelect (val : Word)
  /-- INTC_CLAIM (R488): the host pair. -/
  | intcClaim (x : Fin 2)
  /-- INTC_COMPLETE (R488): the host pair and the line. -/
  | intcComplete (x : Fin 2) (line : BitVec 8)
  /-- DMA_GO (R494): the channel. -/
  | dmaGo (n : Fin 32)
  /-- DMA_DONE (R494): the channel. -/
  | dmaDone (n : Fin 32)
  /-- PIN_QUERY (R493): the word written to PIN.QRY. -/
  | pinQuery (val : Word)
  /-- SEATED_CHANGE (R503): SEATED_N reads low. -/
  | seatedChange (low : Bool)
  /-- INPUT_SWITCH_CLOSE (R503). -/
  | inputSwitchClose
  /-- MASTER_WRITE (R451): the address and the bytes written. -/
  | masterWrite (a : Nat) (data : BusData)
  /-- ISLAND_SUPPLY_GOOD (R259): the island. -/
  | islandSupplyGood (k : Fin 12)
  /-- BENCH_IL_ASSERT (R439). -/
  | benchIlAssert
  /-- ILV_CONVERSION (R296): the pair and the raw code. -/
  | ilvConversion (p : Fin 8) (raw : BitVec 16)
  /-- RTC_ALARM (R421). -/
  | rtcAlarm
  /-- MANAGEMENT_MESSAGE_RX (R329): 0: the partner reports its release cause; 1: it agrees a handback period; and the value. -/
  | managementMessageRx (kind : Fin 3) (val : Nat)
  deriving DecidableEq, Repr

end Sys2Proof
end

