-- ==== Sys2Proof/Machine/State.lean ====
section
/-! DEFINITION. The state of the block, as plain data, the reasons a step can stop, and the state right after reset.
Every field a register shows lives in `regs`, by host address; what the spec gives the machine beside its registers
lives in the structures below. -/

namespace Sys2Proof.Machine

/-- A sparse map in canonical form: keys strictly rising, and no entry equal to what an unlisted key reads as. -/
abbrev SMap (α : Type) := List (Nat × α)

/-- Why a step faults. No command of this block raises one: the spec gives every command an outcome, and a refused
host access is an outcome the block reports (R479, R486). [assumption 34 (DESIGN CHOICE)] -/
inductive Fault where
  /-- never raised; kept so that the type has a name for a stop (safe) -/
  | none
  deriving DecidableEq, Repr

/-- Why a step is refused. [assumption 34 (DESIGN CHOICE)] -/
inductive Refusal where
  /-- raised by an arm of `exec` whose command has no meaning yet (safe) -/
  | notModelled (mnemonic : String)
  deriving DecidableEq, Repr

/-- What the bus answered to the last host access (R8, R479). -/
inductive Resp where
  | none
  | ok
  | busError
  | value (w : Word)
  deriving DecidableEq, Repr

/-! ### Claims (R489, R490) -/

/-- The holder of a shared resource: class and instance (R489), with an admitted co-user (R490). -/
structure Claim where
  cls : Nat := 0
  inst : Nat := 0
  subCls : Nat := 0
  subInst : Nat := 0
  deriving DecidableEq, Repr

/-! ### Cells and stacks -/

/-- What the Grainer, the solver and the modulator keep for one cell beside its registers.
Voltages are in 0.1 V, powers in watts. -/
structure Cell where
  /-- last valid status words, bytes 8–23 (R158) -/
  w0 : Word := 0
  w1 : Word := 0
  w2 : Word := 0
  w3 : Word := 0
  /-- last valid V1, V2 (R54, R82) -/
  v1 : Nat := 0
  v2 : Nat := 0
  /-- last valid IMV, ILV, THS, TGU, as the signed codes of R158 -/
  imv : Int := 0
  ilv : Int := 0
  ths : Int := 0
  tgu : Int := 0
  /-- fields of the last latched status that read as not measured: bits 0–5 for V1, V2, IMV, ILV, THS, TGU (R158) -/
  unmeas : Nat := 0
  /-- status received in this period and not yet latched (R18) -/
  rx : Option (Word × Word × Word × Word) := none
  /-- pending CELL_CMD, 0 for none (R60) -/
  cmd : Nat := 0
  /-- the stack the cell has left, whose claims on its channels end at the next Grainer and solver window (R521) -/
  leave : Option Nat := none
  /-- fault sources reported in the last pass, one bit per source in the order of R75 -/
  srcs : Nat := 0
  /-- the source that made the cell FAULTED, as a bit of `srcs` (R60, CLEAR) -/
  faultSrc : Nat := 0
  /-- the lane went down since the last pass (R177) -/
  linkLost : Bool := false
  /-- BYP_FAIL stands (R61) -/
  bypFail : Bool := false
  /-- instant from which BYP_CONF runs: the first frame that carries BYPASS (R61, R70) -/
  bypSince : Option Nat := none
  /-- the R51 trim is engaged -/
  trimOn : Bool := false
  /-- spare trickle direction in force, −1, 0 or +1 (R63) -/
  trickle : Int := 0
  /-- NLC role: 0 none, 1 FULL, 2 PWM, and the periods it has been held (R52) -/
  role : Nat := 0
  dwell : Nat := 0
  /-- time with |P_i| above P_CONT, and at or below it, in 10 ns units (R56) -/
  ovlAbove : Nat := 0
  ovlBelow : Nat := 0
  ovlLimited : Bool := false
  /-- balancing trim, duty and power command of the schedule being built (R41, R55) -/
  trim : Rat := 0
  duty : Rat := 0
  power : Rat := 0
  /-- carrier slot of R42, R43 -/
  slot : Option Nat := none
  /-- this schedule makes the cell ACTIVE (R62, R63) -/
  reinsert : Bool := false
  /-- a BLOCK for this period's frame, for the next period's, and a repeat of the previous frame (R24) -/
  blkNow : Bool := false
  blkNext : Bool := false
  rptNow : Bool := false
  /-- a block by an overrun reaction not yet seen by a Grainer pass (R78) -/
  blkSeen : Bool := false
  /-- the uplink overrun escalated to BLOCK (R25, R65) -/
  upEsc : Bool := false
  /-- fields a latched status has measured since reset, in the bits of `unmeas`; bit 6: a status has been latched (R196) -/
  seen : Nat := 0
  /-- six leg states as the schedules sent leave them: 0 off, 1 low, 2 high (R120, R122) -/
  legs : List Nat := [0, 0, 0, 0, 0, 0]
  /-- events `(T, SW, LVL)` computed for the next schedule, and the leg states they end in (R120) -/
  evs : List (Nat × Nat × Nat) := []
  legsNext : List Nat := [0, 0, 0, 0, 0, 0]
  /-- more than 16 events arose (R123) -/
  evtOvf : Bool := false
  /-- the CMD of the last frame sent was BLOCK or BYPASS, or a bridge was held (R122) -/
  restart : Bool := true
  deriving DecidableEq, Repr

/-- The result of the solver for one cell (R95): codes as in RESn_A to RESn_C. -/
structure DsvRes where
  d1 : Nat := 0
  d2 : Nat := 0
  phi : Int := 0
  zvsOk : Bool := false
  hard : Bool := false
  sat : Bool := false
  slew : Bool := false
  idle : Bool := false
  vrange : Bool := false
  stale : Bool := false
  nhard : Nat := 0
  hmask : Nat := 0
  irms : Nat := 0
  pdel : Int := 0
  deriving DecidableEq, Repr

/-- What the solver keeps for one cell. -/
structure Dsv where
  /-- solved from the last opening of the Grainer and solver window on (R98) -/
  on : Bool := false
  /-- pending parameter words (R99) -/
  pend : Option (List Word) := none
  /-- the set in hand for the next period, and whether it was handed over in this period (R96) -/
  res : DsvRes := {}
  solved : Bool := false
  /-- the set in hand has been solved since the cell was enabled, and stays in use until the next one (R24) -/
  use : Bool := false
  /-- φ of the previous period, 0 where R93 says so -/
  phiPrev : Int := 0
  /-- the previous set was a fallback set (R102) -/
  wasHard : Bool := false
  deriving DecidableEq, Repr

/-- What the Grainer keeps for one stack beside its registers. -/
structure Stack where
  /-- the stack entered PRECHARGE and its members are still to be assigned (R66) -/
  entered : Bool := false
  /-- pending STK_CMD, 0 for none (R60) -/
  cmd : Nat := 0
  /-- mean voltage of the last pass with a cell to average, in 0.1 V (R48) -/
  vbar : Rat := 0
  /-- NLC: k and the sign of v_s of the last assignment (R52) -/
  k : Nat := 0
  sgn : Int := 0
  /-- the N for which the slots stand (R43) -/
  slotN : Nat := 0
  /-- consecutive boundary samples below, and at or above, GAP_CODE (R71, R73) -/
  gapLo : Nat := 0
  gapHi : Nat := 0
  /-- one more than the index of the period whose schedule keeps the front-end off although the stack is in RUN, 0 for
  none (R73) -/
  feOff : Nat := 0
  /-- a cause of class STACK is reported; the stack was blocked for UNDER (R64, R66) -/
  stkCause : Bool := false
  under : Bool := false
  deriving DecidableEq, Repr

/-! ### Modulators -/

/-- The values a shadow capture or transfer moves together (R112). -/
structure ChVals where
  prd : Nat
  phase : Nat
  cmpa : Nat
  cmpb : Nat
  dta : Nat
  dtb : Nat
  minpw : Nat
  mode : Nat
  deriving DecidableEq, Repr

/-- One modulator channel or local leg channel: its active values and its carrier.
The valleys fall at `v0`, then at `v0 + 2·prd + dl`, then every `2·prd` ticks, in ticks of station time
from the epoch (R107, R108, R110). -/
structure Chan where
  act : ChVals
  v0 : Int := 0
  dl : Int := 0
  /-- captured values awaiting transfer, and the period index from which they are eligible (R113) -/
  cap : Option (ChVals × Nat) := none
  /-- transferred PRD and PHASE awaiting the next valley (R110) -/
  turn : Option (Nat × Nat) := none
  /-- fine step of station time up to which the carrier's events have been acted on (R112) -/
  pos : Int := 0
  /-- the tick in which this channel's capture has been made, or is skipped, ahead of the window's close, or in which a
  lock keeps it from the boundary's transfer (R114, R115) -/
  capTick : Option Int := none
  /-- local leg: the compare value that is eligible while a newer one of a context awaits its boundary (R20, R113) -/
  prev : Option Nat := none
  /-- local leg: its state, 0 off, 1 low, 2 high, the fine step since which it holds, and the switch that was last on
  (R117) -/
  lst : Nat := 0
  lat : Int := 0
  lsw : Nat := 0
  deriving DecidableEq, Repr

/-- A standing trip latch: its source and the outputs it covered when it was set (R127), as bit masks. -/
structure Latch where
  src : Nat
  hiz : Nat
  asc : Nat
  cells : Nat
  deriving DecidableEq, Repr

/-- What the REARMs accepted in one tick have cleared: the instant, whether REARMED was raised before, the latches, and the
halt reaction and frozen levels that stood (R131). [assumption 224 (DEDUCED)] -/
structure RearmRec where
  at_ : Nat
  had : Bool
  latches : List Latch
  halt : Nat × List Nat
  deriving DecidableEq, Repr

/-! ### Brejalink lanes -/

/-- A schedule frame as sent (R155). -/
structure Sched where
  seq : Nat := 0
  pidx : Nat := 0
  cmd : Nat := 1
  brg0 : Nat := 1
  brg1 : Nat := 1
  brg2 : Nat := 1
  tcp : Nat := 0
  evs : List (Nat × Nat × Nat) := []
  deriving DecidableEq, Repr

/-- A CFG that awaits its CFGACK (R169, R170). -/
structure CfgWait where
  /-- 0 the five records of CONFIG, 1 dead times, 2 a host record, 3 PRBS_REQ -/
  kind : Nat
  ccnt : Nat
  eff : Nat
  recs : List (Nat × Nat)
  /-- period index in which it was sent -/
  sent : Nat
  deriving DecidableEq, Repr

/-- A receiver's block lock (R147): whether it holds, the valid sync headers in a row while it does not, while it does
the latest 64 headers, newest first, true where valid, and the bit positions slipped, modulo a block.
[assumption 53 (DESIGN CHOICE)] -/
structure HdrRx where
  lock : Bool := false
  run : Nat := 0
  hist : List Bool := []
  slip : Nat := 0
  deriving DecidableEq, Repr

/-- What BLK keeps for one cell lane beside its registers. -/
structure Lane where
  /-- instant at which the present state was entered -/
  since : Nat := 0
  /-- last frame sent other than SCHED -/
  tx : Option Frame := none
  /-- MEASURE: next EID, requests made, the outstanding request's EID and instant, the latest used `(RTT, TURN)` -/
  eid : Nat := 0
  reqs : Nat := 0
  out : Option (Nat × Nat) := none
  replies : List (Nat × Nat) := []
  /-- attempts in KEY or CONFIG, or failures in a row in UP (R164, R170) -/
  tries : Nat := 0
  /-- nonce of the session's SOPEN and the session key (R168) -/
  nm : BitVec 128 := 0
  ks : Option (BitVec 256) := none
  /-- SEQ of the last SCHED sent and of the last STATUS accepted (R154) -/
  seqTx : Nat := 0
  seqRx : Nat := 0
  /-- number of SCHED frames sent in the session, and whether a STATUS has named one (R159) -/
  sentN : Nat := 0
  aseqOk : Bool := false
  /-- CCNT of the last CFG sent and of the last CFGACK accepted (R169) -/
  ccntTx : Nat := 0
  ccntRx : Nat := 0
  await : Option CfgWait := none
  /-- period index in which the awaited CFGACK arrived or was given up: held dead times follow one period later (R170) -/
  freed : Nat := 0
  /-- dead times captured and not yet sent, bits 0–2 for DT_AFE, DT_DABP, DT_DABS: before the period of the latest changes,
  that period, its changes, and the three values as they stood before them (R170) -/
  dtChg : Nat := 0
  dtAt : Nat := 0
  dtNew : Nat := 0
  dtPrev : List Nat := []
  /-- a valid STATUS arrived in this period; periods in a row without one (R164) -/
  gotStat : Bool := false
  miss : Nat := 0
  /-- TMARK: PIDX8 and OFFSET last announced (R160) -/
  tmark : Option (Nat × Nat) := none
  /-- the last schedule frame sent (R155) -/
  sched : Sched := {}
  /-- SID drawn for the SOPEN under way (R168) -/
  sidP : Nat := 0
  /-- the receiver's block lock (R147) -/
  hdr : HdrRx := {}
  /-- a PRBS test is asked for; its boundary (R175) -/
  prbsWant : Bool := false
  prbsAt : Option Nat := none
  /-- the last schedule frame as it left (R152, R155) -/
  schedTx : Option Frame := none
  /-- the blocks last sent, as they left: sync header and scrambled payload (R146, R151) -/
  line : List (BitVec 2 × BitVec 64) := []
  deriving DecidableEq, Repr

/-! ### Loop engines -/

/-- The execution an engine runs: the copies R189 speaks of and the position in the program. -/
structure LeRun where
  ctx : Nat
  /-- word address of the next instruction -/
  pc : Nat
  /-- cycles executed, without the 16 of entry -/
  cyc : Nat := 0
  /-- working registers V0–V31, and the copy of S0–S63 -/
  v : List Word
  st : List Word
  /-- outputs written by OUT, as `(index, published word)`, the latest first -/
  outs : List (Nat × Word) := []
  /-- context flags STALE_IN, SATQ and LIMITED (R202) -/
  stale : Bool := false
  satq : Bool := false
  limited : Bool := false
  /-- HO_SEL and HO_BLEND of the last HANDOVER executed, RAMPING of the RAMPs executed (R202) -/
  sel : Option Bool := none
  blend : Option Bool := none
  ramp : Option Bool := none
  /-- a handover instant has been met (R219) -/
  hoInst : Bool := false
  /-- LOOP bodies entered, innermost first: first word, word after the last, runs left -/
  loops : List (Nat × Nat × Nat) := []
  /-- values ADC bindings have returned in this execution (R198) -/
  adc : List (Nat × Word) := []
  deriving DecidableEq, Repr

/-- What an engine keeps for one context beside its registers and its record. -/
structure LeCtx where
  /-- the instant at which the scan under way ends, and the period index in which the enable was written (R193) -/
  scan : Option Nat := none
  enAt : Nat := 0
  /-- the context runs: its enable has taken effect and it has not stopped (R193, R194) -/
  live : Bool := false
  /-- the hold is in effect (R210) -/
  held : Bool := false
  /-- the period after the one in which the context last committed; 0 before -/
  doneAt : Nat := 0
  /-- the context committed in the period last published (R190) -/
  fresh : Bool := false
  /-- RAMPING as the last commit left it (R202) -/
  ramping : Bool := false
  /-- consecutive periods of aborts, and the period after the last of them; 0 before (R212) -/
  abRun : Nat := 0
  abAt : Nat := 0
  deriving DecidableEq, Repr

/-- A move accepted by MOVE.GO (R213): the moved contexts, their places, and whether its checks are done. -/
structure LeMove where
  /-- source context and its destination context, in order -/
  ctxs : List (Nat × Nat)
  eng : Nat
  all : Bool
  /-- 0 checking, 1 waiting for the close of the window, 2 copied, waiting for the boundary -/
  phase : Nat
  deriving DecidableEq, Repr

/-- What an engine keeps beside its registers. -/
structure LeEng where
  run : Option LeRun := none
  /-- contexts of this period not yet begun, in order (R188) -/
  todo : List Nat := []
  /-- cycles used in this period (R218, USED_LAST) -/
  used : Nat := 0
  /-- coefficient queue, oldest first: context, index, value (R209) -/
  queue : List (Nat × Nat × Word) := []
  move : Option LeMove := none
  /-- contexts whose redirected bindings a cancelled move gives back at the next boundary: from, to (R214) -/
  back : List (Nat × Nat) := []
  deriving DecidableEq, Repr

/-- A block of R212, R216 or R24: the context whose abort set it, whether that context may still lift it, the
destination it reached the outputs through, and the cells and legs it holds. -/
structure LeBlk where
  ctx : Nat
  own : Bool
  dest : Nat
  cells : Nat
  legs : Nat
  deriving DecidableEq, Repr

/-- The loop engines. -/
structure LeSt where
  engs : SMap LeEng := []
  ctxs : SMap LeCtx := []
  /-- published outputs, by `16·(16·engine + context) + output` (R190) -/
  pubOut : SMap Word := []
  blks : List LeBlk := []
  /-- Grainer values as latched at the close of the Grainer and solver window, by `64·item + index` (R48), and
  whether one has been -/
  grn : SMap Rat := []
  gd : Bool := false
  /-- items of input class 8 as latched at the close of the uplink window, by SEL (R251) -/
  mcx : SMap (Option Rat) := []
  /-- RX flows that have received a value (R196) -/
  flowSeen : Nat := 0
  /-- results of streams that newer ones replaced in this period: stream, the instant it was replaced, and the word (R198) -/
  adcOld : List (Nat × Nat × Word) := []
  /-- table writes that wait for the close of the loop-engine window: address and bytes (R187) -/
  wait : List (Nat × List Byte) := []
  deriving DecidableEq, Repr

/-! ### Traction machine control -/

/-- What MCX keeps for one machine beside its registers. Angles are INT words, speeds and other reals FP32 words. -/
structure McxM where
  /-- angle in use and speed latched at the last boundary and at the last reload boundary (R224, R251) -/
  thK : Word := 0
  wK : Word := 0
  thR : Word := 0
  wR : Word := 0
  /-- open-loop integrator (R232) -/
  olTh : Word := 0
  /-- observer: angle, speed, the instant of its last step, filtered back-EMF (R233) -/
  obTh : Word := 0
  obW : Word := 0
  obAt : Nat := 0
  ed : Word := 0
  eq : Word := 0
  /-- currents of the last two reload boundaries (R233) -/
  id : Word := 0
  iq : Word := 0
  /-- voltage applied over the interval that ended at the last reload boundary, over the present one, and prepared for
  the next (R223, R233) -/
  vEnd : Word × Word := (0, 0)
  vCur : Word × Word := (0, 0)
  vNext : Word × Word := (0, 0)
  /-- p of R246 -/
  pw : Word := 0
  /-- residual of R233, as a ratio -/
  res : Word := 0
  /-- difference still to be released and the steps left (R234) -/
  delta : Word := 0
  j : Nat := 0
  /-- consecutive steps: above RES_LOSS, at or below half of it, and with a valid observer (R234, R241, R242) -/
  lossN : Nat := 0
  acqN : Nat := 0
  valN : Nat := 0
  /-- instant, angle and speed of a loss (R242) -/
  lossAt : Nat := 0
  lossTh : Word := 0
  lossW : Word := 0
  /-- a faulted sensor stays out of use until OFF (R234) -/
  sensOut : Bool := false
  /-- a change to the observer waits for the next reload boundary (R234) -/
  fb : Bool := false
  /-- command accepted for the next evaluation instant (R237) -/
  cmd : Nat := 0
  /-- precharge: the leg under charge and the instant at which it began (R236) -/
  pre : Nat := 0
  preAt : Nat := 0
  /-- consecutive periods without a commit of the owning context (R240) -/
  miss : Nat := 0
  /-- consecutive periods with the current below I_ASC_EXIT (R237) -/
  iLow : Nat := 0
  /-- open-loop speed of the last step (R232), and E_LL (R238, R251) -/
  olW : Word := 0
  ell : Word := 0
  deriving DecidableEq, Repr

/-- What MCX keeps beside its registers. -/
structure McxSt where
  m0 : McxM := {}
  m1 : McxM := {}
  /-- sine banks, by `1024·bank + index` (R225); advance tables, by `64·machine + index` (R226) -/
  sine : List (Nat × Int) := []
  adv : List (Nat × Int) := []
  /-- K_REGEN, its hold at 0, and the consecutive periods it has been 0 (R245, R246, R249) -/
  kr : Rat := 1
  krHold : Bool := false
  krZero : Nat := 0
  /-- consecutive evaluations at or above CH_ON, below CH_OFF, at or above RGN_V, below RGN_V − BUS_HYS, at or above
  ASC_V (R243) -/
  cOn : Nat := 0
  cOff : Nat := 0
  cRgn : Nat := 0
  cHys : Nat := 0
  cAsc : Nat := 0
  /-- V_bus in volts (R243), the valid result last seen, and the evaluations without a new one -/
  vbus : Int := 0
  vbSeen : Nat := 0
  vbMiss : Nat := 0
  /-- instant of the fault that began the chopper-fault sequence, and whether step 3 has been judged (R249) -/
  seqAt : Option Nat := none
  seqDone : Bool := false
  /-- consecutive failed checks of each chopper, results of its urgent conversions not yet judged, and duty (R247, R248) -/
  fails : List (Nat × Nat) := []
  chRes : List (Nat × List Int) := []
  duty : List (Nat × Word) := []
  /-- encoder inputs, the instants of the last two edges, direction, whether the speed stands, index or alignment seen -/
  encA : Bool := false
  encB : Bool := false
  encZ : Bool := false
  edge1 : Nat := 0
  edge2 : Nat := 0
  encDir : Int := 0
  encSpd : Bool := false
  encRef : Bool := false
  /-- the count at which the index is expected, modulo one revolution (R231) -/
  encZAt : Int := 0
  /-- the bus cycle in which the encoder was enabled, and ENC_CFG before (R492) -/
  encOn : Option (Nat × Word) := none
  /-- tracked resolver angle and speed, the instant of the last peak, consecutive peaks out of amplitude, and whether a
  peak has been taken (R230) -/
  rsTh : Word := 0
  rsAt : Nat := 0
  rsW : Word := 0
  rsBad : Nat := 0
  rsSeen : Bool := false
  deriving DecidableEq, Repr

/-! ### Leg islands -/

/-- What an island keeps beside its registers. Command lines: 0 OFF, 1 ON, 2 HIZ (R263). -/
structure Isl where
  lineH : Nat := 2
  lineL : Nat := 2
  /-- the instant at which the low line last turned on (R293) -/
  lowAt : Option Nat := none
  /-- instant since which both lines have read OFF or HIZ; none while one reads ON (R273, R279) -/
  offSince : Option Nat := some 0
  /-- the island drives the switch on -/
  onH : Bool := false
  onL : Bool := false
  /-- instant from which the switch waits for the interlock (R268, R269) -/
  waitH : Option Nat := none
  waitL : Option Nat := none
  /-- end of blanking (R270), end of the soft turn-off (R272), instant of a staggered soft turn-off (R277) -/
  blankH : Option Nat := none
  blankL : Option Nat := none
  softH : Option Nat := none
  softL : Option Nat := none
  slotH : Option Nat := none
  slotL : Option Nat := none
  /-- the last turn-off of the switch was a soft one (R267, R272) -/
  softenH : Bool := false
  softenL : Bool := false
  /-- instant of the last turn-off by command, with blanking over (R281) -/
  cutH : Option Nat := none
  cutL : Option Nat := none
  /-- the supplies have been good since reset (R259) -/
  everGood : Bool := false
  /-- instant since which the low switch is on; T_BCHG has passed since BST_OK was last 0 (R260) -/
  lowOn : Option Nat := none
  charged : Bool := false
  /-- a refused turn-on has been reported since BST_OK cleared (R261) -/
  refReported : Bool := false
  /-- loops whose last time lay outside the band, in the order of ADP_STAT.CODES (R267) -/
  adpOut : Nat := 0
  /-- latched faults not yet reported: FLT bit and detection instant (R275) -/
  reports : List (Nat × Nat) := []
  deriving DecidableEq, Repr

/-! ### Analogue acquisition -/

/-- A sequence entry as a run uses it (R291). -/
structure AdcEnt where
  inp : Nat
  cv : Nat
  sim : Bool
  strm : Nat
  deriving DecidableEq, Repr

/-- A conversion in progress: its entry, or none for an urgent one. -/
structure AdcConv where
  cv : Nat
  inp : Nat
  strm : Nat
  /-- sampling instant -/
  at_ : Nat
  late : Bool
  ent : Option Nat
  /-- the chopper an urgent result is delivered to (R248, R294) -/
  req : Option Nat := none
  deriving DecidableEq, Repr

/-- A run of a segment (R290–R292). -/
structure AdcRun where
  seg : Nat
  trig : Nat
  start : Nat
  /-- entries, as they stood when the first issued, and their scheduled instants (R295) -/
  ents : List AdcEnt := []
  sched : List Nat := []
  began : Bool := false
  /-- once the first has issued: entries still to issue, in order, and the issue tick of the last that issued -/
  todo : List Nat := []
  last : Nat := 0
  deriving DecidableEq, Repr

/-- An accepted urgent request (R293, R294). -/
structure AdcUrg where
  at_ : Nat
  inp : Nat
  strm : Nat
  /-- the chopper it is made for, where MCX requests it (R248, R293) -/
  req : Option Nat := none
  deriving DecidableEq, Repr

/-- The filter of a stream: integrators and combs of the cascaded moving sums, conversions since the configuration,
conversions since the last one that was invalid, clipped or late, and outputs still invalid (R298, R299). -/
structure AdcFlt where
  intg : List Int := []
  comb : List Int := []
  n : Nat := 0
  inv : Option Nat := none
  clip : Option Nat := none
  late : Option Nat := none
  bad : Nat := 0
  deriving DecidableEq, Repr

/-- What a converter pair keeps beside its registers. -/
structure AdcP where
  /-- trigger events counted for each segment (R290) -/
  cnt : List Nat := [0, 0, 0, 0]
  /-- segments that wait, with their trigger instants (R292) -/
  wait : List (Nat × Nat) := []
  run : Option AdcRun := none
  convs : List AdcConv := []
  /-- instants from which converters A and B are free, and whether the last use was urgent -/
  freeA : Nat := 0
  freeB : Nat := 0
  urg : List AdcUrg := []
  /-- the turn-on of leg EVT_LEG's low line that has been asked for last (R293) -/
  evtAt : Option Nat := none
  /-- conversions of each input, and of each converter, still invalid, and the tick of the write (R299) -/
  gInv : List (Nat × Nat) := [(0, 0), (0, 0), (0, 0), (0, 0), (0, 0), (0, 0), (0, 0), (0, 0)]
  cInv : List (Nat × Nat) := [(0, 0), (0, 0)]
  flts : SMap AdcFlt := []
  /-- words waiting for the buffer, and whether results were lost (R302) -/
  bufQ : List Word := []
  lost : Bool := false
  /-- ILV: the first boundary after the enable, and conversions made (R296) -/
  ilvAt : Option Nat := none
  ilvN : Nat := 0
  deriving DecidableEq, Repr

/-! ### Trestle, station time and Settle -/

/-- What a Trestle lane keeps (R308–R310): its receiver, the instant of its latest neighbour message, and in training the
message and the latest used replies `(RTT, TURN)`. -/
structure TlSt where
  hdr : HdrRx := {}
  msgAt : Nat := 0
  msg : Option NbrMsg := none
  replies : List (Nat × Nat) := []
  deriving DecidableEq, Repr

/-- What TRL and station time keep beside their registers. -/
structure TrlSt where
  /-- receivers and training of the lanes (R308, R309) -/
  lanes : SMap TlSt := []
  /-- arming states of the other modules by unique id, as last reported (R22, R310), and the other admitted modules of the
  last rediscovery as `(unique id, address)`, with the addresses the root assigned (R311, R312) -/
  arms : List (Nat × Nat) := []
  mods : List (Nat × Nat) := []
  /-- the change of T_c the root sends to every admitted module: the period and its index (R22, R323) -/
  chgTx : Option (Nat × Nat) := none
  /-- hops of the alternate path to each address (R315) -/
  altHops : SMap Nat := []
  /-- what RATE has made station time gain on REFCLK up to an instant, in 10⁻¹¹ of a time unit (R319) -/
  rateAcc : Int := 0
  rateAt : Nat := 0
  /-- the latest neighbour message received on each lane, and sent on it (R310) -/
  nbr : SMap (Option NbrMsg) := []
  tx : SMap (Option NbrMsg) := []
  /-- instant of the event a rediscovery follows (R314) -/
  redisc : Option Nat := none
  /-- RX flows whose value for this period has arrived (R317) -/
  got : Nat := 0
  /-- consecutive marks within ±0.5 ns (R320), and the station time of the last mark sent, in 1/960 ns -/
  marks : Nat := 0
  markTx : Nat := 0
  /-- instant at which the present holdover began (R322) -/
  holdAt : Option Nat := none
  /-- the fabric this module has still to step into, and the instant its message came (R313) -/
  join : Option NbrMsg := none
  joinAt : Nat := 0
  /-- the period index at which the present epoch was set (R323) -/
  epochIdx : Nat := 0
  /-- addresses known UNREACH (R315) -/
  unreach : Nat := 0
  deriving DecidableEq, Repr

/-- What STL keeps beside its registers. -/
structure StlSt where
  /-- instant since which the partner's line has read released; instant of the last assertion of the own line -/
  relSince : Option Nat := some 0
  ownAt : Nat := 0
  /-- a claim under way: the instant the release was seen, whether it is cold, and the index of the last boundary the
  former owner's schedules cover (R332, R333, R335); and whether that counts the frames of a downlink window of which the
  cause SCHED_STOP would say that none completed (R329, R335) -/
  claim : Option (Nat × Bool × Nat) := none
  late : Bool := false
  /-- the last complete set since this module was last ACTIVE, the instant it completed, and whether one arrived for the present period (R331) -/
  last : Option MirrorSet := none
  lastAt : Nat := 0
  lastIdx : Option Nat := none
  got : Bool := false
  miss : Nat := 0
  /-- the set sent last (R330) -/
  sent : Option MirrorSet := none
  /-- the cause last reported to the partner over the management flow (R329) -/
  report : Option Nat := none
  /-- digests that differed in a row (R331) -/
  diff : Nat := 0
  /-- periods since KEEP was written (R329) -/
  keepN : Nat := 0
  /-- a release due at the close of the downlink window of a period: its cause and that period (R329) -/
  rel : Option (Nat × Nat) := none
  /-- the agreed period of a handover or handback and its cause of R329, 6 or 7, and whether this module is the one that
  releases (R336, R337) -/
  agreed : Option Nat := none
  agreedFor : Nat := 7
  gave : Bool := false
  /-- end of the hold-off (R336), and the cause the partner reported for its release (R329) -/
  holdEnd : Option Nat := none
  told : Nat := 0
  deriving DecidableEq, Repr

/-! ### Safety, CAN, Ethernet -/

/-- What the cores keep for one Evisafe connection (R363–R365). -/
structure EscC where
  /-- 0 CLOSED, 1 OPENING, 2 RUN, 3 FAILED; the instant of power-up or of the failure -/
  st : Nat := 0
  since : Nat := 0
  /-- SEQ of the next PDU, PDUs sent since OPENING, those of the last TEXP as `(SEQ, instant)`, the instant of the last -/
  seq : Nat := 1
  sentN : Nat := 0
  sent : List (Nat × Nat) := []
  txAt : Nat := 0
  /-- SEQ of the last valid PDU, of the last OPEN, version in force once known, instant of the last valid PDU -/
  peer : Option Nat := none
  echo : Nat := 0
  ver : Option Nat := none
  lastAt : Nat := 0
  /-- consecutive PDUs outside the window, and the received safe bits -/
  outN : Nat := 0
  bits : Nat := 0
  /-- the safe bits in the last PDU sent (R363) -/
  bitsTx : Nat := 0
  deriving DecidableEq, Repr

/-- What one safety core keeps of its own (R342). [assumption 121 (DESIGN CHOICE)] -/
structure SafCore where
  /-- raw levels of the channels, samples for which each has stood, and the channels that ask for the safe state -/
  rawA : Nat := 0
  rawB : Nat := 0
  cntA : List Nat := [0, 0, 0, 0, 0, 0, 0, 0]
  cntB : List Nat := [0, 0, 0, 0, 0, 0, 0, 0]
  askA : Nat := 255
  askB : Nat := 255
  /-- ticks of the disagreement of each pair (R346) -/
  disc : List (Option Nat) := [none, none, none, none, none, none, none, none]
  /-- the state of each function: 0 OFF, 1 DEMAND, 2 READY, 3 RUN (R349) -/
  fn : List Nat := [0, 0, 0, 0, 0, 0, 0, 0]
  /-- OFF_DLY left of each function, in ms (R352) -/
  offT : List (Option Nat) := [none, none, none, none, none, none, none, none]
  /-- TWOHAND: both hands have been in demand together, ticks since the first hand entered run (R350) -/
  thArm : List Bool := [false, false, false, false, false, false, false, false]
  thT : List (Option Nat) := [none, none, none, none, none, none, none, none]
  deriving DecidableEq, Repr

/-- What the safety cores keep beside the SAF page. [assumption 121 (DESIGN CHOICE)] -/
structure SafSt where
  /-- SM0, which drives channel A of the outputs, and SM1, which drives channel B (R342) -/
  sm0 : SafCore := {}
  sm1 : SafCore := {}
  /-- the SPS has been checked since reset; the cores have completed a cycle since reset; they are stopped (R409, R463) -/
  checked : Bool := false
  cycled : Bool := false
  stopped : Bool := false
  /-- instants of the last sample and cycle -/
  sampAt : Nat := 0
  cycAt : Nat := 0
  /-- a sample has been taken since reset; SRST was held at the first and has not been released since (R357) -/
  sampled : Bool := false
  srstHeld : Bool := false
  /-- channels with a CROSS condition, output channels whose readback is wrong: A and B masks (R345, R352) -/
  crossA : Nat := 0
  crossB : Nat := 0
  rbBad : Bool := false
  /-- consecutive cycles in which each item differs: inputs, functions, outputs; a core fails (R342, R356) -/
  xcmp : List Nat := [0, 0, 0, 0, 0, 0, 0, 0, 0, 0, 0, 0, 0, 0, 0, 0, 0, 0, 0, 0]
  core : Bool := false
  /-- the channel of each output pair that is in a test pulse, and the instant of each channel's next pulse by
  `2·pair + channel` (R353, R354) -/
  tp : List (Option Bool) := [none, none, none, none]
  tpDue : List Nat := [0, 0, 0, 0, 0, 0, 0, 0]
  /-- the safe bits sent in the last cycle (R363) -/
  bits : Nat := 0
  esc : SMap EscC := []
  deriving DecidableEq, Repr

/-- An entry of a CAN transmit queue: its slot, whether it has been removed, its words as read at the push, the SOF
time stamp of the last attempt, and whether it was aborted at or after SOF (R378–R380). -/
structure CanTx where
  slot : Nat
  gone : Bool
  words : List Byte
  ts : Nat
  late : Bool
  deriving DecidableEq, Repr

/-- A frame dropped at a full receive queue in a bus cycle: the queue, the frame, its filter index and SOF, and what DROP and
RX_DROP were before (R377, R395). -/
structure CanDrop where
  cyc : Nat
  q : Nat
  f : CanFrame
  fidx : Nat
  sof : Nat
  drop : Nat
  irq : Bool
  deriving DecidableEq, Repr

/-- What a CAN controller keeps beside its registers. -/
structure CanSt where
  txq : List CanTx := []
  /-- instants from which TSC counts and at which the cycle time was 0 (R381, R384) -/
  tscAt : Int := 0
  cycAt : Nat := 0
  /-- instant of the last reference message, and REF_MISS has been raised since (R385) -/
  refAt : Nat := 0
  missed : Bool := false
  /-- instant at which the transmit gate last closed, and the spans for which it was closed since the last frame (R386) -/
  gateAt : Nat := 0
  shuts : List (Nat × Nat) := []
  /-- TSC as it was up to an instant, since the last frame: that instant, its origin and its prescaler (R381) -/
  tscOld : List (Nat × Int × Nat) := []
  /-- the instant from which the controller takes part in the bus again after a protocol exception, and from which it may
  drive its next SOF (R373, R382) -/
  intAt : Nat := 0
  sofFrom : Nat := 0
  /-- a frame dropped, and a release refused with the register that told of it, in the same bus cycle as the other (R395) -/
  dropped : Option CanDrop := none
  acked : Option (Nat × Nat × Word) := none
  deriving DecidableEq, Repr

/-- A change of the PTP clock that takes effect at a tick: SET, ADJ in ns and the increment (R390, R391). -/
structure PtpPend where
  at_ : Nat
  set : Option Nat
  adj : Int
  inc : Option Nat
  deriving DecidableEq, Repr

/-- What an Ethernet port keeps beside its registers. Times of the PTP clock are in 2⁻³² ns. -/
structure EthSt where
  /-- the PTP clock at an instant, its increment a tick, and a change on its way -/
  val : Nat := 0
  at_ : Nat := 0
  inc : Nat := 34359738368
  pend : Option PtpPend := none
  /-- the frame in transmission: its descriptor's words and its bytes (R389) -/
  tx : Option (List Byte × List Byte) := none
  /-- the PTP clock as it was up to an instant of the ETH clock, newest first: that instant, value, its instant, increment
  (R392) -/
  old : List (Nat × Nat × Nat × Nat) := []
  /-- transmit stamps as `(TSID, ns, s)`, oldest first (R393) -/
  tsq : List (Nat × Nat × Nat) := []
  /-- a stamp dropped in a tick of the ETH clock, with OVF and TSQ_OVF as they were before (R395) -/
  tsqLost : Option (Nat × (Nat × Nat × Nat) × Nat × Bool) := none
  /-- instant up to which a received PAUSE holds the transmitter (R388) -/
  pause : Nat := 0
  /-- the transmitter was asked to examine its next descriptor while paused -/
  kick : Bool := false
  deriving DecidableEq, Repr

/-! ### Clocks, power, security, memory, flash -/

/-- What CLK, PWR and AON keep beside their registers. -/
structure PwrSt where
  /-- the state left for DOZE or SLEEP, 0 RUN or 1 HOLD (R407) -/
  left : Nat := 0
  /-- a DOZE command awaits the close of the loop-engine window (R408) -/
  doze : Bool := false
  /-- start of the SLEEP entry under way, and whether its step 4 is done (R409) -/
  slp : Option Nat := none
  slp4 : Bool := false
  /-- the wake sequence runs (R412) -/
  waking : Bool := false
  /-- the bus cycle in which ARM_PEND was set (R416, R443) -/
  armAt : Option Nat := none
  /-- instant at which RTC_SEC had its register value with sub-second 0 (R421) -/
  rtcAt : Nat := 0
  /-- instant at which each gated domain stopped (R401) -/
  gateAt : SMap Nat := []
  /-- VIN is gone; the input switch is closed; the instant since which SEATED_N reads low (R503) -/
  vinOff : Bool := false
  switch : Bool := true
  seatAt : Option Nat := some 0
  /-- a warm reset is requested, with its RST_REC cause (R466) -/
  warm : Option Nat := none
  /-- end of the assertion of PWR_CYC; instants of the warm resets in WARM_WIN; the last HEART (R466, R469) -/
  cyc : Option Nat := none
  warms : List Nat := []
  heartAt : Nat := 0
  deriving DecidableEq, Repr

/-- A pairing-key slot of OTP (R427). [assumption 151 (DEDUCED)] -/
structure KeySlot where
  kid : Nat := 0
  valid : Bool := false
  revoked : Bool := false
  kp : BitVec 256 := 0
  deriving DecidableEq, Repr

/-- What KC keeps: OTP and the requests under way (R422–R446). -/
structure SecSt where
  /-- the lifecycle word of OTP: a bit for each state entered (R427) -/
  lcWord : Nat := 0
  /-- ROOT_HASH0–3, each with REVOKED; the hash of the debug root key (R427) -/
  roots : List (BitVec 384 × Bool) := List.replicate 4 (0, false)
  dbgRoot : BitVec 384 := 0
  /-- image and transport keys (R427) -/
  kImg : BitVec 256 := 0
  kTr : BitVec 256 := 0
  /-- the 64 pairing-key slots (R427–R429) -/
  slots : List KeySlot := List.replicate 64 {}
  /-- trim bytes of OTP 0x3000–0x3FFF, which only the boot ROM reads (R427) -/
  trim : SMap Byte := []
  /-- the lifecycle change under way: its target, the SERVICE hours, and the root hash to revoke (R423) -/
  lc : Option (Nat × Nat × Option Nat) := none
  /-- the key under way (R428) -/
  key : Option (Nat × BitVec 256) := none
  /-- the nonce has been consumed (R424) -/
  used : Bool := false
  /-- ends of the SERVICE session and of the debug grant; LCMASK of the grant is checked at the request (R425, R436) -/
  svcEnd : Option Nat := none
  dbgEnd : Option Nat := none
  /-- ROLLBACK of the running image (R433) -/
  runRb : Nat := 0
  /-- instant since which the BENCH_IL strap reads as it does -/
  ilAt : Nat := 0
  /-- the debug port has been used since the DBG domain came up (R417) -/
  dbgUsed : Bool := false
  deriving DecidableEq, Repr

/-- A finding of the Rake in SLEEP (R453). -/
structure SlpFind where
  ue : Bool
  i : Nat
  synd : Nat
  chk : Nat
  lo : Word
  hi : Word
  deriving DecidableEq, Repr

/-- What MEM and THM keep beside their registers. -/
structure MemSt where
  /-- the next word of each walker (R452) -/
  walk : SMap Nat := []
  found : List SlpFind := []
  /-- the bus cycle of the last write of a whole word, and the words written whole, or cleared, in it (R473) -/
  fullAt : Nat := 0
  full : List Nat := []
  /-- raw bits of words of the test page that were written raw, by word: data and check (R458) -/
  raw : SMap (Option (BitVec 64 × BitVec 8)) := []
  leakAt : Nat := 0
  /-- consecutive samples out of range, by sensor; the samples of the last 10 s with their instants, oldest first (R461) -/
  oor : List Nat := [0, 0, 0, 0, 0, 0, 0, 0, 0, 0, 0, 0, 0, 0]
  hist : List (Nat × List Int) := []
  /-- consecutive samples at or above 135 °C; shutdown; samples below 110 °C in it (R463) -/
  hot : Nat := 0
  shut : Bool := false
  cool : Nat := 0
  /-- a warm reset that ends a shutdown raises TSD_EXIT (R463) -/
  exit : Bool := false
  /-- a shutdown registered during an entry to SLEEP: reading and sensor, recorded when the entry completes (R464) -/
  tsdPend : Option (Int × Nat) := none
  /-- wake sources that a shutdown in SLEEP holds off (R464) -/
  held : Nat := 0
  /-- the page each spare holds or is being filled with (R459) -/
  remap : SMap (Option Nat) := []
  deriving DecidableEq, Repr

/-- What NVL keeps: the flash and the command under way (R470, R471). -/
structure NvlSt where
  nor : SMap Byte := []
  /-- the external flash, when present (R430) -/
  qspi : Option (SMap Byte) := none
  /-- the command under way: OP, DEV, address, buffer, length -/
  cmd : Option (Nat × Bool × Nat × Nat × Nat) := none
  /-- CRC of the SPS acknowledged last (R343) -/
  ack : Option Nat := none
  deriving DecidableEq, Repr

/-! ### The whole state -/

/-- A record waiting in the event-log queue (R471): station time of the event, period index, reporting page, event bit,
data. -/
structure LogRec where
  st : Nat
  pidx : Nat
  pg : Nat
  evt : Nat
  d0 : Nat
  d1 : Nat
  deriving DecidableEq, Repr

/-- What straps, balls and ordering fix from outside (R1, R2, R266, R311, R439). -/
structure Straps where
  islFit : Bool
  /-- BMODE strap of each island, one bit per island (R266) -/
  bmode : Nat
  /-- SLOT strap (R311) and the module's 64-bit unique id -/
  slot : Nat
  uid : Nat
  /-- BENCH_IL strap asserted (R439) -/
  benchIl : Bool
  deriving DecidableEq, Repr

/-- The state of the block. -/
structure State where
  /-- commands waiting, first in first out -/
  pending : List Instr
  /-- the clock, in units of 1/960 ns -/
  now : Nat
  /-- the model's own: how many free values have been drawn -/
  freeN : Nat
  /-- the straps and the build -/
  straps : Straps
  /-- every register, by host address (R8, R479) -/
  regs : SMap Word
  /-- the RAMs of the host map, by host address (R448, R479) -/
  mem : List Host.Cell
  /-- the bus's answer to the last host access (R8, R479) -/
  resp : Resp
  /-- pages whose ERR_CODE was read since it was written (R486) -/
  errRead : List Nat
  /-- the bus cycle of the last event, and the events of that cycle by page (R483) -/
  evAt : Nat
  evs : SMap Word
  /-- pages whose re-initialisation runs, with its end (R484) -/
  reinit : List (Nat × Nat)
  /-- holders of the shared resources (R489–R492) -/
  claims : SMap Claim
  /-- waiting event-log records (R471) -/
  logQ : List LogRec
  /-- period index (R16), instant of the last boundary, window in progress: 0 uplink, 1 loop engines, 2 Grainer and
  solver, 3 downlink, 4 guard (R18) -/
  pidx : Nat
  bndAt : Nat
  window : Nat
  /-- a period change under way: the new PERIOD and the index of the boundary at which it takes effect (R22) -/
  perPend : Option (Nat × Nat)
  /-- margins of the loop-engine window over the last 1,024 periods, newest first, in 10 ns (R35) -/
  slack : List Nat
  /-- runs of consecutive HOLD overruns by window and unit, `64·window + unit` (R25) -/
  ovrRun : SMap Nat
  /-- an overrun of this period has been counted (R24) -/
  ovrSeen : Bool
  /-- context outputs as published to the hardware blocks, `1024·class + selector` (R197) -/
  pubs : SMap Word
  cells : SMap Cell
  stks : SMap Stack
  dsvs : SMap Dsv
  /-- instant of the solver's last hand-over of this period, 0 before one (R96) -/
  dsvDone : Nat
  /-- modulator channels 0–95 and local leg channels at 96–107 -/
  chans : SMap Chan
  lanes : SMap Lane
  /-- standing trip latches (R127) -/
  latches : List Latch
  /-- trip sources active now, one bit per code of R126, and the instant from which each inactive one has been so -/
  srcAct : Nat
  inactAt : SMap Nat
  /-- the instant at which each source last tripped, and what a REARM of this tick has cleared (R131) -/
  tripAt : SMap Nat
  rearmed : Option RearmRec
  /-- instant of the first trip of R130 -/
  firstAt : Nat
  /-- level of each trip ball as last reported, and the instant since which it stands (R126) -/
  trpIn : SMap (Bool × Nat)
  /-- halt reaction in force: 0 none, 1 SAFE, 2 FREEZE; halts not ended; frozen levels of the legs (R135–R138) -/
  haltMode : Nat
  halts : Nat
  frozen : List Nat
  /-- local legs blocked under R134, and those that wait with both switches off for a reload event (R132, R134) -/
  legBlk : Nat
  legWait : Nat
  /-- the latest valid result code of each analogue input (R49, R300) -/
  aiLast : SMap (Option Int)
  /-- the usable boundary sample of GAP_CFG0.AI in this period (R71) -/
  gapSample : Option Int
  /-- instant of the station-time epoch on the clock, below 0 where the epoch lies before it (R16, R105) -/
  epochAt : Int
  /-- pairing keys held, by KID (R168, R428) -/
  pairKeys : List (Nat × BitVec 256)
  /-- the loop engines beside their registers (R185–R217) -/
  le : LeSt
  /-- sampling instant plus 1 of the latest conversion of each analogue input, 0 before, and its VALID (R228, R300) -/
  aiInst : SMap (Nat × Bool)
  /-- sampling instant plus 1 of the latest valid conversion of each analogue input, 0 before (R243) -/
  aiValAt : SMap Nat
  /-- per input, the instant and the code of its latest conversion sampled at a period boundary, absent where it was not valid;
  the instant is stored plus 1 (R228) -/
  aiBnd : SMap (Nat × Option Int)
  /-- machine control beside its registers (R220–R253) -/
  mcx : McxSt
  /-- the leg islands beside their registers (R259–R285) -/
  isls : SMap Isl
  /-- qualifying faults reported: bus, island and detection instant (R275) -/
  polHist : List (Nat × Nat × Nat)
  /-- the converter pairs beside their registers (R286–R307) -/
  adcs : SMap AdcP
  /-- poisoned 64-bit words of the RAMs, by `2^22·region + index` (R448, R451) -/
  poison : SMap Bool
  /-- Trestle and station time beside their registers (R308–R324) -/
  trl : TrlSt
  /-- the Settle pair beside its registers (R325–R338) -/
  stl : StlSt
  /-- the safety cores beside the SAF page (R342–R372) -/
  saf : SafSt
  /-- the CAN controllers beside their registers (R373–R387) -/
  cans : SMap CanSt
  /-- the Ethernet ports beside their registers (R388–R394) -/
  eths : SMap EthSt
  /-- clocks and power beside their registers (R400–R421) -/
  pwr : PwrSt
  /-- the security core (R422–R446) -/
  sec : SecSt
  /-- memory integrity and temperature beside their registers (R447–R464) -/
  memx : MemSt
  /-- flash (R470, R471) -/
  nvl : NvlSt
  /-- channels whose host transfer runs (R494) -/
  dmaN : List Nat
  deriving DecidableEq, Repr

/-- The straps of the model's module: a FOB-4896-A with slot 0, unique id 1, every BMODE strap 0 and BENCH_IL not
asserted (DESIGN CHOICE: the spec reads these from outside; assumption 5). [assumptions 5, 6 (DESIGN CHOICE)] -/
def strapsReset : Straps := { islFit := true, bmode := 0, slot := 0, uid := 1, benchIl := false }

/-- The state right after reset (R487): every register at its reset word, nothing listed in memory, no command.
[assumptions 6, 10 (DESIGN CHOICE)] -/
def State.reset : State where
  pending := []
  now := 0
  freeN := 0
  straps := strapsReset
  regs := []
  mem := []
  resp := .none
  errRead := []
  evAt := 0
  evs := []
  reinit := []
  claims := []
  logQ := []
  pidx := 0
  bndAt := 0
  window := 0
  perPend := none
  slack := []
  ovrRun := []
  ovrSeen := false
  pubs := []
  cells := []
  stks := []
  dsvs := []
  dsvDone := 0
  chans := []
  lanes := []
  latches := []
  srcAct := 0
  inactAt := []
  tripAt := []
  rearmed := none
  firstAt := 0
  trpIn := []
  haltMode := 0
  halts := 0
  frozen := []
  legBlk := 0
  legWait := 0
  aiLast := []
  gapSample := none
  epochAt := 0
  pairKeys := []
  le := {}
  aiInst := []
  aiValAt := []
  aiBnd := []
  mcx := {}
  isls := []
  polHist := []
  adcs := []
  poison := []
  trl := {}
  stl := {}
  saf := {}
  cans := []
  eths := []
  pwr := {}
  sec := {}
  memx := {}
  nvl := {}
  dmaN := []

end Sys2Proof.Machine
end

