-- ==== Sys2Proof/Machine/Ops.lean ====
section
/-! DEFINITION. The named operations over the state: sparse maps, register fields, refusals (R486), events (R483),
claims (R489–R492), memory bytes, free values and time. -/

namespace Sys2Proof.Machine

/-! ### Sparse maps in canonical form -/

/-- The listed value of a key. -/
def SMap.look {α : Type} : SMap α → Nat → Option α
  | [], _ => none
  | (a, v) :: t, k => if a = k then some v else SMap.look t k

/-- List a key, keeping the keys rising. -/
def SMap.ins {α : Type} : SMap α → Nat → α → SMap α
  | [], k, v => [(k, v)]
  | (a, w) :: t, k, v =>
    if k < a then (k, v) :: (a, w) :: t else if k = a then (k, v) :: t else (a, w) :: SMap.ins t k v

/-- Remove a key. -/
def SMap.del {α : Type} (m : SMap α) (k : Nat) : SMap α := m.filter (fun p => p.1 != k)

/-- The value of a key: the listed one, or what an unlisted key reads as. -/
def SMap.get {α : Type} (d : Nat → α) (m : SMap α) (k : Nat) : α := (SMap.look m k).getD (d k)

/-- Write a key, keeping the canonical form. -/
def SMap.put {α : Type} [DecidableEq α] (d : Nat → α) (m : SMap α) (k : Nat) (v : α) : SMap α :=
  if v = d k then SMap.del m k else SMap.ins m k v

/-- The canonical form: keys strictly rising, no entry equal to its default. -/
def SMap.wf {α : Type} [DecidableEq α] (d : Nat → α) : SMap α → Bool
  | [] => true
  | [(a, v)] => !decide (v = d a)
  | (a, v) :: (b, w) :: t => decide (a < b) && !decide (v = d a) && SMap.wf d ((b, w) :: t)

/-! ### Bits -/

/-- A word with `w` bits from bit `lo` replaced by the low bits of `v`. -/
def putBits (x : Word) (lo w v : Nat) : Word :=
  (x &&& ~~~(BitVec.ofNat 32 ((2 ^ w - 1) <<< lo))) ||| BitVec.ofNat 32 ((v % 2 ^ w) <<< lo)

/-- `w` bits of a word from bit `lo`. -/
def getBits (x : Word) (lo w : Nat) : Nat := (x.toNat >>> lo) % 2 ^ w

/-- Two's complement reading of a `w`-bit code. -/
def sgnOf (w v : Nat) : Int := if v < 2 ^ (w - 1) then (v : Int) else (v : Int) - 2 ^ w

/-- Two's complement `w`-bit code of an integer. -/
def codeOf (w : Nat) (v : Int) : Nat := (v % (2 ^ w : Int)).toNat

/-- Saturate an integer to a signed range of `w` bits. -/
def satS (w : Nat) (v : Int) : Int := max (-(2 ^ (w - 1) : Int)) (min v (2 ^ (w - 1) - 1))

/-- Round a rational to the nearest integer, halves away from zero. [assumption 100 (DEDUCED)] -/
def roundAway (x : Rat) : Int := if 0 ≤ x then (x + 1 / 2).floor else -((-x + 1 / 2).floor)

/-- Clamp a rational to a range. -/
def clampR (lo hi x : Rat) : Rat := max lo (min hi x)

/-- Sign of a rational: −1, 0 or 1. -/
def sgnR (x : Rat) : Int := if 0 < x then 1 else if x < 0 then -1 else 0

/-- The set bits of a mask below `n`, ascending. -/
def bitsOf (n m : Nat) : List Nat := (List.range n).filter (fun i => m.testBit i)

/-- A mask of the listed bits. -/
def maskOf (l : List Nat) : Nat := l.foldl (fun m i => m ||| 1 <<< i) 0

/-! ### Registers -/

/-- The word a register holds. -/
def State.reg (s : State) (a : Nat) : Word := SMap.get resetWord s.regs a

/-- Store a register word. -/
def State.setReg (s : State) (a : Nat) (w : Word) : State := { s with regs := SMap.put resetWord s.regs a w }

/-- A field's value. -/
def State.get (s : State) (f : Fld) : Nat := getBits (s.reg f.addr) f.lo f.w

/-- Write a field. -/
def State.set (s : State) (f : Fld) (v : Nat) : State := s.setReg f.addr (putBits (s.reg f.addr) f.lo f.w v)

/-- A field read as a flag. -/
def State.on (s : State) (f : Fld) : Bool := s.get f != 0

/-- Write a one-bit field. -/
def State.setB (s : State) (f : Fld) (b : Bool) : State := s.set f (if b then 1 else 0)

/-- A field read as two's complement. -/
def State.getS (s : State) (f : Fld) : Int := sgnOf f.w (s.get f)

/-- Write a field as two's complement. -/
def State.setS (s : State) (f : Fld) (v : Int) : State := s.set f (codeOf f.w v)

/-- Add to a saturating count. -/
def State.bump (s : State) (f : Fld) (k : Nat := 1) : State := s.set f (min (s.get f + k) (2 ^ f.w - 1))

/-- Apply an operation for each item of a list, in order. -/
def State.each {α : Type} (s : State) (l : List α) (f : State → α → State) : State := l.foldl f s

/-- Apply an operation where a condition holds. -/
def State.iff (s : State) (b : Bool) (f : State → State) : State := if b then f s else s

/-! ### Events, refusals (R483, R486) -/

/-- Set an event bit in a page's IRQ_RAW (R483). -/
def State.irq (s : State) (pg bit : Nat) : State :=
  let m := BitVec.ofNat 32 (1 <<< bit)
  let c := s.now / tBus
  let old := if s.evAt = c then s.evs else []
  let s := { s with evAt := c, evs := SMap.put (fun _ => 0) old pg (SMap.get (fun _ => 0) old pg ||| m) }
  s.setReg (HDR.IRQ_RAW pg) (s.reg (HDR.IRQ_RAW pg) ||| m)

/-- The events of a page in the present bus cycle, which a clear of that cycle leaves set (R483).
[assumption 200 (DESIGN CHOICE)] -/
def State.evNow (s : State) (pg : Nat) : Word := if s.evAt = s.now / tBus then SMap.get (fun _ => 0) s.evs pg else 0

/-- The common error codes of R486. -/
abbrev eRANGE : Nat := 1
abbrev eSTATE : Nat := 2
abbrev eARMED : Nat := 3
abbrev eCLAIM_DENIED : Nat := 4
abbrev eCLAIM_LOST : Nat := 5
abbrev eNOT_FITTED : Nat := 6
abbrev eLOCKED : Nat := 7
abbrev eBUSY : Nat := 8
abbrev eKEY : Nat := 9

/-- The code a page reports: a block that defines a code with the name of a common one reports its own (R486). -/
def blockCode (pg code : Nat) : Nat :=
  if pg == GRN.page then (if code == eSTATE then 0x43 else code)
  else if pg == DSV.page then (if code == eSTATE then 0x42 else code)
  else if 0x40501000 ≤ pg && pg < 0x40531000 then (if code == eSTATE then 0x40 else code)
  else if 0x40200000 ≤ pg && pg < 0x40210000 then (if code == eSTATE then 0x47 else code)
  else if pg == MCX.page then (if code == eSTATE then 0x41 else code)
  else if 0x40401000 ≤ pg && pg < 0x40409000 then (if code == eBUSY then 0x40 else code)
  else if pg == STL.page then (if code == eSTATE then 0x40 else code)
  else if 0x40700000 ≤ pg && pg < 0x40704000 then
    (if code == eBUSY then 0x40 else if code == eSTATE then 0x43 else code)
  else if 0x40710000 ≤ pg && pg < 0x40712000 then (if code == eBUSY then 0x40 else code)
  else if pg == PWR.page then (if code == eARMED then 0x40 else if code == eKEY then 0x47 else code)
  else if pg == SEC.page then (if code == eARMED then 0x40 else if code == eBUSY then 0x47 else code)
  else if pg == MEM.page then (if code == eSTATE then 0x41 else code)
  else if pg == NVL.page then
    (if code == eARMED then 0x41 else if code == eSTATE then 0x43 else if code == eKEY then 0x44 else code)
  else code

/-- Record a refusal: its code and offset in ERR_CODE, with MULTI where the previous code was not read (R486).
[assumption 7 (DESIGN CHOICE)] -/
def State.refuse (s : State) (pg ofs code : Nat) : State :=
  let s := s.setB (HDR.ERR_CODE_MULTI pg)
    (s.on (HDR.ERR_CODE_MULTI pg) || (s.on (HDR.ERR_CODE_CODE pg) && !s.errRead.contains pg))
  let s := (s.set (HDR.ERR_CODE_CODE pg) (blockCode pg code)).set (HDR.ERR_CODE_OFS pg) ofs
  { s with errRead := s.errRead.filter (· != pg) }

/-- A page's re-initialisation runs still (R484). [assumption 202 (DEDUCED)] -/
def State.busy (s : State) (pg : Nat) : Bool := s.reinit.any (fun r => r.1 == pg && decide (s.now < r.2))

/-- The gateable clock domain whose pages an address lies in (R400): its domain number. -/
def pageDomain (a : Nat) : Option Nat :=
  if 0x40300000 ≤ a ∧ a < 0x4030C000 then some 15
  else if 0x40400000 ≤ a ∧ a < 0x40409000 then some 7
  else if 0x40600000 ≤ a ∧ a < 0x40601000 then some 9
  else if 0x40700000 ≤ a ∧ a < 0x40704000 then some 11
  else if 0x40710000 ≤ a ∧ a < 0x40712000 then some 10
  else none

/-- The register clocks stand: no VIN, SLEEP or OFF, or thermal shutdown (R406, R463, R508). [assumption 173 (DEDUCED)] -/
def State.dark (s : State) : Bool := s.pwr.vinOff || s.memx.shut || decide (3 ≤ s.get PWR.STAT_STATE)

/-- The loop engines and host cores are stopped (R408, R409). [assumption 195 (DEDUCED)] -/
def State.leGated (s : State) : Bool := s.get PWR.STAT_STATE == 2 || s.pwr.slp.isSome

/-- A clock domain is gated (R401). -/
def State.gated (s : State) (d : Nat) : Bool := (s.get CLK.GATE_GATE).testBit d

/-- The page's clock domain is gated, every one stands, or the masters that write have stopped for an entry to SLEEP:
writes have no effect (R401, R409). -/
def State.pageGated (s : State) (a : Nat) : Bool :=
  s.dark || s.pwr.slp.isSome || match pageDomain a with
  | some d => s.gated d
  | none => false

/-- Judge a write: of the conditions of refusal that are met, KEY and RANGE come first, then BUSY while the page is
re-initialised, then the rule's own in their order; one code is reported and nothing else happens. With none met the
operation runs (R484, R486). A write to a page whose clock domain is gated has no effect (R401). -/
def State.judge (s : State) (pg ofs : Nat) (conds : List (Bool × Nat)) (k : State → State) : State :=
  if s.pageGated pg then s
  else match conds.find? (fun c => c.1 && c.2 == eKEY) with
  | some c => s.refuse pg ofs c.2
  | none =>
  match conds.find? (fun c => c.1 && c.2 == eRANGE) with
  | some c => s.refuse pg ofs c.2
  | none =>
    if s.busy pg then s.refuse pg ofs eBUSY
    else match conds.find? (fun c => c.1) with
      | some c => s.refuse pg ofs c.2
      | none => k s

/-- The page base of an interrupt line (R480). -/
def pageOfLine (l : Nat) : Nat :=
  match pageTable.find? (fun r => r.line ≤ l && l < r.line + r.count) with
  | some r => r.base + 0x1000 * (l - r.line)
  | none => 0

/-- The page kind of an interrupt line (R480). -/
def kindOfLine (l : Nat) : PageKind :=
  match pageTable.find? (fun r => r.line ≤ l && l < r.line + r.count) with
  | some r => r.kind
  | none => .sys

/-! ### Host register writes under the access types (R9, R11, R485) -/

/-- The word a register holds after a write under its access masks: RW takes the value, RWL while the page is
not locked, W1C clears, W1S sets, a count takes only a write of 0 (R9); WO and RO keep nothing. -/
def writeWord (row : RegRow) (locked : Bool) (old val : Nat) : Nat :=
  let m := row.rw ||| (if locked then 0 else row.rwl)
  let czm := if row.cz != 0 && val &&& row.cz == 0 then row.cz else 0
  let keep := old &&& (0xFFFFFFFF ^^^ m) &&& (0xFFFFFFFF ^^^ czm)
  ((keep &&& (0xFFFFFFFF ^^^ (row.w1c &&& val))) ||| (val &&& m)) ||| (val &&& row.w1s)

/-- Whether a page's CTRL.LOCK is set. -/
def State.locked (s : State) (pg : Nat) : Bool := s.on (HDR.CTRL_LOCK pg)

/-- Take a write that met no condition of refusal: the fields change by their access types, and LOCKED is reported
where a locked RWL field would have changed (R485). -/
def State.take (s : State) (k : PageKind) (pg ofs : Nat) (val : Word) : State :=
  match rowAt k ofs with
  | none => s
  | some (row, _) =>
    let old := (s.reg (pg + ofs)).toNat
    let lk := s.locked pg
    let s := s.setReg (pg + ofs) (BitVec.ofNat 32 (writeWord row lk old val.toNat))
    if lk && (old &&& row.rwl) != (val.toNat &&& row.rwl) then s.refuse pg ofs eLOCKED else s

/-- The value a RWL or RW field would hold after a write of `val` to its register. -/
def State.willBe (s : State) (pg : Nat) (rwl : Bool) (f : Fld) (val : Word) : Nat :=
  if rwl && s.locked pg then s.get f else getBits val f.lo f.w

/-! ### Time -/

/-- The clock is moved on to an instant, never back. [assumption 2 (DESIGN CHOICE)] -/
def State.advance (s : State) (t : Nat) : State := { s with now := max s.now t }

/-- The control period in time units (R17). -/
def State.tc (s : State) : Nat := s.get TBS.PER_CFG_PERIOD * t10

/-! ### Free values -/

/-- Draw the next free value's index. [assumption 10 (DESIGN CHOICE)] -/
def State.free (s : State) : Nat × State := (s.freeN, { s with freeN := s.freeN + 1 })

/-! ### Claims (R489–R492) -/

/-- The key of a resource: RCLS and RIDX of R493. -/
abbrev resKey (rcls ridx : Nat) : Nat := rcls * 256 + ridx

/-- The holder of a resource. -/
def State.claim (s : State) (r : Nat) : Claim := SMap.get (fun _ => {}) s.claims r

/-- Record a holder. -/
def State.setClaim (s : State) (r : Nat) (c : Claim) : State :=
  { s with claims := SMap.put (fun _ => {}) s.claims r c }

/-- The report of a denied claim on the PIN page (R493). -/
def State.pinDenied (s : State) (r cls inst : Nat) : State :=
  let h := s.claim r
  let s := (s.set PIN.DENY0_RES ((r / 256) + 256 * (r % 256))).set PIN.DENY0_HOLDER (h.cls + 256 * h.inst)
  ((s.set PIN.DENY1_CLAIMANT (cls + 256 * inst)).bump PIN.CNT_DENIED).irq PIN.page 0

/-- Refuse an enable whose claim is denied (R490). -/
def State.deny (s : State) (pg ofs r cls inst : Nat) : State :=
  (s.pinDenied r cls inst).refuse pg ofs eCLAIM_DENIED

/-- Whether a resource is free for a claimant: unheld, or already its own. -/
def State.claimable (s : State) (r cls inst : Nat) : Bool :=
  let h := s.claim r
  h.cls == 0 || (h.cls == cls && h.inst == inst)

/-- Take a resource as its holder. -/
def State.takeClaim (s : State) (r cls inst : Nat) : State :=
  let h := s.claim r
  s.setClaim r { h with cls := cls, inst := inst }

/-- Release a resource where the claimant holds it, its co-user with it (R491); a co-user releases its own part. -/
def State.release (s : State) (r cls inst : Nat) : State :=
  let h := s.claim r
  if h.cls == cls && h.inst == inst then s.setClaim r {}
  else if h.subCls == cls && h.subInst == inst then s.setClaim r { h with subCls := 0, subInst := 0 }
  else s

/-- Release everything a claimant holds (R491). -/
def State.releaseAll (s : State) (cls inst : Nat) : State :=
  s.each (s.claims.map (·.1)) (fun s r => s.release r cls inst)

/-- Claim several resources for one enable: all of them or none (R490). [assumption 200 (DESIGN CHOICE)] -/
def State.claimAll (s : State) (pg ofs : Nat) (rs : List Nat) (cls inst : Nat) (k : State → State) : State :=
  match rs.find? (fun r => !s.claimable r cls inst) with
  | some r => s.deny pg ofs r cls inst
  | none => k (s.each rs (fun s r => s.takeClaim r cls inst))

/-! ### Memory (R448, R479): bytes by host address, 0 where nothing is listed -/

/-- What an unlisted byte of RAM reads as. [assumption 3 (DESIGN CHOICE)] -/
def memDefault (_ : Nat) : Byte := 0

/-- Whether a memory list is in canonical form. -/
def Memory.wf (m : List Host.Cell) : Bool := SMap.wf memDefault m

/-- A byte of RAM. [assumption 3 (DESIGN CHOICE)] -/
def State.byte (s : State) (a : Nat) : Byte := SMap.get memDefault s.mem a

/-- Store a byte of RAM. -/
def State.setByte (s : State) (a : Nat) (b : Byte) : State := { s with mem := SMap.put memDefault s.mem a b }

/-- A little-endian word of RAM (R8). -/
def State.mword (s : State) (a : Nat) : Word :=
  BitVec.ofNat 32 ((s.byte a).toNat + 256 * (s.byte (a + 1)).toNat + 65536 * (s.byte (a + 2)).toNat
    + 16777216 * (s.byte (a + 3)).toNat)

/-- Store a little-endian word of RAM. -/
def State.setMword (s : State) (a : Nat) (w : Word) : State :=
  (((s.setByte a (w.extractLsb' 0 8)).setByte (a + 1) (w.extractLsb' 8 8)).setByte (a + 2)
    (w.extractLsb' 16 8)).setByte (a + 3) (w.extractLsb' 24 8)

/-! ### Published and latched values of the period (R18, R48) -/

/-- A context output as published to the hardware blocks, by class and selector (R197). -/
def State.pub (s : State) (cls sel : Nat) : Word := SMap.get (fun _ => 0) s.pubs (cls * 1024 + sel)

/-! ### Per-unit structures -/

def State.cell (s : State) (n : Nat) : Cell := SMap.get (fun _ => {}) s.cells n
def State.setCell (s : State) (n : Nat) (c : Cell) : State := { s with cells := SMap.put (fun _ => {}) s.cells n c }
def State.modCell (s : State) (n : Nat) (f : Cell → Cell) : State := s.setCell n (f (s.cell n))
def State.dsv (s : State) (n : Nat) : Dsv := SMap.get (fun _ => {}) s.dsvs n
def State.setDsv (s : State) (n : Nat) (c : Dsv) : State := { s with dsvs := SMap.put (fun _ => {}) s.dsvs n c }
def State.stack (s : State) (k : Nat) : Stack := SMap.get (fun _ => {}) s.stks k
def State.setStack (s : State) (k : Nat) (c : Stack) : State :=
  { s with stks := SMap.put (fun _ => {}) s.stks k c }
def State.lane (s : State) (n : Nat) : Lane := SMap.get (fun _ => {}) s.lanes n
def State.setLane (s : State) (n : Nat) (c : Lane) : State := { s with lanes := SMap.put (fun _ => {}) s.lanes n c }
def State.modLane (s : State) (n : Nat) (f : Lane → Lane) : State := s.setLane n (f (s.lane n))

/-- The reset values of a channel's active registers: cell channels 0–95 (R140), local legs at 96–107 (R142). -/
def chanDefault (c : Nat) : Chan :=
  if c < 96 then { act := ⟨if c % 2 = 0 then 40000 else 5000, 0, 0, 0, 0, 0, 0, 0⟩ }
  else { act := ⟨20000, 0, 0, 0, 0x0C80, 0, 0, 0⟩ }

def State.chan (s : State) (c : Nat) : Chan := SMap.get chanDefault s.chans c
def State.setChan (s : State) (c : Nat) (x : Chan) : State := { s with chans := SMap.put chanDefault s.chans c x }

def State.eng (s : State) (e : Nat) : LeEng := SMap.get (fun _ => {}) s.le.engs e
def State.setEng (s : State) (e : Nat) (c : LeEng) : State :=
  { s with le := { s.le with engs := SMap.put (fun _ => {}) s.le.engs e c } }
def State.island (s : State) (k : Nat) : Isl := SMap.get (fun _ => {}) s.isls k
def State.setIsland (s : State) (k : Nat) (x : Isl) : State := { s with isls := SMap.put (fun _ => {}) s.isls k x }
def State.modIsland (s : State) (k : Nat) (f : Isl → Isl) : State := s.setIsland k (f (s.island k))
def State.pair (s : State) (p : Nat) : AdcP := SMap.get (fun _ => {}) s.adcs p
def State.setPair (s : State) (p : Nat) (x : AdcP) : State := { s with adcs := SMap.put (fun _ => {}) s.adcs p x }
def State.modPair (s : State) (p : Nat) (f : AdcP → AdcP) : State := s.setPair p (f (s.pair p))
/-- Context `c` = 16 × engine + context. -/
def State.lectx (s : State) (c : Nat) : LeCtx := SMap.get (fun _ => {}) s.le.ctxs c
def State.setLectx (s : State) (c : Nat) (x : LeCtx) : State :=
  { s with le := { s.le with ctxs := SMap.put (fun _ => {}) s.le.ctxs c x } }
def State.modLectx (s : State) (c : Nat) (f : LeCtx → LeCtx) : State := s.setLectx c (f (s.lectx c))

/-- A block of a context's outputs holds cell `n` (R24, R212, R216). -/
def State.ctxBlocked (s : State) (n : Nat) : Bool := s.le.blks.any (fun b => b.cells.testBit n)

/-- The local legs blocks of contexts' outputs hold (R134). -/
def State.ctxBlkLegs (s : State) : Nat := s.le.blks.foldl (fun m b => m ||| b.legs) 0

/-! ### The event log (R471) -/

/-- Station time at an instant of the clock, in units of 1/960 ns. [assumption 41 (DEDUCED)] -/
def State.stAt (s : State) (t : Int) : Int :=
  (((s.get TBS.EPOCH_SEC0_SEC_LO + 4294967296 * s.get TBS.EPOCH_SEC1_SEC_HI) * 1000000000 + s.get TBS.EPOCH_NS_NS) * 960 : Nat)
    + (t - s.epochAt)

/-- Queue an event record: reporting page, event bit, DATA0 and DATA1. A record that finds the queue full is lost
and counted (R471). -/
def State.log (s : State) (pg evt d0 d1 : Nat) : State :=
  if s.logQ.length < 32 then
    { s with logQ := s.logQ ++ [⟨(s.stAt s.now).toNat, s.pidx, pg, evt, d0, d1⟩] }
  else (s.bump NVL.LOG_LOST_CNT).irq NVL.page 1

/-- The header STAT a read returns: ACT and LOCKED follow CTRL.EN and CTRL.LOCK, REINIT_BUSY the re-initialisation
(R481, R484). -/
def State.statWord (s : State) (pg : Nat) : Nat :=
  s.get (HDR.CTRL_EN pg) + (if s.busy pg then 2 else 0) + 4 * s.get (HDR.CTRL_LOCK pg)

/-- Queue an event record whose data are the page's ERR_CODE and STAT (R471). [assumption 181 (DEDUCED)] -/
def State.logEvt (s : State) (pg evt : Nat) : State :=
  s.log pg evt (s.reg (HDR.ERR_CODE pg)).toNat (s.statWord pg)

/-- The state an operation of a command leaves. -/
def State.after (s : State) (f : State → Host.Outcome State Fault Refusal) : State :=
  match f s with
  | .next t => t
  | _ => s

/-! ### The build -/

/-- The leg islands are fitted: a FOB-4896-A (R1, R2). -/
def State.isl (s : State) : Bool := s.straps.islFit

/-- A write to a page of islands, leg channels or machine control: without islands it is accepted whatever it holds and
has no effect outside the page, so its fields change by their access types and nothing follows (R3).
[assumption 237 (DEDUCED)] -/
def State.fitted (s : State) (k : PageKind) (pg ofs : Nat) (val : Word) (f : State → State) : State :=
  if s.isl then f s else s.judge pg ofs [] (fun s => s.take k pg ofs val)

end Sys2Proof.Machine
end

