-- ==== Sys2Proof/Machine/Reactions.lean ====
section
/-! DEFINITION. Reactions several families share: trip latches (R126–R130), what a trip or a disarm does to stacks
and machines (R69, R253, R414), and the power stage's disarm (R414). -/

namespace Sys2Proof.Machine

/-- The power stage is ARMED (R413). -/
def State.armed (s : State) : Bool := s.on PWR.STAT_ARMED

/-- The tick of station time an instant of the clock falls in (R105). -/
def State.tickOf (s : State) (t : Nat) : Int := ((t : Int) - s.epochAt) / (tTick : Int)

/-- The present tick. -/
def State.nowTick (s : State) : Int := s.tickOf s.now

/-! ### Lifecycle, debug and the matrix (R438–R442) -/

abbrev lcMANUFACTURE : Nat := 0
abbrev lcBENCH : Nat := 1
abbrev lcFIELD : Nat := 2
abbrev lcSERVICE : Nat := 3
abbrev lcRETIRED : Nat := 4

/-- The lifecycle state, and the state of the debug port: 0 CLOSED, 1 AUTH, 2 OPEN (R422, R435). -/
def State.lc (s : State) : Nat := s.get SEC.LC_STAT_LC
def State.dbgSt (s : State) : Nat := s.get SEC.DBG_STAT_STATE

/-- ARMED is permitted (R439). -/
def State.armPermit (s : State) : Bool :=
  match s.lc with
  | 0 => s.on SEC.LC_STAT_BENCH_IL
  | 1 => true
  | 2 => s.dbgSt != 2
  | 3 => s.dbgSt != 2
  | _ => false

/-- FREEZE is permitted at a halt (R439). -/
def State.frzPermit (s : State) : Bool :=
  match s.lc with
  | 0 => s.on SEC.LC_STAT_BENCH_IL
  | 1 => !s.armed || s.on SEC.LC_STAT_BENCH_IL
  | _ => false

/-- The debug capabilities the present combination grants, as a mask: 1 T, 2 H, 4 W, 8 S (R438, R439).
[assumption 272 (DESIGN CHOICE)] -/
def State.dbgCaps (s : State) : Nat :=
  let scope := if s.get SEC.DBG_STAT_SCOPE = 2 then 7 else 1
  let il := s.on SEC.LC_STAT_BENCH_IL
  match s.dbgSt, s.lc, s.armed with
  | 0, _, _ => 0
  | 1, 2, a => if a then 0 else 1
  | 1, 1, true => scope &&& (if il then 7 else 1)
  | 1, 3, true => 1
  | 1, _, _ => scope
  | _, 0, a => if a then 7 else 15
  | _, 1, true => if il then 7 else 1
  | _, _, _ => 7

/-- The debug port grants capability `c`, 0 T, 1 H, 2 W, 3 S, and its domain has its clock (R401, R438, R439). The port is
closed in SLEEP and OFF (R440). -/
def State.dbgHas (s : State) (c : Nat) : Bool := s.dbgCaps.testBit c && !s.gated 14 && !s.dark

/-! ### Stack states (R66) -/

abbrev skIDLE : Nat := 0
abbrev skPRECHARGE : Nat := 1
abbrev skRUN : Nat := 2
abbrev skGAP : Nat := 3
abbrev skBLOCKED : Nat := 4

/-- The state of stack `k` (R66). -/
def State.stkState (s : State) (k : Nat) : Nat := s.get (GRN.STK_STAT_STATE k)

/-- Cell `n` is a member of stack `k` (R38). -/
def State.isMember (s : State) (k n : Nat) : Bool :=
  s.on (GRN.CELL_STK_MEMB (n / 8) (n % 8)) && s.get (GRN.CELL_STK_STK (n / 8) (n % 8)) == k

/-- The station number of cell `n`: by the module's own address, or on the partner of a Settle pair by that of the
preferred module (R5, R318, R325). -/
def State.stationNo (s : State) (n : Nat) : Nat :=
  48 * (if s.on STL.CFG_EN && !s.on STL.CFG_PREF then s.get STL.CFG_PARTNER else s.get TRL.ID_ADDR) + n

/-- The members of a stack, ascending (R38). -/
def State.members (s : State) (k : Nat) : List Nat := (List.range 48).filter (s.isMember k)

/-- The enabled stack a cell is a member of (R40). -/
def State.stackOf (s : State) (n : Nat) : Option Nat :=
  let k := s.get (GRN.CELL_STK_STK (n / 8) (n % 8))
  if s.isMember k n && s.on (GRN.STK_CFG_EN k) then some k else none

/-- R69: a stack in RUN or GAP goes to PRECHARGE with TRIPPED set; a RUN command not yet applied is dropped.
[assumption 17 (DEDUCED)] -/
def State.stackTrip (s : State) (k : Nat) : State :=
  let st := s.stack k
  let s := if st.cmd == 2 then s.setStack k { st with cmd := 0 } else s
  if s.on (GRN.STK_CFG_EN k) && (s.stkState k == skRUN || s.stkState k == skGAP) then
    let s := s.setStack k { s.stack k with entered := true }
    (s.set (GRN.STK_STAT_STATE k) skPRECHARGE).set (GRN.STK_STAT_TRIPPED k) 1
  else s

/-! ### Legs and latches (R126–R132) -/

/-- Every local leg of the build, as a mask (R4). [assumption 225 (DEDUCED)] -/
def State.allLegs (s : State) : Nat := if s.isl then 0xFFF else 0

/-- Every cell of the bank, as a mask. -/
abbrev allCells : Nat := 0xFFFFFFFFFFFF

/-- The latches of a source are recorded in STAT or ISTAT. -/
def latchFld (src : Nat) : Fld := if src < 8 then ⟨TRP.STAT, 16 + src, 1⟩ else ⟨TRP.ISTAT, src, 1⟩

/-- The FLAG of a source. -/
def flagFld (src : Nat) : Fld := if src < 8 then ⟨TRP.STAT, 8 + src, 1⟩ else ⟨TRP.ISTAT, src - 8, 1⟩

/-- Legs under a HIZ latch, under an ASC latch, and cells under a latch. -/
def State.hizLegs (s : State) : Nat := s.latches.foldl (fun m l => m ||| l.hiz) 0
def State.ascLegs (s : State) : Nat := s.latches.foldl (fun m l => m ||| l.asc) 0
def State.trippedCells (s : State) : Nat := s.latches.foldl (fun m l => m ||| l.cells) 0

/-- A trip latch covers cell `n` (R127). [assumption 33 (DEDUCED)] -/
def State.cellTripped (s : State) (n : Nat) : Bool := s.trippedCells.testBit n

/-- The command-line state of a local leg by R133, as LPW.Lk_STAT.OUT codes it (R142). -/
def State.legCode (s : State) (k : Nat) : Nat :=
  let mode := (s.chan (96 + k)).act.mode
  if !s.armed || s.hizLegs.testBit k then 2
  else if s.ascLegs.testBit k then 3
  else if s.haltMode == 1 then 4
  else if s.haltMode == 2 then 5
  else if s.legBlk.testBit k then 6
  else if mode == 0 || s.legWait.testBit k
      || !((s.on (LPW.CFG_EN k)) || (s.claim (resKey 2 k)).cls ∈ [5, 6, 8]) then 1
  else 0

/-- Lk_STAT.OUT of every leg of the build follows the conditions of R133. -/
def State.refreshLegs (s : State) : State :=
  if s.isl then s.each (List.range 12) (fun s k => s.set (LPW.STAT_OUT k) (s.legCode k)) else s

/-- TRP.OUT_STAT follows the standing latches (R127); a halt's latch covers every leg (R126), which the halt
reaction holds (R133). [assumptions 32, 225 (DEDUCED)] -/
def State.outStat (s : State) : State :=
  let halt := if s.latches.any (fun l => l.src == 13 || l.src == 14) then s.allLegs else 0
  ((s.set TRP.OUT_STAT_LEGS (s.hizLegs ||| s.ascLegs ||| halt)).setB TRP.OUT_STAT_CELLS
    (s.trippedCells != 0)).refreshLegs

/-- A source's condition begins or ends; from its end it is inactive (R131). -/
def State.srcActive (s : State) (src : Nat) (b : Bool) : State :=
  if b then { s with srcAct := s.srcAct ||| 1 <<< src }
  else if s.srcAct.testBit src then
    { s with srcAct := s.srcAct ^^^ 1 <<< src, inactAt := SMap.put (fun _ => 0) s.inactAt src s.now }
  else s

abbrev tINACT_SHORT : Nat := 0x42

/-- The instant at which the next tick begins. -/
def State.nextTick (s : State) : Nat := (s.epochAt + (s.nowTick + 1) * (tTick : Int)).toNat

/-- A source has tripped in the present tick. -/
def State.tripsNow (s : State) (src : Nat) : Bool :=
  match SMap.look s.tripAt src with
  | some t => s.tickOf t == s.nowTick
  | none => false

/-- A source turns active in the tick of its REARM: the write is refused after all, the latch stands as it stood, and so does
the halt reaction of DBG and CLK (R131). [assumption 224 (DEDUCED)] -/
def State.unRearm (s : State) (src : Nat) : State :=
  match s.rearmed with
  | none => s
  | some r =>
    let mine := r.latches.filter (fun l => l.src == src)
    if mine.isEmpty || s.tickOf r.at_ != s.nowTick then s
    else
      let rest := r.latches.filter (fun l => l.src != src)
      let s := { s with latches := mine ++ s.latches, rearmed := some { r with latches := rest } }.set (latchFld src) 1
      let s := if (src == 13 || src == 14) && s.haltMode == 0 then
          { s with haltMode := r.halt.1, frozen := r.halt.2 }.setB MOD.TB_STAT_FRZ_ACTIVE (r.halt.1 == 2)
        else s
      let s := s.iff (rest.isEmpty && !r.had) (fun s =>
        s.setReg (HDR.IRQ_RAW TRP.page) (s.reg (HDR.IRQ_RAW TRP.page) &&& 0xFFFFFFFB))
      (s.irq TRP.page 1).refuse TRP.page 0x7C tINACT_SHORT

/-- A trip registers: FLAG and LATCH of its source, the covered outputs, FIRST, the event log, and R69 for the
stacks with a covered member (R127–R130). A leg a machine already holds latched changes to the action of this latch (R239). -/
def State.trip (s : State) (src hiz asc cells : Nat) : State :=
  let s := { s.unRearm src with tripAt := SMap.ins s.tripAt src s.now }
  let hiz := hiz &&& s.allLegs
  let asc := asc &&& s.allLegs
  let first := s.latches.isEmpty
  let sameTick := !first && s.tickOf s.firstAt == s.nowTick && src < s.get TRP.FIRST_SRC
  let s := if first || sameTick then
      { ((s.set TRP.FIRST_SRC src).set TRP.FIRST_PIDX (s.pidx % 2 ^ 24)) with firstAt := s.now }
    else s
  let s := (s.set (flagFld src) 1).set (latchFld src) 1
  let old := s.latches.map (fun l =>
    if src == 12 && l.src == 12 then { l with hiz := l.hiz &&& (0xFFF ^^^ asc), asc := l.asc &&& (0xFFF ^^^ hiz) } else l)
  let s := { s with latches := old ++ [(⟨src, hiz, asc, cells⟩ : Latch)] }
  let s := ((s.irq TRP.page 0).outStat).log TRP.page 0 src s.pidx
  s.each ((List.range 8).filter (fun k => (s.members k).any (fun n => cells.testBit n))) State.stackTrip

/-- A trip of every output of the module (R126, R127). -/
def State.tripAll (s : State) (src : Nat) : State := s.trip src 0xFFF 0 allCells

/-- Source OVR: it fires and is inactive from the next tick (R24, R131). -/
def State.tripOvr (s : State) : State :=
  { (s.tripAll 8) with inactAt := SMap.put (fun _ => 0) s.inactAt 8 s.nextTick }

/-! ### Machines (R220, R236, R239, R253) -/

abbrev mOFF : Nat := 0
abbrev mPRECHG : Nat := 1
abbrev mRUN : Nat := 2
abbrev mEXTRAP : Nat := 3
abbrev mASC : Nat := 4
abbrev mINHIBIT : Nat := 5

/-- The legs of a machine under TOPO (R220). -/
def State.machLegs (s : State) (m : Nat) : List Nat :=
  match s.get MCX.CFG_TOPO, m with
  | 1, 0 => [0, 1, 2]
  | 2, 0 => [0, 1, 2]
  | 2, 1 => [3, 4, 5]
  | 3, 0 => [0, 1, 2, 3, 4, 5]
  | _, _ => []

/-- MCX source 12 stays active while a machine is in ASC or INHIBIT or a chopper is in FAULT (R239). -/
def State.mcxSource (s : State) : State :=
  s.srcActive 12 (([0, 1].any (fun m => mASC ≤ s.get (MCX.M_STAT_STATE m)))
    || [0, 1, 2, 3].any (fun c => s.get (MCX.C_STAT_STATE c) == 3))

/-- The machine enters ASC or INHIBIT: its latch stands with action STATIC_LOW or HIZ (R236, R239). -/
def State.machSafe (s : State) (m st cause : Nat) : State :=
  let lm := maskOf (s.machLegs m)
  let s := ((s.set (MCX.M_STAT_STATE m) st).set (MCX.M_STAT_CAUSE m) cause).irq MCX.page 2
  let s := s.iff (s.get MCX.CFG_TOPO == 3) (fun s => s.set (MCX.M_STAT_STATE 1) st)
  let s := if st == mASC then s.trip 12 0 lm 0 else s.trip 12 lm 0 0
  s.mcxSource

/-- Machines in PRECHG, RUN or EXTRAP become INHIBIT, or ASC, with CAUSE CMD (R253, R277). -/
def State.machForce (s : State) (st : Nat) (ms : List Nat) : State :=
  s.each ((if s.get MCX.CFG_TOPO == 3 then ms.filter (· == 0) else ms).filter
    (fun m => s.get (MCX.M_STAT_STATE m) ∈ [mPRECHG, mRUN, mEXTRAP])) (fun s m => s.machSafe m st 1)

/-! ### Settle (R332) -/

abbrev stlOFF : Nat := 0
abbrev stlALONE : Nat := 1
abbrev stlSYNCING : Nat := 2
abbrev stlSTANDBY : Nat := 3
abbrev stlACTIVE : Nat := 4
abbrev stlRETURN : Nat := 5

/-- A module in STANDBY or RETURN goes back to SYNCING, SYNC_LOST raised (R332). Leaving RETURN clears RET_OK.
[assumption 115 (DEDUCED)] -/
def State.stlSyncLost (s : State) : State :=
  if s.get STL.STAT_STATE == stlSTANDBY || s.get STL.STAT_STATE == stlRETURN then
    ((s.set STL.STAT_STATE stlSYNCING).set STL.RET_RET_OK 0).irq STL.page 3
  else s

/-! ### Disarm (R413, R414) -/

abbrev disCMD : Nat := 1
abbrev disSAFETY : Nat := 2
abbrev disSTATE : Nat := 3
abbrev disLIFECYCLE : Nat := 4
abbrev disCLOCK : Nat := 5
abbrev disVIN : Nat := 6
abbrev disTHERMAL : Nat := 7
abbrev disRESET : Nat := 8

/-- Refusals of ARM by ARM_OK and by the matrix (R420). -/
abbrev pSAFETY : Nat := 0x43
abbrev pLIFECYCLE : Nat := 0x44

/-- The power stage disarms: a pending ARM fails, one written in this bus cycle being refused where ARM_OK or the matrix
turns against it (R416, R443); an ARMED stage goes to DISARMED with its first cause, stacks go to
PRECHARGE, machines to INHIBIT and a Settle standby to SYNCING (R413, R414, R332). While neither holds, nothing
changes (R416). [assumption 17 (DEDUCED)] -/
def State.disarm (s : State) (cause : Nat) : State :=
  let s := if s.on PWR.STAT_ARM_PEND then
      (let t := s.set PWR.STAT_ARM_PEND 0
       let code := if cause = disSAFETY then pSAFETY else pLIFECYCLE
       if (cause = disSAFETY ∨ cause = disLIFECYCLE) ∧ s.pwr.armAt = some (s.now / tBus) then t.refuse PWR.page 0x48 code
       else (t.set PWR.STAT_DIS_CAUSE cause).irq PWR.page 2) else s
  if s.armed then
    let s := ((s.set PWR.STAT_ARMED 0).set PWR.STAT_DIS_CAUSE cause).irq PWR.page 1
    let s := s.each (List.range 8) State.stackTrip
    let s := s.machForce mINHIBIT [0, 1]
    s.stlSyncLost.refreshLegs
  else s

/-! ### The OWN line (R327, R329) -/

/-- The instant by which a schedule frame of this period has been sent whole: the burst begins 0.1 µs after the close of
the Grainer and solver window, with a TMARK, the SOF, the data blocks and the EOF of 25.6 ns each (R145, R155, R163).
[assumption 255 (DEDUCED)] -/
def State.frameEnd (s : State) (f : Frame) : Nat :=
  s.bndAt + s.get TBS.PER_WIN1_W_GD * t10 + 100 * tNs + (f.len + 3) * 24576

/-- DRIVE falls: a schedule frame under way is cut off (R327). [assumption 255 (DEDUCED)] -/
def State.driveDrop (s : State) : State :=
  let cut := s.on STL.STAT_DRIVE && s.window == 3
  let s := s.set STL.STAT_DRIVE 0
  s.iff cut (fun s => s.each (List.range 48) (fun s n => match (s.lane n).schedTx with
    | some f => if s.now < s.frameEnd f then s.modLane n (fun l => { l with schedTx := none }) else s
    | none => s))

/-- The module asserts its own line (R327, R328). [assumption 111 (DEDUCED)] -/
def State.ownAssert (s : State) : State :=
  if s.on STL.STAT_OWN_HELD then s else { s.set STL.STAT_OWN_HELD 1 with stl := { s.stl with ownAt := s.now } }

/-- The lanes carry neighbour messages only: the address is another's, or the module waits to step (R311, R313). -/
def State.nbrOnly (s : State) : Bool := s.on TRL.ID_ADDR_CONFLICT || s.on TRL.ID_JOIN_ARMED

/-- A module that holds its OWN line releases it; DRIVE falls with it, a claim under way ends, a module that was ACTIVE in
a pair is so no longer, and the cause, where there is one, is reported to the partner (R329, R332). -/
def State.ownRelease (s : State) (cause : Nat) : State :=
  let s := { s with stl := { s.stl with claim := none } }
  if s.on STL.STAT_OWN_HELD then
    let s := ((s.set STL.STAT_OWN_HELD 0).driveDrop).irq STL.page 1
    let s := s.iff (cause != 0 && s.on STL.CFG_EN && !s.nbrOnly) (fun s => { s with stl := { s.stl with report := some cause } })
    s.iff (s.get STL.STAT_STATE == stlACTIVE) (fun s => s.set STL.STAT_STATE stlSYNCING)
  else s

/-! ### Claims lost to a trip input (R492) -/

/-- The page function of a displaced holder is off and reports CLAIM_LOST; PIN records the loss (R492). -/
def State.pinLost (s : State) (r : Nat) (h : Claim) : State :=
  let s := (s.set PIN.LOST0_RES ((r / 256) + 256 * (r % 256))).set PIN.LOST0_DISPLACED (h.cls + 256 * h.inst)
  ((s.set PIN.LOST1_PIDX (s.pidx % 2 ^ 32)).bump PIN.CNT_LOST).irq PIN.page 1

end Sys2Proof.Machine
end

