-- ==== Sys2Proof/Machine/Operands.lean ====
section
/-! DEFINITION. Number formats of operands: FP32, Q7.24 and INT of the loop engines (R199), which the published
outputs and the latched inputs also use, and the byte fields of frames. -/

namespace Sys2Proof.Machine

/-- A power of two with an integer exponent. -/
def pow2 (e : Int) : Rat := if 0 ≤ e then (2 : Rat) ^ e.toNat else 1 / (2 : Rat) ^ (-e).toNat

/-- Round a non-negative rational to the nearest natural number, halves to even. [assumption 54 (DEDUCED)] -/
def roundEven (x : Rat) : Nat :=
  let f := x.floor.toNat
  let r := x - f
  if r < 1 / 2 then f else if 1 / 2 < r then f + 1 else if f % 2 = 0 then f else f + 1

/-- Round a rational to the nearest integer, halves to even. -/
def roundEvenI (x : Rat) : Int := if 0 ≤ x then (roundEven x : Int) else -(roundEven (-x) : Int)

/-- The value of an FP32 word: subnormal words are 0 (R199). The block never makes an infinity or a NaN; such a
word read from outside counts as the largest magnitude of its sign. -/
def f32Rat (w : Word) : Rat :=
  let e := getBits w 23 8
  let m := getBits w 0 23
  let sg : Rat := if w.msb then -1 else 1
  if e = 0 then 0
  else if e = 255 then sg * (2 ^ 24 - 1 : Nat) * pow2 104
  else sg * ((2 ^ 23 + m : Nat) : Rat) * pow2 ((e : Int) - 150)

/-- The largest exponent `e` with 2^e ≤ x, for positive x. -/
def ilog2 (x : Rat) : Int :=
  let e := (Nat.log2 x.num.natAbs : Int) - (Nat.log2 x.den : Int)
  if pow2 e ≤ x then e else e - 1

/-- The FP32 word nearest a rational, halves to even, subnormal results flushed to 0 of their sign; none where the
result overflows (R199). -/
def ratF32 (x : Rat) : Option Word :=
  if x = 0 then some 0
  else
    let a := if x < 0 then -x else x
    let e := ilog2 a
    let m := roundEven (a * pow2 (23 - e))
    let (e, m) := if m = 2 ^ 24 then (e + 1, 2 ^ 23) else (e, m)
    let sg : Nat := if x < 0 then 2 ^ 31 else 0
    if e < -126 then
      some (BitVec.ofNat 32 (if roundEven (a * pow2 149) = 2 ^ 23 then sg + 2 ^ 23 else sg))
    else if 127 < e then none
    else some (BitVec.ofNat 32 (sg + (e + 127).toNat * 2 ^ 23 + (m - 2 ^ 23)))

/-- The largest FP32 of a sign, for a value that does not fit. -/
def f32Max (neg : Bool) : Word := if neg then 0xFF7FFFFF else 0x7F7FFFFF

/-- The nearest FP32, saturating at the largest finite value. -/
def toF32 (x : Rat) : Word := (ratF32 x).getD (f32Max (x < 0))

/-- The value of a Q7.24 word. -/
def qRat (w : Word) : Rat := (w.toInt : Rat) / 16777216

/-! ### Records and bindings of contexts (R186, R195) -/

/-- The host address of a byte of an engine's local memory. -/
def leAddr (e off : Nat) : Nat := 0x30000000 + 0x20000 * e + off
/-- The record of context `c`. -/
def leRec (c : Nat) : Nat := leAddr (c / 16) (0x1C000 + 0x400 * (c % 16))
/-- State word, coefficient word, and committed output of a context. -/
def leS (c i : Nat) : Nat := leRec c + 4 * i
def leC (c i : Nat) : Nat := leRec c + 0x100 + 4 * i
def leO (c i : Nat) : Nat := leRec c + 0x300 + 4 * i

/-- A binding (R195). -/
structure LeBind where
  cls : Nat
  fmt : Nat
  sel : Nat
  scale : Word
  deriving DecidableEq, Repr

/-- The binding at an address. -/
def State.bindAt (s : State) (a : Nat) : LeBind :=
  let w := s.mword a
  ⟨getBits w 0 4, getBits w 4 1, getBits w 16 12, s.mword (a + 4)⟩

def State.inBind (s : State) (c i : Nat) : LeBind := s.bindAt (leRec c + 0x200 + 8 * i)
def State.outBind (s : State) (c i : Nat) : LeBind := s.bindAt (leRec c + 0x280 + 8 * i)

/-! ### Bytes of frames, little-endian (R151) -/

/-- `n` bytes of a natural number, least significant first. -/
def leBytes (n v : Nat) : List Byte := (List.range n).map (fun i => BitVec.ofNat 8 (v >>> (8 * i)))

/-- The natural number `n` bytes spell from byte `i`, least significant first; missing bytes read 0. -/
def leNat (b : List Byte) (i n : Nat) : Nat :=
  (List.range n).foldl (fun a j => a + (b.getD (i + j) 0).toNat * 2 ^ (8 * j)) 0

/-- One step of a reflected CRC-32 over a byte. -/
def crcByte (poly : Nat) (c : Nat) (b : Byte) : Nat :=
  (List.range 8).foldl (fun c _ => if c % 2 = 1 then (c / 2) ^^^ poly else c / 2) (c ^^^ b.toNat)

/-- CRC-32C of R153: reflected polynomial 0x82F63B78, initial value and final XOR of ones. -/
def crc32c (bs : List Byte) : Nat := (bs.foldl (crcByte 0x82F63B78) 0xFFFFFFFF) ^^^ 0xFFFFFFFF

end Sys2Proof.Machine
end

