-- ==== Sys2Proof/Machine/Bus.lean ====
section
/-! DEFINITION. Accesses to the RAMs of the host map as masters make them: regions and words (R448), poisoned words
(R450, R451), the MPU's permission for DMA and a DMA channel that stops on an error (R494, R495). -/

namespace Sys2Proof.Machine

/-- The region of R448 a host address lies in, and the index of its 64-bit word. -/
def ramWord (a : Nat) : Option (Nat × Nat) :=
  if 0x20000000 ≤ a ∧ a < 0x21000000 then some (0, (a - 0x20000000) / 8)
  else if 0x28000000 ≤ a ∧ a < 0x28080000 then some (17, (a - 0x28000000) / 8)
  else if 0x30000000 ≤ a ∧ a < 0x30200000 then
    some (1 + (a - 0x30000000) / 0x20000, (a - 0x30000000) % 0x20000 / 8)
  else none

/-- The words of a region (R448). -/
def regionWords (r : Nat) : Nat :=
  if r = 0 then 2097152 else if r ≤ 16 then 16384 else if r = 17 then 65536 else if r ≤ 19 then 8192 else 0

/-- The host address of a word of a region in the host map; 0 for the private RAMs. -/
def wordAddr (r i : Nat) : Nat :=
  if r = 0 then 0x20000000 + 8 * i else if r ≤ 16 then 0x30000000 + 0x20000 * (r - 1) + 8 * i
  else if r = 17 then 0x28000000 + 8 * i else 0

/-- The key of a word among the poisoned. -/
abbrev wordKey (r i : Nat) : Nat := 0x400000 * r + i

def State.isPoison (s : State) (r i : Nat) : Bool := SMap.get (fun _ => false) s.poison (wordKey r i)
def State.setPoison (s : State) (r i : Nat) (b : Bool) : State :=
  { s with poison := SMap.put (fun _ => false) s.poison (wordKey r i) b }

/-- Addresses `a` to `a + n − 1` lie in the RAMs of the host map. -/
def inRam (a n : Nat) : Bool := (List.range n).all (fun i => (ramWord (a + i)).isSome)

/-- Consecutive bytes of RAM. -/
def State.bytesAt (s : State) (a n : Nat) : List Byte := (List.range n).map (fun i => s.byte (a + i))

/-- Store consecutive bytes of RAM. -/
def State.putBytes (s : State) (a : Nat) (bs : List Byte) : State :=
  s.each bs.zipIdx (fun s (q : Byte × Nat) => s.setByte (a + q.2) q.1)

/-- Addresses `a` to `a + n − 1` lie in the boot ROM (R479). -/
def inRom (a n : Nat) : Bool := decide (a + n ≤ 0x10000)

/-- The decoder of a RAM (R447): the data of 72 stored bits; none where they cannot be corrected.
[assumption 168 (DESIGN CHOICE)] -/
def eccDecode (d : BitVec 64) (c : BitVec 8) : Option (BitVec 64) :=
  let syn := c ^^^ Config.eccCheck d
  if syn = 0 then some d
  else
    let b := Config.eccBit syn
    if b < 64 then some (d ^^^ (1#64 <<< b)) else if b < 72 then some d else none

/-- What the decoder makes of a word that was written raw (R458); none for one written through the encoder. -/
def State.rawWord (s : State) (r k : Nat) : Option (Option (BitVec 64)) :=
  if r = 0 then (SMap.get (fun _ => none) s.memx.raw k).map (fun w => eccDecode w.1 w.2) else none

/-- A read of the word ends in a bus error: it is poisoned, or cannot be corrected (R451, R458). -/
def State.unreadable (s : State) (r k : Nat) : Bool := s.isPoison r k || s.rawWord r k == some none

/-- A byte of memory as a read delivers it. -/
def State.readByte (s : State) (a : Nat) : Byte :=
  match ramWord a with
  | some (r, k) => match s.rawWord r k with
    | some (some d) => BitVec.ofNat 8 (d.toNat >>> (8 * (a % 8)))
    | _ => s.byte a
  | none => s.byte a

/-- A word of system SRAM is written through the encoder. -/
def State.encoded (s : State) (r k : Nat) : State :=
  if r = 0 then { s with memx := { s.memx with raw := SMap.del s.memx.raw k } } else s

/-- A word is written whole in this bus cycle: what poison it held ends (R451, R473). [assumption 164 (DEDUCED)] -/
def State.wholeWord (s : State) (r k : Nat) : State :=
  let c := s.now / tBus
  let old := if s.memx.fullAt = c then s.memx.full else []
  let s := (s.setPoison r k false).encoded r k
  { s with memx := { s.memx with fullAt := c, full := wordKey r k :: old } }

/-- The word has been written whole in this bus cycle. -/
def State.justWritten (s : State) (r k : Nat) : Bool :=
  s.memx.fullAt == s.now / tBus && s.memx.full.contains (wordKey r k)

/-- A read of memory: none for a bus error, at an address outside the memories, at a poisoned word or at
one that cannot be corrected (R451, R458, R479). The
boot ROM holds bytes the spec does not give. [assumption 212 (DESIGN CHOICE)] -/
def State.ramRead (s : State) (a n : Nat) : Option (List Byte) :=
  if inRom a n then some ((List.range n).map (fun i => Config.romByte (a + i)))
  else if (List.range n).all (fun i => match ramWord (a + i) with
      | some (r, k) => !s.unreadable r k
      | none => false) then some ((List.range n).map (fun i => s.readByte (a + i))) else none

/-- A write to memory within one 64-bit word: none for a bus error. A write of all 64 bits ends poison; a narrower one reads
the word first, and changes nothing where that read fails (R447, R451). The boot ROM is read-only: a write has no effect (R479).
[assumption 213 (DEDUCED)] -/
def State.ramWrite (s : State) (a : Nat) (bs : List Byte) : Option State :=
  if inRom a bs.length then some s
  else match ramWord a with
  | none => none
  | some (r, k) =>
    if bs.length = 8 then some ((s.wholeWord r k).putBytes a bs)
    else if s.unreadable r k then none
    else match s.rawWord r k with
      | some (some d) => some (((s.encoded r k).putBytes (a - a % 8) (leBytes 8 d.toNat)).putBytes a bs)
      | _ => some (s.putBytes a bs)

/-- The pieces of a write that lie in one 64-bit word each, as addresses and bytes. -/
def wordPieces (a : Nat) (bs : List Byte) : List (Nat × List Byte) :=
  (List.range ((a + bs.length + 7) / 8 - a / 8)).map (fun j =>
    let lo := max a (8 * (a / 8 + j))
    (lo, (bs.drop (lo - a)).take (8 * (a / 8 + j) + 8 - lo)))

/-- A write of bytes, word by word, by a unit that takes no bus error: a word that answers one stays as it is (R451).
[assumption 171 (DEDUCED)] -/
def State.unitWrite (s : State) (a : Nat) (bs : List Byte) : State :=
  s.each (wordPieces a bs) (fun s q => (s.ramWrite q.1 q.2).getD s)

/-- The number little-endian bytes spell. -/
def bytesWord : List Byte → Nat
  | [] => 0
  | b :: t => b.toNat + 256 * bytesWord t

/-- The MPU permits a DMA access: one enabled region holds it whole (R495). -/
def State.mpuOk (s : State) (a n : Nat) (write : Bool) : Bool :=
  (List.range 16).any (fun r =>
    s.on (MPU.REG_LIMIT_EN r) && s.on (if write then MPU.REG_LIMIT_DMA_W r else MPU.REG_LIMIT_DMA_R r)
      && decide (s.get (MPU.REG_BASE_BASE r) * 4096 ≤ a) && decide (a + n ≤ (s.get (MPU.REG_LIMIT_LIMIT r) + 1) * 4096))

/-- A DMA channel stops on a bus error or an MPU refusal (R494, R495). -/
def State.dmaStop (s : State) (ch : Nat) (mpu : Bool) : State :=
  let s := ((s.set (DMA.CH_CFG_ERR ch) 1).set (DMA.CH_CFG_GO ch) 0).irq DMA.page ch
  s.iff mpu (fun s => s.irq MPU.page 0)

/-- A DMA write of bytes within a 64-bit word, on a channel: whether it was made, and the state after. -/
def State.dmaWrite (s : State) (ch a : Nat) (bs : List Byte) : Bool × State :=
  if !s.mpuOk a bs.length true then (false, s.dmaStop ch true)
  else match s.ramWrite a bs with
    | some t => (true, t)
    | none => (false, s.dmaStop ch false)

/-- A DMA read of bytes on a channel. -/
def State.dmaRead (s : State) (ch a n : Nat) : Option (List Byte) × State :=
  if !s.mpuOk a n false then (none, s.dmaStop ch true)
  else match s.ramRead a n with
    | some bs => (some bs, s)
    | none => (none, s.dmaStop ch false)

/-- Bytes in pieces of `n`, the last one shorter. -/
def pieces (n : Nat) (bs : List Byte) : List (List Byte) :=
  (List.range ((bs.length + n - 1) / n)).map (fun i => (bs.drop (n * i)).take n)

/-- A DMA write of consecutive bytes in pieces of `n`: it ends at the first that fails. [assumption 95 (DEDUCED)] -/
def State.dmaPut (s : State) (ch a n : Nat) (bs : List Byte) : Bool × State :=
  (pieces n bs).zipIdx.foldl (fun (r : Bool × State) (q : List Byte × Nat) =>
    if r.1 then r.2.dmaWrite ch (a + n * q.2) q.1 else r) (true, s)

/-! ### Flash (R470) -/

/-- What an unlisted byte of flash reads as: erased. [assumption 4 (DESIGN CHOICE)] -/
def norDefault (_ : Nat) : Byte := 0xFF

/-- A byte of the internal NOR (R470). [assumption 4 (DESIGN CHOICE)] -/
def State.norByte (s : State) (a : Nat) : Byte := SMap.get norDefault s.nvl.nor a
def State.norBytes (s : State) (a n : Nat) : List Byte := (List.range n).map (fun i => s.norByte (a + i))
def State.norPut (s : State) (a : Nat) (bs : List Byte) : State :=
  { s with nvl := { s.nvl with nor := bs.zipIdx.foldl (fun m (q : Byte × Nat) => SMap.put norDefault m (a + q.2) q.1) s.nvl.nor } }

end Sys2Proof.Machine
end

