-- ==== Sys2Proof/Machine/Carriers.lean ====
section
/-! DEFINITION. Carriers and cell channels: carrier events, transfers of captured values, and a channel brought up to an
instant (R107–R116). Station time is counted from the epoch, in ticks or in fine steps of a sixteenth of a tick. -/

namespace Sys2Proof.Machine

/-! ### Station time in ticks -/

/-- The instant of the clock at which a fine step of station time begins. -/
def State.ofFine (s : State) (x : Int) : Nat := (s.epochAt + x * (tFine : Int)).toNat

/-! ### Carriers (R107–R110) -/

/-- The valley at or before a tick, and the length in ticks of the carrier period it opens. -/
def Chan.valleyAt (c : Chan) (t : Int) : Int × Int :=
  let p : Int := 2 * (c.act.prd : Int)
  if t < c.v0 then (c.v0 - p * ((c.v0 - t + p - 1) / p), p)
  else if t < c.v0 + p + c.dl then (c.v0, p + c.dl)
  else (let v1 := c.v0 + p + c.dl; (v1 + p * ((t - v1) / p), p))

/-- The first valley or peak after a fine step, and whether it is a valley (R107). -/
def Chan.nextEvent (c : Chan) (x : Int) : Int × Bool :=
  let (v, l) := c.valleyAt (x / 16)
  let pk := 16 * v + 8 * l
  if x < pk then (pk, false) else (16 * (v + l), true)

/-- The lengthening of R110 that brings the next valley onto epoch + PHASE + j × T_car: the difference reduced into
(−PRD, PRD]. [assumption 30 (DEDUCED)] -/
def reGrid (prd phase v : Int) : Int :=
  let r := (phase - v) % (2 * prd)
  if prd < r then r - 2 * prd else r

/-- At a valley the transferred PRD and PHASE take over (R110); an unsynchronised carrier only takes PRD (R108).
[assumption 222 (DEDUCED)] -/
def Chan.turnAt (c : Chan) (sync : Bool) (v : Int) : Chan :=
  match c.turn with
  | none => c
  | some (p, ph) =>
    { c with act := { c.act with prd := p, phase := ph }, v0 := v, dl := if sync then reGrid p ph v else 0, turn := none }

/-- A transfer moves every field of the channel together; PRD and PHASE then wait for a valley (R110, R112). -/
def Chan.moveTo (c : Chan) (v : ChVals) : Chan :=
  { c with
    act := { v with prd := c.act.prd, phase := c.act.phase }
    turn := if v.prd = c.act.prd ∧ v.phase = c.act.phase then none else some (v.prd, v.phase) }

/-- The values a channel will hold once its turn has passed. -/
def Chan.goal (c : Chan) : ChVals :=
  match c.turn with
  | none => c.act
  | some (p, ph) => { c.act with prd := p, phase := ph }

/-- RLD selects an event (R112). -/
def rldTakes (rld : Nat) (valley : Bool) : Bool :=
  match rld with
  | 1 => valley
  | 2 => !valley
  | 3 => true
  | _ => false

/-- One carrier event: a transfer where RLD selects it, then the turn of a valley. -/
def Chan.event (c : Chan) (tr : Chan → Chan) (rld : Nat) (sync : Bool) (e : Int) (valley : Bool) : Chan :=
  let c := if rldTakes rld valley then tr c else c
  if valley then c.turnAt sync (e / 16) else c

/-- Act on every carrier event after `c.pos` up to and including fine step `x`. Where nothing waits, no event changes
anything. -/
def Chan.runTo (tr : Chan → Chan) (rld : Nat) (sync : Bool) : Nat → Chan → Int → Chan
  | 0, c, x => { c with pos := max c.pos x }
  | f + 1, c, x =>
    let (e, valley) := c.nextEvent c.pos
    if x < e then { c with pos := max c.pos x }
    else
      let d := c.event tr rld sync e valley
      Chan.runTo tr rld sync f { d with pos := e } x

/-! ### Cell channels (R112–R116) -/

/-- The shadow of a cell channel: its registers (R112). A DAB channel has no compare registers (R116). -/
def State.chShadow (s : State) (ch : Nat) : ChVals :=
  { prd := s.get (MODCH.PRD_PRD ch), phase := s.get (MODCH.PHASE_PHASE ch),
    cmpa := if ch % 2 = 1 then 0 else s.get (MODCH.CMPA_CMPA ch),
    cmpb := if ch % 2 = 1 then 0 else s.get (MODCH.CMPB_CMPB ch),
    dta := s.get (MODCH.DT_DT_A ch), dtb := s.get (MODCH.DT_DT_B ch), minpw := s.get (MODCH.MINPW_MINPW ch), mode := 0 }

/-- A cell channel is claimed by GRN or DSV (R115). [assumption 35 (DEDUCED)] -/
def State.chOwned (s : State) (ch : Nat) : Bool := (s.claim (resKey 1 ch)).cls ∈ [2, 3]

/-- A cell channel that uses BOUNDARY and takes no host write of CMPA, CMPB or PHASE: claimed by GRN in PSC or NLC
mode, or a DAB channel claimed by DSV (R116). [assumption 223 (DEDUCED)] -/
def State.chBound (s : State) (ch : Nat) : Bool :=
  let h := s.claim (resKey 1 ch)
  (h.cls == 2 && s.get (GRN.STK_CFG_MODE h.inst) != 2) || (h.cls == 3 && ch % 2 == 1)

/-- The reload events in force (R112, R116). -/
def State.chRld (s : State) (ch : Nat) : Nat := if s.chBound ch then 0 else s.get (MODCH.CFG_RLD ch)

/-- A cell channel runs: EN is 1, or GRN or DSV holds it. [assumption 35 (DEDUCED)] -/
def State.chRuns (s : State) (ch : Nat) : Bool := s.on (MODCH.CFG_EN ch) || s.chOwned ch

/-- An update lock holds the channel (R115). -/
def State.chLocked (s : State) (ch : Nat) : Bool :=
  !s.chOwned ch && (s.on MOD.CFG_GLB_LOCK || s.on (MODCH.CHPG_CTL_UPD_LOCK (ch / 8)))

/-- The transfer of a cell channel's captured values where they are eligible in period `k` (R113, R115). -/
def State.chTr (s : State) (ch k : Nat) (c : Chan) : Chan :=
  match c.cap with
  | some (v, e) => if e ≤ k && !s.chLocked ch then { c.moveTo v with cap := none } else c
  | none => c

/-- Something of a cell channel waits for a carrier event. -/
def State.chWaits (s : State) (ch k : Nat) (c : Chan) : Bool :=
  c.turn.isSome || (s.chRld ch != 0 && !s.chLocked ch && (match c.cap with | some (_, e) => decide (e ≤ k) | none => false))

/-- A cell channel acted on up to fine step `x` in period `k`. -/
def State.chAt (s : State) (ch k : Nat) (x : Int) : Chan :=
  let c := s.chan ch
  if s.chRuns ch && s.chWaits ch k c then c.runTo (s.chTr ch k) (s.chRld ch) true 400 x else { c with pos := max c.pos x }

/-- PEND of a cell channel: captured values await their transfer (R140). -/
def State.putChan (s : State) (ch : Nat) (c : Chan) : State :=
  (s.setChan ch c).setB (MODCH.STAT_PEND ch) c.cap.isSome

/-- A cell channel brought up to the end of the present tick, with the values and the lock that stand. -/
def State.chSync (s : State) (ch : Nat) : State := s.putChan ch (s.chAt ch s.pidx (16 * s.nowTick + 15))

end Sys2Proof.Machine
end

