-- ==== Sys2Proof/Machine/CellStack.lean ====
section
/-! DEFINITION. Cell stack control: stacks, cell and stack commands, and the Grainer's pass of a period (R38–R78).
Voltages are carried in 0.1 V, the unit of the status frame and of the GRN registers. -/

namespace Sys2Proof.Machine

/-! ### Names of cell states, operations and codes (R59, R60, R81) -/

abbrev ckABSENT : Nat := 0
abbrev ckBYPASSED : Nat := 1
abbrev ckSPARE : Nat := 2
abbrev ckCHARGING : Nat := 3
abbrev ckACTIVE : Nat := 4
abbrev ckFAULTED : Nat := 5
abbrev ckTEST : Nat := 6

abbrev gCARRIER : Nat := 0x40
abbrev gN_MIN : Nat := 0x41
abbrev gPCH_INCOMPLETE : Nat := 0x42
abbrev gSTATE : Nat := 0x43
abbrev gNOT_MEMBER : Nat := 0x44

/-- The state of cell `n` (R59). -/
def State.cst (s : State) (n : Nat) : Nat := s.get (GRN.CELL_STATE_STATE (n / 8) (n % 8))

/-- Put cell `n` into a state (R59); one that is not ACTIVE reads RANK 63 (R50). -/
def State.setCst (s : State) (n st : Nat) : State :=
  (s.set (GRN.CELL_STATE_STATE (n / 8) (n % 8)) st).iff (st != ckACTIVE) (fun s => s.set (GRN.RANK_RANK (n / 4) (n % 4)) 63)

/-- The uplink of cell `n` is stale (R54), or its V1 was not measured (R158). [assumption 14 (DEDUCED)] -/
def State.vStale (s : State) (n : Nat) : Bool :=
  s.on (GRN.CELL_STATE_STALE (n / 8) (n % 8)) || (s.cell n).unmeas.testBit 0

/-- Members of a stack in a state. [assumption 14 (DEDUCED)] -/
def State.inState (s : State) (k st : Nat) : List Nat := (s.members k).filter (fun n => s.cst n == st)

/-- The active set of a stack. -/
def State.activeOf (s : State) (k : Nat) : List Nat := s.inState k ckACTIVE

/-- Members available at PRECHARGE (R66). -/
def State.availableOf (s : State) (k : Nat) : List Nat :=
  (s.members k).filter (fun n => s.cst n == ckACTIVE || s.cst n == ckSPARE || s.cst n == ckCHARGING)

/-- The mean voltage of the ACTIVE cells that are not stale, or the last mean where there is none (R48).
[assumption 216 (DEDUCED)] -/
def State.vMean (s : State) (k : Nat) : Rat :=
  let vs := ((s.activeOf k).filter (fun n => !s.vStale n)).map (fun n => (s.cell n).v1)
  if vs.isEmpty then (s.stack k).vbar else ((vs.foldl (· + ·) 0 : Nat) : Rat) / (vs.length : Rat)

/-- Distance of a voltage from a mean. -/
def vDist (v : Nat) (vb : Rat) : Rat := if vb ≤ (v : Rat) then (v : Rat) - vb else vb - (v : Rat)

/-- A cell lies within REINS_TOL of V̄ (R62). -/
def State.inTol (s : State) (n : Nat) (vb : Rat) : Bool :=
  decide (vDist (s.cell n).v1 vb ≤ (s.get GRN.VLIM3_REINS_TOL : Rat))

/-! ### Enabling, mode and membership (R40, R520, R521) -/

/-- The AFE carrier periods of the listed cells agree (R40). -/
def State.sameCarrier (s : State) (ns : List Nat) : Bool :=
  ns.all (fun n => ns.all (fun m => s.get (MODCH.PRD_PRD (2 * n)) == s.get (MODCH.PRD_PRD (2 * m))))

/-- Whether the Grainer can claim a cell channel for stack `k`: free or its own; at an enable in DIRECT mode (`direct`) a
context output that holds an AFE channel becomes its co-user (R40, R520). -/
def State.grnCan (s : State) (k ch : Nat) (direct : Bool) : Bool :=
  s.claimable (resKey 1 ch) 2 k || (direct && ch % 2 == 0 && (s.claim (resKey 1 ch)).cls == 4)

/-- The Grainer takes a cell channel for stack `k`, a context output becoming its co-user (R520). -/
def State.grnTake (s : State) (k ch : Nat) : State :=
  let s := s.chSync ch
  let h := s.claim (resKey 1 ch)
  if h.cls == 4 then s.setClaim (resKey 1 ch) ⟨2, k, h.cls, h.inst⟩ else s.takeClaim (resKey 1 ch) 2 k

/-- The channels of a cell (R6). -/
def cellChans (n : Nat) : List Nat := [2 * n, 2 * n + 1]

/-- A denied claim of the Grainer: the first channel it cannot take. -/
def State.grnBlocked (s : State) (k : Nat) (direct : Bool) (ns : List Nat) : Option Nat :=
  (ns.flatMap cellChans).find? (fun ch => !s.grnCan k ch direct)

/-- The Grainer takes every channel of the listed cells. -/
def State.grnTakeAll (s : State) (k : Nat) (ns : List Nat) : State :=
  s.each (ns.flatMap cellChans) (fun s ch => s.grnTake k ch)

/-- The Grainer releases the channels of a cell; a DSV-enabled cell's DAB channel goes to the DSV (R521, R98). -/
def State.grnLeave (s : State) (k n : Nat) : State :=
  let s := s.each (cellChans n) (fun s ch => (s.chSync ch).release (resKey 1 ch) 2 k)
  let en := if n < 32 then (s.get DSV.EN_MAP0_EN_LO).testBit n else (s.get DSV.EN_MAP1_EN_HI).testBit (n - 32)
  if en then s.takeClaim (resKey 1 (2 * n + 1)) 3 n else s

/-- Range checks of a word written to STK_CFG (R79). -/
def stkCfgRange (v : Word) : Bool :=
  getBits v 1 2 == 3 || getBits v 8 6 == 0 || 48 < getBits v 8 6 || getBits v 14 3 == 0

/-- A cell that joins a stack brings the channels that the Grainer still holds for the one it left (R521). -/
def State.grnFreed (s : State) (n : Nat) (from_ : Option Nat) : State :=
  match from_ with
  | some k => s.each (cellChans n) (fun s ch => (s.chSync ch).release (resKey 1 ch) 2 k)
  | none => s

/-- The channels of a cell that has left its stack are released (R521). -/
def State.grnLeaveDue (s : State) (n : Nat) : State :=
  match (s.cell n).leave with
  | some k => (s.grnLeave k n).modCell n (fun c => { c with leave := none })
  | none => s

/-- The Grainer and solver window opens: the departures accepted since the last one release their channels (R521).
[assumption 214 (DEDUCED)] -/
def State.grnLeaves (s : State) : State := s.each (List.range 48) State.grnLeaveDue

/-- A stack is disabled: it releases every channel it holds, those of departures that wait among them (R40).
[assumption 214 (DEDUCED)] -/
def State.grnLeaveAll (s : State) (k : Nat) : State :=
  (s.each (s.members k) (fun s n => s.grnLeave k n)).each
    ((List.range 48).filter (fun n => (s.cell n).leave == some k)) State.grnLeaveDue

/-- A host write to GRN.STK_CFGs: enabling and disabling (R40), a change of MODE (R520), the thresholds' order at an
enable (R58), and the plain fields. -/
def State.stkCfgWrite (s : State) (k : Nat) (val : Word) : State :=
  let ofs := 0x60 + 4 * k
  let en0 := s.on (GRN.STK_CFG_EN k)
  let en1 := getBits val 0 1 == 1
  let mode0 := s.get (GRN.STK_CFG_MODE k)
  let mode1 := s.willBe GRN.page true (GRN.STK_CFG_MODE k) val
  let nmin := s.willBe GRN.page true (GRN.STK_CFG_N_MIN k) val
  let ms := s.members k
  let foldBad := !(decide (s.get GRN.VLIM1_UV_STOP < s.get GRN.VLIM1_UV_FOLD)
    && decide (s.get GRN.VLIM1_UV_FOLD < s.get GRN.VLIM2_OV_FOLD)
    && decide (s.get GRN.VLIM2_OV_FOLD < s.get GRN.VLIM2_OV_STOP))
  let idle := s.stkState k == skIDLE
  let coUser := ms.any (fun n => (s.claim (resKey 1 (2 * n))).subCls == 4)
  let enabling := !en0 && en1
  let changing := en0 && en1 && mode1 != mode0
  let commit := fun (s : State) => s.take .grn GRN.page ofs val
  let denied := fun (r : Nat) => fun (s : State) => s.deny GRN.page ofs r 2 k
  if enabling then
    s.judge GRN.page ofs [(stkCfgRange val || foldBad, eRANGE), (decide (ms.length < nmin), gN_MIN),
        (mode1 != 2 && !s.sameCarrier ms, gCARRIER)]
      (fun s => match s.grnBlocked k (mode1 == 2) ms with
        | some ch => denied (resKey 1 ch) s
        | none => commit (s.grnTakeAll k ms))
  else if en0 && !en1 then
    s.judge GRN.page ofs [(stkCfgRange val, eRANGE), (!idle, gSTATE)]
      (fun s => (commit (s.grnLeaveAll k)).setStack k {})
  else if changing then
    s.judge GRN.page ofs [(stkCfgRange val, eRANGE), (!idle, gSTATE),
        (mode1 != 2 && !s.sameCarrier ms, gCARRIER)]
      (fun s => if mode1 != 2 && coUser then
          denied (resKey 1 (2 * ((ms.find? (fun n => (s.claim (resKey 1 (2 * n))).subCls == 4)).getD 0))) s
        else commit (s.each ms (fun s n => s.chSync (2 * n))))
  else s.judge GRN.page ofs [(stkCfgRange val, eRANGE)] commit

/-- One cell's request of a write to CELL_STK: a departure, a joining, or both (R521). The channels of a cell that only
leaves are released from the next Grainer and solver window; those of one that joins pass at once.
[assumption 214 (DEDUCED)] -/
def State.cellStkOne (s : State) (n stk memb : Nat) : State :=
  let ofs := 0x40 + 4 * (n / 8)
  let k0 := s.get (GRN.CELL_STK_STK (n / 8) (n % 8))
  let m0 := s.on (GRN.CELL_STK_MEMB (n / 8) (n % 8))
  let m1 := memb == 1
  let from_ := m0 && s.on (GRN.STK_CFG_EN k0) && (!m1 || stk != k0)
  let into := m1 && s.on (GRN.STK_CFG_EN stk) && (!m0 || stk != k0)
  let commit := fun (s : State) =>
    (s.set (GRN.CELL_STK_STK (n / 8) (n % 8)) stk).set (GRN.CELL_STK_MEMB (n / 8) (n % 8)) memb
  let leaveBad := from_ && !(s.cst n ∈ [ckABSENT, ckBYPASSED, ckFAULTED, ckTEST])
  let mode := s.get (GRN.STK_CFG_MODE stk)
  let others := s.members stk
  let carrierBad := into && mode != 2 && !s.sameCarrier (n :: others)
  let freed := (s.grnFreed n (if from_ then some k0 else (s.cell n).leave)).modCell n (fun c => { c with cmd := 0, leave := none })
  let blk := if into then freed.grnBlocked stk false [n] else none
  if leaveBad then s.refuse GRN.page ofs gSTATE
  else match blk with
    | some ch => s.deny GRN.page ofs (resKey 1 ch) 2 stk
    | none =>
      if carrierBad then s.refuse GRN.page ofs gCARRIER
      else
        if into then
          let s := commit freed
          (s.grnTakeAll stk [n]).setCst n (if s.get (LANE.STAT_STATE n) == 6 then ckBYPASSED else ckABSENT)
        else commit (s.iff from_ (fun s => s.modCell n (fun c => { c with cmd := 0, leave := some k0 })))

/-- A host write to GRN.CELL_STKk, judged cell by cell in ascending order (R519, R521); the fields are RWL. -/
def State.cellStkWrite (s : State) (k : Nat) (val : Word) : State :=
  s.judge GRN.page (0x40 + 4 * k) [] (fun s =>
    if s.locked GRN.page then (if s.reg (GRN.CELL_STK k) == val then s else s.refuse GRN.page (0x40 + 4 * k) eLOCKED)
    else
      s.each ((List.range 8).filter (fun j =>
          getBits val (4 * j) 4 != getBits (s.reg (GRN.CELL_STK k)) (4 * j) 4))
        (fun s j => s.cellStkOne (8 * k + j) (getBits val (4 * j) 3) (getBits val (4 * j + 3) 1)))

/-! ### Commands (R60, R66, R68) -/

/-- N of a stack once the pending commands that take active cells out are applied (R60). -/
def State.nAfter (s : State) (k : Nat) : Nat :=
  ((s.activeOf k).filter (fun n => !((s.cell n).cmd ∈ [1, 3]))).length

/-- Cell states in which an operation is accepted (R60). -/
def cellOpStates (op : Nat) : List Nat :=
  match op with
  | 1 => [ckACTIVE, ckSPARE, ckCHARGING]
  | 2 => [ckBYPASSED, ckSPARE]
  | 3 => [ckBYPASSED, ckACTIVE]
  | 4 => [ckBYPASSED]
  | 5 => [ckFAULTED]
  | 6 => [ckTEST]
  | _ => []

/-- A write to GRN.CELL_CMD: judged, then pending for the next pass (R60). [assumption 217 (DEDUCED)] -/
def State.cellCmd (s : State) (cell op : Nat) : State :=
  let ofs := 0xC8
  s.judge GRN.page ofs [(decide (48 ≤ cell) || op == 7, eRANGE),
      (op != 0 && !(cellOpStates op).contains (s.cst cell), gSTATE),
      (op == 5 && (s.cell cell).srcs &&& (s.cell cell).faultSrc != 0, gSTATE),
      (op != 0 && (s.stackOf cell).isNone, gNOT_MEMBER)] (fun s =>
    if op == 0 then s
    else match s.stackOf cell with
    | none => s
    | some k =>
      let c := s.cell cell
      let fromActive := s.cst cell == ckACTIVE && (op == 1 || op == 3) && !(c.cmd ∈ [1, 3])
      s.judge GRN.page ofs
        [(fromActive && decide (s.nAfter k < s.get (GRN.STK_CFG_N_MIN k) + 1), gN_MIN)]
        (fun s => s.modCell cell (fun c => { c with cmd := op })))

/-- UNDER is still reported: fewer members are available than N_MIN (R64, R66). [assumption 18 (DEDUCED)] -/
def State.underStill (s : State) (k : Nat) : Bool :=
  (s.stack k).under && decide ((s.availableOf k).length < s.get (GRN.STK_CFG_N_MIN k))

/-- V̄ or an ACTIVE cell is not ready for RUN (R68). -/
def State.pchIncomplete (s : State) (k : Nat) : Bool :=
  let vb := s.vMean k
  decide (vb < (s.get GRN.VLIM4_PCH_MIN : Rat)) || (s.activeOf k).any (fun n => s.vStale n || !s.inTol n vb)

/-- A write to GRN.STK_CMD: judged, then pending for the next pass (R60, R66, R68). [assumptions 15, 16 (DEDUCED)] -/
def State.stkCmd (s : State) (k op : Nat) : State :=
  let ofs := 0xCC
  let st := s.stkState k
  let en := s.on (GRN.STK_CFG_EN k)
  let pend := fun (s : State) => s.setStack k { s.stack k with cmd := op }
  s.judge GRN.page ofs [(decide (5 ≤ op), eRANGE), (op != 0 && op != 2 && !en, gSTATE)] (fun s => match op with
    | 0 => s
    | 1 => s.judge GRN.page ofs [(st != skIDLE, gSTATE)] pend
    | 2 => s.judge GRN.page ofs
        [(!s.armed, eARMED), (decide ((s.activeOf k).length < s.get (GRN.STK_CFG_N_MIN k)), gN_MIN),
         (s.pchIncomplete k, gPCH_INCOMPLETE), (!en || st != skPRECHARGE, gSTATE)]
        (fun s => (pend s).set (GRN.STK_STAT_TRIPPED k) 0)
    | 3 => pend s
    | _ => s.judge GRN.page ofs
        [(st != skBLOCKED || (s.stack k).stkCause || s.underStill k, gSTATE)] pend)

/-- A trip latch covers a member of the stack: its outputs are tripped (R69, R129). -/
def State.stkTripped (s : State) (k : Nat) : Bool := (s.members k).any s.cellTripped

/-- The stack takes a pending command; a RUN under a standing latch leaves it in PRECHARGE, TRIPPED (R66, R69, R129).
[assumption 217 (DEDUCED)] -/
def State.applyStkCmd (s : State) (k : Nat) : State :=
  let st := s.stack k
  let s := s.setStack k { st with cmd := 0 }
  let go := fun (s : State) (x : Nat) => s.set (GRN.STK_STAT_STATE k) x
  let enter := fun (s : State) =>
    go (s.setStack k { s.stack k with entered := true, under := false, stkCause := false }) skPRECHARGE
  match st.cmd with
  | 1 => if s.stkState k == skIDLE then enter s else s
  | 2 => if s.stkState k == skPRECHARGE && s.armed then
      (if s.stkTripped k then s.set (GRN.STK_STAT_TRIPPED k) 1
        else go (s.setStack k { s.stack k with slotN := 0 }) skRUN) else s
  | 3 => go s skIDLE
  | 4 => if s.stkState k == skBLOCKED then enter s else s
  | _ => s

/-- The members are assigned when the stack enters PRECHARGE (R66). [assumption 15 (DEDUCED)] -/
def State.assignMembers (s : State) (k : Nat) : State :=
  if (s.stack k).entered then
    let s := s.setStack k { s.stack k with entered := false }
    let av := s.availableOf k
    let ni := s.get (GRN.STK_CFG_N_INIT k)
    let n := if s.on (GRN.STK_CFG_SPARE_POL k) then
        (if ni = 0 then s.get (GRN.STK_CFG_N_MIN k) else ni) else av.length
    s.each (av.zipIdx) (fun s p => s.setCst p.1 (if p.2 < n then ckACTIVE else ckSPARE))
  else s

/-! ### Faults (R75–R78) -/

/-- Capabilities a version allows (R167). -/
def verCaps (ver : Nat) : Nat := if ver < 0x20 then 0x10 else if ver < 0x21 then 0x3D else 0x3F

/-- The common capabilities of a lane (R167). [assumption 245 (DEDUCED)] -/
def State.capc (s : State) (n : Nat) : Nat :=
  s.get (LANE.PEER3_CAP n) &&& s.get BLK.MCAP_CAP &&& verCaps (s.get (LANE.STAT_VER n))

/-- A cell is blocked, as its stack's pass knows it: by an overrun reaction, by a context's outputs or too many events,
or by its own protection (R24, R78, R123, R159). -/
def State.blkKnown (s : State) (n : Nat) : Bool :=
  let c := s.cell n
  (s.armed && (c.blkSeen || s.ctxBlocked n)) || c.evtOvf || getBits c.w3 17 2 == 2

/-- The fault sources cell `n` reports, one bit each in the order of R75: 0 GATE_AFE, 1 GATE_DAB,
2 DC_OV, 3 DC_UV, 4 TEMP_WARN, 5 TEMP_TRIP, 6 LINK_LOSS, 7 BYP_FAIL (R75, R159); a blocked cell reports as R78
decides. `run`: the cell's stack was in RUN as the pass began. [assumptions 19, 21 (DEDUCED)] -/
def State.sources (s : State) (run : Bool) (n : Nat) : Nat :=
  let c := s.cell n
  let here := s.cst n != ckABSENT
  let gf := getBits c.w3 0 12
  let blocked := s.cst n == ckACTIVE && s.blkKnown n
  let base := maskOf ((List.range 8).filter (fun i => match i with
    | 0 => here && gf % 16 != 0
    | 1 => here && gf / 16 != 0
    | 2 => here && decide (s.get GRN.VLIM0_OV_TRIP < c.v1)
    | 3 => here && c.seen.testBit 0 && decide (c.v1 < s.get GRN.VLIM0_UV_TRIP) && run
    | 4 => here && c.w3.getLsbD 14
    | 5 => here && c.w3.getLsbD 15
    | 6 => c.linkLost || (c.upEsc && s.armed)
    | _ => c.bypFail))
  if blocked && base &&& 0x73 == 0 then base ||| 1 else base

/-- The class at which a source of a cell acts (R75, R76). A LINK_LOSS without self-bypass is of class STACK for an ACTIVE
cell and of no class that acts for another (R77). [assumption 248 (DEDUCED)] -/
def State.srcClass (s : State) (n src : Nat) : Nat :=
  let cls := s.get ⟨GRN.FLT_CLS, 3 * src, 3⟩
  if src == 6 && !(s.capc n).testBit 0 then (if s.cst n == ckACTIVE then 3 else 0) else cls

/-- The highest class among reported sources. [assumption 19 (DEDUCED)] -/
def State.topClass (s : State) (n rep : Nat) : Nat :=
  (bitsOf 8 rep).foldl (fun m src => max m (s.srcClass n src)) 0

/-- The stack enters BLOCKED (R64, R76). [assumptions 241, 250 (DEDUCED)] -/
def State.blockStack (s : State) (k : Nat) : State :=
  if s.stkState k ∈ [skPRECHARGE, skRUN, skGAP] then
    (s.set (GRN.STK_STAT_STATE k) skBLOCKED).irq GRN.page 1
  else s

/-- The sources that act on the cell itself in a class of BYPASS or higher: DC_OV of several cells is one fault of their
stack, and none of a cell (R59, R65, R76). [assumption 20 (DEDUCED)] -/
def State.cellFaults (s : State) (ovCls n rep : Nat) : List Nat :=
  (bitsOf 8 rep).filter (fun src => decide (2 ≤ s.srcClass n src) && !(src == 2 && ovCls != 0))

/-- The class at which a source acts on the cell's stack or the module: DC_OV of several cells at `ovCls` (R65, R76).
[assumption 20 (DEDUCED)] -/
def State.stkClass (s : State) (ovCls n src : Nat) : Nat := if src == 2 && ovCls != 0 then ovCls else s.srcClass n src

/-- One cell's fault reaction and pending command in the pass (R60, R65, R76): faults are recorded; a command that meets
a fault of class BYPASS or higher is discarded, or acts before it; such a fault makes the cell FAULTED; class STACK
blocks the stack, and class MODULE trips every output, when it is first reported or source GRN becomes active with it.
`ovCls` is the class of DC_OV where several cells report it.
A cell that is blocked leaves the active set whatever the class (R78). [assumption 20 (DEDUCED)] -/
def State.cellStep (s : State) (k : Nat) (run : Bool) (ovCls n : Nat) : State :=
  let c := s.cell n
  let rep := s.sources run n
  let st := s.cst n
  let blk := s.blkKnown n
  let fresh := bitsOf 8 (rep &&& (0xFF ^^^ c.srcs))
  let bits := bitsOf 8 rep
  let flt := s.cellFaults ovCls n rep
  let severe := bits.any (fun src => decide (2 ≤ s.stkClass ovCls n src))
  let block := bits.any (fun src => s.stkClass ovCls n src == 3)
  let module := bits.any (fun src => s.stkClass ovCls n src == 4 && (fresh.contains src || !s.srcAct.testBit 9))
  let s := s.each fresh (fun s src => s.log GRN.page (if flt.contains src then 0 else 0xFF) (s.stationNo n) src)
  let drop := severe && (c.cmd == 2 || c.cmd == 3 || c.cmd == 6)
  let s := s.iff drop (fun s => s.irq GRN.page 7)
  let cmd := if drop then 0 else c.cmd
  let s := if (cellOpStates cmd).contains st then
      s.setCst n (match cmd with
        | 1 => ckBYPASSED | 2 => ckCHARGING | 3 => ckSPARE | 4 => ckTEST | 5 => ckBYPASSED | _ => ckBYPASSED)
    else s
  let faulted := !flt.isEmpty && s.cst n != ckABSENT && s.cst n != ckFAULTED
  let s := if faulted then (s.setCst n ckFAULTED).irq GRN.page 0
    else s.iff (blk && s.cst n == ckACTIVE) (fun s => s.setCst n ckBYPASSED)
  let s := s.iff block (fun s => (s.setStack k { s.stack k with stkCause := true }).blockStack k)
  let s := s.iff module (fun s => s.tripAll 9)
  -- a lost link leaves the cell ABSENT once its reaction has been applied (R59, R177)
  let s := if c.linkLost then s.setCst n ckABSENT else s
  s.modCell n (fun c => { c with
    cmd := 0, srcs := rep, linkLost := false, faultSrc := if faulted then maskOf flt else c.faultSrc })

/-- Source GRN is active while a member of an enabled stack reports a fault of class MODULE (R131).
[assumption 18 (DEDUCED)] -/
def State.grnSource (s : State) : State :=
  s.srcActive 9 ((List.range 48).any (fun n =>
    (s.stackOf n).isSome && decide (4 ≤ s.topClass n (s.cell n).srcs)))

/-! ### Reinsertion and substitution (R62, R63) -/

/-- A cell becomes ACTIVE with this schedule: its frame carries REINSERT, and φ_prev is 0 (R62, R63, R100). -/
def State.bringIn (s : State) (n : Nat) : State :=
  let s := (s.setCst n ckACTIVE).modCell n (fun c => { c with reinsert := true })
  s.setDsv n { s.dsv n with phiPrev := 0 }

/-- A CHARGING cell that meets R62 becomes ACTIVE. [assumptions 218, 219 (DEDUCED)] -/
def State.reinsStep (s : State) (k : Nat) (vb : Rat) (n : Nat) : State :=
  if s.cst n == ckCHARGING && s.inTol n vb && !s.vStale n
      && (s.stkState k == skRUN || s.stkState k == skPRECHARGE)
      && (s.cell n).cmd == 0 && decide (s.topClass n (s.cell n).srcs < 1) && !s.blkKnown n then
    (s.bringIn n).irq GRN.page 10
  else s

/-- One substitution for a cell that left A_new because of a fault: the first SPARE within REINS_TOL, or else the
first spare outside it put to CHARGING (R63). [assumption 219 (DEDUCED)] -/
def State.substitute (s : State) (k : Nat) (vb : Rat) : State :=
  let spares := (s.inState k ckSPARE).filter (fun n => !s.vStale n && !s.blkKnown n)
  match spares.find? (fun n => s.inTol n vb) with
  | some n => (s.bringIn n).irq GRN.page 3
  | none => match spares with
    | n :: _ => s.setCst n ckCHARGING
    | [] => s

/-! ### Ranking (R50) -/

/-- Order cells by voltage, highest first, ties to the lower index. -/
def sortDown (l : List (Nat × Nat)) : List (Nat × Nat) :=
  l.insertionSort (fun a b => b.2 < a.2 ∨ (a.2 = b.2 ∧ a.1 ≤ b.1))

/-- Order cells by voltage, lowest first, ties to the lower index (R44). -/
def sortUp (l : List (Nat × Nat)) : List (Nat × Nat) :=
  l.insertionSort (fun a b => a.2 < b.2 ∨ (a.2 = b.2 ∧ a.1 ≤ b.1))

/-- The active cells of a stack with their voltages. -/
def State.volts (s : State) (k : Nat) : List (Nat × Nat) :=
  (s.activeOf k).map (fun n => (n, (s.cell n).v1))

/-- Write the ranks of a stack's members (R50). -/
def State.rank (s : State) (k : Nat) : State :=
  let s := s.each (s.members k) (fun s n => s.set (GRN.RANK_RANK (n / 4) (n % 4)) 63)
  s.each (sortDown (s.volts k)).zipIdx (fun s p => s.set (GRN.RANK_RANK (p.1.1 / 4) (p.1.1 % 4)) p.2)

/-! ### Duties (R41, R44, R46, R51, R52) -/

/-- The published stack voltage reference v_s in volts (R47, R197). -/
def State.vs (s : State) (k : Nat) : Rat := f32Rat (s.pub 1 k)

/-- The sign of the stack current (R49): free while the input has given no valid result. [assumption 11 (DESIGN CHOICE)] -/
def State.iSign (s : State) (k : Nat) : Int × State :=
  let inv : Int := if s.on (GRN.STK_CFG_ISRC_INV k) then -1 else 1
  match SMap.get (fun _ => none) s.aiLast (s.get (GRN.STK_CFG_ISRC k)) with
  | some v => (inv * (if 0 < v then 1 else if v < 0 then -1 else 0), s)
  | none =>
    let (i, s) := s.free
    ((Config.freeNat i % 3 : Nat) - 1, s)

/-- The engagement of each member's trim, with hysteresis (R51); only a PSC stack has trims. [assumption 240 (DEDUCED)] -/
def State.engage (s : State) (k : Nat) (vb : Rat) : State :=
  let hyst : Rat := s.get GRN.VLIM3_HYST_V
  let psc := s.get (GRN.STK_CFG_MODE k) == 0
  s.each (s.members k) (fun s n => s.modCell n (fun c =>
    let d := vDist c.v1 vb
    { c with trimOn := psc && (decide (hyst ≤ d) || (c.trimOn && !decide (d < hyst / 2))) }))

/-- The trim of each active cell, its net effect removed (R51). [assumption 240 (DEDUCED)] -/
def State.trims (s : State) (k : Nat) (vb : Rat) (isg : Int) : State :=
  let kb : Rat := (s.get GRN.BAL_K_BAL : Rat) / 16777216
  let tmax : Rat := (s.get GRN.BAL_TRIM_MAX : Rat) / 65536
  let s := s.each (s.activeOf k) (fun s n =>
    let c := s.cell n
    let e : Rat := if c.trimOn then (vb - (c.v1 : Rat)) / 10 else 0
    s.setCell n { c with trim := clampR (-tmax) tmax (kb * e * (isg : Rat)) })
  let sv : Rat := ((s.activeOf k).map (fun n => ((s.cell n).v1 : Rat))).foldl (· + ·) 0
  let stv : Rat := ((s.activeOf k).map (fun n => (s.cell n).trim * ((s.cell n).v1 : Rat))).foldl (· + ·) 0
  if sv = 0 then s
  else s.each (s.activeOf k) (fun s n => s.modCell n (fun c => { c with trim := c.trim - stv / sv }))

/-- Limit a duty to ±1, setting SAT of the stack where the limit acts (R46). [assumption 12 (DESIGN CHOICE)] -/
def State.putDuty (s : State) (k n : Nat) (d : Rat) : State :=
  let s := s.iff (decide (1 < d) || decide (d < -1)) (fun s => s.set (GRN.STK_STAT_SAT k) 1)
  s.modCell n (fun c => { c with duty := clampR (-1) 1 d })

/-- An output binding of some context names the balancing trim of cell `n` (R197). [assumption 251 (DEDUCED)] -/
def State.biBound (s : State) (n : Nat) : Bool :=
  (List.range 256).any (fun c => (List.range 16).any (fun i => (s.outBind c i).cls == 2 && (s.outBind c i).sel == n))

/-- The balancing trim of a cell: the last one published, which a disabled context leaves standing (R194), or 0 where
none is bound (R41). [assumption 251 (DEDUCED)] -/
def State.bTrim (s : State) (n : Nat) : Rat :=
  if s.pub 2 n != 0 && s.biBound n then f32Rat (s.pub 2 n) else 0

/-- PSC duties: d_i = v_s / (N V_i) + t_i + b_i (R41). The quotient at V_i = 0 is a free value.
[assumption 12 (DESIGN CHOICE)] -/
def State.dutiesPsc (s : State) (k : Nat) (vb : Rat) (isg : Int) : State :=
  let s := s.trims k vb isg
  let act := s.activeOf k
  let n : Rat := act.length
  let v := s.vs k
  s.each act (fun s i =>
    let c := s.cell i
    let b := s.bTrim i
    let (q, s) := if c.v1 = 0 then (let (j, s) := s.free; (Config.freeRat j, s))
      else (v / (n * ((c.v1 : Rat) / 10)), s)
    s.putDuty k i (q + c.trim + b))

/-- Roles assigned from the order: FULL while the running sum stays at or below |v_s|, then one of role `pw`, PWM (R44).
[assumption 22 (DEDUCED)] -/
def nlcFresh (av : Rat) (pw : Nat) : List (Nat × Nat) → Nat → Bool → List (Nat × Nat)
  | [], _, _ => []
  | (n, v) :: t, sum, open_ =>
    if open_ then
      if ((sum + v : Nat) : Rat) ≤ av then (n, 1) :: nlcFresh av pw t (sum + v) true
      else (n, pw) :: nlcFresh av pw t sum false
    else (n, 0) :: nlcFresh av pw t sum false

/-- The roles the order gives the active cells: a stale cell keeps its own, and the others share what is left (R44, R54).
[assumption 22 (DEDUCED)] -/
def State.nlcRoles (s : State) (av : Rat) (order : List (Nat × Nat)) : List (Nat × Nat) :=
  let kept := order.filter (fun p => s.vStale p.1)
  let sum := ((kept.filter (fun p => (s.cell p.1).role == 1)).map (·.2)).foldl (· + ·) 0
  let pw := if kept.any (fun p => (s.cell p.1).role == 2) then 0 else 2
  kept.map (fun p => (p.1, (s.cell p.1).role)) ++ nlcFresh av pw (order.filter (fun p => !s.vStale p.1)) sum true

/-- Give a cell a role; one it has already it goes on holding (R52). -/
def State.giveRole (s : State) (n r : Nat) : State :=
  s.modCell n (fun c => if c.role == r then { c with dwell := c.dwell + 1 } else { c with role := r, dwell := 0 })

/-- Roles that cells of the stack have left pass, with `k` and the sign of v_s unchanged, to cells without one in the
order, FULL before PWM (R44, R52). [assumption 232 (DEDUCED)] -/
def State.fillRoles (s : State) (order : List Nat) (k : Nat) : State :=
  let role := fun (s : State) (r : Nat) => order.filter (fun n => (s.cell n).role == r)
  let cand := fun (s : State) (r : Nat) => (role s r).filter (fun n => !s.vStale n)
  let s := s.each ((cand s 0 ++ cand s 2).take (k - (role s 1).length)) (fun s n => s.giveRole n 1)
  if (role s 2).isEmpty && k < order.length then s.each ((cand s 0).take 1) (fun s n => s.giveRole n 2) else s

/-- How far a role ranks: FULL before PWM before none (R52). [assumption 22 (DEDUCED)] -/
def roleRank (r : Nat) : Nat := match r with | 1 => 0 | 2 => 1 | _ => 2

/-- The best swap of R52 among the active cells: the holder of the better role, the cell better placed by more than
HYST_V, and their voltage difference; the largest difference wins. [assumption 22 (DEDUCED)] -/
def State.bestSwap (s : State) (k : Nat) (up : Bool) : Option (Nat × Nat) :=
  let hyst := s.get GRN.VLIM3_HYST_V
  let dw := s.get GRN.SWAP_DWELL
  let ok := (s.activeOf k).filter (fun n => !s.vStale n && decide (dw ≤ (s.cell n).dwell))
  let pairs := ok.flatMap (fun a => ok.filterMap (fun b =>
    let ca := s.cell a
    let cb := s.cell b
    let d : Int := if up then (ca.v1 : Int) - cb.v1 else (cb.v1 : Int) - ca.v1
    if roleRank ca.role < roleRank cb.role ∧ (hyst : Int) < d then some (a, b, d) else none))
  let best := pairs.foldl (fun m p => match m with
    | none => some p
    | some q => if q.2.2 < p.2.2 then some p else some q) (none : Option (Nat × Nat × Int))
  best.map (fun p => (p.1, p.2.1))

/-- Up to `fuel` swaps (R52). -/
def State.swaps (s : State) (k : Nat) (up : Bool) : Nat → State
  | 0 => s
  | fuel + 1 => match s.bestSwap k up with
    | none => s
    | some (a, b) =>
      let ra := (s.cell a).role
      let rb := (s.cell b).role
      let s := s.modCell a (fun c => { c with role := rb, dwell := 0 })
      let s := s.modCell b (fun c => { c with role := ra, dwell := 0 })
      State.swaps (s.bump GRN.SWAP_CNT_CNT) k up fuel

/-- NLC roles (R44, R52): they stand, with swaps, while k and the sign of v_s stay the same, and are assigned afresh
otherwise. [assumption 232 (DEDUCED)] -/
def State.nlcAssign (s : State) (k : Nat) (av : Rat) (sg : Int) (up : Bool) : State :=
  let order := if up then sortUp (s.volts k) else sortDown (s.volts k)
  let fresh := s.nlcRoles av order
  let kNew := (fresh.filter (fun p => p.2 == 1)).length
  let st := s.stack k
  let s := if kNew == st.k && sg == st.sgn then
      ((s.each (s.activeOf k) (fun s n => s.modCell n (fun c => { c with dwell := c.dwell + 1 }))).fillRoles
        (order.map (·.1)) kNew).swaps k up (s.get (GRN.STK_CFG_MAX_SWAP k))
    else s.each fresh (fun s p => s.giveRole p.1 p.2)
  s.setStack k { s.stack k with k := kNew, sgn := sg }

/-- NLC duties (R44, R46); in GAP the roles are kept (R72), and a cell that is not active has none.
[assumption 12 (DESIGN CHOICE)] -/
def State.dutiesNlc (s : State) (k : Nat) (isg : Int) : State :=
  let v := s.vs k * 10
  let sg := sgnR v
  let av := if v < 0 then -v else v
  let act := s.activeOf k
  let s := s.each ((s.members k).filter (fun n => !act.contains n)) (fun s n => s.modCell n (fun c => { c with role := 0, dwell := 0 }))
  let s := if s.stkState k == skGAP then s else s.nlcAssign k av sg (decide (0 ≤ sg * isg))
  let full : Rat := ((act.filter (fun n => (s.cell n).role == 1)).map (fun n => ((s.cell n).v1 : Rat))).foldl (· + ·) 0
  let total : Rat := (act.map (fun n => ((s.cell n).v1 : Rat))).foldl (· + ·) 0
  let s := s.iff (decide (total < av)) (fun s => s.set (GRN.STK_STAT_SAT k) 1)
  s.each act (fun s n =>
    let c := s.cell n
    match c.role with
    | 1 => s.putDuty k n sg
    | 2 => if c.v1 = 0 then (let (j, s) := s.free; s.putDuty k n (Config.freeRat j))
        else s.putDuty k n ((sg : Rat) * (av - full) / (c.v1 : Rat))
    | _ => s.putDuty k n 0)

/-- The duties of a stack by its mode (R41, R44, R45), and the role bits of RANK. -/
def State.duties (s : State) (k : Nat) (vb : Rat) : State :=
  let s := (s.set (GRN.STK_STAT_SAT k) 0).engage k vb
  let mode := s.get (GRN.STK_CFG_MODE k)
  let s := if (s.activeOf k).isEmpty then s
    else if mode == 0 then (let (g, s) := s.iSign k; s.dutiesPsc k vb g)
    else if mode == 1 then (let (g, s) := s.iSign k; s.dutiesNlc k g)
    else s
  s.each (s.members k) (fun s n =>
    let r := if mode == 1 && s.cst n == ckACTIVE then (s.cell n).role else 0
    (s.setB (GRN.RANK_FULL (n / 4) (n % 4)) (r == 1)).setB (GRN.RANK_PWM (n / 4) (n % 4)) (r == 2))

/-! ### Power (R55–R58, R62, R63) -/

/-- P_CONT, P_PEAK and SPARE_P in watts (R79). -/
def State.pCont (s : State) : Rat := 10 * (s.get GRN.PLIM_P_CONT : Rat)
def State.pPeak (s : State) : Rat := 10 * (s.get GRN.PLIM_P_PEAK : Rat)
def State.spareP (s : State) : Rat := 1000 * (s.get GRN.PLIM2_SPARE_P : Rat)

/-- A source of class DERATE is reported for the cell (R56, R76). -/
def State.derated (s : State) (n : Nat) : Bool := (bitsOf 8 (s.cell n).srcs).any (fun src => s.srcClass n src == 1)

/-- The continuous limit of a cell in watts (R56, R57). -/
def State.contLim (s : State) (n : Nat) : Rat :=
  if s.derated n then s.pCont * (s.get GRN.PLIM2_DER_PCT : Rat) / 100 else s.pCont

/-- The sharing of R55: cells that joined start at 0, and the departed cells' share is spread over A_new; an active cell
has no spare trickle (R63). [assumption 23 (DEDUCED)] -/
def State.share (s : State) (aOld aNew : List Nat) : State :=
  let cmd := fun n => f32Rat (s.pub 3 n)
  let base := fun n => if aOld.contains n || aOld == aNew then cmd n else 0
  let sumOld : Rat := (aOld.map cmd).foldl (· + ·) 0
  let sumNew : Rat := (aNew.map base).foldl (· + ·) 0
  let d : Rat := if aOld == aNew || aNew.isEmpty then 0 else (sumOld - sumNew) / (aNew.length : Rat)
  s.each aNew (fun s n => s.modCell n (fun c => { c with power := base n + d, trickle := 0 }))

/-- Limits of R56 on one cell's command; the time above and at or below P_CONT runs with the command of step 1.
[assumption 23 (DEDUCED)] -/
def State.limitCell (s : State) (n : Nat) : State :=
  let c := s.cell n
  let p1 := clampR (-s.pPeak) s.pPeak c.power
  let per := s.get TBS.PER_CFG_PERIOD
  let above := decide (s.pCont < (if p1 < 0 then -p1 else p1))
  let c := if above then { c with ovlAbove := c.ovlAbove + per, ovlBelow := 0 }
    else { c with ovlAbove := 0, ovlBelow := c.ovlBelow + per }
  let p2 := if c.ovlLimited then clampR (-s.pCont) s.pCont p1 else p1
  let lim := s.contLim n
  let p3 := if s.derated n then clampR (-lim) lim p2 else p2
  s.setCell n { c with power := p3 }

/-- clamp(num / den, 0, 1), the quotient free at den = 0 (R58). [assumption 13 (DESIGN CHOICE)] -/
def State.ratio01 (s : State) (num den : Rat) : Rat × State :=
  if den = 0 then (let (j, s) := s.free; (clampR 0 1 (Config.freeRat j), s)) else (clampR 0 1 (num / den), s)

/-- Foldback of the stack's commands (R58). -/
def State.foldback (s : State) (k : Nat) (vb : Rat) : State :=
  let (fp, s) := s.ratio01 (vb - (s.get GRN.VLIM1_UV_STOP : Rat))
    ((s.get GRN.VLIM1_UV_FOLD : Rat) - (s.get GRN.VLIM1_UV_STOP : Rat))
  let (fn, s) := s.ratio01 ((s.get GRN.VLIM2_OV_STOP : Rat) - vb)
    ((s.get GRN.VLIM2_OV_STOP : Rat) - (s.get GRN.VLIM2_OV_FOLD : Rat))
  let on := decide (fp < 1) || decide (fn < 1)
  let s := s.iff (on && !s.on (GRN.STK_STAT_FOLD k)) (fun s => s.irq GRN.page 6)
  let s := s.setB (GRN.STK_STAT_FOLD k) on
  s.each (s.members k) (fun s n => s.modCell n (fun c =>
    { c with power := if 0 < c.power then c.power * fp else c.power * fn }))

/-- The DAB command of a cell outside A_new: the trickle of a SPARE under STANDBY policy, the charging command of a
CHARGING cell, or 0 (R62, R63). -/
def State.idlePower (s : State) (k : Nat) (vb : Rat) (n : Nat) : State :=
  let c := s.cell n
  let v : Rat := c.v1
  let tol : Rat := s.get GRN.VLIM3_REINS_TOL
  let c := if s.cst n == ckSPARE && s.on (GRN.STK_CFG_SPARE_POL k) then
      let t : Int :=
        if v < vb - tol / 2 then -1
        else if vb + tol / 2 < v then 1
        else if c.trickle == -1 && decide (v < vb) then -1
        else if c.trickle == 1 && decide (vb < v) then 1
        else 0
      { c with trickle := t, power := (t : Rat) * s.spareP }
    else if s.cst n == ckCHARGING then
      { c with trickle := 0, power := if v < vb then -s.spareP else if vb < v then s.spareP else 0 }
    else { c with trickle := 0, power := 0 }
  s.setCell n c

/-- PLIM of the stack in kW, and the DERATE flag (R57). PLIM has 13 bits and saturates. [assumption 25 (DEDUCED)] -/
def State.plim (s : State) (k : Nat) : State :=
  let sum : Rat := ((s.activeOf k).map s.contLim).foldl (· + ·) 0
  let pstk := s.get (GRN.STK_PWR_P_STK k)
  let p := min pstk (sum / 1000).floor.toNat
  let der := decide (p < pstk)
  let s := s.iff (der && !s.on (GRN.STK_STAT_DERATE k)) (fun s => s.irq GRN.page 9)
  (s.set (GRN.STK_STAT_PLIM k) (min p 8191)).setB (GRN.STK_STAT_DERATE k) der

/-- GAP_PZ: positive commands of a stack in GAP become 0, the trickle of its spares apart (R72).
[assumptions 24, 220 (DEDUCED)] -/
def State.gapZero (s : State) (k : Nat) : State :=
  if s.stkState k == skGAP && s.on (GRN.STK_CFG_GAP_PZ k) then
    s.each ((s.members k).filter (fun n => s.cst n != ckSPARE)) (fun s n =>
      s.modCell n (fun c => { c with power := if 0 < c.power then 0 else c.power }))
  else s

/-- The power commands of a stack (R55–R58); with its DAB links off in IDLE and BLOCKED they are 0 (R66). -/
def State.powers (s : State) (k : Nat) (aOld : List Nat) (vb : Rat) : State :=
  let aNew := s.activeOf k
  let s := s.share aOld aNew
  let s := s.each ((s.members k).filter (fun n => !aNew.contains n)) (fun s n => s.idlePower k vb n)
  let s := s.iff (s.stkState k == skIDLE || s.stkState k == skBLOCKED) (fun s =>
    s.each (s.members k) (fun s n => s.modCell n (fun c => { c with power := 0 })))
  let s := s.each (s.members k) State.limitCell
  ((s.plim k).foldback k vb).gapZero k

/-! ### Slots and compare values (R42, R43, R109, R111) -/

/-- Give the active cells of a PSC stack their slots: afresh in ascending index on entering RUN or on a change with
SLOT_REPH, and otherwise the lowest empty slots for cells that join (R42, R43). [assumption 215 (DEDUCED)] -/
def State.slots (s : State) (k : Nat) : State :=
  let act := s.activeOf k
  let st := s.stack k
  let fresh := st.slotN == 0 || s.on (GRN.STK_CFG_SLOT_REPH k)
  let s := s.each ((s.members k).filter (fun n => !act.contains n)) (fun s n =>
    s.modCell n (fun c => { c with slot := none }))
  if fresh then
    let s := s.setStack k { st with slotN := act.length }
    s.each act.zipIdx (fun s p => s.modCell p.1 (fun c => { c with slot := some p.2 }))
  else
    s.each (act.filter (fun n => (s.cell n).slot.isNone)) (fun s n =>
      let used := (s.activeOf k).filterMap (fun m => (s.cell m).slot)
      let j := ((List.range 64).find? (fun j => !used.contains j)).getD 0
      s.modCell n (fun c => { c with slot := some j }))

/-- The compare value of a front-end leg: round(16 PRD (1 ± d) / 2) (R111). -/
def cmpOf (prd : Nat) (d : Rat) : Nat := (roundAway (16 * (prd : Rat) * (1 + d) / 2)).toNat

/-- The Grainer writes PHASE, CMPA and CMPB of the AFE channels it holds in PSC and NLC mode; in GAP the slots are kept
(R72, R109, R111, R116). -/
def State.writeAfe (s : State) (k : Nat) : State :=
  let mode := s.get (GRN.STK_CFG_MODE k)
  if mode == 2 then s
  else
    let s := if mode == 0 && s.stkState k != skGAP then s.slots k else s
    s.each (s.activeOf k) (fun s n =>
      let c := s.cell n
      let prd := s.get (MODCH.PRD_PRD (2 * n))
      let s := if mode == 0 then
          let nn := max 1 (s.stack k).slotN
          let ph := (s.get (MOD.SLOT_PH_PH k) : Rat) + ((c.slot.getD 0 : Nat) : Rat) * (2 * prd : Nat) / (2 * nn : Nat)
          s.set (MODCH.PHASE_PHASE (2 * n)) ((roundAway ph).toNat % (2 * prd))
        else s
      (s.set (MODCH.CMPA_CMPA (2 * n)) (cmpOf prd c.duty)).set (MODCH.CMPB_CMPB (2 * n)) (cmpOf prd (-c.duty)))

/-! ### The pass of one stack and of all stacks (R49) -/

/-- The Grainer's pass over one enabled stack (R49, and the pass listing after R54). [assumptions 21, 241, 250 (DEDUCED)] -/
def State.passStack (s : State) (k : Nat) : State :=
  let aOld := s.activeOf k
  let run := s.stkState k == skRUN
  let s := s.setStack k { s.stack k with stkCause := false }
  let s := s.each (s.members k) (fun s n => s.modCell n (fun c => { c with reinsert := false }))
  let s := s.applyStkCmd k
  let s := (s.iff (s.stkTripped k) (fun s => s.stackTrip k)).assignMembers k
  let nOv := ((s.members k).filter (fun n => (s.sources run n).testBit 2)).length
  let ovCls := if 2 ≤ nOv then max 3 (s.get GRN.FLT_CLS_DC_OV) else 0
  let gone0 := s.activeOf k
  let s := s.each (s.members k) (fun s n => s.cellStep k run ovCls n)
  let lost := gone0.filter (fun n => s.cst n == ckFAULTED || s.cst n == ckABSENT || (s.cst n == ckBYPASSED && s.blkKnown n))
  let vb := s.vMean k
  let s := if s.on (GRN.STK_CFG_AUTO_SPARE k) then s.each lost (fun s _ => s.substitute k vb) else s
  let s := s.each (s.members k) (fun s n => s.reinsStep k vb n)
  let n := (s.activeOf k).length
  let under := !lost.isEmpty && decide (n < s.get (GRN.STK_CFG_N_MIN k))
  let s := s.iff under (fun s =>
    ((s.setStack k { s.stack k with under := true }).blockStack k).irq GRN.page 2)
  let vb := s.vMean k
  let s := (s.rank k).duties k vb
  let s := s.powers k aOld vb
  let s := s.writeAfe k
  let s := s.setStack k { s.stack k with vbar := vb }
  let s := s.each (s.members k) (fun s n => s.modCell n (fun c => { c with blkSeen := false }))
  (s.set (GRN.STK_STAT_N_ACT k) n).set (GRN.STK_STAT_N_SPARE k) (s.inState k ckSPARE).length

/-- The Grainer's pass of a period over every enabled stack (R49); it makes none in DOZE (R408). -/
def State.grainerPass (s : State) : State :=
  (s.each ((List.range 8).filter (fun k => s.on (GRN.STK_CFG_EN k))) State.passStack).grnSource

/-! ### Gap detection (R71–R73) -/

/-- The runs of results start afresh (R71). [assumption 249 (DEDUCED)] -/
def State.gapFresh (s : State) : State :=
  s.each (List.range 8) (fun s k => s.setStack k { s.stack k with gapLo := 0, gapHi := 0 })

/-- A host write to GRN.GAP_CFG0: results of another input, of another threshold or of a time without detection are not
consecutive with later ones, and the boundary sample of another input is none of the new one (R71).
[assumption 249 (DEDUCED)] -/
def State.gapCfgWrite (s : State) (val : Word) : State :=
  s.judge GRN.page 0x144 [] (fun s =>
    let old := s.reg GRN.GAP_CFG0
    let t := s.take .grn GRN.page 0x144 val
    if t.reg GRN.GAP_CFG0 = old then t
    else if t.get GRN.GAP_CFG0_AI = getBits old 16 6 then t.gapFresh
    else { t.gapFresh with gapSample := none })

/-- The boundary sample of the period enters the runs of results below, and at or above, GAP_CODE; a boundary
without a usable sample ends both runs (R71). GAP_CODE is read as a result code, two's complement.
[assumption 24 (DEDUCED)] -/
def State.gapCount (s : State) : State :=
  if !s.on GRN.GAP_CFG0_EN then s.gapFresh
  else
    let k := s.get GRN.GAP_CFG0_STK
    let st := s.stack k
    let st := match s.gapSample with
      | none => { st with gapLo := 0, gapHi := 0 }
      | some v =>
        if v < s.getS GRN.GAP_CFG0_GAP_CODE then { st with gapLo := st.gapLo + 1, gapHi := 0 }
        else { st with gapLo := 0, gapHi := st.gapHi + 1 }
    s.setStack k st

/-- The stack enters GAP where the run of results below has reached GAP_N (R71, R72). -/
def State.gapEnter (s : State) : State :=
  let k := s.get GRN.GAP_CFG0_STK
  if s.on GRN.GAP_CFG0_EN && s.on (GRN.STK_CFG_EN k) && s.stkState k == skRUN
      && decide (s.get GRN.GAP_CFG1_GAP_N ≤ (s.stack k).gapLo) then
    ((s.set (GRN.STK_STAT_STATE k) skGAP).irq GRN.page 4).gapZero k
  else s

/-- The stack returns to RUN where the run at or above has reached RET_N; this schedule keeps the front-end off
(R73). [assumption 220 (DEDUCED)] -/
def State.gapLeave (s : State) : State :=
  let k := s.get GRN.GAP_CFG0_STK
  if s.on GRN.GAP_CFG0_EN && s.on (GRN.STK_CFG_EN k) && s.stkState k == skGAP
      && decide (s.get GRN.GAP_CFG1_RET_N ≤ (s.stack k).gapHi) then
    ((s.set (GRN.STK_STAT_STATE k) skRUN).irq GRN.page 5).setStack k { s.stack k with feOff := s.pidx + 1 }
  else s

/-! ### The commands -/

/-- STK_ENABLE (R40). -/
def execStkEnable (k : Fin 8) (val : Word) (s : State) : Host.Outcome State Fault Refusal :=
  .next (s.stkCfgWrite k (val ||| 1))

/-- STK_DISABLE (R40). -/
def execStkDisable (k : Fin 8) (val : Word) (s : State) : Host.Outcome State Fault Refusal :=
  .next (s.stkCfgWrite k (val &&& ~~~1))

/-- STK_MODE_WRITE (R520). -/
def execStkModeWrite (k : Fin 8) (val : Word) (s : State) : Host.Outcome State Fault Refusal :=
  .next (s.stkCfgWrite k val)

/-- CELL_STK_WRITE (R521). -/
def execCellStkWrite (k : Fin 6) (val : Word) (s : State) : Host.Outcome State Fault Refusal :=
  .next (s.cellStkWrite k val)

/-- CELL_CMD_BYPASS (R60). -/
def execCellCmdBypass (cell : Fin 64) (s : State) : Host.Outcome State Fault Refusal := .next (s.cellCmd cell 1)

/-- CELL_CMD_REINSERT (R60). -/
def execCellCmdReinsert (cell : Fin 64) (s : State) : Host.Outcome State Fault Refusal := .next (s.cellCmd cell 2)

/-- CELL_CMD_SPARE (R60). -/
def execCellCmdSpare (cell : Fin 64) (s : State) : Host.Outcome State Fault Refusal := .next (s.cellCmd cell 3)

/-- CELL_CMD_TEST (R60). -/
def execCellCmdTest (cell : Fin 64) (s : State) : Host.Outcome State Fault Refusal := .next (s.cellCmd cell 4)

/-- CELL_CMD_CLEAR (R60). -/
def execCellCmdClear (cell : Fin 64) (s : State) : Host.Outcome State Fault Refusal := .next (s.cellCmd cell 5)

/-- CELL_CMD_RELEASE (R60). -/
def execCellCmdRelease (cell : Fin 64) (s : State) : Host.Outcome State Fault Refusal := .next (s.cellCmd cell 6)

/-- STK_CMD_PRECHARGE (R66). -/
def execStkCmdPrecharge (k : Fin 8) (s : State) : Host.Outcome State Fault Refusal := .next (s.stkCmd k 1)

/-- STK_CMD_RUN (R68). -/
def execStkCmdRun (k : Fin 8) (s : State) : Host.Outcome State Fault Refusal := .next (s.stkCmd k 2)

/-- STK_CMD_STOP (R66). -/
def execStkCmdStop (k : Fin 8) (s : State) : Host.Outcome State Fault Refusal := .next (s.stkCmd k 3)

/-- STK_CMD_UNBLOCK (R66). -/
def execStkCmdUnblock (k : Fin 8) (s : State) : Host.Outcome State Fault Refusal := .next (s.stkCmd k 4)

/-- GAP_IN (R71, R72): no effect where the run of results below GAP_CODE is shorter than GAP_N. -/
def execGapIn (s : State) : Host.Outcome State Fault Refusal := .next s.gapEnter

/-- GAP_OUT (R73): no effect where the run at or above GAP_CODE is shorter than RET_N. -/
def execGapOut (s : State) : Host.Outcome State Fault Refusal := .next s.gapLeave

/-- BYP_FAIL (R61): the confirmation time has run from the first BYPASS frame and the bypass is not reported closed. -/
def execBypFail (n : Fin 48) (s : State) : Host.Outcome State Fault Refusal :=
  match (s.cell n).bypSince with
  | some t =>
    if getBits (s.cell n).w3 12 2 == 1 then .next s
    else .next (((s.advance (t + s.get GRN.SWAP_BYP_CONF * tMs)).modCell n
      (fun c => { c with bypFail := true, bypSince := none })).irq GRN.page 8)
  | none => .next s

/-- OVERLOAD_LIMIT (R56): the cell has been above P_CONT in every period for OVL_MS. -/
def execOverloadLimit (n : Fin 48) (s : State) : Host.Outcome State Fault Refusal :=
  if s.get GRN.PLIM2_OVL_MS * 100000 ≤ (s.cell n).ovlAbove then
    .next (s.modCell n (fun c => { c with ovlLimited := true, power := clampR (-s.pCont) s.pCont c.power }))
  else .next s

/-- OVERLOAD_RELEASE (R56): the cell has stayed at or below P_CONT for OVL_MS. -/
def execOverloadRelease (n : Fin 48) (s : State) : Host.Outcome State Fault Refusal :=
  if s.get GRN.PLIM2_OVL_MS * 100000 ≤ (s.cell n).ovlBelow then
    .next (s.modCell n (fun c => { c with ovlLimited := false }))
  else .next s

end Sys2Proof.Machine
end

