-- ==== Sys2Proof/Machine/DabSolver.lean ====
section
/-! DEFINITION. The DAB solver: the waveform model, the zero-voltage conditions, the choice of the set, limits, idle
and slew, enabling and parameters (R82–R100). All arithmetic is exact; codes are rounded where the rules round. -/

namespace Sys2Proof.Machine

abbrev dPARAM : Nat := 0x40
abbrev dBUDGET : Nat := 0x41
abbrev dSTATE : Nat := 0x42

/-- The solver's parameters of one cell, in the codes of R101. -/
structure DsvPar where
  llk : Nat
  lm : Nat
  ratio : Nat
  izvs1 : Nat
  izvs2 : Nat
  v1min : Nat
  v1max : Nat
  v2min : Nat
  v2max : Nat
  phiMax : Nat
  phiSlew : Nat
  deriving DecidableEq, Repr

/-- The parameters eight words spell (R101). -/
def parOf (w : List Word) : DsvPar :=
  let g := fun i lo n => getBits (w.getD i 0) lo n
  { llk := g 0 0 16, lm := g 0 16 16, ratio := g 1 0 16, izvs1 := g 2 0 16, izvs2 := g 2 16 16,
    v1min := g 3 0 16, v1max := g 3 16 16, v2min := g 4 0 16, v2max := g 4 16 16,
    phiMax := g 5 0 15, phiSlew := g 5 16 15 }

/-- The checks of R99 on a parameter block, CELL apart. -/
def DsvPar.bad (p : DsvPar) : Bool :=
  p.llk == 0 || p.ratio == 0 || decide (p.v1min < 100) || decide (p.v2min < 100)
    || decide (p.v1max ≤ p.v1min) || decide (p.v2max ≤ p.v2min) || p.phiMax == 0 || decide (0x4000 < p.phiMax)

/-- The active parameter words of a cell (R101). [assumption 29 (DEDUCED)] -/
def State.parWords (s : State) (n : Nat) : List Word := (List.range 8).map (fun w => s.reg (DSV.PAR_COPY (8 * n + w)))

/-! ### Waveforms (R84, R85), in units of θ; currents in units of 2 I_b -/

/-- The primary pulse at θ for a pulse width D1, θ taken in (−1, 1]. -/
def pulse (d x : Rat) : Rat :=
  -- fold x into (−1, 1]
  let y := x - 2 * ((x + 1) / 2).ceil + 2
  let a := if y < 0 then -y else y
  if a < d / 2 then 1 else if 1 - d / 2 < a then -1 else 0

/-- Edges of a pulse train of width `d` centred at `c`, folded into [0, 1). -/
def edgesOf (d c : Rat) : List Rat :=
  [c - d / 2, c + d / 2].map (fun x => x - (x.floor : Rat))

/-- Breakpoints of the half period [0, 1], ascending. -/
def breaks (d1 d2 phi : Rat) : List Rat :=
  ((0 :: 1 :: edgesOf d1 0 ++ edgesOf d2 phi).dedup).insertionSort (fun a b => a ≤ b)

/-- Segments of the half period: start, end, and the slope v_p − n v_s in units of V1, with k = n V2 / V1. -/
def segments (d1 d2 phi k : Rat) : List (Rat × Rat × Rat) :=
  let b := breaks d1 d2 phi
  (b.zip b.tail).map (fun p =>
    let m := (p.1 + p.2) / 2
    (p.1, p.2, pulse d1 m - k * pulse d2 (m - phi)))

/-- The integral of the slope over the half period. -/
def halfArea (segs : List (Rat × Rat × Rat)) : Rat := segs.foldl (fun a g => a + g.2.2 * (g.2.1 - g.1)) 0

/-- The leakage current at θ in [0, 1), in units of 2 I_b: half-wave symmetry fixes its constant (R85). -/
def curAt (segs : List (Rat × Rat × Rat)) (x : Rat) : Rat :=
  let j := segs.foldl (fun a g =>
    if x ≤ g.1 then a else a + g.2.2 * ((if x < g.2.1 then x else g.2.1) - g.1)) 0
  j - halfArea segs / 2

/-- The leakage current at any θ: i(θ + 1) = −i(θ) (R85). -/
def cur (segs : List (Rat × Rat × Rat)) (x : Rat) : Rat :=
  let f := x.floor
  let c := curAt segs (x - (f : Rat))
  if f % 2 = 0 then c else -c

/-- The mean square of the leakage current over the half period, in units of (2 I_b)². -/
def meanSq (segs : List (Rat × Rat × Rat)) : Rat :=
  segs.foldl (fun a g =>
    let i0 := curAt segs g.1
    let i1 := i0 + g.2.2 * (g.2.1 - g.1)
    a + (i0 * i0 + i0 * i1 + i1 * i1) / 3 * (g.2.1 - g.1)) 0

/-- The power of the model along the line of R88, in units of 4 P_base, at φ ≥ 0 with pulse width D on the narrowed
bridge: D φ − max(0, D/2 + φ − 1/2)². It is the mean of v_p i_L of R85 with the other bridge at full width. -/
def lineG (d phi : Rat) : Rat :=
  let e := d / 2 + phi - 1 / 2
  d * phi - (if 0 < e then e * e else 0)

/-- The code of the least φ ≥ 0 that delivers `y` (in units of 4 P_base), to the nearest 2⁻¹⁵ with halves away from
zero (R89): 0 for no power, and otherwise the least code whose upper half-step exceeds `y`; none where no φ up to 1/2
delivers it. [assumption 28 (DEDUCED)] -/
def phiCode (d y : Rat) : Option Nat :=
  if y ≤ 0 then some 0
  else if lineG d (1 / 2) < y then none
  else
    let f := fun c : Nat => if 16384 ≤ c then true else decide (y < lineG d ((2 * c + 1 : Nat) / 65536))
    -- binary search over 0 … 16384
    let r := (List.range 15).foldl (fun (p : Nat × Nat) _ =>
      if p.1 < p.2 then (let m := (p.1 + p.2) / 2; if f m then (p.1, m) else (m + 1, p.2)) else p) (0, 16384)
    some r.2

/-- What the solver knows of one candidate (R89, R90). -/
structure Cand where
  dhi : Nat
  d1 : Nat
  d2 : Nat
  phi : Int
  nhard : Nat
  hmask : Nat
  deficit : Rat
  msq : Rat
  deriving DecidableEq, Repr

/-- The electrical quantities of one solution: k, 2 I_b and n, with I_m per unit D1 (R83, R86). -/
structure Elec where
  k : Rat
  ib2 : Rat
  n : Rat
  im : Rat
  i1 : Rat
  i2 : Rat
  pb4 : Rat

/-- The quantities of R83 from the parameters, the two voltages (0.1 V) and the DAB channel's PRD.
[assumption 26 (DEDUCED)] -/
def elecOf (p : DsvPar) (v1 v2 prd : Nat) : Elec :=
  let v1 : Rat := (v1 : Rat) / 10
  let v2 : Rat := (v2 : Rat) / 10
  let n : Rat := (p.ratio : Rat) / 1000
  let th : Rat := (prd : Rat) / 400000000
  let l : Rat := (p.llk : Rat) / 100000000
  let lm : Rat := (p.lm : Rat) / 1000000
  { k := n * v2 / v1, ib2 := v1 * th / l, n := n,
    im := if p.lm = 0 then 0 else v1 * th / (2 * lm),
    i1 := (p.izvs1 : Rat) / 10, i2 := (p.izvs2 : Rat) / 10, pb4 := n * v1 * v2 * th / l }

/-- Evaluate a candidate at its rounded φ: hard transitions, deficits in primary amperes, and mean square (R86, R87,
R89). -/
def evalCand (p : DsvPar) (e : Elec) (dhi d1 d2 : Nat) (phi : Int) : Cand :=
  let r1 : Rat := (d1 : Rat) / 32768
  let r2 : Rat := (d2 : Rat) / 32768
  let f : Rat := (phi : Rat) / 32768
  let segs := segments r1 r2 f e.k
  let iL := fun x => e.ib2 * cur segs x
  let im := e.im * r1
  -- shortfall of each transition, in primary amperes
  let s0 := if p.izvs1 = 0 then 0 else (iL (-(r1 / 2)) - im) + e.i1
  let s1 := if p.izvs1 = 0 then 0 else e.i1 - (iL (r1 / 2) + im)
  let s2 := if p.izvs2 = 0 then 0 else (e.i2 - e.n * iL (f - r2 / 2)) / e.n
  let s3 := if p.izvs2 = 0 then 0 else (e.i2 + e.n * iL (f + r2 / 2)) / e.n
  let sh := [s0, s1, s2, s3]
  let hard := (List.range 4).filter (fun i => decide (0 < sh.getD i 0))
  { dhi := dhi, d1 := d1, d2 := d2, phi := phi, nhard := hard.length, hmask := maskOf hard,
    deficit := hard.foldl (fun a i => a + sh.getD i 0) 0, msq := meanSq segs }

/-- The order of R90 between two candidates, `m` the matched code: whether the first is better. -/
def Cand.better (m : Nat) (a b : Cand) : Bool :=
  let near := fun (c : Cand) => c.dhi - m
  if a.nhard == 0 || b.nhard == 0 then
    if a.nhard == 0 && b.nhard == 0 then
      decide (a.msq < b.msq) || (a.msq == b.msq && decide (near a < near b))
    else a.nhard == 0
  else if a.nhard != b.nhard then decide (a.nhard < b.nhard)
  else if a.deficit != b.deficit then decide (a.deficit < b.deficit)
  else if a.msq != b.msq then decide (a.msq < b.msq)
  else decide (near a < near b)

/-- The code of m = min(k, 1/k), rounded to 2⁻¹⁵ (R88). [assumption 221 (DEDUCED)] -/
def matched (k : Rat) : Nat := (roundAway (32768 * (if k ≤ 1 then k else 1 / k))).toNat

/-- The candidate values of D_hi: m and every multiple of 2⁻⁸ above it up to 1 (R88). -/
def dhis (m : Nat) : List Nat := m :: (((List.range 257).map (· * 128)).filter (fun c => m < c))

/-- The pulse widths of a candidate (R88). -/
def assign (k : Rat) (d : Nat) : Nat × Nat := if k < 1 then (d, 0x8000) else (0x8000, d)

/-- The best of a list of candidates (R90). [assumption 221 (DEDUCED)] -/
def bestCand (m : Nat) (l : List Cand) : Option Cand :=
  l.foldl (fun b c => match b with
    | none => some c
    | some x => if Cand.better m c x then some c else some x) none

/-- The line of R88 searched for a power: each candidate at its own rounded φ, those beyond PHI_MAX excluded (R89). -/
def lineSearch (p : DsvPar) (e : Elec) (pw : Rat) : Option Cand :=
  let m := matched e.k
  let a := if pw < 0 then -pw else pw
  let cs := (dhis m).filterMap (fun (d : Nat) =>
    match phiCode ((d : Rat) / 32768) (a / e.pb4) with
    | none => none
    | some c =>
      if p.phiMax < c then none
      else
        let w := assign e.k d
        some (evalCand p e d w.1 w.2 (if pw < 0 then -(c : Int) else c)))
  bestCand m cs

/-- The line of R88 searched at a fixed φ (R93). -/
def lineAt (p : DsvPar) (e : Elec) (phi : Int) : Cand :=
  let m := matched e.k
  let cs := (dhis m).map (fun (d : Nat) => let w := assign e.k d; evalCand p e d w.1 w.2 phi)
  (bestCand m cs).getD (evalCand p e 0x8000 0x8000 0x8000 phi)

/-- The power a set delivers, in watts (R85). [assumption 28 (DEDUCED)] -/
def delivered (e : Elec) (c : Cand) : Rat :=
  let a : Rat := (c.phi.natAbs : Rat) / 32768
  let d : Rat := (min c.d1 c.d2 : Nat) / 32768
  let g := e.pb4 * lineG d a
  if c.phi < 0 then -g else g

/-- I_rms in 0.1 A, to the nearest code, saturating at 16 bits (R85, R101). [assumption 28 (DEDUCED)] -/
def irmsCode (e : Elec) (msq : Rat) : Nat :=
  -- 2·I in 0.1 A is √(400 I²); the nearest code is (√⌊…⌋ + 1) / 2
  let x := 400 * (e.ib2 * e.ib2 * msq)
  min 0xFFFF ((Nat.sqrt x.floor.toNat + 1) / 2)

/-- One cell's set (R88–R93): idle and range first, then the line, saturation and slew. -/
def solveCell (p : DsvPar) (pIdle : Rat) (v1 v2 prd : Nat) (pw : Rat) (phiPrev : Int) (stale : Bool) : DsvRes :=
  let a := if pw < 0 then -pw else pw
  let vr := decide (v1 < p.v1min) || decide (p.v1max < v1) || decide (v2 < p.v2min) || decide (p.v2max < v2)
  if vr || decide (a < pIdle) then { idle := true, vrange := vr, stale := stale }
  else
    let e := elecOf p v1 v2 prd
    let best := lineSearch p e pw
    let sat := best.isNone
    let c0 := best.getD (evalCand p e 0x8000 0x8000 0x8000 (if pw < 0 then -(p.phiMax : Int) else p.phiMax))
    let dphi := c0.phi - phiPrev
    let slew := p.phiSlew != 0 && decide ((p.phiSlew : Int) < (if dphi < 0 then -dphi else dphi))
    let c := if slew then lineAt p e (phiPrev + (if dphi < 0 then -(p.phiSlew : Int) else p.phiSlew)) else c0
    { d1 := c.d1, d2 := c.d2, phi := c.phi, zvsOk := c.nhard == 0, hard := c.nhard != 0, sat := sat, slew := slew,
      stale := stale, nhard := c.nhard, hmask := c.hmask, irms := irmsCode e c.msq,
      pdel := max (-32767) (min 32767 (roundAway (delivered e c / 10))) }

/-! ### The maps of the DSV page -/

/-- A bit of a map that spans two registers, cells 0–31 and 32–47. -/
def mapBit (lo hi n : Nat) : Fld := if n < 32 then ⟨lo, n, 1⟩ else ⟨hi, n - 32, 1⟩

def dsvEn (n : Nat) : Fld := mapBit DSV.EN_MAP0 DSV.EN_MAP1 n
def dsvHard (n : Nat) : Fld := mapBit DSV.HARD_MAP0 DSV.HARD_MAP1 n
def dsvSat (n : Nat) : Fld := mapBit DSV.SAT_MAP0 DSV.SAT_MAP1 n
def dsvPend (n : Nat) : Fld := mapBit DSV.PEND_MAP0 DSV.PEND_MAP1 n

/-- N_MAX at a control period in 10 ns units (R96): the window instants are those of R18. -/
def nMaxOf (per : Nat) : Nat :=
  let w : Rat := ((per * 84 / 100 : Nat) : Rat) - ((per * 72 / 100 : Nat) : Rat)
  let t : Rat := (3 / 4 * (w * 10) - 800) / (40 / 3)
  min 48 (1 + t.floor.toNat)

/-! ### Enabling (R97, R98) -/

/-- One cell's request of a write to EN_MAP (R98). -/
def State.dsvEnOne (s : State) (n : Nat) (on : Bool) : State :=
  let ofs := if n < 32 then 0x44 else 0x48
  let r := resKey 1 (2 * n + 1)
  if on then
    match s.stackOf n with
    | some _ => s.judge DSV.page ofs [((parOf (s.parWords n)).bad, dPARAM)] (fun s => s.set (dsvEn n) 1)
    | none =>
      if !s.claimable r 3 n then s.deny DSV.page ofs r 3 n
      else s.judge DSV.page ofs [((parOf (s.parWords n)).bad, dPARAM)]
        (fun s => ((s.chSync (2 * n + 1)).takeClaim r 3 n).set (dsvEn n) 1)
  else
    s.judge DSV.page ofs
      [((s.stackOf n).isSome && s.cst n ∈ [ckACTIVE, ckCHARGING, ckSPARE], dSTATE)]
      (fun s => ((s.chSync (2 * n + 1)).set (dsvEn n) 0).release r 3 n)

/-- The number of cells whose EN bit is set. -/
def State.dsvCount (s : State) : Nat := ((List.range 48).filter (fun n => s.on (dsvEn n))).length

/-- N_MAX.BUDGET: more cells are enabled than N (R97, R101). -/
def State.dsvOver (s : State) : State := s.setB DSV.N_MAX_BUDGET (decide (s.get DSV.N_MAX_N < s.dsvCount))

/-- A host write to EN_MAP0 (`m` = 0) or EN_MAP1 (`m` = 1): the budget first, for the whole write, then cell by cell
in ascending order (R97, R98, R519). A write that sets no bit is not held against the budget. [assumption 27 (DEDUCED)] -/
def State.dsvEnWrite (s : State) (m : Nat) (val : Word) : State :=
  let cells := if m = 0 then List.range 32 else (List.range 16).map (· + 32)
  let want := fun n => if m = 0 then val.getLsbD n else val.getLsbD (n - 32)
  let others := ((List.range 48).filter (fun n => s.on (dsvEn n) && !cells.contains n)).length
  let after := others + (cells.filter want).length
  let sets := cells.any (fun n => want n && !s.on (dsvEn n))
  s.judge DSV.page (0x44 + 4 * m) [(sets && decide (s.get DSV.N_MAX_N < after), dBUDGET)] (fun s =>
    (s.each (cells.filter (fun n => want n != s.on (dsvEn n))) (fun s n => s.dsvEnOne n (want n))).dsvOver)

/-! ### Parameters (R99) -/

/-- A write to PAR_COMMIT: the staged words are checked and copied to the cell's pending slot (R99). -/
def State.parCommit (s : State) (cell : Nat) : State :=
  let ws := (List.range 8).map (fun i => if i < 6 then s.reg (DSV.PAR_STAGE0 + 4 * i) else 0)
  s.judge DSV.page 0x68 [(decide (48 ≤ cell) || (parOf ws).bad, eRANGE)] (fun s =>
    (s.setDsv cell { s.dsv cell with pend := some ws }).set (dsvPend cell) 1)

/-- At the opening of the Grainer and solver window the pending words replace the active block and PAR_DONE is raised
(R99). -/
def State.parApply (s : State) : State :=
  s.each (List.range 48) (fun s n => match (s.dsv n).pend with
    | none => s
    | some ws =>
      let s := s.each ws.zipIdx (fun s p => s.setReg (DSV.PAR_COPY (8 * n + p.2)) p.1)
      (((s.setDsv n { s.dsv n with pend := none }).set (dsvPend n) 0)).irq DSV.page 4)

/-- At the same opening the accepted enables take effect (R98), and nothing has been solved yet; the set in hand stays in
use until another takes its place (R24). -/
def State.dsvOpen (s : State) : State :=
  s.each (List.range 48) (fun s n =>
    let d := s.dsv n
    s.setDsv n { d with on := s.on (dsvEn n), solved := false, use := d.use && s.on (dsvEn n) })

/-! ### Solving (R82, R93, R96, R100) -/

/-- P_i of a cell: the Grainer's command for a member of an enabled stack, or else the published command (R82). -/
def State.dsvPower (s : State) (n : Nat) : Rat :=
  if (s.stackOf n).isSome then (s.cell n).power else f32Rat (s.pub 3 n)

/-- The enabled cells the solver reaches in a period: the first N_MAX in ascending index (R97). -/
def State.dsvCells (s : State) : List Nat :=
  ((List.range 48).filter (fun n => (s.dsv n).on)).take (s.get DSV.N_MAX_N)

/-- φ_prev of R93: 0 after an idle, out-of-range or disabled period or a BLOCK frame. -/
def State.phiPrevOf (s : State) (n : Nat) : Int := (s.dsv n).phiPrev

/-- Half the carrier period of a cell's DAB channel in the period the set is for: the captured PRD, or the one in force
(R83, R112). [assumption 26 (DEDUCED)] -/
def State.dabPrd (s : State) (n : Nat) : Nat :=
  let c := s.chan (2 * n + 1)
  match c.cap with
  | some (v, _) => v.prd
  | none => match c.turn with
    | some (p, _) => p
    | none => c.act.prd

/-- Solve one cell (R82, R100). [assumption 26 (DEDUCED)] -/
def State.dsvSolveOne (s : State) (n : Nat) : State :=
  let c := s.cell n
  let stale := s.on (GRN.CELL_STATE_STALE (n / 8) (n % 8)) || c.unmeas.testBit 0 || c.unmeas.testBit 1
  let r := solveCell (parOf (s.parWords n)) (10 * (s.get DSV.CFG_P_IDLE : Rat)) c.v1 c.v2
    (s.dabPrd n) (s.dsvPower n) (s.phiPrevOf n) stale
  s.setDsv n { s.dsv n with res := r, solved := true, use := true }

/-- The solver's work of one period (R96): the last hand-over comes 120 cycles for the first set and 8 for each further one
after the Grainer's completion, 600 ns after the window opens; DONE_T shows it in the next period.
[assumption 243 (DESIGN CHOICE)] -/
def State.dsvSolve (s : State) : State :=
  let cs := s.dsvCells
  let s := s.each cs State.dsvSolveOne
  let t : Rat := (s.get TBS.PER_WIN0_W_LE : Rat) + 80 + ((cs.length - 1 : Nat) : Rat) * (4 / 3)
  if cs.isEmpty then s else { s with dsvDone := t.floor.toNat }

/-- A period opens: DONE_T shows the last hand-over of the one that ended, and 0 where it had none (R96).
[assumption 243 (DESIGN CHOICE)] -/
def State.dsvDoneT (s : State) : State := { (s.set DSV.DONE_T_T s.dsvDone) with dsvDone := 0 }

/-- The DSV writes its results and latches its flags at the close of the window (R95, R102). -/
def State.dsvLatch (s : State) : State :=
  s.each (List.range 48) (fun s n =>
    let d := s.dsv n
    if d.solved then
      let r := d.res
      let s := (s.set (DSV.RES_A_D1 n) r.d1).set (DSV.RES_A_D2 n) r.d2
      let s := (s.setS (DSV.RES_B_PHI n) r.phi).setB (DSV.RES_B_ZVS_OK n) r.zvsOk
      let s := ((s.setB (DSV.RES_B_HARD n) r.hard).setB (DSV.RES_B_SAT n) r.sat).setB (DSV.RES_B_SLEW n) r.slew
      let s := ((s.setB (DSV.RES_B_IDLE n) r.idle).setB (DSV.RES_B_VRANGE n) r.vrange).setB (DSV.RES_B_STALE n) r.stale
      let s := (s.set (DSV.RES_B_NHARD n) r.nhard).set (DSV.RES_B_HMASK n) r.hmask
      let s := (s.set (DSV.RES_C_I_RMS n) r.irms).setS (DSV.RES_C_P_DEL n) r.pdel
      let s := (s.setB (dsvHard n) r.hard).setB (dsvSat n) r.sat
      let s := s.iff r.hard (fun s => s.bump DSV.HARD_CNT_CNT)
      let s := s.iff (r.hard && !d.wasHard) (fun s => s.irq DSV.page 0)
      let s := s.iff r.sat (fun s => s.irq DSV.page 1)
      let s := s.iff r.vrange (fun s => s.irq DSV.page 2)
      s.setDsv n { d with wasHard := r.hard }
    else
      ((s.set (dsvHard n) 0).set (dsvSat n) 0).setDsv n { d with wasHard := false })

/-- N_MAX follows T_c; more cells enabled than N_MAX set BUDGET (R96, R97). [assumption 244 (DEDUCED)] -/
def State.dsvBudget (s : State) : State :=
  let s := (s.set DSV.N_MAX_N (nMaxOf (s.get TBS.PER_CFG_PERIOD))).dsvOver
  s.iff (s.on DSV.N_MAX_BUDGET) (fun s => s.irq DSV.page 3)

/-! ### The commands -/

/-- DSV_CELL_ENABLE (R98): a write of EN_MAP with the cell's bit set. -/
def execDsvCellEnable (n : Fin 48) (s : State) : Host.Outcome State Fault Refusal :=
  .next (if n.val < 32 then s.dsvEnWrite 0 (putBits (s.reg DSV.EN_MAP0) n 1 1)
    else s.dsvEnWrite 1 (putBits (s.reg DSV.EN_MAP1) (n - 32) 1 1))

/-- DSV_CELL_DISABLE (R98): a write of EN_MAP with the cell's bit clear. -/
def execDsvCellDisable (n : Fin 48) (s : State) : Host.Outcome State Fault Refusal :=
  .next (if n.val < 32 then s.dsvEnWrite 0 (putBits (s.reg DSV.EN_MAP0) n 1 0)
    else s.dsvEnWrite 1 (putBits (s.reg DSV.EN_MAP1) (n - 32) 1 0))

/-- PAR_COMMIT (R99). -/
def execParCommit (cell : Fin 64) (s : State) : Host.Outcome State Fault Refusal := .next (s.parCommit cell)

/-- PAR_DONE (R99): the window opens. -/
def execParDone (s : State) : Host.Outcome State Fault Refusal := .next s.parApply

end Sys2Proof.Machine
end

