-- ==== Sys2Proof/Machine/Modulators.lean ====
section
/-! DEFINITION. Modulators and the PWM time base: carriers, shadow capture and reload, the events of the next schedule,
local leg channels, trips and halts (R104–R144). Station time is counted from the epoch, in ticks or in fine steps of
a sixteenth of a tick. -/

namespace Sys2Proof.Machine

abbrev mEVENTS : Nat := 0x40
abbrev tTRIP_ACTIVE : Nat := 0x40
abbrev tFLAG_SET : Nat := 0x41

/-! ### Captures (R113–R115) -/

/-- The captured dead time of a cell by its PID: DT_AFE, DT_DABP, DT_DABS (R170). -/
def State.dtOf (s : State) (n pid : Nat) : Nat :=
  match pid with
  | 1 => (s.chan (2 * n)).act.dta
  | 2 => (s.chan (2 * n + 1)).act.dta
  | _ => (s.chan (2 * n + 1)).act.dtb

/-- The capture of a cell channel at the close of the loop-engine window of period `k` (R113). Captured values that
equal those in force leave nothing to transfer; a later capture replaces an earlier one, and one with the same values
leaves its eligibility. A channel that does not run takes its values over at once. Changed dead times wait for a
configuration frame (R119, R170). [assumption 36 (DEDUCED)] -/
def State.chCapture (s : State) (ch : Nat) : State :=
  let c := s.chAt ch s.pidx (16 * s.nowTick + 15)
  if s.chLocked ch then s.putChan ch c
  else
    let v := s.chShadow ch
    let dtNew := v.dta != c.act.dta || v.dtb != c.act.dtb
    let bits := (if ch % 2 = 0 then (if v.dta != c.act.dta then 1 else 0)
      else (if v.dta != c.act.dta then 2 else 0) + (if v.dtb != c.act.dtb then 4 else 0))
    let s := if dtNew then
        (s.set (MODCH.STAT_DT_PEND ch) 1).modLane (ch / 2) (fun l =>
          let l := if l.dtAt = s.pidx && l.dtNew != 0 then l
            else { l with dtChg := l.dtChg ||| l.dtNew, dtNew := 0, dtAt := s.pidx, dtPrev := [1, 2, 3].map (s.dtOf (ch / 2)) }
          { l with dtNew := l.dtNew ||| bits })
      else s
    let c := { c with act := { c.act with dta := v.dta, dtb := v.dtb } }
    if !s.chRuns ch then
      s.putChan ch { c with act := v, cap := none, turn := none, v0 := v.phase, dl := 0 }
    else
      let cap := if v = c.goal then none
        else match c.cap with
          | some (w, e) => if w = v then some (w, e) else some (v, s.pidx + 1)
          | none => some (v, s.pidx + 1)
      s.putChan ch { c with cap := cap }

/-- The tick at which the loop-engine window of this period closes (R18, R113). -/
def State.capTickNow (s : State) : Int := s.tickOf (s.bndAt + s.get TBS.PER_WIN0_W_LE * t10)

/-- The captures of a period, but for channels whose capture R114 has settled already. [assumption 37 (DEDUCED)] -/
def State.captureAll (s : State) : State :=
  s.each (List.range 96) (fun s ch =>
    if (s.chan ch).capTick == some s.capTickNow then s else s.chCapture ch)

/-- Published duties of class AFE are written to the compare registers of cells that a context feeds: those in a
DIRECT stack or in no stack (R111, R197). -/
def State.afeFromPubs (s : State) (clsAfe : Nat) : State :=
  s.each (List.range 48) (fun s n =>
    let h := s.claim (resKey 1 (2 * n))
    if h.cls == 4 || h.subCls == 4 then
      let d := clampR (-1) 1 (f32Rat (s.pub clsAfe n))
      let prd := s.get (MODCH.PRD_PRD (2 * n))
      (s.set (MODCH.CMPA_CMPA (2 * n)) (cmpOf prd d)).set (MODCH.CMPB_CMPB (2 * n)) (cmpOf prd (-d))
    else s)

/-- The Grainer's own writes join the values captured in this period (R109, R116). -/
def State.grnCapture (s : State) : State :=
  s.each ((List.range 48).filter (fun n => s.chBound (2 * n) && (s.claim (resKey 1 (2 * n))).cls == 2)) (fun s n =>
    let ch := 2 * n
    let c := s.chan ch
    let sh := s.chShadow ch
    let base := match c.cap with | some (v, _) => v | none => c.goal
    let v := { base with phase := sh.phase, cmpa := sh.cmpa, cmpb := sh.cmpb }
    s.putChan ch { c with cap := if v = c.goal then none else some (v, s.pidx + 1) })

/-- A period boundary is a reload event for the channels on BOUNDARY (R112); `s.pidx` is the period it opens. -/
def State.chBoundary (s : State) : State :=
  let x := 16 * s.nowTick
  s.each (List.range 96) (fun s ch =>
    let c := s.chAt ch (s.pidx - 1) (x - 1)
    let c := if s.chRld ch == 0 && c.capTick != some s.nowTick then s.chTr ch s.pidx c else c
    s.putChan ch c)

/-! ### The event budget (R123) -/

/-- The bound of R123 for carrier half-periods of a DAB and an AFE channel, with T_c in 10 ns units. -/
def budgetOk (per prdDab prdAfe : Nat) : Bool :=
  let tc := 4 * per
  let up := fun a b : Nat => (a + b - 1) / b
  decide (4 * (up (2 * tc) (2 * prdDab) + 1) + 2 * (up (4 * tc) (2 * prdAfe) + 1) ≤ 16)

/-! ### The schedule of a cell (R120–R122, R156) -/

/-- A stretch of one carrier slope with constant values: its fine steps, the valley it belongs to, the length of that
carrier period, and the active values. -/
structure Slope where
  a : Int
  b : Int
  v : Int
  per : Int
  act : ChVals
  deriving DecidableEq, Repr

/-- The slopes of a channel from fine step `x` to `stop`, the carrier events acting between them (R108, R110, R112). -/
def slopes (tr : Chan → Chan) (rld : Nat) (sync : Bool) : Nat → Chan → Int → Int → List Slope
  | 0, _, _, _ => []
  | f + 1, c, x, stop =>
    let (v, l) := c.valleyAt (x / 16)
    let (e, valley) := c.nextEvent x
    let sl : Slope := ⟨x, min e stop, 16 * v, 16 * l, c.act⟩
    if stop ≤ e then [sl] else sl :: slopes tr rld sync f (c.event tr rld sync e valley) e stop

/-- The slopes of a cell channel in the interval from fine step `b1` to `b2` that period `s.pidx + 1` spans.
[assumption 38 (DEDUCED)] -/
def State.chSlopes (s : State) (ch : Nat) (b1 b2 : Int) : List Slope :=
  let k := s.pidx + 1
  let rld := s.chRld ch
  let tr := s.chTr ch k
  let c := s.chAt ch s.pidx (b1 - 1)
  let c := if rld == 0 then tr c else c
  let (e, valley) := c.nextEvent (b1 - 1)
  let c := if e = b1 then c.event tr rld true e valley else c
  slopes tr rld true 100 c b1 b2

/-- The compare value of a leg in fine steps of its slope, scaled as R110 says (R111). -/
def legWidth (cmp prd : Nat) (per : Int) : Int :=
  let full := 16 * prd
  if full ≤ cmp then per / 2 + 1 else roundAway (((cmp : Int) * per : Int) / ((2 * full : Nat) : Rat))

/-- State of a compared leg at fine step `t`: 2 high, 1 low (R111). [assumption 38 (DEDUCED)] -/
def cmpState (w : Int) (sl : Slope) (t : Int) : Nat := if t < sl.v + w || sl.v + sl.per - w ≤ t then 2 else 1

/-- State of a leg that is high from `h` to `l` fine steps after its valley, in the period of the carrier (R121). -/
def pulseState (h l : Int) (sl : Slope) (t : Int) : Nat := if (t - sl.v - h) % sl.per < l - h then 2 else 1

/-- A point of a leg's course: the fine step, the state its carrier and values give from there on, and the values. -/
structure LegPt where
  at_ : Int
  st : Nat
  act : ChVals
  deriving DecidableEq, Repr

/-- The points of a leg over its slopes: the beginning of each slope, and every instant at which the state can change. -/
def legPts (st : Slope → Int → Nat) (cand : Slope → List Int) (sls : List Slope) : List LegPt :=
  sls.flatMap (fun sl =>
    (sl.a :: ((cand sl).filter (fun t => sl.a < t ∧ t < sl.b)).insertionSort (· ≤ ·)).map (fun t => ⟨t, st sl t, sl.act⟩))

/-- Changes of a leg before fine step `stop`, from the state `cur`: each change with its instant and the values then, and
the last state. A high or low pulse that will end before `minpw` fine steps have passed is dropped, and the leg keeps
its state through it (R118, R122). [assumption 234 (DEDUCED)] -/
def legWalk (minpw : ChVals → Nat) (stop : Int) : List LegPt → Nat → List LegPt × Nat
  | [], cur => ([], cur)
  | p :: r, cur =>
    let short := match r.find? (fun q => q.st != p.st) with
      | some q => decide (q.at_ - p.at_ < minpw p.act)
      | none => false
    if stop ≤ p.at_ then ([], cur)
    else if p.st = cur || (cur != 0 && p.st != 0 && short) then legWalk minpw stop r cur
    else
      let (l, e) := legWalk minpw stop r p.st
      (p :: l, e)

/-- The points of a leg that compares with `cmp` (R111). -/
def cmpPts (cmp : ChVals → Nat) (sls : List Slope) : List LegPt :=
  let w := fun sl : Slope => legWidth (cmp sl.act) sl.act.prd sl.per
  legPts (fun sl => cmpState (w sl) sl) (fun sl => [sl.v + w sl, sl.v + sl.per - w sl]) sls

/-- The changes of front-end leg a (`hi` = 0) or b before fine step `stop` (R111, R118). -/
def afeLeg (hi : Nat) (cur : Nat) (sls : List Slope) (stop : Int) : List LegPt × Nat :=
  legWalk (·.minpw) stop (cmpPts (fun v => if hi = 0 then v.cmpa else v.cmpb) sls) cur

/-- The changes of a DAB leg whose high edge lies at θ = `x` (R121), each instant rounded to the nearest fine step.
[assumption 31 (DEDUCED)] -/
def dabLeg (x : Rat) (cur : Nat) (sls : List Slope) (stop : Int) : List LegPt × Nat :=
  let h := fun sl : Slope => roundAway (x * (sl.per : Rat) / 2)
  let l := fun sl : Slope => roundAway ((x + 1) * (sl.per : Rat) / 2)
  legWalk (fun _ => 0) stop (legPts (fun sl => pulseState (h sl) (l sl) sl)
    (fun sl => [-2, -1, 0, 1].flatMap (fun j : Int => [sl.v + h sl + j * sl.per, sl.v + l sl + j * sl.per])) sls) cur

/-- θ of the high edge of DAB leg `i`: primary a, primary b, secondary a, secondary b (R121). [assumption 39 (DEDUCED)] -/
def dabTheta (r : DsvRes) (i : Nat) : Rat :=
  let d1 : Rat := (r.d1 : Rat) / 65536
  let d2 : Rat := (r.d2 : Rat) / 65536
  let f : Rat := (r.phi : Rat) / 32768
  match i with
  | 0 => -d1
  | 1 => d1
  | 2 => f - d2
  | _ => f + d2

/-- A cell is blocked by a condition other than its events: the stage, a trip, its stack, an overrun reaction, a
context's abort (R24, R64, R66, R70, R78, R129, R133, R212). [assumption 33 (DEDUCED)] -/
def State.cellBlocked (s : State) (n : Nat) : Bool :=
  let c := s.cell n
  let stk := match s.stackOf n with
    | some k => s.stkState k ∈ [skIDLE, skBLOCKED]
    | none => false
  !s.armed || s.cellTripped n || stk || c.blkNow || s.ctxBlocked n

/-- A DAB channel has a set to place its legs from: one in use, and not idle (R24, R121). [assumptions 31, 39 (DEDUCED)] -/
def State.dabSet (s : State) (n : Nat) : Option DsvRes :=
  let d := s.dsv n
  if d.use && !(d.res.d1 == 0 && d.res.d2 == 0) && (s.chRuns (2 * n + 1) || d.on) then some d.res else none

/-- CMD and the three BRG fields of a cell's frame, where it is not blocked (R156). -/
def State.framePlan (s : State) (n : Nat) : Nat × Nat × Nat × Nat :=
  let dab := if (s.dabSet n).isSome then 0 else 1
  match s.stackOf n with
  | none =>
    let cmd := s.get (LANE.CFG_CMD n)
    if cmd == 1 then (1, 1, 1, 1) else (cmd, if s.chRuns (2 * n) then 0 else 1, dab, dab)
  | some k =>
    let st := s.cst n
    if st == ckACTIVE then
      let fe := if s.stkState k == skRUN && (s.stack k).feOff != s.pidx + 1 then 0 else 1
      (if (s.cell n).reinsert then 3 else 0, fe, dab, dab)
    else if st == ckSPARE || st == ckCHARGING then (2, 2, dab, dab)
    else if st == ckTEST then (4, 0, 0, 0)
    else (2, 2, 1, 1)

/-- The events of a cell's schedule from fine step `b1` to `b2`, in order of T and then SW, and the leg states they
end in. A held bridge has no events, and its legs count as off; in the first schedule that runs the cell again (`fresh`) every
leg starts from off (R120, R122, R156). -/
def State.cellEvents (s : State) (n : Nat) (b1 b2 : Int) (fresh : Bool) (brg0 brg1 brg2 : Nat) : List (Nat × Nat × Nat) × List Nat :=
  let c := s.cell n
  let cur := fun i => if fresh then 0 else c.legs.getD i 0
  let none_ : List LegPt × Nat := ([], 0)
  let ahead := b2 + 32 * ((s.chan (2 * n)).goal.prd : Int)
  let afe := if brg0 = 0 ∧ s.chRuns (2 * n) then s.chSlopes (2 * n) b1 ahead else []
  let dsl := if (brg1 = 0 ∨ brg2 = 0) ∧ (s.dabSet n).isSome then s.chSlopes (2 * n + 1) b1 b2 else []
  let legs := (List.range 6).map (fun i =>
    if i < 2 then (if afe.isEmpty then none_ else afeLeg i (cur i) afe b2)
    else match s.dabSet n with
      | some r => if dsl.isEmpty then none_ else dabLeg (dabTheta r (i - 2)) (cur i) dsl b2
      | none => none_)
  let evs := legs.zipIdx.flatMap (fun p => p.1.1.map (fun e =>
    ((e.at_ - b1).toNat, 2 * p.2 + (e.st - 1), 1)))
  (evs.insertionSort (fun a b => a.1 < b.1 ∨ (a.1 = b.1 ∧ a.2.1 ≤ b.2.1)), legs.map (fun l => l.2))

/-- EVT_OVF of a cell, with its flags and event (R123, R140, R141). -/
def State.setOvf (s : State) (n : Nat) (b : Bool) : State :=
  let s := s.iff (b && !(s.cell n).evtOvf) (fun s => s.irq MOD.page 0)
  let s := s.modCell n (fun c => { c with evtOvf := b })
  let s := (s.setB (MODCH.STAT_EVT_OVF (2 * n)) b).setB (MODCH.STAT_EVT_OVF (2 * n + 1)) b
  s.setB (mapBit MOD.EVT_OVF_MAP0 MOD.EVT_OVF_MAP1 n) b

/-- The T_c in 10 ns of the period the next boundary opens (R22, R155). -/
def State.nextPeriod (s : State) : Nat :=
  match s.perPend with
  | some (p, i) => if i = s.pidx + 1 then p else s.get TBS.PER_CFG_PERIOD
  | none => s.get TBS.PER_CFG_PERIOD

/-- The fine step of the boundary that opens the next period. -/
def State.nextBnd (s : State) : Int := 16 * s.tickOf (s.bndAt + s.tc)

/-- MOD's work of a Grainer and solver window for one cell: the events of the next schedule and EVT_OVF (R120, R123).
[assumption 239 (DEDUCED)] -/
def State.modCell1 (s : State) (n : Nat) : State :=
  let runs := s.chRuns (2 * n) || s.chRuns (2 * n + 1) || (s.dsv n).on
  let b1 := s.nextBnd
  let tc := s.nextPeriod
  let (cmd, g0, g1, g2) := s.framePlan n
  let fresh := (s.cell n).restart && cmd != 1 && cmd != 2
  let (evs, ends) := if runs then s.cellEvents n b1 (b1 + 64 * (tc : Int)) fresh g0 g1 g2 else ([], [0, 0, 0, 0, 0, 0])
  let ovf := decide (16 < evs.length) || !budgetOk tc (s.chan (2 * n + 1)).goal.prd (s.chan (2 * n)).goal.prd
  let nA := (evs.filter (fun e => decide (e.2.1 < 4))).length
  let s := (s.set (MODCH.STAT_EVT (2 * n)) (min 31 nA)).set (MODCH.STAT_EVT (2 * n + 1)) (min 31 (evs.length - nA))
  (s.modCell n (fun c => { c with evs := evs, legsNext := ends })).setOvf n ovf

/-- MOD's work for every cell. -/
def State.modCompute (s : State) : State := s.each (List.range 48) State.modCell1

/-- A change of T_c that breaks the bound for a cell sets EVT_OVF (R123). -/
def State.modPeriod (s : State) : State :=
  s.each (List.range 48) (fun s n =>
    let bad := !budgetOk (s.get TBS.PER_CFG_PERIOD) (s.chan (2 * n + 1)).goal.prd (s.chan (2 * n)).goal.prd
    if bad then s.setOvf n true else s)

/-! ### Host writes to channel pages (R107, R114, R116, R117, R123) -/

/-- A write of the channel's shadow in the tick of its capture is taken at the next one (R114). [assumption 37 (DEDUCED)] -/
def State.chDefer (s : State) (ch : Nat) : State :=
  let t := s.capTickNow
  if s.nowTick == t then
    let s := if s.window == 1 && (s.chan ch).capTick != some t then s.chCapture ch else s
    let s := s.setChan ch { s.chan ch with capTick := some t }
    (s.set (MODCH.STAT_DEFER ch) 1).bump MOD.DEFER_CNT_CNT
  else s

/-- The permitted PRD of a cell channel (R107). -/
def prdOk (ch prd : Nat) : Bool :=
  if ch % 2 = 0 then 10000 ≤ prd && decide (prd ≤ 100000) else 2000 ≤ prd && decide (prd ≤ 10000)

/-- The page of a cell channel (R140). -/
def chPage (ch : Nat) : Nat := MODCH.page (ch / 8)

/-- The offset of a register in the page of its channel (R140). -/
def chOfs (ch r : Nat) : Nat := 0x80 + 0x20 * (ch % 8) + r

/-- A host write to a register of a cell channel, `r` its offset in the slot (R140). [assumption 30 (DEDUCED)] -/
def State.chWrite (s : State) (ch r : Nat) (val : Word) : State :=
  let pg := chPage ch
  let ofs := chOfs ch r
  let put := fun (s : State) => (s.chDefer ch).take .modch pg ofs val
  let lim := 2 * s.get (MODCH.PRD_PRD ch)
  match r with
  | 0x04 =>
    let p := getBits val 0 17
    let dab := if ch % 2 = 1 then p else s.get (MODCH.PRD_PRD (ch + 1))
    let afe := if ch % 2 = 0 then p else s.get (MODCH.PRD_PRD (ch - 1))
    s.judge pg ofs [(!prdOk ch p, eRANGE), (!budgetOk (s.get TBS.PER_CFG_PERIOD) dab afe, mEVENTS)] put
  | 0x08 => s.judge pg ofs [(decide (lim ≤ getBits val 0 18), eRANGE), (s.chBound ch, eCLAIM_DENIED)] put
  | 0x0C | 0x10 => s.judge pg ofs [(s.chBound ch, eCLAIM_DENIED)] (if ch % 2 = 1 then id else put)
  | 0x14 => s.judge pg ofs
      [(decide (64000 < getBits val 0 16) || (ch % 2 == 1 && decide (64000 < getBits val 16 16)), eRANGE)] put
  | 0x18 => s.judge pg ofs [] put
  | 0x00 => s.judge pg ofs [] (fun s => (s.chSync ch).take .modch pg ofs val)
  | _ => s.judge pg ofs [] (fun s => s.take .modch pg ofs val)

/-- A capture or a reload event of a cell channel falls in the present tick (R112, R113). -/
def State.chTickEvent (s : State) (ch : Nat) : Bool :=
  let t := s.nowTick
  let rld := s.chRld ch
  let (e, v) := (s.chan ch).nextEvent (16 * t - 1)
  t == s.capTickNow || (if rld == 0 then t == s.tickOf s.bndAt || 16 * t == s.nextBnd
    else decide (e < 16 * t + 16) && rldTakes rld v)

/-- A clear of an update lock in the tick of a capture or of a reload event is deferred for the group's channels (R114,
R115). -/
def State.unlockDefer (s : State) (chs : List Nat) : State :=
  s.each (chs.filter (fun ch => !s.chOwned ch && s.chTickEvent ch)) (fun s ch =>
    ((s.setChan ch { s.chan ch with capTick := some s.nowTick }).set (MODCH.STAT_DEFER ch) 1).bump MOD.DEFER_CNT_CNT)

/-- A host write to MOD.CHPG_CTL of page `p` (R115). -/
def State.chpgWrite (s : State) (p : Nat) (val : Word) : State :=
  s.judge (MODCH.page p) 0x40 [] (fun s =>
    let was := s.on (MODCH.CHPG_CTL_UPD_LOCK p)
    let s := s.each ((List.range 8).map (8 * p + ·)) State.chSync
    let s := if was && getBits val 0 1 == 0 then s.unlockDefer ((List.range 8).map (8 * p + ·)) else s
    s.take .modch (MODCH.page p) 0x40 val)

/-- A host write to MOD.CFG (R115, R139). -/
def State.modCfgWrite (s : State) (val : Word) : State :=
  s.judge MOD.page 0x40 [] (fun s =>
    let s := s.each (List.range 96) State.chSync
    let s := if s.on MOD.CFG_GLB_LOCK && getBits val 1 1 == 0 then s.unlockDefer (List.range 96) else s
    s.take .modc MOD.page 0x40 val)

/-! ### Local leg channels (R112–R114, R124, R125) -/

/-- The shadow of a local leg: its registers (R112, R142). -/
def State.legShadow (s : State) (k : Nat) : ChVals :=
  { prd := s.get (LPW.PRD_PRD k), phase := s.get (LPW.PHASE_PHASE k), cmpa := s.get (LPW.CMP_CMP k), cmpb := 0,
    dta := s.get (LPW.DT_DT k), dtb := 0, minpw := s.get (LPW.MINPW_MINPW k), mode := s.get (LPW.CFG_MODE k) }

/-- A local leg's channel runs: EN is 1, or a machine, a chopper or a self-test holds it. -/
def State.legRuns (s : State) (k : Nat) : Bool := s.on (LPW.CFG_EN k) || (s.claim (resKey 2 k)).cls ∈ [5, 6, 8]

/-- The transfer of a leg: host values at once; a bound compare value only from its boundary on (R113, R115). -/
def State.legTr (s : State) (k per : Nat) (c : Chan) : Chan :=
  if (s.get LPW.CTL_UPD_LOCK).testBit k then c
  else
    let v := s.legShadow k
    match c.cap with
    | some (_, e) =>
      if e ≤ per then { c.moveTo v with cap := none, prev := none } else c.moveTo { v with cmpa := c.prev.getD c.act.cmpa }
    | none => c.moveTo v

/-- The period index an instant in fine steps belongs to: this period, or the next from its boundary on. -/
def State.perOf (s : State) (x : Int) : Nat := if s.nextBnd ≤ x then s.pidx + 1 else s.pidx

/-- The first reload event of a leg after its position (R112): two carrier events cover every choice of RLD. -/
def Chan.nextReload (c : Chan) (rld : Nat) : Int :=
  let (e, valley) := c.nextEvent c.pos
  if rldTakes rld valley then e else (c.nextEvent e).1

/-- PEND of a leg: its shadow awaits a transfer (R142). -/
def State.putLeg (s : State) (k : Nat) (c : Chan) : State :=
  (s.setChan (96 + k) c).setB (LPW.STAT_PEND k) (decide (c.goal ≠ s.legShadow k))

/-- The points of a local leg: its state under its mode (R111, R124). -/
def legModePts (sls : List Slope) : List LegPt :=
  (cmpPts (·.cmpa) sls).map (fun p => { p with st := match p.act.mode with
    | 0 => 0
    | 4 => 2
    | 5 => 1
    | _ => p.st })

/-- The switch of a leg that is on at fine step `x`: the incoming one once the dead time has run, or at once where the
leg has changed back before it had (R117). -/
def Chan.onAt (c : Chan) (dt : Nat) (x : Int) : Nat :=
  if c.lst != 0 && (c.lsw == c.lst || decide ((dt : Int) ≤ x - c.lat)) then c.lst else 0

/-- The leg's state changes (R117). -/
def Chan.legTurn (c : Chan) (p : LegPt) : Chan :=
  let on := c.onAt p.act.dta p.at_
  { c with lst := p.st, lat := p.at_, lsw := if p.st = 0 then 0 else if on = 0 then c.lsw else on }

/-- A leg's carrier, transfers and dead time acted on up to and including fine step `x`, `tr` the transfer of an event.
Where nothing has changed for three carrier periods, what came before them has no effect on the dead time. -/
def Chan.legAdvance (c : Chan) (tr : Chan → Chan) (rld : Nat) (sync waits : Bool) (x : Int) : Chan :=
  let per := 32 * ((max c.act.prd c.goal.prd : Nat) : Int)
  let back := x - 3 * per
  let c0 := if back ≤ c.pos then c
    else
      let d := if waits then Chan.runTo tr rld sync 6 c back else { c with pos := back }
      let w := ((legModePts (slopes tr rld sync 1 d back (back + 1))).head?.map (·.st)).getD 0
      { d with lst := w, lat := back - 64000, lsw := w }
  let ch := (legWalk (·.minpw) (x + 1) (legModePts (slopes tr rld sync 16 c0 c0.pos (x + 1 + per))) c0.lst).1
  let d := if waits then Chan.runTo tr rld sync 6 c x else { c with pos := max c.pos x }
  let e := ch.foldl Chan.legTurn c0
  { d with lst := e.lst, lat := e.lat, lsw := e.lsw }

/-- Act on a leg's carrier events up to and including fine step `x`, `per` the period index of an event's instant; a leg
that waits under R132 or R134 follows its mode from its first reload event. While a FREEZE holds, carriers and
dead-time counters stand (R137). -/
def State.legRunIn (s : State) (k : Nat) (per : Int → Nat) (x : Int) : State :=
  let c := s.chan (96 + k)
  if !s.legRuns k then s
  else if s.haltMode == 2 && s.halts != 0 then s.setChan (96 + k) { c with pos := max c.pos x }
  else
    let rld := s.get (LPW.CFG_RLD k)
    let sync := s.on (LPW.CFG_SYNC k)
    let woke := decide (c.nextReload rld ≤ x)
    let waits := decide (c.goal ≠ s.legShadow k) || c.turn.isSome || c.cap.isSome
    let s := s.putLeg k (c.legAdvance (fun c => s.legTr k (per (c.nextEvent c.pos).1) c) rld sync waits x)
    let s := if woke && s.legWait.testBit k then { s with legWait := s.legWait ^^^ 1 <<< k } else s
    if s.isl then s.set (LPW.STAT_OUT k) (s.legCode k) else s

/-- A leg acted on up to fine step `x` of this period, or of the next from its boundary on. -/
def State.legRun (s : State) (k : Nat) (x : Int) : State := s.legRunIn k s.perOf x

/-- A leg brought up to the end of the present tick. [assumption 41 (DEDUCED)] -/
def State.legSync (s : State) (k : Nat) : State := s.legRun k (16 * s.nowTick + 15)

/-- A write to a leg in the tick of a reload event is taken at the next one (R114). -/
def State.legDefer (s : State) (k : Nat) : State :=
  let t := s.nowTick
  let c := { s.chan (96 + k) with pos := 16 * t - 1 }
  if s.legRuns k && decide (c.nextReload (s.get (LPW.CFG_RLD k)) < 16 * t + 16) then
    ((s.set (LPW.STAT_DEFER k) 1).bump (LPW.STAT_DEFER_CNT k)).irq LPW.page 0
  else s

/-- A leg's channel starts: its carrier begins, with its shadow values active (R108). -/
def State.legStart (s : State) (k : Nat) : State :=
  let v := s.legShadow k
  let t := s.nowTick
  s.putLeg k { act := v, v0 := if s.on (LPW.CFG_SYNC k) then v.phase else t, pos := 16 * t + 15 }

/-- A leg's channel stops. -/
def State.legStop (s : State) (k : Nat) : State :=
  let s := { s with legBlk := s.legBlk &&& (0xFFF ^^^ 1 <<< k), legWait := s.legWait &&& (0xFFF ^^^ 1 <<< k) }
  s.setChan (96 + k) (chanDefault (96 + k))

/-- A host write to LPW.Lk_CFG (R124, R125, R142). -/
def State.legCfgWrite (s : State) (k : Nat) (val : Word) : State :=
  let ofs := 0x80 + 0x20 * k
  let en0 := s.on (LPW.CFG_EN k)
  let en1 := getBits val 0 1 == 1
  let held := (s.claim (resKey 2 k)).cls ∈ [5, 6]
  let modeChg := getBits val 1 3 != s.get (LPW.CFG_MODE k)
  let sync0 := s.on (LPW.CFG_SYNC k)
  s.fitted .lpw LPW.page ofs val (fun s => s.judge LPW.page ofs
    [(decide (6 ≤ getBits val 1 3) || getBits val 4 2 == 0, eRANGE), (held && modeChg, eCLAIM_DENIED)]
    (fun s =>
      let s := s.legSync k
      let put := fun (s : State) => (s.legDefer k).take .lpw LPW.page ofs val
      if !en0 && en1 then
        s.claimAll LPW.page ofs [resKey 2 k] 1 k (fun s => ((put s).legStart k).refreshLegs)
      else if en0 && !en1 then (((put s).release (resKey 2 k) 1 k).legStop k).refreshLegs
      else
        let s := put s
        let c := s.chan (96 + k)
        let c := if en0 && !sync0 && s.on (LPW.CFG_SYNC k) then { c with turn := some (c.goal.prd, c.goal.phase) } else c
        (s.putLeg k c).refreshLegs))

/-- A host write to another register of a leg's slot, `r` its offset (R142). [assumption 30 (DEDUCED)] -/
def State.legWrite (s : State) (k r : Nat) (val : Word) : State :=
  let ofs := 0x80 + 0x20 * k + r
  let held := (s.claim (resKey 2 k)).cls ∈ [5, 6]
  let put := fun (s : State) =>
    let s := ((s.legSync k).legDefer k).take .lpw LPW.page ofs val
    s.putLeg k (s.chan (96 + k))
  let drop := fun (s : State) => s.putLeg k { s.chan (96 + k) with cap := none, prev := none }
  if r = 0x00 then s.legCfgWrite k val
  else s.fitted .lpw LPW.page ofs val (fun s => match r with
  | 0x04 => s.judge LPW.page ofs [(decide (getBits val 0 18 < 4000) || decide (200000 < getBits val 0 18), eRANGE)] put
  | 0x08 => s.judge LPW.page ofs [(decide (2 * s.get (LPW.PRD_PRD k) ≤ getBits val 0 19), eRANGE)] put
  | 0x0C => s.judge LPW.page ofs [(held, eCLAIM_DENIED)] (fun s => drop (put s))
  | 0x10 => s.judge LPW.page ofs [(decide (64000 < getBits val 0 16), eRANGE)] put
  | 0x14 => s.judge LPW.page ofs [] put
  | 0x18 => s.judge LPW.page ofs [] (fun s =>
      if val.getLsbD 3 then (s.set (LPW.STAT_DEFER k) 0).set (LPW.STAT_DEFER_CNT k) 0 else s)
  | _ => s)

/-- A host write to LPW.CTL: several update locks in one tick (R115). -/
def State.lpwCtlWrite (s : State) (val : Word) : State :=
  s.judge LPW.page 0x40 [] (fun s =>
    let old := s.get LPW.CTL_UPD_LOCK
    let s := s.each (List.range 12) State.legSync
    let s := s.each ((List.range 12).filter (fun k => old.testBit k && !val.getLsbD k)) State.legDefer
    s.take .lpw LPW.page 0x40 val)

/-- The block of a leg lifts: it waits with both switches off for a reload event (R134). -/
def State.legUnblock (s : State) (k : Nat) : State :=
  if s.legBlk.testBit k then
    { s with legBlk := s.legBlk ^^^ 1 <<< k, legWait := s.legWait ||| 1 <<< k }.refreshLegs
  else s

/-- At a boundary each leg has run up to it, the blocks of R134 that take effect there act, and those whose context
has committed lift. -/
def State.legBoundary (s : State) : State :=
  let s := s.each (List.range 12) (fun s k => s.legRunIn k (fun _ => s.pidx - 1) (16 * s.nowTick - 1))
  let want := s.ctxBlkLegs
  let s := s.each ((List.range 12).filter (fun k => s.legBlk.testBit k && !want.testBit k)) State.legUnblock
  { s with legBlk := want }.refreshLegs

/-! ### Trips (R126–R132) -/

/-- The outputs of the groups a mask names: legs to high impedance, legs to STATIC_LOW, and cells (R127).
[assumption 32 (DEDUCED)] -/
def State.groupOuts (s : State) (gm : Nat) : Nat × Nat × Nat :=
  (bitsOf 8 gm).foldl (fun p g =>
    let legs := s.get (TRP.GRP_LEGS g)
    let stks := s.get (TRP.GRP_STKS g)
    let un := s.on (TRP.GRP_UNSTK g)
    let inStk := fun n => s.on (GRN.CELL_STK_MEMB (n / 8) (n % 8))
    let cells := maskOf ((List.range 48).filter (fun n =>
      (inStk n && stks.testBit (s.get (GRN.CELL_STK_STK (n / 8) (n % 8)))) || (un && !inStk n)))
    if s.on (TRP.GRP_ACT g) then (p.1, p.2.1 ||| legs, p.2.2 ||| cells)
    else (p.1 ||| legs, p.2.1, p.2.2 ||| cells)) (0, 0, 0)

/-- The groups input `n` trips (R127, R143). -/
def State.gmap (s : State) (n : Nat) : Nat :=
  if n < 4 then s.get (TRP.GMAP0_GMAP n) else s.get (TRP.GMAP1_GMAP (n - 4))

/-- The filter time of input `n` in 10 ns (R126). -/
def State.flt (s : State) (n : Nat) : Nat := if n < 4 then s.get (TRP.FLT0_FLT n) else s.get (TRP.FLT1_FLT (n - 4))

/-- A trip ball shows its active level, and the input is enabled (R126). -/
def State.trpLevel (s : State) (n : Nat) : Bool :=
  (s.get TRP.CFG_EN).testBit n && (match SMap.look s.trpIn n with
    | some (l, _) => l == (s.get TRP.CFG_POL).testBit n
    | none => false)

/-- The level of ball `n` has lasted the input's filter time (R126). -/
def State.trpLasted (s : State) (n : Nat) : Bool :=
  match SMap.look s.trpIn n with
  | some (_, t) => decide (t + s.flt n * t10 ≤ s.now)
  | none => false

/-- Input `n` trips: every output, or the outputs of its groups (R127). -/
def State.tripIn (s : State) (n : Nat) : State :=
  if s.on TRP.CFG_GROUPS then
    let (h, a, c) := s.groupOuts (s.gmap n)
    s.trip n h a c
  else s.tripAll n

/-- The enabled inputs follow their balls: an input whose level is no longer active is no source, and one whose active
level has lasted its filter time trips (R126). [assumption 238 (DEDUCED)] -/
def State.trpEval (s : State) : State :=
  let lvl := fun n => (⟨TRP.STAT, n, 1⟩ : Fld)
  let s := s.each ((List.range 8).filter (fun n => s.on (lvl n) && !s.trpLevel n)) (fun s n => (s.set (lvl n) 0).srcActive n false)
  s.each ((List.range 8).filter (fun n => !s.on (lvl n) && s.trpLevel n && s.trpLasted n)) (fun s n =>
    ((s.set (lvl n) 1).srcActive n true).tripIn n)

/-- A source is active now: its condition is reported, or it is OVR or SW in the tick in which it fired (R131).
[assumption 224 (DEDUCED)] -/
def State.srcNow (s : State) (src : Nat) : Bool :=
  s.srcAct.testBit src || (src ∈ [8, 15] && decide (s.now < SMap.get (fun _ => 0) s.inactAt src))

/-- A source has been inactive without a break for at least 1 µs, and does not turn active in this tick (R131). -/
def State.inactLong (s : State) (src : Nat) : Bool :=
  !s.srcNow src && !s.tripsNow src && (decide (SMap.look s.inactAt src = none) || decide (SMap.get (fun _ => 0) s.inactAt src + tUs ≤ s.now))

/-- Write 1 to FLAG bits of TRP.STAT or TRP.ISTAT, each judged on its own (R131, R519). -/
def State.flagClear (s : State) (internal : Bool) (mask : Nat) : State :=
  let base := if internal then 8 else 0
  let ofs := if internal then 0x78 else 0x74
  s.judge TRP.page ofs [] (fun s => s.each ((bitsOf 8 mask).filter (fun b => s.on (flagFld (base + b)))) (fun s b =>
    if s.srcNow (base + b) then (s.irq TRP.page 1).refuse TRP.page ofs tTRIP_ACTIVE
    else s.set (flagFld (base + b)) 0))

/-- The halt reaction ends once neither DBG nor CLK is latched: frozen legs go to both switches off (R138). -/
def State.haltLift (s : State) : State :=
  if s.haltMode != 0 && !s.latches.any (fun l => l.src == 13 || l.src == 14) then
    { (s.set MOD.TB_STAT_FRZ_ACTIVE 0) with haltMode := 0, frozen := [], legWait := s.allLegs }
  else s

/-- The latch of a source clears: outputs no latch covers any more are released (R132). -/
def State.latchClear (s : State) (src : Nat) : State :=
  let was := s.hizLegs ||| s.ascLegs
  let s := { s with latches := s.latches.filter (fun l => l.src != src) }.set (latchFld src) 0
  let free := was &&& (0xFFF ^^^ (s.hizLegs ||| s.ascLegs))
  ({ s with legWait := s.legWait ||| free }.haltLift).outStat

/-- An accepted REARM is noted for the rest of its tick, with what it lifts (R131). -/
def State.rearmNote (s : State) (src : Nat) : State :=
  let ls := s.latches.filter (fun l => l.src == src)
  let r : RearmRec := match s.rearmed with
    | some r => if s.tickOf r.at_ == s.nowTick then { r with latches := r.latches ++ ls }
      else { at_ := s.now, had := (s.reg (HDR.IRQ_RAW TRP.page)).getLsbD 2, latches := ls, halt := (s.haltMode, s.frozen) }
    | none => { at_ := s.now, had := (s.reg (HDR.IRQ_RAW TRP.page)).getLsbD 2, latches := ls, halt := (s.haltMode, s.frozen) }
  { s with rearmed := some r }

/-- Write 1 to bits of TRP.REARM, each judged on its own (R131, R519). -/
def State.rearm (s : State) (mask : Nat) : State :=
  s.judge TRP.page 0x7C [] (fun s => s.each ((bitsOf 16 mask).filter (fun src => s.on (latchFld src))) (fun s src =>
    if s.on (flagFld src) && !s.tripsNow src then (s.irq TRP.page 1).refuse TRP.page 0x7C tFLAG_SET
    else if !s.inactLong src then (s.irq TRP.page 1).refuse TRP.page 0x7C tINACT_SHORT
    else (((s.each (List.range 12) State.legSync).rearmNote src).latchClear src).irq TRP.page 2))

/-! ### Halts (R135–R138) -/

/-- A leg's switches at the end of the present tick, up to which it has run: 0 both off, 1 low on, 2 high on, dead time
included (R117, R124). [assumption 42 (DEDUCED)] -/
def State.legLevel (s : State) (k : Nat) : Nat :=
  let c := s.chan (96 + k)
  let code := s.legCode k
  let lv := c.onAt c.act.dta (16 * s.nowTick + 15)
  if code == 3 then 1
  else if code == 4 then (if s.on (LPW.CFG_SAFE_ST k) then 1 else 0)
  else if code == 5 then s.frozen.getD k 0
  else if code != 0 then 0
  else match c.act.mode with
    | 2 => if lv == 2 then 2 else 0
    | 3 => if lv == 1 then 1 else 0
    | _ => lv

/-- The halt reaction begins, and HALT is raised, unless one stands already (R135–R137, R141): FREEZE where HALT_MODE asks for it and the lifecycle permits it, or SAFE.
[assumptions 42, 43, 235 (DEDUCED)] -/
def State.haltReact (s : State) : State :=
  if s.haltMode != 0 then s
  else if s.on MOD.CFG_HALT_MODE && s.frzPermit then
    let s := s.irq MOD.page 2
    let lv := (List.range 12).map s.legLevel
    { (s.set MOD.TB_STAT_FRZ_ACTIVE 1) with haltMode := 2, frozen := lv }
  else
    let s := s.irq MOD.page 2
    let s := if s.on MOD.CFG_HALT_MODE then (s.set MOD.TB_STAT_FRZ_DENIED 1).irq MOD.page 1 else s
    { s with haltMode := 1 }

/-- A debug halt of a host pair or of a loop engine, where MOD.CFG takes it as one: source DBG and the reaction (R135).
Without the capability H, or with the DBG domain gated, it has no effect (R401, R439). In DOZE the request wakes the module as an interrupt does, and acts
after the wake (R440). [assumptions 43 (DEDUCED); 272 (DESIGN CHOICE)] -/
def State.haltFrom (s : State) (src : Nat) : State :=
  let s := s.iff (s.get PWR.STAT_STATE == 2 && s.dbgHas 1) (fun s => (s.set PWR.STAT_STATE s.pwr.left).irq PWR.page 4)
  let takes := match src with
    | 0 => s.on MOD.CFG_HALT_HCA
    | 1 => s.on MOD.CFG_HALT_HCB
    | _ => s.on MOD.CFG_HALT_LE
  if takes && s.dbgHas 1 then
    let s := ((s.each (List.range 12) State.legSync).unRearm 13).haltReact
    ({ s with halts := s.halts ||| 1 <<< src }.srcActive 13 true).trip 13 0 0 allCells
  else s

/-- The PWM clock stops or PLL-PWM loses lock: source CLK, the reaction, the disarm and the release of the OWN line
(R135, R329, R414). [assumptions 159 (DEDUCED); 236 (DESIGN CHOICE)] -/
def State.clockStop (s : State) : State :=
  let s := (((s.each (List.range 12) State.legSync).unRearm 14).haltReact.irq MOD.page 3).set MOD.TB_STAT_LOCK 0
  let s := s.set MOD.TB_STAT_CAL_OK 0
  let s := ({ s with halts := s.halts ||| 8 }.srcActive 14 true).trip 14 0 0 allCells
  (s.disarm disCLOCK).ownRelease 2

/-- A halt ends; its source turns inactive once no halt of its kind stands, and the reaction stays (R138). The end of a
clock stop is the lock of PLL-PWM, from which the fine-delay line is calibrated (R105). [assumption 236 (DESIGN CHOICE)] -/
def State.haltOver (s : State) (src : Nat) : State :=
  let s := { s with halts := s.halts &&& (15 ^^^ 1 <<< src) }
  let s := if src == 3 then (s.set MOD.TB_STAT_LOCK 1).set MOD.TB_STAT_CAL_OK 1 else s
  (s.srcActive 13 (s.halts &&& 7 != 0)).srcActive 14 (s.halts.testBit 3)

/-- FREEZE is permitted no longer: each frozen leg goes to its SAFE_ST (R442). -/
def State.frzLapse (s : State) : State :=
  if s.haltMode == 2 && !s.frzPermit then
    let s := ((s.set MOD.TB_STAT_FRZ_ACTIVE 0).set MOD.TB_STAT_FRZ_DENIED 1).irq MOD.page 1
    { s with haltMode := 1, frozen := [] }.refreshLegs
  else s

/-! ### The commands -/

/-- A carrier event of a channel: the clock moves to the next valley or peak and the channel acts on it (R107, R112). -/
def State.carrier (s : State) (ch : Nat) (valley : Bool) : State :=
  let runs := if ch < 96 then s.chRuns ch else s.legRuns (ch - 96)
  if !runs then s
  else
    let c := s.chan ch
    let c := { c with pos := max c.pos (16 * s.nowTick - 1) }
    let (e, v) := c.nextEvent c.pos
    let x := if v == valley then e else (c.nextEvent e).1
    let s := s.advance (s.ofFine x)
    if ch < 96 then
      let k := s.perOf x
      let d := if s.chWaits ch k (s.chan ch) then (s.chan ch).runTo (s.chTr ch k) (s.chRld ch) true 400 x
        else { s.chan ch with pos := max c.pos x }
      s.putChan ch d
    else s.legRun (ch - 96) x

/-- CARRIER_VALLEY (R107, R110, R112): no effect on a channel that does not run. -/
def execCarrierValley (ch : Fin 108) (s : State) : Host.Outcome State Fault Refusal := .next (s.carrier ch true)

/-- CARRIER_PEAK (R107, R112). -/
def execCarrierPeak (ch : Fin 108) (s : State) : Host.Outcome State Fault Refusal := .next (s.carrier ch false)

/-- CH_PRD_WRITE (R107, R123). -/
def execChPrdWrite (ch : Fin 96) (val : Word) (s : State) : Host.Outcome State Fault Refusal :=
  .next (s.chWrite ch 0x04 val)

/-- LEG_ENABLE (R125). -/
def execLegEnable (k : Fin 12) (val : Word) (s : State) : Host.Outcome State Fault Refusal :=
  .next (s.legCfgWrite k (val ||| 1))

/-- LEG_DISABLE (R125, R491). -/
def execLegDisable (k : Fin 12) (val : Word) (s : State) : Host.Outcome State Fault Refusal :=
  .next (s.legCfgWrite k (val &&& ~~~1))

/-- TRIP_INPUT (R126): input `n` has held a level for `held` nanoseconds. An enabled input whose active level has
lasted its filter time trips; from an inactive level on, the source is inactive. [assumption 224 (DEDUCED)] -/
def execTripInput (n : Fin 8) (level : Bool) (held : Nat) (s : State) : Host.Outcome State Fault Refusal :=
  let s := { s with trpIn := SMap.ins s.trpIn n (level, s.now - held * tNs) }
  let lvl : Fld := ⟨TRP.STAT, n, 1⟩
  if s.trpLevel n then
    if decide (s.flt n * 10 ≤ held) && !s.on lvl then .next (((s.set lvl 1).srcActive n true).tripIn n)
    else .next s
  else if s.on lvl then
    let s := s.set lvl 0
    .next { s with srcAct := s.srcAct &&& (0xFFFF ^^^ 1 <<< n.val),
                   inactAt := SMap.put (fun _ => 0) s.inactAt n (s.now - held * tNs) }
  else .next s

/-- TRP_SWTRIP (R126): source SW trips every output, and is inactive from the next tick. -/
def execTrpSwtrip (s : State) : Host.Outcome State Fault Refusal :=
  .next (s.judge TRP.page 0x80 [] (fun s =>
    { (s.tripAll 15) with inactAt := SMap.put (fun _ => 0) s.inactAt 15 s.nextTick }))

/-- TRP_FLAG_CLEAR (R131). -/
def execTrpFlagClear (internal : Bool) (mask : BitVec 8) (s : State) : Host.Outcome State Fault Refusal :=
  .next (s.flagClear internal mask.toNat)

/-- TRP_REARM (R131, R132). -/
def execTrpRearm (mask : BitVec 16) (s : State) : Host.Outcome State Fault Refusal := .next (s.rearm mask.toNat)

/-- CLOCK_STOP (R135, R402, R405). -/
def execClockStop (s : State) : Host.Outcome State Fault Refusal := .next s.clockStop

/-- HALT_END (R138). -/
def execHaltEnd (src : Fin 4) (s : State) : Host.Outcome State Fault Refusal := .next (s.haltOver src)

end Sys2Proof.Machine
end

