-- ==== Sys2Proof/Machine/Adc.lean ====
section
/-! DEFINITION. Analogue acquisition: sequences and segments, urgent conversions, calibration, filters, validity and
buffers of the converter pairs (R286–R307). Converter A is 0, B is 1. -/

namespace Sys2Proof.Machine

abbrev aBUSY : Nat := 0x40
abbrev aSIM : Nat := 0x41
abbrev aILV_URG : Nat := 0x42

/-- A conversion occupies its converter for 100 ns; its result is ready after 150 ns (R289). -/
abbrev tConv : Nat := 100 * tNs
abbrev tReady : Nat := 150 * tNs

/-- The instant of the tick of the PWM time base an instant falls in (R289). [assumption 100 (DEDUCED)] -/
def State.tickAt (s : State) (t : Nat) : Nat := (s.epochAt + s.tickOf t * (tTick : Int)).toNat

def AdcP.free (x : AdcP) (cv : Nat) : Nat := if cv = 0 then x.freeA else x.freeB
def AdcP.setFree (x : AdcP) (cv t : Nat) : AdcP := if cv = 0 then { x with freeA := t } else { x with freeB := t }

/-- The pair runs, in SEQ mode (R296). -/
def State.pairOn (s : State) (p : Nat) : Bool := s.on (HDR.CTRL_EN (PAIR.page p))
def State.pairSeq (s : State) (p : Nat) : Bool := s.pairOn p && !s.on (PAIR.PCFG_MODE p)

/-- PSTAT's SEG_ACT and URG_FILL follow the pair (R305). -/
def State.pairStat (s : State) (p : Nat) : State :=
  let x := s.pair p
  (s.set (PAIR.PSTAT_SEG_ACT p) (match x.run with | some r => 1 <<< r.seg | none => 0)).set (PAIR.PSTAT_URG_FILL p)
    x.urg.length

/-! ### Entries and their schedule (R291, R295) -/

/-- Where SIM acts: not at the first entry, on the other converter than the entry before, which did not itself issue
jointly with its own (R291). -/
def simActs : List AdcEnt → Option (Nat × Bool) → List Bool
  | [], _ => []
  | e :: t, prev =>
    let a := match prev with
      | none => false
      | some (cv, joint) => e.sim && e.cv != cv && !joint
    a :: simActs t (some (e.cv, a))

/-- The scheduled instants of a run's entries from `t0` on, with both converters free (R295). -/
def schedOf : List (AdcEnt × Bool) → Nat → Nat → Nat → List Nat
  | [], _, _, _ => []
  | (e, a) :: t, t0, fa, fb =>
    let next := match t with | (_, b) :: _ => b | [] => false
    let at_ := if a then t0 else if next then max t0 (max fa fb) else max t0 (if e.cv = 0 then fa else fb)
    at_ :: schedOf t at_ (if e.cv = 0 then at_ + tConv else fa) (if e.cv = 0 then fb else at_ + tConv)

/-- The entries of a segment as SEQ holds them (R291). -/
def State.segEnts (s : State) (p k : Nat) : List AdcEnt :=
  (List.range (s.get (PAIR.SEG_LEN p k))).map (fun i =>
    let e := s.get (PAIR.SEG_START p k) + i
    ⟨s.get (PAIR.SEQ_E_INP p e), s.get (PAIR.SEQ_E_CV p e), s.on (PAIR.SEQ_E_SIM p e), s.get (PAIR.SEQ_E_STRM p e)⟩)

/-! ### Runs (R290, R292) -/

/-- A run of segment `k` starts. -/
def State.runStart (s : State) (p k trig start : Nat) : State :=
  (s.modPair p (fun x => { x with run := some { seg := k, trig := trig, start := start } })).pairStat p

/-- Insert a waiting segment by trigger instant, ties by segment number (R292). -/
def waitIns (k t : Nat) : List (Nat × Nat) → List (Nat × Nat)
  | [] => [(k, t)]
  | (j, u) :: r => if t < u ∨ (t = u ∧ k < j) then (k, t) :: (j, u) :: r else (j, u) :: waitIns k t r

/-- The next waiting segment starts its run; a CONT segment only when no other waits (R292). -/
def State.runNext (s : State) (p t : Nat) : State :=
  let x := s.pair p
  let pick := (x.wait.find? (fun q => s.get (PAIR.SEG_TRIG p q.1) != 7)).or x.wait.head?
  match x.run, pick with
  | none, some q =>
    (s.setPair p { x with wait := x.wait.filter (fun r => r.1 != q.1) }).runStart p q.1 q.2 (max q.2 t)
  | _, _ => s

/-- Segment `k` is off: it waits no longer, and a run of it that has issued nothing ends (R291, R292, R305).
[assumption 262 (DEDUCED)] -/
def State.segOff (s : State) (p k t : Nat) : State :=
  let x := s.pair p
  let idle := match x.run with | some r => r.seg == k && !r.began | none => false
  let s := s.setPair p { x with wait := x.wait.filter (fun q => q.1 != k), run := if idle then none else x.run }
  (s.runNext p t).pairStat p

/-- A trigger of segment `k` fires at tick `t`: missed where the segment waits or runs (R292). -/
def State.segFire (s : State) (p k t : Nat) : State :=
  let x := s.pair p
  let busy := x.wait.any (fun q => q.1 == k) || (match x.run with | some r => r.seg == k | none => false)
  if busy then (s.bump (PAIR.CNT_SEG_MISS p)).irq (PAIR.page p) 1
  else (s.setPair p { x with wait := waitIns k t x.wait }).runNext p t

/-- A CONT segment that neither waits nor runs begins (R290). -/
def State.contStart (s : State) (p k : Nat) : State :=
  let x := s.pair p
  let busy := x.wait.any (fun q => q.1 == k) || (match x.run with | some r => r.seg == k | none => false)
  if s.pairSeq p && s.get (PAIR.SEG_TRIG p k) == 7 && s.get (PAIR.SEG_LEN p k) != 0 && !busy then
    s.segFire p k (s.tickAt s.now)
  else s

/-- An event of a segment's trigger: every (DIV + 1)-th fires it (R290). [assumption 228 (DEDUCED)] -/
def State.segEvent (s : State) (p k : Nat) : State :=
  let x := s.pair p
  let c := x.cnt.getD k 0
  if s.get (PAIR.SEG_DIV p k) ≤ c then
    (s.setPair p { x with cnt := x.cnt.set k 0 }).segFire p k (s.tickAt s.now)
  else s.setPair p { x with cnt := x.cnt.set k (c + 1) }

/-- The trigger of a segment can give events: the segment is on, and its channel is enabled (R290). -/
def State.segLive (s : State) (p k : Nat) : Bool :=
  s.pairSeq p && s.get (PAIR.SEG_LEN p k) != 0 &&
    (match s.get (PAIR.SEG_TRIG p k) with
      | 1 => true
      | 2 | 3 | 4 => s.legRuns (s.get (PAIR.SEG_SEL p k))
      | 5 => s.chRuns (2 * s.get (PAIR.SEG_SEL p k))
      | 6 => s.on MCX.RSV_CFG_EN
      | _ => false)

/-- SEG_GO (R290). -/
def State.segGo (s : State) (p mask : Nat) : State :=
  s.each (bitsOf 4 mask) (fun s k =>
    if s.pairSeq p && s.get (PAIR.SEG_LEN p k) != 0 && s.get (PAIR.SEG_TRIG p k) == 8 then s.segEvent p k else s)

/-- The run's next entry issues, with its SIM partner, the entries taken as they stand when the first does; where an urgent conversion comes first on a converter it needs,
nothing happens yet (R291, R294, R303). -/
def State.entryIssue (s : State) (p : Nat) : State :=
  let x := s.pair p
  match x.run with
  | none => s
  | some r =>
    match if r.began then r.todo else List.range (s.get (PAIR.SEG_LEN p r.seg)) with
    | [] => s
    | e :: rest =>
      let base := r.trig + s.get (PAIR.SEG_DLY p r.seg) * tTick
      let ents := if r.began then r.ents else s.segEnts p r.seg
      let acts := simActs ents none
      let sched := if r.began then r.sched else schedOf (ents.zip acts) base 0 0
      let joint := rest.head? == some (e + 1) && acts.getD (e + 1) false
      let grp := if joint then [e, e + 1] else [e]
      let ent := fun i => ents.getD i ⟨0, 0, false, 0⟩
      let t0 := if r.began then r.last else max base r.start
      let t := grp.foldl (fun t i => max t (x.free (ent i).cv)) t0
      let ucv := s.get (PAIR.URG0_UCV p)
      if grp.any (fun i => (ent i).cv == ucv) && (match x.urg with | u :: _ => decide (u.at_ ≤ t) | [] => false) then s
      else
        let x := grp.foldl (fun x i => x.setFree (ent i).cv (t + tConv)) x
        let cs := grp.map (fun i => ({ cv := (ent i).cv, inp := (ent i).inp, strm := (ent i).strm, at_ := t,
                                       late := decide (sched.getD i t < t), ent := some i } : AdcConv))
        let r := { r with ents := ents, sched := sched, began := true, todo := rest.drop (grp.length - 1), last := t }
        (s.advance t).setPair p { x with convs := x.convs ++ cs, run := some r }

/-! ### Results (R288, R297–R302) -/

/-- The corrected code of a raw code, and whether it is clipped (R288, R297). -/
def adcCode (ofs : Int) (gn : Nat) (raw : Int) : Int × Bool :=
  let v := roundAway (((raw - ofs) * (gn : Int) : Int) / 32768)
  let c := satS 16 v
  (c, raw == -32768 || raw == 32767 || c == -32768 || c == 32767)

/-- A result word (R301). -/
def adcWord (code : Int) (ai : Nat) (valid urg clip late : Bool) (strm : Nat) : Word :=
  BitVec.ofNat 32 (codeOf 16 code + 0x10000 * ai + (if valid then 0x400000 else 0) + (if urg then 0x800000 else 0)
    + (if clip then 0x2000000 else 0) + (if late then 0x4000000 else 0) + 0x8000000 * strm)

/-- OVR of a result word. -/
abbrev adcOvr : Word := 0x1000000

/-- A word joins the pair's queue for the buffer; one that finds it full is lost (R302). [assumption 95 (DEDUCED)] -/
def State.bufPush (s : State) (p : Nat) (w : Word) : State :=
  if !s.on (PAIR.PCFG_BUF_EN p) then s
  else s.modPair p (fun x =>
    if x.bufQ.length < 32 then { x with bufQ := x.bufQ ++ [if x.lost then w ||| adcOvr else w], lost := false }
    else { x with lost := true })

/-- An output of a stream: its latest valid word and the buffer (R300, R302). -/
def State.strOut (s : State) (p j : Nat) (w : Word) : State :=
  let s := s.iff (w.getLsbD 22) (fun s =>
    { s with le := { s.le with adcOld := s.le.adcOld ++ [(16 * p + j, s.now, s.reg (PAIR.STR_LAST p j))] } }.setReg (PAIR.STR_LAST p j) w)
  s.iff (s.on (PAIR.STR_CFG_BUF p j)) (fun s => s.bufPush p w)

/-- The integrators of the cascaded sums take a conversion. -/
def cicIn : List Int → Int → List Int
  | [], _ => []
  | a :: t, x => (a + x) :: cicIn t (a + x)

/-- The combs of the cascaded sums: their new contents and their output. [assumption 100 (DEDUCED)] -/
def cicOut : List Int → Int → List Int × Int
  | [], y => ([], y)
  | a :: t, y => let (l, z) := cicOut t (y - a); (y :: l, z)

/-- An entry of `last` lies among the conversions that contribute to output `n` of a window of `w` conversions. -/
def inWindow (n w : Nat) : Option Nat → Bool
  | some i => decide (n < i + w)
  | none => false

/-- A sequence conversion passes its stream's filter (R298, R299). [assumption 229 (DEDUCED)] -/
def State.strIn (s : State) (p j ai : Nat) (code : Int) (valid clip late : Bool) : State :=
  if !s.on (PAIR.STR_CFG_EN p j) then s
  else
    let x := s.pair p
    let ord := s.get (PAIR.STR_CFG_NM1 p j) + 1
    let dec := s.get (PAIR.STR_CFG_RM1 p j) + 1
    let f := SMap.get (fun _ => {}) x.flts j
    let n := f.n + 1
    let intg := cicIn (if f.intg.isEmpty then List.replicate ord 0 else f.intg) code
    let f := { f with n := n, intg := intg, inv := if valid then f.inv else some n,
                      clip := if clip then some n else f.clip, late := if late then some n else f.late }
    let put := fun (s : State) (f : AdcFlt) => s.modPair p (fun x => { x with flts := SMap.put (fun _ => {}) x.flts j f })
    if n % dec != 0 then put s f
    else
      let (comb, y) := cicOut (if f.comb.isEmpty then List.replicate ord 0 else f.comb) (intg.getLastD 0)
      let v := roundAway ((y : Rat) / ((dec ^ ord : Nat) : Rat))
      let c := satS 16 v
      let w := ord * (dec - 1) + 1
      let clip := inWindow n w f.clip || c != v
      let word := adcWord c ai (f.bad == 0 && !inWindow n w f.inv) false clip (inWindow n w f.late) j
      let s := put s { f with comb := comb, bad := f.bad - 1 }
      (s.iff (c != v) (fun s => s.irq (PAIR.page p) 5)).strOut p j word

/-- A converted code of an input is its latest conversion, and that of the boundary at which it was taken; one made for a
chopper is delivered to it (R71, R228, R294, R300). [assumption 96 (DEDUCED)] -/
def State.aiTake (s : State) (ai : Nat) (c : AdcConv) (code : Int) (valid : Bool) : State :=
  let s := { s with aiInst := SMap.put (fun _ => (0, false)) s.aiInst ai (if c.late then 0 else c.at_ + 1, valid) }
  let kept := match SMap.look s.aiBnd ai with
    | some (t, some _) => t == c.at_ + 1
    | _ => false
  let s := s.iff (!c.late && c.at_ == s.bndAt && !kept) (fun s =>
    { s with aiBnd := SMap.ins s.aiBnd ai (c.at_ + 1, if valid then some code else none) })
  let s := s.iff valid (fun s =>
    { s with aiLast := SMap.put (fun _ => none) s.aiLast ai (some code),
             aiValAt := SMap.put (fun _ => 0) s.aiValAt ai (c.at_ + 1) })
  let s := match c.req with
    | some u => { s with mcx := { s.mcx with
        chRes := SMap.put (fun _ => []) s.mcx.chRes u (SMap.get (fun _ => []) s.mcx.chRes u ++ [code]) } }
    | none => s
  s.iff (valid && !c.late && c.at_ == s.bndAt && ai == s.get GRN.GAP_CFG0_AI) (fun s => { s with gapSample := some code })

/-- A converted code of an input: its validity, the latest conversion of the input, and its stream (R288, R295, R297, R299,
R300). -/
def State.convResult (s : State) (p : Nat) (c : AdcConv) (raw : Int) : State :=
  let x := s.pair p
  let ai := 8 * p + c.inp
  let ofs := if c.cv = 0 then s.getS (PAIR.CAL_A_OFS p) else s.getS (PAIR.CAL_B_OFS p)
  let gn := if c.cv = 0 then s.get (PAIR.CAL_A_GN p) else s.get (PAIR.CAL_B_GN p)
  let (code, clip) := adcCode ofs gn raw
  let g := x.gInv.getD c.inp (0, 0)
  let k := x.cInv.getD c.cv (0, 0)
  let gb := decide (g.1 ≠ 0 ∧ g.2 ≤ c.at_)
  let kb := decide (k.1 ≠ 0 ∧ k.2 ≤ c.at_)
  let valid := !gb && !kb
  let s := s.setPair p { x with gInv := if gb then x.gInv.set c.inp (g.1 - 1, g.2) else x.gInv,
                                cInv := if kb then x.cInv.set c.cv (k.1 - 1, k.2) else x.cInv }
  let s := s.iff clip (fun s => s.irq (PAIR.page p) 5)
  let s := s.aiTake ai c code valid
  if c.ent.isNone && !s.on (PAIR.PCFG_MODE p) then
    if s.on (PAIR.STR_CFG_EN p c.strm) then s.strOut p c.strm (adcWord code ai valid true clip c.late c.strm) else s
  else s.strIn p c.strm ai code valid clip c.late

/-- The conversion whose result is ready first; converter A first in a tie. -/
def firstConv (l : List AdcConv) : Option AdcConv :=
  l.foldl (fun b c => match b with
    | none => some c
    | some d => if c.at_ < d.at_ ∨ (c.at_ = d.at_ ∧ c.cv < d.cv) then some c else some d) none

/-- A result is ready (R289); the run ends with its last (R291). -/
def State.convDone (s : State) (p : Nat) (raw : Int) : State :=
  let x := s.pair p
  match firstConv x.convs with
  | none => s
  | some c =>
    let t := c.at_ + tReady
    let s := (s.advance t).setPair p { x with convs := x.convs.filter (· != c) }
    let s := s.convResult p c raw
    let x := s.pair p
    match x.run with
    | some r =>
      if r.began && r.todo.isEmpty && x.convs.all (fun c => c.ent.isNone) then
        let s := (s.setPair p { x with run := none }).irq (PAIR.page p) 0
        let s := s.iff (s.get (PAIR.SEG_TRIG p r.seg) == 7 && s.get (PAIR.SEG_LEN p r.seg) != 0)
          (fun s => s.modPair p (fun x => { x with wait := waitIns r.seg t x.wait }))
        (s.runNext p t).pairStat p
      else s
    | none => s

/-! ### Urgent conversions (R293, R294) -/

/-- Insert an urgent request by instant, then by arrival. -/
def urgIns (u : AdcUrg) : List AdcUrg → List AdcUrg
  | [] => [u]
  | v :: t => if u.at_ < v.at_ then u :: v :: t else v :: urgIns u t

/-- A request of a source, enabled or not: queued, or lost and counted (R293, R294). [assumption 94 (DEDUCED)] -/
def State.urgReq (s : State) (p : Nat) (en : Bool) (u : AdcUrg) : State :=
  let x := s.pair p
  if !en || !s.pairSeq p then s.bump (PAIR.CNT_URG_LOST p)
  else if 4 ≤ x.urg.length then (s.bump (PAIR.CNT_URG_LOST p)).irq (PAIR.page p) 2
  else (s.setPair p { x with urg := urgIns u x.urg }).pairStat p

/-- MCX checks chopper `u` now: it runs, and no trip latch holds its leg (R248). -/
def State.chopChecked (s : State) (u : Nat) : Bool :=
  s.isl && s.on (MCX.C_CFG_EN u) && s.get (MCX.C_STAT_STATE u) != 3 && !(s.hizLegs ||| s.ascLegs).testBit (s.get (MCX.C_CFG_LEG u))

/-- MCX requests the current of chopper `u`, a time from now (R248, R293). [assumption 94 (DEDUCED)] -/
def State.chopReq (s : State) (u dly : Nat) : State :=
  if s.chopChecked u then
    let ai := s.get (MCX.C_CFG_IAI u)
    let q := ai / 8
    s.urgReq q (s.on (PAIR.URG0_MCX_EN q)) { at_ := s.tickAt (s.now + dly), inp := ai % 8, strm := s.get (PAIR.URG0_MCX_STRM q), req := some u }
  else s

/-- The island command line turns the low switch of leg `k` on: the current of a chopper on the leg is requested CHF_T
later (R248). -/
def State.chopTurnOn (s : State) (k : Nat) : State :=
  s.each ((List.range 4).filter (fun u => s.get (MCX.C_CFG_LEG u) == k)) (fun s u =>
    s.chopReq u (s.get MCX.CHF_CFG_CHF_T * 100 * tNs))

/-- A request of source EVT: the low-switch command line of leg EVT_LEG has turned on in this tick, and the pair has not asked
for it yet (R293). -/
def State.evtReq (s : State) (p : Nat) : State :=
  match (s.island (s.get (PAIR.URG0_EVT_LEG p))).lowAt with
  | some t =>
    if s.tickOf t == s.nowTick && (s.pair p).evtAt != some t then
      (s.setPair p { s.pair p with evtAt := some t }).urgReq p (s.on (PAIR.URG0_EVT_EN p))
        { at_ := s.tickAt t + s.get (PAIR.URG1_EVT_DLY p) * tTick, inp := s.get (PAIR.URG0_EVT_IN p),
          strm := s.get (PAIR.URG0_EVT_STRM p) }
    else s
  | none => s

/-- The pairs whose EVT source is enabled for leg `k` ask (R293). -/
def State.evtTurnOn (s : State) (k : Nat) : State :=
  s.each ((List.range 8).filter (fun p => s.on (PAIR.URG0_EVT_EN p) && s.get (PAIR.URG0_EVT_LEG p) == k)) State.evtReq

/-- A request of source MCX at a reload event of a chopper whose low switch stays on, TRP or EVT (R248, R293).
[assumption 94 (DEDUCED)] -/
def State.urgSource (s : State) (p src u : Nat) : State :=
  let t := s.tickAt s.now
  match src with
  | 0 => if (s.island (s.get (MCX.C_CFG_LEG u))).lineL == 1 then s.chopReq u 0 else s
  | 1 => s.urgReq p (s.on (PAIR.URG0_TRP_EN p)) { at_ := t, inp := s.get (PAIR.URG0_TRP_IN p), strm := s.get (PAIR.URG0_TRP_STRM p) }
  | _ => s.evtReq p

/-- The first urgent request issues on UCV: at its instant, or when a running urgent conversion frees it; a sequence
entry there is abandoned with its SIM partner and will issue again (R294). -/
def State.urgIssue (s : State) (p : Nat) : State :=
  let x := s.pair p
  match x.urg with
  | [] => s
  | u :: rest =>
    let cv := s.get (PAIR.URG0_UCV p)
    let busyUrg := x.convs.any (fun c => c.cv == cv && c.ent.isNone && decide (u.at_ < c.at_ + tConv))
    let t := if busyUrg then max u.at_ (x.free cv) else u.at_
    let hit := x.convs.find? (fun c => c.cv == cv && c.ent.isSome && decide (t < c.at_ + tConv))
    let acts := match x.run with | some r => simActs r.ents none | none => []
    let mate := fun (i j : Nat) => (j == i + 1 && acts.getD j false) || (i == j + 1 && acts.getD i false)
    let gone : List AdcConv := match hit with
      | some h => x.convs.filter (fun (c : AdcConv) => c.ent.isSome && c.at_ == h.at_ && (c == h || mate (h.ent.getD 0) (c.ent.getD 0)))
      | none => []
    let x := gone.foldl (fun (x : AdcP) (c : AdcConv) => x.setFree c.cv t) x
    let back := gone.filterMap (fun c => c.ent)
    let run := x.run.map (fun (r : AdcRun) =>
      { r with todo := back.filter (fun i => back.all (fun j => i ≤ j)) ++ back.filter (fun i => back.any (fun j => j < i)) ++ r.todo })
    let c : AdcConv := { cv := cv, inp := u.inp, strm := u.strm, at_ := t, late := decide (u.at_ < t), ent := none, req := u.req }
    let x := { x with urg := rest, run := run, convs := (x.convs.filter (fun c => !gone.contains c)) ++ [c] }
    ((s.advance t).setPair p (x.setFree cv (t + tConv))).pairStat p

/-! ### Interleaving, calibration, buffer (R296, R297, R302) -/

/-- One conversion in ILV mode, on the 50 ns grid from the first boundary after the enable; SKEW shifts B (R296). -/
def State.ilvConv (s : State) (p : Nat) (raw : Int) : State :=
  let x := s.pair p
  match x.ilvAt with
  | some b =>
    if s.pairOn p && s.on (PAIR.PCFG_MODE p) then
      let i := x.ilvN
      let sk : Int := if i % 2 = 1 then s.getS (PAIR.CAL_SKEW_SKEW p) * 75 / 2 else 0
      let at_ := ((b + i * (50 * tNs) : Nat) + sk : Int).toNat
      let s := (s.advance (at_ + tReady)).setPair p { x with ilvN := i + 1 }
      s.convResult p { cv := i % 2, inp := s.get (PAIR.PCFG_ILV_IN p), strm := 0, at_ := at_, late := false, ent := none } raw
    else s
  | none => s

/-- The grid of an ILV pair begins at the first boundary after its enable (R296). -/
def State.adcBoundary (s : State) : State :=
  s.each (List.range 8) (fun s p =>
    if s.pairOn p && s.on (PAIR.PCFG_MODE p) && (s.pair p).ilvAt.isNone then
      s.modPair p (fun x => { x with ilvAt := some s.bndAt, ilvN := 0 }) else s)

/-- CAL_CMD.GO (R297). -/
def State.calGo (s : State) (p : Nat) : State :=
  s.judge (PAIR.page p) 0x1AC [(s.pairOn p, aBUSY)] (fun s => s.set (PAIR.PSTAT_CAL_RUN p) 1)

/-- Results of a converter that a write to its calibration makes invalid (R299). [assumption 97 (DEDUCED)] -/
def State.calTouch (s : State) (p cv : Nat) : State :=
  s.modPair p (fun x => { x with cInv := x.cInv.set cv (2, s.tickAt s.now) })

/-- Calibration completes (R297). [assumption 97 (DEDUCED)] -/
def State.calDone (s : State) (p : Nat) (calA calB : Word) (skew : Nat) : State :=
  if !s.on (PAIR.PSTAT_CAL_RUN p) then s
  else
    let s := ((s.setReg (PAIR.CAL_A p) calA).setReg (PAIR.CAL_B p) calB).set (PAIR.CAL_SKEW_SKEW p) skew
    let s := ((s.set (PAIR.PSTAT_CAL_RUN p) 0).set (PAIR.PSTAT_CAL_OK p) 1).set ⟨ADC.PAIR_STAT, 8 + p, 1⟩ 1
    ((s.calTouch p 0).calTouch p 1).irq (PAIR.page p) 6

/-- A word of the queue reaches the circular buffer (R302). [assumption 98 (DEDUCED)] -/
def State.bufWritten (s : State) (p : Nat) : State :=
  let x := s.pair p
  match x.bufQ with
  | [] => s
  | w :: rest =>
    let s := s.setPair p { x with bufQ := rest }
    let size := 2 ^ s.get (PAIR.BUF_LEN_LOG2 p)
    let wr := s.get (PAIR.BUF_WR_WR p) % size
    let rd := s.get (PAIR.BUF_RD_RD p) % size
    let nx := (wr + 1) % size
    let full := nx == rd
    let w := if full then w ||| adcOvr else w
    let (ok, s) := s.dmaWrite (s.get (PAIR.PCFG_DMA_CH p)) (s.get (PAIR.BUF_BASE_ADDR p) * 64 + 4 * wr) (leBytes 4 w.toNat)
    if !ok then s
    else
      let s := s.set (PAIR.BUF_WR_WR p) nx
      let s := s.iff full (fun s =>
        ((s.set (PAIR.BUF_RD_RD p) ((rd + 1) % size)).bump (PAIR.OVR_CNT_CNT p)).irq (PAIR.page p) 4)
      let wm := s.get (PAIR.BUF_WM_WM p)
      let fill0 := (wr + size - rd) % size
      let fill1 := (nx + size - s.get (PAIR.BUF_RD_RD p) % size) % size
      s.iff (wm != 0 && decide (fill0 < wm) && decide (wm ≤ fill1)) (fun s => s.irq (PAIR.page p) 3)

/-! ### Enable, disable and register writes (R299, R303, R305) -/

/-- A stream's filter is cleared and its next N + 1 outputs are invalid (R299). -/
def State.strClear (s : State) (p j : Nat) : State :=
  s.modPair p (fun x => { x with flts := SMap.put (fun _ => {}) x.flts j { bad := s.get (PAIR.STR_CFG_NM1 p j) + 2 } })

/-- Setting CTRL.EN of a pair page (R290, R296, R299). -/
def State.pairEnable (s : State) (p : Nat) : State :=
  let ilv := s.on (PAIR.PCFG_MODE p)
  s.judge (PAIR.page p) 0x0C [(ilv && getBits (s.reg (PAIR.URG0 p)) 0 4 != 0, aILV_URG)] (fun s =>
    if s.pairOn p then s
    else
      let s := ((s.set (HDR.CTRL_EN (PAIR.page p)) 1).set (PAIR.PSTAT_RUN p) 1).set ⟨ADC.PAIR_STAT, p, 1⟩ 1
      let s := s.each ((List.range 16).filter (fun j => s.on (PAIR.STR_CFG_EN p j))) (fun s j => s.strClear p j)
      let s := s.modPair p (fun x => { x with ilvAt := none, ilvN := 0 })
      s.each (List.range 4) (fun s k => s.contStart p k))

/-- The pair stops: conversions in progress are discarded, segments and the urgent queue stop (R303). -/
def State.pairStop (s : State) (p : Nat) : State :=
  let s := s.modPair p (fun x => { x with run := none, wait := [], convs := [], urg := [], freeA := 0, freeB := 0, ilvAt := none })
  ((s.set (PAIR.PSTAT_RUN p) 0).set ⟨ADC.PAIR_STAT, p, 1⟩ 0).pairStat p

/-- Clearing CTRL.EN of a pair page (R303). -/
def State.pairDisable (s : State) (p : Nat) : State := (s.set (HDR.CTRL_EN (PAIR.page p)) 0).pairStop p

/-- What re-initialisation of a pair page does beside its registers: the run, the queue and the filters go, the DMA
channel is released and a calibration under way ends without a result (R303, R491). [assumption 262 (DEDUCED)] -/
def State.pairReinit (s : State) (p : Nat) : State :=
  let s := s.iff (s.on (PAIR.PCFG_BUF_EN p)) (fun s => s.release (resKey 3 (s.get (PAIR.PCFG_DMA_CH p))) 9 p)
  (((s.pairStop p).setPair p {}).set (PAIR.PSTAT_CAL_RUN p) 0)

/-- The registers of a pair page that re-initialisation keeps: calibration, with PSTAT.CAL_OK, and STRj_LAST (R303). -/
def pairKeeps (ofs : Nat) : Bool :=
  ofs == 0x1C0 || ofs == 0x1A0 || ofs == 0x1A4 || ofs == 0x1A8 || (decide (0x100 ≤ ofs ∧ ofs < 0x180) && ofs % 8 == 4)

/-- A write to PCFG (R302, R305). [assumption 98 (DEDUCED)] -/
def State.pcfgWrite (s : State) (p : Nat) (val : Word) : State :=
  let pg := PAIR.page p
  let w := fun f => s.willBe pg true f val
  let en := s.pairOn p
  let b0 := s.on (PAIR.PCFG_BUF_EN p)
  let b1 := getBits val 4 1 == 1
  let ch0 := s.get (PAIR.PCFG_DMA_CH p)
  let ch1 := w (PAIR.PCFG_DMA_CH p)
  let busy := en && (w (PAIR.PCFG_MODE p) != s.get (PAIR.PCFG_MODE p) || w (PAIR.PCFG_ILV_IN p) != s.get (PAIR.PCFG_ILV_IN p)
    || (b0 && b1 && ch1 != ch0))
  s.judge pg 0x40 [(busy, aBUSY)] (fun s =>
    let put := fun (s : State) => s.take .pair pg 0x40 val
    if b1 && (!b0 || ch1 != ch0) then
      s.claimAll pg 0x40 [resKey 3 ch1] 9 p (fun s => put (if b0 then s.release (resKey 3 ch0) 9 p else s))
    else if b0 && !b1 then
      ((put s).release (resKey 3 ch0) 9 p).modPair p (fun x => { x with bufQ := [], lost := false })
    else put s)

/-- A write to GAIN: the next two conversions of an input whose gain changes are invalid (R299). -/
def State.gainWrite (s : State) (p : Nat) (val : Word) : State :=
  s.judge (PAIR.page p) 0x44 [] (fun s =>
    let chg := (List.range 8).filter (fun i => getBits val (2 * i) 2 != s.get (PAIR.GAIN_G p i))
    let t := s.tickAt s.now
    (s.take .pair (PAIR.page p) 0x44 val).modPair p (fun x =>
      { x with gInv := chg.foldl (fun l i => l.set i (2, t)) x.gInv }))

/-- A write to SEGk (R290, R305): the event count starts anew, and a segment of no entries is off.
[assumption 99 (DEDUCED)] -/
def State.segWrite (s : State) (p k : Nat) (val : Word) : State :=
  let ofs := 0x48 + 4 * k
  let trig := getBits val 11 4
  let sel := getBits val 15 6
  let bad := decide (32 < getBits val 0 5 + getBits val 5 6) || decide (9 ≤ trig)
    || (decide (trig ∈ [2, 3, 4]) && decide (12 ≤ sel)) || (trig == 5 && decide (48 ≤ sel))
  s.judge (PAIR.page p) ofs [(bad, eRANGE)] (fun s =>
    let s := (s.take .pair (PAIR.page p) ofs val).modPair p (fun x => { x with cnt := x.cnt.set k 0 })
    if s.get (PAIR.SEG_LEN p k) = 0 then s.segOff p k (s.tickAt s.now) else s.contStart p k)

/-- A write to URG0 (R296, R305). [assumption 99 (DEDUCED)] -/
def State.urg0Write (s : State) (p : Nat) (val : Word) : State :=
  s.judge (PAIR.page p) 0x5C [(decide (12 ≤ getBits val 23 4), eRANGE),
      (s.pairOn p && s.on (PAIR.PCFG_MODE p) && getBits val 0 4 != 0, aILV_URG)]
    (fun s => s.take .pair (PAIR.page p) 0x5C val)

/-- A write to URG_SW, with its request (R293). -/
def State.urgSwWrite (s : State) (p : Nat) (val : Word) : State :=
  s.judge (PAIR.page p) 0x64 [] (fun s =>
    let s := s.take .pair (PAIR.page p) 0x64 val
    if getBits val 8 1 == 1 then
      s.urgReq p (s.on (PAIR.URG0_SW_EN p)) { at_ := s.tickAt s.now, inp := s.get (PAIR.URG_SW_INP p), strm := s.get (PAIR.URG_SW_STRM p) }
    else s)

/-- A write to SEQ_Ee (R291). -/
def State.seqWrite (s : State) (p e : Nat) (val : Word) : State :=
  let ofs := 0x80 + 4 * e
  s.judge (PAIR.page p) ofs
    [(getBits val 4 1 == 1 && e != 0 && s.get (PAIR.SEQ_E_CV p (e - 1)) == getBits val 3 1, aSIM)]
    (fun s => s.take .pair (PAIR.page p) ofs val)

/-- A write to STRj_CFG (R298, R299). [assumption 229 (DEDUCED)] -/
def State.strWrite (s : State) (p j : Nat) (val : Word) : State :=
  let ofs := 0x100 + 8 * j
  s.judge (PAIR.page p) ofs [] (fun s => (s.take .pair (PAIR.page p) ofs val).strClear p j)

/-- A write to BUF_BASE or BUF_LEN (R305). -/
def State.bufCfgWrite (s : State) (p ofs : Nat) (val : Word) : State :=
  let l := getBits val 0 5
  s.judge (PAIR.page p) ofs [(ofs == 0x184 && !(decide (4 ≤ l ∧ l ≤ 16)), eRANGE), (s.pairOn p, aBUSY)]
    (fun s => s.take .pair (PAIR.page p) ofs val)

/-- A write to CAL_A, CAL_B or CAL_SKEW (R297, R299). -/
def State.calWrite (s : State) (p ofs : Nat) (val : Word) : State :=
  s.judge (PAIR.page p) ofs [] (fun s => (s.take .pair (PAIR.page p) ofs val).calTouch p (if ofs = 0x1A0 then 0 else 1))

/-! ### The commands -/

/-- SEGMENT_TRIGGER (R290, R292). -/
def execSegmentTrigger (p : Fin 8) (k : Fin 4) (s : State) : Host.Outcome State Fault Refusal :=
  .next (if s.segLive p k then s.segEvent p k else s)

/-- SEG_GO (R290). -/
def execSegGo (p : Fin 8) (mask : BitVec 4) (s : State) : Host.Outcome State Fault Refusal :=
  .next (s.judge (PAIR.page p) 0x58 [] (fun s => s.segGo p mask.toNat))

/-- ENTRY_ISSUE (R291). -/
def execEntryIssue (p : Fin 8) (s : State) : Host.Outcome State Fault Refusal := .next (s.entryIssue p)

/-- CONVERSION_DONE (R289). -/
def execConversionDone (p : Fin 8) (raw : BitVec 16) (s : State) : Host.Outcome State Fault Refusal :=
  .next (s.convDone p (sgnOf 16 raw.toNat))

/-- URGENT_REQUEST (R293). -/
def execUrgentRequest (p : Fin 8) (src : Fin 3) (u : Fin 4) (s : State) : Host.Outcome State Fault Refusal :=
  .next (s.urgSource p src u)

/-- URG_SW_GO (R293). -/
def execUrgSwGo (p : Fin 8) (val : Word) (s : State) : Host.Outcome State Fault Refusal :=
  .next (s.urgSwWrite p (val ||| 0x100))

/-- URGENT_ISSUE (R294). -/
def execUrgentIssue (p : Fin 8) (s : State) : Host.Outcome State Fault Refusal := .next (s.urgIssue p)

/-- ADC_CALIBRATE (R297). -/
def execAdcCalibrate (p : Fin 8) (s : State) : Host.Outcome State Fault Refusal := .next (s.calGo p)

/-- CAL_DONE (R297). -/
def execCalDone (p : Fin 8) (calA calB : Word) (skew : BitVec 8) (s : State) : Host.Outcome State Fault Refusal :=
  .next (s.calDone p calA calB skew.toNat)

/-- BUF_WORD_WRITTEN (R302). -/
def execBufWordWritten (p : Fin 8) (s : State) : Host.Outcome State Fault Refusal := .next (s.bufWritten p)

/-- ILV_CONVERSION (R296). -/
def execIlvConversion (p : Fin 8) (raw : BitVec 16) (s : State) : Host.Outcome State Fault Refusal :=
  .next (s.ilvConv p (sgnOf 16 raw.toNat))

end Sys2Proof.Machine
end

