-- ==== Sys2Proof/Machine/BrejaLink.lean ====
section
/-! DEFINITION. Brejalink cell links: frames, the training states of a lane, sessions and keys, configuration frames,
schedule and status frames, time marks and link tests (R145–R184). -/

namespace Sys2Proof.Machine

/-! ### Names (R155, R164, R183, R184) -/

abbrev lnOFF : Nat := 0
abbrev lnLOCK : Nat := 1
abbrev lnHELLO : Nat := 2
abbrev lnMEASURE : Nat := 3
abbrev lnKEY : Nat := 4
abbrev lnCONFIG : Nat := 5
abbrev lnUP : Nat := 6
abbrev lnDOWN : Nat := 7
abbrev lnPRBS : Nat := 8

abbrev dcLOCK_LOSS : Nat := 1
abbrev dcHELLO_TMO : Nat := 2
abbrev dcVERSION : Nat := 3
abbrev dcKEY : Nat := 4
abbrev dcDLY_BUDGET : Nat := 5
abbrev dcSTAT_MISS : Nat := 6
abbrev dcCFG_FAIL : Nat := 7
abbrev dcSSC : Nat := 8
abbrev dcDISABLED : Nat := 9
abbrev dcDL_LOSS : Nat := 10
abbrev dcDUP_UID : Nat := 11
abbrev dcRESTART : Nat := 12

abbrev bSTATE : Nat := 0x40
abbrev bPID_OWNED : Nat := 0x41
abbrev bCFG_BUSY : Nat := 0x42
abbrev bNO_SESSION : Nat := 0x43

/-- The state of lane `n` (R164). -/
def State.ln (s : State) (n : Nat) : Nat := s.get (LANE.STAT_STATE n)

/-! ### Coding and blocks (R146, R151) -/

/-- The self-synchronising scrambler x⁵⁸ + x³⁹ + 1 over bits in the order sent; bit `j` of its state is the bit sent `j + 1`
bits ago (R146). -/
def scramble : List Bool → BitVec 58 → List Bool × BitVec 58
  | [], st => ([], st)
  | d :: r, st =>
    let o := xor d (xor (st.getLsbD 38) (st.getLsbD 57))
    let (os, e) := scramble r (st <<< 1 ||| (if o then 1 else 0))
    (o :: os, e)

/-- A block: control or data, and its eight bytes. -/
structure Blk where
  ctrl : Bool
  bytes : List Byte
  deriving DecidableEq, Repr

/-- A control block of a type, with the bytes that follow it, filled with 0 (R151). -/
def ctlBlk (ty : Nat) (r : List Byte) : Blk := ⟨true, leBytes 1 ty ++ r ++ List.replicate (7 - r.length) 0⟩

/-- The ECHO block of an EID and a TURN, and the TMARK block of a PIDX8 and an OFFSET (R151). -/
def echoBlk (eid turn : Nat) : Blk := ctlBlk 0x55 (leBytes 1 eid ++ leBytes 4 turn)
def tmarkBlk (pidx8 ofs : Nat) : Blk := ctlBlk 0x2D (leBytes 1 pidx8 ++ leBytes 3 ofs)

/-- A block as it leaves: its sync header, 0b01 for data and 0b10 for control, and its scrambled payload, bit 0 first
(R146). [assumption 53 (DESIGN CHOICE)] -/
def Blk.code (b : Blk) (st : BitVec 58) : (BitVec 2 × BitVec 64) × BitVec 58 :=
  let p := leNat b.bytes 0 8
  let (o, e) := scramble ((List.range 64).map p.testBit) st
  ((if b.ctrl then 2 else 1, BitVec.ofNat 64 (maskOf ((List.range 64).filter (fun i => o.getD i false)))), e)

/-- Blocks as they leave one after the other. -/
def codeBlks : List Blk → BitVec 58 → List (BitVec 2 × BitVec 64)
  | [], _ => []
  | b :: r, st => let (x, e) := b.code st; x :: codeBlks r e

/-- A sync header is valid (R146, R147). -/
def hdrOk (h : BitVec 2) : Bool := h == 1 || h == 2

/-- The blocks of a frame: an SOF, its data blocks and an EOF (R151). -/
def frameBlks (f : Frame) : List Blk :=
  ctlBlk 0x78 (leBytes 1 f.ftype ++ leBytes 1 f.len)
    :: ((List.range f.len).map (fun i => ⟨false, (f.body.drop (8 * i)).take 8⟩) ++ [ctlBlk 0x87 []])

/-- Blocks leave on a lane (R146). -/
def State.lnSend (s : State) (n : Nat) (bs : List Blk) : State :=
  s.modLane n (fun l => { l with line := codeBlks bs (Config.scrambler n s.now) })

/-- A frame other than a schedule leaves on a lane. -/
def State.lnFrame (s : State) (n : Nat) (f : Frame) : State :=
  (s.lnSend n (frameBlks f)).modLane n (fun l => { l with tx := some f })

/-! ### Frames (R152–R154) -/

/-- The version of a number read under R167: the highest listed version not above it, 0 where there is none. -/
def listedVer (v : Nat) : Nat := if 0x21 ≤ v then 0x21 else if 0x20 ≤ v then 0x20 else if 0x13 ≤ v then 0x13 else 0

/-- A frame from its header fields and payload, padded and closed by its CRC (R152, R153). -/
def mkFrame (ver ftype seq pidx sid : Nat) (payload : List Byte) : Frame :=
  let len := (payload.length + 12 + 7) / 8
  let b := leBytes 1 ver ++ leBytes 1 ftype ++ leBytes 2 seq ++ leBytes 4 pidx ++ payload
  let b := b ++ List.replicate (8 * len - 4 - b.length) 0
  { ftype := ftype, len := len, body := b ++ leBytes 4 (crc32c (leBytes 4 sid ++ b)) }

/-- The CRC of a frame holds for a session id (R153). -/
def frameCrcOk (f : Frame) (sid : Nat) : Bool :=
  decide (f.body.length = 8 * f.len) && decide (4 ≤ f.body.length) &&
    leNat f.body (8 * f.len - 4) 4 == crc32c (leBytes 4 sid ++ f.body.take (8 * f.len - 4))

/-- The checks of R151 and R154 on a frame: 0 passed, 1 counted in CRCERR, 2 counted in MALF. A frame that a control
block ended, or whose data blocks are not the LEN of its SOF, is malformed. `ver` none means not checked. -/
def frameCheck (f : Frame) (sid ftype len : Nat) (ver : Option Nat) : Nat :=
  if f.cut || decide (f.body.length ≠ 8 * f.len) then 2
  else if !frameCrcOk f sid then 1
  else if f.ftype ≠ ftype ∨ leNat f.body 1 1 ≠ ftype ∨ f.len ≠ len then 2
  else match ver with
    | some v => if leNat f.body 0 1 = v then 0 else 2
    | none => 0

/-- The 16 bytes of a 128-bit tag or block, first byte first. -/
def bytes128 (x : BitVec 128) : List Byte := (List.range 16).map (fun i => x.extractLsb' (8 * (15 - i)) 8)

/-- Count a discarded frame (R154, R184). -/
def State.lnErr (s : State) (n kind : Nat) : State :=
  match kind with
  | 1 => (s.bump (LANE.ERR_CRCERR n)).irq (LANE.page n) 4
  | 2 => s.bump (LANE.ERR_MALF n)
  | 3 => s.bump (LANE.ERR_SEQERR n)
  | _ => s

/-- Whether what a lane receives is decoded into blocks: it is powered, in block lock or past it, and not under test
(R147, R150, R175). [assumption 45 (DEDUCED)] -/
def State.lnDecodes (s : State) (n : Nat) : Bool :=
  !(s.ln n ∈ [lnOFF, lnPRBS]) && (!(s.ln n ∈ [lnLOCK, lnDOWN]) || (s.lane n).hdr.lock)

/-- The invalid blocks, and the data blocks outside a frame, that arrived with a frame, each counted in MALF (R151).
[assumption 53 (DESIGN CHOICE)] -/
def State.lnStrays (s : State) (n : Nat) (f : Frame) : State :=
  s.iff (f.stray != 0 && s.lnDecodes n) (fun s => s.bump (LANE.ERR_MALF n) f.stray)

/-- The version a frame is held to: the negotiated one, once there is one (R154, R167). [assumption 268 (DEDUCED)] -/
def State.lnVer (s : State) (n : Nat) : Option Nat :=
  if s.ln n ∈ [lnMEASURE, lnKEY, lnCONFIG, lnUP] then some (s.get (LANE.STAT_VER n)) else none

/-- Length of a tag in a version (R167). -/
def tagLen (ver : Nat) : Nat := if ver < 0x20 then 8 else 16

/-! ### State changes of a lane (R164, R176, R177) -/

/-- Enter a lane state; UP_MAP follows it (R182). -/
def State.lnGo (s : State) (n st : Nat) : State :=
  let s := (s.set (LANE.STAT_STATE n) st).modLane n (fun l => { l with since := s.now })
  s.setB (mapBit BLK.UP_MAP0 BLK.UP_MAP1 n) (st == lnUP)

/-- A lane leaves its session: no SID, no keys, nothing awaited (R164, R183). -/
def State.lnEnd (s : State) (n : Nat) : State :=
  let wasHost := match (s.lane n).await with | some a => a.kind == 2 | none => false
  let s := s.iff wasHost (fun s => s.set (LANE.CRES_BUSY n) 0)
  (s.set (LANE.SID_SID n) 0).modLane n (fun l =>
    { l with ks := none, await := none, prbsAt := none, out := none, tmark := none, gotStat := false,
             miss := 0, aseqOk := false, sentN := 0 })

/-- A lane that was UP has left it: DOWN_MAP, and the cell's lost link, which a member's pass takes up and any other
cell shows at once (R59, R177). -/
def State.lnLeft (s : State) (n : Nat) (linkLoss : Bool) : State :=
  let s := s.set (mapBit BLK.DOWN_MAP0 BLK.DOWN_MAP1 n) 1
  if linkLoss && (s.stackOf n).isSome then s.modCell n (fun c => { c with linkLost := true })
  else s.setCst n ckABSENT

/-- A lane goes DOWN with a cause (R164, R177, R182, R184). -/
def State.lnDown (s : State) (n cause : Nat) : State :=
  let st := s.ln n
  if st == lnOFF || st == lnDOWN then s
  else
    let s := (s.lnEnd n).set (LANE.STAT_DCAUSE n) cause
    let s := s.iff (st == lnUP) (fun s => s.lnLeft n true)
    let s := ((s.lnGo n lnDOWN).irq (LANE.page n) 1).irq BLK.page 1
    let s := s.iff (cause == dcCFG_FAIL) (fun s => (s.irq (LANE.page n) 3).irq BLK.page 2)
    let s := s.iff (cause == dcVERSION) (fun s => s.irq BLK.page 3)
    s.iff (cause == dcDLY_BUDGET) (fun s => s.irq BLK.page 4)

/-- The receiver of a lane loses what it has of block lock: the lane is powered off, or receives a raw pattern (R147,
R150, R175). -/
def State.lnUnlock (s : State) (n : Nat) : State :=
  s.modLane n (fun l => { l with hdr := {} })

/-- A lane is powered off: EN cleared, or its power gone (R150, R164, R181). [assumption 45 (DEDUCED)] -/
def State.lnOff (s : State) (n : Nat) : State :=
  let st := s.ln n
  if st == lnOFF then s
  else
    let s := ((s.lnEnd n).lnUnlock n).set (LANE.STAT_DCAUSE n) dcDISABLED
    let s := s.iff (st == lnUP) (fun s => ((s.lnLeft n true).irq (LANE.page n) 1).irq BLK.page 1)
    s.lnGo n lnOFF

/-! ### The delay budget (R163) -/

/-- The budget of R163 holds for a one-way delay `d` in fine steps, with TUPTX the cell head's CONV.
[assumption 52 (DEDUCED)] -/
def State.budget (s : State) (n : Nat) (d : Int) : Bool :=
  let up : Int := s.get (LANE.PEER3_CONV n) * t10 + 147456 + d * tFine + 50 * tNs
  let dn : Int := s.get TBS.PER_WIN1_W_GD * t10 + 100 * tNs + 13 * 24576 + d * tFine + 200 * tNs
  decide (up ≤ (s.get TBS.PER_WIN0_W_UPL * t10 : Nat)) && decide (dn ≤ (s.tc : Int))

/-- After a change of T_c each UP lane that fails its budget stays UP with DLYW set (R163). -/
def State.blkPeriodChange (s : State) : State :=
  s.each ((List.range 48).filter (fun n => s.ln n == lnUP)) (fun s n =>
    let ok := s.budget n (s.get (LANE.DLY_D n))
    let s := s.setB (LANE.STAT_DLYW n) (!ok)
    s.iff (!ok) (fun s => s.irq BLK.page 4))

/-! ### Configuration frames (R169–R171) -/

/-- The nonce of a CFG or CFGACK: SID, direction, type, CCNT (R169). -/
def cfgIv (sid dir ftype ccnt : Nat) : List Byte := leBytes 4 sid ++ leBytes 1 dir ++ leBytes 1 ftype ++ leBytes 6 ccnt

/-- Send a CFG and wait for its CFGACK (R169). -/
def State.cfgSend (s : State) (n kind eff : Nat) (recs : List (Nat × Nat)) : State :=
  let l := s.lane n
  let ver := s.get (LANE.STAT_VER n)
  let sid := s.get (LANE.SID_SID n)
  let ccnt := l.ccntTx + 1
  let pay := leBytes 6 ccnt ++ leBytes 2 0 ++ leBytes 4 eff ++ leBytes 4 recs.length
    ++ recs.flatMap (fun r => leBytes 4 r.1 ++ leBytes 4 r.2)
  let hdr := leBytes 1 ver ++ leBytes 1 3 ++ leBytes 6 0
  let tag := match l.ks with
    | some k => (bytes128 (Config.gmac k (cfgIv sid 0 3 ccnt) (hdr ++ pay))).take (tagLen ver)
    | none => []
  (s.setLane n { l with ccntTx := ccnt, await := some ⟨kind, ccnt, eff, recs, s.pidx⟩ }).lnFrame n
    (mkFrame ver 3 0 0 sid (pay ++ tag))

/-- The CFG of CONFIG (R171). It carries every captured dead time. -/
def State.sendConfig (s : State) (n : Nat) : State :=
  let s := s.modLane n (fun l => { l with dtChg := 0, dtNew := 0 })
  let sb := if (s.capc n).testBit 0 then 1 else 0
  s.cfgSend n 0 0 [(0x10, s.get (LANE.PEER3_CONV n)), (1, s.dtOf n 1), (2, s.dtOf n 2), (3, s.dtOf n 3), (0x11, sb)]

/-- The changed dead times that are due: those captured before this period (R170). -/
def State.dtDue (s : State) (n : Nat) : Nat :=
  let l := s.lane n
  l.dtChg ||| (if l.dtAt < s.pidx then l.dtNew else 0)

/-- A dead time as captured before this period (R170). -/
def State.dtBefore (s : State) (n pid : Nat) : Nat :=
  let l := s.lane n
  if l.dtAt < s.pidx || !l.dtNew.testBit (pid - 1) then s.dtOf n pid else l.dtPrev.getD (pid - 1) 0

/-- Send the dead times of a mask, three boundaries ahead: those captured before this period, or with `latest` the latest
(R170). -/
def State.sendDt (s : State) (n mask : Nat) (latest : Bool) : State :=
  let recs := (bitsOf 3 mask).map (fun i => (i + 1, if latest then s.dtOf n (i + 1) else s.dtBefore n (i + 1)))
  let s := s.modLane n (fun l => { l with
    dtChg := l.dtChg &&& (7 ^^^ mask),
    dtNew := if latest || decide (l.dtAt < s.pidx) then l.dtNew &&& (7 ^^^ mask) else l.dtNew })
  s.cfgSend n 1 (s.pidx + 3) recs

/-- DT_PEND of the cell's channels clears where no newer value waits (R119, R170, R171). -/
def State.dtClear (s : State) (n mask : Nat) : State :=
  let left := (s.lane n).dtChg ||| (s.lane n).dtNew
  let s := if mask.testBit 0 && !left.testBit 0 then s.set (MODCH.STAT_DT_PEND (2 * n)) 0 else s
  if mask &&& 6 != 0 && left &&& 6 == 0 then s.set (MODCH.STAT_DT_PEND (2 * n + 1)) 0 else s

/-- The mask of the dead times a list of records carries. -/
def dtMask (recs : List (Nat × Nat)) : Nat := maskOf ((recs.filter (fun r => 1 ≤ r.1 ∧ r.1 ≤ 3)).map (fun r => r.1 - 1))

/-- The request that CFG asks for (R170, R175). -/
def State.prbsReq (s : State) (n : Nat) : Nat := s.get (LANE.CFG_PRBS n) + 65536 * s.get (LANE.CFG_PRBS_MS n)

/-- The PRBS request of a lane: EFF on the fourth boundary ahead (R175). [assumptions 47, 48 (DEDUCED)] -/
def State.sendPrbs (s : State) (n v : Nat) : State :=
  let eff := s.pidx + 4
  (s.modLane n (fun l => { l with prbsWant := false, prbsAt := some eff })).cfgSend n 3 eff [(0x20, v)]

/-- A CFG failed: sent again with a new CCNT, the latest values and a new EFF; three failures in a row of module-owned
CFGs take the lane DOWN (R164, R170, R171). A host record is sent again and is not counted among them.
[assumption 47 (DEDUCED)] -/
def State.cfgRetry (s : State) (n : Nat) : State :=
  match (s.lane n).await with
  | none => s
  | some a =>
    let s := s.modLane n (fun l => { l with await := none })
    if a.kind == 2 then s.cfgSend n 2 0 a.recs
    else
      let l := s.lane n
      if 3 ≤ l.tries + 1 then s.lnDown n dcCFG_FAIL
      else
        let s := s.modLane n (fun l => { l with tries := l.tries + 1 })
        match a.kind with
        | 0 => s.sendConfig n
        | 1 => s.sendDt n (dtMask a.recs ||| (s.lane n).dtChg ||| (s.lane n).dtNew) true
        | _ => s.sendPrbs n ((a.recs.headD (0, 0)).2)

/-- A lane reaches UP: HOT_MAP, its events, the cell BYPASSED, dead times settled, counters at their start (R154, R171,
R176, R184). -/
def State.lnUpNow (s : State) (n : Nat) : State :=
  let s := (((s.lnGo n lnUP).set (mapBit BLK.HOT_MAP0 BLK.HOT_MAP1 n) 1).irq (LANE.page n) 0).irq BLK.page 0
  let s := (s.setCst n ckBYPASSED).modCell n (fun c => { c with linkLost := false, legs := [0, 0, 0, 0, 0, 0], restart := true })
  let s := s.modLane n (fun l => { l with tries := 0, await := none, freed := s.pidx, miss := 0, gotStat := false })
  s.dtClear n 7

/-- What a CFGACK reports for the awaited CFG (R170, R171). [assumption 227 (DEDUCED)] -/
def State.cfgAcked (s : State) (n : Nat) (a : CfgWait) (res : List Nat) : State :=
  let ok := res.all (· == 0)
  let done := fun (s : State) => s.modLane n (fun l => { l with await := none, freed := s.pidx, tries := 0 })
  match a.kind with
  | 0 => if ok then s.lnUpNow n else s.cfgRetry n
  | 2 =>
    if res.contains 3 then s.cfgRetry n
    else ((((s.modLane n (fun l => { l with await := none, freed := s.pidx })).set (LANE.CRES_RES n) (res.headD 0)).set
      (LANE.CRES_BUSY n) 0)).irq (LANE.page n) 2
  | _ =>
    if ok then (if a.kind == 1 then (done s).dtClear n (dtMask a.recs) else done s)
    else if res.any (fun r => r == 1 || r == 2) then s.lnDown n dcCFG_FAIL
    else s.cfgRetry n

/-- A CFGACK arrives (R154, R169): in CONFIG or UP, past its checks and its tag, with a CCNT above the last, for the CFG that
waits. [assumption 268 (DEDUCED)] -/
def State.cfgackRx (s : State) (n : Nat) (f : Frame) : State :=
  let l := s.lane n
  let ver := s.get (LANE.STAT_VER n)
  let sid := s.get (LANE.SID_SID n)
  let nrec := leNat f.body 20 1
  let len := (36 + nrec + tagLen ver + 7) / 8
  if !s.lnDecodes n then s
  else match frameCheck f sid 4 len (s.lnVer n), l.ks with
    | 0, none => s
    | 0, some k =>
      if !(s.ln n ∈ [lnCONFIG, lnUP]) then s else
      let ccnt := leNat f.body 8 6
      let tagAt := 32 + nrec
      let tag := (bytes128 (Config.gmac k (cfgIv sid 1 4 ccnt) (f.body.take tagAt))).take (tagLen ver)
      if (f.body.drop tagAt).take (tagLen ver) ≠ tag then s.lnErr n 1
      else if ccnt ≤ l.ccntRx then s
      else
        let s := s.modLane n (fun l => { l with ccntRx := ccnt })
        match l.await with
        | none => s
        | some a =>
          if leNat f.body 24 6 ≠ a.ccnt ∨ nrec ≠ a.recs.length then s
          else s.cfgAcked n a ((List.range nrec).map (fun i => leNat f.body (32 + i) 1))
    | e, _ => s.lnErr n e

/-! ### Sessions (R168) -/

/-- The session key: SP 800-108 in counter mode over BRJS, SID, NM and NC (R168). -/
def sessionKey (kp : BitVec 256) (sid : Nat) (nm nc : List Byte) : BitVec 256 :=
  let x := leBytes 4 0x534A5242 ++ leBytes 1 0 ++ leBytes 4 sid ++ nm ++ nc ++ [1, 0]
  Config.cmac kp (1 :: x) ++ Config.cmac kp (2 :: x)

/-- The pairing key of a KID (R168). -/
def State.pairKey (s : State) (kid : Nat) : Option (BitVec 256) := (s.pairKeys.find? (fun p => p.1 == kid)).map (·.2)

/-- Send SOPEN: SID and NM drawn, the tag under the pairing key; without a key the lane goes DOWN (R168).
[assumption 9 (DESIGN CHOICE)] -/
def State.sopen (s : State) (n : Nat) : State :=
  match s.pairKey (s.get (LANE.PEER2_KID n)) with
  | none => s.lnDown n dcKEY
  | some kp =>
    let (i, s) := s.free
    let w := (Config.freeWord i).toNat
    let sid := if w = 0 then 1 else w
    let nm := Config.random128 i
    let ver := s.get (LANE.STAT_VER n)
    let nmb := bytes128 nm
    let pay := leBytes 4 sid ++ nmb
    let tag := (bytes128 (Config.gmac kp (nmb.take 12) (leBytes 1 ver ++ leBytes 1 6 ++ leBytes 6 0 ++ pay))).take (tagLen ver)
    (s.modLane n (fun l => { l with sidP := sid, nm := nm, tries := l.tries + 1, since := s.now })).lnFrame n
      (mkFrame ver 6 0 0 0 (pay ++ tag))

/-- A SACK arrives (R154): in KEY the session key is derived and the tag checked; with a good one the lane goes on to CONFIG
(R168). [assumption 268 (DEDUCED)] -/
def State.sackRx (s : State) (n : Nat) (f : Frame) : State :=
  if !s.lnDecodes n then s
  else
    let l := s.lane n
    let ver := s.get (LANE.STAT_VER n)
    match frameCheck f 0 7 (if ver < 0x20 then 5 else 6) (s.lnVer n), s.pairKey (s.get (LANE.PEER2_KID n)) with
    | 0, some kp =>
      if s.ln n ≠ lnKEY then s else
      let k := sessionKey kp l.sidP (bytes128 l.nm) ((f.body.drop 8).take 16)
      let iv := leBytes 4 l.sidP ++ [1, 7] ++ leBytes 6 0
      let tag := (bytes128 (Config.gmac k iv (f.body.take 28))).take (tagLen ver)
      if (f.body.drop 28).take (tagLen ver) ≠ tag then s
      else
        let s := (s.set (LANE.SID_SID n) l.sidP).modLane n (fun l =>
          { l with ks := some k, seqTx := 0, seqRx := 0, sentN := 0, aseqOk := false, ccntTx := 0, ccntRx := 0,
                   tries := 0 })
        (s.lnGo n lnCONFIG).sendConfig n
    | 0, none => s
    | e, _ => s.lnErr n e

/-! ### HELLO and MEASURE (R164–R167, R176, R180) -/

/-- The module's HELLO (R166). -/
def State.helloFrame (s : State) : Frame :=
  let vm := s.get BLK.CFG_VMAX
  mkFrame vm 5 0 0 0 (leBytes 1 vm ++ leBytes 1 1 ++ leBytes 2 (s.get BLK.MCAP_CAP) ++ leBytes 8 s.straps.uid ++ leBytes 4 0)

/-- Send the next ECHO request, with TURN = 0 (R165); it counts while station time is locked (R164; DEDUCED: without MOD.TB_STAT.LOCK the
lane waits in MEASURE, so a request then counts among no 256). -/
def State.echoReq (s : State) (n : Nat) : State :=
  let more := if s.on MOD.TB_STAT_LOCK then 1 else 0
  (s.lnSend n [echoBlk (s.lane n).eid 0]).modLane n (fun l =>
    { l with out := some (l.eid, s.now), eid := (l.eid + 1) % 64, reqs := l.reqs + more })

/-- The next request where fewer than 256 have been made. [assumption 46 (DEDUCED)] -/
def State.echoNext (s : State) (n : Nat) : State :=
  if (s.lane n).reqs < 256 then s.echoReq n else s.modLane n (fun l => { l with out := none })

/-- Enter MEASURE with the first request. [assumption 46 (DEDUCED)] -/
def State.measure (s : State) (n : Nat) : State :=
  ((s.lnGo n lnMEASURE).modLane n (fun l => { l with eid := 0, reqs := 0, replies := [], out := none })).echoReq n

/-- A valid cell-head HELLO in HELLO: the peer's figures, the version, and the checks of R167, R180 and R176.
[assumption 45 (DEDUCED)] -/
def State.helloTake (s : State) (n : Nat) (b : List Byte) : State :=
  let s := (s.set ⟨LANE.PEER0 n, 0, 32⟩ (leNat b 12 4)).set ⟨LANE.PEER1 n, 0, 32⟩ (leNat b 16 4)
  let s := ((s.set (LANE.PEER2_VERMAX n) (leNat b 8 1)).set (LANE.PEER2_KID n) (leNat b 20 1)).set (LANE.PEER2_MAKER n) (leNat b 22 2)
  let s := ((s.set (LANE.PEER3_CAP n) (leNat b 10 2)).set (LANE.PEER3_CONV n) (leNat b 21 1)).set (LANE.PEER3_LINK n) (leNat b 9 1 / 2 % 2)
  let vmax := leNat b 8 1
  let ver := listedVer (min (s.get BLK.CFG_VMAX) vmax)
  if vmax < 0x13 ∨ ver < s.get BLK.CFG_VMIN then s.lnDown n dcVERSION
  else
    let s := s.set (LANE.STAT_VER n) ver
    let uid := fun m => (s.reg (LANE.PEER0 m), s.reg (LANE.PEER1 m))
    let dup := (List.range 48).any (fun m => m != n && s.ln m ∈ [lnMEASURE, lnKEY, lnCONFIG, lnUP] && uid m == uid n)
    if s.on BLK.CFG_SSC && !(s.capc n).testBit 1 then s.lnDown n dcSSC
    else if dup then s.lnDown n dcDUP_UID
    else s.measure n

/-- A HELLO arrives (R164, R166): in LOCK, with the receiver in block lock, it shows that both directions are locked.
[assumption 268 (DEDUCED)] -/
def State.helloRx (s : State) (n : Nat) (f : Frame) : State :=
  let st := s.ln n
  if !s.lnDecodes n then s
  else match frameCheck f 0 5 4 none with
  | 0 =>
    let b := f.body
    if leNat b 9 1 % 2 = 1 then s.lnErr n 2
    else if st = lnDOWN then s
    else if st = lnLOCK then (s.lnGo n lnHELLO).helloTake n b
    else if st = lnHELLO then s.helloTake n b
    else
      let same := leNat b 12 4 == (s.reg (LANE.PEER0 n)).toNat && leNat b 16 4 == (s.reg (LANE.PEER1 n)).toNat
        && leNat b 8 1 == s.get (LANE.PEER2_VERMAX n) && leNat b 10 2 == s.get (LANE.PEER3_CAP n)
      if st ∈ [lnMEASURE, lnKEY] && same then s else s.lnDown n dcRESTART
  | e => s.lnErr n e

/-- Enter KEY (R164, R168). -/
def State.enterKey (s : State) (n : Nat) : State :=
  ((s.lnGo n lnKEY).modLane n (fun l => { l with tries := 0, out := none })).sopen n

/-- A reply to an ECHO request (R164): used only for the outstanding EID, within 50 µs, and with station time locked. With 64 replies whose RTTs
lie within 8 fine steps the delay stands, and the budget decides; one that is met clears DLYW (R183).
[assumption 247 (DEDUCED)] -/
def State.echoReply (s : State) (n eid turn rtt : Nat) : State :=
  let l := s.lane n
  match s.ln n, l.out with
  | 3, some (e, _) =>
    if e ≠ eid ∨ 320000 < rtt then s
    else if !s.on MOD.TB_STAT_LOCK then s.echoNext n
    else
      let reps := ((rtt, turn) :: l.replies).take 64
      let s := s.setLane n { l with replies := reps }
      let rtts := reps.map (·.1)
      let mx := rtts.foldl max 0
      let spread := mx - rtts.foldl min mx
      if reps.length = 64 ∧ spread ≤ 8 then
        let sum : Int := reps.foldl (fun a p => a + ((p.1 : Int) - p.2)) 0
        let d := roundAway ((sum : Rat) / 128 + (s.getS (LANE.ASYM_ASYM n) : Rat))
        let s := (s.set (LANE.DLY_D n) (max 0 (min 65535 d)).toNat).set (LANE.DLY_SPREAD n) (min spread 65535)
        if s.budget n d then (s.set (LANE.STAT_DLYW n) 0).enterKey n else s.lnDown n dcDLY_BUDGET
      else s.echoNext n
  | _, _ => s

/-! ### Lane configuration (R148, R150, R175, R183) -/

/-- A host write to LNn_CFG: EN powers the lane on or off, PRBS asks for a test, which waits for a session, and a PRBS
of 0 withdraws a test not yet asked of the cell head. [assumptions 48, 246 (DEDUCED)] -/
def State.laneCfgWrite (s : State) (n : Nat) (val : Word) : State :=
  let pg := LANE.page n
  let en0 := s.on (LANE.CFG_EN n)
  let en1 := getBits val 0 1 == 1
  let prbs := getBits val 1 2 != 0 && getBits val 1 2 != s.get (LANE.CFG_PRBS n)
  s.judge pg 0x40 [(decide (5 ≤ getBits val 3 3), eRANGE),
      (prbs && s.cst n ∈ [ckACTIVE, ckCHARGING, ckSPARE], bSTATE)]
    (fun s =>
      let s := s.take .lane pg 0x40 val
      let s := s.iff (getBits val 1 2 == 0) (fun s => s.modLane n (fun l => { l with prbsWant := false }))
      if !en0 && en1 then (s.lnGo n lnLOCK).modLane n (fun l => { l with prbsWant := l.prbsWant || prbs })
      else if en0 && !en1 then s.lnOff n
      else if prbs then
        if s.ln n == lnUP && (s.lane n).await.isNone then s.sendPrbs n (s.prbsReq n)
        else s.modLane n (fun l => { l with prbsWant := true })
      else s)

/-- A host write to LNn_TXEQ (R148). -/
def State.laneTxeqWrite (s : State) (n : Nat) (val : Word) : State :=
  s.judge (LANE.page n) 0x44
    [(decide (getBits val 8 5 < 8 + getBits val 0 3 + getBits val 16 4), eRANGE)]
    (fun s => s.take .lane (LANE.page n) 0x44 val)

/-- A host write to LNn_CREQ; with GO it sends one CFG with the record, EFF = 0 (R170, R181, R184).
[assumption 51 (DEDUCED)] -/
def State.creqWrite (s : State) (n : Nat) (val : Word) : State :=
  let pid := getBits val 0 16
  if val.getLsbD 16 then
    s.judge (LANE.page n) 0x78
      [(decide (pid < 0x8000) && pid != 0x11, bPID_OWNED), ((s.lane n).await.isSome, bCFG_BUSY),
       (s.ln n != lnUP, bNO_SESSION)]
      (fun s => ((s.take .lane (LANE.page n) 0x78 val).set (LANE.CRES_BUSY n) 1).cfgSend n 2 0
        [(pid, s.get (LANE.CVAL_VALUE n))])
  else s.judge (LANE.page n) 0x78 [] (fun s => s.take .lane (LANE.page n) 0x78 val)

/-- A host write to BLK.CFG: a write that sets SSC takes lanes without SSC_TRACK DOWN (R180, R182). -/
def State.blkCfgWrite (s : State) (val : Word) : State :=
  let v := getBits val 8 8
  let ssc0 := s.on BLK.CFG_SSC
  s.judge BLK.page 0x40 [(!(v ∈ [0x13, 0x20, 0x21]), eRANGE)] (fun s =>
    let s := s.take .blk BLK.page 0x40 val
    if !ssc0 && s.on BLK.CFG_SSC then
      s.each (List.range 48) (fun s n =>
        if s.ln n ∈ [lnMEASURE, lnKEY, lnCONFIG, lnUP] && !(s.capc n).testBit 1 then s.lnDown n dcSSC else s)
    else s)

/-- A host write to BLK.TMO (R182). -/
def State.blkTmoWrite (s : State) (val : Word) : State :=
  s.judge BLK.page 0x44
    [(getBits val 0 8 == 0 || getBits val 8 8 == 0 || decide (getBits val 16 8 < 2), eRANGE)]
    (fun s => s.take .blk BLK.page 0x44 val)

/-! ### Status frames (R158, R159) -/

/-- A STATUS arrives (R154, R158, R159, R164): valid ones count for STAT_MISS; one that arrives late, or that is
not of this period, is counted in LATE and its data are not used. [assumptions 50, 226, 268 (DEDUCED)] -/
def State.statusRx (s : State) (n : Nat) (f : Frame) : State :=
  if !s.lnDecodes n then s
  else if s.ln n ∈ [lnKEY, lnCONFIG] then s.iff f.cut (fun s => s.lnErr n 2)
  else
    let l := s.lane n
    match frameCheck f (s.get (LANE.SID_SID n)) 2 4 (s.lnVer n) with
    | 0 =>
      if s.ln n ≠ lnUP then s else
      let seq := leNat f.body 2 2
      let ahead := (seq + 65536 - l.seqRx) % 65536
      if ahead = 0 ∨ 32767 < ahead then s.lnErr n 3
      else
        let s := s.iff (decide (1 < ahead)) (fun s => s.lnErr n 3)
        let w := fun i => BitVec.ofNat 32 (leNat f.body (8 + 4 * i) 4)
        let aseq := leNat f.body 24 2
        let named := aseq != 0 && (decide (aseq ≤ l.sentN) || decide (65535 ≤ l.sentN))
        let s := s.modLane n (fun l => { l with seqRx := seq, gotStat := true, aseqOk := l.aseqOk || named })
        let s := ((s.bump (LANE.RXCNT_CNT n)).setReg (LANE.CSTAT n) (w 3)).iff (getBits (w 3) 17 2 != 0)
          (fun s => s.irq (LANE.page n) 6)
        let s := s.iff (getBits (w 3) 21 1 == 1) (fun s => s.irq STL.page 7)
        let timely := s.window == 0 && decide (s.now < s.bndAt + s.get TBS.PER_WIN0_W_UPL * t10)
          && leNat f.body 4 4 == s.pidx % 2 ^ 32
        if timely then s.modCell n (fun c => { c with rx := some (w 0, w 1, w 2, w 3) })
        else s.bump (LANE.ERR_LATE n)
    | e => s.lnErr n e

/-- The status received in a period is latched at the close of the uplink window; a COAST block takes the lane DOWN
(R18, R48, R54, R158, R159). A field that reads as not measured keeps its last valid value. [assumption 49 (DEDUCED)] -/
def State.latchStatus (s : State) (n : Nat) : State :=
  match (s.cell n).rx with
  | none => s
  | some (w0, w1, w2, w3) =>
    let u := fun (old : Nat) (w : Word) (lo : Nat) => let v := getBits w lo 16; if v = 0xFFFF then (old, 1) else (v, 0)
    let g := fun (old : Int) (w : Word) (lo : Nat) => let v := getBits w lo 16; if v = 0x8000 then (old, 1) else (sgnOf 16 v, 0)
    let c := s.cell n
    let v1 := u c.v1 w0 0
    let v2 := u c.v2 w0 16
    let im := g c.imv w1 0
    let il := g c.ilv w1 16
    let th := g c.ths w2 0
    let tg := g c.tgu w2 16
    let closed := getBits w3 12 2 == 1
    let s := s.setCell n { c with
      w0 := w0, w1 := w1, w2 := w2, w3 := w3, rx := none, v1 := v1.1, v2 := v2.1, imv := im.1, ilv := il.1,
      ths := th.1, tgu := tg.1,
      unmeas := v1.2 + 2 * v2.2 + 4 * im.2 + 8 * il.2 + 16 * th.2 + 32 * tg.2,
      seen := c.seen ||| 64 ||| (63 ^^^ (v1.2 + 2 * v2.2 + 4 * im.2 + 8 * il.2 + 16 * th.2 + 32 * tg.2)),
      bypFail := c.bypFail && !closed, bypSince := if closed then none else c.bypSince }
    if getBits w3 17 2 == 1 then
      if (s.lane n).aseqOk then s.lnDown n dcDL_LOSS else s.set (mapBit STL.CBLK_MAP0 STL.CBLK_MAP1 n) 1
    else s

/-! ### Schedule frames (R155, R156, R174) -/

/-- The SCHED frame of a schedule (R155). -/
def Sched.frame (x : Sched) (ver sid : Nat) : Frame :=
  let w := x.cmd + 8 * x.brg0 + 32 * x.brg1 + 128 * x.brg2 + 512 * x.evs.length + 65536 * x.tcp
  mkFrame ver 1 x.seq (x.pidx % 2 ^ 32) sid
    (leBytes 4 w ++ x.evs.flatMap (fun e => leBytes 4 (e.2.1 + 16 * e.2.2 + 32 * e.1)))

/-- The schedule a cell's next frame carries: BLOCK where the cell is blocked or its events do not fit, the previous
one repeated under HOLD, or CMD, BRG and the computed events (R24, R123, R156). `doze` blocks every frame (R408).
[assumption 40 (DEDUCED)] -/
def State.cellSched (s : State) (n : Nat) (doze : Bool) : Sched :=
  let c := s.cell n
  let l := s.lane n
  let base : Sched := { seq := (l.seqTx + 1) % 65536, pidx := s.pidx + 1, tcp := s.nextPeriod }
  if doze || s.cellBlocked n || c.evtOvf then base
  else if c.rptNow then
    { base with cmd := l.sched.cmd, brg0 := l.sched.brg0, brg1 := l.sched.brg1, brg2 := l.sched.brg2, evs := l.sched.evs }
  else
    let (cmd, b0, b1, b2) := s.framePlan n
    if cmd == 1 then base
    else
      let has := fun lo hi => c.evs.any (fun e => decide (lo ≤ e.2.1) && decide (e.2.1 < hi))
      { base with cmd := cmd, brg0 := b0, brg1 := if has 4 8 then b1 else 1, brg2 := if has 8 12 then b2 else 1,
                  evs := c.evs }

/-- The leg states a schedule leaves: off on a held bridge (R122). -/
def legsAfter (x : Sched) (ends : List Nat) : List Nat :=
  if x.cmd == 1 then [0, 0, 0, 0, 0, 0]
  else (List.range 6).map (fun i =>
    let b := match i / 2 with | 0 => x.brg0 | 1 => x.brg1 | _ => x.brg2
    if b == 0 then ends.getD i 0 else 0)

/-- In a Settle pair a lane carries schedules only to a cell head with DUAL on the right link: A of the preferred module,
B of its partner (R325). -/
def State.pairOk (s : State) (n : Nat) : Bool :=
  !s.on STL.CFG_EN || ((s.get (LANE.PEER3_CAP n)).testBit 3 && s.on (LANE.PEER3_LINK n) == !s.on STL.CFG_PREF)

/-- Compose the next frame of a lane at the close of the Grainer and solver window: in UP and with DRIVE held it is
sent, by a member of a pair from the boundary at which it is ACTIVE; otherwise nothing is (R155, R156, R174, R327, R333). φ_prev follows the frame (R93).
[assumptions 40, 116, 242 (DEDUCED)] -/
def State.compose (s : State) (n : Nat) (doze : Bool) : State :=
  let c := s.cell n
  let x := s.cellSched n doze
  let s := s.setB (mapBit STL.UNPAIR_MAP0 STL.UNPAIR_MAP1 n) (s.ln n == lnUP && !s.pairOk n)
  let idle := s.on STL.CFG_EN && s.get STL.STAT_STATE != stlACTIVE
  let sends := s.ln n == lnUP && s.on STL.STAT_DRIVE && s.pairOk n && !idle
  let blocked := x.cmd == 1
  let d := s.dsv n
  let s := if idle then s else s.setDsv n { d with phiPrev := if blocked || !d.use || d.res.idle then 0 else d.res.phi }
  if sends then
    let s := (s.setB (MODCH.STAT_BLOCKED (2 * n)) blocked).setB (MODCH.STAT_BLOCKED (2 * n + 1)) blocked
    let l := s.lane n
    let since := if x.cmd == 2 then (if l.sched.cmd == 2 then c.bypSince else some s.now)
      else if x.cmd == 1 then c.bypSince else none
    let fr := Sched.frame x (s.get (LANE.STAT_VER n)) (s.get (LANE.SID_SID n))
    let s := (s.setLane n { l with sched := x, seqTx := x.seq, sentN := l.sentN + 1, schedTx := some fr }).lnSend n (frameBlks fr)
    s.setCell n { c with legs := legsAfter x (if c.rptNow then c.legs else c.legsNext), rptNow := false, bypSince := since,
                         bypFail := c.bypFail && x.cmd != 0 && x.cmd != 3, restart := blocked || x.cmd == 2 }
  else s.setCell n { c with legs := [0, 0, 0, 0, 0, 0], rptNow := false, restart := true }

/-- Compose every frame. [assumption 194 (DEDUCED)] -/
def State.composeAll (s : State) (doze : Bool) : State := s.each (List.range 48) (fun s n => s.compose n doze)

/-! ### The boundary (R164, R170, R175) -/

/-- A boundary on every lane: periods without a valid STATUS are counted, and a PRBS test whose boundary this is, or is
past, begins once its request is acknowledged, whatever other CFG waits: both ends leave the session, and the cell is
ABSENT (R164, R175). [assumptions 48, 226 (DEDUCED)] -/
def State.blkBoundary (s : State) : State :=
  s.each ((List.range 48).filter (fun n => s.ln n == lnUP)) (fun s n =>
    let l := s.lane n
    let s := s.setLane n { l with miss := if l.gotStat then 0 else l.miss + 1, gotStat := false }
    let asked := match l.await with | some a => a.kind == 3 | none => false
    let due := match l.prbsAt with | some b => decide (b ≤ s.pidx) && !asked | none => false
    if due then (((s.lnEnd n).lnUnlock n).lnLeft n false).lnGo n lnPRBS
    else if l.prbsWant && l.await.isNone then s.sendPrbs n (s.prbsReq n)
    else s)

/-! ### The commands -/

/-- LANE_ENABLE (R164). -/
def execLaneEnable (n : Fin 48) (val : Word) (s : State) : Host.Outcome State Fault Refusal :=
  .next (s.laneCfgWrite n (val ||| 1))

/-- LANE_DISABLE (R150, R181). -/
def execLaneDisable (n : Fin 48) (val : Word) (s : State) : Host.Outcome State Fault Refusal :=
  .next (s.laneCfgWrite n (val &&& ~~~1))

/-- A receiver after one more sync header (R147): 64 valid ones in a row give lock, 16 invalid ones within 64 lose it, and
while unlocked it slips one bit position at an invalid one. -/
def HdrRx.take (r : HdrRx) (ok : Bool) : HdrRx :=
  if r.lock then
    let h := (ok :: r.hist).take 64
    if 16 ≤ h.count false then { slip := r.slip } else { r with hist := h }
  else if !ok then { slip := (r.slip + 1) % 66 }
  else if r.run < 63 then { r with run := r.run + 1 }
  else { lock := true, slip := r.slip }

/-- A block follows block lock in LOCK: both directions are taken as locked, and the lane sends HELLO (R164).
[assumption 53 (DESIGN CHOICE)] -/
def State.lnLocked (s : State) (n : Nat) : State :=
  if s.ln n == lnLOCK then (s.lnGo n lnHELLO).lnFrame n s.helloFrame else s

/-- Block lock is lost: counted; a lane past LOCK goes DOWN, and LOCK_LOSS prevails over a STAT_MISS of the same period
(R147, R164, R181). -/
def State.lnLockLost (s : State) (n : Nat) : State :=
  let st := s.ln n
  let s := s.bump (LANE.BLKERR_LOCKLOSS n)
  if st == lnDOWN then
    if s.get (LANE.STAT_DCAUSE n) == dcSTAT_MISS && decide (s.bndAt ≤ (s.lane n).since) then
      s.set (LANE.STAT_DCAUSE n) dcLOCK_LOSS else s
  else if st == lnLOCK then s
  else s.lnDown n dcLOCK_LOSS

/-- One sync header reaches a lane (R147). An
unlocked receiver discards what it gets, so invalid headers count in BLKERR.HDR under lock only; a lane that is off, or
that receives a raw pattern, has none. [assumption 254 (DEDUCED)] -/
def State.hdrRx (s : State) (n : Nat) (ok : Bool) : State :=
  let h := (s.lane n).hdr
  if s.ln n ∈ [lnOFF, lnPRBS] then s
  else
    let r := h.take ok
    let s := s.iff (h.lock && !ok) (fun s => s.bump (LANE.BLKERR_HDR n))
    let s := s.modLane n (fun l => { l with hdr := r })
    if h.lock && !r.lock then s.lnLockLost n else s.iff (r.lock && ok) (fun s => s.lnLocked n)

/-- BLOCK_LOCK (R147, R164): the sync headers that bring block lock. -/
def execBlockLock (rx : LaneHdrs) (s : State) : Host.Outcome State Fault Refusal :=
  .next (s.each rx.hdrs (fun s h => s.hdrRx rx.lane (hdrOk h)))

/-- BLOCK_LOCK_LOSS (R147, R164, R181): the sync headers that lose it. [assumption 44 (DEDUCED)] -/
def execBlockLockLoss (rx : LaneHdrs) (s : State) : Host.Outcome State Fault Refusal :=
  .next (s.each rx.hdrs (fun s h => s.hdrRx rx.lane (hdrOk h)))

/-- HELLO_TIMER (R164): the lane in HELLO sends HELLO. -/
def execHelloTimer (n : Fin 48) (s : State) : Host.Outcome State Fault Refusal :=
  .next (if s.ln n == lnHELLO then s.lnFrame n s.helloFrame else s)

/-- HELLO_RX (R166). [assumption 45 (DEDUCED)] -/
def execHelloRx (n : Fin 48) (f : Frame) (s : State) : Host.Outcome State Fault Refusal :=
  .next ((s.lnStrays n f).helloRx n f)

/-- HELLO_TMO (R164): 10 ms in HELLO. -/
def execHelloTmo (n : Fin 48) (s : State) : Host.Outcome State Fault Refusal :=
  .next (if s.ln n == lnHELLO then (s.advance ((s.lane n).since + 10 * tMs)).lnDown n dcHELLO_TMO else s)

/-- ECHO_REPLY_RX (R164). -/
def execEchoReplyRx (n : Fin 48) (eid : BitVec 8) (turn : Word) (rtt : Nat) (s : State) :
    Host.Outcome State Fault Refusal := .next (s.echoReply n eid.toNat turn.toNat rtt)

/-- ECHO_TIMEOUT (R164): 50 µs without a used reply; the next request follows. -/
def execEchoTimeout (n : Fin 48) (s : State) : Host.Outcome State Fault Refusal :=
  match s.ln n, (s.lane n).out with
  | 3, some (_, t) => .next ((s.advance (t + 50 * tUs)).echoNext n)
  | _, _ => .next s

/-- MEASURE_LIMIT (R164): 256 requests have been made without a result, with station time locked. -/
def execMeasureLimit (n : Fin 48) (s : State) : Host.Outcome State Fault Refusal :=
  let l := s.lane n
  .next (if s.ln n == lnMEASURE && s.on MOD.TB_STAT_LOCK && decide (256 ≤ l.reqs) && l.out.isNone then s.lnDown n dcDLY_BUDGET else s)

/-- SOPEN_RETRY (R164, R168): 1 ms after the last attempt; after three the lane goes DOWN. -/
def execSopenRetry (n : Fin 48) (s : State) : Host.Outcome State Fault Refusal :=
  if s.ln n == lnKEY then
    let s := s.advance ((s.lane n).since + tMs)
    .next (if 3 ≤ (s.lane n).tries then s.lnDown n dcKEY else s.sopen n)
  else .next s

/-- SACK_RX (R168). -/
def execSackRx (n : Fin 48) (f : Frame) (s : State) : Host.Outcome State Fault Refusal :=
  .next ((s.lnStrays n f).sackRx n f)

/-- CFGACK_RX (R169, R170, R171). -/
def execCfgackRx (n : Fin 48) (f : Frame) (s : State) : Host.Outcome State Fault Refusal :=
  .next ((s.lnStrays n f).cfgackRx n f)

/-- CFG_ACK_TIMEOUT (R170, R171): CFG_TMO periods without a CFGACK. -/
def execCfgAckTimeout (n : Fin 48) (s : State) : Host.Outcome State Fault Refusal :=
  match (s.lane n).await with
  | some a => .next (if a.sent + s.get BLK.TMO_CFG_TMO ≤ s.pidx then s.cfgRetry n else s)
  | none => .next s

/-- STATUS_RX (R158, R159). -/
def execStatusRx (n : Fin 48) (f : Frame) (s : State) : Host.Outcome State Fault Refusal :=
  .next ((s.lnStrays n f).statusRx n f)

/-- STAT_MISS (R164): STAT_MISS periods in a row without a valid STATUS. -/
def execStatMiss (n : Fin 48) (s : State) : Host.Outcome State Fault Refusal :=
  .next (if s.ln n == lnUP && decide (s.get BLK.TMO_STAT_MISS ≤ (s.lane n).miss) then s.lnDown n dcSTAT_MISS else s)

/-- DOWN_RETRY (R164): RETRY × 10 ms in DOWN. -/
def execDownRetry (n : Fin 48) (s : State) : Host.Outcome State Fault Refusal :=
  .next (if s.ln n == lnDOWN && s.on (LANE.CFG_EN n) then
    (s.advance ((s.lane n).since + s.get BLK.TMO_RETRY * 10 * tMs)).lnGo n lnLOCK else s)

/-- TMARK_SEND (R160): PIDX8 and OFFSET of the next boundary. -/
def execTmarkSend (n : Fin 48) (s : State) : Host.Outcome State Fault Refusal :=
  .next (if s.ln n ∈ [lnKEY, lnCONFIG, lnUP] then
    let ofs := s.nextBnd - ((s.now : Int) - s.epochAt) / (tFine : Int) - (s.get (LANE.DLY_D n) : Int)
    (s.lnSend n [tmarkBlk ((s.pidx + 1) % 256) (codeOf 24 ofs)]).modLane n (fun l =>
      { l with tmark := some ((s.pidx + 1) % 256, codeOf 24 ofs) })
  else s)

/-- DT_CFG_SEND (R119, R170): changed dead times leave in a period after their capture and after the awaited CFG. -/
def execDtCfgSend (n : Fin 48) (s : State) : Host.Outcome State Fault Refusal :=
  let l := s.lane n
  .next (if s.ln n == lnUP && l.await.isNone && s.dtDue n != 0 && decide (l.freed < s.pidx) then
    s.sendDt n (s.dtDue n) false else s)

/-- CREQ_GO (R170, R181). -/
def execCreqGo (n : Fin 48) (val : Word) (s : State) : Host.Outcome State Fault Refusal :=
  .next (s.creqWrite n (val ||| 0x10000))

/-- PRBS_START (R175). -/
def execPrbsStart (n : Fin 48) (val : Word) (s : State) : Host.Outcome State Fault Refusal := .next (s.laneCfgWrite n val)

/-- PRBS_END (R175, R184): the test's duration is over; the lane returns to LOCK. -/
def execPrbsEnd (n : Fin 48) (errs : Word) (s : State) : Host.Outcome State Fault Refusal :=
  if s.ln n == lnPRBS then
    let s := s.advance ((s.lane n).since + s.get (LANE.CFG_PRBS_MS n) * tMs)
    let s := (s.bump (LANE.PRBS_ERRS n) errs.toNat).iff (errs != 0) (fun s => s.irq (LANE.page n) 5)
    .next (s.lnGo n lnLOCK)
  else .next s

/-- SSC_SET (R180): a write of BLK.CFG. -/
def execSscSet (val : Word) (s : State) : Host.Outcome State Fault Refusal := .next (s.blkCfgWrite (val ||| 1))

end Sys2Proof.Machine
end

