-- ==== Sys2Proof/Machine/Can.lean ====
section
/-! DEFINITION. The CAN FD controllers: filters and receive queues, the transmit queue, aborts, time stamps, error
confinement and time-triggered operation (R373–R387, R395–R397). -/

namespace Sys2Proof.Machine

abbrev cTDC : Nat := 0x41
abbrev cQFULL : Nat := 0x42

def State.can (s : State) (c : Nat) : CanSt := SMap.get (fun _ => {}) s.cans c
def State.setCan (s : State) (c : Nat) (x : CanSt) : State := { s with cans := SMap.put (fun _ => {}) s.cans c x }
def State.modCan (s : State) (c : Nat) (f : CanSt → CanSt) : State := s.setCan c (f (s.can c))

/-- The instant a clock domain shows: it stands still while gated (R401). -/
def State.domNow (s : State) (d t : Nat) : Nat :=
  match SMap.look s.pwr.gateAt d with
  | some g => min g t
  | none => t

/-- One CAN clock, 12.5 ns (R374). -/
abbrev tCan : Nat := 12000

/-- The controller runs. -/
def State.canOn (s : State) (c : Nat) : Bool := s.on (HDR.CTRL_EN (CAN.page c))

/-- A nominal bit, which is also one NTU (R374, R384). -/
def State.canBit (s : State) (c : Nat) : Nat :=
  (s.get (CAN.NBT_NBRP c) + 1) * (3 + s.get (CAN.NBT_NTSEG1 c) + s.get (CAN.NBT_NTSEG2 c)) * tCan

/-- TSC at an instant: by the configuration that was in force then (R381). -/
def State.tsc (s : State) (c t : Nat) : Nat :=
  let x := s.can c
  let (at_, presc) := match x.tscOld.find? (fun o => decide (t < o.1)) with
    | some o => (o.2.1, o.2.2)
    | none => (x.tscAt, s.get (CAN.TSC_CFG_PRESC c))
  ((((s.domNow 11 t : Nat) : Int) - at_) / ((presc + 1) * tCan : Nat) % 4294967296).toNat

/-- The cycle time at an instant (R384). -/
def State.canCyc (s : State) (c t : Nat) : Nat := (t - (s.can c).cycAt) / (max 1 (s.canBit c)) % 65536

/-- TSC_PB at a period boundary (R381). -/
def State.canBoundary (s : State) : State :=
  s.each [0, 1, 2, 3] (fun s c => s.set (CAN.TSC_PB_CNT c) (s.tsc c s.bndAt))

/-! ### Enabling -/

/-- The refusals of an enable (R374). -/
def State.canConds (s : State) (c : Nat) : List (Bool × Nat) :=
  let nq := (s.get (CAN.NBT_NBRP c) + 1) * (3 + s.get (CAN.NBT_NTSEG1 c) + s.get (CAN.NBT_NTSEG2 c))
  let dq := (s.get (CAN.DBT_DBRP c) + 1) * (3 + s.get (CAN.DBT_DTSEG1 c) + s.get (CAN.DBT_DTSEG2 c))
  [(decide (nq < 80) || decide (dq < 10), eRANGE),
   (decide (s.get (CAN.NBT_NTSEG2 c) < s.get (CAN.NBT_NSJW c)) || decide (s.get (CAN.DBT_DTSEG2 c) < s.get (CAN.DBT_DSJW c)), eRANGE),
   (s.on (CAN.MODE_BRSE c) && decide (dq < 80) && !s.on (CAN.DBT_TDCE c), cTDC)]

/-- Enabling a controller (R374, R385). -/
def execCanEnable (k : Fin 4) (s : State) : Host.Outcome State Fault Refusal :=
  let pg := CAN.page k
  if s.canOn k then .next s else
  .next (s.judge pg 0x0C (s.canConds k) (fun s =>
    s.claimAll pg 0x0C [resKey 3 (s.get (CAN.MODE_DMA_CH k))] 10 k (fun s =>
      let s := (s.set (HDR.CTRL_EN pg) 1).modCan k (fun x => { x with cycAt := s.now, refAt := s.now, missed := false })
      let s := (s.set (CAN.TXQ_STAT_GATE k) 1).modCan k (fun x => { x with shuts := [], tscOld := [], sofFrom := 0 })
      s.set (CAN.TT_STAT_ROLE k) (if !s.on (CAN.MODE_TT k) then 0 else if s.on (CAN.MODE_TTM k) then 2 else 1))))

/-! ### The transmit queue (R378–R380) -/

/-- HEAD passes entries that have been removed; FILL counts those queued (R378, R380). -/
def State.canHead (s : State) (c : Nat) : State :=
  let q := (s.can c).txq.dropWhile (fun e => e.gone)
  let s := s.modCan c (fun x => { x with txq := q })
  let s := s.set (CAN.TXQ_STAT_FILL c) (q.filter (fun e => !e.gone)).length
  s.set (CAN.TXQ_STAT_HEAD c) (match q with
    | e :: _ => e.slot
    | [] => s.get (CAN.TXQ_STAT_TAIL c))

/-- Status values of word 3 (R380). -/
abbrev txSENT : Nat := 1
abbrev txABORTED : Nat := 2
abbrev txLOST : Nat := 3
abbrev txERROR : Nat := 4

/-- An entry completes: its SOF time stamp and status are written to its slot, and TXDONE is raised (R380).
[assumption 139 (DEDUCED)] -/
def State.canComplete (s : State) (c slot st : Nat) : State :=
  match (s.can c).txq.find? (fun e => e.slot == slot && !e.gone) with
  | none => s
  | some e =>
    let a := s.get (CAN.TXQ_BASE_ADDR c) * 64 + 80 * slot + 8
    let (_, s) := s.dmaWrite (s.get (CAN.MODE_DMA_CH c)) a (leBytes 4 e.ts ++ leBytes 4 (st + if e.late then 8 else 0))
    let s := s.modCan c (fun x => { x with txq := x.txq.map (fun e => if e.slot == slot then { e with gone := true } else e) })
    let s := s.irq (CAN.page c) 3
    (s.iff e.late (fun s => s.irq (CAN.page c) 4)).canHead c

/-- TXQ_PUSH.GO (R378). [assumptions 138, 139 (DEDUCED)] -/
def execTxqPush (k : Fin 4) (s : State) : Host.Outcome State Fault Refusal :=
  let q := (s.can k).txq
  .next (s.judge (CAN.page k) 0x80 [(decide (32 ≤ q.length), cQFULL)] (fun s =>
    if !s.canOn k then s else
    let slot := s.get (CAN.TXQ_STAT_TAIL k)
    match s.dmaRead (s.get (CAN.MODE_DMA_CH k)) (s.get (CAN.TXQ_BASE_ADDR k) * 64 + 80 * slot) 80 with
    | (none, s) => s
    | (some bs, s) =>
      let s := s.modCan k (fun x => { x with txq := x.txq ++ [⟨slot, false, bs, 0, false⟩] })
      (s.set (CAN.TXQ_STAT_TAIL k) ((slot + 1) % 32)).canHead k))

/-- The entry at HEAD. -/
def State.canAtHead (s : State) (c : Nat) : Option CanTx := (s.can c).txq.head?

/-- The controller takes part in the bus: on, and not in or after bus-off (R383). -/
def State.canBus (s : State) (c : Nat) : Bool := s.canOn c && decide (s.get (CAN.ECR_STATE c) < 2)

/-- The entry at HEAD can have begun at an instant: the controller sends, is integrated, is not in suspend transmission,
and the gate was open (R373, R382, R386). [assumption 135 (PRESUMED)] -/
def State.canMay (s : State) (c sof : Nat) : Bool :=
  let x := s.can c
  s.canBus c && !s.on (CAN.MODE_LOM c) && decide (x.intAt ≤ sof ∧ x.sofFrom ≤ sof)
    && (s.on (CAN.TXQ_STAT_GATE c) || decide (sof < x.gateAt))
    && !x.shuts.any (fun w => decide (w.1 ≤ sof ∧ sof < w.2))

/-- The transmit gate opens or closes (R386). -/
def State.canGate (s : State) (c : Nat) (b : Bool) : State :=
  if s.on (CAN.TXQ_STAT_GATE c) == b then s
  else
    let s := s.modCan c (fun x => if b then { x with shuts := x.shuts ++ [(x.gateAt, s.now)] } else { x with gateAt := s.now })
    s.setB (CAN.TXQ_STAT_GATE c) b

/-- A frame has ended on the bus: what was kept to judge and stamp it by its SOF goes (R381, R386). -/
def State.canEnded (s : State) (c : Nat) : State := s.modCan c (fun x => { x with shuts := [], tscOld := [] })

/-- The SOF time stamp of an entry's last attempt (R380). -/
def State.canTs (s : State) (c slot ts : Nat) : State :=
  s.modCan c (fun x => { x with txq := x.txq.map (fun y => if y.slot == slot then { y with ts := ts } else y) })

/-- TXQ_ABORT (R380). -/
def execTxqAbort (k : Fin 4) (val : Word) (sof : Bool) (s : State) : Host.Outcome State Fault Refusal :=
  .next (s.judge (CAN.page k) 0x84 [] (fun s =>
    s.each (bitsOf 32 val.toNat) (fun s slot =>
      match (s.canAtHead k).map (·.slot) with
      | some h =>
        if h == slot && sof && s.canMay k s.now then
          s.modCan k (fun x => { x with txq := x.txq.map (fun e => if e.slot == slot then { e with late := true } else e) })
        else if h == slot then (s.set (CAN.TXQ_STAT_BUSOFF_HELD k) 0).canComplete k slot txABORTED
        else s.canComplete k slot txABORTED
      | none => s)))

/-- Clearing CTRL.EN: every queued entry completes as ABORTED; the controller leaves the bus. Whether the entry at HEAD was on
the bus, and since when, is the bus's affair: a free value (R380, R387). [assumption 143 (DESIGN CHOICE)] -/
def State.canDisable (s : State) (c : Nat) : State :=
  let s := match s.canAtHead c with
    | some e => if s.canMay c s.now then
        (let (i, s) := s.free
         if e.late || Config.freeBool i then s.canTs c e.slot (Config.freeNat i % 4294967296) else s)
      else s
    | none => s
  let s := s.each (List.range 32) (fun s slot => s.canComplete c slot txABORTED)
  let s := ((s.set (CAN.TXQ_STAT_BUSOFF_HELD c) 0).set (CAN.TXQ_STAT_GATE c) 1).canEnded c
  let s := (s.set (CAN.TT_STAT_ROLE c) 0).set (CAN.TT_STAT_SYNC c) 0
  (s.set (HDR.CTRL_EN (CAN.page c)) 0).releaseAll 10 c

def execCanDisable (k : Fin 4) (s : State) : Host.Outcome State Fault Refusal :=
  if s.canOn k then .next (s.judge (CAN.page k) 0x0C [] (fun s => s.canDisable k)) else .next s

/-! ### Receiving (R375–R377) -/

/-- The data bytes a length code stands for. -/
def dlcLen (fdf : Bool) (d : Nat) : Nat :=
  if d ≤ 8 then d else if !fdf then 8
  else match d with
    | 9 => 12
    | 10 => 16
    | 11 => 20
    | 12 => 24
    | 13 => 32
    | 14 => 48
    | _ => 64

/-- The first enabled filter a frame matches (R375). -/
def State.canFilter (s : State) (c : Nat) (f : CanFrame) : Option Nat :=
  (List.range 32).find? (fun i => s.on (CAN.FLT_ID_EN c i)
    && (f.id ^^^ s.get (CAN.FLT_ID_ID c i)) &&& s.get (CAN.FLT_MSK_MASK c i) == 0
    && (!s.on (CAN.FLT_MSK_XTD_M c i) || (s.get (CAN.FLT_ID_XTD c i) == 1) == f.xtd))

/-- Words 0 to 3 and the data of a received entry (R376). -/
def canEntry (f : CanFrame) (fidx ts w3 : Nat) : List Byte :=
  let n := if f.rtr then 0 else dlcLen f.fdf f.dlc
  leBytes 4 (f.id % 2 ^ 29 + (if f.rtr then 2 ^ 29 else 0) + (if f.xtd then 2 ^ 30 else 0) + (if f.esi && f.fdf then 2 ^ 31 else 0))
  ++ leBytes 4 (f.dlc % 16 + (if f.brs then 16 else 0) + (if f.fdf then 32 else 0) + 64 * fidx)
  ++ leBytes 4 ts ++ leBytes 4 w3 ++ (List.range 64).map (fun i => if i < n then f.data.getD i 0 else 0)

/-- Store a frame in receive queue `q`, or drop it where the queue is full (R376, R377). A release of the same bus cycle that
found the queue empty releases this entry (R395). -/
def State.canStore (s : State) (c q : Nat) (f : CanFrame) (fidx sof : Nat) : State :=
  let fill := s.get (CAN.RXQ_STAT_FILL c q)
  let cyc := s.now / tBus
  if 32 ≤ fill then
    let d : CanDrop := ⟨cyc, q, f, fidx, sof, s.get (CAN.RXQ_STAT_DROP c q), (s.reg (HDR.IRQ_RAW (CAN.page c))).getLsbD 2⟩
    let s := s.modCan c (fun x => { x with dropped := some d })
    (s.bump (CAN.RXQ_STAT_DROP c q)).irq (CAN.page c) 2
  else
    let w3 := if s.on (CAN.MODE_TT c) then s.canCyc c sof + 65536 * s.get (CAN.TT_STAT_CC c) else 0
    let base := s.get (if q = 0 then CAN.RXQ_BASE0_ADDR c else CAN.RXQ_BASE1_ADDR c) * 64
    let slot := (s.get (CAN.RXQ_STAT_HEAD c q) + fill) % 32
    let (ok, s) := s.dmaPut (s.get (CAN.MODE_DMA_CH c)) (base + 80 * slot) 8 (canEntry f fidx (s.tsc c sof) w3)
    s.iff ok (fun s =>
      let s := (s.set (CAN.RXQ_STAT_FILL c q) (fill + 1)).irq (CAN.page c) q
      match (s.can c).acked with
      | some (t, r, err) => if t = cyc ∧ r = q then
          ((s.set (CAN.RXQ_STAT_FILL c q) fill).set (CAN.RXQ_STAT_HEAD c q) ((slot + 1) % 32)).setReg (HDR.ERR_CODE (CAN.page c)) err
            |>.modCan c (fun x => { x with acked := none })
        else s
      | none => s)

/-- A good frame received: the filters decide (R375). The filter index of a frame that MODE.NOMATCH stores is free.
[assumption 137 (DESIGN CHOICE)] -/
def State.canRx (s : State) (c : Nat) (f : CanFrame) (sof : Nat) : State :=
  match s.canFilter c f with
  | some i => if s.on (CAN.FLT_MSK_REJ c i) then s else s.canStore c (s.get (CAN.FLT_MSK_Q c i)) f i sof
  | none =>
    match s.get (CAN.MODE_NOMATCH c) with
    | 0 => s
    | n =>
      let (i, s) := s.free
      s.canStore c (n - 1) f (Config.freeNat i % 32) sof

/-! ### Error confinement (R382, R383) -/

/-- The receive error count: RP stands for a count above 127. [assumption 135 (PRESUMED)] -/
def State.canRec (s : State) (c : Nat) : Nat := if s.on (CAN.ECR_RP c) then 128 else s.get (CAN.ECR_REC c)

/-- New error counts: warnings, error-passive and bus-off follow (R382, R383). [assumption 135 (PRESUMED)] -/
def State.canCounts (s : State) (c tec rc : Nat) : State :=
  let t0 := s.get (CAN.ECR_TEC c)
  let r0 := s.canRec c
  let st := s.get (CAN.ECR_STATE c)
  let pg := CAN.page c
  let s := ((s.set (CAN.ECR_TEC c) (min 255 tec)).set (CAN.ECR_REC c) (min 127 rc)).setB (CAN.ECR_RP c) (decide (127 < rc))
  let s := s.iff ((decide (t0 < 96 ∧ 96 ≤ tec)) || decide (r0 < 96 ∧ 96 ≤ rc)) (fun s => s.irq pg 12)
  if 255 < tec then
    let s := ((s.set (CAN.ECR_STATE c) 2).bump (CAN.CNT_BUSOFF c)).irq pg 6
    match s.canAtHead c with
    | some e => if e.late then s.canComplete c e.slot txABORTED else s.set (CAN.TXQ_STAT_BUSOFF_HELD c) 1
    | none => s
  else if 127 < tec ∨ 127 < rc then
    (s.set (CAN.ECR_STATE c) 1).iff (st != 1) (fun s => s.irq pg 5)
  else s.set (CAN.ECR_STATE c) 0

/-- A transmitter's error: TEC rises by 8, but for the two errors that leave it (R382). [assumption 135 (PRESUMED)] -/
def State.canTxErr (s : State) (c kind : Nat) (exempt : Bool) : State :=
  if exempt && (kind == 1 || kind == 3 && s.get (CAN.ECR_STATE c) == 1) then s
  else s.canCounts c (s.get (CAN.ECR_TEC c) + 8) (s.canRec c)

/-- A bus error, or a protocol exception, after which the controller integrates: it takes part in the bus again after 11
recessive bits (R373, R382). [assumptions 135 (PRESUMED); 142 (DEDUCED)] -/
def State.canErr (s : State) (c kind : Nat) (side : CanSide) (big dat : Bool) : State :=
  if kind = 0 then
    ((s.bump (CAN.CNT_PXE c)).irq (CAN.page c) 8).modCan c (fun x => { x with intAt := s.now + 11 * s.canBit c })
  else
    let s := s.set (if dat then CAN.ECR_DLEC c else CAN.ECR_LEC c) kind
    match side with
    | .receiver => s.canCounts c (s.get (CAN.ECR_TEC c)) (min 128 (s.canRec c + if big then 8 else 1))
    | .reference x => s.canTxErr c kind x
    | .head ago x =>
      match s.canAtHead c with
      | some e => (s.canTs c e.slot (s.tsc c (s.now - ago * tCan))).canTxErr c kind x
      | none => s.canTxErr c kind x

/-- CAN_ERROR; a controller that integrates takes no part (R373, R382). -/
def execCanError (k : Fin 4) (kind : Fin 8) (side : CanSide) (big dat : Bool) (s : State) : Host.Outcome State Fault Refusal :=
  .next (if s.canBus k && decide ((s.can k).intAt ≤ s.now) then s.canErr k kind side big dat else s)

/-- A frame received without error lowers REC (R382); from above 127 it comes to a free value of 119 to 127.
[assumption 136 (DESIGN CHOICE)] -/
def State.canRxGood (s : State) (c : Nat) : State :=
  let r := s.canRec c
  if 127 < r then
    let (i, s) := s.free
    s.canCounts c (s.get (CAN.ECR_TEC c)) (119 + Config.freeNat i % 9)
  else s.canCounts c (s.get (CAN.ECR_TEC c)) (r - 1)

/-- A frame from the bus. An FD frame while MODE.FDOE is 0 is a form error, and one that switches its bit rate while
MODE.BRSE is 0 an error of a free kind in the data phase (R373, R375). [assumption 142 (DEDUCED)] -/
def execCanFrameRx (k : Fin 4) (f : CanFrame) (ago : Nat) (s : State) : Host.Outcome State Fault Refusal :=
  let sof := s.now - ago * tCan
  if !s.canBus k || decide (sof < (s.can k).intAt) then .next s
  else if f.fdf && !s.on (CAN.MODE_FDOE k) then .next (s.canErr k 2 .receiver false false)
  else if f.fdf && f.brs && !s.on (CAN.MODE_BRSE k) then
    let (i, s) := s.free
    .next (s.canErr k (1 + Config.freeNat i % 6) .receiver false true)
  else .next (((s.canRxGood k).canRx k f sof).canEnded k)

/-- RXQ_ACK: each bit releases the entry at HEAD of its queue; a frame that the same bus cycle dropped at a full queue finds
room (R376, R395). -/
def execRxqAck (k : Fin 4) (val : Word) (s : State) : Host.Outcome State Fault Refusal :=
  .next (s.judge (CAN.page k) 0x78 [] (fun s =>
    s.each (bitsOf 2 val.toNat) (fun s q =>
      let n := s.get (CAN.RXQ_STAT_FILL k q)
      if n = 0 then (s.refuse (CAN.page k) 0x78 eSTATE).modCan k (fun x =>
        { x with acked := some (s.now / tBus, q, s.reg (HDR.ERR_CODE (CAN.page k))) })
      else
        let s := (s.set (CAN.RXQ_STAT_FILL k q) (n - 1)).set (CAN.RXQ_STAT_HEAD k q) ((s.get (CAN.RXQ_STAT_HEAD k q) + 1) % 32)
        match (s.can k).dropped with
        | some d => if d.cyc = s.now / tBus ∧ d.q = q then
            let s := (s.set (CAN.RXQ_STAT_DROP k q) d.drop).setB ⟨HDR.IRQ_RAW (CAN.page k), 2, 1⟩ d.irq
            (s.modCan k (fun x => { x with dropped := none })).canStore k q d.f d.fidx d.sof
          else s
        | none => s)))

/-- The frame of an entry's words (R376). -/
def canFrameOf (bs : List Byte) : CanFrame :=
  let w0 := leNat bs 0 4
  let w1 := leNat bs 4 4
  { id := w0 % 2 ^ 29, rtr := w0.testBit 29, xtd := w0.testBit 30, esi := w0.testBit 31, dlc := w1 % 16, brs := w1.testBit 4,
    fdf := w1.testBit 5, data := bs.drop 16 }

/-- An entry's frame as it goes out: a remote frame is classical, an FD frame needs FDOE and a bit-rate switch BRSE; ESI is
recessive while error-passive (R373). [assumption 270 (DESIGN CHOICE)] -/
def State.canTxFrame (s : State) (c : Nat) (f : CanFrame) : CanFrame :=
  let fd := f.fdf && s.on (CAN.MODE_FDOE c)
  { f with fdf := fd, rtr := f.rtr && !fd, brs := f.brs && fd && s.on (CAN.MODE_BRSE c),
           esi := fd && (f.esi || s.get (CAN.ECR_STATE c) == 1) }

/-- The transmitter delay is measured anew in each FD frame sent: in one that arbitration ended it is not, in one that an
error ended it may have been (R374). [assumption 137 (DESIGN CHOICE)] -/
def State.canTdc (s : State) (c : Nat) (f : CanFrame) (res : Nat) : State :=
  if f.fdf && s.on (CAN.DBT_TDCE c) && res != 1 then
    let (i, s) := s.free
    if res = 0 || Config.freeBool i then s.set (CAN.ECR_TDCV c) (Config.freeNat i % 128) else s
  else s

/-- An attempt to send the entry at HEAD ends, if it can have begun when it says (R380, R382, R386, R395). An error-passive
controller that has sent a frame drives no SOF for the intermission and 8 bits more.
[assumptions 137 (DESIGN CHOICE); 264 (DEDUCED)] -/
def execCanTxDone (k : Fin 4) (res : Fin 3) (ago : Nat) (s : State) : Host.Outcome State Fault Refusal :=
  match s.canAtHead k with
  | none => .next s
  | some e =>
    let sof := s.now - ago * tCan
    if !s.canMay k sof then .next s else
    let f := s.canTxFrame k (canFrameOf e.words)
    let s := (s.canTs k e.slot (s.tsc k sof)).canTdc k f res.val
    let s := match res.val with
    | 0 =>
      let s := s.canCounts k (s.get (CAN.ECR_TEC k) - 1) (s.canRec k)
      let s := s.iff (s.get (CAN.ECR_STATE k) == 1) (fun s => s.modCan k (fun x => { x with sofFrom := s.now + 11 * s.canBit k }))
      let s := s.iff (s.on (CAN.MODE_LBK k)) (fun s => s.canRx k f sof)
      s.canComplete k e.slot txSENT
    | 1 => if e.late then s.canComplete k e.slot txABORTED else if s.on (CAN.MODE_DAR k) then s.canComplete k e.slot txLOST else s
    | _ => if e.late then s.canComplete k e.slot txABORTED else if s.on (CAN.MODE_DAR k) then s.canComplete k e.slot txERROR else s
    .next (s.canEnded k)

/-- RESTART.GO starts the recovery, counted from the write (R383). [assumption 141 (DEDUCED)] -/
def execCanRestart (k : Fin 4) (s : State) : Host.Outcome State Fault Refusal :=
  .next (s.judge (CAN.page k) 0x50 [(decide (s.get (CAN.ECR_STATE k) < 2), eSTATE)] (fun s => s.set (CAN.ECR_STATE k) 3))

/-- The 128 occurrences have been seen (R383). -/
def execBusoffRecovered (k : Fin 4) (s : State) : Host.Outcome State Fault Refusal :=
  if s.get (CAN.ECR_STATE k) ≠ 3 ∨ !s.canOn k then .next s
  else
    let s := ((s.set (CAN.ECR_STATE k) 0).set (CAN.ECR_TEC k) 0).set (CAN.ECR_REC k) 0
    .next (((s.set (CAN.ECR_RP k) 0).set (CAN.TXQ_STAT_BUSOFF_HELD k) 0).irq (CAN.page k) 7)

/-! ### Time-triggered operation (R384–R386) -/

/-- A reference message begins a cycle (R384–R386). -/
def State.ttCycle (s : State) (c cc t : Nat) : State :=
  let s := s.modCan c (fun x => { x with cycAt := t, refAt := t, missed := false })
  let s := ((s.set (CAN.TT_STAT_CC c) cc).set (CAN.TT_STAT_SYNC c) 1).set (CAN.TT_STAT_CYC_TIME c) 0
  (s.canGate c true).irq (CAN.page c) 9

/-- A valid reference message received; one with a lower identifier makes a master a backup (R384, R385).
[assumption 140 (DEDUCED)] -/
def execTtReference (k : Fin 4) (f : CanFrame) (ago : Nat) (s : State) : Host.Outcome State Fault Refusal :=
  let ref := s.get (CAN.TT_CFG_REF_ID k)
  let master := s.on (CAN.MODE_TTM k)
  if !s.canBus k || decide (s.now - ago * tCan < (s.can k).intAt) || !s.on (CAN.MODE_TT k) || f.fdf || f.rtr || f.dlc == 0 || f.xtd != s.on (CAN.TT_CFG_REF_XTD k)
      || !(f.id == ref || (master && decide (f.id < ref))) then .next s
  else
    let s := s.ttCycle k ((f.data.getD 0 0).toNat % 64) (s.now - ago * tCan)
    .next (s.iff (master && decide (f.id < ref)) (fun s => s.set (CAN.TT_STAT_ROLE k) 3))

/-- As master, a reference message when the cycle time reaches CYC_LEN; a listen-only controller sends none (R373, R385).
[assumption 140 (DEDUCED)] -/
def execTtMasterRef (k : Fin 4) (s : State) : Host.Outcome State Fault Refusal :=
  if !s.canBus k || s.on (CAN.MODE_LOM k) || s.get (CAN.TT_STAT_ROLE k) != 2 then .next s
  else
    let s := s.advance ((s.can k).cycAt + s.get (CAN.TT_CYC_CYC_LEN k) * s.canBit k)
    .next (s.ttCycle k ((s.get (CAN.TT_STAT_CC k) + 1) % (s.get (CAN.TT_CYC_CC_MAX k) + 1)) s.now)

/-- No valid reference message for 2 × CYC_LEN: a backup resumes as master (R385). -/
def execRefMiss (k : Fin 4) (s : State) : Host.Outcome State Fault Refusal :=
  if !s.canOn k || !s.on (CAN.MODE_TT k) || (s.can k).missed then .next s
  else
    let s := s.advance ((s.can k).refAt + 2 * s.get (CAN.TT_CYC_CYC_LEN k) * s.canBit k)
    let s := ((s.set (CAN.TT_STAT_SYNC k) 0).irq (CAN.page k) 10).modCan k (fun x => { x with missed := true })
    .next (s.iff (s.get (CAN.TT_STAT_ROLE k) == 3) (fun s => s.set (CAN.TT_STAT_ROLE k) 2))

/-- A trigger at its MARK (R386). -/
def execTtTrigger (k : Fin 4) (j : Fin 8) (s : State) : Host.Outcome State Fault Refusal :=
  if !s.canOn k || !s.on (CAN.MODE_TT k)
      || (s.get (CAN.TT_STAT_CC k) ^^^ s.get (CAN.TRG_CC k j)) &&& s.get (CAN.TRG_CC_MSK k j) != 0 then .next s
  else
    let s := s.advance ((s.can k).cycAt + s.get (CAN.TRG_MARK k j) * s.canBit k)
    .next (match s.get (CAN.TRG_ACT k j) with
    | 1 => s.irq (CAN.page k) 11
    | 2 => s.canGate k true
    | 3 => s.canGate k false
    | _ => s)

/-- Writes of the configuration (R374, R381, R396): the refusals of a register, and what its write also does. -/
def State.canCfgConds (s : State) (c ofs : Nat) (val : Word) : List (Bool × Nat) :=
  [(ofs == 0x48 && getBits val 7 2 == 3, eRANGE), (ofs == 0x8C && s.on (CAN.MODE_TT c) && getBits val 0 16 == 0, eRANGE),
   (s.canOn c && [0x40, 0x44, 0x48, 0x60, 0x64, 0x68].contains ofs, eBUSY)]

/-- A write to TSC_CFG restarts TSC from 0; what it was counts for a frame under way (R381). -/
def State.canTscRestart (s : State) (c presc : Nat) : State :=
  s.modCan c (fun x => { x with tscAt := (s.domNow 11 s.now : Nat), tscOld := x.tscOld ++ [(s.now, x.tscAt, presc)] })

end Sys2Proof.Machine
end

