-- ==== Sys2Proof/WellFormed.lean ====
section
/-! DEFINITION. Well-formed commands: the loop-engine instructions a scan accepts as such (R191, R201, R203), and
events and writes whose operands lie in the ranges of the spec. -/

namespace Sys2Proof

/-- A run of `n` places from `a` fits below `m`. -/
def fits (a n m : Nat) : Bool := decide (a + n ≤ m)

/-- A primitive's places: inputs from VA, results from VD, coefficients from C, states from S (R203). -/
def primWf (va ins vd outs cb coefs sb sts : Nat) : Bool :=
  fits va ins 32 && fits vd outs 32 && fits cb coefs 64 && fits sb sts 64

/-- A frame's body fits a Brejalink frame (R151, R152). -/
def Frame.wf (f : Frame) : Bool := decide (f.ftype < 256) && decide (f.len < 256) && decide (f.body.length ≤ 512)

/-- Whether a command is well formed. -/
def Instr.wf : Instr → Bool
  | .regWrite a b _ => decide (a < 2 ^ 32) && (b == 1 || b == 2 || b == 4)
  | .helloRx _ f => f.wf
  | .sackRx _ f => f.wf
  | .cfgackRx _ f => f.wf
  | .statusRx _ f => f.wf
  | .leSha _ _ _ imm => decide (-31 ≤ imm.toInt) && decide (imm.toInt ≤ 31)
  | .leBr _ off => off.val != 0
  | .leBc _ _ _ _ _ off => off.val != 0
  | .leBinit _ off => off.val != 0
  | .leLoop _ n len => n.val != 0 && len.val != 0
  | .lePi _ vd va sb cb ff => primWf va (if ff then 2 else 1) vd 1 cb 4 sb 2
  | .lePid _ vd va sb cb ff => primWf va (if ff then 2 else 1) vd 1 cb 6 sb 4
  | .leBiq _ vd va sb cb => primWf va 1 vd 1 cb 5 sb 2
  | .leLlag _ vd va sb cb => primWf va 1 vd 1 cb 3 sb 1
  | .leLim _ vd va cb _ => primWf va 2 vd 2 cb 1 0 0
  | .leSat _ vd va cb _ => primWf va 1 vd 1 cb 2 0 0
  | .leRamp _ vd va sb cb => primWf va 2 vd 1 cb 3 sb 2
  | .leTlu _ vd va cb => primWf va 1 vd 1 cb 3 0 0
  | .leClarke _ vd va two => primWf va (if two then 2 else 3) vd 2 0 0 0 0
  | .lePark _ vd va => primWf va 4 vd 2 0 0 0 0
  | .leIpark _ vd va => primWf va 4 vd 2 0 0 0 0
  | .leSincos _ vd va => primWf va 1 vd 2 0 0 0 0
  | .leObsv _ vd va sb cb => primWf va 4 vd 2 cb 40 sb 4
  | .leHandover _ vd va sb cb _ _ => primWf va 3 vd 1 cb 4 sb 3
  | _ => true

end Sys2Proof
end

