-- ==== Sys2Proof/Decode.lean ====
section
/-! DEFINITION. The table's rows give no bits, so a table word spells no command. The words of the loop engines'
instructions (R200, R201) are decoded here for the scan of a program (R191), with their encoder. -/

namespace Sys2Proof

/-- The command a word of the opcode table's bits spells: the table gives no row any bits.
[assumption 209 (DESIGN CHOICE)] -/
def decodeTableWord (_nbits _w : Nat) : Option Instr := none

/-- A word of format R (R200). -/
def fmtR (op vd va vb t : Nat) : Word :=
  BitVec.ofNat 32 (op * 67108864 + vd * 2097152 + va * 65536 + vb * 2048 + t * 512)
/-- A word of format I. -/
def fmtI (op vd va imm : Nat) : Word := BitVec.ofNat 32 (op * 67108864 + vd * 2097152 + va * 65536 + imm)
/-- A word of format S. -/
def fmtS (op vd idx : Nat) : Word := BitVec.ofNat 32 (op * 67108864 + vd * 2097152 + idx * 1024)
/-- A word of format P. -/
def fmtP (op vd va sb cb f : Nat) : Word :=
  BitVec.ofNat 32 (op * 67108864 + vd * 2097152 + va * 65536 + sb * 1024 + cb * 16 + f)
/-- A word of format B. -/
def fmtB (op va vb cond t off : Nat) : Word :=
  BitVec.ofNat 32 (op * 67108864 + va * 2097152 + vb * 65536 + cond * 8192 + t * 2048 + off)
/-- A word of format L. -/
def fmtL (op n len : Nat) : Word := BitVec.ofNat 32 (op * 67108864 + n * 65536 + len * 64)

/-- A flag as a bit. -/
def flagN (b : Bool) : Nat := if b then 1 else 0

/-- The word of a loop-engine instruction; none for any other command (R200, R201, R203). -/
def leEncode : Instr → Option Word
  | .leEnd _ => some (fmtR 0x00 0 0 0 0)
  | .leNop _ => some (fmtR 0x01 0 0 0 0)
  | .leLil _ vd imm => some (fmtI 0x02 vd 0 imm.toNat)
  | .leLih _ vd imm => some (fmtI 0x03 vd 0 imm.toNat)
  | .leMov _ vd va => some (fmtR 0x04 vd va 0 0)
  | .leCvt _ vd va t => some (fmtR 0x05 vd va 0 t)
  | .leAdd _ vd va vb t => some (fmtR 0x08 vd va vb t)
  | .leSub _ vd va vb t => some (fmtR 0x09 vd va vb t)
  | .leMul _ vd va vb t => some (fmtR 0x0A vd va vb t)
  | .leMac _ vd va vb t => some (fmtR 0x0B vd va vb t)
  | .leDiv _ vd va vb t => some (fmtR 0x0C vd va vb t)
  | .leSqrt _ vd va t => some (fmtR 0x0D vd va 0 t)
  | .leAbs _ vd va t => some (fmtR 0x0E vd va 0 t)
  | .leNeg _ vd va t => some (fmtR 0x0F vd va 0 t)
  | .leMin _ vd va vb t => some (fmtR 0x10 vd va vb t)
  | .leMax _ vd va vb t => some (fmtR 0x11 vd va vb t)
  | .leAddi _ vd va imm => some (fmtI 0x12 vd va imm.toNat)
  | .leAnd _ vd va vb => some (fmtR 0x13 vd va vb 2)
  | .leOr _ vd va vb => some (fmtR 0x14 vd va vb 2)
  | .leXor _ vd va vb => some (fmtR 0x15 vd va vb 2)
  | .leSha _ vd va imm => some (fmtI 0x16 vd va imm.toNat)
  | .leLds _ vd idx => some (fmtS 0x18 vd idx)
  | .leSts _ vd idx => some (fmtS 0x19 vd idx)
  | .leLdc _ vd idx => some (fmtS 0x1A vd idx)
  | .leLdm _ vd va imm => some (fmtI 0x1B vd va imm.toNat)
  | .leStm _ vd va imm => some (fmtI 0x1C vd va imm.toNat)
  | .leIn _ vd idx _ => some (fmtS 0x1D vd idx)
  | .leOut _ vd idx => some (fmtS 0x1E vd idx)
  | .leGetf _ vd => some (fmtS 0x1F vd 0)
  | .leBr _ off => some (fmtB 0x20 0 0 0 0 off)
  | .leBc _ va vb cond t off => some (fmtB 0x21 va vb cond t off)
  | .leBinit _ off => some (fmtB 0x22 0 0 0 0 off)
  | .leLoop _ n len => some (fmtL 0x23 n len)
  | .lePi _ vd va sb cb ff => some (fmtP 0x28 vd va sb cb (flagN ff))
  | .lePid _ vd va sb cb ff => some (fmtP 0x29 vd va sb cb (flagN ff))
  | .leBiq _ vd va sb cb => some (fmtP 0x2A vd va sb cb 0)
  | .leLlag _ vd va sb cb => some (fmtP 0x2B vd va sb cb 0)
  | .leLim _ vd va cb dpri => some (fmtP 0x2C vd va 0 cb (flagN dpri))
  | .leSat _ vd va cb t => some (fmtP 0x2D vd va 0 cb t)
  | .leRamp _ vd va sb cb => some (fmtP 0x2E vd va sb cb 0)
  | .leTlu _ vd va cb => some (fmtP 0x2F vd va 0 cb 0)
  | .leClarke _ vd va two => some (fmtP 0x30 vd va 0 0 (flagN two))
  | .lePark _ vd va => some (fmtP 0x31 vd va 0 0 0)
  | .leIpark _ vd va => some (fmtP 0x32 vd va 0 0 0)
  | .leSincos _ vd va => some (fmtP 0x33 vd va 0 0 0)
  | .leObsv _ vd va sb cb => some (fmtP 0x34 vd va sb cb 0)
  | .leHandover _ vd va sb cb ang trk => some (fmtP 0x35 vd va sb cb (flagN ang + 2 * flagN trk))
  | _ => none

/-- The fields of R200 of a word: VD at [25:21], VA at [20:16], and so on. -/
def fVD (n : Nat) : Fin 32 := Fin.ofNat 32 (n / 2097152)
def fVA (n : Nat) : Fin 32 := Fin.ofNat 32 (n / 65536)
def fVB (n : Nat) : Fin 32 := Fin.ofNat 32 (n / 2048)
def fT (n : Nat) : Nat := n / 512 % 4
def fT3 (n : Nat) : Fin 3 := Fin.ofNat 3 (fT n)
def fIMM (n : Nat) : BitVec 16 := BitVec.ofNat 16 n
def fIDX (n : Nat) : Fin 64 := Fin.ofNat 64 (n / 1024)
def fC (n : Nat) : Fin 64 := Fin.ofNat 64 (n / 16)
def fF (n : Nat) : Nat := n % 16
def fOFF (n : Nat) : Fin 2048 := Fin.ofNat 2048 n

/-- Keep an instruction where a condition on its word's other fields holds. -/
def keepIf (b : Bool) (i : Instr) : Option Instr := if b then some i else none

/-- The format-R words of an operation in formats 0 to 2: bits 8–0 are 0 and T is not 3. -/
def rOk (n : Nat) : Bool := n % 512 == 0 && fT n != 3
/-- A format-R word without VB. -/
def rOk1 (n : Nat) : Bool := rOk n && (fVB n).val == 0
/-- A format-R word with T = 2. -/
def rOkI (n : Nat) : Bool := n % 512 == 0 && fT n == 2
/-- A format-S word. -/
def sOk (n : Nat) : Bool := (fVA n).val == 0 && n % 1024 == 0
/-- A branch without operands. -/
def bOk (n : Nat) : Bool := n / 2048 % 32768 == 0

/-- The instruction a word spells on engine `e`; none for an undefined word or one with a reserved field not 0
(R191, R200, R201). The wait of an IN is 0 here: it is no part of the word. -/
def leDecode (e : Fin 16) (w : Word) : Option Instr :=
  let n := w.toNat
  let vd := fVD n
  let va := fVA n
  let vb := fVB n
  let t := fT3 n
  match n / 67108864 with
  | 0x00 => keepIf (n == 0) (.leEnd e)
  | 0x01 => keepIf (n % 67108864 == 0) (.leNop e)
  | 0x02 => keepIf (va.val == 0) (.leLil e vd (fIMM n))
  | 0x03 => keepIf (va.val == 0) (.leLih e vd (fIMM n))
  | 0x04 => keepIf (n % 65536 == 0) (.leMov e vd va)
  | 0x05 => keepIf (n % 512 == 0 && vb.val == 0) (.leCvt e vd va (Fin.ofNat 4 (fT n)))
  | 0x08 => keepIf (rOk n) (.leAdd e vd va vb t)
  | 0x09 => keepIf (rOk n) (.leSub e vd va vb t)
  | 0x0A => keepIf (rOk n) (.leMul e vd va vb t)
  | 0x0B => keepIf (rOk n) (.leMac e vd va vb t)
  | 0x0C => keepIf (rOk n) (.leDiv e vd va vb t)
  | 0x0D => keepIf (rOk1 n && fT n != 2) (.leSqrt e vd va (Fin.ofNat 2 (fT n)))
  | 0x0E => keepIf (rOk1 n) (.leAbs e vd va t)
  | 0x0F => keepIf (rOk1 n) (.leNeg e vd va t)
  | 0x10 => keepIf (rOk n) (.leMin e vd va vb t)
  | 0x11 => keepIf (rOk n) (.leMax e vd va vb t)
  | 0x12 => some (.leAddi e vd va (fIMM n))
  | 0x13 => keepIf (rOkI n) (.leAnd e vd va vb)
  | 0x14 => keepIf (rOkI n) (.leOr e vd va vb)
  | 0x15 => keepIf (rOkI n) (.leXor e vd va vb)
  | 0x16 => keepIf (n % 65536 ≤ 31 || 65505 ≤ n % 65536) (.leSha e vd va (fIMM n))
  | 0x18 => keepIf (sOk n) (.leLds e vd (fIDX n))
  | 0x19 => keepIf (sOk n) (.leSts e vd (fIDX n))
  | 0x1A => keepIf (sOk n) (.leLdc e vd (fIDX n))
  | 0x1B => some (.leLdm e vd va (fIMM n))
  | 0x1C => some (.leStm e vd va (fIMM n))
  | 0x1D => keepIf (sOk n && (fIDX n).val < 16) (.leIn e vd (Fin.ofNat 16 (n / 1024)) 0)
  | 0x1E => keepIf (sOk n && (fIDX n).val < 16) (.leOut e vd (Fin.ofNat 16 (n / 1024)))
  | 0x1F => keepIf (n % 2097152 == 0) (.leGetf e vd)
  | 0x20 => keepIf (bOk n && n % 2048 != 0) (.leBr e (fOFF n))
  | 0x21 => keepIf (n / 8192 % 8 < 6 && n / 2048 % 4 != 3 && n % 2048 != 0)
      (.leBc e vd va (Fin.ofNat 6 (n / 8192 % 8)) (Fin.ofNat 3 (n / 2048 % 4)) (fOFF n))
  | 0x22 => keepIf (bOk n && n % 2048 != 0) (.leBinit e (fOFF n))
  | 0x23 => keepIf (n % 64 == 0 && n / 65536 % 1024 != 0 && n / 64 % 1024 != 0)
      (.leLoop e (Fin.ofNat 1024 (n / 65536)) (Fin.ofNat 1024 (n / 64)))
  | 0x28 => keepIf (fF n ≤ 1) (.lePi e vd va (fIDX n) (fC n) (fF n == 1))
  | 0x29 => keepIf (fF n ≤ 1) (.lePid e vd va (fIDX n) (fC n) (fF n == 1))
  | 0x2A => keepIf (fF n == 0) (.leBiq e vd va (fIDX n) (fC n))
  | 0x2B => keepIf (fF n == 0) (.leLlag e vd va (fIDX n) (fC n))
  | 0x2C => keepIf (fF n ≤ 1 && (fIDX n).val == 0) (.leLim e vd va (fC n) (fF n == 1))
  | 0x2D => keepIf (fF n < 3 && (fIDX n).val == 0) (.leSat e vd va (fC n) (Fin.ofNat 3 (fF n)))
  | 0x2E => keepIf (fF n == 0) (.leRamp e vd va (fIDX n) (fC n))
  | 0x2F => keepIf (fF n == 0 && (fIDX n).val == 0) (.leTlu e vd va (fC n))
  | 0x30 => keepIf (n / 16 % 4096 == 0 && fF n ≤ 1) (.leClarke e vd va (fF n == 1))
  | 0x31 => keepIf (n % 65536 == 0) (.lePark e vd va)
  | 0x32 => keepIf (n % 65536 == 0) (.leIpark e vd va)
  | 0x33 => keepIf (n % 65536 == 0) (.leSincos e vd va)
  | 0x34 => keepIf (fF n == 0) (.leObsv e vd va (fIDX n) (fC n))
  | 0x35 => keepIf (fF n ≤ 3) (.leHandover e vd va (fIDX n) (fC n) (fF n % 2 == 1) (2 ≤ fF n))
  | _ => none

end Sys2Proof
end

