-- ==== Sys2Proof/Machine/Flags.lean ====
section
/-! DEFINITION. Arithmetic of the loop engines in the formats of R199 (FP32, Q7.24, INT), and the conditions that set
SATQ or raise ARITH. An operation answers none for ARITH, or its result and whether SATQ is set. -/

namespace Sys2Proof.Machine

/-- The integer square root, bit by bit from bit `b` down. -/
def isqrtFrom (n : Nat) : Nat → Nat → Nat
  | 0, r => if (r + 1) * (r + 1) ≤ n then r + 1 else r
  | b + 1, r =>
    let t := r + 2 ^ (b + 1)
    isqrtFrom n b (if t * t ≤ n then t else r)

/-- The integer square root. -/
def isqrt (n : Nat) : Nat := isqrtFrom n (Nat.log2 n / 2 + 1) 0

/-! ### FP32 -/

/-- A word's FP32 value: a NaN, an infinity, or a signed magnitude, subnormal words being zero (R199). -/
inductive Fl where
  | nan
  | inf (neg : Bool)
  | fin (neg : Bool) (mag : Rat)
  deriving DecidableEq, Repr

/-- The FP32 value of a word. -/
def flOf (w : Word) : Fl :=
  if getBits w 23 8 = 255 then (if getBits w 0 23 = 0 then .inf w.msb else .nan)
  else .fin w.msb (let r := f32Rat w; if r < 0 then -r else r)

/-- A finite FP32 word's value; none for a NaN or an infinity. -/
def flFin (w : Word) : Option (Bool × Rat) :=
  match flOf w with
  | .fin n m => some (n, if n then -m else m)
  | _ => none

/-- The FP32 value of a word as a rational; 0 for a NaN or an infinity. -/
def f32Val (w : Word) : Rat := ((flFin w).map (·.2)).getD 0

/-- The FP32 word of a zero. -/
def fzero (neg : Bool) : Word := if neg then 0x80000000 else 0

/-- Round an exact value to FP32, an exact zero taking the sign given; none where it overflows (R199).
[assumption 54 (DEDUCED)] -/
def frnd (neg : Bool) (x : Rat) : Option Word := if x = 0 then some (fzero neg) else ratF32 x

/-- A FP32 result as it is: ARITH for a NaN or an infinity; a subnormal word is a zero of its sign. -/
def fpass (w : Word) : Option Word := (flFin w).bind (fun a => frnd a.1 a.2)

def fadd (a b : Word) : Option Word :=
  match flFin a, flFin b with
  | some x, some y => frnd (x.1 && y.1) (x.2 + y.2)
  | _, _ => none

def fneg (a : Word) : Word := a ^^^ 0x80000000
def fsub (a b : Word) : Option Word := fadd a (fneg b)

def fmul (a b : Word) : Option Word :=
  match flFin a, flFin b with
  | some x, some y => frnd (x.1 != y.1) (x.2 * y.2)
  | _, _ => none

/-- d + a × b, rounded once (R201, MAC). -/
def ffma (d a b : Word) : Option Word :=
  match flFin d, flFin a, flFin b with
  | some z, some x, some y => frnd (z.1 && (x.1 != y.1)) (z.2 + x.2 * y.2)
  | _, _, _ => none

def fdiv (a b : Word) : Option Word :=
  match flOf a, flOf b with
  | .fin n m, .fin p q => if q = 0 then none else frnd (n != p) ((if n != p then -1 else 1) * (m / q))
  | .fin n _, .inf p => some (fzero (n != p))
  | _, _ => none

/-- The correctly rounded square root; −0 gives −0. -/
def fsqrt (a : Word) : Option Word :=
  match flOf a with
  | .fin n m =>
    if m = 0 then some (fzero n)
    else if n then none
    else
      let e := ilog2 m / 2
      let y := m * pow2 (2 * (40 - e))
      let r := isqrt y.floor.toNat
      frnd false (((r : Rat) + (if ((r * r : Nat) : Rat) = y then 0 else 1 / 2)) * pow2 (e - 40))
  | _ => none

/-- The order of two FP32 values: −1, 0, 1, or none where one is a NaN. -/
def fcmp (a b : Word) : Option Int :=
  match flOf a, flOf b with
  | .nan, _ | _, .nan => none
  | .inf p, .inf q => some (if p = q then 0 else if p then -1 else 1)
  | .inf p, _ => some (if p then -1 else 1)
  | _, .inf q => some (if q then 1 else -1)
  | .fin n m, .fin p q =>
    let x := if n then -m else m
    let y := if p then -q else q
    some (if x < y then -1 else if x = y then 0 else 1)

def flt (a b : Word) : Bool := fcmp a b == some (-1)
def fgt (a b : Word) : Bool := fcmp a b == some 1
def fle (a b : Word) : Bool := flt a b || fcmp a b == some 0

/-- clamp(x, lo, hi): the limit that x lies beyond, or x. -/
def fclamp (x lo hi : Word) : Word := if fgt x hi then hi else if flt x lo then lo else x

def fabs (a : Word) : Word := a &&& 0x7FFFFFFF

/-- Exact FP32 of a small integer. -/
def fint (i : Int) : Word := toF32 (i : Rat)

/-! ### Q7.24 -/

/-- Saturate a Q7.24 result, with SATQ. -/
def qsat (x : Int) : Word × Bool :=
  if 2147483647 < x then (0x7FFFFFFF, true) else if x < -2147483648 then (0x80000000, true)
  else (BitVec.ofInt 32 x, false)

/-- Round an exact value, in units of 2⁻²⁴, to Q7.24. -/
def qrnd (x : Rat) : Word × Bool := qsat (roundEvenI x)

/-! ### The operations of R201, by format T: 0 Q7.24, 1 FP32, 2 INT -/

/-- What an operation gives: none for ARITH, else the result and SATQ. -/
abbrev LeRes := Option (Word × Bool)

/-- A FP32 or INT result sets no SATQ. -/
def plain (w : Option Word) : LeRes := w.map (fun x => (x, false))

def opAdd (t : Nat) (a b : Word) : LeRes :=
  match t with
  | 0 => some (qsat (a.toInt + b.toInt))
  | 1 => plain (fadd a b)
  | _ => some (a + b, false)

def opSub (t : Nat) (a b : Word) : LeRes :=
  match t with
  | 0 => some (qsat (a.toInt - b.toInt))
  | 1 => plain (fsub a b)
  | _ => some (a - b, false)

def opMul (t : Nat) (a b : Word) : LeRes :=
  match t with
  | 0 => some (qrnd ((a.toInt * b.toInt : Int) / 16777216))
  | 1 => plain (fmul a b)
  | _ => some (a * b, false)

/-- VD + VA × VB, formed exactly and rounded once; INT keeps the low 32 bits (R201). [assumption 54 (DEDUCED)] -/
def opMac (t : Nat) (d a b : Word) : LeRes :=
  match t with
  | 0 => some (qrnd ((d.toInt : Rat) + (a.toInt * b.toInt : Int) / 16777216))
  | 1 => plain (ffma d a b)
  | _ => some (d + a * b, false)

def opDiv (t : Nat) (a b : Word) : LeRes :=
  match t with
  | 0 =>
    if b = 0 then some (if a = 0 then 0 else if a.msb then 0x80000000 else 0x7FFFFFFF, true)
    else some (qrnd ((a.toInt : Rat) * 16777216 / (b.toInt : Rat)))
  | 1 => plain (fdiv a b)
  | _ => if b = 0 then none else some (BitVec.ofInt 32 (a.toInt.tdiv b.toInt), false)

def opSqrt (t : Nat) (a : Word) : LeRes :=
  match t with
  | 0 => if a.msb then some (0, true) else some (BitVec.ofNat 32 ((isqrt (4 * a.toNat * 16777216) + 1) / 2), false)
  | _ => plain (fsqrt a)

def opAbs (t : Nat) (a : Word) : LeRes :=
  match t with
  | 0 => some (qsat (a.toInt.natAbs : Int))
  | 1 => plain (fpass (fabs a))
  | _ => some (BitVec.ofInt 32 (a.toInt.natAbs : Int), false)

def opNeg (t : Nat) (a : Word) : LeRes :=
  match t with
  | 0 => some (qsat (-a.toInt))
  | 1 => plain (fpass (fneg a))
  | _ => some (-a, false)

/-- The order of two words in a format, none where they are unordered. -/
def opCmp (t : Nat) (a b : Word) : Option Int :=
  match t with
  | 1 => fcmp a b
  | _ => some (if a.toInt < b.toInt then -1 else if a.toInt = b.toInt then 0 else 1)

/-- The smaller of two values in a format (R201). [assumption 55 (DEDUCED)] -/
def opMin (t : Nat) (a b : Word) : LeRes :=
  match t, opCmp t a b with
  | 1, none => none
  | 1, some c => plain (fpass (if c = 1 then b else a))
  | _, c => some (if c = some 1 then b else a, false)

/-- The larger of two values in a format (R201). [assumption 55 (DEDUCED)] -/
def opMax (t : Nat) (a b : Word) : LeRes :=
  match t, opCmp t a b with
  | 1, none => none
  | 1, some c => plain (fpass (if c = -1 then b else a))
  | _, c => some (if c = some (-1) then b else a, false)

/-- COND of R201: 0 EQ, 1 NE, 2 LT, 3 GE, 4 LE, 5 GT; unordered values are unequal and in no other relation.
[assumption 55 (DEDUCED)] -/
def opCond (cond t : Nat) (a b : Word) : Bool :=
  match cond, opCmp t a b with
  | 0, c => c == some 0
  | 1, c => c != some 0
  | 2, c => c == some (-1)
  | 3, c => c == some 0 || c == some 1
  | 4, c => c == some 0 || c == some (-1)
  | _, c => c == some 1

/-- CVT (R201): T = 0 FP32 → Q7.24, 1 Q7.24 → FP32, 2 INT → FP32, 3 FP32 → INT. -/
def opCvt (t : Nat) (a : Word) : LeRes :=
  match t with
  | 1 => plain (ratF32 (qRat a))
  | 2 => plain (ratF32 (a.toInt : Rat))
  | t =>
    match flOf a with
    | .nan => none
    | .inf n => some (if n then 0x80000000 else 0x7FFFFFFF, true)
    | .fin n m => some (qrnd ((if n then -m else m) * (if t = 0 then 16777216 else 1)))

/-- SHA (R201): left for a positive count, arithmetically right for a negative one. -/
def opSha (a : Word) (k : Int) : Word := if 0 ≤ k then a <<< k.toNat else a.sshiftRight (-k).toNat

/-! ### Sine and cosine -/

/-- 2π, to 20 decimals. [assumption 70 (DEDUCED)] -/
def twoPi : Rat := 628318530717958647693 / 100000000000000000000

/-- Partial sums of the series of sine or cosine: the term `t`, times −x²/(k(k+1)) each time. -/
def trigSum (x2 : Rat) : Nat → Nat → Rat → Rat
  | 0, _, t => t
  | n + 1, k, t => t + trigSum x2 n (k + 2) (-t * x2 / ((k * (k + 1) : Nat) : Rat))

/-- sin and cos of an angle in turns, within 10⁻¹² : reduced to an octant about a quarter turn. -/
def sinCosTurn (t : Rat) : Rat × Rat :=
  let q := (4 * t + 1 / 2).floor
  let x : Rat := ((twoPi * (t - (q : Rat) / 4) * 18446744073709551616).floor : Rat) / 18446744073709551616
  let s := trigSum (x * x) 8 2 x
  let c := trigSum (x * x) 8 1 1
  match (q % 4).toNat with
  | 0 => (s, c)
  | 1 => (c, -s)
  | 2 => (-s, -c)
  | _ => (-c, s)

/-- The angle of an INT word in turns (R199). -/
def turnOf (w : Word) : Rat := (w.toInt : Rat) / 4294967296

/-- A FP32 word within 6 × 10⁻⁸ of a value: the free word where it is one, else the nearest (R206).
[assumption 56 (DEDUCED)] -/
def within6e8 (free : Word) (x : Rat) : Word :=
  match flFin free with
  | some y => if x - 6 / 100000000 ≤ y.2 ∧ y.2 ≤ x + 6 / 100000000 then free else toF32 x
  | none => toF32 x

end Sys2Proof.Machine
end

