-- ==== Sys2Proof/Machine/LoopEngines.lean ====
section
/-! DEFINITION. The loop engines: local memory, bindings, the scan of a program, executions and their instructions,
aborts, the coefficient queue, moves and self-tests (R185–R219). Context `c` is 16 × engine + context. -/

namespace Sys2Proof.Machine

/-! ### Names -/

abbrev lQFULL : Nat := 0x40
abbrev lCTX_BUSY : Nat := 0x41
abbrev lLIVE : Nat := 0x42
abbrev lPROG : Nat := 0x43
abbrev lBUDGET : Nat := 0x44
abbrev lBINDING : Nat := 0x45
abbrev lNOT_SPARE : Nat := 0x46
abbrev lSTATE : Nat := 0x47
abbrev lPROG_DIFF : Nat := 0x48

abbrev caCYC : Nat := 1
abbrev caARITH : Nat := 2
abbrev caMEM : Nat := 3
abbrev caWINDOW : Nat := 4

/-! ### Local memory and records (R186) -/

/-- A context is enabled. -/
def State.ctxEn (s : State) (c : Nat) : Bool := (s.get (LEX.CTX_EN_EN (c / 16))).testBit (c % 16)

/-- The contexts of an engine, and the enabled ones. -/
def ctxsOf (e : Nat) : List Nat := (List.range 16).map (fun k => 16 * e + k)
def State.enabledOf (s : State) (e : Nat) : List Nat := (ctxsOf e).filter s.ctxEn

def State.ctxPC (s : State) (c : Nat) : Nat := s.get (LEX.CTX_PROG_PC (c / 16) (c % 16))
def State.ctxPLEN (s : State) (c : Nat) : Nat := s.get (LEX.CTX_PROG_PLEN (c / 16) (c % 16))
def State.ctxTBASE (s : State) (c : Nat) : Nat := s.get (LEX.CTX_TBL_TBASE (c / 16) (c % 16))
def State.ctxTLEN (s : State) (c : Nat) : Nat := s.get (LEX.CTX_TBL_TLEN (c / 16) (c % 16))
def State.ctxWCET (s : State) (c : Nat) : Nat := s.get (LEX.CTX_WCET_WCET (c / 16) (c % 16))

/-! ### Budget and status (R192, R218) -/

/-- Σ (WCET + 16) of contexts. -/
def State.cycSum (s : State) (cs : List Nat) : Nat := (cs.map (fun c => s.ctxWCET c + 16)).foldl (· + ·) 0

/-- The window budget (R192). -/
def State.leWin (s : State) : Nat := (s.get TBS.PER_WIN0_W_LE - s.get TBS.PER_WIN0_W_UPL) * 6

/-- ENG_STAT, CYC_SUM, CYC_WIN and CQ_STAT follow the engine. -/
def State.leRefresh (s : State) (e : Nat) : State :=
  let cs := s.enabledOf e
  let q := (s.eng e).queue
  let s := (s.set (LEX.ENG_STAT_N_EN e) cs.length).setB (LEX.ENG_STAT_SPARE e) cs.isEmpty
  let s := (s.set (LEX.CYC_SUM_SUM e) (s.cycSum cs)).set (LEX.CYC_WIN_WIN e) s.leWin
  let s := s.setB (LEX.ENG_STAT_BUDGET e) (decide (s.leWin < s.cycSum cs))
  (s.set (LEX.CQ_STAT_FILL e) q.length).set (LEX.CQ_STAT_PEND e) (maskOf (q.map (·.1)))

/-- A change of T_c: engines whose sum exceeds the new budget raise BUDGET (R192). -/
def State.leBudget (s : State) : State :=
  s.each (List.range 16) (fun s e =>
    let s := s.leRefresh e
    s.iff (s.on (LEX.ENG_STAT_BUDGET e)) (fun s => s.irq (LEX.page e) 7))

/-! ### Blocks of a context's outputs (R24, R134, R212, R216) -/

/-- The resource an output destination is (R197, R490), with the cells and legs it feeds among the classes a block
reaches. -/
def State.destOf (s : State) (b : LeBind) : Option (Nat × Nat × Nat) :=
  match b.cls with
  | 1 => some (resKey 5 b.sel, maskOf (s.members b.sel), 0)
  | 2 => some (resKey 6 b.sel, 1 <<< b.sel, 0)
  | 3 => some (resKey 7 b.sel, 1 <<< b.sel, 0)
  | 4 => some (resKey 1 (2 * b.sel), 1 <<< b.sel, 0)
  | 5 => some (resKey 2 b.sel, 0, 1 <<< b.sel)
  | 6 => some (resKey 9 b.sel, 0, 0)
  | 7 => some (resKey 8 (b.sel % 256), 0, 0)
  | _ => none

/-- The output bindings of a context, with their indices. -/
def State.outs (s : State) (c : Nat) : List (Nat × LeBind) := (List.range 16).map (fun i => (i, s.outBind c i))

/-- Context `c` holds a destination, as its holder or co-user. -/
def State.holdsDest (s : State) (c r : Nat) : Bool :=
  let h := s.claim r
  (h.cls == 4 && h.inst == c) || (h.subCls == 4 && h.subInst == c)

/-- Replace the blocks; CTXk_STAT.BLOCKING follows. -/
def State.setBlks (s : State) (l : List LeBlk) : State :=
  let cs := (s.le.blks ++ l).map (·.ctx)
  let s := { s with le := { s.le with blks := l } }
  s.each cs (fun s c => s.setB (LEX.CTX_STAT_BLOCKING (c / 16) (c % 16)) (l.any (fun b => b.ctx == c)))

/-- The outputs of a context are blocked, while the power stage is ARMED (R28, R212); `own` says that the context may
still lift the block by a commit. [assumption 65 (DEDUCED)] -/
def State.leBlock (s : State) (c : Nat) (own : Bool) : State :=
  if s.armed then
    let new := (s.outs c).filterMap (fun p =>
      if 1 ≤ p.2.cls ∧ p.2.cls ≤ 5 then (s.destOf p.2).map (fun d => (⟨c, own, d.1, d.2.1, d.2.2⟩ : LeBlk)) else none)
    s.setBlks ((s.le.blks.filter (fun b => !(b.ctx == c && b.own))) ++ new)
  else s

/-- A context commits: its own blocks lift, and those no context can lift any more whose destination it holds.
[assumption 65 (DEDUCED)] -/
def State.leUnblock (s : State) (c : Nat) : State :=
  s.setBlks (s.le.blks.filter (fun b => !(if b.own then b.ctx == c else s.holdsDest c b.dest)))

/-- The blocks of a context that will not commit again pass to the next holder of each destination (R212). -/
def State.leOrphan (s : State) (c : Nat) : State :=
  s.setBlks (s.le.blks.map (fun b => if b.ctx == c then { b with own := false } else b))

/-! ### Moves in progress -/

/-- A move of engine `e` ends: `st` 3 DONE, 4 FAIL, with its code; MOVING clears on both engines. -/
def State.moveEnd (s : State) (e st code : Nat) : State :=
  match (s.eng e).move with
  | none => s
  | some m =>
    let s := s.setEng e { s.eng e with move := none }
    let s := (s.set (LEX.MOVE_STAT_STATE e) st).set (LEX.MOVE_STAT_CODE e) code
    let s := (s.set (LEX.ENG_STAT_MOVING e) 0).set (LEX.ENG_STAT_MOVING m.eng) 0
    s.irq (LEX.page e) (if st == 3 then 3 else 4)

/-- Cancel the moves not yet copied that involve an engine (R214). -/
def State.moveCancel (s : State) (e : Nat) : State :=
  s.each ((List.range 16).filter (fun f => match (s.eng f).move with
    | some m => decide (m.phase < 2) && (f == e || m.eng == e)
    | none => false)) (fun s f => s.moveEnd f 4 lSTATE)

/-- The context a CTX input binding names: its number in the module. -/
def LeBind.names (b : LeBind) : Option Nat :=
  if b.cls = 5 then some (16 * (b.sel / 256) + b.sel % 16) else none

/-- Every CTX input binding of the module that names context `p` names `q` (R214). -/
def State.redirect (s : State) (p q : Nat) : State :=
  s.each (List.range 256) (fun s c => s.each (List.range 16) (fun s i =>
    let a := leRec c + 0x200 + 8 * i
    let b := s.inBind c i
    if b.names == some p then
      s.unitWrite a (leBytes 4 (putBits (s.mword a) 16 12 (b.sel / 16 % 16 * 16 + q % 16 + 256 * (q / 16))).toNat)
    else s))

/-- The claims of context `p` and its blocks that it may still lift pass to `q` (R213, R214). -/
def State.moveHeld (s : State) (p q : Nat) : State :=
  let s := s.each (s.claims.map (·.1)) (fun s r =>
    let h := s.claim r
    let h := if h.cls == 4 && h.inst == p then { h with inst := q } else h
    s.setClaim r (if h.subCls == 4 && h.subInst == p then { h with subInst := q } else h))
  s.setBlks (s.le.blks.map (fun b => if b.ctx == p && b.own then { b with ctx := q } else b))

/-- Cancel the move that moves context `c` (R217, R473); one already copied leaves its contexts what the copy had taken from
them, the bindings from the next boundary on, before which no context reads them (R214). [assumption 61 (DEDUCED)] -/
def State.moveCancelCtx (s : State) (c : Nat) : State :=
  match (s.eng (c / 16)).move with
  | some m =>
    if m.ctxs.any (fun p => p.1 == c) then
      (s.iff (m.phase == 2) (fun s =>
        let e := c / 16
        (s.setEng e { s.eng e with back := m.ctxs.map (fun p => (p.2, p.1)) }).each m.ctxs (fun s p => s.moveHeld p.2 p.1))).moveEnd
          (c / 16) 4 lSTATE
    else s
  | none => s

/-! ### Enabling and disabling (R191–R194, R197) -/

/-- A CTX_EN bit is cleared: queued entries are dropped, claims released, and blocks of its outputs wait for another
holder (R194, R197, R212). [assumption 66 (DEDUCED)] -/
def State.ctxClear (s : State) (c : Nat) : State :=
  let e := c / 16
  let s := s.set (LEX.CTX_EN_EN e) (s.get (LEX.CTX_EN_EN e) &&& (0xFFFF ^^^ 1 <<< (c % 16)))
  let s := s.modLectx c (fun x => { x with scan := none })
  let g := s.eng e
  let s := s.iff (g.queue.any (fun q => q.1 == c % 16)) (fun s => s.irq (LEX.page e) 2)
  let s := s.setEng e { g with queue := g.queue.filter (fun q => q.1 != c % 16) }
  ((s.leOrphan c).releaseAll 4 c).leRefresh e

/-- An output binding of the context names a destination of class GRN_VS, GRN_BI, PCMD, AFE or LPW (R194). -/
def State.ctxDrives (s : State) (c : Nat) : Bool := (s.outs c).any (fun p => decide (1 ≤ p.2.cls) && decide (p.2.cls ≤ 5))

/-- The time of a number of engine cycles. [assumption 64 (DEDUCED)] -/
def leTime (n : Nat) : Nat := n * tLe

/-- One bit of a write to CTX_EN (R193, R194). -/
def State.ctxEnBit (s : State) (c : Nat) (on : Bool) : State :=
  let e := c / 16
  if on then
    if s.on (LEX.ENG_STAT_TESTING e) then s.refuse (LEX.page e) 0x44 lSTATE
    else if (s.lectx c).scan.isSome then s
    else s.modLectx c (fun x => { x with scan := some (s.now + leTime (s.ctxPLEN c)), enAt := s.pidx })
  else if s.ctxEn c then
    if s.armed && s.ctxDrives c then s.refuse (LEX.page e) 0x44 lLIVE
    else (s.moveCancelCtx c).ctxClear c
  else s.modLectx c (fun x => { x with scan := none })

/-- A host write to CTX_EN, bit by bit in ascending order (R519): every bit that differs, and a 0 that cancels a scan. -/
def State.ctxEnWrite (s : State) (e mask : Nat) : State :=
  s.judge (LEX.page e) 0x44 [] (fun s =>
    s.each ((ctxsOf e).filter (fun c => s.ctxEn c != mask.testBit (c % 16) || (s.lectx c).scan.isSome))
      (fun s c => s.ctxEnBit c (mask.testBit (c % 16))))

/-- A selector of an input binding is one its class lists (R196, R251). -/
def inSelOk (b : LeBind) : Bool :=
  let n := b.sel % 64
  let it := b.sel / 64
  match b.cls with
  | 0 => b.sel == 0
  | 1 => decide (b.sel < 128)
  | 2 => decide (n < 48) && decide (it < 8)
  | 3 => (decide (it < 5) && decide (n < 8)) || ((it == 8 || it == 9) && decide (n < 48))
  | 4 => decide (n < 48) && decide (it < 2)
  | 5 => true
  | 6 => decide (b.sel < 64)
  | 7 => decide (b.sel < 2)
  | 8 =>
    let u := b.sel % 4
    let i := b.sel / 4
    if i ∈ [7, 8, 20] then u == 0 else if i ∈ [16, 17] then true else decide (i < 14) && decide (u < 2)
  | _ => false

/-- A selector of an output binding is one its class lists (R197, R252). -/
def outSelOk (b : LeBind) : Bool :=
  match b.cls with
  | 0 => b.sel == 0
  | 1 => decide (b.sel < 8)
  | 2 | 3 | 4 => decide (b.sel < 48)
  | 5 => decide (b.sel < 12)
  | 6 => decide (b.sel < 64)
  | 7 => let i := b.sel / 4; if i = 3 then b.sel % 4 == 0 else decide (i < 3) && decide (b.sel % 4 < 2)
  | _ => false

/-- Cycles the scan counts for an instruction (R198, R201, R203). -/
def leCost (adc : Nat → Bool) : Instr → Nat
  | .leEnd _ => 4
  | .leCvt .. => 2
  | .leAdd _ _ _ _ t | .leSub _ _ _ _ t => if t.val = 1 then 2 else 1
  | .leMul _ _ _ _ t | .leMac _ _ _ _ t => if t.val = 1 then 3 else 2
  | .leDiv .. | .leSqrt .. => 12
  | .leLdm .. | .leStm .. => 3
  | .leIn _ _ i _ => if adc i.val then 90 else 2
  | .leBr .. | .leBc .. | .leBinit .. | .leLoop .. => 2
  | .lePi .. => 8
  | .lePid .. => 14
  | .leBiq .. => 10
  | .leLlag .. => 6
  | .leLim .. => 10
  | .leSat .. => 2
  | .leRamp .. => 12
  | .leTlu .. => 10
  | .leClarke .. | .lePark .. | .leIpark .. => 4
  | .leSincos .. => 8
  | .leObsv .. => 48
  | .leHandover .. => 10
  | _ => 1

/-- The forward distance of a branch, if an instruction is one. -/
def branchOff : Instr → Option Nat
  | .leBr _ o | .leBinit _ o => some o.val
  | .leBc _ _ _ _ _ o => some o.val
  | _ => none

/-- Whether an instruction always leaves its straight line. -/
def alwaysJumps : Instr → Bool
  | .leBr .. => true
  | _ => false

/-- The longest cost from each word of a run of code to its end, the cost of a LOOP body given (R191). -/
def pathCosts (adc : Nat → Bool) (body : List Instr → Nat) : List Instr → List Nat
  | [] => []
  | i :: rest =>
    let cs := pathCosts adc body rest
    let c := leCost adc i
    let go := cs.headD 0
    let here := match i with
      | .leEnd _ => c
      | .leLoop _ n len => c + n.val * body (rest.take len.val) + cs.getD len.val 0
      | i => match branchOff i with
        | some o => c + (if alwaysJumps i then cs.getD (o - 1) 0 else max go (cs.getD (o - 1) 0))
        | none => c + go
    here :: cs

/-- The worst-case cycle count of a program, LOOP nested at most twice (R191). -/
def wcetOf (adc : Nat → Bool) (p : List Instr) : Nat :=
  let d0 := fun b => (pathCosts adc (fun _ => 0) b).headD 0
  let d1 := fun b => (pathCosts adc d0 b).headD 0
  (pathCosts adc d1 p).headD 0

/-- The LOOP bodies of a program: first word and word after the last. -/
def loopBodies (p : List Instr) : List (Nat × Nat) :=
  p.zipIdx.filterMap (fun x => match x.1 with
    | .leLoop _ _ len => some (x.2 + 1, x.2 + 1 + len.val)
    | _ => none)

def inBody (b : Nat × Nat) (i : Nat) : Bool := decide (b.1 ≤ i) && decide (i < b.2)

/-- The checks of R191 on the shape of a decoded program. [assumption 59 (DEDUCED)] -/
def progOk (p : List Instr) (inCls outCls : Nat → Nat) : Bool :=
  let len := p.length
  let bodies := loopBodies p
  p.all Instr.wf
  && (match p.getLast? with | some (.leEnd _) => true | _ => false)
  && bodies.all (fun b => decide (b.2 ≤ len))
  && p.zipIdx.all (fun x => match branchOff x.1 with
      | some o => decide (x.2 + o < len) && bodies.all (fun b => inBody b x.2 == inBody b (x.2 + o))
      | none => true)
  && bodies.all (fun a => bodies.all (fun b =>
      decide (a.2 ≤ b.1) || decide (b.2 ≤ a.1) || (decide (a.1 ≤ b.1) && decide (b.2 ≤ a.2))
        || (decide (b.1 ≤ a.1) && decide (a.2 ≤ b.2))))
  && (List.range len).all (fun i => decide ((bodies.filter (fun b => inBody b i)).length ≤ 2))
  && p.all (fun i => match i with
      | .leIn _ _ k _ => inCls k.val != 0
      | .leOut _ _ k => outCls k.val != 0
      | _ => true)

/-- The words of a region of an engine's local memory. -/
def State.leWords (s : State) (e base len : Nat) : List Word :=
  (List.range len).map (fun i => s.mword (leAddr e (4 * (base + i))))

/-- The decoded program of a context, none where a word is undefined. -/
def State.ctxProgram (s : State) (c : Nat) : Option (List Instr) :=
  (s.leWords (c / 16) (s.ctxPC c) (s.ctxPLEN c)).mapM (leDecode (Fin.ofNat 16 (c / 16)))

/-- The bytes of words, as they stand in memory. -/
def wordBytes (l : List Word) : List Byte := l.flatMap (fun w => leBytes 4 w.toNat)

/-- CRC-32C of the program and table regions of a context's registers, in the memory of engine `e` (R191, R213). -/
def State.ctxCrc (s : State) (c e : Nat) : Nat :=
  crc32c (wordBytes (s.leWords e (s.ctxPC c) (s.ctxPLEN c) ++ s.leWords e (s.ctxTBASE c) (s.ctxTLEN c)))

/-- The destinations an enable claims. -/
def State.ctxDests (s : State) (c : Nat) : List LeBind := ((s.outs c).map (·.2)).filter (fun b => b.cls != 0)

/-- The VQ that the owner of the VD a binding names must own too (R252). -/
def vdqPair (b : LeBind) : Option Nat := if b.cls = 7 ∧ b.sel / 4 = 0 then some (resKey 8 (b.sel ^^^ 4)) else none

/-- Whether context `c` can claim a destination (R197, R252, R316, R490, R520). -/
def State.destFree (s : State) (c : Nat) (b : LeBind) : Bool :=
  match s.destOf b with
  | none => true
  | some (r, _, _) =>
    let h := s.claim r
    match b.cls with
    | 4 => s.claimable r 4 c || (h.subCls == 4 && h.subInst == c)
        || (h.cls == 2 && h.subCls == 0 && s.get (GRN.STK_CFG_MODE h.inst) == 2)
    | 5 => !s.isl || h.cls == 1 && (h.subCls == 0 || (h.subCls == 4 && h.subInst == c))
    | 6 => s.claimable r 4 c && decide (b.sel ≤ 60) && s.on (TRL.FCFG_EN b.sel) && s.on (TRL.FCFG_DIR b.sel)
    | _ => s.claimable r 4 c && (match vdqPair b with
        | some q => (s.holdsDest c q || (s.ctxDests c).any (fun d => (s.destOf d).map (·.1) == some q))
        | none => true)

/-- Context `c` takes a destination: as holder, or as co-user of a stack or a leg channel (R490). -/
def State.takeDest (s : State) (c : Nat) (b : LeBind) : State :=
  match s.destOf b with
  | none => s
  | some (r, _, _) =>
    let h := s.claim r
    if b.cls == 5 && !s.isl then s
    else if (b.cls == 4 && h.cls == 2) || b.cls == 5 then s.setClaim r { h with subCls := 4, subInst := c }
    else s.takeClaim r 4 c

/-- The scan of context `c` ends: the checks of R191, R192 and R197 in that order, then the enable.
[assumption 59 (DEDUCED)] -/
def State.scanEnd (s : State) (c : Nat) : State :=
  let e := c / 16
  let k := c % 16
  let pg := LEX.page e
  let s := s.modLectx c (fun x => { x with scan := none })
  let inside := decide (1 ≤ s.ctxPLEN c) && decide (s.ctxPC c + s.ctxPLEN c ≤ 0x7000)
    && decide (s.ctxTBASE c + s.ctxTLEN c ≤ 0x7000)
  let binds := (List.range 16).all (fun i => inSelOk (s.inBind c i) && outSelOk (s.outBind c i))
  let prog := if inside && binds then (s.ctxProgram c).bind (fun p =>
      if progOk p (fun i => (s.inBind c i).cls) (fun i => (s.outBind c i).cls) then some p else none) else none
  match prog with
  | none => s.refuse pg 0x44 lPROG
  | some p =>
    let w := wcetOf (fun i => (s.inBind c i).cls == 1) p
    let s := (s.set (LEX.CTX_WCET_WCET e k) w).set (LEX.CTX_CRC_CRC e k) (s.ctxCrc c e)
    if s.leWin < s.cycSum (s.enabledOf e) + w + 16 then s.refuse pg 0x44 lBUDGET
    else match (s.ctxDests c).find? (fun b => !s.destFree c b) with
      | some b => s.deny pg 0x44 (((s.destOf b).map (·.1)).getD 0) 4 c
      | none =>
        let s := s.each (s.ctxDests c) (fun s b => s.takeDest c b)
        let s := s.set (LEX.CTX_EN_EN e) (s.get (LEX.CTX_EN_EN e) ||| 1 <<< k)
        (s.set (LEX.CTX_STAT_INIT e k) 1).leRefresh e

/-! ### Executions (R188, R189) -/

def State.setRun (s : State) (e : Nat) (r : Option LeRun) : State := s.setEng e { s.eng e with run := r }

/-- A working register. -/
def LeRun.get (r : LeRun) (i : Nat) : Word := r.v.getD i 0
def LeRun.put (r : LeRun) (i : Nat) (w : Word) : LeRun := { r with v := r.v.set i w }
/-- Results from VD onward. -/
def LeRun.puts (r : LeRun) (i : Nat) (ws : List Word) : LeRun :=
  (ws.zipIdx).foldl (fun r p => r.put (i + p.2) p.1) r
/-- The copy of a state word. -/
def LeRun.gets (r : LeRun) (i : Nat) : Word := r.st.getD i 0
def LeRun.setS (r : LeRun) (i : Nat) (w : Word) : LeRun := { r with st := r.st.set i w }
def LeRun.setSs (r : LeRun) (i : Nat) (ws : List Word) : LeRun :=
  (ws.zipIdx).foldl (fun r p => r.setS (i + p.2) p.1) r

/-- The word after the present one, LOOP bodies run again while runs are left (R201). -/
def loopNext (next : Nat) : List (Nat × Nat × Nat) → Nat × List (Nat × Nat × Nat)
  | [] => (next, [])
  | (st, en, left) :: t =>
    if next = en then (if 1 < left then (st, (st, en, left - 1) :: t) else loopNext next t)
    else (next, (st, en, left) :: t)

/-- A new execution of context `c` (R185, R188, R189). -/
def State.newRun (s : State) (c : Nat) : LeRun :=
  { ctx := c % 16, pc := s.ctxPC c, v := List.replicate 32 0, st := (List.range 64).map (fun i => s.mword (leS c i)) }

/-- An execution ends: its cycles and its STALE_IN are recorded, and the engine is free for the next context. -/
def State.runEnd (s : State) (e : Nat) (r : LeRun) : State :=
  let g := s.eng e
  let s := s.setEng e { g with run := none, used := g.used + 16 + r.cyc }
  (s.set (LEX.CTX_STAT_CYC_LAST e r.ctx) r.cyc).setB (LEX.CTX_STAT_STALE_IN e r.ctx) r.stale

/-! ### Aborts (R211, R212) -/

/-- The reaction CTX_ACT gives an abort in this period: 0 HOLD, 1 BLOCK, 2 STOP, HOLD escalating to BLOCK (R212). -/
def State.ctxReaction (s : State) (c : Nat) : Nat × State :=
  let e := c / 16
  let act := s.get (LEX.CTX_ACT_ACT e (c % 16))
  let x := s.lectx c
  let run := if x.abAt = s.pidx then x.abRun else 0
  let lim := s.get TBS.OVR_ACT_HOLD_LIM
  if act = 0 then
    let s := s.setLectx c { x with abRun := run + 1, abAt := s.pidx + 1 }
    if lim ≤ run then (1, if run = lim then s.irq (LEX.page e) 1 else s) else (0, s)
  else (act, s.setLectx c { x with abRun := 0, abAt := s.pidx + 1 })

/-- An abort of context `c` with its cause: the record, and the more severe of its reaction and `win`, the reaction of
R24 where the cause is WINDOW: 0 LOG, 1 HOLD, 2 BLOCK, 3 TRIP (R211, R212). -/
def State.ctxAbort (s : State) (c cause win : Nat) : State :=
  let e := c / 16
  let k := c % 16
  let s := (s.set (LEX.CTX_STAT_CAUSE e k) cause).set (LEX.CTX_STAT_ABORTED e k) 1
  let s := s.set (LEX.ABORT_MAP_CTX e) (s.get (LEX.ABORT_MAP_CTX e) ||| 1 <<< k)
  let s := (s.bump (LEX.CTX_ABCNT_CNT e k)).irq (LEX.page e) 0
  let (act, s) := s.ctxReaction c
  let s := s.iff (win != 3 && (act != 0 || win == 2)) (fun s => s.leBlock c (act != 2))
  if act = 2 then (s.moveCancelCtx c).ctxClear c else s

/-- The running execution of engine `e` is aborted. -/
def State.leAbort (s : State) (e : Nat) (r : LeRun) (cause : Nat) : State :=
  (s.runEnd e r).ctxAbort (16 * e + r.ctx) cause 0

/-- The instruction an engine's execution is at, from its local memory (R186, R201). -/
def State.leFetch (s : State) (e : Nat) (r : LeRun) : Option Instr :=
  leDecode (Fin.ofNat 16 e) (s.mword (leAddr e (4 * r.pc)))

/-- The execution ends at or after the close of the loop-engine window (R23): the engine's contexts run back to back from
the window's opening, each with 16 cycles of entry (R188). [assumption 253 (DEDUCED)] -/
def State.leLate (s : State) (e : Nat) (r : LeRun) : Bool := decide (s.leWin ≤ (s.eng e).used + 16 + r.cyc)

/-- The instant an execution has come to (R188). -/
def State.leAt (s : State) (e : Nat) (r : LeRun) : Nat :=
  s.bndAt + s.get TBS.PER_WIN0_W_UPL * t10 + leTime ((s.eng e).used + 16 + r.cyc)

/-- A 32-bit word of RAM lies in a poisoned word (R451). [assumption 266 (DEDUCED)] -/
def State.badWord (s : State) (a : Nat) : Bool :=
  match ramWord a with
  | some (r, i) => s.isPoison r i
  | none => false

/-- The sign of an FP32 value as FP32, and its zero test. -/
def fsgn (a : Word) : Word := if fgt a 0 then 0x3F800000 else if flt a 0 then 0xBF800000 else 0
def fisz (a : Word) : Bool := fcmp a 0 == some 0

/-- The position of x in a TLU table of `n` entries (R205): unclamped, clamped, and the lower entry. -/
def tluPos (x x0 inv : Word) (n : Nat) : Option (Word × Word × Nat) := do
  let a ← fsub x x0
  let a ← fmul a inv
  let f := fclamp a 0 (fint (n - 1 : Nat))
  some (a, f, min (f32Val f).floor.toNat (n - 2))

/-- A REF word: state base, coefficient base, VALID. -/
def refSB (w : Word) : Nat := getBits w 0 6
def refCB (w : Word) : Nat := getBits w 8 6
def refValid (w : Word) : Bool := w.getLsbD 16

/-- A coefficient word of the running context. -/
def State.coef (s : State) (e k i : Nat) : Word := s.mword (leC (16 * e + k) i)

/-- State and coefficient words of the running context. -/
def leState (c base n : Nat) : List Nat := (List.range n).map (fun i => leS c (base + i))
def leCoefs (c base n : Nat) : List Nat := (List.range n).map (fun i => leC c (base + i))

/-- The integrator and the limits of the controllers whose REF words a HANDOVER uses: the incoming one at a handover
instant, the idle one under TRK (R208). -/
def State.refTouch (s : State) (e : Nat) (r : LeRun) (va sb cb : Nat) (trk : Bool) : List Nat :=
  let want := !fisz (r.get (va + 2))
  let ref := fun (b : Bool) => s.coef e r.ctx (cb + (if b then 3 else 2))
  ((if want != (r.gets sb != 0) then [ref want] else []) ++ (if trk then [ref !want] else [])).flatMap (fun w =>
    if refValid w then leState (16 * e + r.ctx) (refSB w) 2 ++ leCoefs (16 * e + r.ctx) (refCB w + 2) 2 else [])

/-- The words of the engine's local memory an instruction reads or writes, beside the one it is itself (R186, R190, R201,
R203, R450). END writes the state words and the outputs of its execution. [assumption 266 (DEDUCED)] -/
def State.leTouch (s : State) (e : Nat) (r : LeRun) (i : Instr) : List Nat :=
  let c := 16 * e + r.ctx
  match i with
  | .leEnd _ => leState c 0 64 ++ r.outs.map (fun p => leO c p.1)
  | .leLds _ _ idx => [leS c idx]
  | .leLdc _ _ idx => [leC c idx]
  | .leLdm _ _ va imm | .leStm _ _ va imm => [leAddr e (r.get va + imm.signExtend 32).toNat]
  | .leIn _ _ idx _ =>
    let b := s.inBind c idx
    let p := 16 * (b.sel / 256) + b.sel % 16
    (leRec c + 0x200 + 8 * idx.val) :: (if b.cls = 5 ∧ p / 16 = e ∧ p < c then [leO p (b.sel / 16 % 16)] else [])
  | .leOut _ _ idx => [leRec c + 0x280 + 8 * idx.val]
  | .lePi _ _ _ sb cb _ => leState c sb 2 ++ leCoefs c cb 4
  | .lePid _ _ _ sb cb _ => leState c sb 4 ++ leCoefs c cb 6
  | .leBiq _ _ _ sb cb => leState c sb 2 ++ leCoefs c cb 5
  | .leLlag _ _ _ sb cb => leState c sb 1 ++ leCoefs c cb 3
  | .leLim _ _ _ cb _ => leCoefs c cb 1
  | .leSat _ _ _ cb _ => leCoefs c cb 2
  | .leRamp _ _ _ sb cb => leState c sb 2 ++ leCoefs c cb 3
  | .leTlu _ _ va cb =>
    let info := s.coef e r.ctx (cb + 2)
    leCoefs c cb 3 ++ (match tluPos (r.get va) (s.coef e r.ctx cb) (s.coef e r.ctx (cb + 1)) (getBits info 16 16) with
      | some (_, _, i) => [0, 1].map (fun k => leAddr e (4 * (s.ctxTBASE c + getBits info 0 16 + i + k)))
      | none => [])
  | .leObsv _ _ _ sb cb => leState c sb 4 ++ leCoefs c cb 40
  | .leHandover _ _ va sb cb ang trk => leState c sb 3 ++ leCoefs c cb 4 ++ (if ang then [] else s.refTouch e r va sb cb trk)
  | _ => []

/-- An execution meets an uncorrectable or poisoned word of its engine's memory: in the program, or among the words the
instruction touches (R450, R451). [assumption 266 (DEDUCED)] -/
def State.lePoisoned (s : State) (e : Nat) (r : LeRun) (i : Instr) : Bool :=
  s.badWord (leAddr e (4 * r.pc)) || (!s.poison.isEmpty && (s.leTouch e r i).any s.badWord)

/-- A context is stopped as STOP of R212 does: a running execution ends without commit, one not yet begun is not made, its
outputs are blocked, its enable clears and a move of it fails (R450, R455, R473). One that is disabled already keeps the
rest as it is. -/
def State.leStop (s : State) (c : Nat) : State :=
  let e := c / 16
  let s := match (s.eng e).run with
    | some r => if r.ctx = c % 16 then s.runEnd e r else s
    | none => s
  let s := s.setEng e { s.eng e with todo := (s.eng e).todo.filter (· != c) }
  if s.ctxEn c then ((s.moveCancelCtx c).leBlock c false).ctxClear c else s

/-- An engine reads an uncorrectable or poisoned word: its execution ends without commit, and its context is stopped, its
CAUSE as it was (R450). [assumption 266 (DEDUCED)] -/
def State.leUe (s : State) (e : Nat) (r : LeRun) : State := (s.runEnd e r).leStop (16 * e + r.ctx)

/-- Execute instruction `i` on engine `e`, where its execution is at that instruction: its cycles, its effect on the
execution, and the next word; a cycle count beyond WCET aborts with CYC, and an effect may abort with its cause (R201,
R211); a poisoned word ends it (R450). An engine that runs no context, or is at another instruction, does nothing.
[assumption 58 (DESIGN CHOICE)] -/
def State.leExec (s : State) (e : Nat) (i : Instr) (cost : Nat) (f : State → LeRun → Except Nat (State × LeRun)) : State :=
  match (s.eng e).run with
  | none => s
  | some r =>
    if s.leFetch e r != some i then s
    else if s.lePoisoned e r i then s.leUe e r
    else
    let r := { r with cyc := r.cyc + cost }
    if s.ctxWCET (16 * e + r.ctx) < r.cyc then s.leAbort e r caCYC
    else match f s r with
      | .error c => s.leAbort e r c
      | .ok (s, r') =>
        let (n, ls) := loopNext (if r'.pc = r.pc then r.pc + 1 else r'.pc) r'.loops
        s.setRun e (some { r' with pc := n, loops := ls })

/-- An instruction that touches only the execution. -/
def State.leReg (s : State) (e : Nat) (i : Instr) (cost : Nat) (f : LeRun → Except Nat LeRun) : State :=
  s.leExec e i cost (fun s r => (f r).map (fun r => (s, r)))

/-- Write a result of an operation of R201: none is ARITH, and SATQ is kept. -/
def LeRun.result (r : LeRun) (vd : Nat) (x : LeRes) : Except Nat LeRun :=
  match x with
  | none => .error caARITH
  | some (w, q) => .ok { r.put vd w with satq := r.satq || q }

/-- The results of a primitive, none for ARITH. -/
def LeRun.results (r : LeRun) (vd : Nat) (x : Option (List Word)) : Except Nat LeRun :=
  match x with
  | none => .error caARITH
  | some ws => .ok (r.puts vd ws)

/-- END: the state words and outputs written are committed in one step (R189). -/
def State.leCommit (s : State) (e : Nat) (r : LeRun) : State :=
  let c := 16 * e + r.ctx
  let s := s.each (r.st.zipIdx) (fun s p => s.setMword (leS c p.2) p.1)
  let s := s.each r.outs.reverse (fun s p => s.setMword (leO c p.1) p.2)
  let s := s.set (LEX.CTX_STAT_INIT e r.ctx) 0
  let s := match r.sel with | some b => s.setB (LEX.CTX_STAT_HO_SEL e r.ctx) b | none => s
  let s := match r.blend with | some b => s.setB (LEX.CTX_STAT_HO_BLEND e r.ctx) b | none => s
  let s := s.modLectx c (fun x => { x with ramping := r.ramp.getD x.ramping, doneAt := s.pidx + 1, abRun := 0 })
  let s := s.iff r.hoInst (fun s => s.irq (LEX.page e) 6)
  s.leUnblock c

/-! ### Input sources (R190, R196, R251) -/

/-- The latest valid result of a stream as it stood at instant `t` of the loop-engine window (R198). -/
def State.strAt (s : State) (n t : Nat) : Word :=
  match s.le.adcOld.find? (fun q => q.1 == n && decide (t < q.2.1)) with
  | some q => q.2.2
  | none => s.reg (PAIR.STR_LAST (n / 16) (n % 16))

/-- What a binding reads at instant `t` (R196, R198, R251): its value, none before the first valid one, and whether it is
stale now.
A cell's voltages, currents and temperatures, which R158 carries in tenths, are in volts, amperes and degrees.
[assumption 233 (DEDUCED)] -/
def State.leSource (s : State) (c : Nat) (b : LeBind) (t : Nat) : Option Rat × Bool :=
  let n := b.sel % 64
  let it := b.sel / 64
  match b.cls with
  | 1 =>
    let w := s.strAt b.sel t
    if w.getLsbD 22 then (some (sgnOf 16 (getBits w 0 16) : Rat), false) else (none, true)
  | 2 =>
    let x := s.cell n
    let seen := x.seen.testBit (min it 6)
    let v : Rat := match it with
      | 0 => (x.v1 : Rat) / 10
      | 1 => (x.v2 : Rat) / 10
      | 2 => (x.imv : Rat) / 10
      | 3 => (x.ilv : Rat) / 10
      | 4 => (x.ths : Rat) / 10
      | 5 => (x.tgu : Rat) / 10
      | 6 => (getBits x.w3 0 12 : Rat)
      | _ => (getBits x.w3 12 2 : Rat)
    (if seen then some v else none, s.on (GRN.CELL_STATE_STALE (n / 8) (n % 8)) || x.unmeas.testBit it || !seen)
  | 3 => if s.le.gd then (some (SMap.get (fun _ => 0) s.le.grn (64 * it + n)), false) else (none, true)
  | 4 =>
    let v : Rat := if it = 0 then (sgnOf 16 (s.get (DSV.RES_C_P_DEL n)) : Rat) * 10
      else ((s.reg (DSV.RES_B n)).toNat / 65536 % 128 : Nat)
    if s.le.gd then (some v, false) else (none, true)
  | 5 =>
    let p := 16 * (b.sel / 256) + b.sel % 16
    let o := b.sel / 16 % 16
    let x := s.lectx p
    if p / 16 = c / 16 ∧ p < c then
      (if x.doneAt = 0 then none else some (f32Val (s.mword (leO p o))), x.doneAt != s.pidx + 1)
    else (if x.doneAt = 0 then none else some (f32Val (SMap.get (fun _ => 0) s.le.pubOut (16 * p + o))), !x.fresh)
  | 6 =>
    let rx := s.on (TRL.FCFG_EN b.sel) && !s.on (TRL.FCFG_DIR b.sel)
    let seen := s.le.flowSeen.testBit b.sel
    (if seen then some (f32Val (s.reg (TRL.FVAL b.sel))) else none, !rx || !seen || s.on (TRL.FCFG_MISS b.sel))
  | 7 => (some (if b.sel = 0 then (s.pidx % 2 ^ 32 : Nat) else s.get TBS.PER_CFG_PERIOD), false)
  | 8 =>
    match SMap.get (fun _ => none) s.le.mcx b.sel with
    | some v => (some v, false)
    | none => (none, true)
  | _ => (none, true)

/-- The angle items of input class 8, which return the INT angle unchanged (R251). -/
def angleItem (b : LeBind) : Bool := b.cls == 8 && (b.sel / 4 == 0 || b.sel / 4 == 2)

/-- What IN returns: source × SCALE converted to FMT, with SATQ; none for ARITH (R195, R199).
[assumptions 63, 233 (DEDUCED)] -/
def inValue (b : LeBind) (v : Option Rat) : LeRes :=
  match v with
  | none => some (0, false)
  | some x =>
    if angleItem b then some (BitVec.ofInt 32 x.floor, false)
    else match flFin b.scale with
      | none => none
      | some k => if b.fmt = 1 then plain (frnd (k.1 && x = 0 || (k.1 != decide (x < 0)) && k.2 = 0) (x * k.2))
          else some (qrnd (x * k.2 * 16777216))

/-- The range of a destination's field, for the value published there (R195, R197): a duty, or Lk_CMP.
[assumption 62 (DEDUCED)] -/
def destFit (cls : Nat) (w : Word) : Word × Bool :=
  let x := f32Val w
  match cls with
  | 4 => if 1 < x then (0x3F800000, true) else if x < -1 then (0xBF800000, true) else (w, false)
  | 5 =>
    let i := roundEvenI x
    if 4194303 < i then (fint 4194303, true) else if i < 0 then (0, true) else (fint i, false)
  | _ => (w, false)

/-- What OUT publishes: the register as FP32 × SCALE, fitted to the destination, and LIMITED; none for ARITH.
[assumption 62 (DEDUCED)] -/
def outValue (b : LeBind) (w : Word) : Option (Word × Bool) :=
  let x := if b.fmt = 1 then some w else ratF32 (qRat w)
  (x.bind (fun x => fmul x b.scale)).map (destFit b.cls)

/-! ### Primitives (R203–R208) -/

/-- PI and PID (R204): y, LIMITED, and the new state words. `pid` gives D and e_prev with KD and ALPHA. -/
def piStep (e ff kp ki hi lo i : Word) (pid : Option (Word × Word × Word × Word)) :
    Option (Word × Bool × List Word) := do
  let d ← match pid with
    | none => some (0 : Word)
    | some (kd, al, d, ep) => do
      let a ← fmul al d
      let b ← fsub e ep
      let b ← fmul kd b
      fadd a b
  let p ← fmul kp e
  let ie ← fmul ki e
  let ip ← fadd i ie
  let sum := fun (x : Word) => do
    let a ← fadd p x
    let a ← fadd a d
    fadd a ff
  let t ← sum ip
  let ip := if (fgt t hi && fgt e 0) || (flt t lo && flt e 0) then i else ip
  let ip := fclamp ip lo hi
  let u ← sum ip
  let y := fclamp u lo hi
  let y ← fpass y
  let ip ← fpass ip
  some (y, fcmp y u != some 0, [ip, u] ++ (match pid with | none => [] | some _ => [d, e]))

/-- LIM (R205): the limited vector and LIMITED. -/
def limStep (dpri : Bool) (x y m : Word) : Option (Word × Word × Bool) := do
  if dpri then
    let x' ← fpass (fclamp x (fneg m) m)
    let a ← fmul m m
    let b ← fmul x' x'
    let r ← fsub a b
    let r ← fsqrt r
    let y' ← fpass (fclamp y (fneg r) r)
    some (x', y', fcmp x x' != some 0 || fcmp y y' != some 0)
  else
    let a ← fmul x x
    let b ← fmul y y
    let q ← fadd a b
    let n ← fsqrt q
    if fgt n m then
      let k ← fdiv m n
      let x' ← fmul x k
      let y' ← fmul y k
      some (x', y', true)
    else some (x, y, false)


/-- RAMP (R207): new y and r. -/
def rampStep (sp y r rup rdn jerk : Word) : Option (Word × Word) := do
  let e ← fsub sp y
  let r ← if fisz jerk then some (fclamp e (fneg rdn) rup) else do
    let j2 ← fmul 0x40000000 jerk
    let a ← fmul j2 (fabs e)
    let q ← fsqrt a
    let lim := if fgt e 0 then rup else rdn
    let rt ← fmul (fsgn e) (if flt q lim then q else lim)
    let d ← fsub rt r
    fadd r (fclamp d (fneg jerk) jerk)
  let yn ← fadd y r
  let a ← fsub sp y
  let b ← fsub sp yn
  let m ← fmul a b
  if !fgt m 0 && !fisz r && fsgn r == fsgn a then
    let sp ← fpass sp
    some (sp, 0)
  else some (yn, r)

/-- TLU (R205) between two entries: f is the position, i the entry. -/
def tluStep (x x0 inv : Word) (n : Nat) (entry : Nat → Word) : Option (Word × Bool) := do
  let (a, f, i) ← tluPos x x0 inv n
  let fr ← fsub f (fint i)
  let d ← fsub (entry (i + 1)) (entry i)
  let p ← fmul fr d
  let y ← fadd (entry i) p
  some (y, fcmp a f != some 0)

/-- A sum of products, each operation rounded, from the left. -/
def dotF : List (Word × Word) → Option Word
  | [] => some 0
  | p :: t => t.foldl (fun a q => do fadd (← a) (← fmul q.1 q.2)) (fmul p.1 p.2)

/-- √3 in FP32. -/
abbrev fSqrt3 : Word := 0x3FDDB3D7

/-- CLARKE (R206). -/
def clarkeStep (two : Bool) (a b c : Word) : Option (List Word) := do
  let b2 ← fmul 0x40000000 b
  if two then
    let al ← fpass a
    let t ← fadd a b2
    let be ← fdiv t fSqrt3
    some [al, be]
  else
    let a2 ← fmul 0x40000000 a
    let t ← fsub a2 b
    let t ← fsub t c
    let al ← fdiv t 0x40400000
    let u ← fsub b c
    let be ← fdiv u fSqrt3
    some [al, be]

/-- PARK (R206): d = α cos + β sin, q = −α sin + β cos. -/
def parkStep (al be sn cs : Word) : Option (List Word) := do
  let d ← dotF [(al, cs), (be, sn)]
  let q ← dotF [(fneg al, sn), (be, cs)]
  some [d, q]

/-- IPARK (R206): α = d cos − q sin, β = d sin + q cos. -/
def iparkStep (d q sn cs : Word) : Option (List Word) := do
  let al ← dotF [(d, cs), (fneg q, sn)]
  let be ← dotF [(d, sn), (q, cs)]
  some [al, be]

/-- OBSV (R206): the residuals and the new states. -/
def obsvStep (u m : List Word) (cf x : Nat → Word) : Option (List Word × List Word) := do
  let xs := (List.range 4).map x
  let row := fun (base w i : Nat) (v : List Word) => dotF (v.zipIdx.map (fun p => (cf (base + w * i + p.2), p.1)))
  let r ← (List.range 2).mapM (fun i => do fsub (m.getD i 0) (← row 32 4 i xs))
  let x' ← (List.range 4).mapM (fun i => do
    let a ← row 0 4 i xs
    let b ← row 16 2 i u
    let l ← row 24 2 i r
    fadd (← fadd a b) l)
  some (r, x')

/-! ### HANDOVER (R208) -/

def refBad (w : Word) : Bool := refValid w && (decide (63 < refSB w + 1) || decide (63 < refCB w + 3))

/-- Adjust a controller's integrator so that its output approaches `y` (R208): I, then U. -/
def trackRef (r : LeRun) (coef : Nat → Word) (ref y yin : Word) : Option LeRun := do
  let sb := refSB ref
  let cb := refCB ref
  let d ← fsub y yin
  let i ← fadd (r.gets sb) d
  let i2 := fclamp i (coef (cb + 3)) (coef (cb + 2))
  let i2 ← fpass i2
  let du ← fsub i2 (r.gets sb)
  let u ← fadd (r.gets (sb + 1)) du
  some ((r.setS (sb + 1) u).setS sb i2)

/-- The blend's share DELTA × J / NB. [assumption 57 (DESIGN CHOICE)] -/
def blendShare (ang : Bool) (delta : Word) (j nb : Int) : Option Word :=
  if ang then (if nb = 0 then none else some (BitVec.ofInt 32 (roundAway ((delta.toInt * j : Int) / (nb : Rat)))))
  else do fdiv (← fmul delta (fint j)) (fint nb)

/-- HANDOVER (R208). `nb` is NB limited to 64; MEM where a REF word in use is out of range, ARITH where a result is
no FP32 number. -/
def handover (r : LeRun) (vd sb : Nat) (ang trk : Bool) (ya yb req dis refA refB : Word) (nb : Int)
    (coef : Nat → Word) : Except Nat LeRun :=
  let arith := fun {α : Type} (x : Option α) => (match x with | some a => .ok a | none => .error caARITH : Except Nat α)
  let sel0 := r.gets sb != 0
  let j0 := (r.gets (sb + 1)).toInt
  let delta := r.gets (sb + 2)
  let j := if 0 < j0 then j0 - 1 else j0
  let j := min j nb
  let add := fun (a b : Word) => if ang then some (a + b) else fadd a b
  let want := !fisz req
  do
    let share ← arith (if j = 0 then some 0 else blendShare ang delta j nb)
    let ycur ← arith (add (if sel0 then yb else ya) share)
    let (r, sel, j, delta, y, inst) ← (if want != sel0 then do
        let sel := want
        let yin := if sel then yb else ya
        let ref := if sel then refB else refA
        let use := refValid ref && !ang
        if use && refBad ref then .error caMEM
        let (r, yin) ← (if use then do
            let r ← arith (trackRef r coef ref ycur yin)
            .ok (r, fclamp (r.gets (refSB ref + 1)) (coef (refCB ref + 3)) (coef (refCB ref + 2)))
          else .ok (r, yin))
        let d ← arith (if ang then some (ycur - yin) else fsub ycur yin)
        let small := if ang then decide ((d.toInt.natAbs : Int) ≤ dis.toInt) else fle (fabs d) dis
        if nb == 0 || small then .ok (r, sel, (0 : Int), (0 : Word), yin, true)
        else .ok (r, sel, nb, d, ycur, true)
      else .ok (r, sel0, j, delta, ycur, false) : Except Nat (LeRun × Bool × Int × Word × Word × Bool))
    let y ← arith (if ang then some y else fpass y)
    let ref := if sel then refA else refB
    let use := trk && refValid ref && !ang
    if use && refBad ref then .error caMEM
    let r ← (if use then arith (trackRef r coef ref y (if sel then ya else yb)) else .ok r)
    let r := r.setSs sb [if sel then 1 else 0, BitVec.ofInt 32 j, delta]
    .ok { r.put vd y with sel := some sel, blend := some (j != 0), hoInst := r.hoInst || inst }

end Sys2Proof.Machine
end

