-- ==== Sys2Proof/Machine/LeControl.lean ====
section
/-! DEFINITION. What the host, the windows and the boundary do to the loop engines: enables, holds, the coefficient
queue, starts, publishing, overruns, moves, tests and re-initialisation (R187–R194, R209–R217). -/

namespace Sys2Proof.Machine

/-! ### The windows and the boundary -/

/-- The contexts of an engine that run in this period, at the close of the uplink window (R188, R193, R194). -/
def State.leOpenOne (s : State) (e : Nat) : State :=
  let s := s.each (ctxsOf e) (fun s c =>
    let s := s.iff (s.ctxEn c && decide ((s.lectx c).enAt < s.pidx)) (fun s => s.modLectx c (fun x => { x with live := true }))
    s.set (LEX.CTX_STAT_ABORTED e (c % 16)) 0)
  let todo := (ctxsOf e).filter (fun c => (s.lectx c).live && !(s.lectx c).held)
  s.setEng e { s.eng e with todo := if s.on (HDR.CTRL_EN (LEX.page e)) then todo else [], used := 0, run := none }

/-- The close of the uplink window for the engines (R188); while the module is in DOZE they are gated (R408). -/
def State.leOpen (s : State) (doze : Bool) : State :=
  { s with le := { s.le with adcOld := [] } }.each (List.range 16) (fun s e => if doze then s.setEng e { s.eng e with todo := [], used := 0, run := none } else s.leOpenOne e)

/-- A published value of class LPW reaches the leg's shadow, eligible from the boundary that closes the period; until
then a reload event takes the value that was eligible before (R20, R113). -/
def State.legPublish (s : State) (k : Nat) (w : Word) : State :=
  let s := s.legSync k
  let old := s.get (LPW.CMP_CMP k)
  let s := s.set (LPW.CMP_CMP k) (roundEvenI (f32Val w)).toNat
  let c := s.chan (96 + k)
  let prev := match c.cap with
    | some (_, e) => if e ≤ s.pidx then some old else c.prev
    | none => some old
  s.putLeg k { c with cap := some (s.legShadow k, s.pidx + 1), prev := prev }

/-- A context feeds a destination: it holds it, or it still runs though its enable has been cleared in this period, which
released its claim, and nothing else has taken the destination (R194, R197). -/
def State.feedsDest (s : State) (c : Nat) (b : LeBind) (r : Nat) : Bool :=
  s.holdsDest c r || (!s.ctxEn c && s.destFree c b)

/-- The outputs of a context are published (R190). [assumption 66 (DEDUCED)] -/
def State.ctxPublish (s : State) (c : Nat) : State :=
  let s := s.modLectx c (fun x => { x with fresh := x.doneAt == s.pidx + 1 })
  s.each ((s.outs c).filter (fun p => p.2.cls != 0)) (fun s p =>
    let w := s.mword (leO c p.1)
    let s := { s with le := { s.le with pubOut := SMap.put (fun _ => 0) s.le.pubOut (16 * c + p.1) w } }
    match s.destOf p.2 with
    | some (r, _, _) =>
      if s.feedsDest c p.2 r then
        if p.2.cls = 5 then s.legPublish p.2.sel w
        else { s with pubs := SMap.put (fun _ => 0) s.pubs (p.2.cls * 1024 + p.2.sel) w }
      else s
    | none => s)

/-- The close of the loop-engine window publishes the outputs of the contexts that run (R18, R190). -/
def State.lePublish (s : State) : State :=
  s.each (List.range 256) (fun s c => if (s.lectx c).live then s.ctxPublish c else s.modLectx c (fun x => { x with fresh := false }))

/-- The contexts an engine has not finished (R24). -/
def State.leUnfinished (s : State) (e : Nat) : List Nat :=
  let g := s.eng e
  (match g.run with | some r => [16 * e + r.ctx] | none => []) ++ g.todo

/-- The unfinished contexts of an engine are aborted with cause WINDOW under the reaction `win` (R24, R211, R212). -/
def State.leWindowAbort (s : State) (e win : Nat) : State :=
  let cs := s.leUnfinished e
  let s := match (s.eng e).run with
    | some r => s.runEnd e r
    | none => s
  let s := s.setEng e { s.eng e with todo := [] }
  s.each cs (fun s c => s.ctxAbort c caWINDOW win)

/-- USED_LAST and USED_MAX at the close of the window (R218). [assumption 64 (DEDUCED)] -/
def State.leUsed (s : State) : State :=
  s.each (List.range 16) (fun s e =>
    let u := min (s.eng e).used (2 ^ 17 - 1)
    (s.set (LEX.USED_LAST_CYC e) u).set (LEX.USED_MAX_CYC e) (max u (s.get (LEX.USED_MAX_CYC e))))

/-- The cycles the busiest engine used in this period. [assumption 191 (DEDUCED)] -/
def State.leBusiest (s : State) : Nat := ((List.range 16).map (fun e => (s.eng e).used)).foldl max 0

/-- A module of a Settle pair that is not ACTIVE holds every enabled context with an output of class GRN_VS, GRN_BI,
PCMD, AFE or TRL (R331). -/
def State.stlIdle (s : State) : Bool := s.on STL.CFG_EN && s.get STL.STAT_STATE != stlACTIVE
def State.stlHolds (s : State) (c : Nat) : Bool :=
  s.stlIdle && (s.outs c).any (fun p => decide (p.2.cls ∈ [1, 2, 3, 4, 6]))

/-- A boundary: holds take effect, the oldest entry of each context is applied, HOLD_AUTO releases, and contexts
that are not enabled stop (R193, R194, R209, R210). Where the engines are gated, queued entries and holds are kept
(R408). -/
def State.leBoundaryOne (s : State) (e : Nat) : State :=
  if s.leGated then s.each ((ctxsOf e).filter (fun c => !s.ctxEn c)) (fun s c => s.modLectx c (fun x => { x with live := false }))
  else
  let page := s.on (HDR.CTRL_HOLD (LEX.page e))
  let s := s.each (ctxsOf e) (fun s c =>
    let k := c % 16
    let s := s.iff (!s.ctxEn c) (fun s => s.modLectx c (fun x => { x with live := false }))
    let g := s.eng e
    let s := match g.queue.find? (fun q => q.1 == k) with
      | some q => (s.setEng e { g with queue := g.queue.erase q }).unitWrite (leC c q.2.1) (leBytes 4 q.2.2.toNat)
      | none => s
    let bit := (s.get (LEX.CTX_HOLD_HOLD e)).testBit k
    let auto := bit && (s.get (LEX.HOLD_AUTO_AUTO e)).testBit k && !(s.eng e).queue.any (fun q => q.1 == k)
    let s := s.iff auto (fun s => s.set (LEX.CTX_HOLD_HOLD e) (s.get (LEX.CTX_HOLD_HOLD e) ^^^ 1 <<< k))
    let held := page || (bit && !auto) || (s.ctxEn c && s.stlHolds c)
    (s.modLectx c (fun x => { x with held := held })).setB (LEX.CTX_STAT_HELD e k) held)
  s.leRefresh e

/-- The boundary after the copy: the destination runs the contexts, with their queued entries, and the source is
disabled (R214). [assumption 61 (DEDUCED)] -/
def State.moveArrive (s : State) (e : Nat) : State :=
  match (s.eng e).move with
  | some m =>
    if m.phase = 2 then
      let q := (s.eng e).queue
      let moved := q.filterMap (fun x => (m.ctxs.find? (fun p => p.1 % 16 == x.1)).map (fun p => (p.2 % 16, x.2.1, x.2.2)))
      let s := s.setEng e { s.eng e with queue := q.filter (fun x => !m.ctxs.any (fun p => p.1 % 16 == x.1)) }
      let s := s.setEng m.eng { s.eng m.eng with queue := (s.eng m.eng).queue ++ moved }
      let s := s.each m.ctxs (fun s p =>
        let s := s.set (LEX.CTX_EN_EN m.eng) (s.get (LEX.CTX_EN_EN m.eng) ||| 1 <<< (p.2 % 16))
        let s := s.set (LEX.CTX_EN_EN e) (s.get (LEX.CTX_EN_EN e) &&& (0xFFFF ^^^ 1 <<< (p.1 % 16)))
        let s := s.modLectx p.2 (fun x => { x with live := true, enAt := 0 })
        s.modLectx p.1 (fun x => { x with live := false, fresh := false }))
      ((s.leRefresh e).leRefresh m.eng).moveEnd e 3 0
    else s
  | none => s

/-- The bindings that a cancelled move had redirected name its contexts again (R214). -/
def State.moveBack (s : State) (e : Nat) : State :=
  let l := (s.eng e).back
  if l.isEmpty then s else (s.setEng e { s.eng e with back := [] }).each l (fun s p => s.redirect p.1 p.2)

/-- The loop engines at a boundary (R193, R209, R210, R214). -/
def State.leBoundary (s : State) : State :=
  let s := (s.each (List.range 16) State.moveBack).each (List.range 16) State.moveArrive
  s.each (List.range 16) State.leBoundaryOne

/-- Latch the Grainer's values for the input bindings at the close of its window (R48, R196): N_ACT, V̄ in volts,
STATE, PLIM in watts, the flags SAT, FOLD, DERATE, TRIPPED and GAP from bit 0 up, and each cell's state and rank. -/
def State.grnLatch (s : State) : State :=
  let put := fun (m : SMap Rat) (it n : Nat) (v : Rat) => SMap.put (fun _ => 0) m (64 * it + n) v
  let m := (List.range 8).foldl (fun m k =>
    let b := fun (x : Bool) (i : Nat) => if x then 1 <<< i else 0
    let flags := b (s.on (GRN.STK_STAT_SAT k)) 0 + b (s.on (GRN.STK_STAT_FOLD k)) 1 + b (s.on (GRN.STK_STAT_DERATE k)) 2
      + b (s.on (GRN.STK_STAT_TRIPPED k)) 3 + b (s.stkState k == skGAP) 4
    let m := put m 0 k (s.get (GRN.STK_STAT_N_ACT k) : Nat)
    let m := put m 1 k ((s.stack k).vbar / 10)
    let m := put m 2 k (s.stkState k : Nat)
    let m := put m 3 k ((s.get (GRN.STK_STAT_PLIM k) * 1000 : Nat))
    put m 4 k (flags : Nat)) s.le.grn
  let m := (List.range 48).foldl (fun m n =>
    put (put m 8 n (s.cst n : Nat)) 9 n (s.get (GRN.RANK_RANK (n / 4) (n % 4)) : Nat)) m
  { s with le := { s.le with grn := m, gd := true } }

/-! ### Moves (R213, R214) -/

/-- The contexts a move takes, source and destination. -/
def State.movePairs (s : State) (e : Nat) (val : Word) : List (Nat × Nat) :=
  let d := getBits val 4 4
  if getBits val 12 1 = 1 then (s.enabledOf e).map (fun c => (c, 16 * d + c % 16))
  else [(16 * e + getBits val 0 4, 16 * d + getBits val 8 4)]

/-- The contexts a context's input bindings name. -/
def State.ctxNames (s : State) (c : Nat) : List Nat := (List.range 16).filterMap (fun i => (s.inBind c i).names)

/-- The conditions of R213 that refuse a move, in the table's order. [assumption 60 (DEDUCED)] -/
def State.moveConds (s : State) (e d : Nat) (all : Bool) (ps : List (Nat × Nat)) (busy : Bool) : List (Bool × Nat) :=
  let others := (s.enabledOf e).filter (fun c => !ps.any (fun p => p.1 == c))
  let linked := ps.any (fun p =>
    (s.ctxNames p.1).any (fun c => c / 16 == e && c != p.1) || others.any (fun c => (s.ctxNames c).contains p.1)
      || (s.enabledOf d).any (fun c => (s.ctxNames c).contains p.2))
  let q := (s.eng e).queue.filter (fun x => ps.any (fun p => p.1 % 16 == x.1))
  [(ps.any (fun p => s.ctxEn p.2), lNOT_SPARE),
   (ps.any (fun p => s.ctxCrc p.1 d != s.ctxCrc p.1 e), lPROG_DIFF),
   (decide (s.leWin < s.cycSum (s.enabledOf d) + s.cycSum (ps.map (·.1))), lBUDGET),
   (decide (16 < (s.eng d).queue.length + q.length), lQFULL),
   (!all && linked, lBINDING),
   (!s.on (HDR.CTRL_EN (LEX.page d)) || s.on (LEX.ENG_STAT_TESTING e) || s.on (LEX.ENG_STAT_TESTING d) || busy
     || ps.isEmpty || ps.any (fun p => !s.ctxEn p.1), lSTATE)]

/-- A write to MOVE (R213). A refused move is reported in MOVE_STAT, unless another is in progress there. -/
def State.moveWrite (s : State) (e : Nat) (val : Word) : State :=
  let d := getBits val 4 4
  let all := getBits val 12 1 == 1
  if getBits val 13 1 = 0 then s
  else s.judge (LEX.page e) 0x74 [] (fun s =>
    let ps := s.movePairs e val
    let busy := s.on (LEX.ENG_STAT_MOVING e) || s.on (LEX.ENG_STAT_MOVING d)
    let conds := (d == e, eRANGE) :: s.moveConds e d all ps busy
    match conds.find? (fun c => c.1) with
    | some c =>
      let s := s.refuse (LEX.page e) 0x74 c.2
      if (s.eng e).move.isSome then s else (s.set (LEX.MOVE_STAT_STATE e) 4).set (LEX.MOVE_STAT_CODE e) c.2
    | none =>
      let s := s.setEng e { s.eng e with move := some ⟨ps, d, all, 0⟩ }
      let s := (s.set (LEX.MOVE_STAT_STATE e) 1).set (LEX.MOVE_STAT_CODE e) 0
      (s.set (LEX.ENG_STAT_MOVING e) 1).set (LEX.ENG_STAT_MOVING d) 1)

/-- The checks of a move are complete: it fails where a condition of R213 stands now, and otherwise waits (R214). -/
def State.moveChecked (s : State) (e : Nat) : State :=
  match (s.eng e).move with
  | some m =>
    if m.phase = 0 then
      match (s.moveConds e m.eng m.all m.ctxs false).find? (fun c => c.1) with
      | some c => (s.refuse (LEX.page e) 0x74 c.2).moveEnd e 4 c.2
      | none => (s.setEng e { s.eng e with move := some { m with phase := 1 } }).set (LEX.MOVE_STAT_STATE e) 2
    else s
  | none => s

/-- One context's record, registers, claims, blocks, flags and published outputs pass to its destination (R193, R202, R213,
R214). [assumption 252 (DEDUCED)] -/
def State.moveOne (s : State) (p q : Nat) : State :=
  let s := s.each (List.range 128) (fun s i => s.unitWrite (leRec q + 8 * i) (s.bytesAt (leRec p + 8 * i) 8))
  let pe := p / 16
  let pk := p % 16
  let qe := q / 16
  let qk := q % 16
  let s := (s.setReg (LEX.CTX_PROG qe qk) (s.reg (LEX.CTX_PROG pe pk))).setReg (LEX.CTX_TBL qe qk) (s.reg (LEX.CTX_TBL pe pk))
  let s := (s.setReg (LEX.CTX_WCET qe qk) (s.reg (LEX.CTX_WCET pe pk))).setReg (LEX.CTX_CRC qe qk) (s.reg (LEX.CTX_CRC pe pk))
  let s := s.set (LEX.CTX_STAT_INIT qe qk) (s.get (LEX.CTX_STAT_INIT pe pk))
  let s := (s.set (LEX.CTX_STAT_HO_SEL qe qk) (s.get (LEX.CTX_STAT_HO_SEL pe pk))).set (LEX.CTX_STAT_HO_BLEND qe qk)
    (s.get (LEX.CTX_STAT_HO_BLEND pe pk))
  let s := s.each (List.range 16) (fun s o => { s with le := { s.le with
    pubOut := SMap.put (fun _ => 0) s.le.pubOut (16 * q + o) (SMap.get (fun _ => 0) s.le.pubOut (16 * p + o)) } })
  let x := s.lectx p
  let s := s.setLectx q { x with live := false, held := false, scan := none }
  (s.moveHeld p q).redirect p q

/-- The copy of a move at the close of the loop-engine window; a context no longer enabled, or a destination no longer
spare, cancels it (R214). [assumption 68 (DEDUCED)] -/
def State.moveCopy (s : State) (e : Nat) : State :=
  match (s.eng e).move with
  | some m =>
    if m.phase = 1 then
      let bad := m.ctxs.filter (fun p => !s.poison.isEmpty && (List.range 128).any (fun i => s.badWord (leRec p.1 + 8 * i)))
      if !bad.isEmpty then s.each bad (fun s p => s.leStop p.1)
      else if m.ctxs.all (fun p => s.ctxEn p.1 && !s.ctxEn p.2) then
        let s := s.each m.ctxs (fun s p => s.moveOne p.1 p.2)
        s.setEng e { s.eng e with move := some { m with phase := 2 } }
      else s.moveEnd e 4 lSTATE
    else s
  | none => s

/-! ### The page -/

/-- CTRL.EN of a LEX page is cleared: refused while a context is enabled; it cancels moves not yet copied (R194, R214). -/
def State.leDisable (s : State) (e : Nat) : State :=
  if !(s.enabledOf e).isEmpty then s.refuse (LEX.page e) 0x0C lSTATE
  else (s.set (HDR.CTRL_EN (LEX.page e)) 0).moveCancel e

/-- Moves that have been copied to engine `e` and have not arrived end without their contexts: those hold their outputs'
claims there already, whose blocks wait for another holder (R214, R216). [assumption 252 (DEDUCED)] -/
def State.moveLost (s : State) (e : Nat) : State :=
  s.each ((List.range 16).filter (fun f => match (s.eng f).move with
    | some m => m.phase == 2 && m.eng == e
    | none => false)) (fun s f =>
      match (s.eng f).move with
      | some m =>
        let s := s.each m.ctxs (fun s p => (((s.leBlock p.2 false).leOrphan p.2).releaseAll 4 p.2).ctxClear p.1)
        s.moveEnd f 4 lSTATE
      | none => s)

/-- What re-initialisation of a LEX page does beyond its registers: the queue is dropped, the outputs its contexts fed
are blocked until another holder commits, and claims are released (R216). A move already copied from the engine goes on
to its boundary (R214). [assumption 252 (DEDUCED)] -/
def State.leReinit (s : State) (e : Nat) : Bool × State :=
  let drop := !(s.eng e).queue.isEmpty
  let s := (s.moveCancel e).moveLost e
  let m := (s.eng e).move
  let moved : List Nat := match m with | some m => m.ctxs.map (fun p => p.1) | none => []
  let s := s.each ((s.enabledOf e).filter (fun c => !moved.contains c)) (fun s c =>
    ((s.leBlock c false).leOrphan c).releaseAll 4 c)
  let s := s.each (ctxsOf e) (fun s c => s.setLectx c { doneAt := (s.lectx c).doneAt })
  (drop, s.setEng e { move := m })

/-- A host write to CTX_HOLD or HOLD_AUTO (R210, R519). -/
def State.ctxHoldWrite (s : State) (e mask : Nat) : State :=
  s.judge (LEX.page e) 0x48 [] (fun s => s.set (LEX.CTX_HOLD_HOLD e) mask)

/-- A write to CQ_ADDR pushes CQ_VAL (R209). -/
def State.cqPush (s : State) (e : Nat) (val : Word) : State :=
  let k := getBits val 0 4
  let g := s.eng e
  s.judge (LEX.page e) 0x58 [(decide (16 ≤ g.queue.length), lQFULL), (!s.ctxEn (16 * e + k), lSTATE)]
    (fun s => (s.setEng e { g with queue := g.queue ++ [(k, getBits val 4 6, s.reg (LEX.CQ_VAL e))] }).leRefresh e)

/-- A write to PROG or TBL of a context: no effect while it is enabled or scanned (R187, R193, R218). -/
def State.ctxRegWrite (s : State) (e ofs : Nat) (val : Word) : State :=
  let c := 16 * e + (ofs - 0x100) / 0x20
  let plen := getBits val 16 15
  s.judge (LEX.page e) ofs [((ofs - 0x100) % 0x20 == 0 && (plen == 0 || decide (0x7000 < plen)), eRANGE), (s.ctxEn c || (s.lectx c).scan.isSome, lCTX_BUSY)] (fun s => s.take .lex (LEX.page e) ofs val)

/-- A write to TEST (R215). [assumption 69 (DEDUCED)] -/
def State.testWrite (s : State) (e : Nat) (val : Word) : State :=
  if getBits val 0 1 = 0 then s
  else
    s.judge (LEX.page e) 0x7C
      [(!(s.enabledOf e).isEmpty || s.on (LEX.ENG_STAT_TESTING e) || s.on (LEX.ENG_STAT_MOVING e)
        || (ctxsOf e).any (fun c => (s.lectx c).scan.isSome), lSTATE)]
      (fun s => (s.set (LEX.ENG_STAT_TESTING e) 1).set (LEX.ENG_STAT_TEST_PASS e) 0)

/-- The self-test ends; a failed result is kept until the page is re-initialised (R215). -/
def State.testDone (s : State) (e : Nat) (pass : Bool) : State :=
  if s.on (LEX.ENG_STAT_TESTING e) then
    let s := s.set (LEX.ENG_STAT_TESTING e) 0
    let s := if s.on (LEX.ENG_STAT_TEST_FAIL e) then s
      else if pass then s.set (LEX.ENG_STAT_TEST_PASS e) 1 else s.set (LEX.ENG_STAT_TEST_FAIL e) 1
    s.irq (LEX.page e) 5
  else s

/-! ### Local memory as the host writes it (R187) -/

/-- The engine whose local memory an address lies in. -/
def leOfAddr (a : Nat) : Option Nat := if 0x30000000 ≤ a ∧ a < 0x30200000 then some ((a - 0x30000000) / 0x20000) else none

/-- A write of some bytes at `off` of an engine's memory touches a region the engine protects: the program region or
the record of a context that is enabled or scanned (R187, R193). -/
def State.leProtected (s : State) (e off n : Nat) : Bool :=
  (ctxsOf e).any (fun c => (s.ctxEn c || (s.lectx c).scan.isSome) &&
    ((decide (off < 4 * (s.ctxPC c + s.ctxPLEN c)) && decide (4 * s.ctxPC c < off + n))
      || (decide (off < 0x1C000 + 0x400 * (c % 16) + 0x400) && decide (0x1C000 + 0x400 * (c % 16) < off + n))))

/-- A write touches the table region of a context that is enabled, or still runs (R187, R194). -/
def State.leTable (s : State) (e off n : Nat) : Bool :=
  (ctxsOf e).any (fun c => (s.ctxEn c || (s.lectx c).live) &&
    decide (off < 4 * (s.ctxTBASE c + s.ctxTLEN c)) && decide (4 * s.ctxTBASE c < off + n))

/-- A bus write to an engine's local memory: refused with CTX_BUSY at OFS 0xFFF where protected; a table word written
in the loop-engine window waits for its close (R187). -/
def State.leMemWrite (s : State) (e a : Nat) (bs : List Byte) : State :=
  let off := a - leAddr e 0
  if s.leProtected e off bs.length then s.refuse (LEX.page e) 0xFFF lCTX_BUSY
  else if s.window == 1 && s.leTable e off bs.length then { s with le := { s.le with wait := s.le.wait ++ [(a, bs)] } }
  else s.unitWrite a bs

/-- The table writes that waited for the close of the window are made, as writes of the RAM controller (R187, R447, R451). -/
def State.leTableWrites (s : State) : State :=
  let w := s.le.wait
  ({ s with le := { s.le with wait := [] } }).each w (fun s p => s.unitWrite p.1 p.2)

/-! ### The commands -/

/-- CTX_ENABLE (R193). -/
def execCtxEnable (e : Fin 16) (mask : BitVec 16) (s : State) : Host.Outcome State Fault Refusal :=
  .next (s.ctxEnWrite e (s.get (LEX.CTX_EN_EN e) ||| mask.toNat))

/-- SCAN_COMPLETE (R191–R193): due when the scan ends. -/
def execScanComplete (e k : Fin 16) (s : State) : Host.Outcome State Fault Refusal :=
  .next (match (s.lectx (16 * e + k)).scan with
    | some t => (s.advance t).scanEnd (16 * e + k)
    | none => s)

/-- CTX_DISABLE (R194). -/
def execCtxDisable (e : Fin 16) (mask : BitVec 16) (s : State) : Host.Outcome State Fault Refusal :=
  .next (s.ctxEnWrite e (s.get (LEX.CTX_EN_EN e) &&& (0xFFFF ^^^ mask.toNat)))

/-- CTX_HOLD_SET (R210). -/
def execCtxHoldSet (e : Fin 16) (mask : BitVec 16) (s : State) : Host.Outcome State Fault Refusal :=
  .next (s.ctxHoldWrite e (s.get (LEX.CTX_HOLD_HOLD e) ||| mask.toNat))

/-- CTX_HOLD_CLEAR (R210). -/
def execCtxHoldClear (e : Fin 16) (mask : BitVec 16) (s : State) : Host.Outcome State Fault Refusal :=
  .next (s.ctxHoldWrite e (s.get (LEX.CTX_HOLD_HOLD e) &&& (0xFFFF ^^^ mask.toNat)))

/-- An idle engine begins the next context of the period (R188). -/
def State.leStart (s : State) (e : Nat) : State :=
  let g := s.eng e
  match g.run, g.todo with
  | none, c :: t => s.setEng e { g with run := some (s.newRun c), todo := t }
  | _, _ => s

/-- CONTEXT_START (R188): the engine, idle in the loop-engine window, starts the next context of the period. -/
def execContextStart (e : Fin 16) (s : State) : Host.Outcome State Fault Refusal :=
  .next (if s.window = 1 ∧ !s.leGated then s.leStart e else s)

/-- CQ_PUSH (R209). -/
def execCqPush (e : Fin 16) (val : Word) (s : State) : Host.Outcome State Fault Refusal := .next (s.cqPush e val)

/-- CTX_MOVE (R213). -/
def execCtxMove (e : Fin 16) (val : Word) (s : State) : Host.Outcome State Fault Refusal := .next (s.moveWrite e val)

/-- MOVE_CHECK_DONE (R214). [assumption 61 (DEDUCED)] -/
def execMoveCheckDone (e : Fin 16) (s : State) : Host.Outcome State Fault Refusal := .next (s.moveChecked e)

/-- ENGINE_TEST (R215). -/
def execEngineTest (e : Fin 16) (val : Word) (s : State) : Host.Outcome State Fault Refusal := .next (s.testWrite e val)

/-- ENGINE_TEST_DONE (R215). -/
def execEngineTestDone (e : Fin 16) (pass : Bool) (s : State) : Host.Outcome State Fault Refusal := .next (s.testDone e pass)

end Sys2Proof.Machine
end

