-- ==== Sys2Proof/Machine/Mcx.lean ====
section
/-! DEFINITION. Traction machine control and braking: compare values, angle sources, observer, machine states, the bus
ladder, K_REGEN and the choppers (R220–R258). Reals are exact but for square roots, arctangents and 2π, which are
taken to better than 10⁻¹², and are kept between steps as FP32 words, angles as INT angles (assumption log). -/

namespace Sys2Proof.Machine

abbrev xCARRIER : Nat := 0x40
abbrev xSTATE : Nat := 0x41
abbrev xSENSOR : Nat := 0x42
abbrev xEMF_HIGH : Nat := 0x43
abbrev xLATCHED : Nat := 0x44
abbrev xBOOT : Nat := 0x45
abbrev xRATIO : Nat := 0x46
abbrev xTHRESH : Nat := 0x47

abbrev cauCMD : Nat := 1
abbrev cauLOSS : Nat := 2
abbrev cauASC_V : Nat := 3
abbrev cauCHF : Nat := 4
abbrev cauOVSPD : Nat := 5
abbrev cauSENSOR : Nat := 6
abbrev cauCTX : Nat := 7
abbrev cauRGN : Nat := 8

/-! ### Real functions -/

/-- A square root, to 2⁻⁶⁴. [assumption 70 (DEDUCED)] -/
def sqrtR (x : Rat) : Rat := (isqrt (x * 340282366920938463463374607431768211456).floor.toNat : Nat) / 18446744073709551616

/-- √3, to 20 digits. -/
def sqrt3 : Rat := 17320508075688772935 / 10000000000000000000

/-- A rational cut to 2⁻⁶⁴. -/
def cut64 (x : Rat) : Rat := ((x * 18446744073709551616).floor : Rat) / 18446744073709551616

/-- The series of the arctangent: `t` is ±x^k. -/
def atanSum (x2 : Rat) : Nat → Nat → Rat → Rat
  | 0, _, _ => 0
  | n + 1, k, t => t / (k : Rat) + atanSum x2 n (k + 2) (-t * x2)

/-- The arctangent of z in 0 to 1, in turns, after two halvings of the angle. -/
def atan01 (z : Rat) : Rat :=
  let h := fun (z : Rat) => cut64 (z / (1 + sqrtR (1 + z * z)))
  let x := h (h (cut64 z))
  4 * atanSum (x * x) 12 1 x / twoPi

/-- atan2 in turns, −1/2 to 1/2; none where both arguments are 0. [assumption 70 (DEDUCED)] -/
def atan2T (y x : Rat) : Option Rat :=
  if x = 0 ∧ y = 0 then none
  else
    let ay := if y < 0 then -y else y
    let ax := if x < 0 then -x else x
    let q := if ay ≤ ax then atan01 (ay / ax) else 1 / 4 - atan01 (ax / ay)
    let q := if x < 0 then 1 / 2 - q else q
    some (if y < 0 then -q else q)

/-- The INT angle nearest an angle in turns. -/
def wordOfTurn (t : Rat) : Word := BitVec.ofInt 32 (roundAway (t * 4294967296))

/-- Seconds of a span of the clock. -/
def secs (n : Int) : Rat := (n : Rat) / 960000000000

def absR (x : Rat) : Rat := if x < 0 then -x else x

/-! ### The machines (R220) -/

/-- The machines of the topology; a six-phase machine is M0. -/
def State.machines (s : State) : List Nat :=
  match s.get MCX.CFG_TOPO with
  | 0 => []
  | 2 => [0, 1]
  | _ => [0]

def State.mm (s : State) (m : Nat) : McxM := if m = 0 then s.mcx.m0 else s.mcx.m1
def State.setMM (s : State) (m : Nat) (x : McxM) : State :=
  { s with mcx := if m = 0 then { s.mcx with m0 := x } else { s.mcx with m1 := x } }
def State.modMM (s : State) (m : Nat) (f : McxM → McxM) : State := s.setMM m (f (s.mm m))

def State.mEn (s : State) (m : Nat) : Bool := s.on (MCX.M_CFG_EN m)
def State.mState (s : State) (m : Nat) : Nat := s.get (MCX.M_STAT_STATE m)
/-- The machine is in RUN or EXTRAP. -/
def State.mRuns (s : State) (m : Nat) : Bool := s.mState m == mRUN || s.mState m == mEXTRAP

/-- Put a machine into a state; set B follows M0 (R220). -/
def State.setMState (s : State) (m st : Nat) : State :=
  (s.set (MCX.M_STAT_STATE m) st).iff (s.get MCX.CFG_TOPO == 3) (fun s => s.set (MCX.M_STAT_STATE 1) st)

/-- HDIV: code 0 stands for 16 (R222). -/
def State.mHdiv (s : State) (m : Nat) : Nat := let h := s.get (MCX.M_CFG_HDIV m); if h = 0 then 16 else h

/-- PRD of a carrier whose half is `h` periods, in ticks (R222). -/
def State.prdOf (s : State) (h : Nat) : Nat := h * s.tc / tTick
def mcxPrdOk (p : Nat) : Bool := decide (4000 ≤ p) && decide (p ≤ 200000)

/-- Boundaries since the epoch of station time: the carriers' valleys and peaks count from there (R108, R222). -/
def State.bndCount (s : State) : Nat := (((s.bndAt : Int) - s.epochAt) / (s.tc : Int)).toNat

/-- The boundary `k` periods on is a reload boundary of machine `m` (R222). -/
def State.isReload (s : State) (m k : Nat) : Bool := (s.bndCount + k) % s.mHdiv m == 0

/-- A published MCX item, by item and unit (R252). -/
def State.mcxOut (s : State) (it u : Nat) : Rat := f32Rat (s.pub 7 (4 * it + u))

/-! ### Legs -/

/-- MCX sets a leg up for its carrier (R222, R247). -/
def State.mcxLegSetup (s : State) (k prd : Nat) : State :=
  ((s.setReg (LPW.CFG k) (putBits (putBits (s.reg (LPW.CFG k)) 4 2 3) 6 1 1)).set (LPW.PHASE_PHASE k) 0).set (LPW.PRD_PRD k) prd

/-- A new shadow of a leg, brought up to the present tick first. -/
def State.mcxShadow (s : State) (k : Nat) (f : State → State) : State :=
  let s := f (s.legSync k)
  s.putLeg k (s.chan (96 + k))

def State.mcxCmp (s : State) (k c : Nat) : State := s.mcxShadow k (fun s => s.set (LPW.CMP_CMP k) c)
/-- A mode taken at the leg's next reload event (R124). -/
def State.mcxMode (s : State) (k md : Nat) : State := s.mcxShadow k (fun s => s.set (LPW.CFG_MODE k) md)
/-- A mode in force at once: the states of precharge, each of which stands for 25 µs (R236).
[assumption 73 (DESIGN CHOICE)] -/
def State.mcxModeNow (s : State) (k md : Nat) : State :=
  let s := (s.legSync k).set (LPW.CFG_MODE k) md
  let c := s.chan (96 + k)
  (s.putLeg k { c with act := { c.act with mode := md } }).refreshLegs

/-- The machine goes to OFF: its legs take MODE OFF at their next reload event, the sensor that serves it is usable again, its
primary source in use (R124, R229, R234, R236). [assumption 74 (DEDUCED)] -/
def State.machOff (s : State) (m : Nat) : State :=
  let s := s.each (s.machLegs m) (fun s k => if s.mState m == mPRECHG then s.mcxModeNow k 0 else s.mcxMode k 0)
  let s := s.modMM m (fun x => { x with sensOut := false, fb := false, delta := 0, j := 0, cmd := 0 })
  let s := (s.set (MCX.M_STAT_SENS_FLT m) 0).set (MCX.M_STAT_SRC_FB m) 0
  let s := s.iff (s.get MCX.RSV_CFG_MACH == m) (fun s => s.set MCX.SNS_STAT_RSV_FLT 0)
  let s := s.iff (s.get MCX.ENC_CFG_MACH == m) (fun s => (s.set MCX.SNS_STAT_ENC_ILL 0).set MCX.SNS_STAT_ZERR 0)
  ((s.set (MCX.M_STAT_USED m) (s.get (MCX.M_CFG_SRC m))).setMState m mOFF).mcxSource

/-! ### Angle sources (R229–R232) -/

/-- The speed the encoder gives, electrical rad/s, without PP: turns per second of the shaft's count (R231). -/
def State.encRate (s : State) : Rat :=
  let x := s.mcx
  if x.encSpd && x.edge2 < x.edge1 then (x.encDir : Rat) / secs ((x.edge1 : Int) - x.edge2) else 0

/-- The count with its interpolation at an instant, by at most one count (R231). -/
def State.encPos (s : State) (t : Nat) : Rat :=
  ((s.reg MCX.ENC_CNT).toInt : Rat) + clampR (-1) 1 (s.encRate * secs ((t : Int) - s.mcx.edge1))

/-- Electrical turns per count. -/
def State.encRatio (s : State) (m : Nat) : Rat :=
  let l := s.get MCX.ENC_CFG_LINES
  if l = 0 then 0 else (s.get (MCX.M_CFG_PP m) : Rat) / ((4 * l : Nat) : Rat)

/-- Electrical over resolver pole pairs (R230). -/
def State.rsvRatio (s : State) (m : Nat) : Nat :=
  let r := s.get MCX.RSV_CFG_RPP
  if r = 0 then 0 else s.get (MCX.M_CFG_PP m) / r

/-- The resolver and the encoder each serve the machine their MACH field names (R229). -/
def State.served (s : State) (m src : Nat) : Bool :=
  match src with
  | 0 => s.get MCX.RSV_CFG_MACH == m
  | 1 => s.get MCX.ENC_CFG_MACH == m
  | _ => true

/-- The angle of a source at an instant: 0 resolver, 1 encoder, 2 open loop, 3 observer. [assumption 77 (DESIGN CHOICE)] -/
def State.srcAngle (s : State) (m src t : Nat) : Word :=
  let x := s.mm m
  if !s.served m src then Config.unservedAngle m t else
  match src with
  | 0 =>
    let on_ := if Config.rsvMoves then wordOfTurn (f32Val s.mcx.rsW * secs ((t : Int) - s.mcx.rsAt) / twoPi) else 0
    (s.mcx.rsTh + on_) * BitVec.ofNat 32 (s.rsvRatio m) + s.reg (MCX.M_OFFS m)
  | 1 => wordOfTurn (s.encPos t * s.encRatio m) + s.reg (MCX.M_OFFS m)
  | 2 => x.olTh
  | _ => x.obTh + wordOfTurn (f32Val x.obW * secs ((t : Int) - x.obAt) / twoPi)

/-- The speed of a source, rad/s. [assumption 77 (DESIGN CHOICE)] -/
def State.srcSpeed (s : State) (m src : Nat) : Rat :=
  if !s.served m src then Config.unservedSpeed m s.now else
  match src with
  | 0 => f32Val s.mcx.rsW * (s.rsvRatio m : Rat)
  | 1 => s.encRate * s.encRatio m * twoPi
  | 2 => f32Val (s.mm m).olW
  | _ => f32Val (s.mm m).obW

/-- ANG_NB limited as R208 limits NB. -/
def State.angNB (s : State) (m : Nat) : Nat := min 64 (s.get (MCX.M_OBS_ANG_NB m))

/-- The angle in use at an instant: extrapolated after a loss, or the source in use with the difference still to be
released (R229, R234, R242). -/
def State.angleInUse (s : State) (m t : Nat) : Word :=
  let x := s.mm m
  if s.mState m == mEXTRAP then x.lossTh + wordOfTurn (f32Val x.lossW * secs ((t : Int) - x.lossAt) / twoPi)
  else
    let nb := s.angNB m
    let j := min x.j nb
    let d := if j = 0 then 0 else BitVec.ofInt 32 (roundAway ((x.delta.toInt * j : Int) / (nb : Rat)))
    s.srcAngle m (s.get (MCX.M_STAT_USED m)) t + d

/-- The speed of the angle in use. -/
def State.speedInUse (s : State) (m : Nat) : Rat :=
  if s.mState m == mEXTRAP then f32Val (s.mm m).lossW else s.srcSpeed m (s.get (MCX.M_STAT_USED m))

def State.rsvValid (s : State) (m : Nat) : Bool :=
  s.on MCX.RSV_CFG_EN && s.get MCX.RSV_CFG_MACH == m && s.mcx.rsSeen && !s.on MCX.SNS_STAT_RSV_FLT
def State.encValid (s : State) (m : Nat) : Bool :=
  s.on MCX.ENC_CFG_EN && s.get MCX.ENC_CFG_MACH == m && s.mcx.encRef && !s.on MCX.SNS_STAT_ENC_ILL && !s.on MCX.SNS_STAT_ZERR

/-- The primary source's angle is valid (R229, R237). -/
def State.primaryValid (s : State) (m : Nat) : Bool :=
  match s.get (MCX.M_CFG_SRC m) with
  | 0 => s.rsvValid m && !(s.mm m).sensOut
  | 1 => s.encValid m && !(s.mm m).sensOut
  | _ => true

/-- The speed of a valid sensor of the machine, if there is one, its primary source before the other; a primary source
that has faulted is out of use (R234, R238). [assumption 74 (DEDUCED)] -/
def State.sensorSpeed (s : State) (m : Nat) : Option Rat :=
  let p := s.get (MCX.M_CFG_SRC m)
  let rsv := s.rsvValid m && !(p == 0 && (s.mm m).sensOut)
  let enc := s.encValid m && !(p == 1 && (s.mm m).sensOut)
  if enc && (p == 1 || !rsv) then some (s.srcSpeed m 1) else if rsv then some (s.srcSpeed m 0) else none

/-- W_OBS in rad/s (R229). -/
def State.wObs (s : State) (m : Nat) : Rat := ((s.get (MCX.M_SPD_W_RATED m) * s.get (MCX.M_SPD_W_OBS m) : Nat) : Rat) / 1000

/-- The observer is valid (R229). -/
def State.obsValid (s : State) (m : Nat) : Bool :=
  let x := s.mm m
  decide (s.wObs m ≤ absR (f32Val x.obW)) && decide (f32Val x.res < (s.get (MCX.M_LOSS_RES_LOSS m) : Rat) / 1000)

/-- The source in use changes, its difference added at once or released over ANG_NB steps (R208, R234).
[assumption 74 (DEDUCED)] -/
def State.changeSrc (s : State) (m src : Nat) : State :=
  let d := s.angleInUse m s.bndAt - s.srcAngle m src s.bndAt
  let dis := 65536 * s.get (MCX.M_ADV_ANG_DIS m)
  let nb := s.angNB m
  let small := nb == 0 || decide (d.toInt.natAbs ≤ dis)
  (s.modMM m (fun x => { x with delta := if small then 0 else d, j := if small then 0 else nb })).set (MCX.M_STAT_USED m) src

/-! ### The safe-state decision (R238) -/

/-- ψ as a real. -/
def State.psi (s : State) (m : Nat) : Rat := f32Val (s.reg (MCX.M_PSI m))

/-- E_LL² for a speed: (√3 ω ψ)². -/
def State.ell2 (s : State) (m : Nat) (w : Rat) : Rat := 3 * (w * s.psi m) * (w * s.psi m)

/-- E_LL ≥ ASC_RATIO × V_bus (R237, R238). -/
def State.emfOver (s : State) (m : Nat) (w : Rat) : Bool :=
  let v := (s.get MCX.SAFE_ASC_RATIO : Rat) / 1000 * ((s.mcx.vbus : Rat) / 10)
  decide (v ≤ 0) || decide (v * v ≤ s.ell2 m w)

/-- The decision is for ASC: E_LL ≥ ASC_RATIO × V_bus, or V_bus stale (R238). -/
def State.emfHigh (s : State) (m : Nat) (w : Rat) : Bool := s.on MCX.STAT_VBUS_STALE || s.emfOver m w

/-- The speed the decision takes: of a valid sensor, otherwise the last of the angle in use. -/
def State.decSpeed (s : State) (m : Nat) : Rat :=
  (s.sensorSpeed m).getD (if s.mState m == mEXTRAP then f32Val (s.mm m).lossW else f32Val (s.mm m).wK)

/-- E_LL, and its field in 0.1 V (R238, R251, R255). -/
def State.ellReg (s : State) (m : Nat) (w : Rat) : State :=
  let e := sqrtR (s.ell2 m w)
  (s.modMM m (fun x => { x with ell := toF32 e })).set (MCX.M_RES_ELL m) (min 0xFFFF (roundAway (e * 10)).toNat)

/-- The safe-state decision of a machine, with its cause (R238, R239). -/
def State.safeDecision (s : State) (m cause : Nat) : State :=
  let w := s.decSpeed m
  let asc := s.emfHigh m w
  let s := ((s.ellReg m w).setB (MCX.M_STAT_ASC_DEC m) asc).modMM m (fun x => { x with cmd := 0, delta := 0, j := 0, fb := false })
  s.machSafe m (if asc then mASC else mINHIBIT) cause

/-- The decision for every machine in RUN or EXTRAP. -/
def State.decideAll (s : State) (cause : Nat) : State :=
  s.each (s.machines.filter s.mRuns) (fun s m => s.safeDecision m cause)

/-- LOSS is detected (R241, R242). -/
def State.lossDetect (s : State) (m : Nat) : State :=
  let x := s.mm m
  if s.mState m == mRUN && decide (s.get (MCX.M_OBS_N_LOSS m) ≤ x.lossN) then
    let th := x.thK + wordOfTurn (f32Val x.wK * secs ((s.now : Int) - s.bndAt) / twoPi)
    let s := s.setMM m { x with lossAt := s.now, lossTh := th, lossW := x.wK, obTh := th, obW := x.wK, obAt := s.now, acqN := 0, lossN := 0, delta := 0, j := 0 }
    (s.setMState m mEXTRAP).irq MCX.page 0
  else s

/-- A sensor of machine `m` faults: SENS_FLT, and R234 where it is the source in use, the change to the observer at the next
reload boundary, as the example of R492 shows; a loss due in the same step comes
first (R253). [assumption 74 (DEDUCED)] -/
def State.sensFault (s : State) (m src : Nat) : State :=
  let s := (s.set (MCX.M_STAT_SENS_FLT m) 1).irq MCX.page 3
  if s.get (MCX.M_CFG_SRC m) == src then
    let s := (s.modMM m (fun x => { x with sensOut := true })).lossDetect m
    if (s.mState m == mRUN || s.mState m == mPRECHG) && s.get (MCX.M_STAT_USED m) == src then
      if s.on (MCX.M_CFG_SL_FB m) && s.obsValid m then
        s.modMM m (fun x => { x with fb := true })
      else s.safeDecision m cauSENSOR
    else s
  else s

/-! ### Modulation (R224–R226) -/

/-- The reset content of a sine bank. -/
def sineDefault (k : Nat) : Int := roundAway (131071 * (sinCosTurn ((k % 1024 : Nat) / 1024)).1)

/-- An entry of a bank. -/
def State.sineAt (s : State) (bank i : Nat) : Int := SMap.get sineDefault s.mcx.sine (1024 * bank + i % 1024)

/-- The interpolated table value at an INT angle, as an integer of the table (R225). -/
def State.sine (s : State) (th : Word) : Int :=
  let b := s.get MCX.CFG_BANK
  let i := getBits th 22 10
  let a := s.sineAt b i
  a + roundAway (((getBits th 0 22 : Int) * (s.sineAt b (i + 1) - a) : Int) / (4194304 : Rat))

/-- The phase advance δ in turns; the position is free where W_ADV_MAX and the speed are both 0 (R226).
[assumption 82 (DESIGN CHOICE)] -/
def State.advance2 (s : State) (m : Nat) (w : Rat) : Rat × State :=
  let mx := s.get (MCX.M_ADV_W_ADV_MAX m)
  let (f, s) := if mx = 0 then
      (if w = 0 then (let (i, s) := s.free; (clampR 0 63 (Config.freeRat i), s)) else ((63 : Rat), s))
    else (clampR 0 63 (absR w * 63 / (mx : Rat)), s)
  let i := f.floor.toNat
  let at_ := fun (i : Nat) => (SMap.get (fun _ => 0) s.mcx.adv (64 * m + min i 63) : Int)
  let d := (at_ i : Rat) + (f - (i : Rat)) * ((at_ (i + 1) - at_ i : Int) : Rat)
  ((sgnR w : Rat) * d / 65536, s)

/-- The compare values of three legs for a vector command, and the voltage applied after the limit (R224). `ph` is the
displacement of the set, in turns. [assumption 82 (DESIGN CHOICE)] -/
def State.threePhase (s : State) (m : Nat) (legs : List Nat) (u : Nat) (ph tm : Rat) : State × (Word × Word) :=
  let vd := s.mcxOut 0 u
  let vq := s.mcxOut 1 u
  let vb := (s.mcx.vbus : Rat) / 20
  let v := sqrtR (vd * vd + vq * vq)
  let (mod, s) := if vb = 0 ∧ v = 0 then (let (i, s) := s.free; (clampR 0 1 (Config.freeRat i), s))
    else if vb ≤ 0 ∨ vb ≤ v then ((1 : Rat), s) else (v / vb, s)
  let limited := decide (vb < v)
  let (dl, s) := if s.on (MCX.M_CFG_ADV_EN m) then s.advance2 m (f32Val (s.mm m).wK) else (0, s)
  let thv := tm + (atan2T vq vd).getD 0 + dl + ph
  let prd := s.get (LPW.PRD_PRD (legs.getD 0 0))
  let s := s.each legs.zipIdx (fun s p =>
    let x := s.sine (wordOfTurn (thv + 1 / 4 - (p.2 : Rat) / 3))
    let c := roundAway (16 * (prd : Rat) * (1 + mod * ((x : Rat) / 131071)) / 2)
    s.mcxCmp p.1 (min 4194303 (max 0 c).toNat))
  let s := s.iff limited (fun s => (s.set (MCX.M_STAT_OVM m) 1).irq MCX.page 10)
  let k := if limited && v ≠ 0 then mod * vb / v else 1
  (s, (toF32 (vd * k), toF32 (vq * k)))

/-- The displacement of set B, in turns (R224, R254). -/
def State.ph6 (s : State) : Rat := (s.get MCX.CFG_PH6 : Rat) / 65536

/-- 1.0 µs before a reload boundary the compare values of the next half carrier are written (R223, R224). -/
def State.mcxCompare (s : State) (m : Nat) : State :=
  if s.isl && s.machines.contains m && s.mEn m && s.isReload m 1 && s.mRuns m then
    let s := s.advance (s.bndAt + s.tc - tUs)
    let x := s.mm m
    let half := s.mHdiv m * s.tc
    let tm := turnOf x.thK + f32Val x.wK * secs (s.tc + half / 2 : Nat) / twoPi
    let s := s.set (MCX.M_STAT_OVM m) 0
    let (s, v) := s.threePhase m ((s.machLegs m).take 3) m 0 tm
    let s := if s.get MCX.CFG_TOPO == 3 then
        let (s, v) := s.threePhase m ((s.machLegs m).drop 3) 1 (s.ph6 : Rat) tm
        s.modMM 1 (fun x => { x with vNext := v })
      else s
    s.modMM m (fun x => { x with vNext := v })
  else s

/-! ### The boundary (R223, R232) -/

/-- A machine at a boundary: a change to the observer that waits is made, the open-loop angle advances, angle and speed latch, and at a reload boundary the prepared
voltages of its sets become the applied ones (R220, R232–R234). -/
def State.machBoundary (s : State) (m : Nat) : State :=
  let s := s.iff ((s.mm m).fb && s.isReload m 0) (fun s =>
    (((s.modMM m (fun x => { x with fb := false })).set (MCX.M_STAT_SRC_FB m) 1).irq MCX.page 4).changeSrc m 3)
  let s := s.iff (s.get (MCX.M_CFG_SRC m) == 2 && s.mRuns m) (fun s => s.modMM m (fun x =>
    { x with olTh := x.olTh + wordOfTurn (s.mcxOut 2 m * secs s.tc / twoPi), olW := toF32 (s.mcxOut 2 m) }))
  let th := s.angleInUse m s.bndAt
  let w := toF32 (s.speedInUse m)
  let s := s.modMM m (fun x => { x with thK := th, wK := w })
  let s := (s.setReg (MCX.M_ANG m) th).setReg (MCX.M_OMEGA m) w
  if s.isReload m 0 then
    let run := s.mRuns m
    let shift := fun (x : McxM) => { x with vEnd := x.vCur, vCur := if run then x.vNext else (0, 0) }
    let s := s.iff (s.get MCX.CFG_TOPO == 3) (fun s => s.modMM 1 shift)
    s.modMM m (fun x => { shift x with thR := th, wR := w })
  else s

/-- The context that owns a machine's VD and VQ, if one does. -/
def State.machOwner (s : State) (m : Nat) : Option Nat :=
  let a := s.claim (resKey 8 m)
  let b := s.claim (resKey 8 (4 + m))
  if a.cls == 4 && b.cls == 4 && a.inst == b.inst then some a.inst else none

/-- MCX at a boundary: a swap of the sine banks, the count of R240 for the period that ended, and the machines. -/
def State.mcxBoundary (s : State) : State :=
  if s.isl then
    let s := s.iff (s.on MCX.CFG_SWAP) (fun s => (s.set MCX.CFG_BANK (1 - s.get MCX.CFG_BANK)).set MCX.CFG_SWAP 0)
    s.each (s.machines.filter s.mEn) (fun s m =>
      let done := match s.machOwner m with
        | some c => (s.lectx c).doneAt == s.pidx
        | none => false
      (s.modMM m (fun x => { x with miss := if done then 0 else x.miss + 1 })).machBoundary m)
  else s

/-! ### The observer (R233, R241) -/

/-- A phase current sampled at this reload boundary, in amperes; none where it is missing or invalid (R228). -/
def State.phaseCur (s : State) (m ai : Nat) : Option Rat :=
  match SMap.look s.aiBnd ai with
  | some (t, some c) => if t == s.bndAt + 1 then some ((c : Rat) * f32Val (s.reg (MCX.M_ISCALE m))) else none
  | _ => none

/-- The currents of two phases in the frame of an angle in turns, d then q (R206, R228). -/
def dqOf (iu iv th : Rat) : Rat × Rat :=
  let (sn, cs) := sinCosTurn th
  let ib := (iu + 2 * iv) / sqrt3
  (iu * cs + ib * sn, ib * cs - iu * sn)

/-- The power 1.5 (v_d i_d + v_q i_q) of a set's applied voltage and its currents (R246). -/
def dqPower (v : Word × Word) (i : Rat × Rat) : Rat := 3 / 2 * (f32Val v.1 * i.1 + f32Val v.2 * i.2)

/-- Set B of a six-phase machine at a reload boundary: its currents in its displaced frame and its share of p; p of the
machine is that of both sets (R220, R228, R246). [assumption 260 (DEDUCED)] -/
def State.setBStep (s : State) (iu iv : Rat) : State :=
  let y := s.mm 1
  let i := dqOf iu iv (turnOf (s.mm 0).thK + s.ph6)
  let p := dqPower y.vEnd i
  (s.setMM 1 { y with id := toF32 i.1, iq := toF32 i.2, pw := toF32 p }).modMM 0 (fun x => { x with pw := toF32 (f32Val x.pw + p) })

/-- One observer step (R233), the counts of R241 and R242, and the currents of the boundary.
[assumptions 82 (DESIGN CHOICE); 84 (DEDUCED)] -/
def State.obsStep (s : State) (m : Nat) (iu iv : Rat) : State :=
  let x := s.mm m
  let (id, iq) := dqOf iu iv (turnOf x.thK)
  let w := f32Val x.wK
  let dt := secs (s.mHdiv m * s.tc : Nat)
  let r := f32Val (s.reg (MCX.M_R m))
  let ld := f32Val (s.reg (MCX.M_LD m))
  let lq := f32Val (s.reg (MCX.M_LQ m))
  let vd := f32Val x.vEnd.1
  let vq := f32Val x.vEnd.2
  let e1 := vd - r * id - ld * (id - f32Val x.id) / dt + w * lq * iq
  let e2 := vq - r * iq - lq * (iq - f32Val x.iq) / dt - w * ld * id
  let al := (s.get (MCX.M_OBS_EMF_ALPHA m) : Rat) / 256
  let ed := f32Val x.ed + al * (e1 - f32Val x.ed)
  let eq := f32Val x.eq + al * (e2 - f32Val x.eq)
  let (i, s1) := s.free
  let (ep, s) := match atan2T (-ed) (eq * (sgnR w : Rat)) with
    | some t => (t * twoPi, s)
    | none => (clampR (-twoPi / 2) (twoPi / 2) (Config.freeRat i), s1)
  let ow := f32Val x.obW + f32Val (s.reg (MCX.M_PLL_KI m)) * ep
  let th := x.obTh + wordOfTurn ((ow * dt + f32Val (s.reg (MCX.M_PLL_KP m)) * ep) / twoPi)
  let psi := s.psi m
  let fast := decide (s.wObs m ≤ absR w)
  let den := absR w * psi
  let (j, s2) := s.free
  let (res, s) := if !fast then ((0 : Word), s)
    else if den = 0 then (Config.freeWord j &&& 0x7FFFFFFF, s2)
    else (toF32 (sqrtR (ed * ed + (eq - w * psi) * (eq - w * psi)) / den), s)
  let lim := (s.get (MCX.M_LOSS_RES_LOSS m) : Rat) / 1000
  let s := s.setMM m { x with
    obTh := th, obW := toF32 ow, obAt := s.bndAt, ed := toF32 ed, eq := toF32 eq, id := toF32 id, iq := toF32 iq, res := res,
    pw := toF32 (dqPower x.vEnd (id, iq)),
    lossN := if fast && decide (lim < f32Val res) then x.lossN + 1 else 0,
    acqN := if f32Val res ≤ lim / 2 then x.acqN + 1 else 0,
    j := x.j - 1 }
  let s := s.modMM m (fun x => { x with valN := if s.obsValid m then x.valN + 1 else 0 })
  s.set (MCX.M_RES_RES m) (min 0xFFFF (roundAway (f32Val res * 1000)).toNat)

/-- The changes of source that follow an observer step with the open-loop source (R234). -/
def State.obsSource (s : State) (m : Nat) : State :=
  if s.get (MCX.M_CFG_SRC m) == 2 && s.mState m == mRUN then
    let u := s.get (MCX.M_STAT_USED m)
    if u == 2 && decide (s.get (MCX.M_OBS_N_ACQ m) ≤ (s.mm m).valN) then s.changeSrc m 3
    else if u == 3 && decide (absR (f32Val (s.mm m).obW) < 3 / 4 * s.wObs m) then s.changeSrc m 2
    else s
  else s

/-- The currents of a block's two sensors (R220, R228). -/
def State.blockCur (s : State) (m : Nat) : Option (Rat × Rat) :=
  match s.phaseCur m (s.get (MCX.M_CFG_IU_AI m)), s.phaseCur m (s.get (MCX.M_CFG_IV_AI m)) with
  | some iu, some iv => some (iu, iv)
  | _, _ => none

/-- A machine at the evaluation instant: the observer at a reload boundary, unless a current of one of its sets is
missing, OVSPD in any state, which leaves a machine that is where the decision sends it as it is, and the counts of R237 (R235).
[assumptions 74, 84, 260 (DEDUCED); 82 (DESIGN CHOICE)] -/
def State.machEval (s : State) (m : Nat) : State :=
  let six := s.get MCX.CFG_TOPO == 3
  let s := if s.isReload m 0 then
      match s.blockCur m, if six then s.blockCur 1 else some (0, 0) with
      | some a, some b =>
        let s := (s.set (MCX.M_STAT_STALE m) 0).obsStep m a.1 a.2
        (s.iff six (fun s => s.setBStep b.1 b.2)).obsSource m
      | _, _ => s.set (MCX.M_STAT_STALE m) 1
    else s
  let s := s.ellReg m (s.decSpeed m)
  let x := s.mm m
  let lim := (s.get (MCX.M_ASCX_I_ASC_EXIT m) : Rat) / 10
  let low := fun (x : McxM) => decide (f32Val x.id * f32Val x.id + f32Val x.iq * f32Val x.iq < lim * lim)
  let s := s.setMM m { x with iLow := if low x && (!six || low (s.mm 1)) then x.iLow + 1 else 0 }
  let w := s.speedInUse m
  if (s.mState m == mEXTRAP || s.served m (s.get (MCX.M_STAT_USED m))) && decide (twoPi * 1200 < absR w) then
    let s := (s.set (MCX.M_STAT_OVSPD m) 1).irq MCX.page 11
    if s.mState m == (if s.emfHigh m (s.decSpeed m) then mASC else mINHIBIT) then s else s.safeDecision m cauOVSPD
  else s

/-! ### Commands of a machine (R237) -/

/-- The machine's islands report bootstrap undervoltage (R237). -/
def State.bootUv (s : State) (m : Nat) : Bool := (s.machLegs m).any (fun k => !s.on (LEG.STAT_BST_OK k))

/-- A latch covers a leg of the machine; one of DBG or CLK covers every output (R126, R237). -/
def State.machLatched (s : State) (m : Nat) : Bool :=
  (s.machLegs m).any (fun k => (s.hizLegs ||| s.ascLegs).testBit k) || s.latches.any (fun l => l.src == 13 || l.src == 14)

/-- CLEAR from ASC is barred (R237): with the open-loop source and no valid sensor by the current, otherwise by E_LL. -/
def State.ascHeld (s : State) (m : Nat) : Bool :=
  s.mState m == mASC &&
    (if s.get (MCX.M_CFG_SRC m) == 2 && (s.sensorSpeed m).isNone then decide ((s.mm m).iLow < 40) else s.emfOver m (s.decSpeed m))

/-- The states in which a command is accepted (R237). -/
def machOpStates (op : Nat) : List Nat :=
  match op with
  | 1 => [mOFF]
  | 2 => [mPRECHG, mRUN, mEXTRAP]
  | 3 => [mRUN, mEXTRAP, mINHIBIT]
  | 4 => [mRUN, mEXTRAP, mASC]
  | _ => [mASC, mINHIBIT]

/-- A write to Mm_CMD: judged at once, acting at the next evaluation instant (R237). -/
def State.machCmd (s : State) (m op : Nat) : State :=
  let ofs := 0x108 + 0x80 * m
  let slow := decide (absR (s.speedInUse m) * 100 < (s.get (MCX.M_SPD_W_RATED m) : Rat))
  if op = 0 || !s.isl then s
  else s.judge MCX.page ofs
    ([(decide (6 ≤ op), eRANGE),
      (!(s.machines.contains m && s.mEn m) || !(machOpStates op).contains (s.mState m), xSTATE)]
     ++ (if op = 1 then
          [(!s.armed, eARMED), (!s.primaryValid m, xSENSOR), (s.bootUv m && !slow, xBOOT), (s.machLatched m, xLATCHED),
           ((s.machOwner m).isNone, xSTATE)]
        else if op = 5 then [(s.ascHeld m, xEMF_HIGH)] else []))
    (fun s => s.modMM m (fun x => { x with cmd := op }))

/-- The machine enters RUN on its primary source, or, where that faulted in precharge, on the observer; open loop from
angle and speed 0 (R232, R234, R236). [assumptions 72, 74 (DEDUCED); 73 (DESIGN CHOICE)] -/
def State.machRunNow (s : State) (m : Nat) : State :=
  let src := s.get (MCX.M_CFG_SRC m)
  let s := s.modMM m (fun x =>
    let x := { x with delta := 0, j := 0, lossN := 0, acqN := 0, valN := 0, miss := 0 }
    if src == 2 then { x with olTh := 0, olW := 0, thK := 0, wK := 0 } else x)
  let s := (s.iff (!(s.mm m).sensOut) (fun s => s.set (MCX.M_STAT_USED m) src)).setMState m mRUN
  s.each (s.machLegs m) (fun s k => s.mcxMode k 1)

/-- Precharge drives the low switch of leg `i` of the machine alone; set B is charged with set A (R236).
[assumption 73 (DESIGN CHOICE)] -/
def State.prechgLeg (s : State) (m i : Nat) : State :=
  s.each (s.machLegs m).zipIdx (fun s p => s.mcxModeNow p.1 (if p.2 % 3 == i then 5 else 0))

/-- A pending command acts at the evaluation instant, where its state still accepts it (R237).
[assumption 73 (DESIGN CHOICE)] -/
def State.machAct (s : State) (m : Nat) : State :=
  let op := (s.mm m).cmd
  let s := s.modMM m (fun x => { x with cmd := 0 })
  if op != 0 && (machOpStates op).contains (s.mState m) then
    match op with
    | 1 =>
      if !s.armed then s
      else
        let s := s.setReg (MCX.M_STAT m) (s.reg (MCX.M_STAT m) &&& 0xFFFF001F)
        if s.bootUv m then
          ((s.modMM m (fun x => { x with pre := 0, preAt := s.now })).setMState m mPRECHG).prechgLeg m 0
        else s.machRunNow m
    | 2 => s.machOff m
    | 3 => (s.modMM m (fun x => { x with delta := 0, j := 0 })).machSafe m mASC cauCMD
    | 4 => (s.modMM m (fun x => { x with delta := 0, j := 0 })).machSafe m mINHIBIT cauCMD
    | _ => s.machOff m
  else s

/-- 25 µs of a leg's precharge have run: the next leg, then RUN (R236). -/
def State.prechgStep (s : State) (m : Nat) : State :=
  if s.mState m == mPRECHG then
    let x := s.mm m
    let s := s.advance (x.preAt + 25 * tUs)
    if x.pre < 2 then (s.setMM m { x with pre := x.pre + 1, preAt := s.now }).prechgLeg m (x.pre + 1)
    else s.machRunNow m
  else s

/-! ### The bus (R243–R246) -/

/-- A threshold field in volts. [assumption 71 (DEDUCED)] -/
def voltR (s : State) (f : Fld) : Rat := (s.get f : Rat) / 10

/-- The thresholds stand in the order R244 asks. -/
def State.threshOk (s : State) : Bool :=
  decide (s.get MCX.BUS_V0_CH_OFF < s.get MCX.BUS_V0_CH_ON) && decide (s.get MCX.BUS_V0_CH_ON < s.get MCX.BUS_V1_CH_FULL)
    && decide (s.get MCX.BUS_V1_CH_FULL ≤ s.get MCX.BUS_V1_RGN_V) && decide (s.get MCX.BUS_V1_RGN_V < s.get MCX.BUS_V2_ASC_V)
    && decide (0 < s.get MCX.BUS_V2_BUS_HYS)

/-- V_bus from the latest valid result, and its staleness (R243). -/
def State.vbusTake (s : State) : State :=
  let ai := s.get MCX.BUS_CFG_VBUS_AI
  let at_ := SMap.get (fun _ => 0) s.aiValAt ai
  let x := s.mcx
  let miss := if at_ == x.vbSeen then min 2 (x.vbMiss + 1) else 0
  let v := (SMap.get (fun _ => none) s.aiLast ai).getD x.vbus
  let s := { s with mcx := { x with vbus := v, vbSeen := at_, vbMiss := miss } }
  (s.setB MCX.STAT_VBUS_STALE (miss == 2)).set MCX.VBUS_V (min 0xFFFF v.toNat)

/-- Count evaluations beyond each threshold (R243). -/
def State.busCounts (s : State) : State :=
  let x := s.mcx
  let v := x.vbus
  let n := fun (b : Bool) (k : Nat) => if b then min 7 (k + 1) else 0
  { s with mcx := { x with
    cOn := n (decide ((s.get MCX.BUS_V0_CH_ON : Int) ≤ v)) x.cOn,
    cOff := n (decide (v < (s.get MCX.BUS_V0_CH_OFF : Int))) x.cOff,
    cRgn := n (decide ((s.get MCX.BUS_V1_RGN_V : Int) ≤ v)) x.cRgn,
    cHys := n (decide (v < (s.get MCX.BUS_V1_RGN_V : Int) - s.get MCX.BUS_V2_BUS_HYS)) x.cHys,
    cAsc := n (decide ((s.get MCX.BUS_V2_ASC_V : Int) ≤ v)) x.cAsc } }

/-- A count has reached BUS_N. -/
def State.crossed (s : State) (n : Nat) : Bool := decide (max 1 (s.get MCX.BUS_CFG_BUS_N) ≤ n)

/-- K_REGEN, in its register and flag (R245). -/
def State.setKr (s : State) (k : Rat) : State :=
  let s := { s with mcx := { s.mcx with kr := k } }
  (s.set MCX.STAT_KRGN (roundAway (k * 1000)).toNat).setB MCX.STAT_RGN_ACT (decide (k < 1))

/-- K_REGEN at an evaluation (R245, R246, R249). -/
def State.kregen (s : State) : State :=
  let x := s.mcx
  let stp : Rat := ((s.get TBS.PER_CFG_PERIOD : Nat) : Rat) / 100 / ((max 1 (s.get MCX.BUS_CFG_T_RGN) : Nat) : Rat)
  let k := if x.krHold then 0
    else if s.crossed x.cRgn || s.on MCX.STAT_VBUS_STALE then max 0 (x.kr - stp)
    else if s.crossed x.cHys then min 1 (x.kr + stp)
    else x.kr
  let s := s.setKr k
  { s with mcx := { s.mcx with krZero := if k = 0 then min 255 (x.krZero + 1) else 0 } }

/-! ### Choppers (R247–R249) -/

def State.chState (s : State) (c : Nat) : Nat := s.get (MCX.C_STAT_STATE c)
def State.chEn (s : State) (c : Nat) : Bool := s.on (MCX.C_CFG_EN c)

/-- The duty of a chopper, as contexts read it (R247, R251). -/
def State.setDuty (s : State) (c : Nat) (d : Word) : State :=
  { s with mcx := { s.mcx with duty := SMap.put (fun _ => 0) s.mcx.duty c d } }

/-- A chopper at an evaluation: engaged or not, its duty and its compare value (R247). [assumption 83 (DESIGN CHOICE)] -/
def State.chopEval (s : State) (c : Nat) : State :=
  if s.chEn c && s.chState c != 3 then
    let k := s.get (MCX.C_CFG_LEG c)
    let prd := s.get (LPW.PRD_PRD k)
    if s.on MCX.STAT_VBUS_STALE then s
    else
      let eng := if s.chState c == 2 then !s.crossed s.mcx.cOff else s.crossed s.mcx.cOn
      let on_ := voltR s MCX.BUS_V0_CH_ON
      let full := voltR s MCX.BUS_V1_CH_FULL
      let v := (s.mcx.vbus : Rat) / 10
      let (q, s) := if full = on_ then (let (i, s) := s.free; (Config.freeRat i, s)) else ((v - on_) / (full - on_), s)
      let tcar : Rat := ((2 * max 1 (s.get (MCX.C_CFG_HDIV c)) * s.tc : Nat) : Rat) / (tUs : Nat)
      let mn := (s.get (MCX.C_LIM_MINON c) : Rat) / 10 / tcar
      let d := if eng then min 1 (max (clampR 0 1 q) mn) else 0
      let s := s.set (MCX.C_STAT_STATE c) (if eng then 2 else 1)
      let s := s.setDuty c (toF32 d)
      let s := s.set (MCX.C_STAT_DUTY c) (min 0xFFFF (roundAway (d * 65536)).toNat)
      s.mcxCmp k (roundAway (16 * (prd : Rat) * (1 - d))).toNat
  else s

/-- The chopper-fault sequence begins (R249). -/
def State.chfBegin (s : State) : State :=
  if s.on MCX.STAT_CHF_SEQ then s
  else
    let s := { s with mcx := { s.mcx with krHold := true, seqAt := some s.now, seqDone := false } }
    (((s.setKr 0).set MCX.STAT_ABS_REQ 1).set MCX.STAT_CHF_SEQ 1).irq MCX.page 6

/-- Step 3 and step 4 of R249. -/
def State.chfStep3 (s : State) : State := ((s.decideAll cauCHF).set MCX.STAT_MBR_REQ 1).irq MCX.page 7

/-- ABS_ACK as published (R249, R252). -/
def State.absAck (s : State) : Bool := !decide (s.mcxOut 3 0 = 0)

/-- A chopper becomes FAULT (R248, R249). -/
def State.chopFault (s : State) (c : Nat) : State :=
  let s := (s.set (MCX.C_STAT_STATE c) 3).irq MCX.page 5
  let s := (s.trip 12 (1 <<< s.get (MCX.C_CFG_LEG c)) 0 0).mcxSource
  let all := [0, 1, 2, 3].all (fun c => !s.chEn c || s.chState c == 3)
  if !s.on MCX.CHF_CFG_CHF_POL || all then s.chfBegin else s

/-- A check of a chopper's current (R248): none while a trip latch holds the leg. -/
def State.chopJudge (s : State) (c : Nat) (code : Int) : State :=
  if s.chopChecked c then
    let i := (code : Rat) * f32Val (s.reg (MCX.C_ISCALE c))
    let fail := decide (i < (s.get (MCX.C_LIM_CHF_I c) : Rat) / 10)
    let n := if fail then SMap.get (fun _ => 0) s.mcx.fails c + 1 else 0
    let s := { s with mcx := { s.mcx with fails := SMap.put (fun _ => 0) s.mcx.fails c n } }
    let s := (s.set (MCX.C_ILAST_I c) (min 0xFFFF (roundAway (i * 10)).toNat)).setB (MCX.C_STAT_LAST_FAIL c) fail
    let s := s.iff fail (fun s => s.bump (MCX.C_STAT_FAILS c))
    if max 1 (s.get MCX.CHF_CFG_CHF_N) ≤ n then s.chopFault c else s
  else s

/-- The check of the oldest result delivered for a chopper; without one there is none (R248, R293, R294).
[assumption 94 (DEDUCED)] -/
def State.chopCheck (s : State) (c : Nat) : State :=
  match SMap.get (fun _ => []) s.mcx.chRes c with
  | [] => s
  | code :: rest => ({ s with mcx := { s.mcx with chRes := SMap.put (fun _ => []) s.mcx.chRes c rest } }).chopJudge c code

/-- A write to CLR, bit by bit: a faulted chopper is cleared where its current input gives valid results; the sequence
ends when none is faulted (R249, R519). [assumption 80 (DEDUCED)] -/
def State.chopClear (s : State) (mask : Nat) : State :=
  s.judge MCX.page 0x70 [] (fun s => if !s.isl then s else
    let s := s.each ((bitsOf 4 mask).filter (fun c => s.chState c == 3)) (fun s c =>
      if (SMap.get (fun _ => (0, false)) s.aiInst (s.get (MCX.C_CFG_IAI c))).2 then
        ({ s with mcx := { s.mcx with fails := SMap.put (fun _ => 0) s.mcx.fails c 0 } }).set (MCX.C_STAT_STATE c)
          (if s.chEn c then 1 else 0)
      else s.refuse MCX.page 0x70 xSTATE)
    let s := s.mcxSource
    if s.on MCX.STAT_CHF_SEQ && [0, 1, 2, 3].all (fun c => s.chState c != 3) then
      let s := ((s.set MCX.STAT_CHF_SEQ 0).set MCX.STAT_ABS_REQ 0).set MCX.STAT_MBR_REQ 0
      { s with mcx := { s.mcx with krHold := false, seqAt := none, seqDone := false } }
    else s)

/-! ### The evaluation (R223) -/

/-- The evaluation 0.7 µs after a boundary: pending commands, V_bus and its ladder, K_REGEN, choppers, the machines, and
an ABS_ACK that has fallen (R223, R237, R243–R249). [assumption 72 (DEDUCED)] -/
def State.mcxEval (s : State) : State :=
  if s.isl then
    let s := s.advance (s.bndAt + 700 * tNs)
    let s := s.each (s.machines.filter s.mEn) State.machAct
    let s := s.vbusTake.busCounts
    let s := s.setB MCX.STAT_ABS_ACK s.absAck
    let asc := s.crossed s.mcx.cAsc && !s.on MCX.STAT_VBUS_STALE
    let rises := asc && !s.on MCX.STAT_ASC_V
    let s := s.setB MCX.STAT_ASC_V asc
    let s := s.iff (rises || (asc && (s.machines.any s.mRuns))) (fun s => s.irq MCX.page 9)
    let s := s.iff asc (fun s => s.decideAll cauASC_V)
    let s := s.each [0, 1, 2, 3] State.chopEval
    let s := s.setB MCX.STAT_CH_ENG ([0, 1, 2, 3].any (fun c => s.chState c == 2))
    let again := s.on MCX.STAT_CHF_SEQ && s.mcx.seqDone && !s.mcx.krHold && !s.absAck
    let s := s.iff again (fun s =>
      ({ s with mcx := { s.mcx with krHold := true } }).chfStep3)
    let s := s.kregen
    s.each (s.machines.filter s.mEn) State.machEval
  else s

/-- The first evaluation instant, 0.7 µs after a boundary, at or after an instant (R223, R242, R249). -/
def State.evalAt (s : State) (t : Nat) : Nat :=
  let e := s.bndAt + 700 * tNs
  e + (t - e + (s.tc - 1)) / s.tc * s.tc

/-- Step 3 of R249, due at the first evaluation at or after the fault + T_CHF_ASC. -/
def State.chfTimeout (s : State) : State :=
  match s.mcx.seqAt with
  | some t =>
    if s.on MCX.STAT_CHF_SEQ && !s.mcx.seqDone then
      let s := s.advance (s.evalAt (t + s.get MCX.CHF_CFG_T_CHF_ASC * 100 * tUs))
      let s := { s with mcx := { s.mcx with seqDone := true } }
      if s.absAck then { s with mcx := { s.mcx with krHold := false } } else s.chfStep3
    else s
  | none => s

/-! ### Loss of the rotor (R241, R242) -/

/-- Re-acquisition (R242). -/
def State.reacquire (s : State) (m : Nat) : State :=
  let x := s.mm m
  if s.mState m == mEXTRAP && decide (s.get (MCX.M_OBS_N_ACQ m) ≤ x.acqN) then
    let src := if s.get (MCX.M_CFG_SRC m) == 2 || !s.primaryValid m then 3 else s.get (MCX.M_CFG_SRC m)
    ((s.changeSrc m src).setMState m mRUN).irq MCX.page 1
  else s

/-! ### The mirror of MCX items for the contexts (R251) -/

/-- Items of input class 8, latched at the close of the uplink window. -/
def State.mcxLatch (s : State) : State :=
  if s.isl then
    let b := fun (x : Bool) => if x then (1 : Rat) else 0
    let mach := [0, 1].flatMap (fun m =>
      let x := s.mm m
      [(0, (x.thR.toInt : Rat)), (1, f32Val x.wR), (2, (x.obTh.toInt : Rat)), (3, f32Val x.obW), (4, f32Val x.res),
       (5, (s.mState m : Rat)), (6, (getBits (s.reg (MCX.M_STAT m)) 0 16 : Rat)), (9, f32Val x.ell),
       (10, f32Val x.vEnd.1), (11, f32Val x.vEnd.2), (12, f32Val x.pw), (13, b (s.isReload m 0))].map
        (fun p => (4 * p.1 + m, p.2)))
    let chop := [0, 1, 2, 3].flatMap (fun c => [(64 + c, f32Val (SMap.get (fun _ => 0) s.mcx.duty c)), (68 + c, (s.chState c : Rat))])
    let one := [(28, (s.mcx.vbus : Rat) / 10), (32, s.mcx.kr), (80, b (s.on MCX.STAT_ABS_REQ))]
    let m := (mach ++ chop ++ one).foldl (fun m p => SMap.put (fun _ => none) m p.1 (some p.2)) s.le.mcx
    { s with le := { s.le with mcx := m } }
  else s

/-! ### Enables (R220, R222, R247) -/

/-- Write a machine's PRD to its legs. [assumption 76 (DEDUCED)] -/
def State.machPrd (s : State) (m : Nat) : State :=
  s.each (s.machLegs m) (fun s k => s.mcxShadow k (fun s => s.set (LPW.PRD_PRD k) (s.prdOf (s.mHdiv m))))

/-- The machine's EN is cleared: its legs are released, its state is OFF (R222, R491). -/
def State.machDisable (s : State) (m : Nat) : State :=
  let legs := s.machLegs m
  let s := s.machOff m
  let s := s.set (MCX.M_CFG_EN m) 0
  let s := s.iff (s.get MCX.CFG_TOPO == 3) (fun s => s.set (MCX.M_CFG_EN 1) 0)
  let s := s.each legs (fun s k => (s.release (resKey 2 k) 5 m).legStop k)
  s.refreshLegs

/-- A host write to Mm_CFG (R222, R255). The EN of set B follows M0 (R220); while the machine is OFF, its primary
source is the one in use (R229, R234); PP must suit a resolver that serves it (R230). [assumptions 76, 81 (DEDUCED)] -/
def State.machCfgWrite (s : State) (m : Nat) (val : Word) : State :=
  let ofs := 0x100 + 0x80 * m
  s.fitted .mcx MCX.page ofs val fun s =>
  let follows := m == 1 && s.get MCX.CFG_TOPO == 3
  let val := if follows then putBits val 0 1 (s.get (MCX.M_CFG_EN 0)) else val
  let en0 := s.mEn m
  let en1 := getBits val 0 1 == 1
  let hd := s.willBe MCX.page true (MCX.M_CFG_HDIV m) val
  let pp := s.willBe MCX.page true (MCX.M_CFG_PP m) val
  let prd := s.prdOf (if hd = 0 then 16 else hd)
  let starts := en1 && !en0 && !follows
  let newDiv := en1 && en0 && hd != s.get (MCX.M_CFG_HDIV m)
  let ratio := s.on MCX.RSV_CFG_EN && s.get MCX.RSV_CFG_MACH == m && pp % max 1 (s.get MCX.RSV_CFG_RPP) != 0
  let primary := fun (s : State) => s.iff (s.mState m == mOFF)
    (fun s => s.set (MCX.M_STAT_USED m) (s.get (MCX.M_CFG_SRC m)))
  s.judge MCX.page ofs
    [(getBits val 1 2 == 3 || (starts && pp == 0), eRANGE), (starts && !s.machines.contains m, xSTATE),
     ((starts || newDiv) && !mcxPrdOk prd, xCARRIER), (starts && !s.threshOk, xTHRESH), (starts && ratio, xRATIO)]
    (fun s => primary <|
      if starts then
        s.claimAll MCX.page ofs ((s.machLegs m).map (resKey 2)) 5 m (fun s =>
          let s := s.take .mcx MCX.page ofs val
          let s := s.iff (s.get MCX.CFG_TOPO == 3) (fun s => s.set (MCX.M_CFG_EN 1) 1)
          let s := (s.setMM m {}).iff (s.get MCX.CFG_TOPO == 3) (fun s => s.setMM 1 {})
          let s := s.each (s.machLegs m) (fun s k => ((s.mcxLegSetup k prd).set (LPW.CFG_MODE k) 0).legStart k)
          (s.setMState m mOFF).refreshLegs)
      else if en0 && !en1 then (s.machDisable m).take .mcx MCX.page ofs val
      else (s.take .mcx MCX.page ofs val).iff newDiv (fun s => s.machPrd m))

/-- MINON lies at or above CHF_T + 1 µs (R247). -/
def minonOk (minon chft : Nat) : Bool := decide (chft + 10 ≤ minon)

/-- A chopper's EN is cleared: its leg is released; FAULT stands until it is cleared through CLR (R249, R491).
[assumption 79 (DEDUCED)] -/
def State.chopDisable (s : State) (c : Nat) : State :=
  let k := s.get (MCX.C_CFG_LEG c)
  let s := (s.mcxMode k 0).set (MCX.C_CFG_EN c) 0
  let s := s.iff (s.chState c != 3) (fun s => s.set (MCX.C_STAT_STATE c) 0)
  ((((s.setDuty c 0).set (MCX.C_STAT_DUTY c) 0).release (resKey 2 k) 6 c).legStop k).refreshLegs

/-- A host write to Cc_CFG (R220, R247, R257). [assumption 81 (DEDUCED)] -/
def State.chopCfgWrite (s : State) (c : Nat) (val : Word) : State :=
  let ofs := 0x300 + 0x20 * c
  s.fitted .mcx MCX.page ofs val fun s =>
  let en0 := s.chEn c
  let en1 := getBits val 0 1 == 1
  let leg := s.willBe MCX.page true (MCX.C_CFG_LEG c) val
  let hd := s.willBe MCX.page true (MCX.C_CFG_HDIV c) val
  let prd := s.prdOf hd
  let starts := en1 && !en0
  let newDiv := en1 && en0 && hd != s.get (MCX.C_CFG_HDIV c)
  let mine := ([0, 1].flatMap s.machLegs).contains leg
  s.judge MCX.page ofs
    [(decide (12 ≤ leg) || (starts && !minonOk (s.get (MCX.C_LIM_MINON c)) (s.get MCX.CHF_CFG_CHF_T)), eRANGE),
     (en0 && en1 && leg != s.get (MCX.C_CFG_LEG c), xSTATE),
     (newDiv && !mcxPrdOk prd, xCARRIER)]
    (fun s =>
      if starts then
        if mine then s.deny MCX.page ofs (resKey 2 leg) 6 c
        else s.judge MCX.page ofs [(!s.threshOk, xTHRESH), (!mcxPrdOk prd, xCARRIER), (s.chState c == 3, xSTATE)] (fun s =>
          s.claimAll MCX.page ofs [resKey 2 leg] 6 c (fun s =>
            let s := s.take .mcx MCX.page ofs val
            let s := { s with mcx := { s.mcx with fails := SMap.put (fun _ => 0) s.mcx.fails c 0, chRes := SMap.put (fun _ => []) s.mcx.chRes c [] } }
            let s := (s.mcxLegSetup leg prd).set (LPW.CFG_MODE leg) 3
            let s := (s.set (LPW.CMP_CMP leg) (16 * prd)).legStart leg
            (((s.setDuty c 0).set (MCX.C_STAT_STATE c) 1).set (MCX.C_STAT_DUTY c) 0).refreshLegs))
      else if en0 && !en1 then (s.chopDisable c).take .mcx MCX.page ofs val
      else (s.take .mcx MCX.page ofs val).iff newDiv (fun s =>
        s.mcxShadow leg (fun s => s.set (LPW.PRD_PRD leg) prd)))

/-- A change of T_c: a machine or chopper whose PRD leaves its range is disabled with CARRIER, the others take the new
one (R253). Without islands the page acts on nothing outside it (R3). -/
def State.mcxPeriod (s : State) : State :=
  if !s.isl then s else
  let s := s.each (s.machines.filter s.mEn) (fun s m =>
    if mcxPrdOk (s.prdOf (s.mHdiv m)) then s.machPrd m else (s.machDisable m).refuse MCX.page (0x100 + 0x80 * m) xCARRIER)
  s.each ([0, 1, 2, 3].filter s.chEn) (fun s c =>
    let prd := s.prdOf (s.get (MCX.C_CFG_HDIV c))
    let k := s.get (MCX.C_CFG_LEG c)
    if mcxPrdOk prd then s.mcxShadow k (fun s => s.set (LPW.PRD_PRD k) prd)
    else (s.chopDisable c).refuse MCX.page (0x300 + 0x20 * c) xCARRIER)

/-- A host write to MCX.CFG: TOPO only while no machine is enabled (R220, R225). -/
def State.mcxCfgWrite (s : State) (val : Word) : State :=
  let topo := getBits val 0 2 != s.get MCX.CFG_TOPO
  s.judge MCX.page 0x40 [(s.isl && topo && (s.mEn 0 || s.mEn 1), xSTATE)] (fun s => s.take .mcx MCX.page 0x40 val)

/-! ### Tables (R225, R226, R254) -/

/-- A read or write of TBL_DATA at TBL_ADDR; the index steps modulo the table's size. -/
def State.tblAccess (s : State) (write : Bool) (val : Word) : State :=
  let t := s.get MCX.TBL_ADDR_TBL
  let i := s.get MCX.TBL_ADDR_IDX
  let n := if t == 1 || t == 2 then 64 else 1024
  let j := i % n
  let act := s.get MCX.CFG_BANK
  let bank := if t == 3 then act else 1 - act
  let cur : Nat := if n = 64 then codeOf 18 (SMap.get (fun _ => 0) s.mcx.adv (64 * (t - 1) + j)) else codeOf 18 (s.sineAt bank j)
  let s := if write then
      (if n = 64 then { s with mcx := { s.mcx with adv := SMap.put (fun _ => 0) s.mcx.adv (64 * (t - 1) + j) (sgnOf 16 (getBits val 0 16)) } }
       else if t == 0 then { s with mcx := { s.mcx with sine := SMap.put sineDefault s.mcx.sine (1024 * bank + j) (sgnOf 18 (getBits val 0 18)) } }
       else s)
    else { s with resp := .value (BitVec.ofNat 32 cur) }
  s.set MCX.TBL_ADDR_IDX ((j + 1) % n)

/-! ### Sensor interfaces (R230, R231, R256) -/

/-- The resolver interface stops, its ball released. -/
def State.rsvStop (s : State) : State :=
  ({ s with mcx := { s.mcx with rsSeen := false, rsBad := 0 } }).release (resKey 4 3) 7 0

/-- A host write to RSV_CFG (R230, R256). [assumption 77 (DESIGN CHOICE)] -/
def State.rsvCfgWrite (s : State) (val : Word) : State :=
  s.fitted .mcx MCX.page 0x200 val fun s =>
  let en0 := s.on MCX.RSV_CFG_EN
  let en1 := getBits val 0 1 == 1
  let rpp := s.willBe MCX.page true MCX.RSV_CFG_RPP val
  let m := s.willBe MCX.page true MCX.RSV_CFG_MACH val
  let starts := en1 && !en0
  s.judge MCX.page 0x200
    [(getBits val 2 2 == 3 || rpp == 0, eRANGE), (starts && s.get (MCX.M_CFG_PP m) % max 1 rpp != 0, xRATIO)]
    (fun s =>
      if starts then s.claimAll MCX.page 0x200 [resKey 4 3] 7 0 (fun s =>
        let (i, s) := s.free
        let (j, s) := s.free
        let s := s.take .mcx MCX.page 0x200 val
        { s with mcx := { s.mcx with rsTh := Config.freeWord i, rsW := Config.freeWord j, rsAt := s.now } })
      else (s.take .mcx MCX.page 0x200 val).iff (en0 && !en1) State.rsvStop)

/-- The period of the excitation, in seconds (R230, R256). -/
def rsvPeriod (fex : Nat) : Rat := 1 / ((5000 * 2 ^ fex : Nat) : Rat)

/-- One step of the resolver's type-II tracking loop against an angle: new angle and speed (R230).
[assumption 77 (DESIGN CHOICE)] -/
def State.rsvTrack (s : State) (raw : Word) : Word × Word :=
  let bw := s.get MCX.RSV_BW_BW
  let fex := s.get MCX.RSV_CFG_FEX
  let dt := rsvPeriod fex
  let w := f32Val s.mcx.rsW
  let pred := s.mcx.rsTh + wordOfTurn (w * dt / twoPi)
  let e := turnOf (raw - pred) * twoPi
  (pred + wordOfTurn (Config.rsvKp bw fex * e / twoPi), toF32 (w + Config.rsvKi bw fex * e))

/-- A resolver signal at a peak: the result of its input where one has been sampled since the last peak, otherwise what the
command brings (R230). -/
def State.rsvIn (s : State) (ai : Nat) (x : Int) : Int :=
  if s.mcx.rsAt < SMap.get (fun _ => 0) s.aiValAt ai then (SMap.get (fun _ => none) s.aiLast ai).getD x else x

/-- A peak of the excitation: the angle of S and C, the results of SIN_AI and COS_AI, free where both are 0, drives the
tracking loop, and the amplitude is judged (R230). [assumption 77 (DESIGN CHOICE)] -/
def State.rsvPeak (s : State) (sn cs : Int) : State :=
  if s.isl && s.on MCX.RSV_CFG_EN then
    let sn := s.rsvIn (s.get MCX.RSV_CFG_SIN_AI) sn
    let cs := s.rsvIn (s.get MCX.RSV_CFG_COS_AI) cs
    let (i, s1) := s.free
    let (raw, s) := match atan2T (sn : Rat) (cs : Rat) with
      | some t => (wordOfTurn t, s)
      | none => (Config.freeWord i, s1)
    let (th, w) := s.rsvTrack raw
    let a2 := (sn * sn + cs * cs).toNat
    let amp := min 0xFFFF ((isqrt (4 * a2) + 1) / 2)
    let lo := s.get MCX.RSV_AMP_AMP_LO
    let hi := s.get MCX.RSV_AMP_AMP_HI
    let bad := decide (a2 < lo * lo) || decide (hi * hi < a2)
    let n := if bad then s.mcx.rsBad + 1 else 0
    let s := { s with mcx := { s.mcx with rsTh := th, rsW := w, rsAt := s.now, rsBad := n, rsSeen := true } }
    let s := s.set MCX.SNS_STAT_AMP amp
    if 3 ≤ n && !s.on MCX.SNS_STAT_RSV_FLT then (s.set MCX.SNS_STAT_RSV_FLT 1).sensFault (s.get MCX.RSV_CFG_MACH) 0 else s
  else s

/-- The encoder interface stops, its balls released. -/
def State.encStop (s : State) : State :=
  let s := { s with mcx := { s.mcx with encRef := false, encSpd := false, edge1 := 0, edge2 := 0, encZAt := 0 } }
  let s := s.set MCX.SNS_STAT_ZSEEN 0
  s.each [0, 1, 2] (fun s b => s.release (resKey 4 b) 7 1)

/-- A host write to ENC_CFG (R231, R256). -/
def State.encCfgWrite (s : State) (val : Word) : State :=
  s.fitted .mcx MCX.page 0x20C val fun s =>
  let en0 := s.on MCX.ENC_CFG_EN
  let en1 := getBits val 0 1 == 1
  let starts := en1 && !en0
  s.judge MCX.page 0x20C
    [(starts && s.willBe MCX.page true MCX.ENC_CFG_LINES val == 0, eRANGE)]
    (fun s =>
      if starts then s.claimAll MCX.page 0x20C [resKey 4 0, resKey 4 1, resKey 4 2] 7 1 (fun s =>
        let was := s.reg MCX.ENC_CFG
        let s := s.take .mcx MCX.page 0x20C val
        { s with mcx := { s.mcx with encOn := some (s.now / tBus, was), encRef := false, encSpd := false, edge1 := 0, edge2 := 0, encZAt := 0 } })
      else (s.take .mcx MCX.page 0x20C val).iff (en0 && !en1) State.encStop)

/-- The encoder's fault (R231). -/
def State.encFault (s : State) (f : Fld) : State := (s.set f 1).sensFault (s.get MCX.ENC_CFG_MACH) 1

/-- The quadrature position of two levels. -/
def quad (a b : Bool) : Nat := match a, b with | false, false => 0 | true, false => 1 | true, true => 2 | false, true => 3

/-- A filtered level: the input's level once that has held for FILT, given in 10 ns, else the level before (R231).
[assumption 261 (DEDUCED)] -/
def State.encFilt (s : State) (old : Bool) (x : Bool × BitVec 4) : Bool :=
  if s.get MCX.ENC_CFG_FILT ≤ x.2.toNat then x.1 else old

/-- An edge of the encoder's inputs, each given with the time its level has held: the count, the speed and the index
(R231). [assumptions 78 (DESIGN CHOICE); 261 (DEDUCED)] -/
def State.encEdge (s : State) (ra rb rz : Bool × BitVec 4) : State :=
  if s.isl && s.on MCX.ENC_CFG_EN then
    let x := s.mcx
    let a := s.encFilt x.encA ra
    let b := s.encFilt x.encB rb
    let z := s.encFilt x.encZ rz
    let d := (quad a b + 4 - quad x.encA x.encB) % 4
    let up := (d == 1) != s.on MCX.ENC_CFG_DIR
    let zRise := z && !x.encZ
    let s := { s with mcx := { x with encA := a, encB := b, encZ := z } }
    let s := if d == 2 then s.encFault MCX.SNS_STAT_ENC_ILL
      else if d == 0 then s
      else
        let s := s.setReg MCX.ENC_CNT (s.reg MCX.ENC_CNT + (if up then 1 else 0xFFFFFFFF))
        { s with mcx := { s.mcx with edge2 := s.mcx.edge1, edge1 := s.now, encDir := if up then 1 else -1, encSpd := x.edge1 != 0 } }
    if zRise && s.on MCX.ENC_CFG_ZEN then
      if s.on MCX.SNS_STAT_ZSEEN then
        let n : Int := 4 * s.get MCX.ENC_CFG_LINES
        let p := ((s.reg MCX.ENC_CNT).toInt - s.mcx.encZAt) % n
        if 4 < min p (n - p) then s.encFault MCX.SNS_STAT_ZERR else s
      else
        let s := (s.setReg MCX.ENC_CNT 0).set MCX.SNS_STAT_ZSEEN 1
        { s with mcx := { s.mcx with encRef := true, encZAt := 0 } }
    else s
  else s

/-! ### Trip inputs and the encoder's balls (R490, R492) -/

/-- An enabled trip input takes its ball: a displaced encoder loses its enable, reports CLAIM_LOST, and faults; one enabled in
the same bus cycle was refused its enable with CLAIM_DENIED (R492). -/
def State.tripBall (s : State) (n : Nat) : State :=
  let r := resKey 4 (n - 5)
  let h := s.claim r
  let late := s.mcx.encOn.filter (fun q => q.1 == s.now / tBus)
  let s := if h.cls == 7 then match late with
    | some q => ((s.encStop.setReg MCX.ENC_CFG q.2).setClaim r ⟨13, n, 0, 0⟩).deny MCX.page 0x20C r 7 1
    | none =>
      let s := (s.pinLost r h).refuse MCX.page 0x20C eCLAIM_LOST
      ((s.set MCX.ENC_CFG_EN 0).encStop).sensFault (s.get MCX.ENC_CFG_MACH) 1
    else s
  s.setClaim r ⟨13, n, 0, 0⟩

/-- A host write to TRP.CFG (R126, R492). -/
def State.trpCfgWrite (s : State) (val : Word) : State :=
  let en0 := s.get TRP.CFG_EN
  s.judge TRP.page 0x40 [] (fun s =>
    let s := s.take .trp TRP.page 0x40 val
    let en1 := s.get TRP.CFG_EN
    let s := s.each ([5, 6, 7].filter (fun n => en1.testBit n && !en0.testBit n)) State.tripBall
    let s := s.each ([5, 6, 7].filter (fun n => en0.testBit n && !en1.testBit n)) (fun s n => s.release (resKey 4 (n - 5)) 13 n)
    s.trpEval)

/-! ### The commands -/

/-- TRIP_INPUT_ENABLE (R492). -/
def execTripInputEnable (val : Word) (s : State) : Host.Outcome State Fault Refusal := .next (s.trpCfgWrite val)

/-- MACHINE_ENABLE (R222). [assumption 75 (DEDUCED)] -/
def execMachineEnable (m : Fin 2) (val : Word) (s : State) : Host.Outcome State Fault Refusal :=
  .next (s.machCfgWrite m (val ||| 1))

/-- MACHINE_DISABLE (R222). -/
def execMachineDisable (m : Fin 2) (val : Word) (s : State) : Host.Outcome State Fault Refusal :=
  .next (s.machCfgWrite m (val &&& ~~~1))

/-- MACH_RUN (R237). -/
def execMachRun (m : Fin 2) (s : State) : Host.Outcome State Fault Refusal := .next (s.machCmd m 1)
/-- MACH_STOP (R237). -/
def execMachStop (m : Fin 2) (s : State) : Host.Outcome State Fault Refusal := .next (s.machCmd m 2)
/-- MACH_ASC (R237). -/
def execMachAsc (m : Fin 2) (s : State) : Host.Outcome State Fault Refusal := .next (s.machCmd m 3)
/-- MACH_INHIBIT (R237). -/
def execMachInhibit (m : Fin 2) (s : State) : Host.Outcome State Fault Refusal := .next (s.machCmd m 4)
/-- MACH_CLEAR (R237). -/
def execMachClear (m : Fin 2) (s : State) : Host.Outcome State Fault Refusal := .next (s.machCmd m 5)

/-- MCX_COMPARE (R223, R224). -/
def execMcxCompare (m : Fin 2) (s : State) : Host.Outcome State Fault Refusal := .next (s.mcxCompare m)

/-- MCX_EVALUATION (R223). -/
def execMcxEvaluation (s : State) : Host.Outcome State Fault Refusal := .next s.mcxEval

/-- LOSS (R241). -/
def execLoss (m : Fin 2) (s : State) : Host.Outcome State Fault Refusal := .next (s.lossDetect m)

/-- REACQ (R242). -/
def execReacq (m : Fin 2) (s : State) : Host.Outcome State Fault Refusal := .next (s.reacquire m)

/-- EXTRAP_TIMEOUT: it acts at the first evaluation instant at or after t_L + EXTRAP_MAX (R242). -/
def execExtrapTimeout (m : Fin 2) (s : State) : Host.Outcome State Fault Refusal :=
  .next (if s.mState m == mEXTRAP then
      (s.advance (s.evalAt ((s.mm m).lossAt + s.get (MCX.M_LOSS_EXTRAP_MAX m) * 100 * tUs))).safeDecision m cauLOSS
    else s)

/-- CTX_LOST (R240). -/
def execCtxLost (m : Fin 2) (s : State) : Host.Outcome State Fault Refusal :=
  .next (if s.mRuns m && ((s.machOwner m).isNone || decide (s.get TBS.OVR_ACT_HOLD_LIM ≤ (s.mm m).miss)) then
      ((s.set (MCX.M_STAT_CTX_LOST m) 1).irq MCX.page 12).safeDecision m cauCTX
    else s)

/-- RGN_VIOL (R246). -/
def execRgnViol (m : Fin 2) (s : State) : Host.Outcome State Fault Refusal :=
  .next (if s.mRuns m && decide (s.get MCX.RGN_CFG_RGN_N ≤ s.mcx.krZero)
      && decide (f32Val (s.mm m).pw < -1000 * (s.get MCX.RGN_CFG_RGN_TOL : Rat)) then
      ((s.set (MCX.M_STAT_RGN_VIOL m) 1).irq MCX.page 8).safeDecision m cauRGN
    else s)

/-- PRECHG_STEP (R236). -/
def execPrechgStep (m : Fin 2) (s : State) : Host.Outcome State Fault Refusal := .next (s.prechgStep m)

/-- CHOPPER_ENABLE (R220). -/
def execChopperEnable (u : Fin 4) (val : Word) (s : State) : Host.Outcome State Fault Refusal :=
  .next (s.chopCfgWrite u (val ||| 1))

/-- CHOPPER_DISABLE (R220). -/
def execChopperDisable (u : Fin 4) (val : Word) (s : State) : Host.Outcome State Fault Refusal :=
  .next (s.chopCfgWrite u (val &&& ~~~1))

/-- CHOPPER_CHECK (R248). -/
def execChopperCheck (u : Fin 4) (n : Nat) (s : State) : Host.Outcome State Fault Refusal :=
  .next (s.each (List.range n) (fun s _ => s.chopCheck u))

/-- CHF_ASC_TIMEOUT (R249). -/
def execChfAscTimeout (s : State) : Host.Outcome State Fault Refusal := .next s.chfTimeout

/-- CHOPPER_CLEAR (R249). -/
def execChopperClear (mask : BitVec 4) (s : State) : Host.Outcome State Fault Refusal := .next (s.chopClear mask.toNat)

/-- SINE_SWAP (R225). -/
def execSineSwap (val : Word) (s : State) : Host.Outcome State Fault Refusal := .next (s.mcxCfgWrite (val ||| 8))

/-- TBL_DATA_ACCESS (R254). -/
def execTblDataAccess (write : Bool) (val : Word) (s : State) : Host.Outcome State Fault Refusal :=
  .next (if write then s.judge MCX.page 0x48 [] (fun s => s.tblAccess true val)
    else if s.pageGated MCX.page then s else s.tblAccess false val)

/-- RESOLVER_ENABLE (R256). -/
def execResolverEnable (val : Word) (s : State) : Host.Outcome State Fault Refusal := .next (s.rsvCfgWrite (val ||| 1))

/-- RESOLVER_PEAK (R230). -/
def execResolverPeak (sinC cosC : BitVec 16) (s : State) : Host.Outcome State Fault Refusal :=
  .next (s.rsvPeak sinC.toInt cosC.toInt)

/-- ENCODER_ENABLE (R256). -/
def execEncoderEnable (val : Word) (s : State) : Host.Outcome State Fault Refusal := .next (s.encCfgWrite (val ||| 1))

/-- ENCODER_EDGE (R231). -/
def execEncoderEdge (a b z : Bool × BitVec 4) (s : State) : Host.Outcome State Fault Refusal := .next (s.encEdge a b z)

/-- ENC_ALIGN (R231): the present count is at OFFS; the index is expected where it was. -/
def execEncAlign (s : State) : Host.Outcome State Fault Refusal :=
  .next (s.judge MCX.page 0x210 [] (fun s =>
    { (s.setReg MCX.ENC_CNT 0) with
      mcx := { s.mcx with encRef := s.on MCX.ENC_CFG_EN, encZAt := s.mcx.encZAt - (s.reg MCX.ENC_CNT).toInt } }))

/-- ENC_SPEED_TIMEOUT (R231): four periods without an edge, after which the speed is taken as 0. -/
def execEncSpeedTimeout (s : State) : Host.Outcome State Fault Refusal :=
  .next (if s.mcx.encSpd then
      { (s.advance (s.mcx.edge1 + 4 * s.tc)) with mcx := { s.mcx with encSpd := false } }
    else s)

end Sys2Proof.Machine
end

