-- ==== Sys2Proof/Machine/Trestle.lean ====
section
/-! DEFINITION. The Trestle fabric and station time: lanes, neighbours, admission, routes and flows, the epoch, a change
of T_c as it takes effect, holdover, steps and captures (R22, R308–R324, R339, R340). -/

namespace Sys2Proof.Machine

abbrev fFLOW_RES : Nat := 0x40
abbrev fFLOW_BUSY : Nat := 0x41
abbrev bNOT_ROOT : Nat := 0x40

abbrev tlOFF : Nat := 0
abbrev tlLOCK : Nat := 1
abbrev tlNBR : Nat := 2
abbrev tlUP : Nat := 3
abbrev tlDOWN : Nat := 4

/-- What TRL keeps, changed. -/
def State.modTrl (s : State) (f : TrlSt → TrlSt) : State := { s with trl := f s.trl }

/-- What a lane keeps, read and changed. -/
def State.tlane (s : State) (k : Nat) : TlSt := SMap.get (fun _ => {}) s.trl.lanes k
def State.modTl (s : State) (k : Nat) (f : TlSt → TlSt) : State :=
  s.modTrl (fun x => { x with lanes := SMap.put (fun _ => {}) x.lanes k (f (s.tlane k)) })

/-- The state of a lane (R340). -/
def State.tl (s : State) (k : Nat) : Nat := s.get (TRL.LN_STAT_STATE k)

/-- The module is the root of its fabric (R312). -/
def State.isRoot (s : State) : Bool := !s.on TBS.TSTAT_ROLE

/-- The latest message of a lane's neighbour. -/
def State.nbrOf (s : State) (k : Nat) : Option NbrMsg := SMap.get (fun _ => none) s.trl.nbr k

/-- Own arming state as a neighbour message reports it (R310). -/
def State.armState (s : State) : Nat := if s.armed then 2 else if s.on PWR.STAT_ARM_PEND then 1 else 0

/-- The arming state last reported of a module (R22, R310). [assumption 257 (DEDUCED)] -/
def State.armOf (s : State) (uid : Nat) : Nat := ((s.trl.arms.find? (fun a => a.1 == uid)).map (·.2)).getD 0

/-- An admitted module other than this one reports at least the arming state `n`: a neighbour, or one the last rediscovery
found (R22, R324). [assumption 257 (DEDUCED)] -/
def State.nbrArmed (s : State) (n : Nat) : Bool :=
  (List.range 8).any (fun k => match s.nbrOf k with
    | some m => m.admitted && decide (n ≤ m.arm)
    | none => false)
  || s.trl.mods.any (fun m => decide (n ≤ s.armOf m.1))

/-! ### Station time, epoch and T_c (R16, R22, R319, R323) -/

/-- What station time has gained on REFCLK by RATE up to an instant (R319). [assumption 256 (DEDUCED)] -/
def State.rateGain (s : State) (t : Nat) : Int :=
  (s.trl.rateAcc + ((t : Int) - s.trl.rateAt) * s.getS TBS.RATE_RATE) / 100000000000

/-- While TBS disciplines PLL-PWM, MFRAC carries its steering value, a free value, since the spec gives no law for it (R320,
R404). [assumption 267 (DESIGN CHOICE)] -/
def State.mfrac (s : State) : State :=
  if s.on MOD.TB_STAT_DISC then (let (i, s) := s.free; s.set (PLL.PFRAC_MFRAC 1) (Config.freeNat i % 2 ^ 20)) else s

/-- RATE becomes `r`, within RATE_MAX (R319). [assumption 256 (DEDUCED)] -/
def State.rateTo (s : State) (r : Int) : State :=
  let lim : Int := 100 * s.get TBS.TCFG_RATE_MAX
  let acc := s.trl.rateAcc + ((s.now : Int) - s.trl.rateAt) * s.getS TBS.RATE_RATE
  ((s.modTrl (fun x => { x with rateAcc := acc, rateAt := s.now })).setS TBS.RATE_RATE (max (-lim) (min lim r))).mfrac

/-- RATE stays within a RATE_MAX just written (R319). -/
def State.rateCap (s : State) : State := s.rateTo (s.getS TBS.RATE_RATE)

/-- A new epoch, at an instant of the clock and a station time. A synchronised carrier has its valleys
on the new grid at once; an unsynchronised one keeps its own (R108, R323). [assumption 107 (DEDUCED)] -/
def State.epochTo (s : State) (t : Int) (sec ns : Nat) : State :=
  let s := ((s.set TBS.EPOCH_SEC0_SEC_LO sec).set TBS.EPOCH_SEC1_SEC_HI (sec / 4294967296)).set TBS.EPOCH_NS_NS ns
  let d := (s.epochAt - t) / (tTick : Int)
  if s.epochAt = t then s
  else
    let s := if s.isl then s.each (List.range 12) State.legSync else s
    let s := s.each (List.range 108) (fun s ch =>
      let c := s.chan ch
      let runs := if ch < 96 then s.chRuns ch else s.isl && s.legRuns (ch - 96)
      let sync := decide (ch < 96) || s.on (LPW.CFG_SYNC (ch - 96))
      let c := { c with pos := c.pos + 16 * d, capTick := c.capTick.map (· + d), lat := c.lat + 16 * d }
      s.setChan ch (if runs then
        if sync then { c with v0 := c.act.phase, dl := 0 } else { c with v0 := c.v0 + d } else c))
    ({ s with epochAt := t }).modTrl (fun x => { x with epochIdx := s.pidx })

/-- The windows of a period (R18). -/
def State.windows (s : State) (p : Nat) : State :=
  (((s.set TBS.PER_WIN0_W_UPL (p * 8 / 100)).set TBS.PER_WIN0_W_LE (p * 72 / 100)).set TBS.PER_WIN1_W_GD
    (p * 84 / 100)).set TBS.PER_WIN1_W_DL (p * 96 / 100)

/-- The budgets and limits that follow T_c (R97, R123, R165, R192, R222, R330). -/
def State.budgets (s : State) : State :=
  let s := s.set STL.BUDGET_BUDGET (min 16384 (2048 * s.get TBS.PER_CFG_PERIOD / 2500))
  s.leBudget.dsvBudget.mcxPeriod.modPeriod.blkPeriodChange

/-- A T_c takes effect: the period, its windows and budgets; the epoch is the boundary `t` (R22, R323). -/
def State.applyPeriod (s : State) (p t : Nat) : State :=
  let st := (s.stAt t).toNat / 960
  let s := (s.set TBS.PER_CFG_PERIOD p).windows p
  (s.epochTo t (st / 1000000000) (st % 1000000000)).budgets.irq TBS.page 15

/-- The module enters holdover (R322). -/
def State.holdover (s : State) : State :=
  if s.on TBS.TSTAT_HOLDOVER then s
  else ((s.set TBS.TSTAT_HOLDOVER 1).irq TBS.page 9).modTrl (fun x => { x with holdAt := some s.now })

/-- Holdover ends. [assumption 105 (DEDUCED)] -/
def State.holdEnd (s : State) : State := (s.set TBS.TSTAT_HOLDOVER 0).modTrl (fun x => { x with holdAt := none })

/-- The last boundary of the present grid at or before the clock. -/
def State.gridFloor (s : State) : Nat :=
  (s.epochAt + ((s.now : Int) - s.epochAt) / (max 1 s.tc : Int) * (s.tc : Int)).toNat

/-- The unique id of the root as RUID holds it. -/
def State.ruid (s : State) : Nat := s.get TRL.RUID0_UID + 4294967296 * s.get TRL.RUID1_UID

/-! ### Admission (R313) -/

/-- The slot and the unique id that TRL reads from its straps; the root is this module until another is found (R311, R487). -/
def State.trlStraps (s : State) : State :=
  let s := ((s.set TRL.ID_SLOT s.straps.slot).set TRL.UID0_UID s.straps.uid).set TRL.UID1_UID (s.straps.uid / 4294967296)
  (s.set TRL.RUID0_UID s.straps.uid).set TRL.RUID1_UID (s.straps.uid / 4294967296)

/-- A rediscovery is under way from now on (R314). -/
def State.rediscFrom (s : State) : State :=
  s.modTrl (fun x => { x with redisc := some (x.redisc.getD s.now) })

/-- Whether a module must step its station time or change its T_c to take a fabric's. [assumption 103 (DEDUCED)] -/
def State.mustStep (s : State) (m : NbrMsg) : Bool :=
  let st : Int := ((m.epochSec * 1000000000 + m.epochNs) * 960 : Nat) + ((s.now : Int) - m.epochAt)
  st != s.stAt s.now || m.period != s.get TBS.PER_CFG_PERIOD
    || decide (0 < s.tc ∧ (m.epochAt - s.epochAt) % (s.tc : Int) ≠ 0)

/-- The index of a fabric's present period: that of its message, and the boundaries of its grid since the message came
(R313, R323). [assumption 102 (DEDUCED)] -/
def State.joinIdx (s : State) (m : NbrMsg) : Nat :=
  let tc : Int := (max 1 (m.period * t10) : Nat)
  (m.pidx + (((s.now : Int) - m.epochAt) / tc - ((s.trl.joinAt : Int) - m.epochAt) / tc)).toNat

/-- A DISARMED module takes a fabric's station time, epoch and period, and its period index (R313, R323).
[assumptions 102, 103 (DEDUCED)] -/
def State.joinStep (s : State) (m : NbrMsg) : State :=
  let st : Int := ((m.epochSec * 1000000000 + m.epochNs) * 960 : Nat) + ((s.now : Int) - m.epochAt)
  let stepped := st != s.stAt s.now
  let chg := m.period != s.get TBS.PER_CFG_PERIOD
  let s := (s.set TBS.PER_CFG_PERIOD m.period).windows m.period
  let s := s.epochTo m.epochAt m.epochSec m.epochNs
  let s := s.iff chg (fun s => s.budgets.irq TBS.page 15)
  let s := s.iff stepped (fun s => s.irq TBS.page 10)
  let s := (s.set MOD.TB_STAT_DISC 0).modTrl (fun x => { x with marks := 0 })
  ({ s with pidx := s.joinIdx m, bndAt := s.gridFloor, perPend := none }).modTrl (fun x => { x with epochIdx := s.joinIdx m })

/-- The module is a member: it follows no grandmaster (R312, R319, R339). [assumption 105 (DEDUCED)] -/
def State.member (s : State) : State := ((s.set TBS.TSTAT_ROLE 1).set TBS.TSTAT_PTP_LOCK 0).set TBS.TSTAT_RATE_LIM 0

/-- A module that waits to be admitted: while DISARMED it steps where it must and is admitted; while ARMED it sets
JOIN_ARMED; an admission or a departure starts a rediscovery (R313, R314). [assumption 102 (DEDUCED)] -/
def State.joinTry (s : State) : State :=
  match s.trl.join with
  | none => s
  | some m =>
    if s.mustStep m && s.armed then
      let s := s.iff (!s.on TRL.ID_JOIN_ARMED) (fun s => s.irq TRL.page 6)
      let s := s.iff (s.on TRL.ID_ADMIT) (fun s => s.rediscFrom)
      (s.set TRL.ID_JOIN_ARMED 1).set TRL.ID_ADMIT 0
    else
      let s := s.iff (s.mustStep m) (fun s => s.joinStep m)
      let s := s.iff (!s.on TRL.ID_ADMIT || m.rootUid != s.ruid) State.rediscFrom
      (((s.set TRL.ID_JOIN_ARMED 0).set TRL.ID_ADMIT 1).member).modTrl (fun x => { x with join := none })

/-! ### Lanes and neighbours (R309, R310) -/

/-- Arming states as reported, the latest of a module standing (R310). [assumption 257 (DEDUCED)] -/
def armsPut (l : List (Nat × Nat)) (r : List (Nat × Nat)) : List (Nat × Nat) :=
  r.foldl (fun l a => l.filter (fun b => b.1 != a.1) ++ [a]) l

/-- What a member learns of its root on the upstream lane: a new epoch that is no older than the own one is the root's step,
which it takes as it would the fabric's time when it joins; a root of a higher unique id says that the root is lost (R313,
R322, R323, R324). [assumption 269 (DEDUCED)] -/
def State.rootTake (s : State) (k : Nat) (m : NbrMsg) : State :=
  if s.isRoot || !s.on (TRL.LN_STAT_UPSTREAM k) || !m.admitted then s
  else if s.ruid < m.rootUid then s.holdover
  else
    let old := s.get TBS.EPOCH_SEC0_SEC_LO + 4294967296 * s.get TBS.EPOCH_SEC1_SEC_HI
    let new := m.rootUid == s.ruid && m.period == s.get TBS.PER_CFG_PERIOD && s.perPend.isNone
      && decide (s.trl.epochIdx ≤ m.pidx) && !(m.epochSec == old && m.epochNs == s.get TBS.EPOCH_NS_NS)
    if new then (s.modTrl (fun x => { x with join := some m, joinAt := s.now })).joinTry else s

/-- A neighbour's message: identity, address, arming and Settle configuration, with the arming states it passes on; a
fabric whose root has the lower unique id is the one to join, and a neighbour that is admitted, or is so no longer, starts
a rediscovery (R310, R313, R314). [assumptions 101, 109 (DEDUCED)] -/
def State.nbrTake (s : State) (k : Nat) (m : NbrMsg) : State :=
  let was := match s.nbrOf k with | some o => o.admitted | none => false
  let s := s.modTl k (fun x => { x with msgAt := s.now })
  let near := (List.range 8).filterMap (fun j => (s.nbrOf j).map (·.uid))
  let told := m.others.filter (fun a => a.1 != s.straps.uid && !near.contains a.1) ++ [(m.uid, m.arm)]
  let s := s.modTrl (fun x => { x with nbr := SMap.put (fun _ => none) x.nbr k (some m), arms := armsPut x.arms told })
  let s := s.iff (m.admitted != was) (fun s => s.rediscFrom)
  let s := ((s.set (TRL.LN_STAT_PEER_ADDR k) m.addr).set (TRL.LN_STAT_PEER_LANE k) m.lane).set (TRL.LN_STAT_PEER_OK k) 1
  if m.admitted && (decide (m.rootUid < s.ruid) || s.trl.join.isSome && decide (m.rootUid ≤ s.ruid)) then
    (s.modTrl (fun x => { x with join := some m, joinAt := s.now })).joinTry
  else s.rootTake k m

/-- The mirror lane is lost to a Settle pair (R332). [assumption 115 (DEDUCED)] -/
def State.mlaneLost (s : State) (k : Nat) : State :=
  if s.on STL.CFG_EN && s.get STL.CFG_MLANE == k then
    if s.get STL.STAT_STATE == stlSYNCING then s.set STL.STAT_STATE stlALONE else s.stlSyncLost
  else s

/-- A lane goes DOWN, or OFF where it is disabled (R309, R310, R322). -/
def State.tlDown (s : State) (k cause : Nat) : State :=
  let was := s.tl k
  let s := (s.set (TRL.LN_STAT_STATE k) (if cause = 4 then tlOFF else tlDOWN)).set (TRL.LN_STAT_DCAUSE k) cause
  let s := s.modTl k (fun x => if cause = 4 then {} else { x with msg := none, replies := [] })
  let s := s.modTrl (fun x => { x with tx := SMap.put (fun _ => none) x.tx k none })
  if was != tlUP then s.iff (cause != 4 && was != tlDOWN) State.rediscFrom
  else
    let s := s.modTrl (fun x => { x with nbr := SMap.put (fun _ => none) x.nbr k none })
    let s := ((s.set (TRL.LN_STAT_PEER_OK k) 0).irq TRL.page 1).rediscFrom
    let s := s.iff (s.on (TRL.LN_STAT_UPSTREAM k) && !s.isRoot) (fun s => (s.set (TRL.LN_STAT_UPSTREAM k) 0).holdover)
    s.mlaneLost k

/-- A bit of LANE_EN is set: training starts (R309). -/
def State.tlStart (s : State) (k : Nat) : State :=
  if (s.get TRL.CFG_LANE_EN).testBit k then s
  else ((s.set TRL.CFG_LANE_EN (s.get TRL.CFG_LANE_EN ||| 1 <<< k)).set (TRL.LN_STAT_STATE k) tlLOCK).set
    (TRL.LN_STAT_DCAUSE k) 0

/-- The neighbour message this module sends (R310). -/
def State.ownMsg (s : State) (k : Nat) : NbrMsg :=
  { uid := s.straps.uid, addr := s.get TRL.ID_ADDR, lane := k, stlEn := s.on STL.CFG_EN, stlPref := s.on STL.CFG_PREF,
    stlPartner := s.get STL.CFG_PARTNER, stlMlane := s.get STL.CFG_MLANE, stlState := s.get STL.STAT_STATE, admitted := s.on TRL.ID_ADMIT, arm := s.armState, rootUid := s.ruid,
    period := s.get TBS.PER_CFG_PERIOD, pidx := s.pidx, epochAt := s.epochAt,
    epochSec := s.get TBS.EPOCH_SEC0_SEC_LO + 4294967296 * s.get TBS.EPOCH_SEC1_SEC_HI, epochNs := s.get TBS.EPOCH_NS_NS,
    others := s.trl.arms }

/-- One sync header reaches a lane (R147, R308, R310): lock brings a lane in LOCK to NBR, and its loss takes a lane past
LOCK DOWN. [assumption 53 (DESIGN CHOICE)] -/
def State.tlHdr (s : State) (k : Nat) (hd : BitVec 2) : State :=
  let ok := hdrOk hd
  if s.tl k == tlOFF then s
  else
    let h := (s.tlane k).hdr
    let r := h.take ok
    let s := s.iff (h.lock && !ok) (fun s => s.bump (TRL.LN_ERR_HDR k))
    let s := s.modTl k (fun x => { x with hdr := r })
    if h.lock && !r.lock then
      let s := s.bump (TRL.LN_ERR_LOCKLOSS k)
      if s.tl k ∈ [tlNBR, tlUP] then s.tlDown k 1 else s
    else if r.lock && s.tl k == tlLOCK then s.set (TRL.LN_STAT_STATE k) tlNBR
    else s

/-- With neighbour messages sent and received and 64 replies whose RTTs lie within 8 fine steps, the lane has its delay and is UP (R164,
R309). [assumption 259 (DEDUCED)] -/
def State.tlReady (s : State) (k : Nat) : State :=
  let x := s.tlane k
  let rtts := x.replies.map (·.1)
  let mx := rtts.foldl max 0
  match x.msg with
  | some m =>
    if (SMap.get (fun _ => none) s.trl.tx k).isSome ∧ x.replies.length = 64 ∧ mx - rtts.foldl min mx ≤ 8 then
      let sum : Int := x.replies.foldl (fun a p => a + ((p.1 : Int) - p.2)) 0
      let d := roundAway ((sum : Rat) / 128)
      let s := ((s.set (TRL.LN_STAT_STATE k) tlUP).set (TRL.LN_STAT_DCAUSE k) 0).set (TRL.LN_STAT_D k) (max 0 (min 65535 d)).toNat
      ((s.irq TRL.page 0).rediscFrom).nbrTake k m
    else s
  | none => s

/-- What a lane in training receives (R309). A lane that is DOWN trains again from LOCK, without a wait; a far end that is
no FOB-4896 takes it DOWN with cause FOREIGN. [assumption 259 (DEDUCED)] -/
def State.tlTrain (s : State) (k : Nat) (e : TrlRx) : State :=
  let s := s.iff (s.tl k == tlDOWN) (fun s => s.set (TRL.LN_STAT_STATE k) (if (s.tlane k).hdr.lock then tlNBR else tlLOCK))
  match e with
  | .header h => s.tlHdr k h
  | .message fob m =>
    if s.tl k != tlNBR then s
    else if !fob then s.tlDown k 3
    else (s.modTl k (fun x => { x with msg := some m, msgAt := s.now })).tlReady k
  | .echo turn rtt =>
    if s.tl k != tlNBR || !s.on MOD.TB_STAT_LOCK || decide (320000 < rtt) then s
    else (s.modTl k (fun x => { x with replies := ((rtt, turn) :: x.replies).take 64 })).tlReady k

/-! ### Rediscovery and routes (R311, R312, R314, R315, R321) -/

/-- The better of two paths `(hops, lane)`: fewer hops, ties to the lower lane (R315). -/
def pathMin (a b : Nat × Nat) : Nat × Nat := if b.1 < a.1 ∨ (b.1 = a.1 ∧ b.2 < a.2) then b else a

def bestPath : List (Nat × Nat) → Option (Nat × Nat)
  | [] => none
  | a :: t => some (t.foldl pathMin a)

/-- The routing entry of an address: primary, and the alternate by another first lane (R315). -/
def State.routeSet (s : State) (a : Nat) (ps : List (Nat × Nat)) : State :=
  match bestPath ps with
  | none => (s.setReg (TRL.RTE a) 0).modTrl (fun x => { x with altHops := SMap.put (fun _ => 0) x.altHops a 0 })
  | some (h, l) =>
    let alt := bestPath (ps.filter (fun q => q.2 != l))
    let w := l + 8 + (match alt with | some q => 16 * q.2 + 128 | none => 0) + 512 + 1024 * min 15 h
    let h2 := match alt with | some q => min 15 q.1 | none => 0
    (s.setReg (TRL.RTE a) (BitVec.ofNat 32 w)).modTrl (fun x => { x with altHops := SMap.put (fun _ => 0) x.altHops a h2 })

/-- The lowest address no module holds (R311). -/
def freeAddr (used : List Nat) : Nat := ((List.range 16).find? (fun a => !used.contains a)).getD 15

/-- The root assigns each module that holds none the lowest address that no admitted module holds or has strapped; the
others keep theirs (R311, R312). -/
def assignAll : List Nat → List (Nat × Option Nat) → List (Nat × Nat)
  | _, [] => []
  | used, (u, some a) :: l => (u, a) :: assignAll used l
  | used, (u, none) :: l => (u, freeAddr used) :: assignAll (freeAddr used :: used) l

/-- The path to the root is in force: role, hops and the upstream lane; a module without one goes into holdover unless it
is the root. A root that was root before keeps the holdover of its failed source (R321, R322). [assumption 105 (DEDUCED)] -/
def State.upTake (s : State) (isRoot : Bool) (up : Option (Nat × Nat)) : State :=
  let was := s.isRoot
  let hops := match up with | some q => min 15 q.1 | none => 0
  let far := decide (4 < hops)
  let s := s.iff (far && !s.on TBS.TSTAT_HOP_FAR) (fun s => s.irq TBS.page 14)
  let s := ((if isRoot then s.set TBS.TSTAT_ROLE 0 else s.member).set TBS.TSTAT_HOPS hops).setB TBS.TSTAT_HOP_FAR far
  let s := s.each (List.range 8) (fun s k => s.setB (TRL.LN_STAT_UPSTREAM k) (match up with | some q => q.2 == k | none => false))
  match up with
  | some q => ((s.set TBS.TSTAT_UP_LANE q.2).holdEnd).modTrl (fun x => { x with marks := 0 })
  | none => if isRoot then (if was then s else s.holdEnd) else s.holdover

/-- Rediscovery completes: addresses, the root, routes, the upstream lane and the reports that follow; a member whose root
is not among the modules found enters holdover. The root assigns
addresses to the modules that ask for one, itself among them; an address once assigned is kept (R311, R312,
R314, R315, R321, R322). [assumption 105 (DEDUCED)] -/
def State.redisced (s : State) (r : Redisc) : State :=
  let own := s.straps.uid
  let old := s.ruid
  let strap := !s.on TRL.CFG_ADDR_MODE
  let conflict := strap && r.mods.any (fun m => m.2 == some s.straps.slot && decide (m.1 < own))
  let keeps := s.on TRL.ID_ADMIT
  let admitted := !conflict && !s.on TRL.ID_JOIN_ARMED
  let ids := (if admitted then [own] else []) ++ r.mods.map (·.1)
  let root := ids.foldl min (ids.headD own)
  let isRoot := root == own || !admitted && r.mods.isEmpty
  let root := if isRoot then own else root
  let held := r.mods.filterMap (·.2)
  let addr := if strap then s.straps.slot else if !isRoot then r.assign % 16
    else if keeps then s.get TRL.ID_ADDR else freeAddr held
  let mods := if isRoot then assignAll (addr :: held) r.mods else r.mods.filterMap (fun m => m.2.map (fun a => (m.1, a)))
  let rootAddr := if isRoot then addr else ((mods.find? (fun m => m.1 == root)).map (·.2)).getD 0
  let chg := root != s.ruid
  let s := s.iff (conflict && !s.on TRL.ID_ADDR_CONFLICT) (fun s => s.irq TRL.page 3)
  let s := (((s.set TRL.ID_ADDR addr).setB TRL.ID_ADMIT admitted).setB TRL.ID_ROOT isRoot).setB TRL.ID_ADDR_CONFLICT conflict
  let s := (s.set TRL.ID_ROOT_ADDR rootAddr).set TRL.ID_NMOD (max 1 ids.length)
  let s := (s.set TRL.RUID0_UID root).set TRL.RUID1_UID (root / 4294967296)
  let s := s.set TRL.MAP_PRESENT (maskOf ((if admitted then [addr] else []) ++ mods.map (·.2)))
  let s := s.iff chg (fun s => s.irq TBS.page 11)
  let path := fun a => (r.paths.filter (fun p => p.1 == a)).map (fun p => p.2)
  let s := s.each (List.range 16) (fun s a => s.routeSet a (path a))
  let lost := (mods.map (·.2)).filter (fun a => (path a).isEmpty)
  let s := s.iff (!lost.isEmpty) (fun s => s.irq TRL.page 5)
  let s := s.modTrl (fun x => { x with unreach := maskOf lost, mods := mods })
  let s := s.iff (!s.isRoot && !ids.contains old) (fun s => s.holdover)
  let up := if isRoot then none else bestPath (path rootAddr)
  let s := s.upTake isRoot up
  let t := match s.trl.redisc with | some t => (s.now - t) / tUs | none => 0
  ((s.set TRL.REDISC_T_LAST (min 65535 t)).irq TRL.page 2).modTrl (fun x => { x with redisc := none })

/-- At a boundary, traffic to an address whose primary lane is DOWN moves to the alternate; with neither lane UP the
address is out of reach (R315). -/
def State.failover (s : State) : State :=
  s.each (List.range 16) (fun s a =>
    let alt := s.on (TRL.RTE_ON_ALT a)
    let inUse := s.get (if alt then TRL.RTE_ALT a else TRL.RTE_PRI a)
    if s.on (TRL.RTE_PRI_OK a) && s.tl inUse != tlUP && s.on (TRL.RTE_REACH a) then
      if !alt && s.on (TRL.RTE_ALT_OK a) && s.tl (s.get (TRL.RTE_ALT a)) == tlUP then
        ((s.set (TRL.RTE_ON_ALT a) 1).set (TRL.RTE_HOPS a) (SMap.get (fun _ => 0) s.trl.altHops a)).irq TRL.page 4
      else (((s.set (TRL.RTE_REACH a) 0).irq TRL.page 5).modTrl (fun x => { x with unreach := x.unreach ||| 1 <<< a }))
    else s)

/-! ### Flows (R316–R318) -/

/-- An enabled LOOP flow of a direction. -/
def State.flowOn (s : State) (f : Nat) (tx : Bool) : Bool :=
  decide (f ≤ 60) && s.on (TRL.FCFG_EN f) && s.on (TRL.FCFG_DIR f) == tx

/-- A flow value arrives: in time for the close of the uplink window of the period after the one it was sent in, or
late (R317). [assumption 104 (DEDUCED)] -/
def State.flowRx (s : State) (f : Nat) (val : Word) (k : Nat) : State :=
  if !s.flowOn f false || s.nbrOnly then s
  else if s.pidx ≤ k || (s.pidx == k + 1 && s.window == 0) then
    let s := (s.setReg (TRL.FVAL f) val).modTrl (fun x => { x with got := x.got ||| 1 <<< f })
    { s with le := { s.le with flowSeen := s.le.flowSeen ||| 1 <<< f } }
  else s.bump (TRL.FCFG_LATE f)

/-- The close of the uplink window: RX values that have not arrived are missing (R317). [assumption 104 (DEDUCED)] -/
def State.flowMiss (s : State) : State :=
  let got := s.trl.got
  let s := s.each ((List.range 61).filter (fun f => s.flowOn f false)) (fun s f =>
    let miss := !got.testBit f
    (s.setB (TRL.FCFG_MISS f) miss).iff miss (fun s => s.irq TRL.page 7))
  s.modTrl (fun x => { x with got := 0 })

/-- The close of the loop-engine window: TX values are sent, but for a member of a pair that is not ACTIVE, and a
module whose lanes carry neighbour messages only (R311, R313, R317, R318). [assumption 104 (DEDUCED)] -/
def State.flowTx (s : State) : State :=
  if s.stlIdle || s.nbrOnly then s
  else s.each ((List.range 61).filter (fun f => s.flowOn f true && (s.claim (resKey 9 f)).cls == 4))
    (fun s f => s.setReg (TRL.FVAL f) (s.pub 6 f))

/-! ### Host writes (R309, R316, R324, R339, R340) -/

/-- A write to TRL.CFG. -/
def State.trlCfgWrite (s : State) (val : Word) : State :=
  s.judge TRL.page 0x40 [] (fun s =>
    let old := s.get TRL.CFG_LANE_EN
    let new := getBits val 0 8
    let t := s.take .trl TRL.page 0x40 val
    let t := t.set TRL.CFG_LANE_EN old
    let t := t.each ((bitsOf 8 new).filter (fun k => !old.testBit k)) State.tlStart
    t.each ((bitsOf 8 old).filter (fun k => !new.testBit k)) (fun s k =>
      (s.tlDown k 4).set TRL.CFG_LANE_EN ((s.tlDown k 4).get TRL.CFG_LANE_EN &&& (0xFF ^^^ 1 <<< k))))

/-- A write to REDISC. -/
def State.rediscWrite (s : State) (val : Word) : State :=
  s.judge TRL.page 0x5C [] (fun s => if getBits val 16 1 == 1 then s.rediscFrom else s)

/-- A write to FCFGf (R316, R340). -/
def State.fcfgWrite (s : State) (f : Nat) (val : Word) : State :=
  let ofs := 0x100 + 8 * f
  let busy := s.on (TRL.FCFG_EN f) && getBits val 3 11 != getBits (s.reg (TRL.FCFG f)) 3 11
  s.judge TRL.page ofs [(decide (61 ≤ f), fFLOW_RES), (busy, fFLOW_BUSY)] (fun s =>
    let rise := !s.on (TRL.FCFG_EN f) && getBits val 0 1 == 1
    (s.take .trl TRL.page ofs val).iff rise (fun s => (s.set (TRL.FCFG_LATE f) 0).set (TRL.FCFG_MISS f) 0))

/-- TCMD.CAPTURE (R339). -/
def State.timeCapture (s : State) : State :=
  let u := (s.stAt s.now).toNat
  let ns := u / 960
  let sec := ns / 1000000000
  let s := (((s.set TBS.ST_SEC0_SEC_LO sec).set TBS.ST_SEC1_SEC_HI (sec / 4294967296)).set TBS.ST_NS_NS (ns % 1000000000)).set
    TBS.ST_FRAC_FRAC (u % 960 * 65536 / 960)
  (s.set TBS.PIDX0_PIDX s.pidx).set TBS.PIDX1_PIDX (s.pidx / 4294967296)

/-- TCMD.STEP: station time becomes the set value; the epoch is the first whole second after it (R323, R324).
[assumption 107 (DEDUCED)] -/
def State.timeStep (s : State) : State :=
  s.judge TBS.page 0x44 [(s.armed || s.nbrArmed 2, eARMED), (!s.isRoot, bNOT_ROOT)] (fun s =>
    let sec := s.get TBS.SET_SEC0_SEC_LO + 4294967296 * s.get TBS.SET_SEC1_SEC_HI + s.get TBS.SET_NS_NS / 1000000000
    let ns := s.get TBS.SET_NS_NS % 1000000000
    let wait := (1000000000 - ns) * 960
    let s := s.epochTo ((s.now + wait : Nat) : Int) (sec + 1) 0
    { (s.irq TBS.page 10) with bndAt := s.gridFloor })

/-- A write to TCMD: each bit acts as its row does. [assumption 110 (DEDUCED)] -/
def State.tcmdWrite (s : State) (val : Word) : State :=
  let s := s.iff (getBits val 1 1 == 1) (fun s => s.timeStep)
  s.judge TBS.page 0x44 [] (fun s => s.iff (getBits val 0 1 == 1) (fun s => s.timeCapture))

/-! ### The commands -/

/-- TRL_LANE_ENABLE (R309). -/
def execTrlLaneEnable (k : Fin 8) (s : State) : Host.Outcome State Fault Refusal :=
  .next (s.judge TRL.page 0x40 [] (fun s => s.tlStart k))

/-- TRL_LANE_UP: what the lane receives in training, up to UP (R309). -/
def execTrlLaneUp (k : Fin 8) (hdrs : List (BitVec 2)) (msgs : List (Bool × NbrMsg)) (echoes : List (Nat × Nat)) (s : State) :
    Host.Outcome State Fault Refusal :=
  .next (s.each (hdrs.map TrlRx.header ++ msgs.map (fun m => .message m.1 m.2) ++ echoes.map (fun e => .echo e.1 e.2))
    (fun s e => s.tlTrain k e))

/-- NEIGHBOUR_SEND, on a lane that is UP or in NBR, where the exchange is one of the three things UP needs (R309, R310). -/
def execNeighbourSend (k : Fin 8) (s : State) : Host.Outcome State Fault Refusal :=
  .next (if s.tl k == tlUP || s.tl k == tlNBR then
    let s := s.modTrl (fun x => { x with tx := SMap.put (fun _ => none) x.tx k (some (s.ownMsg k)) })
    s.iff (s.tl k == tlNBR) (fun s => s.tlReady k)
  else s)

/-- NEIGHBOUR_LOSS (R310). -/
def execNeighbourLoss (k : Fin 8) (hdrs : Option (List (BitVec 2))) (s : State) : Host.Outcome State Fault Refusal :=
  .next (match hdrs with
    | some l => s.each l (fun s h => s.tlHdr k h)
    | none => if s.tl k == tlUP then (s.advance ((s.tlane k).msgAt + 3 * tMs)).tlDown k 2 else s)

/-- REDISC_GO (R314). -/
def execRediscGo (s : State) : Host.Outcome State Fault Refusal := .next (s.rediscWrite 0x10000)

/-- REDISCOVERY_DONE (R314). -/
def execRediscoveryDone (r : Redisc) (s : State) : Host.Outcome State Fault Refusal := .next (s.redisced r)

/-- FLOW_VALUE_RX (R317). -/
def execFlowValueRx (f : Fin 64) (val : Word) (k : Nat) (s : State) : Host.Outcome State Fault Refusal :=
  .next (s.flowRx f val k)

/-- TIME_MARK_SEND: towards a neighbour that is not the upstream one (R320). -/
def execTimeMarkSend (k : Fin 8) (s : State) : Host.Outcome State Fault Refusal :=
  .next (if s.tl k == tlUP && !s.on (TRL.LN_STAT_UPSTREAM k) && !s.nbrOnly then
    s.modTrl (fun x => { x with markTx := (s.stAt s.now).toNat }) else s)

/-- TIME_MARK_RX: the mark, corrected by the lane's D, against the own copy of station time, and the root's RATE
(R319, R320). [assumptions 108, 258 (DEDUCED)] -/
def execTimeMarkRx (k : Fin 8) (mark : TimeMark) (s : State) : Host.Outcome State Fault Refusal :=
  .next (if s.tl k == tlUP && s.on (TRL.LN_STAT_UPSTREAM k) && !s.isRoot && !s.nbrOnly then
    let err : Int := s.stAt s.now - ((mark.st + s.get (TRL.LN_STAT_D k) * tFine : Nat) : Int)
    let s := ((s.setS TBS.OFFS_OFS (satS 16 (roundAway (err * 25 / 24 : Rat)))).rateTo mark.rate)
    s.modTrl (fun x => { x with marks := if -480 ≤ err ∧ err ≤ 480 then min 1000 (x.marks + 1) else 0 })
  else s)

/-- DISC_ACQUIRE: after 1,000 consecutive marks within ±0.5 ns (R320). [assumption 106 (DEDUCED)] -/
def execDiscAcquire (s : State) : Host.Outcome State Fault Refusal :=
  .next (if s.isRoot || decide (1000 ≤ s.trl.marks) then (s.set MOD.TB_STAT_DISC 1).mfrac else s)

/-- DISC_LOST: one second of holdover without a new upstream lane (R322). [assumption 106 (DEDUCED)] -/
def execDiscLost (s : State) : Host.Outcome State Fault Refusal :=
  .next (match s.trl.holdAt with
    | some t => ((s.advance (t + tS)).set MOD.TB_STAT_DISC 0).irq TBS.page 8
    | none => s)

/-- TIME_CAPTURE (R339). -/
def execTimeCapture (s : State) : Host.Outcome State Fault Refusal := .next (s.tcmdWrite 1)

/-- TIME_STEP (R324). -/
def execTimeStep (s : State) : Host.Outcome State Fault Refusal := .next s.timeStep

end Sys2Proof.Machine
end

