-- ==== Sys2Proof/Machine/Eth.lean ====
section
/-! DEFINITION. The Ethernet ports: descriptors, frames, the PTP clocks and time stamps, MDIO (R388–R399). -/

namespace Sys2Proof.Machine

abbrev eTSQ_EMPTY : Nat := 0x41

def State.eth (s : State) (p : Nat) : EthSt := SMap.get (fun _ => {}) s.eths p
def State.setEth (s : State) (p : Nat) (x : EthSt) : State := { s with eths := SMap.put (fun _ => {}) s.eths p x }
def State.modEth (s : State) (p : Nat) (f : EthSt → EthSt) : State := s.setEth p (f (s.eth p))
def State.ethOn (s : State) (p : Nat) : Bool := s.on (HDR.CTRL_EN (ETH.page p))

/-! ### The PTP clock (R390, R391): times in 2⁻³² ns -/

/-- One nanosecond of the PTP clock, and one second. -/
abbrev pNs : Nat := 4294967296
abbrev pS : Nat := 1000000000 * pNs

/-- A tick of the ETH clock, 8 ns. -/
abbrev tEth : Nat := 7680

/-- How long a point of a frame can lie back: 2 ms, more than the longest frame at 10 Mb/s lasts (R388, R392). -/
abbrev ptpBack : Nat := 2 * tMs

/-- The clock has a value and an increment from an instant on; what it was before is kept for frames under way (R392). -/
def EthSt.become (x : EthSt) (at_ val inc : Nat) : EthSt :=
  { x with val := val % (2 ^ 48 * pS), at_ := at_, inc := inc,
           old := (at_, x.val, x.at_, x.inc) :: x.old.filter (fun o => decide (at_ < o.1 + ptpBack)) }

/-- The clock as it stands from a pending change on: its tick advances by the increment in force from it (R390, R391). -/
def EthSt.after (x : EthSt) (q : PtpPend) : EthSt :=
  let inc := q.inc.getD x.inc
  let n := (q.at_ - x.at_) / tEth
  let v := x.val + (n - 1) * x.inc + (if n = 0 then 0 else inc)
  let v := match q.set with
    | some w => w
    | none => ((v : Int) + q.adj * pNs).toNat
  { x.become q.at_ v inc with pend := none }

/-- A change whose tick has come is in the clock. -/
def EthSt.fold (x : EthSt) (t : Nat) : EthSt :=
  match x.pend with
  | some q => if q.at_ ≤ t then x.after q else x
  | none => x

/-- The PTP clock at an instant, as it was configured then (R390, R392). [assumption 148 (DEDUCED)] -/
def EthSt.at (x : EthSt) (t : Nat) : Nat :=
  let x := x.fold t
  let (val, at_, inc) := match x.old.reverse.find? (fun o => decide (t < o.1)) with
    | some o => o.2
    | none => (x.val, x.at_, x.inc)
  (((val : Int) + ((t : Int) - at_) / tEth * inc) % ((2 ^ 48 * pS : Nat) : Int)).toNat

/-- The clock stands still from its last tick on, and goes on from there: a change on its way keeps its distance (R401). -/
def EthSt.halt (x : EthSt) (t : Nat) : EthSt :=
  let x := x.fold t
  x.become (x.at_ + (t - x.at_) / tEth * tEth) (x.at t) x.inc
def EthSt.resume (x : EthSt) (t : Nat) : EthSt :=
  { x with at_ := t, pend := x.pend.map (fun q => { q with at_ := q.at_ - x.at_ + t }) }

/-- The ETH clock's time at an instant: it runs from REFCLK, on which station time gains by RATE (R319, R390). -/
def State.ethTime (s : State) (t : Nat) : Nat := ((t : Int) - s.rateGain t).toNat

/-- The PTP clock at an instant; it stands still while its domain is gated (R401). -/
def State.ptp (s : State) (p t : Nat) : Nat := if s.gated 10 then (s.eth p).val else (s.eth p).at (s.ethTime t)

/-- A change of the clock whose tick has come is taken into it. -/
def State.ptpFold (s : State) (p : Nat) : State := s.modEth p (fun x => x.fold (s.ethTime s.now))

/-- A change from the next tick: a SET discards an ADJ of the same tick (R391). -/
def State.ptpChange (s : State) (p : Nat) (set : Option Nat) (adj : Int) (inc : Option Nat) : State :=
  let at' := (s.ethTime s.now / tEth + 1) * tEth
  let x := (s.eth p).fold (at' - 1)
  let q := x.pend.getD ⟨at', none, 0, none⟩
  s.setEth p { x with pend := some ⟨at', set.orElse (fun _ => q.set), q.adj + adj, inc.orElse (fun _ => q.inc)⟩ }

/-- A write to PTP_INC_NS commits both fields (R390). -/
def execPtpIncWrite (p : Fin 2) (val : Word) (s : State) : Host.Outcome State Fault Refusal :=
  let n := getBits val 0 4
  .next (s.judge (ETH.page p) 0x84 [(decide (n < 6 ∨ 10 < n), eRANGE)] (fun s =>
    (s.set (ETH.PTP_INC_NS_NS p) n).ptpChange p none 0 (some (n * pNs + s.get (ETH.PTP_INC_FRAC_FRAC p)))))

def execPtpAdj (p : Fin 2) (val : Word) (s : State) : Host.Outcome State Fault Refusal :=
  let d := val.toInt
  .next (s.judge (ETH.page p) 0x88 [(decide (d < -999999999 ∨ 999999999 < d), eRANGE)] (fun s => s.ptpChange p none d none))

def execPtpSet (p : Fin 2) (s : State) : Host.Outcome State Fault Refusal :=
  .next (s.judge (ETH.page p) 0x98 [] (fun s =>
    s.ptpChange p (some ((s.get (ETH.PTP_SET_SEC0_SEC_LO p) + 4294967296 * s.get (ETH.PTP_SET_SEC1_SEC_HI p)) * pS
      + s.get (ETH.PTP_SET_NS_NS p) * pNs)) 0 none))

/-- PTP CAPTURE (R391). [assumption 148 (DEDUCED)] -/
def execPtpCapture (p : Fin 2) (s : State) : Host.Outcome State Fault Refusal :=
  .next (s.judge (ETH.page p) 0x98 [] (fun s =>
    let v := s.ptp p s.now
    (((s.set (ETH.PTP_SEC0_SEC p) (v / pS % 4294967296)).set (ETH.PTP_SEC1_SEC p) (v / pS / 4294967296)).set (ETH.PTP_NS_NS p)
      (v % pS / pNs)).set (ETH.PTP_FRAC_FRAC p) (v % pNs)))

/-- A time stamp: the clock at the time-stamp point, an instant of the ETH clock, corrected by picoseconds, as nanoseconds and seconds [31:0]
(R392). [assumption 148 (DEDUCED)] -/
def State.stamp (s : State) (p t : Nat) (ps : Int) : Nat × Nat :=
  let ns := (((s.eth p).at t : Int) * 1000 + ps * pNs) / (1000 * pNs : Nat)
  let ns := (ns % ((2 ^ 48 * 1000000000 : Nat) : Int)).toNat
  (ns % 1000000000, ns / 1000000000 % 4294967296)

/-! ### Enabling -/

/-- Enabling a port claims its two DMA channels (R388, R490). [assumption 144 (DEDUCED)] -/
def execEthEnable (p : Fin 2) (s : State) : Host.Outcome State Fault Refusal :=
  let pg := ETH.page p
  if s.ethOn p then .next s else
  .next (s.judge pg 0x0C [] (fun s =>
    let rx := resKey 3 (s.get (ETH.CFG_RX_DMA p))
    let tx := resKey 3 (s.get (ETH.CFG_TX_DMA p))
    if rx = tx then s.deny pg 0x0C rx 11 p
    else s.claimAll pg 0x0C [rx, tx] 11 p (fun s => s.set (HDR.CTRL_EN pg) 1)))

/-- Clearing the enable: a frame in transmission ends, and the claims are released (R388, R491). -/
def State.ethDisable (s : State) (p : Nat) : State :=
  ((s.modEth p (fun x => { x with tx := none, kick := false })).set (HDR.CTRL_EN (ETH.page p)) 0).releaseAll 11 p

/-! ### Transmitting (R389, R393) -/

/-- A ring that is written anew is taken from its first descriptor where the index lies outside it (R389).
[assumption 271 (DESIGN CHOICE)] -/
def State.ethRing (s : State) (p : Nat) : State :=
  let s := s.iff (decide (s.get (ETH.TX_N_N p) ≤ s.get (ETH.IDX_TX p))) (fun s => s.set (ETH.IDX_TX p) 0)
  s.iff (decide (s.get (ETH.RX_N_N p) ≤ s.get (ETH.IDX_RX p))) (fun s => s.set (ETH.IDX_RX p) 0)

/-- The descriptor a direction takes next. -/
def State.ethDesc (s : State) (p : Nat) (tx : Bool) : Nat :=
  if tx then s.get (ETH.TX_BASE_ADDR p) * 16 + 16 * s.get (ETH.IDX_TX p)
  else s.get (ETH.RX_BASE_ADDR p) * 16 + 16 * s.get (ETH.IDX_RX p)

/-- The next index of a ring. -/
def State.ethNext (s : State) (p : Nat) (tx : Bool) : State :=
  if tx then s.set (ETH.IDX_TX p) ((s.get (ETH.IDX_TX p) + 1) % max 1 (s.get (ETH.TX_N_N p)))
  else s.set (ETH.IDX_RX p) ((s.get (ETH.IDX_RX p) + 1) % max 1 (s.get (ETH.RX_N_N p)))

/-- A descriptor completes: its words are written, OWN last (R389). -/
def State.ethWriteDesc (s : State) (p : Nat) (tx : Bool) (w1 : Nat) (w23 : Option (Nat × Nat)) : State :=
  let ch := s.get (if tx then ETH.CFG_TX_DMA p else ETH.CFG_RX_DMA p)
  let a := s.ethDesc p tx
  let (ok, s) := match w23 with
    | some (w2, w3) => s.dmaWrite ch (a + 8) (leBytes 4 w2 ++ leBytes 4 w3)
    | none => (true, s)
  let (ok, s) := if ok then s.dmaWrite ch (a + 4) (leBytes 4 w1) else (false, s)
  if ok then s.ethNext p tx else s

/-- The transmitter examines its next descriptor (R389); a received PAUSE holds it (R388). -/
def State.ethExamine (s : State) (p : Nat) : State :=
  let x := s.eth p
  if !s.ethOn p || x.tx.isSome then s
  else if s.now < x.pause then s.setEth p { x with kick := true }
  else
    let ch := s.get (ETH.CFG_TX_DMA p)
    match s.dmaRead ch (s.ethDesc p true) 16 with
    | (none, s) => s
    | (some d, s) =>
      if !(leNat d 4 4).testBit 16 then s
      else match s.dmaRead ch (leNat d 0 4) (leNat d 4 4 % 2048) with
        | (none, s) => s
        | (some bs, s) => s.modEth p (fun x => { x with tx := some (d, bs), kick := false })

def execTxKick (p : Fin 2) (s : State) : Host.Outcome State Fault Refusal :=
  .next (s.judge (ETH.page p) 0x60 [] (fun s => s.ethExamine p))

/-- TSQ registers show the oldest entry (R393). -/
def State.tsqShow (s : State) (p : Nat) : State :=
  let q := (s.eth p).tsq
  let (i, n, t) := q.headD (0, 0, 0)
  (((s.set (ETH.TSQ_STAT_FILL p) q.length).set (ETH.TSQ_ID_TSID p) i).set (ETH.TSQ_NS_NS p) n).set (ETH.TSQ_SEC_SEC p) t

/-- A tick of the ETH clock. -/
def State.ethTick (s : State) : Nat := s.ethTime s.now / tEth

/-- A stamp enters the queue, or is dropped where it is full (R393). -/
def State.tsqPush (s : State) (p : Nat) (e : Nat × Nat × Nat) : State :=
  if 8 ≤ (s.eth p).tsq.length then
    let was := (s.ethTick, e, s.get (ETH.TSQ_STAT_OVF p), (s.reg (HDR.IRQ_RAW (ETH.page p))).getLsbD 5)
    let s := s.modEth p (fun x => { x with tsqLost := some was })
    (s.bump (ETH.TSQ_STAT_OVF p)).irq (ETH.page p) 5
  else ((s.modEth p (fun x => { x with tsq := x.tsq ++ [e] })).tsqShow p).irq (ETH.page p) 4

/-- The frame in transmission ends; sent whole or with ERR (R389, R392, R393). [assumption 145 (DEDUCED)] -/
def State.ethSent (s : State) (p : Nat) (ok : Bool) (t : Nat) : State :=
  match (s.eth p).tx with
  | none => s
  | some (d, bs) =>
    let ok := ok && decide (bs.length ≤ 1518)
    let w1 := leNat d 4 4 % 65536 + (if (leNat d 4 4).testBit 17 then 131072 else 0) + (if ok then 0 else 262144)
    let s := s.modEth p (fun x => { x with tx := none })
    let s := (s.ethWriteDesc p true w1 none).irq (ETH.page p) 1
    let s := s.iff ok (fun s => s.bump (ETH.TX_OK_CNT p))
    let s := s.iff (ok && (leNat d 4 4).testBit 17) (fun s =>
      let (n, c) := s.stamp p t (s.get (ETH.TX_LAT_LAT p))
      s.tsqPush p (leNat d 8 2, n, c))
    s.ethExamine p

/-- A transmission ends; a descriptor that a PAUSE held is examined when that has passed (R388, R389). -/
def execEthTxDone (p : Fin 2) (ok : Bool) (ago : Nat) (s : State) : Host.Outcome State Fault Refusal :=
  if !s.ethOn p then .next s
  else
    let x := s.eth p
    let s := s.iff (x.kick && x.tx.isNone) (fun s => (s.advance x.pause).ethExamine p)
    .next (s.ethSent p ok (s.ethTime s.now - ago * tNs))

/-- TSQ_POP; a stamp that the same tick dropped at a full queue finds room (R393, R395). -/
def execTsqPop (p : Fin 2) (s : State) : Host.Outcome State Fault Refusal :=
  .next (s.judge (ETH.page p) 0xC0 [((s.eth p).tsq.isEmpty, eTSQ_EMPTY)] (fun s =>
    let s := (s.modEth p (fun x => { x with tsq := x.tsq.drop 1 })).tsqShow p
    match (s.eth p).tsqLost with
    | some (t, e, ovf, irq) => if t = s.ethTick then
        let s := (s.set (ETH.TSQ_STAT_OVF p) ovf).setB ⟨HDR.IRQ_RAW (ETH.page p), 5, 1⟩ irq
        (s.modEth p (fun x => { x with tsqLost := none })).tsqPush p e
      else s
    | none => s))

/-! ### Receiving (R388, R389) -/

/-- The address filter passes a frame (R388). -/
def State.ethPass (s : State) (p : Nat) (d : List Byte) : Bool :=
  let dst := leNat d 0 6
  let own := s.get (ETH.MAC0_ADDR_LO p) + 4294967296 * s.get (ETH.MAC1_ADDR_HI p)
  s.on (ETH.CFG_PROMISC p) || dst == own || dst == 0xFFFFFFFFFFFF || (dst % 2 == 1 && s.on (ETH.CFG_MCAST_ALL p))

/-- A time of one bit at the link's speed. -/
def State.ethBitTime (s : State) (p : Nat) : Nat :=
  match s.get (ETH.LINK_SPEED p) with
  | 0 => 100 * tNs
  | 1 => 10 * tNs
  | _ => tNs

/-- A received frame: FCS, length, PAUSE, address, then the next owned descriptor (R388, R389, R392).
[assumption 145 (DEDUCED)] -/
def State.ethRx (s : State) (p : Nat) (d : List Byte) (fcs : Bool) (t : Nat) : State :=
  let pg := ETH.page p
  let n := d.length
  let vlan := leNat d 12 2 == 0x0081
  let pause := leNat d 0 6 == 0x010000C28001 && leNat d 12 2 == 0x0888 && leNat d 14 2 == 0x0100
  if !fcs then (s.bump (ETH.RX_ERR_RX_FCS p)).irq pg 6
  else if (if vlan then 1518 else 1514) < n then s.bump (ETH.RX_LONG_CNT p)
  else if n < 60 then s
  else if pause && s.on (ETH.CFG_RX_PAUSE p) then
    let q := (d.getD 16 0).toNat * 256 + (d.getD 17 0).toNat
    let s := s.modEth p (fun x => { x with pause := s.now + q * 512 * s.ethBitTime p })
    s.iff (q == 0 && (s.eth p).kick) (fun s => s.ethExamine p)
  else if !s.ethPass p d then s
  else
    let ch := s.get (ETH.CFG_RX_DMA p)
    match s.dmaRead ch (s.ethDesc p false) 16 with
    | (none, s) => s
    | (some w, s) =>
      if !(leNat w 4 4).testBit 16 then (s.bump (ETH.RX_ERR_RX_NODESC p)).irq pg 2
      else
        let (ok, s) := s.dmaPut ch (leNat w 0 4) 4 d
        if !ok then s
        else
          let (ns, sec) := s.stamp p t (-(s.get (ETH.RX_LAT_LAT p) : Int))
          let s := s.ethWriteDesc p false n (some (ns, sec))
          (s.bump (ETH.RX_OK_CNT p)).irq pg 0

def execEthFrameRx (p : Fin 2) (data : List Byte) (fcs : Bool) (ago : Nat) (s : State) : Host.Outcome State Fault Refusal :=
  .next (if s.ethOn p && s.on (ETH.LINK_LINK p) then s.ethRx p data fcs (s.ethTime s.now - ago * tNs) else s)

/-- The link goes up or down; a frame in transmission is not sent whole. The speed is the one negotiated, or CFG.SPEED where
AN_EN is 0; 1000BASE-X has one speed (R388, R395, R398). -/
def execLinkChange (p : Fin 2) (up : Bool) (speed : Fin 3) (an : Bool) (s : State) : Host.Outcome State Fault Refusal :=
  if !s.ethOn p then .next s else
  let auto := s.on (ETH.CFG_AN_EN p)
  let sp := if s.on (ETH.CFG_IF p) then 2 else if auto then speed.val else s.get (ETH.CFG_SPEED p)
  let s := (((s.setB (ETH.LINK_LINK p) up).set (ETH.LINK_SPEED p) sp).setB (ETH.LINK_AN_DONE p) (an && up && auto)).setB
    (ETH.LINK_SYNC p) up
  let s := s.irq (ETH.page p) 3
  .next (if up then s else s.ethSent p false (s.ethTime s.now))

/-! ### PTP as the source of station time (R322, R394) -/

/-- The port TSRC names on a root. -/
def State.ptpPort (s : State) : Option Nat :=
  if s.isRoot then match s.get TBS.TCFG_TSRC with
    | 1 => some 0
    | 2 => some 1
    | _ => none
  else none

/-- The rate of a port's PTP clock against REFCLK in 10⁻¹¹, by the increment in force (R390). -/
def State.ptpRate (s : State) (p : Nat) : Int :=
  let x := s.eth p
  let inc := match x.pend with
    | some q => if q.at_ ≤ s.ethTime s.now then q.inc.getD x.inc else x.inc
    | none => x.inc
  ((inc : Int) - 34359738368) * 100000000000 / 34359738368

/-- The root steers RATE (R319, R394): it takes the rate of its source, corrected towards an offset by an amount the spec
leaves open, within RATE_MAX; a source whose rate lies beyond the limit holds RATE there, with RATE_LIM.
[assumption 256 (DEDUCED)] -/
def State.steer (s : State) (p : Nat) (ofs : Int) : State :=
  let g := s.ptpRate p
  let lim : Int := 100 * s.get TBS.TCFG_RATE_MAX
  if lim < g.natAbs then
    ((s.iff (!s.on TBS.TSTAT_RATE_LIM) (fun s => s.irq TBS.page 13)).set TBS.TSTAT_RATE_LIM 1).rateTo g
  else
    let s := s.set TBS.TSTAT_RATE_LIM 0
    if ofs = 0 then s.rateTo g
    else
      let (i, s) := s.free
      s.rateTo (g + (Config.freeWord i).toInt)

/-- The offset of station time from the grandmaster at each boundary, and RATE: the source stands while VALID is 1, and
while it has failed RATE keeps its last value; a root without a source runs from REFCLK (R319, R322, R394).
[assumption 146 (DEDUCED)] -/
def State.ptpBoundary (s : State) : State :=
  match s.ptpPort with
  | none =>
    if s.isRoot && s.get TBS.TCFG_TSRC == 0 && !s.on TBS.TSTAT_HOLDOVER then
      ((s.rateTo 0).set TBS.TSTAT_RATE_LIM 0).set TBS.TSTAT_PTP_LOCK 0
    else s
  | some p =>
    let ofs := s.stAt s.bndAt / (960 : Nat) - ((s.ptp p s.bndAt / pNs : Nat) : Int)
    let ok := s.on (ETH.PTP_STAT_VALID p)
    let s := (s.setS TBS.PTP_OFS_OFS (satS 32 ofs)).setB TBS.TSTAT_PTP_LOCK ok
    s.iff ok (fun s => s.steer p ofs)

/-- The PTP source fails: PTP_LOST, and the root enters holdover (R322, R394). -/
def State.ptpFail (s : State) (p : Nat) : State :=
  if s.ptpPort = some p then ((s.irq TBS.page 12).set TBS.TSTAT_PTP_LOCK 0).holdover else s

/-- PTP_STAT.VALID: clearing it fails the source; setting it again ends the holdover (R322, R394). -/
def execPtpValidWrite (p : Fin 2) (v : Bool) (s : State) : Host.Outcome State Fault Refusal :=
  .next (s.judge (ETH.page p) 0xAC [] (fun s =>
    let was := s.on (ETH.PTP_STAT_VALID p)
    let s := s.setB (ETH.PTP_STAT_VALID p) v
    if was && !v then s.ptpFail p
    else if v && !was && s.ptpPort == some p.val then s.holdEnd else s))

/-! ### MDIO (R388) -/

/-- MDIO.GO starts a transaction; while one runs the register is busy. [assumption 147 (DEDUCED)] -/
def execMdioGo (p : Fin 2) (val : Word) (s : State) : Host.Outcome State Fault Refusal :=
  .next (s.judge (ETH.page p) 0xC4 [(s.on (ETH.MDIO_GO p), eBUSY)] (fun s =>
    s.setReg (ETH.MDIO p) ((val &&& 0x07FFFFFF) ||| 0x08000000)))

def execMdioDone (p : Fin 2) (data : BitVec 16) (s : State) : Host.Outcome State Fault Refusal :=
  if !s.on (ETH.MDIO_GO p) || s.gated 10 then .next s
  else
    let s := s.iff (!s.on (ETH.MDIO_WR p)) (fun s => s.set (ETH.MDIO_DATA p) data.toNat)
    .next ((s.set (ETH.MDIO_GO p) 0).irq (ETH.page p) 7)

/-- The refusals of a configuration write (R398). -/
def State.ethCfgConds (s : State) (p ofs : Nat) (val : Word) : List (Bool × Nat) :=
  let n := getBits val 0 9
  [(ofs == 0x40 && (getBits val 2 2 == 3 || (getBits val 0 1 == 1 && decide (getBits val 2 2 < 2))), eRANGE),
   ((ofs == 0x54 || ofs == 0x5C) && decide (n < 2 ∨ 256 < n), eRANGE),
   (s.ethOn p && [0x40, 0x44, 0x48, 0x50, 0x54, 0x58, 0x5C].contains ofs, eBUSY)]

end Sys2Proof.Machine
end

