-- ==== Sys2Proof/Machine/Intc.lean ====
section
/-! DEFINITION. The interrupt controller, host DMA channels and the claim report (R483, R488, R493, R494). -/

namespace Sys2Proof.Machine

/-! ### Interrupt lines (R483, R488) -/

/-- The events of a page, as IRQ_RAW shows them: the ADC common page follows its pairs (R307). -/
def State.rawOf (s : State) (pg : Nat) : Word :=
  if pg = 0x40400000 then
    BitVec.ofNat 32 (maskOf ((List.range 8).filter (fun p =>
      s.reg (HDR.IRQ_RAW (0x40401000 + 0x1000 * p)) &&& s.reg (HDR.IRQ_EN (0x40401000 + 0x1000 * p)) != 0)))
  else s.reg (HDR.IRQ_RAW pg)

/-- Interrupt line `l` is asserted (R483). -/
def State.lineOn (s : State) (l : Nat) : Bool :=
  s.rawOf (pageOfLine l) &&& s.reg (HDR.IRQ_EN (pageOfLine l)) != 0

/-- The line CLAIMx returns: the highest priority above the threshold, ties to the lower line; 0xFF for none (R488). -/
def State.bestLine (s : State) (x : Nat) : Nat :=
  let thr := s.get (INTC.THR_THR x)
  let c := (List.range 130).filter (fun l => (s.get (INTC.SRC_TGT l)).testBit x && !s.on (INTC.SRC_ACT l)
    && decide (thr < s.get (INTC.SRC_PRIO l)) && s.lineOn l)
  (c.foldl (fun (b : Nat × Nat) l => if b.1 < s.get (INTC.SRC_PRIO l) then (s.get (INTC.SRC_PRIO l), l) else b) (0, 0xFF)).2

/-- A read of CLAIMx takes the line (R488). -/
def execIntcClaim (x : Fin 2) (s : State) : Host.Outcome State Fault Refusal :=
  let l := s.bestLine x
  let s := { s with resp := .value (BitVec.ofNat 32 l) }
  .next (s.iff (l != 0xFF) (fun s => s.set (INTC.SRC_ACT l) 1))

/-- A write to COMPLETEx ends the line (R488). -/
def execIntcComplete (x : Fin 2) (line : BitVec 8) (s : State) : Host.Outcome State Fault Refusal :=
  .next (s.judge INTC.page (0x50 + 4 * x.val) [(decide (130 ≤ line.toNat), eRANGE)] (fun s => s.set (INTC.SRC_ACT line.toNat) 0))

/-- An interrupt enabled towards a host core is pending; the priority does not matter (R408, R488). -/
def State.intPending (s : State) : Bool :=
  (List.range 130).any (fun l => s.get (INTC.SRC_TGT l) != 0 && s.lineOn l)

/-! ### Host DMA channels (R494) -/

/-- A channel is held by its own hardware: ADC, CAN or Ethernet. -/
def State.dmaHeld (s : State) (n : Nat) : Bool := [9, 10, 11].contains (s.claim (resKey 3 n)).cls

/-- A write to a register of a channel: those of a channel held by another are refused (R494). -/
def State.dmaRegWrite (s : State) (ofs : Nat) (val : Word) : State :=
  let n := (ofs - 0x100) / 0x10
  let bad := decide (ofs % 0x10 < 0xC) && val &&& 3 != 0
  if s.pageGated DMA.page then s
  else if s.dmaHeld n && !bad then s.deny DMA.page ofs (resKey 3 n) 12 n
  else s.judge DMA.page ofs [(bad, eRANGE)] (fun s => s.take .dma DMA.page ofs val)

/-- GO starts a transfer on a channel the host holds (R494). -/
def State.dmaGo (s : State) (n : Nat) : State :=
  if s.pageGated DMA.page then s
  else if s.dmaHeld n then s.deny DMA.page (0x10C + 0x10 * n) (resKey 3 n) 12 n
  else s.judge DMA.page (0x10C + 0x10 * n) [(!s.on (DMA.CH_CFG_EN n), eSTATE), (s.on (DMA.CH_CFG_GO n), eBUSY)] (fun s =>
    { (s.set (DMA.CH_CFG_GO n) 1) with dmaN := s.dmaN ++ [n] })

def execDmaGo (n : Fin 32) (s : State) : Host.Outcome State Fault Refusal := .next (s.dmaGo n)

/-- A write to CHn_CFG: the host claim, RT, the W1C bits, then GO (R494). -/
def State.dmaCfgWrite (s : State) (n : Nat) (val : Word) : State :=
  let ofs := 0x10C + 0x10 * n
  if s.pageGated DMA.page then s
  else if s.dmaHeld n then s.deny DMA.page ofs (resKey 3 n) 12 n
  else s.judge DMA.page ofs [] (fun s =>
    let en := getBits val 0 1 == 1
    let s := (s.iff (val.getLsbD 3) (fun s => s.set (DMA.CH_CFG_DONE n) 0)).iff (val.getLsbD 4) (fun s => s.set (DMA.CH_CFG_ERR n) 0)
    let s := s.set (DMA.CH_CFG_RT n) (getBits val 1 1)
    let s := if en && !s.on (DMA.CH_CFG_EN n) then
        s.claimAll DMA.page ofs [resKey 3 n] 12 n (fun s => s.set (DMA.CH_CFG_EN n) 1)
      else if !en && s.on (DMA.CH_CFG_EN n) then
        { ((s.set (DMA.CH_CFG_EN n) 0).set (DMA.CH_CFG_GO n) 0).release (resKey 3 n) 12 n with dmaN := s.dmaN.filter (· != n) }
      else s
    s.iff (val.getLsbD 2) (fun s => s.dmaGo n))

/-! ### The claim report (R493) -/

/-- A write to QRY reports the holder of the resource it names. -/
def execPinQuery (val : Word) (s : State) : Host.Outcome State Fault Refusal :=
  let r := getBits val 0 8
  let i := getBits val 8 8
  .next (s.judge PIN.page 0x40 [(decide (r = 0 ∨ 9 < r), eRANGE)] (fun s =>
    let h := s.claim (resKey r i)
    let s := (s.set PIN.QRY_RCLS r).set PIN.QRY_RIDX i
    (((s.set PIN.QRES_CLS h.cls).set PIN.QRES_INST h.inst).set PIN.QRES_SUB_CLS h.subCls).set PIN.QRES_SUB_INST h.subInst))

end Sys2Proof.Machine
end

