-- ==== Sys2Proof/Machine/Islands.lean ====
section
/-! DEFINITION. Leg islands: command lines, the opposite-gate interlock, desaturation, gate overvoltage and supply
faults, soft turn-off, the bus policy and the self-test (R259–R285). Of a pair of fields the first is the high
switch's. -/

namespace Sys2Proof.Machine

abbrev iFLT_ACTIVE : Nat := 0x40
abbrev iBMODE : Nat := 0x41
abbrev iNOT_IDLE : Nat := 0x42

/-! ### The two switches of an island -/

def Isl.line (x : Isl) (high : Bool) : Nat := if high then x.lineH else x.lineL
def Isl.on (x : Isl) (high : Bool) : Bool := if high then x.onH else x.onL
def Isl.wait (x : Isl) (high : Bool) : Option Nat := if high then x.waitH else x.waitL
def Isl.blank (x : Isl) (high : Bool) : Option Nat := if high then x.blankH else x.blankL
def Isl.soft (x : Isl) (high : Bool) : Option Nat := if high then x.softH else x.softL
def Isl.slot (x : Isl) (high : Bool) : Option Nat := if high then x.slotH else x.slotL
def Isl.cut (x : Isl) (high : Bool) : Option Nat := if high then x.cutH else x.cutL
def Isl.setOn (x : Isl) (high b : Bool) : Isl := if high then { x with onH := b } else { x with onL := b }
def Isl.setWait (x : Isl) (high : Bool) (t : Option Nat) : Isl :=
  if high then { x with waitH := t } else { x with waitL := t }
def Isl.setBlank (x : Isl) (high : Bool) (t : Option Nat) : Isl :=
  if high then { x with blankH := t } else { x with blankL := t }
def Isl.setSoft (x : Isl) (high : Bool) (t : Option Nat) : Isl :=
  if high then { x with softH := t } else { x with softL := t }
def Isl.setSlot (x : Isl) (high : Bool) (t : Option Nat) : Isl :=
  if high then { x with slotH := t } else { x with slotL := t }
def Isl.soften (x : Isl) (high : Bool) : Bool := if high then x.softenH else x.softenL
def Isl.setSoften (x : Isl) (high b : Bool) : Isl := if high then { x with softenH := b } else { x with softenL := b }
def Isl.setCut (x : Isl) (high : Bool) (t : Option Nat) : Isl :=
  if high then { x with cutH := t } else { x with cutL := t }

/-- GH_ON or GL_ON: the gate has been seen above VOFF_OK and not yet verified off (R268, R282). -/
def gateFld (k : Nat) (high : Bool) : Fld := if high then LEG.STAT_GH_ON k else LEG.STAT_GL_ON k

def State.legEn (s : State) (k : Nat) : Bool := s.on (HDR.CTRL_EN (LEG.page k))
def State.legFlt (s : State) (k : Nat) : Nat := s.get (LEG.FLT_FAULTS k)

/-- The faults R273 and R276 except: DSAT_H, GOV_H and IL_TMO_H. -/
abbrev fltAsc : Nat := 0x25

/-- An island is idle (R279). -/
def State.islIdle (s : State) (k : Nat) : Bool :=
  s.legEn k && (s.claim (resKey 2 k)).cls == 0
    && (match (s.island k).offSince with | some t => decide (t + 10 * tUs ≤ s.now) | none => false)
    && s.legFlt k == 0 && s.on (LEG.STAT_VPOS_OK k) && s.on (LEG.STAT_VNEG_OK k)

/-- STAT.SOFT and STAT.IDLE follow the island (R272, R279). -/
def State.islStat (s : State) (k : Nat) : State :=
  let x := s.island k
  (s.setB (LEG.STAT_SOFT k) (x.softH.isSome || x.softL.isSome)).setB (LEG.STAT_IDLE k) (s.islIdle k)

/-- The faults of an island permit its switch to turn on: none, or for the low switch those of R273 under a latch with
action ASC. -/
def State.fltLets (s : State) (k : Nat) (high : Bool) : Bool :=
  s.legFlt k == 0 || (!high && s.legCode k == 3 && s.legFlt k ||| fltAsc == fltAsc)

/-- A switch may be driven on: the island is enabled and supplied, not faulted and not under test, no soft turn-off of the
leg runs and no staggered one is due on it; the low switch also waits for the high switch's slot (R259, R263, R272, R273,
R277, R279). [assumption 88 (DEDUCED)] -/
def State.mayOn (s : State) (k : Nat) (high : Bool) : Bool :=
  let x := s.island k
  s.legEn k && s.on (LEG.STAT_VPOS_OK k) && s.on (LEG.STAT_VNEG_OK k) && !s.on (LEG.STAT_TESTING k) && s.fltLets k high
    && x.softH.isNone && x.softL.isNone && (x.slot high).isNone && (high || x.slotH.isNone)

/-- A switch begins to be driven on: its gate rises and blanking starts (R268, R270). -/
def State.switchOn (s : State) (k : Nat) (high : Bool) : State :=
  let s := s.set (gateFld k high) 1
  s.modIsland k (fun x =>
    let x := (((x.setOn high true).setSoften high false).setWait high none).setBlank high (some (s.now + s.get (LEG.PROT_BLANK k) * (tNs * 100)))
    if high then x else { x with lowOn := some s.now })

/-- A switch is driven off at its programmed sink current, its soft turn-off being left to run; its gate is verified later
(R260, R267, R268). -/
def State.switchOff (s : State) (k : Nat) (high : Bool) : State :=
  s.modIsland k (fun x =>
    let x := (((x.setOn high false).setSoften high (x.soft high).isSome).setWait high none).setBlank high none
    if high then x
    else
      { x with
        lowOn := none
        charged := x.charged || (match x.lowOn with
          | some t => decide (t + s.get (LEG.TIM_T_BCHG k) * tUs ≤ s.now)
          | none => false) })

/-- Both switches off, at the programmed sink currents; a soft turn-off under way is left to run (R281). -/
def State.bothOff (s : State) (k : Nat) : State := (s.switchOff k true).switchOff k false

/-- A turn-on of the high switch without BST_OK is refused: counted, and reported once since BST_OK cleared (R261). -/
def State.bstRefuse (s : State) (k : Nat) : State :=
  let s := s.bump (LEG.CNT_BST_REF k)
  if (s.island k).refReported then s
  else (s.modIsland k (fun x => { x with refReported := true })).irq (LEG.page k) 1

/-- A commanded turn-on: refused for the high switch without BST_OK, at once where the opposite gate is verified off,
else it waits (R261, R268). [assumption 88 (DEDUCED)] -/
def State.turnOn (s : State) (k : Nat) (high : Bool) : State :=
  let x := s.island k
  if !s.mayOn k high || x.on high || (x.wait high).isSome then s
  else if high && !s.on (LEG.STAT_BST_OK k) then
    s.bstRefuse k
  else if s.on (gateFld k !high) then s.setIsland k (x.setWait high (some s.now))
  else s.switchOn k high

/-! ### Faults (R273) -/

/-- Source LEG is active while an island its latches cover has a fault latched (R278). -/
def State.legSource (s : State) : State :=
  let cov := s.latches.foldl (fun m l => if l.src = 11 then m ||| l.hiz ||| l.asc else m) 0
  s.srcActive 11 ((bitsOf 12 cov).any (fun k => s.legFlt k != 0))

/-- An enabled island latches a fault: FLT, FIRST and its instant, IRQ FAULT and the event log; a fault already latched
adds nothing. Both switches are held off and the fault awaits its report (R263, R273, R275). -/
def State.islFault (s : State) (k bit : Nat) : State :=
  if !s.legEn k || (s.legFlt k).testBit bit then s
  else
    let first := s.get (LEG.FLT_FIRST k) == 0
    let s := (s.set (LEG.FLT_FAULTS k) (s.legFlt k ||| 1 <<< bit)).set (LEG.STAT_FAULTED k) 1
    let s := s.iff first (fun s => ((s.set (LEG.FLT_FIRST k) (bit + 1)).set (LEG.FLT_T_OFS k)
      ((s.now - s.bndAt) / t10)).set (LEG.FLT_T_PIDX k) s.pidx)
    let s := ((s.irq (LEG.page k) 0).log (LEG.page k) 0 k s.pidx).bothOff k
    let s := s.modIsland k (fun x => { x with reports := x.reports ++ [(bit, s.now)] })
    let s := if (s.island k).lineL == 1 && (s.island k).lineH != 1 then s.turnOn k false else s
    s.legSource

/-- A soft turn-off of a switch: 0.5 A for 2 µs (R272). -/
def State.softOff (s : State) (k : Nat) (high : Bool) : State :=
  (s.switchOff k high).modIsland k (fun x => ((x.setSoft high (some (s.now + 2 * tUs))).setSlot high none).setSoften high true)

/-- A desaturation or gate-overvoltage fault of a switch: latched, with its soft turn-off; during a soft turn-off of the
same switch a second fault changes nothing (R270–R272). -/
def State.switchFault (s : State) (k : Nat) (high : Bool) (bit : Nat) : State :=
  if (s.island k).soft high |>.isSome then s else ((s.softOff k high).islFault k bit).islStat k

/-! ### Command lines (R261, R263, R264) -/

/-- STAT.CMDIN of a pair of lines. [assumption 85 (DEDUCED)] -/
def cmdinOf (h l : Nat) : Nat :=
  if h == 1 && l == 1 then 4 else if h == 1 then 1 else if l == 1 then 2 else if h == 2 || l == 2 then 3 else 0

/-- A command line no longer reads ON: the switch turns off, and a wait in the interlock ends; before its slot of a
fired policy the switch keeps its state (R263, R277). -/
def State.lineOff (s : State) (k : Nat) (high : Bool) : State :=
  let x := s.island k
  if (x.slot high).isSome then s
  else if x.on high then
    let over_ := match x.blank high with | some t => decide (t ≤ s.now) | none => true
    (s.switchOff k high).modIsland k (fun x => x.setCut high (if over_ then some s.now else none))
  else s.setIsland k (x.setWait high none)

/-- One sample of the command lines; the low line is obeyed as long as it reads ON, so that the switch follows it when an
ASC latch lets it (R273). With their domain gated the islands stand, and their pages read as before (R401).
[assumption 87 (DEDUCED)] -/
def State.islSample (s : State) (k h l : Nat) : State :=
  if s.gated 15 then s else
  let x := s.island k
  let s := s.set (LEG.STAT_CMDIN k) (cmdinOf h l)
  let off := if h == 1 || l == 1 then none else if x.offSince.isSome then x.offSince else some s.now
  let s := s.setIsland k { x with lineH := h, lineL := l, offSince := off }
  if !s.legEn k then s.islStat k
  else if h == 1 && l == 1 then ((s.bothOff k).islFault k 4 |>.irq (LEG.page k) 2).islStat k
  else
    let s := if h == 1 then s else s.lineOff k true
    let s := if l == 1 then s else s.lineOff k false
    let s := if h == 1 && x.lineH != 1 then s.turnOn k true else s
    let s := if l == 1 then s.turnOn k false else s
    s.islStat k

/-- A switch whose line still reads ON is obeyed once what held it off has passed (R268, R277). -/
def State.resume (s : State) (k : Nat) (high : Bool) : State :=
  if (s.island k).line high == 1 && (s.island k).line (!high) != 1 then s.turnOn k high else s

/-- The opposite gate is verified off: its sense bit clears and a waiting switch turns on, its delay counted, or is
refused where BST_OK has cleared meanwhile (R261, R268). -/
def State.verify (s : State) (k : Nat) (high : Bool) : State :=
  let x := s.island k
  if x.on (!high) then s
  else
    let s := s.set (gateFld k !high) 0
    match x.wait high with
    | some _ =>
      if !s.mayOn k high then s.setIsland k (x.setWait high none)
      else if high && !s.on (LEG.STAT_BST_OK k) then (s.setIsland k (x.setWait high none)).bstRefuse k
      else ((s.bump (LEG.CNT_IL_DLY k)).switchOn k high).islStat k
    | none => s

/-- The wait in the interlock has lasted IL_TMO (R269). -/
def State.ilTmo (s : State) (k : Nat) (high : Bool) : State :=
  match (s.island k).wait high with
  | some t =>
    let s := s.advance (t + s.get (LEG.TIM_IL_TMO k) * (tNs * 100))
    (s.islFault k (if high then 5 else 6)).islStat k
  | none => s

/-! ### Supplies and bootstrap (R259–R262) -/

/-- The self-test ends without a result of its own: TEST_FAIL with ABORT (R280). [assumption 90 (DEDUCED)] -/
def State.testAbort (s : State) (k : Nat) : State :=
  if s.on (LEG.STAT_TESTING k) then
    let s := ((s.set (LEG.STAT_TESTING k) 0).set (LEG.STAT_TEST_FAIL k) 1).set (LEG.TEST_RES_ABORT k) 1
    (s.release (resKey 2 k) 8 k).irq (LEG.page k) 4
  else s

/-- A supply leaves its range (R259): the OK bits clear; where both have been good since reset the island sinks both
gates at once and latches SUP_UV. [assumption 90 (DEDUCED)] -/
def State.supUv (s : State) (k : Nat) (pos neg : Bool) : State :=
  if (!pos && !neg) || s.gated 15 then s
  else
    let s := s.iff pos (fun s => s.set (LEG.STAT_VPOS_OK k) 0)
    let s := s.iff neg (fun s => s.set (LEG.STAT_VNEG_OK k) 0)
    let s := s.testAbort k
    if !(s.island k).everGood then s.islStat k
    else
      let s := (s.bothOff k).modIsland k (fun x => { x with softH := none, softL := none, slotH := none, slotL := none })
      let s := s.iff (s.legEn k) (fun s => s.irq (LEG.page k) 5)
      (s.islFault k 7).islStat k

/-- The supplies are back in range: what held the switches off has passed (R259). -/
def State.supGood (s : State) (k : Nat) : State :=
  if s.gated 15 then s else
  let s := ((s.set (LEG.STAT_VPOS_OK k) 1).set (LEG.STAT_VNEG_OK k) 1).modIsland k (fun x => { x with everGood := true })
  ((s.resume k true).resume k false).islStat k

/-- The bootstrap voltage is good: BST_OK sets once the low switch has been on for T_BCHG (R260). -/
def State.bstCharged (s : State) (k : Nat) : State :=
  let x := s.island k
  if x.charged then s.set (LEG.STAT_BST_OK k) 1
  else match x.lowOn with
    | some t => (s.advance (t + s.get (LEG.TIM_T_BCHG k) * tUs)).set (LEG.STAT_BST_OK k) 1
    | none => s

/-- BST_OK clears; a high switch that is on turns off and BST_LOST latches (R260, R262, R281). -/
def State.bstLost (s : State) (k : Nat) : State :=
  let s := (s.set (LEG.STAT_BST_OK k) 0).modIsland k (fun x => { x with charged := false, lowOn := none, refReported := false })
  if (s.island k).onH then ((s.switchOff k true).islFault k 8).islStat k else s

/-! ### Adaptive drive (R267) -/

/-- One measured transition of a loop, its time in ns: a turn-on of a switch still on, or a turn-off of one still off that
was no soft turn-off (R267). [assumption 263 (DEDUCED)] -/
def State.adaptStep (s : State) (k kind time : Nat) : State :=
  let high := decide (kind < 2)
  let y := s.island k
  let whole := if kind % 2 = 0 then y.on high else !y.on high && !y.soften high
  if s.get (LEG.CFG_DRV k) != 2 || !s.legEn k || s.on (LEG.STAT_TESTING k) || !whole then s
  else
    let s := s.set ⟨LEG.TMEAS k, 8 * kind, 8⟩ (min 255 (time / 2))
    let f : Fld := ⟨LEG.ADP_STAT k, 4 * kind, 4⟩
    let tgt := 10 * s.get (if kind % 2 = 0 then LEG.ADP_TGT_ON k else LEG.ADP_TGT_OFF k)
    let tol := 10 * s.get (LEG.ADP_TOL k)
    let lo := s.get (LEG.DRV_ADP_MIN k)
    let hi := s.get (LEG.DRV_ADP_MAX k)
    let slow := decide (tgt + tol < time)
    let fast := decide (time + tol < tgt)
    let c := s.get f
    let c' := if s.on (LEG.CFG_ADP_FRZ k) then c
      else if slow then max lo (min hi (c + 1)) else if fast then max lo (min hi (c - 1)) else c
    let s := s.set f c'
    let x := s.island k
    let out := if slow || fast then x.adpOut ||| 1 <<< kind else x.adpOut &&& (15 ^^^ 1 <<< kind)
    let s := s.setIsland k { x with adpOut := out }
    let lim := [0, 1, 2, 3].any (fun i => out.testBit i && (let c := s.get ⟨LEG.ADP_STAT k, 4 * i, 4⟩; c == lo || c == hi))
    let s := s.iff (lim && !s.on (LEG.STAT_ADP_LIM k)) (fun s => s.irq (LEG.page k) 6)
    s.setB (LEG.STAT_ADP_LIM k) lim

/-- The codes start from DRV (R267). -/
def State.adpStart (s : State) (k : Nat) : State :=
  ((s.set (LEG.ADP_STAT_CODES k) (getBits (s.reg (LEG.DRV k)) 0 16)).modIsland k (fun x => { x with adpOut := 0 })).set
    (LEG.STAT_ADP_LIM k) 0

/-! ### Bus policy (R274–R278) -/

/-- The faults of a switch of its own (R277). -/
def ownFaults (high : Bool) : Nat := if high then 0x125 else 0x4A

/-- The policy of bus `b` fires on faults of islands `a` and `c` (R276, R277). [assumption 93 (DEDUCED)] -/
def State.policyFire (s : State) (b a c : Nat) : State :=
  let grp := fun k => s.get (LEG.CFG_CGRP k)
  let scope := (List.range 12).filter (fun k =>
    s.get (LEG.CFG_BUS k) == b && (s.on (LEG.BUSPOL_SCOPE 0 b) || grp k == grp a || grp k == grp c))
  let want := s.on (LEG.BUSPOL_ACT 0 b)
  let asc := want && scope.all (fun k => s.legFlt k ||| fltAsc == fltAsc)
  let m := maskOf scope
  let turn := scope.flatMap (fun k => ([true, false].filter (fun h =>
    (s.island k).on h && s.legFlt k &&& ownFaults h == 0 && ((s.island k).soft h).isNone
      && ((s.island k).slot h).isNone)).map (fun h => (k, h)))
  let s := if asc then s.trip 11 0 m 0 else s.trip 11 m 0 0
  let s := s.srcActive 11 true
  let s := s.setReg (LEG.BUS_EVT 0) (BitVec.ofNat 32 (a + 16 * c + 256 * b + (if want && !asc then 1024 else 0) + 2048 + 4096 * m))
  let s := s.each scope (fun (s : State) (k : Nat) =>
    (s.irq (LEG.page k) 3).modIsland k (fun x => { x with waitH := none, waitL := none }))
  let s := s.each turn.zipIdx (fun s (q : (Nat × Bool) × Nat) =>
    s.modIsland q.1.1 (fun x => x.setSlot q.1.2 (some (s.now + 200 * tNs * (q.2 + 1)))))
  let s := s.iff asc (fun s => s.each scope (fun s k => s.resume k false))
  s.machForce (if asc then mASC else mINHIBIT) ([0, 1].filter (fun mm => (s.machLegs mm).any (fun l => m.testBit l)))

/-- The oldest fault of an island not yet reported reaches the control field and is judged by its bus's policy (R275).
[assumption 93 (DEDUCED)] -/
def State.faultReport (s : State) (k : Nat) : State :=
  let x := s.island k
  match x.reports with
  | [] => s
  | (bit, t) :: rest =>
    let s := s.setIsland k { x with reports := rest }
    let b := s.get (LEG.CFG_BUS k)
    if !(s.get (LEG.BUSPOL_QUAL 0 b)).testBit bit then s
    else
      let near := s.polHist.filter (fun q => q.1 == b && q.2.1 != k
        && decide (q.2.2 < t + tUs) && decide (t < q.2.2 + tUs))
      let s := { s with polHist := (s.polHist.filter (fun (q : Nat × Nat × Nat) => decide (t < q.2.2 + 2 * tUs))) ++ [(b, k, t)] }
      match s.get (LEG.BUSPOL_TRIG 0 b), near with
      | 1, _ => s.policyFire b k k
      | 2, q :: _ => if t < q.2.2 then s.policyFire b k q.2.1 else s.policyFire b q.2.1 k
      | _, _ => s

/-- A switch's slot of a fired policy comes: it turns off softly if it is still on (R277). [assumption 89 (DEDUCED)] -/
def State.slotOff (s : State) (k : Nat) (high : Bool) : State :=
  match (s.island k).slot high with
  | none => s
  | some t =>
    let s := s.advance t
    let s := if (s.island k).on high then s.softOff k high else s.modIsland k (fun x => x.setSlot high none)
    (s.iff high (fun s => s.resume k false)).islStat k

/-! ### Enable, test and clear (R263, R266, R273, R279, R280) -/

/-- Setting CTRL.EN of an island page; a supply out of range is then a fault (R3, R259, R266, R267).
[assumption 87 (DEDUCED)] -/
def State.islEnable (s : State) (k : Nat) : State :=
  let drv := s.get (LEG.CFG_DRV k)
  let tied := s.straps.bmode.testBit k
  s.judge (LEG.page k) 0x0C [(!s.isl, eNOT_FITTED), ((drv == 0) == tied, iBMODE)] (fun s =>
    if s.legEn k then s
    else
      let s := (s.set (HDR.CTRL_EN (LEG.page k)) 1).adpStart k
      let x := s.island k
      let out := x.everGood && !(s.on (LEG.STAT_VPOS_OK k) && s.on (LEG.STAT_VNEG_OK k))
      let s := s.iff out (fun s => (s.irq (LEG.page k) 5).islFault k 7)
      if x.lineH == 1 && x.lineL == 1 then (((s.bothOff k).islFault k 4).irq (LEG.page k) 2).islStat k
      else ((s.resume k true).resume k false).islStat k)

/-- Clearing CTRL.EN of an island page: both switches are held off (R263). -/
def State.islDisable (s : State) (k : Nat) : State :=
  ((s.set (HDR.CTRL_EN (LEG.page k)) 0).bothOff k).islStat k

/-- FLT_CLR.CLR (R273). -/
def State.fltClr (s : State) (k : Nat) : State :=
  let x := s.island k
  let lines := match x.offSince with | some t => decide (t + tUs ≤ s.now) | none => false
  let ok := lines && s.on (LEG.STAT_VPOS_OK k) && s.on (LEG.STAT_VNEG_OK k) && x.softH.isNone && x.softL.isNone
  s.judge (LEG.page k) 0x60 [(s.isl && !ok, iFLT_ACTIVE)] (fun s =>
    (((s.setReg (LEG.FLT k) 0).set (LEG.STAT_FAULTED k) 0).legSource).islStat k)

/-- TEST.GO (R279). -/
def State.islTest (s : State) (k : Nat) : State :=
  s.judge (LEG.page k) 0x74 [(s.isl && !s.islIdle k, iNOT_IDLE)] (fun s => if !s.isl then s else
    let s := (s.takeClaim (resKey 2 k) 8 k).setReg (LEG.TEST_RES k) 0
    (((s.set (LEG.STAT_TESTING k) 1).set (LEG.STAT_TEST_PASS k) 0).set (LEG.STAT_TEST_FAIL k) 0).islStat k)

/-- The items that need the bootstrap: DSAT_H, GOV_H, gate sense H and drive H (R280). -/
abbrev testHigh : Nat := 0x4A8

/-- The self-test completes (R279, R280). [assumption 92 (DEDUCED)] -/
def State.islTestDone (s : State) (k fail : Nat) : State :=
  if !s.on (LEG.STAT_TESTING k) then s
  else
    let skip := if s.on (LEG.STAT_BST_OK k) then 0 else testHigh
    let fail := fail &&& (0x7FFF ^^^ skip)
    let s := ((s.set (LEG.TEST_RES_FAIL k) fail).set (LEG.TEST_RES_SKIP k) skip).set (LEG.STAT_TESTING k) 0
    let s := (s.setB (LEG.STAT_TEST_PASS k) (fail == 0 && skip == 0)).setB (LEG.STAT_TEST_FAIL k) (fail != 0)
    ((s.release (resKey 2 k) 8 k).irq (LEG.page k) 4).islStat k

/-! ### Register writes (R282, R283) -/

/-- A write to CFG, DRV, ADP, PROT, TIM or BST of an island page (R265–R271, R282). -/
def State.islCfgWrite (s : State) (k ofs : Nat) (val : Word) : State :=
  let pg := LEG.page k
  let w := fun f => s.willBe pg true f val
  s.fitted .leg pg ofs val fun s =>
  let rng : Bool := match ofs with
    | 0x40 => getBits val 0 2 == 3
    | 0x44 => decide (w (LEG.DRV_ADP_MAX k) < w (LEG.DRV_ADP_MIN k))
    | 0x48 => !(decide (5 ≤ getBits val 0 6 ∧ getBits val 0 6 ≤ 40) && decide (5 ≤ getBits val 8 6 ∧ getBits val 8 6 ≤ 40)
        && decide (1 ≤ getBits val 16 4 ∧ getBits val 16 4 ≤ 10))
    | 0x4C => !(decide (getBits val 0 5 ≤ 16) && decide (5 ≤ getBits val 5 6 ∧ getBits val 5 6 ≤ 40)
        && decide (2 ≤ getBits val 12 4 ∧ getBits val 12 4 ≤ 8) && decide (getBits val 16 4 ≤ 12)
        && decide (2 ≤ getBits val 24 5 ∧ getBits val 24 5 ≤ 20))
    | 0x50 => !(decide (10 ≤ getBits val 0 8 ∧ getBits val 0 8 ≤ 100) && decide (20 ≤ getBits val 8 8))
    | _ => !(decide (100 ≤ getBits val 0 8 ∧ getBits val 0 8 ≤ 160) && decide (1 ≤ getBits val 8 4))
  let frzOnly := ofs == 0x40 && getBits val 0 2 == s.get (LEG.CFG_DRV k) && getBits val 4 5 == getBits (s.reg (LEG.CFG k)) 4 5
  s.judge pg ofs [(rng, eRANGE), (s.legEn k && !s.islIdle k && !frzOnly, iNOT_IDLE)] (fun s =>
    let s := s.take .leg pg ofs val
    s.iff (ofs == 0x44) (fun s => s.adpStart k))

/-- A write to BUSPOLb on the L0 page (R283). -/
def State.busPolWrite (s : State) (ofs : Nat) (val : Word) : State :=
  s.judge (LEG.page 0) ofs [(s.isl && getBits val 0 2 == 3, eRANGE)] (fun s => s.take .leg (LEG.page 0) ofs val)

/-- What re-initialisation of an island page does before its registers are reset: the island is off, and a test's claim
is released (R280, R484). [assumption 91 (DEDUCED)] -/
def State.islReinit (s : State) (k : Nat) : State :=
  let s := s.iff (s.on (LEG.STAT_TESTING k)) (fun s => s.release (resKey 2 k) 8 k)
  let x := (s.bothOff k).island k
  s.setIsland k { lineH := x.lineH, lineL := x.lineL, offSince := x.offSince, everGood := x.everGood, charged := x.charged,
                  refReported := x.refReported }

/-- And after they are reset, from the STAT word before: the bits that report lines, gates and supplies follow what
they report, and a test that ran was aborted (R259, R260, R280). -/
def State.islReinitDone (s : State) (k : Nat) (old : Word) : State :=
  let s := s.setReg (LEG.STAT k) (BitVec.ofNat 32 (getBits old 0 8 + if getBits old 10 1 = 1 then 0x1000 else 0))
  let s := s.setB (LEG.CFG_BMODE k) (s.straps.bmode.testBit k)
  (s.iff (getBits old 10 1 == 1) (fun s => s.set (LEG.TEST_RES_ABORT k) 1)).legSource

/-! ### The commands -/

/-- ISLAND_ENABLE (R266). -/
def execIslandEnable (k : Fin 12) (s : State) : Host.Outcome State Fault Refusal := .next (s.islEnable k)

/-- ISLAND_CMD_CHANGE, with the requests for a chopper's current and of source EVT where the low line turns on (R248, R261,
R263, R264, R293). [assumption 85 (DEDUCED)] -/
def execIslandCmdChange (k : Fin 12) (h l : Fin 3) (s : State) : Host.Outcome State Fault Refusal :=
  .next ((s.islSample k h l).iff (l.val == 1 && (s.island k).lineL != 1) (fun s => ((s.chopTurnOn k).modIsland k (fun x => { x with lowAt := some s.now })).evtTurnOn k))

/-- INTERLOCK_VERIFY (R268). [assumption 86 (DEDUCED)] -/
def execInterlockVerify (k : Fin 12) (high : Bool) (s : State) : Host.Outcome State Fault Refusal := .next (s.verify k high)

/-- IL_TMO (R269). -/
def execIlTmo (k : Fin 12) (high : Bool) (s : State) : Host.Outcome State Fault Refusal := .next (s.ilTmo k high)

/-- BLANK_END (R270). -/
def execBlankEnd (k : Fin 12) (high above : Bool) (s : State) : Host.Outcome State Fault Refusal :=
  .next (match (s.island k).blank high with
    | none => s
    | some t =>
      let s := (s.advance t).modIsland k (fun x => x.setBlank high none)
      if above && (s.island k).on high then s.switchFault k high (if high then 0 else 1) else s)

/-- DSAT_DETECT: after blanking while the switch is on, or in the sample that turned it off (R270, R281). -/
def execDsatDetect (k : Fin 12) (high : Bool) (s : State) : Host.Outcome State Fault Refusal :=
  let x := s.island k
  .next (if (x.on high && (match x.blank high with | some t => decide (t ≤ s.now) | none => true))
      || x.cut high == some s.now then s.switchFault k high (if high then 0 else 1) else s)

/-- GOV_DETECT: while the switch is on, blanking included (R271). -/
def execGovDetect (k : Fin 12) (high : Bool) (s : State) : Host.Outcome State Fault Refusal :=
  .next (if (s.island k).on high then s.switchFault k high (if high then 2 else 3) else s)

/-- SOFT_OFF_END: either switch may follow its line again (R272). -/
def execSoftOffEnd (k : Fin 12) (high : Bool) (s : State) : Host.Outcome State Fault Refusal :=
  .next (match (s.island k).soft high with
    | none => s
    | some t => ((((s.advance t).modIsland k (fun x => x.setSoft high none)).resume k high).resume k (!high)).islStat k)

/-- SUP_UV (R259). -/
def execSupUv (k : Fin 12) (pos neg : Bool) (s : State) : Host.Outcome State Fault Refusal := .next (s.supUv k pos neg)

/-- ISLAND_SUPPLY_GOOD (R259). -/
def execIslandSupplyGood (k : Fin 12) (s : State) : Host.Outcome State Fault Refusal := .next (s.supGood k)

/-- BST_CHARGED (R260). -/
def execBstCharged (k : Fin 12) (s : State) : Host.Outcome State Fault Refusal := .next (s.bstCharged k)

/-- BST_LOST (R262). -/
def execBstLost (k : Fin 12) (s : State) : Host.Outcome State Fault Refusal := .next (s.bstLost k)

/-- ADAPT_STEP (R267). -/
def execAdaptStep (k : Fin 12) (kind : Fin 4) (time : Nat) (s : State) : Host.Outcome State Fault Refusal :=
  .next (s.adaptStep k kind time)

/-- FLT_CLR (R273). -/
def execFltClr (k : Fin 12) (s : State) : Host.Outcome State Fault Refusal := .next (s.fltClr k)

/-- FAULT_REPORT (R275). -/
def execFaultReport (k : Fin 12) (s : State) : Host.Outcome State Fault Refusal := .next (s.faultReport k)

/-- STAGGERED_SOFT_OFF (R277). -/
def execStaggeredSoftOff (k : Fin 12) (high : Bool) (s : State) : Host.Outcome State Fault Refusal := .next (s.slotOff k high)

/-- ISLAND_TEST (R279). -/
def execIslandTest (k : Fin 12) (s : State) : Host.Outcome State Fault Refusal := .next (s.islTest k)

/-- ISLAND_TEST_DONE (R279, R280). -/
def execIslandTestDone (k : Fin 12) (fail : BitVec 15) (s : State) : Host.Outcome State Fault Refusal :=
  .next (s.islTestDone k fail.toNat)

end Sys2Proof.Machine
end

