-- ==== Sys2Proof/Machine/LeInstr.lean ====
section
/-! DEFINITION. The instructions and primitives of the loop engines, each executed by the engine it names on the
context that engine is running (R199–R208). -/

namespace Sys2Proof.Machine

/-- VD gets the result of an operation on the working registers. -/
def State.leOp (s : State) (e : Nat) (i : Instr) (cost vd : Nat) (f : LeRun → LeRes) : State :=
  s.leReg e i cost (fun r => r.result vd (f r))

/-- The engine executes END (R189, R201): the execution ends and commits. One that ends at or after the close of the window
is late and commits nothing: it is unfinished at the close (R23, R24). -/
def State.leEndStep (s : State) (e : Fin 16) : State :=
  match (s.eng e).run with
  | none => s
  | some r =>
    if s.leFetch e r != some (.leEnd e) then s
    else if s.lePoisoned e r (.leEnd e) then s.leUe e r
    else
      let r := { r with cyc := r.cyc + 4 }
      if s.ctxWCET (16 * e + r.ctx) < r.cyc then s.leAbort e r caCYC
      else if s.leLate e r then s.setRun e (some r)
      else (s.leCommit e r).runEnd e r

/-- END, commanded (R189, R201): at or after the closing instant the window's cycles are over, so that the execution is
unfinished at the close (R23, R24). [assumption 253 (DEDUCED)] -/
def execLeEnd (e : Fin 16) (s : State) : Host.Outcome State Fault Refusal :=
  .next (if decide (s.now < s.bndAt + s.get TBS.PER_WIN0_W_LE * t10) then s.leEndStep e
    else s.setEng e { s.eng e with used := max (s.eng e).used s.leWin })

/-- NOP (R201). -/
def execLeNop (e : Fin 16) (s : State) : Host.Outcome State Fault Refusal := .next (s.leReg e (.leNop e) 1 .ok)

/-- LIL (R201). -/
def execLeLil (e : Fin 16) (vd : Fin 32) (imm : BitVec 16) (s : State) : Host.Outcome State Fault Refusal :=
  .next (s.leOp e (.leLil e vd imm) 1 vd (fun _ => some (imm.setWidth 32, false)))

/-- LIH (R201). -/
def execLeLih (e : Fin 16) (vd : Fin 32) (imm : BitVec 16) (s : State) : Host.Outcome State Fault Refusal :=
  .next (s.leOp e (.leLih e vd imm) 1 vd (fun r => some (putBits (r.get vd) 16 16 imm.toNat, false)))

/-- MOV (R201). -/
def execLeMov (e : Fin 16) (vd va : Fin 32) (s : State) : Host.Outcome State Fault Refusal :=
  .next (s.leOp e (.leMov e vd va) 1 vd (fun r => some (r.get va, false)))

/-- CVT (R199, R201). -/
def execLeCvt (e : Fin 16) (vd va : Fin 32) (t : Fin 4) (s : State) : Host.Outcome State Fault Refusal :=
  .next (s.leOp e (.leCvt e vd va t) 2 vd (fun r => opCvt t (r.get va)))

/-- ADD (R199, R201). -/
def execLeAdd (e : Fin 16) (vd va vb : Fin 32) (t : Fin 3) (s : State) : Host.Outcome State Fault Refusal :=
  .next (s.leOp e (.leAdd e vd va vb t) (if t.val = 1 then 2 else 1) vd (fun r => opAdd t (r.get va) (r.get vb)))

/-- SUB (R199, R201). -/
def execLeSub (e : Fin 16) (vd va vb : Fin 32) (t : Fin 3) (s : State) : Host.Outcome State Fault Refusal :=
  .next (s.leOp e (.leSub e vd va vb t) (if t.val = 1 then 2 else 1) vd (fun r => opSub t (r.get va) (r.get vb)))

/-- MUL (R199, R201). -/
def execLeMul (e : Fin 16) (vd va vb : Fin 32) (t : Fin 3) (s : State) : Host.Outcome State Fault Refusal :=
  .next (s.leOp e (.leMul e vd va vb t) (if t.val = 1 then 3 else 2) vd (fun r => opMul t (r.get va) (r.get vb)))

/-- MAC (R199, R201). -/
def execLeMac (e : Fin 16) (vd va vb : Fin 32) (t : Fin 3) (s : State) : Host.Outcome State Fault Refusal :=
  .next (s.leOp e (.leMac e vd va vb t) (if t.val = 1 then 3 else 2) vd (fun r => opMac t (r.get vd) (r.get va) (r.get vb)))

/-- DIV (R199, R201). -/
def execLeDiv (e : Fin 16) (vd va vb : Fin 32) (t : Fin 3) (s : State) : Host.Outcome State Fault Refusal :=
  .next (s.leOp e (.leDiv e vd va vb t) 12 vd (fun r => opDiv t (r.get va) (r.get vb)))

/-- SQRT (R199, R201). -/
def execLeSqrt (e : Fin 16) (vd va : Fin 32) (t : Fin 2) (s : State) : Host.Outcome State Fault Refusal :=
  .next (s.leOp e (.leSqrt e vd va t) 12 vd (fun r => opSqrt t (r.get va)))

/-- ABS (R199, R201). -/
def execLeAbs (e : Fin 16) (vd va : Fin 32) (t : Fin 3) (s : State) : Host.Outcome State Fault Refusal :=
  .next (s.leOp e (.leAbs e vd va t) 1 vd (fun r => opAbs t (r.get va)))

/-- NEG (R199, R201). -/
def execLeNeg (e : Fin 16) (vd va : Fin 32) (t : Fin 3) (s : State) : Host.Outcome State Fault Refusal :=
  .next (s.leOp e (.leNeg e vd va t) 1 vd (fun r => opNeg t (r.get va)))

/-- MIN (R201). -/
def execLeMin (e : Fin 16) (vd va vb : Fin 32) (t : Fin 3) (s : State) : Host.Outcome State Fault Refusal :=
  .next (s.leOp e (.leMin e vd va vb t) 1 vd (fun r => opMin t (r.get va) (r.get vb)))

/-- MAX (R201). -/
def execLeMax (e : Fin 16) (vd va vb : Fin 32) (t : Fin 3) (s : State) : Host.Outcome State Fault Refusal :=
  .next (s.leOp e (.leMax e vd va vb t) 1 vd (fun r => opMax t (r.get va) (r.get vb)))

/-- ADDI (R201). -/
def execLeAddi (e : Fin 16) (vd va : Fin 32) (imm : BitVec 16) (s : State) : Host.Outcome State Fault Refusal :=
  .next (s.leOp e (.leAddi e vd va imm) 1 vd (fun r => some (r.get va + imm.signExtend 32, false)))

/-- AND (R201). -/
def execLeAnd (e : Fin 16) (vd va vb : Fin 32) (s : State) : Host.Outcome State Fault Refusal :=
  .next (s.leOp e (.leAnd e vd va vb) 1 vd (fun r => some (r.get va &&& r.get vb, false)))

/-- OR (R201). -/
def execLeOr (e : Fin 16) (vd va vb : Fin 32) (s : State) : Host.Outcome State Fault Refusal :=
  .next (s.leOp e (.leOr e vd va vb) 1 vd (fun r => some (r.get va ||| r.get vb, false)))

/-- XOR (R201). -/
def execLeXor (e : Fin 16) (vd va vb : Fin 32) (s : State) : Host.Outcome State Fault Refusal :=
  .next (s.leOp e (.leXor e vd va vb) 1 vd (fun r => some (r.get va ^^^ r.get vb, false)))

/-- SHA (R199, R201). -/
def execLeSha (e : Fin 16) (vd va : Fin 32) (imm : BitVec 16) (s : State) : Host.Outcome State Fault Refusal :=
  .next (s.leOp e (.leSha e vd va imm) 1 vd (fun r => some (opSha (r.get va) imm.toInt, false)))

/-- LDS (R189, R201): the state word's copy. -/
def execLeLds (e : Fin 16) (vd : Fin 32) (idx : Fin 64) (s : State) : Host.Outcome State Fault Refusal :=
  .next (s.leOp e (.leLds e vd idx) 1 vd (fun r => some (r.gets idx, false)))

/-- STS (R189, R201): staged until END. -/
def execLeSts (e : Fin 16) (vd : Fin 32) (idx : Fin 64) (s : State) : Host.Outcome State Fault Refusal :=
  .next (s.leReg e (.leSts e vd idx) 1 (fun r => .ok (r.setS idx (r.get vd))))

/-- LDC (R201). -/
def execLeLdc (e : Fin 16) (vd : Fin 32) (idx : Fin 64) (s : State) : Host.Outcome State Fault Refusal :=
  .next (s.leOp e (.leLdc e vd idx) 1 vd (fun r => some (s.coef e r.ctx idx, false)))

/-- A byte address LDM and STM may use: whole words of the context's table region (R201). -/
def State.tblAddr (s : State) (c : Nat) (a : Word) : Bool :=
  let n := a.toNat
  n % 4 == 0 && decide (4 * s.ctxTBASE c ≤ n) && decide (n + 4 ≤ 4 * (s.ctxTBASE c + s.ctxTLEN c))

/-- LDM (R201): MEM outside the table region. -/
def execLeLdm (e : Fin 16) (vd va : Fin 32) (imm : BitVec 16) (s : State) : Host.Outcome State Fault Refusal :=
  .next (s.leReg e (.leLdm e vd va imm) 3 (fun r =>
    let a := r.get va + imm.signExtend 32
    if s.tblAddr (16 * e + r.ctx) a then .ok (r.put vd (s.mword (leAddr e a.toNat))) else .error caMEM))

/-- STM (R189, R201): the word is stored at once; MEM outside the table region. -/
def execLeStm (e : Fin 16) (vd va : Fin 32) (imm : BitVec 16) (s : State) : Host.Outcome State Fault Refusal :=
  .next (s.leExec e (.leStm e vd va imm) 3 (fun s r =>
    let a := r.get va + imm.signExtend 32
    if s.tblAddr (16 * e + r.ctx) a then .ok (s.setMword (leAddr e a.toNat) (r.get vd), r) else .error caMEM))

/-- The class of an input binding of the running context, 0 where none runs. -/
def State.inClsNow (s : State) (e i : Nat) : Nat :=
  match (s.eng e).run with
  | some r => (s.inBind (16 * e + r.ctx) i).cls
  | none => 0

/-- IN (R195, R196, R198): an ADC binding takes 6 cycles and its wait, and reads the same value again in the same
execution. -/
def execLeIn (e : Fin 16) (vd : Fin 32) (idx : Fin 16) (wait : Nat) (s : State) : Host.Outcome State Fault Refusal :=
  let adc := s.inClsNow e idx == 1
  let cost := if adc then 6 + wait else 2
  .next (s.leReg e (.leIn e vd idx 0) cost (fun r =>
    let c := 16 * e + r.ctx
    let b := s.inBind c idx
    match r.adc.find? (fun p => p.1 == idx.val) with
    | some p => .ok (r.put vd p.2)
    | none =>
      let (v, stale) := s.leSource c b (s.leAt e r - leTime cost)
      match inValue b v with
      | none => .error caARITH
      | some (w, q) =>
        let r := { r with stale := r.stale || stale, satq := r.satq || q }
        .ok ({ r with adc := if adc then (idx.val, w) :: r.adc else r.adc }.put vd w)))

/-- OUT (R189, R195): staged until END. -/
def execLeOut (e : Fin 16) (vd : Fin 32) (idx : Fin 16) (s : State) : Host.Outcome State Fault Refusal :=
  .next (s.leReg e (.leOut e vd idx) 1 (fun r =>
    match outValue (s.outBind (16 * e + r.ctx) idx) (r.get vd) with
    | none => .error caARITH
    | some (w, l) => .ok { r with outs := (idx.val, w) :: r.outs, limited := r.limited || l }))

/-- The context flag word (R202). [assumption 67 (DEDUCED)] -/
def State.ctxFlags (s : State) (e : Nat) (r : LeRun) : Word :=
  let b := fun (x : Bool) (i : Nat) => if x then 1 <<< i else 0
  BitVec.ofNat 32 (b (s.on (LEX.CTX_STAT_INIT e r.ctx)) 0 + b r.stale 1 + b r.satq 2 + b r.limited 3
    + b (s.on (LEX.CTX_STAT_HO_SEL e r.ctx)) 4 + b (s.on (LEX.CTX_STAT_HO_BLEND e r.ctx)) 5
    + b (s.lectx (16 * e + r.ctx)).ramping 6)

/-- GETF (R202). -/
def execLeGetf (e : Fin 16) (vd : Fin 32) (s : State) : Host.Outcome State Fault Refusal :=
  .next (s.leOp e (.leGetf e vd) 1 vd (fun r => some (s.ctxFlags e r, false)))

/-- Go forward where a condition holds. -/
def State.leBranch (s : State) (e : Nat) (i : Instr) (off : Nat) (cond : LeRun → Bool) : State :=
  s.leReg e i 2 (fun r => .ok (if cond r then { r with pc := r.pc + off } else r))

/-- BR (R201). -/
def execLeBr (e : Fin 16) (off : Fin 2048) (s : State) : Host.Outcome State Fault Refusal :=
  .next (s.leBranch e (.leBr e off) off (fun _ => true))

/-- BC (R201). -/
def execLeBc (e : Fin 16) (va vb : Fin 32) (cond : Fin 6) (t : Fin 3) (off : Fin 2048) (s : State) : Host.Outcome State Fault Refusal :=
  .next (s.leBranch e (.leBc e va vb cond t off) off (fun r => opCond cond t (r.get va) (r.get vb)))

/-- BINIT (R193, R201). -/
def execLeBinit (e : Fin 16) (off : Fin 2048) (s : State) : Host.Outcome State Fault Refusal :=
  .next (s.leBranch e (.leBinit e off) off (fun r => s.on (LEX.CTX_STAT_INIT e r.ctx)))

/-- LOOP (R201): the next LEN words run N times. -/
def execLeLoop (e : Fin 16) (n len : Fin 1024) (s : State) : Host.Outcome State Fault Refusal :=
  .next (s.leReg e (.leLoop e n len) 2 (fun r => .ok { r with loops := (r.pc + 1, r.pc + 1 + len.val, n.val) :: r.loops }))

/-! ### Primitives -/

/-- PI or PID: y to VD, the state words staged, LIMITED where y differs from U (R204). -/
def State.lePiPid (s : State) (e : Nat) (i : Instr) (cost vd va sb cb : Nat) (ff pid : Bool) : State :=
  s.leReg e i cost (fun r =>
    let c := fun i => s.coef e r.ctx (cb + i)
    let d := if pid then some (c 4, c 5, r.gets (sb + 2), r.gets (sb + 3)) else none
    match piStep (r.get va) (if ff then r.get (va + 1) else 0) (c 0) (c 1) (c 2) (c 3) (r.gets sb) d with
    | none => .error caARITH
    | some (y, lim, st) => .ok { (r.put vd y).setSs sb st with limited := r.limited || lim })

/-- PI (R204). -/
def execLePi (e : Fin 16) (vd va : Fin 32) (sb cb : Fin 64) (ff : Bool) (s : State) : Host.Outcome State Fault Refusal :=
  .next (s.lePiPid e (.lePi e vd va sb cb ff) 8 vd va sb cb ff false)

/-- PID (R204). -/
def execLePid (e : Fin 16) (vd va : Fin 32) (sb cb : Fin 64) (ff : Bool) (s : State) : Host.Outcome State Fault Refusal :=
  .next (s.lePiPid e (.lePid e vd va sb cb ff) 14 vd va sb cb ff true)

/-- BIQ (R205). -/
def execLeBiq (e : Fin 16) (vd va : Fin 32) (sb cb : Fin 64) (s : State) : Host.Outcome State Fault Refusal :=
  .next (s.leReg e (.leBiq e vd va sb cb) 10 (fun r =>
    let c := fun i => s.coef e r.ctx (cb + i)
    let x := r.get va
    match (do
      let y ← fadd (← fmul (c 0) x) (r.gets sb)
      let s1 ← fadd (← fsub (← fmul (c 1) x) (← fmul (c 3) y)) (r.gets (sb + 1))
      let s2 ← fsub (← fmul (c 2) x) (← fmul (c 4) y)
      some (y, s1, s2) : Option (Word × Word × Word)) with
    | none => .error caARITH
    | some (y, s1, s2) => .ok ((r.put vd y).setSs sb [s1, s2])))

/-- LLAG (R205). -/
def execLeLlag (e : Fin 16) (vd va : Fin 32) (sb cb : Fin 64) (s : State) : Host.Outcome State Fault Refusal :=
  .next (s.leReg e (.leLlag e vd va sb cb) 6 (fun r =>
    let c := fun i => s.coef e r.ctx (cb + i)
    let x := r.get va
    match (do
      let y ← fadd (← fmul (c 0) x) (r.gets sb)
      let s1 ← fsub (← fmul (c 1) x) (← fmul (c 2) y)
      some (y, s1) : Option (Word × Word)) with
    | none => .error caARITH
    | some (y, s1) => .ok ((r.put vd y).setS sb s1)))

/-- LIM (R205). -/
def execLeLim (e : Fin 16) (vd va : Fin 32) (cb : Fin 64) (dpri : Bool) (s : State) : Host.Outcome State Fault Refusal :=
  .next (s.leReg e (.leLim e vd va cb dpri) 10 (fun r =>
    match limStep dpri (r.get va) (r.get (va + 1)) (s.coef e r.ctx cb) with
    | none => .error caARITH
    | some (x, y, lim) => .ok { r.puts vd [x, y] with limited := r.limited || lim }))

/-- SAT (R205): clamps to [LO, HI] in format T. -/
def execLeSat (e : Fin 16) (vd va : Fin 32) (cb : Fin 64) (t : Fin 3) (s : State) : Host.Outcome State Fault Refusal :=
  .next (s.leReg e (.leSat e vd va cb t) 2 (fun r =>
    let hi := s.coef e r.ctx cb
    let lo := s.coef e r.ctx (cb + 1)
    let x := r.get va
    let y := if opCond 5 t x hi then hi else if opCond 2 t x lo then lo else x
    match (if t.val = 1 then fpass y else some y) with
    | none => .error caARITH
    | some z => .ok { r.put vd z with limited := r.limited || opCond 5 t x hi || opCond 2 t x lo }))

/-- RAMP (R207): with INIT, y starts at meas with r = 0. -/
def execLeRamp (e : Fin 16) (vd va : Fin 32) (sb cb : Fin 64) (s : State) : Host.Outcome State Fault Refusal :=
  .next (s.leReg e (.leRamp e vd va sb cb) 12 (fun r =>
    let c := fun i => s.coef e r.ctx (cb + i)
    let sp := r.get va
    let res := if s.on (LEX.CTX_STAT_INIT e r.ctx) then (fpass (r.get (va + 1))).map (fun m => (m, (0 : Word)))
      else rampStep sp (r.gets sb) (r.gets (sb + 1)) (c 0) (c 1) (c 2)
    match res with
    | none => .error caARITH
    | some (y, rr) =>
      .ok { (r.put vd y).setSs sb [y, rr] with ramp := some (r.ramp.getD false || fcmp y sp != some 0) }))

/-- TLU (R205): MEM for a count or entries out of range. -/
def execLeTlu (e : Fin 16) (vd va : Fin 32) (cb : Fin 64) (s : State) : Host.Outcome State Fault Refusal :=
  .next (s.leReg e (.leTlu e vd va cb) 10 (fun r =>
    let c := 16 * e + r.ctx
    let info := s.coef e r.ctx (cb + 2)
    let n := getBits info 16 16
    let off := getBits info 0 16
    if n < 2 || 4096 < n || s.ctxTLEN c < off + n then .error caMEM
    else match tluStep (r.get va) (s.coef e r.ctx cb) (s.coef e r.ctx (cb + 1)) n
        (fun i => s.mword (leAddr e (4 * (s.ctxTBASE c + off + i)))) with
      | none => .error caARITH
      | some (y, lim) => .ok { r.put vd y with limited := r.limited || lim }))

/-- CLARKE (R206). -/
def execLeClarke (e : Fin 16) (vd va : Fin 32) (two : Bool) (s : State) : Host.Outcome State Fault Refusal :=
  .next (s.leReg e (.leClarke e vd va two) 4 (fun r => r.results vd (clarkeStep two (r.get va) (r.get (va + 1)) (r.get (va + 2)))))

/-- PARK (R206). -/
def execLePark (e : Fin 16) (vd va : Fin 32) (s : State) : Host.Outcome State Fault Refusal :=
  .next (s.leReg e (.lePark e vd va) 4 (fun r =>
    r.results vd (parkStep (r.get va) (r.get (va + 1)) (r.get (va + 2)) (r.get (va + 3)))))

/-- IPARK (R206). -/
def execLeIpark (e : Fin 16) (vd va : Fin 32) (s : State) : Host.Outcome State Fault Refusal :=
  .next (s.leReg e (.leIpark e vd va) 4 (fun r =>
    r.results vd (iparkStep (r.get va) (r.get (va + 1)) (r.get (va + 2)) (r.get (va + 3)))))

/-- SINCOS (R206): free within 6 × 10⁻⁸. [assumption 56 (DEDUCED)] -/
def execLeSincos (e : Fin 16) (vd va : Fin 32) (s : State) : Host.Outcome State Fault Refusal :=
  .next (s.leExec e (.leSincos e vd va) 8 (fun s r =>
    let (i, s) := s.free
    let (j, s) := s.free
    let p := sinCosTurn (turnOf (r.get va))
    .ok (s, r.puts vd [within6e8 (Config.freeWord i) p.1, within6e8 (Config.freeWord j) p.2])))

/-- OBSV (R206). -/
def execLeObsv (e : Fin 16) (vd va : Fin 32) (sb cb : Fin 64) (s : State) : Host.Outcome State Fault Refusal :=
  .next (s.leReg e (.leObsv e vd va sb cb) 48 (fun r =>
    match obsvStep [r.get va, r.get (va + 1)] [r.get (va + 2), r.get (va + 3)] (fun i => s.coef e r.ctx (cb + i))
        (fun i => r.gets (sb + i)) with
    | none => .error caARITH
    | some (res, x) => .ok ((r.puts vd res).setSs sb x)))

/-- HANDOVER (R208). A negative NB, for which the spec states no meaning, is a free count. [assumption 57 (DESIGN CHOICE)] -/
def execLeHandover (e : Fin 16) (vd va : Fin 32) (sb cb : Fin 64) (ang trk : Bool) (s : State) : Host.Outcome State Fault Refusal :=
  .next (s.leExec e (.leHandover e vd va sb cb ang trk) 10 (fun s r =>
    let c := fun i => s.coef e r.ctx (cb + i)
    let n := (c 1).toInt
    let (i, s') := s.free
    let (nb, s) := if n < 0 then ((Config.freeNat i % 65 : Nat), s') else (min n.toNat 64, s)
    (handover r vd sb ang trk (r.get va) (r.get (va + 1)) (r.get (va + 2)) (c 0) (c 2) (c 3) nb
      (fun i => s.coef e r.ctx i)).map (fun r => (s, r))))

/-! ### The program of a context, from local memory (R188, R201) -/

/-- The engine executes the instruction its execution is at. The wait of an IN for the ADC's port is free within its bound
(R198). [assumption 58 (DESIGN CHOICE)] -/
def State.leDo (i : Instr) (s : State) : State :=
  match i with
  | .leEnd e => s.leEndStep e
  | .leNop e => s.after (execLeNop e)
  | .leLil e vd imm => s.after (execLeLil e vd imm)
  | .leLih e vd imm => s.after (execLeLih e vd imm)
  | .leMov e vd va => s.after (execLeMov e vd va)
  | .leCvt e vd va t => s.after (execLeCvt e vd va t)
  | .leAdd e vd va vb t => s.after (execLeAdd e vd va vb t)
  | .leSub e vd va vb t => s.after (execLeSub e vd va vb t)
  | .leMul e vd va vb t => s.after (execLeMul e vd va vb t)
  | .leMac e vd va vb t => s.after (execLeMac e vd va vb t)
  | .leDiv e vd va vb t => s.after (execLeDiv e vd va vb t)
  | .leSqrt e vd va t => s.after (execLeSqrt e vd va t)
  | .leAbs e vd va t => s.after (execLeAbs e vd va t)
  | .leNeg e vd va t => s.after (execLeNeg e vd va t)
  | .leMin e vd va vb t => s.after (execLeMin e vd va vb t)
  | .leMax e vd va vb t => s.after (execLeMax e vd va vb t)
  | .leAddi e vd va imm => s.after (execLeAddi e vd va imm)
  | .leAnd e vd va vb => s.after (execLeAnd e vd va vb)
  | .leOr e vd va vb => s.after (execLeOr e vd va vb)
  | .leXor e vd va vb => s.after (execLeXor e vd va vb)
  | .leSha e vd va imm => s.after (execLeSha e vd va imm)
  | .leLds e vd idx => s.after (execLeLds e vd idx)
  | .leSts e vd idx => s.after (execLeSts e vd idx)
  | .leLdc e vd idx => s.after (execLeLdc e vd idx)
  | .leLdm e vd va imm => s.after (execLeLdm e vd va imm)
  | .leStm e vd va imm => s.after (execLeStm e vd va imm)
  | .leIn e vd idx _ => if s.inClsNow e idx == 1 then (let (j, s) := s.free; s.after (execLeIn e vd idx (Config.freeNat j % 85)))
    else s.after (execLeIn e vd idx 0)
  | .leOut e vd idx => s.after (execLeOut e vd idx)
  | .leGetf e vd => s.after (execLeGetf e vd)
  | .leBr e off => s.after (execLeBr e off)
  | .leBc e va vb cond t off => s.after (execLeBc e va vb cond t off)
  | .leBinit e off => s.after (execLeBinit e off)
  | .leLoop e n len => s.after (execLeLoop e n len)
  | .lePi e vd va sb cb ff => s.after (execLePi e vd va sb cb ff)
  | .lePid e vd va sb cb ff => s.after (execLePid e vd va sb cb ff)
  | .leBiq e vd va sb cb => s.after (execLeBiq e vd va sb cb)
  | .leLlag e vd va sb cb => s.after (execLeLlag e vd va sb cb)
  | .leLim e vd va cb dpri => s.after (execLeLim e vd va cb dpri)
  | .leSat e vd va cb t => s.after (execLeSat e vd va cb t)
  | .leRamp e vd va sb cb => s.after (execLeRamp e vd va sb cb)
  | .leTlu e vd va cb => s.after (execLeTlu e vd va cb)
  | .leClarke e vd va two => s.after (execLeClarke e vd va two)
  | .lePark e vd va => s.after (execLePark e vd va)
  | .leIpark e vd va => s.after (execLeIpark e vd va)
  | .leSincos e vd va => s.after (execLeSincos e vd va)
  | .leObsv e vd va sb cb => s.after (execLeObsv e vd va sb cb)
  | .leHandover e vd va sb cb ang trk => s.after (execLeHandover e vd va sb cb ang trk)
  | _ => s

/-- An engine runs on through its contexts' programs, words fetched from its local memory, until its last context has
ended or the window's cycles are over (R188, R201). [assumption 58 (DESIGN CHOICE)] -/
def State.leSteps (e : Nat) : Nat → State → State
  | 0, s => s
  | f + 1, s =>
    let g := s.eng e
    match g.run with
    | some r =>
      if s.leWin ≤ g.used + 16 + r.cyc then s
      else if s.badWord (leAddr e (4 * r.pc)) then State.leSteps e f (s.leUe e r)
      else match s.leFetch e r with
        | some i => State.leSteps e f (s.leDo i)
        | none => s
    | none => match g.todo with
      | [] => s
      | _ :: _ => if s.leWin ≤ g.used then s else State.leSteps e f (s.leStart e)

/-- What is left of the engines' work in the window is done before it closes (R188). Each step takes a cycle or more, so
the window's cycles bound their number. -/
def State.leRunAll (s : State) : State := s.each (List.range 16) (fun s e => State.leSteps e (2 * s.leWin + 32) s)

end Sys2Proof.Machine
end

