-- ==== Sys2Proof/Machine/Nvl.lean ====
section
/-! DEFINITION. Flash commands and the event log (R470, R471, R477, R478). -/

namespace Sys2Proof.Machine

abbrev nPART_RO : Nat := 0x40
abbrev nALIGN : Nat := 0x42

def State.modNvl (s : State) (f : NvlSt → NvlSt) : State := { s with nvl := f s.nvl }

/-! ### The event log (R471) -/

/-- The flash address of a record. -/
def logAddr (seq : Nat) : Nat := 0x2010000 + 32 * (seq % 65536)

/-- The bytes of a record under its number (R471). -/
def State.logBytes (s : State) (seq : Nat) (r : LogRec) : List Byte :=
  let st := r.st / 960
  let id := if r.pg = 0 then leBytes 2 0xFFFF ++ leBytes 2 r.evt
    else leBytes 2 ((s.reg (HDR.PAGE_ID r.pg)).toNat / 65536) ++ leBytes 1 r.evt ++ leBytes 1 ((s.reg (HDR.PAGE_ID r.pg)).toNat % 256)
  let b := leBytes 4 seq ++ leBytes 4 (st / 1000000000) ++ leBytes 4 (st % 1000000000) ++ leBytes 4 r.pidx ++ id
    ++ leBytes 4 r.d0 ++ leBytes 4 r.d1
  b ++ leBytes 4 (crc32c b)

/-- Erase a sector. -/
def State.norErase (s : State) (a : Nat) : State :=
  s.modNvl (fun x => { x with nor := x.nor.filter (fun p => p.1 < a || a + 65536 ≤ p.1) })

/-- A sector of flash holds something. -/
def State.norUsed (s : State) (a : Nat) : Bool := s.nvl.nor.any (fun p => decide (a ≤ p.1 ∧ p.1 < a + 65536))

/-- The record at the queue head is written to the ring; the oldest sector is erased when the ring reaches it (R471). -/
def State.logWrite (s : State) : State :=
  match s.logQ with
  | [] => s
  | r :: q =>
    let seq := s.get NVL.LOG_SEQ_SEQ
    let s := { s with logQ := q }
    let s := if seq % 2048 = 0 ∧ s.norUsed (logAddr seq) then
        ((s.norErase (logAddr seq)).set NVL.LOG_OLD_SEQ ((seq + 2 ^ 32 - 65536 + 2048) % 2 ^ 32)).irq NVL.page 2
      else s
    (s.norPut (logAddr seq) (s.logBytes seq r)).set NVL.LOG_SEQ_SEQ ((seq + 1) % 2 ^ 32)

/-- LOG_RECORD_WRITE (R471); the flash stands in SLEEP and OFF and without VIN (R406, R464, R508). -/
def execLogRecordWrite (s : State) : Host.Outcome State Fault Refusal :=
  .next (if s.pwr.vinOff || decide (3 ≤ s.get PWR.STAT_STATE) then s else s.logWrite)

/-- Every waiting record is written (R409, R463). -/
def State.logFlush (s : State) : State := s.each (List.range 32) (fun s _ => s.logWrite)

/-- LOG_PUT.GO queues a software record (R471). [assumption 169 (DEDUCED)] -/
def execLogPut (code : BitVec 16) (s : State) : Host.Outcome State Fault Refusal :=
  .next (s.judge NVL.page 0x90 [(decide (code.toNat < 0x8000), eRANGE)] (fun s =>
    s.log 0 code.toNat (s.reg NVL.LOG_SW0).toNat (s.reg NVL.LOG_SW1).toNat))

/-- A write to LOG_IDX selects the record LOG_DATA returns; GONE for one older than LOG_OLD, where the numbers have wrapped
too (R471, R477). [assumption 169 (DEDUCED)] -/
def execLogSelect (val : Word) (s : State) : Host.Outcome State Fault Refusal :=
  .next (s.judge NVL.page 0x5C [] (fun s =>
    let b := s.norBytes (logAddr val.toNat) 32
    let s := s.setReg NVL.LOG_IDX val
    let s := s.each (List.range 8) (fun s j => s.setReg (NVL.LOG_DATA j) (BitVec.ofNat 32 (leNat b (4 * j) 4)))
    (s.setB NVL.LOG_RSTAT_VALID (leNat b 28 4 == crc32c (b.take 28) && leNat b 0 4 == val.toNat)).setB NVL.LOG_RSTAT_GONE
      (decide (val.toNat < s.get NVL.LOG_OLD_SEQ)
        && !(decide (s.get NVL.LOG_SEQ_SEQ < s.get NVL.LOG_OLD_SEQ) && decide (val.toNat < s.get NVL.LOG_SEQ_SEQ)))))

/-! ### Flash commands (R470) -/

/-- The conditions under which a command is refused: 1 READ, 2 PROG, 3 ERASE. [assumptions 170, 172 (DEDUCED)] -/
def State.nvlConds (s : State) (op : Nat) (dev : Bool) : List (Bool × Nat) :=
  let a := s.get NVL.ADDR_ADDR
  let b := s.get NVL.BUF_BUF
  let n := s.get NVL.LEN_LEN
  let wr := op != 1
  let slot := s.get SEC.BOOT_SLOT
  let inPart := fun (lo sz : Nat) => decide (a < lo + sz ∧ lo < a + (if op = 3 then 65536 else max 1 n))
  let runs := fun (k : Nat) => slot == k && !s.on SEC.BOOT_NONE
  let ro := if dev then runs 2 else
    inPart 0x2010000 0x200000 || (runs 0 && inPart 0 0x1000000) || (runs 1 && inPart 0x1000000 0x1000000)
  let size := match op with
    | 1 => decide (1 ≤ n ∧ n ≤ 65536 ∧ a + n ≤ 0x4000000)
    | 2 => decide (1 ≤ n ∧ n ≤ 256 ∧ a / 256 = (a + n - 1) / 256)
    | _ => decide (a % 65536 = 0)
  [(dev && s.nvl.qspi.isNone, eNOT_FITTED), (wr && ro, nPART_RO),
   (wr && !dev && s.armed && inPart 0x2000000 0x10000, eARMED),
   (!size || (op != 3 && (b % 4 != 0 || decide (0x1000000 < b + n))), nALIGN), (s.nvl.cmd.isSome, eSTATE)]

/-- A flash command starts. -/
def State.nvlStart (s : State) (op : Nat) (dev : Bool) : State :=
  s.judge NVL.page 0x40 (s.nvlConds op dev) (fun s =>
    (s.modNvl (fun x => { x with cmd := some (op, dev, s.get NVL.ADDR_ADDR, s.get NVL.BUF_BUF, s.get NVL.LEN_LEN) })).set
      NVL.STAT_BUSY 1)

def execNvlRead (dev : Bool) (s : State) : Host.Outcome State Fault Refusal := .next (s.nvlStart 1 dev)
def execNvlProg (dev : Bool) (s : State) : Host.Outcome State Fault Refusal := .next (s.nvlStart 2 dev)
/-- NVL_CMD ERASE (R470, R477). [assumption 170 (DEDUCED)] -/
def execNvlErase (dev : Bool) (s : State) : Host.Outcome State Fault Refusal := .next (s.nvlStart 3 dev)

/-- The bytes of a device. -/
def State.flashBytes (s : State) (dev : Bool) (a n : Nat) : List Byte :=
  if dev then (List.range n).map (fun i => SMap.get norDefault (s.nvl.qspi.getD []) (a + i)) else s.norBytes a n

/-- Write, or erase, bytes of a device. [assumption 171 (DEDUCED)] -/
def State.flashPut (s : State) (dev : Bool) (a : Nat) (bs : List Byte) : State :=
  if dev then s.modNvl (fun x => { x with qspi := x.qspi.map (fun (m : SMap Byte) =>
    bs.zipIdx.foldl (fun m (q : Byte × Nat) => SMap.put norDefault m (a + q.2) q.1) m) })
  else s.norPut a bs

/-- The bytes PROG takes from system SRAM: up to the first that ends in a bus error (R451, R470).
[assumption 171 (DEDUCED)] -/
def State.progBytes (s : State) (a n : Nat) : List Byte :=
  ((List.range n).map (fun i => s.ramRead (a + i) 1)).takeWhile Option.isSome |>.flatMap (fun b => b.getD [])

/-- A flash command completes (R470). [assumption 171 (DEDUCED)] -/
def execNvlCmdDone (s : State) : Host.Outcome State Fault Refusal :=
  match s.nvl.cmd with
  | none => .next s
  | some (op, dev, a, b, n) =>
    let s := match op with
      | 1 => s.unitWrite (0x20000000 + b) (s.flashBytes dev a n)
      | 2 => s.flashPut dev a (s.progBytes (0x20000000 + b) n)
      | _ => if dev then s.modNvl (fun x => { x with qspi := x.qspi.map (fun (m : SMap Byte) => m.filter (fun p => p.1 < a || a + 65536 ≤ p.1)) })
             else s.norErase a
    .next (((s.modNvl (fun x => { x with cmd := none })).set NVL.STAT_BUSY 0).irq NVL.page 0)

end Sys2Proof.Machine
end

