-- ==== Sys2Proof/Machine/Saf.lean ====
section
/-! DEFINITION. The safety cores: the parameter set, inputs, functions, outputs, test pulses, lock-out and reset, STO and
arming, and the Evisafe layer (R342–R372). -/

namespace Sys2Proof.Machine

/-- What the cores keep, changed. -/
def State.modSaf (s : State) (f : SafSt → SafSt) : State := { s with saf := f s.saf }

/-- The core that drives channel A (SM0) or B (SM1) of the outputs (R342). -/
def State.core (s : State) (k : Bool) : SafCore := if k then s.saf.sm1 else s.saf.sm0
def State.modCore (s : State) (k : Bool) (f : SafCore → SafCore) : State :=
  s.modSaf (fun x => if k then { x with sm1 := f x.sm1 } else { x with sm0 := f x.sm0 })

/-- The two cores. -/
abbrev cores : List Bool := [false, true]

/-- CRC-32 of R362 (reflected polynomial 0xC8DF352F). -/
def crcSafe (bs : List Byte) : Nat := (bs.foldl (crcByte 0xC8DF352F) 0xFFFFFFFF) ^^^ 0xFFFFFFFF

/-! ### The parameter set (R343) -/

/-- A field of the SPS image: the field of the SAF page it is loaded into. -/
def spsFld (img : List Byte) (f : Fld) : Nat := (leNat img (f.addr - 0x40800100) 4 >>> f.lo) % 2 ^ f.w

/-- The bits of each image word that are no reserved bits (R370). -/
def spsMask (j : Nat) : Nat :=
  if j = 0 then 1
  else if j = 1 then 0xFFFFC000
  else if 8 ≤ j ∧ j < 16 then 0xFFFFFF
  else if 16 ≤ j ∧ j < 32 then (if j % 2 = 0 then 0x3FFFFF else 0x3FFF)
  else if 32 ≤ j ∧ j < 36 then 0xFF
  else if 48 ≤ j ∧ j < 80 then (if j % 2 = 0 then 0xFFFFFFFF else 0xFFFFFFF)
  else 0

/-- The image keeps every reserved field 0 and every field in its range (R343, R370). [assumption 122 (DEDUCED)] -/
def spsRanges (img : List Byte) : Bool :=
  (List.range 80).all (fun j => leNat img (4 * j) 4 &&& (0xFFFFFFFF ^^^ spsMask j) == 0)
  && (let rb := spsFld img SAF.RING_BASE_ADDR * 0x4000
      decide (0x20000000 ≤ rb ∧ rb < 0x21000000))
  && (List.range 8).all (fun i =>
    let td := spsFld img (SAF.SICFG_T_D i)
    decide (10 ≤ td ∧ td ≤ 3000) && decide (spsFld img (SAF.SICFG_FILT i) ≤ 100)
      && decide (spsFld img (SAF.SICFG_TPSRC i) ≤ 4))
  && (List.range 8).all (fun f => decide (spsFld img (SAF.FN_W0_TYPE f) ≤ 6)
      && decide (spsFld img (SAF.FN_W1_OFF_DLY f) ≤ 10000))
  && (List.range 4).all (fun o => decide (spsFld img (SAF.SOCFG_MODE o) ≤ 2)
      && decide (5 ≤ spsFld img (SAF.SOCFG_TP_W o) ∧ spsFld img (SAF.SOCFG_TP_W o) ≤ 40))
  && (List.range 16).all (fun c =>
    let te := spsFld img (SAF.ESC_W1_TEXP c)
    let tx := spsFld img (SAF.ESC_W1_TX_INT c)
    let lo := spsFld img (SAF.ESC_W1_VMIN c)
    let hi := spsFld img (SAF.ESC_W1_VMAX c)
    decide (2 ≤ te ∧ te ≤ 1000) && decide (1 ≤ tx ∧ tx ≤ 500) && decide (1 ≤ lo ∧ lo ≤ 2) && decide (1 ≤ hi ∧ hi ≤ 2)
      && decide (1 ≤ spsFld img (SAF.ESC_W1_SEQ_WIN c)))

/-- The further conditions under which a core accepts the image (R343). [assumption 122 (DEDUCED)] -/
def spsRules (img : List Byte) : Bool :=
  let ty := fun f => spsFld img (SAF.FN_W0_TYPE f)
  let in0 := fun f => spsFld img (SAF.FN_W0_IN0 f)
  let mode := fun o => spsFld img (SAF.SOCFG_MODE o)
  (List.range 8).all (fun f =>
    !(ty f == 1 && spsFld img (SAF.FN_W0_RESTART f) == 0)
    && !(ty f == 4 && spsFld img (SAF.SICFG_TYPE (in0 f)) != 3)
    && !(ty f == 3 && in0 f == spsFld img (SAF.FN_W0_IN1 f))
    && !(ty f == 5 && spsFld img (SAF.ESC_W1_EN (spsFld img (SAF.FN_W0_ESC f))) == 0)
    && (bitsOf 4 (spsFld img (SAF.FN_W0_SO f))).all (fun o => mode o != 2))
  && (List.range 8).all (fun i =>
    let ts := spsFld img (SAF.SICFG_TPSRC i)
    ts == 0 || (spsFld img (SAF.SICFG_FILT i) != 0 && mode (ts - 1) == 2))
  && (List.range 16).all (fun c =>
    let cid := spsFld img (SAF.ESC_W0_CID c)
    cid != 0 && ((List.range 16).all (fun d => d == c || spsFld img (SAF.ESC_W0_CID d) != cid))
      && decide (spsFld img (SAF.ESC_W1_VMIN c) ≤ spsFld img (SAF.ESC_W1_VMAX c))
      && decide (2 * spsFld img (SAF.ESC_W1_TX_INT c) ≤ spsFld img (SAF.ESC_W1_TEXP c)))

/-- The parameter set is accepted (R343). -/
def spsOk (b : List Byte) : Bool :=
  leNat b 0 4 == 0x53505345 && leNat b 4 2 == 1 && leNat b 6 2 == 80 && leNat b 8 8 == 0
  && leNat b 336 4 == crcSafe (b.take 336) && spsRanges ((b.drop 16).take 320) && spsRules ((b.drop 16).take 320)

/-! ### STO and outputs -/

/-- The state of function `f` (R349): that of the core in which it is the safer. [assumption 121 (DESIGN CHOICE)] -/
def State.fn (s : State) (f : Nat) : Nat := min (s.saf.sm0.fn.getD f 0) (s.saf.sm1.fn.getD f 0)

/-- STO demand (R355). [assumption 126 (DEDUCED)] -/
def State.stoDemand (s : State) : Bool :=
  s.on SAF.STAT_LOCKOUT || (List.range 8).any (fun f => s.on (SAF.FN_W0_STO f) && s.fn f != 3)

/-- STAT.STO, ARM_OK and trip source SAF follow the demand (R355, R369); ARM_OK falling disarms (R414). -/
def State.stoUpdate (s : State) : State :=
  let d := s.stoDemand
  let s := s.setB SAF.STAT_STO (d || !s.saf.cycled)
  let s := if d then (if s.srcAct.testBit 10 then s else (s.srcActive 10 true).tripAll 10) else s.srcActive 10 false
  let ok := s.on SAF.STAT_RUN && s.on SAF.STAT_SPS_OK && !d && s.saf.cycled
  let was := s.on SAF.STAT_ARM_OK
  let s := s.setB SAF.STAT_ARM_OK ok
  s.iff (was && !ok) (fun s => s.disarm disSAFETY)

/-- FN_STATE, FN_RUN and SO_ON follow the functions and the channels (R369). -/
def State.safShow (s : State) : State :=
  let s := s.each (List.range 8) (fun s f => s.set (SAF.FN_STATE_ST f) (s.fn f))
  (s.set SAF.STAT_FN_RUN (maskOf ((List.range 8).filter (fun f => s.fn f == 3)))).set SAF.STAT_SO_ON
    (s.get SAF.SO_STAT_CMD_A &&& s.get SAF.SO_STAT_CMD_B)

/-- A channel of an output pair is commanded on. -/
def State.soCmd (s : State) (o : Nat) (b : Bool) : Bool :=
  (s.get (if b then SAF.SO_STAT_CMD_B else SAF.SO_STAT_CMD_A)).testBit o

/-- Channels A and B of the output pairs go off, or on, as two masks say. A channel that goes off in its test pulse stays off, its test is
discarded, and its next pulse falls 200 ms after it began, as it was due (R352–R354). -/
def State.soSet (s : State) (onA onB : Nat) : State :=
  let s := s.each (List.range 4) (fun s o =>
    match s.saf.tp.getD o none with
    | some ch =>
      if s.soCmd o ch && !(if ch then onB else onA).testBit o then
        let s := s.modSaf (fun x => { x with tp := x.tp.set o none })
        ((s.set SAF.SO_STAT_TP_ACT (s.get SAF.SO_STAT_TP_ACT &&& (0xF ^^^ 1 <<< o))).bump SAF.CNT_TP_DISC).irq SAF.page 7
      else s
    | none => s)
  ((s.set SAF.SO_STAT_CMD_A onA).set SAF.SO_STAT_CMD_B onB).safShow

/-! ### Lock-out (R356) -/

abbrev lkSPS : Nat := 1
abbrev lkNEW_PAR : Nat := 2
abbrev lkDISC : Nat := 3
abbrev lkCROSS : Nat := 4
abbrev lkTP : Nat := 5
abbrev lkSO_RB : Nat := 6
abbrev lkXCMP : Nat := 7
abbrev lkCORE : Nat := 8
abbrev lkP1 : Nat := 9
abbrev lkBOUND : Nat := 10

/-- A lock-out is latched: the first cause stands, every cause is logged with the period index, every output goes off
and STO is demanded (R352, R356). [assumptions 125, 134 (DEDUCED)] -/
def State.safLock (s : State) (cause index : Nat) : State :=
  let s := if s.on SAF.STAT_LOCKOUT then s
    else ((((s.set SAF.STAT_LOCKOUT 1).set SAF.LOCK_CAUSE cause).set SAF.LOCK_INDEX index).set SAF.LOCK_PIDX
      (s.pidx % 2 ^ 20)).irq SAF.page 1
  let s := s.log SAF.page 1 (cause + 256 * index) (s.pidx % 2 ^ 32)
  (s.soSet 0 0).stoUpdate

/-! ### The check at reset (R343) -/

/-- The registers the SPS loads: 0x100 to 0x23C (R370). -/
def State.spsLoad (s : State) (img : List Byte) : State :=
  s.each (List.range 80) (fun s j => s.setReg (0x40800100 + 4 * j) (BitVec.ofNat 32 (leNat img (4 * j) 4)))

/-- What the cores start from: outputs off, connections CLOSED, no parameter set accepted (R343, R349, R356, R363, R370). The
lock-out latch is kept. -/
def State.safStart (s : State) : State :=
  let s := { s with saf := { cycAt := s.now, sampAt := s.now } }
  let s := ((s.setReg SAF.SI_LVL 0).setReg SAF.SO_STAT 0).setReg SAF.ESC_RUN 0
  let s := (((s.set SAF.STAT_SPS_OK 0).set SAF.STAT_NEW_PAR 0).set SAF.SPS_CRC_CRC 0).spsLoad []
  (s.modSaf (fun x => { x with esc := (List.range 16).map (fun c => (c, { since := s.now })) })).safShow

/-- The cores read and check the SPS, once after each reset, and run; the functions of an accepted one start in DEMAND, and
those of a refused one stay OFF (R343, R349). [assumption 128 (DEDUCED)] -/
def State.safBoot (s : State) : State :=
  if s.saf.checked then s else
  let s := (s.safStart.modSaf (fun x => { x with checked := true })).set SAF.STAT_RUN 1
  let b := s.norBytes 0x2000000 340
  if spsOk b then
    let s := s.spsLoad ((b.drop 16).take 320)
    let crc := leNat b 336 4
    let s := (s.set SAF.STAT_SPS_OK 1).set SAF.SPS_CRC_CRC crc
    let fn := (List.range 8).map (fun f => if s.get (SAF.FN_W0_TYPE f) == 0 then 0 else 1)
    let s := (s.each cores (fun s k => s.modCore k (fun c => { c with fn := fn }))).safShow
    let s := if s.nvl.ack == some crc then s
      else ((s.set SAF.STAT_NEW_PAR 1).irq SAF.page 8).safLock lkNEW_PAR 0
    s.stoUpdate
  else s.safLock lkSPS 0

/-! ### Inputs (R344–R347) -/

/-- The level a channel has in run (R344). -/
def State.runLevel (s : State) (i : Nat) (b : Bool) : Bool := !(b && s.get (SAF.SICFG_TYPE i) == 2)

/-- A core reads the pair as in run: it is in use and neither channel asks for the safe state (R344). -/
def State.inRunAt (s : State) (k : Bool) (i : Nat) : Bool :=
  s.get (SAF.SICFG_TYPE i) != 0 && !(s.core k).askA.testBit i && !(s.core k).askB.testBit i

/-- The pair is in run for both cores. -/
def State.inRun (s : State) (i : Nat) : Bool := s.inRunAt false i && s.inRunAt true i

/-- Ticks of the disagreement of a pair, the longer of the cores'; none while neither has one (R346). -/
def State.disc (s : State) (i : Nat) : Option Nat :=
  match s.saf.sm0.disc.getD i none, s.saf.sm1.disc.getD i none with
  | some a, some b => some (max a b)
  | some a, none => some a
  | none, d => d

/-- One sample of a channel: the samples for which the level has stood, and whether the channel asks.
[assumption 123 (DEDUCED)] -/
def safFilter (first : Bool) (filt : Nat) (was now runL : Bool) (n : Nat) (ask : Bool) : Nat × Bool :=
  let n := if first || was != now then 0 else n + 1
  (n, if 4 * filt ≤ n then now != runL else ask)

/-- The sample of pair `i` by a core (R344, R346). [assumption 123 (DEDUCED)] -/
def State.safPair (s : State) (k : Bool) (a b : Nat) (i : Nat) : State :=
  let filt := s.get (SAF.SICFG_FILT i)
  let first := !s.saf.sampled
  s.modCore k (fun x =>
    let (nA, qA) := safFilter first filt (x.rawA.testBit i) (a.testBit i) (s.runLevel i false) (x.cntA.getD i 0) (x.askA.testBit i)
    let (nB, qB) := safFilter first filt (x.rawB.testBit i) (b.testBit i) (s.runLevel i true) (x.cntB.getD i 0) (x.askB.testBit i)
    let put := fun (m : Nat) (v : Bool) => (m &&& (0xFF ^^^ 1 <<< i)) ||| (if v then 1 <<< i else 0)
    let dis := s.get (SAF.SICFG_TYPE i) != 0 && qA != qB
    { x with
      cntA := x.cntA.set i nA, cntB := x.cntB.set i nB, askA := put x.askA qA, askB := put x.askB qB,
      disc := x.disc.set i (if dis then some ((x.disc.getD i none).getD 0) else none) })

/-- A disagreement that begins is counted and raised, one that ends is logged (R346). [assumption 124 (DEDUCED)] -/
def State.discNote (s : State) (old : List (Option Nat)) : State :=
  s.each (List.range 8) (fun s i => match s.disc i, old.getD i none with
    | some _, none => (s.bump SAF.CNT_DISC_EVT).irq SAF.page 2
    | none, some t => s.log SAF.page 2 i t
    | _, _ => s)

/-- A sample of the inputs, the readbacks and SRST (R344, R352, R357). A CROSS condition goes when its channel reads low.
[assumption 127 (DEDUCED)] -/
def execSafetySample (a b : BitVec 8 × BitVec 8) (rbA rbB : BitVec 4) (srst : Bool) (s : State) :
    Host.Outcome State Fault Refusal :=
  if s.saf.stopped then .next s else
  let s := (s.safBoot).advance (s.saf.sampAt + 250 * tUs)
  let s := s.modSaf (fun x => { x with sampAt := s.now })
  let old := (List.range 8).map s.disc
  let s := s.each (List.range 8) (fun s i =>
    (s.safPair false a.1.toNat b.1.toNat i).safPair true a.2.toNat b.2.toNat i)
  let s := (s.modCore false (fun c => { c with rawA := a.1.toNat, rawB := b.1.toNat })).modCore true
    (fun c => { c with rawA := a.2.toNat, rawB := b.2.toNat })
  let s := (s.discNote old).modSaf (fun x => { x with
    crossA := x.crossA &&& (a.1 ||| a.2).toNat, crossB := x.crossB &&& (b.1 ||| b.2).toNat,
    sampled := true, srstHeld := if x.sampled then x.srstHeld else srst })
  let en := fun (p : Nat → Bool) => maskOf ((List.range 8).filter (fun i => s.get (SAF.SICFG_TYPE i) != 0 && p i))
  let x := s.saf
  let s := (((s.set SAF.SI_LVL_A (en (fun i => !x.sm0.askA.testBit i && !x.sm1.askA.testBit i))).set SAF.SI_LVL_B
    (en (fun i => !x.sm0.askB.testBit i && !x.sm1.askB.testBit i))).set
    SAF.SI_LVL_RUN (en s.inRun)).set SAF.SI_LVL_DISC (en (fun i => (s.disc i).isSome))
  let s := ((s.set SAF.SO_STAT_RB_A rbA.toNat).set SAF.SO_STAT_RB_B rbB.toNat).setB SAF.SRST_LEVEL srst
  let bad := (List.range 4).filter (fun o =>
    (s.soCmd o false != rbA.toNat.testBit o && s.saf.tp.getD o none != some false)
      || (s.soCmd o true != rbB.toNat.testBit o && s.saf.tp.getD o none != some true))
  let s := s.modSaf (fun x => { x with rbBad := !bad.isEmpty })
  .next (match bad with
    | o :: _ => s.safLock lkSO_RB o
    | [] => s)

/-- A disagreement that has reached T_D (R347). [assumption 124 (DEDUCED)] -/
def execDiscFault (i : Fin 8) (s : State) : Host.Outcome State Fault Refusal :=
  match s.disc i with
  | some t => .next (if s.get (SAF.SICFG_T_D i) ≤ t ∧ !s.saf.stopped then s.safLock lkDISC i else s)
  | none => .next s

/-! ### Evisafe: PDUs (R361, R362) -/

def State.escOf (s : State) (c : Nat) : EscC := SMap.get (fun _ => {}) s.saf.esc c
def State.setEsc (s : State) (c : Nat) (x : EscC) : State :=
  s.modSaf (fun y => { y with esc := SMap.put (fun _ => {}) y.esc c x })

/-- ESC_RUN follows the states of the connections. -/
def State.escShow (s : State) : State :=
  (s.set SAF.ESC_RUN_RUN (maskOf ((List.range 16).filter (fun c => (s.escOf c).st == 2)))).set SAF.ESC_RUN_FAILED
    (maskOf ((List.range 16).filter (fun c => (s.escOf c).st == 3)))

/-- The base of the rings (R360). [assumption 133 (DEDUCED)] -/
def State.ringBase (s : State) : Nat := s.get SAF.RING_BASE_ADDR * 0x4000

/-- The safe bits sent: bit f while function f is in RUN, none in lock-out (R361, R366). -/
def State.safeBits (s : State) : Nat :=
  if s.on SAF.STAT_LOCKOUT then 0 else maskOf ((List.range 8).filter (fun f => s.fn f == 3))

/-- The next PDU of connection `c` (R361, R363, R366). -/
def State.escPdu (s : State) (c : Nat) : List Byte :=
  let x := s.escOf c
  let lk := s.on SAF.STAT_LOCKOUT
  let st : Nat := if lk then 3 else 0
  let isOpen := x.st == 1
  let ver := if isOpen then 2 else x.ver.getD 1
  let data := if isOpen then
      leBytes 1 (s.get (SAF.ESC_W1_VMAX c)) ++ leBytes 1 (s.get (SAF.ESC_W1_VMIN c)) ++ leBytes 2 (s.get (SAF.ESC_W1_TEXP c))
        ++ leBytes 2 x.echo
    else leBytes 1 s.safeBits ++ leBytes 1 (maskOf ((List.range 8).filter s.inRun))
        ++ leBytes 1 (if lk then s.get SAF.LOCK_CAUSE else 0) ++ leBytes 1 0
  let head := leBytes 1 (16 * ver + (if isOpen then 1 else 2)) ++ leBytes 1 st ++ leBytes 2 x.seq
    ++ leBytes 4 (s.get (SAF.ESC_W0_CID c))
  let body := head ++ (if ver == 2 then leBytes 2 (x.peer.getD 0) ++ leBytes 1 data.length ++ leBytes 1 0 else []) ++ data
  body ++ leBytes 4 (crcSafe body)

/-- A use of the debug port (R417). -/
def State.dbgTouch (s : State) : State := { s with sec := { s.sec with dbgUsed := true } }

/-- HALT (R135): of a host pair or an engine with the capability H; of a safety core with S, which latches lock-out cause CORE
(R438, R439). -/
def execHalt (src : Fin 5) (s : State) : Host.Outcome State Fault Refusal :=
  .next (if src.val < 3 then (if s.dbgHas 1 then (s.dbgTouch).haltFrom src else s)
    else if s.dbgHas 3 then (s.dbgTouch).safLock lkCORE (src.val - 3) else s)

/-- A ring index of R360 as the cores read it; none where the read ends in a bus error (R451). -/
def State.ringIdx (s : State) (o : Nat) : Option Nat :=
  (s.ramRead (s.ringBase + 0x2000 + o) 4).map (fun bs => leNat bs 0 4 % 32)

/-- Send a PDU into the TX ring; it is dropped and counted where the ring is full, or its indices cannot be read (R360, R363,
R451). [assumption 132 (DEDUCED)] -/
def State.escSend (s : State) (c : Nat) : State :=
  let x := s.escOf c
  let b := s.ringBase
  let pdu := s.escPdu c
  let drop := (s.bump SAF.RING_DROP_TX_DROP).setEsc c { x with txAt := s.now }
  match s.ringIdx 0, s.ringIdx 4 with
  | some wr, some rd =>
    if (wr + 1) % 32 = rd then drop
    else
    let s := s.unitWrite (b + 128 * wr) (leBytes 1 c ++ leBytes 1 pdu.length ++ leBytes 2 0 ++ pdu)
    let s := s.unitWrite (b + 0x2000) (leBytes 4 ((wr + 1) % 32))
    let te := s.get (SAF.ESC_W1_TEXP c) * tMs
    s.setEsc c { x with
      txAt := s.now, bitsTx := if x.st = 1 then 0 else s.safeBits, seq := x.seq % 65535 + 1, sentN := x.sentN + 1,
      sent := (x.seq, s.now) :: x.sent.filter (fun q => decide (s.now ≤ q.2 + te)) }
  | _, _ => drop

/-- TX_INT has passed: a connection in OPENING sends OPEN, one in RUN sends DATA (R363). -/
def execEvisafeTx (k : Fin 16) (s : State) : Host.Outcome State Fault Refusal :=
  let x := s.escOf k
  if s.saf.stopped ∨ !s.on (SAF.ESC_W1_EN k) ∨ (x.st ≠ 1 ∧ x.st ≠ 2) then .next s
  else .next ((s.advance (x.txAt + s.get (SAF.ESC_W1_TX_INT k) * tMs)).escSend k)

/-- The connection opens 1 s after power-up or its failure, through CLOSED (R363). [assumption 131 (DEDUCED)] -/
def execEvisafeReopen (k : Fin 16) (s : State) : Host.Outcome State Fault Refusal :=
  let x := s.escOf k
  if s.saf.stopped ∨ !s.on (SAF.ESC_W1_EN k) ∨ (x.st ≠ 0 ∧ x.st ≠ 3) then .next s
  else
    let s := s.advance (x.since + tS)
    .next ((s.setEsc k { st := 1, since := s.now, txAt := s.now }).escShow)

/-- A connection fails (R365). [assumption 131 (DEDUCED)] -/
def State.escFail (s : State) (c : Nat) (timing : Bool) : State :=
  let s := s.setEsc c { (s.escOf c) with st := 3, since := s.now, bits := 0 }
  let s := s.iff timing (fun s => s.bump SAF.ESC_CNT_EXPIRED)
  ((s.irq SAF.page 5).logEvt SAF.page 5).escShow

/-- A PDU is discarded (R364). -/
def State.escDiscard (s : State) : State := s.bump SAF.ESC_CNT_DISCARD

/-- SEQ `q` lies 1 to SEQ_WIN ahead of the last valid one, counting from 1 to 65,535 and skipping 0 (R364). -/
def seqAhead (last q win : Nat) : Bool :=
  let d := (q + 65535 - last) % 65535
  decide (1 ≤ q ∧ 1 ≤ d ∧ d ≤ win)

/-- The data of a valid DATA PDU: byte 0 holds the safe bits, all 0 with FS (R361, R366); the version-2 check of ESEQ
(R365). -/
def State.escData (s : State) (c : Nat) (ver status seq eseq byte0 : Nat) : State :=
  let x := s.escOf c
  let te := s.get (SAF.ESC_W1_TEXP c) * tMs
  let named := x.sent.any (fun q => q.1 == eseq && decide (s.now ≤ q.2 + te))
  let ever := eseq ≠ 0 ∧ (65535 ≤ x.sentN ∨ eseq ≤ x.sentN)
  let s := (s.setEsc c { x with
    st := 2, peer := some seq, lastAt := s.now, outN := 0, bits := if status.testBit 1 then 0 else byte0 }).escShow
  if ver = 2 ∧ !named then s.escFail c (decide ever) else s

/-- One PDU from the RX ring (R360–R365). [assumption 132 (DEDUCED)] -/
def State.escRxPdu (s : State) (c : Nat) (p : List Byte) : State :=
  let x := s.escOf c
  let n := p.length
  if 16 ≤ c ∨ !s.on (SAF.ESC_W1_EN c) ∨ n < 13 then s.escDiscard else
  let ver := leNat p 0 1 / 16
  let ty := leNat p 0 1 % 16
  let status := leNat p 1 1
  let seq := leNat p 2 2
  let crcOk := leNat p (n - 4) 4 == crcSafe (p.take (n - 4))
  let hd2 := leNat p 10 1 + 16 == n && leNat p 11 1 == 0 && decide (1 ≤ leNat p 10 1 ∧ leNat p 10 1 ≤ 48)
  let form := if ver == 1 then decide (n ≤ 64) else hd2
  let isOpen := ty == 1 && ver == 2 && leNat p 10 1 == 6 && x.st == 1
  let isData := ty == 2 && x.ver == some ver && (x.st == 1 || x.st == 2)
  if !crcOk || leNat p 4 4 != s.get (SAF.ESC_W0_CID c) || status / 4 != 0 || !form || !(isOpen || isData) || seq == 0 then
    s.escDiscard
  else if x.peer.any (fun l => !seqAhead l seq (s.get (SAF.ESC_W1_SEQ_WIN c))) then
    let s := s.escDiscard.setEsc c { x with outN := x.outN + 1 }
    s.iff (x.st == 2 && decide (3 ≤ x.outN + 1)) (fun s => s.escFail c false)
  else if isOpen then
    if leNat p 14 2 != s.get (SAF.ESC_W1_TEXP c) then s.escDiscard
    else
      let lo := max (leNat p 13 1) (s.get (SAF.ESC_W1_VMIN c))
      let hi := min (leNat p 12 1) (s.get (SAF.ESC_W1_VMAX c))
      let s := s.setEsc c { x with peer := some seq, echo := seq, outN := 0, lastAt := s.now }
      if hi < lo then s.escFail c false
      else
        let e := leNat p 16 2
        let go := e ≠ 0 ∧ (65535 ≤ x.sentN ∨ e ≤ x.sentN)
        (s.setEsc c { (s.escOf c) with ver := some hi, st := if go then 2 else 1 }).escShow
  else
    let (eseq, b0) := if ver == 2 then (leNat p 8 2, leNat p 12 1) else (0, leNat p 8 1)
    s.escData c ver status seq eseq b0

/-- The cores read one PDU of the RX ring (R360); one that cannot be read is discarded (R451). [assumption 132 (DEDUCED)] -/
def State.escRx (s : State) : State :=
  match s.ringIdx 8, s.ringIdx 12 with
  | some wr, some rd =>
    if wr = rd then s
    else
      let a := s.ringBase + 0x1000 + 128 * rd
      let slot := s.ramRead a 128
      let s := s.unitWrite (s.ringBase + 0x200C) (leBytes 4 ((rd + 1) % 32))
      match slot with
      | none => s.escDiscard
      | some bs => s.escRxPdu (leNat bs 0 1) ((bs.drop 4).take (min 124 (leNat bs 1 1)))
  | _, _ => s

def execEvisafeRx (s : State) : Host.Outcome State Fault Refusal :=
  .next (if s.saf.stopped || !s.on SAF.STAT_SPS_OK then s else s.escRx)

/-- TEXP without a valid PDU: one that is in the RX ring at the start of the cycle counts (R365, R368). -/
def execEvisafeTexp (k : Fin 16) (s : State) : Host.Outcome State Fault Refusal :=
  if s.saf.stopped ∨ (s.escOf k).st ≠ 2 then .next s else
  let te := s.get (SAF.ESC_W1_TEXP k) * tMs
  let s := s.advance ((s.escOf k).lastAt + te)
  let s := s.each (List.range 32) (fun s _ => s.escRx)
  let x := s.escOf k
  .next (if x.st = 2 ∧ x.lastAt + te ≤ s.now then s.escFail k true else s)

/-! ### Functions (R348–R351) -/

/-- The demand condition of a function other than TWOHAND, for a core (R348). -/
def State.fnDemand (s : State) (k : Bool) (f : Nat) : Bool :=
  let i := s.get (SAF.FN_W0_IN0 f)
  match s.get (SAF.FN_W0_TYPE f) with
  | 1 => !s.inRunAt k i
  | 2 => !s.inRunAt k i
  | 4 => !s.inRunAt k i
  | 5 =>
    let x := s.escOf (s.get (SAF.FN_W0_ESC f))
    x.st != 2 || !x.bits.testBit (s.get (SAF.FN_W0_BIT f))
  | 6 => s.on SAF.STAT_MBR_IN
  | _ => true

/-- The state of function `f` in a core (R349). -/
def State.fnAt (s : State) (k : Bool) (f : Nat) : Nat := (s.core k).fn.getD f 0
def State.setFn (s : State) (k : Bool) (f st : Nat) : State := s.modCore k (fun c => { c with fn := c.fn.set f st })

/-- A function leaves RUN: its demand is reported and the pairs it names go off after OFF_DLY (R352, R371). -/
def State.fnLeave (s : State) (k : Bool) (f : Nat) : State :=
  (s.irq SAF.page 0).modCore k (fun c => { c with offT := c.offT.set f (some (s.get (SAF.FN_W1_OFF_DLY f))) })

/-- A TWOHAND function in one cycle of a core (R350). -/
def State.fnTwoHand (s : State) (k : Bool) (f : Nat) : State :=
  let r0 := s.inRunAt k (s.get (SAF.FN_W0_IN0 f))
  let r1 := s.inRunAt k (s.get (SAF.FN_W0_IN1 f))
  let arm := fun (s : State) (a : Bool) (t : Option Nat) =>
    s.modCore k (fun c => { c with thArm := c.thArm.set f a, thT := c.thT.set f t })
  if s.fnAt k f == 3 then
    if r0 && r1 then s else ((arm s (!r0 && !r1) none).setFn k f 1).fnLeave k f
  else if !r0 && !r1 then arm s true none
  else if !((s.core k).thArm.getD f false) then s
  else
    let t := match (s.core k).thT.getD f none with
      | none => 0
      | some t => t + 1
    if r0 && r1 then
      if t ≤ 500 then (arm s false none).setFn k f 3 else (arm s false none).irq SAF.page 6
    else arm s true (some t)

/-- A function in one cycle of a core (R349). [assumption 125 (DEDUCED)] -/
def State.fnStep (s : State) (k : Bool) (f : Nat) : State :=
  match s.get (SAF.FN_W0_TYPE f) with
  | 0 => s
  | 3 => s.fnTwoHand k f
  | _ =>
    if s.fnDemand k f then
      let s' := s.setFn k f 1
      if s.fnAt k f == 3 then s'.fnLeave k f else s'
    else if s.fnAt k f == 1 then s.setFn k f (if s.on (SAF.FN_W0_RESTART f) then 2 else 3)
    else s

/-- The output pairs whose channel a core has on after this cycle, as a mask (R352). [assumption 126 (DEDUCED)] -/
def State.soWanted (s : State) (k : Bool) : Nat :=
  if s.on SAF.STAT_LOCKOUT || !s.on SAF.STAT_SPS_OK then 0
  else maskOf ((List.range 4).filter (fun o =>
    match s.get (SAF.SOCFG_MODE o) with
    | 1 =>
      let fs := (List.range 8).filter (fun f => (s.get (SAF.FN_W0_SO f)).testBit o)
      let wasOn := s.soCmd o k
      !fs.isEmpty && fs.all (fun f => match (s.core k).offT.getD f none with
        | some t => wasOn && t != 0
        | none => s.fnAt k f == 3)
    | 2 => true
    | _ => false))

/-- The functions and outputs of one cycle, in each core. -/
def State.safEval (s : State) : State :=
  let s := s.iff (s.on SAF.STAT_SPS_OK) (fun s => s.each cores (fun s k => s.each (List.range 8) (fun s f => s.fnStep k f)))
  let s := s.soSet (s.soWanted false) (s.soWanted true)
  let s := s.each cores (fun s k => s.modCore k (fun c => { c with offT := c.offT.map (fun t => match t with
    | some (n + 1) => some n
    | _ => none) }))
  s.safShow.stoUpdate

/-- Item `j` of those the cores exchange differs between them: an input pair, a function, an output pair (R342). -/
def State.coreDiffer (s : State) (j : Nat) : Bool :=
  if j < 8 then s.saf.sm0.askA.testBit j != s.saf.sm1.askA.testBit j || s.saf.sm0.askB.testBit j != s.saf.sm1.askB.testBit j
  else if j < 16 then s.fnAt false (j - 8) != s.fnAt true (j - 8)
  else s.soCmd (j - 16) false != s.soCmd (j - 16) true

/-- A safety cycle (R342, R346, R349, R352, R355, R363). A connection in RUN sends where a bit it sends has fallen, unless it
has sent at this instant. [assumptions 132 (DEDUCED); 272 (DESIGN CHOICE)] -/
def execSafetyCycle (differ : BitVec 20) (bad : Bool) (s : State) : Host.Outcome State Fault Refusal :=
  if s.saf.stopped then .next s else
  let s := (s.safBoot).advance (s.saf.cycAt + tMs)
  let tick := fun (c : SafCore) => { c with disc := c.disc.map (fun d => d.map (· + 1)) }
  let s := s.modSaf (fun x => { x with cycAt := s.now, cycled := true, core := bad, sm0 := tick x.sm0, sm1 := tick x.sm1 })
  let s := (s.setB SAF.STAT_MBR_IN (s.on MCX.STAT_MBR_REQ)).setB SAF.STAT_RUN (!bad)
  let s := s.safEval
  let s := s.modSaf (fun x => { x with xcmp := (List.range 20).map (fun j =>
    if s.coreDiffer j || differ.toNat.testBit j then x.xcmp.getD j 0 + 1 else 0) })
  let s := s.iff bad (fun s => s.safLock lkCORE 0)
  let s := s.iff (s.saf.xcmp.contains 3) (fun s => s.safLock lkXCMP 0)
  let b := s.safeBits
  let fell := s.saf.bits &&& (0xFF ^^^ b) != 0
  let s := s.modSaf (fun x => { x with bits := b })
  .next (s.each ((List.range 16).filter (fun c => (s.escOf c).st == 2 && s.on (SAF.ESC_W1_EN c)
      && (fell || (s.escOf c).bitsTx &&& (0xFF ^^^ b) != 0) && decide ((s.escOf c).txAt < s.now)))
    State.escSend)

/-! ### Test pulses (R345, R353, R354) -/

/-- A channel that is on is pulsed off; the other channel's pulse follows 100 ms later at the earliest (R353). -/
def execTestPulseStart (o : Fin 4) (chB : Bool) (s : State) : Host.Outcome State Fault Refusal :=
  if s.saf.stopped ∨ !s.soCmd o chB ∨ s.saf.tp.getD o none ≠ none then .next s else
  let s := s.advance (s.saf.tpDue.getD (2 * o + chB.toNat) 0)
  let s := s.modSaf (fun x => { x with
    tp := x.tp.set o (some chB),
    tpDue := (x.tpDue.set (2 * o + chB.toNat) (s.now + 200 * tMs)).set (2 * o + (!chB).toNat)
      (max (x.tpDue.getD (2 * o + (!chB).toNat) 0) (s.now + 100 * tMs)) })
  .next (s.set SAF.SO_STAT_TP_ACT (s.get SAF.SO_STAT_TP_ACT ||| 1 <<< o.val))

/-- The pulse ends TP_W after its start, which lies 200 ms before the channel's next: its readback is judged, and the input pairs fed from the pair must have shown it on the channel of
their own feed while the contact conducts, and on no other (R345, R353). -/
def execTestPulseEnd (o : Fin 4) (chB offOk onOk : Bool) (seenA seenB : BitVec 8) (s : State) :
    Host.Outcome State Fault Refusal :=
  if s.saf.tp.getD o none ≠ some chB then .next s else
  let s := s.advance (s.saf.tpDue.getD (2 * o + chB.toNat) 0 - 200 * tMs + s.get (SAF.SOCFG_TP_W o) * 10 * tUs)
  let s := s.modSaf (fun x => { x with tp := x.tp.set o none })
  let s := s.set SAF.SO_STAT_TP_ACT (s.get SAF.SO_STAT_TP_ACT &&& (0xF ^^^ 1 <<< o.val))
  let s := s.iff (!(offOk && onOk)) (fun s => s.safLock lkTP o)
  let fed := (List.range 8).filter (fun i => s.get (SAF.SICFG_TYPE i) != 0 && s.get (SAF.SICFG_TPSRC i) == o.val + 1)
  let ownHigh := if chB then (s.core true).rawB else (s.core false).rawA
  let own := if chB then seenB.toNat else seenA.toNat
  let other := if chB then seenA.toNat else seenB.toNat
  let bad := fed.filter (fun i => (ownHigh.testBit i && !own.testBit i) || other.testBit i)
  let s := s.each bad (fun s i => s.modSaf (fun x => { x with crossA := x.crossA ||| 1 <<< i, crossB := x.crossB ||| 1 <<< i }))
  .next (match bad with
    | i :: _ => s.safLock lkCROSS i
    | [] => s)

/-! ### The reset edge (R357) -/

/-- The inputs are in their safe idle state. -/
def State.safIdle (s : State) : Bool :=
  (List.range 8).all (fun i => s.get (SAF.SICFG_TYPE i) == 0
    || (cores.all (fun k => (s.core k).askA.testBit i == (s.core k).askB.testBit i) && s.disc i == none
      && !s.saf.crossA.testBit i && !s.saf.crossB.testBit i))

/-- A cause of lock-out is still detected. [assumption 128 (DEDUCED)] -/
def State.lockHolds (s : State) : Bool :=
  !s.on SAF.STAT_SPS_OK || s.saf.rbBad || s.saf.xcmp.any (fun n => decide (3 ≤ n)) || s.saf.core

/-- The restart of the functions in READY (R349, R357). -/
def State.fnRestart (s : State) : State :=
  (s.each cores (fun s k => s.each (List.range 8) (fun s f =>
    if s.fnAt k f == 2 then s.setFn k f (if s.fnDemand k f then 1 else 3) else s))).safShow.stoUpdate

/-- A release of SRST (R357). A reset edge while a disagreement runs is refused (R368). [assumption 129 (DEDUCED)] -/
def execSrstEdge (q : Nat) (both : Bool) (s : State) : Host.Outcome State Fault Refusal :=
  if s.saf.stopped then .next s else
  let s := (s.safBoot).set SAF.SRST_LEVEL 0
  if s.saf.srstHeld then .next (s.modSaf (fun x => { x with srstHeld := false })) else
  let s := s.set SAF.SRST_LAST_MS (min 65535 (q / 4))
  if q < 200 ∨ 8000 < q then .next ((s.set SAF.SRST_SRST_BAD 1).irq SAF.page 4)
  else if !both then .next (s.logEvt SAF.page 4)
  else
    let s := s.set SAF.SRST_SRST_BAD 0
    let ok := if s.on SAF.STAT_LOCKOUT then s.safIdle && !s.lockHolds else (List.range 8).all (fun i => s.disc i == none)
    if !ok then .next ((s.set SAF.SRST_RST_REFUSED 1).irq SAF.page 3)
    else
      let s := s.set SAF.SRST_RST_REFUSED 0
      if s.on SAF.STAT_LOCKOUT then
        let s := s.iff (s.on SAF.STAT_NEW_PAR) (fun s =>
          { (s.set SAF.STAT_NEW_PAR 0) with nvl := { s.nvl with ack := some (s.get SAF.SPS_CRC_CRC) } })
        .next ((s.set SAF.STAT_LOCKOUT 0).setReg SAF.LOCK 0).stoUpdate
      else .next s.fnRestart

/-! ### Interconnect bounds (R359) -/

/-- The cores receive a bound violation of class P0 to P2. -/
def State.safBound (s : State) (p : Nat) : State :=
  if p = 1 then s.safLock lkP1 0 else if s.on SAF.SAFCFG_BOUND_STO then s.safLock lkBOUND 0 else s

end Sys2Proof.Machine
end

