-- ==== Sys2Proof/Machine/Memory.lean ====
section
/-! DEFINITION. Memory integrity: correctable and uncorrectable errors, poison, the Rake, critical regions, the Pan, the test
page and the spare pages, and a master's write (R447–R459, R473–R475). -/

namespace Sys2Proof.Machine

abbrev mCRIT_TEST : Nat := 0x40

def State.modMem (s : State) (f : MemSt → MemSt) : State := { s with memx := f s.memx }
def State.modPwr (s : State) (f : PwrSt → PwrSt) : State := { s with pwr := f s.pwr }

/-- A cause of a warm reset arises; it is ignored during a thermal shutdown (R466, R473). -/
def State.warmAsk (s : State) (cause : Nat) : State :=
  if s.memx.shut && cause != 6 then s else s.modPwr (fun x => { x with warm := some (x.warm.getD cause) })

/-! ### Words -/

/-- Every data bit of a word is 0. -/
def State.zeroWord (s : State) (r i : Nat) : State :=
  if r = 18 ∨ r = 19 then s else s.putBytes (wordAddr r i) (List.replicate 8 0)

/-- A word is poisoned: its data are 0 and reads of it end in a bus error (R451). [assumption 164 (DEDUCED)] -/
def State.poisonWord (s : State) (r i : Nat) : State := ((s.zeroWord r i).encoded r i).setPoison r i true

/-- The word lies on the test page (R458). -/
def State.onTestPage (s : State) (r i : Nat) : Bool :=
  r == 0 && s.on MEM.TEST_CFG_EN && i / 512 == s.get MEM.TEST_CFG_PAGE

/-! ### The Pan (R457) -/

/-- One correctable error: counted, and the level rises, overflowing at THR. -/
def State.panAdd (s : State) (r i synd src : Nat) : State :=
  let s := (((s.set MEM.LAST_CE0_WORD i).set MEM.LAST_CE0_REGION r).set MEM.LAST_CE0_SRC src).set MEM.LAST_CE1_SYND synd
  let s := (s.bump MEM.CE_TOT_CNT).bump MEM.PAN_STAT_LEVEL
  if s.get MEM.PAN_CFG_THR ≤ s.get MEM.PAN_STAT_LEVEL then
    let s := ((s.set MEM.PAN_STAT_LEVEL 0).bump MEM.PAN_STAT_OVF_CNT).irq MEM.page 0
    s.log MEM.page 0 (s.reg MEM.LAST_CE0).toNat (s.reg MEM.LAST_CE1).toNat
  else s

/-- The level falls by 1 every LEAK ms (R457). -/
def execPanLeak (s : State) : Host.Outcome State Fault Refusal :=
  let s := s.advance (s.memx.leakAt + s.get MEM.PAN_CFG_LEAK * tMs)
  .next ((s.modMem (fun x => { x with leakAt := s.now })).set MEM.PAN_STAT_LEVEL (s.get MEM.PAN_STAT_LEVEL - 1))

/-! ### Critical regions (R455, R456) -/

/-- The entries whose range holds a word. -/
def State.critOf (s : State) (r i : Nat) : List Nat :=
  (List.range 16).filter (fun n => s.get (MEM.CRIT_W0_CLASS n) != 0 && s.get (MEM.CRIT_W0_REGION n) == r
    && decide (s.get (MEM.CRIT_W0_FIRST n) ≤ i ∧ i ≤ s.get (MEM.CRIT_W1_LAST n)))

/-- The enabled contexts whose program, table or record holds a word of their engine's memory (R456). -/
def State.critCtx (s : State) (r i : Nat) : List Nat :=
  if 1 ≤ r ∧ r ≤ 16 then
    (s.enabledOf (r - 1)).filter (fun c =>
      let hit := fun (lo n : Nat) => decide (0 < n ∧ 8 * i < lo + n ∧ lo < 8 * i + 8)
      hit (4 * s.ctxPC c) (4 * s.ctxPLEN c) || hit (4 * s.ctxTBASE c) (4 * s.ctxTLEN c)
        || hit (0x1C000 + 0x400 * (c % 16)) 0x400)
  else []

/-- An uncorrectable error in a critical range: HIT, UE_CRIT, and the reactions, the most severe class first (R455, R473). -/
def State.critReact (s : State) (r i : Nat) : State :=
  let ns := s.critOf r i
  let cs := s.critCtx r i
  if ns.isEmpty && cs.isEmpty then s
  else
    let cls := fun k => ns.filter (fun n => s.get (MEM.CRIT_W0_CLASS n) == k)
    let s := (s.each ns (fun s n => s.set (MEM.CRIT_W1_HIT n) 1)).irq MEM.page 3
    let s := s.set MEM.LAST_UE0_CRIT 1
    let s := s.iff (!(cls 4).isEmpty) (fun s => s.warmAsk 5)
    let s := s.iff (!(cls 3).isEmpty) (fun s =>
      { (s.tripAll 15) with inactAt := SMap.put (fun _ => 0) s.inactAt 15 s.nextTick })
    let s := s.each (cls 2) (fun s n => s.leStop (16 * s.get (MEM.CRIT_W1_ENG n) + s.get (MEM.CRIT_W1_CTX n)))
    s.each cs State.leStop

/-! ### Errors found (R449, R450, R454) -/

/-- LAST_UE records an uncorrectable error (R450, R454). [assumption 165 (DEDUCED)] -/
def State.lastUe (s : State) (r i src : Nat) (slp : Bool) (synd chk : Nat) (lo hi : Word) : State :=
  let s := (((s.set MEM.LAST_UE0_WORD i).set MEM.LAST_UE0_REGION r).set MEM.LAST_UE0_SRC src).set MEM.LAST_UE0_CRIT 0
  let s := ((s.setB MEM.LAST_UE0_SLEEP slp).set MEM.LAST_UE1_SYND synd).set MEM.LAST_UE1_CHK chk
  (s.setReg MEM.LAST_UE2 lo).setReg MEM.LAST_UE3 hi

/-- An uncorrectable error in a private RAM latches the lock-out (R450). -/
def State.safRam (s : State) (r : Nat) : State := if r = 18 ∨ r = 19 then s.safLock lkCORE (r - 18) else s

/-- A correctable error found by a master's read; found by the Rake in the same bus cycle it counts once (R449). -/
def execMasterReadCe (r : Fin 20) (i : Nat) (synd : BitVec 8) (rake : Bool) (s : State) : Host.Outcome State Fault Refusal :=
  if regionWords r ≤ i then .next s
  else if s.onTestPage r i then .next (s.bump MEM.TEST_CNT_CE)
  else .next (s.panAdd r i synd.toNat (if rake then 0 else 1))

/-- An uncorrectable word found by a master's read (R450); a poisoned word is not counted again (R451).
[assumption 165 (DEDUCED)] -/
def execMasterReadUe (r : Fin 20) (i : Nat) (le : Option (Fin 16)) (synd chk : BitVec 8) (lo hi : Word) (s : State) :
    Host.Outcome State Fault Refusal :=
  if regionWords r ≤ i then .next s else
  let s := { s with resp := .busError }
  let eng := fun (s : State) => match le with
    | some e => (match (s.eng e).run with
      | some x => s.leUe e x
      | none => s)
    | none => s
  if s.onTestPage r i then .next (s.bump MEM.TEST_CNT_UE)
  else if s.isPoison r i then .next (eng s)
  else
    let s := (s.lastUe r i 1 false synd.toNat chk.toNat lo hi).poisonWord r i
    let s := ((s.bump MEM.UE_CNT_UE_RD).irq MEM.page 2).logEvt MEM.page 2
    .next ((eng (s.critReact r i)).safRam r)

/-! ### The Rake (R452–R454) -/

/-- The Rake finds an uncorrectable word: poisoned, recorded, logged (R454). [assumption 164 (DEDUCED)] -/
def State.rakeUe (s : State) (r i : Nat) (slp : Bool) (synd chk : Nat) (lo hi : Word) : State :=
  let s := (s.lastUe r i 0 slp synd chk lo hi).poisonWord r i
  let s := ((s.bump MEM.UE_CNT_UE_BG).irq MEM.page 1).log MEM.page 1 (i + 2 ^ 21 * r) lo.toNat
  (s.critReact r i).safRam r

/-- The word of a walker; the walker of system SRAM skips the test page (R452). [assumption 164 (DEDUCED)] -/
def State.walkAt (s : State) (r : Nat) : Nat :=
  let i := SMap.get (fun _ => 0) s.memx.walk r
  if s.onTestPage r i then (i / 512 + 1) * 512 % regionWords r else i

/-- A walker's interval (R452). A word written whole, or cleared by PCLR, in the same bus cycle is not poisoned and nothing is
counted (R473). [assumption 164 (DEDUCED)] -/
def execRakeStep (r : Fin 20) (kind : Fin 4) (synd chk : BitVec 8) (lo hi : Word) (s : State) :
    Host.Outcome State Fault Refusal :=
  if !s.on MEM.RAKE_CFG_EN || !(s.get MEM.RAKE_REG_EN).testBit r || s.get PWR.STAT_STATE == 3 then .next s
  else if kind.val = 3 then .next (s.bump MEM.RAKE_SLIP_CNT)
  else
    let i := s.walkAt r
    let s := s.modMem (fun x => { x with walk := SMap.put (fun _ => 0) x.walk r.val ((i + 1) % regionWords r) })
    .next (if s.isPoison r i || (s.justWritten r i && kind.val == 2) then s else match kind.val with
      | 1 => s.panAdd r i synd.toNat 0
      | 2 => s.rakeUe r i false synd.toNat chk.toNat lo hi
      | _ => s)

/-- The Rake in SLEEP walks AON-RAM alone, where its region is enabled: up to four findings are held for the wake (R452,
R453). -/
def execRakeSleepStep (kind : Fin 3) (synd chk : BitVec 8) (lo hi : Word) (s : State) : Host.Outcome State Fault Refusal :=
  if s.get PWR.STAT_STATE != 3 || !s.on MEM.RAKE_CFG_EN || !(s.get MEM.RAKE_REG_EN).testBit 17 then .next s else
  let i := s.walkAt 17
  let s := s.modMem (fun x => { x with walk := SMap.put (fun _ => 0) x.walk 17 ((i + 1) % regionWords 17) })
  if kind.val = 0 ∨ s.isPoison 17 i then .next s
  else
    let ue := kind.val == 2
    let s := s.iff ue (fun s => s.poisonWord 17 i)
    .next (if s.memx.found.length < 4 then
        s.modMem (fun x => { x with found := x.found ++ [⟨ue, i, synd.toNat, chk.toNat, lo, hi⟩] })
      else s.bump MEM.SLP_LOST_CNT)

/-- The findings of the sleep are entered at the wake (R453). -/
def State.slpEnter (s : State) : State :=
  let fs := s.memx.found
  (s.modMem (fun x => { x with found := [] })).each fs (fun s f =>
    if f.ue then s.rakeUe 17 f.i true f.synd f.chk f.lo f.hi else s.panAdd 17 f.i f.synd 0)

/-! ### PCLR, the test page and spare pages (R451, R458, R459) -/

def execPclr (r : BitVec 5) (i : BitVec 21) (s : State) : Host.Outcome State Fault Refusal :=
  .next (s.judge MEM.page 0x74 [(decide (20 ≤ r.toNat ∨ regionWords r.toNat ≤ i.toNat), eRANGE)] (fun s =>
    (s.zeroWord r.toNat i.toNat).wholeWord r.toNat i.toNat))

/-- A range of a critical entry overlaps page `p` of system SRAM. -/
def State.critPage (s : State) (p : Nat) : Bool :=
  (List.range 16).any (fun n => s.get (MEM.CRIT_W0_CLASS n) != 0 && s.get (MEM.CRIT_W0_REGION n) == 0
    && decide (s.get (MEM.CRIT_W0_FIRST n) < 512 * p + 512 ∧ 512 * p ≤ s.get (MEM.CRIT_W1_LAST n)))

/-- A page is remapped or its copy runs. -/
def State.remapped (s : State) (p : Nat) : Bool := s.memx.remap.any (fun q => q.2 == some p)

/-- A write to TEST_CFG (R458). -/
def State.testCfgWrite (s : State) (val : Word) : State :=
  let p := getBits val 0 12
  s.judge MEM.page 0x78 [(val.getLsbD 12 && (s.critPage p || s.remapped p), mCRIT_TEST)] (fun s => s.take .mem MEM.page 0x78 val)

/-- The word TEST_ADDR names. -/
def State.testWord (s : State) : Nat := 512 * s.get MEM.TEST_CFG_PAGE + s.get MEM.TEST_ADDR_WORD

/-- WR_RAW stores 72 raw bits (R458); the pattern of poison makes the word poisoned (R451). [assumption 167 (DEDUCED)] -/
def execTestWrRaw (s : State) : Host.Outcome State Fault Refusal :=
  .next (s.judge MEM.page 0x8C [(!s.on MEM.TEST_CFG_EN, eSTATE)] (fun s =>
    let i := s.testWord
    let lo := s.reg MEM.TEST_DLO
    let hi := s.reg MEM.TEST_DHI
    let bad := lo == 0 && hi == 0 && s.get MEM.TEST_CHK_CHK == 0xFF
    let s := (s.setPoison 0 i bad).putBytes (wordAddr 0 i) (leBytes 4 lo.toNat ++ leBytes 4 hi.toNat)
    s.modMem (fun x => { x with raw := SMap.put (fun _ => none) x.raw i (some (hi ++ lo, BitVec.ofNat 8 (s.get MEM.TEST_CHK_CHK))) })))

/-- RD_RAW reads 72 raw bits (R458): those written raw, or the word with the check byte the encoder gave it.
[assumption 168 (DESIGN CHOICE)] -/
def execTestRdRaw (s : State) : Host.Outcome State Fault Refusal :=
  .next (s.judge MEM.page 0x8C [(!s.on MEM.TEST_CFG_EN, eSTATE)] (fun s =>
    let i := s.testWord
    let b := s.bytesAt (wordAddr 0 i) 8
    let s := (s.setReg MEM.TEST_DLO (BitVec.ofNat 32 (leNat b 0 4))).setReg MEM.TEST_DHI (BitVec.ofNat 32 (leNat b 4 4))
    if s.isPoison 0 i then s.set MEM.TEST_CHK_CHK 0xFF
    else match SMap.get (fun _ => none) s.memx.raw i with
      | some (_, c) => s.set MEM.TEST_CHK_CHK c.toNat
      | none => s.set MEM.TEST_CHK_CHK (Config.eccCheck (BitVec.ofNat 64 (leNat b 0 8))).toNat))

/-- A write of REMAPn with GO (R459). [assumption 167 (DEDUCED)] -/
def execRemapGo (n : Fin 4) (page : BitVec 12) (s : State) : Host.Outcome State Fault Refusal :=
  let p := page.toNat
  .next (s.judge MEM.page (0x98 + 4 * n.val)
    [(s.remapped p || (s.on MEM.TEST_CFG_EN && s.get MEM.TEST_CFG_PAGE == p), mCRIT_TEST),
     ([0, 1, 2, 3].any (fun m => s.on (MEM.REMAP_BUSY m)) || s.on (MEM.REMAP_ACTIVE n), eSTATE)] (fun s =>
    ((s.set (MEM.REMAP_PAGE n) p).set (MEM.REMAP_BUSY n) 1).modMem (fun x =>
      { x with remap := SMap.put (fun _ => none) x.remap n.val (some p) })))

/-- The copy of one word: corrected, or as poison where it cannot be (R459). -/
def State.copyWord (s : State) (k : Nat) : State :=
  match s.rawWord 0 k with
  | none => s
  | some none => (s.encoded 0 k).poisonWord 0 k
  | some (some d) => (s.encoded 0 k).putBytes (wordAddr 0 k) (leBytes 8 d.toNat)

/-- The copy completes: the spare holds the page's words, poison with them (R459). -/
def execRemapDone (n : Fin 4) (s : State) : Host.Outcome State Fault Refusal :=
  if s.on (MEM.REMAP_BUSY n) then
    let p := (SMap.get (fun _ => none) s.memx.remap n.val).getD 0
    let s := s.each ((s.memx.raw.map (·.1)).filter (fun k => k / 512 == p)) State.copyWord
    .next (((s.set (MEM.REMAP_BUSY n) 0).set (MEM.REMAP_ACTIVE n) 1).irq MEM.page 4)
  else .next s

/-- A write to a word of a critical entry (R455). [assumption 166 (DEDUCED)] -/
def State.critWrite (s : State) (n : Nat) (second : Bool) (val : Word) : State :=
  let ofs := 0xC0 + 8 * n + (if second then 4 else 0)
  let pg := MEM.page
  let first := if second then s.get (MEM.CRIT_W0_FIRST n) else s.willBe pg true (MEM.CRIT_W0_FIRST n) val
  let reg := if second then s.get (MEM.CRIT_W0_REGION n) else s.willBe pg true (MEM.CRIT_W0_REGION n) val
  let last := if second then s.willBe pg true (MEM.CRIT_W1_LAST n) val else s.get (MEM.CRIT_W1_LAST n)
  let tp := s.get MEM.TEST_CFG_PAGE
  s.judge pg ofs
    [(!second && decide (18 ≤ getBits val 21 5 ∨ 5 ≤ getBits val 26 3), eRANGE), (second && decide (last < first), eRANGE),
     (s.on MEM.TEST_CFG_EN && reg == 0 && decide (first < 512 * tp + 512 ∧ 512 * tp ≤ last), mCRIT_TEST)] (fun s =>
    let s := s.take .mem pg ofs val
    s.setB (MEM.CRIT_W1_HAS_POISON n) (s.poison.any (fun q => decide (wordKey reg first ≤ q.1 ∧ q.1 ≤ wordKey reg last))))

/-! ### A master's write (R187, R451, R479) -/

/-- A write of bytes within one 64-bit word; none for a bus error. A protected region of an engine's memory refuses the
write without a bus error (R187). -/
def State.masterPut (s : State) (a : Nat) (bs : List Byte) : Option State :=
  match s.ramWrite a bs with
  | none => none
  | some t =>
    match leOfAddr a with
    | some e =>
      if s.leProtected e (a - leAddr e 0) bs.length || (s.window == 1 && s.leTable e (a - leAddr e 0) bs.length) then
        some (s.leMemWrite e a bs)
      else some t
    | none => some t

/-- A write by a master to RAM, word by word; a bus error leaves its word as it was. [assumptions 206, 213 (DEDUCED)] -/
def State.masterWrite (s : State) (a : Nat) (bs : List Byte) : State :=
  let r := (wordPieces a bs).foldl (fun (r : Bool × State) (q : Nat × List Byte) =>
    if r.1 then match r.2.masterPut q.1 q.2 with
      | some t => (true, t)
      | none => (false, r.2)
    else r) (true, s)
  { r.2 with resp := if r.1 then .ok else .busError }

/-- MASTER_WRITE (R451); the debug port's is refused there, with no effect, without the capability W (R438, R439). -/
def execMasterWrite (a : Nat) (data : BusData) (s : State) : Host.Outcome State Fault Refusal :=
  .next (if data.dbg then
      (if s.dbgHas 2 then (s.dbgTouch).masterWrite a data.bytes else s)
    else s.masterWrite a data.bytes)

end Sys2Proof.Machine
end

