-- ==== Sys2Proof/Machine/Security.lean ====
section
/-! DEFINITION. The security core: lifecycle requests and tokens, pairing keys, the rollback count, the debug port and the
matrix of what each combination permits (R422–R446). -/

namespace Sys2Proof.Machine

abbrev sTOKEN : Nat := 0x41
abbrev sLC_PATH : Nat := 0x42
abbrev sNONCE : Nat := 0x43
abbrev sKID_USED : Nat := 0x44
abbrev sOTP_FULL : Nat := 0x45
abbrev sRB_RANGE : Nat := 0x46
abbrev sSCOPE : Nat := 0x48
abbrev sNOT_PERMITTED : Nat := 0x49

def State.modSec (s : State) (f : SecSt → SecSt) : State := { s with sec := f s.sec }

/-- The bytes of TOKEN (R444). [assumption 149 (DEDUCED)] -/
def State.token (s : State) : List Byte := (List.range 128).flatMap (fun j => leBytes 4 (s.reg (SEC.TOKEN j)).toNat)

/-- The bytes of CHAL (R424). -/
def State.chal (s : State) : List Byte := (List.range 8).flatMap (fun j => leBytes 4 (s.reg (SEC.CHAL j)).toNat)

/-- Bytes as a number, the first the most significant. [assumption 149 (DEDUCED)] -/
def beNat (bs : List Byte) : Nat := bs.foldl (fun a b => 256 * a + b.toNat) 0

/-- A slice of bytes. -/
def slice (bs : List Byte) (i n : Nat) : List Byte := (bs.drop i).take n

/-- An ECDSA P-384 signature with SHA-384 by a key of 96 bytes. -/
def sigOk (key msg sig : List Byte) : Bool :=
  Config.ecdsaOk (BitVec.ofNat 768 (beNat key)) (Config.sha384 msg) sig

/-! ### Reactions to a change of the combination (R441, R442) -/

/-- A combination in which ARMED is not permitted disarms; FREEZE ends with its permission (R441, R442). -/
def State.secChange (s : State) : State :=
  let s := s.iff (!s.armPermit) (fun s => s.disarm disLIFECYCLE)
  s.frzLapse

/-! ### The debug port (R435–R437) -/

/-- The port comes to a state with a scope. [assumption 153 (DEDUCED)] -/
def State.dbgGo (s : State) (st scope : Nat) (fin : Option Nat) : State :=
  let ch := s.dbgSt != st
  let s := (((s.set SEC.DBG_STAT_STATE st).set SEC.DBG_STAT_SCOPE scope).set SEC.DBG_LEFT_SEC 0).modSec
    (fun x => { x with dbgEnd := fin })
  (s.iff ch (fun s => s.irq SEC.page 1)).secChange

/-- The port closes: halted cores and engines resume (R437). -/
def State.dbgShut (s : State) : State :=
  if s.dbgSt = 0 then s else
  let s := s.dbgGo 0 0 none
  s.each ([0, 1, 2].filter (fun i => s.halts.testBit i)) State.haltOver

def execDbgClose (s : State) : Host.Outcome State Fault Refusal :=
  .next (s.judge SEC.page 0x48 [] State.dbgShut)

def execDbgOpen (s : State) : Host.Outcome State Fault Refusal :=
  .next (s.judge SEC.page 0x48 [(s.lc == lcFIELD || s.lc == lcSERVICE, sNOT_PERMITTED)] (fun s => s.dbgGo 2 3 none))

/-- The nonce is consumed by a check (R424). -/
def State.nonceUse (s : State) : State := s.modSec (fun x => { x with used := true })

/-- NONCE of a token is the present, unused nonce (R424). -/
def State.nonceOk (s : State) : Bool := !s.sec.used && slice s.token 12 32 == s.chal

/-- MAGIC and UID of a token (R424). [assumption 149 (DEDUCED)] -/
def State.tokenHead (s : State) (magic : List Byte) : Bool :=
  s.token.take 4 == magic && leNat s.token 4 8 == s.straps.uid

/-- DBG_CTL AUTH: the response is checked and its scope granted (R435, R436). [assumption 154 (DEDUCED)] -/
def execDbgAuth (s : State) : Host.Outcome State Fault Refusal :=
  .next (s.judge SEC.page 0x48 [] (fun s =>
    let b := s.token
    let scope := leNat b 44 1
    let dur := leNat b 48 4
    let head := s.tokenHead [0x43, 0x44, 0x42, 0x47]
    let nonce := s.nonceOk
    let rkey := slice b 340 96
    let sigs := Config.sha384 rkey == s.sec.dbgRoot && sigOk rkey (slice b 45 103) (slice b 148 96)
      && sigOk (slice b 52 96) (slice b 0 244) (slice b 244 96)
    let form := leNat b 47 1 == 0 && decide (1 ≤ scope ∧ scope ≤ 3) && decide (60 ≤ dur ∧ dur ≤ 86400)
    let deny := decide (leNat b 45 1 < scope) || !(leNat b 46 1).testBit s.lc || (scope == 2 && s.lc == lcFIELD)
    let s := s.nonceUse
    if !head then s.refuse SEC.page 0x48 sTOKEN
    else if !nonce then s.refuse SEC.page 0x48 sNONCE
    else if !sigs || !form then s.refuse SEC.page 0x48 sTOKEN
    else if deny then (s.refuse SEC.page 0x48 sSCOPE).irq SEC.page 2
    else (s.dbgGo (if scope = 3 then 2 else 1) scope (some (s.now + dur * tS))).set SEC.DBG_LEFT_SEC dur))

/-- DBG_LEFT reaches 0 (R437). -/
def execDbgExpiry (s : State) : Host.Outcome State Fault Refusal :=
  match s.sec.dbgEnd with
  | some t => .next (((s.advance t).set SEC.DBG_LEFT_SEC 0).dbgShut)
  | none => .next s

/-! ### Lifecycle requests (R423–R426) -/

/-- The module is ARMED or about to be. -/
def State.armedOrPend (s : State) : Bool := s.armed || s.on PWR.STAT_ARM_PEND

/-- A SEC request runs (R423, R444). -/
def State.secBusy (s : State) : Bool := s.sec.lc.isSome || s.sec.key.isSome

/-- The index of the root hash a token asks to revoke (R424). -/
def rootIdx (hrs : Nat) : Option Nat :=
  if 0x80000000 ≤ hrs ∧ hrs < 0x80000004 then some (hrs - 0x80000000) else none

/-- The state the lifecycle word of OTP gives (R422, R427). -/
def lcOfWord (w : Nat) : Nat := if w.testBit 4 then 4 else if w.testBit 2 then 2 else if w.testBit 1 then 1 else 0

/-- The path from one lifecycle state to another: whether it needs a token; none where it is not listed (R423). -/
def lcPath (f t : Nat) : Option Bool :=
  if f = t ∧ f ≠ 4 then some true
  else if f ≠ 4 ∧ t = 4 then some true
  else match f, t with
    | 0, 1 => some true
    | 0, 2 => some true
    | 1, 2 => some true
    | 2, 3 => some true
    | 3, 2 => some false
    | _, _ => none

/-- The code with which the checks of a lifecycle token end; none where it is accepted (R424). -/
def State.tokenFail (s : State) (t : Nat) : Option Nat :=
  let b := s.token
  let key := slice b 52 96
  let hrs := leNat b 48 4
  let hrsOk := if t = s.lc then (rootIdx hrs).isSome else if t = 3 then decide (1 ≤ hrs ∧ hrs ≤ 720) else hrs == 0
  if !s.tokenHead [0x43, 0x4C, 0x43, 0x54] then some sTOKEN
  else if !s.nonceOk then some sNONCE
  else if leNat b 44 1 != s.lc || leNat b 45 1 != t || leNat b 46 2 != 0 || !hrsOk
      || !s.sec.roots.any (fun r => r.1 == Config.sha384 key && !r.2)
      || !sigOk key (slice b 0 148) (slice b 148 96) then some sTOKEN
  else none

/-- SERVICE ends and FIELD resumes (R425); a change of state closes the debug port (R437). -/
def State.svcOver (s : State) : State :=
  let s := (s.modSec (fun x => { x with svcEnd := none })).set SEC.LC_STAT_SVC_LEFT 0
  ((s.set SEC.LC_STAT_LC lcFIELD).irq SEC.page 5).dbgShut.secChange

/-- An accepted lifecycle request; RETIRED burns every bit of the keys and of all 64 slots (R423, R425, R426).
[assumption 265 (DEDUCED)] -/
def State.lcStart (s : State) (t hrs : Nat) : State :=
  if t = 3 ∧ s.lc = 2 then
    let s := (s.modSec (fun x => { x with svcEnd := some (s.now + hrs * 3600 * tS) })).set SEC.LC_STAT_SVC_LEFT hrs
    ((s.set SEC.LC_STAT_LC lcSERVICE).irq SEC.page 0).dbgShut.secChange
  else if t = 2 ∧ s.lc = 3 then (s.svcOver).irq SEC.page 0
  else
    let s := (s.set SEC.LC_STAT_LC_BUSY 1).modSec (fun x => { x with lc := some (t, hrs, if t = s.lc then rootIdx hrs else none) })
    if t = 4 then
      let s := s.modSec (fun x => { x with
        kImg := BitVec.allOnes 256, kTr := BitVec.allOnes 256, slots := List.replicate 64 ⟨0xFF, true, true, BitVec.allOnes 256⟩ })
      (({ s with pairKeys := [] }.set SEC.KSTAT_USED 64).set SEC.LC_STAT_ERASED 1).logEvt SEC.page 0xFF
    else s

/-- A revoke would leave no unrevoked root hash (R429). -/
def State.lastRoot (s : State) (i : Nat) : Bool :=
  !s.sec.roots.zipIdx.any (fun (q : (BitVec 384 × Bool) × Nat) => q.2 != i && !q.1.2)

/-- LC_REQ.GO (R423). [assumption 152 (DEDUCED)] -/
def execLcReq (target : BitVec 3) (s : State) : Host.Outcome State Fault Refusal :=
  let t := target.toNat
  .next (s.judge SEC.page 0x44 [(decide (4 < t), eRANGE), (s.armedOrPend, eARMED), (s.secBusy, eBUSY),
      ((lcPath s.lc t).isNone, sLC_PATH)] (fun s =>
    if lcPath s.lc t = some false then s.lcStart t 0
    else
      let f := s.tokenFail t
      let hrs := leNat s.token 48 4
      let s := s.nonceUse
      match f with
      | some c => s.refuse SEC.page 0x44 c
      | none =>
        if t = s.lc ∧ (rootIdx hrs).any (fun i => s.lastRoot i) then s.refuse SEC.page 0x44 sLC_PATH
        else s.lcStart t hrs))

/-- CHAL_NEW.GO draws a new nonce (R424). [assumption 9 (DESIGN CHOICE)] -/
def State.newNonce (s : State) : State :=
  let (i, s) := s.free
  let r := (Config.random256 i).toNat
  (s.each (List.range 8) (fun s j => s.setReg (SEC.CHAL j) (BitVec.ofNat 32 (r >>> (32 * j))))).modSec
    (fun x => { x with used := false })

def execChalNew (s : State) : Host.Outcome State Fault Refusal :=
  .next (s.judge SEC.page 0x74 [] State.newNonce)

/-- SVC_HOURS have elapsed (R425). -/
def execServiceExpiry (s : State) : Host.Outcome State Fault Refusal :=
  match s.sec.svcEnd with
  | some t => .next (if s.lc = 3 then (s.advance t).svcOver else s)
  | none => .next s

/-! ### Keys (R427–R429) -/

/-- The slot that holds a KID. [assumption 151 (DEDUCED)] -/
def State.keySlot (s : State) (kid : Nat) : Option KeySlot := s.sec.slots.find? (fun q => q.valid && q.kid == kid)

/-- The number of slots burned. -/
def State.keysUsed (s : State) : Nat := (s.sec.slots.filter KeySlot.valid).length

/-- KPROV.GO: the record in TOKEN names the KID and holds the wrapped key (R428). A revoked KID counts as used (R429).
[assumption 150 (DEDUCED)] -/
def execKprov (_kid : BitVec 8) (s : State) : Host.Outcome State Fault Refusal :=
  let b := s.token
  let k := leNat b 12 1
  let key := Config.unwrap s.sec.kTr (slice b 16 40)
  .next (s.judge SEC.page 0x6C [(s.lc == 2 || s.lc == 4, sLC_PATH), (s.armedOrPend, eARMED), (s.secBusy, eBUSY),
      (k == 0 || !s.tokenHead [0x43, 0x4B, 0x50, 0x52] || leNat b 13 3 != 0 || key.isNone, sTOKEN),
      ((s.keySlot k).isSome, sKID_USED), (s.sec.slots.all KeySlot.valid, sOTP_FULL)] (fun s =>
    (s.modSec (fun x => { x with key := some (k, key.getD 0) })).set SEC.KSTAT_BUSY 1))

/-- The key is burned into the lowest free slot (R428). -/
def execKeyDone (s : State) : Host.Outcome State Fault Refusal :=
  match s.sec.key with
  | none => .next s
  | some (k, v) =>
    let s := s.modSec (fun x => { x with
      key := none, slots := x.slots.modify (x.slots.findIdx (fun q => !q.valid)) (fun _ => ⟨k, true, false, v⟩) })
    let s := { s with pairKeys := s.pairKeys ++ [(k, v)] }
    let s := ((s.set SEC.KSTAT_USED s.keysUsed).set SEC.KSTAT_BUSY 0).set SEC.KSTAT_LAST_KID k
    .next (s.irq SEC.page 3)

/-- KPROV with REVOKE: the slot's REVOKED bit is burned; lanes whose session opened, or is opening, with the key go
DOWN (R429, R443). [assumptions 150, 151 (DEDUCED)] -/
def execKprovRevoke (kid : BitVec 8) (s : State) : Host.Outcome State Fault Refusal :=
  let k := kid.toNat
  .next (s.judge SEC.page 0x6C [(s.lc == 4, sLC_PATH), (s.armedOrPend, eARMED), (s.secBusy, eBUSY)] (fun s =>
    if (s.keySlot k).isNone then s else
    let s := s.modSec (fun x => { x with slots := x.slots.map (fun q => if q.valid && q.kid == k then { q with revoked := true } else q) })
    let s := { s with pairKeys := s.pairKeys.filter (fun q => q.1 != k) }.set SEC.KSTAT_LAST_KID k
    s.each ((List.range 48).filter (fun n => (s.ln n == lnKEY || s.ln n == lnCONFIG || s.ln n == lnUP)
      && s.get (LANE.PEER2_KID n) == k)) (fun s n => s.lnDown n dcKEY)))

/-! ### Rollback and the bench interlock (R433, R439, R441) -/

def execRbAdv (v : BitVec 7) (s : State) : Host.Outcome State Fault Refusal :=
  .next (s.judge SEC.page 0x68 [(decide (v.toNat < s.get SEC.RB_MIN ∨ s.sec.runRb < v.toNat), sRB_RANGE)] (fun s =>
    s.set SEC.RB_MIN v.toNat))

/-- The strap reads asserted after 10 ms low, or released after 10 µs high (R439, R511). -/
def State.benchIl (s : State) (b : Bool) : State :=
  ({ s with straps := { s.straps with benchIl := b } }.setB SEC.LC_STAT_BENCH_IL b).secChange

def execBenchIlAssert (s : State) : Host.Outcome State Fault Refusal := .next (s.benchIl true)
def execBenchIlRelease (s : State) : Host.Outcome State Fault Refusal := .next (s.benchIl false)

end Sys2Proof.Machine
end

