-- ==== Sys2Proof/Machine/Power.lean ====
section
/-! DEFINITION. Clock domains, PLLs, power states and the power stage (R400–R421). -/

namespace Sys2Proof.Machine

abbrev pNO_WAKE : Nat := 0x41
abbrev pNOT_RUN : Nat := 0x42
abbrev pCLOCK : Nat := 0x45
abbrev pVIN : Nat := 0x46
abbrev pAON_CLK : Nat := 0x48

abbrev psRUN : Nat := 0
abbrev psHOLD : Nat := 1
abbrev psDOZE : Nat := 2
abbrev psSLEEP : Nat := 3
abbrev psOFF : Nat := 4

def State.ps (s : State) : Nat := s.get PWR.STAT_STATE

/-! ### Gating (R401) -/

/-- The domains CLK.GATE can stop (R400). -/
abbrev gateable : List Nat := [7, 9, 10, 11, 14, 15]

/-- A page clocked by a domain has its enable set: the pages on which CTRL.EN has a use (R482), and LANE_EN for the
Trestle lanes. [assumption 156 (DEDUCED)] -/
def State.domUsed (s : State) (d : Nat) : Bool :=
  match d with
  | 7 => (List.range 8).any (fun p => s.on (HDR.CTRL_EN (0x40401000 + 0x1000 * p)))
  | 9 => s.get TRL.CFG_LANE_EN != 0
  | 10 => s.ethOn 0 || s.ethOn 1
  | 11 => [0, 1, 2, 3].any s.canOn
  | 15 => (List.range 12).any (fun k => s.on (HDR.CTRL_EN (0x40300000 + 0x1000 * k)))
  | _ => false

/-- The output of a PLL that clocks a domain, as page and output number (R400, R403). -/
def domOut (d : Nat) : Option (Nat × Nat) :=
  match d with
  | 3 => some (0, 0) | 4 => some (0, 1) | 5 => some (0, 2) | 6 => some (1, 0) | 7 => some (1, 1)
  | 10 => some (2, 0) | 11 => some (2, 1) | 12 => some (2, 2) | 13 => some (0, 3) | 15 => some (1, 2)
  | _ => none

/-- A domain has its clock: its PLL is enabled and not searching, with the output on; DBG, SRDT and ISL once they are used
(R404, R417). [assumption 155 (DESIGN CHOICE)] -/
def State.domRuns (s : State) (d : Nat) : Bool :=
  (match domOut d with
    | some (n, k) => s.on (PLL.PCFG_EN n) && !s.on (PLL.PSTAT_SEARCH n) && s.on (PLL.OUT_EN n k)
    | none => true)
  && (match d with | 9 => s.domUsed 9 | 14 => s.sec.dbgUsed | 15 => s.domUsed 15 | _ => true)

/-- A domain stops, or runs again; clocks counted in it stand still meanwhile (R401). -/
def State.gateSet (s : State) (d : Nat) (b : Bool) : State :=
  let m := s.get CLK.GATE_GATE
  if b then
    let s := s.iff (d == 10) (fun s => s.each [0, 1] (fun s p => s.modEth p (fun x => x.halt (s.ethTime s.now))))
    (s.set CLK.GATE_GATE (m ||| 1 <<< d)).modPwr (fun x => { x with gateAt := SMap.ins x.gateAt d s.now })
  else
    let dur := s.now - (SMap.look s.pwr.gateAt d).getD s.now
    let s := (s.set CLK.GATE_GATE (m &&& (0xFFFF ^^^ 1 <<< d))).modPwr (fun x => { x with gateAt := SMap.del x.gateAt d })
    let s := s.iff (d == 11) (fun s => s.each [0, 1, 2, 3] (fun s c => s.modCan c (fun x => { x with tscAt := x.tscAt + dur })))
    s.iff (d == 10) (fun s => s.each [0, 1] (fun s p => s.modEth p (fun x => x.resume (s.ethTime s.now))))

/-- A write to CLK.GATE, each bit judged on its own (R401, R519). -/
def execClkGateWrite (val : Word) (s : State) : Host.Outcome State Fault Refusal :=
  .next (s.judge CLK.page 0x44 [] (fun s =>
    s.each ((List.range 16).filter (fun d => (s.get CLK.GATE_GATE).testBit d != val.getLsbD d)) (fun s d =>
      if !gateable.contains d then s.refuse CLK.page 0x44 eRANGE
      else if val.getLsbD d && s.domUsed d then s.refuse CLK.page 0x44 eSTATE
      else s.gateSet d (val.getLsbD d))))

/-! ### Monitors and PLLs (R402–R405) -/

/-- An unlock of PLL-SYS or PLL-AUX: the stage disarms, then a warm reset (R405, R466). -/
def State.sysUnlock (s : State) : State := (s.disarm disCLOCK).warmAsk 2

/-- The RC monitor, every 10 µs (R402). -/
def execClockMonitor (fail : BitVec 16) (s : State) : Host.Outcome State Fault Refusal :=
  let ds := [3, 4, 5, 6, 7, 12, 13].filter (fun d => fail.toNat.testBit d && !(s.get CLK.GATE_GATE).testBit d)
  if ds.isEmpty ∨ s.ps = psSLEEP ∨ s.ps = psOFF then .next s
  else
    let s := (s.set CLK.MON_FAIL (s.get CLK.MON_FAIL ||| maskOf ds)).irq CLK.page 1
    let s := s.iff (ds.contains 6) (fun s => s.clockStop)
    .next (s.iff (ds.any (· != 6)) State.sysUnlock)

/-- The AON crystal is out of tolerance for 1 s while the module is in RUN (R402). [assumption 161 (DEDUCED)] -/
def execXtFail (s : State) : Host.Outcome State Fault Refusal :=
  if s.ps ≠ psRUN then .next s else .next ((s.set CLK.MON_XT_FAIL 1).irq CLK.page 2)

/-- A PLL declares LOCKED (R404); with PLL-PWM the halt of its clock ends (R138). -/
def execPllLocked (n : Fin 3) (band : BitVec 6) (s : State) : Host.Outcome State Fault Refusal :=
  if !s.on (PLL.PCFG_EN n) || s.on (PLL.PSTAT_LOCKED n) then .next s
  else
    let s := ((s.set (PLL.PSTAT_LOCKED n) 1).set (PLL.PSTAT_SEARCH n) 0).set (PLL.PSTAT_BAND n) band.toNat
    let s := s.irq (PLL.page n) 1
    .next (s.iff (n.val == 1) (fun s => s.haltOver 3))

/-- A PLL loses lock and searches again (R405). -/
def execPllLol (n : Fin 3) (s : State) : Host.Outcome State Fault Refusal :=
  if !s.on (PLL.PSTAT_LOCKED n) then .next s
  else
    let s := ((s.set (PLL.PSTAT_LOCKED n) 0).set (PLL.PSTAT_SEARCH n) 1).bump (PLL.PSTAT_LOL_CNT n)
    let s := (s.irq (PLL.page n) 0).irq CLK.page 0
    .next (if n.val = 1 then s.clockStop else s.sysUnlock)

/-- A write to PCFG (R403, R405). -/
def State.pcfgWritePll (s : State) (n : Nat) (val : Word) : State :=
  let pg := PLL.page n
  let en := s.willBe pg true (PLL.PCFG_EN n) val == 1
  let was := s.on (PLL.PCFG_EN n)
  let rd := getBits val 1 6
  let mi := getBits val 8 10
  s.judge pg 0x40 [(decide (rd < 1 ∨ mi < 16), eRANGE), (was && !en && (n != 1 || s.armed), eSTATE)] (fun s =>
    let s := s.take .pll pg 0x40 val
    if was && !en then ((s.set (PLL.PSTAT_LOCKED n) 0).set (PLL.PSTAT_SEARCH n) 0).clockStop
    else if !was && en then s.set (PLL.PSTAT_SEARCH n) 1 else s)

/-- A write to PFRAC has no effect on PLL-PWM while TBS disciplines it (R404). -/
def State.pfracWrite (s : State) (n : Nat) (val : Word) : State :=
  s.judge (PLL.page n) 0x44 [] (fun s => if n = 1 ∧ s.on MOD.TB_STAT_DISC then s else s.take .pll (PLL.page n) 0x44 val)

/-- A write to an output: an unlisted one cannot be enabled (R403). -/
def State.pllOutWrite (s : State) (n k : Nat) (val : Word) : State :=
  s.judge (PLL.page n) (0x60 + 4 * k) [(getBits val 0 8 == 0 || (val.getLsbD 14 && !pllOutUsed n k), eRANGE)] (fun s =>
    s.take .pll (PLL.page n) (0x60 + 4 * k) val)

/-! ### SLEEP (R409–R412) -/

/-- Steps 2 to 4 of the entry: log records written, safety outputs off and cores stopped, lanes off, the OWN line
released (R409). [assumption 158 (DEDUCED)] -/
def State.slpStep4 (s : State) : State :=
  let s := (s.logFlush).modPwr (fun x => { x with slp4 := true })
  let s := ((s.soSet 0 0).set SAF.STAT_RUN 0).set SAF.STAT_ARM_OK 0
  let s := s.modSaf (fun x => { x with stopped := true })
  let s := s.each ((List.range 48).filter (fun n => s.ln n != lnOFF)) (fun s n =>
    let up := s.ln n == lnUP
    (((s.lnEnd n).lnUnlock n).iff up (fun s => s.lnLeft n true)).lnGo n lnOFF)
  let s := s.each ((List.range 8).filter (fun k => s.tl k != tlOFF)) (fun s k => s.tlDown k 4)
  let s := s.each [0, 1] (fun s p => (s.modEth p (fun x => { x with tx := none })).set (ETH.LINK_LINK p) 0)
  s.ownRelease 4

/-- The memories SLEEP does not retain are lost; AON-RAM stays (R409). [assumption 174 (DESIGN CHOICE)] -/
def State.memLost (s : State) (aon : Bool) : State :=
  { s with
    mem := if aon then s.mem.filter (fun q => 0x28000000 ≤ q.1 && q.1 < 0x28080000) else [],
    poison := if aon then s.poison.filter (fun q => wordKey 17 0 ≤ q.1 && q.1 < wordKey 18 0) else [],
    memx := { s.memx with raw := [] } }

/-- The shutdown is recorded and logged (R463). [assumption 181 (DEDUCED)] -/
def State.tsdRecord (s : State) (t : Int) (sensor : Nat) : State :=
  let s := (s.setS THM.TSD_REC0_T t).set THM.TSD_REC0_SENSOR sensor
  let s := (s.set THM.TSD_REC1_SEC ((s.stAt s.now).toNat / tS)).set THM.TSD_REC2_PIDX s.pidx
  ((s.bump THM.TSD_CNT_CNT).logEvt THM.page 0xFF).modMem (fun x => { x with shut := true, cool := 0, hot := 0, tsdPend := none })

/-- Step 5: PLLs stopped, debug closed, SLP_CNT; a DMA transfer that has not finished by then stops (R409).
A shutdown registered during the entry acts from here (R416, R464). [assumptions 158, 180 (DEDUCED)] -/
def State.slpStep5 (s : State) : State :=
  let s := s.each [0, 1, 2] (fun s n => (s.set (PLL.PSTAT_LOCKED n) 0).set (PLL.PSTAT_SEARCH n) 0)
  let s := (s.set MOD.TB_STAT_LOCK 0).set MOD.TB_STAT_DISC 0
  let s := s.each s.dmaN (fun s n => s.set (DMA.CH_CFG_GO n) 0)
  let s := ((({ s with dmaN := [] } : State).dbgShut).modSec (fun x => { x with dbgUsed := false })).memLost true
  let s := ((s.set PWR.STAT_STATE psSLEEP).bump AON.SLP_CNT_CNT).modPwr (fun x => { x with slp := none, slp4 := false })
  match s.memx.tsdPend with
  | some q => s.tsdRecord q.1 q.2
  | none => s

/-- The entry under way proceeds as the time passes: step 4 at 0.7 ms, step 5 at 1.0 ms. [assumption 159 (DEDUCED)] -/
def State.slpGo (s : State) : State :=
  match s.pwr.slp with
  | none => s
  | some t =>
    let s := s.iff (decide (t + 700 * tUs ≤ s.now) && !s.pwr.slp4) State.slpStep4
    s.iff (decide (t + tMs ≤ s.now)) State.slpStep5

/-- The wake sequence completes (R412); boundaries fall again on the grid of R16. [assumption 160 (DEDUCED)] -/
def execWakeDone (t : Nat) (s : State) : Host.Outcome State Fault Refusal :=
  if !s.pwr.waking then .next s
  else
    let s := { s with bndAt := s.gridFloor, window := 0 }
    .next (((s.modPwr (fun x => { x with waking := false })).set PWR.WAKE_LAT_T (min t 65535)).irq PWR.page 4)

/-! ### The power commands (R407, R408) -/

/-- The module leaves RUN or HOLD: an ARMED stage disarms with cause STATE (R414). -/
def State.pwrLeave (s : State) (st : Nat) : State :=
  let left := s.ps
  ((s.disarm disSTATE).set PWR.STAT_STATE st).modPwr (fun x => { x with left := left })

/-- A command from RUN or HOLD; to the present state it has no effect, and DOZE and SLEEP end only by a wake (R407).
[assumption 157 (DEDUCED)] -/
def State.pwrCmd (s : State) (op : Nat) (conds : List (Bool × Nat)) (k : State → State) : State :=
  if s.ps + 1 = op then s else s.judge PWR.page 0x40 ((decide (1 < s.ps), eSTATE) :: conds) k

def State.pwrRun (s : State) : State := s.pwrCmd 1 [] (fun s => s.set PWR.STAT_STATE psRUN)
def State.pwrHold (s : State) : State :=
  s.pwrCmd 2 [] (fun s => (s.disarm disSTATE).set PWR.STAT_STATE psHOLD)
/-- DOZE: with an interrupt pending it enters and leaves at once; else it commits at the next close of the loop-engine
window (R408). -/
def State.pwrDoze (s : State) : State :=
  s.pwrCmd 3 [(s.armed, eARMED)] (fun s =>
    if s.intPending then (s.disarm disSTATE).irq PWR.page 4 else s.modPwr (fun x => { x with doze := true }))
/-- The loop engines stop where they are, at the commit of SLEEP (R409). -/
def State.leHalt (s : State) : State :=
  s.each (List.range 16) (fun s e => s.setEng e { s.eng e with run := none, todo := [] })
def State.pwrSleep (s : State) : State :=
  s.pwrCmd 4 [(s.armed, eARMED), (s.reg AON.WAKE_EN &&& 0xFF7F == 0, pNO_WAKE), (s.on CLK.MON_XT_FAIL, pAON_CLK)] (fun s =>
    let s := (s.disarm disSTATE).leHalt
    s.modPwr (fun x => { x with left := s.ps, slp := some s.now, slp4 := false }))
/-- OFF: the OWN line is released with cause RESET, and everything but the RTC and the lock-out latch stops (R329, R406). -/
def State.pwrOff (s : State) : State :=
  s.pwrCmd 5 [(s.armed, eARMED)] (fun s =>
    let s := (((s.disarm disSTATE).ownRelease 1).slpStep4).slpStep5
    ((s.memLost false).set PWR.STAT_STATE psOFF).set AON.SLP_CNT_CNT (s.get AON.SLP_CNT_CNT - 1))

def execPwrCmdRun (s : State) : Host.Outcome State Fault Refusal := .next s.pwrRun
def execPwrCmdHold (s : State) : Host.Outcome State Fault Refusal := .next s.pwrHold
def execPwrCmdDoze (s : State) : Host.Outcome State Fault Refusal := .next s.pwrDoze
def execPwrCmdSleep (s : State) : Host.Outcome State Fault Refusal := .next s.pwrSleep
def execPwrCmdOff (s : State) : Host.Outcome State Fault Refusal := .next s.pwrOff

/-- A write to PWR.CMD. -/
def State.pwrCmdWrite (s : State) (val : Word) : State :=
  match getBits val 0 3 with
  | 1 => s.pwrRun
  | 2 => s.pwrHold
  | 3 => s.pwrDoze
  | 4 => s.pwrSleep
  | 5 => s.pwrOff
  | _ => s.judge PWR.page 0x40 [(true, eRANGE)] id

/-- A DOZE command commits at the close of the loop-engine window; with an interrupt pending it enters and leaves at
once (R408). -/
def State.dozeCommit (s : State) : State :=
  if !s.pwr.doze then s
  else
    let s := s.modPwr (fun x => { x with doze := false })
    if s.intPending then (s.disarm disSTATE).irq PWR.page 4 else s.pwrLeave psDOZE

/-- An enabled interrupt wakes the module (R408). -/
def execDozeWake (s : State) : Host.Outcome State Fault Refusal :=
  if s.ps = psDOZE ∧ s.intPending then .next ((s.set PWR.STAT_STATE s.pwr.left).irq PWR.page 4) else .next s

/-! ### The power stage (R413–R415) -/

/-- The conditions under which ARM is refused, in order (R413). [assumption 158 (DEDUCED)] -/
def State.armConds (s : State) : List (Bool × Nat) :=
  [(s.ps != psRUN || s.pwr.slp.isSome, pNOT_RUN), (!s.on SAF.STAT_ARM_OK, pSAFETY), (!s.armPermit, pLIFECYCLE),
   (!s.on MOD.TB_STAT_LOCK || !s.on MOD.TB_STAT_CAL_OK || !([0, 1, 2].all (fun n => s.on (PLL.PSTAT_LOCKED n))), pCLOCK),
   (s.on PWR.STAT_VIN_LOW, pVIN), (s.perPend.isSome, eSTATE)]

/-- ARM with the key (R413). -/
def execArm (key : BitVec 8) (s : State) : Host.Outcome State Fault Refusal :=
  if key = 0xA5 ∧ (s.armed ∨ s.on PWR.STAT_ARM_PEND) then .next s
  else .next (s.judge PWR.page 0x48 ((key != 0xA5, eKEY) :: s.armConds) (fun s =>
    (s.set PWR.STAT_ARM_PEND 1).modPwr (fun x => { x with armAt := some (s.now / tBus) })))

/-- DISARM with the key (R414). -/
def execDisarm (key : BitVec 8) (s : State) : Host.Outcome State Fault Refusal :=
  .next (s.judge PWR.page 0x48 [(key != 0xA5, eKEY)] (fun s => s.disarm disCMD))

/-- The cause DIS_CAUSE records for a condition (R413, R414). -/
def armCause (c : Nat) : Nat :=
  if c = pNOT_RUN then disSTATE else if c = pSAFETY then disSAFETY else if c = pLIFECYCLE then disLIFECYCLE
  else if c = pCLOCK then disCLOCK else if c = pVIN then disVIN else disSTATE

/-- At the first boundary after an accepted ARM the stage becomes ARMED, unless a condition has arisen (R413). -/
def State.armEffect (s : State) : State :=
  if !s.on PWR.STAT_ARM_PEND then s
  else match s.armConds.find? (fun c => c.1) with
    | some c => ((s.set PWR.STAT_ARM_PEND 0).set PWR.STAT_DIS_CAUSE (armCause c.2)).irq PWR.page 2
    | none => ((((s.set PWR.STAT_ARM_PEND 0).set PWR.STAT_ARMED 1).irq PWR.page 0).frzLapse).refreshLegs

/-- VIN every 100 µs (R415). [assumptions 162, 230 (DEDUCED)] -/
def execVinSample (v : BitVec 16) (s : State) : Host.Outcome State Fault Refusal :=
  let w := s.get PWR.VIN_VIN_WARN
  let s := s.set PWR.VIN_V v.toNat
  .next (if v.toNat < w then
      if s.on PWR.STAT_VIN_LOW then s else (((s.set PWR.STAT_VIN_LOW 1).irq PWR.page 3).disarm disVIN)
    else if w + 50 ≤ v.toNat then s.set PWR.STAT_VIN_LOW 0 else s)

/-! ### The real-time clock (R421) -/

/-- RTC_SEC and RTC_SUB at the present. [assumption 163 (DEDUCED)] -/
def State.rtcNow (s : State) : Nat × Nat :=
  let d := s.now - s.pwr.rtcAt
  ((s.get AON.RTC_SEC_SEC + d / tS) % 2 ^ 32, d % tS * 32768 / tS)

/-- A write to RTC_SEC restarts the sub-second count. -/
def State.rtcWrite (s : State) (val : Word) : State :=
  s.judge AON.page 0x48 [] (fun s => (s.setReg AON.RTC_SEC val).modPwr (fun x => { x with rtcAt := s.now }))

/-- The RTC second comes to equal RTC_ALM, in SLEEP too, where the RTC runs and the page is retained; once that second is
over it does not. [assumption 163 (DEDUCED)] -/
def execRtcAlarm (s : State) : Host.Outcome State Fault Refusal :=
  let a := s.get AON.RTC_ALM_ALM
  let due := s.pwr.rtcAt + (a + 2 ^ 32 - s.get AON.RTC_SEC_SEC) % 2 ^ 32 * tS
  if a = 0 ∨ s.ps = psOFF ∨ due + tS ≤ s.now then .next s
  else .next ((s.advance due).irq AON.page 0)

end Sys2Proof.Machine
end

