-- ==== Sys2Proof/Machine/Settle.lean ====
section
/-! DEFINITION. The Settle pair: the OWN interlock, Settle states, mirroring, takeover, return and handover (R325–R338,
R341). -/

namespace Sys2Proof.Machine

abbrev stSTATE : Nat := 0x40
abbrev stBUDGET : Nat := 0x41
abbrev stPARTNER : Nat := 0x42
abbrev stMLANE : Nat := 0x43

/-- What STL keeps, changed. -/
def State.modStl (s : State) (f : StlSt → StlSt) : State := { s with stl := f s.stl }

def State.stlSt (s : State) : Nat := s.get STL.STAT_STATE
def State.stlGo (s : State) (st : Nat) : State := s.set STL.STAT_STATE st

/-- The module enters STANDBY (R332, R341). -/
def State.stlStandby (s : State) : State := (s.stlGo stlSTANDBY).irq STL.page 2

/-- Lane MLANE is UP to module PARTNER (R326). -/
def State.mlaneUp (s : State) : Bool :=
  let k := s.get STL.CFG_MLANE
  s.tl k == tlUP && s.get (TRL.LN_STAT_PEER_ADDR k) == s.get STL.CFG_PARTNER

/-- The partner's latest message on MLANE. -/
def State.partnerMsg (s : State) : Option NbrMsg := if s.mlaneUp then s.nbrOf (s.get STL.CFG_MLANE) else none

/-- The partner is in one of the Settle states `l`. -/
def State.partnerIn (s : State) (l : List Nat) : Bool :=
  match s.partnerMsg with
  | some m => m.stlEn && l.contains m.stlState
  | none => false

/-- The enabled entries of the mirror list, in order. -/
def State.mlist (s : State) : List Nat := (List.range 64).filter (fun e => s.on (STL.MLIST_EN e))

/-- The context an entry names. -/
def State.mlCtx (s : State) (e : Nat) : Nat := 16 * s.get (STL.MLIST_ENG e) + s.get (STL.MLIST_CTX e)

/-- USED of the mirror list (R330). -/
def State.mlUsed (s : State) : Nat :=
  s.mlist.foldl (fun n e => n + s.get (STL.MLIST_S_CNT e) + 16 * s.get (STL.MLIST_OUTS e)) 256

/-! ### The OWN interlock (R327, R328) -/

/-- A claim begins: the line is asserted at once (R332, R333). [assumption 117 (DEDUCED)] -/
def State.claimBegin (s : State) (cold : Bool) (cover : Nat) : State :=
  (s.ownAssert).modStl (fun x => { x with claim := some (s.now, cold, cover) })

/-- The partner's line reads released (R328, R332, R333). -/
def State.partnerRelease (s : State) : State :=
  let s := (s.set STL.STAT_PARTNER_HELD 0).modStl (fun x => { x with relSince := some (x.relSince.getD s.now) })
  let late := decide (s.window = 4 ∧ s.stl.told ≠ 4)
  let cover := if late then s.pidx + 1 else s.pidx
  let s := s.modStl (fun x => { x with late := late })
  if s.stlSt == stlOFF then s.ownAssert
  else if s.stlSt == stlSTANDBY || s.stlSt == stlRETURN then s.claimBegin false cover
  else if s.stlSt != stlACTIVE && s.on STL.CFG_PREF then s.claimBegin true cover
  else s

/-- The partner is seen on MLANE: PREF must differ; with the partner's line asserted the module waits for its sets (R326,
R332). -/
def State.partnerSeen (s : State) : State :=
  match s.partnerMsg with
  | some m =>
    if s.stlSt != stlALONE || !m.stlEn then s
    else if m.stlPref == s.on STL.CFG_PREF then s.irq STL.page 9
    else if s.on STL.STAT_PARTNER_HELD then s.stlGo stlSYNCING else s
  | none => s

/-- The partner's line asserts: DRIVE falls; within 200 ns of the own assertion the module with PREF = 0 releases (R327,
R328). -/
def State.partnerAssert (s : State) : State :=
  let s := ((s.set STL.STAT_PARTNER_HELD 1).driveDrop).modStl (fun x =>
    { x with relSince := none, gave := false, agreed := none })
  let race := s.on STL.STAT_OWN_HELD && decide (s.now ≤ s.stl.ownAt + 200 * tNs)
  let s := s.iff race (fun s => s.irq STL.page 5)
  let s := s.iff (race && !s.on STL.CFG_PREF) (fun s => s.ownRelease 0)
  s.partnerSeen

/-- The module holds DRIVE once its partner's line has read released for 100 ns and, in a claim, 200 ns have passed since
it asserted; with STL disabled it asserts by itself (R327, R328, R333). -/
def State.driveAcquire (s : State) : State :=
  let s := s.iff (!s.on STL.CFG_EN) (fun s => s.ownAssert)
  match s.stl.relSince with
  | some r =>
    if s.on STL.STAT_OWN_HELD && !s.on STL.STAT_PARTNER_HELD && !s.on STL.STAT_DRIVE then
      let t := r + 100 * tNs
      let t := if s.stl.claim.isSome then max t (s.stl.ownAt + 200 * tNs) else t
      (s.advance t).set STL.STAT_DRIVE 1
    else s
  | none => s

/-! ### Releases (R329, R336, R337) -/

/-- The line is released for cause 4 to 7; for CMD and RETURN the module goes to STANDBY and may claim again (R336,
R337). -/
def State.stlRelease (s : State) (cause : Nat) : State :=
  if !s.on STL.STAT_OWN_HELD then s.modStl (fun x => { x with rel := none })
  else
    let act := s.stlSt == stlACTIVE
    let s := (s.ownRelease cause).modStl (fun x => { x with rel := none, keepN := 0, gave := act && decide (6 ≤ cause) })
    if act && decide (6 ≤ cause) then s.stlStandby else s

/-- The close of the downlink window: a release that is due, and SCHED_STOP where no schedule completed on any UP lane of
the bank that this module drives (R329, R333). [assumption 112 (DEDUCED)] -/
def State.stlDlClose (s : State) (anyDone : Bool) : State :=
  let stop := fun (s : State) =>
    if s.on STL.STAT_DRIVE && (!s.on STL.CFG_EN || s.stlSt == stlACTIVE) && !anyDone && (List.range 48).any (fun n => s.ln n == lnUP) then s.stlRelease 4 else s
  match s.stl.rel with
  | some (c, p) => if p ≤ s.pidx then s.stlRelease c else stop s
  | none => stop s

/-! ### Mirroring (R330, R331) -/

/-- The mirror set of this period (R330). -/
def State.mirrorSet (s : State) : MirrorSet :=
  { pidx := s.pidx
    ctxs := s.mlist.map (fun e =>
      let c := s.mlCtx e
      ((List.range (s.get (STL.MLIST_S_CNT e))).map (fun i => s.mword (leS c (s.get (STL.MLIST_S_FIRST e) + i))),
       if s.on (STL.MLIST_OUTS e) then (List.range 16).map (fun i => s.mword (leO c i)) else []))
    cells := (List.range 48).map (fun n =>
      let c := s.cell n
      { st := s.cst n, rank := s.get (GRN.RANK_RANK (n / 4) (n % 4)), role := c.role, dwell := c.dwell, trimOn := c.trimOn,
        ovlAbove := c.ovlAbove, ovlBelow := c.ovlBelow, ovlLimited := c.ovlLimited, phiPrev := (s.dsv n).phiPrev })
    stks := (List.range 8).map (fun k => (s.stkState k, (s.stack k).gapLo, (s.stack k).gapHi))
    flags := maskOf ((List.range 16).filter (fun i => s.on (flagFld i)))
    latches := maskOf ((List.range 16).filter (fun i => s.on (latchFld i)))
    firstSrc := s.get TRP.FIRST_SRC
    firstPidx := s.get TRP.FIRST_PIDX
    crcs := s.mlist.map (fun e => s.reg (LEX.CTX_CRC (s.mlCtx e / 16) (s.mlCtx e % 16)))
    lanes := maskOf ((List.range 48).filter (fun n => s.ln n == lnUP)) }

/-- The ACTIVE module sends one set per period to a partner in SYNCING, STANDBY or RETURN (R330). -/
def State.mirrorSend (s : State) : State :=
  if s.stlSt == stlACTIVE && !s.nbrOnly && s.partnerIn [stlSYNCING, stlSTANDBY, stlRETURN] then
    s.modStl (fun x => { x with sent := some s.mirrorSet })
  else s

/-- A complete set is written into the records all together (R331). -/
def State.mirrorApply (s : State) (m : MirrorSet) : State :=
  let s := s.each (s.mlist.zip m.ctxs) (fun s (q : Nat × (List Word × List Word)) =>
    let c := s.mlCtx q.1
    let s := s.each ((List.range (s.get (STL.MLIST_S_CNT q.1))).zip q.2.1) (fun s (w : Nat × Word) =>
      s.setMword (leS c ((s.get (STL.MLIST_S_FIRST q.1) + w.1) % 64)) w.2)
    if s.on (STL.MLIST_OUTS q.1) then
      s.each ((List.range 16).zip q.2.2) (fun s (w : Nat × Word) => s.setMword (leO c w.1) w.2) else s)
  let s := s.each ((List.range 48).zip m.cells) (fun s (q : Nat × MirCell) =>
    let n := q.1
    let c := q.2
    let s := ((s.setCst n (c.st % 8)).set (GRN.RANK_RANK (n / 4) (n % 4)) c.rank).modCell n (fun x =>
      { x with role := c.role, dwell := c.dwell, trimOn := c.trimOn, ovlAbove := c.ovlAbove, ovlBelow := c.ovlBelow,
               ovlLimited := c.ovlLimited })
    s.setDsv n { s.dsv n with phiPrev := c.phiPrev })
  s.each ((List.range 8).zip m.stks) (fun s (q : Nat × (Nat × Nat × Nat)) =>
    (s.set (GRN.STK_STAT_STATE q.1) (q.2.1 % 5)).setStack q.1 { s.stack q.1 with gapLo := q.2.2.1, gapHi := q.2.2.2 })

/-- The listed contexts' program CRCs are the partner's (R332, R336). -/
def State.crcsOk (s : State) (m : MirrorSet) : Bool :=
  s.mlist.map (fun e => s.reg (LEX.CTX_CRC (s.mlCtx e / 16) (s.mlCtx e % 16))) == m.crcs

/-- A mirror set arrives: complete before the close of the uplink window of the next period it is applied, else it is
discarded, and counted where that close has not counted it as missing; the first one with equal CRCs brings an ARMED module to STANDBY (R331, R332).
[assumption 120 (DEDUCED)] -/
def State.mirrorRx (s : State) (m : MirrorSet) : State :=
  if !s.on STL.CFG_EN || !s.mlaneUp || s.nbrOnly || !(decide (s.stlSt ∈ [stlSYNCING, stlSTANDBY, stlRETURN])) then s
  else if m.pidx == s.pidx || (m.pidx + 1 == s.pidx && s.window == 0) then
    let s := (s.mirrorApply m).modStl (fun x => { x with last := some m, lastAt := s.now, lastIdx := some m.pidx, got := true, miss := 0 })
    let s := s.set STL.STAT_SET_AGE (min 255 (s.pidx - m.pidx))
    if s.stlSt == stlSYNCING && s.armed && s.crcsOk m then s.stlStandby else s
  else s.iff (!s.on STL.STAT_PARTNER_HELD) (fun s => s.bump STL.MISS_CNT_CNT)

/-- The close of the uplink window: a set that has not completed is missed (R331). [assumption 120 (DEDUCED)] -/
def State.stlUplClose (s : State) : State :=
  if s.on STL.CFG_EN && decide (s.stlSt ∈ [stlSYNCING, stlSTANDBY, stlRETURN]) && s.on STL.STAT_PARTNER_HELD then
    if s.stl.got then s.modStl (fun x => { x with got := false })
    else (s.bump STL.MISS_CNT_CNT).modStl (fun x => { x with miss := x.miss + 1 })
  else s

/-! ### Takeover (R332–R335) -/

/-- The mirrored trip flags and latches act on this module's cells; FIRST is copied where none of its own is set
(R334). [assumption 120 (DEDUCED)] -/
def State.mirrorTrips (s : State) (m : MirrorSet) : State :=
  let own := s.latches.isEmpty
  let s := s.each (bitsOf 16 m.flags) (fun s i => s.set (flagFld i) 1)
  let s := s.each (bitsOf 16 m.latches) (fun s i =>
    let cells := if i < 8 then (if s.on TRP.CFG_GROUPS then (s.groupOuts (s.gmap i)).2.2 else allCells)
      else if i ∈ [11, 12] then 0 else allCells
    { (s.set (latchFld i) 1) with latches := s.latches ++ [(⟨i, 0, 0, cells⟩ : Latch)] })
  let s := s.iff (own && m.latches != 0) (fun s => (s.set TRP.FIRST_SRC m.firstSrc).set TRP.FIRST_PIDX m.firstPidx)
  s.outStat

/-- Contexts that Settle held are held no longer (R332, R334). -/
def State.stlUnhold (s : State) : State :=
  s.each (List.range 256) (fun s c =>
    let e := c / 16
    let k := c % 16
    if s.ctxEn c then
      let held := s.on (HDR.CTRL_HOLD (LEX.page e)) || (s.get (LEX.CTX_HOLD_HOLD e)).testBit k
      if (s.lectx c).held != held then (s.modLectx c (fun x => { x with held := held })).setB (LEX.CTX_STAT_HELD e k) held
      else s
    else s)

/-- Both modules of the pair, or neither, have PREF set (R326). [assumption 117 (DEDUCED)] -/
def State.prefClash (s : State) : Bool :=
  match s.partnerMsg with
  | some m => m.stlEn && m.stlPref == s.on STL.CFG_PREF
  | none => false

/-- UNPROT: ACTIVE with no partner in STANDBY or RETURN (R341). -/
def State.unprot (s : State) : State :=
  s.setB STL.STAT_UNPROT (s.stlSt == stlACTIVE && !s.partnerIn [stlSTANDBY, stlRETURN])

/-- At the first boundary at least 400 ns after the release was seen, with DRIVE held, the module becomes ACTIVE: from
the last applied set, or cold; modules whose PREF do not differ stay in ALONE (R326, R332–R335).
[assumptions 116, 120 (DEDUCED)] -/
def State.settleActivate (s : State) : State :=
  match s.stl.claim with
  | some (t, cold, cover) =>
    if s.on STL.CFG_EN && s.on STL.STAT_DRIVE && decide (t + 400 * tNs ≤ s.bndAt) && !(cold && s.prefClash) then
      let told := s.stl.told
      let s := (s.stlGo stlACTIVE).modStl (fun x => { x with claim := none, told := 0, keepN := 0, agreed := none, holdEnd := none })
      let s := (s.set STL.RET_RET_OK 0).set STL.RET_HOLD_LEFT 0
      let s := ((s.set STL.SWO_CAUSE (if cold then 8 else told)).set STL.SWO_GAP (min 3 (s.pidx - cover))).set STL.SWO_PIDX s.pidx
      let s := s.iff (!cold) (fun s => s.irq STL.page 0)
      let s := if cold then
          s.each ((List.range 8).filter (fun k => s.on (GRN.STK_CFG_EN k))) (fun s k =>
            (s.set (GRN.STK_STAT_STATE k) skIDLE).setStack k { s.stack k with entered := false, cmd := 0 })
        else match s.stl.last with
          | some m => s.mirrorTrips m
          | none => s
      let s := s.modStl (fun x => { x with last := none })
      let s := s.each (List.range 48) (fun s n => s.modLane n (fun l => { l with aseqOk := false }))
      s.stlUnhold.unprot
    else s
  | none => s

/-! ### Return and planned handover (R336, R337) -/

/-- The failing return checks, in the order of R336. -/
def State.retChecks (s : State) : Nat :=
  let prog := match s.stl.last with | some m => s.crcsOk m | none => false
  let lanes := match s.stl.last with
    | some m => (bitsOf 48 m.lanes).all (fun n => s.ln n == lnUP && (s.capc n).testBit 3)
    | none => false
  let ok := [prog, !s.on STL.STAT_CFG_DIFF, lanes, s.on MOD.TB_STAT_DISC && !s.on TBS.TSTAT_HOP_FAR, s.armed,
    s.trippedCells == 0, !s.on STL.CFG_RET_SW || s.on STL.RET_RET_OK]
  maskOf ((List.range 7).filter (fun i => !ok.getD i true))

/-- STL at a boundary: ages, checks, the hold-off and its seconds left (R329, R331, R336). -/
def State.stlBoundary (s : State) : State :=
  let s := s.modStl (fun x => { x with keepN := x.keepN + 1 })
  if !s.on STL.CFG_EN then s
  else
    let s := match s.stl.lastIdx with
      | some i => s.set STL.STAT_SET_AGE (min 255 (s.pidx - i))
      | none => s
    let s := s.unprot
    if !s.on STL.CFG_PREF then s
    else
      let chk := s.retChecks
      let s := s.set STL.RET_CHK chk
      let s := if s.stlSt == stlSTANDBY && chk == 0 then
          ((s.stlGo stlRETURN).irq STL.page 4).modStl (fun x => { x with holdEnd := some (s.now + s.get STL.CFG_HOLDOFF * tS) })
        else if s.stlSt == stlRETURN && chk != 0 then
          (s.stlStandby.set STL.RET_RET_OK 0).modStl (fun x => { x with holdEnd := none, agreed := none })
        else s
      s.set STL.RET_HOLD_LEFT (match s.stl.holdEnd with | some t => (t - s.now + tS - 1) / tS | none => 0)

/-- The hold-off has ended: with AUTO_RET the handback period is agreed (R336). -/
def State.holdOver (s : State) : State :=
  let s := s.set STL.RET_HOLD_LEFT 0
  s.iff (s.on STL.CFG_AUTO_RET) (fun s => s.modStl (fun x => { x with agreed := some (s.pidx + 2), agreedFor := 7 }))

/-- STL.CMD (R336, R337). [assumption 118 (DEDUCED)] -/
def State.stlCmd (s : State) (op : Nat) : State :=
  let conds : List (Bool × Nat) := match op with
    | 1 => [(!(if s.stlSt == stlACTIVE then s.partnerIn [stlSTANDBY, stlRETURN]
        else s.stlSt == stlSTANDBY || s.stlSt == stlRETURN), stPARTNER)]
    | 2 => [(s.stlSt != stlRETURN, stSTATE)]
    | 3 => [(true, eRANGE)]
    | _ => []
  s.judge STL.page 0x58 conds (fun s =>
    match op with
    | 1 =>
      let p := s.pidx + 2
      s.modStl (fun x => { x with agreed := some p, agreedFor := 6, rel := if s.stlSt == stlACTIVE then some (x.rel.getD (6, p)) else x.rel })
    | 2 => (s.modStl (fun x => { x with holdEnd := some s.now })).holdOver
    | _ => s)

/-! ### Host writes (R326, R330, R341) -/

/-- The pair function stops: with STL disabled the line is asserted (R328). -/
def State.stlStop (s : State) : State :=
  let s := (s.stlGo stlOFF).modStl (fun x => { x with claim := none, rel := none, agreed := none, holdEnd := none, gave := false })
  (((s.set STL.RET_RET_OK 0).set STL.RET_HOLD_LEFT 0).stlUnhold).ownAssert

/-- A write to STL.CFG (R326, R328). -/
def State.stlCfgWrite (s : State) (val : Word) : State :=
  let w := fun f => s.willBe STL.page true f val
  let en0 := s.on STL.CFG_EN
  let en1 := w STL.CFG_EN == 1
  let ho := getBits val 16 10
  let k := w STL.CFG_MLANE
  let start := en1 && !en0
  s.judge STL.page 0x40 [(decide (ho < 1 ∨ 600 < ho), eRANGE),
      (start && w STL.CFG_PARTNER == s.get TRL.ID_ADDR, stPARTNER),
      (start && !(s.tl k == tlUP && s.get (TRL.LN_STAT_PEER_ADDR k) == w STL.CFG_PARTNER), stMLANE),
      (start && decide (s.get STL.BUDGET_BUDGET < s.mlUsed), stBUDGET)] (fun s =>
    let s := s.take .stl STL.page 0x40 val
    if start then
      let s := (s.stlGo stlALONE).modStl (fun x => { x with last := none, lastIdx := none, miss := 0, got := false, keepN := 0, lastAt := s.now })
      let s := s.partnerSeen
      if s.on STL.STAT_PARTNER_HELD then s.ownRelease 0
      else if s.on STL.CFG_PREF then s.claimBegin true s.pidx
      else s.ownRelease 0
    else if en0 && !en1 then
      s.stlStop
    else s)

/-- A write to TMO. -/
def State.stlTmoWrite (s : State) (val : Word) : State :=
  s.judge STL.page 0x44 [(getBits val 0 8 == 0, eRANGE)] (fun s => s.take .stl STL.page 0x44 val)

/-- A write to MLISTe (R330). [assumption 207 (DEDUCED)] -/
def State.mlistWrite (s : State) (e : Nat) (val : Word) : State :=
  let ofs := 0x80 + 4 * e
  let n := getBits val 14 7
  let t := s.take .stl STL.page ofs val
  s.judge STL.page ofs [(decide (n < 1 ∨ 64 < n), eRANGE), (decide (s.get STL.BUDGET_BUDGET < t.mlUsed), stBUDGET)] (fun s =>
    let s := s.take .stl STL.page ofs val
    s.set STL.BUDGET_USED s.mlUsed)

/-! ### The commands -/

/-- NEIGHBOUR_MSG_RX (R310, R313, R326). -/
def execNeighbourMsgRx (k : Fin 8) (msg : NbrMsg) (s : State) : Host.Outcome State Fault Refusal :=
  .next (if s.tl k == tlUP then (s.nbrTake k msg).partnerSeen.unprot else s)

/-- STL_ENABLE (R326). -/
def execStlEnable (val : Word) (s : State) : Host.Outcome State Fault Refusal := .next (s.stlCfgWrite (val ||| 1))

/-- PARTNER_RELEASE (R333). [assumption 111 (DEDUCED)] -/
def execPartnerRelease (s : State) : Host.Outcome State Fault Refusal := .next s.partnerRelease

/-- PARTNER_ASSERT (R328). -/
def execPartnerAssert (s : State) : Host.Outcome State Fault Refusal := .next s.partnerAssert

/-- DRIVE_ACQUIRE (R327). [assumption 111 (DEDUCED)] -/
def execDriveAcquire (s : State) : Host.Outcome State Fault Refusal := .next s.driveAcquire

/-- SETTLE_ACTIVATE (R334). -/
def execSettleActivate (s : State) : Host.Outcome State Fault Refusal := .next s.settleActivate

/-- KEEP_TIMEOUT: the line is released at the close of the next downlink window, ahead of a commanded release (R329,
R338). -/
def execKeepTimeout (s : State) : Host.Outcome State Fault Refusal :=
  .next (if s.get STL.TMO_KEEP_TMO != 0 && decide (s.get STL.TMO_KEEP_TMO ≤ s.stl.keepN) && s.on STL.STAT_OWN_HELD then
    s.modStl (fun x => { x with rel := some (5, if s.window = 4 then s.pidx + 1 else s.pidx) }) else s)

/-- STL_KEEP (R329). -/
def execStlKeep (s : State) : Host.Outcome State Fault Refusal :=
  .next (s.judge STL.page 0x5C [] (fun s => s.modStl (fun x => { x with keepN := 0 })))

/-- STL_HANDOVER (R337). [assumption 118 (DEDUCED)] -/
def execStlHandover (s : State) : Host.Outcome State Fault Refusal := .next (s.stlCmd 1)

/-- STL_RETURN_NOW (R336). [assumption 114 (DEDUCED)] -/
def execStlReturnNow (s : State) : Host.Outcome State Fault Refusal := .next (s.stlCmd 2)

/-- HOLDOFF_EXPIRY (R336). -/
def execHoldoffExpiry (s : State) : Host.Outcome State Fault Refusal :=
  .next (match s.stl.holdEnd with
    | some t => if s.stlSt == stlRETURN then (s.advance t).holdOver else s
    | none => s)

/-- HANDBACK: at the close of the downlink window of the agreed period, for the cause agreed; a release for KEEP that is due
goes first (R336, R337, R338). [assumption 119 (DEDUCED)] -/
def execHandback (s : State) : Host.Outcome State Fault Refusal :=
  .next (match s.stl.agreed with
    | some p =>
      if s.stlSt == stlACTIVE && p == s.pidx then
        (s.advance (s.bndAt + s.get TBS.PER_WIN1_W_DL * t10)).stlRelease
          (match s.stl.rel with | some (5, q) => if q ≤ s.pidx then 5 else s.stl.agreedFor | _ => s.stl.agreedFor)
      else s
    | none => s)

/-- HANDOVER_RECLAIM: the other module has not claimed by the boundary that opens the next period; no set has come since the
release, so no mirrored latch is set (R334, R337). -/
def execHandoverReclaim (s : State) : Host.Outcome State Fault Refusal :=
  .next (match s.stl.agreed with
    | some p =>
      if s.stl.gave && p + 1 == s.pidx && !s.on STL.STAT_PARTNER_HELD then
        (s.claimBegin false (p + 1)).modStl (fun x => { x with gave := false, last := none, late := false })
      else s
    | none => s)

/-- MIRROR_RX (R331). -/
def execMirrorRx (m : MirrorSet) (s : State) : Host.Outcome State Fault Refusal := .next (s.mirrorRx m)

/-- SYNC_LOST (R332). -/
def execSyncLost (s : State) : Host.Outcome State Fault Refusal :=
  .next (if decide (8 ≤ s.stl.miss) || !s.mlaneUp || !s.armed then s.stlSyncLost else s)

/-- START_TIMEOUT: the cold claim of a module with PREF = 0 (R332). -/
def execStartTimeout (s : State) : Host.Outcome State Fault Refusal :=
  .next (match s.stl.relSince with
    | some r =>
      if s.on STL.CFG_EN && !s.on STL.CFG_PREF && (s.stlSt == stlALONE || s.stlSt == stlSYNCING)
          && !s.on STL.STAT_PARTNER_HELD && s.stl.claim.isNone then
        let s := s.advance (r + s.get STL.TMO_START_TMO * tS)
        s.claimBegin true s.pidx
      else s
    | none => s)

/-- PARTNER_STUCK (R333). -/
def execPartnerStuck (s : State) : Host.Outcome State Fault Refusal :=
  .next (if decide (s.stlSt ∈ [stlSYNCING, stlSTANDBY, stlRETURN]) && s.on STL.STAT_PARTNER_HELD then
    (s.advance (s.stl.lastAt + s.get STL.TMO_START_TMO * tS)).irq STL.page 8 else s)

/-- The configuration registers of a page, reserved bits 0, in the order of their offsets. -/
def State.cfgBytes (s : State) (page : Nat) (rows : List RegRow) : List Byte :=
  rows.flatMap (fun r => (List.range r.n).flatMap (fun i =>
    if r.rw + r.rwl = 0 then [] else leBytes 4 ((s.reg (page + r.off + i * r.stride)).toNat &&& (r.rw ||| r.rwl))))

/-- The CRC-32C digest of the mirrored contexts' coefficients and of the GRN and DSV configuration (R331).
[assumption 113 (DEDUCED)] -/
def State.cfgDigest (s : State) : Word :=
  BitVec.ofNat 32 (crc32c (s.mlist.flatMap (fun e => (List.range 64).flatMap (fun i => leBytes 4 (s.mword (leC (s.mlCtx e) i)).toNat))
    ++ s.cfgBytes GRN.page rowsGRN ++ s.cfgBytes DSV.page rowsDSV))

/-- CFG_DIGEST: the partner's digest against the own one; three mismatches in a row set CFG_DIFF (R331).
[assumption 113 (DEDUCED)] -/
def execCfgDigest (theirs : Word) (s : State) : Host.Outcome State Fault Refusal :=
  .next (if !s.on STL.CFG_EN || s.nbrOnly then s
    else if theirs == s.cfgDigest then (s.set STL.STAT_CFG_DIFF 0).modStl (fun x => { x with diff := 0 })
    else
      let n := s.stl.diff + 1
      let s := s.modStl (fun x => { x with diff := min 3 n })
      if n = 3 then (s.set STL.STAT_CFG_DIFF 1).irq STL.page 6 else s)

/-- The partner's cause is known: a claim, or the takeover it became, no longer counts a downlink window that completed no
schedule frame (R329, R335). [assumption 116 (DEDUCED)] -/
def State.coverFix (s : State) (cause : Nat) : State :=
  if s.stl.late && cause == 4 then
    let s := s.modStl (fun x => { x with late := false, claim := x.claim.map (fun c => (c.1, c.2.1, c.2.2 - 1)) })
    s.iff (s.stlSt == stlACTIVE) (fun s => s.set STL.SWO_GAP (min 3 (s.get STL.SWO_GAP + 1)))
  else s

/-- MANAGEMENT_MESSAGE_RX: the partner's release cause, or the period agreed for a handback (1) or a handover (2) (R329,
R336, R337). [assumption 119 (DEDUCED)] -/
def execManagementMessageRx (kind : Fin 3) (val : Nat) (s : State) : Host.Outcome State Fault Refusal :=
  .next (if !s.on STL.CFG_EN || s.nbrOnly then s
    else if kind = 0 then
      let s := s.coverFix (val % 8)
      if s.stlSt == stlACTIVE then s.iff (s.get STL.SWO_CAUSE == 0) (fun s => s.set STL.SWO_CAUSE (val % 8))
      else s.modStl (fun x => { x with told := val % 8 })
    else s.modStl (fun x => { x with agreed := some val, agreedFor := if kind = 1 then 7 else 6 }))

end Sys2Proof.Machine
end

