-- ==== Sys2Proof/Machine/Recovery.lean ====
section
/-! DEFINITION. Temperature and thermal shutdown, resets, the power cycle, secure boot, the input switch, and the end of a
lifecycle change (R423, R430–R434, R460–R469, R476, R477, R503–R508). -/

namespace Sys2Proof.Machine

/-! ### Power cycle and requests for a reset (R466, R469) -/

/-- PWR_CYC is asserted for PCYC_T; a warm reset under way gives way to it (R469, R473). -/
def State.pwrCyc (s : State) : State :=
  s.modPwr (fun x => { x with cyc := some (s.now + s.get NVL.RCV_PCYC_PCYC_T * 10 * tMs), warm := none })

def execNvlResetWarm (key : BitVec 8) (s : State) : Host.Outcome State Fault Refusal :=
  .next (s.judge NVL.page 0xA4 [(key != 0xA5, eKEY)] (fun s => s.warmAsk 1))

def execNvlResetPcyc (key : BitVec 8) (s : State) : Host.Outcome State Fault Refusal :=
  .next (s.judge NVL.page 0xA4 [(key != 0xA5, eKEY)] State.pwrCyc)

/-- A write to NVL.RESET with both bits: the power cycle prevails (R473). [assumption 184 (DEDUCED)] -/
def State.nvlResetWrite (s : State) (val : Word) : State :=
  s.judge NVL.page 0xA4 [(getBits val 8 8 != 0xA5, eKEY)] (fun s =>
    if val.getLsbD 1 then s.pwrCyc else s.iff (val.getLsbD 0) (fun s => s.warmAsk 1))

/-- PCYC_REQ held low for 10 ms acts in every power state except OFF (R469). -/
def execPcycReq (s : State) : Host.Outcome State Fault Refusal :=
  .next (if s.ps = psOFF ∨ s.pwr.vinOff then s else s.pwrCyc)

def State.heartWrite (s : State) (key : Nat) : State :=
  s.judge NVL.page 0xA0 [(key != 0x5A, eKEY)] (fun s => s.modPwr (fun x => { x with heartAt := s.now }))

/-- A write to HEART (R465, R477). [assumption 178 (DEDUCED)] -/
def execHeart (key : BitVec 8) (s : State) : Host.Outcome State Fault Refusal := .next (s.heartWrite key.toNat)

/-- No HEART for HB_TMO ms (R466). The count runs anew from there. [assumption 178 (DEDUCED)] -/
def execHbTimeout (s : State) : Host.Outcome State Fault Refusal :=
  let t := s.get NVL.RCV_CFG_HB_TMO
  if t = 0 ∨ s.ps = psSLEEP ∨ s.ps = psOFF then .next s
  else
    let s := s.advance (s.pwr.heartAt + t * tMs)
    let s := s.modPwr (fun x => { x with heartAt := s.now })
    .next (s.iff (s.on NVL.RCV_CFG_ESC_WARM) (fun s => s.warmAsk 4))

/-- A write to RCV_CFG; a timer that was off starts (R466). -/
def State.rcvCfgWrite (s : State) (val : Word) : State :=
  s.judge NVL.page 0x98 [(getBits val 18 3 == 0 || getBits val 21 11 == 0, eRANGE)] (fun s =>
    let off := s.get NVL.RCV_CFG_HB_TMO == 0
    (s.take .nvl NVL.page 0x98 val).iff off (fun s => s.modPwr (fun x => { x with heartAt := s.now })))

/-! ### Secure boot (R430–R434) -/

/-- The device and offset of a slot: 0 A, 1 B, 2 C. -/
def slotAt (k : Nat) : Bool × Nat := (k == 2, if k = 1 then 0x1000000 else 0)

/-- The header of a slot; none where there is no image or no device. [assumption 182 (DEDUCED)] -/
def State.slotHead (s : State) (k : Nat) : Option (List Byte) :=
  if k = 2 ∧ s.nvl.qspi.isNone then none
  else
    let h := s.flashBytes (slotAt k).1 (slotAt k).2 512
    if h.all (· == 0xFF) then none else some h

def hdrVersion (h : List Byte) : Nat := leNat h 16 8
def hdrLen (h : List Byte) : Nat := leNat h 24 4
def hdrEnc (h : List Byte) : Bool := (leNat h 36 4).testBit 0

/-- Check 1: MAGIC, HDR_VER and the reserved bytes. -/
def hdrMagic (h : List Byte) : Bool :=
  h.take 4 == [0x43, 0x49, 0x4D, 0x47] && leNat h 4 4 == 1 && decide (leNat h 36 4 < 4) && (h.drop 308).all (· == 0)

/-- The stored payload of a slot. -/
def State.slotBody (s : State) (k : Nat) (h : List Byte) : List Byte :=
  s.flashBytes (slotAt k).1 ((slotAt k).2 + 512) (hdrLen h)

/-- The payload as it runs: decrypted where ENC = 1; none for a wrong tag. -/
def State.slotPlain (s : State) (k : Nat) (h : List Byte) : Option (List Byte) :=
  if hdrEnc h then Config.gcmOpen s.sec.kImg (slice h 40 12) (slice h 0 40) (s.slotBody k h) (slice h 52 16)
  else some (s.slotBody k h)

/-- The checks of R431 in order: 0 for a valid slot, else the first failure's code. [assumption 182 (DEDUCED)] -/
def State.slotCheck (s : State) (k : Nat) : Nat :=
  match s.slotHead k with
  | none => 10
  | some h =>
    let len := hdrLen h
    let load := leNat h 28 4
    let entry := leNat h 32 4
    let bench := (leNat h 36 4).testBit 1
    let open_ := s.lc == lcMANUFACTURE || s.lc == lcBENCH || s.lc == lcRETIRED
    if !hdrMagic h then 1
    else if leNat h 8 4 != 0x48960001 then 2
    else if leNat h 12 4 < s.get SEC.RB_MIN then 3
    else if !s.sec.roots.any (fun r => r.1 == Config.sha384 (slice h 116 96) && !r.2) then 4
    else if !sigOk (slice h 116 96) (slice h 0 212) (slice h 212 96) then 5
    else if Config.sha384 (s.slotBody k h) != BitVec.ofNat 384 (beNat (slice h 68 48)) then 6
    else if (s.slotPlain k h).isNone then 7
    else if (!open_ && (bench || !hdrEnc h)) || (s.lc == lcRETIRED && hdrEnc h) then 8
    else if decide (len < 1048576 ∨ 12582912 < len ∨ load % 4096 ≠ 0 ∨ 16777216 < load + len) || len % 16 != 0
        || decide (entry < load ∨ load + len ≤ entry) then 9
    else 0

/-- The rank of slots A and B: an image's VERSION plus 1, 0 where none is recognised. -/
def State.slotRank (s : State) (k : Nat) : Nat :=
  match s.slotHead k with
  | some h => if hdrMagic h then hdrVersion h + 1 else 0
  | none => 0

/-- The order in which slots are tried (R432). [assumption 182 (DEDUCED)] -/
def State.bootOrder (s : State) : List Nat :=
  let ab := if s.slotRank 0 < s.slotRank 1 then [1, 0] else [0, 1]
  if s.on SEC.BOOT_ONCE_EN then
    let k := s.get SEC.BOOT_ONCE_SLOT
    if k = 2 then 2 :: ab else [k, 1 - k, 2]
  else ab ++ [2]

/-- The image of a slot is copied and started (R430, R432). [assumption 183 (DEDUCED)] -/
def State.bootStart (s : State) (k : Nat) : State :=
  let h := (s.slotHead k).getD []
  let s := (((s.set SEC.BOOT_SLOT k).set SEC.BOOT_NONE 0).set SEC.BOOT_VER0_VER (leNat h 16 4)).set SEC.BOOT_VER1_VER (leNat h 20 4)
  let s := (s.modSec (fun x => { x with runRb := leNat h 12 4 })).set SEC.BOOT_ONCE_EN 0
  s.putBytes (0x20000000 + leNat h 28 4) ((s.slotPlain k h).getD [])

/-- The boot ROM tries the slots; it records each failure, and stays with no image where none is valid (R431, R432).
[assumption 183 (DEDUCED)] -/
def State.bootTry (s : State) : List Nat → State
  | [] => (s.set SEC.BOOT_NONE 1).logEvt SEC.page 0xFF
  | k :: ks =>
    let c := s.slotCheck k
    if c = 0 then s.bootStart k
    else
      let s := s.set (match k with | 0 => SEC.BOOT_A_FAIL | 1 => SEC.BOOT_B_FAIL | _ => SEC.BOOT_C_FAIL) c
      State.bootTry (s.iff (!ks.isEmpty) (fun s => s.irq SEC.page 4)) ks

/-- Secure boot over the slots in their order (R431, R432). [assumption 181 (DEDUCED)] -/
def State.secureBoot (s : State) : State := s.bootTry s.bootOrder

/-! ### Resets (R467, R487, R506, R507) -/

/-- The sensors of the islands read absent on a build without them (R1, R460). -/
def State.tsAbsent (s : State) : State :=
  if s.isl then s else s.each [10, 11, 12, 13] (fun s n => s.set (THM.TS_ABSENT n) 1)

/-- Registers that follow the straps and the balls at a reset (R1, R2, R266, R311, R439, R480). -/
def State.readStraps (s : State) : State :=
  let s := s.setReg (HDR.CAP SYS.page) (if s.straps.islFit then 1 else 0)
  let s := s.each [LPW.page, MCX.page] (fun s pg => s.setB (HDR.CTRL_EN pg) s.straps.islFit)
  let s := s.tsAbsent
  let s := s.trlStraps
  let s := s.each (List.range 12) (fun s k => s.set (LEG.CFG_BMODE k) (if s.straps.bmode.testBit k then 1 else 0))
  s.setB SEC.LC_STAT_BENCH_IL s.straps.benchIl

/-- Every page and structure at its reset value, but for the registers kept. OTP, the pairing keys, flash and the input
switch are no part of a reset; the memories without retention are lost. [assumption 176 (DEDUCED)] -/
def State.resetBase (s : State) (keep : Nat → Bool) (aon : Bool) : State :=
  let t := s.now
  let k := s.memLost aon
  { State.reset with
    pending := s.pending, now := t, freeN := s.freeN, straps := s.straps, regs := s.regs.filter (fun p => keep p.1),
    mem := k.mem, poison := k.poison, bndAt := t, epochAt := t, pairKeys := s.pairKeys,
    stl := { relSince := some t }, trl := { rateAt := t }, trpIn := s.trpIn, memx := { leakAt := t },
    nvl := { nor := s.nvl.nor, qspi := s.nvl.qspi, ack := s.nvl.ack },
    sec := { roots := s.sec.roots, dbgRoot := s.sec.dbgRoot, kImg := s.sec.kImg, kTr := s.sec.kTr, slots := s.sec.slots,
             lcWord := s.sec.lcWord, trim := s.sec.trim, ilAt := s.sec.ilAt },
    pwr := { rtcAt := t, heartAt := t, switch := s.pwr.switch, seatAt := s.pwr.seatAt } }

/-- A reset of everything but what is kept; counts of time start afresh. [assumption 173 (DEDUCED)] -/
def State.restart (s : State) (keep : Nat → Bool) (aon : Bool) : State :=
  let t := s.now
  let r := s.resetBase keep aon
  let r := r.each (List.range 12) (fun r k => r.setIsland k { offSince := some t })
  let r := r.each [0, 1, 2, 3] (fun r c => r.modCan c (fun x => { x with tscAt := t, cycAt := t, refAt := t }))
  (r.each [0, 1] (fun r p => r.modEth p (fun x => { x with at_ := t }))).readStraps

/-- The steps that follow a reset: the debug port (R435), which the reset has closed where it was not (R437), the image
(R432), the nonce (R424) and the SPS (R343); the OWN line is asserted from the end of the reset (R328). -/
def State.bootUp (s : State) (dbg : Nat) : State :=
  let s := (s.set SEC.DBG_STAT_STATE (if s.lc = lcMANUFACTURE then 2 else 0)).iff (dbg != 0) (fun s => s.irq SEC.page 1)
  (s.secureBoot.newNonce).safBoot.ownAssert

/-- Registers a warm reset keeps whole (R467). -/
def warmKeeps (a : Nat) : Bool :=
  decide (0x40030000 ≤ a ∧ a < 0x40031000) || a == THM.EXCL || decide (THM.TSD_REC0 ≤ a ∧ a ≤ THM.TSD_CNT)
    || [NVL.LOG_SEQ, NVL.LOG_OLD, NVL.RST_REC, NVL.RCV_CFG, NVL.RCV_PCYC, SEC.LC_STAT, SEC.BOOT_ONCE, SEC.RB,
        SAF.LOCK].contains a

/-- A warm reset with its cause (R466–R468). [assumptions 174 (DESIGN CHOICE); 176 (DEDUCED)] -/
def State.warmReset (s : State) (cause : Nat) (warms : List Nat) : State :=
  let lock := s.get SAF.STAT_LOCKOUT
  let used := s.get SEC.KSTAT_USED
  let exit := s.memx.exit
  let old := s
  let s := s.restart warmKeeps true
  let s := { s with
    sec := { s.sec with svcEnd := old.sec.svcEnd }, pwr := { s.pwr with rtcAt := old.pwr.rtcAt, cyc := old.pwr.cyc, warms := warms } }
  let s := ((s.set SEC.LC_STAT_LC_BUSY 0).set SEC.KSTAT_USED used).set SAF.STAT_LOCKOUT lock
  let s := (s.set NVL.RST_REC_CAUSE cause).set NVL.RST_REC_WARM_CNT (min 255 warms.length)
  (s.bootUp old.dbgSt).iff (exit && cause == 6) (fun s => s.irq THM.page 2)

/-- A warm reset, or the power cycle in its place where it would be one too many (R469). -/
def State.warmOrCyc (s : State) (cause : Nat) : State :=
  let w := s.pwr.warms.filter (fun t => decide (s.now < t + s.get NVL.RCV_CFG_WARM_WIN * tS))
  if s.on NVL.RCV_CFG_ESC_PCYC && decide (s.get NVL.RCV_CFG_WARM_MAX ≤ w.length) then s.pwrCyc
  else s.warmReset cause (w ++ [s.now])

/-- A warm reset that is asked for, or that a lockstep mismatch causes, takes place; it waits while KC burns OTP (R466). -/
def execWarmReset (lockstep : Bool) (s : State) : Host.Outcome State Fault Refusal :=
  let s := s.iff lockstep (fun s => s.warmAsk 3)
  match s.pwr.warm with
  | none => .next s
  | some c => .next (if s.secBusy || s.pwr.vinOff then s else s.warmOrCyc c)

/-- A power-on reset (R506, R507): OTP is read, SERVICE has ended (R425). [assumption 175 (DEDUCED)] -/
def execPowerOnReset (s : State) : Host.Outcome State Fault Refusal :=
  if !s.pwr.switch then .next s
  else
    let svc := s.lc == lcSERVICE
    let lc := lcOfWord s.sec.lcWord
    let old := s
    let s := s.restart (fun a => a == NVL.LOG_SEQ || a == NVL.LOG_OLD || a == SEC.RB) false
    let s := ((s.set SEC.LC_STAT_LC lc).set SEC.LC_STAT_ERASED (old.get SEC.LC_STAT_ERASED)).set SEC.KSTAT_USED (old.get SEC.KSTAT_USED)
    .next ((s.bootUp old.dbgSt).iff svc (fun s => s.irq SEC.page 5))

/-! ### Loss of VIN and the input switch (R503, R508) -/

/-- VIN falls below the brown-out threshold: the stage disarms, the OWN line is released, the lock-out latch clears, and
burns under way leave the old state (R329, R356, R443, R508). [assumption 185 (DEDUCED)] -/
def State.vinLost (s : State) : State :=
  if s.pwr.vinOff then s
  else
    let s := ((s.disarm disRESET).ownRelease 1).memLost false
    let s := (s.set SAF.STAT_LOCKOUT 0).setReg SAF.LOCK 0
    let s := ((s.modSec (fun x => { x with lc := none, key := none })).set SEC.LC_STAT_LC_BUSY 0).set SEC.KSTAT_BUSY 0
    let s := (s.modNvl (fun x => { x with cmd := none })).set NVL.STAT_BUSY 0
    { s with logQ := [] }.modPwr (fun x => { x with vinOff := true, slp := none, slp4 := false, waking := false, warm := none, cyc := none })

/-- VIN falls below the brown-out threshold (R508). [assumption 185 (DEDUCED)] -/
def execBrownOut (s : State) : Host.Outcome State Fault Refusal := .next s.vinLost

/-- SEATED_N changes: high opens the switch, low starts the 20 ms (R503, R518). [assumption 186 (DEDUCED)] -/
def execSeatedChange (low : Bool) (s : State) : Host.Outcome State Fault Refusal :=
  if low then .next (if s.pwr.seatAt.isSome then s else s.modPwr (fun x => { x with seatAt := some s.now }))
  else .next ((s.vinLost).modPwr (fun x => { x with seatAt := none, switch := false }))

/-- SEATED_N has read low for 20 ms and the switch closes (R503, R505). [assumption 175 (DEDUCED)] -/
def execInputSwitchClose (s : State) : Host.Outcome State Fault Refusal :=
  match s.pwr.seatAt with
  | some t => .next (if s.pwr.switch then s else (s.advance (t + 20 * tMs)).modPwr (fun x => { x with switch := true }))
  | none => .next s

/-! ### The end of a lifecycle change (R423, R426) -/

/-- The burn completes: a root hash is revoked, or the new state takes effect with a warm reset, and LC_DONE is raised. The
record of an erasure is in the log before RETIRED is burned (R426); a change of state closes the debug port (R437).
[assumption 177 (DESIGN CHOICE)] -/
def execLcDone (s : State) : Host.Outcome State Fault Refusal :=
  match s.sec.lc with
  | none => .next s
  | some (t, _, root) =>
    let svc := s.lc == lcSERVICE
    let s := (s.modSec (fun x => { x with lc := none })).set SEC.LC_STAT_LC_BUSY 0
    match root with
    | some i => .next ((s.modSec (fun x => { x with roots := x.roots.modify i (fun r => (r.1, true)) })).irq SEC.page 0)
    | none =>
      let s := s.iff (t == lcRETIRED) State.logFlush
      let s := ((s.set SEC.LC_STAT_LC t).set SEC.LC_STAT_SVC_LEFT 0).modSec (fun x => { x with
        svcEnd := none, lcWord := x.lcWord ||| 1 <<< t })
      let s := s.disarm disLIFECYCLE
      let (k, s) := s.free
      .next ((((s.warmOrCyc (Config.freeNat k % 16)).dbgShut).irq SEC.page 0).iff svc (fun s => s.irq SEC.page 5))

/-! ### Waking from SLEEP (R410–R412) -/

/-- The wake sequence, up to the lanes in LOCK: findings of the sleep are entered, the image is loaded and authenticated, the
cores check the SPS with every function in DEMAND, and lanes that were enabled train again (R410, R412, R453).
[assumption 160 (DEDUCED)] -/
def State.wakeStart (s : State) : State :=
  let s := (s.set PWR.STAT_STATE s.pwr.left).modPwr (fun x => { x with waking := true })
  let s := (s.set MEM.PAN_STAT_LEVEL 0).slpEnter
  let s := s.each ([0, 1, 2].filter (fun n => s.on (PLL.PCFG_EN n))) (fun s n => s.set (PLL.PSTAT_SEARCH n) 1)
  let s := s.secureBoot
  let s := (s.modSaf (fun x => { x with checked := false, stopped := false })).safBoot
  let s := s.each ((List.range 48).filter (fun n => s.on (LANE.CFG_EN n))) (fun s n => s.lnGo n lnLOCK)
  s.each ((List.range 8).filter (fun k => (s.get TRL.CFG_LANE_EN).testBit k)) (fun s k => s.set (TRL.LN_STAT_STATE k) tlLOCK)

/-- A wake by enabled sources: it ends an entry before step 4, and follows at once on one beyond it (R409). -/
def State.wakeBy (s : State) (m : Nat) : State :=
  let s := ((s.setReg AON.WAKE_SRC (BitVec.ofNat 32 m)).irq AON.page 1).slpGo
  if s.pwr.slp.isSome && !s.pwr.slp4 then
    ((s.modPwr (fun x => { x with slp := none })).set PWR.STAT_ENTRY_ABORT 1).irq PWR.page 5
  else (s.iff s.pwr.slp.isSome State.slpStep5).wakeStart

/-- The sources that are enabled; the RTC is one only while its second equals RTC_ALM, not 0 (R411). -/
def State.wakeMask (s : State) (src : BitVec 16) : Nat :=
  let m := src.toNat &&& (s.reg AON.WAKE_EN).toNat &&& 0xFF7F
  if s.get AON.RTC_ALM_ALM != 0 && s.rtcNow.1 == s.get AON.RTC_ALM_ALM then m else m &&& 0xFFBF

/-- Wake sources recognised on two AON samples (R409, R411). A shutdown in SLEEP, or one that waits for the entry to
complete, holds them off (R464). [assumption 180 (DEDUCED)] -/
def execWakeEvent (src : BitVec 16) (s : State) : Host.Outcome State Fault Refusal :=
  let m := s.wakeMask src
  .next (if m = 0 ∨ (s.pwr.slp.isNone ∧ s.ps ≠ psSLEEP) then s
    else if s.memx.shut || s.memx.tsdPend.isSome then s.modMem (fun x => { x with held := x.held ||| m })
    else s.wakeBy m)

/-! ### Temperature (R460–R464) -/

/-- Sensor `n` is on the build (R460). -/
def State.tsFitted (s : State) (n : Nat) : Bool := decide (n < 10) || s.isl
/-- Sensor `n` is excluded (R461). [assumption 179 (DEDUCED)] -/
def State.tsExcl (s : State) (n : Nat) : Bool := (s.get THM.EXCL_MAP).testBit n

/-- A sensor is excluded, with the bit that says why (R461). -/
def State.tsOut (s : State) (n : Nat) (f : Fld) : State :=
  (((s.set THM.EXCL_MAP (s.get THM.EXCL_MAP ||| 1 <<< n)).set f 1).set (THM.TS_VALID n) 0).irq THM.page 1

/-- The samples of the last 10 s: those kept reach back to the last one at least 10 s old (R461). -/
def tsTrim (t : Nat) : List (Nat × List Int) → List (Nat × List Int)
  | a :: b :: l => if b.1 + 10 * tS ≤ t then tsTrim t (b :: l) else a :: b :: l
  | l => l

/-- By how much a sensor's reading has changed over the samples kept. [assumption 179 (DEDUCED)] -/
def State.tsSpread (s : State) (n : Nat) : Int :=
  match s.memx.hist.map (fun q => q.2.getD n 0) with
  | [] => 0
  | v :: vs => vs.foldl max v - vs.foldl min v

/-- A sensor has not changed for 10 s while another valid one has changed by 4 °C or more (R461). -/
def State.tsStuck (s : State) (n : Nat) : Bool :=
  s.memx.hist.head?.any (fun q => decide (q.1 + 10 * tS ≤ s.now)) && decide (s.tsSpread n = 0)
    && (List.range 14).any (fun m => m != n && s.tsFitted m && !s.tsExcl m && decide (16 ≤ s.tsSpread m))

/-- What a sample does to one sensor: its reading and the two conditions of exclusion (R461). -/
def State.tsOne (s : State) (r : List Int) (n : Nat) : State :=
  if !s.tsFitted n then (s.set (THM.TS_ABSENT n) 1).set (THM.TS_VALID n) 0
  else
    let v := r.getD n 0
    let s := (s.setS (THM.TS_T n) v).setB (THM.TS_VALID n) (!s.tsExcl n)
    if s.tsExcl n then s
    else
      let c := if v < -220 ∨ 700 < v then s.memx.oor.getD n 0 + 1 else 0
      let s := s.modMem (fun x => { x with oor := x.oor.set n c })
      if 3 ≤ c then s.tsOut n (THM.TS_OOR n)
      else s.iff (s.tsStuck n) (fun s => s.tsOut n (THM.TS_STUCK n))

/-- The valid sensors' highest reading and its sensor (R460). [assumption 180 (DEDUCED)] -/
def State.tsMax (s : State) (r : List Int) : Option (Int × Nat) :=
  ((List.range 14).filter (fun n => s.tsFitted n && !s.tsExcl n)).foldl (fun (b : Option (Int × Nat)) n =>
    match b with
    | some x => if x.1 < r.getD n 0 then some (r.getD n 0, n) else b
    | none => some (r.getD n 0, n)) none

/-- A sample of every sensor: readings, exclusions, MAX and the warning (R460–R462). [assumption 179 (DEDUCED)] -/
def State.tsSample (s : State) (r : List Int) : State :=
  let s := s.modMem (fun x => { x with hist := tsTrim s.now (x.hist ++ [(s.now, r)]) })
  let s := s.each (List.range 14) (fun s n => s.tsOne r n)
  let s := match s.tsMax r with
    | some m => (s.setS THM.MAX_T m.1).set THM.MAX_SENSOR m.2
    | none => s
  let s := s.setB THM.STAT_SOC_BLIND (s.get THM.EXCL_MAP % 16 == 15)
  let t : Int := s.getS THM.MAX_T
  let w : Int := 4 * s.get THM.CFG_T_WARN
  if w ≤ t then (if s.on THM.STAT_WARN then s else (s.set THM.STAT_WARN 1).irq THM.page 0)
  else if t ≤ w - 20 then s.set THM.STAT_WARN 0 else s

/-- Thermal shutdown (R463); during the entry to SLEEP the entry completes (R464). -/
def State.thermalShutdown (s : State) : State :=
  let s := s.disarm disTHERMAL
  let q := (s.getS THM.MAX_T, s.get THM.MAX_SENSOR)
  if s.pwr.slp.isSome then s.modMem (fun x => { x with tsdPend := some (x.tsdPend.getD q) })
  else
    let s := ((s.tsdRecord q.1 q.2).ownRelease 3).slpStep4
    (s.modPwr (fun x => { x with slp4 := false, warm := none }))

/-- TS0 once a second in SLEEP: the exclusion of R461 and the shutdown threshold; the tenth cool sample in a row ends a
shutdown, and a wake that it held off follows (R464). [assumption 180 (DEDUCED)] -/
def State.tsSleep (s : State) (v : Int) : State :=
  let s := s.setS (THM.TS_T 0) v
  if s.tsExcl 0 then s
  else
    let c := if v < -220 ∨ 700 < v then s.memx.oor.getD 0 0 + 1 else 0
    let s := s.modMem (fun x => { x with oor := x.oor.set 0 c })
    let s := if 3 ≤ c then
        (let s := s.tsOut 0 (THM.TS_OOR 0)
         s.setB THM.STAT_SOC_BLIND (s.get THM.EXCL_MAP % 16 == 15)) else s
    if s.memx.shut then
      let k := if v < 440 ∧ !s.tsExcl 0 then s.memx.cool + 1 else 0
      let m := s.memx.held
      if k < 10 ∨ s.on THM.STAT_SOC_BLIND then s.modMem (fun x => { x with cool := k })
      else (s.modMem (fun x => { x with cool := k, shut := false, held := 0 })).iff (m != 0) (fun s => s.wakeBy m)
    else
      let h := if 540 ≤ v ∧ !s.tsExcl 0 then s.memx.hot + 1 else 0
      if 2 ≤ h ∨ s.on THM.STAT_SOC_BLIND then s.tsdRecord v 0 else s.modMem (fun x => { x with hot := h })

/-- The sensors report (R460). -/
def execTempSample (r : List Int) (s : State) : Host.Outcome State Fault Refusal :=
  if s.ps = psOFF ∨ s.pwr.vinOff then .next s
  else if s.ps = psSLEEP then .next (s.tsSleep (r.getD 0 0))
  else if s.memx.shut then .next s
  else
    let s := s.tsSample r
    let h := if 540 ≤ s.getS THM.MAX_T then s.memx.hot + 1 else 0
    let s := s.modMem (fun x => { x with hot := h })
    .next (if 2 ≤ h ∨ s.on THM.STAT_SOC_BLIND then s.thermalShutdown else s)

/-- A sample during shutdown: the tenth in a row below 110 °C ends it with a warm reset; a blind module stays (R461, R463). -/
def execTsdSample (r : List Int) (s : State) : Host.Outcome State Fault Refusal :=
  if !s.memx.shut ∨ s.ps = psSLEEP ∨ s.pwr.vinOff then .next s
  else
    let s := s.tsSample r
    let c := if s.getS THM.MAX_T < 440 then s.memx.cool + 1 else 0
    let s := s.modMem (fun x => { x with cool := c })
    .next (if 10 ≤ c ∧ !s.on THM.STAT_SOC_BLIND then (s.modMem (fun x => { x with exit := true })).warmAsk 6 else s)

end Sys2Proof.Machine
end

