-- ==== Sys2Proof/Machine/Period.lean ====
section
/-! DEFINITION. The control period: its boundary, its windows and their closes, overruns and their reactions, a change
of T_c, and what the crossbar reports (R16–R37). -/

namespace Sys2Proof.Machine

/-! ### A change of T_c (R17, R22) -/

/-- A write to PER_CFG. A change is accepted for the second boundary after the write, and the root sends it to every admitted
module with its index; the T_c in force, with none pending, starts no change (R17, R22, R323).
[assumptions 188, 197 (DEDUCED)] -/
def State.periodWrite (s : State) (val : Word) : State :=
  let p := getBits val 0 16
  s.judge TBS.page 0x100
    [(s.perPend.isNone && decide (p < 1000 ∨ 20000 < p), eRANGE),
     (s.armed || s.on PWR.STAT_ARM_PEND || s.isRoot && s.nbrArmed 1, eARMED), (!s.isRoot, bNOT_ROOT),
     (s.perPend.isSome, eSTATE)] (fun s =>
    if p = s.get TBS.PER_CFG_PERIOD then s
    else if s.locked TBS.page then s.refuse TBS.page 0x100 eLOCKED
    else { s with perPend := some (p, s.pidx + 2) }.iff (!s.nbrOnly) (fun s => s.modTrl (fun x =>
      { x with chgTx := some (p, s.pidx + 2) })))

/-- A host write to PER_CFG (R22). -/
def execPeriodWrite (val : Word) (s : State) : Host.Outcome State Fault Refusal := .next (s.periodWrite val)

/-- The root's change reaches a member: it takes effect at the index named; a stage armed in the meantime disarms
(R22). [assumption 196 (DEDUCED)] -/
def execPeriodChangeReceipt (period : BitVec 16) (at_ : BitVec 64) (s : State) : Host.Outcome State Fault Refusal :=
  .next (if s.isRoot || s.dark || s.nbrOnly then s
    else ({ s with perPend := some (period.toNat, at_.toNat) }).iff s.armed (fun s => s.disarm disSTATE))

/-- A change whose boundary has come takes effect at that boundary (R22, R323). [assumption 187 (DEDUCED)] -/
def State.perDue (s : State) : State :=
  match s.perPend with
  | some (p, i) => if i ≤ s.pidx then ({ s with perPend := none }).applyPeriod p s.bndAt else s
  | none => s

/-- The accepted T_c takes effect at its boundary (R22). [assumption 187 (DEDUCED)] -/
def execPeriodChangeApply (s : State) : Host.Outcome State Fault Refusal := .next s.perDue

/-! ### The boundary (R16, R19) -/

/-- A boundary opens the next period: PER_START, the load of the period that ended, and for each cell the block a
downlink overrun left for this period's frame (R16, R24, R37). [assumption 189 (DEDUCED)] -/
def State.bndOpen (s : State) (load hi port : Nat) : State :=
  let s := { s with pidx := s.pidx + 1, bndAt := s.bndAt + s.tc, window := 0, ovrSeen := false, gapSample := none }
  let s := s.irq TBS.page 0
  let s := (s.set ICX.LOAD_LOAD_NOW load).set ICX.LOAD_LOAD_MAX (max load (s.get ICX.LOAD_LOAD_MAX))
  let s := (s.set ICX.LOAD_HI_SHARE hi).set ICX.LOAD_PORT port
  let s := s.dsvDoneT
  s.each (List.range 48) (fun s n => s.modCell n (fun c => { c with blkNow := c.blkNext, blkNext := false, rptNow := false }))

/-- What every block does at a boundary: reload events and leg blocks, machines, contexts, lanes, the grid of the
converters, routes, the Settle pair, admission, an ARM that takes effect, and the time stamps. -/
def State.bndBlocks (s : State) : State :=
  s.chBoundary.legBoundary.mcxBoundary.leBoundary.blkBoundary.adcBoundary.failover.stlBoundary.joinTry.armEffect
    |>.canBoundary.ptpBoundary

/-- A period boundary falls, one T_c after the last (R16, R27); the windows stand still while the clocks do. -/
def execPeriodBoundary (load hi port : BitVec 8) (s : State) : Host.Outcome State Fault Refusal :=
  let s := s.perDue
  let s := (s.advance (s.bndAt + s.tc)).slpGo
  .next (if s.dark then s else (s.bndOpen load.toNat hi.toNat port.toNat).bndBlocks)

/-! ### Overruns (R24–R28, R36) -/

/-- The reaction set in OVR_ACT for window `w`: 0 LOG, 1 HOLD, 2 BLOCK, 3 TRIP (R36). -/
def State.ovrAct (s : State) (w : Nat) : Nat := s.get ⟨TBS.OVR_ACT, 2 * w, 2⟩

/-- A detection sets the window's flag and event, and counts the period once (R24). -/
def State.ovrFlag (s : State) (w : Nat) : State :=
  let s := (s.set ⟨TBS.OVR_STAT, w, 1⟩ 1).irq TBS.page (1 + w)
  if s.ovrSeen then s else { (s.bump TBS.OVR_CNT_CNT) with ovrSeen := true }

/-- A count that says the run has escalated; HOLD_LIM is at most 7 (R25). [assumption 192 (DEDUCED)] -/
abbrev ovrEsc : Nat := 8

/-- The reaction in force for one unit of a window: HOLD escalates to BLOCK after HOLD_LIM periods of the run, with
ESCALATE in its first escalated period (R25). [assumption 192 (DEDUCED)] -/
def State.ovrReact (s : State) (w u : Nat) : Nat × State :=
  let act := s.ovrAct w
  let key := 64 * w + u
  let run := SMap.get (fun _ => 0) s.ovrRun key
  let put := fun (s : State) (v : Nat) => { s with ovrRun := SMap.put (fun _ => 0) s.ovrRun key v }
  if act = 1 then
    if s.get TBS.OVR_ACT_HOLD_LIM ≤ run then
      (2, (put s ovrEsc).iff (run != ovrEsc) (fun s => (s.set TBS.OVR_STAT_ESCALATE 1).irq TBS.page 5))
    else (1, put s (run + 1))
  else (act, put s 0)

/-- A period in which a unit does not overrun ends its run (R25). -/
def State.ovrNone (s : State) (w u : Nat) : State := { s with ovrRun := SMap.put (fun _ => 0) s.ovrRun (64 * w + u) 0 }

/-- An overrun of one unit: detected, and its reaction. -/
def State.overrun (s : State) (w u : Nat) : Nat × State := (s.ovrFlag w).ovrReact w u

/-- Under the reaction TRIP every output trips with source OVR, once for the window, while the stage is ARMED (R24,
R28). [assumption 231 (DEDUCED)] -/
def State.ovrTrip (s : State) (w : Nat) (any : Bool) : State :=
  if any && s.ovrAct w == 3 && s.armed then s.tripOvr else s

/-- An overrun reaction blocks a cell's frame in this period; the Grainer's next pass knows of it (R24, R78).
[assumption 231 (DEDUCED)] -/
def State.ovrBlock (s : State) (n : Nat) : State :=
  if s.armed then s.modCell n (fun c => { c with blkNow := true, blkSeen := true }) else s

/-! ### The close of the uplink window (R18, R24, R54) -/

/-- A status frame of this period was due on the lane: it was UP when the period opened. [assumption 190 (DEDUCED)] -/
def State.statDue (s : State) (n : Nat) : Bool := s.ln n == lnUP && decide ((s.lane n).since < s.bndAt ∨ s.bndAt = 0)

/-- STALE of a cell. -/
abbrev staleFld (n : Nat) : Fld := GRN.CELL_STATE_STALE (n / 8) (n % 8)

/-- One cell at the close of the uplink window. [assumption 190 (DEDUCED)] -/
def State.uplCell (s : State) (n : Nat) : State :=
  let s := s.modCell n (fun c => { c with upEsc := false })
  if s.ln n ≠ lnUP then
    let s := (s.modCell n (fun c => { c with rx := none })).ovrNone 0 n
    if (s.cell n).seen.testBit 6 then s.set (staleFld n) 1 else s
  else if (s.cell n).rx.isSome then ((s.ovrNone 0 n).set (staleFld n) 0).latchStatus n
  else if !s.statDue n then s.ovrNone 0 n
  else
    let held := s.ovrAct 0 == 1
    let (act, s) := s.overrun 0 n
    let s := s.set (mapBit TBS.UPL_LATE_MAP0 TBS.UPL_LATE_MAP1 n) 1
    let s := s.iff (act != 0) (fun s => s.set (staleFld n) 1)
    if act = 2 then (s.ovrBlock n).modCell n (fun c => { c with upEsc := held }) else s

/-- The uplink window closes: status fields are latched, late cells marked, missing flows and sets counted, and the
loop-engine window opens (R18, R24, R188). [assumption 189 (DEDUCED)] -/
def execUplinkWindowClose (s : State) : Host.Outcome State Fault Refusal :=
  .next (if s.dark || s.window != 0 then s
    else
      let s := (s.perDue.advance (s.bndAt + s.get TBS.PER_WIN0_W_UPL * t10))
      let s := { s with window := 1 }
      let s := (s.setReg TBS.UPL_LATE_MAP0 0).setReg TBS.UPL_LATE_MAP1 0
      let s := s.each (List.range 48) State.uplCell
      let s := s.ovrTrip 0 (s.reg TBS.UPL_LATE_MAP0 != 0 || s.reg TBS.UPL_LATE_MAP1 != 0)
      let s := s.mcxLatch.gapCount.flowMiss
      s.stlUplClose.leOpen s.leGated)

/-! ### The close of the loop-engine window (R18, R24, R35) -/

/-- One engine: an engine that has not finished aborts its unfinished contexts. -/
def State.leClose (s : State) (e : Nat) : State :=
  if (s.leUnfinished e).isEmpty then s.ovrNone 1 e
  else
    let (act, s) := s.overrun 1 e
    s.leWindowAbort e act

/-- LE_SLACK: the smallest margin of the last 1,024 periods, 0 for one with an overrun; where no context ran, the window
is left whole (R35). [assumption 191 (DEDUCED)] -/
def State.leSlack (s : State) (late : Bool) : State :=
  let win := (s.get TBS.PER_WIN0_W_LE - s.get TBS.PER_WIN0_W_UPL) * t10
  let m := if late then 0 else (win - s.leBusiest * tLe) / t10
  let l := (m :: s.slack).take 1024
  ({ s with slack := l }).set TBS.LE_SLACK_SLACK_MIN (l.foldl min 0xFFFF)

/-- The loop-engine window closes: the engines have run their contexts up to here, unfinished contexts are aborted, outputs published, shadows captured, and the
Grainer and solver window opens with the Grainer's pass (R18, R24, R49, R113). -/
def execLeWindowClose (s : State) : Host.Outcome State Fault Refusal :=
  .next (if s.dark || decide (1 < s.window) then s
    else
      let s := (s.advance (s.bndAt + s.get TBS.PER_WIN0_W_LE * t10))
      let s := { s.iff (!s.leGated) State.leRunAll with window := 2 }
      let es := (List.range 16).filter (fun e => !(s.leUnfinished e).isEmpty)
      let s := ((s.each (List.range 16) State.leClose).leUsed).leSlack (!es.isEmpty)
      let s := if es.isEmpty then s else s.set TBS.LE_OVR_MAP_ENG (maskOf es)
      let s := s.ovrTrip 1 (!es.isEmpty)
      let s := s.lePublish.leTableWrites
      let s := s.iff (!s.leGated) (fun s => s.each (List.range 16) State.moveCopy)
      let s := (s.afeFromPubs 4).captureAll
      let s := s.flowTx.dozeCommit.parApply.grnLeaves
      if s.leGated || s.stlIdle then s else s.dsvOpen.grainerPass.grnCapture)

/-! ### The solver and the close of the Grainer and solver window (R95–R97, R120) -/

/-- The DSV makes a pass: neither gated in DOZE or SLEEP nor held by a pair that is not ACTIVE (R331, R408). -/
def State.dsvRuns (s : State) : Bool := !(s.dark || s.leGated || s.stlIdle)

/-- The DSV solves its cells, and MOD converts the values to events (R96, R120). -/
def execDsvSolve (s : State) : Host.Outcome State Fault Refusal :=
  .next (if s.dsvRuns && s.window == 2 && decide (s.now < s.bndAt + s.get TBS.PER_WIN1_W_GD * t10) then s.dsvSolve.modCompute else s)

/-- The cells whose set is not complete at the close (R24, R97). [assumption 195 (DEDUCED)] -/
def State.gdLate (s : State) : List Nat :=
  if s.dsvRuns then (List.range 48).filter (fun n => (s.dsv n).on && !(s.dsv n).solved) else []

/-- One cell whose set is late: its frame repeats the previous one, or carries BLOCK (R24). -/
def State.gdCell (s : State) (late : List Nat) (n : Nat) : State :=
  if late.contains n then
    let (act, s) := s.overrun 2 n
    match act with
    | 1 => s.modCell n (fun c => { c with rptNow := true })
    | 2 => s.ovrBlock n
    | _ => s
  else s.ovrNone 2 n

/-- The Grainer and solver window closes: values are latched, late cells react, and each lane's frame is composed and
sent (R18, R48, R95, R155, R330). -/
def execGdWindowClose (s : State) : Host.Outcome State Fault Refusal :=
  .next (if s.dark || decide (2 < s.window) then s
    else
      let s := (s.advance (s.bndAt + s.get TBS.PER_WIN1_W_GD * t10))
      let s := { s with window := 3 }
      let late := s.gdLate
      let s := (s.each (List.range 48) (fun s n => s.gdCell late n)).ovrTrip 2 (!late.isEmpty)
      let s := s.iff s.dsvRuns (fun s => s.grnLatch.dsvLatch)
      (s.modCompute.composeAll s.leGated).mirrorSend)

/-! ### The close of the downlink window (R18, R24, R329) -/

/-- A frame was composed for the cell in this period, and not cut off. [assumption 194 (DEDUCED)] -/
def State.frameDue (s : State) (n : Nat) : Bool :=
  s.ln n == lnUP && decide (0 < (s.lane n).sentN) && (s.lane n).sched.pidx == s.pidx + 1 && (s.lane n).schedTx.isSome

/-- One cell: a frame not sent in full is aborted; under BLOCK the cell's next frame carries BLOCK (R24).
[assumption 194 (DEDUCED)] -/
def State.dlCell (s : State) (unsent : BitVec 48) (n : Nat) : State :=
  if s.frameDue n && unsent.getLsbD n then
    let (act, s) := s.overrun 3 n
    if act = 2 && s.armed then s.modCell n (fun c => { c with blkNext := true, blkSeen := true }) else s
  else s.ovrNone 3 n

/-- The downlink window closes; `unsent` has a bit for each cell whose frame was not sent in full (R24, R329).
[assumption 189 (DEDUCED)] -/
def execDlWindowClose (unsent : BitVec 48) (s : State) : Host.Outcome State Fault Refusal :=
  .next (if s.dark || decide (3 < s.window) then s
    else
      let s := (s.advance (s.bndAt + s.get TBS.PER_WIN1_W_DL * t10))
      let s := { s with window := 4 }
      let due := (List.range 48).filter s.frameDue
      let s := s.each (List.range 48) (fun s n => s.dlCell unsent n)
      let s := s.ovrTrip 3 (due.any (fun n => unsent.getLsbD n))
      s.stlDlClose (due.any (fun n => !unsent.getLsbD n)))

/-! ### The crossbar (R31–R33, R37) -/

/-- A P3 request was granted after `wait` bus cycles (R32, R37). -/
def execP3Starve (wait : BitVec 24) (s : State) : Host.Outcome State Fault Refusal :=
  let w := wait.toNat
  let s := s.set ICX.P3_WAIT_MAX_WAIT (max w (s.get ICX.P3_WAIT_MAX_WAIT))
  .next (s.iff (decide (s.get ICX.P3_STARVE_THR_THR < w)) (fun s => (s.bump ICX.P3_STARVE_CNT_CNT).irq ICX.page 0))

/-- The bound of a class in bus cycles, with the bursts and the single-word accesses of its class that are queued ahead at
the same target port (R31). -/
def waitBound (cls bursts singles : Nat) : Nat := (match cls with | 0 => 24 | 1 => 48 | _ => 600) + 24 * bursts + 2 * singles

/-- A grant of class P0, P1 or P2 came after a wait, with requests of its class ahead of it: beyond its bound it is a
violation, logged and reported to the safety cores (R33). [assumption 198 (DEDUCED)] -/
def execBoundViol (cls : Fin 3) (wait : BusWait) (s : State) : Host.Outcome State Fault Refusal :=
  .next (if wait.cycles ≤ waitBound cls.val wait.bursts wait.singles then s
    else
      let s := (s.set ⟨ICX.BOUND_VIOL, cls.val, 1⟩ 1).irq ICX.page 1
      (s.logEvt ICX.page 1).safBound cls.val)

/-- A write of 0 to P3_STARVE_CNT clears the count and LOAD_MAX (R37). -/
def State.starveClear (s : State) : State :=
  s.judge ICX.page 0x48 [] (fun s => (s.setReg ICX.P3_STARVE_CNT 0).set ICX.LOAD_LOAD_MAX 0)

/-- P3_STARVE_CNT is cleared (R37). -/
def execP3StarveCntClear (s : State) : Host.Outcome State Fault Refusal := .next s.starveClear

end Sys2Proof.Machine
end

