-- ==== Sys2Proof/Machine/Pages.lean ====
section
/-! DEFINITION. Host writes to the register pages: the header, re-initialisation, the routing of every register to its
block's rules, and the transfers of host DMA channels (R8–R11, R479–R487, R494, R519). -/

namespace Sys2Proof.Machine

/-- A write that meets no condition but those named takes the fields by their access types. -/
def State.plainWrite (s : State) (k : PageKind) (pg ofs : Nat) (val : Word) (conds : List (Bool × Nat)) : State :=
  s.judge pg ofs conds (fun s => s.take k pg ofs val)

/-! ### Re-initialisation (R484) -/

/-- Registers of a page that a re-initialisation keeps: those its chapter names (R35, R143, R303), and those that show
lines, time bases and the flash, which no page function holds. [assumption 203 (DEDUCED)] -/
def reinitKeeps (k : PageKind) (ofs : Nat) : Bool :=
  match k with
  | .mem => decide (0x98 ≤ ofs ∧ ofs ≤ 0xA4)
  | .thm => ofs == 0x80 || decide (0x88 ≤ ofs ∧ ofs ≤ 0x94)
  | .tbs => !([0x110, 0x114, 0x118, 0x11C, 0x120, 0x124].contains ofs)
  | .trp => [0x74, 0x78, 0x84, 0x88].contains ofs
  | .pair => pairKeeps ofs
  | .adc => ofs == 0x40
  | .modc => ofs == 0x44
  | .stl => ofs == 0x48 || ofs == 0x4C
  | .nvl => [0x54, 0x58, 0x94, 0x98, 0x9C].contains ofs
  | _ => false

/-- The block registers of a page return to their reset values; RWL fields keep theirs while the page is locked.
[assumptions 193, 203 (DEDUCED)] -/
def State.reinitRegs (s : State) (k : PageKind) (pg : Nat) : State :=
  let lk := s.locked pg
  s.each ((s.regs.map (·.1)).filter (fun a => decide (pg + 0x40 ≤ a ∧ a < pg + 0x1000) && !reinitKeeps k (a - pg)))
    (fun s a =>
      let m := match rowAt k (a - pg) with
        | some (row, _) => if lk then row.rwl else 0
        | none => 0
      s.setReg a (BitVec.ofNat 32 (((s.reg a).toNat &&& m) ||| ((resetWord a).toNat &&& (0xFFFFFFFF ^^^ m)))))

/-- The function of a page stops and its claims are released, before its registers are reset (R484, R491).
[assumption 204 (DEDUCED)] -/
def State.reinitStop (s : State) (k : PageKind) (i : Nat) : State :=
  match k with
  | .dma => s.each (List.range 32) (fun s n => { (s.release (resKey 3 n) 12 n) with dmaN := s.dmaN.filter (· != n) })
  | .modch => s.each (List.range 8) (fun s j => s.setChan (8 * i + j) (chanDefault (8 * i + j)))
  | .lpw => s.each ((List.range 12).filter (fun k => (s.claim (resKey 2 k)).cls == 1))
      (fun s k => (s.release (resKey 2 k) 1 k).legStop k)
  | .grn => s.grnLeaves.each (List.range 8) (fun s k =>
      (s.each (s.members k) (fun s n => s.grnLeave k n)).setStack k {})
  | .dsv => { (s.each (List.range 48) (fun s n => ((s.chSync (2 * n + 1)).release (resKey 1 (2 * n + 1)) 3 n).setDsv n {})) with dsvDone := 0 }
  | .lex => (s.leReinit i).2
  | .leg => s.islReinit i
  | .mcx =>
    let s := s.iff s.isl (fun s => (s.each ((s.machines).filter s.mEn) State.machDisable).each
      ((List.range 4).filter s.chEn) State.chopDisable)
    let s := s.rsvStop.encStop
    { s with mcx := { sine := s.mcx.sine, adv := s.mcx.adv } }
  | .pair => s.pairReinit i
  | .lane => s.lnOff i
  | .trl => (s.each (List.range 8) (fun s k => s.tlDown k 4)).modTrl (fun x =>
      { rateAcc := x.rateAcc, rateAt := x.rateAt, chgTx := x.chgTx, epochIdx := x.epochIdx, marks := x.marks, markTx := x.markTx,
        holdAt := x.holdAt, redisc := x.redisc })
  | .stl => if s.on STL.CFG_EN && !s.locked STL.page then s.stlStop else s
  | .can => if s.canOn i then (s.canDisable i).modCan i (fun x => { x with txq := [] }) else s
  | .eth =>
    let s := s.iff (s.on (ETH.PTP_STAT_VALID i)) (fun s => s.ptpFail i)
    ((s.ptpFold i).iff (s.ethOn i) (fun s => s.ethDisable i)).modEth i (fun x => { x with tx := none, pend := none, tsq := [], tsqLost := none })
  | .nvl => s.modNvl (fun x => { x with cmd := none })
  | _ => s

/-- What follows the reset of the registers: outputs and states that other parts decide are shown again. -/
def State.reinitDone (s old : State) (k : PageKind) (i : Nat) : State :=
  match k with
  | .lpw => s.refreshLegs
  | .trp =>
    let off := (List.range 8).filter (fun n => (old.get TRP.CFG_EN).testBit n && !(s.get TRP.CFG_EN).testBit n)
    s.each off (fun s n => ((s.iff (decide (5 ≤ n)) (fun s => s.release (resKey 4 (n - 5)) 13 n)).set
      ⟨TRP.STAT, n, 1⟩ 0).srcActive n false)
  | .grn => (s.each (List.range 48) (fun s n =>
      (s.setCst n (if s.ln n == lnUP then ckBYPASSED else ckABSENT)).modCell n (fun c =>
        { c with cmd := 0, srcs := 0, faultSrc := 0, bypFail := false, trimOn := false, trickle := 0, role := 0, dwell := 0,
                 ovlAbove := 0, ovlBelow := 0, ovlLimited := false, slot := none, reinsert := false }))).grnSource
  | .dsv => s.dsvBudget
  | .lex => ((s.iff ((old.leReinit i).1) (fun s => s.irq (LEX.page i) 2)).setB (LEX.ENG_STAT_MOVING i)
      (s.eng i).move.isSome).leRefresh i
  | .leg => s.islReinitDone i (old.reg (LEG.STAT i))
  | .mcx => s.mcxSource.refreshLegs
  | .trl => s.trlStraps
  | .stl => s.set STL.BUDGET_USED s.mlUsed
  | .eth => (s.modEth i (fun x => x.become (s.ethTime s.now) (s.ptp i s.now) 34359738368)).tsqShow i
  | .tbs => { s with slack := [] }
  | .thm => s.tsAbsent.setB THM.STAT_SOC_BLIND (s.get THM.EXCL_MAP % 16 == 15)
  | _ => s

/-- The pages whose REINIT is refused (R484). -/
def reinitBad (k : PageKind) : Bool := [.sys, .clk, .pll, .pwr, .aon, .intc, .saf, .sec, .pin].contains k

/-- The pages on which CTRL.EN has a use (R482). -/
def enUsed (k : PageKind) : Bool := [.lex, .leg, .pair, .can, .eth].contains k

/-- A re-initialisation acts: the function stops, events, refusal and registers are cleared, CTRL.LOCK stays.
[assumptions 130, 193 (DEDUCED)] -/
def State.pageReinit (s : State) (k : PageKind) (pg i : Nat) : State :=
  let t := (s.reinitStop k i).reinitRegs k pg
  let t := (t.setReg (HDR.IRQ_RAW pg) 0).setReg (HDR.ERR_CODE pg) 0
  let t := t.iff (enUsed k) (fun t => (t.set (HDR.CTRL_EN pg) 0).set (HDR.CTRL_HOLD pg) 0)
  t.reinitDone s k i

/-! ### The header (R481–R485) -/

/-- CTRL.EN changes, on a page where it has a use. -/
def State.enSet (s : State) (k : PageKind) (i : Nat) (en : Bool) : State :=
  match k, en with
  | .lex, true => s.set (HDR.CTRL_EN (LEX.page i)) 1
  | .lex, false => s.leDisable i
  | .leg, true => s.islEnable i
  | .leg, false => s.islDisable i
  | .pair, true => s.pairEnable i
  | .pair, false => s.pairDisable i
  | .can, true => s.after (execCanEnable (Fin.ofNat 4 i))
  | .can, false => s.canDisable i
  | .eth, true => s.after (execEthEnable (Fin.ofNat 2 i))
  | .eth, false => s.ethDisable i
  | _, _ => s

/-- A write to CTRL: REINIT, then EN, then HOLD and LOCK; an EN that is refused leaves the others as they are (R482,
R484, R485). REINIT_BUSY lasts 10 µs. [assumption 201 (DEDUCED)] -/
def State.ctrlWrite (s : State) (k : PageKind) (pg i : Nat) (val : Word) : State :=
  let en := getBits val 0 1 == 1
  let re := getBits val 1 1 == 1
  let cur := s.on (HDR.CTRL_EN pg)
  s.judge pg 0x0C
    [(re && reinitBad k, eSTATE), (k == .saf && !re, 0x40), (!enUsed k && cur && !en, eSTATE), (!enUsed k && !cur && en, eNOT_FITTED),
     (k == .leg && en && !s.isl, eNOT_FITTED)] (fun s =>
    let s := s.iff re (fun s => s.pageReinit k pg i)
    let s := if en == s.on (HDR.CTRL_EN pg) then s else s.enSet k i en
    let s := if en == s.on (HDR.CTRL_EN pg) then
        let s := s.iff (k == .lex) (fun s => s.set (HDR.CTRL_HOLD pg) (getBits val 3 1))
        s.iff (getBits val 2 1 == 1) (fun s => s.set (HDR.CTRL_LOCK pg) 1)
      else s
    if re then { s with reinit := (s.reinit.filter (fun r => r.1 != pg)) ++ [(pg, s.now + 10 * tUs)] } else s)

/-- Bits of IRQ_RAW are cleared, but for events of the same bus cycle; those of the ADC common page follow their pairs (R307, R483).
[assumption 200 (DESIGN CHOICE)] -/
def State.rawClear (s : State) (k : PageKind) (pg ofs : Nat) (mask : Word) : State :=
  s.judge pg ofs [(k == .saf && ofs == 0x14, 0x40)] (fun s =>
    if k == .adc then s else s.setReg (HDR.IRQ_RAW pg) (s.reg (HDR.IRQ_RAW pg) &&& ~~~(mask &&& ~~~s.evNow pg)))

/-- A write to IRQ_PEND clears its bits in IRQ_PEND and IRQ_RAW (R483). [assumption 199 (DEDUCED)] -/
def State.pendClear (s : State) (k : PageKind) (pg : Nat) (mask : Word) : State :=
  s.rawClear k pg 0x1C (mask &&& s.reg (HDR.IRQ_EN pg))

/-- A write to a header register (R481). -/
def State.headWrite (s : State) (k : PageKind) (pg i ofs : Nat) (val : Word) : State :=
  match ofs with
  | 0x0C => s.ctrlWrite k pg i val
  | 0x14 => s.rawClear k pg 0x14 val
  | 0x18 => s.judge pg 0x18 [] (fun s => s.setReg (HDR.IRQ_EN pg) val)
  | 0x1C => s.pendClear k pg val
  | 0x20 => s.judge pg 0x20 [(k == .saf, 0x40)] (fun s => s.iff (getBits val 20 1 == 1) (fun s => s.set (HDR.ERR_CODE_MULTI pg) 0))
  | _ => s.judge pg ofs [(k == .saf, 0x40)] id

/-! ### The block registers, page kind by page kind -/

/-- A write whose command bit is 0: nothing happens, but for a page that is re-initialised (R484). -/
def State.noCmd (s : State) (pg ofs : Nat) : State := s.judge pg ofs [] id

/-- Slot `j` of a register file that begins at `base` with `n` slots of `w` bytes, and the offset in it.
[assumption 205 (DEDUCED)] -/
def slotOf (base n w ofs : Nat) : Option (Nat × Nat) :=
  if base ≤ ofs ∧ ofs < base + n * w then some ((ofs - base) / w, (ofs - base) % w) else none

/-- The phase of slot 0 lies below T_car of the stack's front-end carriers (R42, R139). [assumption 205 (DEDUCED)] -/
def State.slotPhBad (s : State) (k : Nat) (val : Word) : Bool :=
  match s.members k with
  | n :: _ => decide (2 * s.get (MODCH.PRD_PRD (2 * n)) ≤ getBits val 0 18)
  | [] => false

def State.clkWrite (s : State) (ofs : Nat) (val : Word) : State :=
  if ofs = 0x44 then s.after (execClkGateWrite val) else s.plainWrite .clk CLK.page ofs val []

def State.pllWrite (s : State) (n ofs : Nat) (val : Word) : State :=
  match ofs with
  | 0x40 => s.pcfgWritePll n val
  | 0x44 => s.pfracWrite n val
  | 0x48 => s.plainWrite .pll (PLL.page n) ofs val
      [(getBits val 0 8 == 0 || decide (getBits val 8 13 < 16 ∨ 4096 < getBits val 8 13), eRANGE)]
  | _ => match slotOf 0x60 8 4 ofs with
    | some (k, 0) => s.pllOutWrite n k val
    | _ => s.plainWrite .pll (PLL.page n) ofs val []

def State.pwrWrite (s : State) (ofs : Nat) (val : Word) : State :=
  match ofs with
  | 0x40 => s.pwrCmdWrite val
  | 0x48 =>
    let key := val.extractLsb' 8 8
    match getBits val 0 2 with
    | 1 => s.after (execArm key)
    | 2 => s.after (execDisarm key)
    | _ => s.judge PWR.page ofs [(key != 0xA5, eKEY), (true, eRANGE)] id
  | 0x4C => s.plainWrite .pwr PWR.page ofs val [(decide (getBits val 16 16 < 1400 ∨ 2000 < getBits val 16 16), eRANGE)]
  | _ => s.plainWrite .pwr PWR.page ofs val []

def State.thmWrite (s : State) (ofs : Nat) (val : Word) : State :=
  s.plainWrite .thm THM.page ofs val [(ofs == 0x40 && decide (getBits val 0 8 < 80 ∨ 130 < getBits val 0 8), eRANGE)]

def State.memWrite (s : State) (ofs : Nat) (val : Word) : State :=
  match ofs with
  | 0x40 => s.plainWrite .mem MEM.page ofs val
      [(decide (getBits val 4 17 < 64) || decide (getBits val 21 9 < 1 ∨ 300 < getBits val 21 9), eRANGE)]
  | 0x4C => s.plainWrite .mem MEM.page ofs val [(getBits val 0 16 == 0 || getBits val 16 16 == 0, eRANGE)]
  | 0x74 => if val.getLsbD 31 then s.after (execPclr (val.extractLsb' 21 5) (val.extractLsb' 0 21)) else s.noCmd MEM.page ofs
  | 0x78 => s.testCfgWrite val
  | 0x8C => if getBits val 0 2 = 0 then s.noCmd MEM.page ofs else (s.iff (val.getLsbD 0) (fun s => s.after execTestWrRaw)).iff (val.getLsbD 1) (fun s => s.after execTestRdRaw)
  | _ => match slotOf 0x98 4 4 ofs, slotOf 0xC0 16 8 ofs with
    | some (n, 0), _ =>
      if val.getLsbD 12 then s.after (execRemapGo (Fin.ofNat 4 n) (val.extractLsb' 0 12)) else s.plainWrite .mem MEM.page ofs val []
    | _, some (n, r) => s.critWrite n (r == 4) val
    | _, _ => s.plainWrite .mem MEM.page ofs val []

def State.icxWrite (s : State) (ofs : Nat) (val : Word) : State :=
  if ofs = 0x48 then (if val = 0 then s.starveClear else s.judge ICX.page ofs [] id) else s.plainWrite .icx ICX.page ofs val []

def State.dmaWriteReg (s : State) (ofs : Nat) (val : Word) : State :=
  match slotOf 0x100 32 16 ofs with
  | some (n, 0xC) => s.dmaCfgWrite n val
  | some _ => s.dmaRegWrite ofs val
  | none => s.judge DMA.page ofs [] id

def State.intcWrite (s : State) (ofs : Nat) (val : Word) : State :=
  match slotOf 0x50 2 4 ofs with
  | some (x, 0) => s.after (execIntcComplete (Fin.ofNat 2 x) (val.extractLsb' 0 8))
  | _ => s.plainWrite .intc INTC.page ofs val []

/-- A host write to the TBS page (R35, R339). [assumption 197 (DEDUCED)] -/
def State.tbsWrite (s : State) (ofs : Nat) (val : Word) : State :=
  match ofs with
  | 0x40 => (s.plainWrite .tbs TBS.page ofs val [(getBits val 0 2 == 3 || decide (500 < getBits val 16 9), eRANGE)]).rateCap
  | 0x44 => s.tcmdWrite val
  | 0x100 => s.periodWrite val
  | 0x10C => s.plainWrite .tbs TBS.page ofs val [(getBits val 8 3 == 0, eRANGE)]
  | _ => s.plainWrite .tbs TBS.page ofs val []

def State.modcWrite (s : State) (ofs : Nat) (val : Word) : State :=
  if ofs = 0x40 then s.modCfgWrite val
  else s.plainWrite .modc MOD.page ofs val [((slotOf 0x48 8 4 ofs).any (fun q => s.slotPhBad q.1 val), eRANGE)]

def State.modchWrite (s : State) (p ofs : Nat) (val : Word) : State :=
  if ofs = 0x40 then s.chpgWrite p val
  else match slotOf 0x80 8 0x20 ofs with
    | some (j, r) => s.chWrite (8 * p + j) r val
    | none => s.judge (MODCH.page p) ofs [] id

def State.lpwWrite (s : State) (ofs : Nat) (val : Word) : State :=
  if ofs = 0x40 then s.lpwCtlWrite val
  else match slotOf 0x80 12 0x20 ofs with
    | some (k, r) => s.legWrite k r val
    | none => s.judge LPW.page ofs [] id

def State.trpWrite (s : State) (ofs : Nat) (val : Word) : State :=
  match ofs with
  | 0x40 => s.trpCfgWrite val
  | 0x44 | 0x48 => s.judge TRP.page ofs [] (fun s => (s.take .trp TRP.page ofs val).trpEval)
  | 0x74 => s.flagClear false (getBits val 8 8)
  | 0x78 => s.flagClear true (getBits val 0 8)
  | 0x7C => s.rearm (getBits val 0 16)
  | 0x80 => if val.getLsbD 0 then s.after execTrpSwtrip else s.noCmd TRP.page ofs
  | _ => s.plainWrite .trp TRP.page ofs val []

/-- The classes FLT_CLS allows each fault: 0 LOG to 4 MODULE (R75, R76). -/
def fltClsBad (val : Word) : Bool :=
  (List.range 8).any (fun i =>
    let c := getBits val (3 * i) 3
    let lo := if i = 4 then 0 else if i = 7 then 3 else 2
    let hi := if i = 4 then 2 else 4
    decide (c < lo ∨ hi < c))

def State.grnWrite (s : State) (ofs : Nat) (val : Word) : State :=
  let plain := fun (b : Bool) => s.plainWrite .grn GRN.page ofs val [(b, eRANGE)]
  match ofs with
  | 0xB4 => plain (decide (getBits val 16 16 < getBits val 0 16))
  | 0xB8 => plain (getBits val 0 16 == 0 || decide (100 < getBits val 16 7))
  | 0xC0 => plain (getBits val 8 8 == 0)
  | 0xC4 => plain (fltClsBad val)
  | 0xC8 => s.cellCmd (getBits val 0 6) (getBits val 8 3)
  | 0xCC => s.stkCmd (getBits val 0 3) (getBits val 4 3)
  | 0x144 => s.gapCfgWrite val
  | 0x148 => plain (getBits val 0 4 == 0 || getBits val 4 4 == 0)
  | _ => match slotOf 0x40 6 4 ofs, slotOf 0x60 8 4 ofs with
    | some (k, 0), _ => s.cellStkWrite k val
    | _, some (k, 0) => s.stkCfgWrite k val
    | _, _ => plain false

def State.dsvWrite (s : State) (ofs : Nat) (val : Word) : State :=
  match ofs with
  | 0x44 => s.dsvEnWrite 0 val
  | 0x48 => s.dsvEnWrite 1 val
  | 0x68 => s.parCommit (getBits val 0 6)
  | _ => s.plainWrite .dsv DSV.page ofs val []

def State.lexWrite (s : State) (e ofs : Nat) (val : Word) : State :=
  match ofs with
  | 0x44 => s.ctxEnWrite e (getBits val 0 16)
  | 0x48 => s.ctxHoldWrite e (getBits val 0 16)
  | 0x50 => s.plainWrite .lex (LEX.page e) ofs val [((List.range 16).any (fun k => getBits val (2 * k) 2 == 3), eRANGE)]
  | 0x58 => s.cqPush e val
  | 0x74 => s.moveWrite e val
  | 0x7C => s.testWrite e val
  | _ => match slotOf 0x100 16 0x20 ofs with
    | some (_, 0) | some (_, 4) => s.ctxRegWrite e ofs val
    | _ => s.plainWrite .lex (LEX.page e) ofs val []

def State.legPgWrite (s : State) (k ofs : Nat) (val : Word) : State :=
  match ofs with
  | 0x40 | 0x44 | 0x48 | 0x4C | 0x50 | 0x54 => s.islCfgWrite k ofs val
  | 0x60 => if val.getLsbD 0 then s.fltClr k else s.noCmd (LEG.page k) ofs
  | 0x74 => if val.getLsbD 0 then s.islTest k else s.noCmd (LEG.page k) ofs
  | 0xC0 | 0xC4 | 0xC8 | 0xCC => if k = 0 then s.busPolWrite ofs val else s.judge (LEG.page k) ofs [] id
  | _ => s.plainWrite .leg (LEG.page k) ofs val []

def State.mcxWrite (s : State) (ofs : Nat) (val : Word) : State :=
  let plain := fun (b : Bool) => s.plainWrite .mcx MCX.page ofs val [(s.isl && b, eRANGE)]
  match ofs with
  | 0x40 => s.mcxCfgWrite val
  | 0x48 => s.judge MCX.page ofs [] (fun s => s.tblAccess true val)
  | 0x58 => plain (decide (getBits val 6 3 < 1 ∨ 4 < getBits val 6 3) || decide (getBits val 16 16 < 50 ∨ 10000 < getBits val 16 16))
  | 0x5C => plain (getBits val 16 8 == 0)
  | 0x60 => plain (decide (getBits val 0 12 < 10) || decide (getBits val 12 3 < 1 ∨ 4 < getBits val 12 3))
  | 0x64 => plain (decide (getBits val 0 10 < 500 ∨ 1000 < getBits val 0 10))
  | 0x70 => s.chopClear (getBits val 0 4)
  | 0x200 => s.rsvCfgWrite val
  | 0x20C => s.encCfgWrite val
  | 0x210 => if val.getLsbD 0 then s.after execEncAlign else s.noCmd MCX.page ofs
  | _ => match slotOf 0x100 2 0x80 ofs, slotOf 0x300 4 0x20 ofs with
    | some (m, 0), _ => s.machCfgWrite m val
    | some (m, 8), _ => s.machCmd m (getBits val 0 3)
    | some (_, 0x28), _ => plain (getBits val 8 8 == 0 || getBits val 16 8 == 0 || decide (64 < getBits val 24 8))
    | some (_, 0x2C), _ => plain (decide (getBits val 16 12 < 1 ∨ 100 < getBits val 16 12))
    | _, some (c, 0) => s.chopCfgWrite c val
    | _, some (_, 8) => plain (!minonOk (getBits val 16 16) (s.get MCX.CHF_CFG_CHF_T))
    | _, _ => plain false

def State.pairWrite (s : State) (p ofs : Nat) (val : Word) : State :=
  match ofs with
  | 0x40 => s.pcfgWrite p val
  | 0x44 => s.gainWrite p val
  | 0x58 => s.judge (PAIR.page p) ofs [] (fun s => s.segGo p (getBits val 0 4))
  | 0x5C => s.urg0Write p val
  | 0x64 => s.urgSwWrite p val
  | 0x180 | 0x184 => s.bufCfgWrite p ofs val
  | 0x1A0 | 0x1A4 | 0x1A8 => s.calWrite p ofs val
  | 0x1AC => if val.getLsbD 0 then s.calGo p else s.noCmd (PAIR.page p) ofs
  | _ => match slotOf 0x48 4 4 ofs, slotOf 0x80 32 4 ofs, slotOf 0x100 16 8 ofs with
    | some (k, 0), _, _ => s.segWrite p k val
    | _, some (e, 0), _ => s.seqWrite p e val
    | _, _, some (j, 0) => s.strWrite p j val
    | _, _, _ => s.plainWrite .pair (PAIR.page p) ofs val []

def State.blkWrite (s : State) (ofs : Nat) (val : Word) : State :=
  match ofs with
  | 0x40 => s.blkCfgWrite val
  | 0x44 => s.blkTmoWrite val
  | _ => s.plainWrite .blk BLK.page ofs val []

def State.laneWrite (s : State) (n ofs : Nat) (val : Word) : State :=
  match ofs with
  | 0x40 => s.laneCfgWrite n val
  | 0x44 => s.laneTxeqWrite n val
  | 0x78 => s.creqWrite n val
  | _ => s.plainWrite .lane (LANE.page n) ofs val []

def State.trlWrite (s : State) (ofs : Nat) (val : Word) : State :=
  match ofs with
  | 0x40 => s.trlCfgWrite val
  | 0x5C => s.rediscWrite val
  | _ => match slotOf 0x80 8 4 ofs, slotOf 0x100 64 8 ofs with
    | some (_, 0), _ => s.plainWrite .trl TRL.page ofs val [(decide (getBits val 8 5 < 8 + getBits val 0 3 + getBits val 16 4), eRANGE)]
    | _, some (f, 0) => s.fcfgWrite f val
    | _, _ => s.plainWrite .trl TRL.page ofs val []

def State.stlWrite (s : State) (ofs : Nat) (val : Word) : State :=
  match ofs with
  | 0x40 => s.stlCfgWrite val
  | 0x44 => s.stlTmoWrite val
  | 0x58 => s.stlCmd (getBits val 0 2)
  | 0x5C => if val.getLsbD 0 then s.after execStlKeep else s.noCmd STL.page ofs
  | _ => match slotOf 0x80 64 4 ofs with
    | some (e, 0) => s.mlistWrite e val
    | _ => s.plainWrite .stl STL.page ofs val []

/-- Writes to a CAN page. Whether an abort meets a frame that has begun is the bus's affair: a free choice (R380).
[assumption 143 (DESIGN CHOICE)] -/
def State.canWrite (s : State) (c ofs : Nat) (val : Word) : State :=
  let k : Fin 4 := Fin.ofNat 4 c
  match ofs with
  | 0x50 => if val.getLsbD 0 then s.after (execCanRestart k) else s.noCmd (CAN.page c) ofs
  | 0x58 => s.judge (CAN.page c) ofs [] (fun s => (s.take .can (CAN.page c) ofs val).canTscRestart c (s.get (CAN.TSC_CFG_PRESC c)))
  | 0x78 => s.after (execRxqAck k val)
  | 0x80 => if val.getLsbD 0 then s.after (execTxqPush k) else s.noCmd (CAN.page c) ofs
  | 0x84 => let (i, s) := s.free; s.after (execTxqAbort k val (Config.freeBool i))
  | _ => s.plainWrite .can (CAN.page c) ofs val (s.canCfgConds c ofs val)

def State.ethWrite (s : State) (p ofs : Nat) (val : Word) : State :=
  let k : Fin 2 := Fin.ofNat 2 p
  match ofs with
  | 0x60 => if val.getLsbD 0 then s.after (execTxKick k) else s.noCmd (ETH.page p) ofs
  | 0x84 => s.after (execPtpIncWrite k val)
  | 0x88 => s.after (execPtpAdj k val)
  | 0x98 => if getBits val 0 2 = 0 then s.noCmd (ETH.page p) ofs else (s.iff (val.getLsbD 0) (fun s => s.after (execPtpSet k))).iff (val.getLsbD 1) (fun s => s.after (execPtpCapture k))
  | 0xAC => s.after (execPtpValidWrite k (val.getLsbD 0))
  | 0xC0 => if val.getLsbD 0 then s.after (execTsqPop k) else s.noCmd (ETH.page p) ofs
  | 0xC4 => if val.getLsbD 27 then s.after (execMdioGo k val) else s.plainWrite .eth (ETH.page p) ofs val [(s.on (ETH.MDIO_GO p), eBUSY)]
  | _ => (s.plainWrite .eth (ETH.page p) ofs val (s.ethCfgConds p ofs val)).ethRing p

def State.secWrite (s : State) (ofs : Nat) (val : Word) : State :=
  match ofs with
  | 0x44 => if val.getLsbD 3 then s.after (execLcReq (val.extractLsb' 0 3)) else s
  | 0x48 => match getBits val 0 2 with
    | 1 => s.after execDbgClose
    | 2 => s.after execDbgOpen
    | 3 => s.after execDbgAuth
    | _ => s
  | 0x60 => s.plainWrite .sec SEC.page ofs val [(getBits val 0 2 == 3, eRANGE)]
  | 0x68 => if val.getLsbD 7 then s.after (execRbAdv (val.extractLsb' 0 7)) else s
  | 0x6C =>
    if val.getLsbD 1 then s.after (execKprovRevoke (val.extractLsb' 2 8))
    else if val.getLsbD 0 then s.after (execKprov (val.extractLsb' 2 8)) else s
  | 0x74 => if val.getLsbD 0 then s.after execChalNew else s
  | _ => s.plainWrite .sec SEC.page ofs val []

def State.nvlWrite (s : State) (ofs : Nat) (val : Word) : State :=
  match ofs with
  | 0x40 => if getBits val 0 2 = 0 then s.judge NVL.page ofs [(true, eRANGE)] id else s.nvlStart (getBits val 0 2) (val.getLsbD 2)
  | 0x5C => s.after (execLogSelect val)
  | 0x90 => if val.getLsbD 31 then s.after (execLogPut (val.extractLsb' 0 16)) else s.noCmd NVL.page ofs
  | 0x98 => s.rcvCfgWrite val
  | 0x9C => s.plainWrite .nvl NVL.page ofs val [(decide (getBits val 0 8 < 5 ∨ 200 < getBits val 0 8), eRANGE)]
  | 0xA0 => s.heartWrite (getBits val 0 8)
  | 0xA4 => s.nvlResetWrite val
  | _ => s.plainWrite .nvl NVL.page ofs val []

/-- A write to a block register of a page, by the rules of its block. -/
def State.blockWrite (s : State) (k : PageKind) (i ofs : Nat) (val : Word) : State :=
  match k with
  | .sys => s.judge SYS.page ofs [] id
  | .clk => s.clkWrite ofs val
  | .pll => s.pllWrite i ofs val
  | .pwr => s.pwrWrite ofs val
  | .aon => if ofs = 0x48 then s.rtcWrite val else s.plainWrite .aon AON.page ofs val []
  | .thm => s.thmWrite ofs val
  | .mem => s.memWrite ofs val
  | .icx => s.icxWrite ofs val
  | .dma => s.dmaWriteReg ofs val
  | .mpu => s.plainWrite .mpu MPU.page ofs val []
  | .intc => s.intcWrite ofs val
  | .tbs => s.tbsWrite ofs val
  | .modc => s.modcWrite ofs val
  | .modch => s.modchWrite i ofs val
  | .lpw => s.lpwWrite ofs val
  | .trp => s.trpWrite ofs val
  | .grn => s.grnWrite ofs val
  | .dsv => s.dsvWrite ofs val
  | .lex => s.lexWrite i ofs val
  | .leg => s.legPgWrite i ofs val
  | .mcx => s.mcxWrite ofs val
  | .adc => s.judge ADC.page ofs [] id
  | .pair => s.pairWrite i ofs val
  | .blk => s.blkWrite ofs val
  | .lane => s.laneWrite i ofs val
  | .trl => s.trlWrite ofs val
  | .stl => s.stlWrite ofs val
  | .can => s.canWrite i ofs val
  | .eth => s.ethWrite i ofs val
  | .saf => s.judge SAF.page ofs [(true, 0x40)] id
  | .sec => s.secWrite ofs val
  | .nvl => s.nvlWrite ofs val
  | .pin => if ofs = 0x40 then s.after (execPinQuery val) else s.plainWrite .pin PIN.page ofs val []

/-! ### A write by its address (R8, R479) -/

/-- A word written to a page; none for a bus error. -/
def State.periWrite (s : State) (a : Nat) (val : Word) : Option State :=
  if a % 4 ≠ 0 then none
  else match pageOf a with
    | none => none
    | some (r, i) =>
      let pg := r.base + 0x1000 * i
      let ofs := a - pg
      some (if s.pageGated pg then s else if ofs < 0x40 then s.headWrite r.kind pg i ofs val else s.blockWrite r.kind i ofs val)

/-- The peripheral region (R8). -/
def inPeri (a : Nat) : Bool := decide (0x40000000 ≤ a ∧ a < 0x50000000)

/-- A host write of `bytes` bytes at an address: only whole aligned words reach a page, and the bus answers an error
elsewhere (R8, R479). A write to a memory is a master's write. [assumptions 7 (DESIGN CHOICE); 206 (DEDUCED)] -/
def execRegWrite (addr bytes : Nat) (val : Word) (s : State) : Host.Outcome State Fault Refusal :=
  .next (if !inPeri addr then s.masterWrite addr (leBytes bytes val.toNat)
    else match (if bytes = 4 then s.periWrite addr val else none) with
      | some t => { t with resp := .ok }
      | none => { s with resp := .busError })

/-- The index of a page within its row, by its line. -/
def instOfLine (l : Nat) : Nat :=
  match pageOf (pageOfLine l) with
  | some (_, i) => i
  | none => 0

/-- A write to CTRL of the page of a line. -/
def State.lineCtrl (s : State) (l : Nat) (val : Word) : State :=
  s.ctrlWrite (kindOfLine l) (pageOfLine l) (instOfLine l) val

/-- PAGE_REINIT: the write sets REINIT (R484). [assumption 202 (DEDUCED)] -/
def execPageReinit (line : Fin 130) (val : Word) (s : State) : Host.Outcome State Fault Refusal :=
  .next (s.lineCtrl line.val (val ||| 2))

/-- PAGE_LOCK: the write sets LOCK (R485). -/
def execPageLock (line : Fin 130) (val : Word) (s : State) : Host.Outcome State Fault Refusal :=
  .next (s.lineCtrl line.val (val ||| 4))

/-- CTRL_EN_WRITE (R482). -/
def execCtrlEnWrite (line : Fin 130) (val : Word) (s : State) : Host.Outcome State Fault Refusal :=
  .next (s.lineCtrl line.val val)

/-- IRQ_PEND_CLEAR (R483). [assumption 199 (DEDUCED)] -/
def execIrqPendClear (line : Fin 130) (mask : Word) (s : State) : Host.Outcome State Fault Refusal :=
  .next (s.pendClear (kindOfLine line.val) (pageOfLine line.val) mask)

/-! ### What a page reads as (R9, R401, R481) -/

/-- Registers that show what other parts of the state hold: the domains that run, the interrupt controller's lines,
clocks, permissions and queues. [assumption 155 (DESIGN CHOICE)] -/
def State.liveWord (s : State) (k : PageKind) (i ofs : Nat) (w : Word) : Word :=
  match k, ofs with
  | .clk, 0x40 =>
    BitVec.ofNat 32 (maskOf ((List.range 16).filter (fun d => s.domRuns d && !s.gated d)))
  | .aon, 0x48 => BitVec.ofNat 32 s.rtcNow.1
  | .aon, 0x4C => BitVec.ofNat 32 s.rtcNow.2
  | .can, 0x54 => BitVec.ofNat 32 (s.tsc i s.now)
  | .can, 0x90 => if s.canOn i && s.on (CAN.MODE_TT i) then putBits w 0 16 (s.canCyc i s.now) else w
  | .sec, 0x40 =>
    let hrs := match s.sec.svcEnd with | some t => (t - s.now + 3600 * tS - 1) / (3600 * tS) | none => 0
    putBits (putBits (putBits w 6 1 (if s.armPermit then 1 else 0)) 7 1 (if s.frzPermit then 1 else 0)) 16 10 hrs
  | .sec, 0x70 => putBits w 7 1 (if s.secBusy then 1 else 0)
  | .sec, 0x50 => match s.sec.dbgEnd with | some t => BitVec.ofNat 32 ((t - s.now + tS - 1) / tS) | none => w
  | .leg, 0x58 => putBits w 9 1 (if s.islIdle i then 1 else 0)
  | .nvl, 0x50 => putBits (putBits w 1 1 (if s.nvl.qspi.isSome then 1 else 0)) 8 6 s.logQ.length
  | .leg, o => if 0xC0 ≤ o ∧ o ≤ 0xD0 then s.reg (LEG.page 0 + o) else w
  | .pin, 0x44 =>
    let h := if s.get PIN.QRY_RCLS = 0 then ({} : Claim) else s.claim (resKey (s.get PIN.QRY_RCLS) (s.get PIN.QRY_RIDX))
    BitVec.ofNat 32 (h.cls + 256 * h.inst + 65536 * h.subCls + 16777216 * h.subInst)
  | .intc, o => match slotOf 0x100 130 4 o with
    | some (l, 0) => putBits w 8 1 (if s.lineOn l then 1 else 0)
    | _ => w
  | _, _ => w

/-- The holder OWNER shows: of a leg, or of a pair's buffer channel (R493). -/
def State.ownerWord (s : State) (k : PageKind) (i : Nat) : Word :=
  let h := match k with
    | .leg => s.claim (resKey 2 i)
    | .pair => if s.on (PAIR.PCFG_BUF_EN i) then s.claim (resKey 3 (s.get (PAIR.PCFG_DMA_CH i))) else {}
    | _ => {}
  BitVec.ofNat 32 (h.cls + 256 * h.inst)

/-- The word a read returns, and what the read itself does: a claim taken, a table index stepped, a code seen.
[assumptions 7 (DESIGN CHOICE); 208 (DEDUCED)] -/
def State.pageRead (s : State) (a : Nat) : Option (Word × State) :=
  if a % 4 ≠ 0 then none
  else match pageOf a with
    | none => none
    | some (r, i) =>
      let pg := r.base + 0x1000 * i
      let ofs := a - pg
      let w := s.reg a
      match ofs with
      | 0x0C => some (putBits w 1 1 (if s.busy pg then 1 else 0), s)
      | 0x10 => some (BitVec.ofNat 32 (s.statWord pg), s)
      | 0x14 => some (s.rawOf pg, s)
      | 0x1C => some (s.rawOf pg &&& s.reg (HDR.IRQ_EN pg), s)
      | 0x20 => some (w, { s with errRead := s.errRead.filter (· != pg) ++ [pg] })
      | 0x24 => some (s.ownerWord r.kind i, s)
      | _ =>
        if r.kind == .intc && (ofs == 0x48 || ofs == 0x4C) then
          let l := s.bestLine ((ofs - 0x48) / 4)
          some (BitVec.ofNat 32 l, s.iff (l != 0xFF) (fun s => s.set (INTC.SRC_ACT l) 1))
        else if r.kind == .mcx && ofs == 0x48 then
          let t := s.tblAccess false 0
          some (match t.resp with | .value v => v | _ => 0, { t with resp := s.resp })
        else some (s.liveWord r.kind i ofs w, s)

/-! ### Host DMA (R494, R495) -/

/-- One word of a transfer: read, then written, under the MPU; none where the channel stops. -/
def State.dmaWord (s : State) (n src dst : Nat) : Option Word × State :=
  if !s.mpuOk src 4 false then (none, s.dmaStop n true)
  else match (if inPeri src then s.pageRead src
      else (s.ramRead src 4).map (fun (b : List Byte) => (BitVec.ofNat 32 (leNat b 0 4), s))) with
    | none => (none, s.dmaStop n false)
    | some (w, s) =>
      if !s.mpuOk dst 4 true then (none, s.dmaStop n true)
      else match (if inPeri dst then s.periWrite dst w else s.masterPut dst (leBytes 4 w.toNat)) with
        | none => (none, s.dmaStop n false)
        | some t => (some w, t)

/-- The words of a transfer, in order, until the channel stops: whether it ran to its end. [assumption 208 (DEDUCED)] -/
def State.dmaWords (s : State) (n src dst : Nat) : Nat → Nat → Bool × State
  | 0, _ => (true, s)
  | k + 1, i =>
    match s.dmaWord n (src + 4 * i) (dst + 4 * i) with
    | (some _, t) => t.dmaWords n src dst k (i + 1)
    | (none, t) => (false, t)

/-- A transfer of a host channel completes: LEN bytes have moved and DONE is set, or it stopped with ERR (R494). One in
flight at an entry to SLEEP finishes (R409). [assumption 208 (DEDUCED)] -/
def execDmaDone (n : Fin 32) (s : State) : Host.Outcome State Fault Refusal :=
  if !s.dmaN.contains n.val || s.dark then .next s
  else
    let slp := s.pwr.slp
    let s := s.modPwr (fun x => { x with slp := none })
    let s := { s with dmaN := s.dmaN.filter (· != n.val) }
    let r := s.dmaWords n (s.get (DMA.CH_SRC_ADDR n)) (s.get (DMA.CH_DST_ADDR n)) (s.get (DMA.CH_LEN_LEN n) / 4) 0
    let s := if r.1 then ((r.2.set (DMA.CH_CFG_DONE n) 1).set (DMA.CH_CFG_GO n) 0).irq DMA.page n else r.2
    .next (s.modPwr (fun x => { x with slp := if slp.isSome then slp else x.slp }))

end Sys2Proof.Machine
end

