-- ==== Sys2Proof/Machine/Dispatch.lean ====
section
/-! DEFINITION. The meaning of every command: one arm per constructor, each one call of its meaning. -/

namespace Sys2Proof.Machine

/-- The effect of a command on everything but the queue. -/
def exec (i : Instr) (s : State) : Host.Outcome State Fault Refusal :=
  match i with
  | .regWrite addr bytes val => Sys2Proof.Machine.execRegWrite addr bytes val s
  | .pageReinit line val => Sys2Proof.Machine.execPageReinit line val s
  | .pageLock line val => Sys2Proof.Machine.execPageLock line val s
  | .ctrlEnWrite line val => Sys2Proof.Machine.execCtrlEnWrite line val s
  | .irqPendClear line mask => Sys2Proof.Machine.execIrqPendClear line mask s
  | .periodBoundary load hi port => Sys2Proof.Machine.execPeriodBoundary load hi port s
  | .uplinkWindowClose => Sys2Proof.Machine.execUplinkWindowClose s
  | .leWindowClose => Sys2Proof.Machine.execLeWindowClose s
  | .gdWindowClose => Sys2Proof.Machine.execGdWindowClose s
  | .dlWindowClose unsent => Sys2Proof.Machine.execDlWindowClose unsent s
  | .periodWrite val => Sys2Proof.Machine.execPeriodWrite val s
  | .periodChangeReceipt period at_ => Sys2Proof.Machine.execPeriodChangeReceipt period at_ s
  | .periodChangeApply => Sys2Proof.Machine.execPeriodChangeApply s
  | .p3Starve wait => Sys2Proof.Machine.execP3Starve wait s
  | .boundViol cls wait => Sys2Proof.Machine.execBoundViol cls wait s
  | .p3StarveCntClear => Sys2Proof.Machine.execP3StarveCntClear s
  | .stkEnable k val => Sys2Proof.Machine.execStkEnable k val s
  | .stkDisable k val => Sys2Proof.Machine.execStkDisable k val s
  | .stkModeWrite k val => Sys2Proof.Machine.execStkModeWrite k val s
  | .cellStkWrite k val => Sys2Proof.Machine.execCellStkWrite k val s
  | .cellCmdBypass cell => Sys2Proof.Machine.execCellCmdBypass cell s
  | .cellCmdReinsert cell => Sys2Proof.Machine.execCellCmdReinsert cell s
  | .cellCmdSpare cell => Sys2Proof.Machine.execCellCmdSpare cell s
  | .cellCmdTest cell => Sys2Proof.Machine.execCellCmdTest cell s
  | .cellCmdClear cell => Sys2Proof.Machine.execCellCmdClear cell s
  | .cellCmdRelease cell => Sys2Proof.Machine.execCellCmdRelease cell s
  | .stkCmdPrecharge k => Sys2Proof.Machine.execStkCmdPrecharge k s
  | .stkCmdRun k => Sys2Proof.Machine.execStkCmdRun k s
  | .stkCmdStop k => Sys2Proof.Machine.execStkCmdStop k s
  | .stkCmdUnblock k => Sys2Proof.Machine.execStkCmdUnblock k s
  | .gapIn => Sys2Proof.Machine.execGapIn s
  | .gapOut => Sys2Proof.Machine.execGapOut s
  | .bypFail n => Sys2Proof.Machine.execBypFail n s
  | .overloadLimit n => Sys2Proof.Machine.execOverloadLimit n s
  | .overloadRelease n => Sys2Proof.Machine.execOverloadRelease n s
  | .dsvSolve => Sys2Proof.Machine.execDsvSolve s
  | .dsvCellEnable n => Sys2Proof.Machine.execDsvCellEnable n s
  | .dsvCellDisable n => Sys2Proof.Machine.execDsvCellDisable n s
  | .parCommit cell => Sys2Proof.Machine.execParCommit cell s
  | .parDone => Sys2Proof.Machine.execParDone s
  | .carrierValley ch => Sys2Proof.Machine.execCarrierValley ch s
  | .carrierPeak ch => Sys2Proof.Machine.execCarrierPeak ch s
  | .chPrdWrite ch val => Sys2Proof.Machine.execChPrdWrite ch val s
  | .legEnable k val => Sys2Proof.Machine.execLegEnable k val s
  | .legDisable k val => Sys2Proof.Machine.execLegDisable k val s
  | .tripInput n level held => Sys2Proof.Machine.execTripInput n level held s
  | .trpSwtrip => Sys2Proof.Machine.execTrpSwtrip s
  | .trpFlagClear internal mask => Sys2Proof.Machine.execTrpFlagClear internal mask s
  | .trpRearm mask => Sys2Proof.Machine.execTrpRearm mask s
  | .tripInputEnable val => Sys2Proof.Machine.execTripInputEnable val s
  | .halt src => Sys2Proof.Machine.execHalt src s
  | .clockStop => Sys2Proof.Machine.execClockStop s
  | .haltEnd src => Sys2Proof.Machine.execHaltEnd src s
  | .laneEnable n val => Sys2Proof.Machine.execLaneEnable n val s
  | .laneDisable n val => Sys2Proof.Machine.execLaneDisable n val s
  | .blockLock rx => Sys2Proof.Machine.execBlockLock rx s
  | .blockLockLoss rx => Sys2Proof.Machine.execBlockLockLoss rx s
  | .helloTimer n => Sys2Proof.Machine.execHelloTimer n s
  | .helloRx n f => Sys2Proof.Machine.execHelloRx n f s
  | .helloTmo n => Sys2Proof.Machine.execHelloTmo n s
  | .echoReplyRx n eid turn rtt => Sys2Proof.Machine.execEchoReplyRx n eid turn rtt s
  | .echoTimeout n => Sys2Proof.Machine.execEchoTimeout n s
  | .measureLimit n => Sys2Proof.Machine.execMeasureLimit n s
  | .sopenRetry n => Sys2Proof.Machine.execSopenRetry n s
  | .sackRx n f => Sys2Proof.Machine.execSackRx n f s
  | .cfgackRx n f => Sys2Proof.Machine.execCfgackRx n f s
  | .cfgAckTimeout n => Sys2Proof.Machine.execCfgAckTimeout n s
  | .statusRx n f => Sys2Proof.Machine.execStatusRx n f s
  | .statMiss n => Sys2Proof.Machine.execStatMiss n s
  | .downRetry n => Sys2Proof.Machine.execDownRetry n s
  | .tmarkSend n => Sys2Proof.Machine.execTmarkSend n s
  | .dtCfgSend n => Sys2Proof.Machine.execDtCfgSend n s
  | .creqGo n val => Sys2Proof.Machine.execCreqGo n val s
  | .prbsStart n val => Sys2Proof.Machine.execPrbsStart n val s
  | .prbsEnd n errs => Sys2Proof.Machine.execPrbsEnd n errs s
  | .sscSet val => Sys2Proof.Machine.execSscSet val s
  | .ctxEnable e mask => Sys2Proof.Machine.execCtxEnable e mask s
  | .scanComplete e k => Sys2Proof.Machine.execScanComplete e k s
  | .ctxDisable e mask => Sys2Proof.Machine.execCtxDisable e mask s
  | .ctxHoldSet e mask => Sys2Proof.Machine.execCtxHoldSet e mask s
  | .ctxHoldClear e mask => Sys2Proof.Machine.execCtxHoldClear e mask s
  | .contextStart e => Sys2Proof.Machine.execContextStart e s
  | .leEnd e => Sys2Proof.Machine.execLeEnd e s
  | .leNop e => Sys2Proof.Machine.execLeNop e s
  | .leLil e vd imm => Sys2Proof.Machine.execLeLil e vd imm s
  | .leLih e vd imm => Sys2Proof.Machine.execLeLih e vd imm s
  | .leMov e vd va => Sys2Proof.Machine.execLeMov e vd va s
  | .leCvt e vd va t => Sys2Proof.Machine.execLeCvt e vd va t s
  | .leAdd e vd va vb t => Sys2Proof.Machine.execLeAdd e vd va vb t s
  | .leSub e vd va vb t => Sys2Proof.Machine.execLeSub e vd va vb t s
  | .leMul e vd va vb t => Sys2Proof.Machine.execLeMul e vd va vb t s
  | .leMac e vd va vb t => Sys2Proof.Machine.execLeMac e vd va vb t s
  | .leDiv e vd va vb t => Sys2Proof.Machine.execLeDiv e vd va vb t s
  | .leSqrt e vd va t => Sys2Proof.Machine.execLeSqrt e vd va t s
  | .leAbs e vd va t => Sys2Proof.Machine.execLeAbs e vd va t s
  | .leNeg e vd va t => Sys2Proof.Machine.execLeNeg e vd va t s
  | .leMin e vd va vb t => Sys2Proof.Machine.execLeMin e vd va vb t s
  | .leMax e vd va vb t => Sys2Proof.Machine.execLeMax e vd va vb t s
  | .leAddi e vd va imm => Sys2Proof.Machine.execLeAddi e vd va imm s
  | .leAnd e vd va vb => Sys2Proof.Machine.execLeAnd e vd va vb s
  | .leOr e vd va vb => Sys2Proof.Machine.execLeOr e vd va vb s
  | .leXor e vd va vb => Sys2Proof.Machine.execLeXor e vd va vb s
  | .leSha e vd va imm => Sys2Proof.Machine.execLeSha e vd va imm s
  | .leLds e vd idx => Sys2Proof.Machine.execLeLds e vd idx s
  | .leSts e vd idx => Sys2Proof.Machine.execLeSts e vd idx s
  | .leLdc e vd idx => Sys2Proof.Machine.execLeLdc e vd idx s
  | .leLdm e vd va imm => Sys2Proof.Machine.execLeLdm e vd va imm s
  | .leStm e vd va imm => Sys2Proof.Machine.execLeStm e vd va imm s
  | .leIn e vd idx wait => Sys2Proof.Machine.execLeIn e vd idx wait s
  | .leOut e vd idx => Sys2Proof.Machine.execLeOut e vd idx s
  | .leGetf e vd => Sys2Proof.Machine.execLeGetf e vd s
  | .leBr e off => Sys2Proof.Machine.execLeBr e off s
  | .leBc e va vb cond t off => Sys2Proof.Machine.execLeBc e va vb cond t off s
  | .leBinit e off => Sys2Proof.Machine.execLeBinit e off s
  | .leLoop e n len => Sys2Proof.Machine.execLeLoop e n len s
  | .lePi e vd va sb cb ff => Sys2Proof.Machine.execLePi e vd va sb cb ff s
  | .lePid e vd va sb cb ff => Sys2Proof.Machine.execLePid e vd va sb cb ff s
  | .leBiq e vd va sb cb => Sys2Proof.Machine.execLeBiq e vd va sb cb s
  | .leLlag e vd va sb cb => Sys2Proof.Machine.execLeLlag e vd va sb cb s
  | .leLim e vd va cb dpri => Sys2Proof.Machine.execLeLim e vd va cb dpri s
  | .leSat e vd va cb t => Sys2Proof.Machine.execLeSat e vd va cb t s
  | .leRamp e vd va sb cb => Sys2Proof.Machine.execLeRamp e vd va sb cb s
  | .leTlu e vd va cb => Sys2Proof.Machine.execLeTlu e vd va cb s
  | .leClarke e vd va two => Sys2Proof.Machine.execLeClarke e vd va two s
  | .lePark e vd va => Sys2Proof.Machine.execLePark e vd va s
  | .leIpark e vd va => Sys2Proof.Machine.execLeIpark e vd va s
  | .leSincos e vd va => Sys2Proof.Machine.execLeSincos e vd va s
  | .leObsv e vd va sb cb => Sys2Proof.Machine.execLeObsv e vd va sb cb s
  | .leHandover e vd va sb cb ang trk => Sys2Proof.Machine.execLeHandover e vd va sb cb ang trk s
  | .cqPush e val => Sys2Proof.Machine.execCqPush e val s
  | .ctxMove e val => Sys2Proof.Machine.execCtxMove e val s
  | .moveCheckDone e => Sys2Proof.Machine.execMoveCheckDone e s
  | .engineTest e val => Sys2Proof.Machine.execEngineTest e val s
  | .engineTestDone e pass => Sys2Proof.Machine.execEngineTestDone e pass s
  | .machineEnable m val => Sys2Proof.Machine.execMachineEnable m val s
  | .machineDisable m val => Sys2Proof.Machine.execMachineDisable m val s
  | .machRun m => Sys2Proof.Machine.execMachRun m s
  | .machStop m => Sys2Proof.Machine.execMachStop m s
  | .machAsc m => Sys2Proof.Machine.execMachAsc m s
  | .machInhibit m => Sys2Proof.Machine.execMachInhibit m s
  | .machClear m => Sys2Proof.Machine.execMachClear m s
  | .mcxCompare m => Sys2Proof.Machine.execMcxCompare m s
  | .mcxEvaluation => Sys2Proof.Machine.execMcxEvaluation s
  | .loss m => Sys2Proof.Machine.execLoss m s
  | .reacq m => Sys2Proof.Machine.execReacq m s
  | .extrapTimeout m => Sys2Proof.Machine.execExtrapTimeout m s
  | .ctxLost m => Sys2Proof.Machine.execCtxLost m s
  | .rgnViol m => Sys2Proof.Machine.execRgnViol m s
  | .prechgStep m => Sys2Proof.Machine.execPrechgStep m s
  | .chopperEnable u val => Sys2Proof.Machine.execChopperEnable u val s
  | .chopperDisable u val => Sys2Proof.Machine.execChopperDisable u val s
  | .chopperCheck u n => Sys2Proof.Machine.execChopperCheck u n s
  | .chfAscTimeout => Sys2Proof.Machine.execChfAscTimeout s
  | .chopperClear mask => Sys2Proof.Machine.execChopperClear mask s
  | .sineSwap val => Sys2Proof.Machine.execSineSwap val s
  | .tblDataAccess write val => Sys2Proof.Machine.execTblDataAccess write val s
  | .resolverEnable val => Sys2Proof.Machine.execResolverEnable val s
  | .resolverPeak sinC cosC => Sys2Proof.Machine.execResolverPeak sinC cosC s
  | .encoderEnable val => Sys2Proof.Machine.execEncoderEnable val s
  | .encoderEdge a b z => Sys2Proof.Machine.execEncoderEdge a b z s
  | .encAlign => Sys2Proof.Machine.execEncAlign s
  | .encSpeedTimeout => Sys2Proof.Machine.execEncSpeedTimeout s
  | .islandEnable k => Sys2Proof.Machine.execIslandEnable k s
  | .islandCmdChange k h l => Sys2Proof.Machine.execIslandCmdChange k h l s
  | .interlockVerify k high => Sys2Proof.Machine.execInterlockVerify k high s
  | .ilTmo k high => Sys2Proof.Machine.execIlTmo k high s
  | .blankEnd k high above => Sys2Proof.Machine.execBlankEnd k high above s
  | .dsatDetect k high => Sys2Proof.Machine.execDsatDetect k high s
  | .govDetect k high => Sys2Proof.Machine.execGovDetect k high s
  | .softOffEnd k high => Sys2Proof.Machine.execSoftOffEnd k high s
  | .supUv k pos neg => Sys2Proof.Machine.execSupUv k pos neg s
  | .bstCharged k => Sys2Proof.Machine.execBstCharged k s
  | .bstLost k => Sys2Proof.Machine.execBstLost k s
  | .adaptStep k kind time => Sys2Proof.Machine.execAdaptStep k kind time s
  | .fltClr k => Sys2Proof.Machine.execFltClr k s
  | .faultReport k => Sys2Proof.Machine.execFaultReport k s
  | .staggeredSoftOff k high => Sys2Proof.Machine.execStaggeredSoftOff k high s
  | .islandTest k => Sys2Proof.Machine.execIslandTest k s
  | .islandTestDone k fail => Sys2Proof.Machine.execIslandTestDone k fail s
  | .segmentTrigger p k => Sys2Proof.Machine.execSegmentTrigger p k s
  | .segGo p mask => Sys2Proof.Machine.execSegGo p mask s
  | .entryIssue p => Sys2Proof.Machine.execEntryIssue p s
  | .conversionDone p raw => Sys2Proof.Machine.execConversionDone p raw s
  | .urgentRequest p src u => Sys2Proof.Machine.execUrgentRequest p src u s
  | .urgSwGo p val => Sys2Proof.Machine.execUrgSwGo p val s
  | .urgentIssue p => Sys2Proof.Machine.execUrgentIssue p s
  | .adcCalibrate p => Sys2Proof.Machine.execAdcCalibrate p s
  | .calDone p calA calB skew => Sys2Proof.Machine.execCalDone p calA calB skew s
  | .bufWordWritten p => Sys2Proof.Machine.execBufWordWritten p s
  | .trlLaneEnable k => Sys2Proof.Machine.execTrlLaneEnable k s
  | .trlLaneUp k hdrs msgs echoes => Sys2Proof.Machine.execTrlLaneUp k hdrs msgs echoes s
  | .neighbourSend k => Sys2Proof.Machine.execNeighbourSend k s
  | .neighbourMsgRx k msg => Sys2Proof.Machine.execNeighbourMsgRx k msg s
  | .neighbourLoss k hdrs => Sys2Proof.Machine.execNeighbourLoss k hdrs s
  | .rediscGo => Sys2Proof.Machine.execRediscGo s
  | .rediscoveryDone r => Sys2Proof.Machine.execRediscoveryDone r s
  | .flowValueRx f val k => Sys2Proof.Machine.execFlowValueRx f val k s
  | .timeMarkSend k => Sys2Proof.Machine.execTimeMarkSend k s
  | .timeMarkRx k mark => Sys2Proof.Machine.execTimeMarkRx k mark s
  | .discAcquire => Sys2Proof.Machine.execDiscAcquire s
  | .discLost => Sys2Proof.Machine.execDiscLost s
  | .timeCapture => Sys2Proof.Machine.execTimeCapture s
  | .timeStep => Sys2Proof.Machine.execTimeStep s
  | .stlEnable val => Sys2Proof.Machine.execStlEnable val s
  | .partnerRelease => Sys2Proof.Machine.execPartnerRelease s
  | .partnerAssert => Sys2Proof.Machine.execPartnerAssert s
  | .driveAcquire => Sys2Proof.Machine.execDriveAcquire s
  | .settleActivate => Sys2Proof.Machine.execSettleActivate s
  | .keepTimeout => Sys2Proof.Machine.execKeepTimeout s
  | .stlKeep => Sys2Proof.Machine.execStlKeep s
  | .stlHandover => Sys2Proof.Machine.execStlHandover s
  | .stlReturnNow => Sys2Proof.Machine.execStlReturnNow s
  | .holdoffExpiry => Sys2Proof.Machine.execHoldoffExpiry s
  | .handback => Sys2Proof.Machine.execHandback s
  | .handoverReclaim => Sys2Proof.Machine.execHandoverReclaim s
  | .mirrorRx m => Sys2Proof.Machine.execMirrorRx m s
  | .syncLost => Sys2Proof.Machine.execSyncLost s
  | .startTimeout => Sys2Proof.Machine.execStartTimeout s
  | .partnerStuck => Sys2Proof.Machine.execPartnerStuck s
  | .cfgDigest theirs => Sys2Proof.Machine.execCfgDigest theirs s
  | .safetySample a b rbA rbB srst => Sys2Proof.Machine.execSafetySample a b rbA rbB srst s
  | .safetyCycle differ bad => Sys2Proof.Machine.execSafetyCycle differ bad s
  | .discFault p => Sys2Proof.Machine.execDiscFault p s
  | .testPulseStart o chB => Sys2Proof.Machine.execTestPulseStart o chB s
  | .testPulseEnd o chB offOk onOk seenA seenB => Sys2Proof.Machine.execTestPulseEnd o chB offOk onOk seenA seenB s
  | .srstEdge q both => Sys2Proof.Machine.execSrstEdge q both s
  | .evisafeRx => Sys2Proof.Machine.execEvisafeRx s
  | .evisafeTx k => Sys2Proof.Machine.execEvisafeTx k s
  | .evisafeTexp k => Sys2Proof.Machine.execEvisafeTexp k s
  | .evisafeReopen k => Sys2Proof.Machine.execEvisafeReopen k s
  | .canEnable k => Sys2Proof.Machine.execCanEnable k s
  | .canDisable k => Sys2Proof.Machine.execCanDisable k s
  | .canFrameRx k f ago => Sys2Proof.Machine.execCanFrameRx k f ago s
  | .rxqAck k val => Sys2Proof.Machine.execRxqAck k val s
  | .txqPush k => Sys2Proof.Machine.execTxqPush k s
  | .txqAbort k val sof => Sys2Proof.Machine.execTxqAbort k val sof s
  | .canTxDone k res ago => Sys2Proof.Machine.execCanTxDone k res ago s
  | .canError k kind tx big dat => Sys2Proof.Machine.execCanError k kind tx big dat s
  | .canRestart k => Sys2Proof.Machine.execCanRestart k s
  | .busoffRecovered k => Sys2Proof.Machine.execBusoffRecovered k s
  | .ttReference k f ago => Sys2Proof.Machine.execTtReference k f ago s
  | .ttMasterRef k => Sys2Proof.Machine.execTtMasterRef k s
  | .refMiss k => Sys2Proof.Machine.execRefMiss k s
  | .ttTrigger k j => Sys2Proof.Machine.execTtTrigger k j s
  | .ethEnable p => Sys2Proof.Machine.execEthEnable p s
  | .ethFrameRx p data fcs ago => Sys2Proof.Machine.execEthFrameRx p data fcs ago s
  | .txKick p => Sys2Proof.Machine.execTxKick p s
  | .ethTxDone p ok ago => Sys2Proof.Machine.execEthTxDone p ok ago s
  | .linkChange p up speed an => Sys2Proof.Machine.execLinkChange p up speed an s
  | .ptpIncWrite p val => Sys2Proof.Machine.execPtpIncWrite p val s
  | .ptpAdj p val => Sys2Proof.Machine.execPtpAdj p val s
  | .ptpSet p => Sys2Proof.Machine.execPtpSet p s
  | .ptpCapture p => Sys2Proof.Machine.execPtpCapture p s
  | .tsqPop p => Sys2Proof.Machine.execTsqPop p s
  | .ptpValidWrite p v => Sys2Proof.Machine.execPtpValidWrite p v s
  | .mdioGo p val => Sys2Proof.Machine.execMdioGo p val s
  | .mdioDone p data => Sys2Proof.Machine.execMdioDone p data s
  | .clkGateWrite val => Sys2Proof.Machine.execClkGateWrite val s
  | .clockMonitor fail => Sys2Proof.Machine.execClockMonitor fail s
  | .xtFail => Sys2Proof.Machine.execXtFail s
  | .pllLocked n band => Sys2Proof.Machine.execPllLocked n band s
  | .pllLol n => Sys2Proof.Machine.execPllLol n s
  | .pwrCmdRun => Sys2Proof.Machine.execPwrCmdRun s
  | .pwrCmdHold => Sys2Proof.Machine.execPwrCmdHold s
  | .pwrCmdDoze => Sys2Proof.Machine.execPwrCmdDoze s
  | .pwrCmdSleep => Sys2Proof.Machine.execPwrCmdSleep s
  | .pwrCmdOff => Sys2Proof.Machine.execPwrCmdOff s
  | .dozeWake => Sys2Proof.Machine.execDozeWake s
  | .wakeEvent src => Sys2Proof.Machine.execWakeEvent src s
  | .wakeDone t => Sys2Proof.Machine.execWakeDone t s
  | .arm key => Sys2Proof.Machine.execArm key s
  | .disarm key => Sys2Proof.Machine.execDisarm key s
  | .vinSample v => Sys2Proof.Machine.execVinSample v s
  | .lcReq target => Sys2Proof.Machine.execLcReq target s
  | .lcDone => Sys2Proof.Machine.execLcDone s
  | .chalNew => Sys2Proof.Machine.execChalNew s
  | .serviceExpiry => Sys2Proof.Machine.execServiceExpiry s
  | .kprov kid => Sys2Proof.Machine.execKprov kid s
  | .keyDone => Sys2Proof.Machine.execKeyDone s
  | .kprovRevoke kid => Sys2Proof.Machine.execKprovRevoke kid s
  | .dbgClose => Sys2Proof.Machine.execDbgClose s
  | .dbgOpen => Sys2Proof.Machine.execDbgOpen s
  | .dbgAuth => Sys2Proof.Machine.execDbgAuth s
  | .dbgExpiry => Sys2Proof.Machine.execDbgExpiry s
  | .rbAdv v => Sys2Proof.Machine.execRbAdv v s
  | .benchIlRelease => Sys2Proof.Machine.execBenchIlRelease s
  | .masterReadCe r idx synd rake => Sys2Proof.Machine.execMasterReadCe r idx synd rake s
  | .masterReadUe r idx le synd chk lo hi => Sys2Proof.Machine.execMasterReadUe r idx le synd chk lo hi s
  | .rakeStep r kind synd chk lo hi => Sys2Proof.Machine.execRakeStep r kind synd chk lo hi s
  | .rakeSleepStep kind synd chk lo hi => Sys2Proof.Machine.execRakeSleepStep kind synd chk lo hi s
  | .panLeak => Sys2Proof.Machine.execPanLeak s
  | .pclr r idx => Sys2Proof.Machine.execPclr r idx s
  | .remapGo n page => Sys2Proof.Machine.execRemapGo n page s
  | .remapDone n => Sys2Proof.Machine.execRemapDone n s
  | .testWrRaw => Sys2Proof.Machine.execTestWrRaw s
  | .testRdRaw => Sys2Proof.Machine.execTestRdRaw s
  | .tempSample r => Sys2Proof.Machine.execTempSample r s
  | .tsdSample r => Sys2Proof.Machine.execTsdSample r s
  | .warmReset lockstep => Sys2Proof.Machine.execWarmReset lockstep s
  | .nvlResetWarm key => Sys2Proof.Machine.execNvlResetWarm key s
  | .nvlResetPcyc key => Sys2Proof.Machine.execNvlResetPcyc key s
  | .heart key => Sys2Proof.Machine.execHeart key s
  | .hbTimeout => Sys2Proof.Machine.execHbTimeout s
  | .pcycReq => Sys2Proof.Machine.execPcycReq s
  | .powerOnReset => Sys2Proof.Machine.execPowerOnReset s
  | .brownOut => Sys2Proof.Machine.execBrownOut s
  | .nvlRead dev => Sys2Proof.Machine.execNvlRead dev s
  | .nvlProg dev => Sys2Proof.Machine.execNvlProg dev s
  | .nvlErase dev => Sys2Proof.Machine.execNvlErase dev s
  | .nvlCmdDone => Sys2Proof.Machine.execNvlCmdDone s
  | .logPut code => Sys2Proof.Machine.execLogPut code s
  | .logRecordWrite => Sys2Proof.Machine.execLogRecordWrite s
  | .logSelect val => Sys2Proof.Machine.execLogSelect val s
  | .intcClaim x => Sys2Proof.Machine.execIntcClaim x s
  | .intcComplete x line => Sys2Proof.Machine.execIntcComplete x line s
  | .dmaGo n => Sys2Proof.Machine.execDmaGo n s
  | .dmaDone n => Sys2Proof.Machine.execDmaDone n s
  | .pinQuery val => Sys2Proof.Machine.execPinQuery val s
  | .seatedChange low => Sys2Proof.Machine.execSeatedChange low s
  | .inputSwitchClose => Sys2Proof.Machine.execInputSwitchClose s
  | .masterWrite a data => Sys2Proof.Machine.execMasterWrite a data s
  | .islandSupplyGood k => Sys2Proof.Machine.execIslandSupplyGood k s
  | .benchIlAssert => Sys2Proof.Machine.execBenchIlAssert s
  | .ilvConversion p raw => Sys2Proof.Machine.execIlvConversion p raw s
  | .rtcAlarm => Sys2Proof.Machine.execRtcAlarm s
  | .managementMessageRx kind val => Sys2Proof.Machine.execManagementMessageRx kind val s

end Sys2Proof.Machine
end

