-- ==== Sys2Proof/Safety.lean ====
section
/-! DEFINITION. What a safe state is, in the terms the claims use: the sparse lists of the state stand in canonical
form, the run so far has met no stop, and a page takes host writes. -/

namespace Sys2Proof.Machine

/-- Every sparse list a command writes stands in canonical form. -/
def State.canon (s : State) : Bool :=
  SMap.wf resetWord s.regs && Memory.wf s.mem && SMap.wf (fun _ => ({} : Claim)) s.claims

/-- A step goes on: it neither faults nor is refused. -/
def goesOn (o : Host.Outcome State Fault Refusal) : Prop := ∃ t, o = .next t

/-- A page acts on host writes: its clock domain runs and no re-initialisation of it is under way (R401, R484). -/
def State.takes (s : State) (pg : Nat) : Prop := s.pageGated pg = false ∧ s.busy pg = false

/-- Two states hold the same in every register but those listed. -/
def State.sameRegsBut (t s : State) (l : List Nat) : Prop := ∀ a, a ∉ l → t.reg a = s.reg a

/-- Event bit `bit` of page `pg` stands in IRQ_RAW (R483). -/
def State.raised (t : State) (pg bit : Nat) : Prop := (t.reg (HDR.IRQ_RAW pg)).getLsbD bit = true

/-- Engine `e` runs the execution `r`, which has `cost` cycles left of its WCET (R201, R211). -/
def State.running (s : State) (e : Nat) (r : LeRun) (cost : Nat) : Prop :=
  (s.eng e).run = some r ∧ r.cyc + cost ≤ s.ctxWCET (16 * e + r.ctx)

/-- Engine `e`'s execution `r` is at instruction `i`, and no word this reads or writes is poisoned (R201, R450). -/
abbrev State.fetches (s : State) (e : Nat) (r : LeRun) (i : Instr) : Prop :=
  s.leFetch e r = some i ∧ s.lePoisoned e r i = false

/-- The execution after an instruction of `cost` cycles that goes on at word `next` (R201). -/
def LeRun.goneTo (r : LeRun) (cost next : Nat) : LeRun :=
  { r with cyc := r.cyc + cost, pc := (loopNext next r.loops).1, loops := (loopNext next r.loops).2 }

/-- The execution after an instruction of `cost` cycles that goes straight on. -/
def LeRun.went (r : LeRun) (cost : Nat) : LeRun := r.goneTo cost (r.pc + 1)

/-- What an operation with result `x` leaves: VD and SATQ, or an abort with cause ARITH (R199, R211). -/
def State.leGot (s : State) (e : Nat) (r : LeRun) (cost vd : Nat) (x : LeRes) : State :=
  match x with
  | none => s.leAbort e { r with cyc := r.cyc + cost } caARITH
  | some (w, q) => s.setRun e (some { (r.went cost).put vd w with satq := r.satq || q })

/-- What a primitive with results `x` leaves: the registers from VD on, or an abort with cause ARITH. -/
def State.leGotAll (s : State) (e : Nat) (r : LeRun) (cost vd : Nat) (x : Option (List Word)) : State :=
  match x with
  | none => s.leAbort e { r with cyc := r.cyc + cost } caARITH
  | some ws => s.setRun e (some ((r.went cost).puts vd ws))

/-- What a primitive with results, state words from `sb` on and LIMITED leaves, or an abort with cause ARITH. -/
def State.leGotState (s : State) (e : Nat) (r : LeRun) (cost vd sb : Nat) (x : Option (List Word × List Word × Bool)) : State :=
  match x with
  | none => s.leAbort e { r with cyc := r.cyc + cost } caARITH
  | some (ws, st, lim) => s.setRun e (some { ((r.went cost).puts vd ws).setSs sb st with limited := r.limited || lim })

end Sys2Proof.Machine

namespace Sys2Proof

/-- Commands whose effect may store to a RAM of the host map (R448, R479). -/
def Instr.storesRam : Instr → Bool
  | .pageReinit .. | .pageLock .. | .ctrlEnWrite .. | .leEnd .. | .leStm .. | .bufWordWritten .. | .mirrorRx .. |
    .safetyCycle .. | .evisafeRx .. | .evisafeTx .. | .evisafeTexp .. | .canDisable .. | .canFrameRx .. | .rxqAck .. |
    .txqAbort .. | .canTxDone .. | .canError .. | .ethFrameRx .. | .ethTxDone .. | .linkChange .. | .masterReadUe .. |
    .rakeStep .. | .rakeSleepStep .. | .pclr .. | .remapDone .. | .testWrRaw .. | .nvlCmdDone .. | .masterWrite .. => true
  | _ => false

/-- Commands that may move the period grid, read the straps again, or do what such a command does: the boundary and
the window closes, resets and power transitions, joins and steps of station time, and host writes that reach one. -/
def Instr.movesGrid : Instr → Bool
  | .regWrite .. | .periodBoundary .. | .uplinkWindowClose .. | .leWindowClose .. | .gdWindowClose .. |
    .dlWindowClose .. | .trlLaneUp .. | .neighbourSend .. | .neighbourMsgRx .. | .timeCapture .. | .timeStep .. |
    .pwrCmdOff .. | .wakeEvent .. | .wakeDone .. | .lcDone .. | .benchIlRelease .. | .tempSample .. | .warmReset .. |
    .powerOnReset .. | .brownOut .. | .dmaDone .. | .seatedChange .. | .benchIlAssert .. => true
  | _ => false

end Sys2Proof
end

