-- ==== Sys2Proof/Certificates/Slice0/Obligations.lean ====
section
/-! DEFINITION. The statements for the provers. Each says for the commands it names that they complete, and with what
state; `s.takes pg` says that the page's clock runs and that no re-initialisation of it is under way (R401, R484). -/

open Sys2Proof Sys2Proof.Machine

/-! ### Steps, the queue and the whole machine -/

/-- A step of a non-empty queue is exec of its front on the state with the queue's rest. On an empty queue one PWM tick
passes and nothing else changes (the model's choice, assumption 1). -/
def Obligations.StepRunsFrontCommand : Prop :=
  (∀ (c : Instr) (rest : List Instr) (s : State),
    step { s with pending := c :: rest } = exec c { s with pending := rest }) ∧
  (∀ s : State, s.pending = [] → step s = .next { s with now := s.now + tTick })

/-- Every command answers a next state: it never faults and is never refused by the model, it leaves the queue of
waiting commands as it is, and the clock never goes back. -/
def Obligations.EveryCommandAnswersNext : Prop :=
  ∀ (c : Instr) (s : State), ∃ t, exec c s = .next t ∧ t.pending = s.pending ∧ s.now ≤ t.now

/-- A step keeps the canonical form of the registers, the memory and the claims. -/
def Obligations.StepKeepsCanonicalForm : Prop :=
  ∀ s t : State, s.canon = true → step s = .next t → t.canon = true

/-- The state after reset has the canonical form, no waiting command and nothing listed in memory. -/
def Obligations.ResetStateIsCanonical : Prop :=
  State.reset.canon = true ∧ State.reset.pending = [] ∧ ∀ a, State.reset.byte a = memDefault a

/-- A command that stores to no RAM and does not move the period grid leaves every byte of memory, the straps, the
period index, the boundary's instant and the window in progress as they are. A command that stores to memory but
does not move the period grid leaves the grid and the straps as they are. -/
def Obligations.CommandsLeaveMemoryAndGrid : Prop :=
  (∀ (c : Instr) (s t : State), c.storesRam = false → c.movesGrid = false → exec c s = .next t →
    (∀ a, t.byte a = s.byte a) ∧ t.straps = s.straps ∧ t.pidx = s.pidx ∧ t.bndAt = s.bndAt ∧ t.window = s.window) ∧
  (∀ (c : Instr) (s t : State), c.movesGrid = false → exec c s = .next t →
    t.straps = s.straps ∧ t.pidx = s.pidx ∧ t.bndAt = s.bndAt ∧ t.window = s.window)

/-- What reset leaves, by the registers' tables: the period and its windows (R17, R18), RUN and DISARMED with cause
RESET (R406, R413, R414), one admitted module (R340), the Settle state OFF (R341), STO demanded (R369), the gate of
each CAN queue open (R396), CAN bit timing (R396), the Rake (R474), the pair's hold-off (R341), no command pending. -/
def Obligations.ResetValues : Prop :=
  State.reset.pending = [] ∧ State.reset.get TBS.PER_CFG_PERIOD = 2500 ∧ State.reset.get TBS.PER_WIN0_W_UPL = 200 ∧
  State.reset.get PWR.STAT_STATE = 0 ∧ State.reset.armed = false ∧ State.reset.get PWR.STAT_DIS_CAUSE = 8 ∧
  State.reset.get PWR.VIN_VIN_WARN = 1500 ∧ State.reset.get TRL.ID_NMOD = 1 ∧ State.reset.get STL.STAT_STATE = 0 ∧
  State.reset.get STL.CFG_HOLDOFF = 30 ∧ State.reset.get STL.BUDGET_BUDGET = 2048 ∧ State.reset.get SAF.STAT_STO = 1 ∧
  State.reset.get SAF.STAT_ARM_OK = 0 ∧ (∀ k : Fin 4, State.reset.get (CAN.TXQ_STAT_GATE k) = 1 ∧
    State.reset.get (CAN.NBT_NBRP k) = 7 ∧ State.reset.get (CAN.NBT_NTSEG1 k) = 15 ∧ State.reset.get (CAN.ECR_STATE k) = 0) ∧
  (∀ p : Fin 2, State.reset.get (ETH.PTP_INC_NS_NS p) = 8 ∧ State.reset.get (ETH.CFG_AN_EN p) = 1) ∧
  State.reset.get MEM.RAKE_CFG_RUN_INT = 1024 ∧ State.reset.get MEM.RAKE_REG_EN = 0xFFFFF ∧
  State.reset.get MEM.PAN_CFG_THR = 64 ∧ State.reset.get THM.CFG_T_WARN = 120 ∧ State.reset.get NVL.RCV_CFG_WARM_MAX = 3 ∧
  State.reset.get CLK.GATE_GATE = 0 ∧ State.reset.get AON.WAKE_EN_CAN = 0 ∧
  (∀ n : Fin 48, State.reset.ln n = lnOFF ∧ State.reset.cst n = 0) ∧ (∀ k : Fin 8, State.reset.stkState k = 0) ∧
  (∀ c : Fin 256, State.reset.ctxEn c = false) ∧ State.reset.latches = [] ∧ State.reset.claims = [] ∧ State.reset.mem = []

/-! ### The control period (R16–R37) -/

/-- R17: PERIOD is T_c in 10 ns, 2,500 after reset, and a write outside 1,000 to 20,000 is refused with RANGE while
PERIOD keeps its value (R401: on a page whose clock runs), unless a change waits already, of which R22 speaks. -/
def Obligations.PeriodRangeAndReset : Prop :=
  State.reset.get TBS.PER_CFG_PERIOD = 2500 ∧ State.reset.tc = 25 * tUs ∧
  (∀ s : State, s.tc = s.get TBS.PER_CFG_PERIOD * (10 * tNs)) ∧
  ∀ (val : Word) (s : State), s.pageGated TBS.page = false → s.perPend = none →
    (val.toNat % 65536 < 1000 ∨ 20000 < val.toNat % 65536) →
    ∃ t, exec (.periodWrite val) s = .next t ∧ t.get TBS.PER_CFG_PERIOD = s.get TBS.PER_CFG_PERIOD ∧
      t.perPend = s.perPend ∧ t.get (HDR.ERR_CODE_CODE TBS.page) = eRANGE ∧ t.get (HDR.ERR_CODE_OFS TBS.page) = 0x100

/-- R18: the windows that a T_c of `p` × 10 ns gives, rounded down to whole 10 ns, as PER_WIN0 and PER_WIN1 report them.
R18, R23, R27: each window closes at its instant of the running period, whatever happened in it, and the next one is
then in progress; no close moves the period index, the boundary or the straps. -/
def Obligations.WindowsAndTheirCloses : Prop :=
  ((∀ (s : State) (p : Nat), p ≤ 20000 →
    (s.windows p).get TBS.PER_WIN0_W_UPL = p * 8 / 100 ∧ (s.windows p).get TBS.PER_WIN0_W_LE = p * 72 / 100 ∧
    (s.windows p).get TBS.PER_WIN1_W_GD = p * 84 / 100 ∧ (s.windows p).get TBS.PER_WIN1_W_DL = p * 96 / 100) ∧
  State.reset.get TBS.PER_WIN0_W_UPL = 200 ∧ State.reset.get TBS.PER_WIN0_W_LE = 1800 ∧
  State.reset.get TBS.PER_WIN1_W_GD = 2100 ∧ State.reset.get TBS.PER_WIN1_W_DL = 2400) ∧
  ((∀ s : State, s.dark = false → s.window = 0 → s.perPend = none → ∃ t, exec .uplinkWindowClose s = .next t ∧
    t.window = 1 ∧ t.bndAt = s.bndAt ∧ t.pidx = s.pidx ∧ s.bndAt + s.get TBS.PER_WIN0_W_UPL * t10 ≤ t.now) ∧
  (∀ s : State, s.dark = false → s.window ≤ 1 → ∃ t, exec .leWindowClose s = .next t ∧
    t.window = 2 ∧ t.bndAt = s.bndAt ∧ t.pidx = s.pidx ∧ s.bndAt + s.get TBS.PER_WIN0_W_LE * t10 ≤ t.now) ∧
  (∀ s : State, s.dark = false → s.window ≤ 2 → ∃ t, exec .gdWindowClose s = .next t ∧
    t.window = 3 ∧ t.bndAt = s.bndAt ∧ t.pidx = s.pidx ∧ s.bndAt + s.get TBS.PER_WIN1_W_GD * t10 ≤ t.now) ∧
  (∀ (u : BitVec 48) (s : State), s.dark = false → s.window ≤ 3 → ∃ t, exec (.dlWindowClose u) s = .next t ∧
    t.window = 4 ∧ t.bndAt = s.bndAt ∧ t.pidx = s.pidx ∧ s.bndAt + s.get TBS.PER_WIN1_W_DL * t10 ≤ t.now))

/-- R22, R485: an accepted PERIOD takes effect two boundaries on, and the root's messages carry it; the T_c in force
starts no change; the refusals of R22, of which STATE is met by any value while a change waits; LOCKED comes last. A
module whose lanes carry neighbour messages only (R311) sends none. R22, R311, R313: a member takes a change from
the root's message and disarms if it is armed, but not while its lanes carry neighbour messages only; a due change
takes effect at the boundary that opened the period. -/
def Obligations.PeriodChangeIsJudgedAndApplied : Prop :=
  (∀ (val : Word) (s : State), s.takes TBS.page →
    (s.perPend = none → 1000 ≤ val.toNat % 65536 ∧ val.toNat % 65536 ≤ 20000) →
    (s.armed = false → s.on PWR.STAT_ARM_PEND = false → s.isRoot = true → s.nbrArmed 1 = false → s.perPend = none →
      (val.toNat % 65536 ≠ s.get TBS.PER_CFG_PERIOD → s.locked TBS.page = false →
        (s.nbrOnly = false → exec (.periodWrite val) s = .next (({ s with perPend := some (val.toNat % 65536, s.pidx + 2) } : State).modTrl
          (fun x => { x with chgTx := some (val.toNat % 65536, s.pidx + 2) }))) ∧
        (s.nbrOnly = true → exec (.periodWrite val) s = .next { s with perPend := some (val.toNat % 65536, s.pidx + 2) })) ∧
      (val.toNat % 65536 ≠ s.get TBS.PER_CFG_PERIOD → s.locked TBS.page = true →
        exec (.periodWrite val) s = .next (s.refuse TBS.page 0x100 eLOCKED)) ∧
      (val.toNat % 65536 = s.get TBS.PER_CFG_PERIOD → exec (.periodWrite val) s = .next s)) ∧
    ((s.armed = true ∨ s.on PWR.STAT_ARM_PEND = true) →
      exec (.periodWrite val) s = .next (s.refuse TBS.page 0x100 eARMED)) ∧
    (s.isRoot = true → s.nbrArmed 1 = true → exec (.periodWrite val) s = .next (s.refuse TBS.page 0x100 eARMED)) ∧
    (s.armed = false → s.on PWR.STAT_ARM_PEND = false → s.isRoot = false →
      exec (.periodWrite val) s = .next (s.refuse TBS.page 0x100 bNOT_ROOT)) ∧
    (s.armed = false → s.on PWR.STAT_ARM_PEND = false → s.isRoot = true → s.nbrArmed 1 = false → s.perPend.isSome →
      exec (.periodWrite val) s = .next (s.refuse TBS.page 0x100 eSTATE))) ∧
  ((∀ (p : BitVec 16) (i : BitVec 64) (s : State), s.isRoot = false → s.dark = false → s.nbrOnly = false → s.armed = false →
    exec (.periodChangeReceipt p i) s = .next { s with perPend := some (p.toNat, i.toNat) }) ∧
  (∀ (p : BitVec 16) (i : BitVec 64) (s : State), s.isRoot = false → s.dark = false → s.nbrOnly = false → s.armed = true →
    exec (.periodChangeReceipt p i) s = .next (({ s with perPend := some (p.toNat, i.toNat) } : State).disarm disSTATE)) ∧
  (∀ (p : BitVec 16) (i : BitVec 64) (s : State), s.nbrOnly = true → exec (.periodChangeReceipt p i) s = .next s) ∧
  (∀ (p i : Nat) (s : State), s.perPend = some (p, i) → i ≤ s.pidx →
    exec .periodChangeApply s = .next (({ s with perPend := none } : State).applyPeriod p s.bndAt)) ∧
  (∀ s : State, s.perPend = none → exec .periodChangeApply s = .next s))

/-- R16, R27, R37: a boundary falls one T_c after the last, the period index counts it, the uplink window opens,
PER_START is raised and the load of the period that ended is shown; then every block acts. R24, R25, R36: a
detection of an overrun sets its flag and event and counts the period once; HOLD becomes BLOCK after HOLD_LIM
consecutive periods, with ESCALATE in the first of them only. -/
def Obligations.BoundaryAndOverruns : Prop :=
  ((∀ (l h p : BitVec 8) (s : State), s.perPend = none → s.pwr.slp = none → s.dark = false →
    exec (.periodBoundary l h p) s = .next (((s.advance (s.bndAt + s.tc)).bndOpen l.toNat h.toNat p.toNat).bndBlocks)) ∧
  ∀ (s : State) (l h p : Nat), l < 256 → h < 256 → p < 256 →
    (s.bndOpen l h p).pidx = s.pidx + 1 ∧ (s.bndOpen l h p).bndAt = s.bndAt + s.tc ∧ (s.bndOpen l h p).window = 0 ∧
    (s.bndOpen l h p).raised TBS.page 0 ∧ (s.bndOpen l h p).get ICX.LOAD_LOAD_NOW = l ∧
    (s.bndOpen l h p).get ICX.LOAD_LOAD_MAX = max l (s.get ICX.LOAD_LOAD_MAX) ∧
    (s.bndOpen l h p).get ICX.LOAD_HI_SHARE = h ∧ (s.bndOpen l h p).get ICX.LOAD_PORT = p) ∧
  ((∀ (s : State) (w : Nat), w < 4 →
    (s.ovrFlag w).get ⟨TBS.OVR_STAT, w, 1⟩ = 1 ∧ (s.ovrFlag w).raised TBS.page (1 + w) ∧
    (s.ovrFlag w).ovrSeen = true ∧
    (s.ovrFlag w).get TBS.OVR_CNT_CNT = if s.ovrSeen then s.get TBS.OVR_CNT_CNT else min (s.get TBS.OVR_CNT_CNT + 1) (2 ^ 32 - 1)) ∧
  ∀ (s : State) (w u : Nat), w < 4 → u < 64 →
    (s.ovrAct w ≠ 1 → (s.ovrReact w u).1 = s.ovrAct w) ∧
    (s.ovrAct w = 1 → SMap.get (fun _ => 0) s.ovrRun (64 * w + u) < s.get TBS.OVR_ACT_HOLD_LIM →
      (s.ovrReact w u).1 = 1 ∧
      SMap.get (fun _ => 0) (s.ovrReact w u).2.ovrRun (64 * w + u) = SMap.get (fun _ => 0) s.ovrRun (64 * w + u) + 1) ∧
    (s.ovrAct w = 1 → s.get TBS.OVR_ACT_HOLD_LIM ≤ SMap.get (fun _ => 0) s.ovrRun (64 * w + u) →
      (s.ovrReact w u).1 = 2 ∧ ((s.ovrReact w u).2.ovrReact w u).1 = 2 ∧
      (SMap.get (fun _ => 0) s.ovrRun (64 * w + u) ≠ ovrEsc →
        (s.ovrReact w u).2.get TBS.OVR_STAT_ESCALATE = 1 ∧ (s.ovrReact w u).2.raised TBS.page 5) ∧
      ((s.ovrReact w u).2.ovrReact w u).2 = (s.ovrReact w u).2))

/-- R32, R33, R37: the crossbar's counts and bound violations. -/
def Obligations.CrossbarWaits : Prop :=
  (∀ (w : BitVec 24) (s : State), s.get ICX.P3_STARVE_THR_THR < w.toNat → ∃ t, exec (.p3Starve w) s = .next t ∧
    t.get ICX.P3_WAIT_MAX_WAIT = max w.toNat (s.get ICX.P3_WAIT_MAX_WAIT) ∧
    t.get ICX.P3_STARVE_CNT_CNT = min (s.get ICX.P3_STARVE_CNT_CNT + 1) (2 ^ 32 - 1) ∧ t.raised ICX.page 0) ∧
  (∀ (w : BitVec 24) (s : State), w.toNat ≤ s.get ICX.P3_STARVE_THR_THR →
    exec (.p3Starve w) s = .next (s.set ICX.P3_WAIT_MAX_WAIT (max w.toNat (s.get ICX.P3_WAIT_MAX_WAIT)))) ∧
  (∀ (c : Fin 3) (w b o : Nat) (s : State), w ≤ waitBound c.val b o → exec (.boundViol c ⟨w, b, o⟩) s = .next s) ∧
  (∀ (c : Fin 3) (w b o : Nat) (s : State), waitBound c.val b o < w →
    exec (.boundViol c ⟨w, b, o⟩) s = .next ((((s.set ⟨ICX.BOUND_VIOL, c.val, 1⟩ 1).irq ICX.page 1).logEvt ICX.page 1).safBound c.val)) ∧
  (waitBound 0 0 0, waitBound 1 0 0, waitBound 2 0 0) = (24, 48, 600) ∧
  (∀ c b o, waitBound c b o = waitBound c 0 0 + 24 * b + 2 * o) ∧
  (∀ s : State, s.takes ICX.page → ∃ t, exec .p3StarveCntClear s = .next t ∧ t.get ICX.P3_STARVE_CNT_CNT = 0 ∧
    t.get ICX.LOAD_LOAD_MAX = 0 ∧ t.get ICX.LOAD_LOAD_NOW = s.get ICX.LOAD_LOAD_NOW ∧
    t.sameRegsBut s [ICX.P3_STARVE_CNT, ICX.LOAD])

/-! ### Register pages, interrupts, claims and DMA (R8–R11, R479–R495) -/

/-- R486: whatever conditions a write is judged on, it does nothing (its page's clock is gated, R401), or it is refused
with one code, or its operation runs; a refusal changes ERR_CODE of its page and no other register, memory or claim;
KEY is reported before RANGE, and both before every other condition. R9, R11, R485: a write to a register takes each
bit by its access type: RW takes the value, RWL takes it while the page is not locked, W1C clears on 1, W1S sets on
1, a count is cleared by a write of 0, and every other bit keeps. -/
def Obligations.RefusalAndAccessTypes : Prop :=
  ((∀ (s : State) (pg ofs : Nat) (l : List (Bool × Nat)) (k : State → State),
    s.judge pg ofs l k = s ∨ (∃ code, s.judge pg ofs l k = s.refuse pg ofs code) ∨ s.judge pg ofs l k = k s) ∧
  (∀ (s : State) (pg ofs code : Nat), (s.refuse pg ofs code).sameRegsBut s [HDR.ERR_CODE pg] ∧
    (∀ a, (s.refuse pg ofs code).byte a = s.byte a) ∧ (∀ r, (s.refuse pg ofs code).claim r = s.claim r) ∧
    (s.refuse pg ofs code).get (HDR.ERR_CODE_CODE pg) = blockCode pg code % 256 ∧
    (s.refuse pg ofs code).get (HDR.ERR_CODE_OFS pg) = ofs % 4096 ∧
    (s.get (HDR.ERR_CODE_CODE pg) ≠ 0 → pg ∉ s.errRead → (s.refuse pg ofs code).get (HDR.ERR_CODE_MULTI pg) = 1)) ∧
  (∀ (s : State) (pg ofs : Nat) (l : List (Bool × Nat)) (k : State → State), s.pageGated pg = false →
    (true, eKEY) ∈ l → s.judge pg ofs l k = s.refuse pg ofs eKEY) ∧
  (∀ (s : State) (pg ofs : Nat) (l : List (Bool × Nat)) (k : State → State), s.pageGated pg = false →
    (true, eKEY) ∉ l → (true, eRANGE) ∈ l → s.judge pg ofs l k = s.refuse pg ofs eRANGE) ∧
  (∀ (s : State) (pg ofs : Nat) (l : List (Bool × Nat)) (k : State → State), s.pageGated pg = false → s.busy pg = true →
    (true, eKEY) ∉ l → (true, eRANGE) ∉ l → s.judge pg ofs l k = s.refuse pg ofs eBUSY)) ∧
  (∀ (row : RegRow) (lk : Bool) (old val i : Nat), i < 32 → old < 2 ^ 32 → val < 2 ^ 32 →
    (∀ j, (row.rw.testBit j && (row.w1c.testBit j || row.w1s.testBit j || row.rwl.testBit j || row.cz.testBit j)) = false) →
    (∀ j, (row.rwl.testBit j && (row.w1c.testBit j || row.w1s.testBit j || row.cz.testBit j)) = false) →
    (∀ j, (row.w1c.testBit j && (row.w1s.testBit j || row.cz.testBit j)) = false) →
    (∀ j, (row.w1s.testBit j && row.cz.testBit j) = false) →
    (writeWord row lk old val).testBit i =
      if row.rw.testBit i then val.testBit i
      else if row.rwl.testBit i then (if lk then old.testBit i else val.testBit i)
      else if row.w1c.testBit i then old.testBit i && !val.testBit i
      else if row.w1s.testBit i then old.testBit i || val.testBit i
      else if row.cz.testBit i then (if val &&& row.cz = 0 then false else old.testBit i)
      else old.testBit i)

/-- R8, R479, R495: a word written to a region register of the MPU, a register with RWL fields and no further rule,
takes its fields; an access no page occupies, and one that is not an aligned word, ends in a bus error and has no
effect; a write to the RAMs is a master's write. R482, R484, R485: the header's control register, on each page by
its interrupt line. REINIT re-initialises the page and shows REINIT_BUSY for 10 µs; pages whose function may not be
re-initialised refuse it; LOCK stays set; EN that has no use keeps its reset value. R484: what a re-initialisation
does to a page without a function of its own: IRQ_RAW and ERR_CODE are cleared, a register whose fields are RWL
keeps its value while the page is locked, and takes its reset value otherwise. -/
def Obligations.PagesControlAndReinit : Prop :=
  ((∀ (r : Nat) (v : Word) (s : State), r < 16 → s.takes MPU.page → s.locked MPU.page = false →
    ∃ t, exec (.regWrite (MPU.REG_LIMIT r) 4 v) s = .next t ∧ t.resp = .ok ∧
      t.reg (MPU.REG_LIMIT r) &&& 0xFFFFF007 = v &&& 0xFFFFF007 ∧ t.sameRegsBut s [MPU.REG_LIMIT r] ∧ ∀ a, t.byte a = s.byte a) ∧
  (∀ (r : Nat) (v : Word) (s : State), r < 16 → s.takes MPU.page → s.locked MPU.page = true →
    ∃ t, exec (.regWrite (MPU.REG_LIMIT r) 4 v) s = .next t ∧ t.resp = .ok ∧ t.reg (MPU.REG_LIMIT r) = s.reg (MPU.REG_LIMIT r) ∧
      (s.reg (MPU.REG_LIMIT r) &&& 0xFFFFF007 ≠ v &&& 0xFFFFF007 → t.get (HDR.ERR_CODE_CODE MPU.page) = eLOCKED)) ∧
  (∀ (a b : Nat) (v : Word) (s : State), 0x40000000 ≤ a → a < 0x50000000 → (b ≠ 4 ∨ a % 4 ≠ 0 ∨ pageOf a = none) →
    exec (.regWrite a b v) s = .next { s with resp := .busError }) ∧
  (∀ (a b : Nat) (v : Word) (s : State), (a < 0x40000000 ∨ 0x50000000 ≤ a) →
    exec (.regWrite a b v) s = .next (s.masterWrite a (leBytes b v.toNat)))) ∧
  ((∀ (l : Fin 130) (v : Word) (s : State), s.takes (pageOfLine l.val) → reinitBad (kindOfLine l.val) = false →
    enUsed (kindOfLine l.val) = false → v.getLsbD 0 = s.on (HDR.CTRL_EN (pageOfLine l.val)) → v.getLsbD 2 = false →
    (s.pageReinit (kindOfLine l.val) (pageOfLine l.val) (instOfLine l.val)).on (HDR.CTRL_EN (pageOfLine l.val))
      = s.on (HDR.CTRL_EN (pageOfLine l.val)) →
    ∃ t, exec (.pageReinit l v) s = .next t ∧ t.busy (pageOfLine l.val) = true ∧
      t.regs = (s.pageReinit (kindOfLine l.val) (pageOfLine l.val) (instOfLine l.val)).regs) ∧
  (∀ (l : Fin 130) (v : Word) (s : State), s.takes (pageOfLine l.val) → reinitBad (kindOfLine l.val) = true →
    exec (.pageReinit l v) s = .next (s.refuse (pageOfLine l.val) 0x0C eSTATE)) ∧
  (∀ (l : Fin 130) (v : Word) (s : State), s.takes (pageOfLine l.val) → enUsed (kindOfLine l.val) = false →
    kindOfLine l.val ≠ .saf → v.getLsbD 1 = false → v.getLsbD 0 = s.on (HDR.CTRL_EN (pageOfLine l.val)) →
    ∃ t, exec (.pageLock l v) s = .next t ∧ t.locked (pageOfLine l.val) = true ∧
      t.sameRegsBut s [HDR.CTRL (pageOfLine l.val)]) ∧
  (∀ (l : Fin 130) (v : Word) (s : State), s.takes (pageOfLine l.val) → enUsed (kindOfLine l.val) = false →
    kindOfLine l.val ≠ .saf → v.getLsbD 1 = false →
    (s.on (HDR.CTRL_EN (pageOfLine l.val)) = true → v.getLsbD 0 = false →
      exec (.ctrlEnWrite l v) s = .next (s.refuse (pageOfLine l.val) 0x0C eSTATE)) ∧
    (s.on (HDR.CTRL_EN (pageOfLine l.val)) = false → v.getLsbD 0 = true →
      exec (.ctrlEnWrite l v) s = .next (s.refuse (pageOfLine l.val) 0x0C eNOT_FITTED))) ∧
  (∀ (e : Fin 16) (v : Word) (s : State), s.takes (LEX.page e.val) → v.getLsbD 1 = false → v.getLsbD 0 = true →
    v.getLsbD 2 = false → s.get (HDR.CTRL_EN (LEX.page e.val)) = 0 →
    exec (.ctrlEnWrite (Fin.ofNat 130 (31 + e.val)) v) s
      = .next ((s.set (HDR.CTRL_EN (LEX.page e.val)) 1).set (HDR.CTRL_HOLD (LEX.page e.val)) (getBits v 3 1)))) ∧
  (∀ (s : State) (i : Nat),
    (s.pageReinit .mpu MPU.page i).reg (HDR.IRQ_RAW MPU.page) = 0 ∧
    (s.pageReinit .mpu MPU.page i).reg (HDR.ERR_CODE MPU.page) = 0 ∧
    (∀ r, r < 16 → s.locked MPU.page = false → (s.pageReinit .mpu MPU.page i).reg (MPU.REG_LIMIT r) = 0) ∧
    (∀ r, r < 16 → s.locked MPU.page = true →
      (s.pageReinit .mpu MPU.page i).reg (MPU.REG_LIMIT r) = s.reg (MPU.REG_LIMIT r) &&& 0xFFFFF007) ∧
    (s.pageReinit .mpu MPU.page i).get (HDR.CTRL_LOCK MPU.page) = s.get (HDR.CTRL_LOCK MPU.page) ∧
    (∀ a, a < MPU.page ∨ MPU.page + 0x1000 ≤ a → (s.pageReinit .mpu MPU.page i).reg a = s.reg a))

/-- R483, R488: clearing pending events, of which those of the same bus cycle stay; the interrupt controller: CLAIM
returns the deliverable line of the highest priority, ties to the lower line, and marks it active; COMPLETE ends it. -/
def Obligations.InterruptClaimAndComplete : Prop :=
  (∀ (l : Fin 130) (m : Word) (s : State), s.takes (pageOfLine l.val) → kindOfLine l.val ≠ .adc →
    exec (.irqPendClear l m) s = .next (s.setReg (HDR.IRQ_RAW (pageOfLine l.val))
      (s.reg (HDR.IRQ_RAW (pageOfLine l.val)) &&&
        ~~~(m &&& s.reg (HDR.IRQ_EN (pageOfLine l.val)) &&& ~~~s.evNow (pageOfLine l.val))))) ∧
  (∀ (s : State) (pg b : Nat), b < 32 → ((s.irq pg b).evNow pg).getLsbD b = true ∧
    ∀ t : State, s.now / tBus < t.now / tBus → t.evAt = (s.irq pg b).evAt → t.evNow pg = 0) ∧
  (∀ (x : Fin 2) (s : State), s.bestLine x.val = 0xFF → exec (.intcClaim x) s = .next { s with resp := .value 0xFF }) ∧
  (∀ (x : Fin 2) (s : State), s.bestLine x.val ≠ 0xFF → ∃ t, exec (.intcClaim x) s = .next t ∧
    t.resp = .value (BitVec.ofNat 32 (s.bestLine x.val)) ∧ t.get (INTC.SRC_ACT (s.bestLine x.val)) = 1 ∧
    t.sameRegsBut s [INTC.SRC (s.bestLine x.val)]) ∧
  (∀ (x : Nat) (s : State), s.bestLine x ≠ 0xFF → s.bestLine x < 130 ∧ s.lineOn (s.bestLine x) = true ∧
    (s.get (INTC.SRC_TGT (s.bestLine x))).testBit x = true ∧ s.get (INTC.SRC_ACT (s.bestLine x)) = 0 ∧
    s.get (INTC.THR_THR x) < s.get (INTC.SRC_PRIO (s.bestLine x)) ∧
    ∀ l, l < 130 → (s.get (INTC.SRC_TGT l)).testBit x = true → s.get (INTC.SRC_ACT l) = 0 →
      s.get (INTC.THR_THR x) < s.get (INTC.SRC_PRIO l) → s.lineOn l = true →
      s.get (INTC.SRC_PRIO l) < s.get (INTC.SRC_PRIO (s.bestLine x)) ∨
        (s.get (INTC.SRC_PRIO l) = s.get (INTC.SRC_PRIO (s.bestLine x)) ∧ s.bestLine x ≤ l)) ∧
  (∀ (x : Fin 2) (l : BitVec 8) (s : State), s.takes INTC.page → l.toNat < 130 → ∃ t, exec (.intcComplete x l) s = .next t ∧
    t.get (INTC.SRC_ACT l.toNat) = 0 ∧ t.sameRegsBut s [INTC.SRC l.toNat]) ∧
  (∀ (x : Fin 2) (l : BitVec 8) (s : State), s.pageGated INTC.page = false → 130 ≤ l.toNat →
    exec (.intcComplete x l) s = .next (s.refuse INTC.page (0x50 + 4 * x.val) eRANGE))

/-- R490, R491: an enable that needs several resources takes all of them or none, and a release frees what its holder
holds and leaves what another holds. R493, R494: the claim report, and host DMA channels: GO starts a transfer on an
enabled idle channel the host holds, a channel held by the hardware refuses it, and a transfer of no bytes completes
with DONE. -/
def Obligations.ClaimsAndHostDma : Prop :=
  ((∀ (s : State) (pg ofs : Nat) (rs : List Nat) (cls inst : Nat) (k : State → State), pg % 4096 = 0 →
    (∃ r ∈ rs, s.claimable r cls inst = false) →
    (∀ q, (s.claimAll pg ofs rs cls inst k).claim q = s.claim q) ∧ (s.claimAll pg ofs rs cls inst k).raised PIN.page 0) ∧
  (∀ (s : State) (pg ofs : Nat) (rs : List Nat) (cls inst : Nat), (∀ r ∈ rs, s.claimable r cls inst = true) →
    (∀ r ∈ rs, ((s.claimAll pg ofs rs cls inst id).claim r).cls = cls ∧ ((s.claimAll pg ofs rs cls inst id).claim r).inst = inst) ∧
    (∀ q, q ∉ rs → (s.claimAll pg ofs rs cls inst id).claim q = s.claim q)) ∧
  (∀ (s : State) (r cls inst : Nat), ((s.claim r).cls = cls ∧ (s.claim r).inst = inst → (s.release r cls inst).claim r = {}) ∧
    (∀ q, q ≠ r → (s.release r cls inst).claim q = s.claim q) ∧
    ((s.claim r).cls ≠ cls → (s.claim r).subCls ≠ cls → s.release r cls inst = s))) ∧
  ((∀ (v : Word) (s : State), s.takes PIN.page → 1 ≤ v.toNat % 256 → v.toNat % 256 ≤ 9 → ∃ t, exec (.pinQuery v) s = .next t ∧
    t.get PIN.QRES_CLS = (s.claim (resKey (v.toNat % 256) (v.toNat / 256 % 256))).cls % 256 ∧
    t.get PIN.QRES_INST = (s.claim (resKey (v.toNat % 256) (v.toNat / 256 % 256))).inst % 256 ∧
    t.get PIN.QRY_RCLS = v.toNat % 256 ∧ t.get PIN.QRY_RIDX = v.toNat / 256 % 256 ∧
    t.sameRegsBut s [PIN.QRY, PIN.QRES]) ∧
  (∀ (v : Word) (s : State), s.pageGated PIN.page = false → (v.toNat % 256 = 0 ∨ 9 < v.toNat % 256) →
    exec (.pinQuery v) s = .next (s.refuse PIN.page 0x40 eRANGE)) ∧
  (∀ (n : Fin 32) (s : State), s.takes DMA.page → s.dmaHeld n.val = false → s.get (DMA.CH_CFG_EN n.val) = 1 →
    s.get (DMA.CH_CFG_GO n.val) = 0 →
    exec (.dmaGo n) s = .next { s.set (DMA.CH_CFG_GO n.val) 1 with dmaN := s.dmaN ++ [n.val] }) ∧
  (∀ (n : Fin 32) (s : State), s.takes DMA.page → s.dmaHeld n.val = true →
    exec (.dmaGo n) s = .next (s.deny DMA.page (0x10C + 0x10 * n.val) (resKey 3 n.val) 12 n.val)) ∧
  (∀ (n : Fin 32) (s : State), s.dark = false → n.val ∈ s.dmaN → s.get (DMA.CH_LEN_LEN n.val) = 0 → ∃ t, exec (.dmaDone n) s = .next t ∧
    t.get (DMA.CH_CFG_DONE n.val) = 1 ∧ t.get (DMA.CH_CFG_GO n.val) = 0 ∧ t.raised DMA.page n.val ∧ n.val ∉ t.dmaN) ∧
  (∀ (n : Fin 32) (s u t : State) (b : List Byte), s.dark = false → s.pwr.slp = none → n.val ∈ s.dmaN → u = { s with dmaN := s.dmaN.filter (· != n.val) } →
    s.get (DMA.CH_LEN_LEN n.val) = 4 → inPeri (s.get (DMA.CH_SRC_ADDR n.val)) = false →
    inPeri (s.get (DMA.CH_DST_ADDR n.val)) = false → u.mpuOk (s.get (DMA.CH_SRC_ADDR n.val)) 4 false = true →
    u.mpuOk (s.get (DMA.CH_DST_ADDR n.val)) 4 true = true → u.ramRead (s.get (DMA.CH_SRC_ADDR n.val)) 4 = some b →
    u.masterPut (s.get (DMA.CH_DST_ADDR n.val)) (leBytes 4 (BitVec.ofNat 32 (leNat b 0 4)).toNat) = some t →
    exec (.dmaDone n) s = .next (((t.set (DMA.CH_CFG_DONE n.val) 1).set (DMA.CH_CFG_GO n.val) 0).irq DMA.page n.val)) ∧
  (∀ (n : Fin 32) (s : State), n.val ∉ s.dmaN → exec (.dmaDone n) s = .next s))

/-! ### Cell stack control (R38–R81) -/

/-- R40: an enable whose word is in range takes effect where the thresholds of R58 are in order, the members are enough,
their AFE carriers agree (or the mode is DIRECT) and no channel is held by another: EN is set and the stack holds
the AFE and DAB channel of every member; otherwise EN keeps 0 and the code of the first condition met is reported.
R40, R520: clearing EN is accepted only in IDLE and releases the claims; while EN is 1 a change of MODE is accepted
only in IDLE. R519, R521: a write to CELL_STK is judged cell by cell: one that changes one cell's group acts on that
cell alone; a change that touches no enabled stack is taken; a cell leaves an enabled stack only from ABSENT,
BYPASSED, FAULTED or TEST, and its channels are released from the next Grainer and solver window, the DAB channel to
the DSV if its EN bit is set; one that joins is BYPASSED or ABSENT with its lane. -/
def Obligations.StackEnableAndMembership : Prop :=
  (∀ (k : Fin 8) (v : Word) (s : State), s.takes GRN.page → s.get (GRN.STK_CFG_EN k.val) = 0 →
    stkCfgRange (v ||| 1) = false → s.get GRN.VLIM1_UV_STOP < s.get GRN.VLIM1_UV_FOLD →
    s.get GRN.VLIM1_UV_FOLD < s.get GRN.VLIM2_OV_FOLD → s.get GRN.VLIM2_OV_FOLD < s.get GRN.VLIM2_OV_STOP →
    (s.willBe GRN.page true (GRN.STK_CFG_N_MIN k.val) (v ||| 1) ≤ (s.members k.val).length →
      (s.willBe GRN.page true (GRN.STK_CFG_MODE k.val) (v ||| 1) = 2 ∨ s.sameCarrier (s.members k.val) = true) →
      (s.grnBlocked k.val (s.willBe GRN.page true (GRN.STK_CFG_MODE k.val) (v ||| 1) == 2) (s.members k.val) = none →
        ∃ t, exec (.stkEnable k v) s = .next t ∧ t.get (GRN.STK_CFG_EN k.val) = 1 ∧
          ∀ n ∈ s.members k.val, ∀ ch ∈ cellChans n,
            (t.claim (resKey 1 ch)).cls = 2 ∧ (t.claim (resKey 1 ch)).inst = k.val) ∧
      (∀ ch, s.grnBlocked k.val (s.willBe GRN.page true (GRN.STK_CFG_MODE k.val) (v ||| 1) == 2) (s.members k.val) = some ch →
        exec (.stkEnable k v) s = .next (s.deny GRN.page (0x60 + 4 * k.val) (resKey 1 ch) 2 k.val))) ∧
    (s.willBe GRN.page true (GRN.STK_CFG_N_MIN k.val) (v ||| 1) ≤ (s.members k.val).length →
      s.willBe GRN.page true (GRN.STK_CFG_MODE k.val) (v ||| 1) ≠ 2 → s.sameCarrier (s.members k.val) = false →
      exec (.stkEnable k v) s = .next (s.refuse GRN.page (0x60 + 4 * k.val) gCARRIER)) ∧
    ((s.members k.val).length < s.willBe GRN.page true (GRN.STK_CFG_N_MIN k.val) (v ||| 1) →
      exec (.stkEnable k v) s = .next (s.refuse GRN.page (0x60 + 4 * k.val) gN_MIN))) ∧
  ((∀ (k : Fin 8) (v : Word) (s : State), s.takes GRN.page → s.get (GRN.STK_CFG_EN k.val) = 1 →
    stkCfgRange (v &&& ~~~1) = false →
    (s.stkState k.val = skIDLE → ∃ t, exec (.stkDisable k v) s = .next t ∧ t.get (GRN.STK_CFG_EN k.val) = 0 ∧
      t.stack k.val = {} ∧ ∀ n ∈ s.members k.val, ∀ ch ∈ cellChans n,
        ¬((t.claim (resKey 1 ch)).cls = 2 ∧ (t.claim (resKey 1 ch)).inst = k.val)) ∧
    (s.stkState k.val ≠ skIDLE →
      exec (.stkDisable k v) s = .next (s.refuse GRN.page (0x60 + 4 * k.val) gSTATE))) ∧
  (∀ (k : Fin 8) (v : Word) (s : State), s.takes GRN.page → s.locked GRN.page = false →
    s.get (GRN.STK_CFG_EN k.val) = 1 → v.getLsbD 0 = true → stkCfgRange v = false → getBits v 1 2 = 2 →
    s.get (GRN.STK_CFG_MODE k.val) ≠ 2 →
    (s.stkState k.val = skIDLE → ∃ t, exec (.stkModeWrite k v) s = .next t ∧ t.get (GRN.STK_CFG_MODE k.val) = 2 ∧
      (∀ r, t.claim r = s.claim r) ∧ t.sameRegsBut s [GRN.STK_CFG k.val]) ∧
    (s.stkState k.val ≠ skIDLE →
      exec (.stkModeWrite k v) s = .next (s.refuse GRN.page (0x60 + 4 * k.val) gSTATE)))) ∧
  ((∀ (k : Fin 6) (j : Nat) (v : Word) (s : State), s.takes GRN.page → s.locked GRN.page = false → j < 8 →
    getBits v (4 * j) 4 ≠ getBits (s.reg (GRN.CELL_STK k.val)) (4 * j) 4 →
    (∀ i, i < 8 → i ≠ j → getBits v (4 * i) 4 = getBits (s.reg (GRN.CELL_STK k.val)) (4 * i) 4) →
    exec (.cellStkWrite k v) s = .next (s.cellStkOne (8 * k.val + j) (getBits v (4 * j) 3) (getBits v (4 * j + 3) 1))) ∧
  (∀ (k : Fin 6) (s : State), s.takes GRN.page → exec (.cellStkWrite k (s.reg (GRN.CELL_STK k.val))) s = .next s) ∧
  (∀ (n stk memb : Nat) (s : State), n < 48 → stk < 8 → memb < 2 →
    (s.on (GRN.CELL_STK_MEMB (n / 8) (n % 8)) = true →
      s.on (GRN.STK_CFG_EN (s.get (GRN.CELL_STK_STK (n / 8) (n % 8)))) = false) →
    (memb = 1 → s.on (GRN.STK_CFG_EN stk) = false) →
    (s.cellStkOne n stk memb).get (GRN.CELL_STK_STK (n / 8) (n % 8)) = stk ∧
    (s.cellStkOne n stk memb).get (GRN.CELL_STK_MEMB (n / 8) (n % 8)) = memb ∧
    ∀ r, (s.cellStkOne n stk memb).claim r = s.claim r) ∧
  (∀ (n k stk : Nat) (s : State), n < 48 → s.stackOf n = some k → s.cst n ∉ [ckABSENT, ckBYPASSED, ckFAULTED, ckTEST] →
    s.cellStkOne n stk 0 = s.refuse GRN.page (0x40 + 4 * (n / 8)) gSTATE) ∧
  (∀ (n k stk : Nat) (s : State), n < 48 → s.stackOf n = some k → s.cst n ∈ [ckABSENT, ckBYPASSED, ckFAULTED, ckTEST] →
    s.cellStkOne n stk 0 = ((s.modCell n (fun c => { c with cmd := 0, leave := some k })).set
      (GRN.CELL_STK_STK (n / 8) (n % 8)) stk).set (GRN.CELL_STK_MEMB (n / 8) (n % 8)) 0) ∧
  (∀ (n k : Nat) (s : State), n < 48 → (s.cell n).leave = some k → s.claim (resKey 1 (2 * n)) = ⟨2, k, 0, 0⟩ →
    s.claim (resKey 1 (2 * n + 1)) = ⟨2, k, 0, 0⟩ → ((s.grnLeaveDue n).cell n).leave = none ∧
    (s.grnLeaveDue n).claim (resKey 1 (2 * n)) = ⟨0, 0, 0, 0⟩ ∧
    ((s.grnLeaveDue n).claim (resKey 1 (2 * n + 1))).cls = if s.get (dsvEn n) = 1 then 3 else 0) ∧
  (∀ (n stk : Nat) (s : State), n < 48 → stk < 8 → s.on (GRN.CELL_STK_MEMB (n / 8) (n % 8)) = false →
    s.on (GRN.STK_CFG_EN stk) = true →
    (s.grnFreed n (s.cell n).leave).grnBlocked stk false [n] = none →
    (s.get (GRN.STK_CFG_MODE stk) = 2 ∨ s.sameCarrier (n :: s.members stk) = true) →
    (s.cellStkOne n stk 1).cst n = if s.get (LANE.STAT_STATE n) = 6 then ckBYPASSED else ckABSENT))

/-- R60: a cell command for a member of an enabled stack, in a state the command accepts, is pending for the next pass;
BYPASS and SPARE of an ACTIVE cell only while N stays at N_MIN or above; CLEAR only while its fault is no longer
reported. R60, R79, R81: the refusals of a cell command: an index above 47, a state the command does not accept (or
a CLEAR of a fault still reported), then a cell that is not in an enabled stack, then N_MIN. R66, R68, R69: a stack
command for an enabled stack is pending for the next pass: PRECHARGE from IDLE, RUN from PRECHARGE under the
conditions of R68 (TRIPPED clears), STOP from any state, UNBLOCK from BLOCKED once no cause is reported; the
refusals of RUN in the order of R68's table. -/
def Obligations.CellAndStackCommands : Prop :=
  (∀ (c : Fin 64) (k : Nat) (s : State), c.val < 48 → s.takes GRN.page → s.stackOf c.val = some k →
    (s.cst c.val ∈ [ckACTIVE, ckSPARE, ckCHARGING] →
      (s.cst c.val = ckACTIVE → (s.cell c.val).cmd ∉ [1, 3] → s.get (GRN.STK_CFG_N_MIN k) + 1 ≤ s.nAfter k) →
      exec (.cellCmdBypass c) s = .next (s.modCell c.val (fun x => { x with cmd := 1 }))) ∧
    (s.cst c.val ∈ [ckBYPASSED, ckSPARE] →
      exec (.cellCmdReinsert c) s = .next (s.modCell c.val (fun x => { x with cmd := 2 }))) ∧
    (s.cst c.val ∈ [ckBYPASSED, ckACTIVE] →
      (s.cst c.val = ckACTIVE → (s.cell c.val).cmd ∉ [1, 3] → s.get (GRN.STK_CFG_N_MIN k) + 1 ≤ s.nAfter k) →
      exec (.cellCmdSpare c) s = .next (s.modCell c.val (fun x => { x with cmd := 3 }))) ∧
    (s.cst c.val = ckBYPASSED →
      exec (.cellCmdTest c) s = .next (s.modCell c.val (fun x => { x with cmd := 4 }))) ∧
    (s.cst c.val = ckFAULTED → (s.cell c.val).srcs &&& (s.cell c.val).faultSrc = 0 →
      exec (.cellCmdClear c) s = .next (s.modCell c.val (fun x => { x with cmd := 5 }))) ∧
    (s.cst c.val = ckTEST →
      exec (.cellCmdRelease c) s = .next (s.modCell c.val (fun x => { x with cmd := 6 })))) ∧
  ((∀ (c : Fin 64) (s : State), 48 ≤ c.val → s.pageGated GRN.page = false →
    exec (.cellCmdBypass c) s = .next (s.refuse GRN.page 0xC8 eRANGE) ∧
    exec (.cellCmdReinsert c) s = .next (s.refuse GRN.page 0xC8 eRANGE) ∧
    exec (.cellCmdSpare c) s = .next (s.refuse GRN.page 0xC8 eRANGE) ∧
    exec (.cellCmdTest c) s = .next (s.refuse GRN.page 0xC8 eRANGE) ∧
    exec (.cellCmdClear c) s = .next (s.refuse GRN.page 0xC8 eRANGE) ∧
    exec (.cellCmdRelease c) s = .next (s.refuse GRN.page 0xC8 eRANGE)) ∧
  (∀ (c : Fin 64) (s : State), c.val < 48 → s.takes GRN.page → s.stackOf c.val = none →
    (s.cst c.val ∈ [ckACTIVE, ckSPARE, ckCHARGING] →
      exec (.cellCmdBypass c) s = .next (s.refuse GRN.page 0xC8 gNOT_MEMBER)) ∧
    (s.cst c.val ∈ [ckBYPASSED, ckSPARE] →
      exec (.cellCmdReinsert c) s = .next (s.refuse GRN.page 0xC8 gNOT_MEMBER)) ∧
    (s.cst c.val = ckTEST → exec (.cellCmdRelease c) s = .next (s.refuse GRN.page 0xC8 gNOT_MEMBER))) ∧
  (∀ (c : Fin 64) (s : State), c.val < 48 → s.takes GRN.page →
    (s.cst c.val ∉ [ckACTIVE, ckSPARE, ckCHARGING] → exec (.cellCmdBypass c) s = .next (s.refuse GRN.page 0xC8 gSTATE)) ∧
    (s.cst c.val ∉ [ckBYPASSED, ckSPARE] → exec (.cellCmdReinsert c) s = .next (s.refuse GRN.page 0xC8 gSTATE)) ∧
    (s.cst c.val ∉ [ckBYPASSED, ckACTIVE] → exec (.cellCmdSpare c) s = .next (s.refuse GRN.page 0xC8 gSTATE)) ∧
    (s.cst c.val ≠ ckBYPASSED → exec (.cellCmdTest c) s = .next (s.refuse GRN.page 0xC8 gSTATE)) ∧
    (s.cst c.val ≠ ckFAULTED ∨ (s.cell c.val).srcs &&& (s.cell c.val).faultSrc ≠ 0 →
      exec (.cellCmdClear c) s = .next (s.refuse GRN.page 0xC8 gSTATE)) ∧
    (s.cst c.val ≠ ckTEST → exec (.cellCmdRelease c) s = .next (s.refuse GRN.page 0xC8 gSTATE))) ∧
  (∀ (c : Fin 64) (k : Nat) (s : State), c.val < 48 → s.takes GRN.page → s.stackOf c.val = some k →
    (s.cst c.val = ckACTIVE → (s.cell c.val).cmd ∉ [1, 3] → s.nAfter k < s.get (GRN.STK_CFG_N_MIN k) + 1 →
      exec (.cellCmdBypass c) s = .next (s.refuse GRN.page 0xC8 gN_MIN) ∧
      exec (.cellCmdSpare c) s = .next (s.refuse GRN.page 0xC8 gN_MIN)))) ∧
  (∀ (k : Fin 8) (s : State), s.takes GRN.page → s.on (GRN.STK_CFG_EN k.val) = true →
    (s.stkState k.val = skIDLE →
      exec (.stkCmdPrecharge k) s = .next (s.setStack k.val { s.stack k.val with cmd := 1 })) ∧
    (s.stkState k.val ≠ skIDLE → exec (.stkCmdPrecharge k) s = .next (s.refuse GRN.page 0xCC gSTATE)) ∧
    (s.armed = true → s.get (GRN.STK_CFG_N_MIN k.val) ≤ (s.activeOf k.val).length → s.pchIncomplete k.val = false →
      s.stkState k.val = skPRECHARGE →
      exec (.stkCmdRun k) s
        = .next ((s.setStack k.val { s.stack k.val with cmd := 2 }).set (GRN.STK_STAT_TRIPPED k.val) 0)) ∧
    (s.armed = false → exec (.stkCmdRun k) s = .next (s.refuse GRN.page 0xCC eARMED)) ∧
    (s.armed = true → (s.activeOf k.val).length < s.get (GRN.STK_CFG_N_MIN k.val) →
      exec (.stkCmdRun k) s = .next (s.refuse GRN.page 0xCC gN_MIN)) ∧
    (s.armed = true → s.get (GRN.STK_CFG_N_MIN k.val) ≤ (s.activeOf k.val).length → s.pchIncomplete k.val = true →
      exec (.stkCmdRun k) s = .next (s.refuse GRN.page 0xCC gPCH_INCOMPLETE)) ∧
    exec (.stkCmdStop k) s = .next (s.setStack k.val { s.stack k.val with cmd := 3 }) ∧
    (s.stkState k.val = skBLOCKED → (s.stack k.val).stkCause = false → s.underStill k.val = false →
      exec (.stkCmdUnblock k) s = .next (s.setStack k.val { s.stack k.val with cmd := 4 })) ∧
    ((s.stkState k.val ≠ skBLOCKED ∨ (s.stack k.val).stkCause = true ∨ s.underStill k.val = true) →
      exec (.stkCmdUnblock k) s = .next (s.refuse GRN.page 0xCC gSTATE)))

/-- R56, R61, R71–R73: entry into and return from a gap, a bypass not confirmed in time, and the overload limit with its
release. R46, R56: a duty never exceeds ±1, and a cell's power command never exceeds P_PEAK, nor P_CONT once the
overload time has run. -/
def Obligations.GapOverloadAndLimits : Prop :=
  ((∀ s : State, s.on GRN.GAP_CFG0_EN = true → s.on (GRN.STK_CFG_EN (s.get GRN.GAP_CFG0_STK)) = true →
    s.stkState (s.get GRN.GAP_CFG0_STK) = skRUN →
    s.get GRN.GAP_CFG1_GAP_N ≤ (s.stack (s.get GRN.GAP_CFG0_STK)).gapLo →
    ∃ t, exec .gapIn s = .next t ∧ t.stkState (s.get GRN.GAP_CFG0_STK) = skGAP ∧ t.raised GRN.page 4 ∧
      t.sameRegsBut s [GRN.STK_STAT (s.get GRN.GAP_CFG0_STK), HDR.IRQ_RAW GRN.page]) ∧
  (∀ s : State, s.on GRN.GAP_CFG0_EN = true → s.on (GRN.STK_CFG_EN (s.get GRN.GAP_CFG0_STK)) = true →
    s.stkState (s.get GRN.GAP_CFG0_STK) = skGAP →
    s.get GRN.GAP_CFG1_RET_N ≤ (s.stack (s.get GRN.GAP_CFG0_STK)).gapHi →
    ∃ t, exec .gapOut s = .next t ∧ t.stkState (s.get GRN.GAP_CFG0_STK) = skRUN ∧ t.raised GRN.page 5 ∧
      (t.stack (s.get GRN.GAP_CFG0_STK)).feOff = s.pidx + 1) ∧
  (∀ (n : Fin 48) (t0 : Nat) (s : State), (s.cell n.val).bypSince = some t0 → getBits (s.cell n.val).w3 12 2 ≠ 1 →
    ∃ t, exec (.bypFail n) s = .next t ∧ (t.cell n.val).bypFail = true ∧ t.raised GRN.page 8 ∧
      t0 + s.get GRN.SWAP_BYP_CONF * tMs ≤ t.now) ∧
  (∀ (n : Fin 48) (s : State), s.get GRN.PLIM2_OVL_MS * 100000 ≤ (s.cell n.val).ovlAbove →
    ∃ t, exec (.overloadLimit n) s = .next t ∧ (t.cell n.val).ovlLimited = true ∧
      (t.cell n.val).power ≤ s.pCont ∧ -s.pCont ≤ (t.cell n.val).power) ∧
  (∀ (n : Fin 48) (s : State), s.get GRN.PLIM2_OVL_MS * 100000 ≤ (s.cell n.val).ovlBelow →
    exec (.overloadRelease n) s = .next (s.modCell n.val (fun c => { c with ovlLimited := false }))) ∧
  (∀ (n : Fin 48) (s : State), (s.cell n.val).ovlAbove < s.get GRN.PLIM2_OVL_MS * 100000 →
    exec (.overloadLimit n) s = .next s)) ∧
  ((∀ (s : State) (k n : Nat) (d : Rat), -1 ≤ ((s.putDuty k n d).cell n).duty ∧ ((s.putDuty k n d).cell n).duty ≤ 1 ∧
    (1 < d ∨ d < -1 → (s.putDuty k n d).get (GRN.STK_STAT_SAT k) = 1)) ∧
  (∀ (s : State) (n : Nat), -s.pPeak ≤ ((s.limitCell n).cell n).power ∧ ((s.limitCell n).cell n).power ≤ s.pPeak ∧
    ((s.cell n).ovlLimited = true → -s.pCont ≤ ((s.limitCell n).cell n).power ∧
      ((s.limitCell n).cell n).power ≤ s.pCont)))

/-- R55: sharing leaves the stack's total power command unchanged when the active set changes. R51: once their net
effect is removed, the balancing trims of a stack add no voltage: the sum of t_i V_i is 0. -/
def Obligations.SharingAndTrims : Prop :=
  (∀ (s : State) (aOld aNew : List Nat), aNew ≠ [] →
    (aNew.map (fun n => ((s.share aOld aNew).cell n).power)).sum = (aOld.map (fun n => f32Rat (s.pub 3 n))).sum) ∧
  (∀ (s : State) (k : Nat) (vb : Rat) (sg : Int), ((s.activeOf k).map (fun n => (s.cell n).v1)).sum ≠ 0 →
    ((s.activeOf k).map (fun n => ((s.trims k vb sg).cell n).trim * ((s.cell n).v1 : Rat))).sum = 0)

/-! ### The DAB solver (R82–R103) -/

/-- R97, R98, R101, R112: enabling and disabling a cell of the solver, whose channel first takes the values due by then;
N_MAX.BUDGET then tells whether more cells are enabled than N. R99: a commit puts the staged words into the cell's
pending slot; at the opening of the window they replace the active block all at once and PAR_DONE is raised; a block
outside its ranges is refused with the slot unchanged. -/
def Obligations.SolverCellsAndParameters : Prop :=
  ((∀ (n : Fin 48) (s : State), s.takes DSV.page → s.get (dsvEn n.val) = 0 →
    (s.dsvCount < s.get DSV.N_MAX_N →
      (s.stackOf n.val = none → s.claimable (resKey 1 (2 * n.val + 1)) 3 n.val = true →
        (parOf (s.parWords n.val)).bad = false → ∃ t, exec (.dsvCellEnable n) s = .next t ∧ t.get (dsvEn n.val) = 1 ∧
          (t.claim (resKey 1 (2 * n.val + 1))).cls = 3 ∧ (t.claim (resKey 1 (2 * n.val + 1))).inst = n.val ∧
          (∀ m, m < 48 → m ≠ n.val → t.get (dsvEn m) = s.get (dsvEn m))) ∧
      ((s.stackOf n.val).isSome → (parOf (s.parWords n.val)).bad = false →
        exec (.dsvCellEnable n) s = .next (s.set (dsvEn n.val) 1).dsvOver) ∧
      (s.stackOf n.val = none → s.claimable (resKey 1 (2 * n.val + 1)) 3 n.val = false →
        exec (.dsvCellEnable n) s
          = .next (s.deny DSV.page (if n.val < 32 then 0x44 else 0x48) (resKey 1 (2 * n.val + 1)) 3 n.val).dsvOver) ∧
      ((s.stackOf n.val).isSome → (parOf (s.parWords n.val)).bad = true →
        exec (.dsvCellEnable n) s = .next (s.refuse DSV.page (if n.val < 32 then 0x44 else 0x48) dPARAM).dsvOver)) ∧
    (s.get DSV.N_MAX_N ≤ s.dsvCount →
      exec (.dsvCellEnable n) s = .next (s.refuse DSV.page (if n.val < 32 then 0x44 else 0x48) dBUDGET))) ∧
  (∀ (n : Fin 48) (s : State), s.takes DSV.page → s.get (dsvEn n.val) = 1 →
    ((s.stackOf n.val = none ∨ s.cst n.val ∉ [ckACTIVE, ckCHARGING, ckSPARE]) →
      exec (.dsvCellDisable n) s = .next (((s.chSync (2 * n.val + 1)).set (dsvEn n.val) 0).release
        (resKey 1 (2 * n.val + 1)) 3 n.val).dsvOver) ∧
    ((s.stackOf n.val).isSome → s.cst n.val ∈ [ckACTIVE, ckCHARGING, ckSPARE] →
      exec (.dsvCellDisable n) s = .next (s.refuse DSV.page (if n.val < 32 then 0x44 else 0x48) dSTATE).dsvOver))) ∧
  ((∀ (c : Fin 64) (s : State), s.takes DSV.page → c.val < 48 →
    (parOf ((List.range 8).map (fun i => if i < 6 then s.reg (DSV.PAR_STAGE0 + 4 * i) else 0))).bad = false →
    ∃ t, exec (.parCommit c) s = .next t ∧ t.get (dsvPend c.val) = 1 ∧
      (t.dsv c.val).pend = some ((List.range 8).map (fun i => if i < 6 then s.reg (DSV.PAR_STAGE0 + 4 * i) else 0)) ∧
      ∀ m, m ≠ c.val → t.dsv m = s.dsv m) ∧
  (∀ (c : Fin 64) (s : State), s.pageGated DSV.page = false →
    (48 ≤ c.val ∨ (parOf ((List.range 8).map (fun i => if i < 6 then s.reg (DSV.PAR_STAGE0 + 4 * i) else 0))).bad = true) →
    exec (.parCommit c) s = .next (s.refuse DSV.page 0x68 eRANGE)) ∧
  (∀ (n : Nat) (ws : List Word) (s : State), n < 48 → (s.dsv n).pend = some ws → ws.length = 8 →
    ∃ t, exec .parDone s = .next t ∧ (t.dsv n).pend = none ∧ t.get (dsvPend n) = 0 ∧ t.raised DSV.page 4 ∧
      ((∀ m, m < 48 → m ≠ n → (s.dsv m).pend = none) → ∀ w, w < 8 → t.reg (DSV.PAR_COPY (8 * n + w)) = ws.getD w 0)) ∧
  (∀ s : State, (∀ n, n < 48 → (s.dsv n).pend = none) → exec .parDone s = .next s))

/-- R24, R96, R97: in its window, before the closing instant, the solver solves the first N_MAX enabled cells in
ascending index and no other, and MOD then converts the sets. R92, R93, R101: a command below P_IDLE, or a voltage
outside its range, holds both bridges off; otherwise the flags ZVS_OK and HARD tell the count of hard transitions,
and with a slew limit φ moves from its last value by at most PHI_SLEW. R90: the solver's choice is one of the
candidates, and no candidate precedes it: with a candidate free of hard transitions the choice has none either and
no such candidate has a lower mean square current; otherwise none has fewer hard transitions. -/
def Obligations.SolverSolvesAndChooses : Prop :=
  ((∀ s : State, s.dsvRuns = true → s.window = 2 → s.now < s.bndAt + s.get TBS.PER_WIN1_W_GD * t10 →
    exec .dsvSolve s = .next s.dsvSolve.modCompute) ∧
  (∀ s : State, (s.window ≠ 2 ∨ s.bndAt + s.get TBS.PER_WIN1_W_GD * t10 ≤ s.now) → exec .dsvSolve s = .next s) ∧
  (∀ (s : State) (n : Nat), n ∈ s.dsvCells → (s.dsvSolve.dsv n).solved = true) ∧
  (∀ (s : State) (n : Nat), n ∉ s.dsvCells → s.dsvSolve.dsv n = s.dsv n) ∧
  (∀ s : State, s.dsvCells.length ≤ s.get DSV.N_MAX_N ∧ s.dsvCells.Pairwise (· < ·) ∧
    ∀ n ∈ s.dsvCells, n < 48 ∧ (s.dsv n).on = true)) ∧
  (∀ (p : DsvPar) (pIdle : Rat) (v1 v2 prd : Nat) (pw : Rat) (prev : Int) (st : Bool),
    ((v1 < p.v1min ∨ p.v1max < v1 ∨ v2 < p.v2min ∨ p.v2max < v2 ∨ (if pw < 0 then -pw else pw) < pIdle) →
      (solveCell p pIdle v1 v2 prd pw prev st).d1 = 0 ∧ (solveCell p pIdle v1 v2 prd pw prev st).d2 = 0 ∧
      (solveCell p pIdle v1 v2 prd pw prev st).phi = 0 ∧ (solveCell p pIdle v1 v2 prd pw prev st).idle = true) ∧
    ((solveCell p pIdle v1 v2 prd pw prev st).idle = false →
      ((solveCell p pIdle v1 v2 prd pw prev st).zvsOk = true ↔ (solveCell p pIdle v1 v2 prd pw prev st).nhard = 0) ∧
      ((solveCell p pIdle v1 v2 prd pw prev st).hard = true ↔ (solveCell p pIdle v1 v2 prd pw prev st).nhard ≠ 0) ∧
      (solveCell p pIdle v1 v2 prd pw prev st).nhard ≤ 4 ∧
      (p.phiSlew ≠ 0 → (solveCell p pIdle v1 v2 prd pw prev st).phi - prev ≤ p.phiSlew ∧
        prev - (solveCell p pIdle v1 v2 prd pw prev st).phi ≤ p.phiSlew))) ∧
  (∀ (m : Nat) (l : List Cand) (c : Cand), bestCand m l = some c → c ∈ l ∧ (∀ x ∈ l, Cand.better m x c = false) ∧
    ((∃ x ∈ l, x.nhard = 0) → c.nhard = 0 ∧ ∀ x ∈ l, x.nhard = 0 → c.msq ≤ x.msq) ∧
    (∀ x ∈ l, c.nhard ≤ x.nhard))

/-- The worked example of the solver's chapter: cell 8 of RS-48 at rated power, through a reversal, and at light power. -/
def Obligations.SolverWorkedExamples : Prop :=
  ∀ p : DsvPar, p = { llk := 0x1770, lm := 0x1770, ratio := 0x0834, izvs1 := 0x50, izvs2 := 0xA0, v1min := 0x3E80, v1max := 0x61A8,
                      v2min := 0x1F40, v2max := 0x2AF8, phiMax := 0x2000, phiSlew := 0x0800 } →
    (let r := solveCell p 1000 21000 10000 5000 100000 4073 false
     r.phi = 4073 ∧ r.d1 = 0x8000 ∧ r.d2 = 0x8000 ∧ r.zvsOk = true ∧ r.slew = false ∧ r.irms = 521 ∧ r.pdel = 10000) ∧
    (let r := solveCell p 1000 21000 10000 5000 (-100000) 4073 false
     r.phi = 2025 ∧ r.slew = true ∧ r.zvsOk = true ∧ r.pdel = 5327 ∧ r.irms = 265) ∧
    (let r := solveCell p 1000 21000 10000 5000 (-100000) 2025 false
     r.phi = -23 ∧ r.slew = true ∧ r.hard = true ∧ r.nhard = 4 ∧ r.irms = 3) ∧
    (let r := solveCell p 1000 21000 10000 5000 (-100000) (-2071) false
     r.phi = -4073 ∧ r.slew = false ∧ r.nhard = 0) ∧
    (let r := solveCell p 1000 21000 10000 5000 10000 361 false
     r.phi = 361 ∧ r.hard = true ∧ r.hmask = 0xF ∧ r.irms = 48 ∧ r.pdel = 1001)

/-! ### Modulators and the PWM time base (R104–R144) -/

/-- R107, R110: the events of a carrier follow one another strictly in time, and the lengthening of a carrier period
lies in (−PRD, PRD] and brings the next valley onto epoch + PHASE + j × T_car. R107, R112: a carrier event of a
running channel moves the clock to that event, and the channel acts on its events up to it; a channel that does not
run has none. R107, R114, R123: a write to PRD of a cell channel, outside the tick of its capture, is taken within
its range and within the event budget of its cell, and refused with RANGE or EVENTS otherwise. -/
def Obligations.CarrierEventsAndPeriod : Prop :=
  ((∀ (c : Chan) (x : Int), 0 < c.act.prd → -(c.act.prd : Int) < c.dl → c.dl ≤ c.act.prd → x < (c.nextEvent x).1) ∧
  (∀ prd phase v : Int, 0 < prd → -prd < reGrid prd phase v ∧ reGrid prd phase v ≤ prd ∧
    (v + reGrid prd phase v - phase) % (2 * prd) = 0) ∧
  (∀ (c : Chan) (v : Int) (p ph : Nat), c.turn = some (p, ph) → (c.turnAt true v).act.prd = p ∧
    (c.turnAt true v).act.phase = ph ∧ (c.turnAt true v).turn = none ∧ (c.turnAt true v).act.cmpa = c.act.cmpa)) ∧
  ((∀ (ch : Fin 108) (s : State), (if ch.val < 96 then s.chRuns ch.val else s.legRuns (ch.val - 96)) = false →
    exec (.carrierValley ch) s = .next s ∧ exec (.carrierPeak ch) s = .next s) ∧
  (∀ (ch : Fin 108) (s : State) (c : Chan) (valley : Bool) (x : Int), ch.val < 96 → s.chRuns ch.val = true →
    c = { s.chan ch.val with pos := max (s.chan ch.val).pos (16 * s.nowTick - 1) } →
    x = (if (c.nextEvent c.pos).2 = valley then (c.nextEvent c.pos).1 else (c.nextEvent (c.nextEvent c.pos).1).1) →
    ∃ t d, exec (if valley then .carrierValley ch else .carrierPeak ch) s = .next t ∧
      t = (s.advance (s.ofFine x)).putChan ch.val d ∧
      (d = if s.chWaits ch.val (s.perOf x) (s.chan ch.val) then
          (s.chan ch.val).runTo (s.chTr ch.val (s.perOf x)) (s.chRld ch.val) true 400 x
        else { s.chan ch.val with pos := max c.pos x })) ∧
  (∀ (ch : Fin 108) (s : State) (c : Chan) (valley : Bool) (x : Int), 96 ≤ ch.val → s.legRuns (ch.val - 96) = true →
    c = { s.chan ch.val with pos := max (s.chan ch.val).pos (16 * s.nowTick - 1) } →
    x = (if (c.nextEvent c.pos).2 = valley then (c.nextEvent c.pos).1 else (c.nextEvent (c.nextEvent c.pos).1).1) →
    exec (if valley then .carrierValley ch else .carrierPeak ch) s
      = .next ((s.advance (s.ofFine x)).legRun (ch.val - 96) x))) ∧
  (∀ (ch : Fin 96) (v : Word) (s : State), s.takes (chPage ch.val) →
    (prdOk ch.val (v.toNat % 131072) = false →
      exec (.chPrdWrite ch v) s = .next (s.refuse (chPage ch.val) (chOfs ch.val 4) eRANGE)) ∧
    (prdOk ch.val (v.toNat % 131072) = true →
      budgetOk (s.get TBS.PER_CFG_PERIOD)
        (if ch.val % 2 = 1 then v.toNat % 131072 else s.get (MODCH.PRD_PRD (ch.val + 1)))
        (if ch.val % 2 = 0 then v.toNat % 131072 else s.get (MODCH.PRD_PRD (ch.val - 1))) = false →
      exec (.chPrdWrite ch v) s = .next (s.refuse (chPage ch.val) (chOfs ch.val 4) mEVENTS)) ∧
    (prdOk ch.val (v.toNat % 131072) = true → s.nowTick ≠ s.capTickNow →
      budgetOk (s.get TBS.PER_CFG_PERIOD)
        (if ch.val % 2 = 1 then v.toNat % 131072 else s.get (MODCH.PRD_PRD (ch.val + 1)))
        (if ch.val % 2 = 0 then v.toNat % 131072 else s.get (MODCH.PRD_PRD (ch.val - 1))) = true →
      ∃ t, exec (.chPrdWrite ch v) s = .next t ∧ t.get (MODCH.PRD_PRD ch.val) = v.toNat % 131072 ∧
        t.sameRegsBut s [ MODCH.PRD ch.val] ∧ ∀ c, t.chan c = s.chan c))

/-- R3, R125, R491: enabling a local leg claims it, and disabling it releases it and drops its block; on a build without
islands the write changes its own register and nothing else. R135–R138, R438, R442: a halt of a host pair or an
engine the configuration takes raises source DBG and begins the reaction HALT_MODE selects, where the debug port
grants the capability; a halt of a safety core latches lock-out cause CORE; a stopped clock raises CLK, disarms the
stage and releases the OWN line; the end of a halt leaves the reaction. -/
def Obligations.LegsAndHalts : Prop :=
  ((∀ (k : Fin 12) (v : Word) (s : State), s.takes LPW.page → s.isl = true → s.get (LPW.CFG_EN k.val) = 0 →
    getBits v 1 3 < 6 → getBits v 4 2 ≠ 0 → s.claimable (resKey 2 k.val) 1 k.val = true →
    ∃ t, exec (.legEnable k v) s = .next t ∧ t.get (LPW.CFG_EN k.val) = 1 ∧ (t.claim (resKey 2 k.val)).cls = 1 ∧
      (t.claim (resKey 2 k.val)).inst = k.val ∧ ∀ r, r ≠ resKey 2 k.val → t.claim r = s.claim r) ∧
  (∀ (k : Fin 12) (v : Word) (s : State), s.takes LPW.page → s.isl = true → s.get (LPW.CFG_EN k.val) = 1 → getBits v 1 3 < 6 →
    getBits v 4 2 ≠ 0 → (s.claim (resKey 2 k.val)).cls = 1 → (s.claim (resKey 2 k.val)).inst = k.val →
    ∃ t, exec (.legDisable k v) s = .next t ∧ t.get (LPW.CFG_EN k.val) = 0 ∧ t.claim (resKey 2 k.val) = {} ∧
      t.legBlk.testBit k.val = false) ∧
  (∀ (k : Fin 12) (v : Word) (s : State), s.takes LPW.page → s.isl = false →
    exec (.legEnable k v) s = .next (s.take .lpw LPW.page (0x80 + 0x20 * k.val) (v ||| 1)) ∧
    ∀ r, (s.take .lpw LPW.page (0x80 + 0x20 * k.val) (v ||| 1)).claim r = s.claim r) ∧
  (∀ (k : Fin 12) (v : Word) (s : State), s.isl = true → s.pageGated LPW.page = false → (6 ≤ getBits v 1 3 ∨ getBits v 4 2 = 0) →
    exec (.legEnable k v) s = .next (s.refuse LPW.page (0x80 + 0x20 * k.val) eRANGE) ∧
    exec (.legDisable k v) s = .next (s.refuse LPW.page (0x80 + 0x20 * k.val) eRANGE))) ∧
  ((∀ (h : Fin 5) (s : State), h.val < 3 → s.dbgHas 1 = true → (s.get PWR.STAT_STATE = 2 → s.pwr.left < 3) →
    (match h.val with | 0 => s.on MOD.CFG_HALT_HCA | 1 => s.on MOD.CFG_HALT_HCB | _ => s.on MOD.CFG_HALT_LE) = true →
    ∃ t, exec (.halt h) s = .next t ∧ t.haltMode ≠ 0 ∧ ((s.unRearm 13).haltMode = 0 → t.raised MOD.page 2) ∧ t.get ⟨TRP.ISTAT, 5, 1⟩ = 1 ∧
      t.get ⟨TRP.ISTAT, 13, 1⟩ = 1 ∧ (∀ n, n < 48 → t.cellTripped n = true) ∧
      ((s.unRearm 13).haltMode = 0 → s.get MOD.CFG_HALT_MODE = 0 → t.haltMode = 1)) ∧
  (∀ (h : Fin 5) (s : State), h.val < 3 → s.dbgHas 1 = true → s.get PWR.STAT_STATE ≠ 2 →
    (match h.val with | 0 => s.on MOD.CFG_HALT_HCA | 1 => s.on MOD.CFG_HALT_HCB | _ => s.on MOD.CFG_HALT_LE) = false →
    exec (.halt h) s = .next s.dbgTouch) ∧
  (∀ (h : Fin 5) (s : State), s.dbgHas (if h.val < 3 then 1 else 3) = false → exec (.halt h) s = .next s) ∧
  (∀ (h : Fin 5) (s : State), 3 ≤ h.val → s.dbgHas 3 = true →
    exec (.halt h) s = .next (s.dbgTouch.safLock lkCORE (h.val - 3)) ∧
    (s.dbgTouch.safLock lkCORE (h.val - 3)).get SAF.STAT_LOCKOUT = 1 ∧
    (s.get SAF.STAT_LOCKOUT = 0 → (s.dbgTouch.safLock lkCORE (h.val - 3)).get SAF.LOCK_CAUSE = lkCORE)) ∧
  (∀ s : State, ∃ t, exec .clockStop s = .next t ∧ t.get ⟨TRP.ISTAT, 6, 1⟩ = 1 ∧ t.get ⟨TRP.ISTAT, 14, 1⟩ = 1 ∧
    t.haltMode ≠ 0 ∧ t.armed = false ∧ t.get STL.STAT_OWN_HELD = 0 ∧ t.get MOD.TB_STAT_LOCK = 0 ∧ t.get MOD.TB_STAT_CAL_OK = 0) ∧
  (∀ s : State, ∃ t, exec (.haltEnd 3) s = .next t ∧ t.get MOD.TB_STAT_LOCK = 1 ∧ t.get MOD.TB_STAT_CAL_OK = 1) ∧
  (∀ (h : Fin 4) (s : State), ∃ t, exec (.haltEnd h) s = .next t ∧ t.halts.testBit h.val = false ∧
    t.haltMode = s.haltMode ∧ t.latches = s.latches ∧ t.frozen = s.frozen))

/-- R127, R128, R130, R143: a trip sets FLAG and LATCH of its source and raises TRIP; its latch covers the outputs named
at that instant; with no latch standing before, FIRST takes the source and the period index; a latch of the source
that a REARM of the same tick has cleared stands again (R131). R126, R127: an enabled input whose active level has
lasted its filter time trips every output, or the outputs of its groups; a level that ends leaves the source
inactive from its end; source SW trips every output. R131, R132: leaving a trip takes two writes: the FLAG of an
inactive source clears and that of an active one stays; REARM clears the latch of a source whose FLAG is clear and
that has been inactive for 1 µs; one in the tick in which the source trips is refused with INACT_SHORT. -/
def Obligations.TripsAndTheirExit : Prop :=
  (∀ (s : State) (src hiz asc cells : Nat), src < 16 →
    (s.trip src hiz asc cells).get (flagFld src) = 1 ∧ (s.trip src hiz asc cells).get (latchFld src) = 1 ∧
    (s.trip src hiz asc cells).raised TRP.page 0 ∧
    (⟨src, hiz &&& s.allLegs, asc &&& s.allLegs, cells⟩ : Latch) ∈ (s.trip src hiz asc cells).latches ∧
    ((s.unRearm src).latches = [] → (s.trip src hiz asc cells).get TRP.FIRST_SRC = src ∧
      (s.trip src hiz asc cells).get TRP.FIRST_PIDX = s.pidx % 2 ^ 24) ∧
    (∀ l ∈ s.latches, l.src ≠ src → l ∈ (s.trip src hiz asc cells).latches) ∧
    (∀ (r : RearmRec) (l : Latch), s.rearmed = some r → s.tickOf r.at_ = s.nowTick → src ≠ 12 → l ∈ r.latches → l.src = src →
      l ∈ (s.trip src hiz asc cells).latches ∧ (s.trip src hiz asc cells).get (HDR.ERR_CODE_CODE TRP.page) = tINACT_SHORT) ∧
    (∀ n, cells.testBit n = true → (s.trip src hiz asc cells).cellTripped n = true)) ∧
  ((∀ (n : Fin 8) (l : Bool) (held : Nat) (s u : State), (l == (s.get TRP.CFG_POL).testBit n.val) = true →
    (s.get TRP.CFG_EN).testBit n.val = true → s.flt n.val * 10 ≤ held → s.get ⟨TRP.STAT, n.val, 1⟩ = 0 →
    u = ({ s with trpIn := SMap.ins s.trpIn n.val (l, s.now - held * tNs) }.set ⟨TRP.STAT, n.val, 1⟩ 1).srcActive n.val true →
    (s.get TRP.CFG_GROUPS = 0 → exec (.tripInput n l held) s = .next (u.trip n.val 0xFFF 0 allCells)) ∧
    (s.get TRP.CFG_GROUPS = 1 → ∀ g, g = u.groupOuts (u.gmap n.val) →
      exec (.tripInput n l held) s = .next (u.trip n.val g.1 g.2.1 g.2.2))) ∧
  (∀ (n : Fin 8) (l : Bool) (held : Nat) (s : State), (l == (s.get TRP.CFG_POL).testBit n.val) = true →
    (s.get TRP.CFG_EN).testBit n.val = true → held < s.flt n.val * 10 →
    exec (.tripInput n l held) s = .next { s with trpIn := SMap.ins s.trpIn n.val (l, s.now - held * tNs) }) ∧
  (∀ (n : Fin 8) (l : Bool) (held : Nat) (s : State), (s.get TRP.CFG_EN).testBit n.val = false →
    s.get ⟨TRP.STAT, n.val, 1⟩ = 0 →
    exec (.tripInput n l held) s = .next { s with trpIn := SMap.ins s.trpIn n.val (l, s.now - held * tNs) }) ∧
  (∀ (n : Fin 8) (l : Bool) (held : Nat) (s : State), (l == (s.get TRP.CFG_POL).testBit n.val) = false →
    s.get ⟨TRP.STAT, n.val, 1⟩ = 1 → ∃ t, exec (.tripInput n l held) s = .next t ∧ t.get ⟨TRP.STAT, n.val, 1⟩ = 0 ∧
      t.srcAct.testBit n.val = false ∧ t.latches = s.latches ∧ t.sameRegsBut s [TRP.STAT]) ∧
  (∀ s : State, s.takes TRP.page → ∃ t, exec .trpSwtrip s = .next t ∧ t.get ⟨TRP.ISTAT, 7, 1⟩ = 1 ∧
    t.get ⟨TRP.ISTAT, 15, 1⟩ = 1 ∧ t.raised TRP.page 0 ∧ (⟨15, s.allLegs, 0, allCells⟩ : Latch) ∈ t.latches)) ∧
  ((∀ (i : Bool) (b : Nat) (s : State), s.takes TRP.page → b < 8 →
    s.get (flagFld ((if i then 8 else 0) + b)) = 1 →
    (s.srcNow ((if i then 8 else 0) + b) = false →
      exec (.trpFlagClear i (BitVec.ofNat 8 (1 <<< b))) s = .next (s.set (flagFld ((if i then 8 else 0) + b)) 0)) ∧
    (s.srcNow ((if i then 8 else 0) + b) = true →
      exec (.trpFlagClear i (BitVec.ofNat 8 (1 <<< b))) s
        = .next ((s.irq TRP.page 1).refuse TRP.page (if i then 0x78 else 0x74) tTRIP_ACTIVE))) ∧
  (∀ (src : Nat) (s : State), s.takes TRP.page → src < 16 → s.get (latchFld src) = 1 →
    (s.tripsNow src = true → exec (.trpRearm (BitVec.ofNat 16 (1 <<< src))) s
      = .next ((s.irq TRP.page 1).refuse TRP.page 0x7C tINACT_SHORT)) ∧
    (s.get (flagFld src) = 1 → s.tripsNow src = false → exec (.trpRearm (BitVec.ofNat 16 (1 <<< src))) s
      = .next ((s.irq TRP.page 1).refuse TRP.page 0x7C tFLAG_SET)) ∧
    (s.get (flagFld src) = 0 → s.inactLong src = false → exec (.trpRearm (BitVec.ofNat 16 (1 <<< src))) s
      = .next ((s.irq TRP.page 1).refuse TRP.page 0x7C tINACT_SHORT)) ∧
    (s.get (flagFld src) = 0 → s.inactLong src = true → ∃ t, exec (.trpRearm (BitVec.ofNat 16 (1 <<< src))) s = .next t ∧
      t.get (latchFld src) = 0 ∧ t.raised TRP.page 2 ∧ ∀ l ∈ t.latches, l.src ≠ src)))

/-- R133, R134: the first condition of the table that applies decides the command lines of a local leg, as OUT reports
them. -/
def Obligations.OutputPrecedence : Prop :=
  ∀ (s : State) (k : Nat), k < 12 →
    ((s.armed = false ∨ s.hizLegs.testBit k = true) → s.legCode k = 2) ∧
    (s.armed = true → s.hizLegs.testBit k = false → s.ascLegs.testBit k = true → s.legCode k = 3) ∧
    (s.armed = true → s.hizLegs.testBit k = false → s.ascLegs.testBit k = false → s.haltMode = 1 → s.legCode k = 4) ∧
    (s.armed = true → s.hizLegs.testBit k = false → s.ascLegs.testBit k = false → s.haltMode = 2 → s.legCode k = 5) ∧
    (s.armed = true → s.hizLegs.testBit k = false → s.ascLegs.testBit k = false → s.haltMode = 0 →
      (s.legBlk.testBit k = true → s.legCode k = 6) ∧
      (s.legBlk.testBit k = false → ((s.chan (96 + k)).act.mode = 0 ∨ s.legWait.testBit k = true) → s.legCode k = 1) ∧
      (s.legBlk.testBit k = false → (s.chan (96 + k)).act.mode ≠ 0 → s.legWait.testBit k = false →
        s.get (LPW.CFG_EN k) = 1 → s.legCode k = 0))

/-! ### Brejalink cell links (R145–R184) -/

/-- R150, R164, R181, R183: enabling a lane takes it from OFF to LOCK; disabling it takes it OFF at once with cause
DISABLED and ends its session; a write with a reserved CMD is refused. R164, R177, R181, R182: what a lane going
DOWN leaves: its cause, no session, its events, and its bit of UP_MAP clear; a lane that was UP sets its bit of
DOWN_MAP. R147, R164, R166, R168, R175, R181: what moves a lane between its states, and what leaves it where it is. -/
def Obligations.LaneStatesAndTraining : Prop :=
  ((∀ (n : Fin 48) (v : Word) (s : State), s.takes (LANE.page n.val) → s.get (LANE.CFG_EN n.val) = 0 →
    getBits v 3 3 < 5 → getBits v 1 2 = 0 → ∃ t, exec (.laneEnable n v) s = .next t ∧ t.ln n.val = lnLOCK ∧
      t.get (LANE.CFG_EN n.val) = 1 ∧ ∀ m, m < 48 → m ≠ n.val → t.ln m = s.ln m) ∧
  (∀ (n : Fin 48) (v : Word) (s : State), s.takes (LANE.page n.val) → s.get (LANE.CFG_EN n.val) = 1 →
    getBits v 3 3 < 5 → getBits v 1 2 = 0 → s.ln n.val ≠ lnOFF → ∃ t, exec (.laneDisable n v) s = .next t ∧
      t.ln n.val = lnOFF ∧ t.get (LANE.STAT_DCAUSE n.val) = dcDISABLED ∧ t.get (LANE.SID_SID n.val) = 0 ∧
      (t.lane n.val).ks = none ∧ (t.lane n.val).hdr = {} ∧ ∀ m, m < 48 → m ≠ n.val → t.ln m = s.ln m) ∧
  (∀ (n : Fin 48) (v : Word) (s : State), s.pageGated (LANE.page n.val) = false → 5 ≤ getBits v 3 3 →
    exec (.laneEnable n v) s = .next (s.refuse (LANE.page n.val) 0x40 eRANGE) ∧
    exec (.laneDisable n v) s = .next (s.refuse (LANE.page n.val) 0x40 eRANGE) ∧
    exec (.prbsStart n v) s = .next (s.refuse (LANE.page n.val) 0x40 eRANGE))) ∧
  (∀ (n cause : Nat) (s : State), n < 48 → 1 ≤ cause → cause ≤ 12 → s.ln n ≠ lnOFF → s.ln n ≠ lnDOWN →
    (s.lnDown n cause).ln n = lnDOWN ∧ (s.lnDown n cause).get (LANE.STAT_DCAUSE n) = cause ∧
    (s.lnDown n cause).get (LANE.SID_SID n) = 0 ∧ ((s.lnDown n cause).lane n).ks = none ∧
    (s.lnDown n cause).get (mapBit BLK.UP_MAP0 BLK.UP_MAP1 n) = 0 ∧
    (s.lnDown n cause).raised (LANE.page n) 1 ∧ (s.lnDown n cause).raised BLK.page 1 ∧
    (s.ln n = lnUP → (s.lnDown n cause).get (mapBit BLK.DOWN_MAP0 BLK.DOWN_MAP1 n) = 1) ∧
    (∀ m, m < 48 → m ≠ n → (s.lnDown n cause).ln m = s.ln m ∧ (s.lnDown n cause).lane m = s.lane m)) ∧
  ((∀ (n : Fin 48) (hdrs : List (BitVec 2)) (s : State), s.ln n.val = lnLOCK → (s.lane n.val).hdr = {} →
    (hdrs.length = 64 → (∀ h ∈ hdrs, h = 1 ∨ h = 2) → ∃ t, exec (.blockLock ⟨n, hdrs⟩) s = .next t ∧ t.ln n.val = lnHELLO ∧
      (t.lane n.val).hdr.lock = true ∧ (t.lane n.val).tx = some s.helloFrame) ∧
    (hdrs.length < 64 → ∃ t, exec (.blockLock ⟨n, hdrs⟩) s = .next t ∧ t.ln n.val = lnLOCK ∧ (t.lane n.val).hdr.lock = false ∧
      t.regs = s.regs)) ∧
  (∀ (n : Fin 48) (hdrs : List (BitVec 2)) (s : State), s.ln n.val ∈ [lnOFF, lnPRBS] → exec (.blockLock ⟨n, hdrs⟩) s = .next s ∧
    exec (.blockLockLoss ⟨n, hdrs⟩) s = .next s) ∧
  (∀ (n : Fin 48) (s : State), s.ln n.val ∉ [lnOFF, lnLOCK, lnPRBS, lnDOWN] → (s.lane n.val).hdr.lock = true →
    (s.lane n.val).hdr.hist.count false = 0 →
    (∃ t, exec (.blockLockLoss ⟨n, List.replicate 16 3⟩) s = .next t ∧ t.ln n.val = lnDOWN ∧
      t.get (LANE.STAT_DCAUSE n.val) = dcLOCK_LOSS ∧ (t.lane n.val).hdr.lock = false ∧
      t.get (LANE.BLKERR_HDR n.val) = min 65535 (s.get (LANE.BLKERR_HDR n.val) + 16)) ∧
    (∃ t, exec (.blockLockLoss ⟨n, List.replicate 15 0⟩) s = .next t ∧ t.ln n.val = s.ln n.val ∧
      (t.lane n.val).hdr.lock = true ∧ t.get (LANE.BLKERR_HDR n.val) = min 65535 (s.get (LANE.BLKERR_HDR n.val) + 15))) ∧
  (∀ (n : Fin 48) (s : State), (s.ln n.val = lnHELLO → ∃ t, exec (.helloTimer n) s = .next t ∧
      (t.lane n.val).tx = some s.helloFrame ∧ t.regs = s.regs) ∧
    (s.ln n.val ≠ lnHELLO → exec (.helloTimer n) s = .next s ∧ exec (.helloTmo n) s = .next s)) ∧
  (∀ (n : Fin 48) (s : State), s.ln n.val = lnHELLO → ∃ t, exec (.helloTmo n) s = .next t ∧ t.ln n.val = lnDOWN ∧
    t.get (LANE.STAT_DCAUSE n.val) = dcHELLO_TMO ∧ t.now = max s.now ((s.lane n.val).since + 10 * tMs)) ∧
  (∀ (n : Fin 48) (s : State), s.ln n.val = lnDOWN → s.get (LANE.CFG_EN n.val) = 1 → ∃ t, exec (.downRetry n) s = .next t ∧
    t.ln n.val = lnLOCK ∧ t.now = max s.now ((s.lane n.val).since + s.get BLK.TMO_RETRY * 10 * tMs)) ∧
  (∀ (n : Fin 48) (s : State), s.ln n.val = lnUP → (s.get BLK.TMO_STAT_MISS ≤ (s.lane n.val).miss →
      exec (.statMiss n) s = .next (s.lnDown n.val dcSTAT_MISS)) ∧
    ((s.lane n.val).miss < s.get BLK.TMO_STAT_MISS → exec (.statMiss n) s = .next s)) ∧
  (∀ (n : Fin 48) (s : State), s.ln n.val = lnMEASURE → s.get MOD.TB_STAT_LOCK = 1 → (s.lane n.val).out = none →
    256 ≤ (s.lane n.val).reqs → exec (.measureLimit n) s = .next (s.lnDown n.val dcDLY_BUDGET)) ∧
  (∀ (n : Fin 48) (e : Word) (s : State), s.ln n.val = lnPRBS → ∃ t, exec (.prbsEnd n e) s = .next t ∧
    t.ln n.val = lnLOCK ∧ (e ≠ 0 → t.raised (LANE.page n.val) 5) ∧
    t.now = max s.now ((s.lane n.val).since + s.get (LANE.CFG_PRBS_MS n.val) * tMs)) ∧
  (∀ (n : Fin 48) (s : State), s.ln n.val = lnKEY → 3 ≤ (s.lane n.val).tries → ∃ t, exec (.sopenRetry n) s = .next t ∧
    t.ln n.val = lnDOWN ∧ t.get (LANE.STAT_DCAUSE n.val) = dcKEY) ∧
  (∀ (n : Fin 48) (s : State) (kp : BitVec 256), s.ln n.val = lnKEY → (s.lane n.val).tries < 3 →
    s.pairKey (s.get (LANE.PEER2_KID n.val)) = some kp → ∃ t, exec (.sopenRetry n) s = .next t ∧ t.ln n.val = lnKEY ∧
      (t.lane n.val).tries = (s.lane n.val).tries + 1 ∧ (t.lane n.val).sidP ≠ 0))

/-- R151, R153, R154, R166–R168, R176, R180: a HELLO is judged before it is taken: its blocks, its CRC, its type and
length, its role, and then version, capabilities and UID; in MEASURE to UP a HELLO that is no late repeat shows a
restart. R154, R168–R171: a good SACK opens the session and sends the CFG of CONFIG; a CFGACK with every result OK
takes the lane to UP and its cell to BYPASSED, and outside CONFIG and UP it is only checked; a CFG without a CFGACK
for CFG_TMO periods is given up and sent again. R151, R154, R158, R159: the stray blocks of a lane that decodes are
counted; a STATUS where none is awaited is only checked, and one that passes its checks in UP counts as valid; one
that arrives late, or is not of this period, counts in LATE and its data are not used; a timely one is held for the
latch at the close of the uplink window. -/
def Obligations.HelloSessionAndStatus : Prop :=
  ((∀ (n : Fin 48) (f : Frame) (s : State), s.lnDecodes n.val = true → f.stray = 0 →
    ((f.cut = true ∨ f.body.length ≠ 8 * f.len) → exec (.helloRx n f) s = .next (s.bump (LANE.ERR_MALF n.val))) ∧
    (frameCheck f 0 5 4 none = 1 → ∃ t, exec (.helloRx n f) s = .next t ∧ t.ln n.val = s.ln n.val ∧ t.raised (LANE.page n.val) 4 ∧
      t.get (LANE.ERR_CRCERR n.val) = min 255 (s.get (LANE.ERR_CRCERR n.val) + 1)) ∧
    (frameCheck f 0 5 4 none = 0 → leNat f.body 9 1 % 2 = 1 →
      exec (.helloRx n f) s = .next (s.bump (LANE.ERR_MALF n.val)))) ∧
  (∀ (n : Fin 48) (f : Frame) (s : State), s.ln n.val = lnHELLO → frameCheck f 0 5 4 none = 0 → leNat f.body 9 1 % 2 = 0 →
    ∃ t, exec (.helloRx n f) s = .next t ∧ t.get (LANE.PEER2_VERMAX n.val) = leNat f.body 8 1 ∧
      t.get (LANE.PEER3_CAP n.val) = leNat f.body 10 2 ∧
      ((leNat f.body 8 1 < 0x13 ∨ listedVer (min (s.get BLK.CFG_VMAX) (leNat f.body 8 1)) < s.get BLK.CFG_VMIN) →
        t.ln n.val = lnDOWN ∧ t.get (LANE.STAT_DCAUSE n.val) = dcVERSION ∧ t.raised BLK.page 3) ∧
      (0x13 ≤ leNat f.body 8 1 → s.get BLK.CFG_VMIN ≤ listedVer (min (s.get BLK.CFG_VMAX) (leNat f.body 8 1)) →
        s.get BLK.CFG_SSC = 0 → (∀ m, m < 48 → m ≠ n.val → s.ln m ∉ [lnMEASURE, lnKEY, lnCONFIG, lnUP]) →
        t.ln n.val = lnMEASURE ∧ t.get (LANE.STAT_VER n.val) = listedVer (min (s.get BLK.CFG_VMAX) (leNat f.body 8 1)) ∧
        (t.lane n.val).out = some (0, s.now))) ∧
  (∀ (n : Fin 48) (f : Frame) (s : State), s.ln n.val ∈ [lnCONFIG, lnUP] → frameCheck f 0 5 4 none = 0 →
    leNat f.body 9 1 % 2 = 0 → exec (.helloRx n f) s = .next ((s.lnStrays n.val f).lnDown n.val dcRESTART)) ∧
  (∀ v : Nat, (listedVer v = 0 ↔ v < 0x13) ∧ (0x13 ≤ v → listedVer v ∈ [0x13, 0x20, 0x21] ∧ listedVer v ≤ v) ∧
    ∀ w ∈ [0x13, 0x20, 0x21], w ≤ v → w ≤ listedVer v)) ∧
  ((∀ (n : Fin 48) (f : Frame) (s : State) (kp : BitVec 256), s.ln n.val = lnKEY → s.get (LANE.STAT_VER n.val) = 0x21 →
    s.pairKey (s.get (LANE.PEER2_KID n.val)) = some kp → frameCheck f 0 7 6 (some 0x21) = 0 →
    (f.body.drop 28).take 16 = bytes128 (Config.gmac
      (sessionKey kp (s.lane n.val).sidP (bytes128 (s.lane n.val).nm) ((f.body.drop 8).take 16))
      (leBytes 4 (s.lane n.val).sidP ++ [1, 7] ++ leBytes 6 0) (f.body.take 28)) → (s.lane n.val).sidP < 2 ^ 32 →
    ∃ t, exec (.sackRx n f) s = .next t ∧ t.ln n.val = lnCONFIG ∧ t.get (LANE.SID_SID n.val) = (s.lane n.val).sidP ∧
      (t.lane n.val).ks = some (sessionKey kp (s.lane n.val).sidP (bytes128 (s.lane n.val).nm) ((f.body.drop 8).take 16)) ∧
      (t.lane n.val).ccntTx = 1 ∧ (t.lane n.val).await.isSome) ∧
  (∀ (n : Nat) (a : CfgWait) (res : List Nat) (s : State), n < 48 → a.kind = 0 → (∀ r ∈ res, r = 0) →
    (s.cfgAcked n a res).ln n = lnUP ∧ (s.cfgAcked n a res).cst n = ckBYPASSED ∧ (s.cfgAcked n a res).raised (LANE.page n) 0 ∧
    (s.cfgAcked n a res).get (mapBit BLK.HOT_MAP0 BLK.HOT_MAP1 n) = 1 ∧
    (s.cfgAcked n a res).get (mapBit BLK.UP_MAP0 BLK.UP_MAP1 n) = 1) ∧
  (∀ (n : Fin 48) (f : Frame) (s : State), s.ln n.val ∉ [lnCONFIG, lnUP] →
    (s.lnDecodes n.val = false → exec (.cfgackRx n f) s = .next s) ∧
    (s.lnDecodes n.val = true → exec (.cfgackRx n f) s = .next ((s.lnStrays n.val f).lnErr n.val
      (frameCheck f (s.get (LANE.SID_SID n.val)) 4
        ((36 + leNat f.body 20 1 + tagLen (s.get (LANE.STAT_VER n.val)) + 7) / 8) (s.lnVer n.val))))) ∧
  (∀ (n : Fin 48) (f : Frame) (s : State) (k : BitVec 256) (a : CfgWait), s.ln n.val ∈ [lnCONFIG, lnUP] →
    (s.lane n.val).ks = some k → s.get (LANE.STAT_VER n.val) = 0x21 → (s.lane n.val).await = some a →
    frameCheck f (s.get (LANE.SID_SID n.val)) 4 ((36 + leNat f.body 20 1 + 16 + 7) / 8) (some 0x21) = 0 →
    (f.body.drop (32 + leNat f.body 20 1)).take 16 = bytes128 (Config.gmac k
      (cfgIv (s.get (LANE.SID_SID n.val)) 1 4 (leNat f.body 8 6)) (f.body.take (32 + leNat f.body 20 1))) →
    (s.lane n.val).ccntRx < leNat f.body 8 6 → leNat f.body 24 6 = a.ccnt → leNat f.body 20 1 = a.recs.length →
    exec (.cfgackRx n f) s = .next (((s.lnStrays n.val f).modLane n.val (fun l => { l with ccntRx := leNat f.body 8 6 })).cfgAcked n.val a
      ((List.range a.recs.length).map (fun i => leNat f.body (32 + i) 1)))) ∧
  (∀ (n : Fin 48) (a : CfgWait) (s : State), (s.lane n.val).await = some a →
    (a.sent + s.get BLK.TMO_CFG_TMO ≤ s.pidx → exec (.cfgAckTimeout n) s = .next (s.cfgRetry n.val)) ∧
    (s.pidx < a.sent + s.get BLK.TMO_CFG_TMO → exec (.cfgAckTimeout n) s = .next s))) ∧
  ((∀ (n : Nat) (f : Frame) (s : State),
    (s.lnDecodes n = true → f.stray ≠ 0 → s.lnStrays n f = s.bump (LANE.ERR_MALF n) f.stray) ∧
    (s.lnDecodes n = false ∨ f.stray = 0 → s.lnStrays n f = s)) ∧
  (∀ (n : Fin 48) (f : Frame) (s : State), s.ln n.val ≠ lnUP →
    (s.lnDecodes n.val = false → exec (.statusRx n f) s = .next s) ∧
    (s.lnDecodes n.val = true → s.ln n.val ∈ [lnKEY, lnCONFIG] →
      exec (.statusRx n f) s = .next ((s.lnStrays n.val f).lnErr n.val (if f.cut then 2 else 0))) ∧
    (s.lnDecodes n.val = true → s.ln n.val ∉ [lnKEY, lnCONFIG] →
      exec (.statusRx n f) s = .next ((s.lnStrays n.val f).lnErr n.val
        (frameCheck f (s.get (LANE.SID_SID n.val)) 2 4 (s.lnVer n.val))))) ∧
  (∀ (n : Fin 48) (f : Frame) (s : State), s.ln n.val = lnUP →
    frameCheck f (s.get (LANE.SID_SID n.val)) 2 4 (some (s.get (LANE.STAT_VER n.val))) = 0 → (s.lane n.val).seqRx < 65535 →
    leNat f.body 2 2 = (s.lane n.val).seqRx + 1 →
    ∃ t, exec (.statusRx n f) s = .next t ∧ (t.lane n.val).gotStat = true ∧ (t.lane n.val).seqRx = leNat f.body 2 2 ∧
      t.get (LANE.CSTAT_W3 n.val) = leNat f.body 20 4 ∧
      ((s.window = 0 ∧ s.now < s.bndAt + s.get TBS.PER_WIN0_W_UPL * t10 ∧ leNat f.body 4 4 = s.pidx % 2 ^ 32) →
        (t.cell n.val).rx = some (BitVec.ofNat 32 (leNat f.body 8 4), BitVec.ofNat 32 (leNat f.body 12 4),
          BitVec.ofNat 32 (leNat f.body 16 4), BitVec.ofNat 32 (leNat f.body 20 4)) ∧
        t.get (LANE.ERR_LATE n.val) = s.get (LANE.ERR_LATE n.val)) ∧
      (¬(s.window = 0 ∧ s.now < s.bndAt + s.get TBS.PER_WIN0_W_UPL * t10 ∧ leNat f.body 4 4 = s.pidx % 2 ^ 32) →
        (t.cell n.val).rx = (s.cell n.val).rx ∧
        t.get (LANE.ERR_LATE n.val) = min 255 (s.get (LANE.ERR_LATE n.val) + 1))) ∧
  (∀ (n : Fin 48) (f : Frame) (s : State), s.ln n.val = lnUP →
    frameCheck f (s.get (LANE.SID_SID n.val)) 2 4 (some (s.get (LANE.STAT_VER n.val))) = 0 →
    leNat f.body 2 2 = (s.lane n.val).seqRx →
    exec (.statusRx n f) s = .next ((s.lnStrays n.val f).bump (LANE.ERR_SEQERR n.val))))

/-- R163, R164: a reply is used only for the outstanding EID and within 50 µs; a request without one is followed by the
next, 50 µs after it; the 64th reply within the spread settles the delay, and the budget decides. R119, R160, R170,
R175, R180, R181, R183: a time mark names the next boundary; changed dead times leave as CFG once the period of
their capture is over, and a test request does; a host record is refused for an owned PID, while a CFG waits, and
without a session; a write that sets SSC takes every lane without SSC_TRACK DOWN. -/
def Obligations.LaneDelayAndServices : Prop :=
  ((∀ (n : Fin 48) (eid : BitVec 8) (turn : Word) (rtt e at_ : Nat) (s : State), s.ln n.val = lnMEASURE →
    (s.lane n.val).out = some (e, at_) → (e ≠ eid.toNat ∨ 320000 < rtt) → exec (.echoReplyRx n eid turn rtt) s = .next s) ∧
  (∀ (n : Fin 48) (turn : Word) (rtt e at_ : Nat) (s : State), s.ln n.val = lnMEASURE → s.get MOD.TB_STAT_LOCK = 1 →
    (s.lane n.val).out = some (e, at_) → e < 256 → rtt ≤ 320000 → (s.lane n.val).replies.length < 63 → (s.lane n.val).reqs < 256 →
    ∃ t, exec (.echoReplyRx n (BitVec.ofNat 8 e) turn rtt) s = .next t ∧ t.ln n.val = lnMEASURE ∧
      (t.lane n.val).replies = (rtt, turn.toNat) :: (s.lane n.val).replies ∧
      (t.lane n.val).reqs = (s.lane n.val).reqs + 1 ∧ (t.lane n.val).out = some ((s.lane n.val).eid, s.now) ∧ t.regs = s.regs) ∧
  (∀ (n : Fin 48) (turn : Word) (rtt e at_ : Nat) (s : State), s.ln n.val = lnMEASURE → s.get MOD.TB_STAT_LOCK = 1 →
    (s.lane n.val).out = some (e, at_) → e < 256 → rtt ≤ 320000 → (s.lane n.val).replies = List.replicate 63 (rtt, turn.toNat) →
    s.get (LANE.ASYM_ASYM n.val) = 0 → turn.toNat ≤ rtt → (rtt - turn.toNat) % 2 = 0 → (rtt - turn.toNat) / 2 < 65536 →
    ∃ t, exec (.echoReplyRx n (BitVec.ofNat 8 e) turn rtt) s = .next t ∧
      t.get (LANE.DLY_D n.val) = (rtt - turn.toNat) / 2 ∧ t.get (LANE.DLY_SPREAD n.val) = 0 ∧
      (s.budget n.val ((rtt - turn.toNat) / 2 : Nat) = false → t.ln n.val = lnDOWN ∧ t.get (LANE.STAT_DCAUSE n.val) = dcDLY_BUDGET) ∧
      (s.budget n.val ((rtt - turn.toNat) / 2 : Nat) = true → s.pairKey (s.get (LANE.PEER2_KID n.val)) ≠ none → t.ln n.val = lnKEY ∧
        t.get (LANE.STAT_DLYW n.val) = 0)) ∧
  (∀ (n : Fin 48) (e at_ : Nat) (s : State), s.ln n.val = lnMEASURE → (s.lane n.val).out = some (e, at_) →
    (s.lane n.val).reqs < 256 → ∃ t, exec (.echoTimeout n) s = .next t ∧ t.now = max s.now (at_ + 50 * tUs) ∧
      (t.lane n.val).out = some ((s.lane n.val).eid, t.now) ∧ (t.lane n.val).replies = (s.lane n.val).replies ∧ t.regs = s.regs)) ∧
  ((∀ (n : Fin 48) (s : State), s.ln n.val ∈ [lnKEY, lnCONFIG, lnUP] → ∃ t, exec (.tmarkSend n) s = .next t ∧
    (t.lane n.val).tmark = some ((s.pidx + 1) % 256,
      codeOf 24 (s.nextBnd - ((s.now : Int) - s.epochAt) / (tFine : Int) - (s.get (LANE.DLY_D n.val) : Int))) ∧ t.regs = s.regs) ∧
  (∀ (n : Fin 48) (s : State), s.ln n.val = lnUP → (s.lane n.val).await = none → s.dtDue n.val ≠ 0 → s.dtDue n.val < 8 →
    (s.lane n.val).freed < s.pidx →
    ∃ t a, exec (.dtCfgSend n) s = .next t ∧ (t.lane n.val).await = some a ∧ a.kind = 1 ∧ a.eff = s.pidx + 3 ∧
      a.recs = (bitsOf 3 (s.dtDue n.val)).map (fun i => (i + 1, s.dtBefore n.val (i + 1))) ∧ t.dtDue n.val = 0) ∧
  (∀ (n : Nat) (s : State), ((s.lane n).dtAt < s.pidx → s.dtDue n = (s.lane n).dtChg ||| (s.lane n).dtNew ∧
      ∀ p, s.dtBefore n p = s.dtOf n p) ∧
    (s.pidx ≤ (s.lane n).dtAt → s.dtDue n = (s.lane n).dtChg ∧
      ∀ i, (s.lane n).dtNew.testBit i = true → s.dtBefore n (i + 1) = (s.lane n).dtPrev.getD i 0)) ∧
  (∀ (n : Fin 48) (v : Word) (s : State), s.takes (LANE.page n.val) →
    (getBits v 0 16 < 0x8000 → getBits v 0 16 ≠ 0x11 →
      exec (.creqGo n v) s = .next (s.refuse (LANE.page n.val) 0x78 bPID_OWNED)) ∧
    ((0x8000 ≤ getBits v 0 16 ∨ getBits v 0 16 = 0x11) →
      ((s.lane n.val).await.isSome → exec (.creqGo n v) s = .next (s.refuse (LANE.page n.val) 0x78 bCFG_BUSY)) ∧
      ((s.lane n.val).await = none → s.ln n.val ≠ lnUP →
        exec (.creqGo n v) s = .next (s.refuse (LANE.page n.val) 0x78 bNO_SESSION)) ∧
      ((s.lane n.val).await = none → s.ln n.val = lnUP → ∃ t a, exec (.creqGo n v) s = .next t ∧
        (t.lane n.val).await = some a ∧ a.kind = 2 ∧ a.eff = 0 ∧
        a.recs = [(getBits v 0 16, s.get (LANE.CVAL_VALUE n.val))] ∧ t.get (LANE.CRES_BUSY n.val) = 1))) ∧
  (∀ (n : Fin 48) (v : Word) (s : State), s.takes (LANE.page n.val) → getBits v 3 3 < 5 → getBits v 0 1 = 1 →
    s.get (LANE.CFG_EN n.val) = 1 → getBits v 1 2 ≠ 0 → getBits v 1 2 ≠ s.get (LANE.CFG_PRBS n.val) →
    (s.cst n.val ∈ [ckACTIVE, ckCHARGING, ckSPARE] →
      exec (.prbsStart n v) s = .next (s.refuse (LANE.page n.val) 0x40 bSTATE)) ∧
    (s.cst n.val ∉ [ckACTIVE, ckCHARGING, ckSPARE] → s.ln n.val = lnUP → (s.lane n.val).await = none →
      ∃ t a, exec (.prbsStart n v) s = .next t ∧ (t.lane n.val).await = some a ∧ a.eff = s.pidx + 4 ∧
        a.recs = [(0x20, getBits v 1 2 + 65536 * getBits v 16 16)] ∧ (t.lane n.val).prbsAt = some (s.pidx + 4))) ∧
  (∀ (v : Word) (s : State), s.takes BLK.page → getBits v 8 8 ∈ [0x13, 0x20, 0x21] → s.get BLK.CFG_SSC = 0 → s.on (HDR.CTRL_LOCK BLK.page) = false →
    ∃ t, exec (.sscSet v) s = .next t ∧ t.get BLK.CFG_SSC = 1 ∧ ∀ n, n < 48 →
      (s.ln n ∈ [lnMEASURE, lnKEY, lnCONFIG, lnUP] → (s.capc n).testBit 1 = false →
        t.ln n = lnDOWN ∧ t.get (LANE.STAT_DCAUSE n) = dcSSC) ∧
      ((s.ln n ∉ [lnMEASURE, lnKEY, lnCONFIG, lnUP] ∨ (s.capc n).testBit 1 = true) → t.ln n = s.ln n)))

/-! ### Loop engines (R185–R219) -/

/-- R186, R199, R201: at the word it is fetched from, each arithmetic and logic instruction writes VD in the format T
names, takes the cycles of the table, and changes nothing but the engine's execution; a NaN or infinite result or an
INT division by zero aborts with ARITH. R199: INT wraps and sets no flag, also in DIV of −2³¹ by −1; an INT division
by zero is ARITH; Q7.24 saturates and sets SATQ, rounds to nearest with ties to even, and its DIV by zero and SQRT
of a negative value are not illegal; an FP32 division by zero and square root of a negative value are ARITH. -/
def Obligations.LoopArithmeticAndFormats : Prop :=
  (∀ (e : Fin 16) (vd va vb : Fin 32) (s : State) (r : LeRun),
    (s.running e r 1 → ∀ imm : BitVec 16,
      (s.fetches e r (.leNop e) →
        exec (.leNop e) s = .next (s.setRun e (some (r.went 1)))) ∧
      (s.fetches e r (.leLil e vd imm) →
        exec (.leLil e vd imm) s = .next (s.leGot e r 1 vd (some (imm.setWidth 32, false)))) ∧
      (s.fetches e r (.leLih e vd imm) →
        exec (.leLih e vd imm) s = .next (s.leGot e r 1 vd (some (imm ++ (r.get vd).extractLsb' 0 16, false)))) ∧
      (s.fetches e r (.leMov e vd va) →
        exec (.leMov e vd va) s = .next (s.leGot e r 1 vd (some (r.get va, false)))) ∧
      (s.fetches e r (.leAddi e vd va imm) →
        exec (.leAddi e vd va imm) s = .next (s.leGot e r 1 vd (some (r.get va + imm.signExtend 32, false)))) ∧
      (s.fetches e r (.leAnd e vd va vb) →
        exec (.leAnd e vd va vb) s = .next (s.leGot e r 1 vd (some (r.get va &&& r.get vb, false)))) ∧
      (s.fetches e r (.leOr e vd va vb) →
        exec (.leOr e vd va vb) s = .next (s.leGot e r 1 vd (some (r.get va ||| r.get vb, false)))) ∧
      (s.fetches e r (.leXor e vd va vb) →
        exec (.leXor e vd va vb) s = .next (s.leGot e r 1 vd (some (r.get va ^^^ r.get vb, false)))) ∧
      (s.fetches e r (.leSha e vd va imm) →
        exec (.leSha e vd va imm) s = .next (s.leGot e r 1 vd (some (if 0 ≤ imm.toInt then r.get va <<< imm.toInt.toNat
        else (r.get va).sshiftRight (-imm.toInt).toNat, false))))) ∧
    (∀ t : Fin 3, s.running e r 1 →
      (t.val ≠ 1 → (s.fetches e r (.leAdd e vd va vb t) →
        exec (.leAdd e vd va vb t) s = .next (s.leGot e r 1 vd (opAdd t (r.get va) (r.get vb)))) ∧
        (s.fetches e r (.leSub e vd va vb t) →
          exec (.leSub e vd va vb t) s = .next (s.leGot e r 1 vd (opSub t (r.get va) (r.get vb))))) ∧
      (s.fetches e r (.leAbs e vd va t) →
        exec (.leAbs e vd va t) s = .next (s.leGot e r 1 vd (opAbs t (r.get va)))) ∧
      (s.fetches e r (.leNeg e vd va t) →
        exec (.leNeg e vd va t) s = .next (s.leGot e r 1 vd (opNeg t (r.get va)))) ∧
      (s.fetches e r (.leMin e vd va vb t) →
        exec (.leMin e vd va vb t) s = .next (s.leGot e r 1 vd (opMin t (r.get va) (r.get vb)))) ∧
      (s.fetches e r (.leMax e vd va vb t) →
        exec (.leMax e vd va vb t) s = .next (s.leGot e r 1 vd (opMax t (r.get va) (r.get vb))))) ∧
    (∀ t : Fin 3, s.running e r 2 →
      (t.val = 1 → (s.fetches e r (.leAdd e vd va vb t) →
        exec (.leAdd e vd va vb t) s = .next (s.leGot e r 2 vd (opAdd t (r.get va) (r.get vb)))) ∧
        (s.fetches e r (.leSub e vd va vb t) →
          exec (.leSub e vd va vb t) s = .next (s.leGot e r 2 vd (opSub t (r.get va) (r.get vb))))) ∧
      (t.val ≠ 1 → (s.fetches e r (.leMul e vd va vb t) →
        exec (.leMul e vd va vb t) s = .next (s.leGot e r 2 vd (opMul t (r.get va) (r.get vb)))) ∧
        (s.fetches e r (.leMac e vd va vb t) →
          exec (.leMac e vd va vb t) s = .next (s.leGot e r 2 vd (opMac t (r.get vd) (r.get va) (r.get vb))))) ∧
      ∀ u : Fin 4, (s.fetches e r (.leCvt e vd va u) →
        exec (.leCvt e vd va u) s = .next (s.leGot e r 2 vd (opCvt u (r.get va))))) ∧
    (s.running e r 3 → (s.fetches e r (.leMul e vd va vb 1) →
      exec (.leMul e vd va vb 1) s = .next (s.leGot e r 3 vd (opMul 1 (r.get va) (r.get vb)))) ∧
      (s.fetches e r (.leMac e vd va vb 1) →
        exec (.leMac e vd va vb 1) s = .next (s.leGot e r 3 vd (opMac 1 (r.get vd) (r.get va) (r.get vb))))) ∧
    (s.running e r 12 → (∀ t : Fin 3, (s.fetches e r (.leDiv e vd va vb t) →
      exec (.leDiv e vd va vb t) s = .next (s.leGot e r 12 vd (opDiv t (r.get va) (r.get vb))))) ∧
      ∀ t : Fin 2, (s.fetches e r (.leSqrt e vd va t) →
        exec (.leSqrt e vd va t) s = .next (s.leGot e r 12 vd (opSqrt t (r.get va)))))) ∧
  ((∀ a b d : Word, opAdd 2 a b = some (a + b, false) ∧ opSub 2 a b = some (a - b, false) ∧ opMul 2 a b = some (a * b, false) ∧
    opMac 2 d a b = some (d + a * b, false) ∧ opNeg 2 a = some (-a, false) ∧ (b ≠ 0 → opDiv 2 a b = some (a.sdiv b, false)) ∧
    opDiv 2 a 0 = none) ∧
  (∀ a b : Word, ∃ w q, opAdd 0 a b = some (w, q) ∧
    w.toInt = max (-2147483648) (min 2147483647 (a.toInt + b.toInt)) ∧
    (q = true ↔ a.toInt + b.toInt < -2147483648 ∨ 2147483647 < a.toInt + b.toInt)) ∧
  (∀ a b : Word, ∃ w q, opMul 0 a b = some (w, q) ∧
    (q = false → 2 * (w.toInt * 16777216 - a.toInt * b.toInt).natAbs ≤ 16777216) ∧
    (q = true → (2147483647 : Int) * 16777216 < a.toInt * b.toInt ∧ w = 0x7FFFFFFF ∨
      a.toInt * b.toInt < (-2147483648 : Int) * 16777216 ∧ w = 0x80000000)) ∧
  (∀ a : Word, opDiv 0 a 0 = some (if a = 0 then 0 else if a.msb then 0x80000000 else 0x7FFFFFFF, true)) ∧
  (∀ a : Word, a.msb = true → opSqrt 0 a = some (0, true)) ∧
  (∀ a b : Word, (∃ n, flOf b = .fin n 0) → (∃ n m, flOf a = .fin n m) → opDiv 1 a b = none) ∧
  (∀ (a : Word) (m : Rat), flOf a = .fin true m → m ≠ 0 → opSqrt 1 a = none) ∧
  (∀ a b : Word, flOf a = .nan → opAdd 1 a b = none ∧ opMul 1 a b = none ∧ opCvt 0 a = none ∧ opCvt 3 a = none) ∧
  (∀ (a : Word) (n : Bool), flOf a = .inf n → opCvt 0 a = some (if n then 0x80000000 else 0x7FFFFFFF, true) ∧
    opCvt 3 a = some (if n then 0x80000000 else 0x7FFFFFFF, true)))

/-- R189, R195, R198, R201, R202: the instructions that read and write words: state copies and coefficients, the table
region, bindings and flags; outside the table region, or not at a multiple of 4, LDM and STM abort with MEM. R23,
R189, R193, R201, R211, R450: a branch goes forward OFF words where its condition holds; a LOOP body runs N times;
END commits the state words and the outputs in one step, where it comes before the window's close; an instruction
beyond WCET aborts with CYC, an abort commits nothing, and an instruction that meets a poisoned word ends the
execution. -/
def Obligations.LoopDataAndControlFlow : Prop :=
  (∀ (e : Fin 16) (vd va : Fin 32) (s : State) (r : LeRun),
    (s.running e r 1 → ∀ idx : Fin 64,
      (s.fetches e r (.leLds e vd idx) →
        exec (.leLds e vd idx) s = .next (s.leGot e r 1 vd (some (r.st.getD idx 0, false)))) ∧
      (s.fetches e r (.leLdc e vd idx) →
        exec (.leLdc e vd idx) s = .next (s.leGot e r 1 vd (some (s.mword (leC (16 * e + r.ctx) idx), false)))) ∧
      (s.fetches e r (.leSts e vd idx) →
        exec (.leSts e vd idx) s = .next (s.setRun e (some { (r.went 1) with st := r.st.set idx (r.get vd) }))) ∧
      (s.fetches e r (.leGetf e vd) →
        exec (.leGetf e vd) s = .next (s.leGot e r 1 vd (some (s.ctxFlags e r, false))))) ∧
    (s.running e r 1 → ∀ idx : Fin 16,
      (∀ w l, outValue (s.outBind (16 * e + r.ctx) idx) (r.get vd) = some (w, l) →
        (s.fetches e r (.leOut e vd idx) →
          exec (.leOut e vd idx) s
          = .next (s.setRun e (some { (r.went 1) with outs := (idx.val, w) :: r.outs, limited := r.limited || l })))) ∧
      (outValue (s.outBind (16 * e + r.ctx) idx) (r.get vd) = none →
        (s.fetches e r (.leOut e vd idx) →
          exec (.leOut e vd idx) s = .next (s.leAbort e { r with cyc := r.cyc + 1 } caARITH)))) ∧
    (s.running e r 3 → ∀ (imm : BitVec 16) (a : Word), a = r.get va + imm.signExtend 32 →
      (s.tblAddr (16 * e + r.ctx) a = true →
        (s.fetches e r (.leLdm e vd va imm) →
          exec (.leLdm e vd va imm) s = .next (s.leGot e r 3 vd (some (s.mword (leAddr e a.toNat), false)))) ∧
        (s.fetches e r (.leStm e vd va imm) →
          exec (.leStm e vd va imm) s = .next ((s.setMword (leAddr e a.toNat) (r.get vd)).setRun e (some (r.went 3))))) ∧
      (s.tblAddr (16 * e + r.ctx) a = false →
        (s.fetches e r (.leLdm e vd va imm) →
          exec (.leLdm e vd va imm) s = .next (s.leAbort e { r with cyc := r.cyc + 3 } caMEM)) ∧
        (s.fetches e r (.leStm e vd va imm) →
          exec (.leStm e vd va imm) s = .next (s.leAbort e { r with cyc := r.cyc + 3 } caMEM)))) ∧
    (∀ (idx : Fin 16) (wait cost : Nat) (w : Word) (q : Bool),
      cost = (if (s.inBind (16 * e + r.ctx) idx).cls = 1 then 6 + wait else 2) → s.running e r cost →
      r.adc.find? (fun p => p.1 == idx.val) = none →
      inValue (s.inBind (16 * e + r.ctx) idx) (s.leSource (16 * e + r.ctx) (s.inBind (16 * e + r.ctx) idx) (s.leAt e r)).1 = some (w, q) →
      s.fetches e r (.leIn e vd idx 0) →
      ∃ r', exec (.leIn e vd idx wait) s = .next (s.setRun e (some r')) ∧ r'.get vd = (if vd.val < r.v.length then w else r.get vd) ∧
        r'.satq = (r.satq || q) ∧
        r'.stale = (r.stale || (s.leSource (16 * e + r.ctx) (s.inBind (16 * e + r.ctx) idx) (s.leAt e r)).2) ∧ r'.cyc = r.cyc + cost ∧
        ((s.inBind (16 * e + r.ctx) idx).cls = 1 → r'.adc = (idx.val, w) :: r.adc)) ∧
    (∀ (idx : Fin 16) (wait cost : Nat) (p : Nat × Word),
      cost = (if (s.inBind (16 * e + r.ctx) idx).cls = 1 then 6 + wait else 2) → s.running e r cost →
      r.adc.find? (fun p => p.1 == idx.val) = some p →
      s.fetches e r (.leIn e vd idx 0) →
      exec (.leIn e vd idx wait) s = .next (s.setRun e (some ((r.went cost).put vd p.2))))) ∧
  ((∀ (e : Fin 16) (off : Fin 2048) (s : State) (r : LeRun), s.running e r 2 → off.val ≠ 0 →
    (s.fetches e r (.leBr e off) →
      exec (.leBr e off) s = .next (s.setRun e (some (r.goneTo 2 (r.pc + off.val))))) ∧
    (s.fetches e r (.leBinit e off) →
      exec (.leBinit e off) s = .next (s.setRun e (some (r.goneTo 2
      (if s.get (LEX.CTX_STAT_INIT e r.ctx) = 1 then r.pc + off.val else r.pc + 1))))) ∧
    (∀ (va vb : Fin 32) (c : Fin 6) (t : Fin 3), (s.fetches e r (.leBc e va vb c t off) →
      exec (.leBc e va vb c t off) s = .next (s.setRun e (some (r.goneTo 2
      (if opCond c t (r.get va) (r.get vb) then r.pc + off.val else r.pc + 1)))))) ∧
    (∀ n len : Fin 1024, len.val ≠ 0 → (s.fetches e r (.leLoop e n len) →
      exec (.leLoop e n len) s = .next (s.setRun e (some { (r.goneTo 2 (r.pc + 1)) with
      pc := r.pc + 1, loops := (r.pc + 1, r.pc + 1 + len.val, n.val) :: r.loops }))))) ∧
  (∀ (st en left : Nat) (l : List (Nat × Nat × Nat)), (1 < left → loopNext en ((st, en, left) :: l) = (st, (st, en, left - 1) :: l)) ∧
    (left ≤ 1 → loopNext en ((st, en, left) :: l) = loopNext en l) ∧
    (∀ x, x ≠ en → loopNext x ((st, en, left) :: l) = (x, (st, en, left) :: l))) ∧
  (∀ (e : Fin 16) (s : State) (r : LeRun), s.running e r 4 → s.fetches e r (.leEnd e) →
    (s.bndAt + s.get TBS.PER_WIN0_W_LE * t10 ≤ s.now →
      exec (.leEnd e) s = .next (s.setEng e { s.eng e with used := max (s.eng e).used s.leWin })) ∧
    (s.now < s.bndAt + s.get TBS.PER_WIN0_W_LE * t10 → s.leLate e { r with cyc := r.cyc + 4 } = true →
      exec (.leEnd e) s = .next (s.setRun e (some { r with cyc := r.cyc + 4 })))) ∧
  (∀ (e : Fin 16) (s : State) (r : LeRun), s.running e r 4 → s.fetches e r (.leEnd e) →
    s.now < s.bndAt + s.get TBS.PER_WIN0_W_LE * t10 → s.leLate e { r with cyc := r.cyc + 4 } = false → r.ctx < 16 → r.st.length = 64 → (∀ p ∈ r.outs, p.1 < 16) →
    ∃ t, exec (.leEnd e) s = .next t ∧ (t.eng e).run = none ∧ (t.eng e).used = (s.eng e).used + 16 + (r.cyc + 4) ∧
      (∀ i, i < 64 → t.mword (leS (16 * e + r.ctx) i) = r.st.getD i 0) ∧
      (∀ i w, r.outs.find? (fun p => p.1 == i) = some (i, w) → t.mword (leO (16 * e + r.ctx) i) = w) ∧
      (∀ i, i < 16 → r.outs.find? (fun p => p.1 == i) = none →
        t.mword (leO (16 * e + r.ctx) i) = s.mword (leO (16 * e + r.ctx) i)) ∧
      t.get (LEX.CTX_STAT_INIT e r.ctx) = 0 ∧ (t.lectx (16 * e + r.ctx)).doneAt = s.pidx + 1) ∧
  (∀ (e : Fin 16) (s : State) (r : LeRun), (s.eng e).run = some r → s.ctxWCET (16 * e + r.ctx) < r.cyc + 1 →
    (s.fetches e r (.leNop e) →
      exec (.leNop e) s = .next (s.leAbort e { r with cyc := r.cyc + 1 } caCYC))) ∧
  (∀ (e : Fin 16) (i : Instr) (s : State) (r : LeRun), (s.eng e).run = some r → s.leFetch e r = some i →
    s.lePoisoned e r i = true → s.now < s.bndAt + s.get TBS.PER_WIN0_W_LE * t10 →
    exec i s = .next (s.leUe e r) ∧ ((s.leUe e r).eng e).run = none ∧ ∀ a, (s.leUe e r).byte a = s.byte a) ∧
  (∀ (e cause : Nat) (s : State) (r : LeRun), e < 16 → r.ctx < 16 → 1 ≤ cause → cause ≤ 4 →
    (s.leAbort e r cause).mem = s.mem ∧ ((s.leAbort e r cause).eng e).run = none ∧
    (s.leAbort e r cause).get (LEX.CTX_STAT_CAUSE e r.ctx) = cause ∧
    (s.leAbort e r cause).get (LEX.CTX_STAT_ABORTED e r.ctx) = 1 ∧ (s.leAbort e r cause).raised (LEX.page e) 0 ∧
    (s.get (LEX.CTX_ACT_ACT e r.ctx) = 2 → (s.leAbort e r cause).ctxEn (16 * e + r.ctx) = false)))

/-- R203–R208: the primitives: each takes its inputs from VA on, its coefficients from C on and its state words from S
on, writes its results from VD on and stages its state words, in the cycles of the table. R206, R208: SINCOS
completes with a sine and a cosine within 6 × 10⁻⁸ of the model's sine and cosine, whatever the free words of Config
are (assumption 56); HANDOVER completes with the selected output: no request and no blend passes A, and a request
with NB = 0 passes B at once. -/
def Obligations.PrimitivesAndSincos : Prop :=
  (∀ (e : Fin 16) (vd va : Fin 32) (sb cb : Fin 64) (s : State) (r : LeRun) (c : Nat → Word),
    (∀ i, c i = s.mword (leC (16 * e + r.ctx) (cb + i))) →
    (∀ ff : Bool, s.running e r 8 → (s.fetches e r (.lePi e vd va sb cb ff) →
      exec (.lePi e vd va sb cb ff) s = .next (s.leGotState e r 8 vd sb
      ((piStep (r.get va) (if ff then r.get (va + 1) else 0) (c 0) (c 1) (c 2) (c 3) (r.gets sb) none).map
        (fun x => ([x.1], x.2.2, x.2.1)))))) ∧
    (∀ ff : Bool, s.running e r 14 → (s.fetches e r (.lePid e vd va sb cb ff) →
      exec (.lePid e vd va sb cb ff) s = .next (s.leGotState e r 14 vd sb
      ((piStep (r.get va) (if ff then r.get (va + 1) else 0) (c 0) (c 1) (c 2) (c 3) (r.gets sb)
        (some (c 4, c 5, r.gets (sb + 2), r.gets (sb + 3)))).map (fun x => ([x.1], x.2.2, x.2.1)))))) ∧
    (s.running e r 10 → (∀ p0 p1 p2 p3 p4 q1 q2 y s1 s2 : Word, fmul (c 0) (r.get va) = some p0 → fadd p0 (r.gets sb) = some y →
      fmul (c 1) (r.get va) = some p1 → fmul (c 3) y = some p3 → fsub p1 p3 = some q1 → fadd q1 (r.gets (sb + 1)) = some s1 →
      fmul (c 2) (r.get va) = some p2 → fmul (c 4) y = some p4 → fsub p2 p4 = some q2 → q2 = s2 →
      (s.fetches e r (.leBiq e vd va sb cb) →
        exec (.leBiq e vd va sb cb) s = .next (s.leGotState e r 10 vd sb (some ([y], [s1, s2], false))))) ∧
      (∀ b : Bool, (s.fetches e r (.leLim e vd va cb b) →
        exec (.leLim e vd va cb b) s = .next (s.leGotState e r 10 vd 0
        ((limStep b (r.get va) (r.get (va + 1)) (c 0)).map (fun x => ([x.1, x.2.1], [], x.2.2))))))) ∧
    (s.running e r 6 → ∀ p0 p1 p2 y s1 : Word, fmul (c 0) (r.get va) = some p0 → fadd p0 (r.gets sb) = some y →
      fmul (c 1) (r.get va) = some p1 → fmul (c 2) y = some p2 → fsub p1 p2 = some s1 →
      (s.fetches e r (.leLlag e vd va sb cb) →
        exec (.leLlag e vd va sb cb) s = .next (s.leGotState e r 6 vd sb (some ([y], [s1], false))))) ∧
    (s.running e r 2 → ∀ (t : Fin 3) (y : Word) (lim : Bool),
      y = (if opCond 5 t (r.get va) (c 0) then c 0 else if opCond 2 t (r.get va) (c 1) then c 1 else r.get va) →
      lim = (opCond 5 t (r.get va) (c 0) || opCond 2 t (r.get va) (c 1)) →
      (s.fetches e r (.leSat e vd va cb t) →
        exec (.leSat e vd va cb t) s
        = .next (s.leGotState e r 2 vd 0 ((if t.val = 1 then fpass y else some y).map (fun z => ([z], [], lim)))))) ∧
    (s.running e r 12 → s.get (LEX.CTX_STAT_INIT e r.ctx) = 0 → ∀ y rr : Word,
      rampStep (r.get va) (r.gets sb) (r.gets (sb + 1)) (c 0) (c 1) (c 2) = some (y, rr) →
      (s.fetches e r (.leRamp e vd va sb cb) →
        exec (.leRamp e vd va sb cb) s = .next (s.setRun e (some { (((r.went 12).put vd y).setSs sb [y, rr]) with
        ramp := some (r.ramp.getD false || fcmp y (r.get va) != some 0) })))) ∧
    (s.running e r 12 → s.get (LEX.CTX_STAT_INIT e r.ctx) = 1 → ∀ m : Word, fpass (r.get (va + 1)) = some m →
      (s.fetches e r (.leRamp e vd va sb cb) →
        exec (.leRamp e vd va sb cb) s = .next (s.setRun e (some { (((r.went 12).put vd m).setSs sb [m, 0]) with
        ramp := some (r.ramp.getD false || fcmp m (r.get va) != some 0) })))) ∧
    (s.running e r 10 → ∀ n off : Nat, n = (c 2).toNat / 65536 → off = (c 2).toNat % 65536 →
      ((n < 2 ∨ 4096 < n ∨ s.ctxTLEN (16 * e + r.ctx) < off + n) →
        (s.fetches e r (.leTlu e vd va cb) →
          exec (.leTlu e vd va cb) s = .next (s.leAbort e { r with cyc := r.cyc + 10 } caMEM))) ∧
      (2 ≤ n → n ≤ 4096 → off + n ≤ s.ctxTLEN (16 * e + r.ctx) →
        (s.fetches e r (.leTlu e vd va cb) →
          exec (.leTlu e vd va cb) s = .next (s.leGotState e r 10 vd 0 ((tluStep (r.get va) (c 0) (c 1) n
          (fun i => s.mword (leAddr e (4 * (s.ctxTBASE (16 * e + r.ctx) + off + i))))).map (fun x => ([x.1], [], x.2))))))) ∧
    (s.running e r 4 →
      (∀ b : Bool, (s.fetches e r (.leClarke e vd va b) →
        exec (.leClarke e vd va b) s
        = .next (s.leGotAll e r 4 vd (clarkeStep b (r.get va) (r.get (va + 1)) (r.get (va + 2)))))) ∧
      (s.fetches e r (.lePark e vd va) →
        exec (.lePark e vd va) s
        = .next (s.leGotAll e r 4 vd (parkStep (r.get va) (r.get (va + 1)) (r.get (va + 2)) (r.get (va + 3))))) ∧
      (s.fetches e r (.leIpark e vd va) →
        exec (.leIpark e vd va) s
        = .next (s.leGotAll e r 4 vd (iparkStep (r.get va) (r.get (va + 1)) (r.get (va + 2)) (r.get (va + 3)))))) ∧
    (s.running e r 48 → (s.fetches e r (.leObsv e vd va sb cb) →
      exec (.leObsv e vd va sb cb) s = .next (s.leGotState e r 48 vd sb
      ((obsvStep [r.get va, r.get (va + 1)] [r.get (va + 2), r.get (va + 3)] c (fun i => r.gets (sb + i))).map
        (fun x => (x.1, x.2, false))))))) ∧
  ((∀ (e : Fin 16) (vd va : Fin 32) (s : State) (r : LeRun), s.running e r 8 → s.fetches e r (.leSincos e vd va) →
    r.v.length = 32 → vd.val < 31 → ∃ t r', exec (.leSincos e vd va) s = .next t ∧ (t.eng e).run = some r' ∧ r'.cyc = r.cyc + 8 ∧ t.regs = s.regs ∧ t.mem = s.mem ∧
      ∃ x y, r'.get vd = within6e8 x (sinCosTurn (turnOf (r.get va))).1 ∧
        r'.get (vd + 1) = within6e8 y (sinCosTurn (turnOf (r.get va))).2) ∧
  (∀ (e : Fin 16) (vd va : Fin 32) (sb cb : Fin 64) (s : State) (r : LeRun) (y : Word), s.running e r 10 →
    r.gets sb = 0 → r.gets (sb + 1) = 0 → fisz (r.get (va + 2)) = true →
    0 ≤ (s.mword (leC (16 * e + r.ctx) (cb + 1))).toInt → fadd (r.get va) 0 = some y → fpass y = some y →
    (s.fetches e r (.leHandover e vd va sb cb false false) →
      exec (.leHandover e vd va sb cb false false) s = .next (s.setRun e (some { (((r.went 10).setSs sb [0, 0, r.gets (sb + 2)]).put vd y)
      with sel := some false, blend := some false })))) ∧
  (∀ (e : Fin 16) (vd va : Fin 32) (sb cb : Fin 64) (s : State) (r : LeRun), s.running e r 10 →
    r.gets sb = 0 → r.gets (sb + 1) = 0 → fisz (r.get (va + 2)) = false →
    s.mword (leC (16 * e + r.ctx) (cb + 1)) = 0 →
    (s.fetches e r (.leHandover e vd va sb cb true false) →
      exec (.leHandover e vd va sb cb true false) s = .next (s.setRun e (some { (((r.went 10).setSs sb [1, 0, 0]).put vd (r.get (va + 1)))
      with sel := some true, blend := some false, hoInst := true })))) ∧
  (∀ (free : Word) (x : Rat) (w : Word), within6e8 free x = w → w ≠ toF32 x →
    ∃ y, flFin w = some y ∧ x - 6 / 100000000 ≤ y.2 ∧ y.2 ≤ x + 6 / 100000000))

/-- R191, R200, R201: the words of the loop engines' instructions: a word decodes to the instruction it encodes, and
every well-formed instruction decodes back from its word (the wait of an IN is no part of it). -/
def Obligations.LoopInstructionsDecodeAndEncodeAgree : Prop :=
  (∀ (e : Fin 16) (w : Word) (i : Instr), leDecode e w = some i → leEncode i = some w) ∧
  (∀ (i : Instr) (w : Word), i.wf = true → leEncode i = some w → ∃ e, leDecode e w = some i ∨
    ∃ vd idx wait, i = .leIn e vd idx wait ∧ leDecode e w = some (.leIn e vd idx 0))

/-- R191–R194, R197: an accepted CTX_EN bit starts a scan of one word a cycle; a scan that ends refuses with PROG,
BUDGET or CLAIM_DENIED in that order, or sets EN and INIT and claims the destinations; an ARMED stage refuses to
clear a context that drives it. R188, R209, R210: holds follow their writes; a push appends an entry and is refused
with QFULL or STATE; an idle engine in the loop-engine window starts its next context with cleared registers and a
copy of its state words. -/
def Obligations.ContextsAndHolds : Prop :=
  ((∀ (e k : Fin 16) (s : State), s.takes (LEX.page e) → s.get (LEX.ENG_STAT_TESTING e) = 0 →
    s.ctxEn (16 * e + k) = false → (∀ c ∈ ctxsOf e, (s.lectx c).scan = none) →
    ∃ t, exec (.ctxEnable e (BitVec.ofNat 16 (1 <<< k.val))) s = .next t ∧
      (t.lectx (16 * e + k)).scan = some (s.now + s.ctxPLEN (16 * e + k) * tLe) ∧ t.regs = s.regs) ∧
  (∀ (e k : Fin 16) (s : State), s.takes (LEX.page e) → s.get (LEX.ENG_STAT_TESTING e) = 1 →
    s.ctxEn (16 * e + k) = false → (∀ c ∈ ctxsOf e, (s.lectx c).scan = none) →
    exec (.ctxEnable e (BitVec.ofNat 16 (1 <<< k.val))) s = .next (s.refuse (LEX.page e) 0x44 lSTATE)) ∧
  (∀ (e k : Fin 16) (s : State), (s.lectx (16 * e + k)).scan = none → exec (.scanComplete e k) s = .next s) ∧
  (∀ (e k : Fin 16) (t0 : Nat) (s u : State), (s.lectx (16 * e + k)).scan = some t0 →
    u = (s.advance t0).modLectx (16 * e + k) (fun x => { x with scan := none }) →
    ((u.ctxPLEN (16 * e + k) = 0 ∨ u.ctxProgram (16 * e + k) = none) →
      exec (.scanComplete e k) s = .next (u.refuse (LEX.page e) 0x44 lPROG)) ∧
    (∀ p, 1 ≤ u.ctxPLEN (16 * e + k) → u.ctxPC (16 * e + k) + u.ctxPLEN (16 * e + k) ≤ 0x7000 →
      u.ctxTBASE (16 * e + k) + u.ctxTLEN (16 * e + k) ≤ 0x7000 →
      (∀ i, i < 16 → inSelOk (u.inBind (16 * e + k) i) = true ∧ outSelOk (u.outBind (16 * e + k) i) = true) →
      u.ctxProgram (16 * e + k) = some p →
      progOk p (fun i => (u.inBind (16 * e + k) i).cls) (fun i => (u.outBind (16 * e + k) i).cls) = true →
      u.ctxDests (16 * e + k) = [] →
      u.cycSum (u.enabledOf e) + wcetOf (fun i => (u.inBind (16 * e + k) i).cls == 1) p + 16 ≤ u.leWin → u.leWin < 131072 →
      s.ctxEn (16 * e + k) = false →
      ∃ t, exec (.scanComplete e k) s = .next t ∧ t.ctxEn (16 * e + k) = true ∧ t.get (LEX.CTX_STAT_INIT e k) = 1 ∧
        t.ctxWCET (16 * e + k) = wcetOf (fun i => (u.inBind (16 * e + k) i).cls == 1) p ∧
        t.get (LEX.CTX_CRC_CRC e k) = u.ctxCrc (16 * e + k) e ∧ t.claims = s.claims ∧
        ∀ j, j < 16 → j ≠ k.val → t.ctxEn (16 * e + j) = s.ctxEn (16 * e + j))) ∧
  (∀ (e k : Fin 16) (s : State), s.takes (LEX.page e) → s.ctxEn (16 * e + k) = true →
    (∀ c ∈ ctxsOf e, (s.lectx c).scan = none) →
    (s.armed = true → s.ctxDrives (16 * e + k) = true →
      exec (.ctxDisable e (BitVec.ofNat 16 (1 <<< k.val))) s = .next (s.refuse (LEX.page e) 0x44 lLIVE)) ∧
    ((s.armed = false ∨ s.ctxDrives (16 * e + k) = false) →
      ∃ t, exec (.ctxDisable e (BitVec.ofNat 16 (1 <<< k.val))) s = .next t ∧ t.ctxEn (16 * e + k) = false ∧
        (∀ q ∈ (t.eng e).queue, q.1 ≠ k.val) ∧
        ((∃ q ∈ (s.eng e).queue, q.1 = k.val) → t.raised (LEX.page e) 2) ∧
        (∀ r, (t.claim r).cls = 4 → (t.claim r).inst ≠ 16 * e.val + k.val)))) ∧
  ((∀ (e : Fin 16) (m : BitVec 16) (s : State), s.takes (LEX.page e) →
    exec (.ctxHoldSet e m) s = .next (s.set (LEX.CTX_HOLD_HOLD e) (s.get (LEX.CTX_HOLD_HOLD e) ||| m.toNat)) ∧
    exec (.ctxHoldClear e m) s
      = .next (s.set (LEX.CTX_HOLD_HOLD e) (s.get (LEX.CTX_HOLD_HOLD e) &&& (0xFFFF ^^^ m.toNat)))) ∧
  (∀ (e : Fin 16) (v : Word) (s : State), s.takes (LEX.page e) →
    (16 ≤ (s.eng e).queue.length → exec (.cqPush e v) s = .next (s.refuse (LEX.page e) 0x58 lQFULL)) ∧
    ((s.eng e).queue.length < 16 → s.ctxEn (16 * e + getBits v 0 4) = false →
      exec (.cqPush e v) s = .next (s.refuse (LEX.page e) 0x58 lSTATE)) ∧
    ((s.eng e).queue.length < 16 → s.ctxEn (16 * e + getBits v 0 4) = true →
      ∃ t, exec (.cqPush e v) s = .next t ∧
        (t.eng e).queue = (s.eng e).queue ++ [(getBits v 0 4, getBits v 4 6, s.reg (LEX.CQ_VAL e))] ∧
        t.get (LEX.CQ_STAT_FILL e) = (s.eng e).queue.length + 1 ∧ t.mem = s.mem)) ∧
  (∀ (e : Fin 16) (c : Nat) (l : List Nat) (s : State), s.window = 1 → s.leGated = false → (s.eng e).run = none → (s.eng e).todo = c :: l →
    exec (.contextStart e) s = .next (s.setEng e { s.eng e with todo := l, run := some {
      ctx := c % 16, pc := s.ctxPC c, v := List.replicate 32 0, st := (List.range 64).map (fun i => s.mword (leS c i)) } })) ∧
  (∀ (e : Fin 16) (s : State), (s.window ≠ 1 ∨ s.leGated = true ∨ (s.eng e).run.isSome ∨ (s.eng e).todo = []) →
    exec (.contextStart e) s = .next s))

/-- R213–R215: an accepted move goes to CHECK and, once its checks are complete, to PEND; the first condition of the
table that applies refuses it and MOVE_STAT reports it; a self-test runs only on an engine without enabled contexts
and ends with its result and TEST_DONE. -/
def Obligations.MoveAndTest : Prop :=
  (∀ (e : Fin 16) (v : Word) (s : State) (d : Nat), s.takes (LEX.page e) → getBits v 13 1 = 1 → d = getBits v 4 4 → d ≠ e.val →
    (∀ c, (s.moveConds e d (getBits v 12 1 == 1) (s.movePairs e v)
        (s.on (LEX.ENG_STAT_MOVING e) || s.on (LEX.ENG_STAT_MOVING d))).find? (fun c => c.1) = some c → c.2 < 256 →
      (s.eng e).move = none →
      exec (.ctxMove e v) s = .next (((s.refuse (LEX.page e) 0x74 c.2).set (LEX.MOVE_STAT_STATE e) 4).set (LEX.MOVE_STAT_CODE e) c.2)) ∧
    ((s.moveConds e d (getBits v 12 1 == 1) (s.movePairs e v)
        (s.on (LEX.ENG_STAT_MOVING e) || s.on (LEX.ENG_STAT_MOVING d))).find? (fun c => c.1) = none →
      ∃ t, exec (.ctxMove e v) s = .next t ∧ t.get (LEX.MOVE_STAT_STATE e) = 1 ∧ t.get (LEX.ENG_STAT_MOVING e) = 1 ∧
        t.get (LEX.ENG_STAT_MOVING d) = 1 ∧ (t.eng e).move = some ⟨s.movePairs e v, d, getBits v 12 1 == 1, 0⟩ ∧ t.mem = s.mem)) ∧
  (∀ (e : Fin 16) (m : LeMove) (s : State), (s.eng e).move = some m → m.phase = 0 →
    (s.moveConds e m.eng m.all m.ctxs false).find? (fun c => c.1) = none →
    exec (.moveCheckDone e) s
      = .next ((s.setEng e { s.eng e with move := some { m with phase := 1 } }).set (LEX.MOVE_STAT_STATE e) 2)) ∧
  (∀ (e : Fin 16) (s : State), (s.eng e).move = none → exec (.moveCheckDone e) s = .next s) ∧
  (∀ (e : Fin 16) (v : Word) (s : State), s.takes (LEX.page e) → getBits v 0 1 = 1 →
    (s.enabledOf e ≠ [] → exec (.engineTest e v) s = .next (s.refuse (LEX.page e) 0x7C lSTATE)) ∧
    (s.enabledOf e = [] → s.get (LEX.ENG_STAT_TESTING e) = 0 → s.get (LEX.ENG_STAT_MOVING e) = 0 →
      (∀ c ∈ ctxsOf e, (s.lectx c).scan = none) → ∃ t, exec (.engineTest e v) s = .next t ∧
        t.get (LEX.ENG_STAT_TESTING e) = 1 ∧ t.sameRegsBut s [LEX.ENG_STAT e] ∧ t.mem = s.mem)) ∧
  (∀ (e : Fin 16) (pass : Bool) (s : State), s.get (LEX.ENG_STAT_TESTING e) = 1 →
    ∃ t, exec (.engineTestDone e pass) s = .next t ∧ t.get (LEX.ENG_STAT_TESTING e) = 0 ∧ t.raised (LEX.page e) 5 ∧
      (pass = false → t.get (LEX.ENG_STAT_TEST_FAIL e) = 1) ∧
      (pass = true → s.get (LEX.ENG_STAT_TEST_FAIL e) = 0 → t.get (LEX.ENG_STAT_TEST_PASS e) = 1))

/-! ### Machine control (R220–R258) -/

/-- R3, R220, R222, R230, R244, R253: with islands, enabling a machine of the topology claims its legs, sets their
carriers and leaves it OFF; disabling it releases them; the refusals are RANGE, CARRIER, THRESH and RATIO. Without
islands a write changes its own register and nothing else. R237: a command is accepted in its states only, and is
then pending until the evaluation; RUN names the first condition of its table that refuses it; CLEAR is refused
while the back-EMF is too high. -/
def Obligations.MachineEnableAndCommands : Prop :=
  ((∀ (m : Fin 2) (v : Word) (s : State) (prd : Nat), s.takes MCX.page → s.isl = true → s.locked MCX.page = false →
    s.mEn m = false → m.val ∈ s.machines → s.get MCX.CFG_TOPO ≠ 3 → getBits v 1 2 ≠ 3 → getBits v 21 4 ≠ 0 →
    prd = s.prdOf (if getBits v 5 4 = 0 then 16 else getBits v 5 4) →
    (s.get MCX.RSV_CFG_EN = 1 → s.get MCX.RSV_CFG_MACH = m.val → getBits v 21 4 % max 1 (s.get MCX.RSV_CFG_RPP) ≠ 0 →
      mcxPrdOk prd = true → s.threshOk = true →
      exec (.machineEnable m v) s = .next (s.refuse MCX.page (0x100 + 0x80 * m) xRATIO)) ∧
    (mcxPrdOk prd = false → exec (.machineEnable m v) s = .next (s.refuse MCX.page (0x100 + 0x80 * m) xCARRIER)) ∧
    (mcxPrdOk prd = true → s.threshOk = false →
      exec (.machineEnable m v) s = .next (s.refuse MCX.page (0x100 + 0x80 * m) xTHRESH)) ∧
    (mcxPrdOk prd = true → s.threshOk = true → (s.get MCX.RSV_CFG_EN = 0 ∨ s.get MCX.RSV_CFG_MACH ≠ m.val ∨
        getBits v 21 4 % max 1 (s.get MCX.RSV_CFG_RPP) = 0) → (∀ k ∈ s.machLegs m, s.claimable (resKey 2 k) 5 m = true) →
      ∃ t, exec (.machineEnable m v) s = .next t ∧ t.mEn m = true ∧ t.mState m = mOFF ∧
        ∀ k ∈ s.machLegs m, (t.claim (resKey 2 k)).cls = 5 ∧ (t.claim (resKey 2 k)).inst = m.val ∧
          t.get (LPW.PRD_PRD k) = prd ∧ t.get (LPW.CFG_SYNC k) = 1 ∧ t.get (LPW.CFG_RLD k) = 3 ∧
          t.get (LPW.CFG_MODE k) = 0 ∧ t.get (LPW.PHASE_PHASE k) = 0)) ∧
  (∀ (m : Fin 2) (v : Word) (s : State), s.isl = true → s.pageGated MCX.page = false → getBits v 1 2 = 3 →
    exec (.machineEnable m v) s = .next (s.refuse MCX.page (0x100 + 0x80 * m) eRANGE) ∧
    exec (.machineDisable m v) s = .next (s.refuse MCX.page (0x100 + 0x80 * m) eRANGE)) ∧
  (∀ (m : Fin 2) (v : Word) (s : State), s.takes MCX.page → s.isl = true → s.mEn m = true → s.get MCX.CFG_TOPO ∈ [1, 2] →
    m.val ∈ s.machines → getBits v 1 2 ≠ 3 → ∃ t, exec (.machineDisable m v) s = .next t ∧ t.mEn m = false ∧ t.mState m = mOFF ∧
      ∀ k ∈ s.machLegs m, (t.claim (resKey 2 k)).cls ≠ 5 ∨ (t.claim (resKey 2 k)).inst ≠ m.val) ∧
  (∀ (m : Fin 2) (v : Word) (s : State), s.takes MCX.page → s.isl = false →
    exec (.machineEnable m v) s = .next (s.take .mcx MCX.page (0x100 + 0x80 * m) (v ||| 1)) ∧
    ∀ r, (s.take .mcx MCX.page (0x100 + 0x80 * m) (v ||| 1)).claim r = s.claim r)) ∧
  (∀ (m : Fin 2) (s : State), s.takes MCX.page → s.isl = true →
    (s.mEn m = true → m.val ∈ s.machines →
      (s.mState m = mOFF →
        (s.armed = false → exec (.machRun m) s = .next (s.refuse MCX.page (0x108 + 0x80 * m) eARMED)) ∧
        (s.armed = true → s.primaryValid m = false →
          exec (.machRun m) s = .next (s.refuse MCX.page (0x108 + 0x80 * m) xSENSOR)) ∧
        (s.armed = true → s.primaryValid m = true → s.bootUv m = true →
          (s.get (MCX.M_SPD_W_RATED m) : Rat) ≤ absR (s.speedInUse m) * 100 →
          exec (.machRun m) s = .next (s.refuse MCX.page (0x108 + 0x80 * m) xBOOT)) ∧
        (s.armed = true → s.primaryValid m = true → s.bootUv m = false →
          (s.machLatched m = true → exec (.machRun m) s = .next (s.refuse MCX.page (0x108 + 0x80 * m) xLATCHED)) ∧
          (s.machLatched m = false → s.machOwner m = none →
            exec (.machRun m) s = .next (s.refuse MCX.page (0x108 + 0x80 * m) xSTATE)) ∧
          (s.machLatched m = false → (s.machOwner m).isSome →
            exec (.machRun m) s = .next (s.modMM m (fun x => { x with cmd := 1 }))))) ∧
      (s.mState m ∈ [mPRECHG, mRUN, mEXTRAP] → exec (.machStop m) s = .next (s.modMM m (fun x => { x with cmd := 2 }))) ∧
      (s.mState m ∈ [mRUN, mEXTRAP, mINHIBIT] → exec (.machAsc m) s = .next (s.modMM m (fun x => { x with cmd := 3 }))) ∧
      (s.mState m ∈ [mRUN, mEXTRAP, mASC] → exec (.machInhibit m) s = .next (s.modMM m (fun x => { x with cmd := 4 }))) ∧
      (s.mState m ∈ [mASC, mINHIBIT] →
        (s.ascHeld m = false → exec (.machClear m) s = .next (s.modMM m (fun x => { x with cmd := 5 }))) ∧
        (s.ascHeld m = true → exec (.machClear m) s = .next (s.refuse MCX.page (0x108 + 0x80 * m) xEMF_HIGH)))) ∧
    ((s.mEn m = false ∨ s.mState m ∉ [mOFF]) → exec (.machRun m) s = .next (s.refuse MCX.page (0x108 + 0x80 * m) xSTATE)) ∧
    ((s.mEn m = false ∨ s.mState m ∉ [mPRECHG, mRUN, mEXTRAP]) →
      exec (.machStop m) s = .next (s.refuse MCX.page (0x108 + 0x80 * m) xSTATE)) ∧
    ((s.mEn m = false ∨ s.mState m ∉ [mRUN, mEXTRAP, mINHIBIT]) →
      exec (.machAsc m) s = .next (s.refuse MCX.page (0x108 + 0x80 * m) xSTATE)) ∧
    ((s.mEn m = false ∨ s.mState m ∉ [mRUN, mEXTRAP, mASC]) →
      exec (.machInhibit m) s = .next (s.refuse MCX.page (0x108 + 0x80 * m) xSTATE)) ∧
    ((s.mEn m = false ∨ s.mState m ∉ [mASC, mINHIBIT]) →
      exec (.machClear m) s = .next (s.refuse MCX.page (0x108 + 0x80 * m) xSTATE)))

/-- R238, R239: the safe-state decision takes a machine to ASC where the bus is stale or the back-EMF reaches ASC_RATIO
× V_bus, and to INHIBIT otherwise; it records its cause, raises SSD and latches the legs through source 12. R236,
R240–R242, R246: what moves a machine between its states: precharge by 25 µs a leg, loss of the rotor and re-
acquisition, and the decisions on a timeout, a lost context and a violated regenerative limit. R223–R226, R243,
R245, R254: the compare values are written 1.0 µs before a reload boundary of a running machine; the evaluation
falls 0.7 µs after the boundary and moves K_REGEN by T_c / T_RGN within 0 and 1; the table index steps. -/
def Obligations.MachineTransitionsAndSafeState : Prop :=
  (∀ (s : State) (m cause : Nat), m < 2 → cause < 16 →
    (s.safeDecision m cause).mState m = (if s.emfHigh m (s.decSpeed m) then mASC else mINHIBIT) ∧
    (s.safeDecision m cause).get (MCX.M_STAT_CAUSE m) = cause ∧
    (s.safeDecision m cause).get (MCX.M_STAT_ASC_DEC m) = (if s.emfHigh m (s.decSpeed m) then 1 else 0) ∧
    (s.safeDecision m cause).raised MCX.page 2 ∧ (s.safeDecision m cause).get (latchFld 12) = 1 ∧
    (s.safeDecision m cause).get (flagFld 12) = 1 ∧
    (s.on MCX.STAT_VBUS_STALE = true → s.emfHigh m (s.decSpeed m) = true) ∧
    (s.on MCX.STAT_VBUS_STALE = false → 0 < s.mcx.vbus → 0 < s.get MCX.SAFE_ASC_RATIO →
      (s.emfHigh m (s.decSpeed m) = true ↔
        (((s.get MCX.SAFE_ASC_RATIO : Rat) / 1000 * ((s.mcx.vbus : Rat) / 10)) ^ 2 ≤ 3 * (s.decSpeed m * s.psi m) ^ 2)))) ∧
  ((∀ (m : Fin 2) (s : State), s.mState m ≠ mPRECHG → exec (.prechgStep m) s = .next s) ∧
  (∀ (m : Fin 2) (s : State), s.mState m = mPRECHG → s.get MCX.CFG_TOPO ≠ 3 → ∃ t, exec (.prechgStep m) s = .next t ∧
    t.now = max s.now ((s.mm m).preAt + 25 * tUs) ∧
    ((s.mm m).pre < 2 → t.mState m = mPRECHG ∧ (t.mm m).pre = (s.mm m).pre + 1) ∧
    (2 ≤ (s.mm m).pre → t.mState m = mRUN ∧ t.get (MCX.M_STAT_USED m)
      = (if (s.mm m).sensOut then s.get (MCX.M_STAT_USED m) else s.get (MCX.M_CFG_SRC m)))) ∧
  (∀ (m : Fin 2) (s : State), s.mState m = mRUN → (s.get (MCX.M_OBS_N_LOSS m) ≤ (s.mm m).lossN →
      ∃ t, exec (.loss m) s = .next t ∧ t.mState m = mEXTRAP ∧ t.raised MCX.page 0 ∧ (t.mm m).lossAt = s.now ∧
        (t.mm m).lossW = (s.mm m).wK ∧ t.mem = s.mem ∧ t.latches = s.latches) ∧
    ((s.mm m).lossN < s.get (MCX.M_OBS_N_LOSS m) → exec (.loss m) s = .next s)) ∧
  (∀ (m : Fin 2) (s : State), s.mState m = mEXTRAP → (s.get (MCX.M_OBS_N_ACQ m) ≤ (s.mm m).acqN →
      ∃ t, exec (.reacq m) s = .next t ∧ t.mState m = mRUN ∧ t.raised MCX.page 1 ∧
        t.get (MCX.M_STAT_USED m)
          = (if s.get (MCX.M_CFG_SRC m) = 2 ∨ s.primaryValid m = false then 3 else s.get (MCX.M_CFG_SRC m))) ∧
    ((s.mm m).acqN < s.get (MCX.M_OBS_N_ACQ m) → exec (.reacq m) s = .next s)) ∧
  (∀ (m : Fin 2) (s : State), s.mState m = mEXTRAP → exec (.extrapTimeout m) s
    = .next ((s.advance (s.evalAt ((s.mm m).lossAt + s.get (MCX.M_LOSS_EXTRAP_MAX m) * 100 * tUs))).safeDecision m cauLOSS)) ∧
  (∀ (d : Nat) (s : State), 0 < s.tc → d ≤ s.evalAt d ∧ s.bndAt + 700 * tNs ≤ s.evalAt d ∧
    (s.evalAt d - (s.bndAt + 700 * tNs)) % s.tc = 0 ∧ (s.evalAt d < d + s.tc ∨ s.evalAt d = s.bndAt + 700 * tNs)) ∧
  (∀ (m : Fin 2) (s : State), s.mRuns m = true → (s.machOwner m = none ∨ s.get TBS.OVR_ACT_HOLD_LIM ≤ (s.mm m).miss) →
    exec (.ctxLost m) s = .next (((s.set (MCX.M_STAT_CTX_LOST m) 1).irq MCX.page 12).safeDecision m cauCTX)) ∧
  (∀ (m : Fin 2) (s : State), s.mRuns m = true → s.get MCX.RGN_CFG_RGN_N ≤ s.mcx.krZero →
    f32Val (s.mm m).pw < -1000 * (s.get MCX.RGN_CFG_RGN_TOL : Rat) →
    exec (.rgnViol m) s = .next (((s.set (MCX.M_STAT_RGN_VIOL m) 1).irq MCX.page 8).safeDecision m cauRGN))) ∧
  ((∀ (m : Fin 2) (s : State), s.isl = true → m.val ∈ s.machines → s.mEn m = true → s.isReload m 1 = true → s.mRuns m = true →
    ∃ t, exec (.mcxCompare m) s = .next t ∧ t.now = max s.now (s.bndAt + s.tc - tUs) ∧ t.mState m = s.mState m ∧
      t.latches = s.latches ∧ t.claims = s.claims ∧ t.mem = s.mem) ∧
  (∀ (m : Fin 2) (s : State), (s.isReload m 1 = false ∨ s.mRuns m = false) → exec (.mcxCompare m) s = .next s) ∧
  (∀ s : State, s.isl = true → ∃ t, exec .mcxEvaluation s = .next t ∧ t.now = max s.now (s.bndAt + 700 * tNs) ∧
      t.mcx.vbus = (SMap.get (fun _ => none) s.aiLast (s.get MCX.BUS_CFG_VBUS_AI)).getD s.mcx.vbus ∧ t.mem = s.mem ∧
      ((∀ m ∈ s.machines, s.mEn m = false ∧ s.mRuns m = false) → s.get MCX.STAT_CHF_SEQ = 0 →
        t.latches = s.latches ∧ t.claims = s.claims)) ∧
  (∀ s : State, s.isl = false → exec .mcxEvaluation s = .next s) ∧
  (∀ (s : State) (step : Rat), step = (s.get TBS.PER_CFG_PERIOD : Rat) / 100 / ((max 1 (s.get MCX.BUS_CFG_T_RGN) : Nat) : Rat) →
    (s.mcx.krHold = true → s.kregen.mcx.kr = 0) ∧
    (s.mcx.krHold = false → (s.crossed s.mcx.cRgn = true ∨ s.get MCX.STAT_VBUS_STALE = 1) →
      s.kregen.mcx.kr = max 0 (s.mcx.kr - step)) ∧
    (s.mcx.krHold = false → s.crossed s.mcx.cRgn = false → s.get MCX.STAT_VBUS_STALE = 0 → s.crossed s.mcx.cHys = true →
      s.kregen.mcx.kr = min 1 (s.mcx.kr + step)) ∧
    (s.mcx.krHold = false → s.crossed s.mcx.cRgn = false → s.get MCX.STAT_VBUS_STALE = 0 → s.crossed s.mcx.cHys = false →
      s.kregen.mcx.kr = s.mcx.kr)) ∧
  (∀ (v : Word) (s : State), s.takes MCX.page → s.locked MCX.page = false → getBits v 0 2 = s.get MCX.CFG_TOPO →
    ∃ t, exec (.sineSwap v) s = .next t ∧ t.get MCX.CFG_SWAP = 1 ∧ t.get MCX.CFG_BANK = s.get MCX.CFG_BANK ∧
      t.sameRegsBut s [ MCX.CFG]) ∧
  (∀ (v : Word) (s : State) (n j : Nat), s.takes MCX.page → n = (if s.get MCX.TBL_ADDR_TBL ∈ [1, 2] then 64 else 1024) →
    j = s.get MCX.TBL_ADDR_IDX % n →
    (∃ t, exec (.tblDataAccess true v) s = .next t ∧ t.get MCX.TBL_ADDR_IDX = (j + 1) % n ∧
      (s.get MCX.TBL_ADDR_TBL = 0 → t.sineAt (1 - s.get MCX.CFG_BANK) j = sgnOf 18 (getBits v 0 18)) ∧
      (s.get MCX.TBL_ADDR_TBL = 3 → t.mcx.sine = s.mcx.sine) ∧
      (s.get MCX.TBL_ADDR_TBL ∈ [1, 2] → SMap.get (fun _ => 0) t.mcx.adv (64 * (s.get MCX.TBL_ADDR_TBL - 1) + j)
        = sgnOf 16 (getBits v 0 16))) ∧
    (∃ t w, exec (.tblDataAccess false v) s = .next t ∧ t.resp = .value w ∧ t.get MCX.TBL_ADDR_IDX = (j + 1) % n ∧ t.mcx = s.mcx)))

/-- R220, R244, R247–R249: a chopper claims its leg in LOW_PWM and starts IDLE; a leg of a machine is denied; a check of
the oldest result delivered below CHF_I fails, and CHF_N failed checks in a row make the chopper FAULT, latch its
leg and raise CH_FLT; a fault begins the sequence, whose step 3 acts T_CHF_ASC later unless ABS_ACK is 1. R230,
R231, R256, R490, R492: the sensor interfaces claim their balls; a peak takes the results of the resolver's inputs
since the last one, and three outside the amplitude limits set RSV_FLT; the encoder counts by four the levels that
have held for FILT, and an edge of both inputs sets ENC_ILL; ALIGN references the count; the speed is taken as 0
after four periods; an enabled trip input takes its ball from the encoder, whose enable of the same bus cycle is
refused, and trips at once where its active level has lasted the filter time. -/
def Obligations.ChoppersAndAngleSensors : Prop :=
  ((∀ (u : Fin 4) (v : Word) (s : State) (leg prd : Nat), s.takes MCX.page → s.isl = true → s.locked MCX.page = false →
    s.chEn u = false → s.chState u ≠ 3 → leg = getBits v 1 4 → leg < 12 → prd = s.prdOf (getBits v 11 7) →
    s.get MCX.CHF_CFG_CHF_T + 10 ≤ s.get (MCX.C_LIM_MINON u) →
    ((leg ∈ s.machLegs 0 ∨ leg ∈ s.machLegs 1) → ∃ t, exec (.chopperEnable u v) s = .next t ∧ t.chEn u = false ∧
      t.get (HDR.ERR_CODE_CODE MCX.page) = eCLAIM_DENIED ∧ t.claims = s.claims) ∧
    (leg ∉ s.machLegs 0 → leg ∉ s.machLegs 1 → s.threshOk = true → mcxPrdOk prd = true → s.claimable (resKey 2 leg) 6 u = true →
      ∃ t, exec (.chopperEnable u v) s = .next t ∧ t.chEn u = true ∧ t.chState u = 1 ∧ (t.claim (resKey 2 leg)).cls = 6 ∧
        (t.claim (resKey 2 leg)).inst = u.val ∧ t.get (LPW.CFG_MODE leg) = 3 ∧ t.get (LPW.PRD_PRD leg) = prd ∧
        t.get (LPW.CMP_CMP leg) = 16 * prd % 2 ^ 22)) ∧
  (∀ (u : Fin 4) (v : Word) (s : State), s.takes MCX.page → s.isl = true → s.chEn u = true → s.willBe MCX.page true (MCX.C_CFG_LEG u) v < 12 →
    ∃ t, exec (.chopperDisable u v) s = .next t ∧ t.chEn u = false ∧
      (s.chState u ≠ 3 → t.chState u = 0) ∧ (s.chState u = 3 → t.chState u = 3)) ∧
  (∀ (u : Fin 4) (code : Int) (rest : List Int) (s : State), SMap.get (fun _ => []) s.mcx.chRes u.val = code :: rest → s.isl = true → s.chEn u = true → s.chState u ≠ 3 →
    (s.hizLegs ||| s.ascLegs).testBit (s.get (MCX.C_CFG_LEG u)) = false →
    ((code : Rat) * f32Val (s.reg (MCX.C_ISCALE u)) < (s.get (MCX.C_LIM_CHF_I u) : Rat) / 10 →
      s.get MCX.CHF_CFG_CHF_N = 1 → ∃ t, exec (.chopperCheck u 1) s = .next t ∧ t.chState u = 3 ∧
        t.get (MCX.C_STAT_LAST_FAIL u) = 1 ∧ t.raised MCX.page 5 ∧ t.get (latchFld 12) = 1 ∧
        (s.get MCX.CHF_CFG_CHF_POL = 0 → s.get MCX.STAT_CHF_SEQ = 0 →
          t.get MCX.STAT_CHF_SEQ = 1 ∧ t.get MCX.STAT_ABS_REQ = 1 ∧ t.mcx.kr = 0 ∧ t.mcx.krHold = true ∧ t.raised MCX.page 6)) ∧
    ((s.get (MCX.C_LIM_CHF_I u) : Rat) / 10 ≤ (code : Rat) * f32Val (s.reg (MCX.C_ISCALE u)) →
      ∃ t, exec (.chopperCheck u 1) s = .next t ∧ t.chState u = s.chState u ∧ t.get (MCX.C_STAT_LAST_FAIL u) = 0 ∧
        t.latches = s.latches ∧ SMap.get (fun _ => []) t.mcx.chRes u.val = rest)) ∧
  (∀ (u : Fin 4) (n : Nat) (s : State), n = 0 ∨ SMap.get (fun _ => []) s.mcx.chRes u.val = [] → exec (.chopperCheck u n) s = .next s) ∧
  (∀ (t0 : Nat) (s : State), s.mcx.seqAt = some t0 → s.get MCX.STAT_CHF_SEQ = 1 → s.mcx.seqDone = false →
    (s.absAck = false → ∃ t, exec .chfAscTimeout s = .next t ∧ t.get MCX.STAT_MBR_REQ = 1 ∧ t.raised MCX.page 7) ∧
    (s.absAck = true → ∃ t, exec .chfAscTimeout s = .next t ∧ t.mcx.krHold = false ∧ t.regs = s.regs ∧
      t.now = max s.now (s.evalAt (t0 + s.get MCX.CHF_CFG_T_CHF_ASC * 100 * tUs)))) ∧
  (∀ (u : Fin 4) (s : State), s.takes MCX.page → s.isl = true → s.chState u = 3 →
    ((SMap.get (fun _ => (0, false)) s.aiInst (s.get (MCX.C_CFG_IAI u))).2 = true →
      ∃ t, exec (.chopperClear (BitVec.ofNat 4 (1 <<< u.val))) s = .next t ∧ t.chState u = (if s.chEn u then 1 else 0) ∧
        ((∀ c, c < 4 → c ≠ u.val → s.chState c ≠ 3) → s.get MCX.STAT_CHF_SEQ = 1 → t.get MCX.STAT_CHF_SEQ = 0 ∧
          t.get MCX.STAT_ABS_REQ = 0 ∧ t.get MCX.STAT_MBR_REQ = 0)) ∧
    ((SMap.get (fun _ => (0, false)) s.aiInst (s.get (MCX.C_CFG_IAI u))).2 = false →
      ∃ t, exec (.chopperClear (BitVec.ofNat 4 (1 <<< u.val))) s = .next t ∧ t.chState u = 3 ∧
        t.get (HDR.ERR_CODE_CODE MCX.page) = xSTATE))) ∧
  ((∀ (v : Word) (s : State), s.takes MCX.page → s.isl = true → s.locked MCX.page = false → s.get MCX.RSV_CFG_EN = 0 →
    getBits v 2 2 ≠ 3 → getBits v 4 4 ≠ 0 →
    (s.get (MCX.M_CFG_PP (getBits v 1 1)) % getBits v 4 4 ≠ 0 →
      exec (.resolverEnable v) s = .next (s.refuse MCX.page 0x200 xRATIO)) ∧
    (s.get (MCX.M_CFG_PP (getBits v 1 1)) % getBits v 4 4 = 0 → s.claimable (resKey 4 3) 7 0 = true →
      ∃ t, exec (.resolverEnable v) s = .next t ∧ t.get MCX.RSV_CFG_EN = 1 ∧ (t.claim (resKey 4 3)).cls = 7)) ∧
  (∀ (a b : BitVec 16) (x y : Int) (s : State), s.isl = true → s.get MCX.RSV_CFG_EN = 1 →
    x = s.rsvIn (s.get MCX.RSV_CFG_SIN_AI) a.toInt → y = s.rsvIn (s.get MCX.RSV_CFG_COS_AI) b.toInt →
    (s.get MCX.RSV_AMP_AMP_LO ^ 2 ≤ (x ^ 2 + y ^ 2).toNat → (x ^ 2 + y ^ 2).toNat ≤ s.get MCX.RSV_AMP_AMP_HI ^ 2 →
      ∃ t, exec (.resolverPeak a b) s = .next t ∧ t.mcx.rsBad = 0 ∧ t.mcx.rsSeen = true ∧ t.sameRegsBut s [ MCX.SNS_STAT]) ∧
    ((x ^ 2 + y ^ 2).toNat < s.get MCX.RSV_AMP_AMP_LO ^ 2 → s.mcx.rsBad = 2 → s.get MCX.SNS_STAT_RSV_FLT = 0 →
      ∃ t, exec (.resolverPeak a b) s = .next t ∧ t.get MCX.SNS_STAT_RSV_FLT = 1 ∧
        t.get (MCX.M_STAT_SENS_FLT (s.get MCX.RSV_CFG_MACH)) = 1 ∧ t.raised MCX.page 3)) ∧
  (∀ (ai : Nat) (x c : Int) (s : State), (s.mcx.rsAt < SMap.get (fun _ => 0) s.aiValAt ai →
      SMap.get (fun _ => none) s.aiLast ai = some c → s.rsvIn ai x = c) ∧
    (SMap.get (fun _ => 0) s.aiValAt ai ≤ s.mcx.rsAt → s.rsvIn ai x = x)) ∧
  (∀ (v : Word) (s : State), s.takes MCX.page → s.isl = true → s.locked MCX.page = false → s.get MCX.ENC_CFG_EN = 0 →
    (getBits v 16 16 = 0 → exec (.encoderEnable v) s = .next (s.refuse MCX.page 0x20C eRANGE)) ∧
    (getBits v 16 16 ≠ 0 → (∀ b, b < 3 → s.claimable (resKey 4 b) 7 1 = true) → ∃ t, exec (.encoderEnable v) s = .next t ∧
      t.get MCX.ENC_CFG_EN = 1 ∧ t.mcx.encRef = false ∧ ∀ b, b < 3 → (t.claim (resKey 4 b)).cls = 7)) ∧
  (∀ (a b z : Bool) (h : BitVec 4) (s : State), h.toNat < s.get MCX.ENC_CFG_FILT → exec (.encoderEdge (a, h) (b, h) (z, h)) s = .next s) ∧
  (∀ (a b z : Bool) (h : BitVec 4) (s : State), s.isl = true → s.get MCX.ENC_CFG_EN = 1 → s.get MCX.ENC_CFG_FILT ≤ h.toNat →
    (z = false ∨ s.mcx.encZ = true ∨ s.get MCX.ENC_CFG_ZEN = 0) →
    ((quad a b + 4 - quad s.mcx.encA s.mcx.encB) % 4 = 1 → ∃ t, exec (.encoderEdge (a, h) (b, h) (z, h)) s = .next t ∧
      t.reg MCX.ENC_CNT = s.reg MCX.ENC_CNT + (if s.get MCX.ENC_CFG_DIR = 0 then 1 else -1) ∧ t.sameRegsBut s [ MCX.ENC_CNT]) ∧
    ((quad a b + 4 - quad s.mcx.encA s.mcx.encB) % 4 = 3 → ∃ t, exec (.encoderEdge (a, h) (b, h) (z, h)) s = .next t ∧
      t.reg MCX.ENC_CNT = s.reg MCX.ENC_CNT - (if s.get MCX.ENC_CFG_DIR = 0 then 1 else -1) ∧ t.sameRegsBut s [ MCX.ENC_CNT]) ∧
    ((quad a b + 4 - quad s.mcx.encA s.mcx.encB) % 4 = 2 → ∃ t, exec (.encoderEdge (a, h) (b, h) (z, h)) s = .next t ∧
      t.reg MCX.ENC_CNT = s.reg MCX.ENC_CNT ∧ t.get MCX.SNS_STAT_ENC_ILL = 1 ∧ t.raised MCX.page 3)) ∧
  (∀ s : State, s.takes MCX.page → s.get MCX.ENC_CFG_EN = 1 → ∃ t, exec .encAlign s = .next t ∧ t.reg MCX.ENC_CNT = 0 ∧
    t.mcx.encRef = true ∧ t.sameRegsBut s [ MCX.ENC_CNT]) ∧
  (∀ s : State, s.mcx.encSpd = true → ∃ t, exec .encSpeedTimeout s = .next t ∧ t.encRate = 0 ∧ t.regs = s.regs ∧
    t.now = max s.now (s.mcx.edge1 + 4 * s.tc)) ∧
  (∀ (v : Word) (s : State), s.takes TRP.page → s.locked TRP.page = false → s.get TRP.CFG_EN = 0 → getBits v 0 8 &&& 0xE0 = 0 →
    (∀ n, n < 8 → s.get ⟨TRP.STAT, n, 1⟩ = 0) → (∀ n, n < 8 → SMap.look s.trpIn n = none) → ∃ t, exec (.tripInputEnable v) s = .next t ∧ t.get TRP.CFG_EN = getBits v 0 8 ∧ t.claims = s.claims ∧
      t.sameRegsBut s [ TRP.CFG]) ∧
  (∀ (v : Word) (n t0 : Nat) (s : State), s.takes TRP.page → s.locked TRP.page = false → s.get TRP.CFG_EN = 0 →
    getBits v 0 8 &&& 0xE0 = 0 → n < 5 → v.getLsbD n = true → SMap.look s.trpIn n = some (v.getLsbD (8 + n), t0) →
    t0 + s.flt n * t10 ≤ s.now → s.get ⟨TRP.STAT, n, 1⟩ = 0 → ∃ t, exec (.tripInputEnable v) s = .next t ∧
      t.get ⟨TRP.STAT, n, 1⟩ = 1 ∧ t.get (flagFld n) = 1 ∧ t.get (latchFld n) = 1) ∧
  (∀ (v : Word) (s : State), s.takes TRP.page → s.locked TRP.page = false → s.get TRP.CFG_EN = 0 → getBits v 0 8 = 0x20 →
    (s.claim (resKey 4 0)).cls = 7 → ∃ t, exec (.tripInputEnable v) s = .next t ∧ t.claim (resKey 4 0) = ⟨13, 5, 0, 0⟩ ∧
      ((∀ w, s.mcx.encOn ≠ some (s.now / tBus, w)) →
        t.get MCX.ENC_CFG_EN = 0 ∧ t.get (HDR.ERR_CODE_CODE MCX.page) = eCLAIM_LOST) ∧
      (∀ w, s.mcx.encOn = some (s.now / tBus, w) →
        t.reg MCX.ENC_CFG = w ∧ t.get (HDR.ERR_CODE_CODE MCX.page) = eCLAIM_DENIED)))

/-! ### Leg islands (R259–R285) -/

/-- R261, R263, R264, R268: a command line that rises turns its switch on at once where the opposite gate is verified
off, and waits in the interlock otherwise; a high turn-on without BST_OK is refused and counted; a line that falls
turns its switch off; both lines ON latch CROSS_CMD and turn both off. With their clock domain gated the islands
stand (R401). R268–R273: the opposite gate verified off turns a waiting switch on and counts the delay, and ends the
wait where the switch may not turn on, a high turn-on without BST_OK counted as refused; a wait of IL_TMO, a
desaturation seen outside blanking and a gate overvoltage at any time latch their fault, turn both switches off, and
the last two begin a soft turn-off of 2 µs. -/
def Obligations.IslandLinesAndFaults : Prop :=
  ((∀ (k : Fin 12) (s : State), s.gated 15 = false → s.legEn k = true → s.get (LEG.STAT_TESTING k) = 0 → s.legFlt k = 0 →
    (s.island k).lineH = 0 → (s.island k).lineL = 0 → (s.island k).softH = none → (s.island k).slotH = none →
    (s.island k).slotL = none → (s.island k).onH = false → (s.island k).onL = false → (s.island k).waitH = none →
    (s.island k).waitL = none → (s.island k).softL = none → s.get (LEG.STAT_VPOS_OK k) = 1 → s.get (LEG.STAT_VNEG_OK k) = 1 →
    (s.get (LEG.STAT_BST_OK k) = 1 → s.get (LEG.STAT_GL_ON k) = 0 → ∃ t, exec (.islandCmdChange k 1 0) s = .next t ∧
      (t.island k).onH = true ∧ (t.island k).onL = false ∧ t.get (LEG.STAT_GH_ON k) = 1 ∧ t.get (LEG.STAT_CMDIN k) = 1 ∧
      (t.island k).blankH = some (s.now + s.get (LEG.PROT_BLANK k) * (tNs * 100))) ∧
    (s.get (LEG.STAT_BST_OK k) = 1 → s.get (LEG.STAT_GL_ON k) = 1 → ∃ t, exec (.islandCmdChange k 1 0) s = .next t ∧
      (t.island k).onH = false ∧ (t.island k).waitH = some s.now) ∧
    (s.get (LEG.STAT_BST_OK k) = 0 → ∃ t, exec (.islandCmdChange k 1 0) s = .next t ∧ (t.island k).onH = false ∧
      (t.island k).waitH = none ∧ t.get (LEG.CNT_BST_REF k) = min 65535 (s.get (LEG.CNT_BST_REF k) + 1) ∧
      ((s.island k).refReported = false → t.raised (LEG.page k) 1)) ∧
    (s.get (LEG.STAT_GH_ON k) = 0 → ∃ t, exec (.islandCmdChange k 0 1) s = .next t ∧ (t.island k).onL = true ∧
      t.get (LEG.STAT_GL_ON k) = 1 ∧ t.get (LEG.STAT_CMDIN k) = 2)) ∧
  (∀ (k : Fin 12) (s : State), s.gated 15 = false → s.legEn k = true → (s.island k).slotH = none → (s.island k).slotL = none →
    ∃ t, exec (.islandCmdChange k 0 0) s = .next t ∧ (t.island k).onH = false ∧ (t.island k).onL = false ∧
      (t.island k).waitH = none ∧ (t.island k).waitL = none ∧ t.get (LEG.STAT_CMDIN k) = 0 ∧ t.legFlt k = s.legFlt k) ∧
  (∀ (k : Fin 12) (s : State), s.gated 15 = false → s.legEn k = true → ∃ t, exec (.islandCmdChange k 1 1) s = .next t ∧
    (t.legFlt k).testBit 4 = true ∧ (t.island k).onH = false ∧ (t.island k).onL = false ∧ t.raised (LEG.page k) 2 ∧
    t.get (LEG.STAT_CMDIN k) = 4 ∧ (∀ j : Fin 12, j ≠ k → t.legFlt j = s.legFlt j ∧ t.island j = s.island j)) ∧
  (∀ (k : Fin 12) (h l : Fin 3) (s : State), s.gated 15 = true → l.val ≠ 1 → exec (.islandCmdChange k h l) s = .next s) ∧
  (∀ (k : Fin 12) (h l : Fin 3) (s : State), s.gated 15 = false → s.legEn k = false → ∃ t, exec (.islandCmdChange k h l) s = .next t ∧
    t.legFlt k = s.legFlt k ∧ (t.island k).onH = (s.island k).onH ∧ (t.island k).onL = (s.island k).onL ∧
    t.get (LEG.STAT_CMDIN k) = cmdinOf h l)) ∧
  ((∀ (k : Fin 12) (high : Bool) (t0 : Nat) (s : State), (s.island k).on (!high) = false → (s.island k).wait high = some t0 →
    s.mayOn k high = true → (high = true → s.get (LEG.STAT_BST_OK k) = 1) → ∃ t, exec (.interlockVerify k high) s = .next t ∧ (t.island k).on high = true ∧
      (t.island k).wait high = none ∧ t.get (gateFld k (!high)) = 0 ∧ t.get (gateFld k high) = 1 ∧
      t.get (LEG.CNT_IL_DLY k) = min 65535 (s.get (LEG.CNT_IL_DLY k) + 1)) ∧
  (∀ (k : Fin 12) (t0 : Nat) (s : State), (s.island k).onL = false → (s.island k).waitH = some t0 →
    s.mayOn k true = true → s.get (LEG.STAT_BST_OK k) = 0 → ∃ t, exec (.interlockVerify k true) s = .next t ∧
      (t.island k).onH = (s.island k).onH ∧ (t.island k).waitH = none ∧ t.get (LEG.STAT_GL_ON k) = 0 ∧
      t.get (LEG.CNT_BST_REF k) = min 65535 (s.get (LEG.CNT_BST_REF k) + 1) ∧
      ((s.island k).refReported = false → t.raised (LEG.page k) 1)) ∧
  (∀ (k : Fin 12) (high : Bool) (t0 : Nat) (s : State), (s.island k).on (!high) = false → (s.island k).wait high = some t0 →
    s.mayOn k high = false → ∃ t, exec (.interlockVerify k high) s = .next t ∧ (t.island k).on high = (s.island k).on high ∧
      (t.island k).wait high = none ∧ t.get (gateFld k (!high)) = 0) ∧
  (∀ (k : Fin 12) (high : Bool) (s : State), (s.island k).on (!high) = true → exec (.interlockVerify k high) s = .next s) ∧
  (∀ (k : Fin 12) (high : Bool) (t0 : Nat) (s : State), s.legEn k = true → (s.island k).wait high = some t0 →
    ∃ t, exec (.ilTmo k high) s = .next t ∧ (t.legFlt k).testBit (if high then 5 else 6) = true ∧
      t.now = max s.now (t0 + s.get (LEG.TIM_IL_TMO k) * (tNs * 100))) ∧
  (∀ (k : Fin 12) (high : Bool) (s : State), (s.island k).wait high = none → exec (.ilTmo k high) s = .next s) ∧
  (∀ (k : Fin 12) (high : Bool) (t0 : Nat) (s : State), (s.island k).blank high = some t0 →
    ∃ t, exec (.blankEnd k high false) s = .next t ∧ (t.island k).blank high = none ∧ t.now = max s.now t0 ∧ t.regs = s.regs) ∧
  (∀ (k : Fin 12) (high : Bool) (t0 : Nat) (s : State), s.legEn k = true → (s.island k).blank high = some t0 →
    (s.island k).on high = true → (s.island k).soft high = none → s.legCode k ≠ 3 → s.legFlt k = 0 →
    ∃ t, exec (.blankEnd k high true) s = .next t ∧ (t.legFlt k).testBit (if high then 0 else 1) = true ∧
      (t.island k).onH = false ∧ (t.island k).onL = false ∧ (t.island k).soft high = some (t.now + 2 * tUs) ∧
      t.get (LEG.STAT_FAULTED k) = 1 ∧ t.get (LEG.STAT_SOFT k) = 1 ∧ t.raised (LEG.page k) 0) ∧
  (∀ (k : Fin 12) (high : Bool) (s : State), s.legEn k = true → (s.island k).on high = true → (s.island k).soft high = none →
    s.legCode k ≠ 3 → s.legFlt k = 0 →
    (∃ t, exec (.govDetect k high) s = .next t ∧ (t.legFlt k).testBit (if high then 2 else 3) = true ∧
      (t.island k).onH = false ∧ (t.island k).onL = false ∧ (t.island k).soft high = some (s.now + 2 * tUs) ∧
      (s.get (LEG.FLT_FIRST k) = 0 → t.get (LEG.FLT_FIRST k) = (if high then 3 else 4) ∧
        t.get (LEG.FLT_T_PIDX k) = s.pidx % 65536)) ∧
    ((s.island k).blank high = none → ∃ t, exec (.dsatDetect k high) s = .next t ∧
      (t.legFlt k).testBit (if high then 0 else 1) = true ∧ (t.island k).onH = false ∧ (t.island k).onL = false ∧
      (t.island k).soft high = some (s.now + 2 * tUs))) ∧
  (∀ (k : Fin 12) (high : Bool) (s : State), (s.island k).on high = false → (s.island k).cut high ≠ some s.now →
    exec (.govDetect k high) s = .next s ∧ exec (.dsatDetect k high) s = .next s) ∧
  (∀ (k : Fin 12) (high : Bool) (t0 : Nat) (s : State), (s.island k).soft high = some t0 → s.legFlt k ≠ 0 → s.legCode k ≠ 3 →
    ∃ t, exec (.softOffEnd k high) s = .next t ∧ (t.island k).soft high = none ∧ t.now = max s.now t0 ∧
      (t.island k).on high = (s.island k).on high ∧ t.legFlt k = s.legFlt k))

/-- R259, R260, R262, R267: a supply out of range clears its OK bit, and latches SUP_UV where the supplies have been
good; BST_OK sets once the low switch has been on for T_BCHG; its loss turns a high switch that is on off with
BST_LOST; a measured transition steps its code by at most one within ADP_MIN to ADP_MAX. R3, R259, R263, R266, R273,
R275–R280: the enable is judged against the fitted gate drive and the booster strap, and latches a supply out of
range and two lines ON; FLT clears once both lines have been off for 1 µs and no cause stands; a reported fault
fires the policy as TRIG says; a slot begins its soft turn-off; the self-test claims the leg of an idle island and
ends with its result. -/
def Obligations.IslandSuppliesAndPolicy : Prop :=
  ((∀ (k : Fin 12) (s : State), s.gated 15 = false → ∃ t, exec (.islandSupplyGood k) s = .next t ∧ t.get (LEG.STAT_VPOS_OK k) = 1 ∧
    t.get (LEG.STAT_VNEG_OK k) = 1 ∧ (t.island k).everGood = true ∧ t.legFlt k = s.legFlt k) ∧
  (∀ (k : Fin 12) (neg : Bool) (s : State), s.gated 15 = false → s.get (LEG.STAT_TESTING k) = 0 → ∃ t, exec (.supUv k true neg) s = .next t ∧
    t.get (LEG.STAT_VPOS_OK k) = 0 ∧ (neg = true → t.get (LEG.STAT_VNEG_OK k) = 0) ∧
    ((s.island k).everGood = false → t.legFlt k = s.legFlt k) ∧
    ((s.island k).everGood = true → s.legEn k = true → (t.legFlt k).testBit 7 = true ∧ t.raised (LEG.page k) 5)) ∧
  (∀ (k : Fin 12) (t0 : Nat) (s : State), (s.island k).charged = false → (s.island k).lowOn = some t0 →
    ∃ t, exec (.bstCharged k) s = .next t ∧ t.get (LEG.STAT_BST_OK k) = 1 ∧
      t.now = max s.now (t0 + s.get (LEG.TIM_T_BCHG k) * tUs) ∧ t.sameRegsBut s [ LEG.STAT k]) ∧
  (∀ (k : Fin 12) (s : State), (s.island k).charged = false → (s.island k).lowOn = none → exec (.bstCharged k) s = .next s) ∧
  (∀ (k : Fin 12) (s : State), ∃ t, exec (.bstLost k) s = .next t ∧ t.get (LEG.STAT_BST_OK k) = 0 ∧
    ((s.island k).onH = true → s.legEn k = true → (t.legFlt k).testBit 8 = true ∧ (t.island k).onH = false) ∧
    ((s.island k).onH = false → t.legFlt k = s.legFlt k)) ∧
  (∀ (k : Fin 12) (kind : Fin 4) (time : Nat) (s : State) (tgt tol : Nat), s.get (LEG.CFG_DRV k) = 2 → s.legEn k = true →
    s.get (LEG.STAT_TESTING k) = 0 → (kind.val % 2 = 0 → (s.island k).on (decide (kind.val < 2)) = true) →
    (kind.val % 2 = 1 → (s.island k).on (decide (kind.val < 2)) = false ∧ (s.island k).soften (decide (kind.val < 2)) = false) →
    tgt = 10 * s.get (if kind.val % 2 = 0 then LEG.ADP_TGT_ON k else LEG.ADP_TGT_OFF k) → tol = 10 * s.get (LEG.ADP_TOL k) →
    ∃ t, exec (.adaptStep k kind time) s = .next t ∧ t.get ⟨LEG.TMEAS k, 8 * kind.val, 8⟩ = min 255 (time / 2) ∧
      (s.get (LEG.CFG_ADP_FRZ k) = 1 → t.get ⟨LEG.ADP_STAT k, 4 * kind.val, 4⟩ = s.get ⟨LEG.ADP_STAT k, 4 * kind.val, 4⟩) ∧
      (s.get (LEG.CFG_ADP_FRZ k) = 0 → tgt + tol < time → t.get ⟨LEG.ADP_STAT k, 4 * kind.val, 4⟩
        = max (s.get (LEG.DRV_ADP_MIN k)) (min (s.get (LEG.DRV_ADP_MAX k)) (s.get ⟨LEG.ADP_STAT k, 4 * kind.val, 4⟩ + 1))) ∧
      (s.get (LEG.CFG_ADP_FRZ k) = 0 → time + tol < tgt → t.get ⟨LEG.ADP_STAT k, 4 * kind.val, 4⟩
        = max (s.get (LEG.DRV_ADP_MIN k)) (min (s.get (LEG.DRV_ADP_MAX k)) (s.get ⟨LEG.ADP_STAT k, 4 * kind.val, 4⟩ - 1))) ∧
      (time ≤ tgt + tol → tgt ≤ time + tol →
        t.get ⟨LEG.ADP_STAT k, 4 * kind.val, 4⟩ = s.get ⟨LEG.ADP_STAT k, 4 * kind.val, 4⟩))) ∧
  ((∀ (k : Fin 12) (s : State), s.takes (LEG.page k) → s.isl = true →
    ((s.get (LEG.CFG_DRV k) = 0 ↔ s.straps.bmode.testBit k = true) →
      exec (.islandEnable k) s = .next (s.refuse (LEG.page k) 0x0C iBMODE)) ∧
    ((s.get (LEG.CFG_DRV k) == 0) = !(s.straps.bmode.testBit k) → s.legEn k = false →
      (s.island k).lineH = 0 → (s.island k).lineL = 0 → ∃ t, exec (.islandEnable k) s = .next t ∧ t.legEn k = true ∧
        t.get (LEG.ADP_STAT_CODES k) = getBits (s.reg (LEG.DRV k)) 0 16) ∧
    ((s.get (LEG.CFG_DRV k) == 0) = !(s.straps.bmode.testBit k) → s.legEn k = false → (s.island k).everGood = true →
      s.get (LEG.STAT_VPOS_OK k) = 0 → ∃ t, exec (.islandEnable k) s = .next t ∧ t.legEn k = true ∧
        (t.legFlt k).testBit 7 = true ∧ t.raised (LEG.page k) 5) ∧
    ((s.get (LEG.CFG_DRV k) == 0) = !(s.straps.bmode.testBit k) → s.legEn k = false → (s.island k).lineH = 1 →
      (s.island k).lineL = 1 → ∃ t, exec (.islandEnable k) s = .next t ∧ t.legEn k = true ∧
        (t.legFlt k).testBit 4 = true ∧ t.raised (LEG.page k) 2)) ∧
  (∀ (k : Fin 12) (s : State), s.takes (LEG.page k) → s.isl = false →
    exec (.islandEnable k) s = .next (s.refuse (LEG.page k) 0x0C eNOT_FITTED)) ∧
  (∀ (k : Fin 12) (s : State), s.takes (LEG.page k) → s.isl = true →
    ((∃ t0, (s.island k).offSince = some t0 ∧ t0 + tUs ≤ s.now) → s.get (LEG.STAT_VPOS_OK k) = 1 → s.get (LEG.STAT_VNEG_OK k) = 1 →
      (s.island k).softH = none → (s.island k).softL = none → ∃ t, exec (.fltClr k) s = .next t ∧ t.legFlt k = 0 ∧
        t.get (LEG.FLT_FIRST k) = 0 ∧ t.get (LEG.STAT_FAULTED k) = 0 ∧ t.latches = s.latches) ∧
    (((s.island k).offSince = none ∨ s.get (LEG.STAT_VPOS_OK k) = 0 ∨ (s.island k).softH.isSome) →
      exec (.fltClr k) s = .next (s.refuse (LEG.page k) 0x60 iFLT_ACTIVE))) ∧
  (∀ (k : Fin 12) (s : State), (s.island k).reports = [] → exec (.faultReport k) s = .next s) ∧
  (∀ (k : Fin 12) (bit t0 b : Nat) (l : List (Nat × Nat)) (s : State), (s.island k).reports = (bit, t0) :: l →
    b = s.get (LEG.CFG_BUS k) →
    ((s.get (LEG.BUSPOL_QUAL 0 b)).testBit bit = false →
      exec (.faultReport k) s = .next (s.setIsland k { s.island k with reports := l })) ∧
    ((s.get (LEG.BUSPOL_QUAL 0 b)).testBit bit = true → s.get (LEG.BUSPOL_TRIG 0 b) = 1 → ∃ t, exec (.faultReport k) s = .next t ∧
      t.get (latchFld 11) = 1 ∧ t.get (LEG.BUS_EVT_VALID 0) = 1 ∧ t.get (LEG.BUS_EVT_ISL_A 0) = k.val ∧
      t.get (LEG.BUS_EVT_BUS 0) = b ∧ t.raised (LEG.page k) 3) ∧
    (((s.get (LEG.BUSPOL_TRIG 0 b) = 2 ∧ (∀ q ∈ s.polHist, q.1 = b → q.2.1 = k.val ∨ q.2.2 + tUs ≤ t0 ∨ t0 + tUs ≤ q.2.2))
        ∨ s.get (LEG.BUSPOL_TRIG 0 b) = 0) →
      ∃ t, exec (.faultReport k) s = .next t ∧ t.latches = s.latches ∧ t.regs = s.regs)) ∧
  (∀ (k : Fin 12) (high : Bool) (t0 : Nat) (s : State), (s.island k).slot high = some t0 → (s.island k).on high = true →
    (s.island k).lineL ≠ 1 → ∃ t, exec (.staggeredSoftOff k high) s = .next t ∧ t.now = max s.now t0 ∧ (t.island k).on high = false ∧
      (t.island k).slot high = none ∧ (t.island k).soft high = some (t.now + 2 * tUs) ∧ t.legFlt k = s.legFlt k) ∧
  (∀ (k : Fin 12) (s : State), s.takes (LEG.page k) → s.isl = true →
    (s.islIdle k = true → ∃ t, exec (.islandTest k) s = .next t ∧ t.get (LEG.STAT_TESTING k) = 1 ∧
      (t.claim (resKey 2 k)).cls = 8 ∧ (t.claim (resKey 2 k)).inst = k.val ∧ t.get (LEG.STAT_TEST_PASS k) = 0 ∧
      t.get (LEG.STAT_TEST_FAIL k) = 0) ∧
    (s.islIdle k = false → exec (.islandTest k) s = .next (s.refuse (LEG.page k) 0x74 iNOT_IDLE))) ∧
  (∀ (k : Fin 12) (f : BitVec 15) (s : State), s.get (LEG.STAT_TESTING k) = 1 → ∃ t, exec (.islandTestDone k f) s = .next t ∧
    t.get (LEG.STAT_TESTING k) = 0 ∧ t.raised (LEG.page k) 4 ∧
    (s.get (LEG.STAT_BST_OK k) = 1 → t.get (LEG.TEST_RES_FAIL k) = f.toNat ∧ t.get (LEG.TEST_RES_SKIP k) = 0 ∧
      t.get (LEG.STAT_TEST_PASS k) = (if f = 0 then 1 else 0) ∧ t.get (LEG.STAT_TEST_FAIL k) = (if f = 0 then 0 else 1)) ∧
    (s.get (LEG.STAT_BST_OK k) = 0 → t.get (LEG.STAT_TEST_PASS k) = 0 ∧ t.get (LEG.TEST_RES_SKIP k) = 0x4A8)))

/-! ### Analogue acquisition (R286–R307) -/

/-- R290–R292: an event of a live trigger is counted until the (DIV + 1)-th, which starts the run of an idle pair, lets
the segment wait while another runs, and is missed and counted while the segment itself waits or runs; SEG_GO gives
the events of TRIG = SW. R289, R291, R294: a run's first entry issues at trigger + DLY on a free converter and
occupies it for 100 ns; an urgent request issues at its instant on UCV and abandons a sequence entry converting
there, which issues again. R293, R294, R297: a request of a source that is not enabled, and a fifth one, are lost
and counted; a calibration is refused while the pair runs and otherwise ends with its values, CAL_OK and CAL_DONE. -/
def Obligations.SegmentsAndUrgentRequests : Prop :=
  ((∀ (p : Fin 8) (k : Fin 4) (s : State), s.segLive p k = false → exec (.segmentTrigger p k) s = .next s) ∧
  (∀ (p : Fin 8) (k : Fin 4) (s : State), s.segLive p k = true → (s.pair p).cnt.length = 4 →
    ((s.pair p).cnt.getD k 0 < s.get (PAIR.SEG_DIV p k) → exec (.segmentTrigger p k) s
      = .next (s.modPair p (fun x => { x with cnt := x.cnt.set k ((s.pair p).cnt.getD k 0 + 1) }))) ∧
    (s.get (PAIR.SEG_DIV p k) ≤ (s.pair p).cnt.getD k 0 → (s.pair p).run = none → (s.pair p).wait = [] →
      ∃ t r, exec (.segmentTrigger p k) s = .next t ∧ (t.pair p).run = some r ∧ r.seg = k.val ∧ r.trig = s.tickAt s.now ∧
        r.start = s.tickAt s.now ∧ r.began = false ∧ (t.pair p).cnt.getD k 0 = 0 ∧
        t.get (PAIR.PSTAT_SEG_ACT p) = 2 ^ k.val) ∧
    (∀ r, s.get (PAIR.SEG_DIV p k) ≤ (s.pair p).cnt.getD k 0 → (s.pair p).run = some r →
      (r.seg = k.val → ∃ t, exec (.segmentTrigger p k) s = .next t ∧ (t.pair p).run = some r ∧ t.raised (PAIR.page p) 1 ∧
        t.get (PAIR.CNT_SEG_MISS p) = min 65535 (s.get (PAIR.CNT_SEG_MISS p) + 1)) ∧
      (r.seg ≠ k.val → (s.pair p).wait = [] → ∃ t, exec (.segmentTrigger p k) s = .next t ∧ (t.pair p).run = some r ∧
        (t.pair p).wait = [(k.val, s.tickAt s.now)]))) ∧
  (∀ (p : Fin 8) (k : Fin 4) (s : State), s.takes (PAIR.page p) → s.pairSeq p = true → s.get (PAIR.SEG_LEN p k) ≠ 0 →
    (s.get (PAIR.SEG_TRIG p k) = 8 → exec (.segGo p (BitVec.ofNat 4 (1 <<< k.val))) s = .next (s.segEvent p k)) ∧
    (s.get (PAIR.SEG_TRIG p k) ≠ 8 → exec (.segGo p (BitVec.ofNat 4 (1 <<< k.val))) s = .next s)) ∧
  (∀ (k t : Nat) (l : List (Nat × Nat)), (k, t) ∈ waitIns k t l ∧ (∀ q ∈ l, q ∈ waitIns k t l) ∧
    (waitIns k t l).length = l.length + 1 ∧
    (l.Pairwise (fun a b => a.2 < b.2 ∨ (a.2 = b.2 ∧ a.1 ≤ b.1)) →
      (waitIns k t l).Pairwise (fun a b => a.2 < b.2 ∨ (a.2 = b.2 ∧ a.1 ≤ b.1))))) ∧
  ((∀ (p : Fin 8) (s : State), (s.pair p).run = none → exec (.entryIssue p) s = .next s) ∧
  (∀ (p : Fin 8) (r : AdcRun) (s : State) (t0 cv : Nat), (s.pair p).run = some r → r.began = false →
    s.get (PAIR.SEG_LEN p r.seg) = 1 → cv = s.get (PAIR.SEQ_E_CV p (s.get (PAIR.SEG_START p r.seg))) → (s.pair p).urg = [] →
    t0 = max (r.trig + s.get (PAIR.SEG_DLY p r.seg) * tTick) r.start → (s.pair p).free cv ≤ t0 →
    ∃ t c, exec (.entryIssue p) s = .next t ∧ (t.pair p).convs = (s.pair p).convs ++ [c] ∧ c.at_ = t0 ∧ c.cv = cv ∧
      c.inp = s.get (PAIR.SEQ_E_INP p (s.get (PAIR.SEG_START p r.seg))) ∧ c.ent = some 0 ∧ (t.pair p).free cv = t0 + tConv ∧
      t.now = max s.now t0 ∧ t.regs = s.regs ∧
      (c.late = true ↔ r.trig + s.get (PAIR.SEG_DLY p r.seg) * tTick < t0)) ∧
  (∀ (p : Fin 8) (s : State), (s.pair p).urg = [] → exec (.urgentIssue p) s = .next s) ∧
  (∀ (p : Fin 8) (u : AdcUrg) (l : List AdcUrg) (s : State), (s.pair p).urg = u :: l → (s.pair p).convs = [] →
    ∃ t c, exec (.urgentIssue p) s = .next t ∧ (t.pair p).urg = l ∧ (t.pair p).convs = [c] ∧ c.at_ = u.at_ ∧ c.inp = u.inp ∧
      c.strm = u.strm ∧ c.req = u.req ∧ c.cv = s.get (PAIR.URG0_UCV p) ∧ c.ent = none ∧ c.late = false ∧ (t.pair p).run = (s.pair p).run) ∧
  (∀ (p : Fin 8) (u : AdcUrg) (l : List AdcUrg) (h : AdcConv) (i : Nat) (r : AdcRun) (s : State), (s.pair p).urg = u :: l →
    (s.pair p).convs = [h] → h.ent = some i → h.cv = s.get (PAIR.URG0_UCV p) → u.at_ < h.at_ + tConv → (s.pair p).run = some r →
    ∃ t c r', exec (.urgentIssue p) s = .next t ∧ (t.pair p).convs = [c] ∧ c.at_ = u.at_ ∧ c.ent = none ∧
      (t.pair p).run = some r' ∧ r'.todo = i :: r.todo)) ∧
  ((∀ (p : Fin 8) (u : Fin 4) (s : State), s.pairSeq p = true →
    (s.get (PAIR.URG0_TRP_EN p) = 0 → exec (.urgentRequest p 1 u) s = .next (s.bump (PAIR.CNT_URG_LOST p))) ∧
    (s.get (PAIR.URG0_TRP_EN p) = 1 → 4 ≤ (s.pair p).urg.length →
      exec (.urgentRequest p 1 u) s = .next ((s.bump (PAIR.CNT_URG_LOST p)).irq (PAIR.page p) 2)) ∧
    (s.get (PAIR.URG0_TRP_EN p) = 1 → (s.pair p).urg = [] → ∃ t, exec (.urgentRequest p 1 u) s = .next t ∧
      (t.pair p).urg = [⟨s.tickAt s.now, s.get (PAIR.URG0_TRP_IN p), s.get (PAIR.URG0_TRP_STRM p), none⟩] ∧
      t.get (PAIR.PSTAT_URG_FILL p) = 1) ∧
    (∀ t0, s.get (PAIR.URG0_EVT_EN p) = 1 → (s.pair p).urg = [] → (s.island (s.get (PAIR.URG0_EVT_LEG p))).lowAt = some t0 →
      s.tickOf t0 = s.nowTick → (s.pair p).evtAt ≠ some t0 → ∃ t, exec (.urgentRequest p 2 u) s = .next t ∧
      (t.pair p).urg = [⟨s.tickAt t0 + s.get (PAIR.URG1_EVT_DLY p) * tTick, s.get (PAIR.URG0_EVT_IN p),
        s.get (PAIR.URG0_EVT_STRM p), none⟩])) ∧
  (∀ (p : Fin 8) (u : Fin 4) (s : State), ((s.island (s.get (PAIR.URG0_EVT_LEG p))).lowAt = none ∨
    (∃ t0, (s.island (s.get (PAIR.URG0_EVT_LEG p))).lowAt = some t0 ∧ (s.tickOf t0 ≠ s.nowTick ∨ (s.pair p).evtAt = some t0))) →
    exec (.urgentRequest p 2 u) s = .next s) ∧
  (∀ (k : Fin 12) (p : Fin 8) (s : State), s.legEn k = false → (s.island k).lineL ≠ 1 → s.pairSeq p = true →
    s.get (PAIR.URG0_EVT_EN p) = 1 → s.get (PAIR.URG0_EVT_LEG p) = k → (s.pair p).urg = [] → (s.pair p).evtAt ≠ some s.now →
    (∀ u, u < 4 → s.get (MCX.C_CFG_LEG u) ≠ k) → ∃ t, exec (.islandCmdChange k 0 1) s = .next t ∧
      (t.pair p).urg = [⟨s.tickAt s.now + s.get (PAIR.URG1_EVT_DLY p) * tTick, s.get (PAIR.URG0_EVT_IN p),
        s.get (PAIR.URG0_EVT_STRM p), none⟩]) ∧
  (∀ (p : Fin 8) (u : Fin 4) (q : Nat) (s : State), q = s.get (MCX.C_CFG_IAI u) / 8 → s.pairSeq q = true → (s.pair q).urg = [] →
    s.get (PAIR.URG0_MCX_EN q) = 1 → s.chopChecked u = true → (s.island (s.get (MCX.C_CFG_LEG u))).lineL = 1 →
    ∃ t, exec (.urgentRequest p 0 u) s = .next t ∧
      (t.pair q).urg = [⟨s.tickAt s.now, s.get (MCX.C_CFG_IAI u) % 8, s.get (PAIR.URG0_MCX_STRM q), some u.val⟩]) ∧
  (∀ (p : Fin 8) (u : Fin 4) (s : State), (s.chopChecked u = false ∨ (s.island (s.get (MCX.C_CFG_LEG u))).lineL ≠ 1) →
    exec (.urgentRequest p 0 u) s = .next s) ∧
  (∀ (p : Fin 8) (v : Word) (s : State), s.takes (PAIR.page p) → s.pairSeq p = true → s.get (PAIR.URG0_SW_EN p) = 1 →
    (s.pair p).urg = [] → ∃ t, exec (.urgSwGo p v) s = .next t ∧
      (t.pair p).urg = [⟨s.tickAt s.now, getBits v 0 3, getBits v 4 4, none⟩]) ∧
  (∀ (p : Fin 8) (s : State), s.takes (PAIR.page p) →
    (s.pairOn p = true → exec (.adcCalibrate p) s = .next (s.refuse (PAIR.page p) 0x1AC aBUSY)) ∧
    (s.pairOn p = false → exec (.adcCalibrate p) s = .next (s.set (PAIR.PSTAT_CAL_RUN p) 1))) ∧
  (∀ (p : Fin 8) (a b : Word) (k : BitVec 8) (s : State), s.get (PAIR.PSTAT_CAL_RUN p) = 1 →
    ∃ t, exec (.calDone p a b k) s = .next t ∧ t.reg (PAIR.CAL_A p) = a ∧ t.reg (PAIR.CAL_B p) = b ∧
      t.get (PAIR.CAL_SKEW_SKEW p) = k.toNat ∧ t.get (PAIR.PSTAT_CAL_RUN p) = 0 ∧ t.get (PAIR.PSTAT_CAL_OK p) = 1 ∧
      t.get ⟨ADC.PAIR_STAT, 8 + p, 1⟩ = 1 ∧ t.raised (PAIR.page p) 6) ∧
  (∀ (p : Fin 8) (a b : Word) (k : BitVec 8) (s : State), s.get (PAIR.PSTAT_CAL_RUN p) = 0 → exec (.calDone p a b k) s = .next s))

/-- R288, R289, R297–R301: the first result is ready 150 ns after its sampling instant, corrected and saturated, and one
requested for a chopper is delivered to it; a conversion marked by a change of gain or calibration is not VALID; a
stream with R = 1 and N = 1 passes it unchanged. R302: a queued word goes to BUF_WR of the circular buffer, which
advances modulo its length; a word that meets the read pointer advances it, is counted and raises BUF_OVR. -/
def Obligations.ConversionResultsAndBuffer : Prop :=
  ((∀ (p : Fin 8) (raw : BitVec 16) (s : State), (s.pair p).convs = [] → exec (.conversionDone p raw) s = .next s) ∧
  (∀ (p : Fin 8) (raw : BitVec 16) (c : AdcConv) (s : State), (s.pair p).convs = [c] → c.ent.isSome → c.inp < 8 → c.cv < 2 →
    (s.pair p).gInv = List.replicate 8 (0, 0) → (s.pair p).cInv = List.replicate 2 (0, 0) → c.late = false →
    ∃ t, exec (.conversionDone p raw) s = .next t ∧ t.now = max s.now (c.at_ + tReady) ∧ (t.pair p).convs = [] ∧
      SMap.get (fun _ => none) t.aiLast (8 * p + c.inp) = some (adcCode
        (if c.cv = 0 then s.getS (PAIR.CAL_A_OFS p) else s.getS (PAIR.CAL_B_OFS p))
        (if c.cv = 0 then s.get (PAIR.CAL_A_GN p) else s.get (PAIR.CAL_B_GN p)) (sgnOf 16 raw.toNat)).1 ∧
      SMap.get (fun _ => (0, false)) t.aiInst (8 * p + c.inp) = (c.at_ + 1, true)) ∧
  (∀ (p : Fin 8) (raw : BitVec 16) (c : AdcConv) (u : Nat) (s : State), (s.pair p).convs = [c] → c.ent = none → c.req = some u →
    ∃ t, exec (.conversionDone p raw) s = .next t ∧ (t.pair p).convs = [] ∧
      SMap.get (fun _ => []) t.mcx.chRes u = SMap.get (fun _ => []) s.mcx.chRes u ++ [(adcCode
        (if c.cv = 0 then s.getS (PAIR.CAL_A_OFS p) else s.getS (PAIR.CAL_B_OFS p))
        (if c.cv = 0 then s.get (PAIR.CAL_A_GN p) else s.get (PAIR.CAL_B_GN p)) (sgnOf 16 raw.toNat)).1]) ∧
  (∀ (p : Fin 8) (raw : BitVec 16) (c : AdcConv) (n at_ : Nat) (s : State), (s.pair p).convs = [c] → c.inp < 8 → c.late = false →
    (s.pair p).gInv.getD c.inp (0, 0) = (n + 1, at_) → at_ ≤ c.at_ → (s.pair p).gInv.length = 8 →
    ∃ t, exec (.conversionDone p raw) s = .next t ∧ (t.pair p).gInv.getD c.inp (0, 0) = (n, at_) ∧
      SMap.get (fun _ => (0, false)) t.aiInst (8 * p + c.inp) = (c.at_ + 1, false) ∧ t.aiLast = s.aiLast) ∧
  (∀ (ofs raw : Int) (gn : Nat), -32768 ≤ (adcCode ofs gn raw).1 ∧ (adcCode ofs gn raw).1 ≤ 32767 ∧
    (gn = 0x8000 → -32768 ≤ raw - ofs → raw - ofs ≤ 32767 → (adcCode ofs gn raw).1 = raw - ofs) ∧
    ((raw = -32768 ∨ raw = 32767) → (adcCode ofs gn raw).2 = true)) ∧
  (∀ (p j ai : Nat) (code : Int) (s : State), s.get (PAIR.STR_CFG_EN p j) = 1 → s.get (PAIR.STR_CFG_NM1 p j) = 0 →
    s.get (PAIR.STR_CFG_RM1 p j) = 0 → s.get (PAIR.STR_CFG_BUF p j) = 0 → -32768 ≤ code → code ≤ 32767 → p < 8 → j < 16 → ai < 64 →
    (SMap.get (fun _ => {}) (s.pair p).flts j).bad = 0 → (SMap.get (fun _ => {}) (s.pair p).flts j).intg = [0] →
    (SMap.get (fun _ => {}) (s.pair p).flts j).comb = [0] → (SMap.get (fun _ => {}) (s.pair p).flts j).n = 0 →
    (SMap.get (fun _ => {}) (s.pair p).flts j).inv = none → (SMap.get (fun _ => {}) (s.pair p).flts j).clip = none →
    (SMap.get (fun _ => {}) (s.pair p).flts j).late = none →
    (s.strIn p j ai code true false false).reg (PAIR.STR_LAST p j) = adcWord code ai true false false false j) ∧
  (∀ (p : Fin 8) (raw : BitVec 16) (b : Nat) (s : State), (s.pair p).ilvAt = some b → s.pairOn p = true → s.get (PAIR.PCFG_MODE p) = 1 →
    (s.pair p).ilvN % 2 = 0 → ∃ t, exec (.ilvConversion p raw) s = .next t ∧ (t.pair p).ilvN = (s.pair p).ilvN + 1 ∧
      t.now = max s.now (b + (s.pair p).ilvN * (50 * tNs) + tReady)) ∧
  (∀ (p : Fin 8) (raw : BitVec 16) (s : State), (s.pair p).ilvAt = none → exec (.ilvConversion p raw) s = .next s)) ∧
  ((∀ (p : Fin 8) (s : State), (s.pair p).bufQ = [] → exec (.bufWordWritten p) s = .next s) ∧
  (∀ (p : Fin 8) (w : Word) (l : List Word) (s u : State) (size wr rd : Nat), (s.pair p).bufQ = w :: l →
    size = 2 ^ s.get (PAIR.BUF_LEN_LOG2 p) → 1 < size → size ≤ 65536 → wr = s.get (PAIR.BUF_WR_WR p) → rd = s.get (PAIR.BUF_RD_RD p) →
    wr < size → rd < size →
    (s.setPair p { s.pair p with bufQ := l }).dmaWrite (s.get (PAIR.PCFG_DMA_CH p)) (s.get (PAIR.BUF_BASE_ADDR p) * 64 + 4 * wr)
      (leBytes 4 (if (wr + 1) % size = rd then w ||| adcOvr else w).toNat) = (true, u) → u.regs = s.regs →
    ∃ t, exec (.bufWordWritten p) s = .next t ∧ t.get (PAIR.BUF_WR_WR p) = (wr + 1) % size ∧ t.mem = u.mem ∧
      ((wr + 1) % size ≠ rd → t.get (PAIR.BUF_RD_RD p) = rd) ∧
      ((wr + 1) % size = rd → t.get (PAIR.BUF_RD_RD p) = (rd + 1) % size ∧ t.raised (PAIR.page p) 4)))

/-! ### Trestle fabric, station time and Settle pairs (R308–R341) -/

/-- R309, R310, R314: a LANE_EN bit starts training; 64 valid headers give it block lock, and with a message sent and
received the 64th echo reply takes it UP with half its delay as D; a message of no FOB-4896 takes it DOWN with cause
FOREIGN; loss of lock or of messages takes it DOWN, raises NBR_DOWN and starts a rediscovery; messages carry the
sender's identity, address, arming and Settle state. R310, R313, R326: a message of a lane that is UP is kept; one
of a fabric whose root has the lower unique id makes a DISARMED module step and be admitted as a member, and an
ARMED one that would have to step set JOIN_ARMED unadmitted. A root of a higher unique id on the upstream lane says
that the root is lost: HOLDOVER (R322; log entry 269). R311, R312, R314, R315: a rediscovery takes the admitted
module with the lowest unique id as root, refuses the higher id of two equal straps, routes each address by the
fewest hops (ties to the lower lane), and raises REDISC_DONE. -/
def Obligations.TrestleLanesAndFabric : Prop :=
  ((∀ (k : Fin 8) (s : State), s.takes TRL.page → (s.get TRL.CFG_LANE_EN).testBit k = false →
    ∃ t, exec (.trlLaneEnable k) s = .next t ∧ t.get TRL.CFG_LANE_EN = s.get TRL.CFG_LANE_EN ||| 1 <<< k.val ∧
      t.get (TRL.LN_STAT_STATE k) = tlLOCK ∧ t.get (TRL.LN_STAT_DCAUSE k) = 0 ∧
      t.sameRegsBut s [TRL.CFG, TRL.LN_STAT k]) ∧
  (∀ (k : Fin 8) (s : State), s.tl k = tlLOCK → (s.tlane k).hdr.lock = false → (s.tlane k).hdr.run = 63 →
    (∃ t, exec (.trlLaneUp k [1] [] []) s = .next t ∧ t.tl k = tlNBR ∧ (t.tlane k).hdr.lock = true ∧ t.trl.nbr = s.trl.nbr) ∧
    ∃ t, exec (.trlLaneUp k [3] [] []) s = .next t ∧ t.tl k = tlLOCK ∧
      (t.tlane k).hdr = { slip := ((s.tlane k).hdr.slip + 1) % 66 }) ∧
  (∀ (k : Fin 8) (r u d : Nat) (m : NbrMsg) (s : State), s.tl k = tlNBR → s.get MOD.TB_STAT_LOCK = 1 → (s.tlane k).msg = some m →
    (s.tlane k).replies = List.replicate 63 (r, u) → r = u + 2 * d → r ≤ 320000 → d < 65536 →
    (SMap.get (fun _ => none) s.trl.tx k).isSome = true →
    ∃ t, exec (.trlLaneUp k [] [] [(u, r)]) s = .next t ∧ t.tl k = tlUP ∧ t.get (TRL.LN_STAT_D k) = d ∧
      t.get (TRL.LN_STAT_PEER_OK k) = 1 ∧ t.nbrOf k = some m ∧ t.raised TRL.page 0 ∧ t.trl.redisc.isSome = true) ∧
  (∀ (k : Fin 8) (m : NbrMsg) (s : State), s.tl k = tlNBR → ∃ t, exec (.trlLaneUp k [] [(false, m)] []) s = .next t ∧
    t.tl k = tlDOWN ∧ t.get (TRL.LN_STAT_DCAUSE k) = 3 ∧ t.trl.nbr = s.trl.nbr ∧ t.trl.redisc.isSome = true) ∧
  (∀ (k : Fin 8) (s : State), s.tl k = tlUP → (s.on STL.CFG_EN && s.get STL.CFG_MLANE == k.val) = false →
    ((s.tlane k).hdr.lock = true → ((s.tlane k).hdr.hist.take 63).count false = 15 →
      ∃ t, exec (.neighbourLoss k (some [0])) s = .next t ∧ t.tl k = tlDOWN ∧ t.get (TRL.LN_STAT_DCAUSE k) = 1 ∧
        t.get (TRL.LN_ERR_LOCKLOSS k) = min 65535 (s.get (TRL.LN_ERR_LOCKLOSS k) + 1) ∧
        t.raised TRL.page 1 ∧ t.trl.redisc.isSome = true ∧ t.nbrOf k = none) ∧
    ∃ t, exec (.neighbourLoss k none) s = .next t ∧ t.tl k = tlDOWN ∧ t.get (TRL.LN_STAT_DCAUSE k) = 2 ∧
      t.now = max s.now ((s.tlane k).msgAt + 3 * tMs) ∧ t.raised TRL.page 1 ∧ t.trl.redisc.isSome = true ∧ t.nbrOf k = none) ∧
  (∀ (k : Fin 8) (s : State), s.tl k = tlUP ∨ (s.tl k = tlNBR ∧ (s.tlane k).msg = none) → ∃ t m, exec (.neighbourSend k) s = .next t ∧
    SMap.get (fun _ => none) t.trl.tx k = some m ∧ m.uid = s.straps.uid ∧ m.addr = s.get TRL.ID_ADDR ∧ m.lane = k.val ∧
    m.admitted = s.on TRL.ID_ADMIT ∧ m.arm = s.armState ∧ m.stlState = s.get STL.STAT_STATE ∧
    m.stlPartner = s.get STL.CFG_PARTNER ∧ m.stlMlane = s.get STL.CFG_MLANE ∧ t.regs = s.regs) ∧
  (∀ (k : Fin 8) (s : State), s.tl k ≠ tlUP → s.tl k ≠ tlNBR → exec (.neighbourSend k) s = .next s)) ∧
  ((∀ (k : Fin 8) (m : NbrMsg) (s : State), s.tl k = tlUP → ∃ t, exec (.neighbourMsgRx k m) s = .next t ∧ t.nbrOf k = some m ∧
    (m.addr < 16 → t.get (TRL.LN_STAT_PEER_ADDR k) = m.addr) ∧
    (m.admitted = false → t.get TRL.ID_ADMIT = s.get TRL.ID_ADMIT ∧ t.epochAt = s.epochAt ∧ t.pidx = s.pidx) ∧
    (m.admitted = true → s.ruid < m.rootUid → s.isRoot = false → s.on (TRL.LN_STAT_UPSTREAM k) = true →
      t.get TBS.TSTAT_HOLDOVER = 1) ∧
    (s.nbrOf k = none → m.admitted = true → t.trl.redisc.isSome = true)) ∧
  (∀ (k : Fin 8) (m : NbrMsg) (s : State), s.tl k ≠ tlUP → exec (.neighbourMsgRx k m) s = .next s) ∧
  (∀ (m : NbrMsg) (s : State), s.trl.join = some m → s.mustStep m = true → s.armed = true →
    s.joinTry.get TRL.ID_JOIN_ARMED = 1 ∧ s.joinTry.get TRL.ID_ADMIT = 0 ∧ s.joinTry.epochAt = s.epochAt ∧
    s.joinTry.pidx = s.pidx ∧ s.joinTry.get TBS.PER_CFG_PERIOD = s.get TBS.PER_CFG_PERIOD ∧
    (s.on TRL.ID_JOIN_ARMED = false → s.joinTry.raised TRL.page 6)) ∧
  (∀ (m : NbrMsg) (s : State), s.trl.join = some m → s.mustStep m = true → s.armed = false →
    s.joinTry.get TRL.ID_JOIN_ARMED = 0 ∧ s.joinTry.get TRL.ID_ADMIT = 1 ∧ s.joinTry.isRoot = false ∧
    s.joinTry.trl.join = none ∧ s.joinTry.epochAt = m.epochAt ∧ s.joinTry.pidx = s.joinIdx m) ∧
  (∀ (m : NbrMsg) (s : State), s.trl.join = some m → s.mustStep m = false →
    s.joinTry.get TRL.ID_ADMIT = 1 ∧ s.joinTry.isRoot = false ∧ s.joinTry.epochAt = s.epochAt ∧ s.joinTry.pidx = s.pidx ∧
    ((s.get TRL.ID_ADMIT = 0 ∨ m.rootUid ≠ s.ruid) → s.joinTry.trl.redisc.isSome = true))) ∧
  ((∀ s : State, s.takes TRL.page → s.trl.redisc = none →
    exec .rediscGo s = .next (s.modTrl (fun x => { x with redisc := some s.now }))) ∧
  (∀ (r : Redisc) (s : State), exec (.rediscoveryDone r) s = .next (s.redisced r)) ∧
  (∀ (r : Redisc) (s : State), s.straps.uid < 2 ^ 64 → s.straps.slot < 16 → s.on TRL.CFG_ADDR_MODE = false →
    s.on TRL.ID_JOIN_ARMED = false → (∀ m ∈ r.mods, m.1 < 2 ^ 64 ∧ ∀ a ∈ m.2, a < 16) →
    (s.redisced r).raised TRL.page 2 ∧ (s.redisced r).trl.redisc = none ∧ (s.redisced r).get TRL.ID_ADDR = s.straps.slot ∧
    ((∃ m ∈ r.mods, m.2 = some s.straps.slot ∧ m.1 < s.straps.uid) →
      (s.redisced r).get TRL.ID_ADDR_CONFLICT = 1 ∧ (s.redisced r).get TRL.ID_ADMIT = 0) ∧
    ((∀ m ∈ r.mods, m.2 = some s.straps.slot → s.straps.uid ≤ m.1) →
      (s.redisced r).get TRL.ID_ADDR_CONFLICT = 0 ∧ (s.redisced r).get TRL.ID_ADMIT = 1 ∧
      ((s.redisced r).get TRL.ID_ROOT = 1 ↔ ∀ m ∈ r.mods, s.straps.uid ≤ m.1) ∧
      (s.redisced r).ruid = (r.mods.map (·.1)).foldl min s.straps.uid)) ∧
  (∀ (r : Redisc) (s : State), s.on TRL.CFG_ADDR_MODE = true → s.on TRL.ID_JOIN_ARMED = false → s.straps.uid < 2 ^ 64 →
    ((∃ m ∈ r.mods, m.1 < s.straps.uid) → r.assign < 16 → (s.redisced r).get TRL.ID_ADDR = r.assign) ∧
    ((∀ m ∈ r.mods, s.straps.uid ≤ m.1) → s.get TRL.ID_ADMIT = 1 → (s.redisced r).get TRL.ID_ADDR = s.get TRL.ID_ADDR ∧
      (s.redisced r).trl.mods = assignAll (s.get TRL.ID_ADDR :: r.mods.filterMap (·.2)) r.mods)) ∧
  (∀ (used : List Nat), (∃ a < 16, a ∉ used) →
    freeAddr used < 16 ∧ freeAddr used ∉ used ∧ ∀ b < freeAddr used, b ∈ used) ∧
  (∀ (l : List (Nat × Nat)) (q : Nat × Nat), bestPath l = some q → q ∈ l ∧ ∀ p ∈ l, q.1 < p.1 ∨ (q.1 = p.1 ∧ q.2 ≤ p.2)) ∧
  (∀ (s : State) (a h l : Nat) (ps : List (Nat × Nat)), a < 16 → l < 8 → h < 16 → bestPath ps = some (h, l) →
    (∀ p ∈ ps, p.2 < 8) →
    (s.routeSet a ps).get (TRL.RTE_PRI a) = l ∧ (s.routeSet a ps).get (TRL.RTE_PRI_OK a) = 1 ∧
    (s.routeSet a ps).get (TRL.RTE_HOPS a) = h ∧ (s.routeSet a ps).get (TRL.RTE_REACH a) = 1 ∧
    (s.routeSet a ps).get (TRL.RTE_ON_ALT a) = 0 ∧
    ((s.routeSet a ps).get (TRL.RTE_ALT_OK a) = 1 ↔ ∃ p ∈ ps, p.2 ≠ l)) ∧
  (∀ (s : State) (k : Fin 8), s.isRoot = false → s.tl k = tlUP → s.on (TRL.LN_STAT_UPSTREAM k) = true →
    s.on STL.CFG_EN = false → s.on TBS.TSTAT_HOLDOVER = false →
    (s.tlDown k 1).get TBS.TSTAT_HOLDOVER = 1 ∧ (s.tlDown k 1).raised TBS.page 9 ∧ (s.tlDown k 1).trl.holdAt = some s.now))

/-- R316, R317: a value for an enabled RX flow is stored if it arrives before the uplink window of the period after the
one it was sent in closes, and counted LATE otherwise; other flows take nothing. At the close a flow without a value
is missing. R319–R324, R339: marks steer a member and 1,000 in a row within 0.5 ns set DISC; a second of holdover
clears it; CAPTURE copies station time and index; STEP is refused while a module is ARMED or on a member, and
otherwise moves the epoch to the first whole second after the set time. -/
def Obligations.FlowValuesAndStationTime : Prop :=
  ((∀ (f : Fin 64) (v : Word) (k : Nat) (s : State), s.flowOn f false = false ∨ s.nbrOnly = true → exec (.flowValueRx f v k) s = .next s) ∧
  (∀ (f : Fin 64) (v : Word) (k : Nat) (s : State), s.flowOn f false = true → s.nbrOnly = false →
    (s.pidx = k + 1 ∧ s.window = 0 ∨ s.pidx ≤ k → ∃ t, exec (.flowValueRx f v k) s = .next t ∧ t.reg (TRL.FVAL f) = v ∧
      t.trl.got.testBit f = true ∧ t.sameRegsBut s [TRL.FVAL f]) ∧
    (k + 1 < s.pidx ∨ s.pidx = k + 1 ∧ s.window ≠ 0 → exec (.flowValueRx f v k) s = .next (s.bump (TRL.FCFG_LATE f)))) ∧
  (∀ (f : Fin 61) (s : State), s.flowOn f false = true →
    s.flowMiss.get (TRL.FCFG_MISS f) = (if s.trl.got.testBit f then 0 else 1) ∧
    (s.trl.got.testBit f = false → s.flowMiss.raised TRL.page 7) ∧ s.flowMiss.trl.got = 0)) ∧
  ((∀ (k : Fin 8) (s : State), s.tl k = tlUP → s.on (TRL.LN_STAT_UPSTREAM k) = false → s.nbrOnly = false →
    exec (.timeMarkSend k) s = .next (s.modTrl (fun x => { x with markTx := (s.stAt s.now).toNat }))) ∧
  (∀ (k : Fin 8) (st : Nat) (rate ps : Int) (s : State), s.tl k = tlUP → s.on (TRL.LN_STAT_UPSTREAM k) = true → s.isRoot = false →
    s.nbrOnly = false → (s.stAt s.now - ((st + s.get (TRL.LN_STAT_D k) * tFine : Nat) : Int)) * 25 = 24 * ps →
    -32768 ≤ ps → ps ≤ 32767 → ∃ t, exec (.timeMarkRx k ⟨st, rate⟩) s = .next t ∧ t.getS TBS.OFFS_OFS = ps ∧
      t.getS TBS.RATE_RATE = max (-(100 * s.get TBS.TCFG_RATE_MAX : Int)) (min (100 * s.get TBS.TCFG_RATE_MAX : Int) rate) ∧
      t.trl.marks = (if -500 ≤ ps ∧ ps ≤ 500 then min 1000 (s.trl.marks + 1) else 0)) ∧
  (∀ (k : Fin 8) (st : Nat) (rate : Int) (s : State), s.tl k ≠ tlUP ∨ s.on (TRL.LN_STAT_UPSTREAM k) = false ∨ s.isRoot = true ∨ s.nbrOnly = true →
    exec (.timeMarkRx k ⟨st, rate⟩) s = .next s) ∧
  (∀ s : State, s.trl.marks = 1000 ∨ s.isRoot = true → ∃ t, exec .discAcquire s = .next t ∧ t.get MOD.TB_STAT_DISC = 1 ∧
    t.sameRegsBut s [ MOD.TB_STAT, PLL.PFRAC 1]) ∧
  (∀ s : State, s.trl.marks < 1000 → s.isRoot = false → exec .discAcquire s = .next s) ∧
  (∀ (h : Nat) (s : State), s.trl.holdAt = some h → ∃ t, exec .discLost s = .next t ∧ t.get MOD.TB_STAT_DISC = 0 ∧
    t.raised TBS.page 8 ∧ h + tS ≤ t.now) ∧
  (∀ s : State, s.takes TBS.page → (s.stAt s.now).toNat < 2 ^ 48 * 1000000000 * 960 → s.pidx < 2 ^ 64 →
    ∃ t, exec .timeCapture s = .next t ∧
      t.get TBS.ST_SEC0_SEC_LO + 4294967296 * t.get TBS.ST_SEC1_SEC_HI = (s.stAt s.now).toNat / 960 / 1000000000 ∧
      t.get TBS.ST_NS_NS = (s.stAt s.now).toNat / 960 % 1000000000 ∧
      t.get TBS.PIDX0_PIDX + 4294967296 * t.get TBS.PIDX1_PIDX = s.pidx ∧ t.trl = s.trl ∧ t.epochAt = s.epochAt) ∧
  (∀ s : State, s.takes TBS.page →
    (s.armed = true ∨ s.nbrArmed 2 = true → exec .timeStep s = .next (s.refuse TBS.page 0x44 eARMED)) ∧
    (s.armed = false → s.nbrArmed 2 = false → s.isRoot = false → exec .timeStep s = .next (s.refuse TBS.page 0x44 bNOT_ROOT)) ∧
    (s.armed = false → s.nbrArmed 2 = false → s.isRoot = true → s.get TBS.SET_NS_NS < 1000000000 →
      s.get TBS.SET_SEC0_SEC_LO < 4294967295 →
      ∃ t, exec .timeStep s = .next t ∧ t.get TBS.EPOCH_SEC0_SEC_LO = s.get TBS.SET_SEC0_SEC_LO + 1 ∧
        t.get TBS.EPOCH_SEC1_SEC_HI = s.get TBS.SET_SEC1_SEC_HI ∧ t.get TBS.EPOCH_NS_NS = 0 ∧
        t.epochAt = s.now + (1000000000 - s.get TBS.SET_NS_NS) * 960 ∧ t.pidx = s.pidx ∧ t.raised TBS.page 10)))

/-- R326, R328, R332: STL is enabled to a named partner on an UP lane within the budget; a preferred module claims cold
where its partner's line reads released; the refusals of the enable come in the order of R326. R327, R328, R333:
DRIVE holds once the own line is asserted and the partner's has read released for 100 ns, 200 ns after the assertion
in a claim; a released line is taken over from STANDBY; within 200 ns of an assertion by both the module with PREF =
0 releases. R329, R336, R337: KEEP, HANDOVER and the handback release the line at the close of the downlink window
of their period, each for its cause, HANDOVER only to a module in STANDBY or RETURN; RETURN_NOW ends the hold-off; a
former owner whose partner has not claimed by the boundary that opens p + 1 claims again. -/
def Obligations.SettleEnableAndHandover : Prop :=
  (∀ (v : Word) (s : State), s.takes STL.page → s.locked STL.page = false → s.on STL.CFG_EN = false →
    1 ≤ getBits v 16 10 → getBits v 16 10 ≤ 600 → (v ||| 1 = v) →
    (getBits v 5 4 = s.get TRL.ID_ADDR → exec (.stlEnable v) s = .next (s.refuse STL.page 0x40 stPARTNER)) ∧
    (getBits v 5 4 ≠ s.get TRL.ID_ADDR →
      (¬ (s.tl (getBits v 2 3) = tlUP ∧ s.get (TRL.LN_STAT_PEER_ADDR (getBits v 2 3)) = getBits v 5 4) →
        exec (.stlEnable v) s = .next (s.refuse STL.page 0x40 stMLANE)) ∧
      (s.tl (getBits v 2 3) = tlUP → s.get (TRL.LN_STAT_PEER_ADDR (getBits v 2 3)) = getBits v 5 4 →
        (s.get STL.BUDGET_BUDGET < s.mlUsed → exec (.stlEnable v) s = .next (s.refuse STL.page 0x40 stBUDGET)) ∧
        (s.mlUsed ≤ s.get STL.BUDGET_BUDGET → s.on STL.STAT_PARTNER_HELD = false → s.nbrOf (getBits v 2 3) = none →
          ∃ t, exec (.stlEnable v) s = .next t ∧ t.get STL.CFG_EN = 1 ∧ t.get STL.CFG_PARTNER = getBits v 5 4 ∧
            t.get STL.STAT_STATE = stlALONE ∧
            (getBits v 1 1 = 1 → t.get STL.STAT_OWN_HELD = 1 ∧ t.stl.claim = some (s.now, true, s.pidx)) ∧
            (getBits v 1 1 = 0 → t.get STL.STAT_OWN_HELD = 0 ∧ t.stl.claim = none))))) ∧
  ((∀ (r : Nat) (s : State), s.on STL.CFG_EN = true → s.on STL.STAT_OWN_HELD = true → s.on STL.STAT_PARTNER_HELD = false →
    s.on STL.STAT_DRIVE = false → s.stl.relSince = some r →
    exec .driveAcquire s = .next ((s.advance (if s.stl.claim.isSome then max (r + 100 * tNs) (s.stl.ownAt + 200 * tNs)
      else r + 100 * tNs)).set STL.STAT_DRIVE 1)) ∧
  (∀ s : State, s.on STL.CFG_EN = true → (s.on STL.STAT_OWN_HELD = false ∨ s.on STL.STAT_PARTNER_HELD = true) →
    exec .driveAcquire s = .next s) ∧
  (∀ s : State, s.get STL.STAT_STATE = stlSTANDBY ∨ s.get STL.STAT_STATE = stlRETURN → s.on STL.STAT_OWN_HELD = false →
    ∃ t, exec .partnerRelease s = .next t ∧ t.get STL.STAT_OWN_HELD = 1 ∧ t.get STL.STAT_PARTNER_HELD = 0 ∧
      t.stl.ownAt = s.now ∧ (∃ c, t.stl.claim = some (s.now, false, c)) ∧ t.get STL.STAT_STATE = s.get STL.STAT_STATE) ∧
  (∀ s : State, s.get STL.STAT_STATE = stlSYNCING → s.on STL.CFG_PREF = false → ∃ t, exec .partnerRelease s = .next t ∧
    t.stl.claim = s.stl.claim ∧ t.get STL.STAT_OWN_HELD = s.get STL.STAT_OWN_HELD) ∧
  (∀ s : State, s.on STL.STAT_OWN_HELD = true → s.now ≤ s.stl.ownAt + 200 * tNs →
    ∃ t, exec .partnerAssert s = .next t ∧ t.get STL.STAT_DRIVE = 0 ∧ t.get STL.STAT_PARTNER_HELD = 1 ∧ t.raised STL.page 5 ∧
      t.get STL.STAT_OWN_HELD = (if s.on STL.CFG_PREF then 1 else 0)) ∧
  (∀ s : State, s.on STL.STAT_OWN_HELD = true → s.stl.ownAt + 200 * tNs < s.now →
    ∃ t, exec .partnerAssert s = .next t ∧ t.get STL.STAT_DRIVE = 0 ∧ t.get STL.STAT_OWN_HELD = 1)) ∧
  ((∀ s : State, s.takes STL.page → exec .stlKeep s = .next (s.modStl (fun x => { x with keepN := 0 }))) ∧
  (∀ s : State, s.get STL.TMO_KEEP_TMO ≠ 0 → s.get STL.TMO_KEEP_TMO ≤ s.stl.keepN → s.on STL.STAT_OWN_HELD = true →
    ∃ t, exec .keepTimeout s = .next t ∧ t.stl.rel = some (5, if s.window = 4 then s.pidx + 1 else s.pidx)) ∧
  (∀ s : State, s.get STL.TMO_KEEP_TMO = 0 ∨ s.stl.keepN < s.get STL.TMO_KEEP_TMO → exec .keepTimeout s = .next s) ∧
  (∀ s : State, s.takes STL.page → s.get STL.STAT_STATE = stlACTIVE →
    (s.partnerIn [stlSTANDBY, stlRETURN] = true → s.stl.rel = none → ∃ t, exec .stlHandover s = .next t ∧
      t.stl.agreed = some (s.pidx + 2) ∧ t.stl.agreedFor = 6 ∧ t.stl.rel = some (6, s.pidx + 2)) ∧
    (s.partnerIn [stlSTANDBY, stlRETURN] = false → exec .stlHandover s = .next (s.refuse STL.page 0x58 stPARTNER))) ∧
  (∀ s : State, s.takes STL.page → s.get STL.STAT_STATE = stlRETURN → s.on STL.CFG_AUTO_RET = true →
    (∃ t, exec .stlReturnNow s = .next t ∧ t.stl.holdEnd = some s.now ∧ t.get STL.RET_HOLD_LEFT = 0 ∧
      t.stl.agreed = some (s.pidx + 2)) ∧
    ∀ e, s.stl.holdEnd = some e → ∃ t, exec .holdoffExpiry s = .next t ∧ e ≤ t.now ∧ t.get STL.RET_HOLD_LEFT = 0 ∧
      t.stl.agreed = some (s.pidx + 2)) ∧
  (∀ s : State, s.takes STL.page → s.get STL.STAT_STATE ≠ stlRETURN →
    exec .stlReturnNow s = .next (s.refuse STL.page 0x58 stSTATE)) ∧
  (∀ s : State, s.takes STL.page → s.get STL.STAT_STATE = stlSTANDBY → exec .stlHandover s
    = .next (s.modStl (fun x => { x with agreed := some (s.pidx + 2), agreedFor := 6 }))) ∧
  (∀ s : State, s.get STL.STAT_STATE = stlACTIVE → s.stl.agreed = some s.pidx → s.on STL.STAT_OWN_HELD = true →
    s.stl.rel.map (·.1) ≠ some 5 → 6 ≤ s.stl.agreedFor →
    ∃ t, exec .handback s = .next t ∧ t.get STL.STAT_OWN_HELD = 0 ∧ t.get STL.STAT_DRIVE = 0 ∧
      t.get STL.STAT_STATE = stlSTANDBY ∧ t.raised STL.page 1 ∧ t.raised STL.page 2 ∧ t.stl.gave = true ∧
      (s.on STL.CFG_EN = true → s.nbrOnly = false → t.stl.report = some s.stl.agreedFor)) ∧
  (∀ (p : Nat) (s : State), s.stl.agreed = some p → s.stl.gave = true → s.pidx = p + 1 → s.on STL.STAT_PARTNER_HELD = false →
    ∃ t, exec .handoverReclaim s = .next t ∧ t.get STL.STAT_OWN_HELD = 1 ∧ t.stl.claim = some (s.now, false, p + 1) ∧
      t.stl.gave = false ∧ t.stl.last = none) ∧
  (∀ (k : Fin 3) (v : Nat) (s : State), s.on STL.CFG_EN = false ∨ s.nbrOnly = true → exec (.managementMessageRx k v) s = .next s) ∧
  (∀ (v : Nat) (s : State), s.on STL.CFG_EN = true → s.nbrOnly = false →
    (s.get STL.STAT_STATE ≠ stlACTIVE → (s.stl.late = false ∨ v % 8 ≠ 4) →
      exec (.managementMessageRx 0 v) s = .next (s.modStl (fun x => { x with told := v % 8 }))) ∧
    (s.get STL.STAT_STATE = stlACTIVE → s.get STL.SWO_CAUSE = 0 → (s.stl.late = false ∨ v % 8 ≠ 4) →
      exec (.managementMessageRx 0 v) s = .next (s.set STL.SWO_CAUSE (v % 8))) ∧
    (∀ (t0 p : Nat) (cold : Bool), s.stl.late = true → v % 8 = 4 → s.get STL.STAT_STATE ≠ stlACTIVE → s.stl.claim = some (t0, cold, p) →
      exec (.managementMessageRx 0 v) s = .next (s.modStl (fun x =>
        { x with late := false, claim := some (t0, cold, p - 1), told := 4 }))) ∧
    exec (.managementMessageRx 1 v) s = .next (s.modStl (fun x => { x with agreed := some v, agreedFor := 7 })) ∧
    exec (.managementMessageRx 2 v) s = .next (s.modStl (fun x => { x with agreed := some v, agreedFor := 6 }))))

/-- R332–R335: with DRIVE held the claiming module becomes ACTIVE at the first boundary at least 400 ns after the
release was seen; SWO records cause, gap and boundary; a takeover raises TAKEOVER, a cold claim sets every enabled
stack to IDLE. A module with PREF = 0 claims cold once the line has read released for START_TMO; a partner whose
line stays asserted without sets is STUCK. R330, R331, R332: a set complete before the close of the uplink window of
the next period is written into the records at once and makes a SYNCING, ARMED module with equal program CRCs
STANDBY; a later one is discarded, and counted once, at the close that misses it or, where the partner's line is
released, when it comes. SYNC is lost after 8 periods without one, with MLANE down or the stage disarmed; three
unequal digests in a row set CFG_DIFF. -/
def Obligations.SettleTakeoverAndMirror : Prop :=
  ((∀ (t0 c : Nat) (cold : Bool) (s : State), s.stl.claim = some (t0, cold, c) →
    (s.bndAt < t0 + 400 * tNs ∨ s.on STL.STAT_DRIVE = false → exec .settleActivate s = .next s) ∧
    (t0 + 400 * tNs ≤ s.bndAt → s.on STL.STAT_DRIVE = true → s.on STL.CFG_EN = true → s.prefClash = false →
      ∃ t, exec .settleActivate s = .next t ∧ t.get STL.STAT_STATE = stlACTIVE ∧ t.stl.claim = none ∧ t.stl.last = none ∧
        t.get STL.SWO_CAUSE = (if cold then 8 else s.stl.told % 16) ∧ t.get STL.SWO_GAP = min 3 (s.pidx - c) ∧
        t.get STL.SWO_PIDX = s.pidx % 16777216 ∧ (cold = false → t.raised STL.page 0) ∧
        (cold = true → ∀ k : Fin 8, s.on (GRN.STK_CFG_EN k) = true → t.get (GRN.STK_STAT_STATE k) = skIDLE))) ∧
  (∀ s : State, s.stl.claim = none → exec .settleActivate s = .next s) ∧
  (∀ (r : Nat) (s : State), s.stl.relSince = some r → s.on STL.CFG_EN = true → s.on STL.CFG_PREF = false →
    s.get STL.STAT_STATE = stlALONE → s.on STL.STAT_PARTNER_HELD = false → s.stl.claim = none →
    ∃ t, exec .startTimeout s = .next t ∧ r + s.get STL.TMO_START_TMO * tS ≤ t.now ∧ t.get STL.STAT_OWN_HELD = 1 ∧
      t.stl.claim = some (t.now, true, s.pidx)) ∧
  (∀ s : State, s.get STL.STAT_STATE = stlSTANDBY → s.on STL.STAT_PARTNER_HELD = true →
    exec .partnerStuck s = .next ((s.advance (s.stl.lastAt + s.get STL.TMO_START_TMO * tS)).irq STL.page 8)) ∧
  (∀ s : State, s.get STL.STAT_STATE = stlACTIVE → exec .partnerStuck s = .next s) ∧
  (∀ (m : MirrorSet) (s : State), s.latches.isEmpty = true → m.latches = 0 → m.flags = 0 →
    (s.mirrorTrips m).latches = s.latches ∧ (s.mirrorTrips m).get TRP.FIRST_SRC = s.get TRP.FIRST_SRC)) ∧
  ((∀ (m : MirrorSet) (s : State), s.on STL.CFG_EN = true → s.mlaneUp = true → s.nbrOnly = false → s.get STL.STAT_STATE = stlSYNCING →
    (m.pidx = s.pidx ∨ m.pidx + 1 = s.pidx ∧ s.window = 0) → s.armed = true → s.mlist = [] → m.crcs = [] → m.cells = [] →
    m.stks = [] →
    ∃ t, exec (.mirrorRx m) s = .next t ∧ t.get STL.STAT_STATE = stlSTANDBY ∧ t.raised STL.page 2 ∧ t.stl.last = some m ∧
      t.stl.miss = 0 ∧ t.get STL.STAT_SET_AGE = s.pidx - m.pidx) ∧
  (∀ (m : MirrorSet) (s : State), s.on STL.CFG_EN = true → s.mlaneUp = true → s.nbrOnly = false → s.get STL.STAT_STATE = stlSTANDBY →
    (m.pidx + 1 < s.pidx ∨ m.pidx + 1 = s.pidx ∧ s.window ≠ 0) →
    (s.get STL.STAT_PARTNER_HELD = 0 → exec (.mirrorRx m) s = .next (s.bump STL.MISS_CNT_CNT)) ∧
    (s.get STL.STAT_PARTNER_HELD = 1 → exec (.mirrorRx m) s = .next s)) ∧
  (∀ s : State, s.on STL.CFG_EN = true → s.get STL.STAT_STATE = stlSTANDBY → s.get STL.STAT_PARTNER_HELD = 1 →
    (s.stl.got = true → s.stlUplClose = s.modStl (fun x => { x with got := false })) ∧
    (s.stl.got = false → s.stlUplClose.stl.miss = s.stl.miss + 1 ∧
      s.stlUplClose.get STL.MISS_CNT_CNT = min 65535 (s.get STL.MISS_CNT_CNT + 1))) ∧
  (∀ (m : MirrorSet) (s : State), s.get STL.STAT_STATE = stlACTIVE → exec (.mirrorRx m) s = .next s) ∧
  (∀ (m : MirrorSet) (s : State) (n : Fin 48) (c : MirCell), s.mlist = [] → m.stks = [] → m.cells[n.val]? = some c →
    ((s.mirrorApply m).cell n).role = c.role ∧ ((s.mirrorApply m).cell n).dwell = c.dwell ∧
    ((s.mirrorApply m).dsv n).phiPrev = c.phiPrev) ∧
  (∀ s : State, s.get STL.STAT_STATE = stlSTANDBY →
    (8 ≤ s.stl.miss ∨ s.mlaneUp = false ∨ s.armed = false → ∃ t, exec .syncLost s = .next t ∧
      t.get STL.STAT_STATE = stlSYNCING ∧ t.raised STL.page 3 ∧ t.get STL.RET_RET_OK = 0) ∧
    (s.stl.miss < 8 → s.mlaneUp = true → s.armed = true → exec .syncLost s = .next s)) ∧
  (∀ (d : Word) (s : State), s.on STL.CFG_EN = true → s.nbrOnly = false →
    (d ≠ s.cfgDigest → s.stl.diff = 2 → ∃ t, exec (.cfgDigest d) s = .next t ∧ t.get STL.STAT_CFG_DIFF = 1 ∧ t.raised STL.page 6 ∧
      t.get STL.STAT_STATE = s.get STL.STAT_STATE) ∧
    (d ≠ s.cfgDigest → s.stl.diff < 2 → exec (.cfgDigest d) s = .next (s.modStl (fun x => { x with diff := s.stl.diff + 1 }))) ∧
    (d = s.cfgDigest → ∃ t, exec (.cfgDigest d) s = .next t ∧ t.stl.diff = 0 ∧ t.get STL.STAT_CFG_DIFF = 0)))

/-! ### Safety functions and the Evisafe layer (R342–R372) -/

/-- R344, R346, R347: with FILT = 0 a level counts at once; a pair whose channels disagree is in demand at once,
DISC_EVT counts and is raised; a disagreement that has reached T_D ticks latches a lock-out with cause DISC. A
sample comes every 0.25 ms and shows levels and readbacks. R342, R348, R349, R352, R355, R356: in each safety cycle
a function whose demand holds is in DEMAND, one whose demand has ended goes to RUN (AUTO) or READY (MANUAL); a lock-
out keeps the first cause, takes every output off and demands STO; ARM_OK reads 1 only without STO demand. R343,
R362: the check value of the CRC, and a set whose MAGIC, format, length or CRC is wrong is refused: the cores run
locked out with cause SPS, every function OFF and the registers of a set reading 0. -/
def Obligations.SafetyInputsAndFunctions : Prop :=
  ((∀ (a b : BitVec 8 × BitVec 8) (srst : Bool) (s : State), s.saf.stopped = false → s.saf.checked = true →
    s.saf.tp = List.replicate 4 none →
    ∃ t, exec (.safetySample a b (BitVec.ofNat 4 (s.get SAF.SO_STAT_CMD_A)) (BitVec.ofNat 4 (s.get SAF.SO_STAT_CMD_B)) srst) s
        = .next t ∧ t.saf.sampAt = max s.now (s.saf.sampAt + 250 * tUs) ∧ t.saf.sm0.rawA = a.1.toNat ∧ t.saf.sm0.rawB = b.1.toNat ∧
      t.saf.sm1.rawA = a.2.toNat ∧ t.saf.sm1.rawB = b.2.toNat ∧
      t.get SAF.SO_STAT_RB_A = s.get SAF.SO_STAT_CMD_A ∧ t.get SAF.SO_STAT_RB_B = s.get SAF.SO_STAT_CMD_B ∧
      t.get SAF.SRST_LEVEL = (if srst then 1 else 0) ∧ t.get SAF.STAT_LOCKOUT = s.get SAF.STAT_LOCKOUT) ∧
  (∀ (i : Fin 8) (k : Bool) (a b : Nat) (s : State), s.get (SAF.SICFG_TYPE i) ≠ 0 → s.get (SAF.SICFG_FILT i) = 0 →
    (s.core k).disc.length = 8 →
    (a.testBit i = s.runLevel i false → b.testBit i = s.runLevel i true → (s.safPair k a b i).inRunAt k i = true ∧
      ((s.safPair k a b i).core k).disc.getD i none = none) ∧
    (a.testBit i = s.runLevel i false → b.testBit i ≠ s.runLevel i true → (s.core k).disc.getD i none = none →
      (s.safPair k a b i).inRunAt k i = false ∧ ((s.safPair k a b i).core k).disc.getD i none = some 0) ∧
    (s.safPair k a b i).core (!k) = s.core (!k)) ∧
  (∀ (i : Fin 8) (old : List (Option Nat)) (s : State),
    (∀ j : Fin 8, j ≠ i → (s.disc j).isSome = (old.getD j none).isSome) → old.getD i none = none →
    ((s.disc i).isSome = true → s.discNote old = (s.bump SAF.CNT_DISC_EVT).irq SAF.page 2) ∧
    (s.disc i = none → s.discNote old = s)) ∧
  (∀ (i : Fin 8) (n : Nat) (s : State), s.disc i = some n →
    (s.get (SAF.SICFG_T_D i) ≤ n → s.saf.stopped = false → exec (.discFault i) s = .next (s.safLock lkDISC i)) ∧
    (n < s.get (SAF.SICFG_T_D i) → exec (.discFault i) s = .next s)) ∧
  (∀ (i : Fin 8) (s : State), s.disc i = none → exec (.discFault i) s = .next s)) ∧
  ((∀ s : State, s.saf.stopped = false → s.saf.checked = true → s.saf.sm0 = s.saf.sm1 →
    s.get SAF.SO_STAT_CMD_A = s.get SAF.SO_STAT_CMD_B →
    ∃ t, exec (.safetyCycle 0 false) s = .next t ∧ t.saf.cycAt = max s.now (s.saf.cycAt + tMs) ∧ t.saf.cycled = true ∧
      t.saf.sm0 = t.saf.sm1 ∧ t.saf.xcmp = List.replicate 20 0 ∧ t.get SAF.STAT_MBR_IN = s.get MCX.STAT_MBR_REQ ∧
      t.get SAF.STAT_LOCKOUT = s.get SAF.STAT_LOCKOUT) ∧
  (∀ s : State, s.saf.stopped = false → s.saf.checked = true → s.on SAF.STAT_LOCKOUT = false →
    (s.saf.xcmp.getD 0 0 = 2 → ∃ t, exec (.safetyCycle 1 false) s = .next t ∧ t.get SAF.STAT_LOCKOUT = 1 ∧
      t.get SAF.LOCK_CAUSE = lkXCMP ∧ t.get SAF.STAT_STO = 1 ∧ t.get SAF.STAT_ARM_OK = 0) ∧
    ∃ t, exec (.safetyCycle 0 true) s = .next t ∧ t.get SAF.STAT_LOCKOUT = 1 ∧ t.get SAF.LOCK_CAUSE = lkCORE ∧
      t.get SAF.STAT_RUN = 0 ∧ t.get SAF.STAT_STO = 1) ∧
  (∀ (d : BitVec 20) (bad : Bool) (s : State), s.saf.stopped = true → exec (.safetyCycle d bad) s = .next s) ∧
  (∀ (k : Bool) (f : Fin 8) (s : State), s.get (SAF.FN_W0_TYPE f) ≠ 0 → s.get (SAF.FN_W0_TYPE f) ≠ 3 → (s.core k).fn.length = 8 →
    (s.fnDemand k f = true → (s.fnStep k f).fnAt k f = 1 ∧
      (s.fnAt k f = 3 → (s.fnStep k f).raised SAF.page 0)) ∧
    (s.fnDemand k f = false → s.fnAt k f = 1 → (s.fnStep k f).fnAt k f = (if s.on (SAF.FN_W0_RESTART f) then 2 else 3)) ∧
    (s.fnDemand k f = false → s.fnAt k f ≠ 1 → s.fnStep k f = s) ∧ (s.fnStep k f).core (!k) = s.core (!k)) ∧
  (∀ (c i : Nat) (s : State), c < 32 → i < 16 → (s.safLock c i).get SAF.STAT_LOCKOUT = 1 ∧
    (s.safLock c i).get SAF.SO_STAT_CMD_A = 0 ∧ (s.safLock c i).get SAF.SO_STAT_CMD_B = 0 ∧
    (s.safLock c i).get SAF.STAT_STO = 1 ∧ (s.safLock c i).get SAF.STAT_ARM_OK = 0 ∧
    (s.on SAF.STAT_LOCKOUT = false → (s.safLock c i).get SAF.LOCK_CAUSE = c ∧ (s.safLock c i).get SAF.LOCK_INDEX = i ∧
      (s.safLock c i).raised SAF.page 1) ∧
    (s.on SAF.STAT_LOCKOUT = true → (s.safLock c i).get SAF.LOCK_CAUSE = s.get SAF.LOCK_CAUSE)) ∧
  (∀ s : State, (s.stoUpdate.get SAF.STAT_ARM_OK = 1 ↔
      s.on SAF.STAT_RUN = true ∧ s.on SAF.STAT_SPS_OK = true ∧ s.stoDemand = false ∧ s.saf.cycled = true) ∧
    (s.stoUpdate.get SAF.STAT_STO = 1 ↔ s.stoDemand = true ∨ s.saf.cycled = false)) ∧
  (∀ (o : Fin 4) (k : Bool) (s : State), s.get (SAF.SOCFG_MODE o) = 1 → (s.core k).offT = List.replicate 8 none →
    ((s.soWanted k).testBit o = true ↔ s.on SAF.STAT_LOCKOUT = false ∧ s.on SAF.STAT_SPS_OK = true ∧
      (∃ f : Fin 8, (s.get (SAF.FN_W0_SO f)).testBit o = true) ∧
      ∀ f : Fin 8, (s.get (SAF.FN_W0_SO f)).testBit o = true → s.fnAt k f = 3))) ∧
  (crcSafe [0x31, 0x32, 0x33, 0x34, 0x35, 0x36, 0x37, 0x38, 0x39] = 0x1697D06A ∧
  (∀ b : List Byte, leNat b 0 4 ≠ 0x53505345 ∨ leNat b 4 2 ≠ 1 ∨ leNat b 6 2 ≠ 80 ∨ leNat b 336 4 ≠ crcSafe (b.take 336) →
    spsOk b = false) ∧
  (∀ s : State, s.saf.checked = false → spsOk (s.norBytes 0x2000000 340) = false → s.on SAF.STAT_LOCKOUT = false →
    s.safBoot.get SAF.STAT_LOCKOUT = 1 ∧ s.safBoot.get SAF.LOCK_CAUSE = lkSPS ∧ s.safBoot.saf.checked = true ∧
    s.safBoot.get SAF.STAT_RUN = 1 ∧ s.safBoot.get SAF.STAT_SPS_OK = 0 ∧ (∀ j, j < 80 → s.safBoot.reg (0x40800100 + 4 * j) = 0) ∧
    ∀ f : Fin 8, s.safBoot.fn f = 0) ∧
  (∀ s : State, s.saf.checked = true → s.safBoot = s))

/-- R345, R353, R354, R357: a test pulse of a channel that is on takes TP_W and falls due again 200 ms later; a wrong
readback latches TP, a missing or crossed pulse CROSS. A release of SRST held 50 to 2,000 ms clears a lock-out in
the safe idle state, or restarts the functions in READY where no disagreement runs; other presses are bad.
R360–R366: an enabled connection opens 1 s after power-up or a failure, sends OPEN or DATA every TX_INT, reads its
slots in turn, discards and counts what is not valid, takes safe bits from valid DATA (all 0 with FS), and fails
when TEXP passes without one or ESEQ names no recent PDU. -/
def Obligations.TestPulsesResetAndEvisafe : Prop :=
  ((∀ (o : Fin 4) (b : Bool) (s : State), s.saf.stopped = false → s.soCmd o b = true → s.saf.tp = List.replicate 4 none →
    s.saf.tpDue.length = 8 → ∃ t, exec (.testPulseStart o b) s = .next t ∧ t.saf.tp.getD o none = some b ∧
      t.now = max s.now (s.saf.tpDue.getD (2 * o + b.toNat) 0) ∧ t.saf.tpDue.getD (2 * o + b.toNat) 0 = t.now + 200 * tMs ∧
      (t.get SAF.SO_STAT_TP_ACT).testBit o = true) ∧
  (∀ (o : Fin 4) (b : Bool) (s : State), s.soCmd o b = false → exec (.testPulseStart o b) s = .next s) ∧
  (∀ (o : Fin 4) (b : Bool) (x y : BitVec 8) (s : State), s.saf.tp.getD o none ≠ some b →
    exec (.testPulseEnd o b true true x y) s = .next s) ∧
  (∀ (o : Fin 4) (b : Bool) (s : State), s.saf.tp.getD o none = some b → s.saf.tp.length = 4 →
    (∀ i : Fin 8, s.get (SAF.SICFG_TPSRC i) ≠ o.val + 1) →
    (∃ t, exec (.testPulseEnd o b true true 0 0) s = .next t ∧ t.saf.tp.getD o none = none ∧
      t.now = max s.now (s.saf.tpDue.getD (2 * o + b.toNat) 0 - 200 * tMs + s.get (SAF.SOCFG_TP_W o) * 10 * tUs) ∧ (t.get SAF.SO_STAT_TP_ACT).testBit o = false ∧
      t.get SAF.STAT_LOCKOUT = s.get SAF.STAT_LOCKOUT ∧ t.get SAF.SO_STAT_CMD_A = s.get SAF.SO_STAT_CMD_A) ∧
    (s.on SAF.STAT_LOCKOUT = false → ∃ t, exec (.testPulseEnd o b false true 0 0) s = .next t ∧
      t.get SAF.LOCK_CAUSE = lkTP ∧ t.get SAF.LOCK_INDEX = o ∧ t.get SAF.SO_STAT_CMD_A = 0)) ∧
  (∀ (q : Nat) (s : State), s.saf.stopped = false → s.saf.checked = true → s.saf.srstHeld = false → q < 200 ∨ 8000 < q →
    ∃ t, exec (.srstEdge q true) s = .next t ∧ t.get SAF.SRST_SRST_BAD = 1 ∧ t.raised SAF.page 4 ∧
      t.get SAF.STAT_LOCKOUT = s.get SAF.STAT_LOCKOUT ∧ ∀ f : Fin 8, t.fn f = s.fn f) ∧
  (∀ (q : Nat) (s : State), s.saf.stopped = false → s.saf.checked = true → s.saf.srstHeld = false → 200 ≤ q → q ≤ 8000 →
    s.on SAF.STAT_LOCKOUT = true →
    (s.safIdle = false ∨ s.lockHolds = true → ∃ t, exec (.srstEdge q true) s = .next t ∧ t.get SAF.STAT_LOCKOUT = 1 ∧
      t.get SAF.SRST_RST_REFUSED = 1 ∧ t.raised SAF.page 3) ∧
    (s.safIdle = true → s.lockHolds = false → ∃ t, exec (.srstEdge q true) s = .next t ∧ t.get SAF.STAT_LOCKOUT = 0 ∧
      t.get SAF.LOCK_CAUSE = 0)) ∧
  (∀ (q : Nat) (s : State), s.saf.stopped = false → s.saf.checked = true → s.saf.srstHeld = false → 200 ≤ q →
    q ≤ 8000 → s.on SAF.STAT_LOCKOUT = false →
    (∀ i : Fin 8, (s.disc i).isSome = true → ∃ t, exec (.srstEdge q true) s = .next t ∧ t.get SAF.SRST_RST_REFUSED = 1 ∧
      t.raised SAF.page 3 ∧ t.saf = s.saf) ∧
    (∀ f : Fin 8, (∀ i, i < 8 → s.disc i = none) → (∀ k, (s.core k).fn.length = 8 ∧ s.fnAt k f = 2 ∧ s.fnDemand k f = false) →
      ∃ t, exec (.srstEdge q true) s = .next t ∧ t.fn f = 3 ∧ t.get SAF.SRST_RST_REFUSED = 0))) ∧
  ((∀ (k : Fin 16) (s : State), s.saf.stopped = false → s.on (SAF.ESC_W1_EN k) = true → ((s.escOf k).st = 0 ∨ (s.escOf k).st = 3) →
    ∃ t, exec (.evisafeReopen k) s = .next t ∧ (t.escOf k).st = 1 ∧ (t.escOf k).seq = 1 ∧
      t.now = max s.now ((s.escOf k).since + tS) ∧ (t.get SAF.ESC_RUN_FAILED).testBit k = false) ∧
  (∀ (k : Fin 16) (s : State), s.saf.stopped = false → s.on (SAF.ESC_W1_EN k) = true → ((s.escOf k).st = 1 ∨ (s.escOf k).st = 2) →
    exec (.evisafeTx k) s = .next ((s.advance ((s.escOf k).txAt + s.get (SAF.ESC_W1_TX_INT k) * tMs)).escSend k)) ∧
  (∀ (k : Fin 16) (s : State), ((s.escOf k).st = 0 ∨ (s.escOf k).st = 3) → exec (.evisafeTx k) s = .next s) ∧
  (∀ (k : Fin 16) (s : State), s.ringIdx 0 = none ∨ s.ringIdx 4 = none ∨ (s.ringIdx 0).map (fun w => (w + 1) % 32) = s.ringIdx 4 →
    (s.escSend k).mem = s.mem ∧ (s.escSend k).get SAF.RING_DROP_TX_DROP = min 65535 (s.get SAF.RING_DROP_TX_DROP + 1)) ∧
  (∀ (s : State) (wr rd : Nat), s.saf.stopped = false → s.on SAF.STAT_SPS_OK = true → s.ringIdx 8 = some wr → s.ringIdx 12 = some rd →
    (wr = rd → exec .evisafeRx s = .next s) ∧
    (∀ bs, wr ≠ rd → s.ramRead (s.ringBase + 0x1000 + 128 * rd) 128 = some bs →
      exec .evisafeRx s = .next ((s.unitWrite (s.ringBase + 0x200C) (leBytes 4 ((rd + 1) % 32))).escRxPdu
        (leNat bs 0 1) ((bs.drop 4).take (min 124 (leNat bs 1 1))))) ∧
    (wr ≠ rd → s.ramRead (s.ringBase + 0x1000 + 128 * rd) 128 = none →
      exec .evisafeRx s = .next (s.unitWrite (s.ringBase + 0x200C) (leBytes 4 ((rd + 1) % 32))).escDiscard)) ∧
  (∀ (c : Nat) (p : List Byte) (s : State), leNat p (p.length - 4) 4 ≠ crcSafe (p.take (p.length - 4)) ∨ 16 ≤ c →
    s.escRxPdu c p = s.escDiscard) ∧
  (∀ (c : Fin 16) (v st q e b : Nat) (s : State),
    (v ≠ 2 ∨ (∃ i, (e, i) ∈ (s.escOf c).sent ∧ s.now ≤ i + s.get (SAF.ESC_W1_TEXP c) * tMs) →
      ((s.escData c v st q e b).escOf c).st = 2 ∧ ((s.escData c v st q e b).escOf c).peer = some q ∧
      ((s.escData c v st q e b).escOf c).lastAt = s.now ∧
      ((s.escData c v st q e b).escOf c).bits = (if st.testBit 1 then 0 else b)) ∧
    (v = 2 → (s.escOf c).sent = [] → ((s.escData c v st q e b).escOf c).st = 3 ∧ ((s.escData c v st q e b).escOf c).bits = 0 ∧
      (s.escData c v st q e b).raised SAF.page 5)) ∧
  (∀ (k : Fin 16) (s : State), s.saf.stopped = false → (s.escOf k).st = 2 →
    s.ringIdx 8 = s.ringIdx 12 →
    ∃ t, exec (.evisafeTexp k) s = .next t ∧ t.now = max s.now ((s.escOf k).lastAt + s.get (SAF.ESC_W1_TEXP k) * tMs) ∧
      (t.escOf k).st = 3 ∧ t.raised SAF.page 5 ∧ t.get SAF.ESC_CNT_EXPIRED = min 65535 (s.get SAF.ESC_CNT_EXPIRED + 1)) ∧
  (∀ (k : Fin 16) (s : State), (s.escOf k).st ≠ 2 → exec (.evisafeTexp k) s = .next s) ∧
  (∀ l q w : Nat, 1 ≤ l → l ≤ 65535 → w ≤ 15 → q ≤ 65535 → (seqAhead l q w = true ↔
    1 ≤ q ∧ ∃ d, 1 ≤ d ∧ d ≤ w ∧ q = (l - 1 + d) % 65535 + 1)))

/-! ### CAN and Ethernet (R373–R399) -/

/-- R374, R387: setting CTRL.EN is refused for rates above 1 and 8 Mbit/s, a jump width above its segment, a fast data
phase without TDC or a DMA channel owned elsewhere; else the controller takes its role and opens the gate. Clearing
it aborts every queued entry. R378–R380: a push reads the slot at TAIL and queues it, a 33rd is refused; an abort at
or after SOF marks the entry late, where the head entry may have begun, and removes it at once before; a completion
frees the slot, raises TXDONE and, if late, CANCEL_LATE; no attempt begins in bus-off, in listen-only mode or while
the gate is closed (R373, R383, R386). -/
def Obligations.CanEnableAndTransmit : Prop :=
  ((∀ (k : Fin 4) (s : State), s.takes (CAN.page k) → s.canOn k = false →
    ((s.canConds k).all (fun c => !c.1) = true → s.claimable (resKey 3 (s.get (CAN.MODE_DMA_CH k))) 10 k = true →
      ∃ t, exec (.canEnable k) s = .next t ∧ t.canOn k = true ∧ t.get (CAN.TXQ_STAT_GATE k) = 1 ∧
        t.get (CAN.TT_STAT_ROLE k) = (if !s.on (CAN.MODE_TT k) then 0 else if s.on (CAN.MODE_TTM k) then 2 else 1) ∧
        (t.claim (resKey 3 (s.get (CAN.MODE_DMA_CH k)))).cls = 10 ∧ t.mem = s.mem) ∧
    ((s.get (CAN.NBT_NBRP k) + 1) * (3 + s.get (CAN.NBT_NTSEG1 k) + s.get (CAN.NBT_NTSEG2 k)) < 80 ∨
      (s.get (CAN.DBT_DBRP k) + 1) * (3 + s.get (CAN.DBT_DTSEG1 k) + s.get (CAN.DBT_DTSEG2 k)) < 10 ∨
      s.get (CAN.NBT_NTSEG2 k) < s.get (CAN.NBT_NSJW k) ∨ s.get (CAN.DBT_DTSEG2 k) < s.get (CAN.DBT_DSJW k) →
      exec (.canEnable k) s = .next (s.refuse (CAN.page k) 0x0C eRANGE))) ∧
  (∀ (k : Fin 4) (s : State), s.takes (CAN.page k) → s.canOn k = true →
    (∀ e ∈ (s.can k).txq, e.slot < 32 ∧ e.gone = false) → ∃ t, exec (.canDisable k) s = .next t ∧ t.canOn k = false ∧
      (t.can k).txq = [] ∧ t.get (CAN.TT_STAT_ROLE k) = 0 ∧ t.get (CAN.TXQ_STAT_BUSOFF_HELD k) = 0) ∧
  (∀ (k : Fin 4) (s : State), s.canOn k = false → exec (.canDisable k) s = .next s)) ∧
  ((∀ (k : Fin 4) (bs : List Byte) (s : State), s.takes (CAN.page k) → s.canOn k = true → (s.can k).txq.length < 32 →
    (∀ e ∈ (s.can k).txq, e.gone = false) →
    s.dmaRead (s.get (CAN.MODE_DMA_CH k)) (s.get (CAN.TXQ_BASE_ADDR k) * 64 + 80 * s.get (CAN.TXQ_STAT_TAIL k)) 80 = (some bs, s) →
    ∃ t, exec (.txqPush k) s = .next t ∧
      (t.can k).txq = (s.can k).txq ++ [⟨s.get (CAN.TXQ_STAT_TAIL k), false, bs, 0, false⟩] ∧
      t.get (CAN.TXQ_STAT_FILL k) = (s.can k).txq.length + 1 ∧
      t.get (CAN.TXQ_STAT_TAIL k) = (s.get (CAN.TXQ_STAT_TAIL k) + 1) % 32 ∧ t.mem = s.mem) ∧
  (∀ (k : Fin 4) (s : State), s.takes (CAN.page k) → 32 ≤ (s.can k).txq.length →
    exec (.txqPush k) s = .next (s.refuse (CAN.page k) 0x80 cQFULL)) ∧
  (∀ (k : Fin 4) (e : CanTx) (n : Fin 32) (s : State), s.takes (CAN.page k) → (s.can k).txq = [e] → e.slot = n.val →
    (s.canMay k s.now = true → exec (.txqAbort k (BitVec.ofNat 32 (1 <<< n.val)) true) s
      = .next (s.modCan k (fun x => { x with txq := [{ e with late := true }] }))) ∧
    ∀ sof : Bool, sof = false ∨ s.canMay k s.now = false → exec (.txqAbort k (BitVec.ofNat 32 (1 <<< n.val)) sof) s
      = .next ((s.set (CAN.TXQ_STAT_BUSOFF_HELD k) 0).canComplete k n txABORTED)) ∧
  (∀ (k : Fin 4) (e : CanTx) (st : Nat) (s : State), (s.can k).txq = [e] → e.gone = false →
    ((s.canComplete k e.slot st).can k).txq = [] ∧ (s.canComplete k e.slot st).get (CAN.TXQ_STAT_FILL k) = 0 ∧
    (s.canComplete k e.slot st).get (CAN.TXQ_STAT_HEAD k) = s.get (CAN.TXQ_STAT_TAIL k) ∧
    (s.canComplete k e.slot st).raised (CAN.page k) 3 ∧ (e.late = true → (s.canComplete k e.slot st).raised (CAN.page k) 4) ∧
    (s.canComplete k e.slot st).mem = (s.dmaWrite (s.get (CAN.MODE_DMA_CH k)) (s.get (CAN.TXQ_BASE_ADDR k) * 64 + 80 * e.slot + 8)
      (leBytes 4 e.ts ++ leBytes 4 (st + if e.late then 8 else 0))).2.mem) ∧
  (∀ (k : Fin 4) (e : CanTx) (s : State), (s.can k).txq = [e] → e.gone = false → s.canMay k s.now = true →
    s.on (CAN.MODE_LBK k) = false → (canFrameOf e.words).fdf = false →
    (∃ t, exec (.canTxDone k 0 0) s = .next t ∧ (t.can k).txq = [] ∧ t.raised (CAN.page k) 3 ∧
      t.get (CAN.ECR_TEC k) = s.get (CAN.ECR_TEC k) - 1) ∧
    (e.late = false → s.on (CAN.MODE_DAR k) = false → ∃ t, exec (.canTxDone k 1 0) s = .next t ∧
      (t.can k).txq = [{ e with ts := s.tsc k s.now }] ∧ t.regs = s.regs) ∧
    (e.late = true → ∃ t, exec (.canTxDone k 1 0) s = .next t ∧ (t.can k).txq = [] ∧ t.raised (CAN.page k) 4)) ∧
  (∀ (k : Fin 4) (r : Fin 3) (ago : Nat) (s : State), s.canMay k (s.now - ago * tCan) = false → exec (.canTxDone k r ago) s = .next s) ∧
  (∀ (k : Fin 4) (sof : Nat) (s : State), (s.get (CAN.ECR_STATE k) = 2 ∨ s.on (CAN.MODE_LOM k) = true ∨
      (s.get (CAN.TXQ_STAT_GATE k) = 0 ∧ (s.can k).gateAt ≤ sof) ∨ (∃ w ∈ (s.can k).shuts, w.1 ≤ sof ∧ sof < w.2)) →
    s.canMay k sof = false))

/-- R375–R377: the first enabled matching filter decides; a stored entry is counted and raised, a frame for a full queue
is dropped and counted, and memory keeps what it held; each bit of RXQ_ACK releases the entry at HEAD. R373, R382,
R383: a protocol exception is counted; a transmit error adds 8 to TEC, but for the two that leave it, and TEC above
255 takes the controller to bus-off with its head entry held; RESTART outside bus-off is refused, and after it and
128 recessive sequences the controller is error-active with both counts 0. R384–R386: a valid reference message
starts a cycle, opens the gate and sets SYNC; a lower identifier makes a master a backup; a master sends one at
CYC_LEN; without one for 2 × CYC_LEN SYNC clears and a backup resumes; a trigger acts at its MARK. -/
def Obligations.CanReceiveErrorsAndTime : Prop :=
  ((∀ (k : Fin 4) (f : CanFrame) (ago : Nat) (s : State),
    (s.canBus k = false → exec (.canFrameRx k f ago) s = .next s) ∧
    (s.canBus k = true → (s.can k).intAt ≤ s.now - ago * tCan →
      (f.fdf = true → s.on (CAN.MODE_FDOE k) = false →
        exec (.canFrameRx k f ago) s = .next (s.canErr k 2 .receiver false false)) ∧
      ((f.fdf = false ∨ s.on (CAN.MODE_FDOE k) = true) → (f.fdf = false ∨ f.brs = false ∨ s.on (CAN.MODE_BRSE k) = true) →
        exec (.canFrameRx k f ago) s = .next (((s.canRxGood k).canRx k f (s.now - ago * tCan)).canEnded k)))) ∧
  (∀ (c : Fin 4) (f : CanFrame) (i : Nat) (s : State), s.canFilter c f = some i → i < 32 ∧ s.on (CAN.FLT_ID_EN c i) = true ∧
    (f.id ^^^ s.get (CAN.FLT_ID_ID c i)) &&& s.get (CAN.FLT_MSK_MASK c i) = 0 ∧
    (s.on (CAN.FLT_MSK_XTD_M c i) = true → s.on (CAN.FLT_ID_XTD c i) = f.xtd) ∧
    ∀ j < i, s.on (CAN.FLT_ID_EN c j) = true → s.on (CAN.FLT_MSK_XTD_M c j) = false →
      (f.id ^^^ s.get (CAN.FLT_ID_ID c j)) &&& s.get (CAN.FLT_MSK_MASK c j) ≠ 0) ∧
  (∀ (c : Fin 4) (f : CanFrame) (sof i : Nat) (s : State),
    (s.canFilter c f = some i → s.canRx c f sof = if s.on (CAN.FLT_MSK_REJ c i) then s
      else s.canStore c (s.get (CAN.FLT_MSK_Q c i)) f i sof) ∧
    (s.canFilter c f = none → s.get (CAN.MODE_NOMATCH c) = 0 → s.canRx c f sof = s)) ∧
  (∀ (c : Fin 4) (q : Fin 2) (f : CanFrame) (i sof : Nat) (s u : State),
    (32 ≤ s.get (CAN.RXQ_STAT_FILL c q) → (s.canStore c q f i sof).mem = s.mem ∧
      (s.canStore c q f i sof).get (CAN.RXQ_STAT_DROP c q) = min 65535 (s.get (CAN.RXQ_STAT_DROP c q) + 1) ∧
      (s.canStore c q f i sof).raised (CAN.page c) 2 ∧
      (s.canStore c q f i sof).get (CAN.RXQ_STAT_FILL c q) = s.get (CAN.RXQ_STAT_FILL c q)) ∧
    (s.get (CAN.RXQ_STAT_FILL c q) < 32 → s.on (CAN.MODE_TT c) = false →
      s.dmaPut (s.get (CAN.MODE_DMA_CH c)) (s.get (if q.val = 0 then CAN.RXQ_BASE0_ADDR c else CAN.RXQ_BASE1_ADDR c) * 64
        + 80 * ((s.get (CAN.RXQ_STAT_HEAD c q) + s.get (CAN.RXQ_STAT_FILL c q)) % 32)) 8 (canEntry f i (s.tsc c sof) 0) = (true, u) →
      u.regs = s.regs → (u.can c).acked = none → (s.canStore c q f i sof).mem = u.mem ∧
        (s.canStore c q f i sof).get (CAN.RXQ_STAT_FILL c q) = s.get (CAN.RXQ_STAT_FILL c q) + 1 ∧
        (s.canStore c q f i sof).get (CAN.RXQ_STAT_HEAD c q) = s.get (CAN.RXQ_STAT_HEAD c q) ∧
        (s.canStore c q f i sof).raised (CAN.page c) q)) ∧
  (∀ (k : Fin 4) (q : Fin 2) (s : State), s.takes (CAN.page k) →
    (s.get (CAN.RXQ_STAT_FILL k q) = 0 →
      exec (.rxqAck k (BitVec.ofNat 32 (1 <<< q.val))) s = .next ((s.refuse (CAN.page k) 0x78 eSTATE).modCan k (fun x =>
        { x with acked := some (s.now / tBus, q.val, s.reg (HDR.ERR_CODE (CAN.page k))) }))) ∧
    (s.get (CAN.RXQ_STAT_FILL k q) ≠ 0 → (s.can k).dropped = none → ∃ t, exec (.rxqAck k (BitVec.ofNat 32 (1 <<< q.val))) s = .next t ∧
      t.get (CAN.RXQ_STAT_FILL k q) = s.get (CAN.RXQ_STAT_FILL k q) - 1 ∧
      t.get (CAN.RXQ_STAT_HEAD k q) = (s.get (CAN.RXQ_STAT_HEAD k q) + 1) % 32 ∧ t.sameRegsBut s [CAN.RXQ_STAT k q]))) ∧
  ((∀ (k : Fin 4) (s : State) (tx : CanSide) (big dat : Bool), s.canBus k = true → (s.can k).intAt ≤ s.now →
    ∃ t, exec (.canError k 0 tx big dat) s = .next t ∧ t.raised (CAN.page k) 8 ∧
      t.get (CAN.CNT_PXE k) = min 65535 (s.get (CAN.CNT_PXE k) + 1) ∧ t.get (CAN.ECR_TEC k) = s.get (CAN.ECR_TEC k) ∧
      (t.can k).intAt = s.now + 11 * s.canBit k) ∧
  (∀ (k : Fin 4) (kind : Fin 8) (s : State) (tx : CanSide) (big dat : Bool), s.canBus k = false ∨ s.now < (s.can k).intAt →
    exec (.canError k kind tx big dat) s = .next s) ∧
  (∀ (k : Fin 4) (kind : Fin 8) (s : State) (big : Bool), s.canBus k = true → (s.can k).intAt ≤ s.now → kind ≠ 0 →
    ((kind = 1 ∨ kind = 3 ∧ s.get (CAN.ECR_STATE k) = 1) →
      exec (.canError k kind (.reference true) big false) s = .next (s.set (CAN.ECR_LEC k) kind)) ∧
    (s.get (CAN.ECR_TEC k) ≤ 247 → ∃ t, exec (.canError k kind (.reference false) big false) s = .next t ∧ t.get (CAN.ECR_LEC k) = kind ∧
      t.get (CAN.ECR_TEC k) = s.get (CAN.ECR_TEC k) + 8 ∧
      t.get (CAN.ECR_STATE k) = (if 127 < s.get (CAN.ECR_TEC k) + 8 ∨ 127 < s.canRec k then 1 else 0) ∧
      (s.get (CAN.ECR_TEC k) < 96 → 96 ≤ s.get (CAN.ECR_TEC k) + 8 → t.raised (CAN.page k) 12)) ∧
    (247 < s.get (CAN.ECR_TEC k) → ∀ e, (s.can k).txq = [e] → e.late = false →
      ∃ t, exec (.canError k kind (.reference false) big false) s = .next t ∧ t.get (CAN.ECR_STATE k) = 2 ∧ t.raised (CAN.page k) 6 ∧
        t.get (CAN.TXQ_STAT_BUSOFF_HELD k) = 1 ∧ (t.can k).txq = [e])) ∧
  (∀ (k : Fin 4) (s : State), s.takes (CAN.page k) →
    (s.get (CAN.ECR_STATE k) < 2 → exec (.canRestart k) s = .next (s.refuse (CAN.page k) 0x50 eSTATE)) ∧
    (2 ≤ s.get (CAN.ECR_STATE k) → exec (.canRestart k) s = .next (s.set (CAN.ECR_STATE k) 3))) ∧
  (∀ (k : Fin 4) (s : State), s.get (CAN.ECR_STATE k) = 3 → s.canOn k = true → ∃ t, exec (.busoffRecovered k) s = .next t ∧
    t.get (CAN.ECR_STATE k) = 0 ∧ t.get (CAN.ECR_TEC k) = 0 ∧ t.canRec k = 0 ∧ t.get (CAN.TXQ_STAT_BUSOFF_HELD k) = 0 ∧
    t.raised (CAN.page k) 7) ∧
  (∀ (k : Fin 4) (s : State), s.get (CAN.ECR_STATE k) ≠ 3 → exec (.busoffRecovered k) s = .next s)) ∧
  ((∀ (k : Fin 4) (f : CanFrame) (s : State), s.canBus k = true → (s.can k).intAt ≤ s.now → s.on (CAN.MODE_TT k) = true → f.fdf = false → f.rtr = false →
    f.dlc ≠ 0 → f.xtd = s.on (CAN.TT_CFG_REF_XTD k) →
    (f.id = s.get (CAN.TT_CFG_REF_ID k) → ∃ t, exec (.ttReference k f 0) s = .next t ∧
      t.get (CAN.TT_STAT_CC k) = (f.data.getD 0 0).toNat % 64 ∧ t.get (CAN.TT_STAT_SYNC k) = 1 ∧ (t.can k).cycAt = s.now ∧
      t.get (CAN.TXQ_STAT_GATE k) = 1 ∧ t.raised (CAN.page k) 9 ∧ t.get (CAN.TT_STAT_ROLE k) = s.get (CAN.TT_STAT_ROLE k)) ∧
    (f.id < s.get (CAN.TT_CFG_REF_ID k) → s.on (CAN.MODE_TTM k) = true → ∃ t, exec (.ttReference k f 0) s = .next t ∧
      t.get (CAN.TT_STAT_ROLE k) = 3 ∧ t.get (CAN.TT_STAT_SYNC k) = 1) ∧
    (s.get (CAN.TT_CFG_REF_ID k) < f.id → exec (.ttReference k f 0) s = .next s)) ∧
  (∀ (k : Fin 4) (s : State), s.canBus k = true → s.on (CAN.MODE_LOM k) = false → s.get (CAN.TT_STAT_ROLE k) = 2 → ∃ t, exec (.ttMasterRef k) s = .next t ∧
    t.now = max s.now ((s.can k).cycAt + s.get (CAN.TT_CYC_CYC_LEN k) * s.canBit k) ∧ (t.can k).cycAt = t.now ∧
    t.get (CAN.TT_STAT_CC k) = (s.get (CAN.TT_STAT_CC k) + 1) % (s.get (CAN.TT_CYC_CC_MAX k) + 1) ∧ t.raised (CAN.page k) 9) ∧
  (∀ (k : Fin 4) (s : State), s.get (CAN.TT_STAT_ROLE k) ≠ 2 ∨ s.on (CAN.MODE_LOM k) = true → exec (.ttMasterRef k) s = .next s) ∧
  (∀ (k : Fin 4) (s : State), s.canOn k = true → s.on (CAN.MODE_TT k) = true → (s.can k).missed = false →
    ∃ t, exec (.refMiss k) s = .next t ∧ t.get (CAN.TT_STAT_SYNC k) = 0 ∧ t.raised (CAN.page k) 10 ∧
      t.now = max s.now ((s.can k).refAt + 2 * s.get (CAN.TT_CYC_CYC_LEN k) * s.canBit k) ∧
      t.get (CAN.TT_STAT_ROLE k) = (if s.get (CAN.TT_STAT_ROLE k) = 3 then 2 else s.get (CAN.TT_STAT_ROLE k))) ∧
  (∀ (k : Fin 4) (j : Fin 8) (s : State), s.canOn k = true → s.on (CAN.MODE_TT k) = true →
    ((s.get (CAN.TT_STAT_CC k) ^^^ s.get (CAN.TRG_CC k j)) &&& s.get (CAN.TRG_CC_MSK k j) ≠ 0 →
      exec (.ttTrigger k j) s = .next s) ∧
    ((s.get (CAN.TT_STAT_CC k) ^^^ s.get (CAN.TRG_CC k j)) &&& s.get (CAN.TRG_CC_MSK k j) = 0 →
      ∃ t, exec (.ttTrigger k j) s = .next t ∧
        t.now = max s.now ((s.can k).cycAt + s.get (CAN.TRG_MARK k j) * s.canBit k) ∧
        (s.get (CAN.TRG_ACT k j) = 1 → t.raised (CAN.page k) 11) ∧
        t.get (CAN.TXQ_STAT_GATE k) = (if s.get (CAN.TRG_ACT k j) = 2 then 1 else if s.get (CAN.TRG_ACT k j) = 3 then 0
          else s.get (CAN.TXQ_STAT_GATE k)))))

/-- R388, R389, R393: enabling claims the two DMA channels; a kick takes the next owned descriptor; a frame sent whole
is counted and, with TSREQ, stamped; the link's change is raised and a frame in transmission is not sent whole; MDIO
runs one transaction at a time. R388, R389: a frame with a bad FCS, over length, for another address or without an
owned descriptor is not stored and is counted where the rule counts it; a stored one is stamped in its descriptor
and raised. -/
def Obligations.EthernetPortAndReceive : Prop :=
  ((∀ (p : Fin 2) (s : State), s.takes (ETH.page p) → s.ethOn p = false →
    s.get (ETH.CFG_RX_DMA p) ≠ s.get (ETH.CFG_TX_DMA p) → s.claimable (resKey 3 (s.get (ETH.CFG_RX_DMA p))) 11 p = true →
    s.claimable (resKey 3 (s.get (ETH.CFG_TX_DMA p))) 11 p = true → ∃ t, exec (.ethEnable p) s = .next t ∧ t.ethOn p = true ∧
      (t.claim (resKey 3 (s.get (ETH.CFG_RX_DMA p)))).cls = 11 ∧ (t.claim (resKey 3 (s.get (ETH.CFG_TX_DMA p)))).cls = 11) ∧
  (∀ (p : Fin 2) (d bs : List Byte) (s : State), s.takes (ETH.page p) → s.ethOn p = true → (s.eth p).tx = none →
    (s.eth p).pause ≤ s.now → (leNat d 4 4).testBit 16 = true →
    s.dmaRead (s.get (ETH.CFG_TX_DMA p)) (s.get (ETH.TX_BASE_ADDR p) * 16 + 16 * s.get (ETH.IDX_TX p)) 16 = (some d, s) →
    s.dmaRead (s.get (ETH.CFG_TX_DMA p)) (leNat d 0 4) (leNat d 4 4 % 2048) = (some bs, s) →
    ∃ t, exec (.txKick p) s = .next t ∧ (t.eth p).tx = some (d, bs) ∧ t.regs = s.regs ∧ t.mem = s.mem) ∧
  (∀ (p : Fin 2) (ok : Bool) (s : State), s.ethOn p = true → (s.eth p).tx = none →
    ((s.eth p).kick = false → exec (.ethTxDone p ok 0) s = .next s) ∧
    ((s.eth p).kick = true → ∀ u : State, u = (s.advance (s.eth p).pause).ethExamine p →
      exec (.ethTxDone p ok 0) s = .next (u.ethSent p ok (u.ethTime u.now)))) ∧
  (∀ (p : Fin 2) (d bs : List Byte) (s : State), s.ethOn p = true → (s.eth p).tx = some (d, bs) → bs.length ≤ 1518 →
    s.now < (s.eth p).pause →
    (∃ t, exec (.ethTxDone p true 0) s = .next t ∧ (t.eth p).tx = none ∧ t.raised (ETH.page p) 1 ∧
      t.get (ETH.TX_OK_CNT p) = min 4294967295 (s.get (ETH.TX_OK_CNT p) + 1)) ∧
    (∃ t, exec (.ethTxDone p false 0) s = .next t ∧ (t.eth p).tx = none ∧ t.raised (ETH.page p) 1 ∧
      t.get (ETH.TX_OK_CNT p) = s.get (ETH.TX_OK_CNT p) ∧ (t.eth p).tsq = (s.eth p).tsq)) ∧
  (∀ (p : Fin 2) (an : Bool) (sp : Fin 3) (s : State), s.ethOn p = true → ∃ t, exec (.linkChange p true sp an) s = .next t ∧
      t.get (ETH.LINK_LINK p) = 1 ∧ t.get (ETH.LINK_AN_DONE p) = (if an && s.on (ETH.CFG_AN_EN p) then 1 else 0) ∧
      t.get (ETH.LINK_SPEED p) = (if s.get (ETH.CFG_IF p) = 1 then 2 else if s.get (ETH.CFG_AN_EN p) = 1 then sp.val
        else s.get (ETH.CFG_SPEED p)) ∧
      t.raised (ETH.page p) 3) ∧
  (∀ (p : Fin 2) (an : Bool) (sp : Fin 3) (d bs : List Byte) (s : State), s.ethOn p = true → (s.eth p).tx = some (d, bs) →
    s.now < (s.eth p).pause → ∃ t, exec (.linkChange p false sp an) s = .next t ∧ t.get (ETH.LINK_LINK p) = 0 ∧
      (t.eth p).tx = none ∧ (t.eth p).tsq = (s.eth p).tsq ∧ t.raised (ETH.page p) 3) ∧
  (∀ (p : Fin 2) (v : Word) (s : State), s.takes (ETH.page p) →
    (s.on (ETH.MDIO_GO p) = false → exec (.mdioGo p v) s
      = .next (s.setReg (ETH.MDIO p) ((v &&& 0x07FFFFFF) ||| 0x08000000))) ∧
    (s.on (ETH.MDIO_GO p) = true → exec (.mdioGo p v) s = .next (s.refuse (ETH.page p) 0xC4 eBUSY))) ∧
  (∀ (p : Fin 2) (d : BitVec 16) (s : State), s.on (ETH.MDIO_GO p) = true → s.gated 10 = false → ∃ t, exec (.mdioDone p d) s = .next t ∧
    t.get (ETH.MDIO_GO p) = 0 ∧ t.raised (ETH.page p) 7 ∧
    t.get (ETH.MDIO_DATA p) = (if s.on (ETH.MDIO_WR p) then s.get (ETH.MDIO_DATA p) else d.toNat)) ∧
  (∀ (p : Fin 2) (d : BitVec 16) (s : State), s.on (ETH.MDIO_GO p) = false ∨ s.gated 10 = true → exec (.mdioDone p d) s = .next s)) ∧
  ((∀ (p : Fin 2) (d : List Byte) (f : Bool) (s : State), s.ethOn p = false ∨ s.on (ETH.LINK_LINK p) = false →
    exec (.ethFrameRx p d f 0) s = .next s) ∧
  (∀ (p : Fin 2) (d : List Byte) (f : Bool) (ago : Nat) (s : State), s.ethOn p = true → s.on (ETH.LINK_LINK p) = true →
    exec (.ethFrameRx p d f ago) s = .next (s.ethRx p d f (s.ethTime s.now - ago * tNs))) ∧
  (∀ (p : Fin 2) (d : List Byte) (t : Nat) (s : State),
    s.ethRx p d false t = (s.bump (ETH.RX_ERR_RX_FCS p)).irq (ETH.page p) 6 ∧
    (1518 < d.length → s.ethRx p d true t = s.bump (ETH.RX_LONG_CNT p)) ∧
    (60 ≤ d.length → d.length ≤ 1514 → s.on (ETH.CFG_RX_PAUSE p) = false → s.ethPass p d = false → s.ethRx p d true t = s)) ∧
  (∀ (p : Fin 2) (d w : List Byte) (t : Nat) (s : State), 60 ≤ d.length → d.length ≤ 1514 → s.on (ETH.CFG_RX_PAUSE p) = false →
    s.ethPass p d = true → s.dmaRead (s.get (ETH.CFG_RX_DMA p)) (s.ethDesc p false) 16 = (some w, s) →
    ((leNat w 4 4).testBit 16 = false → s.ethRx p d true t = (s.bump (ETH.RX_ERR_RX_NODESC p)).irq (ETH.page p) 2) ∧
    ((leNat w 4 4).testBit 16 = true → ∀ u, s.dmaPut (s.get (ETH.CFG_RX_DMA p)) (leNat w 0 4) 4 d = (true, u) →
      s.ethRx p d true t = ((u.ethWriteDesc p false d.length (some (u.stamp p t (-(u.get (ETH.RX_LAT_LAT p) : Int))))).bump
        (ETH.RX_OK_CNT p)).irq (ETH.page p) 0)) ∧
  (∀ (p : Fin 2) (d : List Byte) (s : State), s.ethPass p d = true ↔ s.on (ETH.CFG_PROMISC p) = true ∨
    leNat d 0 6 = s.get (ETH.MAC0_ADDR_LO p) + 4294967296 * s.get (ETH.MAC1_ADDR_HI p) ∨ leNat d 0 6 = 0xFFFFFFFFFFFF ∨
    (leNat d 0 6 % 2 = 1 ∧ s.on (ETH.CFG_MCAST_ALL p) = true)))

/-- R390–R394: the PTP clock advances by its increment each 8 ns tick; SET, ADJ and an increment act from the next tick,
SET before ADJ; what it was at an earlier instant stays known (R392); CAPTURE copies it; the stamp queue holds
eight, the newest is dropped when full, POP removes the oldest, and one dropped in its tick finds room (R395);
clearing VALID of the root's source raises PTP_LOST and enters holdover, which keeps RATE; a source faster than
RATE_MAX leaves RATE at RATE_MAX with RATE_LIM (R319, R322). -/
def Obligations.PtpClock : Prop :=
  (∀ (x : EthSt) (n : Nat), x.pend = none → (∀ o ∈ x.old, o.1 ≤ n * tEth) → x.at_ ≤ n * tEth → x.at_ % tEth = 0 → x.val + (n - x.at_ / tEth) * x.inc < 2 ^ 48 * pS →
    x.at (n * tEth) = x.val + (n - x.at_ / tEth) * x.inc) ∧
  (∀ (p : Fin 2) (v : Word) (s : State), s.takes (ETH.page p) →
    (getBits v 0 4 < 6 ∨ 10 < getBits v 0 4 → exec (.ptpIncWrite p v) s = .next (s.refuse (ETH.page p) 0x84 eRANGE)) ∧
    (6 ≤ getBits v 0 4 → getBits v 0 4 ≤ 10 → (s.eth p).pend = none → ∃ t, exec (.ptpIncWrite p v) s = .next t ∧
      t.get (ETH.PTP_INC_NS_NS p) = getBits v 0 4 ∧ (t.eth p).pend = some ⟨(s.ethTime s.now / tEth + 1) * tEth, none, 0,
        some (getBits v 0 4 * pNs + s.get (ETH.PTP_INC_FRAC_FRAC p))⟩)) ∧
  (∀ (p : Fin 2) (v : Word) (s : State), s.takes (ETH.page p) →
    (v.toInt < -999999999 ∨ 999999999 < v.toInt → exec (.ptpAdj p v) s = .next (s.refuse (ETH.page p) 0x88 eRANGE)) ∧
    (-999999999 ≤ v.toInt → v.toInt ≤ 999999999 → (s.eth p).pend = none → ∃ t, exec (.ptpAdj p v) s = .next t ∧
      (t.eth p).pend = some ⟨(s.ethTime s.now / tEth + 1) * tEth, none, v.toInt, none⟩ ∧ t.regs = s.regs)) ∧
  (∀ (p : Fin 2) (s : State), s.takes (ETH.page p) → (s.eth p).pend = none → ∃ t, exec (.ptpSet p) s = .next t ∧
    (t.eth p).pend = some ⟨(s.ethTime s.now / tEth + 1) * tEth, some ((s.get (ETH.PTP_SET_SEC0_SEC_LO p)
      + 4294967296 * s.get (ETH.PTP_SET_SEC1_SEC_HI p)) * pS + s.get (ETH.PTP_SET_NS_NS p) * pNs), 0, none⟩) ∧
  (∀ (x : EthSt) (q : PtpPend) (w : Nat), q.set = some w → w < 2 ^ 48 * pS → (x.after q).val = w) ∧
  (∀ (x : EthSt) (q : PtpPend) (i : Nat), q.at_ = x.at_ + tEth → q.set = none → q.adj = 0 → q.inc = some i → x.val + i < 2 ^ 48 * pS →
    (x.after q).val = x.val + i ∧ (x.after q).inc = i ∧ (x.after q).pend = none) ∧
  (∀ (x : EthSt) (at_ val inc t : Nat), x.pend = none → t < at_ → (∀ o ∈ x.old, o.1 ≤ t) →
    (x.become at_ val inc).at t = x.at t) ∧
  (∀ (p : Fin 2) (s : State), s.takes (ETH.page p) → ∃ t, exec (.ptpCapture p) s = .next t ∧
    t.get (ETH.PTP_SEC0_SEC p) + 4294967296 * t.get (ETH.PTP_SEC1_SEC p) = s.ptp p s.now / pS ∧
    t.get (ETH.PTP_NS_NS p) = s.ptp p s.now % pS / pNs ∧ t.get (ETH.PTP_FRAC_FRAC p) = s.ptp p s.now % pNs ∧
    (t.eth p) = s.eth p) ∧
  (∀ (p : Fin 2) (i n c : Nat) (s : State), i < 65536 → n < 1000000000 → c < 4294967296 →
    ((s.eth p).tsq = [] → (s.tsqPush p (i, n, c)).get (ETH.TSQ_STAT_FILL p) = 1 ∧
      (s.tsqPush p (i, n, c)).get (ETH.TSQ_ID_TSID p) = i ∧ (s.tsqPush p (i, n, c)).get (ETH.TSQ_NS_NS p) = n ∧
      (s.tsqPush p (i, n, c)).get (ETH.TSQ_SEC_SEC p) = c ∧ (s.tsqPush p (i, n, c)).raised (ETH.page p) 4) ∧
    ((s.eth p).tsq.length = 8 → (s.tsqPush p (i, n, c)).regs = ((s.bump (ETH.TSQ_STAT_OVF p)).irq (ETH.page p) 5).regs ∧
      ((s.tsqPush p (i, n, c)).eth p).tsq = (s.eth p).tsq)) ∧
  (∀ (p : Fin 2) (s : State), s.takes (ETH.page p) →
    ((s.eth p).tsq = [] → exec (.tsqPop p) s = .next (s.refuse (ETH.page p) 0xC0 eTSQ_EMPTY)) ∧
    (∀ (e : Nat × Nat × Nat) (l : List (Nat × Nat × Nat)), (s.eth p).tsq = e :: l → l.length ≤ 7 → ((s.eth p).tsqLost = none → ∃ t, exec (.tsqPop p) s = .next t ∧
        (t.eth p).tsq = l ∧ t.get (ETH.TSQ_STAT_FILL p) = l.length) ∧
      (∀ (e2 : Nat × Nat × Nat) (n : Nat) (b : Bool), (s.eth p).tsqLost = some (s.ethTick, e2, n, b) → n < 65536 → ∃ t, exec (.tsqPop p) s = .next t ∧
        (t.eth p).tsq = l ++ [e2] ∧ t.get (ETH.TSQ_STAT_OVF p) = n))) ∧
  (∀ (p : Fin 2) (s : State), s.takes (ETH.page p) → s.ptpPort = some p.val →
    (s.on (ETH.PTP_STAT_VALID p) = true → s.on TBS.TSTAT_HOLDOVER = false → ∃ t, exec (.ptpValidWrite p false) s = .next t ∧
      t.get (ETH.PTP_STAT_VALID p) = 0 ∧ t.raised TBS.page 12 ∧ t.get TBS.TSTAT_HOLDOVER = 1 ∧ t.get TBS.TSTAT_PTP_LOCK = 0) ∧
    (s.on (ETH.PTP_STAT_VALID p) = false → ∃ t, exec (.ptpValidWrite p true) s = .next t ∧
      t.get (ETH.PTP_STAT_VALID p) = 1 ∧ t.get TBS.TSTAT_HOLDOVER = 0)) ∧
  (∀ (p : Nat) (s : State), s.ptpPort = some p →
    (s.get (ETH.PTP_STAT_VALID p) = 0 → s.ptpBoundary.getS TBS.RATE_RATE = s.getS TBS.RATE_RATE ∧
      s.ptpBoundary.get TBS.TSTAT_PTP_LOCK = 0) ∧
    (s.get (ETH.PTP_STAT_VALID p) = 1 → (100 * s.get TBS.TCFG_RATE_MAX : Int) < s.ptpRate p → s.get TBS.TSTAT_RATE_LIM = 0 →
      s.ptpBoundary.getS TBS.RATE_RATE = 100 * s.get TBS.TCFG_RATE_MAX ∧ s.ptpBoundary.get TBS.TSTAT_RATE_LIM = 1 ∧
      s.ptpBoundary.get TBS.TSTAT_PTP_LOCK = 1 ∧ s.ptpBoundary.raised TBS.page 13))

/-! ### Clocks and power (R400–R421) -/

/-- R401–R405: a gate write stops a gateable domain whose pages are not in use, each bit judged on its own; a monitor
fault is recorded and acts as an unlock; a PLL that locks or loses lock reports it and a loss on PLL-SYS or PLL-AUX
disarms and asks for a warm reset. R407–R412, R416: the power commands, what they require and their refusals; DOZE
ends with an interrupt; a wake event before step 4 of a SLEEP entry aborts it, from SLEEP it starts the module into
the state it left, and in a thermal shutdown it is held; the RTC is a source only while its second equals RTC_ALM. -/
def Obligations.ClockDomainsAndPowerStates : Prop :=
  ((∀ (d : Fin 16) (s : State), s.takes CLK.page → s.get CLK.GATE_GATE = 0 →
    (d.val ∈ gateable → s.domUsed d = false → ∃ t, exec (.clkGateWrite (BitVec.ofNat 32 (1 <<< d.val))) s = .next t ∧
      t.get CLK.GATE_GATE = 1 <<< d.val ∧ SMap.look t.pwr.gateAt d = some s.now ∧ t.sameRegsBut s [CLK.GATE]) ∧
    (d.val ∉ gateable → exec (.clkGateWrite (BitVec.ofNat 32 (1 <<< d.val))) s = .next (s.refuse CLK.page 0x44 eRANGE)) ∧
    (d.val ∈ gateable → s.domUsed d = true →
      exec (.clkGateWrite (BitVec.ofNat 32 (1 <<< d.val))) s = .next (s.refuse CLK.page 0x44 eSTATE))) ∧
  (∀ s : State, exec (.clockMonitor 0) s = .next s) ∧
  (∀ (d : Nat) (s : State), d ∈ [3, 4, 5, 12, 13] → s.ps < psSLEEP → (s.get CLK.GATE_GATE).testBit d = false →
    exec (.clockMonitor (BitVec.ofNat 16 (1 <<< d))) s
      = .next (((s.set CLK.MON_FAIL (s.get CLK.MON_FAIL ||| 1 <<< d)).irq CLK.page 1).sysUnlock)) ∧
  (∀ s : State, s.sysUnlock.armed = false ∧ (s.pwr.warm = none → s.memx.shut = false → s.sysUnlock.pwr.warm = some 2)) ∧
  (∀ s : State, s.ps = psRUN → ∃ t, exec .xtFail s = .next t ∧ t.get CLK.MON_XT_FAIL = 1 ∧ t.raised CLK.page 2 ∧
    t.sameRegsBut s [CLK.MON, HDR.IRQ_RAW CLK.page]) ∧
  (∀ (n : Fin 3) (b : BitVec 6) (s : State), s.on (PLL.PCFG_EN n) = true → s.on (PLL.PSTAT_LOCKED n) = false →
    ∃ t, exec (.pllLocked n b) s = .next t ∧ t.get (PLL.PSTAT_LOCKED n) = 1 ∧ t.get (PLL.PSTAT_SEARCH n) = 0 ∧
      t.get (PLL.PSTAT_BAND n) = b.toNat ∧ t.raised (PLL.page n) 1) ∧
  (∀ (n : Fin 3) (s : State), s.on (PLL.PSTAT_LOCKED n) = true → n.val ≠ 1 → s.pwr.warm = none → s.memx.shut = false →
    ∃ t, exec (.pllLol n) s = .next t ∧ t.get (PLL.PSTAT_LOCKED n) = 0 ∧ t.get (PLL.PSTAT_SEARCH n) = 1 ∧
      t.get (PLL.PSTAT_LOL_CNT n) = min 255 (s.get (PLL.PSTAT_LOL_CNT n) + 1) ∧ t.raised (PLL.page n) 0 ∧ t.raised CLK.page 0 ∧
      t.armed = false ∧ t.pwr.warm = some 2) ∧
  (∀ (n : Fin 3) (s : State), s.on (PLL.PSTAT_LOCKED n) = false → exec (.pllLol n) s = .next s)) ∧
  ((∀ s : State, s.takes PWR.page → s.ps = psHOLD → exec .pwrCmdRun s = .next (s.set PWR.STAT_STATE psRUN)) ∧
  (∀ s : State, s.ps = psRUN → exec .pwrCmdRun s = .next s) ∧
  (∀ s : State, s.takes PWR.page → s.ps = psRUN → ∃ t, exec .pwrCmdHold s = .next t ∧ t.ps = psHOLD ∧ t.armed = false ∧
    (s.armed = true → t.get PWR.STAT_DIS_CAUSE = disSTATE ∧ t.raised PWR.page 1)) ∧
  (∀ s : State, s.takes PWR.page → s.ps ≤ psHOLD →
    (s.armed = true → exec .pwrCmdDoze s = .next (s.refuse PWR.page 0x40 eARMED) ∧
      exec .pwrCmdSleep s = .next (s.refuse PWR.page 0x40 eARMED) ∧ exec .pwrCmdOff s = .next (s.refuse PWR.page 0x40 eARMED)) ∧
    (s.armed = false →
      (s.intPending = false → exec .pwrCmdDoze s = .next (s.modPwr (fun x => { x with doze := true }))) ∧
      (s.intPending = true → ∃ t, exec .pwrCmdDoze s = .next t ∧ t.ps = s.ps ∧ t.pwr.doze = s.pwr.doze ∧ t.raised PWR.page 4) ∧
      (s.reg AON.WAKE_EN &&& 0xFF7F = 0 → exec .pwrCmdSleep s = .next (s.refuse PWR.page 0x40 pNO_WAKE)) ∧
      (s.reg AON.WAKE_EN &&& 0xFF7F ≠ 0 → s.on CLK.MON_XT_FAIL = true →
        exec .pwrCmdSleep s = .next (s.refuse PWR.page 0x40 pAON_CLK)) ∧
      (s.reg AON.WAKE_EN &&& 0xFF7F ≠ 0 → s.on CLK.MON_XT_FAIL = false → ∃ t, exec .pwrCmdSleep s = .next t ∧
        t.pwr.slp = some s.now ∧ t.pwr.left = s.ps ∧ t.dmaN = s.dmaN ∧ t.ps = s.ps) ∧
      ∃ t, exec .pwrCmdOff s = .next t ∧ t.ps = psOFF ∧ t.mem = [] ∧ t.get SAF.SO_STAT_CMD_A = 0 ∧
        t.get STL.STAT_OWN_HELD = 0)) ∧
  (∀ s : State, s.ps = psDOZE →
    (s.intPending = true → exec .dozeWake s = .next ((s.set PWR.STAT_STATE s.pwr.left).irq PWR.page 4)) ∧
    (s.intPending = false → exec .dozeWake s = .next s)) ∧
  (∀ (src : BitVec 16) (t0 : Nat) (s : State), s.wakeMask src ≠ 0 → s.memx.shut = false → s.memx.tsdPend = none →
    s.pwr.slp = some t0 → s.pwr.slp4 = false → s.now < t0 + 700 * tUs → ∃ t, exec (.wakeEvent src) s = .next t ∧
      t.get PWR.STAT_ENTRY_ABORT = 1 ∧ t.raised PWR.page 5 ∧ t.pwr.slp = none ∧ t.ps = s.ps ∧
      t.get AON.WAKE_SRC_SRC = s.wakeMask src) ∧
  (∀ (src : BitVec 16) (s : State), s.wakeMask src ≠ 0 → s.memx.shut = false → s.memx.tsdPend = none →
    s.ps = psSLEEP → s.pwr.slp = none → s.pwr.left ≤ psHOLD → ∃ t, exec (.wakeEvent src) s = .next t ∧ t.ps = s.pwr.left ∧
      t.pwr.waking = true ∧ t.raised AON.page 1 ∧
      ∀ n : Fin 48, s.on (LANE.CFG_EN n) = true → t.ln n = lnLOCK) ∧
  (∀ (src : BitVec 16) (s : State), s.wakeMask src ≠ 0 → s.ps = psSLEEP → s.memx.shut = true →
    exec (.wakeEvent src) s = .next (s.modMem (fun x => { x with held := x.held ||| s.wakeMask src }))) ∧
  (∀ (src : BitVec 16) (s : State), s.wakeMask src = 0 → exec (.wakeEvent src) s = .next s) ∧
  (∀ (src : BitVec 16) (s : State), s.wakeMask src &&& 0xFFBF = src.toNat &&& (s.reg AON.WAKE_EN).toNat &&& 0xFF3F ∧
    ((s.wakeMask src).testBit 6 = true ↔ src.getLsbD 6 = true ∧ (s.reg AON.WAKE_EN).getLsbD 6 = true ∧
      s.get AON.RTC_ALM_ALM ≠ 0 ∧ s.rtcNow.1 = s.get AON.RTC_ALM_ALM)) ∧
  (∀ (n : Nat) (s : State), s.pwr.waking = true → ∃ t, exec (.wakeDone n) s = .next t ∧ t.pwr.waking = false ∧
    t.get PWR.WAKE_LAT_T = min n 65535 ∧ t.raised PWR.page 4 ∧ t.bndAt = s.gridFloor) ∧
  (∀ (n : Nat) (s : State), s.pwr.waking = false → exec (.wakeDone n) s = .next s))

/-- R413: ARM with the key and no condition of refusal pends and takes effect at the next boundary; the refusals come in
the table's order; another key is refused with KEY. R414, R415, R421: a disarm records its first cause, raises
DISARMED and fails a pending ARM; VIN below VIN_WARN sets VIN_LOW and disarms, and 0.5 V above it clears; the RTC
alarm is raised at its second. -/
def Obligations.ArmAndDisarm : Prop :=
  ((∀ s : State, s.takes PWR.page → s.armed = false → s.on PWR.STAT_ARM_PEND = false →
    (s.armConds.all (fun c => !c.1) = true → exec (.arm 0xA5) s = .next ((s.set PWR.STAT_ARM_PEND 1).modPwr (fun x => { x with armAt := some (s.now / tBus) }))) ∧
    (s.ps ≠ psRUN → exec (.arm 0xA5) s = .next (s.refuse PWR.page 0x48 pNOT_RUN)) ∧
    (s.ps = psRUN → s.on SAF.STAT_ARM_OK = false → exec (.arm 0xA5) s = .next (s.refuse PWR.page 0x48 pSAFETY)) ∧
    (s.ps = psRUN → s.on SAF.STAT_ARM_OK = true → s.armPermit = false →
      exec (.arm 0xA5) s = .next (s.refuse PWR.page 0x48 pLIFECYCLE))) ∧
  (∀ s : State, s.armed = true ∨ s.on PWR.STAT_ARM_PEND = true → exec (.arm 0xA5) s = .next s) ∧
  (∀ (k : BitVec 8) (s : State), s.takes PWR.page → k ≠ 0xA5 → exec (.arm k) s = .next (s.refuse PWR.page 0x48 eKEY) ∧
    exec (.disarm k) s = .next (s.refuse PWR.page 0x48 eKEY)) ∧
  (∀ s : State, s.on PWR.STAT_ARM_PEND = true →
    (s.armConds.all (fun c => !c.1) = true → s.armEffect.armed = true ∧ s.armEffect.on PWR.STAT_ARM_PEND = false ∧
      s.armEffect.raised PWR.page 0) ∧
    (∀ c, s.armConds.find? (fun c => c.1) = some c → s.armEffect.armed = s.armed ∧ s.armEffect.on PWR.STAT_ARM_PEND = false ∧
      s.armEffect.get PWR.STAT_DIS_CAUSE = armCause c.2 ∧ s.armEffect.raised PWR.page 2))) ∧
  ((∀ s : State, s.takes PWR.page → s.armed = true → s.on PWR.STAT_ARM_PEND = false → ∃ t, exec (.disarm 0xA5) s = .next t ∧
    t.armed = false ∧ t.get PWR.STAT_DIS_CAUSE = disCMD ∧ t.raised PWR.page 1 ∧
    t.get STL.STAT_OWN_HELD = s.get STL.STAT_OWN_HELD) ∧
  (∀ s : State, s.takes PWR.page → s.armed = false → s.on PWR.STAT_ARM_PEND = true → ∃ t, exec (.disarm 0xA5) s = .next t ∧
    t.armed = false ∧ t.on PWR.STAT_ARM_PEND = false ∧ t.raised PWR.page 2 ∧ t.get PWR.STAT_DIS_CAUSE = disCMD) ∧
  (∀ s : State, s.takes PWR.page → s.armed = false → s.on PWR.STAT_ARM_PEND = false → exec (.disarm 0xA5) s = .next s) ∧
  (∀ (v : BitVec 16) (s : State), v.toNat < s.get PWR.VIN_VIN_WARN → s.on PWR.STAT_VIN_LOW = false →
    ∃ t, exec (.vinSample v) s = .next t ∧ t.get PWR.VIN_V = v.toNat ∧ t.on PWR.STAT_VIN_LOW = true ∧ t.raised PWR.page 3 ∧
      t.armed = false ∧ (s.armed = true → t.get PWR.STAT_DIS_CAUSE = disVIN)) ∧
  (∀ (v : BitVec 16) (s : State), s.get PWR.VIN_VIN_WARN ≤ v.toNat → ∃ t, exec (.vinSample v) s = .next t ∧
    t.get PWR.VIN_V = v.toNat ∧ (s.get PWR.VIN_VIN_WARN + 50 ≤ v.toNat → t.on PWR.STAT_VIN_LOW = false) ∧
    (v.toNat < s.get PWR.VIN_VIN_WARN + 50 → t.on PWR.STAT_VIN_LOW = s.on PWR.STAT_VIN_LOW) ∧ t.armed = s.armed) ∧
  (∀ s : State, s.get AON.RTC_ALM_ALM ≠ 0 → s.ps ≠ psOFF → s.get AON.RTC_SEC_SEC ≤ s.get AON.RTC_ALM_ALM →
    s.now < s.pwr.rtcAt + (s.get AON.RTC_ALM_ALM - s.get AON.RTC_SEC_SEC) * tS + tS → ∃ t, exec .rtcAlarm s = .next t ∧
      t.raised AON.page 0 ∧ t.now = max s.now (s.pwr.rtcAt + (s.get AON.RTC_ALM_ALM - s.get AON.RTC_SEC_SEC) * tS)) ∧
  (∀ s : State, s.get AON.RTC_ALM_ALM = 0 → exec .rtcAlarm s = .next s))

/-! ### Lifecycle, keys and debug (R422–R446) -/

/-- R423–R426, R429: a lifecycle request is refused while ARMED, while another request runs, off the listed paths and
where its token fails, which consumes the nonce; SERVICE begins and ends at once and closes the debug port; a burn
sets LC_BUSY until it is done; RETIRED erases the keys first. R428, R429, R433: KPROV takes a checked record into
the lowest free slot, a revoke burns REVOKED and takes the lanes opened with the key DOWN; the rollback count
advances only within the running image's ROLLBACK. -/
def Obligations.LifecyclePairingAndKeys : Prop :=
  ((∀ (t : BitVec 3) (s : State), s.takes SEC.page →
    (4 < t.toNat → exec (.lcReq t) s = .next (s.refuse SEC.page 0x44 eRANGE)) ∧
    (t.toNat ≤ 4 → s.armedOrPend = true → exec (.lcReq t) s = .next (s.refuse SEC.page 0x44 eARMED)) ∧
    (t.toNat ≤ 4 → s.armedOrPend = false → s.secBusy = true → exec (.lcReq t) s = .next (s.refuse SEC.page 0x44 eBUSY)) ∧
    (t.toNat ≤ 4 → s.armedOrPend = false → s.secBusy = false → lcPath s.lc t.toNat = none →
      exec (.lcReq t) s = .next (s.refuse SEC.page 0x44 sLC_PATH)) ∧
    (t.toNat ≤ 4 → s.armedOrPend = false → s.secBusy = false → lcPath s.lc t.toNat = some true →
      (∀ c, s.tokenFail t.toNat = some c → exec (.lcReq t) s = .next (s.nonceUse.refuse SEC.page 0x44 c)) ∧
      (s.tokenFail t.toNat = none → t.toNat ≠ s.lc →
        exec (.lcReq t) s = .next (s.nonceUse.lcStart t.toNat (leNat s.token 48 4))) ∧
      (∀ i, s.tokenFail t.toNat = none → t.toNat = s.lc → rootIdx (leNat s.token 48 4) = some i →
        (s.lastRoot i = true → exec (.lcReq t) s = .next (s.nonceUse.refuse SEC.page 0x44 sLC_PATH)) ∧
        (s.lastRoot i = false → exec (.lcReq t) s = .next (s.nonceUse.lcStart t.toNat (leNat s.token 48 4))))) ∧
    (s.armedOrPend = false → s.secBusy = false → s.lc = lcSERVICE → t.toNat = lcFIELD → ∃ u, exec (.lcReq t) s = .next u ∧
      u.lc = lcFIELD ∧ u.sec.svcEnd = none ∧ u.dbgSt = 0 ∧ u.raised SEC.page 0 ∧ u.raised SEC.page 5)) ∧
  (∀ (t : Nat) (s : State), s.sec.used = true → (s.tokenFail t).isSome = true) ∧
  (∀ (h : Nat) (s : State), s.lc = lcFIELD → h < 1024 → (s.lcStart lcSERVICE h).lc = lcSERVICE ∧
    (s.lcStart lcSERVICE h).sec.svcEnd = some (s.now + h * 3600 * tS) ∧ (s.lcStart lcSERVICE h).dbgSt = 0 ∧
    (s.lcStart lcSERVICE h).get SEC.LC_STAT_SVC_LEFT = h ∧ (s.lcStart lcSERVICE h).raised SEC.page 0) ∧
  (∀ (h : Nat) (s : State), s.lc ≠ 4 → (s.lcStart 4 h).lc = s.lc ∧ (s.lcStart 4 h).get SEC.LC_STAT_LC_BUSY = 1 ∧
    (s.lcStart 4 h).get SEC.LC_STAT_ERASED = 1 ∧ (s.lcStart 4 h).get SEC.KSTAT_USED = 64 ∧ (s.lcStart 4 h).pairKeys = [] ∧
    (s.lcStart 4 h).sec.kImg = BitVec.allOnes 256 ∧ (s.lcStart 4 h).sec.kTr = BitVec.allOnes 256 ∧
    (s.lcStart 4 h).sec.slots = List.replicate 64 ⟨0xFF, true, true, BitVec.allOnes 256⟩ ∧
    (s.lcStart 4 h).sec.lc = some (4, h, none)) ∧
  (∀ (t h : Nat) (s : State), s.sec.lc = some (t, h, none) → t ≤ 4 → ∃ u, exec .lcDone s = .next u ∧
    u.get SEC.LC_STAT_LC_BUSY = 0 ∧ u.lc = t ∧ u.sec.lcWord.testBit t = true ∧ u.sec.svcEnd = none ∧ u.dbgSt = 0 ∧ u.sec.lc = none ∧ u.armed = false ∧
    u.raised SEC.page 0) ∧
  (∀ (t h i : Nat) (s : State), s.sec.lc = some (t, h, some i) → ∃ u, exec .lcDone s = .next u ∧ u.lc = s.lc ∧
    u.sec.lc = none ∧ (∀ r, s.sec.roots[i]? = some r → u.sec.roots[i]? = some (r.1, true)) ∧ u.raised SEC.page 0) ∧
  (∀ s : State, s.sec.lc = none → exec .lcDone s = .next s) ∧
  (∀ s : State, s.takes SEC.page → ∃ u, exec .chalNew s = .next u ∧ u.sec.used = false ∧ u.freeN = s.freeN + 1 ∧
    ∀ j : Fin 8, u.reg (SEC.CHAL j) = BitVec.ofNat 32 ((Config.random256 s.freeN).toNat >>> (32 * j.val))) ∧
  (∀ (e : Nat) (s : State), s.sec.svcEnd = some e → s.lc = lcSERVICE → ∃ u, exec .serviceExpiry s = .next u ∧
    u.lc = lcFIELD ∧ u.sec.svcEnd = none ∧ e ≤ u.now ∧ u.raised SEC.page 5 ∧ u.dbgSt = 0) ∧
  (∀ s : State, s.sec.svcEnd = none → exec .serviceExpiry s = .next s)) ∧
  ((∀ (k : BitVec 8) (s : State), s.takes SEC.page →
    (s.lc = 2 ∨ s.lc = 4 → exec (.kprov k) s = .next (s.refuse SEC.page 0x6C sLC_PATH)) ∧
    (s.lc ≠ 2 → s.lc ≠ 4 → s.armedOrPend = true → exec (.kprov k) s = .next (s.refuse SEC.page 0x6C eARMED)) ∧
    (s.lc ≠ 2 → s.lc ≠ 4 → s.armedOrPend = false → s.secBusy = false → leNat s.token 12 1 = 0 →
      exec (.kprov k) s = .next (s.refuse SEC.page 0x6C sTOKEN)) ∧
    (∀ v, s.lc ≠ 2 → s.lc ≠ 4 → s.armedOrPend = false → s.secBusy = false → leNat s.token 12 1 ≠ 0 →
      s.tokenHead [0x43, 0x4B, 0x50, 0x52] = true → leNat s.token 13 3 = 0 →
      Config.unwrap s.sec.kTr (slice s.token 16 40) = some v → s.keySlot (leNat s.token 12 1) = none →
      (s.sec.slots.all KeySlot.valid = true → exec (.kprov k) s = .next (s.refuse SEC.page 0x6C sOTP_FULL)) ∧
      (s.sec.slots.all KeySlot.valid = false → ∃ t, exec (.kprov k) s = .next t ∧ t.get SEC.KSTAT_BUSY = 1 ∧
        t.sec.key = some (leNat s.token 12 1, v) ∧ t.sec.slots = s.sec.slots))) ∧
  (∀ (k i : Nat) (v : BitVec 256) (s : State), s.sec.key = some (k, v) → k < 256 → s.sec.slots.length = 64 →
    s.sec.slots.findIdx? (fun q => !q.valid) = some i →
    ∃ t, exec .keyDone s = .next t ∧ t.sec.slots = s.sec.slots.set i ⟨k, true, false, v⟩ ∧ t.sec.key = none ∧
      t.pairKeys = s.pairKeys ++ [(k, v)] ∧ t.get SEC.KSTAT_USED = s.keysUsed + 1 ∧ t.get SEC.KSTAT_BUSY = 0 ∧ t.get SEC.KSTAT_LAST_KID = k ∧
      t.raised SEC.page 3) ∧
  (∀ s : State, s.sec.key = none → exec .keyDone s = .next s) ∧
  (∀ (k : BitVec 8) (s : State), s.takes SEC.page → s.lc ≠ 4 → s.armedOrPend = false → s.secBusy = false →
    (∀ q0 : KeySlot, s.keySlot k.toNat = some q0 → ∃ t, exec (.kprovRevoke k) s = .next t ∧
      (∀ q ∈ t.sec.slots, q.valid = true → q.kid = k.toNat → q.revoked = true) ∧ (∀ q ∈ t.pairKeys, q.1 ≠ k.toNat) ∧
      ∀ n : Fin 48, s.ln n = lnKEY ∨ s.ln n = lnCONFIG ∨ s.ln n = lnUP → s.get (LANE.PEER2_KID n) = k.toNat → t.ln n = lnDOWN ∧
        t.get (LANE.STAT_DCAUSE n) = dcKEY) ∧
    (s.keySlot k.toNat = none → exec (.kprovRevoke k) s = .next s)) ∧
  (∀ (v : BitVec 7) (s : State), s.takes SEC.page →
    (s.get SEC.RB_MIN ≤ v.toNat → v.toNat ≤ s.sec.runRb → exec (.rbAdv v) s = .next (s.set SEC.RB_MIN v.toNat)) ∧
    (v.toNat < s.get SEC.RB_MIN ∨ s.sec.runRb < v.toNat → exec (.rbAdv v) s = .next (s.refuse SEC.page 0x68 sRB_RANGE))))

/-- R435–R439, R441: CLOSE closes the port; OPEN is refused in FIELD and SERVICE; a checked response grants its scope
for its duration and one that exceeds its certificate is denied; a combination that does not permit ARMED disarms
with cause LIFECYCLE; a halt, and a master's write by the port, have no effect without their capability. -/
def Obligations.DebugPortAndMatrix : Prop :=
  (∀ s : State, s.takes SEC.page → s.dbgSt ≠ 0 → ∃ t, exec .dbgClose s = .next t ∧ t.dbgSt = 0 ∧ t.sec.dbgEnd = none ∧
    t.raised SEC.page 1 ∧ t.latches = s.latches) ∧
  (∀ s : State, s.takes SEC.page →
    (s.lc = lcFIELD ∨ s.lc = lcSERVICE → exec .dbgOpen s = .next (s.refuse SEC.page 0x48 sNOT_PERMITTED)) ∧
    (s.lc ≠ lcFIELD → s.lc ≠ lcSERVICE → ∃ t, exec .dbgOpen s = .next t ∧ t.dbgSt = 2 ∧ t.sec.dbgEnd = none)) ∧
  (∀ s : State, s.takes SEC.page → s.tokenHead [0x43, 0x44, 0x42, 0x47] = true →
    (s.nonceOk = false → exec .dbgAuth s = .next (s.nonceUse.refuse SEC.page 0x48 sNONCE)) ∧
    (s.nonceOk = true → Config.sha384 (slice s.token 340 96) = s.sec.dbgRoot →
      sigOk (slice s.token 340 96) (slice s.token 45 103) (slice s.token 148 96) = true →
      sigOk (slice s.token 52 96) (slice s.token 0 244) (slice s.token 244 96) = true → leNat s.token 47 1 = 0 →
      60 ≤ leNat s.token 48 4 → leNat s.token 48 4 ≤ 86400 →
      (leNat s.token 44 1 = 1 → 1 ≤ leNat s.token 45 1 → (leNat s.token 46 1).testBit s.lc = true →
        ∃ t, exec .dbgAuth s = .next t ∧ t.dbgSt = 1 ∧ t.get SEC.DBG_STAT_SCOPE = 1 ∧
          t.sec.dbgEnd = some (s.now + leNat s.token 48 4 * tS) ∧ t.sec.used = true) ∧
      (leNat s.token 44 1 = 2 → s.lc = lcFIELD → ∃ t, exec .dbgAuth s = .next t ∧ t.dbgSt = s.dbgSt ∧ t.raised SEC.page 2 ∧
        t.get (HDR.ERR_CODE_CODE SEC.page) = sSCOPE))) ∧
  (∀ (e : Nat) (s : State), s.sec.dbgEnd = some e → s.dbgSt ≠ 0 → ∃ t, exec .dbgExpiry s = .next t ∧ t.dbgSt = 0 ∧
    e ≤ t.now ∧ t.raised SEC.page 1) ∧
  (∀ s : State, s.sec.dbgEnd = none → exec .dbgExpiry s = .next s) ∧
  (∀ (src : Fin 5) (s : State), s.dbgHas (if src.val < 3 then 1 else 3) = false → exec (.halt src) s = .next s) ∧
  (∀ (src : Fin 5) (s : State), 3 ≤ src.val → s.dbgHas 3 = true → ∃ t, exec (.halt src) s = .next t ∧
    t.on SAF.STAT_LOCKOUT = true) ∧
  (∀ (a : Nat) (d : List Byte) (s : State), s.dbgHas 2 = false → exec (.masterWrite a ⟨d, true⟩) s = .next s) ∧
  (∀ s : State, (s.lc = 0 → (s.armPermit = true ↔ s.on SEC.LC_STAT_BENCH_IL = true)) ∧ (s.lc = 1 → s.armPermit = true) ∧
    (s.lc = 2 ∨ s.lc = 3 → (s.armPermit = true ↔ s.dbgSt ≠ 2)) ∧ (s.lc = 4 → s.armPermit = false)) ∧
  (∀ (st sc : Nat) (e : Option Nat) (s : State), st < 3 → sc < 4 → (s.dbgGo st sc e).armed = true → (s.dbgGo st sc e).armPermit = true) ∧
  (∀ s : State, (∃ t, exec .benchIlAssert s = .next t ∧ t.on SEC.LC_STAT_BENCH_IL = true ∧ t.straps.benchIl = true) ∧
    ∃ t, exec .benchIlRelease s = .next t ∧ t.on SEC.LC_STAT_BENCH_IL = false ∧ (s.lc = 0 → t.armed = false))

/-! ### Memory integrity (R447–R459, R473–R475) -/

/-- R449, R457: a correctable error is counted, recorded and adds 1 to the Pan, which at THR overflows: PAN_OVF,
OVF_CNT, a level of 0; the level falls by 1 every LEAK ms; errors of the test page are only counted there. R450,
R451, R454, R455: an uncorrectable word is poisoned, recorded in LAST_UE, counted and raised; one in a critical
range sets HIT and UE_CRIT and acts by its class; a poisoned word ends every read in a bus error and is not counted. -/
def Obligations.MemoryErrors : Prop :=
  ((∀ (r : Fin 20) (i : Nat) (y : BitVec 8) (k : Bool) (s : State),
    (i < regionWords r → s.onTestPage r i = false →
      exec (.masterReadCe r i y k) s = .next (s.panAdd r i y.toNat (if k then 0 else 1))) ∧
    (i < regionWords r → s.onTestPage r i = true → exec (.masterReadCe r i y k) s = .next (s.bump MEM.TEST_CNT_CE)) ∧
    (regionWords r ≤ i → exec (.masterReadCe r i y k) s = .next s)) ∧
  (∀ (r : Fin 20) (i y : Nat) (src : Fin 2) (s : State), i < regionWords r → y < 256 →
    (s.panAdd r i y src).get MEM.CE_TOT_CNT = min 4294967295 (s.get MEM.CE_TOT_CNT + 1) ∧
    (s.panAdd r i y src).get MEM.LAST_CE0_WORD = i ∧ (s.panAdd r i y src).get MEM.LAST_CE0_REGION = r ∧
    (s.panAdd r i y src).get MEM.LAST_CE0_SRC = src ∧ (s.panAdd r i y src).get MEM.LAST_CE1_SYND = y ∧
    (s.get MEM.PAN_STAT_LEVEL + 1 < s.get MEM.PAN_CFG_THR →
      (s.panAdd r i y src).get MEM.PAN_STAT_LEVEL = s.get MEM.PAN_STAT_LEVEL + 1) ∧
    (s.get MEM.PAN_CFG_THR ≤ s.get MEM.PAN_STAT_LEVEL + 1 → (s.panAdd r i y src).get MEM.PAN_STAT_LEVEL = 0 ∧
      (s.panAdd r i y src).get MEM.PAN_STAT_OVF_CNT = min 65535 (s.get MEM.PAN_STAT_OVF_CNT + 1) ∧
      (s.panAdd r i y src).raised MEM.page 0)) ∧
  (∀ s : State, ∃ t, exec .panLeak s = .next t ∧ t.get MEM.PAN_STAT_LEVEL = s.get MEM.PAN_STAT_LEVEL - 1 ∧
    t.now = max s.now (s.memx.leakAt + s.get MEM.PAN_CFG_LEAK * tMs) ∧ t.memx.leakAt = t.now ∧ t.sameRegsBut s [MEM.PAN_STAT])) ∧
  ((∀ (r : Fin 20) (i : Nat) (y c : BitVec 8) (lo hi : Word) (s : State), i < regionWords r → s.onTestPage r i = false →
    (s.isPoison r i = true → exec (.masterReadUe r i none y c lo hi) s = .next { s with resp := .busError }) ∧
    (s.isPoison r i = false → s.critOf r i = [] → s.critCtx r i = [] →
      ∃ t, exec (.masterReadUe r i none y c lo hi) s = .next t ∧ t.resp = .busError ∧ t.isPoison r i = true ∧
        t.get MEM.LAST_UE0_WORD = i ∧ t.get MEM.LAST_UE0_REGION = r ∧ t.get MEM.LAST_UE0_SRC = 1 ∧ t.reg MEM.LAST_UE2 = lo ∧
        t.reg MEM.LAST_UE3 = hi ∧ t.get MEM.UE_CNT_UE_RD = min 65535 (s.get MEM.UE_CNT_UE_RD + 1) ∧ t.raised MEM.page 2 ∧
        (18 ≤ r.val → t.get SAF.STAT_LOCKOUT = 1))) ∧
  (∀ (r : Fin 18) (i y c : Nat) (slp : Bool) (lo hi : Word) (s : State), i < regionWords r → y < 256 → c < 256 →
    (s.rakeUe r i slp y c lo hi).isPoison r i = true ∧ (s.rakeUe r i slp y c lo hi).get MEM.LAST_UE0_WORD = i ∧
    (s.rakeUe r i slp y c lo hi).get MEM.LAST_UE0_REGION = r ∧ (s.rakeUe r i slp y c lo hi).get MEM.LAST_UE0_SRC = 0 ∧
    (s.rakeUe r i slp y c lo hi).get MEM.LAST_UE1_SYND = y ∧ (s.rakeUe r i slp y c lo hi).get MEM.LAST_UE1_CHK = c ∧
    (s.rakeUe r i slp y c lo hi).raised MEM.page 1 ∧
    (s.rakeUe r i slp y c lo hi).get MEM.UE_CNT_UE_BG = min 65535 (s.get MEM.UE_CNT_UE_BG + 1)) ∧
  (∀ (r i : Nat) (n : Fin 16) (s : State), n.val ∈ s.critOf r i → (s.critReact r i).get (MEM.CRIT_W1_HIT n) = 1 ∧
    (s.critReact r i).raised MEM.page 3 ∧
    (s.get (MEM.CRIT_W0_CLASS n) = 4 → s.memx.shut = false → (s.critReact r i).pwr.warm.isSome = true) ∧
    (s.get (MEM.CRIT_W0_CLASS n) = 2 →
      (s.critReact r i).ctxEn (16 * s.get (MEM.CRIT_W1_ENG n) + s.get (MEM.CRIT_W1_CTX n)) = false)) ∧
  (∀ (r i : Nat) (s : State), s.critOf r i = [] → s.critCtx r i = [] → s.critReact r i = s))

/-- R447, R451–R453, R458, R459, R473: each interval a walker reads the next word of its region, corrects or poisons
what it finds and counts a slip; four findings of a sleep are held, further ones counted; PCLR ends poison; raw
writes store 72 bits and raw reads return them; a spare page is copied and comes into force; a full write ends
poison, and of an unreadable word a narrower one changes nothing. -/
def Obligations.RakeTestPageAndRemap : Prop :=
  (∀ (r : Fin 20) (y c : BitVec 8) (lo hi : Word) (s u : State), s.on MEM.RAKE_CFG_EN = true →
    (s.get MEM.RAKE_REG_EN).testBit r = true → s.get PWR.STAT_STATE ≠ 3 → s.isPoison r (s.walkAt r) = false →
    u = s.modMem (fun x => { x with walk := SMap.put (fun _ => 0) x.walk r.val ((s.walkAt r + 1) % regionWords r) }) →
    exec (.rakeStep r 0 y c lo hi) s = .next u ∧
    exec (.rakeStep r 1 y c lo hi) s = .next (u.panAdd r (s.walkAt r) y.toNat 0) ∧
    (s.justWritten r (s.walkAt r) = true → exec (.rakeStep r 2 y c lo hi) s = .next u) ∧
    (s.justWritten r (s.walkAt r) = false →
      exec (.rakeStep r 2 y c lo hi) s = .next (u.rakeUe r (s.walkAt r) false y.toNat c.toNat lo hi)) ∧
    exec (.rakeStep r 3 y c lo hi) s = .next (s.bump MEM.RAKE_SLIP_CNT)) ∧
  (∀ (y c : BitVec 8) (lo hi : Word) (s : State), s.get PWR.STAT_STATE = 3 → s.on MEM.RAKE_CFG_EN = true →
    (s.get MEM.RAKE_REG_EN).testBit 17 = true → s.isPoison 17 (s.walkAt 17) = false → s.walkAt 17 < 65536 →
    (s.memx.found.length < 4 → ∃ t, exec (.rakeSleepStep 2 y c lo hi) s = .next t ∧ t.isPoison 17 (s.walkAt 17) = true ∧
      t.memx.found = s.memx.found ++ [⟨true, s.walkAt 17, y.toNat, c.toNat, lo, hi⟩] ∧
      t.get MEM.UE_CNT_UE_BG = s.get MEM.UE_CNT_UE_BG) ∧
    (4 ≤ s.memx.found.length → ∃ t, exec (.rakeSleepStep 1 y c lo hi) s = .next t ∧ t.memx.found = s.memx.found ∧
      t.get MEM.SLP_LOST_CNT = min 65535 (s.get MEM.SLP_LOST_CNT + 1))) ∧
  (∀ (r : BitVec 5) (i : BitVec 21) (s : State), s.takes MEM.page →
    (20 ≤ r.toNat ∨ regionWords r.toNat ≤ i.toNat → exec (.pclr r i) s = .next (s.refuse MEM.page 0x74 eRANGE)) ∧
    (r.toNat < 18 → i.toNat < regionWords r.toNat → ∃ t, exec (.pclr r i) s = .next t ∧
      t.isPoison r.toNat i.toNat = false ∧ t.justWritten r.toNat i.toNat = true ∧ t.bytesAt (wordAddr r.toNat i.toNat) 8 = List.replicate 8 0 ∧ t.regs = s.regs)) ∧
  (∀ s : State, s.takes MEM.page →
    (s.on MEM.TEST_CFG_EN = false → exec .testWrRaw s = .next (s.refuse MEM.page 0x8C eSTATE) ∧
      exec .testRdRaw s = .next (s.refuse MEM.page 0x8C eSTATE)) ∧
    (s.on MEM.TEST_CFG_EN = true →
      (∃ t, exec .testWrRaw s = .next t ∧
        (t.isPoison 0 s.testWord = true ↔ s.reg MEM.TEST_DLO = 0 ∧ s.reg MEM.TEST_DHI = 0 ∧ s.get MEM.TEST_CHK_CHK = 0xFF) ∧
        t.bytesAt (wordAddr 0 s.testWord) 8 = leBytes 4 (s.reg MEM.TEST_DLO).toNat ++ leBytes 4 (s.reg MEM.TEST_DHI).toNat ∧
        SMap.get (fun _ => none) t.memx.raw s.testWord
          = some (s.reg MEM.TEST_DHI ++ s.reg MEM.TEST_DLO, BitVec.ofNat 8 (s.get MEM.TEST_CHK_CHK))) ∧
      (∃ t, exec .testRdRaw s = .next t ∧ (t.reg MEM.TEST_DLO).toNat = leNat (s.bytesAt (wordAddr 0 s.testWord) 8) 0 4 ∧
        (t.reg MEM.TEST_DHI).toNat = leNat (s.bytesAt (wordAddr 0 s.testWord) 8) 4 4 ∧ t.mem = s.mem ∧
        (s.isPoison 0 s.testWord = true → t.get MEM.TEST_CHK_CHK = 0xFF) ∧
        (s.isPoison 0 s.testWord = false →
          (∀ d c, SMap.get (fun _ => none) s.memx.raw s.testWord = some (d, c) → t.get MEM.TEST_CHK_CHK = c.toNat) ∧
          (SMap.get (fun _ => none) s.memx.raw s.testWord = none → t.get MEM.TEST_CHK_CHK
            = (Config.eccCheck (BitVec.ofNat 64 (leNat (s.bytesAt (wordAddr 0 s.testWord) 8) 0 8))).toNat))))) ∧
  (∀ (n : Fin 4) (p : BitVec 12) (s : State), s.takes MEM.page →
    (s.remapped p.toNat = true → exec (.remapGo n p) s = .next (s.refuse MEM.page (0x98 + 4 * n.val) mCRIT_TEST)) ∧
    (s.remapped p.toNat = false → s.on MEM.TEST_CFG_EN = false → (∀ m : Fin 4, s.on (MEM.REMAP_BUSY m) = false) →
      s.on (MEM.REMAP_ACTIVE n) = false →
      ∃ t, exec (.remapGo n p) s = .next t ∧ t.get (MEM.REMAP_PAGE n) = p.toNat ∧ t.get (MEM.REMAP_BUSY n) = 1 ∧
        t.remapped p.toNat = true ∧ t.mem = s.mem ∧ t.poison = s.poison)) ∧
  (∀ (n : Fin 4) (s : State), (s.on (MEM.REMAP_BUSY n) = true → ∃ t, exec (.remapDone n) s = .next t ∧
      t.get (MEM.REMAP_ACTIVE n) = 1 ∧ t.get (MEM.REMAP_BUSY n) = 0 ∧ t.raised MEM.page 4) ∧
    (s.on (MEM.REMAP_BUSY n) = false → exec (.remapDone n) s = .next s)) ∧
  (∀ (i : Nat) (bs : List Byte) (s : State), i < 2097152 → 1 ≤ bs.length → bs.length ≤ 8 →
    (s.unreadable 0 i = false → s.rawWord 0 i = none → bs.length < 8 →
      exec (.masterWrite (0x20000000 + 8 * i) ⟨bs, false⟩) s
        = .next { s.putBytes (0x20000000 + 8 * i) bs with resp := .ok }) ∧
    (s.unreadable 0 i = true → bs.length < 8 →
      exec (.masterWrite (0x20000000 + 8 * i) ⟨bs, false⟩) s = .next { s with resp := .busError }) ∧
    (bs.length = 8 → ∃ t, exec (.masterWrite (0x20000000 + 8 * i) ⟨bs, false⟩) s = .next t ∧
      t.isPoison 0 i = false ∧ t.rawWord 0 i = none ∧ t.bytesAt (0x20000000 + 8 * i) 8 = bs ∧ t.justWritten 0 i = true ∧
      t.regs = s.regs ∧ t.resp = .ok))

/-! ### Temperature, resets, flash and the event log (R460–R478, R503–R508) -/

/-- R460–R464: a sample shows every sensor's reading and the highest valid one; 3 samples out of range exclude a sensor;
WARN rises at T_WARN and falls 5 °C below; two samples at 135 °C shut the module down, record it and release the
line; the tenth sample below 110 °C asks for the warm reset. R466, R469: RESET needs its key and asks for a warm
reset or asserts PWR_CYC for PCYC_T; HEART restarts HB_TMO, whose expiry asks for a warm reset with ESC_WARM;
PCYC_REQ acts in every state but OFF. R467, R469, R506, R508: a warm reset that is asked for resets every page,
keeps the AON page, the lock-out latch, the lifecycle and the flash, records its cause and leaves the stage
DISARMED; one too many cycles the power instead; a power-on reset needs VIN; a brown-out disarms, releases the line
and clears the lock-out. -/
def Obligations.TemperatureAndResets : Prop :=
  ((∀ (r : List Int) (s : State), s.ps < psSLEEP → s.pwr.vinOff = false → s.memx.shut = false →
    (s.tsSample r).getS THM.MAX_T < 540 → (s.tsSample r).on THM.STAT_SOC_BLIND = false →
    exec (.tempSample r) s = .next ((s.tsSample r).modMem (fun x => { x with hot := 0 }))) ∧
  (∀ (r : List Int) (s : State), s.ps < psSLEEP → s.pwr.vinOff = false → s.memx.shut = false → s.memx.hot = 1 →
    540 ≤ (s.tsSample r).getS THM.MAX_T → ∃ t, exec (.tempSample r) s = .next t ∧ t.armed = false ∧
      (s.pwr.slp = none → t.memx.shut = true ∧ t.get THM.TSD_CNT_CNT = min 65535 (s.get THM.TSD_CNT_CNT + 1) ∧
        t.getS THM.TSD_REC0_T = (s.tsSample r).getS THM.MAX_T ∧ t.get STL.STAT_OWN_HELD = 0 ∧
        t.get SAF.SO_STAT_CMD_A = 0 ∧ t.get SAF.SO_STAT_CMD_B = 0) ∧
      (s.pwr.slp.isSome = true → t.memx.shut = false ∧ t.memx.tsdPend.isSome = true ∧ t.pwr.slp = s.pwr.slp)) ∧
  (∀ (r : List Int) (s : State), s.memx.shut = true → exec (.tempSample r) s = .next s ∨ s.ps = psSLEEP) ∧
  (∀ (r : List Int) (n : Fin 14) (s : State), s.tsFitted n = true → s.tsExcl n = false → s.memx.oor.length = 14 →
    -32768 ≤ r.getD n 0 → r.getD n 0 ≤ 32767 →
    (s.tsOne r n).getS (THM.TS_T n) = r.getD n 0 ∧
    (r.getD n 0 < -220 ∨ 700 < r.getD n 0 → s.memx.oor.getD n 0 = 2 → (s.tsOne r n).tsExcl n = true ∧
      (s.tsOne r n).get (THM.TS_OOR n) = 1 ∧ (s.tsOne r n).get (THM.TS_VALID n) = 0 ∧ (s.tsOne r n).raised THM.page 1)) ∧
  (∀ (r : List Int) (s : State) (m : Int × Nat), s.tsMax r = some m → s.tsFitted m.2 = true ∧ s.tsExcl m.2 = false ∧
    r.getD m.2 0 = m.1 ∧ ∀ n < 14, s.tsFitted n = true → s.tsExcl n = false → r.getD n 0 ≤ m.1) ∧
  (∀ (r : List Int) (s : State), (4 * (s.get THM.CFG_T_WARN : Int) ≤ (s.tsSample r).getS THM.MAX_T →
      (s.tsSample r).on THM.STAT_WARN = true) ∧
    ((s.tsSample r).getS THM.MAX_T ≤ 4 * (s.get THM.CFG_T_WARN : Int) - 20 → (s.tsSample r).on THM.STAT_WARN = false)) ∧
  (∀ (r : List Int) (s : State), s.memx.shut = true → s.ps < psSLEEP → s.pwr.vinOff = false → s.memx.cool = 9 →
    (s.tsSample r).getS THM.MAX_T < 440 → (s.tsSample r).on THM.STAT_SOC_BLIND = false → s.pwr.warm = none →
    ∃ t, exec (.tsdSample r) s = .next t ∧ t.pwr.warm = some 6 ∧ t.memx.exit = true) ∧
  (∀ (r : List Int) (s : State), s.memx.shut = false → exec (.tsdSample r) s = .next s)) ∧
  ((∀ (k : BitVec 8) (s : State), s.takes NVL.page →
    (k ≠ 0xA5 → exec (.nvlResetWarm k) s = .next (s.refuse NVL.page 0xA4 eKEY) ∧
      exec (.nvlResetPcyc k) s = .next (s.refuse NVL.page 0xA4 eKEY)) ∧
    (k = 0xA5 → exec (.nvlResetWarm k) s = .next (s.warmAsk 1) ∧ ∃ t, exec (.nvlResetPcyc k) s = .next t ∧
      t.pwr.cyc = some (s.now + s.get NVL.RCV_PCYC_PCYC_T * 10 * tMs) ∧ t.pwr.warm = none ∧ t.regs = s.regs) ∧
    (k ≠ 0x5A → exec (.heart k) s = .next (s.refuse NVL.page 0xA0 eKEY)) ∧
    (k = 0x5A → exec (.heart k) s = .next (s.modPwr (fun x => { x with heartAt := s.now })))) ∧
  (∀ (c : Nat) (s : State), s.memx.shut = false → s.pwr.warm = none → (s.warmAsk c).pwr.warm = some c) ∧
  (∀ s : State, s.get NVL.RCV_CFG_HB_TMO ≠ 0 → s.ps < psSLEEP → s.memx.shut = false → s.pwr.warm = none →
    ∃ t, exec .hbTimeout s = .next t ∧ t.now = max s.now (s.pwr.heartAt + s.get NVL.RCV_CFG_HB_TMO * tMs) ∧
      t.pwr.warm = (if s.on NVL.RCV_CFG_ESC_WARM then some 4 else none)) ∧
  (∀ s : State, s.get NVL.RCV_CFG_HB_TMO = 0 → exec .hbTimeout s = .next s) ∧
  (∀ s : State, (s.ps ≠ psOFF → s.pwr.vinOff = false → ∃ t, exec .pcycReq s = .next t ∧
      t.pwr.cyc = some (s.now + s.get NVL.RCV_PCYC_PCYC_T * 10 * tMs)) ∧
    (s.ps = psOFF → exec .pcycReq s = .next s))) ∧
  ((∀ s : State, s.pwr.warm = none → exec (.warmReset false) s = .next s) ∧
  (∀ (c : Nat) (s : State), s.pwr.warm = some c → s.secBusy = false → s.pwr.vinOff = false →
    exec (.warmReset false) s = .next (s.warmOrCyc c)) ∧
  (∀ s : State, s.pwr.warm = none → s.memx.shut = false → s.secBusy = false → s.pwr.vinOff = false →
    exec (.warmReset true) s = .next ((s.warmAsk 3).warmOrCyc 3)) ∧
  (∀ (c : Nat) (s : State), s.on NVL.RCV_CFG_ESC_PCYC = true →
    s.get NVL.RCV_CFG_WARM_MAX ≤ (s.pwr.warms.filter (fun t => decide (s.now < t + s.get NVL.RCV_CFG_WARM_WIN * tS))).length →
    s.warmOrCyc c = s.pwrCyc) ∧
  (∀ (c : Nat) (w : List Nat) (s : State), c < 16 → w.length < 256 → (s.warmReset c w).armed = false ∧
    (s.warmReset c w).get PWR.STAT_DIS_CAUSE = disRESET ∧ (s.warmReset c w).get NVL.RST_REC_CAUSE = c ∧
    (s.warmReset c w).get NVL.RST_REC_WARM_CNT = w.length ∧
    (s.on SAF.STAT_LOCKOUT = true → (s.warmReset c w).on SAF.STAT_LOCKOUT = true) ∧ (s.warmReset c w).lc = s.lc ∧
    (s.warmReset c w).get AON.WAKE_EN_RTC = s.get AON.WAKE_EN_RTC ∧ (s.warmReset c w).get AON.SLP_CNT_CNT = s.get AON.SLP_CNT_CNT ∧
    (s.warmReset c w).get NVL.RCV_CFG_HB_TMO = s.get NVL.RCV_CFG_HB_TMO ∧
    (s.warmReset c w).get STL.STAT_STATE = 0 ∧ (s.warmReset c w).get TBS.PER_CFG_PERIOD = 2500 ∧
    (s.warmReset c w).now = s.now ∧ (s.warmReset c w).nvl.nor = s.nvl.nor) ∧
  (∀ s : State, (s.pwr.switch = false → exec .powerOnReset s = .next s) ∧
    (s.pwr.switch = true → ∃ t, exec .powerOnReset s = .next t ∧ t.armed = false ∧ t.ps = psRUN ∧
      t.get NVL.RST_REC_CAUSE = 0 ∧ t.get AON.WAKE_EN_CAN = 0 ∧ t.nvl.nor = s.nvl.nor ∧
      t.lc = lcOfWord s.sec.lcWord)) ∧
  (∀ s : State, s.pwr.vinOff = false → ∃ t, exec .brownOut s = .next t ∧ t.pwr.vinOff = true ∧ t.armed = false ∧
    t.get STL.STAT_OWN_HELD = 0 ∧ t.get SAF.STAT_LOCKOUT = 0 ∧ t.mem = [] ∧ t.sec.lc = none ∧ t.nvl.nor = s.nvl.nor) ∧
  (∀ s : State, (∃ t, exec (.seatedChange false) s = .next t ∧ t.pwr.switch = false ∧ t.pwr.vinOff = true) ∧
    (s.pwr.seatAt = none → exec (.seatedChange true) s = .next (s.modPwr (fun x => { x with seatAt := some s.now }))) ∧
    (∀ a, s.pwr.seatAt = some a → s.pwr.switch = false → exec .inputSwitchClose s
      = .next ((s.advance (a + 20 * tMs)).modPwr (fun x => { x with switch := true }))) ∧
    (s.pwr.seatAt = none → exec .inputSwitchClose s = .next s)))

/-- R470: a flash command is refused at EVLOG, at the running slot, at SAFEPAR while ARMED, off its alignment and while
another runs; otherwise it runs and its completion reads into the buffer, programs or erases. R471, R477: a software
record with a code from 0x8000 is queued, a record that finds 32 waiting is lost and counted; the record at the head
is written to the ring under LOG_SEQ; LOG_IDX selects the record LOG_DATA returns. -/
def Obligations.FlashAndEventLog : Prop :=
  ((∀ (d : Bool) (s : State), s.takes NVL.page →
    ((s.nvlConds 1 d).all (fun c => !c.1) = true → ∃ t, exec (.nvlRead d) s = .next t ∧ t.get NVL.STAT_BUSY = 1 ∧
      t.nvl.cmd = some (1, d, s.get NVL.ADDR_ADDR, s.get NVL.BUF_BUF, s.get NVL.LEN_LEN)) ∧
    ((s.nvlConds 2 d).all (fun c => !c.1) = true → ∃ t, exec (.nvlProg d) s = .next t ∧ t.get NVL.STAT_BUSY = 1 ∧
      t.nvl.cmd = some (2, d, s.get NVL.ADDR_ADDR, s.get NVL.BUF_BUF, s.get NVL.LEN_LEN)) ∧
    ((s.nvlConds 3 d).all (fun c => !c.1) = true → ∃ t, exec (.nvlErase d) s = .next t ∧ t.get NVL.STAT_BUSY = 1 ∧
      t.nvl.cmd = some (3, d, s.get NVL.ADDR_ADDR, s.get NVL.BUF_BUF, s.get NVL.LEN_LEN))) ∧
  (∀ s : State, s.takes NVL.page → 0x2010000 ≤ s.get NVL.ADDR_ADDR → s.get NVL.ADDR_ADDR < 0x2210000 →
    exec (.nvlProg false) s = .next (s.refuse NVL.page 0x40 nPART_RO) ∧
    exec (.nvlErase false) s = .next (s.refuse NVL.page 0x40 nPART_RO)) ∧
  (∀ s : State, s.takes NVL.page → s.armed = true → 0x2000000 ≤ s.get NVL.ADDR_ADDR → s.get NVL.ADDR_ADDR < 0x200FF00 →
    s.get NVL.LEN_LEN ≤ 256 → exec (.nvlProg false) s = .next (s.refuse NVL.page 0x40 eARMED)) ∧
  (∀ s : State, s.nvl.cmd = none → exec .nvlCmdDone s = .next s) ∧
  (∀ (a b n : Nat) (s : State), s.nvl.cmd = some (1, false, a, b, n) → 0x20000000 + b + n < 0x21000000 →
    s.poison = [] → s.memx.raw = [] → ∃ t, exec .nvlCmdDone s = .next t ∧ t.bytesAt (0x20000000 + b) n = s.norBytes a n ∧ t.get NVL.STAT_BUSY = 0 ∧
      t.nvl.cmd = none ∧ t.raised NVL.page 0 ∧ t.nvl.nor = s.nvl.nor) ∧
  (∀ (a b n : Nat) (s : State), s.nvl.cmd = some (2, false, a, b, n) → ∃ t, exec .nvlCmdDone s = .next t ∧
    t.norBytes a (s.progBytes (0x20000000 + b) n).length = s.progBytes (0x20000000 + b) n ∧ t.mem = s.mem ∧
    t.raised NVL.page 0 ∧ ∀ x, (x < a ∨ a + (s.progBytes (0x20000000 + b) n).length ≤ x) → t.norByte x = s.norByte x) ∧
  (∀ (b n : Nat) (s : State), 0x20000000 + b + n < 0x21000000 →
    (∀ i < n, s.isPoison 0 ((b + i) / 8) = false ∧ s.rawWord 0 ((b + i) / 8) = none) →
    s.progBytes (0x20000000 + b) n = s.bytesAt (0x20000000 + b) n) ∧
  (∀ (b n i : Nat) (s : State), 0x20000000 + b + n < 0x21000000 → i < n → s.isPoison 0 ((b + i) / 8) = true →
    (s.progBytes (0x20000000 + b) n).length ≤ i) ∧
  (∀ (a b n : Nat) (s : State), s.nvl.cmd = some (3, false, a, b, n) →
    ∃ t, exec .nvlCmdDone s = .next t ∧ t.mem = s.mem ∧ t.raised NVL.page 0 ∧
      ∀ x, t.norByte x = if a ≤ x ∧ x < a + 65536 then 0xFF else s.norByte x)) ∧
  ((∀ (c : BitVec 16) (s : State), s.takes NVL.page →
    (c.toNat < 0x8000 → exec (.logPut c) s = .next (s.refuse NVL.page 0x90 eRANGE)) ∧
    (0x8000 ≤ c.toNat → exec (.logPut c) s
      = .next (s.log 0 c.toNat (s.reg NVL.LOG_SW0).toNat (s.reg NVL.LOG_SW1).toNat))) ∧
  (∀ (pg e a b : Nat) (s : State), (s.logQ.length < 32 → (s.log pg e a b).logQ = s.logQ ++ [⟨(s.stAt s.now).toNat, s.pidx, pg, e, a, b⟩] ∧
      (s.log pg e a b).regs = s.regs) ∧
    (32 ≤ s.logQ.length → (s.log pg e a b).logQ = s.logQ ∧ (s.log pg e a b).raised NVL.page 1 ∧
      (s.log pg e a b).get NVL.LOG_LOST_CNT = min 4294967295 (s.get NVL.LOG_LOST_CNT + 1))) ∧
  (∀ s : State, s.logQ = [] ∨ s.pwr.vinOff = true ∨ psSLEEP ≤ s.ps → exec .logRecordWrite s = .next s) ∧
  (∀ (r : LogRec) (q : List LogRec) (s : State), s.logQ = r :: q → s.pwr.vinOff = false → s.ps < psSLEEP → r.pg % 4096 = 0 → ∃ t,
    exec .logRecordWrite s = .next t ∧ t.logQ = q ∧ t.get NVL.LOG_SEQ_SEQ = (s.get NVL.LOG_SEQ_SEQ + 1) % 2 ^ 32 ∧
    t.norBytes (logAddr (s.get NVL.LOG_SEQ_SEQ)) 32 = s.logBytes (s.get NVL.LOG_SEQ_SEQ) r ∧
    (s.get NVL.LOG_SEQ_SEQ % 2048 = 0 → s.norUsed (logAddr (s.get NVL.LOG_SEQ_SEQ)) = true → t.raised NVL.page 2 ∧
      t.get NVL.LOG_OLD_SEQ = (s.get NVL.LOG_SEQ_SEQ + 2 ^ 32 - 65536 + 2048) % 2 ^ 32)) ∧
  (∀ (v : Word) (s : State), s.takes NVL.page → ∃ t, exec (.logSelect v) s = .next t ∧ t.reg NVL.LOG_IDX = v ∧
    (∀ j : Fin 8, (t.reg (NVL.LOG_DATA j)).toNat = leNat (s.norBytes (logAddr v.toNat) 32) (4 * j) 4) ∧
    (t.on NVL.LOG_RSTAT_GONE = true ↔ (v.toNat < s.get NVL.LOG_OLD_SEQ ∧
      ¬ (s.get NVL.LOG_SEQ_SEQ < s.get NVL.LOG_OLD_SEQ ∧ v.toNat < s.get NVL.LOG_SEQ_SEQ))) ∧ t.mem = s.mem))
end

