-- ==== Sys2Proof/Laws/SMap.lean ====
section
/-! SUPPORT. The laws of sparse maps in canonical form: a read after a write, the untouched keys, and the canonical
form itself, which every write keeps. -/

namespace Sys2Proof.Machine

theorem SMap.look_ins_self {α : Type} (m : SMap α) (k : Nat) (v : α) : SMap.look (SMap.ins m k v) k = some v := by
  induction m with
  | nil => simp [SMap.ins, SMap.look]
  | cons p t ih =>
    obtain ⟨a, w⟩ := p
    unfold SMap.ins
    split
    · simp [SMap.look]
    · split
      · simp [SMap.look]
      · next h => simp [SMap.look, Ne.symm h, ih]

theorem SMap.look_ins_of_ne {α : Type} (m : SMap α) {k j : Nat} (v : α) (h : j ≠ k) :
    SMap.look (SMap.ins m k v) j = SMap.look m j := by
  induction m with
  | nil => simp [SMap.ins, SMap.look, Ne.symm h]
  | cons p t ih =>
    obtain ⟨a, w⟩ := p
    unfold SMap.ins
    split
    · simp [SMap.look, Ne.symm h]
    · split
      · next _ e => subst e; simp [SMap.look, Ne.symm h]
      · simp only [SMap.look, ih]

theorem SMap.look_del_self {α : Type} (m : SMap α) (k : Nat) : SMap.look (SMap.del m k) k = none := by
  induction m with
  | nil => rfl
  | cons p t ih =>
    obtain ⟨a, w⟩ := p
    by_cases h : a = k
    · subst h; simpa [SMap.del] using ih
    · have : SMap.del ((a, w) :: t) k = (a, w) :: SMap.del t k := by simp [SMap.del, h]
      rw [this]; simp [SMap.look, h, ih]

theorem SMap.look_del_of_ne {α : Type} (m : SMap α) {k j : Nat} (h : j ≠ k) :
    SMap.look (SMap.del m k) j = SMap.look m j := by
  induction m with
  | nil => rfl
  | cons p t ih =>
    obtain ⟨a, w⟩ := p
    by_cases e : a = k
    · subst e
      have : SMap.del ((a, w) :: t) a = SMap.del t a := by simp [SMap.del]
      rw [this, ih]; simp [SMap.look, Ne.symm h]
    · have : SMap.del ((a, w) :: t) k = (a, w) :: SMap.del t k := by simp [SMap.del, e]
      rw [this]; simp [SMap.look, ih]

/-- A read after a write of the same key gives the value written. -/
@[simp] theorem SMap.get_put_self {α : Type} [DecidableEq α] (d : Nat → α) (m : SMap α) (k : Nat) (v : α) :
    SMap.get d (SMap.put d m k v) k = v := by
  unfold SMap.get SMap.put
  split
  · next h => simp [SMap.look_del_self, h]
  · simp [SMap.look_ins_self]

/-- A write leaves every other key alone. -/
theorem SMap.get_put_of_ne {α : Type} [DecidableEq α] (d : Nat → α) (m : SMap α) {k j : Nat} (v : α) (h : j ≠ k) :
    SMap.get d (SMap.put d m k v) j = SMap.get d m j := by
  unfold SMap.get SMap.put
  split
  · simp [SMap.look_del_of_ne _ h]
  · simp [SMap.look_ins_of_ne _ _ h]

theorem SMap.get_put {α : Type} [DecidableEq α] (d : Nat → α) (m : SMap α) (k j : Nat) (v : α) :
    SMap.get d (SMap.put d m k v) j = if j = k then v else SMap.get d m j := by
  split
  · next h => subst h; simp
  · next h => exact SMap.get_put_of_ne d m v h

/-- The canonical form, said of all pairs at once. -/
theorem SMap.wf_iff {α : Type} [DecidableEq α] (d : Nat → α) (m : SMap α) :
    SMap.wf d m = true ↔ m.Pairwise (fun p q => p.1 < q.1) ∧ ∀ p ∈ m, p.2 ≠ d p.1 := by
  induction m with
  | nil => simp [SMap.wf]
  | cons p t ih =>
    obtain ⟨a, v⟩ := p
    cases t with
    | nil => simp [SMap.wf]
    | cons q t =>
      obtain ⟨b, w⟩ := q
      simp only [SMap.wf, Bool.and_eq_true, decide_eq_true_eq, Bool.not_eq_true', decide_eq_false_iff_not, ih,
        List.pairwise_cons, List.mem_cons]
      constructor
      · rintro ⟨⟨h1, h2⟩, ⟨h3, h4⟩, h5⟩
        refine ⟨⟨?_, h3, h4⟩, ?_⟩
        · rintro p (rfl | hp)
          · exact h1
          · exact Nat.lt_trans h1 (h3 p hp)
        · rintro p (rfl | rfl | hp)
          · exact h2
          · exact h5 _ (.inl rfl)
          · exact h5 _ (.inr hp)
      · rintro ⟨⟨h1, h3, h4⟩, h5⟩
        exact ⟨⟨h1 _ (.inl rfl), h5 _ (.inl rfl)⟩, ⟨h3, h4⟩, fun p hp => h5 p (.inr hp)⟩

theorem SMap.mem_ins {α : Type} (m : SMap α) (k : Nat) (v : α) {p : Nat × α} (h : p ∈ SMap.ins m k v) :
    p = (k, v) ∨ p ∈ m := by
  induction m with
  | nil => simpa [SMap.ins] using h
  | cons q t ih =>
    obtain ⟨a, w⟩ := q
    unfold SMap.ins at h
    split at h
    · simpa using h
    · split at h
      · simp only [List.mem_cons] at h ⊢; tauto
      · simp only [List.mem_cons] at h ⊢
        rcases h with h | h
        · exact .inr (.inl h)
        · rcases ih h with h | h
          · exact .inl h
          · exact .inr (.inr h)

theorem SMap.pairwise_ins {α : Type} (m : SMap α) (k : Nat) (v : α) (h : m.Pairwise (fun p q => p.1 < q.1)) :
    (SMap.ins m k v).Pairwise (fun p q => p.1 < q.1) := by
  induction m with
  | nil => simp [SMap.ins]
  | cons q t ih =>
    obtain ⟨a, w⟩ := q
    have ⟨ha, ht⟩ := List.pairwise_cons.1 h
    unfold SMap.ins
    split
    · next hk =>
      refine List.pairwise_cons.2 ⟨?_, h⟩
      intro p hp
      rcases List.mem_cons.1 hp with rfl | hp
      · exact hk
      · exact Nat.lt_trans hk (ha p hp)
    · split
      · next e => subst e; exact List.pairwise_cons.2 ⟨ha, ht⟩
      · next h1 h2 =>
        refine List.pairwise_cons.2 ⟨?_, ih ht⟩
        intro p hp
        rcases SMap.mem_ins t k v hp with rfl | hp
        · show a < k; omega
        · exact ha p hp

/-- Every write keeps the canonical form. -/
theorem SMap.wf_put {α : Type} [DecidableEq α] (d : Nat → α) (m : SMap α) (k : Nat) (v : α)
    (h : SMap.wf d m = true) : SMap.wf d (SMap.put d m k v) = true := by
  obtain ⟨h1, h2⟩ := (SMap.wf_iff d m).1 h
  refine (SMap.wf_iff d _).2 ?_
  unfold SMap.put
  split
  · exact ⟨h1.filter _, fun p hp => h2 p (List.mem_of_mem_filter hp)⟩
  · next hv =>
    refine ⟨SMap.pairwise_ins m k v h1, fun p hp => ?_⟩
    rcases SMap.mem_ins m k v hp with rfl | hp
    · exact hv
    · exact h2 p hp

/-- Two maps in canonical form that read the same everywhere are equal. -/
theorem SMap.ext_of_get {α : Type} [DecidableEq α] (d : Nat → α) : ∀ (m n : SMap α), SMap.wf d m = true →
    SMap.wf d n = true → (∀ k, SMap.get d m k = SMap.get d n k) → m = n
  | m, n, hm, hn, h => by
    obtain ⟨m1, m2⟩ := (SMap.wf_iff d m).1 hm
    obtain ⟨n1, n2⟩ := (SMap.wf_iff d n).1 hn
    have lk : ∀ (l : SMap α), l.Pairwise (fun p q => p.1 < q.1) → ∀ p ∈ l, SMap.look l p.1 = some p.2 := by
      intro l hl
      induction l with
      | nil => simp
      | cons q t ih =>
        obtain ⟨ha, ht⟩ := List.pairwise_cons.1 hl
        intro p hp
        rcases List.mem_cons.1 hp with rfl | hq
        · simp [SMap.look]
        · have := ha p hq
          have hne : q.1 ≠ p.1 := by omega
          obtain ⟨a, w⟩ := q
          simp only [SMap.look, if_neg hne, ih ht p hq]
    have inv : ∀ (l : SMap α) k v, SMap.look l k = some v → (k, v) ∈ l := by
      intro l k v
      induction l with
      | nil => simp [SMap.look]
      | cons q t ih =>
        obtain ⟨a, w⟩ := q
        unfold SMap.look
        split
        · next e => subst e; intro hv; cases hv; simp
        · intro hv; exact List.mem_cons_of_mem _ (ih hv)
    have sub : ∀ (l l' : SMap α), l.Pairwise (fun p q => p.1 < q.1) → (∀ p ∈ l, p.2 ≠ d p.1) →
        (∀ k, SMap.get d l k = SMap.get d l' k) → ∀ p ∈ l, p ∈ l' := by
      intro l l' hl hd hk p hp
      have e := hk p.1
      rw [SMap.get, lk l hl p hp, Option.getD_some, SMap.get] at e
      cases hl' : SMap.look l' p.1 with
      | none => rw [hl', Option.getD_none] at e; exact absurd e (hd p hp)
      | some v => rw [hl', Option.getD_some] at e; exact inv l' _ _ (by rw [hl', e])
    have irr : ∀ p q : Nat × α, p.1 < q.1 → q.1 < p.1 → p = q := fun p q h1 h2 => by omega
    have nd : ∀ (l : SMap α), l.Pairwise (fun p q => p.1 < q.1) → l.Nodup :=
      fun l hl => hl.imp (fun hlt e => by rw [e] at hlt; exact lt_irrefl _ hlt)
    have perm : m.Perm n := (List.perm_ext_iff_of_nodup (nd m m1) (nd n n1)).2 fun p =>
      ⟨sub m n m1 m2 h p, sub n m n1 n2 (fun k => (h k).symm) p⟩
    exact perm.eq_of_pairwise (fun p q _ _ => irr p q) m1 n1

end Sys2Proof.Machine
end

