-- ==== Sys2Proof/Laws/State.lean ====
section
/-! SUPPORT. The laws of the state's accessors: what a read gives after each kind of write, for register words, fields,
claims, memory and the per-unit structures. -/

namespace Sys2Proof.Machine

/-! ### Bits -/

theorem getBits_putBits_self (x : Word) (lo w v : Nat) (h : lo + w ≤ 32) :
    getBits (putBits x lo w v) lo w = v % 2 ^ w := by
  apply Nat.eq_of_testBit_eq
  intro i
  simp only [getBits, putBits, Nat.testBit_mod_two_pow, Nat.testBit_shiftRight, BitVec.testBit_toNat,
    BitVec.getLsbD_or, BitVec.getLsbD_and, BitVec.getLsbD_not, BitVec.getLsbD_ofNat, Nat.testBit_shiftLeft,
    Nat.testBit_two_pow_sub_one]
  by_cases hi : i < w
  · have hl : lo + i < 32 := by omega
    simp [hi, hl]
  · simp [hi]

theorem getBits_putBits_apart (x : Word) (lo w v lo' w' : Nat) (h : lo + w ≤ lo' ∨ lo' + w' ≤ lo) :
    getBits (putBits x lo w v) lo' w' = getBits x lo' w' := by
  apply Nat.eq_of_testBit_eq
  intro i
  simp only [getBits, putBits, Nat.testBit_mod_two_pow, Nat.testBit_shiftRight]
  by_cases hi : i < w'
  · simp only [BitVec.testBit_toNat, BitVec.getLsbD_or, BitVec.getLsbD_and, BitVec.getLsbD_not, BitVec.getLsbD_ofNat,
      Nat.testBit_shiftLeft, Nat.testBit_two_pow_sub_one, Nat.testBit_mod_two_pow]
    by_cases hl : lo' + i < 32
    · rcases h with h | h
      · have h1 : lo ≤ lo' + i := by omega
        have h2 : ¬ lo' + i - lo < w := by omega
        simp [hl, h1, h2]
      · have h1 : ¬ lo ≤ lo' + i := by omega
        simp [hl, h1]
    · have : x.getLsbD (lo' + i) = false := BitVec.getLsbD_of_ge _ _ (by omega)
      simp [hl, this]
  · simp [hi]

/-- A field's value is a number of its width. -/
theorem getBits_lt (x : Word) (lo w : Nat) : getBits x lo w < 2 ^ w := Nat.mod_lt _ (Nat.two_pow_pos w)

/-! ### Registers and fields -/

/-- Two fields share no bit. -/
abbrev Fld.apart (f g : Fld) : Prop := f.addr ≠ g.addr ∨ f.lo + f.w ≤ g.lo ∨ g.lo + g.w ≤ f.lo

@[simp] theorem State.reg_setReg_self (s : State) (a : Nat) (w : Word) : (s.setReg a w).reg a = w := by
  simp [State.reg, State.setReg]

theorem State.reg_setReg_of_ne (s : State) {a b : Nat} (w : Word) (h : b ≠ a) : (s.setReg a w).reg b = s.reg b := by
  simp [State.reg, State.setReg, SMap.get_put_of_ne _ _ _ h]

theorem State.reg_setReg (s : State) (a b : Nat) (w : Word) :
    (s.setReg a w).reg b = if b = a then w else s.reg b := by
  simp [State.reg, State.setReg, SMap.get_put]

theorem State.reg_set_of_ne (s : State) (f : Fld) (v : Nat) {b : Nat} (h : b ≠ f.addr) : (s.set f v).reg b = s.reg b :=
  s.reg_setReg_of_ne _ h

/-- A field reads what was written to it, cut to its width. -/
theorem State.get_set_self (s : State) (f : Fld) (v : Nat) (h : f.lo + f.w ≤ 32) : (s.set f v).get f = v % 2 ^ f.w := by
  simp [State.get, State.set, getBits_putBits_self _ _ _ _ h]

/-- Writing a field leaves every field that shares no bit with it alone. -/
theorem State.get_set_apart (s : State) (f g : Fld) (v : Nat) (h : f.apart g) : (s.set f v).get g = s.get g := by
  unfold State.get State.set
  by_cases e : g.addr = f.addr
  · rw [e, State.reg_setReg_self]
    rcases h with h | h
    · exact absurd e.symm h
    · exact getBits_putBits_apart _ _ _ _ _ _ h
  · rw [State.reg_setReg_of_ne _ _ e]

theorem State.get_lt (s : State) (f : Fld) : s.get f < 2 ^ f.w := getBits_lt _ _ _

/-- An event sets its IRQ_RAW bit and touches no other register. -/
theorem State.reg_irq (s : State) (pg bit a : Nat) : (s.irq pg bit).reg a =
    if a = pg + 0x14 then s.reg a ||| BitVec.ofNat 32 (1 <<< bit) else s.reg a := by
  unfold State.irq
  rw [State.reg_setReg]
  split
  · next h => rw [h]; rfl
  · rfl

theorem State.get_irq_of_ne (s : State) (pg bit : Nat) (g : Fld) (h : g.addr ≠ pg + 0x14) :
    (s.irq pg bit).get g = s.get g := by
  simp [State.get, State.reg_irq, h]

/-! ### What a register write leaves alone -/

section regwrites
variable (s : State) (a v : Nat) (w : Word) (f : Fld) (b : Bool)

@[simp] theorem State.setReg_pending : (s.setReg a w).pending = s.pending := rfl
@[simp] theorem State.setReg_now : (s.setReg a w).now = s.now := rfl
@[simp] theorem State.setReg_freeN : (s.setReg a w).freeN = s.freeN := rfl
@[simp] theorem State.setReg_straps : (s.setReg a w).straps = s.straps := rfl
@[simp] theorem State.setReg_mem : (s.setReg a w).mem = s.mem := rfl
@[simp] theorem State.setReg_resp : (s.setReg a w).resp = s.resp := rfl
@[simp] theorem State.setReg_errRead : (s.setReg a w).errRead = s.errRead := rfl
@[simp] theorem State.setReg_reinit : (s.setReg a w).reinit = s.reinit := rfl
@[simp] theorem State.setReg_claims : (s.setReg a w).claims = s.claims := rfl
@[simp] theorem State.setReg_logQ : (s.setReg a w).logQ = s.logQ := rfl
@[simp] theorem State.setReg_pidx : (s.setReg a w).pidx = s.pidx := rfl
@[simp] theorem State.setReg_bndAt : (s.setReg a w).bndAt = s.bndAt := rfl
@[simp] theorem State.setReg_window : (s.setReg a w).window = s.window := rfl
@[simp] theorem State.setReg_perPend : (s.setReg a w).perPend = s.perPend := rfl
@[simp] theorem State.setReg_slack : (s.setReg a w).slack = s.slack := rfl
@[simp] theorem State.setReg_ovrRun : (s.setReg a w).ovrRun = s.ovrRun := rfl
@[simp] theorem State.setReg_ovrSeen : (s.setReg a w).ovrSeen = s.ovrSeen := rfl
@[simp] theorem State.setReg_pubs : (s.setReg a w).pubs = s.pubs := rfl
@[simp] theorem State.setReg_cells : (s.setReg a w).cells = s.cells := rfl
@[simp] theorem State.setReg_stks : (s.setReg a w).stks = s.stks := rfl
@[simp] theorem State.setReg_dsvs : (s.setReg a w).dsvs = s.dsvs := rfl
@[simp] theorem State.setReg_dsvDone : (s.setReg a w).dsvDone = s.dsvDone := rfl
@[simp] theorem State.setReg_chans : (s.setReg a w).chans = s.chans := rfl
@[simp] theorem State.setReg_lanes : (s.setReg a w).lanes = s.lanes := rfl
@[simp] theorem State.setReg_latches : (s.setReg a w).latches = s.latches := rfl
@[simp] theorem State.setReg_evAt : (s.setReg a w).evAt = s.evAt := rfl
@[simp] theorem State.setReg_evs : (s.setReg a w).evs = s.evs := rfl
@[simp] theorem State.setReg_tripAt : (s.setReg a w).tripAt = s.tripAt := rfl
@[simp] theorem State.setReg_rearmed : (s.setReg a w).rearmed = s.rearmed := rfl
@[simp] theorem State.setReg_aiBnd : (s.setReg a w).aiBnd = s.aiBnd := rfl
@[simp] theorem State.setReg_trpIn : (s.setReg a w).trpIn = s.trpIn := rfl
@[simp] theorem State.setReg_srcAct : (s.setReg a w).srcAct = s.srcAct := rfl
@[simp] theorem State.setReg_inactAt : (s.setReg a w).inactAt = s.inactAt := rfl
@[simp] theorem State.setReg_firstAt : (s.setReg a w).firstAt = s.firstAt := rfl
@[simp] theorem State.setReg_haltMode : (s.setReg a w).haltMode = s.haltMode := rfl
@[simp] theorem State.setReg_halts : (s.setReg a w).halts = s.halts := rfl
@[simp] theorem State.setReg_frozen : (s.setReg a w).frozen = s.frozen := rfl
@[simp] theorem State.setReg_legBlk : (s.setReg a w).legBlk = s.legBlk := rfl
@[simp] theorem State.setReg_legWait : (s.setReg a w).legWait = s.legWait := rfl
@[simp] theorem State.setReg_aiLast : (s.setReg a w).aiLast = s.aiLast := rfl
@[simp] theorem State.setReg_gapSample : (s.setReg a w).gapSample = s.gapSample := rfl
@[simp] theorem State.setReg_epochAt : (s.setReg a w).epochAt = s.epochAt := rfl
@[simp] theorem State.setReg_pairKeys : (s.setReg a w).pairKeys = s.pairKeys := rfl
@[simp] theorem State.setReg_le : (s.setReg a w).le = s.le := rfl
@[simp] theorem State.setReg_aiInst : (s.setReg a w).aiInst = s.aiInst := rfl
@[simp] theorem State.setReg_aiValAt : (s.setReg a w).aiValAt = s.aiValAt := rfl
@[simp] theorem State.setReg_mcx : (s.setReg a w).mcx = s.mcx := rfl
@[simp] theorem State.setReg_isls : (s.setReg a w).isls = s.isls := rfl
@[simp] theorem State.setReg_polHist : (s.setReg a w).polHist = s.polHist := rfl
@[simp] theorem State.setReg_adcs : (s.setReg a w).adcs = s.adcs := rfl
@[simp] theorem State.setReg_poison : (s.setReg a w).poison = s.poison := rfl
@[simp] theorem State.setReg_trl : (s.setReg a w).trl = s.trl := rfl
@[simp] theorem State.setReg_stl : (s.setReg a w).stl = s.stl := rfl
@[simp] theorem State.setReg_saf : (s.setReg a w).saf = s.saf := rfl
@[simp] theorem State.setReg_cans : (s.setReg a w).cans = s.cans := rfl
@[simp] theorem State.setReg_eths : (s.setReg a w).eths = s.eths := rfl
@[simp] theorem State.setReg_pwr : (s.setReg a w).pwr = s.pwr := rfl
@[simp] theorem State.setReg_sec : (s.setReg a w).sec = s.sec := rfl
@[simp] theorem State.setReg_memx : (s.setReg a w).memx = s.memx := rfl
@[simp] theorem State.setReg_nvl : (s.setReg a w).nvl = s.nvl := rfl
@[simp] theorem State.setReg_dmaN : (s.setReg a w).dmaN = s.dmaN := rfl

/-- A field write is a register write. -/
theorem State.set_eq : s.set f v = s.setReg f.addr (putBits (s.reg f.addr) f.lo f.w v) := rfl
theorem State.setB_eq : s.setB f b = s.set f (if b then 1 else 0) := rfl

end regwrites

/-! ### Memory -/

theorem State.byte_setByte (s : State) (a b : Nat) (x : Byte) :
    (s.setByte a x).byte b = if b = a then x else s.byte b := by
  simp [State.byte, State.setByte, SMap.get_put]

/-- Storing a byte keeps the canonical form of memory. -/
theorem State.setByte_wf (s : State) (a : Nat) (x : Byte) (h : Memory.wf s.mem = true) :
    Memory.wf (s.setByte a x).mem = true := SMap.wf_put _ _ _ _ h

/-- Storing a word keeps the canonical form of memory. -/
theorem State.setMword_wf (s : State) (a : Nat) (w : Word) (h : Memory.wf s.mem = true) :
    Memory.wf (s.setMword a w).mem = true :=
  State.setByte_wf _ _ _ (State.setByte_wf _ _ _ (State.setByte_wf _ _ _ (State.setByte_wf _ _ _ h)))

/-- Every register write keeps the canonical form of the register map. -/
theorem State.setReg_wf (s : State) (a : Nat) (w : Word) (h : SMap.wf resetWord s.regs = true) :
    SMap.wf resetWord (s.setReg a w).regs = true := SMap.wf_put _ _ _ _ h

/-! ### Claims and per-unit structures: a read after a write -/

theorem State.claim_setClaim (s : State) (r q : Nat) (c : Claim) :
    (s.setClaim r c).claim q = if q = r then c else s.claim q := by
  simp [State.claim, State.setClaim, SMap.get_put]

theorem State.cell_setCell (s : State) (n m : Nat) (c : Cell) :
    (s.setCell n c).cell m = if m = n then c else s.cell m := by
  simp [State.cell, State.setCell, SMap.get_put]

theorem State.lane_setLane (s : State) (n m : Nat) (c : Lane) :
    (s.setLane n c).lane m = if m = n then c else s.lane m := by
  simp [State.lane, State.setLane, SMap.get_put]

theorem State.chan_setChan (s : State) (n m : Nat) (c : Chan) :
    (s.setChan n c).chan m = if m = n then c else s.chan m := by
  simp [State.chan, State.setChan, SMap.get_put]

theorem State.stack_setStack (s : State) (n m : Nat) (c : Stack) :
    (s.setStack n c).stack m = if m = n then c else s.stack m := by
  simp [State.stack, State.setStack, SMap.get_put]

theorem State.dsv_setDsv (s : State) (n m : Nat) (c : Dsv) :
    (s.setDsv n c).dsv m = if m = n then c else s.dsv m := by
  simp [State.dsv, State.setDsv, SMap.get_put]

theorem State.eng_setEng (s : State) (n m : Nat) (c : LeEng) :
    (s.setEng n c).eng m = if m = n then c else s.eng m := by
  simp [State.eng, State.setEng, SMap.get_put]

theorem State.lectx_setLectx (s : State) (n m : Nat) (c : LeCtx) :
    (s.setLectx n c).lectx m = if m = n then c else s.lectx m := by
  simp [State.lectx, State.setLectx, SMap.get_put]

theorem State.island_setIsland (s : State) (n m : Nat) (c : Isl) :
    (s.setIsland n c).island m = if m = n then c else s.island m := by
  simp [State.island, State.setIsland, SMap.get_put]

theorem State.pair_setPair (s : State) (n m : Nat) (c : AdcP) :
    (s.setPair n c).pair m = if m = n then c else s.pair m := by
  simp [State.pair, State.setPair, SMap.get_put]

/-! ### The judgement of a write (R401, R484, R486) -/

/-- A write to a page whose domain is gated has no effect (R401). -/
theorem State.judge_gated (s : State) (pg ofs : Nat) (c : List (Bool × Nat)) (k : State → State)
    (h : s.pageGated pg = true) : s.judge pg ofs c k = s := by
  simp [State.judge, h]

/-- A write that meets no condition of refusal on a page that is neither gated nor busy is carried out (R486). -/
theorem State.judge_run (s : State) (pg ofs : Nat) (c : List (Bool × Nat)) (k : State → State)
    (hg : s.pageGated pg = false) (hb : s.busy pg = false) (hc : ∀ x ∈ c, x.1 = false) :
    s.judge pg ofs c k = k s := by
  have hf : ∀ p : Bool × Nat → Bool, (∀ x, p x = true → x.1 = true) → c.find? p = none := fun p hp =>
    List.find?_eq_none.2 fun x hx hpx => by have := hp x hpx; rw [hc x hx] at this; exact Bool.noConfusion this
  have hK := hf (fun x => x.1 && x.2 == eKEY) (by simp)
  have hR := hf (fun x => x.1 && x.2 == eRANGE) (by simp)
  have hA := hf (fun x => x.1) (by simp)
  simp only [State.judge, hg, hb, hK, hR, hA, Bool.false_eq_true, if_false]

/-- Whatever a judged write does, it is one of three: nothing, a refusal, or the operation (R486). -/
theorem State.judge_cases (s : State) (pg ofs : Nat) (c : List (Bool × Nat)) (k : State → State) :
    s.judge pg ofs c k = s ∨ (∃ code, s.judge pg ofs c k = s.refuse pg ofs code) ∨ s.judge pg ofs c k = k s := by
  unfold State.judge
  split
  · exact .inl rfl
  split
  · exact .inr (.inl ⟨_, rfl⟩)
  split
  · exact .inr (.inl ⟨_, rfl⟩)
  split
  · exact .inr (.inl ⟨_, rfl⟩)
  split
  · exact .inr (.inl ⟨_, rfl⟩)
  · exact .inr (.inr rfl)

/-! ### Time -/

/-- The clock never goes back. -/
theorem State.advance_now (s : State) (t : Nat) : s.now ≤ (s.advance t).now ∧ t ≤ (s.advance t).now :=
  ⟨Nat.le_max_left _ _, Nat.le_max_right _ _⟩

end Sys2Proof.Machine
end

