-- ==== Sys2Proof/Laws/Fields.lean ====
section
/-! SUPPORT. Reading a field after a write, an event or an open write: the lemmas that settle what a register shows
after a chain of updates. -/

namespace Sys2Proof.Machine

/-- A flag reads as it was written. -/
theorem State.get_setB_self (s : State) (f : Fld) (b : Bool) (h : f.lo + f.w ≤ 32) (hw : f.w = 1) :
    (s.setB f b).get f = if b then 1 else 0 := by
  rw [State.setB_eq, State.get_set_self _ _ _ h, hw]
  cases b <;> rfl

/-- Writing a flag leaves every field that shares no bit with it alone. -/
theorem State.get_setB_apart (s : State) (f g : Fld) (b : Bool) (h : f.apart g) : (s.setB f b).get g = s.get g := by
  rw [State.setB_eq, State.get_set_apart _ _ _ _ h]

/-- A field reads the same where its register does. -/
theorem State.get_congr {s t : State} (g : Fld) (h : t.reg g.addr = s.reg g.addr) : t.get g = s.get g := by
  simp [State.get, h]

/-- An event stands after it is raised. -/
theorem State.raised_irq (s : State) (pg bit : Nat) (h : bit < 32) : (s.irq pg bit).raised pg bit := by
  unfold State.raised
  rw [State.reg_irq, if_pos rfl, BitVec.getLsbD_or, BitVec.getLsbD_ofNat]
  simp [h]

/-- A write to another register raises and clears no event. -/
theorem State.raised_set (s : State) (pg bit : Nat) (f : Fld) (v : Nat) (h : f.addr ≠ HDR.IRQ_RAW pg) :
    (s.set f v).raised pg bit ↔ s.raised pg bit := by
  unfold State.raised
  rw [State.reg_set_of_ne _ _ _ (Ne.symm h)]

/-- An event raised stands whatever other event is raised. -/
theorem State.raised_irq_of (s : State) (pg bit q b : Nat) (h : s.raised pg bit) : (s.irq q b).raised pg bit := by
  unfold State.raised at *
  rw [State.reg_irq]
  split
  · rw [BitVec.getLsbD_or, h, Bool.true_or]
  · exact h

/-- A write that meets no condition of refusal, on a page that takes writes, runs. -/
theorem State.judge_takes {s : State} {pg ofs : Nat} {c : List (Bool × Nat)} {k : State → State} (h : s.takes pg)
    (hc : ∀ x ∈ c, x.1 = false) : s.judge pg ofs c k = k s :=
  State.judge_run s pg ofs c k h.1 h.2 (by simpa using hc)

/-- A refusal changes ERR_CODE of its page and no other register. -/
theorem State.reg_refuse (s : State) (pg ofs code a : Nat) (h : a ≠ HDR.ERR_CODE pg) :
    (s.refuse pg ofs code).reg a = s.reg a := by
  have e : ∀ (t : State) (l : List Nat), ({ t with errRead := l } : State).reg a = t.reg a := fun _ _ => rfl
  have h1 : a ≠ (HDR.ERR_CODE_CODE pg).addr := h
  have h2 : a ≠ (HDR.ERR_CODE_OFS pg).addr := h
  have h3 : a ≠ (HDR.ERR_CODE_MULTI pg).addr := h
  simp only [State.refuse, e, State.setB_eq]
  rw [State.reg_set_of_ne _ _ _ h2, State.reg_set_of_ne _ _ _ h1, State.reg_set_of_ne _ _ _ h3]

/-- A refusal reports its code, as the block defines it, and the offset of the write (R486). -/
theorem State.refuse_code (s : State) (pg ofs code : Nat) :
    (s.refuse pg ofs code).get (HDR.ERR_CODE_CODE pg) = blockCode pg code % 256 ∧
      (s.refuse pg ofs code).get (HDR.ERR_CODE_OFS pg) = ofs % 4096 := by
  have e : ∀ (t : State) (l : List Nat) (g : Fld), ({ t with errRead := l } : State).get g = t.get g :=
    fun _ _ _ => rfl
  have ha : (HDR.ERR_CODE_OFS pg).apart (HDR.ERR_CODE_CODE pg) := Or.inr (Or.inr (by show 0 + 8 ≤ 8; decide))
  simp only [State.refuse, e]
  rw [State.get_set_apart _ _ _ _ ha, State.get_set_self _ _ _ (by show 0 + 8 ≤ 32; decide),
    State.get_set_self _ _ _ (by show 8 + 12 ≤ 32; decide)]
  exact ⟨rfl, rfl⟩

end Sys2Proof.Machine
end

