-- ==== Sys2Proof/Laws/Frames.lean ====
section
/-! SUPPORT. Bytes of a number and the CRC of a frame (R153): the CRC fits four bytes, four bytes read back as the
number they spell, and a body closed by its CRC passes the CRC check. -/

namespace Sys2Proof.Machine

theorem crcByte_lt (poly c : Nat) (b : Byte) (hp : poly < 2 ^ 32) (hc : c < 2 ^ 32) : crcByte poly c b < 2 ^ 32 := by
  have one : ∀ x : Nat, x < 2 ^ 32 → (if x % 2 = 1 then (x / 2) ^^^ poly else x / 2) < 2 ^ 32 := by
    intro x hx
    split
    · exact Nat.xor_lt_two_pow (by omega) hp
    · omega
  have step : ∀ (l : List Nat) (x : Nat), x < 2 ^ 32 →
      l.foldl (fun c _ => if c % 2 = 1 then (c / 2) ^^^ poly else c / 2) x < 2 ^ 32 := by
    intro l
    induction l with
    | nil => intro x hx; exact hx
    | cons a t ih => intro x hx; exact ih _ (one x hx)
  exact step _ _ (Nat.xor_lt_two_pow hc (by have := b.isLt; omega))

theorem crcBytes_lt (poly : Nat) (hp : poly < 2 ^ 32) :
    ∀ (l : List Byte) (c : Nat), c < 2 ^ 32 → l.foldl (crcByte poly) c < 2 ^ 32 := by
  intro l
  induction l with
  | nil => intro c hc; exact hc
  | cons a t ih => intro c hc; exact ih _ (crcByte_lt _ _ _ hp hc)

theorem crcBytes_xor_lt (bs : List Byte) (x poly : Nat) (hx : x < 2 ^ 32) (hp : poly < 2 ^ 32) :
    (bs.foldl (crcByte poly) x) ^^^ x < 2 ^ 32 := Nat.xor_lt_two_pow (crcBytes_lt poly hp bs x hx) hx

theorem crc32c_lt (bs : List Byte) : crc32c bs < 2 ^ 32 := by
  rw [crc32c]
  exact crcBytes_xor_lt bs _ _ (by norm_num) (by norm_num)

@[simp] theorem length_leBytes (n v : Nat) : (leBytes n v).length = n := by simp [leBytes]

theorem pow_8_0 : (2 : Nat) ^ (8 * 0) = 1 := rfl
theorem pow_8_1 : (2 : Nat) ^ (8 * 1) = 256 := rfl
theorem pow_8_2 : (2 : Nat) ^ (8 * 2) = 65536 := rfl
theorem pow_8_3 : (2 : Nat) ^ (8 * 3) = 16777216 := rfl

theorem sum_range_4 (f : Nat → Nat) : (List.range 4).foldl (fun a j => a + f j) 0 = 0 + f 0 + f 1 + f 2 + f 3 := rfl

/-- The number four bytes spell. -/
theorem leNat_4 (b : List Byte) (i : Nat) : leNat b i 4 = 0 + (b.getD (i + 0) 0).toNat * 1 + (b.getD (i + 1) 0).toNat * 256
    + (b.getD (i + 2) 0).toNat * 65536 + (b.getD (i + 3) 0).toNat * 16777216 := by
  have h : leNat b i 4 = 0 + (b.getD (i + 0) 0).toNat * 2 ^ (8 * 0) + (b.getD (i + 1) 0).toNat * 2 ^ (8 * 1)
      + (b.getD (i + 2) 0).toNat * 2 ^ (8 * 2) + (b.getD (i + 3) 0).toNat * 2 ^ (8 * 3) :=
    sum_range_4 (fun j => (b.getD (i + j) 0).toNat * 2 ^ (8 * j))
  rw [h, pow_8_0, pow_8_1, pow_8_2, pow_8_3]

theorem getD_append_leBytes (b : List Byte) (n v j : Nat) (h : j < n) :
    (b ++ leBytes n v).getD (b.length + j) 0 = BitVec.ofNat 8 (v >>> (8 * j)) := by
  rw [List.getD_append_right _ _ _ _ (by omega)]
  simp [leBytes, List.getD, h]

theorem four_bytes (v : Nat) (h : v < 4294967296) :
    0 + v / 1 % 256 * 1 + v / 256 % 256 * 256 + v / 65536 % 256 * 65536 + v / 16777216 % 256 * 16777216 = v := by omega

theorem toNat_ofNat8 (k : Nat) : (BitVec.ofNat 8 k).toNat = k % 256 := rfl

/-- Four bytes of a number that fits them, read after any bytes, spell the number. -/
theorem leNat_append_leBytes4 (b : List Byte) (v : Nat) (h : v < 2 ^ 32) : leNat (b ++ leBytes 4 v) b.length 4 = v := by
  rw [leNat_4, getD_append_leBytes b 4 v 0 (by norm_num), getD_append_leBytes b 4 v 1 (by norm_num),
    getD_append_leBytes b 4 v 2 (by norm_num), getD_append_leBytes b 4 v 3 (by norm_num), toNat_ofNat8, toNat_ofNat8,
    toNat_ofNat8, toNat_ofNat8, Nat.shiftRight_eq_div_pow, Nat.shiftRight_eq_div_pow, Nat.shiftRight_eq_div_pow,
    Nat.shiftRight_eq_div_pow, pow_8_0, pow_8_1, pow_8_2, pow_8_3]
  exact four_bytes v h

/-- A body closed by the CRC of a session id and its bytes passes the CRC check (R153). -/
theorem frameCrcOk_closed (ft len sid : Nat) (b : List Byte) (h : b.length + 4 = 8 * len) :
    frameCrcOk { ftype := ft, len := len, body := b ++ leBytes 4 (crc32c (leBytes 4 sid ++ b)) } sid = true := by
  have e : 8 * len - 4 = b.length := by omega
  simp [frameCrcOk, e, leNat_append_leBytes4 _ _ (crc32c_lt _), h]
  omega

end Sys2Proof.Machine
end

