-- ==== Sys2Proof/Laws/Keeps.lean ====
section
/-! SUPPORT. What an operation of the block can change at all. `Closed P` says that a property of the state is kept by
the few primitive updates every operation is made of; the lemmas of the files beside this one say of each operation
that it keeps every such property, so that an invariant is proved once, over the primitives. -/

namespace Sys2Proof.Machine

/-- A property that no primitive update breaks, updates of memory and of the clock grid apart. -/
structure Closed (P : State → Prop) : Prop where
  reg : ∀ s a w, P s → P (State.setReg s a w)
  adv : ∀ s t, P s → P (State.advance s t)
  clm : ∀ s r c, P s → P (State.setClaim s r c)
  upd : ∀ (s : State) (freeN_ : Nat) (resp_ : Resp) (errRead_ : List Nat) (evAt_ : Nat) (evs_ : SMap Word) (reinit_ : List (Nat × Nat)) (logQ_ : List LogRec) (perPend_ : Option (Nat × Nat)) (slack_ : List Nat) (ovrRun_ : SMap Nat) (ovrSeen_ : Bool) (pubs_ : SMap Word) (cells_ : SMap Cell) (stks_ : SMap Stack) (dsvs_ : SMap Dsv) (dsvDone_ : Nat) (chans_ : SMap Chan) (lanes_ : SMap Lane) (latches_ : List Latch) (srcAct_ : Nat) (inactAt_ : SMap Nat) (tripAt_ : SMap Nat) (rearmed_ : Option RearmRec) (firstAt_ : Nat) (trpIn_ : SMap (Bool × Nat)) (haltMode_ : Nat) (halts_ : Nat) (frozen_ : List Nat) (legBlk_ : Nat) (legWait_ : Nat) (aiLast_ : SMap (Option Int)) (gapSample_ : Option Int) (epochAt_ : Int) (pairKeys_ : List (Nat × BitVec 256)) (le_ : LeSt) (aiInst_ : SMap (Nat × Bool)) (aiValAt_ : SMap Nat) (aiBnd_ : SMap (Nat × Option Int)) (mcx_ : McxSt) (isls_ : SMap Isl) (polHist_ : List (Nat × Nat × Nat)) (adcs_ : SMap AdcP) (poison_ : SMap Bool) (trl_ : TrlSt) (stl_ : StlSt) (saf_ : SafSt) (cans_ : SMap CanSt) (eths_ : SMap EthSt) (pwr_ : PwrSt) (sec_ : SecSt) (memx_ : MemSt) (nvl_ : NvlSt) (dmaN_ : List Nat), P s → P { s with
    freeN := freeN_, resp := resp_, errRead := errRead_, evAt := evAt_, evs := evs_, reinit := reinit_, logQ := logQ_, perPend := perPend_, slack := slack_, ovrRun := ovrRun_, ovrSeen := ovrSeen_, pubs := pubs_, cells := cells_, stks := stks_, dsvs := dsvs_, dsvDone := dsvDone_, chans := chans_, lanes := lanes_, latches := latches_, srcAct := srcAct_, inactAt := inactAt_, tripAt := tripAt_, rearmed := rearmed_, firstAt := firstAt_, trpIn := trpIn_, haltMode := haltMode_, halts := halts_, frozen := frozen_, legBlk := legBlk_, legWait := legWait_, aiLast := aiLast_, gapSample := gapSample_, epochAt := epochAt_, pairKeys := pairKeys_, le := le_, aiInst := aiInst_, aiValAt := aiValAt_, aiBnd := aiBnd_, mcx := mcx_, isls := isls_, polHist := polHist_, adcs := adcs_, poison := poison_, trl := trl_, stl := stl_, saf := saf_, cans := cans_, eths := eths_, pwr := pwr_, sec := sec_, memx := memx_, nvl := nvl_, dmaN := dmaN_ }

/-- A property that a store to memory does not break either. -/
structure ClosedM (P : State → Prop) : Prop extends Closed P where
  byte : ∀ s a b, P s → P (State.setByte s a b)

/-- A property that updates of the clock grid and of the straps, the loss of unretained memory and a reset do not break
either. -/
structure ClosedG (P : State → Prop) : Prop extends ClosedM P where
  grid : ∀ (s : State) (straps_ : Straps) (pidx_ bndAt_ window_ : Nat) (freeN_ : Nat) (resp_ : Resp) (errRead_ : List Nat) (evAt_ : Nat) (evs_ : SMap Word) (reinit_ : List (Nat × Nat)) (logQ_ : List LogRec) (perPend_ : Option (Nat × Nat)) (slack_ : List Nat) (ovrRun_ : SMap Nat) (ovrSeen_ : Bool) (pubs_ : SMap Word) (cells_ : SMap Cell) (stks_ : SMap Stack) (dsvs_ : SMap Dsv) (dsvDone_ : Nat) (chans_ : SMap Chan) (lanes_ : SMap Lane) (latches_ : List Latch) (srcAct_ : Nat) (inactAt_ : SMap Nat) (tripAt_ : SMap Nat) (rearmed_ : Option RearmRec) (firstAt_ : Nat) (trpIn_ : SMap (Bool × Nat)) (haltMode_ : Nat) (halts_ : Nat) (frozen_ : List Nat) (legBlk_ : Nat) (legWait_ : Nat) (aiLast_ : SMap (Option Int)) (gapSample_ : Option Int) (epochAt_ : Int) (pairKeys_ : List (Nat × BitVec 256)) (le_ : LeSt) (aiInst_ : SMap (Nat × Bool)) (aiValAt_ : SMap Nat) (aiBnd_ : SMap (Nat × Option Int)) (mcx_ : McxSt) (isls_ : SMap Isl) (polHist_ : List (Nat × Nat × Nat)) (adcs_ : SMap AdcP) (poison_ : SMap Bool) (trl_ : TrlSt) (stl_ : StlSt) (saf_ : SafSt) (cans_ : SMap CanSt) (eths_ : SMap EthSt) (pwr_ : PwrSt) (sec_ : SecSt) (memx_ : MemSt) (nvl_ : NvlSt) (dmaN_ : List Nat), P s → P { s with
    straps := straps_, pidx := pidx_, bndAt := bndAt_, window := window_, freeN := freeN_, resp := resp_, errRead := errRead_, evAt := evAt_, evs := evs_, reinit := reinit_, logQ := logQ_, perPend := perPend_, slack := slack_, ovrRun := ovrRun_, ovrSeen := ovrSeen_, pubs := pubs_, cells := cells_, stks := stks_, dsvs := dsvs_, dsvDone := dsvDone_, chans := chans_, lanes := lanes_, latches := latches_, srcAct := srcAct_, inactAt := inactAt_, tripAt := tripAt_, rearmed := rearmed_, firstAt := firstAt_, trpIn := trpIn_, haltMode := haltMode_, halts := halts_, frozen := frozen_, legBlk := legBlk_, legWait := legWait_, aiLast := aiLast_, gapSample := gapSample_, epochAt := epochAt_, pairKeys := pairKeys_, le := le_, aiInst := aiInst_, aiValAt := aiValAt_, aiBnd := aiBnd_, mcx := mcx_, isls := isls_, polHist := polHist_, adcs := adcs_, poison := poison_, trl := trl_, stl := stl_, saf := saf_, cans := cans_, eths := eths_, pwr := pwr_, sec := sec_, memx := memx_, nvl := nvl_, dmaN := dmaN_ }
  lost : ∀ s aon, P s → P (State.memLost s aon)
  base : ∀ s keep aon, P s → P (State.resetBase s keep aon)

end Sys2Proof.Machine
end

