-- ==== Sys2Proof/Laws/KeepsOps.lean ====
section
/-! SUPPORT. Every operation of Machine/Ops.lean keeps every property the primitive updates keep. -/

namespace Sys2Proof.Machine

set_option linter.unreachableTactic false
set_option linter.unusedTactic false
set_option linter.unnecessarySeqFocus false

theorem State.foldl_keeps {P : State → Prop} {α : Type} (f : State → α → State) (l : List α) {s : State}
    (hf : ∀ s a, P s → P (f s a)) (h : P s) : P (l.foldl f s) := by
  induction l generalizing s with
  | nil => exact h
  | cons a l ih => exact ih (hf s a h)

theorem ite_keeps {P : State → Prop} {c : Prop} [Decidable c] {s t : State} (hs : P s) (ht : P t) :
    P (if c then s else t) := by
  split
  · exact hs
  · exact ht

theorem id_keeps {P : State → Prop} {s : State} (hs : P s) : P (id s) := hs

theorem State.setReg_keeps {P : State → Prop} (c : Closed P) {s : State} (a : Nat) (w : Word) (h : P s) :
    P (s.setReg a w) := c.reg s a w h

theorem State.set_keeps {P : State → Prop} (hP : Closed P) {s : State} (f : Fld) (v : Nat) (hs : P s) :
    P (State.set s f v) := by
  unfold State.set
  try dsimp only
  repeat' first
    | with_reducible
        first
        | assumption | apply State.setReg_keeps hP

theorem State.setB_keeps {P : State → Prop} (hP : Closed P) {s : State} (f : Fld) (b : Bool) (hs : P s) :
    P (State.setB s f b) := by
  unfold State.setB
  try dsimp only
  repeat' first
    | with_reducible
        first
        | assumption | apply ite_keeps | apply State.set_keeps hP
    | split

theorem State.setS_keeps {P : State → Prop} (hP : Closed P) {s : State} (f : Fld) (v : Int) (hs : P s) :
    P (State.setS s f v) := by
  unfold State.setS
  try dsimp only
  repeat' first
    | with_reducible
        first
        | assumption | apply State.set_keeps hP

theorem State.bump_keeps {P : State → Prop} (hP : Closed P) {s : State} (f : Fld) (k : Nat) (hs : P s) :
    P (State.bump s f k) := by
  unfold State.bump
  try dsimp only
  repeat' first
    | with_reducible
        first
        | assumption | apply State.set_keeps hP

theorem State.each_keeps {P : State → Prop} (_ : Closed P) {s : State} {α : Type} (l : List α)
    (f : State → α → State) (hf : ∀ s a, P s → P (f s a)) (h : P s) : P (s.each l f) := State.foldl_keeps f l hf h

theorem State.iff_keeps {P : State → Prop} (_ : Closed P) {s : State} (b : Bool) (f : State → State)
    (hf : ∀ s, P s → P (f s)) (h : P s) : P (s.iff b f) := by
  unfold State.iff
  split
  · exact hf s h
  · exact h

theorem State.irq_keeps {P : State → Prop} (hP : Closed P) {s : State} (pg : Nat) (bit : Nat) (hs : P s) :
    P (State.irq s pg bit) := by
  unfold State.irq
  try dsimp only
  repeat' first
    | intro _
    | with_reducible
        first
        | assumption | apply ite_keeps | apply State.setReg_keeps hP
    | split
    | with_reducible apply hP.upd

theorem State.refuse_keeps {P : State → Prop} (hP : Closed P) {s : State} (pg : Nat) (ofs : Nat) (code : Nat) (hs : P s) :
    P (State.refuse s pg ofs code) := by
  unfold State.refuse
  try dsimp only
  repeat' first
    | with_reducible
        first
        | assumption | apply State.setB_keeps hP | apply State.set_keeps hP
    | with_reducible apply hP.upd

theorem State.judge_keeps {P : State → Prop} (c : Closed P) {s : State} (pg ofs : Nat) (conds : List (Bool × Nat))
    (k : State → State) (hk : ∀ s, P s → P (k s)) (h : P s) : P (s.judge pg ofs conds k) := by
  rcases State.judge_cases s pg ofs conds k with e | ⟨_, e⟩ | e <;> rw [e]
  · exact h
  · exact State.refuse_keeps c _ _ _ h
  · exact hk s h

theorem State.take_keeps {P : State → Prop} (hP : Closed P) {s : State} (k : PageKind) (pg : Nat) (ofs : Nat) (val : Word) (hs : P s) :
    P (State.take s k pg ofs val) := by
  unfold State.take
  try dsimp only
  repeat' first
    | with_reducible
        first
        | assumption | apply ite_keeps | apply State.setReg_keeps hP | apply State.refuse_keeps hP
    | split

theorem State.advance_keeps {P : State → Prop} (c : Closed P) {s : State} (t : Nat) (h : P s) :
    P (s.advance t) := c.adv s t h

theorem State.free_keeps {P : State → Prop} (c : Closed P) {s t : State} {i : Nat} (e : s.free = (i, t)) (h : P s) :
    P t := by
  unfold State.free at e
  injection e with _ e
  subst e
  with_reducible apply c.upd
  exact h

theorem State.free_keeps2 {P : State → Prop} (hP : Closed P) {s : State} (hs : P s) : P s.free.2 :=
  State.free_keeps hP (Prod.eta _).symm hs

theorem State.setClaim_keeps {P : State → Prop} (c : Closed P) {s : State} (r : Nat) (x : Claim) (h : P s) :
    P (s.setClaim r x) := c.clm s r x h

theorem State.pinDenied_keeps {P : State → Prop} (hP : Closed P) {s : State} (r : Nat) (cls : Nat) (inst : Nat) (hs : P s) :
    P (State.pinDenied s r cls inst) := by
  unfold State.pinDenied
  try dsimp only
  repeat' first
    | with_reducible
        first
        | assumption | apply State.set_keeps hP | apply State.bump_keeps hP | apply State.irq_keeps hP

theorem State.deny_keeps {P : State → Prop} (hP : Closed P) {s : State} (pg : Nat) (ofs : Nat) (r : Nat) (cls : Nat) (inst : Nat) (hs : P s) :
    P (State.deny s pg ofs r cls inst) := by
  unfold State.deny
  try dsimp only
  repeat' first
    | with_reducible
        first
        | assumption | apply State.pinDenied_keeps hP | apply State.refuse_keeps hP

theorem State.takeClaim_keeps {P : State → Prop} (hP : Closed P) {s : State} (r : Nat) (cls : Nat) (inst : Nat) (hs : P s) :
    P (State.takeClaim s r cls inst) := by
  unfold State.takeClaim
  try dsimp only
  repeat' first
    | with_reducible
        first
        | assumption | apply State.setClaim_keeps hP
    | with_reducible apply hP.upd

theorem State.release_keeps {P : State → Prop} (hP : Closed P) {s : State} (r : Nat) (cls : Nat) (inst : Nat) (hs : P s) :
    P (State.release s r cls inst) := by
  unfold State.release
  try dsimp only
  repeat' first
    | with_reducible
        first
        | assumption | apply ite_keeps | apply State.setClaim_keeps hP
    | split
    | with_reducible apply hP.upd

theorem State.releaseAll_keeps {P : State → Prop} (hP : Closed P) {s : State} (cls : Nat) (inst : Nat) (hs : P s) :
    P (State.releaseAll s cls inst) := by
  unfold State.releaseAll
  try dsimp only
  repeat' first
    | intro _
    | with_reducible
        first
        | assumption | apply State.each_keeps hP | apply State.release_keeps hP

theorem State.claimAll_keeps {P : State → Prop} (c : Closed P) {s : State} (pg ofs : Nat) (rs : List Nat)
    (cls inst : Nat) (k : State → State) (hk : ∀ s, P s → P (k s)) (h : P s) : P (s.claimAll pg ofs rs cls inst k) := by
  unfold State.claimAll
  split
  · exact State.deny_keeps c _ _ _ _ _ h
  · exact hk _ (State.each_keeps c _ _ (fun s a hs => State.takeClaim_keeps c _ _ _ hs) h)

theorem State.setByte_keeps {P : State → Prop} (c : ClosedM P) {s : State} (a : Nat) (b : Byte) (h : P s) :
    P (s.setByte a b) := c.byte s a b h

theorem State.setMword_keeps {P : State → Prop} (hP : ClosedM P) {s : State} (a : Nat) (w : Word) (hs : P s) :
    P (State.setMword s a w) := by
  unfold State.setMword
  try dsimp only
  repeat' first
    | with_reducible
        first
        | assumption | apply State.setByte_keeps hP

theorem State.setCell_keeps {P : State → Prop} (hP : Closed P) {s : State} (n : Nat) (c : Cell) (hs : P s) :
    P (State.setCell s n c) := by
  unfold State.setCell
  try dsimp only
  repeat' first
    | intro _
    | with_reducible
        first
        | assumption
    | with_reducible apply hP.upd

theorem State.modCell_keeps {P : State → Prop} (hP : Closed P) {s : State} (n : Nat) (f : Cell → Cell) (hs : P s) :
    P (State.modCell s n f) := by
  unfold State.modCell
  try dsimp only
  repeat' first
    | with_reducible
        first
        | assumption | apply State.setCell_keeps hP

theorem State.setDsv_keeps {P : State → Prop} (hP : Closed P) {s : State} (n : Nat) (c : Dsv) (hs : P s) :
    P (State.setDsv s n c) := by
  unfold State.setDsv
  try dsimp only
  repeat' first
    | intro _
    | with_reducible
        first
        | assumption
    | with_reducible apply hP.upd

theorem State.setStack_keeps {P : State → Prop} (hP : Closed P) {s : State} (k : Nat) (c : Stack) (hs : P s) :
    P (State.setStack s k c) := by
  unfold State.setStack
  try dsimp only
  repeat' first
    | intro _
    | with_reducible
        first
        | assumption
    | with_reducible apply hP.upd

theorem State.setLane_keeps {P : State → Prop} (hP : Closed P) {s : State} (n : Nat) (c : Lane) (hs : P s) :
    P (State.setLane s n c) := by
  unfold State.setLane
  try dsimp only
  repeat' first
    | intro _
    | with_reducible
        first
        | assumption
    | with_reducible apply hP.upd

theorem State.modLane_keeps {P : State → Prop} (hP : Closed P) {s : State} (n : Nat) (f : Lane → Lane) (hs : P s) :
    P (State.modLane s n f) := by
  unfold State.modLane
  try dsimp only
  repeat' first
    | with_reducible
        first
        | assumption | apply State.setLane_keeps hP

theorem State.setChan_keeps {P : State → Prop} (hP : Closed P) {s : State} (c : Nat) (x : Chan) (hs : P s) :
    P (State.setChan s c x) := by
  unfold State.setChan
  try dsimp only
  repeat' first
    | with_reducible
        first
        | assumption
    | with_reducible apply hP.upd

theorem State.setEng_keeps {P : State → Prop} (hP : Closed P) {s : State} (e : Nat) (c : LeEng) (hs : P s) :
    P (State.setEng s e c) := by
  unfold State.setEng
  try dsimp only
  repeat' first
    | intro _
    | with_reducible
        first
        | assumption
    | with_reducible apply hP.upd

theorem State.setIsland_keeps {P : State → Prop} (hP : Closed P) {s : State} (k : Nat) (x : Isl) (hs : P s) :
    P (State.setIsland s k x) := by
  unfold State.setIsland
  try dsimp only
  repeat' first
    | intro _
    | with_reducible
        first
        | assumption
    | with_reducible apply hP.upd

theorem State.modIsland_keeps {P : State → Prop} (hP : Closed P) {s : State} (k : Nat) (f : Isl → Isl) (hs : P s) :
    P (State.modIsland s k f) := by
  unfold State.modIsland
  try dsimp only
  repeat' first
    | with_reducible
        first
        | assumption | apply State.setIsland_keeps hP

theorem State.setPair_keeps {P : State → Prop} (hP : Closed P) {s : State} (p : Nat) (x : AdcP) (hs : P s) :
    P (State.setPair s p x) := by
  unfold State.setPair
  try dsimp only
  repeat' first
    | intro _
    | with_reducible
        first
        | assumption
    | with_reducible apply hP.upd

theorem State.modPair_keeps {P : State → Prop} (hP : Closed P) {s : State} (p : Nat) (f : AdcP → AdcP) (hs : P s) :
    P (State.modPair s p f) := by
  unfold State.modPair
  try dsimp only
  repeat' first
    | with_reducible
        first
        | assumption | apply State.setPair_keeps hP

theorem State.setLectx_keeps {P : State → Prop} (hP : Closed P) {s : State} (c : Nat) (x : LeCtx) (hs : P s) :
    P (State.setLectx s c x) := by
  unfold State.setLectx
  try dsimp only
  repeat' first
    | intro _
    | with_reducible
        first
        | assumption
    | with_reducible apply hP.upd

theorem State.modLectx_keeps {P : State → Prop} (hP : Closed P) {s : State} (c : Nat) (f : LeCtx → LeCtx) (hs : P s) :
    P (State.modLectx s c f) := by
  unfold State.modLectx
  try dsimp only
  repeat' first
    | with_reducible
        first
        | assumption | apply State.setLectx_keeps hP

theorem State.log_keeps {P : State → Prop} (hP : Closed P) {s : State} (pg : Nat) (evt : Nat) (d0 : Nat) (d1 : Nat) (hs : P s) :
    P (State.log s pg evt d0 d1) := by
  unfold State.log
  try dsimp only
  repeat' first
    | with_reducible
        first
        | assumption | apply ite_keeps | apply State.bump_keeps hP | apply State.irq_keeps hP
    | split
    | with_reducible apply hP.upd

theorem State.logEvt_keeps {P : State → Prop} (hP : Closed P) {s : State} (pg : Nat) (evt : Nat) (hs : P s) :
    P (State.logEvt s pg evt) := by
  unfold State.logEvt
  try dsimp only
  repeat' first
    | with_reducible
        first
        | assumption | apply State.log_keeps hP

theorem State.after_keeps {P : State → Prop} (_ : Closed P) {s : State} (f : State → Host.Outcome State Fault Refusal)
    (hf : ∀ s s', f s = .next s' → P s → P s') (hs : P s) : P (s.after f) := by
  unfold State.after
  split
  · next h => exact hf _ _ h hs
  · exact hs

theorem State.fitted_keeps {P : State → Prop} (hP : Closed P) {s : State} (k : PageKind) (pg ofs : Nat) (val : Word)
    (f : State → State) (hf : ∀ s, P s → P (f s)) (hs : P s) : P (s.fitted k pg ofs val f) := by
  unfold State.fitted
  split
  · exact hf _ hs
  · exact State.judge_keeps hP _ _ _ _ (fun _ h => State.take_keeps hP _ _ _ _ h) hs

end Sys2Proof.Machine
end

