-- ==== Sys2Proof/Laws/KeepsBus.lean ====
section
/-! SUPPORT. Every operation of Machine/Bus.lean keeps every property the primitive updates keep. -/

namespace Sys2Proof.Machine

set_option linter.unreachableTactic false
set_option linter.unusedTactic false
set_option linter.unnecessarySeqFocus false

theorem State.setPoison_keeps {P : State → Prop} (hP : Closed P) {s : State} (r : Nat) (i : Nat) (b : Bool) (hs : P s) :
    P (State.setPoison s r i b) := by
  unfold State.setPoison
  try dsimp only
  repeat' first
    | intro _
    | with_reducible
        first
        | assumption
    | with_reducible apply hP.upd

theorem State.putBytes_keeps {P : State → Prop} (hP : ClosedM P) {s : State} (a : Nat) (bs : List Byte) (hs : P s) :
    P (State.putBytes s a bs) := by
  unfold State.putBytes
  try dsimp only
  repeat' first
    | intro _
    | with_reducible
        first
        | assumption | apply State.each_keeps hP.toClosed | apply State.setByte_keeps hP

theorem State.encoded_keeps {P : State → Prop} (hP : Closed P) {s : State} (r : Nat) (k : Nat) (hs : P s) :
    P (State.encoded s r k) := by
  unfold State.encoded
  try dsimp only
  repeat' first
    | with_reducible
        first
        | assumption | apply ite_keeps
    | split
    | with_reducible apply hP.upd

theorem State.wholeWord_keeps {P : State → Prop} (hP : Closed P) {s : State} (r : Nat) (k : Nat) (hs : P s) :
    P (State.wholeWord s r k) := by
  unfold State.wholeWord
  try dsimp only
  repeat' first
    | with_reducible
        first
        | assumption | apply ite_keeps | apply State.setPoison_keeps hP | apply State.encoded_keeps hP
    | split
    | with_reducible apply hP.upd

theorem State.ramWrite_keeps {P : State → Prop} (hP : ClosedM P) {s sN : State} (a : Nat) (bs : List Byte) (he : State.ramWrite s a bs = some sN) (hs : P s) : P sN := by
  unfold State.ramWrite at he
  try dsimp only at he
  repeat' (split at he)
  all_goals (first | cases (Option.some.inj he) | exact absurd he (by simp))
  repeat' first
    | with_reducible
        first
        | assumption | apply ite_keeps | apply State.wholeWord_keeps hP.toClosed | apply State.putBytes_keeps hP
        | apply State.encoded_keeps hP.toClosed
    | split

theorem State.unitWrite_keeps {P : State → Prop} (hP : ClosedM P) {s : State} (a : Nat) (bs : List Byte) (hs : P s) :
    P (s.unitWrite a bs) := by
  refine State.each_keeps hP.toClosed _ _ (fun s q h => ?_) hs
  cases e : s.ramWrite q.1 q.2 with
  | none => exact h
  | some t => exact State.ramWrite_keeps hP _ _ e h

theorem State.dmaStop_keeps {P : State → Prop} (hP : Closed P) {s : State} (ch : Nat) (mpu : Bool) (hs : P s) :
    P (State.dmaStop s ch mpu) := by
  unfold State.dmaStop
  try dsimp only
  repeat' first
    | intro _
    | with_reducible
        first
        | assumption | apply State.set_keeps hP | apply State.irq_keeps hP | apply State.iff_keeps hP
    | split

theorem State.dmaWrite_keeps {P : State → Prop} (hP : ClosedM P) {s sN : State} (ch : Nat) (a : Nat) (bs : List Byte) {r : Bool} (he : State.dmaWrite s ch a bs = (r, sN)) (hs : P s) : P sN := by
  unfold State.dmaWrite at he
  try dsimp only at he
  repeat' (split at he)
  all_goals (injection he with _ he <;> subst he)
  repeat' first
    | with_reducible
        first
        | assumption | apply ite_keeps | apply State.dmaStop_keeps hP.toClosed
    | split
    | (with_reducible apply State.ramWrite_keeps hP; with_reducible assumption)

theorem State.dmaWrite_keeps2 {P : State → Prop} (hP : ClosedM P) {s : State} (ch : Nat) (a : Nat) (bs : List Byte) (hs : P s) : P (State.dmaWrite s ch a bs).2 :=
  State.dmaWrite_keeps hP _ _ _ (Prod.eta _).symm hs

theorem State.dmaRead_keeps {P : State → Prop} (hP : Closed P) {s sN : State} (ch : Nat) (a : Nat) (n : Nat) {r : Option (List Byte)} (he : State.dmaRead s ch a n = (r, sN)) (hs : P s) : P sN := by
  unfold State.dmaRead at he
  try dsimp only at he
  repeat' (split at he)
  all_goals (injection he with _ he <;> subst he)
  repeat' first
    | with_reducible
        first
        | assumption | apply ite_keeps | apply State.dmaStop_keeps hP
    | split

theorem State.dmaRead_keeps2 {P : State → Prop} (hP : Closed P) {s : State} (ch : Nat) (a : Nat) (n : Nat) (hs : P s) : P (State.dmaRead s ch a n).2 :=
  State.dmaRead_keeps hP _ _ _ (Prod.eta _).symm hs

theorem State.dmaPut_keeps2 {P : State → Prop} (hP : ClosedM P) {s : State} (ch a n : Nat) (bs : List Byte) (hs : P s) :
    P (s.dmaPut ch a n bs).2 := by
  unfold State.dmaPut
  generalize (pieces n bs).zipIdx = l
  have key : ∀ r : Bool × State, P r.2 → P (l.foldl (fun (r : Bool × State) (q : List Byte × Nat) =>
      if r.1 then r.2.dmaWrite ch (a + n * q.2) q.1 else r) r).2 := by
    induction l with
    | nil => exact fun r h => h
    | cons q l ih =>
      intro r h
      refine ih _ ?_
      dsimp only
      split
      · exact State.dmaWrite_keeps2 hP _ _ _ h
      · exact h
  exact key _ hs

theorem State.dmaPut_keeps {P : State → Prop} (hP : ClosedM P) {s t : State} (ch a n : Nat) (bs : List Byte) {r : Bool}
    (e : s.dmaPut ch a n bs = (r, t)) (hs : P s) : P t := by
  have := State.dmaPut_keeps2 hP ch a n bs hs
  rwa [e] at this

theorem State.norPut_keeps {P : State → Prop} (hP : Closed P) {s : State} (a : Nat) (bs : List Byte) (hs : P s) :
    P (State.norPut s a bs) := by
  unfold State.norPut
  try dsimp only
  repeat' first
    | intro _
    | with_reducible
        first
        | assumption | apply State.foldl_keeps
    | with_reducible apply hP.upd

end Sys2Proof.Machine
end

