-- ==== Sys2Proof/Laws/KeepsAdc.lean ====
section
/-! SUPPORT. Every operation of Machine/Adc.lean keeps every property the primitive updates keep. -/

namespace Sys2Proof.Machine

set_option linter.unreachableTactic false
set_option linter.unusedTactic false
set_option linter.unnecessarySeqFocus false

theorem State.pairStat_keeps {P : State → Prop} (hP : Closed P) {s : State} (p : Nat) (hs : P s) :
    P (State.pairStat s p) := by
  unfold State.pairStat
  try dsimp only
  repeat' first
    | with_reducible
        first
        | assumption | apply State.set_keeps hP
    | split

theorem State.runStart_keeps {P : State → Prop} (hP : Closed P) {s : State} (p : Nat) (k : Nat) (trig : Nat) (start : Nat) (hs : P s) :
    P (State.runStart s p k trig start) := by
  unfold State.runStart
  try dsimp only
  repeat' first
    | intro _
    | with_reducible
        first
        | assumption | apply State.modPair_keeps hP | apply State.pairStat_keeps hP
    | with_reducible apply hP.upd

theorem State.runNext_keeps {P : State → Prop} (hP : Closed P) {s : State} (p : Nat) (t : Nat) (hs : P s) :
    P (State.runNext s p t) := by
  unfold State.runNext
  try dsimp only
  repeat' first
    | intro _
    | with_reducible
        first
        | assumption | apply State.setPair_keeps hP | apply State.runStart_keeps hP
    | split
    | with_reducible apply hP.upd

theorem State.segOff_keeps {P : State → Prop} (hP : Closed P) {s : State} (p : Nat) (k : Nat) (t : Nat) (hs : P s) :
    P (State.segOff s p k t) := by
  unfold State.segOff
  try dsimp only
  repeat' first
    | intro _
    | with_reducible
        first
        | assumption | apply ite_keeps | apply State.setPair_keeps hP | apply State.runNext_keeps hP
        | apply State.pairStat_keeps hP
    | split
    | with_reducible apply hP.upd

theorem State.segFire_keeps {P : State → Prop} (hP : Closed P) {s : State} (p : Nat) (k : Nat) (t : Nat) (hs : P s) :
    P (State.segFire s p k t) := by
  unfold State.segFire
  try dsimp only
  repeat' first
    | intro _
    | with_reducible
        first
        | assumption | apply ite_keeps | apply State.bump_keeps hP | apply State.irq_keeps hP
        | apply State.setPair_keeps hP | apply State.runNext_keeps hP
    | split
    | with_reducible apply hP.upd

theorem State.contStart_keeps {P : State → Prop} (hP : Closed P) {s : State} (p : Nat) (k : Nat) (hs : P s) :
    P (State.contStart s p k) := by
  unfold State.contStart
  try dsimp only
  repeat' first
    | intro _
    | with_reducible
        first
        | assumption | apply ite_keeps | apply State.segFire_keeps hP
    | split

theorem State.segEvent_keeps {P : State → Prop} (hP : Closed P) {s : State} (p : Nat) (k : Nat) (hs : P s) :
    P (State.segEvent s p k) := by
  unfold State.segEvent
  try dsimp only
  repeat' first
    | with_reducible
        first
        | assumption | apply ite_keeps | apply State.setPair_keeps hP | apply State.set_keeps hP
        | apply State.segFire_keeps hP
    | split
    | with_reducible apply hP.upd

theorem State.segGo_keeps {P : State → Prop} (hP : Closed P) {s : State} (p : Nat) (mask : Nat) (hs : P s) :
    P (State.segGo s p mask) := by
  unfold State.segGo
  try dsimp only
  repeat' first
    | intro _
    | with_reducible
        first
        | assumption | apply ite_keeps | apply State.each_keeps hP | apply State.segEvent_keeps hP
    | split

theorem State.entryIssue_keeps {P : State → Prop} (hP : Closed P) {s : State} (p : Nat) (hs : P s) :
    P (State.entryIssue s p) := by
  unfold State.entryIssue
  try dsimp only
  repeat' first
    | intro _
    | with_reducible
        first
        | assumption | apply ite_keeps | apply State.foldl_keeps | apply State.advance_keeps hP
        | apply State.setPair_keeps hP | refine State.free_keeps2 hP ?_
    | split
    | (with_reducible apply State.free_keeps hP; with_reducible assumption)
    | with_reducible apply hP.upd

theorem State.bufPush_keeps {P : State → Prop} (hP : Closed P) {s : State} (p : Nat) (w : Word) (hs : P s) :
    P (State.bufPush s p w) := by
  unfold State.bufPush
  try dsimp only
  repeat' first
    | intro _
    | with_reducible
        first
        | assumption | apply ite_keeps | apply State.modPair_keeps hP
    | split
    | with_reducible apply hP.upd

theorem State.strOut_keeps {P : State → Prop} (hP : Closed P) {s : State} (p : Nat) (j : Nat) (w : Word) (hs : P s) :
    P (State.strOut s p j w) := by
  unfold State.strOut
  try dsimp only
  repeat' first
    | intro _
    | with_reducible
        first
        | assumption | apply State.iff_keeps hP | apply State.setReg_keeps hP | apply State.bufPush_keeps hP
    | split
    | with_reducible apply hP.upd

theorem State.strIn_keeps {P : State → Prop} (hP : Closed P) {s : State} (p : Nat) (j : Nat) (ai : Nat) (code : Int) (valid : Bool) (clip : Bool) (late : Bool) (hs : P s) :
    P (State.strIn s p j ai code valid clip late) := by
  unfold State.strIn
  try dsimp only
  repeat' first
    | intro _
    | with_reducible
        first
        | assumption | apply ite_keeps | apply State.modPair_keeps hP | apply State.iff_keeps hP
        | apply State.irq_keeps hP | apply State.strOut_keeps hP
    | split
    | with_reducible apply hP.upd

theorem State.aiTake_keeps {P : State → Prop} (hP : Closed P) {s : State} (ai : Nat) (c : AdcConv) (code : Int) (valid : Bool) (hs : P s) :
    P (State.aiTake s ai c code valid) := by
  unfold State.aiTake
  try dsimp only
  repeat' first
    | intro _
    | with_reducible
        first
        | assumption | apply ite_keeps | apply State.iff_keeps hP
    | split
    | with_reducible apply hP.upd

theorem State.convResult_keeps {P : State → Prop} (hP : Closed P) {s : State} (p : Nat) (c : AdcConv) (raw : Int) (hs : P s) :
    P (State.convResult s p c raw) := by
  unfold State.convResult
  try dsimp only
  repeat' first
    | intro _
    | with_reducible
        first
        | assumption | apply ite_keeps | apply State.setPair_keeps hP | apply State.set_keeps hP
        | apply State.iff_keeps hP | apply State.irq_keeps hP | apply State.aiTake_keeps hP
        | apply State.strOut_keeps hP | apply State.strIn_keeps hP
    | split
    | with_reducible apply hP.upd

theorem State.convDone_keeps {P : State → Prop} (hP : Closed P) {s : State} (p : Nat) (raw : Int) (hs : P s) :
    P (State.convDone s p raw) := by
  unfold State.convDone
  try dsimp only
  repeat' first
    | intro _
    | with_reducible
        first
        | assumption | apply ite_keeps | apply State.advance_keeps hP | apply State.setPair_keeps hP
        | apply State.convResult_keeps hP | apply State.irq_keeps hP | apply State.iff_keeps hP
        | apply State.modPair_keeps hP | apply State.runNext_keeps hP | apply State.pairStat_keeps hP
    | split
    | with_reducible apply hP.upd

theorem State.urgReq_keeps {P : State → Prop} (hP : Closed P) {s : State} (p : Nat) (en : Bool) (u : AdcUrg) (hs : P s) :
    P (State.urgReq s p en u) := by
  unfold State.urgReq
  try dsimp only
  repeat' first
    | with_reducible
        first
        | assumption | apply ite_keeps | apply State.bump_keeps hP | apply State.irq_keeps hP
        | apply State.setPair_keeps hP | apply State.pairStat_keeps hP
    | split
    | with_reducible apply hP.upd

theorem State.chopReq_keeps {P : State → Prop} (hP : Closed P) {s : State} (u : Nat) (dly : Nat) (hs : P s) :
    P (State.chopReq s u dly) := by
  unfold State.chopReq
  try dsimp only
  repeat' first
    | with_reducible
        first
        | assumption | apply ite_keeps | apply State.urgReq_keeps hP
    | split

theorem State.chopTurnOn_keeps {P : State → Prop} (hP : Closed P) {s : State} (k : Nat) (hs : P s) :
    P (State.chopTurnOn s k) := by
  unfold State.chopTurnOn
  try dsimp only
  repeat' first
    | intro _
    | with_reducible
        first
        | assumption | apply State.each_keeps hP | apply State.chopReq_keeps hP

theorem State.evtReq_keeps {P : State → Prop} (hP : Closed P) {s : State} (p : Nat) (hs : P s) :
    P (State.evtReq s p) := by
  unfold State.evtReq
  try dsimp only
  repeat' first
    | with_reducible
        first
        | assumption | apply ite_keeps | apply State.setPair_keeps hP | apply State.urgReq_keeps hP
    | split
    | with_reducible apply hP.upd

theorem State.evtTurnOn_keeps {P : State → Prop} (hP : Closed P) {s : State} (k : Nat) (hs : P s) :
    P (State.evtTurnOn s k) := by
  unfold State.evtTurnOn
  try dsimp only
  repeat' first
    | intro _
    | with_reducible
        first
        | assumption | apply State.each_keeps hP | apply State.evtReq_keeps hP

theorem State.urgSource_keeps {P : State → Prop} (hP : Closed P) {s : State} (p : Nat) (src : Nat) (u : Nat) (hs : P s) :
    P (State.urgSource s p src u) := by
  unfold State.urgSource
  try dsimp only
  repeat' first
    | with_reducible
        first
        | assumption | apply ite_keeps | apply State.chopReq_keeps hP | apply State.urgReq_keeps hP
        | apply State.evtReq_keeps hP
    | split

theorem State.urgIssue_keeps {P : State → Prop} (hP : Closed P) {s : State} (p : Nat) (hs : P s) :
    P (State.urgIssue s p) := by
  unfold State.urgIssue
  try dsimp only
  repeat' first
    | intro _
    | with_reducible
        first
        | assumption | apply ite_keeps | apply State.foldl_keeps | apply State.advance_keeps hP
        | apply State.setPair_keeps hP | apply State.pairStat_keeps hP | refine State.free_keeps2 hP ?_
    | split
    | (with_reducible apply State.free_keeps hP; with_reducible assumption)
    | with_reducible apply hP.upd

theorem State.ilvConv_keeps {P : State → Prop} (hP : Closed P) {s : State} (p : Nat) (raw : Int) (hs : P s) :
    P (State.ilvConv s p raw) := by
  unfold State.ilvConv
  try dsimp only
  repeat' first
    | with_reducible
        first
        | assumption | apply ite_keeps | apply State.advance_keeps hP | apply State.setPair_keeps hP
        | apply State.convResult_keeps hP
    | split
    | with_reducible apply hP.upd

theorem State.adcBoundary_keeps {P : State → Prop} (hP : Closed P) {s : State}  (hs : P s) :
    P (State.adcBoundary s) := by
  unfold State.adcBoundary
  try dsimp only
  repeat' first
    | intro _
    | with_reducible
        first
        | assumption | apply ite_keeps | apply State.each_keeps hP | apply State.modPair_keeps hP
    | split
    | with_reducible apply hP.upd

theorem State.calGo_keeps {P : State → Prop} (hP : Closed P) {s : State} (p : Nat) (hs : P s) :
    P (State.calGo s p) := by
  unfold State.calGo
  try dsimp only
  repeat' first
    | intro _
    | with_reducible
        first
        | assumption | apply State.judge_keeps hP | apply State.set_keeps hP

theorem State.calTouch_keeps {P : State → Prop} (hP : Closed P) {s : State} (p : Nat) (cv : Nat) (hs : P s) :
    P (State.calTouch s p cv) := by
  unfold State.calTouch
  try dsimp only
  repeat' first
    | intro _
    | with_reducible
        first
        | assumption | apply State.modPair_keeps hP | apply State.set_keeps hP
    | with_reducible apply hP.upd

theorem State.calDone_keeps {P : State → Prop} (hP : Closed P) {s : State} (p : Nat) (calA : Word) (calB : Word) (skew : Nat) (hs : P s) :
    P (State.calDone s p calA calB skew) := by
  unfold State.calDone
  try dsimp only
  repeat' first
    | with_reducible
        first
        | assumption | apply ite_keeps | apply State.setReg_keeps hP | apply State.set_keeps hP
        | apply State.calTouch_keeps hP | apply State.irq_keeps hP
    | split

theorem State.bufWritten_keeps {P : State → Prop} (hP : ClosedM P) {s : State} (p : Nat) (hs : P s) :
    P (State.bufWritten s p) := by
  unfold State.bufWritten
  try dsimp only
  repeat' first
    | intro _
    | with_reducible
        first
        | assumption | apply ite_keeps | apply State.setPair_keeps hP.toClosed | apply State.set_keeps hP.toClosed
        | apply State.iff_keeps hP.toClosed | apply State.bump_keeps hP.toClosed | apply State.irq_keeps hP.toClosed
        | refine State.dmaWrite_keeps2 hP _ _ _ ?_
    | split
    | (with_reducible apply State.dmaWrite_keeps hP; with_reducible assumption)
    | with_reducible apply hP.toClosed.upd

theorem State.strClear_keeps {P : State → Prop} (hP : Closed P) {s : State} (p : Nat) (j : Nat) (hs : P s) :
    P (State.strClear s p j) := by
  unfold State.strClear
  try dsimp only
  repeat' first
    | intro _
    | with_reducible
        first
        | assumption | apply State.modPair_keeps hP
    | with_reducible apply hP.upd

theorem State.pairEnable_keeps {P : State → Prop} (hP : Closed P) {s : State} (p : Nat) (hs : P s) :
    P (State.pairEnable s p) := by
  unfold State.pairEnable
  try dsimp only
  repeat' first
    | intro _
    | with_reducible
        first
        | assumption | apply ite_keeps | apply State.judge_keeps hP | apply State.set_keeps hP
        | apply State.each_keeps hP | apply State.strClear_keeps hP | apply State.modPair_keeps hP
        | apply State.contStart_keeps hP
    | split
    | with_reducible apply hP.upd

theorem State.pairStop_keeps {P : State → Prop} (hP : Closed P) {s : State} (p : Nat) (hs : P s) :
    P (State.pairStop s p) := by
  unfold State.pairStop
  try dsimp only
  repeat' first
    | intro _
    | with_reducible
        first
        | assumption | apply State.modPair_keeps hP | apply State.set_keeps hP | apply State.pairStat_keeps hP
    | with_reducible apply hP.upd

theorem State.pairDisable_keeps {P : State → Prop} (hP : Closed P) {s : State} (p : Nat) (hs : P s) :
    P (State.pairDisable s p) := by
  unfold State.pairDisable
  try dsimp only
  repeat' first
    | with_reducible
        first
        | assumption | apply State.set_keeps hP | apply State.pairStop_keeps hP

theorem State.pairReinit_keeps {P : State → Prop} (hP : Closed P) {s : State} (p : Nat) (hs : P s) :
    P (State.pairReinit s p) := by
  unfold State.pairReinit
  try dsimp only
  repeat' first
    | intro _
    | with_reducible
        first
        | assumption | apply State.iff_keeps hP | apply State.release_keeps hP | apply State.pairStop_keeps hP
        | apply State.setPair_keeps hP | apply State.set_keeps hP
    | split

theorem State.pcfgWrite_keeps {P : State → Prop} (hP : Closed P) {s : State} (p : Nat) (val : Word) (hs : P s) :
    P (State.pcfgWrite s p val) := by
  unfold State.pcfgWrite
  try dsimp only
  repeat' first
    | intro _
    | with_reducible
        first
        | assumption | apply ite_keeps | apply State.judge_keeps hP | apply State.take_keeps hP
        | apply State.claimAll_keeps hP | apply State.release_keeps hP | apply State.modPair_keeps hP
    | split
    | with_reducible apply hP.upd

theorem State.gainWrite_keeps {P : State → Prop} (hP : Closed P) {s : State} (p : Nat) (val : Word) (hs : P s) :
    P (State.gainWrite s p val) := by
  unfold State.gainWrite
  try dsimp only
  repeat' first
    | intro _
    | with_reducible
        first
        | assumption | apply State.foldl_keeps | apply State.judge_keeps hP | apply State.take_keeps hP
        | apply State.modPair_keeps hP | apply State.set_keeps hP
    | with_reducible apply hP.upd

theorem State.segWrite_keeps {P : State → Prop} (hP : Closed P) {s : State} (p : Nat) (k : Nat) (val : Word) (hs : P s) :
    P (State.segWrite s p k val) := by
  unfold State.segWrite
  try dsimp only
  repeat' first
    | intro _
    | with_reducible
        first
        | assumption | apply ite_keeps | apply State.judge_keeps hP | apply State.take_keeps hP
        | apply State.modPair_keeps hP | apply State.set_keeps hP | apply State.segOff_keeps hP
        | apply State.contStart_keeps hP
    | split
    | with_reducible apply hP.upd

theorem State.urg0Write_keeps {P : State → Prop} (hP : Closed P) {s : State} (p : Nat) (val : Word) (hs : P s) :
    P (State.urg0Write s p val) := by
  unfold State.urg0Write
  try dsimp only
  repeat' first
    | intro _
    | with_reducible
        first
        | assumption | apply State.judge_keeps hP | apply State.take_keeps hP

theorem State.urgSwWrite_keeps {P : State → Prop} (hP : Closed P) {s : State} (p : Nat) (val : Word) (hs : P s) :
    P (State.urgSwWrite s p val) := by
  unfold State.urgSwWrite
  try dsimp only
  repeat' first
    | intro _
    | with_reducible
        first
        | assumption | apply ite_keeps | apply State.judge_keeps hP | apply State.take_keeps hP
        | apply State.urgReq_keeps hP
    | split

theorem State.seqWrite_keeps {P : State → Prop} (hP : Closed P) {s : State} (p : Nat) (e : Nat) (val : Word) (hs : P s) :
    P (State.seqWrite s p e val) := by
  unfold State.seqWrite
  try dsimp only
  repeat' first
    | intro _
    | with_reducible
        first
        | assumption | apply State.judge_keeps hP | apply State.take_keeps hP

theorem State.strWrite_keeps {P : State → Prop} (hP : Closed P) {s : State} (p : Nat) (j : Nat) (val : Word) (hs : P s) :
    P (State.strWrite s p j val) := by
  unfold State.strWrite
  try dsimp only
  repeat' first
    | intro _
    | with_reducible
        first
        | assumption | apply State.judge_keeps hP | apply State.take_keeps hP | apply State.strClear_keeps hP

theorem State.bufCfgWrite_keeps {P : State → Prop} (hP : Closed P) {s : State} (p : Nat) (ofs : Nat) (val : Word) (hs : P s) :
    P (State.bufCfgWrite s p ofs val) := by
  unfold State.bufCfgWrite
  try dsimp only
  repeat' first
    | intro _
    | with_reducible
        first
        | assumption | apply State.judge_keeps hP | apply State.take_keeps hP

theorem State.calWrite_keeps {P : State → Prop} (hP : Closed P) {s : State} (p : Nat) (ofs : Nat) (val : Word) (hs : P s) :
    P (State.calWrite s p ofs val) := by
  unfold State.calWrite
  try dsimp only
  repeat' first
    | intro _
    | with_reducible
        first
        | assumption | apply ite_keeps | apply State.judge_keeps hP | apply State.take_keeps hP
        | apply State.calTouch_keeps hP
    | split

theorem execSegmentTrigger_keeps {P : State → Prop} (hP : Closed P) {s sN : State} (p : Fin 8) (k : Fin 4) (he : execSegmentTrigger p k s = .next sN) (hs : P s) : P sN := by
  unfold execSegmentTrigger at he
  try dsimp only at he
  repeat' (split at he)
  all_goals (injection he with he <;> subst he)
  repeat' first
    | with_reducible
        first
        | assumption | apply ite_keeps | apply State.segEvent_keeps hP
    | split

theorem execSegGo_keeps {P : State → Prop} (hP : Closed P) {s sN : State} (p : Fin 8) (mask : BitVec 4) (he : execSegGo p mask s = .next sN) (hs : P s) : P sN := by
  unfold execSegGo at he
  try dsimp only at he
  repeat' (split at he)
  all_goals (injection he with he <;> subst he)
  repeat' first
    | intro _
    | with_reducible
        first
        | assumption | apply State.judge_keeps hP | apply State.segGo_keeps hP

theorem execEntryIssue_keeps {P : State → Prop} (hP : Closed P) {s sN : State} (p : Fin 8) (he : execEntryIssue p s = .next sN) (hs : P s) : P sN := by
  unfold execEntryIssue at he
  try dsimp only at he
  repeat' (split at he)
  all_goals (injection he with he <;> subst he)
  repeat' first
    | with_reducible
        first
        | assumption | apply State.entryIssue_keeps hP

theorem execConversionDone_keeps {P : State → Prop} (hP : Closed P) {s sN : State} (p : Fin 8) (raw : BitVec 16) (he : execConversionDone p raw s = .next sN) (hs : P s) : P sN := by
  unfold execConversionDone at he
  try dsimp only at he
  repeat' (split at he)
  all_goals (injection he with he <;> subst he)
  repeat' first
    | with_reducible
        first
        | assumption | apply State.convDone_keeps hP

theorem execUrgentRequest_keeps {P : State → Prop} (hP : Closed P) {s sN : State} (p : Fin 8) (src : Fin 3) (u : Fin 4) (he : execUrgentRequest p src u s = .next sN) (hs : P s) : P sN := by
  unfold execUrgentRequest at he
  try dsimp only at he
  repeat' (split at he)
  all_goals (injection he with he <;> subst he)
  repeat' first
    | with_reducible
        first
        | assumption | apply State.urgSource_keeps hP

theorem execUrgSwGo_keeps {P : State → Prop} (hP : Closed P) {s sN : State} (p : Fin 8) (val : Word) (he : execUrgSwGo p val s = .next sN) (hs : P s) : P sN := by
  unfold execUrgSwGo at he
  try dsimp only at he
  repeat' (split at he)
  all_goals (injection he with he <;> subst he)
  repeat' first
    | with_reducible
        first
        | assumption | apply State.urgSwWrite_keeps hP

theorem execUrgentIssue_keeps {P : State → Prop} (hP : Closed P) {s sN : State} (p : Fin 8) (he : execUrgentIssue p s = .next sN) (hs : P s) : P sN := by
  unfold execUrgentIssue at he
  try dsimp only at he
  repeat' (split at he)
  all_goals (injection he with he <;> subst he)
  repeat' first
    | with_reducible
        first
        | assumption | apply State.urgIssue_keeps hP

theorem execAdcCalibrate_keeps {P : State → Prop} (hP : Closed P) {s sN : State} (p : Fin 8) (he : execAdcCalibrate p s = .next sN) (hs : P s) : P sN := by
  unfold execAdcCalibrate at he
  try dsimp only at he
  repeat' (split at he)
  all_goals (injection he with he <;> subst he)
  repeat' first
    | with_reducible
        first
        | assumption | apply State.calGo_keeps hP

theorem execCalDone_keeps {P : State → Prop} (hP : Closed P) {s sN : State} (p : Fin 8) (calA : Word) (calB : Word) (skew : BitVec 8) (he : execCalDone p calA calB skew s = .next sN) (hs : P s) : P sN := by
  unfold execCalDone at he
  try dsimp only at he
  repeat' (split at he)
  all_goals (injection he with he <;> subst he)
  repeat' first
    | with_reducible
        first
        | assumption | apply State.calDone_keeps hP

theorem execBufWordWritten_keeps {P : State → Prop} (hP : ClosedM P) {s sN : State} (p : Fin 8) (he : execBufWordWritten p s = .next sN) (hs : P s) : P sN := by
  unfold execBufWordWritten at he
  try dsimp only at he
  repeat' (split at he)
  all_goals (injection he with he <;> subst he)
  repeat' first
    | with_reducible
        first
        | assumption | apply State.bufWritten_keeps hP

theorem execIlvConversion_keeps {P : State → Prop} (hP : Closed P) {s sN : State} (p : Fin 8) (raw : BitVec 16) (he : execIlvConversion p raw s = .next sN) (hs : P s) : P sN := by
  unfold execIlvConversion at he
  try dsimp only at he
  repeat' (split at he)
  all_goals (injection he with he <;> subst he)
  repeat' first
    | with_reducible
        first
        | assumption | apply State.ilvConv_keeps hP

end Sys2Proof.Machine
end

