-- ==== Sys2Proof/Laws/KeepsCarriers.lean ====
section
/-! SUPPORT. Every operation of Machine/Carriers.lean keeps every property the primitive updates keep. -/

namespace Sys2Proof.Machine

set_option linter.unreachableTactic false
set_option linter.unusedTactic false
set_option linter.unnecessarySeqFocus false

theorem State.putChan_keeps {P : State → Prop} (hP : Closed P) {s : State} (ch : Nat) (c : Chan) (hs : P s) :
    P (State.putChan s ch c) := by
  unfold State.putChan
  try dsimp only
  repeat' first
    | with_reducible
        first
        | assumption | apply State.setChan_keeps hP | apply State.setB_keeps hP

theorem State.chSync_keeps {P : State → Prop} (hP : Closed P) {s : State} (ch : Nat) (hs : P s) :
    P (State.chSync s ch) := by
  unfold State.chSync
  try dsimp only
  repeat' first
    | with_reducible
        first
        | assumption | apply State.putChan_keeps hP

end Sys2Proof.Machine
end

