-- ==== Sys2Proof/Laws/KeepsReactions.lean ====
section
/-! SUPPORT. Every operation of Machine/Reactions.lean keeps every property the primitive updates keep. -/

namespace Sys2Proof.Machine

set_option linter.unreachableTactic false
set_option linter.unusedTactic false
set_option linter.unnecessarySeqFocus false

theorem State.stackTrip_keeps {P : State → Prop} (hP : Closed P) {s : State} (k : Nat) (hs : P s) :
    P (State.stackTrip s k) := by
  unfold State.stackTrip
  try dsimp only
  repeat' first
    | with_reducible
        first
        | assumption | apply ite_keeps | apply State.setStack_keeps hP | apply State.set_keeps hP
    | split
    | with_reducible apply hP.upd

theorem State.refreshLegs_keeps {P : State → Prop} (hP : Closed P) {s : State}  (hs : P s) :
    P (State.refreshLegs s) := by
  unfold State.refreshLegs
  try dsimp only
  repeat' first
    | intro _
    | with_reducible
        first
        | assumption | apply ite_keeps | apply State.each_keeps hP | apply State.set_keeps hP
    | split

theorem State.outStat_keeps {P : State → Prop} (hP : Closed P) {s : State}  (hs : P s) : P (State.outStat s) := by
  unfold State.outStat
  try dsimp only
  repeat' first
    | intro _
    | with_reducible
        first
        | assumption | apply ite_keeps | apply State.set_keeps hP | apply State.setB_keeps hP
        | apply State.refreshLegs_keeps hP
    | split

theorem State.srcActive_keeps {P : State → Prop} (hP : Closed P) {s : State} (src : Nat) (b : Bool) (hs : P s) :
    P (State.srcActive s src b) := by
  unfold State.srcActive
  try dsimp only
  repeat' first
    | intro _
    | with_reducible
        first
        | assumption | apply ite_keeps
    | split
    | with_reducible apply hP.upd

theorem State.unRearm_keeps {P : State → Prop} (hP : Closed P) {s : State} (src : Nat) (hs : P s) :
    P (State.unRearm s src) := by
  unfold State.unRearm
  try dsimp only
  repeat' first
    | intro _
    | with_reducible
        first
        | assumption | apply ite_keeps | apply State.set_keeps hP | apply State.setB_keeps hP
        | apply State.iff_keeps hP | apply State.setReg_keeps hP | apply State.irq_keeps hP
        | apply State.refuse_keeps hP
    | split
    | with_reducible apply hP.upd

theorem State.trip_keeps {P : State → Prop} (hP : Closed P) {s : State} (src : Nat) (hiz : Nat) (asc : Nat) (cells : Nat) (hs : P s) :
    P (State.trip s src hiz asc cells) := by
  unfold State.trip
  try dsimp only
  repeat' first
    | intro _
    | with_reducible
        first
        | assumption | apply ite_keeps | apply State.unRearm_keeps hP | apply State.set_keeps hP
        | apply State.irq_keeps hP | apply State.outStat_keeps hP | apply State.log_keeps hP
        | apply State.each_keeps hP | apply State.stackTrip_keeps hP
    | split
    | with_reducible apply hP.upd

theorem State.tripAll_keeps {P : State → Prop} (hP : Closed P) {s : State} (src : Nat) (hs : P s) :
    P (State.tripAll s src) := by
  unfold State.tripAll
  try dsimp only
  repeat' first
    | with_reducible
        first
        | assumption | apply State.trip_keeps hP

theorem State.tripOvr_keeps {P : State → Prop} (hP : Closed P) {s : State}  (hs : P s) : P (State.tripOvr s) := by
  unfold State.tripOvr
  try dsimp only
  repeat' first
    | intro _
    | with_reducible
        first
        | assumption | apply State.tripAll_keeps hP
    | with_reducible apply hP.upd

theorem State.mcxSource_keeps {P : State → Prop} (hP : Closed P) {s : State}  (hs : P s) : P (State.mcxSource s) := by
  unfold State.mcxSource
  try dsimp only
  repeat' first
    | intro _
    | with_reducible
        first
        | assumption | apply State.srcActive_keeps hP

theorem State.machSafe_keeps {P : State → Prop} (hP : Closed P) {s : State} (m : Nat) (st : Nat) (cause : Nat) (hs : P s) :
    P (State.machSafe s m st cause) := by
  unfold State.machSafe
  try dsimp only
  repeat' first
    | intro _
    | with_reducible
        first
        | assumption | apply ite_keeps | apply State.set_keeps hP | apply State.irq_keeps hP
        | apply State.iff_keeps hP | apply State.trip_keeps hP | apply State.mcxSource_keeps hP
    | split

theorem State.machForce_keeps {P : State → Prop} (hP : Closed P) {s : State} (st : Nat) (ms : List Nat) (hs : P s) :
    P (State.machForce s st ms) := by
  unfold State.machForce
  try dsimp only
  repeat' first
    | intro _
    | with_reducible
        first
        | assumption | apply ite_keeps | apply State.each_keeps hP | apply State.machSafe_keeps hP
    | split

theorem State.stlSyncLost_keeps {P : State → Prop} (hP : Closed P) {s : State}  (hs : P s) :
    P (State.stlSyncLost s) := by
  unfold State.stlSyncLost
  try dsimp only
  repeat' first
    | with_reducible
        first
        | assumption | apply ite_keeps | apply State.set_keeps hP | apply State.irq_keeps hP
    | split

theorem State.disarm_keeps {P : State → Prop} (hP : Closed P) {s : State} (cause : Nat) (hs : P s) :
    P (State.disarm s cause) := by
  unfold State.disarm
  try dsimp only
  repeat' first
    | intro _
    | with_reducible
        first
        | assumption | apply ite_keeps | apply State.set_keeps hP | apply State.refuse_keeps hP
        | apply State.irq_keeps hP | apply State.each_keeps hP | apply State.stackTrip_keeps hP
        | apply State.machForce_keeps hP | apply State.stlSyncLost_keeps hP | apply State.refreshLegs_keeps hP
    | split

theorem State.driveDrop_keeps {P : State → Prop} (hP : Closed P) {s : State}  (hs : P s) : P (State.driveDrop s) := by
  unfold State.driveDrop
  try dsimp only
  repeat' first
    | intro _
    | with_reducible
        first
        | assumption | apply ite_keeps | apply State.set_keeps hP | apply State.iff_keeps hP
        | apply State.each_keeps hP | apply State.modLane_keeps hP
    | split
    | with_reducible apply hP.upd

theorem State.ownAssert_keeps {P : State → Prop} (hP : Closed P) {s : State}  (hs : P s) : P (State.ownAssert s) := by
  unfold State.ownAssert
  try dsimp only
  repeat' first
    | with_reducible
        first
        | assumption | apply ite_keeps | apply State.set_keeps hP
    | split
    | with_reducible apply hP.upd

theorem State.ownRelease_keeps {P : State → Prop} (hP : Closed P) {s : State} (cause : Nat) (hs : P s) :
    P (State.ownRelease s cause) := by
  unfold State.ownRelease
  try dsimp only
  repeat' first
    | intro _
    | with_reducible
        first
        | assumption | apply ite_keeps | apply State.set_keeps hP | apply State.driveDrop_keeps hP
        | apply State.irq_keeps hP | apply State.iff_keeps hP
    | split
    | with_reducible apply hP.upd

theorem State.pinLost_keeps {P : State → Prop} (hP : Closed P) {s : State} (r : Nat) (h : Claim) (hs : P s) :
    P (State.pinLost s r h) := by
  unfold State.pinLost
  try dsimp only
  repeat' first
    | with_reducible
        first
        | assumption | apply State.set_keeps hP | apply State.bump_keeps hP | apply State.irq_keeps hP

end Sys2Proof.Machine
end

