-- ==== Sys2Proof/Laws/KeepsCellStack.lean ====
section
/-! SUPPORT. Every operation of Machine/CellStack.lean keeps every property the primitive updates keep. -/

namespace Sys2Proof.Machine

set_option linter.unreachableTactic false
set_option linter.unusedTactic false
set_option linter.unnecessarySeqFocus false

theorem State.setCst_keeps {P : State → Prop} (hP : Closed P) {s : State} (n : Nat) (st : Nat) (hs : P s) :
    P (State.setCst s n st) := by
  unfold State.setCst
  try dsimp only
  repeat' first
    | intro _
    | with_reducible
        first
        | assumption | apply State.set_keeps hP | apply State.iff_keeps hP
    | split

theorem State.grnTake_keeps {P : State → Prop} (hP : Closed P) {s : State} (k : Nat) (ch : Nat) (hs : P s) :
    P (State.grnTake s k ch) := by
  unfold State.grnTake
  try dsimp only
  repeat' first
    | with_reducible
        first
        | assumption | apply ite_keeps | apply State.chSync_keeps hP | apply State.setClaim_keeps hP
        | apply State.takeClaim_keeps hP
    | split

theorem State.grnTakeAll_keeps {P : State → Prop} (hP : Closed P) {s : State} (k : Nat) (ns : List Nat) (hs : P s) :
    P (State.grnTakeAll s k ns) := by
  unfold State.grnTakeAll
  try dsimp only
  repeat' first
    | intro _
    | with_reducible
        first
        | assumption | apply State.each_keeps hP | apply State.grnTake_keeps hP

theorem State.grnLeave_keeps {P : State → Prop} (hP : Closed P) {s : State} (k : Nat) (n : Nat) (hs : P s) :
    P (State.grnLeave s k n) := by
  unfold State.grnLeave
  try dsimp only
  repeat' first
    | intro _
    | with_reducible
        first
        | assumption | apply ite_keeps | apply State.each_keeps hP | apply State.chSync_keeps hP
        | apply State.release_keeps hP | apply State.takeClaim_keeps hP
    | split

theorem State.grnFreed_keeps {P : State → Prop} (hP : Closed P) {s : State} (n : Nat) (from_ : Option Nat) (hs : P s) :
    P (State.grnFreed s n from_) := by
  unfold State.grnFreed
  try dsimp only
  repeat' first
    | intro _
    | with_reducible
        first
        | assumption | apply State.each_keeps hP | apply State.chSync_keeps hP | apply State.release_keeps hP
    | split

theorem State.grnLeaveDue_keeps {P : State → Prop} (hP : Closed P) {s : State} (n : Nat) (hs : P s) :
    P (State.grnLeaveDue s n) := by
  unfold State.grnLeaveDue
  try dsimp only
  repeat' first
    | intro _
    | with_reducible
        first
        | assumption | apply State.grnLeave_keeps hP | apply State.modCell_keeps hP
    | split
    | with_reducible apply hP.upd

theorem State.grnLeaves_keeps {P : State → Prop} (hP : Closed P) {s : State}  (hs : P s) : P (State.grnLeaves s) := by
  unfold State.grnLeaves
  try dsimp only
  repeat' first
    | intro _
    | with_reducible
        first
        | assumption | apply State.each_keeps hP | apply State.grnLeaveDue_keeps hP

theorem State.grnLeaveAll_keeps {P : State → Prop} (hP : Closed P) {s : State} (k : Nat) (hs : P s) :
    P (State.grnLeaveAll s k) := by
  unfold State.grnLeaveAll
  try dsimp only
  repeat' first
    | intro _
    | with_reducible
        first
        | assumption | apply State.each_keeps hP | apply State.grnLeave_keeps hP | apply State.grnLeaveDue_keeps hP

theorem State.stkCfgWrite_keeps {P : State → Prop} (hP : Closed P) {s : State} (k : Nat) (val : Word) (hs : P s) :
    P (State.stkCfgWrite s k val) := by
  unfold State.stkCfgWrite
  try dsimp only
  repeat' first
    | intro _
    | with_reducible
        first
        | assumption | apply ite_keeps | apply State.take_keeps hP | apply State.deny_keeps hP
        | apply State.judge_keeps hP | apply State.grnTakeAll_keeps hP | apply State.grnLeaveAll_keeps hP
        | apply State.setStack_keeps hP | apply State.each_keeps hP | apply State.chSync_keeps hP
    | split

theorem State.cellStkOne_keeps {P : State → Prop} (hP : Closed P) {s : State} (n : Nat) (stk : Nat) (memb : Nat) (hs : P s) :
    P (State.cellStkOne s n stk memb) := by
  unfold State.cellStkOne
  try dsimp only
  repeat' first
    | intro _
    | with_reducible
        first
        | assumption | apply ite_keeps | apply State.set_keeps hP | apply State.grnFreed_keeps hP
        | apply State.modCell_keeps hP | apply State.refuse_keeps hP | apply State.deny_keeps hP
        | apply State.grnTakeAll_keeps hP | apply State.setCst_keeps hP | apply State.iff_keeps hP
    | split
    | with_reducible apply hP.upd

theorem State.cellStkWrite_keeps {P : State → Prop} (hP : Closed P) {s : State} (k : Nat) (val : Word) (hs : P s) :
    P (State.cellStkWrite s k val) := by
  unfold State.cellStkWrite
  try dsimp only
  repeat' first
    | intro _
    | with_reducible
        first
        | assumption | apply ite_keeps | apply State.judge_keeps hP | apply State.refuse_keeps hP
        | apply State.each_keeps hP | apply State.cellStkOne_keeps hP
    | split

theorem State.cellCmd_keeps {P : State → Prop} (hP : Closed P) {s : State} (cell : Nat) (op : Nat) (hs : P s) :
    P (State.cellCmd s cell op) := by
  unfold State.cellCmd
  try dsimp only
  repeat' first
    | intro _
    | with_reducible
        first
        | assumption | apply ite_keeps | apply State.judge_keeps hP | apply State.modCell_keeps hP
    | split
    | with_reducible apply hP.upd

theorem State.stkCmd_keeps {P : State → Prop} (hP : Closed P) {s : State} (k : Nat) (op : Nat) (hs : P s) :
    P (State.stkCmd s k op) := by
  unfold State.stkCmd
  try dsimp only
  repeat' first
    | intro _
    | with_reducible
        first
        | assumption | apply State.setStack_keeps hP | apply State.judge_keeps hP | apply State.set_keeps hP
    | split
    | with_reducible apply hP.upd

theorem State.applyStkCmd_keeps {P : State → Prop} (hP : Closed P) {s : State} (k : Nat) (hs : P s) :
    P (State.applyStkCmd s k) := by
  unfold State.applyStkCmd
  try dsimp only
  repeat' first
    | intro _
    | with_reducible
        first
        | assumption | apply ite_keeps | apply State.setStack_keeps hP | apply State.set_keeps hP
    | split
    | with_reducible apply hP.upd

theorem State.assignMembers_keeps {P : State → Prop} (hP : Closed P) {s : State} (k : Nat) (hs : P s) :
    P (State.assignMembers s k) := by
  unfold State.assignMembers
  try dsimp only
  repeat' first
    | intro _
    | with_reducible
        first
        | assumption | apply ite_keeps | apply State.setStack_keeps hP | apply State.each_keeps hP
        | apply State.setCst_keeps hP
    | split
    | with_reducible apply hP.upd

theorem State.blockStack_keeps {P : State → Prop} (hP : Closed P) {s : State} (k : Nat) (hs : P s) :
    P (State.blockStack s k) := by
  unfold State.blockStack
  try dsimp only
  repeat' first
    | with_reducible
        first
        | assumption | apply ite_keeps | apply State.set_keeps hP | apply State.irq_keeps hP
    | split

theorem State.cellStep_keeps {P : State → Prop} (hP : Closed P) {s : State} (k : Nat) (run : Bool) (ovCls : Nat) (n : Nat) (hs : P s) :
    P (State.cellStep s k run ovCls n) := by
  unfold State.cellStep
  try dsimp only
  repeat' first
    | intro _
    | with_reducible
        first
        | assumption | apply ite_keeps | apply State.each_keeps hP | apply State.log_keeps hP
        | apply State.iff_keeps hP | apply State.irq_keeps hP | apply State.setCst_keeps hP
        | apply State.setStack_keeps hP | apply State.blockStack_keeps hP | apply State.tripAll_keeps hP
        | apply State.modCell_keeps hP
    | split
    | with_reducible apply hP.upd

theorem State.grnSource_keeps {P : State → Prop} (hP : Closed P) {s : State}  (hs : P s) : P (State.grnSource s) := by
  unfold State.grnSource
  try dsimp only
  repeat' first
    | intro _
    | with_reducible
        first
        | assumption | apply State.srcActive_keeps hP

theorem State.bringIn_keeps {P : State → Prop} (hP : Closed P) {s : State} (n : Nat) (hs : P s) :
    P (State.bringIn s n) := by
  unfold State.bringIn
  try dsimp only
  repeat' first
    | intro _
    | with_reducible
        first
        | assumption | apply State.setCst_keeps hP | apply State.modCell_keeps hP | apply State.setDsv_keeps hP
    | with_reducible apply hP.upd

theorem State.reinsStep_keeps {P : State → Prop} (hP : Closed P) {s : State} (k : Nat) (vb : Rat) (n : Nat) (hs : P s) :
    P (State.reinsStep s k vb n) := by
  unfold State.reinsStep
  try dsimp only
  repeat' first
    | with_reducible
        first
        | assumption | apply ite_keeps | apply State.bringIn_keeps hP | apply State.irq_keeps hP
    | split

theorem State.substitute_keeps {P : State → Prop} (hP : Closed P) {s : State} (k : Nat) (vb : Rat) (hs : P s) :
    P (State.substitute s k vb) := by
  unfold State.substitute
  try dsimp only
  repeat' first
    | intro _
    | with_reducible
        first
        | assumption | apply State.bringIn_keeps hP | apply State.irq_keeps hP | apply State.setCst_keeps hP
    | split

theorem State.rank_keeps {P : State → Prop} (hP : Closed P) {s : State} (k : Nat) (hs : P s) :
    P (State.rank s k) := by
  unfold State.rank
  try dsimp only
  repeat' first
    | intro _
    | with_reducible
        first
        | assumption | apply State.each_keeps hP | apply State.set_keeps hP

theorem State.iSign_keeps {P : State → Prop} (hP : Closed P) {s sN : State} (k : Nat) {r : Int} (he : State.iSign s k = (r, sN)) (hs : P s) : P sN := by
  unfold State.iSign at he
  try dsimp only at he
  repeat' (split at he)
  all_goals (injection he with _ he <;> subst he)
  repeat' first
    | intro _
    | with_reducible
        first
        | assumption | apply ite_keeps | refine State.free_keeps2 hP ?_
    | split
    | (with_reducible apply State.free_keeps hP; with_reducible assumption)

theorem State.iSign_keeps2 {P : State → Prop} (hP : Closed P) {s : State} (k : Nat) (hs : P s) : P (State.iSign s k).2 :=
  State.iSign_keeps hP _ (Prod.eta _).symm hs

theorem State.engage_keeps {P : State → Prop} (hP : Closed P) {s : State} (k : Nat) (vb : Rat) (hs : P s) :
    P (State.engage s k vb) := by
  unfold State.engage
  try dsimp only
  repeat' first
    | intro _
    | with_reducible
        first
        | assumption | apply State.each_keeps hP | apply State.modCell_keeps hP
    | with_reducible apply hP.upd

theorem State.trims_keeps {P : State → Prop} (hP : Closed P) {s : State} (k : Nat) (vb : Rat) (isg : Int) (hs : P s) :
    P (State.trims s k vb isg) := by
  unfold State.trims
  try dsimp only
  repeat' first
    | intro _
    | with_reducible
        first
        | assumption | apply ite_keeps | apply State.foldl_keeps | apply State.each_keeps hP
        | apply State.setCell_keeps hP | apply State.modCell_keeps hP
    | split
    | with_reducible apply hP.upd

theorem State.putDuty_keeps {P : State → Prop} (hP : Closed P) {s : State} (k : Nat) (n : Nat) (d : Rat) (hs : P s) :
    P (State.putDuty s k n d) := by
  unfold State.putDuty
  try dsimp only
  repeat' first
    | intro _
    | with_reducible
        first
        | assumption | apply State.iff_keeps hP | apply State.set_keeps hP | apply State.modCell_keeps hP
    | split
    | with_reducible apply hP.upd

theorem State.dutiesPsc_keeps {P : State → Prop} (hP : Closed P) {s : State} (k : Nat) (vb : Rat) (isg : Int) (hs : P s) :
    P (State.dutiesPsc s k vb isg) := by
  unfold State.dutiesPsc
  try dsimp only
  repeat' first
    | intro _
    | with_reducible
        first
        | assumption | apply ite_keeps | apply State.trims_keeps hP | apply State.each_keeps hP
        | apply State.putDuty_keeps hP | refine State.free_keeps2 hP ?_
    | split
    | (with_reducible apply State.free_keeps hP; with_reducible assumption)

theorem State.giveRole_keeps {P : State → Prop} (hP : Closed P) {s : State} (n : Nat) (r : Nat) (hs : P s) :
    P (State.giveRole s n r) := by
  unfold State.giveRole
  try dsimp only
  repeat' first
    | intro _
    | with_reducible
        first
        | assumption | apply ite_keeps | apply State.modCell_keeps hP
    | split
    | with_reducible apply hP.upd

theorem State.fillRoles_keeps {P : State → Prop} (hP : Closed P) {s : State} (order : List Nat) (k : Nat) (hs : P s) :
    P (State.fillRoles s order k) := by
  unfold State.fillRoles
  try dsimp only
  repeat' first
    | intro _
    | with_reducible
        first
        | assumption | apply ite_keeps | apply State.each_keeps hP | apply State.take_keeps hP
        | apply State.giveRole_keeps hP
    | split

theorem State.swaps_keeps {P : State → Prop} (hP : Closed P) {s : State} (k : Nat) (up : Bool) (fuel : Nat) (hs : P s) :
    P (s.swaps k up fuel) := by
  induction fuel generalizing s with
  | zero => exact hs
  | succ n ih =>
    unfold State.swaps
    split
    · exact hs
    · exact ih (State.bump_keeps hP _ _ (State.modCell_keeps hP _ _ (State.modCell_keeps hP _ _ hs)))

theorem State.nlcAssign_keeps {P : State → Prop} (hP : Closed P) {s : State} (k : Nat) (av : Rat) (sg : Int) (up : Bool) (hs : P s) :
    P (State.nlcAssign s k av sg up) := by
  unfold State.nlcAssign
  try dsimp only
  repeat' first
    | intro _
    | with_reducible
        first
        | assumption | apply ite_keeps | apply State.each_keeps hP | apply State.modCell_keeps hP
        | apply State.fillRoles_keeps hP | apply State.swaps_keeps hP | apply State.giveRole_keeps hP
        | apply State.setStack_keeps hP
    | split
    | with_reducible apply hP.upd

theorem State.dutiesNlc_keeps {P : State → Prop} (hP : Closed P) {s : State} (k : Nat) (isg : Int) (hs : P s) :
    P (State.dutiesNlc s k isg) := by
  unfold State.dutiesNlc
  try dsimp only
  repeat' first
    | intro _
    | with_reducible
        first
        | assumption | apply ite_keeps | apply State.foldl_keeps | apply State.each_keeps hP
        | apply State.modCell_keeps hP | apply State.nlcAssign_keeps hP | apply State.iff_keeps hP
        | apply State.set_keeps hP | apply State.putDuty_keeps hP | refine State.free_keeps2 hP ?_
    | split
    | (with_reducible apply State.free_keeps hP; with_reducible assumption)
    | with_reducible apply hP.upd

theorem State.duties_keeps {P : State → Prop} (hP : Closed P) {s : State} (k : Nat) (vb : Rat) (hs : P s) :
    P (State.duties s k vb) := by
  unfold State.duties
  try dsimp only
  repeat' first
    | intro _
    | with_reducible
        first
        | assumption | apply ite_keeps | apply State.set_keeps hP | apply State.engage_keeps hP
        | apply State.dutiesPsc_keeps hP | apply State.dutiesNlc_keeps hP | apply State.each_keeps hP
        | apply State.setB_keeps hP | refine State.iSign_keeps2 hP _ ?_
    | split
    | (with_reducible apply State.iSign_keeps hP; with_reducible assumption)

theorem State.share_keeps {P : State → Prop} (hP : Closed P) {s : State} (aOld : List Nat) (aNew : List Nat) (hs : P s) :
    P (State.share s aOld aNew) := by
  unfold State.share
  try dsimp only
  repeat' first
    | intro _
    | with_reducible
        first
        | assumption | apply ite_keeps | apply State.foldl_keeps | apply State.each_keeps hP
        | apply State.modCell_keeps hP
    | split
    | with_reducible apply hP.upd

theorem State.limitCell_keeps {P : State → Prop} (hP : Closed P) {s : State} (n : Nat) (hs : P s) :
    P (State.limitCell s n) := by
  unfold State.limitCell
  try dsimp only
  repeat' first
    | with_reducible
        first
        | assumption | apply ite_keeps | apply State.setCell_keeps hP
    | split
    | with_reducible apply hP.upd

theorem State.ratio01_keeps {P : State → Prop} (hP : Closed P) {s sN : State} (num : Rat) (den : Rat) {r : Rat} (he : State.ratio01 s num den = (r, sN)) (hs : P s) : P sN := by
  unfold State.ratio01 at he
  try dsimp only at he
  repeat' (split at he)
  all_goals (injection he with _ he <;> subst he)
  repeat' first
    | with_reducible
        first
        | assumption | apply ite_keeps | refine State.free_keeps2 hP ?_
    | split
    | (with_reducible apply State.free_keeps hP; with_reducible assumption)

theorem State.ratio01_keeps2 {P : State → Prop} (hP : Closed P) {s : State} (num : Rat) (den : Rat) (hs : P s) : P (State.ratio01 s num den).2 :=
  State.ratio01_keeps hP _ _ (Prod.eta _).symm hs

theorem State.foldback_keeps {P : State → Prop} (hP : Closed P) {s : State} (k : Nat) (vb : Rat) (hs : P s) :
    P (State.foldback s k vb) := by
  unfold State.foldback
  try dsimp only
  repeat' first
    | intro _
    | with_reducible
        first
        | assumption | apply ite_keeps | apply State.iff_keeps hP | apply State.irq_keeps hP
        | apply State.setB_keeps hP | apply State.each_keeps hP | apply State.modCell_keeps hP
        | refine State.ratio01_keeps2 hP _ _ ?_
    | split
    | (with_reducible apply State.ratio01_keeps hP; with_reducible assumption)
    | with_reducible apply hP.upd

theorem State.idlePower_keeps {P : State → Prop} (hP : Closed P) {s : State} (k : Nat) (vb : Rat) (n : Nat) (hs : P s) :
    P (State.idlePower s k vb n) := by
  unfold State.idlePower
  try dsimp only
  repeat' first
    | with_reducible
        first
        | assumption | apply ite_keeps | apply State.setCell_keeps hP
    | split
    | with_reducible apply hP.upd

theorem State.plim_keeps {P : State → Prop} (hP : Closed P) {s : State} (k : Nat) (hs : P s) :
    P (State.plim s k) := by
  unfold State.plim
  try dsimp only
  repeat' first
    | intro _
    | with_reducible
        first
        | assumption | apply State.foldl_keeps | apply State.iff_keeps hP | apply State.irq_keeps hP
        | apply State.set_keeps hP | apply State.setB_keeps hP
    | split

theorem State.gapZero_keeps {P : State → Prop} (hP : Closed P) {s : State} (k : Nat) (hs : P s) :
    P (State.gapZero s k) := by
  unfold State.gapZero
  try dsimp only
  repeat' first
    | intro _
    | with_reducible
        first
        | assumption | apply ite_keeps | apply State.each_keeps hP | apply State.modCell_keeps hP
    | split
    | with_reducible apply hP.upd

theorem State.powers_keeps {P : State → Prop} (hP : Closed P) {s : State} (k : Nat) (aOld : List Nat) (vb : Rat) (hs : P s) :
    P (State.powers s k aOld vb) := by
  unfold State.powers
  try dsimp only
  repeat' first
    | intro _
    | with_reducible
        first
        | assumption | apply State.share_keeps hP | apply State.each_keeps hP | apply State.idlePower_keeps hP
        | apply State.iff_keeps hP | apply State.modCell_keeps hP | apply State.limitCell_keeps hP
        | apply State.plim_keeps hP | apply State.foldback_keeps hP | apply State.gapZero_keeps hP
    | split
    | with_reducible apply hP.upd

theorem State.slots_keeps {P : State → Prop} (hP : Closed P) {s : State} (k : Nat) (hs : P s) :
    P (State.slots s k) := by
  unfold State.slots
  try dsimp only
  repeat' first
    | intro _
    | with_reducible
        first
        | assumption | apply ite_keeps | apply State.each_keeps hP | apply State.modCell_keeps hP
        | apply State.setStack_keeps hP
    | split
    | with_reducible apply hP.upd

theorem State.writeAfe_keeps {P : State → Prop} (hP : Closed P) {s : State} (k : Nat) (hs : P s) :
    P (State.writeAfe s k) := by
  unfold State.writeAfe
  try dsimp only
  repeat' first
    | intro _
    | with_reducible
        first
        | assumption | apply ite_keeps | apply State.slots_keeps hP | apply State.each_keeps hP
        | apply State.set_keeps hP
    | split

theorem State.passStack_keeps {P : State → Prop} (hP : Closed P) {s : State} (k : Nat) (hs : P s) :
    P (State.passStack s k) := by
  unfold State.passStack
  try dsimp only
  repeat' first
    | intro _
    | with_reducible
        first
        | assumption | apply ite_keeps | apply State.setStack_keeps hP | apply State.each_keeps hP
        | apply State.modCell_keeps hP | apply State.applyStkCmd_keeps hP | apply State.iff_keeps hP
        | apply State.stackTrip_keeps hP | apply State.assignMembers_keeps hP | apply State.cellStep_keeps hP
        | apply State.substitute_keeps hP | apply State.reinsStep_keeps hP | apply State.blockStack_keeps hP
        | apply State.irq_keeps hP | apply State.rank_keeps hP | apply State.duties_keeps hP
        | apply State.powers_keeps hP | apply State.writeAfe_keeps hP | apply State.set_keeps hP
    | split
    | with_reducible apply hP.upd

theorem State.grainerPass_keeps {P : State → Prop} (hP : Closed P) {s : State}  (hs : P s) :
    P (State.grainerPass s) := by
  unfold State.grainerPass
  try dsimp only
  repeat' first
    | intro _
    | with_reducible
        first
        | assumption | apply State.each_keeps hP | apply State.passStack_keeps hP | apply State.grnSource_keeps hP

theorem State.gapFresh_keeps {P : State → Prop} (hP : Closed P) {s : State}  (hs : P s) : P (State.gapFresh s) := by
  unfold State.gapFresh
  try dsimp only
  repeat' first
    | intro _
    | with_reducible
        first
        | assumption | apply State.each_keeps hP | apply State.setStack_keeps hP
    | with_reducible apply hP.upd

theorem State.gapCfgWrite_keeps {P : State → Prop} (hP : Closed P) {s : State} (val : Word) (hs : P s) :
    P (State.gapCfgWrite s val) := by
  unfold State.gapCfgWrite
  try dsimp only
  repeat' first
    | intro _
    | with_reducible
        first
        | assumption | apply ite_keeps | apply State.judge_keeps hP | apply State.take_keeps hP
        | apply State.gapFresh_keeps hP
    | split
    | with_reducible apply hP.upd

theorem State.gapCount_keeps {P : State → Prop} (hP : Closed P) {s : State}  (hs : P s) : P (State.gapCount s) := by
  unfold State.gapCount
  try dsimp only
  repeat' first
    | with_reducible
        first
        | assumption | apply ite_keeps | apply State.gapFresh_keeps hP | apply State.setStack_keeps hP
    | split
    | with_reducible apply hP.upd

theorem State.gapEnter_keeps {P : State → Prop} (hP : Closed P) {s : State}  (hs : P s) : P (State.gapEnter s) := by
  unfold State.gapEnter
  try dsimp only
  repeat' first
    | with_reducible
        first
        | assumption | apply ite_keeps | apply State.set_keeps hP | apply State.irq_keeps hP
        | apply State.gapZero_keeps hP
    | split

theorem State.gapLeave_keeps {P : State → Prop} (hP : Closed P) {s : State}  (hs : P s) : P (State.gapLeave s) := by
  unfold State.gapLeave
  try dsimp only
  repeat' first
    | with_reducible
        first
        | assumption | apply ite_keeps | apply State.set_keeps hP | apply State.irq_keeps hP
        | apply State.setStack_keeps hP
    | split
    | with_reducible apply hP.upd

theorem execStkEnable_keeps {P : State → Prop} (hP : Closed P) {s sN : State} (k : Fin 8) (val : Word) (he : execStkEnable k val s = .next sN) (hs : P s) : P sN := by
  unfold execStkEnable at he
  try dsimp only at he
  repeat' (split at he)
  all_goals (injection he with he <;> subst he)
  repeat' first
    | with_reducible
        first
        | assumption | apply State.stkCfgWrite_keeps hP

theorem execStkDisable_keeps {P : State → Prop} (hP : Closed P) {s sN : State} (k : Fin 8) (val : Word) (he : execStkDisable k val s = .next sN) (hs : P s) : P sN := by
  unfold execStkDisable at he
  try dsimp only at he
  repeat' (split at he)
  all_goals (injection he with he <;> subst he)
  repeat' first
    | with_reducible
        first
        | assumption | apply State.stkCfgWrite_keeps hP

theorem execStkModeWrite_keeps {P : State → Prop} (hP : Closed P) {s sN : State} (k : Fin 8) (val : Word) (he : execStkModeWrite k val s = .next sN) (hs : P s) : P sN := by
  unfold execStkModeWrite at he
  try dsimp only at he
  repeat' (split at he)
  all_goals (injection he with he <;> subst he)
  repeat' first
    | with_reducible
        first
        | assumption | apply State.stkCfgWrite_keeps hP

theorem execCellStkWrite_keeps {P : State → Prop} (hP : Closed P) {s sN : State} (k : Fin 6) (val : Word) (he : execCellStkWrite k val s = .next sN) (hs : P s) : P sN := by
  unfold execCellStkWrite at he
  try dsimp only at he
  repeat' (split at he)
  all_goals (injection he with he <;> subst he)
  repeat' first
    | with_reducible
        first
        | assumption | apply State.cellStkWrite_keeps hP

theorem execCellCmdBypass_keeps {P : State → Prop} (hP : Closed P) {s sN : State} (cell : Fin 64) (he : execCellCmdBypass cell s = .next sN) (hs : P s) : P sN := by
  unfold execCellCmdBypass at he
  try dsimp only at he
  repeat' (split at he)
  all_goals (injection he with he <;> subst he)
  repeat' first
    | with_reducible
        first
        | assumption | apply State.cellCmd_keeps hP

theorem execCellCmdReinsert_keeps {P : State → Prop} (hP : Closed P) {s sN : State} (cell : Fin 64) (he : execCellCmdReinsert cell s = .next sN) (hs : P s) : P sN := by
  unfold execCellCmdReinsert at he
  try dsimp only at he
  repeat' (split at he)
  all_goals (injection he with he <;> subst he)
  repeat' first
    | with_reducible
        first
        | assumption | apply State.cellCmd_keeps hP

theorem execCellCmdSpare_keeps {P : State → Prop} (hP : Closed P) {s sN : State} (cell : Fin 64) (he : execCellCmdSpare cell s = .next sN) (hs : P s) : P sN := by
  unfold execCellCmdSpare at he
  try dsimp only at he
  repeat' (split at he)
  all_goals (injection he with he <;> subst he)
  repeat' first
    | with_reducible
        first
        | assumption | apply State.cellCmd_keeps hP

theorem execCellCmdTest_keeps {P : State → Prop} (hP : Closed P) {s sN : State} (cell : Fin 64) (he : execCellCmdTest cell s = .next sN) (hs : P s) : P sN := by
  unfold execCellCmdTest at he
  try dsimp only at he
  repeat' (split at he)
  all_goals (injection he with he <;> subst he)
  repeat' first
    | with_reducible
        first
        | assumption | apply State.cellCmd_keeps hP

theorem execCellCmdClear_keeps {P : State → Prop} (hP : Closed P) {s sN : State} (cell : Fin 64) (he : execCellCmdClear cell s = .next sN) (hs : P s) : P sN := by
  unfold execCellCmdClear at he
  try dsimp only at he
  repeat' (split at he)
  all_goals (injection he with he <;> subst he)
  repeat' first
    | with_reducible
        first
        | assumption | apply State.cellCmd_keeps hP

theorem execCellCmdRelease_keeps {P : State → Prop} (hP : Closed P) {s sN : State} (cell : Fin 64) (he : execCellCmdRelease cell s = .next sN) (hs : P s) : P sN := by
  unfold execCellCmdRelease at he
  try dsimp only at he
  repeat' (split at he)
  all_goals (injection he with he <;> subst he)
  repeat' first
    | with_reducible
        first
        | assumption | apply State.cellCmd_keeps hP

theorem execStkCmdPrecharge_keeps {P : State → Prop} (hP : Closed P) {s sN : State} (k : Fin 8) (he : execStkCmdPrecharge k s = .next sN) (hs : P s) : P sN := by
  unfold execStkCmdPrecharge at he
  try dsimp only at he
  repeat' (split at he)
  all_goals (injection he with he <;> subst he)
  repeat' first
    | with_reducible
        first
        | assumption | apply State.stkCmd_keeps hP

theorem execStkCmdRun_keeps {P : State → Prop} (hP : Closed P) {s sN : State} (k : Fin 8) (he : execStkCmdRun k s = .next sN) (hs : P s) : P sN := by
  unfold execStkCmdRun at he
  try dsimp only at he
  repeat' (split at he)
  all_goals (injection he with he <;> subst he)
  repeat' first
    | with_reducible
        first
        | assumption | apply State.stkCmd_keeps hP

theorem execStkCmdStop_keeps {P : State → Prop} (hP : Closed P) {s sN : State} (k : Fin 8) (he : execStkCmdStop k s = .next sN) (hs : P s) : P sN := by
  unfold execStkCmdStop at he
  try dsimp only at he
  repeat' (split at he)
  all_goals (injection he with he <;> subst he)
  repeat' first
    | with_reducible
        first
        | assumption | apply State.stkCmd_keeps hP

theorem execStkCmdUnblock_keeps {P : State → Prop} (hP : Closed P) {s sN : State} (k : Fin 8) (he : execStkCmdUnblock k s = .next sN) (hs : P s) : P sN := by
  unfold execStkCmdUnblock at he
  try dsimp only at he
  repeat' (split at he)
  all_goals (injection he with he <;> subst he)
  repeat' first
    | with_reducible
        first
        | assumption | apply State.stkCmd_keeps hP

theorem execGapIn_keeps {P : State → Prop} (hP : Closed P) {s sN : State}  (he : execGapIn s = .next sN) (hs : P s) : P sN := by
  unfold execGapIn at he
  try dsimp only at he
  repeat' (split at he)
  all_goals (injection he with he <;> subst he)
  repeat' first
    | with_reducible
        first
        | assumption | apply State.gapEnter_keeps hP

theorem execGapOut_keeps {P : State → Prop} (hP : Closed P) {s sN : State}  (he : execGapOut s = .next sN) (hs : P s) : P sN := by
  unfold execGapOut at he
  try dsimp only at he
  repeat' (split at he)
  all_goals (injection he with he <;> subst he)
  repeat' first
    | with_reducible
        first
        | assumption | apply State.gapLeave_keeps hP

theorem execBypFail_keeps {P : State → Prop} (hP : Closed P) {s sN : State} (n : Fin 48) (he : execBypFail n s = .next sN) (hs : P s) : P sN := by
  unfold execBypFail at he
  try dsimp only at he
  repeat' (split at he)
  all_goals (injection he with he <;> subst he)
  repeat' first
    | intro _
    | with_reducible
        first
        | assumption | apply ite_keeps | apply State.advance_keeps hP | apply State.modCell_keeps hP
        | apply State.irq_keeps hP
    | split
    | with_reducible apply hP.upd

theorem execOverloadLimit_keeps {P : State → Prop} (hP : Closed P) {s sN : State} (n : Fin 48) (he : execOverloadLimit n s = .next sN) (hs : P s) : P sN := by
  unfold execOverloadLimit at he
  try dsimp only at he
  repeat' (split at he)
  all_goals (injection he with he <;> subst he)
  repeat' first
    | intro _
    | with_reducible
        first
        | assumption | apply ite_keeps | apply State.modCell_keeps hP
    | split
    | with_reducible apply hP.upd

theorem execOverloadRelease_keeps {P : State → Prop} (hP : Closed P) {s sN : State} (n : Fin 48) (he : execOverloadRelease n s = .next sN) (hs : P s) : P sN := by
  unfold execOverloadRelease at he
  try dsimp only at he
  repeat' (split at he)
  all_goals (injection he with he <;> subst he)
  repeat' first
    | intro _
    | with_reducible
        first
        | assumption | apply ite_keeps | apply State.modCell_keeps hP
    | split
    | with_reducible apply hP.upd

end Sys2Proof.Machine
end

