-- ==== Sys2Proof/Laws/KeepsBrejaLink.lean ====
section
/-! SUPPORT. Every operation of Machine/BrejaLink.lean keeps every property the primitive updates keep. -/

namespace Sys2Proof.Machine

set_option linter.unreachableTactic false
set_option linter.unusedTactic false
set_option linter.unnecessarySeqFocus false

theorem State.lnSend_keeps {P : State → Prop} (hP : Closed P) {s : State} (n : Nat) (bs : List Blk) (hs : P s) :
    P (State.lnSend s n bs) := by
  unfold State.lnSend
  try dsimp only
  repeat' first
    | intro _
    | with_reducible
        first
        | assumption | apply State.modLane_keeps hP
    | with_reducible apply hP.upd

theorem State.lnFrame_keeps {P : State → Prop} (hP : Closed P) {s : State} (n : Nat) (f : Frame) (hs : P s) :
    P (State.lnFrame s n f) := by
  unfold State.lnFrame
  try dsimp only
  repeat' first
    | intro _
    | with_reducible
        first
        | assumption | apply State.lnSend_keeps hP | apply State.modLane_keeps hP
    | with_reducible apply hP.upd

theorem State.lnErr_keeps {P : State → Prop} (hP : Closed P) {s : State} (n : Nat) (kind : Nat) (hs : P s) :
    P (State.lnErr s n kind) := by
  unfold State.lnErr
  try dsimp only
  repeat' first
    | with_reducible
        first
        | assumption | apply State.bump_keeps hP | apply State.irq_keeps hP
    | split

theorem State.lnStrays_keeps {P : State → Prop} (hP : Closed P) {s : State} (n : Nat) (f : Frame) (hs : P s) :
    P (State.lnStrays s n f) := by
  unfold State.lnStrays
  try dsimp only
  repeat' first
    | intro _
    | with_reducible
        first
        | assumption | apply State.iff_keeps hP | apply State.bump_keeps hP
    | split

theorem State.lnGo_keeps {P : State → Prop} (hP : Closed P) {s : State} (n : Nat) (st : Nat) (hs : P s) :
    P (State.lnGo s n st) := by
  unfold State.lnGo
  try dsimp only
  repeat' first
    | intro _
    | with_reducible
        first
        | assumption | apply State.set_keeps hP | apply State.modLane_keeps hP | apply State.setB_keeps hP
    | with_reducible apply hP.upd

theorem State.lnEnd_keeps {P : State → Prop} (hP : Closed P) {s : State} (n : Nat) (hs : P s) :
    P (State.lnEnd s n) := by
  unfold State.lnEnd
  try dsimp only
  repeat' first
    | intro _
    | with_reducible
        first
        | assumption | apply State.iff_keeps hP | apply State.set_keeps hP | apply State.modLane_keeps hP
    | split
    | with_reducible apply hP.upd

theorem State.lnLeft_keeps {P : State → Prop} (hP : Closed P) {s : State} (n : Nat) (linkLoss : Bool) (hs : P s) :
    P (State.lnLeft s n linkLoss) := by
  unfold State.lnLeft
  try dsimp only
  repeat' first
    | intro _
    | with_reducible
        first
        | assumption | apply ite_keeps | apply State.set_keeps hP | apply State.modCell_keeps hP
        | apply State.setCst_keeps hP
    | split
    | with_reducible apply hP.upd

theorem State.lnDown_keeps {P : State → Prop} (hP : Closed P) {s : State} (n : Nat) (cause : Nat) (hs : P s) :
    P (State.lnDown s n cause) := by
  unfold State.lnDown
  try dsimp only
  repeat' first
    | intro _
    | with_reducible
        first
        | assumption | apply ite_keeps | apply State.lnEnd_keeps hP | apply State.set_keeps hP
        | apply State.iff_keeps hP | apply State.lnLeft_keeps hP | apply State.lnGo_keeps hP
        | apply State.irq_keeps hP
    | split

theorem State.lnUnlock_keeps {P : State → Prop} (hP : Closed P) {s : State} (n : Nat) (hs : P s) :
    P (State.lnUnlock s n) := by
  unfold State.lnUnlock
  try dsimp only
  repeat' first
    | intro _
    | with_reducible
        first
        | assumption | apply State.modLane_keeps hP
    | with_reducible apply hP.upd

theorem State.lnOff_keeps {P : State → Prop} (hP : Closed P) {s : State} (n : Nat) (hs : P s) :
    P (State.lnOff s n) := by
  unfold State.lnOff
  try dsimp only
  repeat' first
    | intro _
    | with_reducible
        first
        | assumption | apply ite_keeps | apply State.lnEnd_keeps hP | apply State.lnUnlock_keeps hP
        | apply State.set_keeps hP | apply State.iff_keeps hP | apply State.lnLeft_keeps hP | apply State.irq_keeps hP
        | apply State.lnGo_keeps hP
    | split

theorem State.blkPeriodChange_keeps {P : State → Prop} (hP : Closed P) {s : State}  (hs : P s) :
    P (State.blkPeriodChange s) := by
  unfold State.blkPeriodChange
  try dsimp only
  repeat' first
    | intro _
    | with_reducible
        first
        | assumption | apply State.each_keeps hP | apply State.setB_keeps hP | apply State.iff_keeps hP
        | apply State.irq_keeps hP
    | split

theorem State.cfgSend_keeps {P : State → Prop} (hP : Closed P) {s : State} (n : Nat) (kind : Nat) (eff : Nat) (recs : List (Nat × Nat)) (hs : P s) :
    P (State.cfgSend s n kind eff recs) := by
  unfold State.cfgSend
  try dsimp only
  repeat' first
    | intro _
    | with_reducible
        first
        | assumption | apply State.take_keeps hP | apply State.setLane_keeps hP | apply State.lnFrame_keeps hP
    | split
    | with_reducible apply hP.upd

theorem State.sendConfig_keeps {P : State → Prop} (hP : Closed P) {s : State} (n : Nat) (hs : P s) :
    P (State.sendConfig s n) := by
  unfold State.sendConfig
  try dsimp only
  repeat' first
    | intro _
    | with_reducible
        first
        | assumption | apply ite_keeps | apply State.modLane_keeps hP | apply State.cfgSend_keeps hP
    | split
    | with_reducible apply hP.upd

theorem State.sendDt_keeps {P : State → Prop} (hP : Closed P) {s : State} (n : Nat) (mask : Nat) (latest : Bool) (hs : P s) :
    P (State.sendDt s n mask latest) := by
  unfold State.sendDt
  try dsimp only
  repeat' first
    | intro _
    | with_reducible
        first
        | assumption | apply ite_keeps | apply State.modLane_keeps hP | apply State.cfgSend_keeps hP
    | split
    | with_reducible apply hP.upd

theorem State.dtClear_keeps {P : State → Prop} (hP : Closed P) {s : State} (n : Nat) (mask : Nat) (hs : P s) :
    P (State.dtClear s n mask) := by
  unfold State.dtClear
  try dsimp only
  repeat' first
    | with_reducible
        first
        | assumption | apply ite_keeps | apply State.set_keeps hP
    | split

theorem State.sendPrbs_keeps {P : State → Prop} (hP : Closed P) {s : State} (n : Nat) (v : Nat) (hs : P s) :
    P (State.sendPrbs s n v) := by
  unfold State.sendPrbs
  try dsimp only
  repeat' first
    | intro _
    | with_reducible
        first
        | assumption | apply State.modLane_keeps hP | apply State.cfgSend_keeps hP
    | with_reducible apply hP.upd

theorem State.cfgRetry_keeps {P : State → Prop} (hP : Closed P) {s : State} (n : Nat) (hs : P s) :
    P (State.cfgRetry s n) := by
  unfold State.cfgRetry
  try dsimp only
  repeat' first
    | intro _
    | with_reducible
        first
        | assumption | apply ite_keeps | apply State.modLane_keeps hP | apply State.cfgSend_keeps hP
        | apply State.lnDown_keeps hP | apply State.sendConfig_keeps hP | apply State.sendDt_keeps hP
        | apply State.sendPrbs_keeps hP
    | split
    | with_reducible apply hP.upd

theorem State.lnUpNow_keeps {P : State → Prop} (hP : Closed P) {s : State} (n : Nat) (hs : P s) :
    P (State.lnUpNow s n) := by
  unfold State.lnUpNow
  try dsimp only
  repeat' first
    | intro _
    | with_reducible
        first
        | assumption | apply State.lnGo_keeps hP | apply State.set_keeps hP | apply State.irq_keeps hP
        | apply State.setCst_keeps hP | apply State.modCell_keeps hP | apply State.modLane_keeps hP
        | apply State.dtClear_keeps hP
    | with_reducible apply hP.upd

theorem State.cfgAcked_keeps {P : State → Prop} (hP : Closed P) {s : State} (n : Nat) (a : CfgWait) (res : List Nat) (hs : P s) :
    P (State.cfgAcked s n a res) := by
  unfold State.cfgAcked
  try dsimp only
  repeat' first
    | intro _
    | with_reducible
        first
        | assumption | apply ite_keeps | apply State.modLane_keeps hP | apply State.lnUpNow_keeps hP
        | apply State.cfgRetry_keeps hP | apply State.set_keeps hP | apply State.irq_keeps hP
        | apply State.dtClear_keeps hP | apply State.lnDown_keeps hP
    | split
    | with_reducible apply hP.upd

theorem State.cfgackRx_keeps {P : State → Prop} (hP : Closed P) {s : State} (n : Nat) (f : Frame) (hs : P s) :
    P (State.cfgackRx s n f) := by
  unfold State.cfgackRx
  try dsimp only
  repeat' first
    | intro _
    | with_reducible
        first
        | assumption | apply ite_keeps | apply State.take_keeps hP | apply State.lnErr_keeps hP
        | apply State.modLane_keeps hP | apply State.cfgAcked_keeps hP
    | split
    | with_reducible apply hP.upd

theorem State.sopen_keeps {P : State → Prop} (hP : Closed P) {s : State} (n : Nat) (hs : P s) :
    P (State.sopen s n) := by
  unfold State.sopen
  try dsimp only
  repeat' first
    | intro _
    | with_reducible
        first
        | assumption | apply ite_keeps | apply State.lnDown_keeps hP | apply State.take_keeps hP
        | apply State.modLane_keeps hP | apply State.lnFrame_keeps hP | refine State.free_keeps2 hP ?_
    | split
    | (with_reducible apply State.free_keeps hP; with_reducible assumption)
    | with_reducible apply hP.upd

theorem State.sackRx_keeps {P : State → Prop} (hP : Closed P) {s : State} (n : Nat) (f : Frame) (hs : P s) :
    P (s.sackRx n f) := by
  unfold State.sackRx
  refine ite_keeps hs ?_
  dsimp only
  generalize frameCheck f 0 7 _ _ = fc
  generalize s.pairKey _ = pk
  cases fc with
  | succ e => exact State.lnErr_keeps hP _ _ hs
  | zero =>
    cases pk with
    | none => exact hs
    | some kp =>
      refine ite_keeps hs (ite_keeps hs ?_)
      exact State.sendConfig_keeps hP _ (State.lnGo_keeps hP _ _ (State.modLane_keeps hP _ _ (State.set_keeps hP _ _ hs)))

theorem State.echoReq_keeps {P : State → Prop} (hP : Closed P) {s : State} (n : Nat) (hs : P s) :
    P (State.echoReq s n) := by
  unfold State.echoReq
  try dsimp only
  repeat' first
    | intro _
    | with_reducible
        first
        | assumption | apply ite_keeps | apply State.lnSend_keeps hP | apply State.modLane_keeps hP
    | split
    | with_reducible apply hP.upd

theorem State.echoNext_keeps {P : State → Prop} (hP : Closed P) {s : State} (n : Nat) (hs : P s) :
    P (State.echoNext s n) := by
  unfold State.echoNext
  try dsimp only
  repeat' first
    | intro _
    | with_reducible
        first
        | assumption | apply ite_keeps | apply State.echoReq_keeps hP | apply State.modLane_keeps hP
    | split
    | with_reducible apply hP.upd

theorem State.measure_keeps {P : State → Prop} (hP : Closed P) {s : State} (n : Nat) (hs : P s) :
    P (State.measure s n) := by
  unfold State.measure
  try dsimp only
  repeat' first
    | intro _
    | with_reducible
        first
        | assumption | apply State.lnGo_keeps hP | apply State.modLane_keeps hP | apply State.echoReq_keeps hP
    | with_reducible apply hP.upd

theorem State.helloTake_keeps {P : State → Prop} (hP : Closed P) {s : State} (n : Nat) (b : List Byte) (hs : P s) :
    P (State.helloTake s n b) := by
  unfold State.helloTake
  try dsimp only
  repeat' first
    | intro _
    | with_reducible
        first
        | assumption | apply ite_keeps | apply State.set_keeps hP | apply State.lnDown_keeps hP
        | apply State.measure_keeps hP
    | split

theorem State.helloRx_keeps {P : State → Prop} (hP : Closed P) {s : State} (n : Nat) (f : Frame) (hs : P s) :
    P (State.helloRx s n f) := by
  unfold State.helloRx
  try dsimp only
  repeat' first
    | with_reducible
        first
        | assumption | apply ite_keeps | apply State.lnErr_keeps hP | apply State.lnGo_keeps hP
        | apply State.helloTake_keeps hP | apply State.lnDown_keeps hP
    | split

theorem State.enterKey_keeps {P : State → Prop} (hP : Closed P) {s : State} (n : Nat) (hs : P s) :
    P (State.enterKey s n) := by
  unfold State.enterKey
  try dsimp only
  repeat' first
    | intro _
    | with_reducible
        first
        | assumption | apply State.lnGo_keeps hP | apply State.modLane_keeps hP | apply State.sopen_keeps hP
    | with_reducible apply hP.upd

theorem State.echoReply_keeps {P : State → Prop} (hP : Closed P) {s : State} (n : Nat) (eid : Nat) (turn : Nat) (rtt : Nat) (hs : P s) :
    P (State.echoReply s n eid turn rtt) := by
  unfold State.echoReply
  try dsimp only
  repeat' first
    | intro _
    | with_reducible
        first
        | assumption | apply ite_keeps | apply State.foldl_keeps | apply State.echoNext_keeps hP
        | apply State.take_keeps hP | apply State.setLane_keeps hP | apply State.set_keeps hP
        | apply State.enterKey_keeps hP | apply State.lnDown_keeps hP
    | split
    | with_reducible apply hP.upd

theorem State.laneCfgWrite_keeps {P : State → Prop} (hP : Closed P) {s : State} (n : Nat) (val : Word) (hs : P s) :
    P (State.laneCfgWrite s n val) := by
  unfold State.laneCfgWrite
  try dsimp only
  repeat' first
    | intro _
    | with_reducible
        first
        | assumption | apply ite_keeps | apply State.judge_keeps hP | apply State.take_keeps hP
        | apply State.iff_keeps hP | apply State.modLane_keeps hP | apply State.lnGo_keeps hP
        | apply State.lnOff_keeps hP | apply State.sendPrbs_keeps hP
    | split
    | with_reducible apply hP.upd

theorem State.laneTxeqWrite_keeps {P : State → Prop} (hP : Closed P) {s : State} (n : Nat) (val : Word) (hs : P s) :
    P (State.laneTxeqWrite s n val) := by
  unfold State.laneTxeqWrite
  try dsimp only
  repeat' first
    | intro _
    | with_reducible
        first
        | assumption | apply State.judge_keeps hP | apply State.take_keeps hP

theorem State.creqWrite_keeps {P : State → Prop} (hP : Closed P) {s : State} (n : Nat) (val : Word) (hs : P s) :
    P (State.creqWrite s n val) := by
  unfold State.creqWrite
  try dsimp only
  repeat' first
    | intro _
    | with_reducible
        first
        | assumption | apply ite_keeps | apply State.judge_keeps hP | apply State.take_keeps hP
        | apply State.set_keeps hP | apply State.cfgSend_keeps hP
    | split

theorem State.blkCfgWrite_keeps {P : State → Prop} (hP : Closed P) {s : State} (val : Word) (hs : P s) :
    P (State.blkCfgWrite s val) := by
  unfold State.blkCfgWrite
  try dsimp only
  repeat' first
    | intro _
    | with_reducible
        first
        | assumption | apply ite_keeps | apply State.judge_keeps hP | apply State.take_keeps hP
        | apply State.each_keeps hP | apply State.lnDown_keeps hP
    | split

theorem State.blkTmoWrite_keeps {P : State → Prop} (hP : Closed P) {s : State} (val : Word) (hs : P s) :
    P (State.blkTmoWrite s val) := by
  unfold State.blkTmoWrite
  try dsimp only
  repeat' first
    | intro _
    | with_reducible
        first
        | assumption | apply State.judge_keeps hP | apply State.take_keeps hP

theorem State.statusRx_keeps {P : State → Prop} (hP : Closed P) {s : State} (n : Nat) (f : Frame) (hs : P s) :
    P (State.statusRx s n f) := by
  unfold State.statusRx
  try dsimp only
  repeat' first
    | intro _
    | with_reducible
        first
        | assumption | apply ite_keeps | apply State.iff_keeps hP | apply State.lnErr_keeps hP
        | apply State.modLane_keeps hP | apply State.bump_keeps hP | apply State.setReg_keeps hP
        | apply State.irq_keeps hP | apply State.modCell_keeps hP
    | split
    | with_reducible apply hP.upd

theorem State.latchStatus_keeps {P : State → Prop} (hP : Closed P) {s : State} (n : Nat) (hs : P s) :
    P (State.latchStatus s n) := by
  unfold State.latchStatus
  try dsimp only
  repeat' first
    | intro _
    | with_reducible
        first
        | assumption | apply ite_keeps | apply State.setCell_keeps hP | apply State.lnDown_keeps hP
        | apply State.set_keeps hP
    | split
    | with_reducible apply hP.upd

theorem State.compose_keeps {P : State → Prop} (hP : Closed P) {s : State} (n : Nat) (doze : Bool) (hs : P s) :
    P (State.compose s n doze) := by
  unfold State.compose
  try dsimp only
  repeat' first
    | with_reducible
        first
        | assumption | apply ite_keeps | apply State.setB_keeps hP | apply State.setDsv_keeps hP
        | apply State.setLane_keeps hP | apply State.lnSend_keeps hP | apply State.setCell_keeps hP
    | split
    | with_reducible apply hP.upd

theorem State.composeAll_keeps {P : State → Prop} (hP : Closed P) {s : State} (doze : Bool) (hs : P s) :
    P (State.composeAll s doze) := by
  unfold State.composeAll
  try dsimp only
  repeat' first
    | intro _
    | with_reducible
        first
        | assumption | apply State.each_keeps hP | apply State.compose_keeps hP

theorem State.blkBoundary_keeps {P : State → Prop} (hP : Closed P) {s : State}  (hs : P s) :
    P (State.blkBoundary s) := by
  unfold State.blkBoundary
  try dsimp only
  repeat' first
    | intro _
    | with_reducible
        first
        | assumption | apply ite_keeps | apply State.each_keeps hP | apply State.setLane_keeps hP
        | apply State.lnEnd_keeps hP | apply State.lnUnlock_keeps hP | apply State.lnLeft_keeps hP
        | apply State.lnGo_keeps hP | apply State.sendPrbs_keeps hP
    | split
    | with_reducible apply hP.upd

theorem execLaneEnable_keeps {P : State → Prop} (hP : Closed P) {s sN : State} (n : Fin 48) (val : Word) (he : execLaneEnable n val s = .next sN) (hs : P s) : P sN := by
  unfold execLaneEnable at he
  try dsimp only at he
  repeat' (split at he)
  all_goals (injection he with he <;> subst he)
  repeat' first
    | with_reducible
        first
        | assumption | apply State.laneCfgWrite_keeps hP

theorem execLaneDisable_keeps {P : State → Prop} (hP : Closed P) {s sN : State} (n : Fin 48) (val : Word) (he : execLaneDisable n val s = .next sN) (hs : P s) : P sN := by
  unfold execLaneDisable at he
  try dsimp only at he
  repeat' (split at he)
  all_goals (injection he with he <;> subst he)
  repeat' first
    | with_reducible
        first
        | assumption | apply State.laneCfgWrite_keeps hP

theorem State.lnLocked_keeps {P : State → Prop} (hP : Closed P) {s : State} (n : Nat) (hs : P s) :
    P (State.lnLocked s n) := by
  unfold State.lnLocked
  try dsimp only
  repeat' first
    | with_reducible
        first
        | assumption | apply ite_keeps | apply State.lnGo_keeps hP | apply State.lnFrame_keeps hP
    | split

theorem State.lnLockLost_keeps {P : State → Prop} (hP : Closed P) {s : State} (n : Nat) (hs : P s) :
    P (State.lnLockLost s n) := by
  unfold State.lnLockLost
  try dsimp only
  repeat' first
    | with_reducible
        first
        | assumption | apply ite_keeps | apply State.bump_keeps hP | apply State.set_keeps hP
        | apply State.lnDown_keeps hP
    | split

theorem State.hdrRx_keeps {P : State → Prop} (hP : Closed P) {s : State} (n : Nat) (ok : Bool) (hs : P s) :
    P (State.hdrRx s n ok) := by
  unfold State.hdrRx
  try dsimp only
  repeat' first
    | intro _
    | with_reducible
        first
        | assumption | apply ite_keeps | apply State.take_keeps hP | apply State.iff_keeps hP
        | apply State.bump_keeps hP | apply State.modLane_keeps hP | apply State.lnLockLost_keeps hP
        | apply State.lnLocked_keeps hP
    | split
    | with_reducible apply hP.upd

theorem execBlockLock_keeps {P : State → Prop} (hP : Closed P) {s sN : State} (rx : LaneHdrs) (he : execBlockLock rx s = .next sN) (hs : P s) : P sN := by
  unfold execBlockLock at he
  try dsimp only at he
  repeat' (split at he)
  all_goals (injection he with he <;> subst he)
  repeat' first
    | intro _
    | with_reducible
        first
        | assumption | apply State.each_keeps hP | apply State.hdrRx_keeps hP

theorem execBlockLockLoss_keeps {P : State → Prop} (hP : Closed P) {s sN : State} (rx : LaneHdrs) (he : execBlockLockLoss rx s = .next sN) (hs : P s) : P sN := by
  unfold execBlockLockLoss at he
  try dsimp only at he
  repeat' (split at he)
  all_goals (injection he with he <;> subst he)
  repeat' first
    | intro _
    | with_reducible
        first
        | assumption | apply State.each_keeps hP | apply State.hdrRx_keeps hP

theorem execHelloTimer_keeps {P : State → Prop} (hP : Closed P) {s sN : State} (n : Fin 48) (he : execHelloTimer n s = .next sN) (hs : P s) : P sN := by
  unfold execHelloTimer at he
  try dsimp only at he
  repeat' (split at he)
  all_goals (injection he with he <;> subst he)
  repeat' first
    | with_reducible
        first
        | assumption | apply ite_keeps | apply State.lnFrame_keeps hP
    | split

theorem execHelloRx_keeps {P : State → Prop} (hP : Closed P) {s sN : State} (n : Fin 48) (f : Frame) (he : execHelloRx n f s = .next sN) (hs : P s) : P sN := by
  unfold execHelloRx at he
  try dsimp only at he
  repeat' (split at he)
  all_goals (injection he with he <;> subst he)
  repeat' first
    | with_reducible
        first
        | assumption | apply State.lnStrays_keeps hP | apply State.helloRx_keeps hP

theorem execHelloTmo_keeps {P : State → Prop} (hP : Closed P) {s sN : State} (n : Fin 48) (he : execHelloTmo n s = .next sN) (hs : P s) : P sN := by
  unfold execHelloTmo at he
  try dsimp only at he
  repeat' (split at he)
  all_goals (injection he with he <;> subst he)
  repeat' first
    | with_reducible
        first
        | assumption | apply ite_keeps | apply State.advance_keeps hP | apply State.lnDown_keeps hP
    | split

theorem execEchoReplyRx_keeps {P : State → Prop} (hP : Closed P) {s sN : State} (n : Fin 48) (eid : BitVec 8) (turn : Word) (rtt : Nat) (he : execEchoReplyRx n eid turn rtt s = .next sN) (hs : P s) : P sN := by
  unfold execEchoReplyRx at he
  try dsimp only at he
  repeat' (split at he)
  all_goals (injection he with he <;> subst he)
  repeat' first
    | with_reducible
        first
        | assumption | apply State.echoReply_keeps hP

theorem execEchoTimeout_keeps {P : State → Prop} (hP : Closed P) {s sN : State} (n : Fin 48) (he : execEchoTimeout n s = .next sN) (hs : P s) : P sN := by
  unfold execEchoTimeout at he
  try dsimp only at he
  repeat' (split at he)
  all_goals (injection he with he <;> subst he)
  repeat' first
    | with_reducible
        first
        | assumption | apply State.advance_keeps hP | apply State.echoNext_keeps hP
    | split

theorem execMeasureLimit_keeps {P : State → Prop} (hP : Closed P) {s sN : State} (n : Fin 48) (he : execMeasureLimit n s = .next sN) (hs : P s) : P sN := by
  unfold execMeasureLimit at he
  try dsimp only at he
  repeat' (split at he)
  all_goals (injection he with he <;> subst he)
  repeat' first
    | with_reducible
        first
        | assumption | apply ite_keeps | apply State.lnDown_keeps hP
    | split

theorem execSopenRetry_keeps {P : State → Prop} (hP : Closed P) {s sN : State} (n : Fin 48) (he : execSopenRetry n s = .next sN) (hs : P s) : P sN := by
  unfold execSopenRetry at he
  try dsimp only at he
  repeat' (split at he)
  all_goals (injection he with he <;> subst he)
  repeat' first
    | with_reducible
        first
        | assumption | apply ite_keeps | apply State.advance_keeps hP | apply State.lnDown_keeps hP
        | apply State.sopen_keeps hP
    | split

theorem execSackRx_keeps {P : State → Prop} (hP : Closed P) {s sN : State} (n : Fin 48) (f : Frame) (he : execSackRx n f s = .next sN) (hs : P s) : P sN := by
  unfold execSackRx at he
  try dsimp only at he
  repeat' (split at he)
  all_goals (injection he with he <;> subst he)
  repeat' first
    | with_reducible
        first
        | assumption | apply State.lnStrays_keeps hP | apply State.sackRx_keeps hP

theorem execCfgackRx_keeps {P : State → Prop} (hP : Closed P) {s sN : State} (n : Fin 48) (f : Frame) (he : execCfgackRx n f s = .next sN) (hs : P s) : P sN := by
  unfold execCfgackRx at he
  try dsimp only at he
  repeat' (split at he)
  all_goals (injection he with he <;> subst he)
  repeat' first
    | with_reducible
        first
        | assumption | apply State.lnStrays_keeps hP | apply State.cfgackRx_keeps hP

theorem execCfgAckTimeout_keeps {P : State → Prop} (hP : Closed P) {s sN : State} (n : Fin 48) (he : execCfgAckTimeout n s = .next sN) (hs : P s) : P sN := by
  unfold execCfgAckTimeout at he
  try dsimp only at he
  repeat' (split at he)
  all_goals (injection he with he <;> subst he)
  repeat' first
    | with_reducible
        first
        | assumption | apply ite_keeps | apply State.cfgRetry_keeps hP
    | split

theorem execStatusRx_keeps {P : State → Prop} (hP : Closed P) {s sN : State} (n : Fin 48) (f : Frame) (he : execStatusRx n f s = .next sN) (hs : P s) : P sN := by
  unfold execStatusRx at he
  try dsimp only at he
  repeat' (split at he)
  all_goals (injection he with he <;> subst he)
  repeat' first
    | with_reducible
        first
        | assumption | apply State.lnStrays_keeps hP | apply State.statusRx_keeps hP

theorem execStatMiss_keeps {P : State → Prop} (hP : Closed P) {s sN : State} (n : Fin 48) (he : execStatMiss n s = .next sN) (hs : P s) : P sN := by
  unfold execStatMiss at he
  try dsimp only at he
  repeat' (split at he)
  all_goals (injection he with he <;> subst he)
  repeat' first
    | with_reducible
        first
        | assumption | apply ite_keeps | apply State.lnDown_keeps hP
    | split

theorem execDownRetry_keeps {P : State → Prop} (hP : Closed P) {s sN : State} (n : Fin 48) (he : execDownRetry n s = .next sN) (hs : P s) : P sN := by
  unfold execDownRetry at he
  try dsimp only at he
  repeat' (split at he)
  all_goals (injection he with he <;> subst he)
  repeat' first
    | with_reducible
        first
        | assumption | apply ite_keeps | apply State.advance_keeps hP | apply State.lnGo_keeps hP
    | split

theorem execTmarkSend_keeps {P : State → Prop} (hP : Closed P) {s sN : State} (n : Fin 48) (he : execTmarkSend n s = .next sN) (hs : P s) : P sN := by
  unfold execTmarkSend at he
  try dsimp only at he
  repeat' (split at he)
  all_goals (injection he with he <;> subst he)
  repeat' first
    | intro _
    | with_reducible
        first
        | assumption | apply ite_keeps | apply State.lnSend_keeps hP | apply State.modLane_keeps hP
    | split
    | with_reducible apply hP.upd

theorem execDtCfgSend_keeps {P : State → Prop} (hP : Closed P) {s sN : State} (n : Fin 48) (he : execDtCfgSend n s = .next sN) (hs : P s) : P sN := by
  unfold execDtCfgSend at he
  try dsimp only at he
  repeat' (split at he)
  all_goals (injection he with he <;> subst he)
  repeat' first
    | with_reducible
        first
        | assumption | apply ite_keeps | apply State.sendDt_keeps hP
    | split

theorem execCreqGo_keeps {P : State → Prop} (hP : Closed P) {s sN : State} (n : Fin 48) (val : Word) (he : execCreqGo n val s = .next sN) (hs : P s) : P sN := by
  unfold execCreqGo at he
  try dsimp only at he
  repeat' (split at he)
  all_goals (injection he with he <;> subst he)
  repeat' first
    | with_reducible
        first
        | assumption | apply State.creqWrite_keeps hP

theorem execPrbsStart_keeps {P : State → Prop} (hP : Closed P) {s sN : State} (n : Fin 48) (val : Word) (he : execPrbsStart n val s = .next sN) (hs : P s) : P sN := by
  unfold execPrbsStart at he
  try dsimp only at he
  repeat' (split at he)
  all_goals (injection he with he <;> subst he)
  repeat' first
    | with_reducible
        first
        | assumption | apply State.laneCfgWrite_keeps hP

theorem execPrbsEnd_keeps {P : State → Prop} (hP : Closed P) {s sN : State} (n : Fin 48) (errs : Word) (he : execPrbsEnd n errs s = .next sN) (hs : P s) : P sN := by
  unfold execPrbsEnd at he
  try dsimp only at he
  repeat' (split at he)
  all_goals (injection he with he <;> subst he)
  repeat' first
    | intro _
    | with_reducible
        first
        | assumption | apply ite_keeps | apply State.advance_keeps hP | apply State.bump_keeps hP
        | apply State.iff_keeps hP | apply State.irq_keeps hP | apply State.lnGo_keeps hP
    | split

theorem execSscSet_keeps {P : State → Prop} (hP : Closed P) {s sN : State} (val : Word) (he : execSscSet val s = .next sN) (hs : P s) : P sN := by
  unfold execSscSet at he
  try dsimp only at he
  repeat' (split at he)
  all_goals (injection he with he <;> subst he)
  repeat' first
    | with_reducible
        first
        | assumption | apply State.blkCfgWrite_keeps hP

end Sys2Proof.Machine
end

