-- ==== Sys2Proof/Laws/KeepsCan.lean ====
section
/-! SUPPORT. Every operation of Machine/Can.lean keeps every property the primitive updates keep. -/

namespace Sys2Proof.Machine

set_option linter.unreachableTactic false
set_option linter.unusedTactic false
set_option linter.unnecessarySeqFocus false

theorem State.setCan_keeps {P : State → Prop} (hP : Closed P) {s : State} (c : Nat) (x : CanSt) (hs : P s) :
    P (State.setCan s c x) := by
  unfold State.setCan
  try dsimp only
  repeat' first
    | intro _
    | with_reducible
        first
        | assumption
    | with_reducible apply hP.upd

theorem State.modCan_keeps {P : State → Prop} (hP : Closed P) {s : State} (c : Nat) (f : CanSt → CanSt) (hs : P s) :
    P (State.modCan s c f) := by
  unfold State.modCan
  try dsimp only
  repeat' first
    | with_reducible
        first
        | assumption | apply State.setCan_keeps hP

theorem State.canBoundary_keeps {P : State → Prop} (hP : Closed P) {s : State}  (hs : P s) :
    P (State.canBoundary s) := by
  unfold State.canBoundary
  try dsimp only
  repeat' first
    | intro _
    | with_reducible
        first
        | assumption | apply State.each_keeps hP | apply State.set_keeps hP

theorem execCanEnable_keeps {P : State → Prop} (hP : Closed P) {s sN : State} (k : Fin 4) (he : execCanEnable k s = .next sN) (hs : P s) : P sN := by
  unfold execCanEnable at he
  try dsimp only at he
  repeat' (split at he)
  all_goals (injection he with he <;> subst he)
  repeat' first
    | intro _
    | with_reducible
        first
        | assumption | apply ite_keeps | apply State.judge_keeps hP | apply State.claimAll_keeps hP
        | apply State.set_keeps hP | apply State.modCan_keeps hP
    | split
    | with_reducible apply hP.upd

theorem State.canHead_keeps {P : State → Prop} (hP : Closed P) {s : State} (c : Nat) (hs : P s) :
    P (State.canHead s c) := by
  unfold State.canHead
  try dsimp only
  repeat' first
    | intro _
    | with_reducible
        first
        | assumption | apply State.modCan_keeps hP | apply State.set_keeps hP
    | split
    | with_reducible apply hP.upd

theorem State.canComplete_keeps {P : State → Prop} (hP : ClosedM P) {s : State} (c : Nat) (slot : Nat) (st : Nat) (hs : P s) :
    P (State.canComplete s c slot st) := by
  unfold State.canComplete
  try dsimp only
  repeat' first
    | intro _
    | with_reducible
        first
        | assumption | apply ite_keeps | apply State.modCan_keeps hP.toClosed | apply State.irq_keeps hP.toClosed
        | apply State.iff_keeps hP.toClosed | apply State.canHead_keeps hP.toClosed
        | refine State.dmaWrite_keeps2 hP _ _ _ ?_
    | split
    | (with_reducible apply State.dmaWrite_keeps hP; with_reducible assumption)
    | with_reducible apply hP.toClosed.upd

theorem execTxqPush_keeps {P : State → Prop} (hP : Closed P) {s sN : State} (k : Fin 4) (he : execTxqPush k s = .next sN) (hs : P s) : P sN := by
  unfold execTxqPush at he
  try dsimp only at he
  repeat' (split at he)
  all_goals (injection he with he <;> subst he)
  repeat' first
    | intro _
    | with_reducible
        first
        | assumption | apply ite_keeps | apply State.judge_keeps hP | apply State.modCan_keeps hP
        | apply State.set_keeps hP | apply State.canHead_keeps hP | refine State.dmaRead_keeps2 hP _ _ _ ?_
    | split
    | (with_reducible apply State.dmaRead_keeps hP; with_reducible assumption)
    | with_reducible apply hP.upd

theorem State.canGate_keeps {P : State → Prop} (hP : Closed P) {s : State} (c : Nat) (b : Bool) (hs : P s) :
    P (State.canGate s c b) := by
  unfold State.canGate
  try dsimp only
  repeat' first
    | intro _
    | with_reducible
        first
        | assumption | apply ite_keeps | apply State.modCan_keeps hP | apply State.setB_keeps hP
    | split
    | with_reducible apply hP.upd

theorem State.canEnded_keeps {P : State → Prop} (hP : Closed P) {s : State} (c : Nat) (hs : P s) :
    P (State.canEnded s c) := by
  unfold State.canEnded
  try dsimp only
  repeat' first
    | intro _
    | with_reducible
        first
        | assumption | apply State.modCan_keeps hP
    | with_reducible apply hP.upd

theorem State.canTs_keeps {P : State → Prop} (hP : Closed P) {s : State} (c : Nat) (slot : Nat) (ts : Nat) (hs : P s) :
    P (State.canTs s c slot ts) := by
  unfold State.canTs
  try dsimp only
  repeat' first
    | intro _
    | with_reducible
        first
        | assumption | apply ite_keeps | apply State.modCan_keeps hP
    | split
    | with_reducible apply hP.upd

theorem execTxqAbort_keeps {P : State → Prop} (hP : ClosedM P) {s sN : State} (k : Fin 4) (val : Word) (sof : Bool) (he : execTxqAbort k val sof s = .next sN) (hs : P s) : P sN := by
  unfold execTxqAbort at he
  try dsimp only at he
  repeat' (split at he)
  all_goals (injection he with he <;> subst he)
  repeat' first
    | intro _
    | with_reducible
        first
        | assumption | apply ite_keeps | apply State.judge_keeps hP.toClosed | apply State.each_keeps hP.toClosed
        | apply State.modCan_keeps hP.toClosed | apply State.set_keeps hP.toClosed | apply State.canComplete_keeps hP
    | split
    | with_reducible apply hP.toClosed.upd

theorem State.canDisable_keeps {P : State → Prop} (hP : ClosedM P) {s : State} (c : Nat) (hs : P s) :
    P (State.canDisable s c) := by
  unfold State.canDisable
  try dsimp only
  repeat' first
    | intro _
    | with_reducible
        first
        | assumption | apply ite_keeps | apply State.canTs_keeps hP.toClosed | apply State.each_keeps hP.toClosed
        | apply State.canComplete_keeps hP | apply State.set_keeps hP.toClosed
        | apply State.canEnded_keeps hP.toClosed | apply State.releaseAll_keeps hP.toClosed
        | refine State.free_keeps2 hP.toClosed ?_
    | split
    | (with_reducible apply State.free_keeps hP.toClosed; with_reducible assumption)

theorem execCanDisable_keeps {P : State → Prop} (hP : ClosedM P) {s sN : State} (k : Fin 4) (he : execCanDisable k s = .next sN) (hs : P s) : P sN := by
  unfold execCanDisable at he
  try dsimp only at he
  repeat' (split at he)
  all_goals (injection he with he <;> subst he)
  repeat' first
    | intro _
    | with_reducible
        first
        | assumption | apply ite_keeps | apply State.judge_keeps hP.toClosed | apply State.canDisable_keeps hP
    | split

theorem State.canStore_keeps {P : State → Prop} (hP : ClosedM P) {s : State} (c : Nat) (q : Nat) (f : CanFrame) (fidx : Nat) (sof : Nat) (hs : P s) :
    P (State.canStore s c q f fidx sof) := by
  unfold State.canStore
  try dsimp only
  repeat' first
    | intro _
    | with_reducible
        first
        | assumption | apply ite_keeps | apply State.modCan_keeps hP.toClosed | apply State.bump_keeps hP.toClosed
        | apply State.irq_keeps hP.toClosed | apply State.iff_keeps hP.toClosed | apply State.set_keeps hP.toClosed
        | apply State.setReg_keeps hP.toClosed | refine State.dmaPut_keeps2 hP _ _ _ _ ?_
    | split
    | (with_reducible apply State.dmaPut_keeps hP; with_reducible assumption)
    | with_reducible apply hP.toClosed.upd

theorem State.canRx_keeps {P : State → Prop} (hP : ClosedM P) {s : State} (c : Nat) (f : CanFrame) (sof : Nat) (hs : P s) :
    P (State.canRx s c f sof) := by
  unfold State.canRx
  try dsimp only
  repeat' first
    | with_reducible
        first
        | assumption | apply ite_keeps | apply State.canStore_keeps hP | refine State.free_keeps2 hP.toClosed ?_
    | split
    | (with_reducible apply State.free_keeps hP.toClosed; with_reducible assumption)

theorem State.canCounts_keeps {P : State → Prop} (hP : ClosedM P) {s : State} (c : Nat) (tec : Nat) (rc : Nat) (hs : P s) :
    P (State.canCounts s c tec rc) := by
  unfold State.canCounts
  try dsimp only
  repeat' first
    | intro _
    | with_reducible
        first
        | assumption | apply ite_keeps | apply State.set_keeps hP.toClosed | apply State.setB_keeps hP.toClosed
        | apply State.iff_keeps hP.toClosed | apply State.irq_keeps hP.toClosed | apply State.bump_keeps hP.toClosed
        | apply State.canComplete_keeps hP
    | split

theorem State.canTxErr_keeps {P : State → Prop} (hP : ClosedM P) {s : State} (c : Nat) (kind : Nat) (exempt : Bool) (hs : P s) :
    P (State.canTxErr s c kind exempt) := by
  unfold State.canTxErr
  try dsimp only
  repeat' first
    | with_reducible
        first
        | assumption | apply ite_keeps | apply State.canCounts_keeps hP
    | split

theorem State.canErr_keeps {P : State → Prop} (hP : ClosedM P) {s : State} (c : Nat) (kind : Nat) (side : CanSide) (big : Bool) (dat : Bool) (hs : P s) :
    P (State.canErr s c kind side big dat) := by
  unfold State.canErr
  try dsimp only
  repeat' first
    | intro _
    | with_reducible
        first
        | assumption | apply ite_keeps | apply State.bump_keeps hP.toClosed | apply State.irq_keeps hP.toClosed
        | apply State.modCan_keeps hP.toClosed | apply State.set_keeps hP.toClosed | apply State.canCounts_keeps hP
        | apply State.canTxErr_keeps hP | apply State.canTs_keeps hP.toClosed
    | split
    | with_reducible apply hP.toClosed.upd

theorem execCanError_keeps {P : State → Prop} (hP : ClosedM P) {s sN : State} (k : Fin 4) (kind : Fin 8) (side : CanSide) (big : Bool) (dat : Bool) (he : execCanError k kind side big dat s = .next sN) (hs : P s) : P sN := by
  unfold execCanError at he
  try dsimp only at he
  repeat' (split at he)
  all_goals (injection he with he <;> subst he)
  repeat' first
    | with_reducible
        first
        | assumption | apply ite_keeps | apply State.canErr_keeps hP
    | split

theorem State.canRxGood_keeps {P : State → Prop} (hP : ClosedM P) {s : State} (c : Nat) (hs : P s) :
    P (State.canRxGood s c) := by
  unfold State.canRxGood
  try dsimp only
  repeat' first
    | with_reducible
        first
        | assumption | apply ite_keeps | apply State.canCounts_keeps hP | refine State.free_keeps2 hP.toClosed ?_
    | split
    | (with_reducible apply State.free_keeps hP.toClosed; with_reducible assumption)

theorem execCanFrameRx_keeps {P : State → Prop} (hP : ClosedM P) {s sN : State} (k : Fin 4) (f : CanFrame) (ago : Nat) (he : execCanFrameRx k f ago s = .next sN) (hs : P s) : P sN := by
  unfold execCanFrameRx at he
  try dsimp only at he
  repeat' (split at he)
  all_goals (injection he with he <;> subst he)
  repeat' first
    | with_reducible
        first
        | assumption | apply ite_keeps | apply State.canErr_keeps hP | apply State.canRxGood_keeps hP
        | apply State.canRx_keeps hP | apply State.canEnded_keeps hP.toClosed
        | refine State.free_keeps2 hP.toClosed ?_
    | split
    | (with_reducible apply State.free_keeps hP.toClosed; with_reducible assumption)

theorem execRxqAck_keeps {P : State → Prop} (hP : ClosedM P) {s sN : State} (k : Fin 4) (val : Word) (he : execRxqAck k val s = .next sN) (hs : P s) : P sN := by
  unfold execRxqAck at he
  try dsimp only at he
  repeat' (split at he)
  all_goals (injection he with he <;> subst he)
  repeat' first
    | intro _
    | with_reducible
        first
        | assumption | apply ite_keeps | apply State.judge_keeps hP.toClosed | apply State.each_keeps hP.toClosed
        | apply State.refuse_keeps hP.toClosed | apply State.modCan_keeps hP.toClosed
        | apply State.set_keeps hP.toClosed | apply State.setB_keeps hP.toClosed | apply State.irq_keeps hP.toClosed
        | apply State.canStore_keeps hP
    | split
    | with_reducible apply hP.toClosed.upd

theorem State.canTdc_keeps {P : State → Prop} (hP : Closed P) {s : State} (c : Nat) (f : CanFrame) (res : Nat) (hs : P s) :
    P (State.canTdc s c f res) := by
  unfold State.canTdc
  try dsimp only
  repeat' first
    | with_reducible
        first
        | assumption | apply ite_keeps | apply State.set_keeps hP | refine State.free_keeps2 hP ?_
    | split
    | (with_reducible apply State.free_keeps hP; with_reducible assumption)

theorem execCanTxDone_keeps {P : State → Prop} (hP : ClosedM P) {s sN : State} (k : Fin 4) (res : Fin 3) (ago : Nat) (he : execCanTxDone k res ago s = .next sN) (hs : P s) : P sN := by
  unfold execCanTxDone at he
  try dsimp only at he
  repeat' (split at he)
  all_goals (injection he with he <;> subst he)
  repeat' first
    | intro _
    | with_reducible
        first
        | assumption | apply ite_keeps | apply State.canTs_keeps hP.toClosed | apply State.canTdc_keeps hP.toClosed
        | apply State.canCounts_keeps hP | apply State.iff_keeps hP.toClosed | apply State.modCan_keeps hP.toClosed
        | apply State.canRx_keeps hP | apply State.canComplete_keeps hP | apply State.canEnded_keeps hP.toClosed
    | split
    | with_reducible apply hP.toClosed.upd

theorem execCanRestart_keeps {P : State → Prop} (hP : Closed P) {s sN : State} (k : Fin 4) (he : execCanRestart k s = .next sN) (hs : P s) : P sN := by
  unfold execCanRestart at he
  try dsimp only at he
  repeat' (split at he)
  all_goals (injection he with he <;> subst he)
  repeat' first
    | intro _
    | with_reducible
        first
        | assumption | apply State.judge_keeps hP | apply State.set_keeps hP

theorem execBusoffRecovered_keeps {P : State → Prop} (hP : Closed P) {s sN : State} (k : Fin 4) (he : execBusoffRecovered k s = .next sN) (hs : P s) : P sN := by
  unfold execBusoffRecovered at he
  try dsimp only at he
  repeat' (split at he)
  all_goals (injection he with he <;> subst he)
  repeat' first
    | with_reducible
        first
        | assumption | apply ite_keeps | apply State.set_keeps hP | apply State.irq_keeps hP
    | split

theorem State.ttCycle_keeps {P : State → Prop} (hP : Closed P) {s : State} (c : Nat) (cc : Nat) (t : Nat) (hs : P s) :
    P (State.ttCycle s c cc t) := by
  unfold State.ttCycle
  try dsimp only
  repeat' first
    | intro _
    | with_reducible
        first
        | assumption | apply State.modCan_keeps hP | apply State.set_keeps hP | apply State.canGate_keeps hP
        | apply State.irq_keeps hP
    | with_reducible apply hP.upd

theorem execTtReference_keeps {P : State → Prop} (hP : Closed P) {s sN : State} (k : Fin 4) (f : CanFrame) (ago : Nat) (he : execTtReference k f ago s = .next sN) (hs : P s) : P sN := by
  unfold execTtReference at he
  try dsimp only at he
  repeat' (split at he)
  all_goals (injection he with he <;> subst he)
  repeat' first
    | intro _
    | with_reducible
        first
        | assumption | apply ite_keeps | apply id_keeps | apply State.ttCycle_keeps hP | apply State.iff_keeps hP
        | apply State.set_keeps hP
    | split

theorem execTtMasterRef_keeps {P : State → Prop} (hP : Closed P) {s sN : State} (k : Fin 4) (he : execTtMasterRef k s = .next sN) (hs : P s) : P sN := by
  unfold execTtMasterRef at he
  try dsimp only at he
  repeat' (split at he)
  all_goals (injection he with he <;> subst he)
  repeat' first
    | with_reducible
        first
        | assumption | apply ite_keeps | apply State.advance_keeps hP | apply State.ttCycle_keeps hP
    | split

theorem execRefMiss_keeps {P : State → Prop} (hP : Closed P) {s sN : State} (k : Fin 4) (he : execRefMiss k s = .next sN) (hs : P s) : P sN := by
  unfold execRefMiss at he
  try dsimp only at he
  repeat' (split at he)
  all_goals (injection he with he <;> subst he)
  repeat' first
    | intro _
    | with_reducible
        first
        | assumption | apply ite_keeps | apply State.advance_keeps hP | apply State.set_keeps hP
        | apply State.irq_keeps hP | apply State.modCan_keeps hP | apply State.iff_keeps hP
    | split
    | with_reducible apply hP.upd

theorem execTtTrigger_keeps {P : State → Prop} (hP : Closed P) {s sN : State} (k : Fin 4) (j : Fin 8) (he : execTtTrigger k j s = .next sN) (hs : P s) : P sN := by
  unfold execTtTrigger at he
  try dsimp only at he
  repeat' (split at he)
  all_goals (injection he with he <;> subst he)
  repeat' first
    | with_reducible
        first
        | assumption | apply ite_keeps | apply State.advance_keeps hP | apply State.irq_keeps hP
        | apply State.canGate_keeps hP
    | split

theorem State.canTscRestart_keeps {P : State → Prop} (hP : Closed P) {s : State} (c : Nat) (presc : Nat) (hs : P s) :
    P (State.canTscRestart s c presc) := by
  unfold State.canTscRestart
  try dsimp only
  repeat' first
    | intro _
    | with_reducible
        first
        | assumption | apply State.modCan_keeps hP
    | with_reducible apply hP.upd

end Sys2Proof.Machine
end

