-- ==== Sys2Proof/Laws/KeepsDabSolver.lean ====
section
/-! SUPPORT. Every operation of Machine/DabSolver.lean keeps every property the primitive updates keep. -/

namespace Sys2Proof.Machine

set_option linter.unreachableTactic false
set_option linter.unusedTactic false
set_option linter.unnecessarySeqFocus false

theorem State.dsvEnOne_keeps {P : State → Prop} (hP : Closed P) {s : State} (n : Nat) (on : Bool) (hs : P s) :
    P (State.dsvEnOne s n on) := by
  unfold State.dsvEnOne
  try dsimp only
  repeat' first
    | intro _
    | with_reducible
        first
        | assumption | apply ite_keeps | apply State.judge_keeps hP | apply State.set_keeps hP
        | apply State.deny_keeps hP | apply State.chSync_keeps hP | apply State.takeClaim_keeps hP
        | apply State.release_keeps hP
    | split

theorem State.dsvOver_keeps {P : State → Prop} (hP : Closed P) {s : State}  (hs : P s) : P (State.dsvOver s) := by
  unfold State.dsvOver
  try dsimp only
  repeat' first
    | with_reducible
        first
        | assumption | apply State.setB_keeps hP

theorem State.dsvEnWrite_keeps {P : State → Prop} (hP : Closed P) {s : State} (m : Nat) (val : Word) (hs : P s) :
    P (State.dsvEnWrite s m val) := by
  unfold State.dsvEnWrite
  try dsimp only
  repeat' first
    | intro _
    | with_reducible
        first
        | assumption | apply ite_keeps | apply State.after_keeps hP | apply State.judge_keeps hP
        | apply State.each_keeps hP | apply State.dsvEnOne_keeps hP | apply State.dsvOver_keeps hP
    | split

theorem State.parCommit_keeps {P : State → Prop} (hP : Closed P) {s : State} (cell : Nat) (hs : P s) :
    P (State.parCommit s cell) := by
  unfold State.parCommit
  try dsimp only
  repeat' first
    | intro _
    | with_reducible
        first
        | assumption | apply ite_keeps | apply State.judge_keeps hP | apply State.setDsv_keeps hP
        | apply State.set_keeps hP
    | split
    | with_reducible apply hP.upd

theorem State.parApply_keeps {P : State → Prop} (hP : Closed P) {s : State}  (hs : P s) : P (State.parApply s) := by
  unfold State.parApply
  try dsimp only
  repeat' first
    | intro _
    | with_reducible
        first
        | assumption | apply State.each_keeps hP | apply State.setReg_keeps hP | apply State.setDsv_keeps hP
        | apply State.set_keeps hP | apply State.irq_keeps hP
    | split
    | with_reducible apply hP.upd

theorem State.dsvOpen_keeps {P : State → Prop} (hP : Closed P) {s : State}  (hs : P s) : P (State.dsvOpen s) := by
  unfold State.dsvOpen
  try dsimp only
  repeat' first
    | intro _
    | with_reducible
        first
        | assumption | apply State.each_keeps hP | apply State.setDsv_keeps hP
    | with_reducible apply hP.upd

theorem State.dsvSolveOne_keeps {P : State → Prop} (hP : Closed P) {s : State} (n : Nat) (hs : P s) :
    P (State.dsvSolveOne s n) := by
  unfold State.dsvSolveOne
  try dsimp only
  repeat' first
    | with_reducible
        first
        | assumption | apply State.setDsv_keeps hP
    | with_reducible apply hP.upd

theorem State.dsvSolve_keeps {P : State → Prop} (hP : Closed P) {s : State}  (hs : P s) : P (State.dsvSolve s) := by
  unfold State.dsvSolve
  try dsimp only
  repeat' first
    | intro _
    | with_reducible
        first
        | assumption | apply ite_keeps | apply State.each_keeps hP | apply State.dsvSolveOne_keeps hP
    | split
    | with_reducible apply hP.upd

theorem State.dsvDoneT_keeps {P : State → Prop} (hP : Closed P) {s : State}  (hs : P s) : P (State.dsvDoneT s) := by
  unfold State.dsvDoneT
  try dsimp only
  repeat' first
    | with_reducible
        first
        | assumption | apply State.set_keeps hP
    | with_reducible apply hP.upd

theorem State.dsvLatch_keeps {P : State → Prop} (hP : Closed P) {s : State}  (hs : P s) : P (State.dsvLatch s) := by
  unfold State.dsvLatch
  try dsimp only
  repeat' first
    | intro _
    | with_reducible
        first
        | assumption | apply ite_keeps | apply State.each_keeps hP | apply State.set_keeps hP
        | apply State.setS_keeps hP | apply State.setB_keeps hP | apply State.iff_keeps hP | apply State.bump_keeps hP
        | apply State.irq_keeps hP | apply State.setDsv_keeps hP
    | split
    | with_reducible apply hP.upd

theorem State.dsvBudget_keeps {P : State → Prop} (hP : Closed P) {s : State}  (hs : P s) : P (State.dsvBudget s) := by
  unfold State.dsvBudget
  try dsimp only
  repeat' first
    | intro _
    | with_reducible
        first
        | assumption | apply State.set_keeps hP | apply State.dsvOver_keeps hP | apply State.iff_keeps hP
        | apply State.irq_keeps hP
    | split

theorem execDsvCellEnable_keeps {P : State → Prop} (hP : Closed P) {s sN : State} (n : Fin 48) (he : execDsvCellEnable n s = .next sN) (hs : P s) : P sN := by
  unfold execDsvCellEnable at he
  try dsimp only at he
  repeat' (split at he)
  all_goals (injection he with he <;> subst he)
  repeat' first
    | with_reducible
        first
        | assumption | apply ite_keeps | apply State.dsvEnWrite_keeps hP
    | split

theorem execDsvCellDisable_keeps {P : State → Prop} (hP : Closed P) {s sN : State} (n : Fin 48) (he : execDsvCellDisable n s = .next sN) (hs : P s) : P sN := by
  unfold execDsvCellDisable at he
  try dsimp only at he
  repeat' (split at he)
  all_goals (injection he with he <;> subst he)
  repeat' first
    | with_reducible
        first
        | assumption | apply ite_keeps | apply State.dsvEnWrite_keeps hP
    | split

theorem execParCommit_keeps {P : State → Prop} (hP : Closed P) {s sN : State} (cell : Fin 64) (he : execParCommit cell s = .next sN) (hs : P s) : P sN := by
  unfold execParCommit at he
  try dsimp only at he
  repeat' (split at he)
  all_goals (injection he with he <;> subst he)
  repeat' first
    | with_reducible
        first
        | assumption | apply State.parCommit_keeps hP

theorem execParDone_keeps {P : State → Prop} (hP : Closed P) {s sN : State}  (he : execParDone s = .next sN) (hs : P s) : P sN := by
  unfold execParDone at he
  try dsimp only at he
  repeat' (split at he)
  all_goals (injection he with he <;> subst he)
  repeat' first
    | with_reducible
        first
        | assumption | apply State.parApply_keeps hP

end Sys2Proof.Machine
end

