-- ==== Sys2Proof/Laws/KeepsLoopEngines.lean ====
section
/-! SUPPORT. Every operation of Machine/LoopEngines.lean keeps every property the primitive updates keep. -/

namespace Sys2Proof.Machine

set_option linter.unreachableTactic false
set_option linter.unusedTactic false
set_option linter.unnecessarySeqFocus false

theorem State.leRefresh_keeps {P : State → Prop} (hP : Closed P) {s : State} (e : Nat) (hs : P s) :
    P (State.leRefresh s e) := by
  unfold State.leRefresh
  try dsimp only
  repeat' first
    | with_reducible
        first
        | assumption | apply State.set_keeps hP | apply State.setB_keeps hP

theorem State.leBudget_keeps {P : State → Prop} (hP : Closed P) {s : State}  (hs : P s) : P (State.leBudget s) := by
  unfold State.leBudget
  try dsimp only
  repeat' first
    | intro _
    | with_reducible
        first
        | assumption | apply State.each_keeps hP | apply State.leRefresh_keeps hP | apply State.iff_keeps hP
        | apply State.irq_keeps hP
    | split

theorem State.setBlks_keeps {P : State → Prop} (hP : Closed P) {s : State} (l : List LeBlk) (hs : P s) :
    P (State.setBlks s l) := by
  unfold State.setBlks
  try dsimp only
  repeat' first
    | intro _
    | with_reducible
        first
        | assumption | apply State.each_keeps hP | apply State.setB_keeps hP
    | with_reducible apply hP.upd

theorem State.leBlock_keeps {P : State → Prop} (hP : Closed P) {s : State} (c : Nat) (own : Bool) (hs : P s) :
    P (State.leBlock s c own) := by
  unfold State.leBlock
  try dsimp only
  repeat' first
    | intro _
    | with_reducible
        first
        | assumption | apply ite_keeps | apply State.setBlks_keeps hP
    | split

theorem State.leUnblock_keeps {P : State → Prop} (hP : Closed P) {s : State} (c : Nat) (hs : P s) :
    P (State.leUnblock s c) := by
  unfold State.leUnblock
  try dsimp only
  repeat' first
    | intro _
    | with_reducible
        first
        | assumption | apply ite_keeps | apply State.setBlks_keeps hP
    | split

theorem State.leOrphan_keeps {P : State → Prop} (hP : Closed P) {s : State} (c : Nat) (hs : P s) :
    P (State.leOrphan s c) := by
  unfold State.leOrphan
  try dsimp only
  repeat' first
    | intro _
    | with_reducible
        first
        | assumption | apply ite_keeps | apply State.setBlks_keeps hP
    | split
    | with_reducible apply hP.upd

theorem State.moveEnd_keeps {P : State → Prop} (hP : Closed P) {s : State} (e : Nat) (st : Nat) (code : Nat) (hs : P s) :
    P (State.moveEnd s e st code) := by
  unfold State.moveEnd
  try dsimp only
  repeat' first
    | with_reducible
        first
        | assumption | apply ite_keeps | apply State.setEng_keeps hP | apply State.set_keeps hP
        | apply State.irq_keeps hP
    | split
    | with_reducible apply hP.upd

theorem State.moveCancel_keeps {P : State → Prop} (hP : Closed P) {s : State} (e : Nat) (hs : P s) :
    P (State.moveCancel s e) := by
  unfold State.moveCancel
  try dsimp only
  repeat' first
    | intro _
    | with_reducible
        first
        | assumption | apply State.each_keeps hP | apply State.moveEnd_keeps hP
    | split

theorem State.redirect_keeps {P : State → Prop} (hP : ClosedM P) {s : State} (p : Nat) (q : Nat) (hs : P s) :
    P (State.redirect s p q) := by
  unfold State.redirect
  try dsimp only
  repeat' first
    | intro _
    | with_reducible
        first
        | assumption | apply ite_keeps | apply State.each_keeps hP.toClosed | apply State.unitWrite_keeps hP
    | split

theorem State.moveHeld_keeps {P : State → Prop} (hP : Closed P) {s : State} (p : Nat) (q : Nat) (hs : P s) :
    P (State.moveHeld s p q) := by
  unfold State.moveHeld
  try dsimp only
  repeat' first
    | intro _
    | with_reducible
        first
        | assumption | apply ite_keeps | apply State.each_keeps hP | apply State.setClaim_keeps hP
        | apply State.setBlks_keeps hP
    | split
    | with_reducible apply hP.upd

theorem State.moveCancelCtx_keeps {P : State → Prop} (hP : Closed P) {s : State} (c : Nat) (hs : P s) :
    P (State.moveCancelCtx s c) := by
  unfold State.moveCancelCtx
  try dsimp only
  repeat' first
    | intro _
    | with_reducible
        first
        | assumption | apply ite_keeps | apply State.iff_keeps hP | apply State.setEng_keeps hP
        | apply State.each_keeps hP | apply State.moveHeld_keeps hP | apply State.moveEnd_keeps hP
    | split
    | with_reducible apply hP.upd

theorem State.ctxClear_keeps {P : State → Prop} (hP : Closed P) {s : State} (c : Nat) (hs : P s) :
    P (State.ctxClear s c) := by
  unfold State.ctxClear
  try dsimp only
  repeat' first
    | intro _
    | with_reducible
        first
        | assumption | apply State.set_keeps hP | apply State.modLectx_keeps hP | apply State.iff_keeps hP
        | apply State.irq_keeps hP | apply State.setEng_keeps hP | apply State.leOrphan_keeps hP
        | apply State.releaseAll_keeps hP | apply State.leRefresh_keeps hP
    | split
    | with_reducible apply hP.upd

theorem State.ctxEnBit_keeps {P : State → Prop} (hP : Closed P) {s : State} (c : Nat) (on : Bool) (hs : P s) :
    P (State.ctxEnBit s c on) := by
  unfold State.ctxEnBit
  try dsimp only
  repeat' first
    | intro _
    | with_reducible
        first
        | assumption | apply ite_keeps | apply State.refuse_keeps hP | apply State.modLectx_keeps hP
        | apply State.moveCancelCtx_keeps hP | apply State.ctxClear_keeps hP
    | split
    | with_reducible apply hP.upd

theorem State.ctxEnWrite_keeps {P : State → Prop} (hP : Closed P) {s : State} (e : Nat) (mask : Nat) (hs : P s) :
    P (State.ctxEnWrite s e mask) := by
  unfold State.ctxEnWrite
  try dsimp only
  repeat' first
    | intro _
    | with_reducible
        first
        | assumption | apply State.judge_keeps hP | apply State.each_keeps hP | apply State.ctxEnBit_keeps hP

theorem State.takeDest_keeps {P : State → Prop} (hP : Closed P) {s : State} (c : Nat) (b : LeBind) (hs : P s) :
    P (State.takeDest s c b) := by
  unfold State.takeDest
  try dsimp only
  repeat' first
    | with_reducible
        first
        | assumption | apply ite_keeps | apply State.setClaim_keeps hP | apply State.takeClaim_keeps hP
    | split
    | with_reducible apply hP.upd

theorem State.scanEnd_keeps {P : State → Prop} (hP : Closed P) {s : State} (c : Nat) (hs : P s) :
    P (State.scanEnd s c) := by
  unfold State.scanEnd
  try dsimp only
  repeat' first
    | intro _
    | with_reducible
        first
        | assumption | apply ite_keeps | apply State.modLectx_keeps hP | apply State.refuse_keeps hP
        | apply State.set_keeps hP | apply State.deny_keeps hP | apply State.each_keeps hP
        | apply State.takeDest_keeps hP | apply State.leRefresh_keeps hP
    | split
    | with_reducible apply hP.upd

theorem State.setRun_keeps {P : State → Prop} (hP : Closed P) {s : State} (e : Nat) (r : Option LeRun) (hs : P s) :
    P (State.setRun s e r) := by
  unfold State.setRun
  try dsimp only
  repeat' first
    | with_reducible
        first
        | assumption | apply State.setEng_keeps hP
    | with_reducible apply hP.upd

theorem State.runEnd_keeps {P : State → Prop} (hP : Closed P) {s : State} (e : Nat) (r : LeRun) (hs : P s) :
    P (State.runEnd s e r) := by
  unfold State.runEnd
  try dsimp only
  repeat' first
    | with_reducible
        first
        | assumption | apply State.setEng_keeps hP | apply State.set_keeps hP | apply State.setB_keeps hP
    | with_reducible apply hP.upd

theorem State.ctxReaction_keeps {P : State → Prop} (hP : Closed P) {s sN : State} (c : Nat) {r : Nat} (he : State.ctxReaction s c = (r, sN)) (hs : P s) : P sN := by
  unfold State.ctxReaction at he
  try dsimp only at he
  repeat' (split at he)
  all_goals (injection he with _ he <;> subst he)
  repeat' first
    | with_reducible
        first
        | assumption | apply ite_keeps | apply State.setLectx_keeps hP | apply State.irq_keeps hP
    | split
    | with_reducible apply hP.upd

theorem State.ctxReaction_keeps2 {P : State → Prop} (hP : Closed P) {s : State} (c : Nat) (hs : P s) : P (State.ctxReaction s c).2 :=
  State.ctxReaction_keeps hP _ (Prod.eta _).symm hs

theorem State.ctxAbort_keeps {P : State → Prop} (hP : Closed P) {s : State} (c : Nat) (cause : Nat) (win : Nat) (hs : P s) :
    P (State.ctxAbort s c cause win) := by
  unfold State.ctxAbort
  try dsimp only
  repeat' first
    | intro _
    | with_reducible
        first
        | assumption | apply ite_keeps | apply State.set_keeps hP | apply State.bump_keeps hP
        | apply State.irq_keeps hP | apply State.iff_keeps hP | apply State.leBlock_keeps hP
        | apply State.moveCancelCtx_keeps hP | apply State.ctxClear_keeps hP | refine State.ctxReaction_keeps2 hP _ ?_
    | split
    | (with_reducible apply State.ctxReaction_keeps hP; with_reducible assumption)

theorem State.leAbort_keeps {P : State → Prop} (hP : Closed P) {s : State} (e : Nat) (r : LeRun) (cause : Nat) (hs : P s) :
    P (State.leAbort s e r cause) := by
  unfold State.leAbort
  try dsimp only
  repeat' first
    | with_reducible
        first
        | assumption | apply State.runEnd_keeps hP | apply State.ctxAbort_keeps hP

theorem State.leStop_keeps {P : State → Prop} (hP : Closed P) {s : State} (c : Nat) (hs : P s) :
    P (State.leStop s c) := by
  unfold State.leStop
  try dsimp only
  repeat' first
    | with_reducible
        first
        | assumption | apply ite_keeps | apply State.runEnd_keeps hP | apply State.setEng_keeps hP
        | apply State.moveCancelCtx_keeps hP | apply State.leBlock_keeps hP | apply State.ctxClear_keeps hP
    | split
    | with_reducible apply hP.upd

theorem State.leUe_keeps {P : State → Prop} (hP : Closed P) {s : State} (e : Nat) (r : LeRun) (hs : P s) :
    P (State.leUe s e r) := by
  unfold State.leUe
  try dsimp only
  repeat' first
    | with_reducible
        first
        | assumption | apply State.runEnd_keeps hP | apply State.leStop_keeps hP

theorem State.leExec_keeps {P : State → Prop} (hP : Closed P) {s : State} (e : Nat) (i : Instr) (cost : Nat)
    (f : State → LeRun → Except Nat (State × LeRun)) (hf : ∀ s r t r', f s r = .ok (t, r') → P s → P t) (hs : P s) :
    P (s.leExec e i cost f) := by
  unfold State.leExec
  split
  · exact hs
  · split
    · exact hs
    · split
      · exact State.leUe_keeps hP _ _ hs
      · dsimp only
        split
        · exact State.leAbort_keeps hP _ _ _ hs
        · split
          · exact State.leAbort_keeps hP _ _ _ hs
          · next h => exact State.setRun_keeps hP _ _ (hf _ _ _ _ h hs)

theorem State.leReg_keeps {P : State → Prop} (hP : Closed P) {s : State} (e : Nat) (i : Instr) (cost : Nat)
    (f : LeRun → Except Nat LeRun) (hs : P s) : P (s.leReg e i cost f) := by
  refine State.leExec_keeps hP _ _ _ _ ?_ hs
  intro s r t r' h hs
  cases hf : f r with
  | error c => rw [hf] at h; exact absurd h (by simp [Except.map])
  | ok x =>
    rw [hf] at h
    simp only [Except.map, Except.ok.injEq, Prod.mk.injEq] at h
    exact h.1 ▸ hs

theorem State.leCommit_keeps {P : State → Prop} (hP : ClosedM P) {s : State} (e : Nat) (r : LeRun) (hs : P s) :
    P (State.leCommit s e r) := by
  unfold State.leCommit
  try dsimp only
  repeat' first
    | intro _
    | with_reducible
        first
        | assumption | apply State.each_keeps hP.toClosed | apply State.setMword_keeps hP
        | apply State.set_keeps hP.toClosed | apply State.setB_keeps hP.toClosed
        | apply State.modLectx_keeps hP.toClosed | apply State.iff_keeps hP.toClosed
        | apply State.irq_keeps hP.toClosed | apply State.leUnblock_keeps hP.toClosed
    | split
    | with_reducible apply hP.toClosed.upd

end Sys2Proof.Machine
end

