-- ==== Sys2Proof/Laws/KeepsModulators.lean ====
section
/-! SUPPORT. Every operation of Machine/Modulators.lean keeps every property the primitive updates keep. -/

namespace Sys2Proof.Machine

set_option linter.unreachableTactic false
set_option linter.unusedTactic false
set_option linter.unnecessarySeqFocus false

theorem State.chCapture_keeps {P : State → Prop} (hP : Closed P) {s : State} (ch : Nat) (hs : P s) :
    P (State.chCapture s ch) := by
  unfold State.chCapture
  try dsimp only
  repeat' first
    | intro _
    | with_reducible
        first
        | assumption | apply ite_keeps | apply State.putChan_keeps hP | apply State.set_keeps hP
        | apply State.modLane_keeps hP
    | split
    | with_reducible apply hP.upd

theorem State.captureAll_keeps {P : State → Prop} (hP : Closed P) {s : State}  (hs : P s) :
    P (State.captureAll s) := by
  unfold State.captureAll
  try dsimp only
  repeat' first
    | intro _
    | with_reducible
        first
        | assumption | apply ite_keeps | apply State.each_keeps hP | apply State.chCapture_keeps hP
    | split

theorem State.afeFromPubs_keeps {P : State → Prop} (hP : Closed P) {s : State} (clsAfe : Nat) (hs : P s) :
    P (State.afeFromPubs s clsAfe) := by
  unfold State.afeFromPubs
  try dsimp only
  repeat' first
    | intro _
    | with_reducible
        first
        | assumption | apply ite_keeps | apply State.each_keeps hP | apply State.set_keeps hP
    | split

theorem State.grnCapture_keeps {P : State → Prop} (hP : Closed P) {s : State}  (hs : P s) :
    P (State.grnCapture s) := by
  unfold State.grnCapture
  try dsimp only
  repeat' first
    | intro _
    | with_reducible
        first
        | assumption | apply ite_keeps | apply State.each_keeps hP | apply State.putChan_keeps hP
    | split
    | with_reducible apply hP.upd

theorem State.chBoundary_keeps {P : State → Prop} (hP : Closed P) {s : State}  (hs : P s) :
    P (State.chBoundary s) := by
  unfold State.chBoundary
  try dsimp only
  repeat' first
    | intro _
    | with_reducible
        first
        | assumption | apply ite_keeps | apply State.each_keeps hP | apply State.putChan_keeps hP
    | split

theorem State.setOvf_keeps {P : State → Prop} (hP : Closed P) {s : State} (n : Nat) (b : Bool) (hs : P s) :
    P (State.setOvf s n b) := by
  unfold State.setOvf
  try dsimp only
  repeat' first
    | intro _
    | with_reducible
        first
        | assumption | apply State.iff_keeps hP | apply State.irq_keeps hP | apply State.modCell_keeps hP
        | apply State.setB_keeps hP
    | split
    | with_reducible apply hP.upd

theorem State.modCell1_keeps {P : State → Prop} (hP : Closed P) {s : State} (n : Nat) (hs : P s) :
    P (State.modCell1 s n) := by
  unfold State.modCell1
  try dsimp only
  repeat' first
    | intro _
    | with_reducible
        first
        | assumption | apply ite_keeps | apply State.set_keeps hP | apply State.modCell_keeps hP
        | apply State.setOvf_keeps hP
    | split
    | with_reducible apply hP.upd

theorem State.modCompute_keeps {P : State → Prop} (hP : Closed P) {s : State}  (hs : P s) :
    P (State.modCompute s) := by
  unfold State.modCompute
  try dsimp only
  repeat' first
    | intro _
    | with_reducible
        first
        | assumption | apply State.each_keeps hP | apply State.modCell1_keeps hP

theorem State.modPeriod_keeps {P : State → Prop} (hP : Closed P) {s : State}  (hs : P s) : P (State.modPeriod s) := by
  unfold State.modPeriod
  try dsimp only
  repeat' first
    | intro _
    | with_reducible
        first
        | assumption | apply ite_keeps | apply State.each_keeps hP | apply State.setOvf_keeps hP
    | split

theorem State.chDefer_keeps {P : State → Prop} (hP : Closed P) {s : State} (ch : Nat) (hs : P s) :
    P (State.chDefer s ch) := by
  unfold State.chDefer
  try dsimp only
  repeat' first
    | with_reducible
        first
        | assumption | apply ite_keeps | apply State.chCapture_keeps hP | apply State.setChan_keeps hP
        | apply State.set_keeps hP | apply State.bump_keeps hP
    | split
    | with_reducible apply hP.upd

theorem State.chWrite_keeps {P : State → Prop} (hP : Closed P) {s : State} (ch : Nat) (r : Nat) (val : Word) (hs : P s) :
    P (State.chWrite s ch r val) := by
  unfold State.chWrite
  try dsimp only
  repeat' first
    | intro _
    | with_reducible
        first
        | assumption | apply ite_keeps | apply id_keeps | apply State.chDefer_keeps hP | apply State.take_keeps hP
        | apply State.judge_keeps hP | apply State.chSync_keeps hP
    | split

theorem State.unlockDefer_keeps {P : State → Prop} (hP : Closed P) {s : State} (chs : List Nat) (hs : P s) :
    P (State.unlockDefer s chs) := by
  unfold State.unlockDefer
  try dsimp only
  repeat' first
    | intro _
    | with_reducible
        first
        | assumption | apply State.each_keeps hP | apply State.setChan_keeps hP | apply State.set_keeps hP
        | apply State.bump_keeps hP
    | with_reducible apply hP.upd

theorem State.chpgWrite_keeps {P : State → Prop} (hP : Closed P) {s : State} (p : Nat) (val : Word) (hs : P s) :
    P (State.chpgWrite s p val) := by
  unfold State.chpgWrite
  try dsimp only
  repeat' first
    | intro _
    | with_reducible
        first
        | assumption | apply ite_keeps | apply State.judge_keeps hP | apply State.each_keeps hP
        | apply State.chSync_keeps hP | apply State.unlockDefer_keeps hP | apply State.take_keeps hP
    | split

theorem State.modCfgWrite_keeps {P : State → Prop} (hP : Closed P) {s : State} (val : Word) (hs : P s) :
    P (State.modCfgWrite s val) := by
  unfold State.modCfgWrite
  try dsimp only
  repeat' first
    | intro _
    | with_reducible
        first
        | assumption | apply ite_keeps | apply State.judge_keeps hP | apply State.each_keeps hP
        | apply State.chSync_keeps hP | apply State.unlockDefer_keeps hP | apply State.take_keeps hP
    | split

theorem State.putLeg_keeps {P : State → Prop} (hP : Closed P) {s : State} (k : Nat) (c : Chan) (hs : P s) :
    P (State.putLeg s k c) := by
  unfold State.putLeg
  try dsimp only
  repeat' first
    | with_reducible
        first
        | assumption | apply State.setChan_keeps hP | apply State.setB_keeps hP

theorem State.legRunIn_keeps {P : State → Prop} (hP : Closed P) {s : State} (k : Nat) (per : Int → Nat) (x : Int) (hs : P s) :
    P (State.legRunIn s k per x) := by
  unfold State.legRunIn
  try dsimp only
  repeat' first
    | intro _
    | with_reducible
        first
        | assumption | apply ite_keeps | apply State.setChan_keeps hP | apply State.putLeg_keeps hP
        | apply State.set_keeps hP
    | split
    | with_reducible apply hP.upd

theorem State.legRun_keeps {P : State → Prop} (hP : Closed P) {s : State} (k : Nat) (x : Int) (hs : P s) :
    P (State.legRun s k x) := by
  unfold State.legRun
  try dsimp only
  repeat' first
    | with_reducible
        first
        | assumption | apply State.legRunIn_keeps hP

theorem State.legSync_keeps {P : State → Prop} (hP : Closed P) {s : State} (k : Nat) (hs : P s) :
    P (State.legSync s k) := by
  unfold State.legSync
  try dsimp only
  repeat' first
    | with_reducible
        first
        | assumption | apply State.legRun_keeps hP

theorem State.legDefer_keeps {P : State → Prop} (hP : Closed P) {s : State} (k : Nat) (hs : P s) :
    P (State.legDefer s k) := by
  unfold State.legDefer
  try dsimp only
  repeat' first
    | with_reducible
        first
        | assumption | apply ite_keeps | apply State.set_keeps hP | apply State.bump_keeps hP
        | apply State.irq_keeps hP
    | split
    | with_reducible apply hP.upd

theorem State.legStart_keeps {P : State → Prop} (hP : Closed P) {s : State} (k : Nat) (hs : P s) :
    P (State.legStart s k) := by
  unfold State.legStart
  try dsimp only
  repeat' first
    | with_reducible
        first
        | assumption | apply ite_keeps | apply State.putLeg_keeps hP
    | split

theorem State.legStop_keeps {P : State → Prop} (hP : Closed P) {s : State} (k : Nat) (hs : P s) :
    P (State.legStop s k) := by
  unfold State.legStop
  try dsimp only
  repeat' first
    | with_reducible
        first
        | assumption | apply State.setChan_keeps hP
    | with_reducible apply hP.upd

theorem State.legCfgWrite_keeps {P : State → Prop} (hP : Closed P) {s : State} (k : Nat) (val : Word) (hs : P s) :
    P (State.legCfgWrite s k val) := by
  unfold State.legCfgWrite
  try dsimp only
  repeat' first
    | intro _
    | with_reducible
        first
        | assumption | apply ite_keeps | apply State.fitted_keeps hP | apply State.judge_keeps hP
        | apply State.legSync_keeps hP | apply State.legDefer_keeps hP | apply State.take_keeps hP
        | apply State.claimAll_keeps hP | apply State.legStart_keeps hP | apply State.refreshLegs_keeps hP
        | apply State.release_keeps hP | apply State.legStop_keeps hP | apply State.putLeg_keeps hP
    | split
    | with_reducible apply hP.upd

theorem State.legWrite_keeps {P : State → Prop} (hP : Closed P) {s : State} (k : Nat) (r : Nat) (val : Word) (hs : P s) :
    P (State.legWrite s k r val) := by
  unfold State.legWrite
  try dsimp only
  repeat' first
    | intro _
    | with_reducible
        first
        | assumption | apply ite_keeps | apply State.legSync_keeps hP | apply State.legDefer_keeps hP
        | apply State.take_keeps hP | apply State.putLeg_keeps hP | apply State.legCfgWrite_keeps hP
        | apply State.fitted_keeps hP | apply State.judge_keeps hP | apply State.set_keeps hP
    | split
    | with_reducible apply hP.upd

theorem State.lpwCtlWrite_keeps {P : State → Prop} (hP : Closed P) {s : State} (val : Word) (hs : P s) :
    P (State.lpwCtlWrite s val) := by
  unfold State.lpwCtlWrite
  try dsimp only
  repeat' first
    | intro _
    | with_reducible
        first
        | assumption | apply State.judge_keeps hP | apply State.each_keeps hP | apply State.legSync_keeps hP
        | apply State.legDefer_keeps hP | apply State.take_keeps hP

theorem State.legUnblock_keeps {P : State → Prop} (hP : Closed P) {s : State} (k : Nat) (hs : P s) :
    P (State.legUnblock s k) := by
  unfold State.legUnblock
  try dsimp only
  repeat' first
    | with_reducible
        first
        | assumption | apply ite_keeps | apply State.refreshLegs_keeps hP
    | split
    | with_reducible apply hP.upd

theorem State.legBoundary_keeps {P : State → Prop} (hP : Closed P) {s : State}  (hs : P s) :
    P (State.legBoundary s) := by
  unfold State.legBoundary
  try dsimp only
  repeat' first
    | intro _
    | with_reducible
        first
        | assumption | apply State.each_keeps hP | apply State.legRunIn_keeps hP | apply State.legUnblock_keeps hP
        | apply State.refreshLegs_keeps hP
    | with_reducible apply hP.upd

theorem State.tripIn_keeps {P : State → Prop} (hP : Closed P) {s : State} (n : Nat) (hs : P s) :
    P (State.tripIn s n) := by
  unfold State.tripIn
  try dsimp only
  repeat' first
    | with_reducible
        first
        | assumption | apply ite_keeps | apply State.trip_keeps hP | apply State.tripAll_keeps hP
    | split

theorem State.trpEval_keeps {P : State → Prop} (hP : Closed P) {s : State}  (hs : P s) : P (State.trpEval s) := by
  unfold State.trpEval
  try dsimp only
  repeat' first
    | intro _
    | with_reducible
        first
        | assumption | apply State.each_keeps hP | apply State.set_keeps hP | apply State.srcActive_keeps hP
        | apply State.tripIn_keeps hP

theorem State.flagClear_keeps {P : State → Prop} (hP : Closed P) {s : State} (internal : Bool) (mask : Nat) (hs : P s) :
    P (State.flagClear s internal mask) := by
  unfold State.flagClear
  try dsimp only
  repeat' first
    | intro _
    | with_reducible
        first
        | assumption | apply ite_keeps | apply State.judge_keeps hP | apply State.each_keeps hP
        | apply State.irq_keeps hP | apply State.refuse_keeps hP | apply State.set_keeps hP
    | split

theorem State.haltLift_keeps {P : State → Prop} (hP : Closed P) {s : State}  (hs : P s) : P (State.haltLift s) := by
  unfold State.haltLift
  try dsimp only
  repeat' first
    | intro _
    | with_reducible
        first
        | assumption | apply ite_keeps | apply State.set_keeps hP
    | split
    | with_reducible apply hP.upd

theorem State.latchClear_keeps {P : State → Prop} (hP : Closed P) {s : State} (src : Nat) (hs : P s) :
    P (State.latchClear s src) := by
  unfold State.latchClear
  try dsimp only
  repeat' first
    | intro _
    | with_reducible
        first
        | assumption | apply State.set_keeps hP | apply State.haltLift_keeps hP | apply State.outStat_keeps hP
        | refine State.free_keeps2 hP ?_
    | (with_reducible apply State.free_keeps hP; with_reducible assumption)
    | with_reducible apply hP.upd

theorem State.rearmNote_keeps {P : State → Prop} (hP : Closed P) {s : State} (src : Nat) (hs : P s) :
    P (State.rearmNote s src) := by
  unfold State.rearmNote
  try dsimp only
  repeat' first
    | intro _
    | with_reducible
        first
        | assumption | apply ite_keeps
    | split
    | with_reducible apply hP.upd

theorem State.rearm_keeps {P : State → Prop} (hP : Closed P) {s : State} (mask : Nat) (hs : P s) :
    P (State.rearm s mask) := by
  unfold State.rearm
  try dsimp only
  repeat' first
    | intro _
    | with_reducible
        first
        | assumption | apply ite_keeps | apply State.judge_keeps hP | apply State.each_keeps hP
        | apply State.irq_keeps hP | apply State.refuse_keeps hP | apply State.legSync_keeps hP
        | apply State.rearmNote_keeps hP | apply State.latchClear_keeps hP
    | split

theorem State.haltReact_keeps {P : State → Prop} (hP : Closed P) {s : State}  (hs : P s) : P (State.haltReact s) := by
  unfold State.haltReact
  try dsimp only
  repeat' first
    | with_reducible
        first
        | assumption | apply ite_keeps | apply State.irq_keeps hP | apply State.set_keeps hP
    | split
    | with_reducible apply hP.upd

theorem State.haltFrom_keeps {P : State → Prop} (hP : Closed P) {s : State} (src : Nat) (hs : P s) :
    P (State.haltFrom s src) := by
  unfold State.haltFrom
  try dsimp only
  repeat' first
    | intro _
    | with_reducible
        first
        | assumption | apply ite_keeps | apply State.iff_keeps hP | apply State.set_keeps hP
        | apply State.irq_keeps hP | apply State.each_keeps hP | apply State.legSync_keeps hP
        | apply State.unRearm_keeps hP | apply State.haltReact_keeps hP | apply State.srcActive_keeps hP
        | apply State.trip_keeps hP
    | split
    | with_reducible apply hP.upd

theorem State.clockStop_keeps {P : State → Prop} (hP : Closed P) {s : State}  (hs : P s) : P (State.clockStop s) := by
  unfold State.clockStop
  try dsimp only
  repeat' first
    | intro _
    | with_reducible
        first
        | assumption | apply State.each_keeps hP | apply State.legSync_keeps hP | apply State.unRearm_keeps hP
        | apply State.haltReact_keeps hP | apply State.irq_keeps hP | apply State.set_keeps hP
        | apply State.srcActive_keeps hP | apply State.trip_keeps hP | apply State.disarm_keeps hP
        | apply State.ownRelease_keeps hP
    | with_reducible apply hP.upd

theorem State.haltOver_keeps {P : State → Prop} (hP : Closed P) {s : State} (src : Nat) (hs : P s) :
    P (State.haltOver s src) := by
  unfold State.haltOver
  try dsimp only
  repeat' first
    | with_reducible
        first
        | assumption | apply ite_keeps | apply State.set_keeps hP | apply State.srcActive_keeps hP
    | split
    | with_reducible apply hP.upd

theorem State.frzLapse_keeps {P : State → Prop} (hP : Closed P) {s : State}  (hs : P s) : P (State.frzLapse s) := by
  unfold State.frzLapse
  try dsimp only
  repeat' first
    | with_reducible
        first
        | assumption | apply ite_keeps | apply State.set_keeps hP | apply State.irq_keeps hP
        | apply State.refreshLegs_keeps hP
    | split
    | with_reducible apply hP.upd

theorem State.carrier_keeps {P : State → Prop} (hP : Closed P) {s : State} (ch : Nat) (valley : Bool) (hs : P s) :
    P (State.carrier s ch valley) := by
  unfold State.carrier
  try dsimp only
  repeat' first
    | with_reducible
        first
        | assumption | apply ite_keeps | apply State.advance_keeps hP | apply State.putChan_keeps hP
        | apply State.legRun_keeps hP
    | split
    | with_reducible apply hP.upd

theorem execCarrierValley_keeps {P : State → Prop} (hP : Closed P) {s sN : State} (ch : Fin 108) (he : execCarrierValley ch s = .next sN) (hs : P s) : P sN := by
  unfold execCarrierValley at he
  try dsimp only at he
  repeat' (split at he)
  all_goals (injection he with he <;> subst he)
  repeat' first
    | with_reducible
        first
        | assumption | apply State.carrier_keeps hP

theorem execCarrierPeak_keeps {P : State → Prop} (hP : Closed P) {s sN : State} (ch : Fin 108) (he : execCarrierPeak ch s = .next sN) (hs : P s) : P sN := by
  unfold execCarrierPeak at he
  try dsimp only at he
  repeat' (split at he)
  all_goals (injection he with he <;> subst he)
  repeat' first
    | with_reducible
        first
        | assumption | apply State.carrier_keeps hP

theorem execChPrdWrite_keeps {P : State → Prop} (hP : Closed P) {s sN : State} (ch : Fin 96) (val : Word) (he : execChPrdWrite ch val s = .next sN) (hs : P s) : P sN := by
  unfold execChPrdWrite at he
  try dsimp only at he
  repeat' (split at he)
  all_goals (injection he with he <;> subst he)
  repeat' first
    | with_reducible
        first
        | assumption | apply State.chWrite_keeps hP

theorem execLegEnable_keeps {P : State → Prop} (hP : Closed P) {s sN : State} (k : Fin 12) (val : Word) (he : execLegEnable k val s = .next sN) (hs : P s) : P sN := by
  unfold execLegEnable at he
  try dsimp only at he
  repeat' (split at he)
  all_goals (injection he with he <;> subst he)
  repeat' first
    | with_reducible
        first
        | assumption | apply State.legCfgWrite_keeps hP

theorem execLegDisable_keeps {P : State → Prop} (hP : Closed P) {s sN : State} (k : Fin 12) (val : Word) (he : execLegDisable k val s = .next sN) (hs : P s) : P sN := by
  unfold execLegDisable at he
  try dsimp only at he
  repeat' (split at he)
  all_goals (injection he with he <;> subst he)
  repeat' first
    | with_reducible
        first
        | assumption | apply State.legCfgWrite_keeps hP

theorem execTripInput_keeps {P : State → Prop} (hP : Closed P) {s sN : State} (n : Fin 8) (level : Bool) (held : Nat) (he : execTripInput n level held s = .next sN) (hs : P s) : P sN := by
  unfold execTripInput at he
  try dsimp only at he
  repeat' (split at he)
  all_goals (injection he with he <;> subst he)
  repeat' first
    | intro _
    | with_reducible
        first
        | assumption | apply ite_keeps | apply State.set_keeps hP | apply State.srcActive_keeps hP
        | apply State.tripIn_keeps hP
    | split
    | with_reducible apply hP.upd

theorem execTrpSwtrip_keeps {P : State → Prop} (hP : Closed P) {s sN : State}  (he : execTrpSwtrip s = .next sN) (hs : P s) : P sN := by
  unfold execTrpSwtrip at he
  try dsimp only at he
  repeat' (split at he)
  all_goals (injection he with he <;> subst he)
  repeat' first
    | intro _
    | with_reducible
        first
        | assumption | apply State.judge_keeps hP | apply State.tripAll_keeps hP
    | with_reducible apply hP.upd

theorem execTrpFlagClear_keeps {P : State → Prop} (hP : Closed P) {s sN : State} (internal : Bool) (mask : BitVec 8) (he : execTrpFlagClear internal mask s = .next sN) (hs : P s) : P sN := by
  unfold execTrpFlagClear at he
  try dsimp only at he
  repeat' (split at he)
  all_goals (injection he with he <;> subst he)
  repeat' first
    | with_reducible
        first
        | assumption | apply State.flagClear_keeps hP

theorem execTrpRearm_keeps {P : State → Prop} (hP : Closed P) {s sN : State} (mask : BitVec 16) (he : execTrpRearm mask s = .next sN) (hs : P s) : P sN := by
  unfold execTrpRearm at he
  try dsimp only at he
  repeat' (split at he)
  all_goals (injection he with he <;> subst he)
  repeat' first
    | with_reducible
        first
        | assumption | apply State.rearm_keeps hP

theorem execClockStop_keeps {P : State → Prop} (hP : Closed P) {s sN : State}  (he : execClockStop s = .next sN) (hs : P s) : P sN := by
  unfold execClockStop at he
  try dsimp only at he
  repeat' (split at he)
  all_goals (injection he with he <;> subst he)
  repeat' first
    | with_reducible
        first
        | assumption | apply State.clockStop_keeps hP

theorem execHaltEnd_keeps {P : State → Prop} (hP : Closed P) {s sN : State} (src : Fin 4) (he : execHaltEnd src s = .next sN) (hs : P s) : P sN := by
  unfold execHaltEnd at he
  try dsimp only at he
  repeat' (split at he)
  all_goals (injection he with he <;> subst he)
  repeat' first
    | with_reducible
        first
        | assumption | apply State.haltOver_keeps hP

end Sys2Proof.Machine
end

