-- ==== Sys2Proof/Laws/KeepsMcx.lean ====
section
/-! SUPPORT. Every operation of Machine/Mcx.lean keeps every property the primitive updates keep. -/

namespace Sys2Proof.Machine

set_option linter.unreachableTactic false
set_option linter.unusedTactic false
set_option linter.unnecessarySeqFocus false

theorem State.setMM_keeps {P : State → Prop} (hP : Closed P) {s : State} (m : Nat) (x : McxM) (hs : P s) :
    P (State.setMM s m x) := by
  unfold State.setMM
  try dsimp only
  repeat' first
    | with_reducible
        first
        | assumption | apply ite_keeps
    | split
    | with_reducible apply hP.upd

theorem State.modMM_keeps {P : State → Prop} (hP : Closed P) {s : State} (m : Nat) (f : McxM → McxM) (hs : P s) :
    P (State.modMM s m f) := by
  unfold State.modMM
  try dsimp only
  repeat' first
    | with_reducible
        first
        | assumption | apply State.setMM_keeps hP

theorem State.setMState_keeps {P : State → Prop} (hP : Closed P) {s : State} (m : Nat) (st : Nat) (hs : P s) :
    P (State.setMState s m st) := by
  unfold State.setMState
  try dsimp only
  repeat' first
    | intro _
    | with_reducible
        first
        | assumption | apply State.set_keeps hP | apply State.iff_keeps hP
    | split

theorem State.mcxLegSetup_keeps {P : State → Prop} (hP : Closed P) {s : State} (k : Nat) (prd : Nat) (hs : P s) :
    P (State.mcxLegSetup s k prd) := by
  unfold State.mcxLegSetup
  try dsimp only
  repeat' first
    | with_reducible
        first
        | assumption | apply State.setReg_keeps hP | apply State.set_keeps hP

theorem State.mcxShadow_keeps {P : State → Prop} (hP : Closed P) {s : State} (k : Nat) (f : State → State)
    (hf : ∀ s, P s → P (f s)) (hs : P s) : P (s.mcxShadow k f) :=
  State.putLeg_keeps hP _ _ (hf _ (State.legSync_keeps hP _ hs))

theorem State.mcxCmp_keeps {P : State → Prop} (hP : Closed P) {s : State} (k : Nat) (c : Nat) (hs : P s) :
    P (State.mcxCmp s k c) := by
  unfold State.mcxCmp
  try dsimp only
  repeat' first
    | intro _
    | with_reducible
        first
        | assumption | apply State.mcxShadow_keeps hP | apply State.set_keeps hP

theorem State.mcxMode_keeps {P : State → Prop} (hP : Closed P) {s : State} (k : Nat) (md : Nat) (hs : P s) :
    P (State.mcxMode s k md) := by
  unfold State.mcxMode
  try dsimp only
  repeat' first
    | intro _
    | with_reducible
        first
        | assumption | apply State.mcxShadow_keeps hP | apply State.set_keeps hP

theorem State.mcxModeNow_keeps {P : State → Prop} (hP : Closed P) {s : State} (k : Nat) (md : Nat) (hs : P s) :
    P (State.mcxModeNow s k md) := by
  unfold State.mcxModeNow
  try dsimp only
  repeat' first
    | with_reducible
        first
        | assumption | apply State.legSync_keeps hP | apply State.set_keeps hP | apply State.putLeg_keeps hP
        | apply State.refreshLegs_keeps hP
    | with_reducible apply hP.upd

theorem State.machOff_keeps {P : State → Prop} (hP : Closed P) {s : State} (m : Nat) (hs : P s) :
    P (State.machOff s m) := by
  unfold State.machOff
  try dsimp only
  repeat' first
    | intro _
    | with_reducible
        first
        | assumption | apply ite_keeps | apply State.each_keeps hP | apply State.mcxModeNow_keeps hP
        | apply State.mcxMode_keeps hP | apply State.modMM_keeps hP | apply State.set_keeps hP
        | apply State.iff_keeps hP | apply State.setMState_keeps hP | apply State.mcxSource_keeps hP
    | split
    | with_reducible apply hP.upd

theorem State.changeSrc_keeps {P : State → Prop} (hP : Closed P) {s : State} (m : Nat) (src : Nat) (hs : P s) :
    P (State.changeSrc s m src) := by
  unfold State.changeSrc
  try dsimp only
  repeat' first
    | intro _
    | with_reducible
        first
        | assumption | apply ite_keeps | apply State.modMM_keeps hP | apply State.set_keeps hP
    | split
    | with_reducible apply hP.upd

theorem State.ellReg_keeps {P : State → Prop} (hP : Closed P) {s : State} (m : Nat) (w : Rat) (hs : P s) :
    P (State.ellReg s m w) := by
  unfold State.ellReg
  try dsimp only
  repeat' first
    | intro _
    | with_reducible
        first
        | assumption | apply State.modMM_keeps hP | apply State.set_keeps hP
    | with_reducible apply hP.upd

theorem State.safeDecision_keeps {P : State → Prop} (hP : Closed P) {s : State} (m : Nat) (cause : Nat) (hs : P s) :
    P (State.safeDecision s m cause) := by
  unfold State.safeDecision
  try dsimp only
  repeat' first
    | intro _
    | with_reducible
        first
        | assumption | apply ite_keeps | apply State.ellReg_keeps hP | apply State.setB_keeps hP
        | apply State.modMM_keeps hP | apply State.machSafe_keeps hP
    | split
    | with_reducible apply hP.upd

theorem State.decideAll_keeps {P : State → Prop} (hP : Closed P) {s : State} (cause : Nat) (hs : P s) :
    P (State.decideAll s cause) := by
  unfold State.decideAll
  try dsimp only
  repeat' first
    | intro _
    | with_reducible
        first
        | assumption | apply State.each_keeps hP | apply State.safeDecision_keeps hP

theorem State.lossDetect_keeps {P : State → Prop} (hP : Closed P) {s : State} (m : Nat) (hs : P s) :
    P (State.lossDetect s m) := by
  unfold State.lossDetect
  try dsimp only
  repeat' first
    | with_reducible
        first
        | assumption | apply ite_keeps | apply State.setMM_keeps hP | apply State.setMState_keeps hP
        | apply State.irq_keeps hP
    | split
    | with_reducible apply hP.upd

theorem State.sensFault_keeps {P : State → Prop} (hP : Closed P) {s : State} (m : Nat) (src : Nat) (hs : P s) :
    P (State.sensFault s m src) := by
  unfold State.sensFault
  try dsimp only
  repeat' first
    | intro _
    | with_reducible
        first
        | assumption | apply ite_keeps | apply State.set_keeps hP | apply State.irq_keeps hP
        | apply State.modMM_keeps hP | apply State.lossDetect_keeps hP | apply State.safeDecision_keeps hP
    | split
    | with_reducible apply hP.upd

theorem State.advance2_keeps {P : State → Prop} (hP : Closed P) {s sN : State} (m : Nat) (w : Rat) {r : Rat} (he : State.advance2 s m w = (r, sN)) (hs : P s) : P sN := by
  unfold State.advance2 at he
  try dsimp only at he
  repeat' (split at he)
  all_goals (injection he with _ he <;> subst he)
  repeat' first
    | intro _
    | with_reducible
        first
        | assumption | apply ite_keeps | refine State.free_keeps2 hP ?_
    | split
    | (with_reducible apply State.free_keeps hP; with_reducible assumption)

theorem State.advance2_keeps2 {P : State → Prop} (hP : Closed P) {s : State} (m : Nat) (w : Rat) (hs : P s) : P (State.advance2 s m w).2 :=
  State.advance2_keeps hP _ _ (Prod.eta _).symm hs

theorem State.threePhase_keeps {P : State → Prop} (hP : Closed P) {s sN : State} (m : Nat) (legs : List Nat) (u : Nat) (ph : Rat) (tm : Rat) {r : Word × Word} (he : State.threePhase s m legs u ph tm = (sN, r)) (hs : P s) : P sN := by
  unfold State.threePhase at he
  try dsimp only at he
  repeat' (split at he)
  all_goals (injection he with he _ <;> subst he)
  repeat' first
    | intro _
    | with_reducible
        first
        | assumption | apply ite_keeps | apply State.each_keeps hP | apply State.mcxCmp_keeps hP
        | apply State.iff_keeps hP | apply State.set_keeps hP | apply State.irq_keeps hP
        | refine State.free_keeps2 hP ?_ | refine State.advance2_keeps2 hP _ _ ?_
    | split
    | (with_reducible apply State.free_keeps hP; with_reducible assumption)
    | (with_reducible apply State.advance2_keeps hP; with_reducible assumption)

theorem State.threePhase_keeps2 {P : State → Prop} (hP : Closed P) {s : State} (m : Nat) (legs : List Nat) (u : Nat) (ph : Rat) (tm : Rat) (hs : P s) : P (State.threePhase s m legs u ph tm).1 :=
  State.threePhase_keeps hP _ _ _ _ _ (Prod.eta _).symm hs

theorem State.mcxCompare_keeps {P : State → Prop} (hP : Closed P) {s : State} (m : Nat) (hs : P s) :
    P (State.mcxCompare s m) := by
  unfold State.mcxCompare
  try dsimp only
  repeat' first
    | intro _
    | with_reducible
        first
        | assumption | apply ite_keeps | apply State.advance_keeps hP | apply State.set_keeps hP
        | apply State.take_keeps hP | apply State.modMM_keeps hP | refine State.threePhase_keeps2 hP _ _ _ _ _ ?_
    | split
    | (with_reducible apply State.threePhase_keeps hP; with_reducible assumption)
    | with_reducible apply hP.upd

theorem State.machBoundary_keeps {P : State → Prop} (hP : Closed P) {s : State} (m : Nat) (hs : P s) :
    P (State.machBoundary s m) := by
  unfold State.machBoundary
  try dsimp only
  repeat' first
    | intro _
    | with_reducible
        first
        | assumption | apply ite_keeps | apply State.iff_keeps hP | apply State.modMM_keeps hP
        | apply State.set_keeps hP | apply State.irq_keeps hP | apply State.changeSrc_keeps hP
        | apply State.setReg_keeps hP
    | split
    | with_reducible apply hP.upd

theorem State.mcxBoundary_keeps {P : State → Prop} (hP : Closed P) {s : State}  (hs : P s) :
    P (State.mcxBoundary s) := by
  unfold State.mcxBoundary
  try dsimp only
  repeat' first
    | intro _
    | with_reducible
        first
        | assumption | apply ite_keeps | apply State.iff_keeps hP | apply State.set_keeps hP
        | apply State.each_keeps hP | apply State.modMM_keeps hP | apply State.machBoundary_keeps hP
    | split
    | with_reducible apply hP.upd

theorem State.setBStep_keeps {P : State → Prop} (hP : Closed P) {s : State} (iu : Rat) (iv : Rat) (hs : P s) :
    P (State.setBStep s iu iv) := by
  unfold State.setBStep
  try dsimp only
  repeat' first
    | intro _
    | with_reducible
        first
        | assumption | apply id_keeps | apply State.setMM_keeps hP | apply State.modMM_keeps hP
    | with_reducible apply hP.upd

theorem State.obsStep_keeps {P : State → Prop} (hP : Closed P) {s : State} (m : Nat) (iu : Rat) (iv : Rat) (hs : P s) :
    P (State.obsStep s m iu iv) := by
  unfold State.obsStep
  try dsimp only
  repeat' first
    | intro _
    | with_reducible
        first
        | assumption | apply ite_keeps | apply id_keeps | apply State.setMM_keeps hP | apply State.modMM_keeps hP
        | apply State.set_keeps hP | refine State.free_keeps2 hP ?_
    | split
    | (with_reducible apply State.free_keeps hP; with_reducible assumption)
    | with_reducible apply hP.upd

theorem State.obsSource_keeps {P : State → Prop} (hP : Closed P) {s : State} (m : Nat) (hs : P s) :
    P (State.obsSource s m) := by
  unfold State.obsSource
  try dsimp only
  repeat' first
    | with_reducible
        first
        | assumption | apply ite_keeps | apply State.changeSrc_keeps hP
    | split

theorem State.machEval_keeps {P : State → Prop} (hP : Closed P) {s : State} (m : Nat) (hs : P s) :
    P (State.machEval s m) := by
  unfold State.machEval
  try dsimp only
  repeat' first
    | intro _
    | with_reducible
        first
        | assumption | apply ite_keeps | apply id_keeps | apply State.set_keeps hP | apply State.obsStep_keeps hP
        | apply State.iff_keeps hP | apply State.setBStep_keeps hP | apply State.obsSource_keeps hP
        | apply State.ellReg_keeps hP | apply State.setMM_keeps hP | apply State.irq_keeps hP
        | apply State.safeDecision_keeps hP
    | split
    | with_reducible apply hP.upd

theorem State.machCmd_keeps {P : State → Prop} (hP : Closed P) {s : State} (m : Nat) (op : Nat) (hs : P s) :
    P (State.machCmd s m op) := by
  unfold State.machCmd
  try dsimp only
  repeat' first
    | intro _
    | with_reducible
        first
        | assumption | apply ite_keeps | apply State.judge_keeps hP | apply State.modMM_keeps hP
    | split
    | with_reducible apply hP.upd

theorem State.machRunNow_keeps {P : State → Prop} (hP : Closed P) {s : State} (m : Nat) (hs : P s) :
    P (State.machRunNow s m) := by
  unfold State.machRunNow
  try dsimp only
  repeat' first
    | intro _
    | with_reducible
        first
        | assumption | apply ite_keeps | apply State.modMM_keeps hP | apply State.iff_keeps hP
        | apply State.set_keeps hP | apply State.setMState_keeps hP | apply State.each_keeps hP
        | apply State.mcxMode_keeps hP
    | split
    | with_reducible apply hP.upd

theorem State.prechgLeg_keeps {P : State → Prop} (hP : Closed P) {s : State} (m : Nat) (i : Nat) (hs : P s) :
    P (State.prechgLeg s m i) := by
  unfold State.prechgLeg
  try dsimp only
  repeat' first
    | intro _
    | with_reducible
        first
        | assumption | apply ite_keeps | apply State.each_keeps hP | apply State.mcxModeNow_keeps hP
    | split

theorem State.machAct_keeps {P : State → Prop} (hP : Closed P) {s : State} (m : Nat) (hs : P s) :
    P (State.machAct s m) := by
  unfold State.machAct
  try dsimp only
  repeat' first
    | intro _
    | with_reducible
        first
        | assumption | apply ite_keeps | apply State.modMM_keeps hP | apply State.setReg_keeps hP
        | apply State.setMState_keeps hP | apply State.prechgLeg_keeps hP | apply State.machRunNow_keeps hP
        | apply State.machOff_keeps hP | apply State.machSafe_keeps hP
    | split
    | with_reducible apply hP.upd

theorem State.prechgStep_keeps {P : State → Prop} (hP : Closed P) {s : State} (m : Nat) (hs : P s) :
    P (State.prechgStep s m) := by
  unfold State.prechgStep
  try dsimp only
  repeat' first
    | with_reducible
        first
        | assumption | apply ite_keeps | apply State.advance_keeps hP | apply State.setMM_keeps hP
        | apply State.prechgLeg_keeps hP | apply State.machRunNow_keeps hP
    | split
    | with_reducible apply hP.upd

theorem State.vbusTake_keeps {P : State → Prop} (hP : Closed P) {s : State}  (hs : P s) : P (State.vbusTake s) := by
  unfold State.vbusTake
  try dsimp only
  repeat' first
    | intro _
    | with_reducible
        first
        | assumption | apply ite_keeps | apply State.setB_keeps hP | apply State.set_keeps hP
    | split
    | with_reducible apply hP.upd

theorem State.busCounts_keeps {P : State → Prop} (hP : Closed P) {s : State}  (hs : P s) : P (State.busCounts s) := by
  unfold State.busCounts
  try dsimp only
  repeat' first
    | intro _
    | with_reducible
        first
        | assumption | apply ite_keeps
    | split
    | with_reducible apply hP.upd

theorem State.setKr_keeps {P : State → Prop} (hP : Closed P) {s : State} (k : Rat) (hs : P s) :
    P (State.setKr s k) := by
  unfold State.setKr
  try dsimp only
  repeat' first
    | with_reducible
        first
        | assumption | apply State.set_keeps hP | apply State.setB_keeps hP
    | with_reducible apply hP.upd

theorem State.kregen_keeps {P : State → Prop} (hP : Closed P) {s : State}  (hs : P s) : P (State.kregen s) := by
  unfold State.kregen
  try dsimp only
  repeat' first
    | with_reducible
        first
        | assumption | apply ite_keeps | apply State.setKr_keeps hP
    | split
    | with_reducible apply hP.upd

theorem State.setDuty_keeps {P : State → Prop} (hP : Closed P) {s : State} (c : Nat) (d : Word) (hs : P s) :
    P (State.setDuty s c d) := by
  unfold State.setDuty
  try dsimp only
  repeat' first
    | intro _
    | with_reducible
        first
        | assumption
    | with_reducible apply hP.upd

theorem State.chopEval_keeps {P : State → Prop} (hP : Closed P) {s : State} (c : Nat) (hs : P s) :
    P (State.chopEval s c) := by
  unfold State.chopEval
  try dsimp only
  repeat' first
    | with_reducible
        first
        | assumption | apply ite_keeps | apply State.set_keeps hP | apply State.setDuty_keeps hP
        | apply State.mcxCmp_keeps hP | refine State.free_keeps2 hP ?_
    | split
    | (with_reducible apply State.free_keeps hP; with_reducible assumption)

theorem State.chfBegin_keeps {P : State → Prop} (hP : Closed P) {s : State}  (hs : P s) : P (State.chfBegin s) := by
  unfold State.chfBegin
  try dsimp only
  repeat' first
    | with_reducible
        first
        | assumption | apply ite_keeps | apply State.setKr_keeps hP | apply State.set_keeps hP
        | apply State.irq_keeps hP
    | split
    | with_reducible apply hP.upd

theorem State.chfStep3_keeps {P : State → Prop} (hP : Closed P) {s : State}  (hs : P s) : P (State.chfStep3 s) := by
  unfold State.chfStep3
  try dsimp only
  repeat' first
    | with_reducible
        first
        | assumption | apply State.decideAll_keeps hP | apply State.set_keeps hP | apply State.irq_keeps hP

theorem State.chopFault_keeps {P : State → Prop} (hP : Closed P) {s : State} (c : Nat) (hs : P s) :
    P (State.chopFault s c) := by
  unfold State.chopFault
  try dsimp only
  repeat' first
    | intro _
    | with_reducible
        first
        | assumption | apply ite_keeps | apply State.set_keeps hP | apply State.irq_keeps hP
        | apply State.trip_keeps hP | apply State.mcxSource_keeps hP | apply State.chfBegin_keeps hP
    | split

theorem State.chopJudge_keeps {P : State → Prop} (hP : Closed P) {s : State} (c : Nat) (code : Int) (hs : P s) :
    P (State.chopJudge s c code) := by
  unfold State.chopJudge
  try dsimp only
  repeat' first
    | intro _
    | with_reducible
        first
        | assumption | apply ite_keeps | apply State.set_keeps hP | apply State.setB_keeps hP
        | apply State.iff_keeps hP | apply State.bump_keeps hP | apply State.chopFault_keeps hP
    | split
    | with_reducible apply hP.upd

theorem State.chopCheck_keeps {P : State → Prop} (hP : Closed P) {s : State} (c : Nat) (hs : P s) :
    P (State.chopCheck s c) := by
  unfold State.chopCheck
  try dsimp only
  repeat' first
    | intro _
    | with_reducible
        first
        | assumption | apply State.chopJudge_keeps hP
    | split
    | with_reducible apply hP.upd

theorem State.chopClear_keeps {P : State → Prop} (hP : Closed P) {s : State} (mask : Nat) (hs : P s) :
    P (State.chopClear s mask) := by
  unfold State.chopClear
  try dsimp only
  repeat' first
    | intro _
    | with_reducible
        first
        | assumption | apply ite_keeps | apply State.judge_keeps hP | apply State.each_keeps hP
        | apply State.set_keeps hP | apply State.refuse_keeps hP | apply State.mcxSource_keeps hP
    | split
    | with_reducible apply hP.upd

theorem State.mcxEval_keeps {P : State → Prop} (hP : Closed P) {s : State}  (hs : P s) : P (State.mcxEval s) := by
  unfold State.mcxEval
  try dsimp only
  repeat' first
    | intro _
    | with_reducible
        first
        | assumption | apply ite_keeps | apply State.advance_keeps hP | apply State.each_keeps hP
        | apply State.machAct_keeps hP | apply State.vbusTake_keeps hP | apply State.busCounts_keeps hP
        | apply State.setB_keeps hP | apply State.iff_keeps hP | apply State.irq_keeps hP
        | apply State.decideAll_keeps hP | apply State.chopEval_keeps hP | apply State.chfStep3_keeps hP
        | apply State.kregen_keeps hP | apply State.machEval_keeps hP
    | split
    | with_reducible apply hP.upd

theorem State.chfTimeout_keeps {P : State → Prop} (hP : Closed P) {s : State}  (hs : P s) :
    P (State.chfTimeout s) := by
  unfold State.chfTimeout
  try dsimp only
  repeat' first
    | with_reducible
        first
        | assumption | apply ite_keeps | apply State.advance_keeps hP | apply State.chfStep3_keeps hP
    | split
    | with_reducible apply hP.upd

theorem State.reacquire_keeps {P : State → Prop} (hP : Closed P) {s : State} (m : Nat) (hs : P s) :
    P (State.reacquire s m) := by
  unfold State.reacquire
  try dsimp only
  repeat' first
    | with_reducible
        first
        | assumption | apply ite_keeps | apply State.changeSrc_keeps hP | apply State.setMState_keeps hP
        | apply State.irq_keeps hP
    | split

theorem State.mcxLatch_keeps {P : State → Prop} (hP : Closed P) {s : State}  (hs : P s) : P (State.mcxLatch s) := by
  unfold State.mcxLatch
  try dsimp only
  repeat' first
    | intro _
    | with_reducible
        first
        | assumption | apply ite_keeps | apply State.foldl_keeps
    | split
    | with_reducible apply hP.upd

theorem State.machPrd_keeps {P : State → Prop} (hP : Closed P) {s : State} (m : Nat) (hs : P s) :
    P (State.machPrd s m) := by
  unfold State.machPrd
  try dsimp only
  repeat' first
    | intro _
    | with_reducible
        first
        | assumption | apply State.each_keeps hP | apply State.mcxShadow_keeps hP | apply State.set_keeps hP

theorem State.machDisable_keeps {P : State → Prop} (hP : Closed P) {s : State} (m : Nat) (hs : P s) :
    P (State.machDisable s m) := by
  unfold State.machDisable
  try dsimp only
  repeat' first
    | intro _
    | with_reducible
        first
        | assumption | apply State.machOff_keeps hP | apply State.set_keeps hP | apply State.iff_keeps hP
        | apply State.each_keeps hP | apply State.release_keeps hP | apply State.legStop_keeps hP
        | apply State.refreshLegs_keeps hP
    | split

theorem State.machCfgWrite_keeps {P : State → Prop} (hP : Closed P) {s : State} (m : Nat) (val : Word) (hs : P s) :
    P (State.machCfgWrite s m val) := by
  unfold State.machCfgWrite
  try dsimp only
  repeat' first
    | intro _
    | with_reducible
        first
        | assumption | apply ite_keeps | apply State.fitted_keeps hP | apply State.iff_keeps hP
        | apply State.set_keeps hP | apply State.judge_keeps hP | apply State.claimAll_keeps hP
        | apply State.take_keeps hP | apply State.setMM_keeps hP | apply State.each_keeps hP
        | apply State.mcxLegSetup_keeps hP | apply State.legStart_keeps hP | apply State.setMState_keeps hP
        | apply State.refreshLegs_keeps hP | apply State.machDisable_keeps hP | apply State.machPrd_keeps hP
    | split

theorem State.chopDisable_keeps {P : State → Prop} (hP : Closed P) {s : State} (c : Nat) (hs : P s) :
    P (State.chopDisable s c) := by
  unfold State.chopDisable
  try dsimp only
  repeat' first
    | intro _
    | with_reducible
        first
        | assumption | apply State.mcxMode_keeps hP | apply State.set_keeps hP | apply State.iff_keeps hP
        | apply State.setDuty_keeps hP | apply State.release_keeps hP | apply State.legStop_keeps hP
        | apply State.refreshLegs_keeps hP
    | split

theorem State.chopCfgWrite_keeps {P : State → Prop} (hP : Closed P) {s : State} (c : Nat) (val : Word) (hs : P s) :
    P (State.chopCfgWrite s c val) := by
  unfold State.chopCfgWrite
  try dsimp only
  repeat' first
    | intro _
    | with_reducible
        first
        | assumption | apply ite_keeps | apply State.fitted_keeps hP | apply State.judge_keeps hP
        | apply State.deny_keeps hP | apply State.claimAll_keeps hP | apply State.take_keeps hP
        | apply State.mcxLegSetup_keeps hP | apply State.set_keeps hP | apply State.legStart_keeps hP
        | apply State.setDuty_keeps hP | apply State.refreshLegs_keeps hP | apply State.chopDisable_keeps hP
        | apply State.iff_keeps hP | apply State.mcxShadow_keeps hP
    | split
    | with_reducible apply hP.upd

theorem State.mcxPeriod_keeps {P : State → Prop} (hP : Closed P) {s : State}  (hs : P s) : P (State.mcxPeriod s) := by
  unfold State.mcxPeriod
  try dsimp only
  repeat' first
    | intro _
    | with_reducible
        first
        | assumption | apply ite_keeps | apply State.each_keeps hP | apply State.machPrd_keeps hP
        | apply State.machDisable_keeps hP | apply State.refuse_keeps hP | apply State.mcxShadow_keeps hP
        | apply State.set_keeps hP | apply State.chopDisable_keeps hP
    | split

theorem State.mcxCfgWrite_keeps {P : State → Prop} (hP : Closed P) {s : State} (val : Word) (hs : P s) :
    P (State.mcxCfgWrite s val) := by
  unfold State.mcxCfgWrite
  try dsimp only
  repeat' first
    | intro _
    | with_reducible
        first
        | assumption | apply State.judge_keeps hP | apply State.take_keeps hP

theorem State.tblAccess_keeps {P : State → Prop} (hP : Closed P) {s : State} (write : Bool) (val : Word) (hs : P s) :
    P (State.tblAccess s write val) := by
  unfold State.tblAccess
  try dsimp only
  repeat' first
    | intro _
    | with_reducible
        first
        | assumption | apply ite_keeps | apply State.set_keeps hP
    | split
    | with_reducible apply hP.upd

theorem State.rsvStop_keeps {P : State → Prop} (hP : Closed P) {s : State}  (hs : P s) : P (State.rsvStop s) := by
  unfold State.rsvStop
  try dsimp only
  repeat' first
    | with_reducible
        first
        | assumption | apply State.release_keeps hP
    | with_reducible apply hP.upd

theorem State.rsvCfgWrite_keeps {P : State → Prop} (hP : Closed P) {s : State} (val : Word) (hs : P s) :
    P (State.rsvCfgWrite s val) := by
  unfold State.rsvCfgWrite
  try dsimp only
  repeat' first
    | intro _
    | with_reducible
        first
        | assumption | apply ite_keeps | apply State.fitted_keeps hP | apply State.judge_keeps hP
        | apply State.claimAll_keeps hP | apply State.take_keeps hP | apply State.iff_keeps hP
        | apply State.rsvStop_keeps hP | refine State.free_keeps2 hP ?_
    | split
    | (with_reducible apply State.free_keeps hP; with_reducible assumption)
    | with_reducible apply hP.upd

theorem State.rsvPeak_keeps {P : State → Prop} (hP : Closed P) {s : State} (sn : Int) (cs : Int) (hs : P s) :
    P (State.rsvPeak s sn cs) := by
  unfold State.rsvPeak
  try dsimp only
  repeat' first
    | with_reducible
        first
        | assumption | apply ite_keeps | apply State.set_keeps hP | apply State.sensFault_keeps hP
        | refine State.free_keeps2 hP ?_
    | split
    | (with_reducible apply State.free_keeps hP; with_reducible assumption)
    | with_reducible apply hP.upd

theorem State.encStop_keeps {P : State → Prop} (hP : Closed P) {s : State}  (hs : P s) : P (State.encStop s) := by
  unfold State.encStop
  try dsimp only
  repeat' first
    | intro _
    | with_reducible
        first
        | assumption | apply State.set_keeps hP | apply State.each_keeps hP | apply State.release_keeps hP
    | with_reducible apply hP.upd

theorem State.encCfgWrite_keeps {P : State → Prop} (hP : Closed P) {s : State} (val : Word) (hs : P s) :
    P (State.encCfgWrite s val) := by
  unfold State.encCfgWrite
  try dsimp only
  repeat' first
    | intro _
    | with_reducible
        first
        | assumption | apply ite_keeps | apply State.fitted_keeps hP | apply State.judge_keeps hP
        | apply State.claimAll_keeps hP | apply State.take_keeps hP | apply State.iff_keeps hP
        | apply State.encStop_keeps hP
    | split
    | with_reducible apply hP.upd

theorem State.encFault_keeps {P : State → Prop} (hP : Closed P) {s : State} (f : Fld) (hs : P s) :
    P (State.encFault s f) := by
  unfold State.encFault
  try dsimp only
  repeat' first
    | with_reducible
        first
        | assumption | apply State.set_keeps hP | apply State.sensFault_keeps hP

theorem State.encEdge_keeps {P : State → Prop} (hP : Closed P) {s : State} (ra : Bool × BitVec 4) (rb : Bool × BitVec 4) (rz : Bool × BitVec 4) (hs : P s) :
    P (State.encEdge s ra rb rz) := by
  unfold State.encEdge
  try dsimp only
  repeat' first
    | with_reducible
        first
        | assumption | apply ite_keeps | apply State.encFault_keeps hP | apply State.setReg_keeps hP
        | apply State.set_keeps hP
    | split
    | with_reducible apply hP.upd

theorem State.tripBall_keeps {P : State → Prop} (hP : Closed P) {s : State} (n : Nat) (hs : P s) :
    P (State.tripBall s n) := by
  unfold State.tripBall
  try dsimp only
  repeat' first
    | intro _
    | with_reducible
        first
        | assumption | apply ite_keeps | apply State.encStop_keeps hP | apply State.setReg_keeps hP
        | apply State.setClaim_keeps hP | apply State.deny_keeps hP | apply State.pinLost_keeps hP
        | apply State.refuse_keeps hP | apply State.set_keeps hP | apply State.sensFault_keeps hP
    | split

theorem State.trpCfgWrite_keeps {P : State → Prop} (hP : Closed P) {s : State} (val : Word) (hs : P s) :
    P (State.trpCfgWrite s val) := by
  unfold State.trpCfgWrite
  try dsimp only
  repeat' first
    | intro _
    | with_reducible
        first
        | assumption | apply State.judge_keeps hP | apply State.take_keeps hP | apply State.each_keeps hP
        | apply State.tripBall_keeps hP | apply State.release_keeps hP | apply State.trpEval_keeps hP

theorem execTripInputEnable_keeps {P : State → Prop} (hP : Closed P) {s sN : State} (val : Word) (he : execTripInputEnable val s = .next sN) (hs : P s) : P sN := by
  unfold execTripInputEnable at he
  try dsimp only at he
  repeat' (split at he)
  all_goals (injection he with he <;> subst he)
  repeat' first
    | with_reducible
        first
        | assumption | apply State.trpCfgWrite_keeps hP

theorem execMachineEnable_keeps {P : State → Prop} (hP : Closed P) {s sN : State} (m : Fin 2) (val : Word) (he : execMachineEnable m val s = .next sN) (hs : P s) : P sN := by
  unfold execMachineEnable at he
  try dsimp only at he
  repeat' (split at he)
  all_goals (injection he with he <;> subst he)
  repeat' first
    | with_reducible
        first
        | assumption | apply State.machCfgWrite_keeps hP

theorem execMachineDisable_keeps {P : State → Prop} (hP : Closed P) {s sN : State} (m : Fin 2) (val : Word) (he : execMachineDisable m val s = .next sN) (hs : P s) : P sN := by
  unfold execMachineDisable at he
  try dsimp only at he
  repeat' (split at he)
  all_goals (injection he with he <;> subst he)
  repeat' first
    | with_reducible
        first
        | assumption | apply State.machCfgWrite_keeps hP

theorem execMachRun_keeps {P : State → Prop} (hP : Closed P) {s sN : State} (m : Fin 2) (he : execMachRun m s = .next sN) (hs : P s) : P sN := by
  unfold execMachRun at he
  try dsimp only at he
  repeat' (split at he)
  all_goals (injection he with he <;> subst he)
  repeat' first
    | with_reducible
        first
        | assumption | apply State.machCmd_keeps hP

theorem execMachStop_keeps {P : State → Prop} (hP : Closed P) {s sN : State} (m : Fin 2) (he : execMachStop m s = .next sN) (hs : P s) : P sN := by
  unfold execMachStop at he
  try dsimp only at he
  repeat' (split at he)
  all_goals (injection he with he <;> subst he)
  repeat' first
    | with_reducible
        first
        | assumption | apply State.machCmd_keeps hP

theorem execMachAsc_keeps {P : State → Prop} (hP : Closed P) {s sN : State} (m : Fin 2) (he : execMachAsc m s = .next sN) (hs : P s) : P sN := by
  unfold execMachAsc at he
  try dsimp only at he
  repeat' (split at he)
  all_goals (injection he with he <;> subst he)
  repeat' first
    | with_reducible
        first
        | assumption | apply State.machCmd_keeps hP

theorem execMachInhibit_keeps {P : State → Prop} (hP : Closed P) {s sN : State} (m : Fin 2) (he : execMachInhibit m s = .next sN) (hs : P s) : P sN := by
  unfold execMachInhibit at he
  try dsimp only at he
  repeat' (split at he)
  all_goals (injection he with he <;> subst he)
  repeat' first
    | with_reducible
        first
        | assumption | apply State.machCmd_keeps hP

theorem execMachClear_keeps {P : State → Prop} (hP : Closed P) {s sN : State} (m : Fin 2) (he : execMachClear m s = .next sN) (hs : P s) : P sN := by
  unfold execMachClear at he
  try dsimp only at he
  repeat' (split at he)
  all_goals (injection he with he <;> subst he)
  repeat' first
    | with_reducible
        first
        | assumption | apply State.machCmd_keeps hP

theorem execMcxCompare_keeps {P : State → Prop} (hP : Closed P) {s sN : State} (m : Fin 2) (he : execMcxCompare m s = .next sN) (hs : P s) : P sN := by
  unfold execMcxCompare at he
  try dsimp only at he
  repeat' (split at he)
  all_goals (injection he with he <;> subst he)
  repeat' first
    | with_reducible
        first
        | assumption | apply State.mcxCompare_keeps hP

theorem execMcxEvaluation_keeps {P : State → Prop} (hP : Closed P) {s sN : State}  (he : execMcxEvaluation s = .next sN) (hs : P s) : P sN := by
  unfold execMcxEvaluation at he
  try dsimp only at he
  repeat' (split at he)
  all_goals (injection he with he <;> subst he)
  repeat' first
    | with_reducible
        first
        | assumption | apply State.mcxEval_keeps hP

theorem execLoss_keeps {P : State → Prop} (hP : Closed P) {s sN : State} (m : Fin 2) (he : execLoss m s = .next sN) (hs : P s) : P sN := by
  unfold execLoss at he
  try dsimp only at he
  repeat' (split at he)
  all_goals (injection he with he <;> subst he)
  repeat' first
    | with_reducible
        first
        | assumption | apply State.lossDetect_keeps hP

theorem execReacq_keeps {P : State → Prop} (hP : Closed P) {s sN : State} (m : Fin 2) (he : execReacq m s = .next sN) (hs : P s) : P sN := by
  unfold execReacq at he
  try dsimp only at he
  repeat' (split at he)
  all_goals (injection he with he <;> subst he)
  repeat' first
    | with_reducible
        first
        | assumption | apply State.reacquire_keeps hP

theorem execExtrapTimeout_keeps {P : State → Prop} (hP : Closed P) {s sN : State} (m : Fin 2) (he : execExtrapTimeout m s = .next sN) (hs : P s) : P sN := by
  unfold execExtrapTimeout at he
  try dsimp only at he
  repeat' (split at he)
  all_goals (injection he with he <;> subst he)
  repeat' first
    | with_reducible
        first
        | assumption | apply ite_keeps | apply State.advance_keeps hP | apply State.safeDecision_keeps hP
    | split

theorem execCtxLost_keeps {P : State → Prop} (hP : Closed P) {s sN : State} (m : Fin 2) (he : execCtxLost m s = .next sN) (hs : P s) : P sN := by
  unfold execCtxLost at he
  try dsimp only at he
  repeat' (split at he)
  all_goals (injection he with he <;> subst he)
  repeat' first
    | with_reducible
        first
        | assumption | apply ite_keeps | apply State.set_keeps hP | apply State.irq_keeps hP
        | apply State.safeDecision_keeps hP
    | split

theorem execRgnViol_keeps {P : State → Prop} (hP : Closed P) {s sN : State} (m : Fin 2) (he : execRgnViol m s = .next sN) (hs : P s) : P sN := by
  unfold execRgnViol at he
  try dsimp only at he
  repeat' (split at he)
  all_goals (injection he with he <;> subst he)
  repeat' first
    | with_reducible
        first
        | assumption | apply ite_keeps | apply State.set_keeps hP | apply State.irq_keeps hP
        | apply State.safeDecision_keeps hP
    | split

theorem execPrechgStep_keeps {P : State → Prop} (hP : Closed P) {s sN : State} (m : Fin 2) (he : execPrechgStep m s = .next sN) (hs : P s) : P sN := by
  unfold execPrechgStep at he
  try dsimp only at he
  repeat' (split at he)
  all_goals (injection he with he <;> subst he)
  repeat' first
    | with_reducible
        first
        | assumption | apply State.prechgStep_keeps hP

theorem execChopperEnable_keeps {P : State → Prop} (hP : Closed P) {s sN : State} (u : Fin 4) (val : Word) (he : execChopperEnable u val s = .next sN) (hs : P s) : P sN := by
  unfold execChopperEnable at he
  try dsimp only at he
  repeat' (split at he)
  all_goals (injection he with he <;> subst he)
  repeat' first
    | with_reducible
        first
        | assumption | apply State.chopCfgWrite_keeps hP

theorem execChopperDisable_keeps {P : State → Prop} (hP : Closed P) {s sN : State} (u : Fin 4) (val : Word) (he : execChopperDisable u val s = .next sN) (hs : P s) : P sN := by
  unfold execChopperDisable at he
  try dsimp only at he
  repeat' (split at he)
  all_goals (injection he with he <;> subst he)
  repeat' first
    | with_reducible
        first
        | assumption | apply State.chopCfgWrite_keeps hP

theorem execChopperCheck_keeps {P : State → Prop} (hP : Closed P) {s sN : State} (u : Fin 4) (n : Nat) (he : execChopperCheck u n s = .next sN) (hs : P s) : P sN := by
  unfold execChopperCheck at he
  try dsimp only at he
  repeat' (split at he)
  all_goals (injection he with he <;> subst he)
  repeat' first
    | intro _
    | with_reducible
        first
        | assumption | apply State.each_keeps hP | apply State.chopCheck_keeps hP

theorem execChfAscTimeout_keeps {P : State → Prop} (hP : Closed P) {s sN : State}  (he : execChfAscTimeout s = .next sN) (hs : P s) : P sN := by
  unfold execChfAscTimeout at he
  try dsimp only at he
  repeat' (split at he)
  all_goals (injection he with he <;> subst he)
  repeat' first
    | with_reducible
        first
        | assumption | apply State.chfTimeout_keeps hP

theorem execChopperClear_keeps {P : State → Prop} (hP : Closed P) {s sN : State} (mask : BitVec 4) (he : execChopperClear mask s = .next sN) (hs : P s) : P sN := by
  unfold execChopperClear at he
  try dsimp only at he
  repeat' (split at he)
  all_goals (injection he with he <;> subst he)
  repeat' first
    | with_reducible
        first
        | assumption | apply State.chopClear_keeps hP

theorem execSineSwap_keeps {P : State → Prop} (hP : Closed P) {s sN : State} (val : Word) (he : execSineSwap val s = .next sN) (hs : P s) : P sN := by
  unfold execSineSwap at he
  try dsimp only at he
  repeat' (split at he)
  all_goals (injection he with he <;> subst he)
  repeat' first
    | with_reducible
        first
        | assumption | apply State.mcxCfgWrite_keeps hP

theorem execTblDataAccess_keeps {P : State → Prop} (hP : Closed P) {s sN : State} (write : Bool) (val : Word) (he : execTblDataAccess write val s = .next sN) (hs : P s) : P sN := by
  unfold execTblDataAccess at he
  try dsimp only at he
  repeat' (split at he)
  all_goals (injection he with he <;> subst he)
  repeat' first
    | intro _
    | with_reducible
        first
        | assumption | apply ite_keeps | apply State.judge_keeps hP | apply State.tblAccess_keeps hP
    | split

theorem execResolverEnable_keeps {P : State → Prop} (hP : Closed P) {s sN : State} (val : Word) (he : execResolverEnable val s = .next sN) (hs : P s) : P sN := by
  unfold execResolverEnable at he
  try dsimp only at he
  repeat' (split at he)
  all_goals (injection he with he <;> subst he)
  repeat' first
    | with_reducible
        first
        | assumption | apply State.rsvCfgWrite_keeps hP

theorem execResolverPeak_keeps {P : State → Prop} (hP : Closed P) {s sN : State} (sinC : BitVec 16) (cosC : BitVec 16) (he : execResolverPeak sinC cosC s = .next sN) (hs : P s) : P sN := by
  unfold execResolverPeak at he
  try dsimp only at he
  repeat' (split at he)
  all_goals (injection he with he <;> subst he)
  repeat' first
    | with_reducible
        first
        | assumption | apply State.rsvPeak_keeps hP

theorem execEncoderEnable_keeps {P : State → Prop} (hP : Closed P) {s sN : State} (val : Word) (he : execEncoderEnable val s = .next sN) (hs : P s) : P sN := by
  unfold execEncoderEnable at he
  try dsimp only at he
  repeat' (split at he)
  all_goals (injection he with he <;> subst he)
  repeat' first
    | with_reducible
        first
        | assumption | apply State.encCfgWrite_keeps hP

theorem execEncoderEdge_keeps {P : State → Prop} (hP : Closed P) {s sN : State} (a : Bool × BitVec 4) (b : Bool × BitVec 4) (z : Bool × BitVec 4) (he : execEncoderEdge a b z s = .next sN) (hs : P s) : P sN := by
  unfold execEncoderEdge at he
  try dsimp only at he
  repeat' (split at he)
  all_goals (injection he with he <;> subst he)
  repeat' first
    | with_reducible
        first
        | assumption | apply State.encEdge_keeps hP

theorem execEncAlign_keeps {P : State → Prop} (hP : Closed P) {s sN : State}  (he : execEncAlign s = .next sN) (hs : P s) : P sN := by
  unfold execEncAlign at he
  try dsimp only at he
  repeat' (split at he)
  all_goals (injection he with he <;> subst he)
  repeat' first
    | intro _
    | with_reducible
        first
        | assumption | apply State.judge_keeps hP | apply State.setReg_keeps hP
    | with_reducible apply hP.upd

theorem execEncSpeedTimeout_keeps {P : State → Prop} (hP : Closed P) {s sN : State}  (he : execEncSpeedTimeout s = .next sN) (hs : P s) : P sN := by
  unfold execEncSpeedTimeout at he
  try dsimp only at he
  repeat' (split at he)
  all_goals (injection he with he <;> subst he)
  repeat' first
    | with_reducible
        first
        | assumption | apply ite_keeps | apply State.advance_keeps hP
    | split
    | with_reducible apply hP.upd

end Sys2Proof.Machine
end

