-- ==== Sys2Proof/Laws/KeepsTrestle.lean ====
section
/-! SUPPORT. Every operation of Machine/Trestle.lean keeps every property the primitive updates keep. -/

namespace Sys2Proof.Machine

set_option linter.unreachableTactic false
set_option linter.unusedTactic false
set_option linter.unnecessarySeqFocus false

theorem State.modTrl_keeps {P : State → Prop} (hP : Closed P) {s : State} (f : TrlSt → TrlSt) (hs : P s) :
    P (State.modTrl s f) := by
  unfold State.modTrl
  try dsimp only
  repeat' first
    | with_reducible
        first
        | assumption
    | with_reducible apply hP.upd

theorem State.modTl_keeps {P : State → Prop} (hP : Closed P) {s : State} (k : Nat) (f : TlSt → TlSt) (hs : P s) :
    P (State.modTl s k f) := by
  unfold State.modTl
  try dsimp only
  repeat' first
    | intro _
    | with_reducible
        first
        | assumption | apply State.modTrl_keeps hP
    | with_reducible apply hP.upd

theorem State.mfrac_keeps {P : State → Prop} (hP : Closed P) {s : State}  (hs : P s) : P (State.mfrac s) := by
  unfold State.mfrac
  try dsimp only
  repeat' first
    | with_reducible
        first
        | assumption | apply ite_keeps | apply State.set_keeps hP | refine State.free_keeps2 hP ?_
    | split
    | (with_reducible apply State.free_keeps hP; with_reducible assumption)

theorem State.rateTo_keeps {P : State → Prop} (hP : Closed P) {s : State} (r : Int) (hs : P s) :
    P (State.rateTo s r) := by
  unfold State.rateTo
  try dsimp only
  repeat' first
    | intro _
    | with_reducible
        first
        | assumption | apply State.modTrl_keeps hP | apply State.setS_keeps hP | apply State.mfrac_keeps hP
    | with_reducible apply hP.upd

theorem State.rateCap_keeps {P : State → Prop} (hP : Closed P) {s : State}  (hs : P s) : P (State.rateCap s) := by
  unfold State.rateCap
  try dsimp only
  repeat' first
    | with_reducible
        first
        | assumption | apply State.rateTo_keeps hP

theorem State.epochTo_keeps {P : State → Prop} (hP : Closed P) {s : State} (t : Int) (sec : Nat) (ns : Nat) (hs : P s) :
    P (State.epochTo s t sec ns) := by
  unfold State.epochTo
  try dsimp only
  repeat' first
    | intro _
    | with_reducible
        first
        | assumption | apply ite_keeps | apply State.set_keeps hP | apply State.each_keeps hP
        | apply State.legSync_keeps hP | apply State.setChan_keeps hP | apply State.modTrl_keeps hP
    | split
    | with_reducible apply hP.upd

theorem State.windows_keeps {P : State → Prop} (hP : Closed P) {s : State} (p : Nat) (hs : P s) :
    P (State.windows s p) := by
  unfold State.windows
  try dsimp only
  repeat' first
    | with_reducible
        first
        | assumption | apply State.set_keeps hP

theorem State.budgets_keeps {P : State → Prop} (hP : Closed P) {s : State}  (hs : P s) : P (State.budgets s) := by
  unfold State.budgets
  try dsimp only
  repeat' first
    | with_reducible
        first
        | assumption | apply State.set_keeps hP | apply State.leBudget_keeps hP | apply State.dsvBudget_keeps hP
        | apply State.mcxPeriod_keeps hP | apply State.modPeriod_keeps hP | apply State.blkPeriodChange_keeps hP

theorem State.applyPeriod_keeps {P : State → Prop} (hP : Closed P) {s : State} (p : Nat) (t : Nat) (hs : P s) :
    P (State.applyPeriod s p t) := by
  unfold State.applyPeriod
  try dsimp only
  repeat' first
    | with_reducible
        first
        | assumption | apply State.set_keeps hP | apply State.windows_keeps hP | apply State.epochTo_keeps hP
        | apply State.budgets_keeps hP | apply State.irq_keeps hP

theorem State.holdover_keeps {P : State → Prop} (hP : Closed P) {s : State}  (hs : P s) : P (State.holdover s) := by
  unfold State.holdover
  try dsimp only
  repeat' first
    | intro _
    | with_reducible
        first
        | assumption | apply ite_keeps | apply State.set_keeps hP | apply State.irq_keeps hP
        | apply State.modTrl_keeps hP
    | split
    | with_reducible apply hP.upd

theorem State.holdEnd_keeps {P : State → Prop} (hP : Closed P) {s : State}  (hs : P s) : P (State.holdEnd s) := by
  unfold State.holdEnd
  try dsimp only
  repeat' first
    | intro _
    | with_reducible
        first
        | assumption | apply State.set_keeps hP | apply State.modTrl_keeps hP
    | with_reducible apply hP.upd

theorem State.trlStraps_keeps {P : State → Prop} (hP : Closed P) {s : State}  (hs : P s) : P (State.trlStraps s) := by
  unfold State.trlStraps
  try dsimp only
  repeat' first
    | with_reducible
        first
        | assumption | apply State.set_keeps hP

theorem State.rediscFrom_keeps {P : State → Prop} (hP : Closed P) {s : State}  (hs : P s) :
    P (State.rediscFrom s) := by
  unfold State.rediscFrom
  try dsimp only
  repeat' first
    | intro _
    | with_reducible
        first
        | assumption | apply State.modTrl_keeps hP
    | with_reducible apply hP.upd

theorem State.joinStep_keeps {P : State → Prop} (hP : ClosedG P) {s : State} (m : NbrMsg) (hs : P s) :
    P (State.joinStep s m) := by
  unfold State.joinStep
  try dsimp only
  repeat' first
    | intro _
    | with_reducible
        first
        | assumption | apply State.set_keeps hP.toClosed | apply State.windows_keeps hP.toClosed
        | apply State.epochTo_keeps hP.toClosed | apply State.iff_keeps hP.toClosed
        | apply State.budgets_keeps hP.toClosed | apply State.irq_keeps hP.toClosed
        | apply State.modTrl_keeps hP.toClosed
    | split
    | with_reducible apply hP.toClosed.upd
    | with_reducible apply hP.grid

theorem State.member_keeps {P : State → Prop} (hP : Closed P) {s : State}  (hs : P s) : P (State.member s) := by
  unfold State.member
  try dsimp only
  repeat' first
    | with_reducible
        first
        | assumption | apply State.set_keeps hP

theorem State.joinTry_keeps {P : State → Prop} (hP : ClosedG P) {s : State}  (hs : P s) : P (State.joinTry s) := by
  unfold State.joinTry
  try dsimp only
  repeat' first
    | intro _
    | with_reducible
        first
        | assumption | apply ite_keeps | apply State.iff_keeps hP.toClosed | apply State.irq_keeps hP.toClosed
        | apply State.rediscFrom_keeps hP.toClosed | apply State.set_keeps hP.toClosed | apply State.joinStep_keeps hP
        | apply State.member_keeps hP.toClosed | apply State.modTrl_keeps hP.toClosed
    | split
    | with_reducible apply hP.toClosed.upd
    | with_reducible apply hP.grid

theorem State.rootTake_keeps {P : State → Prop} (hP : ClosedG P) {s : State} (k : Nat) (m : NbrMsg) (hs : P s) :
    P (State.rootTake s k m) := by
  unfold State.rootTake
  try dsimp only
  repeat' first
    | intro _
    | with_reducible
        first
        | assumption | apply ite_keeps | apply State.holdover_keeps hP.toClosed | apply State.modTrl_keeps hP.toClosed
        | apply State.joinTry_keeps hP
    | split
    | with_reducible apply hP.toClosed.upd
    | with_reducible apply hP.grid

theorem State.nbrTake_keeps {P : State → Prop} (hP : ClosedG P) {s : State} (k : Nat) (m : NbrMsg) (hs : P s) :
    P (State.nbrTake s k m) := by
  unfold State.nbrTake
  try dsimp only
  repeat' first
    | intro _
    | with_reducible
        first
        | assumption | apply ite_keeps | apply State.modTl_keeps hP.toClosed | apply State.modTrl_keeps hP.toClosed
        | apply State.iff_keeps hP.toClosed | apply State.rediscFrom_keeps hP.toClosed
        | apply State.set_keeps hP.toClosed | apply State.joinTry_keeps hP | apply State.rootTake_keeps hP
    | split
    | with_reducible apply hP.toClosed.upd
    | with_reducible apply hP.grid

theorem State.mlaneLost_keeps {P : State → Prop} (hP : Closed P) {s : State} (k : Nat) (hs : P s) :
    P (State.mlaneLost s k) := by
  unfold State.mlaneLost
  try dsimp only
  repeat' first
    | with_reducible
        first
        | assumption | apply ite_keeps | apply State.set_keeps hP | apply State.stlSyncLost_keeps hP
    | split

theorem State.tlDown_keeps {P : State → Prop} (hP : Closed P) {s : State} (k : Nat) (cause : Nat) (hs : P s) :
    P (State.tlDown s k cause) := by
  unfold State.tlDown
  try dsimp only
  repeat' first
    | intro _
    | with_reducible
        first
        | assumption | apply ite_keeps | apply State.set_keeps hP | apply State.modTl_keeps hP
        | apply State.modTrl_keeps hP | apply State.iff_keeps hP | apply State.rediscFrom_keeps hP
        | apply State.irq_keeps hP | apply State.holdover_keeps hP | apply State.mlaneLost_keeps hP
    | split
    | with_reducible apply hP.upd

theorem State.tlStart_keeps {P : State → Prop} (hP : Closed P) {s : State} (k : Nat) (hs : P s) :
    P (State.tlStart s k) := by
  unfold State.tlStart
  try dsimp only
  repeat' first
    | with_reducible
        first
        | assumption | apply ite_keeps | apply State.set_keeps hP
    | split

theorem State.tlHdr_keeps {P : State → Prop} (hP : Closed P) {s : State} (k : Nat) (hd : BitVec 2) (hs : P s) :
    P (State.tlHdr s k hd) := by
  unfold State.tlHdr
  try dsimp only
  repeat' first
    | intro _
    | with_reducible
        first
        | assumption | apply ite_keeps | apply State.take_keeps hP | apply State.iff_keeps hP
        | apply State.bump_keeps hP | apply State.modTl_keeps hP | apply State.tlDown_keeps hP
        | apply State.set_keeps hP
    | split
    | with_reducible apply hP.upd

theorem State.tlReady_keeps {P : State → Prop} (hP : ClosedG P) {s : State} (k : Nat) (hs : P s) :
    P (State.tlReady s k) := by
  unfold State.tlReady
  try dsimp only
  repeat' first
    | intro _
    | with_reducible
        first
        | assumption | apply ite_keeps | apply State.foldl_keeps | apply State.set_keeps hP.toClosed
        | apply State.irq_keeps hP.toClosed | apply State.rediscFrom_keeps hP.toClosed | apply State.nbrTake_keeps hP
    | split

theorem State.tlTrain_keeps {P : State → Prop} (hP : ClosedG P) {s : State} (k : Nat) (e : TrlRx) (hs : P s) :
    P (State.tlTrain s k e) := by
  unfold State.tlTrain
  try dsimp only
  repeat' first
    | intro _
    | with_reducible
        first
        | assumption | apply ite_keeps | apply State.iff_keeps hP.toClosed | apply State.set_keeps hP.toClosed
        | apply State.tlHdr_keeps hP.toClosed | apply State.tlDown_keeps hP.toClosed
        | apply State.modTl_keeps hP.toClosed | apply State.tlReady_keeps hP | apply State.take_keeps hP.toClosed
    | split
    | with_reducible apply hP.toClosed.upd
    | with_reducible apply hP.grid

theorem State.routeSet_keeps {P : State → Prop} (hP : Closed P) {s : State} (a : Nat) (ps : List (Nat × Nat)) (hs : P s) :
    P (State.routeSet s a ps) := by
  unfold State.routeSet
  try dsimp only
  repeat' first
    | intro _
    | with_reducible
        first
        | assumption | apply State.setReg_keeps hP | apply State.modTrl_keeps hP
    | split
    | with_reducible apply hP.upd

theorem State.upTake_keeps {P : State → Prop} (hP : Closed P) {s : State} (isRoot : Bool) (up : Option (Nat × Nat)) (hs : P s) :
    P (State.upTake s isRoot up) := by
  unfold State.upTake
  try dsimp only
  repeat' first
    | intro _
    | with_reducible
        first
        | assumption | apply ite_keeps | apply State.iff_keeps hP | apply State.irq_keeps hP
        | apply State.set_keeps hP | apply State.member_keeps hP | apply State.setB_keeps hP
        | apply State.each_keeps hP | apply State.holdEnd_keeps hP | apply State.modTrl_keeps hP
        | apply State.holdover_keeps hP
    | split
    | with_reducible apply hP.upd

theorem State.redisced_keeps {P : State → Prop} (hP : Closed P) {s : State} (r : Redisc) (hs : P s) :
    P (State.redisced s r) := by
  unfold State.redisced
  try dsimp only
  repeat' first
    | intro _
    | with_reducible
        first
        | assumption | apply ite_keeps | apply State.foldl_keeps | apply State.iff_keeps hP | apply State.irq_keeps hP
        | apply State.set_keeps hP | apply State.setB_keeps hP | apply State.each_keeps hP
        | apply State.routeSet_keeps hP | apply State.modTrl_keeps hP | apply State.holdover_keeps hP
        | apply State.upTake_keeps hP
    | split
    | with_reducible apply hP.upd

theorem State.failover_keeps {P : State → Prop} (hP : Closed P) {s : State}  (hs : P s) : P (State.failover s) := by
  unfold State.failover
  try dsimp only
  repeat' first
    | intro _
    | with_reducible
        first
        | assumption | apply ite_keeps | apply State.each_keeps hP | apply State.set_keeps hP
        | apply State.irq_keeps hP | apply State.modTrl_keeps hP
    | split
    | with_reducible apply hP.upd

theorem State.flowRx_keeps {P : State → Prop} (hP : Closed P) {s : State} (f : Nat) (val : Word) (k : Nat) (hs : P s) :
    P (State.flowRx s f val k) := by
  unfold State.flowRx
  try dsimp only
  repeat' first
    | intro _
    | with_reducible
        first
        | assumption | apply ite_keeps | apply State.setReg_keeps hP | apply State.modTrl_keeps hP
        | apply State.bump_keeps hP
    | split
    | with_reducible apply hP.upd

theorem State.flowMiss_keeps {P : State → Prop} (hP : Closed P) {s : State}  (hs : P s) : P (State.flowMiss s) := by
  unfold State.flowMiss
  try dsimp only
  repeat' first
    | intro _
    | with_reducible
        first
        | assumption | apply State.each_keeps hP | apply State.setB_keeps hP | apply State.iff_keeps hP
        | apply State.irq_keeps hP | apply State.modTrl_keeps hP
    | split
    | with_reducible apply hP.upd

theorem State.flowTx_keeps {P : State → Prop} (hP : Closed P) {s : State}  (hs : P s) : P (State.flowTx s) := by
  unfold State.flowTx
  try dsimp only
  repeat' first
    | intro _
    | with_reducible
        first
        | assumption | apply ite_keeps | apply State.each_keeps hP | apply State.setReg_keeps hP
    | split

theorem State.trlCfgWrite_keeps {P : State → Prop} (hP : Closed P) {s : State} (val : Word) (hs : P s) :
    P (State.trlCfgWrite s val) := by
  unfold State.trlCfgWrite
  try dsimp only
  repeat' first
    | intro _
    | with_reducible
        first
        | assumption | apply State.judge_keeps hP | apply State.take_keeps hP | apply State.set_keeps hP
        | apply State.each_keeps hP | apply State.tlStart_keeps hP | apply State.tlDown_keeps hP

theorem State.rediscWrite_keeps {P : State → Prop} (hP : Closed P) {s : State} (val : Word) (hs : P s) :
    P (State.rediscWrite s val) := by
  unfold State.rediscWrite
  try dsimp only
  repeat' first
    | intro _
    | with_reducible
        first
        | assumption | apply ite_keeps | apply State.judge_keeps hP | apply State.rediscFrom_keeps hP
    | split

theorem State.fcfgWrite_keeps {P : State → Prop} (hP : Closed P) {s : State} (f : Nat) (val : Word) (hs : P s) :
    P (State.fcfgWrite s f val) := by
  unfold State.fcfgWrite
  try dsimp only
  repeat' first
    | intro _
    | with_reducible
        first
        | assumption | apply State.judge_keeps hP | apply State.take_keeps hP | apply State.iff_keeps hP
        | apply State.set_keeps hP
    | split

theorem State.timeCapture_keeps {P : State → Prop} (hP : Closed P) {s : State}  (hs : P s) :
    P (State.timeCapture s) := by
  unfold State.timeCapture
  try dsimp only
  repeat' first
    | with_reducible
        first
        | assumption | apply State.set_keeps hP

theorem State.timeStep_keeps {P : State → Prop} (hP : ClosedG P) {s : State}  (hs : P s) : P (State.timeStep s) := by
  unfold State.timeStep
  try dsimp only
  repeat' first
    | intro _
    | with_reducible
        first
        | assumption | apply State.judge_keeps hP.toClosed | apply State.epochTo_keeps hP.toClosed
        | apply State.irq_keeps hP.toClosed
    | with_reducible apply hP.toClosed.upd
    | with_reducible apply hP.grid

theorem State.tcmdWrite_keeps {P : State → Prop} (hP : ClosedG P) {s : State} (val : Word) (hs : P s) :
    P (State.tcmdWrite s val) := by
  unfold State.tcmdWrite
  try dsimp only
  repeat' first
    | intro _
    | with_reducible
        first
        | assumption | apply State.iff_keeps hP.toClosed | apply State.timeStep_keeps hP
        | apply State.judge_keeps hP.toClosed | apply State.timeCapture_keeps hP.toClosed
    | split

theorem execTrlLaneEnable_keeps {P : State → Prop} (hP : Closed P) {s sN : State} (k : Fin 8) (he : execTrlLaneEnable k s = .next sN) (hs : P s) : P sN := by
  unfold execTrlLaneEnable at he
  try dsimp only at he
  repeat' (split at he)
  all_goals (injection he with he <;> subst he)
  repeat' first
    | intro _
    | with_reducible
        first
        | assumption | apply State.judge_keeps hP | apply State.tlStart_keeps hP

theorem execTrlLaneUp_keeps {P : State → Prop} (hP : ClosedG P) {s sN : State} (k : Fin 8) (hdrs : List (BitVec 2)) (msgs : List (Bool × NbrMsg)) (echoes : List (Nat × Nat)) (he : execTrlLaneUp k hdrs msgs echoes s = .next sN) (hs : P s) : P sN := by
  unfold execTrlLaneUp at he
  try dsimp only at he
  repeat' (split at he)
  all_goals (injection he with he <;> subst he)
  repeat' first
    | intro _
    | with_reducible
        first
        | assumption | apply State.each_keeps hP.toClosed | apply State.tlTrain_keeps hP

theorem execNeighbourSend_keeps {P : State → Prop} (hP : ClosedG P) {s sN : State} (k : Fin 8) (he : execNeighbourSend k s = .next sN) (hs : P s) : P sN := by
  unfold execNeighbourSend at he
  try dsimp only at he
  repeat' (split at he)
  all_goals (injection he with he <;> subst he)
  repeat' first
    | intro _
    | with_reducible
        first
        | assumption | apply ite_keeps | apply State.modTrl_keeps hP.toClosed | apply State.iff_keeps hP.toClosed
        | apply State.tlReady_keeps hP
    | split
    | with_reducible apply hP.toClosed.upd
    | with_reducible apply hP.grid

theorem execNeighbourLoss_keeps {P : State → Prop} (hP : Closed P) {s sN : State} (k : Fin 8) (hdrs : Option (List (BitVec 2))) (he : execNeighbourLoss k hdrs s = .next sN) (hs : P s) : P sN := by
  unfold execNeighbourLoss at he
  try dsimp only at he
  repeat' (split at he)
  all_goals (injection he with he <;> subst he)
  repeat' first
    | intro _
    | with_reducible
        first
        | assumption | apply ite_keeps | apply State.each_keeps hP | apply State.tlHdr_keeps hP
        | apply State.advance_keeps hP | apply State.tlDown_keeps hP
    | split

theorem execRediscGo_keeps {P : State → Prop} (hP : Closed P) {s sN : State}  (he : execRediscGo s = .next sN) (hs : P s) : P sN := by
  unfold execRediscGo at he
  try dsimp only at he
  repeat' (split at he)
  all_goals (injection he with he <;> subst he)
  repeat' first
    | with_reducible
        first
        | assumption | apply State.rediscWrite_keeps hP

theorem execRediscoveryDone_keeps {P : State → Prop} (hP : Closed P) {s sN : State} (r : Redisc) (he : execRediscoveryDone r s = .next sN) (hs : P s) : P sN := by
  unfold execRediscoveryDone at he
  try dsimp only at he
  repeat' (split at he)
  all_goals (injection he with he <;> subst he)
  repeat' first
    | with_reducible
        first
        | assumption | apply State.redisced_keeps hP

theorem execFlowValueRx_keeps {P : State → Prop} (hP : Closed P) {s sN : State} (f : Fin 64) (val : Word) (k : Nat) (he : execFlowValueRx f val k s = .next sN) (hs : P s) : P sN := by
  unfold execFlowValueRx at he
  try dsimp only at he
  repeat' (split at he)
  all_goals (injection he with he <;> subst he)
  repeat' first
    | with_reducible
        first
        | assumption | apply State.flowRx_keeps hP

theorem execTimeMarkSend_keeps {P : State → Prop} (hP : Closed P) {s sN : State} (k : Fin 8) (he : execTimeMarkSend k s = .next sN) (hs : P s) : P sN := by
  unfold execTimeMarkSend at he
  try dsimp only at he
  repeat' (split at he)
  all_goals (injection he with he <;> subst he)
  repeat' first
    | intro _
    | with_reducible
        first
        | assumption | apply ite_keeps | apply State.modTrl_keeps hP
    | split
    | with_reducible apply hP.upd

theorem execTimeMarkRx_keeps {P : State → Prop} (hP : Closed P) {s sN : State} (k : Fin 8) (mark : TimeMark) (he : execTimeMarkRx k mark s = .next sN) (hs : P s) : P sN := by
  unfold execTimeMarkRx at he
  try dsimp only at he
  repeat' (split at he)
  all_goals (injection he with he <;> subst he)
  repeat' first
    | intro _
    | with_reducible
        first
        | assumption | apply ite_keeps | apply State.setS_keeps hP | apply State.rateTo_keeps hP
        | apply State.modTrl_keeps hP
    | split
    | with_reducible apply hP.upd

theorem execDiscAcquire_keeps {P : State → Prop} (hP : Closed P) {s sN : State}  (he : execDiscAcquire s = .next sN) (hs : P s) : P sN := by
  unfold execDiscAcquire at he
  try dsimp only at he
  repeat' (split at he)
  all_goals (injection he with he <;> subst he)
  repeat' first
    | with_reducible
        first
        | assumption | apply ite_keeps | apply State.set_keeps hP | apply State.mfrac_keeps hP
    | split

theorem execDiscLost_keeps {P : State → Prop} (hP : Closed P) {s sN : State}  (he : execDiscLost s = .next sN) (hs : P s) : P sN := by
  unfold execDiscLost at he
  try dsimp only at he
  repeat' (split at he)
  all_goals (injection he with he <;> subst he)
  repeat' first
    | with_reducible
        first
        | assumption | apply State.advance_keeps hP | apply State.set_keeps hP | apply State.irq_keeps hP
    | split

theorem execTimeCapture_keeps {P : State → Prop} (hP : ClosedG P) {s sN : State}  (he : execTimeCapture s = .next sN) (hs : P s) : P sN := by
  unfold execTimeCapture at he
  try dsimp only at he
  repeat' (split at he)
  all_goals (injection he with he <;> subst he)
  repeat' first
    | with_reducible
        first
        | assumption | apply State.tcmdWrite_keeps hP

theorem execTimeStep_keeps {P : State → Prop} (hP : ClosedG P) {s sN : State}  (he : execTimeStep s = .next sN) (hs : P s) : P sN := by
  unfold execTimeStep at he
  try dsimp only at he
  repeat' (split at he)
  all_goals (injection he with he <;> subst he)
  repeat' first
    | with_reducible
        first
        | assumption | apply State.timeStep_keeps hP

end Sys2Proof.Machine
end

