-- ==== Sys2Proof/Laws/KeepsEth.lean ====
section
/-! SUPPORT. Every operation of Machine/Eth.lean keeps every property the primitive updates keep. -/

namespace Sys2Proof.Machine

set_option linter.unreachableTactic false
set_option linter.unusedTactic false
set_option linter.unnecessarySeqFocus false

theorem State.setEth_keeps {P : State → Prop} (hP : Closed P) {s : State} (p : Nat) (x : EthSt) (hs : P s) :
    P (State.setEth s p x) := by
  unfold State.setEth
  try dsimp only
  repeat' first
    | intro _
    | with_reducible
        first
        | assumption
    | with_reducible apply hP.upd

theorem State.modEth_keeps {P : State → Prop} (hP : Closed P) {s : State} (p : Nat) (f : EthSt → EthSt) (hs : P s) :
    P (State.modEth s p f) := by
  unfold State.modEth
  try dsimp only
  repeat' first
    | with_reducible
        first
        | assumption | apply State.setEth_keeps hP

theorem State.ptpFold_keeps {P : State → Prop} (hP : Closed P) {s : State} (p : Nat) (hs : P s) :
    P (State.ptpFold s p) := by
  unfold State.ptpFold
  try dsimp only
  repeat' first
    | intro _
    | with_reducible
        first
        | assumption | apply State.modEth_keeps hP

theorem State.ptpChange_keeps {P : State → Prop} (hP : Closed P) {s : State} (p : Nat) (set : Option Nat) (adj : Int) (inc : Option Nat) (hs : P s) :
    P (State.ptpChange s p set adj inc) := by
  unfold State.ptpChange
  try dsimp only
  repeat' first
    | intro _
    | with_reducible
        first
        | assumption | apply State.setEth_keeps hP | apply State.set_keeps hP
    | with_reducible apply hP.upd

theorem execPtpIncWrite_keeps {P : State → Prop} (hP : Closed P) {s sN : State} (p : Fin 2) (val : Word) (he : execPtpIncWrite p val s = .next sN) (hs : P s) : P sN := by
  unfold execPtpIncWrite at he
  try dsimp only at he
  repeat' (split at he)
  all_goals (injection he with he <;> subst he)
  repeat' first
    | intro _
    | with_reducible
        first
        | assumption | apply State.judge_keeps hP | apply State.set_keeps hP | apply State.ptpChange_keeps hP

theorem execPtpAdj_keeps {P : State → Prop} (hP : Closed P) {s sN : State} (p : Fin 2) (val : Word) (he : execPtpAdj p val s = .next sN) (hs : P s) : P sN := by
  unfold execPtpAdj at he
  try dsimp only at he
  repeat' (split at he)
  all_goals (injection he with he <;> subst he)
  repeat' first
    | intro _
    | with_reducible
        first
        | assumption | apply State.judge_keeps hP | apply State.ptpChange_keeps hP

theorem execPtpSet_keeps {P : State → Prop} (hP : Closed P) {s sN : State} (p : Fin 2) (he : execPtpSet p s = .next sN) (hs : P s) : P sN := by
  unfold execPtpSet at he
  try dsimp only at he
  repeat' (split at he)
  all_goals (injection he with he <;> subst he)
  repeat' first
    | intro _
    | with_reducible
        first
        | assumption | apply State.judge_keeps hP | apply State.ptpChange_keeps hP

theorem execPtpCapture_keeps {P : State → Prop} (hP : Closed P) {s sN : State} (p : Fin 2) (he : execPtpCapture p s = .next sN) (hs : P s) : P sN := by
  unfold execPtpCapture at he
  try dsimp only at he
  repeat' (split at he)
  all_goals (injection he with he <;> subst he)
  repeat' first
    | intro _
    | with_reducible
        first
        | assumption | apply State.judge_keeps hP | apply State.set_keeps hP

theorem execEthEnable_keeps {P : State → Prop} (hP : Closed P) {s sN : State} (p : Fin 2) (he : execEthEnable p s = .next sN) (hs : P s) : P sN := by
  unfold execEthEnable at he
  try dsimp only at he
  repeat' (split at he)
  all_goals (injection he with he <;> subst he)
  repeat' first
    | intro _
    | with_reducible
        first
        | assumption | apply ite_keeps | apply State.judge_keeps hP | apply State.deny_keeps hP
        | apply State.claimAll_keeps hP | apply State.set_keeps hP
    | split

theorem State.ethDisable_keeps {P : State → Prop} (hP : Closed P) {s : State} (p : Nat) (hs : P s) :
    P (State.ethDisable s p) := by
  unfold State.ethDisable
  try dsimp only
  repeat' first
    | intro _
    | with_reducible
        first
        | assumption | apply State.modEth_keeps hP | apply State.set_keeps hP | apply State.releaseAll_keeps hP
    | with_reducible apply hP.upd

theorem State.ethRing_keeps {P : State → Prop} (hP : Closed P) {s : State} (p : Nat) (hs : P s) :
    P (State.ethRing s p) := by
  unfold State.ethRing
  try dsimp only
  repeat' first
    | intro _
    | with_reducible
        first
        | assumption | apply State.iff_keeps hP | apply State.set_keeps hP
    | split

theorem State.ethNext_keeps {P : State → Prop} (hP : Closed P) {s : State} (p : Nat) (tx : Bool) (hs : P s) :
    P (State.ethNext s p tx) := by
  unfold State.ethNext
  try dsimp only
  repeat' first
    | with_reducible
        first
        | assumption | apply ite_keeps | apply State.set_keeps hP
    | split

theorem State.ethWriteDesc_keeps {P : State → Prop} (hP : ClosedM P) {s : State} (p : Nat) (tx : Bool) (w1 : Nat) (w23 : Option (Nat × Nat)) (hs : P s) :
    P (State.ethWriteDesc s p tx w1 w23) := by
  unfold State.ethWriteDesc
  try dsimp only
  repeat' first
    | with_reducible
        first
        | assumption | apply ite_keeps | apply State.ethNext_keeps hP.toClosed
        | refine State.dmaWrite_keeps2 hP _ _ _ ?_
    | split
    | (with_reducible apply State.dmaWrite_keeps hP; with_reducible assumption)

theorem State.ethExamine_keeps {P : State → Prop} (hP : Closed P) {s : State} (p : Nat) (hs : P s) :
    P (State.ethExamine s p) := by
  unfold State.ethExamine
  try dsimp only
  repeat' first
    | intro _
    | with_reducible
        first
        | assumption | apply ite_keeps | apply State.setEth_keeps hP | apply State.modEth_keeps hP
        | refine State.dmaRead_keeps2 hP _ _ _ ?_
    | split
    | (with_reducible apply State.dmaRead_keeps hP; with_reducible assumption)
    | with_reducible apply hP.upd

theorem execTxKick_keeps {P : State → Prop} (hP : Closed P) {s sN : State} (p : Fin 2) (he : execTxKick p s = .next sN) (hs : P s) : P sN := by
  unfold execTxKick at he
  try dsimp only at he
  repeat' (split at he)
  all_goals (injection he with he <;> subst he)
  repeat' first
    | intro _
    | with_reducible
        first
        | assumption | apply State.judge_keeps hP | apply State.ethExamine_keeps hP

theorem State.tsqShow_keeps {P : State → Prop} (hP : Closed P) {s : State} (p : Nat) (hs : P s) :
    P (State.tsqShow s p) := by
  unfold State.tsqShow
  try dsimp only
  repeat' first
    | with_reducible
        first
        | assumption | apply State.set_keeps hP
    | split

theorem State.tsqPush_keeps {P : State → Prop} (hP : Closed P) {s : State} (p : Nat) (e : Nat × Nat × Nat) (hs : P s) :
    P (State.tsqPush s p e) := by
  unfold State.tsqPush
  try dsimp only
  repeat' first
    | intro _
    | with_reducible
        first
        | assumption | apply ite_keeps | apply State.modEth_keeps hP | apply State.bump_keeps hP
        | apply State.irq_keeps hP | apply State.tsqShow_keeps hP
    | split
    | with_reducible apply hP.upd

theorem State.ethSent_keeps {P : State → Prop} (hP : ClosedM P) {s : State} (p : Nat) (ok : Bool) (t : Nat) (hs : P s) :
    P (State.ethSent s p ok t) := by
  unfold State.ethSent
  try dsimp only
  repeat' first
    | intro _
    | with_reducible
        first
        | assumption | apply ite_keeps | apply State.modEth_keeps hP.toClosed | apply State.ethWriteDesc_keeps hP
        | apply State.irq_keeps hP.toClosed | apply State.iff_keeps hP.toClosed | apply State.bump_keeps hP.toClosed
        | apply State.tsqPush_keeps hP.toClosed | apply State.ethExamine_keeps hP.toClosed
    | split
    | with_reducible apply hP.toClosed.upd

theorem execEthTxDone_keeps {P : State → Prop} (hP : ClosedM P) {s sN : State} (p : Fin 2) (ok : Bool) (ago : Nat) (he : execEthTxDone p ok ago s = .next sN) (hs : P s) : P sN := by
  unfold execEthTxDone at he
  try dsimp only at he
  repeat' (split at he)
  all_goals (injection he with he <;> subst he)
  repeat' first
    | intro _
    | with_reducible
        first
        | assumption | apply ite_keeps | apply State.iff_keeps hP.toClosed | apply State.advance_keeps hP.toClosed
        | apply State.ethExamine_keeps hP.toClosed | apply State.ethSent_keeps hP
    | split

theorem execTsqPop_keeps {P : State → Prop} (hP : Closed P) {s sN : State} (p : Fin 2) (he : execTsqPop p s = .next sN) (hs : P s) : P sN := by
  unfold execTsqPop at he
  try dsimp only at he
  repeat' (split at he)
  all_goals (injection he with he <;> subst he)
  repeat' first
    | intro _
    | with_reducible
        first
        | assumption | apply ite_keeps | apply State.judge_keeps hP | apply State.modEth_keeps hP
        | apply State.tsqShow_keeps hP | apply State.irq_keeps hP | apply State.set_keeps hP
        | apply State.setB_keeps hP | apply State.tsqPush_keeps hP
    | split
    | with_reducible apply hP.upd

theorem State.ethRx_keeps {P : State → Prop} (hP : ClosedM P) {s : State} (p : Nat) (d : List Byte) (fcs : Bool) (t : Nat) (hs : P s) :
    P (State.ethRx s p d fcs t) := by
  unfold State.ethRx
  try dsimp only
  repeat' first
    | intro _
    | with_reducible
        first
        | assumption | apply ite_keeps | apply State.bump_keeps hP.toClosed | apply State.irq_keeps hP.toClosed
        | apply State.modEth_keeps hP.toClosed | apply State.iff_keeps hP.toClosed
        | apply State.ethExamine_keeps hP.toClosed | apply State.ethWriteDesc_keeps hP
        | refine State.dmaRead_keeps2 hP.toClosed _ _ _ ?_ | refine State.dmaPut_keeps2 hP _ _ _ _ ?_
    | split
    | (with_reducible apply State.dmaRead_keeps hP.toClosed; with_reducible assumption)
    | (with_reducible apply State.dmaPut_keeps hP; with_reducible assumption)
    | with_reducible apply hP.toClosed.upd

theorem execEthFrameRx_keeps {P : State → Prop} (hP : ClosedM P) {s sN : State} (p : Fin 2) (data : List Byte) (fcs : Bool) (ago : Nat) (he : execEthFrameRx p data fcs ago s = .next sN) (hs : P s) : P sN := by
  unfold execEthFrameRx at he
  try dsimp only at he
  repeat' (split at he)
  all_goals (injection he with he <;> subst he)
  repeat' first
    | with_reducible
        first
        | assumption | apply ite_keeps | apply State.ethRx_keeps hP
    | split

theorem execLinkChange_keeps {P : State → Prop} (hP : ClosedM P) {s sN : State} (p : Fin 2) (up : Bool) (speed : Fin 3) (an : Bool) (he : execLinkChange p up speed an s = .next sN) (hs : P s) : P sN := by
  unfold execLinkChange at he
  try dsimp only at he
  repeat' (split at he)
  all_goals (injection he with he <;> subst he)
  repeat' first
    | with_reducible
        first
        | assumption | apply ite_keeps | apply State.setB_keeps hP.toClosed | apply State.set_keeps hP.toClosed
        | apply State.irq_keeps hP.toClosed | apply State.ethSent_keeps hP
    | split

theorem State.steer_keeps {P : State → Prop} (hP : Closed P) {s : State} (p : Nat) (ofs : Int) (hs : P s) :
    P (State.steer s p ofs) := by
  unfold State.steer
  try dsimp only
  repeat' first
    | intro _
    | with_reducible
        first
        | assumption | apply ite_keeps | apply State.iff_keeps hP | apply State.irq_keeps hP
        | apply State.set_keeps hP | apply State.rateTo_keeps hP | refine State.free_keeps2 hP ?_
    | split
    | (with_reducible apply State.free_keeps hP; with_reducible assumption)

theorem State.ptpBoundary_keeps {P : State → Prop} (hP : Closed P) {s : State}  (hs : P s) :
    P (State.ptpBoundary s) := by
  unfold State.ptpBoundary
  try dsimp only
  repeat' first
    | intro _
    | with_reducible
        first
        | assumption | apply ite_keeps | apply State.rateTo_keeps hP | apply State.set_keeps hP
        | apply State.setS_keeps hP | apply State.setB_keeps hP | apply State.iff_keeps hP
        | apply State.steer_keeps hP
    | split

theorem State.ptpFail_keeps {P : State → Prop} (hP : Closed P) {s : State} (p : Nat) (hs : P s) :
    P (State.ptpFail s p) := by
  unfold State.ptpFail
  try dsimp only
  repeat' first
    | with_reducible
        first
        | assumption | apply ite_keeps | apply State.irq_keeps hP | apply State.set_keeps hP
        | apply State.holdover_keeps hP
    | split

theorem execPtpValidWrite_keeps {P : State → Prop} (hP : Closed P) {s sN : State} (p : Fin 2) (v : Bool) (he : execPtpValidWrite p v s = .next sN) (hs : P s) : P sN := by
  unfold execPtpValidWrite at he
  try dsimp only at he
  repeat' (split at he)
  all_goals (injection he with he <;> subst he)
  repeat' first
    | intro _
    | with_reducible
        first
        | assumption | apply ite_keeps | apply State.judge_keeps hP | apply State.setB_keeps hP
        | apply State.ptpFail_keeps hP | apply State.holdEnd_keeps hP
    | split

theorem execMdioGo_keeps {P : State → Prop} (hP : Closed P) {s sN : State} (p : Fin 2) (val : Word) (he : execMdioGo p val s = .next sN) (hs : P s) : P sN := by
  unfold execMdioGo at he
  try dsimp only at he
  repeat' (split at he)
  all_goals (injection he with he <;> subst he)
  repeat' first
    | intro _
    | with_reducible
        first
        | assumption | apply State.judge_keeps hP | apply State.setReg_keeps hP

theorem execMdioDone_keeps {P : State → Prop} (hP : Closed P) {s sN : State} (p : Fin 2) (data : BitVec 16) (he : execMdioDone p data s = .next sN) (hs : P s) : P sN := by
  unfold execMdioDone at he
  try dsimp only at he
  repeat' (split at he)
  all_goals (injection he with he <;> subst he)
  repeat' first
    | intro _
    | with_reducible
        first
        | assumption | apply ite_keeps | apply State.iff_keeps hP | apply State.set_keeps hP
        | apply State.irq_keeps hP
    | split

end Sys2Proof.Machine
end

