-- ==== Sys2Proof/Laws/KeepsIntc.lean ====
section
/-! SUPPORT. Every operation of Machine/Intc.lean keeps every property the primitive updates keep. -/

namespace Sys2Proof.Machine

set_option linter.unreachableTactic false
set_option linter.unusedTactic false
set_option linter.unnecessarySeqFocus false

theorem execIntcClaim_keeps {P : State → Prop} (hP : Closed P) {s sN : State} (x : Fin 2) (he : execIntcClaim x s = .next sN) (hs : P s) : P sN := by
  unfold execIntcClaim at he
  try dsimp only at he
  repeat' (split at he)
  all_goals (injection he with he <;> subst he)
  repeat' first
    | intro _
    | with_reducible
        first
        | assumption | apply State.iff_keeps hP | apply State.set_keeps hP
    | split
    | with_reducible apply hP.upd

theorem execIntcComplete_keeps {P : State → Prop} (hP : Closed P) {s sN : State} (x : Fin 2) (line : BitVec 8) (he : execIntcComplete x line s = .next sN) (hs : P s) : P sN := by
  unfold execIntcComplete at he
  try dsimp only at he
  repeat' (split at he)
  all_goals (injection he with he <;> subst he)
  repeat' first
    | intro _
    | with_reducible
        first
        | assumption | apply State.judge_keeps hP | apply State.set_keeps hP

theorem State.dmaRegWrite_keeps {P : State → Prop} (hP : Closed P) {s : State} (ofs : Nat) (val : Word) (hs : P s) :
    P (State.dmaRegWrite s ofs val) := by
  unfold State.dmaRegWrite
  try dsimp only
  repeat' first
    | intro _
    | with_reducible
        first
        | assumption | apply ite_keeps | apply State.deny_keeps hP | apply State.judge_keeps hP
        | apply State.take_keeps hP
    | split

theorem State.dmaGo_keeps {P : State → Prop} (hP : Closed P) {s : State} (n : Nat) (hs : P s) :
    P (State.dmaGo s n) := by
  unfold State.dmaGo
  try dsimp only
  repeat' first
    | intro _
    | with_reducible
        first
        | assumption | apply ite_keeps | apply State.deny_keeps hP | apply State.judge_keeps hP
        | apply State.set_keeps hP
    | split
    | with_reducible apply hP.upd

theorem execDmaGo_keeps {P : State → Prop} (hP : Closed P) {s sN : State} (n : Fin 32) (he : execDmaGo n s = .next sN) (hs : P s) : P sN := by
  unfold execDmaGo at he
  try dsimp only at he
  repeat' (split at he)
  all_goals (injection he with he <;> subst he)
  repeat' first
    | with_reducible
        first
        | assumption | apply State.dmaGo_keeps hP

theorem State.dmaCfgWrite_keeps {P : State → Prop} (hP : Closed P) {s : State} (n : Nat) (val : Word) (hs : P s) :
    P (State.dmaCfgWrite s n val) := by
  unfold State.dmaCfgWrite
  try dsimp only
  repeat' first
    | intro _
    | with_reducible
        first
        | assumption | apply ite_keeps | apply State.deny_keeps hP | apply State.judge_keeps hP
        | apply State.iff_keeps hP | apply State.set_keeps hP | apply State.claimAll_keeps hP
        | apply State.release_keeps hP | apply State.dmaGo_keeps hP
    | split
    | with_reducible apply hP.upd

theorem execPinQuery_keeps {P : State → Prop} (hP : Closed P) {s sN : State} (val : Word) (he : execPinQuery val s = .next sN) (hs : P s) : P sN := by
  unfold execPinQuery at he
  try dsimp only at he
  repeat' (split at he)
  all_goals (injection he with he <;> subst he)
  repeat' first
    | intro _
    | with_reducible
        first
        | assumption | apply State.judge_keeps hP | apply State.set_keeps hP

end Sys2Proof.Machine
end

