-- ==== Sys2Proof/Laws/KeepsIslands.lean ====
section
/-! SUPPORT. Every operation of Machine/Islands.lean keeps every property the primitive updates keep. -/

namespace Sys2Proof.Machine

set_option linter.unreachableTactic false
set_option linter.unusedTactic false
set_option linter.unnecessarySeqFocus false

theorem State.islStat_keeps {P : State → Prop} (hP : Closed P) {s : State} (k : Nat) (hs : P s) :
    P (State.islStat s k) := by
  unfold State.islStat
  try dsimp only
  repeat' first
    | with_reducible
        first
        | assumption | apply State.setB_keeps hP

theorem State.switchOn_keeps {P : State → Prop} (hP : Closed P) {s : State} (k : Nat) (high : Bool) (hs : P s) :
    P (State.switchOn s k high) := by
  unfold State.switchOn
  try dsimp only
  repeat' first
    | intro _
    | with_reducible
        first
        | assumption | apply ite_keeps | apply State.set_keeps hP | apply State.modIsland_keeps hP
    | split
    | with_reducible apply hP.upd

theorem State.switchOff_keeps {P : State → Prop} (hP : Closed P) {s : State} (k : Nat) (high : Bool) (hs : P s) :
    P (State.switchOff s k high) := by
  unfold State.switchOff
  try dsimp only
  repeat' first
    | intro _
    | with_reducible
        first
        | assumption | apply ite_keeps | apply State.modIsland_keeps hP
    | split
    | with_reducible apply hP.upd

theorem State.bothOff_keeps {P : State → Prop} (hP : Closed P) {s : State} (k : Nat) (hs : P s) :
    P (State.bothOff s k) := by
  unfold State.bothOff
  try dsimp only
  repeat' first
    | with_reducible
        first
        | assumption | apply State.switchOff_keeps hP

theorem State.bstRefuse_keeps {P : State → Prop} (hP : Closed P) {s : State} (k : Nat) (hs : P s) :
    P (State.bstRefuse s k) := by
  unfold State.bstRefuse
  try dsimp only
  repeat' first
    | intro _
    | with_reducible
        first
        | assumption | apply ite_keeps | apply State.bump_keeps hP | apply State.modIsland_keeps hP
        | apply State.irq_keeps hP
    | split
    | with_reducible apply hP.upd

theorem State.turnOn_keeps {P : State → Prop} (hP : Closed P) {s : State} (k : Nat) (high : Bool) (hs : P s) :
    P (State.turnOn s k high) := by
  unfold State.turnOn
  try dsimp only
  repeat' first
    | with_reducible
        first
        | assumption | apply ite_keeps | apply State.bstRefuse_keeps hP | apply State.setIsland_keeps hP
        | apply State.switchOn_keeps hP
    | split

theorem State.legSource_keeps {P : State → Prop} (hP : Closed P) {s : State}  (hs : P s) : P (State.legSource s) := by
  unfold State.legSource
  try dsimp only
  repeat' first
    | intro _
    | with_reducible
        first
        | assumption | apply ite_keeps | apply State.foldl_keeps | apply State.srcActive_keeps hP
    | split

theorem State.islFault_keeps {P : State → Prop} (hP : Closed P) {s : State} (k : Nat) (bit : Nat) (hs : P s) :
    P (State.islFault s k bit) := by
  unfold State.islFault
  try dsimp only
  repeat' first
    | intro _
    | with_reducible
        first
        | assumption | apply ite_keeps | apply State.set_keeps hP | apply State.iff_keeps hP
        | apply State.irq_keeps hP | apply State.log_keeps hP | apply State.bothOff_keeps hP
        | apply State.modIsland_keeps hP | apply State.turnOn_keeps hP | apply State.legSource_keeps hP
    | split
    | with_reducible apply hP.upd

theorem State.softOff_keeps {P : State → Prop} (hP : Closed P) {s : State} (k : Nat) (high : Bool) (hs : P s) :
    P (State.softOff s k high) := by
  unfold State.softOff
  try dsimp only
  repeat' first
    | intro _
    | with_reducible
        first
        | assumption | apply State.switchOff_keeps hP | apply State.modIsland_keeps hP

theorem State.switchFault_keeps {P : State → Prop} (hP : Closed P) {s : State} (k : Nat) (high : Bool) (bit : Nat) (hs : P s) :
    P (State.switchFault s k high bit) := by
  unfold State.switchFault
  try dsimp only
  repeat' first
    | with_reducible
        first
        | assumption | apply ite_keeps | apply State.softOff_keeps hP | apply State.islFault_keeps hP
        | apply State.islStat_keeps hP
    | split

theorem State.lineOff_keeps {P : State → Prop} (hP : Closed P) {s : State} (k : Nat) (high : Bool) (hs : P s) :
    P (State.lineOff s k high) := by
  unfold State.lineOff
  try dsimp only
  repeat' first
    | intro _
    | with_reducible
        first
        | assumption | apply ite_keeps | apply State.switchOff_keeps hP | apply State.modIsland_keeps hP
        | apply State.setIsland_keeps hP
    | split

theorem State.islSample_keeps {P : State → Prop} (hP : Closed P) {s : State} (k : Nat) (h : Nat) (l : Nat) (hs : P s) :
    P (State.islSample s k h l) := by
  unfold State.islSample
  try dsimp only
  repeat' first
    | with_reducible
        first
        | assumption | apply ite_keeps | apply State.set_keeps hP | apply State.setIsland_keeps hP
        | apply State.islStat_keeps hP | apply State.bothOff_keeps hP | apply State.islFault_keeps hP
        | apply State.irq_keeps hP | apply State.lineOff_keeps hP | apply State.turnOn_keeps hP
    | split
    | with_reducible apply hP.upd

theorem State.resume_keeps {P : State → Prop} (hP : Closed P) {s : State} (k : Nat) (high : Bool) (hs : P s) :
    P (State.resume s k high) := by
  unfold State.resume
  try dsimp only
  repeat' first
    | with_reducible
        first
        | assumption | apply ite_keeps | apply State.turnOn_keeps hP
    | split

theorem State.verify_keeps {P : State → Prop} (hP : Closed P) {s : State} (k : Nat) (high : Bool) (hs : P s) :
    P (State.verify s k high) := by
  unfold State.verify
  try dsimp only
  repeat' first
    | with_reducible
        first
        | assumption | apply ite_keeps | apply State.set_keeps hP | apply State.setIsland_keeps hP
        | apply State.bstRefuse_keeps hP | apply State.bump_keeps hP | apply State.switchOn_keeps hP
        | apply State.islStat_keeps hP
    | split

theorem State.ilTmo_keeps {P : State → Prop} (hP : Closed P) {s : State} (k : Nat) (high : Bool) (hs : P s) :
    P (State.ilTmo s k high) := by
  unfold State.ilTmo
  try dsimp only
  repeat' first
    | with_reducible
        first
        | assumption | apply ite_keeps | apply State.advance_keeps hP | apply State.islFault_keeps hP
        | apply State.islStat_keeps hP
    | split

theorem State.testAbort_keeps {P : State → Prop} (hP : Closed P) {s : State} (k : Nat) (hs : P s) :
    P (State.testAbort s k) := by
  unfold State.testAbort
  try dsimp only
  repeat' first
    | with_reducible
        first
        | assumption | apply ite_keeps | apply State.set_keeps hP | apply State.release_keeps hP
        | apply State.irq_keeps hP
    | split

theorem State.supUv_keeps {P : State → Prop} (hP : Closed P) {s : State} (k : Nat) (pos : Bool) (neg : Bool) (hs : P s) :
    P (State.supUv s k pos neg) := by
  unfold State.supUv
  try dsimp only
  repeat' first
    | intro _
    | with_reducible
        first
        | assumption | apply ite_keeps | apply State.iff_keeps hP | apply State.set_keeps hP
        | apply State.testAbort_keeps hP | apply State.islStat_keeps hP | apply State.bothOff_keeps hP
        | apply State.modIsland_keeps hP | apply State.irq_keeps hP | apply State.islFault_keeps hP
    | split
    | with_reducible apply hP.upd

theorem State.supGood_keeps {P : State → Prop} (hP : Closed P) {s : State} (k : Nat) (hs : P s) :
    P (State.supGood s k) := by
  unfold State.supGood
  try dsimp only
  repeat' first
    | intro _
    | with_reducible
        first
        | assumption | apply ite_keeps | apply State.set_keeps hP | apply State.modIsland_keeps hP
        | apply State.resume_keeps hP | apply State.islStat_keeps hP
    | split
    | with_reducible apply hP.upd

theorem State.bstCharged_keeps {P : State → Prop} (hP : Closed P) {s : State} (k : Nat) (hs : P s) :
    P (State.bstCharged s k) := by
  unfold State.bstCharged
  try dsimp only
  repeat' first
    | with_reducible
        first
        | assumption | apply ite_keeps | apply State.set_keeps hP | apply State.advance_keeps hP
    | split

theorem State.bstLost_keeps {P : State → Prop} (hP : Closed P) {s : State} (k : Nat) (hs : P s) :
    P (State.bstLost s k) := by
  unfold State.bstLost
  try dsimp only
  repeat' first
    | intro _
    | with_reducible
        first
        | assumption | apply ite_keeps | apply State.set_keeps hP | apply State.modIsland_keeps hP
        | apply State.switchOff_keeps hP | apply State.islFault_keeps hP | apply State.islStat_keeps hP
    | split
    | with_reducible apply hP.upd

theorem State.adaptStep_keeps {P : State → Prop} (hP : Closed P) {s : State} (k : Nat) (kind : Nat) (time : Nat) (hs : P s) :
    P (State.adaptStep s k kind time) := by
  unfold State.adaptStep
  try dsimp only
  repeat' first
    | intro _
    | with_reducible
        first
        | assumption | apply ite_keeps | apply State.set_keeps hP | apply State.setIsland_keeps hP
        | apply State.iff_keeps hP | apply State.irq_keeps hP | apply State.setB_keeps hP
    | split
    | with_reducible apply hP.upd

theorem State.adpStart_keeps {P : State → Prop} (hP : Closed P) {s : State} (k : Nat) (hs : P s) :
    P (State.adpStart s k) := by
  unfold State.adpStart
  try dsimp only
  repeat' first
    | intro _
    | with_reducible
        first
        | assumption | apply State.set_keeps hP | apply State.modIsland_keeps hP
    | with_reducible apply hP.upd

theorem State.policyFire_keeps {P : State → Prop} (hP : Closed P) {s : State} (b : Nat) (a : Nat) (c : Nat) (hs : P s) :
    P (State.policyFire s b a c) := by
  unfold State.policyFire
  try dsimp only
  repeat' first
    | intro _
    | with_reducible
        first
        | assumption | apply ite_keeps | apply State.trip_keeps hP | apply State.srcActive_keeps hP
        | apply State.setReg_keeps hP | apply State.each_keeps hP | apply State.irq_keeps hP
        | apply State.modIsland_keeps hP | apply State.iff_keeps hP | apply State.resume_keeps hP
        | apply State.machForce_keeps hP
    | split
    | with_reducible apply hP.upd

theorem State.faultReport_keeps {P : State → Prop} (hP : Closed P) {s : State} (k : Nat) (hs : P s) :
    P (State.faultReport s k) := by
  unfold State.faultReport
  try dsimp only
  repeat' first
    | intro _
    | with_reducible
        first
        | assumption | apply ite_keeps | apply State.setIsland_keeps hP | apply State.policyFire_keeps hP
    | split
    | with_reducible apply hP.upd

theorem State.slotOff_keeps {P : State → Prop} (hP : Closed P) {s : State} (k : Nat) (high : Bool) (hs : P s) :
    P (State.slotOff s k high) := by
  unfold State.slotOff
  try dsimp only
  repeat' first
    | intro _
    | with_reducible
        first
        | assumption | apply ite_keeps | apply State.advance_keeps hP | apply State.softOff_keeps hP
        | apply State.modIsland_keeps hP | apply State.iff_keeps hP | apply State.resume_keeps hP
        | apply State.islStat_keeps hP
    | split

theorem State.islEnable_keeps {P : State → Prop} (hP : Closed P) {s : State} (k : Nat) (hs : P s) :
    P (State.islEnable s k) := by
  unfold State.islEnable
  try dsimp only
  repeat' first
    | intro _
    | with_reducible
        first
        | assumption | apply ite_keeps | apply State.judge_keeps hP | apply State.set_keeps hP
        | apply State.adpStart_keeps hP | apply State.iff_keeps hP | apply State.irq_keeps hP
        | apply State.islFault_keeps hP | apply State.bothOff_keeps hP | apply State.islStat_keeps hP
        | apply State.resume_keeps hP
    | split

theorem State.islDisable_keeps {P : State → Prop} (hP : Closed P) {s : State} (k : Nat) (hs : P s) :
    P (State.islDisable s k) := by
  unfold State.islDisable
  try dsimp only
  repeat' first
    | with_reducible
        first
        | assumption | apply State.set_keeps hP | apply State.bothOff_keeps hP | apply State.islStat_keeps hP

theorem State.fltClr_keeps {P : State → Prop} (hP : Closed P) {s : State} (k : Nat) (hs : P s) :
    P (State.fltClr s k) := by
  unfold State.fltClr
  try dsimp only
  repeat' first
    | intro _
    | with_reducible
        first
        | assumption | apply State.judge_keeps hP | apply State.setReg_keeps hP | apply State.set_keeps hP
        | apply State.legSource_keeps hP | apply State.islStat_keeps hP
    | split

theorem State.islTest_keeps {P : State → Prop} (hP : Closed P) {s : State} (k : Nat) (hs : P s) :
    P (State.islTest s k) := by
  unfold State.islTest
  try dsimp only
  repeat' first
    | intro _
    | with_reducible
        first
        | assumption | apply ite_keeps | apply State.judge_keeps hP | apply State.takeClaim_keeps hP
        | apply State.setReg_keeps hP | apply State.set_keeps hP | apply State.islStat_keeps hP
    | split

theorem State.islTestDone_keeps {P : State → Prop} (hP : Closed P) {s : State} (k : Nat) (fail : Nat) (hs : P s) :
    P (State.islTestDone s k fail) := by
  unfold State.islTestDone
  try dsimp only
  repeat' first
    | with_reducible
        first
        | assumption | apply ite_keeps | apply State.set_keeps hP | apply State.setB_keeps hP
        | apply State.release_keeps hP | apply State.irq_keeps hP | apply State.islStat_keeps hP
    | split

theorem State.islCfgWrite_keeps {P : State → Prop} (hP : Closed P) {s : State} (k : Nat) (ofs : Nat) (val : Word) (hs : P s) :
    P (State.islCfgWrite s k ofs val) := by
  unfold State.islCfgWrite
  try dsimp only
  repeat' first
    | intro _
    | with_reducible
        first
        | assumption | apply State.fitted_keeps hP | apply State.judge_keeps hP | apply State.take_keeps hP
        | apply State.iff_keeps hP | apply State.adpStart_keeps hP
    | split

theorem State.busPolWrite_keeps {P : State → Prop} (hP : Closed P) {s : State} (ofs : Nat) (val : Word) (hs : P s) :
    P (State.busPolWrite s ofs val) := by
  unfold State.busPolWrite
  try dsimp only
  repeat' first
    | intro _
    | with_reducible
        first
        | assumption | apply State.judge_keeps hP | apply State.take_keeps hP

theorem State.islReinit_keeps {P : State → Prop} (hP : Closed P) {s : State} (k : Nat) (hs : P s) :
    P (State.islReinit s k) := by
  unfold State.islReinit
  try dsimp only
  repeat' first
    | intro _
    | with_reducible
        first
        | assumption | apply State.iff_keeps hP | apply State.release_keeps hP | apply State.bothOff_keeps hP
        | apply State.setIsland_keeps hP
    | split

theorem State.islReinitDone_keeps {P : State → Prop} (hP : Closed P) {s : State} (k : Nat) (old : Word) (hs : P s) :
    P (State.islReinitDone s k old) := by
  unfold State.islReinitDone
  try dsimp only
  repeat' first
    | intro _
    | with_reducible
        first
        | assumption | apply ite_keeps | apply State.setReg_keeps hP | apply State.setB_keeps hP
        | apply State.iff_keeps hP | apply State.set_keeps hP | apply State.legSource_keeps hP
    | split

theorem execIslandEnable_keeps {P : State → Prop} (hP : Closed P) {s sN : State} (k : Fin 12) (he : execIslandEnable k s = .next sN) (hs : P s) : P sN := by
  unfold execIslandEnable at he
  try dsimp only at he
  repeat' (split at he)
  all_goals (injection he with he <;> subst he)
  repeat' first
    | with_reducible
        first
        | assumption | apply State.islEnable_keeps hP

theorem execIslandCmdChange_keeps {P : State → Prop} (hP : Closed P) {s sN : State} (k : Fin 12) (h : Fin 3) (l : Fin 3) (he : execIslandCmdChange k h l s = .next sN) (hs : P s) : P sN := by
  unfold execIslandCmdChange at he
  try dsimp only at he
  repeat' (split at he)
  all_goals (injection he with he <;> subst he)
  repeat' first
    | intro _
    | with_reducible
        first
        | assumption | apply State.islSample_keeps hP | apply State.iff_keeps hP | apply State.chopTurnOn_keeps hP
        | apply State.modIsland_keeps hP | apply State.evtTurnOn_keeps hP
    | split
    | with_reducible apply hP.upd

theorem execInterlockVerify_keeps {P : State → Prop} (hP : Closed P) {s sN : State} (k : Fin 12) (high : Bool) (he : execInterlockVerify k high s = .next sN) (hs : P s) : P sN := by
  unfold execInterlockVerify at he
  try dsimp only at he
  repeat' (split at he)
  all_goals (injection he with he <;> subst he)
  repeat' first
    | with_reducible
        first
        | assumption | apply State.verify_keeps hP

theorem execIlTmo_keeps {P : State → Prop} (hP : Closed P) {s sN : State} (k : Fin 12) (high : Bool) (he : execIlTmo k high s = .next sN) (hs : P s) : P sN := by
  unfold execIlTmo at he
  try dsimp only at he
  repeat' (split at he)
  all_goals (injection he with he <;> subst he)
  repeat' first
    | with_reducible
        first
        | assumption | apply State.ilTmo_keeps hP

theorem execBlankEnd_keeps {P : State → Prop} (hP : Closed P) {s sN : State} (k : Fin 12) (high : Bool) (above : Bool) (he : execBlankEnd k high above s = .next sN) (hs : P s) : P sN := by
  unfold execBlankEnd at he
  try dsimp only at he
  repeat' (split at he)
  all_goals (injection he with he <;> subst he)
  repeat' first
    | intro _
    | with_reducible
        first
        | assumption | apply ite_keeps | apply State.advance_keeps hP | apply State.modIsland_keeps hP
        | apply State.switchFault_keeps hP
    | split

theorem execDsatDetect_keeps {P : State → Prop} (hP : Closed P) {s sN : State} (k : Fin 12) (high : Bool) (he : execDsatDetect k high s = .next sN) (hs : P s) : P sN := by
  unfold execDsatDetect at he
  try dsimp only at he
  repeat' (split at he)
  all_goals (injection he with he <;> subst he)
  repeat' first
    | with_reducible
        first
        | assumption | apply ite_keeps | apply State.switchFault_keeps hP
    | split

theorem execGovDetect_keeps {P : State → Prop} (hP : Closed P) {s sN : State} (k : Fin 12) (high : Bool) (he : execGovDetect k high s = .next sN) (hs : P s) : P sN := by
  unfold execGovDetect at he
  try dsimp only at he
  repeat' (split at he)
  all_goals (injection he with he <;> subst he)
  repeat' first
    | with_reducible
        first
        | assumption | apply ite_keeps | apply State.switchFault_keeps hP
    | split

theorem execSoftOffEnd_keeps {P : State → Prop} (hP : Closed P) {s sN : State} (k : Fin 12) (high : Bool) (he : execSoftOffEnd k high s = .next sN) (hs : P s) : P sN := by
  unfold execSoftOffEnd at he
  try dsimp only at he
  repeat' (split at he)
  all_goals (injection he with he <;> subst he)
  repeat' first
    | intro _
    | with_reducible
        first
        | assumption | apply State.advance_keeps hP | apply State.modIsland_keeps hP | apply State.resume_keeps hP
        | apply State.islStat_keeps hP
    | split

theorem execSupUv_keeps {P : State → Prop} (hP : Closed P) {s sN : State} (k : Fin 12) (pos : Bool) (neg : Bool) (he : execSupUv k pos neg s = .next sN) (hs : P s) : P sN := by
  unfold execSupUv at he
  try dsimp only at he
  repeat' (split at he)
  all_goals (injection he with he <;> subst he)
  repeat' first
    | with_reducible
        first
        | assumption | apply State.supUv_keeps hP

theorem execIslandSupplyGood_keeps {P : State → Prop} (hP : Closed P) {s sN : State} (k : Fin 12) (he : execIslandSupplyGood k s = .next sN) (hs : P s) : P sN := by
  unfold execIslandSupplyGood at he
  try dsimp only at he
  repeat' (split at he)
  all_goals (injection he with he <;> subst he)
  repeat' first
    | with_reducible
        first
        | assumption | apply State.supGood_keeps hP

theorem execBstCharged_keeps {P : State → Prop} (hP : Closed P) {s sN : State} (k : Fin 12) (he : execBstCharged k s = .next sN) (hs : P s) : P sN := by
  unfold execBstCharged at he
  try dsimp only at he
  repeat' (split at he)
  all_goals (injection he with he <;> subst he)
  repeat' first
    | with_reducible
        first
        | assumption | apply State.bstCharged_keeps hP

theorem execBstLost_keeps {P : State → Prop} (hP : Closed P) {s sN : State} (k : Fin 12) (he : execBstLost k s = .next sN) (hs : P s) : P sN := by
  unfold execBstLost at he
  try dsimp only at he
  repeat' (split at he)
  all_goals (injection he with he <;> subst he)
  repeat' first
    | with_reducible
        first
        | assumption | apply State.bstLost_keeps hP

theorem execAdaptStep_keeps {P : State → Prop} (hP : Closed P) {s sN : State} (k : Fin 12) (kind : Fin 4) (time : Nat) (he : execAdaptStep k kind time s = .next sN) (hs : P s) : P sN := by
  unfold execAdaptStep at he
  try dsimp only at he
  repeat' (split at he)
  all_goals (injection he with he <;> subst he)
  repeat' first
    | with_reducible
        first
        | assumption | apply State.adaptStep_keeps hP

theorem execFltClr_keeps {P : State → Prop} (hP : Closed P) {s sN : State} (k : Fin 12) (he : execFltClr k s = .next sN) (hs : P s) : P sN := by
  unfold execFltClr at he
  try dsimp only at he
  repeat' (split at he)
  all_goals (injection he with he <;> subst he)
  repeat' first
    | with_reducible
        first
        | assumption | apply State.fltClr_keeps hP

theorem execFaultReport_keeps {P : State → Prop} (hP : Closed P) {s sN : State} (k : Fin 12) (he : execFaultReport k s = .next sN) (hs : P s) : P sN := by
  unfold execFaultReport at he
  try dsimp only at he
  repeat' (split at he)
  all_goals (injection he with he <;> subst he)
  repeat' first
    | with_reducible
        first
        | assumption | apply State.faultReport_keeps hP

theorem execStaggeredSoftOff_keeps {P : State → Prop} (hP : Closed P) {s sN : State} (k : Fin 12) (high : Bool) (he : execStaggeredSoftOff k high s = .next sN) (hs : P s) : P sN := by
  unfold execStaggeredSoftOff at he
  try dsimp only at he
  repeat' (split at he)
  all_goals (injection he with he <;> subst he)
  repeat' first
    | with_reducible
        first
        | assumption | apply State.slotOff_keeps hP

theorem execIslandTest_keeps {P : State → Prop} (hP : Closed P) {s sN : State} (k : Fin 12) (he : execIslandTest k s = .next sN) (hs : P s) : P sN := by
  unfold execIslandTest at he
  try dsimp only at he
  repeat' (split at he)
  all_goals (injection he with he <;> subst he)
  repeat' first
    | with_reducible
        first
        | assumption | apply State.islTest_keeps hP

theorem execIslandTestDone_keeps {P : State → Prop} (hP : Closed P) {s sN : State} (k : Fin 12) (fail : BitVec 15) (he : execIslandTestDone k fail s = .next sN) (hs : P s) : P sN := by
  unfold execIslandTestDone at he
  try dsimp only at he
  repeat' (split at he)
  all_goals (injection he with he <;> subst he)
  repeat' first
    | with_reducible
        first
        | assumption | apply State.islTestDone_keeps hP

end Sys2Proof.Machine
end

