-- ==== Sys2Proof/Laws/KeepsLeControl.lean ====
section
/-! SUPPORT. Every operation of Machine/LeControl.lean keeps every property the primitive updates keep. -/

namespace Sys2Proof.Machine

set_option linter.unreachableTactic false
set_option linter.unusedTactic false
set_option linter.unnecessarySeqFocus false

theorem State.leOpenOne_keeps {P : State → Prop} (hP : Closed P) {s : State} (e : Nat) (hs : P s) :
    P (State.leOpenOne s e) := by
  unfold State.leOpenOne
  try dsimp only
  repeat' first
    | intro _
    | with_reducible
        first
        | assumption | apply ite_keeps | apply State.each_keeps hP | apply State.iff_keeps hP
        | apply State.modLectx_keeps hP | apply State.set_keeps hP | apply State.setEng_keeps hP
    | split
    | with_reducible apply hP.upd

theorem State.leOpen_keeps {P : State → Prop} (hP : Closed P) {s : State} (doze : Bool) (hs : P s) :
    P (State.leOpen s doze) := by
  unfold State.leOpen
  try dsimp only
  repeat' first
    | intro _
    | with_reducible
        first
        | assumption | apply ite_keeps | apply State.each_keeps hP | apply State.setEng_keeps hP
        | apply State.leOpenOne_keeps hP
    | split
    | with_reducible apply hP.upd

theorem State.legPublish_keeps {P : State → Prop} (hP : Closed P) {s : State} (k : Nat) (w : Word) (hs : P s) :
    P (State.legPublish s k w) := by
  unfold State.legPublish
  try dsimp only
  repeat' first
    | with_reducible
        first
        | assumption | apply ite_keeps | apply State.legSync_keeps hP | apply State.set_keeps hP
        | apply State.putLeg_keeps hP
    | split
    | with_reducible apply hP.upd

theorem State.ctxPublish_keeps {P : State → Prop} (hP : Closed P) {s : State} (c : Nat) (hs : P s) :
    P (State.ctxPublish s c) := by
  unfold State.ctxPublish
  try dsimp only
  repeat' first
    | intro _
    | with_reducible
        first
        | assumption | apply ite_keeps | apply State.modLectx_keeps hP | apply State.each_keeps hP
        | apply State.legPublish_keeps hP
    | split
    | with_reducible apply hP.upd

theorem State.lePublish_keeps {P : State → Prop} (hP : Closed P) {s : State}  (hs : P s) : P (State.lePublish s) := by
  unfold State.lePublish
  try dsimp only
  repeat' first
    | intro _
    | with_reducible
        first
        | assumption | apply ite_keeps | apply State.each_keeps hP | apply State.ctxPublish_keeps hP
        | apply State.modLectx_keeps hP
    | split
    | with_reducible apply hP.upd

theorem State.leWindowAbort_keeps {P : State → Prop} (hP : Closed P) {s : State} (e : Nat) (win : Nat) (hs : P s) :
    P (State.leWindowAbort s e win) := by
  unfold State.leWindowAbort
  try dsimp only
  repeat' first
    | intro _
    | with_reducible
        first
        | assumption | apply State.runEnd_keeps hP | apply State.setEng_keeps hP | apply State.each_keeps hP
        | apply State.ctxAbort_keeps hP
    | split
    | with_reducible apply hP.upd

theorem State.leUsed_keeps {P : State → Prop} (hP : Closed P) {s : State}  (hs : P s) : P (State.leUsed s) := by
  unfold State.leUsed
  try dsimp only
  repeat' first
    | intro _
    | with_reducible
        first
        | assumption | apply State.each_keeps hP | apply State.set_keeps hP

theorem State.leBoundaryOne_keeps {P : State → Prop} (hP : ClosedM P) {s : State} (e : Nat) (hs : P s) :
    P (State.leBoundaryOne s e) := by
  unfold State.leBoundaryOne
  try dsimp only
  repeat' first
    | intro _
    | with_reducible
        first
        | assumption | apply ite_keeps | apply State.each_keeps hP.toClosed | apply State.modLectx_keeps hP.toClosed
        | apply State.iff_keeps hP.toClosed | apply State.setEng_keeps hP.toClosed | apply State.unitWrite_keeps hP
        | apply State.set_keeps hP.toClosed | apply State.setB_keeps hP.toClosed
        | apply State.leRefresh_keeps hP.toClosed
    | split
    | with_reducible apply hP.toClosed.upd

theorem State.moveArrive_keeps {P : State → Prop} (hP : Closed P) {s : State} (e : Nat) (hs : P s) :
    P (State.moveArrive s e) := by
  unfold State.moveArrive
  try dsimp only
  repeat' first
    | intro _
    | with_reducible
        first
        | assumption | apply ite_keeps | apply State.setEng_keeps hP | apply State.each_keeps hP
        | apply State.set_keeps hP | apply State.modLectx_keeps hP | apply State.leRefresh_keeps hP
        | apply State.moveEnd_keeps hP
    | split
    | with_reducible apply hP.upd

theorem State.moveBack_keeps {P : State → Prop} (hP : ClosedM P) {s : State} (e : Nat) (hs : P s) :
    P (State.moveBack s e) := by
  unfold State.moveBack
  try dsimp only
  repeat' first
    | intro _
    | with_reducible
        first
        | assumption | apply ite_keeps | apply State.setEng_keeps hP.toClosed | apply State.each_keeps hP.toClosed
        | apply State.redirect_keeps hP
    | split
    | with_reducible apply hP.toClosed.upd

theorem State.leBoundary_keeps {P : State → Prop} (hP : ClosedM P) {s : State}  (hs : P s) :
    P (State.leBoundary s) := by
  unfold State.leBoundary
  try dsimp only
  repeat' first
    | intro _
    | with_reducible
        first
        | assumption | apply State.each_keeps hP.toClosed | apply State.moveBack_keeps hP
        | apply State.moveArrive_keeps hP.toClosed | apply State.leBoundaryOne_keeps hP

theorem State.grnLatch_keeps {P : State → Prop} (hP : Closed P) {s : State}  (hs : P s) : P (State.grnLatch s) := by
  unfold State.grnLatch
  try dsimp only
  repeat' first
    | intro _
    | with_reducible
        first
        | assumption | apply ite_keeps | apply State.foldl_keeps
    | split
    | with_reducible apply hP.upd

theorem State.moveWrite_keeps {P : State → Prop} (hP : Closed P) {s : State} (e : Nat) (val : Word) (hs : P s) :
    P (State.moveWrite s e val) := by
  unfold State.moveWrite
  try dsimp only
  repeat' first
    | intro _
    | with_reducible
        first
        | assumption | apply ite_keeps | apply State.judge_keeps hP | apply State.refuse_keeps hP
        | apply State.set_keeps hP | apply State.setEng_keeps hP
    | split
    | with_reducible apply hP.upd

theorem State.moveChecked_keeps {P : State → Prop} (hP : Closed P) {s : State} (e : Nat) (hs : P s) :
    P (State.moveChecked s e) := by
  unfold State.moveChecked
  try dsimp only
  repeat' first
    | intro _
    | with_reducible
        first
        | assumption | apply ite_keeps | apply State.refuse_keeps hP | apply State.moveEnd_keeps hP
        | apply State.setEng_keeps hP | apply State.set_keeps hP
    | split
    | with_reducible apply hP.upd

theorem State.moveOne_keeps {P : State → Prop} (hP : ClosedM P) {s : State} (p : Nat) (q : Nat) (hs : P s) :
    P (State.moveOne s p q) := by
  unfold State.moveOne
  try dsimp only
  repeat' first
    | intro _
    | with_reducible
        first
        | assumption | apply State.each_keeps hP.toClosed | apply State.unitWrite_keeps hP
        | apply State.setReg_keeps hP.toClosed | apply State.set_keeps hP.toClosed
        | apply State.setLectx_keeps hP.toClosed | apply State.moveHeld_keeps hP.toClosed
        | apply State.redirect_keeps hP
    | with_reducible apply hP.toClosed.upd

theorem State.moveCopy_keeps {P : State → Prop} (hP : ClosedM P) {s : State} (e : Nat) (hs : P s) :
    P (State.moveCopy s e) := by
  unfold State.moveCopy
  try dsimp only
  repeat' first
    | intro _
    | with_reducible
        first
        | assumption | apply ite_keeps | apply State.each_keeps hP.toClosed | apply State.leStop_keeps hP.toClosed
        | apply State.moveOne_keeps hP | apply State.setEng_keeps hP.toClosed | apply State.moveEnd_keeps hP.toClosed
    | split
    | with_reducible apply hP.toClosed.upd

theorem State.leDisable_keeps {P : State → Prop} (hP : Closed P) {s : State} (e : Nat) (hs : P s) :
    P (State.leDisable s e) := by
  unfold State.leDisable
  try dsimp only
  repeat' first
    | with_reducible
        first
        | assumption | apply ite_keeps | apply State.refuse_keeps hP | apply State.set_keeps hP
        | apply State.moveCancel_keeps hP
    | split

theorem State.moveLost_keeps {P : State → Prop} (hP : Closed P) {s : State} (e : Nat) (hs : P s) :
    P (State.moveLost s e) := by
  unfold State.moveLost
  try dsimp only
  repeat' first
    | intro _
    | with_reducible
        first
        | assumption | apply State.each_keeps hP | apply State.leBlock_keeps hP | apply State.leOrphan_keeps hP
        | apply State.releaseAll_keeps hP | apply State.ctxClear_keeps hP | apply State.moveEnd_keeps hP
    | split

theorem State.leReinit_keeps {P : State → Prop} (hP : Closed P) {s sN : State} (e : Nat) {r : Bool} (he : State.leReinit s e = (r, sN)) (hs : P s) : P sN := by
  unfold State.leReinit at he
  try dsimp only at he
  repeat' (split at he)
  all_goals (injection he with _ he <;> subst he)
  repeat' first
    | intro _
    | with_reducible
        first
        | assumption | apply State.moveCancel_keeps hP | apply State.moveLost_keeps hP | apply State.each_keeps hP
        | apply State.leBlock_keeps hP | apply State.leOrphan_keeps hP | apply State.releaseAll_keeps hP
        | apply State.setLectx_keeps hP | apply State.setEng_keeps hP
    | split

theorem State.leReinit_keeps2 {P : State → Prop} (hP : Closed P) {s : State} (e : Nat) (hs : P s) : P (State.leReinit s e).2 :=
  State.leReinit_keeps hP _ (Prod.eta _).symm hs

theorem State.ctxHoldWrite_keeps {P : State → Prop} (hP : Closed P) {s : State} (e : Nat) (mask : Nat) (hs : P s) :
    P (State.ctxHoldWrite s e mask) := by
  unfold State.ctxHoldWrite
  try dsimp only
  repeat' first
    | intro _
    | with_reducible
        first
        | assumption | apply State.judge_keeps hP | apply State.set_keeps hP

theorem State.cqPush_keeps {P : State → Prop} (hP : Closed P) {s : State} (e : Nat) (val : Word) (hs : P s) :
    P (State.cqPush s e val) := by
  unfold State.cqPush
  try dsimp only
  repeat' first
    | intro _
    | with_reducible
        first
        | assumption | apply State.judge_keeps hP | apply State.setEng_keeps hP | apply State.leRefresh_keeps hP
    | with_reducible apply hP.upd

theorem State.ctxRegWrite_keeps {P : State → Prop} (hP : Closed P) {s : State} (e : Nat) (ofs : Nat) (val : Word) (hs : P s) :
    P (State.ctxRegWrite s e ofs val) := by
  unfold State.ctxRegWrite
  try dsimp only
  repeat' first
    | intro _
    | with_reducible
        first
        | assumption | apply State.judge_keeps hP | apply State.take_keeps hP

theorem State.testWrite_keeps {P : State → Prop} (hP : Closed P) {s : State} (e : Nat) (val : Word) (hs : P s) :
    P (State.testWrite s e val) := by
  unfold State.testWrite
  try dsimp only
  repeat' first
    | intro _
    | with_reducible
        first
        | assumption | apply ite_keeps | apply State.judge_keeps hP | apply State.set_keeps hP
    | split

theorem State.testDone_keeps {P : State → Prop} (hP : Closed P) {s : State} (e : Nat) (pass : Bool) (hs : P s) :
    P (State.testDone s e pass) := by
  unfold State.testDone
  try dsimp only
  repeat' first
    | with_reducible
        first
        | assumption | apply ite_keeps | apply State.set_keeps hP | apply State.irq_keeps hP
    | split

theorem State.leMemWrite_keeps {P : State → Prop} (hP : ClosedM P) {s : State} (e : Nat) (a : Nat) (bs : List Byte) (hs : P s) :
    P (State.leMemWrite s e a bs) := by
  unfold State.leMemWrite
  try dsimp only
  repeat' first
    | with_reducible
        first
        | assumption | apply ite_keeps | apply State.refuse_keeps hP.toClosed | apply State.unitWrite_keeps hP
    | split
    | with_reducible apply hP.toClosed.upd

theorem State.leTableWrites_keeps {P : State → Prop} (hP : ClosedM P) {s : State}  (hs : P s) :
    P (State.leTableWrites s) := by
  unfold State.leTableWrites
  try dsimp only
  repeat' first
    | intro _
    | with_reducible
        first
        | assumption | apply State.each_keeps hP.toClosed | apply State.unitWrite_keeps hP
    | with_reducible apply hP.toClosed.upd

theorem execCtxEnable_keeps {P : State → Prop} (hP : Closed P) {s sN : State} (e : Fin 16) (mask : BitVec 16) (he : execCtxEnable e mask s = .next sN) (hs : P s) : P sN := by
  unfold execCtxEnable at he
  try dsimp only at he
  repeat' (split at he)
  all_goals (injection he with he <;> subst he)
  repeat' first
    | with_reducible
        first
        | assumption | apply State.ctxEnWrite_keeps hP

theorem execScanComplete_keeps {P : State → Prop} (hP : Closed P) {s sN : State} (e : Fin 16) (k : Fin 16) (he : execScanComplete e k s = .next sN) (hs : P s) : P sN := by
  unfold execScanComplete at he
  try dsimp only at he
  repeat' (split at he)
  all_goals (injection he with he <;> subst he)
  repeat' first
    | with_reducible
        first
        | assumption | apply State.advance_keeps hP | apply State.scanEnd_keeps hP
    | split

theorem execCtxDisable_keeps {P : State → Prop} (hP : Closed P) {s sN : State} (e : Fin 16) (mask : BitVec 16) (he : execCtxDisable e mask s = .next sN) (hs : P s) : P sN := by
  unfold execCtxDisable at he
  try dsimp only at he
  repeat' (split at he)
  all_goals (injection he with he <;> subst he)
  repeat' first
    | with_reducible
        first
        | assumption | apply State.ctxEnWrite_keeps hP

theorem execCtxHoldSet_keeps {P : State → Prop} (hP : Closed P) {s sN : State} (e : Fin 16) (mask : BitVec 16) (he : execCtxHoldSet e mask s = .next sN) (hs : P s) : P sN := by
  unfold execCtxHoldSet at he
  try dsimp only at he
  repeat' (split at he)
  all_goals (injection he with he <;> subst he)
  repeat' first
    | with_reducible
        first
        | assumption | apply State.ctxHoldWrite_keeps hP

theorem execCtxHoldClear_keeps {P : State → Prop} (hP : Closed P) {s sN : State} (e : Fin 16) (mask : BitVec 16) (he : execCtxHoldClear e mask s = .next sN) (hs : P s) : P sN := by
  unfold execCtxHoldClear at he
  try dsimp only at he
  repeat' (split at he)
  all_goals (injection he with he <;> subst he)
  repeat' first
    | with_reducible
        first
        | assumption | apply State.ctxHoldWrite_keeps hP

theorem State.leStart_keeps {P : State → Prop} (hP : Closed P) {s : State} (e : Nat) (hs : P s) :
    P (State.leStart s e) := by
  unfold State.leStart
  try dsimp only
  repeat' first
    | with_reducible
        first
        | assumption | apply State.setEng_keeps hP
    | split
    | with_reducible apply hP.upd

theorem execContextStart_keeps {P : State → Prop} (hP : Closed P) {s sN : State} (e : Fin 16) (he : execContextStart e s = .next sN) (hs : P s) : P sN := by
  unfold execContextStart at he
  try dsimp only at he
  repeat' (split at he)
  all_goals (injection he with he <;> subst he)
  repeat' first
    | with_reducible
        first
        | assumption | apply ite_keeps | apply State.leStart_keeps hP
    | split

theorem execCqPush_keeps {P : State → Prop} (hP : Closed P) {s sN : State} (e : Fin 16) (val : Word) (he : execCqPush e val s = .next sN) (hs : P s) : P sN := by
  unfold execCqPush at he
  try dsimp only at he
  repeat' (split at he)
  all_goals (injection he with he <;> subst he)
  repeat' first
    | with_reducible
        first
        | assumption | apply State.cqPush_keeps hP

theorem execCtxMove_keeps {P : State → Prop} (hP : Closed P) {s sN : State} (e : Fin 16) (val : Word) (he : execCtxMove e val s = .next sN) (hs : P s) : P sN := by
  unfold execCtxMove at he
  try dsimp only at he
  repeat' (split at he)
  all_goals (injection he with he <;> subst he)
  repeat' first
    | with_reducible
        first
        | assumption | apply State.moveWrite_keeps hP

theorem execMoveCheckDone_keeps {P : State → Prop} (hP : Closed P) {s sN : State} (e : Fin 16) (he : execMoveCheckDone e s = .next sN) (hs : P s) : P sN := by
  unfold execMoveCheckDone at he
  try dsimp only at he
  repeat' (split at he)
  all_goals (injection he with he <;> subst he)
  repeat' first
    | with_reducible
        first
        | assumption | apply State.moveChecked_keeps hP

theorem execEngineTest_keeps {P : State → Prop} (hP : Closed P) {s sN : State} (e : Fin 16) (val : Word) (he : execEngineTest e val s = .next sN) (hs : P s) : P sN := by
  unfold execEngineTest at he
  try dsimp only at he
  repeat' (split at he)
  all_goals (injection he with he <;> subst he)
  repeat' first
    | with_reducible
        first
        | assumption | apply State.testWrite_keeps hP

theorem execEngineTestDone_keeps {P : State → Prop} (hP : Closed P) {s sN : State} (e : Fin 16) (pass : Bool) (he : execEngineTestDone e pass s = .next sN) (hs : P s) : P sN := by
  unfold execEngineTestDone at he
  try dsimp only at he
  repeat' (split at he)
  all_goals (injection he with he <;> subst he)
  repeat' first
    | with_reducible
        first
        | assumption | apply State.testDone_keeps hP

end Sys2Proof.Machine
end

