-- ==== Sys2Proof/Laws/KeepsLeInstr.lean ====
section
/-! SUPPORT. Every operation of Machine/LeInstr.lean keeps every property the primitive updates keep. -/

namespace Sys2Proof.Machine

set_option linter.unreachableTactic false
set_option linter.unusedTactic false
set_option linter.unnecessarySeqFocus false

theorem State.leOp_keeps {P : State → Prop} (hP : Closed P) {s : State} (e : Nat) (i : Instr) (cost : Nat) (vd : Nat) (f : LeRun → LeRes) (hs : P s) :
    P (State.leOp s e i cost vd f) := by
  unfold State.leOp
  try dsimp only
  repeat' first
    | intro _
    | with_reducible
        first
        | assumption | apply State.leReg_keeps hP

theorem State.leEndStep_keeps {P : State → Prop} (hP : ClosedM P) {s : State} (e : Fin 16) (hs : P s) :
    P (State.leEndStep s e) := by
  unfold State.leEndStep
  try dsimp only
  repeat' first
    | with_reducible
        first
        | assumption | apply ite_keeps | apply State.leUe_keeps hP.toClosed | apply State.leAbort_keeps hP.toClosed
        | apply State.setRun_keeps hP.toClosed | apply State.leCommit_keeps hP | apply State.runEnd_keeps hP.toClosed
    | split
    | with_reducible apply hP.toClosed.upd

theorem execLeEnd_keeps {P : State → Prop} (hP : ClosedM P) {s sN : State} (e : Fin 16) (he : execLeEnd e s = .next sN) (hs : P s) : P sN := by
  unfold execLeEnd at he
  try dsimp only at he
  repeat' (split at he)
  all_goals (injection he with he <;> subst he)
  repeat' first
    | with_reducible
        first
        | assumption | apply ite_keeps | apply State.leEndStep_keeps hP | apply State.setEng_keeps hP.toClosed
    | split
    | with_reducible apply hP.toClosed.upd

theorem execLeNop_keeps {P : State → Prop} (hP : Closed P) {s sN : State} (e : Fin 16) (he : execLeNop e s = .next sN) (hs : P s) : P sN := by
  unfold execLeNop at he
  try dsimp only at he
  repeat' (split at he)
  all_goals (injection he with he <;> subst he)
  repeat' first
    | with_reducible
        first
        | assumption | apply State.leReg_keeps hP

theorem execLeLil_keeps {P : State → Prop} (hP : Closed P) {s sN : State} (e : Fin 16) (vd : Fin 32) (imm : BitVec 16) (he : execLeLil e vd imm s = .next sN) (hs : P s) : P sN := by
  unfold execLeLil at he
  try dsimp only at he
  repeat' (split at he)
  all_goals (injection he with he <;> subst he)
  repeat' first
    | intro _
    | with_reducible
        first
        | assumption | apply State.leOp_keeps hP

theorem execLeLih_keeps {P : State → Prop} (hP : Closed P) {s sN : State} (e : Fin 16) (vd : Fin 32) (imm : BitVec 16) (he : execLeLih e vd imm s = .next sN) (hs : P s) : P sN := by
  unfold execLeLih at he
  try dsimp only at he
  repeat' (split at he)
  all_goals (injection he with he <;> subst he)
  repeat' first
    | intro _
    | with_reducible
        first
        | assumption | apply State.leOp_keeps hP

theorem execLeMov_keeps {P : State → Prop} (hP : Closed P) {s sN : State} (e : Fin 16) (vd : Fin 32) (va : Fin 32) (he : execLeMov e vd va s = .next sN) (hs : P s) : P sN := by
  unfold execLeMov at he
  try dsimp only at he
  repeat' (split at he)
  all_goals (injection he with he <;> subst he)
  repeat' first
    | intro _
    | with_reducible
        first
        | assumption | apply State.leOp_keeps hP

theorem execLeCvt_keeps {P : State → Prop} (hP : Closed P) {s sN : State} (e : Fin 16) (vd : Fin 32) (va : Fin 32) (t : Fin 4) (he : execLeCvt e vd va t s = .next sN) (hs : P s) : P sN := by
  unfold execLeCvt at he
  try dsimp only at he
  repeat' (split at he)
  all_goals (injection he with he <;> subst he)
  repeat' first
    | intro _
    | with_reducible
        first
        | assumption | apply State.leOp_keeps hP

theorem execLeAdd_keeps {P : State → Prop} (hP : Closed P) {s sN : State} (e : Fin 16) (vd : Fin 32) (va : Fin 32) (vb : Fin 32) (t : Fin 3) (he : execLeAdd e vd va vb t s = .next sN) (hs : P s) : P sN := by
  unfold execLeAdd at he
  try dsimp only at he
  repeat' (split at he)
  all_goals (injection he with he <;> subst he)
  repeat' first
    | intro _
    | with_reducible
        first
        | assumption | apply ite_keeps | apply State.leOp_keeps hP
    | split

theorem execLeSub_keeps {P : State → Prop} (hP : Closed P) {s sN : State} (e : Fin 16) (vd : Fin 32) (va : Fin 32) (vb : Fin 32) (t : Fin 3) (he : execLeSub e vd va vb t s = .next sN) (hs : P s) : P sN := by
  unfold execLeSub at he
  try dsimp only at he
  repeat' (split at he)
  all_goals (injection he with he <;> subst he)
  repeat' first
    | intro _
    | with_reducible
        first
        | assumption | apply ite_keeps | apply State.leOp_keeps hP
    | split

theorem execLeMul_keeps {P : State → Prop} (hP : Closed P) {s sN : State} (e : Fin 16) (vd : Fin 32) (va : Fin 32) (vb : Fin 32) (t : Fin 3) (he : execLeMul e vd va vb t s = .next sN) (hs : P s) : P sN := by
  unfold execLeMul at he
  try dsimp only at he
  repeat' (split at he)
  all_goals (injection he with he <;> subst he)
  repeat' first
    | intro _
    | with_reducible
        first
        | assumption | apply ite_keeps | apply State.leOp_keeps hP
    | split

theorem execLeMac_keeps {P : State → Prop} (hP : Closed P) {s sN : State} (e : Fin 16) (vd : Fin 32) (va : Fin 32) (vb : Fin 32) (t : Fin 3) (he : execLeMac e vd va vb t s = .next sN) (hs : P s) : P sN := by
  unfold execLeMac at he
  try dsimp only at he
  repeat' (split at he)
  all_goals (injection he with he <;> subst he)
  repeat' first
    | intro _
    | with_reducible
        first
        | assumption | apply ite_keeps | apply State.leOp_keeps hP
    | split

theorem execLeDiv_keeps {P : State → Prop} (hP : Closed P) {s sN : State} (e : Fin 16) (vd : Fin 32) (va : Fin 32) (vb : Fin 32) (t : Fin 3) (he : execLeDiv e vd va vb t s = .next sN) (hs : P s) : P sN := by
  unfold execLeDiv at he
  try dsimp only at he
  repeat' (split at he)
  all_goals (injection he with he <;> subst he)
  repeat' first
    | intro _
    | with_reducible
        first
        | assumption | apply State.leOp_keeps hP

theorem execLeSqrt_keeps {P : State → Prop} (hP : Closed P) {s sN : State} (e : Fin 16) (vd : Fin 32) (va : Fin 32) (t : Fin 2) (he : execLeSqrt e vd va t s = .next sN) (hs : P s) : P sN := by
  unfold execLeSqrt at he
  try dsimp only at he
  repeat' (split at he)
  all_goals (injection he with he <;> subst he)
  repeat' first
    | intro _
    | with_reducible
        first
        | assumption | apply State.leOp_keeps hP

theorem execLeAbs_keeps {P : State → Prop} (hP : Closed P) {s sN : State} (e : Fin 16) (vd : Fin 32) (va : Fin 32) (t : Fin 3) (he : execLeAbs e vd va t s = .next sN) (hs : P s) : P sN := by
  unfold execLeAbs at he
  try dsimp only at he
  repeat' (split at he)
  all_goals (injection he with he <;> subst he)
  repeat' first
    | intro _
    | with_reducible
        first
        | assumption | apply State.leOp_keeps hP

theorem execLeNeg_keeps {P : State → Prop} (hP : Closed P) {s sN : State} (e : Fin 16) (vd : Fin 32) (va : Fin 32) (t : Fin 3) (he : execLeNeg e vd va t s = .next sN) (hs : P s) : P sN := by
  unfold execLeNeg at he
  try dsimp only at he
  repeat' (split at he)
  all_goals (injection he with he <;> subst he)
  repeat' first
    | intro _
    | with_reducible
        first
        | assumption | apply State.leOp_keeps hP

theorem execLeMin_keeps {P : State → Prop} (hP : Closed P) {s sN : State} (e : Fin 16) (vd : Fin 32) (va : Fin 32) (vb : Fin 32) (t : Fin 3) (he : execLeMin e vd va vb t s = .next sN) (hs : P s) : P sN := by
  unfold execLeMin at he
  try dsimp only at he
  repeat' (split at he)
  all_goals (injection he with he <;> subst he)
  repeat' first
    | intro _
    | with_reducible
        first
        | assumption | apply State.leOp_keeps hP

theorem execLeMax_keeps {P : State → Prop} (hP : Closed P) {s sN : State} (e : Fin 16) (vd : Fin 32) (va : Fin 32) (vb : Fin 32) (t : Fin 3) (he : execLeMax e vd va vb t s = .next sN) (hs : P s) : P sN := by
  unfold execLeMax at he
  try dsimp only at he
  repeat' (split at he)
  all_goals (injection he with he <;> subst he)
  repeat' first
    | intro _
    | with_reducible
        first
        | assumption | apply State.leOp_keeps hP

theorem execLeAddi_keeps {P : State → Prop} (hP : Closed P) {s sN : State} (e : Fin 16) (vd : Fin 32) (va : Fin 32) (imm : BitVec 16) (he : execLeAddi e vd va imm s = .next sN) (hs : P s) : P sN := by
  unfold execLeAddi at he
  try dsimp only at he
  repeat' (split at he)
  all_goals (injection he with he <;> subst he)
  repeat' first
    | intro _
    | with_reducible
        first
        | assumption | apply State.leOp_keeps hP

theorem execLeAnd_keeps {P : State → Prop} (hP : Closed P) {s sN : State} (e : Fin 16) (vd : Fin 32) (va : Fin 32) (vb : Fin 32) (he : execLeAnd e vd va vb s = .next sN) (hs : P s) : P sN := by
  unfold execLeAnd at he
  try dsimp only at he
  repeat' (split at he)
  all_goals (injection he with he <;> subst he)
  repeat' first
    | intro _
    | with_reducible
        first
        | assumption | apply State.leOp_keeps hP

theorem execLeOr_keeps {P : State → Prop} (hP : Closed P) {s sN : State} (e : Fin 16) (vd : Fin 32) (va : Fin 32) (vb : Fin 32) (he : execLeOr e vd va vb s = .next sN) (hs : P s) : P sN := by
  unfold execLeOr at he
  try dsimp only at he
  repeat' (split at he)
  all_goals (injection he with he <;> subst he)
  repeat' first
    | intro _
    | with_reducible
        first
        | assumption | apply State.leOp_keeps hP

theorem execLeXor_keeps {P : State → Prop} (hP : Closed P) {s sN : State} (e : Fin 16) (vd : Fin 32) (va : Fin 32) (vb : Fin 32) (he : execLeXor e vd va vb s = .next sN) (hs : P s) : P sN := by
  unfold execLeXor at he
  try dsimp only at he
  repeat' (split at he)
  all_goals (injection he with he <;> subst he)
  repeat' first
    | intro _
    | with_reducible
        first
        | assumption | apply State.leOp_keeps hP

theorem execLeSha_keeps {P : State → Prop} (hP : Closed P) {s sN : State} (e : Fin 16) (vd : Fin 32) (va : Fin 32) (imm : BitVec 16) (he : execLeSha e vd va imm s = .next sN) (hs : P s) : P sN := by
  unfold execLeSha at he
  try dsimp only at he
  repeat' (split at he)
  all_goals (injection he with he <;> subst he)
  repeat' first
    | intro _
    | with_reducible
        first
        | assumption | apply State.leOp_keeps hP

theorem execLeLds_keeps {P : State → Prop} (hP : Closed P) {s sN : State} (e : Fin 16) (vd : Fin 32) (idx : Fin 64) (he : execLeLds e vd idx s = .next sN) (hs : P s) : P sN := by
  unfold execLeLds at he
  try dsimp only at he
  repeat' (split at he)
  all_goals (injection he with he <;> subst he)
  repeat' first
    | intro _
    | with_reducible
        first
        | assumption | apply State.leOp_keeps hP

theorem execLeSts_keeps {P : State → Prop} (hP : Closed P) {s sN : State} (e : Fin 16) (vd : Fin 32) (idx : Fin 64) (he : execLeSts e vd idx s = .next sN) (hs : P s) : P sN := by
  unfold execLeSts at he
  try dsimp only at he
  repeat' (split at he)
  all_goals (injection he with he <;> subst he)
  repeat' first
    | intro _
    | with_reducible
        first
        | assumption | apply State.leReg_keeps hP | apply State.setS_keeps hP

theorem execLeLdc_keeps {P : State → Prop} (hP : Closed P) {s sN : State} (e : Fin 16) (vd : Fin 32) (idx : Fin 64) (he : execLeLdc e vd idx s = .next sN) (hs : P s) : P sN := by
  unfold execLeLdc at he
  try dsimp only at he
  repeat' (split at he)
  all_goals (injection he with he <;> subst he)
  repeat' first
    | intro _
    | with_reducible
        first
        | assumption | apply State.leOp_keeps hP

theorem execLeLdm_keeps {P : State → Prop} (hP : Closed P) {s sN : State} (e : Fin 16) (vd : Fin 32) (va : Fin 32) (imm : BitVec 16) (he : execLeLdm e vd va imm s = .next sN) (hs : P s) : P sN := by
  unfold execLeLdm at he
  try dsimp only at he
  repeat' (split at he)
  all_goals (injection he with he <;> subst he)
  repeat' first
    | intro _
    | with_reducible
        first
        | assumption | apply ite_keeps | apply State.leReg_keeps hP
    | split

theorem execLeStm_keeps {P : State → Prop} (hP : ClosedM P) {s t : State} (e : Fin 16) (vd va : Fin 32)
    (imm : BitVec 16) (h : execLeStm e vd va imm s = .next t) (hs : P s) : P t := by
  unfold execLeStm at h
  injection h with h
  subst h
  refine State.leExec_keeps hP.toClosed _ _ _ _ ?_ hs
  intro s r t r' h hs
  dsimp only at h
  split at h
  · simp only [Except.ok.injEq, Prod.mk.injEq] at h
    exact h.1 ▸ State.setMword_keeps hP _ _ hs
  · exact absurd h (by simp)

theorem execLeIn_keeps {P : State → Prop} (hP : Closed P) {s sN : State} (e : Fin 16) (vd : Fin 32) (idx : Fin 16) (wait : Nat) (he : execLeIn e vd idx wait s = .next sN) (hs : P s) : P sN := by
  unfold execLeIn at he
  try dsimp only at he
  repeat' (split at he)
  all_goals (injection he with he <;> subst he)
  repeat' first
    | intro _
    | with_reducible
        first
        | assumption | apply ite_keeps | apply State.leReg_keeps hP
    | split
    | with_reducible apply hP.upd

theorem execLeOut_keeps {P : State → Prop} (hP : Closed P) {s sN : State} (e : Fin 16) (vd : Fin 32) (idx : Fin 16) (he : execLeOut e vd idx s = .next sN) (hs : P s) : P sN := by
  unfold execLeOut at he
  try dsimp only at he
  repeat' (split at he)
  all_goals (injection he with he <;> subst he)
  repeat' first
    | intro _
    | with_reducible
        first
        | assumption | apply State.leReg_keeps hP
    | split
    | with_reducible apply hP.upd

theorem execLeGetf_keeps {P : State → Prop} (hP : Closed P) {s sN : State} (e : Fin 16) (vd : Fin 32) (he : execLeGetf e vd s = .next sN) (hs : P s) : P sN := by
  unfold execLeGetf at he
  try dsimp only at he
  repeat' (split at he)
  all_goals (injection he with he <;> subst he)
  repeat' first
    | intro _
    | with_reducible
        first
        | assumption | apply State.leOp_keeps hP

theorem State.leBranch_keeps {P : State → Prop} (hP : Closed P) {s : State} (e : Nat) (i : Instr) (off : Nat) (cond : LeRun → Bool) (hs : P s) :
    P (State.leBranch s e i off cond) := by
  unfold State.leBranch
  try dsimp only
  repeat' first
    | intro _
    | with_reducible
        first
        | assumption | apply ite_keeps | apply State.leReg_keeps hP
    | split
    | with_reducible apply hP.upd

theorem execLeBr_keeps {P : State → Prop} (hP : Closed P) {s sN : State} (e : Fin 16) (off : Fin 2048) (he : execLeBr e off s = .next sN) (hs : P s) : P sN := by
  unfold execLeBr at he
  try dsimp only at he
  repeat' (split at he)
  all_goals (injection he with he <;> subst he)
  repeat' first
    | intro _
    | with_reducible
        first
        | assumption | apply State.leBranch_keeps hP

theorem execLeBc_keeps {P : State → Prop} (hP : Closed P) {s sN : State} (e : Fin 16) (va : Fin 32) (vb : Fin 32) (cond : Fin 6) (t : Fin 3) (off : Fin 2048) (he : execLeBc e va vb cond t off s = .next sN) (hs : P s) : P sN := by
  unfold execLeBc at he
  try dsimp only at he
  repeat' (split at he)
  all_goals (injection he with he <;> subst he)
  repeat' first
    | intro _
    | with_reducible
        first
        | assumption | apply State.leBranch_keeps hP

theorem execLeBinit_keeps {P : State → Prop} (hP : Closed P) {s sN : State} (e : Fin 16) (off : Fin 2048) (he : execLeBinit e off s = .next sN) (hs : P s) : P sN := by
  unfold execLeBinit at he
  try dsimp only at he
  repeat' (split at he)
  all_goals (injection he with he <;> subst he)
  repeat' first
    | intro _
    | with_reducible
        first
        | assumption | apply State.leBranch_keeps hP

theorem execLeLoop_keeps {P : State → Prop} (hP : Closed P) {s sN : State} (e : Fin 16) (n : Fin 1024) (len : Fin 1024) (he : execLeLoop e n len s = .next sN) (hs : P s) : P sN := by
  unfold execLeLoop at he
  try dsimp only at he
  repeat' (split at he)
  all_goals (injection he with he <;> subst he)
  repeat' first
    | intro _
    | with_reducible
        first
        | assumption | apply State.leReg_keeps hP
    | with_reducible apply hP.upd

theorem State.lePiPid_keeps {P : State → Prop} (hP : Closed P) {s : State} (e : Nat) (i : Instr) (cost : Nat) (vd : Nat) (va : Nat) (sb : Nat) (cb : Nat) (ff : Bool) (pid : Bool) (hs : P s) :
    P (State.lePiPid s e i cost vd va sb cb ff pid) := by
  unfold State.lePiPid
  try dsimp only
  repeat' first
    | intro _
    | with_reducible
        first
        | assumption | apply ite_keeps | apply State.leReg_keeps hP
    | split
    | with_reducible apply hP.upd

theorem execLePi_keeps {P : State → Prop} (hP : Closed P) {s sN : State} (e : Fin 16) (vd : Fin 32) (va : Fin 32) (sb : Fin 64) (cb : Fin 64) (ff : Bool) (he : execLePi e vd va sb cb ff s = .next sN) (hs : P s) : P sN := by
  unfold execLePi at he
  try dsimp only at he
  repeat' (split at he)
  all_goals (injection he with he <;> subst he)
  repeat' first
    | with_reducible
        first
        | assumption | apply State.lePiPid_keeps hP

theorem execLePid_keeps {P : State → Prop} (hP : Closed P) {s sN : State} (e : Fin 16) (vd : Fin 32) (va : Fin 32) (sb : Fin 64) (cb : Fin 64) (ff : Bool) (he : execLePid e vd va sb cb ff s = .next sN) (hs : P s) : P sN := by
  unfold execLePid at he
  try dsimp only at he
  repeat' (split at he)
  all_goals (injection he with he <;> subst he)
  repeat' first
    | with_reducible
        first
        | assumption | apply State.lePiPid_keeps hP

theorem execLeBiq_keeps {P : State → Prop} (hP : Closed P) {s sN : State} (e : Fin 16) (vd : Fin 32) (va : Fin 32) (sb : Fin 64) (cb : Fin 64) (he : execLeBiq e vd va sb cb s = .next sN) (hs : P s) : P sN := by
  unfold execLeBiq at he
  try dsimp only at he
  repeat' (split at he)
  all_goals (injection he with he <;> subst he)
  repeat' first
    | intro _
    | with_reducible
        first
        | assumption | apply State.leReg_keeps hP
    | split

theorem execLeLlag_keeps {P : State → Prop} (hP : Closed P) {s sN : State} (e : Fin 16) (vd : Fin 32) (va : Fin 32) (sb : Fin 64) (cb : Fin 64) (he : execLeLlag e vd va sb cb s = .next sN) (hs : P s) : P sN := by
  unfold execLeLlag at he
  try dsimp only at he
  repeat' (split at he)
  all_goals (injection he with he <;> subst he)
  repeat' first
    | intro _
    | with_reducible
        first
        | assumption | apply State.leReg_keeps hP | apply State.setS_keeps hP
    | split

theorem execLeLim_keeps {P : State → Prop} (hP : Closed P) {s sN : State} (e : Fin 16) (vd : Fin 32) (va : Fin 32) (cb : Fin 64) (dpri : Bool) (he : execLeLim e vd va cb dpri s = .next sN) (hs : P s) : P sN := by
  unfold execLeLim at he
  try dsimp only at he
  repeat' (split at he)
  all_goals (injection he with he <;> subst he)
  repeat' first
    | intro _
    | with_reducible
        first
        | assumption | apply State.leReg_keeps hP
    | split
    | with_reducible apply hP.upd

theorem execLeSat_keeps {P : State → Prop} (hP : Closed P) {s sN : State} (e : Fin 16) (vd : Fin 32) (va : Fin 32) (cb : Fin 64) (t : Fin 3) (he : execLeSat e vd va cb t s = .next sN) (hs : P s) : P sN := by
  unfold execLeSat at he
  try dsimp only at he
  repeat' (split at he)
  all_goals (injection he with he <;> subst he)
  repeat' first
    | intro _
    | with_reducible
        first
        | assumption | apply ite_keeps | apply State.leReg_keeps hP
    | split
    | with_reducible apply hP.upd

theorem execLeRamp_keeps {P : State → Prop} (hP : Closed P) {s sN : State} (e : Fin 16) (vd : Fin 32) (va : Fin 32) (sb : Fin 64) (cb : Fin 64) (he : execLeRamp e vd va sb cb s = .next sN) (hs : P s) : P sN := by
  unfold execLeRamp at he
  try dsimp only at he
  repeat' (split at he)
  all_goals (injection he with he <;> subst he)
  repeat' first
    | intro _
    | with_reducible
        first
        | assumption | apply ite_keeps | apply State.leReg_keeps hP
    | split
    | with_reducible apply hP.upd

theorem execLeTlu_keeps {P : State → Prop} (hP : Closed P) {s sN : State} (e : Fin 16) (vd : Fin 32) (va : Fin 32) (cb : Fin 64) (he : execLeTlu e vd va cb s = .next sN) (hs : P s) : P sN := by
  unfold execLeTlu at he
  try dsimp only at he
  repeat' (split at he)
  all_goals (injection he with he <;> subst he)
  repeat' first
    | intro _
    | with_reducible
        first
        | assumption | apply ite_keeps | apply State.leReg_keeps hP
    | split
    | with_reducible apply hP.upd

theorem execLeClarke_keeps {P : State → Prop} (hP : Closed P) {s sN : State} (e : Fin 16) (vd : Fin 32) (va : Fin 32) (two : Bool) (he : execLeClarke e vd va two s = .next sN) (hs : P s) : P sN := by
  unfold execLeClarke at he
  try dsimp only at he
  repeat' (split at he)
  all_goals (injection he with he <;> subst he)
  repeat' first
    | intro _
    | with_reducible
        first
        | assumption | apply State.leReg_keeps hP

theorem execLePark_keeps {P : State → Prop} (hP : Closed P) {s sN : State} (e : Fin 16) (vd : Fin 32) (va : Fin 32) (he : execLePark e vd va s = .next sN) (hs : P s) : P sN := by
  unfold execLePark at he
  try dsimp only at he
  repeat' (split at he)
  all_goals (injection he with he <;> subst he)
  repeat' first
    | intro _
    | with_reducible
        first
        | assumption | apply State.leReg_keeps hP

theorem execLeIpark_keeps {P : State → Prop} (hP : Closed P) {s sN : State} (e : Fin 16) (vd : Fin 32) (va : Fin 32) (he : execLeIpark e vd va s = .next sN) (hs : P s) : P sN := by
  unfold execLeIpark at he
  try dsimp only at he
  repeat' (split at he)
  all_goals (injection he with he <;> subst he)
  repeat' first
    | intro _
    | with_reducible
        first
        | assumption | apply State.leReg_keeps hP

theorem execLeSincos_keeps {P : State → Prop} (hP : Closed P) {s t : State} (e : Fin 16) (vd va : Fin 32)
    (h : execLeSincos e vd va s = .next t) (hs : P s) : P t := by
  unfold execLeSincos at h
  injection h with h
  subst h
  refine State.leExec_keeps hP _ _ _ _ ?_ hs
  intro s r t r' h hs
  simp only [Except.ok.injEq, Prod.mk.injEq] at h
  exact h.1 ▸ State.free_keeps2 hP (State.free_keeps2 hP hs)

theorem execLeObsv_keeps {P : State → Prop} (hP : Closed P) {s sN : State} (e : Fin 16) (vd : Fin 32) (va : Fin 32) (sb : Fin 64) (cb : Fin 64) (he : execLeObsv e vd va sb cb s = .next sN) (hs : P s) : P sN := by
  unfold execLeObsv at he
  try dsimp only at he
  repeat' (split at he)
  all_goals (injection he with he <;> subst he)
  repeat' first
    | intro _
    | with_reducible
        first
        | assumption | apply State.leReg_keeps hP
    | split

theorem execLeHandover_keeps {P : State → Prop} (hP : Closed P) {s t : State} (e : Fin 16) (vd va : Fin 32)
    (sb cb : Fin 64) (ang trk : Bool) (h : execLeHandover e vd va sb cb ang trk s = .next t) (hs : P s) : P t := by
  unfold execLeHandover at h
  injection h with h
  subst h
  refine State.leExec_keeps hP _ _ _ _ ?_ hs
  intro s r t r' h hs
  have key : ∀ (x : Except Nat LeRun) (u : State), x.map (fun r => (u, r)) = .ok (t, r') → P u → P t := by
    intro x u hx hu
    cases x with
    | error c => exact absurd hx (by simp [Except.map])
    | ok y =>
      simp only [Except.map, Except.ok.injEq, Prod.mk.injEq] at hx
      exact hx.1 ▸ hu
  dsimp only at h
  by_cases hn : (s.coef e r.ctx (cb + 1)).toInt < 0
  · simp only [if_pos hn] at h
    exact key _ _ h (State.free_keeps2 hP hs)
  · simp only [if_neg hn] at h
    exact key _ _ h hs

theorem State.leDo_keeps {P : State → Prop} (hP : ClosedM P) {s : State} (i : Instr) (hs : P s) :
    P (State.leDo i s) := by
  unfold State.leDo
  try dsimp only
  repeat' first
    | intro _
    | with_reducible
        first
        | assumption | apply ite_keeps | apply State.leEndStep_keeps hP | apply State.after_keeps hP.toClosed
        | refine State.free_keeps2 hP.toClosed ?_
    | split
    | (with_reducible apply execLeNop_keeps hP.toClosed; with_reducible assumption)
    | (with_reducible apply execLeLil_keeps hP.toClosed; with_reducible assumption)
    | (with_reducible apply execLeLih_keeps hP.toClosed; with_reducible assumption)
    | (with_reducible apply execLeMov_keeps hP.toClosed; with_reducible assumption)
    | (with_reducible apply execLeCvt_keeps hP.toClosed; with_reducible assumption)
    | (with_reducible apply execLeAdd_keeps hP.toClosed; with_reducible assumption)
    | (with_reducible apply execLeSub_keeps hP.toClosed; with_reducible assumption)
    | (with_reducible apply execLeMul_keeps hP.toClosed; with_reducible assumption)
    | (with_reducible apply execLeMac_keeps hP.toClosed; with_reducible assumption)
    | (with_reducible apply execLeDiv_keeps hP.toClosed; with_reducible assumption)
    | (with_reducible apply execLeSqrt_keeps hP.toClosed; with_reducible assumption)
    | (with_reducible apply execLeAbs_keeps hP.toClosed; with_reducible assumption)
    | (with_reducible apply execLeNeg_keeps hP.toClosed; with_reducible assumption)
    | (with_reducible apply execLeMin_keeps hP.toClosed; with_reducible assumption)
    | (with_reducible apply execLeMax_keeps hP.toClosed; with_reducible assumption)
    | (with_reducible apply execLeAddi_keeps hP.toClosed; with_reducible assumption)
    | (with_reducible apply execLeAnd_keeps hP.toClosed; with_reducible assumption)
    | (with_reducible apply execLeOr_keeps hP.toClosed; with_reducible assumption)
    | (with_reducible apply execLeXor_keeps hP.toClosed; with_reducible assumption)
    | (with_reducible apply execLeSha_keeps hP.toClosed; with_reducible assumption)
    | (with_reducible apply execLeLds_keeps hP.toClosed; with_reducible assumption)
    | (with_reducible apply execLeSts_keeps hP.toClosed; with_reducible assumption)
    | (with_reducible apply execLeLdc_keeps hP.toClosed; with_reducible assumption)
    | (with_reducible apply execLeLdm_keeps hP.toClosed; with_reducible assumption)
    | (with_reducible apply execLeStm_keeps hP; with_reducible assumption)
    | (with_reducible apply State.free_keeps hP.toClosed; with_reducible assumption)
    | (with_reducible apply execLeIn_keeps hP.toClosed; with_reducible assumption)
    | (with_reducible apply execLeOut_keeps hP.toClosed; with_reducible assumption)
    | (with_reducible apply execLeGetf_keeps hP.toClosed; with_reducible assumption)
    | (with_reducible apply execLeBr_keeps hP.toClosed; with_reducible assumption)
    | (with_reducible apply execLeBc_keeps hP.toClosed; with_reducible assumption)
    | (with_reducible apply execLeBinit_keeps hP.toClosed; with_reducible assumption)
    | (with_reducible apply execLeLoop_keeps hP.toClosed; with_reducible assumption)
    | (with_reducible apply execLePi_keeps hP.toClosed; with_reducible assumption)
    | (with_reducible apply execLePid_keeps hP.toClosed; with_reducible assumption)
    | (with_reducible apply execLeBiq_keeps hP.toClosed; with_reducible assumption)
    | (with_reducible apply execLeLlag_keeps hP.toClosed; with_reducible assumption)
    | (with_reducible apply execLeLim_keeps hP.toClosed; with_reducible assumption)
    | (with_reducible apply execLeSat_keeps hP.toClosed; with_reducible assumption)
    | (with_reducible apply execLeRamp_keeps hP.toClosed; with_reducible assumption)
    | (with_reducible apply execLeTlu_keeps hP.toClosed; with_reducible assumption)
    | (with_reducible apply execLeClarke_keeps hP.toClosed; with_reducible assumption)
    | (with_reducible apply execLePark_keeps hP.toClosed; with_reducible assumption)
    | (with_reducible apply execLeIpark_keeps hP.toClosed; with_reducible assumption)
    | (with_reducible apply execLeSincos_keeps hP.toClosed; with_reducible assumption)
    | (with_reducible apply execLeObsv_keeps hP.toClosed; with_reducible assumption)
    | (with_reducible apply execLeHandover_keeps hP.toClosed; with_reducible assumption)

theorem State.leSteps_keeps {P : State → Prop} (hP : ClosedM P) (e f : Nat) : ∀ s, P s → P (State.leSteps e f s) := by
  induction f with
  | zero => exact fun _ h => h
  | succ f ih =>
    intro s hs
    unfold State.leSteps
    dsimp only
    split
    · split
      · exact hs
      · split
        · exact ih _ (State.leUe_keeps hP.toClosed _ _ hs)
        · split
          · exact ih _ (State.leDo_keeps hP _ hs)
          · exact hs
    · split
      · exact hs
      · split
        · exact hs
        · exact ih _ (State.leStart_keeps hP.toClosed _ hs)

theorem State.leRunAll_keeps {P : State → Prop} (hP : ClosedM P) {s : State} (hs : P s) : P s.leRunAll :=
  State.each_keeps hP.toClosed _ _ (fun s e h => State.leSteps_keeps hP e _ s h) hs

end Sys2Proof.Machine
end

