-- ==== Sys2Proof/Laws/KeepsSaf.lean ====
section
/-! SUPPORT. Every operation of Machine/Saf.lean keeps every property the primitive updates keep. -/

namespace Sys2Proof.Machine

set_option linter.unreachableTactic false
set_option linter.unusedTactic false
set_option linter.unnecessarySeqFocus false

theorem State.modSaf_keeps {P : State → Prop} (hP : Closed P) {s : State} (f : SafSt → SafSt) (hs : P s) :
    P (State.modSaf s f) := by
  unfold State.modSaf
  try dsimp only
  repeat' first
    | with_reducible
        first
        | assumption
    | with_reducible apply hP.upd

theorem State.modCore_keeps {P : State → Prop} (hP : Closed P) {s : State} (k : Bool) (f : SafCore → SafCore) (hs : P s) :
    P (State.modCore s k f) := by
  unfold State.modCore
  try dsimp only
  repeat' first
    | intro _
    | with_reducible
        first
        | assumption | apply ite_keeps | apply State.modSaf_keeps hP
    | split
    | with_reducible apply hP.upd

theorem State.stoUpdate_keeps {P : State → Prop} (hP : Closed P) {s : State}  (hs : P s) : P (State.stoUpdate s) := by
  unfold State.stoUpdate
  try dsimp only
  repeat' first
    | intro _
    | with_reducible
        first
        | assumption | apply ite_keeps | apply State.setB_keeps hP | apply State.srcActive_keeps hP
        | apply State.tripAll_keeps hP | apply State.iff_keeps hP | apply State.disarm_keeps hP
    | split

theorem State.safShow_keeps {P : State → Prop} (hP : Closed P) {s : State}  (hs : P s) : P (State.safShow s) := by
  unfold State.safShow
  try dsimp only
  repeat' first
    | intro _
    | with_reducible
        first
        | assumption | apply State.each_keeps hP | apply State.set_keeps hP

theorem State.soSet_keeps {P : State → Prop} (hP : Closed P) {s : State} (onA : Nat) (onB : Nat) (hs : P s) :
    P (State.soSet s onA onB) := by
  unfold State.soSet
  try dsimp only
  repeat' first
    | intro _
    | with_reducible
        first
        | assumption | apply ite_keeps | apply State.each_keeps hP | apply State.modSaf_keeps hP
        | apply State.set_keeps hP | apply State.bump_keeps hP | apply State.irq_keeps hP
        | apply State.safShow_keeps hP
    | split
    | with_reducible apply hP.upd

theorem State.safLock_keeps {P : State → Prop} (hP : Closed P) {s : State} (cause : Nat) (index : Nat) (hs : P s) :
    P (State.safLock s cause index) := by
  unfold State.safLock
  try dsimp only
  repeat' first
    | with_reducible
        first
        | assumption | apply ite_keeps | apply State.set_keeps hP | apply State.irq_keeps hP
        | apply State.log_keeps hP | apply State.soSet_keeps hP | apply State.stoUpdate_keeps hP
    | split

theorem State.spsLoad_keeps {P : State → Prop} (hP : Closed P) {s : State} (img : List Byte) (hs : P s) :
    P (State.spsLoad s img) := by
  unfold State.spsLoad
  try dsimp only
  repeat' first
    | intro _
    | with_reducible
        first
        | assumption | apply State.each_keeps hP | apply State.setReg_keeps hP

theorem State.safStart_keeps {P : State → Prop} (hP : Closed P) {s : State}  (hs : P s) : P (State.safStart s) := by
  unfold State.safStart
  try dsimp only
  repeat' first
    | intro _
    | with_reducible
        first
        | assumption | apply State.setReg_keeps hP | apply State.set_keeps hP | apply State.spsLoad_keeps hP
        | apply State.modSaf_keeps hP | apply State.safShow_keeps hP
    | with_reducible apply hP.upd

theorem State.safBoot_keeps {P : State → Prop} (hP : Closed P) {s : State}  (hs : P s) : P (State.safBoot s) := by
  unfold State.safBoot
  try dsimp only
  repeat' first
    | intro _
    | with_reducible
        first
        | assumption | apply ite_keeps | apply State.safStart_keeps hP | apply State.modSaf_keeps hP
        | apply State.set_keeps hP | apply State.spsLoad_keeps hP | apply State.take_keeps hP
        | apply State.each_keeps hP | apply State.modCore_keeps hP | apply State.safShow_keeps hP
        | apply State.irq_keeps hP | apply State.safLock_keeps hP | apply State.stoUpdate_keeps hP
    | split
    | with_reducible apply hP.upd

theorem State.safPair_keeps {P : State → Prop} (hP : Closed P) {s : State} (k : Bool) (a : Nat) (b : Nat) (i : Nat) (hs : P s) :
    P (State.safPair s k a b i) := by
  unfold State.safPair
  try dsimp only
  repeat' first
    | intro _
    | with_reducible
        first
        | assumption | apply ite_keeps | apply State.modCore_keeps hP | apply State.set_keeps hP
    | split
    | with_reducible apply hP.upd

theorem State.discNote_keeps {P : State → Prop} (hP : Closed P) {s : State} (old : List (Option Nat)) (hs : P s) :
    P (State.discNote s old) := by
  unfold State.discNote
  try dsimp only
  repeat' first
    | intro _
    | with_reducible
        first
        | assumption | apply State.each_keeps hP | apply State.bump_keeps hP | apply State.irq_keeps hP
        | apply State.log_keeps hP
    | split

theorem execSafetySample_keeps {P : State → Prop} (hP : Closed P) {s sN : State} (a : BitVec 8 × BitVec 8) (b : BitVec 8 × BitVec 8) (rbA : BitVec 4) (rbB : BitVec 4) (srst : Bool) (he : execSafetySample a b rbA rbB srst s = .next sN) (hs : P s) : P sN := by
  unfold execSafetySample at he
  try dsimp only at he
  repeat' (split at he)
  all_goals (injection he with he <;> subst he)
  repeat' first
    | intro _
    | with_reducible
        first
        | assumption | apply ite_keeps | apply State.safBoot_keeps hP | apply State.advance_keeps hP
        | apply State.modSaf_keeps hP | apply State.each_keeps hP | apply State.safPair_keeps hP
        | apply State.modCore_keeps hP | apply State.discNote_keeps hP | apply State.set_keeps hP
        | apply State.setB_keeps hP | apply State.safLock_keeps hP
    | split
    | with_reducible apply hP.upd

theorem execDiscFault_keeps {P : State → Prop} (hP : Closed P) {s sN : State} (i : Fin 8) (he : execDiscFault i s = .next sN) (hs : P s) : P sN := by
  unfold execDiscFault at he
  try dsimp only at he
  repeat' (split at he)
  all_goals (injection he with he <;> subst he)
  repeat' first
    | with_reducible
        first
        | assumption | apply ite_keeps | apply State.safLock_keeps hP
    | split

theorem State.setEsc_keeps {P : State → Prop} (hP : Closed P) {s : State} (c : Nat) (x : EscC) (hs : P s) :
    P (State.setEsc s c x) := by
  unfold State.setEsc
  try dsimp only
  repeat' first
    | intro _
    | with_reducible
        first
        | assumption | apply State.modSaf_keeps hP
    | with_reducible apply hP.upd

theorem State.escShow_keeps {P : State → Prop} (hP : Closed P) {s : State}  (hs : P s) : P (State.escShow s) := by
  unfold State.escShow
  try dsimp only
  repeat' first
    | intro _
    | with_reducible
        first
        | assumption | apply State.set_keeps hP

theorem State.dbgTouch_keeps {P : State → Prop} (hP : Closed P) {s : State}  (hs : P s) : P (State.dbgTouch s) := by
  unfold State.dbgTouch
  try dsimp only
  repeat' first
    | with_reducible
        first
        | assumption
    | with_reducible apply hP.upd

theorem execHalt_keeps {P : State → Prop} (hP : Closed P) {s sN : State} (src : Fin 5) (he : execHalt src s = .next sN) (hs : P s) : P sN := by
  unfold execHalt at he
  try dsimp only at he
  repeat' (split at he)
  all_goals (injection he with he <;> subst he)
  repeat' first
    | with_reducible
        first
        | assumption | apply ite_keeps | apply State.dbgTouch_keeps hP | apply State.haltFrom_keeps hP
        | apply State.safLock_keeps hP
    | split

theorem State.escSend_keeps {P : State → Prop} (hP : ClosedM P) {s : State} (c : Nat) (hs : P s) :
    P (State.escSend s c) := by
  unfold State.escSend
  try dsimp only
  repeat' first
    | intro _
    | with_reducible
        first
        | assumption | apply ite_keeps | apply State.bump_keeps hP.toClosed | apply State.setEsc_keeps hP.toClosed
        | apply State.unitWrite_keeps hP
    | split
    | with_reducible apply hP.toClosed.upd

theorem execEvisafeTx_keeps {P : State → Prop} (hP : ClosedM P) {s sN : State} (k : Fin 16) (he : execEvisafeTx k s = .next sN) (hs : P s) : P sN := by
  unfold execEvisafeTx at he
  try dsimp only at he
  repeat' (split at he)
  all_goals (injection he with he <;> subst he)
  repeat' first
    | with_reducible
        first
        | assumption | apply ite_keeps | apply State.advance_keeps hP.toClosed | apply State.escSend_keeps hP
    | split

theorem execEvisafeReopen_keeps {P : State → Prop} (hP : Closed P) {s sN : State} (k : Fin 16) (he : execEvisafeReopen k s = .next sN) (hs : P s) : P sN := by
  unfold execEvisafeReopen at he
  try dsimp only at he
  repeat' (split at he)
  all_goals (injection he with he <;> subst he)
  repeat' first
    | with_reducible
        first
        | assumption | apply ite_keeps | apply State.advance_keeps hP | apply State.setEsc_keeps hP
        | apply State.escShow_keeps hP
    | split

theorem State.escFail_keeps {P : State → Prop} (hP : Closed P) {s : State} (c : Nat) (timing : Bool) (hs : P s) :
    P (State.escFail s c timing) := by
  unfold State.escFail
  try dsimp only
  repeat' first
    | intro _
    | with_reducible
        first
        | assumption | apply State.setEsc_keeps hP | apply State.iff_keeps hP | apply State.bump_keeps hP
        | apply State.irq_keeps hP | apply State.logEvt_keeps hP | apply State.escShow_keeps hP
    | split
    | with_reducible apply hP.upd

theorem State.escDiscard_keeps {P : State → Prop} (hP : Closed P) {s : State}  (hs : P s) :
    P (State.escDiscard s) := by
  unfold State.escDiscard
  try dsimp only
  repeat' first
    | with_reducible
        first
        | assumption | apply State.bump_keeps hP

theorem State.escData_keeps {P : State → Prop} (hP : Closed P) {s : State} (c : Nat) (ver : Nat) (status : Nat) (seq : Nat) (eseq : Nat) (byte0 : Nat) (hs : P s) :
    P (State.escData s c ver status seq eseq byte0) := by
  unfold State.escData
  try dsimp only
  repeat' first
    | intro _
    | with_reducible
        first
        | assumption | apply ite_keeps | apply State.setEsc_keeps hP | apply State.escShow_keeps hP
        | apply State.escFail_keeps hP
    | split
    | with_reducible apply hP.upd

theorem State.escRxPdu_keeps {P : State → Prop} (hP : Closed P) {s : State} (c : Nat) (p : List Byte) (hs : P s) :
    P (State.escRxPdu s c p) := by
  unfold State.escRxPdu
  try dsimp only
  repeat' first
    | intro _
    | with_reducible
        first
        | assumption | apply ite_keeps | apply State.escDiscard_keeps hP | apply State.take_keeps hP
        | apply State.setEsc_keeps hP | apply State.iff_keeps hP | apply State.escFail_keeps hP
        | apply State.escShow_keeps hP | apply State.escData_keeps hP
    | split
    | with_reducible apply hP.upd

theorem State.escRx_keeps {P : State → Prop} (hP : ClosedM P) {s : State}  (hs : P s) : P (State.escRx s) := by
  unfold State.escRx
  try dsimp only
  repeat' first
    | with_reducible
        first
        | assumption | apply ite_keeps | apply State.unitWrite_keeps hP | apply State.escDiscard_keeps hP.toClosed
        | apply State.escRxPdu_keeps hP.toClosed | apply State.take_keeps hP.toClosed
    | split

theorem execEvisafeRx_keeps {P : State → Prop} (hP : ClosedM P) {s sN : State}  (he : execEvisafeRx s = .next sN) (hs : P s) : P sN := by
  unfold execEvisafeRx at he
  try dsimp only at he
  repeat' (split at he)
  all_goals (injection he with he <;> subst he)
  repeat' first
    | with_reducible
        first
        | assumption | apply ite_keeps | apply State.escRx_keeps hP
    | split

theorem execEvisafeTexp_keeps {P : State → Prop} (hP : ClosedM P) {s sN : State} (k : Fin 16) (he : execEvisafeTexp k s = .next sN) (hs : P s) : P sN := by
  unfold execEvisafeTexp at he
  try dsimp only at he
  repeat' (split at he)
  all_goals (injection he with he <;> subst he)
  repeat' first
    | intro _
    | with_reducible
        first
        | assumption | apply ite_keeps | apply State.advance_keeps hP.toClosed | apply State.each_keeps hP.toClosed
        | apply State.escRx_keeps hP | apply State.escFail_keeps hP.toClosed
    | split

theorem State.setFn_keeps {P : State → Prop} (hP : Closed P) {s : State} (k : Bool) (f : Nat) (st : Nat) (hs : P s) :
    P (State.setFn s k f st) := by
  unfold State.setFn
  try dsimp only
  repeat' first
    | intro _
    | with_reducible
        first
        | assumption | apply State.modCore_keeps hP | apply State.set_keeps hP
    | with_reducible apply hP.upd

theorem State.fnLeave_keeps {P : State → Prop} (hP : Closed P) {s : State} (k : Bool) (f : Nat) (hs : P s) :
    P (State.fnLeave s k f) := by
  unfold State.fnLeave
  try dsimp only
  repeat' first
    | intro _
    | with_reducible
        first
        | assumption | apply State.irq_keeps hP | apply State.modCore_keeps hP | apply State.set_keeps hP
    | with_reducible apply hP.upd

theorem State.fnTwoHand_keeps {P : State → Prop} (hP : Closed P) {s : State} (k : Bool) (f : Nat) (hs : P s) :
    P (State.fnTwoHand s k f) := by
  unfold State.fnTwoHand
  try dsimp only
  repeat' first
    | intro _
    | with_reducible
        first
        | assumption | apply ite_keeps | apply State.modCore_keeps hP | apply State.set_keeps hP
        | apply State.setFn_keeps hP | apply State.fnLeave_keeps hP | apply State.irq_keeps hP
    | split
    | with_reducible apply hP.upd

theorem State.fnStep_keeps {P : State → Prop} (hP : Closed P) {s : State} (k : Bool) (f : Nat) (hs : P s) :
    P (State.fnStep s k f) := by
  unfold State.fnStep
  try dsimp only
  repeat' first
    | with_reducible
        first
        | assumption | apply ite_keeps | apply State.fnTwoHand_keeps hP | apply State.setFn_keeps hP
        | apply State.fnLeave_keeps hP
    | split

theorem State.safEval_keeps {P : State → Prop} (hP : Closed P) {s : State}  (hs : P s) : P (State.safEval s) := by
  unfold State.safEval
  try dsimp only
  repeat' first
    | intro _
    | with_reducible
        first
        | assumption | apply State.iff_keeps hP | apply State.each_keeps hP | apply State.fnStep_keeps hP
        | apply State.soSet_keeps hP | apply State.modCore_keeps hP | apply State.safShow_keeps hP
        | apply State.stoUpdate_keeps hP
    | split
    | with_reducible apply hP.upd

theorem execSafetyCycle_keeps {P : State → Prop} (hP : ClosedM P) {s sN : State} (differ : BitVec 20) (bad : Bool) (he : execSafetyCycle differ bad s = .next sN) (hs : P s) : P sN := by
  unfold execSafetyCycle at he
  try dsimp only at he
  repeat' (split at he)
  all_goals (injection he with he <;> subst he)
  repeat' first
    | intro _
    | with_reducible
        first
        | assumption | apply ite_keeps | apply State.safBoot_keeps hP.toClosed | apply State.advance_keeps hP.toClosed
        | apply State.modSaf_keeps hP.toClosed | apply State.setB_keeps hP.toClosed
        | apply State.safEval_keeps hP.toClosed | apply State.iff_keeps hP.toClosed
        | apply State.safLock_keeps hP.toClosed | apply State.each_keeps hP.toClosed | apply State.escSend_keeps hP
    | split
    | with_reducible apply hP.toClosed.upd

theorem execTestPulseStart_keeps {P : State → Prop} (hP : Closed P) {s sN : State} (o : Fin 4) (chB : Bool) (he : execTestPulseStart o chB s = .next sN) (hs : P s) : P sN := by
  unfold execTestPulseStart at he
  try dsimp only at he
  repeat' (split at he)
  all_goals (injection he with he <;> subst he)
  repeat' first
    | intro _
    | with_reducible
        first
        | assumption | apply ite_keeps | apply State.advance_keeps hP | apply State.modSaf_keeps hP
        | apply State.set_keeps hP
    | split
    | with_reducible apply hP.upd

theorem execTestPulseEnd_keeps {P : State → Prop} (hP : Closed P) {s sN : State} (o : Fin 4) (chB : Bool) (offOk : Bool) (onOk : Bool) (seenA : BitVec 8) (seenB : BitVec 8) (he : execTestPulseEnd o chB offOk onOk seenA seenB s = .next sN) (hs : P s) : P sN := by
  unfold execTestPulseEnd at he
  try dsimp only at he
  repeat' (split at he)
  all_goals (injection he with he <;> subst he)
  repeat' first
    | intro _
    | with_reducible
        first
        | assumption | apply ite_keeps | apply State.advance_keeps hP | apply State.modSaf_keeps hP
        | apply State.set_keeps hP | apply State.iff_keeps hP | apply State.safLock_keeps hP
        | apply State.each_keeps hP
    | split
    | with_reducible apply hP.upd

theorem State.fnRestart_keeps {P : State → Prop} (hP : Closed P) {s : State}  (hs : P s) : P (State.fnRestart s) := by
  unfold State.fnRestart
  try dsimp only
  repeat' first
    | intro _
    | with_reducible
        first
        | assumption | apply ite_keeps | apply State.each_keeps hP | apply State.setFn_keeps hP
        | apply State.safShow_keeps hP | apply State.stoUpdate_keeps hP
    | split

theorem execSrstEdge_keeps {P : State → Prop} (hP : Closed P) {s sN : State} (q : Nat) (both : Bool) (he : execSrstEdge q both s = .next sN) (hs : P s) : P sN := by
  unfold execSrstEdge at he
  try dsimp only at he
  repeat' (split at he)
  all_goals (injection he with he <;> subst he)
  repeat' first
    | intro _
    | with_reducible
        first
        | assumption | apply ite_keeps | apply State.safBoot_keeps hP | apply State.set_keeps hP
        | apply State.modSaf_keeps hP | apply State.irq_keeps hP | apply State.logEvt_keeps hP
        | apply State.iff_keeps hP | apply State.setReg_keeps hP | apply State.stoUpdate_keeps hP
        | apply State.fnRestart_keeps hP
    | split
    | with_reducible apply hP.upd

theorem State.safBound_keeps {P : State → Prop} (hP : Closed P) {s : State} (p : Nat) (hs : P s) :
    P (State.safBound s p) := by
  unfold State.safBound
  try dsimp only
  repeat' first
    | with_reducible
        first
        | assumption | apply ite_keeps | apply State.safLock_keeps hP
    | split

end Sys2Proof.Machine
end

