-- ==== Sys2Proof/Laws/KeepsMemory.lean ====
section
/-! SUPPORT. Every operation of Machine/Memory.lean keeps every property the primitive updates keep. -/

namespace Sys2Proof.Machine

set_option linter.unreachableTactic false
set_option linter.unusedTactic false
set_option linter.unnecessarySeqFocus false

theorem State.modMem_keeps {P : State → Prop} (hP : Closed P) {s : State} (f : MemSt → MemSt) (hs : P s) :
    P (State.modMem s f) := by
  unfold State.modMem
  try dsimp only
  repeat' first
    | with_reducible
        first
        | assumption
    | with_reducible apply hP.upd

theorem State.modPwr_keeps {P : State → Prop} (hP : Closed P) {s : State} (f : PwrSt → PwrSt) (hs : P s) :
    P (State.modPwr s f) := by
  unfold State.modPwr
  try dsimp only
  repeat' first
    | with_reducible
        first
        | assumption
    | with_reducible apply hP.upd

theorem State.warmAsk_keeps {P : State → Prop} (hP : Closed P) {s : State} (cause : Nat) (hs : P s) :
    P (State.warmAsk s cause) := by
  unfold State.warmAsk
  try dsimp only
  repeat' first
    | intro _
    | with_reducible
        first
        | assumption | apply ite_keeps | apply State.modPwr_keeps hP
    | split
    | with_reducible apply hP.upd

theorem State.zeroWord_keeps {P : State → Prop} (hP : ClosedM P) {s : State} (r : Nat) (i : Nat) (hs : P s) :
    P (State.zeroWord s r i) := by
  unfold State.zeroWord
  try dsimp only
  repeat' first
    | with_reducible
        first
        | assumption | apply ite_keeps | apply State.putBytes_keeps hP
    | split

theorem State.poisonWord_keeps {P : State → Prop} (hP : ClosedM P) {s : State} (r : Nat) (i : Nat) (hs : P s) :
    P (State.poisonWord s r i) := by
  unfold State.poisonWord
  try dsimp only
  repeat' first
    | with_reducible
        first
        | assumption | apply State.zeroWord_keeps hP | apply State.encoded_keeps hP.toClosed
        | apply State.setPoison_keeps hP.toClosed

theorem State.panAdd_keeps {P : State → Prop} (hP : Closed P) {s : State} (r : Nat) (i : Nat) (synd : Nat) (src : Nat) (hs : P s) :
    P (State.panAdd s r i synd src) := by
  unfold State.panAdd
  try dsimp only
  repeat' first
    | with_reducible
        first
        | assumption | apply ite_keeps | apply State.set_keeps hP | apply State.bump_keeps hP
        | apply State.irq_keeps hP | apply State.log_keeps hP
    | split

theorem execPanLeak_keeps {P : State → Prop} (hP : Closed P) {s sN : State}  (he : execPanLeak s = .next sN) (hs : P s) : P sN := by
  unfold execPanLeak at he
  try dsimp only at he
  repeat' (split at he)
  all_goals (injection he with he <;> subst he)
  repeat' first
    | intro _
    | with_reducible
        first
        | assumption | apply State.advance_keeps hP | apply State.modMem_keeps hP | apply State.set_keeps hP
    | with_reducible apply hP.upd

theorem State.critReact_keeps {P : State → Prop} (hP : Closed P) {s : State} (r : Nat) (i : Nat) (hs : P s) :
    P (State.critReact s r i) := by
  unfold State.critReact
  try dsimp only
  repeat' first
    | intro _
    | with_reducible
        first
        | assumption | apply ite_keeps | apply State.each_keeps hP | apply State.set_keeps hP
        | apply State.irq_keeps hP | apply State.iff_keeps hP | apply State.warmAsk_keeps hP
        | apply State.tripAll_keeps hP | apply State.leStop_keeps hP
    | split
    | with_reducible apply hP.upd

theorem State.lastUe_keeps {P : State → Prop} (hP : Closed P) {s : State} (r : Nat) (i : Nat) (src : Nat) (slp : Bool) (synd : Nat) (chk : Nat) (lo : Word) (hi : Word) (hs : P s) :
    P (State.lastUe s r i src slp synd chk lo hi) := by
  unfold State.lastUe
  try dsimp only
  repeat' first
    | with_reducible
        first
        | assumption | apply State.set_keeps hP | apply State.setB_keeps hP | apply State.setReg_keeps hP

theorem State.safRam_keeps {P : State → Prop} (hP : Closed P) {s : State} (r : Nat) (hs : P s) :
    P (State.safRam s r) := by
  unfold State.safRam
  try dsimp only
  repeat' first
    | with_reducible
        first
        | assumption | apply ite_keeps | apply State.safLock_keeps hP
    | split

theorem execMasterReadCe_keeps {P : State → Prop} (hP : Closed P) {s sN : State} (r : Fin 20) (i : Nat) (synd : BitVec 8) (rake : Bool) (he : execMasterReadCe r i synd rake s = .next sN) (hs : P s) : P sN := by
  unfold execMasterReadCe at he
  try dsimp only at he
  repeat' (split at he)
  all_goals (injection he with he <;> subst he)
  repeat' first
    | with_reducible
        first
        | assumption | apply ite_keeps | apply State.bump_keeps hP | apply State.panAdd_keeps hP
    | split

theorem execMasterReadUe_keeps {P : State → Prop} (hP : ClosedM P) {s sN : State} (r : Fin 20) (i : Nat) (le : Option (Fin 16)) (synd : BitVec 8) (chk : BitVec 8) (lo : Word) (hi : Word) (he : execMasterReadUe r i le synd chk lo hi s = .next sN) (hs : P s) : P sN := by
  unfold execMasterReadUe at he
  try dsimp only at he
  repeat' (split at he)
  all_goals (injection he with he <;> subst he)
  repeat' first
    | intro _
    | with_reducible
        first
        | assumption | apply ite_keeps | apply State.leUe_keeps hP.toClosed | apply State.bump_keeps hP.toClosed
        | apply State.lastUe_keeps hP.toClosed | apply State.poisonWord_keeps hP | apply State.irq_keeps hP.toClosed
        | apply State.logEvt_keeps hP.toClosed | apply State.critReact_keeps hP.toClosed
        | apply State.safRam_keeps hP.toClosed
    | split
    | with_reducible apply hP.toClosed.upd

theorem State.rakeUe_keeps {P : State → Prop} (hP : ClosedM P) {s : State} (r : Nat) (i : Nat) (slp : Bool) (synd : Nat) (chk : Nat) (lo : Word) (hi : Word) (hs : P s) :
    P (State.rakeUe s r i slp synd chk lo hi) := by
  unfold State.rakeUe
  try dsimp only
  repeat' first
    | with_reducible
        first
        | assumption | apply State.lastUe_keeps hP.toClosed | apply State.poisonWord_keeps hP
        | apply State.bump_keeps hP.toClosed | apply State.irq_keeps hP.toClosed | apply State.log_keeps hP.toClosed
        | apply State.critReact_keeps hP.toClosed | apply State.safRam_keeps hP.toClosed

theorem execRakeStep_keeps {P : State → Prop} (hP : ClosedM P) {s sN : State} (r : Fin 20) (kind : Fin 4) (synd : BitVec 8) (chk : BitVec 8) (lo : Word) (hi : Word) (he : execRakeStep r kind synd chk lo hi s = .next sN) (hs : P s) : P sN := by
  unfold execRakeStep at he
  try dsimp only at he
  repeat' (split at he)
  all_goals (injection he with he <;> subst he)
  repeat' first
    | intro _
    | with_reducible
        first
        | assumption | apply ite_keeps | apply State.bump_keeps hP.toClosed | apply State.modMem_keeps hP.toClosed
        | apply State.panAdd_keeps hP.toClosed | apply State.rakeUe_keeps hP
    | split
    | with_reducible apply hP.toClosed.upd

theorem execRakeSleepStep_keeps {P : State → Prop} (hP : ClosedM P) {s sN : State} (kind : Fin 3) (synd : BitVec 8) (chk : BitVec 8) (lo : Word) (hi : Word) (he : execRakeSleepStep kind synd chk lo hi s = .next sN) (hs : P s) : P sN := by
  unfold execRakeSleepStep at he
  try dsimp only at he
  repeat' (split at he)
  all_goals (injection he with he <;> subst he)
  repeat' first
    | intro _
    | with_reducible
        first
        | assumption | apply ite_keeps | apply State.modMem_keeps hP.toClosed | apply State.iff_keeps hP.toClosed
        | apply State.poisonWord_keeps hP | apply State.bump_keeps hP.toClosed
    | split
    | with_reducible apply hP.toClosed.upd

theorem State.slpEnter_keeps {P : State → Prop} (hP : ClosedM P) {s : State}  (hs : P s) : P (State.slpEnter s) := by
  unfold State.slpEnter
  try dsimp only
  repeat' first
    | intro _
    | with_reducible
        first
        | assumption | apply ite_keeps | apply State.modMem_keeps hP.toClosed | apply State.each_keeps hP.toClosed
        | apply State.rakeUe_keeps hP | apply State.panAdd_keeps hP.toClosed
    | split
    | with_reducible apply hP.toClosed.upd

theorem execPclr_keeps {P : State → Prop} (hP : ClosedM P) {s sN : State} (r : BitVec 5) (i : BitVec 21) (he : execPclr r i s = .next sN) (hs : P s) : P sN := by
  unfold execPclr at he
  try dsimp only at he
  repeat' (split at he)
  all_goals (injection he with he <;> subst he)
  repeat' first
    | intro _
    | with_reducible
        first
        | assumption | apply State.judge_keeps hP.toClosed | apply State.zeroWord_keeps hP
        | apply State.wholeWord_keeps hP.toClosed

theorem State.testCfgWrite_keeps {P : State → Prop} (hP : Closed P) {s : State} (val : Word) (hs : P s) :
    P (State.testCfgWrite s val) := by
  unfold State.testCfgWrite
  try dsimp only
  repeat' first
    | intro _
    | with_reducible
        first
        | assumption | apply State.judge_keeps hP | apply State.take_keeps hP

theorem execTestWrRaw_keeps {P : State → Prop} (hP : ClosedM P) {s sN : State}  (he : execTestWrRaw s = .next sN) (hs : P s) : P sN := by
  unfold execTestWrRaw at he
  try dsimp only at he
  repeat' (split at he)
  all_goals (injection he with he <;> subst he)
  repeat' first
    | intro _
    | with_reducible
        first
        | assumption | apply State.judge_keeps hP.toClosed | apply State.setPoison_keeps hP.toClosed
        | apply State.putBytes_keeps hP | apply State.modMem_keeps hP.toClosed
    | with_reducible apply hP.toClosed.upd

theorem execTestRdRaw_keeps {P : State → Prop} (hP : Closed P) {s sN : State}  (he : execTestRdRaw s = .next sN) (hs : P s) : P sN := by
  unfold execTestRdRaw at he
  try dsimp only at he
  repeat' (split at he)
  all_goals (injection he with he <;> subst he)
  repeat' first
    | intro _
    | with_reducible
        first
        | assumption | apply ite_keeps | apply State.judge_keeps hP | apply State.setReg_keeps hP
        | apply State.set_keeps hP
    | split

theorem execRemapGo_keeps {P : State → Prop} (hP : Closed P) {s sN : State} (n : Fin 4) (page : BitVec 12) (he : execRemapGo n page s = .next sN) (hs : P s) : P sN := by
  unfold execRemapGo at he
  try dsimp only at he
  repeat' (split at he)
  all_goals (injection he with he <;> subst he)
  repeat' first
    | intro _
    | with_reducible
        first
        | assumption | apply State.judge_keeps hP | apply State.set_keeps hP | apply State.modMem_keeps hP
    | with_reducible apply hP.upd

theorem State.copyWord_keeps {P : State → Prop} (hP : ClosedM P) {s : State} (k : Nat) (hs : P s) :
    P (State.copyWord s k) := by
  unfold State.copyWord
  try dsimp only
  repeat' first
    | with_reducible
        first
        | assumption | apply State.encoded_keeps hP.toClosed | apply State.poisonWord_keeps hP
        | apply State.putBytes_keeps hP
    | split

theorem execRemapDone_keeps {P : State → Prop} (hP : ClosedM P) {s sN : State} (n : Fin 4) (he : execRemapDone n s = .next sN) (hs : P s) : P sN := by
  unfold execRemapDone at he
  try dsimp only at he
  repeat' (split at he)
  all_goals (injection he with he <;> subst he)
  repeat' first
    | intro _
    | with_reducible
        first
        | assumption | apply ite_keeps | apply State.each_keeps hP.toClosed | apply State.copyWord_keeps hP
        | apply State.set_keeps hP.toClosed | apply State.irq_keeps hP.toClosed
    | split

theorem State.critWrite_keeps {P : State → Prop} (hP : Closed P) {s : State} (n : Nat) (second : Bool) (val : Word) (hs : P s) :
    P (State.critWrite s n second val) := by
  unfold State.critWrite
  try dsimp only
  repeat' first
    | intro _
    | with_reducible
        first
        | assumption | apply ite_keeps | apply State.judge_keeps hP | apply State.take_keeps hP
        | apply State.setB_keeps hP
    | split

theorem State.masterPut_keeps {P : State → Prop} (hP : ClosedM P) {s sN : State} (a : Nat) (bs : List Byte) (he : State.masterPut s a bs = some sN) (hs : P s) : P sN := by
  unfold State.masterPut at he
  try dsimp only at he
  repeat' (split at he)
  all_goals (first | cases (Option.some.inj he) | exact absurd he (by simp))
  repeat' first
    | with_reducible
        first
        | assumption | apply ite_keeps | apply State.leMemWrite_keeps hP
    | split
    | (with_reducible apply State.ramWrite_keeps hP; with_reducible assumption)

theorem State.masterWrite_keeps {P : State → Prop} (hP : ClosedM P) {s : State} (a : Nat) (bs : List Byte) (hs : P s) :
    P (s.masterWrite a bs) := by
  unfold State.masterWrite
  generalize wordPieces a bs = l
  have key : ∀ r : Bool × State, P r.2 → P (l.foldl (fun (r : Bool × State) (q : Nat × List Byte) =>
      if r.1 then match r.2.masterPut q.1 q.2 with
        | some t => (true, t)
        | none => (false, r.2)
      else r) r).2 := by
    induction l with
    | nil => exact fun r h => h
    | cons q l ih =>
      intro r h
      refine ih _ ?_
      dsimp only
      split
      · split
        · next e => exact State.masterPut_keeps hP _ _ e h
        · exact h
      · exact h
  have h2 := key (true, s) hs
  dsimp only
  with_reducible apply hP.upd
  exact h2

theorem execMasterWrite_keeps {P : State → Prop} (hP : ClosedM P) {s sN : State} (a : Nat) (data : BusData) (he : execMasterWrite a data s = .next sN) (hs : P s) : P sN := by
  unfold execMasterWrite at he
  try dsimp only at he
  repeat' (split at he)
  all_goals (injection he with he <;> subst he)
  repeat' first
    | with_reducible
        first
        | assumption | apply ite_keeps | apply State.dbgTouch_keeps hP.toClosed | apply State.masterWrite_keeps hP
    | split

end Sys2Proof.Machine
end

