-- ==== Sys2Proof/Laws/KeepsNvl.lean ====
section
/-! SUPPORT. Every operation of Machine/Nvl.lean keeps every property the primitive updates keep. -/

namespace Sys2Proof.Machine

set_option linter.unreachableTactic false
set_option linter.unusedTactic false
set_option linter.unnecessarySeqFocus false

theorem State.modNvl_keeps {P : State → Prop} (hP : Closed P) {s : State} (f : NvlSt → NvlSt) (hs : P s) :
    P (State.modNvl s f) := by
  unfold State.modNvl
  try dsimp only
  repeat' first
    | with_reducible
        first
        | assumption
    | with_reducible apply hP.upd

theorem State.norErase_keeps {P : State → Prop} (hP : Closed P) {s : State} (a : Nat) (hs : P s) :
    P (State.norErase s a) := by
  unfold State.norErase
  try dsimp only
  repeat' first
    | intro _
    | with_reducible
        first
        | assumption | apply State.modNvl_keeps hP
    | with_reducible apply hP.upd

theorem State.logWrite_keeps {P : State → Prop} (hP : Closed P) {s : State}  (hs : P s) : P (State.logWrite s) := by
  unfold State.logWrite
  try dsimp only
  repeat' first
    | with_reducible
        first
        | assumption | apply ite_keeps | apply State.norErase_keeps hP | apply State.set_keeps hP
        | apply State.irq_keeps hP | apply State.norPut_keeps hP
    | split
    | with_reducible apply hP.upd

theorem execLogRecordWrite_keeps {P : State → Prop} (hP : Closed P) {s sN : State}  (he : execLogRecordWrite s = .next sN) (hs : P s) : P sN := by
  unfold execLogRecordWrite at he
  try dsimp only at he
  repeat' (split at he)
  all_goals (injection he with he <;> subst he)
  repeat' first
    | with_reducible
        first
        | assumption | apply ite_keeps | apply State.logWrite_keeps hP
    | split

theorem State.logFlush_keeps {P : State → Prop} (hP : Closed P) {s : State}  (hs : P s) : P (State.logFlush s) := by
  unfold State.logFlush
  try dsimp only
  repeat' first
    | intro _
    | with_reducible
        first
        | assumption | apply State.each_keeps hP | apply State.logWrite_keeps hP

theorem execLogPut_keeps {P : State → Prop} (hP : Closed P) {s sN : State} (code : BitVec 16) (he : execLogPut code s = .next sN) (hs : P s) : P sN := by
  unfold execLogPut at he
  try dsimp only at he
  repeat' (split at he)
  all_goals (injection he with he <;> subst he)
  repeat' first
    | intro _
    | with_reducible
        first
        | assumption | apply State.judge_keeps hP | apply State.log_keeps hP

theorem execLogSelect_keeps {P : State → Prop} (hP : Closed P) {s sN : State} (val : Word) (he : execLogSelect val s = .next sN) (hs : P s) : P sN := by
  unfold execLogSelect at he
  try dsimp only at he
  repeat' (split at he)
  all_goals (injection he with he <;> subst he)
  repeat' first
    | intro _
    | with_reducible
        first
        | assumption | apply State.judge_keeps hP | apply State.setReg_keeps hP | apply State.each_keeps hP
        | apply State.setB_keeps hP | apply State.take_keeps hP

theorem State.nvlStart_keeps {P : State → Prop} (hP : Closed P) {s : State} (op : Nat) (dev : Bool) (hs : P s) :
    P (State.nvlStart s op dev) := by
  unfold State.nvlStart
  try dsimp only
  repeat' first
    | intro _
    | with_reducible
        first
        | assumption | apply State.judge_keeps hP | apply State.modNvl_keeps hP | apply State.set_keeps hP
    | with_reducible apply hP.upd

theorem execNvlRead_keeps {P : State → Prop} (hP : Closed P) {s sN : State} (dev : Bool) (he : execNvlRead dev s = .next sN) (hs : P s) : P sN := by
  unfold execNvlRead at he
  try dsimp only at he
  repeat' (split at he)
  all_goals (injection he with he <;> subst he)
  repeat' first
    | with_reducible
        first
        | assumption | apply State.nvlStart_keeps hP

theorem execNvlProg_keeps {P : State → Prop} (hP : Closed P) {s sN : State} (dev : Bool) (he : execNvlProg dev s = .next sN) (hs : P s) : P sN := by
  unfold execNvlProg at he
  try dsimp only at he
  repeat' (split at he)
  all_goals (injection he with he <;> subst he)
  repeat' first
    | with_reducible
        first
        | assumption | apply State.nvlStart_keeps hP

theorem execNvlErase_keeps {P : State → Prop} (hP : Closed P) {s sN : State} (dev : Bool) (he : execNvlErase dev s = .next sN) (hs : P s) : P sN := by
  unfold execNvlErase at he
  try dsimp only at he
  repeat' (split at he)
  all_goals (injection he with he <;> subst he)
  repeat' first
    | with_reducible
        first
        | assumption | apply State.nvlStart_keeps hP

theorem State.flashPut_keeps {P : State → Prop} (hP : Closed P) {s : State} (dev : Bool) (a : Nat) (bs : List Byte) (hs : P s) :
    P (State.flashPut s dev a bs) := by
  unfold State.flashPut
  try dsimp only
  repeat' first
    | intro _
    | with_reducible
        first
        | assumption | apply ite_keeps | apply State.foldl_keeps | apply State.modNvl_keeps hP
        | apply State.norPut_keeps hP
    | split
    | with_reducible apply hP.upd

theorem execNvlCmdDone_keeps {P : State → Prop} (hP : ClosedM P) {s sN : State}  (he : execNvlCmdDone s = .next sN) (hs : P s) : P sN := by
  unfold execNvlCmdDone at he
  try dsimp only at he
  repeat' (split at he)
  all_goals (injection he with he <;> subst he)
  repeat' first
    | intro _
    | with_reducible
        first
        | assumption | apply ite_keeps | apply State.unitWrite_keeps hP | apply State.flashPut_keeps hP.toClosed
        | apply State.modNvl_keeps hP.toClosed | apply State.norErase_keeps hP.toClosed
        | apply State.set_keeps hP.toClosed | apply State.irq_keeps hP.toClosed
    | split
    | with_reducible apply hP.toClosed.upd

end Sys2Proof.Machine
end

