-- ==== Sys2Proof/Laws/KeepsSecurity.lean ====
section
/-! SUPPORT. Every operation of Machine/Security.lean keeps every property the primitive updates keep. -/

namespace Sys2Proof.Machine

set_option linter.unreachableTactic false
set_option linter.unusedTactic false
set_option linter.unnecessarySeqFocus false

theorem State.modSec_keeps {P : State → Prop} (hP : Closed P) {s : State} (f : SecSt → SecSt) (hs : P s) :
    P (State.modSec s f) := by
  unfold State.modSec
  try dsimp only
  repeat' first
    | with_reducible
        first
        | assumption
    | with_reducible apply hP.upd

theorem State.secChange_keeps {P : State → Prop} (hP : Closed P) {s : State}  (hs : P s) : P (State.secChange s) := by
  unfold State.secChange
  try dsimp only
  repeat' first
    | intro _
    | with_reducible
        first
        | assumption | apply State.iff_keeps hP | apply State.disarm_keeps hP | apply State.frzLapse_keeps hP
    | split

theorem State.dbgGo_keeps {P : State → Prop} (hP : Closed P) {s : State} (st : Nat) (scope : Nat) (fin : Option Nat) (hs : P s) :
    P (State.dbgGo s st scope fin) := by
  unfold State.dbgGo
  try dsimp only
  repeat' first
    | intro _
    | with_reducible
        first
        | assumption | apply State.set_keeps hP | apply State.modSec_keeps hP | apply State.iff_keeps hP
        | apply State.irq_keeps hP | apply State.secChange_keeps hP
    | split
    | with_reducible apply hP.upd

theorem State.dbgShut_keeps {P : State → Prop} (hP : Closed P) {s : State}  (hs : P s) : P (State.dbgShut s) := by
  unfold State.dbgShut
  try dsimp only
  repeat' first
    | intro _
    | with_reducible
        first
        | assumption | apply ite_keeps | apply State.dbgGo_keeps hP | apply State.each_keeps hP
        | apply State.haltOver_keeps hP
    | split

theorem execDbgClose_keeps {P : State → Prop} (hP : Closed P) {s sN : State}  (he : execDbgClose s = .next sN) (hs : P s) : P sN := by
  unfold execDbgClose at he
  try dsimp only at he
  repeat' (split at he)
  all_goals (injection he with he <;> subst he)
  repeat' first
    | intro _
    | with_reducible
        first
        | assumption | apply State.judge_keeps hP | apply State.dbgShut_keeps hP

theorem execDbgOpen_keeps {P : State → Prop} (hP : Closed P) {s sN : State}  (he : execDbgOpen s = .next sN) (hs : P s) : P sN := by
  unfold execDbgOpen at he
  try dsimp only at he
  repeat' (split at he)
  all_goals (injection he with he <;> subst he)
  repeat' first
    | intro _
    | with_reducible
        first
        | assumption | apply State.judge_keeps hP | apply State.dbgGo_keeps hP

theorem State.nonceUse_keeps {P : State → Prop} (hP : Closed P) {s : State}  (hs : P s) : P (State.nonceUse s) := by
  unfold State.nonceUse
  try dsimp only
  repeat' first
    | intro _
    | with_reducible
        first
        | assumption | apply State.modSec_keeps hP
    | with_reducible apply hP.upd

theorem execDbgAuth_keeps {P : State → Prop} (hP : Closed P) {s sN : State}  (he : execDbgAuth s = .next sN) (hs : P s) : P sN := by
  unfold execDbgAuth at he
  try dsimp only at he
  repeat' (split at he)
  all_goals (injection he with he <;> subst he)
  repeat' first
    | intro _
    | with_reducible
        first
        | assumption | apply ite_keeps | apply State.judge_keeps hP | apply State.deny_keeps hP
        | apply State.nonceUse_keeps hP | apply State.refuse_keeps hP | apply State.irq_keeps hP
        | apply State.dbgGo_keeps hP | apply State.set_keeps hP
    | split

theorem execDbgExpiry_keeps {P : State → Prop} (hP : Closed P) {s sN : State}  (he : execDbgExpiry s = .next sN) (hs : P s) : P sN := by
  unfold execDbgExpiry at he
  try dsimp only at he
  repeat' (split at he)
  all_goals (injection he with he <;> subst he)
  repeat' first
    | with_reducible
        first
        | assumption | apply State.advance_keeps hP | apply State.set_keeps hP | apply State.dbgShut_keeps hP
    | split

theorem State.svcOver_keeps {P : State → Prop} (hP : Closed P) {s : State}  (hs : P s) : P (State.svcOver s) := by
  unfold State.svcOver
  try dsimp only
  repeat' first
    | intro _
    | with_reducible
        first
        | assumption | apply State.modSec_keeps hP | apply State.set_keeps hP | apply State.irq_keeps hP
        | apply State.dbgShut_keeps hP | apply State.secChange_keeps hP
    | with_reducible apply hP.upd

theorem State.lcStart_keeps {P : State → Prop} (hP : Closed P) {s : State} (t : Nat) (hrs : Nat) (hs : P s) :
    P (State.lcStart s t hrs) := by
  unfold State.lcStart
  try dsimp only
  repeat' first
    | intro _
    | with_reducible
        first
        | assumption | apply ite_keeps | apply State.modSec_keeps hP | apply State.set_keeps hP
        | apply State.irq_keeps hP | apply State.dbgShut_keeps hP | apply State.secChange_keeps hP
        | apply State.svcOver_keeps hP | apply State.slots_keeps hP | apply State.logEvt_keeps hP
    | split
    | with_reducible apply hP.upd

theorem execLcReq_keeps {P : State → Prop} (hP : Closed P) {s sN : State} (target : BitVec 3) (he : execLcReq target s = .next sN) (hs : P s) : P sN := by
  unfold execLcReq at he
  try dsimp only at he
  repeat' (split at he)
  all_goals (injection he with he <;> subst he)
  repeat' first
    | intro _
    | with_reducible
        first
        | assumption | apply ite_keeps | apply State.judge_keeps hP | apply State.lcStart_keeps hP
        | apply State.nonceUse_keeps hP | apply State.refuse_keeps hP
    | split

theorem State.newNonce_keeps {P : State → Prop} (hP : Closed P) {s : State}  (hs : P s) : P (State.newNonce s) := by
  unfold State.newNonce
  try dsimp only
  repeat' first
    | intro _
    | with_reducible
        first
        | assumption | apply State.each_keeps hP | apply State.setReg_keeps hP | apply State.modSec_keeps hP
        | refine State.free_keeps2 hP ?_
    | split
    | (with_reducible apply State.free_keeps hP; with_reducible assumption)
    | with_reducible apply hP.upd

theorem execChalNew_keeps {P : State → Prop} (hP : Closed P) {s sN : State}  (he : execChalNew s = .next sN) (hs : P s) : P sN := by
  unfold execChalNew at he
  try dsimp only at he
  repeat' (split at he)
  all_goals (injection he with he <;> subst he)
  repeat' first
    | intro _
    | with_reducible
        first
        | assumption | apply State.judge_keeps hP | apply State.newNonce_keeps hP

theorem execServiceExpiry_keeps {P : State → Prop} (hP : Closed P) {s sN : State}  (he : execServiceExpiry s = .next sN) (hs : P s) : P sN := by
  unfold execServiceExpiry at he
  try dsimp only at he
  repeat' (split at he)
  all_goals (injection he with he <;> subst he)
  repeat' first
    | with_reducible
        first
        | assumption | apply ite_keeps | apply State.advance_keeps hP | apply State.svcOver_keeps hP
    | split

theorem execKprov_keeps {P : State → Prop} (hP : Closed P) {s sN : State} (_kid : BitVec 8) (he : execKprov _kid s = .next sN) (hs : P s) : P sN := by
  unfold execKprov at he
  try dsimp only at he
  repeat' (split at he)
  all_goals (injection he with he <;> subst he)
  repeat' first
    | intro _
    | with_reducible
        first
        | assumption | apply State.judge_keeps hP | apply State.slots_keeps hP | apply State.modSec_keeps hP
        | apply State.set_keeps hP
    | with_reducible apply hP.upd

theorem execKeyDone_keeps {P : State → Prop} (hP : Closed P) {s sN : State}  (he : execKeyDone s = .next sN) (hs : P s) : P sN := by
  unfold execKeyDone at he
  try dsimp only at he
  repeat' (split at he)
  all_goals (injection he with he <;> subst he)
  repeat' first
    | intro _
    | with_reducible
        first
        | assumption | apply State.modSec_keeps hP | apply State.slots_keeps hP | apply State.set_keeps hP
        | apply State.irq_keeps hP
    | split
    | with_reducible apply hP.upd

theorem execKprovRevoke_keeps {P : State → Prop} (hP : Closed P) {s sN : State} (kid : BitVec 8) (he : execKprovRevoke kid s = .next sN) (hs : P s) : P sN := by
  unfold execKprovRevoke at he
  try dsimp only at he
  repeat' (split at he)
  all_goals (injection he with he <;> subst he)
  repeat' first
    | intro _
    | with_reducible
        first
        | assumption | apply ite_keeps | apply State.judge_keeps hP | apply State.modSec_keeps hP
        | apply State.slots_keeps hP | apply State.set_keeps hP | apply State.each_keeps hP
        | apply State.lnDown_keeps hP
    | split
    | with_reducible apply hP.upd

theorem execRbAdv_keeps {P : State → Prop} (hP : Closed P) {s sN : State} (v : BitVec 7) (he : execRbAdv v s = .next sN) (hs : P s) : P sN := by
  unfold execRbAdv at he
  try dsimp only at he
  repeat' (split at he)
  all_goals (injection he with he <;> subst he)
  repeat' first
    | intro _
    | with_reducible
        first
        | assumption | apply State.judge_keeps hP | apply State.set_keeps hP

theorem State.benchIl_keeps {P : State → Prop} (hP : ClosedG P) {s : State} (b : Bool) (hs : P s) :
    P (State.benchIl s b) := by
  unfold State.benchIl
  try dsimp only
  repeat' first
    | with_reducible
        first
        | assumption | apply State.setB_keeps hP.toClosed | apply State.secChange_keeps hP.toClosed
    | with_reducible apply hP.toClosed.upd
    | with_reducible apply hP.grid

theorem execBenchIlAssert_keeps {P : State → Prop} (hP : ClosedG P) {s sN : State}  (he : execBenchIlAssert s = .next sN) (hs : P s) : P sN := by
  unfold execBenchIlAssert at he
  try dsimp only at he
  repeat' (split at he)
  all_goals (injection he with he <;> subst he)
  repeat' first
    | with_reducible
        first
        | assumption | apply State.benchIl_keeps hP

theorem execBenchIlRelease_keeps {P : State → Prop} (hP : ClosedG P) {s sN : State}  (he : execBenchIlRelease s = .next sN) (hs : P s) : P sN := by
  unfold execBenchIlRelease at he
  try dsimp only at he
  repeat' (split at he)
  all_goals (injection he with he <;> subst he)
  repeat' first
    | with_reducible
        first
        | assumption | apply State.benchIl_keeps hP

end Sys2Proof.Machine
end

