-- ==== Sys2Proof/Laws/KeepsPower.lean ====
section
/-! SUPPORT. Every operation of Machine/Power.lean keeps every property the primitive updates keep. -/

namespace Sys2Proof.Machine

set_option linter.unreachableTactic false
set_option linter.unusedTactic false
set_option linter.unnecessarySeqFocus false

theorem State.gateSet_keeps {P : State → Prop} (hP : Closed P) {s : State} (d : Nat) (b : Bool) (hs : P s) :
    P (State.gateSet s d b) := by
  unfold State.gateSet
  try dsimp only
  repeat' first
    | intro _
    | with_reducible
        first
        | assumption | apply ite_keeps | apply State.iff_keeps hP | apply State.each_keeps hP
        | apply State.modEth_keeps hP | apply State.set_keeps hP | apply State.modPwr_keeps hP
        | apply State.modCan_keeps hP | apply State.resume_keeps hP
    | split
    | with_reducible apply hP.upd

theorem execClkGateWrite_keeps {P : State → Prop} (hP : Closed P) {s sN : State} (val : Word) (he : execClkGateWrite val s = .next sN) (hs : P s) : P sN := by
  unfold execClkGateWrite at he
  try dsimp only at he
  repeat' (split at he)
  all_goals (injection he with he <;> subst he)
  repeat' first
    | intro _
    | with_reducible
        first
        | assumption | apply ite_keeps | apply State.judge_keeps hP | apply State.each_keeps hP
        | apply State.refuse_keeps hP | apply State.gateSet_keeps hP
    | split

theorem State.sysUnlock_keeps {P : State → Prop} (hP : Closed P) {s : State}  (hs : P s) : P (State.sysUnlock s) := by
  unfold State.sysUnlock
  try dsimp only
  repeat' first
    | with_reducible
        first
        | assumption | apply State.disarm_keeps hP | apply State.warmAsk_keeps hP

theorem execClockMonitor_keeps {P : State → Prop} (hP : Closed P) {s sN : State} (fail : BitVec 16) (he : execClockMonitor fail s = .next sN) (hs : P s) : P sN := by
  unfold execClockMonitor at he
  try dsimp only at he
  repeat' (split at he)
  all_goals (injection he with he <;> subst he)
  repeat' first
    | intro _
    | with_reducible
        first
        | assumption | apply ite_keeps | apply State.set_keeps hP | apply State.irq_keeps hP
        | apply State.iff_keeps hP | apply State.clockStop_keeps hP | apply State.sysUnlock_keeps hP
    | split

theorem execXtFail_keeps {P : State → Prop} (hP : Closed P) {s sN : State}  (he : execXtFail s = .next sN) (hs : P s) : P sN := by
  unfold execXtFail at he
  try dsimp only at he
  repeat' (split at he)
  all_goals (injection he with he <;> subst he)
  repeat' first
    | with_reducible
        first
        | assumption | apply ite_keeps | apply State.set_keeps hP | apply State.irq_keeps hP
    | split

theorem execPllLocked_keeps {P : State → Prop} (hP : Closed P) {s sN : State} (n : Fin 3) (band : BitVec 6) (he : execPllLocked n band s = .next sN) (hs : P s) : P sN := by
  unfold execPllLocked at he
  try dsimp only at he
  repeat' (split at he)
  all_goals (injection he with he <;> subst he)
  repeat' first
    | intro _
    | with_reducible
        first
        | assumption | apply ite_keeps | apply State.set_keeps hP | apply State.irq_keeps hP
        | apply State.iff_keeps hP | apply State.haltOver_keeps hP
    | split

theorem execPllLol_keeps {P : State → Prop} (hP : Closed P) {s sN : State} (n : Fin 3) (he : execPllLol n s = .next sN) (hs : P s) : P sN := by
  unfold execPllLol at he
  try dsimp only at he
  repeat' (split at he)
  all_goals (injection he with he <;> subst he)
  repeat' first
    | with_reducible
        first
        | assumption | apply ite_keeps | apply State.set_keeps hP | apply State.bump_keeps hP
        | apply State.irq_keeps hP | apply State.clockStop_keeps hP | apply State.sysUnlock_keeps hP
    | split

theorem State.pcfgWritePll_keeps {P : State → Prop} (hP : Closed P) {s : State} (n : Nat) (val : Word) (hs : P s) :
    P (State.pcfgWritePll s n val) := by
  unfold State.pcfgWritePll
  try dsimp only
  repeat' first
    | intro _
    | with_reducible
        first
        | assumption | apply ite_keeps | apply State.judge_keeps hP | apply State.take_keeps hP
        | apply State.set_keeps hP | apply State.clockStop_keeps hP
    | split

theorem State.pfracWrite_keeps {P : State → Prop} (hP : Closed P) {s : State} (n : Nat) (val : Word) (hs : P s) :
    P (State.pfracWrite s n val) := by
  unfold State.pfracWrite
  try dsimp only
  repeat' first
    | intro _
    | with_reducible
        first
        | assumption | apply ite_keeps | apply State.judge_keeps hP | apply State.take_keeps hP
    | split

theorem State.pllOutWrite_keeps {P : State → Prop} (hP : Closed P) {s : State} (n : Nat) (k : Nat) (val : Word) (hs : P s) :
    P (State.pllOutWrite s n k val) := by
  unfold State.pllOutWrite
  try dsimp only
  repeat' first
    | intro _
    | with_reducible
        first
        | assumption | apply State.judge_keeps hP | apply State.take_keeps hP

theorem State.slpStep4_keeps {P : State → Prop} (hP : Closed P) {s : State}  (hs : P s) : P (State.slpStep4 s) := by
  unfold State.slpStep4
  try dsimp only
  repeat' first
    | intro _
    | with_reducible
        first
        | assumption | apply State.logFlush_keeps hP | apply State.modPwr_keeps hP | apply State.soSet_keeps hP
        | apply State.set_keeps hP | apply State.modSaf_keeps hP | apply State.each_keeps hP
        | apply State.lnEnd_keeps hP | apply State.lnUnlock_keeps hP | apply State.iff_keeps hP
        | apply State.lnLeft_keeps hP | apply State.lnGo_keeps hP | apply State.tlDown_keeps hP
        | apply State.modEth_keeps hP | apply State.ownRelease_keeps hP
    | split
    | with_reducible apply hP.upd

theorem State.memLost_keeps {P : State → Prop} (hP : ClosedG P) {s : State} (aon : Bool) (hs : P s) :
    P (s.memLost aon) := hP.lost s aon hs

theorem State.tsdRecord_keeps {P : State → Prop} (hP : Closed P) {s : State} (t : Int) (sensor : Nat) (hs : P s) :
    P (State.tsdRecord s t sensor) := by
  unfold State.tsdRecord
  try dsimp only
  repeat' first
    | intro _
    | with_reducible
        first
        | assumption | apply State.setS_keeps hP | apply State.set_keeps hP | apply State.bump_keeps hP
        | apply State.logEvt_keeps hP | apply State.modMem_keeps hP
    | with_reducible apply hP.upd

theorem State.slpStep5_keeps {P : State → Prop} (hP : ClosedG P) {s : State}  (hs : P s) : P (State.slpStep5 s) := by
  unfold State.slpStep5
  try dsimp only
  repeat' first
    | intro _
    | with_reducible
        first
        | assumption | apply State.each_keeps hP.toClosed | apply State.set_keeps hP.toClosed
        | apply State.dbgShut_keeps hP.toClosed | apply State.modSec_keeps hP.toClosed | apply State.memLost_keeps hP
        | apply State.bump_keeps hP.toClosed | apply State.modPwr_keeps hP.toClosed
        | apply State.tsdRecord_keeps hP.toClosed
    | split
    | with_reducible apply hP.toClosed.upd
    | with_reducible apply hP.grid

theorem State.slpGo_keeps {P : State → Prop} (hP : ClosedG P) {s : State}  (hs : P s) : P (State.slpGo s) := by
  unfold State.slpGo
  try dsimp only
  repeat' first
    | intro _
    | with_reducible
        first
        | assumption | apply State.iff_keeps hP.toClosed | apply State.slpStep4_keeps hP.toClosed
        | apply State.slpStep5_keeps hP
    | split

theorem execWakeDone_keeps {P : State → Prop} (hP : ClosedG P) {s sN : State} (t : Nat) (he : execWakeDone t s = .next sN) (hs : P s) : P sN := by
  unfold execWakeDone at he
  try dsimp only at he
  repeat' (split at he)
  all_goals (injection he with he <;> subst he)
  repeat' first
    | intro _
    | with_reducible
        first
        | assumption | apply ite_keeps | apply State.modPwr_keeps hP.toClosed | apply State.set_keeps hP.toClosed
        | apply State.irq_keeps hP.toClosed
    | split
    | with_reducible apply hP.toClosed.upd
    | with_reducible apply hP.grid

theorem State.pwrLeave_keeps {P : State → Prop} (hP : Closed P) {s : State} (st : Nat) (hs : P s) :
    P (State.pwrLeave s st) := by
  unfold State.pwrLeave
  try dsimp only
  repeat' first
    | intro _
    | with_reducible
        first
        | assumption | apply State.disarm_keeps hP | apply State.set_keeps hP | apply State.modPwr_keeps hP
    | with_reducible apply hP.upd

theorem State.pwrCmd_keeps {P : State → Prop} (hP : Closed P) {s : State} (op : Nat) (conds : List (Bool × Nat))
    (k : State → State) (hk : ∀ s, P s → P (k s)) (hs : P s) : P (s.pwrCmd op conds k) := by
  unfold State.pwrCmd
  split
  · exact hs
  · exact State.judge_keeps hP _ _ _ _ hk hs

theorem State.pwrRun_keeps {P : State → Prop} (hP : Closed P) {s : State}  (hs : P s) : P (State.pwrRun s) := by
  unfold State.pwrRun
  try dsimp only
  repeat' first
    | intro _
    | with_reducible
        first
        | assumption | apply State.pwrCmd_keeps hP | apply State.set_keeps hP

theorem State.pwrHold_keeps {P : State → Prop} (hP : Closed P) {s : State}  (hs : P s) : P (State.pwrHold s) := by
  unfold State.pwrHold
  try dsimp only
  repeat' first
    | intro _
    | with_reducible
        first
        | assumption | apply State.pwrCmd_keeps hP | apply State.disarm_keeps hP | apply State.set_keeps hP

theorem State.pwrDoze_keeps {P : State → Prop} (hP : Closed P) {s : State}  (hs : P s) : P (State.pwrDoze s) := by
  unfold State.pwrDoze
  try dsimp only
  repeat' first
    | intro _
    | with_reducible
        first
        | assumption | apply ite_keeps | apply State.pwrCmd_keeps hP | apply State.disarm_keeps hP
        | apply State.irq_keeps hP | apply State.modPwr_keeps hP
    | split
    | with_reducible apply hP.upd

theorem State.leHalt_keeps {P : State → Prop} (hP : Closed P) {s : State}  (hs : P s) : P (State.leHalt s) := by
  unfold State.leHalt
  try dsimp only
  repeat' first
    | intro _
    | with_reducible
        first
        | assumption | apply State.each_keeps hP | apply State.setEng_keeps hP
    | with_reducible apply hP.upd

theorem State.pwrSleep_keeps {P : State → Prop} (hP : Closed P) {s : State}  (hs : P s) : P (State.pwrSleep s) := by
  unfold State.pwrSleep
  try dsimp only
  repeat' first
    | intro _
    | with_reducible
        first
        | assumption | apply State.pwrCmd_keeps hP | apply State.disarm_keeps hP | apply State.leHalt_keeps hP
        | apply State.modPwr_keeps hP
    | with_reducible apply hP.upd

theorem State.pwrOff_keeps {P : State → Prop} (hP : ClosedG P) {s : State}  (hs : P s) : P (State.pwrOff s) := by
  unfold State.pwrOff
  try dsimp only
  repeat' first
    | intro _
    | with_reducible
        first
        | assumption | apply State.pwrCmd_keeps hP.toClosed | apply State.disarm_keeps hP.toClosed
        | apply State.ownRelease_keeps hP.toClosed | apply State.slpStep4_keeps hP.toClosed
        | apply State.slpStep5_keeps hP | apply State.memLost_keeps hP | apply State.set_keeps hP.toClosed

theorem execPwrCmdRun_keeps {P : State → Prop} (hP : Closed P) {s sN : State}  (he : execPwrCmdRun s = .next sN) (hs : P s) : P sN := by
  unfold execPwrCmdRun at he
  try dsimp only at he
  repeat' (split at he)
  all_goals (injection he with he <;> subst he)
  repeat' first
    | with_reducible
        first
        | assumption | apply State.pwrRun_keeps hP

theorem execPwrCmdHold_keeps {P : State → Prop} (hP : Closed P) {s sN : State}  (he : execPwrCmdHold s = .next sN) (hs : P s) : P sN := by
  unfold execPwrCmdHold at he
  try dsimp only at he
  repeat' (split at he)
  all_goals (injection he with he <;> subst he)
  repeat' first
    | with_reducible
        first
        | assumption | apply State.pwrHold_keeps hP

theorem execPwrCmdDoze_keeps {P : State → Prop} (hP : Closed P) {s sN : State}  (he : execPwrCmdDoze s = .next sN) (hs : P s) : P sN := by
  unfold execPwrCmdDoze at he
  try dsimp only at he
  repeat' (split at he)
  all_goals (injection he with he <;> subst he)
  repeat' first
    | with_reducible
        first
        | assumption | apply State.pwrDoze_keeps hP

theorem execPwrCmdSleep_keeps {P : State → Prop} (hP : Closed P) {s sN : State}  (he : execPwrCmdSleep s = .next sN) (hs : P s) : P sN := by
  unfold execPwrCmdSleep at he
  try dsimp only at he
  repeat' (split at he)
  all_goals (injection he with he <;> subst he)
  repeat' first
    | with_reducible
        first
        | assumption | apply State.pwrSleep_keeps hP

theorem execPwrCmdOff_keeps {P : State → Prop} (hP : ClosedG P) {s sN : State}  (he : execPwrCmdOff s = .next sN) (hs : P s) : P sN := by
  unfold execPwrCmdOff at he
  try dsimp only at he
  repeat' (split at he)
  all_goals (injection he with he <;> subst he)
  repeat' first
    | with_reducible
        first
        | assumption | apply State.pwrOff_keeps hP

theorem State.pwrCmdWrite_keeps {P : State → Prop} (hP : ClosedG P) {s : State} (val : Word) (hs : P s) :
    P (State.pwrCmdWrite s val) := by
  unfold State.pwrCmdWrite
  try dsimp only
  repeat' first
    | intro _
    | with_reducible
        first
        | assumption | apply id_keeps | apply State.pwrRun_keeps hP.toClosed | apply State.pwrHold_keeps hP.toClosed
        | apply State.pwrDoze_keeps hP.toClosed | apply State.pwrSleep_keeps hP.toClosed | apply State.pwrOff_keeps hP
        | apply State.judge_keeps hP.toClosed
    | split

theorem State.dozeCommit_keeps {P : State → Prop} (hP : Closed P) {s : State}  (hs : P s) :
    P (State.dozeCommit s) := by
  unfold State.dozeCommit
  try dsimp only
  repeat' first
    | intro _
    | with_reducible
        first
        | assumption | apply ite_keeps | apply State.modPwr_keeps hP | apply State.disarm_keeps hP
        | apply State.irq_keeps hP | apply State.pwrLeave_keeps hP
    | split
    | with_reducible apply hP.upd

theorem execDozeWake_keeps {P : State → Prop} (hP : Closed P) {s sN : State}  (he : execDozeWake s = .next sN) (hs : P s) : P sN := by
  unfold execDozeWake at he
  try dsimp only at he
  repeat' (split at he)
  all_goals (injection he with he <;> subst he)
  repeat' first
    | with_reducible
        first
        | assumption | apply ite_keeps | apply State.set_keeps hP | apply State.irq_keeps hP
    | split

theorem execArm_keeps {P : State → Prop} (hP : Closed P) {s sN : State} (key : BitVec 8) (he : execArm key s = .next sN) (hs : P s) : P sN := by
  unfold execArm at he
  try dsimp only at he
  repeat' (split at he)
  all_goals (injection he with he <;> subst he)
  repeat' first
    | intro _
    | with_reducible
        first
        | assumption | apply ite_keeps | apply State.judge_keeps hP | apply State.set_keeps hP
        | apply State.modPwr_keeps hP
    | split
    | with_reducible apply hP.upd

theorem execDisarm_keeps {P : State → Prop} (hP : Closed P) {s sN : State} (key : BitVec 8) (he : execDisarm key s = .next sN) (hs : P s) : P sN := by
  unfold execDisarm at he
  try dsimp only at he
  repeat' (split at he)
  all_goals (injection he with he <;> subst he)
  repeat' first
    | intro _
    | with_reducible
        first
        | assumption | apply State.judge_keeps hP | apply State.disarm_keeps hP

theorem State.armEffect_keeps {P : State → Prop} (hP : Closed P) {s : State}  (hs : P s) : P (State.armEffect s) := by
  unfold State.armEffect
  try dsimp only
  repeat' first
    | intro _
    | with_reducible
        first
        | assumption | apply ite_keeps | apply State.set_keeps hP | apply State.irq_keeps hP
        | apply State.frzLapse_keeps hP | apply State.refreshLegs_keeps hP
    | split

theorem execVinSample_keeps {P : State → Prop} (hP : Closed P) {s sN : State} (v : BitVec 16) (he : execVinSample v s = .next sN) (hs : P s) : P sN := by
  unfold execVinSample at he
  try dsimp only at he
  repeat' (split at he)
  all_goals (injection he with he <;> subst he)
  repeat' first
    | with_reducible
        first
        | assumption | apply ite_keeps | apply State.set_keeps hP | apply State.irq_keeps hP
        | apply State.disarm_keeps hP
    | split

theorem State.rtcWrite_keeps {P : State → Prop} (hP : Closed P) {s : State} (val : Word) (hs : P s) :
    P (State.rtcWrite s val) := by
  unfold State.rtcWrite
  try dsimp only
  repeat' first
    | intro _
    | with_reducible
        first
        | assumption | apply State.judge_keeps hP | apply State.setReg_keeps hP | apply State.modPwr_keeps hP
    | with_reducible apply hP.upd

theorem execRtcAlarm_keeps {P : State → Prop} (hP : Closed P) {s sN : State}  (he : execRtcAlarm s = .next sN) (hs : P s) : P sN := by
  unfold execRtcAlarm at he
  try dsimp only at he
  repeat' (split at he)
  all_goals (injection he with he <;> subst he)
  repeat' first
    | with_reducible
        first
        | assumption | apply ite_keeps | apply State.advance_keeps hP | apply State.irq_keeps hP
    | split

end Sys2Proof.Machine
end

