-- ==== Sys2Proof/Laws/KeepsSettle.lean ====
section
/-! SUPPORT. Every operation of Machine/Settle.lean keeps every property the primitive updates keep. -/

namespace Sys2Proof.Machine

set_option linter.unreachableTactic false
set_option linter.unusedTactic false
set_option linter.unnecessarySeqFocus false

theorem State.modStl_keeps {P : State → Prop} (hP : Closed P) {s : State} (f : StlSt → StlSt) (hs : P s) :
    P (State.modStl s f) := by
  unfold State.modStl
  try dsimp only
  repeat' first
    | with_reducible
        first
        | assumption
    | with_reducible apply hP.upd

theorem State.stlGo_keeps {P : State → Prop} (hP : Closed P) {s : State} (st : Nat) (hs : P s) :
    P (State.stlGo s st) := by
  unfold State.stlGo
  try dsimp only
  repeat' first
    | with_reducible
        first
        | assumption | apply State.set_keeps hP

theorem State.stlStandby_keeps {P : State → Prop} (hP : Closed P) {s : State}  (hs : P s) :
    P (State.stlStandby s) := by
  unfold State.stlStandby
  try dsimp only
  repeat' first
    | with_reducible
        first
        | assumption | apply State.stlGo_keeps hP | apply State.irq_keeps hP

theorem State.claimBegin_keeps {P : State → Prop} (hP : Closed P) {s : State} (cold : Bool) (cover : Nat) (hs : P s) :
    P (State.claimBegin s cold cover) := by
  unfold State.claimBegin
  try dsimp only
  repeat' first
    | intro _
    | with_reducible
        first
        | assumption | apply State.ownAssert_keeps hP | apply State.modStl_keeps hP
    | with_reducible apply hP.upd

theorem State.partnerRelease_keeps {P : State → Prop} (hP : Closed P) {s : State}  (hs : P s) :
    P (State.partnerRelease s) := by
  unfold State.partnerRelease
  try dsimp only
  repeat' first
    | intro _
    | with_reducible
        first
        | assumption | apply ite_keeps | apply State.set_keeps hP | apply State.modStl_keeps hP
        | apply State.ownAssert_keeps hP | apply State.claimBegin_keeps hP
    | split
    | with_reducible apply hP.upd

theorem State.partnerSeen_keeps {P : State → Prop} (hP : Closed P) {s : State}  (hs : P s) :
    P (State.partnerSeen s) := by
  unfold State.partnerSeen
  try dsimp only
  repeat' first
    | with_reducible
        first
        | assumption | apply ite_keeps | apply State.irq_keeps hP | apply State.stlGo_keeps hP
    | split

theorem State.partnerAssert_keeps {P : State → Prop} (hP : Closed P) {s : State}  (hs : P s) :
    P (State.partnerAssert s) := by
  unfold State.partnerAssert
  try dsimp only
  repeat' first
    | intro _
    | with_reducible
        first
        | assumption | apply State.set_keeps hP | apply State.driveDrop_keeps hP | apply State.modStl_keeps hP
        | apply State.iff_keeps hP | apply State.irq_keeps hP | apply State.ownRelease_keeps hP
        | apply State.partnerSeen_keeps hP
    | split
    | with_reducible apply hP.upd

theorem State.driveAcquire_keeps {P : State → Prop} (hP : Closed P) {s : State}  (hs : P s) :
    P (State.driveAcquire s) := by
  unfold State.driveAcquire
  try dsimp only
  repeat' first
    | intro _
    | with_reducible
        first
        | assumption | apply ite_keeps | apply State.iff_keeps hP | apply State.ownAssert_keeps hP
        | apply State.advance_keeps hP | apply State.set_keeps hP
    | split

theorem State.stlRelease_keeps {P : State → Prop} (hP : Closed P) {s : State} (cause : Nat) (hs : P s) :
    P (State.stlRelease s cause) := by
  unfold State.stlRelease
  try dsimp only
  repeat' first
    | intro _
    | with_reducible
        first
        | assumption | apply ite_keeps | apply State.modStl_keeps hP | apply State.ownRelease_keeps hP
        | apply State.stlStandby_keeps hP
    | split
    | with_reducible apply hP.upd

theorem State.stlDlClose_keeps {P : State → Prop} (hP : Closed P) {s : State} (anyDone : Bool) (hs : P s) :
    P (State.stlDlClose s anyDone) := by
  unfold State.stlDlClose
  try dsimp only
  repeat' first
    | intro _
    | with_reducible
        first
        | assumption | apply ite_keeps | apply State.stlRelease_keeps hP
    | split

theorem State.mirrorSend_keeps {P : State → Prop} (hP : Closed P) {s : State}  (hs : P s) :
    P (State.mirrorSend s) := by
  unfold State.mirrorSend
  try dsimp only
  repeat' first
    | intro _
    | with_reducible
        first
        | assumption | apply ite_keeps | apply State.modStl_keeps hP
    | split
    | with_reducible apply hP.upd

theorem State.mirrorApply_keeps {P : State → Prop} (hP : ClosedM P) {s : State} (m : MirrorSet) (hs : P s) :
    P (State.mirrorApply s m) := by
  unfold State.mirrorApply
  try dsimp only
  repeat' first
    | intro _
    | with_reducible
        first
        | assumption | apply ite_keeps | apply State.each_keeps hP.toClosed | apply State.setMword_keeps hP
        | apply State.setCst_keeps hP.toClosed | apply State.set_keeps hP.toClosed
        | apply State.rank_keeps hP.toClosed | apply State.modCell_keeps hP.toClosed
        | apply State.setDsv_keeps hP.toClosed | apply State.setStack_keeps hP.toClosed
    | split
    | with_reducible apply hP.toClosed.upd

theorem State.mirrorRx_keeps {P : State → Prop} (hP : ClosedM P) {s : State} (m : MirrorSet) (hs : P s) :
    P (State.mirrorRx s m) := by
  unfold State.mirrorRx
  try dsimp only
  repeat' first
    | intro _
    | with_reducible
        first
        | assumption | apply ite_keeps | apply State.mirrorApply_keeps hP | apply State.modStl_keeps hP.toClosed
        | apply State.set_keeps hP.toClosed | apply State.stlStandby_keeps hP.toClosed
        | apply State.iff_keeps hP.toClosed | apply State.bump_keeps hP.toClosed
    | split
    | with_reducible apply hP.toClosed.upd

theorem State.stlUplClose_keeps {P : State → Prop} (hP : Closed P) {s : State}  (hs : P s) :
    P (State.stlUplClose s) := by
  unfold State.stlUplClose
  try dsimp only
  repeat' first
    | intro _
    | with_reducible
        first
        | assumption | apply ite_keeps | apply State.modStl_keeps hP | apply State.bump_keeps hP
    | split
    | with_reducible apply hP.upd

theorem State.mirrorTrips_keeps {P : State → Prop} (hP : Closed P) {s : State} (m : MirrorSet) (hs : P s) :
    P (State.mirrorTrips s m) := by
  unfold State.mirrorTrips
  try dsimp only
  repeat' first
    | intro _
    | with_reducible
        first
        | assumption | apply ite_keeps | apply State.each_keeps hP | apply State.set_keeps hP
        | apply State.iff_keeps hP | apply State.outStat_keeps hP
    | split
    | with_reducible apply hP.upd

theorem State.stlUnhold_keeps {P : State → Prop} (hP : Closed P) {s : State}  (hs : P s) : P (State.stlUnhold s) := by
  unfold State.stlUnhold
  try dsimp only
  repeat' first
    | intro _
    | with_reducible
        first
        | assumption | apply ite_keeps | apply State.each_keeps hP | apply State.modLectx_keeps hP
        | apply State.setB_keeps hP
    | split
    | with_reducible apply hP.upd

theorem State.unprot_keeps {P : State → Prop} (hP : Closed P) {s : State}  (hs : P s) : P (State.unprot s) := by
  unfold State.unprot
  try dsimp only
  repeat' first
    | with_reducible
        first
        | assumption | apply State.setB_keeps hP

theorem State.settleActivate_keeps {P : State → Prop} (hP : Closed P) {s : State}  (hs : P s) :
    P (State.settleActivate s) := by
  unfold State.settleActivate
  try dsimp only
  repeat' first
    | intro _
    | with_reducible
        first
        | assumption | apply ite_keeps | apply State.stlGo_keeps hP | apply State.modStl_keeps hP
        | apply State.holdEnd_keeps hP | apply State.set_keeps hP | apply State.iff_keeps hP
        | apply State.irq_keeps hP | apply State.each_keeps hP | apply State.setStack_keeps hP
        | apply State.mirrorTrips_keeps hP | apply State.modLane_keeps hP | apply State.stlUnhold_keeps hP
        | apply State.unprot_keeps hP
    | split
    | with_reducible apply hP.upd

theorem State.stlBoundary_keeps {P : State → Prop} (hP : Closed P) {s : State}  (hs : P s) :
    P (State.stlBoundary s) := by
  unfold State.stlBoundary
  try dsimp only
  repeat' first
    | intro _
    | with_reducible
        first
        | assumption | apply ite_keeps | apply State.modStl_keeps hP | apply State.set_keeps hP
        | apply State.unprot_keeps hP | apply State.stlGo_keeps hP | apply State.irq_keeps hP
        | apply State.holdEnd_keeps hP | apply State.stlStandby_keeps hP
    | split
    | with_reducible apply hP.upd

theorem State.holdOver_keeps {P : State → Prop} (hP : Closed P) {s : State}  (hs : P s) : P (State.holdOver s) := by
  unfold State.holdOver
  try dsimp only
  repeat' first
    | intro _
    | with_reducible
        first
        | assumption | apply State.set_keeps hP | apply State.iff_keeps hP | apply State.modStl_keeps hP
    | split
    | with_reducible apply hP.upd

theorem State.stlCmd_keeps {P : State → Prop} (hP : Closed P) {s : State} (op : Nat) (hs : P s) :
    P (State.stlCmd s op) := by
  unfold State.stlCmd
  try dsimp only
  repeat' first
    | intro _
    | with_reducible
        first
        | assumption | apply ite_keeps | apply State.judge_keeps hP | apply State.modStl_keeps hP
        | apply State.holdEnd_keeps hP | apply State.holdOver_keeps hP
    | split
    | with_reducible apply hP.upd

theorem State.stlStop_keeps {P : State → Prop} (hP : Closed P) {s : State}  (hs : P s) : P (State.stlStop s) := by
  unfold State.stlStop
  try dsimp only
  repeat' first
    | intro _
    | with_reducible
        first
        | assumption | apply State.stlGo_keeps hP | apply State.modStl_keeps hP | apply State.holdEnd_keeps hP
        | apply State.set_keeps hP | apply State.stlUnhold_keeps hP | apply State.ownAssert_keeps hP
    | with_reducible apply hP.upd

theorem State.stlCfgWrite_keeps {P : State → Prop} (hP : Closed P) {s : State} (val : Word) (hs : P s) :
    P (State.stlCfgWrite s val) := by
  unfold State.stlCfgWrite
  try dsimp only
  repeat' first
    | intro _
    | with_reducible
        first
        | assumption | apply ite_keeps | apply State.judge_keeps hP | apply State.take_keeps hP
        | apply State.stlGo_keeps hP | apply State.modStl_keeps hP | apply State.partnerSeen_keeps hP
        | apply State.ownRelease_keeps hP | apply State.claimBegin_keeps hP | apply State.stlStop_keeps hP
    | split
    | with_reducible apply hP.upd

theorem State.stlTmoWrite_keeps {P : State → Prop} (hP : Closed P) {s : State} (val : Word) (hs : P s) :
    P (State.stlTmoWrite s val) := by
  unfold State.stlTmoWrite
  try dsimp only
  repeat' first
    | intro _
    | with_reducible
        first
        | assumption | apply State.judge_keeps hP | apply State.take_keeps hP

theorem State.mlistWrite_keeps {P : State → Prop} (hP : Closed P) {s : State} (e : Nat) (val : Word) (hs : P s) :
    P (State.mlistWrite s e val) := by
  unfold State.mlistWrite
  try dsimp only
  repeat' first
    | intro _
    | with_reducible
        first
        | assumption | apply State.take_keeps hP | apply State.judge_keeps hP | apply State.set_keeps hP

theorem execNeighbourMsgRx_keeps {P : State → Prop} (hP : ClosedG P) {s sN : State} (k : Fin 8) (msg : NbrMsg) (he : execNeighbourMsgRx k msg s = .next sN) (hs : P s) : P sN := by
  unfold execNeighbourMsgRx at he
  try dsimp only at he
  repeat' (split at he)
  all_goals (injection he with he <;> subst he)
  repeat' first
    | with_reducible
        first
        | assumption | apply ite_keeps | apply State.nbrTake_keeps hP | apply State.partnerSeen_keeps hP.toClosed
        | apply State.unprot_keeps hP.toClosed
    | split

theorem execStlEnable_keeps {P : State → Prop} (hP : Closed P) {s sN : State} (val : Word) (he : execStlEnable val s = .next sN) (hs : P s) : P sN := by
  unfold execStlEnable at he
  try dsimp only at he
  repeat' (split at he)
  all_goals (injection he with he <;> subst he)
  repeat' first
    | with_reducible
        first
        | assumption | apply State.stlCfgWrite_keeps hP

theorem execPartnerRelease_keeps {P : State → Prop} (hP : Closed P) {s sN : State}  (he : execPartnerRelease s = .next sN) (hs : P s) : P sN := by
  unfold execPartnerRelease at he
  try dsimp only at he
  repeat' (split at he)
  all_goals (injection he with he <;> subst he)
  repeat' first
    | with_reducible
        first
        | assumption | apply State.partnerRelease_keeps hP

theorem execPartnerAssert_keeps {P : State → Prop} (hP : Closed P) {s sN : State}  (he : execPartnerAssert s = .next sN) (hs : P s) : P sN := by
  unfold execPartnerAssert at he
  try dsimp only at he
  repeat' (split at he)
  all_goals (injection he with he <;> subst he)
  repeat' first
    | with_reducible
        first
        | assumption | apply State.partnerAssert_keeps hP

theorem execDriveAcquire_keeps {P : State → Prop} (hP : Closed P) {s sN : State}  (he : execDriveAcquire s = .next sN) (hs : P s) : P sN := by
  unfold execDriveAcquire at he
  try dsimp only at he
  repeat' (split at he)
  all_goals (injection he with he <;> subst he)
  repeat' first
    | with_reducible
        first
        | assumption | apply State.driveAcquire_keeps hP

theorem execSettleActivate_keeps {P : State → Prop} (hP : Closed P) {s sN : State}  (he : execSettleActivate s = .next sN) (hs : P s) : P sN := by
  unfold execSettleActivate at he
  try dsimp only at he
  repeat' (split at he)
  all_goals (injection he with he <;> subst he)
  repeat' first
    | with_reducible
        first
        | assumption | apply State.settleActivate_keeps hP

theorem execKeepTimeout_keeps {P : State → Prop} (hP : Closed P) {s sN : State}  (he : execKeepTimeout s = .next sN) (hs : P s) : P sN := by
  unfold execKeepTimeout at he
  try dsimp only at he
  repeat' (split at he)
  all_goals (injection he with he <;> subst he)
  repeat' first
    | intro _
    | with_reducible
        first
        | assumption | apply ite_keeps | apply State.modStl_keeps hP
    | split
    | with_reducible apply hP.upd

theorem execStlKeep_keeps {P : State → Prop} (hP : Closed P) {s sN : State}  (he : execStlKeep s = .next sN) (hs : P s) : P sN := by
  unfold execStlKeep at he
  try dsimp only at he
  repeat' (split at he)
  all_goals (injection he with he <;> subst he)
  repeat' first
    | intro _
    | with_reducible
        first
        | assumption | apply State.judge_keeps hP | apply State.modStl_keeps hP
    | with_reducible apply hP.upd

theorem execStlHandover_keeps {P : State → Prop} (hP : Closed P) {s sN : State}  (he : execStlHandover s = .next sN) (hs : P s) : P sN := by
  unfold execStlHandover at he
  try dsimp only at he
  repeat' (split at he)
  all_goals (injection he with he <;> subst he)
  repeat' first
    | with_reducible
        first
        | assumption | apply State.stlCmd_keeps hP

theorem execStlReturnNow_keeps {P : State → Prop} (hP : Closed P) {s sN : State}  (he : execStlReturnNow s = .next sN) (hs : P s) : P sN := by
  unfold execStlReturnNow at he
  try dsimp only at he
  repeat' (split at he)
  all_goals (injection he with he <;> subst he)
  repeat' first
    | with_reducible
        first
        | assumption | apply State.stlCmd_keeps hP

theorem execHoldoffExpiry_keeps {P : State → Prop} (hP : Closed P) {s sN : State}  (he : execHoldoffExpiry s = .next sN) (hs : P s) : P sN := by
  unfold execHoldoffExpiry at he
  try dsimp only at he
  repeat' (split at he)
  all_goals (injection he with he <;> subst he)
  repeat' first
    | with_reducible
        first
        | assumption | apply ite_keeps | apply State.holdEnd_keeps hP | apply State.advance_keeps hP
        | apply State.holdOver_keeps hP
    | split

theorem execHandback_keeps {P : State → Prop} (hP : Closed P) {s sN : State}  (he : execHandback s = .next sN) (hs : P s) : P sN := by
  unfold execHandback at he
  try dsimp only at he
  repeat' (split at he)
  all_goals (injection he with he <;> subst he)
  repeat' first
    | with_reducible
        first
        | assumption | apply ite_keeps | apply State.advance_keeps hP | apply State.stlRelease_keeps hP
    | split

theorem execHandoverReclaim_keeps {P : State → Prop} (hP : Closed P) {s sN : State}  (he : execHandoverReclaim s = .next sN) (hs : P s) : P sN := by
  unfold execHandoverReclaim at he
  try dsimp only at he
  repeat' (split at he)
  all_goals (injection he with he <;> subst he)
  repeat' first
    | intro _
    | with_reducible
        first
        | assumption | apply ite_keeps | apply State.claimBegin_keeps hP | apply State.modStl_keeps hP
    | split
    | with_reducible apply hP.upd

theorem execMirrorRx_keeps {P : State → Prop} (hP : ClosedM P) {s sN : State} (m : MirrorSet) (he : execMirrorRx m s = .next sN) (hs : P s) : P sN := by
  unfold execMirrorRx at he
  try dsimp only at he
  repeat' (split at he)
  all_goals (injection he with he <;> subst he)
  repeat' first
    | with_reducible
        first
        | assumption | apply State.mirrorRx_keeps hP

theorem execSyncLost_keeps {P : State → Prop} (hP : Closed P) {s sN : State}  (he : execSyncLost s = .next sN) (hs : P s) : P sN := by
  unfold execSyncLost at he
  try dsimp only at he
  repeat' (split at he)
  all_goals (injection he with he <;> subst he)
  repeat' first
    | with_reducible
        first
        | assumption | apply ite_keeps | apply State.stlSyncLost_keeps hP
    | split

theorem execStartTimeout_keeps {P : State → Prop} (hP : Closed P) {s sN : State}  (he : execStartTimeout s = .next sN) (hs : P s) : P sN := by
  unfold execStartTimeout at he
  try dsimp only at he
  repeat' (split at he)
  all_goals (injection he with he <;> subst he)
  repeat' first
    | with_reducible
        first
        | assumption | apply ite_keeps | apply State.advance_keeps hP | apply State.claimBegin_keeps hP
    | split

theorem execPartnerStuck_keeps {P : State → Prop} (hP : Closed P) {s sN : State}  (he : execPartnerStuck s = .next sN) (hs : P s) : P sN := by
  unfold execPartnerStuck at he
  try dsimp only at he
  repeat' (split at he)
  all_goals (injection he with he <;> subst he)
  repeat' first
    | with_reducible
        first
        | assumption | apply ite_keeps | apply State.advance_keeps hP | apply State.irq_keeps hP
    | split

theorem execCfgDigest_keeps {P : State → Prop} (hP : Closed P) {s sN : State} (theirs : Word) (he : execCfgDigest theirs s = .next sN) (hs : P s) : P sN := by
  unfold execCfgDigest at he
  try dsimp only at he
  repeat' (split at he)
  all_goals (injection he with he <;> subst he)
  repeat' first
    | intro _
    | with_reducible
        first
        | assumption | apply ite_keeps | apply State.set_keeps hP | apply State.modStl_keeps hP
        | apply State.irq_keeps hP
    | split
    | with_reducible apply hP.upd

theorem State.coverFix_keeps {P : State → Prop} (hP : Closed P) {s : State} (cause : Nat) (hs : P s) :
    P (State.coverFix s cause) := by
  unfold State.coverFix
  try dsimp only
  repeat' first
    | intro _
    | with_reducible
        first
        | assumption | apply ite_keeps | apply State.modStl_keeps hP | apply State.iff_keeps hP
        | apply State.set_keeps hP
    | split
    | with_reducible apply hP.upd

theorem execManagementMessageRx_keeps {P : State → Prop} (hP : Closed P) {s sN : State} (kind : Fin 3) (val : Nat) (he : execManagementMessageRx kind val s = .next sN) (hs : P s) : P sN := by
  unfold execManagementMessageRx at he
  try dsimp only at he
  repeat' (split at he)
  all_goals (injection he with he <;> subst he)
  repeat' first
    | intro _
    | with_reducible
        first
        | assumption | apply ite_keeps | apply State.coverFix_keeps hP | apply State.iff_keeps hP
        | apply State.set_keeps hP | apply State.modStl_keeps hP
    | split
    | with_reducible apply hP.upd

end Sys2Proof.Machine
end

