-- ==== Sys2Proof/Laws/KeepsPeriod.lean ====
section
/-! SUPPORT. Every operation of Machine/Period.lean keeps every property the primitive updates keep. -/

namespace Sys2Proof.Machine

set_option linter.unreachableTactic false
set_option linter.unusedTactic false
set_option linter.unnecessarySeqFocus false

theorem State.periodWrite_keeps {P : State → Prop} (hP : Closed P) {s : State} (val : Word) (hs : P s) :
    P (State.periodWrite s val) := by
  unfold State.periodWrite
  try dsimp only
  repeat' first
    | intro _
    | with_reducible
        first
        | assumption | apply ite_keeps | apply State.judge_keeps hP | apply State.refuse_keeps hP
        | apply State.iff_keeps hP | apply State.modTrl_keeps hP
    | split
    | with_reducible apply hP.upd

theorem execPeriodWrite_keeps {P : State → Prop} (hP : Closed P) {s sN : State} (val : Word) (he : execPeriodWrite val s = .next sN) (hs : P s) : P sN := by
  unfold execPeriodWrite at he
  try dsimp only at he
  repeat' (split at he)
  all_goals (injection he with he <;> subst he)
  repeat' first
    | with_reducible
        first
        | assumption | apply State.periodWrite_keeps hP

theorem execPeriodChangeReceipt_keeps {P : State → Prop} (hP : Closed P) {s sN : State} (period : BitVec 16) (at_ : BitVec 64) (he : execPeriodChangeReceipt period at_ s = .next sN) (hs : P s) : P sN := by
  unfold execPeriodChangeReceipt at he
  try dsimp only at he
  repeat' (split at he)
  all_goals (injection he with he <;> subst he)
  repeat' first
    | intro _
    | with_reducible
        first
        | assumption | apply ite_keeps | apply State.iff_keeps hP | apply State.disarm_keeps hP
    | split
    | with_reducible apply hP.upd

theorem State.perDue_keeps {P : State → Prop} (hP : Closed P) {s : State}  (hs : P s) : P (State.perDue s) := by
  unfold State.perDue
  try dsimp only
  repeat' first
    | with_reducible
        first
        | assumption | apply ite_keeps | apply State.applyPeriod_keeps hP
    | split
    | with_reducible apply hP.upd

theorem execPeriodChangeApply_keeps {P : State → Prop} (hP : Closed P) {s sN : State}  (he : execPeriodChangeApply s = .next sN) (hs : P s) : P sN := by
  unfold execPeriodChangeApply at he
  try dsimp only at he
  repeat' (split at he)
  all_goals (injection he with he <;> subst he)
  repeat' first
    | with_reducible
        first
        | assumption | apply State.perDue_keeps hP

theorem State.bndOpen_keeps {P : State → Prop} (hP : ClosedG P) {s : State} (load : Nat) (hi : Nat) (port : Nat) (hs : P s) :
    P (State.bndOpen s load hi port) := by
  unfold State.bndOpen
  try dsimp only
  repeat' first
    | intro _
    | with_reducible
        first
        | assumption | apply State.irq_keeps hP.toClosed | apply State.set_keeps hP.toClosed
        | apply State.dsvDoneT_keeps hP.toClosed | apply State.each_keeps hP.toClosed
        | apply State.modCell_keeps hP.toClosed
    | with_reducible apply hP.toClosed.upd
    | with_reducible apply hP.grid

theorem State.bndBlocks_keeps {P : State → Prop} (hP : ClosedG P) {s : State}  (hs : P s) :
    P (State.bndBlocks s) := by
  unfold State.bndBlocks
  try dsimp only
  repeat' first
    | with_reducible
        first
        | assumption | apply State.chBoundary_keeps hP.toClosed | apply State.legBoundary_keeps hP.toClosed
        | apply State.mcxBoundary_keeps hP.toClosed | apply State.leBoundary_keeps hP.toClosedM
        | apply State.blkBoundary_keeps hP.toClosed | apply State.adcBoundary_keeps hP.toClosed
        | apply State.failover_keeps hP.toClosed | apply State.stlBoundary_keeps hP.toClosed
        | apply State.joinTry_keeps hP | apply State.armEffect_keeps hP.toClosed
        | apply State.canBoundary_keeps hP.toClosed | apply State.ptpBoundary_keeps hP.toClosed

theorem execPeriodBoundary_keeps {P : State → Prop} (hP : ClosedG P) {s sN : State} (load : BitVec 8) (hi : BitVec 8) (port : BitVec 8) (he : execPeriodBoundary load hi port s = .next sN) (hs : P s) : P sN := by
  unfold execPeriodBoundary at he
  try dsimp only at he
  repeat' (split at he)
  all_goals (injection he with he <;> subst he)
  repeat' first
    | with_reducible
        first
        | assumption | apply ite_keeps | apply State.perDue_keeps hP.toClosed | apply State.advance_keeps hP.toClosed
        | apply State.slpGo_keeps hP | apply State.bndOpen_keeps hP | apply State.bndBlocks_keeps hP
    | split

theorem State.ovrFlag_keeps {P : State → Prop} (hP : Closed P) {s : State} (w : Nat) (hs : P s) :
    P (State.ovrFlag s w) := by
  unfold State.ovrFlag
  try dsimp only
  repeat' first
    | with_reducible
        first
        | assumption | apply ite_keeps | apply State.set_keeps hP | apply State.irq_keeps hP
        | apply State.bump_keeps hP
    | split
    | with_reducible apply hP.upd

theorem State.ovrReact_keeps {P : State → Prop} (hP : Closed P) {s sN : State} (w : Nat) (u : Nat) {r : Nat} (he : State.ovrReact s w u = (r, sN)) (hs : P s) : P sN := by
  unfold State.ovrReact at he
  try dsimp only at he
  repeat' (split at he)
  all_goals (injection he with _ he <;> subst he)
  repeat' first
    | intro _
    | with_reducible
        first
        | assumption | apply ite_keeps | apply State.iff_keeps hP | apply State.set_keeps hP
        | apply State.irq_keeps hP
    | split
    | with_reducible apply hP.upd

theorem State.ovrReact_keeps2 {P : State → Prop} (hP : Closed P) {s : State} (w : Nat) (u : Nat) (hs : P s) : P (State.ovrReact s w u).2 :=
  State.ovrReact_keeps hP _ _ (Prod.eta _).symm hs

theorem State.ovrNone_keeps {P : State → Prop} (hP : Closed P) {s : State} (w : Nat) (u : Nat) (hs : P s) :
    P (State.ovrNone s w u) := by
  unfold State.ovrNone
  try dsimp only
  repeat' first
    | intro _
    | with_reducible
        first
        | assumption
    | with_reducible apply hP.upd

theorem State.overrun_keeps {P : State → Prop} (hP : Closed P) {s sN : State} (w u : Nat) {r : Nat}
    (he : s.overrun w u = (r, sN)) (hs : P s) : P sN := State.ovrReact_keeps hP w u he (State.ovrFlag_keeps hP w hs)

theorem State.overrun_keeps2 {P : State → Prop} (hP : Closed P) {s : State} (w u : Nat) (hs : P s) :
    P (s.overrun w u).2 := State.overrun_keeps hP w u (Prod.eta _).symm hs

theorem State.ovrTrip_keeps {P : State → Prop} (hP : Closed P) {s : State} (w : Nat) (any : Bool) (hs : P s) :
    P (State.ovrTrip s w any) := by
  unfold State.ovrTrip
  try dsimp only
  repeat' first
    | with_reducible
        first
        | assumption | apply ite_keeps | apply State.tripOvr_keeps hP
    | split

theorem State.ovrBlock_keeps {P : State → Prop} (hP : Closed P) {s : State} (n : Nat) (hs : P s) :
    P (State.ovrBlock s n) := by
  unfold State.ovrBlock
  try dsimp only
  repeat' first
    | intro _
    | with_reducible
        first
        | assumption | apply ite_keeps | apply State.modCell_keeps hP
    | split
    | with_reducible apply hP.upd

theorem State.uplCell_keeps {P : State → Prop} (hP : Closed P) {s : State} (n : Nat) (hs : P s) :
    P (State.uplCell s n) := by
  unfold State.uplCell
  try dsimp only
  repeat' first
    | intro _
    | with_reducible
        first
        | assumption | apply ite_keeps | apply State.modCell_keeps hP | apply State.ovrNone_keeps hP
        | apply State.set_keeps hP | apply State.latchStatus_keeps hP | apply State.iff_keeps hP
        | apply State.ovrBlock_keeps hP | refine State.overrun_keeps2 hP _ _ ?_
    | split
    | (with_reducible apply State.overrun_keeps hP; with_reducible assumption)
    | with_reducible apply hP.upd

theorem execUplinkWindowClose_keeps {P : State → Prop} (hP : ClosedG P) {s sN : State}  (he : execUplinkWindowClose s = .next sN) (hs : P s) : P sN := by
  unfold execUplinkWindowClose at he
  try dsimp only at he
  repeat' (split at he)
  all_goals (injection he with he <;> subst he)
  repeat' first
    | intro _
    | with_reducible
        first
        | assumption | apply ite_keeps | apply State.perDue_keeps hP.toClosed | apply State.advance_keeps hP.toClosed
        | apply State.setReg_keeps hP.toClosed | apply State.each_keeps hP.toClosed
        | apply State.uplCell_keeps hP.toClosed | apply State.ovrTrip_keeps hP.toClosed
        | apply State.mcxLatch_keeps hP.toClosed | apply State.gapCount_keeps hP.toClosed
        | apply State.flowMiss_keeps hP.toClosed | apply State.stlUplClose_keeps hP.toClosed
        | apply State.leOpen_keeps hP.toClosed
    | split
    | with_reducible apply hP.toClosed.upd
    | with_reducible apply hP.grid

theorem State.leClose_keeps {P : State → Prop} (hP : Closed P) {s : State} (e : Nat) (hs : P s) :
    P (State.leClose s e) := by
  unfold State.leClose
  try dsimp only
  repeat' first
    | with_reducible
        first
        | assumption | apply ite_keeps | apply State.ovrNone_keeps hP | apply State.leWindowAbort_keeps hP
        | refine State.overrun_keeps2 hP _ _ ?_
    | split
    | (with_reducible apply State.overrun_keeps hP; with_reducible assumption)

theorem State.leSlack_keeps {P : State → Prop} (hP : Closed P) {s : State} (late : Bool) (hs : P s) :
    P (State.leSlack s late) := by
  unfold State.leSlack
  try dsimp only
  repeat' first
    | with_reducible
        first
        | assumption | apply ite_keeps | apply State.foldl_keeps | apply State.take_keeps hP
        | apply State.set_keeps hP
    | split
    | with_reducible apply hP.upd

theorem execLeWindowClose_keeps {P : State → Prop} (hP : ClosedG P) {s sN : State}  (he : execLeWindowClose s = .next sN) (hs : P s) : P sN := by
  unfold execLeWindowClose at he
  try dsimp only at he
  repeat' (split at he)
  all_goals (injection he with he <;> subst he)
  repeat' first
    | intro _
    | with_reducible
        first
        | assumption | apply ite_keeps | apply State.advance_keeps hP.toClosed | apply State.iff_keeps hP.toClosed
        | apply State.leRunAll_keeps hP.toClosedM | apply State.each_keeps hP.toClosed
        | apply State.leClose_keeps hP.toClosed | apply State.leUsed_keeps hP.toClosed
        | apply State.leSlack_keeps hP.toClosed | apply State.set_keeps hP.toClosed
        | apply State.ovrTrip_keeps hP.toClosed | apply State.lePublish_keeps hP.toClosed
        | apply State.leTableWrites_keeps hP.toClosedM | apply State.moveCopy_keeps hP.toClosedM
        | apply State.afeFromPubs_keeps hP.toClosed | apply State.captureAll_keeps hP.toClosed
        | apply State.flowTx_keeps hP.toClosed | apply State.dozeCommit_keeps hP.toClosed
        | apply State.parApply_keeps hP.toClosed | apply State.grnLeaves_keeps hP.toClosed
        | apply State.dsvOpen_keeps hP.toClosed | apply State.grainerPass_keeps hP.toClosed
        | apply State.grnCapture_keeps hP.toClosed
    | split
    | with_reducible apply hP.toClosed.upd
    | with_reducible apply hP.grid

theorem execDsvSolve_keeps {P : State → Prop} (hP : Closed P) {s sN : State}  (he : execDsvSolve s = .next sN) (hs : P s) : P sN := by
  unfold execDsvSolve at he
  try dsimp only at he
  repeat' (split at he)
  all_goals (injection he with he <;> subst he)
  repeat' first
    | with_reducible
        first
        | assumption | apply ite_keeps | apply State.dsvSolve_keeps hP | apply State.modCompute_keeps hP
    | split

theorem State.gdCell_keeps {P : State → Prop} (hP : Closed P) {s : State} (late : List Nat) (n : Nat) (hs : P s) :
    P (State.gdCell s late n) := by
  unfold State.gdCell
  try dsimp only
  repeat' first
    | intro _
    | with_reducible
        first
        | assumption | apply ite_keeps | apply State.modCell_keeps hP | apply State.ovrBlock_keeps hP
        | apply State.ovrNone_keeps hP | refine State.overrun_keeps2 hP _ _ ?_
    | split
    | (with_reducible apply State.overrun_keeps hP; with_reducible assumption)
    | with_reducible apply hP.upd

theorem execGdWindowClose_keeps {P : State → Prop} (hP : ClosedG P) {s sN : State}  (he : execGdWindowClose s = .next sN) (hs : P s) : P sN := by
  unfold execGdWindowClose at he
  try dsimp only at he
  repeat' (split at he)
  all_goals (injection he with he <;> subst he)
  repeat' first
    | intro _
    | with_reducible
        first
        | assumption | apply ite_keeps | apply State.advance_keeps hP.toClosed | apply State.each_keeps hP.toClosed
        | apply State.gdCell_keeps hP.toClosed | apply State.ovrTrip_keeps hP.toClosed
        | apply State.iff_keeps hP.toClosed | apply State.grnLatch_keeps hP.toClosed
        | apply State.dsvLatch_keeps hP.toClosed | apply State.modCompute_keeps hP.toClosed
        | apply State.composeAll_keeps hP.toClosed | apply State.mirrorSend_keeps hP.toClosed
    | split
    | with_reducible apply hP.toClosed.upd
    | with_reducible apply hP.grid

theorem State.dlCell_keeps {P : State → Prop} (hP : Closed P) {s : State} (unsent : BitVec 48) (n : Nat) (hs : P s) :
    P (State.dlCell s unsent n) := by
  unfold State.dlCell
  try dsimp only
  repeat' first
    | intro _
    | with_reducible
        first
        | assumption | apply ite_keeps | apply State.modCell_keeps hP | apply State.ovrNone_keeps hP
        | refine State.overrun_keeps2 hP _ _ ?_
    | split
    | (with_reducible apply State.overrun_keeps hP; with_reducible assumption)
    | with_reducible apply hP.upd

theorem execDlWindowClose_keeps {P : State → Prop} (hP : ClosedG P) {s sN : State} (unsent : BitVec 48) (he : execDlWindowClose unsent s = .next sN) (hs : P s) : P sN := by
  unfold execDlWindowClose at he
  try dsimp only at he
  repeat' (split at he)
  all_goals (injection he with he <;> subst he)
  repeat' first
    | intro _
    | with_reducible
        first
        | assumption | apply ite_keeps | apply State.advance_keeps hP.toClosed | apply State.each_keeps hP.toClosed
        | apply State.dlCell_keeps hP.toClosed | apply State.ovrTrip_keeps hP.toClosed
        | apply State.stlDlClose_keeps hP.toClosed
    | split
    | with_reducible apply hP.toClosed.upd
    | with_reducible apply hP.grid

theorem execP3Starve_keeps {P : State → Prop} (hP : Closed P) {s sN : State} (wait : BitVec 24) (he : execP3Starve wait s = .next sN) (hs : P s) : P sN := by
  unfold execP3Starve at he
  try dsimp only at he
  repeat' (split at he)
  all_goals (injection he with he <;> subst he)
  repeat' first
    | intro _
    | with_reducible
        first
        | assumption | apply State.set_keeps hP | apply State.iff_keeps hP | apply State.bump_keeps hP
        | apply State.irq_keeps hP
    | split

theorem execBoundViol_keeps {P : State → Prop} (hP : Closed P) {s sN : State} (cls : Fin 3) (wait : BusWait) (he : execBoundViol cls wait s = .next sN) (hs : P s) : P sN := by
  unfold execBoundViol at he
  try dsimp only at he
  repeat' (split at he)
  all_goals (injection he with he <;> subst he)
  repeat' first
    | with_reducible
        first
        | assumption | apply ite_keeps | apply State.set_keeps hP | apply State.irq_keeps hP
        | apply State.logEvt_keeps hP | apply State.safBound_keeps hP
    | split

theorem State.starveClear_keeps {P : State → Prop} (hP : Closed P) {s : State}  (hs : P s) :
    P (State.starveClear s) := by
  unfold State.starveClear
  try dsimp only
  repeat' first
    | intro _
    | with_reducible
        first
        | assumption | apply State.judge_keeps hP | apply State.setReg_keeps hP | apply State.set_keeps hP

theorem execP3StarveCntClear_keeps {P : State → Prop} (hP : Closed P) {s sN : State}  (he : execP3StarveCntClear s = .next sN) (hs : P s) : P sN := by
  unfold execP3StarveCntClear at he
  try dsimp only at he
  repeat' (split at he)
  all_goals (injection he with he <;> subst he)
  repeat' first
    | with_reducible
        first
        | assumption | apply State.starveClear_keeps hP

end Sys2Proof.Machine
end

