-- ==== Sys2Proof/Laws/KeepsRecovery.lean ====
section
/-! SUPPORT. Every operation of Machine/Recovery.lean keeps every property the primitive updates keep. -/

namespace Sys2Proof.Machine

set_option linter.unreachableTactic false
set_option linter.unusedTactic false
set_option linter.unnecessarySeqFocus false

theorem State.pwrCyc_keeps {P : State → Prop} (hP : Closed P) {s : State}  (hs : P s) : P (State.pwrCyc s) := by
  unfold State.pwrCyc
  try dsimp only
  repeat' first
    | intro _
    | with_reducible
        first
        | assumption | apply State.modPwr_keeps hP
    | with_reducible apply hP.upd

theorem execNvlResetWarm_keeps {P : State → Prop} (hP : Closed P) {s sN : State} (key : BitVec 8) (he : execNvlResetWarm key s = .next sN) (hs : P s) : P sN := by
  unfold execNvlResetWarm at he
  try dsimp only at he
  repeat' (split at he)
  all_goals (injection he with he <;> subst he)
  repeat' first
    | intro _
    | with_reducible
        first
        | assumption | apply State.judge_keeps hP | apply State.warmAsk_keeps hP

theorem execNvlResetPcyc_keeps {P : State → Prop} (hP : Closed P) {s sN : State} (key : BitVec 8) (he : execNvlResetPcyc key s = .next sN) (hs : P s) : P sN := by
  unfold execNvlResetPcyc at he
  try dsimp only at he
  repeat' (split at he)
  all_goals (injection he with he <;> subst he)
  repeat' first
    | intro _
    | with_reducible
        first
        | assumption | apply State.judge_keeps hP | apply State.pwrCyc_keeps hP

theorem State.nvlResetWrite_keeps {P : State → Prop} (hP : Closed P) {s : State} (val : Word) (hs : P s) :
    P (State.nvlResetWrite s val) := by
  unfold State.nvlResetWrite
  try dsimp only
  repeat' first
    | intro _
    | with_reducible
        first
        | assumption | apply ite_keeps | apply State.judge_keeps hP | apply State.pwrCyc_keeps hP
        | apply State.iff_keeps hP | apply State.warmAsk_keeps hP
    | split

theorem execPcycReq_keeps {P : State → Prop} (hP : Closed P) {s sN : State}  (he : execPcycReq s = .next sN) (hs : P s) : P sN := by
  unfold execPcycReq at he
  try dsimp only at he
  repeat' (split at he)
  all_goals (injection he with he <;> subst he)
  repeat' first
    | with_reducible
        first
        | assumption | apply ite_keeps | apply State.pwrCyc_keeps hP
    | split

theorem State.heartWrite_keeps {P : State → Prop} (hP : Closed P) {s : State} (key : Nat) (hs : P s) :
    P (State.heartWrite s key) := by
  unfold State.heartWrite
  try dsimp only
  repeat' first
    | intro _
    | with_reducible
        first
        | assumption | apply State.judge_keeps hP | apply State.modPwr_keeps hP
    | with_reducible apply hP.upd

theorem execHeart_keeps {P : State → Prop} (hP : Closed P) {s sN : State} (key : BitVec 8) (he : execHeart key s = .next sN) (hs : P s) : P sN := by
  unfold execHeart at he
  try dsimp only at he
  repeat' (split at he)
  all_goals (injection he with he <;> subst he)
  repeat' first
    | with_reducible
        first
        | assumption | apply State.heartWrite_keeps hP

theorem execHbTimeout_keeps {P : State → Prop} (hP : Closed P) {s sN : State}  (he : execHbTimeout s = .next sN) (hs : P s) : P sN := by
  unfold execHbTimeout at he
  try dsimp only at he
  repeat' (split at he)
  all_goals (injection he with he <;> subst he)
  repeat' first
    | intro _
    | with_reducible
        first
        | assumption | apply ite_keeps | apply State.advance_keeps hP | apply State.modPwr_keeps hP
        | apply State.iff_keeps hP | apply State.warmAsk_keeps hP
    | split
    | with_reducible apply hP.upd

theorem State.rcvCfgWrite_keeps {P : State → Prop} (hP : Closed P) {s : State} (val : Word) (hs : P s) :
    P (State.rcvCfgWrite s val) := by
  unfold State.rcvCfgWrite
  try dsimp only
  repeat' first
    | intro _
    | with_reducible
        first
        | assumption | apply State.judge_keeps hP | apply State.take_keeps hP | apply State.iff_keeps hP
        | apply State.modPwr_keeps hP
    | split
    | with_reducible apply hP.upd

theorem State.bootStart_keeps {P : State → Prop} (hP : ClosedM P) {s : State} (k : Nat) (hs : P s) :
    P (State.bootStart s k) := by
  unfold State.bootStart
  try dsimp only
  repeat' first
    | intro _
    | with_reducible
        first
        | assumption | apply State.set_keeps hP.toClosed | apply State.modSec_keeps hP.toClosed
        | apply State.putBytes_keeps hP
    | with_reducible apply hP.toClosed.upd

theorem State.bootTry_keeps {P : State → Prop} (hP : ClosedM P) {s : State} (l : List Nat) (hs : P s) :
    P (s.bootTry l) := by
  induction l generalizing s with
  | nil => exact State.logEvt_keeps hP.toClosed _ _ (State.set_keeps hP.toClosed _ _ hs)
  | cons k ks ih =>
    unfold State.bootTry
    dsimp only
    split
    · exact State.bootStart_keeps hP _ hs
    · exact ih (State.iff_keeps hP.toClosed _ _ (fun s h => State.irq_keeps hP.toClosed _ _ h) (State.set_keeps hP.toClosed _ _ hs))

theorem State.secureBoot_keeps {P : State → Prop} (hP : ClosedM P) {s : State}  (hs : P s) :
    P (State.secureBoot s) := by
  unfold State.secureBoot
  try dsimp only
  repeat' first
    | with_reducible
        first
        | assumption | apply State.bootTry_keeps hP

theorem State.tsAbsent_keeps {P : State → Prop} (hP : Closed P) {s : State}  (hs : P s) : P (State.tsAbsent s) := by
  unfold State.tsAbsent
  try dsimp only
  repeat' first
    | intro _
    | with_reducible
        first
        | assumption | apply ite_keeps | apply State.each_keeps hP | apply State.set_keeps hP
    | split

theorem State.readStraps_keeps {P : State → Prop} (hP : ClosedG P) {s : State}  (hs : P s) :
    P (State.readStraps s) := by
  unfold State.readStraps
  try dsimp only
  repeat' first
    | intro _
    | with_reducible
        first
        | assumption | apply ite_keeps | apply State.setReg_keeps hP.toClosed | apply State.each_keeps hP.toClosed
        | apply State.setB_keeps hP.toClosed | apply State.tsAbsent_keeps hP.toClosed
        | apply State.trlStraps_keeps hP.toClosed | apply State.set_keeps hP.toClosed | apply State.benchIl_keeps hP
    | split

theorem State.resetBase_keeps {P : State → Prop} (hP : ClosedG P) {s : State} (keep : Nat → Bool) (aon : Bool)
    (hs : P s) : P (s.resetBase keep aon) := hP.base s keep aon hs

theorem State.restart_keeps {P : State → Prop} (hP : ClosedG P) {s : State} (keep : Nat → Bool) (aon : Bool) (hs : P s) :
    P (State.restart s keep aon) := by
  unfold State.restart
  try dsimp only
  repeat' first
    | intro _
    | with_reducible
        first
        | assumption | apply State.resetBase_keeps hP | apply State.each_keeps hP.toClosed
        | apply State.setIsland_keeps hP.toClosed | apply State.modCan_keeps hP.toClosed
        | apply State.modEth_keeps hP.toClosed | apply State.readStraps_keeps hP
    | with_reducible apply hP.toClosed.upd
    | with_reducible apply hP.grid

theorem State.bootUp_keeps {P : State → Prop} (hP : ClosedM P) {s : State} (dbg : Nat) (hs : P s) :
    P (State.bootUp s dbg) := by
  unfold State.bootUp
  try dsimp only
  repeat' first
    | intro _
    | with_reducible
        first
        | assumption | apply ite_keeps | apply State.set_keeps hP.toClosed | apply State.iff_keeps hP.toClosed
        | apply State.irq_keeps hP.toClosed | apply State.secureBoot_keeps hP | apply State.newNonce_keeps hP.toClosed
        | apply State.safBoot_keeps hP.toClosed | apply State.ownAssert_keeps hP.toClosed
    | split

theorem State.warmReset_keeps {P : State → Prop} (hP : ClosedG P) {s : State} (cause : Nat) (warms : List Nat) (hs : P s) :
    P (State.warmReset s cause warms) := by
  unfold State.warmReset
  try dsimp only
  repeat' first
    | intro _
    | with_reducible
        first
        | assumption | apply State.restart_keeps hP | apply State.set_keeps hP.toClosed
        | apply State.bootUp_keeps hP.toClosedM | apply State.iff_keeps hP.toClosed
        | apply State.irq_keeps hP.toClosed
    | split
    | with_reducible apply hP.toClosed.upd
    | with_reducible apply hP.grid

theorem State.warmOrCyc_keeps {P : State → Prop} (hP : ClosedG P) {s : State} (cause : Nat) (hs : P s) :
    P (State.warmOrCyc s cause) := by
  unfold State.warmOrCyc
  try dsimp only
  repeat' first
    | intro _
    | with_reducible
        first
        | assumption | apply ite_keeps | apply State.pwrCyc_keeps hP.toClosed | apply State.warmReset_keeps hP
    | split

theorem execWarmReset_keeps {P : State → Prop} (hP : ClosedG P) {s sN : State} (lockstep : Bool) (he : execWarmReset lockstep s = .next sN) (hs : P s) : P sN := by
  unfold execWarmReset at he
  try dsimp only at he
  repeat' (split at he)
  all_goals (injection he with he <;> subst he)
  repeat' first
    | intro _
    | with_reducible
        first
        | assumption | apply ite_keeps | apply State.iff_keeps hP.toClosed | apply State.warmAsk_keeps hP.toClosed
        | apply State.warmOrCyc_keeps hP
    | split

theorem execPowerOnReset_keeps {P : State → Prop} (hP : ClosedG P) {s sN : State}  (he : execPowerOnReset s = .next sN) (hs : P s) : P sN := by
  unfold execPowerOnReset at he
  try dsimp only at he
  repeat' (split at he)
  all_goals (injection he with he <;> subst he)
  repeat' first
    | intro _
    | with_reducible
        first
        | assumption | apply ite_keeps | apply State.restart_keeps hP | apply State.set_keeps hP.toClosed
        | apply State.bootUp_keeps hP.toClosedM | apply State.iff_keeps hP.toClosed
        | apply State.irq_keeps hP.toClosed
    | split

theorem State.vinLost_keeps {P : State → Prop} (hP : ClosedG P) {s : State}  (hs : P s) : P (State.vinLost s) := by
  unfold State.vinLost
  try dsimp only
  repeat' first
    | intro _
    | with_reducible
        first
        | assumption | apply ite_keeps | apply State.disarm_keeps hP.toClosed
        | apply State.ownRelease_keeps hP.toClosed | apply State.memLost_keeps hP | apply State.set_keeps hP.toClosed
        | apply State.setReg_keeps hP.toClosed | apply State.modSec_keeps hP.toClosed
        | apply State.modNvl_keeps hP.toClosed | apply State.modPwr_keeps hP.toClosed
    | split
    | with_reducible apply hP.toClosed.upd
    | with_reducible apply hP.grid

theorem execBrownOut_keeps {P : State → Prop} (hP : ClosedG P) {s sN : State}  (he : execBrownOut s = .next sN) (hs : P s) : P sN := by
  unfold execBrownOut at he
  try dsimp only at he
  repeat' (split at he)
  all_goals (injection he with he <;> subst he)
  repeat' first
    | with_reducible
        first
        | assumption | apply State.vinLost_keeps hP

theorem execSeatedChange_keeps {P : State → Prop} (hP : ClosedG P) {s sN : State} (low : Bool) (he : execSeatedChange low s = .next sN) (hs : P s) : P sN := by
  unfold execSeatedChange at he
  try dsimp only at he
  repeat' (split at he)
  all_goals (injection he with he <;> subst he)
  repeat' first
    | intro _
    | with_reducible
        first
        | assumption | apply ite_keeps | apply State.modPwr_keeps hP.toClosed | apply State.vinLost_keeps hP
    | split
    | with_reducible apply hP.toClosed.upd
    | with_reducible apply hP.grid

theorem execInputSwitchClose_keeps {P : State → Prop} (hP : Closed P) {s sN : State}  (he : execInputSwitchClose s = .next sN) (hs : P s) : P sN := by
  unfold execInputSwitchClose at he
  try dsimp only at he
  repeat' (split at he)
  all_goals (injection he with he <;> subst he)
  repeat' first
    | intro _
    | with_reducible
        first
        | assumption | apply ite_keeps | apply State.advance_keeps hP | apply State.modPwr_keeps hP
    | split
    | with_reducible apply hP.upd

theorem execLcDone_keeps {P : State → Prop} (hP : ClosedG P) {s sN : State}  (he : execLcDone s = .next sN) (hs : P s) : P sN := by
  unfold execLcDone at he
  try dsimp only at he
  repeat' (split at he)
  all_goals (injection he with he <;> subst he)
  repeat' first
    | intro _
    | with_reducible
        first
        | assumption | apply State.modSec_keeps hP.toClosed | apply State.set_keeps hP.toClosed
        | apply State.irq_keeps hP.toClosed | apply State.iff_keeps hP.toClosed
        | apply State.logFlush_keeps hP.toClosed | apply State.disarm_keeps hP.toClosed
        | apply State.warmOrCyc_keeps hP | apply State.dbgShut_keeps hP.toClosed
        | refine State.free_keeps2 hP.toClosed ?_
    | split
    | (with_reducible apply State.free_keeps hP.toClosed; with_reducible assumption)
    | with_reducible apply hP.toClosed.upd
    | with_reducible apply hP.grid

theorem State.wakeStart_keeps {P : State → Prop} (hP : ClosedM P) {s : State}  (hs : P s) :
    P (State.wakeStart s) := by
  unfold State.wakeStart
  try dsimp only
  repeat' first
    | intro _
    | with_reducible
        first
        | assumption | apply State.set_keeps hP.toClosed | apply State.modPwr_keeps hP.toClosed
        | apply State.slpEnter_keeps hP | apply State.each_keeps hP.toClosed | apply State.secureBoot_keeps hP
        | apply State.modSaf_keeps hP.toClosed | apply State.safBoot_keeps hP.toClosed
        | apply State.lnGo_keeps hP.toClosed
    | with_reducible apply hP.toClosed.upd

theorem State.wakeBy_keeps {P : State → Prop} (hP : ClosedG P) {s : State} (m : Nat) (hs : P s) :
    P (State.wakeBy s m) := by
  unfold State.wakeBy
  try dsimp only
  repeat' first
    | intro _
    | with_reducible
        first
        | assumption | apply ite_keeps | apply State.setReg_keeps hP.toClosed | apply State.irq_keeps hP.toClosed
        | apply State.slpGo_keeps hP | apply State.modPwr_keeps hP.toClosed | apply State.set_keeps hP.toClosed
        | apply State.iff_keeps hP.toClosed | apply State.slpStep5_keeps hP | apply State.wakeStart_keeps hP.toClosedM
    | split
    | with_reducible apply hP.toClosed.upd
    | with_reducible apply hP.grid

theorem execWakeEvent_keeps {P : State → Prop} (hP : ClosedG P) {s sN : State} (src : BitVec 16) (he : execWakeEvent src s = .next sN) (hs : P s) : P sN := by
  unfold execWakeEvent at he
  try dsimp only at he
  repeat' (split at he)
  all_goals (injection he with he <;> subst he)
  repeat' first
    | intro _
    | with_reducible
        first
        | assumption | apply ite_keeps | apply State.modMem_keeps hP.toClosed | apply State.wakeBy_keeps hP
    | split
    | with_reducible apply hP.toClosed.upd
    | with_reducible apply hP.grid

theorem State.tsOut_keeps {P : State → Prop} (hP : Closed P) {s : State} (n : Nat) (f : Fld) (hs : P s) :
    P (State.tsOut s n f) := by
  unfold State.tsOut
  try dsimp only
  repeat' first
    | with_reducible
        first
        | assumption | apply State.set_keeps hP | apply State.irq_keeps hP

theorem State.tsOne_keeps {P : State → Prop} (hP : Closed P) {s : State} (r : List Int) (n : Nat) (hs : P s) :
    P (State.tsOne s r n) := by
  unfold State.tsOne
  try dsimp only
  repeat' first
    | intro _
    | with_reducible
        first
        | assumption | apply ite_keeps | apply State.set_keeps hP | apply State.setS_keeps hP
        | apply State.setB_keeps hP | apply State.modMem_keeps hP | apply State.tsOut_keeps hP
        | apply State.iff_keeps hP
    | split
    | with_reducible apply hP.upd

theorem State.tsSample_keeps {P : State → Prop} (hP : Closed P) {s : State} (r : List Int) (hs : P s) :
    P (State.tsSample s r) := by
  unfold State.tsSample
  try dsimp only
  repeat' first
    | intro _
    | with_reducible
        first
        | assumption | apply ite_keeps | apply State.modMem_keeps hP | apply State.each_keeps hP
        | apply State.tsOne_keeps hP | apply State.setS_keeps hP | apply State.set_keeps hP
        | apply State.setB_keeps hP | apply State.irq_keeps hP
    | split
    | with_reducible apply hP.upd

theorem State.thermalShutdown_keeps {P : State → Prop} (hP : Closed P) {s : State}  (hs : P s) :
    P (State.thermalShutdown s) := by
  unfold State.thermalShutdown
  try dsimp only
  repeat' first
    | intro _
    | with_reducible
        first
        | assumption | apply ite_keeps | apply State.disarm_keeps hP | apply State.modMem_keeps hP
        | apply State.tsdRecord_keeps hP | apply State.ownRelease_keeps hP | apply State.slpStep4_keeps hP
        | apply State.modPwr_keeps hP
    | split
    | with_reducible apply hP.upd

theorem State.tsSleep_keeps {P : State → Prop} (hP : ClosedG P) {s : State} (v : Int) (hs : P s) :
    P (State.tsSleep s v) := by
  unfold State.tsSleep
  try dsimp only
  repeat' first
    | intro _
    | with_reducible
        first
        | assumption | apply ite_keeps | apply State.setS_keeps hP.toClosed | apply State.modMem_keeps hP.toClosed
        | apply State.set_keeps hP.toClosed | apply State.tsOut_keeps hP.toClosed | apply State.setB_keeps hP.toClosed
        | apply State.iff_keeps hP.toClosed | apply State.wakeBy_keeps hP | apply State.tsdRecord_keeps hP.toClosed
    | split
    | with_reducible apply hP.toClosed.upd
    | with_reducible apply hP.grid

theorem execTempSample_keeps {P : State → Prop} (hP : ClosedG P) {s sN : State} (r : List Int) (he : execTempSample r s = .next sN) (hs : P s) : P sN := by
  unfold execTempSample at he
  try dsimp only at he
  repeat' (split at he)
  all_goals (injection he with he <;> subst he)
  repeat' first
    | intro _
    | with_reducible
        first
        | assumption | apply ite_keeps | apply State.tsSleep_keeps hP | apply State.tsSample_keeps hP.toClosed
        | apply State.modMem_keeps hP.toClosed | apply State.thermalShutdown_keeps hP.toClosed
    | split
    | with_reducible apply hP.toClosed.upd
    | with_reducible apply hP.grid

theorem execTsdSample_keeps {P : State → Prop} (hP : Closed P) {s sN : State} (r : List Int) (he : execTsdSample r s = .next sN) (hs : P s) : P sN := by
  unfold execTsdSample at he
  try dsimp only at he
  repeat' (split at he)
  all_goals (injection he with he <;> subst he)
  repeat' first
    | intro _
    | with_reducible
        first
        | assumption | apply ite_keeps | apply State.tsSample_keeps hP | apply State.modMem_keeps hP
        | apply State.warmAsk_keeps hP
    | split
    | with_reducible apply hP.upd

end Sys2Proof.Machine
end

