-- ==== Sys2Proof/Laws/KeepsPages.lean ====
section
/-! SUPPORT. Every operation of Machine/Pages.lean keeps every property the primitive updates keep. -/

namespace Sys2Proof.Machine

set_option linter.unreachableTactic false
set_option linter.unusedTactic false
set_option linter.unnecessarySeqFocus false

theorem State.plainWrite_keeps {P : State → Prop} (hP : Closed P) {s : State} (k : PageKind) (pg : Nat) (ofs : Nat) (val : Word) (conds : List (Bool × Nat)) (hs : P s) :
    P (State.plainWrite s k pg ofs val conds) := by
  unfold State.plainWrite
  try dsimp only
  repeat' first
    | intro _
    | with_reducible
        first
        | assumption | apply State.judge_keeps hP | apply State.take_keeps hP

theorem State.reinitRegs_keeps {P : State → Prop} (hP : Closed P) {s : State} (k : PageKind) (pg : Nat) (hs : P s) :
    P (State.reinitRegs s k pg) := by
  unfold State.reinitRegs
  try dsimp only
  repeat' first
    | intro _
    | with_reducible
        first
        | assumption | apply ite_keeps | apply State.each_keeps hP | apply State.setReg_keeps hP
    | split

theorem State.reinitStop_keeps {P : State → Prop} (hP : ClosedM P) {s : State} (k : PageKind) (i : Nat) (hs : P s) :
    P (State.reinitStop s k i) := by
  unfold State.reinitStop
  try dsimp only
  repeat' first
    | intro _
    | with_reducible
        first
        | assumption | apply ite_keeps | apply State.each_keeps hP.toClosed | apply State.release_keeps hP.toClosed
        | apply State.setChan_keeps hP.toClosed | apply State.legStop_keeps hP.toClosed
        | apply State.grnLeaves_keeps hP.toClosed | apply State.grnLeave_keeps hP.toClosed
        | apply State.setStack_keeps hP.toClosed | apply State.chSync_keeps hP.toClosed
        | apply State.setDsv_keeps hP.toClosed | apply State.islReinit_keeps hP.toClosed
        | apply State.iff_keeps hP.toClosed | apply State.machDisable_keeps hP.toClosed
        | apply State.chopDisable_keeps hP.toClosed | apply State.rsvStop_keeps hP.toClosed
        | apply State.encStop_keeps hP.toClosed | apply State.pairReinit_keeps hP.toClosed
        | apply State.lnOff_keeps hP.toClosed | apply State.tlDown_keeps hP.toClosed
        | apply State.modTrl_keeps hP.toClosed | apply State.stlStop_keeps hP.toClosed
        | apply State.canDisable_keeps hP | apply State.modCan_keeps hP.toClosed
        | apply State.ptpFail_keeps hP.toClosed | apply State.ptpFold_keeps hP.toClosed
        | apply State.ethDisable_keeps hP.toClosed | apply State.modEth_keeps hP.toClosed
        | apply State.modNvl_keeps hP.toClosed | refine State.leReinit_keeps2 hP.toClosed _ ?_
    | split
    | (with_reducible apply State.leReinit_keeps hP.toClosed; with_reducible assumption)
    | with_reducible apply hP.toClosed.upd

theorem State.reinitDone_keeps {P : State → Prop} (hP : Closed P) {s : State} (old : State) (k : PageKind) (i : Nat) (hs : P s) :
    P (State.reinitDone s old k i) := by
  unfold State.reinitDone
  try dsimp only
  repeat' first
    | intro _
    | with_reducible
        first
        | assumption | apply ite_keeps | apply State.refreshLegs_keeps hP | apply State.each_keeps hP
        | apply State.iff_keeps hP | apply State.release_keeps hP | apply State.set_keeps hP
        | apply State.srcActive_keeps hP | apply State.setCst_keeps hP | apply State.modCell_keeps hP
        | apply State.grnSource_keeps hP | apply State.dsvBudget_keeps hP | apply State.irq_keeps hP
        | apply State.setB_keeps hP | apply State.leRefresh_keeps hP | apply State.islReinitDone_keeps hP
        | apply State.mcxSource_keeps hP | apply State.trlStraps_keeps hP | apply State.modEth_keeps hP
        | apply State.tsqShow_keeps hP | apply State.tsAbsent_keeps hP | refine State.leReinit_keeps2 hP _ ?_
    | split
    | (with_reducible apply State.leReinit_keeps hP; with_reducible assumption)
    | with_reducible apply hP.upd

theorem State.pageReinit_keeps {P : State → Prop} (hP : ClosedM P) {s : State} (k : PageKind) (pg : Nat) (i : Nat) (hs : P s) :
    P (State.pageReinit s k pg i) := by
  unfold State.pageReinit
  try dsimp only
  repeat' first
    | intro _
    | with_reducible
        first
        | assumption | apply State.reinitStop_keeps hP | apply State.reinitRegs_keeps hP.toClosed
        | apply State.setReg_keeps hP.toClosed | apply State.iff_keeps hP.toClosed | apply State.set_keeps hP.toClosed
        | apply State.reinitDone_keeps hP.toClosed
    | split

theorem State.enSet_keeps {P : State → Prop} (hP : ClosedM P) {s : State} (k : PageKind) (i : Nat) (en : Bool) (hs : P s) :
    P (State.enSet s k i en) := by
  unfold State.enSet
  try dsimp only
  repeat' first
    | intro _
    | with_reducible
        first
        | assumption | apply State.set_keeps hP.toClosed | apply State.leDisable_keeps hP.toClosed
        | apply State.islEnable_keeps hP.toClosed | apply State.islDisable_keeps hP.toClosed
        | apply State.pairEnable_keeps hP.toClosed | apply State.pairDisable_keeps hP.toClosed
        | apply State.after_keeps hP.toClosed | apply State.canDisable_keeps hP
        | apply State.ethDisable_keeps hP.toClosed
    | split
    | (with_reducible apply execCanEnable_keeps hP.toClosed; with_reducible assumption)
    | (with_reducible apply execEthEnable_keeps hP.toClosed; with_reducible assumption)

theorem State.ctrlWrite_keeps {P : State → Prop} (hP : ClosedM P) {s : State} (k : PageKind) (pg : Nat) (i : Nat) (val : Word) (hs : P s) :
    P (State.ctrlWrite s k pg i val) := by
  unfold State.ctrlWrite
  try dsimp only
  repeat' first
    | intro _
    | with_reducible
        first
        | assumption | apply ite_keeps | apply State.judge_keeps hP.toClosed | apply State.iff_keeps hP.toClosed
        | apply State.pageReinit_keeps hP | apply State.enSet_keeps hP | apply State.set_keeps hP.toClosed
    | split
    | with_reducible apply hP.toClosed.upd

theorem State.rawClear_keeps {P : State → Prop} (hP : Closed P) {s : State} (k : PageKind) (pg : Nat) (ofs : Nat) (mask : Word) (hs : P s) :
    P (State.rawClear s k pg ofs mask) := by
  unfold State.rawClear
  try dsimp only
  repeat' first
    | intro _
    | with_reducible
        first
        | assumption | apply ite_keeps | apply State.judge_keeps hP | apply State.setReg_keeps hP
    | split

theorem State.pendClear_keeps {P : State → Prop} (hP : Closed P) {s : State} (k : PageKind) (pg : Nat) (mask : Word) (hs : P s) :
    P (State.pendClear s k pg mask) := by
  unfold State.pendClear
  try dsimp only
  repeat' first
    | with_reducible
        first
        | assumption | apply State.rawClear_keeps hP

theorem State.headWrite_keeps {P : State → Prop} (hP : ClosedM P) {s : State} (k : PageKind) (pg : Nat) (i : Nat) (ofs : Nat) (val : Word) (hs : P s) :
    P (State.headWrite s k pg i ofs val) := by
  unfold State.headWrite
  try dsimp only
  repeat' first
    | intro _
    | with_reducible
        first
        | assumption | apply id_keeps | apply State.ctrlWrite_keeps hP | apply State.rawClear_keeps hP.toClosed
        | apply State.judge_keeps hP.toClosed | apply State.setReg_keeps hP.toClosed
        | apply State.pendClear_keeps hP.toClosed | apply State.iff_keeps hP.toClosed
        | apply State.set_keeps hP.toClosed
    | split

theorem State.noCmd_keeps {P : State → Prop} (hP : Closed P) {s : State} (pg : Nat) (ofs : Nat) (hs : P s) :
    P (State.noCmd s pg ofs) := by
  unfold State.noCmd
  try dsimp only
  repeat' first
    | intro _
    | with_reducible
        first
        | assumption | apply id_keeps | apply State.judge_keeps hP

theorem State.clkWrite_keeps {P : State → Prop} (hP : Closed P) {s : State} (ofs : Nat) (val : Word) (hs : P s) :
    P (State.clkWrite s ofs val) := by
  unfold State.clkWrite
  try dsimp only
  repeat' first
    | intro _
    | with_reducible
        first
        | assumption | apply ite_keeps | apply State.after_keeps hP | apply State.plainWrite_keeps hP
    | split
    | (with_reducible apply execClkGateWrite_keeps hP; with_reducible assumption)

theorem State.pllWrite_keeps {P : State → Prop} (hP : Closed P) {s : State} (n : Nat) (ofs : Nat) (val : Word) (hs : P s) :
    P (State.pllWrite s n ofs val) := by
  unfold State.pllWrite
  try dsimp only
  repeat' first
    | with_reducible
        first
        | assumption | apply State.pcfgWritePll_keeps hP | apply State.pfracWrite_keeps hP
        | apply State.plainWrite_keeps hP | apply State.pllOutWrite_keeps hP
    | split

theorem State.pwrWrite_keeps {P : State → Prop} (hP : ClosedG P) {s : State} (ofs : Nat) (val : Word) (hs : P s) :
    P (State.pwrWrite s ofs val) := by
  unfold State.pwrWrite
  try dsimp only
  repeat' first
    | intro _
    | with_reducible
        first
        | assumption | apply id_keeps | apply State.pwrCmdWrite_keeps hP | apply State.after_keeps hP.toClosed
        | apply State.judge_keeps hP.toClosed | apply State.plainWrite_keeps hP.toClosed
    | split
    | (with_reducible apply execArm_keeps hP.toClosed; with_reducible assumption)
    | (with_reducible apply execDisarm_keeps hP.toClosed; with_reducible assumption)

theorem State.thmWrite_keeps {P : State → Prop} (hP : Closed P) {s : State} (ofs : Nat) (val : Word) (hs : P s) :
    P (State.thmWrite s ofs val) := by
  unfold State.thmWrite
  try dsimp only
  repeat' first
    | with_reducible
        first
        | assumption | apply State.plainWrite_keeps hP

theorem State.memWrite_keeps {P : State → Prop} (hP : ClosedM P) {s : State} (ofs : Nat) (val : Word) (hs : P s) :
    P (State.memWrite s ofs val) := by
  unfold State.memWrite
  try dsimp only
  repeat' first
    | intro _
    | with_reducible
        first
        | assumption | apply ite_keeps | apply State.plainWrite_keeps hP.toClosed
        | apply State.after_keeps hP.toClosed | apply State.noCmd_keeps hP.toClosed
        | apply State.testCfgWrite_keeps hP.toClosed | apply State.iff_keeps hP.toClosed
        | apply State.critWrite_keeps hP.toClosed
    | split
    | (with_reducible apply execPclr_keeps hP; with_reducible assumption)
    | (with_reducible apply execTestWrRaw_keeps hP; with_reducible assumption)
    | (with_reducible apply execTestRdRaw_keeps hP.toClosed; with_reducible assumption)
    | (with_reducible apply execRemapGo_keeps hP.toClosed; with_reducible assumption)

theorem State.icxWrite_keeps {P : State → Prop} (hP : Closed P) {s : State} (ofs : Nat) (val : Word) (hs : P s) :
    P (State.icxWrite s ofs val) := by
  unfold State.icxWrite
  try dsimp only
  repeat' first
    | intro _
    | with_reducible
        first
        | assumption | apply ite_keeps | apply id_keeps | apply State.starveClear_keeps hP
        | apply State.judge_keeps hP | apply State.plainWrite_keeps hP
    | split

theorem State.dmaWriteReg_keeps {P : State → Prop} (hP : Closed P) {s : State} (ofs : Nat) (val : Word) (hs : P s) :
    P (State.dmaWriteReg s ofs val) := by
  unfold State.dmaWriteReg
  try dsimp only
  repeat' first
    | intro _
    | with_reducible
        first
        | assumption | apply id_keeps | apply State.dmaCfgWrite_keeps hP | apply State.dmaRegWrite_keeps hP
        | apply State.judge_keeps hP
    | split

theorem State.intcWrite_keeps {P : State → Prop} (hP : Closed P) {s : State} (ofs : Nat) (val : Word) (hs : P s) :
    P (State.intcWrite s ofs val) := by
  unfold State.intcWrite
  try dsimp only
  repeat' first
    | intro _
    | with_reducible
        first
        | assumption | apply State.after_keeps hP | apply State.plainWrite_keeps hP
    | split
    | (with_reducible apply execIntcComplete_keeps hP; with_reducible assumption)

theorem State.tbsWrite_keeps {P : State → Prop} (hP : ClosedG P) {s : State} (ofs : Nat) (val : Word) (hs : P s) :
    P (State.tbsWrite s ofs val) := by
  unfold State.tbsWrite
  try dsimp only
  repeat' first
    | with_reducible
        first
        | assumption | apply State.plainWrite_keeps hP.toClosed | apply State.rateCap_keeps hP.toClosed
        | apply State.tcmdWrite_keeps hP | apply State.periodWrite_keeps hP.toClosed
    | split

theorem State.modcWrite_keeps {P : State → Prop} (hP : Closed P) {s : State} (ofs : Nat) (val : Word) (hs : P s) :
    P (State.modcWrite s ofs val) := by
  unfold State.modcWrite
  try dsimp only
  repeat' first
    | intro _
    | with_reducible
        first
        | assumption | apply ite_keeps | apply State.modCfgWrite_keeps hP | apply State.plainWrite_keeps hP
    | split

theorem State.modchWrite_keeps {P : State → Prop} (hP : Closed P) {s : State} (p : Nat) (ofs : Nat) (val : Word) (hs : P s) :
    P (State.modchWrite s p ofs val) := by
  unfold State.modchWrite
  try dsimp only
  repeat' first
    | intro _
    | with_reducible
        first
        | assumption | apply ite_keeps | apply id_keeps | apply State.chpgWrite_keeps hP
        | apply State.chWrite_keeps hP | apply State.judge_keeps hP
    | split

theorem State.lpwWrite_keeps {P : State → Prop} (hP : Closed P) {s : State} (ofs : Nat) (val : Word) (hs : P s) :
    P (State.lpwWrite s ofs val) := by
  unfold State.lpwWrite
  try dsimp only
  repeat' first
    | intro _
    | with_reducible
        first
        | assumption | apply ite_keeps | apply id_keeps | apply State.lpwCtlWrite_keeps hP
        | apply State.legWrite_keeps hP | apply State.judge_keeps hP
    | split

theorem State.trpWrite_keeps {P : State → Prop} (hP : Closed P) {s : State} (ofs : Nat) (val : Word) (hs : P s) :
    P (State.trpWrite s ofs val) := by
  unfold State.trpWrite
  try dsimp only
  repeat' first
    | intro _
    | with_reducible
        first
        | assumption | apply ite_keeps | apply State.trpCfgWrite_keeps hP | apply State.judge_keeps hP
        | apply State.take_keeps hP | apply State.trpEval_keeps hP | apply State.flagClear_keeps hP
        | apply State.rearm_keeps hP | apply State.after_keeps hP | apply State.noCmd_keeps hP
        | apply State.plainWrite_keeps hP
    | split
    | (with_reducible apply execTrpSwtrip_keeps hP; with_reducible assumption)

theorem State.grnWrite_keeps {P : State → Prop} (hP : Closed P) {s : State} (ofs : Nat) (val : Word) (hs : P s) :
    P (State.grnWrite s ofs val) := by
  unfold State.grnWrite
  try dsimp only
  repeat' first
    | intro _
    | with_reducible
        first
        | assumption | apply State.plainWrite_keeps hP | apply State.cellCmd_keeps hP | apply State.stkCmd_keeps hP
        | apply State.gapCfgWrite_keeps hP | apply State.cellStkWrite_keeps hP | apply State.stkCfgWrite_keeps hP
    | split

theorem State.dsvWrite_keeps {P : State → Prop} (hP : Closed P) {s : State} (ofs : Nat) (val : Word) (hs : P s) :
    P (State.dsvWrite s ofs val) := by
  unfold State.dsvWrite
  try dsimp only
  repeat' first
    | with_reducible
        first
        | assumption | apply State.dsvEnWrite_keeps hP | apply State.parCommit_keeps hP
        | apply State.plainWrite_keeps hP
    | split

theorem State.lexWrite_keeps {P : State → Prop} (hP : Closed P) {s : State} (e : Nat) (ofs : Nat) (val : Word) (hs : P s) :
    P (State.lexWrite s e ofs val) := by
  unfold State.lexWrite
  try dsimp only
  repeat' first
    | intro _
    | with_reducible
        first
        | assumption | apply State.ctxEnWrite_keeps hP | apply State.ctxHoldWrite_keeps hP
        | apply State.plainWrite_keeps hP | apply State.cqPush_keeps hP | apply State.moveWrite_keeps hP
        | apply State.testWrite_keeps hP | apply State.ctxRegWrite_keeps hP
    | split

theorem State.legPgWrite_keeps {P : State → Prop} (hP : Closed P) {s : State} (k : Nat) (ofs : Nat) (val : Word) (hs : P s) :
    P (State.legPgWrite s k ofs val) := by
  unfold State.legPgWrite
  try dsimp only
  repeat' first
    | intro _
    | with_reducible
        first
        | assumption | apply ite_keeps | apply id_keeps | apply State.islCfgWrite_keeps hP
        | apply State.fltClr_keeps hP | apply State.noCmd_keeps hP | apply State.islTest_keeps hP
        | apply State.busPolWrite_keeps hP | apply State.judge_keeps hP | apply State.plainWrite_keeps hP
    | split

theorem State.mcxWrite_keeps {P : State → Prop} (hP : Closed P) {s : State} (ofs : Nat) (val : Word) (hs : P s) :
    P (State.mcxWrite s ofs val) := by
  unfold State.mcxWrite
  try dsimp only
  repeat' first
    | intro _
    | with_reducible
        first
        | assumption | apply ite_keeps | apply State.plainWrite_keeps hP | apply State.mcxCfgWrite_keeps hP
        | apply State.judge_keeps hP | apply State.tblAccess_keeps hP | apply State.chopClear_keeps hP
        | apply State.rsvCfgWrite_keeps hP | apply State.encCfgWrite_keeps hP | apply State.after_keeps hP
        | apply State.noCmd_keeps hP | apply State.machCfgWrite_keeps hP | apply State.machCmd_keeps hP
        | apply State.chopCfgWrite_keeps hP
    | split
    | (with_reducible apply execEncAlign_keeps hP; with_reducible assumption)

theorem State.pairWrite_keeps {P : State → Prop} (hP : Closed P) {s : State} (p : Nat) (ofs : Nat) (val : Word) (hs : P s) :
    P (State.pairWrite s p ofs val) := by
  unfold State.pairWrite
  try dsimp only
  repeat' first
    | intro _
    | with_reducible
        first
        | assumption | apply ite_keeps | apply State.pcfgWrite_keeps hP | apply State.gainWrite_keeps hP
        | apply State.judge_keeps hP | apply State.segGo_keeps hP | apply State.urg0Write_keeps hP
        | apply State.urgSwWrite_keeps hP | apply State.bufCfgWrite_keeps hP | apply State.calWrite_keeps hP
        | apply State.calGo_keeps hP | apply State.noCmd_keeps hP | apply State.segWrite_keeps hP
        | apply State.seqWrite_keeps hP | apply State.strWrite_keeps hP | apply State.plainWrite_keeps hP
    | split

theorem State.blkWrite_keeps {P : State → Prop} (hP : Closed P) {s : State} (ofs : Nat) (val : Word) (hs : P s) :
    P (State.blkWrite s ofs val) := by
  unfold State.blkWrite
  try dsimp only
  repeat' first
    | with_reducible
        first
        | assumption | apply State.blkCfgWrite_keeps hP | apply State.blkTmoWrite_keeps hP
        | apply State.plainWrite_keeps hP
    | split

theorem State.laneWrite_keeps {P : State → Prop} (hP : Closed P) {s : State} (n : Nat) (ofs : Nat) (val : Word) (hs : P s) :
    P (State.laneWrite s n ofs val) := by
  unfold State.laneWrite
  try dsimp only
  repeat' first
    | with_reducible
        first
        | assumption | apply State.laneCfgWrite_keeps hP | apply State.laneTxeqWrite_keeps hP
        | apply State.creqWrite_keeps hP | apply State.plainWrite_keeps hP
    | split

theorem State.trlWrite_keeps {P : State → Prop} (hP : Closed P) {s : State} (ofs : Nat) (val : Word) (hs : P s) :
    P (State.trlWrite s ofs val) := by
  unfold State.trlWrite
  try dsimp only
  repeat' first
    | with_reducible
        first
        | assumption | apply State.trlCfgWrite_keeps hP | apply State.rediscWrite_keeps hP
        | apply State.plainWrite_keeps hP | apply State.fcfgWrite_keeps hP
    | split

theorem State.stlWrite_keeps {P : State → Prop} (hP : Closed P) {s : State} (ofs : Nat) (val : Word) (hs : P s) :
    P (State.stlWrite s ofs val) := by
  unfold State.stlWrite
  try dsimp only
  repeat' first
    | intro _
    | with_reducible
        first
        | assumption | apply ite_keeps | apply State.stlCfgWrite_keeps hP | apply State.stlTmoWrite_keeps hP
        | apply State.stlCmd_keeps hP | apply State.after_keeps hP | apply State.noCmd_keeps hP
        | apply State.mlistWrite_keeps hP | apply State.plainWrite_keeps hP
    | split
    | (with_reducible apply execStlKeep_keeps hP; with_reducible assumption)

theorem State.canWrite_keeps {P : State → Prop} (hP : ClosedM P) {s : State} (c : Nat) (ofs : Nat) (val : Word) (hs : P s) :
    P (State.canWrite s c ofs val) := by
  unfold State.canWrite
  try dsimp only
  repeat' first
    | intro _
    | with_reducible
        first
        | assumption | apply ite_keeps | apply State.after_keeps hP.toClosed | apply State.noCmd_keeps hP.toClosed
        | apply State.judge_keeps hP.toClosed | apply State.take_keeps hP.toClosed
        | apply State.canTscRestart_keeps hP.toClosed | apply State.plainWrite_keeps hP.toClosed
        | refine State.free_keeps2 hP.toClosed ?_
    | split
    | (with_reducible apply execCanRestart_keeps hP.toClosed; with_reducible assumption)
    | (with_reducible apply execRxqAck_keeps hP; with_reducible assumption)
    | (with_reducible apply execTxqPush_keeps hP.toClosed; with_reducible assumption)
    | (with_reducible apply State.free_keeps hP.toClosed; with_reducible assumption)
    | (with_reducible apply execTxqAbort_keeps hP; with_reducible assumption)

theorem State.ethWrite_keeps {P : State → Prop} (hP : Closed P) {s : State} (p : Nat) (ofs : Nat) (val : Word) (hs : P s) :
    P (State.ethWrite s p ofs val) := by
  unfold State.ethWrite
  try dsimp only
  repeat' first
    | intro _
    | with_reducible
        first
        | assumption | apply ite_keeps | apply State.after_keeps hP | apply State.noCmd_keeps hP
        | apply State.iff_keeps hP | apply State.plainWrite_keeps hP | apply State.ethRing_keeps hP
    | split
    | (with_reducible apply execTxKick_keeps hP; with_reducible assumption)
    | (with_reducible apply execPtpIncWrite_keeps hP; with_reducible assumption)
    | (with_reducible apply execPtpAdj_keeps hP; with_reducible assumption)
    | (with_reducible apply execPtpSet_keeps hP; with_reducible assumption)
    | (with_reducible apply execPtpCapture_keeps hP; with_reducible assumption)
    | (with_reducible apply execPtpValidWrite_keeps hP; with_reducible assumption)
    | (with_reducible apply execTsqPop_keeps hP; with_reducible assumption)
    | (with_reducible apply execMdioGo_keeps hP; with_reducible assumption)

theorem State.secWrite_keeps {P : State → Prop} (hP : Closed P) {s : State} (ofs : Nat) (val : Word) (hs : P s) :
    P (State.secWrite s ofs val) := by
  unfold State.secWrite
  try dsimp only
  repeat' first
    | intro _
    | with_reducible
        first
        | assumption | apply ite_keeps | apply State.after_keeps hP | apply State.plainWrite_keeps hP
    | split
    | (with_reducible apply execLcReq_keeps hP; with_reducible assumption)
    | (with_reducible apply execDbgClose_keeps hP; with_reducible assumption)
    | (with_reducible apply execDbgOpen_keeps hP; with_reducible assumption)
    | (with_reducible apply execDbgAuth_keeps hP; with_reducible assumption)
    | (with_reducible apply execRbAdv_keeps hP; with_reducible assumption)
    | (with_reducible apply execKprovRevoke_keeps hP; with_reducible assumption)
    | (with_reducible apply execKprov_keeps hP; with_reducible assumption)
    | (with_reducible apply execChalNew_keeps hP; with_reducible assumption)

theorem State.nvlWrite_keeps {P : State → Prop} (hP : Closed P) {s : State} (ofs : Nat) (val : Word) (hs : P s) :
    P (State.nvlWrite s ofs val) := by
  unfold State.nvlWrite
  try dsimp only
  repeat' first
    | intro _
    | with_reducible
        first
        | assumption | apply ite_keeps | apply id_keeps | apply State.judge_keeps hP | apply State.nvlStart_keeps hP
        | apply State.after_keeps hP | apply State.noCmd_keeps hP | apply State.rcvCfgWrite_keeps hP
        | apply State.plainWrite_keeps hP | apply State.heartWrite_keeps hP | apply State.nvlResetWrite_keeps hP
    | split
    | (with_reducible apply execLogSelect_keeps hP; with_reducible assumption)
    | (with_reducible apply execLogPut_keeps hP; with_reducible assumption)

theorem State.blockWrite_keeps {P : State → Prop} (hP : ClosedG P) {s : State} (k : PageKind) (i : Nat) (ofs : Nat) (val : Word) (hs : P s) :
    P (State.blockWrite s k i ofs val) := by
  unfold State.blockWrite
  try dsimp only
  repeat' first
    | intro _
    | with_reducible
        first
        | assumption | apply ite_keeps | apply id_keeps | apply State.judge_keeps hP.toClosed
        | apply State.clkWrite_keeps hP.toClosed | apply State.pllWrite_keeps hP.toClosed
        | apply State.pwrWrite_keeps hP | apply State.rtcWrite_keeps hP.toClosed
        | apply State.plainWrite_keeps hP.toClosed | apply State.thmWrite_keeps hP.toClosed
        | apply State.memWrite_keeps hP.toClosedM | apply State.icxWrite_keeps hP.toClosed
        | apply State.dmaWriteReg_keeps hP.toClosed | apply State.intcWrite_keeps hP.toClosed
        | apply State.tbsWrite_keeps hP | apply State.modcWrite_keeps hP.toClosed
        | apply State.modchWrite_keeps hP.toClosed | apply State.lpwWrite_keeps hP.toClosed
        | apply State.trpWrite_keeps hP.toClosed | apply State.grnWrite_keeps hP.toClosed
        | apply State.dsvWrite_keeps hP.toClosed | apply State.lexWrite_keeps hP.toClosed
        | apply State.legPgWrite_keeps hP.toClosed | apply State.mcxWrite_keeps hP.toClosed
        | apply State.pairWrite_keeps hP.toClosed | apply State.blkWrite_keeps hP.toClosed
        | apply State.laneWrite_keeps hP.toClosed | apply State.trlWrite_keeps hP.toClosed
        | apply State.stlWrite_keeps hP.toClosed | apply State.canWrite_keeps hP.toClosedM
        | apply State.ethWrite_keeps hP.toClosed | apply State.secWrite_keeps hP.toClosed
        | apply State.nvlWrite_keeps hP.toClosed | apply State.after_keeps hP.toClosed
    | split
    | (with_reducible apply execPinQuery_keeps hP.toClosed; with_reducible assumption)

theorem State.periWrite_keeps {P : State → Prop} (hP : ClosedG P) {s sN : State} (a : Nat) (val : Word) (he : State.periWrite s a val = some sN) (hs : P s) : P sN := by
  unfold State.periWrite at he
  try dsimp only at he
  repeat' (split at he)
  all_goals (first | cases (Option.some.inj he) | exact absurd he (by simp))
  repeat' first
    | with_reducible
        first
        | assumption | apply ite_keeps | apply State.headWrite_keeps hP.toClosedM | apply State.blockWrite_keeps hP
    | split

theorem execRegWrite_keeps {P : State → Prop} (hP : ClosedG P) {s sN : State} (addr bytes : Nat) (val : Word)
    (he : execRegWrite addr bytes val s = .next sN) (hs : P s) : P sN := by
  unfold execRegWrite at he
  injection he with he
  subst he
  refine ite_keeps (State.masterWrite_keeps hP.toClosedM _ _ hs) ?_
  split
  · next h =>
    split at h
    · with_reducible apply hP.toClosed.upd
      exact State.periWrite_keeps hP _ _ h hs
    · exact absurd h (by simp)
  · with_reducible apply hP.toClosed.upd
    exact hs

theorem State.lineCtrl_keeps {P : State → Prop} (hP : ClosedM P) {s : State} (l : Nat) (val : Word) (hs : P s) :
    P (State.lineCtrl s l val) := by
  unfold State.lineCtrl
  try dsimp only
  repeat' first
    | with_reducible
        first
        | assumption | apply State.ctrlWrite_keeps hP

theorem execPageReinit_keeps {P : State → Prop} (hP : ClosedM P) {s sN : State} (line : Fin 130) (val : Word) (he : execPageReinit line val s = .next sN) (hs : P s) : P sN := by
  unfold execPageReinit at he
  try dsimp only at he
  repeat' (split at he)
  all_goals (injection he with he <;> subst he)
  repeat' first
    | with_reducible
        first
        | assumption | apply State.lineCtrl_keeps hP

theorem execPageLock_keeps {P : State → Prop} (hP : ClosedM P) {s sN : State} (line : Fin 130) (val : Word) (he : execPageLock line val s = .next sN) (hs : P s) : P sN := by
  unfold execPageLock at he
  try dsimp only at he
  repeat' (split at he)
  all_goals (injection he with he <;> subst he)
  repeat' first
    | with_reducible
        first
        | assumption | apply State.lineCtrl_keeps hP

theorem execCtrlEnWrite_keeps {P : State → Prop} (hP : ClosedM P) {s sN : State} (line : Fin 130) (val : Word) (he : execCtrlEnWrite line val s = .next sN) (hs : P s) : P sN := by
  unfold execCtrlEnWrite at he
  try dsimp only at he
  repeat' (split at he)
  all_goals (injection he with he <;> subst he)
  repeat' first
    | with_reducible
        first
        | assumption | apply State.lineCtrl_keeps hP

theorem execIrqPendClear_keeps {P : State → Prop} (hP : Closed P) {s sN : State} (line : Fin 130) (mask : Word) (he : execIrqPendClear line mask s = .next sN) (hs : P s) : P sN := by
  unfold execIrqPendClear at he
  try dsimp only at he
  repeat' (split at he)
  all_goals (injection he with he <;> subst he)
  repeat' first
    | with_reducible
        first
        | assumption | apply State.pendClear_keeps hP

theorem State.pageRead_keeps {P : State → Prop} (hP : Closed P) {s sN : State} (a : Nat) {r : Word}
    (he : s.pageRead a = some (r, sN)) (hs : P s) : P sN := by
  unfold State.pageRead at he
  split at he
  · exact absurd he (by simp)
  split at he
  · exact absurd he (by simp)
  dsimp only at he
  split at he <;> first
    | (have e := (Prod.mk.inj (Option.some.inj he)).2; subst e; exact hs)
    | skip
  · have e := (Prod.mk.inj (Option.some.inj he)).2
    subst e
    with_reducible apply hP.upd
    exact hs
  · split at he
    · have e := (Prod.mk.inj (Option.some.inj he)).2
      subst e
      exact State.iff_keeps hP _ _ (fun s h => State.set_keeps hP _ _ h) hs
    · split at he
      · have e := (Prod.mk.inj (Option.some.inj he)).2
        subst e
        with_reducible apply hP.upd
        exact State.tblAccess_keeps hP _ _ hs
      · have e := (Prod.mk.inj (Option.some.inj he)).2
        subst e
        exact hs

theorem State.dmaWord_keeps {P : State → Prop} (hP : ClosedG P) {s sN : State} (n src dst : Nat) {r : Option Word}
    (he : s.dmaWord n src dst = (r, sN)) (hs : P s) : P sN := by
  unfold State.dmaWord at he
  split at he
  · exact (Prod.mk.inj he).2 ▸ State.dmaStop_keeps hP.toClosed _ _ hs
  split at he
  · exact (Prod.mk.inj he).2 ▸ State.dmaStop_keeps hP.toClosed _ _ hs
  next w t h =>
  have ht : P t := by
    split at h
    · exact State.pageRead_keeps hP.toClosed _ h hs
    · obtain ⟨b, -, e⟩ := Option.map_eq_some_iff.1 h
      exact (Prod.mk.inj e).2 ▸ hs
  split at he
  · exact (Prod.mk.inj he).2 ▸ State.dmaStop_keeps hP.toClosed _ _ ht
  split at he
  · exact (Prod.mk.inj he).2 ▸ State.dmaStop_keeps hP.toClosed _ _ ht
  next u h2 =>
  have hu : P u := by
    split at h2
    · exact State.periWrite_keeps hP _ _ h2 ht
    · exact State.masterPut_keeps hP.toClosedM _ _ h2 ht
  exact (Prod.mk.inj he).2 ▸ hu

theorem State.dmaWords_keeps2 {P : State → Prop} (hP : ClosedG P) {s : State} (n src dst : Nat) :
    ∀ (k i : Nat), P s → P (s.dmaWords n src dst k i).2 := by
  intro k
  induction k generalizing s with
  | zero => exact fun _ h => h
  | succ k ih =>
    intro i hs
    unfold State.dmaWords
    split
    · next h => exact ih _ (State.dmaWord_keeps hP _ _ _ h hs)
    · next h => exact State.dmaWord_keeps hP _ _ _ h hs

theorem execDmaDone_keeps {P : State → Prop} (hP : ClosedG P) {s sN : State} (n : Fin 32)
    (he : execDmaDone n s = .next sN) (hs : P s) : P sN := by
  unfold execDmaDone at he
  split at he
  · injection he with he
    exact he ▸ hs
  · dsimp only at he
    injection he with he
    subst he
    refine State.modPwr_keeps hP.toClosed _ ?_
    have key : P { s.modPwr (fun x => { x with slp := none }) with dmaN := s.dmaN.filter (· != n.val) } := by
      have h1 := State.modPwr_keeps (s := s) hP.toClosed (fun x => { x with slp := none }) hs
      with_reducible apply hP.toClosed.upd
      exact h1
    split
    · exact State.irq_keeps hP.toClosed _ _ (State.set_keeps hP.toClosed _ _ (State.set_keeps hP.toClosed _ _
        (State.dmaWords_keeps2 hP _ _ _ _ _ key)))
    · exact State.dmaWords_keeps2 hP _ _ _ _ _ key

end Sys2Proof.Machine
end

