-- ==== Sys2Proof/Laws/KeepsExec.lean ====
section
/-! SUPPORT. Every command keeps every property the primitive updates keep, and so does a step. -/

namespace Sys2Proof.Machine

/-- A property no primitive update breaks is kept by every command. -/
theorem exec_keeps {P : State → Prop} (hP : ClosedG P) {s t : State} (c : Instr) (he : exec c s = .next t) (hs : P s) :
    P t := by
  cases c with
  | regWrite addr bytes val => exact execRegWrite_keeps hP addr bytes val he hs
  | pageReinit line val => exact execPageReinit_keeps hP.toClosedM line val he hs
  | pageLock line val => exact execPageLock_keeps hP.toClosedM line val he hs
  | ctrlEnWrite line val => exact execCtrlEnWrite_keeps hP.toClosedM line val he hs
  | irqPendClear line mask => exact execIrqPendClear_keeps hP.toClosed line mask he hs
  | periodBoundary load hi port => exact execPeriodBoundary_keeps hP load hi port he hs
  | uplinkWindowClose => exact execUplinkWindowClose_keeps hP he hs
  | leWindowClose => exact execLeWindowClose_keeps hP he hs
  | gdWindowClose => exact execGdWindowClose_keeps hP he hs
  | dlWindowClose unsent => exact execDlWindowClose_keeps hP unsent he hs
  | periodWrite val => exact execPeriodWrite_keeps hP.toClosed val he hs
  | periodChangeReceipt period at_ => exact execPeriodChangeReceipt_keeps hP.toClosed period at_ he hs
  | periodChangeApply => exact execPeriodChangeApply_keeps hP.toClosed he hs
  | p3Starve wait => exact execP3Starve_keeps hP.toClosed wait he hs
  | boundViol cls wait => exact execBoundViol_keeps hP.toClosed cls wait he hs
  | p3StarveCntClear => exact execP3StarveCntClear_keeps hP.toClosed he hs
  | stkEnable k val => exact execStkEnable_keeps hP.toClosed k val he hs
  | stkDisable k val => exact execStkDisable_keeps hP.toClosed k val he hs
  | stkModeWrite k val => exact execStkModeWrite_keeps hP.toClosed k val he hs
  | cellStkWrite k val => exact execCellStkWrite_keeps hP.toClosed k val he hs
  | cellCmdBypass cell => exact execCellCmdBypass_keeps hP.toClosed cell he hs
  | cellCmdReinsert cell => exact execCellCmdReinsert_keeps hP.toClosed cell he hs
  | cellCmdSpare cell => exact execCellCmdSpare_keeps hP.toClosed cell he hs
  | cellCmdTest cell => exact execCellCmdTest_keeps hP.toClosed cell he hs
  | cellCmdClear cell => exact execCellCmdClear_keeps hP.toClosed cell he hs
  | cellCmdRelease cell => exact execCellCmdRelease_keeps hP.toClosed cell he hs
  | stkCmdPrecharge k => exact execStkCmdPrecharge_keeps hP.toClosed k he hs
  | stkCmdRun k => exact execStkCmdRun_keeps hP.toClosed k he hs
  | stkCmdStop k => exact execStkCmdStop_keeps hP.toClosed k he hs
  | stkCmdUnblock k => exact execStkCmdUnblock_keeps hP.toClosed k he hs
  | gapIn => exact execGapIn_keeps hP.toClosed he hs
  | gapOut => exact execGapOut_keeps hP.toClosed he hs
  | bypFail n => exact execBypFail_keeps hP.toClosed n he hs
  | overloadLimit n => exact execOverloadLimit_keeps hP.toClosed n he hs
  | overloadRelease n => exact execOverloadRelease_keeps hP.toClosed n he hs
  | dsvSolve => exact execDsvSolve_keeps hP.toClosed he hs
  | dsvCellEnable n => exact execDsvCellEnable_keeps hP.toClosed n he hs
  | dsvCellDisable n => exact execDsvCellDisable_keeps hP.toClosed n he hs
  | parCommit cell => exact execParCommit_keeps hP.toClosed cell he hs
  | parDone => exact execParDone_keeps hP.toClosed he hs
  | carrierValley ch => exact execCarrierValley_keeps hP.toClosed ch he hs
  | carrierPeak ch => exact execCarrierPeak_keeps hP.toClosed ch he hs
  | chPrdWrite ch val => exact execChPrdWrite_keeps hP.toClosed ch val he hs
  | legEnable k val => exact execLegEnable_keeps hP.toClosed k val he hs
  | legDisable k val => exact execLegDisable_keeps hP.toClosed k val he hs
  | tripInput n level held => exact execTripInput_keeps hP.toClosed n level held he hs
  | trpSwtrip => exact execTrpSwtrip_keeps hP.toClosed he hs
  | trpFlagClear internal mask => exact execTrpFlagClear_keeps hP.toClosed internal mask he hs
  | trpRearm mask => exact execTrpRearm_keeps hP.toClosed mask he hs
  | tripInputEnable val => exact execTripInputEnable_keeps hP.toClosed val he hs
  | halt src => exact execHalt_keeps hP.toClosed src he hs
  | clockStop => exact execClockStop_keeps hP.toClosed he hs
  | haltEnd src => exact execHaltEnd_keeps hP.toClosed src he hs
  | laneEnable n val => exact execLaneEnable_keeps hP.toClosed n val he hs
  | laneDisable n val => exact execLaneDisable_keeps hP.toClosed n val he hs
  | blockLock rx => exact execBlockLock_keeps hP.toClosed rx he hs
  | blockLockLoss rx => exact execBlockLockLoss_keeps hP.toClosed rx he hs
  | helloTimer n => exact execHelloTimer_keeps hP.toClosed n he hs
  | helloRx n f => exact execHelloRx_keeps hP.toClosed n f he hs
  | helloTmo n => exact execHelloTmo_keeps hP.toClosed n he hs
  | echoReplyRx n eid turn rtt => exact execEchoReplyRx_keeps hP.toClosed n eid turn rtt he hs
  | echoTimeout n => exact execEchoTimeout_keeps hP.toClosed n he hs
  | measureLimit n => exact execMeasureLimit_keeps hP.toClosed n he hs
  | sopenRetry n => exact execSopenRetry_keeps hP.toClosed n he hs
  | sackRx n f => exact execSackRx_keeps hP.toClosed n f he hs
  | cfgackRx n f => exact execCfgackRx_keeps hP.toClosed n f he hs
  | cfgAckTimeout n => exact execCfgAckTimeout_keeps hP.toClosed n he hs
  | statusRx n f => exact execStatusRx_keeps hP.toClosed n f he hs
  | statMiss n => exact execStatMiss_keeps hP.toClosed n he hs
  | downRetry n => exact execDownRetry_keeps hP.toClosed n he hs
  | tmarkSend n => exact execTmarkSend_keeps hP.toClosed n he hs
  | dtCfgSend n => exact execDtCfgSend_keeps hP.toClosed n he hs
  | creqGo n val => exact execCreqGo_keeps hP.toClosed n val he hs
  | prbsStart n val => exact execPrbsStart_keeps hP.toClosed n val he hs
  | prbsEnd n errs => exact execPrbsEnd_keeps hP.toClosed n errs he hs
  | sscSet val => exact execSscSet_keeps hP.toClosed val he hs
  | ctxEnable e mask => exact execCtxEnable_keeps hP.toClosed e mask he hs
  | scanComplete e k => exact execScanComplete_keeps hP.toClosed e k he hs
  | ctxDisable e mask => exact execCtxDisable_keeps hP.toClosed e mask he hs
  | ctxHoldSet e mask => exact execCtxHoldSet_keeps hP.toClosed e mask he hs
  | ctxHoldClear e mask => exact execCtxHoldClear_keeps hP.toClosed e mask he hs
  | contextStart e => exact execContextStart_keeps hP.toClosed e he hs
  | leEnd e => exact execLeEnd_keeps hP.toClosedM e he hs
  | leNop e => exact execLeNop_keeps hP.toClosed e he hs
  | leLil e vd imm => exact execLeLil_keeps hP.toClosed e vd imm he hs
  | leLih e vd imm => exact execLeLih_keeps hP.toClosed e vd imm he hs
  | leMov e vd va => exact execLeMov_keeps hP.toClosed e vd va he hs
  | leCvt e vd va t => exact execLeCvt_keeps hP.toClosed e vd va t he hs
  | leAdd e vd va vb t => exact execLeAdd_keeps hP.toClosed e vd va vb t he hs
  | leSub e vd va vb t => exact execLeSub_keeps hP.toClosed e vd va vb t he hs
  | leMul e vd va vb t => exact execLeMul_keeps hP.toClosed e vd va vb t he hs
  | leMac e vd va vb t => exact execLeMac_keeps hP.toClosed e vd va vb t he hs
  | leDiv e vd va vb t => exact execLeDiv_keeps hP.toClosed e vd va vb t he hs
  | leSqrt e vd va t => exact execLeSqrt_keeps hP.toClosed e vd va t he hs
  | leAbs e vd va t => exact execLeAbs_keeps hP.toClosed e vd va t he hs
  | leNeg e vd va t => exact execLeNeg_keeps hP.toClosed e vd va t he hs
  | leMin e vd va vb t => exact execLeMin_keeps hP.toClosed e vd va vb t he hs
  | leMax e vd va vb t => exact execLeMax_keeps hP.toClosed e vd va vb t he hs
  | leAddi e vd va imm => exact execLeAddi_keeps hP.toClosed e vd va imm he hs
  | leAnd e vd va vb => exact execLeAnd_keeps hP.toClosed e vd va vb he hs
  | leOr e vd va vb => exact execLeOr_keeps hP.toClosed e vd va vb he hs
  | leXor e vd va vb => exact execLeXor_keeps hP.toClosed e vd va vb he hs
  | leSha e vd va imm => exact execLeSha_keeps hP.toClosed e vd va imm he hs
  | leLds e vd idx => exact execLeLds_keeps hP.toClosed e vd idx he hs
  | leSts e vd idx => exact execLeSts_keeps hP.toClosed e vd idx he hs
  | leLdc e vd idx => exact execLeLdc_keeps hP.toClosed e vd idx he hs
  | leLdm e vd va imm => exact execLeLdm_keeps hP.toClosed e vd va imm he hs
  | leStm e vd va imm => exact execLeStm_keeps hP.toClosedM e vd va imm he hs
  | leIn e vd idx wait => exact execLeIn_keeps hP.toClosed e vd idx wait he hs
  | leOut e vd idx => exact execLeOut_keeps hP.toClosed e vd idx he hs
  | leGetf e vd => exact execLeGetf_keeps hP.toClosed e vd he hs
  | leBr e off => exact execLeBr_keeps hP.toClosed e off he hs
  | leBc e va vb cond t off => exact execLeBc_keeps hP.toClosed e va vb cond t off he hs
  | leBinit e off => exact execLeBinit_keeps hP.toClosed e off he hs
  | leLoop e n len => exact execLeLoop_keeps hP.toClosed e n len he hs
  | lePi e vd va sb cb ff => exact execLePi_keeps hP.toClosed e vd va sb cb ff he hs
  | lePid e vd va sb cb ff => exact execLePid_keeps hP.toClosed e vd va sb cb ff he hs
  | leBiq e vd va sb cb => exact execLeBiq_keeps hP.toClosed e vd va sb cb he hs
  | leLlag e vd va sb cb => exact execLeLlag_keeps hP.toClosed e vd va sb cb he hs
  | leLim e vd va cb dpri => exact execLeLim_keeps hP.toClosed e vd va cb dpri he hs
  | leSat e vd va cb t => exact execLeSat_keeps hP.toClosed e vd va cb t he hs
  | leRamp e vd va sb cb => exact execLeRamp_keeps hP.toClosed e vd va sb cb he hs
  | leTlu e vd va cb => exact execLeTlu_keeps hP.toClosed e vd va cb he hs
  | leClarke e vd va two => exact execLeClarke_keeps hP.toClosed e vd va two he hs
  | lePark e vd va => exact execLePark_keeps hP.toClosed e vd va he hs
  | leIpark e vd va => exact execLeIpark_keeps hP.toClosed e vd va he hs
  | leSincos e vd va => exact execLeSincos_keeps hP.toClosed e vd va he hs
  | leObsv e vd va sb cb => exact execLeObsv_keeps hP.toClosed e vd va sb cb he hs
  | leHandover e vd va sb cb ang trk => exact execLeHandover_keeps hP.toClosed e vd va sb cb ang trk he hs
  | cqPush e val => exact execCqPush_keeps hP.toClosed e val he hs
  | ctxMove e val => exact execCtxMove_keeps hP.toClosed e val he hs
  | moveCheckDone e => exact execMoveCheckDone_keeps hP.toClosed e he hs
  | engineTest e val => exact execEngineTest_keeps hP.toClosed e val he hs
  | engineTestDone e pass => exact execEngineTestDone_keeps hP.toClosed e pass he hs
  | machineEnable m val => exact execMachineEnable_keeps hP.toClosed m val he hs
  | machineDisable m val => exact execMachineDisable_keeps hP.toClosed m val he hs
  | machRun m => exact execMachRun_keeps hP.toClosed m he hs
  | machStop m => exact execMachStop_keeps hP.toClosed m he hs
  | machAsc m => exact execMachAsc_keeps hP.toClosed m he hs
  | machInhibit m => exact execMachInhibit_keeps hP.toClosed m he hs
  | machClear m => exact execMachClear_keeps hP.toClosed m he hs
  | mcxCompare m => exact execMcxCompare_keeps hP.toClosed m he hs
  | mcxEvaluation => exact execMcxEvaluation_keeps hP.toClosed he hs
  | loss m => exact execLoss_keeps hP.toClosed m he hs
  | reacq m => exact execReacq_keeps hP.toClosed m he hs
  | extrapTimeout m => exact execExtrapTimeout_keeps hP.toClosed m he hs
  | ctxLost m => exact execCtxLost_keeps hP.toClosed m he hs
  | rgnViol m => exact execRgnViol_keeps hP.toClosed m he hs
  | prechgStep m => exact execPrechgStep_keeps hP.toClosed m he hs
  | chopperEnable u val => exact execChopperEnable_keeps hP.toClosed u val he hs
  | chopperDisable u val => exact execChopperDisable_keeps hP.toClosed u val he hs
  | chopperCheck u n => exact execChopperCheck_keeps hP.toClosed u n he hs
  | chfAscTimeout => exact execChfAscTimeout_keeps hP.toClosed he hs
  | chopperClear mask => exact execChopperClear_keeps hP.toClosed mask he hs
  | sineSwap val => exact execSineSwap_keeps hP.toClosed val he hs
  | tblDataAccess write val => exact execTblDataAccess_keeps hP.toClosed write val he hs
  | resolverEnable val => exact execResolverEnable_keeps hP.toClosed val he hs
  | resolverPeak sinC cosC => exact execResolverPeak_keeps hP.toClosed sinC cosC he hs
  | encoderEnable val => exact execEncoderEnable_keeps hP.toClosed val he hs
  | encoderEdge a b z => exact execEncoderEdge_keeps hP.toClosed a b z he hs
  | encAlign => exact execEncAlign_keeps hP.toClosed he hs
  | encSpeedTimeout => exact execEncSpeedTimeout_keeps hP.toClosed he hs
  | islandEnable k => exact execIslandEnable_keeps hP.toClosed k he hs
  | islandCmdChange k h l => exact execIslandCmdChange_keeps hP.toClosed k h l he hs
  | interlockVerify k high => exact execInterlockVerify_keeps hP.toClosed k high he hs
  | ilTmo k high => exact execIlTmo_keeps hP.toClosed k high he hs
  | blankEnd k high above => exact execBlankEnd_keeps hP.toClosed k high above he hs
  | dsatDetect k high => exact execDsatDetect_keeps hP.toClosed k high he hs
  | govDetect k high => exact execGovDetect_keeps hP.toClosed k high he hs
  | softOffEnd k high => exact execSoftOffEnd_keeps hP.toClosed k high he hs
  | supUv k pos neg => exact execSupUv_keeps hP.toClosed k pos neg he hs
  | bstCharged k => exact execBstCharged_keeps hP.toClosed k he hs
  | bstLost k => exact execBstLost_keeps hP.toClosed k he hs
  | adaptStep k kind time => exact execAdaptStep_keeps hP.toClosed k kind time he hs
  | fltClr k => exact execFltClr_keeps hP.toClosed k he hs
  | faultReport k => exact execFaultReport_keeps hP.toClosed k he hs
  | staggeredSoftOff k high => exact execStaggeredSoftOff_keeps hP.toClosed k high he hs
  | islandTest k => exact execIslandTest_keeps hP.toClosed k he hs
  | islandTestDone k fail => exact execIslandTestDone_keeps hP.toClosed k fail he hs
  | segmentTrigger p k => exact execSegmentTrigger_keeps hP.toClosed p k he hs
  | segGo p mask => exact execSegGo_keeps hP.toClosed p mask he hs
  | entryIssue p => exact execEntryIssue_keeps hP.toClosed p he hs
  | conversionDone p raw => exact execConversionDone_keeps hP.toClosed p raw he hs
  | urgentRequest p src u => exact execUrgentRequest_keeps hP.toClosed p src u he hs
  | urgSwGo p val => exact execUrgSwGo_keeps hP.toClosed p val he hs
  | urgentIssue p => exact execUrgentIssue_keeps hP.toClosed p he hs
  | adcCalibrate p => exact execAdcCalibrate_keeps hP.toClosed p he hs
  | calDone p calA calB skew => exact execCalDone_keeps hP.toClosed p calA calB skew he hs
  | bufWordWritten p => exact execBufWordWritten_keeps hP.toClosedM p he hs
  | trlLaneEnable k => exact execTrlLaneEnable_keeps hP.toClosed k he hs
  | trlLaneUp k hdrs msgs echoes => exact execTrlLaneUp_keeps hP k hdrs msgs echoes he hs
  | neighbourSend k => exact execNeighbourSend_keeps hP k he hs
  | neighbourMsgRx k msg => exact execNeighbourMsgRx_keeps hP k msg he hs
  | neighbourLoss k hdrs => exact execNeighbourLoss_keeps hP.toClosed k hdrs he hs
  | rediscGo => exact execRediscGo_keeps hP.toClosed he hs
  | rediscoveryDone r => exact execRediscoveryDone_keeps hP.toClosed r he hs
  | flowValueRx f val k => exact execFlowValueRx_keeps hP.toClosed f val k he hs
  | timeMarkSend k => exact execTimeMarkSend_keeps hP.toClosed k he hs
  | timeMarkRx k mark => exact execTimeMarkRx_keeps hP.toClosed k mark he hs
  | discAcquire => exact execDiscAcquire_keeps hP.toClosed he hs
  | discLost => exact execDiscLost_keeps hP.toClosed he hs
  | timeCapture => exact execTimeCapture_keeps hP he hs
  | timeStep => exact execTimeStep_keeps hP he hs
  | stlEnable val => exact execStlEnable_keeps hP.toClosed val he hs
  | partnerRelease => exact execPartnerRelease_keeps hP.toClosed he hs
  | partnerAssert => exact execPartnerAssert_keeps hP.toClosed he hs
  | driveAcquire => exact execDriveAcquire_keeps hP.toClosed he hs
  | settleActivate => exact execSettleActivate_keeps hP.toClosed he hs
  | keepTimeout => exact execKeepTimeout_keeps hP.toClosed he hs
  | stlKeep => exact execStlKeep_keeps hP.toClosed he hs
  | stlHandover => exact execStlHandover_keeps hP.toClosed he hs
  | stlReturnNow => exact execStlReturnNow_keeps hP.toClosed he hs
  | holdoffExpiry => exact execHoldoffExpiry_keeps hP.toClosed he hs
  | handback => exact execHandback_keeps hP.toClosed he hs
  | handoverReclaim => exact execHandoverReclaim_keeps hP.toClosed he hs
  | mirrorRx m => exact execMirrorRx_keeps hP.toClosedM m he hs
  | syncLost => exact execSyncLost_keeps hP.toClosed he hs
  | startTimeout => exact execStartTimeout_keeps hP.toClosed he hs
  | partnerStuck => exact execPartnerStuck_keeps hP.toClosed he hs
  | cfgDigest theirs => exact execCfgDigest_keeps hP.toClosed theirs he hs
  | safetySample a b rbA rbB srst => exact execSafetySample_keeps hP.toClosed a b rbA rbB srst he hs
  | safetyCycle differ bad => exact execSafetyCycle_keeps hP.toClosedM differ bad he hs
  | discFault p => exact execDiscFault_keeps hP.toClosed p he hs
  | testPulseStart o chB => exact execTestPulseStart_keeps hP.toClosed o chB he hs
  | testPulseEnd o chB offOk onOk seenA seenB => exact execTestPulseEnd_keeps hP.toClosed o chB offOk onOk seenA seenB he hs
  | srstEdge q both => exact execSrstEdge_keeps hP.toClosed q both he hs
  | evisafeRx => exact execEvisafeRx_keeps hP.toClosedM he hs
  | evisafeTx k => exact execEvisafeTx_keeps hP.toClosedM k he hs
  | evisafeTexp k => exact execEvisafeTexp_keeps hP.toClosedM k he hs
  | evisafeReopen k => exact execEvisafeReopen_keeps hP.toClosed k he hs
  | canEnable k => exact execCanEnable_keeps hP.toClosed k he hs
  | canDisable k => exact execCanDisable_keeps hP.toClosedM k he hs
  | canFrameRx k f ago => exact execCanFrameRx_keeps hP.toClosedM k f ago he hs
  | rxqAck k val => exact execRxqAck_keeps hP.toClosedM k val he hs
  | txqPush k => exact execTxqPush_keeps hP.toClosed k he hs
  | txqAbort k val sof => exact execTxqAbort_keeps hP.toClosedM k val sof he hs
  | canTxDone k res ago => exact execCanTxDone_keeps hP.toClosedM k res ago he hs
  | canError k kind tx big dat => exact execCanError_keeps hP.toClosedM k kind tx big dat he hs
  | canRestart k => exact execCanRestart_keeps hP.toClosed k he hs
  | busoffRecovered k => exact execBusoffRecovered_keeps hP.toClosed k he hs
  | ttReference k f ago => exact execTtReference_keeps hP.toClosed k f ago he hs
  | ttMasterRef k => exact execTtMasterRef_keeps hP.toClosed k he hs
  | refMiss k => exact execRefMiss_keeps hP.toClosed k he hs
  | ttTrigger k j => exact execTtTrigger_keeps hP.toClosed k j he hs
  | ethEnable p => exact execEthEnable_keeps hP.toClosed p he hs
  | ethFrameRx p data fcs ago => exact execEthFrameRx_keeps hP.toClosedM p data fcs ago he hs
  | txKick p => exact execTxKick_keeps hP.toClosed p he hs
  | ethTxDone p ok ago => exact execEthTxDone_keeps hP.toClosedM p ok ago he hs
  | linkChange p up speed an => exact execLinkChange_keeps hP.toClosedM p up speed an he hs
  | ptpIncWrite p val => exact execPtpIncWrite_keeps hP.toClosed p val he hs
  | ptpAdj p val => exact execPtpAdj_keeps hP.toClosed p val he hs
  | ptpSet p => exact execPtpSet_keeps hP.toClosed p he hs
  | ptpCapture p => exact execPtpCapture_keeps hP.toClosed p he hs
  | tsqPop p => exact execTsqPop_keeps hP.toClosed p he hs
  | ptpValidWrite p v => exact execPtpValidWrite_keeps hP.toClosed p v he hs
  | mdioGo p val => exact execMdioGo_keeps hP.toClosed p val he hs
  | mdioDone p data => exact execMdioDone_keeps hP.toClosed p data he hs
  | clkGateWrite val => exact execClkGateWrite_keeps hP.toClosed val he hs
  | clockMonitor fail => exact execClockMonitor_keeps hP.toClosed fail he hs
  | xtFail => exact execXtFail_keeps hP.toClosed he hs
  | pllLocked n band => exact execPllLocked_keeps hP.toClosed n band he hs
  | pllLol n => exact execPllLol_keeps hP.toClosed n he hs
  | pwrCmdRun => exact execPwrCmdRun_keeps hP.toClosed he hs
  | pwrCmdHold => exact execPwrCmdHold_keeps hP.toClosed he hs
  | pwrCmdDoze => exact execPwrCmdDoze_keeps hP.toClosed he hs
  | pwrCmdSleep => exact execPwrCmdSleep_keeps hP.toClosed he hs
  | pwrCmdOff => exact execPwrCmdOff_keeps hP he hs
  | dozeWake => exact execDozeWake_keeps hP.toClosed he hs
  | wakeEvent src => exact execWakeEvent_keeps hP src he hs
  | wakeDone t => exact execWakeDone_keeps hP t he hs
  | arm key => exact execArm_keeps hP.toClosed key he hs
  | disarm key => exact execDisarm_keeps hP.toClosed key he hs
  | vinSample v => exact execVinSample_keeps hP.toClosed v he hs
  | lcReq target => exact execLcReq_keeps hP.toClosed target he hs
  | lcDone => exact execLcDone_keeps hP he hs
  | chalNew => exact execChalNew_keeps hP.toClosed he hs
  | serviceExpiry => exact execServiceExpiry_keeps hP.toClosed he hs
  | kprov kid => exact execKprov_keeps hP.toClosed kid he hs
  | keyDone => exact execKeyDone_keeps hP.toClosed he hs
  | kprovRevoke kid => exact execKprovRevoke_keeps hP.toClosed kid he hs
  | dbgClose => exact execDbgClose_keeps hP.toClosed he hs
  | dbgOpen => exact execDbgOpen_keeps hP.toClosed he hs
  | dbgAuth => exact execDbgAuth_keeps hP.toClosed he hs
  | dbgExpiry => exact execDbgExpiry_keeps hP.toClosed he hs
  | rbAdv v => exact execRbAdv_keeps hP.toClosed v he hs
  | benchIlRelease => exact execBenchIlRelease_keeps hP he hs
  | masterReadCe r idx synd rake => exact execMasterReadCe_keeps hP.toClosed r idx synd rake he hs
  | masterReadUe r idx le synd chk lo hi => exact execMasterReadUe_keeps hP.toClosedM r idx le synd chk lo hi he hs
  | rakeStep r kind synd chk lo hi => exact execRakeStep_keeps hP.toClosedM r kind synd chk lo hi he hs
  | rakeSleepStep kind synd chk lo hi => exact execRakeSleepStep_keeps hP.toClosedM kind synd chk lo hi he hs
  | panLeak => exact execPanLeak_keeps hP.toClosed he hs
  | pclr r idx => exact execPclr_keeps hP.toClosedM r idx he hs
  | remapGo n page => exact execRemapGo_keeps hP.toClosed n page he hs
  | remapDone n => exact execRemapDone_keeps hP.toClosedM n he hs
  | testWrRaw => exact execTestWrRaw_keeps hP.toClosedM he hs
  | testRdRaw => exact execTestRdRaw_keeps hP.toClosed he hs
  | tempSample r => exact execTempSample_keeps hP r he hs
  | tsdSample r => exact execTsdSample_keeps hP.toClosed r he hs
  | warmReset lockstep => exact execWarmReset_keeps hP lockstep he hs
  | nvlResetWarm key => exact execNvlResetWarm_keeps hP.toClosed key he hs
  | nvlResetPcyc key => exact execNvlResetPcyc_keeps hP.toClosed key he hs
  | heart key => exact execHeart_keeps hP.toClosed key he hs
  | hbTimeout => exact execHbTimeout_keeps hP.toClosed he hs
  | pcycReq => exact execPcycReq_keeps hP.toClosed he hs
  | powerOnReset => exact execPowerOnReset_keeps hP he hs
  | brownOut => exact execBrownOut_keeps hP he hs
  | nvlRead dev => exact execNvlRead_keeps hP.toClosed dev he hs
  | nvlProg dev => exact execNvlProg_keeps hP.toClosed dev he hs
  | nvlErase dev => exact execNvlErase_keeps hP.toClosed dev he hs
  | nvlCmdDone => exact execNvlCmdDone_keeps hP.toClosedM he hs
  | logPut code => exact execLogPut_keeps hP.toClosed code he hs
  | logRecordWrite => exact execLogRecordWrite_keeps hP.toClosed he hs
  | logSelect val => exact execLogSelect_keeps hP.toClosed val he hs
  | intcClaim x => exact execIntcClaim_keeps hP.toClosed x he hs
  | intcComplete x line => exact execIntcComplete_keeps hP.toClosed x line he hs
  | dmaGo n => exact execDmaGo_keeps hP.toClosed n he hs
  | dmaDone n => exact execDmaDone_keeps hP n he hs
  | pinQuery val => exact execPinQuery_keeps hP.toClosed val he hs
  | seatedChange low => exact execSeatedChange_keeps hP low he hs
  | inputSwitchClose => exact execInputSwitchClose_keeps hP.toClosed he hs
  | masterWrite a data => exact execMasterWrite_keeps hP.toClosedM a data he hs
  | islandSupplyGood k => exact execIslandSupplyGood_keeps hP.toClosed k he hs
  | benchIlAssert => exact execBenchIlAssert_keeps hP he hs
  | ilvConversion p raw => exact execIlvConversion_keeps hP.toClosed p raw he hs
  | rtcAlarm => exact execRtcAlarm_keeps hP.toClosed he hs
  | managementMessageRx kind val => exact execManagementMessageRx_keeps hP.toClosed kind val he hs

/-- A property that is kept by every primitive update and does not speak of the queue is kept by every step. -/
theorem step_keeps {P : State → Prop} (hP : ClosedG P) (hq : ∀ s q, P s → P { s with pending := q }) {s t : State}
    (he : step s = .next t) (hs : P s) : P t := by
  unfold step at he
  split at he
  · injection he with he
    exact he ▸ hP.adv _ _ hs
  · exact exec_keeps hP _ he (hq _ _ hs)

end Sys2Proof.Machine
end

