-- ==== Sys2Proof/Tests/Slice0.lean ====
section
/-! SUPPORT. Tests: the smoke tests of well-formedness, words and check values taken from the spec, a few single steps, and for
every statement with hypotheses a state and operands that meet them, clause by clause (test_meets_<statement or part>). -/

set_option linter.unusedVariables false
set_option maxRecDepth 100000
set_option Elab.async false
open Sys2Proof Sys2Proof.Machine
namespace Sys2Proof.Tests
/-- The state after reset with some fields set. -/
def sets (l : List (Fld × Nat)) : State := l.foldl (fun s p => s.set p.1 p.2) State.reset

/-- A neighbour's message. -/
def NBR0 : NbrMsg := { uid := 9, addr := 1, lane := 0, stlEn := false, stlPref := false, stlState := 0, admitted := true, arm := 0, rootUid := 5, period := 2500, pidx := 0, epochAt := 0, epochSec := 0, epochNs := 0 }

/-- A candidate of a solve. -/
def CAND0 : Cand := { dhi := 0, d1 := 0, d2 := 0, phi := 0, nhard := 0, hmask := 0, deficit := 0, msq := 1 }

/-! ### Well-formedness: an ill-formed term for each check is refused, and a well-formed one is taken. -/

theorem test_wf_regWrite : (Instr.regWrite 0x40000000 4 0).wf = true ∧ (Instr.regWrite (2 ^ 32) 4 0).wf = false ∧
    (Instr.regWrite 0x40000000 3 0).wf = false := by decide
theorem test_wf_frame : (Instr.helloRx 0 ⟨1, 8, [], 0, false⟩).wf = true ∧ (Instr.helloRx 0 ⟨256, 8, [], 0, false⟩).wf = false ∧
    (Instr.helloRx 0 ⟨1, 256, [], 0, false⟩).wf = false ∧ (Instr.helloRx 0 ⟨1, 8, List.replicate 513 0, 0, false⟩).wf = false ∧
    (Instr.sackRx 0 ⟨256, 8, [], 0, false⟩).wf = false ∧ (Instr.cfgackRx 0 ⟨256, 8, [], 0, false⟩).wf = false ∧
    (Instr.statusRx 0 ⟨256, 8, [], 0, false⟩).wf = false := by decide +kernel
theorem test_wf_shift : (Instr.leSha 0 0 0 31).wf = true ∧ (Instr.leSha 0 0 0 32).wf = false ∧
    (Instr.leSha 0 0 0 (-32)).wf = false := by decide
theorem test_wf_branches : (Instr.leBr 0 1).wf = true ∧ (Instr.leBr 0 0).wf = false ∧ (Instr.leBc 0 1 2 0 0 0).wf = false ∧
    (Instr.leBinit 0 0).wf = false ∧ (Instr.leLoop 0 4 2).wf = true ∧ (Instr.leLoop 0 0 2).wf = false ∧
    (Instr.leLoop 0 4 0).wf = false := by decide +kernel
theorem test_wf_primitives : (Instr.lePi 0 1 2 3 4 false).wf = true ∧ (Instr.lePi 0 1 31 3 4 true).wf = false ∧
    (Instr.lePid 0 1 2 61 4 false).wf = false ∧ (Instr.leBiq 0 1 2 3 60).wf = false ∧ (Instr.leLlag 0 1 2 3 62).wf = false ∧
    (Instr.leLim 0 31 2 0 0).wf = false ∧ (Instr.leSat 0 1 2 63 0).wf = false ∧ (Instr.leRamp 0 1 31 0 0).wf = false ∧
    (Instr.leTlu 0 1 2 62).wf = false ∧ (Instr.leClarke 0 31 2 true).wf = false ∧ (Instr.lePark 0 1 29).wf = false ∧
    (Instr.leIpark 0 31 2).wf = false ∧ (Instr.leSincos 0 31 2).wf = false ∧ (Instr.leObsv 0 1 2 0 25).wf = false ∧
    (Instr.leHandover 0 1 30 0 0 false false).wf = false := by decide +kernel

/-! ### Words written out from the formats of R200 and the opcodes of R201 and R203 -/

theorem test_words_register_forms : leDecode 0 0x00000000 = some (.leEnd 0) ∧ leDecode 0 0x04000000 = some (.leNop 0) ∧
    leDecode 0 0x08A01234 = some (.leLil 0 5 0x1234) ∧ leDecode 0 0x20611200 = some (.leAdd 0 3 1 2 1) ∧
    leDecode 0 0x60200800 = some (.leLds 0 1 2) := by decide +kernel
theorem test_words_control_flow : leDecode 0 0x80000003 = some (.leBr 0 3) ∧
    leDecode 0 0x84225005 = some (.leBc 0 1 2 2 2 5) ∧ leDecode 0 0x8C040080 = some (.leLoop 0 4 2) := by decide +kernel
theorem test_words_primitive : leDecode 0 0xA0220C40 = some (.lePi 0 1 2 3 4 false) := by decide +kernel
/-- An unused field that is not 0, the reserved format, an undefined opcode, an offset of 0. -/
theorem test_words_refused : leDecode 0 0x04000001 = none ∧ leDecode 0 0x20611600 = none ∧ leDecode 0 0x18000000 = none ∧
    leDecode 0 0x80000000 = none := by decide +kernel
/-- The opcode table gives its rows no bits. -/
theorem test_table_word : decodeTableWord 8 0 = none := rfl

/-! ### Check values the spec states: R153 and R362 over the ASCII string 123456789 -/

def digits : List Byte := [0x31, 0x32, 0x33, 0x34, 0x35, 0x36, 0x37, 0x38, 0x39]
theorem test_crc32c : crc32c digits = 0xE3069283 := by decide +kernel
theorem test_crcSafe : crcSafe digits = 0x1697D06A := by decide +kernel

/-! ### Values worked out by hand from R199 -/

/-- 1.0 + 2.0 = 3.0 and 2.0 × 3.0 = 6.0 in FP32; 0.5 × 0.5 = 0.25 in Q7.24; INT wraps. -/
theorem test_le_arithmetic : opAdd 1 0x3F800000 0x40000000 = some (0x40400000, false) ∧
    opMul 1 0x40000000 0x40400000 = some (0x40C00000, false) ∧ opMul 0 0x00800000 0x00800000 = some (0x00400000, false) ∧
    opAdd 2 0x7FFFFFFF 1 = some (0x80000000, false) := by decide +kernel
/-- Q7.24 saturates: 127 + 127 is the largest value, with SATQ. -/
theorem test_le_saturates : opAdd 0 0x7F000000 0x7F000000 = some (0x7FFFFFFF, true) := by decide +kernel

/-! ### Single steps -/

/-- R17, R22: 3,000 × 10 ns on the idle root pends for two boundaries on; the command leaves the queue. -/
theorem test_step_period : (match step { State.reset with pending := [.periodWrite 3000] } with
    | .next t => decide (t.pending = [] ∧ t.perPend = some (3000, 2)) | _ => false) = true := by decide +kernel
/-- R17: 999 is out of range, code RANGE at offset 0x100. -/
theorem test_step_period_range : (match step { State.reset with pending := [.periodWrite 999] } with
    | .next t => decide (t.perPend = none ∧ t.get (HDR.ERR_CODE_CODE TBS.page) = eRANGE ∧
        t.get (HDR.ERR_CODE_OFS TBS.page) = 0x100) | _ => false) = true := by decide +kernel
/-- The queue is first in, first out: of two writes the first acts, and the second stays. -/
theorem test_step_order : (match step { State.reset with pending := [.periodWrite 3000, .periodWrite 999] } with
    | .next t => decide (t.pending = [.periodWrite 999] ∧ t.perPend = some (3000, 2)) | _ => false) = true := by decide +kernel
/-- R448: a host write to SRAM reads back, least significant byte first. -/
theorem test_step_sram : (match step { State.reset with pending := [.regWrite 0x20000000 4 0x11223344] } with
    | .next t => decide (t.byte 0x20000000 = 0x44 ∧ t.byte 0x20000003 = 0x11 ∧ t.byte 0x20000004 = 0) | _ => false) = true := by
  decide +kernel
/-- Nothing is pending after reset (CLAIMx, chapter 16), and CLAIM answers 0xFF: no line. -/
theorem test_claim_nothing : (match step { State.reset with pending := [.intcClaim 0] } with
    | .next t => decide (t.resp = .value 0xFF) | _ => false) = true := by decide +kernel

/-! ### Statements over every command -/

theorem test_meets_StepRunsFrontCommand : State.reset.pending = [] := rfl

theorem test_meets_StepKeepsCanonicalForm : ∃ s t : State, s.canon = true ∧ step s = .next t :=
  ⟨State.reset, { State.reset with now := tTick }, by decide +kernel, rfl⟩

/-- Both clauses: a command that stores to no RAM and moves no grid answers a next state. -/
theorem test_meets_CommandsLeaveMemoryAndGrid : ∃ (c : Instr) (s t : State), c.storesRam = false ∧ c.movesGrid = false ∧
    exec c s = .next t :=
  ⟨.measureLimit 0, State.reset, _, by decide +kernel, by decide +kernel, rfl⟩

/-! ### Steps, the queue and the whole machine -/

/-! ### The control period (R16–R37) -/

theorem test_meets_PeriodRangeAndReset :
    ∃ (val : Word) (s : State), (s.pageGated TBS.page = false) ∧ (s.perPend = none) ∧ (val.toNat % 65536 < 1000 ∨ 20000 < val.toNat % 65536) :=
  ⟨(0 : Word), (State.reset : State), by decide +kernel⟩

theorem test_meets_WindowsAndTheirCloses :
    (∃ (s : State) (p : Nat), (p ≤ 20000))
    ∧ (∃ (s : State), (s.dark = false) ∧ (s.window = 0) ∧ (s.perPend = none))
    ∧ (∃ (s : State), (s.dark = false) ∧ (s.window ≤ 1))
    ∧ (∃ (s : State), (s.dark = false) ∧ (s.window ≤ 2))
    ∧ (∃ (u : BitVec 48) (s : State), (s.dark = false) ∧ (s.window ≤ 3)) :=
  ⟨⟨(State.reset : State), (0 : Nat), by decide +kernel⟩,
    ⟨(State.reset : State), by decide +kernel⟩,
    ⟨(State.reset : State), by decide +kernel⟩,
    ⟨(State.reset : State), by decide +kernel⟩,
    ⟨(0 : BitVec 48), (State.reset : State), by decide +kernel⟩⟩

theorem test_meets_PeriodChangeIsJudgedAndApplied :
    (∃ (val : Word) (s : State), (s.takes TBS.page) ∧ (s.perPend = none → 1000 ≤ val.toNat % 65536 ∧ val.toNat % 65536 ≤ 20000) ∧ (s.armed = false) ∧ (s.on PWR.STAT_ARM_PEND = false) ∧ (s.isRoot = true) ∧ (s.nbrArmed 1 = false) ∧ (s.perPend = none) ∧ (val.toNat % 65536 ≠ s.get TBS.PER_CFG_PERIOD) ∧ (s.locked TBS.page = false) ∧ (s.nbrOnly = false))
    ∧ (∃ (val : Word) (s : State), (s.takes TBS.page) ∧ (s.perPend = none → 1000 ≤ val.toNat % 65536 ∧ val.toNat % 65536 ≤ 20000) ∧ (s.armed = false) ∧ (s.on PWR.STAT_ARM_PEND = false) ∧ (s.isRoot = true) ∧ (s.nbrArmed 1 = false) ∧ (s.perPend = none) ∧ (val.toNat % 65536 ≠ s.get TBS.PER_CFG_PERIOD) ∧ (s.locked TBS.page = false) ∧ (s.nbrOnly = true))
    ∧ (∃ (val : Word) (s : State), (s.takes TBS.page) ∧ (s.perPend = none → 1000 ≤ val.toNat % 65536 ∧ val.toNat % 65536 ≤ 20000) ∧ (s.armed = false) ∧ (s.on PWR.STAT_ARM_PEND = false) ∧ (s.isRoot = true) ∧ (s.nbrArmed 1 = false) ∧ (s.perPend = none) ∧ (val.toNat % 65536 ≠ s.get TBS.PER_CFG_PERIOD) ∧ (s.locked TBS.page = true))
    ∧ (∃ (val : Word) (s : State), (s.takes TBS.page) ∧ (s.perPend = none → 1000 ≤ val.toNat % 65536 ∧ val.toNat % 65536 ≤ 20000) ∧ (s.armed = false) ∧ (s.on PWR.STAT_ARM_PEND = false) ∧ (s.isRoot = true) ∧ (s.nbrArmed 1 = false) ∧ (s.perPend = none) ∧ (val.toNat % 65536 = s.get TBS.PER_CFG_PERIOD))
    ∧ (∃ (val : Word) (s : State), (s.takes TBS.page) ∧ (s.perPend = none → 1000 ≤ val.toNat % 65536 ∧ val.toNat % 65536 ≤ 20000) ∧ (s.armed = true ∨ s.on PWR.STAT_ARM_PEND = true))
    ∧ (∃ (val : Word) (s : State), (s.takes TBS.page) ∧ (s.perPend = none → 1000 ≤ val.toNat % 65536 ∧ val.toNat % 65536 ≤ 20000) ∧ (s.isRoot = true) ∧ (s.nbrArmed 1 = true))
    ∧ (∃ (val : Word) (s : State), (s.takes TBS.page) ∧ (s.perPend = none → 1000 ≤ val.toNat % 65536 ∧ val.toNat % 65536 ≤ 20000) ∧ (s.armed = false) ∧ (s.on PWR.STAT_ARM_PEND = false) ∧ (s.isRoot = false))
    ∧ (∃ (val : Word) (s : State), (s.takes TBS.page) ∧ (s.perPend = none → 1000 ≤ val.toNat % 65536 ∧ val.toNat % 65536 ≤ 20000) ∧ (s.armed = false) ∧ (s.on PWR.STAT_ARM_PEND = false) ∧ (s.isRoot = true) ∧ (s.nbrArmed 1 = false) ∧ (s.perPend.isSome))
    ∧ (∃ (p : BitVec 16) (i : BitVec 64) (s : State), (s.isRoot = false) ∧ (s.dark = false) ∧ (s.nbrOnly = false) ∧ (s.armed = false))
    ∧ (∃ (p : BitVec 16) (i : BitVec 64) (s : State), (s.isRoot = false) ∧ (s.dark = false) ∧ (s.nbrOnly = false) ∧ (s.armed = true))
    ∧ (∃ (p : BitVec 16) (i : BitVec 64) (s : State), (s.nbrOnly = true))
    ∧ (∃ (p : Nat) (i : Nat) (s : State), (s.perPend = some (p, i)) ∧ (i ≤ s.pidx))
    ∧ (∃ (s : State), (s.perPend = none)) :=
  ⟨⟨(1000 : Word), (sets [(PWR.STAT_ARM_PEND, 0)] : State), by simp only [State.takes]; decide +kernel⟩,
    ⟨(1000 : Word), (sets [(PWR.STAT_ARM_PEND, 0), (TRL.ID_JOIN_ARMED, 1)] : State), by simp only [State.takes]; decide +kernel⟩,
    ⟨(20000 : Word), (sets [(PWR.STAT_ARM_PEND, 0), (HDR.CTRL_LOCK TBS.page, 1)] : State), by simp only [State.takes]; decide +kernel⟩,
    ⟨(2500 : Word), (sets [(PWR.STAT_ARM_PEND, 0)] : State), by simp only [State.takes]; decide +kernel⟩,
    ⟨(20000 : Word), (sets [(PWR.STAT_ARMED, 1)] : State), by simp only [State.takes]; decide +kernel⟩,
    ⟨(1000 : Word), ({ State.reset with trl := { nbr := [(1, some { NBR0 with admitted := true, arm := 1 })] } } : State), by simp only [State.takes]; decide +kernel⟩,
    ⟨(20000 : Word), (sets [(PWR.STAT_ARM_PEND, 0), (TBS.TSTAT_ROLE, 1)] : State), by simp only [State.takes]; decide +kernel⟩,
    ⟨(20001 : Word), ({ sets [(PWR.STAT_ARM_PEND, 0)] with perPend := some (1000, 2) } : State), by simp only [State.takes]; decide +kernel⟩,
    ⟨(0 : BitVec 16), (0 : BitVec 64), (sets [(TBS.TSTAT_ROLE, 1)] : State), by decide +kernel⟩,
    ⟨(0 : BitVec 16), (0 : BitVec 64), (sets [(TBS.TSTAT_ROLE, 1), (PWR.STAT_ARMED, 1)] : State), by decide +kernel⟩,
    ⟨(0 : BitVec 16), (0 : BitVec 64), (sets [(TRL.ID_JOIN_ARMED, 1)] : State), by decide +kernel⟩,
    ⟨(1000 : Nat), (7 : Nat), ({ State.reset with perPend := some (1000, 7), pidx := 7 } : State), by decide +kernel⟩,
    ⟨(State.reset : State), by decide +kernel⟩⟩

theorem test_meets_BoundaryAndOverruns :
    (∃ (l : BitVec 8) (h : BitVec 8) (p : BitVec 8) (s : State), (s.perPend = none) ∧ (s.pwr.slp = none) ∧ (s.dark = false))
    ∧ (∃ (s : State) (l : Nat) (h : Nat) (p : Nat), (l < 256) ∧ (h < 256) ∧ (p < 256))
    ∧ (∃ (s : State) (w : Nat) (u : Nat), (w < 4) ∧ (u < 64) ∧ (s.ovrAct w ≠ 1))
    ∧ (∃ (s : State) (w : Nat) (u : Nat), (w < 4) ∧ (u < 64) ∧ (s.ovrAct w = 1) ∧ (SMap.get (fun _ => 0) s.ovrRun (64 * w + u) < s.get TBS.OVR_ACT_HOLD_LIM))
    ∧ (∃ (s : State) (w : Nat) (u : Nat), (w < 4) ∧ (u < 64) ∧ (s.ovrAct w = 1) ∧ (s.get TBS.OVR_ACT_HOLD_LIM ≤ SMap.get (fun _ => 0) s.ovrRun (64 * w + u)) ∧ (SMap.get (fun _ => 0) s.ovrRun (64 * w + u) ≠ ovrEsc)) :=
  ⟨⟨(0 : BitVec 8), (0 : BitVec 8), (0 : BitVec 8), (State.reset : State), by decide +kernel⟩,
    ⟨(State.reset : State), (0 : Nat), (0 : Nat), (0 : Nat), by decide +kernel⟩,
    ⟨(sets [(⟨TBS.OVR_ACT, 6, 2⟩, 2)] : State), (3 : Nat), (63 : Nat), by decide +kernel⟩,
    ⟨(sets [(⟨TBS.OVR_ACT, 6, 2⟩, 1)] : State), (3 : Nat), (63 : Nat), by decide +kernel⟩,
    ⟨({ sets [(⟨TBS.OVR_ACT, 6, 2⟩, 1)] with ovrRun := [(255, 2)] } : State), (3 : Nat), (63 : Nat), by decide +kernel⟩⟩

theorem test_meets_CrossbarWaits :
    (∃ (w : BitVec 24) (s : State), (s.get ICX.P3_STARVE_THR_THR < w.toNat))
    ∧ (∃ (w : BitVec 24) (s : State), (w.toNat ≤ s.get ICX.P3_STARVE_THR_THR))
    ∧ (∃ (c : Fin 3) (w : Nat) (b : Nat) (o : Nat) (s : State), (w ≤ waitBound c.val b o))
    ∧ (∃ (c : Fin 3) (w : Nat) (b : Nat) (o : Nat) (s : State), (waitBound c.val b o < w))
    ∧ (∃ (s : State), (s.takes ICX.page)) :=
  ⟨⟨(1001 : BitVec 24), (State.reset : State), by decide +kernel⟩,
    ⟨(1000 : BitVec 24), (State.reset : State), by decide +kernel⟩,
    ⟨(2 : Fin 3), (626 : Nat), (1 : Nat), (1 : Nat), (State.reset : State), by decide +kernel⟩,
    ⟨(2 : Fin 3), (601 : Nat), (0 : Nat), (0 : Nat), (State.reset : State), by decide +kernel⟩,
    ⟨(State.reset : State), by simp only [State.takes]; decide +kernel⟩⟩

/-! ### Register pages, interrupts, claims and DMA (R8–R11, R479–R495) -/

theorem test_meets_RefusalAndAccessTypes :
    (∃ (s : State) (pg : Nat) (ofs : Nat) (code : Nat), (s.get (HDR.ERR_CODE_CODE pg) ≠ 0) ∧ (pg ∉ s.errRead))
    ∧ (∃ (s : State) (pg : Nat) (ofs : Nat) (l : List (Bool × Nat)) (k : State → State), (s.pageGated pg = false) ∧ ((true, eKEY) ∈ l))
    ∧ (∃ (s : State) (pg : Nat) (ofs : Nat) (l : List (Bool × Nat)) (k : State → State), (s.pageGated pg = false) ∧ ((true, eKEY) ∉ l) ∧ ((true, eRANGE) ∈ l))
    ∧ (∃ (s : State) (pg : Nat) (ofs : Nat) (l : List (Bool × Nat)) (k : State → State), (s.pageGated pg = false) ∧ (s.busy pg = true) ∧ ((true, eKEY) ∉ l) ∧ ((true, eRANGE) ∉ l))
    ∧ (∃ (row : RegRow) (lk : Bool) (old : Nat) (val : Nat) (i : Nat), (i < 32) ∧ (old < 2 ^ 32) ∧ (val < 2 ^ 32) ∧ (∀ j, (row.rw.testBit j && (row.w1c.testBit j || row.w1s.testBit j || row.rwl.testBit j || row.cz.testBit j)) = false) ∧ (∀ j, (row.rwl.testBit j && (row.w1c.testBit j || row.w1s.testBit j || row.cz.testBit j)) = false) ∧ (∀ j, (row.w1c.testBit j && (row.w1s.testBit j || row.cz.testBit j)) = false) ∧ (∀ j, (row.w1s.testBit j && row.cz.testBit j) = false)) :=
  ⟨⟨(sets [((HDR.ERR_CODE_CODE (MPU.page : Nat)), 1), (HDR.ERR_CODE_CODE MPU.page, 1)] : State), (MPU.page : Nat), (0 : Nat), (0 : Nat), by decide +kernel⟩,
    ⟨(State.reset : State), (TBS.page : Nat), (0 : Nat), ([(true, eRANGE), (true, eKEY)] : List (Bool × Nat)), (id : State → State), by decide +kernel⟩,
    ⟨(State.reset : State), (TBS.page : Nat), (0 : Nat), ([(true, eSTATE), (true, eRANGE)] : List (Bool × Nat)), (id : State → State), by decide +kernel⟩,
    ⟨({ State.reset with reinit := [(TBS.page, 9600)] } : State), (TBS.page : Nat), (0 : Nat), ([(true, eSTATE)] : List (Bool × Nat)), (id : State → State), by decide +kernel⟩,
    ⟨({ off := 0, n := 1, stride := 4, rw := 0, rwl := 0, w1c := 0, w1s := 0, wo := 0, cz := 0, reset := 0 } : RegRow), (false : Bool), (0 : Nat), (0 : Nat), (31 : Nat), by simp⟩⟩

theorem test_meets_PagesControlAndReinit :
    (∃ (r : Nat) (v : Word) (s : State), (r < 16) ∧ (s.takes MPU.page) ∧ (s.locked MPU.page = false))
    ∧ (∃ (r : Nat) (v : Word) (s : State), (r < 16) ∧ (s.takes MPU.page) ∧ (s.locked MPU.page = true))
    ∧ (∃ (a : Nat) (b : Nat) (v : Word) (s : State), (0x40000000 ≤ a) ∧ (a < 0x50000000) ∧ (b ≠ 4 ∨ a % 4 ≠ 0 ∨ pageOf a = none))
    ∧ (∃ (a : Nat) (b : Nat) (v : Word) (s : State), (a < 0x40000000 ∨ 0x50000000 ≤ a))
    ∧ (∃ (l : Fin 130) (v : Word) (s : State), (s.takes (pageOfLine l.val)) ∧ (reinitBad (kindOfLine l.val) = false) ∧ (enUsed (kindOfLine l.val) = false) ∧ (v.getLsbD 0 = s.on (HDR.CTRL_EN (pageOfLine l.val))) ∧ (v.getLsbD 2 = false) ∧ ((s.pageReinit (kindOfLine l.val) (pageOfLine l.val) (instOfLine l.val)).on (HDR.CTRL_EN (pageOfLine l.val)) = s.on (HDR.CTRL_EN (pageOfLine l.val))))
    ∧ (∃ (l : Fin 130) (v : Word) (s : State), (s.takes (pageOfLine l.val)) ∧ (reinitBad (kindOfLine l.val) = true))
    ∧ (∃ (l : Fin 130) (v : Word) (s : State), (s.takes (pageOfLine l.val)) ∧ (enUsed (kindOfLine l.val) = false) ∧ (kindOfLine l.val ≠ .saf) ∧ (v.getLsbD 1 = false) ∧ (v.getLsbD 0 = s.on (HDR.CTRL_EN (pageOfLine l.val))))
    ∧ (∃ (l : Fin 130) (v : Word) (s : State), (s.takes (pageOfLine l.val)) ∧ (enUsed (kindOfLine l.val) = false) ∧ (kindOfLine l.val ≠ .saf) ∧ (v.getLsbD 1 = false) ∧ (s.on (HDR.CTRL_EN (pageOfLine l.val)) = true) ∧ (v.getLsbD 0 = false))
    ∧ (∃ (l : Fin 130) (v : Word) (s : State), (s.takes (pageOfLine l.val)) ∧ (enUsed (kindOfLine l.val) = false) ∧ (kindOfLine l.val ≠ .saf) ∧ (v.getLsbD 1 = false) ∧ (s.on (HDR.CTRL_EN (pageOfLine l.val)) = false) ∧ (v.getLsbD 0 = true))
    ∧ (∃ (e : Fin 16) (v : Word) (s : State), (s.takes (LEX.page e.val)) ∧ (v.getLsbD 1 = false) ∧ (v.getLsbD 0 = true) ∧ (v.getLsbD 2 = false) ∧ (s.get (HDR.CTRL_EN (LEX.page e.val)) = 0))
    ∧ (∃ (s : State) (i : Nat) (r : Nat), (r < 16) ∧ (s.locked MPU.page = false))
    ∧ (∃ (s : State) (i : Nat) (r : Nat), (r < 16) ∧ (s.locked MPU.page = true))
    ∧ (∃ (s : State) (i : Nat) (a : Nat), (a < MPU.page ∨ MPU.page + 0x1000 ≤ a)) :=
  ⟨⟨(0 : Nat), (0 : Word), (State.reset : State), by simp only [State.takes]; decide +kernel⟩,
    ⟨(0 : Nat), (0 : Word), (sets [(HDR.CTRL_LOCK MPU.page, 1)] : State), by simp only [State.takes]; decide +kernel⟩,
    ⟨(0x40000000 : Nat), (0 : Nat), (0 : Word), (State.reset : State), by decide +kernel⟩,
    ⟨(0 : Nat), (0 : Nat), (0 : Word), (State.reset : State), by decide +kernel⟩,
    ⟨(94 : Fin 130), (1 : Word), (State.reset : State), by simp only [State.takes]; decide +kernel⟩,
    ⟨(0 : Fin 130), (0 : Word), (State.reset : State), by simp only [State.takes]; decide +kernel⟩,
    ⟨(0 : Fin 130), (1 : Word), (State.reset : State), by simp only [State.takes]; decide +kernel⟩,
    ⟨(0 : Fin 130), (0 : Word), (sets [((HDR.CTRL_EN (pageOfLine (0 : Fin 130).val)), 1)] : State), by simp only [State.takes]; decide +kernel⟩,
    ⟨(0 : Fin 130), ((0 ||| 0x1) : Word), (sets [((HDR.CTRL_EN (pageOfLine (0 : Fin 130).val)), 0)] : State), by simp only [State.takes]; decide +kernel⟩,
    ⟨(15 : Fin 16), ((0 ||| 0x1) : Word), (sets [((HDR.CTRL_EN (LEX.page (15 : Fin 16).val)), 0)] : State), by simp only [State.takes]; decide +kernel⟩,
    ⟨(State.reset : State), (0 : Nat), (0 : Nat), by decide +kernel⟩,
    ⟨(sets [(HDR.CTRL_LOCK MPU.page, 1)] : State), (0 : Nat), (0 : Nat), by decide +kernel⟩,
    ⟨(State.reset : State), (0 : Nat), (0 : Nat), by decide +kernel⟩⟩

theorem test_meets_InterruptClaimAndComplete :
    (∃ (l : Fin 130) (m : Word) (s : State), (s.takes (pageOfLine l.val)) ∧ (kindOfLine l.val ≠ .adc))
    ∧ (∃ (s : State) (pg : Nat) (b : Nat) (t : State), (b < 32) ∧ (s.now / tBus < t.now / tBus) ∧ (t.evAt = (s.irq pg b).evAt))
    ∧ (∃ (x : Fin 2) (s : State), (s.bestLine x.val = 0xFF))
    ∧ (∃ (x : Fin 2) (s : State), (s.bestLine x.val ≠ 0xFF))
    ∧ (∃ (x : Nat) (s : State) (l : Nat), (s.bestLine x ≠ 0xFF) ∧ (l < 130) ∧ ((s.get (INTC.SRC_TGT l)).testBit x = true) ∧ (s.get (INTC.SRC_ACT l) = 0) ∧ (s.get (INTC.THR_THR x) < s.get (INTC.SRC_PRIO l)) ∧ (s.lineOn l = true))
    ∧ (∃ (x : Fin 2) (l : BitVec 8) (s : State), (s.takes INTC.page) ∧ (l.toNat < 130))
    ∧ (∃ (x : Fin 2) (l : BitVec 8) (s : State), (s.pageGated INTC.page = false) ∧ (130 ≤ l.toNat)) :=
  ⟨⟨(0 : Fin 130), (0 : Word), (State.reset : State), by simp only [State.takes]; decide +kernel⟩,
    ⟨(State.reset : State), (0 : Nat), (0 : Nat), ({ State.reset with now := 96000 } : State), by decide +kernel⟩,
    ⟨(0 : Fin 2), (State.reset : State), by decide +kernel⟩,
    ⟨(1 : Fin 2), (sets [(INTC.SRC_TGT 0, 2), (INTC.SRC_PRIO 0, 15), (⟨HDR.IRQ_RAW (pageOfLine 0), 0, 1⟩, 1), (⟨HDR.IRQ_EN (pageOfLine 0), 0, 1⟩, 1)] : State), by decide +kernel⟩,
    ⟨(1 : Nat), (sets [((INTC.SRC_ACT (0 : Nat)), 0), (INTC.SRC_TGT 0, 2), (INTC.SRC_PRIO 0, 15), (⟨HDR.IRQ_RAW (pageOfLine 0), 0, 1⟩, 1), (⟨HDR.IRQ_EN (pageOfLine 0), 0, 1⟩, 1)] : State), (0 : Nat), by decide +kernel⟩,
    ⟨(0 : Fin 2), (129 : BitVec 8), (State.reset : State), by simp only [State.takes]; decide +kernel⟩,
    ⟨(0 : Fin 2), (130 : BitVec 8), (State.reset : State), by decide +kernel⟩⟩

theorem test_meets_ClaimsAndHostDma :
    (∃ (s : State) (pg : Nat) (ofs : Nat) (rs : List Nat) (cls : Nat) (inst : Nat) (k : State → State) (q : Nat), (pg % 4096 = 0) ∧ (∃ r ∈ rs, s.claimable r cls inst = false))
    ∧ (∃ (s : State) (pg : Nat) (ofs : Nat) (rs : List Nat) (cls : Nat) (inst : Nat) (r : Nat), (∀ r ∈ rs, s.claimable r cls inst = true) ∧ (r ∈ rs))
    ∧ (∃ (s : State) (pg : Nat) (ofs : Nat) (rs : List Nat) (cls : Nat) (inst : Nat) (q : Nat), (∀ r ∈ rs, s.claimable r cls inst = true) ∧ (q ∉ rs))
    ∧ (∃ (s : State) (r : Nat) (cls : Nat) (inst : Nat), ((s.claim r).cls = cls ∧ (s.claim r).inst = inst))
    ∧ (∃ (s : State) (r : Nat) (cls : Nat) (inst : Nat) (q : Nat), (q ≠ r))
    ∧ (∃ (s : State) (r : Nat) (cls : Nat) (inst : Nat), ((s.claim r).cls ≠ cls) ∧ ((s.claim r).subCls ≠ cls))
    ∧ (∃ (v : Word) (s : State), (s.takes PIN.page) ∧ (1 ≤ v.toNat % 256) ∧ (v.toNat % 256 ≤ 9))
    ∧ (∃ (v : Word) (s : State), (s.pageGated PIN.page = false) ∧ (v.toNat % 256 = 0 ∨ 9 < v.toNat % 256))
    ∧ (∃ (n : Fin 32) (s : State), (s.takes DMA.page) ∧ (s.dmaHeld n.val = false) ∧ (s.get (DMA.CH_CFG_EN n.val) = 1) ∧ (s.get (DMA.CH_CFG_GO n.val) = 0))
    ∧ (∃ (n : Fin 32) (s : State), (s.takes DMA.page) ∧ (s.dmaHeld n.val = true))
    ∧ (∃ (n : Fin 32) (s : State), (s.dark = false) ∧ (n.val ∈ s.dmaN) ∧ (s.get (DMA.CH_LEN_LEN n.val) = 0))
    ∧ (∃ (n : Fin 32) (s : State) (u : State) (t : State) (b : List Byte), (s.dark = false) ∧ (s.pwr.slp = none) ∧ (n.val ∈ s.dmaN) ∧ (u = { s with dmaN := s.dmaN.filter (· != n.val) }) ∧ (s.get (DMA.CH_LEN_LEN n.val) = 4) ∧ (inPeri (s.get (DMA.CH_SRC_ADDR n.val)) = false) ∧ (inPeri (s.get (DMA.CH_DST_ADDR n.val)) = false) ∧ (u.mpuOk (s.get (DMA.CH_SRC_ADDR n.val)) 4 false = true) ∧ (u.mpuOk (s.get (DMA.CH_DST_ADDR n.val)) 4 true = true) ∧ (u.ramRead (s.get (DMA.CH_SRC_ADDR n.val)) 4 = some b) ∧ (u.masterPut (s.get (DMA.CH_DST_ADDR n.val)) (leBytes 4 (BitVec.ofNat 32 (leNat b 0 4)).toNat) = some t))
    ∧ (∃ (n : Fin 32) (s : State), (n.val ∉ s.dmaN)) :=
  ⟨⟨({ State.reset with claims := [(258, ⟨2, 0, 0, 0⟩)] } : State), (0 : Nat), (0 : Nat), ([257, 258] : List Nat), (1 : Nat), (3 : Nat), (id : State → State), (0 : Nat), by decide +kernel⟩,
    ⟨(State.reset : State), (0 : Nat), (0 : Nat), ([257, 258] : List Nat), (1 : Nat), (0 : Nat), (258 : Nat), by decide +kernel⟩,
    ⟨(State.reset : State), (0 : Nat), (0 : Nat), ([257, 258] : List Nat), (1 : Nat), (0 : Nat), (259 : Nat), by decide +kernel⟩,
    ⟨({ State.reset with claims := [(257, ⟨1, 3, 0, 0⟩)] } : State), (257 : Nat), (1 : Nat), (3 : Nat), by decide +kernel⟩,
    ⟨(State.reset : State), (257 : Nat), (0 : Nat), (0 : Nat), (258 : Nat), by decide +kernel⟩,
    ⟨(State.reset : State), (257 : Nat), (1 : Nat), (0 : Nat), by decide +kernel⟩,
    ⟨(9 : Word), (State.reset : State), by simp only [State.takes]; decide +kernel⟩,
    ⟨(10 : Word), (State.reset : State), by decide +kernel⟩,
    ⟨(31 : Fin 32), (sets [((DMA.CH_CFG_EN (31 : Fin 32).val), 1), ((DMA.CH_CFG_GO (31 : Fin 32).val), 0)] : State), by simp only [State.takes]; decide +kernel⟩,
    ⟨(0 : Fin 32), ({ State.reset with claims := [(resKey 3 0, ⟨9, 0, 0, 0⟩)] } : State), by simp only [State.takes]; decide +kernel⟩,
    ⟨(0 : Fin 32), ({ sets [((DMA.CH_LEN_LEN (0 : Fin 32).val), 0)] with dmaN := [0] } : State), by decide +kernel⟩,
    ⟨(0 : Fin 32), ({ sets [((DMA.CH_LEN_LEN (0 : Fin 32).val), 4), (DMA.CH_SRC_ADDR 0, 0x20000000), (DMA.CH_DST_ADDR 0, 0x20000008), (MPU.REG_LIMIT_EN 0, 1), (MPU.REG_LIMIT_DMA_R 0, 1), (MPU.REG_LIMIT_DMA_W 0, 1), (MPU.REG_LIMIT_LIMIT 0, 0xFFFFF)] with dmaN := [0] } : State), ({ ({ sets [((DMA.CH_LEN_LEN (0 : Fin 32).val), 4), (DMA.CH_SRC_ADDR 0, 0x20000000), (DMA.CH_DST_ADDR 0, 0x20000008), (MPU.REG_LIMIT_EN 0, 1), (MPU.REG_LIMIT_DMA_R 0, 1), (MPU.REG_LIMIT_DMA_W 0, 1), (MPU.REG_LIMIT_LIMIT 0, 0xFFFFF)] with dmaN := [0] } : State) with dmaN := [] } : State), (((State.masterPut ({ ({ sets [((DMA.CH_LEN_LEN (0 : Fin 32).val), 4), (DMA.CH_SRC_ADDR 0, 0x20000000), (DMA.CH_DST_ADDR 0, 0x20000008), (MPU.REG_LIMIT_EN 0, 1), (MPU.REG_LIMIT_DMA_R 0, 1), (MPU.REG_LIMIT_DMA_W 0, 1), (MPU.REG_LIMIT_LIMIT 0, 0xFFFFF)] with dmaN := [0] } : State) with dmaN := [] } : State) 0x20000008 [0, 0, 0, 0]).getD State.reset) : State), ([0, 0, 0, 0] : List Byte), by decide +kernel⟩,
    ⟨(0 : Fin 32), (State.reset : State), by decide +kernel⟩⟩

/-! ### Cell stack control (R38–R81) -/

theorem test_meets_StackEnableClaimsMembers :
    (∃ (k : Fin 8) (v : Word) (s : State), (s.takes GRN.page) ∧ (s.get (GRN.STK_CFG_EN k.val) = 0) ∧ (stkCfgRange (v ||| 1) = false) ∧ (s.get GRN.VLIM1_UV_STOP < s.get GRN.VLIM1_UV_FOLD) ∧ (s.get GRN.VLIM1_UV_FOLD < s.get GRN.VLIM2_OV_FOLD) ∧ (s.get GRN.VLIM2_OV_FOLD < s.get GRN.VLIM2_OV_STOP) ∧ (s.willBe GRN.page true (GRN.STK_CFG_N_MIN k.val) (v ||| 1) ≤ (s.members k.val).length) ∧ (s.willBe GRN.page true (GRN.STK_CFG_MODE k.val) (v ||| 1) = 2 ∨ s.sameCarrier (s.members k.val) = true) ∧ (s.grnBlocked k.val (s.willBe GRN.page true (GRN.STK_CFG_MODE k.val) (v ||| 1) == 2) (s.members k.val) = none))
    ∧ (∃ (k : Fin 8) (v : Word) (s : State) (ch : Nat), (s.takes GRN.page) ∧ (s.get (GRN.STK_CFG_EN k.val) = 0) ∧ (stkCfgRange (v ||| 1) = false) ∧ (s.get GRN.VLIM1_UV_STOP < s.get GRN.VLIM1_UV_FOLD) ∧ (s.get GRN.VLIM1_UV_FOLD < s.get GRN.VLIM2_OV_FOLD) ∧ (s.get GRN.VLIM2_OV_FOLD < s.get GRN.VLIM2_OV_STOP) ∧ (s.willBe GRN.page true (GRN.STK_CFG_N_MIN k.val) (v ||| 1) ≤ (s.members k.val).length) ∧ (s.willBe GRN.page true (GRN.STK_CFG_MODE k.val) (v ||| 1) = 2 ∨ s.sameCarrier (s.members k.val) = true) ∧ (s.grnBlocked k.val (s.willBe GRN.page true (GRN.STK_CFG_MODE k.val) (v ||| 1) == 2) (s.members k.val) = some ch))
    ∧ (∃ (k : Fin 8) (v : Word) (s : State), (s.takes GRN.page) ∧ (s.get (GRN.STK_CFG_EN k.val) = 0) ∧ (stkCfgRange (v ||| 1) = false) ∧ (s.get GRN.VLIM1_UV_STOP < s.get GRN.VLIM1_UV_FOLD) ∧ (s.get GRN.VLIM1_UV_FOLD < s.get GRN.VLIM2_OV_FOLD) ∧ (s.get GRN.VLIM2_OV_FOLD < s.get GRN.VLIM2_OV_STOP) ∧ (s.willBe GRN.page true (GRN.STK_CFG_N_MIN k.val) (v ||| 1) ≤ (s.members k.val).length) ∧ (s.willBe GRN.page true (GRN.STK_CFG_MODE k.val) (v ||| 1) ≠ 2) ∧ (s.sameCarrier (s.members k.val) = false))
    ∧ (∃ (k : Fin 8) (v : Word) (s : State), (s.takes GRN.page) ∧ (s.get (GRN.STK_CFG_EN k.val) = 0) ∧ (stkCfgRange (v ||| 1) = false) ∧ (s.get GRN.VLIM1_UV_STOP < s.get GRN.VLIM1_UV_FOLD) ∧ (s.get GRN.VLIM1_UV_FOLD < s.get GRN.VLIM2_OV_FOLD) ∧ (s.get GRN.VLIM2_OV_FOLD < s.get GRN.VLIM2_OV_STOP) ∧ ((s.members k.val).length < s.willBe GRN.page true (GRN.STK_CFG_N_MIN k.val) (v ||| 1))) :=
  ⟨⟨(0 : Fin 8), (0x4100 : Word), (sets [((GRN.STK_CFG_EN (0 : Fin 8).val), 0), (GRN.VLIM1_UV_FOLD, 1), (GRN.CELL_STK_MEMB 0 0, 1)] : State), by simp only [State.takes]; decide +kernel⟩,
    ⟨(0 : Fin 8), (0x4100 : Word), ({ sets [((GRN.STK_CFG_EN (0 : Fin 8).val), 0), (GRN.VLIM1_UV_FOLD, 1), (GRN.CELL_STK_MEMB 0 0, 1)] with claims := [(resKey 1 0, ⟨1, 0, 0, 0⟩)] } : State), (0 : Nat), by simp only [State.takes]; decide +kernel⟩,
    ⟨(0 : Fin 8), (0x4100 : Word), (sets [((GRN.STK_CFG_EN (0 : Fin 8).val), 0), (GRN.VLIM1_UV_FOLD, 1), (GRN.CELL_STK_MEMB 0 0, 1), (GRN.CELL_STK_MEMB 5 7, 1), (MODCH.PRD_PRD 94, 4000)] : State), by simp only [State.takes]; decide +kernel⟩,
    ⟨(0 : Fin 8), (0x7000 : Word), (sets [((GRN.STK_CFG_EN (0 : Fin 8).val), 0), (GRN.VLIM1_UV_FOLD, 1), (GRN.CELL_STK_MEMB 0 0, 1)] : State), by simp only [State.takes]; decide +kernel⟩⟩

theorem test_meets_StackDisableAndModeChange :
    (∃ (k : Fin 8) (v : Word) (s : State), (s.takes GRN.page) ∧ (s.get (GRN.STK_CFG_EN k.val) = 1) ∧ (stkCfgRange (v &&& ~~~1) = false) ∧ (s.stkState k.val = skIDLE))
    ∧ (∃ (k : Fin 8) (v : Word) (s : State), (s.takes GRN.page) ∧ (s.get (GRN.STK_CFG_EN k.val) = 1) ∧ (stkCfgRange (v &&& ~~~1) = false) ∧ (s.stkState k.val ≠ skIDLE))
    ∧ (∃ (k : Fin 8) (v : Word) (s : State), (s.takes GRN.page) ∧ (s.locked GRN.page = false) ∧ (s.get (GRN.STK_CFG_EN k.val) = 1) ∧ (v.getLsbD 0 = true) ∧ (stkCfgRange v = false) ∧ (getBits v 1 2 = 2) ∧ (s.get (GRN.STK_CFG_MODE k.val) ≠ 2) ∧ (s.stkState k.val = skIDLE))
    ∧ (∃ (k : Fin 8) (v : Word) (s : State), (s.takes GRN.page) ∧ (s.locked GRN.page = false) ∧ (s.get (GRN.STK_CFG_EN k.val) = 1) ∧ (v.getLsbD 0 = true) ∧ (stkCfgRange v = false) ∧ (getBits v 1 2 = 2) ∧ (s.get (GRN.STK_CFG_MODE k.val) ≠ 2) ∧ (s.stkState k.val ≠ skIDLE)) :=
  ⟨⟨(0 : Fin 8), (0x4100 : Word), (sets [((GRN.STK_CFG_EN (0 : Fin 8).val), 1), (GRN.STK_STAT_STATE (0 : Fin 8).val, skIDLE)] : State), by simp only [State.takes]; decide +kernel⟩,
    ⟨(0 : Fin 8), (0x4100 : Word), (sets [((GRN.STK_CFG_EN (0 : Fin 8).val), 1), (GRN.STK_STAT_STATE 0, 4)] : State), by simp only [State.takes]; decide +kernel⟩,
    ⟨(0 : Fin 8), (0x4105 : Word), (sets [((GRN.STK_CFG_EN (0 : Fin 8).val), 1), (GRN.STK_STAT_STATE (0 : Fin 8).val, skIDLE)] : State), by simp only [State.takes]; decide +kernel⟩,
    ⟨(0 : Fin 8), (0x4105 : Word), (sets [((GRN.STK_CFG_EN (0 : Fin 8).val), 1), (GRN.STK_STAT_STATE 0, 1)] : State), by simp only [State.takes]; decide +kernel⟩⟩

theorem test_meets_CellMembershipWrite :
    (∃ (k : Fin 6) (j : Nat) (v : Word) (s : State), (s.takes GRN.page) ∧ (s.locked GRN.page = false) ∧ (j < 8) ∧ (getBits v (4 * j) 4 ≠ getBits (s.reg (GRN.CELL_STK k.val)) (4 * j) 4) ∧ (∀ i, i < 8 → i ≠ j → getBits v (4 * i) 4 = getBits (s.reg (GRN.CELL_STK k.val)) (4 * i) 4))
    ∧ (∃ (k : Fin 6) (s : State), (s.takes GRN.page))
    ∧ (∃ (n : Nat) (stk : Nat) (memb : Nat) (s : State) (r : Nat), (n < 48) ∧ (stk < 8) ∧ (memb < 2) ∧ (s.on (GRN.CELL_STK_MEMB (n / 8) (n % 8)) = true → s.on (GRN.STK_CFG_EN (s.get (GRN.CELL_STK_STK (n / 8) (n % 8)))) = false) ∧ (memb = 1 → s.on (GRN.STK_CFG_EN stk) = false))
    ∧ (∃ (n : Nat) (k : Nat) (stk : Nat) (s : State), (n < 48) ∧ (s.stackOf n = some k) ∧ (s.cst n ∉ [ckABSENT, ckBYPASSED, ckFAULTED, ckTEST]))
    ∧ (∃ (n : Nat) (k : Nat) (stk : Nat) (s : State), (n < 48) ∧ (s.stackOf n = some k) ∧ (s.cst n ∈ [ckABSENT, ckBYPASSED, ckFAULTED, ckTEST]))
    ∧ (∃ (n : Nat) (k : Nat) (s : State), (n < 48) ∧ ((s.cell n).leave = some k) ∧ (s.claim (resKey 1 (2 * n)) = ⟨2, k, 0, 0⟩) ∧ (s.claim (resKey 1 (2 * n + 1)) = ⟨2, k, 0, 0⟩))
    ∧ (∃ (n : Nat) (stk : Nat) (s : State), (n < 48) ∧ (stk < 8) ∧ (s.on (GRN.CELL_STK_MEMB (n / 8) (n % 8)) = false) ∧ (s.on (GRN.STK_CFG_EN stk) = true) ∧ ((s.grnFreed n (s.cell n).leave).grnBlocked stk false [n] = none) ∧ (s.get (GRN.STK_CFG_MODE stk) = 2 ∨ s.sameCarrier (n :: s.members stk) = true)) :=
  ⟨⟨(0 : Fin 6), (7 : Nat), (0x80000000 : Word), (State.reset : State), by simp only [State.takes]; decide +kernel⟩,
    ⟨(0 : Fin 6), (State.reset : State), by simp only [State.takes]; decide +kernel⟩,
    ⟨(47 : Nat), (7 : Nat), (1 : Nat), (State.reset : State), (0 : Nat), by decide +kernel⟩,
    ⟨(47 : Nat), (0 : Nat), (0 : Nat), (sets [(GRN.CELL_STK_MEMB ((47 : Nat) / 8) ((47 : Nat) % 8), 1), (GRN.CELL_STK_STK ((47 : Nat) / 8) ((47 : Nat) % 8), (0 : Nat)), (GRN.STK_CFG_EN (0 : Nat), 1), (GRN.CELL_STATE_STATE 5 7, ckACTIVE)] : State), by decide +kernel⟩,
    ⟨(47 : Nat), (0 : Nat), (0 : Nat), (sets [(GRN.CELL_STK_MEMB ((47 : Nat) / 8) ((47 : Nat) % 8), 1), (GRN.CELL_STK_STK ((47 : Nat) / 8) ((47 : Nat) % 8), (0 : Nat)), (GRN.STK_CFG_EN (0 : Nat), 1), (GRN.CELL_STATE_STATE ((47 : Nat) / 8) ((47 : Nat) % 8), ckABSENT)] : State), by decide +kernel⟩,
    ⟨(47 : Nat), (0 : Nat), ({ sets [(DSV.EN_MAP1_EN_HI, 0x8000)] with cells := [(47, { leave := some 0 })], claims := [(resKey 1 94, ⟨2, 0, 0, 0⟩), (resKey 1 95, ⟨2, 0, 0, 0⟩)] } : State), by decide +kernel⟩,
    ⟨(47 : Nat), (0 : Nat), (sets [((GRN.CELL_STK_MEMB ((47 : Nat) / 8) ((47 : Nat) % 8)), 0), ((GRN.STK_CFG_EN (0 : Nat)), 1), ((GRN.STK_CFG_MODE (0 : Nat)), 2)] : State), by decide +kernel⟩⟩

theorem test_meets_CellCommandsPend :
    (∃ (c : Fin 64) (k : Nat) (s : State), (c.val < 48) ∧ (s.takes GRN.page) ∧ (s.stackOf c.val = some k) ∧ (s.cst c.val ∈ [ckACTIVE, ckSPARE, ckCHARGING]) ∧ (s.cst c.val = ckACTIVE → (s.cell c.val).cmd ∉ [1, 3] → s.get (GRN.STK_CFG_N_MIN k) + 1 ≤ s.nAfter k))
    ∧ (∃ (c : Fin 64) (k : Nat) (s : State), (c.val < 48) ∧ (s.takes GRN.page) ∧ (s.stackOf c.val = some k) ∧ (s.cst c.val ∈ [ckBYPASSED, ckSPARE]))
    ∧ (∃ (c : Fin 64) (k : Nat) (s : State), (c.val < 48) ∧ (s.takes GRN.page) ∧ (s.stackOf c.val = some k) ∧ (s.cst c.val ∈ [ckBYPASSED, ckACTIVE]) ∧ (s.cst c.val = ckACTIVE → (s.cell c.val).cmd ∉ [1, 3] → s.get (GRN.STK_CFG_N_MIN k) + 1 ≤ s.nAfter k))
    ∧ (∃ (c : Fin 64) (k : Nat) (s : State), (c.val < 48) ∧ (s.takes GRN.page) ∧ (s.stackOf c.val = some k) ∧ (s.cst c.val = ckBYPASSED))
    ∧ (∃ (c : Fin 64) (k : Nat) (s : State), (c.val < 48) ∧ (s.takes GRN.page) ∧ (s.stackOf c.val = some k) ∧ (s.cst c.val = ckFAULTED) ∧ ((s.cell c.val).srcs &&& (s.cell c.val).faultSrc = 0))
    ∧ (∃ (c : Fin 64) (k : Nat) (s : State), (c.val < 48) ∧ (s.takes GRN.page) ∧ (s.stackOf c.val = some k) ∧ (s.cst c.val = ckTEST)) :=
  ⟨⟨(47 : Fin 64), (0 : Nat), (sets [(GRN.CELL_STK_MEMB ((47 : Fin 64).val / 8) ((47 : Fin 64).val % 8), 1), (GRN.CELL_STK_STK ((47 : Fin 64).val / 8) ((47 : Fin 64).val % 8), (0 : Nat)), (GRN.STK_CFG_EN (0 : Nat), 1), (GRN.CELL_STATE_STATE ((47 : Fin 64).val / 8) ((47 : Fin 64).val % 8), ckACTIVE), (GRN.STK_CFG_N_MIN 0, 0)] : State), by simp only [State.takes]; decide +kernel⟩,
    ⟨(47 : Fin 64), (0 : Nat), (sets [(GRN.CELL_STK_MEMB ((47 : Fin 64).val / 8) ((47 : Fin 64).val % 8), 1), (GRN.CELL_STK_STK ((47 : Fin 64).val / 8) ((47 : Fin 64).val % 8), (0 : Nat)), (GRN.STK_CFG_EN (0 : Nat), 1), (GRN.CELL_STATE_STATE ((47 : Fin 64).val / 8) ((47 : Fin 64).val % 8), ckBYPASSED)] : State), by simp only [State.takes]; decide +kernel⟩,
    ⟨(47 : Fin 64), (0 : Nat), ({ sets [(GRN.CELL_STK_MEMB ((47 : Fin 64).val / 8) ((47 : Fin 64).val % 8), 1), (GRN.CELL_STK_STK ((47 : Fin 64).val / 8) ((47 : Fin 64).val % 8), (0 : Nat)), (GRN.STK_CFG_EN (0 : Nat), 1), (GRN.CELL_STATE_STATE ((47 : Fin 64).val / 8) ((47 : Fin 64).val % 8), ckBYPASSED), (GRN.STK_CFG_N_MIN 0, 0), (GRN.CELL_STATE_STATE (47 / 8) (47 % 8), ckACTIVE)] with cells := [(47, { cmd := 5 })] } : State), by simp only [State.takes]; decide +kernel⟩,
    ⟨(47 : Fin 64), (0 : Nat), (sets [(GRN.CELL_STK_MEMB ((47 : Fin 64).val / 8) ((47 : Fin 64).val % 8), 1), (GRN.CELL_STK_STK ((47 : Fin 64).val / 8) ((47 : Fin 64).val % 8), (0 : Nat)), (GRN.STK_CFG_EN (0 : Nat), 1), (GRN.CELL_STATE_STATE ((47 : Fin 64).val / 8) ((47 : Fin 64).val % 8), ckBYPASSED)] : State), by simp only [State.takes]; decide +kernel⟩,
    ⟨(47 : Fin 64), (0 : Nat), (sets [(GRN.CELL_STK_MEMB ((47 : Fin 64).val / 8) ((47 : Fin 64).val % 8), 1), (GRN.CELL_STK_STK ((47 : Fin 64).val / 8) ((47 : Fin 64).val % 8), (0 : Nat)), (GRN.STK_CFG_EN (0 : Nat), 1), (GRN.CELL_STATE_STATE ((47 : Fin 64).val / 8) ((47 : Fin 64).val % 8), ckFAULTED)] : State), by simp only [State.takes]; decide +kernel⟩,
    ⟨(47 : Fin 64), (0 : Nat), (sets [(GRN.CELL_STK_MEMB ((47 : Fin 64).val / 8) ((47 : Fin 64).val % 8), 1), (GRN.CELL_STK_STK ((47 : Fin 64).val / 8) ((47 : Fin 64).val % 8), (0 : Nat)), (GRN.STK_CFG_EN (0 : Nat), 1), (GRN.CELL_STATE_STATE ((47 : Fin 64).val / 8) ((47 : Fin 64).val % 8), ckTEST)] : State), by simp only [State.takes]; decide +kernel⟩⟩

theorem test_meets_CellCommandsRefused :
    (∃ (c : Fin 64) (s : State), (48 ≤ c.val) ∧ (s.pageGated GRN.page = false))
    ∧ (∃ (c : Fin 64) (s : State), (c.val < 48) ∧ (s.takes GRN.page) ∧ (s.stackOf c.val = none) ∧ (s.cst c.val ∈ [ckACTIVE, ckSPARE, ckCHARGING]))
    ∧ (∃ (c : Fin 64) (s : State), (c.val < 48) ∧ (s.takes GRN.page) ∧ (s.stackOf c.val = none) ∧ (s.cst c.val ∈ [ckBYPASSED, ckSPARE]))
    ∧ (∃ (c : Fin 64) (s : State), (c.val < 48) ∧ (s.takes GRN.page) ∧ (s.stackOf c.val = none) ∧ (s.cst c.val = ckTEST))
    ∧ (∃ (c : Fin 64) (s : State), (c.val < 48) ∧ (s.takes GRN.page) ∧ (s.cst c.val ∉ [ckACTIVE, ckSPARE, ckCHARGING]))
    ∧ (∃ (c : Fin 64) (s : State), (c.val < 48) ∧ (s.takes GRN.page) ∧ (s.cst c.val ∉ [ckBYPASSED, ckSPARE]))
    ∧ (∃ (c : Fin 64) (s : State), (c.val < 48) ∧ (s.takes GRN.page) ∧ (s.cst c.val ∉ [ckBYPASSED, ckACTIVE]))
    ∧ (∃ (c : Fin 64) (s : State), (c.val < 48) ∧ (s.takes GRN.page) ∧ (s.cst c.val ≠ ckBYPASSED))
    ∧ (∃ (c : Fin 64) (s : State), (c.val < 48) ∧ (s.takes GRN.page) ∧ (s.cst c.val ≠ ckFAULTED ∨ (s.cell c.val).srcs &&& (s.cell c.val).faultSrc ≠ 0))
    ∧ (∃ (c : Fin 64) (s : State), (c.val < 48) ∧ (s.takes GRN.page) ∧ (s.cst c.val ≠ ckTEST))
    ∧ (∃ (c : Fin 64) (k : Nat) (s : State), (c.val < 48) ∧ (s.takes GRN.page) ∧ (s.stackOf c.val = some k) ∧ (s.cst c.val = ckACTIVE) ∧ ((s.cell c.val).cmd ∉ [1, 3]) ∧ (s.nAfter k < s.get (GRN.STK_CFG_N_MIN k) + 1)) :=
  ⟨⟨(48 : Fin 64), (State.reset : State), by decide +kernel⟩,
    ⟨(0 : Fin 64), (sets [(GRN.CELL_STATE_STATE ((0 : Fin 64).val / 8) ((0 : Fin 64).val % 8), ckACTIVE)] : State), by simp only [State.takes]; decide +kernel⟩,
    ⟨(0 : Fin 64), (sets [(GRN.CELL_STATE_STATE ((0 : Fin 64).val / 8) ((0 : Fin 64).val % 8), ckBYPASSED)] : State), by simp only [State.takes]; decide +kernel⟩,
    ⟨(0 : Fin 64), (sets [(GRN.CELL_STATE_STATE ((0 : Fin 64).val / 8) ((0 : Fin 64).val % 8), ckTEST)] : State), by simp only [State.takes]; decide +kernel⟩,
    ⟨(0 : Fin 64), (State.reset : State), by simp only [State.takes]; decide +kernel⟩,
    ⟨(0 : Fin 64), (State.reset : State), by simp only [State.takes]; decide +kernel⟩,
    ⟨(0 : Fin 64), (State.reset : State), by simp only [State.takes]; decide +kernel⟩,
    ⟨(0 : Fin 64), (State.reset : State), by simp only [State.takes]; decide +kernel⟩,
    ⟨(0 : Fin 64), (State.reset : State), by simp only [State.takes]; decide +kernel⟩,
    ⟨(0 : Fin 64), (State.reset : State), by simp only [State.takes]; decide +kernel⟩,
    ⟨(0 : Fin 64), (0 : Nat), (sets [(GRN.CELL_STK_MEMB ((0 : Fin 64).val / 8) ((0 : Fin 64).val % 8), 1), (GRN.CELL_STK_STK ((0 : Fin 64).val / 8) ((0 : Fin 64).val % 8), (0 : Nat)), (GRN.STK_CFG_EN (0 : Nat), 1), (GRN.CELL_STATE_STATE ((0 : Fin 64).val / 8) ((0 : Fin 64).val % 8), ckACTIVE)] : State), by simp only [State.takes]; decide +kernel⟩⟩

theorem test_meets_StackCommandsPend :
    (∃ (k : Fin 8) (s : State), (s.takes GRN.page) ∧ (s.on (GRN.STK_CFG_EN k.val) = true) ∧ (s.stkState k.val = skIDLE))
    ∧ (∃ (k : Fin 8) (s : State), (s.takes GRN.page) ∧ (s.on (GRN.STK_CFG_EN k.val) = true) ∧ (s.stkState k.val ≠ skIDLE))
    ∧ (∃ (k : Fin 8) (s : State), (s.takes GRN.page) ∧ (s.on (GRN.STK_CFG_EN k.val) = true) ∧ (s.armed = true) ∧ (s.get (GRN.STK_CFG_N_MIN k.val) ≤ (s.activeOf k.val).length) ∧ (s.pchIncomplete k.val = false) ∧ (s.stkState k.val = skPRECHARGE))
    ∧ (∃ (k : Fin 8) (s : State), (s.takes GRN.page) ∧ (s.on (GRN.STK_CFG_EN k.val) = true) ∧ (s.armed = false))
    ∧ (∃ (k : Fin 8) (s : State), (s.takes GRN.page) ∧ (s.on (GRN.STK_CFG_EN k.val) = true) ∧ (s.armed = true) ∧ ((s.activeOf k.val).length < s.get (GRN.STK_CFG_N_MIN k.val)))
    ∧ (∃ (k : Fin 8) (s : State), (s.takes GRN.page) ∧ (s.on (GRN.STK_CFG_EN k.val) = true) ∧ (s.armed = true) ∧ (s.get (GRN.STK_CFG_N_MIN k.val) ≤ (s.activeOf k.val).length) ∧ (s.pchIncomplete k.val = true))
    ∧ (∃ (k : Fin 8) (s : State), (s.takes GRN.page) ∧ (s.on (GRN.STK_CFG_EN k.val) = true) ∧ (s.stkState k.val = skBLOCKED) ∧ ((s.stack k.val).stkCause = false) ∧ (s.underStill k.val = false))
    ∧ (∃ (k : Fin 8) (s : State), (s.takes GRN.page) ∧ (s.on (GRN.STK_CFG_EN k.val) = true) ∧ (s.stkState k.val ≠ skBLOCKED ∨ (s.stack k.val).stkCause = true ∨ s.underStill k.val = true)) :=
  ⟨⟨(0 : Fin 8), (sets [((GRN.STK_CFG_EN (0 : Fin 8).val), 1), (GRN.STK_STAT_STATE (0 : Fin 8).val, skIDLE)] : State), by simp only [State.takes]; decide +kernel⟩,
    ⟨(0 : Fin 8), (sets [((GRN.STK_CFG_EN (0 : Fin 8).val), 1), (GRN.STK_STAT_STATE 0, 4)] : State), by simp only [State.takes]; decide +kernel⟩,
    ⟨(0 : Fin 8), (sets [((GRN.STK_CFG_EN (0 : Fin 8).val), 1), (PWR.STAT_ARMED, 1), (GRN.STK_STAT_STATE (0 : Fin 8).val, skPRECHARGE), (GRN.STK_CFG_N_MIN 0, 0), (GRN.VLIM4_PCH_MIN, 0)] : State), by simp only [State.takes]; decide +kernel⟩,
    ⟨(0 : Fin 8), (sets [((GRN.STK_CFG_EN (0 : Fin 8).val), 1)] : State), by simp only [State.takes]; decide +kernel⟩,
    ⟨(0 : Fin 8), (sets [((GRN.STK_CFG_EN (0 : Fin 8).val), 1), (PWR.STAT_ARMED, 1)] : State), by simp only [State.takes]; decide +kernel⟩,
    ⟨(0 : Fin 8), (sets [((GRN.STK_CFG_EN (0 : Fin 8).val), 1), (PWR.STAT_ARMED, 1), (GRN.STK_CFG_N_MIN 0, 0), (GRN.VLIM4_PCH_MIN, 1)] : State), by simp only [State.takes]; decide +kernel⟩,
    ⟨(0 : Fin 8), (sets [((GRN.STK_CFG_EN (0 : Fin 8).val), 1), (GRN.STK_STAT_STATE (0 : Fin 8).val, skBLOCKED)] : State), by simp only [State.takes]; decide +kernel⟩,
    ⟨(0 : Fin 8), (sets [((GRN.STK_CFG_EN (0 : Fin 8).val), 1)] : State), by simp only [State.takes]; decide +kernel⟩⟩

theorem test_meets_GapOverloadAndLimits :
    (∃ (s : State), (s.on GRN.GAP_CFG0_EN = true) ∧ (s.on (GRN.STK_CFG_EN (s.get GRN.GAP_CFG0_STK)) = true) ∧ (s.stkState (s.get GRN.GAP_CFG0_STK) = skRUN) ∧ (s.get GRN.GAP_CFG1_GAP_N ≤ (s.stack (s.get GRN.GAP_CFG0_STK)).gapLo))
    ∧ (∃ (s : State), (s.on GRN.GAP_CFG0_EN = true) ∧ (s.on (GRN.STK_CFG_EN (s.get GRN.GAP_CFG0_STK)) = true) ∧ (s.stkState (s.get GRN.GAP_CFG0_STK) = skGAP) ∧ (s.get GRN.GAP_CFG1_RET_N ≤ (s.stack (s.get GRN.GAP_CFG0_STK)).gapHi))
    ∧ (∃ (n : Fin 48) (t0 : Nat) (s : State), ((s.cell n.val).bypSince = some t0) ∧ (getBits (s.cell n.val).w3 12 2 ≠ 1))
    ∧ (∃ (n : Fin 48) (s : State), (s.get GRN.PLIM2_OVL_MS * 100000 ≤ (s.cell n.val).ovlAbove))
    ∧ (∃ (n : Fin 48) (s : State), (s.get GRN.PLIM2_OVL_MS * 100000 ≤ (s.cell n.val).ovlBelow))
    ∧ (∃ (n : Fin 48) (s : State), ((s.cell n.val).ovlAbove < s.get GRN.PLIM2_OVL_MS * 100000))
    ∧ (∃ (s : State) (k : Nat) (n : Nat) (d : Rat), (1 < d ∨ d < -1))
    ∧ (∃ (s : State) (n : Nat), ((s.cell n).ovlLimited = true)) :=
  ⟨⟨({ sets [(GRN.GAP_CFG0_EN, 1), (GRN.STK_CFG_EN 0, 1), (GRN.STK_STAT_STATE 0, skRUN), (GRN.GAP_CFG1_GAP_N, 2)] with stks := [(0, { gapLo := 2 })] } : State), by decide +kernel⟩,
    ⟨({ sets [(GRN.GAP_CFG0_EN, 1), (GRN.STK_CFG_EN 0, 1), (GRN.STK_STAT_STATE 0, skGAP), (GRN.GAP_CFG1_RET_N, 2)] with stks := [(0, { gapHi := 2 })] } : State), by decide +kernel⟩,
    ⟨(47 : Fin 48), (5 : Nat), ({ State.reset with cells := [(47, { bypSince := some 5 })] } : State), by decide +kernel⟩,
    ⟨(47 : Fin 48), ({ sets [(GRN.PLIM2_OVL_MS, 1)] with cells := [(47, { ovlAbove := 100000 })] } : State), by decide +kernel⟩,
    ⟨(47 : Fin 48), ({ sets [(GRN.PLIM2_OVL_MS, 1)] with cells := [(47, { ovlBelow := 100000 })] } : State), by decide +kernel⟩,
    ⟨(47 : Fin 48), ({ sets [(GRN.PLIM2_OVL_MS, 1)] with cells := [(47, { ovlAbove := 99999 })] } : State), by decide +kernel⟩,
    ⟨(State.reset : State), (0 : Nat), (0 : Nat), (3 / 2 : Rat), by decide +kernel⟩,
    ⟨({ State.reset with cells := [(47, { ovlLimited := true })] } : State), (47 : Nat), by decide +kernel⟩⟩

theorem test_meets_SharingAndTrims :
    (∃ (s : State) (aOld : List Nat) (aNew : List Nat), (aNew ≠ []))
    ∧ (∃ (s : State) (k : Nat) (vb : Rat) (sg : Int), (((s.activeOf k).map (fun n => (s.cell n).v1)).sum ≠ 0)) :=
  ⟨⟨({ State.reset with pubs := [(resKey 3 0, 0x3F800000), (resKey 3 1, 0x40000000)] } : State), ([0, 1] : List Nat), ([1, 2] : List Nat), by decide +kernel⟩,
    ⟨({ sets [(GRN.CELL_STK_MEMB 0 0, 1), (GRN.CELL_STATE_STATE 0 0, ckACTIVE), (GRN.STK_CFG_EN 0, 1)] with cells := [(0, { v1 := 1000 })] } : State), (0 : Nat), (0 : Rat), (0 : Int), by decide +kernel⟩⟩

/-! ### The DAB solver (R82–R103) -/

theorem test_meets_SolverCellsAndParameters :
    (∃ (n : Fin 48) (s : State), (s.takes DSV.page) ∧ (s.get (dsvEn n.val) = 0) ∧ (s.dsvCount < s.get DSV.N_MAX_N) ∧ (s.stackOf n.val = none) ∧ (s.claimable (resKey 1 (2 * n.val + 1)) 3 n.val = true) ∧ ((parOf (s.parWords n.val)).bad = false))
    ∧ (∃ (n : Fin 48) (s : State), (s.takes DSV.page) ∧ (s.get (dsvEn n.val) = 0) ∧ (s.dsvCount < s.get DSV.N_MAX_N) ∧ ((s.stackOf n.val).isSome) ∧ ((parOf (s.parWords n.val)).bad = false))
    ∧ (∃ (n : Fin 48) (s : State), (s.takes DSV.page) ∧ (s.get (dsvEn n.val) = 0) ∧ (s.dsvCount < s.get DSV.N_MAX_N) ∧ (s.stackOf n.val = none) ∧ (s.claimable (resKey 1 (2 * n.val + 1)) 3 n.val = false))
    ∧ (∃ (n : Fin 48) (s : State), (s.takes DSV.page) ∧ (s.get (dsvEn n.val) = 0) ∧ (s.dsvCount < s.get DSV.N_MAX_N) ∧ ((s.stackOf n.val).isSome) ∧ ((parOf (s.parWords n.val)).bad = true))
    ∧ (∃ (n : Fin 48) (s : State), (s.takes DSV.page) ∧ (s.get (dsvEn n.val) = 0) ∧ (s.get DSV.N_MAX_N ≤ s.dsvCount))
    ∧ (∃ (n : Fin 48) (s : State), (s.takes DSV.page) ∧ (s.get (dsvEn n.val) = 1) ∧ (s.stackOf n.val = none ∨ s.cst n.val ∉ [ckACTIVE, ckCHARGING, ckSPARE]))
    ∧ (∃ (n : Fin 48) (s : State), (s.takes DSV.page) ∧ (s.get (dsvEn n.val) = 1) ∧ ((s.stackOf n.val).isSome) ∧ (s.cst n.val ∈ [ckACTIVE, ckCHARGING, ckSPARE]))
    ∧ (∃ (c : Fin 64) (s : State), (s.takes DSV.page) ∧ (c.val < 48) ∧ ((parOf ((List.range 8).map (fun i => if i < 6 then s.reg (DSV.PAR_STAGE0 + 4 * i) else 0))).bad = false))
    ∧ (∃ (c : Fin 64) (s : State), (s.pageGated DSV.page = false) ∧ (48 ≤ c.val ∨ (parOf ((List.range 8).map (fun i => if i < 6 then s.reg (DSV.PAR_STAGE0 + 4 * i) else 0))).bad = true))
    ∧ (∃ (n : Nat) (ws : List Word) (s : State), (n < 48) ∧ ((s.dsv n).pend = some ws) ∧ (ws.length = 8))
    ∧ (∃ (s : State), (∀ n, n < 48 → (s.dsv n).pend = none)) :=
  ⟨⟨(0 : Fin 48), (sets [((dsvEn (0 : Fin 48).val), 0), (⟨DSV.PAR_COPY 0, 0, 32⟩, 0x03E80064), (⟨DSV.PAR_COPY 1, 0, 32⟩, 0x1000), (⟨DSV.PAR_COPY 3, 0, 32⟩, 0x27100064), (⟨DSV.PAR_COPY 4, 0, 32⟩, 0x27100064), (⟨DSV.PAR_COPY 5, 0, 32⟩, 0x4000)] : State), by simp only [State.takes]; decide +kernel⟩,
    ⟨(0 : Fin 48), (sets [((dsvEn (0 : Fin 48).val), 0), (GRN.CELL_STK_MEMB ((0 : Fin 48).val / 8) ((0 : Fin 48).val % 8), 1), (GRN.STK_CFG_EN 0, 1), (⟨DSV.PAR_COPY 0, 0, 32⟩, 0x03E80064), (⟨DSV.PAR_COPY 1, 0, 32⟩, 0x1000), (⟨DSV.PAR_COPY 3, 0, 32⟩, 0x27100064), (⟨DSV.PAR_COPY 4, 0, 32⟩, 0x27100064), (⟨DSV.PAR_COPY 5, 0, 32⟩, 0x4000)] : State), by simp only [State.takes]; decide +kernel⟩,
    ⟨(0 : Fin 48), ({ sets [((dsvEn (0 : Fin 48).val), 0)] with claims := [(resKey 1 1, ⟨2, 0, 0, 0⟩)] } : State), by simp only [State.takes]; decide +kernel⟩,
    ⟨(0 : Fin 48), (sets [((dsvEn (0 : Fin 48).val), 0), (GRN.CELL_STK_MEMB ((0 : Fin 48).val / 8) ((0 : Fin 48).val % 8), 1), (GRN.STK_CFG_EN 0, 1), (⟨DSV.PAR_COPY 0, 0, 32⟩, 0), (⟨DSV.PAR_COPY 1, 0, 32⟩, 0), (⟨DSV.PAR_COPY 3, 0, 32⟩, 0), (⟨DSV.PAR_COPY 4, 0, 32⟩, 0), (⟨DSV.PAR_COPY 5, 0, 32⟩, 0)] : State), by simp only [State.takes]; decide +kernel⟩,
    ⟨(47 : Fin 48), (sets [((dsvEn (47 : Fin 48).val), 0), (DSV.N_MAX_N, 0)] : State), by simp only [State.takes]; decide +kernel⟩,
    ⟨(0 : Fin 48), (sets [((dsvEn (0 : Fin 48).val), 1)] : State), by simp only [State.takes]; decide +kernel⟩,
    ⟨(0 : Fin 48), (sets [((dsvEn (0 : Fin 48).val), 1), (GRN.CELL_STK_MEMB ((0 : Fin 48).val / 8) ((0 : Fin 48).val % 8), 1), (GRN.STK_CFG_EN 0, 1), (GRN.CELL_STATE_STATE ((0 : Fin 48).val / 8) ((0 : Fin 48).val % 8), ckACTIVE)] : State), by simp only [State.takes]; decide +kernel⟩,
    ⟨(47 : Fin 64), (sets [(⟨DSV.PAR_STAGE0 + 0, 0, 32⟩, 0x03E80064), (⟨DSV.PAR_STAGE0 + 4, 0, 32⟩, 0x1000), (⟨DSV.PAR_STAGE0 + 12, 0, 32⟩, 0x27100064), (⟨DSV.PAR_STAGE0 + 16, 0, 32⟩, 0x27100064), (⟨DSV.PAR_STAGE0 + 20, 0, 32⟩, 0x4000)] : State), by simp only [State.takes]; decide +kernel⟩,
    ⟨(48 : Fin 64), (State.reset : State), by decide +kernel⟩,
    ⟨(47 : Nat), ([1, 2, 3, 4, 5, 6, 7, 8] : List Word), ({ State.reset with dsvs := [(47, { pend := some [1, 2, 3, 4, 5, 6, 7, 8] })] } : State), by decide +kernel⟩,
    ⟨(State.reset : State), by decide +kernel⟩⟩

theorem test_meets_SolverSolvesAndChooses :
    (∃ (s : State), (s.dsvRuns = true) ∧ (s.window = 2) ∧ (s.now < s.bndAt + s.get TBS.PER_WIN1_W_GD * t10))
    ∧ (∃ (s : State), (s.window ≠ 2 ∨ s.bndAt + s.get TBS.PER_WIN1_W_GD * t10 ≤ s.now))
    ∧ (∃ (s : State) (n : Nat), (n ∈ s.dsvCells))
    ∧ (∃ (s : State) (n : Nat), (n ∉ s.dsvCells))
    ∧ (∃ (s : State) (n : Nat), (n ∈ s.dsvCells))
    ∧ (∃ (p : DsvPar) (pIdle : Rat) (v1 : Nat) (v2 : Nat) (prd : Nat) (pw : Rat) (prev : Int) (st : Bool), (v1 < p.v1min ∨ p.v1max < v1 ∨ v2 < p.v2min ∨ p.v2max < v2 ∨ (if pw < 0 then -pw else pw) < pIdle))
    ∧ (∃ (p : DsvPar) (pIdle : Rat) (v1 : Nat) (v2 : Nat) (prd : Nat) (pw : Rat) (prev : Int) (st : Bool), ((solveCell p pIdle v1 v2 prd pw prev st).idle = false) ∧ (p.phiSlew ≠ 0))
    ∧ (∃ (m : Nat) (l : List Cand) (c : Cand) (x : Cand), (bestCand m l = some c) ∧ (x ∈ l))
    ∧ (∃ (m : Nat) (l : List Cand) (c : Cand) (x : Cand), (bestCand m l = some c) ∧ (∃ x ∈ l, x.nhard = 0) ∧ (x.nhard = 0) ∧ (x ∈ l)) :=
  ⟨⟨({ State.reset with window := 2 } : State), by decide +kernel⟩,
    ⟨({ State.reset with window := 2, now := 25000000 } : State), by decide +kernel⟩,
    ⟨({ State.reset with dsvs := [(47, { on := true })] } : State), (47 : Nat), by decide +kernel⟩,
    ⟨(State.reset : State), (0 : Nat), by decide +kernel⟩,
    ⟨({ State.reset with dsvs := [(47, { on := true })] } : State), (47 : Nat), by decide +kernel⟩,
    ⟨({ llk := 100, lm := 1000, ratio := 0x1000, izvs1 := 0, izvs2 := 0, v1min := 100, v1max := 10000, v2min := 100, v2max := 10000, phiMax := 0x4000, phiSlew := 5 } : DsvPar), (0 : Rat), (99 : Nat), (0 : Nat), (0 : Nat), (0 : Rat), (0 : Int), (false : Bool), by decide +kernel⟩,
    ⟨({ llk := 100, lm := 1000, ratio := 0x1000, izvs1 := 0, izvs2 := 0, v1min := 100, v1max := 10000, v2min := 100, v2max := 10000, phiMax := 0x4000, phiSlew := 5 } : DsvPar), (1 : Rat), (1000 : Nat), (1000 : Nat), (4000 : Nat), (10000 : Rat), (0 : Int), (false : Bool), by decide +kernel⟩,
    ⟨(0 : Nat), ([CAND0] : List Cand), (CAND0 : Cand), (CAND0 : Cand), by decide +kernel⟩,
    ⟨(0 : Nat), ([CAND0] : List Cand), (CAND0 : Cand), (CAND0 : Cand), by decide +kernel⟩⟩

theorem test_meets_SolverWorkedExamples :
    ∃ (p : DsvPar), (p = { llk := 0x1770, lm := 0x1770, ratio := 0x0834, izvs1 := 0x50, izvs2 := 0xA0, v1min := 0x3E80, v1max := 0x61A8, v2min := 0x1F40, v2max := 0x2AF8, phiMax := 0x2000, phiSlew := 0x0800 }) :=
  ⟨({ llk := 0x1770, lm := 0x1770, ratio := 0x0834, izvs1 := 0x50, izvs2 := 0xA0, v1min := 0x3E80, v1max := 0x61A8, v2min := 0x1F40, v2max := 0x2AF8, phiMax := 0x2000, phiSlew := 0x0800 } : DsvPar), by decide +kernel⟩

/-! ### Modulators and the PWM time base (R104–R144) -/

theorem test_meets_CarrierEventsAndPeriod :
    (∃ (c : Chan) (x : Int), (0 < c.act.prd) ∧ (-(c.act.prd : Int) < c.dl) ∧ (c.dl ≤ c.act.prd))
    ∧ (∃ (prd : Int) (phase : Int) (v : Int), (0 < prd))
    ∧ (∃ (c : Chan) (v : Int) (p : Nat) (ph : Nat), (c.turn = some (p, ph)))
    ∧ (∃ (ch : Fin 108) (s : State), ((if ch.val < 96 then s.chRuns ch.val else s.legRuns (ch.val - 96)) = false))
    ∧ (∃ (ch : Fin 108) (s : State) (c : Chan) (valley : Bool) (x : Int), (ch.val < 96) ∧ (s.chRuns ch.val = true) ∧ (c = { s.chan ch.val with pos := max (s.chan ch.val).pos (16 * s.nowTick - 1) }) ∧ (x = (if (c.nextEvent c.pos).2 = valley then (c.nextEvent c.pos).1 else (c.nextEvent (c.nextEvent c.pos).1).1)))
    ∧ (∃ (ch : Fin 108) (s : State) (c : Chan) (valley : Bool) (x : Int), (96 ≤ ch.val) ∧ (s.legRuns (ch.val - 96) = true) ∧ (c = { s.chan ch.val with pos := max (s.chan ch.val).pos (16 * s.nowTick - 1) }) ∧ (x = (if (c.nextEvent c.pos).2 = valley then (c.nextEvent c.pos).1 else (c.nextEvent (c.nextEvent c.pos).1).1)))
    ∧ (∃ (ch : Fin 96) (v : Word) (s : State), (s.takes (chPage ch.val)) ∧ (prdOk ch.val (v.toNat % 131072) = false))
    ∧ (∃ (ch : Fin 96) (v : Word) (s : State), (s.takes (chPage ch.val)) ∧ (prdOk ch.val (v.toNat % 131072) = true) ∧ (budgetOk (s.get TBS.PER_CFG_PERIOD) (if ch.val % 2 = 1 then v.toNat % 131072 else s.get (MODCH.PRD_PRD (ch.val + 1))) (if ch.val % 2 = 0 then v.toNat % 131072 else s.get (MODCH.PRD_PRD (ch.val - 1))) = false))
    ∧ (∃ (ch : Fin 96) (v : Word) (s : State), (s.takes (chPage ch.val)) ∧ (prdOk ch.val (v.toNat % 131072) = true) ∧ (s.nowTick ≠ s.capTickNow) ∧ (budgetOk (s.get TBS.PER_CFG_PERIOD) (if ch.val % 2 = 1 then v.toNat % 131072 else s.get (MODCH.PRD_PRD (ch.val + 1))) (if ch.val % 2 = 0 then v.toNat % 131072 else s.get (MODCH.PRD_PRD (ch.val - 1))) = true)) :=
  ⟨⟨({ chanDefault 0 with dl := 20000, act := { (chanDefault 0).act with prd := 20000 } } : Chan), (0 : Int), by decide +kernel⟩,
    ⟨(20000 : Int), (3 : Int), (7 : Int), by decide +kernel⟩,
    ⟨({ chanDefault 0 with turn := some (30000, 5) } : Chan), (0 : Int), (30000 : Nat), (5 : Nat), by decide +kernel⟩,
    ⟨(107 : Fin 108), (State.reset : State), by decide +kernel⟩,
    ⟨(95 : Fin 108), (sets [(MODCH.CFG_EN 95, 1)] : State), (({ (sets [(MODCH.CFG_EN 95, 1)] : State).chan (95 : Fin 108).val with pos := max ((sets [(MODCH.CFG_EN 95, 1)] : State).chan (95 : Fin 108).val).pos (16 * (sets [(MODCH.CFG_EN 95, 1)] : State).nowTick - 1) }) : Chan), (true : Bool), (((if ((({ (sets [(MODCH.CFG_EN 95, 1)] : State).chan (95 : Fin 108).val with pos := max ((sets [(MODCH.CFG_EN 95, 1)] : State).chan (95 : Fin 108).val).pos (16 * (sets [(MODCH.CFG_EN 95, 1)] : State).nowTick - 1) }) : Chan).nextEvent (({ (sets [(MODCH.CFG_EN 95, 1)] : State).chan (95 : Fin 108).val with pos := max ((sets [(MODCH.CFG_EN 95, 1)] : State).chan (95 : Fin 108).val).pos (16 * (sets [(MODCH.CFG_EN 95, 1)] : State).nowTick - 1) }) : Chan).pos).2 = (true : Bool) then ((({ (sets [(MODCH.CFG_EN 95, 1)] : State).chan (95 : Fin 108).val with pos := max ((sets [(MODCH.CFG_EN 95, 1)] : State).chan (95 : Fin 108).val).pos (16 * (sets [(MODCH.CFG_EN 95, 1)] : State).nowTick - 1) }) : Chan).nextEvent (({ (sets [(MODCH.CFG_EN 95, 1)] : State).chan (95 : Fin 108).val with pos := max ((sets [(MODCH.CFG_EN 95, 1)] : State).chan (95 : Fin 108).val).pos (16 * (sets [(MODCH.CFG_EN 95, 1)] : State).nowTick - 1) }) : Chan).pos).1 else ((({ (sets [(MODCH.CFG_EN 95, 1)] : State).chan (95 : Fin 108).val with pos := max ((sets [(MODCH.CFG_EN 95, 1)] : State).chan (95 : Fin 108).val).pos (16 * (sets [(MODCH.CFG_EN 95, 1)] : State).nowTick - 1) }) : Chan).nextEvent ((({ (sets [(MODCH.CFG_EN 95, 1)] : State).chan (95 : Fin 108).val with pos := max ((sets [(MODCH.CFG_EN 95, 1)] : State).chan (95 : Fin 108).val).pos (16 * (sets [(MODCH.CFG_EN 95, 1)] : State).nowTick - 1) }) : Chan).nextEvent (({ (sets [(MODCH.CFG_EN 95, 1)] : State).chan (95 : Fin 108).val with pos := max ((sets [(MODCH.CFG_EN 95, 1)] : State).chan (95 : Fin 108).val).pos (16 * (sets [(MODCH.CFG_EN 95, 1)] : State).nowTick - 1) }) : Chan).pos).1).1)) : Int), by decide +kernel⟩,
    ⟨(107 : Fin 108), (sets [(LPW.CFG_EN 11, 1)] : State), (({ (sets [(LPW.CFG_EN 11, 1)] : State).chan (107 : Fin 108).val with pos := max ((sets [(LPW.CFG_EN 11, 1)] : State).chan (107 : Fin 108).val).pos (16 * (sets [(LPW.CFG_EN 11, 1)] : State).nowTick - 1) }) : Chan), (false : Bool), (((if ((({ (sets [(LPW.CFG_EN 11, 1)] : State).chan (107 : Fin 108).val with pos := max ((sets [(LPW.CFG_EN 11, 1)] : State).chan (107 : Fin 108).val).pos (16 * (sets [(LPW.CFG_EN 11, 1)] : State).nowTick - 1) }) : Chan).nextEvent (({ (sets [(LPW.CFG_EN 11, 1)] : State).chan (107 : Fin 108).val with pos := max ((sets [(LPW.CFG_EN 11, 1)] : State).chan (107 : Fin 108).val).pos (16 * (sets [(LPW.CFG_EN 11, 1)] : State).nowTick - 1) }) : Chan).pos).2 = (false : Bool) then ((({ (sets [(LPW.CFG_EN 11, 1)] : State).chan (107 : Fin 108).val with pos := max ((sets [(LPW.CFG_EN 11, 1)] : State).chan (107 : Fin 108).val).pos (16 * (sets [(LPW.CFG_EN 11, 1)] : State).nowTick - 1) }) : Chan).nextEvent (({ (sets [(LPW.CFG_EN 11, 1)] : State).chan (107 : Fin 108).val with pos := max ((sets [(LPW.CFG_EN 11, 1)] : State).chan (107 : Fin 108).val).pos (16 * (sets [(LPW.CFG_EN 11, 1)] : State).nowTick - 1) }) : Chan).pos).1 else ((({ (sets [(LPW.CFG_EN 11, 1)] : State).chan (107 : Fin 108).val with pos := max ((sets [(LPW.CFG_EN 11, 1)] : State).chan (107 : Fin 108).val).pos (16 * (sets [(LPW.CFG_EN 11, 1)] : State).nowTick - 1) }) : Chan).nextEvent ((({ (sets [(LPW.CFG_EN 11, 1)] : State).chan (107 : Fin 108).val with pos := max ((sets [(LPW.CFG_EN 11, 1)] : State).chan (107 : Fin 108).val).pos (16 * (sets [(LPW.CFG_EN 11, 1)] : State).nowTick - 1) }) : Chan).nextEvent (({ (sets [(LPW.CFG_EN 11, 1)] : State).chan (107 : Fin 108).val with pos := max ((sets [(LPW.CFG_EN 11, 1)] : State).chan (107 : Fin 108).val).pos (16 * (sets [(LPW.CFG_EN 11, 1)] : State).nowTick - 1) }) : Chan).pos).1).1)) : Int), by decide +kernel⟩,
    ⟨(0 : Fin 96), (0 : Word), (State.reset : State), by simp only [State.takes]; decide +kernel⟩,
    ⟨(0 : Fin 96), (10000 : Word), (sets [(TBS.PER_CFG_PERIOD, 20000)] : State), by simp only [State.takes]; decide +kernel⟩,
    ⟨(94 : Fin 96), (100000 : Word), ({ sets [(MODCH.PRD_PRD 95, 10000)] with now := 2400 } : State), by simp only [State.takes]; decide +kernel⟩⟩

theorem test_meets_LegsAndHalts :
    (∃ (k : Fin 12) (v : Word) (s : State), (s.takes LPW.page) ∧ (s.isl = true) ∧ (s.get (LPW.CFG_EN k.val) = 0) ∧ (getBits v 1 3 < 6) ∧ (getBits v 4 2 ≠ 0) ∧ (s.claimable (resKey 2 k.val) 1 k.val = true))
    ∧ (∃ (k : Fin 12) (v : Word) (s : State), (s.takes LPW.page) ∧ (s.isl = true) ∧ (s.get (LPW.CFG_EN k.val) = 1) ∧ (getBits v 1 3 < 6) ∧ (getBits v 4 2 ≠ 0) ∧ ((s.claim (resKey 2 k.val)).cls = 1) ∧ ((s.claim (resKey 2 k.val)).inst = k.val))
    ∧ (∃ (k : Fin 12) (v : Word) (s : State) (r : Nat), (s.takes LPW.page) ∧ (s.isl = false))
    ∧ (∃ (k : Fin 12) (v : Word) (s : State), (s.isl = true) ∧ (s.pageGated LPW.page = false) ∧ (6 ≤ getBits v 1 3 ∨ getBits v 4 2 = 0))
    ∧ (∃ (h : Fin 5) (s : State), (h.val < 3) ∧ (s.dbgHas 1 = true) ∧ (s.get PWR.STAT_STATE = 2 → s.pwr.left < 3) ∧ ((match h.val with | 0 => s.on MOD.CFG_HALT_HCA | 1 => s.on MOD.CFG_HALT_HCB | _ => s.on MOD.CFG_HALT_LE) = true))
    ∧ (∃ (h : Fin 5) (s : State), (h.val < 3) ∧ (s.dbgHas 1 = true) ∧ (s.get PWR.STAT_STATE ≠ 2) ∧ ((match h.val with | 0 => s.on MOD.CFG_HALT_HCA | 1 => s.on MOD.CFG_HALT_HCB | _ => s.on MOD.CFG_HALT_LE) = false))
    ∧ (∃ (h : Fin 5) (s : State), (s.dbgHas (if h.val < 3 then 1 else 3) = false))
    ∧ (∃ (h : Fin 5) (s : State), (3 ≤ h.val) ∧ (s.dbgHas 3 = true) ∧ (s.get SAF.STAT_LOCKOUT = 0)) :=
  ⟨⟨(0 : Fin 12), (0x1A : Word), (sets [((LPW.CFG_EN (0 : Fin 12).val), 0)] : State), by simp only [State.takes]; decide +kernel⟩,
    ⟨(11 : Fin 12), (0x1A : Word), ({ sets [((LPW.CFG_EN (11 : Fin 12).val), 1)] with claims := [(resKey 2 11, ⟨1, 11, 0, 0⟩)] } : State), by simp only [State.takes]; decide +kernel⟩,
    ⟨(11 : Fin 12), (7 : Word), ({ State.reset with straps := { strapsReset with islFit := false } } : State), (0 : Nat), by simp only [State.takes]; decide +kernel⟩,
    ⟨(11 : Fin 12), (0x1C : Word), (State.reset : State), by decide +kernel⟩,
    ⟨(2 : Fin 5), (sets [(MOD.CFG_HALT_LE, 1)] : State), by decide +kernel⟩,
    ⟨(1 : Fin 5), (sets [(MOD.CFG_HALT_HCB, 0)] : State), by decide +kernel⟩,
    ⟨(2 : Fin 5), (sets [(SEC.DBG_STAT_STATE, 0)] : State), by decide +kernel⟩,
    ⟨(3 : Fin 5), (sets [(SAF.STAT_LOCKOUT, 0)] : State), by decide +kernel⟩⟩

theorem test_meets_TripSetsFlagAndLatch :
    (∃ (s : State) (src : Nat) (hiz : Nat) (asc : Nat) (cells : Nat), (src < 16) ∧ ((s.unRearm src).latches = []))
    ∧ (∃ (s : State) (src : Nat) (hiz : Nat) (asc : Nat) (cells : Nat) (l : Latch), (src < 16) ∧ (l.src ≠ src) ∧ (l ∈ s.latches))
    ∧ (∃ (s : State) (src : Nat) (hiz : Nat) (asc : Nat) (cells : Nat) (r : RearmRec) (l : Latch), (src < 16) ∧ (s.rearmed = some r) ∧ (s.tickOf r.at_ = s.nowTick) ∧ (src ≠ 12) ∧ (l ∈ r.latches) ∧ (l.src = src))
    ∧ (∃ (s : State) (src : Nat) (hiz : Nat) (asc : Nat) (cells : Nat) (n : Nat), (src < 16) ∧ (cells.testBit n = true)) :=
  ⟨⟨(State.reset : State), (0 : Nat), (0 : Nat), (0 : Nat), (0 : Nat), by decide +kernel⟩,
    ⟨({ State.reset with latches := [⟨3, 1, 0, 0⟩] } : State), (15 : Nat), (0 : Nat), (0 : Nat), (0 : Nat), (⟨3, 1, 0, 0⟩ : Latch), by decide +kernel⟩,
    ⟨({ State.reset with rearmed := some ⟨0, true, [⟨15, 1, 0, 0⟩], 0, []⟩ } : State), (15 : Nat), (0 : Nat), (0 : Nat), (0 : Nat), (⟨0, true, [⟨15, 1, 0, 0⟩], 0, []⟩ : RearmRec), (⟨15, 1, 0, 0⟩ : Latch), by decide +kernel⟩,
    ⟨(State.reset : State), (15 : Nat), (0 : Nat), (0 : Nat), (2 ^ 47 : Nat), (47 : Nat), by decide +kernel⟩⟩

theorem test_meets_TripInputsAct :
    (∃ (n : Fin 8) (l : Bool) (held : Nat) (s : State) (u : State), ((l == (s.get TRP.CFG_POL).testBit n.val) = true) ∧ ((s.get TRP.CFG_EN).testBit n.val = true) ∧ (s.flt n.val * 10 ≤ held) ∧ (s.get ⟨TRP.STAT, n.val, 1⟩ = 0) ∧ (u = ({ s with trpIn := SMap.ins s.trpIn n.val (l, s.now - held * tNs) }.set ⟨TRP.STAT, n.val, 1⟩ 1).srcActive n.val true) ∧ (s.get TRP.CFG_GROUPS = 0))
    ∧ (∃ (n : Fin 8) (l : Bool) (held : Nat) (s : State) (u : State) (g : Nat × Nat × Nat), ((l == (s.get TRP.CFG_POL).testBit n.val) = true) ∧ ((s.get TRP.CFG_EN).testBit n.val = true) ∧ (s.flt n.val * 10 ≤ held) ∧ (s.get ⟨TRP.STAT, n.val, 1⟩ = 0) ∧ (u = ({ s with trpIn := SMap.ins s.trpIn n.val (l, s.now - held * tNs) }.set ⟨TRP.STAT, n.val, 1⟩ 1).srcActive n.val true) ∧ (s.get TRP.CFG_GROUPS = 1) ∧ (g = u.groupOuts (u.gmap n.val)))
    ∧ (∃ (n : Fin 8) (l : Bool) (held : Nat) (s : State), ((l == (s.get TRP.CFG_POL).testBit n.val) = true) ∧ ((s.get TRP.CFG_EN).testBit n.val = true) ∧ (held < s.flt n.val * 10))
    ∧ (∃ (n : Fin 8) (l : Bool) (held : Nat) (s : State), ((s.get TRP.CFG_EN).testBit n.val = false) ∧ (s.get ⟨TRP.STAT, n.val, 1⟩ = 0))
    ∧ (∃ (n : Fin 8) (l : Bool) (held : Nat) (s : State), ((l == (s.get TRP.CFG_POL).testBit n.val) = false) ∧ (s.get ⟨TRP.STAT, n.val, 1⟩ = 1))
    ∧ (∃ (s : State), (s.takes TRP.page)) :=
  ⟨⟨(7 : Fin 8), (true : Bool), (10 * 65535 : Nat), (sets [(⟨TRP.STAT, (7 : Fin 8).val, 1⟩, 0), (TRP.CFG_GROUPS, 0), (TRP.CFG_EN, 255), (TRP.CFG_POL, 255)] : State), (({ (sets [(⟨TRP.STAT, (7 : Fin 8).val, 1⟩, 0), (TRP.CFG_GROUPS, 0), (TRP.CFG_EN, 255), (TRP.CFG_POL, 255)] : State) with trpIn := SMap.ins (sets [(⟨TRP.STAT, (7 : Fin 8).val, 1⟩, 0), (TRP.CFG_GROUPS, 0), (TRP.CFG_EN, 255), (TRP.CFG_POL, 255)] : State).trpIn (7 : Fin 8).val ((true : Bool), (sets [(⟨TRP.STAT, (7 : Fin 8).val, 1⟩, 0), (TRP.CFG_GROUPS, 0), (TRP.CFG_EN, 255), (TRP.CFG_POL, 255)] : State).now - (10 * 65535 : Nat) * tNs) }.set ⟨TRP.STAT, (7 : Fin 8).val, 1⟩ 1).srcActive (7 : Fin 8).val true : State), by decide +kernel⟩,
    ⟨(7 : Fin 8), (true : Bool), (10 * 65535 : Nat), (sets [(⟨TRP.STAT, (7 : Fin 8).val, 1⟩, 0), (TRP.CFG_GROUPS, 1), (TRP.CFG_EN, 255), (TRP.CFG_POL, 255), (TRP.GRP_LEGS 0, 3), (TRP.GMAP1_GMAP 3, 1)] : State), (({ (sets [(⟨TRP.STAT, (7 : Fin 8).val, 1⟩, 0), (TRP.CFG_GROUPS, 1), (TRP.CFG_EN, 255), (TRP.CFG_POL, 255), (TRP.GRP_LEGS 0, 3), (TRP.GMAP1_GMAP 3, 1)] : State) with trpIn := SMap.ins (sets [(⟨TRP.STAT, (7 : Fin 8).val, 1⟩, 0), (TRP.CFG_GROUPS, 1), (TRP.CFG_EN, 255), (TRP.CFG_POL, 255), (TRP.GRP_LEGS 0, 3), (TRP.GMAP1_GMAP 3, 1)] : State).trpIn (7 : Fin 8).val ((true : Bool), (sets [(⟨TRP.STAT, (7 : Fin 8).val, 1⟩, 0), (TRP.CFG_GROUPS, 1), (TRP.CFG_EN, 255), (TRP.CFG_POL, 255), (TRP.GRP_LEGS 0, 3), (TRP.GMAP1_GMAP 3, 1)] : State).now - (10 * 65535 : Nat) * tNs) }.set ⟨TRP.STAT, (7 : Fin 8).val, 1⟩ 1).srcActive (7 : Fin 8).val true : State), ((({ (sets [(⟨TRP.STAT, (7 : Fin 8).val, 1⟩, 0), (TRP.CFG_GROUPS, 1), (TRP.CFG_EN, 255), (TRP.CFG_POL, 255), (TRP.GRP_LEGS 0, 3), (TRP.GMAP1_GMAP 3, 1)] : State) with trpIn := SMap.ins (sets [(⟨TRP.STAT, (7 : Fin 8).val, 1⟩, 0), (TRP.CFG_GROUPS, 1), (TRP.CFG_EN, 255), (TRP.CFG_POL, 255), (TRP.GRP_LEGS 0, 3), (TRP.GMAP1_GMAP 3, 1)] : State).trpIn (7 : Fin 8).val ((true : Bool), (sets [(⟨TRP.STAT, (7 : Fin 8).val, 1⟩, 0), (TRP.CFG_GROUPS, 1), (TRP.CFG_EN, 255), (TRP.CFG_POL, 255), (TRP.GRP_LEGS 0, 3), (TRP.GMAP1_GMAP 3, 1)] : State).now - (10 * 65535 : Nat) * tNs) }.set ⟨TRP.STAT, (7 : Fin 8).val, 1⟩ 1).srcActive (7 : Fin 8).val true : State).groupOuts ((({ (sets [(⟨TRP.STAT, (7 : Fin 8).val, 1⟩, 0), (TRP.CFG_GROUPS, 1), (TRP.CFG_EN, 255), (TRP.CFG_POL, 255), (TRP.GRP_LEGS 0, 3), (TRP.GMAP1_GMAP 3, 1)] : State) with trpIn := SMap.ins (sets [(⟨TRP.STAT, (7 : Fin 8).val, 1⟩, 0), (TRP.CFG_GROUPS, 1), (TRP.CFG_EN, 255), (TRP.CFG_POL, 255), (TRP.GRP_LEGS 0, 3), (TRP.GMAP1_GMAP 3, 1)] : State).trpIn (7 : Fin 8).val ((true : Bool), (sets [(⟨TRP.STAT, (7 : Fin 8).val, 1⟩, 0), (TRP.CFG_GROUPS, 1), (TRP.CFG_EN, 255), (TRP.CFG_POL, 255), (TRP.GRP_LEGS 0, 3), (TRP.GMAP1_GMAP 3, 1)] : State).now - (10 * 65535 : Nat) * tNs) }.set ⟨TRP.STAT, (7 : Fin 8).val, 1⟩ 1).srcActive (7 : Fin 8).val true : State).gmap (7 : Fin 8).val) : Nat × Nat × Nat), by decide +kernel⟩,
    ⟨(7 : Fin 8), (true : Bool), (9 : Nat), (sets [(TRP.CFG_EN, 255), (TRP.CFG_POL, 255), (TRP.FLT1_FLT 3, 1)] : State), by decide +kernel⟩,
    ⟨(0 : Fin 8), (false : Bool), (0 : Nat), (sets [(⟨TRP.STAT, (0 : Fin 8).val, 1⟩, 0)] : State), by decide +kernel⟩,
    ⟨(7 : Fin 8), (false : Bool), (0 : Nat), (sets [(⟨TRP.STAT, (7 : Fin 8).val, 1⟩, 1), (TRP.CFG_EN, 255), (TRP.CFG_POL, 255)] : State), by decide +kernel⟩,
    ⟨(State.reset : State), by simp only [State.takes]; decide +kernel⟩⟩

theorem test_meets_TripExitTakesTwoWrites :
    (∃ (i : Bool) (b : Nat) (s : State), (s.takes TRP.page) ∧ (b < 8) ∧ (s.get (flagFld ((if i then 8 else 0) + b)) = 1) ∧ (s.srcNow ((if i then 8 else 0) + b) = false))
    ∧ (∃ (i : Bool) (b : Nat) (s : State), (s.takes TRP.page) ∧ (b < 8) ∧ (s.get (flagFld ((if i then 8 else 0) + b)) = 1) ∧ (s.srcNow ((if i then 8 else 0) + b) = true))
    ∧ (∃ (src : Nat) (s : State), (s.takes TRP.page) ∧ (src < 16) ∧ (s.get (latchFld src) = 1) ∧ (s.tripsNow src = true))
    ∧ (∃ (src : Nat) (s : State), (s.takes TRP.page) ∧ (src < 16) ∧ (s.get (latchFld src) = 1) ∧ (s.get (flagFld src) = 1) ∧ (s.tripsNow src = false))
    ∧ (∃ (src : Nat) (s : State), (s.takes TRP.page) ∧ (src < 16) ∧ (s.get (latchFld src) = 1) ∧ (s.get (flagFld src) = 0) ∧ (s.inactLong src = false))
    ∧ (∃ (src : Nat) (s : State), (s.takes TRP.page) ∧ (src < 16) ∧ (s.get (latchFld src) = 1) ∧ (s.get (flagFld src) = 0) ∧ (s.inactLong src = true)) :=
  ⟨⟨(true : Bool), (7 : Nat), (sets [(flagFld 15, 1)] : State), by simp only [State.takes]; decide +kernel⟩,
    ⟨(true : Bool), (7 : Nat), ({ sets [(flagFld 15, 1)] with srcAct := 0x8000 } : State), by simp only [State.takes]; decide +kernel⟩,
    ⟨(15 : Nat), ({ sets [((latchFld (15 : Nat)), 1)] with tripAt := [(15, 0)] } : State), by simp only [State.takes]; decide +kernel⟩,
    ⟨(0 : Nat), (sets [((latchFld (0 : Nat)), 1), ((flagFld (0 : Nat)), 1)] : State), by simp only [State.takes]; decide +kernel⟩,
    ⟨(15 : Nat), ({ sets [((latchFld (15 : Nat)), 1), ((flagFld (15 : Nat)), 0)] with inactAt := [(15, 1)], now := 960000 } : State), by simp only [State.takes]; decide +kernel⟩,
    ⟨(15 : Nat), ({ sets [((latchFld (15 : Nat)), 1), ((flagFld (15 : Nat)), 0)] with inactAt := [(15, 1)], now := 960001 } : State), by simp only [State.takes]; decide +kernel⟩⟩

theorem test_meets_OutputPrecedence :
    (∃ (s : State) (k : Nat), (k < 12) ∧ (s.armed = false ∨ s.hizLegs.testBit k = true))
    ∧ (∃ (s : State) (k : Nat), (k < 12) ∧ (s.armed = true) ∧ (s.hizLegs.testBit k = false) ∧ (s.ascLegs.testBit k = true))
    ∧ (∃ (s : State) (k : Nat), (k < 12) ∧ (s.armed = true) ∧ (s.hizLegs.testBit k = false) ∧ (s.ascLegs.testBit k = false) ∧ (s.haltMode = 1))
    ∧ (∃ (s : State) (k : Nat), (k < 12) ∧ (s.armed = true) ∧ (s.hizLegs.testBit k = false) ∧ (s.ascLegs.testBit k = false) ∧ (s.haltMode = 2))
    ∧ (∃ (s : State) (k : Nat), (k < 12) ∧ (s.armed = true) ∧ (s.hizLegs.testBit k = false) ∧ (s.ascLegs.testBit k = false) ∧ (s.haltMode = 0) ∧ (s.legBlk.testBit k = true))
    ∧ (∃ (s : State) (k : Nat), (k < 12) ∧ (s.armed = true) ∧ (s.hizLegs.testBit k = false) ∧ (s.ascLegs.testBit k = false) ∧ (s.haltMode = 0) ∧ (s.legBlk.testBit k = false) ∧ ((s.chan (96 + k)).act.mode = 0 ∨ s.legWait.testBit k = true))
    ∧ (∃ (s : State) (k : Nat), (k < 12) ∧ (s.armed = true) ∧ (s.hizLegs.testBit k = false) ∧ (s.ascLegs.testBit k = false) ∧ (s.haltMode = 0) ∧ (s.legBlk.testBit k = false) ∧ ((s.chan (96 + k)).act.mode ≠ 0) ∧ (s.legWait.testBit k = false) ∧ (s.get (LPW.CFG_EN k) = 1)) :=
  ⟨⟨(State.reset : State), (11 : Nat), by decide +kernel⟩,
    ⟨({ sets [(PWR.STAT_ARMED, 1)] with latches := [⟨3, 0, 0xFFF, 0⟩] } : State), (11 : Nat), by decide +kernel⟩,
    ⟨({ sets [(PWR.STAT_ARMED, 1)] with haltMode := 1 } : State), (11 : Nat), by decide +kernel⟩,
    ⟨({ sets [(PWR.STAT_ARMED, 1)] with haltMode := 2 } : State), (11 : Nat), by decide +kernel⟩,
    ⟨({ sets [(PWR.STAT_ARMED, 1)] with legBlk := 0x800 } : State), (11 : Nat), by decide +kernel⟩,
    ⟨(sets [(PWR.STAT_ARMED, 1)] : State), (11 : Nat), by decide +kernel⟩,
    ⟨({ sets [(PWR.STAT_ARMED, 1), ((LPW.CFG_EN (11 : Nat)), 1)] with chans := [(107, { chanDefault 107 with act := { (chanDefault 107).act with mode := 1 } })] } : State), (11 : Nat), by decide +kernel⟩⟩

/-! ### Brejalink cell links (R145–R184) -/

theorem test_meets_LaneStatesAndTraining :
    (∃ (n : Fin 48) (v : Word) (s : State), (s.takes (LANE.page n.val)) ∧ (s.get (LANE.CFG_EN n.val) = 0) ∧ (getBits v 3 3 < 5) ∧ (getBits v 1 2 = 0))
    ∧ (∃ (n : Fin 48) (v : Word) (s : State), (s.takes (LANE.page n.val)) ∧ (s.get (LANE.CFG_EN n.val) = 1) ∧ (getBits v 3 3 < 5) ∧ (getBits v 1 2 = 0) ∧ (s.ln n.val ≠ lnOFF))
    ∧ (∃ (n : Fin 48) (v : Word) (s : State), (s.pageGated (LANE.page n.val) = false) ∧ (5 ≤ getBits v 3 3))
    ∧ (∃ (n : Nat) (cause : Nat) (s : State), (n < 48) ∧ (1 ≤ cause) ∧ (cause ≤ 12) ∧ (s.ln n ≠ lnOFF) ∧ (s.ln n ≠ lnDOWN) ∧ (s.ln n = lnUP))
    ∧ (∃ (n : Nat) (cause : Nat) (s : State) (m : Nat), (n < 48) ∧ (1 ≤ cause) ∧ (cause ≤ 12) ∧ (s.ln n ≠ lnOFF) ∧ (s.ln n ≠ lnDOWN) ∧ (m < 48) ∧ (m ≠ n))
    ∧ (∃ (n : Fin 48) (hdrs : List (BitVec 2)) (s : State), (s.ln n.val = lnLOCK) ∧ ((s.lane n.val).hdr = {}) ∧ (hdrs.length = 64) ∧ (∀ h ∈ hdrs, h = 1 ∨ h = 2))
    ∧ (∃ (n : Fin 48) (hdrs : List (BitVec 2)) (s : State), (s.ln n.val = lnLOCK) ∧ ((s.lane n.val).hdr = {}) ∧ (hdrs.length < 64))
    ∧ (∃ (n : Fin 48) (hdrs : List (BitVec 2)) (s : State), (s.ln n.val ∈ [lnOFF, lnPRBS]))
    ∧ (∃ (n : Fin 48) (s : State), (s.ln n.val ∉ [lnOFF, lnLOCK, lnPRBS, lnDOWN]) ∧ ((s.lane n.val).hdr.lock = true) ∧ ((s.lane n.val).hdr.hist.count false = 0))
    ∧ (∃ (n : Fin 48) (s : State), (s.ln n.val = lnHELLO))
    ∧ (∃ (n : Fin 48) (s : State), (s.ln n.val ≠ lnHELLO))
    ∧ (∃ (n : Fin 48) (s : State), (s.ln n.val = lnDOWN) ∧ (s.get (LANE.CFG_EN n.val) = 1))
    ∧ (∃ (n : Fin 48) (s : State), (s.ln n.val = lnUP) ∧ (s.get BLK.TMO_STAT_MISS ≤ (s.lane n.val).miss))
    ∧ (∃ (n : Fin 48) (s : State), (s.ln n.val = lnUP) ∧ ((s.lane n.val).miss < s.get BLK.TMO_STAT_MISS))
    ∧ (∃ (n : Fin 48) (s : State), (s.ln n.val = lnMEASURE) ∧ (s.get MOD.TB_STAT_LOCK = 1) ∧ ((s.lane n.val).out = none) ∧ (256 ≤ (s.lane n.val).reqs))
    ∧ (∃ (n : Fin 48) (e : Word) (s : State), (s.ln n.val = lnPRBS))
    ∧ (∃ (n : Fin 48) (s : State), (s.ln n.val = lnKEY) ∧ (3 ≤ (s.lane n.val).tries))
    ∧ (∃ (n : Fin 48) (s : State) (kp : BitVec 256), (s.ln n.val = lnKEY) ∧ ((s.lane n.val).tries < 3) ∧ (s.pairKey (s.get (LANE.PEER2_KID n.val)) = some kp)) :=
  ⟨⟨(47 : Fin 48), (0 : Word), (sets [((LANE.CFG_EN (47 : Fin 48).val), 0)] : State), by simp only [State.takes]; decide +kernel⟩,
    ⟨(47 : Fin 48), (0 : Word), (sets [((LANE.CFG_EN (47 : Fin 48).val), 1), (LANE.STAT_STATE 47, lnUP)] : State), by simp only [State.takes]; decide +kernel⟩,
    ⟨(47 : Fin 48), (0x28 : Word), (State.reset : State), by decide +kernel⟩,
    ⟨(47 : Nat), (12 : Nat), (sets [(LANE.STAT_STATE (47 : Nat), lnUP), (LANE.STAT_STATE 47, lnUP)] : State), by decide +kernel⟩,
    ⟨(47 : Nat), (12 : Nat), (sets [(LANE.STAT_STATE 47, lnUP)] : State), (46 : Nat), by decide +kernel⟩,
    ⟨(47 : Fin 48), (List.replicate 64 1 : List (BitVec 2)), (sets [(LANE.STAT_STATE (47 : Fin 48).val, lnLOCK)] : State), by decide +kernel⟩,
    ⟨(47 : Fin 48), (List.replicate 63 1 : List (BitVec 2)), (sets [(LANE.STAT_STATE (47 : Fin 48).val, lnLOCK)] : State), by decide +kernel⟩,
    ⟨(47 : Fin 48), (List.replicate 64 0 : List (BitVec 2)), (sets [(LANE.STAT_STATE (47 : Fin 48).val, lnOFF), (LANE.STAT_STATE 47, lnPRBS)] : State), by decide +kernel⟩,
    ⟨(47 : Fin 48), ({ sets [(LANE.STAT_STATE 47, lnUP)] with lanes := [(47, { hdr := { lock := true, hist := List.replicate 64 true } })] } : State), by decide +kernel⟩,
    ⟨(47 : Fin 48), (sets [(LANE.STAT_STATE (47 : Fin 48).val, lnHELLO)] : State), by decide +kernel⟩,
    ⟨(47 : Fin 48), (sets [(LANE.STAT_STATE 47, lnUP)] : State), by decide +kernel⟩,
    ⟨(47 : Fin 48), (sets [(LANE.STAT_STATE (47 : Fin 48).val, lnDOWN), ((LANE.CFG_EN (47 : Fin 48).val), 1)] : State), by decide +kernel⟩,
    ⟨(47 : Fin 48), ({ sets [(LANE.STAT_STATE (47 : Fin 48).val, lnUP), (BLK.TMO_STAT_MISS, 3)] with lanes := [(47, { miss := 3 })] } : State), by decide +kernel⟩,
    ⟨(47 : Fin 48), ({ sets [(LANE.STAT_STATE (47 : Fin 48).val, lnUP), (BLK.TMO_STAT_MISS, 3)] with lanes := [(47, { miss := 2 })] } : State), by decide +kernel⟩,
    ⟨(47 : Fin 48), ({ sets [(LANE.STAT_STATE (47 : Fin 48).val, lnMEASURE), (MOD.TB_STAT_LOCK, 1)] with lanes := [(47, { reqs := 256 })] } : State), by decide +kernel⟩,
    ⟨(47 : Fin 48), (0 : Word), (sets [(LANE.STAT_STATE (47 : Fin 48).val, lnPRBS)] : State), by decide +kernel⟩,
    ⟨(47 : Fin 48), ({ sets [(LANE.STAT_STATE (47 : Fin 48).val, lnKEY)] with lanes := [(47, { tries := 3 })] } : State), by decide +kernel⟩,
    ⟨(47 : Fin 48), ({ sets [(LANE.STAT_STATE (47 : Fin 48).val, lnKEY)] with lanes := [(47, { tries := 2 })], pairKeys := [(0, 5)] } : State), (5 : BitVec 256), by decide +kernel⟩⟩

theorem test_meets_HelloSessionAndStatus :
    (∃ (n : Fin 48) (f : Frame) (s : State), (s.lnDecodes n.val = true) ∧ (f.stray = 0) ∧ (f.cut = true ∨ f.body.length ≠ 8 * f.len))
    ∧ (∃ (n : Fin 48) (f : Frame) (s : State), (s.lnDecodes n.val = true) ∧ (f.stray = 0) ∧ (frameCheck f 0 5 4 none = 1))
    ∧ (∃ (n : Fin 48) (f : Frame) (s : State), (s.lnDecodes n.val = true) ∧ (f.stray = 0) ∧ (frameCheck f 0 5 4 none = 0) ∧ (leNat f.body 9 1 % 2 = 1))
    ∧ (∃ (n : Fin 48) (f : Frame) (s : State), (s.ln n.val = lnHELLO) ∧ (frameCheck f 0 5 4 none = 0) ∧ (leNat f.body 9 1 % 2 = 0))
    ∧ (∃ (n : Fin 48) (f : Frame) (s : State), (s.ln n.val ∈ [lnCONFIG, lnUP]) ∧ (frameCheck f 0 5 4 none = 0) ∧ (leNat f.body 9 1 % 2 = 0))
    ∧ (∃ (v : Nat), (0x13 ≤ v))
    ∧ (∃ (v : Nat) (w : Nat), (w ≤ v) ∧ (w ∈ [0x13, 0x20, 0x21]))
    ∧ (∃ (n : Nat) (a : CfgWait) (res : List Nat) (s : State), (n < 48) ∧ (a.kind = 0) ∧ (∀ r ∈ res, r = 0))
    ∧ (∃ (n : Fin 48) (f : Frame) (s : State), (s.ln n.val ∉ [lnCONFIG, lnUP]) ∧ (s.lnDecodes n.val = false))
    ∧ (∃ (n : Fin 48) (f : Frame) (s : State), (s.ln n.val ∉ [lnCONFIG, lnUP]) ∧ (s.lnDecodes n.val = true))
    ∧ (∃ (n : Fin 48) (a : CfgWait) (s : State), ((s.lane n.val).await = some a) ∧ (a.sent + s.get BLK.TMO_CFG_TMO ≤ s.pidx))
    ∧ (∃ (n : Fin 48) (a : CfgWait) (s : State), ((s.lane n.val).await = some a) ∧ (s.pidx < a.sent + s.get BLK.TMO_CFG_TMO))
    ∧ (∃ (n : Nat) (f : Frame) (s : State), (s.lnDecodes n = true) ∧ (f.stray ≠ 0))
    ∧ (∃ (n : Nat) (f : Frame) (s : State), (s.lnDecodes n = false ∨ f.stray = 0))
    ∧ (∃ (n : Fin 48) (f : Frame) (s : State), (s.ln n.val ≠ lnUP) ∧ (s.lnDecodes n.val = false))
    ∧ (∃ (n : Fin 48) (f : Frame) (s : State), (s.ln n.val ≠ lnUP) ∧ (s.lnDecodes n.val = true) ∧ (s.ln n.val ∈ [lnKEY, lnCONFIG]))
    ∧ (∃ (n : Fin 48) (f : Frame) (s : State), (s.ln n.val ≠ lnUP) ∧ (s.lnDecodes n.val = true) ∧ (s.ln n.val ∉ [lnKEY, lnCONFIG]))
    ∧ (∃ (n : Fin 48) (f : Frame) (s : State), (s.ln n.val = lnUP) ∧ (frameCheck f (s.get (LANE.SID_SID n.val)) 2 4 (some (s.get (LANE.STAT_VER n.val))) = 0) ∧ ((s.lane n.val).seqRx < 65535) ∧ (leNat f.body 2 2 = (s.lane n.val).seqRx + 1))
    ∧ (∃ (n : Fin 48) (f : Frame) (s : State), (s.ln n.val = lnUP) ∧ (frameCheck f (s.get (LANE.SID_SID n.val)) 2 4 (some (s.get (LANE.STAT_VER n.val))) = 0) ∧ (leNat f.body 2 2 = (s.lane n.val).seqRx)) :=
  ⟨⟨(47 : Fin 48), (⟨5, 4, List.replicate 31 0, 0, false⟩ : Frame), (sets [(LANE.STAT_STATE 47, lnUP)] : State), by decide +kernel⟩,
    ⟨(47 : Fin 48), (⟨5, 4, List.replicate 32 0, 0, false⟩ : Frame), (sets [(LANE.STAT_STATE 47, lnUP)] : State), by decide +kernel⟩,
    ⟨(47 : Fin 48), (mkFrame 0x21 5 0 0 0 (leBytes 1 0x21 ++ leBytes 1 1 ++ List.replicate 18 0) : Frame), (sets [(LANE.STAT_STATE 47, lnUP)] : State), by decide +kernel⟩,
    ⟨(47 : Fin 48), (mkFrame 0x21 5 0 0 0 (leBytes 1 0x21 ++ leBytes 1 0 ++ List.replicate 18 0) : Frame), (sets [(LANE.STAT_STATE (47 : Fin 48).val, lnHELLO)] : State), by decide +kernel⟩,
    ⟨(47 : Fin 48), (mkFrame 0x21 5 0 0 0 (leBytes 1 0x21 ++ leBytes 1 0 ++ List.replicate 18 0) : Frame), (sets [(LANE.STAT_STATE (47 : Fin 48).val, lnCONFIG)] : State), by decide +kernel⟩,
    ⟨(0x21 : Nat), by decide +kernel⟩,
    ⟨(0x13 : Nat), (0x13 : Nat), by decide +kernel⟩,
    ⟨(47 : Nat), (⟨0, 1, 0, [(1, 1)], 0⟩ : CfgWait), ([0, 0, 0, 0, 0] : List Nat), (State.reset : State), by decide +kernel⟩,
    ⟨(47 : Fin 48), (⟨0, 0, [], 1, false⟩ : Frame), (sets [(LANE.STAT_STATE 47, lnOFF)] : State), by decide +kernel⟩,
    ⟨(47 : Fin 48), (⟨0, 0, [], 1, false⟩ : Frame), (sets [(LANE.STAT_STATE 47, lnKEY)] : State), by decide +kernel⟩,
    ⟨(47 : Fin 48), (⟨0, 1, 0, [], 0⟩ : CfgWait), ({ sets [(BLK.TMO_CFG_TMO, 8)] with lanes := [(47, { await := some ⟨0, 1, 0, [], 0⟩ })], pidx := 8 } : State), by decide +kernel⟩,
    ⟨(47 : Fin 48), (⟨0, 1, 0, [], 0⟩ : CfgWait), ({ sets [(BLK.TMO_CFG_TMO, 8)] with lanes := [(47, { await := some ⟨0, 1, 0, [], 0⟩ })], pidx := 7 } : State), by decide +kernel⟩,
    ⟨(47 : Nat), (⟨0, 0, [], 2, false⟩ : Frame), (sets [(LANE.STAT_STATE 47, lnHELLO)] : State), by decide +kernel⟩,
    ⟨(47 : Nat), (⟨0, 0, [], 2, false⟩ : Frame), (State.reset : State), by decide +kernel⟩,
    ⟨(47 : Fin 48), (⟨0, 0, [], 2, true⟩ : Frame), (sets [(LANE.STAT_STATE 47, lnOFF)] : State), by decide +kernel⟩,
    ⟨(47 : Fin 48), (⟨2, 4, [1], 2, true⟩ : Frame), (sets [(LANE.STAT_STATE (47 : Fin 48).val, lnKEY), (LANE.STAT_STATE 47, lnCONFIG)] : State), by decide +kernel⟩,
    ⟨(47 : Fin 48), (⟨2, 4, [1], 2, false⟩ : Frame), (sets [(LANE.STAT_STATE 47, lnMEASURE)] : State), by decide +kernel⟩,
    ⟨(47 : Fin 48), (mkFrame 0x21 2 65535 0 0 (List.replicate 20 0) : Frame), ({ sets [(LANE.STAT_STATE (47 : Fin 48).val, lnUP), (LANE.STAT_VER 47, 0x21)] with lanes := [(47, { seqRx := 65534 })] } : State), by decide +kernel⟩,
    ⟨(47 : Fin 48), (mkFrame 0x21 2 7 0 0 (List.replicate 20 0) : Frame), ({ sets [(LANE.STAT_STATE (47 : Fin 48).val, lnUP), (LANE.STAT_VER 47, 0x21)] with lanes := [(47, { seqRx := 7 })] } : State), by decide +kernel⟩⟩

theorem test_meets_LaneDelayAndServices :
    (∃ (n : Fin 48) (eid : BitVec 8) (turn : Word) (rtt : Nat) (e : Nat) (at_ : Nat) (s : State), (s.ln n.val = lnMEASURE) ∧ ((s.lane n.val).out = some (e, at_)) ∧ (e ≠ eid.toNat ∨ 320000 < rtt))
    ∧ (∃ (n : Fin 48) (turn : Word) (rtt : Nat) (e : Nat) (at_ : Nat) (s : State), (s.ln n.val = lnMEASURE) ∧ (s.get MOD.TB_STAT_LOCK = 1) ∧ ((s.lane n.val).out = some (e, at_)) ∧ (e < 256) ∧ (rtt ≤ 320000) ∧ ((s.lane n.val).replies.length < 63) ∧ ((s.lane n.val).reqs < 256))
    ∧ (∃ (n : Fin 48) (turn : Word) (rtt : Nat) (e : Nat) (at_ : Nat) (s : State), (s.ln n.val = lnMEASURE) ∧ (s.get MOD.TB_STAT_LOCK = 1) ∧ ((s.lane n.val).out = some (e, at_)) ∧ (e < 256) ∧ (rtt ≤ 320000) ∧ ((s.lane n.val).replies = List.replicate 63 (rtt, turn.toNat)) ∧ (s.get (LANE.ASYM_ASYM n.val) = 0) ∧ (turn.toNat ≤ rtt) ∧ ((rtt - turn.toNat) % 2 = 0) ∧ ((rtt - turn.toNat) / 2 < 65536))
    ∧ (∃ (n : Fin 48) (e : Nat) (at_ : Nat) (s : State), (s.ln n.val = lnMEASURE) ∧ ((s.lane n.val).out = some (e, at_)) ∧ ((s.lane n.val).reqs < 256))
    ∧ (∃ (n : Fin 48) (s : State), (s.ln n.val ∈ [lnKEY, lnCONFIG, lnUP]))
    ∧ (∃ (n : Fin 48) (s : State), (s.ln n.val = lnUP) ∧ ((s.lane n.val).await = none) ∧ (s.dtDue n.val ≠ 0) ∧ (s.dtDue n.val < 8) ∧ ((s.lane n.val).freed < s.pidx))
    ∧ (∃ (n : Nat) (s : State) (p : Nat), ((s.lane n).dtAt < s.pidx))
    ∧ (∃ (n : Nat) (s : State) (i : Nat), (s.pidx ≤ (s.lane n).dtAt) ∧ ((s.lane n).dtNew.testBit i = true))
    ∧ (∃ (n : Fin 48) (v : Word) (s : State), (s.takes (LANE.page n.val)) ∧ (getBits v 0 16 < 0x8000) ∧ (getBits v 0 16 ≠ 0x11))
    ∧ (∃ (n : Fin 48) (v : Word) (s : State), (s.takes (LANE.page n.val)) ∧ (0x8000 ≤ getBits v 0 16 ∨ getBits v 0 16 = 0x11) ∧ ((s.lane n.val).await.isSome))
    ∧ (∃ (n : Fin 48) (v : Word) (s : State), (s.takes (LANE.page n.val)) ∧ (0x8000 ≤ getBits v 0 16 ∨ getBits v 0 16 = 0x11) ∧ ((s.lane n.val).await = none) ∧ (s.ln n.val ≠ lnUP))
    ∧ (∃ (n : Fin 48) (v : Word) (s : State), (s.takes (LANE.page n.val)) ∧ (0x8000 ≤ getBits v 0 16 ∨ getBits v 0 16 = 0x11) ∧ ((s.lane n.val).await = none) ∧ (s.ln n.val = lnUP))
    ∧ (∃ (n : Fin 48) (v : Word) (s : State), (s.takes (LANE.page n.val)) ∧ (getBits v 3 3 < 5) ∧ (getBits v 0 1 = 1) ∧ (s.get (LANE.CFG_EN n.val) = 1) ∧ (getBits v 1 2 ≠ 0) ∧ (getBits v 1 2 ≠ s.get (LANE.CFG_PRBS n.val)) ∧ (s.cst n.val ∈ [ckACTIVE, ckCHARGING, ckSPARE]))
    ∧ (∃ (n : Fin 48) (v : Word) (s : State), (s.takes (LANE.page n.val)) ∧ (getBits v 3 3 < 5) ∧ (getBits v 0 1 = 1) ∧ (s.get (LANE.CFG_EN n.val) = 1) ∧ (getBits v 1 2 ≠ 0) ∧ (getBits v 1 2 ≠ s.get (LANE.CFG_PRBS n.val)) ∧ (s.cst n.val ∉ [ckACTIVE, ckCHARGING, ckSPARE]) ∧ (s.ln n.val = lnUP) ∧ ((s.lane n.val).await = none))
    ∧ (∃ (v : Word) (s : State), (s.takes BLK.page) ∧ (getBits v 8 8 ∈ [0x13, 0x20, 0x21]) ∧ (s.get BLK.CFG_SSC = 0) ∧ (s.on (HDR.CTRL_LOCK BLK.page) = false)) :=
  ⟨⟨(47 : Fin 48), (0 : BitVec 8), (0 : Word), (320001 : Nat), (255 : Nat), (7 : Nat), ({ sets [(LANE.STAT_STATE (47 : Fin 48).val, lnMEASURE)] with lanes := [(47, { out := some (255, 7) })] } : State), by decide +kernel⟩,
    ⟨(47 : Fin 48), (0 : Word), (320000 : Nat), (255 : Nat), (7 : Nat), ({ sets [(LANE.STAT_STATE (47 : Fin 48).val, lnMEASURE), (MOD.TB_STAT_LOCK, 1)] with lanes := [(47, { out := some (255, 7), reqs := 255 })] } : State), by decide +kernel⟩,
    ⟨(47 : Fin 48), (0 : Word), (131070 : Nat), (255 : Nat), (7 : Nat), ({ sets [(LANE.STAT_STATE (47 : Fin 48).val, lnMEASURE), (MOD.TB_STAT_LOCK, 1), ((LANE.ASYM_ASYM (47 : Fin 48).val), 0)] with lanes := [(47, { out := some (255, 7), reqs := 255, replies := List.replicate 63 (131070, 0) })] } : State), by decide +kernel⟩,
    ⟨(47 : Fin 48), (255 : Nat), (7 : Nat), ({ sets [(LANE.STAT_STATE (47 : Fin 48).val, lnMEASURE)] with lanes := [(47, { out := some (255, 7), reqs := 255 })] } : State), by decide +kernel⟩,
    ⟨(47 : Fin 48), (sets [(LANE.STAT_STATE (47 : Fin 48).val, lnKEY)] : State), by decide +kernel⟩,
    ⟨(47 : Fin 48), ({ sets [(LANE.STAT_STATE (47 : Fin 48).val, lnUP)] with lanes := [(47, { dtChg := 7 })], pidx := 1 } : State), by decide +kernel⟩,
    ⟨(47 : Nat), ({ State.reset with pidx := 1 } : State), (0 : Nat), by decide +kernel⟩,
    ⟨(47 : Nat), ({ State.reset with lanes := [(47, { dtNew := 4, dtPrev := [1, 2, 3] })] } : State), (2 : Nat), by decide +kernel⟩,
    ⟨(47 : Fin 48), (0x7FFF : Word), (State.reset : State), by simp only [State.takes]; decide +kernel⟩,
    ⟨(47 : Fin 48), (0x8000 : Word), ({ State.reset with lanes := [(47, { await := some ⟨0, 1, 0, [], 0⟩ })] } : State), by simp only [State.takes]; decide +kernel⟩,
    ⟨(47 : Fin 48), (0x11 : Word), (State.reset : State), by simp only [State.takes]; decide +kernel⟩,
    ⟨(47 : Fin 48), (0xFFFF : Word), (sets [(LANE.STAT_STATE (47 : Fin 48).val, lnUP)] : State), by simp only [State.takes]; decide +kernel⟩,
    ⟨(47 : Fin 48), (((0 ||| 0x1) ||| 0x2) : Word), (sets [((LANE.CFG_EN (47 : Fin 48).val), 1), (GRN.CELL_STATE_STATE ((47 : Fin 48).val / 8) ((47 : Fin 48).val % 8), ckACTIVE), (GRN.CELL_STATE_STATE 5 7, ckSPARE)] : State), by simp only [State.takes]; decide +kernel⟩,
    ⟨(47 : Fin 48), (((0 ||| 0x1) ||| 0x2) : Word), (sets [((LANE.CFG_EN (47 : Fin 48).val), 1), (LANE.STAT_STATE (47 : Fin 48).val, lnUP)] : State), by simp only [State.takes]; decide +kernel⟩,
    ⟨(0x2100 : Word), (sets [(BLK.CFG_SSC, 0), ((HDR.CTRL_LOCK BLK.page), 0)] : State), by simp only [State.takes]; decide +kernel⟩⟩

/-! ### Loop engines (R185–R219) -/

theorem test_meets_LoopArithmeticInstructions :
    (∃ (e : Fin 16) (vd : Fin 32) (va : Fin 32) (vb : Fin 32) (s : State) (r : LeRun) (imm : BitVec 16), (s.running e r 1) ∧ (s.fetches e r (.leNop e)))
    ∧ (∃ (e : Fin 16) (vd : Fin 32) (va : Fin 32) (vb : Fin 32) (s : State) (r : LeRun) (imm : BitVec 16), (s.running e r 1) ∧ (s.fetches e r (.leLil e vd imm)))
    ∧ (∃ (e : Fin 16) (vd : Fin 32) (va : Fin 32) (vb : Fin 32) (s : State) (r : LeRun) (imm : BitVec 16), (s.running e r 1) ∧ (s.fetches e r (.leLih e vd imm)))
    ∧ (∃ (e : Fin 16) (vd : Fin 32) (va : Fin 32) (vb : Fin 32) (s : State) (r : LeRun) (imm : BitVec 16), (s.running e r 1) ∧ (s.fetches e r (.leMov e vd va)))
    ∧ (∃ (e : Fin 16) (vd : Fin 32) (va : Fin 32) (vb : Fin 32) (s : State) (r : LeRun) (imm : BitVec 16), (s.running e r 1) ∧ (s.fetches e r (.leAddi e vd va imm)))
    ∧ (∃ (e : Fin 16) (vd : Fin 32) (va : Fin 32) (vb : Fin 32) (s : State) (r : LeRun) (imm : BitVec 16), (s.running e r 1) ∧ (s.fetches e r (.leAnd e vd va vb)))
    ∧ (∃ (e : Fin 16) (vd : Fin 32) (va : Fin 32) (vb : Fin 32) (s : State) (r : LeRun) (imm : BitVec 16), (s.running e r 1) ∧ (s.fetches e r (.leOr e vd va vb)))
    ∧ (∃ (e : Fin 16) (vd : Fin 32) (va : Fin 32) (vb : Fin 32) (s : State) (r : LeRun) (imm : BitVec 16), (s.running e r 1) ∧ (s.fetches e r (.leXor e vd va vb)))
    ∧ (∃ (e : Fin 16) (vd : Fin 32) (va : Fin 32) (vb : Fin 32) (s : State) (r : LeRun) (imm : BitVec 16), (s.running e r 1) ∧ (s.fetches e r (.leSha e vd va imm)))
    ∧ (∃ (e : Fin 16) (vd : Fin 32) (va : Fin 32) (vb : Fin 32) (s : State) (r : LeRun) (t : Fin 3), (s.running e r 1) ∧ (t.val ≠ 1) ∧ (s.fetches e r (.leAdd e vd va vb t)))
    ∧ (∃ (e : Fin 16) (vd : Fin 32) (va : Fin 32) (vb : Fin 32) (s : State) (r : LeRun) (t : Fin 3), (s.running e r 1) ∧ (t.val ≠ 1) ∧ (s.fetches e r (.leSub e vd va vb t)))
    ∧ (∃ (e : Fin 16) (vd : Fin 32) (va : Fin 32) (vb : Fin 32) (s : State) (r : LeRun) (t : Fin 3), (s.running e r 1) ∧ (s.fetches e r (.leAbs e vd va t)))
    ∧ (∃ (e : Fin 16) (vd : Fin 32) (va : Fin 32) (vb : Fin 32) (s : State) (r : LeRun) (t : Fin 3), (s.running e r 1) ∧ (s.fetches e r (.leNeg e vd va t)))
    ∧ (∃ (e : Fin 16) (vd : Fin 32) (va : Fin 32) (vb : Fin 32) (s : State) (r : LeRun) (t : Fin 3), (s.running e r 1) ∧ (s.fetches e r (.leMin e vd va vb t)))
    ∧ (∃ (e : Fin 16) (vd : Fin 32) (va : Fin 32) (vb : Fin 32) (s : State) (r : LeRun) (t : Fin 3), (s.running e r 1) ∧ (s.fetches e r (.leMax e vd va vb t)))
    ∧ (∃ (e : Fin 16) (vd : Fin 32) (va : Fin 32) (vb : Fin 32) (s : State) (r : LeRun) (t : Fin 3), (s.running e r 2) ∧ (t.val = 1) ∧ (s.fetches e r (.leAdd e vd va vb t)))
    ∧ (∃ (e : Fin 16) (vd : Fin 32) (va : Fin 32) (vb : Fin 32) (s : State) (r : LeRun) (t : Fin 3), (s.running e r 2) ∧ (t.val = 1) ∧ (s.fetches e r (.leSub e vd va vb t)))
    ∧ (∃ (e : Fin 16) (vd : Fin 32) (va : Fin 32) (vb : Fin 32) (s : State) (r : LeRun) (t : Fin 3), (s.running e r 2) ∧ (t.val ≠ 1) ∧ (s.fetches e r (.leMul e vd va vb t)))
    ∧ (∃ (e : Fin 16) (vd : Fin 32) (va : Fin 32) (vb : Fin 32) (s : State) (r : LeRun) (t : Fin 3), (s.running e r 2) ∧ (t.val ≠ 1) ∧ (s.fetches e r (.leMac e vd va vb t)))
    ∧ (∃ (e : Fin 16) (vd : Fin 32) (va : Fin 32) (vb : Fin 32) (s : State) (r : LeRun) (t : Fin 3) (u : Fin 4), (s.running e r 2) ∧ (s.fetches e r (.leCvt e vd va u)))
    ∧ (∃ (e : Fin 16) (vd : Fin 32) (va : Fin 32) (vb : Fin 32) (s : State) (r : LeRun), (s.running e r 3) ∧ (s.fetches e r (.leMul e vd va vb 1)))
    ∧ (∃ (e : Fin 16) (vd : Fin 32) (va : Fin 32) (vb : Fin 32) (s : State) (r : LeRun), (s.running e r 3) ∧ (s.fetches e r (.leMac e vd va vb 1)))
    ∧ (∃ (e : Fin 16) (vd : Fin 32) (va : Fin 32) (vb : Fin 32) (s : State) (r : LeRun) (t : Fin 3), (s.running e r 12) ∧ (s.fetches e r (.leDiv e vd va vb t)))
    ∧ (∃ (e : Fin 16) (vd : Fin 32) (va : Fin 32) (vb : Fin 32) (s : State) (r : LeRun) (t : Fin 2), (s.running e r 12) ∧ (s.fetches e r (.leSqrt e vd va t))) :=
  ⟨⟨(15 : Fin 16), (31 : Fin 32), (0 : Fin 32), (31 : Fin 32), (({ sets [(LEX.CTX_WCET_WCET 15 15, 100)] with le := { engs := [(15, { run := some ({ ctx := 15, pc := 5, cyc := 99, v := List.replicate 32 0x3F800000, st := List.replicate 64 0 } : LeRun) })] } } : State).setMword (leAddr (15 : Fin 16) (4 * ({ ctx := 15, pc := 5, cyc := 99, v := List.replicate 32 0x3F800000, st := List.replicate 64 0 } : LeRun).pc)) ((leEncode (.leNop (15 : Fin 16))).getD 0) : State), ({ ctx := 15, pc := 5, cyc := 99, v := List.replicate 32 0x3F800000, st := List.replicate 64 0 } : LeRun), (0x8000 : BitVec 16), by simp only [State.running]; decide +kernel⟩,
    ⟨(15 : Fin 16), (31 : Fin 32), (0 : Fin 32), (31 : Fin 32), (({ sets [(LEX.CTX_WCET_WCET 15 15, 100)] with le := { engs := [(15, { run := some ({ ctx := 15, pc := 5, cyc := 99, v := List.replicate 32 0x3F800000, st := List.replicate 64 0 } : LeRun) })] } } : State).setMword (leAddr (15 : Fin 16) (4 * ({ ctx := 15, pc := 5, cyc := 99, v := List.replicate 32 0x3F800000, st := List.replicate 64 0 } : LeRun).pc)) ((leEncode (.leLil (15 : Fin 16) (31 : Fin 32) (0x8000 : BitVec 16))).getD 0) : State), ({ ctx := 15, pc := 5, cyc := 99, v := List.replicate 32 0x3F800000, st := List.replicate 64 0 } : LeRun), (0x8000 : BitVec 16), by simp only [State.running]; decide +kernel⟩,
    ⟨(15 : Fin 16), (31 : Fin 32), (0 : Fin 32), (31 : Fin 32), (({ sets [(LEX.CTX_WCET_WCET 15 15, 100)] with le := { engs := [(15, { run := some ({ ctx := 15, pc := 5, cyc := 99, v := List.replicate 32 0x3F800000, st := List.replicate 64 0 } : LeRun) })] } } : State).setMword (leAddr (15 : Fin 16) (4 * ({ ctx := 15, pc := 5, cyc := 99, v := List.replicate 32 0x3F800000, st := List.replicate 64 0 } : LeRun).pc)) ((leEncode (.leLih (15 : Fin 16) (31 : Fin 32) (0x8000 : BitVec 16))).getD 0) : State), ({ ctx := 15, pc := 5, cyc := 99, v := List.replicate 32 0x3F800000, st := List.replicate 64 0 } : LeRun), (0x8000 : BitVec 16), by simp only [State.running]; decide +kernel⟩,
    ⟨(15 : Fin 16), (31 : Fin 32), (0 : Fin 32), (31 : Fin 32), (({ sets [(LEX.CTX_WCET_WCET 15 15, 100)] with le := { engs := [(15, { run := some ({ ctx := 15, pc := 5, cyc := 99, v := List.replicate 32 0x3F800000, st := List.replicate 64 0 } : LeRun) })] } } : State).setMword (leAddr (15 : Fin 16) (4 * ({ ctx := 15, pc := 5, cyc := 99, v := List.replicate 32 0x3F800000, st := List.replicate 64 0 } : LeRun).pc)) ((leEncode (.leMov (15 : Fin 16) (31 : Fin 32) (0 : Fin 32))).getD 0) : State), ({ ctx := 15, pc := 5, cyc := 99, v := List.replicate 32 0x3F800000, st := List.replicate 64 0 } : LeRun), (0x8000 : BitVec 16), by simp only [State.running]; decide +kernel⟩,
    ⟨(15 : Fin 16), (31 : Fin 32), (0 : Fin 32), (31 : Fin 32), (({ sets [(LEX.CTX_WCET_WCET 15 15, 100)] with le := { engs := [(15, { run := some ({ ctx := 15, pc := 5, cyc := 99, v := List.replicate 32 0x3F800000, st := List.replicate 64 0 } : LeRun) })] } } : State).setMword (leAddr (15 : Fin 16) (4 * ({ ctx := 15, pc := 5, cyc := 99, v := List.replicate 32 0x3F800000, st := List.replicate 64 0 } : LeRun).pc)) ((leEncode (.leAddi (15 : Fin 16) (31 : Fin 32) (0 : Fin 32) (0x8000 : BitVec 16))).getD 0) : State), ({ ctx := 15, pc := 5, cyc := 99, v := List.replicate 32 0x3F800000, st := List.replicate 64 0 } : LeRun), (0x8000 : BitVec 16), by simp only [State.running]; decide +kernel⟩,
    ⟨(15 : Fin 16), (31 : Fin 32), (0 : Fin 32), (31 : Fin 32), (({ sets [(LEX.CTX_WCET_WCET 15 15, 100)] with le := { engs := [(15, { run := some ({ ctx := 15, pc := 5, cyc := 99, v := List.replicate 32 0x3F800000, st := List.replicate 64 0 } : LeRun) })] } } : State).setMword (leAddr (15 : Fin 16) (4 * ({ ctx := 15, pc := 5, cyc := 99, v := List.replicate 32 0x3F800000, st := List.replicate 64 0 } : LeRun).pc)) ((leEncode (.leAnd (15 : Fin 16) (31 : Fin 32) (0 : Fin 32) (31 : Fin 32))).getD 0) : State), ({ ctx := 15, pc := 5, cyc := 99, v := List.replicate 32 0x3F800000, st := List.replicate 64 0 } : LeRun), (0x8000 : BitVec 16), by simp only [State.running]; decide +kernel⟩,
    ⟨(15 : Fin 16), (31 : Fin 32), (0 : Fin 32), (31 : Fin 32), (({ sets [(LEX.CTX_WCET_WCET 15 15, 100)] with le := { engs := [(15, { run := some ({ ctx := 15, pc := 5, cyc := 99, v := List.replicate 32 0x3F800000, st := List.replicate 64 0 } : LeRun) })] } } : State).setMword (leAddr (15 : Fin 16) (4 * ({ ctx := 15, pc := 5, cyc := 99, v := List.replicate 32 0x3F800000, st := List.replicate 64 0 } : LeRun).pc)) ((leEncode (.leOr (15 : Fin 16) (31 : Fin 32) (0 : Fin 32) (31 : Fin 32))).getD 0) : State), ({ ctx := 15, pc := 5, cyc := 99, v := List.replicate 32 0x3F800000, st := List.replicate 64 0 } : LeRun), (0x8000 : BitVec 16), by simp only [State.running]; decide +kernel⟩,
    ⟨(15 : Fin 16), (31 : Fin 32), (0 : Fin 32), (31 : Fin 32), (({ sets [(LEX.CTX_WCET_WCET 15 15, 100)] with le := { engs := [(15, { run := some ({ ctx := 15, pc := 5, cyc := 99, v := List.replicate 32 0x3F800000, st := List.replicate 64 0 } : LeRun) })] } } : State).setMword (leAddr (15 : Fin 16) (4 * ({ ctx := 15, pc := 5, cyc := 99, v := List.replicate 32 0x3F800000, st := List.replicate 64 0 } : LeRun).pc)) ((leEncode (.leXor (15 : Fin 16) (31 : Fin 32) (0 : Fin 32) (31 : Fin 32))).getD 0) : State), ({ ctx := 15, pc := 5, cyc := 99, v := List.replicate 32 0x3F800000, st := List.replicate 64 0 } : LeRun), (0x8000 : BitVec 16), by simp only [State.running]; decide +kernel⟩,
    ⟨(15 : Fin 16), (31 : Fin 32), (0 : Fin 32), (31 : Fin 32), (({ sets [(LEX.CTX_WCET_WCET 15 15, 100)] with le := { engs := [(15, { run := some ({ ctx := 15, pc := 5, cyc := 99, v := List.replicate 32 0x3F800000, st := List.replicate 64 0 } : LeRun) })] } } : State).setMword (leAddr (15 : Fin 16) (4 * ({ ctx := 15, pc := 5, cyc := 99, v := List.replicate 32 0x3F800000, st := List.replicate 64 0 } : LeRun).pc)) ((leEncode (.leSha (15 : Fin 16) (31 : Fin 32) (0 : Fin 32) (0xFFE1 : BitVec 16))).getD 0) : State), ({ ctx := 15, pc := 5, cyc := 99, v := List.replicate 32 0x3F800000, st := List.replicate 64 0 } : LeRun), (0xFFE1 : BitVec 16), by simp only [State.running]; decide +kernel⟩,
    ⟨(15 : Fin 16), (31 : Fin 32), (0 : Fin 32), (31 : Fin 32), (({ sets [(LEX.CTX_WCET_WCET 15 15, 100)] with le := { engs := [(15, { run := some ({ ctx := 15, pc := 5, cyc := 99, v := List.replicate 32 0x3F800000, st := List.replicate 64 0 } : LeRun) })] } } : State).setMword (leAddr (15 : Fin 16) (4 * ({ ctx := 15, pc := 5, cyc := 99, v := List.replicate 32 0x3F800000, st := List.replicate 64 0 } : LeRun).pc)) ((leEncode (.leAdd (15 : Fin 16) (31 : Fin 32) (0 : Fin 32) (31 : Fin 32) (2 : Fin 3))).getD 0) : State), ({ ctx := 15, pc := 5, cyc := 99, v := List.replicate 32 0x3F800000, st := List.replicate 64 0 } : LeRun), (2 : Fin 3), by simp only [State.running]; decide +kernel⟩,
    ⟨(15 : Fin 16), (31 : Fin 32), (0 : Fin 32), (31 : Fin 32), (({ sets [(LEX.CTX_WCET_WCET 15 15, 100)] with le := { engs := [(15, { run := some ({ ctx := 15, pc := 5, cyc := 99, v := List.replicate 32 0x3F800000, st := List.replicate 64 0 } : LeRun) })] } } : State).setMword (leAddr (15 : Fin 16) (4 * ({ ctx := 15, pc := 5, cyc := 99, v := List.replicate 32 0x3F800000, st := List.replicate 64 0 } : LeRun).pc)) ((leEncode (.leSub (15 : Fin 16) (31 : Fin 32) (0 : Fin 32) (31 : Fin 32) (2 : Fin 3))).getD 0) : State), ({ ctx := 15, pc := 5, cyc := 99, v := List.replicate 32 0x3F800000, st := List.replicate 64 0 } : LeRun), (2 : Fin 3), by simp only [State.running]; decide +kernel⟩,
    ⟨(15 : Fin 16), (31 : Fin 32), (0 : Fin 32), (31 : Fin 32), (({ sets [(LEX.CTX_WCET_WCET 15 15, 100)] with le := { engs := [(15, { run := some ({ ctx := 15, pc := 5, cyc := 99, v := List.replicate 32 0x3F800000, st := List.replicate 64 0 } : LeRun) })] } } : State).setMword (leAddr (15 : Fin 16) (4 * ({ ctx := 15, pc := 5, cyc := 99, v := List.replicate 32 0x3F800000, st := List.replicate 64 0 } : LeRun).pc)) ((leEncode (.leAbs (15 : Fin 16) (31 : Fin 32) (0 : Fin 32) (2 : Fin 3))).getD 0) : State), ({ ctx := 15, pc := 5, cyc := 99, v := List.replicate 32 0x3F800000, st := List.replicate 64 0 } : LeRun), (2 : Fin 3), by simp only [State.running]; decide +kernel⟩,
    ⟨(15 : Fin 16), (31 : Fin 32), (0 : Fin 32), (31 : Fin 32), (({ sets [(LEX.CTX_WCET_WCET 15 15, 100)] with le := { engs := [(15, { run := some ({ ctx := 15, pc := 5, cyc := 99, v := List.replicate 32 0x3F800000, st := List.replicate 64 0 } : LeRun) })] } } : State).setMword (leAddr (15 : Fin 16) (4 * ({ ctx := 15, pc := 5, cyc := 99, v := List.replicate 32 0x3F800000, st := List.replicate 64 0 } : LeRun).pc)) ((leEncode (.leNeg (15 : Fin 16) (31 : Fin 32) (0 : Fin 32) (2 : Fin 3))).getD 0) : State), ({ ctx := 15, pc := 5, cyc := 99, v := List.replicate 32 0x3F800000, st := List.replicate 64 0 } : LeRun), (2 : Fin 3), by simp only [State.running]; decide +kernel⟩,
    ⟨(15 : Fin 16), (31 : Fin 32), (0 : Fin 32), (31 : Fin 32), (({ sets [(LEX.CTX_WCET_WCET 15 15, 100)] with le := { engs := [(15, { run := some ({ ctx := 15, pc := 5, cyc := 99, v := List.replicate 32 0x3F800000, st := List.replicate 64 0 } : LeRun) })] } } : State).setMword (leAddr (15 : Fin 16) (4 * ({ ctx := 15, pc := 5, cyc := 99, v := List.replicate 32 0x3F800000, st := List.replicate 64 0 } : LeRun).pc)) ((leEncode (.leMin (15 : Fin 16) (31 : Fin 32) (0 : Fin 32) (31 : Fin 32) (2 : Fin 3))).getD 0) : State), ({ ctx := 15, pc := 5, cyc := 99, v := List.replicate 32 0x3F800000, st := List.replicate 64 0 } : LeRun), (2 : Fin 3), by simp only [State.running]; decide +kernel⟩,
    ⟨(15 : Fin 16), (31 : Fin 32), (0 : Fin 32), (31 : Fin 32), (({ sets [(LEX.CTX_WCET_WCET 15 15, 100)] with le := { engs := [(15, { run := some ({ ctx := 15, pc := 5, cyc := 99, v := List.replicate 32 0x3F800000, st := List.replicate 64 0 } : LeRun) })] } } : State).setMword (leAddr (15 : Fin 16) (4 * ({ ctx := 15, pc := 5, cyc := 99, v := List.replicate 32 0x3F800000, st := List.replicate 64 0 } : LeRun).pc)) ((leEncode (.leMax (15 : Fin 16) (31 : Fin 32) (0 : Fin 32) (31 : Fin 32) (2 : Fin 3))).getD 0) : State), ({ ctx := 15, pc := 5, cyc := 99, v := List.replicate 32 0x3F800000, st := List.replicate 64 0 } : LeRun), (2 : Fin 3), by simp only [State.running]; decide +kernel⟩,
    ⟨(15 : Fin 16), (31 : Fin 32), (0 : Fin 32), (31 : Fin 32), (({ sets [(LEX.CTX_WCET_WCET 15 15, 100)] with le := { engs := [(15, { run := some ({ ctx := 15, pc := 5, cyc := 98, v := List.replicate 32 0x3F800000, st := List.replicate 64 0 } : LeRun) })] } } : State).setMword (leAddr (15 : Fin 16) (4 * ({ ctx := 15, pc := 5, cyc := 98, v := List.replicate 32 0x3F800000, st := List.replicate 64 0 } : LeRun).pc)) ((leEncode (.leAdd (15 : Fin 16) (31 : Fin 32) (0 : Fin 32) (31 : Fin 32) (1 : Fin 3))).getD 0) : State), ({ ctx := 15, pc := 5, cyc := 98, v := List.replicate 32 0x3F800000, st := List.replicate 64 0 } : LeRun), (1 : Fin 3), by simp only [State.running]; decide +kernel⟩,
    ⟨(15 : Fin 16), (31 : Fin 32), (0 : Fin 32), (31 : Fin 32), (({ sets [(LEX.CTX_WCET_WCET 15 15, 100)] with le := { engs := [(15, { run := some ({ ctx := 15, pc := 5, cyc := 98, v := List.replicate 32 0x3F800000, st := List.replicate 64 0 } : LeRun) })] } } : State).setMword (leAddr (15 : Fin 16) (4 * ({ ctx := 15, pc := 5, cyc := 98, v := List.replicate 32 0x3F800000, st := List.replicate 64 0 } : LeRun).pc)) ((leEncode (.leSub (15 : Fin 16) (31 : Fin 32) (0 : Fin 32) (31 : Fin 32) (1 : Fin 3))).getD 0) : State), ({ ctx := 15, pc := 5, cyc := 98, v := List.replicate 32 0x3F800000, st := List.replicate 64 0 } : LeRun), (1 : Fin 3), by simp only [State.running]; decide +kernel⟩,
    ⟨(15 : Fin 16), (31 : Fin 32), (0 : Fin 32), (31 : Fin 32), (({ sets [(LEX.CTX_WCET_WCET 15 15, 100)] with le := { engs := [(15, { run := some ({ ctx := 15, pc := 5, cyc := 98, v := List.replicate 32 0x3F800000, st := List.replicate 64 0 } : LeRun) })] } } : State).setMword (leAddr (15 : Fin 16) (4 * ({ ctx := 15, pc := 5, cyc := 98, v := List.replicate 32 0x3F800000, st := List.replicate 64 0 } : LeRun).pc)) ((leEncode (.leMul (15 : Fin 16) (31 : Fin 32) (0 : Fin 32) (31 : Fin 32) (2 : Fin 3))).getD 0) : State), ({ ctx := 15, pc := 5, cyc := 98, v := List.replicate 32 0x3F800000, st := List.replicate 64 0 } : LeRun), (2 : Fin 3), by simp only [State.running]; decide +kernel⟩,
    ⟨(15 : Fin 16), (31 : Fin 32), (0 : Fin 32), (31 : Fin 32), (({ sets [(LEX.CTX_WCET_WCET 15 15, 100)] with le := { engs := [(15, { run := some ({ ctx := 15, pc := 5, cyc := 98, v := List.replicate 32 0x3F800000, st := List.replicate 64 0 } : LeRun) })] } } : State).setMword (leAddr (15 : Fin 16) (4 * ({ ctx := 15, pc := 5, cyc := 98, v := List.replicate 32 0x3F800000, st := List.replicate 64 0 } : LeRun).pc)) ((leEncode (.leMac (15 : Fin 16) (31 : Fin 32) (0 : Fin 32) (31 : Fin 32) (2 : Fin 3))).getD 0) : State), ({ ctx := 15, pc := 5, cyc := 98, v := List.replicate 32 0x3F800000, st := List.replicate 64 0 } : LeRun), (2 : Fin 3), by simp only [State.running]; decide +kernel⟩,
    ⟨(15 : Fin 16), (31 : Fin 32), (0 : Fin 32), (31 : Fin 32), (({ sets [(LEX.CTX_WCET_WCET 15 15, 100)] with le := { engs := [(15, { run := some ({ ctx := 15, pc := 5, cyc := 98, v := List.replicate 32 0x3F800000, st := List.replicate 64 0 } : LeRun) })] } } : State).setMword (leAddr (15 : Fin 16) (4 * ({ ctx := 15, pc := 5, cyc := 98, v := List.replicate 32 0x3F800000, st := List.replicate 64 0 } : LeRun).pc)) ((leEncode (.leCvt (15 : Fin 16) (31 : Fin 32) (0 : Fin 32) (3 : Fin 4))).getD 0) : State), ({ ctx := 15, pc := 5, cyc := 98, v := List.replicate 32 0x3F800000, st := List.replicate 64 0 } : LeRun), (2 : Fin 3), (3 : Fin 4), by simp only [State.running]; decide +kernel⟩,
    ⟨(15 : Fin 16), (31 : Fin 32), (0 : Fin 32), (31 : Fin 32), (({ sets [(LEX.CTX_WCET_WCET 15 15, 100)] with le := { engs := [(15, { run := some ({ ctx := 15, pc := 5, cyc := 97, v := List.replicate 32 0x3F800000, st := List.replicate 64 0 } : LeRun) })] } } : State).setMword (leAddr (15 : Fin 16) (4 * ({ ctx := 15, pc := 5, cyc := 97, v := List.replicate 32 0x3F800000, st := List.replicate 64 0 } : LeRun).pc)) ((leEncode (.leMul (15 : Fin 16) (31 : Fin 32) (0 : Fin 32) (31 : Fin 32) 1)).getD 0) : State), ({ ctx := 15, pc := 5, cyc := 97, v := List.replicate 32 0x3F800000, st := List.replicate 64 0 } : LeRun), by simp only [State.running]; decide +kernel⟩,
    ⟨(15 : Fin 16), (31 : Fin 32), (0 : Fin 32), (31 : Fin 32), (({ sets [(LEX.CTX_WCET_WCET 15 15, 100)] with le := { engs := [(15, { run := some ({ ctx := 15, pc := 5, cyc := 97, v := List.replicate 32 0x3F800000, st := List.replicate 64 0 } : LeRun) })] } } : State).setMword (leAddr (15 : Fin 16) (4 * ({ ctx := 15, pc := 5, cyc := 97, v := List.replicate 32 0x3F800000, st := List.replicate 64 0 } : LeRun).pc)) ((leEncode (.leMac (15 : Fin 16) (31 : Fin 32) (0 : Fin 32) (31 : Fin 32) 1)).getD 0) : State), ({ ctx := 15, pc := 5, cyc := 97, v := List.replicate 32 0x3F800000, st := List.replicate 64 0 } : LeRun), by simp only [State.running]; decide +kernel⟩,
    ⟨(15 : Fin 16), (31 : Fin 32), (0 : Fin 32), (31 : Fin 32), (({ sets [(LEX.CTX_WCET_WCET 15 15, 100)] with le := { engs := [(15, { run := some ({ ctx := 15, pc := 5, cyc := 88, v := List.replicate 32 0x3F800000, st := List.replicate 64 0 } : LeRun) })] } } : State).setMword (leAddr (15 : Fin 16) (4 * ({ ctx := 15, pc := 5, cyc := 88, v := List.replicate 32 0x3F800000, st := List.replicate 64 0 } : LeRun).pc)) ((leEncode (.leDiv (15 : Fin 16) (31 : Fin 32) (0 : Fin 32) (31 : Fin 32) (2 : Fin 3))).getD 0) : State), ({ ctx := 15, pc := 5, cyc := 88, v := List.replicate 32 0x3F800000, st := List.replicate 64 0 } : LeRun), (2 : Fin 3), by simp only [State.running]; decide +kernel⟩,
    ⟨(15 : Fin 16), (31 : Fin 32), (0 : Fin 32), (31 : Fin 32), (({ sets [(LEX.CTX_WCET_WCET 15 15, 100)] with le := { engs := [(15, { run := some ({ ctx := 15, pc := 5, cyc := 88, v := List.replicate 32 0x3F800000, st := List.replicate 64 0 } : LeRun) })] } } : State).setMword (leAddr (15 : Fin 16) (4 * ({ ctx := 15, pc := 5, cyc := 88, v := List.replicate 32 0x3F800000, st := List.replicate 64 0 } : LeRun).pc)) ((leEncode (.leSqrt (15 : Fin 16) (31 : Fin 32) (0 : Fin 32) (1 : Fin 2))).getD 0) : State), ({ ctx := 15, pc := 5, cyc := 88, v := List.replicate 32 0x3F800000, st := List.replicate 64 0 } : LeRun), (1 : Fin 2), by simp only [State.running]; decide +kernel⟩⟩

theorem test_meets_NumberFormats :
    (∃ (a : Word) (b : Word) (d : Word), (b ≠ 0))
    ∧ (∃ (a : Word), (a.msb = true))
    ∧ (∃ (a : Word) (b : Word), (∃ n, flOf b = .fin n 0) ∧ (∃ n m, flOf a = .fin n m))
    ∧ (∃ (a : Word) (m : Rat), (flOf a = .fin true m) ∧ (m ≠ 0))
    ∧ (∃ (a : Word) (b : Word), (flOf a = .nan))
    ∧ (∃ (a : Word) (n : Bool), (flOf a = .inf n)) :=
  ⟨⟨(0 : Word), (1 : Word), (0 : Word), by decide +kernel⟩,
    ⟨(0x80000000 : Word), by decide +kernel⟩,
    ⟨(0x3F800000 : Word), (0x80000000 : Word), ⟨⟨true, by decide +kernel⟩, ⟨false, 1, by decide +kernel⟩⟩⟩,
    ⟨(0xBF800000 : Word), (1 : Rat), by decide +kernel⟩,
    ⟨(0x7FC00000 : Word), (0 : Word), by decide +kernel⟩,
    ⟨(0xFF800000 : Word), (true : Bool), by decide +kernel⟩⟩

theorem test_meets_LoopDataInstructions :
    (∃ (e : Fin 16) (vd : Fin 32) (va : Fin 32) (s : State) (r : LeRun) (idx : Fin 64), (s.running e r 1) ∧ (s.fetches e r (.leLds e vd idx)))
    ∧ (∃ (e : Fin 16) (vd : Fin 32) (va : Fin 32) (s : State) (r : LeRun) (idx : Fin 64), (s.running e r 1) ∧ (s.fetches e r (.leLdc e vd idx)))
    ∧ (∃ (e : Fin 16) (vd : Fin 32) (va : Fin 32) (s : State) (r : LeRun) (idx : Fin 64), (s.running e r 1) ∧ (s.fetches e r (.leSts e vd idx)))
    ∧ (∃ (e : Fin 16) (vd : Fin 32) (va : Fin 32) (s : State) (r : LeRun) (idx : Fin 64), (s.running e r 1) ∧ (s.fetches e r (.leGetf e vd)))
    ∧ (∃ (e : Fin 16) (vd : Fin 32) (va : Fin 32) (s : State) (r : LeRun) (idx : Fin 16) (w : Word) (l : Bool), (s.running e r 1) ∧ (outValue (s.outBind (16 * e + r.ctx) idx) (r.get vd) = some (w, l)) ∧ (s.fetches e r (.leOut e vd idx)))
    ∧ (∃ (e : Fin 16) (vd : Fin 32) (va : Fin 32) (s : State) (r : LeRun) (idx : Fin 16), (s.running e r 1) ∧ (outValue (s.outBind (16 * e + r.ctx) idx) (r.get vd) = none) ∧ (s.fetches e r (.leOut e vd idx)))
    ∧ (∃ (e : Fin 16) (vd : Fin 32) (va : Fin 32) (s : State) (r : LeRun) (imm : BitVec 16) (a : Word), (s.running e r 3) ∧ (a = r.get va + imm.signExtend 32) ∧ (s.tblAddr (16 * e + r.ctx) a = true) ∧ (s.fetches e r (.leLdm e vd va imm)))
    ∧ (∃ (e : Fin 16) (vd : Fin 32) (va : Fin 32) (s : State) (r : LeRun) (imm : BitVec 16) (a : Word), (s.running e r 3) ∧ (a = r.get va + imm.signExtend 32) ∧ (s.tblAddr (16 * e + r.ctx) a = true) ∧ (s.fetches e r (.leStm e vd va imm)))
    ∧ (∃ (e : Fin 16) (vd : Fin 32) (va : Fin 32) (s : State) (r : LeRun) (imm : BitVec 16) (a : Word), (s.running e r 3) ∧ (a = r.get va + imm.signExtend 32) ∧ (s.tblAddr (16 * e + r.ctx) a = false) ∧ (s.fetches e r (.leLdm e vd va imm)))
    ∧ (∃ (e : Fin 16) (vd : Fin 32) (va : Fin 32) (s : State) (r : LeRun) (imm : BitVec 16) (a : Word), (s.running e r 3) ∧ (a = r.get va + imm.signExtend 32) ∧ (s.tblAddr (16 * e + r.ctx) a = false) ∧ (s.fetches e r (.leStm e vd va imm)))
    ∧ (∃ (e : Fin 16) (vd : Fin 32) (va : Fin 32) (s : State) (r : LeRun) (idx : Fin 16) (wait : Nat) (cost : Nat) (w : Word) (q : Bool), (cost = (if (s.inBind (16 * e + r.ctx) idx).cls = 1 then 6 + wait else 2)) ∧ (s.running e r cost) ∧ (r.adc.find? (fun p => p.1 == idx.val) = none) ∧ (inValue (s.inBind (16 * e + r.ctx) idx) (s.leSource (16 * e + r.ctx) (s.inBind (16 * e + r.ctx) idx) (s.leAt e r)).1 = some (w, q)) ∧ (s.fetches e r (.leIn e vd idx 0)))
    ∧ (∃ (e : Fin 16) (vd : Fin 32) (va : Fin 32) (s : State) (r : LeRun) (idx : Fin 16) (wait : Nat) (cost : Nat) (p : Nat × Word), (cost = (if (s.inBind (16 * e + r.ctx) idx).cls = 1 then 6 + wait else 2)) ∧ (s.running e r cost) ∧ (r.adc.find? (fun p => p.1 == idx.val) = some p) ∧ (s.fetches e r (.leIn e vd idx 0))) :=
  ⟨⟨(15 : Fin 16), (31 : Fin 32), (0 : Fin 32), (({ sets [(LEX.CTX_WCET_WCET 15 15, 100)] with le := { engs := [(15, { run := some ({ ctx := 15, pc := 5, cyc := 99, v := List.replicate 32 0x3F800000, st := List.replicate 64 0 } : LeRun) })] } } : State).setMword (leAddr (15 : Fin 16) (4 * ({ ctx := 15, pc := 5, cyc := 99, v := List.replicate 32 0x3F800000, st := List.replicate 64 0 } : LeRun).pc)) ((leEncode (.leLds (15 : Fin 16) (31 : Fin 32) (63 : Fin 64))).getD 0) : State), ({ ctx := 15, pc := 5, cyc := 99, v := List.replicate 32 0x3F800000, st := List.replicate 64 0 } : LeRun), (63 : Fin 64), by simp only [State.running]; decide +kernel⟩,
    ⟨(15 : Fin 16), (31 : Fin 32), (0 : Fin 32), (({ sets [(LEX.CTX_WCET_WCET 15 15, 100)] with le := { engs := [(15, { run := some ({ ctx := 15, pc := 5, cyc := 99, v := List.replicate 32 0x3F800000, st := List.replicate 64 0 } : LeRun) })] } } : State).setMword (leAddr (15 : Fin 16) (4 * ({ ctx := 15, pc := 5, cyc := 99, v := List.replicate 32 0x3F800000, st := List.replicate 64 0 } : LeRun).pc)) ((leEncode (.leLdc (15 : Fin 16) (31 : Fin 32) (63 : Fin 64))).getD 0) : State), ({ ctx := 15, pc := 5, cyc := 99, v := List.replicate 32 0x3F800000, st := List.replicate 64 0 } : LeRun), (63 : Fin 64), by simp only [State.running]; decide +kernel⟩,
    ⟨(15 : Fin 16), (31 : Fin 32), (0 : Fin 32), (({ sets [(LEX.CTX_WCET_WCET 15 15, 100)] with le := { engs := [(15, { run := some ({ ctx := 15, pc := 5, cyc := 99, v := List.replicate 32 0x3F800000, st := List.replicate 64 0 } : LeRun) })] } } : State).setMword (leAddr (15 : Fin 16) (4 * ({ ctx := 15, pc := 5, cyc := 99, v := List.replicate 32 0x3F800000, st := List.replicate 64 0 } : LeRun).pc)) ((leEncode (.leSts (15 : Fin 16) (31 : Fin 32) (63 : Fin 64))).getD 0) : State), ({ ctx := 15, pc := 5, cyc := 99, v := List.replicate 32 0x3F800000, st := List.replicate 64 0 } : LeRun), (63 : Fin 64), by simp only [State.running]; decide +kernel⟩,
    ⟨(15 : Fin 16), (31 : Fin 32), (0 : Fin 32), (({ sets [(LEX.CTX_WCET_WCET 15 15, 100)] with le := { engs := [(15, { run := some ({ ctx := 15, pc := 5, cyc := 99, v := List.replicate 32 0x3F800000, st := List.replicate 64 0 } : LeRun) })] } } : State).setMword (leAddr (15 : Fin 16) (4 * ({ ctx := 15, pc := 5, cyc := 99, v := List.replicate 32 0x3F800000, st := List.replicate 64 0 } : LeRun).pc)) ((leEncode (.leGetf (15 : Fin 16) (31 : Fin 32))).getD 0) : State), ({ ctx := 15, pc := 5, cyc := 99, v := List.replicate 32 0x3F800000, st := List.replicate 64 0 } : LeRun), (63 : Fin 64), by simp only [State.running]; decide +kernel⟩,
    ⟨(15 : Fin 16), (31 : Fin 32), (0 : Fin 32), (({ sets [(LEX.CTX_WCET_WCET 15 15, 100)] with le := { engs := [(15, { run := some ({ ctx := 15, pc := 5, cyc := 99, v := List.replicate 32 0x3F800000, st := List.replicate 64 0 } : LeRun) })] } } : State).setMword (leAddr (15 : Fin 16) (4 * ({ ctx := 15, pc := 5, cyc := 99, v := List.replicate 32 0x3F800000, st := List.replicate 64 0 } : LeRun).pc)) ((leEncode (.leOut (15 : Fin 16) (31 : Fin 32) (15 : Fin 16))).getD 0) : State), ({ ctx := 15, pc := 5, cyc := 99, v := List.replicate 32 0x3F800000, st := List.replicate 64 0 } : LeRun), (15 : Fin 16), (0 : Word), (false : Bool), by simp only [State.running]; decide +kernel⟩,
    ⟨(15 : Fin 16), (31 : Fin 32), (0 : Fin 32), (({ sets [(LEX.CTX_WCET_WCET 15 15, 100)] with le := { engs := [(15, { run := some ({ ctx := 15, pc := 5, cyc := 99, v := List.replicate 32 0x7F800000, st := List.replicate 64 0 } : LeRun) })] }, mem := [(0x301FFEF8, 16)] } : State).setMword (leAddr (15 : Fin 16) (4 * ({ ctx := 15, pc := 5, cyc := 99, v := List.replicate 32 0x7F800000, st := List.replicate 64 0 } : LeRun).pc)) ((leEncode (.leOut (15 : Fin 16) (31 : Fin 32) (15 : Fin 16))).getD 0) : State), ({ ctx := 15, pc := 5, cyc := 99, v := List.replicate 32 0x7F800000, st := List.replicate 64 0 } : LeRun), (15 : Fin 16), by simp only [State.running]; decide +kernel⟩,
    ⟨(15 : Fin 16), (31 : Fin 32), (0 : Fin 32), (({ sets [(LEX.CTX_WCET_WCET 15 15, 100), (LEX.CTX_TBL_TLEN 15 15, 0x2000)] with le := { engs := [(15, { run := some ({ ctx := 15, pc := 5, cyc := 97, v := List.replicate 32 0, st := List.replicate 64 0 } : LeRun) })] } } : State).setMword (leAddr (15 : Fin 16) (4 * ({ ctx := 15, pc := 5, cyc := 97, v := List.replicate 32 0, st := List.replicate 64 0 } : LeRun).pc)) ((leEncode (.leLdm (15 : Fin 16) (31 : Fin 32) (0 : Fin 32) (0x7FFC : BitVec 16))).getD 0) : State), ({ ctx := 15, pc := 5, cyc := 97, v := List.replicate 32 0, st := List.replicate 64 0 } : LeRun), (0x7FFC : BitVec 16), (0x7FFC : Word), by simp only [State.running]; decide +kernel⟩,
    ⟨(15 : Fin 16), (31 : Fin 32), (0 : Fin 32), (({ sets [(LEX.CTX_WCET_WCET 15 15, 100), (LEX.CTX_TBL_TLEN 15 15, 0x2000)] with le := { engs := [(15, { run := some ({ ctx := 15, pc := 5, cyc := 97, v := List.replicate 32 0, st := List.replicate 64 0 } : LeRun) })] } } : State).setMword (leAddr (15 : Fin 16) (4 * ({ ctx := 15, pc := 5, cyc := 97, v := List.replicate 32 0, st := List.replicate 64 0 } : LeRun).pc)) ((leEncode (.leStm (15 : Fin 16) (31 : Fin 32) (0 : Fin 32) (0x7FFC : BitVec 16))).getD 0) : State), ({ ctx := 15, pc := 5, cyc := 97, v := List.replicate 32 0, st := List.replicate 64 0 } : LeRun), (0x7FFC : BitVec 16), (0x7FFC : Word), by simp only [State.running]; decide +kernel⟩,
    ⟨(15 : Fin 16), (31 : Fin 32), (0 : Fin 32), (({ sets [(LEX.CTX_WCET_WCET 15 15, 100)] with le := { engs := [(15, { run := some ({ ctx := 15, pc := 5, cyc := 97, v := List.replicate 32 0, st := List.replicate 64 0 } : LeRun) })] } } : State).setMword (leAddr (15 : Fin 16) (4 * ({ ctx := 15, pc := 5, cyc := 97, v := List.replicate 32 0, st := List.replicate 64 0 } : LeRun).pc)) ((leEncode (.leLdm (15 : Fin 16) (31 : Fin 32) (0 : Fin 32) (0x8000 : BitVec 16))).getD 0) : State), ({ ctx := 15, pc := 5, cyc := 97, v := List.replicate 32 0, st := List.replicate 64 0 } : LeRun), (0x8000 : BitVec 16), (0xFFFF8000 : Word), by simp only [State.running]; decide +kernel⟩,
    ⟨(15 : Fin 16), (31 : Fin 32), (0 : Fin 32), (({ sets [(LEX.CTX_WCET_WCET 15 15, 100)] with le := { engs := [(15, { run := some ({ ctx := 15, pc := 5, cyc := 97, v := List.replicate 32 0, st := List.replicate 64 0 } : LeRun) })] } } : State).setMword (leAddr (15 : Fin 16) (4 * ({ ctx := 15, pc := 5, cyc := 97, v := List.replicate 32 0, st := List.replicate 64 0 } : LeRun).pc)) ((leEncode (.leStm (15 : Fin 16) (31 : Fin 32) (0 : Fin 32) (0x8000 : BitVec 16))).getD 0) : State), ({ ctx := 15, pc := 5, cyc := 97, v := List.replicate 32 0, st := List.replicate 64 0 } : LeRun), (0x8000 : BitVec 16), (0xFFFF8000 : Word), by simp only [State.running]; decide +kernel⟩,
    ⟨(15 : Fin 16), (31 : Fin 32), (0 : Fin 32), (({ sets [(LEX.CTX_WCET_WCET 15 15, 100)] with le := { engs := [(15, { run := some ({ ctx := 15, pc := 5, cyc := 98, v := List.replicate 32 0x3F800000, st := List.replicate 64 0 } : LeRun) })] } } : State).setMword (leAddr (15 : Fin 16) (4 * ({ ctx := 15, pc := 5, cyc := 98, v := List.replicate 32 0x3F800000, st := List.replicate 64 0 } : LeRun).pc)) ((leEncode (.leIn (15 : Fin 16) (31 : Fin 32) (15 : Fin 16) 0)).getD 0) : State), ({ ctx := 15, pc := 5, cyc := 98, v := List.replicate 32 0x3F800000, st := List.replicate 64 0 } : LeRun), (15 : Fin 16), (0 : Nat), (2 : Nat), (0 : Word), (false : Bool), by simp only [State.running]; decide +kernel⟩,
    ⟨(15 : Fin 16), (31 : Fin 32), (0 : Fin 32), (({ sets [(LEX.CTX_WCET_WCET 15 15, 100)] with le := { engs := [(15, { run := some ({ ctx := 15, pc := 5, cyc := 98, v := List.replicate 32 0x3F800000, st := List.replicate 64 0, adc := [(15, 7)] } : LeRun) })] } } : State).setMword (leAddr (15 : Fin 16) (4 * ({ ctx := 15, pc := 5, cyc := 98, v := List.replicate 32 0x3F800000, st := List.replicate 64 0, adc := [(15, 7)] } : LeRun).pc)) ((leEncode (.leIn (15 : Fin 16) (31 : Fin 32) (15 : Fin 16) 0)).getD 0) : State), ({ ctx := 15, pc := 5, cyc := 98, v := List.replicate 32 0x3F800000, st := List.replicate 64 0, adc := [(15, 7)] } : LeRun), (15 : Fin 16), (0 : Nat), (2 : Nat), ((15, 7) : Nat × Word), by simp only [State.running]; decide +kernel⟩⟩

theorem test_meets_LoopControlFlowAndEnd :
    (∃ (e : Fin 16) (off : Fin 2048) (s : State) (r : LeRun), (s.running e r 2) ∧ (off.val ≠ 0) ∧ (s.fetches e r (.leBr e off)))
    ∧ (∃ (e : Fin 16) (off : Fin 2048) (s : State) (r : LeRun), (s.running e r 2) ∧ (off.val ≠ 0) ∧ (s.fetches e r (.leBinit e off)))
    ∧ (∃ (e : Fin 16) (off : Fin 2048) (s : State) (r : LeRun) (va : Fin 32) (vb : Fin 32) (c : Fin 6) (t : Fin 3), (s.running e r 2) ∧ (off.val ≠ 0) ∧ (s.fetches e r (.leBc e va vb c t off)))
    ∧ (∃ (e : Fin 16) (off : Fin 2048) (s : State) (r : LeRun) (n : Fin 1024) (len : Fin 1024), (s.running e r 2) ∧ (off.val ≠ 0) ∧ (len.val ≠ 0) ∧ (s.fetches e r (.leLoop e n len)))
    ∧ (∃ (st : Nat) (en : Nat) (left : Nat) (l : List (Nat × Nat × Nat)), (1 < left))
    ∧ (∃ (st : Nat) (en : Nat) (left : Nat) (l : List (Nat × Nat × Nat)), (left ≤ 1))
    ∧ (∃ (st : Nat) (en : Nat) (left : Nat) (l : List (Nat × Nat × Nat)) (x : Nat), (x ≠ en))
    ∧ (∃ (e : Fin 16) (s : State) (r : LeRun), (s.running e r 4) ∧ (s.fetches e r (.leEnd e)) ∧ (s.bndAt + s.get TBS.PER_WIN0_W_LE * t10 ≤ s.now))
    ∧ (∃ (e : Fin 16) (s : State) (r : LeRun), (s.running e r 4) ∧ (s.fetches e r (.leEnd e)) ∧ (s.now < s.bndAt + s.get TBS.PER_WIN0_W_LE * t10) ∧ (s.leLate e { r with cyc := r.cyc + 4 } = true))
    ∧ (∃ (e : Fin 16) (s : State) (r : LeRun), (s.running e r 4) ∧ (s.fetches e r (.leEnd e)) ∧ (s.now < s.bndAt + s.get TBS.PER_WIN0_W_LE * t10) ∧ (s.leLate e { r with cyc := r.cyc + 4 } = false) ∧ (r.ctx < 16) ∧ (r.st.length = 64) ∧ (∀ p ∈ r.outs, p.1 < 16))
    ∧ (∃ (e : Fin 16) (s : State) (r : LeRun), ((s.eng e).run = some r) ∧ (s.ctxWCET (16 * e + r.ctx) < r.cyc + 1) ∧ (s.fetches e r (.leNop e)))
    ∧ (∃ (e : Fin 16) (i : Instr) (s : State) (r : LeRun) (a : Nat), ((s.eng e).run = some r) ∧ (s.leFetch e r = some i) ∧ (s.lePoisoned e r i = true) ∧ (s.now < s.bndAt + s.get TBS.PER_WIN0_W_LE * t10))
    ∧ (∃ (e : Nat) (cause : Nat) (s : State) (r : LeRun), (e < 16) ∧ (r.ctx < 16) ∧ (1 ≤ cause) ∧ (cause ≤ 4) ∧ (s.get (LEX.CTX_ACT_ACT e r.ctx) = 2)) :=
  ⟨⟨(15 : Fin 16), (2047 : Fin 2048), (({ sets [(LEX.CTX_WCET_WCET 15 15, 100)] with le := { engs := [(15, { run := some ({ ctx := 15, pc := 5, cyc := 98, v := List.replicate 32 0x3F800000, st := List.replicate 64 0 } : LeRun) })] } } : State).setMword (leAddr (15 : Fin 16) (4 * ({ ctx := 15, pc := 5, cyc := 98, v := List.replicate 32 0x3F800000, st := List.replicate 64 0 } : LeRun).pc)) ((leEncode (.leBr (15 : Fin 16) (2047 : Fin 2048))).getD 0) : State), ({ ctx := 15, pc := 5, cyc := 98, v := List.replicate 32 0x3F800000, st := List.replicate 64 0 } : LeRun), by simp only [State.running]; decide +kernel⟩,
    ⟨(15 : Fin 16), (2047 : Fin 2048), (({ sets [(LEX.CTX_WCET_WCET 15 15, 100)] with le := { engs := [(15, { run := some ({ ctx := 15, pc := 5, cyc := 98, v := List.replicate 32 0x3F800000, st := List.replicate 64 0 } : LeRun) })] } } : State).setMword (leAddr (15 : Fin 16) (4 * ({ ctx := 15, pc := 5, cyc := 98, v := List.replicate 32 0x3F800000, st := List.replicate 64 0 } : LeRun).pc)) ((leEncode (.leBinit (15 : Fin 16) (2047 : Fin 2048))).getD 0) : State), ({ ctx := 15, pc := 5, cyc := 98, v := List.replicate 32 0x3F800000, st := List.replicate 64 0 } : LeRun), by simp only [State.running]; decide +kernel⟩,
    ⟨(15 : Fin 16), (2047 : Fin 2048), (({ sets [(LEX.CTX_WCET_WCET 15 15, 100)] with le := { engs := [(15, { run := some ({ ctx := 15, pc := 5, cyc := 98, v := List.replicate 32 0x3F800000, st := List.replicate 64 0 } : LeRun) })] } } : State).setMword (leAddr (15 : Fin 16) (4 * ({ ctx := 15, pc := 5, cyc := 98, v := List.replicate 32 0x3F800000, st := List.replicate 64 0 } : LeRun).pc)) ((leEncode (.leBc (15 : Fin 16) (0 : Fin 32) (31 : Fin 32) (5 : Fin 6) (2 : Fin 3) (2047 : Fin 2048))).getD 0) : State), ({ ctx := 15, pc := 5, cyc := 98, v := List.replicate 32 0x3F800000, st := List.replicate 64 0 } : LeRun), (0 : Fin 32), (31 : Fin 32), (5 : Fin 6), (2 : Fin 3), by simp only [State.running]; decide +kernel⟩,
    ⟨(15 : Fin 16), (1 : Fin 2048), (({ sets [(LEX.CTX_WCET_WCET 15 15, 100)] with le := { engs := [(15, { run := some ({ ctx := 15, pc := 5, cyc := 98, v := List.replicate 32 0x3F800000, st := List.replicate 64 0 } : LeRun) })] } } : State).setMword (leAddr (15 : Fin 16) (4 * ({ ctx := 15, pc := 5, cyc := 98, v := List.replicate 32 0x3F800000, st := List.replicate 64 0 } : LeRun).pc)) ((leEncode (.leLoop (15 : Fin 16) (1023 : Fin 1024) (1023 : Fin 1024))).getD 0) : State), ({ ctx := 15, pc := 5, cyc := 98, v := List.replicate 32 0x3F800000, st := List.replicate 64 0 } : LeRun), (1023 : Fin 1024), (1023 : Fin 1024), by simp only [State.running]; decide +kernel⟩,
    ⟨(0 : Nat), (0 : Nat), (2 : Nat), ([] : List (Nat × Nat × Nat)), by decide +kernel⟩,
    ⟨(0 : Nat), (0 : Nat), (0 : Nat), ([] : List (Nat × Nat × Nat)), by decide +kernel⟩,
    ⟨(0 : Nat), (0 : Nat), (0 : Nat), ([] : List (Nat × Nat × Nat)), (1 : Nat), by decide +kernel⟩,
    ⟨(15 : Fin 16), (({ sets [(LEX.CTX_WCET_WCET 15 15, 100)] with le := { engs := [(15, { run := some ({ ctx := 15, pc := 5, cyc := 96, v := List.replicate 32 0x3F800000, st := List.replicate 64 0 } : LeRun) })] }, now := 25000000 } : State).setMword (leAddr (15 : Fin 16) (4 * ({ ctx := 15, pc := 5, cyc := 96, v := List.replicate 32 0x3F800000, st := List.replicate 64 0 } : LeRun).pc)) ((leEncode (.leEnd (15 : Fin 16))).getD 0) : State), ({ ctx := 15, pc := 5, cyc := 96, v := List.replicate 32 0x3F800000, st := List.replicate 64 0 } : LeRun), by simp only [State.running]; decide +kernel⟩,
    ⟨(15 : Fin 16), (({ sets [(LEX.CTX_WCET_WCET 15 15, 100)] with le := { engs := [(15, { run := some ({ ctx := 15, pc := 5, cyc := 96, v := List.replicate 32 0x3F800000, st := List.replicate 64 0 } : LeRun), used := 100000 })] } } : State).setMword (leAddr (15 : Fin 16) (4 * ({ ctx := 15, pc := 5, cyc := 96, v := List.replicate 32 0x3F800000, st := List.replicate 64 0 } : LeRun).pc)) ((leEncode (.leEnd (15 : Fin 16))).getD 0) : State), ({ ctx := 15, pc := 5, cyc := 96, v := List.replicate 32 0x3F800000, st := List.replicate 64 0 } : LeRun), by simp only [State.running]; decide +kernel⟩,
    ⟨(15 : Fin 16), (({ sets [(LEX.CTX_WCET_WCET 15 15, 100)] with le := { engs := [(15, { run := some ({ ctx := 15, pc := 5, cyc := 96, v := List.replicate 32 0x3F800000, st := List.replicate 64 0 } : LeRun) })] } } : State).setMword (leAddr (15 : Fin 16) (4 * ({ ctx := 15, pc := 5, cyc := 96, v := List.replicate 32 0x3F800000, st := List.replicate 64 0 } : LeRun).pc)) ((leEncode (.leEnd (15 : Fin 16))).getD 0) : State), ({ ctx := 15, pc := 5, cyc := 96, v := List.replicate 32 0x3F800000, st := List.replicate 64 0 } : LeRun), by simp only [State.running]; decide +kernel⟩,
    ⟨(15 : Fin 16), (({ sets [(LEX.CTX_WCET_WCET 15 15, 100)] with le := { engs := [(15, { run := some ({ ctx := 15, pc := 5, cyc := 100, v := List.replicate 32 0x3F800000, st := List.replicate 64 0 } : LeRun) })] } } : State).setMword (leAddr (15 : Fin 16) (4 * ({ ctx := 15, pc := 5, cyc := 100, v := List.replicate 32 0x3F800000, st := List.replicate 64 0 } : LeRun).pc)) ((leEncode (.leNop (15 : Fin 16))).getD 0) : State), ({ ctx := 15, pc := 5, cyc := 100, v := List.replicate 32 0x3F800000, st := List.replicate 64 0 } : LeRun), by decide +kernel⟩,
    ⟨(15 : Fin 16), (.leNop 15 : Instr), ((({ State.reset with le := { engs := [(15, { run := some ({ ctx := 15, pc := 5, cyc := 0, v := List.replicate 32 0, st := List.replicate 64 0 }) })] } } : State).setMword 0x301E0014 0x04000000).setPoison 16 2 true : State), ({ ctx := 15, pc := 5, cyc := 0, v := List.replicate 32 0, st := List.replicate 64 0 } : LeRun), (0 : Nat), by decide +kernel⟩,
    ⟨(15 : Nat), (4 : Nat), (sets [((LEX.CTX_ACT_ACT (15 : Nat) ({ ctx := 15, pc := 5, cyc := 0, v := List.replicate 32 0, st := List.replicate 64 0 } : LeRun).ctx), 2), (LEX.CTX_ACT_ACT 15 15, 2)] : State), ({ ctx := 15, pc := 5, cyc := 0, v := List.replicate 32 0, st := List.replicate 64 0 } : LeRun), by decide +kernel⟩⟩

theorem test_meets_Primitives :
    (∃ (e : Fin 16) (vd : Fin 32) (va : Fin 32) (sb : Fin 64) (cb : Fin 64) (s : State) (r : LeRun) (c : Nat → Word) (ff : Bool), (∀ i, c i = s.mword (leC (16 * e + r.ctx) (cb + i))) ∧ (s.running e r 8) ∧ (s.fetches e r (.lePi e vd va sb cb ff)))
    ∧ (∃ (e : Fin 16) (vd : Fin 32) (va : Fin 32) (sb : Fin 64) (cb : Fin 64) (s : State) (r : LeRun) (c : Nat → Word) (ff : Bool), (∀ i, c i = s.mword (leC (16 * e + r.ctx) (cb + i))) ∧ (s.running e r 14) ∧ (s.fetches e r (.lePid e vd va sb cb ff)))
    ∧ (∃ (e : Fin 16) (vd : Fin 32) (va : Fin 32) (sb : Fin 64) (cb : Fin 64) (s : State) (r : LeRun) (c : Nat → Word) (p0 : Word) (p1 : Word) (p2 : Word) (p3 : Word) (p4 : Word) (q1 : Word) (q2 : Word) (y : Word) (s1 : Word) (s2 : Word), (∀ i, c i = s.mword (leC (16 * e + r.ctx) (cb + i))) ∧ (s.running e r 10) ∧ (fmul (c 0) (r.get va) = some p0) ∧ (fadd p0 (r.gets sb) = some y) ∧ (fmul (c 1) (r.get va) = some p1) ∧ (fmul (c 3) y = some p3) ∧ (fsub p1 p3 = some q1) ∧ (fadd q1 (r.gets (sb + 1)) = some s1) ∧ (fmul (c 2) (r.get va) = some p2) ∧ (fmul (c 4) y = some p4) ∧ (fsub p2 p4 = some q2) ∧ (q2 = s2) ∧ (s.fetches e r (.leBiq e vd va sb cb)))
    ∧ (∃ (e : Fin 16) (vd : Fin 32) (va : Fin 32) (sb : Fin 64) (cb : Fin 64) (s : State) (r : LeRun) (c : Nat → Word) (b : Bool), (∀ i, c i = s.mword (leC (16 * e + r.ctx) (cb + i))) ∧ (s.running e r 10) ∧ (s.fetches e r (.leLim e vd va cb b)))
    ∧ (∃ (e : Fin 16) (vd : Fin 32) (va : Fin 32) (sb : Fin 64) (cb : Fin 64) (s : State) (r : LeRun) (c : Nat → Word) (p0 : Word) (p1 : Word) (p2 : Word) (y : Word) (s1 : Word), (∀ i, c i = s.mword (leC (16 * e + r.ctx) (cb + i))) ∧ (s.running e r 6) ∧ (fmul (c 0) (r.get va) = some p0) ∧ (fadd p0 (r.gets sb) = some y) ∧ (fmul (c 1) (r.get va) = some p1) ∧ (fmul (c 2) y = some p2) ∧ (fsub p1 p2 = some s1) ∧ (s.fetches e r (.leLlag e vd va sb cb)))
    ∧ (∃ (e : Fin 16) (vd : Fin 32) (va : Fin 32) (sb : Fin 64) (cb : Fin 64) (s : State) (r : LeRun) (c : Nat → Word) (t : Fin 3) (y : Word) (lim : Bool), (∀ i, c i = s.mword (leC (16 * e + r.ctx) (cb + i))) ∧ (s.running e r 2) ∧ (y = (if opCond 5 t (r.get va) (c 0) then c 0 else if opCond 2 t (r.get va) (c 1) then c 1 else r.get va)) ∧ (lim = (opCond 5 t (r.get va) (c 0) || opCond 2 t (r.get va) (c 1))) ∧ (s.fetches e r (.leSat e vd va cb t)))
    ∧ (∃ (e : Fin 16) (vd : Fin 32) (va : Fin 32) (sb : Fin 64) (cb : Fin 64) (s : State) (r : LeRun) (c : Nat → Word) (y : Word) (rr : Word), (∀ i, c i = s.mword (leC (16 * e + r.ctx) (cb + i))) ∧ (s.running e r 12) ∧ (s.get (LEX.CTX_STAT_INIT e r.ctx) = 0) ∧ (rampStep (r.get va) (r.gets sb) (r.gets (sb + 1)) (c 0) (c 1) (c 2) = some (y, rr)) ∧ (s.fetches e r (.leRamp e vd va sb cb)))
    ∧ (∃ (e : Fin 16) (vd : Fin 32) (va : Fin 32) (sb : Fin 64) (cb : Fin 64) (s : State) (r : LeRun) (c : Nat → Word) (m : Word), (∀ i, c i = s.mword (leC (16 * e + r.ctx) (cb + i))) ∧ (s.running e r 12) ∧ (s.get (LEX.CTX_STAT_INIT e r.ctx) = 1) ∧ (fpass (r.get (va + 1)) = some m) ∧ (s.fetches e r (.leRamp e vd va sb cb)))
    ∧ (∃ (e : Fin 16) (vd : Fin 32) (va : Fin 32) (sb : Fin 64) (cb : Fin 64) (s : State) (r : LeRun) (c : Nat → Word) (n : Nat) (off : Nat), (∀ i, c i = s.mword (leC (16 * e + r.ctx) (cb + i))) ∧ (s.running e r 10) ∧ (n = (c 2).toNat / 65536) ∧ (off = (c 2).toNat % 65536) ∧ (n < 2 ∨ 4096 < n ∨ s.ctxTLEN (16 * e + r.ctx) < off + n) ∧ (s.fetches e r (.leTlu e vd va cb)))
    ∧ (∃ (e : Fin 16) (vd : Fin 32) (va : Fin 32) (sb : Fin 64) (cb : Fin 64) (s : State) (r : LeRun) (c : Nat → Word) (n : Nat) (off : Nat), (∀ i, c i = s.mword (leC (16 * e + r.ctx) (cb + i))) ∧ (s.running e r 10) ∧ (n = (c 2).toNat / 65536) ∧ (off = (c 2).toNat % 65536) ∧ (2 ≤ n) ∧ (n ≤ 4096) ∧ (off + n ≤ s.ctxTLEN (16 * e + r.ctx)) ∧ (s.fetches e r (.leTlu e vd va cb)))
    ∧ (∃ (e : Fin 16) (vd : Fin 32) (va : Fin 32) (sb : Fin 64) (cb : Fin 64) (s : State) (r : LeRun) (c : Nat → Word) (b : Bool), (∀ i, c i = s.mword (leC (16 * e + r.ctx) (cb + i))) ∧ (s.running e r 4) ∧ (s.fetches e r (.leClarke e vd va b)))
    ∧ (∃ (e : Fin 16) (vd : Fin 32) (va : Fin 32) (sb : Fin 64) (cb : Fin 64) (s : State) (r : LeRun) (c : Nat → Word), (∀ i, c i = s.mword (leC (16 * e + r.ctx) (cb + i))) ∧ (s.running e r 4) ∧ (s.fetches e r (.lePark e vd va)))
    ∧ (∃ (e : Fin 16) (vd : Fin 32) (va : Fin 32) (sb : Fin 64) (cb : Fin 64) (s : State) (r : LeRun) (c : Nat → Word), (∀ i, c i = s.mword (leC (16 * e + r.ctx) (cb + i))) ∧ (s.running e r 4) ∧ (s.fetches e r (.leIpark e vd va)))
    ∧ (∃ (e : Fin 16) (vd : Fin 32) (va : Fin 32) (sb : Fin 64) (cb : Fin 64) (s : State) (r : LeRun) (c : Nat → Word), (∀ i, c i = s.mword (leC (16 * e + r.ctx) (cb + i))) ∧ (s.running e r 48) ∧ (s.fetches e r (.leObsv e vd va sb cb))) :=
  ⟨⟨(15 : Fin 16), (31 : Fin 32), (0 : Fin 32), (0 : Fin 64), (0 : Fin 64), (({ sets [(LEX.CTX_WCET_WCET 15 15, 100)] with le := { engs := [(15, { run := some ({ ctx := 15, pc := 5, cyc := 92, v := List.replicate 32 0x3F800000, st := List.replicate 64 0 } : LeRun) })] } } : State).setMword (leAddr (15 : Fin 16) (4 * ({ ctx := 15, pc := 5, cyc := 92, v := List.replicate 32 0x3F800000, st := List.replicate 64 0 } : LeRun).pc)) ((leEncode (.lePi (15 : Fin 16) (31 : Fin 32) (0 : Fin 32) (0 : Fin 64) (0 : Fin 64) (false : Bool))).getD 0) : State), ({ ctx := 15, pc := 5, cyc := 92, v := List.replicate 32 0x3F800000, st := List.replicate 64 0 } : LeRun), (fun i => (({ sets [(LEX.CTX_WCET_WCET 15 15, 100)] with le := { engs := [(15, { run := some ({ ctx := 15, pc := 5, cyc := 92, v := List.replicate 32 0x3F800000, st := List.replicate 64 0 } : LeRun) })] } } : State).setMword (leAddr (15 : Fin 16) (4 * ({ ctx := 15, pc := 5, cyc := 92, v := List.replicate 32 0x3F800000, st := List.replicate 64 0 } : LeRun).pc)) ((leEncode (.lePi (15 : Fin 16) (31 : Fin 32) (0 : Fin 32) (0 : Fin 64) (0 : Fin 64) (false : Bool))).getD 0) : State).mword (leC (16 * ((15 : Fin 16) : Nat) + 15) (((0 : Fin 64) : Nat) + i)) : Nat → Word), (false : Bool), by refine ⟨fun _ => rfl, ?_⟩; unfold State.running; decide +kernel⟩,
    ⟨(15 : Fin 16), (31 : Fin 32), (0 : Fin 32), (0 : Fin 64), (0 : Fin 64), (({ sets [(LEX.CTX_WCET_WCET 15 15, 100)] with le := { engs := [(15, { run := some ({ ctx := 15, pc := 5, cyc := 86, v := List.replicate 32 0x3F800000, st := List.replicate 64 0 } : LeRun) })] } } : State).setMword (leAddr (15 : Fin 16) (4 * ({ ctx := 15, pc := 5, cyc := 86, v := List.replicate 32 0x3F800000, st := List.replicate 64 0 } : LeRun).pc)) ((leEncode (.lePid (15 : Fin 16) (31 : Fin 32) (0 : Fin 32) (0 : Fin 64) (0 : Fin 64) (false : Bool))).getD 0) : State), ({ ctx := 15, pc := 5, cyc := 86, v := List.replicate 32 0x3F800000, st := List.replicate 64 0 } : LeRun), (fun i => (({ sets [(LEX.CTX_WCET_WCET 15 15, 100)] with le := { engs := [(15, { run := some ({ ctx := 15, pc := 5, cyc := 86, v := List.replicate 32 0x3F800000, st := List.replicate 64 0 } : LeRun) })] } } : State).setMword (leAddr (15 : Fin 16) (4 * ({ ctx := 15, pc := 5, cyc := 86, v := List.replicate 32 0x3F800000, st := List.replicate 64 0 } : LeRun).pc)) ((leEncode (.lePid (15 : Fin 16) (31 : Fin 32) (0 : Fin 32) (0 : Fin 64) (0 : Fin 64) (false : Bool))).getD 0) : State).mword (leC (16 * ((15 : Fin 16) : Nat) + 15) (((0 : Fin 64) : Nat) + i)) : Nat → Word), (false : Bool), by refine ⟨fun _ => rfl, ?_⟩; unfold State.running; decide +kernel⟩,
    ⟨(15 : Fin 16), (31 : Fin 32), (0 : Fin 32), (0 : Fin 64), (0 : Fin 64), (({ sets [(LEX.CTX_WCET_WCET 15 15, 100)] with le := { engs := [(15, { run := some ({ ctx := 15, pc := 5, cyc := 90, v := List.replicate 32 0x3F800000, st := List.replicate 64 0 } : LeRun) })] } } : State).setMword (leAddr (15 : Fin 16) (4 * ({ ctx := 15, pc := 5, cyc := 90, v := List.replicate 32 0x3F800000, st := List.replicate 64 0 } : LeRun).pc)) ((leEncode (.leBiq (15 : Fin 16) (31 : Fin 32) (0 : Fin 32) (0 : Fin 64) (0 : Fin 64))).getD 0) : State), ({ ctx := 15, pc := 5, cyc := 90, v := List.replicate 32 0x3F800000, st := List.replicate 64 0 } : LeRun), (fun i => (({ sets [(LEX.CTX_WCET_WCET 15 15, 100)] with le := { engs := [(15, { run := some ({ ctx := 15, pc := 5, cyc := 90, v := List.replicate 32 0x3F800000, st := List.replicate 64 0 } : LeRun) })] } } : State).setMword (leAddr (15 : Fin 16) (4 * ({ ctx := 15, pc := 5, cyc := 90, v := List.replicate 32 0x3F800000, st := List.replicate 64 0 } : LeRun).pc)) ((leEncode (.leBiq (15 : Fin 16) (31 : Fin 32) (0 : Fin 32) (0 : Fin 64) (0 : Fin 64))).getD 0) : State).mword (leC (16 * ((15 : Fin 16) : Nat) + 15) (((0 : Fin 64) : Nat) + i)) : Nat → Word), (0 : Word), (0 : Word), (0 : Word), (0 : Word), (0 : Word), (0 : Word), (0 : Word), (0 : Word), (0 : Word), (0 : Word), by refine ⟨fun _ => rfl, ?_⟩; unfold State.running; decide +kernel⟩,
    ⟨(15 : Fin 16), (31 : Fin 32), (0 : Fin 32), (0 : Fin 64), (0 : Fin 64), (({ sets [(LEX.CTX_WCET_WCET 15 15, 100)] with le := { engs := [(15, { run := some ({ ctx := 15, pc := 5, cyc := 90, v := List.replicate 32 0x3F800000, st := List.replicate 64 0 } : LeRun) })] } } : State).setMword (leAddr (15 : Fin 16) (4 * ({ ctx := 15, pc := 5, cyc := 90, v := List.replicate 32 0x3F800000, st := List.replicate 64 0 } : LeRun).pc)) ((leEncode (.leLim (15 : Fin 16) (31 : Fin 32) (0 : Fin 32) (0 : Fin 64) (true : Bool))).getD 0) : State), ({ ctx := 15, pc := 5, cyc := 90, v := List.replicate 32 0x3F800000, st := List.replicate 64 0 } : LeRun), (fun i => (({ sets [(LEX.CTX_WCET_WCET 15 15, 100)] with le := { engs := [(15, { run := some ({ ctx := 15, pc := 5, cyc := 90, v := List.replicate 32 0x3F800000, st := List.replicate 64 0 } : LeRun) })] } } : State).setMword (leAddr (15 : Fin 16) (4 * ({ ctx := 15, pc := 5, cyc := 90, v := List.replicate 32 0x3F800000, st := List.replicate 64 0 } : LeRun).pc)) ((leEncode (.leLim (15 : Fin 16) (31 : Fin 32) (0 : Fin 32) (0 : Fin 64) (true : Bool))).getD 0) : State).mword (leC (16 * ((15 : Fin 16) : Nat) + 15) (((0 : Fin 64) : Nat) + i)) : Nat → Word), (true : Bool), by refine ⟨fun _ => rfl, ?_⟩; unfold State.running; decide +kernel⟩,
    ⟨(15 : Fin 16), (31 : Fin 32), (0 : Fin 32), (0 : Fin 64), (0 : Fin 64), (({ sets [(LEX.CTX_WCET_WCET 15 15, 100)] with le := { engs := [(15, { run := some ({ ctx := 15, pc := 5, cyc := 94, v := List.replicate 32 0x3F800000, st := List.replicate 64 0 } : LeRun) })] } } : State).setMword (leAddr (15 : Fin 16) (4 * ({ ctx := 15, pc := 5, cyc := 94, v := List.replicate 32 0x3F800000, st := List.replicate 64 0 } : LeRun).pc)) ((leEncode (.leLlag (15 : Fin 16) (31 : Fin 32) (0 : Fin 32) (0 : Fin 64) (0 : Fin 64))).getD 0) : State), ({ ctx := 15, pc := 5, cyc := 94, v := List.replicate 32 0x3F800000, st := List.replicate 64 0 } : LeRun), (fun i => (({ sets [(LEX.CTX_WCET_WCET 15 15, 100)] with le := { engs := [(15, { run := some ({ ctx := 15, pc := 5, cyc := 94, v := List.replicate 32 0x3F800000, st := List.replicate 64 0 } : LeRun) })] } } : State).setMword (leAddr (15 : Fin 16) (4 * ({ ctx := 15, pc := 5, cyc := 94, v := List.replicate 32 0x3F800000, st := List.replicate 64 0 } : LeRun).pc)) ((leEncode (.leLlag (15 : Fin 16) (31 : Fin 32) (0 : Fin 32) (0 : Fin 64) (0 : Fin 64))).getD 0) : State).mword (leC (16 * ((15 : Fin 16) : Nat) + 15) (((0 : Fin 64) : Nat) + i)) : Nat → Word), (0 : Word), (0 : Word), (0 : Word), (0 : Word), (0 : Word), by refine ⟨fun _ => rfl, ?_⟩; unfold State.running; decide +kernel⟩,
    ⟨(15 : Fin 16), (31 : Fin 32), (0 : Fin 32), (0 : Fin 64), (0 : Fin 64), (({ sets [(LEX.CTX_WCET_WCET 15 15, 100)] with le := { engs := [(15, { run := some ({ ctx := 15, pc := 5, cyc := 98, v := List.replicate 32 0x3F800000, st := List.replicate 64 0 } : LeRun) })] } } : State).setMword (leAddr (15 : Fin 16) (4 * ({ ctx := 15, pc := 5, cyc := 98, v := List.replicate 32 0x3F800000, st := List.replicate 64 0 } : LeRun).pc)) ((leEncode (.leSat (15 : Fin 16) (31 : Fin 32) (0 : Fin 32) (0 : Fin 64) (1 : Fin 3))).getD 0) : State), ({ ctx := 15, pc := 5, cyc := 98, v := List.replicate 32 0x3F800000, st := List.replicate 64 0 } : LeRun), (fun i => (({ sets [(LEX.CTX_WCET_WCET 15 15, 100)] with le := { engs := [(15, { run := some ({ ctx := 15, pc := 5, cyc := 98, v := List.replicate 32 0x3F800000, st := List.replicate 64 0 } : LeRun) })] } } : State).setMword (leAddr (15 : Fin 16) (4 * ({ ctx := 15, pc := 5, cyc := 98, v := List.replicate 32 0x3F800000, st := List.replicate 64 0 } : LeRun).pc)) ((leEncode (.leSat (15 : Fin 16) (31 : Fin 32) (0 : Fin 32) (0 : Fin 64) (1 : Fin 3))).getD 0) : State).mword (leC (16 * ((15 : Fin 16) : Nat) + 15) (((0 : Fin 64) : Nat) + i)) : Nat → Word), (1 : Fin 3), (0 : Word), (true : Bool), by refine ⟨fun _ => rfl, ?_⟩; unfold State.running; decide +kernel⟩,
    ⟨(15 : Fin 16), (31 : Fin 32), (0 : Fin 32), (0 : Fin 64), (0 : Fin 64), (({ sets [((LEX.CTX_STAT_INIT (15 : Fin 16) ({ ctx := 15, pc := 5, cyc := 88, v := List.replicate 32 0x3F800000, st := List.replicate 64 0 } : LeRun).ctx), 0), (LEX.CTX_WCET_WCET 15 15, 100)] with le := { engs := [(15, { run := some ({ ctx := 15, pc := 5, cyc := 88, v := List.replicate 32 0x3F800000, st := List.replicate 64 0 } : LeRun) })] } } : State).setMword (leAddr (15 : Fin 16) (4 * ({ ctx := 15, pc := 5, cyc := 88, v := List.replicate 32 0x3F800000, st := List.replicate 64 0 } : LeRun).pc)) ((leEncode (.leRamp (15 : Fin 16) (31 : Fin 32) (0 : Fin 32) (0 : Fin 64) (0 : Fin 64))).getD 0) : State), ({ ctx := 15, pc := 5, cyc := 88, v := List.replicate 32 0x3F800000, st := List.replicate 64 0 } : LeRun), (fun i => (({ sets [((LEX.CTX_STAT_INIT (15 : Fin 16) ({ ctx := 15, pc := 5, cyc := 88, v := List.replicate 32 0x3F800000, st := List.replicate 64 0 } : LeRun).ctx), 0), (LEX.CTX_WCET_WCET 15 15, 100)] with le := { engs := [(15, { run := some ({ ctx := 15, pc := 5, cyc := 88, v := List.replicate 32 0x3F800000, st := List.replicate 64 0 } : LeRun) })] } } : State).setMword (leAddr (15 : Fin 16) (4 * ({ ctx := 15, pc := 5, cyc := 88, v := List.replicate 32 0x3F800000, st := List.replicate 64 0 } : LeRun).pc)) ((leEncode (.leRamp (15 : Fin 16) (31 : Fin 32) (0 : Fin 32) (0 : Fin 64) (0 : Fin 64))).getD 0) : State).mword (leC (16 * ((15 : Fin 16) : Nat) + 15) (((0 : Fin 64) : Nat) + i)) : Nat → Word), (0 : Word), (0 : Word), by refine ⟨fun _ => rfl, ?_⟩; unfold State.running; decide +kernel⟩,
    ⟨(15 : Fin 16), (31 : Fin 32), (0 : Fin 32), (0 : Fin 64), (0 : Fin 64), (({ sets [((LEX.CTX_STAT_INIT (15 : Fin 16) ({ ctx := 15, pc := 5, cyc := 88, v := List.replicate 32 0x3F800000, st := List.replicate 64 0 } : LeRun).ctx), 1), (LEX.CTX_WCET_WCET 15 15, 100), (LEX.CTX_STAT_INIT 15 15, 1)] with le := { engs := [(15, { run := some ({ ctx := 15, pc := 5, cyc := 88, v := List.replicate 32 0x3F800000, st := List.replicate 64 0 } : LeRun) })] } } : State).setMword (leAddr (15 : Fin 16) (4 * ({ ctx := 15, pc := 5, cyc := 88, v := List.replicate 32 0x3F800000, st := List.replicate 64 0 } : LeRun).pc)) ((leEncode (.leRamp (15 : Fin 16) (31 : Fin 32) (0 : Fin 32) (0 : Fin 64) (0 : Fin 64))).getD 0) : State), ({ ctx := 15, pc := 5, cyc := 88, v := List.replicate 32 0x3F800000, st := List.replicate 64 0 } : LeRun), (fun i => (({ sets [((LEX.CTX_STAT_INIT (15 : Fin 16) ({ ctx := 15, pc := 5, cyc := 88, v := List.replicate 32 0x3F800000, st := List.replicate 64 0 } : LeRun).ctx), 1), (LEX.CTX_WCET_WCET 15 15, 100), (LEX.CTX_STAT_INIT 15 15, 1)] with le := { engs := [(15, { run := some ({ ctx := 15, pc := 5, cyc := 88, v := List.replicate 32 0x3F800000, st := List.replicate 64 0 } : LeRun) })] } } : State).setMword (leAddr (15 : Fin 16) (4 * ({ ctx := 15, pc := 5, cyc := 88, v := List.replicate 32 0x3F800000, st := List.replicate 64 0 } : LeRun).pc)) ((leEncode (.leRamp (15 : Fin 16) (31 : Fin 32) (0 : Fin 32) (0 : Fin 64) (0 : Fin 64))).getD 0) : State).mword (leC (16 * ((15 : Fin 16) : Nat) + 15) (((0 : Fin 64) : Nat) + i)) : Nat → Word), (0x3F800000 : Word), by refine ⟨fun _ => rfl, ?_⟩; unfold State.running; decide +kernel⟩,
    ⟨(15 : Fin 16), (31 : Fin 32), (0 : Fin 32), (0 : Fin 64), (0 : Fin 64), (({ sets [(LEX.CTX_WCET_WCET 15 15, 100)] with le := { engs := [(15, { run := some ({ ctx := 15, pc := 5, cyc := 90, v := List.replicate 32 0x3F800000, st := List.replicate 64 0 } : LeRun) })] } } : State).setMword (leAddr (15 : Fin 16) (4 * ({ ctx := 15, pc := 5, cyc := 90, v := List.replicate 32 0x3F800000, st := List.replicate 64 0 } : LeRun).pc)) ((leEncode (.leTlu (15 : Fin 16) (31 : Fin 32) (0 : Fin 32) (0 : Fin 64))).getD 0) : State), ({ ctx := 15, pc := 5, cyc := 90, v := List.replicate 32 0x3F800000, st := List.replicate 64 0 } : LeRun), (fun i => (({ sets [(LEX.CTX_WCET_WCET 15 15, 100)] with le := { engs := [(15, { run := some ({ ctx := 15, pc := 5, cyc := 90, v := List.replicate 32 0x3F800000, st := List.replicate 64 0 } : LeRun) })] } } : State).setMword (leAddr (15 : Fin 16) (4 * ({ ctx := 15, pc := 5, cyc := 90, v := List.replicate 32 0x3F800000, st := List.replicate 64 0 } : LeRun).pc)) ((leEncode (.leTlu (15 : Fin 16) (31 : Fin 32) (0 : Fin 32) (0 : Fin 64))).getD 0) : State).mword (leC (16 * ((15 : Fin 16) : Nat) + 15) (((0 : Fin 64) : Nat) + i)) : Nat → Word), (0 : Nat), (0 : Nat), by refine ⟨fun _ => rfl, ?_⟩; unfold State.running; decide +kernel⟩,
    ⟨(15 : Fin 16), (31 : Fin 32), (0 : Fin 32), (0 : Fin 64), (0 : Fin 64), (({ sets [(LEX.CTX_WCET_WCET 15 15, 100), (LEX.CTX_TBL_TLEN 15 15, 2)] with le := { engs := [(15, { run := some ({ ctx := 15, pc := 5, cyc := 90, v := List.replicate 32 0x3F800000, st := List.replicate 64 0 } : LeRun) })] }, mem := [(0x301FFD0A, 2)] } : State).setMword (leAddr (15 : Fin 16) (4 * ({ ctx := 15, pc := 5, cyc := 90, v := List.replicate 32 0x3F800000, st := List.replicate 64 0 } : LeRun).pc)) ((leEncode (.leTlu (15 : Fin 16) (31 : Fin 32) (0 : Fin 32) (0 : Fin 64))).getD 0) : State), ({ ctx := 15, pc := 5, cyc := 90, v := List.replicate 32 0x3F800000, st := List.replicate 64 0 } : LeRun), (fun i => (({ sets [(LEX.CTX_WCET_WCET 15 15, 100), (LEX.CTX_TBL_TLEN 15 15, 2)] with le := { engs := [(15, { run := some ({ ctx := 15, pc := 5, cyc := 90, v := List.replicate 32 0x3F800000, st := List.replicate 64 0 } : LeRun) })] }, mem := [(0x301FFD0A, 2)] } : State).setMword (leAddr (15 : Fin 16) (4 * ({ ctx := 15, pc := 5, cyc := 90, v := List.replicate 32 0x3F800000, st := List.replicate 64 0 } : LeRun).pc)) ((leEncode (.leTlu (15 : Fin 16) (31 : Fin 32) (0 : Fin 32) (0 : Fin 64))).getD 0) : State).mword (leC (16 * ((15 : Fin 16) : Nat) + 15) (((0 : Fin 64) : Nat) + i)) : Nat → Word), (2 : Nat), (0 : Nat), by refine ⟨fun _ => rfl, ?_⟩; unfold State.running; decide +kernel⟩,
    ⟨(15 : Fin 16), (31 : Fin 32), (0 : Fin 32), (0 : Fin 64), (0 : Fin 64), (({ sets [(LEX.CTX_WCET_WCET 15 15, 100)] with le := { engs := [(15, { run := some ({ ctx := 15, pc := 5, cyc := 96, v := List.replicate 32 0x3F800000, st := List.replicate 64 0 } : LeRun) })] } } : State).setMword (leAddr (15 : Fin 16) (4 * ({ ctx := 15, pc := 5, cyc := 96, v := List.replicate 32 0x3F800000, st := List.replicate 64 0 } : LeRun).pc)) ((leEncode (.leClarke (15 : Fin 16) (31 : Fin 32) (0 : Fin 32) (true : Bool))).getD 0) : State), ({ ctx := 15, pc := 5, cyc := 96, v := List.replicate 32 0x3F800000, st := List.replicate 64 0 } : LeRun), (fun i => (({ sets [(LEX.CTX_WCET_WCET 15 15, 100)] with le := { engs := [(15, { run := some ({ ctx := 15, pc := 5, cyc := 96, v := List.replicate 32 0x3F800000, st := List.replicate 64 0 } : LeRun) })] } } : State).setMword (leAddr (15 : Fin 16) (4 * ({ ctx := 15, pc := 5, cyc := 96, v := List.replicate 32 0x3F800000, st := List.replicate 64 0 } : LeRun).pc)) ((leEncode (.leClarke (15 : Fin 16) (31 : Fin 32) (0 : Fin 32) (true : Bool))).getD 0) : State).mword (leC (16 * ((15 : Fin 16) : Nat) + 15) (((0 : Fin 64) : Nat) + i)) : Nat → Word), (true : Bool), by refine ⟨fun _ => rfl, ?_⟩; unfold State.running; decide +kernel⟩,
    ⟨(15 : Fin 16), (31 : Fin 32), (0 : Fin 32), (0 : Fin 64), (0 : Fin 64), (({ sets [(LEX.CTX_WCET_WCET 15 15, 100)] with le := { engs := [(15, { run := some ({ ctx := 15, pc := 5, cyc := 96, v := List.replicate 32 0x3F800000, st := List.replicate 64 0 } : LeRun) })] } } : State).setMword (leAddr (15 : Fin 16) (4 * ({ ctx := 15, pc := 5, cyc := 96, v := List.replicate 32 0x3F800000, st := List.replicate 64 0 } : LeRun).pc)) ((leEncode (.lePark (15 : Fin 16) (31 : Fin 32) (0 : Fin 32))).getD 0) : State), ({ ctx := 15, pc := 5, cyc := 96, v := List.replicate 32 0x3F800000, st := List.replicate 64 0 } : LeRun), (fun i => (({ sets [(LEX.CTX_WCET_WCET 15 15, 100)] with le := { engs := [(15, { run := some ({ ctx := 15, pc := 5, cyc := 96, v := List.replicate 32 0x3F800000, st := List.replicate 64 0 } : LeRun) })] } } : State).setMword (leAddr (15 : Fin 16) (4 * ({ ctx := 15, pc := 5, cyc := 96, v := List.replicate 32 0x3F800000, st := List.replicate 64 0 } : LeRun).pc)) ((leEncode (.lePark (15 : Fin 16) (31 : Fin 32) (0 : Fin 32))).getD 0) : State).mword (leC (16 * ((15 : Fin 16) : Nat) + 15) (((0 : Fin 64) : Nat) + i)) : Nat → Word), by refine ⟨fun _ => rfl, ?_⟩; unfold State.running; decide +kernel⟩,
    ⟨(15 : Fin 16), (31 : Fin 32), (0 : Fin 32), (0 : Fin 64), (0 : Fin 64), (({ sets [(LEX.CTX_WCET_WCET 15 15, 100)] with le := { engs := [(15, { run := some ({ ctx := 15, pc := 5, cyc := 96, v := List.replicate 32 0x3F800000, st := List.replicate 64 0 } : LeRun) })] } } : State).setMword (leAddr (15 : Fin 16) (4 * ({ ctx := 15, pc := 5, cyc := 96, v := List.replicate 32 0x3F800000, st := List.replicate 64 0 } : LeRun).pc)) ((leEncode (.leIpark (15 : Fin 16) (31 : Fin 32) (0 : Fin 32))).getD 0) : State), ({ ctx := 15, pc := 5, cyc := 96, v := List.replicate 32 0x3F800000, st := List.replicate 64 0 } : LeRun), (fun i => (({ sets [(LEX.CTX_WCET_WCET 15 15, 100)] with le := { engs := [(15, { run := some ({ ctx := 15, pc := 5, cyc := 96, v := List.replicate 32 0x3F800000, st := List.replicate 64 0 } : LeRun) })] } } : State).setMword (leAddr (15 : Fin 16) (4 * ({ ctx := 15, pc := 5, cyc := 96, v := List.replicate 32 0x3F800000, st := List.replicate 64 0 } : LeRun).pc)) ((leEncode (.leIpark (15 : Fin 16) (31 : Fin 32) (0 : Fin 32))).getD 0) : State).mword (leC (16 * ((15 : Fin 16) : Nat) + 15) (((0 : Fin 64) : Nat) + i)) : Nat → Word), by refine ⟨fun _ => rfl, ?_⟩; unfold State.running; decide +kernel⟩,
    ⟨(15 : Fin 16), (31 : Fin 32), (0 : Fin 32), (0 : Fin 64), (0 : Fin 64), (({ sets [(LEX.CTX_WCET_WCET 15 15, 100)] with le := { engs := [(15, { run := some ({ ctx := 15, pc := 5, cyc := 52, v := List.replicate 32 0x3F800000, st := List.replicate 64 0 } : LeRun) })] } } : State).setMword (leAddr (15 : Fin 16) (4 * ({ ctx := 15, pc := 5, cyc := 52, v := List.replicate 32 0x3F800000, st := List.replicate 64 0 } : LeRun).pc)) ((leEncode (.leObsv (15 : Fin 16) (31 : Fin 32) (0 : Fin 32) (0 : Fin 64) (0 : Fin 64))).getD 0) : State), ({ ctx := 15, pc := 5, cyc := 52, v := List.replicate 32 0x3F800000, st := List.replicate 64 0 } : LeRun), (fun i => (({ sets [(LEX.CTX_WCET_WCET 15 15, 100)] with le := { engs := [(15, { run := some ({ ctx := 15, pc := 5, cyc := 52, v := List.replicate 32 0x3F800000, st := List.replicate 64 0 } : LeRun) })] } } : State).setMword (leAddr (15 : Fin 16) (4 * ({ ctx := 15, pc := 5, cyc := 52, v := List.replicate 32 0x3F800000, st := List.replicate 64 0 } : LeRun).pc)) ((leEncode (.leObsv (15 : Fin 16) (31 : Fin 32) (0 : Fin 32) (0 : Fin 64) (0 : Fin 64))).getD 0) : State).mword (leC (16 * ((15 : Fin 16) : Nat) + 15) (((0 : Fin 64) : Nat) + i)) : Nat → Word), by refine ⟨fun _ => rfl, ?_⟩; unfold State.running; decide +kernel⟩⟩

theorem test_meets_SincosAndHandover :
    (∃ (e : Fin 16) (vd : Fin 32) (va : Fin 32) (s : State) (r : LeRun), (s.running e r 8) ∧ (s.fetches e r (.leSincos e vd va)) ∧ (r.v.length = 32) ∧ (vd.val < 31))
    ∧ (∃ (e : Fin 16) (vd : Fin 32) (va : Fin 32) (sb : Fin 64) (cb : Fin 64) (s : State) (r : LeRun) (y : Word), (s.running e r 10) ∧ (r.gets sb = 0) ∧ (r.gets (sb + 1) = 0) ∧ (fisz (r.get (va + 2)) = true) ∧ (0 ≤ (s.mword (leC (16 * e + r.ctx) (cb + 1))).toInt) ∧ (fadd (r.get va) 0 = some y) ∧ (fpass y = some y) ∧ (s.fetches e r (.leHandover e vd va sb cb false false)))
    ∧ (∃ (e : Fin 16) (vd : Fin 32) (va : Fin 32) (sb : Fin 64) (cb : Fin 64) (s : State) (r : LeRun), (s.running e r 10) ∧ (r.gets sb = 0) ∧ (r.gets (sb + 1) = 0) ∧ (fisz (r.get (va + 2)) = false) ∧ (s.mword (leC (16 * e + r.ctx) (cb + 1)) = 0) ∧ (s.fetches e r (.leHandover e vd va sb cb true false)))
    ∧ (∃ (free : Word) (x : Rat) (w : Word), (within6e8 free x = w) ∧ (w ≠ toF32 x)) :=
  ⟨⟨(15 : Fin 16), (30 : Fin 32), (0 : Fin 32), (({ sets [(LEX.CTX_WCET_WCET 15 15, 100)] with le := { engs := [(15, { run := some ({ ctx := 15, pc := 5, cyc := 92, v := List.replicate 32 0x3F800000, st := List.replicate 64 0 } : LeRun) })] } } : State).setMword (leAddr (15 : Fin 16) (4 * ({ ctx := 15, pc := 5, cyc := 92, v := List.replicate 32 0x3F800000, st := List.replicate 64 0 } : LeRun).pc)) ((leEncode (.leSincos (15 : Fin 16) (30 : Fin 32) (0 : Fin 32))).getD 0) : State), ({ ctx := 15, pc := 5, cyc := 92, v := List.replicate 32 0x3F800000, st := List.replicate 64 0 } : LeRun), by simp only [State.running]; decide +kernel⟩,
    ⟨(15 : Fin 16), (31 : Fin 32), (0 : Fin 32), (0 : Fin 64), (0 : Fin 64), (({ sets [(LEX.CTX_WCET_WCET 15 15, 100)] with le := { engs := [(15, { run := some ({ ctx := 15, pc := 5, cyc := 90, v := List.replicate 32 0, st := List.replicate 64 0 } : LeRun) })] } } : State).setMword (leAddr (15 : Fin 16) (4 * ({ ctx := 15, pc := 5, cyc := 90, v := List.replicate 32 0, st := List.replicate 64 0 } : LeRun).pc)) ((leEncode (.leHandover (15 : Fin 16) (31 : Fin 32) (0 : Fin 32) (0 : Fin 64) (0 : Fin 64) false false)).getD 0) : State), ({ ctx := 15, pc := 5, cyc := 90, v := List.replicate 32 0, st := List.replicate 64 0 } : LeRun), (0 : Word), by simp only [State.running]; decide +kernel⟩,
    ⟨(15 : Fin 16), (31 : Fin 32), (0 : Fin 32), (0 : Fin 64), (0 : Fin 64), (({ sets [(LEX.CTX_WCET_WCET 15 15, 100)] with le := { engs := [(15, { run := some ({ ctx := 15, pc := 5, cyc := 90, v := List.replicate 32 0x3F800000, st := List.replicate 64 0 } : LeRun) })] } } : State).setMword (leAddr (15 : Fin 16) (4 * ({ ctx := 15, pc := 5, cyc := 90, v := List.replicate 32 0x3F800000, st := List.replicate 64 0 } : LeRun).pc)) ((leEncode (.leHandover (15 : Fin 16) (31 : Fin 32) (0 : Fin 32) (0 : Fin 64) (0 : Fin 64) true false)).getD 0) : State), ({ ctx := 15, pc := 5, cyc := 90, v := List.replicate 32 0x3F800000, st := List.replicate 64 0 } : LeRun), by simp only [State.running]; decide +kernel⟩,
    ⟨(0x33000000 : Word), (0 : Rat), (0x33000000 : Word), by decide +kernel⟩⟩

theorem test_meets_LoopInstructionsDecodeAndEncodeAgree :
    (∃ (e : Fin 16) (w : Word) (i : Instr), (leDecode e w = some i))
    ∧ (∃ (i : Instr) (w : Word), (i.wf = true) ∧ (leEncode i = some w)) :=
  ⟨⟨(15 : Fin 16), (0x04000000 : Word), (.leNop 15 : Instr), by decide +kernel⟩,
    ⟨(.leNop 15 : Instr), (0x04000000 : Word), by decide +kernel⟩⟩

theorem test_meets_ContextsAndHolds :
    (∃ (e : Fin 16) (k : Fin 16) (s : State), (s.takes (LEX.page e)) ∧ (s.get (LEX.ENG_STAT_TESTING e) = 0) ∧ (s.ctxEn (16 * e + k) = false) ∧ (∀ c ∈ ctxsOf e, (s.lectx c).scan = none))
    ∧ (∃ (e : Fin 16) (k : Fin 16) (s : State), (s.takes (LEX.page e)) ∧ (s.get (LEX.ENG_STAT_TESTING e) = 1) ∧ (s.ctxEn (16 * e + k) = false) ∧ (∀ c ∈ ctxsOf e, (s.lectx c).scan = none))
    ∧ (∃ (e : Fin 16) (k : Fin 16) (s : State), ((s.lectx (16 * e + k)).scan = none))
    ∧ (∃ (e : Fin 16) (k : Fin 16) (t0 : Nat) (s : State) (u : State), ((s.lectx (16 * e + k)).scan = some t0) ∧ (u = (s.advance t0).modLectx (16 * e + k) (fun x => { x with scan := none })) ∧ (u.ctxPLEN (16 * e + k) = 0 ∨ u.ctxProgram (16 * e + k) = none))
    ∧ (∃ (e : Fin 16) (k : Fin 16) (t0 : Nat) (s : State) (u : State) (p : List Instr), ((s.lectx (16 * e + k)).scan = some t0) ∧ (u = (s.advance t0).modLectx (16 * e + k) (fun x => { x with scan := none })) ∧ (1 ≤ u.ctxPLEN (16 * e + k)) ∧ (u.ctxPC (16 * e + k) + u.ctxPLEN (16 * e + k) ≤ 0x7000) ∧ (u.ctxTBASE (16 * e + k) + u.ctxTLEN (16 * e + k) ≤ 0x7000) ∧ (∀ i, i < 16 → inSelOk (u.inBind (16 * e + k) i) = true ∧ outSelOk (u.outBind (16 * e + k) i) = true) ∧ (u.ctxProgram (16 * e + k) = some p) ∧ (progOk p (fun i => (u.inBind (16 * e + k) i).cls) (fun i => (u.outBind (16 * e + k) i).cls) = true) ∧ (u.ctxDests (16 * e + k) = []) ∧ (u.cycSum (u.enabledOf e) + wcetOf (fun i => (u.inBind (16 * e + k) i).cls == 1) p + 16 ≤ u.leWin) ∧ (u.leWin < 131072) ∧ (s.ctxEn (16 * e + k) = false))
    ∧ (∃ (e : Fin 16) (k : Fin 16) (s : State), (s.takes (LEX.page e)) ∧ (s.ctxEn (16 * e + k) = true) ∧ (∀ c ∈ ctxsOf e, (s.lectx c).scan = none) ∧ (s.armed = true) ∧ (s.ctxDrives (16 * e + k) = true))
    ∧ (∃ (e : Fin 16) (k : Fin 16) (s : State), (s.takes (LEX.page e)) ∧ (s.ctxEn (16 * e + k) = true) ∧ (∀ c ∈ ctxsOf e, (s.lectx c).scan = none) ∧ (s.armed = false ∨ s.ctxDrives (16 * e + k) = false))
    ∧ (∃ (e : Fin 16) (m : BitVec 16) (s : State), (s.takes (LEX.page e)))
    ∧ (∃ (e : Fin 16) (v : Word) (s : State), (s.takes (LEX.page e)) ∧ (16 ≤ (s.eng e).queue.length))
    ∧ (∃ (e : Fin 16) (v : Word) (s : State), (s.takes (LEX.page e)) ∧ ((s.eng e).queue.length < 16) ∧ (s.ctxEn (16 * e + getBits v 0 4) = false))
    ∧ (∃ (e : Fin 16) (v : Word) (s : State), (s.takes (LEX.page e)) ∧ ((s.eng e).queue.length < 16) ∧ (s.ctxEn (16 * e + getBits v 0 4) = true))
    ∧ (∃ (e : Fin 16) (c : Nat) (l : List Nat) (s : State), (s.window = 1) ∧ (s.leGated = false) ∧ ((s.eng e).run = none) ∧ ((s.eng e).todo = c :: l))
    ∧ (∃ (e : Fin 16) (s : State), (s.window ≠ 1 ∨ s.leGated = true ∨ (s.eng e).run.isSome ∨ (s.eng e).todo = [])) :=
  ⟨⟨(15 : Fin 16), (15 : Fin 16), (sets [((LEX.ENG_STAT_TESTING (15 : Fin 16)), 0)] : State), by simp only [State.takes]; decide +kernel⟩,
    ⟨(15 : Fin 16), (15 : Fin 16), (sets [((LEX.ENG_STAT_TESTING (15 : Fin 16)), 1)] : State), by simp only [State.takes]; decide +kernel⟩,
    ⟨(15 : Fin 16), (15 : Fin 16), (State.reset : State), by decide +kernel⟩,
    ⟨(15 : Fin 16), (15 : Fin 16), (9 : Nat), ({ State.reset with le := { ctxs := [(255, { scan := some 9 })] } } : State), ((({ State.reset with le := { ctxs := [(255, { scan := some 9 })] } } : State).advance (9 : Nat)).modLectx (16 * (15 : Fin 16) + (15 : Fin 16)) (fun x => { x with scan := none }) : State), by decide +kernel⟩,
    ⟨(15 : Fin 16), (15 : Fin 16), (9 : Nat), ({ sets [(LEX.CTX_PROG_PLEN 15 15, 1)] with le := { ctxs := [(255, { scan := some 9 })] } } : State), ((({ sets [(LEX.CTX_PROG_PLEN 15 15, 1)] with le := { ctxs := [(255, { scan := some 9 })] } } : State).advance (9 : Nat)).modLectx (16 * (15 : Fin 16) + (15 : Fin 16)) (fun x => { x with scan := none }) : State), ([.leEnd 15] : List Instr), by decide +kernel⟩,
    ⟨(15 : Fin 16), (15 : Fin 16), ({ sets [(PWR.STAT_ARMED, 1), (LEX.CTX_EN_EN 15, 0x8000)] with mem := [(0x301FFE80, 4), (0x301FFE82, 0)] } : State), by simp only [State.takes]; decide +kernel⟩,
    ⟨(15 : Fin 16), (15 : Fin 16), (sets [(LEX.CTX_EN_EN 15, 0x8000)] : State), by simp only [State.takes]; decide +kernel⟩,
    ⟨(15 : Fin 16), (0 : BitVec 16), (State.reset : State), by simp only [State.takes]; decide +kernel⟩,
    ⟨(15 : Fin 16), (0 : Word), ({ State.reset with le := { engs := [(15, { queue := List.replicate 16 (0, 0, 0) })] } } : State), by simp only [State.takes]; decide +kernel⟩,
    ⟨(15 : Fin 16), (0 : Word), ({ State.reset with le := { engs := [(15, { queue := List.replicate 15 (0, 0, 0) })] } } : State), by simp only [State.takes]; decide +kernel⟩,
    ⟨(15 : Fin 16), (15 : Word), ({ sets [(LEX.CTX_EN_EN ((16 * (15 : Fin 16) + getBits (15 : Word) 0 4) / 16), 2 ^ ((16 * (15 : Fin 16) + getBits (15 : Word) 0 4) % 16)), (LEX.CTX_EN_EN 15, 0x8000)] with le := { engs := [(15, { queue := List.replicate 15 (0, 0, 0) })] } } : State), by simp only [State.takes]; decide +kernel⟩,
    ⟨(15 : Fin 16), (255 : Nat), ([] : List Nat), ({ State.reset with window := 1, le := { engs := [(15, { todo := [255] })] } } : State), by decide +kernel⟩,
    ⟨(15 : Fin 16), (State.reset : State), by decide +kernel⟩⟩

theorem test_meets_MoveAndTest :
    (∃ (e : Fin 16) (v : Word) (s : State) (d : Nat) (c : Bool × Nat), (s.takes (LEX.page e)) ∧ (getBits v 13 1 = 1) ∧ (d = getBits v 4 4) ∧ (d ≠ e.val) ∧ ((s.moveConds e d (getBits v 12 1 == 1) (s.movePairs e v) (s.on (LEX.ENG_STAT_MOVING e) || s.on (LEX.ENG_STAT_MOVING d))).find? (fun c => c.1) = some c) ∧ (c.2 < 256) ∧ ((s.eng e).move = none))
    ∧ (∃ (e : Fin 16) (v : Word) (s : State) (d : Nat), (s.takes (LEX.page e)) ∧ (getBits v 13 1 = 1) ∧ (d = getBits v 4 4) ∧ (d ≠ e.val) ∧ ((s.moveConds e d (getBits v 12 1 == 1) (s.movePairs e v) (s.on (LEX.ENG_STAT_MOVING e) || s.on (LEX.ENG_STAT_MOVING d))).find? (fun c => c.1) = none))
    ∧ (∃ (e : Fin 16) (m : LeMove) (s : State), ((s.eng e).move = some m) ∧ (m.phase = 0) ∧ ((s.moveConds e m.eng m.all m.ctxs false).find? (fun c => c.1) = none))
    ∧ (∃ (e : Fin 16) (s : State), ((s.eng e).move = none))
    ∧ (∃ (e : Fin 16) (v : Word) (s : State), (s.takes (LEX.page e)) ∧ (getBits v 0 1 = 1) ∧ (s.enabledOf e ≠ []))
    ∧ (∃ (e : Fin 16) (v : Word) (s : State), (s.takes (LEX.page e)) ∧ (getBits v 0 1 = 1) ∧ (s.enabledOf e = []) ∧ (s.get (LEX.ENG_STAT_TESTING e) = 0) ∧ (s.get (LEX.ENG_STAT_MOVING e) = 0) ∧ (∀ c ∈ ctxsOf e, (s.lectx c).scan = none))
    ∧ (∃ (e : Fin 16) (pass : Bool) (s : State), (s.get (LEX.ENG_STAT_TESTING e) = 1)) :=
  ⟨⟨(15 : Fin 16), (0x2000 : Word), (State.reset : State), (0 : Nat), ((true, lSTATE) : Bool × Nat), by simp only [State.takes]; decide +kernel⟩,
    ⟨(15 : Fin 16), (0x2FEF : Word), (sets [(LEX.CTX_EN_EN 15, 0x8000), (HDR.CTRL_EN (LEX.page 14), 1)] : State), (14 : Nat), by simp only [State.takes]; decide +kernel⟩,
    ⟨(15 : Fin 16), (⟨[(255, 239)], 14, false, 0⟩ : LeMove), ({ sets [(LEX.CTX_EN_EN 15, 0x8000), (HDR.CTRL_EN (LEX.page 14), 1)] with le := { engs := [(15, { move := some ⟨[(255, 239)], 14, false, 0⟩ })] } } : State), by decide +kernel⟩,
    ⟨(15 : Fin 16), (State.reset : State), by decide +kernel⟩,
    ⟨(15 : Fin 16), ((0 ||| 0x1) : Word), (sets [(LEX.CTX_EN_EN 15, 1)] : State), by simp only [State.takes]; decide +kernel⟩,
    ⟨(15 : Fin 16), ((0 ||| 0x1) : Word), (sets [((LEX.ENG_STAT_TESTING (15 : Fin 16)), 0), ((LEX.ENG_STAT_MOVING (15 : Fin 16)), 0)] : State), by simp only [State.takes]; decide +kernel⟩,
    ⟨(15 : Fin 16), (false : Bool), (sets [((LEX.ENG_STAT_TESTING (15 : Fin 16)), 1)] : State), by decide +kernel⟩⟩

/-! ### Machine control (R220–R258) -/

theorem test_meets_MachineEnableDisable :
    (∃ (m : Fin 2) (v : Word) (s : State) (prd : Nat), (s.takes MCX.page) ∧ (s.isl = true) ∧ (s.locked MCX.page = false) ∧ (s.mEn m = false) ∧ (m.val ∈ s.machines) ∧ (s.get MCX.CFG_TOPO ≠ 3) ∧ (getBits v 1 2 ≠ 3) ∧ (getBits v 21 4 ≠ 0) ∧ (prd = s.prdOf (if getBits v 5 4 = 0 then 16 else getBits v 5 4)) ∧ (s.get MCX.RSV_CFG_EN = 1) ∧ (s.get MCX.RSV_CFG_MACH = m.val) ∧ (getBits v 21 4 % max 1 (s.get MCX.RSV_CFG_RPP) ≠ 0) ∧ (mcxPrdOk prd = true) ∧ (s.threshOk = true))
    ∧ (∃ (m : Fin 2) (v : Word) (s : State) (prd : Nat), (s.takes MCX.page) ∧ (s.isl = true) ∧ (s.locked MCX.page = false) ∧ (s.mEn m = false) ∧ (m.val ∈ s.machines) ∧ (s.get MCX.CFG_TOPO ≠ 3) ∧ (getBits v 1 2 ≠ 3) ∧ (getBits v 21 4 ≠ 0) ∧ (prd = s.prdOf (if getBits v 5 4 = 0 then 16 else getBits v 5 4)) ∧ (mcxPrdOk prd = false))
    ∧ (∃ (m : Fin 2) (v : Word) (s : State) (prd : Nat), (s.takes MCX.page) ∧ (s.isl = true) ∧ (s.locked MCX.page = false) ∧ (s.mEn m = false) ∧ (m.val ∈ s.machines) ∧ (s.get MCX.CFG_TOPO ≠ 3) ∧ (getBits v 1 2 ≠ 3) ∧ (getBits v 21 4 ≠ 0) ∧ (prd = s.prdOf (if getBits v 5 4 = 0 then 16 else getBits v 5 4)) ∧ (mcxPrdOk prd = true) ∧ (s.threshOk = false))
    ∧ (∃ (m : Fin 2) (v : Word) (s : State) (prd : Nat), (s.takes MCX.page) ∧ (s.isl = true) ∧ (s.locked MCX.page = false) ∧ (s.mEn m = false) ∧ (m.val ∈ s.machines) ∧ (s.get MCX.CFG_TOPO ≠ 3) ∧ (getBits v 1 2 ≠ 3) ∧ (getBits v 21 4 ≠ 0) ∧ (prd = s.prdOf (if getBits v 5 4 = 0 then 16 else getBits v 5 4)) ∧ (mcxPrdOk prd = true) ∧ (s.threshOk = true) ∧ (s.get MCX.RSV_CFG_EN = 0 ∨ s.get MCX.RSV_CFG_MACH ≠ m.val ∨ getBits v 21 4 % max 1 (s.get MCX.RSV_CFG_RPP) = 0) ∧ (∀ k ∈ s.machLegs m, s.claimable (resKey 2 k) 5 m = true))
    ∧ (∃ (m : Fin 2) (v : Word) (s : State), (s.isl = true) ∧ (s.pageGated MCX.page = false) ∧ (getBits v 1 2 = 3))
    ∧ (∃ (m : Fin 2) (v : Word) (s : State), (s.takes MCX.page) ∧ (s.isl = true) ∧ (s.mEn m = true) ∧ (s.get MCX.CFG_TOPO ∈ [1, 2]) ∧ (m.val ∈ s.machines) ∧ (getBits v 1 2 ≠ 3))
    ∧ (∃ (m : Fin 2) (v : Word) (s : State) (r : Nat), (s.takes MCX.page) ∧ (s.isl = false)) :=
  ⟨⟨(0 : Fin 2), (0x00200000 : Word), (sets [(MCX.CFG_TOPO, 1), (MCX.RSV_CFG_EN, 1), (MCX.RSV_CFG_MACH, (0 : Fin 2).val), (MCX.BUS_V0_CH_OFF, 1), (MCX.BUS_V0_CH_ON, 2), (MCX.BUS_V1_CH_FULL, 3), (MCX.BUS_V1_RGN_V, 3), (MCX.BUS_V2_ASC_V, 4), (MCX.BUS_V2_BUS_HYS, 1), (MCX.RSV_CFG_RPP, 2)] : State), (160000 : Nat), by simp only [State.takes]; decide +kernel⟩,
    ⟨(0 : Fin 2), (0x00200000 : Word), (sets [(MCX.CFG_TOPO, 1), (TBS.PER_CFG_PERIOD, 20000)] : State), (1280000 : Nat), by simp only [State.takes]; decide +kernel⟩,
    ⟨(0 : Fin 2), (0x00200000 : Word), (sets [(MCX.CFG_TOPO, 1)] : State), (160000 : Nat), by simp only [State.takes]; decide +kernel⟩,
    ⟨(0 : Fin 2), (0x00200000 : Word), (sets [(MCX.CFG_TOPO, 1), (MCX.RSV_CFG_EN, 0), (MCX.BUS_V0_CH_OFF, 1), (MCX.BUS_V0_CH_ON, 2), (MCX.BUS_V1_CH_FULL, 3), (MCX.BUS_V1_RGN_V, 3), (MCX.BUS_V2_ASC_V, 4), (MCX.BUS_V2_BUS_HYS, 1)] : State), (160000 : Nat), by simp only [State.takes]; decide +kernel⟩,
    ⟨(0 : Fin 2), (6 : Word), (State.reset : State), by decide +kernel⟩,
    ⟨(0 : Fin 2), (0 : Word), (sets [(MCX.M_CFG_EN (0 : Fin 2), 1), (MCX.CFG_TOPO, 1), (MCX.CFG_TOPO, 1)] : State), by simp only [State.takes]; decide +kernel⟩,
    ⟨(0 : Fin 2), (0 : Word), ({ State.reset with straps := { strapsReset with islFit := false } } : State), (resKey 2 0 : Nat), by simp only [State.takes]; decide +kernel⟩⟩

theorem test_meets_MachineCommands :
    (∃ (m : Fin 2) (s : State), (s.takes MCX.page) ∧ (s.isl = true) ∧ (s.mEn m = true) ∧ (m.val ∈ s.machines) ∧ (s.mState m = mOFF) ∧ (s.armed = false))
    ∧ (∃ (m : Fin 2) (s : State), (s.takes MCX.page) ∧ (s.isl = true) ∧ (s.mEn m = true) ∧ (m.val ∈ s.machines) ∧ (s.mState m = mOFF) ∧ (s.armed = true) ∧ (s.primaryValid m = false))
    ∧ (∃ (m : Fin 2) (s : State), (s.takes MCX.page) ∧ (s.isl = true) ∧ (s.mEn m = true) ∧ (m.val ∈ s.machines) ∧ (s.mState m = mOFF) ∧ (s.armed = true) ∧ (s.primaryValid m = true) ∧ (s.bootUv m = true) ∧ ((s.get (MCX.M_SPD_W_RATED m) : Rat) ≤ absR (s.speedInUse m) * 100))
    ∧ (∃ (m : Fin 2) (s : State), (s.takes MCX.page) ∧ (s.isl = true) ∧ (s.mEn m = true) ∧ (m.val ∈ s.machines) ∧ (s.mState m = mOFF) ∧ (s.armed = true) ∧ (s.primaryValid m = true) ∧ (s.bootUv m = false) ∧ (s.machLatched m = true))
    ∧ (∃ (m : Fin 2) (s : State), (s.takes MCX.page) ∧ (s.isl = true) ∧ (s.mEn m = true) ∧ (m.val ∈ s.machines) ∧ (s.mState m = mOFF) ∧ (s.armed = true) ∧ (s.primaryValid m = true) ∧ (s.bootUv m = false) ∧ (s.machLatched m = false) ∧ (s.machOwner m = none))
    ∧ (∃ (m : Fin 2) (s : State), (s.takes MCX.page) ∧ (s.isl = true) ∧ (s.mEn m = true) ∧ (m.val ∈ s.machines) ∧ (s.mState m = mOFF) ∧ (s.armed = true) ∧ (s.primaryValid m = true) ∧ (s.bootUv m = false) ∧ (s.machLatched m = false) ∧ ((s.machOwner m).isSome))
    ∧ (∃ (m : Fin 2) (s : State), (s.takes MCX.page) ∧ (s.isl = true) ∧ (s.mEn m = true) ∧ (m.val ∈ s.machines) ∧ (s.mState m ∈ [mPRECHG, mRUN, mEXTRAP]))
    ∧ (∃ (m : Fin 2) (s : State), (s.takes MCX.page) ∧ (s.isl = true) ∧ (s.mEn m = true) ∧ (m.val ∈ s.machines) ∧ (s.mState m ∈ [mRUN, mEXTRAP, mINHIBIT]))
    ∧ (∃ (m : Fin 2) (s : State), (s.takes MCX.page) ∧ (s.isl = true) ∧ (s.mEn m = true) ∧ (m.val ∈ s.machines) ∧ (s.mState m ∈ [mRUN, mEXTRAP, mASC]))
    ∧ (∃ (m : Fin 2) (s : State), (s.takes MCX.page) ∧ (s.isl = true) ∧ (s.mEn m = true) ∧ (m.val ∈ s.machines) ∧ (s.mState m ∈ [mASC, mINHIBIT]) ∧ (s.ascHeld m = false))
    ∧ (∃ (m : Fin 2) (s : State), (s.takes MCX.page) ∧ (s.isl = true) ∧ (s.mEn m = true) ∧ (m.val ∈ s.machines) ∧ (s.mState m ∈ [mASC, mINHIBIT]) ∧ (s.ascHeld m = true))
    ∧ (∃ (m : Fin 2) (s : State), (s.takes MCX.page) ∧ (s.isl = true) ∧ (s.mEn m = false ∨ s.mState m ∉ [mOFF]))
    ∧ (∃ (m : Fin 2) (s : State), (s.takes MCX.page) ∧ (s.isl = true) ∧ (s.mEn m = false ∨ s.mState m ∉ [mPRECHG, mRUN, mEXTRAP]))
    ∧ (∃ (m : Fin 2) (s : State), (s.takes MCX.page) ∧ (s.isl = true) ∧ (s.mEn m = false ∨ s.mState m ∉ [mRUN, mEXTRAP, mINHIBIT]))
    ∧ (∃ (m : Fin 2) (s : State), (s.takes MCX.page) ∧ (s.isl = true) ∧ (s.mEn m = false ∨ s.mState m ∉ [mRUN, mEXTRAP, mASC]))
    ∧ (∃ (m : Fin 2) (s : State), (s.takes MCX.page) ∧ (s.isl = true) ∧ (s.mEn m = false ∨ s.mState m ∉ [mASC, mINHIBIT])) :=
  ⟨⟨(0 : Fin 2), (sets [(MCX.M_CFG_EN (0 : Fin 2), 1), (MCX.CFG_TOPO, 1), (MCX.M_STAT_STATE (0 : Fin 2), mOFF)] : State), by simp only [State.takes]; decide +kernel⟩,
    ⟨(0 : Fin 2), (sets [(MCX.M_CFG_EN (0 : Fin 2), 1), (MCX.CFG_TOPO, 1), (MCX.M_STAT_STATE (0 : Fin 2), mOFF), (PWR.STAT_ARMED, 1)] : State), by simp only [State.takes]; decide +kernel⟩,
    ⟨(0 : Fin 2), (sets [(MCX.M_CFG_EN (0 : Fin 2), 1), (MCX.CFG_TOPO, 1), (MCX.M_STAT_STATE (0 : Fin 2), mOFF), (PWR.STAT_ARMED, 1), (MCX.M_CFG_SRC 0, 2)] : State), by simp only [State.takes]; decide +kernel⟩,
    ⟨(0 : Fin 2), ({ sets [(MCX.M_CFG_EN (0 : Fin 2), 1), (MCX.CFG_TOPO, 1), (MCX.M_STAT_STATE (0 : Fin 2), mOFF), (PWR.STAT_ARMED, 1), (MCX.M_CFG_SRC 0, 2), (LEG.STAT_BST_OK 0, 1), (LEG.STAT_BST_OK 1, 1), (LEG.STAT_BST_OK 2, 1)] with latches := [⟨3, 1, 0, 0⟩] } : State), by simp only [State.takes]; decide +kernel⟩,
    ⟨(0 : Fin 2), (sets [(MCX.M_CFG_EN (0 : Fin 2), 1), (MCX.CFG_TOPO, 1), (MCX.M_STAT_STATE (0 : Fin 2), mOFF), (PWR.STAT_ARMED, 1), (MCX.M_CFG_SRC 0, 2), (LEG.STAT_BST_OK 0, 1), (LEG.STAT_BST_OK 1, 1), (LEG.STAT_BST_OK 2, 1)] : State), by simp only [State.takes]; decide +kernel⟩,
    ⟨(0 : Fin 2), ({ sets [(MCX.M_CFG_EN (0 : Fin 2), 1), (MCX.CFG_TOPO, 1), (MCX.M_STAT_STATE (0 : Fin 2), mOFF), (PWR.STAT_ARMED, 1), (MCX.M_CFG_SRC 0, 2), (LEG.STAT_BST_OK 0, 1), (LEG.STAT_BST_OK 1, 1), (LEG.STAT_BST_OK 2, 1)] with claims := [(resKey 8 0, ⟨4, 7, 0, 0⟩), (resKey 8 4, ⟨4, 7, 0, 0⟩)] } : State), by simp only [State.takes]; decide +kernel⟩,
    ⟨(0 : Fin 2), (sets [(MCX.M_CFG_EN (0 : Fin 2), 1), (MCX.CFG_TOPO, 1), (MCX.M_STAT_STATE (0 : Fin 2), mPRECHG)] : State), by simp only [State.takes]; decide +kernel⟩,
    ⟨(0 : Fin 2), (sets [(MCX.M_CFG_EN (0 : Fin 2), 1), (MCX.CFG_TOPO, 1), (MCX.M_STAT_STATE (0 : Fin 2), mRUN)] : State), by simp only [State.takes]; decide +kernel⟩,
    ⟨(0 : Fin 2), (sets [(MCX.M_CFG_EN (0 : Fin 2), 1), (MCX.CFG_TOPO, 1), (MCX.M_STAT_STATE (0 : Fin 2), mRUN)] : State), by simp only [State.takes]; decide +kernel⟩,
    ⟨(0 : Fin 2), (sets [(MCX.M_CFG_EN 0, 1), (MCX.CFG_TOPO, 1), (MCX.M_STAT_STATE 0, mINHIBIT)] : State), by simp only [State.takes]; decide +kernel⟩,
    ⟨(0 : Fin 2), (sets [(MCX.M_CFG_EN (0 : Fin 2), 1), (MCX.CFG_TOPO, 1), (MCX.M_STAT_STATE (0 : Fin 2), mASC)] : State), by simp only [State.takes]; decide +kernel⟩,
    ⟨(0 : Fin 2), (State.reset : State), by simp only [State.takes]; decide +kernel⟩,
    ⟨(0 : Fin 2), (State.reset : State), by simp only [State.takes]; decide +kernel⟩,
    ⟨(0 : Fin 2), (State.reset : State), by simp only [State.takes]; decide +kernel⟩,
    ⟨(0 : Fin 2), (State.reset : State), by simp only [State.takes]; decide +kernel⟩,
    ⟨(0 : Fin 2), (State.reset : State), by simp only [State.takes]; decide +kernel⟩⟩

theorem test_meets_MachineTransitionsAndSafeState :
    (∃ (s : State) (m : Nat) (cause : Nat), (m < 2) ∧ (cause < 16) ∧ (s.on MCX.STAT_VBUS_STALE = true))
    ∧ (∃ (s : State) (m : Nat) (cause : Nat), (m < 2) ∧ (cause < 16) ∧ (s.on MCX.STAT_VBUS_STALE = false) ∧ (0 < s.mcx.vbus) ∧ (0 < s.get MCX.SAFE_ASC_RATIO))
    ∧ (∃ (m : Fin 2) (s : State), (s.mState m ≠ mPRECHG))
    ∧ (∃ (m : Fin 2) (s : State), (s.mState m = mPRECHG) ∧ (s.get MCX.CFG_TOPO ≠ 3))
    ∧ (∃ (m : Fin 2) (s : State), (s.mState m = mRUN) ∧ (s.get (MCX.M_OBS_N_LOSS m) ≤ (s.mm m).lossN))
    ∧ (∃ (m : Fin 2) (s : State), (s.mState m = mRUN) ∧ ((s.mm m).lossN < s.get (MCX.M_OBS_N_LOSS m)))
    ∧ (∃ (m : Fin 2) (s : State), (s.mState m = mEXTRAP) ∧ (s.get (MCX.M_OBS_N_ACQ m) ≤ (s.mm m).acqN))
    ∧ (∃ (m : Fin 2) (s : State), (s.mState m = mEXTRAP) ∧ ((s.mm m).acqN < s.get (MCX.M_OBS_N_ACQ m)))
    ∧ (∃ (d : Nat) (s : State), (0 < s.tc))
    ∧ (∃ (m : Fin 2) (s : State), (s.mRuns m = true) ∧ (s.machOwner m = none ∨ s.get TBS.OVR_ACT_HOLD_LIM ≤ (s.mm m).miss))
    ∧ (∃ (m : Fin 2) (s : State), (s.mRuns m = true) ∧ (s.get MCX.RGN_CFG_RGN_N ≤ s.mcx.krZero) ∧ (f32Val (s.mm m).pw < -1000 * (s.get MCX.RGN_CFG_RGN_TOL : Rat)))
    ∧ (∃ (m : Fin 2) (s : State), (s.isl = true) ∧ (m.val ∈ s.machines) ∧ (s.mEn m = true) ∧ (s.isReload m 1 = true) ∧ (s.mRuns m = true))
    ∧ (∃ (m : Fin 2) (s : State), (s.isReload m 1 = false ∨ s.mRuns m = false))
    ∧ (∃ (s : State), (s.isl = true))
    ∧ (∃ (s : State), (s.isl = false))
    ∧ (∃ (s : State) (step : Rat), (step = (s.get TBS.PER_CFG_PERIOD : Rat) / 100 / ((max 1 (s.get MCX.BUS_CFG_T_RGN) : Nat) : Rat)) ∧ (s.mcx.krHold = true))
    ∧ (∃ (s : State) (step : Rat), (step = (s.get TBS.PER_CFG_PERIOD : Rat) / 100 / ((max 1 (s.get MCX.BUS_CFG_T_RGN) : Nat) : Rat)) ∧ (s.mcx.krHold = false) ∧ (s.crossed s.mcx.cRgn = true ∨ s.get MCX.STAT_VBUS_STALE = 1))
    ∧ (∃ (s : State) (step : Rat), (step = (s.get TBS.PER_CFG_PERIOD : Rat) / 100 / ((max 1 (s.get MCX.BUS_CFG_T_RGN) : Nat) : Rat)) ∧ (s.mcx.krHold = false) ∧ (s.crossed s.mcx.cRgn = false) ∧ (s.get MCX.STAT_VBUS_STALE = 0) ∧ (s.crossed s.mcx.cHys = true))
    ∧ (∃ (s : State) (step : Rat), (step = (s.get TBS.PER_CFG_PERIOD : Rat) / 100 / ((max 1 (s.get MCX.BUS_CFG_T_RGN) : Nat) : Rat)) ∧ (s.mcx.krHold = false) ∧ (s.crossed s.mcx.cRgn = false) ∧ (s.get MCX.STAT_VBUS_STALE = 0) ∧ (s.crossed s.mcx.cHys = false))
    ∧ (∃ (v : Word) (s : State), (s.takes MCX.page) ∧ (s.locked MCX.page = false) ∧ (getBits v 0 2 = s.get MCX.CFG_TOPO))
    ∧ (∃ (v : Word) (s : State) (n : Nat) (j : Nat), (s.takes MCX.page) ∧ (n = (if s.get MCX.TBL_ADDR_TBL ∈ [1, 2] then 64 else 1024)) ∧ (j = s.get MCX.TBL_ADDR_IDX % n)) :=
  ⟨⟨(sets [(MCX.STAT_VBUS_STALE, 1)] : State), (1 : Nat), (15 : Nat), by decide +kernel⟩,
    ⟨({ sets [(MCX.STAT_VBUS_STALE, 0)] with mcx := { vbus := 1 } } : State), (1 : Nat), (15 : Nat), by decide +kernel⟩,
    ⟨(1 : Fin 2), (State.reset : State), by decide +kernel⟩,
    ⟨(1 : Fin 2), (sets [(MCX.M_STAT_STATE (1 : Fin 2), mPRECHG)] : State), by decide +kernel⟩,
    ⟨(1 : Fin 2), ({ sets [(MCX.M_STAT_STATE (1 : Fin 2), mRUN)] with mcx := { m1 := { lossN := 4 } } } : State), by decide +kernel⟩,
    ⟨(1 : Fin 2), (sets [(MCX.M_STAT_STATE (1 : Fin 2), mRUN)] : State), by decide +kernel⟩,
    ⟨(1 : Fin 2), ({ sets [(MCX.M_STAT_STATE (1 : Fin 2), mEXTRAP), (MCX.M_OBS_N_ACQ 1, 8)] with mcx := { m1 := { acqN := 8 } } } : State), by decide +kernel⟩,
    ⟨(1 : Fin 2), (sets [(MCX.M_STAT_STATE (1 : Fin 2), mEXTRAP)] : State), by decide +kernel⟩,
    ⟨(0 : Nat), (State.reset : State), by decide +kernel⟩,
    ⟨(1 : Fin 2), (sets [(MCX.M_STAT_STATE 1, mRUN)] : State), by decide +kernel⟩,
    ⟨(1 : Fin 2), ({ sets [(MCX.M_STAT_STATE 1, mRUN), (MCX.RGN_CFG_RGN_N, 2), (MCX.RGN_CFG_RGN_TOL, 0)] with mcx := { krZero := 2, m1 := { pw := 0xBF800000 } } } : State), by decide +kernel⟩,
    ⟨(0 : Fin 2), ({ sets [(MCX.CFG_TOPO, 1), (MCX.M_CFG_EN (0 : Fin 2), 1), (MCX.M_STAT_STATE 0, mRUN)] with bndAt := 15 * 25000000 } : State), by decide +kernel⟩,
    ⟨(0 : Fin 2), (State.reset : State), by decide +kernel⟩,
    ⟨(State.reset : State), by decide +kernel⟩,
    ⟨({ State.reset with straps := { strapsReset with islFit := false } } : State), by decide +kernel⟩,
    ⟨({ State.reset with mcx := { krHold := true } } : State), (({ State.reset with mcx := { krHold := true } } : State).get TBS.PER_CFG_PERIOD / 100 / ((max 1 (({ State.reset with mcx := { krHold := true } } : State).get MCX.BUS_CFG_T_RGN) : Nat) : Rat) : Rat), by decide +kernel⟩,
    ⟨(sets [(MCX.STAT_VBUS_STALE, 1)] : State), ((((sets [(MCX.STAT_VBUS_STALE, 1)] : State).get TBS.PER_CFG_PERIOD : Rat) / 100 / ((max 1 ((sets [(MCX.STAT_VBUS_STALE, 1)] : State).get MCX.BUS_CFG_T_RGN) : Nat) : Rat)) : Rat), by decide +kernel⟩,
    ⟨({ sets [(MCX.STAT_VBUS_STALE, 0)] with mcx := { cHys := 15 } } : State), (((({ sets [(MCX.STAT_VBUS_STALE, 0)] with mcx := { cHys := 15 } } : State).get TBS.PER_CFG_PERIOD : Rat) / 100 / ((max 1 (({ sets [(MCX.STAT_VBUS_STALE, 0)] with mcx := { cHys := 15 } } : State).get MCX.BUS_CFG_T_RGN) : Nat) : Rat)) : Rat), by decide +kernel⟩,
    ⟨(sets [(MCX.STAT_VBUS_STALE, 0)] : State), ((((sets [(MCX.STAT_VBUS_STALE, 0)] : State).get TBS.PER_CFG_PERIOD : Rat) / 100 / ((max 1 ((sets [(MCX.STAT_VBUS_STALE, 0)] : State).get MCX.BUS_CFG_T_RGN) : Nat) : Rat)) : Rat), by decide +kernel⟩,
    ⟨(0 : Word), (State.reset : State), by simp only [State.takes]; decide +kernel⟩,
    ⟨(0 : Word), (State.reset : State), (((if (State.reset : State).get MCX.TBL_ADDR_TBL ∈ [1, 2] then 64 else 1024)) : Nat), (((State.reset : State).get MCX.TBL_ADDR_IDX % (((if (State.reset : State).get MCX.TBL_ADDR_TBL ∈ [1, 2] then 64 else 1024)) : Nat)) : Nat), by simp only [State.takes]; decide +kernel⟩⟩

theorem test_meets_Choppers :
    (∃ (u : Fin 4) (v : Word) (s : State) (leg : Nat) (prd : Nat), (s.takes MCX.page) ∧ (s.isl = true) ∧ (s.locked MCX.page = false) ∧ (s.chEn u = false) ∧ (s.chState u ≠ 3) ∧ (leg = getBits v 1 4) ∧ (leg < 12) ∧ (prd = s.prdOf (getBits v 11 7)) ∧ (s.get MCX.CHF_CFG_CHF_T + 10 ≤ s.get (MCX.C_LIM_MINON u)) ∧ (leg ∈ s.machLegs 0 ∨ leg ∈ s.machLegs 1))
    ∧ (∃ (u : Fin 4) (v : Word) (s : State) (leg : Nat) (prd : Nat), (s.takes MCX.page) ∧ (s.isl = true) ∧ (s.locked MCX.page = false) ∧ (s.chEn u = false) ∧ (s.chState u ≠ 3) ∧ (leg = getBits v 1 4) ∧ (leg < 12) ∧ (prd = s.prdOf (getBits v 11 7)) ∧ (s.get MCX.CHF_CFG_CHF_T + 10 ≤ s.get (MCX.C_LIM_MINON u)) ∧ (leg ∉ s.machLegs 0) ∧ (leg ∉ s.machLegs 1) ∧ (s.threshOk = true) ∧ (mcxPrdOk prd = true) ∧ (s.claimable (resKey 2 leg) 6 u = true))
    ∧ (∃ (u : Fin 4) (v : Word) (s : State), (s.takes MCX.page) ∧ (s.isl = true) ∧ (s.chEn u = true) ∧ (s.willBe MCX.page true (MCX.C_CFG_LEG u) v < 12))
    ∧ (∃ (u : Fin 4) (code : Int) (rest : List Int) (s : State), (SMap.get (fun _ => []) s.mcx.chRes u.val = code :: rest) ∧ (s.isl = true) ∧ (s.chEn u = true) ∧ (s.chState u ≠ 3) ∧ ((s.hizLegs ||| s.ascLegs).testBit (s.get (MCX.C_CFG_LEG u)) = false) ∧ ((code : Rat) * f32Val (s.reg (MCX.C_ISCALE u)) < (s.get (MCX.C_LIM_CHF_I u) : Rat) / 10) ∧ (s.get MCX.CHF_CFG_CHF_N = 1))
    ∧ (∃ (u : Fin 4) (code : Int) (rest : List Int) (s : State), (SMap.get (fun _ => []) s.mcx.chRes u.val = code :: rest) ∧ (s.isl = true) ∧ (s.chEn u = true) ∧ (s.chState u ≠ 3) ∧ ((s.hizLegs ||| s.ascLegs).testBit (s.get (MCX.C_CFG_LEG u)) = false) ∧ ((s.get (MCX.C_LIM_CHF_I u) : Rat) / 10 ≤ (code : Rat) * f32Val (s.reg (MCX.C_ISCALE u))))
    ∧ (∃ (u : Fin 4) (n : Nat) (s : State), (n = 0 ∨ SMap.get (fun _ => []) s.mcx.chRes u.val = []))
    ∧ (∃ (t0 : Nat) (s : State), (s.mcx.seqAt = some t0) ∧ (s.get MCX.STAT_CHF_SEQ = 1) ∧ (s.mcx.seqDone = false) ∧ (s.absAck = false))
    ∧ (∃ (t0 : Nat) (s : State), (s.mcx.seqAt = some t0) ∧ (s.get MCX.STAT_CHF_SEQ = 1) ∧ (s.mcx.seqDone = false) ∧ (s.absAck = true))
    ∧ (∃ (u : Fin 4) (s : State), (s.takes MCX.page) ∧ (s.isl = true) ∧ (s.chState u = 3) ∧ ((SMap.get (fun _ => (0, false)) s.aiInst (s.get (MCX.C_CFG_IAI u))).2 = true))
    ∧ (∃ (u : Fin 4) (s : State), (s.takes MCX.page) ∧ (s.isl = true) ∧ (s.chState u = 3) ∧ ((SMap.get (fun _ => (0, false)) s.aiInst (s.get (MCX.C_CFG_IAI u))).2 = false)) :=
  ⟨⟨(3 : Fin 4), (0x00000801 : Word), (sets [(MCX.CFG_TOPO, 1), (MCX.C_LIM_MINON 3, 210)] : State), (0 : Nat), (10000 : Nat), by simp only [State.takes]; decide +kernel⟩,
    ⟨(3 : Fin 4), (0x00000817 : Word), (sets [(MCX.BUS_V0_CH_OFF, 1), (MCX.BUS_V0_CH_ON, 2), (MCX.BUS_V1_CH_FULL, 3), (MCX.BUS_V1_RGN_V, 3), (MCX.BUS_V2_ASC_V, 4), (MCX.BUS_V2_BUS_HYS, 1), (MCX.CFG_TOPO, 1), (MCX.C_LIM_MINON 3, 210)] : State), (11 : Nat), (10000 : Nat), by simp only [State.takes]; decide +kernel⟩,
    ⟨(3 : Fin 4), (0x00000816 : Word), (sets [(MCX.C_CFG_EN (3 : Fin 4), 1)] : State), by simp only [State.takes]; decide +kernel⟩,
    ⟨(3 : Fin 4), (0 : Int), ([7] : List Int), ({ sets [(MCX.C_CFG_EN (3 : Fin 4), 1), (MCX.CHF_CFG_CHF_N, 1), (MCX.C_LIM_CHF_I 3, 1)] with mcx := { chRes := [(3, [0, 7])] } } : State), by decide +kernel⟩,
    ⟨(3 : Fin 4), (0 : Int), ([7] : List Int), ({ sets [(MCX.C_CFG_EN (3 : Fin 4), 1), (MCX.C_LIM_CHF_I 3, 0)] with mcx := { chRes := [(3, [0, 7])] } } : State), by decide +kernel⟩,
    ⟨(3 : Fin 4), (0 : Nat), (State.reset : State), by decide +kernel⟩,
    ⟨(9 : Nat), ({ sets [(MCX.STAT_CHF_SEQ, 1)] with mcx := { seqAt := some 9 } } : State), by decide +kernel⟩,
    ⟨(9 : Nat), ({ sets [(MCX.STAT_CHF_SEQ, 1)] with pubs := [(7180, 0x3F800000)], mcx := { seqAt := some 9 } } : State), by decide +kernel⟩,
    ⟨(3 : Fin 4), ({ sets [(MCX.C_STAT_STATE (3 : Fin 4), 3), (MCX.C_CFG_IAI 3, 5)] with aiInst := [(5, (0, true))] } : State), by simp only [State.takes]; decide +kernel⟩,
    ⟨(3 : Fin 4), (sets [(MCX.C_STAT_STATE (3 : Fin 4), 3)] : State), by simp only [State.takes]; decide +kernel⟩⟩

theorem test_meets_AngleSensors :
    (∃ (v : Word) (s : State), (s.takes MCX.page) ∧ (s.isl = true) ∧ (s.locked MCX.page = false) ∧ (s.get MCX.RSV_CFG_EN = 0) ∧ (getBits v 2 2 ≠ 3) ∧ (getBits v 4 4 ≠ 0) ∧ (s.get (MCX.M_CFG_PP (getBits v 1 1)) % getBits v 4 4 ≠ 0))
    ∧ (∃ (v : Word) (s : State), (s.takes MCX.page) ∧ (s.isl = true) ∧ (s.locked MCX.page = false) ∧ (s.get MCX.RSV_CFG_EN = 0) ∧ (getBits v 2 2 ≠ 3) ∧ (getBits v 4 4 ≠ 0) ∧ (s.get (MCX.M_CFG_PP (getBits v 1 1)) % getBits v 4 4 = 0) ∧ (s.claimable (resKey 4 3) 7 0 = true))
    ∧ (∃ (a : BitVec 16) (b : BitVec 16) (x : Int) (y : Int) (s : State), (s.isl = true) ∧ (s.get MCX.RSV_CFG_EN = 1) ∧ (x = s.rsvIn (s.get MCX.RSV_CFG_SIN_AI) a.toInt) ∧ (y = s.rsvIn (s.get MCX.RSV_CFG_COS_AI) b.toInt) ∧ (s.get MCX.RSV_AMP_AMP_LO ^ 2 ≤ (x ^ 2 + y ^ 2).toNat) ∧ ((x ^ 2 + y ^ 2).toNat ≤ s.get MCX.RSV_AMP_AMP_HI ^ 2))
    ∧ (∃ (a : BitVec 16) (b : BitVec 16) (x : Int) (y : Int) (s : State), (s.isl = true) ∧ (s.get MCX.RSV_CFG_EN = 1) ∧ (x = s.rsvIn (s.get MCX.RSV_CFG_SIN_AI) a.toInt) ∧ (y = s.rsvIn (s.get MCX.RSV_CFG_COS_AI) b.toInt) ∧ ((x ^ 2 + y ^ 2).toNat < s.get MCX.RSV_AMP_AMP_LO ^ 2) ∧ (s.mcx.rsBad = 2) ∧ (s.get MCX.SNS_STAT_RSV_FLT = 0))
    ∧ (∃ (ai : Nat) (x : Int) (c : Int) (s : State), (s.mcx.rsAt < SMap.get (fun _ => 0) s.aiValAt ai) ∧ (SMap.get (fun _ => none) s.aiLast ai = some c))
    ∧ (∃ (ai : Nat) (x : Int) (c : Int) (s : State), (SMap.get (fun _ => 0) s.aiValAt ai ≤ s.mcx.rsAt))
    ∧ (∃ (v : Word) (s : State), (s.takes MCX.page) ∧ (s.isl = true) ∧ (s.locked MCX.page = false) ∧ (s.get MCX.ENC_CFG_EN = 0) ∧ (getBits v 16 16 = 0))
    ∧ (∃ (v : Word) (s : State), (s.takes MCX.page) ∧ (s.isl = true) ∧ (s.locked MCX.page = false) ∧ (s.get MCX.ENC_CFG_EN = 0) ∧ (getBits v 16 16 ≠ 0) ∧ (∀ b, b < 3 → s.claimable (resKey 4 b) 7 1 = true))
    ∧ (∃ (a : Bool) (b : Bool) (z : Bool) (h : BitVec 4) (s : State), (h.toNat < s.get MCX.ENC_CFG_FILT))
    ∧ (∃ (a : Bool) (b : Bool) (z : Bool) (h : BitVec 4) (s : State), (s.isl = true) ∧ (s.get MCX.ENC_CFG_EN = 1) ∧ (s.get MCX.ENC_CFG_FILT ≤ h.toNat) ∧ (z = false ∨ s.mcx.encZ = true ∨ s.get MCX.ENC_CFG_ZEN = 0) ∧ ((quad a b + 4 - quad s.mcx.encA s.mcx.encB) % 4 = 1))
    ∧ (∃ (a : Bool) (b : Bool) (z : Bool) (h : BitVec 4) (s : State), (s.isl = true) ∧ (s.get MCX.ENC_CFG_EN = 1) ∧ (s.get MCX.ENC_CFG_FILT ≤ h.toNat) ∧ (z = false ∨ s.mcx.encZ = true ∨ s.get MCX.ENC_CFG_ZEN = 0) ∧ ((quad a b + 4 - quad s.mcx.encA s.mcx.encB) % 4 = 3))
    ∧ (∃ (a : Bool) (b : Bool) (z : Bool) (h : BitVec 4) (s : State), (s.isl = true) ∧ (s.get MCX.ENC_CFG_EN = 1) ∧ (s.get MCX.ENC_CFG_FILT ≤ h.toNat) ∧ (z = false ∨ s.mcx.encZ = true ∨ s.get MCX.ENC_CFG_ZEN = 0) ∧ ((quad a b + 4 - quad s.mcx.encA s.mcx.encB) % 4 = 2))
    ∧ (∃ (s : State), (s.takes MCX.page) ∧ (s.get MCX.ENC_CFG_EN = 1))
    ∧ (∃ (s : State), (s.mcx.encSpd = true))
    ∧ (∃ (v : Word) (s : State), (s.takes TRP.page) ∧ (s.locked TRP.page = false) ∧ (s.get TRP.CFG_EN = 0) ∧ (getBits v 0 8 &&& 0xE0 = 0) ∧ (∀ n, n < 8 → s.get ⟨TRP.STAT, n, 1⟩ = 0) ∧ (∀ n, n < 8 → SMap.look s.trpIn n = none))
    ∧ (∃ (v : Word) (n : Nat) (t0 : Nat) (s : State), (s.takes TRP.page) ∧ (s.locked TRP.page = false) ∧ (s.get TRP.CFG_EN = 0) ∧ (getBits v 0 8 &&& 0xE0 = 0) ∧ (n < 5) ∧ (v.getLsbD n = true) ∧ (SMap.look s.trpIn n = some (v.getLsbD (8 + n), t0)) ∧ (t0 + s.flt n * t10 ≤ s.now) ∧ (s.get ⟨TRP.STAT, n, 1⟩ = 0))
    ∧ (∃ (v : Word) (s : State), (s.takes TRP.page) ∧ (s.locked TRP.page = false) ∧ (s.get TRP.CFG_EN = 0) ∧ (getBits v 0 8 = 0x20) ∧ ((s.claim (resKey 4 0)).cls = 7)) :=
  ⟨⟨(0x20 : Word), (sets [(MCX.RSV_CFG_EN, 0), (MCX.M_CFG_PP 0, 3)] : State), by simp only [State.takes]; decide +kernel⟩,
    ⟨((0 ||| 0x10) : Word), (sets [(MCX.RSV_CFG_EN, 0)] : State), by simp only [State.takes]; decide +kernel⟩,
    ⟨(0x7FFF : BitVec 16), (0 : BitVec 16), (32767 : Int), (0 : Int), (sets [(MCX.RSV_CFG_EN, 1)] : State), by decide +kernel⟩,
    ⟨(0 : BitVec 16), (0 : BitVec 16), ((({ sets [(MCX.RSV_CFG_EN, 1), (MCX.SNS_STAT_RSV_FLT, 0), (MCX.RSV_AMP_AMP_LO, 1)] with mcx := { rsBad := 2 } } : State).rsvIn (({ sets [(MCX.RSV_CFG_EN, 1), (MCX.SNS_STAT_RSV_FLT, 0), (MCX.RSV_AMP_AMP_LO, 1)] with mcx := { rsBad := 2 } } : State).get MCX.RSV_CFG_SIN_AI) (0 : BitVec 16).toInt) : Int), ((({ sets [(MCX.RSV_CFG_EN, 1), (MCX.SNS_STAT_RSV_FLT, 0), (MCX.RSV_AMP_AMP_LO, 1)] with mcx := { rsBad := 2 } } : State).rsvIn (({ sets [(MCX.RSV_CFG_EN, 1), (MCX.SNS_STAT_RSV_FLT, 0), (MCX.RSV_AMP_AMP_LO, 1)] with mcx := { rsBad := 2 } } : State).get MCX.RSV_CFG_COS_AI) (0 : BitVec 16).toInt) : Int), ({ sets [(MCX.RSV_CFG_EN, 1), (MCX.SNS_STAT_RSV_FLT, 0), (MCX.RSV_AMP_AMP_LO, 1)] with mcx := { rsBad := 2 } } : State), by decide +kernel⟩,
    ⟨(0 : Nat), (0 : Int), (7 : Int), ({ State.reset with aiLast := [(0, some 7)], aiValAt := [(0, 5)] } : State), by decide +kernel⟩,
    ⟨(0 : Nat), (0 : Int), (0 : Int), (State.reset : State), by decide +kernel⟩,
    ⟨(0 : Word), (sets [(MCX.ENC_CFG_EN, 0)] : State), by simp only [State.takes]; decide +kernel⟩,
    ⟨((0 ||| 0x10000) : Word), (sets [(MCX.ENC_CFG_EN, 0)] : State), by simp only [State.takes]; decide +kernel⟩,
    ⟨(true : Bool), (true : Bool), (true : Bool), (14 : BitVec 4), (sets [(MCX.ENC_CFG_FILT, 15)] : State), by decide +kernel⟩,
    ⟨(true : Bool), (false : Bool), (false : Bool), (15 : BitVec 4), (sets [(MCX.ENC_CFG_EN, 1), (MCX.ENC_CFG_FILT, 15)] : State), by decide +kernel⟩,
    ⟨(false : Bool), (true : Bool), (false : Bool), (15 : BitVec 4), (sets [(MCX.ENC_CFG_EN, 1), (MCX.ENC_CFG_FILT, 15)] : State), by decide +kernel⟩,
    ⟨(true : Bool), (true : Bool), (false : Bool), (15 : BitVec 4), (sets [(MCX.ENC_CFG_EN, 1), (MCX.ENC_CFG_FILT, 15)] : State), by decide +kernel⟩,
    ⟨(sets [(MCX.ENC_CFG_EN, 1)] : State), by simp only [State.takes]; decide +kernel⟩,
    ⟨({ State.reset with mcx := { encSpd := true } } : State), by decide +kernel⟩,
    ⟨(0x1F : Word), (sets [(TRP.CFG_EN, 0)] : State), by simp only [State.takes]; decide +kernel⟩,
    ⟨(0x1010 : Word), (4 : Nat), (0 : Nat), ({ sets [(TRP.CFG_EN, 0), (⟨TRP.STAT, (4 : Nat), 1⟩, 0)] with trpIn := [(4, (true, 0))], now := 1000000 } : State), by simp only [State.takes]; decide +kernel⟩,
    ⟨(0x20 : Word), ({ sets [(TRP.CFG_EN, 0)] with claims := [(resKey 4 0, ⟨7, 1, 0, 0⟩)] } : State), by simp only [State.takes]; decide +kernel⟩⟩

/-! ### Leg islands (R259–R285) -/

theorem test_meets_IslandCommandLines :
    (∃ (k : Fin 12) (s : State), (s.gated 15 = false) ∧ (s.legEn k = true) ∧ (s.get (LEG.STAT_TESTING k) = 0) ∧ (s.legFlt k = 0) ∧ ((s.island k).lineH = 0) ∧ ((s.island k).lineL = 0) ∧ ((s.island k).softH = none) ∧ ((s.island k).slotH = none) ∧ ((s.island k).slotL = none) ∧ ((s.island k).onH = false) ∧ ((s.island k).onL = false) ∧ ((s.island k).waitH = none) ∧ ((s.island k).waitL = none) ∧ ((s.island k).softL = none) ∧ (s.get (LEG.STAT_VPOS_OK k) = 1) ∧ (s.get (LEG.STAT_VNEG_OK k) = 1) ∧ (s.get (LEG.STAT_BST_OK k) = 1) ∧ (s.get (LEG.STAT_GL_ON k) = 0))
    ∧ (∃ (k : Fin 12) (s : State), (s.gated 15 = false) ∧ (s.legEn k = true) ∧ (s.get (LEG.STAT_TESTING k) = 0) ∧ (s.legFlt k = 0) ∧ ((s.island k).lineH = 0) ∧ ((s.island k).lineL = 0) ∧ ((s.island k).softH = none) ∧ ((s.island k).slotH = none) ∧ ((s.island k).slotL = none) ∧ ((s.island k).onH = false) ∧ ((s.island k).onL = false) ∧ ((s.island k).waitH = none) ∧ ((s.island k).waitL = none) ∧ ((s.island k).softL = none) ∧ (s.get (LEG.STAT_VPOS_OK k) = 1) ∧ (s.get (LEG.STAT_VNEG_OK k) = 1) ∧ (s.get (LEG.STAT_BST_OK k) = 1) ∧ (s.get (LEG.STAT_GL_ON k) = 1))
    ∧ (∃ (k : Fin 12) (s : State), (s.gated 15 = false) ∧ (s.legEn k = true) ∧ (s.get (LEG.STAT_TESTING k) = 0) ∧ (s.legFlt k = 0) ∧ ((s.island k).lineH = 0) ∧ ((s.island k).lineL = 0) ∧ ((s.island k).softH = none) ∧ ((s.island k).slotH = none) ∧ ((s.island k).slotL = none) ∧ ((s.island k).onH = false) ∧ ((s.island k).onL = false) ∧ ((s.island k).waitH = none) ∧ ((s.island k).waitL = none) ∧ ((s.island k).softL = none) ∧ (s.get (LEG.STAT_VPOS_OK k) = 1) ∧ (s.get (LEG.STAT_VNEG_OK k) = 1) ∧ (s.get (LEG.STAT_BST_OK k) = 0))
    ∧ (∃ (k : Fin 12) (s : State), (s.gated 15 = false) ∧ (s.legEn k = true) ∧ (s.get (LEG.STAT_TESTING k) = 0) ∧ (s.legFlt k = 0) ∧ ((s.island k).lineH = 0) ∧ ((s.island k).lineL = 0) ∧ ((s.island k).softH = none) ∧ ((s.island k).slotH = none) ∧ ((s.island k).slotL = none) ∧ ((s.island k).onH = false) ∧ ((s.island k).onL = false) ∧ ((s.island k).waitH = none) ∧ ((s.island k).waitL = none) ∧ ((s.island k).softL = none) ∧ (s.get (LEG.STAT_VPOS_OK k) = 1) ∧ (s.get (LEG.STAT_VNEG_OK k) = 1) ∧ (s.get (LEG.STAT_GH_ON k) = 0))
    ∧ (∃ (k : Fin 12) (s : State), (s.gated 15 = false) ∧ (s.legEn k = true) ∧ ((s.island k).slotH = none) ∧ ((s.island k).slotL = none))
    ∧ (∃ (k : Fin 12) (h : Fin 3) (l : Fin 3) (s : State), (s.gated 15 = true) ∧ (l.val ≠ 1))
    ∧ (∃ (k : Fin 12) (h : Fin 3) (l : Fin 3) (s : State), (s.gated 15 = false) ∧ (s.legEn k = false)) :=
  ⟨⟨(11 : Fin 12), ({ sets [(HDR.CTRL_EN (LEG.page (11 : Fin 12)), 1), ((LEG.STAT_TESTING (11 : Fin 12)), 0), (LEG.FLT_FAULTS (11 : Fin 12), 0), ((LEG.STAT_VPOS_OK (11 : Fin 12)), 1), ((LEG.STAT_VNEG_OK (11 : Fin 12)), 1), ((LEG.STAT_BST_OK (11 : Fin 12)), 1), ((LEG.STAT_GL_ON (11 : Fin 12)), 0), (LEG.STAT_BST_OK 11, 1), (LEG.STAT_GL_ON 11, 0)] with isls := [(11, { lineH := 0, lineL := 0 })] } : State), by decide +kernel⟩,
    ⟨(11 : Fin 12), ({ sets [(HDR.CTRL_EN (LEG.page (11 : Fin 12)), 1), ((LEG.STAT_TESTING (11 : Fin 12)), 0), (LEG.FLT_FAULTS (11 : Fin 12), 0), ((LEG.STAT_VPOS_OK (11 : Fin 12)), 1), ((LEG.STAT_VNEG_OK (11 : Fin 12)), 1), ((LEG.STAT_BST_OK (11 : Fin 12)), 1), ((LEG.STAT_GL_ON (11 : Fin 12)), 1), (LEG.STAT_BST_OK 11, 1), (LEG.STAT_GL_ON 11, 1)] with isls := [(11, { lineH := 0, lineL := 0 })] } : State), by decide +kernel⟩,
    ⟨(11 : Fin 12), ({ sets [(HDR.CTRL_EN (LEG.page (11 : Fin 12)), 1), ((LEG.STAT_TESTING (11 : Fin 12)), 0), (LEG.FLT_FAULTS (11 : Fin 12), 0), ((LEG.STAT_VPOS_OK (11 : Fin 12)), 1), ((LEG.STAT_VNEG_OK (11 : Fin 12)), 1), ((LEG.STAT_BST_OK (11 : Fin 12)), 0), (LEG.STAT_BST_OK 11, 0)] with isls := [(11, { lineH := 0, lineL := 0 })] } : State), by decide +kernel⟩,
    ⟨(11 : Fin 12), ({ sets [(HDR.CTRL_EN (LEG.page (11 : Fin 12)), 1), ((LEG.STAT_TESTING (11 : Fin 12)), 0), (LEG.FLT_FAULTS (11 : Fin 12), 0), ((LEG.STAT_VPOS_OK (11 : Fin 12)), 1), ((LEG.STAT_VNEG_OK (11 : Fin 12)), 1), ((LEG.STAT_GH_ON (11 : Fin 12)), 0), (LEG.STAT_GH_ON 11, 0)] with isls := [(11, { lineH := 0, lineL := 0 })] } : State), by decide +kernel⟩,
    ⟨(11 : Fin 12), (sets [(HDR.CTRL_EN (LEG.page (11 : Fin 12)), 1)] : State), by decide +kernel⟩,
    ⟨(11 : Fin 12), (0 : Fin 3), (0 : Fin 3), (sets [(CLK.GATE_GATE, 0x8000)] : State), by decide +kernel⟩,
    ⟨(11 : Fin 12), (0 : Fin 3), (0 : Fin 3), (State.reset : State), by decide +kernel⟩⟩

theorem test_meets_InterlockAndSwitchFaults :
    (∃ (k : Fin 12) (high : Bool) (t0 : Nat) (s : State), ((s.island k).on (!high) = false) ∧ ((s.island k).wait high = some t0) ∧ (s.mayOn k high = true) ∧ (high = true → s.get (LEG.STAT_BST_OK k) = 1))
    ∧ (∃ (k : Fin 12) (t0 : Nat) (s : State), ((s.island k).onL = false) ∧ ((s.island k).waitH = some t0) ∧ (s.mayOn k true = true) ∧ (s.get (LEG.STAT_BST_OK k) = 0))
    ∧ (∃ (k : Fin 12) (high : Bool) (t0 : Nat) (s : State), ((s.island k).on (!high) = false) ∧ ((s.island k).wait high = some t0) ∧ (s.mayOn k high = false))
    ∧ (∃ (k : Fin 12) (high : Bool) (s : State), ((s.island k).on (!high) = true))
    ∧ (∃ (k : Fin 12) (high : Bool) (t0 : Nat) (s : State), (s.legEn k = true) ∧ ((s.island k).wait high = some t0))
    ∧ (∃ (k : Fin 12) (high : Bool) (s : State), ((s.island k).wait high = none))
    ∧ (∃ (k : Fin 12) (high : Bool) (t0 : Nat) (s : State), ((s.island k).blank high = some t0))
    ∧ (∃ (k : Fin 12) (high : Bool) (t0 : Nat) (s : State), (s.legEn k = true) ∧ ((s.island k).blank high = some t0) ∧ ((s.island k).on high = true) ∧ ((s.island k).soft high = none) ∧ (s.legCode k ≠ 3) ∧ (s.legFlt k = 0))
    ∧ (∃ (k : Fin 12) (high : Bool) (s : State), (s.legEn k = true) ∧ ((s.island k).on high = true) ∧ ((s.island k).soft high = none) ∧ (s.legCode k ≠ 3) ∧ (s.legFlt k = 0) ∧ ((s.island k).blank high = none))
    ∧ (∃ (k : Fin 12) (high : Bool) (s : State), ((s.island k).on high = false) ∧ ((s.island k).cut high ≠ some s.now))
    ∧ (∃ (k : Fin 12) (high : Bool) (t0 : Nat) (s : State), ((s.island k).soft high = some t0) ∧ (s.legFlt k ≠ 0) ∧ (s.legCode k ≠ 3)) :=
  ⟨⟨(11 : Fin 12), (true : Bool), (9 : Nat), ({ sets [(HDR.CTRL_EN (LEG.page 11), 1), (LEG.STAT_BST_OK 11, 1), (LEG.STAT_VPOS_OK 11, 1), (LEG.STAT_VNEG_OK 11, 1)] with isls := [(11, { waitH := some 9, lineH := 1, lineL := 0 })] } : State), by decide +kernel⟩,
    ⟨(11 : Fin 12), (9 : Nat), ({ sets [((LEG.STAT_BST_OK (11 : Fin 12)), 0), (HDR.CTRL_EN (LEG.page 11), 1), (LEG.STAT_BST_OK 11, 0), (LEG.STAT_VPOS_OK 11, 1), (LEG.STAT_VNEG_OK 11, 1)] with isls := [(11, { waitH := some 9, lineH := 1, lineL := 0 })] } : State), by decide +kernel⟩,
    ⟨(11 : Fin 12), (true : Bool), (9 : Nat), ({ sets [(HDR.CTRL_EN (LEG.page 11), 1), (LEG.STAT_BST_OK 11, 1)] with isls := [(11, { waitH := some 9, lineH := 1, lineL := 0 })] } : State), by decide +kernel⟩,
    ⟨(11 : Fin 12), (true : Bool), ({ State.reset with isls := [(11, { onL := true })] } : State), by decide +kernel⟩,
    ⟨(11 : Fin 12), (true : Bool), (9 : Nat), ({ sets [(HDR.CTRL_EN (LEG.page (11 : Fin 12)), 1)] with isls := [(11, { waitH := some 9 })] } : State), by decide +kernel⟩,
    ⟨(11 : Fin 12), (true : Bool), (State.reset : State), by decide +kernel⟩,
    ⟨(11 : Fin 12), (true : Bool), (9 : Nat), ({ State.reset with isls := [(11, { blankH := some 9 })] } : State), by decide +kernel⟩,
    ⟨(11 : Fin 12), (true : Bool), (9 : Nat), ({ sets [(HDR.CTRL_EN (LEG.page (11 : Fin 12)), 1), (LEG.FLT_FAULTS (11 : Fin 12), 0)] with isls := [(11, { blankH := some 9, onH := true })] } : State), by decide +kernel⟩,
    ⟨(11 : Fin 12), (true : Bool), ({ sets [(HDR.CTRL_EN (LEG.page (11 : Fin 12)), 1), (LEG.FLT_FAULTS (11 : Fin 12), 0)] with isls := [(11, { onH := true })] } : State), by decide +kernel⟩,
    ⟨(11 : Fin 12), (true : Bool), (State.reset : State), by decide +kernel⟩,
    ⟨(11 : Fin 12), (true : Bool), (9 : Nat), ({ sets [(LEG.FLT_FAULTS 11, 1)] with isls := [(11, { softH := some 9 })] } : State), by decide +kernel⟩⟩

theorem test_meets_IslandSuppliesAndDrive :
    (∃ (k : Fin 12) (s : State), (s.gated 15 = false))
    ∧ (∃ (k : Fin 12) (neg : Bool) (s : State), (s.gated 15 = false) ∧ (s.get (LEG.STAT_TESTING k) = 0))
    ∧ (∃ (k : Fin 12) (t0 : Nat) (s : State), ((s.island k).charged = false) ∧ ((s.island k).lowOn = some t0))
    ∧ (∃ (k : Fin 12) (s : State), ((s.island k).charged = false) ∧ ((s.island k).lowOn = none))
    ∧ (∃ (k : Fin 12) (kind : Fin 4) (time : Nat) (s : State) (tgt : Nat) (tol : Nat), (s.get (LEG.CFG_DRV k) = 2) ∧ (s.legEn k = true) ∧ (s.get (LEG.STAT_TESTING k) = 0) ∧ (kind.val % 2 = 0 → (s.island k).on (decide (kind.val < 2)) = true) ∧ (kind.val % 2 = 1 → (s.island k).on (decide (kind.val < 2)) = false ∧ (s.island k).soften (decide (kind.val < 2)) = false) ∧ (tgt = 10 * s.get (if kind.val % 2 = 0 then LEG.ADP_TGT_ON k else LEG.ADP_TGT_OFF k)) ∧ (tol = 10 * s.get (LEG.ADP_TOL k))) :=
  ⟨⟨(0 : Fin 12), (State.reset : State), by decide +kernel⟩,
    ⟨(0 : Fin 12), (false : Bool), (sets [((LEG.STAT_TESTING (0 : Fin 12)), 0)] : State), by decide +kernel⟩,
    ⟨(11 : Fin 12), (9 : Nat), ({ State.reset with isls := [(11, { lowOn := some 9 })] } : State), by decide +kernel⟩,
    ⟨(0 : Fin 12), (State.reset : State), by decide +kernel⟩,
    ⟨(11 : Fin 12), (0 : Fin 4), (5000 : Nat), ({ sets [((LEG.CFG_DRV (11 : Fin 12)), 2), (HDR.CTRL_EN (LEG.page (11 : Fin 12)), 1), ((LEG.STAT_TESTING (11 : Fin 12)), 0)] with isls := [(11, { onH := true })] } : State), (10 * ({ sets [((LEG.CFG_DRV (11 : Fin 12)), 2), (HDR.CTRL_EN (LEG.page (11 : Fin 12)), 1), ((LEG.STAT_TESTING (11 : Fin 12)), 0)] with isls := [(11, { onH := true })] } : State).get (LEG.ADP_TGT_ON (11 : Fin 12)) : Nat), (10 * ({ sets [((LEG.CFG_DRV (11 : Fin 12)), 2), (HDR.CTRL_EN (LEG.page (11 : Fin 12)), 1), ((LEG.STAT_TESTING (11 : Fin 12)), 0)] with isls := [(11, { onH := true })] } : State).get (LEG.ADP_TOL (11 : Fin 12)) : Nat), by decide +kernel⟩⟩

theorem test_meets_IslandEnablePolicyTest :
    (∃ (k : Fin 12) (s : State), (s.takes (LEG.page k)) ∧ (s.isl = true) ∧ (s.get (LEG.CFG_DRV k) = 0 ↔ s.straps.bmode.testBit k = true))
    ∧ (∃ (k : Fin 12) (s : State), (s.takes (LEG.page k)) ∧ (s.isl = true) ∧ ((s.get (LEG.CFG_DRV k) == 0) = !(s.straps.bmode.testBit k)) ∧ (s.legEn k = false) ∧ ((s.island k).lineH = 0) ∧ ((s.island k).lineL = 0))
    ∧ (∃ (k : Fin 12) (s : State), (s.takes (LEG.page k)) ∧ (s.isl = true) ∧ ((s.get (LEG.CFG_DRV k) == 0) = !(s.straps.bmode.testBit k)) ∧ (s.legEn k = false) ∧ ((s.island k).everGood = true) ∧ (s.get (LEG.STAT_VPOS_OK k) = 0))
    ∧ (∃ (k : Fin 12) (s : State), (s.takes (LEG.page k)) ∧ (s.isl = true) ∧ ((s.get (LEG.CFG_DRV k) == 0) = !(s.straps.bmode.testBit k)) ∧ (s.legEn k = false) ∧ ((s.island k).lineH = 1) ∧ ((s.island k).lineL = 1))
    ∧ (∃ (k : Fin 12) (s : State), (s.takes (LEG.page k)) ∧ (s.isl = false))
    ∧ (∃ (k : Fin 12) (s : State), (s.takes (LEG.page k)) ∧ (s.isl = true) ∧ (∃ t0, (s.island k).offSince = some t0 ∧ t0 + tUs ≤ s.now) ∧ (s.get (LEG.STAT_VPOS_OK k) = 1) ∧ (s.get (LEG.STAT_VNEG_OK k) = 1) ∧ ((s.island k).softH = none) ∧ ((s.island k).softL = none))
    ∧ (∃ (k : Fin 12) (s : State), (s.takes (LEG.page k)) ∧ (s.isl = true) ∧ ((s.island k).offSince = none ∨ s.get (LEG.STAT_VPOS_OK k) = 0 ∨ (s.island k).softH.isSome))
    ∧ (∃ (k : Fin 12) (s : State), ((s.island k).reports = []))
    ∧ (∃ (k : Fin 12) (bit : Nat) (t0 : Nat) (b : Nat) (l : List (Nat × Nat)) (s : State), ((s.island k).reports = (bit, t0) :: l) ∧ (b = s.get (LEG.CFG_BUS k)) ∧ ((s.get (LEG.BUSPOL_QUAL 0 b)).testBit bit = false))
    ∧ (∃ (k : Fin 12) (bit : Nat) (t0 : Nat) (b : Nat) (l : List (Nat × Nat)) (s : State), ((s.island k).reports = (bit, t0) :: l) ∧ (b = s.get (LEG.CFG_BUS k)) ∧ ((s.get (LEG.BUSPOL_QUAL 0 b)).testBit bit = true) ∧ (s.get (LEG.BUSPOL_TRIG 0 b) = 1))
    ∧ (∃ (k : Fin 12) (bit : Nat) (t0 : Nat) (b : Nat) (l : List (Nat × Nat)) (s : State), ((s.island k).reports = (bit, t0) :: l) ∧ (b = s.get (LEG.CFG_BUS k)) ∧ ((s.get (LEG.BUSPOL_TRIG 0 b) = 2 ∧ (∀ q ∈ s.polHist, q.1 = b → q.2.1 = k.val ∨ q.2.2 + tUs ≤ t0 ∨ t0 + tUs ≤ q.2.2)) ∨ s.get (LEG.BUSPOL_TRIG 0 b) = 0))
    ∧ (∃ (k : Fin 12) (high : Bool) (t0 : Nat) (s : State), ((s.island k).slot high = some t0) ∧ ((s.island k).on high = true) ∧ ((s.island k).lineL ≠ 1))
    ∧ (∃ (k : Fin 12) (s : State), (s.takes (LEG.page k)) ∧ (s.isl = true) ∧ (s.islIdle k = true))
    ∧ (∃ (k : Fin 12) (s : State), (s.takes (LEG.page k)) ∧ (s.isl = true) ∧ (s.islIdle k = false))
    ∧ (∃ (k : Fin 12) (f : BitVec 15) (s : State), (s.get (LEG.STAT_TESTING k) = 1)) :=
  ⟨⟨(11 : Fin 12), ({ sets [(LEG.CFG_DRV 11, 1)] with straps := { strapsReset with bmode := 0 } } : State), by simp only [State.takes]; decide +kernel⟩,
    ⟨(11 : Fin 12), ({ State.reset with straps := { strapsReset with bmode := 0 }, isls := [(11, { lineH := 0, lineL := 0 })] } : State), by simp only [State.takes]; decide +kernel⟩,
    ⟨(11 : Fin 12), ({ sets [((LEG.STAT_VPOS_OK (11 : Fin 12)), 0)] with straps := { strapsReset with bmode := 0 }, isls := [(11, { everGood := true })] } : State), by simp only [State.takes]; decide +kernel⟩,
    ⟨(11 : Fin 12), ({ State.reset with straps := { strapsReset with bmode := 0 }, isls := [(11, { lineH := 1, lineL := 1 })] } : State), by simp only [State.takes]; decide +kernel⟩,
    ⟨(11 : Fin 12), ({ State.reset with straps := { strapsReset with islFit := false } } : State), by simp only [State.takes]; decide +kernel⟩,
    ⟨(11 : Fin 12), ({ sets [((LEG.STAT_VPOS_OK (11 : Fin 12)), 1), ((LEG.STAT_VNEG_OK (11 : Fin 12)), 1), (LEG.STAT_VPOS_OK 11, 1), (LEG.STAT_VNEG_OK 11, 1)] with now := tUs } : State), by simp only [State.takes]; decide +kernel⟩,
    ⟨(11 : Fin 12), (State.reset : State), by simp only [State.takes]; decide +kernel⟩,
    ⟨(11 : Fin 12), (State.reset : State), by decide +kernel⟩,
    ⟨(11 : Fin 12), (7 : Nat), (9 : Nat), (({ sets [(⟨LEG.BUSPOL 0 0, 0, 32⟩, 0)] with isls := [(11, { reports := [(7, 9)] })] } : State).get (LEG.CFG_BUS (11 : Fin 12)) : Nat), ([] : List (Nat × Nat)), ({ sets [(⟨LEG.BUSPOL 0 0, 0, 32⟩, 0)] with isls := [(11, { reports := [(7, 9)] })] } : State), by decide +kernel⟩,
    ⟨(11 : Fin 12), (7 : Nat), (9 : Nat), (({ sets [(LEG.BUSPOL_QUAL 0 0, 255), (LEG.BUSPOL_TRIG 0 0, 1)] with isls := [(11, { reports := [(7, 9)] })] } : State).get (LEG.CFG_BUS (11 : Fin 12)) : Nat), ([] : List (Nat × Nat)), ({ sets [(LEG.BUSPOL_QUAL 0 0, 255), (LEG.BUSPOL_TRIG 0 0, 1)] with isls := [(11, { reports := [(7, 9)] })] } : State), by decide +kernel⟩,
    ⟨(11 : Fin 12), (7 : Nat), (9 : Nat), (({ sets [(LEG.BUSPOL_QUAL 0 0, 255), (LEG.BUSPOL_TRIG 0 0, 0)] with isls := [(11, { reports := [(7, 9)] })] } : State).get (LEG.CFG_BUS (11 : Fin 12)) : Nat), ([] : List (Nat × Nat)), ({ sets [(LEG.BUSPOL_QUAL 0 0, 255), (LEG.BUSPOL_TRIG 0 0, 0)] with isls := [(11, { reports := [(7, 9)] })] } : State), by decide +kernel⟩,
    ⟨(11 : Fin 12), (true : Bool), (9 : Nat), ({ State.reset with isls := [(11, { slotH := some 9, onH := true, lineL := 0 })] } : State), by decide +kernel⟩,
    ⟨(11 : Fin 12), ({ sets [(HDR.CTRL_EN (LEG.page 11), 1), (LEG.STAT_VPOS_OK 11, 1), (LEG.STAT_VNEG_OK 11, 1)] with now := 10 * tUs } : State), by simp only [State.takes]; decide +kernel⟩,
    ⟨(11 : Fin 12), (State.reset : State), by simp only [State.takes]; decide +kernel⟩,
    ⟨(11 : Fin 12), (0 : BitVec 15), (sets [((LEG.STAT_TESTING (11 : Fin 12)), 1)] : State), by decide +kernel⟩⟩

/-! ### Analogue acquisition (R286–R307) -/

theorem test_meets_SegmentTriggers :
    (∃ (p : Fin 8) (k : Fin 4) (s : State), (s.segLive p k = false))
    ∧ (∃ (p : Fin 8) (k : Fin 4) (s : State), (s.segLive p k = true) ∧ ((s.pair p).cnt.length = 4) ∧ ((s.pair p).cnt.getD k 0 < s.get (PAIR.SEG_DIV p k)))
    ∧ (∃ (p : Fin 8) (k : Fin 4) (s : State), (s.segLive p k = true) ∧ ((s.pair p).cnt.length = 4) ∧ (s.get (PAIR.SEG_DIV p k) ≤ (s.pair p).cnt.getD k 0) ∧ ((s.pair p).run = none) ∧ ((s.pair p).wait = []))
    ∧ (∃ (p : Fin 8) (k : Fin 4) (s : State) (r : AdcRun), (s.segLive p k = true) ∧ ((s.pair p).cnt.length = 4) ∧ (s.get (PAIR.SEG_DIV p k) ≤ (s.pair p).cnt.getD k 0) ∧ ((s.pair p).run = some r) ∧ (r.seg = k.val))
    ∧ (∃ (p : Fin 8) (k : Fin 4) (s : State) (r : AdcRun), (s.segLive p k = true) ∧ ((s.pair p).cnt.length = 4) ∧ (s.get (PAIR.SEG_DIV p k) ≤ (s.pair p).cnt.getD k 0) ∧ ((s.pair p).run = some r) ∧ (r.seg ≠ k.val) ∧ ((s.pair p).wait = []))
    ∧ (∃ (p : Fin 8) (k : Fin 4) (s : State), (s.takes (PAIR.page p)) ∧ (s.pairSeq p = true) ∧ (s.get (PAIR.SEG_LEN p k) ≠ 0) ∧ (s.get (PAIR.SEG_TRIG p k) = 8))
    ∧ (∃ (p : Fin 8) (k : Fin 4) (s : State), (s.takes (PAIR.page p)) ∧ (s.pairSeq p = true) ∧ (s.get (PAIR.SEG_LEN p k) ≠ 0) ∧ (s.get (PAIR.SEG_TRIG p k) ≠ 8))
    ∧ (∃ (k : Nat) (t : Nat) (l : List (Nat × Nat)) (q : Nat × Nat), (q ∈ l))
    ∧ (∃ (k : Nat) (t : Nat) (l : List (Nat × Nat)), (l.Pairwise (fun a b => a.2 < b.2 ∨ (a.2 = b.2 ∧ a.1 ≤ b.1)))) :=
  ⟨⟨(7 : Fin 8), (3 : Fin 4), (State.reset : State), by decide +kernel⟩,
    ⟨(7 : Fin 8), (3 : Fin 4), ({ sets [(HDR.CTRL_EN (PAIR.page 7), 1), (PAIR.SEG_LEN 7 3, 1), (PAIR.SEG_TRIG 7 3, 1), (PAIR.SEG_DIV 7 3, 3)] with adcs := [(7, { cnt := [0, 0, 0, 2] })] } : State), by decide +kernel⟩,
    ⟨(7 : Fin 8), (3 : Fin 4), ({ sets [(HDR.CTRL_EN (PAIR.page 7), 1), (PAIR.SEG_LEN 7 3, 1), (PAIR.SEG_TRIG 7 3, 1), (PAIR.SEG_DIV 7 3, 3)] with adcs := [(7, { cnt := [0, 0, 0, 3] })] } : State), by decide +kernel⟩,
    ⟨(7 : Fin 8), (3 : Fin 4), ({ sets [(HDR.CTRL_EN (PAIR.page 7), 1), (PAIR.SEG_LEN 7 3, 1), (PAIR.SEG_TRIG 7 3, 1), (PAIR.SEG_DIV 7 3, 3)] with adcs := [(7, { cnt := [0, 0, 0, 3], run := some ({ seg := 3, trig := 0, start := 0 } : AdcRun) })] } : State), ({ seg := 3, trig := 0, start := 0 } : AdcRun), by decide +kernel⟩,
    ⟨(7 : Fin 8), (3 : Fin 4), ({ sets [(HDR.CTRL_EN (PAIR.page 7), 1), (PAIR.SEG_LEN 7 3, 1), (PAIR.SEG_TRIG 7 3, 1), (PAIR.SEG_DIV 7 3, 3)] with adcs := [(7, { cnt := [0, 0, 0, 3], run := some ({ seg := 2, trig := 0, start := 0 } : AdcRun) })] } : State), ({ seg := 2, trig := 0, start := 0 } : AdcRun), by decide +kernel⟩,
    ⟨(7 : Fin 8), (3 : Fin 4), (sets [(HDR.CTRL_EN (PAIR.page (7 : Fin 8)), 1), ((PAIR.SEG_LEN (7 : Fin 8) (3 : Fin 4)), 1), ((PAIR.SEG_TRIG (7 : Fin 8) (3 : Fin 4)), 8)] : State), by simp only [State.takes]; decide +kernel⟩,
    ⟨(7 : Fin 8), (3 : Fin 4), (sets [(HDR.CTRL_EN (PAIR.page (7 : Fin 8)), 1), ((PAIR.SEG_LEN (7 : Fin 8) (3 : Fin 4)), 1)] : State), by simp only [State.takes]; decide +kernel⟩,
    ⟨(3 : Nat), (0 : Nat), ([(1, 2)] : List (Nat × Nat)), ((1, 2) : Nat × Nat), by decide +kernel⟩,
    ⟨(3 : Nat), (0 : Nat), ([] : List (Nat × Nat)), by decide +kernel⟩⟩

theorem test_meets_EntriesAndUrgentIssue :
    (∃ (p : Fin 8) (s : State), ((s.pair p).run = none))
    ∧ (∃ (p : Fin 8) (r : AdcRun) (s : State) (t0 : Nat) (cv : Nat), ((s.pair p).run = some r) ∧ (r.began = false) ∧ (s.get (PAIR.SEG_LEN p r.seg) = 1) ∧ (cv = s.get (PAIR.SEQ_E_CV p (s.get (PAIR.SEG_START p r.seg)))) ∧ ((s.pair p).urg = []) ∧ (t0 = max (r.trig + s.get (PAIR.SEG_DLY p r.seg) * tTick) r.start) ∧ ((s.pair p).free cv ≤ t0))
    ∧ (∃ (p : Fin 8) (s : State), ((s.pair p).urg = []))
    ∧ (∃ (p : Fin 8) (u : AdcUrg) (l : List AdcUrg) (s : State), ((s.pair p).urg = u :: l) ∧ ((s.pair p).convs = []))
    ∧ (∃ (p : Fin 8) (u : AdcUrg) (l : List AdcUrg) (h : AdcConv) (i : Nat) (r : AdcRun) (s : State), ((s.pair p).urg = u :: l) ∧ ((s.pair p).convs = [h]) ∧ (h.ent = some i) ∧ (h.cv = s.get (PAIR.URG0_UCV p)) ∧ (u.at_ < h.at_ + tConv) ∧ ((s.pair p).run = some r)) :=
  ⟨⟨(7 : Fin 8), (State.reset : State), by decide +kernel⟩,
    ⟨(7 : Fin 8), ({ seg := 3, trig := 9, start := 9, todo := [0] } : AdcRun), ({ sets [(PAIR.SEG_LEN 7 3, 1)] with adcs := [(7, { run := some ({ seg := 3, trig := 9, start := 9, todo := [0] } : AdcRun) })] } : State), (9 : Nat), (({ sets [(PAIR.SEG_LEN 7 3, 1)] with adcs := [(7, { run := some ({ seg := 3, trig := 9, start := 9, todo := [0] } : AdcRun) })] } : State).get (PAIR.SEQ_E_CV (7 : Fin 8) (({ sets [(PAIR.SEG_LEN 7 3, 1)] with adcs := [(7, { run := some ({ seg := 3, trig := 9, start := 9, todo := [0] } : AdcRun) })] } : State).get (PAIR.SEG_START (7 : Fin 8) ({ seg := 3, trig := 9, start := 9, todo := [0] } : AdcRun).seg))) : Nat), by decide +kernel⟩,
    ⟨(7 : Fin 8), (State.reset : State), by decide +kernel⟩,
    ⟨(7 : Fin 8), (⟨5, 1, 0, none⟩ : AdcUrg), ([] : List AdcUrg), ({ State.reset with adcs := [(7, { urg := [⟨5, 1, 0, none⟩] })] } : State), by decide +kernel⟩,
    ⟨(7 : Fin 8), (⟨5, 1, 0, none⟩ : AdcUrg), ([] : List AdcUrg), ({ cv := 0, inp := 7, strm := 15, at_ := 9, late := false, ent := some 1 } : AdcConv), (1 : Nat), ({ seg := 3, trig := 9, start := 9 } : AdcRun), ({ State.reset with adcs := [(7, { urg := [⟨5, 1, 0, none⟩], convs := [({ cv := 0, inp := 7, strm := 15, at_ := 9, late := false, ent := some 1 } : AdcConv)], run := some ({ seg := 3, trig := 9, start := 9 } : AdcRun) })] } : State), by decide +kernel⟩⟩

theorem test_meets_UrgentRequestsAndCalibration :
    (∃ (p : Fin 8) (u : Fin 4) (s : State), (s.pairSeq p = true) ∧ (s.get (PAIR.URG0_TRP_EN p) = 0))
    ∧ (∃ (p : Fin 8) (u : Fin 4) (s : State), (s.pairSeq p = true) ∧ (s.get (PAIR.URG0_TRP_EN p) = 1) ∧ (4 ≤ (s.pair p).urg.length))
    ∧ (∃ (p : Fin 8) (u : Fin 4) (s : State), (s.pairSeq p = true) ∧ (s.get (PAIR.URG0_TRP_EN p) = 1) ∧ ((s.pair p).urg = []))
    ∧ (∃ (p : Fin 8) (u : Fin 4) (s : State) (t0 : Nat), (s.pairSeq p = true) ∧ (s.get (PAIR.URG0_EVT_EN p) = 1) ∧ ((s.pair p).urg = []) ∧ ((s.island (s.get (PAIR.URG0_EVT_LEG p))).lowAt = some t0) ∧ (s.tickOf t0 = s.nowTick) ∧ ((s.pair p).evtAt ≠ some t0))
    ∧ (∃ (p : Fin 8) (u : Fin 4) (s : State), ((s.island (s.get (PAIR.URG0_EVT_LEG p))).lowAt = none ∨ (∃ t0, (s.island (s.get (PAIR.URG0_EVT_LEG p))).lowAt = some t0 ∧ (s.tickOf t0 ≠ s.nowTick ∨ (s.pair p).evtAt = some t0))))
    ∧ (∃ (k : Fin 12) (p : Fin 8) (s : State), (s.legEn k = false) ∧ ((s.island k).lineL ≠ 1) ∧ (s.pairSeq p = true) ∧ (s.get (PAIR.URG0_EVT_EN p) = 1) ∧ (s.get (PAIR.URG0_EVT_LEG p) = k) ∧ ((s.pair p).urg = []) ∧ ((s.pair p).evtAt ≠ some s.now) ∧ (∀ u, u < 4 → s.get (MCX.C_CFG_LEG u) ≠ k))
    ∧ (∃ (p : Fin 8) (u : Fin 4) (q : Nat) (s : State), (q = s.get (MCX.C_CFG_IAI u) / 8) ∧ (s.pairSeq q = true) ∧ ((s.pair q).urg = []) ∧ (s.get (PAIR.URG0_MCX_EN q) = 1) ∧ (s.chopChecked u = true) ∧ ((s.island (s.get (MCX.C_CFG_LEG u))).lineL = 1))
    ∧ (∃ (p : Fin 8) (u : Fin 4) (s : State), (s.chopChecked u = false ∨ (s.island (s.get (MCX.C_CFG_LEG u))).lineL ≠ 1))
    ∧ (∃ (p : Fin 8) (v : Word) (s : State), (s.takes (PAIR.page p)) ∧ (s.pairSeq p = true) ∧ (s.get (PAIR.URG0_SW_EN p) = 1) ∧ ((s.pair p).urg = []))
    ∧ (∃ (p : Fin 8) (s : State), (s.takes (PAIR.page p)) ∧ (s.pairOn p = true))
    ∧ (∃ (p : Fin 8) (s : State), (s.takes (PAIR.page p)) ∧ (s.pairOn p = false))
    ∧ (∃ (p : Fin 8) (a : Word) (b : Word) (k : BitVec 8) (s : State), (s.get (PAIR.PSTAT_CAL_RUN p) = 1))
    ∧ (∃ (p : Fin 8) (a : Word) (b : Word) (k : BitVec 8) (s : State), (s.get (PAIR.PSTAT_CAL_RUN p) = 0)) :=
  ⟨⟨(7 : Fin 8), (0 : Fin 4), (sets [(HDR.CTRL_EN (PAIR.page (7 : Fin 8)), 1), ((PAIR.URG0_TRP_EN (7 : Fin 8)), 0)] : State), by decide +kernel⟩,
    ⟨(7 : Fin 8), (3 : Fin 4), ({ sets [(HDR.CTRL_EN (PAIR.page (7 : Fin 8)), 1), ((PAIR.URG0_TRP_EN (7 : Fin 8)), 1)] with adcs := [(7, { urg := [⟨5, 1, 0, none⟩, ⟨5, 1, 0, none⟩, ⟨5, 1, 0, none⟩, ⟨5, 1, 0, none⟩] })] } : State), by decide +kernel⟩,
    ⟨(7 : Fin 8), (0 : Fin 4), (sets [(HDR.CTRL_EN (PAIR.page (7 : Fin 8)), 1), ((PAIR.URG0_TRP_EN (7 : Fin 8)), 1)] : State), by decide +kernel⟩,
    ⟨(7 : Fin 8), (0 : Fin 4), ({ sets [(HDR.CTRL_EN (PAIR.page (7 : Fin 8)), 1), ((PAIR.URG0_EVT_EN (7 : Fin 8)), 1), (HDR.CTRL_EN (PAIR.page 7), 1), (PAIR.URG0_EVT_LEG 7, 11)] with isls := [(11, { lowAt := some 0 })] } : State), (0 : Nat), by decide +kernel⟩,
    ⟨(7 : Fin 8), (0 : Fin 4), (State.reset : State), by decide +kernel⟩,
    ⟨(11 : Fin 12), (7 : Fin 8), (sets [(HDR.CTRL_EN (PAIR.page (7 : Fin 8)), 1), ((PAIR.URG0_EVT_EN (7 : Fin 8)), 1), ((PAIR.URG0_EVT_LEG (7 : Fin 8)), (11 : Fin 12)), (PAIR.URG0_EVT_LEG 7, 11)] : State), by decide +kernel⟩,
    ⟨(7 : Fin 8), (3 : Fin 4), (({ sets [(MCX.C_CFG_LEG 3, 5), (MCX.C_CFG_EN 3, 1), (MCX.C_CFG_IAI 3, 63), (HDR.CTRL_EN (PAIR.page 7), 1), (PAIR.URG0_MCX_EN 7, 1)] with isls := [(5, { lineL := 1 })] } : State).get (MCX.C_CFG_IAI (3 : Fin 4)) / 8 : Nat), ({ sets [(MCX.C_CFG_LEG 3, 5), (MCX.C_CFG_EN 3, 1), (MCX.C_CFG_IAI 3, 63), (HDR.CTRL_EN (PAIR.page 7), 1), (PAIR.URG0_MCX_EN 7, 1)] with isls := [(5, { lineL := 1 })] } : State), by decide +kernel⟩,
    ⟨(7 : Fin 8), (0 : Fin 4), (State.reset : State), by decide +kernel⟩,
    ⟨(7 : Fin 8), (0 : Word), (sets [(HDR.CTRL_EN (PAIR.page (7 : Fin 8)), 1), ((PAIR.URG0_SW_EN (7 : Fin 8)), 1)] : State), by simp only [State.takes]; decide +kernel⟩,
    ⟨(7 : Fin 8), (sets [(HDR.CTRL_EN (PAIR.page 7), 1)] : State), by simp only [State.takes]; decide +kernel⟩,
    ⟨(7 : Fin 8), (State.reset : State), by simp only [State.takes]; decide +kernel⟩,
    ⟨(7 : Fin 8), (0 : Word), (0 : Word), (0 : BitVec 8), (sets [((PAIR.PSTAT_CAL_RUN (7 : Fin 8)), 1)] : State), by decide +kernel⟩,
    ⟨(7 : Fin 8), (0 : Word), (0 : Word), (0 : BitVec 8), (sets [((PAIR.PSTAT_CAL_RUN (7 : Fin 8)), 0)] : State), by decide +kernel⟩⟩

theorem test_meets_ConversionResultsAndBuffer :
    (∃ (p : Fin 8) (raw : BitVec 16) (s : State), ((s.pair p).convs = []))
    ∧ (∃ (p : Fin 8) (raw : BitVec 16) (c : AdcConv) (s : State), ((s.pair p).convs = [c]) ∧ (c.ent.isSome) ∧ (c.inp < 8) ∧ (c.cv < 2) ∧ ((s.pair p).gInv = List.replicate 8 (0, 0)) ∧ ((s.pair p).cInv = List.replicate 2 (0, 0)) ∧ (c.late = false))
    ∧ (∃ (p : Fin 8) (raw : BitVec 16) (c : AdcConv) (u : Nat) (s : State), ((s.pair p).convs = [c]) ∧ (c.ent = none) ∧ (c.req = some u))
    ∧ (∃ (p : Fin 8) (raw : BitVec 16) (c : AdcConv) (n : Nat) (at_ : Nat) (s : State), ((s.pair p).convs = [c]) ∧ (c.inp < 8) ∧ (c.late = false) ∧ ((s.pair p).gInv.getD c.inp (0, 0) = (n + 1, at_)) ∧ (at_ ≤ c.at_) ∧ ((s.pair p).gInv.length = 8))
    ∧ (∃ (ofs : Int) (raw : Int) (gn : Nat), (gn = 0x8000) ∧ (-32768 ≤ raw - ofs) ∧ (raw - ofs ≤ 32767))
    ∧ (∃ (ofs : Int) (raw : Int) (gn : Nat), (raw = -32768 ∨ raw = 32767))
    ∧ (∃ (p : Nat) (j : Nat) (ai : Nat) (code : Int) (s : State), (s.get (PAIR.STR_CFG_EN p j) = 1) ∧ (s.get (PAIR.STR_CFG_NM1 p j) = 0) ∧ (s.get (PAIR.STR_CFG_RM1 p j) = 0) ∧ (s.get (PAIR.STR_CFG_BUF p j) = 0) ∧ (-32768 ≤ code) ∧ (code ≤ 32767) ∧ (p < 8) ∧ (j < 16) ∧ (ai < 64) ∧ ((SMap.get (fun _ => {}) (s.pair p).flts j).bad = 0) ∧ ((SMap.get (fun _ => {}) (s.pair p).flts j).intg = [0]) ∧ ((SMap.get (fun _ => {}) (s.pair p).flts j).comb = [0]) ∧ ((SMap.get (fun _ => {}) (s.pair p).flts j).n = 0) ∧ ((SMap.get (fun _ => {}) (s.pair p).flts j).inv = none) ∧ ((SMap.get (fun _ => {}) (s.pair p).flts j).clip = none) ∧ ((SMap.get (fun _ => {}) (s.pair p).flts j).late = none))
    ∧ (∃ (p : Fin 8) (raw : BitVec 16) (b : Nat) (s : State), ((s.pair p).ilvAt = some b) ∧ (s.pairOn p = true) ∧ (s.get (PAIR.PCFG_MODE p) = 1) ∧ ((s.pair p).ilvN % 2 = 0))
    ∧ (∃ (p : Fin 8) (raw : BitVec 16) (s : State), ((s.pair p).ilvAt = none))
    ∧ (∃ (p : Fin 8) (s : State), ((s.pair p).bufQ = []))
    ∧ (∃ (p : Fin 8) (w : Word) (l : List Word) (s : State) (u : State) (size : Nat) (wr : Nat) (rd : Nat), ((s.pair p).bufQ = w :: l) ∧ (size = 2 ^ s.get (PAIR.BUF_LEN_LOG2 p)) ∧ (1 < size) ∧ (size ≤ 65536) ∧ (wr = s.get (PAIR.BUF_WR_WR p)) ∧ (rd = s.get (PAIR.BUF_RD_RD p)) ∧ (wr < size) ∧ (rd < size) ∧ ((s.setPair p { s.pair p with bufQ := l }).dmaWrite (s.get (PAIR.PCFG_DMA_CH p)) (s.get (PAIR.BUF_BASE_ADDR p) * 64 + 4 * wr) (leBytes 4 (if (wr + 1) % size = rd then w ||| adcOvr else w).toNat) = (true, u)) ∧ (u.regs = s.regs)) :=
  ⟨⟨(7 : Fin 8), (0 : BitVec 16), (State.reset : State), by decide +kernel⟩,
    ⟨(7 : Fin 8), (0x7FFF : BitVec 16), ({ cv := 0, inp := 7, strm := 15, at_ := 9, late := false, ent := some 1 } : AdcConv), ({ State.reset with adcs := [(7, { convs := [({ cv := 0, inp := 7, strm := 15, at_ := 9, late := false, ent := some 1 } : AdcConv)] })] } : State), by decide +kernel⟩,
    ⟨(7 : Fin 8), (5 : BitVec 16), ({ cv := 0, inp := 7, strm := 15, at_ := 9, late := false, ent := none, req := some 2 } : AdcConv), (2 : Nat), ({ State.reset with adcs := [(7, { convs := [({ cv := 0, inp := 7, strm := 15, at_ := 9, late := false, ent := none, req := some 2 } : AdcConv)] })] } : State), by decide +kernel⟩,
    ⟨(7 : Fin 8), (5 : BitVec 16), ({ cv := 0, inp := 7, strm := 15, at_ := 9, late := false, ent := none } : AdcConv), (2 : Nat), (4 : Nat), ({ State.reset with adcs := [(7, { convs := [({ cv := 0, inp := 7, strm := 15, at_ := 9, late := false, ent := none } : AdcConv)], gInv := [(0, 0), (0, 0), (0, 0), (0, 0), (0, 0), (0, 0), (0, 0), (3, 4)] })] } : State), by decide +kernel⟩,
    ⟨(0 : Int), (0 : Int), (0x8000 : Nat), by decide +kernel⟩,
    ⟨(0 : Int), ((-32768) : Int), (0 : Nat), by decide +kernel⟩,
    ⟨(7 : Nat), (15 : Nat), (63 : Nat), (32767 : Int), ({ sets [(PAIR.STR_CFG_EN 7 15, 1)] with adcs := [(7, { flts := [(15, { intg := [0], comb := [0] })] })] } : State), by decide +kernel⟩,
    ⟨(7 : Fin 8), (0 : BitVec 16), (9 : Nat), ({ sets [((PAIR.PCFG_MODE (7 : Fin 8)), 1), (HDR.CTRL_EN (PAIR.page 7), 1)] with adcs := [(7, { ilvAt := some 9 })] } : State), by decide +kernel⟩,
    ⟨(7 : Fin 8), (0 : BitVec 16), (State.reset : State), by decide +kernel⟩,
    ⟨(0 : Fin 8), (State.reset : State), by decide +kernel⟩,
    ⟨(7 : Fin 8), (5 : Word), ([] : List Word), ({ sets [(PAIR.BUF_LEN_LOG2 7, 1), (PAIR.BUF_WR_WR 7, 1), (PAIR.BUF_RD_RD 7, 0), (PAIR.BUF_BASE_ADDR 7, 0x20000000 / 64), (MPU.REG_LIMIT_EN 0, 1), (MPU.REG_LIMIT_DMA_W 0, 1), (MPU.REG_LIMIT_LIMIT 0, 0xFFFFF)] with adcs := [(7, { bufQ := [5] })] } : State), (((({ sets [(PAIR.BUF_LEN_LOG2 7, 1), (PAIR.BUF_WR_WR 7, 1), (PAIR.BUF_RD_RD 7, 0), (PAIR.BUF_BASE_ADDR 7, 0x20000000 / 64), (MPU.REG_LIMIT_EN 0, 1), (MPU.REG_LIMIT_DMA_W 0, 1), (MPU.REG_LIMIT_LIMIT 0, 0xFFFFF)] with adcs := [(7, { bufQ := [5] })] } : State).setPair (7 : Fin 8) { ({ sets [(PAIR.BUF_LEN_LOG2 7, 1), (PAIR.BUF_WR_WR 7, 1), (PAIR.BUF_RD_RD 7, 0), (PAIR.BUF_BASE_ADDR 7, 0x20000000 / 64), (MPU.REG_LIMIT_EN 0, 1), (MPU.REG_LIMIT_DMA_W 0, 1), (MPU.REG_LIMIT_LIMIT 0, 0xFFFFF)] with adcs := [(7, { bufQ := [5] })] } : State).pair (7 : Fin 8) with bufQ := ([] : List Word) }).dmaWrite (({ sets [(PAIR.BUF_LEN_LOG2 7, 1), (PAIR.BUF_WR_WR 7, 1), (PAIR.BUF_RD_RD 7, 0), (PAIR.BUF_BASE_ADDR 7, 0x20000000 / 64), (MPU.REG_LIMIT_EN 0, 1), (MPU.REG_LIMIT_DMA_W 0, 1), (MPU.REG_LIMIT_LIMIT 0, 0xFFFFF)] with adcs := [(7, { bufQ := [5] })] } : State).get (PAIR.PCFG_DMA_CH (7 : Fin 8))) (({ sets [(PAIR.BUF_LEN_LOG2 7, 1), (PAIR.BUF_WR_WR 7, 1), (PAIR.BUF_RD_RD 7, 0), (PAIR.BUF_BASE_ADDR 7, 0x20000000 / 64), (MPU.REG_LIMIT_EN 0, 1), (MPU.REG_LIMIT_DMA_W 0, 1), (MPU.REG_LIMIT_LIMIT 0, 0xFFFFF)] with adcs := [(7, { bufQ := [5] })] } : State).get (PAIR.BUF_BASE_ADDR (7 : Fin 8)) * 64 + 4 * (1 : Nat)) (leBytes 4 (if ((1 : Nat) + 1) % (2 : Nat) = (0 : Nat) then (5 : Word) ||| adcOvr else (5 : Word)).toNat)).2 : State), (2 : Nat), (1 : Nat), (0 : Nat), by decide +kernel⟩⟩

/-! ### Trestle fabric, station time and Settle pairs (R308–R341) -/

theorem test_meets_TrestleLanesAndFabric :
    (∃ (k : Fin 8) (s : State), (s.takes TRL.page) ∧ ((s.get TRL.CFG_LANE_EN).testBit k = false))
    ∧ (∃ (k : Fin 8) (s : State), (s.tl k = tlLOCK) ∧ ((s.tlane k).hdr.lock = false) ∧ ((s.tlane k).hdr.run = 63))
    ∧ (∃ (k : Fin 8) (r : Nat) (u : Nat) (d : Nat) (m : NbrMsg) (s : State), (s.tl k = tlNBR) ∧ (s.get MOD.TB_STAT_LOCK = 1) ∧ ((s.tlane k).msg = some m) ∧ ((s.tlane k).replies = List.replicate 63 (r, u)) ∧ (r = u + 2 * d) ∧ (r ≤ 320000) ∧ (d < 65536) ∧ ((SMap.get (fun _ => none) s.trl.tx k).isSome = true))
    ∧ (∃ (k : Fin 8) (m : NbrMsg) (s : State), (s.tl k = tlNBR))
    ∧ (∃ (k : Fin 8) (s : State), (s.tl k = tlUP) ∧ ((s.on STL.CFG_EN && s.get STL.CFG_MLANE == k.val) = false) ∧ ((s.tlane k).hdr.lock = true) ∧ (((s.tlane k).hdr.hist.take 63).count false = 15))
    ∧ (∃ (k : Fin 8) (s : State), (s.tl k = tlUP ∨ (s.tl k = tlNBR ∧ (s.tlane k).msg = none)))
    ∧ (∃ (k : Fin 8) (s : State), (s.tl k ≠ tlUP) ∧ (s.tl k ≠ tlNBR))
    ∧ (∃ (k : Fin 8) (m : NbrMsg) (s : State), (s.tl k = tlUP))
    ∧ (∃ (k : Fin 8) (m : NbrMsg) (s : State), (s.tl k ≠ tlUP))
    ∧ (∃ (m : NbrMsg) (s : State), (s.trl.join = some m) ∧ (s.mustStep m = true) ∧ (s.armed = true) ∧ (s.on TRL.ID_JOIN_ARMED = false))
    ∧ (∃ (m : NbrMsg) (s : State), (s.trl.join = some m) ∧ (s.mustStep m = true) ∧ (s.armed = false))
    ∧ (∃ (m : NbrMsg) (s : State), (s.trl.join = some m) ∧ (s.mustStep m = false) ∧ (s.get TRL.ID_ADMIT = 0 ∨ m.rootUid ≠ s.ruid))
    ∧ (∃ (s : State), (s.takes TRL.page) ∧ (s.trl.redisc = none))
    ∧ (∃ (r : Redisc) (s : State), (s.straps.uid < 2 ^ 64) ∧ (s.straps.slot < 16) ∧ (s.on TRL.CFG_ADDR_MODE = false) ∧ (s.on TRL.ID_JOIN_ARMED = false) ∧ (∀ m ∈ r.mods, m.1 < 2 ^ 64 ∧ ∀ a ∈ m.2, a < 16) ∧ (∃ m ∈ r.mods, m.2 = some s.straps.slot ∧ m.1 < s.straps.uid))
    ∧ (∃ (r : Redisc) (s : State), (s.straps.uid < 2 ^ 64) ∧ (s.straps.slot < 16) ∧ (s.on TRL.CFG_ADDR_MODE = false) ∧ (s.on TRL.ID_JOIN_ARMED = false) ∧ (∀ m ∈ r.mods, m.1 < 2 ^ 64 ∧ ∀ a ∈ m.2, a < 16) ∧ (∀ m ∈ r.mods, m.2 = some s.straps.slot → s.straps.uid ≤ m.1))
    ∧ (∃ (r : Redisc) (s : State), (s.on TRL.CFG_ADDR_MODE = true) ∧ (s.on TRL.ID_JOIN_ARMED = false) ∧ (s.straps.uid < 2 ^ 64) ∧ (∃ m ∈ r.mods, m.1 < s.straps.uid) ∧ (r.assign < 16))
    ∧ (∃ (r : Redisc) (s : State), (s.on TRL.CFG_ADDR_MODE = true) ∧ (s.on TRL.ID_JOIN_ARMED = false) ∧ (s.straps.uid < 2 ^ 64) ∧ (∀ m ∈ r.mods, s.straps.uid ≤ m.1) ∧ (s.get TRL.ID_ADMIT = 1))
    ∧ (∃ (used : List Nat) (b : Nat), (∃ a < 16, a ∉ used) ∧ (b < freeAddr used))
    ∧ (∃ (l : List (Nat × Nat)) (q : Nat × Nat) (p : Nat × Nat), (bestPath l = some q) ∧ (p ∈ l))
    ∧ (∃ (s : State) (a : Nat) (h : Nat) (l : Nat) (ps : List (Nat × Nat)), (a < 16) ∧ (l < 8) ∧ (h < 16) ∧ (bestPath ps = some (h, l)) ∧ (∀ p ∈ ps, p.2 < 8))
    ∧ (∃ (s : State) (k : Fin 8), (s.isRoot = false) ∧ (s.tl k = tlUP) ∧ (s.on (TRL.LN_STAT_UPSTREAM k) = true) ∧ (s.on STL.CFG_EN = false) ∧ (s.on TBS.TSTAT_HOLDOVER = false)) :=
  ⟨⟨(0 : Fin 8), (State.reset : State), by simp only [State.takes]; decide +kernel⟩,
    ⟨(7 : Fin 8), ({ sets [(TRL.LN_STAT_STATE (7 : Fin 8), tlLOCK)] with trl := { lanes := [(7, { hdr := { run := 63 } })] } } : State), by decide +kernel⟩,
    ⟨(7 : Fin 8), (15 : Nat), (5 : Nat), (5 : Nat), ({ NBR0 with admitted := false } : NbrMsg), ({ sets [(TRL.LN_STAT_STATE (7 : Fin 8), tlNBR), (MOD.TB_STAT_LOCK, 1)] with trl := { lanes := [(7, { msg := some { NBR0 with admitted := false }, replies := List.replicate 63 (15, 5) })], tx := [(7, some NBR0)] } } : State), by decide +kernel⟩,
    ⟨(0 : Fin 8), (NBR0 : NbrMsg), (sets [(TRL.LN_STAT_STATE (0 : Fin 8), tlNBR)] : State), by decide +kernel⟩,
    ⟨(7 : Fin 8), ({ sets [(TRL.LN_STAT_STATE (7 : Fin 8), tlUP)] with trl := { lanes := [(7, { hdr := { lock := true, hist := List.replicate 15 false ++ List.replicate 49 true } })] } } : State), by decide +kernel⟩,
    ⟨(0 : Fin 8), (sets [(TRL.LN_STAT_STATE (0 : Fin 8), tlUP)] : State), by decide +kernel⟩,
    ⟨(0 : Fin 8), (State.reset : State), by decide +kernel⟩,
    ⟨(7 : Fin 8), (NBR0 : NbrMsg), (sets [(TRL.LN_STAT_STATE (7 : Fin 8), tlUP)] : State), by decide +kernel⟩,
    ⟨(7 : Fin 8), (NBR0 : NbrMsg), (sets [(TRL.LN_STAT_STATE 7, 1)] : State), by decide +kernel⟩,
    ⟨({ NBR0 with period := 3000 } : NbrMsg), ({ sets [(PWR.STAT_ARMED, 1), (TRL.ID_JOIN_ARMED, 0)] with trl := { join := some { NBR0 with period := 3000 } } } : State), by decide +kernel⟩,
    ⟨({ NBR0 with period := 3000 } : NbrMsg), ({ State.reset with trl := { join := some { NBR0 with period := 3000 } } } : State), by decide +kernel⟩,
    ⟨(NBR0 : NbrMsg), ({ sets [(TRL.ID_ADMIT, 0)] with trl := { join := some NBR0 } } : State), by decide +kernel⟩,
    ⟨(State.reset : State), by simp only [State.takes]; decide +kernel⟩,
    ⟨({ mods := [(5, some 15)], assign := 0, paths := [] } : Redisc), ({ sets [(TRL.CFG_ADDR_MODE, 0), (TRL.ID_JOIN_ARMED, 0)] with straps := { strapsReset with slot := 15, uid := 2 ^ 64 - 1 } } : State), by decide +kernel⟩,
    ⟨({ mods := [(2 ^ 64 - 1, some 15)], assign := 0, paths := [] } : Redisc), ({ sets [(TRL.CFG_ADDR_MODE, 0), (TRL.ID_JOIN_ARMED, 0)] with straps := { strapsReset with slot := 15, uid := 5 } } : State), by decide +kernel⟩,
    ⟨({ mods := [(5, none)], assign := 9, paths := [] } : Redisc), ({ sets [(TRL.CFG_ADDR_MODE, 1), (TRL.ID_JOIN_ARMED, 0)] with straps := { strapsReset with uid := 6 } } : State), by decide +kernel⟩,
    ⟨({ mods := [(5, none)], assign := 9, paths := [] } : Redisc), ({ sets [(TRL.CFG_ADDR_MODE, 1), (TRL.ID_JOIN_ARMED, 0), (TRL.ID_ADMIT, 1)] with straps := { strapsReset with uid := 5 } } : State), by decide +kernel⟩,
    ⟨([0, 1, 2, 5] : List Nat), (1 : Nat), by decide +kernel⟩,
    ⟨([(1, 7)] : List (Nat × Nat)), ((1, 7) : Nat × Nat), ((1, 7) : Nat × Nat), by decide +kernel⟩,
    ⟨(State.reset : State), (15 : Nat), (15 : Nat), (7 : Nat), ([(15, 7)] : List (Nat × Nat)), by decide +kernel⟩,
    ⟨(sets [(TBS.TSTAT_ROLE, 1), (TRL.LN_STAT_STATE (0 : Fin 8), tlUP), ((TRL.LN_STAT_UPSTREAM (0 : Fin 8)), 1), (STL.CFG_EN, 0), (TBS.TSTAT_HOLDOVER, 0)] : State), (0 : Fin 8), by decide +kernel⟩⟩

theorem test_meets_FlowValuesAndStationTime :
    (∃ (f : Fin 64) (v : Word) (k : Nat) (s : State), (s.flowOn f false = false ∨ s.nbrOnly = true))
    ∧ (∃ (f : Fin 64) (v : Word) (k : Nat) (s : State), (s.flowOn f false = true) ∧ (s.nbrOnly = false) ∧ (s.pidx = k + 1 ∧ s.window = 0 ∨ s.pidx ≤ k))
    ∧ (∃ (f : Fin 64) (v : Word) (k : Nat) (s : State), (s.flowOn f false = true) ∧ (s.nbrOnly = false) ∧ (k + 1 < s.pidx ∨ s.pidx = k + 1 ∧ s.window ≠ 0))
    ∧ (∃ (f : Fin 61) (s : State), (s.flowOn f false = true) ∧ (s.trl.got.testBit f = false))
    ∧ (∃ (k : Fin 8) (s : State), (s.tl k = tlUP) ∧ (s.on (TRL.LN_STAT_UPSTREAM k) = false) ∧ (s.nbrOnly = false))
    ∧ (∃ (k : Fin 8) (st : Nat) (rate : Int) (ps : Int) (s : State), (s.tl k = tlUP) ∧ (s.on (TRL.LN_STAT_UPSTREAM k) = true) ∧ (s.isRoot = false) ∧ (s.nbrOnly = false) ∧ ((s.stAt s.now - ((st + s.get (TRL.LN_STAT_D k) * tFine : Nat) : Int)) * 25 = 24 * ps) ∧ (-32768 ≤ ps) ∧ (ps ≤ 32767))
    ∧ (∃ (k : Fin 8) (st : Nat) (rate : Int) (s : State), (s.tl k ≠ tlUP ∨ s.on (TRL.LN_STAT_UPSTREAM k) = false ∨ s.isRoot = true ∨ s.nbrOnly = true))
    ∧ (∃ (s : State), (s.trl.marks = 1000 ∨ s.isRoot = true))
    ∧ (∃ (s : State), (s.trl.marks < 1000) ∧ (s.isRoot = false))
    ∧ (∃ (h : Nat) (s : State), (s.trl.holdAt = some h))
    ∧ (∃ (s : State), (s.takes TBS.page) ∧ ((s.stAt s.now).toNat < 2 ^ 48 * 1000000000 * 960) ∧ (s.pidx < 2 ^ 64))
    ∧ (∃ (s : State), (s.takes TBS.page) ∧ (s.armed = true ∨ s.nbrArmed 2 = true))
    ∧ (∃ (s : State), (s.takes TBS.page) ∧ (s.armed = false) ∧ (s.nbrArmed 2 = false) ∧ (s.isRoot = false))
    ∧ (∃ (s : State), (s.takes TBS.page) ∧ (s.armed = false) ∧ (s.nbrArmed 2 = false) ∧ (s.isRoot = true) ∧ (s.get TBS.SET_NS_NS < 1000000000) ∧ (s.get TBS.SET_SEC0_SEC_LO < 4294967295)) :=
  ⟨⟨(60 : Fin 64), (0 : Word), (0 : Nat), (State.reset : State), by decide +kernel⟩,
    ⟨(60 : Fin 64), (0 : Word), (4 : Nat), ({ sets [(TRL.FCFG_EN 60, 1)] with pidx := 5, window := 0 } : State), by decide +kernel⟩,
    ⟨(60 : Fin 64), (0 : Word), (4 : Nat), ({ sets [(TRL.FCFG_EN 60, 1)] with pidx := 5, window := 1 } : State), by decide +kernel⟩,
    ⟨(60 : Fin 61), (sets [(TRL.FCFG_EN 60, 1)] : State), by decide +kernel⟩,
    ⟨(0 : Fin 8), (sets [(TRL.LN_STAT_STATE (0 : Fin 8), tlUP), ((TRL.LN_STAT_UPSTREAM (0 : Fin 8)), 0)] : State), by decide +kernel⟩,
    ⟨(0 : Fin 8), ((((sets [(TRL.LN_STAT_STATE (0 : Fin 8), tlUP), ((TRL.LN_STAT_UPSTREAM (0 : Fin 8)), 1), (TBS.TSTAT_ROLE, 1)] : State).stAt (sets [(TRL.LN_STAT_STATE (0 : Fin 8), tlUP), ((TRL.LN_STAT_UPSTREAM (0 : Fin 8)), 1), (TBS.TSTAT_ROLE, 1)] : State).now).toNat - (sets [(TRL.LN_STAT_STATE (0 : Fin 8), tlUP), ((TRL.LN_STAT_UPSTREAM (0 : Fin 8)), 1), (TBS.TSTAT_ROLE, 1)] : State).get (TRL.LN_STAT_D (0 : Fin 8)) * tFine) : Nat), (70000 : Int), (0 : Int), (sets [(TRL.LN_STAT_STATE (0 : Fin 8), tlUP), ((TRL.LN_STAT_UPSTREAM (0 : Fin 8)), 1), (TBS.TSTAT_ROLE, 1)] : State), by decide +kernel⟩,
    ⟨(0 : Fin 8), (0 : Nat), (0 : Int), (State.reset : State), by decide +kernel⟩,
    ⟨({ State.reset with trl := { marks := 1000 } } : State), by decide +kernel⟩,
    ⟨(sets [(TBS.TSTAT_ROLE, 1)] : State), by decide +kernel⟩,
    ⟨(9 : Nat), ({ State.reset with trl := { holdAt := some 9 } } : State), by decide +kernel⟩,
    ⟨(State.reset : State), by simp only [State.takes]; decide +kernel⟩,
    ⟨(sets [(PWR.STAT_ARMED, 1)] : State), by simp only [State.takes]; decide +kernel⟩,
    ⟨(sets [(TBS.TSTAT_ROLE, 1)] : State), by simp only [State.takes]; decide +kernel⟩,
    ⟨(State.reset : State), by simp only [State.takes]; decide +kernel⟩⟩

theorem test_meets_SettleEnableAndHandover :
    (∃ (v : Word) (s : State), (s.takes STL.page) ∧ (s.locked STL.page = false) ∧ (s.on STL.CFG_EN = false) ∧ (1 ≤ getBits v 16 10) ∧ (getBits v 16 10 ≤ 600) ∧ (v ||| 1 = v) ∧ (getBits v 5 4 = s.get TRL.ID_ADDR))
    ∧ (∃ (v : Word) (s : State), (s.takes STL.page) ∧ (s.locked STL.page = false) ∧ (s.on STL.CFG_EN = false) ∧ (1 ≤ getBits v 16 10) ∧ (getBits v 16 10 ≤ 600) ∧ (v ||| 1 = v) ∧ (getBits v 5 4 ≠ s.get TRL.ID_ADDR) ∧ (s.tl (getBits v 2 3) = tlUP) ∧ (s.get (TRL.LN_STAT_PEER_ADDR (getBits v 2 3)) = getBits v 5 4) ∧ (s.get STL.BUDGET_BUDGET < s.mlUsed))
    ∧ (∃ (v : Word) (s : State), (s.takes STL.page) ∧ (s.locked STL.page = false) ∧ (s.on STL.CFG_EN = false) ∧ (1 ≤ getBits v 16 10) ∧ (getBits v 16 10 ≤ 600) ∧ (v ||| 1 = v) ∧ (getBits v 5 4 ≠ s.get TRL.ID_ADDR) ∧ (s.tl (getBits v 2 3) = tlUP) ∧ (s.get (TRL.LN_STAT_PEER_ADDR (getBits v 2 3)) = getBits v 5 4) ∧ (s.mlUsed ≤ s.get STL.BUDGET_BUDGET) ∧ (s.on STL.STAT_PARTNER_HELD = false) ∧ (s.nbrOf (getBits v 2 3) = none))
    ∧ (∃ (r : Nat) (s : State), (s.on STL.CFG_EN = true) ∧ (s.on STL.STAT_OWN_HELD = true) ∧ (s.on STL.STAT_PARTNER_HELD = false) ∧ (s.on STL.STAT_DRIVE = false) ∧ (s.stl.relSince = some r))
    ∧ (∃ (s : State), (s.on STL.CFG_EN = true) ∧ (s.on STL.STAT_OWN_HELD = false ∨ s.on STL.STAT_PARTNER_HELD = true))
    ∧ (∃ (s : State), (s.get STL.STAT_STATE = stlSTANDBY ∨ s.get STL.STAT_STATE = stlRETURN) ∧ (s.on STL.STAT_OWN_HELD = false))
    ∧ (∃ (s : State), (s.get STL.STAT_STATE = stlSYNCING) ∧ (s.on STL.CFG_PREF = false))
    ∧ (∃ (s : State), (s.on STL.STAT_OWN_HELD = true) ∧ (s.now ≤ s.stl.ownAt + 200 * tNs))
    ∧ (∃ (s : State), (s.on STL.STAT_OWN_HELD = true) ∧ (s.stl.ownAt + 200 * tNs < s.now))
    ∧ (∃ (s : State), (s.get STL.TMO_KEEP_TMO ≠ 0) ∧ (s.get STL.TMO_KEEP_TMO ≤ s.stl.keepN) ∧ (s.on STL.STAT_OWN_HELD = true))
    ∧ (∃ (s : State), (s.get STL.TMO_KEEP_TMO = 0 ∨ s.stl.keepN < s.get STL.TMO_KEEP_TMO))
    ∧ (∃ (s : State), (s.takes STL.page) ∧ (s.get STL.STAT_STATE = stlACTIVE) ∧ (s.partnerIn [stlSTANDBY, stlRETURN] = true) ∧ (s.stl.rel = none))
    ∧ (∃ (s : State), (s.takes STL.page) ∧ (s.get STL.STAT_STATE = stlACTIVE) ∧ (s.partnerIn [stlSTANDBY, stlRETURN] = false))
    ∧ (∃ (s : State) (e : Nat), (s.takes STL.page) ∧ (s.get STL.STAT_STATE = stlRETURN) ∧ (s.on STL.CFG_AUTO_RET = true) ∧ (s.stl.holdEnd = some e))
    ∧ (∃ (s : State), (s.takes STL.page) ∧ (s.get STL.STAT_STATE ≠ stlRETURN))
    ∧ (∃ (s : State), (s.takes STL.page) ∧ (s.get STL.STAT_STATE = stlSTANDBY))
    ∧ (∃ (s : State), (s.get STL.STAT_STATE = stlACTIVE) ∧ (s.stl.agreed = some s.pidx) ∧ (s.on STL.STAT_OWN_HELD = true) ∧ (s.stl.rel.map (·.1) ≠ some 5) ∧ (6 ≤ s.stl.agreedFor))
    ∧ (∃ (p : Nat) (s : State), (s.stl.agreed = some p) ∧ (s.stl.gave = true) ∧ (s.pidx = p + 1) ∧ (s.on STL.STAT_PARTNER_HELD = false))
    ∧ (∃ (k : Fin 3) (v : Nat) (s : State), (s.on STL.CFG_EN = false ∨ s.nbrOnly = true))
    ∧ (∃ (v : Nat) (s : State), (s.on STL.CFG_EN = true) ∧ (s.nbrOnly = false) ∧ (s.get STL.STAT_STATE ≠ stlACTIVE) ∧ (s.stl.late = false ∨ v % 8 ≠ 4))
    ∧ (∃ (v : Nat) (s : State), (s.on STL.CFG_EN = true) ∧ (s.nbrOnly = false) ∧ (s.get STL.STAT_STATE = stlACTIVE) ∧ (s.get STL.SWO_CAUSE = 0) ∧ (s.stl.late = false ∨ v % 8 ≠ 4))
    ∧ (∃ (v : Nat) (s : State) (t0 : Nat) (p : Nat) (cold : Bool), (s.on STL.CFG_EN = true) ∧ (s.nbrOnly = false) ∧ (s.stl.late = true) ∧ (v % 8 = 4) ∧ (s.get STL.STAT_STATE ≠ stlACTIVE) ∧ (s.stl.claim = some (t0, cold, p))) :=
  ⟨⟨(0x02580001 : Word), (sets [(STL.CFG_EN, 0)] : State), by simp only [State.takes]; decide +kernel⟩,
    ⟨(0x00010021 : Word), (sets [(STL.CFG_EN, 0), (TRL.LN_STAT_STATE (getBits (0x00010021 : Word) 2 3), tlUP), ((TRL.LN_STAT_PEER_ADDR (getBits (0x00010021 : Word) 2 3)), getBits (0x00010021 : Word) 5 4), (TRL.LN_STAT_STATE 0, tlUP), (TRL.LN_STAT_PEER_ADDR 0, 1), (STL.BUDGET_BUDGET, 0)] : State), by simp only [State.takes]; decide +kernel⟩,
    ⟨(0x00010021 : Word), (sets [(STL.CFG_EN, 0), (TRL.LN_STAT_STATE (getBits (0x00010021 : Word) 2 3), tlUP), ((TRL.LN_STAT_PEER_ADDR (getBits (0x00010021 : Word) 2 3)), getBits (0x00010021 : Word) 5 4), (STL.STAT_PARTNER_HELD, 0), (TRL.LN_STAT_STATE 0, tlUP), (TRL.LN_STAT_PEER_ADDR 0, 1), (STL.BUDGET_BUDGET, 256)] : State), by simp only [State.takes]; decide +kernel⟩,
    ⟨(0 : Nat), (sets [(STL.CFG_EN, 1), (STL.STAT_OWN_HELD, 1), (STL.STAT_PARTNER_HELD, 0), (STL.STAT_DRIVE, 0)] : State), by decide +kernel⟩,
    ⟨(sets [(STL.CFG_EN, 1), (STL.STAT_OWN_HELD, 0)] : State), by decide +kernel⟩,
    ⟨(sets [(STL.STAT_STATE, stlSTANDBY), (STL.STAT_OWN_HELD, 0)] : State), by decide +kernel⟩,
    ⟨(sets [(STL.STAT_STATE, stlSYNCING), (STL.CFG_PREF, 0)] : State), by decide +kernel⟩,
    ⟨(sets [(STL.STAT_OWN_HELD, 1)] : State), by decide +kernel⟩,
    ⟨({ sets [(STL.STAT_OWN_HELD, 1)] with now := 200 * tNs + 1 } : State), by decide +kernel⟩,
    ⟨({ sets [(STL.TMO_KEEP_TMO, 1), (STL.STAT_OWN_HELD, 1), (STL.TMO_KEEP_TMO, 3)] with stl := { keepN := 3 } } : State), by decide +kernel⟩,
    ⟨(sets [(STL.TMO_KEEP_TMO, 0)] : State), by decide +kernel⟩,
    ⟨({ sets [(STL.STAT_STATE, stlACTIVE), (TRL.LN_STAT_STATE 0, tlUP), (STL.CFG_PARTNER, 1), (TRL.LN_STAT_PEER_ADDR 0, 1)] with trl := { nbr := [(0, some { NBR0 with stlEn := true, stlState := stlSTANDBY })] } } : State), by simp only [State.takes]; decide +kernel⟩,
    ⟨(sets [(STL.STAT_STATE, stlACTIVE)] : State), by simp only [State.takes]; decide +kernel⟩,
    ⟨({ sets [(STL.STAT_STATE, stlRETURN), (STL.CFG_AUTO_RET, 1)] with stl := { holdEnd := some 9 } } : State), (9 : Nat), by simp only [State.takes]; decide +kernel⟩,
    ⟨(State.reset : State), by simp only [State.takes]; decide +kernel⟩,
    ⟨(sets [(STL.STAT_STATE, stlSTANDBY)] : State), by simp only [State.takes]; decide +kernel⟩,
    ⟨({ sets [(STL.STAT_STATE, stlACTIVE), (STL.STAT_OWN_HELD, 1)] with pidx := 5, stl := { agreed := some 5, agreedFor := 6 } } : State), by decide +kernel⟩,
    ⟨(4 : Nat), ({ sets [(STL.STAT_PARTNER_HELD, 0)] with pidx := 5, stl := { agreed := some 4, gave := true } } : State), by decide +kernel⟩,
    ⟨(0 : Fin 3), (0 : Nat), (sets [(STL.CFG_EN, 0)] : State), by decide +kernel⟩,
    ⟨(0 : Nat), (sets [(STL.CFG_EN, 1)] : State), by decide +kernel⟩,
    ⟨(0 : Nat), (sets [(STL.CFG_EN, 1), (STL.STAT_STATE, stlACTIVE), (STL.SWO_CAUSE, 0)] : State), by decide +kernel⟩,
    ⟨(12 : Nat), ({ sets [(STL.CFG_EN, 1)] with stl := { claim := some (9, true, 3), late := true } } : State), (9 : Nat), (3 : Nat), (true : Bool), by decide +kernel⟩⟩

theorem test_meets_SettleTakeoverAndMirror :
    (∃ (t0 : Nat) (c : Nat) (cold : Bool) (s : State), (s.stl.claim = some (t0, cold, c)) ∧ (s.bndAt < t0 + 400 * tNs ∨ s.on STL.STAT_DRIVE = false))
    ∧ (∃ (t0 : Nat) (c : Nat) (cold : Bool) (s : State), (s.stl.claim = some (t0, cold, c)) ∧ (t0 + 400 * tNs ≤ s.bndAt) ∧ (s.on STL.STAT_DRIVE = true) ∧ (s.on STL.CFG_EN = true) ∧ (s.prefClash = false))
    ∧ (∃ (s : State), (s.stl.claim = none))
    ∧ (∃ (r : Nat) (s : State), (s.stl.relSince = some r) ∧ (s.on STL.CFG_EN = true) ∧ (s.on STL.CFG_PREF = false) ∧ (s.get STL.STAT_STATE = stlALONE) ∧ (s.on STL.STAT_PARTNER_HELD = false) ∧ (s.stl.claim = none))
    ∧ (∃ (s : State), (s.get STL.STAT_STATE = stlSTANDBY) ∧ (s.on STL.STAT_PARTNER_HELD = true))
    ∧ (∃ (s : State), (s.get STL.STAT_STATE = stlACTIVE))
    ∧ (∃ (m : MirrorSet) (s : State), (s.latches.isEmpty = true) ∧ (m.latches = 0) ∧ (m.flags = 0))
    ∧ (∃ (m : MirrorSet) (s : State), (s.on STL.CFG_EN = true) ∧ (s.mlaneUp = true) ∧ (s.nbrOnly = false) ∧ (s.get STL.STAT_STATE = stlSYNCING) ∧ (m.pidx = s.pidx ∨ m.pidx + 1 = s.pidx ∧ s.window = 0) ∧ (s.armed = true) ∧ (s.mlist = []) ∧ (m.crcs = []) ∧ (m.cells = []) ∧ (m.stks = []))
    ∧ (∃ (m : MirrorSet) (s : State), (s.on STL.CFG_EN = true) ∧ (s.mlaneUp = true) ∧ (s.nbrOnly = false) ∧ (s.get STL.STAT_STATE = stlSTANDBY) ∧ (m.pidx + 1 < s.pidx ∨ m.pidx + 1 = s.pidx ∧ s.window ≠ 0) ∧ (s.get STL.STAT_PARTNER_HELD = 0))
    ∧ (∃ (m : MirrorSet) (s : State), (s.on STL.CFG_EN = true) ∧ (s.mlaneUp = true) ∧ (s.nbrOnly = false) ∧ (s.get STL.STAT_STATE = stlSTANDBY) ∧ (m.pidx + 1 < s.pidx ∨ m.pidx + 1 = s.pidx ∧ s.window ≠ 0) ∧ (s.get STL.STAT_PARTNER_HELD = 1))
    ∧ (∃ (s : State), (s.on STL.CFG_EN = true) ∧ (s.get STL.STAT_STATE = stlSTANDBY) ∧ (s.get STL.STAT_PARTNER_HELD = 1) ∧ (s.stl.got = true))
    ∧ (∃ (s : State), (s.on STL.CFG_EN = true) ∧ (s.get STL.STAT_STATE = stlSTANDBY) ∧ (s.get STL.STAT_PARTNER_HELD = 1) ∧ (s.stl.got = false))
    ∧ (∃ (m : MirrorSet) (s : State), (s.get STL.STAT_STATE = stlACTIVE))
    ∧ (∃ (m : MirrorSet) (s : State) (n : Fin 48) (c : MirCell), (s.mlist = []) ∧ (m.stks = []) ∧ (m.cells[n.val]? = some c))
    ∧ (∃ (s : State), (s.get STL.STAT_STATE = stlSTANDBY) ∧ (8 ≤ s.stl.miss ∨ s.mlaneUp = false ∨ s.armed = false))
    ∧ (∃ (s : State), (s.get STL.STAT_STATE = stlSTANDBY) ∧ (s.stl.miss < 8) ∧ (s.mlaneUp = true) ∧ (s.armed = true))
    ∧ (∃ (d : Word) (s : State), (s.on STL.CFG_EN = true) ∧ (s.nbrOnly = false) ∧ (d ≠ s.cfgDigest) ∧ (s.stl.diff = 2))
    ∧ (∃ (d : Word) (s : State), (s.on STL.CFG_EN = true) ∧ (s.nbrOnly = false) ∧ (d ≠ s.cfgDigest) ∧ (s.stl.diff < 2))
    ∧ (∃ (d : Word) (s : State), (s.on STL.CFG_EN = true) ∧ (s.nbrOnly = false) ∧ (d = s.cfgDigest)) :=
  ⟨⟨(9 : Nat), (0 : Nat), (false : Bool), ({ State.reset with stl := { claim := some (9, false, 0) } } : State), by decide +kernel⟩,
    ⟨(0 : Nat), (0 : Nat), (false : Bool), ({ sets [(STL.STAT_DRIVE, 1), (STL.CFG_EN, 1)] with bndAt := 400 * tNs, stl := { claim := some (0, false, 0) } } : State), by decide +kernel⟩,
    ⟨(State.reset : State), by decide +kernel⟩,
    ⟨(0 : Nat), (sets [(STL.CFG_EN, 1), (STL.CFG_PREF, 0), (STL.STAT_STATE, stlALONE), (STL.STAT_PARTNER_HELD, 0)] : State), by decide +kernel⟩,
    ⟨(sets [(STL.STAT_STATE, stlSTANDBY), (STL.STAT_PARTNER_HELD, 1)] : State), by decide +kernel⟩,
    ⟨(sets [(STL.STAT_STATE, stlACTIVE)] : State), by decide +kernel⟩,
    ⟨({ pidx := 0, ctxs := [], cells := [], stks := [], flags := 0, latches := 0, firstSrc := 0, firstPidx := 0, crcs := [], lanes := 0 } : MirrorSet), (State.reset : State), by decide +kernel⟩,
    ⟨({ pidx := 4, ctxs := [], cells := [], stks := [], flags := 0, latches := 0, firstSrc := 0, firstPidx := 0, crcs := [], lanes := 0 } : MirrorSet), ({ sets [(STL.CFG_EN, 1), (STL.STAT_STATE, stlSYNCING), (PWR.STAT_ARMED, 1), (TRL.LN_STAT_STATE 0, tlUP), (STL.CFG_PARTNER, 1), (TRL.LN_STAT_PEER_ADDR 0, 1)] with pidx := 5 } : State), by decide +kernel⟩,
    ⟨({ pidx := 4, ctxs := [], cells := [], stks := [], flags := 0, latches := 0, firstSrc := 0, firstPidx := 0, crcs := [], lanes := 0 } : MirrorSet), ({ sets [(STL.CFG_EN, 1), (STL.STAT_STATE, stlSTANDBY), (STL.STAT_PARTNER_HELD, 0), (TRL.LN_STAT_STATE 0, tlUP), (STL.CFG_PARTNER, 1), (TRL.LN_STAT_PEER_ADDR 0, 1)] with pidx := 5, window := 1 } : State), by decide +kernel⟩,
    ⟨({ pidx := 4, ctxs := [], cells := [], stks := [], flags := 0, latches := 0, firstSrc := 0, firstPidx := 0, crcs := [], lanes := 0 } : MirrorSet), ({ sets [(STL.CFG_EN, 1), (STL.STAT_STATE, stlSTANDBY), (STL.STAT_PARTNER_HELD, 1), (TRL.LN_STAT_STATE 0, tlUP), (STL.CFG_PARTNER, 1), (TRL.LN_STAT_PEER_ADDR 0, 1)] with pidx := 5, window := 1 } : State), by decide +kernel⟩,
    ⟨({ sets [(STL.CFG_EN, 1), (STL.STAT_STATE, stlSTANDBY), (STL.STAT_PARTNER_HELD, 1)] with stl := { got := true } } : State), by decide +kernel⟩,
    ⟨(sets [(STL.CFG_EN, 1), (STL.STAT_STATE, stlSTANDBY), (STL.STAT_PARTNER_HELD, 1)] : State), by decide +kernel⟩,
    ⟨({ pidx := 0, ctxs := [], cells := [], stks := [], flags := 0, latches := 0, firstSrc := 0, firstPidx := 0, crcs := [], lanes := 0 } : MirrorSet), (sets [(STL.STAT_STATE, stlACTIVE)] : State), by decide +kernel⟩,
    ⟨({ pidx := 0, ctxs := [], cells := [⟨1, 0, 0, 0, false, 0, 0, false, 0⟩], stks := [], flags := 0, latches := 0, firstSrc := 0, firstPidx := 0, crcs := [], lanes := 0 } : MirrorSet), (State.reset : State), (0 : Fin 48), (⟨1, 0, 0, 0, false, 0, 0, false, 0⟩ : MirCell), by decide +kernel⟩,
    ⟨(sets [(STL.STAT_STATE, stlSTANDBY)] : State), by decide +kernel⟩,
    ⟨({ sets [(STL.STAT_STATE, stlSTANDBY), (PWR.STAT_ARMED, 1), (TRL.LN_STAT_STATE 0, tlUP), (STL.CFG_PARTNER, 1), (TRL.LN_STAT_PEER_ADDR 0, 1)] with stl := { miss := 7 } } : State), by decide +kernel⟩,
    ⟨(({ sets [(STL.CFG_EN, 1)] with stl := { diff := 2 } } : State).cfgDigest + 1 : Word), ({ sets [(STL.CFG_EN, 1)] with stl := { diff := 2 } } : State), by decide +kernel⟩,
    ⟨((sets [(STL.CFG_EN, 1)] : State).cfgDigest + 1 : Word), (sets [(STL.CFG_EN, 1)] : State), by decide +kernel⟩,
    ⟨((sets [(STL.CFG_EN, 1)] : State).cfgDigest : Word), (sets [(STL.CFG_EN, 1)] : State), by decide +kernel⟩⟩

/-! ### Safety functions and the Evisafe layer (R342–R372) -/

theorem test_meets_SafetyInputsAndFunctions :
    (∃ (a : BitVec 8 × BitVec 8) (b : BitVec 8 × BitVec 8) (srst : Bool) (s : State), (s.saf.stopped = false) ∧ (s.saf.checked = true) ∧ (s.saf.tp = List.replicate 4 none))
    ∧ (∃ (i : Fin 8) (k : Bool) (a : Nat) (b : Nat) (s : State), (s.get (SAF.SICFG_TYPE i) ≠ 0) ∧ (s.get (SAF.SICFG_FILT i) = 0) ∧ ((s.core k).disc.length = 8) ∧ (a.testBit i = s.runLevel i false) ∧ (b.testBit i = s.runLevel i true))
    ∧ (∃ (i : Fin 8) (k : Bool) (a : Nat) (b : Nat) (s : State), (s.get (SAF.SICFG_TYPE i) ≠ 0) ∧ (s.get (SAF.SICFG_FILT i) = 0) ∧ ((s.core k).disc.length = 8) ∧ (a.testBit i = s.runLevel i false) ∧ (b.testBit i ≠ s.runLevel i true) ∧ ((s.core k).disc.getD i none = none))
    ∧ (∃ (i : Fin 8) (old : List (Option Nat)) (s : State), (∀ j : Fin 8, j ≠ i → (s.disc j).isSome = (old.getD j none).isSome) ∧ (old.getD i none = none) ∧ ((s.disc i).isSome = true))
    ∧ (∃ (i : Fin 8) (old : List (Option Nat)) (s : State), (∀ j : Fin 8, j ≠ i → (s.disc j).isSome = (old.getD j none).isSome) ∧ (old.getD i none = none) ∧ (s.disc i = none))
    ∧ (∃ (i : Fin 8) (n : Nat) (s : State), (s.disc i = some n) ∧ (s.get (SAF.SICFG_T_D i) ≤ n) ∧ (s.saf.stopped = false))
    ∧ (∃ (i : Fin 8) (n : Nat) (s : State), (s.disc i = some n) ∧ (n < s.get (SAF.SICFG_T_D i)))
    ∧ (∃ (i : Fin 8) (s : State), (s.disc i = none))
    ∧ (∃ (s : State), (s.saf.stopped = false) ∧ (s.saf.checked = true) ∧ (s.saf.sm0 = s.saf.sm1) ∧ (s.get SAF.SO_STAT_CMD_A = s.get SAF.SO_STAT_CMD_B))
    ∧ (∃ (s : State), (s.saf.stopped = false) ∧ (s.saf.checked = true) ∧ (s.on SAF.STAT_LOCKOUT = false) ∧ (s.saf.xcmp.getD 0 0 = 2))
    ∧ (∃ (d : BitVec 20) (bad : Bool) (s : State), (s.saf.stopped = true))
    ∧ (∃ (k : Bool) (f : Fin 8) (s : State), (s.get (SAF.FN_W0_TYPE f) ≠ 0) ∧ (s.get (SAF.FN_W0_TYPE f) ≠ 3) ∧ ((s.core k).fn.length = 8) ∧ (s.fnDemand k f = true) ∧ (s.fnAt k f = 3))
    ∧ (∃ (k : Bool) (f : Fin 8) (s : State), (s.get (SAF.FN_W0_TYPE f) ≠ 0) ∧ (s.get (SAF.FN_W0_TYPE f) ≠ 3) ∧ ((s.core k).fn.length = 8) ∧ (s.fnDemand k f = false) ∧ (s.fnAt k f = 1))
    ∧ (∃ (k : Bool) (f : Fin 8) (s : State), (s.get (SAF.FN_W0_TYPE f) ≠ 0) ∧ (s.get (SAF.FN_W0_TYPE f) ≠ 3) ∧ ((s.core k).fn.length = 8) ∧ (s.fnDemand k f = false) ∧ (s.fnAt k f ≠ 1))
    ∧ (∃ (c : Nat) (i : Nat) (s : State), (c < 32) ∧ (i < 16) ∧ (s.on SAF.STAT_LOCKOUT = false))
    ∧ (∃ (c : Nat) (i : Nat) (s : State), (c < 32) ∧ (i < 16) ∧ (s.on SAF.STAT_LOCKOUT = true))
    ∧ (∃ (o : Fin 4) (k : Bool) (s : State) (f : Fin 8), (s.get (SAF.SOCFG_MODE o) = 1) ∧ ((s.core k).offT = List.replicate 8 none) ∧ ((s.get (SAF.FN_W0_SO f)).testBit o = true))
    ∧ (∃ (b : List Byte), (leNat b 0 4 ≠ 0x53505345 ∨ leNat b 4 2 ≠ 1 ∨ leNat b 6 2 ≠ 80 ∨ leNat b 336 4 ≠ crcSafe (b.take 336)))
    ∧ (∃ (s : State) (j : Nat), (s.saf.checked = false) ∧ (spsOk (s.norBytes 0x2000000 340) = false) ∧ (s.on SAF.STAT_LOCKOUT = false) ∧ (j < 80))
    ∧ (∃ (s : State) (f : Fin 8), (s.saf.checked = false) ∧ (spsOk (s.norBytes 0x2000000 340) = false) ∧ (s.on SAF.STAT_LOCKOUT = false))
    ∧ (∃ (s : State), (s.saf.checked = true)) :=
  ⟨⟨(0 : BitVec 8 × BitVec 8), (0 : BitVec 8 × BitVec 8), (false : Bool), ({ State.reset with saf := { checked := true } } : State), by decide +kernel⟩,
    ⟨(7 : Fin 8), (true : Bool), (128 : Nat), (128 : Nat), (sets [(SAF.SICFG_TYPE 7, 1)] : State), by decide +kernel⟩,
    ⟨(7 : Fin 8), (true : Bool), (128 : Nat), (0 : Nat), (sets [(SAF.SICFG_TYPE 7, 1)] : State), by decide +kernel⟩,
    ⟨(7 : Fin 8), ([] : List (Option Nat)), ({ State.reset with saf := { sm1 := { disc := [none, none, none, none, none, none, none, some 5] } } } : State), by decide +kernel⟩,
    ⟨(7 : Fin 8), ([] : List (Option Nat)), (State.reset : State), by decide +kernel⟩,
    ⟨(7 : Fin 8), (5 : Nat), ({ sets [(SAF.SICFG_T_D 7, 5)] with saf := { sm1 := { disc := [none, none, none, none, none, none, none, some 5] } } } : State), by decide +kernel⟩,
    ⟨(7 : Fin 8), (5 : Nat), ({ sets [(SAF.SICFG_T_D 7, 6)] with saf := { sm0 := { disc := [none, none, none, none, none, none, none, some 5] } } } : State), by decide +kernel⟩,
    ⟨(0 : Fin 8), (State.reset : State), by decide +kernel⟩,
    ⟨({ State.reset with saf := { checked := true } } : State), by decide +kernel⟩,
    ⟨({ sets [(SAF.STAT_LOCKOUT, 0), (SAF.STAT_LOCKOUT, 0)] with saf := { checked := true, xcmp := [2, 0, 0, 0, 0, 0, 0, 0, 0, 0, 0, 0, 0, 0, 0, 0, 0, 0, 0, 0] } } : State), by decide +kernel⟩,
    ⟨(0 : BitVec 20), (false : Bool), ({ State.reset with saf := { stopped := true } } : State), by decide +kernel⟩,
    ⟨(true : Bool), (7 : Fin 8), ({ sets [(SAF.FN_W0_TYPE 7, 2)] with saf := { sm1 := { askA := 255, fn := [0, 0, 0, 0, 0, 0, 0, 3] } } } : State), by decide +kernel⟩,
    ⟨(true : Bool), (7 : Fin 8), ({ sets [(SAF.FN_W0_TYPE 7, 2), (SAF.SICFG_TYPE 0, 1)] with saf := { sm1 := { askA := 0, askB := 0, fn := [0, 0, 0, 0, 0, 0, 0, 1] } } } : State), by decide +kernel⟩,
    ⟨(true : Bool), (7 : Fin 8), ({ sets [(SAF.FN_W0_TYPE 7, 2), (SAF.SICFG_TYPE 0, 1)] with saf := { sm1 := { askA := 0, askB := 0, fn := [0, 0, 0, 0, 0, 0, 0, 3] } } } : State), by decide +kernel⟩,
    ⟨(0 : Nat), (0 : Nat), (sets [(SAF.STAT_LOCKOUT, 0)] : State), by decide +kernel⟩,
    ⟨(0 : Nat), (0 : Nat), (sets [(SAF.STAT_LOCKOUT, 1)] : State), by decide +kernel⟩,
    ⟨(3 : Fin 4), (true : Bool), (sets [(SAF.SOCFG_MODE 3, 1), (SAF.FN_W0_SO 7, 15)] : State), (7 : Fin 8), by decide +kernel⟩,
    ⟨([] : List Byte), by decide +kernel⟩,
    ⟨(sets [(SAF.STAT_LOCKOUT, 0)] : State), (0 : Nat), by decide +kernel⟩,
    ⟨(sets [(SAF.STAT_LOCKOUT, 0)] : State), (0 : Fin 8), by decide +kernel⟩,
    ⟨({ State.reset with saf := { checked := true } } : State), by decide +kernel⟩⟩

theorem test_meets_TestPulsesResetAndEvisafe :
    (∃ (o : Fin 4) (b : Bool) (s : State), (s.saf.stopped = false) ∧ (s.soCmd o b = true) ∧ (s.saf.tp = List.replicate 4 none) ∧ (s.saf.tpDue.length = 8))
    ∧ (∃ (o : Fin 4) (b : Bool) (s : State), (s.soCmd o b = false))
    ∧ (∃ (o : Fin 4) (b : Bool) (x : BitVec 8) (y : BitVec 8) (s : State), (s.saf.tp.getD o none ≠ some b))
    ∧ (∃ (o : Fin 4) (b : Bool) (s : State), (s.saf.tp.getD o none = some b) ∧ (s.saf.tp.length = 4) ∧ (∀ i : Fin 8, s.get (SAF.SICFG_TPSRC i) ≠ o.val + 1) ∧ (s.on SAF.STAT_LOCKOUT = false))
    ∧ (∃ (q : Nat) (s : State), (s.saf.stopped = false) ∧ (s.saf.checked = true) ∧ (s.saf.srstHeld = false) ∧ (q < 200 ∨ 8000 < q))
    ∧ (∃ (q : Nat) (s : State), (s.saf.stopped = false) ∧ (s.saf.checked = true) ∧ (s.saf.srstHeld = false) ∧ (200 ≤ q) ∧ (q ≤ 8000) ∧ (s.on SAF.STAT_LOCKOUT = true) ∧ (s.safIdle = false ∨ s.lockHolds = true))
    ∧ (∃ (q : Nat) (s : State), (s.saf.stopped = false) ∧ (s.saf.checked = true) ∧ (s.saf.srstHeld = false) ∧ (200 ≤ q) ∧ (q ≤ 8000) ∧ (s.on SAF.STAT_LOCKOUT = true) ∧ (s.safIdle = true) ∧ (s.lockHolds = false))
    ∧ (∃ (q : Nat) (s : State) (i : Fin 8), (s.saf.stopped = false) ∧ (s.saf.checked = true) ∧ (s.saf.srstHeld = false) ∧ (200 ≤ q) ∧ (q ≤ 8000) ∧ (s.on SAF.STAT_LOCKOUT = false) ∧ ((s.disc i).isSome = true))
    ∧ (∃ (q : Nat) (s : State) (f : Fin 8), (s.saf.stopped = false) ∧ (s.saf.checked = true) ∧ (s.saf.srstHeld = false) ∧ (200 ≤ q) ∧ (q ≤ 8000) ∧ (s.on SAF.STAT_LOCKOUT = false) ∧ (∀ i, i < 8 → s.disc i = none) ∧ (∀ k, (s.core k).fn.length = 8 ∧ s.fnAt k f = 2 ∧ s.fnDemand k f = false))
    ∧ (∃ (k : Fin 16) (s : State), (s.saf.stopped = false) ∧ (s.on (SAF.ESC_W1_EN k) = true) ∧ ((s.escOf k).st = 0 ∨ (s.escOf k).st = 3))
    ∧ (∃ (k : Fin 16) (s : State), (s.saf.stopped = false) ∧ (s.on (SAF.ESC_W1_EN k) = true) ∧ ((s.escOf k).st = 1 ∨ (s.escOf k).st = 2))
    ∧ (∃ (k : Fin 16) (s : State), ((s.escOf k).st = 0 ∨ (s.escOf k).st = 3))
    ∧ (∃ (k : Fin 16) (s : State), (s.ringIdx 0 = none ∨ s.ringIdx 4 = none ∨ (s.ringIdx 0).map (fun w => (w + 1) % 32) = s.ringIdx 4))
    ∧ (∃ (s : State) (wr : Nat) (rd : Nat), (s.saf.stopped = false) ∧ (s.on SAF.STAT_SPS_OK = true) ∧ (s.ringIdx 8 = some wr) ∧ (s.ringIdx 12 = some rd) ∧ (wr = rd))
    ∧ (∃ (s : State) (wr : Nat) (rd : Nat) (bs : List Byte), (s.saf.stopped = false) ∧ (s.on SAF.STAT_SPS_OK = true) ∧ (s.ringIdx 8 = some wr) ∧ (s.ringIdx 12 = some rd) ∧ (wr ≠ rd) ∧ (s.ramRead (s.ringBase + 0x1000 + 128 * rd) 128 = some bs))
    ∧ (∃ (s : State) (wr : Nat) (rd : Nat), (s.saf.stopped = false) ∧ (s.on SAF.STAT_SPS_OK = true) ∧ (s.ringIdx 8 = some wr) ∧ (s.ringIdx 12 = some rd) ∧ (wr ≠ rd) ∧ (s.ramRead (s.ringBase + 0x1000 + 128 * rd) 128 = none))
    ∧ (∃ (c : Nat) (p : List Byte) (s : State), (leNat p (p.length - 4) 4 ≠ crcSafe (p.take (p.length - 4)) ∨ 16 ≤ c))
    ∧ (∃ (c : Fin 16) (v : Nat) (st : Nat) (q : Nat) (e : Nat) (b : Nat) (s : State), (v ≠ 2 ∨ (∃ i, (e, i) ∈ (s.escOf c).sent ∧ s.now ≤ i + s.get (SAF.ESC_W1_TEXP c) * tMs)))
    ∧ (∃ (c : Fin 16) (v : Nat) (st : Nat) (q : Nat) (e : Nat) (b : Nat) (s : State), (v = 2) ∧ ((s.escOf c).sent = []))
    ∧ (∃ (k : Fin 16) (s : State), (s.saf.stopped = false) ∧ ((s.escOf k).st = 2) ∧ (s.ringIdx 8 = s.ringIdx 12))
    ∧ (∃ (k : Fin 16) (s : State), ((s.escOf k).st ≠ 2))
    ∧ (∃ (l : Nat) (q : Nat) (w : Nat), (1 ≤ l) ∧ (l ≤ 65535) ∧ (w ≤ 15) ∧ (q ≤ 65535)) :=
  ⟨⟨(3 : Fin 4), (true : Bool), (sets [(SAF.SO_STAT_CMD_B, 15)] : State), by decide +kernel⟩,
    ⟨(3 : Fin 4), (false : Bool), (State.reset : State), by decide +kernel⟩,
    ⟨(3 : Fin 4), (false : Bool), (0 : BitVec 8), (0 : BitVec 8), (State.reset : State), by decide +kernel⟩,
    ⟨(3 : Fin 4), (true : Bool), ({ sets [(SAF.STAT_LOCKOUT, 0)] with saf := { tp := [none, none, none, some true] } } : State), by decide +kernel⟩,
    ⟨(8001 : Nat), ({ State.reset with saf := { checked := true } } : State), by decide +kernel⟩,
    ⟨(200 : Nat), ({ sets [(SAF.STAT_LOCKOUT, 1), (SAF.SICFG_TYPE 0, 1)] with saf := { checked := true, sm0 := { disc := [some 5, none, none, none, none, none, none, none] } } } : State), by decide +kernel⟩,
    ⟨(8000 : Nat), ({ sets [(SAF.STAT_LOCKOUT, 1), (SAF.STAT_SPS_OK, 1)] with saf := { checked := true } } : State), by decide +kernel⟩,
    ⟨(200 : Nat), ({ sets [(SAF.STAT_LOCKOUT, 0)] with saf := { checked := true, sm0 := { disc := [none, none, none, none, none, none, none, some 5] } } } : State), (7 : Fin 8), by decide +kernel⟩,
    ⟨(200 : Nat), ({ sets [(SAF.STAT_SPS_OK, 1), (SAF.FN_W0_TYPE 7, 1), (SAF.SICFG_TYPE 0, 1)] with saf := { checked := true, sm0 := { askA := 0, askB := 0, fn := [0, 0, 0, 0, 0, 0, 0, 2] }, sm1 := { askA := 0, askB := 0, fn := [0, 0, 0, 0, 0, 0, 0, 2] } } } : State), (7 : Fin 8), by decide +kernel⟩,
    ⟨(15 : Fin 16), (sets [((SAF.ESC_W1_EN (15 : Fin 16)), 1)] : State), by decide +kernel⟩,
    ⟨(15 : Fin 16), ({ sets [((SAF.ESC_W1_EN (15 : Fin 16)), 1), (SAF.ESC_W1_EN 15, 1)] with saf := { esc := [(15, { st := 1 })] } } : State), by decide +kernel⟩,
    ⟨(15 : Fin 16), (State.reset : State), by decide +kernel⟩,
    ⟨(15 : Fin 16), ({ sets [(SAF.RING_BASE_ADDR, 0x8000)] with mem := [(0x20002000, 31)] } : State), by decide +kernel⟩,
    ⟨({ sets [(SAF.STAT_SPS_OK, 1), (SAF.RING_BASE_ADDR, 0x8000), (SAF.STAT_SPS_OK, 1)] with mem := [(0x20002008, 31), (0x2000200C, 31)] } : State), (31 : Nat), (31 : Nat), by decide +kernel⟩,
    ⟨({ sets [(SAF.RING_BASE_ADDR, 0x8000), (SAF.STAT_SPS_OK, 1)] with mem := [(0x20002008, 31)] } : State), (31 : Nat), (0 : Nat), ((({ sets [(SAF.RING_BASE_ADDR, 0x8000), (SAF.STAT_SPS_OK, 1)] with mem := [(0x20002008, 31)] } : State).bytesAt 0x20001000 128) : List Byte), by decide +kernel⟩,
    ⟨({ sets [(SAF.RING_BASE_ADDR, 0x8000), (SAF.STAT_SPS_OK, 1)] with mem := [(0x20002008, 31)], poison := [(512, true)] } : State), (31 : Nat), (0 : Nat), by decide +kernel⟩,
    ⟨(16 : Nat), ([] : List Byte), (State.reset : State), by decide +kernel⟩,
    ⟨(15 : Fin 16), (1 : Nat), (0 : Nat), (0 : Nat), (0 : Nat), (0 : Nat), (State.reset : State), .inl (by decide)⟩,
    ⟨(0 : Fin 16), (2 : Nat), (0 : Nat), (0 : Nat), (0 : Nat), (0 : Nat), (State.reset : State), by decide +kernel⟩,
    ⟨(15 : Fin 16), ({ sets [(SAF.RING_BASE_ADDR, 0x8000)] with saf := { esc := [(15, { st := 2 })] } } : State), by decide +kernel⟩,
    ⟨(15 : Fin 16), (State.reset : State), by decide +kernel⟩,
    ⟨(1 : Nat), (0 : Nat), (0 : Nat), by decide +kernel⟩⟩

/-! ### CAN and Ethernet (R373–R399) -/

theorem test_meets_CanEnableAndTransmit :
    (∃ (k : Fin 4) (s : State), (s.takes (CAN.page k)) ∧ (s.canOn k = false) ∧ ((s.canConds k).all (fun c => !c.1) = true) ∧ (s.claimable (resKey 3 (s.get (CAN.MODE_DMA_CH k))) 10 k = true))
    ∧ (∃ (k : Fin 4) (s : State), (s.takes (CAN.page k)) ∧ (s.canOn k = false) ∧ ((s.get (CAN.NBT_NBRP k) + 1) * (3 + s.get (CAN.NBT_NTSEG1 k) + s.get (CAN.NBT_NTSEG2 k)) < 80 ∨ (s.get (CAN.DBT_DBRP k) + 1) * (3 + s.get (CAN.DBT_DTSEG1 k) + s.get (CAN.DBT_DTSEG2 k)) < 10 ∨ s.get (CAN.NBT_NTSEG2 k) < s.get (CAN.NBT_NSJW k) ∨ s.get (CAN.DBT_DTSEG2 k) < s.get (CAN.DBT_DSJW k)))
    ∧ (∃ (k : Fin 4) (s : State), (s.takes (CAN.page k)) ∧ (s.canOn k = true) ∧ (∀ e ∈ (s.can k).txq, e.slot < 32 ∧ e.gone = false))
    ∧ (∃ (k : Fin 4) (s : State), (s.canOn k = false))
    ∧ (∃ (k : Fin 4) (bs : List Byte) (s : State), (s.takes (CAN.page k)) ∧ (s.canOn k = true) ∧ ((s.can k).txq.length < 32) ∧ (∀ e ∈ (s.can k).txq, e.gone = false) ∧ (s.dmaRead (s.get (CAN.MODE_DMA_CH k)) (s.get (CAN.TXQ_BASE_ADDR k) * 64 + 80 * s.get (CAN.TXQ_STAT_TAIL k)) 80 = (some bs, s)))
    ∧ (∃ (k : Fin 4) (s : State), (s.takes (CAN.page k)) ∧ (32 ≤ (s.can k).txq.length))
    ∧ (∃ (k : Fin 4) (e : CanTx) (n : Fin 32) (s : State), (s.takes (CAN.page k)) ∧ ((s.can k).txq = [e]) ∧ (e.slot = n.val) ∧ (s.canMay k s.now = true))
    ∧ (∃ (k : Fin 4) (e : CanTx) (n : Fin 32) (s : State) (sof : Bool), (s.takes (CAN.page k)) ∧ ((s.can k).txq = [e]) ∧ (e.slot = n.val) ∧ (sof = false ∨ s.canMay k s.now = false))
    ∧ (∃ (k : Fin 4) (e : CanTx) (st : Nat) (s : State), ((s.can k).txq = [e]) ∧ (e.gone = false) ∧ (e.late = true))
    ∧ (∃ (k : Fin 4) (e : CanTx) (s : State), ((s.can k).txq = [e]) ∧ (e.gone = false) ∧ (s.canMay k s.now = true) ∧ (s.on (CAN.MODE_LBK k) = false) ∧ ((canFrameOf e.words).fdf = false) ∧ (e.late = false) ∧ (s.on (CAN.MODE_DAR k) = false))
    ∧ (∃ (k : Fin 4) (e : CanTx) (s : State), ((s.can k).txq = [e]) ∧ (e.gone = false) ∧ (s.canMay k s.now = true) ∧ (s.on (CAN.MODE_LBK k) = false) ∧ ((canFrameOf e.words).fdf = false) ∧ (e.late = true))
    ∧ (∃ (k : Fin 4) (r : Fin 3) (ago : Nat) (s : State), (s.canMay k (s.now - ago * tCan) = false))
    ∧ (∃ (k : Fin 4) (sof : Nat) (s : State), (s.get (CAN.ECR_STATE k) = 2 ∨ s.on (CAN.MODE_LOM k) = true ∨ (s.get (CAN.TXQ_STAT_GATE k) = 0 ∧ (s.can k).gateAt ≤ sof) ∨ (∃ w ∈ (s.can k).shuts, w.1 ≤ sof ∧ sof < w.2))) :=
  ⟨⟨(0 : Fin 4), (State.reset : State), by simp only [State.takes]; decide +kernel⟩,
    ⟨(3 : Fin 4), (sets [(CAN.NBT_NBRP 3, 0)] : State), by simp only [State.takes]; decide +kernel⟩,
    ⟨(0 : Fin 4), (sets [(HDR.CTRL_EN (CAN.page (0 : Fin 4)), 1)] : State), by simp only [State.takes]; decide +kernel⟩,
    ⟨(0 : Fin 4), (State.reset : State), by decide +kernel⟩,
    ⟨(3 : Fin 4), (List.replicate 80 0 : List Byte), ({ sets [(HDR.CTRL_EN (CAN.page (3 : Fin 4)), 1), (MPU.REG_LIMIT_EN 0, 1), (MPU.REG_LIMIT_DMA_R 0, 1), (MPU.REG_LIMIT_DMA_W 0, 1), (MPU.REG_LIMIT_LIMIT 0, 0xFFFFF), (CAN.TXQ_BASE_ADDR 3, 0x20000000 / 64)] with cans := [(3, { txq := List.replicate 31 { slot := 31, gone := false, words := List.replicate 80 0, ts := 0, late := false } })] } : State), by simp only [State.takes]; decide +kernel⟩,
    ⟨(3 : Fin 4), ({ State.reset with cans := [(3, { txq := List.replicate 32 { slot := 31, gone := false, words := List.replicate 80 0, ts := 0, late := false } })] } : State), by simp only [State.takes]; decide +kernel⟩,
    ⟨(3 : Fin 4), ({ slot := 31, gone := false, words := List.replicate 80 0, ts := 0, late := false } : CanTx), (31 : Fin 32), ({ sets [(HDR.CTRL_EN (CAN.page 3), 1), (CAN.TXQ_STAT_GATE 3, 1)] with cans := [(3, { txq := [{ slot := 31, gone := false, words := List.replicate 80 0, ts := 0, late := false }] })] } : State), by simp only [State.takes]; decide +kernel⟩,
    ⟨(3 : Fin 4), ({ slot := 31, gone := false, words := List.replicate 80 0, ts := 0, late := false } : CanTx), (31 : Fin 32), ({ State.reset with cans := [(3, { txq := [{ slot := 31, gone := false, words := List.replicate 80 0, ts := 0, late := false }] })] } : State), (true : Bool), by simp only [State.takes]; decide +kernel⟩,
    ⟨(3 : Fin 4), ({ slot := 31, gone := false, words := List.replicate 80 0, ts := 0, late := true } : CanTx), (9 : Nat), ({ State.reset with cans := [(3, { txq := [{ slot := 31, gone := false, words := List.replicate 80 0, ts := 0, late := true }] })] } : State), by decide +kernel⟩,
    ⟨(3 : Fin 4), ({ slot := 31, gone := false, words := List.replicate 80 0, ts := 0, late := false } : CanTx), ({ sets [((CAN.MODE_LBK (3 : Fin 4)), 0), ((CAN.MODE_DAR (3 : Fin 4)), 0), (HDR.CTRL_EN (CAN.page 3), 1), (CAN.TXQ_STAT_GATE 3, 1)] with cans := [(3, { txq := [{ slot := 31, gone := false, words := List.replicate 80 0, ts := 0, late := false }] })] } : State), by decide +kernel⟩,
    ⟨(3 : Fin 4), ({ slot := 31, gone := false, words := List.replicate 80 0, ts := 0, late := true } : CanTx), ({ sets [((CAN.MODE_LBK (3 : Fin 4)), 0), (HDR.CTRL_EN (CAN.page 3), 1), (CAN.TXQ_STAT_GATE 3, 1)] with cans := [(3, { txq := [{ slot := 31, gone := false, words := List.replicate 80 0, ts := 0, late := true }] })] } : State), by decide +kernel⟩,
    ⟨(3 : Fin 4), (0 : Fin 3), (0 : Nat), (State.reset : State), by decide +kernel⟩,
    ⟨(3 : Fin 4), (0 : Nat), (sets [((CAN.ECR_STATE (3 : Fin 4)), 2)] : State), by decide +kernel⟩⟩

theorem test_meets_CanReceive :
    (∃ (k : Fin 4) (f : CanFrame) (ago : Nat) (s : State), (s.canBus k = false))
    ∧ (∃ (k : Fin 4) (f : CanFrame) (ago : Nat) (s : State), (s.canBus k = true) ∧ ((s.can k).intAt ≤ s.now - ago * tCan) ∧ (f.fdf = true) ∧ (s.on (CAN.MODE_FDOE k) = false))
    ∧ (∃ (k : Fin 4) (f : CanFrame) (ago : Nat) (s : State), (s.canBus k = true) ∧ ((s.can k).intAt ≤ s.now - ago * tCan) ∧ (f.fdf = false ∨ s.on (CAN.MODE_FDOE k) = true) ∧ (f.fdf = false ∨ f.brs = false ∨ s.on (CAN.MODE_BRSE k) = true))
    ∧ (∃ (c : Fin 4) (f : CanFrame) (i : Nat) (s : State), (s.canFilter c f = some i) ∧ (s.on (CAN.FLT_MSK_XTD_M c i) = true))
    ∧ (∃ (c : Fin 4) (f : CanFrame) (i : Nat) (s : State) (j : Nat), (s.canFilter c f = some i) ∧ (s.on (CAN.FLT_ID_EN c j) = true) ∧ (s.on (CAN.FLT_MSK_XTD_M c j) = false) ∧ (j < i))
    ∧ (∃ (c : Fin 4) (f : CanFrame) (sof : Nat) (i : Nat) (s : State), (s.canFilter c f = some i))
    ∧ (∃ (c : Fin 4) (f : CanFrame) (sof : Nat) (i : Nat) (s : State), (s.canFilter c f = none) ∧ (s.get (CAN.MODE_NOMATCH c) = 0))
    ∧ (∃ (c : Fin 4) (q : Fin 2) (f : CanFrame) (i : Nat) (sof : Nat) (s : State) (u : State), (32 ≤ s.get (CAN.RXQ_STAT_FILL c q)))
    ∧ (∃ (c : Fin 4) (q : Fin 2) (f : CanFrame) (i : Nat) (sof : Nat) (s : State) (u : State), (s.get (CAN.RXQ_STAT_FILL c q) < 32) ∧ (s.on (CAN.MODE_TT c) = false) ∧ (s.dmaPut (s.get (CAN.MODE_DMA_CH c)) (s.get (if q.val = 0 then CAN.RXQ_BASE0_ADDR c else CAN.RXQ_BASE1_ADDR c) * 64 + 80 * ((s.get (CAN.RXQ_STAT_HEAD c q) + s.get (CAN.RXQ_STAT_FILL c q)) % 32)) 8 (canEntry f i (s.tsc c sof) 0) = (true, u)) ∧ (u.regs = s.regs) ∧ ((u.can c).acked = none))
    ∧ (∃ (k : Fin 4) (q : Fin 2) (s : State), (s.takes (CAN.page k)) ∧ (s.get (CAN.RXQ_STAT_FILL k q) = 0))
    ∧ (∃ (k : Fin 4) (q : Fin 2) (s : State), (s.takes (CAN.page k)) ∧ (s.get (CAN.RXQ_STAT_FILL k q) ≠ 0) ∧ ((s.can k).dropped = none)) :=
  ⟨⟨(3 : Fin 4), ({ id := 5, rtr := false, xtd := false, esi := false, dlc := 8, brs := false, fdf := false, data := [] } : CanFrame), (0 : Nat), (State.reset : State), by decide +kernel⟩,
    ⟨(3 : Fin 4), ({ id := 5, rtr := false, xtd := false, esi := false, dlc := 8, brs := false, fdf := true, data := [] } : CanFrame), (0 : Nat), (sets [(HDR.CTRL_EN (CAN.page (3 : Fin 4)), 1), ((CAN.MODE_FDOE (3 : Fin 4)), 0)] : State), by decide +kernel⟩,
    ⟨(3 : Fin 4), ({ id := 5, rtr := false, xtd := false, esi := false, dlc := 8, brs := false, fdf := false, data := [] } : CanFrame), (0 : Nat), (sets [(HDR.CTRL_EN (CAN.page (3 : Fin 4)), 1)] : State), by decide +kernel⟩,
    ⟨(3 : Fin 4), ({ id := 5, rtr := false, xtd := false, esi := false, dlc := 8, brs := false, fdf := false, data := [] } : CanFrame), (31 : Nat), (sets [(CAN.FLT_ID_EN 3 31, 1), (CAN.FLT_MSK_XTD_M 3 31, 1)] : State), by decide +kernel⟩,
    ⟨(3 : Fin 4), ({ id := 5, rtr := false, xtd := false, esi := false, dlc := 8, brs := false, fdf := false, data := [] } : CanFrame), (31 : Nat), (sets [(CAN.FLT_ID_EN 3 31, 1), (CAN.FLT_ID_EN 3 0, 1), (CAN.FLT_MSK_MASK 3 0, 1)] : State), (0 : Nat), by decide +kernel⟩,
    ⟨(3 : Fin 4), ({ id := 5, rtr := false, xtd := false, esi := false, dlc := 8, brs := false, fdf := false, data := [] } : CanFrame), (0 : Nat), (31 : Nat), (sets [(CAN.FLT_ID_EN 3 31, 1)] : State), by decide +kernel⟩,
    ⟨(3 : Fin 4), ({ id := 5, rtr := false, xtd := false, esi := false, dlc := 8, brs := false, fdf := false, data := [] } : CanFrame), (0 : Nat), (0 : Nat), (sets [((CAN.MODE_NOMATCH (3 : Fin 4)), 0)] : State), by decide +kernel⟩,
    ⟨(3 : Fin 4), (1 : Fin 2), ({ id := 5, rtr := false, xtd := false, esi := false, dlc := 8, brs := false, fdf := false, data := [] } : CanFrame), (31 : Nat), (0 : Nat), (sets [(CAN.RXQ_STAT_FILL 3 1, 32)] : State), (State.reset : State), by decide +kernel⟩,
    ⟨(3 : Fin 4), (1 : Fin 2), ({ id := 5, rtr := false, xtd := false, esi := false, dlc := 8, brs := false, fdf := false, data := [] } : CanFrame), (31 : Nat), (0 : Nat), (sets [(MPU.REG_LIMIT_EN 0, 1), (MPU.REG_LIMIT_DMA_R 0, 1), (MPU.REG_LIMIT_DMA_W 0, 1), (MPU.REG_LIMIT_LIMIT 0, 0xFFFFF), (CAN.RXQ_STAT_FILL 3 1, 31), (CAN.RXQ_BASE1_ADDR 3, 0x20000000 / 64)] : State), ((((sets [(MPU.REG_LIMIT_EN 0, 1), (MPU.REG_LIMIT_DMA_R 0, 1), (MPU.REG_LIMIT_DMA_W 0, 1), (MPU.REG_LIMIT_LIMIT 0, 0xFFFFF), (CAN.RXQ_STAT_FILL 3 1, 31), (CAN.RXQ_BASE1_ADDR 3, 0x20000000 / 64)] : State).dmaPut ((sets [(MPU.REG_LIMIT_EN 0, 1), (MPU.REG_LIMIT_DMA_R 0, 1), (MPU.REG_LIMIT_DMA_W 0, 1), (MPU.REG_LIMIT_LIMIT 0, 0xFFFFF), (CAN.RXQ_STAT_FILL 3 1, 31), (CAN.RXQ_BASE1_ADDR 3, 0x20000000 / 64)] : State).get (CAN.MODE_DMA_CH (3 : Fin 4))) ((sets [(MPU.REG_LIMIT_EN 0, 1), (MPU.REG_LIMIT_DMA_R 0, 1), (MPU.REG_LIMIT_DMA_W 0, 1), (MPU.REG_LIMIT_LIMIT 0, 0xFFFFF), (CAN.RXQ_STAT_FILL 3 1, 31), (CAN.RXQ_BASE1_ADDR 3, 0x20000000 / 64)] : State).get (if (1 : Fin 2).val = 0 then CAN.RXQ_BASE0_ADDR (3 : Fin 4) else CAN.RXQ_BASE1_ADDR (3 : Fin 4)) * 64 + 80 * (((sets [(MPU.REG_LIMIT_EN 0, 1), (MPU.REG_LIMIT_DMA_R 0, 1), (MPU.REG_LIMIT_DMA_W 0, 1), (MPU.REG_LIMIT_LIMIT 0, 0xFFFFF), (CAN.RXQ_STAT_FILL 3 1, 31), (CAN.RXQ_BASE1_ADDR 3, 0x20000000 / 64)] : State).get (CAN.RXQ_STAT_HEAD (3 : Fin 4) (1 : Fin 2)) + (sets [(MPU.REG_LIMIT_EN 0, 1), (MPU.REG_LIMIT_DMA_R 0, 1), (MPU.REG_LIMIT_DMA_W 0, 1), (MPU.REG_LIMIT_LIMIT 0, 0xFFFFF), (CAN.RXQ_STAT_FILL 3 1, 31), (CAN.RXQ_BASE1_ADDR 3, 0x20000000 / 64)] : State).get (CAN.RXQ_STAT_FILL (3 : Fin 4) (1 : Fin 2))) % 32)) 8 (canEntry ({ id := 5, rtr := false, xtd := false, esi := false, dlc := 8, brs := false, fdf := false, data := [] } : CanFrame) (31 : Nat) ((sets [(MPU.REG_LIMIT_EN 0, 1), (MPU.REG_LIMIT_DMA_R 0, 1), (MPU.REG_LIMIT_DMA_W 0, 1), (MPU.REG_LIMIT_LIMIT 0, 0xFFFFF), (CAN.RXQ_STAT_FILL 3 1, 31), (CAN.RXQ_BASE1_ADDR 3, 0x20000000 / 64)] : State).tsc (3 : Fin 4) (0 : Nat)) 0)).2) : State), by decide +kernel⟩,
    ⟨(3 : Fin 4), (0 : Fin 2), (sets [((CAN.RXQ_STAT_FILL (3 : Fin 4) (0 : Fin 2)), 0)] : State), by simp only [State.takes]; decide +kernel⟩,
    ⟨(3 : Fin 4), (0 : Fin 2), (sets [((CAN.RXQ_STAT_FILL (3 : Fin 4) (0 : Fin 2)), 1)] : State), by simp only [State.takes]; decide +kernel⟩⟩

theorem test_meets_CanErrors :
    (∃ (k : Fin 4) (s : State) (tx : CanSide) (big : Bool) (dat : Bool), (s.canBus k = true) ∧ ((s.can k).intAt ≤ s.now))
    ∧ (∃ (k : Fin 4) (kind : Fin 8) (s : State) (tx : CanSide) (big : Bool) (dat : Bool), (s.canBus k = false ∨ s.now < (s.can k).intAt))
    ∧ (∃ (k : Fin 4) (kind : Fin 8) (s : State) (big : Bool), (s.canBus k = true) ∧ ((s.can k).intAt ≤ s.now) ∧ (kind ≠ 0) ∧ (kind = 1 ∨ kind = 3 ∧ s.get (CAN.ECR_STATE k) = 1))
    ∧ (∃ (k : Fin 4) (kind : Fin 8) (s : State) (big : Bool), (s.canBus k = true) ∧ ((s.can k).intAt ≤ s.now) ∧ (kind ≠ 0) ∧ (s.get (CAN.ECR_TEC k) ≤ 247))
    ∧ (∃ (k : Fin 4) (kind : Fin 8) (s : State) (big : Bool) (e : CanTx), (s.canBus k = true) ∧ ((s.can k).intAt ≤ s.now) ∧ (kind ≠ 0) ∧ (247 < s.get (CAN.ECR_TEC k)) ∧ ((s.can k).txq = [e]) ∧ (e.late = false))
    ∧ (∃ (k : Fin 4) (s : State), (s.takes (CAN.page k)) ∧ (s.get (CAN.ECR_STATE k) < 2))
    ∧ (∃ (k : Fin 4) (s : State), (s.takes (CAN.page k)) ∧ (2 ≤ s.get (CAN.ECR_STATE k)))
    ∧ (∃ (k : Fin 4) (s : State), (s.get (CAN.ECR_STATE k) = 3) ∧ (s.canOn k = true))
    ∧ (∃ (k : Fin 4) (s : State), (s.get (CAN.ECR_STATE k) ≠ 3)) :=
  ⟨⟨(3 : Fin 4), (sets [(HDR.CTRL_EN (CAN.page (3 : Fin 4)), 1)] : State), (.receiver : CanSide), (false : Bool), (false : Bool), by decide +kernel⟩,
    ⟨(3 : Fin 4), (0 : Fin 8), (State.reset : State), (.receiver : CanSide), (false : Bool), (false : Bool), by decide +kernel⟩,
    ⟨(3 : Fin 4), (1 : Fin 8), (sets [(HDR.CTRL_EN (CAN.page (3 : Fin 4)), 1)] : State), (false : Bool), by decide +kernel⟩,
    ⟨(3 : Fin 4), (1 : Fin 8), (sets [(HDR.CTRL_EN (CAN.page (3 : Fin 4)), 1)] : State), (false : Bool), by decide +kernel⟩,
    ⟨(3 : Fin 4), (7 : Fin 8), ({ sets [(HDR.CTRL_EN (CAN.page (3 : Fin 4)), 1), (CAN.ECR_TEC 3, 248)] with cans := [(3, { txq := [{ slot := 31, gone := false, words := List.replicate 80 0, ts := 0, late := false }] })] } : State), (false : Bool), ({ slot := 31, gone := false, words := List.replicate 80 0, ts := 0, late := false } : CanTx), by decide +kernel⟩,
    ⟨(3 : Fin 4), (State.reset : State), by simp only [State.takes]; decide +kernel⟩,
    ⟨(3 : Fin 4), (sets [(CAN.ECR_STATE 3, 2)] : State), by simp only [State.takes]; decide +kernel⟩,
    ⟨(3 : Fin 4), (sets [((CAN.ECR_STATE (3 : Fin 4)), 3), (HDR.CTRL_EN (CAN.page (3 : Fin 4)), 1)] : State), by decide +kernel⟩,
    ⟨(3 : Fin 4), (State.reset : State), by decide +kernel⟩⟩

theorem test_meets_CanTimeTriggered :
    (∃ (k : Fin 4) (f : CanFrame) (s : State), (s.canBus k = true) ∧ ((s.can k).intAt ≤ s.now) ∧ (s.on (CAN.MODE_TT k) = true) ∧ (f.fdf = false) ∧ (f.rtr = false) ∧ (f.dlc ≠ 0) ∧ (f.xtd = s.on (CAN.TT_CFG_REF_XTD k)) ∧ (f.id = s.get (CAN.TT_CFG_REF_ID k)))
    ∧ (∃ (k : Fin 4) (f : CanFrame) (s : State), (s.canBus k = true) ∧ ((s.can k).intAt ≤ s.now) ∧ (s.on (CAN.MODE_TT k) = true) ∧ (f.fdf = false) ∧ (f.rtr = false) ∧ (f.dlc ≠ 0) ∧ (f.xtd = s.on (CAN.TT_CFG_REF_XTD k)) ∧ (f.id < s.get (CAN.TT_CFG_REF_ID k)) ∧ (s.on (CAN.MODE_TTM k) = true))
    ∧ (∃ (k : Fin 4) (f : CanFrame) (s : State), (s.canBus k = true) ∧ ((s.can k).intAt ≤ s.now) ∧ (s.on (CAN.MODE_TT k) = true) ∧ (f.fdf = false) ∧ (f.rtr = false) ∧ (f.dlc ≠ 0) ∧ (f.xtd = s.on (CAN.TT_CFG_REF_XTD k)) ∧ (s.get (CAN.TT_CFG_REF_ID k) < f.id))
    ∧ (∃ (k : Fin 4) (s : State), (s.canBus k = true) ∧ (s.on (CAN.MODE_LOM k) = false) ∧ (s.get (CAN.TT_STAT_ROLE k) = 2))
    ∧ (∃ (k : Fin 4) (s : State), (s.get (CAN.TT_STAT_ROLE k) ≠ 2 ∨ s.on (CAN.MODE_LOM k) = true))
    ∧ (∃ (k : Fin 4) (s : State), (s.canOn k = true) ∧ (s.on (CAN.MODE_TT k) = true) ∧ ((s.can k).missed = false))
    ∧ (∃ (k : Fin 4) (j : Fin 8) (s : State), (s.canOn k = true) ∧ (s.on (CAN.MODE_TT k) = true) ∧ ((s.get (CAN.TT_STAT_CC k) ^^^ s.get (CAN.TRG_CC k j)) &&& s.get (CAN.TRG_CC_MSK k j) ≠ 0))
    ∧ (∃ (k : Fin 4) (j : Fin 8) (s : State), (s.canOn k = true) ∧ (s.on (CAN.MODE_TT k) = true) ∧ ((s.get (CAN.TT_STAT_CC k) ^^^ s.get (CAN.TRG_CC k j)) &&& s.get (CAN.TRG_CC_MSK k j) = 0)) :=
  ⟨⟨(3 : Fin 4), ({ id := 5, rtr := false, xtd := false, esi := false, dlc := 8, brs := false, fdf := false, data := [] } : CanFrame), (sets [(HDR.CTRL_EN (CAN.page (3 : Fin 4)), 1), ((CAN.MODE_TT (3 : Fin 4)), 1), (CAN.TT_CFG_REF_ID 3, 5)] : State), by decide +kernel⟩,
    ⟨(3 : Fin 4), ({ id := 4, rtr := false, xtd := false, esi := false, dlc := 8, brs := false, fdf := false, data := [] } : CanFrame), (sets [(HDR.CTRL_EN (CAN.page (3 : Fin 4)), 1), ((CAN.MODE_TT (3 : Fin 4)), 1), ((CAN.MODE_TTM (3 : Fin 4)), 1), (CAN.TT_CFG_REF_ID 3, 5)] : State), by decide +kernel⟩,
    ⟨(3 : Fin 4), ({ id := 6, rtr := false, xtd := false, esi := false, dlc := 8, brs := false, fdf := false, data := [] } : CanFrame), (sets [(HDR.CTRL_EN (CAN.page (3 : Fin 4)), 1), ((CAN.MODE_TT (3 : Fin 4)), 1), (CAN.TT_CFG_REF_ID 3, 5)] : State), by decide +kernel⟩,
    ⟨(3 : Fin 4), (sets [(HDR.CTRL_EN (CAN.page (3 : Fin 4)), 1), ((CAN.MODE_LOM (3 : Fin 4)), 0), ((CAN.TT_STAT_ROLE (3 : Fin 4)), 2)] : State), by decide +kernel⟩,
    ⟨(3 : Fin 4), (State.reset : State), by decide +kernel⟩,
    ⟨(3 : Fin 4), (sets [(HDR.CTRL_EN (CAN.page (3 : Fin 4)), 1), ((CAN.MODE_TT (3 : Fin 4)), 1)] : State), by decide +kernel⟩,
    ⟨(3 : Fin 4), (7 : Fin 8), (sets [(HDR.CTRL_EN (CAN.page (3 : Fin 4)), 1), ((CAN.MODE_TT (3 : Fin 4)), 1), (CAN.TRG_CC 3 7, 1), (CAN.TRG_CC_MSK 3 7, 63)] : State), by decide +kernel⟩,
    ⟨(3 : Fin 4), (0 : Fin 8), (sets [(HDR.CTRL_EN (CAN.page (3 : Fin 4)), 1), ((CAN.MODE_TT (3 : Fin 4)), 1)] : State), by decide +kernel⟩⟩

theorem test_meets_EthernetPort :
    (∃ (p : Fin 2) (s : State), (s.takes (ETH.page p)) ∧ (s.ethOn p = false) ∧ (s.get (ETH.CFG_RX_DMA p) ≠ s.get (ETH.CFG_TX_DMA p)) ∧ (s.claimable (resKey 3 (s.get (ETH.CFG_RX_DMA p))) 11 p = true) ∧ (s.claimable (resKey 3 (s.get (ETH.CFG_TX_DMA p))) 11 p = true))
    ∧ (∃ (p : Fin 2) (d : List Byte) (bs : List Byte) (s : State), (s.takes (ETH.page p)) ∧ (s.ethOn p = true) ∧ ((s.eth p).tx = none) ∧ ((s.eth p).pause ≤ s.now) ∧ ((leNat d 4 4).testBit 16 = true) ∧ (s.dmaRead (s.get (ETH.CFG_TX_DMA p)) (s.get (ETH.TX_BASE_ADDR p) * 16 + 16 * s.get (ETH.IDX_TX p)) 16 = (some d, s)) ∧ (s.dmaRead (s.get (ETH.CFG_TX_DMA p)) (leNat d 0 4) (leNat d 4 4 % 2048) = (some bs, s)))
    ∧ (∃ (p : Fin 2) (ok : Bool) (s : State), (s.ethOn p = true) ∧ ((s.eth p).tx = none) ∧ ((s.eth p).kick = false))
    ∧ (∃ (p : Fin 2) (ok : Bool) (s : State) (u : State), (s.ethOn p = true) ∧ ((s.eth p).tx = none) ∧ ((s.eth p).kick = true) ∧ (u = (s.advance (s.eth p).pause).ethExamine p))
    ∧ (∃ (p : Fin 2) (d : List Byte) (bs : List Byte) (s : State), (s.ethOn p = true) ∧ ((s.eth p).tx = some (d, bs)) ∧ (bs.length ≤ 1518) ∧ (s.now < (s.eth p).pause))
    ∧ (∃ (p : Fin 2) (an : Bool) (sp : Fin 3) (s : State), (s.ethOn p = true))
    ∧ (∃ (p : Fin 2) (an : Bool) (sp : Fin 3) (d : List Byte) (bs : List Byte) (s : State), (s.ethOn p = true) ∧ ((s.eth p).tx = some (d, bs)) ∧ (s.now < (s.eth p).pause))
    ∧ (∃ (p : Fin 2) (v : Word) (s : State), (s.takes (ETH.page p)) ∧ (s.on (ETH.MDIO_GO p) = false))
    ∧ (∃ (p : Fin 2) (v : Word) (s : State), (s.takes (ETH.page p)) ∧ (s.on (ETH.MDIO_GO p) = true))
    ∧ (∃ (p : Fin 2) (d : BitVec 16) (s : State), (s.on (ETH.MDIO_GO p) = true) ∧ (s.gated 10 = false))
    ∧ (∃ (p : Fin 2) (d : BitVec 16) (s : State), (s.on (ETH.MDIO_GO p) = false ∨ s.gated 10 = true)) :=
  ⟨⟨(1 : Fin 2), (sets [(ETH.CFG_RX_DMA 1, 31)] : State), by simp only [State.takes]; decide +kernel⟩,
    ⟨(1 : Fin 2), ([0, 0, 0, 0x20, 8, 0, 1, 0] ++ List.replicate 8 0 : List Byte), ([0, 0, 0, 0x20, 8, 0, 1, 0] : List Byte), ({ sets [(HDR.CTRL_EN (ETH.page (1 : Fin 2)), 1), (MPU.REG_LIMIT_EN 0, 1), (MPU.REG_LIMIT_DMA_R 0, 1), (MPU.REG_LIMIT_DMA_W 0, 1), (MPU.REG_LIMIT_LIMIT 0, 0xFFFFF), (ETH.RX_BASE_ADDR 1, 0x2000000), (ETH.TX_BASE_ADDR 1, 0x2000000)] with mem := [(0x20000003, 0x20), (0x20000004, 8), (0x20000006, 1)] } : State), by simp only [State.takes]; decide +kernel⟩,
    ⟨(1 : Fin 2), (false : Bool), (sets [(HDR.CTRL_EN (ETH.page (1 : Fin 2)), 1)] : State), by decide +kernel⟩,
    ⟨(1 : Fin 2), (false : Bool), ({ sets [(HDR.CTRL_EN (ETH.page (1 : Fin 2)), 1)] with eths := [(1, { kick := true, pause := 5 })] } : State), (((({ sets [(HDR.CTRL_EN (ETH.page (1 : Fin 2)), 1)] with eths := [(1, { kick := true, pause := 5 })] } : State).advance (({ sets [(HDR.CTRL_EN (ETH.page (1 : Fin 2)), 1)] with eths := [(1, { kick := true, pause := 5 })] } : State).eth (1 : Fin 2)).pause).ethExamine (1 : Fin 2)) : State), by decide +kernel⟩,
    ⟨(1 : Fin 2), ([] : List Byte), (List.replicate 1518 0 : List Byte), ({ sets [(HDR.CTRL_EN (ETH.page (1 : Fin 2)), 1)] with eths := [(1, { tx := some ([], List.replicate 1518 0), pause := 1 })] } : State), by decide +kernel⟩,
    ⟨(1 : Fin 2), (false : Bool), (0 : Fin 3), (sets [(HDR.CTRL_EN (ETH.page (1 : Fin 2)), 1)] : State), by decide +kernel⟩,
    ⟨(1 : Fin 2), (false : Bool), (0 : Fin 3), ([] : List Byte), ([] : List Byte), ({ sets [(HDR.CTRL_EN (ETH.page (1 : Fin 2)), 1)] with eths := [(1, { tx := some ([], []), pause := 1 })] } : State), by decide +kernel⟩,
    ⟨(1 : Fin 2), (0 : Word), (sets [((ETH.MDIO_GO (1 : Fin 2)), 0)] : State), by simp only [State.takes]; decide +kernel⟩,
    ⟨(1 : Fin 2), (0 : Word), (sets [((ETH.MDIO_GO (1 : Fin 2)), 1)] : State), by simp only [State.takes]; decide +kernel⟩,
    ⟨(1 : Fin 2), (0 : BitVec 16), (sets [((ETH.MDIO_GO (1 : Fin 2)), 1)] : State), by decide +kernel⟩,
    ⟨(1 : Fin 2), (0 : BitVec 16), (sets [((ETH.MDIO_GO (1 : Fin 2)), 0)] : State), by decide +kernel⟩⟩

theorem test_meets_EthernetReceive :
    (∃ (p : Fin 2) (d : List Byte) (f : Bool) (s : State), (s.ethOn p = false ∨ s.on (ETH.LINK_LINK p) = false))
    ∧ (∃ (p : Fin 2) (d : List Byte) (f : Bool) (ago : Nat) (s : State), (s.ethOn p = true) ∧ (s.on (ETH.LINK_LINK p) = true))
    ∧ (∃ (p : Fin 2) (d : List Byte) (t : Nat) (s : State), (1518 < d.length))
    ∧ (∃ (p : Fin 2) (d : List Byte) (t : Nat) (s : State), (60 ≤ d.length) ∧ (d.length ≤ 1514) ∧ (s.on (ETH.CFG_RX_PAUSE p) = false) ∧ (s.ethPass p d = false))
    ∧ (∃ (p : Fin 2) (d : List Byte) (w : List Byte) (t : Nat) (s : State), (60 ≤ d.length) ∧ (d.length ≤ 1514) ∧ (s.on (ETH.CFG_RX_PAUSE p) = false) ∧ (s.ethPass p d = true) ∧ (s.dmaRead (s.get (ETH.CFG_RX_DMA p)) (s.ethDesc p false) 16 = (some w, s)) ∧ ((leNat w 4 4).testBit 16 = false))
    ∧ (∃ (p : Fin 2) (d : List Byte) (w : List Byte) (t : Nat) (s : State) (u : State), (60 ≤ d.length) ∧ (d.length ≤ 1514) ∧ (s.on (ETH.CFG_RX_PAUSE p) = false) ∧ (s.ethPass p d = true) ∧ (s.dmaRead (s.get (ETH.CFG_RX_DMA p)) (s.ethDesc p false) 16 = (some w, s)) ∧ ((leNat w 4 4).testBit 16 = true) ∧ (s.dmaPut (s.get (ETH.CFG_RX_DMA p)) (leNat w 0 4) 4 d = (true, u))) :=
  ⟨⟨(1 : Fin 2), ([] : List Byte), (false : Bool), (State.reset : State), by decide +kernel⟩,
    ⟨(1 : Fin 2), ([] : List Byte), (false : Bool), (0 : Nat), (sets [(HDR.CTRL_EN (ETH.page (1 : Fin 2)), 1), ((ETH.LINK_LINK (1 : Fin 2)), 1)] : State), by decide +kernel⟩,
    ⟨(1 : Fin 2), (List.replicate 1519 0 : List Byte), (0 : Nat), (State.reset : State), by decide +kernel⟩,
    ⟨(1 : Fin 2), (List.replicate 1514 1 : List Byte), (0 : Nat), (sets [((ETH.CFG_RX_PAUSE (1 : Fin 2)), 0)] : State), by decide +kernel⟩,
    ⟨(1 : Fin 2), (List.replicate 1514 255 : List Byte), (List.replicate 16 0 : List Byte), (0 : Nat), (sets [((ETH.CFG_RX_PAUSE (1 : Fin 2)), 0), (MPU.REG_LIMIT_EN 0, 1), (MPU.REG_LIMIT_DMA_R 0, 1), (MPU.REG_LIMIT_DMA_W 0, 1), (MPU.REG_LIMIT_LIMIT 0, 0xFFFFF), (ETH.RX_BASE_ADDR 1, 0x2000000), (ETH.TX_BASE_ADDR 1, 0x2000000)] : State), by decide +kernel⟩,
    ⟨(1 : Fin 2), (List.replicate 60 255 : List Byte), ([8, 0, 0, 0x20, 0, 0, 1, 0] ++ List.replicate 8 0 : List Byte), (0 : Nat), ({ sets [((ETH.CFG_RX_PAUSE (1 : Fin 2)), 0), (MPU.REG_LIMIT_EN 0, 1), (MPU.REG_LIMIT_DMA_R 0, 1), (MPU.REG_LIMIT_DMA_W 0, 1), (MPU.REG_LIMIT_LIMIT 0, 0xFFFFF), (ETH.RX_BASE_ADDR 1, 0x2000000), (ETH.TX_BASE_ADDR 1, 0x2000000)] with mem := [(0x20000000, 8), (0x20000003, 0x20), (0x20000006, 1)] } : State), ((({ sets [((ETH.CFG_RX_PAUSE (1 : Fin 2)), 0), (MPU.REG_LIMIT_EN 0, 1), (MPU.REG_LIMIT_DMA_R 0, 1), (MPU.REG_LIMIT_DMA_W 0, 1), (MPU.REG_LIMIT_LIMIT 0, 0xFFFFF), (ETH.RX_BASE_ADDR 1, 0x2000000), (ETH.TX_BASE_ADDR 1, 0x2000000)] with mem := [(0x20000000, 8), (0x20000003, 0x20), (0x20000006, 1)] } : State).dmaPut (({ sets [((ETH.CFG_RX_PAUSE (1 : Fin 2)), 0), (MPU.REG_LIMIT_EN 0, 1), (MPU.REG_LIMIT_DMA_R 0, 1), (MPU.REG_LIMIT_DMA_W 0, 1), (MPU.REG_LIMIT_LIMIT 0, 0xFFFFF), (ETH.RX_BASE_ADDR 1, 0x2000000), (ETH.TX_BASE_ADDR 1, 0x2000000)] with mem := [(0x20000000, 8), (0x20000003, 0x20), (0x20000006, 1)] } : State).get (ETH.CFG_RX_DMA (1 : Fin 2))) (leNat ([8, 0, 0, 0x20, 0, 0, 1, 0] ++ List.replicate 8 0 : List Byte) 0 4) 4 (List.replicate 60 255 : List Byte)).2 : State), by decide +kernel⟩⟩

theorem test_meets_PtpClock :
    (∃ (x : EthSt) (n : Nat), (x.pend = none) ∧ (∀ o ∈ x.old, o.1 ≤ n * tEth) ∧ (x.at_ ≤ n * tEth) ∧ (x.at_ % tEth = 0) ∧ (x.val + (n - x.at_ / tEth) * x.inc < 2 ^ 48 * pS))
    ∧ (∃ (p : Fin 2) (v : Word) (s : State), (s.takes (ETH.page p)) ∧ (getBits v 0 4 < 6 ∨ 10 < getBits v 0 4))
    ∧ (∃ (p : Fin 2) (v : Word) (s : State), (s.takes (ETH.page p)) ∧ (6 ≤ getBits v 0 4) ∧ (getBits v 0 4 ≤ 10) ∧ ((s.eth p).pend = none))
    ∧ (∃ (p : Fin 2) (v : Word) (s : State), (s.takes (ETH.page p)) ∧ (v.toInt < -999999999 ∨ 999999999 < v.toInt))
    ∧ (∃ (p : Fin 2) (v : Word) (s : State), (s.takes (ETH.page p)) ∧ (-999999999 ≤ v.toInt) ∧ (v.toInt ≤ 999999999) ∧ ((s.eth p).pend = none))
    ∧ (∃ (p : Fin 2) (s : State), (s.takes (ETH.page p)) ∧ ((s.eth p).pend = none))
    ∧ (∃ (x : EthSt) (q : PtpPend) (w : Nat), (q.set = some w) ∧ (w < 2 ^ 48 * pS))
    ∧ (∃ (x : EthSt) (q : PtpPend) (i : Nat), (q.at_ = x.at_ + tEth) ∧ (q.set = none) ∧ (q.adj = 0) ∧ (q.inc = some i) ∧ (x.val + i < 2 ^ 48 * pS))
    ∧ (∃ (x : EthSt) (at_ : Nat) (val : Nat) (inc : Nat) (t : Nat), (x.pend = none) ∧ (t < at_) ∧ (∀ o ∈ x.old, o.1 ≤ t))
    ∧ (∃ (p : Fin 2) (i : Nat) (n : Nat) (c : Nat) (s : State), (i < 65536) ∧ (n < 1000000000) ∧ (c < 4294967296) ∧ ((s.eth p).tsq = []))
    ∧ (∃ (p : Fin 2) (i : Nat) (n : Nat) (c : Nat) (s : State), (i < 65536) ∧ (n < 1000000000) ∧ (c < 4294967296) ∧ ((s.eth p).tsq.length = 8))
    ∧ (∃ (p : Fin 2) (s : State), (s.takes (ETH.page p)) ∧ ((s.eth p).tsq = []))
    ∧ (∃ (p : Fin 2) (s : State) (e : Nat × Nat × Nat) (l : List (Nat × Nat × Nat)), (s.takes (ETH.page p)) ∧ ((s.eth p).tsq = e :: l) ∧ (l.length ≤ 7) ∧ ((s.eth p).tsqLost = none))
    ∧ (∃ (p : Fin 2) (s : State) (e : Nat × Nat × Nat) (l : List (Nat × Nat × Nat)) (e2 : Nat × Nat × Nat) (n : Nat) (b : Bool), (s.takes (ETH.page p)) ∧ ((s.eth p).tsq = e :: l) ∧ (l.length ≤ 7) ∧ ((s.eth p).tsqLost = some (s.ethTick, e2, n, b)) ∧ (n < 65536))
    ∧ (∃ (p : Fin 2) (s : State), (s.takes (ETH.page p)) ∧ (s.ptpPort = some p.val) ∧ (s.on (ETH.PTP_STAT_VALID p) = true) ∧ (s.on TBS.TSTAT_HOLDOVER = false))
    ∧ (∃ (p : Fin 2) (s : State), (s.takes (ETH.page p)) ∧ (s.ptpPort = some p.val) ∧ (s.on (ETH.PTP_STAT_VALID p) = false))
    ∧ (∃ (p : Nat) (s : State), (s.ptpPort = some p) ∧ (s.get (ETH.PTP_STAT_VALID p) = 0))
    ∧ (∃ (p : Nat) (s : State), (s.ptpPort = some p) ∧ (s.get (ETH.PTP_STAT_VALID p) = 1) ∧ ((100 * s.get TBS.TCFG_RATE_MAX : Int) < s.ptpRate p) ∧ (s.get TBS.TSTAT_RATE_LIM = 0)) :=
  ⟨⟨({} : EthSt), (0 : Nat), by decide +kernel⟩,
    ⟨(1 : Fin 2), (0 : Word), (State.reset : State), by simp only [State.takes]; decide +kernel⟩,
    ⟨(1 : Fin 2), ((0 ||| 0x6) : Word), (State.reset : State), by simp only [State.takes]; decide +kernel⟩,
    ⟨(1 : Fin 2), (1000000000 : Word), (State.reset : State), by simp only [State.takes]; decide +kernel⟩,
    ⟨(1 : Fin 2), (0 : Word), (State.reset : State), by simp only [State.takes]; decide +kernel⟩,
    ⟨(1 : Fin 2), (State.reset : State), by simp only [State.takes]; decide +kernel⟩,
    ⟨({} : EthSt), ({ at_ := 0, set := some 7, adj := 0, inc := none } : PtpPend), (7 : Nat), by decide +kernel⟩,
    ⟨({} : EthSt), ({ at_ := tEth, set := none, adj := 0, inc := some 7 } : PtpPend), (7 : Nat), by decide +kernel⟩,
    ⟨({} : EthSt), (5 : Nat), (0 : Nat), (0 : Nat), (0 : Nat), by decide +kernel⟩,
    ⟨(1 : Fin 2), (0 : Nat), (0 : Nat), (0 : Nat), (State.reset : State), by decide +kernel⟩,
    ⟨(1 : Fin 2), (65535 : Nat), (999999999 : Nat), (4294967295 : Nat), ({ State.reset with eths := [(1, { tsq := List.replicate 8 (0, 0, 0) })] } : State), by decide +kernel⟩,
    ⟨(1 : Fin 2), (State.reset : State), by simp only [State.takes]; decide +kernel⟩,
    ⟨(1 : Fin 2), ({ State.reset with eths := [(1, { tsq := (1, 2, 3) :: List.replicate 7 (0, 0, 0) })] } : State), ((1, 2, 3) : Nat × Nat × Nat), (List.replicate 7 (0, 0, 0) : List (Nat × Nat × Nat)), by simp only [State.takes]; decide +kernel⟩,
    ⟨(1 : Fin 2), ({ State.reset with eths := [(1, { tsq := (1, 2, 3) :: List.replicate 7 (0, 0, 0), tsqLost := some (0, (5, 6, 7), 9, false) })] } : State), ((1, 2, 3) : Nat × Nat × Nat), (List.replicate 7 (0, 0, 0) : List (Nat × Nat × Nat)), ((5, 6, 7) : Nat × Nat × Nat), (9 : Nat), (false : Bool), by simp only [State.takes]; decide +kernel⟩,
    ⟨(1 : Fin 2), (sets [((ETH.PTP_STAT_VALID (1 : Fin 2)), 1), (TBS.TSTAT_HOLDOVER, 0), (TBS.TCFG_TSRC, 2)] : State), by simp only [State.takes]; decide +kernel⟩,
    ⟨(1 : Fin 2), (sets [((ETH.PTP_STAT_VALID (1 : Fin 2)), 0), (TBS.TCFG_TSRC, 2)] : State), by simp only [State.takes]; decide +kernel⟩,
    ⟨(1 : Nat), (sets [((ETH.PTP_STAT_VALID (1 : Nat)), 0), (TBS.TCFG_TSRC, 2)] : State), by decide +kernel⟩,
    ⟨(1 : Nat), ({ sets [((ETH.PTP_STAT_VALID (1 : Nat)), 1), (TBS.TSTAT_RATE_LIM, 0), (TBS.TCFG_TSRC, 2), (TBS.TCFG_RATE_MAX, 1)] with eths := [(1, { inc := 34359738368 + 34359739 })] } : State), by decide +kernel⟩⟩

/-! ### Clocks and power (R400–R421) -/

theorem test_meets_ClockDomainsAndPowerStates :
    (∃ (d : Fin 16) (s : State), (s.takes CLK.page) ∧ (s.get CLK.GATE_GATE = 0) ∧ (d.val ∈ gateable) ∧ (s.domUsed d = false))
    ∧ (∃ (d : Fin 16) (s : State), (s.takes CLK.page) ∧ (s.get CLK.GATE_GATE = 0) ∧ (d.val ∉ gateable))
    ∧ (∃ (d : Fin 16) (s : State), (s.takes CLK.page) ∧ (s.get CLK.GATE_GATE = 0) ∧ (d.val ∈ gateable) ∧ (s.domUsed d = true))
    ∧ (∃ (d : Nat) (s : State), (d ∈ [3, 4, 5, 12, 13]) ∧ (s.ps < psSLEEP) ∧ ((s.get CLK.GATE_GATE).testBit d = false))
    ∧ (∃ (s : State), (s.pwr.warm = none) ∧ (s.memx.shut = false))
    ∧ (∃ (s : State), (s.ps = psRUN))
    ∧ (∃ (n : Fin 3) (b : BitVec 6) (s : State), (s.on (PLL.PCFG_EN n) = true) ∧ (s.on (PLL.PSTAT_LOCKED n) = false))
    ∧ (∃ (n : Fin 3) (s : State), (s.on (PLL.PSTAT_LOCKED n) = true) ∧ (n.val ≠ 1) ∧ (s.pwr.warm = none) ∧ (s.memx.shut = false))
    ∧ (∃ (n : Fin 3) (s : State), (s.on (PLL.PSTAT_LOCKED n) = false))
    ∧ (∃ (s : State), (s.takes PWR.page) ∧ (s.ps = psHOLD))
    ∧ (∃ (s : State), (s.ps = psRUN))
    ∧ (∃ (s : State), (s.takes PWR.page) ∧ (s.ps = psRUN))
    ∧ (∃ (s : State), (s.takes PWR.page) ∧ (s.ps ≤ psHOLD) ∧ (s.armed = true))
    ∧ (∃ (s : State), (s.takes PWR.page) ∧ (s.ps ≤ psHOLD) ∧ (s.armed = false) ∧ (s.intPending = false))
    ∧ (∃ (s : State), (s.takes PWR.page) ∧ (s.ps ≤ psHOLD) ∧ (s.armed = false) ∧ (s.intPending = true))
    ∧ (∃ (s : State), (s.takes PWR.page) ∧ (s.ps ≤ psHOLD) ∧ (s.armed = false) ∧ (s.reg AON.WAKE_EN &&& 0xFF7F = 0))
    ∧ (∃ (s : State), (s.takes PWR.page) ∧ (s.ps ≤ psHOLD) ∧ (s.armed = false) ∧ (s.reg AON.WAKE_EN &&& 0xFF7F ≠ 0) ∧ (s.on CLK.MON_XT_FAIL = true))
    ∧ (∃ (s : State), (s.takes PWR.page) ∧ (s.ps ≤ psHOLD) ∧ (s.armed = false) ∧ (s.reg AON.WAKE_EN &&& 0xFF7F ≠ 0) ∧ (s.on CLK.MON_XT_FAIL = false))
    ∧ (∃ (s : State), (s.ps = psDOZE) ∧ (s.intPending = true))
    ∧ (∃ (s : State), (s.ps = psDOZE) ∧ (s.intPending = false))
    ∧ (∃ (src : BitVec 16) (t0 : Nat) (s : State), (s.wakeMask src ≠ 0) ∧ (s.memx.shut = false) ∧ (s.memx.tsdPend = none) ∧ (s.pwr.slp = some t0) ∧ (s.pwr.slp4 = false) ∧ (s.now < t0 + 700 * tUs))
    ∧ (∃ (src : BitVec 16) (s : State), (s.wakeMask src ≠ 0) ∧ (s.memx.shut = false) ∧ (s.memx.tsdPend = none) ∧ (s.ps = psSLEEP) ∧ (s.pwr.slp = none) ∧ (s.pwr.left ≤ psHOLD))
    ∧ (∃ (src : BitVec 16) (s : State), (s.wakeMask src ≠ 0) ∧ (s.ps = psSLEEP) ∧ (s.memx.shut = true))
    ∧ (∃ (src : BitVec 16) (s : State), (s.wakeMask src = 0))
    ∧ (∃ (n : Nat) (s : State), (s.pwr.waking = true))
    ∧ (∃ (n : Nat) (s : State), (s.pwr.waking = false)) :=
  ⟨⟨(15 : Fin 16), (sets [(CLK.GATE_GATE, 0)] : State), by simp only [State.takes]; decide +kernel⟩,
    ⟨(0 : Fin 16), (sets [(CLK.GATE_GATE, 0)] : State), by simp only [State.takes]; decide +kernel⟩,
    ⟨(9 : Fin 16), (sets [(CLK.GATE_GATE, 0), (TRL.CFG_LANE_EN, 1)] : State), by simp only [State.takes]; decide +kernel⟩,
    ⟨(13 : Nat), (State.reset : State), by decide +kernel⟩,
    ⟨(State.reset : State), by decide +kernel⟩,
    ⟨(sets [(PWR.STAT_STATE, psRUN)] : State), by decide +kernel⟩,
    ⟨(0 : Fin 3), (0 : BitVec 6), (sets [((PLL.PCFG_EN (0 : Fin 3)), 1), ((PLL.PSTAT_LOCKED (0 : Fin 3)), 0)] : State), by decide +kernel⟩,
    ⟨(0 : Fin 3), (sets [((PLL.PSTAT_LOCKED (0 : Fin 3)), 1)] : State), by decide +kernel⟩,
    ⟨(0 : Fin 3), (sets [((PLL.PSTAT_LOCKED (0 : Fin 3)), 0)] : State), by decide +kernel⟩,
    ⟨(sets [(PWR.STAT_STATE, psHOLD)] : State), by simp only [State.takes]; decide +kernel⟩,
    ⟨(sets [(PWR.STAT_STATE, psRUN)] : State), by decide +kernel⟩,
    ⟨(sets [(PWR.STAT_STATE, psRUN)] : State), by simp only [State.takes]; decide +kernel⟩,
    ⟨(sets [(PWR.STAT_ARMED, 1)] : State), by simp only [State.takes]; decide +kernel⟩,
    ⟨(State.reset : State), by simp only [State.takes]; decide +kernel⟩,
    ⟨(sets [(INTC.SRC_TGT 0, 2), (⟨HDR.IRQ_RAW (pageOfLine 0), 0, 1⟩, 1), (⟨HDR.IRQ_EN (pageOfLine 0), 0, 1⟩, 1)] : State), by simp only [State.takes]; decide +kernel⟩,
    ⟨(State.reset : State), by simp only [State.takes]; decide +kernel⟩,
    ⟨(sets [(CLK.MON_XT_FAIL, 1), (⟨AON.WAKE_EN, 0, 32⟩, 0x8000)] : State), by simp only [State.takes]; decide +kernel⟩,
    ⟨(sets [(CLK.MON_XT_FAIL, 0), (⟨AON.WAKE_EN, 0, 32⟩, 0x8000)] : State), by simp only [State.takes]; decide +kernel⟩,
    ⟨(sets [(PWR.STAT_STATE, psDOZE), (INTC.SRC_TGT 0, 2), (⟨HDR.IRQ_RAW (pageOfLine 0), 0, 1⟩, 1), (⟨HDR.IRQ_EN (pageOfLine 0), 0, 1⟩, 1)] : State), by decide +kernel⟩,
    ⟨(sets [(PWR.STAT_STATE, psDOZE)] : State), by decide +kernel⟩,
    ⟨(0x8000 : BitVec 16), (9 : Nat), ({ sets [(⟨AON.WAKE_EN, 0, 32⟩, 0x8000)] with pwr := { slp := some 9 } } : State), by decide +kernel⟩,
    ⟨(0x8000 : BitVec 16), ({ sets [(PWR.STAT_STATE, psSLEEP), (⟨AON.WAKE_EN, 0, 32⟩, 0x8000)] with pwr := { left := 0 } } : State), by decide +kernel⟩,
    ⟨(0x8000 : BitVec 16), ({ sets [(PWR.STAT_STATE, psSLEEP), (⟨AON.WAKE_EN, 0, 32⟩, 0x8000)] with memx := { shut := true } } : State), by decide +kernel⟩,
    ⟨(0 : BitVec 16), (State.reset : State), by decide +kernel⟩,
    ⟨(0 : Nat), ({ State.reset with pwr := { waking := true } } : State), by decide +kernel⟩,
    ⟨(0 : Nat), (State.reset : State), by decide +kernel⟩⟩

theorem test_meets_ArmAndDisarm :
    (∃ (s : State), (s.takes PWR.page) ∧ (s.armed = false) ∧ (s.on PWR.STAT_ARM_PEND = false) ∧ (s.armConds.all (fun c => !c.1) = true))
    ∧ (∃ (s : State), (s.takes PWR.page) ∧ (s.armed = false) ∧ (s.on PWR.STAT_ARM_PEND = false) ∧ (s.ps ≠ psRUN))
    ∧ (∃ (s : State), (s.takes PWR.page) ∧ (s.armed = false) ∧ (s.on PWR.STAT_ARM_PEND = false) ∧ (s.ps = psRUN) ∧ (s.on SAF.STAT_ARM_OK = false))
    ∧ (∃ (s : State), (s.takes PWR.page) ∧ (s.armed = false) ∧ (s.on PWR.STAT_ARM_PEND = false) ∧ (s.ps = psRUN) ∧ (s.on SAF.STAT_ARM_OK = true) ∧ (s.armPermit = false))
    ∧ (∃ (s : State), (s.armed = true ∨ s.on PWR.STAT_ARM_PEND = true))
    ∧ (∃ (k : BitVec 8) (s : State), (s.takes PWR.page) ∧ (k ≠ 0xA5))
    ∧ (∃ (s : State), (s.on PWR.STAT_ARM_PEND = true) ∧ (s.armConds.all (fun c => !c.1) = true))
    ∧ (∃ (s : State) (c : Bool × Nat), (s.on PWR.STAT_ARM_PEND = true) ∧ (s.armConds.find? (fun c => c.1) = some c))
    ∧ (∃ (s : State), (s.takes PWR.page) ∧ (s.armed = true) ∧ (s.on PWR.STAT_ARM_PEND = false))
    ∧ (∃ (s : State), (s.takes PWR.page) ∧ (s.armed = false) ∧ (s.on PWR.STAT_ARM_PEND = true))
    ∧ (∃ (s : State), (s.takes PWR.page) ∧ (s.armed = false) ∧ (s.on PWR.STAT_ARM_PEND = false))
    ∧ (∃ (v : BitVec 16) (s : State), (v.toNat < s.get PWR.VIN_VIN_WARN) ∧ (s.on PWR.STAT_VIN_LOW = false))
    ∧ (∃ (v : BitVec 16) (s : State), (s.get PWR.VIN_VIN_WARN ≤ v.toNat))
    ∧ (∃ (s : State), (s.get AON.RTC_ALM_ALM ≠ 0) ∧ (s.ps ≠ psOFF) ∧ (s.get AON.RTC_SEC_SEC ≤ s.get AON.RTC_ALM_ALM) ∧ (s.now < s.pwr.rtcAt + (s.get AON.RTC_ALM_ALM - s.get AON.RTC_SEC_SEC) * tS + tS))
    ∧ (∃ (s : State), (s.get AON.RTC_ALM_ALM = 0)) :=
  ⟨⟨(sets [(PWR.STAT_ARM_PEND, 0), (SEC.LC_STAT_LC, 1), (SAF.STAT_ARM_OK, 1), (MOD.TB_STAT_LOCK, 1), (MOD.TB_STAT_CAL_OK, 1), (PLL.PSTAT_LOCKED 0, 1), (PLL.PSTAT_LOCKED 1, 1), (PLL.PSTAT_LOCKED 2, 1)] : State), by simp only [State.takes]; decide +kernel⟩,
    ⟨(sets [(PWR.STAT_ARM_PEND, 0), (PWR.STAT_STATE, 1)] : State), by simp only [State.takes]; decide +kernel⟩,
    ⟨(sets [(PWR.STAT_ARM_PEND, 0), (PWR.STAT_STATE, psRUN), (SAF.STAT_ARM_OK, 0)] : State), by simp only [State.takes]; decide +kernel⟩,
    ⟨(sets [(PWR.STAT_ARM_PEND, 0), (PWR.STAT_STATE, psRUN), (SAF.STAT_ARM_OK, 1)] : State), by simp only [State.takes]; decide +kernel⟩,
    ⟨(sets [(PWR.STAT_ARMED, 1)] : State), by decide +kernel⟩,
    ⟨(0 : BitVec 8), (State.reset : State), by simp only [State.takes]; decide +kernel⟩,
    ⟨(sets [(PWR.STAT_ARM_PEND, 1), (SEC.LC_STAT_LC, 1), (SAF.STAT_ARM_OK, 1), (MOD.TB_STAT_LOCK, 1), (MOD.TB_STAT_CAL_OK, 1), (PLL.PSTAT_LOCKED 0, 1), (PLL.PSTAT_LOCKED 1, 1), (PLL.PSTAT_LOCKED 2, 1)] : State), by decide +kernel⟩,
    ⟨(sets [(PWR.STAT_ARM_PEND, 1), (SAF.STAT_ARM_OK, 0)] : State), ((true, pSAFETY) : Bool × Nat), by decide +kernel⟩,
    ⟨(sets [(PWR.STAT_ARMED, 1), (PWR.STAT_ARM_PEND, 0)] : State), by simp only [State.takes]; decide +kernel⟩,
    ⟨(sets [(PWR.STAT_ARM_PEND, 1)] : State), by simp only [State.takes]; decide +kernel⟩,
    ⟨(sets [(PWR.STAT_ARM_PEND, 0)] : State), by simp only [State.takes]; decide +kernel⟩,
    ⟨(0 : BitVec 16), (sets [(PWR.STAT_VIN_LOW, 0)] : State), by decide +kernel⟩,
    ⟨(0xFFFF : BitVec 16), (State.reset : State), by decide +kernel⟩,
    ⟨(sets [(AON.RTC_ALM_ALM, 1)] : State), by decide +kernel⟩,
    ⟨(sets [(AON.RTC_ALM_ALM, 0)] : State), by decide +kernel⟩⟩

/-! ### Lifecycle, keys and debug (R422–R446) -/

theorem test_meets_LifecyclePairingAndKeys :
    (∃ (t : BitVec 3) (s : State), (s.takes SEC.page) ∧ (4 < t.toNat))
    ∧ (∃ (t : BitVec 3) (s : State), (s.takes SEC.page) ∧ (t.toNat ≤ 4) ∧ (s.armedOrPend = true))
    ∧ (∃ (t : BitVec 3) (s : State), (s.takes SEC.page) ∧ (t.toNat ≤ 4) ∧ (s.armedOrPend = false) ∧ (s.secBusy = true))
    ∧ (∃ (t : BitVec 3) (s : State), (s.takes SEC.page) ∧ (t.toNat ≤ 4) ∧ (s.armedOrPend = false) ∧ (s.secBusy = false) ∧ (lcPath s.lc t.toNat = none))
    ∧ (∃ (t : BitVec 3) (s : State) (c : Nat), (s.takes SEC.page) ∧ (t.toNat ≤ 4) ∧ (s.armedOrPend = false) ∧ (s.secBusy = false) ∧ (lcPath s.lc t.toNat = some true) ∧ (s.tokenFail t.toNat = some c))
    ∧ (∃ (t : BitVec 3) (s : State), (s.takes SEC.page) ∧ (s.armedOrPend = false) ∧ (s.secBusy = false) ∧ (s.lc = lcSERVICE) ∧ (t.toNat = lcFIELD))
    ∧ (∃ (t : Nat) (s : State), (s.sec.used = true))
    ∧ (∃ (h : Nat) (s : State), (s.lc = lcFIELD) ∧ (h < 1024))
    ∧ (∃ (h : Nat) (s : State), (s.lc ≠ 4))
    ∧ (∃ (t : Nat) (h : Nat) (s : State), (s.sec.lc = some (t, h, none)) ∧ (t ≤ 4))
    ∧ (∃ (t : Nat) (h : Nat) (i : Nat) (s : State), (s.sec.lc = some (t, h, some i)))
    ∧ (∃ (s : State), (s.sec.lc = none))
    ∧ (∃ (s : State), (s.takes SEC.page))
    ∧ (∃ (e : Nat) (s : State), (s.sec.svcEnd = some e) ∧ (s.lc = lcSERVICE))
    ∧ (∃ (s : State), (s.sec.svcEnd = none))
    ∧ (∃ (k : BitVec 8) (s : State), (s.takes SEC.page) ∧ (s.lc = 2 ∨ s.lc = 4))
    ∧ (∃ (k : BitVec 8) (s : State), (s.takes SEC.page) ∧ (s.lc ≠ 2) ∧ (s.lc ≠ 4) ∧ (s.armedOrPend = true))
    ∧ (∃ (k : BitVec 8) (s : State), (s.takes SEC.page) ∧ (s.lc ≠ 2) ∧ (s.lc ≠ 4) ∧ (s.armedOrPend = false) ∧ (s.secBusy = false) ∧ (leNat s.token 12 1 = 0))
    ∧ (∃ (k : Nat) (i : Nat) (v : BitVec 256) (s : State), (s.sec.key = some (k, v)) ∧ (k < 256) ∧ (s.sec.slots.length = 64) ∧ (s.sec.slots.findIdx? (fun q => !q.valid) = some i))
    ∧ (∃ (s : State), (s.sec.key = none))
    ∧ (∃ (k : BitVec 8) (s : State) (q0 : KeySlot), (s.takes SEC.page) ∧ (s.lc ≠ 4) ∧ (s.armedOrPend = false) ∧ (s.secBusy = false) ∧ (s.keySlot k.toNat = some q0))
    ∧ (∃ (k : BitVec 8) (s : State), (s.takes SEC.page) ∧ (s.lc ≠ 4) ∧ (s.armedOrPend = false) ∧ (s.secBusy = false) ∧ (s.keySlot k.toNat = none))
    ∧ (∃ (v : BitVec 7) (s : State), (s.takes SEC.page) ∧ (s.get SEC.RB_MIN ≤ v.toNat) ∧ (v.toNat ≤ s.sec.runRb))
    ∧ (∃ (v : BitVec 7) (s : State), (s.takes SEC.page) ∧ (v.toNat < s.get SEC.RB_MIN ∨ s.sec.runRb < v.toNat)) :=
  ⟨⟨(5 : BitVec 3), (State.reset : State), by simp only [State.takes]; decide +kernel⟩,
    ⟨(4 : BitVec 3), (sets [(PWR.STAT_ARMED, 1)] : State), by simp only [State.takes]; decide +kernel⟩,
    ⟨(4 : BitVec 3), ({ State.reset with sec := { State.reset.sec with lc := some (4, 0, none) } } : State), by simp only [State.takes]; decide +kernel⟩,
    ⟨(1 : BitVec 3), (sets [(SEC.LC_STAT_LC, 2)] : State), by simp only [State.takes]; decide +kernel⟩,
    ⟨(4 : BitVec 3), (State.reset : State), (sTOKEN : Nat), by simp only [State.takes]; decide +kernel⟩,
    ⟨(lcFIELD : BitVec 3), (sets [(SEC.LC_STAT_LC, lcSERVICE)] : State), by simp only [State.takes]; decide +kernel⟩,
    ⟨(0 : Nat), ({ State.reset with sec := { State.reset.sec with used := true } } : State), by decide +kernel⟩,
    ⟨(0 : Nat), (sets [(SEC.LC_STAT_LC, lcFIELD)] : State), by decide +kernel⟩,
    ⟨(0 : Nat), (State.reset : State), by decide +kernel⟩,
    ⟨(4 : Nat), (0 : Nat), ({ State.reset with sec := { State.reset.sec with lc := some (4, 0, none) } } : State), by decide +kernel⟩,
    ⟨(1 : Nat), (0 : Nat), (3 : Nat), ({ State.reset with sec := { State.reset.sec with lc := some (1, 0, some 3) } } : State), by decide +kernel⟩,
    ⟨(State.reset : State), by decide +kernel⟩,
    ⟨(State.reset : State), by simp only [State.takes]; decide +kernel⟩,
    ⟨(9 : Nat), ({ sets [(SEC.LC_STAT_LC, lcSERVICE)] with sec := { State.reset.sec with svcEnd := some 9 } } : State), by decide +kernel⟩,
    ⟨(State.reset : State), by decide +kernel⟩,
    ⟨(0 : BitVec 8), (sets [(SEC.LC_STAT_LC, 2)] : State), by simp only [State.takes]; decide +kernel⟩,
    ⟨(0 : BitVec 8), (sets [(PWR.STAT_ARMED, 1)] : State), by simp only [State.takes]; decide +kernel⟩,
    ⟨(0 : BitVec 8), (State.reset : State), by simp only [State.takes]; decide +kernel⟩,
    ⟨(255 : Nat), (0 : Nat), (7 : BitVec 256), ({ State.reset with sec := { State.reset.sec with key := some (255, 7) } } : State), by decide +kernel⟩,
    ⟨(State.reset : State), by decide +kernel⟩,
    ⟨(255 : BitVec 8), ({ sets [(SEC.LC_STAT_LC, 2)] with sec := { State.reset.sec with slots := [⟨255, true, false, 7⟩] } } : State), (⟨255, true, false, 7⟩ : KeySlot), by simp only [State.takes]; decide +kernel⟩,
    ⟨(0 : BitVec 8), (State.reset : State), by simp only [State.takes]; decide +kernel⟩,
    ⟨(0 : BitVec 7), (State.reset : State), by simp only [State.takes]; decide +kernel⟩,
    ⟨(0 : BitVec 7), (sets [(SEC.RB_MIN, 1)] : State), by simp only [State.takes]; decide +kernel⟩⟩

theorem test_meets_DebugPortAndMatrix :
    (∃ (s : State), (s.takes SEC.page) ∧ (s.dbgSt ≠ 0))
    ∧ (∃ (s : State), (s.takes SEC.page) ∧ (s.lc = lcFIELD ∨ s.lc = lcSERVICE))
    ∧ (∃ (s : State), (s.takes SEC.page) ∧ (s.lc ≠ lcFIELD) ∧ (s.lc ≠ lcSERVICE))
    ∧ (∃ (s : State), (s.takes SEC.page) ∧ (s.tokenHead [0x43, 0x44, 0x42, 0x47] = true) ∧ (s.nonceOk = false))
    ∧ (∃ (e : Nat) (s : State), (s.sec.dbgEnd = some e) ∧ (s.dbgSt ≠ 0))
    ∧ (∃ (s : State), (s.sec.dbgEnd = none))
    ∧ (∃ (src : Fin 5) (s : State), (s.dbgHas (if src.val < 3 then 1 else 3) = false))
    ∧ (∃ (src : Fin 5) (s : State), (3 ≤ src.val) ∧ (s.dbgHas 3 = true))
    ∧ (∃ (a : Nat) (d : List Byte) (s : State), (s.dbgHas 2 = false))
    ∧ (∃ (s : State), (s.lc = 0))
    ∧ (∃ (s : State), (s.lc = 1))
    ∧ (∃ (s : State), (s.lc = 2 ∨ s.lc = 3))
    ∧ (∃ (s : State), (s.lc = 4))
    ∧ (∃ (st : Nat) (sc : Nat) (e : Option Nat) (s : State), (st < 3) ∧ (sc < 4) ∧ ((s.dbgGo st sc e).armed = true)) :=
  ⟨⟨(State.reset : State), by simp only [State.takes]; decide +kernel⟩,
    ⟨(sets [(SEC.LC_STAT_LC, lcFIELD)] : State), by simp only [State.takes]; decide +kernel⟩,
    ⟨(State.reset : State), by simp only [State.takes]; decide +kernel⟩,
    ⟨({ sets [(⟨SEC.TOKEN 0, 0, 32⟩, 0x47424443), (⟨SEC.TOKEN 1, 0, 32⟩, 0x1)] with sec := { State.reset.sec with used := true } } : State), by simp only [State.takes]; decide +kernel⟩,
    ⟨(9 : Nat), ({ State.reset with sec := { State.reset.sec with dbgEnd := some 9 } } : State), by decide +kernel⟩,
    ⟨(State.reset : State), by decide +kernel⟩,
    ⟨(4 : Fin 5), (sets [(SEC.DBG_STAT_STATE, 0)] : State), by decide +kernel⟩,
    ⟨(4 : Fin 5), (State.reset : State), by decide +kernel⟩,
    ⟨(0x28000000 : Nat), ([1] : List Byte), (sets [(SEC.DBG_STAT_STATE, 0)] : State), by decide +kernel⟩,
    ⟨(sets [(SEC.LC_STAT_LC, 0)] : State), by decide +kernel⟩,
    ⟨(sets [(SEC.LC_STAT_LC, 1)] : State), by decide +kernel⟩,
    ⟨(sets [(SEC.LC_STAT_LC, 2)] : State), by decide +kernel⟩,
    ⟨(sets [(SEC.LC_STAT_LC, 4)] : State), by decide +kernel⟩,
    ⟨(2 : Nat), (3 : Nat), (none : Option Nat), (sets [(PWR.STAT_ARMED, 1), (SEC.LC_STAT_LC, 1)] : State), by decide +kernel⟩⟩

/-! ### Memory integrity (R447–R459, R473–R475) -/

theorem test_meets_MemoryErrors :
    (∃ (r : Fin 20) (i : Nat) (y : BitVec 8) (k : Bool) (s : State), (i < regionWords r) ∧ (s.onTestPage r i = false))
    ∧ (∃ (r : Fin 20) (i : Nat) (y : BitVec 8) (k : Bool) (s : State), (i < regionWords r) ∧ (s.onTestPage r i = true))
    ∧ (∃ (r : Fin 20) (i : Nat) (y : BitVec 8) (k : Bool) (s : State), (regionWords r ≤ i))
    ∧ (∃ (r : Fin 20) (i : Nat) (y : Nat) (src : Fin 2) (s : State), (i < regionWords r) ∧ (y < 256) ∧ (s.get MEM.PAN_STAT_LEVEL + 1 < s.get MEM.PAN_CFG_THR))
    ∧ (∃ (r : Fin 20) (i : Nat) (y : Nat) (src : Fin 2) (s : State), (i < regionWords r) ∧ (y < 256) ∧ (s.get MEM.PAN_CFG_THR ≤ s.get MEM.PAN_STAT_LEVEL + 1))
    ∧ (∃ (r : Fin 20) (i : Nat) (y : BitVec 8) (c : BitVec 8) (lo : Word) (hi : Word) (s : State), (i < regionWords r) ∧ (s.onTestPage r i = false) ∧ (s.isPoison r i = true))
    ∧ (∃ (r : Fin 20) (i : Nat) (y : BitVec 8) (c : BitVec 8) (lo : Word) (hi : Word) (s : State), (i < regionWords r) ∧ (s.onTestPage r i = false) ∧ (s.isPoison r i = false) ∧ (s.critOf r i = []) ∧ (s.critCtx r i = []))
    ∧ (∃ (r : Fin 18) (i : Nat) (y : Nat) (c : Nat) (slp : Bool) (lo : Word) (hi : Word) (s : State), (i < regionWords r) ∧ (y < 256) ∧ (c < 256))
    ∧ (∃ (r : Nat) (i : Nat) (n : Fin 16) (s : State), (n.val ∈ s.critOf r i) ∧ (s.get (MEM.CRIT_W0_CLASS n) = 4) ∧ (s.memx.shut = false))
    ∧ (∃ (r : Nat) (i : Nat) (n : Fin 16) (s : State), (n.val ∈ s.critOf r i) ∧ (s.get (MEM.CRIT_W0_CLASS n) = 2))
    ∧ (∃ (r : Nat) (i : Nat) (s : State), (s.critOf r i = []) ∧ (s.critCtx r i = [])) :=
  ⟨⟨(0 : Fin 20), (0 : Nat), (0 : BitVec 8), (false : Bool), (State.reset : State), by decide +kernel⟩,
    ⟨(0 : Fin 20), (2097151 : Nat), (0 : BitVec 8), (false : Bool), (sets [(MEM.TEST_CFG_EN, 1), (MEM.TEST_CFG_PAGE, 0xFFF)] : State), by decide +kernel⟩,
    ⟨(0 : Fin 20), (2097152 : Nat), (0 : BitVec 8), (false : Bool), (State.reset : State), by decide +kernel⟩,
    ⟨(0 : Fin 20), (0 : Nat), (0 : Nat), (0 : Fin 2), (State.reset : State), by decide +kernel⟩,
    ⟨(19 : Fin 20), (0 : Nat), (255 : Nat), (0 : Fin 2), (sets [(MEM.PAN_CFG_THR, 1)] : State), by decide +kernel⟩,
    ⟨(0 : Fin 20), (2097151 : Nat), (0 : BitVec 8), (0 : BitVec 8), (0 : Word), (0 : Word), ({ State.reset with poison := [(wordKey 0 2097151, true)] } : State), by decide +kernel⟩,
    ⟨(0 : Fin 20), (0 : Nat), (0 : BitVec 8), (0 : BitVec 8), (0 : Word), (0 : Word), (State.reset : State), by decide +kernel⟩,
    ⟨(0 : Fin 18), (0 : Nat), (0 : Nat), (0 : Nat), (false : Bool), (0 : Word), (0 : Word), (State.reset : State), by decide +kernel⟩,
    ⟨(0 : Nat), (0 : Nat), (0 : Fin 16), (sets [((MEM.CRIT_W0_CLASS (0 : Fin 16)), 4)] : State), by decide +kernel⟩,
    ⟨(0 : Nat), (0 : Nat), (0 : Fin 16), (sets [((MEM.CRIT_W0_CLASS (0 : Fin 16)), 2)] : State), by decide +kernel⟩,
    ⟨(0 : Nat), (0 : Nat), (State.reset : State), by decide +kernel⟩⟩

theorem test_meets_RakeTestPageAndRemap :
    (∃ (r : Fin 20) (y : BitVec 8) (c : BitVec 8) (lo : Word) (hi : Word) (s : State) (u : State), (s.on MEM.RAKE_CFG_EN = true) ∧ ((s.get MEM.RAKE_REG_EN).testBit r = true) ∧ (s.get PWR.STAT_STATE ≠ 3) ∧ (s.isPoison r (s.walkAt r) = false) ∧ (u = s.modMem (fun x => { x with walk := SMap.put (fun _ => 0) x.walk r.val ((s.walkAt r + 1) % regionWords r) })) ∧ (s.justWritten r (s.walkAt r) = true))
    ∧ (∃ (r : Fin 20) (y : BitVec 8) (c : BitVec 8) (lo : Word) (hi : Word) (s : State) (u : State), (s.on MEM.RAKE_CFG_EN = true) ∧ ((s.get MEM.RAKE_REG_EN).testBit r = true) ∧ (s.get PWR.STAT_STATE ≠ 3) ∧ (s.isPoison r (s.walkAt r) = false) ∧ (u = s.modMem (fun x => { x with walk := SMap.put (fun _ => 0) x.walk r.val ((s.walkAt r + 1) % regionWords r) })) ∧ (s.justWritten r (s.walkAt r) = false))
    ∧ (∃ (y : BitVec 8) (c : BitVec 8) (lo : Word) (hi : Word) (s : State), (s.get PWR.STAT_STATE = 3) ∧ (s.on MEM.RAKE_CFG_EN = true) ∧ ((s.get MEM.RAKE_REG_EN).testBit 17 = true) ∧ (s.isPoison 17 (s.walkAt 17) = false) ∧ (s.walkAt 17 < 65536) ∧ (s.memx.found.length < 4))
    ∧ (∃ (y : BitVec 8) (c : BitVec 8) (lo : Word) (hi : Word) (s : State), (s.get PWR.STAT_STATE = 3) ∧ (s.on MEM.RAKE_CFG_EN = true) ∧ ((s.get MEM.RAKE_REG_EN).testBit 17 = true) ∧ (s.isPoison 17 (s.walkAt 17) = false) ∧ (s.walkAt 17 < 65536) ∧ (4 ≤ s.memx.found.length))
    ∧ (∃ (r : BitVec 5) (i : BitVec 21) (s : State), (s.takes MEM.page) ∧ (20 ≤ r.toNat ∨ regionWords r.toNat ≤ i.toNat))
    ∧ (∃ (r : BitVec 5) (i : BitVec 21) (s : State), (s.takes MEM.page) ∧ (r.toNat < 18) ∧ (i.toNat < regionWords r.toNat))
    ∧ (∃ (s : State), (s.takes MEM.page) ∧ (s.on MEM.TEST_CFG_EN = false))
    ∧ (∃ (s : State), (s.takes MEM.page) ∧ (s.on MEM.TEST_CFG_EN = true))
    ∧ (∃ (n : Fin 4) (p : BitVec 12) (s : State), (s.takes MEM.page) ∧ (s.remapped p.toNat = true))
    ∧ (∃ (n : Fin 4) (p : BitVec 12) (s : State), (s.takes MEM.page) ∧ (s.remapped p.toNat = false) ∧ (s.on MEM.TEST_CFG_EN = false) ∧ (∀ m : Fin 4, s.on (MEM.REMAP_BUSY m) = false) ∧ (s.on (MEM.REMAP_ACTIVE n) = false))
    ∧ (∃ (n : Fin 4) (s : State), (s.on (MEM.REMAP_BUSY n) = true))
    ∧ (∃ (n : Fin 4) (s : State), (s.on (MEM.REMAP_BUSY n) = false))
    ∧ (∃ (i : Nat) (bs : List Byte) (s : State), (i < 2097152) ∧ (1 ≤ bs.length) ∧ (bs.length ≤ 8) ∧ (s.unreadable 0 i = false) ∧ (s.rawWord 0 i = none) ∧ (bs.length < 8))
    ∧ (∃ (i : Nat) (bs : List Byte) (s : State), (i < 2097152) ∧ (1 ≤ bs.length) ∧ (bs.length ≤ 8) ∧ (s.unreadable 0 i = true) ∧ (bs.length < 8))
    ∧ (∃ (i : Nat) (bs : List Byte) (s : State), (i < 2097152) ∧ (1 ≤ bs.length) ∧ (bs.length ≤ 8) ∧ (bs.length = 8)) :=
  ⟨⟨(19 : Fin 20), (0 : BitVec 8), (0 : BitVec 8), (0 : Word), (0 : Word), ({ sets [(MEM.RAKE_CFG_EN, 1)] with memx := { fullAt := 0, full := [wordKey 19 0] } } : State), (({ sets [(MEM.RAKE_CFG_EN, 1)] with memx := { fullAt := 0, full := [wordKey 19 0] } } : State).modMem (fun x => { x with walk := SMap.put (fun _ => 0) x.walk (19 : Fin 20).val ((({ sets [(MEM.RAKE_CFG_EN, 1)] with memx := { fullAt := 0, full := [wordKey 19 0] } } : State).walkAt (19 : Fin 20) + 1) % regionWords (19 : Fin 20)) }) : State), by decide +kernel⟩,
    ⟨(0 : Fin 20), (0 : BitVec 8), (0 : BitVec 8), (0 : Word), (0 : Word), (sets [(MEM.RAKE_CFG_EN, 1)] : State), ((sets [(MEM.RAKE_CFG_EN, 1)] : State).modMem (fun x => { x with walk := SMap.put (fun _ => 0) x.walk (0 : Fin 20).val (((sets [(MEM.RAKE_CFG_EN, 1)] : State).walkAt (0 : Fin 20) + 1) % regionWords (0 : Fin 20)) }) : State), by decide +kernel⟩,
    ⟨(0 : BitVec 8), (0 : BitVec 8), (0 : Word), (0 : Word), (sets [(PWR.STAT_STATE, 3), (MEM.RAKE_CFG_EN, 1)] : State), by decide +kernel⟩,
    ⟨(0 : BitVec 8), (0 : BitVec 8), (0 : Word), (0 : Word), ({ sets [(PWR.STAT_STATE, 3), (MEM.RAKE_CFG_EN, 1)] with memx := { found := [⟨false, 1, 0, 0, 0, 0⟩, ⟨false, 2, 0, 0, 0, 0⟩, ⟨false, 3, 0, 0, 0, 0⟩, ⟨false, 4, 0, 0, 0, 0⟩] } } : State), by decide +kernel⟩,
    ⟨(20 : BitVec 5), (0 : BitVec 21), (State.reset : State), by simp only [State.takes]; decide +kernel⟩,
    ⟨(0 : BitVec 5), (0 : BitVec 21), (State.reset : State), by simp only [State.takes]; decide +kernel⟩,
    ⟨(sets [(MEM.TEST_CFG_EN, 0)] : State), by simp only [State.takes]; decide +kernel⟩,
    ⟨(sets [(MEM.TEST_CFG_EN, 1)] : State), by simp only [State.takes]; decide +kernel⟩,
    ⟨(3 : Fin 4), (0xFFF : BitVec 12), ({ State.reset with memx := { remap := [(0, some 0xFFF)] } } : State), by simp only [State.takes]; decide +kernel⟩,
    ⟨(0 : Fin 4), (0 : BitVec 12), (sets [(MEM.TEST_CFG_EN, 0), ((MEM.REMAP_ACTIVE (0 : Fin 4)), 0)] : State), by simp only [State.takes]; decide +kernel⟩,
    ⟨(0 : Fin 4), (sets [((MEM.REMAP_BUSY (0 : Fin 4)), 1)] : State), by decide +kernel⟩,
    ⟨(0 : Fin 4), (sets [((MEM.REMAP_BUSY (0 : Fin 4)), 0)] : State), by decide +kernel⟩,
    ⟨(2097151 : Nat), (List.replicate 7 5 : List Byte), (State.reset : State), by decide +kernel⟩,
    ⟨(2097151 : Nat), (List.replicate 7 5 : List Byte), ({ State.reset with poison := [(wordKey 0 2097151, true)] } : State), by decide +kernel⟩,
    ⟨(2097151 : Nat), (List.replicate 8 5 : List Byte), ({ State.reset with poison := [(wordKey 0 2097151, true)] } : State), by decide +kernel⟩⟩

/-! ### Temperature, resets, flash and the event log (R460–R478, R503–R508) -/

theorem test_meets_TemperatureAndResets :
    (∃ (r : List Int) (s : State), (s.ps < psSLEEP) ∧ (s.pwr.vinOff = false) ∧ (s.memx.shut = false) ∧ ((s.tsSample r).getS THM.MAX_T < 540) ∧ ((s.tsSample r).on THM.STAT_SOC_BLIND = false))
    ∧ (∃ (r : List Int) (s : State), (s.ps < psSLEEP) ∧ (s.pwr.vinOff = false) ∧ (s.memx.shut = false) ∧ (s.memx.hot = 1) ∧ (540 ≤ (s.tsSample r).getS THM.MAX_T))
    ∧ (∃ (r : List Int) (n : Fin 14) (s : State), (s.tsFitted n = true) ∧ (s.tsExcl n = false) ∧ (s.memx.oor.length = 14) ∧ (-32768 ≤ r.getD n 0) ∧ (r.getD n 0 ≤ 32767) ∧ (r.getD n 0 < -220 ∨ 700 < r.getD n 0) ∧ (s.memx.oor.getD n 0 = 2))
    ∧ (∃ (r : List Int) (s : State) (m : Int × Nat) (n : Nat), (s.tsMax r = some m) ∧ (s.tsFitted n = true) ∧ (s.tsExcl n = false) ∧ (n < 14))
    ∧ (∃ (r : List Int) (s : State), (4 * (s.get THM.CFG_T_WARN : Int) ≤ (s.tsSample r).getS THM.MAX_T))
    ∧ (∃ (r : List Int) (s : State), ((s.tsSample r).getS THM.MAX_T ≤ 4 * (s.get THM.CFG_T_WARN : Int) - 20))
    ∧ (∃ (r : List Int) (s : State), (s.memx.shut = true) ∧ (s.ps < psSLEEP) ∧ (s.pwr.vinOff = false) ∧ (s.memx.cool = 9) ∧ ((s.tsSample r).getS THM.MAX_T < 440) ∧ ((s.tsSample r).on THM.STAT_SOC_BLIND = false) ∧ (s.pwr.warm = none))
    ∧ (∃ (r : List Int) (s : State), (s.memx.shut = false))
    ∧ (∃ (k : BitVec 8) (s : State), (s.takes NVL.page) ∧ (k ≠ 0xA5))
    ∧ (∃ (k : BitVec 8) (s : State), (s.takes NVL.page) ∧ (k = 0xA5))
    ∧ (∃ (k : BitVec 8) (s : State), (s.takes NVL.page) ∧ (k ≠ 0x5A))
    ∧ (∃ (k : BitVec 8) (s : State), (s.takes NVL.page) ∧ (k = 0x5A))
    ∧ (∃ (c : Nat) (s : State), (s.memx.shut = false) ∧ (s.pwr.warm = none))
    ∧ (∃ (s : State), (s.get NVL.RCV_CFG_HB_TMO ≠ 0) ∧ (s.ps < psSLEEP) ∧ (s.memx.shut = false) ∧ (s.pwr.warm = none))
    ∧ (∃ (s : State), (s.get NVL.RCV_CFG_HB_TMO = 0))
    ∧ (∃ (s : State), (s.ps ≠ psOFF) ∧ (s.pwr.vinOff = false))
    ∧ (∃ (s : State), (s.ps = psOFF))
    ∧ (∃ (c : Nat) (s : State), (s.pwr.warm = some c) ∧ (s.secBusy = false) ∧ (s.pwr.vinOff = false))
    ∧ (∃ (s : State), (s.pwr.warm = none) ∧ (s.memx.shut = false) ∧ (s.secBusy = false) ∧ (s.pwr.vinOff = false))
    ∧ (∃ (c : Nat) (s : State), (s.on NVL.RCV_CFG_ESC_PCYC = true) ∧ (s.get NVL.RCV_CFG_WARM_MAX ≤ (s.pwr.warms.filter (fun t => decide (s.now < t + s.get NVL.RCV_CFG_WARM_WIN * tS))).length))
    ∧ (∃ (c : Nat) (w : List Nat) (s : State), (c < 16) ∧ (w.length < 256) ∧ (s.on SAF.STAT_LOCKOUT = true))
    ∧ (∃ (s : State), (s.pwr.switch = false))
    ∧ (∃ (s : State), (s.pwr.switch = true))
    ∧ (∃ (s : State), (s.pwr.vinOff = false))
    ∧ (∃ (s : State), (s.pwr.seatAt = none))
    ∧ (∃ (s : State) (a : Nat), (s.pwr.seatAt = some a) ∧ (s.pwr.switch = false)) :=
  ⟨⟨([] : List Int), (State.reset : State), by decide +kernel⟩,
    ⟨(List.replicate 14 600 : List Int), ({ State.reset with memx := { hot := 1 } } : State), by decide +kernel⟩,
    ⟨(List.replicate 14 (-221) : List Int), (13 : Fin 14), ({ State.reset with memx := { oor := List.replicate 14 2 } } : State), by decide +kernel⟩,
    ⟨(List.replicate 14 600 : List Int), (State.reset : State), ((600, 0) : Int × Nat), (0 : Nat), by decide +kernel⟩,
    ⟨(List.replicate 14 600 : List Int), (State.reset : State), by decide +kernel⟩,
    ⟨([] : List Int), (State.reset : State), by decide +kernel⟩,
    ⟨(List.replicate 14 100 : List Int), ({ State.reset with memx := { shut := true, cool := 9 } } : State), by decide +kernel⟩,
    ⟨([] : List Int), (State.reset : State), by decide +kernel⟩,
    ⟨(0 : BitVec 8), (State.reset : State), by simp only [State.takes]; decide +kernel⟩,
    ⟨(0xA5 : BitVec 8), (State.reset : State), by simp only [State.takes]; decide +kernel⟩,
    ⟨(0 : BitVec 8), (State.reset : State), by simp only [State.takes]; decide +kernel⟩,
    ⟨(0x5A : BitVec 8), (State.reset : State), by simp only [State.takes]; decide +kernel⟩,
    ⟨(0 : Nat), (State.reset : State), by decide +kernel⟩,
    ⟨(sets [(NVL.RCV_CFG_HB_TMO, 1)] : State), by decide +kernel⟩,
    ⟨(sets [(NVL.RCV_CFG_HB_TMO, 0)] : State), by decide +kernel⟩,
    ⟨(State.reset : State), by decide +kernel⟩,
    ⟨(sets [(PWR.STAT_STATE, psOFF)] : State), by decide +kernel⟩,
    ⟨(3 : Nat), ({ State.reset with pwr := { warm := some 3 } } : State), by decide +kernel⟩,
    ⟨(State.reset : State), by decide +kernel⟩,
    ⟨(3 : Nat), ({ sets [(NVL.RCV_CFG_ESC_PCYC, 1), (NVL.RCV_CFG_WARM_MAX, 1)] with pwr := { warms := [0] } } : State), by decide +kernel⟩,
    ⟨(0 : Nat), ([] : List Nat), (sets [(SAF.STAT_LOCKOUT, 1)] : State), by decide +kernel⟩,
    ⟨({ State.reset with pwr := { switch := false } } : State), by decide +kernel⟩,
    ⟨(State.reset : State), by decide +kernel⟩,
    ⟨(State.reset : State), by decide +kernel⟩,
    ⟨({ State.reset with pwr := { seatAt := none } } : State), by decide +kernel⟩,
    ⟨({ State.reset with pwr := { seatAt := some 9, switch := false } } : State), (9 : Nat), by decide +kernel⟩⟩

theorem test_meets_FlashAndEventLog :
    (∃ (d : Bool) (s : State), (s.takes NVL.page) ∧ ((s.nvlConds 1 d).all (fun c => !c.1) = true))
    ∧ (∃ (d : Bool) (s : State), (s.takes NVL.page) ∧ ((s.nvlConds 2 d).all (fun c => !c.1) = true))
    ∧ (∃ (d : Bool) (s : State), (s.takes NVL.page) ∧ ((s.nvlConds 3 d).all (fun c => !c.1) = true))
    ∧ (∃ (s : State), (s.takes NVL.page) ∧ (0x2010000 ≤ s.get NVL.ADDR_ADDR) ∧ (s.get NVL.ADDR_ADDR < 0x2210000))
    ∧ (∃ (s : State), (s.takes NVL.page) ∧ (s.armed = true) ∧ (0x2000000 ≤ s.get NVL.ADDR_ADDR) ∧ (s.get NVL.ADDR_ADDR < 0x200FF00) ∧ (s.get NVL.LEN_LEN ≤ 256))
    ∧ (∃ (s : State), (s.nvl.cmd = none))
    ∧ (∃ (a : Nat) (b : Nat) (n : Nat) (s : State), (s.nvl.cmd = some (1, false, a, b, n)) ∧ (0x20000000 + b + n < 0x21000000) ∧ (s.poison = []) ∧ (s.memx.raw = []))
    ∧ (∃ (a : Nat) (b : Nat) (n : Nat) (s : State), (s.nvl.cmd = some (2, false, a, b, n)))
    ∧ (∃ (b : Nat) (n : Nat) (s : State), (0x20000000 + b + n < 0x21000000) ∧ (∀ i < n, s.isPoison 0 ((b + i) / 8) = false ∧ s.rawWord 0 ((b + i) / 8) = none))
    ∧ (∃ (b : Nat) (n : Nat) (i : Nat) (s : State), (0x20000000 + b + n < 0x21000000) ∧ (i < n) ∧ (s.isPoison 0 ((b + i) / 8) = true))
    ∧ (∃ (a : Nat) (b : Nat) (n : Nat) (s : State), (s.nvl.cmd = some (3, false, a, b, n)))
    ∧ (∃ (c : BitVec 16) (s : State), (s.takes NVL.page) ∧ (c.toNat < 0x8000))
    ∧ (∃ (c : BitVec 16) (s : State), (s.takes NVL.page) ∧ (0x8000 ≤ c.toNat))
    ∧ (∃ (pg : Nat) (e : Nat) (a : Nat) (b : Nat) (s : State), (s.logQ.length < 32))
    ∧ (∃ (pg : Nat) (e : Nat) (a : Nat) (b : Nat) (s : State), (32 ≤ s.logQ.length))
    ∧ (∃ (s : State), (s.logQ = [] ∨ s.pwr.vinOff = true ∨ psSLEEP ≤ s.ps))
    ∧ (∃ (r : LogRec) (q : List LogRec) (s : State), (s.logQ = r :: q) ∧ (s.pwr.vinOff = false) ∧ (s.ps < psSLEEP) ∧ (r.pg % 4096 = 0))
    ∧ (∃ (v : Word) (s : State), (s.takes NVL.page)) :=
  ⟨⟨(false : Bool), (sets [(NVL.ADDR_ADDR, 0x300000), (NVL.LEN_LEN, 16)] : State), by simp only [State.takes]; decide +kernel⟩,
    ⟨(false : Bool), (sets [(NVL.ADDR_ADDR, 0x1300000), (NVL.LEN_LEN, 16)] : State), by simp only [State.takes]; decide +kernel⟩,
    ⟨(false : Bool), (sets [(NVL.ADDR_ADDR, 0x1300000), (NVL.LEN_LEN, 16)] : State), by simp only [State.takes]; decide +kernel⟩,
    ⟨(sets [(NVL.ADDR_ADDR, 0x220FFFF)] : State), by simp only [State.takes]; decide +kernel⟩,
    ⟨(sets [(PWR.STAT_ARMED, 1), (NVL.ADDR_ADDR, 0x200FEFF)] : State), by simp only [State.takes]; decide +kernel⟩,
    ⟨(State.reset : State), by decide +kernel⟩,
    ⟨(0x300000 : Nat), (0 : Nat), (16 : Nat), ({ State.reset with nvl := { cmd := some (1, false, 0x300000, 0, 16) } } : State), by decide +kernel⟩,
    ⟨(0x300000 : Nat), (0 : Nat), (16 : Nat), ({ State.reset with nvl := { cmd := some (2, false, 0x300000, 0, 16) }, poison := [(wordKey 0 1, true)] } : State), by decide +kernel⟩,
    ⟨(1 : Nat), (15 : Nat), (State.reset : State), by decide +kernel⟩,
    ⟨(1 : Nat), (15 : Nat), (7 : Nat), ({ State.reset with poison := [(wordKey 0 1, true)] } : State), by decide +kernel⟩,
    ⟨(0x300000 : Nat), (0 : Nat), (16 : Nat), ({ State.reset with nvl := { cmd := some (3, false, 0x300000, 0, 16) } } : State), by decide +kernel⟩,
    ⟨(0 : BitVec 16), (State.reset : State), by simp only [State.takes]; decide +kernel⟩,
    ⟨(0x8000 : BitVec 16), (State.reset : State), by simp only [State.takes]; decide +kernel⟩,
    ⟨(0 : Nat), (0 : Nat), (0 : Nat), (0 : Nat), (State.reset : State), by decide +kernel⟩,
    ⟨(0 : Nat), (0 : Nat), (0 : Nat), (0 : Nat), ({ State.reset with logQ := List.replicate 32 ⟨0, 0, 0, 0, 0, 0⟩ } : State), by decide +kernel⟩,
    ⟨({ State.reset with pwr := { vinOff := true }, logQ := [⟨1, 2, 3, 4, 5, 6⟩] } : State), by decide +kernel⟩,
    ⟨(⟨1, 2, 0x40000000, 4, 5, 6⟩ : LogRec), ([] : List LogRec), ({ State.reset with logQ := [⟨1, 2, 0x40000000, 4, 5, 6⟩], nvl := { nor := [(0x2010000, 1)] } } : State), by decide +kernel⟩,
    ⟨(0 : Word), (sets [(NVL.LOG_OLD_SEQ, 0xFFFFF800), (NVL.LOG_SEQ_SEQ, 1)] : State), by simp only [State.takes]; decide +kernel⟩⟩

/-! ### Clauses over the opaque functions of Config: frames closed by their own tag and CRC, and tokens whose signature or
wrapped key the opaque function accepts (the premise of each). -/

theorem drop_take_mid (A T C : List Byte) (n m : Nat) (hA : A.length = n) (hT : T.length = m) :
    ((A ++ (T ++ C)).drop n).take m = T := by
  subst hA hT; simp

theorem take_front (A X : List Byte) (n : Nat) (hA : A.length = n) : (A ++ X).take n = A := by subst hA; simp

theorem drop_take_front (A X : List Byte) (i n : Nat) (h : i + n ≤ A.length) :
    ((A ++ X).drop i).take n = (A.drop i).take n := by
  rw [List.drop_append_of_le_length (by omega), List.take_append_of_le_length (by simp; omega)]

theorem leNat_front (A X : List Byte) (i n : Nat) (h : i + n ≤ A.length) : leNat (A ++ X) i n = leNat A i n := by
  unfold leNat
  refine List.foldl_ext _ _ _ (fun a j hj => ?_)
  have : j < n := List.mem_range.mp hj
  rw [List.getD_append _ _ _ _ (by omega)]

theorem length_bytes128 (x : BitVec 128) : (bytes128 x).length = 16 := by simp [bytes128]

/-- A frame body: a head, its tag, padding, and the CRC over them and the session id. -/
noncomputable def sealed (A T P : List Byte) (sid ft len : Nat) : Frame :=
  { ftype := ft, len := len, body := A ++ (T ++ P) ++ leBytes 4 (crc32c (leBytes 4 sid ++ (A ++ (T ++ P)))) }

theorem sealed_check (A T P : List Byte) (sid ft len v : Nat) (h : (A ++ (T ++ P)).length + 4 = 8 * len) (h2 : 2 ≤ A.length)
    (hf : leNat A 1 1 = ft) (hv : leNat A 0 1 = v) : frameCheck (sealed A T P sid ft len) sid ft len (some v) = 0 := by
  have a := leNat_front A (T ++ P ++ leBytes 4 (crc32c (leBytes 4 sid ++ (A ++ (T ++ P))))) 1 1 (by omega)
  have b := leNat_front A (T ++ P ++ leBytes 4 (crc32c (leBytes 4 sid ++ (A ++ (T ++ P))))) 0 1 (by omega)
  have c := frameCrcOk_closed ft len sid _ h
  have g : (A ++ (T ++ P) ++ leBytes 4 (crc32c (leBytes 4 sid ++ (A ++ (T ++ P))))).length = 8 * len := by
    rw [List.length_append, length_leBytes]; exact h
  simp only [List.append_assoc] at a b c g
  simp [frameCheck, sealed, c, a, b, hf, hv, g]

def sackHead : List Byte := [0x21, 7] ++ List.replicate 26 0
def sackState : State :=
  { sets [(LANE.STAT_STATE 47, lnKEY), (LANE.STAT_VER 47, 0x21), (LANE.PEER2_KID 47, 5)] with
    pairKeys := [(5, 9)] }
noncomputable def sackTag : List Byte := bytes128 (Config.gmac
  (sessionKey 9 (sackState.lane 47).sidP (bytes128 (sackState.lane 47).nm) ((sackHead.drop 8).take 16))
  (leBytes 4 (sackState.lane 47).sidP ++ [1, 7] ++ leBytes 6 0) sackHead)

theorem sackHead_length : sackHead.length = 28 := rfl
theorem sackTag_length : sackTag.length = 16 := length_bytes128 _

/-- The first clause of SessionAndConfig. -/
theorem test_meets_SessionAndConfig_sack : ∃ (n : Fin 48) (f : Frame) (s : State) (kp : BitVec 256), s.ln n.val = lnKEY ∧
    s.get (LANE.STAT_VER n.val) = 0x21 ∧ s.pairKey (s.get (LANE.PEER2_KID n.val)) = some kp ∧
    frameCheck f 0 7 6 (some 0x21) = 0 ∧
    (f.body.drop 28).take 16 = bytes128 (Config.gmac
      (sessionKey kp (s.lane n.val).sidP (bytes128 (s.lane n.val).nm) ((f.body.drop 8).take 16))
      (leBytes 4 (s.lane n.val).sidP ++ [1, 7] ++ leBytes 6 0) (f.body.take 28)) ∧ (s.lane n.val).sidP < 2 ^ 32 := by
  refine ⟨47, sealed sackHead sackTag [] 0 7 6, sackState, 9, by decide +kernel, by decide +kernel, by decide +kernel, ?_, ?_,
    by decide +kernel⟩
  · exact sealed_check _ _ _ _ _ _ _ (by simp [sackHead_length, sackTag_length]) (by decide) (by decide) (by decide)
  · have e : (sealed sackHead sackTag [] 0 7 6).body =
      sackHead ++ (sackTag ++ ([] ++ leBytes 4 (crc32c (leBytes 4 0 ++ (sackHead ++ (sackTag ++ [])))))) := by
      simp [sealed]
    rw [e, drop_take_mid _ _ _ _ _ sackHead_length sackTag_length, take_front _ _ _ sackHead_length,
      drop_take_front _ _ _ _ (by rw [sackHead_length]; norm_num)]
    rfl

def ackHead : List Byte := [0x21, 4, 0, 0, 0, 0, 0, 0, 1] ++ List.replicate 23 0
noncomputable def ackState : State :=
  (sets [(LANE.STAT_STATE 47, lnCONFIG), (LANE.STAT_VER 47, 0x21)]).modLane 47
    (fun l => { l with ks := some 9, await := some ⟨0, 0, 0, [], 0⟩ })
noncomputable def ackTag : List Byte := bytes128 (Config.gmac 9 (cfgIv 0 1 4 1) ackHead)
theorem ackHead_length : ackHead.length = 32 := rfl
theorem ackTag_length : ackTag.length = 16 := length_bytes128 _

/-- The fourth clause of SessionAndConfig. -/
theorem test_meets_SessionAndConfig_cfgack : ∃ (n : Fin 48) (f : Frame) (s : State) (k : BitVec 256) (a : CfgWait),
    s.ln n.val ∈ [lnCONFIG, lnUP] ∧ (s.lane n.val).ks = some k ∧ s.get (LANE.STAT_VER n.val) = 0x21 ∧
    (s.lane n.val).await = some a ∧
    frameCheck f (s.get (LANE.SID_SID n.val)) 4 ((36 + leNat f.body 20 1 + 16 + 7) / 8) (some 0x21) = 0 ∧
    (f.body.drop (32 + leNat f.body 20 1)).take 16 = bytes128 (Config.gmac k
      (cfgIv (s.get (LANE.SID_SID n.val)) 1 4 (leNat f.body 8 6)) (f.body.take (32 + leNat f.body 20 1))) ∧
    (s.lane n.val).ccntRx < leNat f.body 8 6 ∧ leNat f.body 24 6 = a.ccnt ∧ leNat f.body 20 1 = a.recs.length := by
  have e : (sealed ackHead ackTag [0, 0, 0, 0] 0 4 7).body = ackHead ++ (ackTag ++ ([0, 0, 0, 0] ++
      leBytes 4 (crc32c (leBytes 4 0 ++ (ackHead ++ (ackTag ++ [0, 0, 0, 0])))))) := by
    simp [sealed]
  have r : leNat (sealed ackHead ackTag [0, 0, 0, 0] 0 4 7).body 20 1 = 0 := by
    rw [e, leNat_front _ _ _ _ (by rw [ackHead_length]; norm_num)]; decide +kernel
  have c : leNat (sealed ackHead ackTag [0, 0, 0, 0] 0 4 7).body 8 6 = 1 := by
    rw [e, leNat_front _ _ _ _ (by rw [ackHead_length]; norm_num)]; decide +kernel
  have g : leNat (sealed ackHead ackTag [0, 0, 0, 0] 0 4 7).body 24 6 = 0 := by
    rw [e, leNat_front _ _ _ _ (by rw [ackHead_length]; norm_num)]; decide +kernel
  have sid : ackState.get (LANE.SID_SID 47) = 0 := by decide +kernel
  refine ⟨47, sealed ackHead ackTag [0, 0, 0, 0] 0 4 7, ackState, 9, ⟨0, 0, 0, [], 0⟩, by decide +kernel, by decide +kernel,
    by decide +kernel, by decide +kernel, ?_, ?_, ?_, g, r⟩
  · rw [r]
    show frameCheck _ (ackState.get (LANE.SID_SID 47)) 4 7 _ = 0
    rw [sid]
    exact sealed_check _ _ _ _ _ _ _ (by simp [ackHead_length, ackTag_length]) (by decide) (by decide) (by decide)
  · rw [r, c]
    show _ = bytes128 (Config.gmac 9 (cfgIv (ackState.get (LANE.SID_SID 47)) 1 4 1) _)
    rw [sid, e, drop_take_mid _ _ _ _ _ ackHead_length ackTag_length, take_front _ _ _ ackHead_length]
    rfl
  · rw [c]
    show (ackState.lane 47).ccntRx < 1
    decide +kernel

def tok (l : List (Nat × Nat)) : List (Fld × Nat) := l.map (fun p => (⟨SEC.TOKEN p.1, 0, 32⟩, p.2))
def lctState : State := sets (tok [(0, 0x54434C43), (1, 1), (11, 0x100)])

/-- The sixth clause of LifecycleRequests, if the token's signature holds. -/
theorem test_meets_LifecycleRequests_token
    (h : sigOk (slice lctState.token 52 96) (slice lctState.token 0 148) (slice lctState.token 148 96) = true) :
    ∃ (t : BitVec 3) (s : State), s.takes SEC.page ∧ t.toNat ≤ 4 ∧ s.armedOrPend = false ∧ s.secBusy = false ∧
      lcPath s.lc t.toNat = some true ∧ s.tokenFail t.toNat = none ∧ t.toNat ≠ s.lc := by
  let s : State := { lctState with sec := { lctState.sec with roots := [(Config.sha384 (slice lctState.token 52 96), false)] } }
  have tk : s.token = lctState.token := rfl
  have hd : s.tokenHead [0x43, 0x4C, 0x43, 0x54] = true :=
    (by decide +kernel : lctState.tokenHead [0x43, 0x4C, 0x43, 0x54] = true)
  have nc : s.nonceOk = true := (by decide +kernel : lctState.nonceOk = true)
  have l0 : s.lc = 0 := (by decide +kernel : lctState.lc = 0)
  have b44 : leNat lctState.token 44 1 = 0 := by decide +kernel
  have b45 : leNat lctState.token 45 1 = 1 := by decide +kernel
  have b46 : leNat lctState.token 46 2 = 0 := by decide +kernel
  have b48 : leNat lctState.token 48 4 = 0 := by decide +kernel
  have any : s.sec.roots.any (fun r => r.1 == Config.sha384 (slice lctState.token 52 96) && !r.2) = true := by simp [s]
  refine ⟨1, s, ?_, by decide, ?_, ?_, ?_, ?_, ?_⟩
  · exact (by simp only [State.takes]; decide +kernel : lctState.takes SEC.page)
  · exact (by decide +kernel : lctState.armedOrPend = false)
  · exact (by decide +kernel : lctState.secBusy = false)
  · rw [l0]; decide
  · simp only [State.tokenFail, tk, hd, nc, l0, b44, b45, b46, b48, any, h]; decide
  · rw [l0]; decide

/-- A token that asks for no change but the revoke of root hash 3. -/
def rootState : State := sets (tok [(0, 0x54434C43), (1, 1), (12, 0x80000003)])

/-- The state of the token whose key is root hash 0, the others unrevoked or not. -/
noncomputable def rootsOf (b : Bool) : State :=
  { rootState with sec := { rootState.sec with
      roots := (Config.sha384 (slice rootState.token 52 96), b) :: List.replicate 2 (0, b)
        ++ [(Config.sha384 (slice rootState.token 52 96), false)] } }

/-- The seventh and eighth clauses of LifecycleRequests, if the token's signature holds. -/
theorem test_meets_LifecycleRequests_revoke
    (h : sigOk (slice rootState.token 52 96) (slice rootState.token 0 148) (slice rootState.token 148 96) = true) :
    ∀ b, ∃ (t : BitVec 3) (s : State) (i : Nat), s.takes SEC.page ∧ t.toNat ≤ 4 ∧ s.armedOrPend = false ∧
      s.secBusy = false ∧ lcPath s.lc t.toNat = some true ∧ s.tokenFail t.toNat = none ∧ t.toNat = s.lc ∧
      rootIdx (leNat s.token 48 4) = some i ∧ s.lastRoot i = b := by
  intro b
  have tk : (rootsOf b).token = rootState.token := rfl
  have hd : (rootsOf b).tokenHead [0x43, 0x4C, 0x43, 0x54] = true :=
    (by decide +kernel : rootState.tokenHead [0x43, 0x4C, 0x43, 0x54] = true)
  have nc : (rootsOf b).nonceOk = true := (by decide +kernel : rootState.nonceOk = true)
  have l0 : (rootsOf b).lc = 0 := (by decide +kernel : rootState.lc = 0)
  have b44 : leNat rootState.token 44 1 = 0 := by decide +kernel
  have b45 : leNat rootState.token 45 1 = 0 := by decide +kernel
  have b46 : leNat rootState.token 46 2 = 0 := by decide +kernel
  have b48 : leNat rootState.token 48 4 = 0x80000003 := by decide +kernel
  have any : (rootsOf b).sec.roots.any (fun r => r.1 == Config.sha384 (slice rootState.token 52 96) && !r.2) = true := by
    simp [rootsOf]
  refine ⟨0, rootsOf b, 3, ?_, by decide, ?_, ?_, ?_, ?_, ?_, ?_, ?_⟩
  · exact (by simp only [State.takes]; decide +kernel : rootState.takes SEC.page)
  · exact (by decide +kernel : rootState.armedOrPend = false)
  · exact (by decide +kernel : rootState.secBusy = false)
  · rw [l0]; decide
  · simp only [State.tokenFail, tk, hd, nc, l0, b44, b45, b46, b48, any, h]; decide
  · rw [l0]; decide
  · rw [tk, b48]; decide
  · cases b <;> simp [State.lastRoot, rootsOf, List.replicate, List.zipIdx, List.any]

def kprState : State := sets (tok [(0, 0x52504B43), (1, 1), (3, 5)])

/-- The fourth and fifth clauses of PairingKeysAndRollback, if the record's key unwraps. -/
theorem test_meets_PairingKeysAndRollback_kprov (v : BitVec 256)
    (h : Config.unwrap kprState.sec.kTr (slice kprState.token 16 40) = some v) :
    (∃ (k : BitVec 8) (s : State) (v : BitVec 256), s.takes SEC.page ∧ s.lc ≠ 2 ∧ s.lc ≠ 4 ∧ s.armedOrPend = false ∧
      s.secBusy = false ∧ leNat s.token 12 1 ≠ 0 ∧ s.tokenHead [0x43, 0x4B, 0x50, 0x52] = true ∧ leNat s.token 13 3 = 0 ∧
      Config.unwrap s.sec.kTr (slice s.token 16 40) = some v ∧ s.keySlot (leNat s.token 12 1) = none ∧
      s.sec.slots.all KeySlot.valid = true) ∧
    (∃ (k : BitVec 8) (s : State) (v : BitVec 256), s.takes SEC.page ∧ s.lc ≠ 2 ∧ s.lc ≠ 4 ∧ s.armedOrPend = false ∧
      s.secBusy = false ∧ leNat s.token 12 1 ≠ 0 ∧ s.tokenHead [0x43, 0x4B, 0x50, 0x52] = true ∧ leNat s.token 13 3 = 0 ∧
      Config.unwrap s.sec.kTr (slice s.token 16 40) = some v ∧ s.keySlot (leNat s.token 12 1) = none ∧
      s.sec.slots.all KeySlot.valid = false) := by
  refine ⟨⟨5, { kprState with sec := { kprState.sec with slots := List.replicate 64 ⟨1, true, false, 0⟩ } }, v, ?_, ?_, ?_, ?_, ?_, ?_,
    ?_, ?_, h, ?_, ?_⟩, ⟨5, kprState, v, ?_, ?_, ?_, ?_, ?_, ?_, ?_, ?_, h, ?_, ?_⟩⟩
  all_goals first | decide +kernel | (simp only [State.takes]; decide +kernel)

def dbgState (lc : Nat) (w : Nat) : State :=
  sets ((SEC.LC_STAT_LC, lc) :: tok [(0, 0x47424443), (1, 1), (11, w), (12, 60)])

/-- The fifth and sixth clauses of DebugPortAndMatrix, if the token's two signatures hold. -/
theorem test_meets_DebugPortAndMatrix_auth
    (h1 : ∀ lc w, sigOk (slice (dbgState lc w).token 340 96) (slice (dbgState lc w).token 45 103)
      (slice (dbgState lc w).token 148 96) = true)
    (h2 : ∀ lc w, sigOk (slice (dbgState lc w).token 52 96) (slice (dbgState lc w).token 0 244)
      (slice (dbgState lc w).token 244 96) = true) :
    (∃ s : State, s.takes SEC.page ∧ s.tokenHead [0x43, 0x44, 0x42, 0x47] = true ∧ s.nonceOk = true ∧
      Config.sha384 (slice s.token 340 96) = s.sec.dbgRoot ∧
      sigOk (slice s.token 340 96) (slice s.token 45 103) (slice s.token 148 96) = true ∧
      sigOk (slice s.token 52 96) (slice s.token 0 244) (slice s.token 244 96) = true ∧ leNat s.token 47 1 = 0 ∧
      60 ≤ leNat s.token 48 4 ∧ leNat s.token 48 4 ≤ 86400 ∧ leNat s.token 44 1 = 1 ∧ 1 ≤ leNat s.token 45 1 ∧
      (leNat s.token 46 1).testBit s.lc = true) ∧
    (∃ s : State, s.takes SEC.page ∧ s.tokenHead [0x43, 0x44, 0x42, 0x47] = true ∧ s.nonceOk = true ∧
      Config.sha384 (slice s.token 340 96) = s.sec.dbgRoot ∧
      sigOk (slice s.token 340 96) (slice s.token 45 103) (slice s.token 148 96) = true ∧
      sigOk (slice s.token 52 96) (slice s.token 0 244) (slice s.token 244 96) = true ∧ leNat s.token 47 1 = 0 ∧
      60 ≤ leNat s.token 48 4 ∧ leNat s.token 48 4 ≤ 86400 ∧ leNat s.token 44 1 = 2 ∧ s.lc = lcFIELD) := by
  have tk1 : ∀ d, ({ dbgState 0 0x10101 with sec := d } : State).token = (dbgState 0 0x10101).token := fun _ => rfl
  have tk2 : ∀ d, ({ dbgState lcFIELD 2 with sec := d } : State).token = (dbgState lcFIELD 2).token := fun _ => rfl
  refine ⟨⟨{ dbgState 0 0x10101 with sec := { (dbgState 0 0x10101).sec with
      dbgRoot := Config.sha384 (slice (dbgState 0 0x10101).token 340 96) } }, ?_, ?_, ?_, rfl, h1 0 0x10101, h2 0 0x10101, ?_, ?_, ?_, ?_, ?_,
      ?_⟩,
    ⟨{ dbgState lcFIELD 2 with sec := { (dbgState lcFIELD 2).sec with
      dbgRoot := Config.sha384 (slice (dbgState lcFIELD 2).token 340 96) } }, ?_, ?_, ?_, rfl, h1 lcFIELD 2, h2 lcFIELD 2, ?_, ?_, ?_, ?_, ?_⟩⟩
  · exact (by simp only [State.takes]; decide +kernel : (dbgState 0 0x10101).takes SEC.page)
  · exact (by decide +kernel : (dbgState 0 0x10101).tokenHead [0x43, 0x44, 0x42, 0x47] = true)
  · exact (by decide +kernel : (dbgState 0 0x10101).nonceOk = true)
  · exact (by decide +kernel : leNat (dbgState 0 0x10101).token 47 1 = 0)
  · exact (by decide +kernel : 60 ≤ leNat (dbgState 0 0x10101).token 48 4)
  · exact (by decide +kernel : leNat (dbgState 0 0x10101).token 48 4 ≤ 86400)
  · exact (by decide +kernel : leNat (dbgState 0 0x10101).token 44 1 = 1)
  · exact (by decide +kernel : 1 ≤ leNat (dbgState 0 0x10101).token 45 1)
  · exact (by decide +kernel : (leNat (dbgState 0 0x10101).token 46 1).testBit (dbgState 0 0x10101).lc = true)
  · exact (by simp only [State.takes]; decide +kernel : (dbgState lcFIELD 2).takes SEC.page)
  · exact (by decide +kernel : (dbgState lcFIELD 2).tokenHead [0x43, 0x44, 0x42, 0x47] = true)
  · exact (by decide +kernel : (dbgState lcFIELD 2).nonceOk = true)
  · exact (by decide +kernel : leNat (dbgState lcFIELD 2).token 47 1 = 0)
  · exact (by decide +kernel : 60 ≤ leNat (dbgState lcFIELD 2).token 48 4)
  · exact (by decide +kernel : leNat (dbgState lcFIELD 2).token 48 4 ≤ 86400)
  · exact (by decide +kernel : leNat (dbgState lcFIELD 2).token 44 1 = 2)
  · exact (by decide +kernel : (dbgState lcFIELD 2).lc = lcFIELD)

end Sys2Proof.Tests
end

section
/-! Laws the obligations of the scope's family share: fields of a word that a host write keeps, the judgement of a write by
the first condition it meets (R486), and a write taken by the access types of its bits (R9). -/

namespace Sys2Proof.Machine

/-! ### Fields of a word -/

/-- Fields of two words are equal where their bits are. -/
theorem getBits_congr {x y : Word} {lo w : Nat} (h : ∀ i, i < w → x.getLsbD (lo + i) = y.getLsbD (lo + i)) :
    getBits x lo w = getBits y lo w := by
  apply Nat.eq_of_testBit_eq
  intro i
  simp only [getBits, Nat.testBit_mod_two_pow, Nat.testBit_shiftRight, BitVec.testBit_toNat]
  by_cases hi : i < w
  · simp [hi, h i hi]
  · simp [hi]

/-- A field of one bit is that bit. -/
theorem getBits_one (x : Word) (lo : Nat) : getBits x lo 1 = (x.getLsbD lo).toNat := by
  rw [getBits, ← BitVec.testBit_toNat, Nat.testBit_eq_decide_div_mod_eq, Nat.shiftRight_eq_div_pow]
  rcases Nat.mod_two_eq_zero_or_one (x.toNat / 2 ^ lo) with h | h <;> simp [h]

theorem getBits_one_beq (x : Word) (lo : Nat) : (getBits x lo 1 == 1) = x.getLsbD lo := by
  rw [getBits_one]; cases x.getLsbD lo <;> rfl

theorem getBits_or_one (x : Word) (lo w : Nat) (h : 1 ≤ lo) : getBits (x ||| 1) lo w = getBits x lo w := by
  refine getBits_congr fun i _ => ?_
  have hb : (1 : Word).getLsbD (lo + i) = false := by simp; omega
  rw [BitVec.getLsbD_or, hb, Bool.or_false]

theorem getBits_and_not_one (x : Word) (lo w : Nat) (h : 1 ≤ lo) : getBits (x &&& ~~~1) lo w = getBits x lo w := by
  refine getBits_congr fun i _ => ?_
  have hb : (1 : Word).getLsbD (lo + i) = false := by simp; omega
  by_cases hi : lo + i < 32
  · rw [BitVec.getLsbD_and, BitVec.getLsbD_not, hb]; simp [hi]
  · rw [BitVec.getLsbD_of_ge _ _ (by omega), BitVec.getLsbD_of_ge _ _ (by omega)]

theorem State.on_of_get_one {s : State} {f : Fld} (h : s.get f = 1) : s.on f = true := by simp [State.on, h]

theorem State.on_of_get_zero {s : State} {f : Fld} (h : s.get f = 0) : s.on f = false := by simp [State.on, h]

/-- A flag of one bit that is not set is 0. -/
theorem State.get_of_not_on {s : State} {f : Fld} (h : s.on f = false) : s.get f = 0 := by simpa [State.on] using h

/-- The whole word of a register, as a field. -/
theorem State.reg_of_get {s t : State} {a : Nat} (h : t.get ⟨a, 0, 32⟩ = s.get ⟨a, 0, 32⟩) : t.reg a = s.reg a := by
  apply BitVec.eq_of_toNat_eq
  simpa [State.get, getBits, Nat.mod_eq_of_lt (BitVec.isLt _)] using h

/-! ### Judged writes (R486) -/

/-- Of the conditions a write meets, none of them KEY or RANGE, the first is reported. -/
theorem State.judge_first {s : State} {pg ofs : Nat} {conds : List (Bool × Nat)} {k : State → State} {c : Bool × Nat}
    (h : s.takes pg) (hc : conds.find? (fun x => x.1) = some c)
    (hno : ∀ x ∈ conds, x.1 = true → x.2 ≠ eKEY ∧ x.2 ≠ eRANGE) :
    s.judge pg ofs conds k = s.refuse pg ofs c.2 := by
  have hK : conds.find? (fun x => x.1 && x.2 == eKEY) = none := by
    simpa using fun a b hx ha => (hno (a, b) hx ha).1
  have hR : conds.find? (fun x => x.1 && x.2 == eRANGE) = none := by
    simpa using fun a b hx ha => (hno (a, b) hx ha).2
  simp only [State.judge, h.1, h.2, hK, hR, hc, Bool.false_eq_true, if_false]

/-- A value out of range is reported before every condition but KEY. -/
theorem State.judge_range {s : State} {pg ofs : Nat} {conds : List (Bool × Nat)} {k : State → State}
    (h : s.pageGated pg = false) (hr : (true, eRANGE) ∈ conds) (hK : ∀ x ∈ conds, x.1 = true → x.2 ≠ eKEY) :
    s.judge pg ofs conds k = s.refuse pg ofs eRANGE := by
  have hK : conds.find? (fun x => x.1 && x.2 == eKEY) = none := by
    simpa using fun a b hx ha => hK (a, b) hx ha
  cases hf : conds.find? (fun x => x.1 && x.2 == eRANGE) with
  | none => exact absurd (List.find?_eq_none.1 hf _ hr) (by simp)
  | some c =>
    have hc := List.find?_some hf
    simp only [Bool.and_eq_true, beq_iff_eq] at hc
    simp only [State.judge, h, hK, hf, hc.2, Bool.false_eq_true, if_false]

/-- A refusal keeps every field outside ERR_CODE of its page. -/
theorem State.get_refuse (s : State) (pg ofs code : Nat) (g : Fld) (h : g.addr ≠ pg + 0x20) :
    (s.refuse pg ofs code).get g = s.get g := State.get_congr g (State.reg_refuse s pg ofs code _ h)

@[simp] theorem State.refuse_claims (s : State) (pg ofs code : Nat) : (s.refuse pg ofs code).claims = s.claims := by
  simp [State.refuse, State.setB_eq, State.set_eq]
@[simp] theorem State.refuse_mem (s : State) (pg ofs code : Nat) : (s.refuse pg ofs code).mem = s.mem := by
  simp [State.refuse, State.setB_eq, State.set_eq]

/-- Commands that leave the same state answer the same. -/
theorem next_congr {s t : State} (h : s = t) : (.next s : Host.Outcome State Fault Refusal) = .next t := h ▸ rfl

/-! ### A write taken by the access types (R9, R485) -/

/-- A bit that is writable now takes the value written. -/
theorem testBit_writeWord_open {row : RegRow} {lk : Bool} {old val i : Nat} (hi : i < 32)
    (h : (row.rw ||| (if lk then 0 else row.rwl)).testBit i = true) :
    (writeWord row lk old val).testBit i = val.testBit i := by
  have h1 : (0xFFFFFFFF : Nat).testBit i = true := by
    rw [show (0xFFFFFFFF : Nat) = 2 ^ 32 - 1 from rfl, Nat.testBit_two_pow_sub_one]; simpa using hi
  simp only [writeWord, Nat.testBit_or, Nat.testBit_and, Nat.testBit_xor, h, h1]
  cases val.testBit i <;> simp

/-- A bit that no access type lets a write change keeps its value. -/
theorem testBit_writeWord_shut {row : RegRow} {lk : Bool} {old val i : Nat} (hi : i < 32)
    (h : (row.rw ||| (if lk then 0 else row.rwl)).testBit i = false)
    (hs : (row.w1c ||| row.w1s ||| row.cz).testBit i = false) :
    (writeWord row lk old val).testBit i = old.testBit i := by
  have h1 : (0xFFFFFFFF : Nat).testBit i = true := by
    rw [show (0xFFFFFFFF : Nat) = 2 ^ 32 - 1 from rfl, Nat.testBit_two_pow_sub_one]; simpa using hi
  simp only [Nat.testBit_or, Bool.or_eq_false_iff] at hs
  obtain ⟨⟨hc, hs⟩, hz⟩ := hs
  have hm : (if row.cz != 0 && val &&& row.cz == 0 then row.cz else 0).testBit i = false := by
    split <;> simp [hz]
  simp only [writeWord, Nat.testBit_or, Nat.testBit_and, Nat.testBit_xor, h, h1, hm, hc, hs]
  simp

/-- A write changes its own register, and ERR_CODE where a locked field would have changed. -/
theorem State.reg_take_of_ne (s : State) (k : PageKind) (pg ofs : Nat) (val : Word) {a : Nat} (h : a ≠ pg + ofs)
    (he : a ≠ pg + 0x20) : (s.take k pg ofs val).reg a = s.reg a := by
  unfold State.take
  split
  · rfl
  · dsimp only
    split
    · rw [State.reg_refuse _ _ _ _ _ he, State.reg_setReg_of_ne _ _ h]
    · rw [State.reg_setReg_of_ne _ _ h]

theorem State.get_take_of_ne (s : State) (k : PageKind) (pg ofs : Nat) (val : Word) (g : Fld) (h : g.addr ≠ pg + ofs)
    (he : g.addr ≠ pg + 0x20) : (s.take k pg ofs val).get g = s.get g :=
  State.get_congr g (s.reg_take_of_ne k pg ofs val h he)

/-- The word a write leaves in its register. -/
theorem State.reg_take_self {s : State} {k : PageKind} {pg ofs : Nat} {val : Word} {row : RegRow} {j : Nat}
    (hr : rowAt k ofs = some (row, j)) (he : ofs ≠ 0x20) :
    (s.take k pg ofs val).reg (pg + ofs) =
      BitVec.ofNat 32 (writeWord row (s.locked pg) (s.reg (pg + ofs)).toNat val.toNat) := by
  have he : pg + ofs ≠ pg + 0x20 := by omega
  simp only [State.take, hr]
  split
  · rw [State.reg_refuse _ _ _ _ _ he, State.reg_setReg_self]
  · rw [State.reg_setReg_self]

/-- A field all of whose bits are writable now takes the value written. -/
theorem State.get_take_open {s : State} {k : PageKind} {pg ofs : Nat} {val : Word} {row : RegRow} {j : Nat} {f : Fld}
    (hr : rowAt k ofs = some (row, j)) (he : ofs ≠ 0x20) (hf : f.addr = pg + ofs) (hw : f.lo + f.w ≤ 32)
    (ho : ∀ i, i < f.w → (row.rw ||| (if s.locked pg then 0 else row.rwl)).testBit (f.lo + i) = true) :
    (s.take k pg ofs val).get f = getBits val f.lo f.w := by
  rw [State.get, hf, State.reg_take_self hr he]
  refine getBits_congr fun i hi => ?_
  have hlt : f.lo + i < 32 := by omega
  rw [BitVec.getLsbD_ofNat, testBit_writeWord_open hlt (ho i hi), BitVec.testBit_toNat]
  simp [hlt]

@[simp] theorem State.take_claims (s : State) (k : PageKind) (pg ofs : Nat) (val : Word) :
    (s.take k pg ofs val).claims = s.claims := by
  unfold State.take
  split
  · rfl
  · dsimp only; split <;> simp

@[simp] theorem State.take_mem (s : State) (k : PageKind) (pg ofs : Nat) (val : Word) :
    (s.take k pg ofs val).mem = s.mem := by
  unfold State.take
  split
  · rfl
  · dsimp only; split <;> simp

end Sys2Proof.Machine
end

section
/-! What the operations of the local legs leave alone (R112–R117, R125): every field but those of the legs' STAT registers and
of the page's IRQ_RAW, the claims, the halt reaction, and the clock. -/

namespace Sys2Proof.Machine

/-- From `s` to `t` the fields of `K`, the claims, the halt reaction with what a REARM of the tick lifted, and the clock are
as they were. -/
structure State.LegFrame (K : Fld → Prop) (s t : State) : Prop where
  get : ∀ g, K g → t.get g = s.get g
  claims : t.claims = s.claims
  haltMode : t.haltMode = s.haltMode
  rearmed : t.rearmed = s.rearmed
  now : t.now = s.now
  epochAt : t.epochAt = s.epochAt

namespace State.LegFrame
variable {K : Fld → Prop} {s t u : State}

theorem refl (K : Fld → Prop) (s : State) : LegFrame K s s := ⟨fun _ _ => rfl, rfl, rfl, rfl, rfl, rfl⟩

theorem trans (h : LegFrame K s t) (h' : LegFrame K t u) : LegFrame K s u :=
  ⟨fun g hg => (h'.get g hg).trans (h.get g hg), h'.claims.trans h.claims, h'.haltMode.trans h.haltMode,
    h'.rearmed.trans h.rearmed, h'.now.trans h.now, h'.epochAt.trans h.epochAt⟩

theorem mono {L : Fld → Prop} (h : LegFrame K s t) (hL : ∀ g, L g → K g) : LegFrame L s t :=
  { h with get := fun g hg => h.get g (hL g hg) }

theorem claim (h : LegFrame K s t) (r : Nat) : t.claim r = s.claim r := by rw [State.claim, h.claims, State.claim]

theorem set (h : LegFrame K s t) {f : Fld} (hf : ∀ g, K g → f.apart g) (v : Nat) : LegFrame K s (t.set f v) :=
  h.trans ⟨fun g hg => t.get_set_apart f g v (hf g hg), rfl, rfl, rfl, rfl, rfl⟩

theorem irq (h : LegFrame K s t) {pg : Nat} (hf : ∀ g, K g → g.addr ≠ pg + 0x14) (b : Nat) : LegFrame K s (t.irq pg b) :=
  h.trans ⟨fun g hg => t.get_irq_of_ne pg b g (hf g hg), rfl, rfl, rfl, rfl, rfl⟩

theorem ite {c : Prop} [Decidable c] (ht : LegFrame K s t) (hu : LegFrame K s u) :
    LegFrame K s (if c then t else u) := by
  split
  · exact ht
  · exact hu

theorem each {α : Type} {l : List α} {f : State → α → State} (hf : ∀ s, ∀ a ∈ l, LegFrame K s (f s a)) (s : State) :
    LegFrame K s (s.each l f) := by
  induction l generalizing s with
  | nil => exact refl K s
  | cons a l ih =>
    exact (hf s a (by simp)).trans (ih (fun s b hb => hf s b (List.mem_cons_of_mem a hb)) (f s a))

end State.LegFrame

/-- A field of none of the legs' STAT registers, nor of the page's IRQ_RAW. -/
def legQuiet (g : Fld) : Prop := g.addr ≠ LPW.page + 0x14 ∧ ∀ k, k < 12 → g.addr ≠ LPW.STAT k

/-- A field of a register outside a page. -/
def outside (pg : Nat) (g : Fld) : Prop := g.addr < pg ∨ pg + 0x1000 ≤ g.addr

theorem outside.apart {pg : Nat} {f g : Fld} (h : outside pg g) (h1 : pg ≤ f.addr) (h2 : f.addr < pg + 0x1000) :
    f.apart g := by unfold outside at h; exact .inl (by omega)

theorem outside.ne {pg : Nat} {g : Fld} (h : outside pg g) {o : Nat} (ho : o < 0x1000) : g.addr ≠ pg + o := by
  unfold outside at h; omega

theorem outside.legQuiet {g : Fld} (h : outside LPW.page g) : legQuiet g := by
  refine ⟨h.ne (by decide), fun k hk => ?_⟩
  have : LPW.STAT k = LPW.page + (0x98 + 0x20 * k) := by unfold LPW.STAT LPW.page; omega
  rw [this]; exact h.ne (by omega)

theorem legQuiet.apart {g f : Fld} (h : legQuiet g) {k : Nat} (hk : k < 12) (hf : f.addr = LPW.STAT k) : f.apart g :=
  .inl (by rw [hf]; exact Ne.symm (h.2 k hk))

section legs
variable (s : State) {k : Nat}

theorem State.setChan_frame (K : Fld → Prop) (n : Nat) (c : Chan) : LegFrame K s (s.setChan n c) :=
  ⟨fun _ _ => rfl, rfl, rfl, rfl, rfl, rfl⟩

theorem State.putLeg_frame (hk : k < 12) (c : Chan) : LegFrame legQuiet s (s.putLeg k c) :=
  (s.setChan_frame legQuiet _ c).set (fun _ hg => hg.apart hk rfl) _

theorem State.legRunIn_frame (hk : k < 12) (per : Int → Nat) (x : Int) : LegFrame legQuiet s (s.legRunIn k per x) := by
  have hset : ∀ {t : State}, LegFrame legQuiet s t → ∀ v, LegFrame legQuiet s (t.set (LPW.STAT_OUT k) v) :=
    fun h v => h.set (fun _ hg => hg.apart hk rfl) v
  unfold State.legRunIn
  dsimp only
  split
  · exact .refl _ s
  split
  · exact s.setChan_frame _ _ _
  have hput := fun c => s.putLeg_frame hk c
  have hwait : ∀ (t : State) (w : Nat), LegFrame legQuiet s t → LegFrame legQuiet s { t with legWait := w } :=
    fun t w h => h.trans ⟨fun _ _ => rfl, rfl, rfl, rfl, rfl, rfl⟩
  have hwoke := fun c (b : Bool) w => LegFrame.ite (c := b = true) (hwait _ w (hput c)) (hput c)
  exact .ite (hset (hwoke _ _ _) _) (hwoke _ _ _)

theorem State.legSync_frame (hk : k < 12) : LegFrame legQuiet s (s.legSync k) := s.legRunIn_frame hk _ _

theorem State.legDefer_frame (hk : k < 12) : LegFrame legQuiet s (s.legDefer k) := by
  unfold State.legDefer
  dsimp only
  split
  · exact (((LegFrame.refl _ s).set (fun _ hg => hg.apart hk rfl) _).set (fun _ hg => hg.apart hk rfl) _).irq
      (fun _ hg => hg.1) _
  · exact .refl _ s

theorem State.legStart_frame (hk : k < 12) : LegFrame legQuiet s (s.legStart k) := s.putLeg_frame hk _

theorem State.legStop_frame (K : Fld → Prop) (k : Nat) : LegFrame K s (s.legStop k) :=
  ⟨fun _ _ => rfl, rfl, rfl, rfl, rfl, rfl⟩

theorem State.refreshLegs_frame : LegFrame legQuiet s s.refreshLegs := by
  unfold State.refreshLegs
  split
  · exact LegFrame.each (fun t k hk => (LegFrame.refl _ t).set (fun _ hg => hg.apart (List.mem_range.1 hk) rfl) _) s
  · exact .refl _ s

end legs

/-- What no step of a list changes is the same at its end. -/
theorem State.each_same {α β : Type} (p : State → β) {l : List α} {f : State → α → State} (hf : ∀ s a, p (f s a) = p s)
    (s : State) : p (s.each l f) = p s := by
  induction l generalizing s with
  | nil => rfl
  | cons a l ih => exact (ih (f s a)).trans (hf s a)

/-- What writes to the legs' STAT registers leave alone, showing the legs again leaves alone. -/
theorem State.refreshLegs_same {β : Type} (p : State → β) (hp : ∀ s k v, p (s.set (LPW.STAT_OUT k) v) = p s) (s : State) :
    p s.refreshLegs = p s := by
  unfold State.refreshLegs
  split
  · exact State.each_same p (f := fun (s : State) k => s.set (LPW.STAT_OUT k) (s.legCode k)) (fun _ _ => hp _ _ _) s
  · rfl

theorem State.refreshLegs_legBlk (s : State) : s.refreshLegs.legBlk = s.legBlk :=
  State.refreshLegs_same State.legBlk (fun _ _ _ => rfl) s

theorem State.refreshLegs_latches (s : State) : s.refreshLegs.latches = s.latches :=
  State.refreshLegs_same State.latches (fun _ _ _ => rfl) s

/-- A leg that stops leaves no block behind. -/
theorem State.legStop_legBlk (s : State) {k : Nat} (hk : k < 12) : (s.legStop k).legBlk.testBit k = false := by
  have hb : (0xFFF ^^^ 1 <<< k : Nat).testBit k = false := by
    interval_cases k <;> decide
  show (s.legBlk &&& (0xFFF ^^^ 1 <<< k)).testBit k = false
  rw [Nat.testBit_and, hb, Bool.and_false]

/-! ### Claims (R490, R491) -/

theorem State.claim_takeClaim (s : State) (r cls inst q : Nat) :
    (s.takeClaim r cls inst).claim q = if q = r then { s.claim r with cls := cls, inst := inst } else s.claim q :=
  State.claim_setClaim s r q _

theorem State.claim_congr {s t : State} (h : t.claims = s.claims) (r : Nat) : t.claim r = s.claim r := by
  rw [State.claim, h, State.claim]

theorem State.get_takeClaim (s : State) (r cls inst : Nat) (g : Fld) : (s.takeClaim r cls inst).get g = s.get g := rfl

/-- The holder's release frees the resource. -/
theorem State.claim_release_self {s : State} {r cls inst : Nat} (hc : (s.claim r).cls = cls) (hi : (s.claim r).inst = inst) :
    (s.release r cls inst).claim r = {} := by
  simp [State.release, hc, hi, State.claim_setClaim]

theorem State.claim_release_of_ne (s : State) {r q : Nat} (cls inst : Nat) (h : q ≠ r) :
    (s.release r cls inst).claim q = s.claim q := by
  unfold State.release
  dsimp only
  split
  · rw [State.claim_setClaim, if_neg h]
  split
  · rw [State.claim_setClaim, if_neg h]
  · rfl

/-- A release leaves no claim of its claimant as the holder. -/
theorem State.claim_release_free (s : State) (r cls inst : Nat) (hcls : cls ≠ 0) :
    ((s.release r cls inst).claim r).cls ≠ cls ∨ ((s.release r cls inst).claim r).inst ≠ inst := by
  by_cases hh : (s.claim r).cls = cls ∧ (s.claim r).inst = inst
  · rw [State.claim_release_self hh.1 hh.2]; exact .inl (Ne.symm hcls)
  · have hb : ((s.claim r).cls == cls && (s.claim r).inst == inst) = false := by simpa using hh
    have hkept : ((s.release r cls inst).claim r).cls = (s.claim r).cls ∧
        ((s.release r cls inst).claim r).inst = (s.claim r).inst := by
      simp only [State.release, hb, Bool.false_eq_true, if_false]
      split
      · rw [State.claim_setClaim, if_pos rfl]; exact ⟨rfl, rfl⟩
      · exact ⟨rfl, rfl⟩
    rw [hkept.1, hkept.2]
    exact not_and_or.1 hh

theorem State.get_release (s : State) (r cls inst : Nat) (g : Fld) : (s.release r cls inst).get g = s.get g := by
  unfold State.release
  dsimp only
  split
  · rfl
  split <;> rfl

/-- What each operation of a list establishes for its item, and none breaks for any, stands for every item at the end. -/
theorem State.each_forall {α : Type} {P : α → State → Prop} {l : List α} {f : State → α → State}
    (hset : ∀ s, ∀ a ∈ l, P a (f s a)) (hkeep : ∀ s, ∀ a ∈ l, ∀ b, P b s → P b (f s a)) (s : State) :
    ∀ a ∈ l, P a (s.each l f) := by
  have hall : ∀ (m : List α), (∀ a ∈ m, a ∈ l) → ∀ (t : State) b, P b t → P b (t.each m f) := by
    intro m
    induction m with
    | nil => exact fun _ _ _ h => h
    | cons c m ih =>
      exact fun hm t b h => ih (fun a ha => hm a (List.mem_cons_of_mem c ha)) (f t c) b (hkeep t c (hm c (by simp)) b h)
  have main : ∀ (m : List α), (∀ a ∈ m, a ∈ l) → ∀ (t : State), ∀ a ∈ m, P a (t.each m f) := by
    intro m
    induction m with
    | nil => exact fun _ _ a ha => absurd ha (by simp)
    | cons c m ih =>
      intro hm t a ha
      have hm' : ∀ a ∈ m, a ∈ l := fun a ha => hm a (List.mem_cons_of_mem c ha)
      rcases List.mem_cons.1 ha with rfl | ha
      · exact hall m hm' (f t a) a (hset t a (hm a (by simp)))
      · exact ih hm' (f t c) a ha
  exact main l (fun _ h => h) s

/-- An enable whose resources are all free takes them. -/
theorem State.claimAll_run {s : State} {pg ofs : Nat} {rs : List Nat} {cls inst : Nat} (k : State → State)
    (h : ∀ r ∈ rs, s.claimable r cls inst = true) :
    s.claimAll pg ofs rs cls inst k = k (s.each rs (fun s r => s.takeClaim r cls inst)) := by
  have hf : rs.find? (fun r => !s.claimable r cls inst) = none := List.find?_eq_none.2 (by simpa using h)
  simp only [State.claimAll, hf]

theorem State.claim_each_takeClaim (s : State) (rs : List Nat) (cls inst : Nat) :
    ∀ r ∈ rs, ((s.each rs (fun s r => s.takeClaim r cls inst)).claim r).cls = cls ∧
      ((s.each rs (fun s r => s.takeClaim r cls inst)).claim r).inst = inst := by
  refine State.each_forall (P := fun r (t : State) => (t.claim r).cls = cls ∧ (t.claim r).inst = inst)
    (fun t r _ => by simp [State.claim_takeClaim]) (fun t r _ q hq => ?_) s
  rw [State.claim_takeClaim]
  split
  · exact ⟨rfl, rfl⟩
  · exact hq

end Sys2Proof.Machine
end

section
/-! A host write to a leg's CFG (R124, R125, R142): what an enable and a disable leave, and what is refused. -/

namespace Sys2Proof.Machine

/-- The row of the legs' CFG registers. -/
theorem rowAt_legCfg {k : Nat} (hk : k < 12) :
    rowAt .lpw (0x80 + 0x20 * k) = some (⟨0x80, 12, 32, 0x7F, 0x80, 0x0, 0x0, 0x0, 0x0, 0x50⟩, k) := by
  interval_cases k <;> decide

theorem legCfg_addr (k : Nat) : (LPW.CFG_EN k).addr = LPW.page + (0x80 + 0x20 * k) := by
  show 0x40120080 + 0x20 * k = 0x40120000 + (0x80 + 0x20 * k); omega

theorem legQuiet_cfgEn (k : Nat) : legQuiet (LPW.CFG_EN k) := by
  refine ⟨?_, fun j _ => ?_⟩
  · show 0x40120080 + 0x20 * k ≠ 0x40120000 + 0x14; omega
  · show 0x40120080 + 0x20 * k ≠ 0x40120098 + 0x20 * j; omega

/-- EN after a write to a leg's CFG is the bit written. -/
theorem State.get_take_legEn (s : State) {k : Nat} (hk : k < 12) (val : Word) :
    (s.take .lpw LPW.page (0x80 + 0x20 * k) val).get (LPW.CFG_EN k) = getBits val 0 1 := by
  refine State.get_take_open (f := LPW.CFG_EN k) (rowAt_legCfg hk) (by omega) (legCfg_addr k) (by show 0 + 1 ≤ 32; decide) ?_
  intro i hi
  obtain rfl : i = 0 := by have : i < 1 := hi; omega
  have hbit : ∀ lk : Bool, ((0x7F : Nat) ||| (if lk then 0 else 0x80)).testBit 0 = true := by decide
  exact hbit _

/-- The conditions a write to a leg's CFG is judged on. -/
def legCfgConds (s : State) (k : Nat) (val : Word) : List (Bool × Nat) :=
  [(decide (6 ≤ getBits val 1 3) || getBits val 4 2 == 0, eRANGE),
   (decide ((s.claim (resKey 2 k)).cls ∈ [5, 6]) && getBits val 1 3 != s.get (LPW.CFG_MODE k), eCLAIM_DENIED)]

theorem legCfgConds_clear {s : State} {k : Nat} {val : Word} (hm : getBits val 1 3 < 6) (hr : getBits val 4 2 ≠ 0)
    (hc : (s.claim (resKey 2 k)).cls ∉ [5, 6]) : ∀ x ∈ legCfgConds s k val, x.1 = false := by
  simp [legCfgConds, hr, hm] at hc ⊢
  exact fun h => absurd h (by tauto)

/-- An enable of a leg that no other function holds claims it and starts its channel (R125, R489). -/
theorem State.legCfgWrite_starts {s : State} {k : Nat} {val : Word} (ht : s.takes LPW.page) (hi : s.isl = true)
    (he : s.on (LPW.CFG_EN k) = false) (hv : getBits val 0 1 = 1) (hm : getBits val 1 3 < 6) (hr : getBits val 4 2 ≠ 0)
    (hc : (s.legSync k).claimable (resKey 2 k) 1 k = true) (h56 : (s.claim (resKey 2 k)).cls ∉ [5, 6]) :
    s.legCfgWrite k val = (((((s.legSync k).takeClaim (resKey 2 k) 1 k).legDefer k).take .lpw LPW.page (0x80 + 0x20 * k)
      val).legStart k).refreshLegs := by
  have hj := State.judge_takes (ofs := 0x80 + 0x20 * k) (k := fun s => (s.legSync k).claimAll LPW.page (0x80 + 0x20 * k)
    [resKey 2 k] 1 k (fun s => (((s.legDefer k).take .lpw LPW.page (0x80 + 0x20 * k) val).legStart k).refreshLegs))
    ht (legCfgConds_clear hm hr h56)
  rw [State.claimAll_run _ (by simpa using hc)] at hj
  simpa [State.legCfgWrite, State.fitted, hi, he, hv, legCfgConds, State.each] using hj

/-- A disable of a leg releases it and stops its channel (R125, R491). -/
theorem State.legCfgWrite_stops {s : State} {k : Nat} {val : Word} (ht : s.takes LPW.page) (hi : s.isl = true)
    (he : s.on (LPW.CFG_EN k) = true) (hv : getBits val 0 1 = 0) (hm : getBits val 1 3 < 6) (hr : getBits val 4 2 ≠ 0)
    (h56 : (s.claim (resKey 2 k)).cls ∉ [5, 6]) :
    s.legCfgWrite k val = ((((((s.legSync k).legDefer k).take .lpw LPW.page (0x80 + 0x20 * k) val).release
      (resKey 2 k) 1 k).legStop k).refreshLegs) := by
  have hj := State.judge_takes (ofs := 0x80 + 0x20 * k) (k := fun s => (((((s.legSync k).legDefer k).take .lpw LPW.page
    (0x80 + 0x20 * k) val).release (resKey 2 k) 1 k).legStop k).refreshLegs) ht (legCfgConds_clear hm hr h56)
  simpa [State.legCfgWrite, State.fitted, hi, he, hv, legCfgConds] using hj

theorem State.legCfgWrite_range {s : State} {k : Nat} {val : Word} (hg : s.pageGated LPW.page = false) (hi : s.isl = true)
    (h : 6 ≤ getBits val 1 3 ∨ getBits val 4 2 = 0) :
    s.legCfgWrite k val = s.refuse LPW.page (0x80 + 0x20 * k) eRANGE := by
  rw [State.legCfgWrite, State.fitted, if_pos hi]
  refine State.judge_range hg ?_ (by simp)
  rw [show (decide (6 ≤ getBits val 1 3) || getBits val 4 2 == 0) = true by simpa using h]
  exact List.mem_cons_self

/-- What an enable of a free leg leaves: EN, the claim, and every other claim as it was. -/
theorem State.legEnable_claims {s : State} {k : Nat} {val : Word} (hk : k < 12) (ht : s.takes LPW.page) (hi : s.isl = true)
    (he : s.get (LPW.CFG_EN k) = 0) (hv : getBits val 0 1 = 1) (hm : getBits val 1 3 < 6) (hr : getBits val 4 2 ≠ 0)
    (hc : s.claimable (resKey 2 k) 1 k = true) :
    (s.legCfgWrite k val).get (LPW.CFG_EN k) = 1 ∧ ((s.legCfgWrite k val).claim (resKey 2 k)).cls = 1 ∧
      ((s.legCfgWrite k val).claim (resKey 2 k)).inst = k ∧
      ∀ r, r ≠ resKey 2 k → (s.legCfgWrite k val).claim r = s.claim r := by
  have hsync := s.legSync_frame hk
  have hc' : (s.legSync k).claimable (resKey 2 k) 1 k = true := by rw [State.claimable, hsync.claim]; exact hc
  have h56 : (s.claim (resKey 2 k)).cls ∉ [5, 6] := by
    simp only [State.claimable, Bool.or_eq_true, Bool.and_eq_true, beq_iff_eq] at hc
    rcases hc with h | ⟨h, -⟩ <;> simp [h]
  rw [State.legCfgWrite_starts ht hi (State.on_of_get_zero he) hv hm hr hc' h56]
  generalize hu : (((s.legSync k).takeClaim (resKey 2 k) 1 k).legDefer k) = u
  have hrest := ((u.take .lpw LPW.page (0x80 + 0x20 * k) val).legStart_frame hk).trans (State.refreshLegs_frame _)
  have hclaim : ∀ r, (((u.take .lpw LPW.page (0x80 + 0x20 * k) val).legStart k).refreshLegs).claim r
      = ((s.legSync k).takeClaim (resKey 2 k) 1 k).claim r := fun r =>
    (hrest.claim r).trans ((State.claim_congr (State.take_claims ..) r).trans (hu ▸ (State.legDefer_frame _ hk).claim r))
  refine ⟨?_, ?_, ?_, fun r hr => ?_⟩
  · rw [hrest.get _ (legQuiet_cfgEn k), State.get_take_legEn _ hk, hv]
  · rw [hclaim, State.claim_takeClaim, if_pos rfl]
  · rw [hclaim, State.claim_takeClaim, if_pos rfl]
  · rw [hclaim, State.claim_takeClaim, if_neg hr, hsync.claim]

/-- What a disable of a leg its own enable holds leaves: EN 0, no claim and no block. -/
theorem State.legDisable_releases {s : State} {k : Nat} {val : Word} (hk : k < 12) (ht : s.takes LPW.page) (hi : s.isl = true)
    (he : s.get (LPW.CFG_EN k) = 1) (hv : getBits val 0 1 = 0) (hm : getBits val 1 3 < 6) (hr : getBits val 4 2 ≠ 0)
    (hc : (s.claim (resKey 2 k)).cls = 1) (hin : (s.claim (resKey 2 k)).inst = k) :
    (s.legCfgWrite k val).get (LPW.CFG_EN k) = 0 ∧ (s.legCfgWrite k val).claim (resKey 2 k) = {} ∧
      (s.legCfgWrite k val).legBlk.testBit k = false := by
  rw [State.legCfgWrite_stops ht hi (State.on_of_get_one he) hv hm hr (by simp [hc])]
  have hbefore := (s.legSync_frame hk).trans (State.legDefer_frame _ hk)
  generalize hu : ((s.legSync k).legDefer k).take .lpw LPW.page (0x80 + 0x20 * k) val = u
  have hclaim : u.claim (resKey 2 k) = s.claim (resKey 2 k) :=
    hu ▸ (State.claim_congr (State.take_claims ..) _).trans (hbefore.claim _)
  have hafter := ((u.release (resKey 2 k) 1 k).legStop_frame legQuiet k).trans (State.refreshLegs_frame _)
  refine ⟨?_, ?_, ?_⟩
  · rw [hafter.get _ (legQuiet_cfgEn k), State.get_release, ← hu, State.get_take_legEn _ hk, hv]
  · rw [hafter.claim, State.claim_release_self (hclaim ▸ hc) (hclaim ▸ hin)]
  · rw [State.refreshLegs_legBlk, State.legStop_legBlk _ hk]

end Sys2Proof.Machine
end

section
/-! Trips, disarms and the release of the OWN line (R126–R130, R239, R329, R414): the fields each leaves alone, and that a
standing halt reaction stays. -/

namespace Sys2Proof.Machine

/-- From `s` to `t` the fields of `K` are as they were, and a halt reaction that stands goes on standing. -/
structure State.HaltFrame (K : Fld → Prop) (s t : State) : Prop where
  get : ∀ g, K g → t.get g = s.get g
  haltMode : s.haltMode ≠ 0 → t.haltMode = s.haltMode

theorem State.LegFrame.haltFrame {K : Fld → Prop} {s t : State} (h : LegFrame K s t) : HaltFrame K s t :=
  ⟨h.get, fun _ => h.haltMode⟩

namespace State.HaltFrame
variable {K : Fld → Prop} {s t u : State}

theorem refl (K : Fld → Prop) (s : State) : HaltFrame K s s := ⟨fun _ _ => rfl, fun _ => rfl⟩

theorem trans (h : HaltFrame K s t) (h' : HaltFrame K t u) : HaltFrame K s u where
  get g hg := (h'.get g hg).trans (h.get g hg)
  haltMode hs := (h'.haltMode (by rwa [h.haltMode hs])).trans (h.haltMode hs)

theorem mono {L : Fld → Prop} (h : HaltFrame K s t) (hL : ∀ g, L g → K g) : HaltFrame L s t :=
  ⟨fun g hg => h.get g (hL g hg), h.haltMode⟩

theorem ite {c : Prop} [Decidable c] (ht : HaltFrame K s t) (hu : HaltFrame K s u) :
    HaltFrame K s (if c then t else u) := by
  split
  · exact ht
  · exact hu

theorem iff (h : HaltFrame K s t) {b : Bool} {f : State → State} (hf : HaltFrame K s (f t)) : HaltFrame K s (t.iff b f) :=
  ite hf h

theorem set (h : HaltFrame K s t) {f : Fld} (hf : ∀ g, K g → f.apart g) (v : Nat) : HaltFrame K s (t.set f v) :=
  h.trans ⟨fun g hg => t.get_set_apart f g v (hf g hg), fun _ => rfl⟩

theorem setReg (h : HaltFrame K s t) {a : Nat} (hf : ∀ g, K g → g.addr ≠ a) (w : Word) : HaltFrame K s (t.setReg a w) :=
  h.trans ⟨fun g hg => State.get_congr g (t.reg_setReg_of_ne w (hf g hg)), fun _ => rfl⟩

theorem irq (h : HaltFrame K s t) {pg : Nat} (hf : ∀ g, K g → g.addr ≠ pg + 0x14) (b : Nat) : HaltFrame K s (t.irq pg b) :=
  h.trans ⟨fun g hg => t.get_irq_of_ne pg b g (hf g hg), fun _ => rfl⟩

theorem refuse (h : HaltFrame K s t) {pg : Nat} (hf : ∀ g, K g → g.addr ≠ pg + 0x20) (ofs code : Nat) :
    HaltFrame K s (t.refuse pg ofs code) :=
  h.trans ⟨fun g hg => t.get_refuse pg ofs code g (hf g hg), fun _ => by
    simp [State.refuse, State.setB_eq, State.set_eq]⟩

theorem each {α : Type} {l : List α} {f : State → α → State} (hf : ∀ s, ∀ a ∈ l, HaltFrame K s (f s a)) (s : State) :
    HaltFrame K s (s.each l f) := by
  induction l generalizing s with
  | nil => exact refl K s
  | cons a l ih =>
    exact (hf s a (by simp)).trans (ih (fun s b hb => hf s b (List.mem_cons_of_mem a hb)) (f s a))

end State.HaltFrame

/-- A field no trip writes but for the FLAG and LATCH of its source: outside the pages of the legs, the Grainer and the log,
and of the trip page ISTAT alone. -/
structure tripQuiet (g : Fld) : Prop where
  lpw : outside LPW.page g
  grn : outside GRN.page g
  nvl : outside NVL.page g
  trp : outside TRP.page g ∨ g.addr = TRP.ISTAT
  frz : MOD.TB_STAT_FRZ_ACTIVE.apart g

theorem tripQuiet_of {g : Fld} {a : Nat} (hg : g.addr = a)
    (h : (a < LPW.page ∨ LPW.page + 0x1000 ≤ a) ∧ (a < GRN.page ∨ GRN.page + 0x1000 ≤ a) ∧
      (a < NVL.page ∨ NVL.page + 0x1000 ≤ a) ∧ ((a < TRP.page ∨ TRP.page + 0x1000 ≤ a) ∨ a = TRP.ISTAT))
    (hf : MOD.TB_STAT_FRZ_ACTIVE.apart g) : tripQuiet g := by
  subst hg
  obtain ⟨hl, hr, hn, ht⟩ := h
  exact ⟨hl, hr, hn, ht, hf⟩

theorem tripQuiet.trp_ne {g : Fld} (h : tripQuiet g) {o : Nat} (ho : o < 0x1000) (hi : o ≠ 0x78) : g.addr ≠ TRP.page + o := by
  rcases h.trp with h | h
  · exact h.ne ho
  · rw [h]; show 0x40130078 ≠ 0x40130000 + o; omega

/-- FLAG and LATCH of a trip source stand in STAT and ISTAT of the trip page. -/
theorem tripFld_addr (src : Nat) : ((flagFld src).addr = TRP.STAT ∨ (flagFld src).addr = TRP.ISTAT) ∧
    ((latchFld src).addr = TRP.STAT ∨ (latchFld src).addr = TRP.ISTAT) := by
  by_cases h : src < 8
  · rw [flagFld, latchFld, if_pos h, if_pos h]; exact ⟨.inl rfl, .inl rfl⟩
  · rw [flagFld, latchFld, if_neg h, if_neg h]; exact ⟨.inr rfl, .inr rfl⟩

/-- A field outside these registers shares no bit with FLAG and LATCH of any source. -/
theorem tripFld_apart (src : Nat) {g : Fld} (h1 : TRP.STAT ≠ g.addr) (h2 : TRP.ISTAT ≠ g.addr) :
    (flagFld src).apart g ∧ (latchFld src).apart g := by
  obtain ⟨hf, hl⟩ := tripFld_addr src
  exact ⟨.inl (hf.elim (fun h => h ▸ h1) (fun h => h ▸ h2)), .inl (hl.elim (fun h => h ▸ h1) (fun h => h ▸ h2))⟩

/-- A field a trip of `src` leaves alone. -/
def tripKeeps (src : Nat) (g : Fld) : Prop := tripQuiet g ∧ (flagFld src).apart g ∧ (latchFld src).apart g

section trips
variable {K : Fld → Prop} (s : State)

theorem State.log_frame (h : ∀ g, K g → outside NVL.page g) (pg e a b : Nat) : HaltFrame K s (s.log pg e a b) := by
  unfold State.log
  exact .ite ⟨fun _ _ => rfl, fun _ => rfl⟩ (((HaltFrame.refl K s).set (fun g hg => (h g hg).apart (by decide) (by decide)) _).irq
    (fun g hg => (h g hg).ne (by decide)) _)

theorem State.srcActive_frame (K : Fld → Prop) (src : Nat) (b : Bool) : HaltFrame K s (s.srcActive src b) := by
  unfold State.srcActive
  exact .ite ⟨fun _ _ => rfl, fun _ => rfl⟩ (.ite ⟨fun _ _ => rfl, fun _ => rfl⟩ (.refl K s))

/-- The halt reaction a REARM lifted stands again only where none stands. -/
theorem State.haltRestore_frame (hK : ∀ g, K g → MOD.TB_STAT_FRZ_ACTIVE.apart g) (c : Bool) (m : Nat) (f : List Nat)
    (b : Bool) : HaltFrame K s (if c && s.haltMode == 0 then
      ({ s with haltMode := m, frozen := f } : State).setB MOD.TB_STAT_FRZ_ACTIVE b else s) := by
  split
  · rename_i h
    have h0 : s.haltMode = 0 := by simpa using (Bool.and_eq_true_iff.1 h).2
    exact ⟨fun g hg => State.get_setB_apart _ _ g b (hK g hg), fun hne => absurd h0 hne⟩
  · exact .refl K s

theorem State.unRearm_frame (src : Nat) : HaltFrame (tripKeeps src) s (s.unRearm src) := by
  unfold State.unRearm
  split
  · exact .refl _ s
  · dsimp only
    split
    · exact .refl _ s
    · rename_i r _ _
      generalize hu : ({ s with latches := _, rearmed := _ } : State) = u
      have hsu : HaltFrame (tripKeeps src) s u := by subst hu; exact ⟨fun _ _ => rfl, fun _ => rfl⟩
      have hl := hsu.set (fun g hg => hg.2.2) 1
      refine ((HaltFrame.iff ?_ (.setReg ?_ (fun g hg => hg.1.trp_ne (by decide) (by decide)) _)).irq
        (fun g hg => hg.1.trp_ne (by decide) (by decide)) _).refuse (fun g hg => hg.1.trp_ne (by decide) (by decide)) _ _
      all_goals exact hl.trans (State.haltRestore_frame _ (fun g hg => hg.1.frz) _ _ _ _)

theorem State.stackTrip_frame (h : ∀ g, K g → outside GRN.page g) {k : Nat} (hk : k < 8) :
    HaltFrame K s (s.stackTrip k) := by
  have hf : ∀ g, K g → ∀ f : Fld, f.addr = GRN.STK_STAT k → f.apart g := fun g hg f hf =>
    (h g hg).apart (by rw [hf]; unfold GRN.page GRN.STK_STAT; omega) (by rw [hf]; unfold GRN.page GRN.STK_STAT; omega)
  unfold State.stackTrip
  dsimp only
  generalize hu : (if (s.stack k).cmd == 2 then s.setStack k { s.stack k with cmd := 0 } else s) = u
  have hsu : HaltFrame K s u := by subst hu; exact .ite ⟨fun _ _ => rfl, fun _ => rfl⟩ (.refl K s)
  refine hsu.trans (.ite ?_ (.refl K u))
  have hent : HaltFrame K u (u.setStack k { u.stack k with entered := true }) := ⟨fun _ _ => rfl, fun _ => rfl⟩
  exact (hent.set (fun g hg => hf g hg (GRN.STK_STAT_STATE k) rfl) _).set
    (fun g hg => hf g hg (GRN.STK_STAT_TRIPPED k) rfl) _

theorem tripQuiet.legQuiet {g : Fld} (h : tripQuiet g) : legQuiet g := h.lpw.legQuiet

theorem State.outStat_frame : HaltFrame tripQuiet s s.outStat := by
  have hf : ∀ g, tripQuiet g → ∀ f : Fld, f.addr = TRP.page + 0x88 → f.apart g := fun g hg f hf =>
    .inl (by rw [hf]; exact Ne.symm (hg.trp_ne (by decide) (by decide)))
  unfold State.outStat
  exact (((HaltFrame.refl _ s).set (fun g hg => hf g hg _ rfl) _).set (fun g hg => hf g hg _ rfl) _).trans
    ((State.refreshLegs_frame _).haltFrame.mono fun _ hg => hg.legQuiet)

/-- A trip in two parts: up to the FLAG and LATCH of its source, and what follows from them. -/
theorem State.trip_split (src hiz asc cells : Nat) : ∃ u, HaltFrame (tripKeeps src) s u ∧
    HaltFrame tripQuiet ((u.set (flagFld src) 1).set (latchFld src) 1) (s.trip src hiz asc cells) := by
  have hfirst : ∀ g, tripKeeps src g → ∀ f : Fld, f.addr = TRP.page + 0x84 → f.apart g := fun g hg f hf =>
    .inl (by rw [hf]; exact Ne.symm (hg.1.trp_ne (by decide) (by decide)))
  unfold State.trip
  extract_lets _ s0 hiz asc first sameTick sf s1 s2 old s3 s4
  have h0 : HaltFrame (tripKeeps src) s s0 := (s.unRearm_frame src).trans ⟨fun _ _ => rfl, fun _ => rfl⟩
  have hf : HaltFrame (tripKeeps src) s0 sf := ((HaltFrame.refl _ s0).set
    (fun g hg => hfirst g hg TRP.FIRST_SRC rfl) _).set (fun g hg => hfirst g hg TRP.FIRST_PIDX rfl) _
  refine ⟨s1, h0.trans (.ite (hf.trans ⟨fun _ _ => rfl, fun _ => rfl⟩) (.refl _ s0)), ?_⟩
  have h3 : HaltFrame tripQuiet s2 s3 := ⟨fun _ _ => rfl, fun _ => rfl⟩
  have h4 : HaltFrame tripQuiet s2 s4 := ((h3.irq (fun g hg => hg.trp_ne (by decide) (by decide)) _).trans
    (State.outStat_frame _)).trans (State.log_frame _ (fun g hg => hg.nvl) _ _ _ _)
  exact h4.trans (HaltFrame.each (fun t k hk =>
    t.stackTrip_frame (fun g hg => hg.grn) (List.mem_range.1 (List.mem_filter.1 hk).1)) s4)

theorem State.trip_frame (src hiz asc cells : Nat) : HaltFrame (tripKeeps src) s (s.trip src hiz asc cells) := by
  obtain ⟨u, hsu, hut⟩ := s.trip_split src hiz asc cells
  exact ((hsu.set (fun _ hg => hg.2.1) 1).set (fun _ hg => hg.2.2) 1).trans (hut.mono fun _ hg => hg.1)

/-- A trip of an internal source sets its FLAG and LATCH (R127, R143). -/
theorem State.trip_sets {src : Nat} (h1 : 8 ≤ src) (h2 : src < 16) (hiz asc cells : Nat) :
    (s.trip src hiz asc cells).get ⟨TRP.ISTAT, src - 8, 1⟩ = 1 ∧ (s.trip src hiz asc cells).get ⟨TRP.ISTAT, src, 1⟩ = 1 := by
  have hq : ∀ lo, tripQuiet ⟨TRP.ISTAT, lo, 1⟩ := fun lo =>
    tripQuiet_of (a := TRP.ISTAT) rfl (by decide) (.inl (show MOD.TB_STAT ≠ TRP.ISTAT by decide))
  obtain ⟨u, -, hut⟩ := s.trip_split src hiz asc cells
  have hflag : flagFld src = ⟨TRP.ISTAT, src - 8, 1⟩ := if_neg (by omega)
  have hlatch : latchFld src = ⟨TRP.ISTAT, src, 1⟩ := if_neg (by omega)
  rw [hut.get _ (hq _), hut.get _ (hq _), hflag, hlatch]
  refine ⟨?_, State.get_set_self _ _ _ (by show src + 1 ≤ 32; omega)⟩
  rw [State.get_set_apart _ _ _ _ (.inr (.inr (by show src - 8 + 1 ≤ src; omega)))]
  exact State.get_set_self _ _ _ (by show src - 8 + 1 ≤ 32; omega)

theorem State.stackTrip_latches (k : Nat) : (s.stackTrip k).latches = s.latches := by
  unfold State.stackTrip
  dsimp only
  split <;> split <;> rfl

theorem State.log_latches (pg e a b : Nat) : (s.log pg e a b).latches = s.latches := by
  unfold State.log; split <;> rfl

theorem State.outStat_latches : s.outStat.latches = s.latches := State.refreshLegs_latches _

/-- A trip leaves its latch. -/
theorem State.trip_latch (src hiz asc cells : Nat) :
    ∃ l ∈ (s.trip src hiz asc cells).latches, l.cells = cells := by
  unfold State.trip
  extract_lets _ s0 hiz asc first sameTick sf s1 s2 old s3 s4
  have hs4 : s4.latches = old ++ [⟨src, hiz, asc, cells⟩] :=
    (State.log_latches _ _ _ _ _).trans (State.outStat_latches _)
  rw [State.each_same State.latches State.stackTrip_latches, hs4]
  exact ⟨⟨src, hiz, asc, cells⟩, by simp, rfl⟩

/-- A latch covers the cells it names. -/
theorem State.cellTripped_of_latch {l : Latch} {n : Nat} (hl : l ∈ s.latches) (hn : l.cells.testBit n = true) :
    s.cellTripped n = true := by
  have hfold : ∀ (ls : List Latch) (m : Nat), (m.testBit n = true ∨ l ∈ ls) →
      (ls.foldl (fun m l => m ||| l.cells) m).testBit n = true := by
    intro ls
    induction ls with
    | nil => exact fun m h => h.resolve_right (by simp)
    | cons c ls ih =>
      intro m h
      refine ih _ ?_
      rcases h with h | h
      · exact .inl (by rw [Nat.testBit_or, h, Bool.true_or])
      rcases List.mem_cons.1 h with rfl | h
      · exact .inl (by rw [Nat.testBit_or, hn, Bool.or_true])
      · exact .inr h
  exact hfold s.latches 0 (.inr hl)

end trips

/-! ### Machines, the disarm and the OWN line -/

/-- A field a disarm leaves alone: no trip of MCX writes it, and it lies outside the pages of the machines and of the Settle
pair and outside the registers of the power page that show the stage. -/
structure disarmKeeps (g : Fld) : Prop where
  trip : tripKeeps 12 g
  mcx : outside MCX.page g
  stl : outside STL.page g

section disarm
variable (s : State)

theorem State.mcxSource_frame (K : Fld → Prop) : HaltFrame K s s.mcxSource := s.srcActive_frame K _ _

theorem State.machSafe_frame {m : Nat} (hm : m < 2) (st cause : Nat) : HaltFrame disarmKeeps s (s.machSafe m st cause) := by
  have hf : ∀ g, disarmKeeps g → ∀ f : Fld, ∀ j < 2, f.addr = MCX.M_STAT j → f.apart g := fun g hg f j hj hf =>
    hg.mcx.apart (by rw [hf]; unfold MCX.page MCX.M_STAT; omega) (by rw [hf]; unfold MCX.page MCX.M_STAT; omega)
  have htrip : ∀ (t : State) (a b c : Nat), HaltFrame disarmKeeps t (t.trip 12 a b c) := fun t a b c =>
    (t.trip_frame 12 a b c).mono fun _ hg => hg.trip
  unfold State.machSafe
  extract_lets lm s1 s2 s3
  have h1 : HaltFrame disarmKeeps s s1 := (((HaltFrame.refl _ s).set
    (fun g hg => hf g hg (MCX.M_STAT_STATE m) m hm rfl) _).set (fun g hg => hf g hg (MCX.M_STAT_CAUSE m) m hm rfl) _).irq
      (fun g hg => hg.mcx.ne (by decide)) _
  have h2 : HaltFrame disarmKeeps s s2 :=
    h1.iff (h1.set (fun g hg => hf g hg (MCX.M_STAT_STATE 1) 1 (by decide) rfl) _)
  exact (h2.trans (.ite (htrip _ _ _ _) (htrip _ _ _ _))).trans (State.mcxSource_frame _ _)

theorem State.machForce_frame (st : Nat) : HaltFrame disarmKeeps s (s.machForce st [0, 1]) := by
  refine HaltFrame.each (fun t m hm => t.machSafe_frame ?_ _ _) s
  have hm := (List.mem_filter.1 hm).1
  split at hm
  · simp at hm; omega
  · simp at hm; omega

theorem State.stlSyncLost_frame : HaltFrame disarmKeeps s s.stlSyncLost := by
  unfold State.stlSyncLost
  exact .ite ((((HaltFrame.refl _ s).set (fun g hg => hg.stl.apart (by decide) (by decide)) _).set
    (fun g hg => hg.stl.apart (by decide) (by decide)) _).irq (fun g hg => hg.stl.ne (by decide)) _) (.refl _ s)

/-- What a disarm does beside the stage's own bits: stacks, machines, the Settle state and the legs. -/
theorem State.disarmRest_frame : HaltFrame disarmKeeps s
    (((s.each (List.range 8) State.stackTrip).machForce mINHIBIT [0, 1]).stlSyncLost.refreshLegs) := by
  have hstk : HaltFrame disarmKeeps s (s.each (List.range 8) State.stackTrip) :=
    HaltFrame.each (fun t k hk => t.stackTrip_frame (fun g hg => hg.trip.1.grn) (List.mem_range.1 hk)) s
  exact ((hstk.trans (State.machForce_frame _ mINHIBIT)).trans (State.stlSyncLost_frame _)).trans
    ((State.refreshLegs_frame _).haltFrame.mono fun _ hg => hg.trip.1.legQuiet)

/-- The stage's ARMED bit, one of the fields a disarm's further effects leave alone. -/
theorem disarmKeeps_armed : disarmKeeps PWR.STAT_ARMED :=
  ⟨⟨tripQuiet_of (a := PWR.STAT) rfl (by decide) (by decide), by decide, by decide⟩, .inl (by decide), .inl (by decide)⟩

theorem State.disarm_frame (cause : Nat) :
    HaltFrame (fun g => disarmKeeps g ∧ outside PWR.page g) s (s.disarm cause) := by
  have hp : ∀ g, disarmKeeps g ∧ outside PWR.page g → ∀ f : Fld, f.addr = PWR.STAT → f.apart g := fun g hg f hf =>
    hg.2.apart (by rw [hf]; decide) (by rw [hf]; decide)
  have hirq : ∀ g, disarmKeeps g ∧ outside PWR.page g → g.addr ≠ PWR.page + 0x14 := fun g hg => hg.2.ne (by decide)
  unfold State.disarm
  extract_lets u code s1 s2 s3 s4
  have hu := (HaltFrame.refl _ s).set (fun g hg => hp g hg PWR.STAT_ARM_PEND rfl) 0
  have h1 : HaltFrame _ s s1 := .ite (.ite (hu.refuse (fun g hg => hg.2.ne (by decide)) _ _)
    ((hu.set (fun g hg => hp g hg PWR.STAT_DIS_CAUSE rfl) _).irq hirq _)) (.refl _ s)
  refine .ite ?_ h1
  have h2 := ((h1.set (fun g hg => hp g hg PWR.STAT_ARMED rfl) 0).set
    (fun g hg => hp g hg PWR.STAT_DIS_CAUSE rfl) cause).irq hirq 1
  exact h2.trans ((State.disarmRest_frame _).mono fun _ hg => hg.1)

/-- After a disarm the stage is DISARMED (R413). -/
theorem State.disarm_armed (cause : Nat) : (s.disarm cause).armed = false := by
  unfold State.disarm
  extract_lets u code s1 s2 s3 s4
  split
  · have hrest := (State.disarmRest_frame s2).get _ disarmKeeps_armed
    have h2 : s2.get PWR.STAT_ARMED = 0 := by
      refine (State.get_irq_of_ne _ _ _ _ (by decide)).trans ?_
      rw [State.get_set_apart _ _ _ _ (by decide)]
      exact State.get_set_self _ _ _ (by decide)
    exact State.on_of_get_zero (hrest.trans h2)
  · rename_i h
    simpa using h

theorem State.driveDrop_frame : HaltFrame (fun g => STL.STAT_DRIVE.apart g) s s.driveDrop := by
  unfold State.driveDrop
  extract_lets cut s1
  have h1 : HaltFrame (fun g => STL.STAT_DRIVE.apart g) s s1 := (HaltFrame.refl _ s).set (fun _ hg => hg) _
  refine h1.iff (h1.trans (HaltFrame.each (fun t n _ => ?_) s1))
  split
  · exact .ite ⟨fun _ _ => rfl, fun _ => rfl⟩ (.refl _ t)
  · exact .refl _ t

theorem State.ownRelease_frame (cause : Nat) : HaltFrame (outside STL.page) s (s.ownRelease cause) := by
  have hf : ∀ g, outside STL.page g → ∀ f : Fld, f.addr = STL.STAT → f.apart g := fun g hg f hf =>
    hg.apart (by rw [hf]; decide) (by rw [hf]; decide)
  unfold State.ownRelease
  extract_lets _ s1 s2 s3
  have h1 : HaltFrame (outside STL.page) s s1 := ⟨fun _ _ => rfl, fun _ => rfl⟩
  have h2 : HaltFrame (outside STL.page) s s2 := ((h1.set (fun g hg => hf g hg STL.STAT_OWN_HELD rfl) 0).trans
    ((State.driveDrop_frame _).mono fun g hg => hf g hg _ rfl)).irq (fun g hg => hg.ne (by decide)) _
  have h3 : HaltFrame (outside STL.page) s s3 := h2.iff (h2.trans ⟨fun _ _ => rfl, fun _ => rfl⟩)
  exact .ite (h3.iff (h3.set (fun g hg => hf g hg STL.STAT_STATE rfl) _)) h1

/-- After a release the module does not hold its line (R329). -/
theorem State.ownRelease_held (cause : Nat) : (s.ownRelease cause).get STL.STAT_OWN_HELD = 0 := by
  unfold State.ownRelease
  extract_lets _ s1 s2 s3
  split
  · have h2 : s2.get STL.STAT_OWN_HELD = 0 := by
      refine (State.get_irq_of_ne _ _ _ _ (by decide)).trans ?_
      rw [(State.driveDrop_frame _).get _ (by decide)]
      exact State.get_set_self _ _ _ (by decide)
    have h3 : s3.get STL.STAT_OWN_HELD = 0 := ite_keeps (P := fun t => t.get STL.STAT_OWN_HELD = 0) h2 h2
    exact ite_keeps (P := fun t => t.get STL.STAT_OWN_HELD = 0)
      ((State.get_set_apart _ _ _ _ (by decide)).trans h3) h3
  · rename_i h
    exact State.get_of_not_on (by simpa using h)

end disarm

end Sys2Proof.Machine
end

section
/-! Halts and a stopped clock (R135–R138, R402, R438–R440), and the lock-out a halted safety core latches (R356). -/

namespace Sys2Proof.Machine

/-! ### The halt reaction (R135–R137) -/

section react
variable (s : State)

/-- Once the reaction has begun, or stood already, one stands. -/
theorem State.haltReact_stands : s.haltReact.haltMode ≠ 0 := by
  unfold State.haltReact
  split
  · rename_i h; simpa using h
  split
  · exact Nat.succ_ne_zero 1
  · exact Nat.succ_ne_zero 0

/-- A reaction that begins raises HALT. -/
theorem State.haltReact_raised (h : s.haltMode = 0) : s.haltReact.raised MOD.page 2 := by
  have hirq := State.raised_irq s MOD.page 2 (by decide)
  unfold State.haltReact
  rw [if_neg (by simp [h])]
  split
  · exact (State.raised_set _ _ _ MOD.TB_STAT_FRZ_ACTIVE 1 (by decide)).2 hirq
  · exact ite_keeps (P := fun t => t.raised MOD.page 2) (State.raised_irq_of _ _ _ _ _
      ((State.raised_set _ _ _ MOD.TB_STAT_FRZ_DENIED 1 (by decide)).2 hirq)) hirq

/-- The reaction is SAFE where HALT_MODE asks for it. -/
theorem State.haltReact_safe (h : s.haltMode = 0) (hm : s.get MOD.CFG_HALT_MODE = 0) : s.haltReact.haltMode = 1 := by
  unfold State.haltReact
  rw [if_neg (by simp [h]), if_neg (by simp [State.on_of_get_zero hm])]

/-- The halt reaction where the source of a REARM `r` turns active again: what `r` lifted in this tick stands again (R131). -/
def State.haltRestored (r : RearmRec) (src : Nat) : Nat :=
  if (r.latches.filter (fun l => l.src == src)).isEmpty || s.tickOf r.at_ != s.nowTick then s.haltMode
  else if (src == 13 || src == 14) && s.haltMode == 0 then r.halt.1 else s.haltMode

theorem State.unRearm_none {src : Nat} (h : s.rearmed = none) : s.unRearm src = s := by simp only [State.unRearm, h]

theorem State.unRearm_haltMode {r : RearmRec} (src : Nat) (h : s.rearmed = some r) :
    (s.unRearm src).haltMode = s.haltRestored r src := by
  have href : ∀ (t : State) (pg ofs code : Nat), (t.refuse pg ofs code).haltMode = t.haltMode := fun t pg ofs code => by
    simp [State.refuse, State.setB_eq, State.set_eq]
  simp only [State.unRearm, h, State.haltRestored]
  split
  · rfl
  · rw [href]
    have hite : ∀ (c : Bool) (t u : State), (if c then t else u).haltMode = if c then t.haltMode else u.haltMode :=
      fun c t u => apply_ite State.haltMode _ t u
    exact ite_keeps (P := fun u => State.haltMode u = if (src == 13 || src == 14) && s.haltMode == 0 then r.halt.1
      else s.haltMode) (hite _ _ _) (hite _ _ _)

theorem State.unRearm_haltMode_congr {s t : State} (hr : t.rearmed = s.rearmed) (hn : t.now = s.now)
    (he : t.epochAt = s.epochAt) (hm : t.haltMode = s.haltMode) (src : Nat) :
    (t.unRearm src).haltMode = (s.unRearm src).haltMode := by
  cases h : s.rearmed with
  | none => rw [s.unRearm_none h, t.unRearm_none (hr.trans h), hm]
  | some r =>
    rw [s.unRearm_haltMode src h, t.unRearm_haltMode src (hr.trans h)]
    have htick : ∀ x, t.tickOf x = s.tickOf x := fun x => by rw [State.tickOf, he, State.tickOf]
    have hnow : t.nowTick = s.nowTick := by rw [State.nowTick, hn, htick, State.nowTick]
    rw [State.haltRestored, htick, hnow, hm, State.haltRestored]

/-- Every leg brought up to the present tick. -/
theorem State.legSyncs_frame : LegFrame legQuiet s (s.each (List.range 12) State.legSync) :=
  LegFrame.each (fun t _ hk => t.legSync_frame (List.mem_range.1 hk)) s

end react

/-! ### A halt of a host pair or an engine (R135, R438) -/

/-- MOD.CFG takes a halt of the source, 0 and 1 the host pairs, 2 the engines (R135). -/
def State.haltTaken (s : State) (src : Nat) : Bool :=
  if src = 0 then s.on MOD.CFG_HALT_HCA else if src = 1 then s.on MOD.CFG_HALT_HCB else s.on MOD.CFG_HALT_LE

/-- The state a halt request leaves a module in DOZE: it wakes (R440). -/
def State.haltWoken (s : State) : State :=
  s.iff (s.get PWR.STAT_STATE == 2 && s.dbgHas 1) (fun s => (s.set PWR.STAT_STATE s.pwr.left).irq PWR.page 4)

/-- Source DBG trips, and the reaction begins (R135). -/
def State.dbgTrip (s : State) (src : Nat) : State :=
  let u := ((s.each (List.range 12) State.legSync).unRearm 13).haltReact
  ({ u with halts := u.halts ||| 1 <<< src }.srcActive 13 true).trip 13 0 0 allCells

theorem State.haltFrom_eq (s : State) (src : Nat) : s.haltFrom src =
    if s.haltWoken.haltTaken src && s.haltWoken.dbgHas 1 then s.haltWoken.dbgTrip src else s.haltWoken := by
  match src with
  | 0 => rfl
  | 1 => rfl
  | n + 2 => rfl

theorem State.haltWoken_awake {s : State} (h : s.get PWR.STAT_STATE ≠ 2) : s.haltWoken = s := by
  simp [State.haltWoken, State.iff, h]

/-- What the debug port grants rests on the lifecycle, the debug state, the bench interlock, the stage and the clocks
(R401, R438–R440). -/
theorem State.dbgHas_congr {s t : State} (hg : ∀ g, outside PWR.page g → t.get g = s.get g)
    (ha : t.get PWR.STAT_ARMED = s.get PWR.STAT_ARMED) (hd : t.dark = s.dark) (c : Nat) : t.dbgHas c = s.dbgHas c := by
  have hon : ∀ g, outside PWR.page g → t.on g = s.on g := fun g h => by rw [State.on, hg g h, State.on]
  have harm : t.armed = s.armed := by rw [State.armed, State.on, ha, State.armed, State.on]
  simp only [State.dbgHas, State.dbgCaps, State.dbgSt, State.lc, State.gated, hd, harm,
    hg SEC.DBG_STAT_SCOPE (.inr (by decide)), hg SEC.DBG_STAT_STATE (.inr (by decide)),
    hg SEC.LC_STAT_LC (.inr (by decide)), hon SEC.LC_STAT_BENCH_IL (.inr (by decide)),
    hg CLK.GATE_GATE (.inl (by decide))]

/-- What the wake of a halt request leaves as it was: registers outside the power page, the capability, and what a REARM of the
tick lifted. -/
theorem State.haltWoken_kept {s : State} (hl : s.get PWR.STAT_STATE = 2 → s.pwr.left < 3) :
    (∀ g, outside PWR.page g → s.haltWoken.get g = s.get g) ∧ s.haltWoken.dbgHas 1 = s.dbgHas 1 ∧
      LegFrame (outside PWR.page) s s.haltWoken := by
  by_cases hd : s.get PWR.STAT_STATE = 2
  · by_cases hc : s.dbgHas 1 = true
    · have hw : s.haltWoken = (s.set PWR.STAT_STATE s.pwr.left).irq PWR.page 4 := by
        simp [State.haltWoken, State.iff, hd, hc]
      have hf : LegFrame (outside PWR.page) s s.haltWoken := hw ▸ ((LegFrame.refl _ s).set
        (fun g hg => hg.apart (by decide) (by decide)) _).irq (fun g hg => hg.ne (by decide)) _
      have hfld : ∀ g : Fld, g.addr = PWR.STAT → PWR.STAT_STATE.apart g → s.haltWoken.get g = s.get g := fun g ha hg => by
        rw [hw, State.get_irq_of_ne _ _ _ _ (by rw [ha]; decide), State.get_set_apart _ _ _ _ hg]
      have hst : s.haltWoken.get PWR.STAT_STATE < 3 := by
        rw [hw, State.get_irq_of_ne _ _ _ _ (by decide), State.get_set_self _ _ _ (by decide)]
        exact lt_of_le_of_lt (Nat.mod_le _ _) (hl hd)
      have hdark : s.haltWoken.dark = s.dark := by
        have h1 : s.haltWoken.pwr = s.pwr := by rw [hw]; rfl
        have h2 : s.haltWoken.memx = s.memx := by rw [hw]; rfl
        simp [State.dark, h1, h2, hd, hst]
      exact ⟨hf.get, State.dbgHas_congr hf.get (hfld _ rfl (by decide)) hdark 1, hf⟩
    · have hw : s.haltWoken = s := by simp [State.haltWoken, State.iff, hc]
      rw [hw]; exact ⟨fun _ _ => rfl, rfl, .refl _ s⟩
  · rw [State.haltWoken_awake hd]; exact ⟨fun _ _ => rfl, rfl, .refl _ s⟩

theorem State.haltTaken_congr {s t : State} (hg : ∀ g, outside PWR.page g → t.get g = s.get g) (src : Nat) :
    t.haltTaken src = s.haltTaken src := by
  simp only [State.haltTaken, State.on, hg MOD.CFG_HALT_HCA (.inr (by decide)), hg MOD.CFG_HALT_HCB (.inr (by decide)),
    hg MOD.CFG_HALT_LE (.inr (by decide))]

/-- What a taken halt leaves: FLAG and LATCH of DBG, every cell tripped, a reaction that stands, and HALT raised where it
begins. -/
theorem State.dbgTrip_leaves (s : State) (src : Nat) :
    (s.dbgTrip src).haltMode ≠ 0 ∧ ((s.unRearm 13).haltMode = 0 → (s.dbgTrip src).raised MOD.page 2) ∧
      (s.dbgTrip src).get ⟨TRP.ISTAT, 5, 1⟩ = 1 ∧ (s.dbgTrip src).get ⟨TRP.ISTAT, 13, 1⟩ = 1 ∧
      (∀ n, n < 48 → (s.dbgTrip src).cellTripped n = true) ∧
      ((s.unRearm 13).haltMode = 0 → s.get MOD.CFG_HALT_MODE = 0 → (s.dbgTrip src).haltMode = 1) := by
  unfold State.dbgTrip
  extract_lets u
  have hu : u = ((s.each (List.range 12) State.legSync).unRearm 13).haltReact := rfl
  clear_value u
  have hsync := s.legSyncs_frame
  have hzero : (s.unRearm 13).haltMode = 0 → (((s.each (List.range 12) State.legSync).unRearm 13)).haltMode = 0 := fun h =>
    (State.unRearm_haltMode_congr hsync.rearmed hsync.now hsync.epochAt hsync.haltMode 13).trans h
  generalize hv : ({ u with halts := u.halts ||| 1 <<< src } : State).srcActive 13 true = v
  have huv : v.haltMode = u.haltMode := by subst hv; rfl
  have hreg : v.regs = u.regs := by subst hv; rfl
  have htrip := v.trip_frame 13 0 0 allCells
  have hstands : v.haltMode ≠ 0 := huv ▸ hu ▸ State.haltReact_stands _
  refine ⟨by rw [htrip.haltMode hstands]; exact hstands, fun h => ?_, (v.trip_sets (by decide) (by decide) 0 0 allCells).1,
    (v.trip_sets (by decide) (by decide) 0 0 allCells).2, fun n hn => ?_, fun h hm => ?_⟩
  · have hraw : (v.trip 13 0 0 allCells).reg (HDR.IRQ_RAW MOD.page) = u.reg (HDR.IRQ_RAW MOD.page) := by
      refine (State.reg_of_get (htrip.get _ ⟨tripQuiet_of (a := HDR.IRQ_RAW MOD.page) rfl (by decide) (by decide),
        by decide, by decide⟩)).trans ?_
      rw [State.reg, hreg, State.reg]
    have hraised : u.raised MOD.page 2 := hu ▸ State.haltReact_raised _ (hzero h)
    rwa [State.raised, hraw]
  · obtain ⟨l, hl, hc⟩ := v.trip_latch 13 0 0 allCells
    refine State.cellTripped_of_latch _ hl (hc ▸ ?_)
    rw [show allCells = 2 ^ 48 - 1 from rfl, Nat.testBit_two_pow_sub_one]
    simpa using hn
  · rw [htrip.haltMode hstands, huv, hu]
    refine State.haltReact_safe _ (hzero h) ?_
    rw [(State.unRearm_frame _ 13).get MOD.CFG_HALT_MODE
      ⟨tripQuiet_of (a := MOD.CFG) rfl (by decide) (by decide), by decide, by decide⟩,
      hsync.get MOD.CFG_HALT_MODE (outside.legQuiet (.inl (by decide))), hm]

/-- A halt the configuration takes, where the debug port grants the capability (R135, R438). -/
theorem State.haltFrom_taken {s : State} {src : Nat} (hd : s.dbgHas 1 = true)
    (hl : s.get PWR.STAT_STATE = 2 → s.pwr.left < 3) (ht : s.haltTaken src = true) :
    (s.haltFrom src).haltMode ≠ 0 ∧ ((s.unRearm 13).haltMode = 0 → (s.haltFrom src).raised MOD.page 2) ∧
      (s.haltFrom src).get ⟨TRP.ISTAT, 5, 1⟩ = 1 ∧ (s.haltFrom src).get ⟨TRP.ISTAT, 13, 1⟩ = 1 ∧
      (∀ n, n < 48 → (s.haltFrom src).cellTripped n = true) ∧
      ((s.unRearm 13).haltMode = 0 → s.get MOD.CFG_HALT_MODE = 0 → (s.haltFrom src).haltMode = 1) := by
  obtain ⟨hg, hdb, hf⟩ := State.haltWoken_kept hl
  have hun := State.unRearm_haltMode_congr hf.rearmed hf.now hf.epochAt hf.haltMode 13
  rw [State.haltFrom_eq, if_pos (by rw [State.haltTaken_congr hg, ht, hdb, hd]; rfl), ← hun,
    ← hg MOD.CFG_HALT_MODE (.inr (by decide))]
  exact s.haltWoken.dbgTrip_leaves src

theorem State.haltFrom_untaken {s : State} {src : Nat} (hs : s.get PWR.STAT_STATE ≠ 2) (ht : s.haltTaken src = false) :
    s.haltFrom src = s := by
  rw [State.haltFrom_eq, State.haltWoken_awake hs, ht]; rfl

/-! ### A stopped clock and the end of a halt (R135, R138, R329, R414) -/

theorem tripKeeps_tbStat {src lo : Nat} (hl : lo ≠ 3) : tripKeeps src ⟨MOD.TB_STAT, lo, 1⟩ := by
  refine ⟨tripQuiet_of (a := MOD.TB_STAT) rfl (by decide) (.inr ?_), tripFld_apart src ?_ ?_⟩
  · show 3 + 1 ≤ lo ∨ lo + 1 ≤ 3; omega
  · show TRP.STAT ≠ MOD.TB_STAT; decide
  · show TRP.ISTAT ≠ MOD.TB_STAT; decide

/-- What a disarm for a stopped clock, and the release of the line after it, leave alone. -/
theorem State.disarmRelease_get (s : State) (cause n : Nat) (g : Fld) (hd : disarmKeeps g) (hp : outside PWR.page g) :
    ((s.disarm cause).ownRelease n).get g = s.get g :=
  ((State.ownRelease_frame _ n).get g hd.stl).trans ((s.disarm_frame cause).get g ⟨hd, hp⟩)

/-- Source CLK trips, once the reaction stands (R135). -/
def State.clkTrip (s : State) : State :=
  let u := (((s.irq MOD.page 3).set MOD.TB_STAT_LOCK 0).set MOD.TB_STAT_CAL_OK 0)
  ({ u with halts := u.halts ||| 8 }.srcActive 14 true).trip 14 0 0 allCells

theorem State.clockStop_eq (s : State) : s.clockStop =
    (((((s.each (List.range 12) State.legSync).unRearm 14).haltReact).clkTrip.disarm disCLOCK).ownRelease 2) := rfl

/-- The trip of a stopped clock: its FLAG and LATCH stand, the reaction stands, and the time base shows neither lock nor
calibration. -/
theorem State.clkTrip_leaves {s : State} (h : s.haltMode ≠ 0) :
    s.clkTrip.get ⟨TRP.ISTAT, 6, 1⟩ = 1 ∧ s.clkTrip.get ⟨TRP.ISTAT, 14, 1⟩ = 1 ∧ s.clkTrip.haltMode ≠ 0 ∧
      s.clkTrip.get MOD.TB_STAT_LOCK = 0 ∧ s.clkTrip.get MOD.TB_STAT_CAL_OK = 0 := by
  unfold State.clkTrip
  extract_lets u
  generalize hv : ({ u with halts := u.halts ||| 8 } : State).srcActive 14 true = v
  have hget : ∀ g, v.get g = u.get g := fun g => by subst hv; rfl
  have hmode : v.haltMode ≠ 0 := by subst hv; exact h
  have hf := v.trip_frame 14 0 0 allCells
  obtain ⟨hflag, hlatch⟩ := v.trip_sets (src := 14) (by decide) (by decide) 0 0 allCells
  refine ⟨hflag, hlatch, by rwa [hf.haltMode hmode], ?_, ?_⟩
  · rw [hf.get _ (tripKeeps_tbStat (by decide)), hget]
    exact (State.get_set_apart _ MOD.TB_STAT_CAL_OK _ _ (by decide)).trans (State.get_set_self _ _ _ (by decide))
  · rw [hf.get _ (tripKeeps_tbStat (by decide)), hget]
    exact State.get_set_self _ MOD.TB_STAT_CAL_OK 0 (by decide)

theorem disarmKeeps_istat {lo : Nat} (h4 : lo ≠ 4) (h12 : lo ≠ 12) : disarmKeeps ⟨TRP.ISTAT, lo, 1⟩ := by
  refine ⟨⟨tripQuiet_of (a := TRP.ISTAT) rfl (by decide) (.inl (by show MOD.TB_STAT ≠ TRP.ISTAT; decide)), .inr ?_, .inr ?_⟩,
    .inl (by show TRP.ISTAT < MCX.page; decide), .inl (by show TRP.ISTAT < STL.page; decide)⟩
  · show 4 + 1 ≤ lo ∨ lo + 1 ≤ 4; omega
  · show 12 + 1 ≤ lo ∨ lo + 1 ≤ 12; omega

theorem disarmKeeps_tbStat {lo : Nat} (h : lo ≠ 3) : disarmKeeps ⟨MOD.TB_STAT, lo, 1⟩ :=
  ⟨tripKeeps_tbStat h, .inl (by show MOD.TB_STAT < MCX.page; decide),
    .inl (by show MOD.TB_STAT < STL.page; decide)⟩

/-- What a stopped clock leaves (R135, R329, R414). -/
theorem State.clockStop_leaves (s : State) :
    s.clockStop.get ⟨TRP.ISTAT, 6, 1⟩ = 1 ∧ s.clockStop.get ⟨TRP.ISTAT, 14, 1⟩ = 1 ∧ s.clockStop.haltMode ≠ 0 ∧
      s.clockStop.armed = false ∧ s.clockStop.get STL.STAT_OWN_HELD = 0 ∧ s.clockStop.get MOD.TB_STAT_LOCK = 0 ∧
      s.clockStop.get MOD.TB_STAT_CAL_OK = 0 := by
  rw [State.clockStop_eq]
  obtain ⟨h6, h14, hm, hl, hc⟩ := State.clkTrip_leaves
    (State.haltReact_stands ((s.each (List.range 12) State.legSync).unRearm 14))
  generalize (((s.each (List.range 12) State.legSync).unRearm 14).haltReact).clkTrip = s3 at *
  have hpwr : ∀ {lo}, outside PWR.page ⟨TRP.ISTAT, lo, 1⟩ := .inr (by show PWR.page + 0x1000 ≤ TRP.ISTAT; decide)
  have hrel := State.ownRelease_frame (s3.disarm disCLOCK) 2
  refine ⟨?_, ?_, ?_, ?_, State.ownRelease_held _ 2, ?_, ?_⟩
  · rwa [State.disarmRelease_get _ _ _ _ (disarmKeeps_istat (by decide) (by decide)) hpwr]
  · rwa [State.disarmRelease_get _ _ _ _ (disarmKeeps_istat (by decide) (by decide)) hpwr]
  · have hd := (s3.disarm_frame disCLOCK).haltMode hm
    rw [hrel.haltMode (by rwa [hd]), hd]; exact hm
  · rw [State.armed, State.on, hrel.get _ (.inl (by decide))]; exact s3.disarm_armed disCLOCK
  · rwa [State.disarmRelease_get _ _ _ _ (disarmKeeps_tbStat (by decide)) (.inr (by decide))]
  · rwa [State.disarmRelease_get _ _ _ _ (disarmKeeps_tbStat (by decide)) (.inr (by decide))]

theorem State.srcActive_same {β : Type} (p : State → β) (hp : ∀ s a i, p { s with srcAct := a, inactAt := i } = p s)
    (s : State) (src : Nat) (b : Bool) : p (s.srcActive src b) = p s := by
  unfold State.srcActive
  split
  · exact hp s _ s.inactAt
  split
  · exact hp s _ _
  · rfl

/-- The end of a halt leaves the reaction, the latches and the frozen levels as they stand (R138). -/
theorem State.haltOver_leaves (s : State) {src : Nat} (h : src < 4) :
    (s.haltOver src).halts.testBit src = false ∧ (s.haltOver src).haltMode = s.haltMode ∧
      (s.haltOver src).latches = s.latches ∧ (s.haltOver src).frozen = s.frozen := by
  have hbit : (15 ^^^ 1 <<< src : Nat).testBit src = false := by interval_cases src <;> decide
  unfold State.haltOver
  extract_lets s1 s2
  have h2 : (s2.halts, s2.haltMode, s2.latches, s2.frozen) =
      (s.halts &&& (15 ^^^ 1 <<< src), s.haltMode, s.latches, s.frozen) :=
    ite_keeps (P := fun t => (t.halts, t.haltMode, t.latches, t.frozen) = _) rfl rfl
  have hact := State.srcActive_same (fun t => (t.halts, t.haltMode, t.latches, t.frozen)) (fun _ _ _ => rfl)
  have hall := ((hact _ 14 (s2.halts.testBit 3)).trans (hact s2 13 (s2.halts &&& 7 != 0))).trans h2
  simp only [Prod.mk.injEq] at hall
  obtain ⟨hh, hm, hl, hf⟩ := hall
  exact ⟨by rw [hh, Nat.testBit_and, hbit, Bool.and_false], hm, hl, hf⟩

/-- PLL-PWM locks again, and the fine-delay line is calibrated from there (R105, R138). -/
theorem State.haltOver_lock (s : State) :
    (s.haltOver 3).get MOD.TB_STAT_LOCK = 1 ∧ (s.haltOver 3).get MOD.TB_STAT_CAL_OK = 1 := by
  unfold State.haltOver
  extract_lets s1 s2
  have hact : ∀ t src b g, (State.srcActive t src b).get g = t.get g := fun t src b g =>
    State.srcActive_same (fun t => t.get g) (fun _ _ _ => rfl) t src b
  rw [hact, hact, hact, hact]
  exact ⟨(State.get_set_apart _ _ _ _ (by decide)).trans (State.get_set_self _ _ _ (by decide)),
    State.get_set_self _ _ _ (by decide)⟩

/-! ### The lock-out of a safety core (R136, R356) -/

/-- LOCKOUT and the cause of the lock-out. -/
def lockFld (g : Fld) : Prop := g = SAF.STAT_LOCKOUT ∨ g = SAF.LOCK_CAUSE

theorem lockFld.cases {P : Fld → Prop} (h1 : P SAF.STAT_LOCKOUT) (h2 : P SAF.LOCK_CAUSE) : ∀ g, lockFld g → P g := by
  rintro g (rfl | rfl)
  · exact h1
  · exact h2

section lock
variable (s : State)

theorem State.safShow_frame : HaltFrame lockFld s s.safShow := by
  unfold State.safShow
  extract_lets s1
  have h1 : HaltFrame lockFld s s1 := HaltFrame.each (fun t f _ => (HaltFrame.refl _ t).set
    (lockFld.cases (.inl (by show 0x40800050 ≠ 0x40800040; decide)) (.inl (by show 0x40800050 ≠ 0x40800044; decide))) _) s
  exact (h1.set (lockFld.cases (by decide) (by decide)) _).set (lockFld.cases (by decide) (by decide)) _

theorem State.soSet_frame (a b : Nat) : HaltFrame lockFld s (s.soSet a b) := by
  unfold State.soSet
  extract_lets s1
  have h1 : HaltFrame lockFld s s1 := by
    refine HaltFrame.each (fun t o _ => ?_) s
    split
    · dsimp only
      have hsaf : ∀ f, HaltFrame lockFld t (t.modSaf f) := fun _ => ⟨fun _ _ => rfl, fun _ => rfl⟩
      refine .ite (HaltFrame.irq (HaltFrame.set (HaltFrame.set (hsaf _)
        (lockFld.cases ?_ ?_) _) (lockFld.cases ?_ ?_) _) (lockFld.cases ?_ ?_) _) (.refl _ t) <;> decide
    · exact .refl _ t
  exact ((h1.set (lockFld.cases (by decide) (by decide)) _).set (lockFld.cases (by decide) (by decide)) _).trans
    (State.safShow_frame _)

theorem lockFld_tripKeeps {src : Nat} : ∀ g, lockFld g → tripKeeps src g :=
  lockFld.cases
    ⟨tripQuiet_of (a := SAF.STAT) rfl (by decide) (by decide), tripFld_apart src (by decide) (by decide)⟩
    ⟨tripQuiet_of (a := SAF.LOCK) rfl (by decide) (by decide), tripFld_apart src (by decide) (by decide)⟩

theorem lockFld_disarmKeeps : ∀ g, lockFld g → disarmKeeps g ∧ outside PWR.page g := fun g hg =>
  have hm : outside MCX.page g := lockFld.cases (.inr (by decide)) (.inr (by decide)) g hg
  have hs : outside STL.page g := lockFld.cases (.inr (by decide)) (.inr (by decide)) g hg
  have hp : outside PWR.page g := lockFld.cases (.inr (by decide)) (.inr (by decide)) g hg
  ⟨⟨lockFld_tripKeeps g hg, hm, hs⟩, hp⟩

theorem State.stoUpdate_frame : HaltFrame lockFld s s.stoUpdate := by
  unfold State.stoUpdate
  extract_lets d s1 s2 ok was s3
  have h1 : HaltFrame lockFld s s1 := (HaltFrame.refl _ s).set (lockFld.cases (by decide) (by decide)) _
  have h2 : HaltFrame lockFld s s2 := h1.trans (.ite
    (.ite (.refl _ s1) ((State.srcActive_frame _ _ 10 true).trans ((State.trip_frame _ 10 _ _ _).mono lockFld_tripKeeps)))
    (State.srcActive_frame _ _ 10 false))
  have h3 : HaltFrame lockFld s s3 := h2.set (lockFld.cases (by decide) (by decide)) _
  exact h3.iff (h3.trans ((State.disarm_frame _ _).mono lockFld_disarmKeeps))

/-- A lock-out is latched, and its cause where none stood before (R356). -/
theorem State.safLock_latches {cause : Nat} (hc : cause < 32) (index : Nat) :
    (s.safLock cause index).get SAF.STAT_LOCKOUT = 1 ∧
      (s.get SAF.STAT_LOCKOUT = 0 → (s.safLock cause index).get SAF.LOCK_CAUSE = cause) := by
  unfold State.safLock
  extract_lets s1 s2
  have h2 : HaltFrame lockFld s1 (s2.soSet 0 0).stoUpdate :=
    ((s1.log_frame (lockFld.cases (.inl (by decide)) (.inl (by decide))) _ _ _ _).trans (State.soSet_frame _ 0 0)).trans
      (State.stoUpdate_frame _)
  rw [h2.get _ (.inl rfl), h2.get _ (.inr rfl)]
  by_cases h : s.on SAF.STAT_LOCKOUT = true
  · have h1 : s1 = s := if_pos h
    rw [h1]
    have hlt := s.get_lt SAF.STAT_LOCKOUT
    have hne : s.get SAF.STAT_LOCKOUT ≠ 0 := by simpa [State.on] using h
    refine ⟨?_, fun h0 => absurd h0 hne⟩
    have : s.get SAF.STAT_LOCKOUT < 2 := hlt
    omega
  · have h1 : s1 = ((((s.set SAF.STAT_LOCKOUT 1).set SAF.LOCK_CAUSE cause).set SAF.LOCK_INDEX index).set SAF.LOCK_PIDX
        (s.pidx % 2 ^ 20)).irq SAF.page 1 := if_neg h
    rw [h1, State.get_irq_of_ne _ _ _ SAF.STAT_LOCKOUT (by decide), State.get_irq_of_ne _ _ _ SAF.LOCK_CAUSE (by decide)]
    refine ⟨?_, fun _ => ?_⟩
    · rw [State.get_set_apart _ SAF.LOCK_PIDX _ _ (by decide), State.get_set_apart _ SAF.LOCK_INDEX _ _ (by decide),
        State.get_set_apart _ SAF.LOCK_CAUSE _ _ (by decide)]
      exact State.get_set_self _ _ _ (by decide)
    · rw [State.get_set_apart _ SAF.LOCK_PIDX _ _ (by decide), State.get_set_apart _ SAF.LOCK_INDEX _ _ (by decide),
        State.get_set_self _ _ _ (by decide)]
      exact Nat.mod_eq_of_lt hc

end lock

end Sys2Proof.Machine
end

section
/-! The statement about legs and halts: each clause from the lemmas of the operation it speaks of. -/

namespace Sys2Proof.Machine

/-- Settles O24: a leg's enable and disable by what `legCfgWrite` leaves, halts by the trip of source DBG after the
reaction, a stopped clock by what the disarm and the release of the line leave alone. -/
theorem legsAndHalts : Obligations.LegsAndHalts := by
  unfold Obligations.LegsAndHalts
  have hlow : ∀ v : Word, getBits (v ||| 1) 0 1 = 1 ∧ getBits (v &&& ~~~1) 0 1 = 0 := fun v => by
    simp [getBits_one]
  refine ⟨⟨?_, ?_, ?_, ?_⟩, ?_, ?_, ?_, ?_, ?_, ?_, ?_⟩
  · intro k v s ht hi he hm hr hc
    exact ⟨_, rfl, State.legEnable_claims k.isLt ht hi he (hlow v).1 (by rwa [getBits_or_one _ _ _ (by decide)])
      (by rwa [getBits_or_one _ _ _ (by decide)]) hc⟩
  · intro k v s ht hi he hm hr hc hin
    exact ⟨_, rfl, State.legDisable_releases k.isLt ht hi he (hlow v).2 (by rwa [getBits_and_not_one _ _ _ (by decide)])
      (by rwa [getBits_and_not_one _ _ _ (by decide)]) hc hin⟩
  · intro k v s ht hi
    refine ⟨?_, fun r => State.claim_congr (State.take_claims ..) r⟩
    show Host.Outcome.next (s.legCfgWrite k (v ||| 1)) = _
    rw [State.legCfgWrite, State.fitted, if_neg (by simp [hi]), State.judge_takes ht (by simp)]
  · intro k v s hi hg h
    exact ⟨next_congr (State.legCfgWrite_range hg hi (by
        rwa [getBits_or_one _ _ _ (by decide), getBits_or_one _ _ _ (by decide)])),
      next_congr (State.legCfgWrite_range hg hi (by
        rwa [getBits_and_not_one _ _ _ (by decide), getBits_and_not_one _ _ _ (by decide)]))⟩
  · intro h s hlt hd hl ht
    have htaken : s.dbgTouch.haltTaken h.val = true := by
      match h, hlt with
      | 0, _ => exact ht
      | 1, _ => exact ht
      | 2, _ => exact ht
    rw [← State.unRearm_haltMode_congr (s := s) (t := s.dbgTouch) rfl rfl rfl rfl 13]
    refine ⟨s.dbgTouch.haltFrom h.val, ?_, State.haltFrom_taken (s := s.dbgTouch) hd hl htaken⟩
    show execHalt h s = _
    rw [execHalt, if_pos hlt, if_pos hd]
  · intro h s hlt hd hs ht
    have huntaken : s.dbgTouch.haltTaken h.val = false := by
      match h, hlt with
      | 0, _ => exact ht
      | 1, _ => exact ht
      | 2, _ => exact ht
    show execHalt h s = _
    rw [execHalt, if_pos hlt, if_pos hd, State.haltFrom_untaken (s := s.dbgTouch) hs huntaken]
  · intro h s hd
    show execHalt h s = _
    rw [execHalt]
    split
    · rename_i hlt
      rw [if_pos hlt] at hd
      rw [hd]; rfl
    · rename_i hlt
      rw [if_neg hlt] at hd
      rw [hd]; rfl
  · intro h s hge hd
    refine ⟨?_, s.dbgTouch.safLock_latches (by decide) _⟩
    show execHalt h s = _
    rw [execHalt, if_neg (by omega), if_pos hd]
  · exact fun s => ⟨_, rfl, s.clockStop_leaves⟩
  · exact fun s => ⟨_, rfl, s.haltOver_lock⟩
  · exact fun h s => ⟨_, rfl, s.haltOver_leaves h.isLt⟩

end Sys2Proof.Machine
end

section
/-! The machines of MCX: their commands (R237), and a host write to Mm_CFG that enables or disables one (R220, R222). -/

namespace Sys2Proof.Machine

/-! ### Commands (R237) -/

/-- The conditions of a command of its own: those of RUN in the order of its table, and that of CLEAR. -/
def machOwnConds (s : State) (m op : Nat) : List (Bool × Nat) :=
  if op = 1 then
    [(!s.armed, eARMED), (!s.primaryValid m, xSENSOR),
     (s.bootUv m && !decide (absR (s.speedInUse m) * 100 < (s.get (MCX.M_SPD_W_RATED m) : Rat)), xBOOT),
     (s.machLatched m, xLATCHED), ((s.machOwner m).isNone, xSTATE)]
  else if op = 5 then [(s.ascHeld m, xEMF_HIGH)] else []

/-- The machine is one of the topology, is enabled, and is in a state in which the command is accepted. -/
def machOpen (s : State) (m op : Nat) : Bool :=
  s.machines.contains m && s.mEn m && (machOpStates op).contains (s.mState m)

section commands
variable {s : State} {m op : Nat}

theorem State.machCmd_eq (hi : s.isl = true) (h0 : op ≠ 0) : s.machCmd m op = s.judge MCX.page (0x108 + 0x80 * m)
    ([(decide (6 ≤ op), eRANGE), (!(s.machines.contains m && s.mEn m) || !(machOpStates op).contains (s.mState m), xSTATE)]
      ++ machOwnConds s m op) (fun s => s.modMM m (fun x => { x with cmd := op })) := by
  rw [State.machCmd]
  simp only [hi, h0, machOwnConds]
  rfl

theorem machOwnConds_codes : ∀ x ∈ machOwnConds s m op, x.2 ≠ eKEY ∧ x.2 ≠ eRANGE := by
  unfold machOwnConds
  split
  · simp
  split <;> simp

theorem machCmd_codes (h6 : op < 6) {b : Bool} : ∀ x ∈ [(decide (6 ≤ op), eRANGE), (b, xSTATE)] ++ machOwnConds s m op,
    x.1 = true → x.2 ≠ eKEY ∧ x.2 ≠ eRANGE := by
  intro x hx hb
  rcases List.mem_append.1 hx with hx | hx
  · rcases List.mem_cons.1 hx with rfl | hx
    · simp at hb; omega
    · rw [List.mem_singleton.1 hx]; simp
  · exact machOwnConds_codes x hx

/-- A command outside its states, or of a machine that is not enabled, is refused. -/
theorem State.machCmd_shut (ht : s.takes MCX.page) (hi : s.isl = true) (h0 : op ≠ 0) (h6 : op < 6)
    (h : s.mEn m = false ∨ s.mState m ∉ machOpStates op) :
    s.machCmd m op = s.refuse MCX.page (0x108 + 0x80 * m) xSTATE := by
  have hb : (!(s.machines.contains m && s.mEn m) || !(machOpStates op).contains (s.mState m)) = true := by
    rcases h with h | h
    · simp [h]
    · simp [h]
  rw [State.machCmd_eq hi h0, hb]
  refine State.judge_first (c := (true, xSTATE)) ht ?_ (machCmd_codes h6)
  simp [Nat.not_le.2 h6]

/-- A command in its states is judged on its own conditions, the first of which that is met refuses it. -/
theorem State.machCmd_refused {c : Bool × Nat} (ht : s.takes MCX.page) (hi : s.isl = true) (h0 : op ≠ 0) (h6 : op < 6)
    (ho : machOpen s m op = true) (hc : (machOwnConds s m op).find? (fun x => x.1) = some c) :
    s.machCmd m op = s.refuse MCX.page (0x108 + 0x80 * m) c.2 := by
  simp only [machOpen, Bool.and_eq_true] at ho
  obtain ⟨⟨hm, he⟩, hs⟩ := ho
  rw [State.machCmd_eq hi h0]
  refine State.judge_first ht ?_ (machCmd_codes h6)
  simpa [Nat.not_le.2 h6, he, List.contains_iff_mem.1 hm, List.contains_iff_mem.1 hs] using hc

/-- A command that meets none of them is pending until the evaluation. -/
theorem State.machCmd_accepted (ht : s.takes MCX.page) (hi : s.isl = true) (h0 : op ≠ 0) (h6 : op < 6)
    (ho : machOpen s m op = true) (hc : ∀ x ∈ machOwnConds s m op, x.1 = false) :
    s.machCmd m op = s.modMM m (fun x => { x with cmd := op }) := by
  simp only [machOpen, Bool.and_eq_true] at ho
  obtain ⟨⟨hm, he⟩, hs⟩ := ho
  rw [State.machCmd_eq hi h0]
  refine State.judge_takes ht fun x hx => ?_
  rcases List.mem_append.1 hx with hx | hx
  · have := List.contains_iff_mem.1 hm
    have := List.contains_iff_mem.1 hs
    simp at hx
    rcases hx with rfl | rfl <;> simp [*]
  · exact hc x hx

end commands

/-- R237 for RUN: the first condition of its table that applies refuses it, and with none it is pending. -/
theorem State.machRun_judged {s : State} {m : Nat} (ht : s.takes MCX.page) (hi : s.isl = true)
    (ho : machOpen s m 1 = true) :
    (s.armed = false → s.machCmd m 1 = s.refuse MCX.page (0x108 + 0x80 * m) eARMED) ∧
    (s.armed = true → s.primaryValid m = false → s.machCmd m 1 = s.refuse MCX.page (0x108 + 0x80 * m) xSENSOR) ∧
    (s.armed = true → s.primaryValid m = true → s.bootUv m = true →
      (s.get (MCX.M_SPD_W_RATED m) : Rat) ≤ absR (s.speedInUse m) * 100 →
      s.machCmd m 1 = s.refuse MCX.page (0x108 + 0x80 * m) xBOOT) ∧
    (s.armed = true → s.primaryValid m = true → s.bootUv m = false →
      (s.machLatched m = true → s.machCmd m 1 = s.refuse MCX.page (0x108 + 0x80 * m) xLATCHED) ∧
      (s.machLatched m = false → s.machOwner m = none → s.machCmd m 1 = s.refuse MCX.page (0x108 + 0x80 * m) xSTATE) ∧
      (s.machLatched m = false → (s.machOwner m).isSome → s.machCmd m 1 = s.modMM m (fun x => { x with cmd := 1 }))) := by
  have href := fun (c : Bool × Nat) => State.machCmd_refused (c := c) ht hi (by decide : (1 : Nat) ≠ 0) (by decide) ho
  refine ⟨fun ha => href (true, eARMED) ?_, fun ha hp => href (true, xSENSOR) ?_,
    fun ha hp hb hw => href (true, xBOOT) ?_, fun ha hp hb => ⟨fun hl => href (true, xLATCHED) ?_,
      fun hl hw => href (true, xSTATE) ?_, fun hl hw => State.machCmd_accepted ht hi (by decide) (by decide) ho ?_⟩⟩
  · simp [machOwnConds, ha]
  · simp [machOwnConds, ha, hp]
  · simp [machOwnConds, ha, hp, hb, hw]
  · simp [machOwnConds, ha, hp, hb, hl]
  · simp [machOwnConds, ha, hp, hb, hl, hw]
  · have hown : (s.machOwner m).isNone = false := by simpa [← Option.isSome_iff_ne_none] using hw
    simp [machOwnConds, ha, hp, hb, hl, hown]

/-! ### Enabling a machine (R220, R222) -/

/-- The legs of a machine are local legs. -/
theorem State.machLegs_lt {s : State} {m k : Nat} (h : k ∈ s.machLegs m) : k < 12 := by
  unfold State.machLegs at h
  split at h <;> simp at h <;> omega

theorem State.machLegs_congr {s t : State} (h : t.get MCX.CFG_TOPO = s.get MCX.CFG_TOPO) (m : Nat) :
    t.machLegs m = s.machLegs m := by
  unfold State.machLegs; rw [h]

theorem rowAt_machCfg {m : Nat} (hm : m < 2) :
    rowAt .mcx (0x100 + 0x80 * m) = some (⟨0x100, 2, 128, 0x11, 0x1FFFFEE, 0x0, 0x0, 0x0, 0x0, 0x20⟩, m) := by
  interval_cases m <;> decide

/-- EN after a write to Mm_CFG is the bit written. -/
theorem State.mEn_take (s : State) {m : Nat} (hm : m < 2) (val : Word) :
    (s.take .mcx MCX.page (0x100 + 0x80 * m) val).mEn m = val.getLsbD 0 := by
  have haddr : (MCX.M_CFG_EN m).addr = MCX.page + (0x100 + 0x80 * m) := by
    show 0x40310100 + 0x80 * m = 0x40310000 + (0x100 + 0x80 * m); omega
  have hopen : ∀ i, i < (MCX.M_CFG_EN m).w →
      ((0x11 : Nat) ||| (if s.locked MCX.page then 0 else 0x1FFFFEE)).testBit ((MCX.M_CFG_EN m).lo + i) = true := by
    intro i hi
    obtain rfl : i = 0 := by have : i < 1 := hi; omega
    have hbit : ∀ lk : Bool, ((0x11 : Nat) ||| (if lk then 0 else 0x1FFFFEE)).testBit 0 = true := by decide
    exact hbit _
  rw [State.mEn, State.on, State.get_take_open (rowAt_machCfg hm) (by omega) haddr (by show 0 + 1 ≤ 32; decide) hopen]
  rw [show getBits val (MCX.M_CFG_EN m).lo (MCX.M_CFG_EN m).w = getBits val 0 1 from rfl, getBits_one]
  cases val.getLsbD 0 <;> rfl

/-- A write to Mm_CFG leaves every field of another register than that and ERR_CODE. -/
theorem State.get_take_machCfg (s : State) (m : Nat) (val : Word) (g : Fld) (h : g.addr ≠ MCX.M_CFG m)
    (he : g.addr ≠ MCX.page + 0x20) : (s.take .mcx MCX.page (0x100 + 0x80 * m) val).get g = s.get g :=
  State.get_take_of_ne s _ _ _ val g (by intro e; apply h; rw [e]; unfold MCX.M_CFG MCX.page; omega) he

/-- While the machine is OFF its primary source is the one in use (R229, R234). -/
def State.machPrimary (s : State) (m : Nat) : State :=
  s.iff (s.mState m == mOFF) (fun s => s.set (MCX.M_STAT_USED m) (s.get (MCX.M_CFG_SRC m)))

theorem State.machPrimary_get (s : State) (m : Nat) (g : Fld) (h : (MCX.M_STAT_USED m).apart g) :
    (s.machPrimary m).get g = s.get g :=
  ite_keeps (P := fun t => t.get g = s.get g) (State.get_set_apart _ _ _ _ h) rfl

theorem State.machPrimary_claims (s : State) (m : Nat) : (s.machPrimary m).claims = s.claims :=
  ite_keeps (P := fun t => t.claims = s.claims) rfl rfl

theorem State.setMState_mState (s : State) {m st : Nat} (hm : m < 2) (hst : st < 8) : (s.setMState m st).mState m = st := by
  have hself : ∀ (t : State) j, (t.set (MCX.M_STAT_STATE j) st).get (MCX.M_STAT_STATE j) = st := fun t j =>
    (State.get_set_self t (MCX.M_STAT_STATE j) st (by show 0 + 3 ≤ 32; decide)).trans (Nat.mod_eq_of_lt hst)
  refine ite_keeps (P := fun t => t.get (MCX.M_STAT_STATE m) = st) ?_ (hself s m)
  obtain rfl | rfl : m = 0 ∨ m = 1 := by omega
  · rw [State.get_set_apart _ _ _ _ (.inl (by decide))]; exact hself s 0
  · exact hself _ 1

/-- What a change of a machine's state leaves: every field outside the STAT registers of the machines, and the claims. -/
theorem State.setMState_frame (s : State) {m : Nat} (hm : m < 2) (st : Nat) :
    LegFrame (fun g => g.addr ≠ MCX.M_STAT 0 ∧ g.addr ≠ MCX.M_STAT 1) s (s.setMState m st) := by
  have hset : ∀ {t : State} j, j < 2 → LegFrame (fun g => g.addr ≠ MCX.M_STAT 0 ∧ g.addr ≠ MCX.M_STAT 1) t
      (t.set (MCX.M_STAT_STATE j) st) := fun {t} j hj => (LegFrame.refl _ t).set (fun g hg => .inl (by
        obtain rfl | rfl : j = 0 ∨ j = 1 := by omega
        · exact Ne.symm hg.1
        · exact Ne.symm hg.2)) st
  exact .ite ((hset m hm).trans (hset 1 (by decide))) (hset m hm)

/-! ### The legs of an enabled machine (R222) -/

/-- A leg set up for its machine's carrier: PRD, PHASE 0, both reload events, SYNC, and MODE OFF. -/
def legReady (prd k : Nat) (t : State) : Prop :=
  t.get (LPW.PRD_PRD k) = prd ∧ t.get (LPW.CFG_SYNC k) = 1 ∧ t.get (LPW.CFG_RLD k) = 3 ∧ t.get (LPW.CFG_MODE k) = 0 ∧
    t.get (LPW.PHASE_PHASE k) = 0

/-- A machine's enable sets a leg up and starts its channel. -/
def State.machLeg (prd : Nat) (s : State) (k : Nat) : State :=
  ((s.mcxLegSetup k prd).set (LPW.CFG_MODE k) 0).legStart k

theorem legQuiet_slot {g : Fld} {k o : Nat} (hg : g.addr = 0x40120080 + 0x20 * k + o) (ho : o < 0x18) : legQuiet g := by
  refine ⟨?_, fun j _ => ?_⟩
  · rw [hg]; show _ ≠ 0x40120000 + 0x14; omega
  · rw [hg]; show _ ≠ 0x40120098 + 0x20 * j; omega

/-- What frames a leg's shadow registers frames its readiness. -/
theorem legReady.keep {prd k : Nat} {s t : State} (h : legReady prd k s)
    (hf : ∀ g : Fld, ∀ o < 0x18, g.addr = 0x40120080 + 0x20 * k + o → t.get g = s.get g) : legReady prd k t := by
  obtain ⟨h1, h2, h3, h4, h5⟩ := h
  exact ⟨(hf _ 4 (by decide) (by show 0x40120084 + _ = _; omega)).trans h1, (hf _ 0 (by decide) rfl).trans h2,
    (hf _ 0 (by decide) rfl).trans h3, (hf _ 0 (by decide) rfl).trans h4,
    (hf _ 8 (by decide) (by show 0x40120088 + _ = _; omega)).trans h5⟩

theorem legReady.frame {prd k : Nat} {s t : State} (h : legReady prd k s) (hf : State.LegFrame legQuiet s t) : legReady prd k t :=
  h.keep fun g _ ho hg => hf.get g (legQuiet_slot hg ho)

section legs
variable (s : State) {k prd : Nat}

/-- Setting a leg up leaves every field outside its slot alone. -/
theorem State.mcxLegSetup_get {g : Fld} (hg : g.addr < 0x40120080 + 0x20 * k ∨ 0x40120080 + 0x20 * k + 0x20 ≤ g.addr) :
    ((s.mcxLegSetup k prd).set (LPW.CFG_MODE k) 0).get g = s.get g := by
  have hne : ∀ f : Fld, 0x40120080 + 0x20 * k ≤ f.addr → f.addr < 0x40120080 + 0x20 * k + 0x20 → f.apart g :=
    fun f h1 h2 => .inl (by omega)
  rw [State.get_set_apart _ _ _ _ (hne _ (by show _ ≤ 0x40120080 + _; omega) (by show 0x40120080 + _ < _; omega)),
    State.mcxLegSetup,
    State.get_set_apart _ _ _ _ (hne _ (by show _ ≤ 0x40120084 + _; omega) (by show 0x40120084 + _ < _; omega)),
    State.get_set_apart _ _ _ _ (hne _ (by show _ ≤ 0x40120088 + _; omega) (by show 0x40120088 + _ < _; omega))]
  exact State.get_congr _ (State.reg_setReg_of_ne _ _ (by show _ ≠ 0x40120080 + _; omega))

theorem State.mcxLegSetup_ready (hp : prd < 2 ^ 18) : legReady prd k ((s.mcxLegSetup k prd).set (LPW.CFG_MODE k) 0) := by
  have hcfg : ∀ t : State, ∀ g : Fld, g.addr = LPW.CFG k →
      ((t.set (LPW.PHASE_PHASE k) 0).set (LPW.PRD_PRD k) prd).get g = t.get g := fun t g hg => by
    rw [State.get_set_apart _ _ _ _ (.inl (by rw [hg]; show 0x40120084 + _ ≠ 0x40120080 + _; omega)),
      State.get_set_apart _ _ _ _ (.inl (by rw [hg]; show 0x40120088 + _ ≠ 0x40120080 + _; omega))]
  have hmode : ∀ t : State, ∀ g : Fld, (LPW.CFG_MODE k).apart g → (t.set (LPW.CFG_MODE k) 0).get g = t.get g :=
    fun t g hg => State.get_set_apart t _ g 0 hg
  refine ⟨?_, ?_, ?_, ?_, ?_⟩
  · rw [hmode _ _ (.inl (by show 0x40120080 + _ ≠ 0x40120084 + _; omega)), State.mcxLegSetup,
      State.get_set_self _ _ _ (by show 0 + 18 ≤ 32; decide)]
    exact Nat.mod_eq_of_lt hp
  · rw [hmode _ _ (.inr (.inl (by show 1 + 3 ≤ 6; decide))), State.mcxLegSetup, hcfg _ _ rfl, State.get,
      show (LPW.CFG_SYNC k).addr = LPW.CFG k from rfl, State.reg_setReg_self]
    exact getBits_putBits_self _ 6 1 1 (by decide)
  · rw [hmode _ _ (.inr (.inl (by show 1 + 3 ≤ 4; decide))), State.mcxLegSetup, hcfg _ _ rfl, State.get,
      show (LPW.CFG_RLD k).addr = LPW.CFG k from rfl, State.reg_setReg_self]
    exact (getBits_putBits_apart _ 6 1 1 4 2 (by decide)).trans (getBits_putBits_self _ 4 2 3 (by decide))
  · exact State.get_set_self _ _ _ (by show 1 + 3 ≤ 32; decide)
  · rw [hmode _ _ (.inl (by show 0x40120080 + _ ≠ 0x40120088 + _; omega)), State.mcxLegSetup,
      State.get_set_apart _ _ _ _ (.inl (by show 0x40120084 + _ ≠ 0x40120088 + _; omega))]
    exact State.get_set_self _ _ _ (by show 0 + 19 ≤ 32; decide)

theorem State.machLeg_frame (hk : k < 12) : LegFrame (outside LPW.page) s (s.machLeg prd k) := by
  have hset : LegFrame (outside LPW.page) s ((s.mcxLegSetup k prd).set (LPW.CFG_MODE k) 0) :=
    ⟨fun g hg => s.mcxLegSetup_get (by unfold outside LPW.page at hg; omega), rfl, rfl, rfl, rfl, rfl⟩
  exact hset.trans ((State.legStart_frame _ hk).mono fun _ hg => hg.legQuiet)

theorem State.machLeg_ready (hk : k < 12) (hp : prd < 2 ^ 18) : legReady prd k (s.machLeg prd k) :=
  (s.mcxLegSetup_ready hp).frame (State.legStart_frame _ hk)

theorem State.machLeg_keeps (hk : k < 12) (hp : prd < 2 ^ 18) {j : Nat} (h : legReady prd j s) :
    legReady prd j (s.machLeg prd k) := by
  by_cases hj : j = k
  · subst hj; exact s.machLeg_ready hk hp
  · have hset : legReady prd j ((s.mcxLegSetup k prd).set (LPW.CFG_MODE k) 0) :=
      h.keep fun g o ho hg => s.mcxLegSetup_get (by rw [hg]; omega)
    exact hset.frame (State.legStart_frame _ hk)

end legs

/-! ### The enable -/

/-- What an enable of machine `m` does once its legs are claimed. -/
def State.machStart (s : State) (m : Nat) (val : Word) (prd : Nat) : State :=
  let s := s.take .mcx MCX.page (0x100 + 0x80 * m) val
  let s := s.iff (s.get MCX.CFG_TOPO == 3) (fun s => s.set (MCX.M_CFG_EN 1) 1)
  let s := (s.setMM m {}).iff (s.get MCX.CFG_TOPO == 3) (fun s => s.setMM 1 {})
  let s := s.each (s.machLegs m) (State.machLeg prd)
  (s.setMState m mOFF).refreshLegs

/-- The ratio of the machine's pole pairs to the resolver's does not suit the resolver that serves it (R230). -/
def ratioBad (s : State) (m pp : Nat) : Bool :=
  s.on MCX.RSV_CFG_EN && s.get MCX.RSV_CFG_MACH == m && pp % max 1 (s.get MCX.RSV_CFG_RPP) != 0

/-- An enable of a machine that is off, on a page that is not locked and without a six-phase machine. -/
theorem State.machCfgWrite_starts {s : State} {m prd : Nat} {val : Word} (hi : s.isl = true) (hl : s.locked MCX.page = false)
    (he : s.mEn m = false) (ht3 : s.get MCX.CFG_TOPO ≠ 3) (hv : val.getLsbD 0 = true)
    (hprd : prd = s.prdOf (if getBits val 5 4 = 0 then 16 else getBits val 5 4)) :
    s.machCfgWrite m val = s.judge MCX.page (0x100 + 0x80 * m)
      [(getBits val 1 2 == 3 || getBits val 21 4 == 0, eRANGE), (!s.machines.contains m, xSTATE), (!mcxPrdOk prd, xCARRIER),
       (!s.threshOk, xTHRESH), (ratioBad s m (getBits val 21 4), xRATIO)]
      (fun s => (s.claimAll MCX.page (0x100 + 0x80 * m) ((s.machLegs m).map (resKey 2)) 5 m
        (fun s => s.machStart m val prd)).machPrimary m) := by
  have hb : getBits val 0 1 = 1 := by rw [getBits_one, hv]; rfl
  subst hprd
  have hfol : (m == 1 && s.get MCX.CFG_TOPO == 3) = false := by simp [ht3]
  simp only [State.machCfgWrite, State.fitted, hi, hfol, he, hb, hl, State.willBe, ratioBad, if_true, Bool.false_eq_true,
    if_false, Bool.and_false, Bool.not_false, Bool.and_true, Bool.true_and, beq_self_eq_true]
  rfl

/-- A field of a machine's CFG lies outside the legs' page and is none of the machines' STAT. -/
theorem machCfg_kept {g : Fld} {m : Nat} (hm : m < 2) (hg : g.addr = MCX.M_CFG m) :
    outside LPW.page g ∧ g.addr ≠ MCX.M_STAT 0 ∧ g.addr ≠ MCX.M_STAT 1 := by
  unfold outside MCX.M_CFG MCX.M_STAT LPW.page at *
  omega

theorem machStat_outside {g : Fld} {m : Nat} (hg : g.addr = MCX.M_STAT m) : outside LPW.page g := by
  unfold outside MCX.M_STAT LPW.page at *
  omega

/-- What the enable of a machine of a topology without a six-phase machine leaves. -/
theorem State.machStart_leaves (u : State) {m prd : Nat} {val : Word} (hm : m < 2) (ht3 : u.get MCX.CFG_TOPO ≠ 3)
    (hp : prd < 2 ^ 18) :
    (u.machStart m val prd).mEn m = val.getLsbD 0 ∧ (u.machStart m val prd).mState m = mOFF ∧
      (u.machStart m val prd).claims = u.claims ∧ ∀ k ∈ u.machLegs m, legReady prd k (u.machStart m val prd) := by
  have hofs : MCX.CFG_TOPO.addr ≠ MCX.M_CFG m := by show 0x40310040 ≠ 0x40310100 + 0x80 * m; omega
  have htopo : (u.take .mcx MCX.page (0x100 + 0x80 * m) val).get MCX.CFG_TOPO = u.get MCX.CFG_TOPO :=
    u.get_take_machCfg m val _ hofs (by decide)
  have hne : ((u.take .mcx MCX.page (0x100 + 0x80 * m) val).get MCX.CFG_TOPO == 3) = false := by simpa [htopo] using ht3
  unfold State.machStart
  simp only [State.iff, hne, Bool.false_eq_true, if_false]
  generalize hv : (u.take .mcx MCX.page (0x100 + 0x80 * m) val).setMM m {} = v
  have hvget : ∀ g, v.get g = (u.take .mcx MCX.page (0x100 + 0x80 * m) val).get g := fun g => by subst hv; rfl
  have hvclaims : v.claims = u.claims := by subst hv; exact State.take_claims ..
  have hlegs : v.machLegs m = u.machLegs m := State.machLegs_congr ((hvget _).trans htopo) m
  have heach : LegFrame (outside LPW.page) v (v.each (v.machLegs m) (State.machLeg prd)) :=
    LegFrame.each (fun t k hk => t.machLeg_frame (State.machLegs_lt hk)) v
  generalize hw : v.each (v.machLegs m) (State.machLeg prd) = w at *
  have hst := w.setMState_frame hm mOFF
  have hall := State.refreshLegs_frame (w.setMState m mOFF)
  refine ⟨?_, ?_, ?_, fun k hk => ?_⟩
  · obtain ⟨hout, h0, h1⟩ := machCfg_kept (g := MCX.M_CFG_EN m) hm rfl
    rw [← u.mEn_take hm val, State.mEn, State.mEn, State.on, State.on, hall.get _ hout.legQuiet, hst.get _ ⟨h0, h1⟩,
      heach.get _ hout, hvget]
  · rw [State.mState, hall.get _ (machStat_outside (g := MCX.M_STAT_STATE m) rfl).legQuiet]
    exact w.setMState_mState hm (by decide)
  · rw [hall.claims, hst.claims, heach.claims, hvclaims]
  · have hready : legReady prd k w := hw ▸ State.each_forall (P := legReady prd)
      (fun t j hj => t.machLeg_ready (State.machLegs_lt hj) hp)
      (fun t j hj i hi => t.machLeg_keeps (State.machLegs_lt hj) hp hi) v k (hlegs ▸ hk)
    refine legReady.frame (hready.keep fun g o ho hg => hst.get g ?_) hall
    have hk12 := State.machLegs_lt hk
    unfold MCX.M_STAT
    omega

/-- A machine enabled with every leg free holds its legs, which are set up for its carrier, and is OFF (R220, R222). -/
theorem State.machPrimary_start (s : State) {m prd : Nat} {val : Word} (hm : m < 2) (ht3 : s.get MCX.CFG_TOPO ≠ 3)
    (hv : val.getLsbD 0 = true) (hp : prd < 2 ^ 18) (ofs : Nat)
    (hc : ∀ k ∈ s.machLegs m, s.claimable (resKey 2 k) 5 m = true) (t : State)
    (ht : t = (s.claimAll MCX.page ofs ((s.machLegs m).map (resKey 2)) 5 m (fun s => s.machStart m val prd)).machPrimary m) :
    t.mEn m = true ∧ t.mState m = mOFF ∧ ∀ k ∈ s.machLegs m, ((t.claim (resKey 2 k)).cls = 5 ∧
      (t.claim (resKey 2 k)).inst = m) ∧ legReady prd k t := by
  rw [State.claimAll_run _ (by simpa using hc)] at ht
  have hclaimed := s.claim_each_takeClaim ((s.machLegs m).map (resKey 2)) 5 m
  generalize hu : s.each ((s.machLegs m).map (resKey 2)) (fun s r => s.takeClaim r 5 m) = u at *
  have hget : ∀ g, u.get g = s.get g := fun g => hu ▸ State.each_same (fun t => State.get t g)
    (f := fun (s : State) r => s.takeClaim r 5 m) (fun t r => t.get_takeClaim r 5 m g) s
  obtain ⟨hen, hst, hcl, hready⟩ := u.machStart_leaves (val := val) hm (by rwa [hget]) hp
  have hkeep : ∀ g : Fld, g.addr ≠ MCX.M_STAT m → t.get g = (u.machStart m val prd).get g := fun g hg => by
    rw [ht]; exact State.machPrimary_get _ m g (.inl (Ne.symm hg))
  refine ⟨?_, ?_, fun k hk => ⟨?_, ?_⟩⟩
  · rw [State.mEn, State.on, hkeep _ (by show 0x40310100 + _ ≠ 0x4031010C + _; omega)]
    exact hen.trans hv
  · rw [State.mState, ht, State.machPrimary_get _ _ _ (.inr (.inr (by show 0 + 3 ≤ 3; decide)))]
    exact hst
  · have htc : t.claim (resKey 2 k) = u.claim (resKey 2 k) :=
      State.claim_congr (by rw [ht, State.machPrimary_claims, hcl]) _
    rw [htc]
    exact hclaimed _ (List.mem_map_of_mem hk)
  · have hk12 := State.machLegs_lt hk
    refine (hready k (State.machLegs_congr (hget _) m ▸ hk)).keep fun g o ho hg => hkeep g ?_
    unfold MCX.M_STAT
    omega

/-! ### The disable (R222, R491) -/

/-- A write that clears the EN of a machine of a topology without a six-phase machine. -/
theorem State.machCfgWrite_stops {s : State} {m : Nat} {val : Word} (ht : s.takes MCX.page) (hi : s.isl = true)
    (he : s.mEn m = true) (ht3 : s.get MCX.CFG_TOPO ≠ 3) (hv : val.getLsbD 0 = false) (hr : getBits val 1 2 ≠ 3) :
    s.machCfgWrite m val = ((s.machDisable m).take .mcx MCX.page (0x100 + 0x80 * m) val).machPrimary m := by
  have hb : (getBits val 0 1 == 1) = false := by rw [getBits_one_beq, hv]
  have hr : (getBits val 1 2 == 3) = false := by simpa using hr
  have hfol : (m == 1 && s.get MCX.CFG_TOPO == 3) = false := by simp [ht3]
  simp only [State.machCfgWrite, State.fitted, hi, hfol, he, hb, hr, if_true, Bool.false_eq_true, if_false, Bool.and_false,
    Bool.not_true, Bool.not_false, Bool.and_true, Bool.false_and, Bool.or_false]
  rw [State.judge_takes ht (by simp)]
  rfl

/-- A machine that goes to OFF is OFF (R236). -/
theorem State.machOff_mState (s : State) {m : Nat} (hm : m < 2) : (s.machOff m).mState m = mOFF := by
  unfold State.machOff State.mcxSource
  extract_lets s1 s2 s3 s4 s5
  rw [State.mState, State.srcActive_same (fun t => t.get (MCX.M_STAT_STATE m)) (fun _ _ _ => rfl)]
  exact State.setMState_mState _ hm (by decide)

/-- A disabled machine is off, and holds none of the legs it had. -/
theorem State.machDisable_leaves (s : State) {m : Nat} (hm : m < 2) :
    (s.machDisable m).mState m = mOFF ∧ ∀ k ∈ s.machLegs m,
      ((s.machDisable m).claim (resKey 2 k)).cls ≠ 5 ∨ ((s.machDisable m).claim (resKey 2 k)).inst ≠ m := by
  unfold State.machDisable
  extract_lets legs s1 s2 s3 s4
  have hen : ∀ (t : State) j, (t.set (MCX.M_CFG_EN j) 0).mState m = t.mState m := fun t j =>
    State.get_set_apart _ _ _ _ (.inl (by show 0x40310100 + 0x80 * j ≠ 0x4031010C + 0x80 * m; omega))
  have h3 : s3.mState m = mOFF :=
    ite_keeps (P := fun t => State.mState t m = mOFF) ((hen _ 1).trans ((hen _ m).trans (s.machOff_mState hm)))
      ((hen _ m).trans (s.machOff_mState hm))
  have h4 : s4.mState m = s3.mState m :=
    State.each_same (fun t => State.mState t m) (f := fun (s : State) k => (s.release (resKey 2 k) 5 m).legStop k)
      (fun t k => State.get_release t (resKey 2 k) 5 m _) s3
  have hall := State.refreshLegs_frame s4
  refine ⟨?_, fun k hk => ?_⟩
  · rw [State.mState, hall.get _ (machStat_outside (g := MCX.M_STAT_STATE m) rfl).legQuiet]
    exact h4.trans h3
  · rw [hall.claim]
    refine State.each_forall (P := fun k (t : State) => (t.claim (resKey 2 k)).cls ≠ 5 ∨ (t.claim (resKey 2 k)).inst ≠ m)
      (f := fun (s : State) k => (s.release (resKey 2 k) 5 m).legStop k)
      (fun t j _ => t.claim_release_free _ 5 m (by decide)) (fun t j _ i hi => ?_) s3 k hk
    show ((t.release (resKey 2 j) 5 m).claim (resKey 2 i)).cls ≠ 5 ∨ ((t.release (resKey 2 j) 5 m).claim (resKey 2 i)).inst ≠ m
    by_cases hij : i = j
    · subst hij; exact t.claim_release_free _ 5 m (by decide)
    · rw [t.claim_release_of_ne 5 m (by show 2 * 256 + i ≠ 2 * 256 + j; omega)]; exact hi

/-- The write that disables a machine leaves EN 0, the machine OFF and its legs released. -/
theorem State.machPrimary_stop (s : State) {m : Nat} {val : Word} (hm : m < 2) (hv : val.getLsbD 0 = false) (t : State)
    (ht : t = ((s.machDisable m).take .mcx MCX.page (0x100 + 0x80 * m) val).machPrimary m) :
    t.mEn m = false ∧ t.mState m = mOFF ∧ ∀ k ∈ s.machLegs m, (t.claim (resKey 2 k)).cls ≠ 5 ∨
      (t.claim (resKey 2 k)).inst ≠ m := by
  obtain ⟨hst, hcl⟩ := s.machDisable_leaves hm
  refine ⟨?_, ?_, fun k hk => ?_⟩
  · rw [State.mEn, State.on, ht, State.machPrimary_get _ _ _ (.inl (by show 0x4031010C + _ ≠ 0x40310100 + _; omega))]
    exact (State.mEn_take _ hm val).trans hv
  · rw [State.mState, ht, State.machPrimary_get _ _ _ (.inr (.inr (by show 0 + 3 ≤ 3; decide))), State.get_take_machCfg]
    · exact hst
    · show 0x4031010C + 0x80 * m ≠ 0x40310100 + 0x80 * m; omega
    · show 0x4031010C + 0x80 * m ≠ 0x40310000 + 0x20; omega
  · have htc : t.claim (resKey 2 k) = (s.machDisable m).claim (resKey 2 k) :=
      State.claim_congr (by rw [ht, State.machPrimary_claims, State.take_claims]) _
    rw [htc]; exact hcl k hk

/-- A write whose SRC is out of range is refused whatever else holds. -/
theorem State.machCfgWrite_range {s : State} {m : Nat} {val : Word} (hg : s.pageGated MCX.page = false) (hi : s.isl = true)
    (h : getBits val 1 2 = 3) : s.machCfgWrite m val = s.refuse MCX.page (0x100 + 0x80 * m) eRANGE := by
  have hsrc : ∀ b : Bool, getBits (if b then putBits val 0 1 (s.get (MCX.M_CFG_EN 0)) else val) 1 2 = 3 := fun b => by
    cases b
    · exact h
    · exact (getBits_putBits_apart val 0 1 _ 1 2 (by decide)).trans h
  rw [State.machCfgWrite, State.fitted, if_pos hi]
  refine State.judge_range hg ?_ (by simp)
  rw [hsrc]
  exact List.mem_cons_self

end Sys2Proof.Machine
end

section
/-! The statement about the machines of MCX: the enable, the disable and the commands. -/

namespace Sys2Proof.Machine

/-- The conditions of an enable that is in range, of a machine of the topology, and what remains of them once those before it
are not met. -/
theorem State.machineEnable_judged {s : State} {m prd : Nat} {v : Word} (ht : s.takes MCX.page) (hi : s.isl = true)
    (hl : s.locked MCX.page = false) (he : s.mEn m = false) (hm : m ∈ s.machines) (ht3 : s.get MCX.CFG_TOPO ≠ 3)
    (hr : getBits v 1 2 ≠ 3) (hp : getBits v 21 4 ≠ 0)
    (hprd : prd = s.prdOf (if getBits v 5 4 = 0 then 16 else getBits v 5 4)) :
    (mcxPrdOk prd = false → s.machCfgWrite m (v ||| 1) = s.refuse MCX.page (0x100 + 0x80 * m) xCARRIER) ∧
    (mcxPrdOk prd = true → s.threshOk = false →
      s.machCfgWrite m (v ||| 1) = s.refuse MCX.page (0x100 + 0x80 * m) xTHRESH) ∧
    (mcxPrdOk prd = true → s.threshOk = true → ratioBad s m (getBits v 21 4) = true →
      s.machCfgWrite m (v ||| 1) = s.refuse MCX.page (0x100 + 0x80 * m) xRATIO) ∧
    (mcxPrdOk prd = true → s.threshOk = true → ratioBad s m (getBits v 21 4) = false →
      s.machCfgWrite m (v ||| 1) = (s.claimAll MCX.page (0x100 + 0x80 * m) ((s.machLegs m).map (resKey 2)) 5 m
        (fun s => s.machStart m (v ||| 1) prd)).machPrimary m) := by
  have hbits : ∀ lo w, 1 ≤ lo → getBits (v ||| 1) lo w = getBits v lo w := fun lo w h => getBits_or_one v lo w h
  have hone : (v ||| 1).getLsbD 0 = true := by simp
  have hw := State.machCfgWrite_starts (val := v ||| 1) (prd := prd) hi hl he ht3 hone
    (by rw [hbits 5 4 (by decide)]; exact hprd)
  rw [hbits 1 2 (by decide), hbits 21 4 (by decide), show (getBits v 1 2 == 3 || getBits v 21 4 == 0) = false by simp [hr, hp],
    show (!s.machines.contains m) = false by simp [hm]] at hw
  generalize hk : (fun s : State => (s.claimAll MCX.page (0x100 + 0x80 * m) ((s.machLegs m).map (resKey 2)) 5 m
    (fun s => s.machStart m (v ||| 1) prd)).machPrimary m) = k at hw
  rw [hw]
  refine ⟨fun h => ?_, fun h hth => ?_, fun h hth hb => ?_, fun h hth hb => ?_⟩
  · exact State.judge_first (c := (true, xCARRIER)) ht (by simp [h]) (by simp)
  · exact State.judge_first (c := (true, xTHRESH)) ht (by simp [h, hth]) (by simp)
  · exact State.judge_first (c := (true, xRATIO)) ht (by simp [h, hth, hb]) (by simp)
  · rw [State.judge_takes ht (by simp [h, hth, hb]), ← hk]

/-- Settles O36: the enable by the conditions of the write and by what `machStart` leaves, the disable by `machDisable`,
the commands by the judgement of `machCmd`. -/
theorem machineEnableAndCommands : Obligations.MachineEnableAndCommands := by
  unfold Obligations.MachineEnableAndCommands
  refine ⟨⟨?_, ?_, ?_, ?_⟩, ?_⟩
  · intro m v s prd ht hi hl he hm ht3 hr hp hprd
    obtain ⟨hcar, hthr, hrat, hrun⟩ := State.machineEnable_judged ht hi hl he hm ht3 hr hp hprd
    refine ⟨fun hen hmach hpp hc hth => next_congr (hrat hc hth ?_),
      fun hc => next_congr (hcar hc), fun hc hth => next_congr (hthr hc hth),
      fun hc hth hok hfree => ?_⟩
    · simp [ratioBad, State.on_of_get_one hen, hmach, hpp]
    · have hgood : ratioBad s m (getBits v 21 4) = false := by
        rcases hok with h | h | h
        · simp [ratioBad, State.on_of_get_zero h]
        · simp [ratioBad, h]
        · simp [ratioBad, h]
      have hlt : prd < 2 ^ 18 := by
        simp only [mcxPrdOk, Bool.and_eq_true, decide_eq_true_eq] at hc
        omega
      obtain ⟨hen, hst, hlegs⟩ := s.machPrimary_start m.isLt ht3 (val := v ||| 1) (by simp) hlt _ hfree _ (hrun hc hth hgood)
      exact ⟨_, rfl, hen, hst, fun k hk => ⟨(hlegs k hk).1.1, (hlegs k hk).1.2, (hlegs k hk).2⟩⟩
  · intro m v s hi hg hr
    exact ⟨next_congr (State.machCfgWrite_range hg hi (by rwa [getBits_or_one _ _ _ (by decide)])),
      next_congr (State.machCfgWrite_range hg hi (by rwa [getBits_and_not_one _ _ _ (by decide)]))⟩
  · intro m v s ht hi he htopo hm hr
    have ht3 : s.get MCX.CFG_TOPO ≠ 3 := by intro h; rw [h] at htopo; simp at htopo
    have hlow : (v &&& ~~~1).getLsbD 0 = false := by simp
    exact ⟨_, rfl, s.machPrimary_stop m.isLt hlow _
      (State.machCfgWrite_stops ht hi he ht3 hlow (by rwa [getBits_and_not_one _ _ _ (by decide)]))⟩
  · intro m v s ht hi
    refine ⟨?_, fun r => State.claim_congr (State.take_claims ..) r⟩
    show Host.Outcome.next (s.machCfgWrite m (v ||| 1)) = _
    rw [State.machCfgWrite, State.fitted, if_neg (by simp [hi]), State.judge_takes ht (by simp)]
  · intro m s ht hi
    have hshut := fun op (h0 : op ≠ 0) (h6 : op < 6) h =>
      next_congr (State.machCmd_shut (m := m.val) (op := op) ht hi h0 h6 h)
    refine ⟨fun he hm => ?_, fun h => hshut 1 (by decide) (by decide) h, fun h => hshut 2 (by decide) (by decide) h,
      fun h => hshut 3 (by decide) (by decide) h, fun h => hshut 4 (by decide) (by decide) h,
      fun h => hshut 5 (by decide) (by decide) h⟩
    have hopen : ∀ op, s.mState m ∈ machOpStates op → machOpen s m op = true := fun op hs => by
      simp only [machOpen, Bool.and_eq_true]
      exact ⟨⟨List.contains_iff_mem.2 hm, he⟩, List.contains_iff_mem.2 hs⟩
    have hacc := fun op (h0 : op ≠ 0) (h6 : op < 6) hs hc =>
      next_congr (State.machCmd_accepted ht hi h0 h6 (hopen op hs) hc)
    refine ⟨fun hoff => ?_, fun h => hacc 2 (by decide) (by decide) h (by simp [machOwnConds]),
      fun h => hacc 3 (by decide) (by decide) h (by simp [machOwnConds]),
      fun h => hacc 4 (by decide) (by decide) h (by simp [machOwnConds]), fun h => ⟨fun hh => ?_, fun hh => ?_⟩⟩
    · obtain ⟨harm, hsens, hboot, hrest⟩ := State.machRun_judged ht hi (hopen 1 (by simp [machOpStates, hoff]))
      refine ⟨fun ha => next_congr (harm ha), fun ha hp => next_congr (hsens ha hp),
        fun ha hp hb hw => next_congr (hboot ha hp hb hw), fun ha hp hb => ?_⟩
      obtain ⟨hlat, hown, hrun⟩ := hrest ha hp hb
      exact ⟨fun h => next_congr (hlat h), fun h1 h2 => next_congr (hown h1 h2),
        fun h1 h2 => next_congr (hrun h1 h2)⟩
    · exact hacc 5 (by decide) (by decide) h (by simp [machOwnConds, hh])
    · exact next_congr (State.machCmd_refused (c := (true, xEMF_HIGH)) ht hi (by decide) (by decide)
        (hopen 5 h) (by simp [machOwnConds, hh]))

end Sys2Proof.Machine
end

section
/-! Host writes to the register pages (R8, R479), the header's control register (R482, R484, R485), and what a
re-initialisation does to a page without a function of its own (R484). -/

namespace Sys2Proof.Machine

/-! ### Words by their bits -/

/-- Two words agree under a mask where they agree on its bits. -/
theorem and_congr_of_getLsbD {x y m : Word} (h : ∀ i, i < 32 → m.getLsbD i = true → x.getLsbD i = y.getLsbD i) :
    x &&& m = y &&& m := by
  apply BitVec.eq_of_getLsbD_eq
  intro i hi
  rw [BitVec.getLsbD_and, BitVec.getLsbD_and]
  cases hm : m.getLsbD i with
  | false => simp
  | true => rw [h i hi hm]

/-! ### A write taken while the page is locked, and while it is not (R485) -/

section takes
variable {s : State} {k : PageKind} {pg ofs : Nat} {val : Word} {row : RegRow} {j : Nat}

/-- On a page that is not locked a write changes its own register and nothing else. -/
theorem State.take_unlocked (hr : rowAt k ofs = some (row, j)) (hl : s.locked pg = false) : s.take k pg ofs val =
    s.setReg (pg + ofs) (BitVec.ofNat 32 (writeWord row false (s.reg (pg + ofs)).toNat val.toNat)) := by
  simp [State.take, hr, hl]

/-- A locked RWL field that the write would have changed is reported. -/
theorem State.take_locked_code (hr : rowAt k ofs = some (row, j)) (hl : s.locked pg = true)
    (h : (s.reg (pg + ofs)).toNat &&& row.rwl ≠ val.toNat &&& row.rwl) :
    (s.take k pg ofs val).get (HDR.ERR_CODE_CODE pg) = blockCode pg eLOCKED % 256 := by
  have hb : ((s.reg (pg + ofs)).toNat &&& row.rwl != val.toNat &&& row.rwl) = true := bne_iff_ne.2 h
  simp only [State.take, hr, hl, hb, Bool.and_self, if_true]
  exact (State.refuse_code _ pg ofs eLOCKED).1

end takes

/-- A register all of whose writable fields are RWL: its word after a write, by its lock. -/
theorem writeWord_rwl {row : RegRow} (hrw : row.rw = 0) (hs : row.w1c ||| row.w1s ||| row.cz = 0) (old val : Word) :
    BitVec.ofNat 32 (writeWord row false old.toNat val.toNat) &&& BitVec.ofNat 32 row.rwl
        = val &&& BitVec.ofNat 32 row.rwl ∧
      BitVec.ofNat 32 (writeWord row true old.toNat val.toNat) = old := by
  constructor
  · refine and_congr_of_getLsbD fun i hi hm => ?_
    have hopen : (row.rw ||| (if false then 0 else row.rwl)).testBit i = true := by
      rw [BitVec.getLsbD_ofNat, Bool.and_eq_true] at hm
      simpa [hrw] using hm.2
    rw [BitVec.getLsbD_ofNat, testBit_writeWord_open hi hopen, BitVec.testBit_toNat]
    simp [hi]
  · refine BitVec.eq_of_getLsbD_eq fun i hi => ?_
    have hshut : (row.rw ||| (if true then 0 else row.rwl)).testBit i = false := by simp [hrw]
    rw [BitVec.getLsbD_ofNat, testBit_writeWord_shut hi hshut (by simp [hs]), BitVec.testBit_toNat]
    simp [hi]

/-! ### Host writes by address (R8, R479) -/

theorem execRegWrite_outside {a : Nat} (h : a < 0x40000000 ∨ 0x50000000 ≤ a) (b : Nat) (v : Word) (s : State) :
    execRegWrite a b v s = .next (s.masterWrite a (leBytes b v.toNat)) := by
  have hp : inPeri a = false := by simp only [inPeri, decide_eq_false_iff_not]; omega
  simp [execRegWrite, hp]

theorem execRegWrite_busError {a b : Nat} (h1 : 0x40000000 ≤ a) (h2 : a < 0x50000000)
    (h : b ≠ 4 ∨ a % 4 ≠ 0 ∨ pageOf a = none) (v : Word) (s : State) :
    execRegWrite a b v s = .next { s with resp := .busError } := by
  have hp : inPeri a = true := by simp [inPeri, h1, h2]
  have hnone : (if b = 4 then s.periWrite a v else none) = none := by
    split
    · next hb =>
      rcases h with h | h | h
      · exact absurd hb h
      · simp [State.periWrite, h]
      · simp [State.periWrite, h]
    · rfl
  simp [execRegWrite, hp, hnone]

/-- A word written to a block register of a page that is not gated is judged by the page's own rules. -/
theorem execRegWrite_block {a i ofs : Nat} {r : PageRow} (h1 : 0x40000000 ≤ a) (h2 : a < 0x50000000) (h4 : a % 4 = 0)
    (hpg : pageOf a = some (r, i)) (hofs : a = r.base + 0x1000 * i + ofs) (hblk : 0x40 ≤ ofs) {s : State}
    (hg : s.pageGated (r.base + 0x1000 * i) = false) (v : Word) :
    execRegWrite a 4 v s = .next { (s.blockWrite r.kind i ofs v) with resp := .ok } := by
  have hp : inPeri a = true := by simp [inPeri, h1, h2]
  have hsub : a - (r.base + 0x1000 * i) = ofs := by omega
  have hw : s.periWrite a v = some (s.blockWrite r.kind i ofs v) := by
    simp [State.periWrite, h4, hpg, hsub, hg, Nat.not_lt.2 hblk]
  simp [execRegWrite, hp, hw]

/-! ### The regions of the MPU (R495) -/

theorem pageOf_mpuLimit {r : Nat} (hr : r < 16) : pageOf (MPU.REG_LIMIT r) = some (⟨.mpu, MPU.page, 1, 0xA, 1, 11⟩, 0) := by
  interval_cases r <;> decide

/-- The row of the limit registers. -/
def mpuLimitRow : RegRow := ⟨0x44, 16, 8, 0x0, 0xFFFFF007, 0x0, 0x0, 0x0, 0x0, 0x0⟩

theorem rowAt_mpuLimit {r : Nat} (hr : r < 16) : rowAt .mpu (0x44 + 8 * r) = some (mpuLimitRow, r) := by
  interval_cases r <;> decide

theorem mpuLimit_eq (r : Nat) : MPU.REG_LIMIT r = MPU.page + (0x44 + 8 * r) := by
  unfold MPU.REG_LIMIT MPU.page; omega

/-- A word written to a limit register is taken by the access types of its fields. -/
theorem execRegWrite_mpuLimit {r : Nat} (hr : r < 16) (v : Word) {s : State} (ht : s.takes MPU.page) :
    execRegWrite (MPU.REG_LIMIT r) 4 v s = .next { (s.take .mpu MPU.page (0x44 + 8 * r) v) with resp := .ok } := by
  rw [execRegWrite_block (ofs := 0x44 + 8 * r) (by unfold MPU.REG_LIMIT; omega) (by unfold MPU.REG_LIMIT; omega)
    (by unfold MPU.REG_LIMIT; omega) (pageOf_mpuLimit hr) (mpuLimit_eq r) (by omega) ht.1]
  exact next_congr (congrArg (fun t : State => { t with resp := .ok }) (State.judge_takes (c := []) ht (by simp)))

theorem State.take_mpuLimit_open {r : Nat} (hr : r < 16) (v : Word) {s : State} (hl : s.locked MPU.page = false) :
    (s.take .mpu MPU.page (0x44 + 8 * r) v).reg (MPU.REG_LIMIT r) &&& 0xFFFFF007 = v &&& 0xFFFFF007 ∧
      (s.take .mpu MPU.page (0x44 + 8 * r) v).sameRegsBut s [MPU.REG_LIMIT r] := by
  rw [State.take_unlocked (rowAt_mpuLimit hr) hl, ← mpuLimit_eq]
  refine ⟨?_, fun a ha => State.reg_setReg_of_ne _ _ (by simpa using ha)⟩
  rw [State.reg_setReg_self]
  exact (writeWord_rwl (row := mpuLimitRow) rfl rfl _ v).1

theorem State.take_mpuLimit_shut {r : Nat} (hr : r < 16) (v : Word) {s : State} (hl : s.locked MPU.page = true) :
    (s.take .mpu MPU.page (0x44 + 8 * r) v).reg (MPU.REG_LIMIT r) = s.reg (MPU.REG_LIMIT r) ∧
      (s.reg (MPU.REG_LIMIT r) &&& 0xFFFFF007 ≠ v &&& 0xFFFFF007 →
        (s.take .mpu MPU.page (0x44 + 8 * r) v).get (HDR.ERR_CODE_CODE MPU.page) = eLOCKED) := by
  rw [mpuLimit_eq]
  constructor
  · rw [State.reg_take_self (rowAt_mpuLimit hr) (by omega), hl]
    exact (writeWord_rwl (row := mpuLimitRow) rfl rfl _ v).2
  · intro h
    refine (State.take_locked_code (rowAt_mpuLimit hr) hl fun e => h ?_).trans (by decide)
    exact BitVec.eq_of_toNat_eq (by simpa [mpuLimitRow] using e)

/-! ### The header's control register (R482, R484, R485) -/

/-- The conditions of a write to CTRL, in their order. -/
def ctrlConds (s : State) (k : PageKind) (pg : Nat) (val : Word) : List (Bool × Nat) :=
  [(val.getLsbD 1 && reinitBad k, eSTATE), (k == .saf && !val.getLsbD 1, 0x40),
   (!enUsed k && s.on (HDR.CTRL_EN pg) && !val.getLsbD 0, eSTATE),
   (!enUsed k && !s.on (HDR.CTRL_EN pg) && val.getLsbD 0, eNOT_FITTED),
   (k == .leg && val.getLsbD 0 && !s.isl, eNOT_FITTED)]

/-- HOLD and LOCK, which a write to CTRL sets once EN stands as written. -/
def State.ctrlRest (s : State) (k : PageKind) (pg : Nat) (val : Word) : State :=
  (s.iff (k == .lex) (fun s => s.set (HDR.CTRL_HOLD pg) (getBits val 3 1))).iff (val.getLsbD 2)
    (fun s => s.set (HDR.CTRL_LOCK pg) 1)

/-- What a write to CTRL does that meets no condition: REINIT, then EN, then the rest; REINIT_BUSY lasts 10 µs. -/
def State.ctrlGo (s : State) (k : PageKind) (pg i : Nat) (val : Word) : State :=
  let s := s.iff (val.getLsbD 1) (fun s => s.pageReinit k pg i)
  let s := if val.getLsbD 0 == s.on (HDR.CTRL_EN pg) then s else s.enSet k i (val.getLsbD 0)
  let s := if val.getLsbD 0 == s.on (HDR.CTRL_EN pg) then s.ctrlRest k pg val else s
  if val.getLsbD 1 then { s with reinit := (s.reinit.filter (fun r => r.1 != pg)) ++ [(pg, s.now + 10 * tUs)] } else s

section ctrl
variable {s : State} {k : PageKind} {pg i : Nat} {val : Word}

theorem State.ctrlWrite_eq :
    s.ctrlWrite k pg i val = s.judge pg 0x0C (ctrlConds s k pg val) (fun s => s.ctrlGo k pg i val) := by
  simp only [State.ctrlWrite, getBits_one_beq]
  rfl

/-- A write that meets a condition is refused for the first of them. -/
theorem State.ctrlWrite_refused {c : Bool × Nat} (ht : s.takes pg)
    (hc : (ctrlConds s k pg val).find? (fun x => x.1) = some c) : s.ctrlWrite k pg i val = s.refuse pg 0x0C c.2 :=
  State.ctrlWrite_eq.trans (State.judge_first ht hc (by simp [ctrlConds]))

/-- A write without REINIT that leaves EN as it is sets HOLD and LOCK. -/
theorem State.ctrlGo_same (hre : val.getLsbD 1 = false) (hen : val.getLsbD 0 = s.on (HDR.CTRL_EN pg)) :
    s.ctrlGo k pg i val = s.ctrlRest k pg val := by
  simp [State.ctrlGo, State.iff, -BitVec.getLsbD_eq_getElem, hre, hen]

/-- A write without REINIT that changes EN does so before HOLD and LOCK. -/
theorem State.ctrlGo_enSet (hre : val.getLsbD 1 = false) (hne : val.getLsbD 0 ≠ s.on (HDR.CTRL_EN pg))
    (hen : (s.enSet k i (val.getLsbD 0)).on (HDR.CTRL_EN pg) = val.getLsbD 0) :
    s.ctrlGo k pg i val = (s.enSet k i (val.getLsbD 0)).ctrlRest k pg val := by
  have hb : (val.getLsbD 0 == s.on (HDR.CTRL_EN pg)) = false := by simpa using hne
  simp only [State.ctrlGo, State.iff, hre, hb, hen, Bool.false_eq_true, if_false, beq_self_eq_true, if_true]

/-- A REINIT that leaves EN as it is written re-initialises the page, and shows REINIT_BUSY for 10 µs. -/
theorem State.ctrlGo_reinit (hre : val.getLsbD 1 = true)
    (hen : val.getLsbD 0 = (s.pageReinit k pg i).on (HDR.CTRL_EN pg)) :
    (s.ctrlGo k pg i val).busy pg = true ∧
      (s.ctrlGo k pg i val).regs = ((s.pageReinit k pg i).ctrlRest k pg val).regs := by
  have hb : (val.getLsbD 0 == (s.pageReinit k pg i).on (HDR.CTRL_EN pg)) = true := beq_iff_eq.2 hen
  constructor
  · simp only [State.ctrlGo, State.iff, hre, hb, if_true]
    simp [State.busy, tUs]
  · simp only [State.ctrlGo, State.iff, hre, hb, if_true]

/-- A write that leaves EN as it is, on a page where EN has no use, meets no condition but those of REINIT. -/
theorem ctrlConds_none (heu : enUsed k = false) (hv : val.getLsbD 0 = s.on (HDR.CTRL_EN pg))
    (hre : (val.getLsbD 1 && reinitBad k) = false) (hsaf : (k == .saf && !val.getLsbD 1) = false) :
    ∀ x ∈ ctrlConds s k pg val, x.1 = false := by
  have hleg : (k == .leg) = false := beq_false_of_ne (by rintro rfl; exact absurd heu (by decide))
  simp only [ctrlConds, hre, hsaf, hleg, heu, hv]
  cases s.on (HDR.CTRL_EN pg) <;> simp

/-- On a page where EN has no use, HOLD has none either. -/
theorem State.ctrlRest_of_noUse (heu : enUsed k = false) (u : State) :
    u.ctrlRest k pg val = u.iff (val.getLsbD 2) (fun s => s.set (HDR.CTRL_LOCK pg) 1) := by
  have hlex : (k == .lex) = false := beq_false_of_ne (by rintro rfl; exact absurd heu (by decide))
  simp [State.ctrlRest, State.iff, hlex]

/-- A page whose function may be re-initialised is none of the safety core's. -/
theorem ne_saf_of_reinit (h : reinitBad k = false) : (k == .saf) = false :=
  beq_false_of_ne (by rintro rfl; exact absurd h (by decide))

end ctrl

/-! ### Re-initialisation of the block registers (R484) -/

/-- Words written to a list of registers, each a function of the register's own word that is not changed by repeating it. -/
theorem State.reg_each_setReg (s : State) (g : Nat → Word → Word) (hg : ∀ a w, g a (g a w) = g a w) (l : List Nat) (a : Nat) :
    (s.each l (fun s b => s.setReg b (g b (s.reg b)))).reg a = if a ∈ l then g a (s.reg a) else s.reg a := by
  induction l generalizing s with
  | nil => rfl
  | cons b l ih =>
    refine (ih (s.setReg b (g b (s.reg b)))).trans ?_
    by_cases hab : a = b
    · subst hab; simp [hg]
    · simp [hab, State.reg_setReg_of_ne _ _ hab]

/-- The mask of the fields a re-initialisation keeps in a register: the RWL fields, while the page is locked. -/
def reinitMask (k : PageKind) (lk : Bool) (ofs : Nat) : Nat :=
  match rowAt k ofs with
  | some (row, _) => if lk then row.rwl else 0
  | none => 0

/-- A register's word after a re-initialisation: its own bits under the mask, and those of its reset word elsewhere. -/
def reinitWord (m : Nat) (rst w : Word) : Word :=
  BitVec.ofNat 32 ((w.toNat &&& m) ||| (rst.toNat &&& (0xFFFFFFFF ^^^ m)))

theorem getLsbD_reinitWord (m : Nat) (rst w : Word) {i : Nat} (hi : i < 32) :
    (reinitWord m rst w).getLsbD i = if m.testBit i then w.getLsbD i else rst.getLsbD i := by
  have h1 : (0xFFFFFFFF : Nat).testBit i = true := by
    rw [show (0xFFFFFFFF : Nat) = 2 ^ 32 - 1 from rfl, Nat.testBit_two_pow_sub_one]; simpa using hi
  simp only [reinitWord, BitVec.getLsbD_ofNat, Nat.testBit_or, Nat.testBit_and, Nat.testBit_xor, h1, BitVec.testBit_toNat, hi]
  cases m.testBit i <;> simp

theorem reinitWord_idem (m : Nat) (rst w : Word) : reinitWord m rst (reinitWord m rst w) = reinitWord m rst w := by
  refine BitVec.eq_of_getLsbD_eq fun i hi => ?_
  simp only [getLsbD_reinitWord _ _ _ hi]
  split <;> rfl

/-- A register that holds its reset word keeps it. -/
theorem reinitWord_reset (m : Nat) (rst : Word) : reinitWord m rst rst = rst := by
  refine BitVec.eq_of_getLsbD_eq fun i hi => ?_
  rw [getLsbD_reinitWord _ _ _ hi, ite_self]

theorem reinitWord_of_reset_zero (m : Nat) (w : Word) : reinitWord m 0 w = w &&& BitVec.ofNat 32 m := by
  refine BitVec.eq_of_getLsbD_eq fun i hi => ?_
  rw [getLsbD_reinitWord _ _ _ hi, BitVec.getLsbD_and, BitVec.getLsbD_ofNat]
  cases m.testBit i <;> simp [hi]

/-- A register that is not listed holds its reset word. -/
theorem State.reg_of_not_listed {s : State} {a : Nat} (h : a ∉ s.regs.map (·.1)) : s.reg a = resetWord a := by
  have hlook : ∀ m : SMap Word, a ∉ m.map (·.1) → SMap.look m a = none := by
    intro m
    induction m with
    | nil => exact fun _ => rfl
    | cons p m ih =>
      intro hm
      obtain ⟨hp, hm⟩ : a ≠ p.1 ∧ a ∉ m.map (·.1) := by simpa [not_or] using hm
      simp [SMap.look, Ne.symm hp, ih hm]
  simp [State.reg, SMap.get, hlook _ h]

/-- The registers a re-initialisation resets. -/
def reinitListed (k : PageKind) (pg a : Nat) : Bool := decide (pg + 0x40 ≤ a ∧ a < pg + 0x1000) && !reinitKeeps k (a - pg)

/-- A re-initialisation of the registers, register by register. -/
theorem State.reg_reinitRegs (s : State) (k : PageKind) (pg a : Nat) : (s.reinitRegs k pg).reg a =
    if reinitListed k pg a then reinitWord (reinitMask k (s.locked pg) (a - pg)) (resetWord a) (s.reg a) else s.reg a := by
  have hfold := s.reg_each_setReg (fun a w => reinitWord (reinitMask k (s.locked pg) (a - pg)) (resetWord a) w)
    (fun a w => reinitWord_idem ..) ((s.regs.map (·.1)).filter (reinitListed k pg)) a
  refine hfold.trans ?_
  by_cases hl : reinitListed k pg a = true
  · by_cases hm : a ∈ s.regs.map (·.1)
    · rw [if_pos (List.mem_filter.2 ⟨hm, hl⟩), if_pos hl]
    · rw [if_neg (fun h => hm (List.mem_of_mem_filter h)), if_pos hl, State.reg_of_not_listed hm, reinitWord_reset]
  · rw [if_neg (fun h => hl (List.mem_filter.1 h).2), if_neg hl]

/-! ### Re-initialisation of the MPU, a page without a function of its own -/

/-- The registers of the MPU after a re-initialisation. -/
theorem State.reg_pageReinit_mpu (s : State) (i a : Nat) : (s.pageReinit .mpu MPU.page i).reg a =
    if a = HDR.IRQ_RAW MPU.page ∨ a = HDR.ERR_CODE MPU.page then 0 else (s.reinitRegs .mpu MPU.page).reg a := by
  show (((s.reinitRegs .mpu MPU.page).setReg (HDR.IRQ_RAW MPU.page) 0).setReg (HDR.ERR_CODE MPU.page) 0).reg a = _
  rw [State.reg_setReg, State.reg_setReg]
  by_cases he : a = HDR.ERR_CODE MPU.page
  · simp [he]
  · by_cases hr : a = HDR.IRQ_RAW MPU.page
    · simp [hr]
    · simp [he, hr]

/-- A register outside the block registers of the MPU that is neither IRQ_RAW nor ERR_CODE is left alone. -/
theorem State.reg_pageReinit_mpu_outside (s : State) (i : Nat) {a : Nat} (h : a < MPU.page + 0x40 ∨ MPU.page + 0x1000 ≤ a)
    (hr : a ≠ HDR.IRQ_RAW MPU.page) (he : a ≠ HDR.ERR_CODE MPU.page) :
    (s.pageReinit .mpu MPU.page i).reg a = s.reg a := by
  have hl : reinitListed .mpu MPU.page a = false := by
    have hout : ¬ (MPU.page + 0x40 ≤ a ∧ a < MPU.page + 0x1000) := by omega
    simp only [reinitListed, hout, decide_false, Bool.false_and]
  rw [s.reg_pageReinit_mpu, if_neg (not_or.2 ⟨hr, he⟩), s.reg_reinitRegs, if_neg (by simp [hl])]

theorem resetWord_mpuLimit {r : Nat} (hr : r < 16) : resetWord (MPU.REG_LIMIT r) = 0 := by
  interval_cases r <;> decide

/-- A limit register keeps its RWL fields while the page is locked, and is 0 otherwise. -/
theorem State.reg_pageReinit_mpuLimit (s : State) (i : Nat) {r : Nat} (hr : r < 16) :
    (s.pageReinit .mpu MPU.page i).reg (MPU.REG_LIMIT r) =
      s.reg (MPU.REG_LIMIT r) &&& (if s.locked MPU.page then 0xFFFFF007 else 0) := by
  have hofs : MPU.REG_LIMIT r - MPU.page = 0x44 + 8 * r := by unfold MPU.REG_LIMIT MPU.page; omega
  have hl : reinitListed .mpu MPU.page (MPU.REG_LIMIT r) = true := by
    have hin : MPU.page + 0x40 ≤ MPU.REG_LIMIT r ∧ MPU.REG_LIMIT r < MPU.page + 0x1000 := by
      unfold MPU.REG_LIMIT MPU.page; omega
    simp [reinitListed, hin, reinitKeeps]
  have hne : ¬ (MPU.REG_LIMIT r = HDR.IRQ_RAW MPU.page ∨ MPU.REG_LIMIT r = HDR.ERR_CODE MPU.page) := by
    unfold MPU.REG_LIMIT HDR.IRQ_RAW HDR.ERR_CODE MPU.page; omega
  rw [s.reg_pageReinit_mpu, if_neg hne, s.reg_reinitRegs, if_pos hl, hofs, resetWord_mpuLimit hr, reinitWord_of_reset_zero,
    reinitMask, rowAt_mpuLimit hr]
  cases s.locked MPU.page <;> rfl

end Sys2Proof.Machine
end

section
/-! The statement about host writes to the pages: each clause from the lemmas of the write it speaks of. -/

namespace Sys2Proof.Machine

/-- The lines of the engines' pages (R480). -/
theorem lexLine (e : Fin 16) : kindOfLine (Fin.ofNat 130 (31 + e.val)).val = .lex ∧
    pageOfLine (Fin.ofNat 130 (31 + e.val)).val = LEX.page e.val ∧ instOfLine (Fin.ofNat 130 (31 + e.val)).val = e.val := by
  revert e; decide

section lines
variable {l : Fin 130} {v : Word} {s : State}

/-- PAGE_REINIT of a page that may be re-initialised and where EN has no use. -/
theorem execPageReinit_runs (ht : s.takes (pageOfLine l.val)) (hbad : reinitBad (kindOfLine l.val) = false)
    (heu : enUsed (kindOfLine l.val) = false) (hen : v.getLsbD 0 = s.on (HDR.CTRL_EN (pageOfLine l.val)))
    (hlk : v.getLsbD 2 = false)
    (hkeep : (s.pageReinit (kindOfLine l.val) (pageOfLine l.val) (instOfLine l.val)).on (HDR.CTRL_EN (pageOfLine l.val))
      = s.on (HDR.CTRL_EN (pageOfLine l.val))) :
    ∃ t, execPageReinit l v s = .next t ∧ t.busy (pageOfLine l.val) = true ∧
      t.regs = (s.pageReinit (kindOfLine l.val) (pageOfLine l.val) (instOfLine l.val)).regs := by
  have h0 : (v ||| 2).getLsbD 0 = v.getLsbD 0 := by simp
  have h1 : (v ||| 2).getLsbD 1 = true := by simp
  have h2 : (v ||| 2).getLsbD 2 = false := by rw [BitVec.getLsbD_or, hlk]; rfl
  obtain ⟨hbusy, hregs⟩ := State.ctrlGo_reinit (i := instOfLine l.val) (k := kindOfLine l.val) (s := s) h1
    (h0.trans (hen.trans hkeep.symm))
  have hrun : s.lineCtrl l.val (v ||| 2) = s.ctrlGo (kindOfLine l.val) (pageOfLine l.val) (instOfLine l.val) (v ||| 2) :=
    State.ctrlWrite_eq.trans (State.judge_takes ht
      (ctrlConds_none heu (h0.trans hen) (by simp [hbad]) (by simp [ne_saf_of_reinit hbad])))
  refine ⟨_, next_congr hrun, hbusy, hregs.trans ?_⟩
  rw [State.ctrlRest_of_noUse heu, State.iff, h2]
  rfl

/-- PAGE_REINIT of a page whose function may not be re-initialised. -/
theorem execPageReinit_refused (ht : s.takes (pageOfLine l.val)) (hbad : reinitBad (kindOfLine l.val) = true) :
    execPageReinit l v s = .next (s.refuse (pageOfLine l.val) 0x0C eSTATE) :=
  next_congr (State.ctrlWrite_refused (c := (true, eSTATE)) ht (by simp [ctrlConds, hbad]))

/-- PAGE_LOCK that leaves EN as it is. -/
theorem execPageLock_runs (ht : s.takes (pageOfLine l.val)) (heu : enUsed (kindOfLine l.val) = false)
    (hns : kindOfLine l.val ≠ .saf)
    (hre : v.getLsbD 1 = false) (hen : v.getLsbD 0 = s.on (HDR.CTRL_EN (pageOfLine l.val))) :
    execPageLock l v s = .next (s.set (HDR.CTRL_LOCK (pageOfLine l.val)) 1) := by
  have h0 : (v ||| 4).getLsbD 0 = v.getLsbD 0 := by simp
  have h1 : (v ||| 4).getLsbD 1 = false := by rw [BitVec.getLsbD_or, hre]; rfl
  have h2 : (v ||| 4).getLsbD 2 = true := by simp
  refine next_congr (State.ctrlWrite_eq.trans ((State.judge_takes ht
    (ctrlConds_none heu (h0.trans hen) (by rw [h1]; rfl) (by simp [hns]))).trans ?_))
  rw [State.ctrlGo_same h1 (h0.trans hen), State.ctrlRest_of_noUse heu, State.iff, h2]
  rfl

end lines

/-- CTRL_EN_WRITE that enables an engine's page sets EN, and HOLD as written. -/
theorem execCtrlEnWrite_lex {e : Fin 16} {v : Word} {s : State} (ht : s.takes (LEX.page e.val)) (hre : v.getLsbD 1 = false)
    (hen : v.getLsbD 0 = true) (hlk : v.getLsbD 2 = false) (hoff : s.get (HDR.CTRL_EN (LEX.page e.val)) = 0) :
    execCtrlEnWrite (Fin.ofNat 130 (31 + e.val)) v s
      = .next ((s.set (HDR.CTRL_EN (LEX.page e.val)) 1).set (HDR.CTRL_HOLD (LEX.page e.val)) (getBits v 3 1)) := by
  obtain ⟨hk, hpg, hi⟩ := lexLine e
  have hcur : s.on (HDR.CTRL_EN (LEX.page e.val)) = false := State.on_of_get_zero hoff
  have hset : (s.set (HDR.CTRL_EN (LEX.page e.val)) 1).on (HDR.CTRL_EN (LEX.page e.val)) = true :=
    State.on_of_get_one (State.get_set_self s _ 1 (by show 0 + 1 ≤ 32; decide))
  have hconds : ∀ x ∈ ctrlConds s .lex (LEX.page e.val) v, x.1 = false := by
    simp only [ctrlConds, hre, hcur, hen]
    simp [enUsed]
  refine next_congr ?_
  unfold State.lineCtrl
  rw [hk, hpg, hi, State.ctrlWrite_eq, State.judge_takes ht hconds, State.ctrlGo_enSet hre (by rw [hcur, hen]; decide)
    (by rw [hen]; exact hset), hen, State.ctrlRest, hlk]
  rfl

/-- Settles O13: a host write by its address, a write to CTRL by its conditions and by what `ctrlGo` does, a
re-initialisation register by register. -/
theorem pagesControlAndReinit : Obligations.PagesControlAndReinit := by
  unfold Obligations.PagesControlAndReinit
  refine ⟨⟨?_, ?_, ?_, ?_⟩, ⟨?_, ?_, ?_, ?_, ?_⟩, ?_⟩
  · intro r v s hr ht hl
    obtain ⟨hreg, hrest⟩ := State.take_mpuLimit_open hr v hl
    exact ⟨_, execRegWrite_mpuLimit hr v ht, rfl, hreg, hrest, fun a => congrArg (fun m => SMap.get memDefault m a)
      (State.take_mem ..)⟩
  · intro r v s hr ht hl
    obtain ⟨hreg, hcode⟩ := State.take_mpuLimit_shut hr v hl
    exact ⟨_, execRegWrite_mpuLimit hr v ht, rfl, hreg, hcode⟩
  · exact fun a b v s h1 h2 h => execRegWrite_busError h1 h2 h v s
  · exact fun a b v s h => execRegWrite_outside h b v s
  · exact fun l v s => execPageReinit_runs
  · exact fun l v s => execPageReinit_refused
  · intro l v s ht heu hns hre hen
    refine ⟨_, execPageLock_runs ht heu hns hre hen, ?_, fun a ha => State.reg_set_of_ne _ _ _ (by simpa using ha)⟩
    exact State.on_of_get_one (State.get_set_self s _ 1 (by show 2 + 1 ≤ 32; decide))
  · intro l v s ht heu hns hre
    have hsaf : (kindOfLine l.val == .saf) = false := beq_false_of_ne hns
    refine ⟨fun hon hen => next_congr (State.ctrlWrite_refused (c := (true, eSTATE)) ht ?_),
      fun hon hen => next_congr (State.ctrlWrite_refused (c := (true, eNOT_FITTED)) ht ?_)⟩
    · simp only [ctrlConds, hre, hsaf, heu, hon, hen]; rfl
    · simp only [ctrlConds, hre, hsaf, heu, hon, hen]; rfl
  · exact fun e v s => execCtrlEnWrite_lex
  · intro s i
    refine ⟨?_, ?_, fun r hr hl => ?_, fun r hr hl => ?_, ?_, fun a ha => ?_⟩
    · rw [s.reg_pageReinit_mpu, if_pos (.inl rfl)]
    · rw [s.reg_pageReinit_mpu, if_pos (.inr rfl)]
    · rw [s.reg_pageReinit_mpuLimit i hr, hl]; simp
    · rw [s.reg_pageReinit_mpuLimit i hr, hl]; rfl
    · exact State.get_congr _ (s.reg_pageReinit_mpu_outside i (.inl (by decide)) (by decide) (by decide))
    · unfold MPU.page at ha
      refine s.reg_pageReinit_mpu_outside i ?_ ?_ ?_
      · unfold MPU.page; omega
      · unfold HDR.IRQ_RAW MPU.page; omega
      · unfold HDR.ERR_CODE MPU.page; omega

end Sys2Proof.Machine
end

section
/-! What a command outside the stores and the grid leaves (R16, R448, R479), and the values of reset (R487). -/

namespace Sys2Proof.Machine

/-! ### Memory and the grid -/

/-- The period grid and the straps of `t` are those of `s`. -/
def State.sameGrid (s t : State) : Prop :=
  t.straps = s.straps ∧ t.pidx = s.pidx ∧ t.bndAt = s.bndAt ∧ t.window = s.window

/-- No update of a state but those of its grid moves it, stores included. -/
theorem State.sameGrid_closed (s : State) : ClosedM s.sameGrid where
  reg _ _ _ h := h
  adv _ _ h := h
  clm _ _ _ h := h
  upd := by intros; assumption
  byte _ _ _ h := h

/-- No update of a state but a store changes its memory. -/
theorem State.sameMem_closed (m : List Host.Cell) : Closed (fun t => t.mem = m) where
  reg _ _ _ h := h
  adv _ _ h := h
  clm _ _ _ h := h
  upd := by intros; assumption

/-- A command that moves no period grid leaves the grid and the straps. -/
theorem exec_sameGrid {c : Instr} {s t : State} (hg : c.movesGrid = false) (he : exec c s = .next t) : s.sameGrid t :=
  exec_keepsM s.sameGrid_closed c hg he ⟨rfl, rfl, rfl, rfl⟩

/-- A command that stores to no RAM and moves no period grid leaves the memory. -/
theorem exec_sameMem {c : Instr} {s t : State} (hr : c.storesRam = false) (hg : c.movesGrid = false)
    (he : exec c s = .next t) : t.mem = s.mem :=
  exec_keeps0 (State.sameMem_closed s.mem) c hr hg he rfl

/-- Settles O5: memory and the grid are what no primitive update but a store and a move of the grid changes. -/
theorem commandsLeaveMemoryAndGrid : Obligations.CommandsLeaveMemoryAndGrid :=
  ⟨fun _ _ _ hr hg he => ⟨fun a => by rw [State.byte, exec_sameMem hr hg he, State.byte], exec_sameGrid hg he⟩,
    fun _ _ _ hg he => exec_sameGrid hg he⟩

/-! ### Reset -/

theorem State.reset_can (k : Fin 4) : State.reset.get (CAN.TXQ_STAT_GATE k) = 1 ∧ State.reset.get (CAN.NBT_NBRP k) = 7 ∧
    State.reset.get (CAN.NBT_NTSEG1 k) = 15 ∧ State.reset.get (CAN.ECR_STATE k) = 0 := by
  revert k; decide

theorem State.reset_eth (p : Fin 2) :
    State.reset.get (ETH.PTP_INC_NS_NS p) = 8 ∧ State.reset.get (ETH.CFG_AN_EN p) = 1 := by
  revert p; decide

theorem State.reset_cell (n : Fin 48) : State.reset.ln n = lnOFF ∧ State.reset.cst n = 0 := by
  revert n; decide

theorem State.reset_stack (k : Fin 8) : State.reset.stkState k = 0 := by
  revert k; decide

/-- No engine has an enabled context. -/
theorem State.reset_ctxEns (e : Fin 16) : State.reset.get (LEX.CTX_EN_EN e.val) = 0 := by
  revert e; decide

theorem State.reset_ctxEn (c : Fin 256) : State.reset.ctxEn c = false := by
  rw [State.ctxEn, State.reset_ctxEns ⟨c.val / 16, by omega⟩, Nat.zero_testBit]

/-- Settles O6: each register's reset word, per unit where there are several. -/
theorem resetValues : Obligations.ResetValues := by
  unfold Obligations.ResetValues
  refine ⟨rfl, by decide, by decide, by decide, by decide, by decide, by decide, by decide, by decide, by decide,
    by decide, by decide, by decide, State.reset_can, State.reset_eth, by decide, by decide, by decide, by decide,
    by decide, by decide, by decide, State.reset_cell, State.reset_stack, State.reset_ctxEn, rfl, rfl, rfl⟩

end Sys2Proof.Machine
end

section
/-! A write to PERIOD (R17, R22): the conditions it is judged on, what a refusal and an accepted change leave, and how a
change is taken over. -/

namespace Sys2Proof.Machine

/-! ### The judgement -/

/-- The conditions of refusal of a write to PER_CFG, in their order (R22, R486). -/
def State.perConds (s : State) (val : Word) : List (Bool × Nat) :=
  [(s.perPend.isNone && decide (val.toNat % 65536 < 1000 ∨ 20000 < val.toNat % 65536), eRANGE),
    (s.armed || s.on PWR.STAT_ARM_PEND || s.isRoot && s.nbrArmed 1, eARMED), (!s.isRoot, bNOT_ROOT),
    (s.perPend.isSome, eSTATE)]

/-- A write that is judged admissible: the T_c in force starts no change, and any other is LOCKED or accepted (R22). -/
def State.perAccept (s : State) (p : Nat) : State :=
  if p = s.get TBS.PER_CFG_PERIOD then s
  else if s.locked TBS.page then s.refuse TBS.page 0x100 eLOCKED
  else ({ s with perPend := some (p, s.pidx + 2) } : State).iff (!s.nbrOnly)
    (fun t => t.modTrl (fun x => { x with chgTx := some (p, s.pidx + 2) }))

theorem State.periodWrite_eq (s : State) (val : Word) : s.periodWrite val =
    s.judge TBS.page 0x100 (s.perConds val) (fun s => s.perAccept (val.toNat % 65536)) := rfl

section judged
variable {s : State} {val : Word}

/-- A value out of range is refused while no change waits. -/
theorem State.periodWrite_range (hg : s.pageGated TBS.page = false) (hp : s.perPend = none)
    (hr : val.toNat % 65536 < 1000 ∨ 20000 < val.toNat % 65536) :
    s.periodWrite val = s.refuse TBS.page 0x100 eRANGE := by
  rw [State.periodWrite_eq]
  refine State.judge_range hg ?_ (fun x hx _ => ?_)
  · simp [State.perConds, hp, hr]
  · have hcodes : ∀ c ∈ [eRANGE, eARMED, bNOT_ROOT, eSTATE], c ≠ eKEY := by decide
    exact hcodes x.2 (List.mem_map_of_mem (f := Prod.snd) hx)

variable (ht : s.takes TBS.page)
  (hr : s.perPend = none → 1000 ≤ val.toNat % 65536 ∧ val.toNat % 65536 ≤ 20000)
include hr

/-- RANGE is not met by a value in range, nor while a change waits. -/
theorem State.perConds_range : (s.perPend.isNone && decide (val.toNat % 65536 < 1000 ∨ 20000 < val.toNat % 65536)) = false := by
  cases hp : s.perPend with
  | none => have := hr hp; simp; omega
  | some _ => rfl

include ht

/-- Where RANGE is not met the first condition that is met is reported. -/
theorem State.periodWrite_refused {c : Bool × Nat} (hc : (s.perConds val).find? (fun x => x.1) = some c) :
    s.periodWrite val = s.refuse TBS.page 0x100 c.2 := by
  rw [State.periodWrite_eq]
  refine State.judge_first ht hc (fun x hx h1 => ?_)
  rw [State.perConds, State.perConds_range hr] at hx
  simp only [List.mem_cons, List.not_mem_nil, or_false] at hx
  rcases hx with rfl | rfl | rfl | rfl
  · exact absurd h1 (by decide)
  · exact ⟨(by decide : eARMED ≠ eKEY), (by decide : eARMED ≠ eRANGE)⟩
  · exact ⟨(by decide : bNOT_ROOT ≠ eKEY), (by decide : bNOT_ROOT ≠ eRANGE)⟩
  · exact ⟨(by decide : eSTATE ≠ eKEY), (by decide : eSTATE ≠ eRANGE)⟩

theorem State.periodWrite_armed (ha : (s.armed || s.on PWR.STAT_ARM_PEND || s.isRoot && s.nbrArmed 1) = true) :
    s.periodWrite val = s.refuse TBS.page 0x100 eARMED :=
  State.periodWrite_refused (c := (true, eARMED)) ht hr (by rw [State.perConds, State.perConds_range hr, ha]; rfl)

section disarmed
variable (ha : s.armed = false) (hq : s.on PWR.STAT_ARM_PEND = false)
include ha hq

theorem State.periodWrite_notRoot (hroot : s.isRoot = false) :
    s.periodWrite val = s.refuse TBS.page 0x100 bNOT_ROOT :=
  State.periodWrite_refused (c := (true, bNOT_ROOT)) ht hr
    (by rw [State.perConds, State.perConds_range hr, ha, hq, hroot]; rfl)

variable (hroot : s.isRoot = true) (hn : s.nbrArmed 1 = false)
include hroot hn

theorem State.periodWrite_waiting (hp : s.perPend.isSome = true) :
    s.periodWrite val = s.refuse TBS.page 0x100 eSTATE :=
  State.periodWrite_refused (c := (true, eSTATE)) ht hr
    (by rw [State.perConds, State.perConds_range hr, ha, hq, hroot, hn, hp]; rfl)

/-- The root's write while nothing is armed and no change waits. -/
theorem State.periodWrite_taken (hp : s.perPend = none) :
    s.periodWrite val = s.perAccept (val.toNat % 65536) := by
  rw [State.periodWrite_eq]
  refine State.judge_takes ht (fun x hx => ?_)
  rw [State.perConds, State.perConds_range hr, ha, hq, hroot, hn, hp] at hx
  simp only [List.mem_cons, List.not_mem_nil, or_false] at hx
  rcases hx with rfl | rfl | rfl | rfl <;> rfl

end disarmed
end judged

/-- Settles O7: the reset word of PER_CFG, and the refusal with RANGE, which changes ERR_CODE alone. -/
theorem periodRangeAndReset : Obligations.PeriodRangeAndReset := by
  unfold Obligations.PeriodRangeAndReset
  refine ⟨by decide, by decide, fun s => rfl, fun val s hg hp hr => ?_⟩
  obtain ⟨hcode, hofs⟩ := s.refuse_code TBS.page 0x100 eRANGE
  exact ⟨_, next_congr (State.periodWrite_range hg hp hr), s.get_refuse _ _ _ _ (by decide), rfl, hcode, hofs⟩

/-! ### How a change is accepted and taken over (R22, R311, R313) -/

section accept
variable {s : State} {p : Nat}

theorem State.perAccept_same (h : p = s.get TBS.PER_CFG_PERIOD) : s.perAccept p = s := if_pos h

variable (h : p ≠ s.get TBS.PER_CFG_PERIOD)
include h

theorem State.perAccept_locked (hl : s.locked TBS.page = true) :
    s.perAccept p = s.refuse TBS.page 0x100 eLOCKED := by
  rw [State.perAccept, if_neg h, if_pos hl]

theorem State.perAccept_open (hl : s.locked TBS.page = false) : s.perAccept p =
    ({ s with perPend := some (p, s.pidx + 2) } : State).iff (!s.nbrOnly)
      (fun t => t.modTrl (fun x => { x with chgTx := some (p, s.pidx + 2) })) := by
  rw [State.perAccept, if_neg h, hl, if_neg Bool.false_ne_true]

end accept

section receipt
variable {s : State} {p : BitVec 16} {i : BitVec 64}

theorem execPeriodChangeReceipt_nbrOnly (h : s.nbrOnly = true) : execPeriodChangeReceipt p i s = .next s :=
  next_congr (if_pos (by rw [h, Bool.or_true]))

/-- A member takes the root's change, and disarms if it is armed. -/
theorem execPeriodChangeReceipt_member (hroot : s.isRoot = false) (hd : s.dark = false) (hn : s.nbrOnly = false) :
    execPeriodChangeReceipt p i s =
      .next (({ s with perPend := some (p.toNat, i.toNat) } : State).iff s.armed (fun s => s.disarm disSTATE)) :=
  next_congr (if_neg (by rw [hroot, hd, hn]; decide))

end receipt

theorem State.perDue_none {s : State} (h : s.perPend = none) : s.perDue = s := by
  rw [State.perDue, h]

theorem State.perDue_due {s : State} {p i : Nat} (h : s.perPend = some (p, i)) (hi : i ≤ s.pidx) :
    s.perDue = ({ s with perPend := none } : State).applyPeriod p s.bndAt := by
  simp only [State.perDue, h, if_pos hi]

/-- Settles O9: the conditions of a write in their order, then what an admissible one leaves; a member's receipt by its
arming state; a change that waits and is due. -/
theorem periodChangeIsJudgedAndApplied : Obligations.PeriodChangeIsJudgedAndApplied := by
  unfold Obligations.PeriodChangeIsJudgedAndApplied
  refine ⟨fun val s ht hr => ⟨fun ha hq hroot hn hp => ?_, fun ha => ?_, fun hroot hn => ?_, fun ha hq hroot => ?_,
    fun ha hq hroot hn hp => ?_⟩, fun p i s hroot hd hn ha => ?_, fun p i s hroot hd hn ha => ?_,
    fun p i s => execPeriodChangeReceipt_nbrOnly, fun p i s h hi => next_congr (State.perDue_due h hi),
    fun s h => next_congr (State.perDue_none h)⟩
  · have hjudged := State.periodWrite_taken ht hr ha hq hroot hn hp
    refine ⟨fun hne hl => ⟨fun ho => ?_, fun ho => ?_⟩, fun hne hl => ?_, fun he => ?_⟩
    · exact next_congr (hjudged.trans ((State.perAccept_open hne hl).trans (by rw [ho]; rfl)))
    · exact next_congr (hjudged.trans ((State.perAccept_open hne hl).trans (by rw [ho]; rfl)))
    · exact next_congr (hjudged.trans (State.perAccept_locked hne hl))
    · exact next_congr (hjudged.trans (State.perAccept_same he))
  · refine next_congr (State.periodWrite_armed ht hr ?_)
    rcases ha with ha | ha <;> simp [ha]
  · exact next_congr (State.periodWrite_armed ht hr (by simp [hroot, hn]))
  · exact next_congr (State.periodWrite_notRoot ht hr ha hq hroot)
  · exact next_congr (State.periodWrite_waiting ht hr ha hq hroot hn hp)
  · exact (execPeriodChangeReceipt_member hroot hd hn).trans (by rw [ha]; rfl)
  · exact (execPeriodChangeReceipt_member hroot hd hn).trans (by rw [ha]; rfl)

end Sys2Proof.Machine
end

section
/-! The windows of a period (R18) and their closes (R23, R27): a close moves the clock to the window's instant and opens the
next window, and no work of the close moves the grid. -/

namespace Sys2Proof.Machine

/-! ### The instants -/

/-- The instants of a period of `p` × 10 ns that fit their fields. -/
theorem State.get_windows (s : State) {p : Nat} (hp : p ≤ 20000) :
    (s.windows p).get TBS.PER_WIN0_W_UPL = p * 8 / 100 ∧ (s.windows p).get TBS.PER_WIN0_W_LE = p * 72 / 100 ∧
    (s.windows p).get TBS.PER_WIN1_W_GD = p * 84 / 100 ∧ (s.windows p).get TBS.PER_WIN1_W_DL = p * 96 / 100 := by
  have hfit : ∀ k ≤ 96, p * k / 100 % 2 ^ 16 = p * k / 100 := fun k hk => by
    have : p * k ≤ 20000 * 96 := Nat.mul_le_mul hp hk
    omega
  unfold State.windows
  refine ⟨?_, ?_, ?_, ?_⟩
  · rw [State.get_set_apart _ _ _ _ (by decide), State.get_set_apart _ _ _ _ (by decide),
      State.get_set_apart _ _ _ _ (by decide), State.get_set_self _ _ _ (by decide)]
    exact hfit 8 (by decide)
  · rw [State.get_set_apart _ _ _ _ (by decide), State.get_set_apart _ _ _ _ (by decide),
      State.get_set_self _ _ _ (by decide)]
    exact hfit 72 (by decide)
  · rw [State.get_set_apart _ _ _ _ (by decide), State.get_set_self _ _ _ (by decide)]
    exact hfit 84 (by decide)
  · rw [State.get_set_self _ _ _ (by decide)]
    exact hfit 96 (by decide)

/-! ### The closes -/

/-- Window `w` of the period that `s` is in is in progress in `t`, and the clock has reached `at_`. -/
def State.windowOpen (s : State) (w at_ : Nat) (t : State) : Prop :=
  t.window = w ∧ t.bndAt = s.bndAt ∧ t.pidx = s.pidx ∧ at_ ≤ t.now

/-- No update but those of the grid closes a window or moves the clock back, stores included. -/
theorem State.windowOpen_closed (s : State) (w at_ : Nat) : ClosedM (s.windowOpen w at_) where
  reg _ _ _ h := h
  adv t x := fun ⟨hw, hbnd, hpidx, hnow⟩ => ⟨hw, hbnd, hpidx, hnow.trans (t.advance_now x).1⟩
  clm _ _ _ h := h
  upd := by intros; assumption
  byte _ _ _ h := h

theorem State.windowOpen_advance (s : State) (at_ : Nat) : s.windowOpen s.window at_ (s.advance at_) :=
  ⟨rfl, rfl, rfl, (s.advance_now at_).2⟩

/-- Moving the period on to window `v` opens it at the same instant. -/
theorem State.windowOpen_next {s t : State} {w at_ : Nat} (v : Nat) (h : s.windowOpen w at_ t) :
    s.windowOpen v at_ { t with window := v } :=
  have ⟨_, hbnd, hpidx, hnow⟩ := h
  ⟨rfl, hbnd, hpidx, hnow⟩

/-- A close that moves the clock to its instant and the period on to a window opens that window. -/
theorem State.windowOpen_start (s : State) (w at_ : Nat) : s.windowOpen w at_ { s.advance at_ with window := w } :=
  State.windowOpen_next w (s.windowOpen_advance at_)

section closes
variable {s : State}

theorem execUplinkWindowClose_opens (hd : s.dark = false) (hw : s.window = 0) (hp : s.perPend = none) :
    ∃ t, execUplinkWindowClose s = .next t ∧ s.windowOpen 1 (s.bndAt + s.get TBS.PER_WIN0_W_UPL * t10) t := by
  have c := (s.windowOpen_closed 1 (s.bndAt + s.get TBS.PER_WIN0_W_UPL * t10)).toClosed
  refine ⟨_, next_congr (if_neg (by rw [hd, hw]; decide)), ?_⟩
  dsimp only
  rw [State.perDue_none hp]
  have hcells := State.each_keeps c (List.range 48) State.uplCell (fun _ n h => State.uplCell_keeps c n h)
    (State.setReg_keeps c TBS.UPL_LATE_MAP1 0 (State.setReg_keeps c TBS.UPL_LATE_MAP0 0 (s.windowOpen_start _ _)))
  exact State.leOpen_keeps c _ (State.stlUplClose_keeps c (State.flowMiss_keeps c (State.gapCount_keeps c
    (State.mcxLatch_keeps c (State.ovrTrip_keeps c 0 _ hcells)))))

theorem execLeWindowClose_opens (hd : s.dark = false) (hw : s.window ≤ 1) :
    ∃ t, execLeWindowClose s = .next t ∧ s.windowOpen 2 (s.bndAt + s.get TBS.PER_WIN0_W_LE * t10) t := by
  have hbefore := s.windowOpen_closed s.window (s.bndAt + s.get TBS.PER_WIN0_W_LE * t10)
  have hafter := s.windowOpen_closed 2 (s.bndAt + s.get TBS.PER_WIN0_W_LE * t10)
  have c := hafter.toClosed
  -- the engines run their contexts to the end of the window before it is closed
  have hran := State.iff_keeps hbefore.toClosed
    (!(s.advance (s.bndAt + s.get TBS.PER_WIN0_W_LE * t10)).leGated) State.leRunAll
    (fun _ h => State.leRunAll_keeps hbefore h) (s.windowOpen_advance _)
  have hslack := fun late => State.leSlack_keeps c late (State.leUsed_keeps c (State.each_keeps c (List.range 16)
    State.leClose (fun _ e h => State.leClose_keeps c e h) (State.windowOpen_next 2 hran)))
  have hpass : ∀ {t : State}, s.windowOpen 2 (s.bndAt + s.get TBS.PER_WIN0_W_LE * t10) t →
      s.windowOpen 2 (s.bndAt + s.get TBS.PER_WIN0_W_LE * t10)
        (if t.leGated || t.stlIdle then t else t.dsvOpen.grainerPass.grnCapture) := fun h =>
    ite_keeps h (State.grnCapture_keeps c (State.grainerPass_keeps c (State.dsvOpen_keeps c h)))
  have hcopy : ∀ {t : State} (b : Bool), s.windowOpen 2 (s.bndAt + s.get TBS.PER_WIN0_W_LE * t10) t →
      s.windowOpen 2 (s.bndAt + s.get TBS.PER_WIN0_W_LE * t10) (t.iff b (fun t => t.each (List.range 16) State.moveCopy)) :=
    fun b => State.iff_keeps c b _ (fun _ => State.each_keeps c _ _ (fun _ e h => State.moveCopy_keeps hafter e h))
  refine ⟨_, next_congr (if_neg (by rw [hd, decide_eq_false (Nat.not_lt.2 hw)]; decide)), hpass ?_⟩
  exact State.grnLeaves_keeps c (State.parApply_keeps c (State.dozeCommit_keeps c (State.flowTx_keeps c
    (State.captureAll_keeps c (State.afeFromPubs_keeps c 4 (hcopy _ (State.leTableWrites_keeps hafter
      (State.lePublish_keeps c (State.ovrTrip_keeps c 1 _ (ite_keeps (hslack _)
        (State.set_keeps c _ _ (hslack _))))))))))))

theorem execGdWindowClose_opens (hd : s.dark = false) (hw : s.window ≤ 2) :
    ∃ t, execGdWindowClose s = .next t ∧ s.windowOpen 3 (s.bndAt + s.get TBS.PER_WIN1_W_GD * t10) t := by
  have c := (s.windowOpen_closed 3 (s.bndAt + s.get TBS.PER_WIN1_W_GD * t10)).toClosed
  have hcells := fun late => State.each_keeps c (List.range 48) _ (fun _ n h => State.gdCell_keeps c late n h)
    (s.windowOpen_start _ _)
  refine ⟨_, next_congr (if_neg (by rw [hd, decide_eq_false (Nat.not_lt.2 hw)]; decide)), ?_⟩
  exact State.mirrorSend_keeps c (State.composeAll_keeps c _ (State.modCompute_keeps c (State.iff_keeps c _ _
    (fun _ h => State.dsvLatch_keeps c (State.grnLatch_keeps c h)) (State.ovrTrip_keeps c 2 _ (hcells _)))))

theorem execDlWindowClose_opens (unsent : BitVec 48) (hd : s.dark = false) (hw : s.window ≤ 3) :
    ∃ t, execDlWindowClose unsent s = .next t ∧ s.windowOpen 4 (s.bndAt + s.get TBS.PER_WIN1_W_DL * t10) t := by
  have c := (s.windowOpen_closed 4 (s.bndAt + s.get TBS.PER_WIN1_W_DL * t10)).toClosed
  have hcells := State.each_keeps c (List.range 48) _ (fun _ n h => State.dlCell_keeps c unsent n h)
    (s.windowOpen_start _ _)
  exact ⟨_, next_congr (if_neg (by rw [hd, decide_eq_false (Nat.not_lt.2 hw)]; decide)),
    State.stlDlClose_keeps c _ (State.ovrTrip_keeps c 3 _ hcells)⟩

end closes

/-- Settles O8: the instants field by field, and each close by the operations it is made of. -/
theorem windowsAndTheirCloses : Obligations.WindowsAndTheirCloses := by
  unfold Obligations.WindowsAndTheirCloses
  exact ⟨⟨fun s p => s.get_windows, by decide, by decide, by decide, by decide⟩,
    fun s => execUplinkWindowClose_opens, fun s => execLeWindowClose_opens, fun s => execGdWindowClose_opens,
    fun u s => execDlWindowClose_opens u⟩

end Sys2Proof.Machine
end

section
/-! The period boundary (R16, R27, R37) and the reactions to overruns (R24, R25, R36). -/

namespace Sys2Proof.Machine

/-! ### The boundary -/

theorem State.slpGo_none {s : State} (h : s.pwr.slp = none) : s.slpGo = s := by
  simp only [State.slpGo, h]

/-- A boundary with no change of T_c due, on running clocks. -/
theorem execPeriodBoundary_runs {s : State} {l h p : BitVec 8} (hp : s.perPend = none) (hs : s.pwr.slp = none)
    (hd : s.dark = false) : execPeriodBoundary l h p s =
      .next (((s.advance (s.bndAt + s.tc)).bndOpen l.toNat h.toNat p.toNat).bndBlocks) := by
  have hslp : (s.advance (s.bndAt + s.tc)).slpGo = s.advance (s.bndAt + s.tc) := State.slpGo_none hs
  have hdark : (s.advance (s.bndAt + s.tc)).dark = false := hd
  simp only [execPeriodBoundary, State.perDue_none hp, hslp, hdark, Bool.false_eq_true, if_false]

/-- The load of the period that ended, as ICX.LOAD shows it (R37). -/
def State.loadShown (s : State) (load hi port : Nat) : State :=
  (((s.set ICX.LOAD_LOAD_NOW load).set ICX.LOAD_LOAD_MAX (max load (s.get ICX.LOAD_LOAD_MAX))).set ICX.LOAD_HI_SHARE hi).set
    ICX.LOAD_PORT port

theorem State.get_loadShown (s : State) {l h p : Nat} (hl : l < 256) (hh : h < 256) (hp : p < 256) :
    (s.loadShown l h p).get ICX.LOAD_LOAD_NOW = l ∧
    (s.loadShown l h p).get ICX.LOAD_LOAD_MAX = max l (s.get ICX.LOAD_LOAD_MAX) ∧
    (s.loadShown l h p).get ICX.LOAD_HI_SHARE = h ∧ (s.loadShown l h p).get ICX.LOAD_PORT = p := by
  have hmax : max l (s.get ICX.LOAD_LOAD_MAX) < 2 ^ 8 := max_lt hl (s.get_lt ICX.LOAD_LOAD_MAX)
  unfold State.loadShown
  refine ⟨?_, ?_, ?_, ?_⟩
  · rw [State.get_set_apart _ _ _ _ (by decide), State.get_set_apart _ _ _ _ (by decide),
      State.get_set_apart _ _ _ _ (by decide), State.get_set_self _ _ _ (by decide)]
    exact Nat.mod_eq_of_lt hl
  · rw [State.get_set_apart _ _ _ _ (by decide), State.get_set_apart _ _ _ _ (by decide),
      State.get_set_self _ _ _ (by decide)]
    exact Nat.mod_eq_of_lt hmax
  · rw [State.get_set_apart _ _ _ _ (by decide), State.get_set_self _ _ _ (by decide)]
    exact Nat.mod_eq_of_lt hh
  · rw [State.get_set_self _ _ _ (by decide)]
    exact Nat.mod_eq_of_lt hp

/-- The period that a boundary opens, before its load and the cells' blocks (R16). -/
def State.bndStart (s : State) : State :=
  ({ s with pidx := s.pidx + 1, bndAt := s.bndAt + s.tc, window := 0, ovrSeen := false, gapSample := none } : State).irq
    TBS.page 0

/-- What the solver and the cells take over at a boundary moves nothing else. -/
theorem State.bndOpen_same {β : Type} (f : State → β) (hset : ∀ t v, f ({ t.set DSV.DONE_T_T v with dsvDone := 0 }) = f t)
    (hcell : ∀ t n c, f (State.modCell t n c) = f t) (s : State) (l h p : Nat) :
    f (s.bndOpen l h p) = f (s.bndStart.loadShown l h p) :=
  (State.each_same f (fun t n => hcell t n _) _).trans (hset _ _)

theorem State.reg_bndOpen (s : State) (l h p : Nat) {a : Nat} (ha : a ≠ DSV.DONE_T) :
    (s.bndOpen l h p).reg a = (s.bndStart.loadShown l h p).reg a :=
  State.bndOpen_same (fun t => t.reg a) (fun t v => t.reg_set_of_ne _ v ha) (fun _ _ _ => rfl) s l h p

theorem State.get_bndOpen (s : State) (l h p : Nat) {g : Fld} (hg : g.addr ≠ DSV.DONE_T) :
    (s.bndOpen l h p).get g = (s.bndStart.loadShown l h p).get g := State.get_congr g (s.reg_bndOpen l h p hg)

theorem State.bndOpen_grid (s : State) (l h p : Nat) : (s.bndOpen l h p).pidx = s.pidx + 1 ∧
    (s.bndOpen l h p).bndAt = s.bndAt + s.tc ∧ (s.bndOpen l h p).window = 0 :=
  ⟨State.bndOpen_same State.pidx (fun _ _ => rfl) (fun _ _ _ => rfl) s l h p,
    State.bndOpen_same State.bndAt (fun _ _ => rfl) (fun _ _ _ => rfl) s l h p,
    State.bndOpen_same State.window (fun _ _ => rfl) (fun _ _ _ => rfl) s l h p⟩

theorem State.bndOpen_raised (s : State) (l h p : Nat) : (s.bndOpen l h p).raised TBS.page 0 := by
  unfold State.raised
  rw [State.reg_bndOpen s l h p (by decide)]
  change (s.bndStart.loadShown l h p).raised TBS.page 0
  unfold State.loadShown
  rw [State.raised_set _ _ _ _ _ (by decide), State.raised_set _ _ _ _ _ (by decide),
    State.raised_set _ _ _ _ _ (by decide), State.raised_set _ _ _ _ _ (by decide)]
  exact State.raised_irq _ _ _ (by decide)

theorem State.get_bndStart_loadMax (s : State) : s.bndStart.get ICX.LOAD_LOAD_MAX = s.get ICX.LOAD_LOAD_MAX :=
  State.get_irq_of_ne _ _ _ _ (by decide)

/-! ### Overruns -/

/-- Writing a key twice with one value is writing it once. -/
theorem SMap.ins_ins {α : Type} (m : SMap α) (k : Nat) (v : α) : SMap.ins (SMap.ins m k v) k v = SMap.ins m k v := by
  induction m with
  | nil => simp [SMap.ins]
  | cons q t ih =>
    obtain ⟨a, w⟩ := q
    by_cases h1 : k < a
    · simp [SMap.ins, h1]
    · by_cases h2 : k = a
      · simp [SMap.ins, h2]
      · simp [SMap.ins, h1, h2, ih]

theorem SMap.put_put {α : Type} [DecidableEq α] (d : Nat → α) (m : SMap α) (k : Nat) (v : α) :
    SMap.put d (SMap.put d m k v) k v = SMap.put d m k v := by
  unfold SMap.put
  split
  · simp [SMap.del]
  · exact SMap.ins_ins m k v

/-- A count of one event more, which saturates. -/
theorem State.get_bump (s : State) (f : Fld) (h : f.lo + f.w ≤ 32) : (s.bump f).get f = min (s.get f + 1) (2 ^ f.w - 1) := by
  rw [State.bump, State.get_set_self _ _ _ h]
  exact Nat.mod_eq_of_lt ((min_le_right _ _).trans_lt (Nat.sub_lt (Nat.two_pow_pos _) Nat.one_pos))

theorem State.reg_bump_of_ne (s : State) (f : Fld) {a : Nat} (h : a ≠ f.addr) : (s.bump f).reg a = s.reg a :=
  s.reg_set_of_ne f _ h

/-- That a period has been counted shows in no register. -/
theorem State.reg_ovrSeen (s : State) (b : Bool) (a : Nat) : ({ s with ovrSeen := b } : State).reg a = s.reg a := rfl

/-- The flag and the event of a detection (R24). -/
def State.ovrMark (s : State) (w : Nat) : State := (s.set ⟨TBS.OVR_STAT, w, 1⟩ 1).irq TBS.page (1 + w)

theorem State.set_ovrSeen (s : State) (f : Fld) (v : Nat) : (s.set f v).ovrSeen = s.ovrSeen := rfl
theorem State.irq_ovrSeen (s : State) (pg b : Nat) : (s.irq pg b).ovrSeen = s.ovrSeen := rfl

theorem State.ovrMark_ovrSeen (s : State) (w : Nat) : (s.ovrMark w).ovrSeen = s.ovrSeen := by
  rw [State.ovrMark, State.irq_ovrSeen, State.set_ovrSeen]

theorem State.ovrFlag_eq (s : State) (w : Nat) : s.ovrFlag w = if (s.ovrMark w).ovrSeen then s.ovrMark w
    else { ((s.ovrMark w).bump TBS.OVR_CNT_CNT) with ovrSeen := true } := by
  unfold State.ovrFlag State.ovrMark
  dsimp only

theorem State.ovrFlag_seen {s : State} (h : s.ovrSeen = true) (w : Nat) : s.ovrFlag w = s.ovrMark w := by
  rw [State.ovrFlag_eq, State.ovrMark_ovrSeen, if_pos h]

theorem State.ovrFlag_first {s : State} (h : s.ovrSeen = false) (w : Nat) :
    s.ovrFlag w = { ((s.ovrMark w).bump TBS.OVR_CNT_CNT) with ovrSeen := true } := by
  rw [State.ovrFlag_eq, State.ovrMark_ovrSeen, h, if_neg Bool.false_ne_true]

/-- No detection touches another register but for its mark and OVR_CNT. -/
theorem State.reg_ovrFlag (s : State) (w : Nat) {a : Nat} (h : a ≠ TBS.OVR_CNT) :
    (s.ovrFlag w).reg a = (s.ovrMark w).reg a := by
  cases hs : s.ovrSeen with
  | true => rw [State.ovrFlag_seen hs]
  | false =>
    rw [State.ovrFlag_first hs, State.reg_ovrSeen, State.reg_bump_of_ne _ _ h]

theorem State.get_ovrMark_count (s : State) (w : Nat) :
    (s.ovrMark w).get TBS.OVR_CNT_CNT = s.get TBS.OVR_CNT_CNT :=
  (State.get_irq_of_ne _ _ _ _ (by decide)).trans
    (State.get_set_apart _ _ _ _ (.inl (by decide : TBS.OVR_STAT ≠ TBS.OVR_CNT)))

/-- A detection sets its flag and its event. -/
theorem State.ovrFlag_detects (s : State) {w : Nat} (hw : w < 4) :
    (s.ovrFlag w).get ⟨TBS.OVR_STAT, w, 1⟩ = 1 ∧ (s.ovrFlag w).raised TBS.page (1 + w) := by
  constructor
  · rw [State.get_congr _ (s.reg_ovrFlag w (by decide : TBS.OVR_STAT ≠ TBS.OVR_CNT)), State.ovrMark,
      State.get_irq_of_ne _ _ _ _ (by decide : TBS.OVR_STAT ≠ TBS.page + 0x14),
      State.get_set_self _ _ _ (by show w + 1 ≤ 32; omega)]
    rfl
  · unfold State.raised
    rw [s.reg_ovrFlag w (by decide)]
    exact State.raised_irq _ _ _ (by omega)

/-- The first detection of a period counts it, and a later one does not. -/
theorem State.ovrFlag_counts (s : State) (w : Nat) : (s.ovrFlag w).ovrSeen = true ∧ (s.ovrFlag w).get TBS.OVR_CNT_CNT =
    if s.ovrSeen then s.get TBS.OVR_CNT_CNT else min (s.get TBS.OVR_CNT_CNT + 1) (2 ^ 32 - 1) := by
  cases hs : s.ovrSeen with
  | true =>
    rw [State.ovrFlag_seen hs]
    exact ⟨(s.ovrMark_ovrSeen w).trans hs, s.get_ovrMark_count w⟩
  | false =>
    rw [State.ovrFlag_first hs]
    refine ⟨rfl, (State.get_congr _ (State.reg_ovrSeen _ _ _)).trans ?_⟩
    rw [State.get_bump _ _ (by decide), s.get_ovrMark_count w, if_neg Bool.false_ne_true]

/-! ### The reaction to an overrun of one unit (R25) -/

/-- The run of consecutive HOLD periods of a unit of a window, as far as it is counted. -/
def State.ovrRunOf (s : State) (w u : Nat) : Nat := SMap.get (fun _ => 0) s.ovrRun (64 * w + u)

def State.putOvrRun (s : State) (w u v : Nat) : State := { s with ovrRun := SMap.put (fun _ => 0) s.ovrRun (64 * w + u) v }

/-- The report of an escalation. -/
def State.ovrEscalate (s : State) : State := (s.set TBS.OVR_STAT_ESCALATE 1).irq TBS.page 5

section react
variable {s : State} {w u : Nat}

theorem State.ovrRunOf_putOvrRun (v : Nat) : (s.putOvrRun w u v).ovrRunOf w u = v := SMap.get_put_self _ _ _ _

theorem State.ovrReact_eq (s : State) (w u : Nat) : s.ovrReact w u =
    if s.ovrAct w = 1 then
      if s.get TBS.OVR_ACT_HOLD_LIM ≤ s.ovrRunOf w u then
        (2, (s.putOvrRun w u ovrEsc).iff (s.ovrRunOf w u != ovrEsc) State.ovrEscalate)
      else (1, s.putOvrRun w u (s.ovrRunOf w u + 1))
    else (s.ovrAct w, s.putOvrRun w u 0) := rfl

theorem State.ovrReact_other (h : s.ovrAct w ≠ 1) : (s.ovrReact w u).1 = s.ovrAct w := by
  rw [State.ovrReact_eq, if_neg h]

theorem State.ovrReact_hold (h : s.ovrAct w = 1) (hr : s.ovrRunOf w u < s.get TBS.OVR_ACT_HOLD_LIM) :
    s.ovrReact w u = (1, s.putOvrRun w u (s.ovrRunOf w u + 1)) := by
  rw [State.ovrReact_eq, if_pos h, if_neg (Nat.not_le.2 hr)]

theorem State.ovrReact_block (h : s.ovrAct w = 1) (hr : s.get TBS.OVR_ACT_HOLD_LIM ≤ s.ovrRunOf w u) :
    s.ovrReact w u = (2, (s.putOvrRun w u ovrEsc).iff (s.ovrRunOf w u != ovrEsc) State.ovrEscalate) := by
  rw [State.ovrReact_eq, if_pos h, if_pos hr]

/-- What HOLD and BLOCK leave alone: every field of a register but OVR_STAT and IRQ_RAW. -/
theorem State.get_escalated (b : Bool) (v : Nat) {g : Fld} (h1 : g.addr ≠ TBS.OVR_STAT) (h2 : g.addr ≠ TBS.page + 0x14) :
    ((s.putOvrRun w u v).iff b State.ovrEscalate).get g = s.get g := by
  cases b with
  | false => rfl
  | true => exact (State.get_irq_of_ne _ _ _ _ h2).trans (State.get_set_apart _ _ _ _ (.inl h1.symm))

theorem State.ovrRun_escalated (b : Bool) (v : Nat) :
    ((s.putOvrRun w u v).iff b State.ovrEscalate).ovrRun = (s.putOvrRun w u v).ovrRun := by
  cases b <;> rfl

/-- A run that has escalated is written down once. -/
theorem State.putOvrRun_again (b : Bool) (v : Nat) :
    ((s.putOvrRun w u v).iff b State.ovrEscalate).putOvrRun w u v = (s.putOvrRun w u v).iff b State.ovrEscalate := by
  have hput : SMap.put (fun _ => 0) ((s.putOvrRun w u v).iff b State.ovrEscalate).ovrRun (64 * w + u) v
      = ((s.putOvrRun w u v).iff b State.ovrEscalate).ovrRun := by
    rw [State.ovrRun_escalated]
    exact SMap.put_put _ _ _ _
  rw [State.putOvrRun, hput]

/-- A run that reaches HOLD_LIM: BLOCK now and for as long as it lasts, with ESCALATE raised where it was not yet. -/
theorem State.ovrReact_escalates (h : s.ovrAct w = 1) (hr : s.get TBS.OVR_ACT_HOLD_LIM ≤ s.ovrRunOf w u) :
    (s.ovrReact w u).1 = 2 ∧ ((s.ovrReact w u).2.ovrReact w u).1 = 2 ∧
    (s.ovrRunOf w u ≠ ovrEsc →
      (s.ovrReact w u).2.get TBS.OVR_STAT_ESCALATE = 1 ∧ (s.ovrReact w u).2.raised TBS.page 5) ∧
    ((s.ovrReact w u).2.ovrReact w u).2 = (s.ovrReact w u).2 := by
  rw [State.ovrReact_block h hr]
  have hrun : ((s.putOvrRun w u ovrEsc).iff (s.ovrRunOf w u != ovrEsc) State.ovrEscalate).ovrRunOf w u = ovrEsc := by
    rw [State.ovrRunOf, State.ovrRun_escalated]
    exact State.ovrRunOf_putOvrRun ovrEsc
  -- HOLD_LIM has three bits, so the mark of an escalated run reaches it
  have hlim : s.get TBS.OVR_ACT_HOLD_LIM ≤ ovrEsc := (s.get_lt TBS.OVR_ACT_HOLD_LIM).le
  have hact : ((s.putOvrRun w u ovrEsc).iff (s.ovrRunOf w u != ovrEsc) State.ovrEscalate).ovrAct w = 1 :=
    (State.get_escalated _ _ (by decide : TBS.OVR_ACT ≠ TBS.OVR_STAT)
      (by decide : TBS.OVR_ACT ≠ TBS.page + 0x14)).trans h
  have hagain := State.ovrReact_block (u := u) hact
    (by rw [hrun, State.get_escalated _ _ (by decide) (by decide)]; exact hlim)
  rw [hagain, hrun]
  refine ⟨rfl, rfl, fun hne => ?_, State.putOvrRun_again _ _⟩
  rw [bne_iff_ne.2 hne]
  exact ⟨(State.get_irq_of_ne _ _ _ _ (by decide)).trans (State.get_set_self _ _ _ (by decide)),
    State.raised_irq _ _ _ (by decide)⟩

end react

/-- Settles O10: the boundary by what opens the period, a detection by its mark, a reaction by the run so far. -/
theorem boundaryAndOverruns : Obligations.BoundaryAndOverruns := by
  unfold Obligations.BoundaryAndOverruns
  refine ⟨⟨fun l h p s => execPeriodBoundary_runs, fun s l h p hl hh hp => ?_⟩, fun s w hw => ?_,
    fun s w u _ _ => ⟨State.ovrReact_other, fun ha hr => ?_, State.ovrReact_escalates⟩⟩
  · obtain ⟨hpidx, hbnd, hwin⟩ := s.bndOpen_grid l h p
    have hload := s.bndStart.get_loadShown hl hh hp
    rw [s.get_bndStart_loadMax] at hload
    refine ⟨hpidx, hbnd, hwin, s.bndOpen_raised l h p, ?_⟩
    rw [s.get_bndOpen l h p (by decide), s.get_bndOpen l h p (by decide), s.get_bndOpen l h p (by decide),
      s.get_bndOpen l h p (by decide)]
    exact hload
  · obtain ⟨hflag, hev⟩ := s.ovrFlag_detects hw
    exact ⟨hflag, hev, s.ovrFlag_counts w⟩
  · rw [State.ovrReact_hold ha hr]
    exact ⟨rfl, State.ovrRunOf_putOvrRun _⟩

end Sys2Proof.Machine
end

section
/-! The crossbar's counts and bound violations (R31–R33, R37). -/

namespace Sys2Proof.Machine

/-- A P3 grant shows its wait, and starves beyond the threshold. -/
theorem execP3Starve_eq (w : BitVec 24) (s : State) : execP3Starve w s =
    .next ((s.set ICX.P3_WAIT_MAX_WAIT (max w.toNat (s.get ICX.P3_WAIT_MAX_WAIT))).iff
      (decide (s.get ICX.P3_STARVE_THR_THR < w.toNat)) (fun s => (s.bump ICX.P3_STARVE_CNT_CNT).irq ICX.page 0)) := by
  rw [← State.get_set_apart s ICX.P3_WAIT_MAX_WAIT ICX.P3_STARVE_THR_THR
    (max w.toNat (s.get ICX.P3_WAIT_MAX_WAIT)) (by decide)]
  rfl

section starve
variable {w : BitVec 24} {s : State}

theorem execP3Starve_short (h : w.toNat ≤ s.get ICX.P3_STARVE_THR_THR) :
    execP3Starve w s = .next (s.set ICX.P3_WAIT_MAX_WAIT (max w.toNat (s.get ICX.P3_WAIT_MAX_WAIT))) := by
  rw [execP3Starve_eq, decide_eq_false (Nat.not_lt.2 h)]
  rfl

theorem execP3Starve_long (h : s.get ICX.P3_STARVE_THR_THR < w.toNat) : ∃ t, execP3Starve w s = .next t ∧
    t.get ICX.P3_WAIT_MAX_WAIT = max w.toNat (s.get ICX.P3_WAIT_MAX_WAIT) ∧
    t.get ICX.P3_STARVE_CNT_CNT = min (s.get ICX.P3_STARVE_CNT_CNT + 1) (2 ^ 32 - 1) ∧ t.raised ICX.page 0 := by
  have hmax : max w.toNat (s.get ICX.P3_WAIT_MAX_WAIT) < 2 ^ 24 := max_lt w.isLt (s.get_lt ICX.P3_WAIT_MAX_WAIT)
  refine ⟨((s.set ICX.P3_WAIT_MAX_WAIT (max w.toNat (s.get ICX.P3_WAIT_MAX_WAIT))).bump ICX.P3_STARVE_CNT_CNT).irq ICX.page 0,
    ?_, ?_, ?_, State.raised_irq _ _ _ (by decide)⟩
  · rw [execP3Starve_eq, decide_eq_true h]
    rfl
  · rw [State.get_irq_of_ne _ _ _ _ (by decide), State.bump, State.get_set_apart _ _ _ _ (by decide),
      State.get_set_self _ _ _ (by decide)]
    exact Nat.mod_eq_of_lt hmax
  · rw [State.get_irq_of_ne _ _ _ _ (by decide), State.get_bump _ _ (by decide),
      State.get_set_apart _ _ _ _ (by decide)]

end starve

theorem execBoundViol_within {c : Fin 3} {w b o : Nat} {s : State} (h : w ≤ waitBound c.val b o) :
    execBoundViol c ⟨w, b, o⟩ s = .next s := next_congr (if_pos h)

theorem execBoundViol_beyond {c : Fin 3} {w b o : Nat} {s : State} (h : waitBound c.val b o < w) :
    execBoundViol c ⟨w, b, o⟩ s =
      .next ((((s.set ⟨ICX.BOUND_VIOL, c.val, 1⟩ 1).irq ICX.page 1).logEvt ICX.page 1).safBound c.val) :=
  next_congr (if_neg (Nat.not_le.2 h))

/-- What a write of 0 to P3_STARVE_CNT clears (R37). -/
theorem execP3StarveCntClear_clears {s : State} (ht : s.takes ICX.page) : ∃ t, execP3StarveCntClear s = .next t ∧
    t.get ICX.P3_STARVE_CNT_CNT = 0 ∧ t.get ICX.LOAD_LOAD_MAX = 0 ∧
    t.get ICX.LOAD_LOAD_NOW = s.get ICX.LOAD_LOAD_NOW ∧ t.sameRegsBut s [ICX.P3_STARVE_CNT, ICX.LOAD] := by
  refine ⟨(s.setReg ICX.P3_STARVE_CNT 0).set ICX.LOAD_LOAD_MAX 0, next_congr (State.judge_takes ht (by simp)),
    ?_, ?_, ?_, fun a ha => ?_⟩
  · rw [State.get_set_apart _ _ _ _ (by decide), State.get, State.reg_setReg_self]
    decide
  · rw [State.get_set_self _ _ _ (by decide)]
    decide
  · rw [State.get_set_apart _ _ _ _ (by decide)]
    exact State.get_congr _ (State.reg_setReg_of_ne _ _ (by decide))
  · simp only [List.mem_cons, List.not_mem_nil, or_false, not_or] at ha
    rw [State.reg_set_of_ne _ _ _ ha.2, State.reg_setReg_of_ne _ _ ha.1]

/-- A request waits the longer for each burst and access of its class ahead of it, whatever its class (R31). -/
theorem waitBound_ahead (c b o : Nat) : waitBound c b o = waitBound c 0 0 + 24 * b + 2 * o := rfl

/-- Settles O11: the wait of a P3 grant against the threshold, a wait of another class against its bound, and what the
clear of the count leaves. -/
theorem crossbarWaits : Obligations.CrossbarWaits := by
  unfold Obligations.CrossbarWaits
  exact ⟨fun w s => execP3Starve_long, fun w s => execP3Starve_short, fun c w b o s => execBoundViol_within,
    fun c w b o s => execBoundViol_beyond, rfl, waitBound_ahead, fun s => execP3StarveCntClear_clears⟩

end Sys2Proof.Machine
end

section
/-! The solver (R82–R97): which cells it solves in a period, what a set of one cell says of its hard transitions and of its
phase, and that the choice of R90 is a least candidate of a linear order. -/

namespace Sys2Proof.Machine

/-! ### The cells of a period (R96, R97) -/

/-- The solver works in its window before the window's instant, and then MOD converts its sets. -/
theorem execDsvSolve_eq (s : State) : execDsvSolve s =
    .next (if s.dsvRuns && s.window == 2 && decide (s.now < s.bndAt + s.get TBS.PER_WIN1_W_GD * t10)
      then s.dsvSolve.modCompute else s) := rfl

/-- The hand-over instant of the last set is no matter of any cell's. -/
theorem State.dsv_dsvSolve (s : State) (n : Nat) : s.dsvSolve.dsv n = (s.each s.dsvCells State.dsvSolveOne).dsv n := by
  unfold State.dsvSolve
  dsimp only
  split <;> rfl

/-- Solving a cell leaves every other cell's set as it is. -/
theorem State.dsv_dsvSolveOne_of_ne (s : State) {n m : Nat} (h : m ≠ n) : (s.dsvSolveOne n).dsv m = s.dsv m := by
  rw [State.dsvSolveOne, State.dsv_setDsv, if_neg h]

theorem State.dsvSolveOne_solved (s : State) (n : Nat) : ((s.dsvSolveOne n).dsv n).solved = true := by
  rw [State.dsvSolveOne, State.dsv_setDsv, if_pos rfl]

theorem State.dsvSolve_solves {s : State} {n : Nat} (h : n ∈ s.dsvCells) : (s.dsvSolve.dsv n).solved = true := by
  rw [State.dsv_dsvSolve]
  refine State.each_forall (P := fun n (t : State) => (t.dsv n).solved = true) (fun t n _ => t.dsvSolveOne_solved n)
    (fun t n _ m hm => ?_) s n h
  by_cases he : m = n
  · rw [he]; exact t.dsvSolveOne_solved n
  · rw [t.dsv_dsvSolveOne_of_ne he]; exact hm

/-- What is not in a list is left alone by operations that each touch their own item. -/
theorem State.each_dsvSolveOne_of_not_mem {l : List Nat} {n : Nat} (h : n ∉ l) (s : State) :
    (s.each l State.dsvSolveOne).dsv n = s.dsv n := by
  induction l generalizing s with
  | nil => rfl
  | cons a l ih =>
    obtain ⟨ha, hl⟩ := not_or.1 (mt List.mem_cons.2 h)
    exact (ih hl (s.dsvSolveOne a)).trans (s.dsv_dsvSolveOne_of_ne ha)

theorem State.dsvCells_facts (s : State) : s.dsvCells.length ≤ s.get DSV.N_MAX_N ∧ s.dsvCells.Pairwise (· < ·) ∧
    ∀ n ∈ s.dsvCells, n < 48 ∧ (s.dsv n).on = true := by
  refine ⟨List.length_take_le _ _, (List.pairwise_lt_range.filter _).sublist (List.take_sublist _ _), fun n hn => ?_⟩
  obtain ⟨hr, hon⟩ := List.mem_filter.1 (List.mem_of_mem_take hn)
  exact ⟨List.mem_range.1 hr, hon⟩

/-! ### The order of the candidates (R90) -/

/-- What R90 compares two candidates by, in its order: the hard transitions, the deficit where there are any, the mean
square, and the distance from the matched code. -/
def Cand.key (m : Nat) (c : Cand) : Nat ×ₗ Rat ×ₗ Rat ×ₗ Nat :=
  toLex (c.nhard, toLex (if c.nhard = 0 then 0 else c.deficit, toLex (c.msq, c.dhi - m)))

/-- R90 orders the candidates by their keys. -/
theorem Cand.better_iff {m : Nat} {a b : Cand} : Cand.better m a b = true ↔ a.key m < b.key m := by
  simp only [Cand.key, Prod.Lex.toLex_lt_toLex, Cand.better]
  by_cases ha : a.nhard = 0 <;> by_cases hb : b.nhard = 0
  · simp [ha, hb]
  · simp [ha, hb, Nat.pos_of_ne_zero hb]
  · simp [ha, hb]
  · by_cases hn : a.nhard = b.nhard <;> by_cases hd : a.deficit = b.deficit <;> by_cases hq : a.msq = b.msq <;>
      simp [ha, hb, hn, hd, hq]

theorem Cand.better_eq_false {m : Nat} {a b : Cand} : Cand.better m a b = false ↔ b.key m ≤ a.key m := by
  rw [← not_lt, ← Cand.better_iff, Bool.not_eq_true]

theorem Cand.nhard_le_of_key_le {m : Nat} {a b : Cand} (h : a.key m ≤ b.key m) : a.nhard ≤ b.nhard := by
  rcases Prod.Lex.toLex_le_toLex.1 h with h | ⟨h, -⟩
  · exact h.le
  · exact h.le

/-- Between two candidates without hard transitions the mean square decides. -/
theorem Cand.msq_le_of_key_le {m : Nat} {a b : Cand} (ha : a.nhard = 0) (hb : b.nhard = 0) (h : a.key m ≤ b.key m) :
    a.msq ≤ b.msq := by
  simp only [Cand.key, ha, hb, if_true, Prod.Lex.toLex_le_toLex, lt_irrefl, false_or, true_and] at h
  rcases h with h | ⟨h, -⟩
  · exact h.le
  · exact h.le

/-- The better of the best so far and one more candidate. -/
theorem bestCand_concat (m : Nat) (l : List Cand) (x : Cand) : bestCand m (l ++ [x]) =
    match bestCand m l with
    | none => some x
    | some b => if Cand.better m x b then some x else some b :=
  List.foldl_append ..

theorem bestCand_eq_none {m : Nat} {l : List Cand} (h : bestCand m l = none) : l = [] := by
  induction l using List.reverseRecOn with
  | nil => rfl
  | append_singleton l x ih =>
    rw [bestCand_concat] at h
    split at h
    · cases h
    · split at h <;> cases h

/-- The choice of R90 is a candidate of least key. -/
theorem bestCand_least {m : Nat} {l : List Cand} : ∀ {c : Cand}, bestCand m l = some c →
    c ∈ l ∧ ∀ x ∈ l, c.key m ≤ x.key m := by
  induction l using List.reverseRecOn with
  | nil => intro c h; cases h
  | append_singleton l y ih =>
    intro c h
    rw [bestCand_concat] at h
    split at h
    next hn =>
      cases h
      rw [bestCand_eq_none hn]
      exact ⟨List.mem_singleton.2 rfl, fun x hx => (List.mem_singleton.1 hx ▸ le_rfl)⟩
    next b hb =>
      obtain ⟨hmem, hle⟩ := ih hb
      split at h <;> cases h
      next hy =>
        have hlt := Cand.better_iff.1 hy
        refine ⟨by simp, fun x hx => ?_⟩
        rcases List.mem_append.1 hx with hx | hx
        · exact hlt.le.trans (hle x hx)
        · rw [List.mem_singleton.1 hx]
      next hy =>
        refine ⟨List.mem_append_left _ hmem, fun x hx => ?_⟩
        rcases List.mem_append.1 hx with hx | hx
        · exact hle x hx
        · rw [List.mem_singleton.1 hx]
          exact Cand.better_eq_false.1 (Bool.eq_false_iff.2 hy)

/-! ### The set of one cell (R89–R93) -/

theorem evalCand_nhard_le (p : DsvPar) (e : Elec) (dhi d1 d2 : Nat) (phi : Int) :
    (evalCand p e dhi d1 d2 phi).nhard ≤ 4 :=
  (List.length_filter_le _ _).trans (List.length_range (n := 4)).le

theorem evalCand_phi (p : DsvPar) (e : Elec) (dhi d1 d2 : Nat) (phi : Int) : (evalCand p e dhi d1 d2 phi).phi = phi := rfl

/-- Whatever is true of every evaluated candidate at a φ is true of the line's choice at that φ. -/
theorem lineAt_forall {P : Cand → Prop} {p : DsvPar} {e : Elec} {phi : Int}
    (h : ∀ dhi d1 d2, P (evalCand p e dhi d1 d2 phi)) : P (lineAt p e phi) := by
  unfold lineAt
  dsimp only
  cases hb : bestCand (matched e.k) _ with
  | none => exact h _ _ _
  | some c =>
    obtain ⟨d, -, rfl⟩ := List.mem_map.1 (bestCand_least hb).1
    exact h _ _ _

/-- What the search for a power finds is an evaluated candidate. -/
theorem lineSearch_forall {P : Cand → Prop} {p : DsvPar} {e : Elec} {pw : Rat} {c : Cand}
    (hc : lineSearch p e pw = some c) (h : ∀ dhi d1 d2 phi, P (evalCand p e dhi d1 d2 phi)) : P c := by
  obtain ⟨d, -, hd⟩ := List.mem_filterMap.1 (bestCand_least hc).1
  split at hd
  · cases hd
  · split at hd
    · cases hd
    · cases hd
      exact h _ _ _ _

/-- The candidate of the wanted power: the best of the line, or PHI_MAX at full widths where none delivers it (R89, R91). -/
def wantedCand (p : DsvPar) (e : Elec) (pw : Rat) : Cand :=
  (lineSearch p e pw).getD (evalCand p e 0x8000 0x8000 0x8000 (if pw < 0 then -(p.phiMax : Int) else p.phiMax))

theorem wantedCand_nhard_le (p : DsvPar) (e : Elec) (pw : Rat) : (wantedCand p e pw).nhard ≤ 4 := by
  unfold wantedCand
  cases hc : lineSearch p e pw with
  | none => exact evalCand_nhard_le ..
  | some c => exact lineSearch_forall (P := fun c => c.nhard ≤ 4) hc (fun _ _ _ _ => evalCand_nhard_le ..)

/-- The change of φ from the last period to the wanted candidate exceeds the slew limit (R93). -/
def slewed (p : DsvPar) (prev : Int) (c : Cand) : Bool :=
  p.phiSlew != 0 && decide ((p.phiSlew : Int) < (if c.phi - prev < 0 then -(c.phi - prev) else c.phi - prev))

/-- The candidate in force: the wanted one, or the best of the line one step of the limit from the last φ (R93). -/
def takenCand (p : DsvPar) (e : Elec) (prev : Int) (c : Cand) : Cand :=
  if slewed p prev c then lineAt p e (prev + (if c.phi - prev < 0 then -(p.phiSlew : Int) else p.phiSlew)) else c

section taken
variable {p : DsvPar} {e : Elec} {prev : Int} {c : Cand}

theorem takenCand_nhard_le (h : c.nhard ≤ 4) : (takenCand p e prev c).nhard ≤ 4 := by
  unfold takenCand
  split
  · exact lineAt_forall (P := fun c => c.nhard ≤ 4) (fun _ _ _ => evalCand_nhard_le ..)
  · exact h

/-- With a slew limit, φ moves by at most the limit. -/
theorem takenCand_phi (h : p.phiSlew ≠ 0) :
    (takenCand p e prev c).phi - prev ≤ p.phiSlew ∧ prev - (takenCand p e prev c).phi ≤ p.phiSlew := by
  unfold takenCand
  split
  · rw [lineAt_forall (P := fun c => c.phi = _) (fun _ _ _ => evalCand_phi ..)]
    split <;> omega
  · next hs =>
    simp only [slewed, Bool.and_eq_true, bne_iff_ne, decide_eq_true_eq, not_and, not_lt] at hs
    have := hs h
    split at this <;> omega

end taken

section solve
variable (p : DsvPar) (pIdle : Rat) (v1 v2 prd : Nat) (pw : Rat) (prev : Int) (st : Bool)

/-- A voltage outside its range, or a command below P_IDLE (R91, R92). -/
def solveIdle : Bool :=
  (decide (v1 < p.v1min) || decide (p.v1max < v1) || decide (v2 < p.v2min) || decide (p.v2max < v2)) ||
    decide ((if pw < 0 then -pw else pw) < pIdle)

theorem solveCell_idle (h : solveIdle p pIdle v1 v2 pw = true) : ∃ vr,
    solveCell p pIdle v1 v2 prd pw prev st = { idle := true, vrange := vr, stale := st } := ⟨_, if_pos h⟩

/-- A cell that is neither idle nor out of range: what its set says is what its candidate says. -/
theorem solveCell_run (h : solveIdle p pIdle v1 v2 pw = false) : ∃ c : Cand,
    c = takenCand p (elecOf p v1 v2 prd) prev (wantedCand p (elecOf p v1 v2 prd) pw) ∧
    (solveCell p pIdle v1 v2 prd pw prev st).phi = c.phi ∧
    (solveCell p pIdle v1 v2 prd pw prev st).nhard = c.nhard ∧
    (solveCell p pIdle v1 v2 prd pw prev st).zvsOk = (c.nhard == 0) ∧
    (solveCell p pIdle v1 v2 prd pw prev st).hard = (c.nhard != 0) := by
  have hrun : solveCell p pIdle v1 v2 prd pw prev st = _ := if_neg (by rw [← solveIdle, h]; decide)
  rw [hrun]
  exact ⟨_, rfl, rfl, rfl, rfl, rfl⟩

end solve

/-- Settles O21: the cells by the work of a period on each, the set of a cell by the candidate in force, the choice as a
candidate of least key. -/
theorem solverSolvesAndChooses : Obligations.SolverSolvesAndChooses := by
  unfold Obligations.SolverSolvesAndChooses
  refine ⟨⟨fun s hr hw ht => ?_, fun s h => ?_, fun s n => State.dsvSolve_solves, fun s n h => ?_,
    State.dsvCells_facts⟩, fun p pIdle v1 v2 prd pw prev st => ⟨fun h => ?_, fun h => ?_⟩, fun m l c h => ?_⟩
  · exact (execDsvSolve_eq s).trans (next_congr (if_pos (by simp [hr, hw, ht])))
  · refine (execDsvSolve_eq s).trans (next_congr (if_neg ?_))
    simp only [Bool.and_eq_true, beq_iff_eq, decide_eq_true_eq, not_and, not_lt]
    exact fun ⟨_, hw⟩ => h.resolve_left (absurd hw)
  · rw [State.dsv_dsvSolve, State.each_dsvSolveOne_of_not_mem h]
  · obtain ⟨vr, he⟩ := solveCell_idle p pIdle v1 v2 prd pw prev st (by simpa [solveIdle, or_assoc] using h)
    rw [he]
    exact ⟨rfl, rfl, rfl, rfl⟩
  · have hrun : solveIdle p pIdle v1 v2 pw = false := by
      rw [Bool.eq_false_iff]
      intro hi
      obtain ⟨vr, he⟩ := solveCell_idle p pIdle v1 v2 prd pw prev st hi
      rw [he] at h
      cases h
    obtain ⟨c, hc, hphi, hn, hz, hh⟩ := solveCell_run p pIdle v1 v2 prd pw prev st hrun
    rw [hphi, hn, hz, hh, beq_iff_eq, bne_iff_ne, hc]
    exact ⟨Iff.rfl, Iff.rfl, takenCand_nhard_le (wantedCand_nhard_le ..), takenCand_phi⟩
  · obtain ⟨hmem, hle⟩ := bestCand_least h
    refine ⟨hmem, fun x hx => Cand.better_eq_false.2 (hle x hx), fun ⟨y, hy, hy0⟩ => ?_,
      fun x hx => Cand.nhard_le_of_key_le (hle x hx)⟩
    have hc0 : c.nhard = 0 := Nat.le_zero.1 (hy0 ▸ Cand.nhard_le_of_key_le (hle y hy))
    exact ⟨hc0, fun x hx hx0 => Cand.msq_le_of_key_le hc0 hx0 (hle x hx)⟩

end Sys2Proof.Machine
end

section
/-! The frame of a MODE change of an enabled stack (R520): the write brings the members' AFE channels up to date before MODE
changes, and so shows STAT.PEND of each again, a register beside STK_CFG. -/

namespace Sys2Proof.Machine

/-- Stack 0 is enabled in PSC mode and IDLE with cell 0 as its member, and PEND of the cell's AFE channel stands although no
captured values wait. -/
def staleMember : State :=
  ((State.reset.set (GRN.STK_CFG_EN 0) 1).set (GRN.CELL_STK_MEMB 0 0) 1).set (MODCH.STAT_PEND 0) 1

theorem staleMember_takes : staleMember.takes GRN.page := by
  unfold State.takes
  decide +kernel

/-- The write is one the MODE clause speaks of: DIRECT for an enabled stack that is IDLE in another mode. -/
theorem staleMember_meets : staleMember.locked GRN.page = false ∧ staleMember.get (GRN.STK_CFG_EN 0) = 1 ∧
    staleMember.get (GRN.STK_CFG_MODE 0) ≠ 2 ∧ staleMember.stkState 0 = skIDLE := by decide +kernel

/-- PEND of the member's AFE channel falls with the change of MODE. -/
theorem staleMember_pend : staleMember.get (MODCH.STAT_PEND 0) = 1 ∧
    (staleMember.stkCfgWrite 0 0x4105).get (MODCH.STAT_PEND 0) = 0 := by decide +kernel

/-- Refutes O16: its MODE clause says that STK_CFG alone changes, but where STAT.PEND of a member's AFE channel disagrees
with the values that wait, bringing the channel up to date changes that register too. -/
theorem not_stackEnableAndMembership : ¬ Obligations.StackEnableAndMembership := by
  unfold Obligations.StackEnableAndMembership
  rintro ⟨-, ⟨-, hmode⟩, -⟩
  obtain ⟨hlock, hen, hne, hidle⟩ := staleMember_meets
  obtain ⟨t, ht, -, -, hregs⟩ :=
    (hmode 0 0x4105 staleMember staleMember_takes hlock hen (by decide) (by decide) (by decide) hne).1 hidle
  obtain rfl : staleMember.stkCfgWrite 0 0x4105 = t := Host.Outcome.next.inj ht
  have hsame := State.get_congr (MODCH.STAT_PEND 0) (hregs (MODCH.STAT 0) (by decide))
  obtain ⟨hbefore, hafter⟩ := staleMember_pend
  rw [hbefore, hafter] at hsame
  exact absurd hsame (by decide)

end Sys2Proof.Machine
end

section
/-! Commands to cells and stacks (R60, R66, R68): the conditions each is judged on in their order, and what an admissible one
leaves pending. -/

namespace Sys2Proof.Machine

/-! ### Cell commands (R60, R79) -/

/-- The command is a CLEAR of a fault that is still reported. -/
def State.clearsReported (s : State) (n op : Nat) : Bool := op == 5 && (s.cell n).srcs &&& (s.cell n).faultSrc != 0

/-- The conditions a command to a cell is judged on before N_MIN, in their order. -/
def State.cellCmdConds (s : State) (n op : Nat) : List (Bool × Nat) :=
  [(decide (48 ≤ n) || op == 7, eRANGE), (op != 0 && !(cellOpStates op).contains (s.cst n), gSTATE),
    (s.clearsReported n op, gSTATE), (op != 0 && (s.stackOf n).isNone, gNOT_MEMBER)]

/-- The command takes a cell out of the active set that no pending command takes out yet. -/
def State.takesActive (s : State) (n op : Nat) : Bool :=
  s.cst n == ckACTIVE && (op == 1 || op == 3) && !((s.cell n).cmd ∈ [1, 3])

theorem State.takesActive_iff (s : State) (n op : Nat) :
    s.takesActive n op = true ↔ s.cst n = ckACTIVE ∧ op ∈ [1, 3] ∧ (s.cell n).cmd ∉ [1, 3] := by
  simp [State.takesActive, and_assoc]

/-- The codes of OP that name no operation are accepted in no state. -/
theorem cellOp_of_state {op st : Nat} (h : st ∈ cellOpStates op) : op ≠ 0 ∧ op ≠ 7 := by
  constructor <;> rintro rfl <;> exact absurd h List.not_mem_nil

/-- What a command does that meets none of the first conditions: it is judged by N_MIN, and pends. -/
def State.cellCmdGo (s : State) (n op : Nat) : State :=
  if op == 0 then s
  else match s.stackOf n with
  | none => s
  | some k => s.judge GRN.page 0xC8
      [(s.takesActive n op && decide (s.nAfter k < s.get (GRN.STK_CFG_N_MIN k) + 1), gN_MIN)]
      (fun s => s.modCell n (fun c => { c with cmd := op }))

theorem State.cellCmd_eq (s : State) (n op : Nat) :
    s.cellCmd n op = s.judge GRN.page 0xC8 (s.cellCmdConds n op) (fun s => s.cellCmdGo n op) := rfl

section cellCmd
variable {s : State} {n op : Nat}

theorem State.cellCmd_range (hg : s.pageGated GRN.page = false) (hn : 48 ≤ n) :
    s.cellCmd n op = s.refuse GRN.page 0xC8 eRANGE := by
  rw [State.cellCmd_eq]
  exact State.judge_range hg (by simp [State.cellCmdConds, hn]) (by simp [State.cellCmdConds])

variable (hn : n < 48) (ht : s.takes GRN.page)
include hn ht

/-- With the cell and the operation in range the first condition that is met is reported. -/
theorem State.cellCmd_refused {c : Bool × Nat} (h7 : op ≠ 7)
    (hc : (s.cellCmdConds n op).find? (fun x => x.1) = some c) : s.cellCmd n op = s.refuse GRN.page 0xC8 c.2 := by
  rw [State.cellCmd_eq]
  exact State.judge_first ht hc (by simp [State.cellCmdConds, hn, h7])

/-- A cell in a state the operation is not for, or a CLEAR of a fault that is still reported. -/
theorem State.cellCmd_badState (h0 : op ≠ 0) (h7 : op ≠ 7)
    (h : s.cst n ∉ cellOpStates op ∨ s.clearsReported n op = true) : s.cellCmd n op = s.refuse GRN.page 0xC8 gSTATE := by
  refine State.cellCmd_refused (c := (true, gSTATE)) hn ht h7 ?_
  by_cases hst : s.cst n ∈ cellOpStates op
  · simp [State.cellCmdConds, hn, h7, hst, h.resolve_left (not_not_intro hst)]
  · simp [State.cellCmdConds, hn, h7, h0, hst]

variable (hst : s.cst n ∈ cellOpStates op) (hf : s.clearsReported n op = false)
include hst hf

theorem State.cellCmd_notMember (hk : s.stackOf n = none) : s.cellCmd n op = s.refuse GRN.page 0xC8 gNOT_MEMBER := by
  obtain ⟨h0, h7⟩ := cellOp_of_state hst
  refine State.cellCmd_refused (c := (true, gNOT_MEMBER)) hn ht h7 ?_
  simp [State.cellCmdConds, hn, h7, h0, hst, hf, hk]

variable {k : Nat} (hk : s.stackOf n = some k)
include hk

/-- A member in a state the operation is for is judged by N_MIN alone. -/
theorem State.cellCmd_member : s.cellCmd n op = s.judge GRN.page 0xC8
    [(s.takesActive n op && decide (s.nAfter k < s.get (GRN.STK_CFG_N_MIN k) + 1), gN_MIN)]
    (fun s => s.modCell n (fun c => { c with cmd := op })) := by
  obtain ⟨h0, h7⟩ := cellOp_of_state hst
  rw [State.cellCmd_eq, State.judge_takes ht]
  · simp [State.cellCmdGo, h0, hk]
  · simp [State.cellCmdConds, hn, h7, hst, hf, hk]

theorem State.cellCmd_pends (hN : s.cst n = ckACTIVE → op ∈ [1, 3] → (s.cell n).cmd ∉ [1, 3] →
    s.get (GRN.STK_CFG_N_MIN k) + 1 ≤ s.nAfter k) : s.cellCmd n op = s.modCell n (fun c => { c with cmd := op }) := by
  rw [State.cellCmd_member hn ht hst hf hk]
  refine State.judge_takes ht (List.forall_mem_singleton.2 ?_)
  rw [Bool.and_eq_false_imp, State.takesActive_iff]
  rintro ⟨ha, hop, hc⟩
  exact decide_eq_false (Nat.not_lt.2 (hN ha hop hc))

theorem State.cellCmd_belowMin (ha : s.takesActive n op = true) (hN : s.nAfter k < s.get (GRN.STK_CFG_N_MIN k) + 1) :
    s.cellCmd n op = s.refuse GRN.page 0xC8 gN_MIN := by
  rw [State.cellCmd_member hn ht hst hf hk, ha, decide_eq_true hN]
  exact State.judge_first (c := (true, gN_MIN)) ht rfl (by simp)

end cellCmd

/-! ### Stack commands (R66, R68) -/

/-- A command to stack `k` pends for the next pass. -/
def State.stkPend (s : State) (k op : Nat) : State := s.setStack k { s.stack k with cmd := op }

/-- The rows of R68's table. -/
def State.runConds (s : State) (k : Nat) : List (Bool × Nat) :=
  [(!s.armed, eARMED), (decide ((s.activeOf k).length < s.get (GRN.STK_CFG_N_MIN k)), gN_MIN),
    (s.pchIncomplete k, gPCH_INCOMPLETE), (!s.on (GRN.STK_CFG_EN k) || s.stkState k != skPRECHARGE, gSTATE)]

section stkCmd
variable {s : State} {k : Nat} (ht : s.takes GRN.page) (hen : s.on (GRN.STK_CFG_EN k) = true)
include ht hen

theorem State.stkCmd_precharge : s.stkCmd k 1 =
    s.judge GRN.page 0xCC [(s.stkState k != skIDLE, gSTATE)] (fun s => s.stkPend k 1) := by
  rw [State.stkCmd, State.judge_takes ht (by simp [hen])]
  rfl

theorem State.stkCmd_run : s.stkCmd k 2 =
    s.judge GRN.page 0xCC (s.runConds k) (fun s => (s.stkPend k 2).set (GRN.STK_STAT_TRIPPED k) 0) := by
  rw [State.stkCmd, State.judge_takes ht (by simp [hen])]
  rfl

theorem State.stkCmd_stop : s.stkCmd k 3 = s.stkPend k 3 := by
  rw [State.stkCmd, State.judge_takes ht (by simp [hen])]
  rfl

theorem State.stkCmd_unblock : s.stkCmd k 4 = s.judge GRN.page 0xCC
    [(s.stkState k != skBLOCKED || (s.stack k).stkCause || s.underStill k, gSTATE)] (fun s => s.stkPend k 4) := by
  rw [State.stkCmd, State.judge_takes ht (by simp [hen])]
  rfl

theorem State.stkCmd_precharge_idle (h : s.stkState k = skIDLE) : s.stkCmd k 1 = s.stkPend k 1 :=
  (State.stkCmd_precharge ht hen).trans (State.judge_takes ht (by simp [h]))

theorem State.stkCmd_precharge_refused (h : s.stkState k ≠ skIDLE) : s.stkCmd k 1 = s.refuse GRN.page 0xCC gSTATE :=
  (State.stkCmd_precharge ht hen).trans (State.judge_first (c := (true, gSTATE)) ht (by simp [h]) (by simp))

/-- The first row of R68's table that RUN meets is reported. -/
theorem State.stkCmd_run_refused {c : Bool × Nat} (hc : (s.runConds k).find? (fun x => x.1) = some c) :
    s.stkCmd k 2 = s.refuse GRN.page 0xCC c.2 :=
  (State.stkCmd_run ht hen).trans (State.judge_first ht hc (by simp [State.runConds]))

theorem State.stkCmd_run_pends (ha : s.armed = true) (hN : s.get (GRN.STK_CFG_N_MIN k) ≤ (s.activeOf k).length)
    (hp : s.pchIncomplete k = false) (hs : s.stkState k = skPRECHARGE) :
    s.stkCmd k 2 = (s.stkPend k 2).set (GRN.STK_STAT_TRIPPED k) 0 :=
  (State.stkCmd_run ht hen).trans (State.judge_takes ht (by simp [State.runConds, ha, hN, hp, hs, hen]))

theorem State.stkCmd_unblock_clear (hs : s.stkState k = skBLOCKED) (hc : (s.stack k).stkCause = false)
    (hu : s.underStill k = false) : s.stkCmd k 4 = s.stkPend k 4 :=
  (State.stkCmd_unblock ht hen).trans (State.judge_takes ht (by simp [hs, hc, hu]))

theorem State.stkCmd_unblock_refused
    (h : s.stkState k ≠ skBLOCKED ∨ (s.stack k).stkCause = true ∨ s.underStill k = true) :
    s.stkCmd k 4 = s.refuse GRN.page 0xCC gSTATE := by
  have hb : (s.stkState k != skBLOCKED || (s.stack k).stkCause || s.underStill k) = true := by
    simpa [or_assoc] using h
  exact (State.stkCmd_unblock ht hen).trans (State.judge_first (c := (true, gSTATE)) ht (by rw [hb]; rfl) (by simp))

end stkCmd

/-- Settles O17: a cell's command by the conditions of its write and then N_MIN, a stack's by those of its operation. -/
theorem cellAndStackCommands : Obligations.CellAndStackCommands := by
  unfold Obligations.CellAndStackCommands
  refine ⟨fun c k s hn ht hk => ?_, ⟨fun c s hn hg => ?_, fun c s hn ht hk => ?_, fun c s hn ht => ?_,
    fun c k s hn ht hk ha hc hN => ?_⟩, fun k s ht hen => ?_⟩
  · have pends := fun op hst hf hN => next_congr (State.cellCmd_pends (op := op) hn ht hst hf hk hN)
    have pendsFree := fun op (hop : op ∉ [1, 3]) hst hf => pends op hst hf (fun _ h => absurd h hop)
    exact ⟨fun hst hN => pends 1 hst rfl (fun ha _ => hN ha), fun hst => pendsFree 2 (by decide) hst rfl,
      fun hst hN => pends 3 hst rfl (fun ha _ => hN ha),
      fun hst => pendsFree 4 (by decide) (List.mem_singleton.2 hst) rfl,
      fun hst hf => pendsFree 5 (by decide) (List.mem_singleton.2 hst) (by simp [State.clearsReported, hf]),
      fun hst => pendsFree 6 (by decide) (List.mem_singleton.2 hst) rfl⟩
  · have range := fun op => next_congr (State.cellCmd_range (op := op) hg hn)
    exact ⟨range 1, range 2, range 3, range 4, range 5, range 6⟩
  · have notMember := fun op hst hf => next_congr (State.cellCmd_notMember (op := op) hn ht hst hf hk)
    exact ⟨fun hst => notMember 1 hst rfl, fun hst => notMember 2 hst rfl,
      fun hst => notMember 6 (List.mem_singleton.2 hst) rfl⟩
  · have badState := fun op h0 h7 h => next_congr (State.cellCmd_badState (op := op) hn ht h0 h7 h)
    exact ⟨fun h => badState 1 (by decide) (by decide) (.inl h), fun h => badState 2 (by decide) (by decide) (.inl h),
      fun h => badState 3 (by decide) (by decide) (.inl h),
      fun h => badState 4 (by decide) (by decide) (.inl (mt List.mem_singleton.1 h)),
      fun h => badState 5 (by decide) (by decide)
        (h.imp (mt List.mem_singleton.1) (fun hf => by simpa [State.clearsReported] using hf)),
      fun h => badState 6 (by decide) (by decide) (.inl (mt List.mem_singleton.1 h))⟩
  · have belowMin := fun op hst hf hop => next_congr (State.cellCmd_belowMin (op := op) hn ht hst hf hk
      ((s.takesActive_iff c.val op).2 ⟨ha, hop, hc⟩) hN)
    exact ⟨belowMin 1 (by simp [ha, cellOpStates]) rfl (by decide), belowMin 3 (by simp [ha, cellOpStates]) rfl (by decide)⟩
  · refine ⟨fun h => ?_, fun h => ?_, fun ha hN hp hs => ?_, fun ha => ?_, fun ha hN => ?_, fun ha hN hp => ?_, ?_,
      fun hs hc hu => ?_, fun h => ?_⟩
    · exact next_congr (State.stkCmd_precharge_idle ht hen h)
    · exact next_congr (State.stkCmd_precharge_refused ht hen h)
    · exact next_congr (State.stkCmd_run_pends ht hen ha hN hp hs)
    · exact next_congr (State.stkCmd_run_refused (c := (true, eARMED)) ht hen (by simp [State.runConds, ha]))
    · exact next_congr (State.stkCmd_run_refused (c := (true, gN_MIN)) ht hen (by simp [State.runConds, ha, hN]))
    · exact next_congr (State.stkCmd_run_refused (c := (true, gPCH_INCOMPLETE)) ht hen
        (by simp [State.runConds, ha, hp, Nat.not_lt.2 hN]))
    · exact next_congr (State.stkCmd_stop ht hen)
    · exact next_congr (State.stkCmd_unblock_clear ht hen hs hc hu)
    · exact next_congr (State.stkCmd_unblock_refused ht hen h)

end Sys2Proof.Machine
end

section
/-! The cells of a stack: a cell after a change of cells, the limits on its duty and its power command (R46, R56), and the
commands that report a gap, a bypass not confirmed and an overload (R61, R71–R73). -/

namespace Sys2Proof.Machine

/-! ### A cell after a change of a cell -/

theorem State.cell_modCell (s : State) (n m : Nat) (f : Cell → Cell) :
    (s.modCell n f).cell m = if m = n then f (s.cell n) else s.cell m := State.cell_setCell s n m _

theorem State.cell_modCell_self (s : State) (n : Nat) (f : Cell → Cell) : (s.modCell n f).cell n = f (s.cell n) := by
  rw [State.cell_modCell, if_pos rfl]

theorem State.cell_irq (s : State) (pg b n : Nat) : (s.irq pg b).cell n = s.cell n := rfl

/-- Changes of the cells of a list, each cell once. -/
theorem State.cell_each_modCell {l : List Nat} (hl : l.Nodup) (f : Nat → Cell → Cell) (s : State) (m : Nat) :
    (s.each l (fun s n => s.modCell n (f n))).cell m = if m ∈ l then f m (s.cell m) else s.cell m := by
  induction l generalizing s with
  | nil => rfl
  | cons a l ih =>
    obtain ⟨ha, hl⟩ := List.nodup_cons.1 hl
    refine (ih hl (s.modCell a (f a))).trans ?_
    rw [State.cell_modCell]
    by_cases h : m = a
    · subst h; simp [ha]
    · simp [h]

/-! ### Limits (R46, R56) -/

/-- A value limited to ±`l` lies within it. -/
theorem abs_clampR_le {l : Rat} (hl : 0 ≤ l) (x : Rat) : |clampR (-l) l x| ≤ l :=
  abs_le.2 ⟨le_max_left _ _, max_le (neg_le_self hl) (min_le_left _ _)⟩

/-- A value within ±`b` stays so when it is limited to ±`l`. -/
theorem abs_clampR_le_of {l b x : Rat} (hl : 0 ≤ l) (hx : |x| ≤ b) : |clampR (-l) l x| ≤ b := by
  have hb : 0 ≤ b := (abs_nonneg x).trans hx
  obtain ⟨hlo, hhi⟩ := abs_le.1 hx
  exact abs_le.2 ⟨le_max_of_le_right (le_min (by linarith) hlo), max_le (by linarith) ((min_le_right _ _).trans hhi)⟩

theorem State.pCont_nonneg (s : State) : 0 ≤ s.pCont := by unfold State.pCont; positivity

theorem State.pPeak_nonneg (s : State) : 0 ≤ s.pPeak := by unfold State.pPeak; positivity

theorem State.contLim_nonneg (s : State) (n : Nat) : 0 ≤ s.contLim n := by
  have := s.pCont_nonneg
  unfold State.contLim
  split <;> positivity

/-- The command of a cell under the limits of R56 without that of a DERATE fault: P_PEAK, and P_CONT once the overload time
has run. -/
def State.ovlPower (s : State) (n : Nat) : Rat :=
  if (s.cell n).ovlLimited then clampR (-s.pCont) s.pCont (clampR (-s.pPeak) s.pPeak (s.cell n).power)
  else clampR (-s.pPeak) s.pPeak (s.cell n).power

theorem State.abs_ovlPower_le_pPeak (s : State) (n : Nat) : |s.ovlPower n| ≤ s.pPeak := by
  have hpeak := abs_clampR_le s.pPeak_nonneg (s.cell n).power
  unfold State.ovlPower
  split
  · exact abs_clampR_le_of s.pCont_nonneg hpeak
  · exact hpeak

theorem State.abs_ovlPower_le_pCont {s : State} {n : Nat} (h : (s.cell n).ovlLimited = true) : |s.ovlPower n| ≤ s.pCont := by
  rw [State.ovlPower, if_pos h]
  exact abs_clampR_le s.pCont_nonneg _

/-- The limits of R56 on a cell's command, that of a DERATE fault last. -/
theorem State.limitCell_power (s : State) (n : Nat) : ((s.limitCell n).cell n).power =
    if s.derated n then clampR (-s.contLim n) (s.contLim n) (s.ovlPower n) else s.ovlPower n := by
  unfold State.limitCell State.ovlPower
  rw [State.cell_setCell, if_pos rfl]
  simp only [apply_ite Cell.ovlLimited, ite_self]

/-- What bounds the command before the limit of a DERATE fault bounds it after. -/
theorem State.abs_limitCell_le {s : State} {n : Nat} {b : Rat} (h : |s.ovlPower n| ≤ b) :
    |((s.limitCell n).cell n).power| ≤ b := by
  rw [State.limitCell_power]
  split
  · exact abs_clampR_le_of (s.contLim_nonneg n) h
  · exact h

/-- The duty put is limited to ±1, and SAT shows where the limit acts (R46). -/
theorem State.putDuty_duty (s : State) (k n : Nat) (d : Rat) : ((s.putDuty k n d).cell n).duty = clampR (-1) 1 d :=
  congrArg Cell.duty (State.cell_modCell_self _ n _)

theorem State.putDuty_sat {s : State} (k n : Nat) {d : Rat} (h : 1 < d ∨ d < -1) :
    (s.putDuty k n d).get (GRN.STK_STAT_SAT k) = 1 := by
  have hb : (decide (1 < d) || decide (d < -1)) = true := by simpa using h
  have hset : s.putDuty k n d = (s.set (GRN.STK_STAT_SAT k) 1).modCell n (fun c => { c with duty := clampR (-1) 1 d }) := by
    simp only [State.putDuty, State.iff, hb, if_true]
  rw [hset]
  exact s.get_set_self (GRN.STK_STAT_SAT k) 1 (by show 15 + 1 ≤ 32; decide)

/-! ### Gaps (R71–R73) -/

/-- Zeroing the positive commands of a stack changes cells alone. -/
theorem State.gapZero_regs (s : State) (k : Nat) : (s.gapZero k).regs = s.regs := by
  unfold State.gapZero
  split
  · refine State.each_same State.regs (fun _ _ => ?_) s
    rfl
  · rfl

theorem State.reg_gapZero (s : State) (k a : Nat) : (s.gapZero k).reg a = s.reg a := by
  rw [State.reg, State.gapZero_regs, State.reg]

/-- The state put in STK_STAT is the stack's. -/
theorem State.stkState_irq_set (s : State) (k b st : Nat) (hst : st < 8) :
    ((s.set (GRN.STK_STAT_STATE k) st).irq GRN.page b).stkState k = st := by
  have hne : (GRN.STK_STAT_STATE k).addr ≠ GRN.page + 0x14 := by show 0x401400F0 + 0x4 * k ≠ 0x40140014; omega
  rw [State.stkState, State.get_irq_of_ne _ _ _ _ hne,
    State.get_set_self _ _ _ (by show 12 + 3 ≤ 32; decide)]
  exact Nat.mod_eq_of_lt hst

theorem State.stkState_setStack (s : State) (k j : Nat) (c : Stack) : (s.setStack k c).stkState j = s.stkState j := rfl

section gap
variable {s : State} (hen : s.on GRN.GAP_CFG0_EN = true) (hk : s.on (GRN.STK_CFG_EN (s.get GRN.GAP_CFG0_STK)) = true)
include hen hk

/-- R72: the stack enters GAP, with its event, and STK_STAT and IRQ_RAW are all it changes of the registers. -/
theorem State.gapEnter_gap (hst : s.stkState (s.get GRN.GAP_CFG0_STK) = skRUN)
    (hrun : s.get GRN.GAP_CFG1_GAP_N ≤ (s.stack (s.get GRN.GAP_CFG0_STK)).gapLo) :
    s.gapEnter.stkState (s.get GRN.GAP_CFG0_STK) = skGAP ∧ s.gapEnter.raised GRN.page 4 ∧
      s.gapEnter.sameRegsBut s [GRN.STK_STAT (s.get GRN.GAP_CFG0_STK), HDR.IRQ_RAW GRN.page] := by
  have hgo : s.gapEnter = ((s.set (GRN.STK_STAT_STATE (s.get GRN.GAP_CFG0_STK)) skGAP).irq GRN.page 4).gapZero
      (s.get GRN.GAP_CFG0_STK) := if_pos (by simp [hen, hk, hst, hrun])
  rw [hgo]
  generalize s.get GRN.GAP_CFG0_STK = k
  refine ⟨?_, ?_, fun a ha => ?_⟩
  · rw [State.stkState, State.get_congr _ (State.reg_gapZero _ _ _)]
    exact s.stkState_irq_set k 4 skGAP (by decide)
  · rw [State.raised, State.reg_gapZero]
    exact State.raised_irq _ GRN.page 4 (by decide)
  · simp only [List.mem_cons, List.not_mem_nil, or_false, not_or] at ha
    rw [State.reg_gapZero, State.reg_irq, if_neg ha.2]
    exact s.reg_set_of_ne (GRN.STK_STAT_STATE k) _ ha.1

/-- R73: the stack returns to RUN, with its event, and this schedule keeps its front-end off. -/
theorem State.gapLeave_run (hst : s.stkState (s.get GRN.GAP_CFG0_STK) = skGAP)
    (hrun : s.get GRN.GAP_CFG1_RET_N ≤ (s.stack (s.get GRN.GAP_CFG0_STK)).gapHi) :
    s.gapLeave.stkState (s.get GRN.GAP_CFG0_STK) = skRUN ∧ s.gapLeave.raised GRN.page 5 ∧
      (s.gapLeave.stack (s.get GRN.GAP_CFG0_STK)).feOff = s.pidx + 1 := by
  have hgo : s.gapLeave = ((s.set (GRN.STK_STAT_STATE (s.get GRN.GAP_CFG0_STK)) skRUN).irq GRN.page 5).setStack
      (s.get GRN.GAP_CFG0_STK) { s.stack (s.get GRN.GAP_CFG0_STK) with feOff := s.pidx + 1 } :=
    if_pos (by simp [hen, hk, hst, hrun])
  rw [hgo, State.stack_setStack, if_pos rfl]
  generalize s.get GRN.GAP_CFG0_STK = k
  refine ⟨?_, ?_, rfl⟩
  · exact (State.stkState_setStack _ _ _ _).trans (s.stkState_irq_set k 5 skRUN (by decide))
  · exact State.raised_irq _ GRN.page 5 (by decide)

end gap

/-! ### The commands -/

theorem execBypFail_open {n : Fin 48} {t0 : Nat} {s : State} (ht : (s.cell n.val).bypSince = some t0)
    (hw : getBits (s.cell n.val).w3 12 2 ≠ 1) : execBypFail n s =
      .next (((s.advance (t0 + s.get GRN.SWAP_BYP_CONF * tMs)).modCell n
        (fun c => { c with bypFail := true, bypSince := none })).irq GRN.page 8) := by
  simp only [execBypFail, ht, beq_eq_false_iff_ne.2 hw, Bool.false_eq_true, if_false]

/-- Settles O18: gaps by what their condition leaves, the limits by the clamps they are made of. -/
theorem gapOverloadAndLimits : Obligations.GapOverloadAndLimits := by
  unfold Obligations.GapOverloadAndLimits
  refine ⟨⟨fun s hen hk hst hrun => ?_, fun s hen hk hst hrun => ?_, fun n t0 s ht hw => ?_, fun n s h => ?_, fun n s h => ?_,
    fun n s h => ?_⟩, fun s k n d => ?_, fun s n => ?_⟩
  · exact ⟨s.gapEnter, rfl, State.gapEnter_gap hen hk hst hrun⟩
  · exact ⟨s.gapLeave, rfl, State.gapLeave_run hen hk hst hrun⟩
  · refine ⟨_, execBypFail_open ht hw, ?_, State.raised_irq _ GRN.page 8 (by decide), (s.advance_now _).2⟩
    rw [State.cell_irq, State.cell_modCell_self]
  · refine ⟨_, if_pos h, ?_⟩
    rw [State.cell_modCell_self]
    obtain ⟨hlo, hhi⟩ := abs_le.1 (abs_clampR_le s.pCont_nonneg (s.cell n.val).power)
    exact ⟨rfl, hhi, hlo⟩
  · exact if_pos h
  · exact if_neg (Nat.not_le.2 h)
  · rw [State.putDuty_duty]
    obtain ⟨hlo, hhi⟩ := abs_le.1 (abs_clampR_le zero_le_one d)
    exact ⟨hlo, hhi, State.putDuty_sat k n⟩
  · obtain ⟨hlo, hhi⟩ := abs_le.1 (State.abs_limitCell_le (s.abs_ovlPower_le_pPeak n))
    exact ⟨hlo, hhi, fun h => abs_le.1 (State.abs_limitCell_le (State.abs_ovlPower_le_pCont h))⟩

end Sys2Proof.Machine
end

section
/-! The sharing of a stack's power command (R55) and its balancing trims (R51): each cell's part of the total, and the trims
less their mean weighted by the cells' voltages. -/

namespace Sys2Proof.Machine

/-! ### Sharing (R55) -/

section share
variable (s : State) (aOld aNew : List Nat)

/-- The command a cell brings to the sharing: that of its context, 0 where it has joined. -/
def State.shareBase (n : Nat) : Rat := if aOld.contains n || aOld == aNew then f32Rat (s.pub 3 n) else 0

/-- The part of the departed cells' commands that falls to each cell. -/
def State.sharePart : Rat :=
  if aOld == aNew || aNew.isEmpty then 0
  else ((aOld.map (fun n => f32Rat (s.pub 3 n))).sum - (aNew.map (s.shareBase aOld aNew)).sum) / (aNew.length : Rat)

theorem State.share_power {n : Nat} (h : n ∈ aNew) :
    ((s.share aOld aNew).cell n).power = s.shareBase aOld aNew n + s.sharePart aOld aNew := by
  have hshare : s.share aOld aNew = s.each aNew (fun t n => t.modCell n (fun c =>
      { c with power := s.shareBase aOld aNew n + s.sharePart aOld aNew, trickle := 0 })) := by
    simp only [State.share, State.sharePart, List.sum_eq_foldl]
    rfl
  rw [hshare]
  refine State.each_forall (P := fun n (t : State) => (t.cell n).power = s.shareBase aOld aNew n + s.sharePart aOld aNew)
    (fun t n _ => by rw [State.cell_modCell_self]) (fun t n _ m hm => ?_) s n h
  rw [State.cell_modCell]
  split
  · next he => rw [he]
  · exact hm

/-- What the cells bring and the parts that fall to them make up the total of the set before. -/
theorem State.shareBase_sum (h : aNew ≠ []) :
    (aNew.map (s.shareBase aOld aNew)).sum + aNew.length * s.sharePart aOld aNew =
      (aOld.map (fun n => f32Rat (s.pub 3 n))).sum := by
  have hlen : (aNew.length : Rat) ≠ 0 := by simpa using h
  by_cases he : aOld = aNew
  · subst he
    have hbase : s.shareBase aOld aOld = fun n => f32Rat (s.pub 3 n) := by
      funext n; simp [State.shareBase]
    simp [hbase, State.sharePart]
  · have hb : (aOld == aNew || aNew.isEmpty) = false := by simp [he, h]
    rw [State.sharePart, hb, if_neg Bool.false_ne_true]
    field_simp
    ring

end share

/-! ### Trims (R51) -/

/-- Amounts less their weighted mean have the weighted sum 0. -/
theorem sum_sub_mean_mul (l : List Nat) (t w : Nat → Rat) (hw : (l.map w).sum ≠ 0) :
    (l.map (fun n => (t n - (l.map (fun m => t m * w m)).sum / (l.map w).sum) * w n)).sum = 0 := by
  have hsplit : ∀ c : Rat, (l.map (fun n => (t n - c) * w n)).sum = (l.map (fun n => t n * w n)).sum - c * (l.map w).sum := by
    intro c
    clear hw
    induction l with
    | nil => simp
    | cons a l ih => simp only [List.map_cons, List.sum_cons, ih]; ring
  rw [hsplit, div_mul_cancel₀ _ hw, sub_self]

/-- The active set is a matter of the registers. -/
theorem State.activeOf_congr {s t : State} (h : t.regs = s.regs) (k : Nat) : t.activeOf k = s.activeOf k := by
  have hget : ∀ f, t.get f = s.get f := fun f => State.get_congr f (by rw [State.reg, h, State.reg])
  have hmem : t.isMember k = s.isMember k := by funext n; simp only [State.isMember, State.on, hget]
  simp only [State.activeOf, State.inState, State.members, State.cst, hget, hmem]

theorem State.activeOf_nodup (s : State) (k : Nat) : (s.activeOf k).Nodup :=
  (List.nodup_range.filter _).filter _

section net
variable (s : State) (k : Nat)

/-- The net effect of the trims of a stack: their mean weighted by the cells' voltages. -/
def State.netTrim : Rat :=
  ((s.activeOf k).map (fun n => (s.cell n).trim * ((s.cell n).v1 : Rat))).sum /
    ((s.activeOf k).map (fun n => ((s.cell n).v1 : Rat))).sum

/-- The second step of the trims: each cell's is less by their net effect. -/
def State.removeNet : State :=
  if ((s.activeOf k).map (fun n => ((s.cell n).v1 : Rat))).sum = 0 then s
  else s.each (s.activeOf k) (fun t n => t.modCell n (fun c => { c with trim := c.trim - s.netTrim k }))

theorem State.removeNet_sum (h : ((s.activeOf k).map (fun n => ((s.cell n).v1 : Rat))).sum ≠ 0) :
    ((s.activeOf k).map (fun n => ((s.removeNet k).cell n).trim * ((s.cell n).v1 : Rat))).sum = 0 := by
  have htrim : ∀ n ∈ s.activeOf k, ((s.removeNet k).cell n).trim = (s.cell n).trim - s.netTrim k := fun n hn => by
    rw [State.removeNet, if_neg h, State.cell_each_modCell (s.activeOf_nodup k)
      (fun _ c => { c with trim := c.trim - s.netTrim k }), if_pos hn]
  rw [List.map_congr_left fun n hn => by rw [htrim n hn]]
  exact sum_sub_mean_mul (s.activeOf k) (fun n => (s.cell n).trim) (fun n => ((s.cell n).v1 : Rat)) h

end net

section trims
variable (s : State) (k : Nat) (vb : Rat) (isg : Int)

/-- The trim of a cell before the net effect is removed. -/
def State.rawTrim (c : Cell) : Rat :=
  clampR (-((s.get GRN.BAL_TRIM_MAX : Rat) / 65536)) ((s.get GRN.BAL_TRIM_MAX : Rat) / 65536)
    ((s.get GRN.BAL_K_BAL : Rat) / 16777216 * (if c.trimOn then (vb - (c.v1 : Rat)) / 10 else 0) * (isg : Rat))

/-- The first step of the trims: each active cell has its own. -/
def State.rawTrims : State :=
  s.each (s.activeOf k) (fun t n => t.modCell n (fun c => { c with trim := s.rawTrim vb isg c }))

theorem State.trims_eq : s.trims k vb isg = (s.rawTrims k vb isg).removeNet k := by
  simp only [State.removeNet, State.netTrim, List.sum_eq_foldl]
  rfl

theorem State.rawTrims_activeOf : (s.rawTrims k vb isg).activeOf k = s.activeOf k := by
  refine State.activeOf_congr (State.each_same State.regs (fun _ _ => ?_) s) k
  rfl

theorem State.rawTrims_v1 (n : Nat) : ((s.rawTrims k vb isg).cell n).v1 = (s.cell n).v1 := by
  rw [State.rawTrims, State.cell_each_modCell (s.activeOf_nodup k) (fun _ c => { c with trim := s.rawTrim vb isg c })]
  split <;> rfl

theorem State.trims_sum (h : ((s.activeOf k).map (fun n => ((s.cell n).v1 : Rat))).sum ≠ 0) :
    ((s.activeOf k).map (fun n => ((s.trims k vb isg).cell n).trim * ((s.cell n).v1 : Rat))).sum = 0 := by
  have hnet := (s.rawTrims k vb isg).removeNet_sum k
  simp only [State.rawTrims_activeOf, State.rawTrims_v1, ← State.trims_eq] at hnet
  exact hnet h

end trims

/-- Settles O19: each cell's part of the total, and the trims less their weighted mean. -/
theorem sharingAndTrims : Obligations.SharingAndTrims := by
  unfold Obligations.SharingAndTrims
  refine ⟨fun s aOld aNew h => ?_, fun s k vb sg h => s.trims_sum k vb sg ?_⟩
  · rw [List.map_congr_left fun n hn => State.share_power s aOld aNew hn, List.sum_map_add, List.map_const',
      List.sum_replicate, nsmul_eq_mul]
    exact s.shareBase_sum aOld aNew h
  · have hcast : (((s.activeOf k).map (fun n => (s.cell n).v1)).sum : Rat) =
        ((s.activeOf k).map (fun n => ((s.cell n).v1 : Rat))).sum := by
      rw [Nat.cast_list_sum, List.map_map]
      rfl
    rw [← hcast]
    exact Nat.cast_ne_zero.2 h

end Sys2Proof.Machine
end

section
/-! Enabling, disabling and parameterising a cell of the solver (R97–R99, R101): what the write of one bit of EN_MAP asks for,
how the cell's request is answered, and a parameter block from its commit to the opening of the window. -/

namespace Sys2Proof.Machine

/-! ### The maps of the DSV page (R101) -/

section mapBit
variable {lo hi n m : Nat}

theorem mapBit_of_lt (h : n < 32) : mapBit lo hi n = ⟨lo, n, 1⟩ := if_pos h

theorem mapBit_of_ge (h : 32 ≤ n) : mapBit lo hi n = ⟨hi, n - 32, 1⟩ := if_neg (Nat.not_lt.2 h)

theorem mapBit_w : (mapBit lo hi n).w = 1 := by unfold mapBit; split <;> rfl

theorem mapBit_fits (h : n < 48) : (mapBit lo hi n).lo + (mapBit lo hi n).w ≤ 32 := by
  unfold mapBit; split <;> dsimp only <;> omega

/-- A map lies in its two registers only. -/
theorem mapBit_addr : (mapBit lo hi n).addr = lo ∨ (mapBit lo hi n).addr = hi := by
  unfold mapBit
  split
  · exact .inl rfl
  · exact .inr rfl

/-- Two cells have bits of their own. -/
theorem mapBit_apart (hr : lo ≠ hi) (h : n ≠ m) : (mapBit lo hi n).apart (mapBit lo hi m) := by
  unfold mapBit Fld.apart
  split <;> split <;> dsimp only <;> omega

end mapBit

/-- A bit of a map written for a cell reads as written. -/
theorem State.get_set_mapBit (s : State) (lo hi : Nat) {n : Nat} (hn : n < 48) (v : Nat) :
    (s.set (mapBit lo hi n) v).get (mapBit lo hi n) = v % 2 := by
  rw [State.get_set_self _ _ _ (mapBit_fits hn), mapBit_w, pow_one]

theorem dsvEn_addr (n : Nat) : (dsvEn n).addr = DSV.EN_MAP0 ∨ (dsvEn n).addr = DSV.EN_MAP1 := mapBit_addr

theorem dsvEn_apart {n m : Nat} (h : n ≠ m) : (dsvEn n).apart (dsvEn m) := mapBit_apart (by decide) h

theorem dsvPend_addr (n : Nat) : (dsvPend n).addr = DSV.PEND_MAP0 ∨ (dsvPend n).addr = DSV.PEND_MAP1 := mapBit_addr

theorem dsvPend_apart {n m : Nat} (h : n ≠ m) : (dsvPend n).apart (dsvPend m) := mapBit_apart (by decide) h

/-! ### What an enable writes beside EN_MAP -/

/-- The budget flag is no matter of EN_MAP. -/
theorem State.get_dsvOver (s : State) {g : Fld} (h : g.addr ≠ DSV.N_MAX) : s.dsvOver.get g = s.get g :=
  State.get_setB_apart _ _ _ _ (.inl (Ne.symm h))

theorem State.claim_set (s : State) (f : Fld) (v r : Nat) : (s.set f v).claim r = s.claim r := State.claim_congr rfl r

theorem State.claim_dsvOver (s : State) (r : Nat) : s.dsvOver.claim r = s.claim r := State.claim_congr rfl r

/-- A channel brought up to date shows its STAT.PEND again and changes no other register. -/
theorem State.get_chSync (s : State) (ch : Nat) {g : Fld} (h : g.addr ≠ MODCH.STAT ch) : (s.chSync ch).get g = s.get g :=
  State.get_setB_apart _ _ _ _ (.inl (Ne.symm h))

theorem dsvEn_addr_ne_chStat {n ch : Nat} (hch : ch < 96) : (dsvEn n).addr ≠ MODCH.STAT ch := by
  have hr : MODCH.STAT ch < DSV.page := by
    show 0x4011109C + 0x1000 * (ch / 8) + 0x20 * (ch % 8) < 0x40150000
    omega
  rcases dsvEn_addr n with h | h <;> rw [h] <;> intro he <;> rw [← he] at hr <;> exact absurd hr (by decide)

theorem dsvEn_addr_ne_nMax (n : Nat) : (dsvEn n).addr ≠ DSV.N_MAX := by
  rcases dsvEn_addr n with h | h <;> rw [h] <;> decide

/-! ### A write of EN_MAP (R97, R519) -/

/-- The cells of EN_MAP0 and EN_MAP1. -/
def dsvMapCells (m : Nat) : List Nat := if m = 0 then List.range 32 else (List.range 16).map (· + 32)

/-- The bit a word of EN_MAP0 or EN_MAP1 has for a cell. -/
def dsvMapWant (m : Nat) (val : Word) (n : Nat) : Bool := if m = 0 then val.getLsbD n else val.getLsbD (n - 32)

/-- The number of cells enabled after a write of a word that is carried out in full. -/
def State.dsvAfter (s : State) (m : Nat) (val : Word) : Nat :=
  ((List.range 48).filter (fun n => s.on (dsvEn n) && !(dsvMapCells m).contains n)).length
    + ((dsvMapCells m).filter (dsvMapWant m val)).length

/-- The cells whose bit a write would change. -/
def State.dsvChanged (s : State) (m : Nat) (val : Word) : List Nat :=
  (dsvMapCells m).filter (fun n => dsvMapWant m val n != s.on (dsvEn n))

theorem State.dsvEnWrite_eq (s : State) (m : Nat) (val : Word) : s.dsvEnWrite m val =
    s.judge DSV.page (0x44 + 4 * m)
      [((dsvMapCells m).any (fun n => dsvMapWant m val n && !s.on (dsvEn n))
        && decide (s.get DSV.N_MAX_N < s.dsvAfter m val), dBUDGET)]
      (fun s => (s.each (s.dsvChanged m val) (fun s n => s.dsvEnOne n (dsvMapWant m val n))).dsvOver) := rfl

/-- The register of EN_MAP a cell's bit is in. -/
def dsvHalf (n : Nat) : Nat := if n < 32 then 0 else 1

/-- The word of a cell's register of EN_MAP once its bit is written. -/
def State.dsvEnWord (s : State) (n : Nat) (b : Bool) : Word := (s.set (dsvEn n) b.toNat).reg (dsvEn n).addr

/-- A write of EN_MAP that changes one cell's bit at most. -/
def State.dsvEnBit (s : State) (n : Nat) (b : Bool) : State := s.dsvEnWrite (dsvHalf n) (s.dsvEnWord n b)

theorem State.dsvEnBit_eq (s : State) (n : Nat) (b : Bool) : s.dsvEnBit n b =
    if n < 32 then s.dsvEnWrite 0 (putBits (s.reg DSV.EN_MAP0) n 1 b.toNat)
    else s.dsvEnWrite 1 (putBits (s.reg DSV.EN_MAP1) (n - 32) 1 b.toNat) := by
  rw [State.dsvEnBit, State.dsvEnWord, State.set_eq, State.reg_setReg_self]
  unfold dsvHalf dsvEn mapBit
  split <;> rfl

theorem execDsvCellEnable_eq (n : Fin 48) (s : State) : execDsvCellEnable n s = .next (s.dsvEnBit n.val true) :=
  next_congr (s.dsvEnBit_eq n.val true).symm

theorem execDsvCellDisable_eq (n : Fin 48) (s : State) : execDsvCellDisable n s = .next (s.dsvEnBit n.val false) :=
  next_congr (s.dsvEnBit_eq n.val false).symm

/-- The offset of the register of EN_MAP a cell's bit is in. -/
theorem dsvHalf_ofs (n : Nat) : 0x44 + 4 * dsvHalf n = if n < 32 then 0x44 else 0x48 := by
  unfold dsvHalf; split <;> rfl

theorem mem_dsvMapCells {n x : Nat} : x ∈ dsvMapCells (dsvHalf n) ↔ x < 48 ∧ dsvHalf x = dsvHalf n := by
  unfold dsvMapCells dsvHalf
  by_cases hn : n < 32 <;> by_cases hx : x < 32 <;> simp [hn, hx]
  · omega
  · omega
  · exact ⟨fun ⟨a, ha, he⟩ => by omega, fun h => ⟨x - 32, by omega, by omega⟩⟩

theorem dsvMapCells_nodup (m : Nat) : (dsvMapCells m).Nodup := by
  unfold dsvMapCells
  split
  · exact List.nodup_range
  · exact List.nodup_range.map (add_left_injective 32)

theorem dsvEn_addr_eq (n : Nat) : (dsvEn n).addr = if dsvHalf n = 0 then DSV.EN_MAP0 else DSV.EN_MAP1 := by
  unfold dsvEn mapBit dsvHalf
  split <;> rfl

/-- The word of EN_MAP a state holds has a cell's bit where the cell is enabled. -/
theorem State.dsvMapWant_reg (t : State) (n : Nat) :
    dsvMapWant (dsvHalf n) (t.reg (dsvEn n).addr) n = t.on (dsvEn n) := by
  unfold dsvMapWant dsvHalf State.on State.get dsvEn
  by_cases h : n < 32
  · simp only [h, if_true, mapBit_of_lt h, getBits_one]
    cases (t.reg DSV.EN_MAP0).getLsbD n <;> rfl
  · simp only [h, if_false, one_ne_zero, mapBit_of_ge (Nat.not_lt.1 h), getBits_one]
    cases (t.reg DSV.EN_MAP1).getLsbD (n - 32) <;> rfl

section bit
variable {s : State} {n : Nat} {b : Bool} (hn : n < 48)
include hn

theorem mem_dsvMapCells_self : n ∈ dsvMapCells (dsvHalf n) := mem_dsvMapCells.2 ⟨hn, rfl⟩

/-- Of its register's cells, the word written has the new bit for the one cell and the present bits for the others. -/
theorem State.dsvMapWant_bit {x : Nat} (hx : x ∈ dsvMapCells (dsvHalf n)) :
    dsvMapWant (dsvHalf n) (s.dsvEnWord n b) x = if x = n then b else s.on (dsvEn x) := by
  obtain ⟨-, hhalf⟩ := mem_dsvMapCells.1 hx
  have haddr : (dsvEn n).addr = (dsvEn x).addr := by rw [dsvEn_addr_eq, dsvEn_addr_eq, hhalf]
  rw [State.dsvEnWord, haddr, ← hhalf, State.dsvMapWant_reg, State.on]
  split
  · next he =>
    rw [he, dsvEn, State.get_set_mapBit _ _ _ hn]
    cases b <;> rfl
  · next hne => rw [State.get_set_apart _ _ _ _ (dsvEn_apart (Ne.symm hne)), State.on]

variable (hold : s.on (dsvEn n) = !b)
include hold

/-- The cell's own bit is the one the write changes. -/
theorem State.dsvChanged_bit : s.dsvChanged (dsvHalf n) (s.dsvEnWord n b) = [n] := by
  have hone : s.dsvChanged (dsvHalf n) (s.dsvEnWord n b) = (dsvMapCells (dsvHalf n)).filter (· == n) := by
    refine List.filter_congr fun x hx => ?_
    rw [State.dsvMapWant_bit hn hx]
    by_cases he : x = n
    · rw [he, hold]; cases b <;> simp
    · simp [he]
  rw [hone, List.filter_beq, List.count_eq_one_of_mem (dsvMapCells_nodup _) (mem_dsvMapCells_self hn)]
  rfl

/-- Where nothing stands against the budget, the write is the one cell's request. -/
theorem State.dsvEnBit_run (ht : s.takes DSV.page)
    (hroom : b = true → s.dsvAfter (dsvHalf n) (s.dsvEnWord n b) ≤ s.get DSV.N_MAX_N) :
    s.dsvEnBit n b = (s.dsvEnOne n b).dsvOver := by
  have hwant : dsvMapWant (dsvHalf n) (s.dsvEnWord n b) n = b := by
    rw [State.dsvMapWant_bit hn (mem_dsvMapCells_self hn), if_pos rfl]
  rw [State.dsvEnBit, State.dsvEnWrite_eq, State.judge_takes ht, State.dsvChanged_bit hn hold]
  · show (s.dsvEnOne n (dsvMapWant (dsvHalf n) (s.dsvEnWord n b) n)).dsvOver = _
    rw [hwant]
  · intro c hc
    rw [List.mem_singleton.1 hc]
    cases b with
    | true => simp [hroom rfl]
    | false =>
      refine Bool.and_eq_false_imp.2 fun hany => ?_
      obtain ⟨x, hx, hset⟩ := List.any_eq_true.1 hany
      rw [State.dsvMapWant_bit hn hx] at hset
      by_cases he : x = n <;> simp [he] at hset

end bit

/-- One more item satisfies a test that differs in that item only. -/
theorem countP_eq_succ {l : List Nat} {n : Nat} {p q : Nat → Bool} (hl : l.Nodup) (hn : n ∈ l) (hp : p n = false)
    (hq : q n = true) (h : ∀ x ∈ l, x ≠ n → q x = p x) : l.countP q = l.countP p + 1 := by
  have hperm := List.perm_cons_erase hn
  have hrest : (l.erase n).countP q = (l.erase n).countP p := List.countP_congr fun x hx => by
    rw [h x (List.mem_of_mem_erase hx) ((hl.mem_erase_iff.1 hx).1)]
  rw [hperm.countP_eq, hperm.countP_eq, List.countP_cons_of_pos hq, hrest, List.countP_cons_of_neg (by simp [hp])]

/-- An enable adds one cell to those that are enabled. -/
theorem State.dsvAfter_enable {s : State} {n : Nat} (hn : n < 48) (hoff : s.on (dsvEn n) = false) :
    s.dsvAfter (dsvHalf n) (s.dsvEnWord n true) = s.dsvCount + 1 := by
  have hmine : (List.range 48).filter (fun x => (dsvMapCells (dsvHalf n)).contains x) = dsvMapCells (dsvHalf n) := by
    unfold dsvHalf; split <;> decide
  have hsplit := List.countP_eq_countP_filter_add (List.range 48) (fun x => s.on (dsvEn x))
    (fun x => (dsvMapCells (dsvHalf n)).contains x)
  rw [hmine] at hsplit
  have hown : (dsvMapCells (dsvHalf n)).countP (dsvMapWant (dsvHalf n) (s.dsvEnWord n true)) =
      (dsvMapCells (dsvHalf n)).countP (fun x => s.on (dsvEn x)) + 1 := by
    refine countP_eq_succ (dsvMapCells_nodup _) (mem_dsvMapCells_self hn) hoff ?_ fun x hx hne => ?_
    · rw [State.dsvMapWant_bit hn (mem_dsvMapCells_self hn), if_pos rfl]
    · rw [State.dsvMapWant_bit hn hx, if_neg hne]
  simp only [List.countP_eq_length_filter, List.filter_filter] at hsplit hown
  rw [State.dsvAfter, State.dsvCount, hsplit, hown]
  omega

theorem State.dsvEnBit_budget {s : State} {n : Nat} (hn : n < 48) (hoff : s.on (dsvEn n) = false) (ht : s.takes DSV.page)
    (hfull : s.get DSV.N_MAX_N ≤ s.dsvCount) :
    s.dsvEnBit n true = s.refuse DSV.page (if n < 32 then 0x44 else 0x48) dBUDGET := by
  have hany : (dsvMapCells (dsvHalf n)).any (fun x => dsvMapWant (dsvHalf n) (s.dsvEnWord n true) x && !s.on (dsvEn x)) =
      true := by
    refine List.any_eq_true.2 ⟨n, mem_dsvMapCells_self hn, ?_⟩
    rw [State.dsvMapWant_bit hn (mem_dsvMapCells_self hn), if_pos rfl, hoff]
    rfl
  rw [State.dsvEnBit, State.dsvEnWrite_eq, hany, State.dsvAfter_enable hn hoff, dsvHalf_ofs,
    decide_eq_true (Nat.lt_succ_of_le hfull)]
  exact State.judge_first (c := (true, dBUDGET)) ht rfl (by decide)

/-! ### The request of one cell (R98) -/

section request
variable {s : State} {n : Nat}

/-- A member of an enabled stack: its DAB channel is the stack's, and its parameters alone are checked. -/
theorem State.dsvEnOne_member (hk : (s.stackOf n).isSome) : s.dsvEnOne n true =
    s.judge DSV.page (if n < 32 then 0x44 else 0x48) [((parOf (s.parWords n)).bad, dPARAM)]
      (fun s => s.set (dsvEn n) 1) := by
  obtain ⟨k, hk⟩ := Option.isSome_iff_exists.1 hk
  simp only [State.dsvEnOne, if_true, hk]

/-- A cell of no enabled stack whose DAB channel is free. -/
theorem State.dsvEnOne_free (hk : s.stackOf n = none) (hc : s.claimable (resKey 1 (2 * n + 1)) 3 n = true) :
    s.dsvEnOne n true = s.judge DSV.page (if n < 32 then 0x44 else 0x48) [((parOf (s.parWords n)).bad, dPARAM)]
      (fun s => ((s.chSync (2 * n + 1)).takeClaim (resKey 1 (2 * n + 1)) 3 n).set (dsvEn n) 1) := by
  simp only [State.dsvEnOne, if_true, hk, hc, Bool.not_true, Bool.false_eq_true, if_false]

/-- A cell of no enabled stack whose DAB channel another function owns. -/
theorem State.dsvEnOne_denied (hk : s.stackOf n = none) (hc : s.claimable (resKey 1 (2 * n + 1)) 3 n = false) :
    s.dsvEnOne n true = s.deny DSV.page (if n < 32 then 0x44 else 0x48) (resKey 1 (2 * n + 1)) 3 n := by
  simp only [State.dsvEnOne, if_true, hk, hc, Bool.not_false]

theorem State.dsvEnOne_disable : s.dsvEnOne n false = s.judge DSV.page (if n < 32 then 0x44 else 0x48)
    [((s.stackOf n).isSome && s.cst n ∈ [ckACTIVE, ckCHARGING, ckSPARE], dSTATE)]
    (fun s => ((s.chSync (2 * n + 1)).set (dsvEn n) 0).release (resKey 1 (2 * n + 1)) 3 n) := rfl

end request

/-- Within the budget an enable is the cell's request. -/
theorem execDsvCellEnable_request {n : Fin 48} {s : State} (ht : s.takes DSV.page) (hoff : s.get (dsvEn n.val) = 0)
    (hroom : s.dsvCount < s.get DSV.N_MAX_N) : execDsvCellEnable n s = .next (s.dsvEnOne n.val true).dsvOver := by
  have hoff := State.on_of_get_zero hoff
  rw [execDsvCellEnable_eq, State.dsvEnBit_run n.isLt hoff ht fun _ => (State.dsvAfter_enable n.isLt hoff).trans_le hroom]

/-- An enable beyond the budget is refused as a whole (R97). -/
theorem execDsvCellEnable_budget {n : Fin 48} {s : State} (ht : s.takes DSV.page) (hoff : s.get (dsvEn n.val) = 0)
    (hfull : s.get DSV.N_MAX_N ≤ s.dsvCount) :
    execDsvCellEnable n s = .next (s.refuse DSV.page (if n.val < 32 then 0x44 else 0x48) dBUDGET) := by
  rw [execDsvCellEnable_eq, State.dsvEnBit_budget n.isLt (State.on_of_get_zero hoff) ht hfull]

/-- A disable is the cell's request, whatever the budget. -/
theorem execDsvCellDisable_request {n : Fin 48} {s : State} (ht : s.takes DSV.page) (hon : s.get (dsvEn n.val) = 1) :
    execDsvCellDisable n s = .next (s.dsvEnOne n.val false).dsvOver := by
  rw [execDsvCellDisable_eq, State.dsvEnBit_run n.isLt (State.on_of_get_one hon) ht (fun h => absurd h Bool.false_ne_true)]

section claimed
variable (s : State) (n : Nat)

/-- The state a cell enabled with a claim of its own leaves. -/
def State.dsvClaimed : State :=
  (((s.chSync (2 * n + 1)).takeClaim (resKey 1 (2 * n + 1)) 3 n).set (dsvEn n) 1).dsvOver

theorem State.claim_dsvClaimed : ((s.dsvClaimed n).claim (resKey 1 (2 * n + 1))).cls = 3 ∧
    ((s.dsvClaimed n).claim (resKey 1 (2 * n + 1))).inst = n := by
  rw [State.dsvClaimed, State.claim_dsvOver, State.claim_set, State.claim_takeClaim, if_pos rfl]
  exact ⟨rfl, rfl⟩

theorem State.get_dsvClaimed_self {n : Nat} (hn : n < 48) : (s.dsvClaimed n).get (dsvEn n) = 1 := by
  rw [State.dsvClaimed, State.get_dsvOver _ (dsvEn_addr_ne_nMax n), dsvEn, State.get_set_mapBit _ _ _ hn]

/-- Enabling a cell enables and disables no other. -/
theorem State.get_dsvClaimed_of_ne {n m : Nat} (hn : n < 48) (h : m ≠ n) :
    (s.dsvClaimed n).get (dsvEn m) = s.get (dsvEn m) := by
  rw [State.dsvClaimed, State.get_dsvOver _ (dsvEn_addr_ne_nMax m), State.get_set_apart _ _ _ _ (dsvEn_apart (Ne.symm h)),
    State.get_takeClaim, State.get_chSync _ _ (dsvEn_addr_ne_chStat (by omega))]

end claimed

/-! ### A commit (R99) -/

section commit
variable {s : State} {c : Nat}

/-- The words staged for a commit, as its checks and the pending slot take them. -/
def State.parStaged (s : State) : List Word :=
  (List.range 8).map (fun i => if i < 6 then s.reg (DSV.PAR_STAGE0 + 4 * i) else 0)

/-- The state a commit leaves that is not refused. -/
def State.parPended (s : State) (c : Nat) : State :=
  (s.setDsv c { s.dsv c with pend := some s.parStaged }).set (dsvPend c) 1

theorem State.parCommit_eq (s : State) (c : Nat) : s.parCommit c =
    s.judge DSV.page 0x68 [(decide (48 ≤ c) || (parOf s.parStaged).bad, eRANGE)]
      (fun t => (t.setDsv c { t.dsv c with pend := some s.parStaged }).set (dsvPend c) 1) := rfl

theorem State.parCommit_run (ht : s.takes DSV.page) (hc : c < 48) (hp : (parOf s.parStaged).bad = false) :
    s.parCommit c = s.parPended c :=
  (s.parCommit_eq c).trans (State.judge_takes ht (by simp [hc, hp]))

theorem State.parCommit_range (hg : s.pageGated DSV.page = false) (hbad : 48 ≤ c ∨ (parOf s.parStaged).bad = true) :
    s.parCommit c = s.refuse DSV.page 0x68 eRANGE :=
  (s.parCommit_eq c).trans (State.judge_range hg (by simpa using hbad) (by simp))

theorem State.dsv_set (s : State) (f : Fld) (v m : Nat) : (s.set f v).dsv m = s.dsv m := rfl

theorem State.get_parPended (s : State) (hc : c < 48) : (s.parPended c).get (dsvPend c) = 1 :=
  State.get_set_mapBit _ _ _ hc 1

theorem State.dsv_parPended (s : State) (c m : Nat) : (s.parPended c).dsv m =
    if m = c then { s.dsv c with pend := some s.parStaged } else s.dsv m := by
  rw [State.parPended, State.dsv_set, State.dsv_setDsv]

end commit

/-! ### The opening of the window (R99) -/

/-- The active blocks stand above the page's other registers but the results. -/
theorem ne_parCopyAddr {a : Nat} (h : a < DSV.PAR_COPY 0) (i : Nat) : a ≠ DSV.PAR_COPY i :=
  (h.trans_le (Nat.add_le_add_left (Nat.mul_le_mul_left 4 i.zero_le) 0x40150200)).ne

theorem parCopyAddr_inj {i j : Nat} (h : DSV.PAR_COPY i = DSV.PAR_COPY j) : i = j :=
  Nat.eq_of_mul_eq_mul_left (by decide) (Nat.add_left_cancel h)

theorem dsvPend_addr_below (n : Nat) : (dsvPend n).addr < DSV.PAR_COPY 0 := by
  rcases dsvPend_addr n with h | h <;> rw [h] <;> decide

theorem dsvPend_addr_ne_irq (n : Nat) : (dsvPend n).addr ≠ DSV.page + 0x14 := by
  rcases dsvPend_addr n with h | h <;> rw [h] <;> decide

/-- A state with words copied into the active block of a cell. -/
def State.parCopy (s : State) (n : Nat) (ws : List Word) : State :=
  s.each ws.zipIdx (fun s p => s.setReg (DSV.PAR_COPY (8 * n + p.2)) p.1)

theorem State.dsv_parCopy (s : State) (n : Nat) (ws : List Word) (m : Nat) : (s.parCopy n ws).dsv m = s.dsv m :=
  State.each_same (f := fun s (p : Word × Nat) => s.setReg (DSV.PAR_COPY (8 * n + p.2)) p.1) (fun t => t.dsv m)
    (fun _ _ => rfl) s

theorem State.reg_parCopy_below (s : State) (n : Nat) (ws : List Word) {a : Nat} (ha : a < DSV.PAR_COPY 0) :
    (s.parCopy n ws).reg a = s.reg a :=
  State.each_same (fun t => t.reg a) (fun t _ => t.reg_setReg_of_ne _ (ne_parCopyAddr ha _)) s

/-- Each word of the active block is the word copied to it. -/
theorem State.reg_parCopy (s : State) (n : Nat) (ws : List Word) {w : Nat} (hw : w < ws.length) :
    (s.parCopy n ws).reg (DSV.PAR_COPY (8 * n + w)) = ws.getD w 0 := by
  have hall := State.each_forall (l := ws.zipIdx) (f := fun s p => s.setReg (DSV.PAR_COPY (8 * n + p.2)) p.1)
    (P := fun p (t : State) => ws[p.2]? = some p.1 → t.reg (DSV.PAR_COPY (8 * n + p.2)) = p.1)
    (fun t p _ _ => t.reg_setReg_self _ _) (fun t p hp q hq hmem => ?_) s
  · have hget := List.getElem?_eq_getElem hw
    rw [List.getD_eq_getElem _ _ hw]
    exact hall (ws[w], w) (List.mem_zipIdx_iff_getElem?.2 hget) hget
  · rw [State.reg_setReg]
    split
    · next he =>
      have hidx : q.2 = p.2 := Nat.add_left_cancel (parCopyAddr_inj he)
      have hpw := List.mem_zipIdx_iff_getElem?.1 hp
      rw [hidx, hpw] at hmem
      exact Option.some.inj hmem
    · exact hq hmem

/-- What the opening of the window does for one cell. -/
def State.parApplyOne (s : State) (n : Nat) : State :=
  match (s.dsv n).pend with
  | none => s
  | some ws =>
    (((s.parCopy n ws).setDsv n { (s.parCopy n ws).dsv n with pend := none }).set (dsvPend n) 0).irq DSV.page 4

theorem State.parApply_eq (s : State) : s.parApply = s.each (List.range 48) State.parApplyOne := rfl

/-- The parameters of a cell wait no longer, and the event is raised. -/
def State.parApplied (t : State) (n : Nat) : Prop :=
  (t.dsv n).pend = none ∧ t.get (dsvPend n) = 0 ∧ t.raised DSV.page 4

section apply
variable {s : State} {n m : Nat} {ws : List Word}

theorem State.parApplyOne_none (h : (s.dsv n).pend = none) : s.parApplyOne n = s := by
  simp only [State.parApplyOne, h]

theorem State.parApplyOne_some (h : (s.dsv n).pend = some ws) : s.parApplyOne n =
    (((s.parCopy n ws).setDsv n { (s.parCopy n ws).dsv n with pend := none }).set (dsvPend n) 0).irq DSV.page 4 := by
  simp only [State.parApplyOne, h]

theorem State.dsv_irq (s : State) (pg b m : Nat) : (s.irq pg b).dsv m = s.dsv m := rfl

theorem State.dsv_parApplyOne_of_ne (s : State) (h : m ≠ n) : (s.parApplyOne n).dsv m = s.dsv m := by
  cases hp : (s.dsv n).pend with
  | none => rw [State.parApplyOne_none hp]
  | some ws => rw [State.parApplyOne_some hp, State.dsv_irq, State.dsv_set, State.dsv_setDsv, if_neg h, State.dsv_parCopy]

theorem State.dsv_parApplyOne_self (s : State) (n : Nat) : ((s.parApplyOne n).dsv n).pend = none := by
  cases hp : (s.dsv n).pend with
  | none => rw [State.parApplyOne_none hp]; exact hp
  | some ws => rw [State.parApplyOne_some hp, State.dsv_irq, State.dsv_set, State.dsv_setDsv, if_pos rfl]

/-- The active block of a cell whose parameters wait takes them. -/
theorem State.reg_parApplyOne (h : (s.dsv n).pend = some ws) {w : Nat} (hw : w < ws.length) :
    (s.parApplyOne n).reg (DSV.PAR_COPY (8 * n + w)) = ws.getD w 0 := by
  have hirq : DSV.PAR_COPY (8 * n + w) ≠ DSV.page + 0x14 := (ne_parCopyAddr (by decide) _).symm
  rw [State.parApplyOne_some h, State.reg_irq, if_neg hirq,
    State.reg_set_of_ne _ _ _ (ne_parCopyAddr (dsvPend_addr_below n) _).symm]
  exact s.reg_parCopy n ws hw

theorem State.parApplyOne_applies (hn : n < 48) (h : (s.dsv n).pend = some ws) : (s.parApplyOne n).parApplied n := by
  refine ⟨s.dsv_parApplyOne_self n, ?_, ?_⟩
  · rw [State.parApplyOne_some h, State.get_irq_of_ne _ _ _ _ (dsvPend_addr_ne_irq n)]
    exact State.get_set_mapBit _ _ _ hn 0
  · rw [State.parApplyOne_some h]
    exact State.raised_irq _ _ _ (by decide)

/-- What another cell takes over undoes nothing of it. -/
theorem State.parApplied_parApplyOne (m : Nat) (h : s.parApplied n) : (s.parApplyOne m).parApplied n := by
  obtain ⟨hpend, hbit, hraised⟩ := h
  cases hp : (s.dsv m).pend with
  | none => rw [State.parApplyOne_none hp]; exact ⟨hpend, hbit, hraised⟩
  | some ws =>
    have hne : n ≠ m := by rintro rfl; rw [hp] at hpend; cases hpend
    refine ⟨by rw [s.dsv_parApplyOne_of_ne hne]; exact hpend, ?_, ?_⟩
    · rw [State.parApplyOne_some hp, State.get_irq_of_ne _ _ _ _ (dsvPend_addr_ne_irq n),
        State.get_set_apart _ _ _ _ (dsvPend_apart hne.symm)]
      exact (State.get_congr _ (s.reg_parCopy_below m ws (dsvPend_addr_below n))).trans hbit
    · rw [State.parApplyOne_some hp]
      exact State.raised_irq _ _ _ (by decide)

end apply

theorem State.each_parApplyOne_none {s : State} {l : List Nat} (h : ∀ m ∈ l, (s.dsv m).pend = none) :
    s.each l State.parApplyOne = s :=
  List.foldlRecOn l _ (motive := fun (t : State) => t = s) rfl fun t ht m hm => by
    rw [ht]; exact State.parApplyOne_none (h m hm)

theorem State.dsv_each_parApplyOne {l : List Nat} {n : Nat} (h : n ∉ l) (s : State) :
    (s.each l State.parApplyOne).dsv n = s.dsv n :=
  List.foldlRecOn l _ (motive := fun (t : State) => t.dsv n = s.dsv n) rfl fun t ht _ hm =>
    (t.dsv_parApplyOne_of_ne (ne_of_mem_of_not_mem hm h).symm).trans ht

/-- The opening of the window, seen from one cell: those before it, the cell itself, those after it. -/
theorem State.parApply_split (s : State) {n : Nat} (hn : n < 48) : ∃ before after : List Nat, n ∉ before ∧
    (∀ m ∈ before ++ after, m < 48) ∧
    s.parApply = ((s.each before State.parApplyOne).parApplyOne n).each after State.parApplyOne := by
  obtain ⟨before, after, hl, hnot⟩ := List.eq_append_cons_of_mem (List.mem_range.2 hn)
  refine ⟨before, after, hnot, fun m hm => List.mem_range.1 ?_, ?_⟩
  · rw [hl]
    exact List.mem_append.2 ((List.mem_append.1 hm).imp_right (List.mem_cons_of_mem n))
  · rw [State.parApply_eq, hl]
    exact List.foldl_append

section opening
variable {s : State} {n : Nat} (hn : n < 48)
include hn

theorem State.parApply_applies {ws : List Word} (h : (s.dsv n).pend = some ws) : s.parApply.parApplied n := by
  obtain ⟨before, after, hnot, -, he⟩ := s.parApply_split hn
  rw [he]
  exact State.foldl_keeps (P := fun t => t.parApplied n) _ after (fun t m => State.parApplied_parApplyOne m)
    (State.parApplyOne_applies hn ((congrArg Dsv.pend (State.dsv_each_parApplyOne hnot s)).trans h))

/-- Where one cell's parameters wait, the opening of the window is that cell's. -/
theorem State.parApply_one (hrest : ∀ m, m < 48 → m ≠ n → (s.dsv m).pend = none) : s.parApply = s.parApplyOne n := by
  obtain ⟨before, after, hnot, hlt, he⟩ := s.parApply_split hn
  rw [he, State.each_parApplyOne_none fun m hm => hrest m (hlt m (List.mem_append_left _ hm)) fun hmn => hnot (hmn ▸ hm)]
  refine State.each_parApplyOne_none fun m hm => ?_
  by_cases hmn : m = n
  · rw [hmn]; exact s.dsv_parApplyOne_self n
  · rw [s.dsv_parApplyOne_of_ne hmn]; exact hrest m (hlt m (List.mem_append_right _ hm)) hmn

end opening

/-! ### The statement -/

/-- Settles O20: a write of one bit of EN_MAP as the request of its cell, a commit as the judgement of the staged words, the
opening of the window as what it does for the one cell. -/
theorem solverCellsAndParameters : Obligations.SolverCellsAndParameters := by
  unfold Obligations.SolverCellsAndParameters
  refine ⟨⟨fun n s ht hoff => ⟨fun hroom => ?_, execDsvCellEnable_budget ht hoff⟩, fun n s ht hon => ?_⟩,
    fun c s ht hc hp => ?_, fun c s hg hbad => next_congr (State.parCommit_range hg hbad), fun n ws s hn hp hlen => ?_,
    fun s h => next_congr (State.each_parApplyOne_none fun m hm => h m (List.mem_range.1 hm))⟩
  · rw [show exec (.dsvCellEnable n) s = _ from execDsvCellEnable_request ht hoff hroom]
    refine ⟨fun hk hc hp => ?_, fun hk hp => ?_, fun hk hc => ?_, fun hk hp => ?_⟩
    · obtain ⟨hcls, hinst⟩ := s.claim_dsvClaimed n.val
      refine ⟨s.dsvClaimed n.val, ?_, s.get_dsvClaimed_self n.isLt, hcls, hinst, fun m _ => s.get_dsvClaimed_of_ne n.isLt⟩
      rw [State.dsvEnOne_free hk hc, State.judge_takes ht (by simp [hp]), State.dsvClaimed]
    · rw [State.dsvEnOne_member hk, State.judge_takes ht (by simp [hp])]
    · rw [State.dsvEnOne_denied hk hc]
    · rw [State.dsvEnOne_member hk, hp, State.judge_first (c := (true, dPARAM)) ht rfl (by decide)]
  · rw [show exec (.dsvCellDisable n) s = _ from execDsvCellDisable_request ht hon, State.dsvEnOne_disable]
    refine ⟨fun hfree => ?_, fun hk hst => ?_⟩
    · have hclear : ((s.stackOf n.val).isSome && decide (s.cst n.val ∈ [ckACTIVE, ckCHARGING, ckSPARE])) = false := by
        rcases hfree with hk | hst
        · rw [hk]; rfl
        · rw [decide_eq_false hst, Bool.and_false]
      rw [hclear, State.judge_takes ht (by simp)]
    · rw [hk, decide_eq_true hst, State.judge_first (c := (true, dSTATE)) ht rfl (by decide)]
  · refine ⟨s.parPended c.val, next_congr (State.parCommit_run ht hc hp), s.get_parPended hc, ?_, fun m hm => ?_⟩
    · rw [State.dsv_parPended, if_pos rfl]; rfl
    · rw [State.dsv_parPended, if_neg hm]
  · obtain ⟨hpend, hbit, hraised⟩ := State.parApply_applies hn hp
    refine ⟨s.parApply, rfl, hpend, hbit, hraised, fun hrest w hw => ?_⟩
    rw [State.parApply_one hn hrest, State.reg_parApplyOne hp (hlen ▸ hw)]

end Sys2Proof.Machine
end

section
/-! The command lines of a local leg (R133, R134): the conditions of the table in their order. -/

namespace Sys2Proof.Machine

/-- No condition above the leg's own rows of R133's table applies: the stage is ARMED, no latch covers the leg, and no halt
reaction stands. -/
structure State.legFree (s : State) (k : Nat) : Prop where
  armed : s.armed = true
  hiz : s.hizLegs.testBit k = false
  asc : s.ascLegs.testBit k = false
  halt : s.haltMode = 0

section legCode
variable {s : State} {k : Nat}

theorem State.legCode_off (h : s.armed = false ∨ s.hizLegs.testBit k = true) : s.legCode k = 2 := by
  rcases h with h | h <;> simp [State.legCode, h]

section unlatched
variable (ha : s.armed = true) (hh : s.hizLegs.testBit k = false)
include ha hh

theorem State.legCode_asc (hl : s.ascLegs.testBit k = true) : s.legCode k = 3 := by
  simp [State.legCode, ha, hh, hl]

theorem State.legCode_safe (hl : s.ascLegs.testBit k = false) (hm : s.haltMode = 1) : s.legCode k = 4 := by
  simp [State.legCode, ha, hh, hl, hm]

theorem State.legCode_frozen (hl : s.ascLegs.testBit k = false) (hm : s.haltMode = 2) : s.legCode k = 5 := by
  simp [State.legCode, ha, hh, hl, hm]

end unlatched

theorem State.legCode_blocked (h : s.legFree k) (hb : s.legBlk.testBit k = true) : s.legCode k = 6 := by
  simp [State.legCode, h.armed, h.hiz, h.asc, h.halt, hb]

theorem State.legCode_idle (h : s.legFree k) (hb : s.legBlk.testBit k = false)
    (hw : (s.chan (96 + k)).act.mode = 0 ∨ s.legWait.testBit k = true) : s.legCode k = 1 := by
  rcases hw with hw | hw <;> simp [State.legCode, h.armed, h.hiz, h.asc, h.halt, hb, hw]

theorem State.legCode_modulated (h : s.legFree k) (hb : s.legBlk.testBit k = false) (hm : (s.chan (96 + k)).act.mode ≠ 0)
    (hw : s.legWait.testBit k = false) (he : s.get (LPW.CFG_EN k) = 1) : s.legCode k = 0 := by
  simp [State.legCode, h.armed, h.hiz, h.asc, h.halt, hb, hm, hw, State.on_of_get_one he]

end legCode

/-- Settles O26: the rows of the table in their order, a latch before a halt reaction before the leg's own conditions. -/
theorem outputPrecedence : Obligations.OutputPrecedence := by
  unfold Obligations.OutputPrecedence
  intro s k _
  refine ⟨State.legCode_off, State.legCode_asc, State.legCode_safe, State.legCode_frozen, fun ha hh hl hm => ?_⟩
  have hfree : s.legFree k := ⟨ha, hh, hl, hm⟩
  exact ⟨State.legCode_blocked hfree, State.legCode_idle hfree, State.legCode_modulated hfree⟩

end Sys2Proof.Machine
end

section
/-! Carriers (R107, R110, R112) and a host write to a cell channel's PRD (R107, R114, R123): where the events of a carrier
lie, what a carrier event's command does, and the three outcomes of the write. -/

namespace Sys2Proof.Machine

/-! ### The events of a carrier (R107, R110) -/

/-- A carrier period that has begun by a tick ends after it. -/
theorem Chan.lt_valleyAt_end (c : Chan) (t : Int) (hp : 0 < c.act.prd) :
    t < (c.valleyAt t).1 + (c.valleyAt t).2 := by
  unfold Chan.valleyAt
  extract_lets p v1
  have hp : 0 < p := by omega
  split
  · have := Int.mul_ediv_self_le (x := c.v0 - t + p - 1) hp.ne'
    dsimp only; omega
  split
  · dsimp only; omega
  · have := Int.lt_mul_ediv_self_add (x := t - v1) hp
    dsimp only; omega

/-- The events of a carrier follow one another strictly in time. -/
theorem Chan.lt_nextEvent (c : Chan) (x : Int) (hp : 0 < c.act.prd) : x < (c.nextEvent x).1 := by
  have h := c.lt_valleyAt_end (x / 16) hp
  unfold Chan.nextEvent
  dsimp only
  split
  · assumption
  · dsimp only; omega

/-- The lengthening of a carrier period lies in (−PRD, PRD] (R110). -/
theorem reGrid_bounds {prd : Int} (hp : 0 < prd) (phase v : Int) :
    -prd < reGrid prd phase v ∧ reGrid prd phase v ≤ prd := by
  have hlo := Int.emod_nonneg (phase - v) (by omega : 2 * prd ≠ 0)
  have hhi := Int.emod_lt_of_pos (phase - v) (by omega : 0 < 2 * prd)
  unfold reGrid
  dsimp only
  split <;> omega

/-- The lengthened period ends on the grid (R110). -/
theorem reGrid_onGrid (prd phase v : Int) : (v + reGrid prd phase v - phase) % (2 * prd) = 0 := by
  have hdvd : 2 * prd ∣ v + (phase - v) % (2 * prd) - phase :=
    ⟨-((phase - v) / (2 * prd)), by have := Int.mul_ediv_add_emod (phase - v) (2 * prd); rw [mul_neg]; omega⟩
  unfold reGrid
  dsimp only
  split
  · refine Int.emod_eq_zero_of_dvd ?_
    rw [show v + ((phase - v) % (2 * prd) - 2 * prd) - phase = v + (phase - v) % (2 * prd) - phase - 2 * prd by omega]
    exact Int.dvd_sub hdvd (Int.dvd_refl _)
  · exact Int.emod_eq_zero_of_dvd hdvd

/-! ### A carrier event's command (R107, R112) -/

/-- The valley or the peak the command moves the clock to: the next event where it is of that kind, or else the one after. -/
def Chan.eventOf (c : Chan) (x : Int) (valley : Bool) : Int :=
  if (c.nextEvent x).2 = valley then (c.nextEvent x).1 else (c.nextEvent (c.nextEvent x).1).1

theorem exec_carrier (ch : Fin 108) (valley : Bool) (s : State) :
    exec (if valley then .carrierValley ch else .carrierPeak ch) s = .next (s.carrier ch.val valley) := by
  cases valley <;> rfl

theorem State.carrier_stopped {s : State} {ch : Nat} (h : (if ch < 96 then s.chRuns ch else s.legRuns (ch - 96)) = false)
    (valley : Bool) : s.carrier ch valley = s := by
  simp only [State.carrier, h, Bool.not_false, if_true]

/-- A carrier event of a cell channel that runs. -/
theorem State.carrier_cell {s : State} {ch : Nat} {c : Chan} {x : Int} (hch : ch < 96) (h : s.chRuns ch = true)
    (valley : Bool) (hc : c = { s.chan ch with pos := max (s.chan ch).pos (16 * s.nowTick - 1) })
    (hx : x = c.eventOf c.pos valley) : s.carrier ch valley = (s.advance (s.ofFine x)).putChan ch
      (if s.chWaits ch (s.perOf x) (s.chan ch) then (s.chan ch).runTo (s.chTr ch (s.perOf x)) (s.chRld ch) true 400 x
        else { s.chan ch with pos := max c.pos x }) := by
  subst hc hx
  simp only [State.carrier, if_pos hch, h, Bool.not_true, Bool.false_eq_true, if_false, beq_iff_eq]
  rfl

/-- A carrier event of a local leg that runs. -/
theorem State.carrier_leg {s : State} {ch : Nat} {c : Chan} {x : Int} (hch : 96 ≤ ch) (h : s.legRuns (ch - 96) = true)
    (valley : Bool) (hc : c = { s.chan ch with pos := max (s.chan ch).pos (16 * s.nowTick - 1) })
    (hx : x = c.eventOf c.pos valley) : s.carrier ch valley = (s.advance (s.ofFine x)).legRun (ch - 96) x := by
  subst hc hx
  simp only [State.carrier, if_neg (Nat.not_lt.2 hch), h, Bool.not_true, Bool.false_eq_true, if_false, beq_iff_eq]
  rfl

/-! ### A host write to PRD of a cell channel (R107, R114, R123) -/

/-- The row of the cell channels' PRD registers. -/
def chPrdRow : RegRow := ⟨0x84, 8, 32, 0x1FFFF, 0x0, 0x0, 0x0, 0x0, 0x0, 0x0⟩

theorem rowAt_chPrd (ch : Nat) : rowAt .modch (chOfs ch 4) = some (chPrdRow, ch % 8) := by
  have : ∀ j < 8, rowAt .modch (0x80 + 0x20 * j + 4) = some (chPrdRow, j) := by decide
  exact this _ (Nat.mod_lt _ (by decide))

theorem chPrd_addr (ch : Nat) : MODCH.PRD ch = chPage ch + chOfs ch 4 := by
  unfold MODCH.PRD chPage MODCH.page chOfs; omega

/-- Where no field of a register is RWL, a write changes that register and nothing else, whatever the page's lock. -/
theorem State.take_free {s : State} {k : PageKind} {pg ofs : Nat} {val : Word} {row : RegRow} {j : Nat}
    (hr : rowAt k ofs = some (row, j)) (h : row.rwl = 0) : s.take k pg ofs val =
      s.setReg (pg + ofs) (BitVec.ofNat 32 (writeWord row (s.locked pg) (s.reg (pg + ofs)).toNat val.toNat)) := by
  simp [State.take, hr, h]

/-- The conditions a write to PRD is judged on: the range of the channel's kind, and the event budget of its cell with the
other channel's PRD as it stands. -/
def prdConds (s : State) (ch prd : Nat) : List (Bool × Nat) :=
  [(!prdOk ch prd, eRANGE),
   (!budgetOk (s.get TBS.PER_CFG_PERIOD) (if ch % 2 = 1 then prd else s.get (MODCH.PRD_PRD (ch + 1)))
      (if ch % 2 = 0 then prd else s.get (MODCH.PRD_PRD (ch - 1))), mEVENTS)]

theorem execChPrdWrite_eq (ch : Fin 96) (v : Word) (s : State) : execChPrdWrite ch v s =
    .next (s.judge (chPage ch.val) (chOfs ch.val 4) (prdConds s ch.val (v.toNat % 131072))
      (fun s => (s.chDefer ch.val).take .modch (chPage ch.val) (chOfs ch.val 4) v)) := rfl

/-- Outside the tick of the capture nothing of a write is deferred (R114). -/
theorem State.chDefer_off {s : State} (h : s.nowTick ≠ s.capTickNow) (ch : Nat) : s.chDefer ch = s := by
  simp [State.chDefer, h]

/-- What a write to PRD leaves: the value, every other register, and every channel as they were. -/
theorem State.take_chPrd (s : State) (ch : Nat) (v : Word) :
    let t := s.take .modch (chPage ch) (chOfs ch 4) v
    t.get (MODCH.PRD_PRD ch) = v.toNat % 131072 ∧ t.sameRegsBut s [ MODCH.PRD ch] ∧ ∀ c, t.chan c = s.chan c := by
  intro t
  have ht : t = _ := State.take_free (rowAt_chPrd ch) rfl
  refine ⟨?_, fun a ha => ?_, fun c => by rw [ht]; rfl⟩
  · refine (State.get_take_open (f := MODCH.PRD_PRD ch) (rowAt_chPrd ch) ?_ (chPrd_addr ch)
      (by show 0 + 17 ≤ 32; decide) fun i hi => ?_).trans rfl
    · unfold chOfs; omega
    · have hi : i < 17 := hi
      simp only [chPrdRow, Nat.testBit_or, Bool.or_eq_true]
      left
      rw [show (0x1FFFF : Nat) = 2 ^ 17 - 1 from rfl, Nat.testBit_two_pow_sub_one]
      simpa using hi
  · rw [ht, ← chPrd_addr]
    exact State.reg_setReg_of_ne _ _ (by simpa using ha)

/-- Settles O23: where a carrier's next event and its lengthened period lie, the command of an event by its channel, and a
write to PRD by the conditions it is judged on. -/
theorem carrierEventsAndPeriod : Obligations.CarrierEventsAndPeriod := by
  unfold Obligations.CarrierEventsAndPeriod
  refine ⟨⟨fun c x hp _ _ => c.lt_nextEvent x hp, fun prd phase v hp => ?_, fun c v p ph h => ?_⟩,
    ⟨fun ch s h => ?_, fun ch s c valley x hch h hc hx => ?_, fun ch s c valley x hch h hc hx => ?_⟩,
    fun ch v s ht => ⟨fun hr => ?_, fun hr hb => ?_, fun hr hcap hb => ?_⟩⟩
  · obtain ⟨hlo, hhi⟩ := reGrid_bounds hp phase v
    exact ⟨hlo, hhi, reGrid_onGrid prd phase v⟩
  · simp [Chan.turnAt, h]
  · exact ⟨next_congr (State.carrier_stopped h true), next_congr (State.carrier_stopped h false)⟩
  · rw [exec_carrier, State.carrier_cell hch h valley hc hx]
    exact ⟨_, _, rfl, rfl, rfl⟩
  · rw [exec_carrier, State.carrier_leg hch h valley hc hx]
  · refine (execChPrdWrite_eq ch v s).trans (next_congr (State.judge_range ht.1 ?_ ?_))
    · simp [prdConds, hr]
    · simp [prdConds]
  · exact (execChPrdWrite_eq ch v s).trans (next_congr (State.judge_first (c := (true, mEVENTS)) ht
      (by simp [prdConds, hr, hb]) (by simp [prdConds, hr])))
  · refine ⟨_, (execChPrdWrite_eq ch v s).trans (next_congr (State.judge_takes ht (by simp [prdConds, hr, hb]))), ?_⟩
    rw [State.chDefer_off hcap]
    exact s.take_chPrd ch.val v

end Sys2Proof.Machine
end

section
/-! Trips (R126–R130, R143): what a trip's latches, FIRST and its FLAG and LATCH hold, and what an accepted REARM it takes
back leaves (R131). -/

namespace Sys2Proof.Machine

/-! ### The parts of a trip -/

/-- FIRST takes a source where no latch stands, or where it comes before the first source of the same tick (R130). -/
def State.tripFirst (s : State) (src : Nat) : State :=
  if s.latches.isEmpty || (!s.latches.isEmpty && s.tickOf s.firstAt == s.nowTick && decide (src < s.get TRP.FIRST_SRC)) then
    { ((s.set TRP.FIRST_SRC src).set TRP.FIRST_PIDX (s.pidx % 2 ^ 24)) with firstAt := s.now }
  else s

/-- The latches once a trip has left its own: one of MCX changes the action of a leg that MCX holds already (R239). -/
def State.tripLatches (s : State) (src hiz asc cells : Nat) : List Latch :=
  s.latches.map (fun l =>
    if src == 12 && l.src == 12 then { l with hiz := l.hiz &&& (0xFFF ^^^ asc), asc := l.asc &&& (0xFFF ^^^ hiz) } else l)
    ++ [⟨src, hiz, asc, cells⟩]

/-- A trip up to its FLAG and LATCH and its latch. -/
def State.tripMarked (s : State) (src hiz asc cells : Nat) : State :=
  let t := ((s.tripFirst src).set (flagFld src) 1).set (latchFld src) 1
  { t with latches := t.tripLatches src (hiz &&& s.allLegs) (asc &&& s.allLegs) cells }

/-- What follows from the latches: OUT_STAT and the legs, the event log, and the stacks with a covered member (R69). -/
def State.tripFollow (s : State) (src cells : Nat) : State :=
  let t := s.outStat.log TRP.page 0 src s.pidx
  t.each ((List.range 8).filter (fun k => (t.members k).any (fun n => cells.testBit n))) State.stackTrip

/-- The state a trip begins from: a REARM of the tick taken back, and the instant noted. -/
def State.tripFrom (s : State) (src : Nat) : State := { s.unRearm src with tripAt := SMap.ins s.tripAt src s.now }

theorem State.trip_eq (s : State) (src hiz asc cells : Nat) : s.trip src hiz asc cells =
    (((s.tripFrom src).tripMarked src hiz asc cells).irq TRP.page 0).tripFollow src cells := rfl

/-! ### What follows from the latches -/

/-- A field that what follows from a trip's latches leaves alone: outside the pages of the legs, the Grainer and the log, and
not of OUT_STAT. -/
structure followQuiet (g : Fld) : Prop where
  lpw : outside LPW.page g
  grn : outside GRN.page g
  nvl : outside NVL.page g
  out : g.addr ≠ TRP.OUT_STAT

theorem followQuiet_trp {g : Fld} (h1 : TRP.page ≤ g.addr) (h2 : g.addr < TRP.page + 0x1000)
    (h : g.addr ≠ TRP.OUT_STAT) : followQuiet g := by
  have hl : LPW.page + 0x1000 ≤ TRP.page := by decide
  have hg : TRP.page + 0x1000 ≤ GRN.page := by decide
  have hn : TRP.page + 0x1000 ≤ NVL.page := by decide
  exact ⟨.inr (hl.trans h1), .inl (h2.trans_le hg), .inl (h2.trans_le hn), h⟩

/-- FLAG and LATCH of a source lie in its registers' 32 bits, apart from each other. -/
theorem tripFld_fits {src : Nat} (h : src < 16) : (flagFld src).lo + (flagFld src).w ≤ 32 ∧
    (latchFld src).lo + (latchFld src).w ≤ 32 ∧ (flagFld src).w = 1 ∧ (latchFld src).w = 1 ∧
    (latchFld src).apart (flagFld src) := by
  interval_cases src <;> decide

theorem followQuiet_tripFld (src : Nat) : followQuiet (flagFld src) ∧ followQuiet (latchFld src) := by
  have hstat : ∀ f : Fld, f.addr = TRP.STAT ∨ f.addr = TRP.ISTAT → followQuiet f := by
    rintro f (h | h)
    · exact followQuiet_trp (by rw [h]; decide) (by rw [h]; decide) (by rw [h]; decide)
    · exact followQuiet_trp (by rw [h]; decide) (by rw [h]; decide) (by rw [h]; decide)
  exact ⟨hstat _ (tripFld_addr src).1, hstat _ (tripFld_addr src).2⟩

section trip
variable (s : State) (src hiz asc cells : Nat)

theorem State.outStat_frame_follow : HaltFrame followQuiet s s.outStat := by
  have hf : ∀ g, followQuiet g → ∀ f : Fld, f.addr = TRP.OUT_STAT → f.apart g := fun g hg f hf =>
    .inl (by rw [hf]; exact Ne.symm hg.out)
  unfold State.outStat
  exact (((HaltFrame.refl _ s).set (fun g hg => hf g hg _ rfl) _).set (fun g hg => hf g hg _ rfl) _).trans
    ((State.refreshLegs_frame _).haltFrame.mono fun _ hg => hg.lpw.legQuiet)

theorem State.tripFollow_frame : HaltFrame followQuiet s (s.tripFollow src cells) :=
  ((State.outStat_frame_follow s).trans (State.log_frame _ (fun _ hg => hg.nvl) _ _ _ _)).trans
    (HaltFrame.each (fun t _ hk =>
      t.stackTrip_frame (fun _ hg => hg.grn) (List.mem_range.1 (List.mem_filter.1 hk).1)) _)

theorem State.tripFollow_latches : (s.tripFollow src cells).latches = s.latches :=
  (State.each_same State.latches State.stackTrip_latches _).trans
    ((State.log_latches _ _ _ _ _).trans (State.outStat_latches _))

/-- What follows from a trip's latches leaves the trip page, but for OUT_STAT and the TRIP event, as the trip marked it. -/
theorem State.get_trip {g : Fld} (hq : followQuiet g) (hraw : g.addr ≠ TRP.page + 0x14) :
    (s.trip src hiz asc cells).get g = ((s.tripFrom src).tripMarked src hiz asc cells).get g := by
  rw [State.trip_eq, (State.tripFollow_frame _ _ _).get g hq, State.get_irq_of_ne _ _ _ _ hraw]

theorem State.trip_latches :
    (s.trip src hiz asc cells).latches = ((s.tripFrom src).tripMarked src hiz asc cells).latches := by
  rw [State.trip_eq, State.tripFollow_latches]; rfl

/-- A trip raises TRIP (R128, R141). -/
theorem State.trip_raised : (s.trip src hiz asc cells).raised TRP.page 0 := by
  rw [State.trip_eq]
  generalize (s.tripFrom src).tripMarked src hiz asc cells = u
  have hraw := State.reg_of_get ((State.tripFollow_frame (u.irq TRP.page 0) src cells).get ⟨HDR.IRQ_RAW TRP.page, 0, 32⟩
    (followQuiet_trp (by decide) (by decide) (by decide)))
  rw [State.raised, hraw]
  exact State.raised_irq u TRP.page 0 (by decide)

/-! ### Up to the latches -/

theorem State.tripFirst_latches : (s.tripFirst src).latches = s.latches := by unfold State.tripFirst; split <;> rfl

theorem State.tripFirst_frame : HaltFrame (fun g => g.addr ≠ TRP.FIRST) s (s.tripFirst src) := by
  have hf : ∀ g : Fld, g.addr ≠ TRP.FIRST → ∀ f : Fld, f.addr = TRP.FIRST → f.apart g := fun g hg f hf =>
    .inl (by rw [hf]; exact Ne.symm hg)
  unfold State.tripFirst
  exact .ite ((((HaltFrame.refl _ s).set (fun g hg => hf g hg TRP.FIRST_SRC rfl) _).set
    (fun g hg => hf g hg TRP.FIRST_PIDX rfl) _).trans ⟨fun _ _ => rfl, fun _ => rfl⟩) (.refl _ s)

/-- With no latch standing FIRST takes the source and the period index (R130). -/
theorem State.tripFirst_takes {src : Nat} (h : s.latches = []) (hs : src < 16) :
    (s.tripFirst src).get TRP.FIRST_SRC = src ∧ (s.tripFirst src).get TRP.FIRST_PIDX = s.pidx % 2 ^ 24 := by
  have he : s.tripFirst src =
      { ((s.set TRP.FIRST_SRC src).set TRP.FIRST_PIDX (s.pidx % 2 ^ 24)) with firstAt := s.now } := by
    simp [State.tripFirst, h]
  rw [he]
  constructor
  · refine (State.get_set_apart _ TRP.FIRST_PIDX TRP.FIRST_SRC _ (by decide)).trans ?_
    rw [State.get_set_self _ _ _ (by decide)]
    exact Nat.mod_eq_of_lt hs
  · refine (State.get_set_self _ TRP.FIRST_PIDX _ (by decide)).trans ?_
    exact Nat.mod_mod _ _

/-- The registers of a trip up to its latch, by those of its FLAG and LATCH. -/
theorem State.get_tripMarked (g : Fld) : (s.tripMarked src hiz asc cells).get g =
    (((s.tripFirst src).set (flagFld src) 1).set (latchFld src) 1).get g := by
  have hlatches : ∀ (t : State) (ls : List Latch), ({ t with latches := ls } : State).get g = t.get g := fun _ _ => rfl
  exact hlatches _ _

/-- A field apart from FLAG and LATCH of the source is as FIRST left it. -/
theorem State.get_tripMarked_of_apart {g : Fld} (hf : (flagFld src).apart g) (hl : (latchFld src).apart g) :
    (s.tripMarked src hiz asc cells).get g = (s.tripFirst src).get g :=
  (s.get_tripMarked ..).trans ((State.get_set_apart _ _ _ _ hl).trans (State.get_set_apart _ _ _ _ hf))

theorem State.tripMarked_sets {src : Nat} (h : src < 16) : (s.tripMarked src hiz asc cells).get (flagFld src) = 1 ∧
    (s.tripMarked src hiz asc cells).get (latchFld src) = 1 := by
  obtain ⟨hf, hl, hfw, hlw, ha⟩ := tripFld_fits h
  rw [State.get_tripMarked, State.get_tripMarked, State.get_set_apart _ _ _ _ ha, State.get_set_self _ _ _ hf,
    State.get_set_self _ _ _ hl, hfw, hlw]
  exact ⟨rfl, rfl⟩

theorem State.tripMarked_latches : (s.tripMarked src hiz asc cells).latches =
    s.tripLatches src (hiz &&& s.allLegs) (asc &&& s.allLegs) cells := by
  show (((s.tripFirst src).set (flagFld src) 1).set (latchFld src) 1).tripLatches src _ _ cells = _
  rw [State.tripLatches, State.tripLatches]
  exact congrArg (fun ls : List Latch => ls.map _ ++ _) (s.tripFirst_latches src)

/-- A latch of another source, or of any but MCX, stands as it stood. -/
theorem State.mem_tripLatches {l : Latch} (h : l ∈ s.latches) (hne : src ≠ 12 ∨ l.src ≠ src) :
    l ∈ s.tripLatches src hiz asc cells := by
  have hc : (src == 12 && l.src == 12) = false := by
    rcases hne with h | h
    · simp [h]
    · by_cases h12 : src = 12
      · simp [h12, h12 ▸ h]
      · simp [h12]
  exact List.mem_append_left _ (List.mem_map.2 ⟨l, h, by rw [hc]; rfl⟩)

/-! ### A REARM taken back (R131) -/

/-- The latches of a source that an accepted REARM has cleared. -/
def RearmRec.cleared (r : RearmRec) (src : Nat) : List Latch := r.latches.filter (fun l => l.src == src)

/-- From `s` to `t` latches that `r` has cleared stand again; the build and the period are the same. -/
def RearmRec.backIn (r : RearmRec) (src : Nat) (s t : State) : Prop :=
  t.latches = r.cleared src ++ s.latches ∧ t.straps = s.straps ∧ t.pidx = s.pidx

/-- A refusal and an event change registers only. -/
theorem RearmRec.backIn.refused {r : RearmRec} {src : Nat} {s t : State} (h : r.backIn src s t) (pg b ofs code : Nat) :
    r.backIn src s ((t.irq pg b).refuse pg ofs code) := by
  simpa [RearmRec.backIn, State.refuse, State.setB_eq, State.set_eq, State.irq] using h

/-- A source that turns active in the tick of its REARM takes the REARM back: its latches stand again, and the write is
refused. -/
theorem State.unRearm_back {r : RearmRec} (hr : s.rearmed = some r) (ht : s.tickOf r.at_ = s.nowTick)
    (hm : (r.cleared src).isEmpty = false) : r.backIn src s (s.unRearm src) ∧
      (s.unRearm src).get (HDR.ERR_CODE_CODE TRP.page) = tINACT_SHORT := by
  have hc : ¬((r.cleared src).isEmpty || s.tickOf r.at_ != s.nowTick) = true := by simp [hm, ht]
  unfold RearmRec.cleared at hc
  simp -zeta only [State.unRearm, hr]
  extract_lets mine rest s1 s2 s3
  have h1 : r.backIn src s s1 := ⟨rfl, rfl, rfl⟩
  have h2 : r.backIn src s s2 := ite_keeps ⟨rfl, rfl, rfl⟩ h1
  have h3 : r.backIn src s s3 := ite_keeps (P := r.backIn src s) h2 h2
  rw [if_neg hc]
  exact ⟨h3.refused _ _ _ _, (State.refuse_code _ _ _ _).1.trans (by decide)⟩

/-- A trip takes back a REARM of its tick, or none. -/
theorem State.unRearm_cases : s.unRearm src = s ∨ ∃ r : RearmRec, r.backIn src s (s.unRearm src) := by
  cases hr : s.rearmed with
  | none => exact .inl (s.unRearm_none hr)
  | some r =>
    by_cases hc : ((r.cleared src).isEmpty || s.tickOf r.at_ != s.nowTick) = true
    · left
      unfold RearmRec.cleared at hc
      simp -zeta only [State.unRearm, hr]
      extract_lets
      exact if_pos hc
    · rw [Bool.or_eq_true, not_or, bne_iff_ne, not_not, Bool.not_eq_true] at hc
      exact .inr ⟨r, (s.unRearm_back src hr hc.2 hc.1).1⟩

theorem State.mem_unRearm {l : Latch} (h : l ∈ s.latches) : l ∈ (s.unRearm src).latches := by
  rcases s.unRearm_cases src with e | ⟨r, hl, -, -⟩
  · rwa [e]
  · rw [hl]; exact List.mem_append_right _ h

theorem State.unRearm_allLegs : (s.unRearm src).allLegs = s.allLegs := by
  rcases s.unRearm_cases src with e | ⟨r, -, hs, -⟩
  · rw [e]
  · rw [State.allLegs, State.isl, hs, State.allLegs, State.isl]

theorem State.unRearm_pidx : (s.unRearm src).pidx = s.pidx := by
  rcases s.unRearm_cases src with e | ⟨r, -, -, hp⟩
  · rw [e]
  · exact hp

end trip

/-! ### What a trip leaves (R127–R131, R143) -/

section leaves
variable (s : State) {src : Nat} (hiz asc cells : Nat)

/-- FLAG and LATCH of the source are set (R127, R143). -/
theorem State.trip_flag_latch (h : src < 16) :
    (s.trip src hiz asc cells).get (flagFld src) = 1 ∧ (s.trip src hiz asc cells).get (latchFld src) = 1 := by
  obtain ⟨hf, hl⟩ := followQuiet_tripFld src
  have hraw : ∀ {a : Nat}, a = TRP.STAT ∨ a = TRP.ISTAT → a ≠ TRP.page + 0x14 := by
    rintro a (rfl | rfl) <;> decide
  rw [s.get_trip _ _ _ _ hf (hraw (tripFld_addr src).1), s.get_trip _ _ _ _ hl (hraw (tripFld_addr src).2)]
  exact State.tripMarked_sets _ hiz asc cells h

/-- The latches once a trip is registered, by those it finds. -/
theorem State.trip_latches_eq : (s.trip src hiz asc cells).latches =
    (s.unRearm src).tripLatches src (hiz &&& s.allLegs) (asc &&& s.allLegs) cells := by
  rw [State.trip_latches, State.tripMarked_latches]
  show (s.unRearm src).tripLatches src (hiz &&& (s.unRearm src).allLegs) (asc &&& (s.unRearm src).allLegs) cells = _
  rw [State.unRearm_allLegs]

/-- The latch of a trip covers the outputs named at that instant (R127). -/
theorem State.trip_latch_mem :
    (⟨src, hiz &&& s.allLegs, asc &&& s.allLegs, cells⟩ : Latch) ∈ (s.trip src hiz asc cells).latches := by
  rw [State.trip_latches_eq]
  exact List.mem_append_right _ (List.mem_singleton_self _)

/-- The latches of other sources stand as they stood (R127). -/
theorem State.trip_latch_stands {l : Latch} (h : l ∈ s.latches) (hne : l.src ≠ src) :
    l ∈ (s.trip src hiz asc cells).latches := by
  rw [State.trip_latches_eq]
  exact State.mem_tripLatches _ _ _ _ _ (s.mem_unRearm src h) (.inr hne)

/-- All twelve legs, of the build, are the legs of the build. -/
theorem State.and_allLegs : 0xFFF &&& s.allLegs = s.allLegs := by
  unfold State.allLegs; split <;> rfl

/-- A trip that finds no latch standing is the first (R130). -/
theorem State.trip_first (h : src < 16) (hn : (s.unRearm src).latches = []) :
    (s.trip src hiz asc cells).get TRP.FIRST_SRC = src ∧
      (s.trip src hiz asc cells).get TRP.FIRST_PIDX = s.pidx % 2 ^ 24 := by
  have hap := tripFld_apart src (g := TRP.FIRST_SRC) (by decide) (by decide)
  have hap' := tripFld_apart src (g := TRP.FIRST_PIDX) (by decide) (by decide)
  have hq : ∀ {lo w}, followQuiet ⟨TRP.FIRST, lo, w⟩ := fun {lo w} =>
    followQuiet_trp (g := ⟨TRP.FIRST, lo, w⟩) (by show TRP.page ≤ TRP.FIRST; decide)
      (by show TRP.FIRST < TRP.page + 0x1000; decide) (by show TRP.FIRST ≠ TRP.OUT_STAT; decide)
  rw [s.get_trip _ _ _ _ hq (by decide), s.get_trip _ _ _ _ hq (by decide),
    State.get_tripMarked_of_apart _ _ _ _ _ hap.1 hap.2, State.get_tripMarked_of_apart _ _ _ _ _ hap'.1 hap'.2]
  rw [← s.unRearm_pidx src]
  exact State.tripFirst_takes (s.tripFrom src) hn h

/-- A latch that a REARM of the same tick has cleared stands again, and the REARM is refused (R131). -/
theorem State.trip_takesBack {r : RearmRec} {l : Latch} (hr : s.rearmed = some r) (ht : s.tickOf r.at_ = s.nowTick)
    (h12 : src ≠ 12) (hl : l ∈ r.latches) (hs : l.src = src) : l ∈ (s.trip src hiz asc cells).latches ∧
      (s.trip src hiz asc cells).get (HDR.ERR_CODE_CODE TRP.page) = tINACT_SHORT := by
  have hmem : l ∈ r.cleared src := List.mem_filter.2 ⟨hl, by simpa using hs⟩
  have hne : (r.cleared src).isEmpty = false := by
    rw [List.isEmpty_eq_false_iff]; exact List.ne_nil_of_mem hmem
  obtain ⟨hback, hcode⟩ := s.unRearm_back src hr ht hne
  constructor
  · rw [State.trip_latches_eq]
    refine State.mem_tripLatches _ _ _ _ _ ?_ (.inl h12)
    rw [hback.1]; exact List.mem_append_left _ hmem
  · have hap := tripFld_apart src (g := HDR.ERR_CODE_CODE TRP.page) (by decide) (by decide)
    rw [s.get_trip _ _ _ _ (followQuiet_trp (by decide) (by decide) (by decide)) (by decide),
      State.get_tripMarked_of_apart _ _ _ _ _ hap.1 hap.2, (State.tripFirst_frame _ _).get _ (by decide)]
    exact hcode

end leaves

end Sys2Proof.Machine
end

section
/-! Trip inputs and source SW (R126, R127), and the two writes that leave a trip (R131, R132). -/

namespace Sys2Proof.Machine

/-! ### Trip inputs (R126) -/

/-- The bit of TRP.STAT that shows the level of input `n`. -/
abbrev trpLvl (n : Nat) : Fld := ⟨TRP.STAT, n, 1⟩

/-- Ball `n` has shown a level for `held` nanoseconds. -/
def State.ballAt (s : State) (n : Nat) (l : Bool) (held : Nat) : State :=
  { s with trpIn := SMap.ins s.trpIn n (l, s.now - held * tNs) }

theorem State.ballAt_set_latches (s : State) (n : Nat) (l : Bool) (held v : Nat) :
    ((s.ballAt n l held).set (trpLvl n) v).latches = s.latches := by
  rw [State.set_eq, State.setReg_latches, State.ballAt]

/-- The input follows its ball where the level is active and the input enabled. -/
theorem State.trpLevel_ballAt (s : State) (n : Nat) (l : Bool) (held : Nat) : (s.ballAt n l held).trpLevel n =
    ((s.get TRP.CFG_EN).testBit n && (l == (s.get TRP.CFG_POL).testBit n)) := by
  have hlook : SMap.look (s.ballAt n l held).trpIn n = some (l, s.now - held * tNs) := SMap.look_ins_self ..
  rw [State.trpLevel, hlook]; rfl

/-- A state but for which sources are active, and since when the others are not. -/
def State.withSrcs (s : State) (act : Nat) (inact : SMap Nat) : State := { s with srcAct := act, inactAt := inact }

section withSrcs
variable (s : State) (act : Nat) (inact : SMap Nat)

@[simp] theorem State.reg_withSrcs (a : Nat) : (s.withSrcs act inact).reg a = s.reg a := rfl
@[simp] theorem State.get_withSrcs (g : Fld) : (s.withSrcs act inact).get g = s.get g := rfl
@[simp] theorem State.withSrcs_srcAct : (s.withSrcs act inact).srcAct = act := rfl
@[simp] theorem State.withSrcs_latches : (s.withSrcs act inact).latches = s.latches := rfl

end withSrcs

/-- The state an input leaves whose level ends: the source is inactive from the end. -/
def State.ballEnds (s : State) (n : Nat) (l : Bool) (held : Nat) : State :=
  let t := (s.ballAt n l held).set (trpLvl n) 0
  t.withSrcs (t.srcAct &&& (0xFFFF ^^^ 1 <<< n)) (SMap.put (fun _ => 0) t.inactAt n (t.now - held * tNs))

/-- The state in which an input's active level has lasted: it is an active source. -/
def State.ballActs (s : State) (n : Nat) (l : Bool) (held : Nat) : State :=
  ((s.ballAt n l held).set (trpLvl n) 1).srcActive n true

theorem State.get_ballActs (s : State) (n : Nat) (l : Bool) (held : Nat) {g : Fld} (hg : (trpLvl n).apart g) :
    (s.ballActs n l held).get g = s.get g :=
  ((State.srcActive_frame _ (fun _ => True) n true).get g trivial).trans
    ((s.ballAt n l held).get_set_apart (trpLvl n) g 1 hg)

theorem execTripInput_eq (n : Fin 8) (l : Bool) (held : Nat) (s : State) : execTripInput n l held s =
    if (s.ballAt n l held).trpLevel n then
      if decide (s.flt n * 10 ≤ held) && !s.on (trpLvl n) then .next ((s.ballActs n l held).tripIn n)
      else .next (s.ballAt n l held)
    else if s.on (trpLvl n) then .next (s.ballEnds n l held)
    else .next (s.ballAt n l held) := rfl

section input
variable {s : State} {n : Fin 8} {l : Bool} {held : Nat}

/-- An enabled input whose active level has lasted its filter time trips. -/
theorem execTripInput_trips (hp : (l == (s.get TRP.CFG_POL).testBit n.val) = true)
    (he : (s.get TRP.CFG_EN).testBit n.val = true) (hf : s.flt n.val * 10 ≤ held) (hl : s.get (trpLvl n.val) = 0) :
    execTripInput n l held s = .next ((s.ballActs n.val l held).tripIn n.val) := by
  rw [execTripInput_eq, State.trpLevel_ballAt, he, hp, State.on_of_get_zero hl, decide_eq_true hf]; rfl

/-- An active level that has not lasted the filter time is noted, and nothing else happens. -/
theorem execTripInput_short (hp : (l == (s.get TRP.CFG_POL).testBit n.val) = true)
    (he : (s.get TRP.CFG_EN).testBit n.val = true) (hf : held < s.flt n.val * 10) :
    execTripInput n l held s = .next (s.ballAt n.val l held) := by
  rw [execTripInput_eq, State.trpLevel_ballAt, he, hp, decide_eq_false (Nat.not_le.2 hf)]; rfl

/-- A level on an input that is not enabled is noted where the input is no source. -/
theorem execTripInput_disabled (he : (s.get TRP.CFG_EN).testBit n.val = false) (hl : s.get (trpLvl n.val) = 0) :
    execTripInput n l held s = .next (s.ballAt n.val l held) := by
  rw [execTripInput_eq, State.trpLevel_ballAt, he, State.on_of_get_zero hl]; rfl

/-- A level that is not active ends the source. -/
theorem execTripInput_ends (hp : (l == (s.get TRP.CFG_POL).testBit n.val) = false) (hl : s.get (trpLvl n.val) = 1) :
    execTripInput n l held s = .next (s.ballEnds n.val l held) := by
  rw [execTripInput_eq, State.trpLevel_ballAt, hp, Bool.and_false, State.on_of_get_one hl]; rfl

end input

/-- After the end of a level the input shows no level and is no active source; the latches and every other register stand. -/
theorem State.ballEnds_leaves (s : State) {n : Nat} (hn : n < 8) (l : Bool) (held : Nat) :
    (s.ballEnds n l held).get (trpLvl n) = 0 ∧ (s.ballEnds n l held).srcAct.testBit n = false ∧
      (s.ballEnds n l held).latches = s.latches ∧ (s.ballEnds n l held).sameRegsBut s [TRP.STAT] := by
  have hbit : (0xFFFF ^^^ 1 <<< n : Nat).testBit n = false := by interval_cases n <;> decide
  unfold State.ballEnds
  refine ⟨?_, ?_, (State.withSrcs_latches ..).trans (s.ballAt_set_latches n l held 0), fun a ha => ?_⟩
  · rw [State.get_withSrcs, State.get_set_self _ _ _ (by show n + 1 ≤ 32; omega), Nat.zero_mod]
  · rw [State.withSrcs_srcAct, Nat.testBit_and, hbit, Bool.and_false]
  · exact (State.reg_withSrcs ..).trans ((s.ballAt n l held).reg_set_of_ne (trpLvl n) 0 (by simpa using ha))

/-- An input trips every output where it has no groups. -/
theorem State.tripIn_all {s : State} (n : Nat) (h : s.get TRP.CFG_GROUPS = 0) : s.tripIn n = s.trip n 0xFFF 0 allCells :=
  if_neg (by rw [State.on_of_get_zero h]; decide)

/-- With groups an input trips the outputs of those its map names. -/
theorem State.tripIn_groups {s : State} {n : Nat} {g : Nat × Nat × Nat} (h : s.get TRP.CFG_GROUPS = 1)
    (hg : g = s.groupOuts (s.gmap n)) : s.tripIn n = s.trip n g.1 g.2.1 g.2.2 := by
  subst hg
  exact if_pos (State.on_of_get_one h)

/-! ### Source SW (R126) -/

/-- The state of a trip of source SW, which is inactive from the next tick on. -/
def State.swTripped (s : State) : State :=
  { (s.tripAll 15) with inactAt := SMap.put (fun _ => 0) s.inactAt 15 s.nextTick }

theorem execTrpSwtrip_eq (s : State) : execTrpSwtrip s = .next (s.judge TRP.page 0x80 [] State.swTripped) := rfl

/-- SW trips every output of the module. -/
theorem State.swTripped_leaves (s : State) : s.swTripped.get (flagFld 15) = 1 ∧ s.swTripped.get (latchFld 15) = 1 ∧
    s.swTripped.raised TRP.page 0 ∧ (⟨15, s.allLegs, 0, allCells⟩ : Latch) ∈ s.swTripped.latches := by
  have hmem := s.trip_latch_mem (src := 15) 0xFFF 0 allCells
  rw [Nat.zero_and, State.and_allLegs] at hmem
  obtain ⟨hflag, hlatch⟩ := s.trip_flag_latch 0xFFF 0 allCells (src := 15) (by decide)
  exact ⟨hflag, hlatch, s.trip_raised 15 0xFFF 0 allCells, hmem⟩

/-! ### The two writes (R131, R132) -/

theorem bitsOf_oneBit {b : Nat} (h : b < 8) : bitsOf 8 (BitVec.ofNat 8 (1 <<< b)).toNat = [b] := by
  interval_cases b <;> decide

theorem bitsOf_oneBit16 {b : Nat} (h : b < 16) : bitsOf 16 (BitVec.ofNat 16 (1 <<< b)).toNat = [b] := by
  interval_cases b <;> decide

/-- The FLAG of a source, as its write of 1 leaves it: an active source keeps it, and the write is refused. -/
def State.flagClearOne (s : State) (ofs src : Nat) : State :=
  if s.srcNow src then (s.irq TRP.page 1).refuse TRP.page ofs tTRIP_ACTIVE else s.set (flagFld src) 0

theorem State.flagClearOne_inactive {s : State} {ofs src : Nat} (h : s.srcNow src = false) :
    s.flagClearOne ofs src = s.set (flagFld src) 0 := if_neg (by rw [h]; decide)

theorem State.flagClearOne_active {s : State} {ofs src : Nat} (h : s.srcNow src = true) :
    s.flagClearOne ofs src = (s.irq TRP.page 1).refuse TRP.page ofs tTRIP_ACTIVE := if_pos h

/-- Of one item that is selected, the operation is carried out for that one. -/
theorem State.each_filter_one {α : Type} (s : State) {a : α} {p : α → Bool} (f : State → α → State)
    (h : p a = true) : s.each ([a].filter p) f = f s a := by rw [List.filter_cons_of_pos h]; rfl

theorem State.flagClear_eq (s : State) (i : Bool) (mask : Nat) : s.flagClear i mask =
    s.judge TRP.page (if i then 0x78 else 0x74) [] (fun s =>
      s.each ((bitsOf 8 mask).filter (fun b => s.on (flagFld ((if i then 8 else 0) + b)))) (fun s b =>
        s.flagClearOne (if i then 0x78 else 0x74) ((if i then 8 else 0) + b))) := rfl

theorem execTrpFlagClear_one {s : State} {i : Bool} {b : Nat} (ht : s.takes TRP.page) (hb : b < 8)
    (hf : s.get (flagFld ((if i then 8 else 0) + b)) = 1) : execTrpFlagClear i (BitVec.ofNat 8 (1 <<< b)) s =
      .next (s.flagClearOne (if i then 0x78 else 0x74) ((if i then 8 else 0) + b)) := by
  refine next_congr ((s.flagClear_eq i _).trans ((State.judge_takes ht (by simp)).trans ?_))
  rw [bitsOf_oneBit hb]
  exact s.each_filter_one _ (State.on_of_get_one hf)

/-- The latch of a source, as its REARM leaves it. -/
def State.rearmOne (s : State) (src : Nat) : State :=
  if s.on (flagFld src) && !s.tripsNow src then (s.irq TRP.page 1).refuse TRP.page 0x7C tFLAG_SET
  else if !s.inactLong src then (s.irq TRP.page 1).refuse TRP.page 0x7C tINACT_SHORT
  else (((s.each (List.range 12) State.legSync).rearmNote src).latchClear src).irq TRP.page 2

theorem State.rearm_eq (s : State) (mask : Nat) : s.rearm mask = s.judge TRP.page 0x7C [] (fun s =>
    s.each ((bitsOf 16 mask).filter (fun src => s.on (latchFld src))) State.rearmOne) := rfl

theorem execTrpRearm_one {s : State} {src : Nat} (ht : s.takes TRP.page) (hs : src < 16) (hl : s.get (latchFld src) = 1) :
    execTrpRearm (BitVec.ofNat 16 (1 <<< src)) s = .next (s.rearmOne src) := by
  refine next_congr ((s.rearm_eq _).trans ((State.judge_takes ht (by simp)).trans ?_))
  rw [bitsOf_oneBit16 hs]
  exact s.each_filter_one _ (State.on_of_get_one hl)

/-- A source that trips in this tick has not been inactive. -/
theorem State.inactLong_of_tripsNow {s : State} {src : Nat} (h : s.tripsNow src = true) : s.inactLong src = false := by
  simp [State.inactLong, h]

section rearm
variable {s : State} {src : Nat}

theorem State.rearmOne_tripsNow (h : s.tripsNow src = true) :
    s.rearmOne src = (s.irq TRP.page 1).refuse TRP.page 0x7C tINACT_SHORT := by
  simp [State.rearmOne, h, State.inactLong_of_tripsNow h]

theorem State.rearmOne_flag (hf : s.get (flagFld src) = 1) (h : s.tripsNow src = false) :
    s.rearmOne src = (s.irq TRP.page 1).refuse TRP.page 0x7C tFLAG_SET := by
  simp [State.rearmOne, State.on_of_get_one hf, h]

theorem State.rearmOne_short (hf : s.get (flagFld src) = 0) (h : s.inactLong src = false) :
    s.rearmOne src = (s.irq TRP.page 1).refuse TRP.page 0x7C tINACT_SHORT := by
  simp [State.rearmOne, State.on_of_get_zero hf, h]

theorem State.rearmOne_clears (hf : s.get (flagFld src) = 0) (h : s.inactLong src = true) : s.rearmOne src =
    (((s.each (List.range 12) State.legSync).rearmNote src).latchClear src).irq TRP.page 2 := by
  simp [State.rearmOne, State.on_of_get_zero hf, h]

end rearm

/-- From `s` to `t` the latches are as they were, and the fields that neither a trip's consequences nor the end of a halt
reaction writes. -/
structure State.latchFrame (s t : State) : Prop where
  get : ∀ g, followQuiet g → MOD.TB_STAT_FRZ_ACTIVE.apart g → t.get g = s.get g
  latches : t.latches = s.latches

/-- The end of the halt reaction leaves the latches and the trip page. -/
theorem State.haltLift_frame (s : State) : latchFrame s s.haltLift := by
  unfold State.haltLift
  have hrest : ∀ (t : State) (w : Nat), latchFrame t { t with haltMode := 0, frozen := [], legWait := w } :=
    fun _ _ => ⟨fun _ _ _ => rfl, rfl⟩
  split
  · exact ⟨fun g hg ha => ((hrest _ _).get g hg ha).trans (State.get_set_apart _ _ _ _ ha),
      (hrest _ _).latches.trans (State.setReg_latches ..)⟩
  · exact ⟨fun _ _ _ => rfl, rfl⟩

/-- After the latch of a source has cleared no latch of it stands, and its LATCH is 0. -/
theorem State.latchClear_leaves (s : State) {src : Nat} (h : src < 16) :
    (s.latchClear src).get (latchFld src) = 0 ∧ ∀ l ∈ (s.latchClear src).latches, l.src ≠ src := by
  obtain ⟨-, hfit, -, -, -⟩ := tripFld_fits h
  have hap : MOD.TB_STAT_FRZ_ACTIVE.apart (latchFld src) := .inl (by
    rcases (tripFld_addr src).2 with h | h <;> rw [h] <;> decide)
  unfold State.latchClear
  extract_lets was s1 free
  have hs1 : s1.get (latchFld src) = 0 := (State.get_set_self _ _ _ hfit).trans (Nat.zero_mod _)
  have hlift := State.haltLift_frame { s1 with legWait := s1.legWait ||| free }
  constructor
  · rw [(State.outStat_frame_follow _).get _ (followQuiet_tripFld src).2, hlift.get _ (followQuiet_tripFld src).2 hap]
    exact hs1
  · rw [State.outStat_latches, hlift.latches]
    intro l hl
    simpa using (List.mem_filter.1 hl).2

/-- An accepted REARM clears the latch of its source and raises REARMED (R131, R132). -/
theorem State.rearmOne_leaves {s : State} {src : Nat} (hs : src < 16) (hf : s.get (flagFld src) = 0)
    (h : s.inactLong src = true) : (s.rearmOne src).get (latchFld src) = 0 ∧ (s.rearmOne src).raised TRP.page 2 ∧
      ∀ l ∈ (s.rearmOne src).latches, l.src ≠ src := by
  rw [State.rearmOne_clears hf h]
  generalize (s.each (List.range 12) State.legSync).rearmNote src = u
  obtain ⟨hlatch, hnone⟩ := u.latchClear_leaves hs
  refine ⟨?_, State.raised_irq _ _ _ (by decide), hnone⟩
  rw [State.get_irq_of_ne _ _ _ _ (by rcases (tripFld_addr src).2 with h | h <;> rw [h] <;> decide)]
  exact hlatch

end Sys2Proof.Machine
end

section
/-! The statement about trips and their exit: each clause from the lemmas of the operation it speaks of. -/

namespace Sys2Proof.Machine

/-- Settles O25: what a trip leaves by its FLAG and LATCH and its latches, an input by what its ball shows, the writes of
FLAG and REARM by the one source they name. -/
theorem tripsAndTheirExit : Obligations.TripsAndTheirExit := by
  unfold Obligations.TripsAndTheirExit
  refine ⟨fun s src hiz asc cells hs => ?_, ⟨fun n l held s u hp he hf hl hu => ?_, fun n l held s hp he hf => ?_,
    fun n l held s he hl => ?_, fun n l held s hp hl => ?_, fun s ht => ?_⟩,
    fun i b s ht hb hf => ⟨fun h => ?_, fun h => ?_⟩,
    fun src s ht hs hl => ⟨fun h => ?_, fun hf h => ?_, fun hf h => ?_, fun hf h => ?_⟩⟩
  · obtain ⟨hflag, hlatch⟩ := s.trip_flag_latch hiz asc cells hs
    exact ⟨hflag, hlatch, s.trip_raised src hiz asc cells, s.trip_latch_mem hiz asc cells, s.trip_first hiz asc cells hs,
      fun l h hne => s.trip_latch_stands hiz asc cells h hne,
      fun r l hr ht h12 h hsrc => s.trip_takesBack hiz asc cells hr ht h12 h hsrc,
      fun n hn => State.cellTripped_of_latch _ (s.trip_latch_mem hiz asc cells) hn⟩
  · have hu : u = s.ballActs n.val l held := hu
    have hg : u.get TRP.CFG_GROUPS = s.get TRP.CFG_GROUPS := by
      rw [hu, State.get_ballActs _ _ _ _ (.inl (by show TRP.STAT ≠ TRP.CFG; decide))]
    have hrun := execTripInput_trips hp he hf hl
    rw [← hu] at hrun
    exact ⟨fun h => hrun.trans (next_congr (State.tripIn_all _ (hg.trans h))),
      fun h g hgo => hrun.trans (next_congr (State.tripIn_groups (hg.trans h) hgo))⟩
  · exact execTripInput_short hp he hf
  · exact execTripInput_disabled he hl
  · exact ⟨_, execTripInput_ends hp hl, s.ballEnds_leaves n.isLt l held⟩
  · exact ⟨_, (execTrpSwtrip_eq s).trans (next_congr (State.judge_takes ht (by simp))), s.swTripped_leaves⟩
  · exact (execTrpFlagClear_one ht hb hf).trans (next_congr (State.flagClearOne_inactive h))
  · exact (execTrpFlagClear_one ht hb hf).trans (next_congr (State.flagClearOne_active h))
  · exact (execTrpRearm_one ht hs hl).trans (next_congr (State.rearmOne_tripsNow h))
  · exact (execTrpRearm_one ht hs hl).trans (next_congr (State.rearmOne_flag hf h))
  · exact (execTrpRearm_one ht hs hl).trans (next_congr (State.rearmOne_short hf h))
  · exact ⟨_, execTrpRearm_one ht hs hl, State.rearmOne_leaves hs hf h⟩

end Sys2Proof.Machine
end

section
/-! The changes of a cell lane's state (R164, R176, R177, R182): what each writes of the registers, what it leaves of the
lane, and that it leaves every other lane alone. -/

namespace Sys2Proof.Machine

/-! ### Lanes beside the registers -/

section beside
variable (s : State) (n m : Nat)

@[simp] theorem State.lane_setReg (a : Nat) (w : Word) : (s.setReg a w).lane m = s.lane m := rfl
@[simp] theorem State.lane_set (f : Fld) (v : Nat) : (s.set f v).lane m = s.lane m := rfl
@[simp] theorem State.lane_setB (f : Fld) (b : Bool) : (s.setB f b).lane m = s.lane m := rfl
@[simp] theorem State.lane_bump (f : Fld) (k : Nat) : (s.bump f k).lane m = s.lane m := rfl
@[simp] theorem State.lane_irq (pg b : Nat) : (s.irq pg b).lane m = s.lane m := rfl
@[simp] theorem State.get_modLane (f : Lane → Lane) (g : Fld) : (s.modLane n f).get g = s.get g := rfl
@[simp] theorem State.ln_modLane (f : Lane → Lane) : (s.modLane n f).ln m = s.ln m := rfl
@[simp] theorem State.get_modCell (f : Cell → Cell) (g : Fld) : (s.modCell n f).get g = s.get g := rfl

theorem State.lane_modLane (f : Lane → Lane) : (s.modLane n f).lane m = if m = n then f (s.lane n) else s.lane m :=
  s.lane_setLane n m _

@[simp] theorem State.lane_modLane_self (f : Lane → Lane) : (s.modLane n f).lane n = f (s.lane n) := by
  rw [State.lane_modLane, if_pos rfl]

@[simp] theorem State.lane_setCst (st : Nat) : (s.setCst n st).lane m = s.lane m := by
  unfold State.setCst State.iff; split <;> rfl

@[simp] theorem State.set_now (f : Fld) (v : Nat) : (s.set f v).now = s.now := rfl

@[simp] theorem State.setCst_now (st : Nat) : (s.setCst n st).now = s.now := by
  unfold State.setCst State.iff; split <;> rfl

end beside

/-- What a conditional operation does not change is as it was. -/
theorem State.iff_same {β : Type} (p : State → β) (s : State) {b : Bool} {f : State → State} (h : p (f s) = p s) :
    p (s.iff b f) = p s := by
  unfold State.iff
  split
  · exact h
  · rfl

theorem State.lane_iff {s : State} {b : Bool} {f : State → State} {m : Nat} (h : ∀ t, (f t).lane m = t.lane m) :
    (s.iff b f).lane m = s.lane m := s.iff_same (fun t => t.lane m) (h s)

theorem State.get_iff {s : State} {b : Bool} {f : State → State} {g : Fld} (h : ∀ t, (f t).get g = t.get g) :
    (s.iff b f).get g = s.get g := s.iff_same (fun t => t.get g) (h s)

theorem State.now_iff {s : State} {b : Bool} {f : State → State} (h : ∀ t, (f t).now = t.now) : (s.iff b f).now = s.now :=
  s.iff_same State.now (h s)

theorem State.iff_true {s : State} {b : Bool} {f : State → State} (h : b = true) : s.iff b f = f s := if_pos h

theorem State.iff_false {s : State} {b : Bool} {f : State → State} (h : b = false) : s.iff b f = s := by simp [State.iff, h]

/-- The state of a lane is a number of four bits that STAT shows. -/
theorem State.get_set_state (s : State) (n st : Nat) (h : st < 16) : (s.set (LANE.STAT_STATE n) st).ln n = st :=
  (s.get_set_self (LANE.STAT_STATE n) st (by show 0 + 4 ≤ 32; decide)).trans (Nat.mod_eq_of_lt h)

/-! ### Fields a lane's change of state leaves alone -/

/-- A field no change of lane `n`'s state writes: none of the lane's STATE, DCAUSE, SID, CRES and IRQ_RAW, of the page BLK only
CFG and MCAP, and none of the Grainer's page. -/
structure lnQuiet (n : Nat) (g : Fld) : Prop where
  state : (LANE.STAT_STATE n).apart g
  cause : (LANE.STAT_DCAUSE n).apart g
  sid : g.addr ≠ LANE.SID n
  cres : g.addr ≠ LANE.CRES n
  raw : g.addr ≠ LANE.page n + 0x14
  blk : outside BLK.page g ∨ g.addr = BLK.CFG ∨ g.addr = BLK.MCAP
  grn : outside GRN.page g

section quiet
variable {n m o : Nat} {g : Fld}

theorem outside_of_lanePage (h : g.addr = LANE.page m + o) : outside BLK.page g ∧ outside GRN.page g := by
  rw [outside, outside, h]
  simp only [LANE.page, BLK.page, GRN.page]
  omega

/-- Fields of another lane's page. -/
theorem lnQuiet_other (h : g.addr = LANE.page m + o) (ho : o < 0x1000) (hm : m ≠ n) : lnQuiet n g := by
  have hne : ∀ p < 0x1000, g.addr ≠ LANE.page n + p := by
    intro p hp
    rw [h]
    simp only [LANE.page]
    omega
  have hne' : ∀ p < 0x1000, ∀ a, a = LANE.page n + p → g.addr ≠ a := fun p hp a ha => ha ▸ hne p hp
  obtain ⟨hb, hg⟩ := outside_of_lanePage h
  exact ⟨.inl (hne' 0x4C (by decide) _ (by simp only [LANE.page]; omega)).symm,
    .inl (hne' 0x4C (by decide) _ (by simp only [LANE.page]; omega)).symm,
    hne' 0x64 (by decide) _ (by simp only [LANE.SID, LANE.page]; omega),
    hne' 0x80 (by decide) _ (by simp only [LANE.CRES, LANE.page]; omega), hne _ (by decide), .inl hb, hg⟩

/-- Registers of the lane's own page other than STAT, SID, CRES and IRQ_RAW. -/
theorem lnQuiet_own (h : g.addr = LANE.page n + o) (ho : o ≠ 0x14 ∧ o ≠ 0x4C ∧ o ≠ 0x64 ∧ o ≠ 0x80) : lnQuiet n g := by
  obtain ⟨hb, hg⟩ := outside_of_lanePage h
  constructor
  case blk => exact .inl hb
  case grn => exact hg
  all_goals
    simp only [Fld.apart, h, LANE.page, LANE.SID, LANE.CRES]
    omega

/-- The upper half of STAT: VER and DLYW. -/
theorem lnQuiet_stat (h : g.addr = LANE.STAT n) (hl : 8 ≤ g.lo) : lnQuiet n g := by
  obtain ⟨hb, hg⟩ := outside_of_lanePage (g := g) (m := n) (o := 0x4C) (by rw [h]; simp only [LANE.STAT, LANE.page]; omega)
  exact ⟨.inr (.inl (by show 0 + 4 ≤ g.lo; omega)), .inr (.inl hl), by rw [h]; simp only [LANE.STAT, LANE.SID]; omega,
    by rw [h]; simp only [LANE.STAT, LANE.CRES]; omega, by rw [h]; simp only [LANE.STAT, LANE.page]; omega, .inl hb, hg⟩

/-- CFG and MCAP of the page BLK. -/
theorem lnQuiet_blk (h : g.addr = BLK.CFG ∨ g.addr = BLK.MCAP) : lnQuiet n g := by
  constructor
  case blk => exact .inr h
  case grn => rcases h with h | h <;> rw [outside, h] <;> decide
  all_goals
    rcases h with h | h <;>
      (simp only [Fld.apart, h, LANE.page, LANE.SID, LANE.CRES, BLK.CFG, BLK.MCAP]; omega)

/-- STATE of another lane. -/
theorem lnQuiet_state (hm : m ≠ n) : lnQuiet n (LANE.STAT_STATE m) :=
  lnQuiet_other (m := m) (o := 0x4C) (by simp only [LANE.page]; omega) (by decide) hm

theorem lnQuiet.blkMap {a : Nat} (h : lnQuiet n g) (ha : BLK.page ≤ a ∧ a < BLK.page + 0x1000 ∧ a ≠ BLK.CFG ∧ a ≠ BLK.MCAP) :
    a ≠ g.addr := by
  obtain ⟨h1, h2, h3, h4⟩ := ha
  rcases h.blk with hb | hb | hb
  · unfold outside at hb; omega
  · rwa [hb]
  · rwa [hb]

theorem lnQuiet.map {lo hi k : Nat} (h : lnQuiet n g)
    (hl : BLK.page ≤ lo ∧ lo < BLK.page + 0x1000 ∧ lo ≠ BLK.CFG ∧ lo ≠ BLK.MCAP)
    (hh : BLK.page ≤ hi ∧ hi < BLK.page + 0x1000 ∧ hi ≠ BLK.CFG ∧ hi ≠ BLK.MCAP) : (mapBit lo hi k).apart g := by
  refine .inl ?_
  rcases mapBit_addr (lo := lo) (hi := hi) (n := k) with ha | ha <;> rw [ha]
  · exact h.blkMap hl
  · exact h.blkMap hh

end quiet

/-- From `s` to `t` the fields no change of lane `n`'s state writes, the other lanes and the clock are as they were. -/
structure State.LaneFrame (n : Nat) (s t : State) : Prop where
  get : ∀ g, lnQuiet n g → t.get g = s.get g
  lane : ∀ m, m ≠ n → t.lane m = s.lane m
  now : t.now = s.now

namespace State.LaneFrame
variable {n : Nat} {s t u : State}

theorem refl (n : Nat) (s : State) : LaneFrame n s s := ⟨fun _ _ => rfl, fun _ _ => rfl, rfl⟩

theorem trans (h : LaneFrame n s t) (h' : LaneFrame n t u) : LaneFrame n s u :=
  ⟨fun g hg => (h'.get g hg).trans (h.get g hg), fun m hm => (h'.lane m hm).trans (h.lane m hm), h'.now.trans h.now⟩

theorem set (h : LaneFrame n s t) {f : Fld} (hf : ∀ g, lnQuiet n g → f.apart g) (v : Nat) : LaneFrame n s (t.set f v) :=
  h.trans ⟨fun g hg => t.get_set_apart f g v (hf g hg), fun _ _ => rfl, rfl⟩

theorem irq (h : LaneFrame n s t) {pg : Nat} (hf : ∀ g, lnQuiet n g → g.addr ≠ pg + 0x14) (b : Nat) :
    LaneFrame n s (t.irq pg b) :=
  h.trans ⟨fun g hg => t.get_irq_of_ne pg b g (hf g hg), fun _ _ => rfl, rfl⟩

theorem modLane (h : LaneFrame n s t) (f : Lane → Lane) : LaneFrame n s (t.modLane n f) :=
  h.trans ⟨fun _ _ => rfl, fun m hm => by rw [State.lane_modLane, if_neg hm], rfl⟩

theorem modCell (h : LaneFrame n s t) (k : Nat) (f : Cell → Cell) : LaneFrame n s (t.modCell k f) :=
  h.trans ⟨fun _ _ => rfl, fun _ _ => rfl, rfl⟩

theorem iff (h : LaneFrame n s t) {b : Bool} {f : State → State} (hf : ∀ u, LaneFrame n u (f u)) :
    LaneFrame n s (t.iff b f) :=
  h.trans (ite_keeps (P := LaneFrame n t) (hf t) (refl n t))

theorem blkIrq (h : LaneFrame n s t) (b : Nat) : LaneFrame n s (t.irq BLK.page b) :=
  h.irq (fun _ hg => (hg.blkMap (a := BLK.page + 0x14) (by decide)).symm) b

theorem laneIrq (h : LaneFrame n s t) (b : Nat) : LaneFrame n s (t.irq (LANE.page n) b) := h.irq (fun _ hg => hg.raw) b

/-- The state of every other lane is as it was. -/
theorem ln (h : LaneFrame n s t) {m : Nat} (hm : m ≠ n) : t.ln m = s.ln m := h.get _ (lnQuiet_state hm)

/-- The common capabilities of every other lane are as they were. -/
theorem capc (h : LaneFrame n s t) {m : Nat} (hm : m ≠ n) : t.capc m = s.capc m := by
  have hc := h.get (LANE.PEER3_CAP m) (lnQuiet_other (m := m) (o := 0x60) (by simp only [LANE.page]; omega) (by decide) hm)
  have hv := h.get (LANE.STAT_VER m) (lnQuiet_other (m := m) (o := 0x4C) (by simp only [LANE.page]; omega) (by decide) hm)
  rw [State.capc, State.capc, hc, hv, h.get BLK.MCAP_CAP (lnQuiet_blk (.inr rfl))]

end State.LaneFrame

/-! ### The changes of state (R164, R177, R182) -/

/-- A lane out of its session: no key, nothing awaited or outstanding (R164, R183). -/
def Lane.ended (l : Lane) : Lane :=
  { l with ks := none, await := none, prbsAt := none, out := none, tmark := none, gotStat := false, miss := 0, aseqOk := false,
           sentN := 0 }

section changes
variable (s : State) (n : Nat)

theorem State.lane_lnEnd (m : Nat) : (s.lnEnd n).lane m = if m = n then (s.lane n).ended else s.lane m := by
  unfold State.lnEnd
  extract_lets was u
  have hu : ∀ k, u.lane k = s.lane k := fun k => State.lane_iff fun _ => rfl
  rw [State.lane_modLane, State.lane_set, State.lane_set, hu, hu]
  rfl

theorem State.lnEnd_frame : LaneFrame n s (s.lnEnd n) := by
  unfold State.lnEnd
  extract_lets was u
  have hu : LaneFrame n s u := (LaneFrame.refl n s).iff fun _ => (LaneFrame.refl n _).set (fun _ hg => .inl hg.cres.symm) 0
  exact (hu.set (fun _ hg => .inl hg.sid.symm) 0).modLane _

theorem State.lnEnd_sid : (s.lnEnd n).get (LANE.SID_SID n) = 0 :=
  (State.get_set_self _ (LANE.SID_SID n) 0 (by show 0 + 32 ≤ 32; decide)).trans (Nat.zero_mod _)

theorem State.lnGo_eq (st : Nat) : s.lnGo n st = ((s.set (LANE.STAT_STATE n) st).modLane n
    (fun l => { l with since := s.now })).setB (mapBit BLK.UP_MAP0 BLK.UP_MAP1 n) (st == lnUP) := by
  unfold State.lnGo; rfl

theorem State.lane_lnGo (st m : Nat) : (s.lnGo n st).lane m = if m = n then { s.lane n with since := s.now } else s.lane m := by
  rw [State.lnGo_eq, State.lane_setB, State.lane_modLane]; rfl

/-- A lane enters a state: it and UP_MAP alone of the registers (R182). -/
theorem State.get_lnGo (st : Nat) {g : Fld} (hs : (LANE.STAT_STATE n).apart g)
    (hm : (mapBit BLK.UP_MAP0 BLK.UP_MAP1 n).apart g) : (s.lnGo n st).get g = s.get g := by
  rw [State.lnGo_eq, State.get_setB_apart _ _ _ _ hm, State.get_modLane, State.get_set_apart _ _ _ _ hs]

theorem State.lnGo_frame (st : Nat) : LaneFrame n s (s.lnGo n st) :=
  ⟨fun _ hg => s.get_lnGo n st hg.state (hg.map (by decide) (by decide)), fun m hm => by rw [State.lane_lnGo, if_neg hm], rfl⟩

theorem mapBit_addr_ne {lo hi k a : Nat} (hl : lo ≠ a) (hh : hi ≠ a) : (mapBit lo hi k).addr ≠ a := by
  rcases mapBit_addr (lo := lo) (hi := hi) (n := k) with h | h <;> rwa [h]

/-- The maps of the page BLK lie below the lanes' pages. -/
theorem mapBit_addr_ne_lane {lo hi k m o : Nat} (hl : lo < BLK.page + 0x1000) (hh : hi < BLK.page + 0x1000) :
    (mapBit lo hi k).addr ≠ LANE.page m + o :=
  mapBit_addr_ne (by simp only [LANE.page, BLK.page] at *; omega) (by simp only [LANE.page, BLK.page] at *; omega)

/-- The maps of the page BLK stand apart from the registers of the lanes. -/
theorem mapBit_apart_lane {lo hi k m o : Nat} {g : Fld} (hl : lo < BLK.page + 0x1000) (hh : hi < BLK.page + 0x1000)
    (hg : g.addr = LANE.page m + o) : (mapBit lo hi k).apart g := .inl (hg ▸ mapBit_addr_ne_lane hl hh)

theorem State.lnGo_ln {st : Nat} (h : st < 16) : (s.lnGo n st).ln n = st := by
  have hm : (mapBit BLK.UP_MAP0 BLK.UP_MAP1 n).apart (LANE.STAT_STATE n) :=
    mapBit_apart_lane (m := n) (o := 0x4C) (by decide) (by decide) (by simp only [LANE.page]; omega)
  rw [State.ln, State.lnGo_eq, State.get_setB_apart _ _ _ _ hm]
  exact s.get_set_state n st h

/-- UP_MAP follows the state entered (R182). -/
theorem State.lnGo_upMap {n : Nat} (hn : n < 48) (st : Nat) :
    (s.lnGo n st).get (mapBit BLK.UP_MAP0 BLK.UP_MAP1 n) = if st = lnUP then 1 else 0 := by
  rw [State.lnGo_eq, State.get_setB_self _ _ _ (mapBit_fits hn) mapBit_w]
  simp

/-- Putting a cell into a state writes the Grainer's page alone. -/
theorem State.get_setCst_outside {n : Nat} (hn : n < 48) (st : Nat) {g : Fld} (hg : outside GRN.page g) :
    (s.setCst n st).get g = s.get g := by
  have hset := State.get_set_apart s (GRN.CELL_STATE_STATE (n / 8) (n % 8)) g st
    (hg.apart (by simp only [GRN.page]; omega) (by simp only [GRN.page]; omega))
  refine (State.get_iff fun t => ?_).trans hset
  exact State.get_set_apart t (GRN.RANK_RANK (n / 4) (n % 4)) g 63
    (hg.apart (by simp only [GRN.page]; omega) (by simp only [GRN.page]; omega))

/-- A lane that was UP has left it: DOWN_MAP and the Grainer's page alone of the registers (R177, R182). -/
theorem State.get_lnLeft {n : Nat} (hn : n < 48) (b : Bool) {g : Fld} (hm : (mapBit BLK.DOWN_MAP0 BLK.DOWN_MAP1 n).apart g)
    (hg : outside GRN.page g) : (s.lnLeft n b).get g = s.get g := by
  have hset := State.get_set_apart s _ g 1 hm
  unfold State.lnLeft
  extract_lets u
  split
  · exact hset
  · exact (u.get_setCst_outside hn ckABSENT hg).trans hset

theorem State.lane_lnLeft (b : Bool) (m : Nat) : (s.lnLeft n b).lane m = s.lane m := by
  unfold State.lnLeft
  extract_lets u
  split
  · rfl
  · exact u.lane_setCst n m _

@[simp] theorem State.lnLeft_now (b : Bool) : (s.lnLeft n b).now = s.now := by
  unfold State.lnLeft
  extract_lets u
  split
  · rfl
  · exact u.setCst_now n _

theorem State.lnLeft_frame {n : Nat} (hn : n < 48) (b : Bool) : LaneFrame n s (s.lnLeft n b) :=
  ⟨fun g hg => s.get_lnLeft hn b (hg.map (by decide) (by decide)) hg.grn, fun m _ => s.lane_lnLeft n b m, s.lnLeft_now n b⟩

theorem State.lnLeft_downMap {n : Nat} (hn : n < 48) (b : Bool) :
    (s.lnLeft n b).get (mapBit BLK.DOWN_MAP0 BLK.DOWN_MAP1 n) = 1 := by
  have hset : (s.set (mapBit BLK.DOWN_MAP0 BLK.DOWN_MAP1 n) 1).get (mapBit BLK.DOWN_MAP0 BLK.DOWN_MAP1 n) = 1 :=
    s.get_set_mapBit _ _ hn 1
  have hout : outside GRN.page (mapBit BLK.DOWN_MAP0 BLK.DOWN_MAP1 n) := by
    rcases mapBit_addr (lo := BLK.DOWN_MAP0) (hi := BLK.DOWN_MAP1) (n := n) with ha | ha <;> rw [outside, ha] <;> decide
  unfold State.lnLeft
  extract_lets u
  split
  · exact hset
  · exact (u.get_setCst_outside hn ckABSENT hout).trans hset

theorem State.lnUnlock_frame : LaneFrame n s (s.lnUnlock n) := (LaneFrame.refl n s).modLane _

end changes

end Sys2Proof.Machine
end

section
/-! A lane that goes DOWN and a lane that is powered off (R150, R164, R177, R181, R182, R184): what each leaves. -/

namespace Sys2Proof.Machine

/-! ### DOWN -/

/-- A lane out of its session, with the cause of its fall, before it enters DOWN. -/
def State.lnFallen (s : State) (n cause : Nat) : State :=
  ((s.lnEnd n).set (LANE.STAT_DCAUSE n) cause).iff (s.ln n == lnUP) (fun s => s.lnLeft n true)

/-- The events of a lane that goes DOWN: DOWN of its page and of BLK, and those of its cause (R182, R184). -/
def State.downEvents (s : State) (n cause : Nat) : State :=
  let s := (s.irq (LANE.page n) 1).irq BLK.page 1
  let s := s.iff (cause == dcCFG_FAIL) (fun s => (s.irq (LANE.page n) 3).irq BLK.page 2)
  let s := s.iff (cause == dcVERSION) (fun s => s.irq BLK.page 3)
  s.iff (cause == dcDLY_BUDGET) (fun s => s.irq BLK.page 4)

section down
variable {s : State} {n cause : Nat}

theorem State.lnDown_idle (h : s.ln n = lnOFF ∨ s.ln n = lnDOWN) : s.lnDown n cause = s := by
  rcases h with h | h <;> simp [State.lnDown, h]

theorem State.lnDown_eq (h0 : s.ln n ≠ lnOFF) (h7 : s.ln n ≠ lnDOWN) :
    s.lnDown n cause = ((s.lnFallen n cause).lnGo n lnDOWN).downEvents n cause := by
  simp only [State.lnDown, beq_eq_false_iff_ne.2 h0, beq_eq_false_iff_ne.2 h7, Bool.or_self, Bool.false_eq_true, if_false]
  rfl

theorem State.downEvents_same {β : Type} (p : State → β) (hp : ∀ s pg b, p (State.irq s pg b) = p s) (s : State) :
    p (s.downEvents n cause) = p s := by
  unfold State.downEvents
  extract_lets u1 u2 u3
  have h2 : p u2 = p u1 := State.iff_same p _ ((hp _ _ _).trans (hp _ _ _))
  have h3 : p u3 = p u2 := State.iff_same p _ (hp _ _ _)
  have h1 : p u1 = p s := (hp _ _ _).trans (hp _ _ _)
  exact (State.iff_same p _ (hp _ _ _)).trans (h3.trans (h2.trans h1))

theorem State.get_downEvents (s : State) {g : Fld} (hl : g.addr ≠ LANE.page n + 0x14) (hb : g.addr ≠ BLK.page + 0x14) :
    (s.downEvents n cause).get g = s.get g := by
  have hi := fun (t : State) b => State.get_irq_of_ne t (LANE.page n) b g hl
  have hj := fun (t : State) b => State.get_irq_of_ne t BLK.page b g hb
  rw [State.downEvents, State.get_iff (fun t => hj t 4), State.get_iff (fun t => hj t 3),
    State.get_iff (fun t => (hj _ 2).trans (hi t 3)), hj, hi]

/-- Events raised stay raised when others are. -/
theorem State.raised_iff_irq {s : State} {pg b : Nat} {c : Bool} {f : State → State} (h : s.raised pg b)
    (hf : ∀ t : State, t.raised pg b → (f t).raised pg b) : (s.iff c f).raised pg b :=
  ite_keeps (P := fun t => t.raised pg b) (hf s h) h

theorem State.downEvents_raised (s : State) (n cause : Nat) :
    (s.downEvents n cause).raised (LANE.page n) 1 ∧ (s.downEvents n cause).raised BLK.page 1 := by
  have hl : ((s.irq (LANE.page n) 1).irq BLK.page 1).raised (LANE.page n) 1 :=
    State.raised_irq_of _ _ _ _ _ (s.raised_irq _ 1 (by decide))
  have hb : ((s.irq (LANE.page n) 1).irq BLK.page 1).raised BLK.page 1 := State.raised_irq _ _ 1 (by decide)
  have hi := fun {pg b} (t : State) q c (h : t.raised pg b) => t.raised_irq_of pg b q c h
  exact ⟨State.raised_iff_irq (State.raised_iff_irq (State.raised_iff_irq hl
      (fun _ h => hi _ _ _ (hi _ _ _ h))) (fun _ h => hi _ _ _ h)) (fun _ h => hi _ _ _ h),
    State.raised_iff_irq (State.raised_iff_irq (State.raised_iff_irq hb
      (fun _ h => hi _ _ _ (hi _ _ _ h))) (fun _ h => hi _ _ _ h)) (fun _ h => hi _ _ _ h)⟩

theorem State.downEvents_version (s : State) (n : Nat) : (s.downEvents n dcVERSION).raised BLK.page 3 :=
  State.raised_irq _ _ 3 (by decide)

theorem State.lane_downEvents (s : State) (m : Nat) : (s.downEvents n cause).lane m = s.lane m :=
  State.downEvents_same (fun t => t.lane m) (fun _ _ _ => rfl) s

theorem State.downEvents_frame (s : State) (n cause : Nat) : LaneFrame n s (s.downEvents n cause) :=
  ⟨fun _ hg => s.get_downEvents hg.raw (hg.blkMap (a := BLK.page + 0x14) (by decide)).symm,
    fun m _ => s.lane_downEvents m, State.downEvents_same State.now (fun _ _ _ => rfl) s⟩

theorem State.lnFallen_frame (hn : n < 48) : LaneFrame n s (s.lnFallen n cause) :=
  ((s.lnEnd_frame n).set (fun _ hg => hg.cause) cause).iff fun t => t.lnLeft_frame hn true

theorem State.lane_lnFallen (m : Nat) : (s.lnFallen n cause).lane m = if m = n then (s.lane n).ended else s.lane m := by
  rw [State.lnFallen, State.lane_iff (fun t => t.lane_lnLeft n true m), State.lane_set, State.lane_lnEnd]

theorem State.lnFallen_now : (s.lnFallen n cause).now = s.now := by
  rw [State.lnFallen, State.now_iff (fun t => t.lnLeft_now n true)]
  exact (s.lnEnd_frame n).now

/-- What a lane that was UP leaves behind it keeps every field of the lanes' pages. -/
theorem State.get_lnFallen (hn : n < 48) {g : Fld} {m o : Nat} (hg : g.addr = LANE.page m + o) :
    (s.lnFallen n cause).get g = ((s.lnEnd n).set (LANE.STAT_DCAUSE n) cause).get g :=
  State.get_iff fun t => t.get_lnLeft hn true (mapBit_apart_lane (by decide) (by decide) hg) (outside_of_lanePage hg).2

theorem State.lnFallen_cause (hn : n < 48) (hc : cause < 16) : (s.lnFallen n cause).get (LANE.STAT_DCAUSE n) = cause := by
  rw [State.get_lnFallen hn (m := n) (o := 0x4C) (by simp only [LANE.page]; omega)]
  exact (State.get_set_self _ _ _ (by show 4 + 4 ≤ 32; decide)).trans (Nat.mod_eq_of_lt hc)

theorem State.lnFallen_sid (hn : n < 48) : (s.lnFallen n cause).get (LANE.SID_SID n) = 0 := by
  rw [State.get_lnFallen hn (m := n) (o := 0x64) (by simp only [LANE.page]; omega)]
  exact (State.get_set_apart _ _ _ _ (.inl (by simp only; omega))).trans (s.lnEnd_sid n)

/-- Every lane goes DOWN without touching another, whatever its state. -/
theorem State.lnDown_frame (hn : n < 48) (s : State) (cause : Nat) : LaneFrame n s (s.lnDown n cause) := by
  by_cases h : s.ln n = lnOFF ∨ s.ln n = lnDOWN
  · rw [State.lnDown_idle h]; exact .refl n s
  · obtain ⟨h0, h7⟩ := not_or.1 h
    rw [State.lnDown_eq h0 h7]
    exact ((State.lnFallen_frame hn).trans (State.lnGo_frame _ n _)).trans (State.downEvents_frame _ n cause)

variable (hn : n < 48) (h0 : s.ln n ≠ lnOFF) (h7 : s.ln n ≠ lnDOWN)
include h0 h7

theorem State.lane_lnDown (m : Nat) :
    (s.lnDown n cause).lane m = if m = n then { (s.lane n).ended with since := s.now } else s.lane m := by
  rw [State.lnDown_eq h0 h7, State.lane_downEvents, State.lane_lnGo, State.lane_lnFallen, State.lane_lnFallen, if_pos rfl]
  rw [State.lnFallen_now]
  split <;> rfl

include hn

/-- The registers a lane that went DOWN shows beside its state and the maps. -/
theorem State.get_lnDown {g : Fld} {o : Nat} (hg : g.addr = LANE.page n + o) (ho : o ≠ 0x14)
    (hs : (LANE.STAT_STATE n).apart g) : (s.lnDown n cause).get g = (s.lnFallen n cause).get g := by
  rw [State.lnDown_eq h0 h7, State.get_downEvents _ (by rw [hg]; omega) (by rw [hg]; simp only [LANE.page, BLK.page]; omega),
    State.get_lnGo _ _ _ hs (mapBit_apart_lane (by decide) (by decide) hg)]

theorem State.lnDown_ln : (s.lnDown n cause).ln n = lnDOWN := by
  rw [State.lnDown_eq h0 h7, State.ln, State.get_downEvents _ (by simp only [LANE.page]; omega)
    (by simp only [BLK.page]; omega)]
  exact State.lnGo_ln _ n (by decide)

theorem State.lnDown_cause (hc : cause < 16) : (s.lnDown n cause).get (LANE.STAT_DCAUSE n) = cause := by
  rw [State.get_lnDown hn h0 h7 (o := 0x4C) (by simp only [LANE.page]; omega) (by decide) (.inr (.inl (by show 0 + 4 ≤ 4; decide)))]
  exact State.lnFallen_cause hn hc

theorem State.lnDown_sid : (s.lnDown n cause).get (LANE.SID_SID n) = 0 := by
  rw [State.get_lnDown hn h0 h7 (o := 0x64) (by simp only [LANE.page]; omega) (by decide) (.inl (by simp only; omega))]
  exact State.lnFallen_sid hn

theorem State.lnDown_upMap : (s.lnDown n cause).get (mapBit BLK.UP_MAP0 BLK.UP_MAP1 n) = 0 := by
  rw [State.lnDown_eq h0 h7, State.get_downEvents _ (mapBit_addr_ne_lane (by decide) (by decide))
    (mapBit_addr_ne (by decide) (by decide)), State.lnGo_upMap _ hn]
  rfl

theorem State.lnDown_downMap (hu : s.ln n = lnUP) : (s.lnDown n cause).get (mapBit BLK.DOWN_MAP0 BLK.DOWN_MAP1 n) = 1 := by
  have hstate : (LANE.STAT_STATE n).addr = LANE.page n + 0x4C := by simp only [LANE.page]; omega
  have hmaps : (mapBit BLK.UP_MAP0 BLK.UP_MAP1 n).addr ≠ (mapBit BLK.DOWN_MAP0 BLK.DOWN_MAP1 n).addr := by
    refine mapBit_addr_ne ?_ ?_ <;> exact (mapBit_addr_ne (by decide) (by decide)).symm
  rw [State.lnDown_eq h0 h7, State.get_downEvents _ (mapBit_addr_ne_lane (by decide) (by decide))
    (mapBit_addr_ne (by decide) (by decide)),
    State.get_lnGo _ _ _ (.inl (by rw [hstate]; exact (mapBit_addr_ne_lane (by decide) (by decide)).symm)) (.inl hmaps),
    State.lnFallen, State.iff_true (by simp [hu])]
  exact State.lnLeft_downMap _ hn true

omit hn in
theorem State.lnDown_raised : (s.lnDown n cause).raised (LANE.page n) 1 ∧ (s.lnDown n cause).raised BLK.page 1 := by
  rw [State.lnDown_eq h0 h7]; exact State.downEvents_raised _ n cause

omit hn in
theorem State.lnDown_version : (s.lnDown n dcVERSION).raised BLK.page 3 := by
  rw [State.lnDown_eq h0 h7]; exact State.downEvents_version _ n

end down

/-! ### OFF -/

section off
variable {s : State} {n : Nat}

/-- A lane out of its session with its power gone, before it enters OFF. -/
def State.lnUnpowered (s : State) (n : Nat) : State :=
  (((s.lnEnd n).lnUnlock n).set (LANE.STAT_DCAUSE n) dcDISABLED).iff (s.ln n == lnUP)
    (fun s => ((s.lnLeft n true).irq (LANE.page n) 1).irq BLK.page 1)

theorem State.lnOff_eq (h0 : s.ln n ≠ lnOFF) : s.lnOff n = (s.lnUnpowered n).lnGo n lnOFF := by
  simp only [State.lnOff, beq_eq_false_iff_ne.2 h0, Bool.false_eq_true, if_false]
  rfl

theorem State.lnUnpowered_frame (hn : n < 48) : LaneFrame n s (s.lnUnpowered n) :=
  (((s.lnEnd_frame n).trans (State.lnUnlock_frame _ n)).set (fun _ hg => hg.cause) dcDISABLED).iff
    fun t => ((t.lnLeft_frame hn true).laneIrq 1).blkIrq 1

theorem State.get_lnUnpowered (hn : n < 48) {g : Fld} {o : Nat} (hg : g.addr = LANE.page n + o) (ho : o ≠ 0x14) :
    (s.lnUnpowered n).get g = ((s.lnEnd n).set (LANE.STAT_DCAUSE n) dcDISABLED).get g := by
  refine State.get_iff fun t => ?_
  rw [State.get_irq_of_ne _ _ _ _ (by rw [hg]; simp only [LANE.page, BLK.page]; omega),
    State.get_irq_of_ne _ _ _ _ (by rw [hg]; omega), State.get_lnLeft _ hn true (mapBit_apart_lane (by decide) (by decide) hg)
    (outside_of_lanePage hg).2]

theorem State.lane_lnUnpowered (s : State) (n : Nat) : (s.lnUnpowered n).lane n = { (s.lane n).ended with hdr := {} } := by
  refine (State.lane_iff fun t => ?_).trans ?_
  · rw [State.lane_irq, State.lane_irq, State.lane_lnLeft]
  · rw [State.lane_set, State.lnUnlock, State.lane_modLane_self, State.lane_lnEnd, if_pos rfl]

/-- A lane powered off is OFF with cause DISABLED, out of its session and without block lock (R150, R181, R183). -/
theorem State.lnOff_leaves (hn : n < 48) (h0 : s.ln n ≠ lnOFF) : (s.lnOff n).ln n = lnOFF ∧
    (s.lnOff n).get (LANE.STAT_DCAUSE n) = dcDISABLED ∧ (s.lnOff n).get (LANE.SID_SID n) = 0 ∧
    ((s.lnOff n).lane n).ks = none ∧ ((s.lnOff n).lane n).hdr = {} := by
  have hlane : (s.lnOff n).lane n = { (s.lnUnpowered n).lane n with since := (s.lnUnpowered n).now } := by
    rw [State.lnOff_eq h0, State.lane_lnGo, if_pos rfl]
  rw [hlane, State.lane_lnUnpowered, State.lnOff_eq h0]
  refine ⟨State.lnGo_ln _ n (by decide), ?_, ?_, rfl, rfl⟩
  · have hg : (LANE.STAT_DCAUSE n).addr = LANE.page n + 0x4C := by simp only [LANE.page]; omega
    rw [State.get_lnGo _ _ _ (.inr (.inl (by show 0 + 4 ≤ 4; decide))) (mapBit_apart_lane (by decide) (by decide) hg),
      State.get_lnUnpowered hn hg (by decide)]
    exact State.get_set_self _ _ _ (by show 4 + 4 ≤ 32; decide)
  · have hg : (LANE.SID_SID n).addr = LANE.page n + 0x64 := by simp only [LANE.page]; omega
    rw [State.get_lnGo _ _ _ (.inl (by simp only; omega)) (mapBit_apart_lane (by decide) (by decide) hg),
      State.get_lnUnpowered hn hg (by decide), State.get_set_apart _ _ _ _ (.inl (by simp only; omega))]
    exact s.lnEnd_sid n

theorem State.lnOff_frame (hn : n < 48) (h0 : s.ln n ≠ lnOFF) : LaneFrame n s (s.lnOff n) := by
  rw [State.lnOff_eq h0]
  exact (State.lnUnpowered_frame hn).trans (State.lnGo_frame _ n lnOFF)

end off

end Sys2Proof.Machine
end

section
/-! What a lane receives and sends outside a session: its sync headers (R147, R164), its HELLO (R166), the steps of training
that a timer takes (R164, R168, R175), and a host write to LNn_CFG (R150, R175, R181, R183). -/

namespace Sys2Proof.Machine

/-! ### Frames that leave -/

section sends
variable (s : State) (n m : Nat) (f : Frame)

@[simp] theorem State.ln_lnFrame : (s.lnFrame n f).ln m = s.ln m := rfl

theorem State.lane_lnSend (bs : List Blk) : (s.lnSend n bs).lane m =
    if m = n then { s.lane n with line := codeBlks bs (Config.scrambler n s.now) } else s.lane m := s.lane_modLane n m _

theorem State.lnSend_frame (bs : List Blk) : LaneFrame n s (s.lnSend n bs) := (LaneFrame.refl n s).modLane _

theorem State.lane_lnFrame : (s.lnFrame n f).lane n =
    { s.lane n with line := codeBlks (frameBlks f) (Config.scrambler n s.now), tx := some f } := by
  rw [State.lnFrame, State.lane_modLane_self, State.lane_lnSend, if_pos rfl]

/-- The module's HELLO is a matter of BLK's CFG and MCAP and of the straps (R166). -/
theorem State.helloFrame_congr {s t : State} (hv : t.get BLK.CFG_VMAX = s.get BLK.CFG_VMAX)
    (hc : t.get BLK.MCAP_CAP = s.get BLK.MCAP_CAP) (hs : t.straps = s.straps) : t.helloFrame = s.helloFrame := by
  rw [State.helloFrame, State.helloFrame, hv, hc, hs]

end sends

/-! ### Sync headers (R147) -/

/-- The latest headers are `k` invalid ones after valid ones alone. -/
def invalidRun (k : Nat) (l : List Bool) : Prop := ∃ h, l = List.replicate k false ++ h ∧ false ∉ h

theorem invalidRun.count {k : Nat} {l : List Bool} (h : invalidRun k l) : l.count false = k := by
  obtain ⟨v, rfl, hv⟩ := h
  simp [List.count_eq_zero_of_not_mem hv]

theorem invalidRun.take {k : Nat} {l : List Bool} (h : invalidRun k l) (hk : k < 64) :
    invalidRun (k + 1) ((false :: l).take 64) := by
  obtain ⟨v, rfl, hv⟩ := h
  refine ⟨v.take (63 - k), ?_, fun hm => hv (List.mem_of_mem_take hm)⟩
  rw [← List.cons_append, ← List.replicate_succ, List.take_append, List.length_replicate,
    List.take_of_length_le (by rw [List.length_replicate]; omega), show 64 - (k + 1) = 63 - k by omega]

section headers
variable {r : HdrRx} {k : Nat}

/-- An unlocked receiver that has not had 63 valid headers in a row stays unlocked. -/
theorem HdrRx.take_waits (hl : r.lock = false) (hr : r.run < 63) (ok : Bool) :
    (r.take ok).lock = false ∧ (r.take ok).run = if ok then r.run + 1 else 0 := by
  cases ok <;> simp [HdrRx.take, hl, hr]

theorem HdrRx.take_locks (hl : r.lock = false) (hr : r.run = 63) : (r.take true).lock = true := by
  simp [HdrRx.take, hl, hr]

/-- A locked receiver keeps lock up to its fifteenth invalid header. -/
theorem HdrRx.take_keeps (hl : r.lock = true) (hi : invalidRun k r.hist) (hk : k < 15) :
    (r.take false).lock = true ∧ invalidRun (k + 1) (r.take false).hist := by
  have hnext := hi.take (by omega)
  have hc : ¬ 16 ≤ ((false :: r.hist).take 64).count false := by rw [hnext.count]; omega
  simp only [HdrRx.take, hl, hc, if_true, if_false]
  exact ⟨trivial, hnext⟩

theorem HdrRx.take_loses (hl : r.lock = true) (hi : invalidRun 15 r.hist) : (r.take false).lock = false := by
  have hc : 16 ≤ ((false :: r.hist).take 64).count false := by rw [(hi.take (by decide)).count]
  simp only [HdrRx.take, hl, hc, if_true]

end headers

/-- What a lane's receiver holds after one more header. -/
def State.hdrTaken (s : State) (n : Nat) (ok : Bool) : State :=
  s.modLane n (fun l => { l with hdr := (s.lane n).hdr.take ok })

theorem State.lane_hdrTaken (s : State) (n : Nat) (ok : Bool) :
    ((s.hdrTaken n ok).lane n).hdr = (s.lane n).hdr.take ok := by
  rw [State.hdrTaken, State.lane_modLane_self]

section receives
variable {s : State} {n k : Nat}

/-- A lane that is off or under test receives no sync header. -/
theorem State.hdrRx_deaf (h : s.ln n ∈ [lnOFF, lnPRBS]) (ok : Bool) : s.hdrRx n ok = s := if_pos h

/-- A header that leaves an unlocked receiver unlocked does nothing else. -/
theorem State.hdrRx_waits (h : s.ln n ∉ [lnOFF, lnPRBS]) (hl : (s.lane n).hdr.lock = false) {ok : Bool}
    (ht : ((s.lane n).hdr.take ok).lock = false) : s.hdrRx n ok = s.hdrTaken n ok := by
  simp only [State.hdrRx, h, if_false, hl, ht, Bool.false_and, Bool.false_eq_true]
  rw [State.iff_false rfl, State.iff_false rfl]
  rfl

/-- The header that brings block lock takes a lane in LOCK to HELLO. -/
theorem State.hdrRx_locks (h : s.ln n = lnLOCK) (hl : (s.lane n).hdr.lock = false)
    (ht : ((s.lane n).hdr.take true).lock = true) :
    s.hdrRx n true = ((s.hdrTaken n true).lnGo n lnHELLO).lnFrame n (s.hdrTaken n true).helloFrame := by
  have hd : s.ln n ∉ [lnOFF, lnPRBS] := by rw [h]; decide
  have hs : (s.hdrTaken n true).ln n = lnLOCK := h
  simp only [State.hdrRx, hd, if_false, hl, ht, Bool.false_and, Bool.false_eq_true]
  rw [State.iff_false rfl, Bool.and_self, State.iff_true rfl]
  exact if_pos (by rw [beq_iff_eq]; exact hs)

/-- An invalid header under lock counts in BLKERR.HDR. -/
theorem State.hdrRx_counts (h : s.ln n ∉ [lnOFF, lnPRBS]) (hl : (s.lane n).hdr.lock = true)
    (ht : ((s.lane n).hdr.take false).lock = true) : s.hdrRx n false = (s.bump (LANE.BLKERR_HDR n)).hdrTaken n false := by
  simp only [State.hdrRx, h, if_false, hl, ht, Bool.not_false, Bool.and_true, Bool.not_true, Bool.and_false, Bool.false_eq_true]
  rw [State.iff_true rfl, State.iff_false rfl]
  rfl

theorem State.hdrRx_loses (h : s.ln n ∉ [lnOFF, lnPRBS]) (hl : (s.lane n).hdr.lock = true)
    (ht : ((s.lane n).hdr.take false).lock = false) :
    s.hdrRx n false = ((s.bump (LANE.BLKERR_HDR n)).hdrTaken n false).lnLockLost n := by
  simp only [State.hdrRx, h, if_false, hl, ht, Bool.not_false, Bool.and_true, if_true]
  rw [State.iff_true rfl]
  rfl

/-- The sync headers of a list reach a lane, one after the other. -/
def State.hdrsRx (s : State) (n : Nat) (hdrs : List (BitVec 2)) : State := s.each hdrs (fun s h => s.hdrRx n (hdrOk h))

theorem State.hdrsRx_cons (s : State) (n : Nat) (h : BitVec 2) (hdrs : List (BitVec 2)) :
    s.hdrsRx n (h :: hdrs) = (s.hdrRx n (hdrOk h)).hdrsRx n hdrs := rfl

theorem State.hdrsRx_concat (s : State) (n : Nat) (h : BitVec 2) (hdrs : List (BitVec 2)) :
    s.hdrsRx n (hdrs ++ [h]) = (s.hdrsRx n hdrs).hdrRx n (hdrOk h) := by
  simp [State.hdrsRx, State.each, List.foldl_append]

theorem State.hdrsRx_deaf (h : s.ln n ∈ [lnOFF, lnPRBS]) (hdrs : List (BitVec 2)) : s.hdrsRx n hdrs = s := by
  induction hdrs with
  | nil => rfl
  | cons a l ih => rw [State.hdrsRx_cons, State.hdrRx_deaf h, ih]

/-- From `s` to `t` the registers and the straps are as they were, and lane `n`'s receiver is unlocked. -/
structure State.lockWaits (n : Nat) (s t : State) : Prop where
  regs : t.regs = s.regs
  straps : t.straps = s.straps
  lock : (t.lane n).hdr.lock = false

/-- Fewer than 64 headers bring no lock, and valid ones alone count one by one (R147). -/
theorem State.hdrsRx_waits {hdrs : List (BitVec 2)} : ∀ {s : State}, s.ln n ∉ [lnOFF, lnPRBS] → (s.lane n).hdr.lock = false →
    (s.lane n).hdr.run + hdrs.length < 64 → lockWaits n s (s.hdrsRx n hdrs) ∧
      ((∀ h ∈ hdrs, hdrOk h = true) → ((s.hdrsRx n hdrs).lane n).hdr.run = (s.lane n).hdr.run + hdrs.length) := by
  induction hdrs with
  | nil => exact fun _ hl _ => ⟨⟨rfl, rfl, hl⟩, fun _ => rfl⟩
  | cons a l ih =>
    intro s hs hl hr
    rw [List.length_cons] at hr
    obtain ⟨htl, htr⟩ := HdrRx.take_waits hl (by omega) (hdrOk a)
    have hrun : ((s.lane n).hdr.take (hdrOk a)).run ≤ (s.lane n).hdr.run + 1 := by rw [htr]; split <;> omega
    rw [State.hdrsRx_cons, State.hdrRx_waits hs hl htl]
    obtain ⟨⟨hregs, hstraps, hlock⟩, hcount⟩ := ih (s := s.hdrTaken n (hdrOk a)) hs (by rwa [State.lane_hdrTaken])
      (by rw [State.lane_hdrTaken]; omega)
    refine ⟨⟨hregs, hstraps, hlock⟩, fun hv => ?_⟩
    rw [hcount fun h hm => hv h (List.mem_cons_of_mem a hm), State.lane_hdrTaken, htr, hv a (by simp), if_pos rfl,
      List.length_cons]
    omega

/-- After `k` invalid headers under lock: the lane's state, the count, and the headers held (R147). -/
structure State.hdrErrs (n : Nat) (s : State) (k : Nat) (t : State) : Prop where
  ln : t.ln n = s.ln n
  count : t.get (LANE.BLKERR_HDR n) = min 65535 (s.get (LANE.BLKERR_HDR n) + k)
  lock : (t.lane n).hdr.lock = true
  hist : invalidRun k (t.lane n).hdr.hist

theorem State.get_bump_hdr (s : State) (n : Nat) :
    (s.bump (LANE.BLKERR_HDR n)).get (LANE.BLKERR_HDR n) = min 65535 (s.get (LANE.BLKERR_HDR n) + 1) :=
  (s.get_bump _ (by show 0 + 16 ≤ 32; decide)).trans (Nat.min_comm _ _)

theorem State.bump_hdr_ln (s : State) (n : Nat) : (s.bump (LANE.BLKERR_HDR n)).ln n = s.ln n :=
  State.get_set_apart _ _ _ _ (.inl (by simp only; omega))

theorem State.hdrErrs.next {t : State} (h : hdrErrs n s k t) (hs : s.ln n ∉ [lnOFF, lnPRBS]) (hk : k < 15) :
    hdrErrs n s (k + 1) (t.hdrRx n false) := by
  obtain ⟨hlock, hhist⟩ := HdrRx.take_keeps h.lock h.hist hk
  rw [State.hdrRx_counts (h.ln ▸ hs) h.lock hlock]
  have hl : (((t.bump (LANE.BLKERR_HDR n)).hdrTaken n false).lane n).hdr = (t.lane n).hdr.take false :=
    State.lane_hdrTaken _ n false
  refine ⟨(t.bump_hdr_ln n).trans h.ln, (t.get_bump_hdr n).trans ?_, by rwa [hl], by rwa [hl]⟩
  rw [h.count]; omega

theorem State.hdrErrs_start (hl : (s.lane n).hdr.lock = true) (h0 : (s.lane n).hdr.hist.count false = 0) :
    hdrErrs n s 0 s := by
  have hlt : s.get (LANE.BLKERR_HDR n) < 2 ^ 16 := s.get_lt _
  exact ⟨rfl, by omega, hl, _, rfl, List.count_eq_zero.1 h0⟩

theorem State.hdrsRx_errs (hs : s.ln n ∉ [lnOFF, lnPRBS]) (hl : (s.lane n).hdr.lock = true)
    (h0 : (s.lane n).hdr.hist.count false = 0) {h : BitVec 2} (hh : hdrOk h = false) :
    ∀ k ≤ 15, hdrErrs n s k (s.hdrsRx n (List.replicate k h)) := by
  intro k
  induction k with
  | zero => exact fun _ => State.hdrErrs_start hl h0
  | succ k ih =>
    intro hk
    rw [List.replicate_succ', State.hdrsRx_concat, hh]
    exact (ih (by omega)).next hs (by omega)

/-- Lost block lock is counted, and takes a lane past LOCK DOWN (R147, R164, R181). -/
theorem State.lnLockLost_down (hlk : s.ln n ≠ lnLOCK) (h7 : s.ln n ≠ lnDOWN) :
    s.lnLockLost n = (s.bump (LANE.BLKERR_LOCKLOSS n)).lnDown n dcLOCK_LOSS := by
  simp only [State.lnLockLost, beq_iff_eq, h7, hlk, if_false]

theorem State.bump_lockLoss_ln (s : State) (n : Nat) : (s.bump (LANE.BLKERR_LOCKLOSS n)).ln n = s.ln n :=
  State.get_set_apart _ _ _ _ (.inl (by simp only; omega))

theorem State.lnLockLost_leaves (hn : n < 48) (h0 : s.ln n ≠ lnOFF) (hlk : s.ln n ≠ lnLOCK) (h7 : s.ln n ≠ lnDOWN) :
    (s.lnLockLost n).ln n = lnDOWN ∧ (s.lnLockLost n).get (LANE.STAT_DCAUSE n) = dcLOCK_LOSS ∧
      ((s.lnLockLost n).lane n).hdr = (s.lane n).hdr ∧
      (s.lnLockLost n).get (LANE.BLKERR_HDR n) = s.get (LANE.BLKERR_HDR n) := by
  rw [← s.bump_lockLoss_ln n] at h0
  have h7' := (s.bump_lockLoss_ln n).trans_ne h7
  rw [State.lnLockLost_down hlk h7, State.lane_lnDown h0 h7', if_pos rfl]
  refine ⟨State.lnDown_ln hn h0 h7', State.lnDown_cause hn h0 h7' (by decide), rfl, ?_⟩
  rw [(State.lnDown_frame hn _ dcLOCK_LOSS).get _ (lnQuiet_own (o := 0x6C) (by simp only [LANE.page]; omega) (by decide))]
  exact State.get_set_apart _ _ _ _ (.inr (.inr (by show 0 + 16 ≤ 16; decide)))

/-- The sixteenth invalid header takes a lane past LOCK DOWN (R147, R164, R181). -/
theorem State.hdrErrs.loses {t : State} (h : hdrErrs n s 15 t) (hn : n < 48)
    (hs : s.ln n ∉ [lnOFF, lnLOCK, lnPRBS, lnDOWN]) : (t.hdrRx n false).ln n = lnDOWN ∧
      (t.hdrRx n false).get (LANE.STAT_DCAUSE n) = dcLOCK_LOSS ∧ ((t.hdrRx n false).lane n).hdr.lock = false ∧
      (t.hdrRx n false).get (LANE.BLKERR_HDR n) = min 65535 (s.get (LANE.BLKERR_HDR n) + 16) := by
  simp only [List.mem_cons, List.not_mem_nil, or_false, not_or] at hs
  obtain ⟨hoff, hlk, hprbs, hdn⟩ := hs
  have hlost := HdrRx.take_loses h.lock h.hist
  have hd : t.ln n ∉ [lnOFF, lnPRBS] := by rw [h.ln]; simp [hoff, hprbs]
  rw [State.hdrRx_loses hd h.lock hlost]
  generalize hu : (t.bump (LANE.BLKERR_HDR n)).hdrTaken n false = u
  have hul : u.ln n = s.ln n := hu ▸ (t.bump_hdr_ln n).trans h.ln
  have huh : (u.lane n).hdr.lock = false := by
    rw [← hu, State.lane_hdrTaken]; exact hlost
  have huc : u.get (LANE.BLKERR_HDR n) = min 65535 (s.get (LANE.BLKERR_HDR n) + 16) := by
    rw [← hu]; refine (t.get_bump_hdr n).trans ?_; rw [h.count]; omega
  obtain ⟨hln, hcause, hhdr, hcnt⟩ := State.lnLockLost_leaves (s := u) hn (hul ▸ hoff) (hul ▸ hlk) (hul ▸ hdn)
  exact ⟨hln, hcause, hhdr ▸ huh, hcnt.trans huc⟩
end receives

/-! ### Host writes to LNn_CFG (R150, R175, R183) -/

/-- The row of LNn_CFG: EN, PRBS, CMD and PRBS_MS are RW. -/
def laneCfgRow : RegRow := ⟨0x40, 1, 0, 0xFFFF003F, 0x0, 0x0, 0x0, 0x0, 0x0, 0x3E80010⟩

theorem rowAt_laneCfg : rowAt .lane 0x40 = some (laneCfgRow, 0) := by decide

/-- A write that asks for a test the lane has not been asked for (R175). -/
def State.prbsAsked (s : State) (n : Nat) (val : Word) : Bool :=
  getBits val 1 2 != 0 && getBits val 1 2 != s.get (LANE.CFG_PRBS n)

/-- What a write to LNn_CFG does once it is accepted: the power, the request for a test, or its withdrawal. -/
def State.laneCfgGo (s : State) (n : Nat) (val : Word) (en0 prbs : Bool) : State :=
  let en1 := getBits val 0 1 == 1
  let s := s.take .lane (LANE.page n) 0x40 val
  let s := s.iff (getBits val 1 2 == 0) (fun s => s.modLane n (fun l => { l with prbsWant := false }))
  if !en0 && en1 then (s.lnGo n lnLOCK).modLane n (fun l => { l with prbsWant := l.prbsWant || prbs })
  else if en0 && !en1 then s.lnOff n
  else if prbs then
    if s.ln n == lnUP && (s.lane n).await.isNone then s.sendPrbs n (s.prbsReq n)
    else s.modLane n (fun l => { l with prbsWant := true })
  else s

section laneCfg
variable {s : State} {n : Nat} {val : Word}

theorem State.laneCfgWrite_eq (s : State) (n : Nat) (val : Word) : s.laneCfgWrite n val = s.judge (LANE.page n) 0x40
    [(decide (5 ≤ getBits val 3 3), eRANGE), (s.prbsAsked n val && decide (s.cst n ∈ [ckACTIVE, ckCHARGING, ckSPARE]), bSTATE)]
    (fun t => t.laneCfgGo n val (s.on (LANE.CFG_EN n)) (s.prbsAsked n val)) := rfl

theorem State.laneCfgWrite_run (ht : s.takes (LANE.page n)) (hc : getBits val 3 3 < 5)
    (hp : s.prbsAsked n val = true → s.cst n ∉ [ckACTIVE, ckCHARGING, ckSPARE]) :
    s.laneCfgWrite n val = s.laneCfgGo n val (s.on (LANE.CFG_EN n)) (s.prbsAsked n val) := by
  rw [State.laneCfgWrite_eq]
  refine State.judge_takes ht fun x hx => ?_
  simp only [List.mem_cons, List.not_mem_nil, or_false] at hx
  rcases hx with rfl | rfl
  · simpa using hc
  · cases ha : s.prbsAsked n val with
    | false => rfl
    | true => exact decide_eq_false (by simpa using hp ha)

/-- A reserved CMD is refused whatever else the write asks for (R183). -/
theorem State.laneCfgWrite_range (hg : s.pageGated (LANE.page n) = false) (hc : 5 ≤ getBits val 3 3) :
    s.laneCfgWrite n val = s.refuse (LANE.page n) 0x40 eRANGE := by
  rw [State.laneCfgWrite_eq]
  refine State.judge_range hg (by simp [hc]) fun x hx _ => ?_
  simp only [List.mem_cons, List.not_mem_nil, or_false] at hx
  rcases hx with rfl | rfl <;> (dsimp only; decide)

theorem State.take_laneCfg (s : State) (n : Nat) (val : Word) : ∃ w, s.take .lane (LANE.page n) 0x40 val = s.setReg (LANE.CFG n) w :=
  ⟨_, (State.take_free rowAt_laneCfg rfl).trans (by rw [show LANE.page n + 0x40 = LANE.CFG n by simp only [LANE.page, LANE.CFG]; omega])⟩

/-- Every field of LNn_CFG takes the value written. -/
theorem State.get_take_laneCfg (s : State) (val : Word) {f : Fld} (hf : f.addr = LANE.CFG n) (hw : f.lo + f.w ≤ 32)
    (ho : ∀ i, i < f.w → (0xFFFF003F : Nat).testBit (f.lo + i) = true) :
    (s.take .lane (LANE.page n) 0x40 val).get f = getBits val f.lo f.w :=
  State.get_take_open rowAt_laneCfg (by decide) (hf.trans (by simp only [LANE.CFG, LANE.page]; omega)) hw fun i hi => by
    rw [Nat.testBit_or, show laneCfgRow.rw = 0xFFFF003F from rfl, ho i hi, Bool.true_or]

theorem State.prbsAsked_none (hp : getBits val 1 2 = 0) : s.prbsAsked n val = false := by simp [State.prbsAsked, hp]

/-- What a write of LNn_CFG that withdraws a test leaves, before the lane's power follows EN. -/
def State.laneCfgTaken (s : State) (n : Nat) (val : Word) : State :=
  (s.take .lane (LANE.page n) 0x40 val).modLane n (fun l => { l with prbsWant := false })

theorem State.laneCfgTaken_ln (s : State) (n m : Nat) (val : Word) : (s.laneCfgTaken n val).ln m = s.ln m := by
  obtain ⟨w, hw⟩ := s.take_laneCfg n val
  rw [State.laneCfgTaken, hw]
  exact State.get_congr _ (s.reg_setReg_of_ne w (by simp only [LANE.CFG]; omega))

theorem State.laneCfgTaken_en (s : State) (n : Nat) (val : Word) :
    (s.laneCfgTaken n val).get (LANE.CFG_EN n) = getBits val 0 1 :=
  s.get_take_laneCfg val rfl (by show 0 + 1 ≤ 32; decide) (fun i hi => by rw [Nat.lt_one_iff.1 hi]; show Nat.testBit 0xFFFF003F (0 + 0) = true; decide)

/-- A write that sets EN powers the lane on: it enters LOCK (R164). -/
theorem State.laneCfgWrite_powersOn (ht : s.takes (LANE.page n)) (hen : s.get (LANE.CFG_EN n) = 0) (hc : getBits val 3 3 < 5)
    (hp : getBits val 1 2 = 0) (hv : getBits val 0 1 = 1) : s.laneCfgWrite n val =
      ((s.laneCfgTaken n val).lnGo n lnLOCK).modLane n (fun l => { l with prbsWant := l.prbsWant || false }) := by
  have ha : s.prbsAsked n val = false := State.prbsAsked_none hp
  rw [State.laneCfgWrite_run ht hc (by simp [ha]), ha]
  simp only [State.laneCfgGo, State.on_of_get_zero hen, hv, hp, beq_self_eq_true, Bool.not_false, Bool.and_self, if_true]
  rfl

/-- A write that clears EN powers the lane off (R150). -/
theorem State.laneCfgWrite_powersOff (ht : s.takes (LANE.page n)) (hen : s.get (LANE.CFG_EN n) = 1) (hc : getBits val 3 3 < 5)
    (hp : getBits val 1 2 = 0) (hv : getBits val 0 1 = 0) : s.laneCfgWrite n val = (s.laneCfgTaken n val).lnOff n := by
  have ha : s.prbsAsked n val = false := State.prbsAsked_none hp
  rw [State.laneCfgWrite_run ht hc (by simp [ha]), ha]
  simp only [State.laneCfgGo, State.on_of_get_one hen, hv, hp, Bool.not_true, Bool.false_eq_true, if_false,
    show ((0 : Nat) == 1) = false from rfl, Bool.not_false, Bool.and_self, if_true]
  rfl

end laneCfg

/-! ### Timers (R164, R168, R175) -/

section sopen
variable {s : State} {n : Nat}

/-- The lane after it has sent an SOPEN: one more attempt, a SID and a nonce drawn (R168). -/
structure State.sopenSent (s : State) (n : Nat) (t : State) : Prop where
  get : ∀ g, t.get g = s.get g
  tries : (t.lane n).tries = (s.lane n).tries + 1
  sid : (t.lane n).sidP ≠ 0

theorem State.sopen_sends {kp : BitVec 256} (h : s.pairKey (s.get (LANE.PEER2_KID n)) = some kp) :
    s.sopenSent n (s.sopen n) := by
  simp only [State.sopen, h]
  refine ⟨fun _ => rfl, ?_, ?_⟩
  · rw [State.lane_lnFrame, State.lane_modLane_self]; rfl
  · rw [State.lane_lnFrame, State.lane_modLane_self]
    show (if (Config.freeWord s.freeN).toNat = 0 then 1 else (Config.freeWord s.freeN).toNat) ≠ 0
    split
    · decide
    · assumption

end sopen

end Sys2Proof.Machine
end

section
/-! The statement about the states of a cell lane: its power, what a lane going DOWN leaves, and its training steps. -/

namespace Sys2Proof.Machine

section power
variable {n : Fin 48} {v : Word} {s : State}

theorem execLaneEnable_powersOn (ht : s.takes (LANE.page n.val)) (hen : s.get (LANE.CFG_EN n.val) = 0)
    (hc : getBits v 3 3 < 5) (hp : getBits v 1 2 = 0) : ∃ t, execLaneEnable n v s = .next t ∧ t.ln n.val = lnLOCK ∧
      t.get (LANE.CFG_EN n.val) = 1 ∧ ∀ m, m < 48 → m ≠ n.val → t.ln m = s.ln m := by
  have hv : getBits (v ||| 1) 0 1 = 1 := by rw [getBits_one, BitVec.getLsbD_or]; simp
  refine ⟨_, next_congr (State.laneCfgWrite_powersOn ht hen (by rwa [getBits_or_one v 3 3 (by decide)])
    (by rwa [getBits_or_one v 1 2 (by decide)]) hv), ?_, ?_, fun m _ hm => ?_⟩
  · rw [State.ln_modLane, State.lnGo_ln _ _ (by decide)]
  · rw [State.get_modLane, (State.lnGo_frame _ n.val lnLOCK).get _
      (lnQuiet_own (o := 0x40) (by simp only [LANE.page]; omega) (by decide)), State.laneCfgTaken_en, hv]
  · rw [State.ln_modLane]
    exact ((State.lnGo_frame _ n.val lnLOCK).ln hm).trans (s.laneCfgTaken_ln n.val m _)

theorem execLaneDisable_powersOff (ht : s.takes (LANE.page n.val)) (hen : s.get (LANE.CFG_EN n.val) = 1)
    (hc : getBits v 3 3 < 5) (hp : getBits v 1 2 = 0) (h0 : s.ln n.val ≠ lnOFF) : ∃ t, execLaneDisable n v s = .next t ∧
      t.ln n.val = lnOFF ∧ t.get (LANE.STAT_DCAUSE n.val) = dcDISABLED ∧ t.get (LANE.SID_SID n.val) = 0 ∧
      (t.lane n.val).ks = none ∧ (t.lane n.val).hdr = {} ∧ ∀ m, m < 48 → m ≠ n.val → t.ln m = s.ln m := by
  have hv : getBits (v &&& ~~~1) 0 1 = 0 := by rw [getBits_one, BitVec.getLsbD_and]; simp
  have h0' := (s.laneCfgTaken_ln n.val n.val (v &&& ~~~1)).trans_ne h0
  obtain ⟨hln, hcause, hsid, hks, hhdr⟩ := State.lnOff_leaves n.isLt h0'
  exact ⟨_, next_congr (State.laneCfgWrite_powersOff ht hen (by rwa [getBits_and_not_one v 3 3 (by decide)])
    (by rwa [getBits_and_not_one v 1 2 (by decide)]) hv), hln, hcause, hsid, hks, hhdr,
    fun m _ hm => ((State.lnOff_frame n.isLt h0').ln hm).trans (s.laneCfgTaken_ln n.val m _)⟩

end power

section training
variable {n : Fin 48} {s : State}

theorem execBlockLock_eq (n : Fin 48) (hdrs : List (BitVec 2)) (s : State) :
    execBlockLock ⟨n, hdrs⟩ s = .next (s.hdrsRx n.val hdrs) := rfl

theorem execBlockLockLoss_eq (n : Fin 48) (hdrs : List (BitVec 2)) (s : State) :
    execBlockLockLoss ⟨n, hdrs⟩ s = .next (s.hdrsRx n.val hdrs) := rfl

theorem hdrOk_of_valid {h : BitVec 2} (hv : h = 1 ∨ h = 2) : hdrOk h = true := by
  rcases hv with rfl | rfl <;> rfl

/-- 64 valid headers in a row take a lane in LOCK to HELLO, which it sends (R147, R164). -/
theorem State.hdrsRx_locks {n : Nat} {hdrs : List (BitVec 2)} (hs : s.ln n = lnLOCK) (h0 : (s.lane n).hdr = {})
    (hl : hdrs.length = 64) (hv : ∀ h ∈ hdrs, h = 1 ∨ h = 2) : (s.hdrsRx n hdrs).ln n = lnHELLO ∧
      ((s.hdrsRx n hdrs).lane n).hdr.lock = true ∧ ((s.hdrsRx n hdrs).lane n).tx = some s.helloFrame := by
  obtain ⟨l, a, rfl⟩ := List.eq_nil_or_concat hdrs |>.resolve_left (by rintro rfl; simp at hl)
  rw [List.concat_eq_append] at *
  have hlen : l.length = 63 := by simpa using hl
  obtain ⟨⟨hregs, hstraps, hlock⟩, hrun⟩ := State.hdrsRx_waits (hdrs := l) (s := s) (n := n) (by rw [hs]; decide) (by rw [h0])
    (by rw [h0, hlen]; decide)
  have hrun := hrun fun h hm => hdrOk_of_valid (hv h (by simp [hm]))
  rw [h0, hlen] at hrun
  rw [State.hdrsRx_concat, hdrOk_of_valid (hv a (by simp))]
  generalize s.hdrsRx n l = t at *
  have hget : ∀ g, t.get g = s.get g := fun g => by simp only [State.get, State.reg, hregs]
  have htake := HdrRx.take_locks hlock hrun
  rw [State.hdrRx_locks ((hget _).trans hs) hlock htake]
  refine ⟨?_, ?_, ?_⟩
  · rw [State.ln_lnFrame, State.lnGo_ln _ _ (by decide)]
  · rw [State.lane_lnFrame, State.lane_lnGo, if_pos rfl]
    exact (congrArg HdrRx.lock (t.lane_hdrTaken n true)).trans htake
  · rw [State.lane_lnFrame]
    exact congrArg some (State.helloFrame_congr (hget _) (hget _) hstraps)

theorem execHelloTimer_sends (h : s.ln n.val = lnHELLO) : ∃ t, execHelloTimer n s = .next t ∧
    (t.lane n.val).tx = some s.helloFrame ∧ t.regs = s.regs :=
  ⟨_, next_congr (if_pos (by simpa using h)), by rw [State.lane_lnFrame], rfl⟩

theorem execHelloTmo_down (h : s.ln n.val = lnHELLO) : ∃ t, execHelloTmo n s = .next t ∧ t.ln n.val = lnDOWN ∧
    t.get (LANE.STAT_DCAUSE n.val) = dcHELLO_TMO ∧ t.now = max s.now ((s.lane n.val).since + 10 * tMs) := by
  have hln : (s.advance ((s.lane n.val).since + 10 * tMs)).ln n.val = lnHELLO := h
  have h0 := hln.trans_ne (show lnHELLO ≠ lnOFF by decide)
  have h7 := hln.trans_ne (show lnHELLO ≠ lnDOWN by decide)
  exact ⟨_, next_congr (if_pos (by simpa using h)), State.lnDown_ln n.isLt h0 h7, State.lnDown_cause n.isLt h0 h7 (by decide),
    (State.lnDown_frame n.isLt _ _).now⟩

theorem execDownRetry_locks (h : s.ln n.val = lnDOWN) (he : s.get (LANE.CFG_EN n.val) = 1) : ∃ t,
    execDownRetry n s = .next t ∧ t.ln n.val = lnLOCK ∧
      t.now = max s.now ((s.lane n.val).since + s.get BLK.TMO_RETRY * 10 * tMs) :=
  ⟨_, next_congr (if_pos (by simp [h, State.on_of_get_one he])), State.lnGo_ln _ n.val (by decide),
    (State.lnGo_frame _ n.val lnLOCK).now⟩

theorem execPrbsEnd_locks (e : Word) (h : s.ln n.val = lnPRBS) : ∃ t, execPrbsEnd n e s = .next t ∧
    t.ln n.val = lnLOCK ∧ (e ≠ 0 → t.raised (LANE.page n.val) 5) ∧
    t.now = max s.now ((s.lane n.val).since + s.get (LANE.CFG_PRBS_MS n.val) * tMs) := by
  refine ⟨_, if_pos (by simpa using h), State.lnGo_ln _ n.val (by decide), fun he => ?_, ?_⟩
  · have hraw : (mapBit BLK.UP_MAP0 BLK.UP_MAP1 n.val).addr ≠ HDR.IRQ_RAW (LANE.page n.val) :=
      mapBit_addr_ne_lane (by decide) (by decide)
    rw [State.lnGo_eq, State.setB_eq, State.raised_set _ _ _ _ _ hraw]
    refine (State.raised_set _ _ _ (LANE.STAT_STATE n.val) _ (by simp only [HDR.IRQ_RAW, LANE.page]; omega)).2 ?_
    rw [State.iff_true (by simpa using he)]
    exact State.raised_irq _ _ 5 (by decide)
  · exact (State.lnGo_frame _ n.val lnLOCK).now.trans (State.now_iff fun _ => rfl)

theorem execSopenRetry_gives_up (h : s.ln n.val = lnKEY) (ht : 3 ≤ (s.lane n.val).tries) : ∃ t,
    execSopenRetry n s = .next t ∧ t.ln n.val = lnDOWN ∧ t.get (LANE.STAT_DCAUSE n.val) = dcKEY := by
  have hln : (s.advance ((s.lane n.val).since + tMs)).ln n.val = lnKEY := h
  have h0 := hln.trans_ne (show lnKEY ≠ lnOFF by decide)
  have h7 := hln.trans_ne (show lnKEY ≠ lnDOWN by decide)
  exact ⟨_, (if_pos (by simpa using h)).trans (next_congr (if_pos ht)), State.lnDown_ln n.isLt h0 h7,
    State.lnDown_cause n.isLt h0 h7 (by decide)⟩

theorem execSopenRetry_again {kp : BitVec 256} (h : s.ln n.val = lnKEY) (ht : (s.lane n.val).tries < 3)
    (hk : s.pairKey (s.get (LANE.PEER2_KID n.val)) = some kp) : ∃ t, execSopenRetry n s = .next t ∧ t.ln n.val = lnKEY ∧
      (t.lane n.val).tries = (s.lane n.val).tries + 1 ∧ (t.lane n.val).sidP ≠ 0 := by
  obtain ⟨hget, htries, hsid⟩ := State.sopen_sends (s := s.advance ((s.lane n.val).since + tMs)) hk
  exact ⟨_, (if_pos (by simpa using h)).trans (next_congr (if_neg (Nat.not_le.2 ht))), (hget _).trans h, htries, hsid⟩

end training

/-- Settles O27: the power of a lane by the write of LNn_CFG, a lane going DOWN by what it leaves, and its training by the
command that takes each step. -/
theorem laneStatesAndTraining : Obligations.LaneStatesAndTraining := by
  unfold Obligations.LaneStatesAndTraining
  refine ⟨⟨fun n v s ht hen hc hp => ?_, fun n v s ht hen hc hp h0 => ?_, fun n v s hg hc => ?_⟩,
    fun n cause s hn _ hc h0 h7 => ?_,
    ⟨fun n hdrs s hs h0 => ⟨fun hl hv => ?_, fun hl => ?_⟩, fun n hdrs s hs => ?_, fun n s hs hl h0 => ?_,
      fun n s => ⟨fun h => ?_, fun h => ?_⟩, fun n s h => ?_, fun n s h he => ?_, fun n s h => ⟨fun hm => ?_, fun hm => ?_⟩,
      fun n s h hl ho hr => ?_, fun n e s h => ?_, fun n s h ht => ?_, fun n s kp h ht hk => ?_⟩⟩
  · exact execLaneEnable_powersOn ht hen hc hp
  · exact execLaneDisable_powersOff ht hen hc hp h0
  · exact ⟨next_congr (State.laneCfgWrite_range hg (by rwa [getBits_or_one v 3 3 (by decide)])),
      next_congr (State.laneCfgWrite_range hg (by rwa [getBits_and_not_one v 3 3 (by decide)])),
      next_congr (State.laneCfgWrite_range hg hc)⟩
  · have hframe := State.lnDown_frame hn s cause
    obtain ⟨hraised, hblk⟩ := State.lnDown_raised (cause := cause) h0 h7
    exact ⟨State.lnDown_ln hn h0 h7, State.lnDown_cause hn h0 h7 (by omega), State.lnDown_sid hn h0 h7,
      by rw [State.lane_lnDown h0 h7, if_pos rfl]; rfl, State.lnDown_upMap hn h0 h7, hraised, hblk,
      State.lnDown_downMap hn h0 h7, fun m _ hm => ⟨hframe.ln hm, hframe.lane m hm⟩⟩
  · exact ⟨_, execBlockLock_eq n hdrs s, State.hdrsRx_locks hs h0 hl hv⟩
  · obtain ⟨⟨hregs, -, hlock⟩, -⟩ := State.hdrsRx_waits (hdrs := hdrs) (s := s) (n := n.val) (by rw [hs]; decide) (by rw [h0])
      (by rw [h0]; simpa using hl)
    exact ⟨_, execBlockLock_eq n hdrs s, by rw [← hs]; simp only [State.ln, State.get, State.reg, hregs], hlock, hregs⟩
  · exact ⟨(execBlockLock_eq n hdrs s).trans (next_congr (State.hdrsRx_deaf hs hdrs)),
      (execBlockLockLoss_eq n hdrs s).trans (next_congr (State.hdrsRx_deaf hs hdrs))⟩
  · have hd : s.ln n.val ∉ [lnOFF, lnPRBS] := fun h => hs (by simp at h ⊢; tauto)
    have hrun := fun (h : BitVec 2) (hh : hdrOk h = false) => State.hdrsRx_errs hd hl h0 hh 15 le_rfl
    refine ⟨⟨_, execBlockLockLoss_eq n _ s, ?_⟩, ⟨_, execBlockLockLoss_eq n _ s, ?_⟩⟩
    · rw [show List.replicate 16 (3 : BitVec 2) = List.replicate 15 3 ++ [3] from rfl, State.hdrsRx_concat,
        show hdrOk 3 = false from rfl]
      exact (hrun 3 rfl).loses n.isLt hs
    · obtain ⟨hln, hcount, hlock, -⟩ := hrun 0 rfl
      exact ⟨hln, hlock, hcount⟩
  · exact execHelloTimer_sends h
  · exact ⟨next_congr (if_neg (by simpa using h)), next_congr (if_neg (by simpa using h))⟩
  · exact execHelloTmo_down h
  · exact execDownRetry_locks h he
  · exact next_congr (if_pos (by simp [h, hm]))
  · exact next_congr (if_neg (by simp [hm]))
  · exact next_congr (if_pos (by simp [h, State.on_of_get_one hl, ho, hr]))
  · exact execPrbsEnd_locks e h
  · exact execSopenRetry_gives_up h ht
  · exact execSopenRetry_again h ht hk

end Sys2Proof.Machine
end

section
/-! Frames a lane receives (R151, R154): the checks that count and discard one, the blocks that arrived with it, and a HELLO
from its checks to the peer it takes (R164, R166, R167, R176, R180). -/

namespace Sys2Proof.Machine

/-! ### Numbers in a frame -/

/-- `n` bytes spell a number that fits them. -/
theorem leNat_lt (b : List Byte) (i n : Nat) : leNat b i n < 2 ^ (8 * n) := by
  induction n with
  | zero => exact Nat.zero_lt_one
  | succ n ih =>
    have hs : leNat b i (n + 1) = leNat b i n + (b.getD (i + n) 0).toNat * 2 ^ (8 * n) := by
      simp [leNat, List.range_succ]
    have hb : (b.getD (i + n) 0).toNat + 1 ≤ 256 := (b.getD (i + n) 0).isLt
    calc leNat b i (n + 1) < 2 ^ (8 * n) + (b.getD (i + n) 0).toNat * 2 ^ (8 * n) := by omega
      _ = ((b.getD (i + n) 0).toNat + 1) * 2 ^ (8 * n) := by ring
      _ ≤ 256 * 2 ^ (8 * n) := Nat.mul_le_mul_right _ hb
      _ = 2 ^ (8 * (n + 1)) := by rw [Nat.mul_succ, pow_add]; ring

/-! ### What arrives with a frame (R151) -/

section strays
variable {s : State} {n : Nat} {f : Frame}

theorem State.lnStrays_counts (hd : s.lnDecodes n = true) (h : f.stray ≠ 0) :
    s.lnStrays n f = s.bump (LANE.ERR_MALF n) f.stray := State.iff_true (by simp [hd, h])

theorem State.lnStrays_none (h : s.lnDecodes n = false ∨ f.stray = 0) : s.lnStrays n f = s :=
  State.iff_false (by rcases h with h | h <;> simp [h])

/-- What a count in MALF does not change is as it was. -/
theorem State.lnStrays_same {β : Type} (p : State → β) (hp : ∀ v, p (s.set (LANE.ERR_MALF n) v) = p s) :
    p (s.lnStrays n f) = p s := State.iff_same p s (hp _)

@[simp] theorem State.lane_lnStrays (m : Nat) : (s.lnStrays n f).lane m = s.lane m :=
  State.lnStrays_same (fun t => t.lane m) fun _ => rfl

theorem State.get_lnStrays {g : Fld} (h : (LANE.ERR_MALF n).apart g) : (s.lnStrays n f).get g = s.get g :=
  State.lnStrays_same (fun t => t.get g) fun _ => s.get_set_apart _ _ _ h

theorem errMalf_apart {g : Fld} {m o : Nat} (hg : g.addr = LANE.page m + o) (ho : o < 0x1000) (h : o ≠ 0x68) :
    (LANE.ERR_MALF n).apart g := .inl (by rw [hg]; simp only [LANE.page]; omega)

@[simp] theorem State.ln_lnStrays (m : Nat) : (s.lnStrays n f).ln m = s.ln m :=
  State.get_lnStrays (errMalf_apart (m := m) (o := 0x4C) (by simp only [LANE.page]; omega) (by decide) (by decide))

@[simp] theorem State.ver_lnStrays (m : Nat) : (s.lnStrays n f).get (LANE.STAT_VER m) = s.get (LANE.STAT_VER m) :=
  State.get_lnStrays (errMalf_apart (m := m) (o := 0x4C) (by simp only [LANE.page]; omega) (by decide) (by decide))

@[simp] theorem State.sid_lnStrays (m : Nat) : (s.lnStrays n f).get (LANE.SID_SID m) = s.get (LANE.SID_SID m) :=
  State.get_lnStrays (errMalf_apart (m := m) (o := 0x64) (by simp only [LANE.page]; omega) (by decide) (by decide))

@[simp] theorem State.kid_lnStrays (m : Nat) : (s.lnStrays n f).get (LANE.PEER2_KID m) = s.get (LANE.PEER2_KID m) :=
  State.get_lnStrays (errMalf_apart (m := m) (o := 0x5C) (by simp only [LANE.page]; omega) (by decide) (by decide))

@[simp] theorem State.lnDecodes_lnStrays : (s.lnStrays n f).lnDecodes n = s.lnDecodes n := by
  simp only [State.lnDecodes, State.ln_lnStrays, State.lane_lnStrays]

@[simp] theorem State.lnVer_lnStrays : (s.lnStrays n f).lnVer n = s.lnVer n := by
  simp only [State.lnVer, State.ln_lnStrays, State.ver_lnStrays]

/-- A lane past LOCK and not DOWN decodes what it receives (R147). -/
theorem State.lnDecodes_of (h : s.ln n ∉ [lnOFF, lnLOCK, lnPRBS, lnDOWN]) : s.lnDecodes n = true := by
  simp only [List.mem_cons, List.not_mem_nil, or_false, not_or] at h
  obtain ⟨hoff, hlk, hprbs, hdn⟩ := h
  simp [State.lnDecodes, hoff, hlk, hprbs, hdn]

/-- From MEASURE on a frame is held to the version negotiated (R154, R167). -/
theorem State.lnVer_of (h : s.ln n ∈ [lnMEASURE, lnKEY, lnCONFIG, lnUP]) : s.lnVer n = some (s.get (LANE.STAT_VER n)) :=
  if_pos h

/-- A frame that is cut short, or not of its SOF's length, is malformed (R151). -/
theorem frameCheck_malformed (h : f.cut = true ∨ f.body.length ≠ 8 * f.len) (sid ftype len : Nat) (ver : Option Nat) :
    frameCheck f sid ftype len ver = 2 := if_pos (by simpa using h)

end strays

/-! ### HELLO (R164, R166) -/

section hello
variable {s : State} {n : Nat} {f : Frame}

theorem State.helloRx_rejected (hd : s.lnDecodes n = true) (h : frameCheck f 0 5 4 none ≠ 0) :
    s.helloRx n f = s.lnErr n (frameCheck f 0 5 4 none) := by
  obtain ⟨e, he⟩ := Nat.exists_eq_succ_of_ne_zero h
  simp only [State.helloRx, hd, Bool.not_true, Bool.false_eq_true, if_false, he]

/-- A HELLO of a module is malformed to a module (R166). -/
theorem State.helloRx_role (hd : s.lnDecodes n = true) (h : frameCheck f 0 5 4 none = 0) (hr : leNat f.body 9 1 % 2 = 1) :
    s.helloRx n f = s.bump (LANE.ERR_MALF n) := by
  simp only [State.helloRx, hd, Bool.not_true, Bool.false_eq_true, if_false, h, hr, if_true, State.lnErr]

theorem State.helloRx_takes (hs : s.ln n = lnHELLO) (h : frameCheck f 0 5 4 none = 0) (hr : leNat f.body 9 1 % 2 = 0) :
    s.helloRx n f = s.helloTake n f.body := by
  have hd : s.lnDecodes n = true := State.lnDecodes_of (by rw [hs]; decide)
  simp only [State.helloRx, hd, Bool.not_true, Bool.false_eq_true, if_false, h, hr, hs, if_true,
    show ¬ (0 : Nat) = 1 by decide, show ¬ lnHELLO = lnDOWN by decide, show ¬ lnHELLO = lnLOCK by decide]

/-- In CONFIG and UP a HELLO shows that the cell head has restarted (R164, R176). -/
theorem State.helloRx_restart (hs : s.ln n ∈ [lnCONFIG, lnUP]) (h : frameCheck f 0 5 4 none = 0)
    (hr : leNat f.body 9 1 % 2 = 0) : s.helloRx n f = s.lnDown n dcRESTART := by
  have hd : s.lnDecodes n = true := State.lnDecodes_of fun hm => by
    simp only [List.mem_cons, List.not_mem_nil, or_false] at hs hm
    rcases hs with hs | hs <;> simp [hs] at hm
  simp only [List.mem_cons, List.not_mem_nil, or_false] at hs
  rcases hs with hs | hs <;> simp [State.helloRx, hd, h, hr, hs]

end hello

/-! ### The peer a HELLO takes (R164, R167, R180) -/

/-- The peer's figures as a HELLO gives them (R166, R183). -/
def State.peerTaken (s : State) (n : Nat) (b : List Byte) : State :=
  let s := (s.set ⟨LANE.PEER0 n, 0, 32⟩ (leNat b 12 4)).set ⟨LANE.PEER1 n, 0, 32⟩ (leNat b 16 4)
  let s := ((s.set (LANE.PEER2_VERMAX n) (leNat b 8 1)).set (LANE.PEER2_KID n) (leNat b 20 1)).set (LANE.PEER2_MAKER n) (leNat b 22 2)
  ((s.set (LANE.PEER3_CAP n) (leNat b 10 2)).set (LANE.PEER3_CONV n) (leNat b 21 1)).set (LANE.PEER3_LINK n) (leNat b 9 1 / 2 % 2)

section peer
variable {s : State} {n : Nat} {b : List Byte}

theorem State.get_peerTaken {g : Fld} (h0 : g.addr ≠ LANE.PEER0 n) (h1 : g.addr ≠ LANE.PEER1 n) (h2 : g.addr ≠ LANE.PEER2 n)
    (h3 : g.addr ≠ LANE.PEER3 n) : (s.peerTaken n b).get g = s.get g := by
  simp only [State.peerTaken]
  rw [State.get_set_apart _ _ _ _ (.inl h3.symm), State.get_set_apart _ _ _ _ (.inl h3.symm),
    State.get_set_apart _ _ _ _ (.inl h3.symm), State.get_set_apart _ _ _ _ (.inl h2.symm),
    State.get_set_apart _ _ _ _ (.inl h2.symm), State.get_set_apart _ _ _ _ (.inl h2.symm),
    State.get_set_apart _ _ _ _ (.inl h1.symm), State.get_set_apart _ _ _ _ (.inl h0.symm)]

theorem State.peerTaken_ln (m : Nat) : (s.peerTaken n b).ln m = s.ln m :=
  State.get_peerTaken (by simp only [LANE.PEER0]; omega) (by simp only [LANE.PEER1]; omega)
    (by simp only [LANE.PEER2]; omega) (by simp only [LANE.PEER3]; omega)

theorem State.get_peerTaken_blk {g : Fld} (h : g.addr = BLK.CFG) : (s.peerTaken n b).get g = s.get g :=
  State.get_peerTaken (by rw [h]; simp only [LANE.PEER0, BLK.CFG]; omega) (by rw [h]; simp only [LANE.PEER1, BLK.CFG]; omega)
    (by rw [h]; simp only [LANE.PEER2, BLK.CFG]; omega) (by rw [h]; simp only [LANE.PEER3, BLK.CFG]; omega)

theorem State.peerTaken_now : (s.peerTaken n b).now = s.now := by simp only [State.peerTaken, State.set_now]

theorem State.peerTaken_cap : (s.peerTaken n b).get (LANE.PEER3_CAP n) = leNat b 10 2 := by
  simp only [State.peerTaken]
  rw [State.get_set_apart _ (LANE.PEER3_LINK n) _ _ (by simp [Fld.apart]),
    State.get_set_apart _ (LANE.PEER3_CONV n) _ _ (by simp [Fld.apart]), State.get_set_self _ _ _ (by show 0 + 16 ≤ 32; decide)]
  exact Nat.mod_eq_of_lt (leNat_lt b 10 2)

theorem State.peerTaken_verMax : (s.peerTaken n b).get (LANE.PEER2_VERMAX n) = leNat b 8 1 := by
  have h3 : ∀ lo w, (⟨LANE.PEER3 n, lo, w⟩ : Fld).apart (LANE.PEER2_VERMAX n) := fun lo w => .inl (by simp only [LANE.PEER3]; omega)
  simp only [State.peerTaken]
  rw [State.get_set_apart _ (LANE.PEER3_LINK n) _ _ (h3 _ _), State.get_set_apart _ (LANE.PEER3_CONV n) _ _ (h3 _ _),
    State.get_set_apart _ (LANE.PEER3_CAP n) _ _ (h3 _ _), State.get_set_apart _ (LANE.PEER2_MAKER n) _ _ (by simp [Fld.apart]),
    State.get_set_apart _ (LANE.PEER2_KID n) _ _ (by simp [Fld.apart]), State.get_set_self _ _ _ (by show 0 + 8 ≤ 32; decide)]
  exact Nat.mod_eq_of_lt (leNat_lt b 8 1)

/-- The version read from the two numbers fits its field (R167). -/
theorem listedVer_lt (v : Nat) : listedVer v < 256 := by
  unfold listedVer; split
  · decide
  split
  · decide
  split <;> decide

/-- The version a lane would take from the peer's (R167). -/
def State.verWith (s : State) (b : List Byte) : Nat := listedVer (min (s.get BLK.CFG_VMAX) (leNat b 8 1))

/-- What a lane does with a peer whose version it takes: down with SSC or a UID it has already, or on to MEASURE (R176, R180). -/
def State.peerJudged (s : State) (n : Nat) : State :=
  let uid := fun m => (s.reg (LANE.PEER0 m), s.reg (LANE.PEER1 m))
  let dup := (List.range 48).any (fun m => m != n && s.ln m ∈ [lnMEASURE, lnKEY, lnCONFIG, lnUP] && uid m == uid n)
  if s.on BLK.CFG_SSC && !(s.capc n).testBit 1 then s.lnDown n dcSSC
  else if dup then s.lnDown n dcDUP_UID
  else s.measure n

theorem State.helloTake_eq (s : State) (n : Nat) (b : List Byte) : s.helloTake n b =
    if leNat b 8 1 < 0x13 ∨ s.verWith b < s.get BLK.CFG_VMIN then (s.peerTaken n b).lnDown n dcVERSION
    else ((s.peerTaken n b).set (LANE.STAT_VER n) (s.verWith b)).peerJudged n := by
  have hx : (s.peerTaken n b).get BLK.CFG_VMAX = s.get BLK.CFG_VMAX := State.get_peerTaken_blk rfl
  have hm : (s.peerTaken n b).get BLK.CFG_VMIN = s.get BLK.CFG_VMIN := State.get_peerTaken_blk rfl
  rw [State.verWith, ← hx, ← hm]
  rfl

/-- What a request leaves of its lane: it is outstanding from now on, and the next EID follows (R164, R165). -/
theorem State.lane_echoReq (s : State) (n : Nat) : ∃ ls, (s.echoReq n).lane n = { s.lane n with
    line := ls, out := some ((s.lane n).eid, s.now), eid := ((s.lane n).eid + 1) % 64,
    reqs := (s.lane n).reqs + if s.on MOD.TB_STAT_LOCK then 1 else 0 } :=
  ⟨_, by rw [State.echoReq, State.lane_modLane_self, State.lane_lnSend, if_pos rfl]⟩

@[simp] theorem State.get_echoReq (s : State) (n : Nat) (g : Fld) : (s.echoReq n).get g = s.get g := rfl

theorem State.echoReq_frame (s : State) (n : Nat) : LaneFrame n s (s.echoReq n) := by
  unfold State.echoReq
  exact (s.lnSend_frame n _).modLane _

theorem State.measure_frame (s : State) (n : Nat) : LaneFrame n s (s.measure n) :=
  ((s.lnGo_frame n lnMEASURE).modLane _).trans (State.echoReq_frame _ n)

theorem State.measure_leaves (s : State) (n : Nat) : (s.measure n).ln n = lnMEASURE ∧
    ((s.measure n).lane n).out = some (0, s.now) := by
  obtain ⟨ls, hl⟩ := ((s.lnGo n lnMEASURE).modLane n (fun l => { l with eid := 0, reqs := 0, replies := [], out := none })).lane_echoReq n
  refine ⟨?_, ?_⟩
  · rw [State.measure, State.ln, State.get_echoReq, State.get_modLane]
    exact s.lnGo_ln n (by decide)
  rw [State.measure, hl, State.lane_modLane_self, (State.LaneFrame.modLane (s.lnGo_frame n lnMEASURE) _).now]

theorem State.peerJudged_frame (hn : n < 48) (s : State) : LaneFrame n s (s.peerJudged n) :=
  ite_keeps (P := LaneFrame n s) (s.lnDown_frame hn dcSSC)
    (ite_keeps (P := LaneFrame n s) (s.lnDown_frame hn dcDUP_UID) (s.measure_frame n))

theorem State.peerJudged_measures (h : s.get BLK.CFG_SSC = 0)
    (hm : ∀ m, m < 48 → m ≠ n → s.ln m ∉ [lnMEASURE, lnKEY, lnCONFIG, lnUP]) : s.peerJudged n = s.measure n := by
  have hdup : (List.range 48).any (fun m => m != n && decide (s.ln m ∈ [lnMEASURE, lnKEY, lnCONFIG, lnUP]) &&
      (s.reg (LANE.PEER0 m), s.reg (LANE.PEER1 m)) == (s.reg (LANE.PEER0 n), s.reg (LANE.PEER1 n))) = false := by
    rw [List.any_eq_false]
    intro m hr
    by_cases he : m = n
    · simp [he]
    · rw [decide_eq_false (hm m (List.mem_range.1 hr) he)]; simp
  simp only [State.peerJudged, State.on_of_get_zero h, hdup, Bool.false_and, Bool.false_eq_true, if_false]

theorem State.ln_set_ver (v m : Nat) : (s.set (LANE.STAT_VER n) v).ln m = s.ln m :=
  State.get_set_apart _ _ _ _ (.inr (.inr (by show 0 + 4 ≤ 8; decide)))

/-- Whatever follows, the peer's figures stay as the HELLO gave them (R166). -/
theorem State.helloTake_peer (hn : n < 48) : (s.helloTake n b).get (LANE.PEER2_VERMAX n) = leNat b 8 1 ∧
    (s.helloTake n b).get (LANE.PEER3_CAP n) = leNat b 10 2 := by
  have hq2 : lnQuiet n (LANE.PEER2_VERMAX n) := lnQuiet_own (o := 0x5C) (by simp only [LANE.page]; omega) (by decide)
  have hq3 : lnQuiet n (LANE.PEER3_CAP n) := lnQuiet_own (o := 0x60) (by simp only [LANE.page]; omega) (by decide)
  rw [State.helloTake_eq]
  split
  · have hf := State.lnDown_frame hn (s.peerTaken n b) dcVERSION
    exact ⟨(hf.get _ hq2).trans State.peerTaken_verMax, (hf.get _ hq3).trans State.peerTaken_cap⟩
  · have hf := State.peerJudged_frame hn ((s.peerTaken n b).set (LANE.STAT_VER n) (s.verWith b))
    exact ⟨((hf.get _ hq2).trans (State.get_set_apart _ _ _ _ (.inl (by simp only; omega)))).trans State.peerTaken_verMax,
      ((hf.get _ hq3).trans (State.get_set_apart _ _ _ _ (.inl (by simp only; omega)))).trans State.peerTaken_cap⟩

/-- A peer whose versions do not meet the lane's takes it DOWN (R167). -/
theorem State.helloTake_version (hn : n < 48) (hs : s.ln n = lnHELLO)
    (h : leNat b 8 1 < 0x13 ∨ s.verWith b < s.get BLK.CFG_VMIN) : (s.helloTake n b).ln n = lnDOWN ∧
      (s.helloTake n b).get (LANE.STAT_DCAUSE n) = dcVERSION ∧ (s.helloTake n b).raised BLK.page 3 := by
  have hp := State.peerTaken_ln (s := s) (n := n) (b := b) n
  have h0 := (hp.trans hs).trans_ne (show lnHELLO ≠ lnOFF by decide)
  have h7 := (hp.trans hs).trans_ne (show lnHELLO ≠ lnDOWN by decide)
  rw [State.helloTake_eq, if_pos h]
  exact ⟨State.lnDown_ln hn h0 h7, State.lnDown_cause hn h0 h7 (by decide), State.lnDown_version h0 h7⟩

/-- One whose versions meet them, with no SSC and no other lane trained, is measured (R164, R167). -/
theorem State.helloTake_measures (h1 : 0x13 ≤ leNat b 8 1) (h2 : s.get BLK.CFG_VMIN ≤ s.verWith b)
    (hssc : s.get BLK.CFG_SSC = 0) (hm : ∀ m, m < 48 → m ≠ n → s.ln m ∉ [lnMEASURE, lnKEY, lnCONFIG, lnUP]) :
    (s.helloTake n b).ln n = lnMEASURE ∧ (s.helloTake n b).get (LANE.STAT_VER n) = s.verWith b ∧
      ((s.helloTake n b).lane n).out = some (0, s.now) := by
  generalize hu : (s.peerTaken n b).set (LANE.STAT_VER n) (s.verWith b) = u
  have hln : ∀ m, u.ln m = s.ln m := fun m => by rw [← hu, State.ln_set_ver, State.peerTaken_ln]
  have hblk : u.get BLK.CFG_SSC = s.get BLK.CFG_SSC := by
    rw [← hu, State.get_set_apart _ _ _ _ (.inl (by simp only; omega)), State.get_peerTaken_blk rfl]
  have hver : u.get (LANE.STAT_VER n) = s.verWith b := by
    rw [← hu, State.get_set_self _ _ _ (by show 8 + 8 ≤ 32; decide)]
    exact Nat.mod_eq_of_lt (listedVer_lt _)
  have ht : s.helloTake n b = u.measure n := by
    rw [State.helloTake_eq, if_neg (by omega), hu, State.peerJudged_measures (hblk.trans hssc)
      fun m hlt hne => by rw [hln]; exact hm m hlt hne]
  obtain ⟨hmeas, hout⟩ := u.measure_leaves n
  rw [ht]
  have hnow : u.now = s.now := by rw [← hu, State.set_now, State.peerTaken_now]
  refine ⟨hmeas, ?_, by rw [hout, hnow]⟩
  rw [(u.measure_frame n).get (LANE.STAT_VER n) (lnQuiet_stat rfl (Nat.le_refl 8)), hver]

end peer

end Sys2Proof.Machine
end

section
/-! Sessions and configuration frames (R154, R168–R171): what a CFG leaves, a SACK and a CFGACK from their checks to what they
open, and a lane that reaches UP (R171, R176, R177). -/

namespace Sys2Proof.Machine

/-! ### CFG (R169) -/

section cfg
variable (s : State) (n kind eff : Nat) (recs : List (Nat × Nat))

/-- A CFG that leaves changes nothing but its lane. -/
theorem State.cfgSend_same {β : Type} (p : State → β) (hp : ∀ t l, p (State.setLane t n l) = p t) :
    p (s.cfgSend n kind eff recs) = p s := by
  simp only [State.cfgSend, State.lnFrame, State.lnSend, State.modLane, hp]

@[simp] theorem State.get_cfgSend (g : Fld) : (s.cfgSend n kind eff recs).get g = s.get g :=
  s.cfgSend_same n kind eff recs (fun t => t.get g) fun _ _ => rfl

@[simp] theorem State.cfgSend_pidx : (s.cfgSend n kind eff recs).pidx = s.pidx :=
  s.cfgSend_same n kind eff recs State.pidx fun _ _ => rfl

/-- A CFG takes the next CCNT and is awaited from this period on. -/
theorem State.lane_cfgSend : ∃ ls fr, (s.cfgSend n kind eff recs).lane n = { s.lane n with
    ccntTx := (s.lane n).ccntTx + 1, await := some ⟨kind, (s.lane n).ccntTx + 1, eff, recs, s.pidx⟩, line := ls, tx := fr } :=
  ⟨_, _, by rw [State.cfgSend, State.lane_lnFrame, State.lane_setLane, if_pos rfl]⟩

@[simp] theorem State.get_sendConfig (g : Fld) : (s.sendConfig n).get g = s.get g := by
  simp only [State.sendConfig, State.get_cfgSend, State.get_modLane]

theorem State.lane_sendConfig : ∃ w ls fr, (s.sendConfig n).lane n = { s.lane n with
    ccntTx := (s.lane n).ccntTx + 1, await := some w, dtChg := 0, dtNew := 0, line := ls, tx := fr } := by
  obtain ⟨ls, fr, h⟩ := (s.modLane n (fun l => { l with dtChg := 0, dtNew := 0 })).lane_cfgSend n 0 0
    [(0x10, s.get (LANE.PEER3_CONV n)), (1, s.dtOf n 1), (2, s.dtOf n 2), (3, s.dtOf n 3),
      (0x11, if (s.capc n).testBit 0 then 1 else 0)]
  rw [State.lane_modLane_self] at h
  exact ⟨_, ls, fr, h⟩

end cfg

theorem length_bytes128 (x : BitVec 128) : (bytes128 x).length = 16 := by simp [bytes128]

theorem take_bytes128 (x : BitVec 128) : (bytes128 x).take 16 = bytes128 x :=
  List.take_of_length_le (length_bytes128 x).le

/-! ### SACK (R168) -/

/-- The lane with the session a good SACK opens (R154, R168). -/
def State.sessionOpen (s : State) (n : Nat) (k : BitVec 256) : State :=
  (s.set (LANE.SID_SID n) (s.lane n).sidP).modLane n (fun l =>
    { l with ks := some k, seqTx := 0, seqRx := 0, sentN := 0, aseqOk := false, ccntTx := 0, ccntRx := 0, tries := 0 })

section sack
variable {s : State} {n : Nat} {f : Frame} {kp : BitVec 256}

/-- The key a SACK's nonce and the lane's SOPEN give (R168). -/
def State.sackKey (s : State) (n : Nat) (f : Frame) (kp : BitVec 256) : BitVec 256 :=
  sessionKey kp (s.lane n).sidP (bytes128 (s.lane n).nm) ((f.body.drop 8).take 16)

theorem State.sackRx_opens (hs : s.ln n = lnKEY) (hv : s.get (LANE.STAT_VER n) = 0x21)
    (hk : s.pairKey (s.get (LANE.PEER2_KID n)) = some kp) (hf : frameCheck f 0 7 6 (some 0x21) = 0)
    (ht : (f.body.drop 28).take 16 = bytes128 (Config.gmac (s.sackKey n f kp)
      (leBytes 4 (s.lane n).sidP ++ [1, 7] ++ leBytes 6 0) (f.body.take 28))) :
    s.sackRx n f = ((s.sessionOpen n (s.sackKey n f kp)).lnGo n lnCONFIG).sendConfig n := by
  have hd : s.lnDecodes n = true := State.lnDecodes_of (by rw [hs]; decide)
  have hver : s.lnVer n = some 0x21 := by rw [State.lnVer_of (by rw [hs]; decide), hv]
  have hchk : frameCheck f 0 7 (if s.get (LANE.STAT_VER n) < 0x20 then 5 else 6) (s.lnVer n) = 0 := by rw [hver, hv]; exact hf
  rw [State.sackRx, if_neg (by simp [hd])]
  dsimp only
  rw [hchk, hk]
  refine (if_neg (not_not.2 hs) : (if s.ln n ≠ lnKEY then s else _) = _).trans ?_
  rw [hv, show tagLen 0x21 = 16 from rfl, take_bytes128]
  exact if_neg (not_not.2 ht)

theorem State.sessionOpen_leaves (hsid : (s.lane n).sidP < 2 ^ 32) (k : BitVec 256) :
    ∃ t, t = ((s.sessionOpen n k).lnGo n lnCONFIG).sendConfig n ∧ t.ln n = lnCONFIG ∧
      t.get (LANE.SID_SID n) = (s.lane n).sidP ∧ (t.lane n).ks = some k ∧ (t.lane n).ccntTx = 1 ∧ (t.lane n).await.isSome := by
  refine ⟨_, rfl, ?_, ?_, ?_⟩
  · rw [State.ln, State.get_sendConfig]; exact State.lnGo_ln _ n (by decide)
  · have hg : (LANE.SID_SID n).addr = LANE.page n + 0x64 := by simp only [LANE.page]; omega
    rw [State.get_sendConfig, State.get_lnGo _ _ _ (.inl (by simp only; omega))
      (mapBit_apart_lane (by decide) (by decide) hg), State.sessionOpen, State.get_modLane,
      State.get_set_self _ _ _ (by show 0 + 32 ≤ 32; decide)]
    exact Nat.mod_eq_of_lt hsid
  · obtain ⟨w, ls, fr, hl⟩ := ((s.sessionOpen n k).lnGo n lnCONFIG).lane_sendConfig n
    rw [hl, State.lane_lnGo, if_pos rfl, State.sessionOpen, State.lane_modLane_self]
    exact ⟨rfl, rfl, rfl⟩

end sack

/-! ### UP (R171, R176, R177) -/

section up
variable {s : State} {n : Nat}

theorem State.raised_congr {s t : State} {pg b : Nat} (h : t.reg (HDR.IRQ_RAW pg) = s.reg (HDR.IRQ_RAW pg)) :
    t.raised pg b ↔ s.raised pg b := by rw [State.raised, h, State.raised]

/-- Showing the dead times settled writes the modulator's pages alone. -/
theorem State.get_dtClear (hn : n < 48) (mask : Nat) {g : Fld} (hg : GRN.page ≤ g.addr) :
    (s.dtClear n mask).get g = s.get g := by
  have ha : ∀ c < 96, (MODCH.STAT_DT_PEND c).apart g := fun c hc => .inl (by simp only [GRN.page] at *; omega)
  have h0 := fun t : State => t.get_set_apart _ g 0 (ha (2 * n) (by omega))
  have h1 := fun t : State => t.get_set_apart _ g 0 (ha (2 * n + 1) (by omega))
  unfold State.dtClear
  extract_lets left u
  have hu : u.get g = s.get g := ite_keeps (P := fun t => t.get g = s.get g) (h0 s) rfl
  exact ite_keeps (P := fun t => t.get g = s.get g) ((h1 u).trans hu) hu

theorem State.cst_setCst {st : Nat} (hst : st < 8) : (s.setCst n st).cst n = st := by
  have hset : (s.set (GRN.CELL_STATE_STATE (n / 8) (n % 8)) st).get (GRN.CELL_STATE_STATE (n / 8) (n % 8)) = st :=
    (State.get_set_self _ _ _ (by show 4 * (n % 8) + 3 ≤ 32; omega)).trans (Nat.mod_eq_of_lt hst)
  exact (State.get_iff fun t => t.get_set_apart _ _ _ (.inl (by simp only; omega))).trans hset

/-- A lane in UP with its entry in HOT_MAP and its events, before its cell follows (R176, R184). -/
def State.upShown (s : State) (n : Nat) : State :=
  (((s.lnGo n lnUP).set (mapBit BLK.HOT_MAP0 BLK.HOT_MAP1 n) 1).irq (LANE.page n) 0).irq BLK.page 0

/-- What else a lane reaching UP settles: the cell BYPASSED, the lane's counts, and the dead times (R154, R171, R177). -/
def State.upSettled (s : State) (n : Nat) : State :=
  let s := (s.setCst n ckBYPASSED).modCell n (fun c => { c with linkLost := false, legs := [0, 0, 0, 0, 0, 0], restart := true })
  let s := s.modLane n (fun l => { l with tries := 0, await := none, freed := s.pidx, miss := 0, gotStat := false })
  s.dtClear n 7

theorem State.lnUpNow_eq (s : State) (n : Nat) : s.lnUpNow n = (s.upShown n).upSettled n := rfl

theorem State.get_upSettled (hn : n < 48) {g : Fld} (hg : GRN.page + 0x1000 ≤ g.addr) : (s.upSettled n).get g = s.get g := by
  rw [State.upSettled, State.get_dtClear hn 7 (by omega), State.get_modLane, State.get_modCell,
    State.get_setCst_outside _ hn _ (.inr hg)]

theorem State.upSettled_raised (hn : n < 48) {pg b : Nat} (hg : GRN.page + 0x1000 ≤ pg) (h : s.raised pg b) :
    (s.upSettled n).raised pg b :=
  (State.raised_congr (State.reg_of_get (State.get_upSettled hn (by show GRN.page + 0x1000 ≤ pg + 0x14; omega)))).2 h

theorem State.upSettled_cst (hn : n < 48) : (s.upSettled n).cst n = ckBYPASSED := by
  rw [State.cst, State.upSettled, State.get_dtClear hn 7 (by simp only [GRN.page]; omega), State.get_modLane, State.get_modCell]
  exact State.cst_setCst (by decide)

theorem State.get_upShown {g : Fld} (hl : g.addr ≠ LANE.page n + 0x14) (hb : g.addr ≠ BLK.page + 0x14) :
    (s.upShown n).get g = ((s.lnGo n lnUP).set (mapBit BLK.HOT_MAP0 BLK.HOT_MAP1 n) 1).get g := by
  rw [State.upShown, State.get_irq_of_ne _ _ _ _ hb, State.get_irq_of_ne _ _ _ _ hl]

/-- A lane that reaches UP (R171, R176, R177, R182, R184). -/
theorem State.lnUpNow_leaves (s : State) (hn : n < 48) : (s.lnUpNow n).ln n = lnUP ∧ (s.lnUpNow n).cst n = ckBYPASSED ∧
    (s.lnUpNow n).raised (LANE.page n) 0 ∧ (s.lnUpNow n).get (mapBit BLK.HOT_MAP0 BLK.HOT_MAP1 n) = 1 ∧
    (s.lnUpNow n).get (mapBit BLK.UP_MAP0 BLK.UP_MAP1 n) = 1 := by
  have hmap : ∀ {lo hi : Nat}, GRN.page + 0x1000 ≤ lo → GRN.page + 0x1000 ≤ hi → GRN.page + 0x1000 ≤ (mapBit lo hi n).addr := by
    intro lo hi hl hh
    rcases mapBit_addr (lo := lo) (hi := hi) (n := n) with h | h <;> rwa [h]
  rw [State.lnUpNow_eq]
  refine ⟨?_, State.upSettled_cst hn, State.upSettled_raised hn (by simp only [LANE.page, GRN.page]; omega) ?_, ?_, ?_⟩
  · rw [State.ln, State.get_upSettled hn (by simp only [GRN.page]; omega), State.get_upShown (by simp only [LANE.page]; omega)
      (by simp only [BLK.page]; omega), State.get_set_apart _ _ _ _ (mapBit_apart_lane (m := n) (o := 0x4C) (by decide) (by decide)
      (by simp only [LANE.page]; omega))]
    exact s.lnGo_ln n (by decide)
  · exact State.raised_irq_of _ _ _ _ _ (State.raised_irq _ _ 0 (by decide))
  · rw [State.get_upSettled hn (hmap (by decide) (by decide)), State.get_upShown (mapBit_addr_ne_lane (by decide) (by decide))
      (mapBit_addr_ne (by decide) (by decide)), State.get_set_mapBit _ _ _ hn]
  · have hmaps : (mapBit BLK.HOT_MAP0 BLK.HOT_MAP1 n).addr ≠ (mapBit BLK.UP_MAP0 BLK.UP_MAP1 n).addr := by
      refine mapBit_addr_ne ?_ ?_ <;> exact (mapBit_addr_ne (by decide) (by decide)).symm
    rw [State.get_upSettled hn (hmap (by decide) (by decide)), State.get_upShown (mapBit_addr_ne_lane (by decide) (by decide))
      (mapBit_addr_ne (by decide) (by decide)), State.get_set_apart _ _ _ _ (.inl hmaps), State.lnGo_upMap _ hn, if_pos rfl]

/-- A CFGACK of CONFIG with every result OK takes the lane to UP (R171). -/
theorem State.cfgAcked_config {a : CfgWait} {res : List Nat} (hk : a.kind = 0) (h : ∀ r ∈ res, r = 0) :
    s.cfgAcked n a res = s.lnUpNow n := by
  have hall : res.all (· == 0) = true := List.all_eq_true.2 (by simpa using h)
  simp only [State.cfgAcked, hk, hall, if_true]

end up

/-! ### CFGACK (R169) -/

section cfgack
variable {s : State} {n : Nat} {f : Frame}

/-- The length of a CFGACK in a version, in blocks (R169). -/
def cfgackLen (f : Frame) (ver : Nat) : Nat := (36 + leNat f.body 20 1 + tagLen ver + 7) / 8

theorem State.cfgackRx_deaf (hd : s.lnDecodes n = false) : s.cfgackRx n f = s := by
  simp only [State.cfgackRx, hd, Bool.not_false, if_true]

/-- Outside CONFIG and UP a CFGACK is only checked (R154). -/
theorem State.cfgackRx_checked (hd : s.lnDecodes n = true) (hs : s.ln n ∉ [lnCONFIG, lnUP]) :
    s.cfgackRx n f = s.lnErr n
      (frameCheck f (s.get (LANE.SID_SID n)) 4 (cfgackLen f (s.get (LANE.STAT_VER n))) (s.lnVer n)) := by
  simp only [State.cfgackRx, hd, Bool.not_true, Bool.false_eq_true, if_false, hs, decide_false, Bool.not_false, if_true]
  rw [cfgackLen]
  cases frameCheck f (s.get (LANE.SID_SID n)) 4 _ (s.lnVer n) with
  | zero => cases (s.lane n).ks <;> rfl
  | succ e => rfl

/-- A CFGACK past its checks and its tag, with a new CCNT and for the CFG that waits, reports that CFG's results (R169). -/
theorem State.cfgackRx_acks {k : BitVec 256} {a : CfgWait} (hs : s.ln n ∈ [lnCONFIG, lnUP]) (hk : (s.lane n).ks = some k)
    (hv : s.get (LANE.STAT_VER n) = 0x21) (ha : (s.lane n).await = some a)
    (hf : frameCheck f (s.get (LANE.SID_SID n)) 4 ((36 + leNat f.body 20 1 + 16 + 7) / 8) (some 0x21) = 0)
    (ht : (f.body.drop (32 + leNat f.body 20 1)).take 16 = bytes128 (Config.gmac k
      (cfgIv (s.get (LANE.SID_SID n)) 1 4 (leNat f.body 8 6)) (f.body.take (32 + leNat f.body 20 1))))
    (hc : (s.lane n).ccntRx < leNat f.body 8 6) (hcc : leNat f.body 24 6 = a.ccnt) (hr : leNat f.body 20 1 = a.recs.length) :
    s.cfgackRx n f = (s.modLane n (fun l => { l with ccntRx := leNat f.body 8 6 })).cfgAcked n a
      ((List.range a.recs.length).map (fun i => leNat f.body (32 + i) 1)) := by
  have hst : s.ln n = lnCONFIG ∨ s.ln n = lnUP := by simpa using hs
  have hd : s.lnDecodes n = true := State.lnDecodes_of (by rcases hst with h | h <;> rw [h] <;> decide)
  have hver : s.lnVer n = some 0x21 := by
    rw [State.lnVer_of (by rcases hst with h | h <;> rw [h] <;> decide), hv]
  rw [hr] at ht hf
  simp only [State.cfgackRx, hd, hver, hk, hv, hr, hf, hs, ht, hcc, Nat.not_le.2 hc, ha, Bool.not_true, Bool.false_eq_true, if_false,
    decide_true, tagLen, take_bytes128, show ¬ (0x21 : Nat) < 0x20 by decide, ne_eq, not_true_eq_false, or_self]

theorem execCfgAckTimeout_retry {n : Fin 48} {a : CfgWait} (ha : (s.lane n.val).await = some a)
    (h : a.sent + s.get BLK.TMO_CFG_TMO ≤ s.pidx) : execCfgAckTimeout n s = .next (s.cfgRetry n.val) := by
  simp only [execCfgAckTimeout, ha, h, if_true]

theorem execCfgAckTimeout_waits {n : Fin 48} {a : CfgWait} (ha : (s.lane n.val).await = some a)
    (h : s.pidx < a.sent + s.get BLK.TMO_CFG_TMO) : execCfgAckTimeout n s = .next s := by
  simp only [execCfgAckTimeout, ha, Nat.not_le.2 h, if_false]

end cfgack

end Sys2Proof.Machine
end

section
/-! STATUS frames (R154, R158, R159): which are only checked, which count, and which are held for the latch; and the statement
about HELLO, sessions and STATUS. -/

namespace Sys2Proof.Machine

/-! ### STATUS frames that are only checked (R154) -/

section checked
variable {s : State} {n : Nat} {f : Frame}

theorem State.statusRx_deaf (hd : s.lnDecodes n = false) : s.statusRx n f = s := by
  simp only [State.statusRx, hd, Bool.not_false, if_true]

theorem State.statusRx_training (hd : s.lnDecodes n = true) (hs : s.ln n ∈ [lnKEY, lnCONFIG]) :
    s.statusRx n f = s.lnErr n (if f.cut then 2 else 0) := by
  rw [State.statusRx, if_neg (by simp [hd]), if_pos hs]
  cases f.cut <;> rfl

theorem State.statusRx_checked (hd : s.lnDecodes n = true) (hs : s.ln n ∉ [lnKEY, lnCONFIG]) (hu : s.ln n ≠ lnUP) :
    s.statusRx n f = s.lnErr n (frameCheck f (s.get (LANE.SID_SID n)) 2 4 (s.lnVer n)) := by
  rw [State.statusRx, if_neg (by simp [hd]), if_neg hs]
  dsimp only
  cases frameCheck f (s.get (LANE.SID_SID n)) 2 4 (s.lnVer n) with
  | zero => exact if_pos hu
  | succ e => rfl

end checked

/-! ### STATUS frames of an UP lane (R158, R159) -/

/-- Data word `i` of a STATUS (R158). -/
def statusWord (f : Frame) (i : Nat) : Word := BitVec.ofNat 32 (leNat f.body (8 + 4 * i) 4)

/-- A STATUS names a schedule the lane has sent (R159). -/
def Lane.named (l : Lane) (f : Frame) : Bool :=
  leNat f.body 24 2 != 0 && (decide (leNat f.body 24 2 ≤ l.sentN) || decide (65535 ≤ l.sentN))

/-- The lane after a STATUS that counts as valid, with whether it named a schedule sent (R154, R159). -/
def Lane.counted (l : Lane) (f : Frame) (named : Bool) : Lane :=
  { l with seqRx := leNat f.body 2 2, gotStat := true, aseqOk := l.aseqOk || named }

/-- A STATUS that counts as valid: its SEQ and what it names, RXCNT, CSTAT and the cell's events (R158, R159, R184). -/
def State.statusCounted (s : State) (n : Nat) (f : Frame) (named : Bool) : State :=
  let s := s.modLane n (fun l => l.counted f named)
  let s := ((s.bump (LANE.RXCNT_CNT n)).setReg (LANE.CSTAT n) (statusWord f 3)).iff (getBits (statusWord f 3) 17 2 != 0)
    (fun s => s.irq (LANE.page n) 6)
  s.iff (getBits (statusWord f 3) 21 1 == 1) (fun s => s.irq STL.page 7)

/-- The uplink window is open and the STATUS is of this period (R18, R158). -/
def State.statusTimely (s : State) (f : Frame) : Bool :=
  s.window == 0 && decide (s.now < s.bndAt + s.get TBS.PER_WIN0_W_UPL * t10) && leNat f.body 4 4 == s.pidx % 2 ^ 32

/-- The data of a STATUS, held for the latch or, late, counted and dropped (R158). -/
def State.statusHeld (s : State) (n : Nat) (f : Frame) : State :=
  if s.statusTimely f then
    s.modCell n (fun c => { c with rx := some (statusWord f 0, statusWord f 1, statusWord f 2, statusWord f 3) })
  else s.bump (LANE.ERR_LATE n)

section taken
variable {s : State} {n : Nat} {f : Frame} {b : Bool}

/-- What the marks of a valid STATUS do not change is as it was. -/
theorem State.statusCounted_same {β : Type} (p : State → β) (hm : ∀ t g, p (State.modLane t n g) = p t)
    (hr : ∀ t a w, (a = LANE.RXCNT n ∨ a = LANE.CSTAT n) → p (State.setReg t a w) = p t)
    (hi : ∀ t pg b, (pg = LANE.page n ∨ pg = STL.page) → p (State.irq t pg b) = p t) :
    p (s.statusCounted n f b) = p s := by
  rw [State.statusCounted, State.iff_same p _ (hi _ _ _ (.inr rfl)), State.iff_same p _ (hi _ _ _ (.inl rfl)),
    hr _ _ _ (.inr rfl)]
  exact (hr _ _ _ (.inl rfl)).trans (hm _ _)

theorem State.get_statusCounted {g : Fld} (h1 : g.addr ≠ LANE.RXCNT n) (h2 : g.addr ≠ LANE.CSTAT n)
    (h3 : g.addr ≠ LANE.page n + 0x14) (h4 : g.addr ≠ STL.page + 0x14) : (s.statusCounted n f b).get g = s.get g :=
  State.statusCounted_same (fun t => t.get g) (fun _ _ => rfl)
    (fun t a w ha => State.get_congr g (t.reg_setReg_of_ne w (by rcases ha with rfl | rfl <;> assumption)))
    fun t pg b hp => t.get_irq_of_ne pg b g (by rcases hp with rfl | rfl <;> assumption)

theorem State.statusCounted_timely : (s.statusCounted n f b).statusTimely f = s.statusTimely f := by
  have hw : (s.statusCounted n f b).get TBS.PER_WIN0_W_UPL = s.get TBS.PER_WIN0_W_UPL :=
    State.get_statusCounted (by simp only [LANE.RXCNT]; omega) (by simp only [LANE.CSTAT]; omega)
      (by simp only [LANE.page]; omega) (by decide)
  have hwin : (s.statusCounted n f b).window = s.window :=
    State.statusCounted_same State.window (fun _ _ => rfl) (fun _ _ _ _ => rfl) (fun _ _ _ _ => rfl)
  have hnow : (s.statusCounted n f b).now = s.now :=
    State.statusCounted_same State.now (fun _ _ => rfl) (fun _ _ _ _ => rfl) (fun _ _ _ _ => rfl)
  have hbnd : (s.statusCounted n f b).bndAt = s.bndAt :=
    State.statusCounted_same State.bndAt (fun _ _ => rfl) (fun _ _ _ _ => rfl) (fun _ _ _ _ => rfl)
  have hpidx : (s.statusCounted n f b).pidx = s.pidx :=
    State.statusCounted_same State.pidx (fun _ _ => rfl) (fun _ _ _ _ => rfl) (fun _ _ _ _ => rfl)
  rw [State.statusTimely, State.statusTimely, hw, hwin, hnow, hbnd, hpidx]

theorem State.lane_statusCounted : (s.statusCounted n f b).lane n = (s.lane n).counted f b := by
  rw [State.statusCounted, State.lane_iff fun t => t.lane_irq n STL.page 7,
    State.lane_iff fun t => t.lane_irq n (LANE.page n) 6, State.lane_setReg, State.lane_bump, State.lane_modLane_self]

theorem State.cell_statusCounted : (s.statusCounted n f b).cell n = s.cell n :=
  State.statusCounted_same (fun t => t.cell n) (fun _ _ => rfl) (fun _ _ _ _ => rfl) (fun _ _ _ _ => rfl)

/-- CSTAT shows the fourth data word (R158, R183). -/
theorem State.statusCounted_w3 : (s.statusCounted n f b).get (LANE.CSTAT_W3 n) = leNat f.body 20 4 := by
  rw [State.statusCounted, State.get_iff fun t => t.get_irq_of_ne _ _ _ (by simp only [STL.page]; omega),
    State.get_iff fun t => t.get_irq_of_ne _ _ _ (by simp only [LANE.page]; omega), State.get, State.reg_setReg_self]
  have hw : (statusWord f 3).toNat = leNat f.body 20 4 := by
    rw [statusWord, BitVec.toNat_ofNat]; exact Nat.mod_eq_of_lt (leNat_lt f.body 20 4)
  show (statusWord f 3).toNat >>> 0 % 2 ^ 32 = leNat f.body 20 4
  rw [hw, Nat.shiftRight_zero]
  exact Nat.mod_eq_of_lt (leNat_lt f.body 20 4)

/-- How far a STATUS is ahead of the last one accepted (R154). -/
def State.statusAhead (s : State) (n : Nat) (f : Frame) : Nat := (leNat f.body 2 2 + 65536 - (s.lane n).seqRx) % 65536

variable (hs : s.ln n = lnUP)
  (hf : frameCheck f (s.get (LANE.SID_SID n)) 2 4 (some (s.get (LANE.STAT_VER n))) = 0)
include hs hf

/-- A STATUS past its checks in UP is judged by its SEQ (R154). -/
theorem State.statusRx_up : s.statusRx n f = if s.statusAhead n f = 0 ∨ 32767 < s.statusAhead n f then s.lnErr n 3
    else ((s.iff (decide (1 < s.statusAhead n f)) (fun s => s.lnErr n 3)).statusCounted n f ((s.lane n).named f)).statusHeld n f := by
  have hd : s.lnDecodes n = true := State.lnDecodes_of (by rw [hs]; decide)
  have hver : s.lnVer n = some (s.get (LANE.STAT_VER n)) := State.lnVer_of (by rw [hs]; decide)
  rw [State.statusRx, if_neg (by simp [hd]), if_neg (by rw [hs]; decide)]
  dsimp only
  rw [hver, hf]
  exact if_neg (not_not.2 hs)

/-- The STATUS next in sequence counts, and its data are held or late (R154, R158). -/
theorem State.statusRx_next (hn : leNat f.body 2 2 = (s.lane n).seqRx + 1) :
    s.statusRx n f = (s.statusCounted n f ((s.lane n).named f)).statusHeld n f := by
  have ha : s.statusAhead n f = 1 := by rw [State.statusAhead]; omega
  rw [State.statusRx_up hs hf, ha, if_neg (by decide), State.iff_false (b := decide (1 < 1)) rfl]

/-- A STATUS whose SEQ is that of the last one counts in SEQERR (R154). -/
theorem State.statusRx_again (hn : leNat f.body 2 2 = (s.lane n).seqRx) :
    s.statusRx n f = s.bump (LANE.ERR_SEQERR n) := by
  have ha : s.statusAhead n f = 0 := by rw [State.statusAhead]; omega
  rw [State.statusRx_up hs hf, ha, if_pos (.inl rfl)]
  rfl

end taken

section held
variable {s : State} {n : Nat} {f : Frame}

theorem State.statusHeld_timely (h : s.statusTimely f = true) : s.statusHeld n f =
    s.modCell n (fun c => { c with rx := some (statusWord f 0, statusWord f 1, statusWord f 2, statusWord f 3) }) := if_pos h

theorem State.statusHeld_late (h : s.statusTimely f = false) : s.statusHeld n f = s.bump (LANE.ERR_LATE n) :=
  if_neg (by simp [h])

theorem State.statusTimely_iff : s.statusTimely f = true ↔
    s.window = 0 ∧ s.now < s.bndAt + s.get TBS.PER_WIN0_W_UPL * t10 ∧ leNat f.body 4 4 = s.pidx % 2 ^ 32 := by
  simp only [State.statusTimely, Bool.and_eq_true, beq_iff_eq, decide_eq_true_eq, and_assoc]

theorem State.lane_statusHeld (m : Nat) : (s.statusHeld n f).lane m = s.lane m := by
  unfold State.statusHeld; split <;> rfl

theorem State.get_statusHeld {g : Fld} (h : (LANE.ERR_LATE n).apart g) : (s.statusHeld n f).get g = s.get g :=
  ite_keeps (P := fun t => t.get g = s.get g) rfl (s.get_set_apart _ g _ h)

end held

/-! ### The commands -/

section commands
variable {n : Fin 48} {f : Frame} {s : State}

theorem execHelloRx_eq (n : Fin 48) (f : Frame) (s : State) : execHelloRx n f s = .next ((s.lnStrays n f).helloRx n f) := rfl

theorem execHelloRx_unread (hd : s.lnDecodes n.val = true) (hz : f.stray = 0)
    (h : f.cut = true ∨ f.body.length ≠ 8 * f.len) : execHelloRx n f s = .next (s.bump (LANE.ERR_MALF n.val)) := by
  have hm := frameCheck_malformed h 0 5 4 none
  rw [execHelloRx_eq, State.lnStrays_none (.inr hz), State.helloRx_rejected hd (by rw [hm]; decide), hm, State.lnErr]

theorem execHelloRx_crc (hd : s.lnDecodes n.val = true) (hz : f.stray = 0) (h : frameCheck f 0 5 4 none = 1) :
    ∃ t, execHelloRx n f s = .next t ∧ t.ln n.val = s.ln n.val ∧ t.raised (LANE.page n.val) 4 ∧
      t.get (LANE.ERR_CRCERR n.val) = min 255 (s.get (LANE.ERR_CRCERR n.val) + 1) := by
  refine ⟨(s.bump (LANE.ERR_CRCERR n.val)).irq (LANE.page n.val) 4, ?_, ?_, State.raised_irq _ _ 4 (by decide), ?_⟩
  · rw [execHelloRx_eq, State.lnStrays_none (.inr hz), State.helloRx_rejected hd (by rw [h]; decide), h, State.lnErr]
  · rw [State.ln, State.get_irq_of_ne _ _ _ _ (by simp only [LANE.page]; omega)]
    exact State.get_set_apart _ _ _ _ (.inl (by simp only; omega))
  · rw [State.get_irq_of_ne _ _ _ _ (by simp only [LANE.page]; omega), State.get_bump _ _ (by show 0 + 8 ≤ 32; decide)]
    exact Nat.min_comm _ _

theorem execHelloRx_peer (hs : s.ln n.val = lnHELLO) (hf : frameCheck f 0 5 4 none = 0) (hr : leNat f.body 9 1 % 2 = 0) :
    execHelloRx n f s = .next ((s.lnStrays n.val f).helloTake n.val f.body) := by
  rw [execHelloRx_eq, State.helloRx_takes ((State.ln_lnStrays _).trans hs) hf hr]

/-- The stray blocks of a frame are no matter of BLK's CFG. -/
theorem State.blkCfg_lnStrays {m : Nat} {g : Fld} (h : g.addr = BLK.CFG) : (s.lnStrays m f).get g = s.get g :=
  State.get_lnStrays (.inl (by rw [h]; simp only [BLK.CFG]; omega))

theorem execHelloRx_takes (hs : s.ln n.val = lnHELLO) (hf : frameCheck f 0 5 4 none = 0) (hr : leNat f.body 9 1 % 2 = 0) :
    ∃ t, execHelloRx n f s = .next t ∧ t.get (LANE.PEER2_VERMAX n.val) = leNat f.body 8 1 ∧
      t.get (LANE.PEER3_CAP n.val) = leNat f.body 10 2 ∧
      ((leNat f.body 8 1 < 0x13 ∨ s.verWith f.body < s.get BLK.CFG_VMIN) →
        t.ln n.val = lnDOWN ∧ t.get (LANE.STAT_DCAUSE n.val) = dcVERSION ∧ t.raised BLK.page 3) ∧
      (0x13 ≤ leNat f.body 8 1 → s.get BLK.CFG_VMIN ≤ s.verWith f.body → s.get BLK.CFG_SSC = 0 →
        (∀ m, m < 48 → m ≠ n.val → s.ln m ∉ [lnMEASURE, lnKEY, lnCONFIG, lnUP]) →
        t.ln n.val = lnMEASURE ∧ t.get (LANE.STAT_VER n.val) = s.verWith f.body ∧
        (t.lane n.val).out = some (0, s.now)) := by
  have hver : (s.lnStrays n.val f).verWith f.body = s.verWith f.body := by
    rw [State.verWith, State.blkCfg_lnStrays rfl, State.verWith]
  have hmin : (s.lnStrays n.val f).get BLK.CFG_VMIN = s.get BLK.CFG_VMIN := State.blkCfg_lnStrays rfl
  have hnow : (s.lnStrays n.val f).now = s.now := State.lnStrays_same State.now fun _ => rfl
  obtain ⟨hvm, hcap⟩ := State.helloTake_peer (s := s.lnStrays n.val f) (b := f.body) n.isLt
  rw [← hver, ← hmin, ← hnow]
  refine ⟨_, execHelloRx_peer hs hf hr, hvm, hcap, fun h => ?_, fun h1 h2 hssc hm => ?_⟩
  · exact State.helloTake_version n.isLt ((State.ln_lnStrays _).trans hs) h
  · exact State.helloTake_measures h1 h2 ((State.blkCfg_lnStrays rfl).trans hssc)
      fun m hlt hne => by rw [State.ln_lnStrays]; exact hm m hlt hne

theorem execSackRx_eq (n : Fin 48) (f : Frame) (s : State) : execSackRx n f s = .next ((s.lnStrays n f).sackRx n f) := rfl

theorem execStatusRx_eq (n : Fin 48) (f : Frame) (s : State) : execStatusRx n f s = .next ((s.lnStrays n f).statusRx n f) := rfl

theorem execSackRx_opens {kp : BitVec 256} (hs : s.ln n.val = lnKEY) (hv : s.get (LANE.STAT_VER n.val) = 0x21)
    (hk : s.pairKey (s.get (LANE.PEER2_KID n.val)) = some kp) (hf : frameCheck f 0 7 6 (some 0x21) = 0)
    (ht : (f.body.drop 28).take 16 = bytes128 (Config.gmac (s.sackKey n.val f kp)
      (leBytes 4 (s.lane n.val).sidP ++ [1, 7] ++ leBytes 6 0) (f.body.take 28))) (hsid : (s.lane n.val).sidP < 2 ^ 32) :
    ∃ t, execSackRx n f s = .next t ∧ t.ln n.val = lnCONFIG ∧ t.get (LANE.SID_SID n.val) = (s.lane n.val).sidP ∧
      (t.lane n.val).ks = some (s.sackKey n.val f kp) ∧ (t.lane n.val).ccntTx = 1 ∧ (t.lane n.val).await.isSome := by
  generalize hu : s.lnStrays n.val f = u
  have hlane : u.lane n.val = s.lane n.val := by rw [← hu, State.lane_lnStrays]
  have hkey : u.sackKey n.val f kp = s.sackKey n.val f kp := by rw [State.sackKey, hlane, State.sackKey]
  have hpair : u.pairKey (u.get (LANE.PEER2_KID n.val)) = some kp := by
    rw [← hk, ← hu, State.kid_lnStrays]
    exact State.lnStrays_same (fun t => t.pairKey (s.get (LANE.PEER2_KID n.val))) fun _ => rfl
  have hrun := State.sackRx_opens (s := u) (n := n.val) (by rw [← hu, State.ln_lnStrays, hs])
    (by rw [← hu, State.ver_lnStrays, hv]) hpair hf (by rw [hkey, hlane]; exact ht)
  obtain ⟨t, hopen, hln, hsd, hks, hcc, haw⟩ := State.sessionOpen_leaves (s := u) (n := n.val) (hlane ▸ hsid) (u.sackKey n.val f kp)
  rw [hlane] at hsd
  rw [hkey] at hks
  exact ⟨t, by rw [execSackRx_eq, hu, hrun, hopen], hln, hsd, hks, hcc, haw⟩

theorem State.timely_lnStrays (n : Nat) : (s.lnStrays n f).statusTimely f = s.statusTimely f := by
  have hw : (s.lnStrays n f).get TBS.PER_WIN0_W_UPL = s.get TBS.PER_WIN0_W_UPL :=
    State.get_lnStrays (.inl (by simp only; omega))
  have hwin : (s.lnStrays n f).window = s.window := State.lnStrays_same State.window fun _ => rfl
  have hnow : (s.lnStrays n f).now = s.now := State.lnStrays_same State.now fun _ => rfl
  have hbnd : (s.lnStrays n f).bndAt = s.bndAt := State.lnStrays_same State.bndAt fun _ => rfl
  have hpidx : (s.lnStrays n f).pidx = s.pidx := State.lnStrays_same State.pidx fun _ => rfl
  rw [State.statusTimely, State.statusTimely, hw, hwin, hnow, hbnd, hpidx]

theorem State.cell_bump (g : Fld) (m : Nat) : (s.bump g).cell m = s.cell m := rfl

theorem State.late_statusCounted (n : Fin 48) {b : Bool} :
    ((s.lnStrays n.val f).statusCounted n.val f b).get (LANE.ERR_LATE n.val) = s.get (LANE.ERR_LATE n.val) := by
  rw [State.get_statusCounted (by simp only [LANE.RXCNT]; omega) (by simp only [LANE.CSTAT]; omega) (by simp only [LANE.page]; omega)
      (by simp only [STL.page]; omega)]
  exact State.get_lnStrays (.inr (.inr (by show 16 + 8 ≤ 24; decide)))

theorem execStatusRx_next (hs : s.ln n.val = lnUP)
    (hf : frameCheck f (s.get (LANE.SID_SID n.val)) 2 4 (some (s.get (LANE.STAT_VER n.val))) = 0)
    (hn : leNat f.body 2 2 = (s.lane n.val).seqRx + 1) :
    ∃ t, execStatusRx n f s = .next t ∧ (t.lane n.val).gotStat = true ∧ (t.lane n.val).seqRx = leNat f.body 2 2 ∧
      t.get (LANE.CSTAT_W3 n.val) = leNat f.body 20 4 ∧
      (s.statusTimely f = true →
        (t.cell n.val).rx = some (statusWord f 0, statusWord f 1, statusWord f 2, statusWord f 3) ∧
        t.get (LANE.ERR_LATE n.val) = s.get (LANE.ERR_LATE n.val)) ∧
      (s.statusTimely f = false → (t.cell n.val).rx = (s.cell n.val).rx ∧
        t.get (LANE.ERR_LATE n.val) = min 255 (s.get (LANE.ERR_LATE n.val) + 1)) := by
  generalize hu : s.lnStrays n.val f = u
  have hlane : u.lane n.val = s.lane n.val := by rw [← hu, State.lane_lnStrays]
  have hrun := State.statusRx_next (s := u) (n := n.val) (f := f) (by rw [← hu, State.ln_lnStrays, hs])
    (by rw [← hu, State.sid_lnStrays, State.ver_lnStrays]; exact hf) (by rw [hlane]; exact hn)
  generalize hb : (u.lane n.val).named f = b at hrun
  have htime : (u.statusCounted n.val f b).statusTimely f = s.statusTimely f := by
    rw [State.statusCounted_timely, ← hu, State.timely_lnStrays]
  have hcell : (u.statusCounted n.val f b).cell n.val = s.cell n.val := by
    rw [State.cell_statusCounted, ← hu]
    exact State.lnStrays_same (fun t => t.cell n.val) fun _ => rfl
  have hlate : (u.statusCounted n.val f b).get (LANE.ERR_LATE n.val) = s.get (LANE.ERR_LATE n.val) := by
    rw [← hu, State.late_statusCounted]
  refine ⟨(u.statusCounted n.val f b).statusHeld n.val f, by rw [execStatusRx_eq, hu, hrun], ?_, ?_, ?_, fun h => ?_, fun h => ?_⟩
  · rw [State.lane_statusHeld, State.lane_statusCounted]; rfl
  · rw [State.lane_statusHeld, State.lane_statusCounted]; rfl
  · rw [State.get_statusHeld (.inl (by simp only; omega)), State.statusCounted_w3]
  · rw [State.statusHeld_timely (htime.trans h), State.cell_modCell_self, State.get_modCell]
    exact ⟨rfl, hlate⟩
  · rw [State.statusHeld_late (htime.trans h), State.get_bump _ _ (by show 16 + 8 ≤ 32; decide), hlate]
    exact ⟨by rw [State.cell_bump, hcell], Nat.min_comm _ _⟩

end commands

/-- The version of a number is 0 below the lowest listed one, and else the highest listed one not above it (R167). -/
theorem listedVer_spec (v : Nat) : (listedVer v = 0 ↔ v < 0x13) ∧
    (0x13 ≤ v → listedVer v ∈ [0x13, 0x20, 0x21] ∧ listedVer v ≤ v) ∧ ∀ w ∈ [0x13, 0x20, 0x21], w ≤ v → w ≤ listedVer v := by
  unfold listedVer
  refine ⟨by split_ifs <;> simp only [false_iff, true_iff, not_lt] <;> omega, fun h => ?_, fun w hw h => ?_⟩
  · split_ifs <;> simp [*]
  · simp only [List.mem_cons, List.not_mem_nil, or_false] at hw
    split_ifs <;> omega

/-- Settles O28: a HELLO from its checks to the peer, the session and its CFG by the frames that open and acknowledge them, and
a STATUS by the state it arrives in. -/
theorem helloSessionAndStatus : Obligations.HelloSessionAndStatus := by
  unfold Obligations.HelloSessionAndStatus
  refine ⟨⟨fun n f s hd hz => ⟨fun h => ?_, fun h => ?_, fun h hr => ?_⟩, fun n f s hs hf hr => ?_, fun n f s hs hf hr => ?_,
      listedVer_spec⟩,
    ⟨fun n f s kp hs hv hk hf ht hsid => ?_, fun n a res s hn hk h => ?_, fun n f s hs => ⟨fun hd => ?_, fun hd => ?_⟩,
      fun n f s k a hs hk hv ha hf ht hc hcc hr => ?_, fun n a s ha => ⟨fun h => ?_, fun h => ?_⟩⟩,
    ⟨fun n f s => ⟨fun hd h => ?_, fun h => ?_⟩, fun n f s hu => ⟨fun hd => ?_, fun hd hs => ?_, fun hd hs => ?_⟩,
      fun n f s hs hf _ hn => ?_, fun n f s hs hf hn => ?_⟩⟩
  · exact execHelloRx_unread hd hz h
  · exact execHelloRx_crc hd hz h
  · exact next_congr (by rw [State.lnStrays_none (.inr hz), State.helloRx_role hd h hr])
  · exact execHelloRx_takes hs hf hr
  · exact next_congr (State.helloRx_restart (by rw [State.ln_lnStrays]; exact hs) hf hr)
  · exact execSackRx_opens hs hv hk hf ht hsid
  · rw [State.cfgAcked_config hk h]
    obtain ⟨hln, hcst, hraised, hhot, hup⟩ := s.lnUpNow_leaves hn
    exact ⟨hln, hcst, hraised, hhot, hup⟩
  · exact next_congr (by rw [State.lnStrays_none (.inl hd), State.cfgackRx_deaf hd])
  · refine next_congr ((State.cfgackRx_checked ?_ ?_).trans ?_)
    · rw [State.lnDecodes_lnStrays]; exact hd
    · rw [State.ln_lnStrays]; exact hs
    · rw [State.sid_lnStrays, State.ver_lnStrays, State.lnVer_lnStrays]; rfl
  · refine next_congr (State.cfgackRx_acks (k := k) ?_ ?_ ?_ ?_ ?_ ?_ ?_ hcc hr)
    · rw [State.ln_lnStrays]; exact hs
    · rw [State.lane_lnStrays]; exact hk
    · rw [State.ver_lnStrays]; exact hv
    · rw [State.lane_lnStrays]; exact ha
    · rw [State.sid_lnStrays]; exact hf
    · rw [State.sid_lnStrays]; exact ht
    · rw [State.lane_lnStrays]; exact hc
  · exact execCfgAckTimeout_retry ha h
  · exact execCfgAckTimeout_waits ha h
  · exact State.lnStrays_counts hd h
  · exact State.lnStrays_none h
  · exact next_congr (by rw [State.lnStrays_none (.inl hd), State.statusRx_deaf hd])
  · refine next_congr (State.statusRx_training ?_ ?_)
    · rw [State.lnDecodes_lnStrays]; exact hd
    · rw [State.ln_lnStrays]; exact hs
  · refine next_congr ((State.statusRx_checked ?_ ?_ ?_).trans ?_)
    · rw [State.lnDecodes_lnStrays]; exact hd
    · rw [State.ln_lnStrays]; exact hs
    · rw [State.ln_lnStrays]; exact hu
    · rw [State.sid_lnStrays, State.lnVer_lnStrays]
  · obtain ⟨t, hrun, hgot, hseq, hw3, htime, hlate⟩ := execStatusRx_next hs hf hn
    exact ⟨t, hrun, hgot, hseq, hw3, fun h => htime (State.statusTimely_iff.2 h),
      fun h => hlate (Bool.eq_false_iff.2 fun hb => h (State.statusTimely_iff.1 hb))⟩
  · refine next_congr (State.statusRx_again ?_ ?_ ?_)
    · rw [State.ln_lnStrays]; exact hs
    · rw [State.sid_lnStrays, State.ver_lnStrays]; exact hf
    · rw [State.lane_lnStrays]; exact hn

end Sys2Proof.Machine
end

section
/-! The measurement of a lane's delay (R163, R164): which replies are used, the requests that follow, and what the 64th reply
within the spread settles. -/

namespace Sys2Proof.Machine

/-! ### Figures of 64 replies -/

/-- An operation whose operand taken twice is as taken once gives over equal items what it gives over one. -/
theorem foldl_replicate_same {α β : Type} (op : β → α → β) (a : α) (h : ∀ b, op (op b a) a = op b a) :
    ∀ (k : Nat) (b : β), (List.replicate (k + 1) a).foldl op b = op b a
  | 0, _ => rfl
  | k + 1, b => by rw [List.replicate_succ, List.foldl_cons, foldl_replicate_same op a h k, h]

/-- The spread of the round-trip times of a list of replies (R164). -/
def rttSpread (reps : List (Nat × Nat)) : Nat :=
  let rtts := reps.map (·.1)
  let mx := rtts.foldl max 0
  mx - rtts.foldl min mx

/-- The one-way delay that 64 replies and the asymmetry give (R163, R164). -/
def delayOf (reps : List (Nat × Nat)) (asym : Int) : Int :=
  let sum : Int := reps.foldl (fun a p => a + ((p.1 : Int) - p.2)) 0
  roundAway ((sum : Rat) / 128 + (asym : Rat))

theorem rttSpread_replicate (k : Nat) (p : Nat × Nat) : rttSpread (List.replicate (k + 1) p) = 0 := by
  have hmax := foldl_replicate_same max p.1 (fun b => by omega) k 0
  have hmin := foldl_replicate_same min p.1 (fun b => by omega) k p.1
  simp only [rttSpread, List.map_replicate, hmax, Nat.zero_max, hmin, Nat.min_self, Nat.sub_self]

theorem foldl_add_replicate (g : Nat × Nat → Int) (p : Nat × Nat) :
    ∀ (k : Nat) (b : Int), (List.replicate k p).foldl (fun a q => a + g q) b = b + k * g p
  | 0, b => by simp
  | k + 1, b => by rw [List.replicate_succ, List.foldl_cons, foldl_add_replicate g p k]; push_cast; ring

theorem roundAway_natCast (h : Nat) : roundAway (h : Rat) = h := by
  have hfl : ((h : Rat) + 1 / 2).floor = h := by
    show ⌊(h : Rat) + 1 / 2⌋ = h
    rw [Int.floor_natCast_add]
    norm_num
  rw [roundAway, if_pos (by positivity), hfl]

/-- 64 equal replies without asymmetry give half of what the round trip took beyond the turn (R163). -/
theorem delayOf_replicate {rtt turn : Nat} (h : turn ≤ rtt) (he : (rtt - turn) % 2 = 0) :
    delayOf (List.replicate 64 (rtt, turn)) 0 = ((rtt - turn) / 2 : Nat) := by
  obtain ⟨d, hd⟩ : ∃ d, rtt = turn + 2 * d := ⟨(rtt - turn) / 2, by omega⟩
  have hhalf : (rtt - turn) / 2 = d := by omega
  rw [hhalf, ← roundAway_natCast d, delayOf, foldl_add_replicate (fun p => (p.1 : Int) - p.2)]
  dsimp only
  rw [hd]
  congr 1
  push_cast
  ring

/-! ### Replies (R164) -/

/-- A lane with one more reply used: the latest 64 are kept. -/
def Lane.replied (l : Lane) (rtt turn : Nat) : Lane := { l with replies := ((rtt, turn) :: l.replies).take 64 }

/-- DLY shows a delay and its spread (R183). -/
def State.delayShown (s : State) (n : Nat) (d : Int) (spread : Nat) : State :=
  (s.set (LANE.DLY_D n) (max 0 (min 65535 d)).toNat).set (LANE.DLY_SPREAD n) (min spread 65535)

/-- The budget decides on a lane whose delay stands (R163, R164). -/
def State.delayJudged (s : State) (n : Nat) (d : Int) : State :=
  if s.budget n d then (s.set (LANE.STAT_DLYW n) 0).enterKey n else s.lnDown n dcDLY_BUDGET

section reply
variable {s : State} {n eid turn rtt e at_ : Nat} (hs : s.ln n = lnMEASURE) (ho : (s.lane n).out = some (e, at_))
include hs ho

theorem State.echoReply_ignored (h : e ≠ eid ∨ 320000 < rtt) : s.echoReply n eid turn rtt = s := by
  have hs' : s.ln n = 3 := hs
  simp only [State.echoReply, hs', ho]
  exact if_pos h

/-- A reply used with station time locked: the delay stands and is judged, or the next request follows (R164). -/
theorem State.echoReply_used (hk : s.get MOD.TB_STAT_LOCK = 1) (he : e = eid) (hr : rtt ≤ 320000) {reps : List (Nat × Nat)}
    (hreps : ((rtt, turn) :: (s.lane n).replies).take 64 = reps) : s.echoReply n eid turn rtt =
      if reps.length = 64 ∧ rttSpread reps ≤ 8 then
        ((s.modLane n (·.replied rtt turn)).delayShown n (delayOf reps (s.getS (LANE.ASYM_ASYM n))) (rttSpread reps)).delayJudged n
          (delayOf reps (s.getS (LANE.ASYM_ASYM n)))
      else (s.modLane n (·.replied rtt turn)).echoNext n := by
  subst hreps
  unfold State.echoReply
  dsimp only
  split
  next e' _ _ ho' =>
    obtain ⟨rfl, rfl⟩ : e = e' ∧ at_ = _ := by simpa using ho.symm.trans ho'
    rw [if_neg (by omega), if_neg (by rw [State.on_of_get_one hk]; decide)]
    rfl
  next h => exact absurd ho (h e at_ hs)

end reply

theorem State.echoNext_requests {s : State} {n : Nat} (h : (s.lane n).reqs < 256) : s.echoNext n = s.echoReq n := if_pos h

theorem State.echoReq_regs (s : State) (n : Nat) : (s.echoReq n).regs = s.regs := rfl

/-- The budget is a matter of the cell head's CONV and the period's figures (R163). -/
theorem State.budget_congr {s t : State} {n : Nat} (hc : t.get (LANE.PEER3_CONV n) = s.get (LANE.PEER3_CONV n))
    (hg : t.get TBS.PER_WIN1_W_GD = s.get TBS.PER_WIN1_W_GD) (hu : t.get TBS.PER_WIN0_W_UPL = s.get TBS.PER_WIN0_W_UPL)
    (hp : t.get TBS.PER_CFG_PERIOD = s.get TBS.PER_CFG_PERIOD) (d : Int) : t.budget n d = s.budget n d := by
  rw [State.budget, State.budget, State.tc, State.tc, hc, hg, hu, hp]

section delay
variable {s : State} {n : Nat}

/-- Showing a delay writes DLY alone of the registers. -/
theorem State.get_delayShown (d : Int) (spread : Nat) {g : Fld} (h : g.addr ≠ LANE.page n + 0x50) :
    (s.delayShown n d spread).get g = s.get g := by
  have hd : (LANE.DLY_D n).addr ≠ g.addr := fun he => h (he.symm.trans (by simp only [LANE.page]; omega))
  rw [State.delayShown, State.get_set_apart _ (LANE.DLY_SPREAD n) _ _ (.inl hd), State.get_set_apart _ _ _ _ (.inl hd)]

theorem State.delayShown_d {d : Nat} (h : d < 65536) (spread : Nat) : (s.delayShown n d spread).get (LANE.DLY_D n) = d := by
  rw [State.delayShown, State.get_set_apart _ (LANE.DLY_SPREAD n) _ _ (.inr (.inr (by show 0 + 16 ≤ 16; decide))),
    State.get_set_self _ _ _ (by show 0 + 16 ≤ 32; decide)]
  show (max 0 (min 65535 (d : Int))).toNat % 2 ^ 16 = d
  omega

theorem State.delayShown_spread (d : Int) : (s.delayShown n d 0).get (LANE.DLY_SPREAD n) = 0 := by
  rw [State.delayShown, State.get_set_self _ _ _ (by show 16 + 16 ≤ 32; decide)]
  rfl

theorem State.budget_delayShown (d : Int) (spread : Nat) (d' : Int) : (s.delayShown n d spread).budget n d' = s.budget n d' :=
  State.budget_congr (State.get_delayShown d spread (by simp only [LANE.page]; omega))
    (State.get_delayShown d spread (by simp only [LANE.page]; omega))
    (State.get_delayShown d spread (by simp only [LANE.page]; omega))
    (State.get_delayShown d spread (by simp only [LANE.page]; omega)) d'

theorem State.pairKey_lnGo (s : State) (n st k : Nat) : (s.lnGo n st).pairKey k = s.pairKey k := by rw [State.lnGo_eq]; rfl

/-- Sending an SOPEN, or going DOWN for want of a key, touches no other lane (R168). -/
theorem State.sopen_frame (hn : n < 48) (s : State) : LaneFrame n s (s.sopen n) := by
  unfold State.sopen
  split
  · exact s.lnDown_frame hn dcKEY
  · have hfree : LaneFrame n s { s with freeN := s.freeN + 1 } := ⟨fun _ _ => rfl, fun _ _ => rfl, rfl⟩
    dsimp only [State.free]
    exact (hfree.modLane _).trans ((State.lnSend_frame _ n _).modLane _)

theorem State.enterKey_frame (hn : n < 48) (s : State) : LaneFrame n s (s.enterKey n) :=
  ((s.lnGo_frame n lnKEY).modLane _).trans (State.sopen_frame hn _)

/-- A lane with a pairing key enters KEY (R164, R168). -/
theorem State.enterKey_ln (h : s.pairKey (s.get (LANE.PEER2_KID n)) ≠ none) : (s.enterKey n).ln n = lnKEY := by
  generalize hu : (s.lnGo n lnKEY).modLane n (fun l => { l with tries := 0, out := none }) = u
  have hget : ∀ g, u.get g = (s.lnGo n lnKEY).get g := fun g => by rw [← hu, State.get_modLane]
  have hkid : u.get (LANE.PEER2_KID n) = s.get (LANE.PEER2_KID n) :=
    (hget _).trans ((s.lnGo_frame n lnKEY).get _ (lnQuiet_own (o := 0x5C) (by simp only [LANE.page]; omega) (by decide)))
  have hpair : u.pairKey (s.get (LANE.PEER2_KID n)) = s.pairKey (s.get (LANE.PEER2_KID n)) := by
    rw [← hu, ← s.pairKey_lnGo n lnKEY]; rfl
  obtain ⟨kp, hkp⟩ := Option.ne_none_iff_exists'.1 h
  have hsent := (State.sopen_sends (s := u) (n := n) (kp := kp) (by rw [hkid, hpair, hkp])).get
  rw [State.enterKey, hu, State.ln, hsent, hget]
  exact s.lnGo_ln n (by decide)

/-- Whatever the budget decides, DLY stays (R183). -/
theorem State.get_delayJudged (hn : n < 48) (d : Int) {g : Fld} (hg : g.addr = LANE.page n + 0x50) :
    (s.delayJudged n d).get g = s.get g := by
  have hq : lnQuiet n g := lnQuiet_own hg (by decide)
  have ha : (LANE.STAT_DLYW n).addr ≠ g.addr := by rw [hg]; simp only [LANE.page]; omega
  have hkey := (State.enterKey_frame hn (s.set (LANE.STAT_DLYW n) 0)).get g hq
  exact ite_keeps (P := fun t => t.get g = s.get g) (hkey.trans (s.get_set_apart _ g 0 (.inl ha)))
    ((s.lnDown_frame hn dcDLY_BUDGET).get g hq)

/-- A delay beyond the budget takes the lane DOWN (R163). -/
theorem State.delayJudged_down (hn : n < 48) (hs : s.ln n = lnMEASURE) {d : Int} (hb : s.budget n d = false) :
    (s.delayJudged n d).ln n = lnDOWN ∧ (s.delayJudged n d).get (LANE.STAT_DCAUSE n) = dcDLY_BUDGET := by
  have h0 : s.ln n ≠ lnOFF := by rw [hs]; decide
  have h7 : s.ln n ≠ lnDOWN := by rw [hs]; decide
  rw [show s.delayJudged n d = s.lnDown n dcDLY_BUDGET from if_neg (by simp [hb])]
  exact ⟨State.lnDown_ln hn h0 h7, State.lnDown_cause hn h0 h7 (by decide)⟩

/-- One within the budget takes a lane with a pairing key to KEY with DLYW clear (R163, R164, R183). -/
theorem State.delayJudged_key (hn : n < 48) {d : Int} (hb : s.budget n d = true)
    (hk : s.pairKey (s.get (LANE.PEER2_KID n)) ≠ none) :
    (s.delayJudged n d).ln n = lnKEY ∧ (s.delayJudged n d).get (LANE.STAT_DLYW n) = 0 := by
  have hkey : (s.set (LANE.STAT_DLYW n) 0).pairKey ((s.set (LANE.STAT_DLYW n) 0).get (LANE.PEER2_KID n)) ≠ none := by
    rw [State.get_set_apart _ _ _ _ (.inl (by simp only; omega))]; exact hk
  rw [State.delayJudged, if_pos hb]
  refine ⟨State.enterKey_ln hkey, ?_⟩
  rw [(State.enterKey_frame hn _).get _ (lnQuiet_stat rfl (by show 8 ≤ 16; decide)),
    State.get_set_self _ _ _ (by show 16 + 1 ≤ 32; decide)]
  rfl

end delay

/-! ### The commands -/

section commands
variable {n : Fin 48} {turn : Word} {rtt e at_ : Nat} {s : State}

theorem execEchoReplyRx_eq (he : e < 256) : execEchoReplyRx n (BitVec.ofNat 8 e) turn rtt s =
    .next (s.echoReply n e turn.toNat rtt) := by
  rw [execEchoReplyRx, BitVec.toNat_ofNat, Nat.mod_eq_of_lt he]

theorem execEchoReplyRx_next (hs : s.ln n.val = lnMEASURE) (hk : s.get MOD.TB_STAT_LOCK = 1)
    (ho : (s.lane n.val).out = some (e, at_)) (he : e < 256) (hr : rtt ≤ 320000) (hl : (s.lane n.val).replies.length < 63)
    (hq : (s.lane n.val).reqs < 256) : ∃ t, execEchoReplyRx n (BitVec.ofNat 8 e) turn rtt s = .next t ∧ t.ln n.val = lnMEASURE ∧
      (t.lane n.val).replies = (rtt, turn.toNat) :: (s.lane n.val).replies ∧
      (t.lane n.val).reqs = (s.lane n.val).reqs + 1 ∧ (t.lane n.val).out = some ((s.lane n.val).eid, s.now) ∧ t.regs = s.regs := by
  have htake : ((rtt, turn.toNat) :: (s.lane n.val).replies).take 64 = (rtt, turn.toNat) :: (s.lane n.val).replies :=
    List.take_of_length_le (by rw [List.length_cons]; omega)
  generalize hu : s.modLane n.val (·.replied rtt turn.toNat) = u
  have hlane : u.lane n.val = (s.lane n.val).replied rtt turn.toNat := by rw [← hu, State.lane_modLane_self]
  have hon : u.on MOD.TB_STAT_LOCK = true := State.on_of_get_one (by rw [← hu, State.get_modLane, hk])
  obtain ⟨ls, hecho⟩ := u.lane_echoReq n.val
  rw [hon, hlane, if_pos rfl] at hecho
  refine ⟨u.echoReq n.val, ?_, ?_, ?_, ?_, ?_, ?_⟩
  · rw [execEchoReplyRx_eq he, State.echoReply_used hs ho hk rfl hr htake, if_neg (by rw [List.length_cons]; omega), hu,
      State.echoNext_requests (by rw [hlane]; exact hq)]
  · rw [State.ln, State.get_echoReq, ← hu, State.get_modLane]; exact hs
  · rw [hecho]; exact htake
  · rw [hecho]; rfl
  · rw [hecho, ← hu]; rfl
  · rw [State.echoReq_regs, ← hu]; rfl

theorem execEchoReplyRx_settles (hs : s.ln n.val = lnMEASURE) (hk : s.get MOD.TB_STAT_LOCK = 1)
    (ho : (s.lane n.val).out = some (e, at_)) (he : e < 256) (hr : rtt ≤ 320000)
    (hl : (s.lane n.val).replies = List.replicate 63 (rtt, turn.toNat)) (ha : s.get (LANE.ASYM_ASYM n.val) = 0)
    (ht : turn.toNat ≤ rtt) (hev : (rtt - turn.toNat) % 2 = 0) (hd : (rtt - turn.toNat) / 2 < 65536) :
    ∃ t, execEchoReplyRx n (BitVec.ofNat 8 e) turn rtt s = .next t ∧
      t.get (LANE.DLY_D n.val) = (rtt - turn.toNat) / 2 ∧ t.get (LANE.DLY_SPREAD n.val) = 0 ∧
      (s.budget n.val ((rtt - turn.toNat) / 2 : Nat) = false → t.ln n.val = lnDOWN ∧ t.get (LANE.STAT_DCAUSE n.val) = dcDLY_BUDGET) ∧
      (s.budget n.val ((rtt - turn.toNat) / 2 : Nat) = true → s.pairKey (s.get (LANE.PEER2_KID n.val)) ≠ none → t.ln n.val = lnKEY ∧
        t.get (LANE.STAT_DLYW n.val) = 0) := by
  have htake : ((rtt, turn.toNat) :: (s.lane n.val).replies).take 64 = List.replicate 64 (rtt, turn.toNat) := by
    rw [hl, ← List.replicate_succ, List.take_of_length_le (by rw [List.length_replicate])]
  have hasym : s.getS (LANE.ASYM_ASYM n.val) = 0 := by rw [State.getS, ha]; rfl
  have hused := State.echoReply_used hs ho hk rfl hr htake
  rw [rttSpread_replicate 63, hasym, delayOf_replicate ht hev,
    if_pos ⟨List.length_replicate, Nat.zero_le 8⟩] at hused
  generalize (rtt - turn.toNat) / 2 = d at *
  generalize hu : (s.modLane n.val (·.replied rtt turn.toNat)).delayShown n.val d 0 = u at hused
  have hget : ∀ g o, g.addr = LANE.page n.val + o → o ≠ 0x50 → u.get g = s.get g := fun g o hg ho => by
    rw [← hu, State.get_delayShown _ _ (by rw [hg]; omega), State.get_modLane]
  have hln : u.ln n.val = lnMEASURE :=
    (hget (LANE.STAT_STATE n.val) 0x4C (by simp only [LANE.page]; omega) (by decide)).trans hs
  have hbudget : u.budget n.val d = s.budget n.val d := by
    rw [← hu, State.budget_delayShown]
    exact State.budget_congr rfl rfl rfl rfl d
  have hpair : u.pairKey (u.get (LANE.PEER2_KID n.val)) = s.pairKey (s.get (LANE.PEER2_KID n.val)) := by
    rw [hget _ 0x5C (by simp only [LANE.page]; omega) (by decide), ← hu]
    rfl
  have hd' : u.get (LANE.DLY_D n.val) = d := by rw [← hu]; exact State.delayShown_d hd 0
  have hspread : u.get (LANE.DLY_SPREAD n.val) = 0 := by rw [← hu]; exact State.delayShown_spread d
  rw [← hbudget, ← hpair]
  refine ⟨u.delayJudged n.val d, ?_, ?_, ?_, fun hb => State.delayJudged_down n.isLt hln hb,
    fun hb hk => State.delayJudged_key n.isLt hb hk⟩
  · rw [execEchoReplyRx_eq he, hused]
  · rw [State.get_delayJudged n.isLt d (by simp only [LANE.page]; omega), hd']
  · rw [State.get_delayJudged n.isLt d (by simp only [LANE.page]; omega), hspread]

theorem execEchoTimeout_next (hs : s.ln n.val = lnMEASURE) (ho : (s.lane n.val).out = some (e, at_))
    (hq : (s.lane n.val).reqs < 256) : ∃ t, execEchoTimeout n s = .next t ∧ t.now = max s.now (at_ + 50 * tUs) ∧
      (t.lane n.val).out = some ((s.lane n.val).eid, t.now) ∧ (t.lane n.val).replies = (s.lane n.val).replies ∧ t.regs = s.regs := by
  have hs' : s.ln n.val = 3 := hs
  obtain ⟨ls, hecho⟩ := (s.advance (at_ + 50 * tUs)).lane_echoReq n.val
  have hnow : ((s.advance (at_ + 50 * tUs)).echoReq n.val).now = max s.now (at_ + 50 * tUs) := rfl
  refine ⟨(s.advance (at_ + 50 * tUs)).echoReq n.val, ?_, hnow, ?_, ?_, rfl⟩
  · rw [← State.echoNext_requests (s := s.advance (at_ + 50 * tUs)) hq]
    simp only [execEchoTimeout, hs', ho]
  · rw [hecho, hnow]; rfl
  · rw [hecho]; rfl

end commands

end Sys2Proof.Machine
end

section
/-! The services of a lane in a session: time marks (R160), changed dead times (R119, R170), host records (R170, R181), a test
request (R175), SSC (R180); and the statement about a lane's delay and its services. -/

namespace Sys2Proof.Machine

/-! ### Changed dead times (R119, R170) -/

/-- A lane whose dead times of a mask leave: those captured before this period are changed no more. -/
def Lane.dtSent (l : Lane) (mask pidx : Nat) : Lane :=
  { l with dtChg := l.dtChg &&& (7 ^^^ mask), dtNew := if l.dtAt < pidx then l.dtNew &&& (7 ^^^ mask) else l.dtNew }

/-- The records a CFG of dead times carries. -/
def State.dtRecs (s : State) (n mask : Nat) : List (Nat × Nat) := (bitsOf 3 mask).map (fun i => (i + 1, s.dtBefore n (i + 1)))

section deadTimes
variable {s : State} {n : Nat}

@[simp] theorem State.modLane_pidx (s : State) (n : Nat) (f : Lane → Lane) : (s.modLane n f).pidx = s.pidx := rfl

theorem State.sendDt_eq (s : State) (n mask : Nat) : s.sendDt n mask false =
    (s.modLane n (fun l => l.dtSent mask s.pidx)).cfgSend n 1 (s.pidx + 3) (s.dtRecs n mask) := by
  simp only [State.sendDt, State.dtRecs, Lane.dtSent, Bool.false_or, decide_eq_true_eq, Bool.false_eq_true, if_false]
  rfl

theorem State.dtDue_after (h : (s.lane n).dtAt < s.pidx) : s.dtDue n = (s.lane n).dtChg ||| (s.lane n).dtNew := by
  simp only [State.dtDue, h, if_true]

theorem State.dtDue_within (h : s.pidx ≤ (s.lane n).dtAt) : s.dtDue n = (s.lane n).dtChg := by
  simp only [State.dtDue, Nat.not_lt.2 h, if_false, Nat.or_zero]

theorem State.dtBefore_after (h : (s.lane n).dtAt < s.pidx) (p : Nat) : s.dtBefore n p = s.dtOf n p := by
  simp [State.dtBefore, h]

theorem State.dtBefore_within (h : s.pidx ≤ (s.lane n).dtAt) {i : Nat} (hi : (s.lane n).dtNew.testBit i = true) :
    s.dtBefore n (i + 1) = (s.lane n).dtPrev.getD i 0 := by
  simp [State.dtBefore, Nat.not_lt.2 h, hi]

theorem and_xor_seven : ∀ m < 8, m &&& (7 ^^^ m) = 0 := by decide

/-- The dead times that were due are sent, and none is due any more. -/
theorem State.dtDue_sent {t : State} (h8 : s.dtDue n < 8) (hp : t.pidx = s.pidx) (hat : (t.lane n).dtAt = (s.lane n).dtAt)
    (hchg : (t.lane n).dtChg = ((s.lane n).dtSent (s.dtDue n) s.pidx).dtChg)
    (hnew : (t.lane n).dtNew = ((s.lane n).dtSent (s.dtDue n) s.pidx).dtNew) : t.dtDue n = 0 := by
  have hclear := and_xor_seven _ h8
  by_cases h : (s.lane n).dtAt < s.pidx
  · rw [State.dtDue_after (by rw [hat, hp]; exact h), hchg, hnew, Lane.dtSent, if_pos h]
    dsimp only
    rw [← Nat.and_or_distrib_right, ← State.dtDue_after h, hclear]
  · have h' : s.pidx ≤ (s.lane n).dtAt := Nat.not_lt.1 h
    rw [State.dtDue_within (by rw [hat, hp]; exact h'), hchg, Lane.dtSent]
    dsimp only
    rw [← State.dtDue_within h', hclear]

end deadTimes

/-! ### Host records (R170, R181) -/

/-- The conditions a host record is judged on: the module's own PIDs, a CFG that waits, and a lane that is not UP. -/
def State.creqConds (s : State) (n pid : Nat) : List (Bool × Nat) :=
  [(decide (pid < 0x8000) && pid != 0x11, bPID_OWNED), ((s.lane n).await.isSome, bCFG_BUSY), (s.ln n != lnUP, bNO_SESSION)]

/-- A host record leaves as a CFG of its own. -/
def State.creqSend (s : State) (n : Nat) (val : Word) : State :=
  ((s.take .lane (LANE.page n) 0x78 val).set (LANE.CRES_BUSY n) 1).cfgSend n 2 0
    [(getBits val 0 16, s.get (LANE.CVAL_VALUE n))]

section record
variable {s : State} {n : Nat} {val : Word}

theorem State.creqWrite_eq (h : val.getLsbD 16 = true) : s.creqWrite n val =
    s.judge (LANE.page n) 0x78 (s.creqConds n (getBits val 0 16)) (fun t => t.creqSend n val) := if_pos h

/-- The first of its conditions that holds refuses a host record. -/
theorem State.creqWrite_refused (hb : val.getLsbD 16 = true) (ht : s.takes (LANE.page n)) {c : Bool × Nat}
    (hc : (s.creqConds n (getBits val 0 16)).find? (fun x => x.1) = some c) :
    s.creqWrite n val = s.refuse (LANE.page n) 0x78 c.2 := by
  rw [State.creqWrite_eq hb]
  refine State.judge_first ht hc fun x hx _ => ?_
  simp only [State.creqConds, List.mem_cons, List.not_mem_nil, or_false] at hx
  rcases hx with rfl | rfl | rfl <;> (dsimp only; decide)

theorem State.creqWrite_sends (hb : val.getLsbD 16 = true) (ht : s.takes (LANE.page n))
    (hp : 0x8000 ≤ getBits val 0 16 ∨ getBits val 0 16 = 0x11) (ha : (s.lane n).await = none) (hu : s.ln n = lnUP) :
    s.creqWrite n val = s.creqSend n val := by
  rw [State.creqWrite_eq hb]
  refine State.judge_takes ht fun x hx => ?_
  simp only [State.creqConds, List.mem_cons, List.not_mem_nil, or_false] at hx
  rcases hx with rfl | rfl | rfl
  · rcases hp with hp | hp <;> simp [hp]
  · rw [ha]; rfl
  · rw [hu]; rfl

theorem State.creqSend_leaves (s : State) (n : Nat) (val : Word) : ∃ a, ((s.creqSend n val).lane n).await = some a ∧ a.kind = 2 ∧
    a.eff = 0 ∧ a.recs = [(getBits val 0 16, s.get (LANE.CVAL_VALUE n))] ∧ (s.creqSend n val).get (LANE.CRES_BUSY n) = 1 := by
  obtain ⟨ls, fr, hl⟩ := ((s.take .lane (LANE.page n) 0x78 val).set (LANE.CRES_BUSY n) 1).lane_cfgSend n 2 0
    [(getBits val 0 16, s.get (LANE.CVAL_VALUE n))]
  refine ⟨_, by rw [State.creqSend, hl], rfl, rfl, rfl, ?_⟩
  rw [State.creqSend, State.get_cfgSend, State.get_set_self _ _ _ (by simp only; decide)]
  rfl

end record

/-- The bit GO is none of the PID's. -/
theorem getBits_or_go (v : Word) : getBits (v ||| 0x10000) 0 16 = getBits v 0 16 := by
  refine getBits_congr fun i hi => ?_
  have hb : (0x10000 : Word).getLsbD (0 + i) = false := by
    rw [show (0x10000 : Word) = BitVec.twoPow 32 16 from rfl, BitVec.getLsbD_twoPow]; simp; omega
  rw [BitVec.getLsbD_or, hb, Bool.or_false]

/-! ### A test request (R175) -/

section prbs
variable {s : State} {n : Nat} {val : Word}

/-- A test the cell's state does not allow is refused. -/
theorem State.laneCfgWrite_state (ht : s.takes (LANE.page n)) (hc : getBits val 3 3 < 5) (hp : s.prbsAsked n val = true)
    (hs : s.cst n ∈ [ckACTIVE, ckCHARGING, ckSPARE]) : s.laneCfgWrite n val = s.refuse (LANE.page n) 0x40 bSTATE := by
  have hcmd : decide (5 ≤ getBits val 3 3) = false := decide_eq_false (by omega)
  rw [State.laneCfgWrite_eq, hcmd, hp, decide_eq_true hs]
  refine State.judge_first (c := (true, bSTATE)) ht rfl fun x hx hx1 => ?_
  simp only [List.mem_cons, List.not_mem_nil, or_false] at hx
  rcases hx with rfl | rfl
  · exact absurd hx1 (by decide)
  · decide

theorem State.laneCfgGo_tests (hv : getBits val 0 1 = 1) (hp : getBits val 1 2 ≠ 0) (hu : s.ln n = lnUP)
    (ha : (s.lane n).await = none) : s.laneCfgGo n val true true =
      (s.take .lane (LANE.page n) 0x40 val).sendPrbs n ((s.take .lane (LANE.page n) 0x40 val).prbsReq n) := by
  obtain ⟨w, hw⟩ := s.take_laneCfg n val
  have hln : (s.setReg (LANE.CFG n) w).ln n = lnUP :=
    (State.get_congr _ (s.reg_setReg_of_ne w (by simp only [LANE.CFG]; omega))).trans hu
  have hgo : ((s.setReg (LANE.CFG n) w).ln n == lnUP && ((s.setReg (LANE.CFG n) w).lane n).await.isNone) = true := by
    rw [hln, State.lane_setReg, ha]; rfl
  rw [State.laneCfgGo, hv, beq_eq_false_iff_ne.2 hp]
  rw [State.iff_false rfl, hw]
  exact if_pos hgo

/-- The request of a test asks for what the write put into CFG, from the fourth boundary on. -/
theorem State.sendPrbs_leaves (s : State) (n v : Nat) : ∃ a, ((s.sendPrbs n v).lane n).await = some a ∧ a.eff = s.pidx + 4 ∧
    a.recs = [(0x20, v)] ∧ ((s.sendPrbs n v).lane n).prbsAt = some (s.pidx + 4) := by
  obtain ⟨ls, fr, hl⟩ := (s.modLane n (fun l => { l with prbsWant := false, prbsAt := some (s.pidx + 4) })).lane_cfgSend n 3
    (s.pidx + 4) [(0x20, v)]
  rw [State.lane_modLane_self] at hl
  exact ⟨_, by rw [State.sendPrbs, hl], rfl, rfl, by rw [State.sendPrbs, hl]⟩

theorem State.prbsReq_take (s : State) (n : Nat) (val : Word) :
    (s.take .lane (LANE.page n) 0x40 val).prbsReq n = getBits val 1 2 + 65536 * getBits val 16 16 := by
  rw [State.prbsReq, s.get_take_laneCfg val rfl (by show 1 + 2 ≤ 32; decide) (by show ∀ i, i < 2 → Nat.testBit 0xFFFF003F (1 + i) = true; decide),
    s.get_take_laneCfg val rfl (by show 16 + 16 ≤ 32; decide) (by show ∀ i, i < 16 → Nat.testBit 0xFFFF003F (16 + i) = true; decide)]

end prbs

/-! ### SSC (R180) -/

/-- A lane that is trained and whose peer does not track SSC goes DOWN. -/
def State.sscFall (s : State) (n : Nat) : State :=
  if s.ln n ∈ [lnMEASURE, lnKEY, lnCONFIG, lnUP] && !(s.capc n).testBit 1 then s.lnDown n dcSSC else s

theorem State.sscFall_frame {n : Nat} (hn : n < 48) (s : State) : LaneFrame n s (s.sscFall n) :=
  ite_keeps (P := LaneFrame n s) (s.lnDown_frame hn dcSSC) (.refl n s)

theorem State.sscFall_down {s : State} {n : Nat} (hn : n < 48) (hs : s.ln n ∈ [lnMEASURE, lnKEY, lnCONFIG, lnUP])
    (hc : (s.capc n).testBit 1 = false) : (s.sscFall n).ln n = lnDOWN ∧ (s.sscFall n).get (LANE.STAT_DCAUSE n) = dcSSC := by
  have h0 : s.ln n ≠ lnOFF := fun h => absurd hs (by rw [h]; decide)
  have h7 : s.ln n ≠ lnDOWN := fun h => absurd hs (by rw [h]; decide)
  rw [State.sscFall, if_pos (by rw [decide_eq_true hs, hc]; rfl)]
  exact ⟨State.lnDown_ln hn h0 h7, State.lnDown_cause hn h0 h7 (by decide)⟩

theorem State.sscFall_stays {s : State} {n : Nat}
    (h : s.ln n ∉ [lnMEASURE, lnKEY, lnCONFIG, lnUP] ∨ (s.capc n).testBit 1 = true) : s.sscFall n = s := by
  refine if_neg ?_
  rcases h with h | h <;> simp [h]

/-- From `s` to `t` lane `n` has the state, the cause of DOWN and the common capabilities it had. -/
structure State.sscKept (n : Nat) (s t : State) : Prop where
  ln : t.ln n = s.ln n
  cause : t.get (LANE.STAT_DCAUSE n) = s.get (LANE.STAT_DCAUSE n)
  capc : t.capc n = s.capc n

theorem State.LaneFrame.sscKept {m n : Nat} {s t : State} (h : LaneFrame m s t) (hm : n ≠ m) : State.sscKept n s t :=
  ⟨h.ln hm, h.get _ (lnQuiet_other (m := n) (o := 0x4C) (by simp only [LANE.page]; omega) (by decide) hm), h.capc hm⟩

section ssc
variable {n : Nat}

theorem State.each_sscFall_kept {l : List Nat} (hl : ∀ m ∈ l, m < 48) (hn : n ∉ l) (s : State) :
    State.sscKept n s (s.each l State.sscFall) :=
  List.foldlRecOn l _ (motive := State.sscKept n s) ⟨rfl, rfl, rfl⟩ fun t ht m hm => by
    obtain ⟨hln, hcause, hcapc⟩ := (t.sscFall_frame (hl m hm)).sscKept (ne_of_mem_of_not_mem hm hn).symm
    exact ⟨hln.trans ht.ln, hcause.trans ht.cause, hcapc.trans ht.capc⟩

/-- What SSC does to a lane is a matter of that lane alone. -/
theorem State.each_sscFall_one (s : State) (hn : n < 48) : ∃ t, State.sscKept n s t ∧
    State.sscKept n (t.sscFall n) (s.each (List.range 48) State.sscFall) := by
  obtain ⟨before, after, hl, hbefore⟩ := List.eq_append_cons_of_mem (List.mem_range.2 hn)
  have hnodup : (before ++ n :: after).Nodup := hl ▸ List.nodup_range
  have hlt : ∀ m ∈ before ++ n :: after, m < 48 := fun m hm => List.mem_range.1 (hl ▸ hm)
  have hafter : n ∉ after := (List.nodup_cons.1 (List.nodup_append.1 hnodup).2.1).1
  refine ⟨s.each before State.sscFall, State.each_sscFall_kept (fun m hm => hlt m (by simp [hm])) hbefore s, ?_⟩
  have hsplit : s.each (List.range 48) State.sscFall =
      ((s.each before State.sscFall).sscFall n).each after State.sscFall := by
    rw [hl, State.each, List.foldl_append]; rfl
  rw [hsplit]
  exact State.each_sscFall_kept (fun m hm => hlt m (by simp [hm])) hafter _

theorem State.get_each_sscFall {g : Fld} (h : g.addr = BLK.CFG) (s : State) :
    (s.each (List.range 48) State.sscFall).get g = s.get g :=
  List.foldlRecOn (List.range 48) _ (motive := fun (t : State) => t.get g = s.get g) rfl fun t ht _ hm =>
    ((t.sscFall_frame (List.mem_range.1 hm)).get g (lnQuiet_blk (.inl h))).trans ht

end ssc

/-- The row of BLK's CFG: SSC, VMAX and VMIN are locked by LOCK. -/
def blkCfgRow : RegRow := ⟨0x40, 1, 0, 0x0, 0xFFFF01, 0x0, 0x0, 0x0, 0x0, 0x132100⟩

theorem rowAt_blkCfg : rowAt .blk 0x40 = some (blkCfgRow, 0) := by decide

section blkCfg
variable {s : State} {val : Word}

theorem State.get_take_ssc (hl : s.locked BLK.page = false) (hv : getBits val 0 1 = 1) :
    (s.take .blk BLK.page 0x40 val).get BLK.CFG_SSC = 1 := by
  refine (State.get_take_open rowAt_blkCfg (by decide) rfl (by show 0 + 1 ≤ 32; decide) fun i hi => ?_).trans hv
  rw [hl, Nat.lt_one_iff.1 hi]
  decide

/-- A write of CFG is no matter of the lanes. -/
theorem State.take_blkCfg_kept (hl : s.locked BLK.page = false) (n : Nat) :
    State.sscKept n s (s.take .blk BLK.page 0x40 val) := by
  have hget : ∀ g : Fld, g.addr ≠ BLK.page + 0x40 → (s.take .blk BLK.page 0x40 val).get g = s.get g := fun g hg => by
    rw [State.take_unlocked rowAt_blkCfg hl]
    exact State.get_congr g (s.reg_setReg_of_ne _ hg)
  refine ⟨hget _ (by simp only [BLK.page]; omega), hget _ (by simp only [BLK.page]; omega), ?_⟩
  rw [State.capc, State.capc, hget _ (by simp only [BLK.page]; omega), hget (LANE.STAT_VER n) (by simp only [BLK.page]; omega),
    hget BLK.MCAP_CAP (by decide)]

/-- A write that sets SSC (R180, R182). -/
theorem State.blkCfgWrite_sets (ht : s.takes BLK.page) (hm : getBits val 8 8 ∈ [0x13, 0x20, 0x21]) (h0 : s.get BLK.CFG_SSC = 0)
    (hl : s.locked BLK.page = false) (hv : getBits val 0 1 = 1) :
    s.blkCfgWrite val = (s.take .blk BLK.page 0x40 val).each (List.range 48) State.sscFall := by
  have hon : (s.take .blk BLK.page 0x40 val).on BLK.CFG_SSC = true := State.on_of_get_one (State.get_take_ssc hl hv)
  rw [State.blkCfgWrite]
  refine (State.judge_takes ht fun x hx => ?_).trans (if_pos (by rw [State.on_of_get_zero h0, hon]; rfl))
  obtain rfl := List.mem_singleton.1 hx
  simp [hm]

end blkCfg

/-! ### The commands -/

section commands
variable {n : Fin 48} {v : Word} {s : State}

theorem execTmarkSend_next (hs : s.ln n.val ∈ [lnKEY, lnCONFIG, lnUP]) : ∃ t, execTmarkSend n s = .next t ∧
    (t.lane n.val).tmark = some ((s.pidx + 1) % 256,
      codeOf 24 (s.nextBnd - ((s.now : Int) - s.epochAt) / (tFine : Int) - (s.get (LANE.DLY_D n.val) : Int))) ∧ t.regs = s.regs := by
  unfold execTmarkSend
  rw [if_pos hs]
  exact ⟨_, rfl, by rw [State.lane_modLane_self], rfl⟩

theorem execDtCfgSend_next (hs : s.ln n.val = lnUP) (ha : (s.lane n.val).await = none) (h0 : s.dtDue n.val ≠ 0)
    (h8 : s.dtDue n.val < 8) (hf : (s.lane n.val).freed < s.pidx) :
    ∃ t a, execDtCfgSend n s = .next t ∧ (t.lane n.val).await = some a ∧ a.kind = 1 ∧ a.eff = s.pidx + 3 ∧
      a.recs = s.dtRecs n.val (s.dtDue n.val) ∧ t.dtDue n.val = 0 := by
  obtain ⟨ls, fr, hl⟩ := (s.modLane n.val (fun l => l.dtSent (s.dtDue n.val) s.pidx)).lane_cfgSend n.val 1 (s.pidx + 3)
    (s.dtRecs n.val (s.dtDue n.val))
  rw [State.lane_modLane_self, ← State.sendDt_eq] at hl
  have hgo : (s.ln n.val == lnUP && (s.lane n.val).await.isNone && s.dtDue n.val != 0 &&
      decide ((s.lane n.val).freed < s.pidx)) = true := by simp [hs, ha, h0, hf]
  have hrun : execDtCfgSend n s = .next (s.sendDt n.val (s.dtDue n.val) false) := by rw [execDtCfgSend, hgo, if_pos rfl]
  have hpidx : (s.sendDt n.val (s.dtDue n.val) false).pidx = s.pidx := by
    rw [State.sendDt_eq, State.cfgSend_pidx, State.modLane_pidx]
  generalize s.sendDt n.val (s.dtDue n.val) false = t at *
  have hat : (t.lane n.val).dtAt = (s.lane n.val).dtAt := by rw [hl, Lane.dtSent]
  exact ⟨t, _, hrun, congrArg Lane.await hl, rfl, rfl, rfl, State.dtDue_sent h8 hpidx hat (by rw [hl]) (by rw [hl])⟩

theorem execPrbsStart_next (ht : s.takes (LANE.page n.val)) (hc : getBits v 3 3 < 5) (hv : getBits v 0 1 = 1)
    (hen : s.get (LANE.CFG_EN n.val) = 1) (hp : getBits v 1 2 ≠ 0) (hask : s.prbsAsked n.val v = true)
    (hcst : s.cst n.val ∉ [ckACTIVE, ckCHARGING, ckSPARE]) (hu : s.ln n.val = lnUP) (ha : (s.lane n.val).await = none) :
    ∃ t a, execPrbsStart n v s = .next t ∧ (t.lane n.val).await = some a ∧ a.eff = s.pidx + 4 ∧
      a.recs = [(0x20, getBits v 1 2 + 65536 * getBits v 16 16)] ∧ (t.lane n.val).prbsAt = some (s.pidx + 4) := by
  generalize hw : s.take .lane (LANE.page n.val) 0x40 v = u
  have hpidx : u.pidx = s.pidx := by
    obtain ⟨w, hset⟩ := s.take_laneCfg n.val v
    rw [← hw, hset]; rfl
  have hrun : s.laneCfgWrite n.val v = u.sendPrbs n.val (u.prbsReq n.val) := by
    rw [State.laneCfgWrite_run ht hc fun _ => hcst, State.on_of_get_one hen, hask, State.laneCfgGo_tests hv hp hu ha, hw]
  obtain ⟨a, hawait, heff, hrecs, hat⟩ := u.sendPrbs_leaves n.val (u.prbsReq n.val)
  rw [hpidx] at heff hat
  refine ⟨_, a, next_congr hrun, hawait, heff, hrecs.trans ?_, hat⟩
  rw [← hw, State.prbsReq_take]

theorem execSscSet_next (ht : s.takes BLK.page) (hm : getBits v 8 8 ∈ [0x13, 0x20, 0x21]) (h0 : s.get BLK.CFG_SSC = 0)
    (hl : s.locked BLK.page = false) : ∃ t, execSscSet v s = .next t ∧ t.get BLK.CFG_SSC = 1 ∧ ∀ n, n < 48 →
      (s.ln n ∈ [lnMEASURE, lnKEY, lnCONFIG, lnUP] → (s.capc n).testBit 1 = false →
        t.ln n = lnDOWN ∧ t.get (LANE.STAT_DCAUSE n) = dcSSC) ∧
      ((s.ln n ∉ [lnMEASURE, lnKEY, lnCONFIG, lnUP] ∨ (s.capc n).testBit 1 = true) → t.ln n = s.ln n) := by
  have hv : getBits (v ||| 1) 0 1 = 1 := by rw [getBits_one, BitVec.getLsbD_or]; simp
  refine ⟨_, next_congr (State.blkCfgWrite_sets ht (by rwa [getBits_or_one v 8 8 (by decide)]) h0 hl hv), ?_, fun n hn => ?_⟩
  · rw [State.get_each_sscFall rfl, State.get_take_ssc hl hv]
  obtain ⟨hln, _, hcapc⟩ := State.take_blkCfg_kept (val := v ||| 1) hl n
  obtain ⟨u, ⟨huln, _, hucapc⟩, htln, htcause, _⟩ := State.each_sscFall_one (s.take .blk BLK.page 0x40 (v ||| 1)) hn
  rw [htln, htcause, ← hln, ← hcapc, ← huln, ← hucapc]
  exact ⟨fun hs hc => State.sscFall_down hn hs hc, fun h => by rw [State.sscFall_stays h]⟩

end commands

/-- Settles O29: the measurement of a lane's delay by its replies and the requests between them, and a lane's services by what
each sends or refuses. -/
theorem laneDelayAndServices : Obligations.LaneDelayAndServices := by
  unfold Obligations.LaneDelayAndServices
  refine ⟨⟨fun n eid turn rtt e at_ s hs ho h => ?_, fun n turn rtt e at_ s hs hk ho he hr hl hq => ?_,
      fun n turn rtt e at_ s hs hk ho he hr hl ha ht hev hd => ?_, fun n e at_ s hs ho hq => ?_⟩,
    fun n s hs => ?_, fun n s hs ha h0 h8 hf => ?_, fun n s => ⟨fun h => ⟨?_, fun p => ?_⟩, fun h => ⟨?_, fun i hi => ?_⟩⟩,
    fun n v s ht => ⟨fun hlow hp => ?_, fun hp => ⟨fun ha => ?_, fun ha hu => ?_, fun ha hu => ?_⟩⟩,
    fun n v s ht hc hv hen hp hask => ⟨fun hs => ?_, fun hcst hu ha => ?_⟩, fun v s ht hm h0 hl => ?_⟩
  · exact next_congr (State.echoReply_ignored hs ho h)
  · exact execEchoReplyRx_next hs hk ho he hr hl hq
  · exact execEchoReplyRx_settles hs hk ho he hr hl ha ht hev hd
  · exact execEchoTimeout_next hs ho hq
  · exact execTmarkSend_next hs
  · exact execDtCfgSend_next hs ha h0 h8 hf
  · exact State.dtDue_after h
  · exact State.dtBefore_after h p
  · exact State.dtDue_within h
  · exact State.dtBefore_within h hi
  · refine next_congr (State.creqWrite_refused (c := (true, bPID_OWNED)) (by simp) ht ?_)
    rw [getBits_or_go]
    simp [State.creqConds, hlow, hp]
  · refine next_congr (State.creqWrite_refused (c := (true, bCFG_BUSY)) (by simp) ht ?_)
    rw [getBits_or_go]
    rcases hp with hp | hp <;> simp [State.creqConds, hp, ha]
  · refine next_congr (State.creqWrite_refused (c := (true, bNO_SESSION)) (by simp) ht ?_)
    rw [getBits_or_go]
    rcases hp with hp | hp <;> simp [State.creqConds, hp, ha, hu]
  · obtain ⟨a, hawait, hkind, heff, hrecs, hbusy⟩ := s.creqSend_leaves n.val (v ||| 0x10000)
    rw [getBits_or_go] at hrecs
    exact ⟨_, a, next_congr (State.creqWrite_sends (by simp) ht (by rwa [getBits_or_go]) ha hu), hawait, hkind, heff, hrecs, hbusy⟩
  · exact next_congr (State.laneCfgWrite_state ht hc (by simp [State.prbsAsked, hp, hask]) hs)
  · exact execPrbsStart_next ht hc hv hen hp (by simp [State.prbsAsked, hp, hask]) hcst hu ha
  · exact execSscSet_next ht hm h0 hl

end Sys2Proof.Machine
end

section
/-! The words of the loop engines' instructions (R191, R200, R201): a word in each format from its fields, and its fields from
the word. -/

namespace Sys2Proof.Machine

theorem keepIf_eq_some {b : Bool} {i j : Instr} : keepIf b i = some j ↔ b = true ∧ i = j := by
  cases b <;> simp [keepIf]

/-! ### A word from its fields (R200) -/

/-- A flag of one bit, written back. -/
theorem flagN_beq_one {k : Nat} (h : k ≤ 1) : flagN (k == 1) = k := by interval_cases k <;> rfl

/-- The two flags of HANDOVER, written back. -/
theorem flagN_two {k : Nat} (h : k ≤ 3) : flagN (k % 2 == 1) + 2 * flagN (decide (2 ≤ k)) = k := by interval_cases k <;> rfl

section words
variable {w : Word} {op : Nat} (hop : w.toNat / 67108864 = op)

/-- The word of a number is the word it is the number of. -/
theorem ofNat_toNat_of_eq {k : Nat} (h : k = w.toNat) : BitVec.ofNat 32 k = w := by
  rw [h, BitVec.ofNat_toNat, BitVec.setWidth_eq]

include hop

theorem fmtR_of_fields {t : Nat} (h : w.toNat % 512 = 0) (ht : t = fT w.toNat) :
    fmtR op (fVD w.toNat) (fVA w.toNat) (fVB w.toNat) t = w :=
  ofNat_toNat_of_eq (by rw [ht]; simp only [fVD, fVA, fVB, fT, Fin.ofNat]; omega)

theorem fmtR_of_rOk (h : rOk w.toNat = true) : fmtR op (fVD w.toNat) (fVA w.toNat) (fVB w.toNat) (fT3 w.toNat) = w := by
  simp only [rOk, Bool.and_eq_true, beq_iff_eq, bne_iff_ne] at h
  exact fmtR_of_fields hop h.1 (by simp only [fT3, fT, Fin.ofNat] at *; omega)

theorem fmtR_of_rOkI (h : rOkI w.toNat = true) : fmtR op (fVD w.toNat) (fVA w.toNat) (fVB w.toNat) 2 = w := by
  simp only [rOkI, Bool.and_eq_true, beq_iff_eq] at h
  exact fmtR_of_fields hop h.1 h.2.symm

/-- A word of format R without VB, in format `t`. -/
theorem fmtR_of_noVB {t : Nat} (h : w.toNat % 512 = 0) (hb : (fVB w.toNat).val = 0) (ht : t = fT w.toNat) :
    fmtR op (fVD w.toNat) (fVA w.toNat) 0 t = w := by
  rw [← hb]; exact fmtR_of_fields hop h ht

theorem fmtR_of_low (h : w.toNat % 65536 = 0) : fmtR op (fVD w.toNat) (fVA w.toNat) 0 0 = w :=
  ofNat_toNat_of_eq (by simp only [fVD, fVA, Fin.ofNat]; omega)

/-- The words of CVT, whose T has four values. -/
theorem fmtR_of_cvt (h : (w.toNat % 512 == 0 && (fVB w.toNat).val == 0) = true) :
    fmtR op (fVD w.toNat) (fVA w.toNat) 0 (Fin.ofNat 4 (fT w.toNat)) = w := by
  obtain ⟨h0, hb⟩ : w.toNat % 512 = 0 ∧ (fVB w.toNat).val = 0 := by simpa using h
  exact fmtR_of_noVB hop h0 hb (by simp only [fT, Fin.ofNat]; omega)

/-- The words of SQRT, which knows the formats 0 and 1. -/
theorem fmtR_of_sqrt (h : (rOk1 w.toNat && fT w.toNat != 2) = true) :
    fmtR op (fVD w.toNat) (fVA w.toNat) 0 (Fin.ofNat 2 (fT w.toNat)) = w := by
  obtain ⟨⟨⟨h0, h3⟩, hb⟩, h2⟩ : ((w.toNat % 512 = 0 ∧ fT w.toNat ≠ 3) ∧ (fVB w.toNat).val = 0) ∧ fT w.toNat ≠ 2 := by
    simpa [rOk1, rOk] using h
  exact fmtR_of_noVB hop h0 hb (by simp only [fT, Fin.ofNat] at *; omega)

theorem fmtR_of_rOk1 (h : rOk1 w.toNat = true) : fmtR op (fVD w.toNat) (fVA w.toNat) 0 (fT3 w.toNat) = w := by
  simp only [rOk1, Bool.and_eq_true, beq_iff_eq] at h
  rw [← h.2]; exact fmtR_of_rOk hop h.1

theorem fmtI_of_fields : fmtI op (fVD w.toNat) (fVA w.toNat) (fIMM w.toNat).toNat = w :=
  ofNat_toNat_of_eq (by simp only [fVD, fVA, fIMM, Fin.ofNat, BitVec.toNat_ofNat]; omega)

theorem fmtI_of_noVA (h : (fVA w.toNat).val = 0) : fmtI op (fVD w.toNat) 0 (fIMM w.toNat).toNat = w := by
  rw [← h]; exact fmtI_of_fields hop

theorem fmtS_of_sOk (h : sOk w.toNat = true) : fmtS op (fVD w.toNat) (fIDX w.toNat) = w :=
  ofNat_toNat_of_eq (by
    simp only [sOk, fVA, Bool.and_eq_true, beq_iff_eq, Fin.ofNat] at h
    simp only [fVD, fIDX, Fin.ofNat]; omega)

theorem fmtS_of_vd (h : w.toNat % 2097152 = 0) : fmtS op (fVD w.toNat) 0 = w :=
  ofNat_toNat_of_eq (by simp only [fVD, Fin.ofNat]; omega)

/-- A word of format S whose index is that of a binding. -/
theorem fmtS_of_binding (h : (sOk w.toNat && decide ((fIDX w.toNat).val < 16)) = true) :
    fmtS op (fVD w.toNat) (Fin.ofNat 16 (w.toNat / 1024)) = w := by
  obtain ⟨hs, hi⟩ : sOk w.toNat = true ∧ (fIDX w.toNat).val < 16 := by simpa using h
  have he : (Fin.ofNat 16 (w.toNat / 1024)).val = (fIDX w.toNat).val := by simp only [fIDX, Fin.ofNat] at *; omega
  rw [he]; exact fmtS_of_sOk hop hs

theorem fmtP_of_fields {f : Nat} (h : f = fF w.toNat) :
    fmtP op (fVD w.toNat) (fVA w.toNat) (fIDX w.toNat) (fC w.toNat) f = w :=
  ofNat_toNat_of_eq (by rw [h]; simp only [fVD, fVA, fIDX, fC, fF, Fin.ofNat]; omega)

/-- A word of format P without state words. -/
theorem fmtP_of_noS {f : Nat} (h : f = fF w.toNat) (hs : (fIDX w.toNat).val = 0) :
    fmtP op (fVD w.toNat) (fVA w.toNat) 0 (fC w.toNat) f = w := by
  rw [← hs]; exact fmtP_of_fields hop h

/-- A word of format P with registers only. -/
theorem fmtP_of_regs {f : Nat} (h : w.toNat % 65536 = f) (hf : f < 16) : fmtP op (fVD w.toNat) (fVA w.toNat) 0 0 f = w :=
  ofNat_toNat_of_eq (by simp only [fVD, fVA, Fin.ofNat]; omega)

theorem fmtP_of_clarke (h : (w.toNat / 16 % 4096 == 0 && decide (fF w.toNat ≤ 1)) = true) :
    fmtP op (fVD w.toNat) (fVA w.toNat) 0 0 (flagN (fF w.toNat == 1)) = w := by
  obtain ⟨h0, hf⟩ : w.toNat / 16 % 4096 = 0 ∧ fF w.toNat ≤ 1 := by simpa using h
  rw [flagN_beq_one hf]
  exact fmtP_of_regs hop (by simp only [fF]; omega) (by omega)

theorem fmtP_of_lim (h : (decide (fF w.toNat ≤ 1) && (fIDX w.toNat).val == 0) = true) :
    fmtP op (fVD w.toNat) (fVA w.toNat) 0 (fC w.toNat) (flagN (fF w.toNat == 1)) = w := by
  obtain ⟨hf, hs⟩ : fF w.toNat ≤ 1 ∧ (fIDX w.toNat).val = 0 := by simpa using h
  exact fmtP_of_noS hop (flagN_beq_one hf) hs

theorem fmtP_of_tlu (h : (fF w.toNat == 0 && (fIDX w.toNat).val == 0) = true) :
    fmtP op (fVD w.toNat) (fVA w.toNat) 0 (fC w.toNat) 0 = w := by
  obtain ⟨hf, hs⟩ : fF w.toNat = 0 ∧ (fIDX w.toNat).val = 0 := by simpa using h
  exact fmtP_of_noS hop hf.symm hs

/-- The words of SAT, whose format stands in the flags. -/
theorem fmtP_of_sat (h : (decide (fF w.toNat < 3) && (fIDX w.toNat).val == 0) = true) :
    fmtP op (fVD w.toNat) (fVA w.toNat) 0 (fC w.toNat) (Fin.ofNat 3 (fF w.toNat)) = w := by
  obtain ⟨hf, hs⟩ : fF w.toNat < 3 ∧ (fIDX w.toNat).val = 0 := by simpa using h
  exact fmtP_of_noS hop (Nat.mod_eq_of_lt hf) hs

theorem fmtB_of_bOk (h : bOk w.toNat = true) : fmtB op 0 0 0 0 (fOFF w.toNat) = w :=
  ofNat_toNat_of_eq (by
    simp only [bOk, beq_iff_eq] at h
    simp only [fOFF, Fin.ofNat]; omega)

theorem fmtB_of_fields (h : (decide (w.toNat / 8192 % 8 < 6) && w.toNat / 2048 % 4 != 3 && w.toNat % 2048 != 0) = true) :
    fmtB op (fVD w.toNat) (fVA w.toNat) (Fin.ofNat 6 (w.toNat / 8192 % 8)) (Fin.ofNat 3 (w.toNat / 2048 % 4))
      (fOFF w.toNat) = w := by
  obtain ⟨⟨hc, ht⟩, -⟩ : (w.toNat / 8192 % 8 < 6 ∧ w.toNat / 2048 % 4 ≠ 3) ∧ w.toNat % 2048 ≠ 0 := by simpa using h
  exact ofNat_toNat_of_eq (by simp only [fVD, fVA, fOFF, Fin.ofNat]; omega)

theorem fmtL_of_fields (h : (w.toNat % 64 == 0 && w.toNat / 65536 % 1024 != 0 && w.toNat / 64 % 1024 != 0) = true) :
    fmtL op (Fin.ofNat 1024 (w.toNat / 65536)) (Fin.ofNat 1024 (w.toNat / 64)) = w := by
  obtain ⟨⟨h0, -⟩, -⟩ : (w.toNat % 64 = 0 ∧ w.toNat / 65536 % 1024 ≠ 0) ∧ w.toNat / 64 % 1024 ≠ 0 := by simpa using h
  exact ofNat_toNat_of_eq (by simp only [Fin.ofNat]; omega)

end words

theorem leEncode_of_keepIf {b : Bool} {i j : Instr} {w : Word} (h : keepIf b i = some j)
    (hi : b = true → leEncode i = some w) : leEncode j = some w := by
  obtain ⟨hb, rfl⟩ := keepIf_eq_some.1 h
  exact hi hb

/-- A word that decodes is the word of the instruction it decodes to: the conditions on its reserved fields leave it no
other bits. -/
theorem leEncode_of_leDecode {e : Fin 16} {w : Word} {i : Instr} (h : leDecode e w = some i) : leEncode i = some w := by
  unfold leDecode at h
  dsimp only at h
  split at h
  next hop => exact leEncode_of_keepIf h fun hc => congrArg some (ofNat_toNat_of_eq (beq_iff_eq.1 hc).symm)
  next hop => exact leEncode_of_keepIf h fun hc => congrArg some (ofNat_toNat_of_eq (by have := beq_iff_eq.1 hc; omega))
  next hop => exact leEncode_of_keepIf h fun hc => congrArg some (fmtI_of_noVA hop (beq_iff_eq.1 hc))
  next hop => exact leEncode_of_keepIf h fun hc => congrArg some (fmtI_of_noVA hop (beq_iff_eq.1 hc))
  next hop => exact leEncode_of_keepIf h fun hc => congrArg some (fmtR_of_low hop (beq_iff_eq.1 hc))
  next hop => exact leEncode_of_keepIf h fun hc => congrArg some (fmtR_of_cvt hop hc)
  next hop => exact leEncode_of_keepIf h fun hc => congrArg some (fmtR_of_rOk hop hc)
  next hop => exact leEncode_of_keepIf h fun hc => congrArg some (fmtR_of_rOk hop hc)
  next hop => exact leEncode_of_keepIf h fun hc => congrArg some (fmtR_of_rOk hop hc)
  next hop => exact leEncode_of_keepIf h fun hc => congrArg some (fmtR_of_rOk hop hc)
  next hop => exact leEncode_of_keepIf h fun hc => congrArg some (fmtR_of_rOk hop hc)
  next hop => exact leEncode_of_keepIf h fun hc => congrArg some (fmtR_of_sqrt hop hc)
  next hop => exact leEncode_of_keepIf h fun hc => congrArg some (fmtR_of_rOk1 hop hc)
  next hop => exact leEncode_of_keepIf h fun hc => congrArg some (fmtR_of_rOk1 hop hc)
  next hop => exact leEncode_of_keepIf h fun hc => congrArg some (fmtR_of_rOk hop hc)
  next hop => exact leEncode_of_keepIf h fun hc => congrArg some (fmtR_of_rOk hop hc)
  next hop => cases h; exact congrArg some (fmtI_of_fields hop)
  next hop => exact leEncode_of_keepIf h fun hc => congrArg some (fmtR_of_rOkI hop hc)
  next hop => exact leEncode_of_keepIf h fun hc => congrArg some (fmtR_of_rOkI hop hc)
  next hop => exact leEncode_of_keepIf h fun hc => congrArg some (fmtR_of_rOkI hop hc)
  next hop => exact leEncode_of_keepIf h fun _ => congrArg some (fmtI_of_fields hop)
  next hop => exact leEncode_of_keepIf h fun hc => congrArg some (fmtS_of_sOk hop hc)
  next hop => exact leEncode_of_keepIf h fun hc => congrArg some (fmtS_of_sOk hop hc)
  next hop => exact leEncode_of_keepIf h fun hc => congrArg some (fmtS_of_sOk hop hc)
  next hop => cases h; exact congrArg some (fmtI_of_fields hop)
  next hop => cases h; exact congrArg some (fmtI_of_fields hop)
  next hop => exact leEncode_of_keepIf h fun hc => congrArg some (fmtS_of_binding hop hc)
  next hop => exact leEncode_of_keepIf h fun hc => congrArg some (fmtS_of_binding hop hc)
  next hop => exact leEncode_of_keepIf h fun hc => congrArg some (fmtS_of_vd hop (beq_iff_eq.1 hc))
  next hop => exact leEncode_of_keepIf h fun hc => congrArg some (fmtB_of_bOk hop (Bool.and_eq_true_iff.1 hc).1)
  next hop => exact leEncode_of_keepIf h fun hc => congrArg some (fmtB_of_fields hop hc)
  next hop => exact leEncode_of_keepIf h fun hc => congrArg some (fmtB_of_bOk hop (Bool.and_eq_true_iff.1 hc).1)
  next hop => exact leEncode_of_keepIf h fun hc => congrArg some (fmtL_of_fields hop hc)
  next hop => exact leEncode_of_keepIf h fun hc => congrArg some (fmtP_of_fields hop (flagN_beq_one (of_decide_eq_true hc)))
  next hop => exact leEncode_of_keepIf h fun hc => congrArg some (fmtP_of_fields hop (flagN_beq_one (of_decide_eq_true hc)))
  next hop => exact leEncode_of_keepIf h fun hc => congrArg some (fmtP_of_fields hop (beq_iff_eq.1 hc).symm)
  next hop => exact leEncode_of_keepIf h fun hc => congrArg some (fmtP_of_fields hop (beq_iff_eq.1 hc).symm)
  next hop => exact leEncode_of_keepIf h fun hc => congrArg some (fmtP_of_lim hop hc)
  next hop => exact leEncode_of_keepIf h fun hc => congrArg some (fmtP_of_sat hop hc)
  next hop => exact leEncode_of_keepIf h fun hc => congrArg some (fmtP_of_fields hop (beq_iff_eq.1 hc).symm)
  next hop => exact leEncode_of_keepIf h fun hc => congrArg some (fmtP_of_tlu hop hc)
  next hop => exact leEncode_of_keepIf h fun hc => congrArg some (fmtP_of_clarke hop hc)
  next hop => exact leEncode_of_keepIf h fun hc => congrArg some (fmtP_of_regs hop (beq_iff_eq.1 hc) (by decide))
  next hop => exact leEncode_of_keepIf h fun hc => congrArg some (fmtP_of_regs hop (beq_iff_eq.1 hc) (by decide))
  next hop => exact leEncode_of_keepIf h fun hc => congrArg some (fmtP_of_regs hop (beq_iff_eq.1 hc) (by decide))
  next hop => exact leEncode_of_keepIf h fun hc => congrArg some (fmtP_of_fields hop (beq_iff_eq.1 hc).symm)
  next hop => exact leEncode_of_keepIf h fun hc => congrArg some (fmtP_of_fields hop (flagN_two (of_decide_eq_true hc)))
  next => cases h

/-! ### Fields from a word (R200) -/

@[simp] theorem keepIf_true (i : Instr) : keepIf true i = some i := rfl

section fields
variable {op : Nat} (hop : op < 64) (vd va vb : Fin 32) (sb cb : Fin 64)
include hop

theorem toNat_fmtR {b t : Nat} (hb : b < 32) (ht : t < 4) :
    (fmtR op vd va b t).toNat = op * 67108864 + vd * 2097152 + va * 65536 + b * 2048 + t * 512 := by
  simp only [fmtR, BitVec.toNat_ofNat]; omega

theorem fields_fmtR (t : Fin 3) : (fmtR op vd va vb t).toNat / 67108864 = op ∧ fVD (fmtR op vd va vb t).toNat = vd ∧
    fVA (fmtR op vd va vb t).toNat = va ∧ fVB (fmtR op vd va vb t).toNat = vb ∧ fT3 (fmtR op vd va vb t).toNat = t ∧
    rOk (fmtR op vd va vb t).toNat = true := by
  simp only [toNat_fmtR hop vd va vb.isLt (by omega : t.val < 4), fVD, fVA, fVB, fT3, fT, rOk, Fin.ext_iff, Fin.ofNat,
    Bool.and_eq_true, beq_iff_eq, bne_iff_ne]
  omega

theorem fields_fmtR_one (t : Fin 3) : (fmtR op vd va 0 t).toNat / 67108864 = op ∧ fVD (fmtR op vd va 0 t).toNat = vd ∧
    fVA (fmtR op vd va 0 t).toNat = va ∧ fT3 (fmtR op vd va 0 t).toNat = t ∧ rOk1 (fmtR op vd va 0 t).toNat = true := by
  obtain ⟨ho, hd, ha, hb, ht, hok⟩ := fields_fmtR hop vd va 0 t
  exact ⟨ho, hd, ha, ht, Bool.and_eq_true_iff.2 ⟨hok, beq_iff_eq.2 (congrArg Fin.val hb)⟩⟩

theorem fields_fmtR_int : (fmtR op vd va vb 2).toNat / 67108864 = op ∧ fVD (fmtR op vd va vb 2).toNat = vd ∧
    fVA (fmtR op vd va vb 2).toNat = va ∧ fVB (fmtR op vd va vb 2).toNat = vb ∧ rOkI (fmtR op vd va vb 2).toNat = true := by
  simp only [toNat_fmtR hop vd va vb.isLt (by decide : 2 < 4), fVD, fVA, fVB, fT, rOkI, Fin.ext_iff, Fin.ofNat,
    Bool.and_eq_true, beq_iff_eq]
  omega

/-- The words without VB, whatever values T takes. -/
theorem fields_fmtR_noVB {t : Nat} (ht : t < 4) : (fmtR op vd va 0 t).toNat / 67108864 = op ∧
    fVD (fmtR op vd va 0 t).toNat = vd ∧ fVA (fmtR op vd va 0 t).toNat = va ∧ (fVB (fmtR op vd va 0 t).toNat).val = 0 ∧
    fT (fmtR op vd va 0 t).toNat = t ∧ (fmtR op vd va 0 t).toNat % 512 = 0 := by
  simp only [toNat_fmtR hop vd va (by decide : 0 < 32) ht, fVD, fVA, fVB, fT, Fin.ext_iff, Fin.ofNat]
  omega

theorem fields_fmtR_low : (fmtR op vd va 0 0).toNat / 67108864 = op ∧ fVD (fmtR op vd va 0 0).toNat = vd ∧
    fVA (fmtR op vd va 0 0).toNat = va ∧ (fmtR op vd va 0 0).toNat % 65536 = 0 := by
  simp only [toNat_fmtR hop vd va (by decide : 0 < 32) (by decide : 0 < 4), fVD, fVA, Fin.ext_iff, Fin.ofNat]
  omega

theorem fields_fmtI (imm : BitVec 16) : (fmtI op vd va imm.toNat).toNat / 67108864 = op ∧
    fVD (fmtI op vd va imm.toNat).toNat = vd ∧ fVA (fmtI op vd va imm.toNat).toNat = va ∧
    fIMM (fmtI op vd va imm.toNat).toNat = imm ∧ (fmtI op vd va imm.toNat).toNat % 65536 = imm.toNat := by
  have hn : (fmtI op vd va imm.toNat).toNat = op * 67108864 + vd * 2097152 + va * 65536 + imm.toNat := by
    simp only [fmtI, BitVec.toNat_ofNat]; omega
  simp only [hn, fVD, fVA, fIMM, Fin.ext_iff, Fin.ofNat, ← BitVec.toNat_inj, BitVec.toNat_ofNat]
  omega

theorem fields_fmtI_noVA (imm : BitVec 16) : (fmtI op vd 0 imm.toNat).toNat / 67108864 = op ∧
    fVD (fmtI op vd 0 imm.toNat).toNat = vd ∧ (fVA (fmtI op vd 0 imm.toNat).toNat).val = 0 ∧
    fIMM (fmtI op vd 0 imm.toNat).toNat = imm := by
  obtain ⟨ho, hd, ha, hi, -⟩ := fields_fmtI hop vd 0 imm
  exact ⟨ho, hd, congrArg Fin.val ha, hi⟩

theorem fields_fmtS {i : Nat} (hi : i < 64) : (fmtS op vd i).toNat / 67108864 = op ∧ fVD (fmtS op vd i).toNat = vd ∧
    (fmtS op vd i).toNat % 2097152 = i * 1024 ∧ sOk (fmtS op vd i).toNat = true := by
  have hn : (fmtS op vd i).toNat = op * 67108864 + vd * 2097152 + i * 1024 := by
    simp only [fmtS, BitVec.toNat_ofNat]; omega
  simp only [hn, fVD, fVA, sOk, Fin.ext_iff, Fin.ofNat, Bool.and_eq_true, beq_iff_eq]
  omega

theorem fields_fmtS_state : (fmtS op vd sb).toNat / 67108864 = op ∧ fVD (fmtS op vd sb).toNat = vd ∧
    fIDX (fmtS op vd sb).toNat = sb ∧ sOk (fmtS op vd sb).toNat = true := by
  obtain ⟨ho, hd, hi, hs⟩ := fields_fmtS hop vd sb.isLt
  exact ⟨ho, hd, Fin.ext (by simp only [fIDX, Fin.ofNat]; omega), hs⟩

theorem fields_fmtS_binding (i : Fin 16) : (fmtS op vd i).toNat / 67108864 = op ∧ fVD (fmtS op vd i).toNat = vd ∧
    Fin.ofNat 16 ((fmtS op vd i).toNat / 1024) = i ∧ sOk (fmtS op vd i).toNat = true ∧ (fIDX (fmtS op vd i).toNat).val < 16 := by
  obtain ⟨ho, hd, hi, hs⟩ := fields_fmtS hop vd (by omega : i.val < 64)
  exact ⟨ho, hd, Fin.ext (by simp only [Fin.ofNat]; omega), hs, by simp only [fIDX, Fin.ofNat]; omega⟩

theorem fields_fmtP {f : Nat} (hf : f < 16) : (fmtP op vd va sb cb f).toNat / 67108864 = op ∧
    fVD (fmtP op vd va sb cb f).toNat = vd ∧ fVA (fmtP op vd va sb cb f).toNat = va ∧ fIDX (fmtP op vd va sb cb f).toNat = sb ∧
    fC (fmtP op vd va sb cb f).toNat = cb ∧ fF (fmtP op vd va sb cb f).toNat = f := by
  have hn : (fmtP op vd va sb cb f).toNat = op * 67108864 + vd * 2097152 + va * 65536 + sb * 1024 + cb * 16 + f := by
    simp only [fmtP, BitVec.toNat_ofNat]; omega
  simp only [hn, fVD, fVA, fIDX, fC, fF, Fin.ext_iff, Fin.ofNat]
  omega

/-- The words without state words. -/
theorem fields_fmtP_noS {f : Nat} (hf : f < 16) : (fmtP op vd va 0 cb f).toNat / 67108864 = op ∧
    fVD (fmtP op vd va 0 cb f).toNat = vd ∧ fVA (fmtP op vd va 0 cb f).toNat = va ∧
    (fIDX (fmtP op vd va 0 cb f).toNat).val = 0 ∧ fC (fmtP op vd va 0 cb f).toNat = cb ∧ fF (fmtP op vd va 0 cb f).toNat = f := by
  obtain ⟨ho, hd, ha, hs, hc, h⟩ := fields_fmtP hop vd va 0 cb hf
  exact ⟨ho, hd, ha, congrArg Fin.val hs, hc, h⟩

/-- The words with registers only. -/
theorem fields_fmtP_regs {f : Nat} (hf : f < 16) : (fmtP op vd va 0 0 f).toNat / 67108864 = op ∧
    fVD (fmtP op vd va 0 0 f).toNat = vd ∧ fVA (fmtP op vd va 0 0 f).toNat = va ∧ (fmtP op vd va 0 0 f).toNat % 65536 = f := by
  have hn : (fmtP op vd va 0 0 f).toNat = op * 67108864 + vd * 2097152 + va * 65536 + 0 * 1024 + 0 * 16 + f := by
    simp only [fmtP, BitVec.toNat_ofNat]; omega
  simp only [hn, fVD, fVA, Fin.ext_iff, Fin.ofNat]
  omega

theorem fields_fmtP_flag {f : Nat} (hf : f < 16) : (fmtP op vd va 0 0 f).toNat / 67108864 = op ∧
    fVD (fmtP op vd va 0 0 f).toNat = vd ∧ fVA (fmtP op vd va 0 0 f).toNat = va ∧
    (fmtP op vd va 0 0 f).toNat / 16 % 4096 = 0 ∧ fF (fmtP op vd va 0 0 f).toNat = f := by
  obtain ⟨ho, hd, ha, h⟩ := fields_fmtP_regs hop vd va hf
  exact ⟨ho, hd, ha, by omega, by simp only [fF]; omega⟩

theorem fields_fmtB (c : Fin 6) (t : Fin 3) {off : Fin 2048} (h : off.val ≠ 0) : (fmtB op va vb c t off).toNat / 67108864 = op ∧
    fVD (fmtB op va vb c t off).toNat = va ∧ fVA (fmtB op va vb c t off).toNat = vb ∧ fOFF (fmtB op va vb c t off).toNat = off ∧
    (fmtB op va vb c t off).toNat / 8192 % 8 = c ∧ (fmtB op va vb c t off).toNat / 2048 % 4 = t ∧
    (fmtB op va vb c t off).toNat % 2048 ≠ 0 := by
  have hn : (fmtB op va vb c t off).toNat = op * 67108864 + va * 2097152 + vb * 65536 + c * 8192 + t * 2048 + off := by
    simp only [fmtB, BitVec.toNat_ofNat]; omega
  simp only [hn, fVD, fVA, fOFF, Fin.ext_iff, Fin.ofNat]
  omega

theorem fields_fmtB_off {off : Fin 2048} (h : off.val ≠ 0) : (fmtB op 0 0 0 0 off).toNat / 67108864 = op ∧
    fOFF (fmtB op 0 0 0 0 off).toNat = off ∧ bOk (fmtB op 0 0 0 0 off).toNat = true ∧ (fmtB op 0 0 0 0 off).toNat % 2048 ≠ 0 := by
  have hn : (fmtB op 0 0 0 0 off).toNat = op * 67108864 + 0 * 2097152 + 0 * 65536 + 0 * 8192 + 0 * 2048 + off := by
    simp only [fmtB, BitVec.toNat_ofNat]; omega
  simp only [hn, fOFF, bOk, Fin.ext_iff, Fin.ofNat, beq_iff_eq]
  omega

theorem fields_fmtL (n len : Fin 1024) : (fmtL op n len).toNat / 67108864 = op ∧ (fmtL op n len).toNat % 64 = 0 ∧
    Fin.ofNat 1024 ((fmtL op n len).toNat / 65536) = n ∧ Fin.ofNat 1024 ((fmtL op n len).toNat / 64) = len ∧
    (fmtL op n len).toNat / 65536 % 1024 = n ∧ (fmtL op n len).toNat / 64 % 1024 = len := by
  have hn : (fmtL op n len).toNat = op * 67108864 + n * 65536 + len * 64 := by
    simp only [fmtL, BitVec.toNat_ofNat]; omega
  simp only [hn, Fin.ext_iff, Fin.ofNat]
  omega

end fields

/-- An immediate in the range of SHA's counts, as the word's low half. -/
theorem shaImm_range {imm : BitVec 16} (h : -31 ≤ imm.toInt ∧ imm.toInt ≤ 31) : imm.toNat ≤ 31 ∨ 65505 ≤ imm.toNat := by
  rw [BitVec.toInt_eq_toNat_cond] at h
  split at h <;> omega

@[simp] theorem flagN_le (b : Bool) : decide (flagN b ≤ 1) = true := by cases b <;> rfl
@[simp] theorem flagN_beq (b : Bool) : (flagN b == 1) = b := by cases b <;> rfl
theorem flagN_lt (b : Bool) : flagN b < 16 := by cases b <;> decide
theorem flagN_two_lt (a b : Bool) : flagN a + 2 * flagN b < 16 := by cases a <;> cases b <;> decide
@[simp] theorem flagN_two_le (a b : Bool) : decide (flagN a + 2 * flagN b ≤ 3) = true := by cases a <;> cases b <;> rfl
@[simp] theorem flagN_two_low (a b : Bool) : ((flagN a + 2 * flagN b) % 2 == 1) = a := by cases a <;> cases b <;> rfl
@[simp] theorem flagN_two_high (a b : Bool) : decide (2 ≤ flagN a + 2 * flagN b) = b := by cases a <;> cases b <;> rfl

/-- A well-formed instruction decodes back from its word, an IN without its wait. -/
theorem leDecode_of_leEncode {i : Instr} {w : Word} (hwf : i.wf = true) (h : leEncode i = some w) : ∃ e, leDecode e w = some i ∨
    ∃ vd idx wait, i = .leIn e vd idx wait ∧ leDecode e w = some (.leIn e vd idx 0) := by
  unfold leEncode at h
  split at h
  next e => cases h; exact ⟨e, .inl rfl⟩
  next e => cases h; exact ⟨e, .inl rfl⟩
  next e vd imm =>
    obtain rfl := Option.some.inj h
    obtain ⟨hop, hvd, hva, himm⟩ := fields_fmtI_noVA (by decide : 2 < 64) vd imm
    exact ⟨e, .inl (by simp only [leDecode, hop, hvd, hva, himm, beq_self_eq_true, keepIf_true])⟩
  next e vd imm =>
    obtain rfl := Option.some.inj h
    obtain ⟨hop, hvd, hva, himm⟩ := fields_fmtI_noVA (by decide : 3 < 64) vd imm
    exact ⟨e, .inl (by simp only [leDecode, hop, hvd, hva, himm, beq_self_eq_true, keepIf_true])⟩
  next e vd va =>
    obtain rfl := Option.some.inj h
    obtain ⟨hop, hvd, hva, h0⟩ := fields_fmtR_low (by decide : 4 < 64) vd va
    exact ⟨e, .inl (by simp only [leDecode, hop, hvd, hva, h0, beq_self_eq_true, keepIf_true])⟩
  next e vd va t =>
    obtain rfl := Option.some.inj h
    obtain ⟨hop, hvd, hva, hvb, ht, h0⟩ := fields_fmtR_noVB (by decide : 5 < 64) vd va t.isLt
    exact ⟨e, .inl (by simp only [leDecode, hop, hvd, hva, hvb, ht, h0, beq_self_eq_true, Bool.and_self, Fin.ofNat_val_eq_self, keepIf_true])⟩
  next e vd va vb t =>
    obtain rfl := Option.some.inj h
    obtain ⟨hop, hvd, hva, hvb, ht, hok⟩ := fields_fmtR (by decide : 8 < 64) vd va vb t
    exact ⟨e, .inl (by simp only [leDecode, hop, hvd, hva, hvb, ht, hok, keepIf_true])⟩
  next e vd va vb t =>
    obtain rfl := Option.some.inj h
    obtain ⟨hop, hvd, hva, hvb, ht, hok⟩ := fields_fmtR (by decide : 9 < 64) vd va vb t
    exact ⟨e, .inl (by simp only [leDecode, hop, hvd, hva, hvb, ht, hok, keepIf_true])⟩
  next e vd va vb t =>
    obtain rfl := Option.some.inj h
    obtain ⟨hop, hvd, hva, hvb, ht, hok⟩ := fields_fmtR (by decide : 10 < 64) vd va vb t
    exact ⟨e, .inl (by simp only [leDecode, hop, hvd, hva, hvb, ht, hok, keepIf_true])⟩
  next e vd va vb t =>
    obtain rfl := Option.some.inj h
    obtain ⟨hop, hvd, hva, hvb, ht, hok⟩ := fields_fmtR (by decide : 11 < 64) vd va vb t
    exact ⟨e, .inl (by simp only [leDecode, hop, hvd, hva, hvb, ht, hok, keepIf_true])⟩
  next e vd va vb t =>
    obtain rfl := Option.some.inj h
    obtain ⟨hop, hvd, hva, hvb, ht, hok⟩ := fields_fmtR (by decide : 12 < 64) vd va vb t
    exact ⟨e, .inl (by simp only [leDecode, hop, hvd, hva, hvb, ht, hok, keepIf_true])⟩
  next e vd va t =>
    obtain rfl := Option.some.inj h
    have h2 : t.val ≠ 2 := by omega
    have h3 : t.val ≠ 3 := by omega
    obtain ⟨hop, hvd, hva, hvb, ht, h0⟩ := fields_fmtR_noVB (by decide : 13 < 64) vd va (by omega : t.val < 4)
    exact ⟨e, .inl (by simp [leDecode, keepIf_eq_some, rOk1, rOk, hop, hvd, hva, hvb, ht, h0, h2, h3])⟩
  next e vd va t =>
    obtain rfl := Option.some.inj h
    obtain ⟨hop, hvd, hva, ht, hok⟩ := fields_fmtR_one (by decide : 14 < 64) vd va t
    exact ⟨e, .inl (by simp only [leDecode, hop, hvd, hva, ht, hok, keepIf_true])⟩
  next e vd va t =>
    obtain rfl := Option.some.inj h
    obtain ⟨hop, hvd, hva, ht, hok⟩ := fields_fmtR_one (by decide : 15 < 64) vd va t
    exact ⟨e, .inl (by simp only [leDecode, hop, hvd, hva, ht, hok, keepIf_true])⟩
  next e vd va vb t =>
    obtain rfl := Option.some.inj h
    obtain ⟨hop, hvd, hva, hvb, ht, hok⟩ := fields_fmtR (by decide : 16 < 64) vd va vb t
    exact ⟨e, .inl (by simp only [leDecode, hop, hvd, hva, hvb, ht, hok, keepIf_true])⟩
  next e vd va vb t =>
    obtain rfl := Option.some.inj h
    obtain ⟨hop, hvd, hva, hvb, ht, hok⟩ := fields_fmtR (by decide : 17 < 64) vd va vb t
    exact ⟨e, .inl (by simp only [leDecode, hop, hvd, hva, hvb, ht, hok, keepIf_true])⟩
  next e vd va imm =>
    obtain rfl := Option.some.inj h
    obtain ⟨hop, hvd, hva, himm, -⟩ := fields_fmtI (by decide : 18 < 64) vd va imm
    exact ⟨e, .inl (by simp only [leDecode, hop, hvd, hva, himm])⟩
  next e vd va vb =>
    obtain rfl := Option.some.inj h
    obtain ⟨hop, hvd, hva, hvb, hok⟩ := fields_fmtR_int (by decide : 19 < 64) vd va vb
    exact ⟨e, .inl (by simp only [leDecode, hop, hvd, hva, hvb, hok, keepIf_true])⟩
  next e vd va vb =>
    obtain rfl := Option.some.inj h
    obtain ⟨hop, hvd, hva, hvb, hok⟩ := fields_fmtR_int (by decide : 20 < 64) vd va vb
    exact ⟨e, .inl (by simp only [leDecode, hop, hvd, hva, hvb, hok, keepIf_true])⟩
  next e vd va vb =>
    obtain rfl := Option.some.inj h
    obtain ⟨hop, hvd, hva, hvb, hok⟩ := fields_fmtR_int (by decide : 21 < 64) vd va vb
    exact ⟨e, .inl (by simp only [leDecode, hop, hvd, hva, hvb, hok, keepIf_true])⟩
  next e vd va imm =>
    obtain rfl := Option.some.inj h
    have hr := shaImm_range (by simpa [Instr.wf] using hwf)
    obtain ⟨hop, hvd, hva, himm, hlow⟩ := fields_fmtI (by decide : 22 < 64) vd va imm
    exact ⟨e, .inl (by simp [leDecode, keepIf_eq_some, hop, hvd, hva, himm, hlow, hr])⟩
  next e vd idx =>
    obtain rfl := Option.some.inj h
    obtain ⟨hop, hvd, hidx, hok⟩ := fields_fmtS_state (by decide : 24 < 64) vd idx
    exact ⟨e, .inl (by simp only [leDecode, hop, hvd, hidx, hok, keepIf_true])⟩
  next e vd idx =>
    obtain rfl := Option.some.inj h
    obtain ⟨hop, hvd, hidx, hok⟩ := fields_fmtS_state (by decide : 25 < 64) vd idx
    exact ⟨e, .inl (by simp only [leDecode, hop, hvd, hidx, hok, keepIf_true])⟩
  next e vd idx =>
    obtain rfl := Option.some.inj h
    obtain ⟨hop, hvd, hidx, hok⟩ := fields_fmtS_state (by decide : 26 < 64) vd idx
    exact ⟨e, .inl (by simp only [leDecode, hop, hvd, hidx, hok, keepIf_true])⟩
  next e vd va imm =>
    obtain rfl := Option.some.inj h
    obtain ⟨hop, hvd, hva, himm, -⟩ := fields_fmtI (by decide : 27 < 64) vd va imm
    exact ⟨e, .inl (by simp only [leDecode, hop, hvd, hva, himm])⟩
  next e vd va imm =>
    obtain rfl := Option.some.inj h
    obtain ⟨hop, hvd, hva, himm, -⟩ := fields_fmtI (by decide : 28 < 64) vd va imm
    exact ⟨e, .inl (by simp only [leDecode, hop, hvd, hva, himm])⟩
  next e vd idx wait =>
    obtain rfl := Option.some.inj h
    obtain ⟨hop, hvd, hidx, hok, hlt⟩ := fields_fmtS_binding (by decide : 29 < 64) vd idx
    exact ⟨e, .inr ⟨vd, idx, wait, rfl, by simp only [leDecode, hop, hvd, hidx, hok, hlt, decide_true, Bool.and_self, keepIf_true]⟩⟩
  next e vd idx =>
    obtain rfl := Option.some.inj h
    obtain ⟨hop, hvd, hidx, hok, hlt⟩ := fields_fmtS_binding (by decide : 30 < 64) vd idx
    exact ⟨e, .inl (by simp only [leDecode, hop, hvd, hidx, hok, hlt, decide_true, Bool.and_self, keepIf_true])⟩
  next e vd =>
    obtain rfl := Option.some.inj h
    obtain ⟨hop, hvd, h0, -⟩ := fields_fmtS (by decide : 31 < 64) vd (by decide : 0 < 64)
    exact ⟨e, .inl (by simp only [leDecode, hop, hvd, h0, Nat.zero_mul, beq_self_eq_true, keepIf_true])⟩
  next e off =>
    obtain rfl := Option.some.inj h
    have ho : off.val ≠ 0 := by simpa [Instr.wf] using hwf
    obtain ⟨hop, hoff, hok, hne⟩ := fields_fmtB_off (by decide : 32 < 64) ho
    exact ⟨e, .inl (by simp [leDecode, keepIf_eq_some, hop, hoff, hok, hne])⟩
  next e va vb c t off =>
    obtain rfl := Option.some.inj h
    have ho : off.val ≠ 0 := by simpa [Instr.wf] using hwf
    have h3 : t.val ≠ 3 := by omega
    obtain ⟨hop, hva, hvb, hoff, hc, ht, hne⟩ := fields_fmtB (by decide : 33 < 64) va vb c t ho
    exact ⟨e, .inl (by simp [leDecode, keepIf_eq_some, hop, hva, hvb, hoff, hc, ht, hne, h3])⟩
  next e off =>
    obtain rfl := Option.some.inj h
    have ho : off.val ≠ 0 := by simpa [Instr.wf] using hwf
    obtain ⟨hop, hoff, hok, hne⟩ := fields_fmtB_off (by decide : 34 < 64) ho
    exact ⟨e, .inl (by simp [leDecode, keepIf_eq_some, hop, hoff, hok, hne])⟩
  next e n len =>
    obtain rfl := Option.some.inj h
    have hz : n.val ≠ 0 ∧ len.val ≠ 0 := by simpa [Instr.wf] using hwf
    obtain ⟨hop, h0, hn, hlen, hnv, hlv⟩ := fields_fmtL (by decide : 35 < 64) n len
    have hk : (0 == 0 && n.val != 0 && len.val != 0) = true := by simp [hz]
    exact ⟨e, .inl (by simp only [leDecode, hop, h0, hn, hlen, hnv, hlv, hk, keepIf_true])⟩
  next e vd va sb cb ff =>
    obtain rfl := Option.some.inj h
    obtain ⟨hop, hvd, hva, hs, hc, hf⟩ := fields_fmtP (by decide : 40 < 64) vd va sb cb (flagN_lt ff)
    exact ⟨e, .inl (by simp only [leDecode, hop, hvd, hva, hs, hc, hf, flagN_le, flagN_beq, keepIf_true])⟩
  next e vd va sb cb ff =>
    obtain rfl := Option.some.inj h
    obtain ⟨hop, hvd, hva, hs, hc, hf⟩ := fields_fmtP (by decide : 41 < 64) vd va sb cb (flagN_lt ff)
    exact ⟨e, .inl (by simp only [leDecode, hop, hvd, hva, hs, hc, hf, flagN_le, flagN_beq, keepIf_true])⟩
  next e vd va sb cb =>
    obtain rfl := Option.some.inj h
    obtain ⟨hop, hvd, hva, hs, hc, hf⟩ := fields_fmtP (by decide : 42 < 64) vd va sb cb (by decide : 0 < 16)
    exact ⟨e, .inl (by simp only [leDecode, hop, hvd, hva, hs, hc, hf, beq_self_eq_true, keepIf_true])⟩
  next e vd va sb cb =>
    obtain rfl := Option.some.inj h
    obtain ⟨hop, hvd, hva, hs, hc, hf⟩ := fields_fmtP (by decide : 43 < 64) vd va sb cb (by decide : 0 < 16)
    exact ⟨e, .inl (by simp only [leDecode, hop, hvd, hva, hs, hc, hf, beq_self_eq_true, keepIf_true])⟩
  next e vd va cb ff =>
    obtain rfl := Option.some.inj h
    obtain ⟨hop, hvd, hva, hs, hc, hf⟩ := fields_fmtP_noS (by decide : 44 < 64) vd va cb (flagN_lt ff)
    exact ⟨e, .inl (by simp only [leDecode, hop, hvd, hva, hs, hc, hf, flagN_le, flagN_beq, beq_self_eq_true, Bool.and_self, keepIf_true])⟩
  next e vd va cb t =>
    obtain rfl := Option.some.inj h
    obtain ⟨hop, hvd, hva, hs, hc, hf⟩ := fields_fmtP_noS (by decide : 45 < 64) vd va cb (by omega : t.val < 16)
    exact ⟨e, .inl (by simp only [leDecode, hop, hvd, hva, hs, hc, hf, t.isLt, decide_true, beq_self_eq_true, Bool.and_self, Fin.ofNat_val_eq_self, keepIf_true])⟩
  next e vd va sb cb =>
    obtain rfl := Option.some.inj h
    obtain ⟨hop, hvd, hva, hs, hc, hf⟩ := fields_fmtP (by decide : 46 < 64) vd va sb cb (by decide : 0 < 16)
    exact ⟨e, .inl (by simp only [leDecode, hop, hvd, hva, hs, hc, hf, beq_self_eq_true, keepIf_true])⟩
  next e vd va cb =>
    obtain rfl := Option.some.inj h
    obtain ⟨hop, hvd, hva, hs, hc, hf⟩ := fields_fmtP_noS (by decide : 47 < 64) vd va cb (by decide : 0 < 16)
    exact ⟨e, .inl (by simp only [leDecode, hop, hvd, hva, hs, hc, hf, beq_self_eq_true, Bool.and_self, keepIf_true])⟩
  next e vd va ff =>
    obtain rfl := Option.some.inj h
    obtain ⟨hop, hvd, hva, h0, hf⟩ := fields_fmtP_flag (by decide : 48 < 64) vd va (flagN_lt ff)
    exact ⟨e, .inl (by simp only [leDecode, hop, hvd, hva, hf, h0, flagN_le, flagN_beq, beq_self_eq_true, Bool.and_self, keepIf_true])⟩
  next e vd va =>
    obtain rfl := Option.some.inj h
    obtain ⟨hop, hvd, hva, h0⟩ := fields_fmtP_regs (by decide : 49 < 64) vd va (by decide : 0 < 16)
    exact ⟨e, .inl (by simp only [leDecode, hop, hvd, hva, h0, beq_self_eq_true, keepIf_true])⟩
  next e vd va =>
    obtain rfl := Option.some.inj h
    obtain ⟨hop, hvd, hva, h0⟩ := fields_fmtP_regs (by decide : 50 < 64) vd va (by decide : 0 < 16)
    exact ⟨e, .inl (by simp only [leDecode, hop, hvd, hva, h0, beq_self_eq_true, keepIf_true])⟩
  next e vd va =>
    obtain rfl := Option.some.inj h
    obtain ⟨hop, hvd, hva, h0⟩ := fields_fmtP_regs (by decide : 51 < 64) vd va (by decide : 0 < 16)
    exact ⟨e, .inl (by simp only [leDecode, hop, hvd, hva, h0, beq_self_eq_true, keepIf_true])⟩
  next e vd va sb cb =>
    obtain rfl := Option.some.inj h
    obtain ⟨hop, hvd, hva, hs, hc, hf⟩ := fields_fmtP (by decide : 52 < 64) vd va sb cb (by decide : 0 < 16)
    exact ⟨e, .inl (by simp only [leDecode, hop, hvd, hva, hs, hc, hf, beq_self_eq_true, keepIf_true])⟩
  next e vd va sb cb ang trk =>
    obtain rfl := Option.some.inj h
    obtain ⟨hop, hvd, hva, hs, hc, hf⟩ := fields_fmtP (by decide : 53 < 64) vd va sb cb (flagN_two_lt ang trk)
    exact ⟨e, .inl (by simp only [leDecode, hop, hvd, hva, hs, hc, hf, flagN_two_le, flagN_two_low, flagN_two_high, keepIf_true])⟩
  next => cases h

/-- Settles O33: each format's words from their fields and its fields from the words, opcode by opcode. -/
theorem loopInstructionsDecodeAndEncodeAgree : Obligations.LoopInstructionsDecodeAndEncodeAgree :=
  ⟨fun _ _ _ h => leEncode_of_leDecode h, fun _ _ hwf h => leDecode_of_leEncode hwf h⟩

end Sys2Proof.Machine
end

section
/-! What an instruction of a loop engine leaves (R199, R201, R211): where its word is fetched and its cycles are within WCET,
the execution its effect gives, moved on to the next word, or an abort with the effect's cause. -/

namespace Sys2Proof.Machine

/-- The execution with the cycles of an instruction counted. -/
def LeRun.spent (r : LeRun) (cost : Nat) : LeRun := { r with cyc := r.cyc + cost }

/-- The execution moved on from the word `pc`: to the word after it, or to the one its instruction has gone to. -/
def LeRun.movedOn (r : LeRun) (pc : Nat) : LeRun :=
  { r with pc := (loopNext (if r.pc = pc then pc + 1 else r.pc) r.loops).1,
           loops := (loopNext (if r.pc = pc then pc + 1 else r.pc) r.loops).2 }

theorem LeRun.movedOn_stay {r : LeRun} {pc : Nat} (h : r.pc = pc) :
    r.movedOn pc = { r with pc := (loopNext (pc + 1) r.loops).1, loops := (loopNext (pc + 1) r.loops).2 } := by
  simp only [LeRun.movedOn, if_pos h]

theorem LeRun.spent_movedOn (r : LeRun) (cost : Nat) : (r.spent cost).movedOn r.pc = r.went cost :=
  LeRun.movedOn_stay (r := r.spent cost) rfl

section runs
variable {s : State} {e : Nat} {r : LeRun} {i : Instr} {cost : Nat}

theorem State.inClsNow_run (h : (s.eng e).run = some r) (k : Nat) : s.inClsNow e k = (s.inBind (16 * e + r.ctx) k).cls := by
  simp only [State.inClsNow, h]

/-- A poisoned word ends the execution, whatever the instruction (R450). -/
theorem State.leExec_poisoned (h : (s.eng e).run = some r) (hf : s.leFetch e r = some i) (hp : s.lePoisoned e r i = true)
    (f : State → LeRun → Except Nat (State × LeRun)) : s.leExec e i cost f = s.leUe e r := by
  simp only [State.leExec, h, hf, hp, bne_self_eq_false, Bool.false_eq_true, if_false, if_true]

/-- An instruction beyond WCET aborts with CYC (R211). -/
theorem State.leExec_beyond (h : (s.eng e).run = some r) (hf : s.fetches e r i) (hc : s.ctxWCET (16 * e + r.ctx) < r.cyc + cost)
    (f : State → LeRun → Except Nat (State × LeRun)) : s.leExec e i cost f = s.leAbort e (r.spent cost) caCYC := by
  simp only [State.leExec, h, hf.1, hf.2, hc, bne_self_eq_false, Bool.false_eq_true, if_false, if_true, LeRun.spent]

variable (h : s.running e r cost) (hf : s.fetches e r i)
include h hf

theorem State.leExec_ok {f : State → LeRun → Except Nat (State × LeRun)} {t : State} {r' : LeRun}
    (hx : f s (r.spent cost) = .ok (t, r')) : s.leExec e i cost f = t.setRun e (some (r'.movedOn r.pc)) := by
  obtain ⟨hrun, hcyc⟩ := h
  rw [LeRun.spent] at hx
  simp only [State.leExec, hrun, hf.1, hf.2, hx, Nat.not_lt.2 hcyc, bne_self_eq_false, Bool.false_eq_true, if_false]
  rfl

theorem State.leExec_error {f : State → LeRun → Except Nat (State × LeRun)} {c : Nat}
    (hx : f s (r.spent cost) = .error c) : s.leExec e i cost f = s.leAbort e (r.spent cost) c := by
  obtain ⟨hrun, hcyc⟩ := h
  rw [LeRun.spent] at hx
  simp only [State.leExec, hrun, hf.1, hf.2, hx, Nat.not_lt.2 hcyc, bne_self_eq_false, Bool.false_eq_true, if_false]
  rfl

theorem State.leReg_ok {f : LeRun → Except Nat LeRun} {r' : LeRun} (hx : f (r.spent cost) = .ok r') :
    s.leReg e i cost f = s.setRun e (some (r'.movedOn r.pc)) :=
  State.leExec_ok h hf (by rw [hx]; rfl)

/-- An effect that leaves the word and the LOOP bodies to the engine. -/
theorem State.leExec_stays {f : State → LeRun → Except Nat (State × LeRun)} {t : State} {r' r'' : LeRun}
    (hx : f s (r.spent cost) = .ok (t, r')) (hpc : r'.pc = r.pc) (hl : r'.loops = r.loops)
    (hr : { r' with pc := (r.went cost).pc, loops := (r.went cost).loops } = r'') :
    s.leExec e i cost f = t.setRun e (some r'') := by
  rw [State.leExec_ok h hf hx, LeRun.movedOn_stay hpc, hl, ← hr]; rfl

theorem State.leReg_stays {f : LeRun → Except Nat LeRun} {r' r'' : LeRun} (hx : f (r.spent cost) = .ok r')
    (hpc : r'.pc = r.pc) (hl : r'.loops = r.loops)
    (hr : { r' with pc := (r.went cost).pc, loops := (r.went cost).loops } = r'') :
    s.leReg e i cost f = s.setRun e (some r'') :=
  State.leExec_stays h hf (by rw [hx]; rfl) hpc hl hr

theorem State.leReg_error {f : LeRun → Except Nat LeRun} {c : Nat} (hx : f (r.spent cost) = .error c) :
    s.leReg e i cost f = s.leAbort e (r.spent cost) c :=
  State.leExec_error h hf (by rw [hx]; rfl)

/-- VD gets the result of an operation, or the execution aborts with ARITH (R199, R211). -/
theorem State.leOp_got {vd : Nat} {f : LeRun → LeRes} : s.leOp e i cost vd f = s.leGot e r cost vd (f (r.spent cost)) := by
  unfold State.leOp State.leGot
  cases hx : f (r.spent cost) with
  | none => exact State.leReg_error h hf (by rw [hx]; rfl)
  | some x => exact State.leReg_stays h hf (r' := { (r.spent cost).put vd x.1 with satq := r.satq || x.2 }) (by rw [hx]; rfl) rfl rfl rfl

end runs

end Sys2Proof.Machine
end

section
/-! The arithmetic of the loop engines (R186, R199, R201): the formats' operations, and the instructions that carry them out. -/

namespace Sys2Proof.Machine

/-! ### INT (R199) -/

theorem opDiv_int {a b : Word} (h : b ≠ 0) : opDiv 2 a b = some (a.sdiv b, false) := by
  have hq : BitVec.ofInt 32 (a.toInt.tdiv b.toInt) = a.sdiv b :=
    BitVec.eq_of_toInt_eq (by rw [BitVec.toInt_ofInt, BitVec.toInt_sdiv])
  simp only [opDiv, if_neg h, hq]

theorem putBits_high (x : Word) (imm : BitVec 16) : putBits x 16 16 imm.toNat = imm ++ x.extractLsb' 0 16 := by
  apply BitVec.eq_of_getLsbD_eq
  intro i hi
  simp only [putBits, BitVec.getLsbD_or, BitVec.getLsbD_and, BitVec.getLsbD_not, BitVec.getLsbD_ofNat, BitVec.getLsbD_append,
    BitVec.getLsbD_extractLsb', Nat.testBit_shiftLeft, Nat.testBit_two_pow_sub_one, Nat.testBit_mod_two_pow,
    BitVec.testBit_toNat]
  by_cases h : i < 16
  · have h1 : ¬ 16 ≤ i := by omega
    simp [h, hi, h1]
  · have h1 : 16 ≤ i := by omega
    have h2 : i - 16 < 16 := by omega
    simp [h, hi, h1, h2]

/-! ### Q7.24 (R199) -/

/-- Saturation to Q7.24 is the clamp of the value, and SATQ says that the value was beyond a limit. -/
theorem qsat_clamps (x : Int) : (qsat x).1.toInt = max (-2147483648) (min 2147483647 x) ∧
    ((qsat x).2 = true ↔ x < -2147483648 ∨ 2147483647 < x) := by
  unfold qsat
  split
  · next h => exact ⟨by rw [min_eq_left (by omega)]; rfl, by simp [h]⟩
  split
  · next h h' => exact ⟨by rw [min_eq_right (by omega), max_eq_left (by omega)]; rfl, by simp [h']⟩
  · next h h' =>
    refine ⟨?_, by simp; omega⟩
    rw [BitVec.toInt_ofInt, Int.bmod_eq_of_le (by norm_num; omega) (by norm_num; omega)]
    omega

/-- The limit a saturated value stands at. -/
theorem qsat_limit {x : Int} (h : (qsat x).2 = true) :
    2147483647 < x ∧ (qsat x).1 = 0x7FFFFFFF ∨ x < -2147483648 ∧ (qsat x).1 = 0x80000000 := by
  rcases (qsat_clamps x).2.1 h with h | h
  · exact .inr ⟨h, by simp only [qsat, if_pos h, if_neg (show ¬ 2147483647 < x by omega)]⟩
  · exact .inl ⟨h, by simp only [qsat, if_pos h]⟩

/-- Rounding to the nearest moves a value by half a unit at most. -/
theorem roundEven_near {x : Rat} (h : 0 ≤ x) : |(roundEven x : Rat) - x| ≤ 1 / 2 := by
  have hf : ((x.floor.toNat : Nat) : Rat) = x.floor := by
    have : 0 ≤ x.floor := Rat.le_floor_iff.2 (by simpa using h)
    exact_mod_cast Int.toNat_of_nonneg this
  have hlo : (x.floor : Rat) ≤ x := Rat.floor_le x
  have hhi : x - 1 < (x.floor : Rat) := Rat.lt_floor
  unfold roundEven
  dsimp only
  rw [abs_le]
  split_ifs <;> push_cast [hf] at * <;> constructor <;> linarith

theorem roundEvenI_near (x : Rat) : |(roundEvenI x : Rat) - x| ≤ 1 / 2 := by
  unfold roundEvenI
  split
  · next h => exact_mod_cast roundEven_near h
  · next h =>
    have := roundEven_near (x := -x) (by linarith)
    rw [← abs_neg]
    push_cast
    rwa [show -(-(roundEven (-x) : Rat) - x) = (roundEven (-x) : Rat) - -x by ring]

/-- A value in units of 2⁻²⁴ given as a fraction of them, rounded: half a unit off at most. -/
theorem roundEvenI_div_near (p : Int) : 2 * (roundEvenI ((p : Rat) / 16777216) * 16777216 - p).natAbs ≤ 16777216 := by
  have h := roundEvenI_near ((p : Rat) / 16777216)
  generalize roundEvenI ((p : Rat) / 16777216) = k at *
  have hr : |(k : Rat) * 16777216 - p| ≤ 8388608 := by
    rw [show (k : Rat) * 16777216 - p = (k - p / 16777216) * 16777216 by ring, abs_mul]
    norm_num at h ⊢
    linarith
  have hz : |k * 16777216 - p| ≤ 8388608 := by exact_mod_cast hr
  rw [Int.abs_eq_natAbs] at hz
  omega

/-- A product of two Q7.24 words: within half a unit of the exact one, or saturated where that is beyond a limit. -/
theorem opMul_q (a b : Word) : ∃ w q, opMul 0 a b = some (w, q) ∧
    (q = false → 2 * (w.toInt * 16777216 - a.toInt * b.toInt).natAbs ≤ 16777216) ∧
    (q = true → (2147483647 : Int) * 16777216 < a.toInt * b.toInt ∧ w = 0x7FFFFFFF ∨
      a.toInt * b.toInt < (-2147483648 : Int) * 16777216 ∧ w = 0x80000000) := by
  have hnear := roundEvenI_div_near (a.toInt * b.toInt)
  refine ⟨_, _, rfl, fun h => ?_, fun h => ?_⟩
  · obtain ⟨hv, hq⟩ := qsat_clamps (roundEvenI (((a.toInt * b.toInt : Int) : Rat) / 16777216))
    change (qsat _).2 = false at h
    change 2 * ((qsat _).1.toInt * _ - _).natAbs ≤ _
    rw [← Bool.not_eq_true, hq] at h
    rw [hv]
    omega
  · rcases qsat_limit h with ⟨hk, hw⟩ | ⟨hk, hw⟩
    · exact .inl ⟨by omega, hw⟩
    · exact .inr ⟨by omega, hw⟩

theorem opAdd_q (a b : Word) : ∃ w q, opAdd 0 a b = some (w, q) ∧
    w.toInt = max (-2147483648) (min 2147483647 (a.toInt + b.toInt)) ∧
    (q = true ↔ a.toInt + b.toInt < -2147483648 ∨ 2147483647 < a.toInt + b.toInt) :=
  ⟨_, _, rfl, qsat_clamps _⟩

/-! ### FP32 (R199) -/

theorem flFin_nan {a : Word} (h : flOf a = .nan) : flFin a = none := by simp only [flFin, h]

theorem opDiv_fp_zero {a b : Word} (hb : ∃ n, flOf b = .fin n 0) (ha : ∃ n m, flOf a = .fin n m) : opDiv 1 a b = none := by
  obtain ⟨p, hb⟩ := hb
  obtain ⟨n, m, ha⟩ := ha
  simp only [opDiv, fdiv, ha, hb, if_true, plain, Option.map_none]

theorem opSqrt_fp_neg {a : Word} {m : Rat} (h : flOf a = .fin true m) (hm : m ≠ 0) : opSqrt 1 a = none := by
  simp only [opSqrt, fsqrt, h, if_neg hm, if_true, plain, Option.map_none]

theorem opAdd_nan {a : Word} (h : flOf a = .nan) (b : Word) : opAdd 1 a b = none := by
  simp only [opAdd, fadd, flFin_nan h, plain, Option.map_none]

theorem opMul_nan {a : Word} (h : flOf a = .nan) (b : Word) : opMul 1 a b = none := by
  simp only [opMul, fmul, flFin_nan h, plain, Option.map_none]

theorem opCvt_nan {a : Word} (h : flOf a = .nan) : opCvt 0 a = none ∧ opCvt 3 a = none := by
  simp only [opCvt, h, and_self]

theorem opCvt_inf {a : Word} {n : Bool} (h : flOf a = .inf n) :
    opCvt 0 a = some (if n then 0x80000000 else 0x7FFFFFFF, true) ∧
      opCvt 3 a = some (if n then 0x80000000 else 0x7FFFFFFF, true) := by
  simp only [opCvt, h, and_self]

/-! ### The instructions (R201) -/

section instructions
variable {s : State} {e : Fin 16} {r : LeRun} {i : Instr} {cost vd : Nat} {f : LeRun → LeRes} {x : LeRes}

/-- An operation whose result on the execution is `x`. -/
theorem leOp_next (h : s.running e r cost) (hf : s.fetches e r i) (hx : f (r.spent cost) = x) :
    (.next (s.leOp e i cost vd f) : Host.Outcome State Fault Refusal) = .next (s.leGot e r cost vd x) :=
  next_congr (hx ▸ State.leOp_got h hf)

/-- The same where the format decides on the cycles. -/
theorem leOp_next_cost {c : Nat} (h : s.running e r cost) (hf : s.fetches e r i) (hc : c = cost) (hx : f (r.spent cost) = x) :
    (.next (s.leOp e i c vd f) : Host.Outcome State Fault Refusal) = .next (s.leGot e r cost vd x) := by
  subst hc; exact leOp_next h hf hx

end instructions

/-- Settles O30: each instruction by its operation on the execution, each format by the operation's definition, Q7.24 by the
clamp of the value rounded. -/
theorem loopArithmeticAndFormats : Obligations.LoopArithmeticAndFormats := by
  unfold Obligations.LoopArithmeticAndFormats
  refine ⟨fun e vd va vb s r => ⟨fun h imm => ⟨fun hf => ?_, fun hf => ?_, fun hf => ?_, fun hf => ?_, fun hf => ?_, fun hf => ?_,
      fun hf => ?_, fun hf => ?_, fun hf => ?_⟩, fun t h => ⟨fun ht => ⟨fun hf => ?_, fun hf => ?_⟩, fun hf => ?_, fun hf => ?_, fun hf => ?_,
      fun hf => ?_⟩, fun t h => ⟨fun ht => ⟨fun hf => ?_, fun hf => ?_⟩, fun ht => ⟨fun hf => ?_, fun hf => ?_⟩, fun u hf => ?_⟩,
      fun h => ⟨fun hf => ?_, fun hf => ?_⟩, fun h => ⟨fun t hf => ?_, fun t hf => ?_⟩⟩,
    fun a b d => ⟨rfl, rfl, rfl, rfl, rfl, opDiv_int, rfl⟩, opAdd_q, opMul_q, fun a => rfl, fun a h => ?_,
    fun a b => opDiv_fp_zero, fun a m => opSqrt_fp_neg, fun a b h => ⟨opAdd_nan h b, opMul_nan h b, opCvt_nan h⟩, fun a n => opCvt_inf⟩
  · exact next_congr (State.leReg_stays h hf rfl rfl rfl rfl)
  · exact leOp_next h hf rfl
  · exact leOp_next h hf (by rw [putBits_high]; rfl)
  · exact leOp_next h hf rfl
  · exact leOp_next h hf rfl
  · exact leOp_next h hf rfl
  · exact leOp_next h hf rfl
  · exact leOp_next h hf rfl
  · exact leOp_next h hf rfl
  · exact leOp_next_cost h hf (if_neg ht) rfl
  · exact leOp_next_cost h hf (if_neg ht) rfl
  · exact leOp_next h hf rfl
  · exact leOp_next h hf rfl
  · exact leOp_next h hf rfl
  · exact leOp_next h hf rfl
  · exact leOp_next_cost h hf (if_pos ht) rfl
  · exact leOp_next_cost h hf (if_pos ht) rfl
  · exact leOp_next_cost h hf (if_neg ht) rfl
  · exact leOp_next_cost h hf (if_neg ht) rfl
  · exact leOp_next h hf rfl
  · exact leOp_next h hf rfl
  · exact leOp_next h hf rfl
  · exact leOp_next h hf rfl
  · exact leOp_next h hf rfl
  · rw [opSqrt, if_pos h]

end Sys2Proof.Machine
end

section
/-! The primitives of the loop engines (R203–R208): what the registers and state words of an execution hold after several
are written, and each primitive by the results of its step. -/

namespace Sys2Proof.Machine

/-! ### Several registers and state words -/

/-- The words of a list set one after another from place `i` on. -/
def setAll (l : List Word) (i : Nat) (ws : List Word) : List Word := ws.zipIdx.foldl (fun l p => l.set (i + p.2) p.1) l

theorem LeRun.puts_eq (r : LeRun) (i : Nat) (ws : List Word) : r.puts i ws = { r with v := setAll r.v i ws } := by
  unfold LeRun.puts setAll
  generalize ws.zipIdx = l
  induction l generalizing r with
  | nil => rfl
  | cons p t ih => exact ih (r.put (i + p.2) p.1)

theorem LeRun.setSs_eq (r : LeRun) (i : Nat) (ws : List Word) : r.setSs i ws = { r with st := setAll r.st i ws } := by
  unfold LeRun.setSs setAll
  generalize ws.zipIdx = l
  induction l generalizing r with
  | nil => rfl
  | cons p t ih => exact ih (r.setS (i + p.2) p.1)

/-- The results of a primitive with state words: its registers from VD on, its state words from S on and LIMITED, none for
ARITH. -/
def LeRun.gotState (r : LeRun) (vd sb : Nat) (x : Option (List Word × List Word × Bool)) : Except Nat LeRun :=
  match x with
  | none => .error caARITH
  | some (ws, st, lim) => .ok { (r.puts vd ws).setSs sb st with limited := r.limited || lim }

/-- Results that leave LIMITED as it is. -/
theorem LeRun.gotState_quiet (r : LeRun) (vd sb : Nat) (ws st : List Word) :
    r.gotState vd sb (some (ws, st, false)) = .ok ((r.puts vd ws).setSs sb st) := by
  simp only [LeRun.gotState, LeRun.puts_eq, LeRun.setSs_eq, Bool.or_false]

section spent
variable (r : LeRun) (cost i : Nat)

@[simp] theorem LeRun.get_spent : (r.spent cost).get i = r.get i := rfl
@[simp] theorem LeRun.gets_spent : (r.spent cost).gets i = r.gets i := rfl
@[simp] theorem LeRun.ctx_spent : (r.spent cost).ctx = r.ctx := rfl

end spent

theorem getBits_high (x : Word) : getBits x 16 16 = x.toNat / 65536 := by
  rw [getBits, Nat.shiftRight_eq_div_pow]; omega

theorem getBits_low (x : Word) : getBits x 0 16 = x.toNat % 65536 := rfl

section primitives
variable {s : State} {e : Nat} {r : LeRun} {i : Instr} {cost vd sb : Nat} {f : LeRun → Except Nat LeRun}
  (h : s.running e r cost) (hf : s.fetches e r i)
include h hf

theorem State.leReg_gotState {x : Option (List Word × List Word × Bool)}
    (hx : f (r.spent cost) = (r.spent cost).gotState vd sb x) : s.leReg e i cost f = s.leGotState e r cost vd sb x := by
  cases x with
  | none => exact State.leReg_error h hf hx
  | some x =>
    refine State.leReg_stays h hf hx ?_ ?_ ?_ <;> simp only [LeRun.puts_eq, LeRun.setSs_eq] <;> rfl

theorem State.leReg_results {x : Option (List Word)} (hx : f (r.spent cost) = (r.spent cost).results vd x) :
    s.leReg e i cost f = s.leGotAll e r cost vd x := by
  cases x with
  | none => exact State.leReg_error h hf hx
  | some x => refine State.leReg_stays h hf hx ?_ ?_ ?_ <;> simp only [LeRun.puts_eq] <;> rfl

end primitives

/-! ### The primitives -/

section steps
variable {s : State} {e : Fin 16} {r : LeRun} {vd va : Fin 32} {sb cb : Fin 64}

/-- PI and PID (R204). -/
theorem State.lePiPid_got {i : Instr} {cost : Nat} {ff pid : Bool} (h : s.running e r cost) (hf : s.fetches e r i) :
    s.lePiPid e i cost vd va sb cb ff pid = s.leGotState e r cost vd sb
      ((piStep (r.get va) (if ff then r.get (va + 1) else 0) (s.coef e r.ctx cb) (s.coef e r.ctx (cb + 1)) (s.coef e r.ctx (cb + 2))
        (s.coef e r.ctx (cb + 3)) (r.gets sb) (if pid then some (s.coef e r.ctx (cb + 4), s.coef e r.ctx (cb + 5), r.gets (sb + 2), r.gets (sb + 3)) else none)).map
        (fun x => ([x.1], x.2.2, x.2.1))) := by
  refine State.leReg_gotState h hf ?_
  simp only [LeRun.get_spent, LeRun.gets_spent, LeRun.ctx_spent]
  generalize piStep _ _ _ _ _ _ _ _ = x
  cases x <;> rfl

/-- RAMP (R207): the step's y and r, with INIT those it starts at. -/
theorem State.leRamp_got {y rr : Word} (h : s.running e r 12) (hf : s.fetches e r (.leRamp e vd va sb cb))
    (hx : s.on (LEX.CTX_STAT_INIT e r.ctx) = true ∧ fpass (r.get (va + 1)) = some y ∧ rr = 0 ∨
      s.on (LEX.CTX_STAT_INIT e r.ctx) = false ∧ rampStep (r.get va) (r.gets sb) (r.gets (sb + 1)) (s.coef e r.ctx (cb + 0))
        (s.coef e r.ctx (cb + 1)) (s.coef e r.ctx (cb + 2)) = some (y, rr)) :
    execLeRamp e vd va sb cb s = .next (s.setRun e (some { (((r.went 12).put vd y).setSs sb [y, rr]) with
        ramp := some (r.ramp.getD false || fcmp y (r.get va) != some 0) })) := by
  refine next_congr (State.leReg_stays h hf (r' := { ((r.spent 12).put vd y).setSs sb [y, rr] with
        ramp := some (r.ramp.getD false || fcmp y (r.get va) != some 0) }) ?_ rfl rfl rfl)
  simp only [LeRun.get_spent, LeRun.gets_spent, LeRun.ctx_spent]
  rcases hx with ⟨hon, hm, rfl⟩ | ⟨hon, hx⟩
  · simp only [hon, hm, if_true, Option.map_some]; rfl
  · simp only [hon, hx, Bool.false_eq_true, if_false]; rfl

end steps

/-! ### SINCOS and HANDOVER (R206, R208) -/

theorem within6e8_near {free : Word} {x : Rat} {w : Word} (h : within6e8 free x = w) (hne : w ≠ toF32 x) :
    ∃ y, flFin w = some y ∧ x - 6 / 100000000 ≤ y.2 ∧ y.2 ≤ x + 6 / 100000000 := by
  unfold within6e8 at h
  split at h
  · next y hy =>
    split at h
    · next hb => exact h ▸ ⟨y, hy, hb⟩
    · exact absurd h.symm hne
  · exact absurd h.symm hne

theorem LeRun.get_put (r : LeRun) (i j : Nat) (w : Word) :
    (r.put i w).get j = if j = i ∧ i < r.v.length then w else r.get j := by
  unfold LeRun.get LeRun.put
  simp only [List.getD_eq_getElem?_getD, List.getElem?_set]
  split
  · next h => subst h; by_cases hl : i < r.v.length <;> simp [hl]
  · next h => simp [Ne.symm h]

section handoverSteps
variable {r : LeRun} {vd sb : Nat} {ya yb req dis refA refB : Word} {coef : Nat → Word} (hs : r.gets sb = 0)
  (hj : r.gets (sb + 1) = 0)
include hs hj

theorem handover_stays {nb : Int} {y : Word} (hreq : fisz req = true) (hnb : 0 ≤ nb) (hy : fadd ya 0 = some y)
    (hp : fpass y = some y) : handover r vd sb false false ya yb req dis refA refB nb coef =
      .ok { (r.setSs sb [0, 0, r.gets (sb + 2)]).put vd y with sel := some false, blend := some false } := by
  have hy : fadd ya 0#32 = some y := hy
  simp [handover, hs, hj, hreq, min_eq_left hnb, hy, hp, bind, Except.bind] <;> rfl

theorem handover_swaps (hreq : fisz req = false) : handover r vd sb true false ya yb req dis refA refB 0 coef =
      .ok { (r.setSs sb [1, 0, 0]).put vd yb with sel := some true, blend := some false, hoInst := true } := by
  simp [handover, hs, hj, hreq, bind, Except.bind]

end handoverSteps

section handover
variable {s : State} {e : Fin 16} {r : LeRun} {vd va : Fin 32} {sb cb : Fin 64}

theorem State.eng_setRun_self (s : State) (e : Nat) (x : Option LeRun) : ((s.setRun e x).eng e).run = x := by
  rw [State.setRun, State.eng_setEng, if_pos rfl]

/-- SINCOS: the sine to VD and the cosine to VD + 1, each by the free word drawn for it. -/
theorem execLeSincos_got (h : s.running e r 8) (hf : s.fetches e r (.leSincos e vd va)) (hv : r.v.length = 32)
    (hvd : vd.val < 31) : ∃ t r', execLeSincos e vd va s = .next t ∧ (t.eng e).run = some r' ∧ r'.cyc = r.cyc + 8 ∧
      t.regs = s.regs ∧ t.mem = s.mem ∧ ∃ x y, r'.get vd = within6e8 x (sinCosTurn (turnOf (r.get va))).1 ∧
        r'.get (vd + 1) = within6e8 y (sinCosTurn (turnOf (r.get va))).2 := by
  refine ⟨_, _, next_congr (State.leExec_ok h hf rfl), State.eng_setRun_self _ _ _, rfl, rfl, rfl,
    Config.freeWord s.freeN, Config.freeWord (s.freeN + 1), ?_, ?_⟩
  · change (((r.spent 8).put vd _).put (vd + 1) _).get vd = _
    rw [LeRun.get_put, if_neg (by omega), LeRun.get_put, if_pos ⟨rfl, by rw [LeRun.spent, hv]; omega⟩]
    rfl
  · change (((r.spent 8).put vd _).put (vd + 1) _).get (vd + 1) = _
    rw [LeRun.get_put, if_pos ⟨rfl, by rw [LeRun.put, List.length_set, LeRun.spent, hv]; omega⟩]
    rfl

/-- HANDOVER without a request and without a blend passes A. -/
theorem execLeHandover_stays {y : Word} (h : s.running e r 10) (hf : s.fetches e r (.leHandover e vd va sb cb false false))
    (hs : r.gets sb = 0) (hj : r.gets (sb + 1) = 0) (hreq : fisz (r.get (va + 2)) = true)
    (hnb : 0 ≤ (s.mword (leC (16 * e + r.ctx) (cb + 1))).toInt) (hy : fadd (r.get va) 0 = some y) (hp : fpass y = some y) :
    execLeHandover e vd va sb cb false false s = .next (s.setRun e (some
      { (((r.went 10).setSs sb [0, 0, r.gets (sb + 2)]).put vd y) with sel := some false, blend := some false })) := by
  refine next_congr (State.leExec_stays h hf (t := s) (r' := { ((r.spent 10).setSs sb [0, 0, r.gets (sb + 2)]).put vd y with
    sel := some false, blend := some false }) ?_ rfl rfl rfl)
  rw [← State.coef] at hnb
  simp only [LeRun.get_spent, LeRun.ctx_spent, Int.not_lt.2 hnb, if_false]
  rw [handover_stays (r := r.spent 10) hs hj hreq (Int.natCast_nonneg _) hy hp]
  rfl

/-- HANDOVER with a request and NB = 0 passes B at once. -/
theorem execLeHandover_swaps (h : s.running e r 10) (hf : s.fetches e r (.leHandover e vd va sb cb true false))
    (hs : r.gets sb = 0) (hj : r.gets (sb + 1) = 0) (hreq : fisz (r.get (va + 2)) = false)
    (hnb : s.mword (leC (16 * e + r.ctx) (cb + 1)) = 0) :
    execLeHandover e vd va sb cb true false s = .next (s.setRun e (some
      { (((r.went 10).setSs sb [1, 0, 0]).put vd (r.get (va + 1))) with sel := some true, blend := some false, hoInst := true })) := by
  refine next_congr (State.leExec_stays h hf (t := s) (r' := { ((r.spent 10).setSs sb [1, 0, 0]).put vd (r.get (va + 1)) with
    sel := some true, blend := some false, hoInst := true }) ?_ rfl rfl rfl)
  rw [← State.coef] at hnb
  simp only [LeRun.get_spent, LeRun.ctx_spent, hnb]
  exact congrArg (Except.map _) (handover_swaps (r := r.spent 10) hs hj hreq)

end handover

/-- Settles O32: each primitive by the results of its step, SINCOS by the words its free values leave, HANDOVER by its step
without a request and with one. -/
theorem primitivesAndSincos : Obligations.PrimitivesAndSincos := by
  unfold Obligations.PrimitivesAndSincos
  refine ⟨fun e vd va sb cb s r c hc => ?_, ?_⟩
  · obtain rfl : c = fun i => s.coef e r.ctx (cb + i) := funext hc
    refine ⟨fun ff h hf => next_congr ?_, fun ff h hf => ?_, fun h => ⟨fun p0 p1 p2 p3 p4 q1 q2 y s1 s2 hp0 hy hp1 hp3 hq1 hs1 hp2 hp4 hq2 hs2 hf => ?_,
      fun b hf => ?_⟩, fun h p0 p1 p2 y s1 hp0 hy hp1 hp2 hs1 hf => ?_, fun h t y lim hy hlim hf => ?_, fun h h0 y rr hx hf => ?_,
      fun h h1 m hm hf => ?_, fun h n off hn hoff => ⟨fun hbad hf => ?_, fun h2 h4096 hlen hf => ?_⟩, fun h => ⟨fun b hf => ?_, fun hf => ?_, fun hf => ?_⟩,
      fun h hf => ?_⟩
    · exact State.lePiPid_got (ff := ff) (pid := false) h hf
    · exact next_congr (State.lePiPid_got (ff := ff) (pid := true) h hf)
    · refine next_congr (State.leReg_gotState h hf ?_)
      simp only [LeRun.get_spent, LeRun.gets_spent, LeRun.ctx_spent, LeRun.gotState_quiet, hp0, hp1, hp2, hp3, hp4, hy, hq1, hs1, hq2, hs2,
        Option.bind_eq_bind, Option.bind_some]
      rfl
    · refine next_congr (State.leReg_gotState h hf ?_)
      simp only [LeRun.get_spent, LeRun.ctx_spent]
      generalize limStep _ _ _ _ = x
      cases x <;> rfl
    · refine next_congr (State.leReg_gotState h hf ?_)
      simp only [LeRun.get_spent, LeRun.gets_spent, LeRun.ctx_spent, LeRun.gotState_quiet, hp0, hp1, hp2, hy, hs1,
        Option.bind_eq_bind, Option.bind_some]
      rfl
    · refine next_congr (State.leReg_gotState h hf ?_)
      simp only [LeRun.get_spent, LeRun.ctx_spent, Bool.or_assoc]
      rw [hlim]
      split
      · next hz => rw [show (if t.val = 1 then fpass y else some y) = none by rw [hy]; exact hz]; rfl
      · next z hz => rw [show (if t.val = 1 then fpass y else some y) = some z by rw [hy]; exact hz]; rfl
    · exact (State.leRamp_got h hf (.inr ⟨State.on_of_get_zero h0, hx⟩))
    · exact (State.leRamp_got h hf (.inl ⟨State.on_of_get_one h1, hm, rfl⟩))
    · refine next_congr (State.leReg_error h hf ?_)
      have hbad' : (decide (n < 2) || decide (4096 < n) || decide (s.ctxTLEN (16 * e + r.ctx) < off + n)) = true := by
        simpa [or_assoc] using hbad
      rw [← getBits_high] at hn
      rw [← getBits_low] at hoff
      subst hn hoff
      exact if_pos hbad'
    · refine next_congr (State.leReg_gotState h hf ?_)
      have hok : ¬ (decide (n < 2) || decide (4096 < n) || decide (s.ctxTLEN (16 * e + r.ctx) < off + n)) = true := by
        simp; omega
      rw [← getBits_high] at hn
      rw [← getBits_low] at hoff
      subst hn hoff
      refine (if_neg hok).trans ?_
      simp only [LeRun.get_spent, LeRun.ctx_spent]
      generalize tluStep _ _ _ _ _ = x
      cases x <;> rfl
    · exact next_congr (State.leReg_results h hf rfl)
    · exact next_congr (State.leReg_results h hf rfl)
    · exact next_congr (State.leReg_results h hf rfl)
    · refine next_congr (State.leReg_gotState h hf ?_)
      simp only [LeRun.get_spent, LeRun.gets_spent, LeRun.ctx_spent]
      generalize obsvStep _ _ _ _ = x
      cases x with
      | none => rfl
      | some x => exact (LeRun.gotState_quiet ..).symm
  · refine ⟨fun e vd va s r h hf hv hvd => ?_, fun e vd va sb cb s r y h hs hj hreq hnb hy hp hf => ?_,
      fun e vd va sb cb s r h hs hj hreq hnb hf => ?_, fun free x w h hne => within6e8_near h hne⟩
    · exact execLeSincos_got h hf hv hvd
    · exact execLeHandover_stays h hf hs hj hreq hnb hy hp
    · exact execLeHandover_swaps h hf hs hj hreq hnb

end Sys2Proof.Machine
end

section
/-! What the operations on contexts leave alone (R194, R211–R214): the engines' executions, the events raised, the status of
the contexts but BLOCKING, and which of them are enabled. -/

namespace Sys2Proof.Machine

/-- From `s` to `t` the fields of `K` and the engines' executions are as they were, and the events of LEX pages stand. -/
structure State.EngFrame (K : Fld → Prop) (s t : State) : Prop where
  get : ∀ g, K g → t.get g = s.get g
  raised : ∀ p b, s.raised (LEX.page p) b → t.raised (LEX.page p) b
  run : ∀ e, (t.eng e).run = (s.eng e).run

/-- A field of a context's status other than BLOCKING. -/
def ctxStatus (g : Fld) : Prop := ∃ p i, i < 16 ∧ g.addr = LEX.CTX_STAT p i ∧ (g.lo + g.w ≤ 25 ∨ 26 ≤ g.lo)

/-- A field of a context's status other than BLOCKING, or the enables of an engine. -/
def ctxKept (g : Fld) : Prop := ctxStatus g ∨ ∃ p, g.addr = LEX.CTX_EN p

theorem ctxStatus.kept {g : Fld} (h : ctxStatus g) : ctxKept g := .inl h

theorem ctxStatus.ne {g : Fld} (h : ctxStatus g) (p : Nat) {o : Nat} (ho : o < 0x100) : g.addr ≠ LEX.page p + o := by
  obtain ⟨q, i, hi, ha, -⟩ := h
  simp only [LEX.page, LEX.CTX_STAT] at *
  omega

theorem ctxKept.ne {g : Fld} (h : ctxKept g) (p : Nat) {o : Nat} (ho : o < 0x100 ∧ o ≠ 0x44) : g.addr ≠ LEX.page p + o := by
  rcases h with h | ⟨q, ha⟩
  · exact h.ne p ho.1
  · simp only [LEX.page, LEX.CTX_EN] at *
    omega

theorem ctxKept.blocking {g : Fld} (h : ctxKept g) (p : Nat) {i : Nat} (_ : i < 16) : (LEX.CTX_STAT_BLOCKING p i).apart g := by
  rcases h with ⟨q, j, hj, ha, hb⟩ | ⟨q, ha⟩
  · exact .inr (by rcases hb with hb | hb; exacts [.inr hb, .inl hb])
  · exact .inl (by simp only [LEX.CTX_EN] at *; omega)

namespace State.EngFrame
variable {K : Fld → Prop} {s t u : State}

theorem refl (K : Fld → Prop) (s : State) : EngFrame K s s := ⟨fun _ _ => rfl, fun _ _ h => h, fun _ => rfl⟩

theorem trans (h : EngFrame K s t) (h' : EngFrame K t u) : EngFrame K s u :=
  ⟨fun g hg => (h'.get g hg).trans (h.get g hg), fun p b hb => h'.raised p b (h.raised p b hb),
    fun e => (h'.run e).trans (h.run e)⟩

theorem mono {L : Fld → Prop} (h : EngFrame K s t) (hL : ∀ g, L g → K g) : EngFrame L s t :=
  ⟨fun g hg => h.get g (hL g hg), h.raised, h.run⟩

theorem ite {c : Prop} [Decidable c] (ht : EngFrame K s t) (hu : EngFrame K s u) : EngFrame K s (if c then t else u) := by
  split
  · exact ht
  · exact hu

theorem iff (h : EngFrame K s t) {b : Bool} {f : State → State} (hf : EngFrame K t (f t)) : EngFrame K s (t.iff b f) :=
  h.trans (ite hf (refl K t))

theorem each {α : Type} {l : List α} {f : State → α → State} (hf : ∀ s, ∀ a ∈ l, EngFrame K s (f s a)) (s : State) :
    EngFrame K s (s.each l f) := by
  induction l generalizing s with
  | nil => exact refl K s
  | cons a l ih =>
    exact (hf s a (by simp)).trans (ih (fun s b hb => hf s b (List.mem_cons_of_mem a hb)) (f s a))

/-- An update of neither the registers nor the loop engines. -/
theorem same (hr : t.regs = s.regs) (hl : t.le = s.le) : EngFrame K s t :=
  ⟨fun g _ => by rw [State.get, State.get, State.reg, State.reg, hr],
    fun p b h => by rwa [State.raised, State.reg, hr], fun e => by rw [State.eng, State.eng, hl]⟩

theorem set (h : EngFrame K s t) {f : Fld} (hf : ∀ g, K g → f.apart g) (hr : ∀ p, f.addr ≠ LEX.page p + 0x14) (v : Nat) :
    EngFrame K s (t.set f v) :=
  h.trans ⟨fun g hg => t.get_set_apart f g v (hf g hg), fun p b hb => (t.raised_set _ b f v (hr p)).2 hb, fun _ => rfl⟩

theorem irq (h : EngFrame K s t) {pg : Nat} (hf : ∀ g, K g → g.addr ≠ pg + 0x14) (b : Nat) : EngFrame K s (t.irq pg b) :=
  h.trans ⟨fun g hg => t.get_irq_of_ne pg b g (hf g hg), fun _ c hc => t.raised_irq_of _ c pg b hc, fun _ => rfl⟩

/-- An update of an engine that leaves its execution. -/
theorem setEng (h : EngFrame K s t) {e : Nat} {x : LeEng} (hx : x.run = (t.eng e).run) : EngFrame K s (t.setEng e x) :=
  h.trans ⟨fun _ _ => rfl, fun _ _ hb => hb, fun f => by
    rw [State.eng_setEng]
    split
    · next he => rw [hx, he]
    · rfl⟩

theorem setLectx (h : EngFrame K s t) (c : Nat) (x : LeCtx) : EngFrame K s (t.setLectx c x) :=
  h.trans ⟨fun _ _ => rfl, fun _ _ hb => hb, fun _ => rfl⟩

/-- A write to a register of a LEX page that holds neither the contexts' status nor the enables. -/
theorem reg (h : EngFrame ctxKept s t) {f : Fld} {v : Nat} (p o : Nat) (hf : f.addr = LEX.page p + o := by simp only [LEX.page]; omega)
    (ho : o < 0x100 ∧ o ≠ 0x44 ∧ o ≠ 0x14 := by decide) : EngFrame ctxKept s (t.set f v) :=
  h.set (fun g hg => .inl fun he => hg.ne p ⟨ho.1, ho.2.1⟩ (by rw [← hf, he])) (fun q => by simp only [LEX.page] at *; omega) v

theorem event (h : EngFrame ctxKept s t) (p b : Nat) : EngFrame ctxKept s (t.irq (LEX.page p) b) :=
  h.irq (fun _ hg => hg.ne p (by decide)) b

end State.EngFrame

/-! ### Blocks, claims and moves -/

open State (EngFrame)

section contexts
variable (s : State) (c e : Nat)

theorem State.setBlks_frame (l : List LeBlk) : EngFrame ctxKept s (s.setBlks l) := by
  unfold State.setBlks
  refine EngFrame.trans (t := { s with le := { s.le with blks := l } }) ⟨fun _ _ => rfl, fun _ _ hb => hb, fun _ => rfl⟩
    (EngFrame.each (fun t c _ => ?_) _)
  have hc : c % 16 < 16 := Nat.mod_lt _ (by decide)
  exact (EngFrame.refl _ t).set (fun g hg => hg.blocking (c / 16) hc) (fun p => by simp only [LEX.page]; omega) _

theorem State.leBlock_frame (own : Bool) : EngFrame ctxKept s (s.leBlock c own) :=
  EngFrame.ite (s.setBlks_frame _) (EngFrame.refl _ s)

theorem State.leUnblock_frame : EngFrame ctxKept s (s.leUnblock c) := s.setBlks_frame _

theorem State.leOrphan_frame : EngFrame ctxKept s (s.leOrphan c) := s.setBlks_frame _

theorem State.release_frame (K : Fld → Prop) (r cls inst : Nat) : EngFrame K s (s.release r cls inst) :=
  EngFrame.ite (.same rfl rfl) (EngFrame.ite (.same rfl rfl) (EngFrame.refl _ s))

theorem State.releaseAll_frame (K : Fld → Prop) (cls inst : Nat) : EngFrame K s (s.releaseAll cls inst) :=
  EngFrame.each (fun t r _ => t.release_frame K r cls inst) s

theorem State.leRefresh_frame : EngFrame ctxKept s (s.leRefresh e) := by
  unfold State.leRefresh
  exact (((((((EngFrame.refl _ s).reg e 0x40).reg e 0x40).reg e 0x60).reg e 0x64).reg e 0x40).reg e 0x5C).reg e 0x5C

theorem State.moveEnd_frame (st code : Nat) : EngFrame ctxKept s (s.moveEnd e st code) := by
  unfold State.moveEnd
  split
  · exact EngFrame.refl _ s
  · next m _ =>
    refine EngFrame.event ?_ e _
    refine EngFrame.reg (EngFrame.reg ?_ e 0x40) m.eng 0x40
    refine EngFrame.reg (EngFrame.reg ?_ e 0x78) e 0x78
    exact (EngFrame.refl _ s).setEng rfl

theorem State.moveHeld_frame (p q : Nat) : EngFrame ctxKept s (s.moveHeld p q) := by
  unfold State.moveHeld
  refine EngFrame.trans ?_ (State.setBlks_frame _ _)
  refine EngFrame.each (fun t r _ => ?_) s
  exact .same rfl rfl

theorem State.moveCancelCtx_frame : EngFrame ctxKept s (s.moveCancelCtx c) := by
  unfold State.moveCancelCtx
  split
  · refine EngFrame.ite ?_ (EngFrame.refl _ s)
    refine EngFrame.trans ((EngFrame.refl _ s).iff ?_) (State.moveEnd_frame _ _ _ _)
    refine EngFrame.trans ?_ (EngFrame.each (fun t p _ => t.moveHeld_frame _ _) _)
    exact (EngFrame.refl _ s).setEng rfl
  · exact EngFrame.refl _ s

/-- The state after a CTX_EN bit is cleared. -/
def State.enCleared (s : State) (c : Nat) : State :=
  s.set (LEX.CTX_EN_EN (c / 16)) (s.get (LEX.CTX_EN_EN (c / 16)) &&& (0xFFFF ^^^ 1 <<< (c % 16)))

/-- A clear of a CTX_EN bit goes on to the scan, the queue, the outputs' blocks and the claims. -/
theorem State.ctxClear_frame : EngFrame ctxKept (s.enCleared c) (s.ctxClear c) := by
  have h0 := ((EngFrame.refl ctxKept (s.enCleared c)).setLectx c { (s.enCleared c).lectx c with scan := none })
  have h1 := fun b => EngFrame.iff (b := b) (f := fun t => t.irq (LEX.page (c / 16)) 2) h0 ((EngFrame.refl _ _).event (c / 16) 2)
  unfold State.ctxClear
  refine EngFrame.trans ?_ (State.leRefresh_frame _ _)
  refine EngFrame.trans ?_ (State.releaseAll_frame _ _ _ _)
  refine EngFrame.trans ?_ (State.leOrphan_frame _ _)
  exact (h1 _).setEng ((h1 _).run _).symm

end contexts

end Sys2Proof.Machine
end

section
/-! The instructions of a loop engine that read and write words (R195, R198, R201, R202), and those that choose the next word
(R193, R201). -/

namespace Sys2Proof.Machine

section data
variable {s : State} {e : Fin 16} {r : LeRun} {i : Instr} {cost : Nat} {vd va : Fin 32}

theorem execLeSts_staged {idx : Fin 64} (h : s.running e r 1) (hf : s.fetches e r (.leSts e vd idx)) :
    exec (.leSts e vd idx) s = .next (s.setRun e (some { (r.went 1) with st := r.st.set idx (r.get vd) })) :=
  next_congr (State.leReg_stays h hf rfl rfl rfl rfl)

theorem execLeOut_staged {idx : Fin 16} {w : Word} {l : Bool} (h : s.running e r 1) (hf : s.fetches e r (.leOut e vd idx))
    (hv : outValue (s.outBind (16 * e + r.ctx) idx) (r.get vd) = some (w, l)) :
    exec (.leOut e vd idx) s = .next (s.setRun e (some { (r.went 1) with outs := (idx.val, w) :: r.outs, limited := r.limited || l })) :=
  next_congr (State.leReg_stays h hf (r' := { (r.spent 1) with outs := (idx.val, w) :: r.outs, limited := r.limited || l })
    (by simp only [LeRun.ctx_spent, LeRun.get_spent, hv]; rfl) rfl rfl rfl)

theorem execLeOut_arith {idx : Fin 16} (h : s.running e r 1) (hf : s.fetches e r (.leOut e vd idx))
    (hv : outValue (s.outBind (16 * e + r.ctx) idx) (r.get vd) = none) :
    exec (.leOut e vd idx) s = .next (s.leAbort e { r with cyc := r.cyc + 1 } caARITH) :=
  next_congr (State.leReg_error h hf (by simp only [LeRun.ctx_spent, LeRun.get_spent, hv]))

/-! ### The table region -/

section table
variable {imm : BitVec 16} {a : Word} (h : s.running e r 3) (ha : a = r.get va + imm.signExtend 32)
include h ha

theorem execLeLdm_inside (hf : s.fetches e r (.leLdm e vd va imm)) (ht : s.tblAddr (16 * e + r.ctx) a = true) :
    exec (.leLdm e vd va imm) s = .next (s.leGot e r 3 vd (some (s.mword (leAddr e a.toNat), false))) :=
  next_congr (State.leReg_stays h hf (r' := (r.spent 3).put vd (s.mword (leAddr e a.toNat)))
    (by simp only [LeRun.ctx_spent, LeRun.get_spent, ← ha, ht, if_true]) rfl rfl (by simp only [Bool.or_false]; rfl))

theorem execLeStm_inside (hf : s.fetches e r (.leStm e vd va imm)) (ht : s.tblAddr (16 * e + r.ctx) a = true) :
    exec (.leStm e vd va imm) s = .next ((s.setMword (leAddr e a.toNat) (r.get vd)).setRun e (some (r.went 3))) :=
  next_congr (State.leExec_stays h hf (r' := r.spent 3)
    (by simp only [LeRun.ctx_spent, LeRun.get_spent, ← ha, ht, if_true]) rfl rfl rfl)

theorem execLeLdm_outside (hf : s.fetches e r (.leLdm e vd va imm)) (ht : s.tblAddr (16 * e + r.ctx) a = false) :
    exec (.leLdm e vd va imm) s = .next (s.leAbort e { r with cyc := r.cyc + 3 } caMEM) :=
  next_congr (State.leReg_error h hf (by simp only [LeRun.ctx_spent, LeRun.get_spent, ← ha, ht, Bool.false_eq_true, if_false]))

theorem execLeStm_outside (hf : s.fetches e r (.leStm e vd va imm)) (ht : s.tblAddr (16 * e + r.ctx) a = false) :
    exec (.leStm e vd va imm) s = .next (s.leAbort e { r with cyc := r.cyc + 3 } caMEM) :=
  next_congr (State.leExec_error h hf (by simp only [LeRun.ctx_spent, LeRun.get_spent, ← ha, ht, Bool.false_eq_true, if_false]))

end table

/-! ### IN -/

/-- The cycles an IN counts while it runs are those before the sample it takes. -/
theorem State.leAt_spent (s : State) (e : Nat) (r : LeRun) (cost : Nat) : s.leAt e (r.spent cost) - leTime cost = s.leAt e r := by
  simp only [State.leAt, leTime, LeRun.spent, ← Nat.add_assoc, Nat.add_mul]
  omega

/-- The execution after an IN has read `w` for the first time. -/
def LeRun.gotInput (r : LeRun) (vd idx : Nat) (w : Word) (q stale adc : Bool) : LeRun :=
  { r.put vd w with stale := r.stale || stale, satq := r.satq || q, adc := if adc then (idx, w) :: r.adc else r.adc }

section input
variable {idx : Fin 16} {wait : Nat} (hc : cost = if (s.inBind (16 * e + r.ctx) idx).cls = 1 then 6 + wait else 2)
  (h : s.running e r cost) (hf : s.fetches e r (.leIn e vd idx 0))
include hc h hf

theorem execLeIn_first {w : Word} {q : Bool} (hn : r.adc.find? (fun p => p.1 == idx.val) = none)
    (hv : inValue (s.inBind (16 * e + r.ctx) idx)
      (s.leSource (16 * e + r.ctx) (s.inBind (16 * e + r.ctx) idx) (s.leAt e r)).1 = some (w, q)) :
    exec (.leIn e vd idx wait) s = .next (s.setRun e (some ((r.went cost).gotInput vd idx w q
      (s.leSource (16 * e + r.ctx) (s.inBind (16 * e + r.ctx) idx) (s.leAt e r)).2 ((s.inBind (16 * e + r.ctx) idx).cls == 1)))) := by
  refine next_congr ?_
  simp only [State.inClsNow_run h.1, beq_iff_eq, ← hc]
  refine State.leReg_stays h hf (r' := (r.spent cost).gotInput vd idx w q
    (s.leSource (16 * e + r.ctx) (s.inBind (16 * e + r.ctx) idx) (s.leAt e r)).2 ((s.inBind (16 * e + r.ctx) idx).cls == 1)) ?_ rfl rfl rfl
  have hn' : (r.spent cost).adc.find? (fun p => p.1 == idx.val) = none := hn
  simp only [hn', LeRun.ctx_spent, State.leAt_spent, hv, LeRun.gotInput, beq_iff_eq]
  rfl

theorem execLeIn_again {p : Nat × Word} (hp : r.adc.find? (fun p => p.1 == idx.val) = some p) :
    exec (.leIn e vd idx wait) s = .next (s.setRun e (some ((r.went cost).put vd p.2))) := by
  refine next_congr ?_
  simp only [State.inClsNow_run h.1, beq_iff_eq, ← hc]
  have hp' : (r.spent cost).adc.find? (fun p => p.1 == idx.val) = some p := hp
  exact State.leReg_stays h hf (r' := (r.spent cost).put vd p.2) (by simp only [hp']) rfl rfl rfl

end input

/-! ### Branches and loops -/

theorem State.leBranch_goes {off : Nat} {cond : LeRun → Bool} (h : s.running e r 2) (hf : s.fetches e r i) (ho : off ≠ 0) :
    s.leBranch e i off cond = s.setRun e (some (r.goneTo 2 (if cond (r.spent 2) then r.pc + off else r.pc + 1))) := by
  refine (State.leReg_ok h hf (r' := if cond (r.spent 2) then { r.spent 2 with pc := r.pc + off } else r.spent 2) rfl).trans ?_
  split
  · have hne : r.pc + off ≠ r.pc := by omega
    simp only [LeRun.movedOn, LeRun.spent, if_neg hne]
    rfl
  · simp only [LeRun.movedOn, LeRun.spent, if_true]
    rfl

theorem State.on_eq_get_one (s : State) {f : Fld} (hw : f.w = 1) : s.on f = decide (s.get f = 1) := by
  have hlt := s.get_lt f
  rw [hw] at hlt
  unfold State.on
  by_cases h : s.get f = 1
  · simp [h]
  · have h0 : s.get f = 0 := by omega
    simp [h0]

theorem execLeLoop_enters {n len : Fin 1024} (h : s.running e r 2) (hf : s.fetches e r (.leLoop e n len)) (hl : len.val ≠ 0) :
    exec (.leLoop e n len) s = .next (s.setRun e (some { (r.goneTo 2 (r.pc + 1)) with
      pc := r.pc + 1, loops := (r.pc + 1, r.pc + 1 + len.val, n.val) :: r.loops })) := by
  refine next_congr ?_
  refine (State.leReg_ok h hf (r' := { r.spent 2 with loops := (r.pc + 1, r.pc + 1 + len.val, n.val) :: r.loops }) rfl).trans ?_
  have hne : r.pc + 1 ≠ r.pc + 1 + len.val := by omega
  simp only [LeRun.movedOn, LeRun.spent, if_true, loopNext, if_neg hne]
  rfl

end data

theorem loopNext_again {st en left : Nat} (l : List (Nat × Nat × Nat)) (h : 1 < left) :
    loopNext en ((st, en, left) :: l) = (st, (st, en, left - 1) :: l) := by simp only [loopNext, if_true, if_pos h]

theorem loopNext_over {left : Nat} (st en : Nat) (l : List (Nat × Nat × Nat)) (h : left ≤ 1) :
    loopNext en ((st, en, left) :: l) = loopNext en l := by simp only [loopNext, if_true, if_neg (Nat.not_lt.2 h)]

theorem loopNext_inside {en x : Nat} (st left : Nat) (l : List (Nat × Nat × Nat)) (h : x ≠ en) :
    loopNext x ((st, en, left) :: l) = (x, (st, en, left) :: l) := by simp only [loopNext, if_neg h]

end Sys2Proof.Machine
end

section
/-! END (R23, R189, R201): the words an execution commits, and what is recorded of it. -/

namespace Sys2Proof.Machine

/-! ### Words of RAM (R8) -/

section words
variable (s : State) {a b : Nat}

theorem State.byte_setMword_apart {x : Nat} (w : Word) (h : x < a ∨ a + 4 ≤ x) : (s.setMword a w).byte x = s.byte x := by
  simp only [State.setMword, State.byte_setByte]
  rw [if_neg (by omega), if_neg (by omega), if_neg (by omega), if_neg (by omega)]

theorem State.mword_setMword_apart (w : Word) (h : b + 4 ≤ a ∨ a + 4 ≤ b) : (s.setMword a w).mword b = s.mword b := by
  unfold State.mword
  rw [s.byte_setMword_apart w (by omega), s.byte_setMword_apart w (by omega), s.byte_setMword_apart w (by omega),
    s.byte_setMword_apart w (by omega)]

theorem State.mword_setMword (a : Nat) (w : Word) : (s.setMword a w).mword a = w := by
  simp only [State.mword, State.setMword, State.byte_setByte]
  apply BitVec.eq_of_toNat_eq
  have := w.isLt
  simp
  omega

theorem State.mword_of_mem {s t : State} (h : t.mem = s.mem) (a : Nat) : t.mword a = s.mword a := by
  simp only [State.mword, State.byte, h]

theorem State.mword_each_apart {α : Type} {at_ : α → Nat} {w : α → Word} {l : List α}
    (h : ∀ x ∈ l, b + 4 ≤ at_ x ∨ at_ x + 4 ≤ b) : (s.each l (fun s x => s.setMword (at_ x) (w x))).mword b = s.mword b := by
  induction l generalizing s with
  | nil => rfl
  | cons x l ih =>
    exact (ih _ (fun y hy => h y (List.mem_cons_of_mem x hy))).trans (State.mword_setMword_apart s _ (h x (by simp)))

/-- Words stored in turn at addresses their keys choose: the last one with its key is what is read. -/
theorem State.mword_stored {α : Type} (at_ : Nat → Nat) (key : α → Nat) (w : α → Word) (i : Nat) {l : List α}
    (h : ∀ x ∈ l, key x ≠ i → at_ i + 4 ≤ at_ (key x) ∨ at_ (key x) + 4 ≤ at_ i) :
    (s.each l.reverse (fun s x => s.setMword (at_ (key x)) (w x))).mword (at_ i)
      = ((l.find? (fun x => key x == i)).map w).getD (s.mword (at_ i)) := by
  induction l with
  | nil => rfl
  | cons x l ih =>
    rw [List.reverse_cons, State.each, List.foldl_append]
    by_cases hx : key x = i
    · rw [List.find?_cons_of_pos (by simpa using hx), ← hx]
      exact State.mword_setMword _ _ _
    · rw [List.find?_cons_of_neg (by simpa using hx)]
      refine (State.mword_setMword_apart _ _ (h x (by simp) hx)).trans (ih (fun y hy => h y (List.mem_cons_of_mem x hy)))

end words

/-! ### The commit (R189) -/

section commit
variable (s : State) (e : Nat) (r : LeRun)

/-- The state words and outputs of an execution stored. -/
def State.leStored : State :=
  (s.each r.st.zipIdx (fun s p => s.setMword (leS (16 * e + r.ctx) p.2) p.1)).each r.outs.reverse
    (fun s p => s.setMword (leO (16 * e + r.ctx) p.1) p.2)

/-- INIT and the HANDOVER flags of a commit. -/
def State.leMarked : State :=
  let s := s.set (LEX.CTX_STAT_INIT e r.ctx) 0
  let s := match r.sel with | some b => s.setB (LEX.CTX_STAT_HO_SEL e r.ctx) b | none => s
  match r.blend with | some b => s.setB (LEX.CTX_STAT_HO_BLEND e r.ctx) b | none => s

/-- The record of a context that has committed. -/
def State.leNoted : State :=
  s.modLectx (16 * e + r.ctx) (fun x => { x with ramping := r.ramp.getD x.ramping, doneAt := s.pidx + 1, abRun := 0 })

theorem State.leCommit_eq : s.leCommit e r =
    ((((s.leStored e r).leMarked e r).leNoted e r).iff r.hoInst (fun s => s.irq (LEX.page e) 6)).leUnblock (16 * e + r.ctx) := rfl

section same
variable {β : Type} (p : State → β) (hs : ∀ s f v, p (s.set f v) = p s)

theorem State.leStored_same (hm : ∀ s a w, p (s.setMword a w) = p s) : p (s.leStored e r) = p s :=
  (State.each_same p (fun _ _ => hm _ _ _) _).trans (State.each_same p (fun _ _ => hm _ _ _) _)

include hs

theorem State.leMarked_same : p (s.leMarked e r) = p s := by
  unfold State.leMarked
  cases r.sel <;> cases r.blend <;> simp only [State.setB_eq, hs]

/-- What neither a register write nor an event nor the blocks change is the same once the outputs are no longer blocked. -/
theorem State.unblocked_same (b : Bool) (c : Nat) (hi : ∀ s pg b, p (s.irq pg b) = p s)
    (hb : ∀ s : State, ∀ l, p { s with le := { s.le with blks := l } } = p s) :
    p ((s.iff b (fun s => s.irq (LEX.page e) 6)).leUnblock c) = p s := by
  refine ((State.each_same p (fun _ _ => hs _ _ _) _).trans (hb _ _)).trans ?_
  cases b
  · rfl
  · exact hi _ _ _

end same

theorem State.leCommit_eng (f : Nat) : (s.leCommit e r).eng f = s.eng f := by
  rw [State.leCommit_eq, State.unblocked_same _ e (fun t => t.eng f) (fun _ _ _ => rfl) _ _ (fun _ _ _ => rfl) (fun _ _ => rfl)]
  exact (State.leMarked_same _ e r (fun t => t.eng f) (fun _ _ _ => rfl)).trans
    (State.leStored_same s e r (fun t => t.eng f) (fun _ _ _ => rfl))

theorem State.leCommit_mem : (s.leCommit e r).mem = (s.leStored e r).mem := by
  rw [State.leCommit_eq, State.unblocked_same _ e State.mem (fun _ _ _ => rfl) _ _ (fun _ _ _ => rfl) (fun _ _ => rfl)]
  exact State.leMarked_same _ e r State.mem (fun _ _ _ => rfl)

theorem State.leCommit_doneAt : ((s.leCommit e r).lectx (16 * e + r.ctx)).doneAt = s.pidx + 1 := by
  rw [State.leCommit_eq, State.unblocked_same _ e (fun t => t.lectx (16 * e + r.ctx)) (fun _ _ _ => rfl) _ _ (fun _ _ _ => rfl) (fun _ _ => rfl)]
  have hp : ((s.leStored e r).leMarked e r).pidx = s.pidx :=
    (State.leMarked_same _ e r State.pidx (fun _ _ _ => rfl)).trans (State.leStored_same s e r State.pidx (fun _ _ _ => rfl))
  simp only [State.leNoted, State.modLectx, State.lectx_setLectx, if_true, hp]

theorem State.leMarked_init : (s.leMarked e r).get (LEX.CTX_STAT_INIT e r.ctx) = 0 := by
  have h0 : (s.set (LEX.CTX_STAT_INIT e r.ctx) 0).get (LEX.CTX_STAT_INIT e r.ctx) = 0 :=
    State.get_set_self _ _ _ (by simp)
  have hsel : ∀ (t : State) (b : Bool), (t.setB (LEX.CTX_STAT_HO_SEL e r.ctx) b).get (LEX.CTX_STAT_INIT e r.ctx)
      = t.get (LEX.CTX_STAT_INIT e r.ctx) := fun t b => t.get_setB_apart _ _ b (.inr (.inr (by simp)))
  have hbl : ∀ (t : State) (b : Bool), (t.setB (LEX.CTX_STAT_HO_BLEND e r.ctx) b).get (LEX.CTX_STAT_INIT e r.ctx)
      = t.get (LEX.CTX_STAT_INIT e r.ctx) := fun t b => t.get_setB_apart _ _ b (.inr (.inr (by simp)))
  unfold State.leMarked
  cases r.sel <;> cases r.blend <;> simp only [hsel, hbl, h0]

theorem State.leCommit_init (hr : r.ctx < 16) : (s.leCommit e r).get (LEX.CTX_STAT_INIT e r.ctx) = 0 := by
  have hk : ctxKept (LEX.CTX_STAT_INIT e r.ctx) := ctxStatus.kept ⟨e, r.ctx, hr, rfl, .inl (by simp)⟩
  have frame : State.EngFrame ctxKept ((s.leStored e r).leMarked e r) (s.leCommit e r) := by
    rw [State.leCommit_eq]
    refine State.EngFrame.trans (State.EngFrame.iff (f := fun s => s.irq (LEX.page e) 6) ?_ ?_) (State.leUnblock_frame _ _)
    · exact (State.EngFrame.refl _ _).setLectx _ _
    · exact (State.EngFrame.refl _ _).event e 6
  rw [frame.get _ hk, State.leMarked_init]

/-- The state words of an execution as END stores them: the last word with an index is the one there. -/
theorem find?_zipIdx (l : List Word) {i : Nat} (hi : i < l.length) :
    ((l.zipIdx.reverse.find? (fun p => p.2 == i)).map (·.1)) = some (l.getD i 0) := by
  cases hf : l.zipIdx.reverse.find? (fun p => p.2 == i) with
  | none =>
    have hm : (l[i], i) ∈ l.zipIdx.reverse := by
      rw [List.mem_reverse, List.mk_mem_zipIdx_iff_getElem?]
      exact List.getElem?_eq_getElem hi
    exact absurd (List.find?_eq_none.1 hf _ hm) (by simp)
  | some p =>
    obtain ⟨w, j⟩ := p
    have hj : j = i := by simpa using List.find?_some hf
    have hm := List.mem_of_find?_eq_some hf
    rw [List.mem_reverse, List.mk_mem_zipIdx_iff_getElem?] at hm
    simp only [Option.map_some, List.getD_eq_getElem?_getD, ← hj, hm, Option.getD_some]

theorem State.leStored_state (hl : r.st.length = 64) {i : Nat} (hi : i < 64) :
    (s.leStored e r).mword (leS (16 * e + r.ctx) i) = r.st.getD i 0 := by
  unfold State.leStored
  rw [State.mword_each_apart _ (fun p _ => by simp only [leS, leO]; omega)]
  have h := State.mword_stored s (leS (16 * e + r.ctx)) (fun p : Word × Nat => p.2) (·.1) i (l := r.st.zipIdx.reverse)
    (fun p _ hp => by simp only [leS]; omega)
  rw [List.reverse_reverse, find?_zipIdx r.st (hl ▸ hi)] at h
  exact h

theorem State.leStored_out {i : Nat} (hl : r.st.length = 64) : (s.leStored e r).mword (leO (16 * e + r.ctx) i)
    = ((r.outs.find? (fun p => p.1 == i)).map (·.2)).getD (s.mword (leO (16 * e + r.ctx) i)) := by
  unfold State.leStored
  rw [State.mword_stored _ (leO (16 * e + r.ctx)) (fun p : Nat × Word => p.1) (·.2) i (fun p _ hp => by simp only [leO]; omega),
    State.mword_each_apart]
  intro p hp
  have := (List.mem_zipIdx' hp).1
  simp only [leS, leO]
  omega

end commit

/-! ### END (R23, R189, R201) -/

section leEnd
variable {s : State} {e : Fin 16} {r : LeRun} (h : s.running e r 4) (hf : s.fetches e r (.leEnd e))

/-- At or after the closing instant the window's cycles are over. -/
theorem execLeEnd_closed (hc : s.bndAt + s.get TBS.PER_WIN0_W_LE * t10 ≤ s.now) :
    exec (.leEnd e) s = .next (s.setEng e { s.eng e with used := max (s.eng e).used s.leWin }) :=
  next_congr (by rw [decide_eq_false (Nat.not_lt.2 hc), if_neg Bool.false_ne_true])

variable (hc : s.now < s.bndAt + s.get TBS.PER_WIN0_W_LE * t10)
include h hf hc

theorem execLeEnd_late (hl : s.leLate e { r with cyc := r.cyc + 4 } = true) :
    exec (.leEnd e) s = .next (s.setRun e (some { r with cyc := r.cyc + 4 })) := by
  obtain ⟨hrun, hcyc⟩ := h
  refine next_congr ?_
  simp only [decide_eq_true hc, if_true, State.leEndStep, hrun, hf.1, hf.2, Nat.not_lt.2 hcyc, hl, bne_self_eq_false,
    Bool.false_eq_true, if_false]

theorem execLeEnd_commits (hl : s.leLate e { r with cyc := r.cyc + 4 } = false) :
    exec (.leEnd e) s = .next ((s.leCommit e (r.spent 4)).runEnd e (r.spent 4)) := by
  obtain ⟨hrun, hcyc⟩ := h
  refine next_congr ?_
  simp only [decide_eq_true hc, if_true, State.leEndStep, hrun, hf.1, hf.2, Nat.not_lt.2 hcyc, hl, bne_self_eq_false,
    Bool.false_eq_true, if_false]
  rfl

end leEnd

/-! ### The end of an execution -/

section runEnd
variable (s : State) (e : Nat) (r : LeRun)

theorem State.runEnd_eng : (s.runEnd e r).eng e = { s.eng e with run := none, used := (s.eng e).used + 16 + r.cyc } :=
  (State.eng_setEng s e e _).trans (if_pos rfl)

theorem State.runEnd_mem : (s.runEnd e r).mem = s.mem := rfl

theorem State.runEnd_lectx (c : Nat) : (s.runEnd e r).lectx c = s.lectx c := rfl

theorem State.runEnd_init : (s.runEnd e r).get (LEX.CTX_STAT_INIT e r.ctx) = s.get (LEX.CTX_STAT_INIT e r.ctx) := by
  unfold State.runEnd
  rw [State.get_setB_apart _ _ _ _ (.inr (.inr (by simp))), State.get_set_apart _ _ _ _ (.inr (.inl (by simp)))]
  rfl

end runEnd

end Sys2Proof.Machine
end

section
/-! The ends of an execution without a commit: a poisoned word (R450) and an abort (R211, R212); and the settlement of the
data and control-flow instructions. -/

namespace Sys2Proof.Machine

open State (EngFrame)

/-! ### What an engine fetches (R186, R201) -/

section
variable (s : State) (e : Nat) (i : Instr)

/-- The outcome of a command is that of instruction `i` executed on engine `e`, with some cost and some effect. -/
def IsLeExec (o : Host.Outcome State Fault Refusal) : Prop := ∃ cost f, o = .next (s.leExec e i cost f)

theorem isLeExec_leOp (cost vd : Nat) (f : LeRun → LeRes) : IsLeExec s e i (.next (s.leOp e i cost vd f)) :=
  ⟨cost, _, next_congr (by unfold State.leOp State.leReg; rfl)⟩

theorem isLeExec_leBranch (off : Nat) (cond : LeRun → Bool) : IsLeExec s e i (.next (s.leBranch e i off cond)) :=
  ⟨2, _, next_congr (by unfold State.leBranch State.leReg; rfl)⟩

theorem isLeExec_lePiPid (cost vd va sb cb : Nat) (ff pid : Bool) :
    IsLeExec s e i (.next (s.lePiPid e i cost vd va sb cb ff pid)) :=
  ⟨cost, _, next_congr (by unfold State.lePiPid State.leReg; rfl)⟩

end

/-- Every instruction an engine fetches but END is one `leExec` of that engine (R201). The cases are the arms of `leDecode` in
its order: END, ADDI, LDM and STM, no word; then the branches, PI and PID, the arms that are a `leReg` or `leExec` as they
stand, and the operations of R201. -/
theorem exec_isLeExec {e : Fin 16} {w : Word} {i : Instr} (h : leDecode e w = some i) (s : State) :
    i = .leEnd e ∨ IsLeExec s e i (exec i s) := by
  unfold leDecode at h
  dsimp only at h
  split at h
  case h_1 => exact .inl (keepIf_eq_some.1 h).2.symm
  case h_17 => cases h; exact .inr (isLeExec_leOp ..)
  case h_25 | h_26 => cases h; exact .inr ⟨_, _, rfl⟩
  case h_48 => cases h
  all_goals obtain ⟨-, rfl⟩ := keepIf_eq_some.1 h
  all_goals right
  case h_30 | h_31 | h_32 => exact isLeExec_leBranch ..
  case h_34 | h_35 => exact isLeExec_lePiPid ..
  case h_2 | h_23 | h_27 | h_28 | h_33 | h_36 | h_37 | h_38 | h_39 | h_40 | h_41 | h_42 | h_43 | h_44 | h_45 | h_46 | h_47 =>
    exact ⟨_, _, rfl⟩
  all_goals exact isLeExec_leOp ..

/-! ### A poisoned word (R450) -/

section poisoned
variable (s : State) (c : Nat)

theorem State.enCleared_frame : EngFrame ctxStatus s (s.enCleared c) := by
  refine (EngFrame.refl _ s).set (fun g hg => .inl fun he => ?_) (fun p => by simp only [LEX.page]; omega) _
  exact hg.ne (c / 16) (o := 0x44) (by decide) (by simp only [LEX.page] at *; omega)

theorem State.ctxClear_status : EngFrame ctxStatus s (s.ctxClear c) :=
  (s.enCleared_frame c).trans ((s.ctxClear_frame c).mono fun _ => .inl)

theorem State.runEnd_run {e : Nat} (f : Nat) (r : LeRun) (h : (s.eng e).run = none) : ((s.runEnd f r).eng e).run = none := by
  refine (congrArg LeEng.run (s.eng_setEng f e _)).trans ?_
  split
  · rfl
  · exact h

/-- A stop of a context leaves an engine that runs none without one. -/
theorem State.leStop_run {e : Nat} (h : (s.eng e).run = none) : ((s.leStop c).eng e).run = none := by
  have ended : ∀ t : State, (t.eng e).run = none → ((t.setEng (c / 16)
      { t.eng (c / 16) with todo := (t.eng (c / 16)).todo.filter (· != c) }).eng e).run = none := fun t ht =>
    (((EngFrame.refl (fun _ => False) t).setEng (e := c / 16)
      (x := { t.eng (c / 16) with todo := (t.eng (c / 16)).todo.filter (· != c) }) rfl).run e).trans ht
  have stopped : ∀ t : State, (t.eng e).run = none →
      ((if t.ctxEn c then ((t.moveCancelCtx c).leBlock c false).ctxClear c else t).eng e).run = none := by
    intro t ht
    have hb : EngFrame ctxKept t ((t.moveCancelCtx c).leBlock c false) := (t.moveCancelCtx_frame c).trans (State.leBlock_frame _ c false)
    have hs := ((hb.mono fun _ => ctxStatus.kept).trans (State.ctxClear_status _ c)).ite (c := t.ctxEn c = true) (EngFrame.refl _ t)
    exact (hs.run e).trans ht
  unfold State.leStop
  refine stopped _ (ended _ ?_)
  split
  · split
    · exact s.runEnd_run _ _ h
    · exact h
  · exact h

theorem State.leUe_run (e : Nat) (r : LeRun) : ((s.leUe e r).eng e).run = none :=
  State.leStop_run _ _ (by rw [State.runEnd_eng])

theorem State.leUe_byte (e : Nat) (r : LeRun) (a : Nat) : (s.leUe e r).byte a = s.byte a := by
  rw [State.byte, State.leUe_keeps (State.sameMem_closed s.mem) e r rfl, State.byte]

end poisoned

/-- The engine ends the execution at a poisoned word, END included where it comes before the close. -/
theorem exec_poisoned {e : Fin 16} {i : Instr} {s : State} {r : LeRun} (h : (s.eng e).run = some r) (hf : s.leFetch e r = some i)
    (hp : s.lePoisoned e r i = true) (hc : s.now < s.bndAt + s.get TBS.PER_WIN0_W_LE * t10) : exec i s = .next (s.leUe e r) := by
  have hd : leDecode e (s.mword (leAddr e (4 * r.pc))) = some i := by
    rw [State.leFetch, Fin.ofNat_eq_cast, Fin.cast_val_eq_self] at hf
    exact hf
  rcases exec_isLeExec hd s with rfl | ⟨cost, f, hx⟩
  · refine next_congr ?_
    simp only [decide_eq_true hc, if_true, State.leEndStep, h, hf, hp, bne_self_eq_false, Bool.false_eq_true, if_false]
  · rw [hx, State.leExec_poisoned h hf hp]

/-! ### Aborts (R211, R212) -/

section aborts
variable (s : State) (c cause win : Nat)

/-- The record of an abort: its cause, ABORTED, the engine's map, the count and the event. -/
def State.abortNoted : State :=
  let s := (s.set (LEX.CTX_STAT_CAUSE (c / 16) (c % 16)) cause).set (LEX.CTX_STAT_ABORTED (c / 16) (c % 16)) 1
  let s := s.set (LEX.ABORT_MAP_CTX (c / 16)) (s.get (LEX.ABORT_MAP_CTX (c / 16)) ||| 1 <<< (c % 16))
  (s.bump (LEX.CTX_ABCNT_CNT (c / 16) (c % 16))).irq (LEX.page (c / 16)) 0

/-- An abort's record, its reaction and the blocks that follow from it, without the disable of STOP. -/
def State.abortBlocked : State :=
  let x := (s.abortNoted c cause).ctxReaction c
  x.2.iff (win != 3 && (x.1 != 0 || win == 2)) (fun s => s.leBlock c (x.1 != 2))

theorem State.ctxAbort_eq : s.ctxAbort c cause win = if ((s.abortNoted c cause).ctxReaction c).1 = 2
    then ((s.abortBlocked c cause win).moveCancelCtx c).ctxClear c else s.abortBlocked c cause win := rfl

theorem State.ctxReaction_frame : EngFrame ctxKept s (s.ctxReaction c).2 := by
  have h0 := fun x => (EngFrame.refl ctxKept s).setLectx c x
  simp only [State.ctxReaction, apply_ite Prod.snd]
  exact EngFrame.ite (EngFrame.ite (EngFrame.ite ((h0 _).event _ _) (h0 _)) (h0 _)) (h0 _)

/-- The disable of STOP: CTX_ACT chooses it whatever the aborts before (R212). -/
theorem State.ctxReaction_act (h : s.get (LEX.CTX_ACT_ACT (c / 16) (c % 16)) = 2) : (s.ctxReaction c).1 = 2 := by
  simp [State.ctxReaction, h]

theorem State.abortBlocked_frame : EngFrame ctxKept (s.abortNoted c cause) (s.abortBlocked c cause win) :=
  EngFrame.iff (State.ctxReaction_frame _ c) (State.leBlock_frame _ c _)

theorem State.ctxAbort_frame : EngFrame ctxStatus (s.abortNoted c cause) (s.ctxAbort c cause win) := by
  have hb := (s.abortBlocked_frame c cause win).mono fun _ => ctxStatus.kept
  rw [State.ctxAbort_eq]
  refine EngFrame.ite ?_ hb
  exact (hb.trans ((State.moveCancelCtx_frame _ c).mono fun _ => ctxStatus.kept)).trans (State.ctxClear_status _ c)

/-- Beside the context's status, the record writes ABORT_MAP, the context's count and the event. -/
theorem State.abortNoted_get (g : Fld) (hm : g.addr ≠ LEX.ABORT_MAP (c / 16)) (hn : g.addr ≠ LEX.CTX_ABCNT (c / 16) (c % 16))
    (hi : g.addr ≠ LEX.page (c / 16) + 0x14) : (s.abortNoted c cause).get g =
      ((s.set (LEX.CTX_STAT_CAUSE (c / 16) (c % 16)) cause).set (LEX.CTX_STAT_ABORTED (c / 16) (c % 16)) 1).get g := by
  unfold State.abortNoted State.bump
  rw [State.get_irq_of_ne _ _ _ _ hi, State.get_set_apart _ _ _ _ (.inl (Ne.symm hn)), State.get_set_apart _ _ _ _ (.inl (Ne.symm hm))]

theorem State.abortNoted_stat {g : Fld} (hg : g.addr = LEX.CTX_STAT (c / 16) (c % 16)) : (s.abortNoted c cause).get g =
    ((s.set (LEX.CTX_STAT_CAUSE (c / 16) (c % 16)) cause).set (LEX.CTX_STAT_ABORTED (c / 16) (c % 16)) 1).get g :=
  State.abortNoted_get s c cause g (by rw [hg]; simp only [LEX.ABORT_MAP, LEX.CTX_STAT]; omega)
    (by rw [hg]; simp only [LEX.CTX_ABCNT, LEX.CTX_STAT]; omega) (by rw [hg]; simp only [LEX.page, LEX.CTX_STAT]; omega)

theorem State.abortNoted_cause (h : cause < 16) : (s.abortNoted c cause).get (LEX.CTX_STAT_CAUSE (c / 16) (c % 16)) = cause := by
  rw [State.abortNoted_stat _ _ _ rfl, State.get_set_apart _ _ _ _ (.inr (.inr (by simp))), State.get_set_self _ _ _ (by simp)]
  exact Nat.mod_eq_of_lt h

theorem State.abortNoted_aborted : (s.abortNoted c cause).get (LEX.CTX_STAT_ABORTED (c / 16) (c % 16)) = 1 := by
  rw [State.abortNoted_stat _ _ _ rfl, State.get_set_self _ _ _ (by simp)]
  rfl

theorem State.abortNoted_act (k : Nat) : (s.abortNoted c cause).get (LEX.CTX_ACT_ACT (c / 16) k) = s.get (LEX.CTX_ACT_ACT (c / 16) k) := by
  rw [State.abortNoted_get _ _ _ _ (by simp only [LEX.ABORT_MAP]; omega) (by simp only [LEX.CTX_ABCNT]; omega)
      (by simp only [LEX.page]; omega),
    State.get_set_apart _ _ _ _ (.inl (by simp only; omega)), State.get_set_apart _ _ _ _ (.inl (by simp only; omega))]

theorem State.abortNoted_raised : (s.abortNoted c cause).raised (LEX.page (c / 16)) 0 := State.raised_irq _ _ _ (by decide)

theorem State.abortNoted_eng (e : Nat) : (s.abortNoted c cause).eng e = s.eng e := by
  simp only [State.abortNoted, State.bump, State.eng, State.irq, State.setReg_le, State.set_eq]

theorem State.ctxEn_ctxClear : (s.ctxClear c).ctxEn c = false := by
  have hk : ctxKept (LEX.CTX_EN_EN (c / 16)) := .inr ⟨c / 16, rfl⟩
  have hc : c % 16 < 16 := Nat.mod_lt _ (by decide)
  rw [State.ctxEn, (s.ctxClear_frame c).get _ hk, State.enCleared, State.get_set_self _ _ _ (by simp)]
  simp [Nat.testBit_mod_two_pow, Nat.testBit_and, Nat.testBit_xor, Nat.testBit_shiftLeft, hc, show (65535 : Nat) = 2 ^ 16 - 1 from rfl,
    Nat.testBit_two_pow_sub_one, -Nat.reducePow, -Nat.reduceSub]

theorem State.ctxAbort_disables (h : s.get (LEX.CTX_ACT_ACT (c / 16) (c % 16)) = 2) : (s.ctxAbort c cause win).ctxEn c = false := by
  rw [State.ctxAbort_eq, if_pos (State.ctxReaction_act _ c (by rw [State.abortNoted_act, h])), State.ctxEn_ctxClear]

end aborts

end Sys2Proof.Machine
end

section
/-! The settlement of the data and control-flow instructions of the loop engines (R23, R189, R193, R195, R198, R201, R202, R211,
R450). -/

namespace Sys2Proof.Machine

section data
variable {s : State} {e : Fin 16} {r : LeRun} {vd va : Fin 32}

/-- IN, a first time: what the register, SATQ, the stale flag, the cycles and the ADC values read are then. -/
theorem execLeIn_reads {idx : Fin 16} {wait cost : Nat} {w : Word} {q : Bool}
    (hc : cost = if (s.inBind (16 * e + r.ctx) idx).cls = 1 then 6 + wait else 2) (h : s.running e r cost)
    (hn : r.adc.find? (fun p => p.1 == idx.val) = none)
    (hv : inValue (s.inBind (16 * e + r.ctx) idx)
      (s.leSource (16 * e + r.ctx) (s.inBind (16 * e + r.ctx) idx) (s.leAt e r)).1 = some (w, q))
    (hf : s.fetches e r (.leIn e vd idx 0)) :
    ∃ r', exec (.leIn e vd idx wait) s = .next (s.setRun e (some r')) ∧ r'.get vd = (if vd.val < r.v.length then w else r.get vd) ∧
      r'.satq = (r.satq || q) ∧
      r'.stale = (r.stale || (s.leSource (16 * e + r.ctx) (s.inBind (16 * e + r.ctx) idx) (s.leAt e r)).2) ∧ r'.cyc = r.cyc + cost ∧
      ((s.inBind (16 * e + r.ctx) idx).cls = 1 → r'.adc = (idx.val, w) :: r.adc) := by
  refine ⟨_, execLeIn_first hc h hf hn hv, ?_, rfl, rfl, rfl, fun hcls => ?_⟩
  · refine ((r.went cost).get_put vd vd w).trans ?_
    simp only [true_and]
    rfl
  · exact if_pos (beq_iff_eq.2 hcls)

/-- END: the words and the record a commit leaves. -/
theorem execLeEnd_committed (h : s.running e r 4) (hf : s.fetches e r (.leEnd e))
    (hc : s.now < s.bndAt + s.get TBS.PER_WIN0_W_LE * t10) (hl : s.leLate e { r with cyc := r.cyc + 4 } = false)
    (hctx : r.ctx < 16) (hst : r.st.length = 64) :
    ∃ t, exec (.leEnd e) s = .next t ∧ (t.eng e).run = none ∧ (t.eng e).used = (s.eng e).used + 16 + (r.cyc + 4) ∧
      (∀ i, i < 64 → t.mword (leS (16 * e + r.ctx) i) = r.st.getD i 0) ∧
      (∀ i w, r.outs.find? (fun p => p.1 == i) = some (i, w) → t.mword (leO (16 * e + r.ctx) i) = w) ∧
      (∀ i, i < 16 → r.outs.find? (fun p => p.1 == i) = none →
        t.mword (leO (16 * e + r.ctx) i) = s.mword (leO (16 * e + r.ctx) i)) ∧
      t.get (LEX.CTX_STAT_INIT e r.ctx) = 0 ∧ (t.lectx (16 * e + r.ctx)).doneAt = s.pidx + 1 := by
  have word : ∀ a, ((s.leCommit e (r.spent 4)).runEnd e (r.spent 4)).mword a = (s.leStored e (r.spent 4)).mword a := fun a =>
    State.mword_of_mem ((State.runEnd_mem _ e (r.spent 4)).trans (s.leCommit_mem e (r.spent 4))) a
  have out : ∀ i, (s.leStored e (r.spent 4)).mword (leO (16 * e + r.ctx) i) =
      ((r.outs.find? (fun p => p.1 == i)).map (·.2)).getD (s.mword (leO (16 * e + r.ctx) i)) := fun i =>
    s.leStored_out e (r.spent 4) (i := i) hst
  refine ⟨_, execLeEnd_commits h hf hc hl, ?_, ?_, fun i hi => ?_, fun i w hw => ?_, fun i _ hn => ?_, ?_, ?_⟩
  · rw [State.runEnd_eng]
  · rw [State.runEnd_eng, State.leCommit_eng]; rfl
  · rw [word]; exact s.leStored_state e (r.spent 4) hst hi
  · rw [word, out, hw]; rfl
  · rw [word, out, hn]; rfl
  · exact (State.runEnd_init _ e (r.spent 4)).trans (s.leCommit_init e (r.spent 4) hctx)
  · exact (congrArg LeCtx.doneAt (State.runEnd_lectx _ e (r.spent 4) _)).trans (s.leCommit_doneAt e (r.spent 4))

/-- An abort commits nothing: its record, and the disable STOP asks for. -/
theorem State.leAbort_recorded (e cause : Nat) (s : State) (r : LeRun) (hctx : r.ctx < 16) (hcause : cause < 16) :
    (s.leAbort e r cause).mem = s.mem ∧ ((s.leAbort e r cause).eng e).run = none ∧
    (s.leAbort e r cause).get (LEX.CTX_STAT_CAUSE e r.ctx) = cause ∧
    (s.leAbort e r cause).get (LEX.CTX_STAT_ABORTED e r.ctx) = 1 ∧ (s.leAbort e r cause).raised (LEX.page e) 0 ∧
    (s.get (LEX.CTX_ACT_ACT e r.ctx) = 2 → (s.leAbort e r cause).ctxEn (16 * e + r.ctx) = false) := by
  have he : (16 * e + r.ctx) / 16 = e := by omega
  have hk : (16 * e + r.ctx) % 16 = r.ctx := by omega
  have frame := (s.runEnd e r).ctxAbort_frame (16 * e + r.ctx) cause 0
  have cause' := (s.runEnd e r).abortNoted_cause (16 * e + r.ctx) cause hcause
  have aborted := (s.runEnd e r).abortNoted_aborted (16 * e + r.ctx) cause
  have raised := (s.runEnd e r).abortNoted_raised (16 * e + r.ctx) cause
  have disables := (s.runEnd e r).ctxAbort_disables (16 * e + r.ctx) cause 0
  rw [he, hk] at cause' aborted disables
  rw [he] at raised
  refine ⟨State.leAbort_keeps (State.sameMem_closed s.mem) e r cause rfl, (frame.run e).trans ?_, (frame.get _ ?_).trans cause',
    (frame.get _ ?_).trans aborted, frame.raised _ _ raised, fun h => disables ?_⟩
  · rw [State.abortNoted_eng, State.runEnd_eng]
  · exact ⟨e, r.ctx, hctx, rfl, .inl (by simp)⟩
  · exact ⟨e, r.ctx, hctx, rfl, .inl (by simp)⟩
  · unfold State.runEnd
    rw [State.get_setB_apart _ _ _ _ (.inl (by simp only; omega)), State.get_set_apart _ _ _ _ (.inl (by simp only; omega))]
    exact h

end data

/-- Settles O31: each instruction by its effect on the execution, END by the words it stores, an abort and a poisoned word by
what the operations on contexts leave alone. -/
theorem loopDataAndControlFlow : Obligations.LoopDataAndControlFlow := by
  unfold Obligations.LoopDataAndControlFlow
  refine ⟨fun e vd va s r => ⟨fun h idx => ⟨fun hf => leOp_next h hf rfl, fun hf => leOp_next h hf rfl, execLeSts_staged h,
        fun hf => leOp_next h hf rfl⟩,
      fun h idx => ⟨fun w l hv hf => execLeOut_staged h hf hv, fun hv hf => execLeOut_arith h hf hv⟩,
      fun h imm a ha => ⟨fun ht => ⟨fun hf => execLeLdm_inside h ha hf ht, fun hf => execLeStm_inside h ha hf ht⟩,
        fun ht => ⟨fun hf => execLeLdm_outside h ha hf ht, fun hf => execLeStm_outside h ha hf ht⟩⟩,
      fun idx wait cost w q hc h hn hv hf => execLeIn_reads hc h hn hv hf,
      fun idx wait cost p hc h hp hf => execLeIn_again hc h hf hp⟩,
    fun e off s r h ho => ⟨fun hf => next_congr (State.leBranch_goes h hf ho), fun hf => next_congr ?_,
      fun va vb c t hf => next_congr (State.leBranch_goes h hf ho), fun n len hl hf => execLeLoop_enters h hf hl⟩,
    fun st en left l => ⟨loopNext_again l, loopNext_over st en l, fun x => loopNext_inside st left l⟩,
    fun e s r h hf => ⟨execLeEnd_closed, execLeEnd_late h hf⟩,
    fun e s r h hf hc hl hctx hst _ => execLeEnd_committed h hf hc hl hctx hst,
    fun e s r hrun hcyc hf => next_congr (State.leExec_beyond hrun hf hcyc _),
    fun e i s r hrun hf hp hc => ⟨exec_poisoned hrun hf hp hc, s.leUe_run e r, s.leUe_byte e r⟩,
    fun e cause s r _ hctx _ hcause => s.leAbort_recorded e cause r hctx (by omega)⟩
  refine (State.leBranch_goes h hf ho).trans ?_
  rw [State.on_eq_get_one _ rfl, if_congr decide_eq_true_iff rfl rfl, LeRun.ctx_spent]

end Sys2Proof.Machine
end

section
/-! Moving a context to another engine (R213, R214), and the self-test of an engine (R215). -/

namespace Sys2Proof.Machine

section move
variable {s : State} {e : Fin 16} {v : Word}

/-- The state in which an accepted move is being checked. -/
def State.moveBegun (s : State) (e : Nat) (v : Word) : State :=
  ((((s.setEng e { s.eng e with move := some ⟨s.movePairs e v, getBits v 4 4, getBits v 12 1 == 1, 0⟩ }).set
    (LEX.MOVE_STAT_STATE e) 1).set (LEX.MOVE_STAT_CODE e) 0).set (LEX.ENG_STAT_MOVING e) 1).set (LEX.ENG_STAT_MOVING (getBits v 4 4)) 1

/-- The first condition of R213 a move meets, with its code. -/
abbrev State.moveRefusal (s : State) (e : Nat) (v : Word) : Option (Bool × Nat) :=
  (s.moveConds e (getBits v 4 4) (getBits v 12 1 == 1) (s.movePairs e v)
    (s.on (LEX.ENG_STAT_MOVING e) || s.on (LEX.ENG_STAT_MOVING (getBits v 4 4)))).find? (fun c => c.1)

section
variable (ht : s.takes (LEX.page e)) (hv : getBits v 13 1 = 1) (hd : getBits v 4 4 ≠ e.val)
include ht hv hd

/-- A move to another engine is judged by the table of R213 alone. -/
theorem execCtxMove_eq : exec (.ctxMove e v) s = .next (match s.moveRefusal e v with
    | some c => if (s.eng e).move.isSome then s.refuse (LEX.page e) 0x74 c.2
        else ((s.refuse (LEX.page e) 0x74 c.2).set (LEX.MOVE_STAT_STATE e) 4).set (LEX.MOVE_STAT_CODE e) c.2
    | none => s.moveBegun e v) := by
  refine next_congr ?_
  rw [State.moveWrite, if_neg (by omega), State.judge_takes ht (by simp)]
  have hself : (getBits v 4 4 == e.val) = false := beq_eq_false_iff_ne.2 hd
  simp only [List.find?_cons, hself]
  rfl

theorem execCtxMove_refused {c : Bool × Nat} (hc : s.moveRefusal e v = some c) (hm : (s.eng e).move = none) :
    exec (.ctxMove e v) s =
      .next (((s.refuse (LEX.page e) 0x74 c.2).set (LEX.MOVE_STAT_STATE e) 4).set (LEX.MOVE_STAT_CODE e) c.2) := by
  rw [execCtxMove_eq ht hv hd, hc, hm]
  rfl

theorem execCtxMove_begun (hc : s.moveRefusal e v = none) : exec (.ctxMove e v) s = .next (s.moveBegun e v) := by
  rw [execCtxMove_eq ht hv hd, hc]

end

/-- MOVE_STAT and both engines report a move that is being checked. -/
theorem State.moveBegun_reports (hd : getBits v 4 4 ≠ e.val) :
    (s.moveBegun e v).get (LEX.MOVE_STAT_STATE e) = 1 ∧ (s.moveBegun e v).get (LEX.ENG_STAT_MOVING e) = 1 ∧
      (s.moveBegun e v).get (LEX.ENG_STAT_MOVING (getBits v 4 4)) = 1 := by
  unfold State.moveBegun
  refine ⟨?_, ?_, State.get_set_self _ _ _ (by simp)⟩
  · rw [State.get_set_apart _ _ _ _ (.inl (by simp only; omega)), State.get_set_apart _ _ _ _ (.inl (by simp only; omega)),
      State.get_set_apart _ _ _ _ (.inr (.inr (by simp))), State.get_set_self _ _ _ (by simp)]
    rfl
  · rw [State.get_set_apart _ _ _ _ (.inl (by simp only; omega)), State.get_set_self _ _ _ (by simp)]
    rfl

theorem State.moveBegun_eng : ((s.moveBegun e v).eng e).move
    = some ⟨s.movePairs e v, getBits v 4 4, getBits v 12 1 == 1, 0⟩ :=
  congrArg LeEng.move ((s.eng_setEng e e _).trans (if_pos rfl))

end move

/-! ### The checks of a move (R214) -/

section checks
variable {s : State} {e : Fin 16}

theorem execMoveCheckDone_pends {m : LeMove} (hm : (s.eng e).move = some m) (hp : m.phase = 0)
    (hc : (s.moveConds e m.eng m.all m.ctxs false).find? (fun c => c.1) = none) :
    exec (.moveCheckDone e) s
      = .next ((s.setEng e { s.eng e with move := some { m with phase := 1 } }).set (LEX.MOVE_STAT_STATE e) 2) :=
  next_congr (by simp only [State.moveChecked, hm, hp, hc, if_true])

theorem execMoveCheckDone_idle (hm : (s.eng e).move = none) : exec (.moveCheckDone e) s = .next s :=
  next_congr (by simp only [State.moveChecked, hm])

end checks

/-! ### The self-test (R215) -/

section test
variable {s : State} {e : Fin 16} {v : Word}

/-- The state in which an engine is being tested. -/
def State.testBegun (s : State) (e : Nat) : State := (s.set (LEX.ENG_STAT_TESTING e) 1).set (LEX.ENG_STAT_TEST_PASS e) 0

theorem execEngineTest_refused (ht : s.takes (LEX.page e)) (hv : getBits v 0 1 = 1) (he : s.enabledOf e ≠ []) :
    exec (.engineTest e v) s = .next (s.refuse (LEX.page e) 0x7C lSTATE) := by
  have hne : (s.enabledOf e).isEmpty = false := by simpa using he
  refine next_congr ?_
  rw [State.testWrite, if_neg (by omega), hne]
  simp only [Bool.not_false, Bool.true_or]
  exact State.judge_first (c := (true, lSTATE)) ht rfl (by simp)

theorem execEngineTest_begun (ht : s.takes (LEX.page e)) (hv : getBits v 0 1 = 1) (he : s.enabledOf e = [])
    (htest : s.get (LEX.ENG_STAT_TESTING e) = 0) (hmove : s.get (LEX.ENG_STAT_MOVING e) = 0)
    (hscan : ∀ c ∈ ctxsOf e, (s.lectx c).scan = none) : exec (.engineTest e v) s = .next (s.testBegun e) := by
  have hany : (ctxsOf e).any (fun c => (s.lectx c).scan.isSome) = false := by
    rw [List.any_eq_false]
    exact fun c hc => by simp [hscan c hc]
  refine next_congr ?_
  rw [State.testWrite, if_neg (by omega), he, State.on_of_get_zero htest, State.on_of_get_zero hmove, hany]
  exact State.judge_takes ht (by simp)

theorem State.testBegun_testing (s : State) (e : Nat) : (s.testBegun e).get (LEX.ENG_STAT_TESTING e) = 1 := by
  unfold State.testBegun
  rw [State.get_set_apart _ _ _ _ (.inr (.inr (by simp))), State.get_set_self _ _ _ (by simp)]
  rfl

theorem State.testBegun_regs (s : State) (e : Nat) : (s.testBegun e).sameRegsBut s [LEX.ENG_STAT e] := by
  intro a ha
  have hne : a ≠ LEX.ENG_STAT e := by simpa using ha
  exact (State.reg_set_of_ne _ _ _ hne).trans (State.reg_set_of_ne _ _ _ hne)

/-- The result of a self-test in ENG_STAT: a failure kept from before, or this one's. -/
def State.testResult (s : State) (e : Nat) (pass : Bool) : State :=
  let s := s.set (LEX.ENG_STAT_TESTING e) 0
  if s.on (LEX.ENG_STAT_TEST_FAIL e) then s
  else if pass then s.set (LEX.ENG_STAT_TEST_PASS e) 1 else s.set (LEX.ENG_STAT_TEST_FAIL e) 1

theorem execEngineTestDone_eq {pass : Bool} (ht : s.get (LEX.ENG_STAT_TESTING e) = 1) :
    exec (.engineTestDone e pass) s = .next ((s.testResult e pass).irq (LEX.page e) 5) :=
  next_congr (by rw [State.testDone, if_pos (State.on_of_get_one ht)]; rfl)

theorem State.testResult_testing (s : State) (e : Nat) (pass : Bool) : (s.testResult e pass).get (LEX.ENG_STAT_TESTING e) = 0 := by
  have h0 : (s.set (LEX.ENG_STAT_TESTING e) 0).get (LEX.ENG_STAT_TESTING e) = 0 := State.get_set_self _ _ _ (by simp)
  unfold State.testResult
  dsimp only
  split
  · exact h0
  · split
    · exact (State.get_set_apart _ _ _ _ (.inr (.inr (by simp)))).trans h0
    · exact (State.get_set_apart _ _ _ _ (.inr (.inr (by simp)))).trans h0

theorem State.testResult_failed (s : State) (e : Nat) : (s.testResult e false).get (LEX.ENG_STAT_TEST_FAIL e) = 1 := by
  unfold State.testResult
  dsimp only
  split
  · next h => exact of_decide_eq_true ((State.on_eq_get_one _ rfl).symm.trans h)
  · exact State.get_set_self _ _ _ (by simp)

theorem State.testResult_passed (h : s.get (LEX.ENG_STAT_TEST_FAIL e) = 0) :
    (s.testResult e true).get (LEX.ENG_STAT_TEST_PASS e) = 1 := by
  have hf : (s.set (LEX.ENG_STAT_TESTING e) 0).on (LEX.ENG_STAT_TEST_FAIL e) = false :=
    State.on_of_get_zero ((State.get_set_apart _ _ _ _ (.inr (.inl (by simp)))).trans h)
  unfold State.testResult
  simp only [hf, Bool.false_eq_true, if_false, if_true]
  exact State.get_set_self _ _ _ (by simp)

end test

/-- Settles O35: a move by the table of R213 on the state it is asked in, a self-test by the one condition that refuses it. -/
theorem moveAndTest : Obligations.MoveAndTest := by
  unfold Obligations.MoveAndTest
  refine ⟨?_, fun e m s => execMoveCheckDone_pends, fun e s => execMoveCheckDone_idle, fun e v s ht hv =>
    ⟨execEngineTest_refused ht hv, fun he h0 hm hs => ⟨_, execEngineTest_begun ht hv he h0 hm hs, s.testBegun_testing e,
      s.testBegun_regs e, rfl⟩⟩, fun e pass s ht => ?_⟩
  · rintro e v s d ht hv rfl hd
    obtain ⟨hstate, hsrc, hdst⟩ := s.moveBegun_reports (e := e) hd
    exact ⟨fun c hc _ hm => execCtxMove_refused ht hv hd hc hm,
      fun hc => ⟨_, execCtxMove_begun ht hv hd hc, hstate, hsrc, hdst, State.moveBegun_eng, rfl⟩⟩
  · have keep : ∀ f : Fld, f.addr = LEX.ENG_STAT e → ((s.testResult e pass).irq (LEX.page e) 5).get f = (s.testResult e pass).get f :=
      fun f hf => State.get_irq_of_ne _ _ _ f (by simp only [hf, LEX.ENG_STAT, LEX.page]; omega)
    refine ⟨_, execEngineTestDone_eq ht, ?_, State.raised_irq _ _ _ (by decide), ?_, ?_⟩
    · rw [keep _ rfl, State.testResult_testing]
    · rintro rfl; rw [keep _ rfl, State.testResult_failed]
    · rintro rfl h; rw [keep _ rfl, State.testResult_passed h]

end Sys2Proof.Machine
end

section
/-! What the operations of MCX leave of its own page: fields that none of them writes, and events, which stay raised. A sensor
that faults (R231, R234) and the safe-state decision it may lead to (R238) leave every field but those of the machines. -/

namespace Sys2Proof.Machine

/-- A field of the page of MCX. -/
def inMcx (g : Fld) : Prop := MCX.page ≤ g.addr ∧ g.addr < MCX.page + 0x1000

theorem inMcx.outside {g : Fld} (h : inMcx g) {pg : Nat} (hp : pg + 0x1000 ≤ MCX.page ∨ MCX.page + 0x1000 ≤ pg) :
    outside pg g := by
  obtain ⟨h1, h2⟩ := h
  exact hp.elim (fun hp => .inr (hp.trans h1)) (fun hp => .inl (h2.trans_le hp))

/-- No trip writes the page of MCX. -/
theorem inMcx.tripKeeps {g : Fld} (h : inMcx g) (src : Nat) : tripKeeps src g := by
  have htrp : Machine.outside TRP.page g := h.outside (by decide)
  have hne : ∀ a, TRP.page ≤ a → a < TRP.page + 0x1000 → a ≠ g.addr := fun a h1 h2 e => by
    unfold Machine.outside at htrp; omega
  refine ⟨⟨h.outside (by decide), h.outside (by decide), h.outside (by decide), .inl htrp, ?_⟩,
    tripFld_apart src (hne _ (by decide) (by decide)) (hne _ (by decide) (by decide))⟩
  exact (h.outside (pg := MOD.page) (by decide)).apart (by decide) (by decide)

/-- From `s` to `t`, of the page of MCX the fields of `K` outside IRQ_RAW are as they were, and an event that stands stays. -/
structure State.McxFrame (K : Fld → Prop) (s t : State) : Prop where
  get : ∀ g, inMcx g → g.addr ≠ MCX.page + 0x14 → K g → t.get g = s.get g
  raised : ∀ b, s.raised MCX.page b → t.raised MCX.page b

theorem State.HaltFrame.mcxFrame {L K : Fld → Prop} {s t : State} (h : HaltFrame L s t) (hL : ∀ g, inMcx g → L g) :
    McxFrame K s t where
  get g hg _ _ := h.get g (hL g hg)
  raised b hb := (raised_congr (State.reg_of_get (h.get ⟨HDR.IRQ_RAW MCX.page, 0, 32⟩ (hL _ ⟨by decide, by decide⟩)))).2 hb

theorem State.LegFrame.mcxFrame {L K : Fld → Prop} {s t : State} (h : LegFrame L s t) (hL : ∀ g, inMcx g → L g) :
    McxFrame K s t := h.haltFrame.mcxFrame hL

namespace State.McxFrame
variable {K : Fld → Prop} {s t u : State}

theorem refl (K : Fld → Prop) (s : State) : McxFrame K s s := ⟨fun _ _ _ _ => rfl, fun _ h => h⟩

theorem trans (h : McxFrame K s t) (h' : McxFrame K t u) : McxFrame K s u :=
  ⟨fun g hg hr hk => (h'.get g hg hr hk).trans (h.get g hg hr hk), fun b hb => h'.raised b (h.raised b hb)⟩

theorem mono {L : Fld → Prop} (h : McxFrame K s t) (hL : ∀ g, L g → K g) : McxFrame L s t :=
  ⟨fun g hg hr hl => h.get g hg hr (hL g hl), h.raised⟩

theorem ite {c : Prop} [Decidable c] (ht : McxFrame K s t) (hu : McxFrame K s u) : McxFrame K s (if c then t else u) := by
  split
  · exact ht
  · exact hu

theorem iff (h : McxFrame K s t) {b : Bool} {f : State → State} (hf : McxFrame K s (f t)) : McxFrame K s (t.iff b f) := ite hf h

theorem set (h : McxFrame K s t) {f : Fld} (hr : f.addr ≠ HDR.IRQ_RAW MCX.page) (hf : ∀ g, K g → f.apart g) (v : Nat) :
    McxFrame K s (t.set f v) :=
  h.trans ⟨fun g _ _ hk => t.get_set_apart f g v (hf g hk), fun b => (State.raised_set t MCX.page b f v hr).2⟩

theorem setB (h : McxFrame K s t) {f : Fld} (hr : f.addr ≠ HDR.IRQ_RAW MCX.page) (hf : ∀ g, K g → f.apart g) (b : Bool) :
    McxFrame K s (t.setB f b) := h.set hr hf _

theorem irq (h : McxFrame K s t) (b : Nat) : McxFrame K s (t.irq MCX.page b) :=
  h.trans ⟨fun g _ hr _ => t.get_irq_of_ne _ b g hr, fun _ hc => State.raised_irq_of t _ _ _ b hc⟩

/-- A frame holds up to what is not in the registers. -/
theorem regs (h : McxFrame K s t) (hu : u.regs = t.regs) : McxFrame K s u := by
  have hreg : ∀ a, u.reg a = t.reg a := fun a => by rw [State.reg, hu, State.reg]
  exact h.trans ⟨fun g _ _ _ => State.get_congr g (hreg _), fun b => (raised_congr (hreg _)).2⟩

theorem modMM (h : McxFrame K s t) (m : Nat) (f : McxM → McxM) : McxFrame K s (t.modMM m f) :=
  h.regs (u := t.modMM m f) rfl

theorem trip (h : McxFrame K s t) (src hiz asc cells : Nat) : McxFrame K s (t.trip src hiz asc cells) :=
  h.trans ((t.trip_frame src hiz asc cells).mcxFrame fun _ hg => hg.tripKeeps src)

theorem mcxSource (h : McxFrame K s t) : McxFrame K s t.mcxSource :=
  h.trans ((t.mcxSource_frame inMcx).mcxFrame fun _ hg => hg)

end State.McxFrame

/-! ### The machines (R238, R241) -/

/-- A field that neither the safe-state decision of a machine nor a loss of its rotor writes. -/
def machQuiet (g : Fld) : Prop := ∀ j < 2, (MCX.M_STAT_STATE j).apart g ∧ (MCX.M_STAT_CAUSE j).apart g ∧
  (MCX.M_STAT_ASC_DEC j).apart g ∧ MCX.M_RES j ≠ g.addr

theorem machQuiet_sensFlt {m : Nat} (hm : m < 2) : machQuiet (MCX.M_STAT_SENS_FLT m) := by
  unfold machQuiet
  interval_cases m <;> decide

/-- Above the registers of the machines every field is quiet. -/
theorem machQuiet_of_le {g : Fld} (h : MCX.RSV_CFG ≤ g.addr) : machQuiet g := by
  intro j hj
  have hstat : ∀ f : Fld, f.addr = MCX.M_STAT j → f.apart g := fun f hf => .inl (by
    rw [hf]; unfold MCX.M_STAT; unfold MCX.RSV_CFG at h; omega)
  exact ⟨hstat _ rfl, hstat _ rfl, hstat _ rfl, by unfold MCX.M_RES; unfold MCX.RSV_CFG at h; omega⟩

theorem machQuiet_errCode {g : Fld} (h : g.addr = HDR.ERR_CODE MCX.page) : machQuiet g := by
  intro j hj
  have hstat : ∀ f : Fld, f.addr = MCX.M_STAT j → f.apart g := fun f hf => .inl (by
    rw [hf, h]; unfold MCX.M_STAT HDR.ERR_CODE MCX.page; omega)
  exact ⟨hstat _ rfl, hstat _ rfl, hstat _ rfl, by rw [h]; unfold MCX.M_RES HDR.ERR_CODE MCX.page; omega⟩

section machines
variable (s : State) {m : Nat}

/-- The registers of the machines are none of the header. -/
theorem machStat_ne_raw (j : Nat) : MCX.M_STAT j ≠ HDR.IRQ_RAW MCX.page ∧ MCX.M_RES j ≠ HDR.IRQ_RAW MCX.page := by
  unfold MCX.M_STAT MCX.M_RES HDR.IRQ_RAW MCX.page
  omega

theorem State.machSafe_mcxFrame (hm : m < 2) (st cause : Nat) : McxFrame machQuiet s (s.machSafe m st cause) := by
  unfold State.machSafe
  extract_lets lm s1 s2 s3
  have h1 : McxFrame machQuiet s s1 := (((McxFrame.refl _ s).set (machStat_ne_raw m).1 (fun g hg => (hg m hm).1) st).set
    (machStat_ne_raw m).1 (fun g hg => (hg m hm).2.1) cause).irq 2
  have h2 : McxFrame machQuiet s s2 := h1.iff (h1.set (machStat_ne_raw 1).1 (fun g hg => (hg 1 (by decide)).1) st)
  exact (McxFrame.ite (h2.trip ..) (h2.trip ..)).mcxSource

theorem State.safeDecision_mcxFrame (hm : m < 2) (cause : Nat) : McxFrame machQuiet s (s.safeDecision m cause) := by
  unfold State.safeDecision
  extract_lets w asc s1
  have hell : McxFrame machQuiet s (s.ellReg m w) :=
    ((McxFrame.refl machQuiet s).modMM m _).set (machStat_ne_raw m).2
      (fun g hg => .inl (hg m hm).2.2.2) _
  have h1 : McxFrame machQuiet s s1 := (hell.setB (machStat_ne_raw m).1 (fun g hg => (hg m hm).2.2.1) asc).modMM m _
  exact h1.trans (s1.machSafe_mcxFrame hm _ _)

theorem State.lossDetect_mcxFrame (hm : m < 2) : McxFrame machQuiet s (s.lossDetect m) := by
  unfold State.lossDetect
  extract_lets x th s1
  have h1 : McxFrame machQuiet s s1 := (McxFrame.refl _ s).regs rfl
  have hst := h1.set (machStat_ne_raw m).1 (fun g hg => (hg m hm).1) mEXTRAP
  exact .ite ((hst.iff (hst.set (machStat_ne_raw 1).1 (fun g hg => (hg 1 (by decide)).1) mEXTRAP)).irq 0) (.refl _ s)

/-- A sensor that faults: SENS_FLT of its machine, its event, and the fields that stay (R231, R234). -/
theorem State.sensFault_leaves (hm : m < 2) (src : Nat) : (s.sensFault m src).get (MCX.M_STAT_SENS_FLT m) = 1 ∧
    (s.sensFault m src).raised MCX.page 3 ∧
    McxFrame (fun g => machQuiet g ∧ (MCX.M_STAT_SENS_FLT m).apart g) s (s.sensFault m src) := by
  unfold State.sensFault
  extract_lets s1 s2
  have h1 : McxFrame (fun g => machQuiet g ∧ (MCX.M_STAT_SENS_FLT m).apart g) s s1 :=
    ((McxFrame.refl _ s).set (machStat_ne_raw m).1 (fun g hg => hg.2) 1).irq 3
  have hflt : s1.get (MCX.M_STAT_SENS_FLT m) = 1 := by
    rw [State.get_irq_of_ne _ _ _ _ (machStat_ne_raw m).1, State.get_set_self _ _ _ (by show 5 + 1 ≤ 32; decide)]; rfl
  have h2 : McxFrame machQuiet s1 s2 :=
    ((McxFrame.refl _ s1).modMM m _).trans (State.lossDetect_mcxFrame _ hm)
  have hrest : McxFrame machQuiet s1 (if s1.get (MCX.M_CFG_SRC m) == src then
      if (s2.mState m == mRUN || s2.mState m == mPRECHG) && s2.get (MCX.M_STAT_USED m) == src then
        if s2.on (MCX.M_CFG_SL_FB m) && s2.obsValid m then s2.modMM m (fun x => { x with fb := true })
        else s2.safeDecision m cauSENSOR
      else s2
    else s1) :=
    .ite (.ite (.ite (h2.modMM m _) (h2.trans (s2.safeDecision_mcxFrame hm _))) h2) (.refl _ s1)
  refine ⟨(hrest.get _ ?_ (machStat_ne_raw m).1 (machQuiet_sensFlt hm)).trans hflt,
    hrest.raised 3 (State.raised_irq _ _ _ (by decide)), h1.trans (hrest.mono fun g hg => hg.1)⟩
  show MCX.page ≤ MCX.M_STAT m ∧ MCX.M_STAT m < MCX.page + 0x1000
  unfold MCX.page MCX.M_STAT
  omega

end machines

end Sys2Proof.Machine
end

section
/-! A host write to TRP.CFG (R126, R490, R492): an input that is enabled follows its ball and trips where its active level has
lasted the filter time; one on a ball of the encoder takes the ball from it. -/

namespace Sys2Proof.Machine

/-! ### What a trip of an input leaves -/

section trips
variable (s : State) (src : Nat)

theorem State.stackTrip_claims (k : Nat) : (s.stackTrip k).claims = s.claims := by
  unfold State.stackTrip
  dsimp only
  split <;> split <;> rfl

theorem State.log_claims (pg e a b : Nat) : (s.log pg e a b).claims = s.claims := by
  unfold State.log; split <;> rfl

theorem State.tripFollow_claims (cells : Nat) : (s.tripFollow src cells).claims = s.claims :=
  (State.each_same State.claims State.stackTrip_claims _).trans
    ((State.log_claims _ _ _ _ _).trans (State.refreshLegs_same State.claims (fun _ _ _ => rfl) _))

/-- A REARM taken back changes no claim, and of STAT the latch of its source alone. -/
theorem State.unRearm_leaves : (s.unRearm src).claims = s.claims ∧
    ∀ g : Fld, g.addr = TRP.STAT → (latchFld src).apart g → (s.unRearm src).get g = s.get g := by
  cases hr : s.rearmed with
  | none => rw [s.unRearm_none hr]; exact ⟨rfl, fun _ _ _ => rfl⟩
  | some r =>
    simp -zeta only [State.unRearm, hr]
    extract_lets mine rest s1 s2 s3
    split
    · exact ⟨rfl, fun _ _ _ => rfl⟩
    have h2 : s2.claims = s.claims := ite_keeps (P := fun t => t.claims = s.claims) rfl rfl
    have h3 : s3.claims = s.claims := ite_keeps (P := fun t => t.claims = s.claims) h2 h2
    refine ⟨(State.refuse_claims ..).trans h3, fun g hg ha => ?_⟩
    have hne : ∀ o, o ≠ 0x74 → g.addr ≠ TRP.page + o := fun o ho => by rw [hg]; unfold TRP.STAT TRP.page; omega
    have hset : s1.get g = s.get g := (State.get_set_apart _ _ _ _ ha).trans rfl
    have hfrz : s2.get g = s.get g := ite_keeps (P := fun t => t.get g = s.get g)
      ((State.get_setB_apart _ _ _ _ (.inl (by rw [hg]; decide))).trans hset) hset
    have hraw : s3.get g = s.get g := ite_keeps (P := fun t => t.get g = s.get g)
      ((State.get_congr g (State.reg_setReg_of_ne _ _ (hne 0x14 (by decide)))).trans hfrz) hfrz
    exact (State.get_refuse _ _ _ _ g (hne 0x20 (by decide))).trans
      ((State.get_irq_of_ne _ _ _ g (hne 0x14 (by decide))).trans hraw)

theorem State.trip_claims (hiz asc cells : Nat) : (s.trip src hiz asc cells).claims = s.claims := by
  have hfirst : ((s.tripFrom src).tripFirst src).claims = (s.tripFrom src).claims := by
    unfold State.tripFirst; split <;> rfl
  rw [State.trip_eq, State.tripFollow_claims]
  exact hfirst.trans (s.unRearm_leaves src).1

/-- A trip leaves of STAT what is neither FLAG nor LATCH of its source. -/
theorem State.get_trip_stat (hiz asc cells : Nat) {g : Fld} (hg : g.addr = TRP.STAT) (hf : (flagFld src).apart g)
    (hl : (latchFld src).apart g) : (s.trip src hiz asc cells).get g = s.get g := by
  rw [s.get_trip src hiz asc cells (followQuiet_trp (by rw [hg]; decide) (by rw [hg]; decide) (by rw [hg]; decide))
      (by rw [hg]; decide), State.get_tripMarked_of_apart _ _ _ _ _ hf hl,
    (State.tripFirst_frame _ _).get g (show g.addr ≠ TRP.FIRST by rw [hg]; decide)]
  exact (s.unRearm_leaves src).2 g hg hl

theorem State.tripIn_eq_trip (n : Nat) : ∃ h a c, s.tripIn n = s.trip n h a c := by
  unfold State.tripIn
  split
  · exact ⟨_, _, _, rfl⟩
  · exact ⟨_, _, _, rfl⟩

end trips

/-! ### The inputs follow their balls (R126) -/

/-- An input whose level has ended is no source. -/
def State.inputEnds (s : State) (n : Nat) : State := (s.set (trpLvl n) 0).srcActive n false

/-- An input whose active level has lasted its filter time trips. -/
def State.inputActs (s : State) (n : Nat) : State := ((s.set (trpLvl n) 1).srcActive n true).tripIn n

/-- The inputs whose level has ended are no sources. -/
def State.inputsEnd (s : State) : State :=
  s.each ((List.range 8).filter (fun n => s.on (trpLvl n) && !s.trpLevel n)) State.inputEnds

/-- The inputs that trip. -/
def State.inputsDue (s : State) : List Nat := (List.range 8).filter (fun n => !s.on (trpLvl n) && s.trpLevel n && s.trpLasted n)

theorem State.trpEval_eq (s : State) : s.trpEval = s.inputsEnd.each s.inputsEnd.inputsDue State.inputActs := rfl

/-- The state shows input `n` active, flagged and latched. -/
def inputTripped (n : Nat) (t : State) : Prop := t.get (trpLvl n) = 1 ∧ t.get (flagFld n) = 1 ∧ t.get (latchFld n) = 1

section inputs
variable (s : State) {n : Nat}

theorem State.get_srcActive (src : Nat) (b : Bool) (g : Fld) : (s.srcActive src b).get g = s.get g :=
  (s.srcActive_frame (fun _ => True) src b).get g trivial

theorem State.srcActive_claims (src : Nat) (b : Bool) : (s.srcActive src b).claims = s.claims :=
  State.srcActive_same State.claims (fun _ _ _ => rfl) s src b

/-- The bits of STAT of an input lie apart from those of another. -/
theorem inputFlds_apart {m : Nat} (hn : n < 8) (hm : m < 8) (h : m ≠ n) : ∀ g ∈ [trpLvl n, flagFld n, latchFld n],
    g.addr = TRP.STAT ∧ (trpLvl m).apart g ∧ (flagFld m).apart g ∧ (latchFld m).apart g := by
  simp only [flagFld, latchFld, if_pos hn, if_pos hm, List.forall_mem_cons, List.not_mem_nil, false_imp_iff, implies_true,
    and_true, true_and, Fld.apart]
  omega

theorem State.inputActs_trips (hn : n < 8) : inputTripped n (s.inputActs n) := by
  obtain ⟨h, a, c, he⟩ := ((s.set (trpLvl n) 1).srcActive n true).tripIn_eq_trip n
  obtain ⟨hflag, hlatch⟩ := ((s.set (trpLvl n) 1).srcActive n true).trip_flag_latch h a c (by omega : n < 16)
  unfold State.inputActs
  rw [he]
  refine ⟨?_, hflag, hlatch⟩
  rw [State.get_trip_stat _ _ _ _ _ rfl (by simp only [flagFld, if_pos hn, Fld.apart]; omega)
    (by simp only [latchFld, if_pos hn, Fld.apart]; omega), State.get_srcActive,
    State.get_set_self _ _ _ (by show n + 1 ≤ 32; omega)]
  rfl

theorem State.inputActs_keeps {m : Nat} (hn : n < 8) (hm : m < 8) (h : inputTripped n s) : inputTripped n (s.inputActs m) := by
  by_cases hmn : m = n
  · subst hmn; exact s.inputActs_trips hm
  obtain ⟨a, b, c, he⟩ := ((s.set (trpLvl m) 1).srcActive m true).tripIn_eq_trip m
  have hkeep : ∀ g ∈ [trpLvl n, flagFld n, latchFld n], (s.inputActs m).get g = s.get g := fun g hg => by
    obtain ⟨hs, hlv, hf, hl⟩ := inputFlds_apart hn hm hmn g hg
    unfold State.inputActs
    rw [he, State.get_trip_stat _ _ _ _ _ hs hf hl, State.get_srcActive, State.get_set_apart _ _ _ _ hlv]
  obtain ⟨h1, h2, h3⟩ := h
  exact ⟨(hkeep _ (by simp)).trans h1, (hkeep _ (by simp)).trans h2, (hkeep _ (by simp)).trans h3⟩

theorem State.mem_inputsDue : n ∈ s.inputsDue ↔
    n < 8 ∧ s.on (trpLvl n) = false ∧ s.trpLevel n = true ∧ s.trpLasted n = true := by
  simp [State.inputsDue, and_assoc]

/-- The end of inputs leaves everything but their bits of STAT and the sources. -/
theorem State.inputsEnd_get {g : Fld} (h : ∀ m, s.on (trpLvl m) = true → (trpLvl m).apart g) : s.inputsEnd.get g = s.get g := by
  refine (HaltFrame.each (K := fun g => ∀ m, s.on (trpLvl m) = true → (trpLvl m).apart g) (fun t m hm => ?_) s).get g h
  have hon : s.on (trpLvl m) = true := by simpa using (Bool.and_eq_true_iff.1 (List.mem_filter.1 hm).2).1
  exact ((HaltFrame.refl _ t).set (fun g hg => hg m hon) 0).trans (State.srcActive_frame _ _ _ _)

theorem State.inputsEnd_same {β : Type} (p : State → β) (hset : ∀ s n, p (s.set (trpLvl n) 0) = p s)
    (hsrc : ∀ s a i, p { s with srcAct := a, inactAt := i } = p s) : p s.inputsEnd = p s :=
  State.each_same p (f := State.inputEnds) (fun t m => (State.srcActive_same p hsrc _ m false).trans (hset t m)) s

theorem State.trpEval_claims : s.trpEval.claims = s.claims := by
  rw [State.trpEval_eq]
  refine (State.each_same State.claims (fun t m => ?_) _).trans
    (s.inputsEnd_same State.claims (fun _ _ => State.setReg_claims ..) fun _ _ _ => rfl)
  obtain ⟨a, b, c, he⟩ := ((t.set (trpLvl m) 1).srcActive m true).tripIn_eq_trip m
  unfold State.inputActs
  rw [he, State.trip_claims, State.srcActive_claims, State.set_eq, State.setReg_claims]

/-- The inputs write nothing of the page of MCX. -/
theorem State.trpEval_get {g : Fld} (hg : inMcx g) : s.trpEval.get g = s.get g := by
  have hlv : ∀ m (g : Fld), inMcx g → (trpLvl m).apart g := fun m g hg =>
    (hg.outside (pg := TRP.page) (by decide)).apart (by show TRP.page ≤ TRP.STAT; decide)
      (by show TRP.STAT < TRP.page + 0x1000; decide)
  rw [State.trpEval_eq]
  refine ((HaltFrame.each (K := inMcx) (fun t m _ => ?_) _).get g hg).trans (s.inputsEnd_get fun m _ => hlv m g hg)
  obtain ⟨a, b, c, he⟩ := ((t.set (trpLvl m) 1).srcActive m true).tripIn_eq_trip m
  unfold State.inputActs
  rw [he]
  exact (((HaltFrame.refl inMcx t).set (fun g hg => hlv m g hg) 1).trans (State.srcActive_frame _ _ _ _)).trans
    ((State.trip_frame _ _ _ _ _).mono fun _ hg => hg.tripKeeps m)

/-- Where no input shows a level and no ball has been reported, nothing follows. -/
theorem State.trpEval_quiet (h0 : ∀ n, n < 8 → s.get (trpLvl n) = 0) (hb : ∀ n, n < 8 → SMap.look s.trpIn n = none) :
    s.trpEval = s := by
  have hend : (List.range 8).filter (fun n => s.on (trpLvl n) && !s.trpLevel n) = [] :=
    List.filter_eq_nil_iff.2 fun n hn => by simp [State.on_of_get_zero (h0 n (List.mem_range.1 hn))]
  have hs : s.inputsEnd = s := by rw [State.inputsEnd, hend]; rfl
  have hdue : s.inputsDue = [] := List.filter_eq_nil_iff.2 fun n hn => by
    simp [State.trpLevel, hb n (List.mem_range.1 hn)]
  rw [State.trpEval_eq, hs, hdue]
  rfl

/-- An input whose active level has lasted trips, if it has not shown it yet (R126). -/
theorem State.trpEval_trips (hn : n < 8) (h0 : s.get (trpLvl n) = 0) (hlv : s.trpLevel n = true) (hla : s.trpLasted n = true) :
    inputTripped n s.trpEval := by
  have hoff : ∀ m, s.on (trpLvl m) = true → m ≠ n := fun m hm e => by
    rw [e, State.on_of_get_zero h0] at hm; cases hm
  have hcfg : ∀ g : Fld, g.addr ≠ TRP.STAT → s.inputsEnd.get g = s.get g := fun g hg =>
    s.inputsEnd_get fun m _ => .inl (Ne.symm hg)
  have hin : s.inputsEnd.trpIn = s.trpIn := s.inputsEnd_same State.trpIn (fun _ _ => State.setReg_trpIn ..) fun _ _ _ => rfl
  have hnow : s.inputsEnd.now = s.now := s.inputsEnd_same State.now (fun _ _ => State.set_now ..) fun _ _ _ => rfl
  have hflt : s.inputsEnd.flt n = s.flt n := by
    rw [State.flt, State.flt, hcfg _ (by show TRP.FLT0 ≠ TRP.STAT; decide), hcfg _ (by show TRP.FLT1 ≠ TRP.STAT; decide)]
  have hdue : n ∈ s.inputsEnd.inputsDue := by
    refine (State.mem_inputsDue _).2 ⟨hn, State.on_of_get_zero ((s.inputsEnd_get fun m hm => ?_).trans h0), ?_, ?_⟩
    · have := hoff m hm
      simp only [Fld.apart]; omega
    · rw [State.trpLevel, hcfg _ (by decide), hcfg _ (by decide), hin]; exact hlv
    · rw [State.trpLasted, hin, hflt, hnow]; exact hla
  rw [State.trpEval_eq]
  exact State.each_forall (P := fun b t => b < 8 → inputTripped b t)
    (fun t m hm _ => t.inputActs_trips ((State.mem_inputsDue _).1 hm).1)
    (fun t m hm b hb hb8 => t.inputActs_keeps hb8 ((State.mem_inputsDue _).1 hm).1 (hb hb8)) s.inputsEnd n hdue hn

end inputs

end Sys2Proof.Machine
end

section
/-! A host write to TRP.CFG with no input enabled before (R126, R490, R492). -/

namespace Sys2Proof.Machine

/-! ### The reports on the PIN page (R490, R492, R493) -/

section reports
variable (s : State)

/-- A report on the PIN page writes fields of that page alone. -/
theorem State.LegFrame.setPin {s t : State} (h : LegFrame (outside PIN.page) s t) {f : Fld} (h0 : PIN.page ≤ f.addr)
    (h1 : f.addr < PIN.page + 0x1000) (v : Nat) : LegFrame (outside PIN.page) s (t.set f v) :=
  h.set (fun _ hg => hg.apart h0 h1) v

theorem outside_pin_raw (g : Fld) (h : outside PIN.page g) : g.addr ≠ PIN.page + 0x14 := by
  unfold outside at h; omega

theorem State.pinDenied_frame (r cls inst : Nat) : LegFrame (outside PIN.page) s (s.pinDenied r cls inst) :=
  (((((LegFrame.refl _ s).setPin (by decide) (by decide) _).setPin (by decide) (by decide) _).setPin (by decide) (by decide)
    _).setPin (by decide) (by decide) _).irq outside_pin_raw 0

theorem State.deny_claims (pg ofs r cls inst : Nat) : (s.deny pg ofs r cls inst).claims = s.claims :=
  (State.refuse_claims _ _ _ _).trans (s.pinDenied_frame r cls inst).claims

/-- An enable whose claim is denied leaves the fields of its page but ERR_CODE. -/
theorem State.get_deny (pg ofs r cls inst : Nat) {g : Fld} (hp : outside PIN.page g) (he : g.addr ≠ pg + 0x20) :
    (s.deny pg ofs r cls inst).get g = s.get g :=
  (State.get_refuse _ _ _ _ g he).trans ((s.pinDenied_frame r cls inst).get g hp)

/-- The encoder's stop writes ZSEEN and no other field. -/
theorem State.get_encStop {g : Fld} (h : g.addr ≠ MCX.SNS_STAT) : s.encStop.get g = s.get g := by
  unfold State.encStop
  rw [State.each_same (State.get · g) (fun t b => t.get_release _ _ _ g), State.get_set_apart _ _ _ _ (.inl (Ne.symm h))]
  rfl

end reports

/-! ### The inputs that take a ball of the encoder (R492) -/

section trpCfg
variable {s : State} {v : Word}

theorem rowAt_trpCfg : rowAt .trp 0x40 = some (⟨0x40, 1, 0, 0x0, 0x1FFFF, 0, 0, 0, 0, 0⟩, 0) := by decide

/-- With no input enabled before, a write to TRP.CFG takes its word, the balls of the inputs it enables, and their levels. -/
theorem State.trpCfgWrite_eq (ht : s.takes TRP.page) (h0 : s.get TRP.CFG_EN = 0) : s.trpCfgWrite v =
    ((s.take .trp TRP.page 0x40 v).each
      ([5, 6, 7].filter (fun n => ((s.take .trp TRP.page 0x40 v).get TRP.CFG_EN).testBit n)) State.tripBall).trpEval := by
  have hj := fun k => State.judge_takes (ofs := 0x40) (c := []) (k := k) ht (by simp)
  unfold State.trpCfgWrite
  rw [hj, h0]
  simp [State.each]

/-- What the write itself leaves: EN and POL as written, and everything outside the register. -/
theorem State.take_trpCfg (hl : s.locked TRP.page = false) :
    (s.take .trp TRP.page 0x40 v).get TRP.CFG_EN = getBits v 0 8 ∧ (s.take .trp TRP.page 0x40 v).get TRP.CFG_POL = getBits v 8 8 ∧
      ∃ w, s.take .trp TRP.page 0x40 v = s.setReg TRP.CFG w := by
  have hopen : ∀ f : Fld, f.addr = TRP.CFG → f.lo + f.w ≤ 16 → (s.take .trp TRP.page 0x40 v).get f = getBits v f.lo f.w :=
    fun f hf hw => by
      refine State.get_take_open rowAt_trpCfg (by decide) hf (by omega) fun i hi => ?_
      have hbit : ∀ j < 16, ((0x0 : Nat) ||| 0x1FFFF).testBit j = true := by decide
      simpa [hl] using hbit (f.lo + i) (by omega)
  exact ⟨hopen _ rfl (by decide), hopen _ rfl (by decide), _, State.take_unlocked rowAt_trpCfg hl⟩

/-- No input of a ball of the encoder is among those enabled. -/
theorem noBalls {en : Nat} (h : en &&& 0xE0 = 0) : [5, 6, 7].filter (fun n => en.testBit n) = [] := by
  refine List.filter_eq_nil_iff.2 fun n hn hb => ?_
  have hmask : ∀ m ∈ [5, 6, 7], (0xE0 : Nat).testBit m = true := by decide
  have := congrArg (Nat.testBit · n) h
  simp [Nat.testBit_and, hb, hmask n hn] at this

/-- An enable of inputs with balls of their own alone. -/
theorem State.trpCfgWrite_own (ht : s.takes TRP.page) (hl : s.locked TRP.page = false) (h0 : s.get TRP.CFG_EN = 0)
    (hb : getBits v 0 8 &&& 0xE0 = 0) : s.trpCfgWrite v = (s.take .trp TRP.page 0x40 v).trpEval := by
  rw [State.trpCfgWrite_eq ht h0, (State.take_trpCfg hl).1, noBalls hb]
  rfl

/-- Where no input shows a level and no ball has been reported, an enable changes CFG and nothing else. -/
theorem State.trpCfgWrite_quiet (ht : s.takes TRP.page) (hl : s.locked TRP.page = false) (h0 : s.get TRP.CFG_EN = 0)
    (hb : getBits v 0 8 &&& 0xE0 = 0) (hlv : ∀ n, n < 8 → s.get (trpLvl n) = 0) (hin : ∀ n, n < 8 → SMap.look s.trpIn n = none) :
    (s.trpCfgWrite v).get TRP.CFG_EN = getBits v 0 8 ∧ (s.trpCfgWrite v).claims = s.claims ∧
      (s.trpCfgWrite v).sameRegsBut s [TRP.CFG] := by
  obtain ⟨hen, _, w, hw⟩ := State.take_trpCfg (v := v) hl
  have hne : ∀ n, (trpLvl n).addr ≠ TRP.CFG := fun n => by show TRP.STAT ≠ TRP.CFG; decide
  rw [State.trpCfgWrite_own ht hl h0 hb, State.trpEval_quiet _ (fun n hn => ?_) (fun n hn => by rw [hw]; exact hin n hn)]
  · refine ⟨hen, State.take_claims .., fun a ha => ?_⟩
    rw [hw]
    exact s.reg_setReg_of_ne w (by simpa using ha)
  · rw [hw, State.get_congr _ (s.reg_setReg_of_ne w (hne n))]
    exact hlv n hn

/-- An input enabled while its active level has lasted its filter time trips at once (R126). -/
theorem State.trpCfgWrite_trips {n t0 : Nat} (ht : s.takes TRP.page) (hl : s.locked TRP.page = false)
    (h0 : s.get TRP.CFG_EN = 0) (hb : getBits v 0 8 &&& 0xE0 = 0) (hn : n < 5) (hv : v.getLsbD n = true)
    (hin : SMap.look s.trpIn n = some (v.getLsbD (8 + n), t0)) (hlast : t0 + s.flt n * t10 ≤ s.now)
    (hlv : s.get (trpLvl n) = 0) : inputTripped n (s.trpCfgWrite v) := by
  obtain ⟨hen, hpol, w, hw⟩ := State.take_trpCfg (v := v) hl
  have hbit : ∀ lo i, i < 8 → (getBits v lo 8).testBit i = v.getLsbD (lo + i) := fun lo i hi => by
    rw [getBits, Nat.testBit_mod_two_pow, Nat.testBit_shiftRight, BitVec.testBit_toNat, decide_eq_true hi, Bool.true_and]
  have hget : ∀ g : Fld, g.addr ≠ TRP.CFG → (s.take .trp TRP.page 0x40 v).get g = s.get g := fun g hg => by
    rw [hw]; exact State.get_congr g (s.reg_setReg_of_ne w hg)
  have hin' : SMap.look (s.take .trp TRP.page 0x40 v).trpIn n = some (v.getLsbD (8 + n), t0) := by rw [hw]; exact hin
  rw [State.trpCfgWrite_own ht hl h0 hb]
  refine State.trpEval_trips _ (by omega) ((hget _ (by show TRP.STAT ≠ TRP.CFG; decide)).trans hlv) ?_ ?_
  · rw [State.trpLevel, hin', hen, hpol, hbit 0 n (by omega), hbit 8 n (by omega)]
    simp [hv]
  · have hflt : (s.take .trp TRP.page 0x40 v).flt n = s.flt n := by
      rw [State.flt, State.flt, hget _ (by show TRP.FLT0 ≠ TRP.CFG; decide), hget _ (by show TRP.FLT1 ≠ TRP.CFG; decide)]
    have hnow : (s.take .trp TRP.page 0x40 v).now = s.now := by rw [hw]; rfl
    rw [State.trpLasted, hin', hflt, hnow]
    exact decide_eq_true hlast

/-! ### An input that displaces the encoder (R492) -/

/-- The fields of MCX that a displaced encoder keeps. -/
theorem inMcx_encCfg : ∀ g : Fld, g.addr = MCX.ENC_CFG → inMcx g := fun g hg => by
  unfold inMcx
  rw [hg]
  decide

theorem inMcx_errCode : inMcx (HDR.ERR_CODE_CODE MCX.page) := by
  unfold inMcx
  decide

/-- The input holds the ball it takes. -/
theorem State.tripBall_claim (s : State) (n : Nat) : (s.tripBall n).claim (resKey 4 (n - 5)) = ⟨13, n, 0, 0⟩ := by
  unfold State.tripBall
  exact (State.claim_setClaim _ _ _ _).trans (if_pos rfl)

/-- The encoder that input `n` displaces: it is off, reports CLAIM_LOST, and faults. -/
def State.encDisplaced (s : State) (n : Nat) : State :=
  let u := (s.pinLost (resKey 4 (n - 5)) (s.claim (resKey 4 (n - 5)))).refuse MCX.page 0x20C eCLAIM_LOST
  ((u.set MCX.ENC_CFG_EN 0).encStop).sensFault (u.get MCX.ENC_CFG_MACH) 1

theorem State.encDisplaced_leaves (s : State) (n : Nat) : (s.encDisplaced n).get MCX.ENC_CFG_EN = 0 ∧
    (s.encDisplaced n).get (HDR.ERR_CODE_CODE MCX.page) = eCLAIM_LOST := by
  unfold State.encDisplaced
  extract_lets u
  obtain ⟨-, -, hf⟩ := (u.set MCX.ENC_CFG_EN 0).encStop.sensFault_leaves (m := u.get MCX.ENC_CFG_MACH) (u.get_lt _) 1
  have hkeep : ∀ g : Fld, inMcx g → g.addr ≠ MCX.page + 0x14 → machQuiet g → g.addr ≠ MCX.SNS_STAT →
      (MCX.M_STAT_SENS_FLT (u.get MCX.ENC_CFG_MACH)).apart g → ((u.set MCX.ENC_CFG_EN 0).encStop.sensFault
        (u.get MCX.ENC_CFG_MACH) 1).get g = (u.set MCX.ENC_CFG_EN 0).get g :=
    fun g hg hr hq hs ha => (hf.get g hg hr ⟨hq, ha⟩).trans (State.get_encStop _ hs)
  have hap : ∀ m < 2, (MCX.M_STAT_SENS_FLT m).apart MCX.ENC_CFG_EN ∧
      (MCX.M_STAT_SENS_FLT m).apart (HDR.ERR_CODE_CODE MCX.page) := by decide
  obtain ⟨hen, herr⟩ := hap _ (u.get_lt MCX.ENC_CFG_MACH)
  constructor
  · rw [hkeep _ (inMcx_encCfg _ rfl) (by decide) (machQuiet_of_le (by decide)) (by decide) hen,
      State.get_set_self _ _ _ (by decide)]
    rfl
  · rw [hkeep _ inMcx_errCode (by decide) (machQuiet_errCode rfl) (by decide) herr, State.get_set_apart _ _ _ _ (by decide)]
    exact (State.refuse_code _ _ _ _).1

/-- An encoder whose enable is of an earlier bus cycle is displaced. -/
theorem State.tripBall_early {n : Nat} (hc : (s.claim (resKey 4 (n - 5))).cls = 7)
    (hearly : ∀ w, s.mcx.encOn ≠ some (s.now / tBus, w)) :
    s.tripBall n = (s.encDisplaced n).setClaim (resKey 4 (n - 5)) ⟨13, n, 0, 0⟩ := by
  have hlate : s.mcx.encOn.filter (fun q => q.1 == s.now / tBus) = none :=
    Option.filter_eq_none_iff.2 fun x hx hq => hearly x.2 (by rw [Option.mem_def.1 hx, ← beq_iff_eq.1 hq])
  simp only [State.tripBall, hc, hlate, beq_self_eq_true, if_true]
  rfl

/-- An encoder enabled in the bus cycle of the input is refused its enable. -/
theorem State.tripBall_late {n : Nat} {w : Word} (hc : (s.claim (resKey 4 (n - 5))).cls = 7)
    (hon : s.mcx.encOn = some (s.now / tBus, w)) : s.tripBall n =
    (((s.encStop.setReg MCX.ENC_CFG w).setClaim (resKey 4 (n - 5)) ⟨13, n, 0, 0⟩).deny MCX.page 0x20C (resKey 4 (n - 5)) 7
      1).setClaim (resKey 4 (n - 5)) ⟨13, n, 0, 0⟩ := by
  have hlate : s.mcx.encOn.filter (fun q => q.1 == s.now / tBus) = some (s.now / tBus, w) := by rw [hon]; simp
  simp only [State.tripBall, hc, hlate, beq_self_eq_true, if_true]

theorem State.get_setClaim (s : State) (r : Nat) (c : Claim) (g : Fld) : (s.setClaim r c).get g = s.get g := rfl

/-- The encoder that is refused its enable holds the ENC_CFG of before it (R492). -/
theorem State.tripBall_refused {n : Nat} {w : Word} (hc : (s.claim (resKey 4 (n - 5))).cls = 7)
    (hon : s.mcx.encOn = some (s.now / tBus, w)) :
    (s.tripBall n).reg MCX.ENC_CFG = w ∧ (s.tripBall n).get (HDR.ERR_CODE_CODE MCX.page) = eCLAIM_DENIED := by
  rw [State.tripBall_late hc hon, State.get_setClaim]
  refine ⟨(State.reg_of_get ?_).trans (State.reg_setReg_self s.encStop MCX.ENC_CFG w), (State.refuse_code _ _ _ _).1⟩
  rw [State.get_setClaim, State.get_deny _ _ _ _ _ _ ((inMcx_encCfg _ rfl).outside (by decide)) (by decide),
    State.get_setClaim]

/-- The enable of input 5 alone takes ball 0 of the encoder. -/
theorem State.trpCfgWrite_ball (ht : s.takes TRP.page) (hl : s.locked TRP.page = false) (h0 : s.get TRP.CFG_EN = 0)
    (hv : getBits v 0 8 = 0x20) : s.trpCfgWrite v = ((s.take .trp TRP.page 0x40 v).tripBall 5).trpEval := by
  rw [State.trpCfgWrite_eq ht h0, (State.take_trpCfg hl).1, hv]
  rfl

/-- Input 5 takes its ball from an enabled encoder. -/
theorem State.trpCfgWrite_displaces (ht : s.takes TRP.page) (hl : s.locked TRP.page = false) (h0 : s.get TRP.CFG_EN = 0)
    (hv : getBits v 0 8 = 0x20) (hc : (s.claim (resKey 4 0)).cls = 7) :
    (s.trpCfgWrite v).claim (resKey 4 0) = ⟨13, 5, 0, 0⟩ ∧
      ((∀ w, s.mcx.encOn ≠ some (s.now / tBus, w)) →
        (s.trpCfgWrite v).get MCX.ENC_CFG_EN = 0 ∧ (s.trpCfgWrite v).get (HDR.ERR_CODE_CODE MCX.page) = eCLAIM_LOST) ∧
      (∀ w, s.mcx.encOn = some (s.now / tBus, w) →
        (s.trpCfgWrite v).reg MCX.ENC_CFG = w ∧ (s.trpCfgWrite v).get (HDR.ERR_CODE_CODE MCX.page) = eCLAIM_DENIED) := by
  obtain ⟨-, -, w0, hw⟩ := State.take_trpCfg (v := v) hl
  rw [State.trpCfgWrite_ball ht hl h0 hv, hw, State.trpEval_get _ (inMcx_encCfg _ rfl), State.trpEval_get _ inMcx_errCode,
    State.reg_of_get (State.trpEval_get _ (inMcx_encCfg ⟨MCX.ENC_CFG, 0, 32⟩ rfl))]
  refine ⟨(State.claim_congr (State.trpEval_claims _) _).trans (State.tripBall_claim _ 5), fun h => ?_,
    fun w h => State.tripBall_refused hc h⟩
  rw [State.tripBall_early (s := s.setReg TRP.CFG w0) (n := 5) hc h, State.get_setClaim, State.get_setClaim]
  exact State.encDisplaced_leaves _ 5

end trpCfg

end Sys2Proof.Machine
end

section
/-! The sensor interfaces (R230, R231, R256, R490): enables, a peak of the resolver, an edge of the encoder. -/

namespace Sys2Proof.Machine

/-- With islands fitted a write is judged by its own rule. -/
theorem State.fitted_isl {s : State} (h : s.isl = true) (k : PageKind) (pg ofs : Nat) (val : Word) (f : State → State) :
    s.fitted k pg ofs val f = f s := if_pos h

/-- While the page is not locked a write's value is the one its field will hold. -/
theorem State.willBe_open {s : State} {pg : Nat} (h : s.locked pg = false) (rwl : Bool) (f : Fld) (val : Word) :
    s.willBe pg rwl f val = getBits val f.lo f.w := by
  simp [State.willBe, h]

theorem getBits_or_one_en (v : Word) : (getBits (v ||| 1) 0 1 == 1) = true := by
  rw [getBits_one_beq]
  simp

/-- EN, which is RW, takes its bit of a write, locked or not. -/
theorem State.get_take_en {s : State} {k : PageKind} {pg ofs : Nat} {val : Word} {row : RegRow} {j : Nat} {f : Fld}
    (hr : rowAt k ofs = some (row, j)) (he : ofs ≠ 0x20) (hf : f.addr = pg + ofs) (hlo : f.lo = 0) (hw : f.w = 1)
    (hrw : row.rw.testBit 0 = true) : (s.take k pg ofs val).get f = getBits val 0 1 := by
  rw [State.get_take_open hr he hf (by omega) fun i hi => ?_, hlo, hw]
  obtain rfl : i = 0 := by omega
  rw [hlo, Nat.testBit_or, hrw, Bool.true_or]

/-! ### The resolver interface (R230, R256) -/

section resolver
variable {s : State} {v : Word}

theorem rowAt_rsvCfg : rowAt .mcx 0x200 = some (⟨0x200, 1, 0, 0x1, 0xFFFFE, 0x0, 0x0, 0x0, 0x0, 0x14⟩, 0) := by decide

/-- What an enable is judged on. -/
def State.rsvConds (s : State) (v : Word) : List (Bool × Nat) :=
  [(getBits v 2 2 == 3 || getBits v 4 4 == 0, eRANGE), (s.get (MCX.M_CFG_PP (getBits v 1 1)) % max 1 (getBits v 4 4) != 0, xRATIO)]

/-- What an enable does once its ball is claimed. -/
def State.rsvStart (s : State) (val : Word) : State :=
  let (i, s) := s.free
  let (j, s) := s.free
  let s := s.take .mcx MCX.page 0x200 val
  { s with mcx := { s.mcx with rsTh := Config.freeWord i, rsW := Config.freeWord j, rsAt := s.now } }

theorem State.rsvStart_claims (s : State) (val : Word) : (s.rsvStart val).claims = s.claims := State.take_claims ..

/-- An enable of the resolver interface. -/
theorem State.rsvCfgWrite_enable (hi : s.isl = true) (hl : s.locked MCX.page = false) (h0 : s.get MCX.RSV_CFG_EN = 0) :
    s.rsvCfgWrite (v ||| 1) = s.judge MCX.page 0x200 (s.rsvConds v)
      (fun s => s.claimAll MCX.page 0x200 [resKey 4 3] 7 0 (fun s => s.rsvStart (v ||| 1))) := by
  unfold State.rsvCfgWrite
  rw [State.fitted_isl hi]
  simp only [State.willBe_open hl, getBits_or_one_en, State.on_of_get_zero h0, Bool.not_false, Bool.and_self, Bool.true_and,
    if_true, getBits_or_one _ _ _ (Nat.le_refl 1), getBits_or_one v 2 2 (by decide), getBits_or_one v 4 4 (by decide)]
  rfl

theorem State.rsvConds_range (hfex : getBits v 2 2 ≠ 3) (hrpp : getBits v 4 4 ≠ 0) : s.rsvConds v =
    [(false, eRANGE), (s.get (MCX.M_CFG_PP (getBits v 1 1)) % getBits v 4 4 != 0, xRATIO)] := by
  rw [State.rsvConds, beq_false_of_ne hfex, beq_false_of_ne hrpp, Nat.max_eq_right (Nat.pos_of_ne_zero hrpp)]
  rfl

/-- Pole pairs that RPP does not divide are refused. -/
theorem State.rsvCfgWrite_ratio (ht : s.takes MCX.page) (hi : s.isl = true) (hl : s.locked MCX.page = false)
    (h0 : s.get MCX.RSV_CFG_EN = 0) (hfex : getBits v 2 2 ≠ 3) (hrpp : getBits v 4 4 ≠ 0)
    (hpp : s.get (MCX.M_CFG_PP (getBits v 1 1)) % getBits v 4 4 ≠ 0) :
    s.rsvCfgWrite (v ||| 1) = s.refuse MCX.page 0x200 xRATIO := by
  rw [State.rsvCfgWrite_enable hi hl h0, State.rsvConds_range hfex hrpp, bne_iff_ne.2 hpp]
  exact State.judge_first ht (c := (true, xRATIO)) rfl (by decide)

/-- An enable of the resolver interface claims its ball. -/
theorem State.rsvCfgWrite_starts (ht : s.takes MCX.page) (hi : s.isl = true) (hl : s.locked MCX.page = false)
    (h0 : s.get MCX.RSV_CFG_EN = 0) (hfex : getBits v 2 2 ≠ 3) (hrpp : getBits v 4 4 ≠ 0)
    (hpp : s.get (MCX.M_CFG_PP (getBits v 1 1)) % getBits v 4 4 = 0) (hc : s.claimable (resKey 4 3) 7 0 = true) :
    (s.rsvCfgWrite (v ||| 1)).get MCX.RSV_CFG_EN = 1 ∧ ((s.rsvCfgWrite (v ||| 1)).claim (resKey 4 3)).cls = 7 := by
  have hrun : s.rsvCfgWrite (v ||| 1) = (s.each [resKey 4 3] (fun s r => s.takeClaim r 7 0)).rsvStart (v ||| 1) := by
    rw [State.rsvCfgWrite_enable hi hl h0, State.rsvConds_range hfex hrpp, hpp]
    refine (State.judge_takes ht (by decide)).trans (State.claimAll_run _ ?_)
    simpa using hc
  rw [hrun]
  constructor
  · exact (State.get_take_en rowAt_rsvCfg (by decide) rfl rfl rfl (by decide)).trans (beq_iff_eq.1 (getBits_or_one_en v))
  · rw [State.claim_congr (State.rsvStart_claims _ _)]
    exact (State.claim_each_takeClaim s [resKey 4 3] 7 0 _ (by simp)).1

/-! ### A peak of the excitation (R230) -/

/-- The square of the amplitude of a peak. -/
def State.rsvAmp2 (s : State) (sn cs : Int) : Nat :=
  (s.rsvIn (s.get MCX.RSV_CFG_SIN_AI) sn * s.rsvIn (s.get MCX.RSV_CFG_SIN_AI) sn +
    s.rsvIn (s.get MCX.RSV_CFG_COS_AI) cs * s.rsvIn (s.get MCX.RSV_CFG_COS_AI) cs).toNat

/-- The peaks outside the amplitude limits in a row, with this one. -/
def State.rsvBads (s : State) (a2 : Nat) : Nat :=
  if decide (a2 < s.get MCX.RSV_AMP_AMP_LO * s.get MCX.RSV_AMP_AMP_LO) ||
    decide (s.get MCX.RSV_AMP_AMP_HI * s.get MCX.RSV_AMP_AMP_HI < a2) then s.mcx.rsBad + 1 else 0

/-- The third peak in a row outside the amplitude limits is a fault of the resolver. -/
def State.rsvJudge (s : State) (n : Nat) : State :=
  if 3 ≤ n && !s.on MCX.SNS_STAT_RSV_FLT then (s.set MCX.SNS_STAT_RSV_FLT 1).sensFault (s.get MCX.RSV_CFG_MACH) 0 else s

/-- The angle of the peak's signals, a free one where both are 0, and the state after it is drawn. -/
def State.rsvRaw (s : State) (x y : Int) : Word × State :=
  let (i, s1) := s.free
  match atan2T (x : Rat) (y : Rat) with
  | some t => (wordOfTurn t, s)
  | none => (Config.freeWord i, s1)

/-- The loop follows an angle, and the interface keeps its count of bad peaks. -/
def State.rsvFollow (s : State) (raw : Word) (n : Nat) : State :=
  { s with mcx := { s.mcx with
    rsTh := (s.rsvTrack raw).1, rsW := (s.rsvTrack raw).2, rsAt := s.now, rsBad := n, rsSeen := true } }

theorem State.rsvRaw_keeps (x y : Int) : (s.rsvRaw x y).2.regs = s.regs ∧ (s.rsvRaw x y).2.mcx = s.mcx := by
  unfold State.rsvRaw
  dsimp only
  split <;> exact ⟨rfl, rfl⟩

/-- What a peak does to the state `q` in which its angle has been drawn. -/
def State.rsvPeakGo (q : Word × State) (a2 : Nat) : State :=
  ((q.2.rsvFollow q.1 (q.2.rsvBads a2)).set MCX.SNS_STAT_AMP (min 0xFFFF ((isqrt (4 * a2) + 1) / 2))).rsvJudge (q.2.rsvBads a2)

theorem State.rsvPeak_go (hi : s.isl = true) (h1 : s.get MCX.RSV_CFG_EN = 1) (sn cs : Int) :
    s.rsvPeak sn cs = State.rsvPeakGo (s.rsvRaw (s.rsvIn (s.get MCX.RSV_CFG_SIN_AI) sn) (s.rsvIn (s.get MCX.RSV_CFG_COS_AI) cs))
      (s.rsvAmp2 sn cs) :=
  if_pos (show (s.isl && s.on MCX.RSV_CFG_EN) = true by rw [hi, State.on_of_get_one h1]; rfl)

/-- A peak updates the loop and AMP, and is judged. -/
theorem State.rsvPeak_eq (hi : s.isl = true) (h1 : s.get MCX.RSV_CFG_EN = 1) (sn cs : Int) : ∃ (u : State) (amp : Nat),
    u.regs = s.regs ∧ u.mcx.rsBad = s.rsvBads (s.rsvAmp2 sn cs) ∧ u.mcx.rsSeen = true ∧
      s.rsvPeak sn cs = (u.set MCX.SNS_STAT_AMP amp).rsvJudge (s.rsvBads (s.rsvAmp2 sn cs)) := by
  rw [State.rsvPeak_go hi h1]
  obtain ⟨hregs, hmcx⟩ := s.rsvRaw_keeps (s.rsvIn (s.get MCX.RSV_CFG_SIN_AI) sn) (s.rsvIn (s.get MCX.RSV_CFG_COS_AI) cs)
  generalize s.rsvRaw (s.rsvIn (s.get MCX.RSV_CFG_SIN_AI) sn) (s.rsvIn (s.get MCX.RSV_CFG_COS_AI) cs) = q at hregs hmcx
  have hget : ∀ g, q.2.get g = s.get g := fun g => State.get_congr g (by rw [State.reg, hregs, State.reg])
  have hn : q.2.rsvBads (s.rsvAmp2 sn cs) = s.rsvBads (s.rsvAmp2 sn cs) := by
    rw [State.rsvBads, hget, hget, hmcx, State.rsvBads]
  refine ⟨q.2.rsvFollow q.1 (s.rsvBads (s.rsvAmp2 sn cs)), min 0xFFFF ((isqrt (4 * s.rsvAmp2 sn cs) + 1) / 2), hregs, rfl, rfl,
    ?_⟩
  rw [State.rsvPeakGo, hn]

/-- A peak within the amplitude limits ends the count of bad ones. -/
theorem State.rsvPeak_good (hi : s.isl = true) (h1 : s.get MCX.RSV_CFG_EN = 1) {sn cs : Int}
    (hlo : s.get MCX.RSV_AMP_AMP_LO ^ 2 ≤ s.rsvAmp2 sn cs) (hhi : s.rsvAmp2 sn cs ≤ s.get MCX.RSV_AMP_AMP_HI ^ 2) :
    (s.rsvPeak sn cs).mcx.rsBad = 0 ∧ (s.rsvPeak sn cs).mcx.rsSeen = true ∧
      (s.rsvPeak sn cs).sameRegsBut s [MCX.SNS_STAT] := by
  obtain ⟨u, amp, hregs, hbad, hseen, he⟩ := State.rsvPeak_eq hi h1 sn cs
  have hn : s.rsvBads (s.rsvAmp2 sn cs) = 0 := by
    rw [pow_two] at hlo hhi
    rw [State.rsvBads, decide_eq_false hlo.not_gt, decide_eq_false hhi.not_gt]
    rfl
  rw [hn] at hbad he
  rw [he]
  refine ⟨hbad, hseen, fun a ha => ?_⟩
  have hne : a ≠ MCX.SNS_STAT_AMP.addr := by simpa using ha
  refine (State.reg_set_of_ne _ _ _ hne).trans ?_
  rw [State.reg, hregs, State.reg]

/-- The SENS_FLT bits lie apart from what the sensor interfaces report. -/
theorem sensFlt_apart {m : Nat} (hm : m < 2) {g : Fld} (h : MCX.RSV_CFG ≤ g.addr) : (MCX.M_STAT_SENS_FLT m).apart g := by
  refine .inl ?_
  show MCX.M_STAT m ≠ g.addr
  unfold MCX.M_STAT
  unfold MCX.RSV_CFG at h
  omega

/-- A sensor interface that faults shows it, and its machine SENS_FLT. -/
theorem State.sensFault_shows (s : State) {f : Fld} (hf : f.addr = MCX.SNS_STAT) (hw : f.lo + f.w ≤ 32) (hp : 1 ≤ f.w)
    {m : Nat} (hm : m < 2) (src : Nat) : ((s.set f 1).sensFault m src).get f = 1 ∧
    ((s.set f 1).sensFault m src).get (MCX.M_STAT_SENS_FLT m) = 1 ∧ ((s.set f 1).sensFault m src).raised MCX.page 3 := by
  obtain ⟨hflt, hraised, hkeep⟩ := (s.set f 1).sensFault_leaves hm src
  have hle : MCX.RSV_CFG ≤ f.addr := by rw [hf]; decide
  refine ⟨?_, hflt, hraised⟩
  rw [hkeep.get f (by unfold inMcx; rw [hf]; decide) (by rw [hf]; decide) ⟨machQuiet_of_le hle, sensFlt_apart hm hle⟩,
    State.get_set_self _ _ _ hw, Nat.mod_eq_of_lt (Nat.one_lt_two_pow (by omega))]

/-- The third peak below AMP_LO in a row is a fault. -/
theorem State.rsvPeak_third (hi : s.isl = true) (h1 : s.get MCX.RSV_CFG_EN = 1) {sn cs : Int}
    (hlo : s.rsvAmp2 sn cs < s.get MCX.RSV_AMP_AMP_LO ^ 2) (hbad : s.mcx.rsBad = 2) (h0 : s.get MCX.SNS_STAT_RSV_FLT = 0) :
    (s.rsvPeak sn cs).get MCX.SNS_STAT_RSV_FLT = 1 ∧
      (s.rsvPeak sn cs).get (MCX.M_STAT_SENS_FLT (s.get MCX.RSV_CFG_MACH)) = 1 ∧ (s.rsvPeak sn cs).raised MCX.page 3 := by
  obtain ⟨u, amp, hregs, -, -, he⟩ := State.rsvPeak_eq hi h1 sn cs
  have hn : s.rsvBads (s.rsvAmp2 sn cs) = 3 := by
    rw [pow_two] at hlo
    rw [State.rsvBads, decide_eq_true hlo, hbad]
    rfl
  have hget : ∀ g : Fld, MCX.SNS_STAT_AMP.apart g → (u.set MCX.SNS_STAT_AMP amp).get g = s.get g := fun g hg => by
    rw [State.get_set_apart _ _ _ _ hg, State.get, State.reg, hregs, State.get, State.reg]
  have hoff : (u.set MCX.SNS_STAT_AMP amp).on MCX.SNS_STAT_RSV_FLT = false :=
    State.on_of_get_zero ((hget _ (by decide)).trans h0)
  rw [he, hn, State.rsvJudge, hoff, hget MCX.RSV_CFG_MACH (by decide)]
  exact State.sensFault_shows _ rfl (by decide) (by decide) (s.get_lt _) 0

end resolver

/-! ### The encoder interface (R231, R256) -/

section encoder
variable {s : State} {v : Word}

theorem rowAt_encCfg : rowAt .mcx 0x20C = some (⟨0x20C, 1, 0, 0x1, 0xFFFF00FE, 0x0, 0x0, 0x0, 0x0, 0x0⟩, 0) := by decide

/-- What an enable does once its balls are claimed. -/
def State.encStart (s : State) (val : Word) : State :=
  let was := s.reg MCX.ENC_CFG
  let s := s.take .mcx MCX.page 0x20C val
  { s with mcx := { s.mcx with
    encOn := some (s.now / tBus, was), encRef := false, encSpd := false, edge1 := 0, edge2 := 0, encZAt := 0 } }

theorem State.encStart_claims (s : State) (val : Word) : (s.encStart val).claims = s.claims := State.take_claims ..

/-- An enable of the encoder interface. -/
theorem State.encCfgWrite_enable (hi : s.isl = true) (hl : s.locked MCX.page = false) (h0 : s.get MCX.ENC_CFG_EN = 0) :
    s.encCfgWrite (v ||| 1) = s.judge MCX.page 0x20C [(getBits v 16 16 == 0, eRANGE)]
      (fun s => s.claimAll MCX.page 0x20C [resKey 4 0, resKey 4 1, resKey 4 2] 7 1 (fun s => s.encStart (v ||| 1))) := by
  unfold State.encCfgWrite
  rw [State.fitted_isl hi]
  simp only [State.willBe_open hl, getBits_or_one_en, State.on_of_get_zero h0, Bool.not_false, Bool.and_self, Bool.true_and,
    if_true, getBits_or_one v 16 16 (by decide)]
  rfl

/-- An encoder of no lines is refused. -/
theorem State.encCfgWrite_range (ht : s.takes MCX.page) (hi : s.isl = true) (hl : s.locked MCX.page = false)
    (h0 : s.get MCX.ENC_CFG_EN = 0) (hv : getBits v 16 16 = 0) : s.encCfgWrite (v ||| 1) = s.refuse MCX.page 0x20C eRANGE := by
  rw [State.encCfgWrite_enable hi hl h0, hv]
  exact State.judge_range ht.1 (by simp) (by decide)

/-- An enable of the encoder interface claims its three balls. -/
theorem State.encCfgWrite_starts (ht : s.takes MCX.page) (hi : s.isl = true) (hl : s.locked MCX.page = false)
    (h0 : s.get MCX.ENC_CFG_EN = 0) (hv : getBits v 16 16 ≠ 0) (hc : ∀ b, b < 3 → s.claimable (resKey 4 b) 7 1 = true) :
    (s.encCfgWrite (v ||| 1)).get MCX.ENC_CFG_EN = 1 ∧ (s.encCfgWrite (v ||| 1)).mcx.encRef = false ∧
      ∀ b, b < 3 → ((s.encCfgWrite (v ||| 1)).claim (resKey 4 b)).cls = 7 := by
  have hrun : s.encCfgWrite (v ||| 1) =
      (s.each [resKey 4 0, resKey 4 1, resKey 4 2] (fun s r => s.takeClaim r 7 1)).encStart (v ||| 1) := by
    rw [State.encCfgWrite_enable hi hl h0, beq_false_of_ne hv]
    refine (State.judge_takes ht (by simp)).trans (State.claimAll_run _ ?_)
    simpa using ⟨hc 0 (by decide), hc 1 (by decide), hc 2 (by decide)⟩
  rw [hrun]
  refine ⟨?_, rfl, fun b hb => ?_⟩
  · exact (State.get_take_en rowAt_encCfg (by decide) rfl rfl rfl (by decide)).trans (beq_iff_eq.1 (getBits_or_one_en v))
  · rw [State.claim_congr (State.encStart_claims _ _)]
    exact (State.claim_each_takeClaim s [resKey 4 0, resKey 4 1, resKey 4 2] 7 1 _ (by interval_cases b <;> simp)).1

/-! ### An edge of the inputs (R231) -/

/-- The interface knows these levels of its inputs. -/
def State.encLevels (s : State) (a b z : Bool) : State := { s with mcx := { s.mcx with encA := a, encB := b, encZ := z } }

/-- A count of one, up or down. -/
def State.encCount (s : State) (up : Bool) : State :=
  let t := s.setReg MCX.ENC_CNT (s.reg MCX.ENC_CNT + (if up then 1 else 0xFFFFFFFF))
  { t with mcx := { t.mcx with edge2 := t.mcx.edge1, edge1 := t.now, encDir := if up then 1 else -1, encSpd := s.mcx.edge1 != 0 } }

/-- The quarters of a line from the levels before to these. -/
def State.encQuarters (s : State) (a b : Bool) : Nat := (quad a b + 4 - quad s.mcx.encA s.mcx.encB) % 4

/-- What the levels of A and B do: an edge of both is a fault, an edge of one counts (R231). -/
def State.encStep (s : State) (a b z : Bool) : State :=
  if s.encQuarters a b == 2 then (s.encLevels a b z).encFault MCX.SNS_STAT_ENC_ILL
  else if s.encQuarters a b == 0 then s.encLevels a b z
  else (s.encLevels a b z).encCount ((s.encQuarters a b == 1) != s.on MCX.ENC_CFG_DIR)

/-- A field above the machines' registers, that the fault itself does not write, is kept. -/
theorem State.get_encFault (s : State) {f g : Fld} (hg : inMcx g) (hr : MCX.RSV_CFG ≤ g.addr) (hf : f.apart g) :
    (s.encFault f).get g = s.get g := by
  have hm : s.get MCX.ENC_CFG_MACH < 2 := s.get_lt _
  obtain ⟨-, -, hkeep⟩ := (s.set f 1).sensFault_leaves hm 1
  refine (hkeep.get g hg ?_ ⟨machQuiet_of_le hr, sensFlt_apart hm hr⟩).trans (State.get_set_apart _ _ _ _ hf)
  unfold MCX.RSV_CFG at hr
  unfold MCX.page
  omega

theorem State.get_encCount (s : State) (up : Bool) {g : Fld} (hg : g.addr ≠ MCX.ENC_CNT) : (s.encCount up).get g = s.get g :=
  State.get_congr g (s.reg_setReg_of_ne _ hg)

theorem State.encStep_zen (a b z : Bool) : (s.encStep a b z).on MCX.ENC_CFG_ZEN = s.on MCX.ENC_CFG_ZEN := by
  have hkeep : (s.encStep a b z).get MCX.ENC_CFG_ZEN = s.get MCX.ENC_CFG_ZEN := by
    unfold State.encStep
    split
    · exact State.get_encFault _ (inMcx_encCfg _ rfl) (by decide) (by decide)
    split
    · rfl
    · exact State.get_encCount _ _ (by decide)
  rw [State.on, hkeep, State.on]

/-- The levels of an edge, filtered. -/
def State.encFilts (s : State) (ra rb rz : Bool × BitVec 4) : Bool × Bool × Bool :=
  (s.encFilt s.mcx.encA ra, s.encFilt s.mcx.encB rb, s.encFilt s.mcx.encZ rz)

/-- An edge that is none of the index. -/
theorem State.encEdge_eq {ra rb rz : Bool × BitVec 4} {a b z : Bool} (hi : s.isl = true) (h1 : s.get MCX.ENC_CFG_EN = 1)
    (hf : s.encFilts ra rb rz = (a, b, z)) (hno : z = false ∨ s.mcx.encZ = true ∨ s.get MCX.ENC_CFG_ZEN = 0) :
    s.encEdge ra rb rz = s.encStep a b z := by
  have hrise : (z && !s.mcx.encZ && (s.encStep a b z).on MCX.ENC_CFG_ZEN) = false := by
    rw [State.encStep_zen]
    rcases hno with h | h | h
    · rw [h]; rfl
    · rw [h, Bool.not_true, Bool.and_false, Bool.false_and]
    · rw [State.on_of_get_zero h, Bool.and_false]
  obtain ⟨rfl, rfl, rfl⟩ : s.encFilt s.mcx.encA ra = a ∧ s.encFilt s.mcx.encB rb = b ∧ s.encFilt s.mcx.encZ rz = z := by
    simpa [State.encFilts] using hf
  rw [State.encEdge, if_pos (by rw [hi, State.on_of_get_one h1]; rfl)]
  exact if_neg (fun h => Bool.false_ne_true (hrise.symm.trans h))

/-- Levels that have not held for FILT change nothing. -/
theorem State.encEdge_short {a b z : Bool} {h : BitVec 4} (hh : h.toNat < s.get MCX.ENC_CFG_FILT) :
    s.encEdge (a, h) (b, h) (z, h) = s := by
  by_cases hrun : (s.isl && s.on MCX.ENC_CFG_EN) = true
  swap
  · exact if_neg hrun
  obtain ⟨hi, hon⟩ := Bool.and_eq_true_iff.1 hrun
  have hf : ∀ old x, s.encFilt old (x, h) = old := fun old x => if_neg hh.not_ge
  have h1 : s.get MCX.ENC_CFG_EN = 1 := by
    have hlt : s.get MCX.ENC_CFG_EN < 2 := s.get_lt _
    have hne : s.get MCX.ENC_CFG_EN ≠ 0 := by simpa [State.on] using hon
    omega
  have hno : s.mcx.encZ = false ∨ s.mcx.encZ = true ∨ s.get MCX.ENC_CFG_ZEN = 0 := by cases s.mcx.encZ <;> simp
  rw [State.encEdge_eq (a := s.mcx.encA) (b := s.mcx.encB) hi h1 (by simp only [State.encFilts, hf]) hno]
  have hq : s.encQuarters s.mcx.encA s.mcx.encB = 0 := by unfold State.encQuarters; omega
  rw [State.encStep, hq]
  rfl

/-- Levels that have held for FILT, with no edge of the index. -/
theorem State.encEdge_held {a b z : Bool} {h : BitVec 4} (hi : s.isl = true) (h1 : s.get MCX.ENC_CFG_EN = 1)
    (hh : s.get MCX.ENC_CFG_FILT ≤ h.toNat) (hno : z = false ∨ s.mcx.encZ = true ∨ s.get MCX.ENC_CFG_ZEN = 0) :
    s.encEdge (a, h) (b, h) (z, h) = s.encStep a b z := by
  have hf : ∀ old x, s.encFilt old (x, h) = x := fun old x => if_pos hh
  exact State.encEdge_eq hi h1 (by simp only [State.encFilts, hf]) hno

/-- A count changes ENC_CNT alone. -/
theorem State.encCount_same (s : State) (up : Bool) : (s.encCount up).reg MCX.ENC_CNT =
    s.reg MCX.ENC_CNT + (if up then 1 else -1) ∧ (s.encCount up).sameRegsBut s [MCX.ENC_CNT] :=
  ⟨s.reg_setReg_self MCX.ENC_CNT _, fun a ha => s.reg_setReg_of_ne _ (by simpa using ha)⟩

theorem State.encStep_up {a b z : Bool} (hq : s.encQuarters a b = 1) : (s.encStep a b z).reg MCX.ENC_CNT =
    s.reg MCX.ENC_CNT + (if s.get MCX.ENC_CFG_DIR = 0 then 1 else -1) ∧ (s.encStep a b z).sameRegsBut s [MCX.ENC_CNT] := by
  obtain ⟨hcnt, hregs⟩ := (s.encLevels a b z).encCount_same ((1 == 1) != s.on MCX.ENC_CFG_DIR)
  have hlt : s.get MCX.ENC_CFG_DIR < 2 := s.get_lt _
  rw [State.encStep, hq]
  refine ⟨hcnt.trans (congrArg (s.reg MCX.ENC_CNT + ·) ?_), hregs⟩
  unfold State.on
  interval_cases s.get MCX.ENC_CFG_DIR <;> rfl

theorem State.encStep_down {a b z : Bool} (hq : s.encQuarters a b = 3) : (s.encStep a b z).reg MCX.ENC_CNT =
    s.reg MCX.ENC_CNT - (if s.get MCX.ENC_CFG_DIR = 0 then 1 else -1) ∧ (s.encStep a b z).sameRegsBut s [MCX.ENC_CNT] := by
  obtain ⟨hcnt, hregs⟩ := (s.encLevels a b z).encCount_same ((3 == 1) != s.on MCX.ENC_CFG_DIR)
  have hlt : s.get MCX.ENC_CFG_DIR < 2 := s.get_lt _
  rw [State.encStep, hq, BitVec.sub_eq_add_neg]
  refine ⟨hcnt.trans (congrArg (s.reg MCX.ENC_CNT + ·) ?_), hregs⟩
  unfold State.on
  interval_cases s.get MCX.ENC_CFG_DIR <;> rfl

/-- An edge of both inputs is a fault and no count. -/
theorem State.encStep_both {a b z : Bool} (hq : s.encQuarters a b = 2) : (s.encStep a b z).reg MCX.ENC_CNT = s.reg MCX.ENC_CNT ∧
    (s.encStep a b z).get MCX.SNS_STAT_ENC_ILL = 1 ∧ (s.encStep a b z).raised MCX.page 3 := by
  obtain ⟨hill, -, hraised⟩ := (s.encLevels a b z).sensFault_shows (f := MCX.SNS_STAT_ENC_ILL) rfl (by decide) (by decide)
    (m := (s.encLevels a b z).get MCX.ENC_CFG_MACH) (State.get_lt _ _) 1
  rw [State.encStep, hq]
  refine ⟨?_, hill, hraised⟩
  exact State.reg_of_get (State.get_encFault (s.encLevels a b z) (f := MCX.SNS_STAT_ENC_ILL) (g := MCX.ENC_CNT_CNT)
    ⟨by decide, by decide⟩ (by decide) (by decide))

/-- ALIGN takes the present count as that at OFFS. -/
theorem execEncAlign_refs (ht : s.takes MCX.page) (h1 : s.get MCX.ENC_CFG_EN = 1) : ∃ t, execEncAlign s = .next t ∧
    t.reg MCX.ENC_CNT = 0 ∧ t.mcx.encRef = true ∧ t.sameRegsBut s [MCX.ENC_CNT] :=
  ⟨_, next_congr (State.judge_takes ht (by simp)), s.reg_setReg_self MCX.ENC_CNT 0, State.on_of_get_one h1,
    fun _ ha => s.reg_setReg_of_ne 0 (List.ne_of_not_mem_cons ha)⟩

/-- After four periods without an edge the speed is 0. -/
theorem execEncSpeedTimeout_stops (h : s.mcx.encSpd = true) : ∃ t, execEncSpeedTimeout s = .next t ∧ t.encRate = 0 ∧
    t.regs = s.regs ∧ t.now = max s.now (s.mcx.edge1 + 4 * s.tc) :=
  ⟨_, next_congr (if_pos h), rfl, rfl, rfl⟩

end encoder

end Sys2Proof.Machine
end

section
/-! A host write to Cc_CFG (R220, R247, R249): what an enable and a disable of a brake chopper leave. -/

namespace Sys2Proof.Machine

/-! ### The registers of a chopper -/

/-- The row of the choppers' CFG registers. -/
theorem rowAt_chopCfg {c : Nat} (hc : c < 4) :
    rowAt .mcx (0x300 + 0x20 * c) = some (⟨0x300, 4, 32, 0x1, 0x3FFFE, 0x0, 0x0, 0x0, 0x0, 0x5000⟩, c) := by
  interval_cases c <;> decide

theorem chopCfg_addr (c : Nat) : MCX.C_CFG c = MCX.page + (0x300 + 0x20 * c) := by unfold MCX.C_CFG MCX.page; omega

/-- A register of a chopper lies on the page of MCX, above its header. -/
theorem inMcx_chopper {c : Nat} (hc : c < 4) {g : Fld} {o : Nat} (ho : o < 0x20) (hg : g.addr = MCX.page + (0x300 + 0x20 * c + o)) :
    inMcx g ∧ g.addr ≠ MCX.page + 0x14 ∧ g.addr ≠ MCX.page + 0x20 := by
  unfold inMcx
  omega

theorem inMcx_chopCfg {c : Nat} (hc : c < 4) {g : Fld} (hg : g.addr = MCX.C_CFG c) :
    inMcx g ∧ g.addr ≠ MCX.page + 0x14 ∧ g.addr ≠ MCX.page + 0x20 :=
  inMcx_chopper hc (o := 0) (by decide) (by rw [hg]; exact chopCfg_addr c)

theorem inMcx_chopStat {c : Nat} (hc : c < 4) {g : Fld} (hg : g.addr = MCX.C_STAT c) :
    inMcx g ∧ g.addr ≠ MCX.page + 0x14 ∧ g.addr ≠ MCX.page + 0x20 :=
  inMcx_chopper hc (o := 0xC) (by decide) (by rw [hg]; unfold MCX.C_STAT MCX.page; omega)

theorem inMcx.lpw {g : Fld} (h : inMcx g) : Machine.outside LPW.page g := h.outside (by decide)

theorem chopStat_ne_cfg (c c' : Nat) : MCX.C_STAT c ≠ MCX.C_CFG c' := by unfold MCX.C_STAT MCX.C_CFG; omega

/-! ### An enable (R220, R247) -/

section enable
variable {s : State} {c : Nat} {v : Word} {leg prd : Nat}

/-- What an enable does once its leg is claimed: MCX sets the leg up in LOW_PWM. -/
def State.chopStart (s : State) (c : Nat) (val : Word) (leg prd : Nat) : State :=
  let s := s.take .mcx MCX.page (0x300 + 0x20 * c) val
  let s := { s with mcx := { s.mcx with
    fails := SMap.put (fun _ => 0) s.mcx.fails c 0, chRes := SMap.put (fun _ => []) s.mcx.chRes c [] } }
  let s := (s.mcxLegSetup leg prd).set (LPW.CFG_MODE leg) 3
  let s := (s.set (LPW.CMP_CMP leg) (16 * prd)).legStart leg
  (((s.setDuty c 0).set (MCX.C_STAT_STATE c) 1).set (MCX.C_STAT_DUTY c) 0).refreshLegs

/-- An enable of a chopper that is off, of a leg of the build. -/
theorem State.chopCfgWrite_enable (ht : s.takes MCX.page) (hi : s.isl = true) (hl : s.locked MCX.page = false)
    (he : s.chEn c = false) (hleg : leg = getBits v 1 4) (hlt : leg < 12) (hprd : prd = s.prdOf (getBits v 11 7))
    (hmin : s.get MCX.CHF_CFG_CHF_T + 10 ≤ s.get (MCX.C_LIM_MINON c)) : s.chopCfgWrite c (v ||| 1) =
    if ([0, 1].flatMap s.machLegs).contains leg then s.deny MCX.page (0x300 + 0x20 * c) (resKey 2 leg) 6 c
    else s.judge MCX.page (0x300 + 0x20 * c) [(!s.threshOk, xTHRESH), (!mcxPrdOk prd, xCARRIER), (s.chState c == 3, xSTATE)]
      (fun s => s.claimAll MCX.page (0x300 + 0x20 * c) [resKey 2 leg] 6 c (fun s => s.chopStart c (v ||| 1) leg prd)) := by
  unfold State.chopCfgWrite
  rw [State.fitted_isl hi]
  simp only [State.willBe_open hl, getBits_or_one_en, he, Bool.not_false, Bool.and_false, Bool.false_and, Bool.true_and,
    getBits_or_one v 1 4 (by decide), getBits_or_one v 11 7 (by decide), ← hleg, ← hprd, minonOk, if_true]
  exact State.judge_takes ht (by simpa using ⟨hlt, hmin⟩)

/-- The leg of a machine is denied. -/
theorem State.chopCfgWrite_denied (ht : s.takes MCX.page) (hi : s.isl = true) (hl : s.locked MCX.page = false)
    (hc : c < 4) (he : s.chEn c = false) (hleg : leg = getBits v 1 4) (hlt : leg < 12)
    (hmin : s.get MCX.CHF_CFG_CHF_T + 10 ≤ s.get (MCX.C_LIM_MINON c)) (hm : leg ∈ s.machLegs 0 ∨ leg ∈ s.machLegs 1) :
    (s.chopCfgWrite c (v ||| 1)).chEn c = false ∧
      (s.chopCfgWrite c (v ||| 1)).get (HDR.ERR_CODE_CODE MCX.page) = eCLAIM_DENIED ∧
      (s.chopCfgWrite c (v ||| 1)).claims = s.claims := by
  have hmine : ([0, 1].flatMap s.machLegs).contains leg = true := by simpa using hm
  obtain ⟨hin, -, herr⟩ := inMcx_chopCfg (g := MCX.C_CFG_EN c) hc rfl
  rw [State.chopCfgWrite_enable ht hi hl he hleg hlt rfl hmin, if_pos hmine]
  refine ⟨?_, (State.refuse_code _ _ _ _).1, s.deny_claims ..⟩
  rw [State.chEn, State.on, s.get_deny _ _ _ _ _ (hin.outside (by decide)) herr]
  exact he

/-- The address of register `o` of a leg's slot. -/
theorem legSlot_addr (k o : Nat) : 0x40120080 + o + 0x20 * k = 0x40120080 + 0x20 * k + o := Nat.add_right_comm ..

/-- A write to a register of a leg's slot. -/
theorem State.LegFrame.setLeg {s t : State} (h : LegFrame (outside LPW.page) s t) {k o : Nat} (hk : k < 12) (ho : o < 0x20)
    {f : Fld} (hf : f.addr = 0x40120080 + 0x20 * k + o) (x : Nat) : LegFrame (outside LPW.page) s (t.set f x) :=
  h.set (fun _ hg => hg.apart (by rw [hf]; unfold LPW.page; omega) (by rw [hf]; unfold LPW.page; omega)) x

/-- The set-up of a leg for a chopper: LOW_PWM, its carrier, and no conduction. -/
def State.chopLeg (s : State) (leg prd : Nat) : State :=
  (((s.mcxLegSetup leg prd).set (LPW.CFG_MODE leg) 3).set (LPW.CMP_CMP leg) (16 * prd)).legStart leg

theorem State.chopLeg_frame (s : State) (hlt : leg < 12) (prd : Nat) : LegFrame (outside LPW.page) s (s.chopLeg leg prd) := by
  have hcfg : ∀ w, LegFrame (outside LPW.page) s (s.setReg (LPW.CFG leg) w) := fun w =>
    ⟨fun g hg => State.get_congr g (s.reg_setReg_of_ne w (by unfold outside LPW.page at hg; unfold LPW.CFG; omega)), rfl, rfl,
      rfl, rfl, rfl⟩
  have hset := ((((hcfg (putBits (putBits (s.reg (LPW.CFG leg)) 4 2 3) 6 1 1)).setLeg hlt (o := 8) (by decide)
    (f := LPW.PHASE_PHASE leg) (legSlot_addr leg 8) 0).setLeg hlt (o := 4) (by decide) (f := LPW.PRD_PRD leg)
    (legSlot_addr leg 4) prd).setLeg hlt (o := 0) (by decide) (f := LPW.CFG_MODE leg) rfl 3).setLeg hlt (o := 0xC) (by decide)
    (f := LPW.CMP_CMP leg) (legSlot_addr leg 0xC) (16 * prd)
  exact hset.trans ((State.legStart_frame _ hlt).mono fun _ hg => hg.legQuiet)

theorem State.chopLeg_shadow (s : State) (hlt : leg < 12) (hp : prd < 2 ^ 18) : (s.chopLeg leg prd).get (LPW.CFG_MODE leg) = 3 ∧
    (s.chopLeg leg prd).get (LPW.PRD_PRD leg) = prd ∧ (s.chopLeg leg prd).get (LPW.CMP_CMP leg) = 16 * prd % 2 ^ 22 := by
  have hstart : ∀ (t : State) (g : Fld) o, o < 0x18 → g.addr = 0x40120080 + 0x20 * leg + o → (t.legStart leg).get g = t.get g :=
    fun t g o ho hg => (State.legStart_frame t hlt).get g (legQuiet_slot hg ho)
  have hne : ∀ o o' : Nat, o ≠ o' → (o + 0x20 * leg) ≠ o' + 0x20 * leg := fun o o' h => by omega
  refine ⟨?_, ?_, ?_⟩
  · rw [State.chopLeg, hstart _ _ 0 (by decide) rfl, State.get_set_apart _ _ _ _ (.inl (hne _ _ (by decide))),
      State.get_set_self _ _ _ (by show 1 + 3 ≤ 32; decide)]
    rfl
  · rw [State.chopLeg, hstart _ _ 4 (by decide) (legSlot_addr leg 4), State.get_set_apart _ _ _ _ (.inl (hne _ _ (by decide))),
      State.get_set_apart _ _ _ _ (.inl (hne _ _ (by decide))), State.mcxLegSetup,
      State.get_set_self _ _ _ (by show 0 + 18 ≤ 32; decide)]
    exact Nat.mod_eq_of_lt hp
  · rw [State.chopLeg, hstart _ _ 0xC (by decide) (legSlot_addr leg 0xC)]
    exact State.get_set_self _ _ _ (by show 0 + 22 ≤ 32; decide)

/-- A chopper that shows a state and no duty. -/
def State.chopShow (s : State) (c st : Nat) : State :=
  ((s.setDuty c 0).set (MCX.C_STAT_STATE c) st).set (MCX.C_STAT_DUTY c) 0

theorem State.chopShow_frame (s : State) (c st : Nat) : LegFrame (fun g => g.addr ≠ MCX.C_STAT c) s (s.chopShow c st) := by
  have hduty : LegFrame (fun g => g.addr ≠ MCX.C_STAT c) s (s.setDuty c 0) := ⟨fun _ _ => rfl, rfl, rfl, rfl, rfl, rfl⟩
  exact (hduty.set (fun _ hg => .inl (Ne.symm hg)) _).set (fun _ hg => .inl (Ne.symm hg)) _

theorem State.chopShow_chState (s : State) (c : Nat) {st : Nat} (hst : st < 4) : (s.chopShow c st).chState c = st := by
  rw [State.chState, State.chopShow, State.get_set_apart _ _ _ _ (.inr (.inr (by show 0 + 2 ≤ 16; decide))),
    State.get_set_self _ _ _ (by show 0 + 2 ≤ 32; decide)]
  exact Nat.mod_eq_of_lt hst

/-- What an enable of a chopper leaves. -/
theorem State.chopStart_leaves (s : State) (hc : c < 4) (hlt : leg < 12) (hp : prd < 2 ^ 18) :
    (s.chopStart c (v ||| 1) leg prd).chEn c = true ∧ (s.chopStart c (v ||| 1) leg prd).chState c = 1 ∧
    (s.chopStart c (v ||| 1) leg prd).claims = s.claims ∧ (s.chopStart c (v ||| 1) leg prd).get (LPW.CFG_MODE leg) = 3 ∧
    (s.chopStart c (v ||| 1) leg prd).get (LPW.PRD_PRD leg) = prd ∧
    (s.chopStart c (v ||| 1) leg prd).get (LPW.CMP_CMP leg) = 16 * prd % 2 ^ 22 := by
  have hen : (s.take .mcx MCX.page (0x300 + 0x20 * c) (v ||| 1)).get (MCX.C_CFG_EN c) = 1 :=
    (State.get_take_en (rowAt_chopCfg hc) (by omega) (chopCfg_addr c) rfl rfl (by decide)).trans
      (beq_iff_eq.1 (getBits_or_one_en v))
  unfold State.chopStart
  extract_lets u _ w x y
  have hw : w.claims = s.claims ∧ ∀ g, w.get g = u.get g := ⟨State.take_claims .., fun _ => rfl⟩
  have hy : y = w.chopLeg leg prd := rfl
  obtain ⟨hmode, hper, hcmp⟩ := w.chopLeg_shadow hlt hp
  have hleg := w.chopLeg_frame hlt prd
  have hset := y.chopShow_frame c 1
  have hall := (y.chopShow c 1).refreshLegs_frame
  have hshadow : ∀ (g : Fld) o, o < 0x18 → g.addr = 0x40120080 + 0x20 * leg + o → (y.chopShow c 1).refreshLegs.get g = y.get g :=
    fun g o ho hg => (hall.get g (legQuiet_slot hg ho)).trans (hset.get g (by rw [hg]; unfold MCX.C_STAT; omega))
  show (y.chopShow c 1).refreshLegs.chEn c = true ∧ (y.chopShow c 1).refreshLegs.chState c = 1 ∧
    (y.chopShow c 1).refreshLegs.claims = s.claims ∧ (y.chopShow c 1).refreshLegs.get (LPW.CFG_MODE leg) = 3 ∧
    (y.chopShow c 1).refreshLegs.get (LPW.PRD_PRD leg) = prd ∧
    (y.chopShow c 1).refreshLegs.get (LPW.CMP_CMP leg) = 16 * prd % 2 ^ 22
  refine ⟨?_, ?_, ?_, ?_, ?_, ?_⟩
  · have hout := (inMcx_chopCfg (g := MCX.C_CFG_EN c) hc rfl).1.lpw
    refine State.on_of_get_one ?_
    rw [hall.get _ hout.legQuiet, hset.get _ (chopStat_ne_cfg c c).symm, hy, hleg.get _ hout, hw.2, hen]
  · rw [State.chState, hall.get _ (inMcx_chopStat hc rfl).1.lpw.legQuiet]
    exact y.chopShow_chState c (by decide)
  · rw [hall.claims, hset.claims, hy, hleg.claims, hw.1]
  · rw [hshadow _ 0 (by decide) rfl]; exact hmode
  · rw [hshadow _ 4 (by decide) (legSlot_addr leg 4)]; exact hper
  · rw [hshadow _ 0xC (by decide) (legSlot_addr leg 0xC)]; exact hcmp

/-- An enable with its leg free claims it and starts IDLE. -/
theorem State.chopCfgWrite_starts (ht : s.takes MCX.page) (hi : s.isl = true) (hl : s.locked MCX.page = false)
    (he : s.chEn c = false) (hst : s.chState c ≠ 3) (hleg : leg = getBits v 1 4) (hlt : leg < 12)
    (hprd : prd = s.prdOf (getBits v 11 7)) (hmin : s.get MCX.CHF_CFG_CHF_T + 10 ≤ s.get (MCX.C_LIM_MINON c))
    (hm0 : leg ∉ s.machLegs 0) (hm1 : leg ∉ s.machLegs 1) (hth : s.threshOk = true) (hpo : mcxPrdOk prd = true)
    (hcl : s.claimable (resKey 2 leg) 6 c = true) : s.chopCfgWrite c (v ||| 1) =
      (s.each [resKey 2 leg] (fun s r => s.takeClaim r 6 c)).chopStart c (v ||| 1) leg prd := by
  have hmine : ([0, 1].flatMap s.machLegs).contains leg = false := by simpa using ⟨hm0, hm1⟩
  rw [State.chopCfgWrite_enable ht hi hl he hleg hlt hprd hmin, if_neg (by rw [hmine]; decide), State.judge_takes ht]
  · exact State.claimAll_run _ (by simpa using hcl)
  · simpa [hth, hpo] using hst

end enable

/-! ### A disable (R249, R491) -/

section disable
variable (s : State) {c k : Nat} {v : Word}

theorem State.putLeg_outside (hk : k < 16) (x : Chan) : LegFrame (outside LPW.page) s (s.putLeg k x) :=
  (s.setChan_frame _ _ x).set (fun _ hg => hg.apart (by show LPW.page ≤ 0x40120098 + _; unfold LPW.page; omega)
    (by show 0x40120098 + _ < LPW.page + _; unfold LPW.page; omega)) _

/-- A leg acted on writes nothing outside the page of the legs, also a leg that the build does not have. -/
theorem State.legRunIn_outside (hk : k < 16) (per : Int → Nat) (x : Int) : LegFrame (outside LPW.page) s (s.legRunIn k per x) := by
  simp -zeta only [State.legRunIn]
  extract_lets ch rld sync woke waits s1 s2
  have h1 : LegFrame (outside LPW.page) s s1 := s.putLeg_outside hk _
  have h2 : LegFrame (outside LPW.page) s s2 := .ite (h1.trans ⟨fun _ _ => rfl, rfl, rfl, rfl, rfl, rfl⟩) h1
  have hout : ∀ g, outside LPW.page g → (LPW.STAT_OUT k).apart g := fun g hg =>
    hg.apart (by show LPW.page ≤ 0x40120098 + _; unfold LPW.page; omega)
      (by show 0x40120098 + _ < LPW.page + _; unfold LPW.page; omega)
  exact .ite (.refl _ s) (.ite (s.setChan_frame _ _ _) (.ite (h2.set hout _) h2))

theorem State.mcxMode_outside (hk : k < 16) (md : Nat) : LegFrame (outside LPW.page) s (s.mcxMode k md) := by
  have hset : LegFrame (outside LPW.page) s ((s.legSync k).set (LPW.CFG_MODE k) md) :=
    (s.legRunIn_outside hk _ _).set (fun _ hg => hg.apart (by show LPW.page ≤ 0x40120080 + _; unfold LPW.page; omega)
      (by show 0x40120080 + _ < LPW.page + _; unfold LPW.page; omega)) md
  exact hset.trans (State.putLeg_outside _ hk _)

/-- The state a chopper is left in by its disable: FAULT stands. -/
theorem State.chopDisable_chState (hc : c < 4) : (s.chopDisable c).chState c = if s.chState c = 3 then 3 else 0 := by
  have hout := (inMcx_chopStat (g := MCX.C_STAT_STATE c) hc rfl).1.lpw
  unfold State.chopDisable
  extract_lets k u w
  have hu : u.chState c = s.chState c := by
    rw [State.chState, State.get_set_apart _ _ _ _ (.inl (chopStat_ne_cfg c c).symm)]
    exact (s.mcxMode_outside (s.get_lt (MCX.C_CFG_LEG c)) 0).get _ hout
  have hw : w.chState c = if s.chState c = 3 then 3 else 0 := by
    by_cases h3 : s.chState c = 3
    · rw [if_pos h3, show w = u from if_neg (by rw [hu, h3]; decide), hu, h3]
    · rw [if_neg h3, show w = u.set (MCX.C_STAT_STATE c) 0 from if_pos (by rw [hu]; exact bne_iff_ne.2 h3), State.chState,
        State.get_set_self _ _ _ (by show 0 + 2 ≤ 32; decide)]
      rfl
  rw [State.chState, (State.refreshLegs_frame _).get _ hout.legQuiet, (State.legStop_frame _ (fun _ => True) k).get _ trivial,
    State.get_release, State.get_set_apart _ _ _ _ (.inr (.inr (by show 0 + 2 ≤ 16; decide))), ← hw]
  rfl

variable {s}

/-- A disable of a chopper that is on. -/
theorem State.chopCfgWrite_disable (ht : s.takes MCX.page) (hi : s.isl = true) (he : s.chEn c = true)
    (hleg : s.willBe MCX.page true (MCX.C_CFG_LEG c) v < 12) : s.chopCfgWrite c (v &&& ~~~1) =
    (s.chopDisable c).take .mcx MCX.page (0x300 + 0x20 * c) (v &&& ~~~1) := by
  have hen : (getBits (v &&& ~~~1) 0 1 == 1) = false := by
    rw [getBits_one_beq]
    simp
  have hsame : s.willBe MCX.page true (MCX.C_CFG_LEG c) (v &&& ~~~1) = s.willBe MCX.page true (MCX.C_CFG_LEG c) v := by
    unfold State.willBe
    rw [getBits_and_not_one _ _ _ (by show 1 ≤ 1; decide)]
  unfold State.chopCfgWrite
  rw [State.fitted_isl hi]
  simp only [hen, he, hsame, Bool.not_true, Bool.not_false, Bool.and_false, Bool.false_and, Bool.and_self, Bool.or_false,
    Bool.false_eq_true, if_false, if_true]
  exact State.judge_takes ht (by simpa using hleg)

/-- What a disable leaves. -/
theorem State.chopCfgWrite_stops (ht : s.takes MCX.page) (hi : s.isl = true) (hc : c < 4) (he : s.chEn c = true)
    (hleg : s.willBe MCX.page true (MCX.C_CFG_LEG c) v < 12) : (s.chopCfgWrite c (v &&& ~~~1)).chEn c = false ∧
    (s.chopCfgWrite c (v &&& ~~~1)).chState c = if s.chState c = 3 then 3 else 0 := by
  have hen : getBits (v &&& ~~~1) 0 1 = 0 := by
    rw [getBits_one]
    simp
  obtain ⟨-, -, herr⟩ := inMcx_chopStat (g := MCX.C_STAT_STATE c) hc rfl
  rw [State.chopCfgWrite_disable ht hi he hleg]
  constructor
  · exact State.on_of_get_zero ((State.get_take_en (rowAt_chopCfg hc) (by omega) (chopCfg_addr c) rfl rfl (by decide)).trans hen)
  · rw [State.chState, State.get_take_of_ne _ _ _ _ _ _ (by rw [← chopCfg_addr]; exact chopStat_ne_cfg c c) herr]
    exact s.chopDisable_chState hc

end disable

end Sys2Proof.Machine
end

section
/-! The checks of the choppers' currents and the chopper-fault sequence (R248, R249). -/

namespace Sys2Proof.Machine

/-! ### The sequence (R249) -/

section sequence
variable (s : State)

/-- K_REGEN is written in MCX.STAT. -/
theorem State.setKr_frame (k : Rat) : HaltFrame (fun g => g.addr ≠ MCX.STAT) s (s.setKr k) := by
  have hkr : HaltFrame (fun g => g.addr ≠ MCX.STAT) s { s with mcx := { s.mcx with kr := k } } := ⟨fun _ _ => rfl, fun _ => rfl⟩
  exact (hkr.set (fun _ hg => .inl (Ne.symm hg)) _).set (fun _ hg => .inl (Ne.symm hg)) _

/-- K_REGEN is held, and the instant of the fault is kept. -/
def State.chfHold (s : State) : State := { s with mcx := { s.mcx with krHold := true, seqAt := some s.now, seqDone := false } }

/-- Where no sequence runs, a fault begins it. -/
def State.chfStart (s : State) : State := (((s.chfHold.setKr 0).set MCX.STAT_ABS_REQ 1).set MCX.STAT_CHF_SEQ 1).irq MCX.page 6

theorem State.chfBegin_eq (h : s.get MCX.STAT_CHF_SEQ = 0) : s.chfBegin = s.chfStart :=
  if_neg (by rw [State.on_of_get_zero h]; decide)

/-- The sequence begins without K_REGEN, with the absorber requested. -/
theorem State.chfStart_leaves : s.chfStart.get MCX.STAT_CHF_SEQ = 1 ∧ s.chfStart.get MCX.STAT_ABS_REQ = 1 ∧
    s.chfStart.mcx.kr = 0 ∧ s.chfStart.mcx.krHold = true ∧ s.chfStart.raised MCX.page 6 := by
  unfold State.chfStart
  refine ⟨?_, ?_, rfl, rfl, State.raised_irq _ _ _ (by decide)⟩
  · rw [State.get_irq_of_ne _ _ _ _ (by decide), State.get_set_self _ _ _ (by decide)]
    rfl
  · rw [State.get_irq_of_ne _ _ _ _ (by decide), State.get_set_apart _ _ _ _ (by decide), State.get_set_self _ _ _ (by decide)]
    rfl

/-- The sequence's begin writes MCX.STAT and its event. -/
theorem State.chfBegin_frame : HaltFrame (fun g => g.addr ≠ MCX.STAT ∧ g.addr ≠ MCX.page + 0x14) s s.chfBegin ∧
    ∀ b, s.raised MCX.page b → s.chfBegin.raised MCX.page b := by
  by_cases hon : s.get MCX.STAT_CHF_SEQ = 0
  · have hhold : HaltFrame (fun g => g.addr ≠ MCX.STAT) s s.chfHold := ⟨fun _ _ => rfl, fun _ => rfl⟩
    have hset : HaltFrame (fun g => g.addr ≠ MCX.STAT) s
        (((s.chfHold.setKr 0).set MCX.STAT_ABS_REQ 1).set MCX.STAT_CHF_SEQ 1) :=
      ((hhold.trans (State.setKr_frame _ 0)).set (f := MCX.STAT_ABS_REQ) (fun _ hg => .inl (Ne.symm hg)) 1).set
        (f := MCX.STAT_CHF_SEQ) (fun _ hg => .inl (Ne.symm hg)) 1
    rw [s.chfBegin_eq hon]
    refine ⟨(hset.mono fun _ hg => hg.1).irq (fun _ hg => hg.2) 6, fun b hb => State.raised_irq_of _ _ _ _ _ ?_⟩
    exact (raised_congr (State.reg_of_get (hset.get ⟨HDR.IRQ_RAW MCX.page, 0, 32⟩ (by decide)))).2 hb
  · have hsame : s.chfBegin = s := if_pos (by simpa [State.on] using hon)
    rw [hsame]
    exact ⟨.refl _ s, fun _ h => h⟩

end sequence

/-! ### A chopper that becomes FAULT (R248, R249) -/

section fault
variable (s : State) {c : Nat}

/-- The chopper shows FAULT, and its leg is latched. -/
def State.chopLatch (s : State) (c : Nat) : State :=
  let t := (s.set (MCX.C_STAT_STATE c) 3).irq MCX.page 5
  (t.trip 12 (1 <<< t.get (MCX.C_CFG_LEG c)) 0 0).mcxSource

theorem State.chopFault_eq : s.chopFault c =
    if !(s.chopLatch c).on MCX.CHF_CFG_CHF_POL || [0, 1, 2, 3].all (fun d => !(s.chopLatch c).chEn d || (s.chopLatch c).chState d == 3)
    then (s.chopLatch c).chfBegin else s.chopLatch c := rfl

theorem State.chopLatch_leaves (hc : c < 4) : (s.chopLatch c).chState c = 3 ∧ (s.chopLatch c).raised MCX.page 5 ∧
    (s.chopLatch c).get (latchFld 12) = 1 ∧ McxFrame (fun g => (MCX.C_STAT_STATE c).apart g) s (s.chopLatch c) := by
  obtain ⟨hin, hraw, -⟩ := inMcx_chopStat (g := MCX.C_STAT_STATE c) hc rfl
  unfold State.chopLatch
  extract_lets t
  have ht : McxFrame (fun g => (MCX.C_STAT_STATE c).apart g) s t := ((McxFrame.refl _ s).set hraw (fun _ hg => hg) 3).irq 5
  have hrest : McxFrame (fun _ => True) t (t.trip 12 (1 <<< t.get (MCX.C_CFG_LEG c)) 0 0).mcxSource :=
    ((McxFrame.refl _ t).trip ..).mcxSource
  refine ⟨?_, hrest.raised 5 (State.raised_irq _ _ _ (by decide)), ?_, ht.trans (hrest.mono fun _ _ => trivial)⟩
  · rw [State.chState, hrest.get _ hin hraw trivial, State.get_irq_of_ne _ _ _ _ hraw,
      State.get_set_self _ _ _ (by show 0 + 2 ≤ 32; decide)]
    rfl
  · rw [(State.mcxSource_frame _ (fun _ => True)).get _ trivial]
    exact (t.trip_flag_latch _ _ _ (by decide)).2

/-- What a chopper's fault leaves. -/
theorem State.chopFault_leaves (hc : c < 4) : (s.chopFault c).chState c = 3 ∧ (s.chopFault c).raised MCX.page 5 ∧
    (s.chopFault c).get (latchFld 12) = 1 ∧ (s.chopFault c).get (MCX.C_STAT_LAST_FAIL c) = s.get (MCX.C_STAT_LAST_FAIL c) := by
  obtain ⟨hst, hraised, hlatch, hf⟩ := s.chopLatch_leaves hc
  obtain ⟨hb, hbr⟩ := (s.chopLatch c).chfBegin_frame
  obtain ⟨hin, hraw, -⟩ := inMcx_chopStat (g := MCX.C_STAT_LAST_FAIL c) hc rfl
  have hlast : (s.chopLatch c).get (MCX.C_STAT_LAST_FAIL c) = s.get (MCX.C_STAT_LAST_FAIL c) :=
    hf.get _ hin hraw (.inr (.inl (by show 0 + 2 ≤ 2; decide)))
  have hkeep : ∀ g : Fld, g.addr = MCX.C_STAT c → (s.chopLatch c).chfBegin.get g = (s.chopLatch c).get g := fun g hg =>
    hb.get g ⟨by rw [hg]; unfold MCX.C_STAT MCX.STAT; omega, by rw [hg]; exact hraw⟩
  rw [State.chopFault_eq]
  split
  · exact ⟨(hkeep _ rfl).trans hst, hbr 5 hraised, (hb.get _ (by decide)).trans hlatch, (hkeep _ rfl).trans hlast⟩
  · exact ⟨hst, hraised, hlatch, hlast⟩

/-- With CHF_POL 0 the fault of any chopper begins the sequence. -/
theorem State.chopFault_begins (hc : c < 4) (hp : s.get MCX.CHF_CFG_CHF_POL = 0) (hq : s.get MCX.STAT_CHF_SEQ = 0) :
    s.chopFault c = (s.chopLatch c).chfStart := by
  obtain ⟨-, -, -, hf⟩ := s.chopLatch_leaves hc
  have hkeep : ∀ f : Fld, inMcx f → f.addr ≠ MCX.page + 0x14 → f.addr < MCX.C_STAT 0 → (s.chopLatch c).get f = s.get f :=
    fun f hin hraw hlt => hf.get f hin hraw (.inl (by show MCX.C_STAT c ≠ f.addr; unfold MCX.C_STAT at *; omega))
  have hpol : (s.chopLatch c).on MCX.CHF_CFG_CHF_POL = false :=
    State.on_of_get_zero ((hkeep _ ⟨by decide, by decide⟩ (by decide) (by decide)).trans hp)
  rw [State.chopFault_eq, if_pos (by rw [hpol]; rfl), State.chfBegin_eq]
  exact (hkeep _ ⟨by decide, by decide⟩ (by decide) (by decide)).trans hq

end fault

/-! ### A check (R248) -/

section check
variable {s : State} {c : Nat} {code : Int} {rest : List Int}

/-- The current of a result lies below CHF_I. -/
def State.chopLow (s : State) (c : Nat) (code : Int) : Bool :=
  decide ((code : Rat) * f32Val (s.reg (MCX.C_ISCALE c)) < (s.get (MCX.C_LIM_CHF_I c) : Rat) / 10)

/-- The failed checks in a row, with this one. -/
def State.chopFails (s : State) (c : Nat) (fail : Bool) : Nat := if fail then SMap.get (fun _ => 0) s.mcx.fails c + 1 else 0

/-- The count of the failed checks in a row is kept. -/
def State.chopCount (s : State) (c n : Nat) : State := { s with mcx := { s.mcx with fails := SMap.put (fun _ => 0) s.mcx.fails c n } }

/-- A current and its check are shown. -/
def State.chopSeen (s : State) (c ilast : Nat) (fail : Bool) : State :=
  ((s.set (MCX.C_ILAST_I c) ilast).setB (MCX.C_STAT_LAST_FAIL c) fail).iff fail (fun s => s.bump (MCX.C_STAT_FAILS c))

/-- What a check of the current records. -/
def State.chopRecord (s : State) (c : Nat) (code : Int) (fail : Bool) : State :=
  (s.chopCount c (s.chopFails c fail)).chopSeen c
    (min 0xFFFF (roundAway ((code : Rat) * f32Val (s.reg (MCX.C_ISCALE c)) * 10)).toNat) fail

theorem State.chopJudge_eq (h : s.chopChecked c = true) : s.chopJudge c code =
    if max 1 ((s.chopRecord c code (s.chopLow c code)).get MCX.CHF_CFG_CHF_N) ≤ s.chopFails c (s.chopLow c code)
    then (s.chopRecord c code (s.chopLow c code)).chopFault c else s.chopRecord c code (s.chopLow c code) := if_pos h

theorem State.chopSeen_frame (s : State) (c ilast : Nat) (fail : Bool) : HaltFrame
    (fun g => g.addr ≠ MCX.C_ILAST c ∧ (MCX.C_STAT_LAST_FAIL c).apart g ∧ (MCX.C_STAT_FAILS c).apart g) s
    (s.chopSeen c ilast fail) := by
  have hu := ((HaltFrame.refl (fun g => g.addr ≠ MCX.C_ILAST c ∧ (MCX.C_STAT_LAST_FAIL c).apart g ∧ (MCX.C_STAT_FAILS c).apart g)
    s).set (f := MCX.C_ILAST_I c) (fun g hg => .inl (Ne.symm hg.1)) ilast).set (f := MCX.C_STAT_LAST_FAIL c)
      (fun g hg => hg.2.1) (if fail then 1 else 0)
  exact hu.iff (hu.set (fun g hg => hg.2.2) _)

/-- LAST_FAIL shows the check. -/
theorem State.chopSeen_fail (s : State) (c ilast : Nat) (fail : Bool) :
    (s.chopSeen c ilast fail).get (MCX.C_STAT_LAST_FAIL c) = if fail then 1 else 0 := by
  have hlast : ∀ t : State, (t.setB (MCX.C_STAT_LAST_FAIL c) fail).get (MCX.C_STAT_LAST_FAIL c) = if fail then 1 else 0 := fun t => by
    rw [State.setB_eq, State.get_set_self _ _ _ (by show 2 + 1 ≤ 32; decide)]
    cases fail <;> rfl
  exact ite_keeps (P := fun t => t.get (MCX.C_STAT_LAST_FAIL c) = if fail then 1 else 0)
    ((State.get_set_apart _ _ _ _ (.inr (.inr (by show 2 + 1 ≤ 8; decide)))).trans (hlast _)) (hlast _)

/-- What is not in the registers the record of a check keeps. -/
theorem State.chopSeen_same {β : Type} (p : State → β) (hp : ∀ t a w, p (State.setReg t a w) = p t) (s : State) (c ilast : Nat)
    (fail : Bool) : p (s.chopSeen c ilast fail) = p s := by
  have hset : ∀ t f v, p (State.set t f v) = p t := fun t f v => (congrArg p (State.set_eq ..)).trans (hp _ _ _)
  have hu : p ((s.set (MCX.C_ILAST_I c) ilast).setB (MCX.C_STAT_LAST_FAIL c) fail) = p s := (hset _ _ _).trans (hset _ _ _)
  exact ite_keeps (P := fun t => p t = p s) ((hset _ _ _).trans hu) hu

/-- The result is taken off the list of those delivered. -/
def State.chopTake (s : State) (c : Nat) (rest : List Int) : State :=
  { s with mcx := { s.mcx with chRes := SMap.put (fun _ => []) s.mcx.chRes c rest } }

theorem State.chopCheck_some (h : SMap.get (fun _ => []) s.mcx.chRes c = code :: rest) :
    s.chopCheck c = (s.chopTake c rest).chopJudge c code := by
  unfold State.chopCheck
  rw [h]
  rfl

theorem State.chopCheck_none (h : SMap.get (fun _ => []) s.mcx.chRes c = []) : s.chopCheck c = s := by
  unfold State.chopCheck
  rw [h]

/-- Without a result there is no check. -/
theorem State.chopChecks_none (h : SMap.get (fun _ => []) s.mcx.chRes c = []) (l : List Nat) :
    s.each l (fun s _ => s.chopCheck c) = s := by
  induction l with
  | nil => rfl
  | cons a l ih => exact (congrArg (fun t : State => t.each l (fun s _ => s.chopCheck c)) (State.chopCheck_none h)).trans ih

theorem State.chopChecked_of (hi : s.isl = true) (he : s.chEn c = true) (hst : s.chState c ≠ 3)
    (hl : (s.hizLegs ||| s.ascLegs).testBit (s.get (MCX.C_CFG_LEG c)) = false) : s.chopChecked c = true := by
  rw [State.chopChecked, hi, hl, show s.on (MCX.C_CFG_EN c) = true from he,
    show (s.get (MCX.C_STAT_STATE c) != 3) = true from bne_iff_ne.2 hst]
  rfl

/-- A check that fails, with CHF_N 1: FAULT. -/
theorem State.chopJudge_fails (hc : c < 4) (h : s.chopChecked c = true) (hlow : s.chopLow c code = true)
    (hn : s.get MCX.CHF_CFG_CHF_N = 1) : s.chopJudge c code = (s.chopRecord c code true).chopFault c := by
  rw [State.chopJudge_eq h, hlow, if_pos]
  rw [State.chopRecord, ((s.chopCount c _).chopSeen_frame c _ true).get _ ⟨?_, .inl ?_, .inl ?_⟩,
    show (s.chopCount c _).get MCX.CHF_CFG_CHF_N = s.get MCX.CHF_CFG_CHF_N from rfl, hn]
  · exact Nat.le_add_left ..
  · show 0x40310060 ≠ 0x40310310 + 0x20 * c; omega
  · show 0x4031030C + 0x20 * c ≠ 0x40310060; omega
  · show 0x4031030C + 0x20 * c ≠ 0x40310060; omega

/-- A check that does not fail. -/
theorem State.chopJudge_holds (h : s.chopChecked c = true) (hlow : s.chopLow c code = false) :
    s.chopJudge c code = s.chopRecord c code false := by
  rw [State.chopJudge_eq h, hlow]
  exact if_neg (by rw [State.chopFails]; simp)

/-- A chopper whose oldest result delivered lies below CHF_I, with CHF_N 1 (R248, R249). -/
theorem State.chopCheck_fails (hc : c < 4) (hres : SMap.get (fun _ => []) s.mcx.chRes c = code :: rest)
    (h : s.chopChecked c = true) (hlow : s.chopLow c code = true) (hn : s.get MCX.CHF_CFG_CHF_N = 1) :
    (s.chopCheck c).chState c = 3 ∧ (s.chopCheck c).get (MCX.C_STAT_LAST_FAIL c) = 1 ∧ (s.chopCheck c).raised MCX.page 5 ∧
      (s.chopCheck c).get (latchFld 12) = 1 ∧ (s.get MCX.CHF_CFG_CHF_POL = 0 → s.get MCX.STAT_CHF_SEQ = 0 →
        (s.chopCheck c).get MCX.STAT_CHF_SEQ = 1 ∧ (s.chopCheck c).get MCX.STAT_ABS_REQ = 1 ∧ (s.chopCheck c).mcx.kr = 0 ∧
          (s.chopCheck c).mcx.krHold = true ∧ (s.chopCheck c).raised MCX.page 6) := by
  rw [State.chopCheck_some hres, State.chopJudge_fails hc (s := s.chopTake c rest) h hlow hn]
  generalize hw : (s.chopTake c rest).chopRecord c code true = w
  have hlast : w.get (MCX.C_STAT_LAST_FAIL c) = 1 := by rw [← hw]; exact State.chopSeen_fail _ _ _ _
  have hget : ∀ g : Fld, g.addr < MCX.C_CFG 0 → w.get g = s.get g := fun g hg => by
    unfold MCX.C_CFG at hg
    rw [← hw]
    refine (State.chopSeen_frame _ c _ true).get g ⟨?_, .inl ?_, .inl ?_⟩
    · unfold MCX.C_ILAST; omega
    · show MCX.C_STAT c ≠ g.addr; unfold MCX.C_STAT; omega
    · show MCX.C_STAT c ≠ g.addr; unfold MCX.C_STAT; omega
  obtain ⟨hst, hraised, hlatch, hkept⟩ := w.chopFault_leaves hc
  refine ⟨hst, hkept.trans hlast, hraised, hlatch, fun hp hq => ?_⟩
  rw [w.chopFault_begins hc ((hget _ (by decide)).trans hp) ((hget _ (by decide)).trans hq)]
  exact State.chfStart_leaves _

/-- A chopper whose oldest result delivered does not lie below CHF_I. -/
theorem State.chopCheck_holds (hres : SMap.get (fun _ => []) s.mcx.chRes c = code :: rest)
    (h : s.chopChecked c = true) (hlow : s.chopLow c code = false) :
    (s.chopCheck c).chState c = s.chState c ∧ (s.chopCheck c).get (MCX.C_STAT_LAST_FAIL c) = 0 ∧
      (s.chopCheck c).latches = s.latches ∧ SMap.get (fun _ => []) (s.chopCheck c).mcx.chRes c = rest := by
  rw [State.chopCheck_some hres, State.chopJudge_holds (s := s.chopTake c rest) h hlow]
  refine ⟨?_, State.chopSeen_fail _ _ _ _, State.chopSeen_same State.latches State.setReg_latches _ _ _ _, ?_⟩
  · refine (State.chopSeen_frame _ c _ false).get _ ⟨?_, .inr (.inr ?_), .inr (.inr ?_)⟩
    · show 0x4031030C + 0x20 * c ≠ 0x40310310 + 0x20 * c; omega
    · show 0 + 2 ≤ 2; decide
    · show 0 + 2 ≤ 8; decide
  · have hch : (((s.chopTake c rest).chopRecord c code false).mcx).chRes = (s.chopTake c rest).mcx.chRes :=
      (State.chopSeen_same (fun t => t.mcx.chRes) (fun _ _ _ => rfl) ((s.chopTake c rest).chopCount c _) c _ false).trans rfl
    rw [hch]
    show SMap.get (fun _ => []) (SMap.put (fun _ => []) s.mcx.chRes c rest) c = rest
    rw [SMap.get_put, if_pos rfl]

end check

/-! ### Step 3, and a clear (R249) -/

section clear
variable {s : State} {c : Nat}

/-- Step 3 of the sequence, at the first evaluation at or after T_CHF_ASC. -/
def State.chfDue (s : State) (t0 : Nat) : State :=
  let t := s.advance (s.evalAt (t0 + s.get MCX.CHF_CFG_T_CHF_ASC * 100 * tUs))
  { t with mcx := { t.mcx with seqDone := true } }

theorem State.chfTimeout_eq {t0 : Nat} (ht : s.mcx.seqAt = some t0) (hq : s.get MCX.STAT_CHF_SEQ = 1) (hd : s.mcx.seqDone = false) :
    s.chfTimeout = if (s.chfDue t0).absAck then { s.chfDue t0 with mcx := { (s.chfDue t0).mcx with krHold := false } }
      else (s.chfDue t0).chfStep3 := by
  have hrun : (s.on MCX.STAT_CHF_SEQ && !s.mcx.seqDone) = true := by rw [State.on_of_get_one hq, hd]; rfl
  unfold State.chfTimeout
  rw [ht]
  exact if_pos hrun

theorem State.chfStep3_leaves (s : State) : s.chfStep3.get MCX.STAT_MBR_REQ = 1 ∧ s.chfStep3.raised MCX.page 7 := by
  refine ⟨?_, State.raised_irq _ _ _ (by decide)⟩
  rw [State.chfStep3, State.get_irq_of_ne _ _ _ _ (by decide), State.get_set_self _ _ _ (by decide)]
  rfl

/-- Without ABS_ACK the machines' safe-state decision is taken, and the contactor is asked to open. -/
theorem State.chfTimeout_acts {t0 : Nat} (ht : s.mcx.seqAt = some t0) (hq : s.get MCX.STAT_CHF_SEQ = 1) (hd : s.mcx.seqDone = false)
    (ha : s.absAck = false) : s.chfTimeout.get MCX.STAT_MBR_REQ = 1 ∧ s.chfTimeout.raised MCX.page 7 := by
  have ha' : (s.chfDue t0).absAck = false := ha
  rw [State.chfTimeout_eq ht hq hd, ha']
  exact State.chfStep3_leaves _

/-- With ABS_ACK K_REGEN is free again. -/
theorem State.chfTimeout_acked {t0 : Nat} (ht : s.mcx.seqAt = some t0) (hq : s.get MCX.STAT_CHF_SEQ = 1) (hd : s.mcx.seqDone = false)
    (ha : s.absAck = true) : s.chfTimeout.mcx.krHold = false ∧ s.chfTimeout.regs = s.regs ∧
      s.chfTimeout.now = max s.now (s.evalAt (t0 + s.get MCX.CHF_CFG_T_CHF_ASC * 100 * tUs)) := by
  have ha' : (s.chfDue t0).absAck = true := ha
  rw [State.chfTimeout_eq ht hq hd, ha']
  exact ⟨rfl, rfl, rfl⟩

theorem bitsOf_oneBit4 {b : Nat} (h : b < 4) : bitsOf 4 (BitVec.ofNat 4 (1 <<< b)).toNat = [b] := by
  interval_cases b <;> decide

/-- A faulted chopper is cleared where its current input gives valid results. -/
def State.chopClearOne (s : State) (c : Nat) : State :=
  if (SMap.get (fun _ => (0, false)) s.aiInst (s.get (MCX.C_CFG_IAI c))).2 then
    (s.chopCount c 0).set (MCX.C_STAT_STATE c) (if s.chEn c then 1 else 0)
  else s.refuse MCX.page 0x70 xSTATE

/-- The requests of the sequence end. -/
def State.chfQuiet (s : State) : State := ((s.set MCX.STAT_CHF_SEQ 0).set MCX.STAT_ABS_REQ 0).set MCX.STAT_MBR_REQ 0

/-- The sequence ends when no chopper is faulted. -/
def State.chfEnd (s : State) : State :=
  if s.on MCX.STAT_CHF_SEQ && [0, 1, 2, 3].all (fun c => s.chState c != 3) then
    { s.chfQuiet with mcx := { s.chfQuiet.mcx with krHold := false, seqAt := none, seqDone := false } }
  else s

theorem State.chopClear_one (ht : s.takes MCX.page) (hi : s.isl = true) (hc : c < 4) (hst : s.chState c = 3) :
    s.chopClear (BitVec.ofNat 4 (1 <<< c)).toNat = (s.chopClearOne c).mcxSource.chfEnd := by
  have hone : s.each ([c].filter (fun d => s.chState d == 3)) State.chopClearOne = s.chopClearOne c :=
    s.each_filter_one _ (beq_iff_eq.2 hst)
  rw [← hone, State.chopClear, bitsOf_oneBit4 hc, State.judge_takes ht (by simp)]
  exact if_neg (by rw [hi]; decide)

/-- The end of the sequence writes MCX.STAT alone. -/
theorem State.get_chfEnd (s : State) {g : Fld} (hg : g.addr ≠ MCX.STAT) : s.chfEnd.get g = s.get g := by
  have hset : ∀ (t : State) (f : Fld), f.addr = MCX.STAT → (t.set f 0).get g = t.get g := fun t f hf =>
    State.get_set_apart _ _ _ _ (.inl (by rw [hf]; exact Ne.symm hg))
  refine ite_keeps (P := fun t => t.get g = s.get g) ?_ rfl
  show s.chfQuiet.get g = s.get g
  rw [State.chfQuiet, hset _ _ rfl, hset _ _ rfl, hset _ _ rfl]

theorem State.chfEnd_ends (s : State) (hq : s.get MCX.STAT_CHF_SEQ = 1) (hall : ∀ c, c < 4 → s.chState c ≠ 3) :
    s.chfEnd.get MCX.STAT_CHF_SEQ = 0 ∧ s.chfEnd.get MCX.STAT_ABS_REQ = 0 ∧ s.chfEnd.get MCX.STAT_MBR_REQ = 0 := by
  have hnone : [0, 1, 2, 3].all (fun c => s.chState c != 3) = true := by
    simpa using ⟨hall 0 (by decide), hall 1 (by decide), hall 2 (by decide), hall 3 (by decide)⟩
  have hend : ∀ g, s.chfEnd.get g = s.chfQuiet.get g := fun g => by
    rw [State.chfEnd, if_pos (by rw [State.on_of_get_one hq, hnone]; rfl)]
    rfl
  rw [hend, hend, hend, State.chfQuiet]
  refine ⟨?_, ?_, ?_⟩
  · rw [State.get_set_apart _ _ _ _ (by decide), State.get_set_apart _ _ _ _ (by decide), State.get_set_self _ _ _ (by decide)]
    rfl
  · rw [State.get_set_apart _ _ _ _ (by decide), State.get_set_self _ _ _ (by decide)]
    rfl
  · rw [State.get_set_self _ _ _ (by decide)]
    rfl

/-- The source of the page's latch follows; no field does. -/
theorem State.get_mcxSource (s : State) (g : Fld) : s.mcxSource.get g = s.get g :=
  (s.mcxSource_frame (fun _ => True)).get g trivial

theorem chopStat_ne {c d : Nat} (h : d ≠ c) : MCX.C_STAT c ≠ MCX.C_STAT d := by unfold MCX.C_STAT; omega

/-- A clear of a chopper whose current input gives valid results. -/
theorem State.chopClear_clears (ht : s.takes MCX.page) (hi : s.isl = true) (hc : c < 4) (hst : s.chState c = 3)
    (hv : (SMap.get (fun _ => (0, false)) s.aiInst (s.get (MCX.C_CFG_IAI c))).2 = true) :
    (s.chopClear (BitVec.ofNat 4 (1 <<< c)).toNat).chState c = (if s.chEn c then 1 else 0) ∧
      ((∀ d, d < 4 → d ≠ c → s.chState d ≠ 3) → s.get MCX.STAT_CHF_SEQ = 1 →
        (s.chopClear (BitVec.ofNat 4 (1 <<< c)).toNat).get MCX.STAT_CHF_SEQ = 0 ∧
        (s.chopClear (BitVec.ofNat 4 (1 <<< c)).toNat).get MCX.STAT_ABS_REQ = 0 ∧
        (s.chopClear (BitVec.ofNat 4 (1 <<< c)).toNat).get MCX.STAT_MBR_REQ = 0) := by
  have hone : s.chopClearOne c = (s.chopCount c 0).set (MCX.C_STAT_STATE c) (if s.chEn c then 1 else 0) := if_pos hv
  rw [State.chopClear_one ht hi hc hst, hone]
  generalize hu : ((s.chopCount c 0).set (MCX.C_STAT_STATE c) (if s.chEn c then 1 else 0)).mcxSource = u
  have hself : u.chState c = if s.chEn c then 1 else 0 := by
    rw [← hu, State.chState, State.get_mcxSource, State.get_set_self _ _ _ (by show 0 + 2 ≤ 32; decide)]
    cases s.chEn c <;> rfl
  have hkeep : ∀ g : Fld, MCX.C_STAT c ≠ g.addr → u.get g = s.get g := fun g hg => by
    rw [← hu, State.get_mcxSource, State.get_set_apart _ _ _ _ (.inl hg)]
    rfl
  constructor
  · exact (u.get_chfEnd (by show 0x4031030C + _ ≠ 0x40310068; omega)).trans hself
  · intro hothers hq
    refine u.chfEnd_ends ((hkeep _ (by show 0x4031030C + _ ≠ 0x40310068; omega)).trans hq) fun d hd => ?_
    by_cases hdc : d = c
    · rw [hdc, hself]
      cases s.chEn c <;> decide
    · rw [State.chState, hkeep _ (chopStat_ne hdc)]
      exact hothers d hd hdc

/-- A clear of a chopper whose current input gives none is refused. -/
theorem State.chopClear_refused (ht : s.takes MCX.page) (hi : s.isl = true) (hc : c < 4) (hst : s.chState c = 3)
    (hv : (SMap.get (fun _ => (0, false)) s.aiInst (s.get (MCX.C_CFG_IAI c))).2 = false) :
    (s.chopClear (BitVec.ofNat 4 (1 <<< c)).toNat).chState c = 3 ∧
      (s.chopClear (BitVec.ofNat 4 (1 <<< c)).toNat).get (HDR.ERR_CODE_CODE MCX.page) = xSTATE := by
  have hone : s.chopClearOne c = s.refuse MCX.page 0x70 xSTATE := if_neg (by rw [hv]; decide)
  obtain ⟨-, -, herr⟩ := inMcx_chopStat (g := MCX.C_STAT_STATE c) hc rfl
  rw [State.chopClear_one ht hi hc hst, hone]
  constructor
  · rw [State.chState, State.get_chfEnd _ (by show 0x4031030C + _ ≠ 0x40310068; omega), State.get_mcxSource,
      State.get_refuse _ _ _ _ _ herr]
    exact hst
  · rw [State.get_chfEnd _ (by decide), State.get_mcxSource]
    exact (State.refuse_code _ _ _ _).1

end clear

end Sys2Proof.Machine
end

section
/-! Brake choppers and angle sensors, settled (R220, R230, R231, R244, R247–R249, R256, R490, R492). -/

namespace Sys2Proof.Machine

section settled
variable {s : State} {v : Word}

/-- A chopper's enable that succeeds: its leg is claimed in LOW_PWM, and it starts IDLE. -/
theorem State.chopCfgWrite_claims {c leg prd : Nat} (ht : s.takes MCX.page) (hi : s.isl = true) (hl : s.locked MCX.page = false)
    (hc : c < 4) (he : s.chEn c = false) (hst : s.chState c ≠ 3) (hleg : leg = getBits v 1 4) (hlt : leg < 12)
    (hprd : prd = s.prdOf (getBits v 11 7)) (hmin : s.get MCX.CHF_CFG_CHF_T + 10 ≤ s.get (MCX.C_LIM_MINON c))
    (hm0 : leg ∉ s.machLegs 0) (hm1 : leg ∉ s.machLegs 1) (hth : s.threshOk = true) (hpo : mcxPrdOk prd = true)
    (hcl : s.claimable (resKey 2 leg) 6 c = true) : ∃ t, s.chopCfgWrite c (v ||| 1) = t ∧ t.chEn c = true ∧ t.chState c = 1 ∧
      (t.claim (resKey 2 leg)).cls = 6 ∧ (t.claim (resKey 2 leg)).inst = c ∧ t.get (LPW.CFG_MODE leg) = 3 ∧
      t.get (LPW.PRD_PRD leg) = prd ∧ t.get (LPW.CMP_CMP leg) = 16 * prd % 2 ^ 22 := by
  have hp : prd < 2 ^ 18 := by
    simp only [mcxPrdOk, Bool.and_eq_true, decide_eq_true_eq] at hpo
    omega
  have hclaimed := s.claim_each_takeClaim [resKey 2 leg] 6 c (resKey 2 leg) (List.mem_singleton_self _)
  rw [State.chopCfgWrite_starts ht hi hl he hst hleg hlt hprd hmin hm0 hm1 hth hpo hcl]
  generalize s.each [resKey 2 leg] (fun s r => s.takeClaim r 6 c) = u at hclaimed
  obtain ⟨hen, hidle, hkept, hshadow⟩ := u.chopStart_leaves (v := v) hc hlt hp
  rw [← State.claim_congr hkept] at hclaimed
  exact ⟨_, rfl, hen, hidle, hclaimed.1, hclaimed.2, hshadow⟩

end settled

/-- Settles O38: a write to a chopper's CFG by its row's access and the frame of its leg; the checks by what one records and
what a fault leaves; the sensors by the frame of a sensor's fault; the trip inputs by what an evaluation of them keeps. -/
theorem choppersAndAngleSensors : Obligations.ChoppersAndAngleSensors := by
  unfold Obligations.ChoppersAndAngleSensors
  refine ⟨⟨?_, ?_, ?_, ?_, ?_, ?_⟩, ?_, ?_, ?_, ?_, ?_, ?_, ?_, ?_, ?_, ?_, ?_⟩
  · intro u v s leg prd ht hi hl he hst hleg hlt hprd hmin
    refine ⟨fun hm => ⟨_, rfl, State.chopCfgWrite_denied ht hi hl u.isLt he hleg hlt hmin hm⟩, fun hm0 hm1 hth hpo hcl => ?_⟩
    obtain ⟨t, he', hleaves⟩ := State.chopCfgWrite_claims ht hi hl u.isLt he hst hleg hlt hprd hmin hm0 hm1 hth hpo hcl
    exact ⟨t, next_congr he', hleaves⟩
  · intro u v s ht hi he hleg
    obtain ⟨hoff, hst⟩ := State.chopCfgWrite_stops ht hi u.isLt he hleg
    exact ⟨_, rfl, hoff, fun h => hst.trans (if_neg h), fun h => hst.trans (if_pos h)⟩
  · intro u code rest s hres hi he hst hl
    have hrun : s.chopChecked u = true := State.chopChecked_of hi he hst hl
    exact ⟨fun hlow hn => ⟨_, rfl, State.chopCheck_fails u.isLt hres hrun (decide_eq_true hlow) hn⟩,
      fun hlow => ⟨_, rfl, State.chopCheck_holds hres hrun (decide_eq_false hlow.not_gt)⟩⟩
  · rintro u n s (rfl | h)
    · rfl
    · exact next_congr (State.chopChecks_none h _)
  · intro t0 s ht hq hd
    exact ⟨fun ha => ⟨_, rfl, State.chfTimeout_acts ht hq hd ha⟩, fun ha => ⟨_, rfl, State.chfTimeout_acked ht hq hd ha⟩⟩
  · intro u s ht hi hst
    exact ⟨fun hv => ⟨_, rfl, State.chopClear_clears ht hi u.isLt hst hv⟩,
      fun hv => ⟨_, rfl, State.chopClear_refused ht hi u.isLt hst hv⟩⟩
  · intro v s ht hi hl h0 hfex hrpp
    exact ⟨fun hpp => next_congr (State.rsvCfgWrite_ratio ht hi hl h0 hfex hrpp hpp),
      fun hpp hc => ⟨_, rfl, State.rsvCfgWrite_starts ht hi hl h0 hfex hrpp hpp hc⟩⟩
  · rintro a b x y s hi h1 hx hy
    have hamp : (x ^ 2 + y ^ 2).toNat = s.rsvAmp2 a.toInt b.toInt := by
      rw [hx, hy, pow_two, pow_two]
      rfl
    rw [hamp]
    exact ⟨fun hlo hhi => ⟨_, rfl, State.rsvPeak_good hi h1 hlo hhi⟩,
      fun hlo hbad h0 => ⟨_, rfl, State.rsvPeak_third hi h1 hlo hbad h0⟩⟩
  · intro ai x c s
    refine ⟨fun hnew hlast => ?_, fun hold => if_neg hold.not_gt⟩
    rw [State.rsvIn, if_pos hnew, hlast]
    rfl
  · intro v s ht hi hl h0
    exact ⟨fun hv => next_congr (State.encCfgWrite_range ht hi hl h0 hv),
      fun hv hc => ⟨_, rfl, State.encCfgWrite_starts ht hi hl h0 hv hc⟩⟩
  · intro a b z h s hh
    exact next_congr (State.encEdge_short hh)
  · intro a b z h s hi h1 hh hno
    have hstep : exec (.encoderEdge (a, h) (b, h) (z, h)) s = .next (s.encStep a b z) :=
      next_congr (State.encEdge_held hi h1 hh hno)
    exact ⟨fun hq => ⟨_, hstep, State.encStep_up hq⟩, fun hq => ⟨_, hstep, State.encStep_down hq⟩,
      fun hq => ⟨_, hstep, State.encStep_both hq⟩⟩
  · intro s ht h1
    exact execEncAlign_refs ht h1
  · intro s h
    exact execEncSpeedTimeout_stops h
  · intro v s ht hl h0 hb hlv hin
    exact ⟨_, rfl, State.trpCfgWrite_quiet ht hl h0 hb hlv hin⟩
  · intro v n t0 s ht hl h0 hb hn hv hin hlast hlv
    exact ⟨_, rfl, State.trpCfgWrite_trips ht hl h0 hb hn hv hin hlast hlv⟩
  · intro v s ht hl h0 hv hc
    exact ⟨_, rfl, State.trpCfgWrite_displaces ht hl h0 hv hc⟩

end Sys2Proof.Machine
end

section
/-! What the operations of a leg island leave alone (R259–R281): the registers each keeps, the other islands, the events raised,
and what the command-line state of a leg depends on (R133). Of an island's own state, its lines, soft turn-offs and slots. -/

namespace Sys2Proof.Machine

/-! ### Islands after a write -/

section islands
variable (s : State) (k j : Nat)

@[simp] theorem State.island_setReg (a : Nat) (w : Word) : (s.setReg a w).island j = s.island j := rfl
@[simp] theorem State.island_set (f : Fld) (v : Nat) : (s.set f v).island j = s.island j := rfl
@[simp] theorem State.island_setB (f : Fld) (b : Bool) : (s.setB f b).island j = s.island j := rfl
@[simp] theorem State.island_bump (f : Fld) : (s.bump f).island j = s.island j := rfl
@[simp] theorem State.island_irq (pg b : Nat) : (s.irq pg b).island j = s.island j := rfl
@[simp] theorem State.island_advance (t : Nat) : (s.advance t).island j = s.island j := rfl
@[simp] theorem State.get_setIsland (x : Isl) (g : Fld) : (s.setIsland k x).get g = s.get g := rfl
@[simp] theorem State.get_modIsland (f : Isl → Isl) (g : Fld) : (s.modIsland k f).get g = s.get g := rfl

@[simp] theorem State.island_setIsland_self (x : Isl) : (s.setIsland k x).island k = x := by simp [State.island_setIsland]

@[simp] theorem State.island_modIsland_self (f : Isl → Isl) : (s.modIsland k f).island k = f (s.island k) :=
  s.island_setIsland_self k _

theorem State.island_setIsland_of_ne {k j : Nat} (x : Isl) (h : j ≠ k) : (s.setIsland k x).island j = s.island j := by
  rw [State.island_setIsland, if_neg h]

end islands

/-! ### The frame -/

/-- What drives and faults of an island leave of it: its lines, its soft turn-offs, its slots and what it knows of its supplies. -/
structure Isl.Kept (x y : Isl) : Prop where
  line : ∀ high, y.line high = x.line high
  soft : ∀ high, y.soft high = x.soft high
  slot : ∀ high, y.slot high = x.slot high
  everGood : y.everGood = x.everGood

theorem Isl.Kept.refl (x : Isl) : x.Kept x := ⟨fun _ => rfl, fun _ => rfl, fun _ => rfl, rfl⟩

theorem Isl.Kept.trans {x y z : Isl} (h : x.Kept y) (h' : y.Kept z) : x.Kept z :=
  ⟨fun b => (h'.line b).trans (h.line b), fun b => (h'.soft b).trans (h.soft b), fun b => (h'.slot b).trans (h.slot b),
    h'.everGood.trans h.everGood⟩

/-- What the instants of an island and the command-line state of its leg (R133) depend on beside the registers. -/
def State.beside (s : State) : Nat × Nat × SMap Claim × List Latch × SMap Chan × Nat × Nat × Nat :=
  (s.now, s.pidx, s.claims, s.latches, s.chans, s.haltMode, s.legBlk, s.legWait)

/-- From `s` to `t` the fields of `K` are as they were, and so are the islands but `k`, of which `Kept` says what stays; events
raised stay raised. -/
structure State.IslFrame (k : Nat) (K : Fld → Prop) (s t : State) : Prop where
  get : ∀ g, K g → t.get g = s.get g
  kept : (s.island k).Kept (t.island k)
  others : ∀ j, j ≠ k → t.island j = s.island j
  raised : ∀ pg b, pg % 0x1000 = 0 → s.raised pg b → t.raised pg b
  beside : t.beside = s.beside

namespace State.IslFrame
variable {k : Nat} {K : Fld → Prop} {s t u : State}

theorem refl (k : Nat) (K : Fld → Prop) (s : State) : IslFrame k K s s :=
  ⟨fun _ _ => rfl, .refl _, fun _ _ => rfl, fun _ _ _ h => h, rfl⟩

theorem trans (h : IslFrame k K s t) (h' : IslFrame k K t u) : IslFrame k K s u :=
  ⟨fun g hg => (h'.get g hg).trans (h.get g hg), h.kept.trans h'.kept, fun j hj => (h'.others j hj).trans (h.others j hj),
    fun pg b hp hr => h'.raised pg b hp (h.raised pg b hp hr), h'.beside.trans h.beside⟩

theorem mono {L : Fld → Prop} (h : IslFrame k K s t) (hL : ∀ g, L g → K g) : IslFrame k L s t :=
  { h with get := fun g hg => h.get g (hL g hg) }

theorem ite {c : Prop} [Decidable c] (ht : IslFrame k K s t) (hu : IslFrame k K s u) :
    IslFrame k K s (if c then t else u) := by
  split
  · exact ht
  · exact hu

theorem iff (h : IslFrame k K s t) {b : Bool} {f : State → State} (hf : IslFrame k K s (f t)) : IslFrame k K s (t.iff b f) :=
  ite hf h

theorem set (h : IslFrame k K s t) {f : Fld} (hr : f.addr % 0x1000 ≠ 0x14) (hf : ∀ g, K g → f.apart g) (v : Nat) :
    IslFrame k K s (t.set f v) :=
  h.trans ⟨fun g hg => t.get_set_apart f g v (hf g hg), .refl _, fun _ _ => rfl,
    fun pg b hp h => (t.raised_set pg b f v (fun e => hr (by rw [e]; simp only [HDR.IRQ_RAW]; omega))).2 h, rfl⟩

theorem irq (h : IslFrame k K s t) {pg : Nat} (hf : ∀ g, K g → g.addr ≠ pg + 0x14) (b : Nat) : IslFrame k K s (t.irq pg b) :=
  h.trans ⟨fun g hg => t.get_irq_of_ne pg b g (hf g hg), .refl _, fun _ _ => rfl,
    fun _ _ _ h => t.raised_irq_of _ _ _ _ h, rfl⟩

theorem setIsland (h : IslFrame k K s t) {x : Isl} (hx : (t.island k).Kept x) : IslFrame k K s (t.setIsland k x) :=
  h.trans ⟨fun _ _ => rfl, by rwa [State.island_setIsland_self], fun _ hj => t.island_setIsland_of_ne x hj,
    fun _ _ _ h => h, rfl⟩

theorem modIsland (h : IslFrame k K s t) (f : Isl → Isl) (hf : (t.island k).Kept (f (t.island k))) :
    IslFrame k K s (t.modIsland k f) := h.setIsland hf

/-- Operations that write neither registers nor islands nor what stands beside them. -/
theorem same (hr : t.regs = s.regs) (hi : t.isls = s.isls) (hb : t.beside = s.beside) : IslFrame k K s t := by
  have hreg : ∀ a, t.reg a = s.reg a := fun a => by simp only [State.reg, hr]
  have hisl : ∀ j, t.island j = s.island j := fun j => by simp only [State.island, hi]
  exact ⟨fun g _ => State.get_congr g (hreg _), by rw [hisl]; exact .refl _, fun j _ => hisl j,
    fun _ _ _ h => by rwa [State.raised, hreg], hb⟩

/-- A record writes the log's page alone (R471). -/
theorem log (h : IslFrame k K s t) (hK : ∀ g, K g → outside NVL.page g) (pg e a b : Nat) :
    IslFrame k K s (t.log pg e a b) := by
  unfold State.log
  exact .ite (h.trans (same rfl rfl rfl)) ((h.set (by decide) (fun g hg => (hK g hg).apart (by decide) (by decide)) _).irq
    (fun g hg => (hK g hg).ne (by decide)) _)

section beside
variable (h : IslFrame k K s t)
include h

theorem now : t.now = s.now := congrArg Prod.fst h.beside
theorem pidx : t.pidx = s.pidx := congrArg (·.2.1) h.beside
theorem claims : t.claims = s.claims := congrArg (·.2.2.1) h.beside
theorem latches : t.latches = s.latches := congrArg (·.2.2.2.1) h.beside

theorem on {g : Fld} (hg : K g) : t.on g = s.on g := by rw [State.on, h.get g hg, State.on]

end beside

end State.IslFrame

end Sys2Proof.Machine
end

section
/-! The fields the operations of a leg island keep (R259–R281). -/

namespace Sys2Proof.Machine

/-- A field the drives of an island's switches leave alone: they write GH_ON, GL_ON, BST_REF and raise events. -/
def driveKeeps (k : Nat) (g : Fld) : Prop :=
  g.addr ≠ LEG.page k + 0x14 ∧ (g.addr = LEG.STAT k → g.lo + g.w ≤ 3 ∨ 5 ≤ g.lo) ∧ (g.addr = LEG.CNT k → 16 ≤ g.lo)

/-- A field a fault of an island leaves alone: it also writes FLT, FLT_T, FAULTED and the count of lost records. -/
def faultKeeps (k : Nat) (g : Fld) : Prop :=
  driveKeeps k g ∧ g.addr ≠ LEG.FLT k ∧ g.addr ≠ LEG.FLT_T k ∧ (g.addr = LEG.STAT k → g.lo + g.w ≤ 8 ∨ 9 ≤ g.lo) ∧
    outside NVL.page g

/-- A field STAT.SOFT and STAT.IDLE share no bit with. -/
def statKeeps (k : Nat) (g : Fld) : Prop :=
  g.addr = LEG.STAT k → g.lo + g.w ≤ 9 ∨ (10 ≤ g.lo ∧ g.lo + g.w ≤ 14) ∨ 15 ≤ g.lo

theorem faultKeeps.drive {k : Nat} {g : Fld} (h : faultKeeps k g) : driveKeeps k g := h.1

theorem driveKeeps.gate {k : Nat} {g : Fld} (h : driveKeeps k g) (high : Bool) : (gateFld k high).apart g := by
  simp only [driveKeeps, LEG.STAT] at h
  cases high <;> simp only [gateFld, Fld.apart, Bool.false_eq_true, if_true, if_false] <;> omega

theorem driveKeeps.ref {k : Nat} {g : Fld} (h : driveKeeps k g) : (LEG.CNT_BST_REF k).apart g := by
  simp only [driveKeeps, LEG.CNT] at h; simp only [Fld.apart]; omega

theorem statKeeps.apart {k : Nat} {g : Fld} (h : statKeeps k g) : (LEG.STAT_SOFT k).apart g ∧ (LEG.STAT_IDLE k).apart g := by
  simp only [statKeeps, LEG.STAT] at h; simp only [Fld.apart]; omega

section fields
variable {k a lo w : Nat}

/-- Registers of an island's page that its drives and faults do not write, by their place in the table. -/
@[simp] theorem faultKeeps_reg (hk : k < 12) (h : 0x40300000 ≤ a ∧ a < 0x40301000 ∧
    a ∉ [0x40300014, 0x40300058, 0x4030005C, 0x40300064, 0x40300068]) : faultKeeps k ⟨a + 0x1000 * k, lo, w⟩ := by
  simp only [List.mem_cons, List.not_mem_nil, or_false, not_or] at h
  simp only [faultKeeps, driveKeeps, outside, LEG.page, LEG.STAT, LEG.CNT, LEG.FLT, LEG.FLT_T, NVL.page]
  omega

/-- Bits of STAT that drives and faults do not write. -/
@[simp] theorem faultKeeps_stat (hk : k < 12) (h : lo + w ≤ 3 ∨ (5 ≤ lo ∧ lo + w ≤ 8) ∨ 9 ≤ lo) :
    faultKeeps k ⟨LEG.STAT k, lo, w⟩ := by
  simp only [faultKeeps, driveKeeps, outside, LEG.page, LEG.STAT, LEG.CNT, LEG.FLT, LEG.FLT_T, NVL.page]
  omega

@[simp] theorem statKeeps_reg (h : a ≠ 0x40300058) : statKeeps k ⟨a + 0x1000 * k, lo, w⟩ := by
  simp only [statKeeps, LEG.STAT]; omega

@[simp] theorem statKeeps_stat (h : lo + w ≤ 9 ∨ (10 ≤ lo ∧ lo + w ≤ 14)) : statKeeps k ⟨LEG.STAT k, lo, w⟩ := by
  simp only [statKeeps]; omega

/-- Registers of the header that an island's operations do not write. -/
@[simp] theorem faultKeeps_header (hk : k < 12) (h : a < 0x40 ∧ a ≠ 0x14) : faultKeeps k ⟨LEG.page k + a, lo, w⟩ := by
  simp only [faultKeeps, driveKeeps, outside, LEG.page, LEG.STAT, LEG.CNT, LEG.FLT, LEG.FLT_T, NVL.page]
  omega

@[simp] theorem statKeeps_header (h : a < 0x40) : statKeeps k ⟨LEG.page k + a, lo, w⟩ := by
  simp only [statKeeps, LEG.STAT, LEG.page]; omega

/-- Registers below the islands' pages, among them those R133 looks at. -/
theorem faultKeeps_below {g : Fld} (hk : k < 12) (h : g.addr < 0x40300000) : faultKeeps k g := by
  simp only [faultKeeps, driveKeeps, outside, LEG.page, LEG.STAT, LEG.CNT, LEG.FLT, LEG.FLT_T, NVL.page]
  omega

/-- Bits of FLT and FLT_T, which the drives leave alone. -/
@[simp] theorem driveKeeps_reg (h : a ∉ [0x40300014, 0x40300058, 0x40300068]) : driveKeeps k ⟨a + 0x1000 * k, lo, w⟩ := by
  simp only [List.mem_cons, List.not_mem_nil, or_false, not_or] at h
  simp only [driveKeeps, LEG.page, LEG.STAT, LEG.CNT]
  omega

@[simp] theorem driveKeeps_stat (h : lo + w ≤ 3 ∨ 5 ≤ lo) : driveKeeps k ⟨LEG.STAT k, lo, w⟩ := by
  simp only [driveKeeps, LEG.page, LEG.STAT, LEG.CNT]
  omega

@[simp] theorem driveKeeps_ilDly : driveKeeps k (LEG.CNT_IL_DLY k) := by
  simp only [driveKeeps, LEG.page, LEG.STAT, LEG.CNT]
  omega

end fields

end Sys2Proof.Machine
end

section
/-! How the switches of a leg island are driven (R260, R261, R263, R268, R272): what a switch turned on or off, a turn-on and a
line that falls leave. -/

namespace Sys2Proof.Machine

/-! ### A switch that is driven on or off -/

/-- The island after its switch began to be driven on, with blanking until `t` (R268, R270). -/
def Isl.turnedOn (x : Isl) (high : Bool) (t now : Nat) : Isl :=
  let x := (((x.setOn high true).setSoften high false).setWait high none).setBlank high (some t)
  if high then x else { x with lowOn := some now }

/-- The island after its switch was driven off, T_BCHG being `tb` (R260, R268). -/
def Isl.turnedOff (x : Isl) (high : Bool) (tb now : Nat) : Isl :=
  let x := (((x.setOn high false).setSoften high (x.soft high).isSome).setWait high none).setBlank high none
  if high then x
  else { x with lowOn := none, charged := x.charged || (match x.lowOn with | some t => decide (t + tb ≤ now) | none => false) }

section isl
variable (x : Isl) (high h : Bool) (t now tb : Nat)

theorem Isl.turnedOn_kept : x.Kept (x.turnedOn high t now) := by
  cases high <;> exact ⟨fun _ => rfl, fun _ => rfl, fun _ => rfl, rfl⟩

theorem Isl.turnedOff_kept : x.Kept (x.turnedOff high tb now) := by
  cases high <;> exact ⟨fun _ => rfl, fun _ => rfl, fun _ => rfl, rfl⟩

theorem Isl.setWait_kept (w : Option Nat) : x.Kept (x.setWait high w) := by
  cases high <;> exact ⟨fun _ => rfl, fun _ => rfl, fun _ => rfl, rfl⟩

theorem Isl.setCut_kept (c : Option Nat) : x.Kept (x.setCut high c) := by
  cases high <;> exact ⟨fun _ => rfl, fun _ => rfl, fun _ => rfl, rfl⟩

theorem Isl.turnedOn_on : (x.turnedOn high t now).on h = if h = high then true else x.on h := by
  cases high <;> cases h <;> rfl

theorem Isl.turnedOn_wait : (x.turnedOn high t now).wait h = if h = high then none else x.wait h := by
  cases high <;> cases h <;> rfl

theorem Isl.turnedOn_blank : (x.turnedOn high t now).blank high = some t := by cases high <;> rfl

theorem Isl.turnedOff_on : (x.turnedOff high tb now).on h = if h = high then false else x.on h := by
  cases high <;> cases h <;> rfl

theorem Isl.turnedOff_wait : (x.turnedOff high tb now).wait h = if h = high then none else x.wait h := by
  cases high <;> cases h <;> rfl

theorem Isl.setWait_on (w : Option Nat) : (x.setWait high w).on h = x.on h := by cases high <;> cases h <;> rfl

theorem Isl.setWait_wait (w : Option Nat) : (x.setWait high w).wait h = if h = high then w else x.wait h := by
  cases high <;> cases h <;> rfl

theorem Isl.setCut_on (c : Option Nat) : (x.setCut high c).on h = x.on h := by cases high <;> cases h <;> rfl

theorem Isl.setCut_wait (c : Option Nat) : (x.setCut high c).wait h = x.wait h := by cases high <;> cases h <;> rfl

end isl

section drives
variable (s : State) (k : Nat) (high : Bool)

theorem State.switchOn_eq : s.switchOn k high = (s.set (gateFld k high) 1).setIsland k
    ((s.island k).turnedOn high (s.now + (s.set (gateFld k high) 1).get (LEG.PROT_BLANK k) * (tNs * 100)) s.now) := rfl

theorem State.switchOff_eq : s.switchOff k high = s.setIsland k
    ((s.island k).turnedOff high (s.get (LEG.TIM_T_BCHG k) * tUs) s.now) := rfl

/-- Both gate bits lie in STAT, no register of events. -/
theorem gateFld_addr : (gateFld k high).addr = LEG.STAT k := by cases high <;> rfl

theorem gateFld_notRaw : (gateFld k high).addr % 0x1000 ≠ 0x14 := by
  rw [gateFld_addr]; simp only [LEG.STAT]; omega

theorem State.switchOn_frame : IslFrame k (driveKeeps k) s (s.switchOn k high) :=
  ((IslFrame.refl k _ s).set (gateFld_notRaw k high) (fun _ hg => hg.gate high) 1).setIsland (Isl.turnedOn_kept ..)

/-- The island after a switch was driven on: the switch is on and waits no longer, blanked for BLANK (R268, R270). -/
theorem State.switchOn_leaves (h : Bool) :
    ((s.switchOn k high).island k).on h = (if h = high then true else (s.island k).on h) ∧
    ((s.switchOn k high).island k).wait h = (if h = high then none else (s.island k).wait h) ∧
    ((s.switchOn k high).island k).blank high = some (s.now + s.get (LEG.PROT_BLANK k) * (tNs * 100)) := by
  have hgate : (gateFld k high).apart (LEG.PROT_BLANK k) := by
    refine .inl ?_
    rw [gateFld_addr]
    simp only [LEG.STAT]
    omega
  rw [State.switchOn_eq, State.island_setIsland_self, Isl.turnedOn_on, Isl.turnedOn_wait, Isl.turnedOn_blank,
    State.get_set_apart _ _ _ _ hgate]
  exact ⟨rfl, rfl, rfl⟩

/-- Driving a switch off writes no register. -/
theorem State.switchOff_frame : IslFrame k (fun _ => True) s (s.switchOff k high) :=
  (IslFrame.refl k _ s).setIsland (Isl.turnedOff_kept ..)

theorem State.bothOff_frame : IslFrame k (fun _ => True) s (s.bothOff k) :=
  (s.switchOff_frame k true).trans ((s.switchOff k true).switchOff_frame k false)

@[simp] theorem State.get_switchOff (g : Fld) : (s.switchOff k high).get g = s.get g := rfl
@[simp] theorem State.get_bothOff (g : Fld) : (s.bothOff k).get g = s.get g := rfl

/-- The island after both its switches were driven off. -/
theorem State.bothOff_on (h : Bool) : ((s.bothOff k).island k).on h = false := by
  rw [State.bothOff, State.switchOff_eq, State.island_setIsland_self, Isl.turnedOff_on, State.switchOff_eq,
    State.island_setIsland_self, Isl.turnedOff_on]
  cases h <;> rfl

theorem State.get_switchOn_gate : (s.switchOn k high).get (gateFld k high) = 1 := by
  rw [State.switchOn_eq, State.get_setIsland]
  cases high
  · exact State.get_set_self _ (LEG.STAT_GL_ON k) _ (by show 4 + 1 ≤ 32; decide)
  · exact State.get_set_self _ (LEG.STAT_GH_ON k) _ (by show 3 + 1 ≤ 32; decide)

theorem State.get_switchOn_opposite : (s.switchOn k high).get (gateFld k !high) = s.get (gateFld k !high) := by
  rw [State.switchOn_eq, State.get_setIsland]
  refine State.get_set_apart _ _ _ _ ?_
  cases high
  · exact .inr (.inr (by show 3 + 1 ≤ 4; decide))
  · exact .inr (.inl (by show 3 + 1 ≤ 4; decide))

end drives

/-! ### A commanded turn-on (R261, R268) -/

section turnOn
variable {s : State} {k : Nat} {high : Bool}

theorem State.turnOn_barred (h : s.mayOn k high = false) : s.turnOn k high = s := by simp [State.turnOn, h]

theorem State.turnOn_refused (hm : s.mayOn k true = true) (hon : (s.island k).onH = false) (hw : (s.island k).waitH = none)
    (hb : s.get (LEG.STAT_BST_OK k) = 0) : s.turnOn k true = s.bstRefuse k := by
  have hon' : (s.island k).on true = false := hon
  have hw' : (s.island k).wait true = none := hw
  simp [State.turnOn, hm, hon', hw', State.on_of_get_zero hb]

section unrefused
variable (hm : s.mayOn k high = true) (hon : (s.island k).on high = false) (hw : (s.island k).wait high = none)
  (hb : high = true → s.get (LEG.STAT_BST_OK k) = 1)
include hm hon hw hb

theorem State.turnOn_waits (hg : s.get (gateFld k !high) = 1) :
    s.turnOn k high = s.setIsland k ((s.island k).setWait high (some s.now)) := by
  have hbst : (high && !s.on (LEG.STAT_BST_OK k)) = false := by
    cases high
    · rfl
    · simp [State.on_of_get_one (hb rfl)]
  simp [State.turnOn, hm, hon, hw, hbst, State.on_of_get_one hg]

theorem State.turnOn_now (hg : s.get (gateFld k !high) = 0) : s.turnOn k high = s.switchOn k high := by
  have hbst : (high && !s.on (LEG.STAT_BST_OK k)) = false := by
    cases high
    · rfl
    · simp [State.on_of_get_one (hb rfl)]
  simp [State.turnOn, hm, hon, hw, hbst, State.on_of_get_zero hg]

end unrefused

variable (s k high)

/-- What a turn-on can come to (R261, R268). -/
theorem State.turnOn_cases : s.turnOn k high = s ∨ s.turnOn k high = s.bstRefuse k ∨
    s.turnOn k high = s.setIsland k ((s.island k).setWait high (some s.now)) ∨ s.turnOn k high = s.switchOn k high := by
  unfold State.turnOn
  dsimp only
  split
  · exact .inl rfl
  split
  · exact .inr (.inl rfl)
  split
  · exact .inr (.inr (.inl rfl))
  · exact .inr (.inr (.inr rfl))

/-- A refused turn-on writes its count and raises its event, and that is all. -/
theorem State.bstRefuse_frame :
    IslFrame k (fun g => (LEG.CNT_BST_REF k).apart g ∧ g.addr ≠ LEG.page k + 0x14) s (s.bstRefuse k) := by
  have hcnt : (LEG.CNT_BST_REF k).addr % 0x1000 ≠ 0x14 := by simp only; omega
  have hbump := (IslFrame.refl k (fun g => (LEG.CNT_BST_REF k).apart g ∧ g.addr ≠ LEG.page k + 0x14) s).set hcnt
    (fun _ hg => hg.1) (min (s.get (LEG.CNT_BST_REF k) + 1) (2 ^ 16 - 1))
  unfold State.bstRefuse
  exact .ite hbump ((hbump.modIsland _ ⟨fun _ => rfl, fun _ => rfl, fun _ => rfl, rfl⟩).irq (fun _ hg => hg.2) 1)

theorem State.turnOn_frame : IslFrame k (driveKeeps k) s (s.turnOn k high) := by
  rcases s.turnOn_cases k high with h | h | h | h <;> rw [h]
  · exact .refl k _ s
  · exact (s.bstRefuse_frame k).mono fun _ hg => ⟨hg.ref, hg.1⟩
  · exact (IslFrame.refl k _ s).setIsland (Isl.setWait_kept ..)
  · exact s.switchOn_frame k high

theorem State.resume_frame : IslFrame k (driveKeeps k) s (s.resume k high) := by
  unfold State.resume
  exact .ite (s.turnOn_frame k high) (.refl k _ s)

/-- A refused turn-on is counted, and reported where none was since BST_OK cleared (R261). -/
theorem State.bstRefuse_leaves : (s.bstRefuse k).get (LEG.CNT_BST_REF k) = min 65535 (s.get (LEG.CNT_BST_REF k) + 1) ∧
    (∀ h, ((s.bstRefuse k).island k).on h = (s.island k).on h ∧ ((s.bstRefuse k).island k).wait h = (s.island k).wait h) ∧
    ((s.island k).refReported = false → (s.bstRefuse k).raised (LEG.page k) 1) := by
  have hcnt : (s.bump (LEG.CNT_BST_REF k)).get (LEG.CNT_BST_REF k) = min 65535 (s.get (LEG.CNT_BST_REF k) + 1) := by
    rw [State.get_bump _ _ (by show 0 + 16 ≤ 32; decide), Nat.min_comm]; rfl
  unfold State.bstRefuse
  dsimp only
  split
  · rename_i hr
    exact ⟨hcnt, fun _ => ⟨rfl, rfl⟩, fun h => absurd hr (by rw [State.island_bump, h]; decide)⟩
  · refine ⟨?_, fun h => ?_, fun _ => State.raised_irq _ _ 1 (by decide)⟩
    · rw [State.get_irq_of_ne _ _ _ _ (by simp only [LEG.page]; omega), State.get_modIsland, hcnt]
    · rw [State.island_irq, State.island_modIsland_self]; exact ⟨rfl, rfl⟩

end turnOn

end Sys2Proof.Machine
end

section
/-! When a switch of a leg island may be driven on (R259, R263, R272, R273, R277), the lines that fall (R263), and the faults an
island latches (R273). -/

namespace Sys2Proof.Machine

/-! ### What permits a turn-on -/

/-- The command-line state of a leg is the same where the frame keeps the stage and the leg's own enable (R133). -/
theorem State.IslFrame.legCode {k : Nat} {K : Fld → Prop} {s t : State} (h : IslFrame k K s t) {j : Nat} (ha : K PWR.STAT_ARMED)
    (hl : K (LPW.CFG_EN j)) : t.legCode j = s.legCode j := by
  have hbeside := h.beside
  simp only [State.beside, Prod.mk.injEq] at hbeside
  obtain ⟨-, -, hclaims, hlatches, hchans, hhalt, hblk, hwait⟩ := hbeside
  have harm : t.armed = s.armed := h.on ha
  have hhiz : t.hizLegs = s.hizLegs := by rw [State.hizLegs, hlatches, State.hizLegs]
  have hasc : t.ascLegs = s.ascLegs := by rw [State.ascLegs, hlatches, State.ascLegs]
  have hchan : t.chan (96 + j) = s.chan (96 + j) := by rw [State.chan, hchans, State.chan]
  rw [State.legCode, State.legCode, harm, hhiz, hasc, hchan, hhalt, hblk, hwait, h.on hl, State.claim_congr hclaims]

section mayOn
variable {s : State} {k : Nat} {high : Bool}

/-- The fields that permit a turn-on. -/
def mayFlds (k : Nat) : List Fld := [HDR.CTRL_EN (LEG.page k), LEG.STAT_VPOS_OK k, LEG.STAT_VNEG_OK k, LEG.STAT_TESTING k,
  LEG.FLT_FAULTS k, PWR.STAT_ARMED, LPW.CFG_EN k]

/-- A switch may turn on as before where the frame keeps what permits it. -/
theorem State.IslFrame.mayOn {K : Fld → Prop} {t : State} (h : IslFrame k K s t) (hK : ∀ g ∈ mayFlds k, K g) (high : Bool) :
    t.mayOn k high = s.mayOn k high := by
  simp only [mayFlds, List.forall_mem_cons] at hK
  obtain ⟨hen, hpos, hneg, htest, hflt, harm, hleg, -⟩ := hK
  have hsH : (t.island k).softH = (s.island k).softH := h.kept.soft true
  have hsL : (t.island k).softL = (s.island k).softL := h.kept.soft false
  have hslot : (t.island k).slotH = (s.island k).slotH := h.kept.slot true
  simp only [State.mayOn, State.legEn, State.fltLets, State.legFlt, h.on hen, h.on hpos, h.on hneg, h.on htest, h.get _ hflt,
    h.legCode harm hleg, h.kept.slot, hsH, hsL, hslot]

/-- A switch of an island with no fault, supplied, not under test and with no soft turn-off or slot may turn on. -/
theorem State.mayOn_of (hen : s.legEn k = true) (hp : s.get (LEG.STAT_VPOS_OK k) = 1) (hn : s.get (LEG.STAT_VNEG_OK k) = 1)
    (ht : s.get (LEG.STAT_TESTING k) = 0) (hf : s.legFlt k = 0) (hsoft : ∀ h, (s.island k).soft h = none)
    (hslot : ∀ h, (s.island k).slot h = none) : s.mayOn k high = true := by
  have hsH : (s.island k).softH = none := hsoft true
  have hsL : (s.island k).softL = none := hsoft false
  have hsl : (s.island k).slotH = none := hslot true
  simp [State.mayOn, State.fltLets, hen, State.on_of_get_one hp, State.on_of_get_one hn, State.on_of_get_zero ht, hf, hslot,
    hsH, hsL, hsl]

/-- A faulted island whose leg is not under an ASC latch lets neither switch turn on (R263, R273). -/
theorem State.mayOn_faulted (hf : s.legFlt k ≠ 0) (hc : s.legCode k ≠ 3) : s.mayOn k high = false := by
  have hlets : s.fltLets k high = false := by simp [State.fltLets, hf, hc]
  simp [State.mayOn, hlets]

end mayOn

/-! ### Lines that fall (R263) -/

section lineOff
variable (s : State) (k : Nat) (high : Bool)

theorem State.lineOff_frame : IslFrame k (fun _ => True) s (s.lineOff k high) := by
  unfold State.lineOff
  dsimp only
  refine .ite (.refl k _ s) (.ite ?_ ((IslFrame.refl k _ s).setIsland (Isl.setWait_kept ..)))
  exact (s.switchOff_frame k high).modIsland _ (Isl.setCut_kept ..)

/-- A line that falls outside a slot turns its switch off, ends its wait, and leaves the other switch as it is. -/
theorem State.lineOff_leaves {s : State} {k : Nat} {high : Bool} (h : (s.island k).slot high = none) (b : Bool) :
    ((s.lineOff k high).island k).on b = (if b = high then false else (s.island k).on b) ∧
    ((s.lineOff k high).island k).wait b = (if b = high then none else (s.island k).wait b) := by
  unfold State.lineOff
  simp only [h, Option.isSome_none, Bool.false_eq_true, if_false]
  split
  · rw [State.island_modIsland_self, Isl.setCut_on, Isl.setCut_wait, State.switchOff_eq, State.island_setIsland_self,
      Isl.turnedOff_on, Isl.turnedOff_wait]
    exact ⟨rfl, rfl⟩
  · rename_i hon
    rw [State.island_setIsland_self, Isl.setWait_on, Isl.setWait_wait]
    refine ⟨?_, rfl⟩
    split
    · rename_i hb; subst hb; simpa using hon
    · rfl

end lineOff

/-! ### STAT of an island (R272, R279) -/

section islStat
variable (s : State) (k : Nat)

theorem State.islStat_frame : IslFrame k (statKeeps k) s (s.islStat k) := by
  have hr : (LEG.STAT k) % 0x1000 ≠ 0x14 := by simp only [LEG.STAT]; omega
  exact ((IslFrame.refl k _ s).set hr (fun _ hg => hg.apart.1) _).set hr (fun _ hg => hg.apart.2) _

@[simp] theorem State.islStat_island (j : Nat) : (s.islStat k).island j = s.island j := rfl

/-- SOFT shows a soft turn-off. -/
theorem State.islStat_soft : (s.islStat k).get (LEG.STAT_SOFT k) =
    if (s.island k).softH.isSome || (s.island k).softL.isSome then 1 else 0 := by
  unfold State.islStat
  rw [State.get_setB_apart _ _ _ _ (.inr (.inl (by show 9 + 1 ≤ 14; decide))),
    State.get_setB_self _ _ _ (by show 14 + 1 ≤ 32; decide) rfl]

end islStat

/-! ### Faults (R273) -/

section faults
variable (s : State) (k bit : Nat)

/-- A fault as the island latches it: FLT, FIRST and its instant, the event and the record. -/
def State.fltNoted : State :=
  let first := s.get (LEG.FLT_FIRST k) == 0
  let s := (s.set (LEG.FLT_FAULTS k) (s.legFlt k ||| 1 <<< bit)).set (LEG.STAT_FAULTED k) 1
  let s := s.iff first (fun s => ((s.set (LEG.FLT_FIRST k) (bit + 1)).set (LEG.FLT_T_OFS k)
    ((s.now - s.bndAt) / t10)).set (LEG.FLT_T_PIDX k) s.pidx)
  (s.irq (LEG.page k) 0).log (LEG.page k) 0 k s.pidx

/-- What follows of a latched fault: both switches off, the report due, and the low switch where its line lets it. -/
def State.fltHeld : State :=
  let s := s.bothOff k
  let s := s.modIsland k (fun x => { x with reports := x.reports ++ [(bit, s.now)] })
  let s := if (s.island k).lineL == 1 && (s.island k).lineH != 1 then s.turnOn k false else s
  s.legSource

theorem State.islFault_again (h : s.legEn k = false ∨ (s.legFlt k).testBit bit = true) : s.islFault k bit = s := by
  rcases h with h | h <;> simp [State.islFault, h]

theorem State.islFault_new (he : s.legEn k = true) (h : (s.legFlt k).testBit bit = false) :
    s.islFault k bit = (s.fltNoted k bit).fltHeld k bit := by
  unfold State.islFault State.fltHeld State.fltNoted
  rw [if_neg (by simp [he, h])]

end faults

end Sys2Proof.Machine
end

section
/-! What a fault of a leg island leaves (R263, R270–R273). -/

namespace Sys2Proof.Machine

/-! ### What is latched -/

section noted
variable (s : State) (k bit : Nat)

/-- FLT, FAULTED and, of a first fault, FIRST and its instant. -/
def State.fltMarked : State :=
  let first := s.get (LEG.FLT_FIRST k) == 0
  let s := (s.set (LEG.FLT_FAULTS k) (s.legFlt k ||| 1 <<< bit)).set (LEG.STAT_FAULTED k) 1
  s.iff first (fun s => ((s.set (LEG.FLT_FIRST k) (bit + 1)).set (LEG.FLT_T_OFS k)
    ((s.now - s.bndAt) / t10)).set (LEG.FLT_T_PIDX k) s.pidx)

theorem State.fltNoted_eq : s.fltNoted k bit =
    ((s.fltMarked k bit).irq (LEG.page k) 0).log (LEG.page k) 0 k (s.fltMarked k bit).pidx := rfl

theorem faultKeeps.apart {k : Nat} {g : Fld} (h : faultKeeps k g) : (LEG.FLT_FAULTS k).apart g ∧ (LEG.STAT_FAULTED k).apart g ∧
    (LEG.FLT_FIRST k).apart g ∧ (LEG.FLT_T_OFS k).apart g ∧ (LEG.FLT_T_PIDX k).apart g := by
  simp only [faultKeeps, LEG.FLT, LEG.FLT_T, LEG.STAT] at h
  simp only [Fld.apart]
  omega

theorem State.fltMarked_frame : IslFrame k (faultKeeps k) s (s.fltMarked k bit) := by
  have hflt : (LEG.FLT k) % 0x1000 ≠ 0x14 := by simp only [LEG.FLT]; omega
  have hstat : (LEG.STAT k) % 0x1000 ≠ 0x14 := by simp only [LEG.STAT]; omega
  have ht : (LEG.FLT_T k) % 0x1000 ≠ 0x14 := by simp only [LEG.FLT_T]; omega
  unfold State.fltMarked
  extract_lets first s1
  have h1 : IslFrame k (faultKeeps k) s s1 :=
    ((IslFrame.refl k _ s).set hflt (fun _ hg => hg.apart.1) _).set hstat (fun _ hg => hg.apart.2.1) 1
  exact h1.iff (((h1.set hflt (fun _ hg => hg.apart.2.2.1) _).set ht (fun _ hg => hg.apart.2.2.2.1) _).set ht
    (fun _ hg => hg.apart.2.2.2.2) _)

theorem State.fltNoted_frame : IslFrame k (faultKeeps k) s (s.fltNoted k bit) :=
  ((s.fltMarked_frame k bit).irq (fun _ hg => hg.drive.1) 0).log (fun _ hg => hg.2.2.2.2) _ _ _ _

/-- The event and the record write no field of the page but IRQ_RAW. -/
theorem State.get_fltNoted {k : Nat} (hk : k < 12) {g : Fld} (h : LEG.page k ≤ g.addr ∧ g.addr < LEG.page k + 0x1000)
    (hr : g.addr ≠ LEG.page k + 0x14) : (s.fltNoted k bit).get g = (s.fltMarked k bit).get g := by
  have hn : outside NVL.page g := by simp only [outside, NVL.page, LEG.page] at *; omega
  refine (((IslFrame.refl k (fun g => g.addr ≠ LEG.page k + 0x14 ∧ outside NVL.page g) (s.fltMarked k bit)).irq
    (fun _ hg => hg.1) 0).log (fun _ hg => hg.2) _ _ _ _).get g ⟨hr, hn⟩

variable {bit} (hb : bit < 9)

theorem State.fltMarked_faulted : (s.fltMarked k bit).get (LEG.STAT_FAULTED k) = 1 := by
  unfold State.fltMarked
  rw [State.get_iff (fun t => ?_)]
  · exact State.get_set_self _ _ _ (by show 8 + 1 ≤ 32; decide)
  · simp (disch := (simp only [Fld.apart]; omega)) only [State.get_set_apart]

include hb

theorem State.fltMarked_flt : (s.fltMarked k bit).legFlt k = s.legFlt k ||| 1 <<< bit := by
  have hlt : s.legFlt k ||| 1 <<< bit < 2 ^ 9 :=
    Nat.or_lt_two_pow (s.get_lt _) (by rw [Nat.one_shiftLeft]; exact Nat.pow_lt_pow_right (by decide) hb)
  unfold State.fltMarked
  rw [State.legFlt, State.get_iff (fun t => ?_)]
  · rw [State.get_set_apart _ _ _ _ (.inl (by simp only; omega)), State.get_set_self _ _ _ (by show 0 + 9 ≤ 32; decide)]
    exact Nat.mod_eq_of_lt hlt
  · simp (disch := (simp only [Fld.apart]; omega)) only [State.get_set_apart]

theorem State.fltMarked_first (h : s.get (LEG.FLT_FIRST k) = 0) : (s.fltMarked k bit).get (LEG.FLT_FIRST k) = bit + 1 ∧
    (s.fltMarked k bit).get (LEG.FLT_T_PIDX k) = s.pidx % 65536 := by
  unfold State.fltMarked
  rw [State.iff_true (by rw [h]; rfl)]
  refine ⟨?_, State.get_set_self _ _ _ (by show 16 + 16 ≤ 32; decide)⟩
  simp (disch := (simp only [Fld.apart]; omega)) only [State.get_set_apart]
  rw [State.get_set_self _ _ _ (by show 12 + 4 ≤ 32; decide)]
  exact Nat.mod_eq_of_lt (by show bit + 1 < 16; omega)

end noted

/-! ### What follows of it -/

section held
variable (s : State) (k bit : Nat)

/-- A report that is due changes nothing else of the island. -/
theorem Isl.reports_kept (x : Isl) (l : List (Nat × Nat)) : x.Kept { x with reports := l } :=
  ⟨fun _ => rfl, fun _ => rfl, fun _ => rfl, rfl⟩

/-- Source LEG shows in no register. -/
theorem State.legSource_frame (K : Fld → Prop) : IslFrame k K s s.legSource := by
  unfold State.legSource State.srcActive
  exact .ite (.same rfl rfl rfl) (.ite (.same rfl rfl rfl) (.refl k K s))

theorem State.legSource_island (j : Nat) : s.legSource.island j = s.island j := by
  unfold State.legSource State.srcActive
  dsimp only
  split
  · rfl
  split <;> rfl

theorem State.fltHeld_frame : IslFrame k (driveKeeps k) s (s.fltHeld k bit) := by
  unfold State.fltHeld
  extract_lets s1 s2 s3
  have h1 : IslFrame k (driveKeeps k) s s1 := (s.bothOff_frame k).mono fun _ _ => trivial
  have h2 : IslFrame k (driveKeeps k) s s2 := h1.modIsland _ (Isl.reports_kept ..)
  exact (IslFrame.ite (h2.trans (s2.turnOn_frame k false)) h2).trans (s3.legSource_frame k _)

/-- The turn-on of one switch leaves whether the other is driven. -/
theorem State.turnOn_other (s : State) (k : Nat) (high : Bool) :
    ((s.turnOn k high).island k).on (!high) = (s.island k).on (!high) := by
  rcases s.turnOn_cases k high with h | h | h | h <;> rw [h]
  · exact ((s.bstRefuse_leaves k).2.1 _).1
  · rw [State.island_setIsland_self, Isl.setWait_on]
  · rw [State.switchOn_eq, State.island_setIsland_self, Isl.turnedOn_on, if_neg (by cases high <;> decide)]

/-- After a fault the high switch is held off. -/
theorem State.fltHeld_high : ((s.fltHeld k bit).island k).onH = false := by
  unfold State.fltHeld
  extract_lets s1 s2 s3
  have h2 : (s2.island k).onH = false := by
    rw [State.island_modIsland_self]; exact s.bothOff_on k true
  show (s3.legSource.island k).onH = false
  rw [State.legSource_island]
  unfold s3
  split
  · exact (s2.turnOn_other k false).trans h2
  · exact h2

/-- And so is the low switch, where its line does not read ON alone or may not turn on. -/
theorem State.fltHeld_low (hoff : (s.island k).lineL ≠ 1 ∨ (s.island k).lineH = 1 ∨ s.mayOn k false = false) :
    ((s.fltHeld k bit).island k).onL = false := by
  unfold State.fltHeld
  extract_lets s1 s2 s3
  have h1 : IslFrame k (fun _ => True) s s1 := s.bothOff_frame k
  have h2 : IslFrame k (fun _ => True) s s2 := h1.modIsland _ (Isl.reports_kept ..)
  have hlow : (s2.island k).onL = false := by
    rw [State.island_modIsland_self]; exact s.bothOff_on k false
  have hH : (s2.island k).lineH = (s.island k).lineH := h2.kept.line true
  have hL : (s2.island k).lineL = (s.island k).lineL := h2.kept.line false
  rw [State.legSource_island]
  unfold s3
  rw [hH, hL]
  split
  · rename_i h
    simp only [Bool.and_eq_true, beq_iff_eq, bne_iff_ne] at h
    have hbar : s.mayOn k false = false := (hoff.resolve_left (not_not.2 h.1)).resolve_left h.2
    rw [State.turnOn_barred ((h2.mayOn (fun _ _ => trivial) false).trans hbar)]
    exact hlow
  · exact hlow

end held

/-! ### A fault of an enabled island -/

section fault
variable (s : State) {k bit : Nat}

theorem State.islFault_frame (k bit : Nat) : IslFrame k (faultKeeps k) s (s.islFault k bit) := by
  by_cases h : s.legEn k = false ∨ (s.legFlt k).testBit bit = true
  · rw [State.islFault_again s k bit h]; exact .refl k _ s
  · simp only [not_or, Bool.not_eq_false, Bool.not_eq_true] at h
    rw [State.islFault_new s k bit h.1 h.2]
    exact (s.fltNoted_frame k bit).trans (((s.fltNoted k bit).fltHeld_frame k bit).mono fun _ hg => hg.drive)

/-- A high switch that is off stays off through a fault. -/
theorem State.islFault_high (h : (s.island k).onH = false) : ((s.islFault k bit).island k).onH = false := by
  by_cases hnew : s.legEn k = false ∨ (s.legFlt k).testBit bit = true
  · rw [State.islFault_again s k bit hnew]; exact h
  · simp only [not_or, Bool.not_eq_false, Bool.not_eq_true] at hnew
    rw [State.islFault_new s k bit hnew.1 hnew.2]
    exact State.fltHeld_high _ k bit

/-- So does a low switch whose line does not read ON alone. -/
theorem State.islFault_low (h : (s.island k).onL = false) (hl : (s.island k).lineL ≠ 1 ∨ (s.island k).lineH = 1) :
    ((s.islFault k bit).island k).onL = false := by
  by_cases hnew : s.legEn k = false ∨ (s.legFlt k).testBit bit = true
  · rw [State.islFault_again s k bit hnew]; exact h
  · simp only [not_or, Bool.not_eq_false, Bool.not_eq_true] at hnew
    rw [State.islFault_new s k bit hnew.1 hnew.2]
    have hkept := (s.fltNoted_frame k bit).kept
    refine State.fltHeld_low _ k bit (or_assoc.1 (.inl (hl.imp (fun h => ?_) (fun h => ?_))))
    · exact fun e => h ((hkept.line false).symm.trans e)
    · exact (hkept.line true).trans h

variable {s} (hk : k < 12) (hb : bit < 9) (he : s.legEn k = true)
include hk hb he

/-- FLT after a fault: the bits before and its own. -/
theorem State.islFault_flt : (s.islFault k bit).legFlt k = s.legFlt k ||| 1 <<< bit := by
  by_cases h : (s.legFlt k).testBit bit = true
  · rw [State.islFault_again s k bit (.inr h)]
    apply Nat.eq_of_testBit_eq
    intro i
    rw [Nat.testBit_or, Nat.one_shiftLeft, Nat.testBit_two_pow]
    by_cases hi : bit = i
    · subst hi; simp [h]
    · simp [hi]
  · rw [State.islFault_new s k bit he (by simpa using h), State.legFlt, ((s.fltNoted k bit).fltHeld_frame k bit).get _ (by simp),
      State.get_fltNoted s bit hk (by simp only [LEG.page]; omega) (by simp only [LEG.page]; omega)]
    exact s.fltMarked_flt k hb

theorem State.islFault_bit : ((s.islFault k bit).legFlt k).testBit bit = true := by
  rw [State.islFault_flt hk hb he, Nat.testBit_or, Nat.one_shiftLeft, Nat.testBit_two_pow_self, Bool.or_true]

theorem State.islFault_keepsBit {b : Nat} (h : (s.legFlt k).testBit b = true) :
    ((s.islFault k bit).legFlt k).testBit b = true := by
  rw [State.islFault_flt hk hb he, Nat.testBit_or, h, Bool.true_or]

/-- What a fault of an island without one leaves (R273): FAULTED, FIRST with its period, the event, both switches off. -/
theorem State.islFault_first (hf : s.legFlt k = 0) (hc : s.legCode k ≠ 3) :
    (s.islFault k bit).get (LEG.STAT_FAULTED k) = 1 ∧ (s.islFault k bit).raised (LEG.page k) 0 ∧
    ((s.islFault k bit).island k).onH = false ∧ ((s.islFault k bit).island k).onL = false ∧
    (s.get (LEG.FLT_FIRST k) = 0 → (s.islFault k bit).get (LEG.FLT_FIRST k) = bit + 1 ∧
      (s.islFault k bit).get (LEG.FLT_T_PIDX k) = s.pidx % 65536) := by
  have hflt := State.islFault_flt hk hb he
  have hnew : (s.legFlt k).testBit bit = false := by rw [hf, Nat.zero_testBit]
  rw [State.islFault_new s k bit he hnew] at hflt ⊢
  have hheld := (s.fltNoted k bit).fltHeld_frame k bit
  have hnoted := s.fltNoted_frame k bit
  have hget : ∀ g : Fld, driveKeeps k g → (LEG.page k ≤ g.addr ∧ g.addr < LEG.page k + 0x1000) →
      ((s.fltNoted k bit).fltHeld k bit).get g = (s.fltMarked k bit).get g := fun g hg hp =>
    (hheld.get g hg).trans (State.get_fltNoted s bit hk hp hg.1)
  have hbar : (s.fltNoted k bit).mayOn k false = false := by
    refine State.mayOn_faulted ?_ ?_
    · rw [State.legFlt, State.get_fltNoted s bit hk (by simp only [LEG.page]; omega) (by simp only [LEG.page]; omega)]
      have := s.fltMarked_flt k hb
      rw [State.legFlt] at this
      rw [this, hf, Nat.zero_or, Nat.one_shiftLeft]
      exact (Nat.two_pow_pos bit).ne'
    · rw [hnoted.legCode (faultKeeps_below hk (by decide)) (faultKeeps_below hk (by simp only; omega))]; exact hc
  refine ⟨?_, ?_, State.fltHeld_high _ k bit, State.fltHeld_low _ k bit (.inr (.inr hbar)), fun h0 => ?_⟩
  · rw [hget _ (by simp) (by simp only [LEG.page]; omega)]; exact s.fltMarked_faulted k
  · refine hheld.raised _ 0 (by simp only [LEG.page]; omega) ?_
    rw [State.fltNoted_eq]
    exact ((IslFrame.refl k (fun g => outside NVL.page g) _).log (fun _ hg => hg) _ _ _ _).raised _ 0 (by simp only [LEG.page]; omega)
      (State.raised_irq _ _ 0 (by decide))
  · rw [hget _ (by simp) (by simp only [LEG.page]; omega), hget _ (by simp) (by simp only [LEG.page]; omega)]
    exact s.fltMarked_first k hb h0

end fault

end Sys2Proof.Machine
end

section
/-! The switch faults of a leg island and its interlock (R268–R273): what a desaturation or an overvoltage, a verified gate and
the end of a soft turn-off leave. -/

namespace Sys2Proof.Machine

/-! ### A soft turn-off (R272) -/

/-- The island after a soft turn-off of its switch began at `now`. -/
def Isl.softened (x : Isl) (high : Bool) (now : Nat) : Isl :=
  ((x.setSoft high (some (now + 2 * tUs))).setSlot high none).setSoften high true

theorem Isl.softened_soft (x : Isl) (high : Bool) (now : Nat) : (x.softened high now).soft high = some (now + 2 * tUs) := by
  cases high <;> rfl

theorem Isl.softened_slot (x : Isl) (high : Bool) (now : Nat) : (x.softened high now).slot high = none := by cases high <;> rfl

theorem Isl.softened_on (x : Isl) (high : Bool) (now : Nat) (h : Bool) : (x.softened high now).on h = x.on h := by
  cases high <;> cases h <;> rfl

theorem Isl.softened_line (x : Isl) (high : Bool) (now : Nat) (h : Bool) : (x.softened high now).line h = x.line h := by
  cases high <;> cases h <;> rfl

section softOff
variable (s : State) (k : Nat) (high : Bool)

theorem State.softOff_eq : s.softOff k high = (s.switchOff k high).modIsland k (fun x => x.softened high s.now) := rfl

theorem State.softOff_leaves : ((s.softOff k high).island k).on high = false ∧
    ((s.softOff k high).island k).soft high = some (s.now + 2 * tUs) ∧ ((s.softOff k high).island k).slot high = none ∧
    ∀ h, ((s.softOff k high).island k).line h = (s.island k).line h := by
  have hoff := (s.switchOff_frame k high).kept
  rw [State.softOff_eq, State.island_modIsland_self, Isl.softened_on, Isl.softened_soft, Isl.softened_slot, State.switchOff_eq,
    State.island_setIsland_self, Isl.turnedOff_on, if_pos rfl]
  exact ⟨rfl, rfl, rfl, fun h => (Isl.softened_line ..).trans ((Isl.turnedOff_kept ..).line h)⟩

end softOff

/-! ### Desaturation and gate overvoltage (R270–R272) -/

/-- A fault of a switch of an enabled island without one, outside an ASC latch: latched, both switches off, and the switch
in its soft turn-off. -/
theorem State.switchFault_leaves {s : State} {k bit : Nat} {high : Bool} (hk : k < 12) (hb : bit < 9) (he : s.legEn k = true)
    (hs : (s.island k).soft high = none) (hc : s.legCode k ≠ 3) (hf : s.legFlt k = 0) :
    ((s.switchFault k high bit).legFlt k).testBit bit = true ∧ ((s.switchFault k high bit).island k).onH = false ∧
    ((s.switchFault k high bit).island k).onL = false ∧ (s.switchFault k high bit).now = s.now ∧
    ((s.switchFault k high bit).island k).soft high = some (s.now + 2 * tUs) ∧
    (s.switchFault k high bit).get (LEG.STAT_FAULTED k) = 1 ∧ (s.switchFault k high bit).get (LEG.STAT_SOFT k) = 1 ∧
    (s.switchFault k high bit).raised (LEG.page k) 0 ∧
    (s.get (LEG.FLT_FIRST k) = 0 → (s.switchFault k high bit).get (LEG.FLT_FIRST k) = bit + 1 ∧
      (s.switchFault k high bit).get (LEG.FLT_T_PIDX k) = s.pidx % 65536) := by
  have he' : (s.softOff k high).legEn k = true := he
  obtain ⟨hflt, hraw, honH, honL, hfirst⟩ := State.islFault_first hk hb he' hf hc
  have hbit := State.islFault_bit hk hb he'
  have hfault := (s.softOff k high).islFault_frame k bit
  rw [State.switchFault, hs, Option.isSome_none, if_neg (by decide)]
  generalize (s.softOff k high).islFault k bit = t at *
  have hstat := t.islStat_frame k
  have hsoft : (t.island k).soft high = some (s.now + 2 * tUs) := (hfault.kept.soft high).trans (s.softOff_leaves k high).2.1
  refine ⟨?_, honH, honL, hstat.now.trans hfault.now, hsoft, ?_, ?_, hstat.raised _ 0 (by simp only [LEG.page]; omega) hraw,
    fun h0 => ?_⟩
  · rwa [State.legFlt, hstat.get _ (by simp)]
  · rwa [hstat.get _ (by simp)]
  · rw [State.islStat_soft, if_pos]
    cases high
    · have : (t.island k).softL.isSome = true := by rw [show (t.island k).softL = _ from hsoft]; rfl
      rw [this, Bool.or_true]
    · have : (t.island k).softH.isSome = true := by rw [show (t.island k).softH = _ from hsoft]; rfl
      rw [this, Bool.true_or]
  · rw [hstat.get _ (by simp), hstat.get _ (by simp)]
    exact hfirst h0

/-! ### The interlock (R268, R269) -/

section verify
variable {s : State} {k : Nat} {high : Bool}

/-- The opposite gate is seen verified off. -/
def State.gateOff (s : State) (k : Nat) (high : Bool) : State := s.set (gateFld k !high) 0

theorem State.gateOff_frame (s : State) (k : Nat) (high : Bool) : IslFrame k (driveKeeps k) s (s.gateOff k high) :=
  (IslFrame.refl k _ s).set (gateFld_notRaw k _) (fun _ hg => hg.gate _) 0

theorem State.gateOff_gate (s : State) (k : Nat) (high : Bool) : (s.gateOff k high).get (gateFld k !high) = 0 := by
  cases high
  · exact State.get_set_self s (LEG.STAT_GH_ON k) 0 (by show 3 + 1 ≤ 32; decide)
  · exact State.get_set_self s (LEG.STAT_GL_ON k) 0 (by show 4 + 1 ≤ 32; decide)

theorem driveKeeps_mayFlds (hk : k < 12) : ∀ g ∈ mayFlds k, driveKeeps k g := by
  simp only [mayFlds, List.forall_mem_cons, List.not_mem_nil, false_implies, implies_true, and_true]
  exact ⟨(faultKeeps_header hk (by decide)).drive, driveKeeps_stat (by decide), driveKeeps_stat (by decide),
    driveKeeps_stat (by decide), driveKeeps_reg (by decide), (faultKeeps_below hk (by decide)).drive,
    (faultKeeps_below hk (by simp only; omega)).drive⟩

theorem State.verify_driven (hon : (s.island k).on (!high) = true) : s.verify k high = s := by simp [State.verify, hon]

variable (hk : k < 12) {t0 : Nat} (hon : (s.island k).on (!high) = false) (hw : (s.island k).wait high = some t0)
include hk hon hw

theorem State.verify_barred (hm : s.mayOn k high = false) :
    s.verify k high = (s.gateOff k high).setIsland k ((s.island k).setWait high none) := by
  have hm' := ((s.gateOff_frame k high).mayOn (driveKeeps_mayFlds hk) high).trans hm
  simp only [State.gateOff] at hm'
  simp [State.verify, hon, hw, hm', State.gateOff]

theorem State.verify_on (hm : s.mayOn k high = true) (hb : high = true → s.get (LEG.STAT_BST_OK k) = 1) :
    s.verify k high = (((s.gateOff k high).bump (LEG.CNT_IL_DLY k)).switchOn k high).islStat k := by
  have hm' := ((s.gateOff_frame k high).mayOn (driveKeeps_mayFlds hk) high).trans hm
  have hbst : (high && !(s.gateOff k high).on (LEG.STAT_BST_OK k)) = false := by
    cases high
    · rfl
    · rw [(s.gateOff_frame k true).on (by simp), State.on_of_get_one (hb rfl)]; rfl
  simp only [State.gateOff] at hm' hbst
  simp [State.verify, hon, hw, hm', hbst, State.gateOff]

end verify

theorem State.verify_refused {s : State} {k t0 : Nat} (hk : k < 12) (hon : (s.island k).onL = false)
    (hw : (s.island k).waitH = some t0) (hm : s.mayOn k true = true) (hb : s.get (LEG.STAT_BST_OK k) = 0) :
    s.verify k true = ((s.gateOff k true).setIsland k ((s.island k).setWait true none)).bstRefuse k := by
  have hon' : (s.island k).on (!true) = false := hon
  have hw' : (s.island k).wait true = some t0 := hw
  have hm' := ((s.gateOff_frame k true).mayOn (driveKeeps_mayFlds hk) true).trans hm
  have hbst : (s.gateOff k true).on (LEG.STAT_BST_OK k) = false := by
    rw [(s.gateOff_frame k true).on (by simp), State.on_of_get_zero hb]
  simp only [State.gateOff] at hm' hbst
  simp only [State.verify, hon', hw', hm', hbst, State.gateOff]
  rfl

end Sys2Proof.Machine
end

section
/-! The command lines of a leg island (R261, R263, R264, R401): one sample of them, and the requests of a low switch that turns
on (R248, R293). -/

namespace Sys2Proof.Machine

/-! ### Requests of a low switch that turns on (R248, R293) -/

/-- From `s` to `t` no register below the pages of the converters changes, and no island. -/
structure State.BelowPairs (s t : State) : Prop where
  reg : ∀ a, a < 0x40400000 → t.reg a = s.reg a
  island : ∀ j, t.island j = s.island j

namespace State.BelowPairs
variable {s t u : State}

theorem refl (s : State) : BelowPairs s s := ⟨fun _ _ => rfl, fun _ => rfl⟩

theorem trans (h : BelowPairs s t) (h' : BelowPairs t u) : BelowPairs s u :=
  ⟨fun a ha => (h'.reg a ha).trans (h.reg a ha), fun j => (h'.island j).trans (h.island j)⟩

theorem set (h : BelowPairs s t) {f : Fld} (hf : 0x40400000 ≤ f.addr) (v : Nat) : BelowPairs s (t.set f v) :=
  h.trans ⟨fun _ ha => t.reg_set_of_ne f v (Nat.ne_of_lt (Nat.lt_of_lt_of_le ha hf)), fun _ => rfl⟩

theorem setPair (h : BelowPairs s t) (p : Nat) (x : AdcP) : BelowPairs s (t.setPair p x) :=
  h.trans ⟨fun _ _ => rfl, fun _ => rfl⟩

theorem each {α : Type} {l : List α} {f : State → α → State} (hf : ∀ s a, BelowPairs s (f s a)) (s : State) :
    BelowPairs s (s.each l f) := by
  induction l generalizing s with
  | nil => exact refl s
  | cons a l ih => exact (hf s a).trans (ih (f s a))

end State.BelowPairs

section requests
variable (s : State) (p : Nat)

theorem State.pairStat_belowPairs : BelowPairs s (s.pairStat p) := by
  unfold State.pairStat
  exact ((BelowPairs.refl s).set (by simp only; omega) _).set (by simp only; omega) _

theorem State.urgReq_belowPairs (en : Bool) (u : AdcUrg) : BelowPairs s (s.urgReq p en u) := by
  have hlost : BelowPairs s (s.bump (PAIR.CNT_URG_LOST p)) := (BelowPairs.refl s).set (by simp only; omega) _
  have hirq : ∀ t : State, BelowPairs t (t.irq (PAIR.page p) 2) := fun t =>
    ⟨fun a ha => by rw [State.reg_irq, if_neg (by simp only [PAIR.page]; omega)], fun _ => rfl⟩
  unfold State.urgReq
  dsimp only
  split
  · exact hlost
  split
  · exact hlost.trans (hirq _)
  · exact ((BelowPairs.refl s).setPair p _).trans (State.pairStat_belowPairs _ p)

theorem State.chopReq_belowPairs (dly : Nat) : BelowPairs s (s.chopReq p dly) := by
  unfold State.chopReq
  split
  · exact s.urgReq_belowPairs _ _ _
  · exact .refl s

theorem State.evtReq_belowPairs : BelowPairs s (s.evtReq p) := by
  unfold State.evtReq
  split
  · split
    · exact ((BelowPairs.refl s).setPair p _).trans (State.urgReq_belowPairs _ p _ _)
    · exact .refl s
  · exact .refl s

end requests

/-- The requests of leg `k` whose low line has turned on, noted at its instant. -/
def State.lowTold (s : State) (k : Nat) : State :=
  ((s.chopTurnOn k).modIsland k (fun x => { x with lowAt := some s.now })).evtTurnOn k

/-- An island whose low line last turned on at `t`. -/
def Isl.lowFrom (x : Isl) (t : Option Nat) : Isl := { x with lowAt := t }

/-- The requests leave the pages of the islands, and of the islands but the instant of leg `k`. -/
theorem State.lowTold_leaves (s : State) (k : Nat) : (∀ a, a < 0x40400000 → (s.lowTold k).reg a = s.reg a) ∧
    (∀ j, j ≠ k → (s.lowTold k).island j = s.island j) ∧ (s.lowTold k).island k = (s.island k).lowFrom (some s.now) := by
  have hchop : BelowPairs s (s.chopTurnOn k) := BelowPairs.each (fun t u => t.chopReq_belowPairs u _) s
  have hevt : ∀ t : State, BelowPairs t (t.evtTurnOn k) := fun t => BelowPairs.each State.evtReq_belowPairs t
  refine ⟨fun a ha => ((hevt _).reg a ha).trans (hchop.reg a ha), fun j hj => ?_, ?_⟩
  · rw [State.lowTold, (hevt _).island, State.modIsland, State.island_setIsland_of_ne _ _ hj, hchop.island]
  · rw [State.lowTold, (hevt _).island, State.island_modIsland_self, hchop.island]
    rfl

/-! ### A sample of the lines (R263, R264) -/

section sample
variable (s : State) (k h l : Nat)

/-- An island whose lines read `h` and `l` at `now`. -/
def Isl.sampled (x : Isl) (h l now : Nat) : Isl :=
  { x with lineH := h, lineL := l, offSince := if h == 1 || l == 1 then none else if x.offSince.isSome then x.offSince else some now }

/-- The lines as a sample reads them. -/
def State.linesRead : State := (s.set (LEG.STAT_CMDIN k) (cmdinOf h l)).setIsland k ((s.island k).sampled h l s.now)

theorem State.linesRead_get {g : Fld} (hg : (LEG.STAT_CMDIN k).apart g) : (s.linesRead k h l).get g = s.get g := by
  rw [State.linesRead, State.get_setIsland, State.get_set_apart _ _ _ _ hg]

theorem State.linesRead_island : (s.linesRead k h l).island k = (s.island k).sampled h l s.now := State.island_setIsland_self ..

theorem State.linesRead_others {j : Nat} (hj : j ≠ k) : (s.linesRead k h l).island j = s.island j :=
  State.island_setIsland_of_ne _ _ hj

theorem cmdinOf_lt : cmdinOf h l < 8 := by
  unfold cmdinOf
  split
  · decide
  split
  · decide
  split
  · decide
  split <;> decide

theorem State.linesRead_cmdin : (s.linesRead k h l).get (LEG.STAT_CMDIN k) = cmdinOf h l := by
  rw [State.linesRead, State.get_setIsland, State.get_set_self _ _ _ (by show 0 + 3 ≤ 32; decide)]
  exact Nat.mod_eq_of_lt (cmdinOf_lt h l)

theorem State.linesRead_legEn : (s.linesRead k h l).legEn k = s.legEn k := by
  rw [State.legEn, State.on, State.linesRead_get _ _ _ _ (by simp only [Fld.apart, LEG.page]; omega), State.legEn, State.on]

variable {s k h l}

/-- With their domain gated the islands stand (R401). -/
theorem State.islSample_gated (hg : s.gated 15 = true) : s.islSample k h l = s := by
  simp only [State.islSample, hg, if_true]

/-- An island that is not enabled only shows its lines. -/
theorem State.islSample_off (hg : s.gated 15 = false) (he : s.legEn k = false) :
    s.islSample k h l = (s.linesRead k h l).islStat k := by
  have he' : (s.linesRead k h l).legEn k = false := (s.linesRead_legEn k h l).trans he
  unfold State.islSample
  rw [if_neg (by rw [hg]; decide)]
  extract_lets x s1 off s2
  exact if_pos (congrArg (!·) he')

section enabled
variable (hg : s.gated 15 = false) (he : s.legEn k = true)
include hg he

/-- The sample of an enabled island, its lines read. -/
theorem State.islSample_on : s.islSample k h l =
    if h == 1 && l == 1 then ((((s.linesRead k h l).bothOff k).islFault k 4).irq (LEG.page k) 2).islStat k
    else
      let s1 := if h == 1 then s.linesRead k h l else (s.linesRead k h l).lineOff k true
      let s2 := if l == 1 then s1 else s1.lineOff k false
      let s3 := if h == 1 && (s.island k).lineH != 1 then s2.turnOn k true else s2
      (if l == 1 then s3.turnOn k false else s3).islStat k := by
  have he' : (s.linesRead k h l).legEn k = true := (s.linesRead_legEn k h l).trans he
  unfold State.islSample
  rw [if_neg (by rw [hg]; decide)]
  extract_lets x s1 off s2
  exact if_neg (by rw [show s2.legEn k = true from he']; decide)

/-- A high line that rises alone. -/
theorem State.islSample_high (hx : (s.island k).lineH ≠ 1) :
    s.islSample k 1 0 = ((((s.linesRead k 1 0).lineOff k false).turnOn k true).islStat k) := by
  rw [State.islSample_on hg he]
  simp [hx]

/-- A low line that reads ON alone. -/
theorem State.islSample_low :
    s.islSample k 0 1 = ((((s.linesRead k 0 1).lineOff k true).turnOn k false).islStat k) := by
  rw [State.islSample_on hg he]
  simp

/-- Both lines OFF. -/
theorem State.islSample_none :
    s.islSample k 0 0 = ((((s.linesRead k 0 0).lineOff k true).lineOff k false).islStat k) := by
  rw [State.islSample_on hg he]
  simp

/-- Both lines ON (R264). -/
theorem State.islSample_cross :
    s.islSample k 1 1 = ((((s.linesRead k 1 1).bothOff k).islFault k 4).irq (LEG.page k) 2).islStat k := by
  rw [State.islSample_on hg he]
  simp

end enabled

end sample

/-! ### The command -/

/-- A sample leaves what its lines say, and the requests of a low switch nothing of it but the instant they are noted. -/
theorem execIslandCmdChange_leaves (k : Fin 12) (h l : Fin 3) (s : State) : ∃ t, exec (.islandCmdChange k h l) s = .next t ∧
    (∀ a, a < 0x40400000 → t.reg a = (s.islSample k h l).reg a) ∧
    (∀ j, j ≠ k.val → t.island j = (s.islSample k h l).island j) ∧
    ∃ w, t.island k = ((s.islSample k h l).island k).lowFrom w := by
  have hexec : exec (.islandCmdChange k h l) s = .next ((s.islSample k h l).iff (l.val == 1 && (s.island k).lineL != 1)
      (fun s => s.lowTold k)) := rfl
  refine ⟨_, hexec, ?_⟩
  cases hb : (l.val == 1 && (s.island k).lineL != 1)
  · rw [State.iff_false rfl]
    exact ⟨fun _ _ => rfl, fun _ _ => rfl, _, rfl⟩
  · rw [State.iff_true rfl]
    obtain ⟨hreg, hoth, hisl⟩ := (s.islSample k h l).lowTold_leaves k
    exact ⟨hreg, hoth, _, hisl⟩

end Sys2Proof.Machine
end

section
/-! The statement about the command lines of an island, its interlock and its switch faults: each clause from the lemmas of the
operation it speaks of. -/

namespace Sys2Proof.Machine

/-! ### A line that rises (R261, R263, R268) -/

/-- An enabled island, supplied and without a fault, whose switches are off with nothing pending for them. -/
structure State.islReady (s : State) (k : Nat) : Prop where
  clocked : s.gated 15 = false
  enabled : s.legEn k = true
  testing : s.get (LEG.STAT_TESTING k) = 0
  flt : s.legFlt k = 0
  vpos : s.get (LEG.STAT_VPOS_OK k) = 1
  vneg : s.get (LEG.STAT_VNEG_OK k) = 1
  soft : ∀ h, (s.island k).soft h = none
  slot : ∀ h, (s.island k).slot h = none
  off : ∀ h, (s.island k).on h = false
  waits : ∀ h, (s.island k).wait h = none

/-- The lines read, and the switch `high` turned off by its own: what a turn-on of the other starts from. -/
def State.lineFell (s : State) (k h l : Nat) (high : Bool) : State :=
  (s.linesRead k h l).setIsland k (((s.island k).sampled h l s.now).setWait high none)

section rises
variable {s : State} {k : Nat} (r : s.islReady k) (h l : Nat) (high : Bool)
include r

theorem State.lineOff_linesRead : (s.linesRead k h l).lineOff k high = s.lineFell k h l high := by
  have hslot : ((s.island k).sampled h l s.now).slot high = none := r.slot high
  have hon : ((s.island k).sampled h l s.now).on high = false := r.off high
  unfold State.lineOff
  rw [State.linesRead_island]
  dsimp only
  rw [hslot, hon]
  rfl

omit r in
theorem State.lineFell_get {g : Fld} (hg : (LEG.STAT_CMDIN k).apart g) : (s.lineFell k h l high).get g = s.get g := by
  rw [State.lineFell, State.get_setIsland, State.linesRead_get _ _ _ _ hg]

omit r in
theorem State.lineFell_cmdin : (s.lineFell k h l high).get (LEG.STAT_CMDIN k) = cmdinOf h l := by
  rw [State.lineFell, State.get_setIsland, State.linesRead_cmdin]

omit r in
theorem State.lineFell_island : (s.lineFell k h l high).island k = ((s.island k).sampled h l s.now).setWait high none :=
  State.island_setIsland_self ..

theorem State.lineFell_off (b : Bool) : ((s.lineFell k h l high).island k).on b = false ∧
    ((s.lineFell k h l high).island k).wait b = none := by
  rw [State.lineFell_island, Isl.setWait_on, Isl.setWait_wait]
  refine ⟨r.off b, ?_⟩
  split
  · rfl
  · exact r.waits b

theorem State.lineFell_mayOn (b : Bool) : (s.lineFell k h l high).mayOn k b = true := by
  have hkept := ((s.island k).sampled h l s.now).setWait_kept high none
  have hget := fun g hg => s.lineFell_get (k := k) h l high (g := g) hg
  refine State.mayOn_of ?_ ?_ ?_ ?_ ?_ (fun b => ?_) (fun b => ?_)
  · exact (congrArg (· != 0) (hget (HDR.CTRL_EN (LEG.page k)) (by simp only [Fld.apart, LEG.page]; omega))).trans r.enabled
  · rw [hget _ (by simp only [Fld.apart]; omega), r.vpos]
  · rw [hget _ (by simp only [Fld.apart]; omega), r.vneg]
  · rw [hget _ (by simp only [Fld.apart]; omega), r.testing]
  · exact (hget (LEG.FLT_FAULTS k) (by simp only [Fld.apart]; omega)).trans r.flt
  · rw [State.lineFell_island, hkept.soft]; exact r.soft b
  · rw [State.lineFell_island, hkept.slot]; exact r.slot b

end rises

section clauses
variable {s : State} {k : Nat}

/-- A high line rises with its switch free to turn on: it turns on at once where the low gate is off. -/
theorem State.islSample_switchesHigh (r : s.islReady k) (hx : (s.island k).lineH ≠ 1) (hb : s.get (LEG.STAT_BST_OK k) = 1)
    (hgate : s.get (LEG.STAT_GL_ON k) = 0) : s.islSample k 1 0 = ((s.lineFell k 1 0 false).switchOn k true).islStat k := by
  have hbst : true = true → (s.lineFell k 1 0 false).get (LEG.STAT_BST_OK k) = 1 := fun _ =>
    (s.lineFell_get 1 0 false (by simp only [Fld.apart]; omega)).trans hb
  have hlow : (s.lineFell k 1 0 false).get (gateFld k !true) = 0 :=
    (s.lineFell_get 1 0 false (g := LEG.STAT_GL_ON k) (by simp only [Fld.apart]; omega)).trans hgate
  obtain ⟨hon, hw⟩ := State.lineFell_off r 1 0 false true
  rw [State.islSample_high r.clocked r.enabled hx, State.lineOff_linesRead r,
    State.turnOn_now (State.lineFell_mayOn r 1 0 false true) hon hw hbst hlow]

theorem State.lineFell_now (h l : Nat) (high : Bool) : (s.lineFell k h l high).now = s.now := rfl

/-- What it leaves (R261, R268, R270). -/
theorem State.islSample_highOn (r : s.islReady k) (hx : (s.island k).lineH ≠ 1)
    (hb : s.get (LEG.STAT_BST_OK k) = 1) (hgate : s.get (LEG.STAT_GL_ON k) = 0) : ((s.islSample k 1 0).island k).onH = true ∧
    ((s.islSample k 1 0).island k).onL = false ∧ (s.islSample k 1 0).get (LEG.STAT_GH_ON k) = 1 ∧
    (s.islSample k 1 0).get (LEG.STAT_CMDIN k) = 1 ∧
    ((s.islSample k 1 0).island k).blankH = some (s.now + s.get (LEG.PROT_BLANK k) * (tNs * 100)) := by
  rw [State.islSample_switchesHigh r hx hb hgate]
  have hstat := ((s.lineFell k 1 0 false).switchOn k true).islStat_frame k
  have hdrive := (s.lineFell k 1 0 false).switchOn_frame k true
  obtain ⟨honH, -, hblank⟩ := (s.lineFell k 1 0 false).switchOn_leaves k true true
  obtain ⟨honL, -⟩ := (s.lineFell k 1 0 false).switchOn_leaves k true false
  rw [State.lineFell_now, State.lineFell_get _ _ _ (by simp only [Fld.apart]; omega)] at hblank
  rw [State.islStat_island]
  refine ⟨honH, (honL.trans (if_neg (by decide))).trans (State.lineFell_off r 1 0 false false).1, ?_, ?_, hblank⟩
  · rw [hstat.get _ (by simp)]; exact State.get_switchOn_gate _ k true
  · rw [hstat.get _ (by simp), hdrive.get _ (by simp), State.lineFell_cmdin]; rfl

/-- Where the low gate is not yet verified off the high switch waits (R268). -/
theorem State.islSample_highWaits (r : s.islReady k) (hx : (s.island k).lineH ≠ 1)
    (hb : s.get (LEG.STAT_BST_OK k) = 1) (hgate : s.get (LEG.STAT_GL_ON k) = 1) :
    ((s.islSample k 1 0).island k).onH = false ∧ ((s.islSample k 1 0).island k).waitH = some s.now := by
  have hbst : true = true → (s.lineFell k 1 0 false).get (LEG.STAT_BST_OK k) = 1 := fun _ =>
    (s.lineFell_get 1 0 false (by simp only [Fld.apart]; omega)).trans hb
  have hlow : (s.lineFell k 1 0 false).get (gateFld k !true) = 1 :=
    (s.lineFell_get 1 0 false (g := LEG.STAT_GL_ON k) (by simp only [Fld.apart]; omega)).trans hgate
  obtain ⟨hon, hw⟩ := State.lineFell_off r 1 0 false true
  rw [State.islSample_high r.clocked r.enabled hx, State.lineOff_linesRead r,
    State.turnOn_waits (State.lineFell_mayOn r 1 0 false true) hon hw hbst hlow, State.islStat_island,
    State.island_setIsland_self]
  exact ⟨hon, rfl⟩

theorem State.lineFell_refReported (h l : Nat) (high : Bool) :
    ((s.lineFell k h l high).island k).refReported = (s.island k).refReported := by
  rw [State.lineFell_island]; cases high <;> rfl

/-- Without BST_OK the turn-on is refused and counted (R261). -/
theorem State.islSample_highRefused (r : s.islReady k) (hx : (s.island k).lineH ≠ 1) (hb : s.get (LEG.STAT_BST_OK k) = 0) :
    ((s.islSample k 1 0).island k).onH = false ∧ ((s.islSample k 1 0).island k).waitH = none ∧
    (s.islSample k 1 0).get (LEG.CNT_BST_REF k) = min 65535 (s.get (LEG.CNT_BST_REF k) + 1) ∧
    ((s.island k).refReported = false → (s.islSample k 1 0).raised (LEG.page k) 1) := by
  have hbst : (s.lineFell k 1 0 false).get (LEG.STAT_BST_OK k) = 0 :=
    (s.lineFell_get 1 0 false (by simp only [Fld.apart]; omega)).trans hb
  obtain ⟨hon, hw⟩ := State.lineFell_off r 1 0 false true
  rw [State.islSample_high r.clocked r.enabled hx, State.lineOff_linesRead r,
    State.turnOn_refused (State.lineFell_mayOn r 1 0 false true) hon hw hbst, State.islStat_island]
  have hstat := ((s.lineFell k 1 0 false).bstRefuse k).islStat_frame k
  obtain ⟨hcnt, hisl, hraw⟩ := (s.lineFell k 1 0 false).bstRefuse_leaves k
  rw [State.lineFell_get _ _ _ (by simp only [Fld.apart]; omega)] at hcnt
  rw [State.lineFell_refReported] at hraw
  obtain ⟨hon', hw'⟩ := hisl true
  refine ⟨hon'.trans hon, hw'.trans hw, ?_, fun h => hstat.raised _ 1 (by simp only [LEG.page]; omega) (hraw h)⟩
  rw [hstat.get _ (by simp)]
  exact hcnt

/-- A low line that rises alone turns its switch on where the high gate is off. -/
theorem State.islSample_lowOn (r : s.islReady k) (hgate : s.get (LEG.STAT_GH_ON k) = 0) :
    ((s.islSample k 0 1).island k).onL = true ∧ (s.islSample k 0 1).get (LEG.STAT_GL_ON k) = 1 ∧
    (s.islSample k 0 1).get (LEG.STAT_CMDIN k) = 2 := by
  have hhigh : (s.lineFell k 0 1 true).get (gateFld k !false) = 0 :=
    (s.lineFell_get 0 1 true (g := LEG.STAT_GH_ON k) (by simp only [Fld.apart]; omega)).trans hgate
  obtain ⟨hon, hw⟩ := State.lineFell_off r 0 1 true false
  rw [State.islSample_low r.clocked r.enabled, State.lineOff_linesRead r,
    State.turnOn_now (State.lineFell_mayOn r 0 1 true false) hon hw (fun h => absurd h (by decide)) hhigh, State.islStat_island]
  have hstat := ((s.lineFell k 0 1 true).switchOn k false).islStat_frame k
  have hdrive := (s.lineFell k 0 1 true).switchOn_frame k false
  obtain ⟨honL, -⟩ := (s.lineFell k 0 1 true).switchOn_leaves k false false
  refine ⟨honL, ?_, ?_⟩
  · rw [hstat.get _ (by simp)]; exact State.get_switchOn_gate _ k false
  · rw [hstat.get _ (by simp), hdrive.get _ (by simp), State.lineFell_cmdin]; rfl

/-! ### Lines that are OFF, both ON, or of an island that is not enabled (R263, R264) -/

theorem State.linesRead_slot (h l : Nat) (b : Bool) : ((s.linesRead k h l).island k).slot b = (s.island k).slot b := by
  rw [State.linesRead_island]; cases b <;> rfl

theorem State.linesRead_legFlt (h l : Nat) : (s.linesRead k h l).legFlt k = s.legFlt k :=
  s.linesRead_get k h l (by simp only [Fld.apart]; omega)

/-- Two lines that are OFF hold both switches off, and no fault is latched for it. -/
theorem State.islSample_bothFall (hg : s.gated 15 = false) (he : s.legEn k = true) (hslot : ∀ b, (s.island k).slot b = none) :
    ((s.islSample k 0 0).island k).onH = false ∧ ((s.islSample k 0 0).island k).onL = false ∧
    ((s.islSample k 0 0).island k).waitH = none ∧ ((s.islSample k 0 0).island k).waitL = none ∧
    (s.islSample k 0 0).get (LEG.STAT_CMDIN k) = 0 ∧ (s.islSample k 0 0).legFlt k = s.legFlt k := by
  rw [State.islSample_none hg he, State.islStat_island]
  have h1 := (s.linesRead k 0 0).lineOff_frame k true
  have h2 := ((s.linesRead k 0 0).lineOff k true).lineOff_frame k false
  have hstat := (((s.linesRead k 0 0).lineOff k true).lineOff k false).islStat_frame k
  have hs0 : ∀ b, ((s.linesRead k 0 0).island k).slot b = none := fun b => (State.linesRead_slot 0 0 b).trans (hslot b)
  have hoff1 := State.lineOff_leaves (hs0 true)
  have hoff2 := State.lineOff_leaves ((h1.kept.slot false).trans (hs0 false))
  have hall : ∀ b, ((((s.linesRead k 0 0).lineOff k true).lineOff k false).island k).on b = false ∧
      ((((s.linesRead k 0 0).lineOff k true).lineOff k false).island k).wait b = none := fun b => by
    rw [(hoff2 b).1, (hoff2 b).2, (hoff1 b).1, (hoff1 b).2]
    cases b <;> simp
  refine ⟨(hall true).1, (hall false).1, (hall true).2, (hall false).2, ?_, ?_⟩
  · rw [hstat.get _ (by simp), h2.get _ trivial, h1.get _ trivial, State.linesRead_cmdin]; rfl
  · rw [State.legFlt, hstat.get _ (by simp), h2.get _ trivial, h1.get _ trivial]
    exact State.linesRead_legFlt 0 0

/-- Fields of the other islands' pages are none that a fault of an island writes. -/
theorem faultKeeps_other {j : Nat} (hj : j < 12) (h : j ≠ k) :
    faultKeeps k (LEG.FLT_FAULTS j) := by
  simp only [faultKeeps, driveKeeps, outside, LEG.page, LEG.STAT, LEG.CNT, LEG.FLT, LEG.FLT_T, NVL.page]
  omega

/-- Two lines that are ON latch CROSS_CMD, hold both switches off, and touch no other island (R264). -/
theorem State.islSample_crossed (hk : k < 12) (hg : s.gated 15 = false) (he : s.legEn k = true) :
    ((s.islSample k 1 1).legFlt k).testBit 4 = true ∧ ((s.islSample k 1 1).island k).onH = false ∧
    ((s.islSample k 1 1).island k).onL = false ∧ (s.islSample k 1 1).raised (LEG.page k) 2 ∧
    (s.islSample k 1 1).get (LEG.STAT_CMDIN k) = 4 ∧
    ∀ j, j < 12 → j ≠ k → (s.islSample k 1 1).legFlt j = s.legFlt j ∧ (s.islSample k 1 1).island j = s.island j := by
  rw [State.islSample_cross hg he, State.islStat_island, State.island_irq]
  have hboth := (s.linesRead k 1 1).bothOff_frame k
  have hen : ((s.linesRead k 1 1).bothOff k).legEn k = true := (s.linesRead_legEn k 1 1).trans he
  have hlH : (((s.linesRead k 1 1).bothOff k).island k).lineH = 1 := by
    refine (hboth.kept.line true).trans ?_
    rw [State.linesRead_island]
    rfl
  have hbit := State.islFault_bit (bit := 4) hk (by decide) hen
  have honH := ((s.linesRead k 1 1).bothOff k).islFault_high (bit := 4) ((s.linesRead k 1 1).bothOff_on k true)
  have honL := ((s.linesRead k 1 1).bothOff k).islFault_low (bit := 4) ((s.linesRead k 1 1).bothOff_on k false) (.inr hlH)
  have hfault := ((s.linesRead k 1 1).bothOff k).islFault_frame k 4
  have hlast := ((IslFrame.refl k (fun g => statKeeps k g ∧ g.addr ≠ LEG.page k + 0x14)
    (((s.linesRead k 1 1).bothOff k).islFault k 4)).irq (fun _ hg => hg.2) 2).trans
    ((State.islStat_frame _ k).mono fun _ hg => hg.1)
  have hend : ∀ g, faultKeeps k g → statKeeps k g →
      (((((s.linesRead k 1 1).bothOff k).islFault k 4).irq (LEG.page k) 2).islStat k).get g = (s.linesRead k 1 1).get g :=
    fun g hg hst => (hlast.get g ⟨hst, hg.drive.1⟩).trans ((hfault.get g hg).trans (hboth.get g trivial))
  refine ⟨?_, honH, honL, ?_, ?_, fun j hj hne => ⟨?_, ?_⟩⟩
  · rwa [State.legFlt, hlast.get _ ⟨by simp, by simp only [LEG.page]; omega⟩]
  · exact (State.islStat_frame _ k).raised _ 2 (by simp only [LEG.page]; omega) (State.raised_irq _ _ 2 (by decide))
  · rw [hend _ (by simp [hk]) (by simp), State.linesRead_cmdin]; rfl
  · refine (hend _ (faultKeeps_other hj hne) (by simp only [statKeeps, LEG.STAT]; omega)).trans ?_
    exact s.linesRead_get k 1 1 (by simp only [Fld.apart]; omega)
  · rw [State.islStat_island, State.island_irq, hfault.others j hne, hboth.others j hne, s.linesRead_others k 1 1 hne]

/-- The lines of an island that is not enabled are shown, and nothing follows. -/
theorem State.islSample_idle (hg : s.gated 15 = false) (he : s.legEn k = false) (h l : Nat) :
    (s.islSample k h l).legFlt k = s.legFlt k ∧ (∀ b, ((s.islSample k h l).island k).on b = (s.island k).on b) ∧
    (s.islSample k h l).get (LEG.STAT_CMDIN k) = cmdinOf h l := by
  rw [State.islSample_off hg he, State.islStat_island]
  have hstat := (s.linesRead k h l).islStat_frame k
  refine ⟨?_, fun b => ?_, ?_⟩
  · rw [State.legFlt, hstat.get _ (by simp)]; exact State.linesRead_legFlt h l
  · rw [State.linesRead_island]; rfl
  · rw [hstat.get _ (by simp), State.linesRead_cmdin]

end clauses

end Sys2Proof.Machine
end

section
/-! What a verified gate, a wait, blanking and the detections of an island leave (R268–R273), and the statement about its lines,
its interlock and its switch faults. -/

namespace Sys2Proof.Machine

/-! ### The opposite gate verified off (R268) -/

section verified
variable {s : State} {k : Nat} {high : Bool} {t0 : Nat} (hk : k < 12)

theorem ilDly_apart (k : Nat) (h : Bool) : (LEG.CNT_IL_DLY k).apart (gateFld k h) := by
  refine .inl ?_
  rw [gateFld_addr]
  simp only [LEG.STAT]
  omega

theorem statKeeps_gate (k : Nat) (h : Bool) : statKeeps k (gateFld k h) := by
  cases h <;> exact statKeeps_stat (by decide)

include hk

/-- A waiting switch that may turn on does, and its delay is counted. -/
theorem State.verify_turnsOn (hon : (s.island k).on (!high) = false) (hw : (s.island k).wait high = some t0)
    (hm : s.mayOn k high = true) (hb : high = true → s.get (LEG.STAT_BST_OK k) = 1) :
    ((s.verify k high).island k).on high = true ∧ ((s.verify k high).island k).wait high = none ∧
    (s.verify k high).get (gateFld k !high) = 0 ∧ (s.verify k high).get (gateFld k high) = 1 ∧
    (s.verify k high).get (LEG.CNT_IL_DLY k) = min 65535 (s.get (LEG.CNT_IL_DLY k) + 1) := by
  rw [State.verify_on hk hon hw hm hb, State.islStat_island]
  have hdrive := ((s.gateOff k high).bump (LEG.CNT_IL_DLY k)).switchOn_frame k high
  have hstat := (((s.gateOff k high).bump (LEG.CNT_IL_DLY k)).switchOn k high).islStat_frame k
  obtain ⟨hon', hw', -⟩ := ((s.gateOff k high).bump (LEG.CNT_IL_DLY k)).switchOn_leaves k high high
  refine ⟨hon'.trans (if_pos rfl), hw'.trans (if_pos rfl), ?_, ?_, ?_⟩
  · rw [hstat.get _ (statKeeps_gate k _), State.get_switchOn_opposite, State.bump, State.get_set_apart _ _ _ _ (ilDly_apart k _),
      State.gateOff_gate]
  · rw [hstat.get _ (statKeeps_gate k _), State.get_switchOn_gate]
  · rw [hstat.get _ (by simp), hdrive.get _ (by simp), State.get_bump _ _ (by show 16 + 16 ≤ 32; decide),
      (s.gateOff_frame k high).get _ (by simp), Nat.min_comm]
    rfl

/-- A high switch without BST_OK waits no longer, and its turn-on is refused and counted (R261). -/
theorem State.verify_counts (hon : (s.island k).onL = false) (hw : (s.island k).waitH = some t0) (hm : s.mayOn k true = true)
    (hb : s.get (LEG.STAT_BST_OK k) = 0) : ((s.verify k true).island k).onH = (s.island k).onH ∧
    ((s.verify k true).island k).waitH = none ∧ (s.verify k true).get (LEG.STAT_GL_ON k) = 0 ∧
    (s.verify k true).get (LEG.CNT_BST_REF k) = min 65535 (s.get (LEG.CNT_BST_REF k) + 1) ∧
    ((s.island k).refReported = false → (s.verify k true).raised (LEG.page k) 1) := by
  rw [State.verify_refused hk hon hw hm hb]
  obtain ⟨hcnt, hisl, hraw⟩ := ((s.gateOff k true).setIsland k ((s.island k).setWait true none)).bstRefuse_leaves k
  rw [State.island_setIsland_self] at hisl hraw
  obtain ⟨hon', hw'⟩ := hisl true
  refine ⟨hon'.trans (Isl.setWait_on ..), hw'.trans (Isl.setWait_wait ..), ?_, hcnt.trans ?_, hraw⟩
  · have hgate : (LEG.CNT_BST_REF k).apart (LEG.STAT_GL_ON k) := by simp only [Fld.apart]; omega
    rw [(State.bstRefuse_frame _ k).get _ ⟨hgate, by simp only [LEG.page]; omega⟩, State.get_setIsland]
    exact s.gateOff_gate k true
  · rw [State.get_setIsland, State.gateOff, State.get_set_apart _ _ _ _ ?_]
    exact .inl (by rw [gateFld_addr]; simp only [LEG.STAT]; omega)

/-- A waiting switch that may not turn on waits no longer. -/
theorem State.verify_ends (hon : (s.island k).on (!high) = false) (hw : (s.island k).wait high = some t0)
    (hm : s.mayOn k high = false) : ((s.verify k high).island k).on high = (s.island k).on high ∧
    ((s.verify k high).island k).wait high = none ∧ (s.verify k high).get (gateFld k !high) = 0 := by
  rw [State.verify_barred hk hon hw hm, State.island_setIsland_self, Isl.setWait_on, Isl.setWait_wait, if_pos rfl,
    State.get_setIsland, State.gateOff_gate]
  exact ⟨rfl, rfl, rfl⟩

/-- A wait that has lasted IL_TMO latches its fault (R269). -/
theorem State.ilTmo_latches (he : s.legEn k = true) (hw : (s.island k).wait high = some t0) :
    ((s.ilTmo k high).legFlt k).testBit (if high then 5 else 6) = true ∧
    (s.ilTmo k high).now = max s.now (t0 + s.get (LEG.TIM_IL_TMO k) * (tNs * 100)) := by
  have hbit : (if high then 5 else 6) < 9 := by cases high <;> decide
  simp only [State.ilTmo, hw]
  generalize hu : s.advance (t0 + s.get (LEG.TIM_IL_TMO k) * (tNs * 100)) = u
  have hstat := (u.islFault k (if high then 5 else 6)).islStat_frame k
  have hen : u.legEn k = true := hu ▸ he
  have hnow : u.now = max s.now (t0 + s.get (LEG.TIM_IL_TMO k) * (tNs * 100)) := hu ▸ rfl
  refine ⟨?_, hstat.now.trans ((u.islFault_frame k _).now.trans hnow)⟩
  rw [State.legFlt, hstat.get _ (by simp)]
  exact State.islFault_bit hk hbit hen

omit hk in
theorem State.ilTmo_idle (hw : (s.island k).wait high = none) : s.ilTmo k high = s := by simp only [State.ilTmo, hw]

end verified

/-! ### Blanking, detections and the end of a soft turn-off (R270–R272) -/

section detections
variable {s : State} {k : Nat} {high : Bool} {t0 : Nat}

/-- Blanking has ended at `t0`. -/
def State.unblanked (s : State) (k : Nat) (high : Bool) (t0 : Nat) : State :=
  (s.advance t0).modIsland k (fun x => x.setBlank high none)

theorem State.unblanked_island (s : State) (k : Nat) (high : Bool) (t0 : Nat) :
    (s.unblanked k high t0).island k = (s.island k).setBlank high none := State.island_modIsland_self ..

theorem Isl.setBlank_leaves (x : Isl) (high : Bool) (w : Option Nat) : (x.setBlank high w).blank high = w ∧
    (x.setBlank high w).on high = x.on high ∧ (x.setBlank high w).soft high = x.soft high := by
  cases high <;> exact ⟨rfl, rfl, rfl⟩

theorem State.unblanked_leaves (s : State) (k : Nat) (high : Bool) (t0 : Nat) :
    ((s.unblanked k high t0).island k).blank high = none ∧ (s.unblanked k high t0).now = max s.now t0 ∧
    (s.unblanked k high t0).regs = s.regs := by
  rw [State.unblanked_island]
  exact ⟨((s.island k).setBlank_leaves high none).1, rfl, rfl⟩

theorem execBlankEnd_below (k : Fin 12) (h : (s.island k).blank high = some t0) :
    exec (.blankEnd k high false) s = .next (s.unblanked k high t0) := by
  show execBlankEnd k high false s = _
  simp only [execBlankEnd, h]
  rfl

theorem execBlankEnd_above (k : Fin 12) (h : (s.island k).blank high = some t0) (hon : (s.island k).on high = true) :
    exec (.blankEnd k high true) s = .next ((s.unblanked k high t0).switchFault k high (if high then 0 else 1)) := by
  have hon' : ((s.unblanked k high t0).island k).on high = true := by
    rw [State.unblanked_island, ((s.island k).setBlank_leaves high none).2.1, hon]
  show execBlankEnd k high true s = _
  simp only [execBlankEnd, h]
  exact next_congr (if_pos (by rw [Bool.true_and]; exact hon'))

theorem execGovDetect_on (k : Fin 12) (hon : (s.island k).on high = true) :
    exec (.govDetect k high) s = .next (s.switchFault k high (if high then 2 else 3)) := next_congr (if_pos hon)

theorem execDsatDetect_on (k : Fin 12) (hon : (s.island k).on high = true) (hb : (s.island k).blank high = none) :
    exec (.dsatDetect k high) s = .next (s.switchFault k high (if high then 0 else 1)) := by
  show execDsatDetect k high s = _
  simp only [execDsatDetect, hon, hb]
  exact next_congr (if_pos rfl)

/-- A switch that is off and was not turned off in this sample shows neither fault. -/
theorem execDetect_off (k : Fin 12) (hon : (s.island k).on high = false) (hc : (s.island k).cut high ≠ some s.now) :
    exec (.govDetect k high) s = .next s ∧ exec (.dsatDetect k high) s = .next s := by
  refine ⟨next_congr (if_neg (by rw [hon]; decide)), ?_⟩
  show execDsatDetect k high s = _
  simp only [execDsatDetect, hon]
  exact next_congr (if_neg (by simpa using hc))

/-- The soft turn-off over, neither switch of a faulted island outside an ASC latch turns on again. -/
theorem execSoftOffEnd_faulted (k : Fin 12) (hs : (s.island k).soft high = some t0) (hf : s.legFlt k ≠ 0) (hc : s.legCode k ≠ 3) :
    exec (.softOffEnd k high) s = .next (((s.advance t0).modIsland k (fun x => x.setSoft high none)).islStat k) := by
  have hm : ∀ b, ((s.advance t0).modIsland k (fun x => x.setSoft high none)).mayOn k b = false := fun _ =>
    State.mayOn_faulted hf hc
  have hbar : ∀ b, ((s.advance t0).modIsland k (fun x => x.setSoft high none)).resume k b =
      (s.advance t0).modIsland k (fun x => x.setSoft high none) := fun b => by
    rw [State.resume, State.turnOn_barred (hm b), ite_self]
  show execSoftOffEnd k high s = _
  simp only [execSoftOffEnd, hs, hbar]

theorem Isl.setSoft_leaves (x : Isl) (high : Bool) (w : Option Nat) : (x.setSoft high w).soft high = w ∧
    (x.setSoft high w).on high = x.on high := by
  cases high <;> exact ⟨rfl, rfl⟩

end detections

/-! ### The statement -/

/-- A ready island, from the conditions the statement names one by one. -/
theorem State.islReady_of {s : State} {k : Nat} (hg : s.gated 15 = false) (he : s.legEn k = true)
    (ht : s.get (LEG.STAT_TESTING k) = 0) (hf : s.legFlt k = 0) (hsH : (s.island k).softH = none) (hlH : (s.island k).slotH = none)
    (hlL : (s.island k).slotL = none) (hoH : (s.island k).onH = false) (hoL : (s.island k).onL = false)
    (hwH : (s.island k).waitH = none) (hwL : (s.island k).waitL = none) (hsL : (s.island k).softL = none)
    (hp : s.get (LEG.STAT_VPOS_OK k) = 1) (hn : s.get (LEG.STAT_VNEG_OK k) = 1) : s.islReady k where
  clocked := hg
  enabled := he
  testing := ht
  flt := hf
  vpos := hp
  vneg := hn
  soft b := by cases b; exacts [hsL, hsH]
  slot b := by cases b; exacts [hlL, hlH]
  off b := by cases b; exacts [hoL, hoH]
  waits b := by cases b; exacts [hwL, hwH]

/-- A sample of the lines with what its turn-on requests: the registers of the pages of the islands are the sample's, and of
the islands only the instant of the request is not. -/
theorem execIslandCmdChange_shows (k : Fin 12) (h l : Fin 3) (s : State) : ∃ t, exec (.islandCmdChange k h l) s = .next t ∧
    (∀ g : Fld, g.addr < 0x40400000 → t.get g = (s.islSample k h l).get g) ∧
    ((s.islSample k h l).raised (LEG.page k) 1 → t.raised (LEG.page k) 1) ∧
    ((s.islSample k h l).raised (LEG.page k) 2 → t.raised (LEG.page k) 2) ∧
    (∀ j, j ≠ k.val → t.island j = (s.islSample k h l).island j) ∧
    (∀ b, (t.island k).on b = ((s.islSample k h l).island k).on b ∧ (t.island k).wait b = ((s.islSample k h l).island k).wait b ∧
      (t.island k).blank b = ((s.islSample k h l).island k).blank b) := by
  obtain ⟨t, ht, hreg, hoth, w, hisl⟩ := execIslandCmdChange_leaves k h l s
  have hget : ∀ g : Fld, g.addr < 0x40400000 → t.get g = (s.islSample k h l).get g := fun g hg => State.get_congr g (hreg _ hg)
  have hraw : ∀ b, (s.islSample k h l).raised (LEG.page k) b → t.raised (LEG.page k) b := fun b hr => by
    rwa [State.raised, hreg _ (by simp only [HDR.IRQ_RAW, LEG.page]; omega)]
  refine ⟨t, ht, hget, hraw 1, hraw 2, hoth, fun b => ?_⟩
  rw [hisl]
  cases b <;> exact ⟨rfl, rfl, rfl⟩

/-- Settles O39: the lines from the samples of them, the interlock from the gate that is verified off, the switch faults from
the fault every detection comes to. -/
theorem islandLinesAndFaults : Obligations.IslandLinesAndFaults := by
  unfold Obligations.IslandLinesAndFaults
  refine ⟨⟨?_, ?_, ?_, ?_, ?_⟩, ?_, ?_, ?_, ?_, ?_, ?_, ?_, ?_, ?_, ?_, ?_⟩
  · intro k s hg he ht hf hxH hxL hsH hlH hlL hoH hoL hwH hwL hsL hp hn
    have r := State.islReady_of hg he ht hf hsH hlH hlL hoH hoL hwH hwL hsL hp hn
    have hx : (s.island k).lineH ≠ 1 := by rw [hxH]; decide
    have hadr : (LEG.STAT k) < 0x40400000 ∧ (LEG.CNT k) < 0x40400000 := by simp only [LEG.STAT, LEG.CNT]; omega
    refine ⟨fun hb hgl => ?_, fun hb hgl => ?_, fun hb => ?_, fun hgh => ?_⟩
    · obtain ⟨t, ht, hget, -, -, -, hsw⟩ := execIslandCmdChange_shows k 1 0 s
      obtain ⟨honH, honL, hgate, hcmd, hblank⟩ := State.islSample_highOn r hx hb hgl
      exact ⟨t, ht, (hsw true).1.trans honH, (hsw false).1.trans honL, (hget _ hadr.1).trans hgate, (hget _ hadr.1).trans hcmd,
        (hsw true).2.2.trans hblank⟩
    · obtain ⟨t, ht, -, -, -, -, hsw⟩ := execIslandCmdChange_shows k 1 0 s
      obtain ⟨hon, hw⟩ := State.islSample_highWaits r hx hb hgl
      exact ⟨t, ht, (hsw true).1.trans hon, (hsw true).2.1.trans hw⟩
    · obtain ⟨t, ht, hget, hraw, -, -, hsw⟩ := execIslandCmdChange_shows k 1 0 s
      obtain ⟨hon, hw, hcnt, hrep⟩ := State.islSample_highRefused r hx hb
      exact ⟨t, ht, (hsw true).1.trans hon, (hsw true).2.1.trans hw, (hget _ hadr.2).trans hcnt, fun h => hraw (hrep h)⟩
    · obtain ⟨t, ht, hget, -, -, -, hsw⟩ := execIslandCmdChange_shows k 0 1 s
      obtain ⟨hon, hgate, hcmd⟩ := State.islSample_lowOn r hgh
      exact ⟨t, ht, (hsw false).1.trans hon, (hget _ hadr.1).trans hgate, (hget _ hadr.1).trans hcmd⟩
  · intro k s hg he hlH hlL
    obtain ⟨t, ht, hget, -, -, -, hsw⟩ := execIslandCmdChange_shows k 0 0 s
    obtain ⟨honH, honL, hwH, hwL, hcmd, hflt⟩ := State.islSample_bothFall hg he (Bool.forall_bool.2 ⟨hlL, hlH⟩)
    exact ⟨t, ht, (hsw true).1.trans honH, (hsw false).1.trans honL, (hsw true).2.1.trans hwH, (hsw false).2.1.trans hwL,
      (hget _ (by simp only; omega)).trans hcmd, (hget _ (by simp only; omega)).trans hflt⟩
  · intro k s hg he
    obtain ⟨t, ht, hget, -, hraw, hoth, hsw⟩ := execIslandCmdChange_shows k 1 1 s
    obtain ⟨hbit, honH, honL, hrep, hcmd, hothers⟩ := State.islSample_crossed k.isLt hg he
    have hflt : ∀ j : Fin 12, t.legFlt j = (s.islSample k 1 1).legFlt j := fun j => hget _ (by simp only; omega)
    refine ⟨t, ht, by rw [hflt]; exact hbit, (hsw true).1.trans honH, (hsw false).1.trans honL, hraw hrep,
      (hget _ (by simp only; omega)).trans hcmd, fun j hj => ?_⟩
    have hne : j.val ≠ k.val := fun e => hj (Fin.ext e)
    obtain ⟨hf, hi⟩ := hothers j j.isLt hne
    exact ⟨(hflt j).trans hf, (hoth j hne).trans hi⟩
  · intro k h l s hg hl
    have hlow : (l.val == 1 && (s.island k).lineL != 1) = false := by simp [hl]
    exact next_congr ((congrArg (State.iff · _ _) (State.islSample_gated hg)).trans (State.iff_false hlow))
  · intro k h l s hg he
    obtain ⟨t, ht, hget, -, -, -, hsw⟩ := execIslandCmdChange_shows k h l s
    obtain ⟨hflt, hon, hcmd⟩ := State.islSample_idle hg he h l
    exact ⟨t, ht, (hget _ (by simp only; omega)).trans hflt, (hsw true).1.trans (hon true), (hsw false).1.trans (hon false),
      (hget _ (by simp only; omega)).trans hcmd⟩
  · exact fun k high t0 s hon hw hm hb => ⟨_, rfl, State.verify_turnsOn k.isLt hon hw hm hb⟩
  · exact fun k t0 s hon hw hm hb => ⟨_, rfl, State.verify_counts k.isLt hon hw hm hb⟩
  · exact fun k high t0 s hon hw hm => ⟨_, rfl, State.verify_ends k.isLt hon hw hm⟩
  · exact fun k high s hon => next_congr (State.verify_driven hon)
  · exact fun k high t0 s he hw => ⟨_, rfl, State.ilTmo_latches k.isLt he hw⟩
  · exact fun k high s hw => next_congr (State.ilTmo_idle hw)
  · exact fun k high t0 s hb => ⟨_, execBlankEnd_below k hb, s.unblanked_leaves k high t0⟩
  · intro k high t0 s he hb hon hs hc hf
    have hs' : ((s.unblanked k high t0).island k).soft high = none := by
      rw [State.unblanked_island, ((s.island k).setBlank_leaves high none).2.2, hs]
    obtain ⟨hbit, honH, honL, hnow, hsoft, hfd, hst, hraw, -⟩ := State.switchFault_leaves (s := s.unblanked k high t0)
      (bit := if high then 0 else 1) k.isLt (by cases high <;> decide) he hs' hc hf
    exact ⟨_, execBlankEnd_above k hb hon, hbit, honH, honL, hsoft.trans (by rw [hnow]), hfd, hst, hraw⟩
  · intro k high s he hon hs hc hf
    refine ⟨?_, fun hb => ?_⟩
    · obtain ⟨hbit, honH, honL, -, hsoft, -, -, -, hfirst⟩ := State.switchFault_leaves (bit := if high then 2 else 3) k.isLt
        (by cases high <;> decide) he hs hc hf
      refine ⟨_, execGovDetect_on k hon, hbit, honH, honL, hsoft, fun h0 => ?_⟩
      cases high <;> exact hfirst h0
    · obtain ⟨hbit, honH, honL, -, hsoft, -⟩ := State.switchFault_leaves (bit := if high then 0 else 1) k.isLt
        (by cases high <;> decide) he hs hc hf
      exact ⟨_, execDsatDetect_on k hon hb, hbit, honH, honL, hsoft⟩
  · exact fun k high s hon hc => execDetect_off k hon hc
  · intro k high t0 s hs hf hc
    refine ⟨_, execSoftOffEnd_faulted k hs hf hc, ?_⟩
    rw [State.islStat_island, State.island_modIsland_self]
    obtain ⟨hsoft, hon⟩ := (s.island k).setSoft_leaves high none
    exact ⟨hsoft, rfl, hon, ((State.islStat_frame _ k).get _ (by simp)).trans rfl⟩

end Sys2Proof.Machine
end

section
/-! The supplies of a leg island and the bootstrap of its high switch (R259, R260, R262). -/

namespace Sys2Proof.Machine

section supplies
variable (s : State) (k : Nat)

/-! ### Supplies in range and out of it (R259) -/

/-- The island once both supplies have been seen in range. -/
def Isl.seenGood (x : Isl) : Isl := { x with everGood := true }

/-- Both supplies are in range. -/
def State.supBack : State :=
  ((s.set (LEG.STAT_VPOS_OK k) 1).set (LEG.STAT_VNEG_OK k) 1).modIsland k Isl.seenGood

theorem State.supGood_eq (hg : s.gated 15 = false) :
    s.supGood k = (((s.supBack k).resume k true).resume k false).islStat k := by
  unfold State.supGood
  exact if_neg (by rw [hg]; decide)

theorem State.supBack_leaves : (s.supBack k).get (LEG.STAT_VPOS_OK k) = 1 ∧ (s.supBack k).get (LEG.STAT_VNEG_OK k) = 1 ∧
    ((s.supBack k).island k).everGood = true ∧ (s.supBack k).legFlt k = s.legFlt k := by
  refine ⟨?_, ?_, ?_, ?_⟩
  · rw [State.supBack, State.get_modIsland, State.get_set_apart _ _ _ _ (by simp only [Fld.apart]; omega)]
    exact State.get_set_self _ _ _ (by show 6 + 1 ≤ 32; decide)
  · rw [State.supBack, State.get_modIsland]
    exact State.get_set_self _ _ _ (by show 7 + 1 ≤ 32; decide)
  · rw [State.supBack, State.island_modIsland_self]; rfl
  · rw [State.supBack, State.legFlt, State.get_modIsland]
    simp (disch := (simp only [Fld.apart]; omega)) only [State.get_set_apart]
    rfl

/-- What the return of the supplies leaves. -/
theorem State.supGood_leaves (hg : s.gated 15 = false) : (s.supGood k).get (LEG.STAT_VPOS_OK k) = 1 ∧
    (s.supGood k).get (LEG.STAT_VNEG_OK k) = 1 ∧ ((s.supGood k).island k).everGood = true ∧
    (s.supGood k).legFlt k = s.legFlt k := by
  have hres := ((s.supBack k).resume_frame k true).trans (((s.supBack k).resume k true).resume_frame k false)
  have hstat := State.islStat_frame (((s.supBack k).resume k true).resume k false) k
  have hend : ∀ g, driveKeeps k g → statKeeps k g → (s.supGood k).get g = (s.supBack k).get g := fun g hg' hs => by
    rw [State.supGood_eq s k hg, hstat.get g hs, hres.get g hg']
  obtain ⟨hpos, hneg, hever, hflt⟩ := s.supBack_leaves k
  refine ⟨(hend _ (by simp) (by simp)).trans hpos, (hend _ (by simp) (by simp)).trans hneg, ?_,
    (hend _ (by simp) (by simp)).trans hflt⟩
  rw [State.supGood_eq s k hg, State.islStat_island]
  exact hres.kept.everGood.trans hever

/-- The positive supply out of range, and the negative one where it is too. -/
def State.supGone (neg : Bool) : State :=
  (s.set (LEG.STAT_VPOS_OK k) 0).iff neg (fun s => s.set (LEG.STAT_VNEG_OK k) 0)

/-- An island with neither a soft turn-off nor a slot. -/
def Isl.sunk (x : Isl) : Isl := { x with softH := none, softL := none, slotH := none, slotL := none }

/-- Both gates sunk at once. -/
def State.supSunk : State := (s.bothOff k).modIsland k Isl.sunk

/-- Both gates sunk, and the event of an enabled island. -/
def State.supTold : State := (s.supSunk k).iff ((s.supSunk k).legEn k) (fun s => s.irq (LEG.page k) 5)

section out
variable {s k} {neg : Bool}

theorem State.supGone_get {g : Fld} (hp : (LEG.STAT_VPOS_OK k).apart g) (hn : (LEG.STAT_VNEG_OK k).apart g) :
    (s.supGone k neg).get g = s.get g := by
  rw [State.supGone, State.get_iff (fun t => State.get_set_apart _ _ _ _ hn), State.get_set_apart _ _ _ _ hp]

theorem State.supGone_pos : (s.supGone k neg).get (LEG.STAT_VPOS_OK k) = 0 := by
  rw [State.supGone, State.get_iff (fun t => State.get_set_apart _ _ _ _ (by simp only [Fld.apart]; omega))]
  exact State.get_set_self _ _ _ (by show 6 + 1 ≤ 32; decide)

theorem State.supGone_neg (h : neg = true) : (s.supGone k neg).get (LEG.STAT_VNEG_OK k) = 0 := by
  rw [State.supGone, State.iff_true h]
  exact State.get_set_self _ _ _ (by show 7 + 1 ≤ 32; decide)

theorem State.supGone_legEn : (s.supGone k neg).legEn k = s.legEn k := by
  rw [State.legEn, State.on, State.supGone_get (by simp only [Fld.apart, LEG.page]; omega) (by simp only [Fld.apart, LEG.page]; omega),
    State.legEn, State.on]

theorem State.supGone_island : (s.supGone k neg).island k = s.island k := by cases neg <;> rfl

variable (hg : s.gated 15 = false) (ht : s.get (LEG.STAT_TESTING k) = 0)
include hg ht

theorem State.supUv_eq : s.supUv k true neg =
    if !((s.supGone k neg).island k).everGood then (s.supGone k neg).islStat k
    else (((s.supGone k neg).supTold k).islFault k 7).islStat k := by
  have hrun : (!true && !neg || s.gated 15) = false := by rw [hg]; rfl
  have hidle : (s.supGone k neg).testAbort k = s.supGone k neg := if_neg (by
    rw [State.on_of_get_zero ((State.supGone_get (by simp only [Fld.apart]; omega) (by simp only [Fld.apart]; omega)).trans ht)]
    decide)
  unfold State.supUv
  rw [hrun, if_neg (by decide)]
  show (if !(((s.supGone k neg).testAbort k).island k).everGood then ((s.supGone k neg).testAbort k).islStat k
    else ((((s.supGone k neg).testAbort k).supTold k).islFault k 7).islStat k) = _
  rw [hidle]

/-- Supplies not good since reset: the OK bits clear, and that is all. -/
theorem State.supUv_reset (h : (s.island k).everGood = false) : s.supUv k true neg = (s.supGone k neg).islStat k := by
  rw [State.supUv_eq hg ht, if_pos (by rw [State.supGone_island, h]; rfl)]

/-- Supplies good since reset: the gates are sunk and SUP_UV latches. -/
theorem State.supUv_fault (h : (s.island k).everGood = true) :
    s.supUv k true neg = (((s.supGone k neg).supTold k).islFault k 7).islStat k := by
  rw [State.supUv_eq hg ht, if_neg (by rw [State.supGone_island, h]; decide)]

end out

/-- The event of a supply that fails is the only register the sinking of the gates writes. -/
theorem State.supTold_get {g : Fld} (h : g.addr ≠ LEG.page k + 0x14) : (s.supTold k).get g = s.get g := by
  rw [State.supTold, State.get_iff fun t => t.get_irq_of_ne _ _ _ h, State.supSunk, State.get_modIsland, State.get_bothOff]

theorem State.supTold_legEn : (s.supTold k).legEn k = s.legEn k := by
  rw [State.legEn, State.on, State.supTold_get _ _ (by simp only [LEG.page]; omega), State.legEn, State.on]

theorem State.supTold_raised (h : s.legEn k = true) : (s.supTold k).raised (LEG.page k) 5 := by
  have hen : (s.supSunk k).legEn k = true := by
    rw [State.supSunk, State.legEn, State.on, State.get_modIsland, State.get_bothOff]
    exact h
  rw [State.supTold, State.iff_true hen]
  exact State.raised_irq _ _ 5 (by decide)

variable {s k} in
/-- What a supply that leaves its range leaves (R259). -/
theorem State.supUv_leaves (hk : k < 12) (neg : Bool) (hg : s.gated 15 = false) (ht : s.get (LEG.STAT_TESTING k) = 0) :
    (s.supUv k true neg).get (LEG.STAT_VPOS_OK k) = 0 ∧ (neg = true → (s.supUv k true neg).get (LEG.STAT_VNEG_OK k) = 0) ∧
    ((s.island k).everGood = false → (s.supUv k true neg).legFlt k = s.legFlt k) ∧
    ((s.island k).everGood = true → s.legEn k = true → ((s.supUv k true neg).legFlt k).testBit 7 = true ∧
      (s.supUv k true neg).raised (LEG.page k) 5) := by
  cases hv : (s.island k).everGood
  · have hstat := (s.supGone k neg).islStat_frame k
    rw [State.supUv_reset hg ht hv]
    refine ⟨(hstat.get _ (by simp)).trans State.supGone_pos, fun h => (hstat.get _ (by simp)).trans (State.supGone_neg h),
      fun _ => (hstat.get _ (by simp)).trans ?_, fun h => absurd h (by decide)⟩
    exact State.supGone_get (by simp only [Fld.apart]; omega) (by simp only [Fld.apart]; omega)
  · have hfault := ((s.supGone k neg).supTold k).islFault_frame k 7
    have hstat := (((s.supGone k neg).supTold k).islFault k 7).islStat_frame k
    have hend : ∀ g, faultKeeps k g → statKeeps k g → (s.supUv k true neg).get g = (s.supGone k neg).get g := fun g hf hs => by
      rw [State.supUv_fault hg ht hv, hstat.get g hs, hfault.get g hf, State.supTold_get _ _ hf.drive.1]
    refine ⟨(hend _ (by simp [hk]) (by simp)).trans State.supGone_pos,
      fun h => (hend _ (by simp [hk]) (by simp)).trans (State.supGone_neg h), fun h => absurd h (by decide), fun _ he => ?_⟩
    have hen : (s.supGone k neg).legEn k = true := State.supGone_legEn.trans he
    rw [State.supUv_fault hg ht hv]
    refine ⟨?_, hstat.raised _ 5 (by simp only [LEG.page]; omega) (hfault.raised _ 5 (by simp only [LEG.page]; omega)
      (State.supTold_raised _ k hen))⟩
    rw [State.legFlt, hstat.get _ (by simp)]
    exact State.islFault_bit hk (by decide) ((State.supTold_legEn _ k).trans hen)

/-! ### The bootstrap (R260, R262) -/

variable {s k}

/-- A low switch on since `t0` has charged the bootstrap once T_BCHG has passed. -/
theorem State.bstCharged_from {t0 : Nat} (hc : (s.island k).charged = false) (hl : (s.island k).lowOn = some t0) :
    s.bstCharged k = (s.advance (t0 + s.get (LEG.TIM_T_BCHG k) * tUs)).set (LEG.STAT_BST_OK k) 1 := by
  simp only [State.bstCharged, hc, hl, Bool.false_eq_true, if_false]

theorem State.bstCharged_never (hc : (s.island k).charged = false) (hl : (s.island k).lowOn = none) : s.bstCharged k = s := by
  simp only [State.bstCharged, hc, hl, Bool.false_eq_true, if_false]

/-- The island whose bootstrap is discharged. -/
def Isl.discharged (x : Isl) : Isl := { x with charged := false, lowOn := none, refReported := false }

/-- BST_OK clears. -/
def State.bstGone (s : State) (k : Nat) : State := (s.set (LEG.STAT_BST_OK k) 0).modIsland k Isl.discharged

theorem State.bstGone_onH : ((s.bstGone k).island k).onH = (s.island k).onH := by
  rw [State.bstGone, State.island_modIsland_self]; rfl

theorem State.bstGone_get {g : Fld} (h : (LEG.STAT_BST_OK k).apart g) : (s.bstGone k).get g = s.get g := by
  rw [State.bstGone, State.get_modIsland, State.get_set_apart _ _ _ _ h]

theorem State.bstGone_bst : (s.bstGone k).get (LEG.STAT_BST_OK k) = 0 := by
  rw [State.bstGone, State.get_modIsland]
  exact State.get_set_self s _ _ (by show 5 + 1 ≤ 32; decide)

theorem State.bstLost_eq : s.bstLost k =
    if ((s.bstGone k).island k).onH then (((s.bstGone k).switchOff k true).islFault k 8).islStat k else s.bstGone k := rfl

theorem State.bstLost_off (h : (s.island k).onH = false) : s.bstLost k = s.bstGone k := by
  rw [State.bstLost_eq, State.bstGone_onH, h, if_neg (by decide)]

theorem State.bstLost_on (h : (s.island k).onH = true) :
    s.bstLost k = (((s.bstGone k).switchOff k true).islFault k 8).islStat k := by
  rw [State.bstLost_eq, State.bstGone_onH, h, if_pos rfl]

/-- What the loss of the bootstrap leaves (R262). -/
theorem State.bstLost_leaves (hk : k < 12) : (s.bstLost k).get (LEG.STAT_BST_OK k) = 0 ∧
    ((s.island k).onH = true → s.legEn k = true → ((s.bstLost k).legFlt k).testBit 8 = true ∧
      ((s.bstLost k).island k).onH = false) ∧
    ((s.island k).onH = false → (s.bstLost k).legFlt k = s.legFlt k) := by
  cases hon : (s.island k).onH
  · rw [State.bstLost_off hon]
    exact ⟨State.bstGone_bst, fun h => absurd h (by decide), fun _ => State.bstGone_get (by simp only [Fld.apart]; omega)⟩
  · have hfault := ((s.bstGone k).switchOff k true).islFault_frame k 8
    have hstat := (((s.bstGone k).switchOff k true).islFault k 8).islStat_frame k
    have hoff : (((s.bstGone k).switchOff k true).island k).onH = false := by
      rw [State.switchOff_eq, State.island_setIsland_self]
      exact Isl.turnedOff_on _ true true _ _
    rw [State.bstLost_on hon]
    refine ⟨?_, fun _ he => ?_, fun h => absurd h (by decide)⟩
    · rw [hstat.get _ (by simp), hfault.get _ (by simp [hk]), State.get_switchOff, State.bstGone_bst]
    · have hen : ((s.bstGone k).switchOff k true).legEn k = true := by
        rw [State.legEn, State.on, State.get_switchOff, State.bstGone_get (by simp only [Fld.apart, LEG.page]; omega)]
        exact he
      rw [State.islStat_island]
      refine ⟨?_, State.islFault_high _ hoff⟩
      rw [State.legFlt, hstat.get _ (by simp)]
      exact State.islFault_bit hk (by decide) hen

end supplies

end Sys2Proof.Machine
end

section
/-! One measured transition of the adaptive drive of a leg island (R267). -/

namespace Sys2Proof.Machine

section adaptive
variable (s : State) (k kind time : Nat)

/-- The measured time and the code of a loop. -/
def adpTime (k kind : Nat) : Fld := ⟨LEG.TMEAS k, 8 * kind, 8⟩
def adpFld (k kind : Nat) : Fld := ⟨LEG.ADP_STAT k, 4 * kind, 4⟩

/-- The target of a loop in ns, and its tolerance. -/
def State.adpTgt : Nat := 10 * s.get (if kind % 2 = 0 then LEG.ADP_TGT_ON k else LEG.ADP_TGT_OFF k)
def State.adpTol : Nat := 10 * s.get (LEG.ADP_TOL k)

/-- The code of a loop after a transition of `time` ns. -/
def State.adpCode : Nat :=
  if s.on (LEG.CFG_ADP_FRZ k) then s.get (adpFld k kind)
  else if s.adpTgt k kind + s.adpTol k < time then
    max (s.get (LEG.DRV_ADP_MIN k)) (min (s.get (LEG.DRV_ADP_MAX k)) (s.get (adpFld k kind) + 1))
  else if time + s.adpTol k < s.adpTgt k kind then
    max (s.get (LEG.DRV_ADP_MIN k)) (min (s.get (LEG.DRV_ADP_MAX k)) (s.get (adpFld k kind) - 1))
  else s.get (adpFld k kind)

/-- A code and its limits are numbers of four bits. -/
theorem State.adpCode_lt : s.adpCode k kind time < 16 := by
  have hc : s.get (adpFld k kind) < 2 ^ 4 := s.get_lt _
  have hlo : s.get (LEG.DRV_ADP_MIN k) < 2 ^ 4 := s.get_lt _
  have hhi : s.get (LEG.DRV_ADP_MAX k) < 2 ^ 4 := s.get_lt _
  unfold State.adpCode
  split
  · omega
  split
  · omega
  split <;> omega

/-- The measurement of a loop is no value its code depends on. -/
theorem State.adpCode_set (v : Nat) : (s.set (adpTime k kind) v).adpCode k kind time = s.adpCode k kind time := by
  have hreg : ∀ {a lo w : Nat}, a ≠ LEG.TMEAS k → (s.set (adpTime k kind) v).get ⟨a, lo, w⟩ = s.get ⟨a, lo, w⟩ := fun h =>
    State.get_set_apart _ _ _ _ (.inl (Ne.symm h))
  have htgt : (s.set (adpTime k kind) v).adpTgt k kind = s.adpTgt k kind := by
    unfold State.adpTgt
    split <;> rw [hreg (by simp only [LEG.TMEAS]; omega)]
  have htol : (s.set (adpTime k kind) v).adpTol k = s.adpTol k := congrArg (10 * ·) (hreg (by simp only [LEG.TMEAS]; omega))
  have hfrz : (s.set (adpTime k kind) v).on (LEG.CFG_ADP_FRZ k) = s.on (LEG.CFG_ADP_FRZ k) :=
    congrArg (· != 0) (hreg (by simp only [LEG.TMEAS]; omega))
  have hcode : (s.set (adpTime k kind) v).get (adpFld k kind) = s.get (adpFld k kind) :=
    hreg (by simp only [LEG.ADP_STAT, LEG.TMEAS]; omega)
  simp only [State.adpCode, htgt, htol, hfrz, hcode, hreg (show 0x40300044 + 0x1000 * k ≠ LEG.TMEAS k by simp only [LEG.TMEAS]; omega)]

/-- The event and flag of loops at a limit. -/
def State.adpShown (lim : Bool) : State :=
  (s.iff (lim && !s.on (LEG.STAT_ADP_LIM k)) (fun s => s.irq (LEG.page k) 6)).setB (LEG.STAT_ADP_LIM k) lim

theorem State.get_adpShown (lim : Bool) {g : Fld} (hr : g.addr ≠ LEG.page k + 0x14) (hs : g.addr ≠ LEG.STAT k) :
    (s.adpShown k lim).get g = s.get g := by
  rw [State.adpShown, State.get_setB_apart _ _ _ _ (.inl (Ne.symm hs)), State.get_iff fun t => t.get_irq_of_ne _ _ _ hr]

variable {s k kind}

/-- The transitions that count: a turn-on of a switch still on, a turn-off of one still off that was no soft turn-off. -/
theorem State.adaptStep_eq (hd : s.get (LEG.CFG_DRV k) = 2) (he : s.legEn k = true) (ht : s.get (LEG.STAT_TESTING k) = 0)
    (hon : kind % 2 = 0 → (s.island k).on (decide (kind < 2)) = true)
    (hoff : kind % 2 = 1 → (s.island k).on (decide (kind < 2)) = false ∧ (s.island k).soften (decide (kind < 2)) = false) :
    ∃ x lim, s.adaptStep k kind time = ((((s.set (adpTime k kind) (min 255 (time / 2))).set (adpFld k kind)
      ((s.set (adpTime k kind) (min 255 (time / 2))).adpCode k kind time)).setIsland k x).adpShown k lim) := by
  have hrun : (s.get (LEG.CFG_DRV k) != 2 || !s.legEn k || s.on (LEG.STAT_TESTING k) || !(if kind % 2 = 0 then
      (s.island k).on (decide (kind < 2)) else !(s.island k).on (decide (kind < 2)) &&
        !(s.island k).soften (decide (kind < 2)))) = false := by
    rw [hd, he, State.on_of_get_zero ht]
    generalize decide (kind < 2) = high at hon hoff
    rcases Nat.mod_two_eq_zero_or_one kind with h | h
    · simp [h, hon h]
    · simp [h, hoff h]
  unfold State.adaptStep
  rw [if_neg (by rw [hrun]; decide)]
  simp only [decide_eq_true_eq]
  exact ⟨_, _, rfl⟩

/-- A measured transition shows its time and steps its code. -/
theorem State.adaptStep_leaves (hkind : kind < 4) (hd : s.get (LEG.CFG_DRV k) = 2) (he : s.legEn k = true)
    (ht : s.get (LEG.STAT_TESTING k) = 0) (hon : kind % 2 = 0 → (s.island k).on (decide (kind < 2)) = true)
    (hoff : kind % 2 = 1 → (s.island k).on (decide (kind < 2)) = false ∧ (s.island k).soften (decide (kind < 2)) = false) :
    (s.adaptStep k kind time).get (adpTime k kind) = min 255 (time / 2) ∧
    (s.adaptStep k kind time).get (adpFld k kind) = s.adpCode k kind time := by
  obtain ⟨x, lim, h⟩ := State.adaptStep_eq time hd he ht hon hoff
  have htime : (adpTime k kind).addr = LEG.TMEAS k := rfl
  have hcode : (adpFld k kind).addr = LEG.ADP_STAT k := rfl
  have hsplit : (adpFld k kind).apart (adpTime k kind) := .inl (by rw [htime, hcode]; simp only [LEG.TMEAS, LEG.ADP_STAT]; omega)
  rw [h, State.get_adpShown _ _ _ (by rw [htime]; simp only [LEG.TMEAS, LEG.page]; omega)
    (by rw [htime]; simp only [LEG.TMEAS, LEG.STAT]; omega), State.get_adpShown _ _ _
    (by rw [hcode]; simp only [LEG.ADP_STAT, LEG.page]; omega) (by rw [hcode]; simp only [LEG.ADP_STAT, LEG.STAT]; omega),
    State.get_setIsland, State.get_setIsland, State.get_set_apart _ _ _ _ hsplit,
    State.get_set_self _ _ _ (by show 8 * kind + 8 ≤ 32; omega), State.get_set_self _ _ _ (by show 4 * kind + 4 ≤ 32; omega),
    State.adpCode_set]
  exact ⟨Nat.mod_eq_of_lt (by show min 255 (time / 2) < 256; omega), Nat.mod_eq_of_lt (s.adpCode_lt k kind time)⟩

end adaptive

end Sys2Proof.Machine
end

section
/-! The enable of a leg island (R3, R259, R264, R266, R267). -/

namespace Sys2Proof.Machine

section enable
variable {s : State} {k : Nat}

/-- The island starts: its enable, its codes from DRV. -/
def State.islStarted (s : State) (k : Nat) : State := (s.set (HDR.CTRL_EN (LEG.page k)) 1).adpStart k

/-- An island with no loop out of its tolerance. -/
def Isl.adpClear (x : Isl) : Isl := { x with adpOut := 0 }

theorem Isl.adpClear_kept (x : Isl) : x.Kept x.adpClear := ⟨fun _ => rfl, fun _ => rfl, fun _ => rfl, rfl⟩

theorem State.adpStart_eq (s : State) (k : Nat) : s.adpStart k =
    ((s.set (LEG.ADP_STAT_CODES k) (getBits (s.reg (LEG.DRV k)) 0 16)).modIsland k Isl.adpClear).set (LEG.STAT_ADP_LIM k) 0 := rfl

/-- A field the start of an island leaves alone. -/
def startKeeps (k : Nat) (g : Fld) : Prop :=
  (HDR.CTRL_EN (LEG.page k)).apart g ∧ (LEG.ADP_STAT_CODES k).apart g ∧ (LEG.STAT_ADP_LIM k).apart g

theorem State.islStarted_frame (s : State) (k : Nat) : IslFrame k (startKeeps k) s (s.islStarted k) := by
  rw [State.islStarted, State.adpStart_eq]
  exact ((((IslFrame.refl k _ s).set (by simp only [LEG.page]; omega) (fun _ hg => hg.1) 1).set
    (by simp only; omega) (fun _ hg => hg.2.1) _).modIsland _ (Isl.adpClear_kept _)).set (by simp only; omega) (fun _ hg => hg.2.2) 0

theorem State.islStarted_legEn (s : State) (k : Nat) : (s.islStarted k).legEn k = true := by
  refine State.on_of_get_one ?_
  rw [State.islStarted, State.adpStart_eq, State.get_set_apart _ _ _ _ (.inl (by simp only [LEG.page]; omega)), State.get_modIsland,
    State.get_set_apart _ _ _ _ (.inl (by simp only [LEG.page]; omega))]
  exact State.get_set_self _ (HDR.CTRL_EN (LEG.page k)) _ (by show 0 + 1 ≤ 32; decide)

theorem State.islStarted_codes (s : State) (k : Nat) :
    (s.islStarted k).get (LEG.ADP_STAT_CODES k) = getBits (s.reg (LEG.DRV k)) 0 16 := by
  have hdrv : (s.set (HDR.CTRL_EN (LEG.page k)) 1).reg (LEG.DRV k) = s.reg (LEG.DRV k) :=
    State.reg_set_of_ne _ _ _ (by simp only [LEG.DRV, LEG.page]; omega)
  rw [State.islStarted, State.adpStart_eq, State.get_set_apart _ _ _ _ (.inl (by simp only; omega)), State.get_modIsland,
    State.get_set_self _ (LEG.ADP_STAT_CODES k) _ (by show 0 + 16 ≤ 32; decide), hdrv]
  exact Nat.mod_eq_of_lt (getBits_lt _ 0 16)

/-- An enable with a supply out of its range, seen good before. -/
def State.islUnsupplied (s : State) (k : Nat) : Bool :=
  (s.island k).everGood && !(s.on (LEG.STAT_VPOS_OK k) && s.on (LEG.STAT_VNEG_OK k))

/-- What the enable latches of the supplies. -/
def State.islSupplied (s : State) (k : Nat) : State :=
  s.iff (s.islUnsupplied k) (fun s => (s.irq (LEG.page k) 5).islFault k 7)

/-- And of the lines. -/
def State.islObeyed (s : State) (k h l : Nat) : State :=
  if h == 1 && l == 1 then (((s.bothOff k).islFault k 4).irq (LEG.page k) 2).islStat k
  else ((s.resume k true).resume k false).islStat k

/-- The conditions of refusal of an enable, in their order. -/
def State.islConds (s : State) (k : Nat) : List (Bool × Nat) :=
  [(!s.isl, eNOT_FITTED), ((s.get (LEG.CFG_DRV k) == 0) == s.straps.bmode.testBit k, iBMODE)]

theorem State.islEnable_eq (s : State) (k : Nat) : s.islEnable k = s.judge (LEG.page k) 0x0C (s.islConds k)
    (fun s => if s.legEn k then s else ((s.islStarted k).islSupplied k).islObeyed k ((s.islStarted k).island k).lineH
      ((s.islStarted k).island k).lineL) := rfl

theorem islConds_plain (s : State) (k : Nat) : ∀ x ∈ s.islConds k, x.1 = true → x.2 ≠ eKEY ∧ x.2 ≠ eRANGE := by
  simp only [State.islConds, List.forall_mem_cons]
  exact ⟨fun _ => by decide, fun _ => by decide, by simp⟩

section judged
variable (ht : s.takes (LEG.page k))
include ht

/-- Islands not fitted are refused (R3). -/
theorem State.islEnable_unfitted (hi : s.isl = false) : s.islEnable k = s.refuse (LEG.page k) 0x0C eNOT_FITTED := by
  rw [State.islEnable_eq]
  exact State.judge_first ht (c := (true, eNOT_FITTED)) (by simp [State.islConds, hi]) (islConds_plain s k)

/-- A drive that is not the fitted one is refused (R266). -/
theorem State.islEnable_bmode (hi : s.isl = true) (h : s.get (LEG.CFG_DRV k) = 0 ↔ s.straps.bmode.testBit k = true) :
    s.islEnable k = s.refuse (LEG.page k) 0x0C iBMODE := by
  have hb : ((s.get (LEG.CFG_DRV k) == 0) == s.straps.bmode.testBit k) = true := by
    rw [beq_iff_eq, Bool.eq_iff_iff, beq_iff_eq]; exact h
  rw [State.islEnable_eq]
  exact State.judge_first ht (c := (true, iBMODE)) (by simp [State.islConds, hi, hb]) (islConds_plain s k)

/-- An enable of the fitted drive starts an island that is off. -/
theorem State.islEnable_runs (hi : s.isl = true) (hb : (s.get (LEG.CFG_DRV k) == 0) = !(s.straps.bmode.testBit k))
    (he : s.legEn k = false) : s.islEnable k =
      ((s.islStarted k).islSupplied k).islObeyed k (s.island k).lineH (s.island k).lineL := by
  have hkept := (s.islStarted_frame k).kept
  have hH : ((s.islStarted k).island k).lineH = (s.island k).lineH := hkept.line true
  have hL : ((s.islStarted k).island k).lineL = (s.island k).lineL := hkept.line false
  rw [State.islEnable_eq, State.judge_takes ht (by simp [State.islConds, hi, hb]), if_neg (by rw [he]; decide), hH, hL]

end judged

/-! ### What follows of the start -/

section follows
variable (s k) (h l : Nat)

theorem State.islSupplied_frame : IslFrame k (faultKeeps k) s (s.islSupplied k) := by
  refine (IslFrame.refl k _ s).iff (((IslFrame.refl k _ s).irq (fun _ hg => hg.drive.1) 5).trans ?_)
  exact State.islFault_frame _ k 7

theorem State.islObeyed_frame : IslFrame k (fun g => faultKeeps k g ∧ statKeeps k g) s (s.islObeyed k h l) := by
  have hcross : IslFrame k (faultKeeps k) s (((s.bothOff k).islFault k 4).irq (LEG.page k) 2) :=
    (((s.bothOff_frame k).mono fun _ _ => trivial).trans (State.islFault_frame _ k 4)).irq (fun _ hg => hg.drive.1) 2
  have hres := ((s.resume_frame k true).trans ((s.resume k true).resume_frame k false)).mono fun g (hg : faultKeeps k g) => hg.drive
  unfold State.islObeyed
  exact .ite ((hcross.mono fun _ hg => hg.1).trans ((State.islStat_frame _ k).mono fun _ hg => hg.2))
    ((hres.mono fun _ hg => hg.1).trans ((State.islStat_frame _ k).mono fun _ hg => hg.2))

/-- What an enable does after the start keeps every field no fault, drive or STAT bit of it is. -/
theorem State.islFollows_frame : IslFrame k (fun g => faultKeeps k g ∧ statKeeps k g) s
    ((s.islSupplied k).islObeyed k h l) :=
  ((s.islSupplied_frame k).mono fun _ hg => hg.1).trans (State.islObeyed_frame _ k h l)

variable {s k} (hk : k < 12) (he : s.legEn k = true)
include hk he

theorem State.islFollows_legEn : ((s.islSupplied k).islObeyed k h l).legEn k = true :=
  ((s.islFollows_frame k h l).on ⟨by simp [hk], by simp⟩).trans he

/-- A bit of FLT stands through what the lines do. -/
theorem State.islObeyed_keepsBit {b : Nat} (hb : (s.legFlt k).testBit b = true) :
    ((s.islObeyed k h l).legFlt k).testBit b = true := by
  unfold State.islObeyed
  split
  · have hirq := (IslFrame.refl k (fun g => g.addr ≠ LEG.page k + 0x14) ((s.bothOff k).islFault k 4)).irq (fun _ hg => hg) 2
    have hfault : (((s.bothOff k).islFault k 4).legFlt k).testBit b = true :=
      State.islFault_keepsBit (s := s.bothOff k) hk (by decide) he hb
    rwa [State.legFlt, (State.islStat_frame _ k).get _ (by simp), hirq.get _ (by simp only [LEG.page]; omega)]
  · rw [State.legFlt, (State.islStat_frame _ k).get _ (by simp), (State.resume_frame _ k false).get _ (by simp),
      (State.resume_frame _ k true).get _ (by simp)]
    exact hb

/-- Two lines ON latch CROSS_CMD. -/
theorem State.islObeyed_cross : ((s.islObeyed k 1 1).legFlt k).testBit 4 = true ∧ (s.islObeyed k 1 1).raised (LEG.page k) 2 := by
  have hbit : (((s.bothOff k).islFault k 4).legFlt k).testBit 4 = true := State.islFault_bit (s := s.bothOff k) hk (by decide) he
  have hirq := (IslFrame.refl k (fun g => g.addr ≠ LEG.page k + 0x14) ((s.bothOff k).islFault k 4)).irq (fun _ hg => hg) 2
  unfold State.islObeyed
  rw [if_pos (by decide)]
  refine ⟨?_, (State.islStat_frame _ k).raised _ 2 (by simp only [LEG.page]; omega) (State.raised_irq _ _ 2 (by decide))⟩
  rwa [State.legFlt, (State.islStat_frame _ k).get _ (by simp), hirq.get _ (by simp only [LEG.page]; omega)]

/-- A supply out of its range latches SUP_UV. -/
theorem State.islSupplied_fault (hout : s.islUnsupplied k = true) :
    ((s.islSupplied k).legFlt k).testBit 7 = true ∧ (s.islSupplied k).raised (LEG.page k) 5 := by
  have hen : (s.irq (LEG.page k) 5).legEn k = true := by
    rw [State.legEn, State.on, State.get_irq_of_ne _ _ _ _ (by simp only [LEG.page]; omega)]; exact he
  rw [State.islSupplied, State.iff_true hout]
  exact ⟨State.islFault_bit hk (by decide) hen,
    (State.islFault_frame _ k 7).raised _ 5 (by simp only [LEG.page]; omega) (State.raised_irq _ _ 5 (by decide))⟩

end follows

/-! ### What an enable leaves -/

variable (hk : k < 12) (ht : s.takes (LEG.page k)) (hi : s.isl = true)
  (hb : (s.get (LEG.CFG_DRV k) == 0) = !(s.straps.bmode.testBit k)) (he : s.legEn k = false)
include hk ht hi hb he

theorem State.islEnable_leaves : (s.islEnable k).legEn k = true ∧
    (s.islEnable k).get (LEG.ADP_STAT_CODES k) = getBits (s.reg (LEG.DRV k)) 0 16 := by
  rw [State.islEnable_runs ht hi hb he]
  refine ⟨State.islFollows_legEn _ _ hk (s.islStarted_legEn k), ?_⟩
  rw [((s.islStarted k).islFollows_frame k _ _).get _ ⟨by simp [hk], by simp⟩, State.islStarted_codes]

/-- A supply out of its range is then a fault (R259). -/
theorem State.islEnable_unsupplied (hv : (s.island k).everGood = true) (hp : s.get (LEG.STAT_VPOS_OK k) = 0) :
    ((s.islEnable k).legFlt k).testBit 7 = true ∧ (s.islEnable k).raised (LEG.page k) 5 := by
  have hstart := s.islStarted_frame k
  have hpos : (s.islStarted k).get (LEG.STAT_VPOS_OK k) = 0 :=
    (hstart.get _ (by simp only [startKeeps, Fld.apart, LEG.page]; omega)).trans hp
  have hout : (s.islStarted k).islUnsupplied k = true := by
    rw [State.islUnsupplied, hstart.kept.everGood, hv, State.on_of_get_zero hpos]; rfl
  obtain ⟨hbit, hraw⟩ := State.islSupplied_fault hk (s.islStarted_legEn k) hout
  have hen : ((s.islStarted k).islSupplied k).legEn k = true :=
    ((State.islSupplied_frame _ k).on (by simp [hk])).trans (s.islStarted_legEn k)
  rw [State.islEnable_runs ht hi hb he]
  exact ⟨State.islObeyed_keepsBit _ _ hk hen hbit, (State.islObeyed_frame _ k _ _).raised _ 5 (by simp only [LEG.page]; omega) hraw⟩

/-- Two lines ON are a fault then (R264). -/
theorem State.islEnable_crossed (hH : (s.island k).lineH = 1) (hL : (s.island k).lineL = 1) :
    ((s.islEnable k).legFlt k).testBit 4 = true ∧ (s.islEnable k).raised (LEG.page k) 2 := by
  have hen : ((s.islStarted k).islSupplied k).legEn k = true :=
    ((State.islSupplied_frame _ k).on (by simp [hk])).trans (s.islStarted_legEn k)
  rw [State.islEnable_runs ht hi hb he, hH, hL]
  exact State.islObeyed_cross hk hen

end enable

end Sys2Proof.Machine
end

section
/-! The clear of the faults of a leg island (R273), its slots of a fired policy (R277) and its self-test (R279, R280). -/

namespace Sys2Proof.Machine

variable {s : State} {k : Nat}

/-! ### FLT_CLR (R273) -/

section clear

/-- Nothing holds the faults of an island: its lines have been off for 1 µs, its supplies are in range, no soft turn-off runs. -/
def State.fltClears (s : State) (k : Nat) : Bool :=
  (match (s.island k).offSince with | some t => decide (t + tUs ≤ s.now) | none => false) &&
    s.on (LEG.STAT_VPOS_OK k) && s.on (LEG.STAT_VNEG_OK k) && (s.island k).softH.isNone && (s.island k).softL.isNone

/-- The faults of an island cleared. -/
def State.fltGone (s : State) (k : Nat) : State := (s.setReg (LEG.FLT k) 0).set (LEG.STAT_FAULTED k) 0

theorem State.fltClr_eq (s : State) (k : Nat) : s.fltClr k = s.judge (LEG.page k) 0x60 [(s.isl && !s.fltClears k, iFLT_ACTIVE)]
    (fun s => ((s.fltGone k).legSource).islStat k) := rfl

theorem State.fltGone_leaves (s : State) (k : Nat) : (s.fltGone k).legFlt k = 0 ∧ (s.fltGone k).get (LEG.FLT_FIRST k) = 0 ∧
    (s.fltGone k).get (LEG.STAT_FAULTED k) = 0 := by
  have hflt : ∀ lo w, (s.fltGone k).get ⟨LEG.FLT k, lo, w⟩ = 0 := fun lo w => by
    rw [State.fltGone, State.get_set_apart _ _ _ _ (.inl (by simp only [LEG.FLT]; omega)), State.get, State.reg_setReg_self, getBits]
    simp
  exact ⟨hflt 0 9, hflt 12 4, State.get_set_self _ (LEG.STAT_FAULTED k) _ (by show 8 + 1 ≤ 32; decide)⟩

/-- A clear that nothing holds back leaves no fault, and the latches as they stand. -/
theorem State.fltClr_leaves (ht : s.takes (LEG.page k)) (hc : s.fltClears k = true) : (s.fltClr k).legFlt k = 0 ∧
    (s.fltClr k).get (LEG.FLT_FIRST k) = 0 ∧ (s.fltClr k).get (LEG.STAT_FAULTED k) = 0 ∧ (s.fltClr k).latches = s.latches := by
  have hstat := (State.legSource_frame (k := k) (s.fltGone k) (statKeeps k)).trans (State.islStat_frame _ k)
  obtain ⟨hflt, hfirst, hfd⟩ := s.fltGone_leaves k
  rw [State.fltClr_eq, State.judge_takes ht (by simp [hc])]
  exact ⟨(hstat.get _ (by simp)).trans hflt, (hstat.get _ (by simp)).trans hfirst, (hstat.get _ (by simp)).trans hfd,
    hstat.latches⟩

theorem State.fltClr_refused (ht : s.takes (LEG.page k)) (hi : s.isl = true) (hc : s.fltClears k = false) :
    s.fltClr k = s.refuse (LEG.page k) 0x60 iFLT_ACTIVE := by
  rw [State.fltClr_eq]
  exact State.judge_first ht (c := (true, iFLT_ACTIVE)) (by simp [hi, hc])
    (by simp only [List.forall_mem_singleton]; exact fun _ => by decide)

/-- What clears: lines long off, supplies in range, no soft turn-off. -/
theorem State.fltClears_of (hoff : ∃ t0, (s.island k).offSince = some t0 ∧ t0 + tUs ≤ s.now)
    (hp : s.get (LEG.STAT_VPOS_OK k) = 1) (hn : s.get (LEG.STAT_VNEG_OK k) = 1) (hH : (s.island k).softH = none)
    (hL : (s.island k).softL = none) : s.fltClears k = true := by
  obtain ⟨t0, hsince, hle⟩ := hoff
  simp [State.fltClears, hsince, hle, State.on_of_get_one hp, State.on_of_get_one hn, hH, hL]

/-- And what holds it back. -/
theorem State.fltClears_not (h : (s.island k).offSince = none ∨ s.get (LEG.STAT_VPOS_OK k) = 0 ∨
    (s.island k).softH.isSome = true) : s.fltClears k = false := by
  rcases h with h | h | h
  · simp [State.fltClears, h]
  · simp [State.fltClears, State.on_of_get_zero h]
  · simp [State.fltClears, Option.isNone_eq_false_iff.2 h]

end clear

/-! ### Slots of a fired policy (R277) -/

/-- In its slot a switch that is still on begins its soft turn-off, and no switch turns on with the low line OFF. -/
theorem State.slotOff_leaves {high : Bool} {t0 : Nat} (hs : (s.island k).slot high = some t0) (hon : (s.island k).on high = true)
    (hl : (s.island k).lineL ≠ 1) : (s.slotOff k high).now = max s.now t0 ∧ ((s.slotOff k high).island k).on high = false ∧
    ((s.slotOff k high).island k).slot high = none ∧
    ((s.slotOff k high).island k).soft high = some ((s.slotOff k high).now + 2 * tUs) ∧ (s.slotOff k high).legFlt k = s.legFlt k := by
  obtain ⟨hoff, hsoft, hslot, hline⟩ := (s.advance t0).softOff_leaves k high
  have hlow : (((s.advance t0).softOff k high).island k).line false ≠ 1 := by rw [hline]; exact hl
  have hres : ((s.advance t0).softOff k high).resume k false = (s.advance t0).softOff k high := by
    rw [State.resume, beq_false_of_ne hlow, Bool.false_and, if_neg (by decide)]
  have heq : s.slotOff k high = ((s.advance t0).softOff k high).islStat k := by
    simp only [State.slotOff, hs, State.island_advance, hon, if_true]
    cases high
    · rw [State.iff_false rfl]
    · rw [State.iff_true rfl, hres]
  have hnow : (s.slotOff k high).now = max s.now t0 := by rw [heq]; exact (State.islStat_frame _ k).now
  rw [hnow, heq, State.islStat_island]
  exact ⟨rfl, hoff, hslot, hsoft, ((State.islStat_frame _ k).get _ (by simp)).trans rfl⟩

/-! ### The self-test (R279, R280) -/

section selftest

/-- A test begins: the leg is claimed, no result stands. -/
def State.islTestBegun (s : State) (k : Nat) : State :=
  ((((s.takeClaim (resKey 2 k) 8 k).setReg (LEG.TEST_RES k) 0).set (LEG.STAT_TESTING k) 1).set (LEG.STAT_TEST_PASS k) 0).set
    (LEG.STAT_TEST_FAIL k) 0

theorem State.islTest_eq (s : State) (k : Nat) : s.islTest k = s.judge (LEG.page k) 0x74
    [(s.isl && !s.islIdle k, iNOT_IDLE)] (fun s => if !s.isl then s else (s.islTestBegun k).islStat k) := rfl

theorem State.islTestBegun_leaves (s : State) (k : Nat) : (s.islTestBegun k).get (LEG.STAT_TESTING k) = 1 ∧
    (s.islTestBegun k).get (LEG.STAT_TEST_PASS k) = 0 ∧ (s.islTestBegun k).get (LEG.STAT_TEST_FAIL k) = 0 := by
  unfold State.islTestBegun
  refine ⟨?_, ?_, State.get_set_self _ (LEG.STAT_TEST_FAIL k) _ (by show 12 + 1 ≤ 32; decide)⟩
  · simp (disch := (simp only [Fld.apart]; omega)) only [State.get_set_apart]
    exact State.get_set_self _ (LEG.STAT_TESTING k) _ (by show 10 + 1 ≤ 32; decide)
  · simp (disch := (simp only [Fld.apart]; omega)) only [State.get_set_apart]
    exact State.get_set_self _ (LEG.STAT_TEST_PASS k) _ (by show 11 + 1 ≤ 32; decide)

theorem State.islTestBegun_claim (s : State) (k : Nat) :
    (s.islTestBegun k).claim (resKey 2 k) = { s.claim (resKey 2 k) with cls := 8, inst := k } := by
  have hclaims : (s.islTestBegun k).claims = (s.takeClaim (resKey 2 k) 8 k).claims := rfl
  rw [State.claim_congr hclaims, State.claim_takeClaim, if_pos rfl]

/-- The test of an idle island claims its leg, and shows neither result. -/
theorem State.islTest_leaves (ht : s.takes (LEG.page k)) (hi : s.isl = true) (hidle : s.islIdle k = true) :
    (s.islTest k).get (LEG.STAT_TESTING k) = 1 ∧ ((s.islTest k).claim (resKey 2 k)).cls = 8 ∧
    ((s.islTest k).claim (resKey 2 k)).inst = k ∧ (s.islTest k).get (LEG.STAT_TEST_PASS k) = 0 ∧
    (s.islTest k).get (LEG.STAT_TEST_FAIL k) = 0 := by
  have hstat := (s.islTestBegun k).islStat_frame k
  obtain ⟨hrun, hpass, hfail⟩ := s.islTestBegun_leaves k
  rw [State.islTest_eq, State.judge_takes ht (by simp [hidle]), if_neg (by rw [hi]; decide), State.claim_congr hstat.claims,
    State.islTestBegun_claim]
  exact ⟨(hstat.get _ (by simp)).trans hrun, rfl, rfl, (hstat.get _ (by simp)).trans hpass, (hstat.get _ (by simp)).trans hfail⟩

theorem State.islTest_refused (ht : s.takes (LEG.page k)) (hi : s.isl = true) (hidle : s.islIdle k = false) :
    s.islTest k = s.refuse (LEG.page k) 0x74 iNOT_IDLE := by
  rw [State.islTest_eq]
  exact State.judge_first ht (c := (true, iNOT_IDLE)) (by simp [hi, hidle])
    (by simp only [List.forall_mem_singleton]; exact fun _ => by decide)

/-- The results of a test: the items that failed and those that were skipped. -/
def State.testResults (s : State) (k fail skip : Nat) : State :=
  ((((s.set (LEG.TEST_RES_FAIL k) fail).set (LEG.TEST_RES_SKIP k) skip).set (LEG.STAT_TESTING k) 0).setB
    (LEG.STAT_TEST_PASS k) (fail == 0 && skip == 0)).setB (LEG.STAT_TEST_FAIL k) (fail != 0)

/-- The items skipped: without BST_OK those that need the bootstrap. -/
def State.testSkip (s : State) (k : Nat) : Nat := if s.on (LEG.STAT_BST_OK k) then 0 else testHigh

theorem State.islTestDone_eq (fail : Nat) (h : s.get (LEG.STAT_TESTING k) = 1) : s.islTestDone k fail =
    (((s.testResults k (fail &&& (0x7FFF ^^^ s.testSkip k)) (s.testSkip k)).release (resKey 2 k) 8 k).irq
      (LEG.page k) 4).islStat k := by
  unfold State.islTestDone
  rw [if_neg (by rw [State.on_of_get_one h]; decide)]
  rfl

theorem State.testResults_leaves (s : State) (k fail skip : Nat) :
    (s.testResults k fail skip).get (LEG.STAT_TESTING k) = 0 ∧
    (s.testResults k fail skip).get (LEG.TEST_RES_FAIL k) = fail % 2 ^ 15 ∧
    (s.testResults k fail skip).get (LEG.TEST_RES_SKIP k) = skip % 2 ^ 15 ∧
    (s.testResults k fail skip).get (LEG.STAT_TEST_PASS k) = (if fail == 0 && skip == 0 then 1 else 0) ∧
    (s.testResults k fail skip).get (LEG.STAT_TEST_FAIL k) = (if fail != 0 then 1 else 0) := by
  unfold State.testResults
  refine ⟨?_, ?_, ?_, ?_, State.get_setB_self _ _ _ (by show 12 + 1 ≤ 32; decide) rfl⟩
  all_goals simp (disch := (simp only [Fld.apart]; omega)) only [State.get_setB_apart, State.get_set_apart]
  · exact State.get_set_self _ (LEG.STAT_TESTING k) _ (by show 10 + 1 ≤ 32; decide)
  · exact State.get_set_self _ (LEG.TEST_RES_FAIL k) _ (by show 0 + 15 ≤ 32; decide)
  · exact State.get_set_self _ (LEG.TEST_RES_SKIP k) _ (by show 16 + 15 ≤ 32; decide)
  · exact State.get_setB_self _ _ _ (by show 11 + 1 ≤ 32; decide) rfl

/-- A test that ends shows what it found, raises TEST_DONE and leaves the leg. -/
theorem State.islTestDone_leaves (fail : Nat) (h : s.get (LEG.STAT_TESTING k) = 1) :
    (s.islTestDone k fail).raised (LEG.page k) 4 ∧ (∀ {a lo w : Nat}, a ≠ LEG.page k + 0x14 → statKeeps k ⟨a, lo, w⟩ →
      (s.islTestDone k fail).get ⟨a, lo, w⟩ =
        (s.testResults k (fail &&& (0x7FFF ^^^ s.testSkip k)) (s.testSkip k)).get ⟨a, lo, w⟩) := by
  rw [State.islTestDone_eq fail h]
  refine ⟨(State.islStat_frame _ k).raised _ 4 (by simp only [LEG.page]; omega) (State.raised_irq _ _ 4 (by decide)), fun ha hs => ?_⟩
  rw [(State.islStat_frame _ k).get _ hs, State.get_irq_of_ne _ _ _ _ ha, State.get_release]

/-- With the bootstrap charged every item is tested. -/
theorem State.islTestDone_whole (f : BitVec 15) (h : s.get (LEG.STAT_TESTING k) = 1) (hb : s.get (LEG.STAT_BST_OK k) = 1) :
    (s.islTestDone k f.toNat).get (LEG.TEST_RES_FAIL k) = f.toNat ∧ (s.islTestDone k f.toNat).get (LEG.TEST_RES_SKIP k) = 0 ∧
    (s.islTestDone k f.toNat).get (LEG.STAT_TEST_PASS k) = (if f = 0 then 1 else 0) ∧
    (s.islTestDone k f.toNat).get (LEG.STAT_TEST_FAIL k) = (if f = 0 then 0 else 1) := by
  have hskip : s.testSkip k = 0 := by rw [State.testSkip, State.on_of_get_one hb, if_pos rfl]
  have hall : f.toNat &&& 0x7FFF = f.toNat := by
    rw [show (0x7FFF : Nat) = 2 ^ 15 - 1 from rfl, Nat.and_two_pow_sub_one_eq_mod]
    exact Nat.mod_eq_of_lt f.isLt
  have hzero : f = 0 ↔ f.toNat = 0 := BitVec.toNat_inj.symm
  obtain ⟨-, hget⟩ := State.islTestDone_leaves f.toNat h
  rw [hskip, Nat.xor_zero, hall] at hget
  obtain ⟨-, hfail, hsk, hpass, hbad⟩ := s.testResults_leaves k f.toNat 0
  rw [hget (by simp only [LEG.page]; omega) (by simp), hget (by simp only [LEG.page]; omega) (by simp),
    hget (by simp only [LEG.page]; omega) (by simp), hget (by simp only [LEG.page]; omega) (by simp), hfail, hsk, hpass, hbad]
  refine ⟨Nat.mod_eq_of_lt f.isLt, rfl, ?_, ?_⟩
  · simp only [hzero, beq_iff_eq, beq_self_eq_true, Bool.and_true]
  · simp only [hzero, bne_iff_ne, ite_not]

/-- Without it the items that need it are skipped, and the test does not pass. -/
theorem State.islTestDone_partial (fail : Nat) (h : s.get (LEG.STAT_TESTING k) = 1) (hb : s.get (LEG.STAT_BST_OK k) = 0) :
    (s.islTestDone k fail).get (LEG.STAT_TEST_PASS k) = 0 ∧ (s.islTestDone k fail).get (LEG.TEST_RES_SKIP k) = testHigh := by
  have hskip : s.testSkip k = testHigh := by rw [State.testSkip, State.on_of_get_zero hb, if_neg (by decide)]
  obtain ⟨-, hget⟩ := State.islTestDone_leaves fail h
  obtain ⟨-, -, hsk, hpass, -⟩ := s.testResults_leaves k (fail &&& (0x7FFF ^^^ s.testSkip k)) (s.testSkip k)
  rw [hget (by simp only [LEG.page]; omega) (by simp), hget (by simp only [LEG.page]; omega) (by simp), hsk, hpass, hskip,
    show (testHigh == 0) = false from rfl, Bool.and_false]
  exact ⟨rfl, rfl⟩

end selftest

end Sys2Proof.Machine
end

section
/-! The policy of a bus and the reports that fire it (R274–R278). -/

namespace Sys2Proof.Machine

/-! ### What a policy that fires leaves alone -/

/-- A field that neither the drives of an island nor a disarm of the machines writes. -/
def policyKeeps (g : Fld) : Prop := disarmKeeps g ∧ ∀ j < 12, driveKeeps j g

/-- No trip and no machine writes a page of the islands. -/
theorem disarmKeeps_leg {g : Fld} (h1 : 0x40300000 ≤ g.addr) (h2 : g.addr < 0x4030C000) : disarmKeeps g := by
  have hout : ∀ pg, pg + 0x1000 ≤ 0x40300000 ∨ 0x4030C000 ≤ pg → outside pg g := fun pg h =>
    h.elim (fun h => .inr (h.trans h1)) (fun h => .inl (h2.trans_le h))
  have hne : ∀ a, a < 0x40300000 → a ≠ g.addr := fun a ha => by omega
  exact ⟨⟨⟨hout _ (by decide), hout _ (by decide), hout _ (by decide), .inl (hout _ (by decide)), .inl (hne _ (by decide))⟩,
    tripFld_apart 12 (hne _ (by decide)) (hne _ (by decide))⟩, hout _ (by decide), hout _ (by decide)⟩

/-- The latch of source LEG. -/
theorem policyKeeps_latch : policyKeeps (latchFld 11) :=
  ⟨disarmKeeps_istat (by decide) (by decide), fun j _ => by
    show driveKeeps j ⟨TRP.ISTAT, 11, 1⟩
    simp only [driveKeeps, LEG.page, LEG.STAT, LEG.CNT, TRP.ISTAT]
    omega⟩

/-- The report of the policy (R277). -/
theorem policyKeeps_evt (lo w : Nat) : policyKeeps ⟨LEG.BUS_EVT 0, lo, w⟩ :=
  ⟨disarmKeeps_leg (by show 0x40300000 ≤ LEG.BUS_EVT 0; decide) (by show LEG.BUS_EVT 0 < 0x4030C000; decide), fun j _ => by
    simp only [driveKeeps, LEG.page, LEG.STAT, LEG.CNT, LEG.BUS_EVT]
    omega⟩

theorem State.raised_modIsland (s : State) (k : Nat) (f : Isl → Isl) (pg b : Nat) :
    (s.modIsland k f).raised pg b ↔ s.raised pg b := raised_congr rfl

/-- From `s` to `t` those fields are as they were, and events of the islands that stand stay. -/
structure State.PolicyFrame (s t : State) : Prop where
  get : ∀ g, policyKeeps g → t.get g = s.get g
  raised : ∀ j b, j < 12 → s.raised (LEG.page j) b → t.raised (LEG.page j) b

namespace State.PolicyFrame
variable {s t u : State}

theorem refl (s : State) : PolicyFrame s s := ⟨fun _ _ => rfl, fun _ _ _ h => h⟩

theorem trans (h : PolicyFrame s t) (h' : PolicyFrame t u) : PolicyFrame s u :=
  ⟨fun g hg => (h'.get g hg).trans (h.get g hg), fun j b hj hr => h'.raised j b hj (h.raised j b hj hr)⟩

theorem each {α : Type} {l : List α} {f : State → α → State} (hf : ∀ s, ∀ a ∈ l, PolicyFrame s (f s a)) (s : State) :
    PolicyFrame s (s.each l f) := by
  induction l generalizing s with
  | nil => exact refl s
  | cons a l ih =>
    exact (hf s a (by simp)).trans (ih (fun s b hb => hf s b (List.mem_cons_of_mem a hb)) (f s a))

theorem ofIsl {k : Nat} (hk : k < 12) (h : IslFrame k (driveKeeps k) s t) : PolicyFrame s t :=
  ⟨fun g hg => h.get g (hg.2 k hk), fun _ b _ hr => h.raised _ b (by simp only [LEG.page]; omega) hr⟩

theorem ofHalt (h : HaltFrame disarmKeeps s t) : PolicyFrame s t :=
  ⟨fun g hg => h.get g hg.1, fun j _ hj hr => (raised_congr (State.reg_of_get (h.get _ (disarmKeeps_leg
    (by simp only [HDR.IRQ_RAW, LEG.page]; omega) (by simp only [HDR.IRQ_RAW, LEG.page]; omega))))).2 hr⟩

theorem modIsland (s : State) (k : Nat) (f : Isl → Isl) : PolicyFrame s (s.modIsland k f) :=
  ⟨fun _ _ => rfl, fun _ _ _ h => (s.raised_modIsland ..).2 h⟩

theorem irq (s : State) {k : Nat} (hk : k < 12) (b : Nat) : PolicyFrame s (s.irq (LEG.page k) b) :=
  ofIsl hk ((IslFrame.refl k _ s).irq (fun _ hg => hg.1) b)

end State.PolicyFrame

/-- Machines forced to a safe state. -/
theorem State.machForce_policy (s : State) (st : Nat) {ms : List Nat} (h : ∀ m ∈ ms, m < 2) :
    PolicyFrame s (s.machForce st ms) := by
  refine PolicyFrame.ofHalt (HaltFrame.each (fun t m hm => t.machSafe_frame ?_ _ _) s)
  have hm := (List.mem_filter.1 hm).1
  split at hm
  · exact h m (List.mem_filter.1 hm).1
  · exact h m hm

/-! ### What it does -/

/-- A field of a word made from a number. -/
theorem getBits_ofNat (n : Nat) {lo w : Nat} (h : lo + w ≤ 32) : getBits (BitVec.ofNat 32 n) lo w = n / 2 ^ lo % 2 ^ w := by
  apply Nat.eq_of_testBit_eq
  intro i
  simp only [getBits, Nat.testBit_mod_two_pow, Nat.testBit_shiftRight, BitVec.testBit_toNat, BitVec.getLsbD_ofNat,
    Nat.testBit_div_two_pow]
  by_cases hi : i < w
  · have hl : lo + i < 32 := by omega
    simp [hi, hl, Nat.add_comm]
  · simp [hi]

/-- BUS_EVT of a policy fired by faults of island `k` alone. -/
theorem busEvt_fields {k b x m : Nat} (hk : k < 12) (hb : b < 4) (hx : x = 0 ∨ x = 1024) :
    getBits (BitVec.ofNat 32 (k + 16 * k + 256 * b + x + 2048 + 4096 * m)) 11 1 = 1 ∧
    getBits (BitVec.ofNat 32 (k + 16 * k + 256 * b + x + 2048 + 4096 * m)) 0 4 = k ∧
    getBits (BitVec.ofNat 32 (k + 16 * k + 256 * b + x + 2048 + 4096 * m)) 8 2 = b := by
  have hisl : k + 16 * k < 256 := by omega
  have hlow : k + 16 * k + 256 * b + x < 2048 := by omega
  rw [getBits_ofNat _ (by decide), getBits_ofNat _ (by decide), getBits_ofNat _ (by decide)]
  refine ⟨?_, by omega, ?_⟩
  · generalize k + 16 * k + 256 * b + x = r at hlow
    omega
  · generalize k + 16 * k = r at hisl
    omega

/-- A policy fired by an island of its bus: source LEG latches, the report stands, and the island shows BUS_POLICY. -/
theorem State.policyFire_leaves (s : State) {k b : Nat} (hk : k < 12) (hb : s.get (LEG.CFG_BUS k) = b) :
    (s.policyFire b k k).get (latchFld 11) = 1 ∧ (s.policyFire b k k).get (LEG.BUS_EVT_VALID 0) = 1 ∧
    (s.policyFire b k k).get (LEG.BUS_EVT_ISL_A 0) = k ∧ (s.policyFire b k k).get (LEG.BUS_EVT_BUS 0) = b ∧
    (s.policyFire b k k).raised (LEG.page k) 3 := by
  have hb4 : b < 4 := hb ▸ s.get_lt _
  unfold State.policyFire
  extract_lets grp scope want asc m turn s1 s2 s3 s4 s5 s6
  have hlt : ∀ j ∈ scope, j < 12 := fun j hj => List.mem_range.1 (List.mem_filter.1 hj).1
  have hmem : k ∈ scope := List.mem_filter.2 ⟨List.mem_range.2 hk, by simp [hb]⟩
  have hlatch : s3.get (latchFld 11) = 1 := by
    have h1 : s1.get (latchFld 11) = 1 := ite_keeps (P := fun t => t.get (latchFld 11) = 1)
      (State.trip_sets _ (by decide) (by decide) _ _ _).2 (State.trip_sets _ (by decide) (by decide) _ _ _).2
    exact (State.get_congr (t := s3) (s := s2) _ (s2.reg_setReg_of_ne _ (by decide))).trans h1
  have hevt := busEvt_fields (m := m) (x := if (want && !asc) = true then 1024 else 0) hk hb4 (by split <;> simp)
  have hword : s3.reg (LEG.BUS_EVT 0) = BitVec.ofNat 32 (k + 16 * k + 256 * b +
      (if (want && !asc) = true then 1024 else 0) + 2048 + 4096 * m) := State.reg_setReg_self ..
  have h34 : PolicyFrame s3 s4 := .each (fun t j hj => (PolicyFrame.irq t (hlt j hj) 3).trans (.modIsland _ j _)) s3
  have hraw : s4.raised (LEG.page k) 3 := State.each_forall (P := fun j (t : State) => t.raised (LEG.page j) 3)
    (fun t j _ => (State.raised_modIsland ..).2 (t.raised_irq _ 3 (by decide)))
    (fun t j _ i hi => (State.raised_modIsland ..).2 (t.raised_irq_of _ _ _ _ hi)) s3 k hmem
  have h45 : PolicyFrame s4 s5 := .each (fun t q _ => .modIsland t _ _) s4
  have h56 : PolicyFrame s5 s6 := by
    unfold s6
    cases asc
    · exact .refl s5
    · exact .each (fun t j hj => .ofIsl (hlt j hj) (t.resume_frame j false)) s5
  have hrest := (h45.trans h56).trans (s6.machForce_policy (if asc = true then mASC else mINHIBIT)
    (ms := [0, 1].filter fun mm => (s6.machLegs mm).any fun l => m.testBit l) (fun i hi => by
      have := (List.mem_filter.1 hi).1
      simp at this
      omega))
  have hget := fun g hg => (h34.trans hrest).get g hg
  have hfld : ∀ lo w, s3.get ⟨LEG.BUS_EVT 0, lo, w⟩ = _ := fun lo w => congrArg (getBits · lo w) hword
  exact ⟨(hget _ policyKeeps_latch).trans hlatch, (hget _ (policyKeeps_evt 11 1)).trans ((hfld 11 1).trans hevt.1),
    (hget _ (policyKeeps_evt 0 4)).trans ((hfld 0 4).trans hevt.2.1), (hget _ (policyKeeps_evt 8 2)).trans ((hfld 8 2).trans hevt.2.2),
    hrest.raised k 3 hk hraw⟩

/-! ### A report (R275) -/

section report
variable {s : State} {k bit t0 : Nat} {l : List (Nat × Nat)}

theorem State.faultReport_none (h : (s.island k).reports = []) : s.faultReport k = s := by simp only [State.faultReport, h]

variable (h : (s.island k).reports = (bit, t0) :: l)
include h

/-- A fault the policy does not count ends with its report. -/
theorem State.faultReport_unqualified (hq : (s.get (LEG.BUSPOL_QUAL 0 (s.get (LEG.CFG_BUS k)))).testBit bit = false) :
    s.faultReport k = s.setIsland k { s.island k with reports := l } := by
  simp only [State.faultReport, h, State.get_setIsland, hq]
  rfl

/-- One fault fires the policy where TRIG is 1. -/
theorem State.faultReport_fires (hq : (s.get (LEG.BUSPOL_QUAL 0 (s.get (LEG.CFG_BUS k)))).testBit bit = true)
    (ht : s.get (LEG.BUSPOL_TRIG 0 (s.get (LEG.CFG_BUS k))) = 1) : ∃ u : State,
      s.faultReport k = u.policyFire (s.get (LEG.CFG_BUS k)) k k ∧ u.get (LEG.CFG_BUS k) = s.get (LEG.CFG_BUS k) := by
  simp only [State.faultReport, h, State.get_setIsland, hq, Bool.not_true, Bool.false_eq_true, if_false]
  split
  · exact ⟨_, rfl, rfl⟩
  · rename_i heq _
    exact absurd (heq.symm.trans ht) (by decide)
  · rename_i hne _
    exact absurd ht hne

/-- It does not fire where TRIG is 0, or 2 with no fault of another island near. -/
theorem State.faultReport_rests (hr : (s.get (LEG.BUSPOL_TRIG 0 (s.get (LEG.CFG_BUS k))) = 2 ∧
      (∀ q ∈ s.polHist, q.1 = s.get (LEG.CFG_BUS k) → q.2.1 = k ∨ q.2.2 + tUs ≤ t0 ∨ t0 + tUs ≤ q.2.2)) ∨
      s.get (LEG.BUSPOL_TRIG 0 (s.get (LEG.CFG_BUS k))) = 0) :
    (s.faultReport k).latches = s.latches ∧ (s.faultReport k).regs = s.regs := by
  have hne : s.get (LEG.BUSPOL_TRIG 0 (s.get (LEG.CFG_BUS k))) ≠ 1 := by omega
  cases hq : (s.get (LEG.BUSPOL_QUAL 0 (s.get (LEG.CFG_BUS k)))).testBit bit
  · rw [State.faultReport_unqualified h hq]
    exact ⟨rfl, rfl⟩
  · simp only [State.faultReport, h, State.get_setIsland, hq, Bool.not_true, Bool.false_eq_true, if_false]
    split
    · rename_i heq
      exact absurd heq hne
    · rename_i q _ heq hnear
      have htwo : s.get (LEG.BUSPOL_TRIG 0 (s.get (LEG.CFG_BUS k))) = 2 := heq
      have hfar := hr.resolve_right (by rw [htwo]; decide)
      have hmem := List.mem_filter.1 (hnear ▸ List.mem_cons_self : q ∈ List.filter _ s.polHist)
      obtain ⟨hin, hcond⟩ := hmem
      simp only [Bool.and_eq_true, beq_iff_eq, bne_iff_ne, decide_eq_true_eq] at hcond
      obtain ⟨⟨⟨hbus, hother⟩, hlo⟩, hhi⟩ := hcond
      have := hfar.2 q hin hbus
      omega
    · exact ⟨rfl, rfl⟩

end report

end Sys2Proof.Machine
end

section
/-! The statement about the supplies, drive settings, enable, fault policy and test of an island: each clause from the lemmas of
the operation it speaks of. -/

namespace Sys2Proof.Machine

/-- Settles O40: supplies and bootstrap from what their edges leave, the adaptive drive from its code, the enable and the other
writes from their judgement, the policy from the report that fires it. -/
theorem islandSuppliesAndPolicy : Obligations.IslandSuppliesAndPolicy := by
  unfold Obligations.IslandSuppliesAndPolicy
  refine ⟨⟨?_, ?_, ?_, ?_, ?_, ?_⟩, ?_, ?_, ?_, ?_, ?_, ?_, ?_, ?_⟩
  · exact fun k s hg => ⟨_, rfl, s.supGood_leaves k hg⟩
  · exact fun k neg s hg ht => ⟨_, rfl, State.supUv_leaves k.isLt neg hg ht⟩
  · intro k t0 s hc hl
    refine ⟨_, next_congr (State.bstCharged_from hc hl), ?_, rfl, fun a ha => ?_⟩
    · exact State.get_set_self _ (LEG.STAT_BST_OK k) _ (by show 5 + 1 ≤ 32; decide)
    · exact State.reg_set_of_ne _ _ _ (by simpa using ha)
  · exact fun k s hc hl => next_congr (State.bstCharged_never hc hl)
  · exact fun k s => ⟨_, rfl, State.bstLost_leaves k.isLt⟩
  · intro k kind time s tgt tol hd he ht hon hoff htgt htol
    obtain ⟨htime, hcode⟩ := State.adaptStep_leaves time kind.isLt hd he ht hon hoff
    have htgt' : s.adpTgt k kind = tgt := htgt.symm
    have htol' : s.adpTol k = tol := htol.symm
    rw [State.adpCode, htgt', htol'] at hcode
    refine ⟨_, rfl, htime, fun hfrz => ?_, fun hfrz hslow => ?_, fun hfrz hfast => ?_, fun hle hge => ?_⟩
    · rw [State.on_of_get_one hfrz, if_pos rfl] at hcode
      exact hcode
    · rw [State.on_of_get_zero hfrz, if_neg (by decide), if_pos hslow] at hcode
      exact hcode
    · rw [State.on_of_get_zero hfrz, if_neg (by decide), if_neg (by omega), if_pos hfast] at hcode
      exact hcode
    · rw [if_neg (Nat.not_lt.2 hle), if_neg (Nat.not_lt.2 hge), ite_self] at hcode
      exact hcode
  · intro k s ht hi
    refine ⟨fun h => next_congr (State.islEnable_bmode ht hi h), fun hb he _ _ => ?_, fun hb he hv hp => ?_, fun hb he hH hL => ?_⟩
    · exact ⟨_, rfl, State.islEnable_leaves k.isLt ht hi hb he⟩
    · exact ⟨_, rfl, (State.islEnable_leaves k.isLt ht hi hb he).1, State.islEnable_unsupplied k.isLt ht hi hb he hv hp⟩
    · exact ⟨_, rfl, (State.islEnable_leaves k.isLt ht hi hb he).1, State.islEnable_crossed k.isLt ht hi hb he hH hL⟩
  · exact fun k s ht hi => next_congr (State.islEnable_unfitted ht hi)
  · intro k s ht hi
    refine ⟨fun hoff hp hn hH hL => ⟨_, rfl, State.fltClr_leaves ht (State.fltClears_of hoff hp hn hH hL)⟩, fun h => ?_⟩
    exact next_congr (State.fltClr_refused ht hi (State.fltClears_not h))
  · exact fun k s h => next_congr (State.faultReport_none h)
  · rintro k bit t0 b l s h rfl
    refine ⟨fun hq => next_congr (State.faultReport_unqualified h hq), fun hq htrig => ?_, fun hr => ?_⟩
    · obtain ⟨u, hu, hbus⟩ := State.faultReport_fires h hq htrig
      exact ⟨_, next_congr hu, u.policyFire_leaves k.isLt hbus⟩
    · exact ⟨_, rfl, State.faultReport_rests h hr⟩
  · exact fun k high t0 s hs hon hl => ⟨_, rfl, State.slotOff_leaves hs hon hl⟩
  · intro k s ht hi
    exact ⟨fun hidle => ⟨_, rfl, State.islTest_leaves ht hi hidle⟩, fun hidle => next_congr (State.islTest_refused ht hi hidle)⟩
  · intro k f s h
    have hbst := State.islTestDone_leaves f.toNat h
    have hdone : (s.islTestDone k f.toNat).get (LEG.STAT_TESTING k) = 0 :=
      (hbst.2 (by simp only [LEG.page]; omega) (by simp)).trans (s.testResults_leaves k _ _).1
    exact ⟨_, rfl, hdone, hbst.1, State.islTestDone_whole f h, State.islTestDone_partial f.toNat h⟩

end Sys2Proof.Machine
end
